-- ==== Sys2Proof/Word.lean ====
section
/-! DEFINITION. The machine's words (R3, R4, R41, R69): names for the widths the manual uses. -/

namespace Sys2Proof

/-- A byte of memory (R4). -/
abbrev Byte := BitVec 8

/-- A scalar register's bits (R69). -/
abbrev Word := BitVec 64

/-- A vector lane's bits (R42). -/
abbrev Lane := BitVec 32

/-- A vector register's 1,024 bits (R42). -/
abbrev VBits := BitVec 1024

end Sys2Proof
end

