-- ==== Sys2Proof/Syntax.lean ====
section
/-! DEFINITION. The syntax: one constructor for every row of the opcode table, instructions first (their operand fields
as R61 lays them out), then the module's steps that are no instruction words (each with the data that names it). -/

namespace Sys2Proof

/-- The three engines of a core (R2, R164). -/
inductive EngId where
  | l | c | s
  deriving DecidableEq, Repr, Inhabited

/-- The two copy queues of a core (R117). -/
inductive QSel where
  | load | store
  deriving DecidableEq, Repr

/-- A core: its isle's site index and its core number (R8, R18). -/
structure CoreId where
  isle : Nat
  core : Nat
  deriving DecidableEq, Repr, Inhabited

/-- What a memory array's check reports on a read (R105, R144): a physical input of the step. -/
inductive Ecc where
  | clean | corrected | uncorrectable
  deriving DecidableEq, Repr

/-- A participant of the rounds of one tag in one wave (R253). -/
structure Participant where
  wave : Nat
  tag : Nat
  task : Nat
  iter : Nat
  eng : EngId
  deriving DecidableEq, Repr

/-- What the harbour does to an elastic launch at a boundary (R331). -/
inductive Elastic where
  | keep
  | grow (n : Nat)
  | shrink (n : Nat)
  deriving DecidableEq, Repr

/-- What meets an uncorrectable error of a core's memory (R144, R217, R225): an engine's instruction, a copy command, or the
array at a tile of a landing slot. -/
inductive FaultUnit where
  | eng (e : EngId)
  | command (uid : Nat)
  | tile (slot : Nat)
  deriving DecidableEq, Repr

/-- Where an uncorrectable error or a unit fault is detected (R369). -/
inductive FaultSite where
  | localMem (co : CoreId) (unit : FaultUnit) (off : Nat)
  | accMem (co : CoreId) (unit : FaultUnit) (off : Nat)
  | queueParity (co : CoreId) (eng : EngId) (q : Nat)
  | landingBuffer (co : CoreId) (slot : Nat)
  | hbmLine (pa : Nat)
  | hbmCells (pa : Nat) (uncorrectable : Bool)
  | streamSram (site off : Nat)
  | isleUnit (isle : Nat)
  | transit (isle : Nat)
  | causeway (site port : Nat)
  | quaySram (quay addr : Nat)
  deriving DecidableEq, Repr

/-- A unit that trains at bring-up (R395). -/
inductive TrainUnit where
  | slice (site slice : Nat)
  | causeway (site port : Nat)
  | strait (port : Nat)
  deriving DecidableEq, Repr

/-- The Svaulo instructions (R68) and the module's steps, one constructor a row of the opcode table. -/
inductive Instr where
  /-- `nop`, R173. -/
  | nop
  /-- `br`, R173. -/
  | br (cnd : BitVec 4) (a b : BitVec 6) (disp : BitVec 32)
  /-- `jmp`, R173. -/
  | jmp (disp : BitVec 32)
  /-- `jmpi`, R173. -/
  | jmpi (a : BitVec 6) (imm : BitVec 32)
  /-- `call`, R173. -/
  | call (disp : BitVec 32)
  /-- `calli`, R173. -/
  | calli (a : BitVec 6) (imm : BitVec 32)
  /-- `ret`, R173. -/
  | ret
  /-- `loop`, R175. -/
  | loopLc (lc : BitVec 2) (disp : BitVec 32)
  /-- `loop`, R178. -/
  | loopNest (disp : BitVec 32)
  /-- `lset`, R173. -/
  | lset (lc : BitVec 2) (a : BitVec 6) (imm : BitVec 32)
  /-- `rep`, R176. -/
  | rep (n : BitVec 12) (sd s1 s2 s3 : BitVec 6) (soff : BitVec 28)
  /-- `lnest`, R178. -/
  | lnest (cb : BitVec 4) (x : BitVec 6) (sc : BitVec 3) (off : BitVec 32)
  /-- `brq`, R172. -/
  | brq (disp : BitVec 32) (n : BitVec 1)
  /-- `pushbq`, R172. -/
  | pushbq (cnd : BitVec 4) (a b : BitVec 6)
  /-- `defer`, R180. -/
  | defer (va : BitVec 6) (mk : BitVec 3) (cnt : BitVec 4) (tag : BitVec 2)
  /-- `drain`, R181. -/
  | drain (a vb : BitVec 6) (disp : BitVec 32) (tag : BitVec 2)
  /-- `post`, R171. -/
  | post (k : BitVec 4)
  /-- `await`, R171. -/
  | await (k : BitVec 4)
  /-- `kget`, R171. -/
  | kget (d : BitVec 6) (k : BitVec 4)
  /-- `trap`, R367. -/
  | trap (a : BitVec 6) (imm : BitVec 32)
  /-- `brk`, R367. -/
  | brk (imm : BitVec 32)
  /-- `csrr`, R368. -/
  | csrr (d : BitVec 6) (csr : BitVec 16)
  /-- `csrw`, R368. -/
  | csrw (a : BitVec 6) (csr : BitVec 16)
  /-- `fence.core`, R292. -/
  | fenceCore
  /-- `fence.isle`, R292. -/
  | fenceIsle
  /-- `fence.mod`, R292. -/
  | fenceMod
  /-- `fence.sys`, R292. -/
  | fenceSys
  /-- `done`, R166. -/
  | doneOp
  /-- `dbar`, R328. -/
  | dbar (lv : BitVec 8)
  /-- `dbar.a`, R328. -/
  | dbarA (d : BitVec 6) (lv : BitVec 8)
  /-- `dbar.w`, R328. -/
  | dbarW (a : BitVec 6) (lv : BitVec 8)
  /-- `await.mem`, R266. -/
  | awaitMem (d : BitVec 6) (cb : BitVec 4) (x : BitVec 6) (sc : BitVec 3) (off : BitVec 32)
  /-- `add`, R186. -/
  | add (d a b : BitVec 6)
  /-- `sub`, R186. -/
  | sub (d a b : BitVec 6)
  /-- `addi`, R186. -/
  | addi (d a : BitVec 6) (imm : BitVec 64)
  /-- `li`, R186. -/
  | li (d : BitVec 6) (imm : BitVec 64)
  /-- `mov`, R186. -/
  | mov (d a : BitVec 6)
  /-- `mul`, R186. -/
  | mul (d a b : BitVec 6)
  /-- `mulh.s`, R186. -/
  | mulhS (d a b : BitVec 6)
  /-- `mulh.z`, R186. -/
  | mulhZ (d a b : BitVec 6)
  /-- `mad`, R186. -/
  | mad (d a b c : BitVec 6)
  /-- `div.s`, R187. -/
  | divS (d a b : BitVec 6)
  /-- `div.z`, R187. -/
  | divZ (d a b : BitVec 6)
  /-- `rem.s`, R187. -/
  | remS (d a b : BitVec 6)
  /-- `rem.z`, R187. -/
  | remZ (d a b : BitVec 6)
  /-- `and`, R186. -/
  | and (d a b : BitVec 6)
  /-- `or`, R186. -/
  | or (d a b : BitVec 6)
  /-- `xor`, R186. -/
  | xor (d a b : BitVec 6)
  /-- `andn`, R186. -/
  | andn (d a b : BitVec 6)
  /-- `shl`, R186. -/
  | shl (d a b : BitVec 6)
  /-- `shr.z`, R186. -/
  | shrZ (d a b : BitVec 6)
  /-- `shr.s`, R186. -/
  | shrS (d a b : BitVec 6)
  /-- `rotl`, R186. -/
  | rotl (d a b : BitVec 6)
  /-- `clz`, R186. -/
  | clz (d a : BitVec 6)
  /-- `ctz`, R186. -/
  | ctz (d a : BitVec 6)
  /-- `popc`, R186. -/
  | popc (d a : BitVec 6)
  /-- `min.s`, R186. -/
  | minS (d a b : BitVec 6)
  /-- `min.z`, R186. -/
  | minZ (d a b : BitVec 6)
  /-- `max.s`, R186. -/
  | maxS (d a b : BitVec 6)
  /-- `max.z`, R186. -/
  | maxZ (d a b : BitVec 6)
  /-- `sel`, R188. -/
  | sel (d a b : BitVec 6) (c : BitVec 3)
  /-- `cmp`, R188. -/
  | cmp (cnd : BitVec 4) (d : BitVec 3) (a b : BitVec 6)
  /-- `cmpi`, R188. -/
  | cmpi (cnd : BitVec 4) (d : BitVec 3) (a : BitVec 6) (imm : BitVec 60)
  /-- `pmix`, R188. -/
  | pmix (d a b : BitVec 3) (t : BitVec 4)
  /-- `ext.s8`, R186. -/
  | extS8 (d a : BitVec 6)
  /-- `ext.s16`, R186. -/
  | extS16 (d a : BitVec 6)
  /-- `ext.s32`, R186. -/
  | extS32 (d a : BitVec 6)
  /-- `ext.z8`, R186. -/
  | extZ8 (d a : BitVec 6)
  /-- `ext.z16`, R186. -/
  | extZ16 (d a : BitVec 6)
  /-- `ext.z32`, R186. -/
  | extZ32 (d a : BitVec 6)
  /-- `adds.s64`, R186. -/
  | addsS64 (d a b : BitVec 6)
  /-- `bfx`, R189. -/
  | bfx (d a pos : BitVec 6) (len : BitVec 7) (sx : BitVec 1)
  /-- `bfi`, R189. -/
  | bfi (d a pos : BitVec 6) (len : BitVec 7)
  /-- `rnd`, R190. -/
  | rnd (d a b c : BitVec 6) (w : BitVec 2)
  /-- `cmov`, R85. -/
  | cmov (d a : BitVec 4)
  /-- `cinc`, R85. -/
  | cinc (d a : BitVec 4) (b : BitVec 6)
  /-- `cinci`, R85. -/
  | cinci (d a : BitVec 4) (imm : BitVec 64)
  /-- `cbound`, R86. -/
  | cbound (d a : BitVec 4) (b : BitVec 6)
  /-- `cperm`, R85. -/
  | cperm (d a : BitVec 4) (mask : BitVec 12)
  /-- `cgetb`, R85. -/
  | cgetb (d : BitVec 6) (a : BitVec 4)
  /-- `cgetl`, R85. -/
  | cgetl (d : BitVec 6) (a : BitVec 4)
  /-- `cgeto`, R85. -/
  | cgeto (d : BitVec 6) (a : BitVec 4)
  /-- `cgetp`, R85. -/
  | cgetp (d : BitVec 6) (a : BitVec 4)
  /-- `ctest`, R85. -/
  | ctest (d : BitVec 3) (a : BitVec 4)
  /-- `cle`, R85. -/
  | cle (d : BitVec 3) (a b : BitVec 4)
  /-- `cclr`, R85. -/
  | cclr (d : BitVec 4)
  /-- `caddr`, R85. -/
  | caddr (d a : BitVec 4) (b : BitVec 6)
  /-- `cld`, R87. -/
  | cld (d cb : BitVec 4) (x : BitVec 6) (sc : BitVec 3) (off : BitVec 32)
  /-- `cst`, R87. -/
  | cst (d cb : BitVec 4) (x : BitVec 6) (sc : BitVec 3) (off : BitVec 32)
  /-- `cfoot`, R88. -/
  | cfoot (d : BitVec 4) (k : BitVec 3)
  /-- `ld.s8`, R148. -/
  | ldS8 (d : BitVec 6) (cb : BitVec 4) (x : BitVec 6) (sc : BitVec 3) (off : BitVec 32)
  /-- `ld.z8`, R148. -/
  | ldZ8 (d : BitVec 6) (cb : BitVec 4) (x : BitVec 6) (sc : BitVec 3) (off : BitVec 32)
  /-- `ld.s16`, R148. -/
  | ldS16 (d : BitVec 6) (cb : BitVec 4) (x : BitVec 6) (sc : BitVec 3) (off : BitVec 32)
  /-- `ld.z16`, R148. -/
  | ldZ16 (d : BitVec 6) (cb : BitVec 4) (x : BitVec 6) (sc : BitVec 3) (off : BitVec 32)
  /-- `ld.s32`, R148. -/
  | ldS32 (d : BitVec 6) (cb : BitVec 4) (x : BitVec 6) (sc : BitVec 3) (off : BitVec 32)
  /-- `ld.z32`, R148. -/
  | ldZ32 (d : BitVec 6) (cb : BitVec 4) (x : BitVec 6) (sc : BitVec 3) (off : BitVec 32)
  /-- `ld.64`, R148. -/
  | ld64 (d : BitVec 6) (cb : BitVec 4) (x : BitVec 6) (sc : BitVec 3) (off : BitVec 32)
  /-- `st.8`, R148. -/
  | st8 (d : BitVec 6) (cb : BitVec 4) (x : BitVec 6) (sc : BitVec 3) (off : BitVec 32)
  /-- `st.16`, R148. -/
  | st16 (d : BitVec 6) (cb : BitVec 4) (x : BitVec 6) (sc : BitVec 3) (off : BitVec 32)
  /-- `st.32`, R148. -/
  | st32 (d : BitVec 6) (cb : BitVec 4) (x : BitVec 6) (sc : BitVec 3) (off : BitVec 32)
  /-- `st.64`, R148. -/
  | st64 (d : BitVec 6) (cb : BitVec 4) (x : BitVec 6) (sc : BitVec 3) (off : BitVec 32)
  /-- `vld`, R148. -/
  | vld (d : BitVec 6) (cb : BitVec 4) (x : BitVec 6) (sc : BitVec 3) (off : BitVec 32)
  /-- `vst`, R148. -/
  | vst (d : BitVec 6) (cb : BitVec 4) (x : BitVec 6) (sc : BitVec 3) (off : BitVec 32)
  /-- `vld.bc`, R148. -/
  | vldBc (d : BitVec 6) (cb : BitVec 4) (x : BitVec 6) (sc : BitVec 3) (off : BitVec 32)
  /-- `vgath`, R149. -/
  | vgath (d : BitVec 6) (cb : BitVec 4) (x : BitVec 6) (sc : BitVec 3) (off : BitVec 32)
  /-- `vscat`, R149. -/
  | vscat (d : BitVec 6) (cb : BitVec 4) (x : BitVec 6) (sc : BitVec 3) (off : BitVec 32)
  /-- `ldfe.w`, R150. -/
  | ldfeW (d : BitVec 6) (cb : BitVec 4) (x : BitVec 6) (sc : BitVec 3) (off : BitVec 32)
  /-- `ldfe.c`, R150. -/
  | ldfeC (d : BitVec 6) (cb : BitVec 4) (x : BitVec 6) (sc : BitVec 3) (off : BitVec 32)
  /-- `vldfe.w`, R150. -/
  | vldfeW (d : BitVec 6) (cb : BitVec 4) (x : BitVec 6) (sc : BitVec 3) (off : BitVec 32)
  /-- `vldfe.c`, R150. -/
  | vldfeC (d : BitVec 6) (cb : BitVec 4) (x : BitVec 6) (sc : BitVec 3) (off : BitVec 32)
  /-- `fset`, R151. -/
  | fset (d : BitVec 6) (cb : BitVec 4) (x : BitVec 6) (sc : BitVec 3) (off : BitVec 32)
  /-- `fclr`, R151. -/
  | fclr (d : BitVec 6) (cb : BitVec 4) (x : BitVec 6) (sc : BitVec 3) (off : BitVec 32)
  /-- `ftest`, R151. -/
  | ftest (d : BitVec 3) (cb : BitVec 4) (x : BitVec 6) (sc : BitVec 3) (off : BitVec 32)
  /-- `ldn`, R152. -/
  | ldn (d : BitVec 6) (cb : BitVec 4) (x : BitVec 6) (sc : BitVec 3) (off : BitVec 32) (land : BitVec 6)
  /-- `vldn`, R152. -/
  | vldn (d : BitVec 6) (cb : BitVec 4) (x : BitVec 6) (sc : BitVec 3) (off : BitVec 32) (land : BitVec 6)
  /-- `xget`, R133. -/
  | xget (cd : BitVec 4) (ob : BitVec 6) (cs : BitVec 4) (oa len : BitVec 6) (ch : BitVec 4) (tb : BitVec 12)
  /-- `xput`, R133. -/
  | xput (cd : BitVec 4) (ob : BitVec 6) (cs : BitVec 4) (oa len : BitVec 6) (ch : BitVec 4) (tb : BitVec 12) (vs : BitVec 3)
  /-- `xmove`, R133. -/
  | xmove (cd : BitVec 4) (ob : BitVec 6) (cs : BitVec 4) (oa len : BitVec 6) (ch : BitVec 4) (tb : BitVec 12) (vs : BitVec 3)
  /-- `xgat`, R134. -/
  | xgat (cd : BitVec 4) (ob : BitVec 6) (cs : BitVec 4) (oa len v w : BitVec 6) (ch : BitVec 4) (tb : BitVec 12)
  /-- `xsct`, R134. -/
  | xsct (cd : BitVec 4) (ob : BitVec 6) (cs : BitVec 4) (oa len v w : BitVec 6) (ch : BitVec 4) (tb : BitVec 12) (vs : BitVec 3)
  /-- `xget2d`, R133. -/
  | xget2d (cd : BitVec 4) (ob w : BitVec 6) (cs : BitVec 4) (oa v len : BitVec 6) (ch : BitVec 4) (tb : BitVec 12) (rows : BitVec 13)
  /-- `xput2d`, R133. -/
  | xput2d (cd : BitVec 4) (ob w : BitVec 6) (cs : BitVec 4) (oa v len : BitVec 6) (ch : BitVec 4) (tb : BitVec 12) (rows : BitVec 13) (vs : BitVec 3)
  /-- `xfill`, R135. -/
  | xfill (cd : BitVec 4) (ob v len : BitVec 6) (ch : BitVec 4) (tb : BitVec 12) (vs : BitVec 3)
  /-- `xacc.add.s32`, R248. -/
  | xaccAddS32 (cd : BitVec 4) (ob : BitVec 6) (cs : BitVec 4) (oa len : BitVec 6) (ch : BitVec 4)
  /-- `xacc.add.s64`, R248. -/
  | xaccAddS64 (cd : BitVec 4) (ob : BitVec 6) (cs : BitVec 4) (oa len : BitVec 6) (ch : BitVec 4)
  /-- `xacc.add.f32`, R248. -/
  | xaccAddF32 (cd : BitVec 4) (ob : BitVec 6) (cs : BitVec 4) (oa len : BitVec 6) (ch : BitVec 4) (rt : BitVec 12)
  /-- `xacc.min.s32`, R248. -/
  | xaccMinS32 (cd : BitVec 4) (ob : BitVec 6) (cs : BitVec 4) (oa len : BitVec 6) (ch : BitVec 4)
  /-- `xacc.max.s32`, R248. -/
  | xaccMaxS32 (cd : BitVec 4) (ob : BitVec 6) (cs : BitVec 4) (oa len : BitVec 6) (ch : BitVec 4)
  /-- `xacc.min.f32`, R248. -/
  | xaccMinF32 (cd : BitVec 4) (ob : BitVec 6) (cs : BitVec 4) (oa len : BitVec 6) (ch : BitVec 4)
  /-- `xacc.max.f32`, R248. -/
  | xaccMaxF32 (cd : BitVec 4) (ob : BitVec 6) (cs : BitVec 4) (oa len : BitVec 6) (ch : BitVec 4)
  /-- `xacc.and`, R248. -/
  | xaccAnd (cd : BitVec 4) (ob : BitVec 6) (cs : BitVec 4) (oa len : BitVec 6) (ch : BitVec 4)
  /-- `xacc.or`, R248. -/
  | xaccOr (cd : BitVec 4) (ob : BitVec 6) (cs : BitVec 4) (oa len : BitVec 6) (ch : BitVec 4)
  /-- `xacc.xor`, R248. -/
  | xaccXor (cd : BitVec 4) (ob : BitVec 6) (cs : BitVec 4) (oa len : BitVec 6) (ch : BitVec 4)
  /-- `xfadd.s32`, R250. -/
  | xfaddS32 (cd : BitVec 4) (ob v : BitVec 6) (cl : BitVec 4) (ol : BitVec 6) (ch : BitVec 4) (tb rt : BitVec 12)
  /-- `xfadd.s64`, R250. -/
  | xfaddS64 (cd : BitVec 4) (ob v : BitVec 6) (cl : BitVec 4) (ol : BitVec 6) (ch : BitVec 4) (tb rt : BitVec 12)
  /-- `xswp`, R250. -/
  | xswp (cd : BitVec 4) (ob v : BitVec 6) (cl : BitVec 4) (ol : BitVec 6) (ch : BitVec 4) (tb rt : BitVec 12)
  /-- `xcas`, R250. -/
  | xcas (cd : BitVec 4) (ob v w : BitVec 6) (cl : BitVec 4) (ol : BitVec 6) (ch : BitVec 4) (tb rt : BitVec 12)
  /-- `xcas.go`, R261. -/
  | xcasGo (cd : BitVec 4) (ob v w : BitVec 6) (cl : BitVec 4) (ol : BitVec 6) (ch : BitVec 4) (tb task rt : BitVec 12)
  /-- `xclose`, R255. -/
  | xclose (ch : BitVec 4) (rt : BitVec 12)
  /-- `xwait.in`, R136. -/
  | xwaitIn (v : BitVec 6) (ch : BitVec 4)
  /-- `xwait.rel`, R136. -/
  | xwaitRel (v : BitVec 6) (ch : BitVec 4)
  /-- `xwait.vis`, R136. -/
  | xwaitVis (v : BitVec 6) (ch : BitVec 4)
  /-- `xid`, R137. -/
  | xid (v : BitVec 6) (ch : BitVec 4) (aux : BitVec 3)
  /-- `xorder`, R138. -/
  | xorder
  /-- `vadd.f32`, R193. -/
  | vaddF32 (vd va vb : BitVec 6) (mk : BitVec 3)
  /-- `vsub.f32`, R193. -/
  | vsubF32 (vd va vb : BitVec 6) (mk : BitVec 3)
  /-- `vmul.f32`, R193. -/
  | vmulF32 (vd va vb : BitVec 6) (mk : BitVec 3)
  /-- `vfma.f32`, R193. -/
  | vfmaF32 (vd va vb vc : BitVec 6) (mk : BitVec 3)
  /-- `vfms.f32`, R193. -/
  | vfmsF32 (vd va vb vc : BitVec 6) (mk : BitVec 3)
  /-- `vfnma.f32`, R193. -/
  | vfnmaF32 (vd va vb vc : BitVec 6) (mk : BitVec 3)
  /-- `vmin.f32`, R49. -/
  | vminF32 (vd va vb : BitVec 6) (mk : BitVec 3)
  /-- `vmax.f32`, R49. -/
  | vmaxF32 (vd va vb : BitVec 6) (mk : BitVec 3)
  /-- `vabs.f32`, R193. -/
  | vabsF32 (vd va : BitVec 6) (mk : BitVec 3)
  /-- `vneg.f32`, R193. -/
  | vnegF32 (vd va : BitVec 6) (mk : BitVec 3)
  /-- `vdiv.f32`, R193. -/
  | vdivF32 (vd va vb : BitVec 6) (mk : BitVec 3)
  /-- `vsqrt.f32`, R193. -/
  | vsqrtF32 (vd va : BitVec 6) (mk : BitVec 3)
  /-- `vrcp.f32`, R194. -/
  | vrcpF32 (vd va : BitVec 6) (mk : BitVec 3)
  /-- `vrsqrt.f32`, R194. -/
  | vrsqrtF32 (vd va : BitVec 6) (mk : BitVec 3)
  /-- `vexp2.f32`, R194. -/
  | vexp2F32 (vd va : BitVec 6) (mk : BitVec 3)
  /-- `vlog2.f32`, R194. -/
  | vlog2F32 (vd va : BitVec 6) (mk : BitVec 3)
  /-- `vsinpi.f32`, R194. -/
  | vsinpiF32 (vd va : BitVec 6) (mk : BitVec 3)
  /-- `vcospi.f32`, R194. -/
  | vcospiF32 (vd va : BitVec 6) (mk : BitVec 3)
  /-- `vtanh.f32`, R194. -/
  | vtanhF32 (vd va : BitVec 6) (mk : BitVec 3)
  /-- `vrrpi`, R195. -/
  | vrrpi (vd va : BitVec 6) (mk : BitVec 3)
  /-- `vfloor.f32`, R195. -/
  | vfloorF32 (vd va : BitVec 6) (mk : BitVec 3)
  /-- `vrint.f32`, R195. -/
  | vrintF32 (vd va : BitVec 6) (mk : BitVec 3)
  /-- `vcmp.f32`, R196. -/
  | vcmpF32 (cc : BitVec 4) (md : BitVec 3) (va vb : BitVec 6) (mk : BitVec 3)
  /-- `vclass.f32`, R196. -/
  | vclassF32 (vd va : BitVec 6) (mk : BitVec 3)
  /-- `vadd.bf16`, R197. -/
  | vaddBf16 (vd va vb : BitVec 6) (mk : BitVec 3)
  /-- `vmul.bf16`, R197. -/
  | vmulBf16 (vd va vb : BitVec 6) (mk : BitVec 3)
  /-- `vfma.bf16`, R197. -/
  | vfmaBf16 (vd va vb vc : BitVec 6) (mk : BitVec 3)
  /-- `vadd.s32`, R198. -/
  | vaddS32 (vd va vb : BitVec 6) (mk : BitVec 3)
  /-- `vsub.s32`, R198. -/
  | vsubS32 (vd va vb : BitVec 6) (mk : BitVec 3)
  /-- `vmul.s32`, R198. -/
  | vmulS32 (vd va vb : BitVec 6) (mk : BitVec 3)
  /-- `vmad.s16`, R198. -/
  | vmadS16 (vd va vb vc : BitVec 6) (mk : BitVec 3)
  /-- `vadds.s32`, R198. -/
  | vaddsS32 (vd va vb : BitVec 6) (mk : BitVec 3)
  /-- `vsubs.s32`, R198. -/
  | vsubsS32 (vd va vb : BitVec 6) (mk : BitVec 3)
  /-- `vmin.s32`, R198. -/
  | vminS32 (vd va vb : BitVec 6) (mk : BitVec 3)
  /-- `vmax.s32`, R198. -/
  | vmaxS32 (vd va vb : BitVec 6) (mk : BitVec 3)
  /-- `vmin.z32`, R198. -/
  | vminZ32 (vd va vb : BitVec 6) (mk : BitVec 3)
  /-- `vmax.z32`, R198. -/
  | vmaxZ32 (vd va vb : BitVec 6) (mk : BitVec 3)
  /-- `vand`, R198. -/
  | vand (vd va vb : BitVec 6) (mk : BitVec 3)
  /-- `vor`, R198. -/
  | vor (vd va vb : BitVec 6) (mk : BitVec 3)
  /-- `vxor`, R198. -/
  | vxor (vd va vb : BitVec 6) (mk : BitVec 3)
  /-- `vshl`, R198. -/
  | vshl (vd va vb : BitVec 6) (mk : BitVec 3)
  /-- `vshl`, R198. -/
  | vshlImm (vd va : BitVec 6) (n : BitVec 5) (mk : BitVec 3)
  /-- `vshr.z`, R198. -/
  | vshrZ (vd va vb : BitVec 6) (mk : BitVec 3)
  /-- `vshr.z`, R198. -/
  | vshrZImm (vd va : BitVec 6) (n : BitVec 5) (mk : BitVec 3)
  /-- `vshr.s`, R198. -/
  | vshrS (vd va vb : BitVec 6) (mk : BitVec 3)
  /-- `vshr.s`, R198. -/
  | vshrSImm (vd va : BitVec 6) (n : BitVec 5) (mk : BitVec 3)
  /-- `vcmp.s32`, R196. -/
  | vcmpS32 (cc : BitVec 4) (md : BitVec 3) (va vb : BitVec 6) (mk : BitVec 3)
  /-- `vcmp.z32`, R196. -/
  | vcmpZ32 (cc : BitVec 4) (md : BitVec 3) (va vb : BitVec 6) (mk : BitVec 3)
  /-- `vsel`, R198. -/
  | vsel (vd va vb : BitVec 6) (mk : BitVec 3)
  /-- `vmask`, R198. -/
  | vmask (md ma mb : BitVec 3) (t : BitVec 4)
  /-- `vcvt.f32.s32`, R199. -/
  | vcvtF32S32 (vd va : BitVec 6) (mk : BitVec 3)
  /-- `vcvt.s32.f32.rne`, R45. -/
  | vcvtS32F32Rne (vd va : BitVec 6) (mk : BitVec 3)
  /-- `vcvt.s32.f32.rz`, R45. -/
  | vcvtS32F32Rz (vd va : BitVec 6) (mk : BitVec 3)
  /-- `vcvt.bf16.f32`, R199. -/
  | vcvtBf16F32 (vd va vb : BitVec 6)
  /-- `vcvt.f32.bf16`, R199. -/
  | vcvtF32Bf16 (vd va : BitVec 6) (h : BitVec 1) (mk : BitVec 3)
  /-- `vcvt.e4m3.f32`, R45. -/
  | vcvtE4m3F32 (vd va : BitVec 6) (q : BitVec 2)
  /-- `vcvt.e4m3.f32.nv`, R45. -/
  | vcvtE4m3F32Nv (vd va : BitVec 6) (q : BitVec 2)
  /-- `vcvt.e5m2.f32`, R45. -/
  | vcvtE5m2F32 (vd va : BitVec 6) (q : BitVec 2)
  /-- `vcvt.f32.e4m3`, R199. -/
  | vcvtF32E4m3 (vd va : BitVec 6) (q : BitVec 2) (mk : BitVec 3)
  /-- `vcvt.f32.e5m2`, R199. -/
  | vcvtF32E5m2 (vd va : BitVec 6) (q : BitVec 2) (mk : BitVec 3)
  /-- `vqmx4`, R200. -/
  | vqmx4 (vd vb va : BitVec 6) (s : BitVec 3)
  /-- `vqmx8`, R200. -/
  | vqmx8 (vd vb va : BitVec 6) (q : BitVec 2)
  /-- `vdqmx4`, R199. -/
  | vdqmx4 (vd va vb : BitVec 6) (s mk : BitVec 3)
  /-- `vxp.s4`, R199. -/
  | vxpS4 (vd va : BitVec 6) (s mk : BitVec 3)
  /-- `vxp.ocp4`, R47. -/
  | vxpOcp4 (vd va : BitVec 6) (s : BitVec 3) (q : BitVec 2)
  /-- `vcvt.bfp.f32`, R44. -/
  | vcvtBfpF32 (vd va : BitVec 6)
  /-- `vcvt.f32.bfp`, R44. -/
  | vcvtF32Bfp (vd va : BitVec 6) (mk : BitVec 3)
  /-- `vperm`, R201. -/
  | vperm (vd va vb : BitVec 6) (mk : BitVec 3)
  /-- `vswp.pair`, R201. -/
  | vswpPair (vd va : BitVec 6) (f : BitVec 2) (mk : BitVec 3)
  /-- `vrot`, R201. -/
  | vrot (vd va : BitVec 6) (n : BitVec 5) (mk : BitVec 3)
  /-- `vbc`, R201. -/
  | vbc (vd va : BitVec 6) (n : BitVec 5) (mk : BitVec 3)
  /-- `vext`, R201. -/
  | vext (d va : BitVec 6) (n : BitVec 5)
  /-- `vext`, R201. -/
  | vextMask (d : BitVec 6) (ma : BitVec 3)
  /-- `vins`, R201. -/
  | vins (vd a : BitVec 6) (n : BitVec 5)
  /-- `vins`, R201. -/
  | vinsMask (md : BitVec 3) (a : BitVec 6)
  /-- `vli`, R201. -/
  | vli (vd : BitVec 6) (imm : BitVec 32)
  /-- `vmov`, R201. -/
  | vmov (vd va : BitVec 6) (mk : BitVec 3)
  /-- `vred.add.f32`, R202. -/
  | vredAddF32 (vd va : BitVec 6) (mk : BitVec 3)
  /-- `vred.max.f32`, R202. -/
  | vredMaxF32 (vd va : BitVec 6) (mk : BitVec 3)
  /-- `vred.add.s32`, R202. -/
  | vredAddS32 (vd va : BitVec 6) (mk : BitVec 3)
  /-- `vscan.add.s32`, R203. -/
  | vscanAddS32 (vd va : BitVec 6) (mk : BitVec 3)
  /-- `vpack.s16`, R203. -/
  | vpackS16 (vd va vb : BitVec 6)
  /-- `vunpk.s16`, R203. -/
  | vunpkS16 (vd va : BitVec 6) (h : BitVec 1) (mk : BitVec 3)
  /-- `vcnt.m`, R203. -/
  | vcntM (d : BitVec 6) (ma : BitVec 3)
  /-- `vcomp`, R203. -/
  | vcomp (vd va : BitVec 6) (mk : BitVec 3)
  /-- `vexpd`, R203. -/
  | vexpd (vd va : BitVec 6) (mk : BitVec 3)
  /-- `lease`, R218. -/
  | lease (n : BitVec 7)
  /-- `unlease`, R218. -/
  | unlease
  /-- `tload`, R224. -/
  | tload (ab : BitVec 6) (prof rows : BitVec 8)
  /-- `tmma`, R225. -/
  | tmma (slot : BitVec 4) (aa ab : BitVec 6) (prof rows land : BitVec 8) (cops : BitVec 32)
  /-- `tmma.ga`, R226. -/
  | tmmaGa (slot : BitVec 4) (aa ab : BitVec 6) (prof rows land : BitVec 8) (cops : BitVec 32)
  /-- `tzero`, R227. -/
  | tzero (slot : BitVec 4) (rows : BitVec 8)
  /-- `tacc.rd`, R227. -/
  | taccRd (vd : BitVec 6) (c : BitVec 8) (clr : BitVec 1) (mk : BitVec 3)
  /-- `tacc.wr`, R227. -/
  | taccWr (va : BitVec 6) (c : BitVec 8) (mk : BitVec 3)
  /-- `tshape`, R228. -/
  | tshape (d a : BitVec 6) (prof : BitVec 8)
  /-- `ftset`, R222. -/
  | ftset (d : BitVec 4) (a : BitVec 6)
  /-- `ftget`, R222. -/
  | ftget (d : BitVec 6) (a : BitVec 4)
  /-- `tcal`, R229. -/
  | tcal (d : BitVec 6) (segs : BitVec 4)
  /-- `rmin.f32`, R238. -/
  | rminF32 (vd va vb vc : BitVec 6) (mk : BitVec 3) (k : BitVec 7) (land : BitVec 8)
  /-- `rmax.f32`, R238. -/
  | rmaxF32 (vd va vb vc : BitVec 6) (mk : BitVec 3) (k : BitVec 7) (land : BitVec 8)
  /-- `rmin.s32`, R238. -/
  | rminS32 (vd va vb vc : BitVec 6) (mk : BitVec 3) (k : BitVec 7) (land : BitVec 8)
  /-- `rmax.s32`, R238. -/
  | rmaxS32 (vd va vb vc : BitVec 6) (mk : BitVec 3) (k : BitVec 7) (land : BitVec 8)
  /-- `rsort.f32`, R238. -/
  | rsortF32 (vd va vb vc : BitVec 6) (mk : BitVec 3) (k : BitVec 7) (land : BitVec 8)
  /-- `rsortd.f32`, R238. -/
  | rsortdF32 (vd va vb vc : BitVec 6) (mk : BitVec 3) (k : BitVec 7) (land : BitVec 8)
  /-- `rsort.s32`, R238. -/
  | rsortS32 (vd va vb vc : BitVec 6) (mk : BitVec 3) (k : BitVec 7) (land : BitVec 8)
  /-- `rtopk.f32`, R238. -/
  | rtopkF32 (vd va vb vc : BitVec 6) (mk : BitVec 3) (k : BitVec 7) (land : BitVec 8)
  /-- `rbotk.f32`, R238. -/
  | rbotkF32 (vd va vb vc : BitVec 6) (mk : BitVec 3) (k : BitVec 7) (land : BitVec 8)
  /-- `rtopk.s32`, R238. -/
  | rtopkS32 (vd va vb vc : BitVec 6) (mk : BitVec 3) (k : BitVec 7) (land : BitVec 8)
  /-- `rmerge.f32`, R239. -/
  | rmergeF32 (vd va vb vc : BitVec 6) (mk : BitVec 3) (k : BitVec 7) (land : BitVec 8)
  /-- `rmergd.f32`, R239. -/
  | rmergdF32 (vd va vb vc : BitVec 6) (mk : BitVec 3) (k : BitVec 7) (land : BitVec 8)
  /-- `rknn.f32`, R240. -/
  | rknnF32 (vd va vb vc : BitVec 6) (mk : BitVec 3) (k : BitVec 7) (land : BitVec 8)
  /-- `tbinit`, R160. -/
  | tbinit (a : BitVec 6) (n : BitVec 12) (nl nc ns : BitVec 4)
  /-- `tbexpect`, R161. -/
  | tbexpect (a : BitVec 6) (n : BitVec 12)
  /-- `tbarrive`, R159. -/
  | tbarrive (d a : BitVec 6) (n : BitVec 12) (p : BitVec 1)
  /-- `tbwait`, R162. -/
  | tbwait (a : BitVec 6) (n : BitVec 12)
  /-- `tbtest`, R162. -/
  | tbtest (d : BitVec 3) (a : BitVec 6) (n : BitVec 12)
  /-- `tbretire`, R163. -/
  | tbretire (n : BitVec 12)
  /-- `sopen`, R272. -/
  | sopen (q : BitVec 4) (r : BitVec 1)
  /-- `sput`, R273. -/
  | sput (d : BitVec 6) (q : BitVec 4) (a : BitVec 6)
  /-- `sget`, R274. -/
  | sget (d : BitVec 6) (q : BitVec 4) (a : BitVec 6)
  /-- `sclose`, R271. -/
  | sclose (q : BitVec 4) (s : BitVec 2)
  /-- `sstat`, R275. -/
  | sstat (d : BitVec 6) (q : BitVec 4)
  /-- `qput`, R170. -/
  | qput (a : BitVec 6) (q : BitVec 2)
  /-- `qget`, R170. -/
  | qget (d : BitVec 6) (q : BitVec 2) (w : BitVec 4) (k : BitVec 1)
  /-- `qputv`, R170. -/
  | qputv (va : BitVec 6) (q : BitVec 2)
  /-- `qgetv`, R170. -/
  | qgetv (vd : BitVec 6) (q : BitVec 2) (k : BitVec 1)
  /-- SECTION_ENTRY, R55. -/
  | sectionEntry (co : CoreId) (e : EngId)
  /-- TASK_START, R322. -/
  | taskStart (co : CoreId)
  /-- TASK_RETIREMENT, R167. -/
  | taskRetirement (co : CoreId)
  /-- LAND_DUE, R182. -/
  | landDue (co : CoreId) (slot : Nat)
  /-- FREEZE_END, R21. -/
  | freezeEnd (co : CoreId)
  /-- COPY_COMMAND_START, R118. -/
  | copyCommandStart (co : CoreId) (q : QSel)
  /-- COPY_PROGRESS, R124. -/
  | copyProgress (co : CoreId) (n : Nat)
  /-- COPY_VISIBLE, R126. -/
  | copyVisible (co : CoreId) (n : Nat)
  /-- XORDER_HEAD, R138. -/
  | xorderHead (co : CoreId) (q : QSel)
  /-- XORDER_LEAVE, R138. -/
  | xorderLeave (co : CoreId) (q : QSel)
  /-- PAGE_WALK_COMPLETE, R90. -/
  | pageWalkComplete (isle n : Nat)
  /-- ITUINV_VA, R94. -/
  | ituinvVa (isle : Nat) (ctx : BitVec 4) (va : BitVec 32)
  /-- ITUINV_CONTEXT, R94. -/
  | ituinvContext (isle : Nat) (ctx : BitVec 4)
  /-- ITUINV_ALL, R94. -/
  | ituinvAll (isle : Nat)
  /-- ITUINV_COMPLETE, R95. -/
  | ituinvComplete (isle : Nat)
  /-- LEASE_GRANT, R220. -/
  | leaseGrant (isle ins : Nat)
  /-- TILE_READY, R216. -/
  | tileReady (co : CoreId) (slot rejects : Nat)
  /-- RACE_READY, R243. -/
  | raceReady (co : CoreId) (slot rejects : Nat)
  /-- CALIBRATION_MARK, R231. -/
  | calibrationMark (isle ins : Nat)
  /-- SLICE_REQUEST, R101. -/
  | sliceRequest (site slice n : Nat) (ecc : Ecc)
  /-- SCRUB_LINE, R106. -/
  | scrubLine (site slice : Nat) (ecc : Ecc)
  /-- ROW_TRACK_LEAK, R107. -/
  | rowTrackLeak (site slice : Nat)
  /-- ROW_SPARE_START, R108. -/
  | rowSpareStart (site slice : Nat) (bank : BitVec 6) (row : BitVec 18)
  /-- SPARE_LINE_COPY, R108. -/
  | spareLineCopy (site slice : Nat)
  /-- ATOMIC_APPLY, R245. -/
  | atomicApply (co : CoreId) (n : Nat)
  /-- ROUND_REQUEST_ACCEPT, R257. -/
  | roundRequestAccept (co : CoreId) (n : Nat)
  /-- ROUND_CLOSE_NOTICE, R255. -/
  | roundCloseNotice (site slice lid : Nat) (p : Participant)
  /-- ROUND_APPLY, R256. -/
  | roundApply (site slice lid wave tag : Nat)
  /-- ATOMIC_LANDING, R252. -/
  | atomicLanding (co : CoreId) (n : Nat)
  /-- MONITOR_REQUEST, R266. -/
  | monitorRequest (co : CoreId) (e : EngId)
  /-- MONITOR_TIMEOUT, R267. -/
  | monitorTimeout (co : CoreId) (e : EngId)
  /-- SPUT_PUBLISH, R273. -/
  | sputPublish (site ring : Nat)
  /-- SGET_COPY_COMPLETE, R274. -/
  | sgetCopyComplete (site ring : Nat)
  /-- ENTRY_RELEASE, R319. -/
  | entryRelease (lid ent : Nat)
  /-- FRAME_SCHEDULED_END, R323. -/
  | frameScheduledEnd (lid : Nat)
  /-- SLIP_LIMIT, R325. -/
  | slipLimit (lid : Nat)
  /-- FRAME_COMPLETE, R316. -/
  | frameComplete (lid : Nat) (elastic : Elastic)
  /-- FRAME_START, R316. -/
  | frameStart (lid : Nat)
  /-- LAUNCH_ABORT, R370. -/
  | launchAbort (lid : Nat)
  /-- TRAP_RECORD_SERVICE, R365. -/
  | trapRecordService (isle : Nat)
  /-- CCTL_RESUME, R364. -/
  | cctlResume (co : CoreId)
  /-- LCTL_ABORT, R365. -/
  | lctlAbort (lid : Nat)
  /-- MACHINE_FAULT, R369. -/
  | machineFault (place : FaultSite)
  /-- TEMPERATURE_SAMPLE, R402. -/
  | temperatureSample (isle ins : Nat) (temp : BitVec 16)
  /-- THERMAL_GAP_STEP, R402. -/
  | thermalGapStep (isle ins : Nat)
  /-- DBNOTIFY, R335. -/
  | dbnotify (q : Nat) (n : BitVec 64)
  /-- QUEUE_MAP, R337. -/
  | queueMap (q : Nat)
  /-- QUEUE_UNMAP, R337. -/
  | queueUnmap (q : Nat)
  /-- QCMD_MAP, R338. -/
  | qcmdMap (quay q : Nat)
  /-- QCMD_UNMAP, R338. -/
  | qcmdUnmap (quay q : Nat)
  /-- QCMD_CLEAR_FAULT, R338. -/
  | qcmdClearFault (quay q : Nat)
  /-- ATTN_SERVICE, R338. -/
  | attnService (quay : Nat)
  /-- PACKET_FETCH, R343. -/
  | packetFetch (q : Nat)
  /-- LAUNCH, R346. -/
  | launch (q : Nat)
  /-- CALL_PACKET, R343. -/
  | callPacket (q : Nat)
  /-- RETURN_PACKET, R343. -/
  | returnPacket (q : Nat)
  /-- JOIN, R344. -/
  | join (q : Nat)
  /-- COPY, R349. -/
  | copy (q : Nat)
  /-- SIGNAL, R350. -/
  | signal (q : Nat)
  /-- WAITVALUE, R351. -/
  | waitvalue (q : Nat)
  /-- WAITVALUE_POLL, R351. -/
  | waitvaluePoll (q : Nat)
  /-- WAITVALUE_TIMEOUT, R351. -/
  | waitvalueTimeout (q : Nat)
  /-- PREEMPT, R352. -/
  | preempt (q : Nat)
  /-- REFINE, R353. -/
  | refine (q : Nat)
  /-- REFINE_RUN_END, R355. -/
  | refineRunEnd (q : Nat)
  /-- HARBOUR_RESTART, R339. -/
  | harbourRestart
  /-- FLIT_RECEIVE, R280: the flit's bytes but for its CRC, and its CRC. -/
  | flitReceive (port : Nat) (bytes : List (BitVec 8)) (crc : BitVec 64)
  /-- FLIT_REPLAY, R280. -/
  | flitReplay (port : Nat)
  /-- PORT_DOWN, R285. -/
  | portDown (port : Nat) (cause : BitVec 8)
  /-- PORT_UP, R285. -/
  | portUp (port : Nat)
  /-- RTGEN_FLIP, R282. -/
  | rtgenFlip (table : Nat) (gen : Bool)
  /-- RINGDESC_WRITE, R270. -/
  | ringdescWrite (site ring : Nat) (v : BitVec 128)
  /-- REGISTER_WRITE, R380. -/
  | registerWrite (addr : BitVec 64) (bytes : List (BitVec 8))
  /-- TICK, R22. -/
  | tick
  /-- POWER_GOOD, R394. -/
  | powerGood
  /-- BOOT_STAGE_COMPLETE, R394. -/
  | bootStageComplete
  /-- RECOVERY_IMAGE, R399: where the image begins in quay SRAM. -/
  | recoveryImage (base : Nat)
  /-- UNIT_TRAINING_COMPLETE, R395. -/
  | unitTrainingComplete (u : TrainUnit)
  /-- ATTESTATION_REQUEST, R400. -/
  | attestationRequest (nonce : List (BitVec 8))
  /-- ISLE_POWER_GATE, R403. -/
  | islePowerGate (isle : Nat)
  /-- ISLE_WAKE, R403. -/
  | isleWake (isle : Nat)
  /-- CALIBRATION_COMPLETE, R229. -/
  | calibrationComplete (isle ins : Nat) (periods : BitVec 32) (trims : List (BitVec 16))
  /-- PER_BANK_REFRESH, R99. -/
  | perBankRefresh (site slice : Nat) (bank : BitVec 6) (rfm : Bool)
  deriving DecidableEq, Repr

/-- An instruction word as the sequencer sees it (R58): the stop bit, the guard, the instruction. -/
structure Insn where
  stop : Bool
  gn : Bool
  gp : BitVec 3
  op : Instr
  deriving DecidableEq, Repr

end Sys2Proof
end

