-- ==== Sys2Proof/Config.lean ====
section
/-! DEFINITION. What the manual leaves to the part or leaves open: fuses and configuration values as constants
without a body, and the free values (the notes in notes/assumptions name each). -/

namespace Sys2Proof

/-- Segments in service by the harvest fuses, 4 bits an array (R25, R26). -/
opaque Config.fuseSegs (isle ins : Nat) : BitVec 4

/-- Core positions in service by the harvest fuses, 4 bits an insula (R26). -/
opaque Config.fuseCores (isle ins : Nat) : BitVec 4

/-- ISLE, TRANSIT and PORTS of ISLESVC by the fuses: bit 0, bit 1, bits 5 to 2 (R26). -/
opaque Config.fuseIsle (isle : Nat) : BitVec 6

/-- Values that the accepted configuration record sets (R397), with the defaults that the manual names. -/
structure Cfg where
  interval : BitVec 16 := 0x1000
  migmin : Nat := 16777216
  migratio : Nat := 0
  qtbase : Nat := 0
  age : Nat := 1024
  dzpool : Nat := 1073741824
  mthresh : Nat := 32
  tdrift : Nat := 80
  bridge : Nat := 0
  modno : Nat := 0
  twarn : Int := 1520
  tshut : Int := 1760
  pktab : List (BitVec 8) := []
  deriving DecidableEq, Repr, Inhabited

/-- The configuration values of a record body (R397: the manual gives no layout within the 16-byte fields). -/
opaque Config.cfgOf (body : List (BitVec 8)) : Cfg

/-- The fuses' values of the items for which the manual names no default (R397). -/
opaque Config.fuseItems : Cfg

/-- The configuration values at their fuse defaults (R397): the defaults that the manual names (R106, R231, R340, R365, R402), and
the fuses' values of the other items. -/
def Config.fuseCfg : Cfg :=
  let d : Cfg := {}
  { Config.fuseItems with
    interval := d.interval, age := d.age, dzpool := d.dzpool, mthresh := d.mthresh, tdrift := d.tdrift
    twarn := d.twarn, tshut := d.tshut }

/-- The harvest withdrawals of a record body (R26, R397): isle, kind (0 core, 1 segment, 2 array, 3 port, 4 transit switch,
5 isle), and two numbers of the kind. -/
opaque Config.recWithdrawn (body : List (BitVec 8)) : List (Nat × Nat × Nat × Nat)

/-- The REMAP tables of a record body (R108, R397): square, slice, entry, STATE, bank and row. -/
opaque Config.recRemap (body : List (BitVec 8)) : List (Nat × Nat × Nat × BitVec 2 × BitVec 6 × BitVec 18)

/-- The post-package repair list of a record body (R110, R397): square, slice, bank and row. -/
opaque Config.recRepair (body : List (BitVec 8)) : List (Nat × Nat × BitVec 6 × BitVec 18)

/-- The 32-byte digest of key slot 0 to 7 in the fuses that a quay's boot ROM reads (R396, R397). -/
opaque Config.keyDigest (quay slot : Nat) : List (BitVec 8)

/-- A key slot's revocation fuse is set (R396, R397). -/
opaque Config.revoked (quay slot : Nat) : Bool

/-- MINSVN (R396). -/
opaque Config.minSvn (quay : Nat) : Nat

/-- The bytes of the record that Brodsyn writes beside the one in use (R110, R397): from the bytes of that one, the REMAP tables
and the repair list as they stand. The manual gives neither its fields' bits nor who signs it; what the record says is in
the state beside its bytes. -/
opaque Config.newRecord (old : List (BitVec 8)) (remaps : List (Nat × Nat × Nat × BitVec 2 × BitVec 6 × BitVec 18))
    (repair : List (Nat × Nat × BitVec 6 × BitVec 18)) : List (BitVec 8)

/-- The buffers of a class that a Strait port's receiver has free when its link comes up (R280): ordered, adaptive, management. -/
opaque Config.flitBuffers (port cls : Nat) : BitVec 8

/-- `n` bytes of the SHAKE256 digest (R396; the function is that of its own standard). -/
opaque Config.shake256 (n : Nat) (bytes : List (BitVec 8)) : List (BitVec 8)

/-- A signature verifies under a public key by Ed448 (R396, RFC 8032). -/
opaque Config.ed448Verify (key sig msg : List (BitVec 8)) : Bool

/-- The Ed448 public key of a private one (R398). -/
opaque Config.ed448Public (key : List (BitVec 8)) : List (BitVec 8)

/-- The Ed448 signature of a message (R400). -/
opaque Config.ed448Sign (key msg : List (BitVec 8)) : List (BitVec 8)

/-- A reading, 0 to 14, of a cell-pair delay comparison, 0 to 1,023 (R398). -/
opaque Config.cellReading (pair reading : Nat) : Bool

/-- The majority bits as the helper data of the fuses corrects them; none where correction fails (R398). -/
opaque Config.helperCorrect (bits : List Bool) : Option (List (BitVec 8))

/-- The isle cycles beyond 6 that a neighbour read takes (R152: more than 6 where the memory is loaded): a free value, one for
each landing. -/
opaque Config.readDelay (n : Nat) : Nat

/-- Whether a neighbour read is made at a cycle, before its data has come (R152: at some moment between commit and landing): a
free value, one for each landing and cycle. -/
opaque Config.readNow (n cyc : Nat) : Bool

/-- The n-th 64-bit value that the manual does not state: a free value. -/
opaque Config.freeWord (n : Nat) : BitVec 64

/-- What the row numbers of a slice are XORed with (R100: the placement of lines in rows is fixed, and the manual does not give
it). -/
opaque Config.rowKey (site slice : Nat) : BitVec 24

/-- A Strait port is wired to another module, so that its link can train (R278, R394): a fact of the board. -/
opaque Config.wired (port : Nat) : Bool

/-- The syndrome of an uncorrectable error at an address (R363: the manual states no value): a free value. -/
opaque Config.syndrome (addr : Nat) : BitVec 64

/-- The status that answers a flit whose line holds an uncorrectable error (R279: the manual names none): a free value. -/
opaque Config.lineErrorStatus (pa : Nat) : BitVec 8

/-- The binary64 code of a NaN that the harbour writes (R355, R356: the manual names none). -/
opaque Config.nan64 : BitVec 64

/-- THR of a result record when no run has computed one (R356: the manual does not say). -/
opaque Config.noThr : BitVec 64

/-- TICKS of a tail frame that a resume begins (R316, R379: an image does not hold the last frame's). -/
opaque Config.tailTicks (lid : Nat) : BitVec 32

/-- CHECK of a line: Reed-Solomon symbols over its data and metadata (R103: the manual names no generator). -/
opaque Config.checkOf (data : List (BitVec 8)) (meta_ : BitVec 64) : BitVec 64

/-- The ECS error counts that a slice reads from the DRAM at the end of a scrub pass, row by row (R99): data of the DRAM. -/
opaque Config.ecsCounts (site slice : Nat) (pass : BitVec 32) : List ((BitVec 6 × BitVec 18) × Nat)

/-- The 128 bits of a last-violation register: master, partition key, target address, operation (R98: the manual lays them
out nowhere). -/
opaque Config.violWord (src pkey addr op : Nat) : BitVec 128

/-- Which 64-byte line of a scrubbed 256-byte line an error is met in: a free value. -/
opaque Config.scrubPart (n : Nat) : Fin 4

end Sys2Proof
end

