-- ==== Sys2Proof/Machine/State.lean ====
section
/-! DEFINITION. The machine's state as plain data: every register, memory, queue and table that the manual names
(INVENTORY.md, State), the model's agenda, and the state right after reset. -/

namespace Sys2Proof.Machine

/-- A table by number: sorted pairs; what an absent number holds is said where the table is read. -/
abbrev Tab (α : Type) := List (Nat × α)

/-- A scalar register: 64 bits and a poison bit (R69). -/
structure GReg where
  bits : Word := 0
  psn : Bool := false
  deriving DecidableEq, Repr

/-- A capability register: 128 bits and a tag (R69, R75). -/
structure CReg where
  bits : BitVec 128 := 0
  tag : Bool := false
  deriving DecidableEq, Repr

/-- A predicate: one bit and its poison bit (R69). -/
structure PReg where
  bit : Bool := false
  psn : Bool := false
  deriving DecidableEq, Repr

/-- A vector register: 1,024 bits, a poison bit for every lane, an 8-bit sidecar (R42, R69). -/
structure VReg where
  bits : VBits := 0
  psn : BitVec 32 := 0
  side : Byte := 0
  deriving DecidableEq, Repr

/-- A data-queue entry: data, lane poison, sidecar, the parity tag (R168, R381), and whether it was pushed in the present core
cycle (it can be popped from the next one on). -/
structure QEntry where
  data : VReg := {}
  parityOk : Bool := true
  fresh : Bool := false
  deriving DecidableEq, Repr

/-- An entry of bq (R172): the outcome, its parity tag, and whether it was pushed in the present core cycle. -/
structure BEntry where
  bit : Bool
  parityOk : Bool := true
  fresh : Bool := false
  deriving DecidableEq, Repr

/-- A change of a token count in the present core cycle (R171): the engine, the channel, a `post` or an `await`. -/
structure TokChange where
  eng : EngId
  chan : Nat
  post : Bool
  deriving DecidableEq, Repr

/-- Engine status of ENGST (R184). -/
inductive EngSt where
  | noTask | issuing | blocked | done
  deriving DecidableEq, Repr

/-- The code section an engine executes (R53, R55): header address, fields, and whether its waits were met. -/
structure Sect where
  hdr : Nat
  sec : BitVec 16
  len : Nat
  wx : BitVec 16
  wy : BitVec 16
  entered : Bool
  deriving DecidableEq, Repr

/-- A group that has passed its first issue cycle and commits in its last (R65, R66): that core cycle, its section, its words,
its repetition. -/
structure InIssue where
  last : Nat
  sect : Sect
  words : List (BitVec 96 × Insn)
  rep : Option Nat
  deriving DecidableEq, Repr

/-- A stream endpoint of an engine (R271, R273): ring, side, and the producer's reservation count. -/
structure Endpoint where
  site : Nat
  ring : Nat
  producer : Bool
  res : BitVec 32 := 0
  deriving DecidableEq, Repr

/-- A `rep` in progress (R176): issues, the repetition to come, and the steps of the fields. -/
structure RepState where
  n : Nat
  i : Nat
  sd : BitVec 6
  s1 : BitVec 6
  s2 : BitVec 6
  s3 : BitVec 6
  soff : BitVec 28
  deriving DecidableEq, Repr

/-- An `await.mem` in progress (R266): destination, address, expected value, line asked of the slice or not yet, and the bytes of
the page that translated it (R95). -/
structure AMem where
  d : BitVec 6
  va : Nat
  expected : Word
  pa : Option Nat := none
  placed : Bool := false
  halted : Bool := false
  page : Nat := 65536
  pc : BitVec 48 := 0
  slot : Nat := 0
  deriving DecidableEq, Repr

/-- An engine of a core (R69, R165). -/
structure Eng where
  g : Vector GReg 64 := Vector.replicate 64 {}
  c : Vector CReg 16 := Vector.replicate 16 {}
  p : Vector PReg 8 := Vector.replicate 8 {}
  lc : Vector Lane 4 := Vector.replicate 4 0
  pc : BitVec 48 := 0
  pcc : CReg := {}
  rsec : BitVec 16 := 0
  sec : Option Sect := none
  st : EngSt := .noTask
  ea : Vector (BitVec 16) 5 := Vector.replicate 5 0
  dbarHold : List (Nat × BitVec 16) := []
  amem : Option AMem := none
  eps : List Endpoint := []
  rep : Option RepState := none
  closes : Tab Nat := []
  seqs : Tab Nat := []
  donePc : BitVec 48 := 0
  doneSlot : Nat := 0
  doneAt : Nat := 0
  brkPass : Bool := false
  busy : Nat := 0
  pend : Option InIssue := none
  alone : Bool := false
  xfer : Option (BitVec 48 × Int) := none
  code : List Host.Cell := []
  deriving DecidableEq, Repr

/-- A bound loop nest (R177, R178): its record, indices and whether it is active. -/
structure Nest where
  record : BitVec 512 := 0
  idx : Vector (BitVec 16) 6 := Vector.replicate 6 0
  active : Bool := false
  deriving DecidableEq, Repr

/-- A deferral-queue entry (R179): tag, lane, and the values with their poison. -/
structure DqEntry where
  tag : BitVec 2
  lane : Nat
  vals : List (Lane × Bool)
  deriving DecidableEq, Repr

/-- The files of the C engine alone (R69, R179). -/
structure CUnit where
  v : Vector VReg 64 := Vector.replicate 64 {}
  m : Vector Lane 8 := Vector.replicate 8 0
  ft : Vector Lane 16 := Vector.replicate 16 0
  ftidx : BitVec 2 := 0
  nest : Nest := {}
  dq : List DqEntry := []
  deriving DecidableEq, Repr

/-- A footprint of a task as the scheduler preloaded it (R83, R84, R311): capability, mode, round tag. -/
structure Foot where
  cap : CReg := {}
  mode : BitVec 2 := 0
  rtag : BitVec 12 := 0
  valid : Bool := false
  deriving DecidableEq, Repr

/-- A placed task (R310, R320, R322): what the scheduler knows of it. -/
structure Task where
  lid : Nat := 0
  task : Nat := 0
  iter : Nat := 0
  frame : BitVec 64 := 0
  wave : Nat := 0
  seed : BitVec 64 := 0
  loopmode : Bool := false
  ctx : BitVec 4 := 0
  pkey : BitVec 6 := 0
  ord : Nat := 0
  band : Option Nat := none
  dbarm : Byte := 0
  calib : Bool := false
  ncont : Nat := 0
  feet : List Foot := []
  starts : List (Option Nat) := []
  windows : List (Nat × Nat) := []
  sysPcc : Bool := false
  regs : List Word := []
  toks : List Byte := []
  fts : List Lane := []
  deriving DecidableEq, Repr

/-- The combining operations of `xacc.*` (R248). -/
inductive AccOp where
  | addS32 | addS64 | addF32 | minS32 | maxS32 | minF32 | maxF32 | and | or | xor
  deriving DecidableEq, Repr

/-- What a queue entry of the copy engine is (R117, R132, R248, R250, R255, R138). -/
inductive XOp where
  | get | put | move | gat | sct | get2d | put2d | fill
  | acc (k : AccOp) | fadd32 | fadd64 | swp | cas | casGo | close | order
  deriving DecidableEq, Repr

/-- What the copy engine awaits for a command (R93, R101, R280): nothing, a walk, a read or a write of some bytes. -/
inductive Piece where
  | idle
  | walking
  | reading (n : Nat)
  | writing (n : Nat)
  deriving DecidableEq, Repr

/-- A fault that halted a command (R139): code, address, and the further bytes of its record. -/
structure CmdFault where
  code : Byte
  addr : BitVec 64
  detail : BitVec 256
  deriving DecidableEq, Repr

/-- A copy command or marker of a core (R117-R140, R246-R256). -/
structure Cmd where
  uid : Nat
  q : QSel
  op : XOp
  ch : Nat := 0
  id : BitVec 32 := 0
  cs : CReg := {}
  csi : Nat := 0
  cd : CReg := {}
  cdi : Nat := 0
  sa : Int := 0
  da : Int := 0
  len : Nat := 0
  v : Word := 0
  w : Word := 0
  lst : Nat := 0
  tb : Nat := 0
  rows : Nat := 0
  vs : Nat := 3
  rt : Nat := 0
  name : Nat := 0
  round : Nat := 0
  seq : Nat := 0
  task : Task := {}
  pc : BitVec 48 := 0
  sec : BitVec 16 := 0
  slot : Nat := 0
  started : Bool := false
  head : Bool := false
  waitFor : List Nat := []
  idx : List Int := []
  xseq : Nat := 0
  done : Nat := 0
  at_ : Nat := 0
  buf : List (Byte × Bool) := []
  tag : Bool := false
  piece : Piece := .idle
  released : Bool := false
  performed : Bool := false
  visible : Bool := false
  landing : Option (BitVec 128) := none
  landed : Bool := false
  hit : List Nat := []
  fault : Option CmdFault := none
  deriving DecidableEq, Repr

/-- What a landing slot carries (R182, R381). -/
inductive LandKind where
  | ldn | vldn | tile | race
  deriving DecidableEq, Repr

/-- A tile in the array (R216, R225, R226): operands as committed and, once ready, its words. -/
structure TileJob where
  slot : Nat
  rows : Nat
  k : Nat
  prof : Nat
  afmt : Nat
  bfmt : Nat
  scaled : Bool
  aOff : Nat
  bOff : Nat
  cops : BitVec 32
  globalA : Option Nat := none
  aData : List Byte := []
  bData : List Byte := []
  missAt : Option Nat := none
  halted : Bool := false
  deriving DecidableEq, Repr

/-- A landing slot of a core (R182): what will land, where and when, whether a neighbour's data is read, and where that reading met
an uncorrectable error (R144). -/
structure LSlot where
  kind : LandKind
  eng : EngId
  dest : Nat
  due : Nat
  ord : Nat
  arrived : Bool := false
  regs : List VReg := []
  mark : Option Nat := none
  target : Nat := 0
  off : Nat := 0
  asked : Nat := 0
  fixed : Bool := false
  err : Option Nat := none
  tile : Option TileJob := none
  pc : BitVec 48 := 0
  sec : BitVec 16 := 0
  gslot : Nat := 0
  deriving DecidableEq, Repr

/-- A trap record (R361). -/
structure TrapRec where
  code : Byte
  unit : Byte
  slot : BitVec 3
  after : Bool := false
  branch : Bool := false
  landing : Bool := false
  rep : Bool := false
  sec : BitVec 16
  core : BitVec 11
  pc : BitVec 48
  addr : BitVec 64 := 0
  done : BitVec 64 := 0
  detail : BitVec 256 := 0
  deriving DecidableEq, Repr

/-- A core (R2, R17): its engines, couplings, copy engine, landing slots and controls; the records that it has raised in the
present isle cycle (R364), and the channel statuses that an abort leaves (R139). -/
structure Core where
  l : Eng := {}
  cE : Eng := {}
  s : Eng := {}
  cu : CUnit := {}
  xq : Vector (List QEntry) 4 := Vector.replicate 4 []
  yq : Vector (List QEntry) 4 := Vector.replicate 4 []
  bq : List BEntry := []
  tok : Vector Byte 16 := Vector.replicate 16 0
  tokLog : List TokChange := []
  nextid : Vector (BitVec 32) 16 := Vector.replicate 16 1
  bind : Vector (Option QSel) 16 := Vector.replicate 16 none
  cmds : List Cmd := []
  uid : Nat := 0
  lhalt : Bool := false
  shalt : Bool := false
  slots : Tab LSlot := []
  landOrd : Nat := 0
  late : BitVec 64 := 0
  frozen : Bool := false
  cyc : Nat := 0
  stopped : Bool := false
  stopOpen : Bool := false
  held : Bool := false
  nrec : Byte := 0
  unrep : Nat := 0
  fatal : Bool := false
  taken : List TrapRec := []
  leaseRuns : Byte := 0
  leaseHeld : Bool := false
  leaseLeft : BitVec 7 := 0
  tbdir : Tab (BitVec 12 × BitVec 15) := []
  dirtyDir : Bool := true
  allDirty : Bool := true
  ph : BitVec 16 := 0
  queue : List Task := []
  task : Option Task := none
  prepFor : Option Nat := none
  used : Bool := false
  recs : Nat := 0
  gone : Tab (BitVec 32 × BitVec 32 × BitVec 32) := []
  deriving DecidableEq, Repr

/-- The loaded B of an array (R224, R230). -/
structure LoadedB where
  off : Nat
  pos : Nat
  k : Nat
  prof : Nat
  bfmt : Nat
  scale : Nat
  deriving DecidableEq, Repr

/-- A race array of an insula (R25, R220, R230, R401). -/
structure Arr where
  segs : BitVec 4
  cores : BitVec 4
  cal : BitVec 3 := 0
  margin : BitVec 16 := 0
  holder : BitVec 2 := 3
  leased : Bool := false
  loaded : Option LoadedB := none
  waiting : List (Nat × BitVec 7) := []
  trim : Tab (BitVec 10) := []
  latecyc : BitVec 32 := 0
  replays : BitVec 32 := 0
  gap : Byte := 0
  tlcal : BitVec 16 := 0
  temp : BitVec 16 := 0
  mark : Bool := false
  calib : Option (Nat × Nat × BitVec 6) := none
  pendSegs : BitVec 4 := 0
  deriving DecidableEq, Repr

/-- A translation the TLB holds (R93, R381). -/
structure TlbEntry where
  ctx : BitVec 4
  va : Nat
  size : Nat
  pa : Nat
  w : Bool
  cow : Bool
  deriving DecidableEq, Repr

/-- Who waits for a walk (R93): a copy command, an `await.mem`, or a tile's A operand. -/
inductive WalkFor where
  | cmd (co : CoreId) (uid : Nat) (write : Bool)
  | amem (co : CoreId) (e : EngId)
  | tile (co : CoreId) (slot : Nat)
  deriving DecidableEq, Repr

/-- A walk in progress (R90, R93). -/
structure Walk where
  ctx : BitVec 4
  va : Nat
  who : List WalkFor
  deriving DecidableEq, Repr

/-- A pending invalidation (R94, R95). -/
structure Inval where
  scope : BitVec 2
  ctx : BitVec 4
  va : BitVec 32
  deriving DecidableEq, Repr

/-- An entry of an access table (R97), as its 128 bits. -/
abbrev AccEntry := BitVec 128

/-- The access table of a target with its violation counter and last violation (R97, R98). -/
structure AccTable where
  entries : Tab AccEntry := [(0, 0xffffffff000000000000a93fc0207f01#128)]
  viol : BitVec 32 := 0
  last : Option (Nat × Nat × Nat × Nat) := none
  deriving DecidableEq, Repr

/-- A translation context (R94). -/
structure Ctx where
  root : Nat := 0
  en : Bool := false
  deriving DecidableEq, Repr

/-- What a pending service change withdraws (R27). -/
inductive SvcChange where
  | core (ins pos : Nat)
  | segment (ins seg : Nat)
  | array (ins : Nat)
  | port (k : Nat)
  | transit
  | isle
  deriving DecidableEq, Repr

/-- A change of the panel's paths that awaits a frame boundary (R12, R15, R16, R27): a site's route table takes a detour to a
destination, or loses it; a causeway port of a square leaves service. -/
inductive PathChange where
  | detour (site dst port : Nat)
  | direct (site dst : Nat)
  | port (site k : Nat)
  deriving DecidableEq, Repr

/-- A machine-check log: entries written in rotation, and how many were written (R369). -/
structure MLog where
  n : Nat := 0
  ents : Tab (BitVec 64) := []
  deriving DecidableEq, Repr

/-- What an isle holds beside its cores and arrays. -/
structure Isle where
  inService : Bool
  transit : Bool
  ports : BitVec 4
  ctx : Tab Ctx := []
  invs : List Inval := []
  walks : Tab Walk := []
  tlb : List TlbEntry := []
  trapq : Tab (TrapRec × CoreId) := []
  tqHead : BitVec 32 := 0
  tqTail : BitVec 32 := 0
  tqWait : List (TrapRec × CoreId) := []
  mclog : MLog := {}
  acc : AccTable := {}
  pend : List SvcChange := []
  gated : Bool := false
  deriving DecidableEq, Repr

/-- A ring descriptor (R270). -/
structure Ring where
  putseq : BitVec 32 := 0
  getseq : BitVec 32 := 0
  nslot : BitVec 16 := 0
  slog : BitVec 4 := 0
  base : BitVec 15 := 0
  owner : BitVec 16 := 0
  ccl : Bool := false
  pcl : Bool := false
  v : Bool := false
  deriving DecidableEq, Repr

/-- A stream copy in flight (R273, R274): which slot, whose memory, what is copied, and the number that the core's next copy
command had when it began. -/
structure StreamCopy where
  site : Nat
  ring : Nat
  put : Bool
  seq : BitVec 32
  co : CoreId
  eng : EngId
  off : Nat
  size : Nat
  before : Nat := 0
  pc : BitVec 48
  slot : Nat
  sec : BitVec 16 := 0
  deriving DecidableEq, Repr

/-- A monitor entry (R114, R266). -/
structure Monitor where
  line : Nat
  co : CoreId
  eng : EngId
  lid : Nat
  deriving DecidableEq, Repr

/-- An entry of the page counters (R111). -/
structure PageCnt where
  total : BitVec 24 := 0
  dom : Nat := 0
  cnt : BitVec 24 := 0
  deriving DecidableEq, Repr

/-- Line metadata (R103): stamp and the mark of an uncorrectable line. -/
structure LineMeta where
  sv : Bool := false
  bad : Bool := false
  frame : BitVec 12 := 0
  wave : Byte := 0
  taskh : BitVec 12 := 0
  deriving DecidableEq, Repr

/-- A continuation record (R261) with the launch it belongs to. -/
structure ContRec where
  lid : Nat
  old : Word
  addr : Nat
  cmp : Word
  new : Word
  ptask : Nat
  piter : Nat
  name : Nat
  rtag : Nat
  wave : Nat
  round : Nat
  eng : Bool
  seq : Nat
  deriving DecidableEq, Repr

/-- An entry of the present frame as the isle schedulers read it (R310-R313), with its wave and what became of it. -/
structure Entry where
  off : Nat := 0
  release : Nat
  deadline : Nat
  level : Nat
  spread : Bool
  tilek : Nat
  dbarm : Byte
  domid : Nat
  niter : Nat
  nest : BitVec 512 := 0
  starts : List (Option Nat)
  toks : List (Option Byte)
  fts : List Lane
  feet : List Foot
  wave : Nat := 0
  preds : List Nat := []
  cont : Option (List Word) := none
  deriving DecidableEq, Repr

/-- Where a task of the frame stands (R319, R322). -/
inductive TaskSt where
  | waiting | queued | running | retired
  deriving DecidableEq, Repr

/-- A task of the present frame (R320): entry, iteration, core, where it stands, and, retired, its number in the order of
retirement. -/
structure TaskRec where
  task : Nat
  iter : Nat
  co : CoreId
  wave : Nat
  dbarm : Byte
  st : TaskSt := .waiting
  at_ : BitVec 64 := 0
  nth : Nat := 0
  deriving DecidableEq, Repr

/-- A record for the launch fault log (R371): CODE, KIND, place and BODY. -/
structure FaultRec where
  code : Byte := 0
  kind : Byte
  isle : Nat := 0
  core : Nat := 0
  task : Nat := 0
  iter : Nat := 0
  tick : BitVec 64 := 0
  body : BitVec 256 := 0
  deriving DecidableEq, Repr

/-- Where a launch stands (R316): in a frame; at its boundary, before the calibrations of step 3 have ended; after that. -/
inductive LaunchSt where
  | frame | changes | boundary
  deriving DecidableEq, Repr

/-- A launch (R305): its packet and descriptor, isle list, frame, barriers and records. -/
structure Launch where
  lid : Nat
  q : Nat
  place : Nat := 0
  seed : BitVec 64 := 0
  roots : List CReg := []
  loopmode : Bool := false
  sub : Nat := 0
  mode : Byte := 0
  minisl : Nat := 1
  maxisl : Nat := 1
  ttva : Nat := 0
  flogva : Nat := 0
  recva : Nat := 0
  imgs : List Nat := []
  woff : List Nat := []
  wlen : List Nat := []
  toks : List Byte := []
  rootpa : Nat := 0
  gbase : Nat := 0
  glen : Nat := 0
  gperm : BitVec 12 := 0
  pkey : BitVec 6 := 0
  pool : List Nat := []
  nd : Nat := 0
  pieces : List (Nat × Nat) := []
  migFree : List Nat := []
  isles : List Nat := []
  ctxs : List (BitVec 4) := []
  st : LaunchSt := .boundary
  begun : Bool := false
  fidx : Nat := 0
  frame : BitVec 64 := 0
  start : BitVec 64 := 0
  due : BitVec 64 := 0
  ticks : Nat := 0
  next : Nat := 0
  tail : Bool := false
  elastic : Bool := false
  ents : List Entry := []
  recs : List TaskRec := []
  retires : Nat := 0
  conts : List ContRec := []
  contTab : List Entry := []
  bands : List (Nat × Nat) := []
  slips : BitVec 64 := 0
  slipEnd : BitVec 64 := 0
  slipIdx : BitVec 32 := 0
  slipLim : Nat := 0
  slipLog : Nat := 0
  slipN : Nat := 0
  ph : Tab (BitVec 16) := []
  nrec : BitVec 32 := 0
  lost : Bool := false
  failing : List FaultRec := []
  abort : Bool := false
  preempt : Option Nat := none
  awaited : List (Nat × Nat) := []
  coresWere : List CoreId := []
  lastimg : Option Nat := none
  ftset : Option (List Lane) := none
  deriving DecidableEq, Repr

/-- A round-batched request that a slice holds in its round (R254, R257), with the context and page that translated it (R95). -/
structure RoundReq where
  site : Nat
  slice : Nat
  lid : Nat
  wave : Nat
  tag : Nat
  k : Nat
  task : Nat
  iter : Nat
  eng : EngId
  seq : Nat
  j : Nat
  op : XOp
  pa : Nat
  va : Nat
  v : Word
  w : Word
  name : Nat
  co : CoreId
  uid : Nat
  frame : BitVec 64
  ctx : BitVec 4 := 0
  page : Nat := 65536
  counts : Bool := false
  deriving DecidableEq, Repr

/-- How many rounds of a participant a slice has notice of: a count, or every round from now on (R255). -/
structure CloseNote where
  site : Nat
  slice : Nat
  lid : Nat
  p : Participant
  n : Nat := 0
  all : Bool := false
  deriving DecidableEq, Repr

/-- A Strait link flit: header, payload and trailer fields of R279. -/
structure Flit where
  type : BitVec 4
  cls : BitVec 2
  dst : BitVec 13
  src : BitVec 13
  pkey : BitVec 6
  flow : BitVec 16
  len : Byte
  off : BitVec 35
  hops : BitVec 6
  xseq : BitVec 25
  payload : List Byte
  hseq : BitVec 16
  hack : BitVec 16
  cred : BitVec 32
  deriving DecidableEq, Repr

/-- Whose request a slice holds: a copy command's, or that of a flit of a remote module at a quay. -/
inductive ReqFrom where
  | cmd (co : CoreId) (uid : Nat)
  | flit (port : Nat) (f : Flit)
  deriving DecidableEq, Repr

/-- A request for one 64-byte line in a slice's order of arrival (R101), with the virtual address and the bytes of the page that translated it (R95). -/
structure SliceReq where
  who : ReqFrom
  write : Bool
  pa : Nat
  len : Nat
  data : List Byte := []
  smark : Bool := false
  va : Nat := 0
  page : Nat := 65536
  deriving DecidableEq, Repr

/-- A row-tracking entry (R107). -/
structure RowCnt where
  count : Nat := 0
  bank : BitVec 6 := 0
  row : BitVec 18 := 0
  deriving DecidableEq, Repr

/-- A remap entry (R108): state 0 free, 1 copying, 2 committed, 3 withdrawn. -/
structure Remap where
  state : BitVec 2 := 0
  bank : BitVec 6 := 0
  row : BitVec 18 := 0
  deriving DecidableEq, Repr

/-- A slice (R19, R99-R110, R262). -/
structure Slice where
  passes : BitVec 32 := 0
  interval : BitVec 16 := 0x1000
  cecnt : BitVec 16 := 0
  scrubAt : Nat := 0
  rows : Tab RowCnt := []
  remap : Tab Remap := []
  sparex : Bool := false
  copying : Option (Nat × Nat) := none
  leakAt : BitVec 64 := 0
  spareWait : List (BitVec 6 × BitVec 18) := []
  acc : AccTable := {}
  trained : Bool := false
  refreshes : Nat := 0
  reqs : List SliceReq := []
  contq : List ContRec := []
  ring : List (Option Nat) := []
  rsize : BitVec 16 := 0
  lost : BitVec 16 := 0
  spbase : BitVec 42 := 0
  deriving DecidableEq, Repr

/-- A doorbell slot (R336). -/
structure DbSlot where
  q : Nat
  fcode : BitVec 4 := 0
  halt : Bool := false
  widx : BitVec 64 := 0
  deriving DecidableEq, Repr

/-- A packet the look-ahead holds (R343): its bytes, its place in issue order, RIDX and the chain after it; the code of a
queue fault that its reading met (R357), and whether it takes a place. -/
structure Packet where
  bytes : List Byte
  place : Nat
  ridx : BitVec 64
  chain : List (Nat × Nat × Nat)
  bad : BitVec 4 := 0
  takes : Bool := true
  deriving DecidableEq, Repr

/-- A command queue (R334, R339-R345): its record, read index, call chain, look-ahead and completions. The chain lists
the open buffers, innermost first: address, packets read, count. -/
structure HQueue where
  rbase : Nat := 0
  rlog : Nat := 0
  prio : Nat := 0
  pkey : BitVec 6 := 0
  gbase : Nat := 0
  glen : Nat := 0
  rootpa : Nat := 0
  gperm : BitVec 12 := 0
  ridx : BitVec 64 := 0
  chain : List (Nat × Nat × Nat) := []
  readIdx : BitVec 64 := 0
  readChain : List (Nat × Nat × Nat) := []
  look : List Packet := []
  pending : Option (List Byte) := none
  starting : Option Nat := none
  places : Nat := 0
  running : List Nat := []
  lastIssue : BitVec 64 := 0
  idleSince : BitVec 64 := 0
  waitFrom : Option (BitVec 64) := none
  deriving DecidableEq, Repr

/-- A quay's doorbell block and MCLOG (R336, R338, R369). -/
structure Quay where
  slots : Tab DbSlot := []
  attn : List Nat := []
  unmapWait : List Nat := []
  acc : AccTable := {}
  mclog : MLog := {}
  deriving DecidableEq, Repr

/-- A REFINE block in progress (R353-R356): its packet, its LID, the run under way or due (0 FACT, 1 RESID, 2 NORM, 3 SOLVE),
whether its launch runs, how it ended, and what the block keeps from run to run. -/
structure Refine where
  q : Nat
  place : Nat
  bytes : List Byte
  lid : Nat
  run : Nat
  going : Bool := true
  ended : Option (BitVec 8) := none
  thr : BitVec 64 := 0
  stateOk : Bool := true
  nrec : BitVec 32 := 0
  lastimg : Option Nat := none
  preempt : Option Nat := none
  awaited : List (Nat × Nat) := []
  deriving DecidableEq, Repr

/-- A routing table with its two generations (R281, R282). -/
structure Routes where
  tab : Tab (BitVec 32) := []
  active : Bool := false
  deriving DecidableEq, Repr

/-- An ordered flow through a port (R282, R284): its key, egress, and flits forwarded whose response is to come. -/
structure FlowOut where
  dst : Nat
  src : Nat
  flow : Nat
  port : Nat
  open_ : Nat
  deriving DecidableEq, Repr

/-- A flit that a port routes (R281, R282): the table it uses, a port's or the origin table 128, the generation in use when it
arrived there, whether it stands in that port's receive buffers, and, while it is held, the hop it was given. -/
structure Routed where
  table : Nat
  gen : Bool
  inBuf : Bool
  hop : Option Nat := none
  f : Flit
  deriving DecidableEq, Repr

/-- A Strait link port (R278-R286): its flits sent and not acknowledged, those that a table holds back, those that wait for
credits, and whether it has something to tell the other side that no flit has carried yet. -/
structure Port where
  up : Bool := false
  txSeq : BitVec 16 := 0
  rxSeq : BitVec 16 := 0
  sent : List Routed := []
  replays : Nat := 0
  credits : Vector Byte 3 := Vector.replicate 3 0
  freed : Vector Byte 3 := Vector.replicate 3 0
  routes : Routes := {}
  flows : List FlowOut := []
  held : List Routed := []
  full : List Routed := []
  owes : Bool := false
  pktab : Tab Byte := []
  acc : AccTable := {}
  moved : List (BitVec 32) := []
  badflit : BitVec 32 := 0
  deriving DecidableEq, Repr

/-- A flit of this module's own whose response is awaited (R280): key and the command it serves. -/
structure XReq where
  dst : Nat
  flow : Nat
  xseq : Nat
  off : Nat
  co : CoreId
  uid : Nat
  deriving DecidableEq, Repr

/-- A request of a remote module that the receiving quay performs line by line (R277): lines left, what was read, status. -/
structure FlitIn where
  port : Nat
  f : Flit
  left : Nat
  data : List (Nat × List Byte) := []
  status : Byte := 0
  deriving DecidableEq, Repr

/-- A write that a quay has applied for an adaptive flow (R284). -/
structure FlowWrite where
  src : BitVec 13
  flow : BitVec 16
  xseq : BitVec 25
  off : Nat
  n : Nat
  deriving DecidableEq, Repr

/-- The items of a configuration record (R397): values, harvest withdrawals, REMAP tables, post-package repair list. -/
structure RecItems where
  cfg : Cfg := {}
  withdrawn : List (Nat × Nat × Nat × Nat) := []
  remaps : List (Nat × Nat × Nat × BitVec 2 × BitVec 6 × BitVec 18) := []
  repair : List (Nat × Nat × BitVec 6 × BitVec 18) := []
  deriving DecidableEq, Repr

/-- What bring-up holds (R394-R401). The flash copies and the key unit are contents of the quays; of a record copy that Brodsyn
wrote, SEQ and items stand beside its bytes (R110, R397). -/
structure Boot where
  on : Bool := false
  stage : BitVec 4 := 0
  img : Bool := false
  recCopy : Bool := false
  recov : Bool := false
  recovery : Bool := false
  idok : Bool := false
  needRec : Bool := false
  svn : Nat := 0
  seq : Nat := 0
  imgDigest : List Byte := []
  recDigest : List Byte := []
  devpub : List Byte := []
  key : List Byte := []
  imgA : List Byte := []
  imgB : List Byte := []
  recA : List Byte := []
  recB : List Byte := []
  ram : Tab Byte := []
  itemsA : Option (Nat × RecItems) := none
  itemsB : Option (Nat × RecItems) := none
  withdrawn : List (Nat × Nat × Nat × Nat) := []
  repair : List (Nat × Nat × BitVec 6 × BitVec 18) := []
  reports : List (List Byte) := []
  deriving DecidableEq, Repr

/-- The registers of class 0x0D that a launch ID keeps when its launch has ended (R323, R324, R373, R381). -/
structure LidRegs where
  slips : BitVec 64 := 0
  slipIdx : BitVec 32 := 0
  lastimg : Nat := 0
  deriving DecidableEq, Repr

/-- The hardware of the module. `cellErrs` are the granules of local and accumulator memory that hold an uncorrectable error which
the next access meets (R144); `stall` is the model's own: an access of the act under way has no route yet. -/
structure Hw where
  cores : Tab Core := []
  arrs : Tab Arr := []
  isles : Tab Isle := []
  rings : Tab Ring := []
  streams : List StreamCopy := []
  monitors : Tab (List Monitor) := []
  monWait : Tab (List (CoreId × EngId)) := []
  lineMeta : Tab LineMeta := []
  errs : Tab Bool := []
  pagecnt : Tab PageCnt := []
  slices : Tab Slice := []
  launches : Tab Launch := []
  rounds : List RoundReq := []
  closed : List CloseNote := []
  holds : List Nat := []
  quays : Tab Quay := []
  queues : Tab HQueue := []
  refines : List Refine := []
  ports : Tab Port := []
  origin : Port := {}
  xseqs : Tab Nat := []
  xreqs : List XReq := []
  flitsIn : List FlitIn := []
  applied : List FlowWrite := []
  win : Tab (BitVec 128) := []
  notices : List (List Byte) := []
  noticesSeen : List (List Byte) := []
  cwFull : List Nat := []
  detours : Tab Nat := []
  sqPorts : Tab (BitVec 4) := []
  pathPend : List PathChange := []
  lidRegs : Tab LidRegs := []
  cfg : Cfg := {}
  boot : Boot := {}
  mem : List Host.Cell := []
  tags : List Nat := []
  full : List Nat := []
  pmark : List Nat := []
  dirty : List Nat := []
  cellErrs : List Nat := []
  stall : Bool := false
  tick : BitVec 64 := 0
  deriving DecidableEq, Repr

/-- A trap or a blocking condition that an instruction of the group in issue has met (R65, R67). -/
structure Issue where
  co : CoreId := ⟨0, 0⟩
  eng : EngId := .l
  pc : BitVec 48 := 0
  slot : Nat := 0
  word : BitVec 96 := 0
  rep : Option Nat := none
  delay : Nat := 0
  before : Option Hw := none
  target : Option Int := none
  trap : Option TrapRec := none
  blocked : Bool := false
  tiles : Nat := 1
  after : List TrapRec := []
  deriving DecidableEq, Repr

/-- What moves next (the model's own: the agenda says in which order the agents move). -/
inductive Act where
  | issue (co : CoreId) (e : EngId)
  | clock (co : CoreId)
  | event (i : Instr)
  deriving DecidableEq, Repr, Inhabited

/-- What moves when the agenda is empty: a free value, one for each choice (the agents of the module run in no order that
the manual gives). -/
opaque nextAct (n : Nat) : Act

/-- The state: the hardware, the agenda of acts to come, the count of free choices made, the group in issue. -/
structure State extends Hw where
  agenda : List Act := []
  choice : Nat := 0
  ix : Issue := {}
  deriving DecidableEq, Repr

/-- Why the machine stops: for no reason. Every step has an effect that the manual gives, so there is no constructor. -/
inductive Fault where
  deriving DecidableEq, Repr

/-- Why an instruction has no meaning. -/
inductive Refusal where
  /-- Raised by an arm of the dispatch that is not written yet; safe. -/
  | notModelled (mnemonic : String)
  deriving DecidableEq, Repr

/-- The machine right after reset (R9): every register at the value stated for reset, or as the log says. -/
def State.reset : State := {}

end Sys2Proof.Machine
end

