-- ==== Sys2Proof/Machine/Store.lean ====
section
/-! DEFINITION. The model's containers: tables by number, sets of numbers, and memory as a canonical list of bytes. -/

namespace Sys2Proof.Machine

/-- What a table holds at a number, `d` where it lists nothing. -/
def tabGet {α : Type} (d : α) : Tab α → Nat → α
  | [], _ => d
  | (j, x) :: t, k => if k = j then x else tabGet d t k

/-- The table with `x` at `k`, kept in rising order. -/
def tabPut {α : Type} (x : α) (k : Nat) : Tab α → Tab α
  | [] => [(k, x)]
  | (j, y) :: t =>
    if k < j then (k, x) :: (j, y) :: t else if k = j then (k, x) :: t else (j, y) :: tabPut x k t

/-- The table without an entry at `k`. -/
def tabDel {α : Type} (k : Nat) (t : Tab α) : Tab α := t.filter (fun e => e.1 != k)

/-- The entry at `k`, if the table lists one. -/
def tabFind {α : Type} : Tab α → Nat → Option α
  | [], _ => none
  | (j, x) :: t, k => if k = j then some x else tabFind t k

/-- The lowest number below `n` the table does not list (the entry of lowest index that is free). -/
def tabFree {α : Type} (t : Tab α) (n : Nat) : Option Nat :=
  (List.range n).find? (fun k => (tabFind t k).isNone)

/-- Membership in a rising list of numbers. -/
def setHas (s : List Nat) (k : Nat) : Bool := s.elem k

/-- The set with `k`, kept in rising order. -/
def setAdd (k : Nat) : List Nat → List Nat
  | [] => [k]
  | j :: t => if k < j then k :: j :: t else if k = j then j :: t else j :: setAdd k t

/-- The set without `k`. -/
def setDel (k : Nat) (s : List Nat) : List Nat := s.filter (· != k)

/-- The set with `k` in it or not, as `b` says. -/
def setPut (b : Bool) (k : Nat) (s : List Nat) : List Nat := if b then setAdd k s else setDel k s

/-- The set without the numbers from `lo` up to, not including, `hi`. -/
def setClear (lo hi : Nat) (s : List Nat) : List Nat := s.filter (fun k => k < lo || hi ≤ k)

/-- What an unlisted byte of memory reads as (log entry 4). -/
def unlisted : Byte := 0

/-- A byte of memory. -/
def memRead : List Host.Cell → Nat → Byte
  | [], _ => unlisted
  | (j, b) :: t, k => if k = j then b else memRead t k

/-- Memory with byte `b` at `k`, in canonical form: rising, listing no byte that equals `unlisted`. -/
def memWrite (b : Byte) (k : Nat) : List Host.Cell → List Host.Cell
  | [] => if b = unlisted then [] else [(k, b)]
  | (j, y) :: t =>
    if k < j then (if b = unlisted then (j, y) :: t else (k, b) :: (j, y) :: t)
    else if k = j then (if b = unlisted then t else (k, b) :: t)
    else (j, y) :: memWrite b k t

/-- `n` bytes from `k` up. -/
def memReadN (m : List Host.Cell) (k n : Nat) : List Byte := (List.range n).map (fun i => memRead m (k + i))

/-- Memory with the bytes `bs` from `k` up. -/
def memWriteN : List Byte → Nat → List Host.Cell → List Host.Cell
  | [], _, m => m
  | b :: bs, k, m => memWriteN bs (k + 1) (memWrite b k m)

/-- Memory with zeros from `lo` up to, not including, `hi`. -/
def memClear (lo hi : Nat) (m : List Host.Cell) : List Host.Cell := m.filter (fun c => c.1 < lo || hi ≤ c.1)

/-- The canonical form from a lower bound on: addresses strictly rising, no entry that an unlisted address reads as. -/
def memWfFrom (lo : Nat) : List Host.Cell → Bool
  | [] => true
  | (j, b) :: t => lo ≤ j && b != unlisted && memWfFrom (j + 1) t

/-- The canonical form of memory. -/
def Memory.wf (m : List Host.Cell) : Bool := memWfFrom 0 m

/-- A little-endian number of bytes (R4). -/
def leNat : List Byte → Nat
  | [] => 0
  | b :: bs => b.toNat + 256 * leNat bs

/-- The `n` little-endian bytes of a number (R4). -/
def leBytes : Nat → Nat → List Byte
  | 0, _ => []
  | n + 1, v => BitVec.ofNat 8 v :: leBytes n (v / 256)

end Sys2Proof.Machine
end

