-- ==== Sys2Proof/WellFormed.lean ====
section
/-! DEFINITION. Well-formed instructions: the field codes that this chapter or an instruction's description allows
(R60, R62, R88, R126, R132, R158, R176, R180, R181, R189, R196, R200, R211, R218, R238, R247, R250, R327), and, for a
step of the module, that the unit it names is one the module has (R8, R12, R17, R19, R24). -/

namespace Sys2Proof

/-- Codes 0x0 to 0x5 are conditions, 0x6 to 0xF are illegal (R62). -/
def condOk (cnd : BitVec 4) : Bool := cnd.toNat ≤ 5

/-- An encoded profile is 0x01 to 0x08, or 0xFF for the format table (R211). -/
def profOk (p : BitVec 8) : Bool := (1 ≤ p.toNat && p.toNat ≤ 8) || p == 0xFF#8

/-- Site index 26 y + x names an isle when x + y is even (R8, R12). -/
def isleOk (i : Nat) : Bool := decide (i < 676) && (i % 26 + i / 26) % 2 == 0

/-- Site index 26 y + x names a square when x + y is odd (R8, R12). -/
def squareOk (i : Nat) : Bool := decide (i < 676) && (i % 26 + i / 26) % 2 == 1

/-- The site that a causeway port of a site faces; at the panel's edge the port faces a quay instead (R12). -/
def portSite (site port : Nat) : Option Nat :=
  let x := site % 26
  let y := site / 26
  match port with
  | 0 => if y = 0 then none else some (site - 26)
  | 1 => if x = 25 then none else some (site + 1)
  | 2 => if y = 25 then none else some (site + 26)
  | _ => if x = 0 then none else some (site - 1)

/-- A core of the module: an isle's, numbered 0 to 1199 (R8). -/
def CoreId.ok (co : CoreId) : Bool := isleOk co.isle && decide (co.core < 1200)

/-- A unit that trains at bring-up is one the module has (R15, R19, R278, R395). -/
def TrainUnit.ok : TrainUnit → Bool
  | .slice site n => squareOk site && decide (n < 160)
  | .causeway site k => (isleOk site || (squareOk site && (portSite site k).isNone)) && decide (k < 4)
  | .strait k => decide (k < 128)

/-- The well-formed instructions. -/
def Instr.wf : Instr → Bool
  | .nop => true
  | .br cnd _ _ _ => condOk cnd
  | .jmp _ => true
  | .jmpi _ _ => true
  | .call _ => true
  | .calli _ _ => true
  | .ret => true
  | .loopLc _ _ => true
  | .loopNest _ => true
  | .lset _ _ _ => true
  | .rep n _ _ _ _ _ => n != 0
  | .lnest _ _ _ _ => true
  | .brq _ _ => true
  | .pushbq cnd _ _ => condOk cnd
  | .defer va _ cnt _ => 1 ≤ cnt.toNat && cnt.toNat ≤ 4 && va.toNat + cnt.toNat ≤ 64
  | .drain _ vb _ _ => vb.toNat ≤ 60
  | .post _ => true
  | .await _ => true
  | .kget _ _ => true
  | .trap _ _ => true
  | .brk _ => true
  | .csrr _ csr => csr.toNat ≤ 15
  | .csrw _ csr => csr == 0x000A#16
  | .fenceCore => true
  | .fenceIsle => true
  | .fenceMod => true
  | .fenceSys => true
  | .doneOp => true
  | .dbar lv => 1 ≤ lv.toNat && lv.toNat ≤ 5
  | .dbarA _ lv => 1 ≤ lv.toNat && lv.toNat ≤ 5
  | .dbarW _ lv => 1 ≤ lv.toNat && lv.toNat ≤ 5
  | .awaitMem _ _ _ _ _ => true
  | .add _ _ _ => true
  | .sub _ _ _ => true
  | .addi _ _ _ => true
  | .li _ _ => true
  | .mov _ _ => true
  | .mul _ _ _ => true
  | .mulhS _ _ _ => true
  | .mulhZ _ _ _ => true
  | .mad _ _ _ _ => true
  | .divS _ _ _ => true
  | .divZ _ _ _ => true
  | .remS _ _ _ => true
  | .remZ _ _ _ => true
  | .and _ _ _ => true
  | .or _ _ _ => true
  | .xor _ _ _ => true
  | .andn _ _ _ => true
  | .shl _ _ _ => true
  | .shrZ _ _ _ => true
  | .shrS _ _ _ => true
  | .rotl _ _ _ => true
  | .clz _ _ => true
  | .ctz _ _ => true
  | .popc _ _ => true
  | .minS _ _ _ => true
  | .minZ _ _ _ => true
  | .maxS _ _ _ => true
  | .maxZ _ _ _ => true
  | .sel _ _ _ _ => true
  | .cmp cnd _ _ _ => condOk cnd
  | .cmpi cnd _ _ _ => condOk cnd
  | .pmix _ _ _ _ => true
  | .extS8 _ _ => true
  | .extS16 _ _ => true
  | .extS32 _ _ => true
  | .extZ8 _ _ => true
  | .extZ16 _ _ => true
  | .extZ32 _ _ => true
  | .addsS64 _ _ _ => true
  | .bfx _ _ pos len _ => 1 ≤ len.toNat && pos.toNat + len.toNat ≤ 64
  | .bfi _ _ pos len => 1 ≤ len.toNat && pos.toNat + len.toNat ≤ 64
  | .rnd _ _ _ _ _ => true
  | .cmov _ _ => true
  | .cinc _ _ _ => true
  | .cinci _ _ _ => true
  | .cbound _ _ _ => true
  | .cperm _ _ _ => true
  | .cgetb _ _ => true
  | .cgetl _ _ => true
  | .cgeto _ _ => true
  | .cgetp _ _ => true
  | .ctest _ _ => true
  | .cle _ _ _ => true
  | .cclr _ => true
  | .caddr _ _ _ => true
  | .cld _ _ _ _ _ => true
  | .cst _ _ _ _ _ => true
  | .cfoot _ _ => true
  | .ldS8 _ _ _ _ _ => true
  | .ldZ8 _ _ _ _ _ => true
  | .ldS16 _ _ _ _ _ => true
  | .ldZ16 _ _ _ _ _ => true
  | .ldS32 _ _ _ _ _ => true
  | .ldZ32 _ _ _ _ _ => true
  | .ld64 _ _ _ _ _ => true
  | .st8 _ _ _ _ _ => true
  | .st16 _ _ _ _ _ => true
  | .st32 _ _ _ _ _ => true
  | .st64 _ _ _ _ _ => true
  | .vld _ _ _ _ _ => true
  | .vst _ _ _ _ _ => true
  | .vldBc _ _ _ _ _ => true
  | .vgath _ _ _ _ _ => true
  | .vscat _ _ _ _ _ => true
  | .ldfeW _ _ _ _ _ => true
  | .ldfeC _ _ _ _ _ => true
  | .vldfeW _ _ _ _ _ => true
  | .vldfeC _ _ _ _ _ => true
  | .fset _ _ _ _ _ => true
  | .fclr _ _ _ _ _ => true
  | .ftest _ _ _ _ _ => true
  | .ldn _ _ _ _ _ _ => true
  | .vldn _ _ _ _ _ _ => true
  | .xget _ _ _ _ _ _ _ => true
  | .xput _ _ _ _ _ _ _ vs => vs.toNat ≤ 4
  | .xmove _ _ _ _ _ _ _ vs => vs.toNat ≤ 4
  | .xgat _ _ _ _ _ _ _ _ _ => true
  | .xsct _ _ _ _ _ _ _ _ _ vs => vs.toNat ≤ 4
  | .xget2d _ _ _ _ _ _ _ _ _ rows => rows != 0
  | .xput2d _ _ _ _ _ _ _ _ _ rows vs => rows != 0 && vs.toNat ≤ 4
  | .xfill _ _ _ _ _ _ vs => vs.toNat ≤ 4
  | .xaccAddS32 _ _ _ _ _ _ => true
  | .xaccAddS64 _ _ _ _ _ _ => true
  | .xaccAddF32 _ _ _ _ _ _ _ => true
  | .xaccMinS32 _ _ _ _ _ _ => true
  | .xaccMaxS32 _ _ _ _ _ _ => true
  | .xaccMinF32 _ _ _ _ _ _ => true
  | .xaccMaxF32 _ _ _ _ _ _ => true
  | .xaccAnd _ _ _ _ _ _ => true
  | .xaccOr _ _ _ _ _ _ => true
  | .xaccXor _ _ _ _ _ _ => true
  | .xfaddS32 _ _ _ _ _ _ _ _ => true
  | .xfaddS64 _ _ _ _ _ _ _ _ => true
  | .xswp _ _ _ _ _ _ _ _ => true
  | .xcas _ _ _ _ _ _ _ _ _ => true
  | .xcasGo _ _ _ _ _ _ _ _ task rt => task != 0 && rt != 0
  | .xclose _ rt => rt != 0
  | .xwaitIn _ _ => true
  | .xwaitRel _ _ => true
  | .xwaitVis _ _ => true
  | .xid _ _ aux => aux.toNat ≤ 4
  | .xorder => true
  | .vaddF32 _ _ _ _ => true
  | .vsubF32 _ _ _ _ => true
  | .vmulF32 _ _ _ _ => true
  | .vfmaF32 _ _ _ _ _ => true
  | .vfmsF32 _ _ _ _ _ => true
  | .vfnmaF32 _ _ _ _ _ => true
  | .vminF32 _ _ _ _ => true
  | .vmaxF32 _ _ _ _ => true
  | .vabsF32 _ _ _ => true
  | .vnegF32 _ _ _ => true
  | .vdivF32 _ _ _ _ => true
  | .vsqrtF32 _ _ _ => true
  | .vrcpF32 _ _ _ => true
  | .vrsqrtF32 _ _ _ => true
  | .vexp2F32 _ _ _ => true
  | .vlog2F32 _ _ _ => true
  | .vsinpiF32 _ _ _ => true
  | .vcospiF32 _ _ _ => true
  | .vtanhF32 _ _ _ => true
  | .vrrpi _ _ _ => true
  | .vfloorF32 _ _ _ => true
  | .vrintF32 _ _ _ => true
  | .vcmpF32 cc _ _ _ _ => cc.toNat ≤ 7
  | .vclassF32 _ _ _ => true
  | .vaddBf16 _ _ _ _ => true
  | .vmulBf16 _ _ _ _ => true
  | .vfmaBf16 _ _ _ _ _ => true
  | .vaddS32 _ _ _ _ => true
  | .vsubS32 _ _ _ _ => true
  | .vmulS32 _ _ _ _ => true
  | .vmadS16 _ _ _ _ _ => true
  | .vaddsS32 _ _ _ _ => true
  | .vsubsS32 _ _ _ _ => true
  | .vminS32 _ _ _ _ => true
  | .vmaxS32 _ _ _ _ => true
  | .vminZ32 _ _ _ _ => true
  | .vmaxZ32 _ _ _ _ => true
  | .vand _ _ _ _ => true
  | .vor _ _ _ _ => true
  | .vxor _ _ _ _ => true
  | .vshl _ _ _ _ => true
  | .vshlImm _ _ _ _ => true
  | .vshrZ _ _ _ _ => true
  | .vshrZImm _ _ _ _ => true
  | .vshrS _ _ _ _ => true
  | .vshrSImm _ _ _ _ => true
  | .vcmpS32 cc _ _ _ _ => cc.toNat ≤ 5
  | .vcmpZ32 cc _ _ _ _ => cc.toNat ≤ 5
  | .vsel _ _ _ _ => true
  | .vmask _ _ _ _ => true
  | .vcvtF32S32 _ _ _ => true
  | .vcvtS32F32Rne _ _ _ => true
  | .vcvtS32F32Rz _ _ _ => true
  | .vcvtBf16F32 _ _ _ => true
  | .vcvtF32Bf16 _ _ _ _ => true
  | .vcvtE4m3F32 _ _ _ => true
  | .vcvtE4m3F32Nv _ _ _ => true
  | .vcvtE5m2F32 _ _ _ => true
  | .vcvtF32E4m3 _ _ _ _ => true
  | .vcvtF32E5m2 _ _ _ _ => true
  | .vqmx4 vd vb _ _ => vd != vb
  | .vqmx8 vd vb _ _ => vd != vb
  | .vdqmx4 _ _ _ _ _ => true
  | .vxpS4 _ _ _ _ => true
  | .vxpOcp4 _ _ _ _ => true
  | .vcvtBfpF32 _ _ => true
  | .vcvtF32Bfp _ _ _ => true
  | .vperm _ _ _ _ => true
  | .vswpPair _ _ _ _ => true
  | .vrot _ _ _ _ => true
  | .vbc _ _ _ _ => true
  | .vext _ _ _ => true
  | .vextMask _ _ => true
  | .vins _ _ _ => true
  | .vinsMask _ _ => true
  | .vli _ _ => true
  | .vmov _ _ _ => true
  | .vredAddF32 _ _ _ => true
  | .vredMaxF32 _ _ _ => true
  | .vredAddS32 _ _ _ => true
  | .vscanAddS32 _ _ _ => true
  | .vpackS16 _ _ _ => true
  | .vunpkS16 _ _ _ _ => true
  | .vcntM _ _ => true
  | .vcomp _ _ _ => true
  | .vexpd _ _ _ => true
  | .lease n => 1 ≤ n.toNat && n.toNat ≤ 64
  | .unlease => true
  | .tload _ prof rows => profOk prof && rows != 0
  | .tmma _ _ _ prof rows _ _ => profOk prof && rows != 0
  | .tmmaGa _ _ _ prof rows _ _ => profOk prof && rows != 0
  | .tzero _ rows => rows != 0
  | .taccRd _ _ _ _ => true
  | .taccWr _ _ _ => true
  | .tshape _ _ prof => profOk prof
  | .ftset _ _ => true
  | .ftget _ _ => true
  | .tcal _ _ => true
  | .rminF32 vd _ _ _ _ k _ => vd.toNat ≤ 59 && k == 1
  | .rmaxF32 vd _ _ _ _ k _ => vd.toNat ≤ 59 && k == 1
  | .rminS32 vd _ _ _ _ k _ => vd.toNat ≤ 59 && k == 1
  | .rmaxS32 vd _ _ _ _ k _ => vd.toNat ≤ 59 && k == 1
  | .rsortF32 vd _ _ _ _ k _ => vd.toNat ≤ 59 && k == 64
  | .rsortdF32 vd _ _ _ _ k _ => vd.toNat ≤ 59 && k == 64
  | .rsortS32 vd _ _ _ _ k _ => vd.toNat ≤ 59 && k == 64
  | .rtopkF32 vd _ _ _ _ k _ => vd.toNat ≤ 59 && 1 ≤ k.toNat && k.toNat ≤ 64
  | .rbotkF32 vd _ _ _ _ k _ => vd.toNat ≤ 59 && 1 ≤ k.toNat && k.toNat ≤ 64
  | .rtopkS32 vd _ _ _ _ k _ => vd.toNat ≤ 59 && 1 ≤ k.toNat && k.toNat ≤ 64
  | .rmergeF32 vd _ _ vc _ k _ => vd.toNat ≤ 59 && vc.toNat ≤ 62 && 1 ≤ k.toNat && k.toNat ≤ 64
  | .rmergdF32 vd _ _ vc _ k _ => vd.toNat ≤ 59 && vc.toNat ≤ 62 && 1 ≤ k.toNat && k.toNat ≤ 64
  | .rknnF32 vd _ _ _ _ k _ => vd.toNat ≤ 59 && 1 ≤ k.toNat && k.toNat ≤ 64
  | .tbinit _ n _ _ _ => n != 0
  | .tbexpect _ n => n != 0
  | .tbarrive _ _ n _ => n != 0
  | .tbwait _ n => n != 0
  | .tbtest _ _ n => n != 0
  | .tbretire n => n != 0
  | .sopen _ _ => true
  | .sput _ _ _ => true
  | .sget _ _ _ => true
  | .sclose _ s => s != 3
  | .sstat _ _ => true
  | .qput _ _ => true
  | .qget _ _ _ _ => true
  | .qputv _ _ => true
  | .qgetv _ _ _ => true
  | .sectionEntry co _ => co.ok
  | .taskStart co => co.ok
  | .taskRetirement co => co.ok
  | .landDue co _ => co.ok
  | .freezeEnd co => co.ok
  | .copyCommandStart co _ => co.ok
  | .copyProgress co _ => co.ok
  | .copyVisible co _ => co.ok
  | .xorderHead co _ => co.ok
  | .xorderLeave co _ => co.ok
  | .pageWalkComplete isle _ => isleOk isle
  | .ituinvVa isle _ _ => isleOk isle
  | .ituinvContext isle _ => isleOk isle
  | .ituinvAll isle => isleOk isle
  | .ituinvComplete isle => isleOk isle
  | .leaseGrant isle ins => isleOk isle && decide (ins < 300)
  | .tileReady co _ _ => co.ok
  | .raceReady co _ _ => co.ok
  | .calibrationMark isle ins => isleOk isle && decide (ins < 300)
  | .sliceRequest site slice _ _ => squareOk site && decide (slice < 160)
  | .scrubLine site slice _ => squareOk site && decide (slice < 160)
  | .rowTrackLeak site slice => squareOk site && decide (slice < 160)
  | .rowSpareStart site slice _ _ => squareOk site && decide (slice < 160)
  | .spareLineCopy site slice => squareOk site && decide (slice < 160)
  | .atomicApply co _ => co.ok
  | .roundRequestAccept co _ => co.ok
  | .roundCloseNotice site slice lid _ => squareOk site && decide (slice < 160) && decide (lid < 65536)
  | .roundApply site slice lid _ _ => squareOk site && decide (slice < 160) && decide (lid < 65536)
  | .atomicLanding co _ => co.ok
  | .monitorRequest co _ => co.ok
  | .monitorTimeout co _ => co.ok
  | .sputPublish site ring => squareOk site && decide (ring < 1024)
  | .sgetCopyComplete site ring => squareOk site && decide (ring < 1024)
  | .entryRelease lid _ => decide (lid < 65536)
  | .frameScheduledEnd lid => decide (lid < 65536)
  | .slipLimit lid => decide (lid < 65536)
  | .frameComplete lid _ => decide (lid < 65536)
  | .frameStart lid => decide (lid < 65536)
  | .launchAbort lid => decide (lid < 65536)
  | .trapRecordService isle => isleOk isle
  | .cctlResume co => co.ok
  | .lctlAbort lid => decide (lid < 65536)
  | .machineFault _ => true
  | .temperatureSample isle ins _ => isleOk isle && decide (ins < 300)
  | .thermalGapStep isle ins => isleOk isle && decide (ins < 300)
  | .dbnotify q _ => decide (q < 1024)
  | .queueMap q => decide (q < 1024)
  | .queueUnmap q => decide (q < 1024)
  | .qcmdMap quay q => decide (quay < 4) && decide (q < 1024)
  | .qcmdUnmap quay q => decide (quay < 4) && decide (q < 1024)
  | .qcmdClearFault quay q => decide (quay < 4) && decide (q < 1024)
  | .attnService quay => decide (quay < 4)
  | .packetFetch q => decide (q < 1024)
  | .launch q => decide (q < 1024)
  | .callPacket q => decide (q < 1024)
  | .returnPacket q => decide (q < 1024)
  | .join q => decide (q < 1024)
  | .copy q => decide (q < 1024)
  | .signal q => decide (q < 1024)
  | .waitvalue q => decide (q < 1024)
  | .waitvaluePoll q => decide (q < 1024)
  | .waitvalueTimeout q => decide (q < 1024)
  | .preempt q => decide (q < 1024)
  | .refine q => decide (q < 1024)
  | .refineRunEnd q => decide (q < 1024)
  | .harbourRestart => true
  | .flitReceive port bytes _ => decide (port < 128) && bytes.length == 248
  | .flitReplay port => decide (port < 128)
  | .portDown port _ => decide (port < 128)
  | .portUp port => decide (port < 128)
  | .rtgenFlip table _ => decide (table ≤ 128)
  | .ringdescWrite site ring _ => squareOk site && decide (ring < 1024)
  | .registerWrite _ _ => true
  | .tick => true
  | .powerGood => true
  | .bootStageComplete => true
  | .recoveryImage _ => true
  | .unitTrainingComplete u => u.ok
  | .attestationRequest nonce => decide (nonce.length = 32)
  | .islePowerGate isle => isleOk isle
  | .isleWake isle => isleOk isle
  | .calibrationComplete isle ins _ _ => isleOk isle && decide (ins < 300)
  | .perBankRefresh site slice _ _ => squareOk site && decide (slice < 160)

/-- Guard G = 0b1000 (never) is an illegal encoding (R59). -/
def Insn.wf (w : Insn) : Bool := w.op.wf && !(w.gn && w.gp == 0#3)

end Sys2Proof
end

