-- ==== Sys2Proof/Machine/Ops.lean ====
section
/-! DEFINITION. The named operations over the hardware's state: where a place lies in memory, reading and writing
memory with its tags, full bits and marks (R82, R146, R301, R374), a core and its engine's registers (R69), taking a
trap (R360-R364) and resuming from one. -/

namespace Sys2Proof.Machine

/-! ### Where things lie -/

/-- A core's number in the model's tables. -/
def CoreId.key (co : CoreId) : Nat := co.isle * 2048 + co.core

/-- An insula's number in the model's tables. -/
def arrKey (isle ins : Nat) : Nat := isle * 512 + ins

/-- The insula of a core (R8). -/
def CoreId.ins (co : CoreId) : Nat := co.core / 4

/-- The position of a core in its insula (R8). -/
def CoreId.pos (co : CoreId) : Nat := co.core % 4

/-- The place of offset `off` of a core's local memory (R141) in the one byte map. -/
def localKey (co : CoreId) (off : Nat) : Nat := 2 ^ 48 + CoreId.key co * 2 ^ 19 + off

/-- The place of offset `off` of an insula's accumulator memory (R78, R205). -/
def accKey (isle ins off : Nat) : Nat := 2 ^ 49 + arrKey isle ins * 2 ^ 17 + off

/-- The place of offset `off` of a square's stream SRAM (R78, R115). -/
def streamKey (site off : Nat) : Nat := 2 ^ 50 + site * 2 ^ 23 + off

/-- The place of word (row, n) of slot `slot` of a core's accumulator slots (R205). -/
def slotKey (co : CoreId) (slot row n : Nat) : Nat :=
  accKey co.isle (CoreId.ins co) (CoreId.pos co * 2 ^ 15 + slot * 2048 + row * 256 + n * 4)

/-! ### Memory -/

/-- The places, from `k` on, where the bytes differ from what memory holds (R82: a write that changes a byte). -/
def changedAt (m : List Host.Cell) : Nat → List Byte → List Nat
  | _, [] => []
  | k, b :: bs => if memRead m k = b then changedAt m (k + 1) bs else k :: changedAt m (k + 1) bs

/-- Whether dirty bits are kept at a place: local and accumulator memory (R374). -/
def keepsDirty (k : Nat) : Bool := 2 ^ 48 ≤ k && k < 2 ^ 50

/-- The dirty bits with those of the lines of `ks` set (R374). -/
def markDirty (ks : List Nat) (d : List Nat) : List Nat :=
  ks.foldl (fun d k => if keepsDirty k then setAdd (k / 256) d else d) d

/-- `n` bytes at a place. -/
def Hw.bytes (h : Hw) (k n : Nat) : List Byte := memReadN h.mem k n

/-- A little-endian number of `n` bytes at a place (R4). -/
def Hw.num (h : Hw) (k n : Nat) : Nat := leNat (h.bytes k n)

/-- Writing bytes: a granule with a changed byte loses its tag (R82), a granule written whole loses its poison mark
(R301), a changed line is dirty (R374); full bits stay (R146). -/
def Hw.write (h : Hw) (k : Nat) (bs : List Byte) : Hw :=
  let ch := changedAt h.mem k bs
  let pm := h.pmark.filter (fun g => !(k ≤ 16 * g && 16 * g + 16 ≤ k + bs.length))
  { h with
    mem := memWriteN bs k h.mem
    tags := h.tags.filter (fun g => !(ch.any (fun c => c / 16 == g)))
    pmark := pm
    dirty := markDirty (ch ++ (h.pmark.filter (fun g => !setHas pm g)).map (· * 16)) h.dirty }

/-- Writing a little-endian number of `n` bytes (R4). -/
def Hw.putNum (h : Hw) (k n v : Nat) : Hw := h.write k (leBytes n v)

/-- The full bit of the granule at a place (R146). -/
def Hw.fullAt (h : Hw) (k : Nat) : Bool := setHas h.full (k / 16)

/-- Setting or clearing the full bit of the granule at a place. -/
def Hw.setFull (h : Hw) (b : Bool) (k : Nat) : Hw :=
  { h with
    full := setPut b (k / 16) h.full
    dirty := if h.fullAt k = b then h.dirty else markDirty [k] h.dirty }

/-- The tag of the granule at a place (R82). -/
def Hw.tagAt (h : Hw) (k : Nat) : Bool := setHas h.tags (k / 16)

/-- Setting or clearing the tag of the granule at a place. -/
def Hw.setTag (h : Hw) (b : Bool) (k : Nat) : Hw :=
  { h with
    tags := setPut b (k / 16) h.tags
    dirty := if h.tagAt k = b then h.dirty else markDirty [k] h.dirty }

/-- Setting or clearing the poison mark of the granule at a place (R301). -/
def Hw.setMark (h : Hw) (b : Bool) (k : Nat) : Hw :=
  { h with
    pmark := setPut b (k / 16) h.pmark
    dirty := if setHas h.pmark (k / 16) = b then h.dirty else markDirty [k] h.dirty }

/-- The granules that `n` bytes from `k` on touch. -/
def granules (k n : Nat) : List Nat :=
  if n = 0 then [] else (List.range ((k + n - 1) / 16 - k / 16 + 1)).map (· + k / 16)

/-- The first marked granule, as a place, that `n` bytes from `k` on touch (R301, R302). -/
def Hw.markedIn (h : Hw) (k n : Nat) : Option Nat :=
  ((granules k n).find? (fun g => setHas h.pmark g)).map (· * 16)

/-! ### Cores, arrays, isles -/

/-- A core. -/
def Hw.core (h : Hw) (co : CoreId) : Core := tabGet {} h.cores (CoreId.key co)

/-- A core with new contents. -/
def Hw.setCore (h : Hw) (co : CoreId) (k : Core) : Hw := { h with cores := tabPut k (CoreId.key co) h.cores }

/-- A core changed by a function. -/
def Hw.onCore (h : Hw) (co : CoreId) (f : Core → Core) : Hw := h.setCore co (f (h.core co))

/-- An array as the fuses leave it at reset (R25, R230). -/
def Arr.fresh (isle ins : Nat) : Arr := { segs := Config.fuseSegs isle ins, cores := Config.fuseCores isle ins }

/-- The array of an insula. -/
def Hw.arr (h : Hw) (isle ins : Nat) : Arr := tabGet (Arr.fresh isle ins) h.arrs (arrKey isle ins)

/-- The array of an insula with new contents. -/
def Hw.setArr (h : Hw) (isle ins : Nat) (a : Arr) : Hw := { h with arrs := tabPut a (arrKey isle ins) h.arrs }

/-- The array of an insula changed by a function. -/
def Hw.onArr (h : Hw) (isle ins : Nat) (f : Arr → Arr) : Hw := h.setArr isle ins (f (h.arr isle ins))

/-- An isle as the fuses leave it at reset (R26). -/
def Isle.fresh (isle : Nat) : Isle :=
  let f := Config.fuseIsle isle
  { inService := f.getLsbD 0, transit := f.getLsbD 1, ports := f.extractLsb' 2 4 }

/-- An isle. -/
def Hw.isle (h : Hw) (i : Nat) : Isle := tabGet (Isle.fresh i) h.isles i

/-- An isle with new contents. -/
def Hw.setIsle (h : Hw) (i : Nat) (x : Isle) : Hw := { h with isles := tabPut x i h.isles }

/-- An isle changed by a function. -/
def Hw.onIsle (h : Hw) (i : Nat) (f : Isle → Isle) : Hw := h.setIsle i (f (h.isle i))

/-- A core is in service: its position's bit of INSVC (R26). -/
def Hw.coreInService (h : Hw) (co : CoreId) : Bool :=
  co.ok && (h.arr co.isle (CoreId.ins co)).cores.getLsbD (CoreId.pos co)

/-- An engine of a core. -/
def Core.eng (k : Core) : EngId → Eng
  | .l => k.l
  | .c => k.cE
  | .s => k.s

/-- A core with one engine replaced. -/
def Core.setEng (k : Core) (e : EngId) (x : Eng) : Core :=
  match e with
  | .l => { k with l := x }
  | .c => { k with cE := x }
  | .s => { k with s := x }

/-- The unit number of an engine in a trap record (R361). -/
def engUnit : EngId → Nat
  | .l => 0
  | .c => 1
  | .s => 2

/-! ### Taking a trap and resuming -/

/-- A record's bytes past 32 as a number: the field of `n` bytes at byte `at_` holds `v` (R363). -/
def detField (at_ n v : Nat) : BitVec 256 := BitVec.ofNat 256 (v % 256 ^ n * 256 ^ (at_ - 32))

/-- The address that a machine trap or a KIND 6 record gives: a line of HBM by its first byte (R105, R363, R372). -/
def faultAddr (cls addr : Nat) : Nat := if cls = 6 then addr / 64 * 64 else addr

/-- The detail of a machine fault: unit class, address, syndrome (R363; the manual does not state the syndrome). -/
def machineDetail (cls addr : Nat) : BitVec 256 :=
  detField 32 1 cls ||| detField 40 8 (faultAddr cls addr) ||| detField 48 8 (Config.syndrome addr).toNat

/-- An MCLOG with one more entry: the 16 are written in rotation (R369). -/
def MLog.push (l : MLog) (cls addr : Nat) : MLog :=
  { n := l.n + 1, ents := tabPut (BitVec.ofNat 64 (cls % 256 * 2 ^ 56 + addr % 2 ^ 48)) (l.n % 16) l.ents }

/-- An isle's MCLOG takes an entry (R369). -/
def Hw.noteIsle (h : Hw) (isle cls addr : Nat) : Hw := h.onIsle isle (fun x => { x with mclog := x.mclog.push cls addr })

/-- A stop on an uncorrectable error at an instruction is noted in the isle's MCLOG (R369). -/
def Hw.noteMachine (h : Hw) (co : CoreId) (r : TrapRec) : Hw :=
  if r.code = 0x70 then h.noteIsle co.isle (r.detail.extractLsb' 0 8).toNat (r.detail.extractLsb' 64 64).toNat else h

/-- A record enters the isle's trap queue, or waits at its unit while the queue is full (R364). -/
def Isle.enqueue (x : Isle) (r : TrapRec) (co : CoreId) : Isle :=
  if (x.tqTail - x.tqHead).toNat < 1024 ∧ x.tqWait = [] then
    { x with trapq := tabPut (r, co) (x.tqTail.toNat % 1024) x.trapq, tqTail := x.tqTail + 1 }
  else { x with tqWait := x.tqWait ++ [(r, co)] }

/-- A record among others of its core, before the first of a higher unit (R364). -/
def byUnit (r : TrapRec) : List TrapRec → List TrapRec
  | [] => [r]
  | q :: t => if r.unit.toNat < q.unit.toNat then r :: q :: t else q :: byUnit r t

/-- The last `n` places of the trap queue that hold records of a core, in ascending order. -/
def Isle.lastOf (x : Isle) (co : CoreId) (n : Nat) : List (Nat × TrapRec) :=
  let places := (List.range (x.tqTail - x.tqHead).toNat).map (fun i => (x.tqHead.toNat + i) % 1024)
  let own := places.filterMap (fun i => match tabFind x.trapq i with
    | some (r, c) => if c == co then some (i, r) else none
    | none => none)
  own.drop (own.length - n)

/-- A record enters the isle's trap queue after `n` others that its core raised in this isle cycle: the records of one cycle stand in
the order L, C, S, load queue, store queue, array (R364). -/
def Isle.takeIn (x : Isle) (n : Nat) (r : TrapRec) (co : CoreId) : Isle :=
  let y := x.enqueue r co
  if n = 0 || y.tqTail == x.tqTail then y
  else
    let was := x.lastOf co n
    let places := was.map Prod.fst ++ [x.tqTail.toNat % 1024]
    { y with trapq := (places.zip (byUnit r (was.map Prod.snd))).foldl (fun t e => tabPut (e.2, co) e.1 t) y.trapq }

/-- A core's task stops (R360): no further group issues and core cycles stand still; the record counts for the stop. After an
engine's own trap at its fetch, decode or issue (`issued`) the engines that issue in the same cycle still do, in the order L,
C, S, until a record comes from elsewhere (R364, log entry 104). -/
def Core.stop (k : Core) (issued : Bool) : Core :=
  { k with
    stopped := true
    stopOpen := (!k.stopped || k.stopOpen) && issued
    nrec := if k.nrec = 255#8 then k.nrec else k.nrec + 1
    unrep := k.unrep + 1
    recs := k.recs + 1 }

/-- TAKING A TRAP (R360, R361, R364): the core's task stops and the record enters the isle's trap queue. -/
def Hw.trapAs (h : Hw) (issued : Bool) (co : CoreId) (r : TrapRec) : Hw :=
  (h.onCore co (fun k => k.stop issued)).onIsle co.isle (fun x => x.takeIn (h.core co).recs r co)

/-- A trap of a landing, of the copy engine, of the array or of memory is taken: it comes from no engine's issue. -/
def Hw.takeTrap (h : Hw) (co : CoreId) (r : TrapRec) : Hw := h.trapAs false co r

/-- An engine has used the present core cycle: no group of it is left in issue, and the next issues in a later cycle (R66). -/
def Eng.spend (g : Eng) (cyc : Nat) : Eng := { g with pend := none, busy := cyc + 1 }

/-- A trap at an engine's fetch, decode or issue: the engine has used the cycle, and its core stops (R360, R364). -/
def Hw.engTrap (h : Hw) (co : CoreId) (e : EngId) (r : TrapRec) : Hw :=
  (h.onCore co (fun k => k.setEng e ((k.eng e).spend k.cyc))).trapAs true co r

/-- RESUMING A STOP (R362, R364): the stop's controls clear and the core's engines go on from where they stand. -/
def Core.resume (k : Core) : Core :=
  { k with stopped := false, stopOpen := false, held := false, nrec := 0, unrep := 0, fatal := false, taken := [] }

/-! ### The instruction in issue -/

/-- A trap that an instruction raises: code, address and the record's bytes 32 to 63 (R361, R363). -/
structure TrapInfo where
  code : Byte
  addr : BitVec 64 := 0
  detail : BitVec 256 := 0
  deriving DecidableEq, Repr

/-- Why an instruction does not complete: it traps, or a blocking condition does not hold (R65). -/
inductive Stop where
  | trap (t : TrapInfo)
  | block
  deriving DecidableEq, Repr

/-- A check or computation that may stop the instruction. -/
abbrev Chk (α : Type) := Except Stop α

/-- Stops with a trap. -/
def trapWith {α : Type} (code : Byte) (addr : Nat := 0) (detail : BitVec 256 := 0) : Chk α :=
  .error (.trap { code := code, addr := BitVec.ofNat 64 addr, detail := detail })

/-- Stops with a trap when the condition holds. -/
def trapIf (b : Bool) (code : Byte) (addr : Nat := 0) (detail : BitVec 256 := 0) : Chk Unit :=
  if b then trapWith code addr detail else .ok ()

/-- Blocks unless the condition holds (R65). -/
def blockUnless (b : Bool) : Chk Unit := if b then .ok () else .error .block

/-- The hardware part changed by a function. -/
def State.upd (s : State) (f : Hw → Hw) : State := { s with toHw := f s.toHw }

/-- The issuing core. -/
def State.here (s : State) : Core := s.toHw.core s.ix.co

/-- The issuing core changed by a function. -/
def State.onHere (s : State) (f : Core → Core) : State := s.upd (fun h => h.onCore s.ix.co f)

/-- The issuing engine. -/
def State.me (s : State) : Eng := s.here.eng s.ix.eng

/-- The issuing engine changed by a function. -/
def State.onMe (s : State) (f : Eng → Eng) : State :=
  s.onHere (fun k => k.setEng s.ix.eng (f (k.eng s.ix.eng)))

/-- The C engine's own files changed by a function. -/
def State.onCu (s : State) (f : CUnit → CUnit) : State := s.onHere (fun k => { k with cu := f k.cu })

/-- The hardware before the group in issue (R65): blocking conditions and shared counts are read there. -/
def State.prior (s : State) : Hw := s.ix.before.getD s.toHw

/-- The issuing core as it stood before the group. -/
def State.herePrior (s : State) : Core := s.prior.core s.ix.co

/-- The issuing core's running task; a core without one counts as running the empty task. -/
def State.task (s : State) : Task := s.here.task.getD {}

/-- The trap record of the instruction in issue (R361, R362). -/
def State.record (s : State) (t : TrapInfo) : TrapRec :=
  { code := t.code
    unit := BitVec.ofNat 8 (engUnit s.ix.eng)
    slot := BitVec.ofNat 3 s.ix.slot
    rep := s.ix.rep.isSome && t.code != 0x01#8
    sec := match s.me.sec with
      | some x => x.sec
      | none => 0
    core := BitVec.ofNat 11 s.ix.co.core
    pc := s.ix.pc
    addr := t.addr
    done := match s.ix.rep with
      | some i => BitVec.ofNat 64 i
      | none => 0
    detail := t.detail }

/-- The instruction in issue raises a trap: its core takes it (R360), and the issue step learns of it. -/
def State.raise (s : State) (t : TrapInfo) : State :=
  let r := s.record t
  { s.upd (fun h => h.trapAs true s.ix.co r) with ix := { s.ix with trap := some r } }

/-- The instruction in issue blocks: its engine is blocked, nothing else changes (R65, R184). -/
def State.hold (s : State) : State :=
  { s.onMe (fun e => { e with st := .blocked }) with ix := { s.ix with blocked := true } }

/-- The outcome of an instruction from its checks: its next state, the trap it takes, or its block. -/
def settle (s : State) : Chk State → Host.Outcome State Fault Refusal
  | .ok t => .next t
  | .error (.trap t) => .next (s.raise t)
  | .error .block => .next s.hold

end Sys2Proof.Machine
end

