-- ==== Sys2Proof/Machine/Operands.lean ====
section
/-! DEFINITION. The operand forms: register files with their constant members (R69), capability fields and bounds (R75,
R76), the access check (R81), and the effective addresses of the M and X formats (R147, R131). -/

namespace Sys2Proof.Machine

/-! ### Registers -/

/-- A scalar register: g0 reads 0 (R69). -/
def State.g (s : State) (r : BitVec 6) : GReg := if r = 0 then {} else s.me.g.get r.toFin

/-- Writing a scalar register: writes to g0 are ignored (R69). -/
def State.setG (s : State) (r : BitVec 6) (x : GReg) : State :=
  if r = 0 then s else s.onMe (fun e => { e with g := e.g.set r.toNat x r.isLt })

/-- A predicate: p0 reads 1 (R69). -/
def State.p (s : State) (r : BitVec 3) : PReg := if r = 0 then { bit := true } else s.me.p.get r.toFin

/-- Writing a predicate: writes to p0 are ignored (R69). -/
def State.setP (s : State) (r : BitVec 3) (x : PReg) : State :=
  if r = 0 then s else s.onMe (fun e => { e with p := e.p.set r.toNat x r.isLt })

/-- A capability register. -/
def State.c (s : State) (r : BitVec 4) : CReg := s.me.c.get r.toFin

/-- Writing a capability register. -/
def State.setC (s : State) (r : BitVec 4) (x : CReg) : State :=
  s.onMe (fun e => { e with c := e.c.set r.toNat x r.isLt })

/-- A loop counter. -/
def State.lcv (s : State) (r : BitVec 2) : Lane := s.me.lc.get r.toFin

/-- Writing a loop counter. -/
def State.setLc (s : State) (r : BitVec 2) (x : Lane) : State :=
  s.onMe (fun e => { e with lc := e.lc.set r.toNat x r.isLt })

/-- A vector register. -/
def State.v (s : State) (r : BitVec 6) : VReg := s.here.cu.v.get r.toFin

/-- Writing a vector register. -/
def State.setV (s : State) (r : BitVec 6) (x : VReg) : State :=
  s.onCu (fun u => { u with v := u.v.set r.toNat x r.isLt })

/-- A lane mask: m0 reads all ones (R69). -/
def State.m (s : State) (r : BitVec 3) : Lane := if r = 0 then 0xFFFFFFFF#32 else s.here.cu.m.get r.toFin

/-- Writing a lane mask: writes to m0 are ignored (R69). -/
def State.setM (s : State) (r : BitVec 3) (x : Lane) : State :=
  if r = 0 then s else s.onCu (fun u => { u with m := u.m.set r.toNat x r.isLt })

/-- The detail of a poison trap: register file and index (R363). -/
def poisonDetail (file reg : Nat) (lanes : Nat := 0) : BitVec 256 :=
  detField 32 1 file ||| detField 33 1 reg ||| detField 36 4 lanes

/-- A scalar operand that is consumed: poison raises 0x31 (R303). -/
def State.gUse (s : State) (r : BitVec 6) : Chk Word :=
  let x := s.g r
  if x.psn then trapWith 0x31 0 (poisonDetail 0 r.toNat) else .ok x.bits

/-! ### Lanes -/

/-- Lane L of a register (R42). -/
def VReg.lane (x : VReg) (l : Nat) : Lane := x.bits.extractLsb' (32 * l) 32

/-- The register's 1,024 bits from its lanes (R42). -/
def packLanes (f : Nat → Lane) : Nat → Nat → Nat
  | 0, _ => 0
  | n + 1, l => (f l).toNat + 2 ^ 32 * packLanes f n (l + 1)

/-- Bits from a function of the lane. -/
def lanesOf (f : Nat → Lane) : VBits := BitVec.ofNat 1024 (packLanes f 32 0)

/-- A 32-bit mask from a function of the lane, lane 0 lowest. -/
def packBits (f : Nat → Bool) : Nat → Nat → Nat
  | 0, _ => 0
  | n + 1, l => (if f l then 1 else 0) + 2 * packBits f n (l + 1)

/-- Lane bits from a function of the lane. -/
def bitsOf (f : Nat → Bool) : Lane := BitVec.ofNat 32 (packBits f 32 0)

/-- The bytes of a memory image in a register, byte b at bits [8b + 7 : 8b] (R42). -/
def vbitsOfBytes (bs : List Byte) : VBits := BitVec.ofNat 1024 (leNat bs)

/-! ### Capabilities -/

/-- The cursor (R75). -/
def CReg.cursor (x : CReg) : Nat := (x.bits.extractLsb' 64 48).toNat

/-- The space (R75). -/
def CReg.space (x : CReg) : Nat := (x.bits.extractLsb' 124 4).toNat

/-- The permissions (R75). -/
def CReg.perm (x : CReg) : BitVec 12 := x.bits.extractLsb' 112 12

/-- The base: BASEG times 16 (R76). -/
def CReg.base (x : CReg) : Nat := (x.bits.extractLsb' 0 44).toNat * 16

/-- The length: LMAN times 2^LEXP (R76). -/
def CReg.length (x : CReg) : Nat := (x.bits.extractLsb' 44 14).toNat * 2 ^ (x.bits.extractLsb' 58 6).toNat

/-- The top: base plus length (R76). -/
def CReg.top (x : CReg) : Nat := x.base + x.length

/-- The 128 bits of a capability from its fields (R75). -/
def capBits (space perm cursor lexp lman baseg : Nat) : BitVec 128 :=
  BitVec.ofNat 128 (space % 16 * 2 ^ 124 + perm % 4096 * 2 ^ 112 + cursor % 2 ^ 48 * 2 ^ 64 + lexp % 64 * 2 ^ 58
    + lman % 2 ^ 14 * 2 ^ 44 + baseg % 2 ^ 44)

/-- The capability with another cursor, mod 2^48; bounds and tag stay (R76, R85). -/
def CReg.withCursor (x : CReg) (cur : Int) : CReg :=
  { x with bits := (x.bits &&& ~~~(BitVec.ofNat 128 ((2 ^ 48 - 1) * 2 ^ 64)))
      ||| BitVec.ofNat 128 ((cur % 2 ^ 48).toNat * 2 ^ 64) }

/-- The capability with other permissions (R85). -/
def CReg.withPerm (x : CReg) (p : BitVec 12) : CReg :=
  { x with bits := (x.bits &&& ~~~(BitVec.ofNat 128 (4095 * 2 ^ 112))) ||| BitVec.ofNat 128 (p.toNat * 2 ^ 112) }

/-- The length exponent that represents `len` bytes: the least e with ceil(len / 2^e) at most 16,383 (R86). -/
def lenExp (len : Nat) : Nat → Nat → Nat
  | 0, e => e
  | fuel + 1, e => if (len + 2 ^ e - 1) / 2 ^ e > 16383 then lenExp len fuel (e + 1) else e

/-- A tagged capability of a space over [base, base + len), its length rounded up as R86 rounds. -/
def mkCap (space : Nat) (perm : BitVec 12) (base len cursor : Nat) : CReg :=
  let e := lenExp len 64 0
  { bits := capBits space perm.toNat cursor e ((len + 2 ^ e - 1) / 2 ^ e) (base / 16), tag := true }

/-- Permission bits by number (R79). -/
def permBit (i : Nat) : BitVec 12 := BitVec.ofNat 12 (2 ^ i)

/-- Load (R79). -/
def pLd : BitVec 12 := permBit 0
/-- Store (R79). -/
def pSt : BitVec 12 := permBit 1
/-- Execute (R79). -/
def pEx : BitVec 12 := permBit 2
/-- Load-capability (R79). -/
def pLc : BitVec 12 := permBit 3
/-- Store-capability (R79). -/
def pSc : BitVec 12 := permBit 4
/-- Accumulate (R79). -/
def pAc : BitVec 12 := permBit 5
/-- Atomic-return (R79). -/
def pAr : BitVec 12 := permBit 6
/-- Continuation-launch (R79). -/
def pCl : BitVec 12 := permBit 7
/-- Stream-put (R79). -/
def pSp : BitVec 12 := permBit 8
/-- Stream-get (R79). -/
def pSg : BitVec 12 := permBit 9
/-- Derive-global (R79). -/
def pDg : BitVec 12 := permBit 10
/-- System (R79). -/
def pSy : BitVec 12 := permBit 11

/-- All permissions of `need` are present (R81). -/
def CReg.has (x : CReg) (need : BitVec 12) : Bool := x.perm &&& need == need

/-- The detail of a capability trap: register, size and the 128 bits (R363). -/
def capDetail (reg n : Nat) (x : CReg) : BitVec 256 :=
  detField 32 1 reg ||| detField 40 8 n ||| detField 48 16 x.bits.toNat

/-- Steps 1 to 3 of R81: tag, space, permission (space 7 needs sy as well, R80). -/
def checkUse (reg : Nat) (x : CReg) (spaces : List Nat) (need : BitVec 12) (ea : Int) (n : Nat) : Chk Unit := do
  let d := capDetail reg n x
  let a := (ea % 2 ^ 64).toNat
  trapIf (!x.tag) 0x10 a d
  trapIf (!(spaces.contains x.space)) 0x13 a d
  trapIf (!x.has (if x.space = 7 then need ||| pSy else need)) 0x12 a d

/-- Steps 1 to 4 of R81: tag, space, permission, bounds. -/
def checkCap (reg : Nat) (x : CReg) (spaces : List Nat) (need : BitVec 12) (ea : Int) (n : Nat) : Chk Unit := do
  checkUse reg x spaces need ea n
  trapIf (decide (ea < x.base) || decide (x.top < ea + n)) 0x11 (ea % 2 ^ 64).toNat (capDetail reg n x)

/-- Step 5 of R81 for the places of a core: spaces 1 and 5 end at 2^19, space 6 at 2^17 (R78). -/
def targetExists (x : CReg) (ea : Int) (n : Nat) : Bool :=
  if x.space = 6 then decide (ea + n ≤ 2 ^ 17) else decide (ea + n ≤ 2 ^ 19)

/-- The whole check of R81 for an access to own memory through register `reg`. -/
def checkOwn (reg : Nat) (x : CReg) (spaces : List Nat) (need : BitVec 12) (ea : Int) (n : Nat) : Chk Nat := do
  checkCap reg x spaces need ea n
  trapIf (!targetExists x ea n) 0x13 (ea % 2 ^ 64).toNat (capDetail reg n x)
  .ok ea.toNat

/-- The effective address of the M format: CURSOR + OFF + (gX << SC), formed exactly; a poisoned gX raises 0x31 before
the checks (R81, R147). -/
def State.mAddr (s : State) (cb : BitVec 4) (x : BitVec 6) (sc : BitVec 3) (off : BitVec 32) : Chk Int := do
  let gx ← s.gUse x
  .ok (((s.c cb).cursor : Int) + off.toInt + gx.toInt * 2 ^ sc.toNat)

/-- A local offset c8.CURSOR + gA that is checked through c8 (R132, R160, R272), gA as a signed number (log entry 98). -/
def State.c8Addr (s : State) (a : Word) : Int := ((s.c 8).cursor : Int) + a.toInt

/-- A mark met by a read in the core's own memory raises 0x31 (R302). -/
def State.checkMark (s : State) (off n : Nat) : Chk Unit :=
  match s.toHw.markedIn (localKey s.ix.co off) n with
  | some k => trapWith 0x31 (k - localKey s.ix.co 0) (poisonDetail 3 0)
  | none => .ok ()

end Sys2Proof.Machine
end

