-- ==== Sys2Proof/Machine/Flags.lean ====
section
/-! DEFINITION. Conditions and comparisons: the part has no arithmetic flags (R29); the condition codes of R62 and R196
stand in their place. -/

namespace Sys2Proof.Machine

/-- The condition of R62 on two words. -/
def condHolds (cnd : BitVec 4) (a b : Word) : Bool :=
  match cnd.toNat with
  | 0 => a == b
  | 1 => a != b
  | 2 => a.slt b
  | 3 => !a.slt b
  | 4 => a.ult b
  | _ => !a.ult b

/-- The condition of R196 from an order of the operands; `none` when one is NaN. -/
def ccHolds (cc : BitVec 4) (o : Option Ordering) : Bool :=
  match cc.toNat, o with
  | 0, o => o == some .eq
  | 1, o => o != some .eq
  | 2, o => o == some .lt
  | 3, o => o == some .lt || o == some .eq
  | 4, o => o == some .gt
  | 5, o => o == some .gt || o == some .eq
  | 6, o => o == none
  | _, o => o != none

end Sys2Proof.Machine
end

