-- ==== Sys2Proof/Machine/Scalar.lean ====
section
/-! DEFINITION. The scalar instructions 0x040 to 0x069 (R185-R190). A result is poisoned when any operand is; none of
them traps. -/

namespace Sys2Proof.Machine

/-- One step's answer. -/
abbrev Out := Host.Outcome State Fault Refusal

/-- gD := f(a), poisoned as gA is (R185). -/
def scalar1 (d a : BitVec 6) (f : Word → Word) (s : State) : Out :=
  .next (s.setG d ⟨f (s.g a).bits, (s.g a).psn⟩)

/-- gD := f(a, b), poisoned when an operand is (R185). -/
def scalar2 (d a b : BitVec 6) (f : Word → Word → Word) (s : State) : Out :=
  .next (s.setG d ⟨f (s.g a).bits (s.g b).bits, (s.g a).psn || (s.g b).psn⟩)

/-- The first of two that a test picks, the second otherwise (R186: a when equal). -/
def pick (b : Bool) (x y : Word) : Word := if b then x else y

/-- Leading zeros of the `n` low bits of a number, from the top. -/
def leadingZeros (w : Word) : Nat → Nat
  | 0 => 0
  | n + 1 => if w.getLsbD n then 0 else leadingZeros w n + 1

/-- Trailing zeros from bit `64 - n` up. -/
def trailingZeros (w : Word) : Nat → Nat
  | 0 => 0
  | n + 1 => if w.getLsbD (63 - n) then 0 else trailingZeros w n + 1

/-- The number of 1 bits among bits 0 to n - 1. -/
def popCount {k : Nat} (w : BitVec k) : Nat → Nat
  | 0 => 0
  | n + 1 => popCount w n + (if w.getLsbD n then 1 else 0)

/-- An integer clamped to a range. -/
def clampInt (lo hi x : Int) : Int := max lo (min hi x)

/-- Truncated signed quotient and remainder (R187). -/
def divRemS (a b : Word) : Word × Word :=
  if b = 0 then (0, a)
  else if a.toInt = -2 ^ 63 ∧ b.toInt = -1 then (a, 0)
  else (BitVec.ofInt 64 (a.toInt.tdiv b.toInt), BitVec.ofInt 64 (a.toInt.tmod b.toInt))

/-- Unsigned quotient and remainder (R187). -/
def divRemZ (a b : Word) : Word × Word :=
  if b = 0 then (0, a) else (BitVec.ofNat 64 (a.toNat / b.toNat), BitVec.ofNat 64 (a.toNat % b.toNat))

/-- One round of Philox4x32-10 (R190). -/
def philoxRound (x0 x1 x2 x3 k0 k1 : Nat) : Nat × Nat × Nat × Nat :=
  let pm := 0xD2511F53 * x0
  let qm := 0xCD9E8D57 * x2
  ((qm / 2 ^ 32) ^^^ x1 ^^^ k0, qm % 2 ^ 32, (pm / 2 ^ 32) ^^^ x3 ^^^ k1, pm % 2 ^ 32)

/-- The remaining rounds of Philox4x32-10 (R190). -/
def philoxLoop : Nat → Nat → Nat → Nat → Nat → Nat → Nat → Nat × Nat × Nat × Nat
  | 0, x0, x1, x2, x3, _, _ => (x0, x1, x2, x3)
  | n + 1, x0, x1, x2, x3, k0, k1 =>
    let (y0, y1, y2, y3) := philoxRound x0 x1 x2 x3 k0 k1
    philoxLoop n y0 y1 y2 y3 ((k0 + 0x9E3779B9) % 2 ^ 32) ((k1 + 0xBB67AE85) % 2 ^ 32)

/-- Word w of Philox4x32-10 under key a and counter (b, c) (R190). -/
def philox (a b c : Word) (w : Nat) : Lane :=
  let lo := fun (x : Word) => x.toNat % 2 ^ 32
  let hi := fun (x : Word) => x.toNat / 2 ^ 32
  let (x0, x1, x2, x3) := philoxLoop 10 (lo b) (hi b) (lo c) (hi c) (lo a) (hi a)
  BitVec.ofNat 32 (match w with
    | 0 => x0
    | 1 => x1
    | 2 => x2
    | _ => x3)

/-- `add`: a + b (R186). -/
def execAdd (d a b : BitVec 6) (s : State) : Out :=
  scalar2 d a b (fun x y => x + y) s

/-- `sub`: a - b (R186). -/
def execSub (d a b : BitVec 6) (s : State) : Out :=
  scalar2 d a b (fun x y => x - y) s

/-- `addi`: a + IMM64 (R186). -/
def execAddi (d a : BitVec 6) (imm : BitVec 64) (s : State) : Out :=
  scalar1 d a (fun x => x + imm) s

/-- `li`: IMM64, poison clear (R186). -/
def execLi (d : BitVec 6) (imm : BitVec 64) (s : State) : Out :=
  .next (s.setG d ⟨imm, false⟩)

/-- `mov`: a, with its poison (R186). -/
def execMov (d a : BitVec 6) (s : State) : Out :=
  scalar1 d a (fun x => x) s

/-- `mul`: the low half of the product (R186). -/
def execMul (d a b : BitVec 6) (s : State) : Out :=
  scalar2 d a b (fun x y => x * y) s

/-- `mulh.s`: the high half of the signed product (R186). -/
def execMulhS (d a b : BitVec 6) (s : State) : Out :=
  scalar2 d a b (fun x y => BitVec.ofInt 64 (x.toInt * y.toInt / 2 ^ 64)) s

/-- `mulh.z`: the high half of the unsigned product (R186). -/
def execMulhZ (d a b : BitVec 6) (s : State) : Out :=
  scalar2 d a b (fun x y => BitVec.ofNat 64 (x.toNat * y.toNat / 2 ^ 64)) s

/-- `mad`: a * b + c (R186). -/
def execMad (d a b c : BitVec 6) (s : State) : Out :=
  .next (s.setG d ⟨(s.g a).bits * (s.g b).bits + (s.g c).bits, (s.g a).psn || (s.g b).psn || (s.g c).psn⟩)

/-- `div.s`: quotient toward zero (R187). -/
def execDivS (d a b : BitVec 6) (s : State) : Out :=
  scalar2 d a b (fun x y => (divRemS x y).1) s

/-- `div.z`: quotient toward zero (R187). -/
def execDivZ (d a b : BitVec 6) (s : State) : Out :=
  scalar2 d a b (fun x y => (divRemZ x y).1) s

/-- `rem.s`: remainder (R187). -/
def execRemS (d a b : BitVec 6) (s : State) : Out :=
  scalar2 d a b (fun x y => (divRemS x y).2) s

/-- `rem.z`: remainder (R187). -/
def execRemZ (d a b : BitVec 6) (s : State) : Out :=
  scalar2 d a b (fun x y => (divRemZ x y).2) s

/-- `and`: a AND b (R186). -/
def execAnd (d a b : BitVec 6) (s : State) : Out :=
  scalar2 d a b (fun x y => x &&& y) s

/-- `or`: a OR b (R186). -/
def execOr (d a b : BitVec 6) (s : State) : Out :=
  scalar2 d a b (fun x y => x ||| y) s

/-- `xor`: a XOR b (R186). -/
def execXor (d a b : BitVec 6) (s : State) : Out :=
  scalar2 d a b (fun x y => x ^^^ y) s

/-- `andn`: a AND NOT b (R186). -/
def execAndn (d a b : BitVec 6) (s : State) : Out :=
  scalar2 d a b (fun x y => x &&& ~~~y) s

/-- `shl`: a shifted left by b mod 64 (R186). -/
def execShl (d a b : BitVec 6) (s : State) : Out :=
  scalar2 d a b (fun x y => x <<< (y.toNat % 64)) s

/-- `shr.z`: a shifted right by b mod 64, zeros in (R186). -/
def execShrZ (d a b : BitVec 6) (s : State) : Out :=
  scalar2 d a b (fun x y => x >>> (y.toNat % 64)) s

/-- `shr.s`: a shifted right by b mod 64, sign in (R186). -/
def execShrS (d a b : BitVec 6) (s : State) : Out :=
  scalar2 d a b (fun x y => x.sshiftRight (y.toNat % 64)) s

/-- `rotl`: a rotated left by b mod 64 (R186). -/
def execRotl (d a b : BitVec 6) (s : State) : Out :=
  scalar2 d a b (fun x y => x.rotateLeft (y.toNat % 64)) s

/-- `clz`: leading zero bits, 64 for 0 (R186). -/
def execClz (d a : BitVec 6) (s : State) : Out :=
  scalar1 d a (fun x => BitVec.ofNat 64 (leadingZeros x 64)) s

/-- `ctz`: trailing zero bits, 64 for 0 (R186). -/
def execCtz (d a : BitVec 6) (s : State) : Out :=
  scalar1 d a (fun x => BitVec.ofNat 64 (trailingZeros x 64)) s

/-- `popc`: number of 1 bits (R186). -/
def execPopc (d a : BitVec 6) (s : State) : Out :=
  scalar1 d a (fun x => BitVec.ofNat 64 (popCount x 64)) s

/-- `min.s`: the smaller, signed; a when equal (R186). -/
def execMinS (d a b : BitVec 6) (s : State) : Out :=
  scalar2 d a b (fun x y => pick (y.slt x) y x) s

/-- `min.z`: the smaller, unsigned; a when equal (R186). -/
def execMinZ (d a b : BitVec 6) (s : State) : Out :=
  scalar2 d a b (fun x y => pick (y.ult x) y x) s

/-- `max.s`: the larger, signed; a when equal (R186). -/
def execMaxS (d a b : BitVec 6) (s : State) : Out :=
  scalar2 d a b (fun x y => pick (x.slt y) y x) s

/-- `max.z`: the larger, unsigned; a when equal (R186). -/
def execMaxZ (d a b : BitVec 6) (s : State) : Out :=
  scalar2 d a b (fun x y => pick (x.ult y) y x) s

/-- `sel`: a when pC = 1, else b; poisoned by pC or the chosen operand (R188). -/
def execSel (d a b : BitVec 6) (c : BitVec 3) (s : State) : Out :=
  let x := if (s.p c).bit then s.g a else s.g b
  .next (s.setG d ⟨x.bits, x.psn || (s.p c).psn⟩)

/-- `cmp`: pD := the condition on a and b (R188). -/
def execCmp (cnd : BitVec 4) (d : BitVec 3) (a b : BitVec 6) (s : State) : Out :=
  .next (s.setP d ⟨condHolds cnd (s.g a).bits (s.g b).bits, (s.g a).psn || (s.g b).psn⟩)

/-- `cmpi`: pD := the condition on a and the sign-extended immediate (R188). -/
def execCmpi (cnd : BitVec 4) (d : BitVec 3) (a : BitVec 6) (imm : BitVec 60) (s : State) : Out :=
  .next (s.setP d ⟨condHolds cnd (s.g a).bits (imm.signExtend 64), (s.g a).psn⟩)

/-- `pmix`: pD := t[2 pA + pB] (R188). -/
def execPmix (d a b : BitVec 3) (t : BitVec 4) (s : State) : Out :=
  let i := 2 * (s.p a).bit.toNat + (s.p b).bit.toNat
  .next (s.setP d ⟨t.getLsbD i, (s.p a).psn || (s.p b).psn⟩)

/-- `ext.s8`: sign extension of a[7:0] (R186). -/
def execExtS8 (d a : BitVec 6) (s : State) : Out :=
  scalar1 d a (fun x => (x.setWidth 8).signExtend 64) s

/-- `ext.z8`: zero extension of a[7:0] (R186). -/
def execExtZ8 (d a : BitVec 6) (s : State) : Out :=
  scalar1 d a (fun x => (x.setWidth 8).setWidth 64) s

/-- `ext.s16`: sign extension of a[15:0] (R186). -/
def execExtS16 (d a : BitVec 6) (s : State) : Out :=
  scalar1 d a (fun x => (x.setWidth 16).signExtend 64) s

/-- `ext.z16`: zero extension of a[15:0] (R186). -/
def execExtZ16 (d a : BitVec 6) (s : State) : Out :=
  scalar1 d a (fun x => (x.setWidth 16).setWidth 64) s

/-- `ext.s32`: sign extension of a[31:0] (R186). -/
def execExtS32 (d a : BitVec 6) (s : State) : Out :=
  scalar1 d a (fun x => (x.setWidth 32).signExtend 64) s

/-- `ext.z32`: zero extension of a[31:0] (R186). -/
def execExtZ32 (d a : BitVec 6) (s : State) : Out :=
  scalar1 d a (fun x => (x.setWidth 32).setWidth 64) s

/-- `adds.s64`: the sum clamped to 64 bits (R186). -/
def execAddsS64 (d a b : BitVec 6) (s : State) : Out :=
  scalar2 d a b (fun x y => BitVec.ofInt 64 (clampInt (-2 ^ 63) (2 ^ 63 - 1) (x.toInt + y.toInt))) s

/-- The field [pos + len - 1 : pos] of a word. -/
def fieldOf (x : Word) (pos len : Nat) : Nat := x.toNat / 2 ^ pos % 2 ^ len

/-- `bfx`: the field, zero- or sign-extended (R189). -/
def execBfx (d a pos : BitVec 6) (len : BitVec 7) (sx : BitVec 1) (s : State) : Out :=
  scalar1 d a (fun x =>
    let f := fieldOf x pos.toNat len.toNat
    if sx = 1 ∧ 2 * f ≥ 2 ^ len.toNat then BitVec.ofInt 64 ((f : Int) - 2 ^ len.toNat) else BitVec.ofNat 64 f) s

/-- `bfi`: gD with the field replaced by the low bits of a (R189). -/
def execBfi (d a pos : BitVec 6) (len : BitVec 7) (s : State) : Out :=
  scalar2 d d a (fun y x =>
    BitVec.ofNat 64 (y.toNat - fieldOf y pos.toNat len.toNat * 2 ^ pos.toNat
      + x.toNat % 2 ^ len.toNat * 2 ^ pos.toNat)) s

/-- `rnd`: word w of Philox4x32-10 (R190). -/
def execRnd (d a b c : BitVec 6) (w : BitVec 2) (s : State) : Out :=
  .next (s.setG d ⟨(philox (s.g a).bits (s.g b).bits (s.g c).bits w.toNat).setWidth 64,
    (s.g a).psn || (s.g b).psn || (s.g c).psn⟩)

end Sys2Proof.Machine
end

