-- ==== Sys2Proof/Machine/Caps.lean ====
section
/-! DEFINITION. The capability instructions 0x080 to 0x08F (R85-R88). -/

namespace Sys2Proof.Machine

/-- The active barrier whose slot is one of the granules of `n` bytes from `off` on: name and slot offset (R155). -/
def Core.barrierIn (k : Core) (off n : Nat) : Option (Nat × Nat) :=
  (k.tbdir.find? (fun e => (granules off n).contains e.2.2.toNat)).map (fun e => (e.2.1.toNat, 16 * e.2.2.toNat))

/-- The detail of a barrier trap: name and the slot's 16 bytes, zero when it is not active (R363). -/
def barrierDetail (name slotBits : Nat) : BitVec 256 := detField 32 2 name ||| detField 48 16 slotBits

/-- A write that touches the slot of an active barrier raises 0x33 (R147, R156). -/
def State.checkSlot (s : State) (off n : Nat) : Chk Unit :=
  match s.here.barrierIn off n with
  | some (name, slot) => trapWith 0x33 off (barrierDetail name (s.toHw.num (localKey s.ix.co slot) 16))
  | none => .ok ()

/-- `cmov` (R85). -/
def execCmov (d a : BitVec 4) (s : State) : Out := .next (s.setC d (s.c a))

/-- `cinc`: the cursor plus gB, mod 2^48 (R85). -/
def execCinc (d a : BitVec 4) (b : BitVec 6) (s : State) : Out :=
  settle s (do
    let x ← s.gUse b
    .ok (s.setC d ((s.c a).withCursor ((s.c a).cursor + x.toInt))))

/-- `cinci`: the cursor plus the immediate, mod 2^48 (R85). -/
def execCinci (d a : BitVec 4) (imm : BitVec 64) (s : State) : Out :=
  .next (s.setC d ((s.c a).withCursor ((s.c a).cursor + imm.toInt)))

/-- The bounds of `cbound` over [cursor, cursor + len): base, exponent, mantissa (R86). -/
def boundFields (cursor len : Nat) : Nat × Nat × Nat :=
  let lo := cursor - cursor % 16
  let n := len + (cursor - lo)
  let e := lenExp n 64 0
  (lo, e, (n + 2 ^ e - 1) / 2 ^ e)

/-- `cbound`: narrows the bounds; a tagged result past the parent's bounds raises 0x11 (R86). -/
def execCbound (d a : BitVec 4) (b : BitVec 6) (s : State) : Out :=
  settle s (do
    let x ← s.gUse b
    let c := s.c a
    let (lo, e, man) := boundFields c.cursor x.toNat
    trapIf (c.tag && (decide (lo < c.base) || decide (c.top < lo + man * 2 ^ e))) 0x11 c.cursor
      (capDetail a.toNat x.toNat c)
    .ok (s.setC d { bits := capBits c.space c.perm.toNat c.cursor e man (lo / 16), tag := c.tag }))

/-- `cperm`: PERM AND the mask (R85). -/
def execCperm (d a : BitVec 4) (mask : BitVec 12) (s : State) : Out :=
  .next (s.setC d ((s.c a).withPerm ((s.c a).perm &&& mask)))

/-- `cgetb`: the base (R85). -/
def execCgetb (d : BitVec 6) (a : BitVec 4) (s : State) : Out :=
  .next (s.setG d ⟨BitVec.ofNat 64 (s.c a).base, false⟩)

/-- `cgetl`: the length, saturated (R85). -/
def execCgetl (d : BitVec 6) (a : BitVec 4) (s : State) : Out :=
  .next (s.setG d ⟨BitVec.ofNat 64 (min (s.c a).length (2 ^ 64 - 1)), false⟩)

/-- `cgeto`: cursor minus base, signed (R85). -/
def execCgeto (d : BitVec 6) (a : BitVec 4) (s : State) : Out :=
  .next (s.setG d ⟨BitVec.ofInt 64 ((s.c a).cursor - (s.c a).base), false⟩)

/-- `cgetp`: tag, space and permissions (R85). -/
def execCgetp (d : BitVec 6) (a : BitVec 4) (s : State) : Out :=
  let c := s.c a
  .next (s.setG d ⟨BitVec.ofNat 64 (c.tag.toNat * 2 ^ 16 + c.space * 2 ^ 12 + c.perm.toNat), false⟩)

/-- `ctest`: the tag (R85). -/
def execCtest (d : BitVec 3) (a : BitVec 4) (s : State) : Out := .next (s.setP d ⟨(s.c a).tag, false⟩)

/-- One capability is contained in another (`cle`, R85). -/
def CReg.le (a b : CReg) : Bool :=
  a.tag && b.tag && a.space == b.space && b.has a.perm && decide (b.base ≤ a.base) && decide (a.top ≤ b.top)

/-- `cle`: containment (R85). -/
def execCle (d : BitVec 3) (a b : BitVec 4) (s : State) : Out := .next (s.setP d ⟨(s.c a).le (s.c b), false⟩)

/-- `cclr`: 128 zero bits, tag 0 (R85). -/
def execCclr (d : BitVec 4) (s : State) : Out := .next (s.setC d {})

/-- `caddr`: the cursor becomes gB mod 2^48 (R85). -/
def execCaddr (d a : BitVec 4) (b : BitVec 6) (s : State) : Out :=
  settle s (do
    let x ← s.gUse b
    .ok (s.setC d ((s.c a).withCursor x.toNat)))

/-- `cld`: the granule's 16 bytes and its tag (R87). -/
def execCld (d cb : BitVec 4) (x : BitVec 6) (sc : BitVec 3) (off : BitVec 32) (s : State) : Out :=
  settle s (do
    let ea ← s.mAddr cb x sc off
    let a ← checkOwn cb.toNat (s.c cb) [1] (pLd ||| pLc) ea 16
    trapIf (a % 16 != 0) 0x11 a (capDetail cb.toNat 16 (s.c cb))
    s.checkMark a 16
    let k := localKey s.ix.co a
    .ok (s.setC d { bits := BitVec.ofNat 128 (s.toHw.num k 16), tag := s.toHw.tagAt k }))

/-- `cst`: the 128 bits to the granule, which takes the tag (R87). -/
def execCst (d cb : BitVec 4) (x : BitVec 6) (sc : BitVec 3) (off : BitVec 32) (s : State) : Out :=
  settle s (do
    let ea ← s.mAddr cb x sc off
    let a ← checkOwn cb.toNat (s.c cb) [1] (pSt ||| pSc) ea 16
    trapIf (a % 16 != 0) 0x11 a (capDetail cb.toNat 16 (s.c cb))
    s.checkSlot a 16
    let k := localKey s.ix.co a
    .ok (s.upd (fun h => (h.putNum k 16 (s.c d).bits.toNat).setTag (s.c d).tag k)))

/-- `cfoot`: footprint k as it was preloaded; null where the entry has none (R88). -/
def execCfoot (d : BitVec 4) (k : BitVec 3) (s : State) : Out :=
  .next (s.setC d (match s.task.feet[k.toNat]? with
    | some f => if f.valid then f.cap else {}
    | none => {}))

end Sys2Proof.Machine
end

