-- ==== Sys2Proof/Machine/Num.lean ====
section
/-! DEFINITION. Exact values of the number formats and their rounding (R28-R37, R44-R51): a float code is read as an
exact dyadic value, an operation is exact, and one rounding ends it. -/

namespace Sys2Proof.Machine

/-- The exact value of a float code: `fin neg m e` is (-1)^neg * m * 2^e (R31). -/
inductive FVal where
  | nan
  | inf (neg : Bool)
  | fin (neg : Bool) (m : Nat) (e : Int)
  deriving DecidableEq, Repr

/-- 2^k for an integer power that is never negative where it is used. -/
def pow2 (k : Int) : Nat := 2 ^ k.toNat

/-- The value of the IEEE code `b` with `mb` fraction bits, whose exponent of infinities and NaNs is `emax` and whose least exponent
of a unit is `umin` (R31, R33). -/
def ieeeVal (mb emax : Nat) (umin : Int) (b : Nat) (neg : Bool) : FVal :=
  let e := b / 2 ^ mb
  let f := b % 2 ^ mb
  if e = emax then (if f = 0 then .inf neg else .nan)
  else if e = 0 then .fin neg f umin
  else .fin neg (2 ^ mb + f) (umin + (e - 1 : Nat))

/-- FP32 (R31). -/
def f32Val (b : Lane) : FVal := ieeeVal 23 255 (-149) (b.toNat % 2 ^ 31) b.msb

/-- BF16 (R33). -/
def bf16Val (b : BitVec 16) : FVal := ieeeVal 7 255 (-133) (b.toNat % 2 ^ 15) b.msb

/-- n / d * 2^e rounded to the nearest integer, ties to even (R30). -/
def rneInt (n d : Nat) (e : Int) : Nat :=
  let nn := n * pow2 e
  let dd := d * pow2 (-e)
  let q := nn / dd
  let r := nn % dd
  if 2 * r > dd ∨ (2 * r = dd ∧ q % 2 = 1) then q + 1 else q

/-- floor(log2 (n / d)) for positive n and d. -/
def floorLog2 (n d : Nat) : Int :=
  let k : Int := (Nat.log2 n : Int) - (Nat.log2 d : Int)
  if n * pow2 (-k) ≥ d * pow2 k then k else k - 1

/-- round_rne of the positive n / d * 2^e to a format of `mb` fraction bits: the magnitude's code, `inf` at most (R30). -/
def magRound (mb : Nat) (umin : Int) (inf : Nat) (n d : Nat) (e : Int) : Nat :=
  if n = 0 then 0 else
    let u := max (floorLog2 n d + e - mb) umin
    min inf ((u - umin).toNat * 2 ^ mb + rneInt n d (e - u))

/-- An exact ratio (-1)^neg * n / d * 2^e as FP32 (R30, R193). -/
def f32OfRat (neg : Bool) (n d : Nat) (e : Int) : Lane :=
  BitVec.ofNat 32 ((if neg then 2 ^ 31 else 0) + magRound 23 (-149) 0x7F800000 n d e)

/-- round_rne(x, FP32), every NaN canonical (R30, R32). -/
def f32Of : FVal → Lane
  | .nan => 0x7FC00000#32
  | .inf neg => if neg then 0xFF800000#32 else 0x7F800000#32
  | .fin neg m e => f32OfRat neg m 1 e

/-- IEEE binary64 (R355). -/
def f64Val (b : Word) : FVal := ieeeVal 52 2047 (-1074) (b.toNat % 2 ^ 63) b.msb

/-- An exact value rounded once to binary64, ties to even (R355); which NaN code stands for a NaN the manual does not say. -/
def f64Of : FVal → Word
  | .nan => Config.nan64
  | .inf neg => BitVec.ofNat 64 ((if neg then 2 ^ 63 else 0) + 0x7FF0000000000000)
  | .fin neg m e =>
    BitVec.ofNat 64 ((if neg then 2 ^ 63 else 0) + (if m = 0 then 0 else magRound 52 (-1074) 0x7FF0000000000000 m 1 e))

/-- An exact value after one rounding to binary64 (R355). -/
def FVal.round64 (x : FVal) : FVal :=
  match x with
  | .nan => .nan
  | x => f64Val (f64Of x)

/-- round_rne(x, BF16), every NaN canonical (R30, R32). -/
def bf16Of : FVal → BitVec 16
  | .nan => 0x7FC0#16
  | .inf neg => if neg then 0xFF80#16 else 0x7F80#16
  | .fin neg m e => BitVec.ofNat 16 ((if neg then 2 ^ 15 else 0) + magRound 7 (-133) 0x7F80 m 1 e)

/-- The integer m * 2^e of a sign and magnitude, at the common exponent `e0 ≤ e`. -/
def scaled (neg : Bool) (m : Nat) (e e0 : Int) : Int :=
  (if neg then -1 else 1) * ((m * pow2 (e - e0) : Nat) : Int)

/-- The exact sum, with the sign of a zero sum as IEEE 754 roundTiesToEven gives it (R193). -/
def FVal.add : FVal → FVal → FVal
  | .nan, _ => .nan
  | .inf _, .nan => .nan
  | .inf a, .inf b => if a = b then .inf a else .nan
  | .inf a, .fin _ _ _ => .inf a
  | .fin _ _ _, .nan => .nan
  | .fin _ _ _, .inf b => .inf b
  | .fin sa ma ea, .fin sb mb eb =>
    let e := min ea eb
    let v := scaled sa ma ea e + scaled sb mb eb e
    if v = 0 then .fin (sa && sb) 0 e else .fin (decide (v < 0)) v.natAbs e

/-- The value with its sign inverted. -/
def FVal.neg : FVal → FVal
  | .nan => .nan
  | .inf a => .inf (!a)
  | .fin s m e => .fin (!s) m e

/-- The exact product; 0 times infinity is invalid (R31). -/
def FVal.mul : FVal → FVal → FVal
  | .nan, _ => .nan
  | .inf _, .nan => .nan
  | .inf a, .inf b => .inf (a != b)
  | .inf a, .fin s m _ => if m = 0 then .nan else .inf (a != s)
  | .fin _ _ _, .nan => .nan
  | .fin s m _, .inf b => if m = 0 then .nan else .inf (s != b)
  | .fin sa ma ea, .fin sb mb eb => .fin (sa != sb) (ma * mb) (ea + eb)

/-- A / B rounded once (R193). -/
def f32Div : FVal → FVal → Lane
  | .nan, _ => f32Of .nan
  | _, .nan => f32Of .nan
  | .inf _, .inf _ => f32Of .nan
  | .inf a, .fin s _ _ => f32Of (.inf (a != s))
  | .fin s _ _, .inf b => f32Of (.fin (s != b) 0 0)
  | .fin sa ma ea, .fin sb mb eb =>
    if mb = 0 then (if ma = 0 then f32Of .nan else f32Of (.inf (sa != sb)))
    else f32OfRat (sa != sb) ma mb (ea - eb)

/-- floor(sqrt n) for n < 4^k, bit by bit from the top. -/
def isqrtAux (n : Nat) : Nat → Nat → Nat
  | 0, acc => acc
  | k + 1, acc => isqrtAux n k (if (acc + 2 ^ k) * (acc + 2 ^ k) ≤ n then acc + 2 ^ k else acc)

/-- floor(sqrt n) for n < 2^(2k). -/
def isqrt (k n : Nat) : Nat := isqrtAux n k 0

/-- The square root of m * 2^e rounded once: 2^100 more than the root's bits are kept and the rest is a sticky bit. -/
def f32SqrtFin (m : Nat) (e : Int) : Lane :=
  let odd := e % 2
  let n := m * pow2 odd * 2 ^ 200
  let r := isqrt 160 n
  f32OfRat false (2 * r + (if r * r = n then 0 else 1)) 1 ((e - odd) / 2 - 101)

/-- The square root (R193): -0 gives -0, a negative value NaN. -/
def f32Sqrt : FVal → Lane
  | .nan => f32Of .nan
  | .inf neg => if neg then f32Of .nan else f32Of (.inf false)
  | .fin neg m e => if m = 0 then f32Of (.fin neg 0 0) else if neg then f32Of .nan else f32SqrtFin m e

/-- 1 / sqrt(m * 2^e), rounded once (R194). -/
def f32RsqrtFin (m : Nat) (e : Int) : Lane :=
  let odd := e % 2
  let q := m * pow2 odd
  let r := isqrt 240 (2 ^ 400 / q)
  f32OfRat false (2 * r + (if r * r * q = 2 ^ 400 then 0 else 1)) 1 (-(e - odd) / 2 - 201)

/-- The reciprocal square root (R194). -/
def f32Rsqrt : FVal → Lane
  | .nan => f32Of .nan
  | .inf neg => if neg then f32Of .nan else f32Of (.fin false 0 0)
  | .fin neg m e => if m = 0 then f32Of (.inf neg) else if neg then f32Of .nan else f32RsqrtFin m e

/-- The numeric order of two values that are not NaN: below, equal, above, with -0 equal to +0 (R48). -/
def FVal.ord : FVal → FVal → Option Ordering
  | .nan, _ => none
  | _, .nan => none
  | .inf a, .inf b => some (if a = b then .eq else if a then .lt else .gt)
  | .inf a, .fin _ _ _ => some (if a then .lt else .gt)
  | .fin _ _ _, .inf b => some (if b then .gt else .lt)
  | .fin sa ma ea, .fin sb mb eb =>
    let e := min ea eb
    some (compare (scaled sa ma ea e) (scaled sb mb eb e))

/-- `vmin.f32` (min = true) and `vmax.f32` of two codes (R49). -/
def f32Pick (min : Bool) (a b : Lane) : Lane :=
  match f32Val a, f32Val b with
  | .nan, .nan => 0x7FC00000#32
  | .nan, _ => b
  | _, .nan => a
  | x, y =>
    match x.ord y with
    | some .lt => if min then a else b
    | some .gt => if min then b else a
    | _ => a

/-- The integral value of m * 2^e that a rounding chooses: floor, or nearest with ties to even (R195). -/
def f32Integral (nearest : Bool) : FVal → Lane
  | .nan => f32Of .nan
  | .inf neg => f32Of (.inf neg)
  | .fin neg m e =>
    if 0 ≤ e then f32Of (.fin neg m e) else
      let d := pow2 (-e)
      let k := if nearest then rneInt m 1 e else if neg then (m + d - 1) / d else m / d
      f32Of (.fin neg k 0)

/-- `vrrpi` (R195): x - 2k in [-1, 1), exact, a zero result with the sign of x. -/
def f32Rrpi : FVal → Lane
  | .nan => f32Of .nan
  | .inf _ => f32Of .nan
  | .fin neg m e =>
    if 1 ≤ e then f32Of (.fin neg 0 0) else
      let one := pow2 (-e)
      let y := (scaled neg m e e + one) % (2 * one : Int) - one
      if y = 0 then f32Of (.fin neg 0 0) else f32Of (.fin (decide (y < 0)) y.natAbs e)

/-- The class code of R196. -/
def f32Class (b : Lane) : Nat :=
  match f32Val b with
  | .nan => 8
  | .inf neg => if neg then 0 else 7
  | .fin neg m _ =>
    if m = 0 then (if neg then 3 else 4)
    else if m < 2 ^ 23 then (if neg then 2 else 5) else (if neg then 1 else 6)

/-- A device narrow float: sign, exponent and mantissa fields under R34, special codes apart. -/
def narrowVal (mw : Nat) (bias : Int) (neg : Bool) (code : Nat) : FVal :=
  if code = 0 ∧ neg = false then .fin false 0 0
  else .fin neg (2 ^ mw + code % 2 ^ mw) ((code / 2 ^ mw : Nat) - bias - mw)

/-- E4M3 (R35). -/
def e4m3Val (b : Byte) : FVal :=
  if b.toNat % 128 = 127 then .nan else narrowVal 3 7 b.msb (b.toNat % 128)

/-- E5M2 (R36). -/
def e5m2Val (b : Byte) : FVal :=
  let c := b.toNat % 128
  if c = 124 then .inf b.msb else if c > 124 then .nan else narrowVal 2 15 b.msb c

/-- E2M1 (R37), device values. -/
def e2m1Val (b : BitVec 4) : FVal := narrowVal 1 1 b.msb (b.toNat % 8)

/-- Distance of x from a narrow magnitude code, as an integer at a common scale 2^e0. -/
def codeDist (v : Int) (e0 : Int) : FVal → Nat
  | .fin s m e => (v - scaled s m e e0).natAbs
  | _ => 0

/-- The better of two candidate codes for the integer v at scale 2^e0: nearer, then even in its lowest bit, then of
smaller magnitude (R30). The first argument's code stands first. -/
def betterCode (val : Nat → FVal) (v e0 : Int) (a b : Nat) : Nat :=
  let da := codeDist v e0 (val a)
  let db := codeDist v e0 (val b)
  if db < da then b else if da < db then a
  else if a % 2 = 0 ∧ b % 2 = 1 then a else if b % 2 = 0 ∧ a % 2 = 1 then b
  else if codeDist 0 e0 (val b) < codeDist 0 e0 (val a) then b else a

/-- round_rne(x, fmt) over the finite codes of one sign and zero (R30): `top` is the largest magnitude code kept as a
candidate, `sgn` the code of the sign bit, `emin` an exponent below every candidate's. -/
def narrowRne (val : Nat → FVal) (top sgn : Nat) (emin : Int) (neg : Bool) (m : Nat) (e : Int) : Nat :=
  let e0 := min e emin
  let v := scaled neg m e e0
  let codes := if neg then (List.range (top + 1)).map (· + sgn) else (List.range top).map (· + 1)
  codes.foldl (betterCode val v e0) 0

/-- E4M3 of an exact value: the saturating form, or `.nv` (R45). The candidate past 448 is the missing 480. -/
def e4m3Of (nv : Bool) : FVal → Byte
  | .nan => 0x7F#8
  | .inf neg => if nv then 0x7F#8 else if neg then 0xFE#8 else 0x7E#8
  | .fin neg m e =>
    if m = 0 then 0#8 else
      let val : Nat → FVal := fun c => narrowVal 3 7 (decide (c ≥ 128)) (c % 128)
      let c := narrowRne val 127 128 (-12) neg m e
      if c % 128 = 127 then (if nv then 0x7F#8 else BitVec.ofNat 8 (c - 1)) else BitVec.ofNat 8 c

/-- E5M2 of an exact value (R45); the candidate past 57,344 is 65,536 and stands for infinity. -/
def e5m2Of : FVal → Byte
  | .nan => 0x7E#8
  | .inf neg => if neg then 0xFC#8 else 0x7C#8
  | .fin neg m e =>
    if m = 0 then 0#8 else
      let val : Nat → FVal := fun c => narrowVal 2 15 (decide (c ≥ 128)) (c % 128)
      BitVec.ofNat 8 (narrowRne val 124 128 (-20) neg m e)

/-- E2M1 of an exact finite value, saturating (R46). -/
def e2m1Of : FVal → BitVec 4
  | .fin neg m e =>
    if m = 0 then 0#4 else
      BitVec.ofNat 4 (narrowRne (fun c => e2m1Val (BitVec.ofNat 4 c)) 7 8 (-4) neg m e)
  | _ => 0#4

/-- A finite FP32 value as a 32-bit integer: to nearest even or toward zero, clamped (R45). -/
def s32OfF32 (rz : Bool) : FVal → Lane
  | .nan => 0#32
  | .inf neg => if neg then 0x80000000#32 else 0x7FFFFFFF#32
  | .fin neg m e =>
    let k := if rz then m * pow2 e / pow2 (-e) else rneInt m 1 e
    if neg then (if k ≥ 2 ^ 31 then 0x80000000#32 else BitVec.ofInt 32 (-(k : Int)))
    else if k ≥ 2 ^ 31 then 0x7FFFFFFF#32 else BitVec.ofNat 32 k

/-- An integer's value as an exact float value, zero positive (R45). -/
def FVal.ofInt (v : Int) : FVal := .fin (decide (v < 0)) v.natAbs 0

/-- The value times 2^k. -/
def FVal.scale (k : Int) : FVal → FVal
  | .nan => .nan
  | .inf a => .inf a
  | .fin s m e => .fin s m (e + k)

/-- The order key of a race key (R50); `none` for an invalid key. -/
def raceKeyF32 (b : Lane) : Option Lane :=
  match f32Val b with
  | .nan => none
  | _ =>
    let b := if b = 0x80000000#32 then 0#32 else b
    some (if b.msb then ~~~b else b ^^^ 0x80000000#32)

/-- The order key of an integer race key (R50). -/
def raceKeyS32 (b : Lane) : Option Lane := some (b ^^^ 0x80000000#32)

end Sys2Proof.Machine
end

