-- ==== Sys2Proof/Machine/Transc.lean ====
section
/-! DEFINITION. The correctly rounded functions of R194: each is computed in fixed point with 400 fractional bits (an
error far below the distance of any FP32 input's value from a rounding boundary) and rounded once. -/

namespace Sys2Proof.Machine

/-- Fractional bits of the fixed point. -/
def fxBits : Nat := 400

/-- The number one in fixed point. -/
def fxOne : Nat := 2 ^ fxBits

/-- floor(pi * 2^400). -/
def fxPi : Nat := 0x3243f6a8885a308d313198a2e03707344a4093822299f31d0082efa98ec4e6c89452821e638d01377be5466cf34e90c6cc0ac

/-- floor(ln 2 * 2^400). -/
def fxLn2 : Nat := 0xb17217f7d1cf79abc9e3b39803f2f6af40f343267298b62d8a0d175b8baafa2be7b876206debac98559552fb4afa1b10ed2e

/-- m * 2^e in fixed point (exact for every FP32 value). -/
def fxOf (m : Nat) (e : Int) : Nat := m * pow2 (e + fxBits) / pow2 (-(e + fxBits))

/-- A positive fixed-point number as FP32, with a sign. -/
def fxRound (neg : Bool) (v : Nat) : Lane := f32OfRat neg v 1 (-(fxBits : Int))

/-- The tail t + t*x/k + t*x*x/(k*(k+1)) + … of the exponential series. -/
def expTail (x : Nat) : Nat → Nat → Nat → Nat
  | 0, _, _ => 0
  | fuel + 1, k, t => if t = 0 then 0 else t + expTail x fuel (k + 1) (t * x / fxOne / k)

/-- exp(x) for a fixed-point 0 ≤ x < 1. -/
def fxExp (x : Nat) : Nat := expTail x 120 1 fxOne

/-- The odd terms z/k + z^3/(k+2) + … of the inverse hyperbolic tangent, `z2` the square. -/
def atanhTail (z2 : Nat) : Nat → Nat → Nat → Nat
  | 0, _, _ => 0
  | fuel + 1, k, t => if t = 0 then 0 else t / k + atanhTail z2 fuel (k + 2) (t * z2 / fxOne)

/-- ln(x) for a fixed-point 1 ≤ x < 2. -/
def fxLn (x : Nat) : Nat :=
  let z := (x - fxOne) * fxOne / (x + fxOne)
  2 * atanhTail (z * z / fxOne) 160 1 z

/-- The alternating series t - t*y/(k(k+1)) + … of sine (k = 2) and cosine (k = 1), `y` the square. -/
def trigTail (y : Nat) : Nat → Nat → Int → Int
  | 0, _, _ => 0
  | fuel + 1, k, t => if t = 0 then 0 else t + trigTail y fuel (k + 2) (-(t * y / fxOne / (k * (k + 1) : Nat)))

/-- sin(pi t) for a fixed-point 0 ≤ t ≤ 1/2. -/
def fxSinPi (t : Nat) : Nat :=
  let x := t * fxPi / fxOne
  (trigTail (x * x / fxOne) 100 2 x).toNat

/-- cos(pi t) for a fixed-point 0 ≤ t ≤ 1/2. -/
def fxCosPi (t : Nat) : Nat :=
  let x := t * fxPi / fxOne
  (trigTail (x * x / fxOne) 100 1 fxOne).toNat

/-- `vrcp.f32` (R194). -/
def f32Rcp (x : FVal) : Lane := f32Div (.fin false 1 0) x

/-- `vexp2.f32` (R194). -/
def f32Exp2 : FVal → Lane
  | .nan => f32Of .nan
  | .inf neg => if neg then 0#32 else f32Of (.inf false)
  | .fin neg m e =>
    if m * pow2 e ≥ 1024 * pow2 (-e) then (if neg then 0#32 else f32Of (.inf false))
    else
      let v : Int := (if neg then -1 else 1) * (fxOf m e : Int)
      let n := v / (fxOne : Int)
      let f := (v % (fxOne : Int)).toNat
      f32OfRat false (fxExp (f * fxLn2 / fxOne)) 1 (n - fxBits)

/-- `vlog2.f32` (R194). -/
def f32Log2 : FVal → Lane
  | .nan => f32Of .nan
  | .inf neg => if neg then f32Of .nan else f32Of (.inf false)
  | .fin neg m e =>
    if m = 0 then f32Of (.inf true) else if neg then f32Of .nan else
      let k : Int := Nat.log2 m
      let r : Int := (k + e) * (fxOne : Int) + (fxLn (fxOf m (-k)) * fxOne / fxLn2 : Nat)
      fxRound (decide (r < 0)) r.natAbs

/-- The quarter of the turn and the place in it: x mod 2 as (half turn odd, position t in [0, 1)). -/
def piPlace (m : Nat) (e : Int) : Bool × Nat :=
  let v := fxOf m e % (2 * fxOne)
  (decide (v ≥ fxOne), v % fxOne)

/-- `vsinpi.f32` (R194): a zero keeps the sign of x. -/
def f32SinPi : FVal → Lane
  | .nan => f32Of .nan
  | .inf _ => f32Of .nan
  | .fin neg m e =>
    let (odd, t) := piPlace m e
    if t = 0 then f32Of (.fin neg 0 0)
    else if 2 * t = fxOne then f32Of (.fin (neg != odd) 1 0)
    else fxRound (neg != odd) (fxSinPi (min t (fxOne - t)))

/-- `vcospi.f32` (R194): even in x; a zero is positive. -/
def f32CosPi : FVal → Lane
  | .nan => f32Of .nan
  | .inf _ => f32Of .nan
  | .fin _ m e =>
    let (odd, t) := piPlace m e
    if t = 0 then f32Of (.fin odd 1 0)
    else if 2 * t = fxOne then f32Of (.fin false 0 0)
    else fxRound (odd != decide (2 * t > fxOne)) (fxCosPi (min t (fxOne - t)))

/-- `vtanh.f32` (R194): (exp(2|x|) - 1) / (exp(2|x|) + 1). -/
def f32Tanh : FVal → Lane
  | .nan => f32Of .nan
  | .inf neg => f32Of (.fin neg 1 0)
  | .fin neg m e =>
    if m = 0 then f32Of (.fin neg 0 0)
    else if m * pow2 e ≥ 32 * pow2 (-e) then f32Of (.fin neg 1 0)
    else
      let y := fxOf m (e + 1)
      let n := y / fxLn2
      let ex := fxExp (y % fxLn2) * 2 ^ n
      f32OfRat neg (ex - fxOne) (ex + fxOne) 0

end Sys2Proof.Machine
end

