-- ==== Sys2Proof/Machine/VecArith.lean ====
section
/-! DEFINITION. The vector arithmetic of the C engine, 0x100 to 0x12E (R191-R198). -/

namespace Sys2Proof.Machine

/-- The merge form (R192): active lanes receive the result and its poison, the others keep theirs; the sidecar as given
(R191, R43). -/
def vmerge (vd : BitVec 6) (mk : BitVec 3) (side : Byte) (f : Nat → Lane) (p : Nat → Bool) (s : State) : State :=
  let m := s.m mk
  let old := s.v vd
  s.setV vd {
    bits := lanesOf (fun l => if m.getLsbD l then f l else old.lane l)
    psn := bitsOf (fun l => if m.getLsbD l then p l else old.psn.getLsbD l)
    side := side }

/-- A merge form of one source. -/
def vec1 (vd va : BitVec 6) (mk : BitVec 3) (f : Lane → Lane) (s : State) : Out :=
  let a := s.v va
  .next (vmerge vd mk a.side (fun l => f (a.lane l)) (fun l => a.psn.getLsbD l) s)

/-- A merge form of two sources. -/
def vec2 (vd va vb : BitVec 6) (mk : BitVec 3) (f : Lane → Lane → Lane) (s : State) : Out :=
  let a := s.v va
  let b := s.v vb
  .next (vmerge vd mk a.side (fun l => f (a.lane l) (b.lane l)) (fun l => a.psn.getLsbD l || b.psn.getLsbD l) s)

/-- A merge form of three sources. -/
def vec3 (vd va vb vc : BitVec 6) (mk : BitVec 3) (f : Lane → Lane → Lane → Lane) (s : State) : Out :=
  let a := s.v va
  let b := s.v vb
  let c := s.v vc
  .next (vmerge vd mk a.side (fun l => f (a.lane l) (b.lane l) (c.lane l))
    (fun l => a.psn.getLsbD l || b.psn.getLsbD l || c.psn.getLsbD l) s)

/-- The lanes a mask names, ascending. -/
def activeLanes (m : Lane) : List Nat := (List.range 32).filter (fun l => m.getLsbD l)

/-- The sum of two FP32 codes, rounded once (R193). -/
def f32Add (a b : Lane) : Lane := f32Of ((f32Val a).add (f32Val b))

/-- A * B + C of FP32 values, rounded once (R193). -/
def f32Fma (a b c : FVal) : Lane := f32Of ((a.mul b).add c)

/-- A form on the two BF16 elements of a lane (R33, R197). -/
def bf16Pair (f : FVal → FVal → FVal → FVal) (a b c : Lane) : Lane :=
  let el := fun (x : Lane) (k : Nat) => bf16Val (x.extractLsb' (16 * k) 16)
  (bf16Of (f (el a 1) (el b 1) (el c 1)) ++ bf16Of (f (el a 0) (el b 0) (el c 0)) : BitVec 32)

/-- The signed half of a lane. -/
def half (x : Lane) (k : Nat) : Int := (x.extractLsb' (16 * k) 16).toInt

/-- The saturation of R198 to 32 signed bits. -/
def satS32 (x : Int) : Lane := BitVec.ofInt 32 (clampInt (-2 ^ 31) (2 ^ 31 - 1) x)

/-- The first of two lanes that a test picks. -/
def pickL (b : Bool) (x y : Lane) : Lane := if b then x else y

/-- A comparison into a mask (R196): inactive lanes 0; a poisoned active lane raises 0x31 (R191), VA before VB, its record naming the
poisoned active lanes (log entry 124). -/
def vcompare (md : BitVec 3) (va vb : BitVec 6) (mk : BitVec 3) (f : Lane → Lane → Bool) (s : State) : Out :=
  let a := s.v va
  let b := s.v vb
  let m := s.m mk
  settle s (do
    trapIf (a.psn &&& m != 0) 0x31 0 (poisonDetail 2 va.toNat (a.psn &&& m).toNat)
    trapIf (b.psn &&& m != 0) 0x31 0 (poisonDetail 2 vb.toNat (b.psn &&& m).toNat)
    .ok (s.setM md (bitsOf (fun l => m.getLsbD l && f (a.lane l) (b.lane l)))))

/-- `vadd.f32`: A + B (R193). -/
def execVaddF32 (vd va vb : BitVec 6) (mk : BitVec 3) (s : State) : Out :=
  vec2 vd va vb mk (fun x y => f32Add x y) s

/-- `vsub.f32`: A - B (R193). -/
def execVsubF32 (vd va vb : BitVec 6) (mk : BitVec 3) (s : State) : Out :=
  vec2 vd va vb mk (fun x y => f32Of ((f32Val x).add (f32Val y).neg)) s

/-- `vmul.f32`: A * B (R193). -/
def execVmulF32 (vd va vb : BitVec 6) (mk : BitVec 3) (s : State) : Out :=
  vec2 vd va vb mk (fun x y => f32Of ((f32Val x).mul (f32Val y))) s

/-- `vfma.f32`: A * B + C, one rounding (R193). -/
def execVfmaF32 (vd va vb vc : BitVec 6) (mk : BitVec 3) (s : State) : Out :=
  vec3 vd va vb vc mk (fun x y z => f32Fma (f32Val x) (f32Val y) (f32Val z)) s

/-- `vfms.f32`: A * B - C, one rounding (R193). -/
def execVfmsF32 (vd va vb vc : BitVec 6) (mk : BitVec 3) (s : State) : Out :=
  vec3 vd va vb vc mk (fun x y z => f32Fma (f32Val x) (f32Val y) (f32Val z).neg) s

/-- `vfnma.f32`: -(A * B) + C, one rounding (R193). -/
def execVfnmaF32 (vd va vb vc : BitVec 6) (mk : BitVec 3) (s : State) : Out :=
  vec3 vd va vb vc mk (fun x y z => f32Fma (f32Val x).neg (f32Val y) (f32Val z)) s

/-- `vmin.f32`: the smaller number (R49). -/
def execVminF32 (vd va vb : BitVec 6) (mk : BitVec 3) (s : State) : Out :=
  vec2 vd va vb mk (fun x y => f32Pick true x y) s

/-- `vmax.f32`: the larger number (R49). -/
def execVmaxF32 (vd va vb : BitVec 6) (mk : BitVec 3) (s : State) : Out :=
  vec2 vd va vb mk (fun x y => f32Pick false x y) s

/-- `vabs.f32`: sign cleared, NaN canonical (R193). -/
def execVabsF32 (vd va : BitVec 6) (mk : BitVec 3) (s : State) : Out :=
  vec1 vd va mk (fun x => if f32Val x = .nan then 0x7FC00000#32 else x &&& 0x7FFFFFFF#32) s

/-- `vneg.f32`: sign inverted, NaN canonical (R193). -/
def execVnegF32 (vd va : BitVec 6) (mk : BitVec 3) (s : State) : Out :=
  vec1 vd va mk (fun x => if f32Val x = .nan then 0x7FC00000#32 else x ^^^ 0x80000000#32) s

/-- `vdiv.f32`: A / B (R193). -/
def execVdivF32 (vd va vb : BitVec 6) (mk : BitVec 3) (s : State) : Out :=
  vec2 vd va vb mk (fun x y => f32Div (f32Val x) (f32Val y)) s

/-- `vsqrt.f32`: the square root (R193). -/
def execVsqrtF32 (vd va : BitVec 6) (mk : BitVec 3) (s : State) : Out :=
  vec1 vd va mk (fun x => f32Sqrt (f32Val x)) s

/-- `vrcp.f32`: 1 / A (R194). -/
def execVrcpF32 (vd va : BitVec 6) (mk : BitVec 3) (s : State) : Out :=
  vec1 vd va mk (fun x => f32Rcp (f32Val x)) s

/-- `vrsqrt.f32`: 1 / sqrt A (R194). -/
def execVrsqrtF32 (vd va : BitVec 6) (mk : BitVec 3) (s : State) : Out :=
  vec1 vd va mk (fun x => f32Rsqrt (f32Val x)) s

/-- `vexp2.f32`: 2^A (R194). -/
def execVexp2F32 (vd va : BitVec 6) (mk : BitVec 3) (s : State) : Out :=
  vec1 vd va mk (fun x => f32Exp2 (f32Val x)) s

/-- `vlog2.f32`: log2 A (R194). -/
def execVlog2F32 (vd va : BitVec 6) (mk : BitVec 3) (s : State) : Out :=
  vec1 vd va mk (fun x => f32Log2 (f32Val x)) s

/-- `vsinpi.f32`: sin(pi A) (R194). -/
def execVsinpiF32 (vd va : BitVec 6) (mk : BitVec 3) (s : State) : Out :=
  vec1 vd va mk (fun x => f32SinPi (f32Val x)) s

/-- `vcospi.f32`: cos(pi A) (R194). -/
def execVcospiF32 (vd va : BitVec 6) (mk : BitVec 3) (s : State) : Out :=
  vec1 vd va mk (fun x => f32CosPi (f32Val x)) s

/-- `vtanh.f32`: tanh A (R194). -/
def execVtanhF32 (vd va : BitVec 6) (mk : BitVec 3) (s : State) : Out :=
  vec1 vd va mk (fun x => f32Tanh (f32Val x)) s

/-- `vrrpi`: A reduced to [-1, 1) (R195). -/
def execVrrpi (vd va : BitVec 6) (mk : BitVec 3) (s : State) : Out :=
  vec1 vd va mk (fun x => f32Rrpi (f32Val x)) s

/-- `vfloor.f32`: the largest integral value not above A (R195). -/
def execVfloorF32 (vd va : BitVec 6) (mk : BitVec 3) (s : State) : Out :=
  vec1 vd va mk (fun x => f32Integral false (f32Val x)) s

/-- `vrint.f32`: the nearest integral value (R195). -/
def execVrintF32 (vd va : BitVec 6) (mk : BitVec 3) (s : State) : Out :=
  vec1 vd va mk (fun x => f32Integral true (f32Val x)) s

/-- `vcmp.f32`: mask of the condition, NaN unordered (R196, R48). -/
def execVcmpF32 (cc : BitVec 4) (md : BitVec 3) (va vb : BitVec 6) (mk : BitVec 3) (s : State) : Out :=
  vcompare md va vb mk (fun x y => ccHolds cc ((f32Val x).ord (f32Val y))) s

/-- `vclass.f32`: 1 << class(A) (R196). -/
def execVclassF32 (vd va : BitVec 6) (mk : BitVec 3) (s : State) : Out :=
  vec1 vd va mk (fun x => BitVec.ofNat 32 (2 ^ f32Class x)) s

/-- `vadd.bf16`: elementwise on BF16 pairs (R197). -/
def execVaddBf16 (vd va vb : BitVec 6) (mk : BitVec 3) (s : State) : Out :=
  vec2 vd va vb mk (fun a b => bf16Pair (fun x y _ => x.add y) a b 0#32) s

/-- `vmul.bf16`: elementwise on BF16 pairs (R197). -/
def execVmulBf16 (vd va vb : BitVec 6) (mk : BitVec 3) (s : State) : Out :=
  vec2 vd va vb mk (fun a b => bf16Pair (fun x y _ => x.mul y) a b 0#32) s

/-- `vfma.bf16`: elementwise on BF16 pairs, one rounding (R197). -/
def execVfmaBf16 (vd va vb vc : BitVec 6) (mk : BitVec 3) (s : State) : Out :=
  vec3 vd va vb vc mk (bf16Pair (fun x y z => (x.mul y).add z)) s

/-- `vadd.s32`: a + b (R198). -/
def execVaddS32 (vd va vb : BitVec 6) (mk : BitVec 3) (s : State) : Out :=
  vec2 vd va vb mk (fun x y => x + y) s

/-- `vsub.s32`: a - b (R198). -/
def execVsubS32 (vd va vb : BitVec 6) (mk : BitVec 3) (s : State) : Out :=
  vec2 vd va vb mk (fun x y => x - y) s

/-- `vmul.s32`: a * b (R198). -/
def execVmulS32 (vd va vb : BitVec 6) (mk : BitVec 3) (s : State) : Out :=
  vec2 vd va vb mk (fun x y => x * y) s

/-- `vmad.s16`: c plus the two products of signed halves (R198). -/
def execVmadS16 (vd va vb vc : BitVec 6) (mk : BitVec 3) (s : State) : Out :=
  vec3 vd va vb vc mk (fun x y z => BitVec.ofInt 32 (z.toInt + half x 0 * half y 0 + half x 1 * half y 1)) s

/-- `vadds.s32`: the saturated sum (R198). -/
def execVaddsS32 (vd va vb : BitVec 6) (mk : BitVec 3) (s : State) : Out :=
  vec2 vd va vb mk (fun x y => satS32 (x.toInt + y.toInt)) s

/-- `vsubs.s32`: the saturated difference (R198). -/
def execVsubsS32 (vd va vb : BitVec 6) (mk : BitVec 3) (s : State) : Out :=
  vec2 vd va vb mk (fun x y => satS32 (x.toInt - y.toInt)) s

/-- `vmin.s32`: the smaller, signed; a when equal (R198). -/
def execVminS32 (vd va vb : BitVec 6) (mk : BitVec 3) (s : State) : Out :=
  vec2 vd va vb mk (fun x y => pickL (y.slt x) y x) s

/-- `vmax.s32`: the larger, signed; a when equal (R198). -/
def execVmaxS32 (vd va vb : BitVec 6) (mk : BitVec 3) (s : State) : Out :=
  vec2 vd va vb mk (fun x y => pickL (x.slt y) y x) s

/-- `vmin.z32`: the smaller, unsigned; a when equal (R198). -/
def execVminZ32 (vd va vb : BitVec 6) (mk : BitVec 3) (s : State) : Out :=
  vec2 vd va vb mk (fun x y => pickL (y.ult x) y x) s

/-- `vmax.z32`: the larger, unsigned; a when equal (R198). -/
def execVmaxZ32 (vd va vb : BitVec 6) (mk : BitVec 3) (s : State) : Out :=
  vec2 vd va vb mk (fun x y => pickL (x.ult y) y x) s

/-- `vand`: a AND b (R198). -/
def execVand (vd va vb : BitVec 6) (mk : BitVec 3) (s : State) : Out :=
  vec2 vd va vb mk (fun x y => x &&& y) s

/-- `vor`: a OR b (R198). -/
def execVor (vd va vb : BitVec 6) (mk : BitVec 3) (s : State) : Out :=
  vec2 vd va vb mk (fun x y => x ||| y) s

/-- `vxor`: a XOR b (R198). -/
def execVxor (vd va vb : BitVec 6) (mk : BitVec 3) (s : State) : Out :=
  vec2 vd va vb mk (fun x y => x ^^^ y) s

/-- `vshl`: a shifted left by b[4:0] (R198). -/
def execVshl (vd va vb : BitVec 6) (mk : BitVec 3) (s : State) : Out :=
  vec2 vd va vb mk (fun x y => x <<< (y.toNat % 32)) s

/-- `vshr.z`: a shifted right by b[4:0], zeros in (R198). -/
def execVshrZ (vd va vb : BitVec 6) (mk : BitVec 3) (s : State) : Out :=
  vec2 vd va vb mk (fun x y => x >>> (y.toNat % 32)) s

/-- `vshr.s`: a shifted right by b[4:0], sign in (R198). -/
def execVshrS (vd va vb : BitVec 6) (mk : BitVec 3) (s : State) : Out :=
  vec2 vd va vb mk (fun x y => x.sshiftRight (y.toNat % 32)) s

/-- `vshl`: a shifted left by the immediate (R198). -/
def execVshlImm (vd va : BitVec 6) (n : BitVec 5) (mk : BitVec 3) (s : State) : Out :=
  vec1 vd va mk (fun x => x <<< n.toNat) s

/-- `vshr.z`: a shifted right by the immediate, zeros in (R198). -/
def execVshrZImm (vd va : BitVec 6) (n : BitVec 5) (mk : BitVec 3) (s : State) : Out :=
  vec1 vd va mk (fun x => x >>> n.toNat) s

/-- `vshr.s`: a shifted right by the immediate, sign in (R198). -/
def execVshrSImm (vd va : BitVec 6) (n : BitVec 5) (mk : BitVec 3) (s : State) : Out :=
  vec1 vd va mk (fun x => x.sshiftRight n.toNat) s

/-- `vcmp.s32`: mask of the condition, signed (R196). -/
def execVcmpS32 (cc : BitVec 4) (md : BitVec 3) (va vb : BitVec 6) (mk : BitVec 3) (s : State) : Out :=
  vcompare md va vb mk (fun x y => ccHolds cc (some (compare x.toInt y.toInt))) s

/-- `vcmp.z32`: mask of the condition, unsigned (R196). -/
def execVcmpZ32 (cc : BitVec 4) (md : BitVec 3) (va vb : BitVec 6) (mk : BitVec 3) (s : State) : Out :=
  vcompare md va vb mk (fun x y => ccHolds cc (some (compare x.toNat y.toNat))) s

/-- `vsel`: a where the mask bit is 1, else b, each with its poison (R198). -/
def execVsel (vd va vb : BitVec 6) (mk : BitVec 3) (s : State) : Out :=
  let a := s.v va
  let b := s.v vb
  let m := s.m mk
  .next (s.setV vd {
    bits := lanesOf (fun l => if m.getLsbD l then a.lane l else b.lane l)
    psn := bitsOf (fun l => if m.getLsbD l then a.psn.getLsbD l else b.psn.getLsbD l)
    side := a.side })

/-- `vmask`: the truth table on two masks (R198). -/
def execVmask (md ma mb : BitVec 3) (t : BitVec 4) (s : State) : Out :=
  let a := s.m ma
  let b := s.m mb
  .next (s.setM md (bitsOf (fun l => t.getLsbD (2 * (a.getLsbD l).toNat + (b.getLsbD l).toNat))))

end Sys2Proof.Machine
end

