-- ==== Sys2Proof/Machine/VecMove.lean ====
section
/-! DEFINITION. Conversions, lane movement, reductions, scan and packing of the C engine, 0x130 to 0x151 (R199-R203). -/

namespace Sys2Proof.Machine

/-- Byte b of a register (R42). -/
def VReg.byte (x : VReg) (b : Nat) : Byte := x.bits.extractLsb' (8 * b) 8

/-- 16-bit element j of a register (R42). -/
def VReg.elem16 (x : VReg) (j : Nat) : BitVec 16 := x.bits.extractLsb' (16 * j) 16

/-- Nibble j of a register (R42). -/
def VReg.nib (x : VReg) (j : Nat) : BitVec 4 := x.bits.extractLsb' (4 * j) 4

/-- Some lane from `lo` up, `n` of them, is poisoned. -/
def VReg.anyPsn (x : VReg) (lo n : Nat) : Bool := (List.range n).any (fun i => x.psn.getLsbD (lo + i))

/-- A lane from four bytes, the first lowest. -/
def lane4 (f : Nat → Byte) : Lane := (f 3 ++ f 2 ++ f 1 ++ f 0 : BitVec 32)

/-- The packing forms that write lanes `lo` to `lo + n - 1` of VD whole: other lanes, their poison and the sidecar stay
(R199). -/
def vpart (vd : BitVec 6) (lo n : Nat) (f : Nat → Lane) (p : Nat → Bool) (s : State) : State :=
  let old := s.v vd
  let inn := fun l => decide (lo ≤ l) && decide (l < lo + n)
  s.setV vd {
    bits := lanesOf (fun l => if inn l then f (l - lo) else old.lane l)
    psn := bitsOf (fun l => if inn l then p (l - lo) else old.psn.getLsbD l)
    side := old.side }

/-- A register with every lane written: bits and poison by lane, sidecar as given. -/
def vwhole (vd : BitVec 6) (side : Byte) (f : Nat → Lane) (p : Nat → Bool) (s : State) : State :=
  s.setV vd { bits := lanesOf f, psn := bitsOf p, side := side }

/-- A conversion of the 32 lanes of VA into quarter q of VD, one byte a lane (R199). -/
def vquarter (vd va : BitVec 6) (q : BitVec 2) (f : FVal → Byte) (s : State) : Out :=
  let a := s.v va
  .next (vpart vd (8 * q.toNat) 8 (fun i => lane4 (fun k => f (f32Val (a.lane (4 * i + k)))))
    (fun i => a.anyPsn (4 * i) 4) s)

/-- floor(log2 |x|) of a finite non-zero value. -/
def FVal.log2 : FVal → Option Int
  | .fin _ m e => if m = 0 then none else some (Nat.log2 m + e)
  | _ => none

/-- A block's scale exponent X (R46), `none` when a lane is not finite; a zero block has no largest element. -/
def mxScale (emax : Int) (xs : List FVal) : Option (Option Int) :=
  if xs.any (fun x => match x with
    | .fin _ _ _ => false
    | _ => true) then none
  else match xs.filterMap FVal.log2 with
    | [] => some none
    | y :: ys => some (some (max (ys.foldl max y - emax) (-127)))

/-- The scale code of a block and its elements under `f` (R46). -/
def mxBlock {w : Nat} (emax : Int) (f : FVal → BitVec w) (xs : List FVal) : Byte × (Nat → BitVec w) :=
  match mxScale emax xs with
  | none => (0xFF#8, fun _ => 0)
  | some none => (0x7F#8, fun _ => 0)
  | some (some x) => (BitVec.ofInt 8 (x + 127), fun j => f ((xs.getD j .nan).scale (-x)))

/-- One byte of VB takes the scale; the lane's other bytes stay and its poison becomes the old OR the block's. -/
def vscaleByte (vb : BitVec 6) (k : Nat) (sc : Byte) (p : Bool) (s : State) : State :=
  let old := s.v vb
  s.setV vb {
    bits := lanesOf (fun l => if l = k / 4
      then lane4 (fun i => if i = k % 4 then sc else old.byte (4 * l + i)) else old.lane l)
    psn := bitsOf (fun l => old.psn.getLsbD l || (p && l == k / 4))
    side := old.side }

/-- The source of the 32 lanes of a merge form that moves lanes: lane L from lane `g L` of VA, with its poison. -/
def vmoveLanes (vd va : BitVec 6) (mk : BitVec 3) (g : Nat → Nat) (f : Nat → Lane → Lane) (s : State) : Out :=
  let a := s.v va
  .next (vmerge vd mk a.side (fun l => f l (a.lane (g l))) (fun l => a.psn.getLsbD (g l)) s)

/-- The tree of R202 over a table of 32 entries: one step adds entry i + st to entry i. -/
def treeStep (f : Lane → Lane → Lane) (st : Nat) (t : List Lane) : List Lane :=
  (List.range st).map (fun i => f (t.getD i 0) (t.getD (i + st) 0))

/-- The whole tree of R202. -/
def treeFold (f : Lane → Lane → Lane) (t : List Lane) : Lane :=
  ([16, 8, 4, 2, 1].foldl (fun t st => treeStep f st t) t).getD 0 0

/-- A reduction into every lane (R202); poisoned when an active lane is. -/
def vreduce (vd va : BitVec 6) (mk : BitVec 3) (ident : Lane) (f : Lane → Lane → Lane) (s : State) : Out :=
  let a := s.v va
  let m := s.m mk
  let r := treeFold f ((List.range 32).map (fun l => if m.getLsbD l then a.lane l else ident))
  .next (vwhole vd a.side (fun _ => r) (fun _ => a.psn &&& m != 0) s)

/-- The active lanes below L of a mask. -/
def activeBelow (m : Lane) (l : Nat) : Nat := popCount m l

/-- The largest exponent field of the finite non-zero lanes, a subnormal counting as 1; 0 when there is none (R44). -/
def bfpEmax (a : VReg) : Nat :=
  ((List.range 32).map (fun l =>
    let e := (a.lane l).toNat / 2 ^ 23 % 256
    if e = 255 ∨ (a.lane l).toNat % 2 ^ 31 = 0 then 0 else max e 1)).foldl max 0

/-- The significand magnitude of a finite lane at shared exponent X, before the range test (R44). -/
def bfpMag (x : Nat) (v : FVal) : Nat :=
  match v with
  | .fin _ m e => rneInt m 1 (e - ((x : Int) - 149))
  | _ => 0

/-- The lane of a value at shared exponent X (R44): NaN gives 0, infinity the largest magnitude by sign. -/
def bfpLane (x : Nat) (v : FVal) : Lane :=
  match v with
  | .nan => 0
  | .inf neg => BitVec.ofInt 32 (if neg then -(2 ^ 23 - 1) else 2 ^ 23 - 1)
  | .fin neg m e => BitVec.ofInt 32 ((if neg then -1 else 1) * (bfpMag x (.fin neg m e) : Int))

/-- `vcvt.f32.s32`: the integer lane as FP32 (R45, R199). -/
def execVcvtF32S32 (vd va : BitVec 6) (mk : BitVec 3) (s : State) : Out :=
  vec1 vd va mk (fun x => f32Of (FVal.ofInt x.toInt)) s

/-- `vcvt.s32.f32.rne`: the nearest integer, clamped (R45). -/
def execVcvtS32F32Rne (vd va : BitVec 6) (mk : BitVec 3) (s : State) : Out :=
  vec1 vd va mk (fun x => s32OfF32 false (f32Val x)) s

/-- `vcvt.s32.f32.rz`: the integer toward zero, clamped (R45). -/
def execVcvtS32F32Rz (vd va : BitVec 6) (mk : BitVec 3) (s : State) : Out :=
  vec1 vd va mk (fun x => s32OfF32 true (f32Val x)) s

/-- `vcvt.bf16.f32`: elements 0-31 from VA, 32-63 from VB (R199). -/
def execVcvtBf16F32 (vd va vb : BitVec 6) (s : State) : Out :=
  let a := s.v va
  let b := s.v vb
  let el := fun j => bf16Of (f32Val (if j < 32 then a.lane j else b.lane (j - 32)))
  let ps := fun j => if j < 32 then a.psn.getLsbD j else b.psn.getLsbD (j - 32)
  .next (vwhole vd a.side (fun l => (el (2 * l + 1) ++ el (2 * l) : BitVec 32))
    (fun l => ps (2 * l) || ps (2 * l + 1)) s)

/-- `vcvt.f32.bf16`: lane L := FP32 of element 32h + L (R199). -/
def execVcvtF32Bf16 (vd va : BitVec 6) (h : BitVec 1) (mk : BitVec 3) (s : State) : Out :=
  let a := s.v va
  .next (vmerge vd mk a.side (fun l => f32Of (bf16Val (a.elem16 (32 * h.toNat + l))))
    (fun l => a.psn.getLsbD ((32 * h.toNat + l) / 2)) s)

/-- `vcvt.e4m3.f32`: lanes to E4M3 bytes, saturating (R45, R199). -/
def execVcvtE4m3F32 (vd va : BitVec 6) (q : BitVec 2) (s : State) : Out :=
  vquarter vd va q (e4m3Of false) s

/-- `vcvt.e4m3.f32.nv`: lanes to E4M3 bytes, NaN past 464 (R45, R199). -/
def execVcvtE4m3F32Nv (vd va : BitVec 6) (q : BitVec 2) (s : State) : Out :=
  vquarter vd va q (e4m3Of true) s

/-- `vcvt.e5m2.f32`: lanes to E5M2 bytes (R45, R199). -/
def execVcvtE5m2F32 (vd va : BitVec 6) (q : BitVec 2) (s : State) : Out :=
  vquarter vd va q e5m2Of s

/-- `vcvt.f32.e4m3`: lane L := FP32 of byte 32q + L (R45, R199). -/
def execVcvtF32E4m3 (vd va : BitVec 6) (q : BitVec 2) (mk : BitVec 3) (s : State) : Out :=
  let a := s.v va
  .next (vmerge vd mk a.side (fun l => f32Of (e4m3Val (a.byte (32 * q.toNat + l))))
    (fun l => a.psn.getLsbD ((32 * q.toNat + l) / 4)) s)

/-- `vcvt.f32.e5m2`: lane L := FP32 of byte 32q + L (R45, R199). -/
def execVcvtF32E5m2 (vd va : BitVec 6) (q : BitVec 2) (mk : BitVec 3) (s : State) : Out :=
  let a := s.v va
  .next (vmerge vd mk a.side (fun l => f32Of (e5m2Val (a.byte (32 * q.toNat + l))))
    (fun l => a.psn.getLsbD ((32 * q.toNat + l) / 4)) s)

/-- `vqmx4`: the 32 lanes as an MXFP4 block in group s, its scale in byte s of VB (R46, R200). -/
def execVqmx4 (vd vb va : BitVec 6) (sel : BitVec 3) (s : State) : Out :=
  let a := s.v va
  let (sc, el) := mxBlock 2 e2m1Of ((List.range 32).map (fun l => f32Val (a.lane l)))
  let p := a.psn != 0
  let nib2 := fun k => (el (2 * k + 1) ++ el (2 * k) : BitVec 8)
  .next (vscaleByte vb sel.toNat sc p
    (vpart vd (4 * sel.toNat) 4 (fun i => lane4 (fun k => nib2 (4 * i + k))) (fun _ => p) s))

/-- `vqmx8`: the 32 lanes as an MXFP8 block in quarter q, its scale in byte q of VB (R46, R200). -/
def execVqmx8 (vd vb va : BitVec 6) (q : BitVec 2) (s : State) : Out :=
  let a := s.v va
  let (sc, el) := mxBlock 8 (e4m3Of false) ((List.range 32).map (fun l => f32Val (a.lane l)))
  let p := a.psn != 0
  .next (vscaleByte vb q.toNat sc p
    (vpart vd (8 * q.toNat) 8 (fun i => lane4 (fun k => el (4 * i + k))) (fun _ => p) s))

/-- `vdqmx4`: element L of group s under the scale in byte s of VB (R40, R45). -/
def execVdqmx4 (vd va vb : BitVec 6) (sel mk : BitVec 3) (s : State) : Out :=
  let a := s.v va
  let b := s.v vb
  let sc := (b.byte sel.toNat).toNat
  .next (vmerge vd mk a.side
    (fun l => if sc = 255 then 0x7FC00000#32
      else f32Of ((e2m1Val (a.nib (32 * sel.toNat + l))).scale ((sc : Int) - 127)))
    (fun l => a.psn.getLsbD (4 * sel.toNat + l / 8) || b.psn.getLsbD (sel.toNat / 4)) s)

/-- `vxp.s4`: the sign extension of nibble L of group s (R199). -/
def execVxpS4 (vd va : BitVec 6) (sel mk : BitVec 3) (s : State) : Out :=
  let a := s.v va
  .next (vmerge vd mk a.side (fun l => (a.nib (32 * sel.toNat + l)).signExtend 32)
    (fun l => a.psn.getLsbD (4 * sel.toNat + l / 8)) s)

/-- The device E4M3 code of an OCP E2M1 code (R37). -/
def ocp4Code (c : BitVec 4) : Byte :=
  [0x00#8, 0x30#8, 0x38#8, 0x3C#8, 0x40#8, 0x44#8, 0x48#8, 0x4C#8, 0x00#8, 0xB0#8, 0xB8#8, 0xBC#8, 0xC0#8, 0xC4#8,
    0xC8#8, 0xCC#8].getD c.toNat 0#8

/-- `vxp.ocp4`: the OCP codes of group s as E4M3 bytes of quarter q (R47). -/
def execVxpOcp4 (vd va : BitVec 6) (sel : BitVec 3) (q : BitVec 2) (s : State) : Out :=
  let a := s.v va
  .next (vpart vd (8 * q.toNat) 8
    (fun i => lane4 (fun k => ocp4Code (a.nib (32 * sel.toNat + 4 * i + k))))
    (fun i => a.psn.getLsbD (4 * sel.toNat + i / 2)) s)

/-- `vcvt.bfp.f32`: 32 lanes to BFP24, the shared exponent in the sidecar (R44). -/
def execVcvtBfpF32 (vd va : BitVec 6) (s : State) : Out :=
  let a := s.v va
  let e := bfpEmax a
  let ovf := (List.range 32).any (fun l => decide (bfpMag e (f32Val (a.lane l)) ≥ 2 ^ 23))
  let x := if ovf then e + 1 else e
  .next (vwhole vd (BitVec.ofNat 8 x) (fun l => bfpLane x (f32Val (a.lane l))) (fun _ => a.psn != 0) s)

/-- `vcvt.f32.bfp`: the BFP24 lanes as FP32; the sidecar becomes 0 (R44). -/
def execVcvtF32Bfp (vd va : BitVec 6) (mk : BitVec 3) (s : State) : Out :=
  let a := s.v va
  let x := a.side.toNat
  .next (vmerge vd mk 0 (fun l => f32Of ((FVal.ofInt (((a.lane l).setWidth 24).toInt)).scale ((x : Int) - 149)))
    (fun l => a.psn.getLsbD l) s)

/-- `vperm`: lane L := VA lane b[4:0] (R201). -/
def execVperm (vd va vb : BitVec 6) (mk : BitVec 3) (s : State) : Out :=
  let a := s.v va
  let b := s.v vb
  let g := fun l => (b.lane l).toNat % 32
  .next (vmerge vd mk a.side (fun l => a.lane (g l)) (fun l => a.psn.getLsbD (g l) || b.psn.getLsbD l) s)

/-- The two halves of a lane exchanged. -/
def swapHalves (x : Lane) : Lane := (x.extractLsb' 0 16 ++ x.extractLsb' 16 16 : BitVec 32)

/-- `vswp.pair`: pairs exchanged, by FN (R201). -/
def execVswpPair (vd va : BitVec 6) (f : BitVec 2) (mk : BitVec 3) (s : State) : Out :=
  match f.toNat with
  | 0 => vmoveLanes vd va mk (fun l => l ^^^ 1) (fun _ x => x) s
  | 1 => vmoveLanes vd va mk (fun l => l) (fun _ x => swapHalves x) s
  | 2 => vmoveLanes vd va mk (fun l => l) (fun _ x => swapHalves x ^^^ 0x8000#32) s
  | _ => vmoveLanes vd va mk (fun l => l ^^^ 1) (fun l x => if l % 2 = 0 then x ^^^ 0x80000000#32 else x) s

/-- `vrot`: lane L := VA lane (L + n) mod 32 (R201). -/
def execVrot (vd va : BitVec 6) (n : BitVec 5) (mk : BitVec 3) (s : State) : Out :=
  vmoveLanes vd va mk (fun l => (l + n.toNat) % 32) (fun _ x => x) s

/-- `vbc`: every lane := VA lane n (R201). -/
def execVbc (vd va : BitVec 6) (n : BitVec 5) (mk : BitVec 3) (s : State) : Out :=
  vmoveLanes vd va mk (fun _ => n.toNat) (fun _ x => x) s

/-- `vext`: gD := VA lane n, zero-extended, with its poison (R201). -/
def execVext (d va : BitVec 6) (n : BitVec 5) (s : State) : Out :=
  .next (s.setG d ⟨((s.v va).lane n.toNat).setWidth 64, (s.v va).psn.getLsbD n.toNat⟩)

/-- `vext`: gD := mA, zero-extended (R201). -/
def execVextMask (d : BitVec 6) (ma : BitVec 3) (s : State) : Out :=
  .next (s.setG d ⟨(s.m ma).setWidth 64, false⟩)

/-- `vins`: VD lane n := a[31:0], with the poison of gA (R201). -/
def execVins (vd a : BitVec 6) (n : BitVec 5) (s : State) : Out :=
  let x := s.g a
  let old := s.v vd
  .next (s.setV vd {
    bits := lanesOf (fun l => if l = n.toNat then x.bits.setWidth 32 else old.lane l)
    psn := bitsOf (fun l => if l = n.toNat then x.psn else old.psn.getLsbD l)
    side := old.side })

/-- `vins`: mD := a[31:0]; a poisoned gA raises 0x31 (R191, R201). -/
def execVinsMask (md : BitVec 3) (a : BitVec 6) (s : State) : Out :=
  settle s (do
    let x ← s.gUse a
    .ok (s.setM md (x.setWidth 32)))

/-- `vli`: every lane := the immediate (R201). -/
def execVli (vd : BitVec 6) (imm : BitVec 32) (s : State) : Out :=
  .next (vwhole vd 0 (fun _ => imm) (fun _ => false) s)

/-- `vmov`: lane := VA lane, with poison (R201). -/
def execVmov (vd va : BitVec 6) (mk : BitVec 3) (s : State) : Out :=
  vec1 vd va mk (fun x => x) s

/-- `vred.add.f32`: the sum in the fixed tree (R202). -/
def execVredAddF32 (vd va : BitVec 6) (mk : BitVec 3) (s : State) : Out :=
  vreduce vd va mk 0x80000000#32 f32Add s

/-- `vred.max.f32`: the largest in the fixed tree (R202, R49). -/
def execVredMaxF32 (vd va : BitVec 6) (mk : BitVec 3) (s : State) : Out :=
  vreduce vd va mk 0x7FC00000#32 (f32Pick false) s

/-- `vred.add.s32`: the sum in the fixed tree (R202). -/
def execVredAddS32 (vd va : BitVec 6) (mk : BitVec 3) (s : State) : Out :=
  vreduce vd va mk 0#32 (fun x y => x + y) s

/-- `vscan.add.s32`: the running sum of the active lanes (R203). -/
def execVscanAddS32 (vd va : BitVec 6) (mk : BitVec 3) (s : State) : Out :=
  let a := s.v va
  let m := s.m mk
  let upTo := fun l => (List.range (l + 1)).filter (fun j => m.getLsbD j)
  .next (vmerge vd mk a.side (fun l => (upTo l).foldl (fun t j => t + a.lane j) 0#32)
    (fun l => (upTo l).any (fun j => a.psn.getLsbD j)) s)

/-- `vpack.s16`: elements 0-31 from VA, 32-63 from VB, clamped (R203). -/
def execVpackS16 (vd va vb : BitVec 6) (s : State) : Out :=
  let a := s.v va
  let b := s.v vb
  let el := fun j => BitVec.ofInt 16 (clampInt (-32768) 32767 (if j < 32 then a.lane j else b.lane (j - 32)).toInt)
  let ps := fun j => if j < 32 then a.psn.getLsbD j else b.psn.getLsbD (j - 32)
  .next (vwhole vd a.side (fun l => (el (2 * l + 1) ++ el (2 * l) : BitVec 32))
    (fun l => ps (2 * l) || ps (2 * l + 1)) s)

/-- `vunpk.s16`: lane L := element 32h + L, sign-extended (R203). -/
def execVunpkS16 (vd va : BitVec 6) (h : BitVec 1) (mk : BitVec 3) (s : State) : Out :=
  let a := s.v va
  .next (vmerge vd mk a.side (fun l => (a.elem16 (32 * h.toNat + l)).signExtend 32)
    (fun l => a.psn.getLsbD ((32 * h.toNat + l) / 2)) s)

/-- `vcnt.m`: gD := the number of active lanes (R203). -/
def execVcntM (d : BitVec 6) (ma : BitVec 3) (s : State) : Out :=
  .next (s.setG d ⟨BitVec.ofNat 64 (popCount (s.m ma) 32), false⟩)

/-- `vcomp`: the active lanes moved down, zeros above (R203). -/
def execVcomp (vd va : BitVec 6) (mk : BitVec 3) (s : State) : Out :=
  let a := s.v va
  let ls := activeLanes (s.m mk)
  .next (vwhole vd a.side (fun j => match ls[j]? with
      | some l => a.lane l
      | none => 0#32)
    (fun j => match ls[j]? with
      | some l => a.psn.getLsbD l
      | none => false) s)

/-- `vexpd`: lane L := VA lane (active lanes below L), zeros elsewhere (R203). -/
def execVexpd (vd va : BitVec 6) (mk : BitVec 3) (s : State) : Out :=
  let a := s.v va
  let m := s.m mk
  .next (vwhole vd a.side (fun l => if m.getLsbD l then a.lane (activeBelow m l) else 0#32)
    (fun l => m.getLsbD l && a.psn.getLsbD (activeBelow m l)) s)

end Sys2Proof.Machine
end

