-- ==== Sys2Proof/Machine/LocalMem.lean ====
section
/-! DEFINITION. The local-memory instructions 0x0A0 to 0x0B8 (R147-R152). -/

namespace Sys2Proof.Machine

/-- The checks of an access to own memory (R81, R147): address formed, R81, then alignment; the offset. -/
def State.localAddr (s : State) (cb : BitVec 4) (x : BitVec 6) (sc : BitVec 3) (off : BitVec 32) (spaces : List Nat)
    (need : BitVec 12) (n align : Nat) : Chk Nat := do
  let ea ← s.mAddr cb x sc off
  let a ← checkOwn cb.toNat (s.c cb) spaces need ea n
  trapIf (a % align != 0) 0x11 a (capDetail cb.toNat n (s.c cb))
  .ok a

/-- The offset of a load: the checks, then the mark of R302. -/
def State.loadAddr (s : State) (cb : BitVec 4) (x : BitVec 6) (sc : BitVec 3) (off : BitVec 32) (spaces : List Nat)
    (n align : Nat) : Chk Nat := do
  let a ← s.localAddr cb x sc off spaces pLd n align
  s.checkMark a n
  .ok a

/-- A scalar load of `n` bytes, extended by `f` (R148). -/
def loadG (d : BitVec 6) (cb : BitVec 4) (x : BitVec 6) (sc : BitVec 3) (off : BitVec 32) (n : Nat) (f : Nat → Word)
    (s : State) : Out :=
  settle s (do
    let a ← s.loadAddr cb x sc off [1, 5] n n
    .ok (s.setG d ⟨f (s.toHw.num (localKey s.ix.co a) n), false⟩))

/-- A scalar store of `n` bytes (R148): poisoned data raises 0x31, a barrier's slot 0x33 (R147). -/
def storeG (d : BitVec 6) (cb : BitVec 4) (x : BitVec 6) (sc : BitVec 3) (off : BitVec 32) (n : Nat) (s : State) : Out :=
  settle s (do
    let a ← s.localAddr cb x sc off [1] pSt n n
    let v ← s.gUse d
    s.checkSlot a n
    .ok (s.upd (fun h => h.putNum (localKey s.ix.co a) n v.toNat)))

/-- `ld.s8`: 1 byte(s), sign-extended (R148). -/
def execLdS8 (d : BitVec 6) (cb : BitVec 4) (x : BitVec 6) (sc : BitVec 3) (off : BitVec 32) (s : State) : Out :=
  loadG d cb x sc off 1 (fun v => (BitVec.ofNat 8 v).signExtend 64) s

/-- `ld.z8`: 1 byte(s), zero-extended (R148). -/
def execLdZ8 (d : BitVec 6) (cb : BitVec 4) (x : BitVec 6) (sc : BitVec 3) (off : BitVec 32) (s : State) : Out :=
  loadG d cb x sc off 1 (fun v => BitVec.ofNat 64 v) s

/-- `ld.s16`: 2 byte(s), sign-extended (R148). -/
def execLdS16 (d : BitVec 6) (cb : BitVec 4) (x : BitVec 6) (sc : BitVec 3) (off : BitVec 32) (s : State) : Out :=
  loadG d cb x sc off 2 (fun v => (BitVec.ofNat 16 v).signExtend 64) s

/-- `ld.z16`: 2 byte(s), zero-extended (R148). -/
def execLdZ16 (d : BitVec 6) (cb : BitVec 4) (x : BitVec 6) (sc : BitVec 3) (off : BitVec 32) (s : State) : Out :=
  loadG d cb x sc off 2 (fun v => BitVec.ofNat 64 v) s

/-- `ld.s32`: 4 byte(s), sign-extended (R148). -/
def execLdS32 (d : BitVec 6) (cb : BitVec 4) (x : BitVec 6) (sc : BitVec 3) (off : BitVec 32) (s : State) : Out :=
  loadG d cb x sc off 4 (fun v => (BitVec.ofNat 32 v).signExtend 64) s

/-- `ld.z32`: 4 byte(s), zero-extended (R148). -/
def execLdZ32 (d : BitVec 6) (cb : BitVec 4) (x : BitVec 6) (sc : BitVec 3) (off : BitVec 32) (s : State) : Out :=
  loadG d cb x sc off 4 (fun v => BitVec.ofNat 64 v) s

/-- `ld.64`: 8 bytes (R148). -/
def execLd64 (d : BitVec 6) (cb : BitVec 4) (x : BitVec 6) (sc : BitVec 3) (off : BitVec 32) (s : State) : Out :=
  loadG d cb x sc off 8 (fun v => BitVec.ofNat 64 v) s

/-- `st.8`: 1 byte(s) of gD (R148). -/
def execSt8 (d : BitVec 6) (cb : BitVec 4) (x : BitVec 6) (sc : BitVec 3) (off : BitVec 32) (s : State) : Out :=
  storeG d cb x sc off 1 s

/-- `st.16`: 2 byte(s) of gD (R148). -/
def execSt16 (d : BitVec 6) (cb : BitVec 4) (x : BitVec 6) (sc : BitVec 3) (off : BitVec 32) (s : State) : Out :=
  storeG d cb x sc off 2 s

/-- `st.32`: 4 byte(s) of gD (R148). -/
def execSt32 (d : BitVec 6) (cb : BitVec 4) (x : BitVec 6) (sc : BitVec 3) (off : BitVec 32) (s : State) : Out :=
  storeG d cb x sc off 4 s

/-- `st.64`: 8 byte(s) of gD (R148). -/
def execSt64 (d : BitVec 6) (cb : BitVec 4) (x : BitVec 6) (sc : BitVec 3) (off : BitVec 32) (s : State) : Out :=
  storeG d cb x sc off 8 s

/-- `vld`: 128 bytes (R148). -/
def execVld (d : BitVec 6) (cb : BitVec 4) (x : BitVec 6) (sc : BitVec 3) (off : BitVec 32) (s : State) : Out :=
  settle s (do
    let a ← s.loadAddr cb x sc off [1] 128 16
    .ok (s.setV d { bits := vbitsOfBytes (s.toHw.bytes (localKey s.ix.co a) 128) }))

/-- A vector register whose data is stored: a poisoned lane raises 0x31 (R147). -/
def State.vUse (s : State) (r : BitVec 6) : Chk VReg :=
  let x := s.v r
  if x.psn != 0 then trapWith 0x31 0 (poisonDetail 2 r.toNat x.psn.toNat) else .ok x

/-- `vst`: 128 bytes (R148). -/
def execVst (d : BitVec 6) (cb : BitVec 4) (x : BitVec 6) (sc : BitVec 3) (off : BitVec 32) (s : State) : Out :=
  settle s (do
    let a ← s.localAddr cb x sc off [1] pSt 128 16
    let v ← s.vUse d
    s.checkSlot a 128
    .ok (s.upd (fun h => h.putNum (localKey s.ix.co a) 128 v.bits.toNat)))

/-- `vld.bc`: 4 bytes in every lane (R148). -/
def execVldBc (d : BitVec 6) (cb : BitVec 4) (x : BitVec 6) (sc : BitVec 3) (off : BitVec 32) (s : State) : Out :=
  settle s (do
    let a ← s.loadAddr cb x sc off [1] 4 4
    let w := BitVec.ofNat 32 (s.toHw.num (localKey s.ix.co a) 4)
    .ok (s.setV d { bits := lanesOf (fun _ => w) }))

/-- The checked offsets of the 32 lanes of a gather or scatter, lane 0 first (R149). -/
def State.laneAddrs (s : State) (cb : BitVec 4) (x : BitVec 6) (sc : BitVec 3) (off : BitVec 32) (need : BitVec 12) :
    Chk (List Nat) := do
  let vx ← s.vUse x
  (List.range 32).mapM (fun l => do
    let ea : Int := ((s.c cb).cursor : Int) + off.toInt + (vx.lane l).toInt * 2 ^ sc.toNat
    let a ← checkOwn cb.toNat (s.c cb) [1] need ea 4
    trapIf (a % 4 != 0) 0x11 a (capDetail cb.toNat 4 (s.c cb))
    .ok a)

/-- `vgath`: 4 bytes a lane from indexed places (R149). -/
def execVgath (d : BitVec 6) (cb : BitVec 4) (x : BitVec 6) (sc : BitVec 3) (off : BitVec 32) (s : State) : Out :=
  settle s (do
    let as_ ← s.laneAddrs cb x sc off pLd
    as_.forM (fun a => s.checkMark a 4)
    let h := s.toHw
    .ok (s.setV d { bits := lanesOf (fun l => BitVec.ofNat 32 (h.num (localKey s.ix.co (as_.getD l 0)) 4)) }))

/-- `vscat`: 4 bytes a lane to indexed places, lane 0 first (R149). -/
def execVscat (d : BitVec 6) (cb : BitVec 4) (x : BitVec 6) (sc : BitVec 3) (off : BitVec 32) (s : State) : Out :=
  settle s (do
    let as_ ← s.laneAddrs cb x sc off pSt
    let v ← s.vUse d
    as_.forM (fun a => s.checkSlot a 4)
    .ok (s.upd (fun h => (List.range 32).foldl
      (fun h l => h.putNum (localKey s.ix.co (as_.getD l 0)) 4 (v.lane l).toNat) h)))

/-- The full bits of the granules of `n` bytes at an offset of the issuing core, as the instructions before it in the group
leave them (R65 step 4, R150). -/
def State.allFull (s : State) (a n : Nat) : Bool :=
  (granules (localKey s.ix.co a) n).all (fun g => setHas s.toHw.full g)

/-- The full bits of the granules of `n` bytes set or cleared, in ascending order (R150, R151). -/
def State.putFull (s : State) (b : Bool) (a n : Nat) : State :=
  s.upd (fun h => (granules (localKey s.ix.co a) n).foldl (fun h g => h.setFull b (16 * g)) h)

/-- `ldfe.w`: 8 bytes once the granule's full bit is 1 (R150). -/
def execLdfeW (d : BitVec 6) (cb : BitVec 4) (x : BitVec 6) (sc : BitVec 3) (off : BitVec 32) (s : State) : Out :=
  settle s (do
    let a ← s.loadAddr cb x sc off [1, 5] 8 8
    blockUnless (s.allFull a 8)
    .ok (s.setG d ⟨BitVec.ofNat 64 (s.toHw.num (localKey s.ix.co a) 8), false⟩))

/-- `vldfe.w`: 128 bytes once the eight full bits are 1 (R150). -/
def execVldfeW (d : BitVec 6) (cb : BitVec 4) (x : BitVec 6) (sc : BitVec 3) (off : BitVec 32) (s : State) : Out :=
  settle s (do
    let a ← s.loadAddr cb x sc off [1] 128 16
    blockUnless (s.allFull a 128)
    .ok (s.setV d { bits := vbitsOfBytes (s.toHw.bytes (localKey s.ix.co a) 128) }))

/-- `ldfe.c`: 8 bytes once the granule's full bit is 1, which is cleared (R150). -/
def execLdfeC (d : BitVec 6) (cb : BitVec 4) (x : BitVec 6) (sc : BitVec 3) (off : BitVec 32) (s : State) : Out :=
  settle s (do
    let a ← s.loadAddr cb x sc off [1, 5] 8 8
    blockUnless (s.allFull a 8)
    .ok ((s.setG d ⟨BitVec.ofNat 64 (s.toHw.num (localKey s.ix.co a) 8), false⟩).putFull false a 8))

/-- `vldfe.c`: 128 bytes once the eight full bits are 1, which are cleared (R150). -/
def execVldfeC (d : BitVec 6) (cb : BitVec 4) (x : BitVec 6) (sc : BitVec 3) (off : BitVec 32) (s : State) : Out :=
  settle s (do
    let a ← s.loadAddr cb x sc off [1] 128 16
    blockUnless (s.allFull a 128)
    .ok ((s.setV d { bits := vbitsOfBytes (s.toHw.bytes (localKey s.ix.co a) 128) }).putFull false a 128))

/-- `fset`: the full bits of gD granules set (R151); a poisoned count traps before the checks of R81 (log entry 123). -/
def execFset (d : BitVec 6) (cb : BitVec 4) (x : BitVec 6) (sc : BitVec 3) (off : BitVec 32) (s : State) : Out :=
  settle s (do
    let ea ← s.mAddr cb x sc off
    let n ← s.gUse d
    let a ← checkOwn cb.toNat (s.c cb) [1] pSt ea (16 * n.toNat)
    trapIf (a % 16 != 0) 0x11 a (capDetail cb.toNat (16 * n.toNat) (s.c cb))
    s.checkSlot a (16 * n.toNat)
    .ok (s.putFull true a (16 * n.toNat)))

/-- `fclr`: the full bits of gD granules cleared (R151); a poisoned count traps before the checks of R81 (log entry 123). -/
def execFclr (d : BitVec 6) (cb : BitVec 4) (x : BitVec 6) (sc : BitVec 3) (off : BitVec 32) (s : State) : Out :=
  settle s (do
    let ea ← s.mAddr cb x sc off
    let n ← s.gUse d
    let a ← checkOwn cb.toNat (s.c cb) [1] pSt ea (16 * n.toNat)
    trapIf (a % 16 != 0) 0x11 a (capDetail cb.toNat (16 * n.toNat) (s.c cb))
    s.checkSlot a (16 * n.toNat)
    .ok (s.putFull false a (16 * n.toNat)))

/-- `ftest`: pD := the full bit of the granule (R151). -/
def execFtest (d : BitVec 3) (cb : BitVec 4) (x : BitVec 6) (sc : BitVec 3) (off : BitVec 32) (s : State) : Out :=
  settle s (do
    let a ← s.localAddr cb x sc off [1] pLd 1 1
    .ok (s.setP d ⟨s.toHw.fullAt (localKey s.ix.co a), false⟩))

/-- The core and offset that a space-2 address names (R78). -/
def remotePlace (ea : Nat) : CoreId × Nat := (⟨ea / 2 ^ 32, ea / 2 ^ 21 % 2 ^ 11⟩, ea % 2 ^ 21)

/-- The space-2 address of an offset of a core's local memory (R78). -/
def remoteAddr (t : CoreId) (off : Nat) : Nat := t.isle * 2 ^ 32 + t.core * 2 ^ 21 + off

/-- A landing slot is taken for a result of the group (R182): the group blocks while none is free. -/
def State.takeSlot (s : State) (x : LSlot) : Chk State :=
  match tabFree s.here.slots 32 with
  | none => .error .block
  | some i => .ok (s.onHere (fun k => { k with
      slots := tabPut { x with ord := k.landOrd } i k.slots
      landOrd := k.landOrd + 1 }))

/-- The core's isle cycles so far: core cycles and the frozen ones (R7, R21). -/
def Core.isleCycles (k : Core) : Nat := k.cyc + k.late.toNat

/-- The landing slot of the instruction in issue: due LAND cycles after its group's commit (R65, R182). -/
def State.newSlot (s : State) (kind : LandKind) (dest land : Nat) : LSlot :=
  { kind := kind, eng := s.ix.eng, dest := dest, due := s.here.cyc + land, ord := 0, asked := s.here.isleCycles, pc := s.ix.pc, gslot := s.ix.slot
    sec := match s.me.sec with
      | some x => x.sec
      | none => 0 }

/-- The first granule among the touched places whose cells hold an uncorrectable error (R144). -/
def Hw.cellErrIn (h : Hw) (spans : List (Nat × Nat)) : Option Nat :=
  h.cellErrs.find? (fun g => spans.any (fun a => decide (a.1 < 16 * g + 16) && decide (16 * g < a.1 + a.2)))

/-- What an `ldn` or `vldn` reads at this moment: the bytes, the mark met, and the granule whose cells hold an uncorrectable
error (R144, R152, R302). -/
def LSlot.reads (x : LSlot) (h : Hw) (isle : Nat) : LSlot :=
  let t : CoreId := ⟨isle, x.target⟩
  let n := if x.kind = .ldn then 8 else 128
  { x with
    regs := [{ bits := vbitsOfBytes (h.bytes (localKey t x.off) n) }]
    mark := (h.markedIn (localKey t x.off) n).map (· - localKey t 0)
    err := (h.cellErrIn [(localKey t x.off, n)]).map (fun g => 16 * g - localKey t 0) }

/-- `ldn` and `vldn` (R152): `n` bytes of a core of the insula, to land at LAND. The insula of the target is tested
after permission and bounds, as the target of R81 (R80, log entry 96). -/
def loadNeighbour (kind : LandKind) (d : BitVec 6) (cb : BitVec 4) (x : BitVec 6) (sc : BitVec 3) (off : BitVec 32)
    (land : BitVec 6) (n : Nat) (s : State) : Out :=
  settle s (do
    let ea ← s.mAddr cb x sc off
    let det := capDetail cb.toNat n (s.c cb)
    checkCap cb.toNat (s.c cb) [2] pLd ea n
    let a := ea.toNat
    let (t, o) := remotePlace a
    trapIf (!(t.isle == s.ix.co.isle && CoreId.ins t == CoreId.ins s.ix.co && s.toHw.coreInService t
      && decide (o + n ≤ 2 ^ 19))) 0x13 a det
    trapIf (o % n.min 16 != 0) 0x11 a det
    let y := { s.newSlot kind d.toNat land.toNat with target := t.core, off := o }
    s.takeSlot (y.reads s.toHw s.ix.co.isle))

/-- `ldn`: 8 bytes of a neighbour, to land (R152). -/
def execLdn (d : BitVec 6) (cb : BitVec 4) (x : BitVec 6) (sc : BitVec 3) (off : BitVec 32) (land : BitVec 6) (s : State) : Out :=
  loadNeighbour .ldn d cb x sc off land 8 s

/-- `vldn`: 128 bytes of a neighbour, to land (R152). -/
def execVldn (d : BitVec 6) (cb : BitVec 4) (x : BitVec 6) (sc : BitVec 3) (off : BitVec 32) (land : BitVec 6) (s : State) : Out :=
  loadNeighbour .vldn d cb x sc off land 128 s

end Sys2Proof.Machine
end

