-- ==== Sys2Proof/Machine/Commands.lean ====
section
/-! DEFINITION. A copy command as data: its elements, their addresses and their order (R124, R129, R132-R135), what it has read and
performed, and the bytes that it has still to reach. -/

namespace Sys2Proof.Machine

/-! ### Commands and their elements -/

/-- A command of a core, by the model's number. -/
def Hw.cmd? (h : Hw) (co : CoreId) (uid : Nat) : Option Cmd := (h.core co).cmds.find? (fun c => c.uid == uid)

/-- A command changed by a function. -/
def Core.onCmd (k : Core) (uid : Nat) (f : Cmd → Cmd) : Core :=
  { k with cmds := k.cmds.map (fun c => if c.uid == uid then f c else c) }

/-- A command of a core changed by a function. -/
def Hw.onCmd (h : Hw) (co : CoreId) (uid : Nat) (f : Cmd → Cmd) : Hw := h.onCore co (fun k => k.onCmd uid f)

/-- The one-dimensional forms and `xfill`: one element whose bytes count in DONE one by one (R124, R129). -/
def XOp.streamed : XOp → Bool
  | .get | .put | .move | .fill => true
  | _ => false

/-- The value-returning atomics (R250). -/
def XOp.returns : XOp → Bool
  | .fadd32 | .fadd64 | .swp | .cas | .casGo => true
  | _ => false

/-- The accumulate and atomic commands, which act at a port (R245). -/
def XOp.atPort : XOp → Bool
  | .acc _ => true
  | op => op.returns

/-- The element size of `xacc.*` (R248). -/
def AccOp.size : AccOp → Nat
  | .addS64 => 8
  | _ => 4

/-- The bytes of one element (R132, R248, R250). -/
def Cmd.size (c : Cmd) : Nat :=
  match c.op with
  | .acc k => k.size
  | _ => c.len

/-- The number of elements (R133, R134, R249). -/
def Cmd.count (c : Cmd) : Nat :=
  match c.op with
  | .get2d | .put2d | .gat | .sct => c.rows
  | .acc k => c.len / k.size
  | .close | .order => 0
  | _ => 1

/-- The total length in bytes (R131). -/
def Cmd.total (c : Cmd) : Nat := c.size * c.count

/-- The source address of element j (R133, R134, R249). -/
def Cmd.src (c : Cmd) (j : Nat) : Int :=
  match c.op with
  | .get2d | .put2d => c.sa + j * c.v.toInt
  | .gat => c.sa + c.idx.getD j 0 * c.len
  | .sct | .acc _ => c.sa + j * c.size
  | _ => c.sa

/-- The destination address of element j (R133, R134, R249). -/
def Cmd.dst (c : Cmd) (j : Nat) : Int :=
  match c.op with
  | .get2d | .put2d => c.da + j * c.w.toInt
  | .sct => c.da + c.idx.getD j 0 * c.len
  | .gat | .acc _ => c.da + j * c.size
  | _ => c.da

/-- What R129 compares as the target of an address: the core in space 2, the square in space 7, the module in space 8. -/
def targetNo (space : Nat) (a : Int) : Int :=
  match space with
  | 2 => a / 2 ^ 21
  | 7 => a / 2 ^ 32
  | 8 => a / 2 ^ 35
  | _ => 0

/-- A one-dimensional command with a recognised overlap, the destination above the source, goes downwards (R129). -/
def Cmd.descends (c : Cmd) : Bool :=
  c.op.streamed && c.op != .fill && c.cs.space == c.cd.space && targetNo c.cs.space c.sa == targetNo c.cd.space c.da
    && decide (c.sa < c.da) && decide (c.da < c.sa + c.len)

/-- A range of an address space: where it starts and how many bytes. -/
structure Span where
  addr : Int
  n : Nat
  deriving DecidableEq, Repr

/-- The bytes that one step reaches upwards from an address: a line of 64 in global memory (R101), a flit of 224 in space 8
(R280), a granule elsewhere (R143). -/
def stepUp (space : Nat) (a : Int) (n : Nat) : Nat :=
  match space with
  | 3 => min n (64 - (a % 64).toNat)
  | 8 => min n 224
  | _ => min n (16 - (a % 16).toNat)

/-- The same downwards to an address. -/
def stepDown (space : Nat) (top : Int) (n : Nat) : Nat :=
  match space with
  | 3 => min n (((top - 1) % 64).toNat + 1)
  | 8 => min n 224
  | _ => min n (((top - 1) % 16).toNat + 1)

/-- The element a command stands at. -/
def Cmd.elem (c : Cmd) : Nat := c.done / max c.size 1

/-- The next bytes to write (R124): a whole step of the destination. -/
def Cmd.nextWrite (c : Cmd) : Span :=
  if c.descends then
    let top := c.da + (c.len - c.done : Nat)
    let n := stepDown c.cd.space top (c.len - c.done)
    ⟨top - n, n⟩
  else
    let o := c.done % max c.size 1 + c.at_
    let a := c.dst c.elem + o
    ⟨a, stepUp c.cd.space a (c.size - o)⟩

/-- The next bytes to read beyond those held. -/
def Cmd.nextRead (c : Cmd) : Span :=
  if c.descends then
    let left := c.len - c.done - c.buf.length
    let top := c.sa + left
    let n := stepDown c.cs.space top left
    ⟨top - n, n⟩
  else
    let o := c.done % max c.size 1 + c.buf.length
    let a := c.src c.elem + o
    ⟨a, stepUp c.cs.space a (c.size - o)⟩

/-- The command needs to read before it can write: a streamed one the bytes of its next write, another its whole element
(R129). -/
def Cmd.mustRead (c : Cmd) : Bool :=
  c.op != .fill && decide (c.buf.length < (if c.op.streamed then c.nextWrite.n else c.size))

/-- The bytes of the next write, with their marks. -/
def Cmd.held (c : Cmd) : List (Byte × Bool) :=
  let w := c.nextWrite
  if c.op = .fill then
    (List.range w.n).map (fun i => (BitVec.ofNat 8 (c.v.toNat / 256 ^ (((w.addr + i) % 8).toNat)), false))
  else if c.descends then c.buf.drop (c.buf.length - w.n)
  else (c.buf.drop c.at_).take w.n

/-- Bytes read are held; the source is released once the last has been read (R126). -/
def Cmd.take (c : Cmd) (bs : List (Byte × Bool)) : Cmd :=
  let c := { c with buf := if c.descends then bs ++ c.buf else c.buf ++ bs, piece := .idle }
  if c.total ≤ c.done + c.buf.length then { c with released := true } else c

/-- `n` bytes of the next write have been performed: DONE advances with them, or with their element (R124). -/
def Cmd.put (c : Cmd) (n : Nat) : Cmd :=
  let c := { c with piece := .idle }
  if c.op.streamed then
    { c with
      done := c.done + n
      buf := if c.descends then c.buf.take (c.buf.length - n) else c.buf.drop n }
  else if c.at_ + n < c.size then { c with at_ := c.at_ + n }
  else { c with done := c.done + c.size, at_ := 0, buf := [] }

/-- The destination bytes that the command has still to perform. -/
def Cmd.left (c : Cmd) : List Span :=
  if c.op.streamed then
    if c.descends then [⟨c.da, c.len - c.done⟩] else [⟨c.da + c.done, c.len - c.done⟩]
  else (List.range (c.count - c.elem)).map (fun i => ⟨c.dst (c.elem + i), c.size⟩)

/-- The source bytes of what the command has still to perform. -/
def Cmd.leftSrc (c : Cmd) : List Span :=
  if c.op = .fill || c.op.returns then []
  else if c.op.streamed then
    if c.descends then [⟨c.sa, c.len - c.done⟩] else [⟨c.sa + c.done, c.len - c.done⟩]
  else (List.range (c.count - c.elem)).map (fun i => ⟨c.src (c.elem + i), c.size⟩)

/-- The part of a range of space 1 or 2 that lies in a core's own local memory, as offsets (R78). -/
def ownSpan (co : CoreId) (space : Nat) (s : Span) : List (Nat × Nat) :=
  match space with
  | 1 => [(s.addr.toNat, s.n)]
  | 2 =>
    let w : Int := remoteAddr co 0
    let lo := max s.addr w
    let hi := min (s.addr + s.n) (w + 2 ^ 19)
    if lo < hi then [((lo - w).toNat, (hi - lo).toNat)] else []
  | _ => []

/-- Everything that a capability reaches. -/
def CReg.span (x : CReg) : Span := ⟨x.base, x.length⟩

/-- The own local bytes that a command of a core will read: its source, all that its capability reaches where an index list
picks the elements, and the list itself (R124, R133, R134). -/
def Cmd.ownReads (co : CoreId) (c : Cmd) : List (Nat × Nat) :=
  let lst := if c.op = .gat ∨ c.op = .sct then [(c.lst, 4 * c.rows)] else []
  lst ++ (if c.op = .gat then [c.cs.span] else c.leftSrc).flatMap (ownSpan co c.cs.space)

/-- The own local bytes that a command of a core will write: its destination, and the place of the old value (R133, R134, R250). -/
def Cmd.ownWrites (co : CoreId) (c : Cmd) : List (Nat × Nat) :=
  (if c.op.returns then ownSpan co c.cs.space ⟨c.sa, 16⟩ else [])
    ++ (if c.op = .sct then [c.cd.span] else c.left).flatMap (ownSpan co c.cd.space)

end Sys2Proof.Machine
end

