-- ==== Sys2Proof/Machine/Barriers.lean ====
section
/-! DEFINITION. Transaction barriers: the slot's fields (R156), arrivals (R159), and the instructions 0x1C0 to 0x1C5
(R158-R163). -/

namespace Sys2Proof.Machine

/-- Bits [lo + n - 1 : lo] of a number. -/
def bitsAt (v lo n : Nat) : Nat := v / 2 ^ lo % 2 ^ n

/-- The state of an active barrier (R156); the lists hold the entries of L, C, S. -/
structure Slot where
  name : Nat := 0
  owed : List Nat := [0, 0, 0]
  made : List Nat := [0, 0, 0]
  wait : Nat := 0
  armed : Bool := false
  phase : Nat := 0
  bank : Nat := 0
  quota : Nat := 0
  deriving DecidableEq, Repr

/-- A slot's state from its 128 bits (R156). -/
def Slot.ofBits (v : Nat) : Slot :=
  { name := bitsAt v 116 12
    owed := [bitsAt v 104 4, bitsAt v 108 4, bitsAt v 112 4]
    made := [bitsAt v 92 4, bitsAt v 96 4, bitsAt v 100 4]
    wait := bitsAt v 89 3
    armed := bitsAt v 88 1 = 1
    phase := bitsAt v 72 16
    bank := bitsAt v 48 24
    quota := bitsAt v 0 24 }

/-- The 128 bits of a slot's state (R156). -/
def Slot.bits (b : Slot) : Nat :=
  let n := fun (l : List Nat) (i : Nat) => l.getD i 0 % 16
  b.name % 2 ^ 12 * 2 ^ 116 + n b.owed 2 * 2 ^ 112 + n b.owed 1 * 2 ^ 108 + n b.owed 0 * 2 ^ 104
    + n b.made 2 * 2 ^ 100 + n b.made 1 * 2 ^ 96 + n b.made 0 * 2 ^ 92 + b.wait % 8 * 2 ^ 89
    + b.armed.toNat * 2 ^ 88 + b.phase % 2 ^ 16 * 2 ^ 72 + b.bank % 2 ^ 24 * 2 ^ 48 + b.quota % 2 ^ 24

/-- The phase ends once nothing is owed (R159): PHASE rises, ARMED and the signatures clear, BANK is kept. -/
def Slot.complete (b : Slot) : Slot :=
  if b.armed && b.quota == 0 && b.made == b.owed then
    { b with phase := (b.phase + 1) % 2 ^ 16, armed := false, made := [0, 0, 0] }
  else b

/-- An arrival of `d` bytes, with a signature of an engine or none (R159): the trap code of a refusal, or the slot. -/
def Slot.arrive (b : Slot) (d : Nat) (sig : Option EngId) : Except Byte Slot :=
  let bad := match sig with
    | some e => b.made.getD (engUnit e) 0 == b.owed.getD (engUnit e) 0
    | none => false
  let take := if b.armed then min d b.quota else 0
  if bad then .error 0x33
  else if b.bank + (d - take) > 2 ^ 24 - 1 then .error 0x32
  else
    let made := match sig with
      | some e => b.made.set (engUnit e) (b.made.getD (engUnit e) 0 + 1)
      | none => b.made
    .ok { b with quota := b.quota - take, bank := b.bank + (d - take), made := made }.complete

/-- `tbexpect` of `n` bytes (R161); `none` where it overflows. -/
def Slot.expect (b : Slot) (n : Nat) : Option Slot :=
  if b.armed then
    if b.quota + n > 2 ^ 24 - 1 then none else some { b with quota := b.quota + n }.complete
  else if n > 2 ^ 24 - 1 then none
  else
    let take := min b.bank n
    some { b with armed := true, quota := n - take, bank := b.bank - take }.complete

/-- Whether the phases passed cover phase `ph` (R162, R328). -/
def phasePassed (phase ph : Nat) : Bool :=
  let d := (phase + 2 ^ 16 - ph % 2 ^ 16) % 2 ^ 16
  decide (1 ≤ d) && decide (d < 2 ^ 15)

/-- The slot offset of an active barrier of a core (R157). -/
def Core.barrierAt (k : Core) (name : Nat) : Option Nat :=
  (k.tbdir.find? (fun e => e.2.1.toNat == name)).map (fun e => 16 * e.2.2.toNat)

/-- A barrier's slot as a core's memory holds it. -/
def Hw.slotAt (h : Hw) (co : CoreId) (off : Nat) : Slot := Slot.ofBits (h.num (localKey co off) 16)

/-- A barrier's slot written (R156: only barrier operations do). -/
def Hw.putSlot (h : Hw) (co : CoreId) (off : Nat) (b : Slot) : Hw := h.putNum (localKey co off) 16 b.bits

/-- A copy command's arrival of `d` bytes at barrier `name` of a core (R125, R159): `none` when it is refused. -/
def Hw.arriveAt (h : Hw) (co : CoreId) (name d : Nat) : Option Hw :=
  match (h.core co).barrierAt name with
  | none => none
  | some off => match (h.slotAt co off).arrive d none with
    | .ok b => some (h.putSlot co off b)
    | .error _ => none

/-- The slot offset and slot of the barrier an instruction names: 0x33 when it is not active (R158). -/
def State.barrier (s : State) (n : BitVec 12) : Chk (Nat × Slot) :=
  match s.here.barrierAt n.toNat with
  | none => trapWith 0x33 0 (barrierDetail n.toNat 0)
  | some off => .ok (off, s.toHw.slotAt s.ix.co off)

/-- The detail that names a barrier and shows its slot. -/
def slotDetail (n : BitVec 12) (b : Slot) : BitVec 256 := barrierDetail n.toNat b.bits

/-- `tbinit`: makes barrier N active with its slot at c8.CURSOR + gA (R160). -/
def execTbinit (a : BitVec 6) (n : BitVec 12) (nl nc ns : BitVec 4) (s : State) : Out :=
  settle s (do
    let x ← s.gUse a
    let off ← checkOwn 8 (s.c 8) [1] (pLd ||| pSt) (s.c8Addr x) 16
    trapIf (off % 16 != 0) 0x11 off (capDetail 8 16 (s.c 8))
    match s.here.barrierAt n.toNat with
    | some o => trapWith 0x33 off (slotDetail n (s.toHw.slotAt s.ix.co o))
    | none => .ok ()
    trapIf (s.here.barrierIn off 16).isSome 0x33 off (barrierDetail n.toNat 0)
    match tabFree s.here.tbdir 2048 with
    | none => trapWith 0x32 off (barrierDetail n.toNat 0)
    | some i =>
      let b : Slot := { name := n.toNat, owed := [nl.toNat, nc.toNat, ns.toNat] }
      let k := localKey s.ix.co off
      let t := s.upd (fun h => (((h.putSlot s.ix.co off b).setTag false k).setFull false k).setMark false k)
      .ok (t.onHere (fun c => { c with
        tbdir := tabPut (n, BitVec.ofNat 15 (off / 16)) i c.tbdir, dirtyDir := true })))

/-- `tbexpect`: arms a phase or extends the one armed (R161). A poisoned gA traps before a barrier that is not active (R158, log
entry 99). -/
def execTbexpect (a : BitVec 6) (n : BitVec 12) (s : State) : Out :=
  settle s (do
    let x ← s.gUse a
    let (off, b) ← s.barrier n
    match b.expect x.toNat with
    | none => trapWith 0x32 0 (slotDetail n b)
    | some b' => .ok (s.upd (fun h => h.putSlot s.ix.co off b')))

/-- `tbarrive`: an arrival of gA bytes, with the engine's signature when P = 1; gD := PHASE (R159). -/
def execTbarrive (d a : BitVec 6) (n : BitVec 12) (p : BitVec 1) (s : State) : Out :=
  settle s (do
    let x ← s.gUse a
    let (off, b) ← s.barrier n
    match b.arrive x.toNat (if p = 1 then some s.ix.eng else none) with
    | .error c => trapWith c 0 (slotDetail n b)
    | .ok b' =>
      .ok ((s.upd (fun h => h.putSlot s.ix.co off b')).setG d ⟨BitVec.ofNat 64 b.phase, false⟩))

/-- The slot with an engine's WAIT bit as `w` says (R156, R162). -/
def Slot.setWait (b : Slot) (e : EngId) (w : Bool) : Slot :=
  let m := 2 ^ engUnit e
  let rest := if b.wait / m % 2 = 1 then b.wait - m else b.wait
  { b with wait := if w then rest + m else rest }

/-- `tbwait`: blocks until PHASE, as the instructions before it in the group leave it (R65 step 4), passes gA[15:0]; WAIT is 1
meanwhile (R162). -/
def execTbwait (a : BitVec 6) (n : BitVec 12) (s : State) : Out :=
  match (do
    let x ← s.gUse a
    let (off, b) ← s.barrier n
    .ok (off, b, phasePassed b.phase x.toNat) : Chk (Nat × Slot × Bool)) with
  | .error (.trap t) => .next (s.raise t)
  | .error .block => .next s.hold
  | .ok (off, b, ok) =>
    let t := s.upd (fun h => h.putSlot s.ix.co off (b.setWait s.ix.eng (!ok)))
    .next (if ok then t else t.hold)

/-- `tbtest`: the condition of `tbwait`, without blocking (R162). -/
def execTbtest (d : BitVec 3) (a : BitVec 6) (n : BitVec 12) (s : State) : Out :=
  settle s (do
    let x ← s.gUse a
    let (_, b) ← s.barrier n
    .ok (s.setP d ⟨phasePassed b.phase x.toNat, false⟩))

/-- `tbretire`: ends barrier N when it is between phases, empty and awaited by no engine (R163). -/
def execTbretire (n : BitVec 12) (s : State) : Out :=
  settle s (do
    let (off, b) ← s.barrier n
    trapIf (b.armed || b.bank != 0 || b.made != [0, 0, 0] || b.wait != 0) 0x33 0 (slotDetail n b)
    let k := localKey s.ix.co off
    let t := s.upd (fun h => ((h.putNum k 16 0).setFull false k).setMark false k)
    .ok (t.onHere (fun c => { c with
      tbdir := c.tbdir.filter (fun e => e.2.1 != n), dirtyDir := true })))

end Sys2Proof.Machine
end

