-- ==== Sys2Proof/Machine/Domains.lean ====
section
/-! DEFINITION. Domain barriers: phase counts and their advance (R328, R329), and `dbar`, `dbar.a`, `dbar.w` (R327). -/

namespace Sys2Proof.Machine

/-- A launch by LID. -/
def Hw.launch? (h : Hw) (lid : Nat) : Option Launch := tabFind h.launches lid

/-- A launch with new contents. -/
def Hw.setLaunch (h : Hw) (l : Launch) : Hw := { h with launches := tabPut l l.lid h.launches }

/-- A launch changed by a function, if it is there. -/
def Hw.onLaunch (h : Hw) (lid : Nat) (f : Launch → Launch) : Hw :=
  match h.launch? lid with
  | some l => h.setLaunch (f l)
  | none => h

/-- The ordinal of an isle in a launch (R305). -/
def Launch.ordinal (l : Launch) (isle : Nat) : Option Nat := l.isles.findIdx? (· == isle)

/-- The lowest band that holds an ordinal (R309). -/
def Launch.bandOf (l : Launch) (o : Nat) : Option Nat :=
  l.bands.findIdx? (fun b => decide (b.1 ≤ o) && decide (o < b.1 + b.2))

/-- The instance of a level that holds a core of a launch (R306); 0 where the level has one. -/
def Launch.instOf (l : Launch) (lv : Nat) (co : CoreId) : Nat :=
  match lv with
  | 2 => arrKey co.isle (CoreId.ins co)
  | 3 => co.isle
  | 4 => ((l.ordinal co.isle).bind l.bandOf).getD 64
  | _ => 0

/-- The number of a phase count in a launch's table: level, instance, wave (R328). -/
def phKey (lv inst wave : Nat) : Nat := lv * 2 ^ 32 + inst * 256 + wave % 256

/-- The participants of a barrier at level 2 or above (R329): tasks of the wave with the level's DBARM bit, placed in the
instance; queued ones and ones not yet released included. -/
def Launch.participants (l : Launch) (lv inst wave : Nat) : List TaskRec :=
  l.recs.filter (fun t => t.wave == wave && t.dbarm.getLsbD lv && l.instOf lv t.co == inst)

/-- How far an engine's arrivals lead a phase count (R328); none once it is done. -/
def Eng.lead (e : Eng) (lv : Nat) (ph : BitVec 16) : Option Nat :=
  if e.st = .done then none
  else some ((e.ea.toList.getD (lv - 1) 0) - ph).toNat

/-- The smaller of two leads, where none stands for every number. -/
def minLead : Option Nat → Option Nat → Option Nat
  | none, b => b
  | a, none => a
  | some a, some b => some (min a b)

/-- How far a core's running task leads a phase count: its least advanced engine that is not done. -/
def Core.lead (k : Core) (lv : Nat) (ph : BitVec 16) : Option Nat :=
  minLead (k.l.lead lv ph) (minLead (k.cE.lead lv ph) (k.s.lead lv ph))

/-- How far a task of the frame leads a phase count: not at all before it runs, without bound once retired. -/
def Hw.leadOf (h : Hw) (lv : Nat) (ph : BitVec 16) (t : TaskRec) : Option Nat :=
  match t.st with
  | .retired => none
  | .running => (h.core t.co).lead lv ph
  | _ => some 0

/-- PH of a level for a task on a core (R328): level 1 is the core's own. -/
def Hw.phase (h : Hw) (co : CoreId) (t : Task) (lv : Nat) : BitVec 16 :=
  if lv = 1 then (h.core co).ph
  else match h.launch? t.lid with
    | none => 0
    | some l => tabGet 0 l.ph (phKey lv (l.instOf lv co) t.wave)

/-- PH := PH + 1 while every participant has made PH + 1 arrivals (R328). -/
def Hw.advance (h : Hw) (co : CoreId) (t : Task) (lv : Nat) : Hw :=
  if lv = 1 then
    h.onCore co (fun k => { k with ph := k.ph + BitVec.ofNat 16 ((k.lead 1 k.ph).getD 0) })
  else match h.launch? t.lid with
    | none => h
    | some l =>
      let inst := l.instOf lv co
      let key := phKey lv inst t.wave
      let ph := tabGet 0 l.ph key
      let n := ((l.participants lv inst t.wave).map (h.leadOf lv ph)).foldl minLead none
      h.setLaunch { l with ph := tabPut (ph + BitVec.ofNat 16 (n.getD 0)) key l.ph }

/-- Every barrier that a core's task takes part in is looked at again: an engine is done, or the task retires. -/
def Hw.settleBars (h : Hw) (co : CoreId) : Hw :=
  match (h.core co).task with
  | none => h
  | some t => (h.advance co t 1) |> fun h =>
    ([2, 3, 4, 5].filter (fun lv => t.dbarm.getLsbD lv)).foldl (fun h lv => h.advance co t lv) h

/-- The same on the issuing core. -/
def State.settleBars (s : State) : State := s.upd (fun h => h.settleBars s.ix.co)

/-- The traps of R327: no band at band level, or a level whose DBARM bit is clear. -/
def State.checkLevel (s : State) (lv : Nat) : Chk Unit :=
  trapIf ((lv == 4 && s.task.band.isNone) || (decide (2 ≤ lv) && !s.task.dbarm.getLsbD lv)) 0x33 0 (barrierDetail 0 0)

/-- An arrival at a level (R328): the state after it, and n - 1. -/
def State.arriveDom (s : State) (lv : Nat) : State × BitVec 16 :=
  let n := s.me.ea.toList.getD (lv - 1) 0
  let t := s.onMe (fun e => { e with ea := e.ea.setIfInBounds (lv - 1) (n + 1) })
  (t.upd (fun h => h.advance s.ix.co s.task lv), n)

/-- `dbar`: arrives, and the engine holds its next group until the phase passes (R328). -/
def execDbar (lv : BitVec 8) (s : State) : Out :=
  settle s (do
    s.checkLevel lv.toNat
    let (t, n) := s.arriveDom lv.toNat
    .ok (t.onMe (fun e => { e with dbarHold := e.dbarHold ++ [(lv.toNat, n)] })))

/-- `dbar.a`: arrives; gD := n - 1 (R328). -/
def execDbarA (d : BitVec 6) (lv : BitVec 8) (s : State) : Out :=
  settle s (do
    s.checkLevel lv.toNat
    let (t, n) := s.arriveDom lv.toNat
    .ok (t.setG d ⟨n.setWidth 64, false⟩))

/-- `dbar.w`: blocks until the phase passes gA[15:0] (R328). -/
def execDbarW (a : BitVec 6) (lv : BitVec 8) (s : State) : Out :=
  settle s (do
    let x ← s.gUse a
    s.checkLevel lv.toNat
    blockUnless (phasePassed (s.prior.phase s.ix.co s.task lv.toNat).toNat x.toNat)
    .ok s)

end Sys2Proof.Machine
end

