-- ==== Sys2Proof/Machine/Control.lean ====
section
/-! DEFINITION. Control transfers, loops, the deferral queue, data queues, tokens, special registers, `trap`, `brk`,
`done` and the fences (R166-R181, R292, R367, R368). -/

namespace Sys2Proof.Machine

/-- The address of the instruction word in issue: words of a group follow each other (R58, R63). -/
def State.wordPc (s : State) : Nat := s.ix.pc.toNat + 12 * s.ix.slot

/-- A control transfer taken to an address formed exactly (R56, R173); it takes effect with the group. -/
def State.goTo (s : State) (t : Int) : State := { s with ix := { s.ix with target := some t } }

/-- A PC-relative transfer: PC + 4 * DISP (R56). -/
def State.goRel (s : State) (disp : BitVec 32) : State := s.goTo ((s.wordPc : Int) + 4 * disp.toInt)

/-- The link register takes PC + 12, poison clear (R173). -/
def State.link (s : State) : State := s.setG 63 ⟨BitVec.ofNat 64 (s.wordPc + 12), false⟩

/-- `nop`: nothing (R173). -/
def execNop (s : State) : Out := .next s

/-- `br` (R173): a poisoned operand raises 0x31. -/
def execBr (cnd : BitVec 4) (a b : BitVec 6) (disp : BitVec 32) (s : State) : Out :=
  settle s (do
    let x ← s.gUse a
    let y ← s.gUse b
    .ok (if condHolds cnd x y then s.goRel disp else s))

/-- `jmp` (R173). -/
def execJmp (disp : BitVec 32) (s : State) : Out := .next (s.goRel disp)

/-- `jmpi`: to gA + sext(IMM32) (R173). -/
def execJmpi (a : BitVec 6) (imm : BitVec 32) (s : State) : Out :=
  settle s (do
    let x ← s.gUse a
    .ok (s.goTo ((x.toNat : Int) + imm.toInt)))

/-- `call` (R173). -/
def execCall (disp : BitVec 32) (s : State) : Out := .next (s.link.goRel disp)

/-- `calli` (R173). -/
def execCalli (a : BitVec 6) (imm : BitVec 32) (s : State) : Out :=
  settle s (do
    let x ← s.gUse a
    .ok (s.link.goTo ((x.toNat : Int) + imm.toInt)))

/-- `ret`: to g63 (R173). -/
def execRet (s : State) : Out :=
  settle s (do
    let x ← s.gUse 63
    .ok (s.goTo x.toNat))

/-- `loop lcN` (R175). -/
def execLoopLc (lc : BitVec 2) (disp : BitVec 32) (s : State) : Out :=
  let n := s.lcv lc
  if n = 0 then .next s
  else
    let t := s.setLc lc (n - 1)
    .next (if n - 1 = 0 then t else t.goRel disp)

/-- `lset`: lc := (gA + IMM32) mod 2^32 (R173). -/
def execLset (lc : BitVec 2) (a : BitVec 6) (imm : BitVec 32) (s : State) : Out :=
  settle s (do
    let x ← s.gUse a
    .ok (s.setLc lc (x.setWidth 32 + imm)))

/-! ### Repetition and the loop nest -/

/-- The detail of an illegal-encoding or group trap: the twelve bytes of the word (R363). -/
def wordDetail (w : BitVec 96) : BitVec 256 := detField 32 12 w.toNat

/-- `rep`: the next group's instruction issues N times; 0x01 while %loopmode = 1 (R68, R176). -/
def execRep (n : BitVec 12) (sd s1 s2 s3 : BitVec 6) (soff : BitVec 28) (s : State) : Out :=
  settle s (do
    trapIf s.task.loopmode 0x01 0 (wordDetail s.ix.word)
    .ok (s.onMe (fun e => { e with
      rep := some { n := n.toNat, i := 0, sd := sd, s1 := s1, s2 := s2, s3 := s3, soff := soff } })))

/-- Byte `b` up, `n` bytes, of a loop-nest record (R177). -/
def nestField (r : BitVec 512) (b n : Nat) : Nat := r.toNat / 2 ^ (8 * b) % 2 ^ (8 * n)

/-- The number of loops NL (R177). -/
def nestNl (r : BitVec 512) : Nat := nestField r 0 8 % 8

/-- ORD[d] (R177). -/
def nestOrd (r : BitVec 512) (d : Nat) : Nat := nestField r 0 8 / 2 ^ (8 + 3 * d) % 8

/-- BOUNDj (R177). -/
def nestBound (r : BitVec 512) (j : Nat) : Nat := nestField r (8 + 2 * j) 2

/-- A signed 16-bit stride at a byte of the record (R177). -/
def nestStride (r : BitVec 512) (b j : Nat) : Int := (BitVec.ofNat 16 (nestField r (b + 2 * j) 2)).toInt

/-- The record satisfies R177. -/
def nestOk (r : BitVec 512) : Bool :=
  let hdr := nestField r 0 8
  let nl := nestNl r
  let ords := (List.range nl).map (nestOrd r)
  decide (1 ≤ nl) && decide (nl ≤ 6) && hdr / 8 % 32 == 0 && hdr / 2 ^ 26 == 0
    && (List.range nl).all (fun j => ords.contains j)
    && (List.range 6).all (fun d => d < nl || nestOrd r d == 0)
    && (List.range 6).all (fun j => if j < nl then nestBound r j != 0 else nestBound r j == 0)
    && nestField r 20 4 == 0 && nestField r 24 4 / 2 ^ 19 == 0 && nestField r 40 4 / 2 ^ 19 == 0
    && nestField r 56 8 == 0

/-- The generated registers g50 to g57 from the indices (R178). -/
def State.nestRegs (s : State) (n : Nest) : State :=
  let i := fun j => if h : j < 6 then (n.idx[j]).toNat else 0
  let gen := fun b str => (nestField n.record b 4 : Int)
    + (List.range 6).foldl (fun t j => t + (i j : Int) * nestStride n.record str j) 0
  let t := (List.range 6).foldl
    (fun t j => t.setG (BitVec.ofNat 6 (50 + j)) ⟨BitVec.ofNat 64 (i j), false⟩) s
  (t.setG 56 ⟨BitVec.ofInt 64 (gen 24 28), false⟩).setG 57 ⟨BitVec.ofInt 64 (gen 40 44), false⟩

/-- `lnest`: binds the record at ea (R178); 0x01 while %loopmode = 0 (R68) or for a record that breaks R177. -/
def execLnest (cb : BitVec 4) (x : BitVec 6) (sc : BitVec 3) (off : BitVec 32) (s : State) : Out :=
  settle s (do
    trapIf (!s.task.loopmode) 0x01 0 (wordDetail s.ix.word)
    let ea ← s.mAddr cb x sc off
    let a ← checkOwn cb.toNat (s.c cb) [1] pLd ea 64
    trapIf (a % 16 != 0) 0x11 a (capDetail cb.toNat 64 (s.c cb))
    s.checkMark a 64
    let r := BitVec.ofNat 512 (s.toHw.num (localKey s.ix.co a) 64)
    trapIf (!nestOk r) 0x01 a (wordDetail s.ix.word)
    let n : Nest := { record := r, active := true }
    .ok ((s.onCu (fun u => { u with nest := n })).nestRegs n))

/-- One step of the nest, from depth `d - 1` outwards (R178): the indices and whether the nest goes on. -/
def nestStep (r : BitVec 512) : Nat → Vector (BitVec 16) 6 → Vector (BitVec 16) 6 × Bool
  | 0, idx => (idx, false)
  | d + 1, idx =>
    let l := nestOrd r d
    if h : l < 6 then
      let i := (idx[l]).toNat + 1
      if i < nestBound r l then (idx.set l (BitVec.ofNat 16 i) h, true)
      else nestStep r d (idx.set l 0 h)
    else (idx, false)

/-- `loop nest` (R178): steps the bound nest; 0x37 when none is active. -/
def execLoopNest (disp : BitVec 32) (s : State) : Out :=
  let n := s.here.cu.nest
  settle s (do
    trapIf (!n.active) 0x37 0 (detField 32 1 7)
    let (idx, goes) := nestStep n.record (nestNl n.record) n.idx
    .ok (if goes then
        let n' := { n with idx := idx }
        ((s.onCu (fun u => { u with nest := n' })).nestRegs n').goRel disp
      else s.onCu (fun u => { u with nest := { n with idx := idx, active := false } })))

/-! ### The deferral queue -/

/-- Entries of a tag, as %dqcnt counts them (R179). -/
def CUnit.tagCount (u : CUnit) (t : Nat) : Nat := (u.dq.filter (fun e => e.tag.toNat == t)).length

/-- %dqcnt (R179). -/
def CUnit.dqcnt (u : CUnit) : Word :=
  BitVec.ofNat 64 (u.dq.length + (List.range 4).foldl (fun n t => n + u.tagCount t * 2 ^ (9 + 9 * t)) 0)

/-- `defer`: appends the active lanes' values; 0x34 when the queue would pass 256 entries (R180),
counted as the earlier slots of its group leave it (log entry 10). -/
def execDefer (va : BitVec 6) (mk : BitVec 3) (cnt : BitVec 4) (tag : BitVec 2) (s : State) : Out :=
  let m := s.m mk
  let n := popCount m 32
  let total := s.here.cu.dq.length
  let val := fun (l i : Nat) =>
    let x := s.v (va + BitVec.ofNat 6 i)
    (x.lane l, x.psn.getLsbD l)
  settle s (do
    trapIf (decide (total + n > 256)) 0x34 0 (detField 32 2 total ||| detField 34 2 n)
    .ok (s.onCu (fun u => { u with
      dq := u.dq ++ (activeLanes m).map (fun l => ⟨tag, l, (List.range cnt.toNat).map (val l)⟩) })))

/-- The oldest `n` entries of a tag, and the queue without them (R181). -/
def takeTag (t : BitVec 2) : Nat → List DqEntry → List DqEntry × List DqEntry
  | _, [] => ([], [])
  | 0, q => ([], q)
  | n + 1, e :: q =>
    if e.tag = t then
      let (a, b) := takeTag t n q
      (e :: a, b)
    else
      let (a, b) := takeTag t (n + 1) q
      (a, e :: b)

/-- `drain`: up to 32 entries of the tag into four vectors; branches when it took any (R181).
It sees the queue as the earlier slots of its group leave it (log entry 10). -/
def execDrain (a vb : BitVec 6) (disp : BitVec 32) (tag : BitVec 2) (s : State) : Out :=
  let (es, rest) := takeTag tag 32 s.here.cu.dq
  let n := es.length
  let el := fun (j i : Nat) => ((es[j]?).bind (fun e => e.vals[i]?)).getD (0, false)
  let t := s.onCu (fun u => { u with dq := rest })
  let t := (List.range 4).foldl (fun t i => t.setV (vb + BitVec.ofNat 6 i) {
    bits := lanesOf (fun j => (el j i).1), psn := bitsOf (fun j => (el j i).2) }) t
  let t := (t.setM 7 (bitsOf (fun j => decide (j < n)))).setG a ⟨BitVec.ofNat 64 n, false⟩
  .next (if n > 0 then t.goRel disp else t)

/-! ### Data queues, branch outcomes, tokens -/

/-- An engine of a core can no longer act: it is done (R169). -/
def Core.isDone (k : Core) (e : EngId) : Bool := (k.eng e).st == .done

/-- The data queues an engine pushes or pops: xq from L to C, yq from C to S (R168). -/
def Core.queueOf (k : Core) (x : Bool) (q : BitVec 2) : List QEntry := if x then k.xq.get q.toFin else k.yq.get q.toFin

/-- A core with one data queue replaced. -/
def Core.setQueue (k : Core) (x : Bool) (q : BitVec 2) (l : List QEntry) : Core :=
  if x then { k with xq := k.xq.set q.toNat l q.isLt } else { k with yq := k.yq.set q.toNat l q.isLt }

/-- The detail of a queue or token trap: object and index (R363). -/
def queueDetail (object index : Nat) : BitVec 256 := detField 32 1 object ||| detField 33 1 index

/-- A push of an entry (R168, R169): blocks while the queue is full, 0x37 once the popping engine is done. It can be popped
from the next cycle on. -/
def State.push (s : State) (q : BitVec 2) (e : QEntry) : Chk State :=
  let x := s.ix.eng == .l
  let isFull := decide (16 ≤ (s.herePrior.queueOf x q).length)
  do
    trapIf (isFull && s.here.isDone (if x then .c else .s)) 0x37 0 (queueDetail (if x then 0 else 1) q.toNat)
    blockUnless (!isFull)
    .ok (s.onHere (fun k => k.setQueue x q (k.queueOf x q ++ [{ e with fresh := true }])))

/-- The trap of an entry that fails its parity tag (R168, R363). -/
def parityTrap {α : Type} : Chk α := trapWith 0x70 0 (detField 32 1 1 ||| detField 48 8 (Config.syndrome 0).toNat)

/-- The head entry, popped or left (R168-R170): blocks while empty, or while the head was pushed in this very cycle, 0x37 once
the pushing engine is done; 0x70 on a bad parity tag. -/
def State.pop (s : State) (q : BitVec 2) (keep : Bool) : Chk (QEntry × State) :=
  let x := s.ix.eng == .c
  match s.herePrior.queueOf x q with
  | [] =>
    if s.here.isDone (if x then .l else .c) then trapWith 0x37 0 (queueDetail (if x then 0 else 1) q.toNat)
    else .error .block
  | e :: _ =>
    if e.fresh then .error .block
    else if e.parityOk then .ok (e, if keep then s else s.onHere (fun k => k.setQueue x q (k.queueOf x q).tail))
    else parityTrap

/-- `qput` (R170): word 0 is gA, its poison on lanes 0 and 1. -/
def execQput (a : BitVec 6) (q : BitVec 2) (s : State) : Out :=
  let x := s.g a
  settle s (s.push q { data := { bits := x.bits.setWidth 1024, psn := if x.psn then 3 else 0 } })

/-- `qget` (R170): word W of the head entry. -/
def execQget (d : BitVec 6) (q : BitVec 2) (w : BitVec 4) (k : BitVec 1) (s : State) : Out :=
  settle s (do
    let (e, t) ← s.pop q (k == 1)
    let n := w.toNat
    .ok (t.setG d ⟨e.data.bits.extractLsb' (64 * n) 64,
      e.data.psn.getLsbD (2 * n) || e.data.psn.getLsbD (2 * n + 1)⟩))

/-- `qputv` (R170): the whole vector. -/
def execQputv (va : BitVec 6) (q : BitVec 2) (s : State) : Out := settle s (s.push q { data := s.v va })

/-- `qgetv` (R170): the head entry whole. -/
def execQgetv (vd : BitVec 6) (q : BitVec 2) (k : BitVec 1) (s : State) : Out :=
  settle s (do
    let (e, t) ← s.pop q (k == 1)
    .ok (t.setV vd e.data))

/-- `pushbq`: the condition's outcome to the C engine (R172). -/
def execPushbq (cnd : BitVec 4) (a b : BitVec 6) (s : State) : Out :=
  let isFull := decide (64 ≤ s.herePrior.bq.length)
  settle s (do
    let x ← s.gUse a
    let y ← s.gUse b
    trapIf (isFull && s.here.isDone .c) 0x37 0 (queueDetail 2 0)
    blockUnless (!isFull)
    .ok (s.onHere (fun k => { k with bq := k.bq ++ [{ bit := condHolds cnd x y, fresh := true }] })))

/-- `brq`: pops an outcome b, as R168 has it, and branches when b XOR N = 1 (R172). -/
def execBrq (disp : BitVec 32) (n : BitVec 1) (s : State) : Out :=
  settle s (match s.herePrior.bq with
    | [] => if s.here.isDone .l then trapWith 0x37 0 (queueDetail 2 0) else .error .block
    | b :: _ =>
      if b.fresh then .error .block
      else if !b.parityOk then parityTrap
      else
        let t := s.onHere (fun k => { k with bq := k.bq.tail })
        .ok (if b.bit != (n == 1) then t.goRel disp else t))

/-- A token count. -/
def Core.token (k : Core) (c : BitVec 4) : Byte := k.tok.get c.toFin

/-- A core with a token count replaced. -/
def Core.setToken (k : Core) (c : BitVec 4) (n : Byte) : Core := { k with tok := k.tok.set c.toNat n c.isLt }

/-- A committed change of a token count, which the other engines see from the next cycle on (R171). -/
def State.changeToken (s : State) (c : BitVec 4) (post : Bool) : State :=
  s.onHere (fun k => { k.setToken c (if post then k.token c + 1 else k.token c - 1) with
    tokLog := k.tokLog ++ [⟨s.ix.eng, c.toNat, post⟩] })

/-- The changes of a count that other engines have committed in the present cycle (R171). -/
def Core.tokOthers (k : Core) (e : EngId) (c : BitVec 4) (post : Bool) : Byte :=
  BitVec.ofNat 8 (k.tokLog.filter (fun x => x.eng != e && x.chan == c.toNat && x.post == post)).length

/-- `post`: count + 1; 255 raises 0x37 (R171). -/
def execPost (k : BitVec 4) (s : State) : Out :=
  settle s (do
    trapIf (s.here.token k == 255) 0x37 0 (queueDetail 3 k.toNat)
    .ok (s.changeToken k true))

/-- Both other engines of the core are done (R171). -/
def State.othersDone (s : State) : Bool :=
  [EngId.l, .c, .s].all (fun e => e == s.ix.eng || s.here.isDone e)

/-- `await`: count - 1, once it is at least 1 without the posts of other engines in this cycle; 0x37 when the count is 0 and no
engine is left to post (R171). -/
def execAwait (k : BitVec 4) (s : State) : Out :=
  let c := s.herePrior
  let n := c.token k
  settle s (do
    trapIf (n == 0 && s.othersDone) 0x37 0 (queueDetail 3 k.toNat)
    blockUnless (decide ((c.tokOthers s.ix.eng k true).toNat < n.toNat))
    .ok (s.changeToken k false))

/-- `kget`: the count before the group, without what other engines have committed in this cycle (R171). -/
def execKget (d : BitVec 6) (k : BitVec 4) (s : State) : Out :=
  let c := s.herePrior
  let e := s.ix.eng
  .next (s.setG d ⟨(c.token k - c.tokOthers e k true + c.tokOthers e k false).setWidth 64, false⟩)

/-! ### Special registers -/

/-- Segments in service: the 1 bits of SEGS (R25, R215). -/
def Arr.nsegs (a : Arr) : Nat := popCount a.segs 4

/-- The reported CAL: 4 without a segment in service (R25). -/
def Arr.calNow (a : Arr) : BitVec 3 := if a.segs = 0 then 4 else a.cal

/-- %shape (R25): an array out of service reports no columns and no segments. -/
def Arr.shape (a : Arr) : Word :=
  let off := a.calNow = 4
  BitVec.ofNat 64 (a.margin.toNat * 2 ^ 32 + a.calNow.toNat * 2 ^ 24 + (if off then 0 else 64) * 2 ^ 16
    + (if off then 0 else 16 * a.nsegs) * 2 ^ 8 + (if off then 0 else a.segs.toNat))

/-- %lease (R219). -/
def Core.lease (k : Core) : Word :=
  BitVec.ofNat 64 (k.leaseRuns.toNat * 2 ^ 8 + k.leaseHeld.toNat * 2 ^ 7 + k.leaseLeft.toNat)

/-- %dom (R326). -/
def Task.dom (t : Task) : Word :=
  BitVec.ofNat 64 (t.lid % 2 ^ 16 * 2 ^ 48 + (match t.band with
    | none => 2 ^ 31
    | some b => b % 64 * 2 ^ 19) + t.ord % 2 ^ 10 * 2 ^ 9)

/-- A special register is the C engine's alone (R70). -/
def csrOnlyC (n : Nat) : Bool := n == 0xA || n == 0xB || n == 0xC

/-- A special register's value in a state of the hardware (R70, R326). Every reader of `%tick` sees the one counter: the model
settles to zero the up to 40 ns by which copies may differ (R22, log entry 92). -/
def csrValue (h : Hw) (co : CoreId) (e : EngId) (n : Nat) : Word :=
  let k := h.core co
  let t := k.task.getD {}
  match n with
  | 0x0 => BitVec.ofNat 64 co.core
  | 0x1 => BitVec.ofNat 64 (CoreId.ins co)
  | 0x2 => BitVec.ofNat 64 co.isle
  | 0x3 => BitVec.ofNat 64 t.task
  | 0x4 => BitVec.ofNat 64 t.iter
  | 0x5 => t.frame
  | 0x6 => h.tick
  | 0x7 => t.seed
  | 0x8 => (k.task.map Task.dom).getD 0
  | 0x9 => BitVec.ofNat 64 t.loopmode.toNat
  | 0xA => k.cu.ftidx.setWidth 64
  | 0xB => k.lease
  | 0xC => k.cu.dqcnt
  | 0xD => k.late
  | 0xE => (h.arr co.isle (CoreId.ins co)).shape
  | _ => (k.eng e).rsec.setWidth 64

/-- `csrr`: the register as it stood before the group (R368); a number not in the table, or a C-only register from L or S, raises
0x01 (R70). -/
def execCsrr (d : BitVec 6) (csr : BitVec 16) (s : State) : Out :=
  settle s (do
    trapIf (decide (15 < csr.toNat) || csrOnlyC csr.toNat && s.ix.eng != .c) 0x01 0 (wordDetail s.ix.word)
    .ok (s.setG d ⟨csrValue s.prior s.ix.co s.ix.eng csr.toNat, false⟩))

/-- `csrw`: %ftidx is the one writable register (R70, R368); a poisoned gA raises 0x31 (R303). -/
def execCsrw (a : BitVec 6) (csr : BitVec 16) (s : State) : Out :=
  settle s (do
    trapIf (csr.toNat != 0xA || s.ix.eng != .c) 0x01 0 (wordDetail s.ix.word)
    let x ← s.gUse a
    .ok (s.onCu (fun u => { u with ftidx := x.setWidth 2 })))

/-! ### Traps, the end of a stream, fences -/

/-- `trap`: raises 0x40 with the immediate and gA; a poisoned gA is recorded, not consumed (R367). -/
def execTrap (a : BitVec 6) (imm : BitVec 32) (s : State) : Out :=
  let x := s.g a
  let d := detField 32 4 imm.toNat ||| detField 40 8 x.bits.toNat ||| detField 48 1 x.psn.toNat
  .next (s.raise { code := 0x40, detail := d })

/-- `brk`: raises 0x41 with the immediate (R367); after a held break's resume it executes as `nop`, that once (R365). -/
def execBrk (imm : BitVec 32) (s : State) : Out :=
  if s.me.brkPass then .next (s.onMe (fun e => { e with brkPass := false }))
  else .next (s.raise { code := 0x41, detail := detField 32 4 imm.toNat })

/-- `done`: RSEC := SEC and the engine stops fetching (R166); 0x37 in C while the deferral queue holds entries. -/
def execDoneOp (s : State) : Out :=
  settle s (do
    trapIf (s.ix.eng == .c && !s.here.cu.dq.isEmpty) 0x37 0 (queueDetail 5 0)
    .ok ((s.onMe (fun e => { e with
      st := .done
      rsec := (match e.sec with
        | some x => x.sec
        | none => e.rsec)
      donePc := s.ix.pc, doneSlot := s.ix.slot, doneAt := s.here.cyc })).settleBars))

/-- The destinations a fence waits for (R292). -/
inductive Fence where
  | core | isle | mod | sys
  deriving DecidableEq, Repr

/-- The destination bytes of a command (R131-R134, R249): those of its elements; all that its capability reaches, while an
index list is unknown. -/
def Cmd.targets (c : Cmd) : List Span :=
  if c.op = .sct ∧ c.idx = [] then [c.cd.span] else (List.range c.count).map (fun j => ⟨c.dst j, c.size⟩)

/-- A destination byte of a command lies among `n` bytes from an address of its space. -/
def Cmd.mayWrite (c : Cmd) (lo n : Nat) : Bool :=
  c.targets.any (fun x => x.n != 0 && decide ((lo : Int) < x.addr + x.n) && decide (x.addr < (lo : Int) + n))

/-- A command's destination lies in the fence's column (R292); inbound commands always do, `xclose` has none. -/
def Cmd.inFence (c : Cmd) (co : CoreId) (f : Fence) : Bool :=
  match f, c.cd.space with
  | _, 1 => true
  | .sys, _ => true
  | .mod, n => n != 8
  | .isle, 2 => c.mayWrite (co.isle * 2 ^ 32) (2 ^ 32)
  | .core, 2 => c.mayWrite (co.isle * 2 ^ 32 + co.core * 2 ^ 21) (2 ^ 21)
  | .isle, 6 => true
  | .core, 6 => c.mayWrite (CoreId.pos co * 2 ^ 15) (2 ^ 15)
  | _, _ => false

/-- A fence issues once every covered command committed before its group is performed (R292). For `fence.sys` that is to be
visible at system scope: a write into space 8 is performed here when its response with status 0 returns (R280, R289). -/
def fenceWith (f : Fence) (s : State) : Out :=
  settle s (do
    blockUnless (s.herePrior.cmds.all (fun c =>
      c.op == .order || c.op == .close || !c.inFence s.ix.co f || c.performed))
    .ok s)

/-- `fence.core` (R292). -/
def execFenceCore (s : State) : Out := fenceWith .core s

/-- `fence.isle` (R292). -/
def execFenceIsle (s : State) : Out := fenceWith .isle s

/-- `fence.mod` (R292). -/
def execFenceMod (s : State) : Out := fenceWith .mod s

/-- `fence.sys` (R292). -/
def execFenceSys (s : State) : Out := fenceWith .sys s

end Sys2Proof.Machine
end

