-- ==== Sys2Proof/Machine/CopyIssue.lean ====
section
/-! DEFINITION. Issuing copy commands: queues, channels and IDs (R117-R123), the checks at issue (R130-R132, R246,
R247, R253, R261), the commands 0x0C0 to 0x0D7, and the status instructions (R136-R138). -/

namespace Sys2Proof.Machine

/-! ### Queues, channels, status -/

/-- A command is inbound when its destination has SPACE 1 (R122). -/
def Cmd.inbound (c : Cmd) : Bool := c.op != .order && c.cd.space == 1

/-- A command is outbound otherwise; `xorder` is neither (R122). -/
def Cmd.outbound (c : Cmd) : Bool := c.op != .order && c.cd.space != 1

/-- Entries of a queue: commands and markers not yet started (R117). -/
def Core.queued (k : Core) (q : QSel) : List Cmd := k.cmds.filter (fun c => c.q == q && !c.started)

/-- The status value of a channel: the ID of its oldest command that `p` names; NEXTID when there is none (R122). -/
def Core.status (k : Core) (ch : BitVec 4) (p : Cmd → Bool) : BitVec 32 :=
  match k.cmds.find? (fun c => c.ch == ch.toNat && p c) with
  | some c => c.id
  | none => k.nextid.get ch.toFin

/-- IN_DONE (R122). -/
def Core.inDone (k : Core) (ch : BitVec 4) : BitVec 32 := k.status ch (fun c => c.inbound && !c.performed)

/-- OUT_REL (R122). -/
def Core.outRel (k : Core) (ch : BitVec 4) : BitVec 32 := k.status ch (fun c => c.outbound && !c.released)

/-- OUT_VIS (R122). -/
def Core.outVis (k : Core) (ch : BitVec 4) : BitVec 32 := k.status ch (fun c => c.outbound && !c.visible)

/-- LAST (R121). -/
def Core.last (k : Core) (ch : BitVec 4) : BitVec 32 := k.nextid.get ch.toFin - 1

/-- ID a is after ID b (R121). -/
def idAfter (a b : BitVec 32) : Bool := let d := (a - b).toNat; decide (1 ≤ d) && decide (d < 2 ^ 31)

/-- The queue that an engine's commands enter (R117): S has the store queue. -/
def queueOfEng : EngId → QSel
  | .s => .store
  | _ => .load

/-- Room in the engine's queue, a blocking condition (R117). -/
def State.checkRoom (s : State) : Chk Unit :=
  blockUnless (decide ((s.here.queued (queueOfEng s.ix.eng)).length < 32))

/-- A committed command enters the queue (R117), binds its channel (R120) and takes its ID (R121); a channel bound to the
other queue raises 0x37, after every other check (log entry 97). -/
def State.enter (s : State) (ch : BitVec 4) (c : Cmd) : Chk State := do
  let q := queueOfEng s.ix.eng
  let b := s.here.bind.get ch.toFin
  trapIf (b.isSome && b != some q) 0x37 0 (queueDetail 4 ch.toNat)
  s.checkRoom
  let sec := match s.me.sec with
    | some x => x.sec
    | none => 0
  .ok (s.onHere (fun k => { k with
    cmds := k.cmds ++ [{ c with
      q := q, uid := k.uid, ch := ch.toNat, id := k.nextid.get ch.toFin
      task := k.task.getD {}, pc := s.ix.pc, slot := s.ix.slot, sec := sec }]
    uid := k.uid + 1
    bind := k.bind.set ch.toNat (some q) ch.isLt
    nextid := k.nextid.set ch.toNat (k.nextid.get ch.toFin + 1) ch.isLt }))

/-! ### Transfer commands -/

/-- The spaces a transfer may name (R130). -/
def anySpace : List Nat := [1, 2, 3, 6, 7, 8]

/-- TB ≠ 0 needs a destination in space 1 or 2 (R125). -/
def checkTb (tb : BitVec 12) (cd : CReg) : Chk Unit :=
  trapIf (tb != 0 && !([1, 2].contains cd.space)) 0x33 0 (barrierDetail tb.toNat 0)

/-- The fields that every transfer reads. -/
structure XRegs where
  n : Nat
  sa : Int
  da : Int
  v : Word
  w : Word

/-- The register operands LEN, OA, OB, V, W in that order, and the addresses of R131; poison raises 0x31. -/
def State.xRegs (s : State) (cd : BitVec 4) (ob : BitVec 6) (cs : BitVec 4) (oa len v w : BitVec 6) : Chk XRegs := do
  let n ← s.gUse len
  let a ← s.gUse oa
  let b ← s.gUse ob
  let v ← s.gUse v
  let w ← s.gUse w
  .ok { n := n.toNat, sa := (s.c cs).cursor + a.toInt, da := (s.c cd).cursor + b.toInt, v := v, w := w }

/-- A one-dimensional command: `xget`, `xput`, `xmove` (R132, R133), its checks in the order of log entry 97. -/
def xferOne (op : XOp) (src dst : List Nat) (cd : BitVec 4) (ob : BitVec 6) (cs : BitVec 4) (oa len : BitVec 6)
    (ch : BitVec 4) (tb : BitVec 12) (vs : Nat) (s : State) : Out :=
  settle s (do
    let r ← s.xRegs cd ob cs oa len 0 0
    checkCap cs.toNat (s.c cs) src pLd r.sa r.n
    checkCap cd.toNat (s.c cd) dst pSt r.da r.n
    checkTb tb (s.c cd)
    s.enter ch {
      uid := 0, q := .load, op := op, cs := s.c cs, csi := cs.toNat, cd := s.c cd, cdi := cd.toNat
      sa := r.sa, da := r.da, len := r.n
      tb := tb.toNat, vs := vs })

/-- `xget` (R133). -/
def execXget (cd : BitVec 4) (ob : BitVec 6) (cs : BitVec 4) (oa len : BitVec 6) (ch : BitVec 4) (tb : BitVec 12)
    (s : State) : Out := xferOne .get anySpace [1] cd ob cs oa len ch tb 0 s

/-- `xput` (R133). -/
def execXput (cd : BitVec 4) (ob : BitVec 6) (cs : BitVec 4) (oa len : BitVec 6) (ch : BitVec 4) (tb : BitVec 12)
    (vs : BitVec 3) (s : State) : Out := xferOne .put [1] anySpace cd ob cs oa len ch tb vs.toNat s

/-- `xmove` (R133). -/
def execXmove (cd : BitVec 4) (ob : BitVec 6) (cs : BitVec 4) (oa len : BitVec 6) (ch : BitVec 4) (tb : BitVec 12)
    (vs : BitVec 3) (s : State) : Out := xferOne .move anySpace anySpace cd ob cs oa len ch tb vs.toNat s

/-- The two-dimensional commands: the first and the last row are checked (R132, R133). -/
def xferRows (op : XOp) (src dst : List Nat) (cd : BitVec 4) (ob w : BitVec 6) (cs : BitVec 4) (oa v len : BitVec 6)
    (ch : BitVec 4) (tb : BitVec 12) (rows : BitVec 13) (vs : Nat) (s : State) : Out :=
  settle s (do
    let r ← s.xRegs cd ob cs oa len v w
    let last : Int := rows.toNat - 1
    checkCap cs.toNat (s.c cs) src pLd r.sa r.n
    checkCap cs.toNat (s.c cs) src pLd (r.sa + last * r.v.toInt) r.n
    checkCap cd.toNat (s.c cd) dst pSt r.da r.n
    checkCap cd.toNat (s.c cd) dst pSt (r.da + last * r.w.toInt) r.n
    checkTb tb (s.c cd)
    s.enter ch {
      uid := 0, q := .load, op := op, cs := s.c cs, csi := cs.toNat, cd := s.c cd, cdi := cd.toNat
      sa := r.sa, da := r.da, len := r.n
      v := r.v, w := r.w, rows := rows.toNat, tb := tb.toNat, vs := vs })

/-- `xget2d` (R133). -/
def execXget2d (cd : BitVec 4) (ob w : BitVec 6) (cs : BitVec 4) (oa v len : BitVec 6) (ch : BitVec 4) (tb : BitVec 12)
    (rows : BitVec 13) (s : State) : Out := xferRows .get2d anySpace [1] cd ob w cs oa v len ch tb rows 0 s

/-- `xput2d` (R133). -/
def execXput2d (cd : BitVec 4) (ob w : BitVec 6) (cs : BitVec 4) (oa v len : BitVec 6) (ch : BitVec 4) (tb : BitVec 12)
    (rows : BitVec 13) (vs : BitVec 3) (s : State) : Out :=
  xferRows .put2d [1] anySpace cd ob w cs oa v len ch tb rows vs.toNat s

/-- The indexed commands: the list through c8 and the contiguous side are checked; of the indexed side tag, space and
permission (R130, R132); gV must be a multiple of 4. The list comes first, then the source, then the destination (log entry
97). -/
def xferList (op : XOp) (src dst : List Nat) (gat : Bool) (cd : BitVec 4) (ob : BitVec 6) (cs : BitVec 4)
    (oa len v w : BitVec 6) (ch : BitVec 4) (tb : BitVec 12) (vs : Nat) (s : State) : Out :=
  settle s (do
    let r ← s.xRegs cd ob cs oa len v w
    let lst : Int := (s.c 8).cursor + r.v.toNat
    let total := r.w.toNat * r.n
    checkCap 8 (s.c 8) [1] pLd lst (4 * r.w.toNat)
    if gat then
      checkUse cs.toNat (s.c cs) src pLd r.sa r.n
      checkCap cd.toNat (s.c cd) dst pSt r.da total
    else
      checkCap cs.toNat (s.c cs) src pLd r.sa total
      checkUse cd.toNat (s.c cd) dst pSt r.da r.n
    trapIf (r.v.toNat % 4 != 0) 0x11 lst.toNat (capDetail 8 (4 * r.w.toNat) (s.c 8))
    checkTb tb (s.c cd)
    s.enter ch {
      uid := 0, q := .load, op := op, cs := s.c cs, csi := cs.toNat, cd := s.c cd, cdi := cd.toNat
      sa := r.sa, da := r.da, len := r.n
      rows := r.w.toNat, lst := lst.toNat, tb := tb.toNat, vs := vs })

/-- `xgat` (R134). -/
def execXgat (cd : BitVec 4) (ob : BitVec 6) (cs : BitVec 4) (oa len v w : BitVec 6) (ch : BitVec 4) (tb : BitVec 12)
    (s : State) : Out := xferList .gat anySpace [1] true cd ob cs oa len v w ch tb 0 s

/-- `xsct` (R134). -/
def execXsct (cd : BitVec 4) (ob : BitVec 6) (cs : BitVec 4) (oa len v w : BitVec 6) (ch : BitVec 4) (tb : BitVec 12)
    (vs : BitVec 3) (s : State) : Out := xferList .sct [1] anySpace false cd ob cs oa len v w ch tb vs.toNat s

/-- `xfill` (R135). -/
def execXfill (cd : BitVec 4) (ob v len : BitVec 6) (ch : BitVec 4) (tb : BitVec 12) (vs : BitVec 3) (s : State) : Out :=
  settle s (do
    let r ← s.xRegs cd ob 0 0 len v 0
    checkCap cd.toNat (s.c cd) anySpace pSt r.da r.n
    checkTb tb (s.c cd)
    s.enter ch {
      uid := 0, q := .load, op := .fill, cd := s.c cd, cdi := cd.toNat, da := r.da, len := r.n, v := r.v, tb := tb.toNat
      vs := vs.toNat })

/-! ### Accumulate and atomic commands -/

/-- A footprint of the task in mode A with a round tag (R253). -/
def Task.tagged (t : Task) (rt : Nat) : List Foot := t.feet.filter (fun f => f.valid && f.mode == 2 && f.rtag.toNat == rt)

/-- The round checks of R253: 0x37 without such a footprint, 0x11 outside the bounds of each. -/
def State.checkRound (s : State) (rt : Nat) (cd : BitVec 4) (da : Int) (n : Nat) : Chk Unit :=
  if rt = 0 then .ok ()
  else do
    let fs := s.task.tagged rt
    trapIf fs.isEmpty 0x37 0 (queueDetail 6 rt)
    trapIf (!fs.any (fun f => decide (f.cap.base ≤ da) && decide (da + n ≤ f.cap.top))) 0x11 da.toNat
      (capDetail cd.toNat n (s.c cd))

/-- The round and sequence number of a round-batched command (R253, R254), and the engine's counts after it. -/
def State.nextSeq (s : State) (rt : Nat) : (Nat × Nat) × State :=
  let e := s.me
  if rt = 0 then ((0, 0), s)
  else
    ((tabGet 0 e.closes rt + 1, tabGet 0 e.seqs rt),
      s.onMe (fun e => { e with seqs := tabPut (tabGet 0 e.seqs rt + 1) rt e.seqs }))

/-- The destination spaces of an accumulate or atomic (R247). -/
def rmwSpaces (rt : Nat) : List Nat := if rt = 0 then [1, 2, 3] else [3]

/-- `xacc.*` (R248, R249), checked in the order of R246. -/
def xaccWith (k : AccOp) (cd : BitVec 4) (ob : BitVec 6) (cs : BitVec 4) (oa len : BitVec 6) (ch : BitVec 4) (rt : Nat)
    (s : State) : Out :=
  settle s (do
    let r ← s.xRegs cd ob cs oa len 0 0
    let e := k.size
    checkCap cs.toNat (s.c cs) [1] pLd r.sa r.n
    checkCap cd.toNat (s.c cd) (rmwSpaces rt) pAc r.da r.n
    trapIf (decide (r.sa % e ≠ 0)) 0x11 r.sa.toNat (capDetail cs.toNat r.n (s.c cs))
    trapIf (r.n % e != 0 || decide (r.da % e ≠ 0)) 0x11 r.da.toNat (capDetail cd.toNat r.n (s.c cd))
    s.checkRound rt cd r.da r.n
    let ((round, seq), t) := s.nextSeq rt
    t.enter ch {
      uid := 0, q := .load, op := .acc k, cs := s.c cs, csi := cs.toNat, cd := s.c cd, cdi := cd.toNat
      sa := r.sa, da := r.da, len := r.n
      rt := rt, round := round, seq := seq })

/-- `xacc.add.s32` (R248). -/
def execXaccAddS32 (cd : BitVec 4) (ob : BitVec 6) (cs : BitVec 4) (oa len : BitVec 6) (ch : BitVec 4) (s : State) : Out :=
  xaccWith .addS32 cd ob cs oa len ch 0 s
/-- `xacc.add.s64` (R248). -/
def execXaccAddS64 (cd : BitVec 4) (ob : BitVec 6) (cs : BitVec 4) (oa len : BitVec 6) (ch : BitVec 4) (s : State) : Out :=
  xaccWith .addS64 cd ob cs oa len ch 0 s
/-- `xacc.add.f32` (R248), with a round tag or none. -/
def execXaccAddF32 (cd : BitVec 4) (ob : BitVec 6) (cs : BitVec 4) (oa len : BitVec 6) (ch : BitVec 4) (rt : BitVec 12)
    (s : State) : Out := xaccWith .addF32 cd ob cs oa len ch rt.toNat s
/-- `xacc.min.s32` (R248). -/
def execXaccMinS32 (cd : BitVec 4) (ob : BitVec 6) (cs : BitVec 4) (oa len : BitVec 6) (ch : BitVec 4) (s : State) : Out :=
  xaccWith .minS32 cd ob cs oa len ch 0 s
/-- `xacc.max.s32` (R248). -/
def execXaccMaxS32 (cd : BitVec 4) (ob : BitVec 6) (cs : BitVec 4) (oa len : BitVec 6) (ch : BitVec 4) (s : State) : Out :=
  xaccWith .maxS32 cd ob cs oa len ch 0 s
/-- `xacc.min.f32` (R248). -/
def execXaccMinF32 (cd : BitVec 4) (ob : BitVec 6) (cs : BitVec 4) (oa len : BitVec 6) (ch : BitVec 4) (s : State) : Out :=
  xaccWith .minF32 cd ob cs oa len ch 0 s
/-- `xacc.max.f32` (R248). -/
def execXaccMaxF32 (cd : BitVec 4) (ob : BitVec 6) (cs : BitVec 4) (oa len : BitVec 6) (ch : BitVec 4) (s : State) : Out :=
  xaccWith .maxF32 cd ob cs oa len ch 0 s
/-- `xacc.and` (R248). -/
def execXaccAnd (cd : BitVec 4) (ob : BitVec 6) (cs : BitVec 4) (oa len : BitVec 6) (ch : BitVec 4) (s : State) : Out :=
  xaccWith .and cd ob cs oa len ch 0 s
/-- `xacc.or` (R248). -/
def execXaccOr (cd : BitVec 4) (ob : BitVec 6) (cs : BitVec 4) (oa len : BitVec 6) (ch : BitVec 4) (s : State) : Out :=
  xaccWith .or cd ob cs oa len ch 0 s
/-- `xacc.xor` (R248). -/
def execXaccXor (cd : BitVec 4) (ob : BitVec 6) (cs : BitVec 4) (oa len : BitVec 6) (ch : BitVec 4) (s : State) : Out :=
  xaccWith .xor cd ob cs oa len ch 0 s

/-- A value-returning atomic (R250-R252), checked in the order of R246; `task` is 0 but in `xcas.go` (R261). -/
def xatomWith (op : XOp) (size : Nat) (need : BitVec 12) (cd : BitVec 4) (ob v w : BitVec 6) (cl : BitVec 4)
    (ol : BitVec 6) (ch : BitVec 4) (tb : BitVec 12) (task rt : Nat) (s : State) : Out :=
  settle s (do
    let r ← s.xRegs cd ob cl ol 0 v w
    checkCap cd.toNat (s.c cd) (rmwSpaces rt) need r.da size
    checkCap cl.toNat (s.c cl) [1] pSt r.sa 16
    trapIf (decide (r.da % size ≠ 0)) 0x11 r.da.toNat (capDetail cd.toNat size (s.c cd))
    trapIf (decide (r.sa % 16 ≠ 0)) 0x11 r.sa.toNat (capDetail cl.toNat 16 (s.c cl))
    s.checkRound rt cd r.da size
    trapIf (op == .casGo && decide (s.task.ncont < task)) 0x50 0 (detField 32 2 task)
    let ((round, seq), t) := s.nextSeq rt
    t.enter ch {
      uid := 0, q := .load, op := op, cs := s.c cl, csi := cl.toNat, cd := s.c cd, cdi := cd.toNat
      sa := r.sa, da := r.da, len := size
      v := r.v, w := r.w, tb := tb.toNat, name := task, rt := rt, round := round, seq := seq })

/-- `xfadd.s32` (R250). -/
def execXfaddS32 (cd : BitVec 4) (ob v : BitVec 6) (cl : BitVec 4) (ol : BitVec 6) (ch : BitVec 4) (tb rt : BitVec 12)
    (s : State) : Out := xatomWith .fadd32 4 pAr cd ob v 0 cl ol ch tb 0 rt.toNat s
/-- `xfadd.s64` (R250). -/
def execXfaddS64 (cd : BitVec 4) (ob v : BitVec 6) (cl : BitVec 4) (ol : BitVec 6) (ch : BitVec 4) (tb rt : BitVec 12)
    (s : State) : Out := xatomWith .fadd64 8 pAr cd ob v 0 cl ol ch tb 0 rt.toNat s
/-- `xswp` (R250). -/
def execXswp (cd : BitVec 4) (ob v : BitVec 6) (cl : BitVec 4) (ol : BitVec 6) (ch : BitVec 4) (tb rt : BitVec 12)
    (s : State) : Out := xatomWith .swp 8 pAr cd ob v 0 cl ol ch tb 0 rt.toNat s
/-- `xcas` (R250). -/
def execXcas (cd : BitVec 4) (ob v w : BitVec 6) (cl : BitVec 4) (ol : BitVec 6) (ch : BitVec 4) (tb rt : BitVec 12)
    (s : State) : Out := xatomWith .cas 8 pAr cd ob v w cl ol ch tb 0 rt.toNat s
/-- `xcas.go` (R250, R261). -/
def execXcasGo (cd : BitVec 4) (ob v w : BitVec 6) (cl : BitVec 4) (ol : BitVec 6) (ch : BitVec 4)
    (tb task rt : BitVec 12) (s : State) : Out :=
  xatomWith .casGo 8 (pAr ||| pCl) cd ob v w cl ol ch tb task.toNat rt.toNat s

/-- `xclose`: closes the engine's round of the tag (R253, R255). -/
def execXclose (ch : BitVec 4) (rt : BitVec 12) (s : State) : Out :=
  settle s (do
    trapIf (s.task.tagged rt.toNat).isEmpty 0x37 0 (queueDetail 6 rt.toNat)
    let k := tabGet 0 s.me.closes rt.toNat + 1
    let t := s.onMe (fun e => { e with closes := tabPut k rt.toNat e.closes })
    t.enter ch { uid := 0, q := .load, op := .close, rt := rt.toNat, round := k })

/-! ### Status instructions -/

/-- `xwait.*` (R136): a future ID raises 0x37; blocks until the status covers the ID. -/
def xwaitWith (st : Core → BitVec 4 → BitVec 32) (v : BitVec 6) (ch : BitVec 4) (s : State) : Out :=
  settle s (do
    let x ← s.gUse v
    let id := x.setWidth 32
    trapIf (idAfter id (s.herePrior.last ch)) 0x37 0 (queueDetail 4 ch.toNat)
    blockUnless (idAfter (st s.herePrior ch) id)
    .ok s)

/-- `xwait.in` (R136). -/
def execXwaitIn (v : BitVec 6) (ch : BitVec 4) (s : State) : Out := xwaitWith Core.inDone v ch s
/-- `xwait.rel` (R136). -/
def execXwaitRel (v : BitVec 6) (ch : BitVec 4) (s : State) : Out := xwaitWith Core.outRel v ch s
/-- `xwait.vis` (R136). -/
def execXwaitVis (v : BitVec 6) (ch : BitVec 4) (s : State) : Out := xwaitWith Core.outVis v ch s

/-- BIND of a channel as `xid` and CQSTAT show it (R123). -/
def bindCode : Option QSel → Nat
  | none => 0
  | some .load => 1
  | some .store => 2

/-- `xid`: a channel value from the state before the group (R137). -/
def execXid (v : BitVec 6) (ch : BitVec 4) (aux : BitVec 3) (s : State) : Out :=
  let k := s.herePrior
  let x := match aux.toNat with
    | 0 => k.last ch
    | 1 => k.inDone ch
    | 2 => k.outRel ch
    | 3 => k.outVis ch
    | _ => BitVec.ofNat 32 (bindCode (k.bind.get ch.toFin))
  .next (s.setG v ⟨x.setWidth 64, false⟩)

/-- `xorder`: a marker in the engine's queue (R138). -/
def execXorder (s : State) : Out :=
  settle s (do
    s.checkRoom
    .ok (s.onHere (fun k => { k with
      cmds := k.cmds ++ [{ uid := k.uid, q := queueOfEng s.ix.eng, op := .order, task := k.task.getD {} }]
      uid := k.uid + 1 })))

end Sys2Proof.Machine
end

