-- ==== Sys2Proof/Machine/Tile.lean ====
section
/-! DEFINITION. The values of tiles: operand layout, alignment, exact dot products and final rules (R205-R215). -/

namespace Sys2Proof.Machine

/-- The element width of a profile in bits (R206, R211). -/
def profBits (prof : Nat) : Nat := if prof = 6 then 16 else if prof = 3 ∨ prof = 7 then 4 else 8

/-- The aligned width W of a profile (R211). -/
def profW (prof : Nat) : Nat := if prof = 1 ∨ prof = 7 then 4 else if prof = 6 then 12 else 8

/-- The digit passes P of a profile (R211). -/
def profPasses (prof : Nat) : Nat := if prof = 2 ∨ prof = 4 ∨ prof = 5 then 4 else if prof = 6 then 9 else 1

/-- The cell steps a profile allows: MA 0, AD 1, MN 2, MX 3 (R211). -/
def profSteps (prof : Nat) : List Nat := if prof = 7 then [0, 2, 3] else if prof = 8 then [1, 2, 3] else [0]

/-- A profile with INT32 slots (R211). -/
def profInt (prof : Nat) : Bool := prof == 4 || prof == 5 || prof == 7 || prof == 8

/-- The bytes of 64 elements, 64 e (R206). -/
def lineBytes (prof : Nat) : Nat := 8 * profBits prof

/-- The A extent in bytes (R206). -/
def extentA (prof rows : Nat) (scaled : Bool) : Nat := lineBytes prof * rows + (if scaled then 2 * rows else 0)

/-- The B extent in bytes (R206). -/
def extentB (prof : Nat) (scaled : Bool) : Nat := lineBytes prof * 64 + (if scaled then 128 else 0)

/-- Element k of a line, as its code (R206, R39). -/
def lineElem (prof : Nat) (line : List Byte) (k : Nat) : Nat :=
  let w := profBits prof
  if w = 4 then (line.getD (k / 2) 0).toNat / 16 ^ (k % 2) % 16
  else leNat ((line.drop (k * (w / 8))).take (w / 8))

/-- Line r of an operand. -/
def lineOf (prof : Nat) (data : List Byte) (r : Nat) : List Byte := (data.drop (lineBytes prof * r)).take (lineBytes prof)

/-- Scale byte j of line r of an operand of `n` lines (R206). -/
def scaleOf (prof n : Nat) (data : List Byte) (r j : Nat) : Nat := (data.getD (lineBytes prof * n + 2 * r + j) 0).toNat

/-- The value of an element code, for the float profiles (R211, R212); `fmt` 2 is E5M2. -/
def elemVal (prof fmt code : Nat) : FVal :=
  if prof = 3 then e2m1Val (BitVec.ofNat 4 code)
  else if prof = 6 then bf16Val (BitVec.ofNat 16 code)
  else if fmt = 2 then e5m2Val (BitVec.ofNat 8 code)
  else e4m3Val (BitVec.ofNat 8 code)

/-- The integer of an element code, for the integer profiles. -/
def elemInt (prof code : Nat) : Int := if prof = 7 then (BitVec.ofNat 4 code).toInt else (BitVec.ofNat 8 code).toInt

/-- Fraction bits of a profile's operand format. -/
def fracBits (prof fmt : Nat) : Nat := if prof = 3 then 1 else if prof = 6 then 7 else if fmt = 2 then 2 else 3

/-- The exponent e of a finite non-zero element (R208); `none` of every other. -/
def elemExp (fb : Nat) : FVal → Option Int
  | .fin _ m e => if m = 0 then none else some (e + fb)
  | _ => none

/-- The shared exponent E of a segment: the largest e, or 0 without one (R208). -/
def segExp (fb : Nat) (xs : List FVal) : Int :=
  ((xs.filterMap (elemExp fb)).foldl (fun m e => match m with
    | none => some e
    | some m => some (max m e)) (none : Option Int)).getD 0

/-- σ M of an element at a segment's exponent (R208). -/
def alignedInt (w : Nat) (e0 : Int) : FVal → Int
  | .fin s m e => (if s then -1 else 1) * ((rneInt m 1 (e + w - 1 - e0) : Nat) : Int)
  | _ => 0

/-- An element is NaN or infinite. -/
def FVal.special : FVal → Bool
  | .fin _ _ _ => false
  | _ => true

/-- The segment's exact term of R209: an integer and its power of two. The taps of P3 are four times the values: a code
with e and m is worth (2 + m) × 2^(e − 2). -/
def segTerm (prof fa fb : Nat) (as_ bs : List FVal) : Int × Int :=
  if prof = 3 then
    ((as_.zip bs).foldl (fun t p => t + alignedInt 4 1 p.1 * alignedInt 4 1 p.2) 0, -4)
  else
    let w := profW prof
    let ea := segExp fa as_
    let eb := segExp fb bs
    ((as_.zip bs).foldl (fun t p => t + alignedInt w ea p.1 * alignedInt w eb p.2) 0, ea + eb - 2 * w + 2)

/-- The exact sum of integers times powers of two. -/
def exactSum (xs : List (Int × Int)) : FVal :=
  let e0 := xs.foldl (fun m x => min m x.2) 0
  let v := xs.foldl (fun t x => t + x.1 * ((pow2 (x.2 - e0) : Nat) : Int)) 0
  .fin (decide (v < 0)) v.natAbs e0

/-- A multiply-add word of a float profile (R210). -/
def maWordF (prof fmtA fmtB k : Nat) (scaled : Bool) (a b : List Byte) (sa sb : Nat → Nat) (w : Lane) : Lane :=
  let av := (List.range k).map (fun i => elemVal prof fmtA (lineElem prof a i))
  let bv := (List.range k).map (fun i => elemVal prof fmtB (lineElem prof b i))
  let blocks := List.range ((k + 31) / 32)
  let bad := av.any FVal.special || bv.any FVal.special
    || (scaled && blocks.any (fun j => sa j == 255 || sb j == 255))
  match f32Val w with
  | .nan => 0x7FC00000#32
  | .inf s => if bad then 0x7FC00000#32 else f32Of (.inf s)
  | .fin sw mw ew =>
    if bad then 0x7FC00000#32
    else
      let terms := (List.range ((k + 15) / 16)).map (fun g =>
        let t := segTerm prof (fracBits prof fmtA) (fracBits prof fmtB) ((av.drop (16 * g)).take 16) ((bv.drop (16 * g)).take 16)
        let j := g / 2
        (t.1, if scaled then t.2 + sa j + sb j - 254 else t.2))
      f32Of (exactSum (((if sw then -1 else 1) * (mw : Int), ew) :: terms))

/-- A word of an integer profile (R210, R213): the step's rule on the old word. -/
def intWord (prof step k : Nat) (a b : List Byte) (w : Lane) : Lane :=
  let ps := (List.range k).map (fun i => (elemInt prof (lineElem prof a i), elemInt prof (lineElem prof b i)))
  match step with
  | 0 =>
    let t := ps.foldl (fun t p => t + p.1 * p.2) 0
    if prof = 5 then BitVec.ofInt 32 (max (-2 ^ 31) (min (2 ^ 31 - 1) (w.toInt + t))) else BitVec.ofInt 32 (w.toInt + t)
  | 1 => BitVec.ofInt 32 (w.toInt + ps.foldl (fun t p => t + ((p.1 - p.2).natAbs : Int)) 0)
  | 2 => BitVec.ofInt 32 (ps.foldl (fun t p => min t (p.1 + p.2)) w.toInt)
  | _ => BitVec.ofInt 32 (ps.foldl (fun t p => max t (p.1 + p.2)) w.toInt)

/-- The step of a tile row (R213). -/
def copsStep (cops : BitVec 32) (r : Nat) : Nat := cops.toNat / 4 ^ (r % 16) % 4

end Sys2Proof.Machine
end

