-- ==== Sys2Proof/Machine/Array.lean ====
section
/-! DEFINITION. Leases, the format table, the tile commands, the accumulator slots and `tcal` as they issue and commit
(R215-R230); what a tile computes is in Tile.lean and happens when it lands. -/

namespace Sys2Proof.Machine

/-- The array of the issuing core's insula. -/
def State.arrHere (s : State) : Arr := s.toHw.arr s.ix.co.isle (CoreId.ins s.ix.co)

/-- The same array changed by a function. -/
def State.onArrHere (s : State) (f : Arr → Arr) : State :=
  s.upd (fun h => h.onArr s.ix.co.isle (CoreId.ins s.ix.co) f)

/-- The detail of a tile-shape trap (R363). -/
def State.shapeDetail (s : State) (prof k rows ft : Nat) : BitVec 256 :=
  detField 32 1 prof ||| detField 33 1 k ||| detField 34 1 rows ||| detField 36 4 ft
    ||| detField 40 8 s.arrHere.shape.toNat

/-- CAL = 4 refuses the array instructions (R215, R242); the record gives what `detail` says of the tile. -/
def State.checkCalAs (s : State) (detail : BitVec 256) : Chk Unit := trapIf (s.arrHere.calNow == 4) 0x36 0 detail

/-- CAL = 4 refuses an instruction that names no tile. -/
def State.checkCal (s : State) : Chk Unit := s.checkCalAs (s.shapeDetail 0 0 0 0)

/-- The detail of a lease-state trap: %lease (R363). -/
def State.leaseDetail (s : State) : BitVec 256 := detField 32 8 s.herePrior.lease.toNat

/-! ### Leases -/

/-- A run of the core at a position ends (R218): the lease is given back and the array discards its loaded B. -/
def Hw.endRun (h : Hw) (co : CoreId) : Hw :=
  (h.onCore co (fun k => { k with leaseHeld := false, leaseLeft := 0 })).onArr co.isle (CoreId.ins co)
    (fun a => { a with leased := false, loaded := none })

/-- An array grants its lease to a position (R220). -/
def Arr.grant (a : Arr) (pos : Nat) : Arr :=
  { a with
    leased := true
    holder := BitVec.ofNat 2 pos
    waiting := a.waiting.filter (fun w => w.1 != pos) }

/-- The position may take the lease: it is granted to it, or the array is free and no core waits (R220). -/
def Arr.openTo (a : Arr) (pos : Nat) : Bool :=
  if a.leased then a.holder.toNat == pos else a.waiting.isEmpty

/-- `lease`: blocks until granted, then HELD := 1, LEFT := n (R218, R219); HELD is read before the group (R65). -/
def execLease (n : BitVec 7) (s : State) : Out :=
  let pos := CoreId.pos s.ix.co
  let prior := s.prior.arr s.ix.co.isle (CoreId.ins s.ix.co)
  settle s (do
    s.checkCal
    trapIf s.herePrior.leaseHeld 0x35 0 s.leaseDetail
    blockUnless (prior.openTo pos)
    .ok ((s.onArrHere (fun a => a.grant pos)).onHere (fun k => { k with
      leaseHeld := true, leaseLeft := n, leaseRuns := k.leaseRuns + 1 })))

/-- `unlease`: ends the run (R218); HELD is read before the group (R65). -/
def execUnlease (s : State) : Out :=
  settle s (do
    trapIf (!s.herePrior.leaseHeld) 0x35 0 s.leaseDetail
    .ok (s.upd (fun h => h.endRun s.ix.co)))

/-- A tile command needs the lease, with room for the group's tile commands, as it stood before the group (R218). -/
def State.checkLease (s : State) : Chk Unit :=
  trapIf (!s.herePrior.leaseHeld || decide (s.herePrior.leaseLeft.toNat < s.ix.tiles)) 0x35 0 s.leaseDetail

/-- A committed tile command reduces LEFT by one; the run ends at zero (R218). -/
def State.spendLease (s : State) : State :=
  let t := s.onHere (fun k => { k with leaseLeft := k.leaseLeft - 1 })
  if t.here.leaseLeft = 0 then t.upd (fun h => h.endRun s.ix.co) else t

/-! ### The format table and resolution -/

/-- A resolved profile: profile, formats, scaling, and the format-table entry that named it (R212, R221). -/
structure TileFmt where
  prof : Nat
  afmt : Nat := 0
  bfmt : Nat := 0
  scale : Nat := 0
  entry : Nat := 0
  deriving DecidableEq, Repr

/-- Tiles of the profile are scaled (R212). -/
def TileFmt.scaled (f : TileFmt) : Bool := f.prof == 3 || (f.prof ≤ 2 && f.scale == 1)

/-- A format-table entry's fields (R221). -/
def TileFmt.ofEntry (x : Lane) : TileFmt :=
  { prof := x.toNat % 256
    afmt := x.toNat / 2 ^ 8 % 16
    bfmt := x.toNat / 2 ^ 12 % 16
    scale := x.toNat / 2 ^ 16 % 4
    entry := x.toNat }

/-- The entry keeps to the table of R221. -/
def TileFmt.ok (f : TileFmt) : Bool :=
  let fmtOk := fun (v : Nat) => v == 0 || (decide (v ≤ 2) && decide (f.prof ≤ 2))
  f.entry / 2 ^ 18 == 0 && decide (1 ≤ f.prof) && decide (f.prof ≤ 8) && fmtOk f.afmt && fmtOk f.bfmt
    && (f.scale == 0 || (f.scale == 1 && decide (f.prof ≤ 3)))

/-- The format-table entry that PROF = 0xFF reads, in the state before the group (R221). -/
def Core.ftEntry (k : Core) : Lane :=
  let lc := k.cE.lc.get k.cu.ftidx.toFin
  k.cu.ft.get (BitVec.ofNat 4 lc.toNat).toFin

/-- The tile that a word names, for the record of CAL = 4 (R363): profile, K, rows and the format-table entry read. -/
def State.tileDetail (s : State) (p : BitVec 8) (k rows : Nat) : BitVec 256 :=
  let f : TileFmt := if p = 0xFF then TileFmt.ofEntry s.herePrior.ftEntry else { prof := p.toNat }
  s.shapeDetail f.prof k rows f.entry

/-- Resolution of an encoded profile (R221): 0x36 when the entry breaks its table. -/
def State.resolve (s : State) (p : BitVec 8) (k rows : Nat) : Chk TileFmt :=
  if p = 0xFF then do
    let f := TileFmt.ofEntry s.herePrior.ftEntry
    trapIf (!f.ok) 0x36 0 (s.shapeDetail f.prof k rows f.entry)
    .ok f
  else .ok { prof := p.toNat }

/-- `ftset` (R222). -/
def execFtset (d : BitVec 4) (a : BitVec 6) (s : State) : Out :=
  settle s (do
    let x ← s.gUse a
    .ok (s.onCu (fun u => { u with ft := u.ft.set d.toNat (x.setWidth 32) d.isLt })))

/-- `ftget` (R222). -/
def execFtget (d : BitVec 6) (a : BitVec 4) (s : State) : Out :=
  .next (s.setG d ⟨(s.here.cu.ft.get a.toFin).setWidth 64, false⟩)

/-! ### Tile commands -/

/-- The bank groups (offset bits [18:16]) that an extent touches (R207). -/
def bankGroups (a n : Nat) : Nat :=
  packBits (fun g => decide (n ≠ 0) && decide (a < (g + 1) * 65536) && decide (g * 65536 < a + n)) 8 0

/-- Pending tiles and races of a core (R216, R242). -/
def Core.pendingArr (k : Core) : Nat :=
  (k.slots.filter (fun e => e.2.kind == .tile || e.2.kind == .race)).length

/-- A core has at most 8 tiles and races pending, a block (R216). -/
def State.checkPending (s : State) : Chk Unit := blockUnless (decide (s.here.pendingArr < 8))

/-- The accumulator slots that `rows` tile rows from slot `slot` on take (R205). -/
def slotsOf (slot rows : Nat) : List Nat := (List.range ((rows + 7) / 8)).map (· + slot)

/-- A pending tile writes one of these slots. -/
def Core.tileOn (k : Core) (ss : List Nat) : List LSlot :=
  (k.slots.map Prod.snd).filter (fun x => match x.tile with
    | some t => (slotsOf t.slot t.rows).any (fun i => ss.contains i)
    | none => false)

/-- The A and B operands of a tile command, checked (R223 steps 2 to 8). -/
structure TileOps where
  fmt : TileFmt
  k : Nat
  a : Nat
  b : Nat
  rawB : Nat

/-- A local operand's extent through c8, as a load (R83, R223 step 6). -/
def State.tileLocal (s : State) (ea : Int) (n : Nat) : Chk Nat := checkOwn 8 (s.c 8) [1] pLd ea n

/-- An operand's alignment to 64 (R206). -/
def State.tileAlign (s : State) (reg a n : Nat) : Chk Unit :=
  trapIf (a % 64 != 0) 0x11 a (capDetail reg n (s.c (BitVec.ofNat 4 reg)))

/-- A register's value as a local offset, mod 2^64. -/
def offsetOf (x : Word) : Nat := x.toNat

/-- The first marked granule of a local extent, as an offset (R302). -/
def Hw.markOff (h : Hw) (co : CoreId) (off n : Nat) : Option Nat :=
  (h.markedIn (localKey co off) n).map (· - localKey co 0)

/-- The record for a marked operand, raised by the array after commit (R302, R362); no row of A has been reached, so byte 57 is 0
(R363). -/
def State.markRecord (s : State) (off : Nat) : TrapRec :=
  { s.record { code := 0x31, addr := BitVec.ofNat 64 off, detail := poisonDetail 3 0 } with
    unit := 5, after := true, rep := false, done := 0 }

/-- `tload`: sets the B operand of the run (R224). -/
def execTload (ab : BitVec 6) (prof rows : BitVec 8) (s : State) : Out :=
  settle s (do
    let gb ← s.gUse ab
    s.checkCalAs (s.tileDetail prof rows.toNat rows.toNat)
    s.checkLease
    let f ← s.resolve prof rows.toNat rows.toNat
    trapIf (decide (64 < rows.toNat)) 0x36 0 (s.shapeDetail f.prof rows.toNat rows.toNat f.entry)
    let n := extentB f.prof f.scaled
    let b ← s.tileLocal (s.c8Addr gb) n
    s.tileAlign 8 b n
    let loaded : LoadedB := {
      off := offsetOf gb, pos := CoreId.pos s.ix.co, k := rows.toNat, prof := f.prof, bfmt := f.bfmt, scale := f.scale }
    let t := (s.onArrHere (fun a => { a with loaded := some loaded })).spendLease
    .ok (match s.toHw.markOff s.ix.co b n with
      | some m => { t with ix := { t.ix with after := t.ix.after ++ [s.markRecord m] } }
      | none => t))

/-- The checks of `tmma` and `tmma.ga` in the order of R223, and the operands: within a step B comes before A (log entry 108). AA
and AB are the effective addresses that must be multiples of 64 (R206, log entry 100). -/
def State.tileCheck (s : State) (ga : Bool) (slot : BitVec 4) (aa ab : BitVec 6) (prof rows : BitVec 8)
    (cops : BitVec 32) : Chk TileOps := do
  let gb ← s.gUse ab
  let gx ← s.gUse aa
  let loaded := (s.prior.arr s.ix.co.isle (CoreId.ins s.ix.co)).loaded
  let k := match loaded with
    | some l => l.k
    | none => 0
  let m := rows.toNat
  s.checkCalAs (s.tileDetail prof k m)
  s.checkLease
  let f ← s.resolve prof k m
  let shapeOk := decide (slot.toNat + (m + 7) / 8 ≤ 16)
  let stepsOk := (List.range 16).all (fun i => (profSteps f.prof).contains (copsStep cops i))
  let bOk := match loaded with
    | some l => l.off == offsetOf gb && l.prof == f.prof && l.bfmt == f.bfmt && l.scale == f.scale
    | none => false
  trapIf (!(shapeOk && stepsOk && bOk)) 0x36 0 (s.shapeDetail f.prof k m f.entry)
  let nb := extentB f.prof f.scaled
  let na := extentA f.prof m f.scaled
  let b ← s.tileLocal (s.c8Addr gb) nb
  let a ← if ga then do
      let ea : Int := ((s.c 10).cursor : Int) + gx.toInt
      checkCap 10 (s.c 10) [3] pLd ea na
      .ok ea.toNat
    else s.tileLocal (s.c8Addr gx) na
  s.tileAlign 8 b nb
  s.tileAlign (if ga then 10 else 8) a na
  let ma := bankGroups a na
  let mb := bankGroups b nb
  trapIf (!ga && BitVec.ofNat 8 ma &&& BitVec.ofNat 8 mb != 0) 0x30 0
    (detField 32 8 gx.toNat ||| detField 40 8 gb.toNat ||| detField 48 1 ma ||| detField 49 1 mb)
  .ok { fmt := f, k := k, a := a, b := b, rawB := offsetOf gb }

/-- A tile enters the array at its group's commit, with a landing slot (R216, R225); it is due no earlier than an
earlier tile of a common slot. -/
def tileWith (ga : Bool) (slot : BitVec 4) (aa ab : BitVec 6) (prof rows land : BitVec 8) (cops : BitVec 32)
    (s : State) : Out :=
  settle s (do
    let o ← s.tileCheck ga slot aa ab prof rows cops
    s.checkPending
    let job : TileJob := {
      slot := slot.toNat
      rows := rows.toNat
      k := o.k
      prof := o.fmt.prof
      afmt := o.fmt.afmt
      bfmt := o.fmt.bfmt
      scaled := o.fmt.scaled
      aOff := o.a
      bOff := o.b
      cops := cops
      globalA := if ga then some o.a else none }
    let x := s.newSlot .tile slot.toNat land.toNat
    let due := (s.here.tileOn (slotsOf slot.toNat rows.toNat)).foldl (fun d y => max d y.due) x.due
    let t ← s.takeSlot { x with due := due, tile := some job }
    .ok t.spendLease)

/-- `tmma` (R225). -/
def execTmma (slot : BitVec 4) (aa ab : BitVec 6) (prof rows land : BitVec 8) (cops : BitVec 32) (s : State) : Out :=
  tileWith false slot aa ab prof rows land cops s

/-- `tmma.ga`: A from global memory through c10 (R226). -/
def execTmmaGa (slot : BitVec 4) (aa ab : BitVec 6) (prof rows land : BitVec 8) (cops : BitVec 32) (s : State) : Out :=
  tileWith true slot aa ab prof rows land cops s

/-! ### Accumulator slots -/

/-- A slot instruction blocks while a pending tile of the core writes a slot it names (R217). -/
def State.slotsFree (s : State) (ss : List Nat) : Chk Unit := blockUnless (s.herePrior.tileOn ss).isEmpty

/-- `tzero`: the words of tile rows 0 to m - 1 become 0 (R227). -/
def execTzero (slot : BitVec 4) (rows : BitVec 8) (s : State) : Out :=
  let m := rows.toNat
  settle s (do
    trapIf (decide (16 < slot.toNat + (m + 7) / 8)) 0x36 0 (s.shapeDetail 0 0 m 0)
    s.slotsFree (slotsOf slot.toNat m)
    .ok (s.upd (fun h => (List.range m).foldl
      (fun h r => h.putNum (slotKey s.ix.co (slot.toNat + r / 8) (r % 8) 0) 256 0) h)))

/-- The place of lane L of the half row that IMM8 = c names (R227). -/
def accLane (co : CoreId) (c : BitVec 8) (l : Nat) : Nat :=
  slotKey co (c.toNat / 16) (c.toNat % 16 / 2) (32 * (c.toNat % 2) + l)

/-- `tacc.rd`: half a slot row into vD, merge; FN = 1 clears the words read (R227). -/
def execTaccRd (vd : BitVec 6) (c : BitVec 8) (clr : BitVec 1) (mk : BitVec 3) (s : State) : Out :=
  let m := s.m mk
  settle s (do
    s.slotsFree [c.toNat / 16]
    let t := vmerge vd mk 0 (fun l => BitVec.ofNat 32 (s.toHw.num (accLane s.ix.co c l) 4)) (fun _ => false) s
    .ok (if clr = 1 then
        t.upd (fun h => (activeLanes m).foldl (fun h l => h.putNum (accLane s.ix.co c l) 4 0) h)
      else t))

/-- `tacc.wr`: the active lanes of vA into half a slot row; a poisoned active lane raises 0x31 (R227). -/
def execTaccWr (va : BitVec 6) (c : BitVec 8) (mk : BitVec 3) (s : State) : Out :=
  let m := s.m mk
  let x := s.v va
  settle s (do
    trapIf (x.psn &&& m != 0) 0x31 0 (poisonDetail 2 va.toNat (x.psn &&& m).toNat)
    s.slotsFree [c.toNat / 16]
    .ok (s.upd (fun h => (activeLanes m).foldl
      (fun h l => h.putNum (accLane s.ix.co c l) 4 (x.lane l).toNat) h)))

/-! ### Reporting and calibration -/

/-- The hardware passes of a tile: ceil(ceil(K / 16) / c) (R215). -/
def hwPasses (k c : Nat) : Nat := ((k + 15) / 16 + c - 1) / c

/-- The value that `tshape` reports (R228). -/
def shapeWord (cal : BitVec 3) (segs prof k m : Nat) : Word :=
  let p := profPasses prof
  let h := hwPasses k segs
  let work := (if cal = 0 then 64 else 1) * (p * h * m)
  BitVec.ofNat 64 ((23 + work) % 2 ^ 32 + h % 256 * 2 ^ 32 + p % 256 * 2 ^ 40)

/-- `tshape` (R228): values out of range raise 0x36, unless gA is poisoned; then gD is poisoned, and a value that the
manual does not state is free. -/
def execTshape (d a : BitVec 6) (prof : BitVec 8) (s : State) : Out :=
  let x := s.g a
  let k := x.bits.toNat % 256
  let m := x.bits.toNat / 256 % 256
  let ok := decide (1 ≤ k) && decide (k ≤ 64) && decide (1 ≤ m) && decide (m ≤ 128)
  settle s (do
    s.checkCalAs (s.tileDetail prof k m)
    let f ← s.resolve prof k m
    trapIf (!ok && !x.psn) 0x36 0 (s.shapeDetail f.prof k m f.entry)
    .ok (if ok then s.setG d ⟨shapeWord s.arrHere.calNow s.arrHere.nsegs f.prof k m, x.psn⟩
      else { s.setG d ⟨Config.freeWord s.choice, true⟩ with choice := s.choice + 1 }))

/-- Some core of the insula has a tile or race pending (R229). -/
def Hw.arrBusy (h : Hw) (isle ins : Nat) : Bool :=
  (List.range 4).any (fun p => decide (0 < (h.core ⟨isle, 4 * ins + p⟩).pendingArr))

/-- `tcal`: begins the calibration of the insula's array (R229); the engine waits until it ends. Only a calibration task
whose code carries sy runs it (R68, R231). -/
def execTcal (d : BitVec 6) (segs : BitVec 4) (s : State) : Out :=
  let co := s.ix.co
  settle s (do
    trapIf (!(s.task.calib && s.me.pcc.has pSy)) 0x12 0 (capDetail 255 0 s.me.pcc)
    s.checkCal
    trapIf (s.arrHere.leased || s.toHw.arrBusy co.isle (CoreId.ins co)) 0x35 0 s.leaseDetail
    .ok (s.onArrHere (fun a => { a with
      cal := 2
      loaded := none
      calib := some (CoreId.pos co, if segs = 0 then a.segs.toNat else (segs &&& a.segs).toNat, d) })))

end Sys2Proof.Machine
end

