-- ==== Sys2Proof/Machine/Race.lean ====
section
/-! DEFINITION. Races: the key positions, the race order, the result block (R232-R241), and the instructions 0x190 to
0x19C (R238-R243). -/

namespace Sys2Proof.Machine

/-- An active key position: its number, key bits, index, and order key, `none` when NaN makes it invalid (R232-R235). -/
structure RacePos where
  j : Nat
  key : Lane
  idx : Lane
  ok : Option Lane
  empty : Bool := false
  deriving DecidableEq, Repr

/-- A race's kind of keys (R238). -/
inductive RaceKeys where
  | f32 | s32 | merge | knn
  deriving DecidableEq, Repr

/-- The order of R235: a ranks before b. -/
def raceBefore (desc : Bool) (a b : RacePos × Lane) : Bool :=
  if a.2 = b.2 then
    if a.1.idx = b.1.idx then decide (a.1.j < b.1.j) else a.1.idx.ult b.1.idx
  else if desc then b.2.ult a.2 else a.2.ult b.2

/-- A list kept in order as an element enters. -/
def insertBy {α : Type} (lt : α → α → Bool) (x : α) : List α → List α
  | [] => [x]
  | y :: t => if lt x y then x :: y :: t else y :: insertBy lt x t

/-- A list in the order of a strict comparison. -/
def sortBy {α : Type} (lt : α → α → Bool) (l : List α) : List α := l.foldl (fun t x => insertBy lt x t) []

/-- The ranked list without positions whose index repeats an earlier rank's (R235). -/
def dropDups : List Lane → List (RacePos × Lane) → List (RacePos × Lane)
  | _, [] => []
  | seen, p :: t => if seen.contains p.1.idx then dropDups seen t else p :: dropDups (p.1.idx :: seen) t

/-- The sum of R237 over a set of positions, in ascending index, then position. -/
def raceSum (int : Bool) (l : List RacePos) : Lane :=
  let l := sortBy (fun a b : RacePos => if a.idx = b.idx then decide (a.j < b.j) else a.idx.ult b.idx) l
  l.foldl (fun t p => if int then t + p.key else f32Add t p.key) (if int then 0 else 0x80000000#32)

/-- Two elements of a list stand in a relation. -/
def anyPair {α : Type} (r : α → α → Bool) : List α → Bool
  | [] => false
  | x :: t => t.any (r x) || anyPair r t

/-- The windows a race used, over the valid positions before duplicates go (R51, R236). -/
def raceWin (ks : List Lane) : Nat :=
  if anyPair (fun a b : Lane => a.toNat / 2 ^ 8 == b.toNat / 2 ^ 8) ks then 3
  else if anyPair (fun a b : Lane => a.toNat / 2 ^ 20 == b.toNat / 2 ^ 20) ks then 2 else 1

/-- The result of a race: selected and left-out positions and the counts (R235, R236). -/
structure RaceResult where
  sel : List (RacePos × Lane)
  rest : List (RacePos × Lane)
  nans : Nat
  dups : Nat
  nvalid : Nat
  ties : Nat
  win : Nat

/-- The walk of R235 over the active positions. -/
def raceRun (desc : Bool) (n : Nat) (ps : List RacePos) : RaceResult :=
  let live := ps.filter (fun p => !p.empty)
  let valid := live.filterMap (fun p => p.ok.map (fun k => (p, k)))
  let ranked := sortBy (raceBefore desc) valid
  let dist := dropDups [] ranked
  let sel := dist.take n
  let rest := dist.drop n
  { sel := sel
    rest := rest
    nans := (live.filter (fun p => p.ok.isNone)).length
    dups := ranked.length - dist.length
    nvalid := dist.length
    ties := (match sel.getLast? with
      | some l => (rest.filter (fun p => p.2 == l.2)).length
      | none => 0)
    win := raceWin (valid.map Prod.snd) }

/-- The five registers of the result block (R236), all poisoned or none (R241). -/
def raceBlock (int psn : Bool) (r : RaceResult) : List VReg :=
  let p : BitVec 32 := if psn then 0xFFFFFFFF#32 else 0
  let key := fun i => match r.sel[i]? with
    | some x => x.1.key
    | none => if int then 0 else 0x7FC00000#32
  let idx := fun i => match r.sel[i]? with
    | some x => x.1.idx
    | none => 0xFFFFFFFF#32
  let sum := [raceSum int (r.sel.map Prod.fst), raceSum int (r.rest.map Prod.fst), BitVec.ofNat 32 r.nans,
    BitVec.ofNat 32 r.dups, BitVec.ofNat 32 r.sel.length, BitVec.ofNat 32 r.nvalid, BitVec.ofNat 32 r.ties,
    BitVec.ofNat 32 r.win]
  [{ bits := lanesOf key, psn := p }, { bits := lanesOf (fun l => key (32 + l)), psn := p },
    { bits := lanesOf idx, psn := p }, { bits := lanesOf (fun l => idx (32 + l)), psn := p },
    { bits := lanesOf (fun l => sum.getD l 0), psn := p }]

/-- The distance of R240 and its order key. -/
def knnKey (q x : Lane) : Option Lane :=
  match (f32Val x).add (f32Val q).neg with
  | .nan => none
  | .inf _ => raceKeyF32 (f32Of (.inf false))
  | .fin _ m e => raceKeyF32 (f32Of (.fin false m e))

/-- Half of the key positions: lanes 0 to 31 of a register, its indices, and the first number. -/
def racePositions (ks : RaceKeys) (m : Lane) (key : VReg) (idx : Nat → Lane) (q : Lane) (j0 : Nat) : List RacePos :=
  (activeLanes m).map (fun l =>
    let x := key.lane l
    { j := j0 + l, key := x, idx := idx l
      ok := (match ks with
        | .s32 => raceKeyS32 x
        | .knn => knnKey q x
        | _ => raceKeyF32 x)
      empty := ks == .merge && idx l == 0xFFFFFFFF#32 })

/-- A race (R232-R243): its block is formed from the sources at commit and lands at LAND. -/
def raceWith (ks : RaceKeys) (desc : Bool) (vd va vb vc : BitVec 6) (mk : BitVec 3) (n : Nat) (land : BitVec 8)
    (s : State) : Out :=
  let m := s.m mk
  let a := s.v va
  let b := s.v vb
  let c := s.v vc
  let c1 := s.v (vc + 1)
  let two := va != vb
  let q := c.lane 1
  let base := c.lane 0
  let gen := fun (j0 l : Nat) => base + BitVec.ofNat 32 (j0 + l)
  let lo := racePositions ks m a (if ks = .merge then c.lane else gen 0) q 0
  let hi := if two then racePositions ks m b (if ks = .merge then c1.lane else gen 32) q 32 else []
  let keyPsn := a.psn &&& m != 0 || (two && b.psn &&& m != 0)
  let idxPsn := match ks with
    | .merge => c.psn &&& m != 0 || (two && c1.psn &&& m != 0)
    | .knn => c.psn.getLsbD 0 || c.psn.getLsbD 1
    | _ => c.psn.getLsbD 0
  let r := raceRun desc n (lo ++ hi)
  settle s (do
    s.checkCal
    s.checkPending
    s.takeSlot { s.newSlot .race vd.toNat land.toNat with
      regs := raceBlock (ks == .s32) (keyPsn || idxPsn) r })

/-- `rmin.f32` (R238). -/
def execRminF32 (vd va vb vc : BitVec 6) (mk : BitVec 3) (k : BitVec 7) (land : BitVec 8) (s : State) : Out :=
  raceWith .f32 false vd va vb vc mk k.toNat land s

/-- `rmax.f32` (R238). -/
def execRmaxF32 (vd va vb vc : BitVec 6) (mk : BitVec 3) (k : BitVec 7) (land : BitVec 8) (s : State) : Out :=
  raceWith .f32 true vd va vb vc mk k.toNat land s

/-- `rmin.s32` (R238). -/
def execRminS32 (vd va vb vc : BitVec 6) (mk : BitVec 3) (k : BitVec 7) (land : BitVec 8) (s : State) : Out :=
  raceWith .s32 false vd va vb vc mk k.toNat land s

/-- `rmax.s32` (R238). -/
def execRmaxS32 (vd va vb vc : BitVec 6) (mk : BitVec 3) (k : BitVec 7) (land : BitVec 8) (s : State) : Out :=
  raceWith .s32 true vd va vb vc mk k.toNat land s

/-- `rsort.f32` (R238). -/
def execRsortF32 (vd va vb vc : BitVec 6) (mk : BitVec 3) (k : BitVec 7) (land : BitVec 8) (s : State) : Out :=
  raceWith .f32 false vd va vb vc mk k.toNat land s

/-- `rsortd.f32` (R238). -/
def execRsortdF32 (vd va vb vc : BitVec 6) (mk : BitVec 3) (k : BitVec 7) (land : BitVec 8) (s : State) : Out :=
  raceWith .f32 true vd va vb vc mk k.toNat land s

/-- `rsort.s32` (R238). -/
def execRsortS32 (vd va vb vc : BitVec 6) (mk : BitVec 3) (k : BitVec 7) (land : BitVec 8) (s : State) : Out :=
  raceWith .s32 false vd va vb vc mk k.toNat land s

/-- `rtopk.f32` (R238). -/
def execRtopkF32 (vd va vb vc : BitVec 6) (mk : BitVec 3) (k : BitVec 7) (land : BitVec 8) (s : State) : Out :=
  raceWith .f32 true vd va vb vc mk k.toNat land s

/-- `rbotk.f32` (R238). -/
def execRbotkF32 (vd va vb vc : BitVec 6) (mk : BitVec 3) (k : BitVec 7) (land : BitVec 8) (s : State) : Out :=
  raceWith .f32 false vd va vb vc mk k.toNat land s

/-- `rtopk.s32` (R238). -/
def execRtopkS32 (vd va vb vc : BitVec 6) (mk : BitVec 3) (k : BitVec 7) (land : BitVec 8) (s : State) : Out :=
  raceWith .s32 true vd va vb vc mk k.toNat land s

/-- `rmerge.f32` (R239). -/
def execRmergeF32 (vd va vb vc : BitVec 6) (mk : BitVec 3) (k : BitVec 7) (land : BitVec 8) (s : State) : Out :=
  raceWith .merge false vd va vb vc mk k.toNat land s

/-- `rmergd.f32` (R239). -/
def execRmergdF32 (vd va vb vc : BitVec 6) (mk : BitVec 3) (k : BitVec 7) (land : BitVec 8) (s : State) : Out :=
  raceWith .merge true vd va vb vc mk k.toNat land s

/-- `rknn.f32` (R240). -/
def execRknnF32 (vd va vb vc : BitVec 6) (mk : BitVec 3) (k : BitVec 7) (land : BitVec 8) (s : State) : Out :=
  raceWith .knn false vd va vb vc mk k.toNat land s

end Sys2Proof.Machine
end

