-- ==== Sys2Proof/Machine/Streams.lean ====
section
/-! DEFINITION. Tensor streams as they issue (R269-R275, R404), and `await.mem` (R266). The copies of slots are steps of
their own (Between.lean). -/

namespace Sys2Proof.Machine

/-! ### Rings and endpoints -/

/-- A ring's number in the table of rings. -/
def ringKey (site ring : Nat) : Nat := site * 1024 + ring

/-- A ring descriptor. -/
def Hw.ring (h : Hw) (site ring : Nat) : Ring := tabGet {} h.rings (ringKey site ring)

/-- A ring descriptor changed by a function. -/
def Hw.onRing (h : Hw) (site ring : Nat) (f : Ring → Ring) : Hw :=
  { h with rings := tabPut (f (h.ring site ring)) (ringKey site ring) h.rings }

/-- The 128 bits of RINGDESC (R270). -/
def Ring.bits (r : Ring) : Nat :=
  r.putseq.toNat * 2 ^ 96 + r.getseq.toNat * 2 ^ 64 + r.nslot.toNat * 2 ^ 48 + r.slog.toNat * 2 ^ 44
    + r.base.toNat * 2 ^ 25 + r.owner.toNat * 2 ^ 4 + r.ccl.toNat * 8 + r.pcl.toNat * 4 + r.v.toNat

/-- The size of a ring's slots in bytes (R270). -/
def Ring.slotSize (r : Ring) : Nat := 2 ^ (r.slog.toNat + 8)

/-- The place of slot number `s` of a ring (R270). -/
def Ring.slotPlace (r : Ring) (site : Nat) (s : BitVec 32) : Nat :=
  streamKey site (256 * r.base.toNat + s.toNat % (max r.nslot.toNat 1) * r.slotSize)

/-- The endpoints of all engines of a core. -/
def Core.endpoints (k : Core) : List Endpoint := k.l.eps ++ k.cE.eps ++ k.s.eps

/-- A side of a ring is open in some engine of the module (R271). -/
def Hw.sideOpen (h : Hw) (site ring : Nat) (producer : Bool) : Bool :=
  h.cores.any (fun e => e.2.endpoints.any (fun x => x.site == site && x.ring == ring && x.producer == producer))

/-- The detail of a stream-state trap (R363). -/
def Hw.streamDetail (h : Hw) (site ring : Nat) : BitVec 256 :=
  detField 32 2 site ||| detField 34 2 ring ||| detField 48 16 (h.ring site ring).bits

/-- R81 on the handle in cQ with n = 1 (R269, R272): the square and the ring. -/
def State.handle (s : State) (q : BitVec 4) (need : BitVec 12) : Chk (Nat × Nat) := do
  let x := s.c q
  checkUse q.toNat x [4] (if need = pSp ||| pSg then (if x.has pSp then pSp else pSg) else need) x.cursor 1
  checkCap q.toNat x [4] 0 x.cursor 1
  let site := x.cursor / 2 ^ 32
  trapIf (!squareOk site || x.cursor / 1024 % 2 ^ 22 != 0) 0x13 x.cursor (capDetail q.toNat 1 x)
  .ok (site, x.cursor % 1024)

/-- The engine's endpoint on a ring's side. -/
def Eng.endpoint (e : Eng) (site ring : Nat) (producer : Bool) : Option Endpoint :=
  e.eps.find? (fun x => x.site == site && x.ring == ring && x.producer == producer)

/-- `sopen` (R271, R272). -/
def execSopen (q : BitVec 4) (r : BitVec 1) (s : State) : Out :=
  settle s (do
    let producer := r == 0
    let (site, ring) ← s.handle q (if producer then pSp else pSg)
    let d := s.toHw.ring site ring
    trapIf (s.toHw.sideOpen site ring producer || decide (4 ≤ s.me.eps.length) || !d.v
      || d.owner.toNat != s.task.lid) 0x38 0 (s.toHw.streamDetail site ring)
    let e : Endpoint := { site := site, ring := ring, producer := producer, res := if producer then d.putseq else 0 }
    let t := s.onMe (fun x => { x with eps := x.eps ++ [e] })
    .ok (t.upd (fun h => h.onRing site ring (fun d => if producer then { d with pcl := false } else { d with ccl := false }))))

/-- The local extent of a slot through c8, 16-byte aligned (R272 step 5). -/
def State.slotExtent (s : State) (x : Word) (need : BitVec 12) (n : Nat) : Chk Nat := do
  let a ← checkOwn 8 (s.c 8) [1] need (s.c8Addr x) n
  trapIf (a % 16 != 0) 0x11 a (capDetail 8 n (s.c 8))
  .ok a

/-- A stream copy that the instruction in issue starts (R273, R274). -/
def State.newCopy (s : State) (site ring : Nat) (put : Bool) (seq : BitVec 32) (off size : Nat) : StreamCopy :=
  { site := site, ring := ring, put := put, seq := seq, co := s.ix.co, eng := s.ix.eng, off := off, size := size,
    before := s.here.uid, pc := s.ix.pc, slot := s.ix.slot
    sec := match s.me.sec with
      | some x => x.sec
      | none => 0 }

/-- `sput`: reserves the next slot; the copy and its publication follow (R273, R404). -/
def execSput (d : BitVec 6) (q : BitVec 4) (a : BitVec 6) (s : State) : Out :=
  settle s (do
    let x ← s.gUse a
    let (site, ring) ← s.handle q pSp
    let r := s.toHw.ring site ring
    let det := s.toHw.streamDetail site ring
    match s.me.endpoint site ring true with
    | none => trapWith 0x38 0 det
    | some e =>
      let room := decide ((e.res - r.getseq).toNat < r.nslot.toNat)
      trapIf (!room && r.ccl) 0x38 0 det
      let off ← s.slotExtent x pLd r.slotSize
      blockUnless room
      let t := s.onMe (fun g => { g with eps := g.eps.map (fun y => if y = e then { y with res := y.res + 1 } else y) })
      let t := t.upd (fun h => { h with streams := h.streams ++ [s.newCopy site ring true e.res off r.slotSize] })
      .ok (t.setG d ⟨e.res.setWidth 64, false⟩))

/-- The copies of a ring's taken slots still under way. -/
def Hw.takenOf (h : Hw) (site ring : Nat) : Nat :=
  (h.streams.filter (fun c => c.site == site && c.ring == ring && !c.put)).length

/-- `sget`: takes the oldest published slot; all ones once the ring is empty and its producer closed (R274, R404). -/
def execSget (d : BitVec 6) (q : BitVec 4) (a : BitVec 6) (s : State) : Out :=
  settle s (do
    let x ← s.gUse a
    let (site, ring) ← s.handle q pSg
    let r := s.toHw.ring site ring
    trapIf (s.me.endpoint site ring false).isNone 0x38 0 (s.toHw.streamDetail site ring)
    let off ← s.slotExtent x pSt r.slotSize
    let seq := r.getseq + BitVec.ofNat 32 (s.toHw.takenOf site ring)
    let isEmpty := r.putseq == seq
    blockUnless (!isEmpty || r.pcl)
    if isEmpty then .ok (s.setG d ⟨0xFFFFFFFFFFFFFFFF#64, false⟩)
    else do
      s.checkSlot off r.slotSize
      let t := s.upd (fun h => { h with streams := h.streams ++ [s.newCopy site ring false seq off r.slotSize] })
      .ok (t.setG d ⟨seq.setWidth 64, false⟩))

/-- `sclose`: closes the endpoints that IMM32 names, once every reserved slot is published (R271, R272). -/
def execSclose (q : BitVec 4) (sel : BitVec 2) (s : State) : Out :=
  settle s (do
    let (site, ring) ← s.handle q (pSp ||| pSg)
    let p := (s.me.endpoint site ring true).filter (fun _ => sel != 2)
    let c := (s.me.endpoint site ring false).filter (fun _ => sel != 1)
    let missing := match sel.toNat with
      | 1 => p.isNone
      | 2 => c.isNone
      | _ => p.isNone && c.isNone
    trapIf missing 0x38 0 (s.toHw.streamDetail site ring)
    let r := s.toHw.ring site ring
    blockUnless (match p with
      | some e => e.res == r.putseq
      | none => true)
    let t := s.onMe (fun g => { g with eps := g.eps.filter (fun y => some y != p && some y != c) })
    .ok (t.upd (fun h => h.onRing site ring (fun d => { d with
      pcl := d.pcl || p.isSome, ccl := d.ccl || c.isSome }))))

/-- `sstat`: the ring's state without blocking (R275). -/
def execSstat (d : BitVec 6) (q : BitVec 4) (s : State) : Out :=
  settle s (do
    let (site, ring) ← s.handle q (pSp ||| pSg)
    let open_ := (s.me.endpoint site ring true).isSome || (s.me.endpoint site ring false).isSome
    trapIf (!open_) 0x38 0 (s.toHw.streamDetail site ring)
    let r := s.toHw.ring site ring
    .ok (s.setG d ⟨BitVec.ofNat 64 ((r.putseq - r.getseq).toNat % 2 ^ 16 + r.nslot.toNat * 2 ^ 16
      + r.slog.toNat * 2 ^ 32 + r.pcl.toNat * 2 ^ 36 + r.ccl.toNat * 2 ^ 37), false⟩))

/-! ### Waiting on a line -/

/-- `await.mem`: the request goes to the home slice after commit (R266); gD takes the status when it arrives. -/
def execAwaitMem (d : BitVec 6) (cb : BitVec 4) (x : BitVec 6) (sc : BitVec 3) (off : BitVec 32) (s : State) : Out :=
  settle s (do
    let expected ← s.gUse d
    let ea ← s.mAddr cb x sc off
    checkCap cb.toNat (s.c cb) [3] pLd ea 8
    trapIf (decide (ea % 8 ≠ 0)) 0x11 ea.toNat (capDetail cb.toNat 8 (s.c cb))
    blockUnless s.me.amem.isNone
    .ok (s.onMe (fun e => { e with
      amem := some { d := d, va := ea.toNat, expected := expected, pc := s.ix.pc, slot := s.ix.slot } })))

end Sys2Proof.Machine
end

