-- ==== Sys2Proof/Decode.lean ====
section
/-! DEFINITION. Reading and writing instruction words: the common fields of R58, the formats of R61, the opcode map of
R68. A word with a 1 in a bit its row leaves zero, a code outside its range, or an unassigned opcode is no instruction
(R60). The steps of the module that are no instruction words have no encoding. -/

namespace Sys2Proof

/-- `n` bits of an instruction word from bit `lo` up (R3). -/
def fld (w : BitVec 96) (lo n : Nat) : BitVec n := w.extractLsb' lo n

/-- The instruction, when every operand bit that its row leaves unused is zero (R60). -/
def zeroIn (w : BitVec 96) (unused : BitVec 96) (i : Instr) : Option Instr :=
  if w &&& unused = 0#96 then some i else none

/-- Opcodes 0x000 to 0x01f of the opcode map (R68). -/
def decodePage0 (w : BitVec 96) : Nat → Option Instr
  | 0x000 => zeroIn w 0x3ffffffffffffffffffff (.nop)
  | 0x001 => zeroIn w 0x300000000ffffffff (.br (fld w 66 4) (fld w 76 6) (fld w 70 6) (fld w 32 32))
  | 0x003 => zeroIn w 0x3ffff00000000ffffffff (.jmp (fld w 32 32))
  | 0x004 => zeroIn w 0xfffffffffff00000000 (.jmpi (fld w 76 6) (fld w 0 32))
  | 0x005 => zeroIn w 0x3ffff00000000ffffffff (.call (fld w 32 32))
  | 0x006 => zeroIn w 0xfffffffffff00000000 (.calli (fld w 76 6) (fld w 0 32))
  | 0x007 => zeroIn w 0x3ffffffffffffffffffff (.ret)
  | 0x008 => if fld w 0 32 = 1#32 then zeroIn w 0x3ffff0000000000000000 (.loopNest (fld w 32 32)) else zeroIn w 0x3fffc00000000ffffffff (.loopLc (fld w 64 2) (fld w 32 32))
  | 0x009 => zeroIn w 0xffcffffffff00000000 (.lset (fld w 64 2) (fld w 76 6) (fld w 0 32))
  | 0x00a => zeroIn w 0x3ffc0000000000000003f (.rep (fld w 6 12) (fld w 18 6) (fld w 24 6) (fld w 30 6) (fld w 36 6) (fld w 42 28))
  | 0x00b => zeroIn w 0x3f002000000003fffffff (.lnest (fld w 72 4) (fld w 66 6) (fld w 62 3) (fld w 30 32))
  | 0x00d => zeroIn w 0x3ffff00000000fffffffe (.brq (fld w 32 32) (fld w 0 1))
  | 0x00e => zeroIn w 0x3ffffffffffffffff (.pushbq (fld w 66 4) (fld w 76 6) (fld w 70 6))
  | 0x00f => zeroIn w 0x3f03ffc07e7ffffffffff (.defer (fld w 70 6) (fld w 55 3) (fld w 51 4) (fld w 43 2))
  | 0x010 => zeroIn w 0x3f00000000fffffffc (.drain (fld w 76 6) (fld w 70 6) (fld w 32 32) (fld w 0 2))
  | 0x011 => zeroIn w 0x3ffc3ffffffffffffffff (.post (fld w 66 4))
  | 0x012 => zeroIn w 0x3ffc3ffffffffffffffff (.await (fld w 66 4))
  | 0x013 => zeroIn w 0x3f03fffc00000003fffff (.trap (fld w 70 6) (fld w 22 32))
  | 0x014 => zeroIn w 0x3ffffffc00000003fffff (.brk (fld w 22 32))
  | 0x015 => zeroIn w 0xfc0003fffffffffffff (.csrr (fld w 76 6) (fld w 54 16))
  | 0x016 => zeroIn w 0x3f000003fffffffffffff (.csrw (fld w 70 6) (fld w 54 16))
  | 0x017 => zeroIn w 0x3ffffffffffffffffffff (.fenceCore)
  | 0x018 => zeroIn w 0x3ffffffffffffffffffff (.fenceIsle)
  | 0x019 => zeroIn w 0x3ffffffffffffffffffff (.fenceMod)
  | 0x01a => zeroIn w 0x3ffffffffffffffffffff (.fenceSys)
  | 0x01c => zeroIn w 0x3ffffffffffffffffffff (.doneOp)
  | 0x01d => zeroIn w 0x3fffc03ffffffffffffff (.dbar (fld w 58 8))
  | 0x01e => zeroIn w 0xffc03ffffffffffffff (.dbarA (fld w 76 6) (fld w 58 8))
  | 0x01f => zeroIn w 0x3f03c03ffffffffffffff (.dbarW (fld w 70 6) (fld w 58 8))
  | _ => none

/-- Opcodes 0x020 to 0x03f of the opcode map (R68). -/
def decodePage1 (w : BitVec 96) : Nat → Option Instr
  | 0x020 => zeroIn w 0x2000000003fffffff (.awaitMem (fld w 76 6) (fld w 72 4) (fld w 66 6) (fld w 62 3) (fld w 30 32))
  | _ => none

/-- Opcodes 0x040 to 0x05f of the opcode map (R68). -/
def decodePage2 (w : BitVec 96) : Nat → Option Instr
  | 0x040 => zeroIn w 0xffffffffffffffff (.add (fld w 76 6) (fld w 70 6) (fld w 64 6))
  | 0x041 => zeroIn w 0xffffffffffffffff (.sub (fld w 76 6) (fld w 70 6) (fld w 64 6))
  | 0x042 => zeroIn w 0x3f (.addi (fld w 76 6) (fld w 70 6) (fld w 6 64))
  | 0x043 => zeroIn w 0xfc0000000000000003f (.li (fld w 76 6) (fld w 6 64))
  | 0x044 => zeroIn w 0x3fffffffffffffffff (.mov (fld w 76 6) (fld w 70 6))
  | 0x045 => zeroIn w 0xffffffffffffffff (.mul (fld w 76 6) (fld w 70 6) (fld w 64 6))
  | 0x046 => zeroIn w 0xffffffffffffffff (.mulhS (fld w 76 6) (fld w 70 6) (fld w 64 6))
  | 0x047 => zeroIn w 0xffffffffffffffff (.mulhZ (fld w 76 6) (fld w 70 6) (fld w 64 6))
  | 0x048 => zeroIn w 0x3ffffffffffffff (.mad (fld w 76 6) (fld w 70 6) (fld w 64 6) (fld w 58 6))
  | 0x049 => zeroIn w 0xffffffffffffffff (.divS (fld w 76 6) (fld w 70 6) (fld w 64 6))
  | 0x04a => zeroIn w 0xffffffffffffffff (.divZ (fld w 76 6) (fld w 70 6) (fld w 64 6))
  | 0x04b => zeroIn w 0xffffffffffffffff (.remS (fld w 76 6) (fld w 70 6) (fld w 64 6))
  | 0x04c => zeroIn w 0xffffffffffffffff (.remZ (fld w 76 6) (fld w 70 6) (fld w 64 6))
  | 0x04d => zeroIn w 0xffffffffffffffff (.and (fld w 76 6) (fld w 70 6) (fld w 64 6))
  | 0x04e => zeroIn w 0xffffffffffffffff (.or (fld w 76 6) (fld w 70 6) (fld w 64 6))
  | 0x04f => zeroIn w 0xffffffffffffffff (.xor (fld w 76 6) (fld w 70 6) (fld w 64 6))
  | 0x050 => zeroIn w 0xffffffffffffffff (.andn (fld w 76 6) (fld w 70 6) (fld w 64 6))
  | 0x051 => zeroIn w 0xffffffffffffffff (.shl (fld w 76 6) (fld w 70 6) (fld w 64 6))
  | 0x052 => zeroIn w 0xffffffffffffffff (.shrZ (fld w 76 6) (fld w 70 6) (fld w 64 6))
  | 0x053 => zeroIn w 0xffffffffffffffff (.shrS (fld w 76 6) (fld w 70 6) (fld w 64 6))
  | 0x054 => zeroIn w 0xffffffffffffffff (.rotl (fld w 76 6) (fld w 70 6) (fld w 64 6))
  | 0x055 => zeroIn w 0x3fffffffffffffffff (.clz (fld w 76 6) (fld w 70 6))
  | 0x056 => zeroIn w 0x3fffffffffffffffff (.ctz (fld w 76 6) (fld w 70 6))
  | 0x057 => zeroIn w 0x3fffffffffffffffff (.popc (fld w 76 6) (fld w 70 6))
  | 0x058 => zeroIn w 0xffffffffffffffff (.minS (fld w 76 6) (fld w 70 6) (fld w 64 6))
  | 0x059 => zeroIn w 0xffffffffffffffff (.minZ (fld w 76 6) (fld w 70 6) (fld w 64 6))
  | 0x05a => zeroIn w 0xffffffffffffffff (.maxS (fld w 76 6) (fld w 70 6) (fld w 64 6))
  | 0x05b => zeroIn w 0xffffffffffffffff (.maxZ (fld w 76 6) (fld w 70 6) (fld w 64 6))
  | 0x05c => zeroIn w 0xe3ffffffffffffff (.sel (fld w 76 6) (fld w 70 6) (fld w 64 6) (fld w 58 3))
  | 0x05d => zeroIn w 0x38000fc3fffffffffffff (.cmp (fld w 54 4) (fld w 76 3) (fld w 70 6) (fld w 64 6))
  | 0x05e => zeroIn w 0x38000000000000000003f (.cmpi (fld w 66 4) (fld w 76 3) (fld w 70 6) (fld w 6 60))
  | 0x05f => zeroIn w 0x38e38fc3fffffffffffff (.pmix (fld w 76 3) (fld w 70 3) (fld w 64 3) (fld w 54 4))
  | _ => none

/-- Opcodes 0x060 to 0x07f of the opcode map (R68). -/
def decodePage3 (w : BitVec 96) : Nat → Option Instr
  | 0x060 => zeroIn w 0x3fffffffffffffffff (.extS8 (fld w 76 6) (fld w 70 6))
  | 0x061 => zeroIn w 0x3fffffffffffffffff (.extS16 (fld w 76 6) (fld w 70 6))
  | 0x062 => zeroIn w 0x3fffffffffffffffff (.extS32 (fld w 76 6) (fld w 70 6))
  | 0x063 => zeroIn w 0x3fffffffffffffffff (.extZ8 (fld w 76 6) (fld w 70 6))
  | 0x064 => zeroIn w 0x3fffffffffffffffff (.extZ16 (fld w 76 6) (fld w 70 6))
  | 0x065 => zeroIn w 0x3fffffffffffffffff (.extZ32 (fld w 76 6) (fld w 70 6))
  | 0x066 => zeroIn w 0xffffffffffffffff (.addsS64 (fld w 76 6) (fld w 70 6) (fld w 64 6))
  | 0x067 => zeroIn w 0x3ffffffffffff0003f (.bfx (fld w 76 6) (fld w 70 6) (fld w 6 6) (fld w 12 7) (fld w 19 1))
  | 0x068 => zeroIn w 0x3ffffffffffff8003f (.bfi (fld w 76 6) (fld w 70 6) (fld w 6 6) (fld w 12 7))
  | 0x069 => zeroIn w 0x33fffffffffffff (.rnd (fld w 76 6) (fld w 70 6) (fld w 64 6) (fld w 58 6) (fld w 54 2))
  | _ => none

/-- Opcodes 0x080 to 0x09f of the opcode map (R68). -/
def decodePage4 (w : BitVec 96) : Nat → Option Instr
  | 0x080 => zeroIn w 0x30c3fffffffffffffffff (.cmov (fld w 76 4) (fld w 70 4))
  | 0x081 => zeroIn w 0x30c00ffffffffffffffff (.cinc (fld w 76 4) (fld w 70 4) (fld w 64 6))
  | 0x082 => zeroIn w 0x30c00000000000000003f (.cinci (fld w 76 4) (fld w 70 4) (fld w 6 64))
  | 0x083 => zeroIn w 0x30c00ffffffffffffffff (.cbound (fld w 76 4) (fld w 70 4) (fld w 64 6))
  | 0x084 => zeroIn w 0x30c3ffffffffffffc003f (.cperm (fld w 76 4) (fld w 70 4) (fld w 6 12))
  | 0x085 => zeroIn w 0xc3fffffffffffffffff (.cgetb (fld w 76 6) (fld w 70 4))
  | 0x086 => zeroIn w 0xc3fffffffffffffffff (.cgetl (fld w 76 6) (fld w 70 4))
  | 0x087 => zeroIn w 0xc3fffffffffffffffff (.cgeto (fld w 76 6) (fld w 70 4))
  | 0x088 => zeroIn w 0xc3fffffffffffffffff (.cgetp (fld w 76 6) (fld w 70 4))
  | 0x089 => zeroIn w 0x38c3fffffffffffffffff (.ctest (fld w 76 3) (fld w 70 4))
  | 0x08a => zeroIn w 0x38c30ffffffffffffffff (.cle (fld w 76 3) (fld w 70 4) (fld w 64 4))
  | 0x08b => zeroIn w 0x30fffffffffffffffffff (.cclr (fld w 76 4))
  | 0x08c => zeroIn w 0x30c00ffffffffffffffff (.caddr (fld w 76 4) (fld w 70 4) (fld w 64 6))
  | 0x08d => zeroIn w 0x30002000000003fffffff (.cld (fld w 76 4) (fld w 72 4) (fld w 66 6) (fld w 62 3) (fld w 30 32))
  | 0x08e => zeroIn w 0x30002000000003fffffff (.cst (fld w 76 4) (fld w 72 4) (fld w 66 6) (fld w 62 3) (fld w 30 32))
  | 0x08f => zeroIn w 0x30ffffffffffffffffe3f (.cfoot (fld w 76 4) (fld w 6 3))
  | _ => none

/-- Opcodes 0x0a0 to 0x0bf of the opcode map (R68). -/
def decodePage5 (w : BitVec 96) : Nat → Option Instr
  | 0x0a0 => zeroIn w 0x2000000003fffffff (.ldS8 (fld w 76 6) (fld w 72 4) (fld w 66 6) (fld w 62 3) (fld w 30 32))
  | 0x0a1 => zeroIn w 0x2000000003fffffff (.ldZ8 (fld w 76 6) (fld w 72 4) (fld w 66 6) (fld w 62 3) (fld w 30 32))
  | 0x0a2 => zeroIn w 0x2000000003fffffff (.ldS16 (fld w 76 6) (fld w 72 4) (fld w 66 6) (fld w 62 3) (fld w 30 32))
  | 0x0a3 => zeroIn w 0x2000000003fffffff (.ldZ16 (fld w 76 6) (fld w 72 4) (fld w 66 6) (fld w 62 3) (fld w 30 32))
  | 0x0a4 => zeroIn w 0x2000000003fffffff (.ldS32 (fld w 76 6) (fld w 72 4) (fld w 66 6) (fld w 62 3) (fld w 30 32))
  | 0x0a5 => zeroIn w 0x2000000003fffffff (.ldZ32 (fld w 76 6) (fld w 72 4) (fld w 66 6) (fld w 62 3) (fld w 30 32))
  | 0x0a6 => zeroIn w 0x2000000003fffffff (.ld64 (fld w 76 6) (fld w 72 4) (fld w 66 6) (fld w 62 3) (fld w 30 32))
  | 0x0a7 => zeroIn w 0x2000000003fffffff (.st8 (fld w 76 6) (fld w 72 4) (fld w 66 6) (fld w 62 3) (fld w 30 32))
  | 0x0a8 => zeroIn w 0x2000000003fffffff (.st16 (fld w 76 6) (fld w 72 4) (fld w 66 6) (fld w 62 3) (fld w 30 32))
  | 0x0a9 => zeroIn w 0x2000000003fffffff (.st32 (fld w 76 6) (fld w 72 4) (fld w 66 6) (fld w 62 3) (fld w 30 32))
  | 0x0aa => zeroIn w 0x2000000003fffffff (.st64 (fld w 76 6) (fld w 72 4) (fld w 66 6) (fld w 62 3) (fld w 30 32))
  | 0x0ab => zeroIn w 0x2000000003fffffff (.vld (fld w 76 6) (fld w 72 4) (fld w 66 6) (fld w 62 3) (fld w 30 32))
  | 0x0ac => zeroIn w 0x2000000003fffffff (.vst (fld w 76 6) (fld w 72 4) (fld w 66 6) (fld w 62 3) (fld w 30 32))
  | 0x0ad => zeroIn w 0x2000000003fffffff (.vldBc (fld w 76 6) (fld w 72 4) (fld w 66 6) (fld w 62 3) (fld w 30 32))
  | 0x0ae => zeroIn w 0x2000000003fffffff (.vgath (fld w 76 6) (fld w 72 4) (fld w 66 6) (fld w 62 3) (fld w 30 32))
  | 0x0af => zeroIn w 0x2000000003fffffff (.vscat (fld w 76 6) (fld w 72 4) (fld w 66 6) (fld w 62 3) (fld w 30 32))
  | 0x0b0 => zeroIn w 0x2000000003fffffff (.ldfeW (fld w 76 6) (fld w 72 4) (fld w 66 6) (fld w 62 3) (fld w 30 32))
  | 0x0b1 => zeroIn w 0x2000000003fffffff (.ldfeC (fld w 76 6) (fld w 72 4) (fld w 66 6) (fld w 62 3) (fld w 30 32))
  | 0x0b2 => zeroIn w 0x2000000003fffffff (.vldfeW (fld w 76 6) (fld w 72 4) (fld w 66 6) (fld w 62 3) (fld w 30 32))
  | 0x0b3 => zeroIn w 0x2000000003fffffff (.vldfeC (fld w 76 6) (fld w 72 4) (fld w 66 6) (fld w 62 3) (fld w 30 32))
  | 0x0b4 => zeroIn w 0x2000000003fffffff (.fset (fld w 76 6) (fld w 72 4) (fld w 66 6) (fld w 62 3) (fld w 30 32))
  | 0x0b5 => zeroIn w 0x2000000003fffffff (.fclr (fld w 76 6) (fld w 72 4) (fld w 66 6) (fld w 62 3) (fld w 30 32))
  | 0x0b6 => zeroIn w 0x38002000000003fffffff (.ftest (fld w 76 3) (fld w 72 4) (fld w 66 6) (fld w 62 3) (fld w 30 32))
  | 0x0b7 => zeroIn w 0x20000000000ffffff (.ldn (fld w 76 6) (fld w 72 4) (fld w 66 6) (fld w 62 3) (fld w 30 32) (fld w 24 6))
  | 0x0b8 => zeroIn w 0x20000000000ffffff (.vldn (fld w 76 6) (fld w 72 4) (fld w 66 6) (fld w 62 3) (fld w 30 32) (fld w 24 6))
  | _ => none

/-- Opcodes 0x0c0 to 0x0df of the opcode map (R68). -/
def decodePage6 (w : BitVec 96) : Nat → Option Instr
  | 0x0c0 => zeroIn w 0xffffffffff (.xget (fld w 74 4) (fld w 56 6) (fld w 78 4) (fld w 62 6) (fld w 68 6) (fld w 52 4) (fld w 40 12))
  | 0x0c1 => zeroIn w 0xfffffffff8 (.xput (fld w 74 4) (fld w 56 6) (fld w 78 4) (fld w 62 6) (fld w 68 6) (fld w 52 4) (fld w 40 12) (fld w 0 3))
  | 0x0c2 => zeroIn w 0xfffffffff8 (.xmove (fld w 74 4) (fld w 56 6) (fld w 78 4) (fld w 62 6) (fld w 68 6) (fld w 52 4) (fld w 40 12) (fld w 0 3))
  | 0x0c3 => zeroIn w 0xfff000ffff (.xgat (fld w 74 4) (fld w 56 6) (fld w 78 4) (fld w 62 6) (fld w 68 6) (fld w 22 6) (fld w 16 6) (fld w 52 4) (fld w 40 12))
  | 0x0c4 => zeroIn w 0xfff000fff8 (.xsct (fld w 74 4) (fld w 56 6) (fld w 78 4) (fld w 62 6) (fld w 68 6) (fld w 22 6) (fld w 16 6) (fld w 52 4) (fld w 40 12) (fld w 0 3))
  | 0x0c5 => zeroIn w 0xfff0000007 (.xget2d (fld w 74 4) (fld w 56 6) (fld w 16 6) (fld w 78 4) (fld w 62 6) (fld w 22 6) (fld w 68 6) (fld w 52 4) (fld w 40 12) (fld w 3 13))
  | 0x0c6 => zeroIn w 0xfff0000000 (.xput2d (fld w 74 4) (fld w 56 6) (fld w 16 6) (fld w 78 4) (fld w 62 6) (fld w 22 6) (fld w 68 6) (fld w 52 4) (fld w 40 12) (fld w 3 13) (fld w 0 3))
  | 0x0c7 => zeroIn w 0x3c00fc00000fff03ffff8 (.xfill (fld w 74 4) (fld w 56 6) (fld w 22 6) (fld w 68 6) (fld w 52 4) (fld w 40 12) (fld w 0 3))
  | 0x0c8 => zeroIn w 0xfffffffffffff (.xaccAddS32 (fld w 74 4) (fld w 56 6) (fld w 78 4) (fld w 62 6) (fld w 68 6) (fld w 52 4))
  | 0x0c9 => zeroIn w 0xfffffffffffff (.xaccAddS64 (fld w 74 4) (fld w 56 6) (fld w 78 4) (fld w 62 6) (fld w 68 6) (fld w 52 4))
  | 0x0ca => zeroIn w 0xffffffffff000 (.xaccAddF32 (fld w 74 4) (fld w 56 6) (fld w 78 4) (fld w 62 6) (fld w 68 6) (fld w 52 4) (fld w 0 12))
  | 0x0cb => zeroIn w 0xfffffffffffff (.xaccMinS32 (fld w 74 4) (fld w 56 6) (fld w 78 4) (fld w 62 6) (fld w 68 6) (fld w 52 4))
  | 0x0cc => zeroIn w 0xfffffffffffff (.xaccMaxS32 (fld w 74 4) (fld w 56 6) (fld w 78 4) (fld w 62 6) (fld w 68 6) (fld w 52 4))
  | 0x0cd => zeroIn w 0xfffffffffffff (.xaccMinF32 (fld w 74 4) (fld w 56 6) (fld w 78 4) (fld w 62 6) (fld w 68 6) (fld w 52 4))
  | 0x0ce => zeroIn w 0xfffffffffffff (.xaccMaxF32 (fld w 74 4) (fld w 56 6) (fld w 78 4) (fld w 62 6) (fld w 68 6) (fld w 52 4))
  | 0x0cf => zeroIn w 0xfffffffffffff (.xaccAnd (fld w 74 4) (fld w 56 6) (fld w 78 4) (fld w 62 6) (fld w 68 6) (fld w 52 4))
  | 0x0d0 => zeroIn w 0xfffffffffffff (.xaccOr (fld w 74 4) (fld w 56 6) (fld w 78 4) (fld w 62 6) (fld w 68 6) (fld w 52 4))
  | 0x0d1 => zeroIn w 0xfffffffffffff (.xaccXor (fld w 74 4) (fld w 56 6) (fld w 78 4) (fld w 62 6) (fld w 68 6) (fld w 52 4))
  | 0x0d2 => zeroIn w 0x3f0000000fff03ff000 (.xfaddS32 (fld w 74 4) (fld w 56 6) (fld w 22 6) (fld w 78 4) (fld w 62 6) (fld w 52 4) (fld w 40 12) (fld w 0 12))
  | 0x0d3 => zeroIn w 0x3f0000000fff03ff000 (.xfaddS64 (fld w 74 4) (fld w 56 6) (fld w 22 6) (fld w 78 4) (fld w 62 6) (fld w 52 4) (fld w 40 12) (fld w 0 12))
  | 0x0d4 => zeroIn w 0x3f0000000fff03ff000 (.xswp (fld w 74 4) (fld w 56 6) (fld w 22 6) (fld w 78 4) (fld w 62 6) (fld w 52 4) (fld w 40 12) (fld w 0 12))
  | 0x0d5 => zeroIn w 0x3f0000000fff000f000 (.xcas (fld w 74 4) (fld w 56 6) (fld w 22 6) (fld w 16 6) (fld w 78 4) (fld w 62 6) (fld w 52 4) (fld w 40 12) (fld w 0 12))
  | 0x0d6 => zeroIn w 0x3f0000000000000f000 (.xcasGo (fld w 74 4) (fld w 56 6) (fld w 22 6) (fld w 16 6) (fld w 78 4) (fld w 62 6) (fld w 52 4) (fld w 40 12) (fld w 28 12) (fld w 0 12))
  | 0x0d7 => zeroIn w 0x3ffffff0ffffffffff000 (.xclose (fld w 52 4) (fld w 0 12))
  | 0x0d8 => zeroIn w 0x3ffffff0ffffff03fffff (.xwaitIn (fld w 22 6) (fld w 52 4))
  | 0x0d9 => zeroIn w 0x3ffffff0ffffff03fffff (.xwaitRel (fld w 22 6) (fld w 52 4))
  | 0x0da => zeroIn w 0x3ffffff0ffffff03fffff (.xwaitVis (fld w 22 6) (fld w 52 4))
  | 0x0db => zeroIn w 0x3ffffff0ffffff03ffff8 (.xid (fld w 22 6) (fld w 52 4) (fld w 0 3))
  | 0x0dc => zeroIn w 0x3ffffffffffffffffffff (.xorder)
  | _ => none

/-- Opcodes 0x100 to 0x11f of the opcode map (R68). -/
def decodePage8 (w : BitVec 96) : Nat → Option Instr
  | 0x100 => zeroIn w 0xfc7fffffffffffff (.vaddF32 (fld w 76 6) (fld w 70 6) (fld w 64 6) (fld w 55 3))
  | 0x101 => zeroIn w 0xfc7fffffffffffff (.vsubF32 (fld w 76 6) (fld w 70 6) (fld w 64 6) (fld w 55 3))
  | 0x102 => zeroIn w 0xfc7fffffffffffff (.vmulF32 (fld w 76 6) (fld w 70 6) (fld w 64 6) (fld w 55 3))
  | 0x103 => zeroIn w 0x7fffffffffffff (.vfmaF32 (fld w 76 6) (fld w 70 6) (fld w 64 6) (fld w 58 6) (fld w 55 3))
  | 0x104 => zeroIn w 0x7fffffffffffff (.vfmsF32 (fld w 76 6) (fld w 70 6) (fld w 64 6) (fld w 58 6) (fld w 55 3))
  | 0x105 => zeroIn w 0x7fffffffffffff (.vfnmaF32 (fld w 76 6) (fld w 70 6) (fld w 64 6) (fld w 58 6) (fld w 55 3))
  | 0x106 => zeroIn w 0xfc7fffffffffffff (.vminF32 (fld w 76 6) (fld w 70 6) (fld w 64 6) (fld w 55 3))
  | 0x107 => zeroIn w 0xfc7fffffffffffff (.vmaxF32 (fld w 76 6) (fld w 70 6) (fld w 64 6) (fld w 55 3))
  | 0x108 => zeroIn w 0x3ffc7fffffffffffff (.vabsF32 (fld w 76 6) (fld w 70 6) (fld w 55 3))
  | 0x109 => zeroIn w 0x3ffc7fffffffffffff (.vnegF32 (fld w 76 6) (fld w 70 6) (fld w 55 3))
  | 0x10a => zeroIn w 0xfc7fffffffffffff (.vdivF32 (fld w 76 6) (fld w 70 6) (fld w 64 6) (fld w 55 3))
  | 0x10b => zeroIn w 0x3ffc7fffffffffffff (.vsqrtF32 (fld w 76 6) (fld w 70 6) (fld w 55 3))
  | 0x10c => zeroIn w 0x3ffc7fffffffffffff (.vrcpF32 (fld w 76 6) (fld w 70 6) (fld w 55 3))
  | 0x10d => zeroIn w 0x3ffc7fffffffffffff (.vrsqrtF32 (fld w 76 6) (fld w 70 6) (fld w 55 3))
  | 0x10e => zeroIn w 0x3ffc7fffffffffffff (.vexp2F32 (fld w 76 6) (fld w 70 6) (fld w 55 3))
  | 0x10f => zeroIn w 0x3ffc7fffffffffffff (.vlog2F32 (fld w 76 6) (fld w 70 6) (fld w 55 3))
  | 0x110 => zeroIn w 0x3ffc7fffffffffffff (.vsinpiF32 (fld w 76 6) (fld w 70 6) (fld w 55 3))
  | 0x111 => zeroIn w 0x3ffc7fffffffffffff (.vcospiF32 (fld w 76 6) (fld w 70 6) (fld w 55 3))
  | 0x112 => zeroIn w 0x3ffc7fffffffffffff (.vtanhF32 (fld w 76 6) (fld w 70 6) (fld w 55 3))
  | 0x113 => zeroIn w 0x3ffc7fffffffffffff (.vrrpi (fld w 76 6) (fld w 70 6) (fld w 55 3))
  | 0x114 => zeroIn w 0x3ffc7fffffffffffff (.vfloorF32 (fld w 76 6) (fld w 70 6) (fld w 55 3))
  | 0x115 => zeroIn w 0x3ffc7fffffffffffff (.vrintF32 (fld w 76 6) (fld w 70 6) (fld w 55 3))
  | 0x116 => zeroIn w 0x38000fc07ffffffffffff (.vcmpF32 (fld w 51 4) (fld w 76 3) (fld w 70 6) (fld w 64 6) (fld w 55 3))
  | 0x117 => zeroIn w 0x3ffc7fffffffffffff (.vclassF32 (fld w 76 6) (fld w 70 6) (fld w 55 3))
  | 0x118 => zeroIn w 0xfc7fffffffffffff (.vaddBf16 (fld w 76 6) (fld w 70 6) (fld w 64 6) (fld w 55 3))
  | 0x119 => zeroIn w 0xfc7fffffffffffff (.vmulBf16 (fld w 76 6) (fld w 70 6) (fld w 64 6) (fld w 55 3))
  | 0x11a => zeroIn w 0x7fffffffffffff (.vfmaBf16 (fld w 76 6) (fld w 70 6) (fld w 64 6) (fld w 58 6) (fld w 55 3))
  | 0x11b => zeroIn w 0xfc7fffffffffffff (.vaddS32 (fld w 76 6) (fld w 70 6) (fld w 64 6) (fld w 55 3))
  | 0x11c => zeroIn w 0xfc7fffffffffffff (.vsubS32 (fld w 76 6) (fld w 70 6) (fld w 64 6) (fld w 55 3))
  | 0x11d => zeroIn w 0xfc7fffffffffffff (.vmulS32 (fld w 76 6) (fld w 70 6) (fld w 64 6) (fld w 55 3))
  | 0x11e => zeroIn w 0x7fffffffffffff (.vmadS16 (fld w 76 6) (fld w 70 6) (fld w 64 6) (fld w 58 6) (fld w 55 3))
  | 0x11f => zeroIn w 0xfc7fffffffffffff (.vaddsS32 (fld w 76 6) (fld w 70 6) (fld w 64 6) (fld w 55 3))
  | _ => none

/-- Opcodes 0x120 to 0x13f of the opcode map (R68). -/
def decodePage9 (w : BitVec 96) : Nat → Option Instr
  | 0x120 => zeroIn w 0xfc7fffffffffffff (.vsubsS32 (fld w 76 6) (fld w 70 6) (fld w 64 6) (fld w 55 3))
  | 0x121 => zeroIn w 0xfc7fffffffffffff (.vminS32 (fld w 76 6) (fld w 70 6) (fld w 64 6) (fld w 55 3))
  | 0x122 => zeroIn w 0xfc7fffffffffffff (.vmaxS32 (fld w 76 6) (fld w 70 6) (fld w 64 6) (fld w 55 3))
  | 0x123 => zeroIn w 0xfc7fffffffffffff (.vminZ32 (fld w 76 6) (fld w 70 6) (fld w 64 6) (fld w 55 3))
  | 0x124 => zeroIn w 0xfc7fffffffffffff (.vmaxZ32 (fld w 76 6) (fld w 70 6) (fld w 64 6) (fld w 55 3))
  | 0x125 => zeroIn w 0xfc7fffffffffffff (.vand (fld w 76 6) (fld w 70 6) (fld w 64 6) (fld w 55 3))
  | 0x126 => zeroIn w 0xfc7fffffffffffff (.vor (fld w 76 6) (fld w 70 6) (fld w 64 6) (fld w 55 3))
  | 0x127 => zeroIn w 0xfc7fffffffffffff (.vxor (fld w 76 6) (fld w 70 6) (fld w 64 6) (fld w 55 3))
  | 0x128 => if fld w 51 4 = 1#4 then zeroIn w 0x3ffc0707ffffffffff (.vshlImm (fld w 76 6) (fld w 70 6) (fld w 43 5) (fld w 55 3)) else zeroIn w 0xfc7fffffffffffff (.vshl (fld w 76 6) (fld w 70 6) (fld w 64 6) (fld w 55 3))
  | 0x129 => if fld w 51 4 = 1#4 then zeroIn w 0x3ffc0707ffffffffff (.vshrZImm (fld w 76 6) (fld w 70 6) (fld w 43 5) (fld w 55 3)) else zeroIn w 0xfc7fffffffffffff (.vshrZ (fld w 76 6) (fld w 70 6) (fld w 64 6) (fld w 55 3))
  | 0x12a => if fld w 51 4 = 1#4 then zeroIn w 0x3ffc0707ffffffffff (.vshrSImm (fld w 76 6) (fld w 70 6) (fld w 43 5) (fld w 55 3)) else zeroIn w 0xfc7fffffffffffff (.vshrS (fld w 76 6) (fld w 70 6) (fld w 64 6) (fld w 55 3))
  | 0x12b => zeroIn w 0x38000fc07ffffffffffff (.vcmpS32 (fld w 51 4) (fld w 76 3) (fld w 70 6) (fld w 64 6) (fld w 55 3))
  | 0x12c => zeroIn w 0x38000fc07ffffffffffff (.vcmpZ32 (fld w 51 4) (fld w 76 3) (fld w 70 6) (fld w 64 6) (fld w 55 3))
  | 0x12d => zeroIn w 0xfc7fffffffffffff (.vsel (fld w 76 6) (fld w 70 6) (fld w 64 6) (fld w 55 3))
  | 0x12e => zeroIn w 0x38e38ff87ffffffffffff (.vmask (fld w 76 3) (fld w 70 3) (fld w 64 3) (fld w 51 4))
  | 0x130 => zeroIn w 0x3ffc7fffffffffffff (.vcvtF32S32 (fld w 76 6) (fld w 70 6) (fld w 55 3))
  | 0x131 => zeroIn w 0x3ffc7fffffffffffff (.vcvtS32F32Rne (fld w 76 6) (fld w 70 6) (fld w 55 3))
  | 0x132 => zeroIn w 0x3ffc7fffffffffffff (.vcvtS32F32Rz (fld w 76 6) (fld w 70 6) (fld w 55 3))
  | 0x133 => zeroIn w 0xffffffffffffffff (.vcvtBf16F32 (fld w 76 6) (fld w 70 6) (fld w 64 6))
  | 0x134 => zeroIn w 0x3ffc7ff7ffffffffff (.vcvtF32Bf16 (fld w 76 6) (fld w 70 6) (fld w 43 1) (fld w 55 3))
  | 0x135 => zeroIn w 0x3fffffe7ffffffffff (.vcvtE4m3F32 (fld w 76 6) (fld w 70 6) (fld w 43 2))
  | 0x136 => zeroIn w 0x3fffffe7ffffffffff (.vcvtE4m3F32Nv (fld w 76 6) (fld w 70 6) (fld w 43 2))
  | 0x137 => zeroIn w 0x3fffffe7ffffffffff (.vcvtE5m2F32 (fld w 76 6) (fld w 70 6) (fld w 43 2))
  | 0x138 => zeroIn w 0x3ffc7fe7ffffffffff (.vcvtF32E4m3 (fld w 76 6) (fld w 70 6) (fld w 43 2) (fld w 55 3))
  | 0x139 => zeroIn w 0x3ffc7fe7ffffffffff (.vcvtF32E5m2 (fld w 76 6) (fld w 70 6) (fld w 43 2) (fld w 55 3))
  | 0x13a => zeroIn w 0xffffc7ffffffffff (.vqmx4 (fld w 76 6) (fld w 64 6) (fld w 70 6) (fld w 43 3))
  | 0x13b => zeroIn w 0xffffe7ffffffffff (.vqmx8 (fld w 76 6) (fld w 64 6) (fld w 70 6) (fld w 43 2))
  | 0x13c => zeroIn w 0xfc7fc7ffffffffff (.vdqmx4 (fld w 76 6) (fld w 70 6) (fld w 64 6) (fld w 43 3) (fld w 55 3))
  | 0x13d => zeroIn w 0x3ffc7fc7ffffffffff (.vxpS4 (fld w 76 6) (fld w 70 6) (fld w 43 3) (fld w 55 3))
  | 0x13e => zeroIn w 0x3fffff07ffffffffff (.vxpOcp4 (fld w 76 6) (fld w 70 6) (fld w 43 3) (fld w 46 2))
  | 0x13f => zeroIn w 0x3fffffffffffffffff (.vcvtBfpF32 (fld w 76 6) (fld w 70 6))
  | _ => none

/-- Opcodes 0x140 to 0x15f of the opcode map (R68). -/
def decodePage10 (w : BitVec 96) : Nat → Option Instr
  | 0x140 => zeroIn w 0x3ffc7fffffffffffff (.vcvtF32Bfp (fld w 76 6) (fld w 70 6) (fld w 55 3))
  | 0x141 => zeroIn w 0xfc7fffffffffffff (.vperm (fld w 76 6) (fld w 70 6) (fld w 64 6) (fld w 55 3))
  | 0x142 => zeroIn w 0x3ffc67ffffffffffff (.vswpPair (fld w 76 6) (fld w 70 6) (fld w 51 2) (fld w 55 3))
  | 0x143 => zeroIn w 0x3ffc7f07ffffffffff (.vrot (fld w 76 6) (fld w 70 6) (fld w 43 5) (fld w 55 3))
  | 0x144 => zeroIn w 0x3ffc7f07ffffffffff (.vbc (fld w 76 6) (fld w 70 6) (fld w 43 5) (fld w 55 3))
  | 0x145 => if fld w 51 4 = 1#4 then zeroIn w 0xe3fff87ffffffffffff (.vextMask (fld w 76 6) (fld w 70 3)) else zeroIn w 0x3fffff07ffffffffff (.vext (fld w 76 6) (fld w 70 6) (fld w 43 5))
  | 0x146 => if fld w 51 4 = 1#4 then zeroIn w 0x3803fff87ffffffffffff (.vinsMask (fld w 76 3) (fld w 70 6)) else zeroIn w 0x3fffff07ffffffffff (.vins (fld w 76 6) (fld w 70 6) (fld w 43 5))
  | 0x147 => zeroIn w 0xfffffffffc00000003f (.vli (fld w 76 6) (fld w 6 32))
  | 0x148 => zeroIn w 0x3ffc7fffffffffffff (.vmov (fld w 76 6) (fld w 70 6) (fld w 55 3))
  | 0x149 => zeroIn w 0x3ffc7fffffffffffff (.vredAddF32 (fld w 76 6) (fld w 70 6) (fld w 55 3))
  | 0x14a => zeroIn w 0x3ffc7fffffffffffff (.vredMaxF32 (fld w 76 6) (fld w 70 6) (fld w 55 3))
  | 0x14b => zeroIn w 0x3ffc7fffffffffffff (.vredAddS32 (fld w 76 6) (fld w 70 6) (fld w 55 3))
  | 0x14c => zeroIn w 0x3ffc7fffffffffffff (.vscanAddS32 (fld w 76 6) (fld w 70 6) (fld w 55 3))
  | 0x14d => zeroIn w 0xffffffffffffffff (.vpackS16 (fld w 76 6) (fld w 70 6) (fld w 64 6))
  | 0x14e => zeroIn w 0x3ffc7ff7ffffffffff (.vunpkS16 (fld w 76 6) (fld w 70 6) (fld w 43 1) (fld w 55 3))
  | 0x14f => zeroIn w 0xe3fffffffffffffffff (.vcntM (fld w 76 6) (fld w 70 3))
  | 0x150 => zeroIn w 0x3ffc7fffffffffffff (.vcomp (fld w 76 6) (fld w 70 6) (fld w 55 3))
  | 0x151 => zeroIn w 0x3ffc7fffffffffffff (.vexpd (fld w 76 6) (fld w 70 6) (fld w 55 3))
  | _ => none

/-- Opcodes 0x180 to 0x19f of the opcode map (R68). -/
noncomputable def decodePage12 (w : BitVec 96) : Nat → Option Instr
  | 0x180 => zeroIn w 0x3fffffffffffe03ffffff (.lease (fld w 26 7))
  | 0x181 => zeroIn w 0x3ffffffffffffffffffff (.unlease)
  | 0x182 => zeroIn w 0x3ff000003ffffffffffff (.tload (fld w 66 6) (fld w 58 8) (fld w 50 8))
  | 0x183 => zeroIn w 0x3ff (.tmma (fld w 78 4) (fld w 72 6) (fld w 66 6) (fld w 58 8) (fld w 50 8) (fld w 42 8) (fld w 10 32))
  | 0x184 => zeroIn w 0x3ff (.tmmaGa (fld w 78 4) (fld w 72 6) (fld w 66 6) (fld w 58 8) (fld w 50 8) (fld w 42 8) (fld w 10 32))
  | 0x185 => zeroIn w 0x3ffffc03ffffffffffff (.tzero (fld w 78 4) (fld w 50 8))
  | 0x186 => zeroIn w 0xffffc7007ffffffffff (.taccRd (fld w 76 6) (fld w 43 8) (fld w 51 1) (fld w 55 3))
  | 0x187 => zeroIn w 0x3f03ffc7807ffffffffff (.taccWr (fld w 70 6) (fld w 43 8) (fld w 55 3))
  | 0x188 => zeroIn w 0x3ffffffffc03ffffff (.tshape (fld w 76 6) (fld w 70 6) (fld w 26 8))
  | 0x189 => zeroIn w 0x3003fffffffffffffffff (.ftset (fld w 76 4) (fld w 70 6))
  | 0x18a => zeroIn w 0xc3fffffffffffffffff (.ftget (fld w 76 6) (fld w 70 4))
  | 0x18b => zeroIn w 0xffffffffffffc3fffff (.tcal (fld w 76 6) (fld w 22 4))
  | 0x190 => zeroIn w 0xffffffffff (.rminF32 (fld w 76 6) (fld w 70 6) (fld w 64 6) (fld w 58 6) (fld w 55 3) (fld w 48 7) (fld w 40 8))
  | 0x191 => zeroIn w 0xffffffffff (.rmaxF32 (fld w 76 6) (fld w 70 6) (fld w 64 6) (fld w 58 6) (fld w 55 3) (fld w 48 7) (fld w 40 8))
  | 0x192 => zeroIn w 0xffffffffff (.rminS32 (fld w 76 6) (fld w 70 6) (fld w 64 6) (fld w 58 6) (fld w 55 3) (fld w 48 7) (fld w 40 8))
  | 0x193 => zeroIn w 0xffffffffff (.rmaxS32 (fld w 76 6) (fld w 70 6) (fld w 64 6) (fld w 58 6) (fld w 55 3) (fld w 48 7) (fld w 40 8))
  | 0x194 => zeroIn w 0xffffffffff (.rsortF32 (fld w 76 6) (fld w 70 6) (fld w 64 6) (fld w 58 6) (fld w 55 3) (fld w 48 7) (fld w 40 8))
  | 0x195 => zeroIn w 0xffffffffff (.rsortdF32 (fld w 76 6) (fld w 70 6) (fld w 64 6) (fld w 58 6) (fld w 55 3) (fld w 48 7) (fld w 40 8))
  | 0x196 => zeroIn w 0xffffffffff (.rsortS32 (fld w 76 6) (fld w 70 6) (fld w 64 6) (fld w 58 6) (fld w 55 3) (fld w 48 7) (fld w 40 8))
  | 0x197 => zeroIn w 0xffffffffff (.rtopkF32 (fld w 76 6) (fld w 70 6) (fld w 64 6) (fld w 58 6) (fld w 55 3) (fld w 48 7) (fld w 40 8))
  | 0x198 => zeroIn w 0xffffffffff (.rbotkF32 (fld w 76 6) (fld w 70 6) (fld w 64 6) (fld w 58 6) (fld w 55 3) (fld w 48 7) (fld w 40 8))
  | 0x199 => zeroIn w 0xffffffffff (.rtopkS32 (fld w 76 6) (fld w 70 6) (fld w 64 6) (fld w 58 6) (fld w 55 3) (fld w 48 7) (fld w 40 8))
  | 0x19a => zeroIn w 0xffffffffff (.rmergeF32 (fld w 76 6) (fld w 70 6) (fld w 64 6) (fld w 58 6) (fld w 55 3) (fld w 48 7) (fld w 40 8))
  | 0x19b => zeroIn w 0xffffffffff (.rmergdF32 (fld w 76 6) (fld w 70 6) (fld w 64 6) (fld w 58 6) (fld w 55 3) (fld w 48 7) (fld w 40 8))
  | 0x19c => zeroIn w 0xffffffffff (.rknnF32 (fld w 76 6) (fld w 70 6) (fld w 64 6) (fld w 58 6) (fld w 55 3) (fld w 48 7) (fld w 40 8))
  | _ => none

/-- Opcodes 0x1c0 to 0x1df of the opcode map (R68). -/
noncomputable def decodePage14 (w : BitVec 96) : Nat → Option Instr
  | 0x1c0 => zeroIn w 0x3f03ffffc000003ffffff (.tbinit (fld w 70 6) (fld w 26 12) (fld w 38 4) (fld w 42 4) (fld w 46 4))
  | 0x1c1 => zeroIn w 0x3f03fffffffc003ffffff (.tbexpect (fld w 70 6) (fld w 26 12))
  | 0x1c2 => zeroIn w 0x3fffffff8003ffffff (.tbarrive (fld w 76 6) (fld w 70 6) (fld w 26 12) (fld w 38 1))
  | 0x1c3 => zeroIn w 0x3f03fffffffc003ffffff (.tbwait (fld w 70 6) (fld w 26 12))
  | 0x1c4 => zeroIn w 0x3803fffffffc003ffffff (.tbtest (fld w 76 3) (fld w 70 6) (fld w 26 12))
  | 0x1c5 => zeroIn w 0x3ffffffffffc003ffffff (.tbretire (fld w 26 12))
  | 0x1c6 => zeroIn w 0x3ffc3fffffffffbffffff (.sopen (fld w 66 4) (fld w 26 1))
  | 0x1c7 => zeroIn w 0x3ffffffffffffffff (.sput (fld w 76 6) (fld w 66 4) (fld w 70 6))
  | 0x1c8 => zeroIn w 0x3ffffffffffffffff (.sget (fld w 76 6) (fld w 66 4) (fld w 70 6))
  | 0x1c9 => zeroIn w 0x3ffc3fffffffff3ffffff (.sclose (fld w 66 4) (fld w 26 2))
  | 0x1ca => zeroIn w 0xfc3ffffffffffffffff (.sstat (fld w 76 6) (fld w 66 4))
  | 0x1cb => zeroIn w 0x3f033ffffffffffffffff (.qput (fld w 70 6) (fld w 66 2))
  | 0x1cc => zeroIn w 0xff3ffffffff83ffffff (.qget (fld w 76 6) (fld w 66 2) (fld w 26 4) (fld w 30 1))
  | 0x1cd => zeroIn w 0x3f033ffffffffffffffff (.qputv (fld w 70 6) (fld w 66 2))
  | 0x1ce => zeroIn w 0xff3ffffffffbfffffff (.qgetv (fld w 76 6) (fld w 66 2) (fld w 30 1))
  | 0x1cf => zeroIn w 0xfc3ffffffffffffffff (.kget (fld w 76 6) (fld w 66 4))
  | _ => none

/-- The operand area read by the row of the major opcode (R58, R68), before the range checks. -/
noncomputable def decodeOp (w : BitVec 96) : Option Instr :=
  let op := (fld w 86 9).toNat
  match op / 32 with
  | 0 => decodePage0 w op
  | 1 => decodePage1 w op
  | 2 => decodePage2 w op
  | 3 => decodePage3 w op
  | 4 => decodePage4 w op
  | 5 => decodePage5 w op
  | 6 => decodePage6 w op
  | 8 => decodePage8 w op
  | 9 => decodePage9 w op
  | 10 => decodePage10 w op
  | 12 => decodePage12 w op
  | 14 => decodePage14 w op
  | _ => none

/-- An instruction word (R58): stop bit, opcode, guard, operands; none where R60 calls the encoding illegal. -/
noncomputable def decodeWord (w : BitVec 96) : Option Insn :=
  match decodeOp w with
  | none => none
  | some i =>
    let x : Insn := { stop := fld w 95 1 == 1#1, gn := fld w 85 1 == 1#1, gp := fld w 82 3, op := i }
    if x.wf then some x else none

/-- Twelve bytes, lowest address first, as a word (R4). -/
def wordOfBytes (bs : List (BitVec 8)) : BitVec 96 :=
  BitVec.ofNat 96 (bs.foldr (fun b acc => acc * 256 + b.toNat) 0)

/-- Decoding a byte string: the first twelve bytes are the word, the rest follows (R58, R4); none on fewer. -/
noncomputable def decodeBytes (bs : List (BitVec 8)) : Option (Insn × List (BitVec 8)) :=
  if bs.length < 12 then none
  else (decodeWord (wordOfBytes (bs.take 12))).map fun i => (i, bs.drop 12)

/-- A table row's bits: the 96 bits of a word, missing high bits zero. -/
noncomputable def decodeTableWord (nbits w : Nat) : Option Instr :=
  if nbits ≤ 96 then (decodeWord (BitVec.ofNat 96 w)).map (·.op) else none

/-- The major opcode of an instruction (R68); none for a step of the module. -/
def Instr.opcode? : Instr → Option (BitVec 9)
  | .nop => some 0x000#9
  | .br _ _ _ _ => some 0x001#9
  | .jmp _ => some 0x003#9
  | .jmpi _ _ => some 0x004#9
  | .call _ => some 0x005#9
  | .calli _ _ => some 0x006#9
  | .ret => some 0x007#9
  | .loopLc _ _ => some 0x008#9
  | .loopNest _ => some 0x008#9
  | .lset _ _ _ => some 0x009#9
  | .rep _ _ _ _ _ _ => some 0x00a#9
  | .lnest _ _ _ _ => some 0x00b#9
  | .brq _ _ => some 0x00d#9
  | .pushbq _ _ _ => some 0x00e#9
  | .defer _ _ _ _ => some 0x00f#9
  | .drain _ _ _ _ => some 0x010#9
  | .post _ => some 0x011#9
  | .await _ => some 0x012#9
  | .kget _ _ => some 0x1cf#9
  | .trap _ _ => some 0x013#9
  | .brk _ => some 0x014#9
  | .csrr _ _ => some 0x015#9
  | .csrw _ _ => some 0x016#9
  | .fenceCore => some 0x017#9
  | .fenceIsle => some 0x018#9
  | .fenceMod => some 0x019#9
  | .fenceSys => some 0x01a#9
  | .doneOp => some 0x01c#9
  | .dbar _ => some 0x01d#9
  | .dbarA _ _ => some 0x01e#9
  | .dbarW _ _ => some 0x01f#9
  | .awaitMem _ _ _ _ _ => some 0x020#9
  | .add _ _ _ => some 0x040#9
  | .sub _ _ _ => some 0x041#9
  | .addi _ _ _ => some 0x042#9
  | .li _ _ => some 0x043#9
  | .mov _ _ => some 0x044#9
  | .mul _ _ _ => some 0x045#9
  | .mulhS _ _ _ => some 0x046#9
  | .mulhZ _ _ _ => some 0x047#9
  | .mad _ _ _ _ => some 0x048#9
  | .divS _ _ _ => some 0x049#9
  | .divZ _ _ _ => some 0x04a#9
  | .remS _ _ _ => some 0x04b#9
  | .remZ _ _ _ => some 0x04c#9
  | .and _ _ _ => some 0x04d#9
  | .or _ _ _ => some 0x04e#9
  | .xor _ _ _ => some 0x04f#9
  | .andn _ _ _ => some 0x050#9
  | .shl _ _ _ => some 0x051#9
  | .shrZ _ _ _ => some 0x052#9
  | .shrS _ _ _ => some 0x053#9
  | .rotl _ _ _ => some 0x054#9
  | .clz _ _ => some 0x055#9
  | .ctz _ _ => some 0x056#9
  | .popc _ _ => some 0x057#9
  | .minS _ _ _ => some 0x058#9
  | .minZ _ _ _ => some 0x059#9
  | .maxS _ _ _ => some 0x05a#9
  | .maxZ _ _ _ => some 0x05b#9
  | .sel _ _ _ _ => some 0x05c#9
  | .cmp _ _ _ _ => some 0x05d#9
  | .cmpi _ _ _ _ => some 0x05e#9
  | .pmix _ _ _ _ => some 0x05f#9
  | .extS8 _ _ => some 0x060#9
  | .extS16 _ _ => some 0x061#9
  | .extS32 _ _ => some 0x062#9
  | .extZ8 _ _ => some 0x063#9
  | .extZ16 _ _ => some 0x064#9
  | .extZ32 _ _ => some 0x065#9
  | .addsS64 _ _ _ => some 0x066#9
  | .bfx _ _ _ _ _ => some 0x067#9
  | .bfi _ _ _ _ => some 0x068#9
  | .rnd _ _ _ _ _ => some 0x069#9
  | .cmov _ _ => some 0x080#9
  | .cinc _ _ _ => some 0x081#9
  | .cinci _ _ _ => some 0x082#9
  | .cbound _ _ _ => some 0x083#9
  | .cperm _ _ _ => some 0x084#9
  | .cgetb _ _ => some 0x085#9
  | .cgetl _ _ => some 0x086#9
  | .cgeto _ _ => some 0x087#9
  | .cgetp _ _ => some 0x088#9
  | .ctest _ _ => some 0x089#9
  | .cle _ _ _ => some 0x08a#9
  | .cclr _ => some 0x08b#9
  | .caddr _ _ _ => some 0x08c#9
  | .cld _ _ _ _ _ => some 0x08d#9
  | .cst _ _ _ _ _ => some 0x08e#9
  | .cfoot _ _ => some 0x08f#9
  | .ldS8 _ _ _ _ _ => some 0x0a0#9
  | .ldZ8 _ _ _ _ _ => some 0x0a1#9
  | .ldS16 _ _ _ _ _ => some 0x0a2#9
  | .ldZ16 _ _ _ _ _ => some 0x0a3#9
  | .ldS32 _ _ _ _ _ => some 0x0a4#9
  | .ldZ32 _ _ _ _ _ => some 0x0a5#9
  | .ld64 _ _ _ _ _ => some 0x0a6#9
  | .st8 _ _ _ _ _ => some 0x0a7#9
  | .st16 _ _ _ _ _ => some 0x0a8#9
  | .st32 _ _ _ _ _ => some 0x0a9#9
  | .st64 _ _ _ _ _ => some 0x0aa#9
  | .vld _ _ _ _ _ => some 0x0ab#9
  | .vst _ _ _ _ _ => some 0x0ac#9
  | .vldBc _ _ _ _ _ => some 0x0ad#9
  | .vgath _ _ _ _ _ => some 0x0ae#9
  | .vscat _ _ _ _ _ => some 0x0af#9
  | .ldfeW _ _ _ _ _ => some 0x0b0#9
  | .ldfeC _ _ _ _ _ => some 0x0b1#9
  | .vldfeW _ _ _ _ _ => some 0x0b2#9
  | .vldfeC _ _ _ _ _ => some 0x0b3#9
  | .fset _ _ _ _ _ => some 0x0b4#9
  | .fclr _ _ _ _ _ => some 0x0b5#9
  | .ftest _ _ _ _ _ => some 0x0b6#9
  | .ldn _ _ _ _ _ _ => some 0x0b7#9
  | .vldn _ _ _ _ _ _ => some 0x0b8#9
  | .xget _ _ _ _ _ _ _ => some 0x0c0#9
  | .xput _ _ _ _ _ _ _ _ => some 0x0c1#9
  | .xmove _ _ _ _ _ _ _ _ => some 0x0c2#9
  | .xgat _ _ _ _ _ _ _ _ _ => some 0x0c3#9
  | .xsct _ _ _ _ _ _ _ _ _ _ => some 0x0c4#9
  | .xget2d _ _ _ _ _ _ _ _ _ _ => some 0x0c5#9
  | .xput2d _ _ _ _ _ _ _ _ _ _ _ => some 0x0c6#9
  | .xfill _ _ _ _ _ _ _ => some 0x0c7#9
  | .xaccAddS32 _ _ _ _ _ _ => some 0x0c8#9
  | .xaccAddS64 _ _ _ _ _ _ => some 0x0c9#9
  | .xaccAddF32 _ _ _ _ _ _ _ => some 0x0ca#9
  | .xaccMinS32 _ _ _ _ _ _ => some 0x0cb#9
  | .xaccMaxS32 _ _ _ _ _ _ => some 0x0cc#9
  | .xaccMinF32 _ _ _ _ _ _ => some 0x0cd#9
  | .xaccMaxF32 _ _ _ _ _ _ => some 0x0ce#9
  | .xaccAnd _ _ _ _ _ _ => some 0x0cf#9
  | .xaccOr _ _ _ _ _ _ => some 0x0d0#9
  | .xaccXor _ _ _ _ _ _ => some 0x0d1#9
  | .xfaddS32 _ _ _ _ _ _ _ _ => some 0x0d2#9
  | .xfaddS64 _ _ _ _ _ _ _ _ => some 0x0d3#9
  | .xswp _ _ _ _ _ _ _ _ => some 0x0d4#9
  | .xcas _ _ _ _ _ _ _ _ _ => some 0x0d5#9
  | .xcasGo _ _ _ _ _ _ _ _ _ _ => some 0x0d6#9
  | .xclose _ _ => some 0x0d7#9
  | .xwaitIn _ _ => some 0x0d8#9
  | .xwaitRel _ _ => some 0x0d9#9
  | .xwaitVis _ _ => some 0x0da#9
  | .xid _ _ _ => some 0x0db#9
  | .xorder => some 0x0dc#9
  | .vaddF32 _ _ _ _ => some 0x100#9
  | .vsubF32 _ _ _ _ => some 0x101#9
  | .vmulF32 _ _ _ _ => some 0x102#9
  | .vfmaF32 _ _ _ _ _ => some 0x103#9
  | .vfmsF32 _ _ _ _ _ => some 0x104#9
  | .vfnmaF32 _ _ _ _ _ => some 0x105#9
  | .vminF32 _ _ _ _ => some 0x106#9
  | .vmaxF32 _ _ _ _ => some 0x107#9
  | .vabsF32 _ _ _ => some 0x108#9
  | .vnegF32 _ _ _ => some 0x109#9
  | .vdivF32 _ _ _ _ => some 0x10a#9
  | .vsqrtF32 _ _ _ => some 0x10b#9
  | .vrcpF32 _ _ _ => some 0x10c#9
  | .vrsqrtF32 _ _ _ => some 0x10d#9
  | .vexp2F32 _ _ _ => some 0x10e#9
  | .vlog2F32 _ _ _ => some 0x10f#9
  | .vsinpiF32 _ _ _ => some 0x110#9
  | .vcospiF32 _ _ _ => some 0x111#9
  | .vtanhF32 _ _ _ => some 0x112#9
  | .vrrpi _ _ _ => some 0x113#9
  | .vfloorF32 _ _ _ => some 0x114#9
  | .vrintF32 _ _ _ => some 0x115#9
  | .vcmpF32 _ _ _ _ _ => some 0x116#9
  | .vclassF32 _ _ _ => some 0x117#9
  | .vaddBf16 _ _ _ _ => some 0x118#9
  | .vmulBf16 _ _ _ _ => some 0x119#9
  | .vfmaBf16 _ _ _ _ _ => some 0x11a#9
  | .vaddS32 _ _ _ _ => some 0x11b#9
  | .vsubS32 _ _ _ _ => some 0x11c#9
  | .vmulS32 _ _ _ _ => some 0x11d#9
  | .vmadS16 _ _ _ _ _ => some 0x11e#9
  | .vaddsS32 _ _ _ _ => some 0x11f#9
  | .vsubsS32 _ _ _ _ => some 0x120#9
  | .vminS32 _ _ _ _ => some 0x121#9
  | .vmaxS32 _ _ _ _ => some 0x122#9
  | .vminZ32 _ _ _ _ => some 0x123#9
  | .vmaxZ32 _ _ _ _ => some 0x124#9
  | .vand _ _ _ _ => some 0x125#9
  | .vor _ _ _ _ => some 0x126#9
  | .vxor _ _ _ _ => some 0x127#9
  | .vshl _ _ _ _ => some 0x128#9
  | .vshlImm _ _ _ _ => some 0x128#9
  | .vshrZ _ _ _ _ => some 0x129#9
  | .vshrZImm _ _ _ _ => some 0x129#9
  | .vshrS _ _ _ _ => some 0x12a#9
  | .vshrSImm _ _ _ _ => some 0x12a#9
  | .vcmpS32 _ _ _ _ _ => some 0x12b#9
  | .vcmpZ32 _ _ _ _ _ => some 0x12c#9
  | .vsel _ _ _ _ => some 0x12d#9
  | .vmask _ _ _ _ => some 0x12e#9
  | .vcvtF32S32 _ _ _ => some 0x130#9
  | .vcvtS32F32Rne _ _ _ => some 0x131#9
  | .vcvtS32F32Rz _ _ _ => some 0x132#9
  | .vcvtBf16F32 _ _ _ => some 0x133#9
  | .vcvtF32Bf16 _ _ _ _ => some 0x134#9
  | .vcvtE4m3F32 _ _ _ => some 0x135#9
  | .vcvtE4m3F32Nv _ _ _ => some 0x136#9
  | .vcvtE5m2F32 _ _ _ => some 0x137#9
  | .vcvtF32E4m3 _ _ _ _ => some 0x138#9
  | .vcvtF32E5m2 _ _ _ _ => some 0x139#9
  | .vqmx4 _ _ _ _ => some 0x13a#9
  | .vqmx8 _ _ _ _ => some 0x13b#9
  | .vdqmx4 _ _ _ _ _ => some 0x13c#9
  | .vxpS4 _ _ _ _ => some 0x13d#9
  | .vxpOcp4 _ _ _ _ => some 0x13e#9
  | .vcvtBfpF32 _ _ => some 0x13f#9
  | .vcvtF32Bfp _ _ _ => some 0x140#9
  | .vperm _ _ _ _ => some 0x141#9
  | .vswpPair _ _ _ _ => some 0x142#9
  | .vrot _ _ _ _ => some 0x143#9
  | .vbc _ _ _ _ => some 0x144#9
  | .vext _ _ _ => some 0x145#9
  | .vextMask _ _ => some 0x145#9
  | .vins _ _ _ => some 0x146#9
  | .vinsMask _ _ => some 0x146#9
  | .vli _ _ => some 0x147#9
  | .vmov _ _ _ => some 0x148#9
  | .vredAddF32 _ _ _ => some 0x149#9
  | .vredMaxF32 _ _ _ => some 0x14a#9
  | .vredAddS32 _ _ _ => some 0x14b#9
  | .vscanAddS32 _ _ _ => some 0x14c#9
  | .vpackS16 _ _ _ => some 0x14d#9
  | .vunpkS16 _ _ _ _ => some 0x14e#9
  | .vcntM _ _ => some 0x14f#9
  | .vcomp _ _ _ => some 0x150#9
  | .vexpd _ _ _ => some 0x151#9
  | .lease _ => some 0x180#9
  | .unlease => some 0x181#9
  | .tload _ _ _ => some 0x182#9
  | .tmma _ _ _ _ _ _ _ => some 0x183#9
  | .tmmaGa _ _ _ _ _ _ _ => some 0x184#9
  | .tzero _ _ => some 0x185#9
  | .taccRd _ _ _ _ => some 0x186#9
  | .taccWr _ _ _ => some 0x187#9
  | .tshape _ _ _ => some 0x188#9
  | .ftset _ _ => some 0x189#9
  | .ftget _ _ => some 0x18a#9
  | .tcal _ _ => some 0x18b#9
  | .rminF32 _ _ _ _ _ _ _ => some 0x190#9
  | .rmaxF32 _ _ _ _ _ _ _ => some 0x191#9
  | .rminS32 _ _ _ _ _ _ _ => some 0x192#9
  | .rmaxS32 _ _ _ _ _ _ _ => some 0x193#9
  | .rsortF32 _ _ _ _ _ _ _ => some 0x194#9
  | .rsortdF32 _ _ _ _ _ _ _ => some 0x195#9
  | .rsortS32 _ _ _ _ _ _ _ => some 0x196#9
  | .rtopkF32 _ _ _ _ _ _ _ => some 0x197#9
  | .rbotkF32 _ _ _ _ _ _ _ => some 0x198#9
  | .rtopkS32 _ _ _ _ _ _ _ => some 0x199#9
  | .rmergeF32 _ _ _ _ _ _ _ => some 0x19a#9
  | .rmergdF32 _ _ _ _ _ _ _ => some 0x19b#9
  | .rknnF32 _ _ _ _ _ _ _ => some 0x19c#9
  | .tbinit _ _ _ _ _ => some 0x1c0#9
  | .tbexpect _ _ => some 0x1c1#9
  | .tbarrive _ _ _ _ => some 0x1c2#9
  | .tbwait _ _ => some 0x1c3#9
  | .tbtest _ _ _ => some 0x1c4#9
  | .tbretire _ => some 0x1c5#9
  | .sopen _ _ => some 0x1c6#9
  | .sput _ _ _ => some 0x1c7#9
  | .sget _ _ _ => some 0x1c8#9
  | .sclose _ _ => some 0x1c9#9
  | .sstat _ _ => some 0x1ca#9
  | .qput _ _ => some 0x1cb#9
  | .qget _ _ _ _ => some 0x1cc#9
  | .qputv _ _ => some 0x1cd#9
  | .qgetv _ _ _ => some 0x1ce#9
  | .sectionEntry _ _ => none
  | .taskStart _ => none
  | .taskRetirement _ => none
  | .landDue _ _ => none
  | .freezeEnd _ => none
  | .copyCommandStart _ _ => none
  | .copyProgress _ _ => none
  | .copyVisible _ _ => none
  | .xorderHead _ _ => none
  | .xorderLeave _ _ => none
  | .pageWalkComplete _ _ => none
  | .ituinvVa _ _ _ => none
  | .ituinvContext _ _ => none
  | .ituinvAll _ => none
  | .ituinvComplete _ => none
  | .leaseGrant _ _ => none
  | .tileReady _ _ _ => none
  | .raceReady _ _ _ => none
  | .calibrationMark _ _ => none
  | .sliceRequest _ _ _ _ => none
  | .scrubLine _ _ _ => none
  | .rowTrackLeak _ _ => none
  | .rowSpareStart _ _ _ _ => none
  | .spareLineCopy _ _ => none
  | .atomicApply _ _ => none
  | .roundRequestAccept _ _ => none
  | .roundCloseNotice _ _ _ _ => none
  | .roundApply _ _ _ _ _ => none
  | .atomicLanding _ _ => none
  | .monitorRequest _ _ => none
  | .monitorTimeout _ _ => none
  | .sputPublish _ _ => none
  | .sgetCopyComplete _ _ => none
  | .entryRelease _ _ => none
  | .frameScheduledEnd _ => none
  | .slipLimit _ => none
  | .frameComplete _ _ => none
  | .frameStart _ => none
  | .launchAbort _ => none
  | .trapRecordService _ => none
  | .cctlResume _ => none
  | .lctlAbort _ => none
  | .machineFault _ => none
  | .temperatureSample _ _ _ => none
  | .thermalGapStep _ _ => none
  | .dbnotify _ _ => none
  | .queueMap _ => none
  | .queueUnmap _ => none
  | .qcmdMap _ _ => none
  | .qcmdUnmap _ _ => none
  | .qcmdClearFault _ _ => none
  | .attnService _ => none
  | .packetFetch _ => none
  | .launch _ => none
  | .callPacket _ => none
  | .returnPacket _ => none
  | .join _ => none
  | .copy _ => none
  | .signal _ => none
  | .waitvalue _ => none
  | .waitvaluePoll _ => none
  | .waitvalueTimeout _ => none
  | .preempt _ => none
  | .refine _ => none
  | .refineRunEnd _ => none
  | .harbourRestart => none
  | .flitReceive _ _ _ => none
  | .flitReplay _ => none
  | .portDown _ _ => none
  | .portUp _ => none
  | .rtgenFlip _ _ => none
  | .ringdescWrite _ _ _ => none
  | .registerWrite _ _ => none
  | .tick => none
  | .powerGood => none
  | .bootStageComplete => none
  | .recoveryImage _ => none
  | .unitTrainingComplete _ => none
  | .attestationRequest _ => none
  | .islePowerGate _ => none
  | .isleWake _ => none
  | .calibrationComplete _ _ _ _ => none
  | .perBankRefresh _ _ _ _ => none

/-- The operand area of an instruction's word (R61), fields from the highest down. -/
def Instr.area : Instr → BitVec 82
  | .nop => 0#82
  | .br cnd a b disp => a ++ b ++ cnd ++ 0#2 ++ disp ++ 0#32
  | .jmp disp => 0#18 ++ disp ++ 0#32
  | .jmpi a imm => a ++ 0#44 ++ imm
  | .call disp => 0#18 ++ disp ++ 0#32
  | .calli a imm => a ++ 0#44 ++ imm
  | .ret => 0#82
  | .loopLc lc disp => 0#16 ++ lc ++ disp ++ 0#32
  | .loopNest disp => 0#18 ++ disp ++ 1#32
  | .lset lc a imm => a ++ 0#10 ++ lc ++ 0#32 ++ imm
  | .rep n sd s1 s2 s3 soff => 0#12 ++ soff ++ s3 ++ s2 ++ s1 ++ sd ++ n ++ 0#6
  | .lnest cb x sc off => 0#6 ++ cb ++ x ++ 0#1 ++ sc ++ off ++ 0#30
  | .brq disp n => 0#18 ++ disp ++ 0#31 ++ n
  | .pushbq cnd a b => a ++ b ++ cnd ++ 0#66
  | .defer va mk cnt tag => 0#6 ++ va ++ 0#12 ++ mk ++ cnt ++ 0#6 ++ tag ++ 0#43
  | .drain a vb disp tag => a ++ vb ++ 0#6 ++ disp ++ 0#30 ++ tag
  | .post k => 0#12 ++ k ++ 0#66
  | .await k => 0#12 ++ k ++ 0#66
  | .kget d k => d ++ 0#6 ++ k ++ 0#66
  | .trap a imm => 0#6 ++ a ++ 0#16 ++ imm ++ 0#22
  | .brk imm => 0#28 ++ imm ++ 0#22
  | .csrr d csr => d ++ 0#6 ++ csr ++ 0#54
  | .csrw a csr => 0#6 ++ a ++ csr ++ 0#54
  | .fenceCore => 0#82
  | .fenceIsle => 0#82
  | .fenceMod => 0#82
  | .fenceSys => 0#82
  | .doneOp => 0#82
  | .dbar lv => 0#16 ++ lv ++ 0#58
  | .dbarA d lv => d ++ 0#10 ++ lv ++ 0#58
  | .dbarW a lv => 0#6 ++ a ++ 0#4 ++ lv ++ 0#58
  | .awaitMem d cb x sc off => d ++ cb ++ x ++ 0#1 ++ sc ++ off ++ 0#30
  | .add d a b => d ++ a ++ b ++ 0#64
  | .sub d a b => d ++ a ++ b ++ 0#64
  | .addi d a imm => d ++ a ++ imm ++ 0#6
  | .li d imm => d ++ 0#6 ++ imm ++ 0#6
  | .mov d a => d ++ a ++ 0#70
  | .mul d a b => d ++ a ++ b ++ 0#64
  | .mulhS d a b => d ++ a ++ b ++ 0#64
  | .mulhZ d a b => d ++ a ++ b ++ 0#64
  | .mad d a b c => d ++ a ++ b ++ c ++ 0#58
  | .divS d a b => d ++ a ++ b ++ 0#64
  | .divZ d a b => d ++ a ++ b ++ 0#64
  | .remS d a b => d ++ a ++ b ++ 0#64
  | .remZ d a b => d ++ a ++ b ++ 0#64
  | .and d a b => d ++ a ++ b ++ 0#64
  | .or d a b => d ++ a ++ b ++ 0#64
  | .xor d a b => d ++ a ++ b ++ 0#64
  | .andn d a b => d ++ a ++ b ++ 0#64
  | .shl d a b => d ++ a ++ b ++ 0#64
  | .shrZ d a b => d ++ a ++ b ++ 0#64
  | .shrS d a b => d ++ a ++ b ++ 0#64
  | .rotl d a b => d ++ a ++ b ++ 0#64
  | .clz d a => d ++ a ++ 0#70
  | .ctz d a => d ++ a ++ 0#70
  | .popc d a => d ++ a ++ 0#70
  | .minS d a b => d ++ a ++ b ++ 0#64
  | .minZ d a b => d ++ a ++ b ++ 0#64
  | .maxS d a b => d ++ a ++ b ++ 0#64
  | .maxZ d a b => d ++ a ++ b ++ 0#64
  | .sel d a b c => d ++ a ++ b ++ 0#3 ++ c ++ 0#58
  | .cmp cnd d a b => 0#3 ++ d ++ a ++ b ++ 0#6 ++ cnd ++ 0#54
  | .cmpi cnd d a imm => 0#3 ++ d ++ a ++ cnd ++ imm ++ 0#6
  | .pmix d a b t => 0#3 ++ d ++ 0#3 ++ a ++ 0#3 ++ b ++ 0#6 ++ t ++ 0#54
  | .extS8 d a => d ++ a ++ 0#70
  | .extS16 d a => d ++ a ++ 0#70
  | .extS32 d a => d ++ a ++ 0#70
  | .extZ8 d a => d ++ a ++ 0#70
  | .extZ16 d a => d ++ a ++ 0#70
  | .extZ32 d a => d ++ a ++ 0#70
  | .addsS64 d a b => d ++ a ++ b ++ 0#64
  | .bfx d a pos len sx => d ++ a ++ 0#50 ++ sx ++ len ++ pos ++ 0#6
  | .bfi d a pos len => d ++ a ++ 0#51 ++ len ++ pos ++ 0#6
  | .rnd d a b c w => d ++ a ++ b ++ c ++ 0#2 ++ w ++ 0#54
  | .cmov d a => 0#2 ++ d ++ 0#2 ++ a ++ 0#70
  | .cinc d a b => 0#2 ++ d ++ 0#2 ++ a ++ b ++ 0#64
  | .cinci d a imm => 0#2 ++ d ++ 0#2 ++ a ++ imm ++ 0#6
  | .cbound d a b => 0#2 ++ d ++ 0#2 ++ a ++ b ++ 0#64
  | .cperm d a mask => 0#2 ++ d ++ 0#2 ++ a ++ 0#52 ++ mask ++ 0#6
  | .cgetb d a => d ++ 0#2 ++ a ++ 0#70
  | .cgetl d a => d ++ 0#2 ++ a ++ 0#70
  | .cgeto d a => d ++ 0#2 ++ a ++ 0#70
  | .cgetp d a => d ++ 0#2 ++ a ++ 0#70
  | .ctest d a => 0#3 ++ d ++ 0#2 ++ a ++ 0#70
  | .cle d a b => 0#3 ++ d ++ 0#2 ++ a ++ 0#2 ++ b ++ 0#64
  | .cclr d => 0#2 ++ d ++ 0#76
  | .caddr d a b => 0#2 ++ d ++ 0#2 ++ a ++ b ++ 0#64
  | .cld d cb x sc off => 0#2 ++ d ++ cb ++ x ++ 0#1 ++ sc ++ off ++ 0#30
  | .cst d cb x sc off => 0#2 ++ d ++ cb ++ x ++ 0#1 ++ sc ++ off ++ 0#30
  | .cfoot d k => 0#2 ++ d ++ 0#67 ++ k ++ 0#6
  | .ldS8 d cb x sc off => d ++ cb ++ x ++ 0#1 ++ sc ++ off ++ 0#30
  | .ldZ8 d cb x sc off => d ++ cb ++ x ++ 0#1 ++ sc ++ off ++ 0#30
  | .ldS16 d cb x sc off => d ++ cb ++ x ++ 0#1 ++ sc ++ off ++ 0#30
  | .ldZ16 d cb x sc off => d ++ cb ++ x ++ 0#1 ++ sc ++ off ++ 0#30
  | .ldS32 d cb x sc off => d ++ cb ++ x ++ 0#1 ++ sc ++ off ++ 0#30
  | .ldZ32 d cb x sc off => d ++ cb ++ x ++ 0#1 ++ sc ++ off ++ 0#30
  | .ld64 d cb x sc off => d ++ cb ++ x ++ 0#1 ++ sc ++ off ++ 0#30
  | .st8 d cb x sc off => d ++ cb ++ x ++ 0#1 ++ sc ++ off ++ 0#30
  | .st16 d cb x sc off => d ++ cb ++ x ++ 0#1 ++ sc ++ off ++ 0#30
  | .st32 d cb x sc off => d ++ cb ++ x ++ 0#1 ++ sc ++ off ++ 0#30
  | .st64 d cb x sc off => d ++ cb ++ x ++ 0#1 ++ sc ++ off ++ 0#30
  | .vld d cb x sc off => d ++ cb ++ x ++ 0#1 ++ sc ++ off ++ 0#30
  | .vst d cb x sc off => d ++ cb ++ x ++ 0#1 ++ sc ++ off ++ 0#30
  | .vldBc d cb x sc off => d ++ cb ++ x ++ 0#1 ++ sc ++ off ++ 0#30
  | .vgath d cb x sc off => d ++ cb ++ x ++ 0#1 ++ sc ++ off ++ 0#30
  | .vscat d cb x sc off => d ++ cb ++ x ++ 0#1 ++ sc ++ off ++ 0#30
  | .ldfeW d cb x sc off => d ++ cb ++ x ++ 0#1 ++ sc ++ off ++ 0#30
  | .ldfeC d cb x sc off => d ++ cb ++ x ++ 0#1 ++ sc ++ off ++ 0#30
  | .vldfeW d cb x sc off => d ++ cb ++ x ++ 0#1 ++ sc ++ off ++ 0#30
  | .vldfeC d cb x sc off => d ++ cb ++ x ++ 0#1 ++ sc ++ off ++ 0#30
  | .fset d cb x sc off => d ++ cb ++ x ++ 0#1 ++ sc ++ off ++ 0#30
  | .fclr d cb x sc off => d ++ cb ++ x ++ 0#1 ++ sc ++ off ++ 0#30
  | .ftest d cb x sc off => 0#3 ++ d ++ cb ++ x ++ 0#1 ++ sc ++ off ++ 0#30
  | .ldn d cb x sc off land => d ++ cb ++ x ++ 0#1 ++ sc ++ off ++ land ++ 0#24
  | .vldn d cb x sc off land => d ++ cb ++ x ++ 0#1 ++ sc ++ off ++ land ++ 0#24
  | .xget cd ob cs oa len ch tb => cs ++ cd ++ len ++ oa ++ ob ++ ch ++ tb ++ 0#40
  | .xput cd ob cs oa len ch tb vs => cs ++ cd ++ len ++ oa ++ ob ++ ch ++ tb ++ 0#37 ++ vs
  | .xmove cd ob cs oa len ch tb vs => cs ++ cd ++ len ++ oa ++ ob ++ ch ++ tb ++ 0#37 ++ vs
  | .xgat cd ob cs oa len v w ch tb => cs ++ cd ++ len ++ oa ++ ob ++ ch ++ tb ++ 0#12 ++ v ++ w ++ 0#16
  | .xsct cd ob cs oa len v w ch tb vs => cs ++ cd ++ len ++ oa ++ ob ++ ch ++ tb ++ 0#12 ++ v ++ w ++ 0#13 ++ vs
  | .xget2d cd ob w cs oa v len ch tb rows => cs ++ cd ++ len ++ oa ++ ob ++ ch ++ tb ++ 0#12 ++ v ++ w ++ rows ++ 0#3
  | .xput2d cd ob w cs oa v len ch tb rows vs => cs ++ cd ++ len ++ oa ++ ob ++ ch ++ tb ++ 0#12 ++ v ++ w ++ rows ++ vs
  | .xfill cd ob v len ch tb vs => 0#4 ++ cd ++ len ++ 0#6 ++ ob ++ ch ++ tb ++ 0#12 ++ v ++ 0#19 ++ vs
  | .xaccAddS32 cd ob cs oa len ch => cs ++ cd ++ len ++ oa ++ ob ++ ch ++ 0#52
  | .xaccAddS64 cd ob cs oa len ch => cs ++ cd ++ len ++ oa ++ ob ++ ch ++ 0#52
  | .xaccAddF32 cd ob cs oa len ch rt => cs ++ cd ++ len ++ oa ++ ob ++ ch ++ 0#40 ++ rt
  | .xaccMinS32 cd ob cs oa len ch => cs ++ cd ++ len ++ oa ++ ob ++ ch ++ 0#52
  | .xaccMaxS32 cd ob cs oa len ch => cs ++ cd ++ len ++ oa ++ ob ++ ch ++ 0#52
  | .xaccMinF32 cd ob cs oa len ch => cs ++ cd ++ len ++ oa ++ ob ++ ch ++ 0#52
  | .xaccMaxF32 cd ob cs oa len ch => cs ++ cd ++ len ++ oa ++ ob ++ ch ++ 0#52
  | .xaccAnd cd ob cs oa len ch => cs ++ cd ++ len ++ oa ++ ob ++ ch ++ 0#52
  | .xaccOr cd ob cs oa len ch => cs ++ cd ++ len ++ oa ++ ob ++ ch ++ 0#52
  | .xaccXor cd ob cs oa len ch => cs ++ cd ++ len ++ oa ++ ob ++ ch ++ 0#52
  | .xfaddS32 cd ob v cl ol ch tb rt => cl ++ cd ++ 0#6 ++ ol ++ ob ++ ch ++ tb ++ 0#12 ++ v ++ 0#10 ++ rt
  | .xfaddS64 cd ob v cl ol ch tb rt => cl ++ cd ++ 0#6 ++ ol ++ ob ++ ch ++ tb ++ 0#12 ++ v ++ 0#10 ++ rt
  | .xswp cd ob v cl ol ch tb rt => cl ++ cd ++ 0#6 ++ ol ++ ob ++ ch ++ tb ++ 0#12 ++ v ++ 0#10 ++ rt
  | .xcas cd ob v w cl ol ch tb rt => cl ++ cd ++ 0#6 ++ ol ++ ob ++ ch ++ tb ++ 0#12 ++ v ++ w ++ 0#4 ++ rt
  | .xcasGo cd ob v w cl ol ch tb task rt => cl ++ cd ++ 0#6 ++ ol ++ ob ++ ch ++ tb ++ task ++ v ++ w ++ 0#4 ++ rt
  | .xclose ch rt => 0#26 ++ ch ++ 0#40 ++ rt
  | .xwaitIn v ch => 0#26 ++ ch ++ 0#24 ++ v ++ 0#22
  | .xwaitRel v ch => 0#26 ++ ch ++ 0#24 ++ v ++ 0#22
  | .xwaitVis v ch => 0#26 ++ ch ++ 0#24 ++ v ++ 0#22
  | .xid v ch aux => 0#26 ++ ch ++ 0#24 ++ v ++ 0#19 ++ aux
  | .xorder => 0#82
  | .vaddF32 vd va vb mk => vd ++ va ++ vb ++ 0#6 ++ mk ++ 0#55
  | .vsubF32 vd va vb mk => vd ++ va ++ vb ++ 0#6 ++ mk ++ 0#55
  | .vmulF32 vd va vb mk => vd ++ va ++ vb ++ 0#6 ++ mk ++ 0#55
  | .vfmaF32 vd va vb vc mk => vd ++ va ++ vb ++ vc ++ mk ++ 0#55
  | .vfmsF32 vd va vb vc mk => vd ++ va ++ vb ++ vc ++ mk ++ 0#55
  | .vfnmaF32 vd va vb vc mk => vd ++ va ++ vb ++ vc ++ mk ++ 0#55
  | .vminF32 vd va vb mk => vd ++ va ++ vb ++ 0#6 ++ mk ++ 0#55
  | .vmaxF32 vd va vb mk => vd ++ va ++ vb ++ 0#6 ++ mk ++ 0#55
  | .vabsF32 vd va mk => vd ++ va ++ 0#12 ++ mk ++ 0#55
  | .vnegF32 vd va mk => vd ++ va ++ 0#12 ++ mk ++ 0#55
  | .vdivF32 vd va vb mk => vd ++ va ++ vb ++ 0#6 ++ mk ++ 0#55
  | .vsqrtF32 vd va mk => vd ++ va ++ 0#12 ++ mk ++ 0#55
  | .vrcpF32 vd va mk => vd ++ va ++ 0#12 ++ mk ++ 0#55
  | .vrsqrtF32 vd va mk => vd ++ va ++ 0#12 ++ mk ++ 0#55
  | .vexp2F32 vd va mk => vd ++ va ++ 0#12 ++ mk ++ 0#55
  | .vlog2F32 vd va mk => vd ++ va ++ 0#12 ++ mk ++ 0#55
  | .vsinpiF32 vd va mk => vd ++ va ++ 0#12 ++ mk ++ 0#55
  | .vcospiF32 vd va mk => vd ++ va ++ 0#12 ++ mk ++ 0#55
  | .vtanhF32 vd va mk => vd ++ va ++ 0#12 ++ mk ++ 0#55
  | .vrrpi vd va mk => vd ++ va ++ 0#12 ++ mk ++ 0#55
  | .vfloorF32 vd va mk => vd ++ va ++ 0#12 ++ mk ++ 0#55
  | .vrintF32 vd va mk => vd ++ va ++ 0#12 ++ mk ++ 0#55
  | .vcmpF32 cc md va vb mk => 0#3 ++ md ++ va ++ vb ++ 0#6 ++ mk ++ cc ++ 0#51
  | .vclassF32 vd va mk => vd ++ va ++ 0#12 ++ mk ++ 0#55
  | .vaddBf16 vd va vb mk => vd ++ va ++ vb ++ 0#6 ++ mk ++ 0#55
  | .vmulBf16 vd va vb mk => vd ++ va ++ vb ++ 0#6 ++ mk ++ 0#55
  | .vfmaBf16 vd va vb vc mk => vd ++ va ++ vb ++ vc ++ mk ++ 0#55
  | .vaddS32 vd va vb mk => vd ++ va ++ vb ++ 0#6 ++ mk ++ 0#55
  | .vsubS32 vd va vb mk => vd ++ va ++ vb ++ 0#6 ++ mk ++ 0#55
  | .vmulS32 vd va vb mk => vd ++ va ++ vb ++ 0#6 ++ mk ++ 0#55
  | .vmadS16 vd va vb vc mk => vd ++ va ++ vb ++ vc ++ mk ++ 0#55
  | .vaddsS32 vd va vb mk => vd ++ va ++ vb ++ 0#6 ++ mk ++ 0#55
  | .vsubsS32 vd va vb mk => vd ++ va ++ vb ++ 0#6 ++ mk ++ 0#55
  | .vminS32 vd va vb mk => vd ++ va ++ vb ++ 0#6 ++ mk ++ 0#55
  | .vmaxS32 vd va vb mk => vd ++ va ++ vb ++ 0#6 ++ mk ++ 0#55
  | .vminZ32 vd va vb mk => vd ++ va ++ vb ++ 0#6 ++ mk ++ 0#55
  | .vmaxZ32 vd va vb mk => vd ++ va ++ vb ++ 0#6 ++ mk ++ 0#55
  | .vand vd va vb mk => vd ++ va ++ vb ++ 0#6 ++ mk ++ 0#55
  | .vor vd va vb mk => vd ++ va ++ vb ++ 0#6 ++ mk ++ 0#55
  | .vxor vd va vb mk => vd ++ va ++ vb ++ 0#6 ++ mk ++ 0#55
  | .vshl vd va vb mk => vd ++ va ++ vb ++ 0#6 ++ mk ++ 0#55
  | .vshlImm vd va n mk => vd ++ va ++ 0#12 ++ mk ++ 1#4 ++ 0#3 ++ n ++ 0#43
  | .vshrZ vd va vb mk => vd ++ va ++ vb ++ 0#6 ++ mk ++ 0#55
  | .vshrZImm vd va n mk => vd ++ va ++ 0#12 ++ mk ++ 1#4 ++ 0#3 ++ n ++ 0#43
  | .vshrS vd va vb mk => vd ++ va ++ vb ++ 0#6 ++ mk ++ 0#55
  | .vshrSImm vd va n mk => vd ++ va ++ 0#12 ++ mk ++ 1#4 ++ 0#3 ++ n ++ 0#43
  | .vcmpS32 cc md va vb mk => 0#3 ++ md ++ va ++ vb ++ 0#6 ++ mk ++ cc ++ 0#51
  | .vcmpZ32 cc md va vb mk => 0#3 ++ md ++ va ++ vb ++ 0#6 ++ mk ++ cc ++ 0#51
  | .vsel vd va vb mk => vd ++ va ++ vb ++ 0#6 ++ mk ++ 0#55
  | .vmask md ma mb t => 0#3 ++ md ++ 0#3 ++ ma ++ 0#3 ++ mb ++ 0#9 ++ t ++ 0#51
  | .vcvtF32S32 vd va mk => vd ++ va ++ 0#12 ++ mk ++ 0#55
  | .vcvtS32F32Rne vd va mk => vd ++ va ++ 0#12 ++ mk ++ 0#55
  | .vcvtS32F32Rz vd va mk => vd ++ va ++ 0#12 ++ mk ++ 0#55
  | .vcvtBf16F32 vd va vb => vd ++ va ++ vb ++ 0#64
  | .vcvtF32Bf16 vd va h mk => vd ++ va ++ 0#12 ++ mk ++ 0#11 ++ h ++ 0#43
  | .vcvtE4m3F32 vd va q => vd ++ va ++ 0#25 ++ q ++ 0#43
  | .vcvtE4m3F32Nv vd va q => vd ++ va ++ 0#25 ++ q ++ 0#43
  | .vcvtE5m2F32 vd va q => vd ++ va ++ 0#25 ++ q ++ 0#43
  | .vcvtF32E4m3 vd va q mk => vd ++ va ++ 0#12 ++ mk ++ 0#10 ++ q ++ 0#43
  | .vcvtF32E5m2 vd va q mk => vd ++ va ++ 0#12 ++ mk ++ 0#10 ++ q ++ 0#43
  | .vqmx4 vd vb va s => vd ++ va ++ vb ++ 0#18 ++ s ++ 0#43
  | .vqmx8 vd vb va q => vd ++ va ++ vb ++ 0#19 ++ q ++ 0#43
  | .vdqmx4 vd va vb s mk => vd ++ va ++ vb ++ 0#6 ++ mk ++ 0#9 ++ s ++ 0#43
  | .vxpS4 vd va s mk => vd ++ va ++ 0#12 ++ mk ++ 0#9 ++ s ++ 0#43
  | .vxpOcp4 vd va s q => vd ++ va ++ 0#22 ++ q ++ s ++ 0#43
  | .vcvtBfpF32 vd va => vd ++ va ++ 0#70
  | .vcvtF32Bfp vd va mk => vd ++ va ++ 0#12 ++ mk ++ 0#55
  | .vperm vd va vb mk => vd ++ va ++ vb ++ 0#6 ++ mk ++ 0#55
  | .vswpPair vd va f mk => vd ++ va ++ 0#12 ++ mk ++ 0#2 ++ f ++ 0#51
  | .vrot vd va n mk => vd ++ va ++ 0#12 ++ mk ++ 0#7 ++ n ++ 0#43
  | .vbc vd va n mk => vd ++ va ++ 0#12 ++ mk ++ 0#7 ++ n ++ 0#43
  | .vext d va n => d ++ va ++ 0#22 ++ n ++ 0#43
  | .vextMask d ma => d ++ 0#3 ++ ma ++ 0#15 ++ 1#4 ++ 0#51
  | .vins vd a n => vd ++ a ++ 0#22 ++ n ++ 0#43
  | .vinsMask md a => 0#3 ++ md ++ a ++ 0#15 ++ 1#4 ++ 0#51
  | .vli vd imm => vd ++ 0#38 ++ imm ++ 0#6
  | .vmov vd va mk => vd ++ va ++ 0#12 ++ mk ++ 0#55
  | .vredAddF32 vd va mk => vd ++ va ++ 0#12 ++ mk ++ 0#55
  | .vredMaxF32 vd va mk => vd ++ va ++ 0#12 ++ mk ++ 0#55
  | .vredAddS32 vd va mk => vd ++ va ++ 0#12 ++ mk ++ 0#55
  | .vscanAddS32 vd va mk => vd ++ va ++ 0#12 ++ mk ++ 0#55
  | .vpackS16 vd va vb => vd ++ va ++ vb ++ 0#64
  | .vunpkS16 vd va h mk => vd ++ va ++ 0#12 ++ mk ++ 0#11 ++ h ++ 0#43
  | .vcntM d ma => d ++ 0#3 ++ ma ++ 0#70
  | .vcomp vd va mk => vd ++ va ++ 0#12 ++ mk ++ 0#55
  | .vexpd vd va mk => vd ++ va ++ 0#12 ++ mk ++ 0#55
  | .lease n => 0#49 ++ n ++ 0#26
  | .unlease => 0#82
  | .tload ab prof rows => 0#10 ++ ab ++ prof ++ rows ++ 0#50
  | .tmma slot aa ab prof rows land cops => slot ++ aa ++ ab ++ prof ++ rows ++ land ++ cops ++ 0#10
  | .tmmaGa slot aa ab prof rows land cops => slot ++ aa ++ ab ++ prof ++ rows ++ land ++ cops ++ 0#10
  | .tzero slot rows => slot ++ 0#20 ++ rows ++ 0#50
  | .taccRd vd c clr mk => vd ++ 0#18 ++ mk ++ 0#3 ++ clr ++ c ++ 0#43
  | .taccWr va c mk => 0#6 ++ va ++ 0#12 ++ mk ++ 0#4 ++ c ++ 0#43
  | .tshape d a prof => d ++ a ++ 0#36 ++ prof ++ 0#26
  | .ftset d a => 0#2 ++ d ++ a ++ 0#70
  | .ftget d a => d ++ 0#2 ++ a ++ 0#70
  | .tcal d segs => d ++ 0#50 ++ segs ++ 0#22
  | .rminF32 vd va vb vc mk k land => vd ++ va ++ vb ++ vc ++ mk ++ k ++ land ++ 0#40
  | .rmaxF32 vd va vb vc mk k land => vd ++ va ++ vb ++ vc ++ mk ++ k ++ land ++ 0#40
  | .rminS32 vd va vb vc mk k land => vd ++ va ++ vb ++ vc ++ mk ++ k ++ land ++ 0#40
  | .rmaxS32 vd va vb vc mk k land => vd ++ va ++ vb ++ vc ++ mk ++ k ++ land ++ 0#40
  | .rsortF32 vd va vb vc mk k land => vd ++ va ++ vb ++ vc ++ mk ++ k ++ land ++ 0#40
  | .rsortdF32 vd va vb vc mk k land => vd ++ va ++ vb ++ vc ++ mk ++ k ++ land ++ 0#40
  | .rsortS32 vd va vb vc mk k land => vd ++ va ++ vb ++ vc ++ mk ++ k ++ land ++ 0#40
  | .rtopkF32 vd va vb vc mk k land => vd ++ va ++ vb ++ vc ++ mk ++ k ++ land ++ 0#40
  | .rbotkF32 vd va vb vc mk k land => vd ++ va ++ vb ++ vc ++ mk ++ k ++ land ++ 0#40
  | .rtopkS32 vd va vb vc mk k land => vd ++ va ++ vb ++ vc ++ mk ++ k ++ land ++ 0#40
  | .rmergeF32 vd va vb vc mk k land => vd ++ va ++ vb ++ vc ++ mk ++ k ++ land ++ 0#40
  | .rmergdF32 vd va vb vc mk k land => vd ++ va ++ vb ++ vc ++ mk ++ k ++ land ++ 0#40
  | .rknnF32 vd va vb vc mk k land => vd ++ va ++ vb ++ vc ++ mk ++ k ++ land ++ 0#40
  | .tbinit a n nl nc ns => 0#6 ++ a ++ 0#20 ++ ns ++ nc ++ nl ++ n ++ 0#26
  | .tbexpect a n => 0#6 ++ a ++ 0#32 ++ n ++ 0#26
  | .tbarrive d a n p => d ++ a ++ 0#31 ++ p ++ n ++ 0#26
  | .tbwait a n => 0#6 ++ a ++ 0#32 ++ n ++ 0#26
  | .tbtest d a n => 0#3 ++ d ++ a ++ 0#32 ++ n ++ 0#26
  | .tbretire n => 0#44 ++ n ++ 0#26
  | .sopen q r => 0#12 ++ q ++ 0#39 ++ r ++ 0#26
  | .sput d q a => d ++ a ++ q ++ 0#66
  | .sget d q a => d ++ a ++ q ++ 0#66
  | .sclose q s => 0#12 ++ q ++ 0#38 ++ s ++ 0#26
  | .sstat d q => d ++ 0#6 ++ q ++ 0#66
  | .qput a q => 0#6 ++ a ++ 0#2 ++ q ++ 0#66
  | .qget d q w k => d ++ 0#8 ++ q ++ 0#35 ++ k ++ w ++ 0#26
  | .qputv va q => 0#6 ++ va ++ 0#2 ++ q ++ 0#66
  | .qgetv vd q k => vd ++ 0#8 ++ q ++ 0#35 ++ k ++ 0#30
  | .sectionEntry _ _ => 0
  | .taskStart _ => 0
  | .taskRetirement _ => 0
  | .landDue _ _ => 0
  | .freezeEnd _ => 0
  | .copyCommandStart _ _ => 0
  | .copyProgress _ _ => 0
  | .copyVisible _ _ => 0
  | .xorderHead _ _ => 0
  | .xorderLeave _ _ => 0
  | .pageWalkComplete _ _ => 0
  | .ituinvVa _ _ _ => 0
  | .ituinvContext _ _ => 0
  | .ituinvAll _ => 0
  | .ituinvComplete _ => 0
  | .leaseGrant _ _ => 0
  | .tileReady _ _ _ => 0
  | .raceReady _ _ _ => 0
  | .calibrationMark _ _ => 0
  | .sliceRequest _ _ _ _ => 0
  | .scrubLine _ _ _ => 0
  | .rowTrackLeak _ _ => 0
  | .rowSpareStart _ _ _ _ => 0
  | .spareLineCopy _ _ => 0
  | .atomicApply _ _ => 0
  | .roundRequestAccept _ _ => 0
  | .roundCloseNotice _ _ _ _ => 0
  | .roundApply _ _ _ _ _ => 0
  | .atomicLanding _ _ => 0
  | .monitorRequest _ _ => 0
  | .monitorTimeout _ _ => 0
  | .sputPublish _ _ => 0
  | .sgetCopyComplete _ _ => 0
  | .entryRelease _ _ => 0
  | .frameScheduledEnd _ => 0
  | .slipLimit _ => 0
  | .frameComplete _ _ => 0
  | .frameStart _ => 0
  | .launchAbort _ => 0
  | .trapRecordService _ => 0
  | .cctlResume _ => 0
  | .lctlAbort _ => 0
  | .machineFault _ => 0
  | .temperatureSample _ _ _ => 0
  | .thermalGapStep _ _ => 0
  | .dbnotify _ _ => 0
  | .queueMap _ => 0
  | .queueUnmap _ => 0
  | .qcmdMap _ _ => 0
  | .qcmdUnmap _ _ => 0
  | .qcmdClearFault _ _ => 0
  | .attnService _ => 0
  | .packetFetch _ => 0
  | .launch _ => 0
  | .callPacket _ => 0
  | .returnPacket _ => 0
  | .join _ => 0
  | .copy _ => 0
  | .signal _ => 0
  | .waitvalue _ => 0
  | .waitvaluePoll _ => 0
  | .waitvalueTimeout _ => 0
  | .preempt _ => 0
  | .refine _ => 0
  | .refineRunEnd _ => 0
  | .harbourRestart => 0
  | .flitReceive _ _ _ => 0
  | .flitReplay _ => 0
  | .portDown _ _ => 0
  | .portUp _ => 0
  | .rtgenFlip _ _ => 0
  | .ringdescWrite _ _ _ => 0
  | .registerWrite _ _ => 0
  | .tick => 0
  | .powerGood => 0
  | .bootStageComplete => 0
  | .recoveryImage _ => 0
  | .unitTrainingComplete _ => 0
  | .attestationRequest _ => 0
  | .islePowerGate _ => 0
  | .isleWake _ => 0
  | .calibrationComplete _ _ _ _ => 0
  | .perBankRefresh _ _ _ _ => 0

/-- The word of an instruction (R58, R61); none for a step of the module, which has no word. -/
def encode (x : Insn) : Option (BitVec 96) :=
  x.op.opcode?.map fun op => BitVec.ofBool x.stop ++ op ++ BitVec.ofBool x.gn ++ x.gp ++ x.op.area

/-- The engines that may fetch an instruction (R68, R170); none may fetch a step of the module. -/
def Instr.allowedIn : Instr → EngId → Bool
  | .nop => fun _ => true
  | .br _ _ _ _ => fun _ => true
  | .jmp _ => fun _ => true
  | .jmpi _ _ => fun _ => true
  | .call _ => fun _ => true
  | .calli _ _ => fun _ => true
  | .ret => fun _ => true
  | .loopLc _ _ => fun _ => true
  | .loopNest _ => fun _ => true
  | .lset _ _ _ => fun _ => true
  | .rep _ _ _ _ _ _ => fun e => e == .c
  | .lnest _ _ _ _ => fun e => e == .c
  | .brq _ _ => fun e => e == .c
  | .pushbq _ _ _ => fun e => e == .l
  | .defer _ _ _ _ => fun e => e == .c
  | .drain _ _ _ _ => fun e => e == .c
  | .post _ => fun _ => true
  | .await _ => fun _ => true
  | .kget _ _ => fun _ => true
  | .trap _ _ => fun _ => true
  | .brk _ => fun _ => true
  | .csrr _ _ => fun _ => true
  | .csrw _ _ => fun _ => true
  | .fenceCore => fun _ => true
  | .fenceIsle => fun _ => true
  | .fenceMod => fun _ => true
  | .fenceSys => fun _ => true
  | .doneOp => fun _ => true
  | .dbar _ => fun _ => true
  | .dbarA _ _ => fun _ => true
  | .dbarW _ _ => fun _ => true
  | .awaitMem _ _ _ _ _ => fun _ => true
  | .add _ _ _ => fun _ => true
  | .sub _ _ _ => fun _ => true
  | .addi _ _ _ => fun _ => true
  | .li _ _ => fun _ => true
  | .mov _ _ => fun _ => true
  | .mul _ _ _ => fun _ => true
  | .mulhS _ _ _ => fun _ => true
  | .mulhZ _ _ _ => fun _ => true
  | .mad _ _ _ _ => fun _ => true
  | .divS _ _ _ => fun _ => true
  | .divZ _ _ _ => fun _ => true
  | .remS _ _ _ => fun _ => true
  | .remZ _ _ _ => fun _ => true
  | .and _ _ _ => fun _ => true
  | .or _ _ _ => fun _ => true
  | .xor _ _ _ => fun _ => true
  | .andn _ _ _ => fun _ => true
  | .shl _ _ _ => fun _ => true
  | .shrZ _ _ _ => fun _ => true
  | .shrS _ _ _ => fun _ => true
  | .rotl _ _ _ => fun _ => true
  | .clz _ _ => fun _ => true
  | .ctz _ _ => fun _ => true
  | .popc _ _ => fun _ => true
  | .minS _ _ _ => fun _ => true
  | .minZ _ _ _ => fun _ => true
  | .maxS _ _ _ => fun _ => true
  | .maxZ _ _ _ => fun _ => true
  | .sel _ _ _ _ => fun _ => true
  | .cmp _ _ _ _ => fun _ => true
  | .cmpi _ _ _ _ => fun _ => true
  | .pmix _ _ _ _ => fun _ => true
  | .extS8 _ _ => fun _ => true
  | .extS16 _ _ => fun _ => true
  | .extS32 _ _ => fun _ => true
  | .extZ8 _ _ => fun _ => true
  | .extZ16 _ _ => fun _ => true
  | .extZ32 _ _ => fun _ => true
  | .addsS64 _ _ _ => fun _ => true
  | .bfx _ _ _ _ _ => fun _ => true
  | .bfi _ _ _ _ => fun _ => true
  | .rnd _ _ _ _ _ => fun _ => true
  | .cmov _ _ => fun _ => true
  | .cinc _ _ _ => fun _ => true
  | .cinci _ _ _ => fun _ => true
  | .cbound _ _ _ => fun _ => true
  | .cperm _ _ _ => fun _ => true
  | .cgetb _ _ => fun _ => true
  | .cgetl _ _ => fun _ => true
  | .cgeto _ _ => fun _ => true
  | .cgetp _ _ => fun _ => true
  | .ctest _ _ => fun _ => true
  | .cle _ _ _ => fun _ => true
  | .cclr _ => fun _ => true
  | .caddr _ _ _ => fun _ => true
  | .cld _ _ _ _ _ => fun _ => true
  | .cst _ _ _ _ _ => fun _ => true
  | .cfoot _ _ => fun _ => true
  | .ldS8 _ _ _ _ _ => fun _ => true
  | .ldZ8 _ _ _ _ _ => fun _ => true
  | .ldS16 _ _ _ _ _ => fun _ => true
  | .ldZ16 _ _ _ _ _ => fun _ => true
  | .ldS32 _ _ _ _ _ => fun _ => true
  | .ldZ32 _ _ _ _ _ => fun _ => true
  | .ld64 _ _ _ _ _ => fun _ => true
  | .st8 _ _ _ _ _ => fun _ => true
  | .st16 _ _ _ _ _ => fun _ => true
  | .st32 _ _ _ _ _ => fun _ => true
  | .st64 _ _ _ _ _ => fun _ => true
  | .vld _ _ _ _ _ => fun e => e == .c
  | .vst _ _ _ _ _ => fun e => e == .c
  | .vldBc _ _ _ _ _ => fun e => e == .c
  | .vgath _ _ _ _ _ => fun e => e == .c
  | .vscat _ _ _ _ _ => fun e => e == .c
  | .ldfeW _ _ _ _ _ => fun _ => true
  | .ldfeC _ _ _ _ _ => fun _ => true
  | .vldfeW _ _ _ _ _ => fun e => e == .c
  | .vldfeC _ _ _ _ _ => fun e => e == .c
  | .fset _ _ _ _ _ => fun _ => true
  | .fclr _ _ _ _ _ => fun _ => true
  | .ftest _ _ _ _ _ => fun _ => true
  | .ldn _ _ _ _ _ _ => fun _ => true
  | .vldn _ _ _ _ _ _ => fun e => e == .c
  | .xget _ _ _ _ _ _ _ => fun e => e != .c
  | .xput _ _ _ _ _ _ _ _ => fun e => e != .c
  | .xmove _ _ _ _ _ _ _ _ => fun e => e != .c
  | .xgat _ _ _ _ _ _ _ _ _ => fun e => e != .c
  | .xsct _ _ _ _ _ _ _ _ _ _ => fun e => e != .c
  | .xget2d _ _ _ _ _ _ _ _ _ _ => fun e => e != .c
  | .xput2d _ _ _ _ _ _ _ _ _ _ _ => fun e => e != .c
  | .xfill _ _ _ _ _ _ _ => fun e => e != .c
  | .xaccAddS32 _ _ _ _ _ _ => fun e => e != .c
  | .xaccAddS64 _ _ _ _ _ _ => fun e => e != .c
  | .xaccAddF32 _ _ _ _ _ _ _ => fun e => e != .c
  | .xaccMinS32 _ _ _ _ _ _ => fun e => e != .c
  | .xaccMaxS32 _ _ _ _ _ _ => fun e => e != .c
  | .xaccMinF32 _ _ _ _ _ _ => fun e => e != .c
  | .xaccMaxF32 _ _ _ _ _ _ => fun e => e != .c
  | .xaccAnd _ _ _ _ _ _ => fun e => e != .c
  | .xaccOr _ _ _ _ _ _ => fun e => e != .c
  | .xaccXor _ _ _ _ _ _ => fun e => e != .c
  | .xfaddS32 _ _ _ _ _ _ _ _ => fun e => e != .c
  | .xfaddS64 _ _ _ _ _ _ _ _ => fun e => e != .c
  | .xswp _ _ _ _ _ _ _ _ => fun e => e != .c
  | .xcas _ _ _ _ _ _ _ _ _ => fun e => e != .c
  | .xcasGo _ _ _ _ _ _ _ _ _ _ => fun e => e != .c
  | .xclose _ _ => fun e => e != .c
  | .xwaitIn _ _ => fun e => e != .c
  | .xwaitRel _ _ => fun e => e != .c
  | .xwaitVis _ _ => fun e => e != .c
  | .xid _ _ _ => fun e => e != .c
  | .xorder => fun e => e != .c
  | .vaddF32 _ _ _ _ => fun e => e == .c
  | .vsubF32 _ _ _ _ => fun e => e == .c
  | .vmulF32 _ _ _ _ => fun e => e == .c
  | .vfmaF32 _ _ _ _ _ => fun e => e == .c
  | .vfmsF32 _ _ _ _ _ => fun e => e == .c
  | .vfnmaF32 _ _ _ _ _ => fun e => e == .c
  | .vminF32 _ _ _ _ => fun e => e == .c
  | .vmaxF32 _ _ _ _ => fun e => e == .c
  | .vabsF32 _ _ _ => fun e => e == .c
  | .vnegF32 _ _ _ => fun e => e == .c
  | .vdivF32 _ _ _ _ => fun e => e == .c
  | .vsqrtF32 _ _ _ => fun e => e == .c
  | .vrcpF32 _ _ _ => fun e => e == .c
  | .vrsqrtF32 _ _ _ => fun e => e == .c
  | .vexp2F32 _ _ _ => fun e => e == .c
  | .vlog2F32 _ _ _ => fun e => e == .c
  | .vsinpiF32 _ _ _ => fun e => e == .c
  | .vcospiF32 _ _ _ => fun e => e == .c
  | .vtanhF32 _ _ _ => fun e => e == .c
  | .vrrpi _ _ _ => fun e => e == .c
  | .vfloorF32 _ _ _ => fun e => e == .c
  | .vrintF32 _ _ _ => fun e => e == .c
  | .vcmpF32 _ _ _ _ _ => fun e => e == .c
  | .vclassF32 _ _ _ => fun e => e == .c
  | .vaddBf16 _ _ _ _ => fun e => e == .c
  | .vmulBf16 _ _ _ _ => fun e => e == .c
  | .vfmaBf16 _ _ _ _ _ => fun e => e == .c
  | .vaddS32 _ _ _ _ => fun e => e == .c
  | .vsubS32 _ _ _ _ => fun e => e == .c
  | .vmulS32 _ _ _ _ => fun e => e == .c
  | .vmadS16 _ _ _ _ _ => fun e => e == .c
  | .vaddsS32 _ _ _ _ => fun e => e == .c
  | .vsubsS32 _ _ _ _ => fun e => e == .c
  | .vminS32 _ _ _ _ => fun e => e == .c
  | .vmaxS32 _ _ _ _ => fun e => e == .c
  | .vminZ32 _ _ _ _ => fun e => e == .c
  | .vmaxZ32 _ _ _ _ => fun e => e == .c
  | .vand _ _ _ _ => fun e => e == .c
  | .vor _ _ _ _ => fun e => e == .c
  | .vxor _ _ _ _ => fun e => e == .c
  | .vshl _ _ _ _ => fun e => e == .c
  | .vshlImm _ _ _ _ => fun e => e == .c
  | .vshrZ _ _ _ _ => fun e => e == .c
  | .vshrZImm _ _ _ _ => fun e => e == .c
  | .vshrS _ _ _ _ => fun e => e == .c
  | .vshrSImm _ _ _ _ => fun e => e == .c
  | .vcmpS32 _ _ _ _ _ => fun e => e == .c
  | .vcmpZ32 _ _ _ _ _ => fun e => e == .c
  | .vsel _ _ _ _ => fun e => e == .c
  | .vmask _ _ _ _ => fun e => e == .c
  | .vcvtF32S32 _ _ _ => fun e => e == .c
  | .vcvtS32F32Rne _ _ _ => fun e => e == .c
  | .vcvtS32F32Rz _ _ _ => fun e => e == .c
  | .vcvtBf16F32 _ _ _ => fun e => e == .c
  | .vcvtF32Bf16 _ _ _ _ => fun e => e == .c
  | .vcvtE4m3F32 _ _ _ => fun e => e == .c
  | .vcvtE4m3F32Nv _ _ _ => fun e => e == .c
  | .vcvtE5m2F32 _ _ _ => fun e => e == .c
  | .vcvtF32E4m3 _ _ _ _ => fun e => e == .c
  | .vcvtF32E5m2 _ _ _ _ => fun e => e == .c
  | .vqmx4 _ _ _ _ => fun e => e == .c
  | .vqmx8 _ _ _ _ => fun e => e == .c
  | .vdqmx4 _ _ _ _ _ => fun e => e == .c
  | .vxpS4 _ _ _ _ => fun e => e == .c
  | .vxpOcp4 _ _ _ _ => fun e => e == .c
  | .vcvtBfpF32 _ _ => fun e => e == .c
  | .vcvtF32Bfp _ _ _ => fun e => e == .c
  | .vperm _ _ _ _ => fun e => e == .c
  | .vswpPair _ _ _ _ => fun e => e == .c
  | .vrot _ _ _ _ => fun e => e == .c
  | .vbc _ _ _ _ => fun e => e == .c
  | .vext _ _ _ => fun e => e == .c
  | .vextMask _ _ => fun e => e == .c
  | .vins _ _ _ => fun e => e == .c
  | .vinsMask _ _ => fun e => e == .c
  | .vli _ _ => fun e => e == .c
  | .vmov _ _ _ => fun e => e == .c
  | .vredAddF32 _ _ _ => fun e => e == .c
  | .vredMaxF32 _ _ _ => fun e => e == .c
  | .vredAddS32 _ _ _ => fun e => e == .c
  | .vscanAddS32 _ _ _ => fun e => e == .c
  | .vpackS16 _ _ _ => fun e => e == .c
  | .vunpkS16 _ _ _ _ => fun e => e == .c
  | .vcntM _ _ => fun e => e == .c
  | .vcomp _ _ _ => fun e => e == .c
  | .vexpd _ _ _ => fun e => e == .c
  | .lease _ => fun e => e == .c
  | .unlease => fun e => e == .c
  | .tload _ _ _ => fun e => e == .c
  | .tmma _ _ _ _ _ _ _ => fun e => e == .c
  | .tmmaGa _ _ _ _ _ _ _ => fun e => e == .c
  | .tzero _ _ => fun e => e == .c
  | .taccRd _ _ _ _ => fun e => e == .c
  | .taccWr _ _ _ => fun e => e == .c
  | .tshape _ _ _ => fun e => e == .c
  | .ftset _ _ => fun e => e == .c
  | .ftget _ _ => fun e => e == .c
  | .tcal _ _ => fun e => e == .c
  | .rminF32 _ _ _ _ _ _ _ => fun e => e == .c
  | .rmaxF32 _ _ _ _ _ _ _ => fun e => e == .c
  | .rminS32 _ _ _ _ _ _ _ => fun e => e == .c
  | .rmaxS32 _ _ _ _ _ _ _ => fun e => e == .c
  | .rsortF32 _ _ _ _ _ _ _ => fun e => e == .c
  | .rsortdF32 _ _ _ _ _ _ _ => fun e => e == .c
  | .rsortS32 _ _ _ _ _ _ _ => fun e => e == .c
  | .rtopkF32 _ _ _ _ _ _ _ => fun e => e == .c
  | .rbotkF32 _ _ _ _ _ _ _ => fun e => e == .c
  | .rtopkS32 _ _ _ _ _ _ _ => fun e => e == .c
  | .rmergeF32 _ _ _ _ _ _ _ => fun e => e == .c
  | .rmergdF32 _ _ _ _ _ _ _ => fun e => e == .c
  | .rknnF32 _ _ _ _ _ _ _ => fun e => e == .c
  | .tbinit _ _ _ _ _ => fun _ => true
  | .tbexpect _ _ => fun _ => true
  | .tbarrive _ _ _ _ => fun _ => true
  | .tbwait _ _ => fun _ => true
  | .tbtest _ _ _ => fun _ => true
  | .tbretire _ => fun _ => true
  | .sopen _ _ => fun _ => true
  | .sput _ _ _ => fun _ => true
  | .sget _ _ _ => fun _ => true
  | .sclose _ _ => fun _ => true
  | .sstat _ _ => fun _ => true
  | .qput _ _ => fun e => e != .s
  | .qget _ _ _ _ => fun e => e != .l
  | .qputv _ _ => fun e => e == .c
  | .qgetv _ _ _ => fun e => e == .c
  | .sectionEntry _ _ => fun _ => false
  | .taskStart _ => fun _ => false
  | .taskRetirement _ => fun _ => false
  | .landDue _ _ => fun _ => false
  | .freezeEnd _ => fun _ => false
  | .copyCommandStart _ _ => fun _ => false
  | .copyProgress _ _ => fun _ => false
  | .copyVisible _ _ => fun _ => false
  | .xorderHead _ _ => fun _ => false
  | .xorderLeave _ _ => fun _ => false
  | .pageWalkComplete _ _ => fun _ => false
  | .ituinvVa _ _ _ => fun _ => false
  | .ituinvContext _ _ => fun _ => false
  | .ituinvAll _ => fun _ => false
  | .ituinvComplete _ => fun _ => false
  | .leaseGrant _ _ => fun _ => false
  | .tileReady _ _ _ => fun _ => false
  | .raceReady _ _ _ => fun _ => false
  | .calibrationMark _ _ => fun _ => false
  | .sliceRequest _ _ _ _ => fun _ => false
  | .scrubLine _ _ _ => fun _ => false
  | .rowTrackLeak _ _ => fun _ => false
  | .rowSpareStart _ _ _ _ => fun _ => false
  | .spareLineCopy _ _ => fun _ => false
  | .atomicApply _ _ => fun _ => false
  | .roundRequestAccept _ _ => fun _ => false
  | .roundCloseNotice _ _ _ _ => fun _ => false
  | .roundApply _ _ _ _ _ => fun _ => false
  | .atomicLanding _ _ => fun _ => false
  | .monitorRequest _ _ => fun _ => false
  | .monitorTimeout _ _ => fun _ => false
  | .sputPublish _ _ => fun _ => false
  | .sgetCopyComplete _ _ => fun _ => false
  | .entryRelease _ _ => fun _ => false
  | .frameScheduledEnd _ => fun _ => false
  | .slipLimit _ => fun _ => false
  | .frameComplete _ _ => fun _ => false
  | .frameStart _ => fun _ => false
  | .launchAbort _ => fun _ => false
  | .trapRecordService _ => fun _ => false
  | .cctlResume _ => fun _ => false
  | .lctlAbort _ => fun _ => false
  | .machineFault _ => fun _ => false
  | .temperatureSample _ _ _ => fun _ => false
  | .thermalGapStep _ _ => fun _ => false
  | .dbnotify _ _ => fun _ => false
  | .queueMap _ => fun _ => false
  | .queueUnmap _ => fun _ => false
  | .qcmdMap _ _ => fun _ => false
  | .qcmdUnmap _ _ => fun _ => false
  | .qcmdClearFault _ _ => fun _ => false
  | .attnService _ => fun _ => false
  | .packetFetch _ => fun _ => false
  | .launch _ => fun _ => false
  | .callPacket _ => fun _ => false
  | .returnPacket _ => fun _ => false
  | .join _ => fun _ => false
  | .copy _ => fun _ => false
  | .signal _ => fun _ => false
  | .waitvalue _ => fun _ => false
  | .waitvaluePoll _ => fun _ => false
  | .waitvalueTimeout _ => fun _ => false
  | .preempt _ => fun _ => false
  | .refine _ => fun _ => false
  | .refineRunEnd _ => fun _ => false
  | .harbourRestart => fun _ => false
  | .flitReceive _ _ _ => fun _ => false
  | .flitReplay _ => fun _ => false
  | .portDown _ _ => fun _ => false
  | .portUp _ => fun _ => false
  | .rtgenFlip _ _ => fun _ => false
  | .ringdescWrite _ _ _ => fun _ => false
  | .registerWrite _ _ => fun _ => false
  | .tick => fun _ => false
  | .powerGood => fun _ => false
  | .bootStageComplete => fun _ => false
  | .recoveryImage _ => fun _ => false
  | .unitTrainingComplete _ => fun _ => false
  | .attestationRequest _ => fun _ => false
  | .islePowerGate _ => fun _ => false
  | .isleWake _ => fun _ => false
  | .calibrationComplete _ _ _ _ => fun _ => false
  | .perBankRefresh _ _ _ _ => fun _ => false

end Sys2Proof
end

