-- ==== Sys2Proof/Machine/Uses.lean ====
section
/-! DEFINITION. What an instruction reads and writes as R64 counts it (its encoding alone, but for the loop counter that
%ftidx selects), the format that `rep` steps (R176), and the class that issues it (R66). -/

namespace Sys2Proof

/-- A register, as R64 counts dependences. -/
inductive Res where
  | g (n : Nat) | p (n : Nat) | c (n : Nat) | lc (n : Nat) | v (n : Nat) | m (n : Nat) | ft (n : Nat) | ftidx
  deriving DecidableEq, Repr

/-- A queue or token channel (R64). -/
inductive Chan where
  | xq (n : Nat) | yq (n : Nat) | bq | k (n : Nat)
  deriving DecidableEq, Repr

/-- The reads, writes and channels of an instruction. -/
structure Uses where
  rd : List Res := []
  wr : List Res := []
  ch : List Chan := []
  deriving DecidableEq, Repr

/-- The implicit reads of a tile instruction with PROF = 0xFF: the format table, %ftidx and the counter it selects (R64). -/
def tableUse (prof : BitVec 8) (ftidx : Nat) : List Res :=
  if prof = 0xFF then .ftidx :: .lc ftidx :: (List.range 16).map .ft else []

/-- The uses of an instruction in an engine, %ftidx as it stands before the group (R64). -/
def Instr.uses (e : EngId) (ftidx : Nat) : Instr → Uses
  | .nop => {}
  | .br _ a b _ => { rd := [.g a.toNat, .g b.toNat] }
  | .jmp _ => {}
  | .jmpi a _ => { rd := [.g a.toNat] }
  | .call _ => { wr := [.g 63] }
  | .calli a _ => { rd := [.g a.toNat], wr := [.g 63] }
  | .ret => { rd := [.g 63] }
  | .loopLc lc _ => { rd := [.lc lc.toNat], wr := [.lc lc.toNat] }
  | .loopNest _ => { wr := (List.range 8).map (fun i => .g (50 + i)) }
  | .lset lc a _ => { rd := [.g a.toNat], wr := [.lc lc.toNat] }
  | .rep _ _ _ _ _ _ => {}
  | .lnest cb x _ _ => { rd := [.c cb.toNat, .g x.toNat], wr := (List.range 8).map (fun i => .g (50 + i)) }
  | .brq _ _ => { ch := [.bq] }
  | .pushbq _ a b => { rd := [.g a.toNat, .g b.toNat], ch := [.bq] }
  | .defer va mk cnt _ => { rd := [.m mk.toNat] ++ (List.range cnt.toNat).map (fun i => .v (va.toNat + i)) }
  | .drain a vb _ _ => {
      wr := [.g a.toNat, .v vb.toNat, .m 7, .v (vb.toNat + 1), .v (vb.toNat + 2), .v (vb.toNat + 3)] }
  | .post k => { ch := [.k k.toNat] }
  | .await k => { ch := [.k k.toNat] }
  | .kget d _ => { wr := [.g d.toNat] }
  | .trap a _ => { rd := [.g a.toNat] }
  | .brk _ => {}
  | .csrr d csr => { rd := (if csr = 0xA then [.ftidx] else []), wr := [.g d.toNat] }
  | .csrw a csr => { rd := [.g a.toNat], wr := (if csr = 0xA then [.ftidx] else []) }
  | .fenceCore => {}
  | .fenceIsle => {}
  | .fenceMod => {}
  | .fenceSys => {}
  | .doneOp => {}
  | .dbar _ => {}
  | .dbarA d _ => { wr := [.g d.toNat] }
  | .dbarW a _ => { rd := [.g a.toNat] }
  | .awaitMem d cb x _ _ => { rd := [.g d.toNat, .c cb.toNat, .g x.toNat], wr := [.g d.toNat] }
  | .add d a b => { rd := [.g a.toNat, .g b.toNat], wr := [.g d.toNat] }
  | .sub d a b => { rd := [.g a.toNat, .g b.toNat], wr := [.g d.toNat] }
  | .addi d a _ => { rd := [.g a.toNat], wr := [.g d.toNat] }
  | .li d _ => { wr := [.g d.toNat] }
  | .mov d a => { rd := [.g a.toNat], wr := [.g d.toNat] }
  | .mul d a b => { rd := [.g a.toNat, .g b.toNat], wr := [.g d.toNat] }
  | .mulhS d a b => { rd := [.g a.toNat, .g b.toNat], wr := [.g d.toNat] }
  | .mulhZ d a b => { rd := [.g a.toNat, .g b.toNat], wr := [.g d.toNat] }
  | .mad d a b c => { rd := [.g a.toNat, .g b.toNat, .g c.toNat], wr := [.g d.toNat] }
  | .divS d a b => { rd := [.g a.toNat, .g b.toNat], wr := [.g d.toNat] }
  | .divZ d a b => { rd := [.g a.toNat, .g b.toNat], wr := [.g d.toNat] }
  | .remS d a b => { rd := [.g a.toNat, .g b.toNat], wr := [.g d.toNat] }
  | .remZ d a b => { rd := [.g a.toNat, .g b.toNat], wr := [.g d.toNat] }
  | .and d a b => { rd := [.g a.toNat, .g b.toNat], wr := [.g d.toNat] }
  | .or d a b => { rd := [.g a.toNat, .g b.toNat], wr := [.g d.toNat] }
  | .xor d a b => { rd := [.g a.toNat, .g b.toNat], wr := [.g d.toNat] }
  | .andn d a b => { rd := [.g a.toNat, .g b.toNat], wr := [.g d.toNat] }
  | .shl d a b => { rd := [.g a.toNat, .g b.toNat], wr := [.g d.toNat] }
  | .shrZ d a b => { rd := [.g a.toNat, .g b.toNat], wr := [.g d.toNat] }
  | .shrS d a b => { rd := [.g a.toNat, .g b.toNat], wr := [.g d.toNat] }
  | .rotl d a b => { rd := [.g a.toNat, .g b.toNat], wr := [.g d.toNat] }
  | .clz d a => { rd := [.g a.toNat], wr := [.g d.toNat] }
  | .ctz d a => { rd := [.g a.toNat], wr := [.g d.toNat] }
  | .popc d a => { rd := [.g a.toNat], wr := [.g d.toNat] }
  | .minS d a b => { rd := [.g a.toNat, .g b.toNat], wr := [.g d.toNat] }
  | .minZ d a b => { rd := [.g a.toNat, .g b.toNat], wr := [.g d.toNat] }
  | .maxS d a b => { rd := [.g a.toNat, .g b.toNat], wr := [.g d.toNat] }
  | .maxZ d a b => { rd := [.g a.toNat, .g b.toNat], wr := [.g d.toNat] }
  | .sel d a b c => { rd := [.g a.toNat, .g b.toNat, .p c.toNat], wr := [.g d.toNat] }
  | .cmp _ d a b => { rd := [.g a.toNat, .g b.toNat], wr := [.p d.toNat] }
  | .cmpi _ d a _ => { rd := [.g a.toNat], wr := [.p d.toNat] }
  | .pmix d a b _ => { rd := [.p a.toNat, .p b.toNat], wr := [.p d.toNat] }
  | .extS8 d a => { rd := [.g a.toNat], wr := [.g d.toNat] }
  | .extS16 d a => { rd := [.g a.toNat], wr := [.g d.toNat] }
  | .extS32 d a => { rd := [.g a.toNat], wr := [.g d.toNat] }
  | .extZ8 d a => { rd := [.g a.toNat], wr := [.g d.toNat] }
  | .extZ16 d a => { rd := [.g a.toNat], wr := [.g d.toNat] }
  | .extZ32 d a => { rd := [.g a.toNat], wr := [.g d.toNat] }
  | .addsS64 d a b => { rd := [.g a.toNat, .g b.toNat], wr := [.g d.toNat] }
  | .bfx d a _ _ _ => { rd := [.g a.toNat], wr := [.g d.toNat] }
  | .bfi d a _ _ => { rd := [.g d.toNat, .g a.toNat], wr := [.g d.toNat] }
  | .rnd d a b c _ => { rd := [.g a.toNat, .g b.toNat, .g c.toNat], wr := [.g d.toNat] }
  | .cmov d a => { rd := [.c a.toNat], wr := [.c d.toNat] }
  | .cinc d a b => { rd := [.c a.toNat, .g b.toNat], wr := [.c d.toNat] }
  | .cinci d a _ => { rd := [.c a.toNat], wr := [.c d.toNat] }
  | .cbound d a b => { rd := [.c a.toNat, .g b.toNat], wr := [.c d.toNat] }
  | .cperm d a _ => { rd := [.c a.toNat], wr := [.c d.toNat] }
  | .cgetb d a => { rd := [.c a.toNat], wr := [.g d.toNat] }
  | .cgetl d a => { rd := [.c a.toNat], wr := [.g d.toNat] }
  | .cgeto d a => { rd := [.c a.toNat], wr := [.g d.toNat] }
  | .cgetp d a => { rd := [.c a.toNat], wr := [.g d.toNat] }
  | .ctest d a => { rd := [.c a.toNat], wr := [.p d.toNat] }
  | .cle d a b => { rd := [.c a.toNat, .c b.toNat], wr := [.p d.toNat] }
  | .cclr d => { wr := [.c d.toNat] }
  | .caddr d a b => { rd := [.c a.toNat, .g b.toNat], wr := [.c d.toNat] }
  | .cld d cb x _ _ => { rd := [.c cb.toNat, .g x.toNat], wr := [.c d.toNat] }
  | .cst d cb x _ _ => { rd := [.c d.toNat, .c cb.toNat, .g x.toNat] }
  | .cfoot d _ => { wr := [.c d.toNat] }
  | .ldS8 d cb x _ _ => { rd := [.c cb.toNat, .g x.toNat], wr := [.g d.toNat] }
  | .ldZ8 d cb x _ _ => { rd := [.c cb.toNat, .g x.toNat], wr := [.g d.toNat] }
  | .ldS16 d cb x _ _ => { rd := [.c cb.toNat, .g x.toNat], wr := [.g d.toNat] }
  | .ldZ16 d cb x _ _ => { rd := [.c cb.toNat, .g x.toNat], wr := [.g d.toNat] }
  | .ldS32 d cb x _ _ => { rd := [.c cb.toNat, .g x.toNat], wr := [.g d.toNat] }
  | .ldZ32 d cb x _ _ => { rd := [.c cb.toNat, .g x.toNat], wr := [.g d.toNat] }
  | .ld64 d cb x _ _ => { rd := [.c cb.toNat, .g x.toNat], wr := [.g d.toNat] }
  | .st8 d cb x _ _ => { rd := [.g d.toNat, .c cb.toNat, .g x.toNat] }
  | .st16 d cb x _ _ => { rd := [.g d.toNat, .c cb.toNat, .g x.toNat] }
  | .st32 d cb x _ _ => { rd := [.g d.toNat, .c cb.toNat, .g x.toNat] }
  | .st64 d cb x _ _ => { rd := [.g d.toNat, .c cb.toNat, .g x.toNat] }
  | .vld d cb x _ _ => { rd := [.c cb.toNat, .g x.toNat], wr := [.v d.toNat] }
  | .vst d cb x _ _ => { rd := [.v d.toNat, .c cb.toNat, .g x.toNat] }
  | .vldBc d cb x _ _ => { rd := [.c cb.toNat, .g x.toNat], wr := [.v d.toNat] }
  | .vgath d cb x _ _ => { rd := [.c cb.toNat, .v x.toNat], wr := [.v d.toNat] }
  | .vscat d cb x _ _ => { rd := [.v d.toNat, .c cb.toNat, .v x.toNat] }
  | .ldfeW d cb x _ _ => { rd := [.c cb.toNat, .g x.toNat], wr := [.g d.toNat] }
  | .ldfeC d cb x _ _ => { rd := [.c cb.toNat, .g x.toNat], wr := [.g d.toNat] }
  | .vldfeW d cb x _ _ => { rd := [.c cb.toNat, .g x.toNat], wr := [.v d.toNat] }
  | .vldfeC d cb x _ _ => { rd := [.c cb.toNat, .g x.toNat], wr := [.v d.toNat] }
  | .fset d cb x _ _ => { rd := [.g d.toNat, .c cb.toNat, .g x.toNat] }
  | .fclr d cb x _ _ => { rd := [.g d.toNat, .c cb.toNat, .g x.toNat] }
  | .ftest d cb x _ _ => { rd := [.c cb.toNat, .g x.toNat], wr := [.p d.toNat] }
  | .ldn _ cb x _ _ _ => { rd := [.c cb.toNat, .g x.toNat] }
  | .vldn _ cb x _ _ _ => { rd := [.c cb.toNat, .g x.toNat] }
  | .xget cd ob cs oa len _ _ => { rd := [.c cd.toNat, .g ob.toNat, .c cs.toNat, .g oa.toNat, .g len.toNat] }
  | .xput cd ob cs oa len _ _ _ => { rd := [.c cd.toNat, .g ob.toNat, .c cs.toNat, .g oa.toNat, .g len.toNat] }
  | .xmove cd ob cs oa len _ _ _ => { rd := [.c cd.toNat, .g ob.toNat, .c cs.toNat, .g oa.toNat, .g len.toNat] }
  | .xgat cd ob cs oa len v w _ _ => {
      rd := [.c cd.toNat, .g ob.toNat, .c cs.toNat, .g oa.toNat, .g len.toNat, .g v.toNat, .g w.toNat, .c 8] }
  | .xsct cd ob cs oa len v w _ _ _ => {
      rd := [.c cd.toNat, .g ob.toNat, .c cs.toNat, .g oa.toNat, .g len.toNat, .g v.toNat, .g w.toNat, .c 8] }
  | .xget2d cd ob w cs oa v len _ _ _ => {
      rd := [.c cd.toNat, .g ob.toNat, .g w.toNat, .c cs.toNat, .g oa.toNat, .g v.toNat, .g len.toNat] }
  | .xput2d cd ob w cs oa v len _ _ _ _ => {
      rd := [.c cd.toNat, .g ob.toNat, .g w.toNat, .c cs.toNat, .g oa.toNat, .g v.toNat, .g len.toNat] }
  | .xfill cd ob v len _ _ _ => { rd := [.c cd.toNat, .g ob.toNat, .g v.toNat, .g len.toNat] }
  | .xaccAddS32 cd ob cs oa len _ => { rd := [.c cd.toNat, .g ob.toNat, .c cs.toNat, .g oa.toNat, .g len.toNat] }
  | .xaccAddS64 cd ob cs oa len _ => { rd := [.c cd.toNat, .g ob.toNat, .c cs.toNat, .g oa.toNat, .g len.toNat] }
  | .xaccAddF32 cd ob cs oa len _ _ => { rd := [.c cd.toNat, .g ob.toNat, .c cs.toNat, .g oa.toNat, .g len.toNat] }
  | .xaccMinS32 cd ob cs oa len _ => { rd := [.c cd.toNat, .g ob.toNat, .c cs.toNat, .g oa.toNat, .g len.toNat] }
  | .xaccMaxS32 cd ob cs oa len _ => { rd := [.c cd.toNat, .g ob.toNat, .c cs.toNat, .g oa.toNat, .g len.toNat] }
  | .xaccMinF32 cd ob cs oa len _ => { rd := [.c cd.toNat, .g ob.toNat, .c cs.toNat, .g oa.toNat, .g len.toNat] }
  | .xaccMaxF32 cd ob cs oa len _ => { rd := [.c cd.toNat, .g ob.toNat, .c cs.toNat, .g oa.toNat, .g len.toNat] }
  | .xaccAnd cd ob cs oa len _ => { rd := [.c cd.toNat, .g ob.toNat, .c cs.toNat, .g oa.toNat, .g len.toNat] }
  | .xaccOr cd ob cs oa len _ => { rd := [.c cd.toNat, .g ob.toNat, .c cs.toNat, .g oa.toNat, .g len.toNat] }
  | .xaccXor cd ob cs oa len _ => { rd := [.c cd.toNat, .g ob.toNat, .c cs.toNat, .g oa.toNat, .g len.toNat] }
  | .xfaddS32 cd ob v cl ol _ _ _ => { rd := [.c cd.toNat, .g ob.toNat, .g v.toNat, .c cl.toNat, .g ol.toNat] }
  | .xfaddS64 cd ob v cl ol _ _ _ => { rd := [.c cd.toNat, .g ob.toNat, .g v.toNat, .c cl.toNat, .g ol.toNat] }
  | .xswp cd ob v cl ol _ _ _ => { rd := [.c cd.toNat, .g ob.toNat, .g v.toNat, .c cl.toNat, .g ol.toNat] }
  | .xcas cd ob v w cl ol _ _ _ => {
      rd := [.c cd.toNat, .g ob.toNat, .g v.toNat, .g w.toNat, .c cl.toNat, .g ol.toNat] }
  | .xcasGo cd ob v w cl ol _ _ _ _ => {
      rd := [.c cd.toNat, .g ob.toNat, .g v.toNat, .g w.toNat, .c cl.toNat, .g ol.toNat] }
  | .xclose _ _ => {}
  | .xwaitIn v _ => { rd := [.g v.toNat] }
  | .xwaitRel v _ => { rd := [.g v.toNat] }
  | .xwaitVis v _ => { rd := [.g v.toNat] }
  | .xid v _ _ => { wr := [.g v.toNat] }
  | .xorder => {}
  | .vaddF32 vd va vb mk => { rd := [.v va.toNat, .v vb.toNat, .m mk.toNat], wr := [.v vd.toNat] }
  | .vsubF32 vd va vb mk => { rd := [.v va.toNat, .v vb.toNat, .m mk.toNat], wr := [.v vd.toNat] }
  | .vmulF32 vd va vb mk => { rd := [.v va.toNat, .v vb.toNat, .m mk.toNat], wr := [.v vd.toNat] }
  | .vfmaF32 vd va vb vc mk => { rd := [.v va.toNat, .v vb.toNat, .v vc.toNat, .m mk.toNat], wr := [.v vd.toNat] }
  | .vfmsF32 vd va vb vc mk => { rd := [.v va.toNat, .v vb.toNat, .v vc.toNat, .m mk.toNat], wr := [.v vd.toNat] }
  | .vfnmaF32 vd va vb vc mk => { rd := [.v va.toNat, .v vb.toNat, .v vc.toNat, .m mk.toNat], wr := [.v vd.toNat] }
  | .vminF32 vd va vb mk => { rd := [.v va.toNat, .v vb.toNat, .m mk.toNat], wr := [.v vd.toNat] }
  | .vmaxF32 vd va vb mk => { rd := [.v va.toNat, .v vb.toNat, .m mk.toNat], wr := [.v vd.toNat] }
  | .vabsF32 vd va mk => { rd := [.v va.toNat, .m mk.toNat], wr := [.v vd.toNat] }
  | .vnegF32 vd va mk => { rd := [.v va.toNat, .m mk.toNat], wr := [.v vd.toNat] }
  | .vdivF32 vd va vb mk => { rd := [.v va.toNat, .v vb.toNat, .m mk.toNat], wr := [.v vd.toNat] }
  | .vsqrtF32 vd va mk => { rd := [.v va.toNat, .m mk.toNat], wr := [.v vd.toNat] }
  | .vrcpF32 vd va mk => { rd := [.v va.toNat, .m mk.toNat], wr := [.v vd.toNat] }
  | .vrsqrtF32 vd va mk => { rd := [.v va.toNat, .m mk.toNat], wr := [.v vd.toNat] }
  | .vexp2F32 vd va mk => { rd := [.v va.toNat, .m mk.toNat], wr := [.v vd.toNat] }
  | .vlog2F32 vd va mk => { rd := [.v va.toNat, .m mk.toNat], wr := [.v vd.toNat] }
  | .vsinpiF32 vd va mk => { rd := [.v va.toNat, .m mk.toNat], wr := [.v vd.toNat] }
  | .vcospiF32 vd va mk => { rd := [.v va.toNat, .m mk.toNat], wr := [.v vd.toNat] }
  | .vtanhF32 vd va mk => { rd := [.v va.toNat, .m mk.toNat], wr := [.v vd.toNat] }
  | .vrrpi vd va mk => { rd := [.v va.toNat, .m mk.toNat], wr := [.v vd.toNat] }
  | .vfloorF32 vd va mk => { rd := [.v va.toNat, .m mk.toNat], wr := [.v vd.toNat] }
  | .vrintF32 vd va mk => { rd := [.v va.toNat, .m mk.toNat], wr := [.v vd.toNat] }
  | .vcmpF32 _ md va vb mk => { rd := [.v va.toNat, .v vb.toNat, .m mk.toNat], wr := [.m md.toNat] }
  | .vclassF32 vd va mk => { rd := [.v va.toNat, .m mk.toNat], wr := [.v vd.toNat] }
  | .vaddBf16 vd va vb mk => { rd := [.v va.toNat, .v vb.toNat, .m mk.toNat], wr := [.v vd.toNat] }
  | .vmulBf16 vd va vb mk => { rd := [.v va.toNat, .v vb.toNat, .m mk.toNat], wr := [.v vd.toNat] }
  | .vfmaBf16 vd va vb vc mk => { rd := [.v va.toNat, .v vb.toNat, .v vc.toNat, .m mk.toNat], wr := [.v vd.toNat] }
  | .vaddS32 vd va vb mk => { rd := [.v va.toNat, .v vb.toNat, .m mk.toNat], wr := [.v vd.toNat] }
  | .vsubS32 vd va vb mk => { rd := [.v va.toNat, .v vb.toNat, .m mk.toNat], wr := [.v vd.toNat] }
  | .vmulS32 vd va vb mk => { rd := [.v va.toNat, .v vb.toNat, .m mk.toNat], wr := [.v vd.toNat] }
  | .vmadS16 vd va vb vc mk => { rd := [.v va.toNat, .v vb.toNat, .v vc.toNat, .m mk.toNat], wr := [.v vd.toNat] }
  | .vaddsS32 vd va vb mk => { rd := [.v va.toNat, .v vb.toNat, .m mk.toNat], wr := [.v vd.toNat] }
  | .vsubsS32 vd va vb mk => { rd := [.v va.toNat, .v vb.toNat, .m mk.toNat], wr := [.v vd.toNat] }
  | .vminS32 vd va vb mk => { rd := [.v va.toNat, .v vb.toNat, .m mk.toNat], wr := [.v vd.toNat] }
  | .vmaxS32 vd va vb mk => { rd := [.v va.toNat, .v vb.toNat, .m mk.toNat], wr := [.v vd.toNat] }
  | .vminZ32 vd va vb mk => { rd := [.v va.toNat, .v vb.toNat, .m mk.toNat], wr := [.v vd.toNat] }
  | .vmaxZ32 vd va vb mk => { rd := [.v va.toNat, .v vb.toNat, .m mk.toNat], wr := [.v vd.toNat] }
  | .vand vd va vb mk => { rd := [.v va.toNat, .v vb.toNat, .m mk.toNat], wr := [.v vd.toNat] }
  | .vor vd va vb mk => { rd := [.v va.toNat, .v vb.toNat, .m mk.toNat], wr := [.v vd.toNat] }
  | .vxor vd va vb mk => { rd := [.v va.toNat, .v vb.toNat, .m mk.toNat], wr := [.v vd.toNat] }
  | .vshl vd va vb mk => { rd := [.v va.toNat, .v vb.toNat, .m mk.toNat], wr := [.v vd.toNat] }
  | .vshlImm vd va _ mk => { rd := [.v va.toNat, .m mk.toNat], wr := [.v vd.toNat] }
  | .vshrZ vd va vb mk => { rd := [.v va.toNat, .v vb.toNat, .m mk.toNat], wr := [.v vd.toNat] }
  | .vshrZImm vd va _ mk => { rd := [.v va.toNat, .m mk.toNat], wr := [.v vd.toNat] }
  | .vshrS vd va vb mk => { rd := [.v va.toNat, .v vb.toNat, .m mk.toNat], wr := [.v vd.toNat] }
  | .vshrSImm vd va _ mk => { rd := [.v va.toNat, .m mk.toNat], wr := [.v vd.toNat] }
  | .vcmpS32 _ md va vb mk => { rd := [.v va.toNat, .v vb.toNat, .m mk.toNat], wr := [.m md.toNat] }
  | .vcmpZ32 _ md va vb mk => { rd := [.v va.toNat, .v vb.toNat, .m mk.toNat], wr := [.m md.toNat] }
  | .vsel vd va vb mk => { rd := [.v va.toNat, .v vb.toNat, .m mk.toNat], wr := [.v vd.toNat] }
  | .vmask md ma mb _ => { rd := [.m ma.toNat, .m mb.toNat], wr := [.m md.toNat] }
  | .vcvtF32S32 vd va mk => { rd := [.v va.toNat, .m mk.toNat], wr := [.v vd.toNat] }
  | .vcvtS32F32Rne vd va mk => { rd := [.v va.toNat, .m mk.toNat], wr := [.v vd.toNat] }
  | .vcvtS32F32Rz vd va mk => { rd := [.v va.toNat, .m mk.toNat], wr := [.v vd.toNat] }
  | .vcvtBf16F32 vd va vb => { rd := [.v va.toNat, .v vb.toNat], wr := [.v vd.toNat] }
  | .vcvtF32Bf16 vd va _ mk => { rd := [.v va.toNat, .m mk.toNat], wr := [.v vd.toNat] }
  | .vcvtE4m3F32 vd va _ => { rd := [.v va.toNat], wr := [.v vd.toNat] }
  | .vcvtE4m3F32Nv vd va _ => { rd := [.v va.toNat], wr := [.v vd.toNat] }
  | .vcvtE5m2F32 vd va _ => { rd := [.v va.toNat], wr := [.v vd.toNat] }
  | .vcvtF32E4m3 vd va _ mk => { rd := [.v va.toNat, .m mk.toNat], wr := [.v vd.toNat] }
  | .vcvtF32E5m2 vd va _ mk => { rd := [.v va.toNat, .m mk.toNat], wr := [.v vd.toNat] }
  | .vqmx4 vd vb va _ => { rd := [.v va.toNat], wr := [.v vd.toNat, .v vb.toNat] }
  | .vqmx8 vd vb va _ => { rd := [.v va.toNat], wr := [.v vd.toNat, .v vb.toNat] }
  | .vdqmx4 vd va vb _ mk => { rd := [.v va.toNat, .v vb.toNat, .m mk.toNat], wr := [.v vd.toNat] }
  | .vxpS4 vd va _ mk => { rd := [.v va.toNat, .m mk.toNat], wr := [.v vd.toNat] }
  | .vxpOcp4 vd va _ _ => { rd := [.v va.toNat], wr := [.v vd.toNat] }
  | .vcvtBfpF32 vd va => { rd := [.v va.toNat], wr := [.v vd.toNat] }
  | .vcvtF32Bfp vd va mk => { rd := [.v va.toNat, .m mk.toNat], wr := [.v vd.toNat] }
  | .vperm vd va vb mk => { rd := [.v va.toNat, .v vb.toNat, .m mk.toNat], wr := [.v vd.toNat] }
  | .vswpPair vd va _ mk => { rd := [.v va.toNat, .m mk.toNat], wr := [.v vd.toNat] }
  | .vrot vd va _ mk => { rd := [.v va.toNat, .m mk.toNat], wr := [.v vd.toNat] }
  | .vbc vd va _ mk => { rd := [.v va.toNat, .m mk.toNat], wr := [.v vd.toNat] }
  | .vext d va _ => { rd := [.v va.toNat], wr := [.g d.toNat] }
  | .vextMask d ma => { rd := [.m ma.toNat], wr := [.g d.toNat] }
  | .vins vd a _ => { rd := [.g a.toNat], wr := [.v vd.toNat] }
  | .vinsMask md a => { rd := [.g a.toNat], wr := [.m md.toNat] }
  | .vli vd _ => { wr := [.v vd.toNat] }
  | .vmov vd va mk => { rd := [.v va.toNat, .m mk.toNat], wr := [.v vd.toNat] }
  | .vredAddF32 vd va mk => { rd := [.v va.toNat, .m mk.toNat], wr := [.v vd.toNat] }
  | .vredMaxF32 vd va mk => { rd := [.v va.toNat, .m mk.toNat], wr := [.v vd.toNat] }
  | .vredAddS32 vd va mk => { rd := [.v va.toNat, .m mk.toNat], wr := [.v vd.toNat] }
  | .vscanAddS32 vd va mk => { rd := [.v va.toNat, .m mk.toNat], wr := [.v vd.toNat] }
  | .vpackS16 vd va vb => { rd := [.v va.toNat, .v vb.toNat], wr := [.v vd.toNat] }
  | .vunpkS16 vd va _ mk => { rd := [.v va.toNat, .m mk.toNat], wr := [.v vd.toNat] }
  | .vcntM d ma => { rd := [.m ma.toNat], wr := [.g d.toNat] }
  | .vcomp vd va mk => { rd := [.v va.toNat, .m mk.toNat], wr := [.v vd.toNat] }
  | .vexpd vd va mk => { rd := [.v va.toNat, .m mk.toNat], wr := [.v vd.toNat] }
  | .lease _ => {}
  | .unlease => {}
  | .tload ab prof _ => { rd := [.g ab.toNat, .c 8] ++ tableUse prof ftidx }
  | .tmma _ aa ab prof _ _ _ => { rd := [.g aa.toNat, .g ab.toNat, .c 8] ++ tableUse prof ftidx }
  | .tmmaGa _ aa ab prof _ _ _ => { rd := [.g aa.toNat, .g ab.toNat, .c 8, .c 10] ++ tableUse prof ftidx }
  | .tzero _ _ => {}
  | .taccRd vd _ _ mk => { rd := [.m mk.toNat], wr := [.v vd.toNat] }
  | .taccWr va _ mk => { rd := [.v va.toNat, .m mk.toNat] }
  | .tshape d a prof => { rd := [.g a.toNat] ++ tableUse prof ftidx, wr := [.g d.toNat] }
  | .ftset d a => { rd := [.g a.toNat], wr := [.ft d.toNat] }
  | .ftget d a => { rd := [.ft a.toNat], wr := [.g d.toNat] }
  | .tcal d _ => { wr := [.g d.toNat] }
  | .rminF32 vd va vb vc mk _ _ => {
      rd := [.v va.toNat, .v vb.toNat, .v vc.toNat, .m mk.toNat]
      wr := [.v vd.toNat, .v (vd.toNat + 1), .v (vd.toNat + 2), .v (vd.toNat + 3), .v (vd.toNat + 4)] }
  | .rmaxF32 vd va vb vc mk _ _ => {
      rd := [.v va.toNat, .v vb.toNat, .v vc.toNat, .m mk.toNat]
      wr := [.v vd.toNat, .v (vd.toNat + 1), .v (vd.toNat + 2), .v (vd.toNat + 3), .v (vd.toNat + 4)] }
  | .rminS32 vd va vb vc mk _ _ => {
      rd := [.v va.toNat, .v vb.toNat, .v vc.toNat, .m mk.toNat]
      wr := [.v vd.toNat, .v (vd.toNat + 1), .v (vd.toNat + 2), .v (vd.toNat + 3), .v (vd.toNat + 4)] }
  | .rmaxS32 vd va vb vc mk _ _ => {
      rd := [.v va.toNat, .v vb.toNat, .v vc.toNat, .m mk.toNat]
      wr := [.v vd.toNat, .v (vd.toNat + 1), .v (vd.toNat + 2), .v (vd.toNat + 3), .v (vd.toNat + 4)] }
  | .rsortF32 vd va vb vc mk _ _ => {
      rd := [.v va.toNat, .v vb.toNat, .v vc.toNat, .m mk.toNat]
      wr := [.v vd.toNat, .v (vd.toNat + 1), .v (vd.toNat + 2), .v (vd.toNat + 3), .v (vd.toNat + 4)] }
  | .rsortdF32 vd va vb vc mk _ _ => {
      rd := [.v va.toNat, .v vb.toNat, .v vc.toNat, .m mk.toNat]
      wr := [.v vd.toNat, .v (vd.toNat + 1), .v (vd.toNat + 2), .v (vd.toNat + 3), .v (vd.toNat + 4)] }
  | .rsortS32 vd va vb vc mk _ _ => {
      rd := [.v va.toNat, .v vb.toNat, .v vc.toNat, .m mk.toNat]
      wr := [.v vd.toNat, .v (vd.toNat + 1), .v (vd.toNat + 2), .v (vd.toNat + 3), .v (vd.toNat + 4)] }
  | .rtopkF32 vd va vb vc mk _ _ => {
      rd := [.v va.toNat, .v vb.toNat, .v vc.toNat, .m mk.toNat]
      wr := [.v vd.toNat, .v (vd.toNat + 1), .v (vd.toNat + 2), .v (vd.toNat + 3), .v (vd.toNat + 4)] }
  | .rbotkF32 vd va vb vc mk _ _ => {
      rd := [.v va.toNat, .v vb.toNat, .v vc.toNat, .m mk.toNat]
      wr := [.v vd.toNat, .v (vd.toNat + 1), .v (vd.toNat + 2), .v (vd.toNat + 3), .v (vd.toNat + 4)] }
  | .rtopkS32 vd va vb vc mk _ _ => {
      rd := [.v va.toNat, .v vb.toNat, .v vc.toNat, .m mk.toNat]
      wr := [.v vd.toNat, .v (vd.toNat + 1), .v (vd.toNat + 2), .v (vd.toNat + 3), .v (vd.toNat + 4)] }
  | .rmergeF32 vd va vb vc mk _ _ => {
      rd := [.v va.toNat, .v vb.toNat, .v vc.toNat, .m mk.toNat, .v (vc.toNat + 1)]
      wr := [.v vd.toNat, .v (vd.toNat + 1), .v (vd.toNat + 2), .v (vd.toNat + 3), .v (vd.toNat + 4)] }
  | .rmergdF32 vd va vb vc mk _ _ => {
      rd := [.v va.toNat, .v vb.toNat, .v vc.toNat, .m mk.toNat, .v (vc.toNat + 1)]
      wr := [.v vd.toNat, .v (vd.toNat + 1), .v (vd.toNat + 2), .v (vd.toNat + 3), .v (vd.toNat + 4)] }
  | .rknnF32 vd va vb vc mk _ _ => {
      rd := [.v va.toNat, .v vb.toNat, .v vc.toNat, .m mk.toNat]
      wr := [.v vd.toNat, .v (vd.toNat + 1), .v (vd.toNat + 2), .v (vd.toNat + 3), .v (vd.toNat + 4)] }
  | .tbinit a _ _ _ _ => { rd := [.g a.toNat, .c 8] }
  | .tbexpect a _ => { rd := [.g a.toNat] }
  | .tbarrive d a _ _ => { rd := [.g a.toNat], wr := [.g d.toNat] }
  | .tbwait a _ => { rd := [.g a.toNat] }
  | .tbtest d a _ => { rd := [.g a.toNat], wr := [.p d.toNat] }
  | .tbretire _ => {}
  | .sopen q _ => { rd := [.c q.toNat] }
  | .sput d q a => { rd := [.c q.toNat, .g a.toNat, .c 8], wr := [.g d.toNat] }
  | .sget d q a => { rd := [.c q.toNat, .g a.toNat, .c 8], wr := [.g d.toNat] }
  | .sclose q _ => { rd := [.c q.toNat] }
  | .sstat d q => { rd := [.c q.toNat], wr := [.g d.toNat] }
  | .qput a q => { rd := [.g a.toNat], ch := [(if e == .l then .xq q.toNat else .yq q.toNat)] }
  | .qget d q _ _ => { wr := [.g d.toNat], ch := [(if e == .c then .xq q.toNat else .yq q.toNat)] }
  | .qputv va q => { rd := [.v va.toNat], ch := [(if e == .l then .xq q.toNat else .yq q.toNat)] }
  | .qgetv vd q _ => { wr := [.v vd.toNat], ch := [(if e == .c then .xq q.toNat else .yq q.toNat)] }
  | .sectionEntry _ _ => {}
  | .taskStart _ => {}
  | .taskRetirement _ => {}
  | .landDue _ _ => {}
  | .freezeEnd _ => {}
  | .copyCommandStart _ _ => {}
  | .copyProgress _ _ => {}
  | .copyVisible _ _ => {}
  | .xorderHead _ _ => {}
  | .xorderLeave _ _ => {}
  | .pageWalkComplete _ _ => {}
  | .ituinvVa _ _ _ => {}
  | .ituinvContext _ _ => {}
  | .ituinvAll _ => {}
  | .ituinvComplete _ => {}
  | .leaseGrant _ _ => {}
  | .tileReady _ _ _ => {}
  | .raceReady _ _ _ => {}
  | .calibrationMark _ _ => {}
  | .sliceRequest _ _ _ _ => {}
  | .scrubLine _ _ _ => {}
  | .rowTrackLeak _ _ => {}
  | .rowSpareStart _ _ _ _ => {}
  | .spareLineCopy _ _ => {}
  | .atomicApply _ _ => {}
  | .roundRequestAccept _ _ => {}
  | .roundCloseNotice _ _ _ _ => {}
  | .roundApply _ _ _ _ _ => {}
  | .atomicLanding _ _ => {}
  | .monitorRequest _ _ => {}
  | .monitorTimeout _ _ => {}
  | .sputPublish _ _ => {}
  | .sgetCopyComplete _ _ => {}
  | .entryRelease _ _ => {}
  | .frameScheduledEnd _ => {}
  | .slipLimit _ => {}
  | .frameComplete _ _ => {}
  | .frameStart _ => {}
  | .launchAbort _ => {}
  | .trapRecordService _ => {}
  | .cctlResume _ => {}
  | .lctlAbort _ => {}
  | .machineFault _ => {}
  | .temperatureSample _ _ _ => {}
  | .thermalGapStep _ _ => {}
  | .dbnotify _ _ => {}
  | .queueMap _ => {}
  | .queueUnmap _ => {}
  | .qcmdMap _ _ => {}
  | .qcmdUnmap _ _ => {}
  | .qcmdClearFault _ _ => {}
  | .attnService _ => {}
  | .packetFetch _ => {}
  | .launch _ => {}
  | .callPacket _ => {}
  | .returnPacket _ => {}
  | .join _ => {}
  | .copy _ => {}
  | .signal _ => {}
  | .waitvalue _ => {}
  | .waitvaluePoll _ => {}
  | .waitvalueTimeout _ => {}
  | .preempt _ => {}
  | .refine _ => {}
  | .refineRunEnd _ => {}
  | .harbourRestart => {}
  | .flitReceive _ _ _ => {}
  | .flitReplay _ => {}
  | .portDown _ _ => {}
  | .portUp _ => {}
  | .rtgenFlip _ _ => {}
  | .ringdescWrite _ _ _ => {}
  | .registerWrite _ _ => {}
  | .tick => {}
  | .powerGood => {}
  | .bootStageComplete => {}
  | .recoveryImage _ => {}
  | .unitTrainingComplete _ => {}
  | .attestationRequest _ => {}
  | .islePowerGate _ => {}
  | .isleWake _ => {}
  | .calibrationComplete _ _ _ _ => {}
  | .perBankRefresh _ _ _ _ => {}

/-- A format whose words `rep` may repeat (R176). -/
inductive RepFmt where
  | a | v | k | m | t
  deriving DecidableEq, Repr

/-- The format of a major opcode that R176 lists; none for every other format (R68). -/
def repFmt (op : Nat) : Option RepFmt :=
  if 0x000 ≤ op ∧ op ≤ 0x000 then some .a
  else if 0x00b ≤ op ∧ op ≤ 0x00b then some .m
  else if 0x00f ≤ op ∧ op ≤ 0x00f then some .v
  else if 0x020 ≤ op ∧ op ≤ 0x020 then some .m
  else if 0x040 ≤ op ∧ op ≤ 0x041 then some .a
  else if 0x044 ≤ op ∧ op ≤ 0x05d then some .a
  else if 0x05f ≤ op ∧ op ≤ 0x066 then some .a
  else if 0x069 ≤ op ∧ op ≤ 0x081 then some .a
  else if 0x083 ≤ op ∧ op ≤ 0x083 then some .a
  else if 0x085 ≤ op ∧ op ≤ 0x08c then some .a
  else if 0x08d ≤ op ∧ op ≤ 0x08e then some .m
  else if 0x0a0 ≤ op ∧ op ≤ 0x0b8 then some .m
  else if 0x100 ≤ op ∧ op ≤ 0x146 then some .v
  else if 0x148 ≤ op ∧ op ≤ 0x151 then some .v
  else if 0x182 ≤ op ∧ op ≤ 0x185 then some .t
  else if 0x186 ≤ op ∧ op ≤ 0x187 then some .v
  else if 0x189 ≤ op ∧ op ≤ 0x18a then some .a
  else if 0x190 ≤ op ∧ op ≤ 0x19c then some .k
  else none

/-- The issue class of a major opcode (R66): 0 scalar, 1 vector, 2 array. -/
def issueClass (op : Nat) : Nat :=
  if [0x0AB, 0x0AC, 0x0AD, 0x0AE, 0x0AF, 0x0B2, 0x0B3, 0x0B8].contains op then 1
  else if op < 0x0C0 then 0 else if op < 0x180 then 1 else 2

end Sys2Proof
end

