-- ==== Sys2Proof/Machine/Sections.lean ====
section
/-! DEFINITION. Streams as the fetcher reads them: section headers, the section map, targets of transfers (R52-R57), and
entering a section (R55). -/

namespace Sys2Proof.Machine

/-! ### Headers and the map -/

/-- A section header's fields (R53). -/
structure Header where
  kind : Nat
  sec : Nat
  len : Nat
  wx : Nat
  wy : Nat
  deriving DecidableEq, Repr

/-- The header that 64 bits hold (R53). -/
def Header.ofBits (v : Nat) : Header :=
  { kind := v / 2 ^ 60, sec := v / 2 ^ 44 % 2 ^ 16, len := v / 2 ^ 32 % 2 ^ 12, wx := v / 2 ^ 16 % 2 ^ 16
    wy := v % 2 ^ 16 }

/-- A header that R54 accepts. -/
def Header.ok (h : Header) : Bool :=
  (h.kind == 1 || h.kind == 2) && h.sec != 0 && h.len != 0 && (h.kind == 1 || (h.wx == 0 && h.wy == 0))

/-- The bytes of the section that follow its header (R53, R57). -/
def Header.body (h : Header) : Nat := 12 * h.len

/-- The header bits at an address of the engine's code. -/
def Eng.headerBits (g : Eng) (a : Nat) : Nat := leNat (memReadN g.code a 8)

/-- The sections of the window from an address on (R52): header address and header. -/
def Eng.sectionsFrom (g : Eng) : Nat → Nat → List (Nat × Header)
  | 0, _ => []
  | n + 1, a =>
    if g.pcc.top < a + 8 then []
    else
      let h := Header.ofBits (g.headerBits a)
      if h.ok then (a, h) :: g.sectionsFrom n (a + 8 + h.body) else []

/-- The section map of the engine's window (R52), from the window's first byte on, where PCC's cursor stands: its base lies below
where WOFF is no multiple of 16 (log entry 121). -/
def Eng.sections (g : Eng) : List (Nat × Header) := g.sectionsFrom (g.pcc.length / 20 + 1) g.pcc.cursor

/-- The word at an address of the engine's code (R4, R58). -/
def Eng.word (g : Eng) (a : Nat) : BitVec 96 := wordOfBytes (memReadN g.code a 12)

/-- The stop bit of the word at an address (R58). -/
def Eng.stopAt (g : Eng) (a : Nat) : Bool := (g.word a).getLsbD 95

/-- The address is the first word of a group of the section that starts at `hdr` (R56). -/
def Eng.groupStart (g : Eng) (hdr : Nat) (a : Nat) : Bool :=
  decide (hdr + 8 ≤ a) && (a - hdr - 8) % 12 == 0 && (a == hdr + 8 || g.stopAt (a - 12))

/-- Where a transfer leads (R56). -/
inductive Target where
  | outside
  | bad
  | header (a : Nat) (h : Header)
  | group (a : Nat) (h : Header)
  deriving DecidableEq, Repr

/-- The place a target names in the engine's window (R56). -/
def Eng.target (g : Eng) (t : Int) : Target :=
  if t < g.pcc.base ∨ (g.pcc.top : Int) ≤ t then .outside
  else
    let a := t.toNat
    match g.sections.find? (fun s => decide (s.1 ≤ a) && decide (a < s.1 + 8 + s.2.body)) with
    | none => .bad
    | some (hdr, h) =>
      if h.kind ≠ 1 then .bad
      else if a = hdr then .header hdr h
      else if g.groupStart hdr a then .group hdr h else .bad

/-! ### Traps of fetch and of headers -/

/-- A fetch of `n` bytes is within the window and PCC (R52, R81). -/
def Eng.fetchOk (g : Eng) (a n : Nat) : Bool :=
  g.pcc.tag && g.pcc.space == 5 && g.pcc.has pEx && decide (g.pcc.base ≤ a) && decide (a + n ≤ g.pcc.top)
    && decide (a + n ≤ 2 ^ 19)

/-- The first byte of a fetch that cannot be fetched (R362). -/
def Eng.fetchStop (g : Eng) (a : Nat) : Nat :=
  if g.fetchOk a 1 then max a (min g.pcc.top (2 ^ 19)) else a

/-- The number of the section that holds a PC, by the section map; 0 where none does (R361). -/
def Eng.secAt (g : Eng) (pc : Nat) : BitVec 16 :=
  match g.sections.find? (fun s => decide (s.1 + 8 ≤ pc) && decide (pc < s.1 + 8 + s.2.body)) with
  | some (_, x) => BitVec.ofNat 16 x.sec
  | none => 0

/-- A record of fetch, header, encoding or group (R361, R362). -/
def fetchRec (co : CoreId) (e : EngId) (g : Eng) (code : Byte) (pc slot : Nat) (branch : Bool) (detail : BitVec 256) :
    TrapRec :=
  { code := code, unit := BitVec.ofNat 8 (engUnit e), slot := BitVec.ofNat 3 slot, branch := branch
    sec := g.secAt pc, core := BitVec.ofNat 11 co.core, pc := BitVec.ofNat 48 pc, detail := detail }

/-! ### Entering a section -/

/-- The engines that WX and WY name (R53). -/
def waitEngines : EngId → EngId × EngId
  | .l => (.c, .s)
  | .c => (.l, .s)
  | .s => (.l, .c)

/-- A wait W on an engine is satisfied (R55). -/
def Eng.retired (g : Eng) (w : BitVec 16) : Bool :=
  w == 0 || (g.rsec != 0 && decide ((g.rsec - w).toNat < 2 ^ 15))

/-- An engine comes in turn: in one core cycle the engines act in the order L, C, S (R171, R364), so none that follows it has
used the cycle. -/
def Core.inTurn (k : Core) : EngId → Bool
  | .l => decide (k.cE.busy ≤ k.cyc) && decide (k.s.busy ≤ k.cyc)
  | .c => decide (k.s.busy ≤ k.cyc)
  | .s => true

/-- An engine of a core may act: its core runs a task, is neither stopped, but for a trap of this very cycle, nor frozen, the
engine comes in turn and is not done. -/
def Core.canAct (k : Core) (e : EngId) : Bool :=
  k.task.isSome && (!k.stopped || k.stopOpen) && !k.frozen && k.inTurn e
    && ((k.eng e).st == .issuing || (k.eng e).st == .blocked)

/-- An engine of a core changed by a function. -/
def Hw.onEng (h : Hw) (co : CoreId) (e : EngId) (f : Eng → Eng) : Hw :=
  h.onCore co (fun k => k.setEng e (f (k.eng e)))

/-- The waits of the section an engine stands at (R55): it enters, is blocked, or traps on a partner that is done. -/
def Hw.enterWaits (h : Hw) (co : CoreId) (e : EngId) (x : Sect) : Hw :=
  let k := h.core co
  let (ex, ey) := waitEngines e
  let stuck := fun (w : BitVec 16) (p : EngId) => !(k.eng p).retired w && (k.eng p).st == .done
  if stuck x.wx ex || stuck x.wy ey then
    h.engTrap co e (fetchRec co e (k.eng e) 0x61 x.hdr 0 false (detField 32 8 ((k.eng e).headerBits x.hdr)))
  else if (k.eng ex).retired x.wx && (k.eng ey).retired x.wy then
    h.onEng co e (fun g => { g with sec := some { x with entered := true }, st := .issuing })
  else h.onEng co e (fun g => { g with st := .blocked })

/-- A section reached at an address (R55): the engine stands in it, its waits to be met. -/
def Hw.reach (h : Hw) (co : CoreId) (e : EngId) (hdr : Nat) (x : Header) (pc : Nat) : Hw :=
  let s : Sect := {
    hdr := hdr, sec := BitVec.ofNat 16 x.sec, len := x.len, wx := BitVec.ofNat 16 x.wx, wy := BitVec.ofNat 16 x.wy
    entered := false }
  (h.onEng co e (fun g => { g with sec := some s, pc := BitVec.ofNat 48 pc, xfer := none })).enterWaits co e s

/-- Sequential fetch from an address on: pools are stepped over, the next code section is reached (R54, R57). Where fewer than the 8 bytes
of a header are left before the top of the window, the fetch leaves the window: 0x60, at the first byte past it (R52, log entry
109). -/
def Hw.walkTo (h : Hw) (co : CoreId) (e : EngId) : Nat → Nat → Hw
  | 0, _ => h
  | n + 1, a =>
    let g := (h.core co).eng e
    if !g.fetchOk a 8 then h.engTrap co e (fetchRec co e g 0x60 (g.fetchStop a) 0 false 0)
    else
      let v := g.headerBits a
      let x := Header.ofBits v
      if !x.ok then h.engTrap co e (fetchRec co e g 0x61 a 0 false (detField 32 8 v))
      else if x.kind = 1 then h.reach co e a x (a + 8)
      else h.walkTo co e n (a + 8 + x.body)

/-- A transfer's target in no section of its own, or in another section (R56, R173). -/
def Hw.followXfer (h : Hw) (co : CoreId) (e : EngId) (from_ : BitVec 48) (t : Int) : Hw :=
  let g := (h.core co).eng e
  let pc := (t % 2 ^ 48).toNat
  match g.target t with
  | .outside => h.engTrap co e (fetchRec co e g 0x60 pc 0 true (detField 32 8 from_.toNat))
  | .bad => h.engTrap co e (fetchRec co e g 0x61 pc 0 true 0)
  | .header a x => h.reach co e a x (a + 8)
  | .group a x => h.reach co e a x pc

/-- SECTION_ENTRY: an engine that stands in no section reads the header it has come to, and enters the section once its
waits are satisfied (R55). -/
def execSectionEntry (co : CoreId) (e : EngId) (s : State) : Out :=
  let k := s.toHw.core co
  let g := k.eng e
  if !k.canAct e || (k.stopped && decide (k.cyc < g.busy)) then .next s
  else
    .next (s.upd (fun h =>
      match g.sec with
      | some x => if x.entered then h else h.enterWaits co e x
      | none =>
        match g.xfer with
        | some (f, t) => h.followXfer co e f t
        | none => h.walkTo co e (g.pcc.length / 20 + 1) g.pc.toNat))

end Sys2Proof.Machine
end

