-- ==== Sys2Proof/Machine/Routes.lean ====
section
/-! DEFINITION. Routes across the panel (R12, R15, R16): route tables, causeways and transit switches, which site or quay reaches
which, changes of the paths, and an act that waits for a route. -/

namespace Sys2Proof.Machine

/-- The port that a site's route table gives for a destination (R15): a detour, else x first, then y. -/
def Hw.exit (h : Hw) (site dst : Nat) : Nat :=
  let straight :=
    if site % 26 < dst % 26 then 1
    else if dst % 26 < site % 26 then 3
    else if site / 26 < dst / 26 then 2 else 0
  tabGet straight h.detours (site * 1024 + dst)

/-- The hops of the route from a site to another (R15): each with the port that it leaves by. -/
def Hw.hops (h : Hw) (dst : Nat) : Nat → Nat → List (Nat × Nat)
  | 0, _ => []
  | f + 1, site =>
    if site = dst then []
    else
      let p := h.exit site dst
      (site, p) :: (match portSite site p with
        | some n => h.hops dst f n
        | none => [])

/-- A causeway port of a site is in service (R12, R26). -/
def Hw.portAlive (h : Hw) (site port : Nat) : Bool :=
  if isleOk site then (h.isle site).ports.getLsbD port else (tabGet 15#4 h.sqPorts site).getLsbD port

/-- A site forwards traffic: a square by its router, an isle by its transit switch, in service or not (R15). -/
def Hw.forwards (h : Hw) (site : Nat) : Bool := !isleOk site || (h.isle site).transit

/-- A hop's causeway is in service at both its ends, and leads to a site. -/
def Hw.hopAlive (h : Hw) (x : Nat × Nat) : Bool :=
  h.portAlive x.1 x.2 && (match portSite x.1 x.2 with
    | some n => h.portAlive n ((x.2 + 2) % 4)
    | none => false)

/-- The route between two sites leads there: every causeway is in service and every site between them forwards (R15). -/
def Hw.linked (h : Hw) (src dst : Nat) : Bool :=
  let hs := h.hops dst 676 src
  hs.all h.hopAlive && (hs.drop 1).all (fun x => h.forwards x.1)
    && (match hs.getLast? with
      | some x => portSite x.1 x.2 == some dst
      | none => src == dst)

/-! ### Quays -/

/-- The 26 sites of the edge that a quay attaches to, each by the port of the quay's own number (R12). -/
def edgeSites (quay : Nat) : List Nat :=
  (List.range 26).map (fun i => match quay with
    | 0 => i
    | 1 => 26 * i + 25
    | 2 => 650 + i
    | _ => 26 * i)

/-- A quay and a site reach each other by a site of the quay's edge (R12, R15): its port to the quay is in service, and it is the
other end itself, or forwards and has a route on. `out` is the way from the quay. -/
def Hw.byEdge (h : Hw) (out : Bool) (quay site edge : Nat) : Bool :=
  (portSite edge quay).isNone && h.portAlive edge quay
    && (edge == site || (h.forwards edge && if out then h.linked edge site else h.linked site edge))

/-- A place of the panel reaches another: a site by its number, quay q as 676 + q, as in a master (R97). Of the sites of a quay's
edge any may carry what passes between quay and panel: the manual does not say which does (log entry 107). -/
def Hw.reaches (h : Hw) (src dst : Nat) : Bool :=
  if src == dst then true
  else if src < 676 then
    if dst < 676 then h.linked src dst
    else h.byEdge false (dst - 676) src src || (edgeSites (dst - 676)).any (fun e => h.byEdge false (dst - 676) src e)
  else if dst < 676 then
    h.byEdge true (src - 676) dst dst || (edgeSites (src - 676)).any (fun e => h.byEdge true (src - 676) dst e)
  else
    (edgeSites (src - 676)).any (fun e => h.portAlive e (src - 676) && h.forwards e
      && (edgeSites (dst - 676)).any (fun x => h.byEdge false (dst - 676) e x))

/-! ### Changes of the paths -/

/-- A change of the paths takes effect (R16, R27). -/
def Hw.changePath (h : Hw) (c : PathChange) : Hw :=
  match c with
  | .detour site dst port => { h with detours := tabPut port (site * 1024 + dst) h.detours }
  | .direct site dst => { h with detours := tabDel (site * 1024 + dst) h.detours }
  | .port site k => { h with sqPorts := tabPut (tabGet 15 h.sqPorts site &&& ~~~(BitVec.ofNat 4 (2 ^ k))) site h.sqPorts }

/-- Changes of the paths take effect at a moment when no launch is inside a frame (R16, log entry 85). -/
def Hw.settleRoutes (h : Hw) : Hw :=
  if h.launches.any (fun l => l.2.st == .frame) then h
  else { h.pathPend.foldl (fun h c => h.changePath c) h with pathPend := [] }

/-- A change of the paths is held as pending (R16, R27). -/
def Hw.askPath (h : Hw) (c : PathChange) : Hw := ({ h with pathPend := h.pathPend ++ [c] } : Hw).settleRoutes

/-! ### An act that waits for a route -/

/-- An access of the act under way has no route yet. -/
def Hw.await (h : Hw) : Hw := { h with stall := true }

/-- The hardware as an act finds it: no access of it waits for a route. -/
def Hw.atRest (h : Hw) : Hw := { h with stall := false }

/-- AN ACT THAT NEEDS ROUTES: it happens as a whole, or, while an access of it has no route, not at all (R15: every transfer takes
one; it waits for a route as a command's request does, log entry 107). -/
def State.attempt (s : State) (f : Hw → Hw) : State :=
  let h := f s.toHw.atRest
  if h.stall then s else { s with toHw := { h with stall := s.toHw.stall } }

end Sys2Proof.Machine
end

