-- ==== Sys2Proof/Machine/Mem.lean ====
section
/-! DEFINITION. Global memory and what stands before it: masters and access tables (R97, R98), physical addresses and home
slices (R96), lines with their metadata (R101-R105), row tracking (R107, R108), monitors (R114), page counters (R111),
doorbells (R335-R338), and translation (R89-R95). -/

namespace Sys2Proof.Machine

/-! ### Access tables -/

/-- The operations of an access-table entry (R97), by bit. -/
def opRead : Nat := 0
/-- Write (R97). -/
def opWrite : Nat := 1
/-- Accumulate (R97). -/
def opAcc : Nat := 2
/-- Atomic-return (R97). -/
def opAtom : Nat := 3
/-- Continuation-launch (R97). -/
def opCont : Nat := 4
/-- Management (R97). -/
def opMgmt : Nat := 6

/-- A request's master: source site index or 676 + q, and partition key (R97). -/
structure Master where
  src : Nat
  pkey : BitVec 6 := 0
  deriving DecidableEq, Repr

/-- An entry of an access table decides a request: it is valid, and master and range match (R97). -/
def entryMatches (e : AccEntry) (m : Master) (addr : Nat) : Bool :=
  let mask := e.extractLsb' 28 10
  e.getLsbD 0 && (e.extractLsb' 38 10 &&& mask == BitVec.ofNat 10 m.src &&& mask)
    && (e.getLsbD 21 || e.extractLsb' 22 6 == m.pkey)
    && decide ((e.extractLsb' 64 32).toNat ≤ addr / 65536) && decide (addr / 65536 ≤ (e.extractLsb' 96 32).toNat)

/-- The table admits an operation: the first entry that matches permits it (R97). -/
def AccTable.admits (t : AccTable) (m : Master) (op addr : Nat) : Bool :=
  match ((List.range 64).map (fun i => tabGet 0 t.entries i)).find? (fun e => entryMatches e m addr) with
  | some e => e.getLsbD (8 + op)
  | none => false

/-- A denied request is counted and recorded (R98). -/
def AccTable.deny (t : AccTable) (m : Master) (op addr : Nat) : AccTable :=
  { t with
    viol := if t.viol = 0xFFFFFFFF#32 then t.viol else t.viol + 1
    last := some (m.src, m.pkey.toNat, addr, op) }

/-! ### Physical addresses -/

/-- What a physical address names (R96). -/
inductive PaTarget where
  | line
  | bell (q : Nat)
  | nothing
  deriving DecidableEq, Repr

/-- The target of a physical address (R96). -/
def paTarget (pa : Nat) : PaTarget :=
  match pa / 2 ^ 46 with
  | 0 => if squareOk (pa / 2 ^ 36 % 1024) then .line else .nothing
  | 1 =>
    let q := pa / 2 ^ 44 % 4
    let off := pa % 2 ^ 26
    if pa / 2 ^ 26 % 2 ^ 18 = 0 ∧ off / 2 ^ 24 = q then .bell (off / 65536) else .nothing
  | _ => .nothing

/-- The square of a global physical address (R96). -/
def paSite (pa : Nat) : Nat := pa / 2 ^ 36

/-- The home slice of a global physical address within its square (R96). -/
def paSlice (pa : Nat) : Nat := (pa / 256 % 8192 + 53 * (pa / 2 ^ 21 % 2 ^ 15 % 160)) % 160

/-- A slice's number in the model's tables. -/
def sliceKey (site slice : Nat) : Nat := site * 160 + slice

/-- A slice. -/
def Hw.slice (h : Hw) (site slice : Nat) : Slice := tabGet { interval := h.cfg.interval } h.slices (sliceKey site slice)

/-- A slice changed by a function. -/
def Hw.onSlice (h : Hw) (site slice : Nat) (f : Slice → Slice) : Hw :=
  { h with slices := tabPut (f (h.slice site slice)) (sliceKey site slice) h.slices }

/-- The home slice of an address changed by a function. -/
def Hw.onHome (h : Hw) (pa : Nat) (f : Slice → Slice) : Hw := h.onSlice (paSite pa) (paSlice pa) f

/-- The home slice of an address. -/
def Hw.home (h : Hw) (pa : Nat) : Slice := h.slice (paSite pa) (paSlice pa)

/-! ### Rows -/

/-- The first 256-byte line of a 2 MiB block of a square that a slice has, within the block (R96). -/
def sliceStart (slice blk : Nat) : Nat := (slice + 160 - 53 * (blk % 160) % 160) % 160

/-- The lines of a block of 8,192 that a slice has: 51 or 52 (R96). -/
def sliceCount (slice blk : Nat) : Nat := if sliceStart slice blk < 32 then 52 else 51

/-- The lines that a slice has in the blocks before one: 8,192 in every 160 blocks (R96). -/
def sliceBefore (slice blk : Nat) : Nat :=
  8192 * (blk / 160) + (List.range (blk % 160)).foldl (fun n b => n + sliceCount slice b) 0

/-- The slice-local number of a 256-byte line of a square, in ascending order (R96, R106). -/
def sliceIndex (slice line : Nat) : Nat :=
  sliceBefore slice (line / 8192) + (line % 8192 - sliceStart slice (line / 8192)) / 160

/-- The 256-byte line of a slice-local number, if the square has it (R96). -/
def sliceLine (slice i : Nat) : Option Nat :=
  match (List.range 160).find? (fun b => decide (sliceBefore slice b ≤ i % 8192)
      && decide (i % 8192 < sliceBefore slice b + sliceCount slice b)) with
  | none => none
  | some b =>
    let blk := i / 8192 * 160 + b
    if blk < 32768 then some (blk * 8192 + sliceStart slice blk + 160 * (i % 8192 - sliceBefore slice b)) else none

/-- The bank and row of a 64-byte line (R100): sixteen lines that follow one another in a slice make a row; the numbers of the rows
the manual does not give (log entry 110). -/
def rowOf (line : Nat) : BitVec 6 × BitVec 18 :=
  let site := line / 2 ^ 30
  let slice := paSlice (64 * line)
  let r := BitVec.ofNat 24 (sliceIndex slice (line / 4 % 2 ^ 28) / 4) ^^^ Config.rowKey site slice
  (r.extractLsb' 18 6, r.extractLsb' 0 18)

/-- The 64-byte lines of a row in ascending order, by their numbers: sixteen, fewer at the end of a slice, none of a row that the
slice does not have (R100, R108). -/
def rowLines (site slice : Nat) (r : BitVec 6 × BitVec 18) : List Nat :=
  let first := 4 * ((r.1 ++ r.2) ^^^ Config.rowKey site slice).toNat
  (List.range 4).flatMap (fun i => match sliceLine slice (first + i) with
    | some l => (List.range 4).map (fun p => site * 2 ^ 30 + 4 * l + p)
    | none => [])

/-- The entry of a row in the tracking table with its count; of an untracked row the entry that it replaces, with 0 (R107). An entry
whose count has leaked to 0 tracks no row any more (log entry 112). -/
def Slice.rowEntry (x : Slice) (bank : BitVec 6) (row : BitVec 18) : Nat × Nat :=
  let ents := (List.range 256).map (fun i => (i, tabGet ({} : RowCnt) x.rows i))
  match ents.find? (fun e => e.2.bank == bank && e.2.row == row && e.2.count != 0) with
  | some e => (e.1, e.2.count)
  | none =>
    ((ents.foldl (fun (b : Nat × RowCnt) e => if e.2.count < b.2.count then e else b) (0, tabGet {} x.rows 0)).1, 0)

/-- A row awaits its spare (R107, R108). -/
def Slice.awaitSpare (x : Slice) (r : BitVec 6 × BitVec 18) : Slice :=
  { x with spareWait := if x.spareWait.contains r then x.spareWait else x.spareWait ++ [r] }

/-- Corrected errors of a row are added to its count (R107): at 8 the row awaits its spare and the entry is free. A count of 8
is one that R110 keeps. -/
def Slice.noteErrors (x : Slice) (bank : BitVec 6) (row : BitVec 18) (n : Nat) : Slice :=
  let (i, c) := x.rowEntry bank row
  if n = 0 ∨ c = 8 then x
  else if 8 ≤ c + n then ({ x with rows := tabPut {} i x.rows } : Slice).awaitSpare (bank, row)
  else { x with rows := tabPut { count := c + n, bank := bank, row := row } i x.rows }

/-- A corrected error met on a read or by scrub (R105-R107). -/
def Slice.corrected (x : Slice) (line : Nat) : Slice :=
  let r := rowOf line
  { x.noteErrors r.1 r.2 1 with cecnt := if x.cecnt = 0xFFFF#16 then x.cecnt else x.cecnt + 1 }

/-- A remap entry is of a row, in a state (R108). -/
def Remap.is (e : Remap) (state : BitVec 2) (r : BitVec 6 × BitVec 18) : Bool :=
  e.state == state && e.bank == r.1 && e.row == r.2

/-- An uncorrectable error: its row is spared at once (R105); in a committed spare, that spare is withdrawn (R108). A row whose
copy to a spare runs is being spared already, and is not spared again (log entry 90). -/
def Slice.uncorrected (x : Slice) (line : Nat) : Slice :=
  let r := rowOf line
  if x.remap.any (fun e => e.2.is 1 r) then x
  else ({ x with
    remap := x.remap.map (fun e => if e.2.is 2 r then (e.1, { e.2 with state := 3 }) else e) } : Slice).awaitSpare r

/-! ### Lines -/

/-- The metadata of the line that holds an address (R103). -/
def Hw.lineOf (h : Hw) (pa : Nat) : LineMeta := tabGet {} h.lineMeta (pa / 64)

/-- The metadata of a line changed by a function. -/
def Hw.onLine (h : Hw) (pa : Nat) (f : LineMeta → LineMeta) : Hw :=
  { h with lineMeta := tabPut (f (h.lineOf pa)) (pa / 64) h.lineMeta }

/-- What a check finds in a line: what the step says, or the error that its cells hold. -/
def Hw.eccOf (h : Hw) (pa : Nat) (ecc : Ecc) : Ecc :=
  match ecc, tabFind h.errs (pa / 64) with
  | .clean, none => .clean
  | .uncorrectable, _ => .uncorrectable
  | _, some true => .uncorrectable
  | _, _ => .corrected

/-- What the check of a line gives on a read (R105): whether the data is returned, and the slice's notes. The cells then hold
no more error: the corrected line is written back, or the line is BAD. -/
def Hw.checkLine (h : Hw) (pa : Nat) (ecc : Ecc) : Bool × Hw :=
  if (h.lineOf pa).bad then (false, h)
  else
    let g : Hw := { h with errs := tabDel (pa / 64) h.errs }
    match h.eccOf pa ecc with
    | .clean => (true, h)
    | .corrected => (true, g.onHome pa (fun x => x.corrected (pa / 64)))
    | .uncorrectable => (false, (g.onHome pa (fun x => x.uncorrected (pa / 64))).onLine pa (fun m => { m with bad := true }))

/-- The stamp of a task's write (R103, R104). -/
def Task.stamp (t : Task) : LineMeta :=
  { sv := true, frame := t.frame.setWidth 12, wave := BitVec.ofNat 8 t.wave
    taskh := BitVec.ofNat 12 ((BitVec.ofNat 11 t.task ^^^ BitVec.ofNat 11 t.iter).toNat) }

/-- The status of an `await.mem` arrives in its gD (R266). -/
def Hw.wake (h : Hw) (co : CoreId) (e : EngId) (status : Nat) : Hw :=
  h.onEng co e (fun g => match g.amem with
    | none => g
    | some m =>
      let v : GReg := ⟨BitVec.ofNat 64 status, false⟩
      { g with amem := none, g := if m.d = 0 then g.g else g.g.set m.d.toNat v m.d.isLt })

/-- The monitors of a square. -/
def Hw.monitorsOf (h : Hw) (site : Nat) : List Monitor := tabGet [] h.monitors site

/-- Monitors that a test names are released with a status (R113, R114). -/
def Hw.releaseMonitors (h : Hw) (site status : Nat) (p : Monitor → Bool) : Hw :=
  let ms := h.monitorsOf site
  let h' := { h with monitors := tabPut (ms.filter (fun m => !p m)) site h.monitors }
  (ms.filter p).foldl (fun h m => h.wake m.co m.eng status) h'

/-- Bytes written into a line at its slice (R101, R104): a changed line takes the stamp and releases its monitors. A write of the
whole line clears BAD; one of a part needs the old bytes, and leaves an uncorrectable line unchanged (R105). -/
def Hw.writeLine (h : Hw) (pa : Nat) (bs : List Byte) (stamp : LineMeta) : Hw :=
  let whole := decide (pa % 64 = 0) && decide (64 ≤ bs.length)
  let (ok, h) := if whole then (true, ({ h with errs := tabDel (pa / 64) h.errs } : Hw)) else h.checkLine pa .clean
  let h1 := if whole && (h.lineOf pa).bad then h.onLine pa (fun m => { m with bad := false }) else h
  if !ok || changedAt h.mem pa bs == [] then h1
  else
    let h2 := (h1.write pa bs).onLine pa (fun m => { stamp with bad := m.bad })
    h2.releaseMonitors (paSite pa) 0 (fun m => m.line == pa / 64)

/-- A range of bytes cut at 64-byte lines: place and length of each cut. -/
def lineCuts : Nat → Nat → Nat → List (Nat × Nat)
  | 0, _, _ => []
  | f + 1, a, n =>
    if n = 0 then []
    else
      let k := min n (64 - a % 64)
      (a, k) :: lineCuts f (a + k) (n - k)

/-- Bytes of any length written at their slices, line by line (R101). -/
def Hw.writeLines (h : Hw) (pa : Nat) (bs : List Byte) (stamp : LineMeta) : Hw :=
  (lineCuts (bs.length / 64 + 2) pa bs.length).foldl
    (fun h c => h.writeLine c.1 ((bs.drop (c.1 - pa)).take c.2) stamp) h

/-- The lines that a request changes in part are read first, and checked (R105). -/
def Hw.checkCuts (h : Hw) (cuts : List (Nat × Nat)) : Hw :=
  cuts.foldl (fun h c => if c.2 = 64 then h else (h.checkLine c.1 .clean).2) h

/-- A READING MEETS THE ERRORS OF ITS LINES (R105): of the lines whose cells hold an error, those without which the reading
fails are checked. -/
def Hw.meetErrs (h : Hw) (reads : Hw → Bool) : Hw :=
  if !reads h then h
  else h.errs.foldl (fun g e =>
    if reads (h.onLine (64 * e.1) (fun m => { m with bad := true })) then g else (g.checkLine (64 * e.1) .clean).2) h

/-- One counted command at a 2 MiB block, from an isle (R111). -/
def PageCnt.count (p : PageCnt) (isle : Nat) : PageCnt :=
  let p := { p with total := if p.total = 0xFFFFFF#24 then p.total else p.total + 1 }
  if p.cnt = 0 then { p with dom := isle, cnt := 1 }
  else if p.dom = isle then { p with cnt := if p.cnt = 0xFFFFFF#24 then p.cnt else p.cnt + 1 }
  else { p with cnt := p.cnt - 1 }

/-- The page counter of an address's block, changed by a function. -/
def Hw.onPage (h : Hw) (pa : Nat) (f : PageCnt → PageCnt) : Hw :=
  { h with pagecnt := tabPut (f (tabGet {} h.pagecnt (pa / 2 ^ 21))) (pa / 2 ^ 21) h.pagecnt }

/-! ### Accesses of the harbour and the controllers -/

/-- The master that the harbour's quay is for a queue (R97). -/
def quayMaster (q : Nat) (pkey : BitVec 6) : Master := { src := 676 + q / 256, pkey := pkey }

/-- What stands before a request of a master: no route to its target yet, a denial, or no data. -/
inductive Bar where
  | route
  | denied
  | none_
  deriving DecidableEq, Repr

/-- What bars a request at a physical address, if anything (R15, R96, R97, R105): a slice is reached, admits it, and has the data of
the line; a read of quay register space gives zeros. -/
def Hw.barAt (h : Hw) (m : Master) (op pa : Nat) : Option Bar :=
  match paTarget pa with
  | .line =>
    if !h.reaches m.src (paSite pa) then some .route
    else if !(h.home pa).acc.admits m op pa then some .denied
    else if decide (op = opRead) && (h.lineOf pa).bad then some .none_
    else none
  | .bell q => if !h.reaches m.src (676 + q / 256) then some .route else if op = opRead then none else some .none_
  | .nothing => some .none_

/-- The first of some requests that is barred has its effect (R15, R98): the act waits for the route, or the denial is counted. -/
def Hw.meetBar (h : Hw) (m : Master) (op : Nat) (pas : List Nat) : Hw :=
  match pas.findSome? (fun pa => (h.barAt m op pa).map (fun b => (pa, b))) with
  | some (_, .route) => h.await
  | some (pa, .denied) => h.onHome pa (fun x => { x with acc := x.acc.deny m op pa })
  | _ => h

/-- Some bytes of one line written by a master at a physical address, as it may (R97, R98, R101). -/
def Hw.writeAs (h : Hw) (m : Master) (pa : Nat) (bs : List Byte) : Hw :=
  match h.barAt m opWrite pa with
  | some _ => h.meetBar m opWrite [pa]
  | none => h.writeLine pa bs {}

/-! ### Doorbells -/

/-- A quay. -/
def Hw.quay (h : Hw) (q : Nat) : Quay := tabGet {} h.quays q

/-- A quay changed by a function. -/
def Hw.onQuay (h : Hw) (q : Nat) (f : Quay → Quay) : Hw := { h with quays := tabPut (f (h.quay q)) q h.quays }

/-- The slot that holds a queue (R336). -/
def Quay.slotOf (y : Quay) (n : Nat) : Option Nat := (y.slots.find? (fun s => s.2.q == n)).map (·.1)

/-- The physical address of a queue's record (R334). -/
def Hw.recordPa (h : Hw) (n : Nat) : Nat := h.cfg.qtbase + 64 * n

/-- A max-update of a queue's SHADOW at its home slice (R337), a write of the quay's (R97, log entry 120). -/
def Hw.maxShadow (h : Hw) (n : Nat) (v : BitVec 64) : Hw :=
  let pa := h.recordPa n + 48
  h.writeAs (quayMaster n 0) pa (leBytes 8 (max (h.num pa 8) v.toNat))

/-- A doorbell write of a queue at its block (R335, R337, R338): the write index takes the maximum; while the queue holds
no slot the write goes to SHADOW and sets the ATTN bit. -/
def Hw.notify (h : Hw) (n : Nat) (v : BitVec 64) : Hw :=
  let q := n / 256
  match (h.quay q).slotOf n with
  | some i => h.onQuay q (fun y => { y with
      slots := (let s := tabGet { q := n } y.slots i
        tabPut { s with widx := if s.widx.ult v then v else s.widx } i y.slots) })
  | none => (h.maxShadow n v).onQuay q (fun y => { y with attn := setAdd n y.attn })

/-- A request's reach into quay register space (R96): an 8-byte write at the first byte of a DBNOTIFY, admitted by the
block's table, is performed; any other write is counted as a violation and refused. -/
def Hw.bellWrite (h : Hw) (m : Master) (n off : Nat) (bs : List Byte) : Bool × Hw :=
  let q := n / 256
  let addr := n * 65536 + off
  if decide (off = 0) && decide (bs.length = 8) && (h.quay q).acc.admits m opWrite addr then
    (true, h.notify n (BitVec.ofNat 64 (leNat bs)))
  else (false, h.onQuay q (fun y => { y with acc := y.acc.deny m opWrite addr }))

/-! ### Translation -/

/-- A leaf of a walk (R90, R91). -/
structure Leaf where
  pa : Nat
  size : Nat
  w : Bool
  cow : Bool
  deriving DecidableEq, Repr

/-- What a walk gives (R92): a leaf with its level and entry, or a fault with the same. -/
inductive WalkRes where
  | ok (l : Leaf) (level : Nat) (entry : BitVec 64)
  | fault (level : Nat) (entry : BitVec 64)
  deriving DecidableEq, Repr

/-- The table index of a level (R90). -/
def walkIndex (va level : Nat) : Nat :=
  match level with
  | 0 => va / 2 ^ 39 % 512
  | 1 => va / 2 ^ 30 % 512
  | 2 => va / 2 ^ 21 % 512
  | _ => va / 2 ^ 16 % 32

/-- The page size of a leaf at a level (R90). -/
def pageSize (level : Nat) : Nat :=
  match level with
  | 1 => 2 ^ 30
  | 2 => 2 ^ 21
  | _ => 2 ^ 16

/-- ADDR of an entry, as a physical address (R91). -/
def entryPa (e : BitVec 64) : Nat := (e.extractLsb' 8 40).toNat * 256

/-- A table entry breaks R91 or R92 at a level. -/
def entryBad (e : BitVec 64) (level : Nat) : Bool :=
  let leaf := e.getLsbD 1
  let align := if leaf then pageSize level else if level = 2 then 256 else 4096
  e.extractLsb' 48 16 != 0 || e.extractLsb' 4 4 != 0 || (leaf && level == 0) || (!leaf && decide (3 ≤ level))
    || entryPa e % align != 0 || paTarget (entryPa e) == .nothing

/-- A walk from a table of a level down (R90-R92). -/
def Hw.walkFrom (h : Hw) (va : Nat) : Nat → Nat → Nat → WalkRes
  | 0, level, _ => .fault level 0
  | f + 1, level, table =>
    let e := BitVec.ofNat 64 (h.num (table + 8 * walkIndex va level) 8)
    if !e.getLsbD 0 || entryBad e level then .fault level e
    else if e.getLsbD 1 then
      .ok { pa := entryPa e, size := pageSize level, w := e.getLsbD 2, cow := e.getLsbD 3 } level e
    else h.walkFrom va f (level + 1) (entryPa e)

/-- The walk of a root table. -/
def Hw.walkRoot (h : Hw) (root va : Nat) : WalkRes := h.walkFrom va 4 0 root

/-- The physical address that a leaf gives. -/
def Leaf.at (l : Leaf) (va : Nat) : Nat := l.pa + va % l.size

/-- The places of the entries that a walk reads (R90). -/
def Hw.entriesFrom (h : Hw) (va : Nat) : Nat → Nat → Nat → List Nat
  | 0, _, _ => []
  | f + 1, level, table =>
    let pa := table + 8 * walkIndex va level
    let e := BitVec.ofNat 64 (h.num pa 8)
    pa :: (if !e.getLsbD 0 || entryBad e level || e.getLsbD 1 then [] else h.entriesFrom va f (level + 1) (entryPa e))

/-- The physical address of a virtual one under a root table, for an access of a class; none where it faults. -/
def Hw.paOf (h : Hw) (root va : Nat) (write : Bool) : Option Nat :=
  match h.walkRoot root va with
  | .ok l _ _ => if write && (!l.w || l.cow) then none else some (l.at va)
  | .fault _ _ => none

/-- A context of an isle (R94). -/
def Isle.context (x : Isle) (c : BitVec 4) : Ctx := tabGet {} x.ctx c.toNat

/-- A TLB entry covers an address of a context (R93). -/
def TlbEntry.covers (t : TlbEntry) (c : BitVec 4) (va : Nat) : Bool := t.ctx == c && decide (va / t.size = t.va / t.size)

/-- What the translation unit answers at once (R92, R93). -/
inductive Xlate where
  | miss
  | fault (code : Byte)
  | hit (pa : Nat)
  deriving DecidableEq, Repr

/-- Translation through the isle's unit (R92, R93). -/
def Hw.xlate (h : Hw) (isle : Nat) (c : BitVec 4) (va : Nat) (write : Bool) : Xlate :=
  let x := h.isle isle
  if !(x.context c).en then .fault 0x20
  else match x.tlb.find? (fun t => t.covers c va) with
    | none => .miss
    | some t => if write && (!t.w || t.cow) then .fault 0x21 else .hit (t.pa + va % t.size)

/-- The detail of a translation or write-protect fault (R363). -/
def Hw.xlateDetail (h : Hw) (isle : Nat) (c : BitVec 4) (va : Nat) (write : Bool) : BitVec 256 :=
  let x := (h.isle isle).context c
  let (lv, e) := if !x.en then (0, 0#64) else match h.walkRoot x.root va with
    | .ok _ lv e => (lv, e)
    | .fault lv e => (lv, e)
  detField 32 1 c.toNat ||| detField 33 1 lv ||| detField 34 1 write.toNat ||| detField 40 8 e.toNat

/-- The detail of an access-table fault (R363). -/
def accDetail (write : Bool) (m : Master) (addr : Nat) : BitVec 256 :=
  detField 34 1 write.toNat ||| detField 36 4 m.src ||| detField 40 8 addr

/-- The number of bytes of the page that holds an address under a root table, as the tables stand; 64 KiB where they map
none. -/
def Hw.pageBytes (h : Hw) (root va : Nat) : Nat :=
  match h.walkRoot root va with
  | .ok l _ _ => l.size
  | .fault _ _ => 65536

/-- A request joins the walk of its page, or starts one while fewer than 64 run (R93). The page has `size` bytes. -/
def Isle.askWalk (x : Isle) (size : Nat) (c : BitVec 4) (va : Nat) (who : WalkFor) : Isle :=
  match x.walks.find? (fun w => w.2.ctx == c && decide (w.2.va * 65536 / size = va / size)) with
  | some (n, w) => { x with walks := tabPut { w with who := if w.who.contains who then w.who else w.who ++ [who] } n x.walks }
  | none =>
    match tabFree x.walks 64 with
    | none => x
    | some n => { x with walks := tabPut { ctx := c, va := va / 65536, who := [who] } n x.walks }

/-- A miss of an isle's context asks for the walk of its page (R93). -/
def Hw.askWalk (h : Hw) (isle : Nat) (c : BitVec 4) (va : Nat) (who : WalkFor) : Hw :=
  let n := h.pageBytes ((h.isle isle).context c).root va
  h.onIsle isle (fun x => x.askWalk n c va who)

/-- The partition key of the launch that holds a context of an isle (R89, R97). -/
def Hw.keyOf (h : Hw) (isle : Nat) (c : BitVec 4) : BitVec 6 :=
  match h.launches.find? (fun l => (l.2.isles.zip l.2.ctxs).contains (isle, c)) with
  | some l => l.2.pkey
  | none => 0

/-- What a walk of the translation unit answers: a leaf, a fault with its detail where the entry itself gives none, or nothing yet
while a read of it has no route. -/
inductive WalkAns where
  | away
  | leaf (l : Leaf)
  | stop (code : Byte) (detail : Option (BitVec 256))

/-- THE WALK OF A MISS (R90-R93): each entry is read at its home slice, by a route (R15), past its access table (R97) and its check
(R105). A table at no target, or in quay register space, which reads as zero, has no valid entry (R92, R96). -/
def Hw.walkRead (h : Hw) (m : Master) (va : Nat) : Nat → Nat → Nat → WalkAns × Hw
  | 0, _, _ => (.stop 0x20 none, h)
  | f + 1, level, table =>
    let pa := table + 8 * walkIndex va level
    if paTarget pa != .line then (.stop 0x20 none, h)
    else if !h.reaches m.src (paSite pa) then (.away, h)
    else if !(h.home pa).acc.admits m opRead pa then
      (.stop 0x22 (some (accDetail false m pa)), h.onHome pa (fun x => { x with acc := x.acc.deny m opRead pa }))
    else
      let (ok, h) := h.checkLine pa .clean
      let e := BitVec.ofNat 64 (h.num pa 8)
      if !ok then (.stop 0x70 (some (machineDetail 6 pa)), h)
      else if !e.getLsbD 0 || entryBad e level then (.stop 0x20 none, h)
      else if e.getLsbD 1 then
        (.leaf { pa := entryPa e, size := pageSize level, w := e.getLsbD 2, cow := e.getLsbD 3 }, h)
      else h.walkRead m va f (level + 1) (entryPa e)

/-! ### Where the bytes of an effective address lie -/

/-- What the window table answers to a request of `n` bytes at a window offset (R277): the physical address, or a refusal. -/
def Hw.windowAt (h : Hw) (pkey : BitVec 6) (off n : Nat) (write : Bool) : Option Nat :=
  let unit := off / 65536
  let last := (off + (n - 1)) / 65536
  let ents := (List.range 256).map (fun i => tabGet (0 : BitVec 128) h.win i)
  match ents.find? (fun e => e.getLsbD 0 && (e.getLsbD 51 || e.extractLsb' 52 6 == pkey)
      && decide ((e.extractLsb' 90 19).toNat ≤ unit) && decide (last ≤ (e.extractLsb' 109 19).toNat)) with
  | none => none
  | some e =>
    if (if write then e.getLsbD 2 else e.getLsbD 1) then
      some (((e.extractLsb' 58 32).toNat * 65536 + off) - (e.extractLsb' 90 19).toNat * 65536)
    else none

/-- The pieces of a range in 64 KiB units: start and length of each. -/
def units64 (addr n : Nat) : List (Nat × Nat) :=
  (List.range ((addr + n - 1) / 65536 - addr / 65536 + 1)).map (fun i =>
    let lo := max addr ((addr / 65536 + i) * 65536)
    (lo, min (addr + n) ((addr / 65536 + i + 1) * 65536) - lo))

/-- The places in the byte map of `n` bytes at an address of a space, for a core's task; what does not exist or does not
translate has none. A window offset of this module lies where the window table maps it. What another module maps its offsets
to is its own: all of them count as one place (R127, log entry 113). -/
def Hw.placesOf (h : Hw) (co : CoreId) (ctx : BitVec 4) (space addr n : Nat) : List (Nat × Nat) :=
  if n = 0 then [] else
  match space with
  | 1 => [(localKey co addr, n)]
  | 2 => let r := remotePlace addr; [(localKey r.1 r.2, n)]
  | 3 =>
    let root := ((h.isle co.isle).context ctx).root
    (units64 addr n).filterMap (fun x => (h.paOf root x.1 false).map (fun pa => (pa, x.2)))
  | 6 => [(accKey co.isle (CoreId.ins co) addr, n)]
  | 7 => [(streamKey (addr / 2 ^ 32) (addr % 2 ^ 23), n)]
  | _ =>
    let unit := addr / 2 ^ 35
    if unit = h.cfg.modno then
      (units64 (addr % 2 ^ 35) n).filterMap (fun x =>
        match h.windowAt (h.keyOf co.isle ctx) x.1 x.2 false, h.windowAt (h.keyOf co.isle ctx) x.1 x.2 true with
        | some pa, _ => some (pa, x.2)
        | none, some pa => some (pa, x.2)
        | none, none => none)
    else [(2 ^ 52 + unit, 1)]

end Sys2Proof.Machine
end

