-- ==== Sys2Proof/Machine/Copy.lean ====
section
/-! DEFINITION. What a copy command touches and how its bytes land: the targets of its addresses (R15, R78, R96, R97), reading a source, landing bytes (R125, R301, R302), its faults (R139), the order among a queue's commands (R127). -/

namespace Sys2Proof.Machine

/-! ### Finished commands -/

/-- A finished command leaves the copy engine (R122, R126), once a landing that it owes has arrived (R252). -/
def Core.sweep (k : Core) : Core :=
  { k with cmds := k.cmds.filter (fun c =>
      !(c.performed && (c.inbound || c.visible) && c.fault.isNone && (!c.op.returns || c.landed))) }

/-! ### Faults -/

/-- The record of a command's fault (R361-R363). -/
def Cmd.record (c : Cmd) (co : CoreId) (code : Byte) (addr : Int) (detail : BitVec 256) : TrapRec :=
  { code := code
    unit := if c.q = .load then 3 else 4
    slot := BitVec.ofNat 3 c.slot
    after := true
    sec := c.sec
    core := BitVec.ofNat 11 co.core
    pc := c.pc
    addr := BitVec.ofInt 64 addr
    done := BitVec.ofNat 64 c.done
    detail := (detail &&& BitVec.ofNat 256 (2 ^ 192 - 1)) ||| detField 56 1 c.ch ||| detField 60 4 c.id.toNat }

/-- A COMMAND FAULTS (R139): it stops at DONE, its queue halts, the core's task stops with its record. -/
def Hw.faultCmd (h : Hw) (co : CoreId) (uid : Nat) (code : Byte) (addr : Int) (detail : BitVec 256) : Hw :=
  match h.cmd? co uid with
  | none => h
  | some c =>
    let r := c.record co code addr detail
    let k := (h.core co).onCmd uid (fun c => { c with
      fault := some ⟨code, r.addr, r.detail⟩, piece := .idle, at_ := 0 })
    let k := if c.q = .load then { k with lhalt := true } else { k with shalt := true }
    (h.setCore co k).takeTrap co r

/-! ### Targets -/

/-- Where an access of a command goes; `away` while no route leads to its target. -/
inductive Reach where
  | away
  | key (k : Nat)
  | line (pa : Nat)
  | bell (q off : Nat)
  | window
  | miss
  | stop (code : Byte) (detail : BitVec 256)
  deriving DecidableEq, Repr

/-- The isle's local-memory port admits a request of another isle (R97); a denied one is counted (R98). -/
def Hw.portCheck (h : Hw) (t : CoreId) (o : Nat) (m : Master) (op : Nat) (write : Bool) : Reach × Hw :=
  let addr := t.core * 2 ^ 19 + o
  let x := h.isle t.isle
  if t.isle == m.src || x.acc.admits m op addr then (.key (localKey t o), h)
  else (.stop 0x22 (accDetail write m addr), h.onIsle t.isle (fun x => { x with acc := x.acc.deny m op addr }))

/-- The home slice admits a request (R97); a denied one is counted (R98). -/
def Hw.sliceCheck (h : Hw) (pa : Nat) (m : Master) (op : Nat) (write : Bool) : Reach × Hw :=
  if (h.home pa).acc.admits m op pa then (.line pa, h)
  else (.stop 0x22 (accDetail write m pa), h.onHome pa (fun x => { x with acc := x.acc.deny m op pa }))

/-- Step 5 of R81, translation and the access tables, for `n` bytes at an address of a capability's space. -/
def Hw.reachOf (h : Hw) (co : CoreId) (t : Task) (reg : Nat) (c : CReg) (a : Int) (n op : Nat) (write : Bool) : Reach × Hw :=
  let bad : Reach := .stop 0x13 (capDetail reg n c)
  let m : Master := { src := co.isle, pkey := t.pkey }
  let x := a.toNat
  match c.space with
  | 1 => (if x + n ≤ 2 ^ 19 then .key (localKey co x) else bad, h)
  | 2 =>
    let (r, o) := remotePlace x
    if !(CoreId.ok r && h.coreInService r && decide (o + n ≤ 2 ^ 19)) then (bad, h)
    else if h.linked co.isle r.isle then h.portCheck r o m op write
    else (.away, h)
  | 3 =>
    match h.xlate co.isle t.ctx x write with
    | .miss => (.miss, h)
    | .fault code => (.stop code (h.xlateDetail co.isle t.ctx x write), h)
    | .hit pa =>
      match paTarget pa with
      | .line => if h.linked co.isle (paSite pa) then h.sliceCheck pa m op write else (.away, h)
      | .bell q => if h.reaches co.isle (676 + q / 256) then (.bell q (pa % 65536), h) else (.away, h)
      | .nothing => (.stop 0x20 (h.xlateDetail co.isle t.ctx x write), h)
  | 6 => (if x + n ≤ 2 ^ 17 then .key (accKey co.isle (CoreId.ins co) x) else bad, h)
  | 7 =>
    if !(squareOk (x / 2 ^ 32) && decide (x % 2 ^ 32 + n ≤ 2 ^ 23)) then (bad, h)
    else if h.linked co.isle (x / 2 ^ 32) then (.key (streamKey (x / 2 ^ 32) (x % 2 ^ 23)), h)
    else (.away, h)
  | 8 => (.window, h)
  | _ => (bad, h)

/-- The core whose local memory an address of space 1 or 2 names. -/
def landCore (co : CoreId) (space : Nat) (a : Int) : CoreId := if space = 2 then (remotePlace a.toNat).1 else co

/-- The offset in that core's local memory. -/
def landOff (space : Nat) (a : Int) : Nat := if space = 2 then (remotePlace a.toNat).2 else a.toNat

/-! ### Reading and landing -/

/-- Bytes at a place with the marks of their granules (R302). -/
def Hw.markedBytes (h : Hw) (k n : Nat) : List (Byte × Bool) :=
  (List.range n).map (fun i => (memRead h.mem (k + i), setHas h.pmark ((k + i) / 16)))

/-- Granules that a destination range of a space touches, as effective addresses. -/
def spanGranules (s : Span) : List Nat := granules s.addr.toNat s.n

/-- The full bits of a range are set where the command writes a granule no more (R125). -/
def Hw.fill (h : Hw) (co : CoreId) (c : Cmd) (s : Span) : Hw :=
  let more := fun (g : Nat) => c.left.any (fun l => decide (l.n ≠ 0) && decide (l.addr < 16 * (g : Int) + 16)
    && decide (16 * (g : Int) < l.addr + l.n))
  (spanGranules s).foldl (fun h g =>
    if more g then h
    else h.setFull true (localKey (landCore co c.cd.space (16 * g)) (landOff c.cd.space (16 * g)))) h

/-- Local bytes of a range are written; a granule that received a marked byte is marked (R301, R302). -/
def Hw.landBytes (h : Hw) (k : Nat) (bs : List (Byte × Bool)) : Hw :=
  let h1 := h.write k (bs.map Prod.fst)
  (granules k bs.length).foldl (fun h g =>
    if ((List.range bs.length).any (fun i => (k + i) / 16 == g && (bs.getD i (0, false)).2)) then h.setMark true (16 * g)
    else h) h1

/-- A command that DONE has carried to its end without a fault is complete (R122, R139). -/
def Cmd.finish (c : Cmd) : Cmd :=
  if c.fault.isNone && decide (c.total ≤ c.done) then { c with performed := true, released := true } else c

/-- DONE HAS ADVANCED over a range (R124, R125): full bits, the barrier arrival, and then, unless that arrival was refused, what
the command has reached (R139). -/
def Hw.advanceCmd (h : Hw) (co : CoreId) (uid : Nat) (n : Nat) : Hw :=
  match h.cmd? co uid with
  | none => h
  | some c =>
    let w := c.nextWrite
    let c' := c.put n
    let h := h.onCmd co uid (fun _ => c')
    let d := c'.done - c.done
    let h :=
      if d = 0 then h
      else
        let span : Span := if c.op.streamed then w else ⟨c.dst c.elem, c.size⟩
        let isLocal := c.cd.space == 1 || c.cd.space == 2
        let h := if isLocal then h.fill co c' span else h
        let t := landCore co c.cd.space span.addr
        if isLocal && c.tb != 0 then
          match h.arriveAt t c.tb d with
          | some h' => h'
          | none =>
            let bits := match (h.core t).barrierAt c.tb with
              | some off => (h.slotAt t off).bits
              | none => 0
            h.faultCmd co uid 0x33 span.addr (barrierDetail c.tb bits)
        else h
    (h.onCmd co uid Cmd.finish).onCore co Core.sweep

/-- Both sides of a command lie in local memory (R82). -/
def Cmd.bothLocal (c : Cmd) : Bool := [1, 2].contains c.cs.space && [1, 2].contains c.cd.space

/-- An `xmove` between spaces 1 and 2 may carry the tags of whole granules (R82). -/
def Cmd.carries (c : Cmd) : Bool := c.op == .move && c.bothLocal && c.cs.has pLc && c.cd.has pSc && (c.sa - c.da) % 16 == 0

/-- The tag that a granule may move with (R82): it is tagged and its capability has dg. -/
def Hw.movedTag (h : Hw) (k : Nat) : Bool :=
  h.tagAt k && ({ bits := BitVec.ofNat 128 (h.num k 16) : CReg }).has pDg

/-- The next write of a command lands at a place (R125): a barrier's slot refuses it (R156); a granule that an `xmove`
brings whole takes the tag it came with, or none (R82). -/
def Hw.landAt (h : Hw) (co : CoreId) (uid : Nat) (c : Cmd) (k : Nat) : Hw :=
  let w := c.nextWrite
  let t := landCore co c.cd.space w.addr
  let isLocal := c.cd.space == 1 || c.cd.space == 2
  match (if isLocal then (h.core t).barrierIn (landOff c.cd.space w.addr) w.n else none) with
  | some (name, slot) => h.faultCmd co uid 0x33 w.addr (barrierDetail name (h.slotAt t slot).bits)
  | none =>
    let bs := c.held
    let h := if isLocal then h.landBytes k bs else h.write k (bs.map Prod.fst)
    let h := if c.op == .move && c.bothLocal && w.n == 16 then h.setTag (c.carries && c.tag) k else h
    h.advanceCmd co uid w.n

/-- The line of a source address lies in an S footprint of the task (R300). -/
def Task.marksLine (t : Task) (a : Int) : Bool :=
  let lo := a - a % 64
  t.feet.any (fun f => f.valid && f.mode == 3 && f.cap.space == 3 && decide ((f.cap.base : Int) < lo + 64)
    && decide (lo < f.cap.top))

/-- A line's stamp is racy for a reader (R300). -/
def LineMeta.racy (m : LineMeta) (t : Task) : Bool :=
  let s := t.stamp
  m.sv && m.frame == s.frame && m.taskh != s.taskh && decide ((m.wave - s.wave).toNat < 128)

/-! ### Order among the commands of a queue -/

/-- Two ranges of places meet. -/
def placesMeet (a b : List (Nat × Nat)) : Bool :=
  a.any (fun x => b.any (fun y => decide (x.1 < y.1 + y.2) && decide (y.1 < x.1 + x.2)))

/-- The places of ranges of a capability's space. -/
def Hw.spanPlaces (h : Hw) (co : CoreId) (t : Task) (c : CReg) (ss : List Span) : List (Nat × Nat) :=
  ss.flatMap (fun s => h.placesOf co t.ctx c.space s.addr.toNat s.n)

/-- The landing granule that an immediate command still has to write (R252): a local write of the command as any other. A
round's landings come after its acceptance, which is the command's performance for R127 (R257). -/
def Cmd.landingLeft (co : CoreId) (c : Cmd) : List (Nat × Nat) :=
  if c.op.returns && c.rt == 0 && !c.landed then [(localKey co c.sa.toNat, 16)] else []

/-- An earlier command of the queue still has to write these places, or, when they are to be written, to read them
(R127). -/
def Hw.behind (h : Hw) (co : CoreId) (c : Cmd) (ps : List (Nat × Nat)) (write : Bool) : Bool :=
  (h.core co).cmds.any (fun e => e.q == c.q && decide (e.uid < c.uid) && e.op != .order && e.op != .close
    && (placesMeet ps (e.landingLeft co)
      || (!e.performed && (placesMeet ps (h.spanPlaces co e.task e.cd e.left)
        || (write && !e.released && placesMeet ps (h.spanPlaces co e.task e.cs e.leftSrc))))))

end Sys2Proof.Machine
end

