-- ==== Sys2Proof/Machine/Flits.lean ====
section
/-! DEFINITION. A Strait link flit as its 256 bytes (R278, R279): header, payload, trailer, and the CRC that ends it. -/

namespace Sys2Proof.Machine

/-- One byte more in a CRC-64 of the polynomial of ECMA-182, most significant bit first (R279, log entry 93). -/
def crcByte (c : BitVec 64) (b : Byte) : BitVec 64 :=
  (List.range 8).foldl (fun (c : BitVec 64) _ => if c.msb then (c <<< 1) ^^^ 0x42F0E1EBA9EA3693#64 else c <<< 1)
    (c ^^^ (b.setWidth 64 <<< 56))

/-- The CRC of bytes, from zero, not inverted (R279, log entry 93). -/
def crc64 (bs : List Byte) : BitVec 64 := bs.foldl crcByte 0

/-- The header bits (R279). -/
def Flit.header (f : Flit) : BitVec 128 :=
  f.type ++ f.cls ++ f.dst ++ f.src ++ f.pkey ++ f.flow ++ f.len ++ f.off ++ f.hops ++ f.xseq

/-- The low half of the trailer (R279). -/
def Flit.trailer (f : Flit) : BitVec 64 := f.hseq ++ f.hack ++ f.cred

/-- The bytes of a flit before its CRC, 0 to 247 (R278, R279). -/
def Flit.body (f : Flit) : List Byte :=
  leBytes 16 f.header.toNat ++ (f.payload.take 224 ++ List.replicate (224 - f.payload.length) 0) ++ leBytes 8 f.trailer.toNat

/-- The flit of its bytes (R278, R279). -/
def flitOf (bs : List Byte) : Flit :=
  let h := BitVec.ofNat 128 (leNat (bs.take 16))
  let t := BitVec.ofNat 64 (leNat ((bs.drop 240).take 8))
  { type := h.extractLsb' 124 4, cls := h.extractLsb' 122 2, dst := h.extractLsb' 109 13, src := h.extractLsb' 96 13
    pkey := h.extractLsb' 90 6, flow := h.extractLsb' 74 16, len := h.extractLsb' 66 8, off := h.extractLsb' 31 35
    hops := h.extractLsb' 25 6, xseq := h.extractLsb' 0 25, payload := (bs.drop 16).take 224
    hseq := t.extractLsb' 48 16, hack := t.extractLsb' 32 16, cred := t.extractLsb' 0 32 }

/-- The CRC at the end of a flit is that of its bytes (R279, R280). -/
def flitIntact (bs : List Byte) (crc : BitVec 64) : Bool := crc64 bs == crc

/-- A flit that a port sends when it has only its trailer to tell (R279, R280). -/
def idleFlit : Flit :=
  { type := 0, cls := 0, dst := 0, src := 0, pkey := 0, flow := 0, len := 0, off := 0, hops := 0, xseq := 0, payload := []
    hseq := 0, hack := 0, cred := 0 }

end Sys2Proof.Machine
end

