-- ==== Sys2Proof/Machine/Strait.lean ====
section
/-! DEFINITION. Strait link ports and the remote window (R277-R287): routing, sending and receiving flits, requests of other
modules, responses to own commands, failures and notices; the steps FLIT_RECEIVE to RTGEN_FLIP. -/

namespace Sys2Proof.Machine

/-! ### Tables -/

/-- A port. -/
def Hw.port (h : Hw) (p : Nat) : Port := tabGet {} h.ports p

/-- The routing table with a number: a port's, or the module's origin table at 128 (R281). -/
def Hw.table (h : Hw) (p : Nat) : Port := if p = 128 then h.origin else h.port p

/-- A port, or the origin table, changed by a function. -/
def Hw.onPort (h : Hw) (p : Nat) (f : Port → Port) : Hw :=
  if p = 128 then { h with origin := f h.origin } else { h with ports := tabPut (f (h.port p)) p h.ports }

/-- The route entry of a destination in a generation (R281). -/
def Routes.entry (r : Routes) (g : Bool) (dst : Nat) : BitVec 32 := tabGet 0 r.tab (g.toNat * 8192 + dst)

/-- The next hops in use of an entry, HOP0 first (R281); 0 and 5 to 7 mean unreachable. -/
def hopsOf (e : BitVec 32) : List Nat :=
  let n := (e.extractLsb' 28 3).toNat
  if n = 0 ∨ 4 < n then [] else (List.range n).map (fun i => (e.extractLsb' (7 * i) 7).toNat)

/-- The hop hash of an ordered flit (R284). -/
def flitHash (f : Flit) : Nat := (f.flow.toNat * 0x9E37 + f.dst.toNat * 0x7F4B + f.src.toNat) % 2 ^ 16

/-- The next hop of a flit in a generation of a table by its class (R284); none when it is unreachable (R281). -/
def Hw.egress (h : Hw) (r : Routes) (g : Bool) (f : Flit) : Option Nat :=
  let hops := hopsOf (r.entry g f.dst.toNat)
  let live := fun (p : Nat) => (h.port p).up
  let cyc := fun (i : Nat) => ((List.range hops.length).map (fun j => hops.getD ((i + j) % hops.length) 0)).find? live
  if f.hops = 63 then none
  else match f.cls.toNat with
    | 1 =>
      (hops.filter live).foldl (fun (b : Option Nat) p => match b with
        | none => some p
        | some q => if ((h.port q).credits.get 1) < ((h.port p).credits.get 1) then some p else some q) none
    | 2 => cyc 0
    | _ => cyc (flitHash f % max hops.length 1)

/-! ### Sending -/

/-- A flit of a port takes its hop sequence and tells the hop sequence received and the buffers freed; it is kept until it is
covered (R279, R280). -/
def Port.transmit (p : Port) (r : Routed) : Port :=
  let c := fun (i : Fin 3) => (p.freed.get i).toNat
  let f := { r.f with hseq := p.txSeq + 1, hack := p.rxSeq, cred := BitVec.ofNat 32 (c 0 + 2 ^ 8 * c 1 + 2 ^ 16 * c 2) }
  { p with
    txSeq := p.txSeq + 1, sent := p.sent ++ [{ r with f := f, inBuf := false }], freed := Vector.replicate 3 0, owes := false }

/-- A live port that has something to tell, and no flit to carry it, sends an idle flit, which takes no buffer (R279, R280). -/
def Port.tell (p : Port) : Port :=
  if p.up && p.owes then p.transmit { table := 128, gen := false, inBuf := false, f := idleFlit } else p

/-- Every port tells the other side of its link what it owes (R280). -/
def Hw.tellAll (h : Hw) : Hw := { h with ports := h.ports.map (fun e => (e.1, e.2.tell)) }

/-- The number of a flit's class among the credits. -/
def flitClass (f : Flit) : Fin 3 := if f.cls = 0 then 0 else if f.cls = 1 then 1 else 2

/-- A flit has left the receive buffers of a port, or the origin (R280). -/
def Hw.release (h : Hw) (table : Nat) (i : Fin 3) : Hw :=
  if table = 128 then h
  else h.onPort table (fun p => { p with freed := p.freed.set i (p.freed.get i + 1), owes := true })

/-- A flit leaves by a port while it has a credit of its class, else it waits for one (R280). -/
def Hw.offer (h : Hw) (e : Nat) (r : Routed) : Hw :=
  let i := flitClass r.f
  let p := h.port e
  if p.credits.get i = 0 ∨ p.full.any (fun x => x.f.cls == r.f.cls) then h.onPort e (fun p => { p with full := p.full ++ [r] })
  else
    let h := h.onPort e (fun p => { p.transmit r with credits := p.credits.set i (p.credits.get i - 1) })
    if r.inBuf then h.release r.table i else h

/-- A request whose response is to come: a write or a read request (R279). -/
def isRequest (f : Flit) : Bool := f.type == 1 || f.type == 2

/-- The flow of a flit in a table's list. -/
def FlowOut.of (x : FlowOut) (f : Flit) : Bool := x.dst == f.dst.toNat && x.src == f.src.toNat && x.flow == f.flow.toNat

/-- Two flits are of one flow (R282, R284). -/
def sameFlow (f g : Flit) : Bool := f.dst == g.dst && f.src == g.src && f.flow == g.flow

/-- The hop of a flit at a table: the one it was given when it arrived, while that port is live, else by the entry of its generation
(R282, R285). -/
def Hw.hopOf (h : Hw) (r : Routed) : Option Nat :=
  match r.hop.filter (fun p => (h.port p).up) with
  | some p => some p
  | none => h.egress (h.table r.table).routes r.gen r.f

/-- A routable flit leaves by its hop, and keeps it while it is held; an ordered flow keeps its old egress until every earlier
flit of it has had its response (R282). None when it is unreachable. -/
def Hw.forward (h : Hw) (r : Routed) : Option Hw :=
  let t := h.table r.table
  let f := r.f
  (h.hopOf r).map (fun e =>
    if f.cls == 0 && (t.flows.any (fun x => x.of f && x.port != e && x.open_ != 0) || t.held.any (fun x => sameFlow x.f f)) then
      h.onPort r.table (fun t => { t with held := t.held ++ [{ r with hop := some e }] })
    else
      let n := ((t.flows.find? (fun x => x.of f)).map (·.open_)).getD 0
      let o : FlowOut := {
        dst := f.dst.toNat, src := f.src.toNat, flow := f.flow.toNat, port := e, open_ := if isRequest f then n + 1 else n }
      let h := if f.cls = 0 then
          h.onPort r.table (fun t => { t with flows := t.flows.filter (fun x => !x.of f) ++ [o] })
        else h
      h.offer e r)

/-! ### Responses -/

/-- The response to a flit (R279): FLOW, OFF and XSEQ as they were, a status in payload byte 0. -/
def respondTo (f : Flit) (status : Byte) : Flit :=
  { f with type := 4, dst := f.src, src := f.dst, len := 1, hops := 0, payload := [status] }

/-- The read data that answers a read request. -/
def readDataTo (f : Flit) (bs : List Byte) : Flit :=
  { f with type := 3, dst := f.src, src := f.dst, len := BitVec.ofNat 8 bs.length, hops := 0, payload := bs }

/-- A response reaches the command that awaits it (R280): status 0 and read data perform its bytes, the others fault it. -/
def Hw.takeResponse (h : Hw) (f : Flit) : Hw :=
  match h.xreqs.find? (fun x => x.dst == f.src.toNat && x.flow == f.flow.toNat && x.xseq == f.xseq.toNat) with
  | none => h
  | some x =>
    let h := { h with xreqs := h.xreqs.filter (fun y => y != x) }
    match h.cmd? x.co x.uid with
    | none => h
    | some c =>
      if c.fault.isSome then h
      else
        let reading := match c.piece with
          | .reading _ => true
          | _ => false
        let bad := fun (reg : Nat) (cap : CReg) (a : Span) (code : Byte) =>
          h.faultCmd x.co x.uid code a.addr
            (if code = 0x22 then accDetail (!reading) { src := 0 } f.off.toNat else capDetail reg a.n cap)
        let fail := fun (code : Byte) => if reading then bad c.csi c.cs c.nextRead code else bad c.cdi c.cd c.nextWrite code
        if f.type = 3 then h.onCmd x.co x.uid (fun c => c.take ((f.payload.take f.len.toNat).map (fun b => (b, false))))
        else match (f.payload.getD 0 0).toNat with
          | 0 => h.advanceCmd x.co x.uid c.nextWrite.n
          | 2 => fail 0x22
          | _ => fail 0x13

/-- A flit that this module originates goes out by the origin table (R281), or stays when it is for itself; a request that is
unreachable comes back with status 1. -/
def Hw.originate (h : Hw) (f : Flit) : Hw :=
  if f.dst.toNat = h.cfg.modno then h.takeResponse f
  else
    (h.forward { table := 128, gen := h.origin.routes.active, inBuf := false, f := f }).getD
      (if isRequest f then h.takeResponse (respondTo f 1) else h)

/-- A flit that has become unreachable is discarded, and a response with status 1 returns to SRC (R281). -/
def Hw.unreached (h : Hw) (r : Routed) : Hw :=
  let h := if r.inBuf then h.release r.table (flitClass r.f) else h
  if r.table = 128 then (if isRequest r.f then h.takeResponse (respondTo r.f 1) else h) else h.originate (respondTo r.f 1)

/-- A flit goes on by the route it has, or is unreachable (R281, R282). -/
def Hw.route (h : Hw) (r : Routed) : Hw := (h.forward r).getD (h.unreached r)

/-- The flits a table holds back are tried again (R282). -/
def Hw.retry (h : Hw) (table : Nat) : Hw :=
  (h.table table).held.foldl Hw.route (h.onPort table (fun t => { t with held := [] }))

/-- A response passes: the forwarded flit it answers is open no more, in every table (R282). -/
def Hw.answered (h : Hw) (f : Flit) : Hw :=
  let hit := fun (x : FlowOut) => x.dst == f.src.toNat && x.src == f.dst.toNat && x.flow == f.flow.toNat
  (List.range 129).foldl (fun h p =>
    if (h.table p).flows.any hit then
      (h.onPort p (fun t => { t with flows := t.flows.map (fun x => if hit x then { x with open_ := x.open_ - 1 } else x) })).retry p
    else h) h

/-! ### Requests of other modules -/

/-- A flit's requests stand in the orders of arrival of their slices (R101). -/
def Hw.enqueueFlit (h : Hw) (port pa : Nat) (f : Flit) (cuts : List (Nat × Nat × List Byte)) (write : Bool) : Hw :=
  let h := { h with flitsIn := h.flitsIn ++ [{ port := port, f := f, left := cuts.length }] }
  cuts.foldl (fun h c => h.onHome (pa + c.1) (fun x => { x with
    reqs := x.reqs ++ [{ who := .flit port f, write := write, pa := pa + c.1, len := c.2.1, data := c.2.2 }] })) h

/-- XSEQ a comes after XSEQ b, by at most half of the numbers (R279). -/
def seqAfter (a b : BitVec 25) : Bool := decide (1 ≤ (a - b).toNat) && decide ((a - b).toNat < 2 ^ 24)

/-- A request of a flow arrives: writes applied for it that are far behind, 2^23 numbers or more, are forgotten, before XSEQ comes
round to them (R284, log entry 94). -/
def Hw.forgetWrites (h : Hw) (f : Flit) : Hw :=
  { h with applied := h.applied.filter (fun a =>
      !(a.src == f.src && a.flow == f.flow && seqAfter f.xseq a.xseq && decide (2 ^ 23 ≤ (f.xseq - a.xseq).toNat))) }

/-- The bytes of a write that a later write of its flow has not overtaken (R284): offset and byte. -/
def Hw.freshBytes (h : Hw) (f : Flit) : List (Nat × Byte) :=
  let later := h.applied.filter (fun a => a.src == f.src && a.flow == f.flow && seqAfter a.xseq f.xseq)
  ((f.payload.take f.len.toNat).zipIdx.map (fun x => (x.2, x.1))).filter (fun x =>
    !later.any (fun a => decide (a.off ≤ f.off.toNat + x.1) && decide (f.off.toNat + x.1 < a.off + a.n)))

/-- Neighbouring bytes joined into runs: offset, length, bytes; cut at lines. -/
def byteRuns (pa : Nat) : List (Nat × Byte) → List (Nat × Nat × List Byte)
  | [] => []
  | (o, b) :: t =>
    match byteRuns pa t with
    | (o', n, bs) :: r => if o + 1 = o' ∧ (pa + o') % 64 ≠ 0 then (o, n + 1, b :: bs) :: r else (o, 1, [b]) :: (o', n, bs) :: r
    | [] => [(o, 1, [b])]

/-- WINDOW_REQUEST: a request of another module is decided and performed (R277, R96, R97): it goes from the receiving quay to its
target by a route (R15), and past the target's access table. Its answer goes back when its last line has been performed. -/
def Hw.windowRequest (h : Hw) (port : Nat) (f : Flit) : Hw :=
  let write := f.type == 1
  let n := if write then f.len.toNat else leNat (f.payload.take 4)
  let m : Master := { src := 676 + port / 32, pkey := f.pkey }
  let op := if write then opWrite else opRead
  let h := h.forgetWrites f
  match h.windowAt f.pkey f.off.toNat n write with
  | none => h.originate (respondTo f 3)
  | some pa =>
    match paTarget pa with
    | .nothing => h.originate (respondTo f 3)
    | .bell q =>
      let at_ := q * 65536 + pa % 65536
      if !h.reaches m.src (676 + q / 256) then h.await
      else if !write && !(h.quay (q / 256)).acc.admits m op at_ then
        (h.onQuay (q / 256) (fun y => { y with acc := y.acc.deny m op at_ })).originate (respondTo f 2)
      else if write then
        let (ok, h) := h.bellWrite m q (pa % 65536) (f.payload.take n)
        h.originate (respondTo f (if ok then 0 else 2))
      else h.originate (readDataTo f (List.replicate n 0))
    | .line =>
      let cuts := lineCuts (n / 64 + 2) pa n
      if cuts.any (fun c => !h.reaches m.src (paSite c.1)) then h.await
      else match cuts.find? (fun c => !(h.home c.1).acc.admits m op c.1) with
      | some c => (h.onHome c.1 (fun x => { x with acc := x.acc.deny m op c.1 })).originate (respondTo f 2)
      | none =>
        if write then
          let runs := byteRuns pa (h.freshBytes f)
          let h := { h with applied := h.applied ++ [(⟨f.src, f.flow, f.xseq, f.off.toNat, n⟩ : FlowWrite)] }
          if runs.isEmpty then h.originate (respondTo f 0) else h.enqueueFlit port pa f runs true
        else if cuts.isEmpty then h.originate (readDataTo f [])
        else h.enqueueFlit port pa f (cuts.map (fun c => (c.1 - pa, c.2, []))) false

/-- A slice has performed one line of a flit's request; the last one sends the answer. -/
def Hw.flitLine (h : Hw) (port : Nat) (f : Flit) (off : Nat) (bs : List Byte) (status : Byte) : Hw :=
  match h.flitsIn.find? (fun x => x.port == port && x.f == f) with
  | none => h
  | some x =>
    let y := { x with
      left := x.left - 1, data := x.data ++ [(off, bs)], status := if status = 0 then x.status else status }
    let rest := h.flitsIn.filter (fun z => z != x)
    if y.left = 0 then
      let h := { h with flitsIn := rest }
      if y.status ≠ 0 then h.originate (respondTo f y.status)
      else if f.type = 1 then h.originate (respondTo f 0)
      else
        let sorted := y.data.mergeSort (fun a b => decide (a.1 ≤ b.1))
        h.originate (readDataTo f (sorted.flatMap Prod.snd))
    else { h with flitsIn := rest ++ [y] }

/-! ### Notices -/

/-- FAILURE_NOTICE: a notice not seen before reaches the harbour, whose notices it joins, and goes out by every other live port (R286). -/
def Hw.notice (h : Hw) (from_ : Option Nat) (bs : List Byte) : Hw :=
  if h.noticesSeen.contains bs then h
  else
    let f : Flit := {
      type := 6, cls := 2, dst := 0, src := BitVec.ofNat 13 h.cfg.modno, pkey := 0, flow := 0, len := 224, off := 0
      hops := 0, xseq := 0, payload := bs, hseq := 0, hack := 0, cred := 0 }
    let h := { h with noticesSeen := h.noticesSeen ++ [bs], notices := h.notices ++ [bs] }
    ((List.range 128).filter (fun p => (h.port p).up && some p != from_)).foldl
      (fun h p => h.offer p { table := 128, gen := false, inBuf := false, f := f }) h

/-- The payload of a notice (R286). -/
def noticeBytes (modno port cause tick : Nat) (moved : List (BitVec 32)) : List Byte :=
  let head := leBytes 2 modno ++ leBytes 1 port ++ leBytes 1 0 ++ leBytes 8 tick ++ leBytes 2 moved.length
    ++ leBytes 1 (if 40 < moved.length then 1 else 0) ++ leBytes 1 0
  let head := head.set 3 (BitVec.ofNat 8 cause)
  let list := (moved.take 40).flatMap (fun v => leBytes 4 v.toNat)
  head ++ list ++ List.replicate (208 - list.length) 0

/-- A PORT GOES DOWN (R285, R286): it is live no more, the flits it holds leave by the other hops of their tables, and a notice
names its ordered flows. Notices and idle flits go no other way. -/
def Hw.failPort (h : Hw) (p : Nat) (cause : BitVec 8) : Hw :=
  let x := h.port p
  let tables := (List.range 129).filter (fun t => (h.table t).flows.any (fun o => o.port == p))
  let flows := (tables.flatMap (fun t => (h.table t).flows.filter (fun o => o.port == p))).map (fun o => (o.src, o.dst, o.flow))
  let moved := flows.dedup.map (fun o => BitVec.ofNat 32 (o.2.1 * 2 ^ 19 + o.2.2))
  let again := (x.sent ++ x.full).filter (fun r => r.f.type != 0 && r.f.type != 6)
  let h := h.onPort p (fun x => { x with up := false, sent := [], full := [], replays := 0, owes := false, moved := moved.take 1024 })
  let h := tables.foldl (fun h t => h.onPort t (fun x => { x with flows := x.flows.filter (fun o => o.port != p) })) h
  let h := again.foldl Hw.route h
  let h := tables.foldl Hw.retry h
  (h.notice none (noticeBytes h.cfg.modno p cause.toNat h.tick.toNat moved)).tellAll

/-- The flits of a class that stand in a port's receive buffers: held back by its table, or waiting for credits elsewhere. -/
def Hw.inBuffers (h : Hw) (p : Nat) (i : Fin 3) : Nat :=
  let mine := fun (r : Routed) => r.inBuf && r.table == p && flitClass r.f == i
  ((h.port p).held.filter mine).length + h.ports.foldl (fun n e => n + (e.2.full.filter mine).length) 0

/-- A port's link has trained and is live (R285, R395): hop sequences begin anew, and it tells the other side what its receiver
can hold besides what still stands in its buffers (log entry 93). -/
def Hw.raisePort (h : Hw) (p : Nat) : Hw :=
  (h.onPort p (fun x => { x with
    up := true, txSeq := 0, rxSeq := 0, credits := Vector.replicate 3 0
    freed := Vector.ofFn (fun (i : Fin 3) => Config.flitBuffers p i.val - BitVec.ofNat 8 (h.inBuffers p i))
    owes := true })).tellAll

/-- A port may be live: from stage 3 of bring-up on, and port 0 of quay 0 in recovery (R394, R395, R399). -/
def Hw.linksUp (h : Hw) (p : Nat) : Bool := decide (3 ≤ h.boot.stage.toNat) || (h.boot.recovery && p == 0)

/-! ### The steps -/

/-- Flits that wait at a port for credits leave in order while credits last (R280). -/
def Hw.drain (h : Hw) (p : Nat) : Hw :=
  (h.port p).full.foldl (fun h r => h.offer p r) (h.onPort p (fun x => { x with full := [] }))

/-- What a received flit's trailer says of the flits sent (R279, R280); another flit than an idle one is to be acknowledged. -/
def Port.acknowledge (p : Port) (f : Flit) : Port :=
  let covered := fun (r : Routed) => decide ((f.hack - r.f.hseq).toNat < 2 ^ 15)
  { p with
    replays := if p.sent.any covered then 0 else p.replays
    sent := p.sent.filter (fun r => !covered r)
    credits := Vector.ofFn (fun (i : Fin 3) => p.credits.get i + BitVec.ofNat 8 (f.cred.toNat / 256 ^ i.val))
    rxSeq := f.hseq
    owes := p.owes || f.type != 0 }

/-- The port admits a partition key (R283). -/
def Hw.portKey (h : Hw) (p : Nat) (k : BitVec 6) : Bool :=
  let e := fun (i : Nat) => tabGet (h.cfg.pktab.getD i 0) (h.port p).pktab i
  (List.range 64).any (fun i => (e i).getLsbD 7 && (e i).extractLsb' 0 6 == k)

/-- In recovery, a management flit for this module at port 0 of quay 0 carries bytes of an image into quay SRAM (R399). -/
def Hw.recoveryBytes (h : Hw) (p : Nat) (f : Flit) : Hw :=
  if h.boot.recovery && p == 0 then
    let put := fun (m : Tab Byte) (x : Byte × Nat) => tabPut x.1 (f.off.toNat + x.2) m
    { h with boot := { h.boot with ram := (f.payload.take f.len.toNat).zipIdx.foldl put h.boot.ram } }
  else h

/-- A flit that is for this module (R277, R280, R399). -/
def Hw.deliver (h : Hw) (p : Nat) (f : Flit) : Hw :=
  if isRequest f then h.windowRequest p f else if f.type = 5 then h.recoveryBytes p f else h.takeResponse f

/-- An accepted flit at a port (R279, R281, R283): discarded, delivered here, or forwarded. It stands in the port's receive
buffers until then (R280). -/
def Hw.acceptFlit (h : Hw) (p : Nat) (f : Flit) : Hw :=
  let freed := h.release p (flitClass f)
  if f.cls = 3 then h.onPort p (fun x => { x with badflit := x.badflit + 1 })
  else if 7 ≤ f.type.toNat ∨ 224 < f.len.toNat then freed.onPort p (fun x => { x with badflit := x.badflit + 1 })
  else if f.type = 0 then h
  else if f.type = 6 then freed.notice (some p) f.payload
  else if f.type ≠ 5 ∧ f.cls ≠ 2 ∧ !h.portKey p f.pkey then freed.originate (respondTo f 2)
  else
    let m : Master := { src := 0, pkey := f.pkey }
    let op := if f.type = 1 then opWrite else if f.type = 2 then opRead else opMgmt
    if (isRequest f ∨ f.type = 5) ∧ !(h.port p).acc.admits m op f.off.toNat then
      (freed.onPort p (fun x => { x with acc := x.acc.deny m op f.off.toNat })).originate (respondTo f 2)
    else
      let f := { f with hops := f.hops + 1 }
      let seen := fun (h : Hw) => if f.type = 3 ∨ f.type = 4 then h.answered f else h
      if f.dst.toNat = h.cfg.modno then (seen freed).deliver p f
      else (seen h).route { table := p, gen := (h.port p).routes.active, inBuf := true, f := f }

/-- FLIT_RECEIVE: a port receives a flit, its bytes and its CRC (R278-R284). One with a bad CRC, or out of hop order, is not taken,
nor is one whose request has no route to its target yet. -/
def execFlitReceive (p : Nat) (bytes : List Byte) (crc : BitVec 64) (s : State) : Out :=
  let x := s.toHw.port p
  let f := flitOf bytes
  if !x.up || !flitIntact bytes crc || f.hseq != x.rxSeq + 1 then .next s
  else .next (s.attempt (fun h => (((h.onPort p (fun x => x.acknowledge f)).drain p).acceptFlit p f).tellAll))

/-- FLIT_REPLAY: the sender replays from the oldest flit not acknowledged (R280); a third failed replay takes the port down
(R285). -/
def execFlitReplay (p : Nat) (s : State) : Out :=
  let x := s.toHw.port p
  if !x.up || x.sent.isEmpty then .next s
  else if 3 ≤ x.replays then .next (s.upd (fun h => h.failPort p 1))
  else .next (s.upd (fun h => h.onPort p (fun x => { x with replays := x.replays + 1 })))

/-- PORT_DOWN: a failure is detected, or management disables the port (R285, R286). -/
def execPortDown (p : Nat) (cause : BitVec 8) (s : State) : Out :=
  if !(s.toHw.port p).up then .next s else .next (s.upd (fun h => h.failPort p cause))

/-- PORT_UP: the port has retrained and is live again, with no notice (R285). -/
def execPortUp (p : Nat) (s : State) : Out :=
  if (s.toHw.port p).up || !s.toHw.linksUp p then .next s else .next (s.upd (fun h => h.raisePort p))

/-- RTGEN_FLIP: one write makes a generation active for the flits that arrive from then on (R282). -/
def execRtgenFlip (table : Nat) (gen : Bool) (s : State) : Out :=
  .next (s.upd (fun h => h.onPort table (fun t => { t with routes := { t.routes with active := gen } })))

end Sys2Proof.Machine
end

