-- ==== Sys2Proof/Machine/CopyRun.lean ====
section
/-! DEFINITION. The copy engine's steps: starting a command (R118, R131, R134), advancing it (R124-R129), visibility (R126),
order markers (R138); the isle translation unit's: walks and invalidations (R90-R95). -/

namespace Sys2Proof.Machine

/-! ### Starting -/

/-- The queue is halted by a fault (R139). -/
def Core.halted (k : Core) : QSel → Bool
  | .load => k.lhalt
  | .store => k.shalt

/-- The index list of a command, as it stands in the issuing core's local memory (R134). -/
def Hw.indexList (h : Hw) (co : CoreId) (c : Cmd) : List Int :=
  (List.range c.rows).map (fun j => (BitVec.ofNat 32 (h.num (localKey co (c.lst + 4 * j)) 4)).toInt)

/-- A command starts: a length of 0 completes it (R131), an index list is read (R134), `xclose` and the commands without a
source in memory are released. -/
def Hw.startCmd (h : Hw) (co : CoreId) (c : Cmd) : Hw :=
  let k := h.core co
  let listed := c.op == .gat || c.op == .sct
  if c.op == .close then h.setCore co (k.onCmd c.uid (fun c => { c with started := true, released := true }))
  else if c.total = 0 then
    h.setCore co (k.onCmd c.uid (fun c => { c with
      started := true, released := true, performed := true, visible := true, landed := true })).sweep
  else
    let h := h.setCore co (k.onCmd c.uid (fun c => { c with
      started := true
      released := c.op == .fill || c.op.returns
      idx := if listed then h.indexList co c else [] }))
    if listed && decide (2 ^ 19 < c.lst + 4 * c.rows) then h.faultCmd co c.uid 0x13 c.lst (capDetail 8 (4 * c.rows) {})
    else h

/-- The engine whose commands a queue holds (R117). -/
def engOfQueue : QSel → EngId
  | .load => .l
  | .store => .s

/-- A copy of a ring slot that the command's engine began before it is not done: it is an access of the engine (R119, R273, R274). -/
def Hw.streamsBefore (h : Hw) (co : CoreId) (c : Cmd) : Bool :=
  h.streams.any (fun x => x.co == co && x.eng == engOfQueue c.q && decide (x.before ≤ c.uid))

/-- The index list that a command reads as it starts still has writes of earlier commands of its queue to come (R127, R134). -/
def Hw.listBehind (h : Hw) (co : CoreId) (c : Cmd) : Bool :=
  (c.op == .gat || c.op == .sct) && h.behind co c [(localKey co c.lst, 4 * c.rows)] false

/-- COPY_COMMAND_START: the oldest entry of a queue starts, while fewer than 16 of the queue are in progress (R118): started and
not performed (log entry 91). What its engine did before it comes first: stores took effect at their commit, reads of
neighbours stand since this command's commit (`Core.fixReads`), and copies of ring slots are waited for (R119). -/
def execCopyCommandStart (co : CoreId) (q : QSel) (s : State) : Out :=
  let k := s.toHw.core co
  let running := k.cmds.filter (fun c => c.q == q && c.started && !c.performed)
  match (k.queued q).head? with
  | none => .next s
  | some c =>
    if k.halted q || decide (16 ≤ running.length) || c.op == .order || s.toHw.listBehind co c
        || s.toHw.streamsBefore co c then .next s
    else .next (s.upd (fun h => h.startCmd co c))

/-! ### Advancing -/

/-- The bytes of the page whose translation an isle's unit holds for an address of a context (R93). -/
def Hw.pageOf (h : Hw) (isle : Nat) (ctx : BitVec 4) (va : Nat) : Nat :=
  match (h.isle isle).tlb.find? (fun t => t.covers ctx va) with
  | some t => t.size
  | none => 65536

/-- A request of a command goes to its home slice (R101); its S mark is that of R300. -/
def Hw.askSlice (h : Hw) (co : CoreId) (c : Cmd) (write : Bool) (pa : Nat) (a : Span) (data : List Byte) : Hw :=
  let r : SliceReq := {
    who := .cmd co c.uid, write := write, pa := pa, len := a.n, data := data
    smark := !write && c.cd.space == 1 && c.task.marksLine a.addr
    va := a.addr.toNat, page := h.pageOf co.isle c.task.ctx a.addr.toNat }
  let h := h.onHome pa (fun x => { x with reqs := x.reqs ++ [r] })
  h.onCmd co c.uid (fun c => { c with piece := if write then .writing a.n else .reading a.n })

/-- The flow of a core's space-8 commands (R279): source master, channel, queue. -/
def flowOf (co : CoreId) (c : Cmd) : BitVec 16 :=
  BitVec.ofNat 16 (co.isle * 64 + c.ch % 16 * 4 + (if c.q = .load then 0 else 1))

/-- The quay by which a flit of this module's own leaves, if it goes out: that of the port it takes; quay 0 receives a request to
the module itself (R277, log entry 117). -/
def Hw.quayOut (h : Hw) (f : Flit) : Option Nat :=
  if f.dst.toNat = h.cfg.modno then some 0 else (h.egress h.origin.routes h.origin.routes.active f).map (· / 32)

/-- A request of a command goes to its module as a flit (R280, R284), by a route to the quay where it leaves (R15). -/
def Hw.askWindow (h : Hw) (co : CoreId) (c : Cmd) (write : Bool) (a : Span) (data : List Byte) : Hw :=
  let dst := (a.addr / 2 ^ 35).toNat
  let flow := flowOf co c
  let key := dst * 65536 + flow.toNat
  let seq := tabGet 0 h.xseqs key % 2 ^ 25
  let f : Flit := {
    type := if write then 1 else 2, cls := if c.ch < 8 then 0 else 1, dst := BitVec.ofNat 13 dst
    src := BitVec.ofNat 13 h.cfg.modno, pkey := c.task.pkey, flow := flow
    len := BitVec.ofNat 8 (if write then a.n else 4), off := BitVec.ofInt 35 a.addr, hops := 0
    xseq := BitVec.ofNat 25 seq, payload := if write then data else leBytes 4 a.n, hseq := 0, hack := 0, cred := 0 }
  if (h.quayOut f).any (fun q => !h.reaches co.isle (676 + q)) then h.await
  else
  let h := h.onCmd co c.uid (fun c => { c with piece := if write then .writing a.n else .reading a.n })
  let x : XReq := { dst := dst, flow := flow.toNat, xseq := seq, off := f.off.toNat, co := co, uid := c.uid }
  let h := { h with
    xseqs := tabPut ((seq + 1) % 2 ^ 25) key h.xseqs
    xreqs := h.xreqs ++ [x] }
  if dst = h.cfg.modno then h.windowRequest 0 f else h.originate f

/-- A command waits for the walk of a page (R93), when one of the 64 walks serves it. -/
def Hw.askPage (h : Hw) (co : CoreId) (c : Cmd) (a : Span) (write : Bool) : Hw :=
  let who : WalkFor := .cmd co c.uid write
  let h := h.askWalk co.isle c.task.ctx a.addr.toNat who
  if (h.isle co.isle).walks.any (fun w => w.2.who.contains who) then
    h.onCmd co c.uid (fun c => { c with piece := .walking })
  else h

/-- An indexed element whose own range breaks its bounds (R132). -/
def Cmd.elementBad (c : Cmd) : Option (Nat × CReg × Int) :=
  let out := fun (x : CReg) (a : Int) => decide (a < x.base) || decide ((x.top : Int) < a + c.len)
  match c.op with
  | .gat => if out c.cs (c.src c.elem) then some (c.csi, c.cs, c.src c.elem) else none
  | .sct => if out c.cd (c.dst c.elem) then some (c.cdi, c.cd, c.dst c.elem) else none
  | _ => none

/-- A command's access to local or accumulator memory meets an uncorrectable error in the cells of a granule: it stops (R144,
R139). -/
def Hw.cellStop (h : Hw) (co : CoreId) (c : Cmd) (a : Span) (k : Nat) : Option Hw :=
  (h.cellErrIn [(k, a.n)]).map (fun g =>
    let acc := decide (2 ^ 49 ≤ k)
    let off := 16 * g % (if acc then 2 ^ 17 else 2 ^ 19)
    let cls := if acc then 4 else 3
    (h.noteIsle co.isle cls off).faultCmd co c.uid 0x70 a.addr (machineDetail cls off))

/-- The next bytes of the source are read, or asked for. -/
def Hw.readNext (h : Hw) (co : CoreId) (c : Cmd) : Hw :=
  let a := c.nextRead
  if h.behind co c (h.spanPlaces co c.task c.cs [a]) false then h
  else
    let (r, h) := h.reachOf co c.task c.csi c.cs a.addr a.n opRead false
    match r with
    | .key k =>
      let whole := a.n == 16 && c.bothLocal
      (h.cellStop co c a k).getD
        (h.onCmd co c.uid (fun c => { c.take (h.markedBytes k a.n) with tag := whole && h.movedTag k }))
    | .line pa => h.askSlice co c false pa a []
    | .bell _ _ => h.onCmd co c.uid (fun c => c.take (List.replicate a.n (0, false)))
    | .window => h.askWindow co c false a []
    | .away => h
    | .miss => h.askPage co c a false
    | .stop code d => h.faultCmd co c.uid code a.addr d

/-- The next bytes of the destination are written, or sent. -/
def Hw.writeNext (h : Hw) (co : CoreId) (c : Cmd) : Hw :=
  let a := c.nextWrite
  if h.behind co c (h.spanPlaces co c.task c.cd [a]) true then h
  else
    let bs := c.held.map Prod.fst
    let m : Master := { src := co.isle, pkey := c.task.pkey }
    let (r, h) := h.reachOf co c.task c.cdi c.cd a.addr a.n opWrite true
    match r with
    | .key k => (h.cellStop co c a k).getD (h.landAt co c.uid c k)
    | .line pa => h.askSlice co c true pa a bs
    | .bell q off =>
      let (ok, h) := h.bellWrite m q off bs
      if ok then h.advanceCmd co c.uid a.n
      else h.faultCmd co c.uid 0x22 a.addr (accDetail true m (q * 65536 + off))
    | .window => h.askWindow co c true a bs
    | .away => h
    | .miss => h.askPage co c a true
    | .stop code d => h.faultCmd co c.uid code a.addr d

/-- COPY_PROGRESS: a command in progress reads or performs its next bytes (R124-R129); one that awaits an answer, or acts at
a port, stays as it is. -/
def execCopyProgress (co : CoreId) (n : Nat) (s : State) : Out :=
  match s.toHw.cmd? co n with
  | none => .next s
  | some c =>
    if !c.started || c.performed || c.fault.isSome || c.piece != .idle || c.op.atPort || c.op == .close then .next s
    else
      let fresh := c.buf.isEmpty && c.at_ == 0
      match (if fresh then c.elementBad else none) with
      | some (reg, x, a) => .next (s.upd (fun h => h.faultCmd co n 0x11 a (capDetail reg c.len x)))
      | none => .next (s.attempt (fun h => if c.mustRead then h.readNext co c else h.writeNext co c))

/-! ### Visibility and order markers -/

/-- The home slices of the mapped lines of a range, as a launch's context has them (R96). -/
def Hw.slicesOf (h : Hw) (root lo hi : Nat) : List (Nat × Nat) :=
  ((List.range ((hi - lo + 255) / 256 + 1)).filterMap (fun i =>
    let va := lo / 256 * 256 + 256 * i
    if hi ≤ va then none else (h.paOf root va false).map (fun pa => (paSite pa, paSlice pa)))).dedup

/-- The slices of a tag's region, as a task's footprints give it (R253). -/
def Hw.regionOf (h : Hw) (co : CoreId) (t : Task) (rt : Nat) : List (Nat × Nat) :=
  let root := ((h.isle co.isle).context t.ctx).root
  ((t.tagged rt).flatMap (fun f => h.slicesOf root f.cap.base f.cap.top)).dedup

/-- A slice has notice that a participant closed round k (R255). -/
def Hw.hasClosed (h : Hw) (site slice lid : Nat) (p : Participant) (k : Nat) : Bool :=
  h.closed.any (fun n => n.site == site && n.slice == slice && n.lid == lid && n.p == p && (n.all || decide (k ≤ n.n)))

/-- The participant that an engine of a task is (R253). -/
def Task.participant (t : Task) (tag : Nat) (e : EngId) : Participant :=
  { wave := t.wave, tag := tag, task := t.task, iter := t.iter, eng := e }

/-- Every earlier command of the queue with an `xclose`'s tag has been accepted into its round (R255, R257). -/
def Core.acceptedBefore (k : Core) (c : Cmd) : Bool :=
  k.cmds.all (fun e => e.q != c.q || e.rt != c.rt || e.op == .close || decide (c.uid ≤ e.uid) || e.performed)

/-- COPY_VISIBLE: a performed outbound command becomes visible at its scope (R126, R289), unless it ended in a fault (R139); an
`xclose` once the commands before it are accepted and every slice of its region, as mapped, has its notice (R255). -/
def execCopyVisible (co : CoreId) (n : Nat) (s : State) : Out :=
  match s.toHw.cmd? co n with
  | none => .next s
  | some c =>
    if c.op == .close then
      let p := c.task.participant c.rt (engOfQueue c.q)
      let all := (s.toHw.regionOf co c.task c.rt).all (fun x => s.toHw.hasClosed x.1 x.2 c.task.lid p c.round)
      if c.started && all && (s.toHw.core co).acceptedBefore c then
        .next (s.upd (fun h => (h.onCmd co n (fun c => { c with performed := true, visible := true })).onCore co Core.sweep))
      else .next s
    else if c.performed && c.outbound && c.fault.isNone then
      .next (s.upd (fun h => (h.onCmd co n (fun c => { c with visible := true })).onCore co Core.sweep))
    else .next s

/-- The other queue of a core. -/
def otherQueue : QSel → QSel
  | .load => .store
  | .store => .load

/-- XORDER_HEAD: a marker at the head of its queue takes the commands that the other queue has received (R138). -/
def execXorderHead (co : CoreId) (q : QSel) (s : State) : Out :=
  let k := s.toHw.core co
  match (k.queued q).head? with
  | none => .next s
  | some c =>
    if c.op != .order || c.head then .next s
    else
      let p := (k.cmds.filter (fun x => x.q == otherQueue q && x.op != .order && !x.performed)).map (·.uid)
      .next (s.upd (fun h => h.onCmd co c.uid (fun c => { c with head := true, waitFor := p })))

/-- XORDER_LEAVE: the marker leaves once every command it took is complete (R138). -/
def execXorderLeave (co : CoreId) (q : QSel) (s : State) : Out :=
  let k := s.toHw.core co
  match (k.queued q).head? with
  | none => .next s
  | some c =>
    let wait := k.cmds.any (fun x => c.waitFor.contains x.uid && !x.performed)
    if c.op != .order || !c.head || wait then .next s
    else .next (s.upd (fun h => h.onCore co (fun k => { k with cmds := k.cmds.filter (fun x => x.uid != c.uid) })))

/-! ### The translation unit -/

/-- An `await.mem` meets a fault: the task stops with a record of its engine, and the request waits for the resume (R266). -/
def Hw.failAmem (h : Hw) (co : CoreId) (e : EngId) (code : Byte) (detail : BitVec 256) : Hw :=
  let g := (h.core co).eng e
  match g.amem with
  | none => h
  | some m =>
    let r : TrapRec := {
      code := code, unit := BitVec.ofNat 8 (engUnit e), slot := BitVec.ofNat 3 m.slot, after := true
      sec := g.secAt m.pc.toNat, core := BitVec.ofNat 11 co.core, pc := m.pc, addr := BitVec.ofNat 64 m.va, detail := detail }
    (h.onEng co e (fun g => { g with amem := some { m with halted := true, pa := none, placed := false } })).takeTrap co r

/-- A `tmma.ga` meets a fault: the tile is abandoned and the task stops, holding its lease (R226). -/
def Hw.failTile (h : Hw) (co : CoreId) (slot : Nat) (code : Byte) (va row : Nat) (detail : BitVec 256) : Hw :=
  match tabFind (h.core co).slots slot with
  | none => h
  | some x =>
    match x.tile with
    | none => h
    | some t =>
      let r : TrapRec := {
        code := code, unit := 5, slot := BitVec.ofNat 3 x.gslot, after := true, sec := x.sec
        core := BitVec.ofNat 11 co.core, pc := x.pc, addr := BitVec.ofNat 64 va
        detail := (detail &&& BitVec.ofNat 256 (2 ^ 192 - 1)) ||| detField 56 1 t.slot ||| detField 57 1 row }
      (h.onCore co (fun k => { k with
        slots := tabPut { x with tile := some { t with halted := true } } slot k.slots })).takeTrap co r

/-- The row of a tile's A operand that a virtual address of it lies in (R226). -/
def TileJob.rowOf (t : TileJob) (va : Nat) : Nat := min ((va - t.globalA.getD va) / max (lineBytes t.prof) 1) (t.rows - 1)

/-- A walk's fault reaches those who wait for it (R92); without a detail of its own it names the entry (R363). -/
def Hw.walkFault (h : Hw) (isle : Nat) (ctx : BitVec 4) (code : Byte) (detail : Option (BitVec 256)) (who : WalkFor) : Hw :=
  let of := fun (va : Nat) (write : Bool) => detail.getD (h.xlateDetail isle ctx va write)
  match who with
  | .cmd co uid write =>
    match h.cmd? co uid with
    | none => h
    | some c =>
      let a := if write then c.nextWrite.addr else c.nextRead.addr
      h.faultCmd co uid code a (of a.toNat (write || c.op.atPort))
  | .amem co e =>
    match ((h.core co).eng e).amem with
    | some m => h.failAmem co e code (of m.va false)
    | none => h
  | .tile co slot =>
    match (tabFind (h.core co).slots slot).bind (·.tile) with
    | none => h
    | some t =>
      let va := t.missAt.getD (t.globalA.getD 0)
      h.failTile co slot code va (t.rowOf va) (of va false)

/-- A walk has its answer: those who wait go on. -/
def Hw.walkDone (h : Hw) (who : WalkFor) : Hw :=
  match who with
  | .cmd co uid _ => h.onCmd co uid (fun c => if c.piece == .walking then { c with piece := .idle } else c)
  | _ => h

/-- The TLB with one more entry; the oldest leaves when it is full (R93). -/
def Isle.fillTlb (x : Isle) (t : TlbEntry) : Isle :=
  let rest := x.tlb.filter (fun y => !(y == t))
  { x with tlb := (if 8192 ≤ rest.length then rest.drop 1 else rest) ++ [t] }

/-- What a walk finds of a unit through a context: none is enabled without EN (R90). -/
def Hw.walkAnswer (h : Hw) (m : Master) (c : Ctx) (va : Nat) : WalkAns × Hw :=
  if c.en then h.walkRead m va 4 0 c.root else (.stop 0x20 none, h)

/-- A walk's answer is there (R90-R93): the TLB holds the translation, or those who wait meet the fault. -/
def Hw.endWalk (h : Hw) (isle : Nat) (w : Walk) : Hw :=
  let va := w.va * 65536
  let h := w.who.foldl Hw.walkDone h
  match h.walkAnswer { src := isle, pkey := h.keyOf isle w.ctx } ((h.isle isle).context w.ctx) va with
  | (.away, h) => h.await
  | (.leaf l, h) => h.onIsle isle (fun x => x.fillTlb {
      ctx := w.ctx, va := va / l.size * l.size, size := l.size, pa := l.pa, w := l.w, cow := l.cow })
  | (.stop code d, h) => w.who.foldl (fun h p => h.walkFault isle w.ctx code d p) h

/-- PAGE_WALK_COMPLETE: a walk of the isle finishes with a translation, which the TLB holds, or with a fault (R90-R93); it goes on
while a read of it has no route (R15). -/
def execPageWalkComplete (isle n : Nat) (s : State) : Out :=
  match tabFind (s.toHw.isle isle).walks n with
  | none => .next s
  | some w =>
    .next (s.attempt (fun h => (h.onIsle isle (fun x => { x with walks := tabDel n x.walks })).endWalk isle w))

/-- An ITUINV write is queued behind the earlier ones (R94, R95). -/
def pushInval (isle : Nat) (v : Inval) (s : State) : State :=
  s.upd (fun h => h.onIsle isle (fun x => { x with invs := x.invs ++ [v] }))

/-- ITUINV_VA: SCOPE 0 (R94). -/
def execItuinvVa (isle : Nat) (ctx : BitVec 4) (va : BitVec 32) (s : State) : Out :=
  .next (pushInval isle { scope := 0, ctx := ctx, va := va } s)

/-- ITUINV_CONTEXT: SCOPE 1 (R94). -/
def execItuinvContext (isle : Nat) (ctx : BitVec 4) (s : State) : Out :=
  .next (pushInval isle { scope := 1, ctx := ctx, va := 0 } s)

/-- ITUINV_ALL: SCOPE 2 (R94). -/
def execItuinvAll (isle : Nat) (s : State) : Out := .next (pushInval isle { scope := 2, ctx := 0, va := 0 } s)

/-- An invalidation covers a page of a context: its virtual address, or one within it, and its bytes (R94). -/
def Inval.hits (v : Inval) (ctx : BitVec 4) (va page : Nat) : Bool :=
  match v.scope.toNat with
  | 0 => ctx == v.ctx && decide (v.va.toNat * 65536 / page = va / page)
  | 1 => ctx == v.ctx
  | _ => true

/-- An invalidation covers a TLB entry (R94). -/
def Inval.covers (v : Inval) (t : TlbEntry) : Bool := v.hits t.ctx t.va t.size

/-- An `await.mem` of an engine has been translated, by a page that a test names, and not performed: it waits for a monitor entry
(R95, R267). -/
def Eng.amemWaits (g : Eng) (hit : Nat → Nat → Bool) : Bool :=
  match g.amem with
  | some m => m.pa.isSome && !m.placed && !m.halted && hit m.va m.page
  | none => false

/-- A request of the isle that was translated, by a page of a context that a test names, is not performed at its target yet (R95):
it stands at its slice, waits for a monitor, or waits in a round to be applied. The test takes the context, the virtual
address and the bytes of the page. -/
def Hw.inFlight (h : Hw) (isle : Nat) (hit : BitVec 4 → Nat → Nat → Bool) : Bool :=
  h.slices.any (fun x => x.2.reqs.any (fun r => match r.who with
    | .cmd co uid => co.isle == isle && (match h.cmd? co uid with
        | some c => hit c.task.ctx r.va r.page
        | none => false)
    | _ => false))
  || h.rounds.any (fun q => q.co.isle == isle && hit q.ctx q.va q.page)
  || h.cores.any (fun e => e.1 / 2048 == isle && e.2.task.any (fun t =>
      e.2.l.amemWaits (hit t.ctx) || e.2.cE.amemWaits (hit t.ctx) || e.2.s.amemWaits (hit t.ctx)))

/-- ITUINV_COMPLETE: the oldest invalidation of the isle is complete (R95): the covered entries leave the TLB, and accesses
that they translated have been performed. Walks read the tables afresh when they complete. -/
def execItuinvComplete (isle : Nat) (s : State) : Out :=
  match (s.toHw.isle isle).invs with
  | [] => .next s
  | v :: rest =>
    if s.toHw.inFlight isle v.hits then .next s
    else .next (s.upd (fun h => h.onIsle isle (fun x => { x with invs := rest, tlb := x.tlb.filter (fun t => !v.covers t) })))

end Sys2Proof.Machine
end

