-- ==== Sys2Proof/Machine/Service.lean ====
section
/-! DEFINITION. Units leaving service: pending changes and when they take effect (R26, R27), the marks of arrays served (R231), and an
isle that a launch leaves (R145, R370). -/

namespace Sys2Proof.Machine

/-- Some launch holds an isle. -/
def Hw.isleHeld (h : Hw) (isle : Nat) : Bool := h.launches.any (fun l => l.2.isles.contains isle)

/-- One pending change takes effect (R26, R27). -/
def Hw.applyChange (h : Hw) (isle : Nat) (c : SvcChange) : Hw :=
  match c with
  | .core ins pos => h.onArr isle ins (fun a => { a with cores := a.cores &&& ~~~(BitVec.ofNat 4 (2 ^ pos)) })
  | .segment ins seg => h.onArr isle ins (fun a => { a with segs := a.segs &&& ~~~(BitVec.ofNat 4 (2 ^ seg)) })
  | .array ins => h.onArr isle ins (fun a => { a with segs := 0 })
  | .port k => h.onIsle isle (fun x => { x with ports := x.ports &&& ~~~(BitVec.ofNat 4 (2 ^ k)) })
  | .transit => h.onIsle isle (fun x => { x with transit := false })
  | .isle => h.onIsle isle (fun x => { x with inService := false })

/-- The arrays of an isle that the tables list, by insula. -/
def Hw.arrsOf (h : Hw) (isle : Nat) : List (Nat × Arr) :=
  (h.arrs.filter (fun e => e.1 / 512 == isle)).map (fun e => (e.1 % 512, e.2))

/-- The task that calibrates an array (R231): a system task whose PCC carries sy. -/
def calTask : Task := { calib := true, sysPcc := true, lid := 65536 }

/-- A marked array is served (R231), from stage 4 of bring-up on (R394): CAL := 3, but for an array not calibrated yet, whose CAL
stays 0 until its task has run; its calibration task is placed on the first core in service. -/
def Hw.serveMark (h : Hw) (isle ins : Nat) : Hw :=
  let a := h.arr isle ins
  if h.boot.stage.toNat < 4 then h
  else match [0, 1, 2, 3].find? (fun p => a.cores.getLsbD p) with
  | none => h
  | some p =>
    (h.setArr isle ins { a with cal := if a.cal = 0 then 0 else 3, mark := false }).onCore ⟨isle, 4 * ins + p⟩
      (fun k => { k with queue := k.queue ++ [calTask] })

/-- The pending changes of an isle take effect, and its marked arrays are served (R27, R231, R316). -/
def Hw.applyPending (h : Hw) (isle : Nat) : Hw :=
  let h := (h.isle isle).pend.foldl (fun h c => h.applyChange isle c) h
  let h := h.onIsle isle (fun x => { x with pend := [] })
  let h := (h.arrsOf isle).foldl (fun h e =>
    if e.2.pendSegs = 0 then h
    else h.onArr isle e.1 (fun a => { a with segs := a.segs &&& ~~~a.pendSegs, pendSegs := 0 })) h
  (h.arrsOf isle).foldl (fun h e => if e.2.mark && (h.arr isle e.1).segs != 0 then h.serveMark isle e.1 else h) h

/-- The changes of an isle that no launch holds take effect at once (R27). -/
def Hw.settlePending (h : Hw) (isle : Nat) : Hw := if h.isleHeld isle then h else h.applyPending isle

/-- A change is held as pending (R27). -/
def Hw.withdraw (h : Hw) (isle : Nat) (c : SvcChange) : Hw :=
  (h.onIsle isle (fun x => { x with pend := x.pend ++ [c] })).settlePending isle

/-- A withdrawal by kind (R26, R27, R397): 0 core, 1 segment, 2 array, 3 port, 4 transit switch, 5 isle. -/
def changeOf (k a b : Nat) : SvcChange :=
  match k with
  | 0 => .core a b
  | 1 => .segment a b
  | 2 => .array a
  | 3 => .port a
  | 4 => .transit
  | _ => .isle

/-- A unit of a site is withdrawn (R27): a causeway port is all that leaves service at a square. -/
def Hw.withdrawAt (h : Hw) (site k a b : Nat) : Hw :=
  if isleOk site then h.withdraw site (changeOf k a b)
  else if squareOk site ∧ k = 3 ∧ a < 4 then h.askPath (.port site a) else h

/-! ### An isle that is freed -/

/-- The first lines of a core's dirty bits: of local memory, 2,048, and of its accumulator slots, 128 (R374). -/
def dirtyLines (co : CoreId) : Nat × Nat := (localKey co 0 / 256, slotKey co 0 0 0 / 256)

/-- A core is not in prepared state any more (R145): a task ran on it, or a line has changed since its preparation. -/
def Hw.touched (h : Hw) (co : CoreId) : Bool :=
  let (lo, hi) := dirtyLines co
  (h.core co).used || h.dirty.any (fun n => (decide (lo ≤ n) && decide (n < lo + 2048)) || (decide (hi ≤ n) && decide (n < hi + 128)))

/-- A core that a launch leaves is prepared anew for its next launch (R145), unless it is kept as it is prepared. -/
def Core.leave (k : Core) (keep : Bool) : Core := { k with prepFor := if keep then k.prepFor else none, used := false }

/-- An isle is freed: its context ends (R370). A core that a REFINE's run left in prepared state stays so for the block's next run
(R373, R393). -/
def Hw.freeIsle (h : Hw) (isle : Nat) (c : BitVec 4) (keep : Bool := false) : Hw :=
  let h := h.onIsle isle (fun x => { x with
    ctx := tabPut {} c.toNat x.ctx, tlb := x.tlb.filter (fun t => t.ctx != c)
    walks := x.walks.filter (fun w => w.2.ctx != c) })
  { h with cores := h.cores.map (fun e => if e.1 / 2048 = isle then (e.1, e.2.leave (keep && !h.touched ⟨isle, e.1 % 2048⟩)) else e) }

end Sys2Proof.Machine
end

