-- ==== Sys2Proof/Machine/QueueState.lean ====
section
/-! DEFINITION. A command queue's state: its slot (R336-R338), what its look-ahead holds (R339, R343), its grant (R347, R358), its
faults (R357). -/

namespace Sys2Proof.Machine

/-! ### The queue -/

/-- A queue. -/
def Hw.queue (h : Hw) (q : Nat) : HQueue := tabGet {} h.queues q

/-- A queue with new contents. -/
def Hw.setQueue (h : Hw) (q : Nat) (x : HQueue) : Hw := { h with queues := tabPut x q h.queues }

/-- A queue changed by a function. -/
def Hw.onQueue (h : Hw) (q : Nat) (f : HQueue → HQueue) : Hw := h.setQueue q (f (h.queue q))

/-- The doorbell slot of a queue changed by a function (R336). -/
def Hw.onDbSlot (h : Hw) (q : Nat) (f : DbSlot → DbSlot) : Hw :=
  match (h.quay (q / 256)).slotOf q with
  | some i => h.onQuay (q / 256) (fun y => { y with slots := tabPut (f (tabGet { q := q } y.slots i)) i y.slots })
  | none => h

/-- What the look-ahead holds is discarded and will be read again from the issue point, with the same places (R339, R343, R344).
A LAUNCH or REFINE whose isles are allocated stays at the head until its first frame starts (R345). -/
def HQueue.dropLook (x : HQueue) : HQueue :=
  match (if x.starting.isSome then x.look.head? else none) with
  | some p => { x with look := [p], readIdx := p.ridx, readChain := p.chain, pending := none, places := p.place + 1 }
  | none => { x with
      look := [], readIdx := x.ridx, readChain := x.chain, pending := none, waitFrom := none
      places := match x.look.head? with
        | some p => p.place
        | none => x.places }

/-! ### The slot -/

/-- A queue holds a slot of its block (R336). -/
def Hw.mapped (h : Hw) (q : Nat) : Bool := ((h.quay (q / 256)).slotOf q).isSome

/-- The doorbell slot of a mapped queue. -/
def Hw.dbSlot (h : Hw) (q : Nat) : DbSlot :=
  match (h.quay (q / 256)).slotOf q with
  | some i => tabGet { q := q } (h.quay (q / 256)).slots i
  | none => { q := q }

/-- A queue is unmapped (R337): SHADOW takes the maximum, and the slot is free. -/
def Hw.unmapQueue (h : Hw) (q : Nat) : Hw :=
  match (h.quay (q / 256)).slotOf q with
  | none => h
  | some i =>
    let h := h.maxShadow q (h.dbSlot q).widx
    (h.onQuay (q / 256) (fun y => { y with slots := tabDel i y.slots, unmapWait := setDel q y.unmapWait })).onQueue q
      HQueue.dropLook

/-- A mapped queue is idle (R338). -/
def Hw.idleQueue (h : Hw) (q : Nat) : Bool :=
  let x := h.queue q
  (h.dbSlot q).widx == x.ridx && x.chain.isEmpty && x.look.isEmpty && x.pending.isNone

/-- A queue that has become idle is unmapped when a QCMD with OP 2 waits for that (R338). -/
def Hw.settleUnmap (h : Hw) (q : Nat) : Hw :=
  if (h.quay (q / 256)).unmapWait.contains q && h.mapped q && h.idleQueue q then h.unmapQueue q else h

/-- QCMD with OP 2 (R338): a mapped queue is unmapped once it is idle. -/
def Hw.unmapOnce (h : Hw) (q : Nat) : Hw :=
  if h.mapped q then (h.onQuay (q / 256) (fun y => { y with unmapWait := setAdd q y.unmapWait })).settleUnmap q else h

/-! ### The grant -/

/-- A range lies in the grant of a launch's queue with permissions (R357, R358). -/
def Launch.grants (l : Launch) (va n : Nat) (need : BitVec 12) : Bool :=
  decide (l.gbase ≤ va) && decide (va + n ≤ l.gbase + l.glen) && l.gperm &&& need == need

/-- A range lies in a queue's grant with permissions (R347, R357). -/
def HQueue.grants (x : HQueue) (va n : Nat) (need : BitVec 12) : Bool :=
  decide (x.gbase ≤ va) && decide (va + n ≤ x.gbase + x.glen) && x.gperm &&& need == need

/-! ### Queue faults -/

/-- A launch whose first frame has not started holds its packet at the head of its queue (R345): with the packet it is discarded, and
its isles are free again (R357). -/
def Hw.discardStart (h : Hw) (q : Nat) : Hw :=
  match (h.queue q).starting.bind h.launch? with
  | none => h
  | some l =>
    let h := h.onQueue q (fun x => { x with starting := none })
    let h := { h with launches := tabDel l.lid h.launches, refines := h.refines.filter (fun r => !(r.q == q && r.lid == l.lid)) }
    let h := (l.isles.zip l.ctxs).foldl (fun h x => h.freeIsle x.1 x.2) h
    l.isles.foldl (fun h i => h.settlePending i) h

/-- A QUEUE FAULT (R357): HALT and FCODE are set, the look-ahead stops and what it has read is discarded, a launch that has not
issued with it. A queue that is idle then is unmapped if a QCMD waits for that (R338). -/
def Hw.queueFault (h : Hw) (q : Nat) (code : BitVec 4) : Hw :=
  let h := (h.onDbSlot q (fun d => { d with halt := true, fcode := code })).discardStart q
  (h.onQueue q HQueue.dropLook).settleUnmap q

end Sys2Proof.Machine
end

