-- ==== Sys2Proof/Machine/FaultLog.lean ====
section
/-! DEFINITION. Global memory as the harbour and the controllers reach it by virtual address, and the launch fault log
(R371, R372). -/

namespace Sys2Proof.Machine

/-! ### Memory by virtual address -/

/-- A range cut at 64 KiB pages: the place of each cut under a root table, or none where the walk faults. -/
def Hw.pagesOf (h : Hw) (root va n : Nat) (write : Bool) : List (Nat × Nat × Option Nat) :=
  if n = 0 then []
  else (List.range ((va + n - 1) / 65536 - va / 65536 + 1)).map (fun i =>
    let lo := max va ((va / 65536 + i) * 65536)
    let hi := min (va + n) ((va / 65536 + i + 1) * 65536)
    (lo, hi - lo, h.paOf root lo write))

/-- `n` bytes at a virtual address under a root table; none where some page faults. -/
def Hw.readVa (h : Hw) (root va n : Nat) : Option (List Byte) :=
  let ps := h.pagesOf root va n false
  if ps.all (fun p => p.2.2.isSome) then some (ps.flatMap (fun p => h.bytes (p.2.2.getD 0) p.2.1)) else none

/-- The places that a reading of `n` bytes at a virtual address reaches, in order (R90, R101): of each page the table entries of its
walk, then its lines. -/
def Hw.readPlaces (h : Hw) (root va n : Nat) : List Nat :=
  (h.pagesOf root va n false).flatMap (fun p => h.entriesFrom p.1 4 0 root ++ match p.2.2 with
    | none => []
    | some pa => if paTarget pa = .line then (lineCuts (p.2.1 / 64 + 2) pa p.2.1).map Prod.fst else [pa])

/-- A master may read bytes at a virtual address: they translate, and neither the tables nor the bytes are barred (R357). -/
def Hw.mayRead (h : Hw) (m : Master) (root va n : Nat) : Bool :=
  (h.pagesOf root va n false).all (fun p => p.2.2.isSome)
    && (h.readPlaces root va n).all (fun pa => (h.barAt m opRead pa).isNone)

/-- The bytes that a master reads at a virtual address; none where it may not (R357). -/
def Hw.readAs (h : Hw) (m : Master) (root va n : Nat) : Option (List Byte) :=
  if h.mayRead m root va n then h.readVa root va n else none

/-- Requests of a master at places, one after another: each that is performed meets the errors of its line, and the first that is
barred ends them with its effect (R15, R98, R105). -/
def Hw.reading (h : Hw) (m : Master) (pas : List Nat) : Hw :=
  let done := pas.takeWhile (fun pa => (h.barAt m opRead pa).isNone)
  (done.foldl (fun h pa => (h.checkLine pa .clean).2) h).meetBar m opRead pas

/-- A reading that a master may not make has its effect up to the request that is barred (R15, R98, R105). -/
def Hw.noteRead (h : Hw) (m : Master) (root va n : Nat) : Hw := h.reading m (h.readPlaces root va n)

/-- Bytes of a page written at quay register space (R96, R335): a doorbell rings, or the write is counted and refused. -/
def Hw.writeBell (h : Hw) (m : Master) (pa : Nat) (bs : List Byte) : Bool × Hw :=
  match paTarget pa with
  | .bell n => h.bellWrite m n (pa % 65536) bs
  | _ => (false, h)

/-- Bytes written at a virtual address under a root table by the harbour or a controller, not by a task (R104, R349, R405): the
write is dropped, and answered false, when a page does not translate, a table refuses it, or a line changed in part is
uncorrectable; it waits while a place has no route (R15). W and COW of a leaf are for the isles' accesses (R92): a leaf translates
whatever they hold. A write that reaches quay register space is a doorbell write (R335). -/
def Hw.writeVa (h : Hw) (m : Master) (root va : Nat) (bs : List Byte) : Bool × Hw :=
  let ps := h.pagesOf root va bs.length false
  let tables := ps.flatMap (fun p => h.entriesFrom p.1 4 0 root)
  let h := h.reading m tables
  let cuts := ps.flatMap (fun p => match p.2.2 with
    | some pa => lineCuts (p.2.1 / 64 + 2) pa p.2.1
    | none => [])
  if ps.any (fun p => p.2.2.isNone) || tables.any (fun pa => (h.barAt m opRead pa).isSome) then (false, h)
  else if ps.any (fun p => p.2.2.any (fun pa => h.barAt m opWrite pa == some .route)) then (false, h.await)
  else if ps.any (fun p => p.2.2.any (fun pa => paTarget pa != .line)) then
    ps.foldl (fun r p => match p.2.2 with
      | some pa =>
        let (ok, h) := r.2.writeBell m pa ((bs.drop (p.1 - va)).take p.2.1)
        (r.1 && ok, h)
      | none => r) (true, h)
  else match cuts.find? (fun c => (h.barAt m opWrite c.1).isSome) with
    | some c => (false, h.meetBar m opWrite [c.1])
    | none =>
      let h := h.checkCuts cuts
      if cuts.any (fun c => c.2 != 64 && (h.lineOf c.1).bad) then (false, h)
      else (true, ps.foldl (fun h p => match p.2.2 with
        | some pa => h.writeLines pa ((bs.drop (p.1 - va)).take p.2.1) {}
        | none => h) h)

/-! ### The fault log -/

/-- The bytes of a record of the fault log (R371). -/
def FaultRec.bytes (r : FaultRec) (frame : Nat) : List Byte :=
  [r.code, r.kind] ++ leBytes 2 r.isle ++ leBytes 2 r.core ++ leBytes 2 0 ++ leBytes 8 frame ++ leBytes 4 r.task
    ++ leBytes 4 r.iter ++ leBytes 8 r.tick.toNat ++ leBytes 32 r.body.toNat

/-- Record i is put into a fault log: NREC counts it, and it is written while there is room (R371, R405). A record for which CAP gives
room outside the grant is queue fault 3 (R358, log entry 118). -/
def Hw.putFault (h : Hw) (q : Nat) (m : Master) (root log i frame : Nat) (inGrant : Bool) (r : FaultRec) : Hw :=
  if log = 0 then h
  else
    let h := h.meetErrs (fun h => h.mayRead m root log 4)
    let cap := h.readAs m root log 4
    let h := if cap.isNone then h.noteRead m root log 4 else h
    let h := (h.writeVa m root (log + 4) (leBytes 4 (i + 1))).2
    if !cap.any (fun b => decide (i < leNat b)) then h
    else if inGrant then (h.writeVa m root (log + 64 + 64 * i) (r.bytes frame)).2
    else h.queueFault q 3

/-- A record enters the launch's fault log (R371). -/
def Hw.logFault (h : Hw) (lid : Nat) (r : FaultRec) : Hw :=
  match h.launch? lid with
  | none => h
  | some l =>
    (h.setLaunch { l with nrec := l.nrec + 1 }).putFault l.q (quayMaster l.q l.pkey) l.rootpa l.flogva l.nrec.toNat
      l.frame.toNat (l.grants (l.flogva + 64 + 64 * l.nrec.toNat) 64 pSt) r

/-- A launch is to end with a fault (R370): its record is kept for the ending. -/
def Hw.failLaunch (h : Hw) (lid : Nat) (r : FaultRec) : Hw :=
  h.onLaunch lid (fun l => { l with failing := l.failing ++ [r], abort := true })

/-- A trap record's bytes 0 to 31 as a body (R372). -/
def TrapRec.body (r : TrapRec) : BitVec 256 :=
  let flags := r.after.toNat + 2 * r.branch.toNat + 4 * r.landing.toNat + 8 * r.rep.toNat
  BitVec.ofNat 256 (r.code.toNat + 2 ^ 8 * r.unit.toNat + 2 ^ 16 * r.slot.toNat + 2 ^ 24 * flags + 2 ^ 32 * r.sec.toNat
    + 2 ^ 48 * r.core.toNat + 2 ^ 64 * r.pc.toNat + 2 ^ 128 * r.addr.toNat + 2 ^ 192 * r.done.toNat)

/-- The KIND 0 record that a trap record becomes (R371, R372). -/
def Hw.trapFault (h : Hw) (co : CoreId) (t : Task) (r : TrapRec) : FaultRec :=
  { code := r.code, kind := 0, isle := co.isle, core := co.core, task := t.task, iter := t.iter, tick := h.tick
    body := r.body }

end Sys2Proof.Machine
end

