-- ==== Sys2Proof/Machine/Rmw.lean ====
section
/-! DEFINITION. Accumulates, atomics, rounds and continuations where they are applied (R245-R264), and the landings they
return (R252). -/

namespace Sys2Proof.Machine

/-! ### What an application computes -/

/-- A key that orders FP32 values with -0 below +0 (R248). -/
def signedKey (b : Lane) : Nat := (if b.msb then ~~~b else b ^^^ 0x80000000#32).toNat

/-- The smaller, or larger, FP32 value: a NaN gives way, two NaNs give 0x7FC00000 (R248). -/
def accPick (min : Bool) (w x : Lane) : Lane :=
  match f32Val w, f32Val x with
  | .nan, .nan => 0x7FC00000#32
  | .nan, _ => x
  | _, .nan => w
  | _, _ => if (signedKey w < signedKey x) = min then w else x

/-- combine(w, x) (R248). -/
def AccOp.combine (k : AccOp) (w x : Nat) : Nat :=
  let a := BitVec.ofNat 32 w
  let b := BitVec.ofNat 32 x
  match k with
  | .addS32 => (a + b).toNat
  | .addS64 => (BitVec.ofNat 64 w + BitVec.ofNat 64 x).toNat
  | .addF32 => (f32Of ((f32Val a).add (f32Val b))).toNat
  | .minS32 => (if a.slt b then a else b).toNat
  | .maxS32 => (if a.slt b then b else a).toNat
  | .minF32 => (accPick true a b).toNat
  | .maxF32 => (accPick false a b).toNat
  | .and => (a &&& b).toNat
  | .or => (a ||| b).toNat
  | .xor => (a ^^^ b).toNat

/-- The new value of an element and whether a comparison held (R248, R250, R251): `v` is the operand or the accumulated
element, `w` the new value of a comparison. -/
def XOp.apply (op : XOp) (old : Nat) (v w : Word) : Nat × Bool :=
  match op with
  | .acc k => (k.combine old v.toNat, true)
  | .fadd32 => ((BitVec.ofNat 32 old + v.setWidth 32).toNat, true)
  | .fadd64 => ((BitVec.ofNat 64 old + v).toNat, true)
  | .swp => (v.toNat, true)
  | .cas | .casGo => if old = v.toNat then (w.toNat, true) else (old, false)
  | _ => (old, true)

/-- OLD of a landing (R252). -/
def XOp.oldField (op : XOp) (old : Nat) : Word :=
  match op with
  | .fadd32 => (BitVec.ofNat 32 old).signExtend 64
  | _ => BitVec.ofNat 64 old

/-- The landing granule's bits (R252). -/
def landingBits (old : Word) (ok cont rnd : Bool) : BitVec 128 :=
  BitVec.ofNat 128 (old.toNat + 2 ^ 64 * ok.toNat + 2 ^ 65 * cont.toNat + 2 ^ 66 * rnd.toNat)

/-- The operation of an access table that a command needs (R97). -/
def XOp.tableOp : XOp → Nat
  | .acc _ => opAcc
  | .casGo => opCont
  | _ => opAtom

/-! ### Immediate applications -/

/-- An element of a command has been applied, with the landing it returns (R249, R251). -/
def Hw.applied1 (h : Hw) (co : CoreId) (uid : Nat) (landing : Option (BitVec 128)) : Hw :=
  (h.onCmd co uid (fun c =>
    let d := c.done + c.size
    let fin := decide (c.total ≤ d)
    { c with
      done := d
      performed := c.performed || fin
      released := c.released || fin
      landing := if landing.isSome then landing else c.landing })).onCore co Core.sweep

/-- The operand of the element a command stands at: the accumulated source bytes, or V (R249, R250). -/
def Hw.operandOf (h : Hw) (co : CoreId) (c : Cmd) : Word :=
  match c.op with
  | .acc k => BitVec.ofNat 64 (h.num (localKey co (c.src c.elem).toNat) k.size)
  | _ => c.v

/-- The source bytes of the element that an accumulate stands at. -/
def Cmd.accSrc (c : Cmd) : List Span :=
  match c.op with
  | .acc k => [⟨c.src c.elem, k.size⟩]
  | _ => []

/-- An element is applied to memory at a place, without a round (R245, R251). -/
def Hw.applyHere (h : Hw) (co : CoreId) (c : Cmd) (k : Nat) (put : Hw → List Byte → Hw) : Hw :=
  let old := h.num k c.size
  let (new, ok) := c.op.apply old (h.operandOf co c) c.w
  let h := put h (leBytes c.size new)
  h.applied1 co c.uid (if c.op.returns then some (landingBits (c.op.oldField old) ok false false) else none)

/-- A command counts once at each slice that it reaches (R111, R245). -/
def Hw.countPage (h : Hw) (co : CoreId) (uid : Nat) (pa : Nat) : Hw :=
  let s := sliceKey (paSite pa) (paSlice pa)
  match h.cmd? co uid with
  | none => h
  | some c =>
    if c.hit.contains s then h
    else (h.onPage pa (fun p => p.count co.isle)).onCmd co uid (fun c => { c with hit := s :: c.hit })

/-- A read-modify-write reaches quay register space (R96, R98, R363): the doorbell block counts a violation, and the command
faults. -/
def Hw.denyBell (h : Hw) (co : CoreId) (c : Cmd) (q off : Nat) : Hw :=
  let m : Master := { src := co.isle, pkey := c.task.pkey }
  let at_ := q * 65536 + off
  (h.onQuay (q / 256) (fun y => { y with acc := y.acc.deny m c.op.tableOp at_ })).faultCmd co c.uid 0x22 (c.dst c.elem)
    (accDetail true m at_)

/-- ATOMIC_APPLY: the next element of an immediate command is applied at its port (R245, R249, R251). -/
def execAtomicApply (co : CoreId) (n : Nat) (s : State) : Out :=
  match s.toHw.cmd? co n with
  | none => .next s
  | some c =>
    if !c.started || c.performed || c.fault.isSome || c.piece != .idle || !c.op.atPort || c.rt != 0 then .next s
    else
      let a : Span := ⟨c.dst c.elem, c.size⟩
      .next (s.upd (fun h =>
        if h.behind co c (h.spanPlaces co c.task c.cd [a]) true || h.behind co c (h.spanPlaces co c.task c.cs c.accSrc) false
        then h
        else if c.accSrc.any (fun x => decide (2 ^ 19 < x.addr + x.n)) then
          h.faultCmd co n 0x13 (c.src c.elem) (capDetail c.csi c.size c.cs)
        else
          let (r, h) := h.reachOf co c.task c.cdi c.cd a.addr a.n c.op.tableOp true
          match r with
          | .key k =>
            let t := landCore co c.cd.space a.addr
            match (h.core t).barrierIn (landOff c.cd.space a.addr) a.n with
            | some (name, slot) => h.faultCmd co n 0x33 a.addr (barrierDetail name (h.slotAt t slot).bits)
            | none => (h.cellStop co c a k).getD (h.applyHere co c k (fun h bs => h.write k bs))
          | .line pa =>
            if (h.home pa).reqs.any (fun r => r.pa / 64 == pa / 64) then h
            else
              let (ok, h) := (h.countPage co n pa).checkLine pa .clean
              if !ok then h.faultCmd co n 0x70 a.addr (machineDetail 6 pa)
              else h.applyHere co c pa (fun h bs => h.writeLine pa bs c.task.stamp)
          | .bell q off => h.denyBell co c q off
          | .window | .away => h
          | .miss => h.askPage co c a true
          | .stop code d => h.faultCmd co n code a.addr d))

/-! ### Landings -/

/-- The core still runs the command's task (R252). -/
def Core.runs (k : Core) (t : Task) : Bool :=
  match k.task with
  | some r => r.lid == t.lid && r.task == t.task && r.iter == t.iter && r.frame == t.frame
  | none => false

/-- A landing is refused after its element was applied (R252): the command faults while its task runs, else the launch is to
end with the record. -/
def Hw.refuseLanding (h : Hw) (co : CoreId) (c : Cmd) (code : Byte) (detail : BitVec 256) : Hw :=
  if (h.core co).runs c.task then h.faultCmd co c.uid code c.sa detail
  else h.failLaunch c.task.lid (h.trapFault co c.task (c.record co code c.sa detail))

/-- ATOMIC_LANDING: the landing granule is written as one arrival of the issuing core's copy engine (R252), that of an immediate
command after what earlier commands of its queue write or read there (R127). -/
def execAtomicLanding (co : CoreId) (n : Nat) (s : State) : Out :=
  match s.toHw.cmd? co n with
  | none => .next s
  | some c =>
    match c.landing with
    | none => .next s
    | some v =>
      let off := c.sa.toNat
      if c.rt == 0 && s.toHw.behind co c [(localKey co off, 16)] true then .next s
      else .next (s.upd (fun h =>
        let h := h.onCmd co n (fun c => { c with landing := none, landed := true })
        let h :=
          if 2 ^ 19 < off + 16 then h.refuseLanding co c 0x13 (capDetail c.csi 16 c.cs)
          else match (h.core co).barrierIn off 16 with
            | some (name, slot) => h.refuseLanding co c 0x33 (barrierDetail name (h.slotAt co slot).bits)
            | none =>
              let k := localKey co off
              let h := (h.putNum k 16 v.toNat).setFull true k
              if c.tb = 0 then h
              else match h.arriveAt co c.tb 16 with
                | some h' => h'
                | none =>
                  let bits := match (h.core co).barrierAt c.tb with
                    | some o => (h.slotAt co o).bits
                    | none => 0
                  h.refuseLanding co c 0x33 (barrierDetail c.tb bits)
        h.onCore co Core.sweep))

/-! ### Rounds -/

/-- ROUND_REQUEST_ACCEPT: the next element of a round-batched command is accepted into its round at its slice (R257); a task
that a trap has ended has closed its rounds (R255). -/
def execRoundRequestAccept (co : CoreId) (n : Nat) (s : State) : Out :=
  match s.toHw.cmd? co n with
  | none => .next s
  | some c =>
    if !c.started || c.performed || c.fault.isSome || c.piece != .idle || !c.op.atPort || c.rt == 0
        || (s.toHw.core co).fatal then .next s
    else
      let a : Span := ⟨c.dst c.elem, c.size⟩
      .next (s.upd (fun h =>
        if h.behind co c (h.spanPlaces co c.task c.cd [a]) true || h.behind co c (h.spanPlaces co c.task c.cs (c.accSrc)) false
        then h
        else if c.accSrc.any (fun x => decide (2 ^ 19 < x.addr + x.n)) then
          h.faultCmd co n 0x13 (c.src c.elem) (capDetail c.csi c.size c.cs)
        else
          let (r, h) := h.reachOf co c.task c.cdi c.cd a.addr a.n c.op.tableOp true
          match r with
          | .line pa =>
            let at_ := sliceKey (paSite pa) (paSlice pa)
            let q : RoundReq := {
              site := paSite pa, slice := paSlice pa, lid := c.task.lid, wave := c.task.wave, tag := c.rt, k := c.round
              task := c.task.task, iter := c.task.iter, eng := engOfQueue c.q, seq := c.seq, j := c.elem, op := c.op
              pa := pa, va := a.addr.toNat, v := h.operandOf co c, w := c.w, name := c.name, co := co, uid := n
              frame := c.task.frame, counts := !c.hit.contains at_
              ctx := c.task.ctx, page := h.pageOf co.isle c.task.ctx a.addr.toNat }
            let h := { h with rounds := h.rounds ++ [q] }
            (h.onCmd co n (fun c =>
              let d := c.done + c.size
              let fin := decide (c.total ≤ d)
              { c with
                hit := at_ :: c.hit, done := d, performed := fin, released := c.released || fin, visible := fin })).onCore co Core.sweep
          | .bell q off => h.denyBell co c q off
          | .away => h
          | .miss => h.askPage co c a true
          | .stop code d => h.faultCmd co n code a.addr d
          | _ => h.faultCmd co n 0x13 a.addr (capDetail c.cdi c.size c.cd)))

/-- Participants in the order of R254: task, iteration, L before S. -/
def partBefore (a b : Participant) : Bool :=
  if a.task ≠ b.task then decide (a.task < b.task)
  else if a.iter ≠ b.iter then decide (a.iter < b.iter) else a.eng == .l && b.eng == .s

/-- The participants of a tag in a wave of a launch (R253). -/
def Launch.roundParts (l : Launch) (wave tag : Nat) : List Participant :=
  (l.recs.filter (fun t => t.wave % 256 == wave % 256 && ((l.ents[t.task]?).map (fun e =>
      e.feet.any (fun f => f.valid && f.mode == 2 && f.rtag.toNat == tag))).getD false)).flatMap
    (fun t => [⟨wave, tag, t.task, t.iter, .l⟩, ⟨wave, tag, t.task, t.iter, .s⟩])

/-- The key of a request (R254). -/
def RoundReq.key (q : RoundReq) : List Nat := [q.k, q.task, q.iter, if q.eng = .l then 0 else 1, q.seq, q.j]

/-- The participant of a request. -/
def RoundReq.part (q : RoundReq) : Participant := ⟨q.wave, q.tag, q.task, q.iter, q.eng⟩

/-- Keys in order, component by component. -/
def keyLess : List Nat → List Nat → Bool
  | a :: s, b :: t => if a = b then keyLess s t else decide (a < b)
  | _, _ => false

/-- ROUND_CLOSE_NOTICE: the notice of a participant's next close reaches a slice, by a route (R15, R255): of its next `xclose`, or,
once its engine is done, of every round; each once the earlier commands of the tag are accepted; and of every round once its
task has retired or has met a trap that is not repaired. An `xclose` that has left the queue was accepted: a slice whose
first page is mapped later has its notice from the engine's count of closes. -/
def execRoundCloseNotice (site slice lid : Nat) (p : Participant) (s : State) : Out :=
  let h := s.toHw
  let old := (h.closed.find? (fun n => n.site == site && n.slice == slice && n.lid == lid && n.p == p)).getD
    { site := site, slice := slice, lid := lid, p := p }
  let put := fun (n : CloseNote) => Host.Outcome.next (s.upd (fun h => { h with
    closed := h.closed.filter (fun x => x != old) ++ [n] }))
  match h.launch? lid with
  | none => .next s
  | some l =>
    match l.recs.find? (fun t => t.task == p.task && t.iter == p.iter && t.wave == p.wave) with
    | none => .next s
    | some t =>
      let k := h.core t.co
      let own := k.cmds.filter (fun c => c.rt == p.tag && engOfQueue c.q == p.eng && c.task.task == p.task
        && c.task.iter == p.iter && c.task.lid == lid)
      let running := k.task.isSome && t.st == .running
      if t.st == .waiting || t.st == .queued || old.all || !h.linked t.co.isle site then .next s
      else if running && k.fatal then put { old with all := true }
      else if !running || (k.eng p.eng).st == .done then
        if own.all (fun c => c.op == .close || c.performed) then put { old with all := true } else .next s
      else
        match own.find? (fun c => c.op == .close && c.round == old.n + 1) with
        | some c => if c.started && c.fault.isNone && k.acceptedBefore c then put { old with n := old.n + 1 } else .next s
        | none => if old.n + 1 ≤ tabGet 0 (k.eng p.eng).closes p.tag then put { old with n := old.n + 1 } else .next s

/-- The bytes of a continuation record (R261). -/
def ContRec.bytes (c : ContRec) : List Byte :=
  leBytes 8 c.old.toNat ++ leBytes 8 c.addr ++ leBytes 8 c.cmp.toNat ++ leBytes 8 c.new.toNat ++ leBytes 4 c.ptask
    ++ leBytes 4 c.piter ++ leBytes 2 c.name ++ leBytes 2 c.rtag ++ leBytes 1 c.wave ++ leBytes 1 c.round
    ++ leBytes 1 (if c.eng then 1 else 0) ++ leBytes 1 0 ++ leBytes 4 c.seq ++ List.replicate 12 0

/-- CONTINUATION_ENQUEUE and CONTINUATION_LOST: the record goes to the slice's queue, else to its ring, else it is lost with a
record in the launch's fault log (R262, R263). True when it was enqueued. -/
def Hw.enqueueCont (h : Hw) (site slice : Nat) (c : ContRec) : Bool × Hw :=
  let x := h.slice site slice
  if x.contq.length < 64 then (true, h.onSlice site slice (fun x => { x with contq := x.contq ++ [c] }))
  else if x.ring.length < x.rsize.toNat then
    let pa := x.spbase.toNat * 64 + 64 * x.ring.length
    (true, (h.writeLines pa c.bytes {}).onSlice site slice (fun x => { x with ring := x.ring ++ [some c.lid] }))
  else
    let h := h.onSlice site slice (fun x => { x with lost := if x.lost = 0xFFFF#16 then x.lost else x.lost + 1 })
    let r : FaultRec := {
      code := 0x50, kind := 1, isle := site, core := slice, task := c.ptask, iter := c.piter, tick := h.tick
      body := detField 32 2 c.name ||| detField 40 8 c.addr ||| detField 48 8 c.old.toNat }
    (false, (h.logFault c.lid r).onLaunch c.lid (fun l => { l with lost := true }))

/-- A request of a round is applied at its slice (R245, R251, R256, R261). -/
def Hw.applyRound (h : Hw) (q : RoundReq) : Hw :=
  let h := { h with rounds := h.rounds.filter (fun x => x != q) }
  let h := if q.counts then h.onPage q.pa (fun p => p.count q.co.isle) else h
  let size := match q.op with
    | .acc k => k.size
    | .fadd32 => 4
    | _ => 8
  let (ok, h) := h.checkLine q.pa .clean
  if !ok then
    if (h.cmd? q.co q.uid).any (fun c => (h.core q.co).runs c.task) then
      h.faultCmd q.co q.uid 0x70 q.va (machineDetail 6 q.pa)
    else h.failLaunch q.lid {
      code := 0x70, kind := 6, isle := q.co.isle, core := q.co.core, task := q.task, iter := q.iter
      tick := h.tick, body := detField 32 1 6 ||| detField 40 8 (faultAddr 6 q.pa) }
  else
    let old := h.num q.pa size
    let (new, ok) := q.op.apply old q.v q.w
    let t : Task := { task := q.task, iter := q.iter, frame := q.frame, wave := q.wave }
    let h := h.writeLine q.pa (leBytes size new) t.stamp
    let c : ContRec := {
      lid := q.lid, old := BitVec.ofNat 64 old, addr := q.va, cmp := q.v, new := q.w, ptask := q.task, piter := q.iter
      name := q.name, rtag := q.tag, wave := q.wave % 256, round := q.k % 256, eng := q.eng == .s, seq := q.seq }
    let (cont, h) := if q.op == .casGo && ok then h.enqueueCont q.site q.slice c else (false, h)
    if q.op.returns then
      h.onCmd q.co q.uid (fun c => { c with landing := some (landingBits (q.op.oldField old) ok cont true) })
    else h

/-- ROUND_APPLY: a slice applies the first request of a tag in a wave, once its own participant and every one before it have
closed the round, and every participant the round before (R254, R256). -/
def execRoundApply (site slice lid wave tag : Nat) (s : State) : Out :=
  let h := s.toHw
  let mine := h.rounds.filter (fun q => q.site == site && q.slice == slice && q.lid == lid && q.wave == wave && q.tag == tag)
  match mine, h.launch? lid with
  | q0 :: rest, some l =>
    let q := rest.foldl (fun a b => if keyLess b.key a.key then b else a) q0
    let ps := l.roundParts wave tag
    let ok := h.hasClosed site slice lid q.part q.k
      && ps.all (fun p => (!partBefore p q.part || h.hasClosed site slice lid p q.k) && (q.k ≤ 1 || h.hasClosed site slice lid p (q.k - 1)))
    if ok && !(h.slice site slice).reqs.any (fun r => r.pa / 64 == q.pa / 64) then .next (s.attempt (fun h => h.applyRound q))
    else .next s
  | _, _ => .next s

end Sys2Proof.Machine
end

