-- ==== Sys2Proof/Machine/Between.lean ====
section
/-! DEFINITION. The steps of streams after commit (R273, R274) and of `await.mem` at its square (R266, R267). -/

namespace Sys2Proof.Machine

/-- The oldest copy of a ring's side in flight. -/
def Hw.streamHead (h : Hw) (site ring : Nat) (put : Bool) : Option StreamCopy :=
  h.streams.find? (fun c => c.site == site && c.ring == ring && c.put == put)

/-- A copy in flight is taken out. -/
def Hw.dropStream (h : Hw) (c : StreamCopy) : Hw := { h with streams := h.streams.erase c }

/-- The record of a stream copy that a barrier's slot (R156) or an uncorrectable error in local memory (R144) refuses. -/
def StreamCopy.record (c : StreamCopy) (code : Byte) (detail : BitVec 256) : TrapRec :=
  { code := code, unit := BitVec.ofNat 8 (engUnit c.eng), slot := BitVec.ofNat 3 c.slot, after := true, sec := c.sec
    core := BitVec.ofNat 11 c.co.core, pc := c.pc, addr := BitVec.ofNat 64 c.off, detail := detail }

/-- The access of a stream copy to local memory meets an uncorrectable error (R144, R369). -/
def Hw.streamStop (h : Hw) (c : StreamCopy) : Option Hw :=
  (h.cellErrIn [(localKey c.co c.off, c.size)]).map (fun g =>
    let off := 16 * g - localKey c.co 0
    ((h.noteIsle c.co.isle 3 off).dropStream c).takeTrap c.co (c.record 0x70 (machineDetail 3 off)))

/-- SPUT_PUBLISH: the oldest reserved slot of a ring is read from local memory, written and published (R273). -/
def execSputPublish (site ring : Nat) (s : State) : Out :=
  match s.toHw.streamHead site ring true with
  | none => .next s
  | some c =>
    if (s.toHw.ring site ring).putseq ≠ c.seq || !s.toHw.linked c.co.isle site then .next s
    else
      .next (s.upd (fun h =>
        let r := h.ring site ring
        (h.streamStop c).getD (((h.write (r.slotPlace site c.seq) (h.bytes (localKey c.co c.off) c.size)).onRing site ring
          (fun r => { r with putseq := c.seq + 1 })).dropStream c)))

/-- SGET_COPY_COMPLETE: the oldest taken slot of a ring reaches local memory, and GETSEQ passes it (R274). -/
def execSgetCopyComplete (site ring : Nat) (s : State) : Out :=
  match s.toHw.streamHead site ring false with
  | none => .next s
  | some c =>
    let h := s.toHw
    if (h.ring site ring).getseq ≠ c.seq || !h.linked site c.co.isle then .next s
    else match (h.core c.co).barrierIn c.off c.size with
      | some (name, slot) =>
        let bits := (h.slotAt c.co slot).bits
        .next (s.upd (fun h => (h.dropStream c).takeTrap c.co (c.record 0x33 (barrierDetail name bits))))
      | none =>
        .next (s.upd (fun h =>
          let r := h.ring site ring
          (h.streamStop c).getD (((h.write (localKey c.co c.off) (h.bytes (r.slotPlace site c.seq) c.size)).onRing site ring
            (fun r => { r with getseq := c.seq + 1 })).dropStream c)))

/-- The engine's wait changed by a function. -/
def Hw.onAmem (h : Hw) (co : CoreId) (e : EngId) (f : AMem → AMem) : Hw :=
  h.onEng co e (fun g => { g with amem := g.amem.map f })

/-- The waiting requests of a square's monitor table (R267). -/
def Hw.monQueue (h : Hw) (site : Nat) : List (CoreId × EngId) := tabGet [] h.monWait site

/-- A request at its slice, indivisibly (R266): the word differs, or an entry is placed, in order of arrival (R114), or it waits
for one. -/
def Hw.placeMonitor (h : Hw) (co : CoreId) (e : EngId) (m : AMem) (pa lid : Nat) : Hw :=
  let site := paSite pa
  let first := ((h.monQueue site).head?).all (fun x => x == (co, e))
  let q := (h.monQueue site).filter (fun x => x != (co, e))
  let (ok, h) := ({ h with monWait := tabPut q site h.monWait } : Hw).checkLine pa .clean
  if !ok then h.failAmem co e 0x70 (machineDetail 6 pa)
  else if h.num pa 8 ≠ m.expected.toNat then h.wake co e 3
  else if first && decide ((h.monitorsOf site).length < 256) then
    ({ h with monitors := tabPut (h.monitorsOf site ++ [({ line := pa / 64, co := co, eng := e, lid := lid } : Monitor)]) site h.monitors }).onAmem co e
      (fun m => { m with pa := some pa, placed := true })
  else ({ h with monWait := tabPut (q ++ [(co, e)]) site h.monWait }).onAmem co e (fun m => { m with pa := some pa })

/-- MONITOR_REQUEST: an `await.mem` is translated and reaches its home slice, or, waiting for an entry there, is tried again
as the first of those that wait (R266, R267). -/
def execMonitorRequest (co : CoreId) (e : EngId) (s : State) : Out :=
  let h := s.toHw
  let k := h.core co
  let t := k.task.getD {}
  match (k.eng e).amem with
  | none => .next s
  | some m =>
    if m.halted || m.placed then .next s
    else match m.pa with
      | some pa =>
        let site := paSite pa
        if (h.monQueue site).head? == some (co, e) && decide ((h.monitorsOf site).length < 256) then
          .next (s.upd (fun h => h.placeMonitor co e m pa t.lid))
        else .next s
      | none =>
        .next (s.upd (fun h => match h.xlate co.isle t.ctx m.va false with
          | .miss => h.askWalk co.isle t.ctx m.va (.amem co e)
          | .fault code => h.failAmem co e code (h.xlateDetail co.isle t.ctx m.va false)
          | .hit pa =>
            match paTarget pa with
            | .line =>
              if !h.linked co.isle (paSite pa) then h
              else match (h.onAmem co e (fun m => { m with page := h.pageOf co.isle t.ctx m.va })).sliceCheck pa { src := co.isle, pkey := t.pkey } opRead false with
              | (.line pa, h) => h.placeMonitor co e m pa t.lid
              | (.stop code d, h) => h.failAmem co e code d
              | (_, h) => h
            | .bell q => if !h.reaches co.isle (676 + q / 256) then h else if m.expected = 0 then h.wake co e 2 else h.wake co e 3
            | .nothing => h.failAmem co e 0x20 (h.xlateDetail co.isle t.ctx m.va false)))

/-- MONITOR_TIMEOUT: no entry was allocated in time: status 2 (R267). -/
def execMonitorTimeout (co : CoreId) (e : EngId) (s : State) : Out :=
  match ((s.toHw.core co).eng e).amem with
  | some m =>
    match m.pa with
    | some pa =>
      if m.placed then .next s
      else .next (s.upd (fun h =>
        ({ h with monWait := tabPut ((h.monQueue (paSite pa)).filter (fun x => x != (co, e))) (paSite pa) h.monWait }).wake co e 2))
    | none => .next s
  | none => .next s

end Sys2Proof.Machine
end

