-- ==== Sys2Proof/Machine/Land.lean ====
section
/-! DEFINITION. Landings (R152, R153, R182, R216, R243), freezes (R21), what the array does between issue and landing (R214,
R216, R226, R244), lease grants (R220), calibration (R229, R231) and pending service changes (R27). -/

namespace Sys2Proof.Machine

/-! ### Landings -/

/-- The words of a tile, as its rule gives them on the words present (R210, R213, R217, R225). -/
def Hw.landTile (h : Hw) (co : CoreId) (t : TileJob) : Hw :=
  let word := fun (r n : Nat) (w : Lane) =>
    let a := Machine.lineOf t.prof t.aData r
    let b := Machine.lineOf t.prof t.bData n
    if profInt t.prof then intWord t.prof (copsStep t.cops r) t.k a b w
    else maWordF t.prof t.afmt t.bfmt t.k t.scaled a b (scaleOf t.prof t.rows t.aData r) (scaleOf t.prof 64 t.bData n) w
  (List.range t.rows).foldl (fun h r => (List.range 64).foldl (fun h n =>
    let k := slotKey co (t.slot + r / 8) (r % 8) n
    h.putNum k 4 (word r n (BitVec.ofNat 32 (h.num k 4))).toNat) h) h

/-- Consecutive vector registers written from a list. -/
def CUnit.putRegs (u : CUnit) (d : Nat) (xs : List VReg) : CUnit :=
  { u with v := (xs.zipIdx).foldl (fun v x => v.setIfInBounds (d + x.2) x.1) u.v }

/-- The record of a marked granule met by a landing slot's reads, at its effective address (R302, R361, R362). -/
def LSlot.markRecord (x : LSlot) (co : CoreId) (off : Nat) : TrapRec :=
  { code := 0x31, unit := BitVec.ofNat 8 (engUnit x.eng), slot := BitVec.ofNat 3 x.gslot, landing := true, sec := x.sec
    core := BitVec.ofNat 11 co.core, pc := x.pc, addr := BitVec.ofNat 64 off, detail := poisonDetail 3 0 }

/-- LAND: the slot's data reaches its destination, and the slot is free (R182); data read with an uncorrectable error, or of a
marked granule, is a trap instead (R144, R302). -/
def Hw.land (h : Hw) (co : CoreId) (slot : Nat) (x : LSlot) : Hw :=
  let h := h.onCore co (fun k => { k with slots := tabDel slot k.slots })
  match x.kind, x.tile with
  | .tile, some t => h.landTile co t
  | .tile, none => h
  | .race, _ => h.onCore co (fun k => { k with cu := k.cu.putRegs x.dest x.regs })
  | kind, _ =>
    match x.err, x.mark with
    | some m, _ =>
      let r := { x.markRecord co (remoteAddr ⟨co.isle, x.target⟩ x.off) with code := 0x70, detail := machineDetail 3 m }
      (h.takeTrap co r).noteMachine co r
    | none, some m => h.takeTrap co (x.markRecord co (remoteAddr ⟨co.isle, x.target⟩ m))
    | none, none =>
      if kind = .vldn then h.onCore co (fun k => { k with cu := k.cu.putRegs x.dest x.regs })
      else if x.dest = 0 then h
      else
        let v : GReg := ⟨((x.regs.getD 0 {}).bits).setWidth 64, false⟩
        h.onEng co x.eng (fun e => { e with g := e.g.setIfInBounds x.dest v })

/-- The landing that is due and first in program order (R153). -/
def Core.firstDue (k : Core) : Option (Nat × LSlot) :=
  (k.slots.filter (fun e => decide (e.2.due ≤ k.cyc))).foldl (fun (b : Option (Nat × LSlot)) e => match b with
    | none => some e
    | some f => if e.2.due < f.2.due ∨ (e.2.due = f.2.due ∧ e.2.ord < f.2.ord) then some e else b) none

/-- The slot's data has come: a tile or race that is ready, a neighbour's data once its read has taken the time it takes
(R152, R182). -/
def LSlot.ready (x : LSlot) (k : Core) : Bool :=
  match x.kind with
  | .ldn | .vldn => x.arrived || decide (x.asked + 6 + Config.readDelay x.ord ≤ k.isleCycles)
  | _ => x.arrived

/-- LAND_DUE: a due landing is made, or the core freezes until its data is there (R182, R216, R243). -/
def execLandDue (co : CoreId) (slot : Nat) (s : State) : Out :=
  let k := s.toHw.core co
  match k.firstDue with
  | none => .next s
  | some (i, x) =>
    if i != slot || k.frozen || k.stopped then .next s
    else if x.ready k then .next (s.upd (fun h => h.land co slot x))
    else .next (s.upd (fun h => h.onCore co (fun k => { k with frozen := true })))

/-- FREEZE_END: the awaited data has come and lands, and the core goes on (R21); not while the core is stopped (R360). -/
def execFreezeEnd (co : CoreId) (s : State) : Out :=
  let k := s.toHw.core co
  match k.firstDue with
  | none => .next (s.upd (fun h => h.onCore co (fun k => { k with frozen := false })))
  | some (i, x) =>
    if !k.frozen || k.stopped || !x.ready k then .next s
    else .next (s.upd (fun h => (h.onCore co (fun k => { k with frozen := false })).land co i x))

/-! ### What the array does before a landing -/

/-- Rejected readings count in MARGIN and REPLAYS (R214, R244), whatever CAL is (log entry 115). -/
def Arr.rejected (a : Arr) (n : Nat) : Arr :=
  { a with
    margin := BitVec.ofNat 16 (min 0xFFFF (a.margin.toNat + n))
    replays := a.replays + BitVec.ofNat 32 n }

/-- An earlier tile of the core is still to be computed (R216, R226). -/
def Core.tileBefore (k : Core) (x : LSlot) : Bool :=
  k.slots.any (fun e => e.2.kind == .tile && !e.2.arrived && decide (e.2.ord < x.ord))

/-- What the array met when it read the global A of a tile (R226). -/
inductive GlobalA where
  | data (bs : List Byte)
  | wait
  | miss (va : Nat)
  | fault (code : Byte) (va row : Nat) (detail : BitVec 256)

/-- The global A operand, line by line through the translation unit, the access tables and the check of R105 (R92, R226). -/
def Hw.readGlobalA (h : Hw) (co : CoreId) (t : Task) (job : TileJob) (va n : Nat) : GlobalA × Hw :=
  (lineCuts (n / 64 + 2) va n).foldl (fun (acc : GlobalA × Hw) c =>
    let h := acc.2
    match acc.1 with
    | .data bs =>
      let row := job.rowOf c.1
      match h.xlate co.isle t.ctx c.1 false with
      | .miss => (.miss c.1, h)
      | .fault code => (.fault code c.1 row (h.xlateDetail co.isle t.ctx c.1 false), h)
      | .hit pa =>
        match paTarget pa with
        | .line =>
          if !h.linked co.isle (paSite pa) then (.wait, h)
          else match h.sliceCheck pa { src := co.isle, pkey := t.pkey } opRead false with
          | (.stop code d, h) => (.fault code c.1 row d, h)
          | (_, h) =>
            if (h.home pa).reqs.any (fun r => r.pa / 64 == pa / 64) then (.wait, h)
            else
              let (ok, h) := h.checkLine pa .clean
              if ok then (.data (bs ++ h.bytes pa c.2), h) else (.fault 0x70 c.1 row (machineDetail 6 pa), h)
        | .bell _ => (.data (bs ++ List.replicate c.2 0), h)
        | .nothing => (.fault 0x20 c.1 row (h.xlateDetail co.isle t.ctx c.1 false), h)
    | other => (other, h)) (.data [], h)

/-- Another core of the insula holds the array with a tile that a fault has halted (R226). -/
def Hw.tileHalted (h : Hw) (co : CoreId) : Bool :=
  (List.range 4).any (fun p => p != CoreId.pos co && (h.core ⟨co.isle, 4 * CoreId.ins co + p⟩).slots.any (fun e =>
    match e.2.tile with
    | some t => t.halted
    | none => false))

/-- A tile whose operands the array has read, ready to land. -/
def Hw.setTile (h : Hw) (co : CoreId) (slot : Nat) (x : LSlot) (t : TileJob) (arrived : Bool) : Hw :=
  h.onCore co (fun k => { k with slots := tabPut { x with tile := some t, arrived := arrived } slot k.slots })

/-- A marked operand ends the tile (R302): the record of UNIT 5 names the granule, the slot and the row (R362, R363). -/
def Hw.markTile (h : Hw) (co : CoreId) (slot : Nat) (x : LSlot) (t : TileJob) (off row : Nat) : Hw :=
  let r : TrapRec := { x.markRecord co off with
    unit := 5, after := true, landing := false
    detail := poisonDetail 3 0 ||| detField 56 1 t.slot ||| detField 57 1 row }
  (h.setTile co slot x { t with halted := true } false).takeTrap co r

/-- TILE_READY: the array reads the operands of a core's next tile and computes it (R214, R216, R217, R225, R226). -/
def execTileReady (co : CoreId) (slot rejects : Nat) (s : State) : Out :=
  let h := s.toHw
  let k := h.core co
  match tabFind k.slots slot with
  | none => .next s
  | some x =>
    match x.tile with
    | none => .next s
    | some t =>
      if x.arrived || t.halted || k.tileBefore x || h.tileHalted co || (h.arr co.isle (CoreId.ins co)).cal == 2 then .next s
      else
        let na := extentA t.prof t.rows t.scaled
        let nb := extentB t.prof t.scaled
        let task := k.task.getD {}
        let fin := fun (h : Hw) (a : List Byte) =>
          (h.setTile co slot x { t with aData := a, bData := h.bytes (localKey co t.bOff) nb } true).onArr co.isle
            (CoreId.ins co) (fun a => a.rejected rejects)
        match h.markOff co t.bOff nb with
        | some m => .next (s.upd (fun h => h.markTile co slot x t m 0))
        | none =>
          match t.globalA with
          | none =>
            match h.markOff co t.aOff na with
            | some m => .next (s.upd (fun h => h.markTile co slot x t m (min ((m - t.aOff) / max (lineBytes t.prof) 1) (t.rows - 1))))
            | none => .next (s.upd (fun h => fin h (h.bytes (localKey co t.aOff) na)))
          | some va =>
            .next (s.upd (fun h => match h.readGlobalA co task t va na with
              | (.data bs, h) => fin h bs
              | (.wait, h) => h
              | (.miss a, h) =>
                (h.setTile co slot x { t with missAt := some a } false).askWalk co.isle task.ctx a (.tile co slot)
              | (.fault code a row d, h) => h.failTile co slot code a row d))

/-- RACE_READY: a race has been run; its block waits for its cycle (R242-R244). -/
def execRaceReady (co : CoreId) (slot rejects : Nat) (s : State) : Out :=
  match tabFind (s.toHw.core co).slots slot with
  | none => .next s
  | some x =>
    if x.kind != .race || x.arrived || (s.toHw.arr co.isle (CoreId.ins co)).cal == 2 then .next s
    else .next (s.upd (fun h => (h.onCore co (fun k => { k with
        slots := tabPut { x with arrived := true } slot k.slots })).onArr co.isle (CoreId.ins co) (fun a => a.rejected rejects)))

/-! ### Leases -/

/-- The first waiting position after the last holder, in the order h + 1, h + 2, h + 3, h (R220). -/
def Arr.nextHolder (a : Arr) : Option Nat :=
  ([1, 2, 3, 4].map (fun i => (a.holder.toNat + i) % 4)).find? (fun p => a.waiting.any (fun w => w.1 == p))

/-- LEASE_GRANT: a free array grants its lease to a waiting core (R220). -/
def execLeaseGrant (isle ins : Nat) (s : State) : Out :=
  let a := s.toHw.arr isle ins
  match a.nextHolder with
  | some p => if a.leased then .next s else .next (s.upd (fun h => h.onArr isle ins (fun a => a.grant p)))
  | none => .next s

/-! ### Service changes and calibration -/

/-- An array is due for a recalibration (R231): MARGIN has reached MTHRESH, or its temperature has moved by TDRIFT. -/
def Hw.calDue (h : Hw) (a : Arr) : Bool :=
  decide (h.cfg.mthresh ≤ a.margin.toNat) || decide (h.cfg.tdrift ≤ (a.temp.toInt - a.tlcal.toInt).natAbs)

/-- CALIBRATION_MARK: the isle controller marks an array that is due for recalibration (R27, R231). -/
def execCalibrationMark (isle ins : Nat) (s : State) : Out :=
  if !s.toHw.calDue (s.toHw.arr isle ins) then .next s
  else .next (s.upd (fun h => (h.onArr isle ins (fun a => { a with mark := true })).settlePending isle))

/-- The trims of a segment as a calibration sets them; a trim past 1,023 fails the segment (R229). -/
def segTrims (trims : List (BitVec 16)) (seg : Nat) : List Nat :=
  (List.range 32).map (fun i => (trims.getD (32 * seg + i) 0).toNat)

/-- CALIBRATION_COMPLETE: `tcal` ends with the trims and the reference periods measured, 6,000 at most (R229); the trims of a failed
segment stay as they were (log entry 114). -/
def execCalibrationComplete (isle ins : Nat) (periods : BitVec 32) (trims : List (BitVec 16)) (s : State) : Out :=
  let a := s.toHw.arr isle ins
  match a.calib with
  | none => .next s
  | some (pos, mask, d) =>
    let sel := (List.range 4).filter (fun i => mask / 2 ^ i % 2 == 1 && a.segs.getLsbD i)
    let bad := sel.filter (fun i => (segTrims trims i).any (fun t => decide (1023 < t)))
    let good := sel.filter (fun i => !bad.contains i)
    let bits := fun (l : List Nat) => packBits (fun i => l.contains i) 4 0
    let v : GReg := ⟨BitVec.ofNat 64 (bits good + 16 * bits bad + 2 ^ 32 * min periods.toNat 6000), false⟩
    .next (s.upd (fun h =>
      let h := h.onArr isle ins (fun a => { a with
        cal := 1, margin := 0, calib := none, tlcal := a.temp
        trim := good.foldl (fun t i => (List.range 32).foldl (fun t j =>
          tabPut (BitVec.ofNat 10 ((trims.getD (32 * i + j) 0).toNat)) (32 * i + j) t) t) a.trim
        pendSegs := a.pendSegs ||| BitVec.ofNat 4 (bits bad) })
      let h := h.onEng ⟨isle, 4 * ins + pos⟩ .c (fun e => if d = 0 then e else { e with g := e.g.set d.toNat v d.isLt })
      h.settlePending isle))

end Sys2Proof.Machine
end

