-- ==== Sys2Proof/Machine/Square.lean ====
section
/-! DEFINITION. The steps of a slice: requests (R101, R105, R300), scrub (R106), row tracking and sparing (R107-R110), refresh
(R99). -/

namespace Sys2Proof.Machine

/-- A request that meets an uncorrectable line (R105): the command faults, or the flit's answer says so. -/
def Hw.refuseLine (h : Hw) (r : SliceReq) : Hw :=
  match r.who with
  | .cmd co uid =>
    match h.cmd? co uid with
    | none => h
    | some c => h.faultCmd co uid 0x70 (if r.write then c.nextWrite.addr else c.nextRead.addr) (machineDetail 6 r.pa)
  | .flit port f =>
    let s := Config.lineErrorStatus r.pa
    h.flitLine port f r.pa [] (if s = 0 then 1 else s)

/-- A read returns its bytes, with the mark of R300 when the stamp is racy for the reader. -/
def Hw.serveRead (h : Hw) (r : SliceReq) : Hw :=
  let bs := h.bytes r.pa r.len
  match r.who with
  | .cmd co uid =>
    match h.cmd? co uid with
    | none => h
    | some c =>
      let racy := r.smark && (h.lineOf r.pa).racy c.task
      h.onCmd co uid (fun c => c.take (bs.map (fun b => (b, racy))))
  | .flit port f => h.flitLine port f r.pa bs 0

/-- A write changes its line (R101, R104). -/
def Hw.serveWrite (h : Hw) (r : SliceReq) : Hw :=
  match r.who with
  | .cmd co uid =>
    match h.cmd? co uid with
    | none => h
    | some c => (h.writeLine r.pa r.data c.task.stamp).advanceCmd co uid r.len
  | .flit port f => (h.writeLine r.pa r.data {}).flitLine port f r.pa [] 0

/-- The line of a request can be written or read: a write of the whole line needs nothing of it (R105). -/
def Hw.openLine (h : Hw) (r : SliceReq) (ecc : Ecc) : Bool × Hw :=
  if r.write && r.pa % 64 == 0 && r.len == 64 then (true, h) else h.checkLine r.pa ecc

/-- The step in which a copy command of an ending launch stands is finished at its slice (R370). -/
def Hw.endStep (h : Hw) (r : SliceReq) : Hw :=
  match r.who with
  | .flit _ _ => h
  | .cmd co uid =>
    match h.cmd? co uid with
    | none => h
    | some c =>
      match h.openLine r .clean with
      | (true, h) => h.writeLine r.pa r.data c.task.stamp
      | (false, h) => h

/-- SLICE_REQUEST: a slice performs a request, the first of its line in order of arrival (R101, R105). -/
def execSliceRequest (site slice n : Nat) (ecc : Ecc) (s : State) : Out :=
  let x := s.toHw.slice site slice
  match x.reqs[n]? with
  | none => .next s
  | some r =>
    if (x.reqs.take n).any (fun q => q.pa / 64 == r.pa / 64) then .next s
    else
      .next (s.upd (fun h =>
        let h := h.onSlice site slice (fun x => { x with reqs := x.reqs.eraseIdx n })
        let (ok, h) := h.openLine r ecc
        if !ok then h.refuseLine r else if r.write then h.serveWrite r else h.serveRead r))

/-! ### Scrub, tracking, sparing -/

/-- The first 256-byte line of a slice from a line number on, if the square has one (R96, R106). -/
def nextScrub (slice l : Nat) : Option Nat :=
  ((List.range 8400).map (· + l)).find? (fun i => decide (i < 2 ^ 28) && paSlice (256 * i) == slice)

/-- A 64-byte part of a line is scrubbed: a newly found uncorrectable error is logged by quay 0 (R105, R106, R369). -/
def Hw.scrubPart (h : Hw) (pa : Nat) (ecc : Ecc) : Hw :=
  let known := (h.lineOf pa).bad
  let (ok, h) := h.checkLine pa ecc
  if !ok && !known then h.onQuay 0 (fun y => { y with mclog := y.mclog.push 6 pa }) else h

/-- A scrub pass ends: PASSES counts it, and the ECS error counts of the DRAM, of rows that the slice has, join the row tracking
(R99, R106). -/
def Slice.endPass (x : Slice) (site slice : Nat) : Slice :=
  ((Config.ecsCounts site slice x.passes).filter (fun e => rowLines site slice e.1 != [])).foldl (fun x e => x.noteErrors e.1.1 e.1.2 e.2)
    { x with scrubAt := 0, passes := x.passes + 1 }

/-- SCRUB_LINE: the slice's next line is scrubbed, each of its four parts (R105, R106, R369); what the step finds is in one of
them, beside what their cells hold. -/
def execScrubLine (site slice : Nat) (ecc : Ecc) (s : State) : Out :=
  let x := s.toHw.slice site slice
  if x.interval = 0 then .next s
  else match nextScrub slice x.scrubAt with
    | none => .next (s.upd (fun h => h.onSlice site slice (fun x => x.endPass site slice)))
    | some l =>
      let part := (Config.scrubPart s.choice).val
      .next ({ s with choice := s.choice + 1 }.upd (fun h =>
        let h := (List.range 4).foldl (fun (h : Hw) p =>
          h.scrubPart (site * 2 ^ 36 + 256 * l + 64 * p) (if p = part then ecc else .clean)) h
        h.onSlice site slice (fun x =>
          if (nextScrub slice (l + 1)).isNone then x.endPass site slice else { x with scrubAt := l + 1 })))

/-- A slice's counts leak at a tick, once (R107); a count of 8 is kept (R110, log entry 90). -/
def Slice.leak (x : Slice) (tick : BitVec 64) : Slice :=
  if x.leakAt = tick then x
  else { x with
    leakAt := tick
    rows := x.rows.map (fun e => (e.1, { e.2 with count := if e.2.count = 8 then 8 else e.2.count - 1 })) }

/-- ROW_TRACK_LEAK: at a tick that is a multiple of 2^20 every count decreases by one (R107). -/
def execRowTrackLeak (site slice : Nat) (s : State) : Out :=
  if s.tick.toNat % 2 ^ 20 ≠ 0 then .next s
  else .next (s.upd (fun h => h.onSlice site slice (fun x => x.leak h.tick)))

/-- A tick that is a multiple of 2^20 ends: the slices that have not leaked at it do (R107). -/
def Hw.leakAll (h : Hw) : Hw :=
  if h.tick.toNat % 2 ^ 20 ≠ 0 then h else { h with slices := h.slices.map (fun e => (e.1, e.2.leak h.tick)) }

/-- The row awaits a spare: its count has reached 8, or an uncorrectable error marked it (R105, R107). -/
def Slice.wantsSpare (x : Slice) (bank : BitVec 6) (row : BitVec 18) : Bool := x.spareWait.contains (bank, row)

/-- A row for which no spare is free stays in the tracking table with a count of 8 (R110). -/
def Slice.keepRow (x : Slice) (bank : BitVec 6) (row : BitVec 18) : Slice :=
  { x with sparex := true, rows := tabPut { count := 8, bank := bank, row := row } (x.rowEntry bank row).1 x.rows }

/-- The REMAP tables as a record keeps them: square, slice, entry, STATE, bank, row of the spares committed or withdrawn (R108). -/
def Hw.remaps (h : Hw) : List (Nat × Nat × Nat × BitVec 2 × BitVec 6 × BitVec 18) :=
  h.slices.flatMap (fun e => (e.2.remap.filter (fun r => decide (2 ≤ r.2.state.toNat))).map (fun r =>
    (e.1 / 160, e.1 % 160, r.1, r.2.state, r.2.bank, r.2.row)))

/-- The items of the configuration record as they stand (R397). -/
def Hw.recItems (h : Hw) : RecItems :=
  { cfg := h.cfg, withdrawn := h.boot.withdrawn, remaps := h.remaps, repair := h.boot.repair }

/-- Brodsyn writes a new configuration record, with the spares and the repair list as they stand, into the copy not in use
(R108, R110, R397); its SEQ is the next one (log entry 111). -/
def Hw.writeCfgRecord (h : Hw) : Hw :=
  let x := h.boot
  let new := Config.newRecord (if x.recCopy then x.recB else x.recA) h.remaps x.repair
  let items := some (x.seq + 1, h.recItems)
  { h with boot := if x.recCopy then { x with recA := new, itemsA := items } else { x with recB := new, itemsB := items } }

/-- ROW_SPARE_START: sparing of a row begins in the free entry of lowest index (R108); without one SPAREX is set and the row
is added to the repair list of a new configuration record (R110). -/
def execRowSpareStart (site slice : Nat) (bank : BitVec 6) (row : BitVec 18) (s : State) : Out :=
  let x := s.toHw.slice site slice
  if !x.wantsSpare bank row || x.copying.isSome then .next s
  else
    let wait := x.spareWait.filter (fun w => w != (bank, row))
    match (List.range 64).find? (fun i => (tabGet ({} : Remap) x.remap i).state == 0) with
    | some i =>
      .next (s.upd (fun h => h.onSlice site slice (fun x => { x with
        remap := tabPut { state := 1, bank := bank, row := row } i x.remap
        copying := some (i, 0), spareWait := wait })))
    | none =>
      let item := (site, slice, bank, row)
      .next (s.upd (fun h =>
        let h := h.onSlice site slice (fun x => { x.keepRow bank row with spareWait := wait })
        ({ h with boot := { h.boot with
            repair := if h.boot.repair.contains item then h.boot.repair else h.boot.repair ++ [item] } } : Hw).writeCfgRecord))

/-- A line on its way to the spare is corrected under R105; CECNT counts scrub and demand reads alone (R106). -/
def Hw.copySpare (h : Hw) (site slice line : Nat) : Hw :=
  let was := (h.slice site slice).cecnt
  ((h.checkLine (64 * line) .clean).2).onSlice site slice (fun x => { x with cecnt := was })

/-- SPARE_LINE_COPY: the next line of the row goes to the spare, corrected on the way under R105, with its metadata; after
the last of the sixteen the entry commits (R108, R109), and a new configuration record keeps it. -/
def execSpareLineCopy (site slice : Nat) (s : State) : Out :=
  match (s.toHw.slice site slice).copying with
  | none => .next s
  | some (i, k) =>
    .next (s.upd (fun h =>
      let e := tabGet ({} : Remap) (h.slice site slice).remap i
      let lines := rowLines site slice (e.bank, e.row)
      let h := match lines[k]? with
        | some l => h.copySpare site slice l
        | none => h
      if k + 1 < lines.length then h.onSlice site slice (fun x => { x with copying := some (i, k + 1) })
      else (h.onSlice site slice (fun x => { x with
        copying := none, remap := tabPut { tabGet ({} : Remap) x.remap i with state := 2 } i x.remap })).writeCfgRecord))

/-- PER_BANK_REFRESH: a bank is refreshed, or its refresh managed (R99); programs see latency only. -/
def execPerBankRefresh (site slice : Nat) (_bank : BitVec 6) (_rfm : Bool) (s : State) : Out :=
  .next (s.upd (fun h => h.onSlice site slice (fun x => { x with refreshes := x.refreshes + 1 })))

end Sys2Proof.Machine
end

