-- ==== Sys2Proof/Machine/Timetable.lean ====
section
/-! DEFINITION. The timetable image: its records and their checks (R307-R313, R317), footprints (R84, R311), edges and waves
(R318), loop indices (R312), core lists and placement (R306, R320, R321). -/

namespace Sys2Proof.Machine

/-- Reading the image: the value, or the offset of the field that failed (R317, R372), with its bytes where they could not be read. -/
abbrev Tt (α : Type) := Except (Nat × Nat) α

/-- Bytes of a launch's image as its isle schedulers read them, each for itself: translated, admitted, correctable (R317). -/
def Hw.ttBytes (h : Hw) (l : Launch) (off n : Nat) : Option (List Byte) :=
  if l.isles.all (fun i => h.mayRead { src := i, pkey := l.pkey } l.rootpa (l.ttva + off) n) then
    h.readVa l.rootpa (l.ttva + off) n
  else none

/-- A little-endian field of the image. -/
def Hw.ttNum (h : Hw) (l : Launch) (off n : Nat) : Tt Nat :=
  match h.ttBytes l off n with
  | some bs => .ok (leNat bs)
  | none => .error (off, n)

/-- A reading of the image that failed has its effect at every isle of the launch (R15, R98, R105). -/
def Hw.ttFailed (h : Hw) (l : Launch) (e : Nat × Nat) : Hw :=
  l.isles.foldl (fun h i => h.noteRead { src := i, pkey := l.pkey } l.rootpa (l.ttva + e.1) e.2) h

/-- A check of the field at an offset. -/
def ttNeed (b : Bool) (off : Nat) : Tt Unit := if b then .ok () else .error (off, 0)

/-! ### Records -/

/-- The permissions a mode keeps (R84): 0 R, 1 W, 2 A, 3 S. -/
def modeMask (m : Nat) : BitVec 12 :=
  match m with
  | 0 => pLd ||| pEx ||| pLc ||| pSg ||| pDg ||| pSy
  | 2 => pAc ||| pAr ||| pCl ||| pDg ||| pSy
  | _ => pLd ||| pSt ||| pLc ||| pSc ||| pSp ||| pSg ||| pDg ||| pSy

/-- A footprint record (R311, R317). -/
def Hw.ttFoot (h : Hw) (l : Launch) (o : Nat) : Tt Foot := do
  let off ← h.ttNum l o 8
  let len ← h.ttNum l (o + 8) 8
  let perm ← h.ttNum l (o + 16) 2
  let mode ← h.ttNum l (o + 18) 1
  let root ← h.ttNum l (o + 19) 1
  let rtag ← h.ttNum l (o + 20) 2
  let z ← h.ttNum l (o + 22) 2
  let cur ← h.ttNum l (o + 24) 8
  ttNeed (decide (perm < 4096)) (o + 16)
  ttNeed (decide (mode < 8)) (o + 18)
  ttNeed (decide (root < 16)) (o + 19)
  ttNeed (z == 0) (o + 22)
  let m := mode % 4
  ttNeed (if m = 2 then decide (1 ≤ rtag) && decide (rtag < 4096) else rtag == 0) (o + 20)
  if mode / 4 = 0 then .ok {}
  else do
    let r := l.roots.getD root {}
    let b := r.base + off
    ttNeed r.tag (o + 19)
    ttNeed (b % 16 == 0 && decide (b < 2 ^ 48)) o
    ttNeed (len % 2 ^ lenExp len 64 0 == 0 && decide (b + len ≤ r.top)) (o + 8)
    ttNeed (r.has (BitVec.ofNat 12 perm)) (o + 16)
    .ok {
      cap := mkCap r.space (BitVec.ofNat 12 perm &&& modeMask m) b len (b + cur)
      mode := BitVec.ofNat 2 m, rtag := BitVec.ofNat 12 rtag, valid := true }

/-- Fields one after another. -/
def ttList {α : Type} (f : Nat → Tt α) : List Nat → Tt (List α)
  | [] => .ok []
  | o :: t => do
    let x ← f o
    let r ← ttList f t
    .ok (x :: r)

/-- A timetable nest record keeps to R312. -/
def ttNestOk (r : BitVec 512) : Bool :=
  let hdr := nestField r 0 8
  let nl := nestNl r
  let ords := (List.range nl).map (nestOrd r)
  decide (1 ≤ nl) && decide (nl ≤ 6) && hdr / 8 % 32 == 0 && hdr / 2 ^ 26 == 0
    && (List.range nl).all (fun j => ords.contains j) && (List.range 6).all (fun d => d < nl || nestOrd r d == 0)
    && (List.range 6).all (fun j => if j < nl then nestBound r j != 0 else nestBound r j == 0)
    && nestField r 20 4 == 0 && nestField r 36 28 == 0

/-- The product of the loop bounds (R310). -/
def nestCount (r : BitVec 512) : Nat := (List.range (nestNl r)).foldl (fun p j => p * nestBound r j) 1

/-- DOMID names an instance of its level that the launch has (R310, R317). -/
def domOk (l : Launch) (nband level d : Nat) : Bool :=
  match level with
  | 2 => decide (d < 2 ^ 19) && decide (d % 1024 < l.minisl) && decide (d / 1024 < 300)
  | 3 => decide (d < l.minisl)
  | 4 => decide (d < nband)
  | _ => d == 0

/-- An entry record (R310, R313, R317): the record and its length. -/
def Hw.ttEntry (h : Hw) (l : Launch) (nband : Nat) (cont : Bool) (o : Nat) : Tt (Entry × Nat) := do
  let release ← h.ttNum l o 4
  let deadline ← h.ttNum l (o + 4) 4
  let level ← h.ttNum l (o + 8) 1
  let flags ← h.ttNum l (o + 9) 1
  let dbarm ← h.ttNum l (o + 10) 1
  let z1 ← h.ttNum l (o + 11) 1
  let domid ← h.ttNum l (o + 12) 4
  let niter ← h.ttNum l (o + 16) 4
  let offs ← ttList (fun i => h.ttNum l (o + 20 + 4 * i) 4) [0, 1, 2]
  let toks ← ttList (fun i => h.ttNum l (o + 32 + i) 1) (List.range 16)
  let tkmask ← h.ttNum l (o + 48) 2
  let z2 ← h.ttNum l (o + 50) 14
  let fts ← ttList (fun i => h.ttNum l (o + 64 + 4 * i) 4) (List.range 16)
  let feet ← ttList (fun i => h.ttFoot l (o + 128 + 32 * i)) (List.range 8)
  ttNeed (decide (release ≤ deadline)) (o + 4)
  ttNeed (decide (2 ≤ level) && decide (level ≤ 5)) (o + 8)
  let nest := flags % 2 == 1
  ttNeed (decide (flags < 16) && flags / 4 != 3 && !(cont && nest)) (o + 9)
  ttNeed (dbarm % 4 == 0 && decide (dbarm < 64)) (o + 10)
  ttNeed (z1 == 0) (o + 11)
  ttNeed (domOk l nband level domid) (o + 12)
  ttNeed (decide (1 ≤ niter) && decide (niter ≤ 2 ^ 24) && (nest || niter == 1)) (o + 16)
  let role := fun (i x : Nat) => x / 2 ^ 31 == 1 || decide (x % 2 ^ 19 < l.wlen.getD i 0)
  let offOk := fun (i x : Nat) => x / 2 ^ 19 % 2 ^ 12 == 0 && role i x
  ttNeed (offOk 0 (offs.getD 0 0)) (o + 20)
  ttNeed (offOk 1 (offs.getD 1 0)) (o + 24)
  ttNeed (offOk 2 (offs.getD 2 0)) (o + 28)
  ttNeed (offs.any (fun x => x / 2 ^ 31 == 0)) (o + 20)
  ttNeed (z2 == 0) (o + 50)
  let rec_ ← if nest then h.ttNum l (o + 384) 64 else .ok 0
  let r := BitVec.ofNat 512 rec_
  ttNeed (!nest || ttNestOk r) (o + 384)
  ttNeed (!nest || nestCount r == niter) (o + 16)
  .ok ({
    off := o, release := release, deadline := deadline, level := level, spread := flags / 2 % 2 == 1, tilek := flags / 4 % 4
    dbarm := BitVec.ofNat 8 dbarm, domid := domid, niter := niter, nest := r
    starts := offs.map (fun x => if x / 2 ^ 31 = 1 then none else some (x % 2 ^ 19))
    toks := toks.zipIdx.map (fun x => if tkmask / 2 ^ x.2 % 2 = 1 then some (BitVec.ofNat 8 x.1) else none)
    fts := fts.map (BitVec.ofNat 32), feet := feet }, if nest then 448 else 384)

/-- Consecutive entry records. -/
def Hw.ttEntries (h : Hw) (l : Launch) (nband : Nat) : Nat → Nat → Tt (List Entry)
  | 0, _ => .ok []
  | n + 1, o => do
    let (e, k) ← h.ttEntry l nband false o
    let r ← h.ttEntries l nband n (o + k)
    .ok (e :: r)

/-! ### Edges and waves -/

/-- Two footprints overlap (R318). -/
def Foot.overlaps (f g : Foot) : Bool :=
  let s := f.cap.space
  f.valid && g.valid && s == g.cap.space && (s == 1 || s == 5 || s == 6 || targetNo s f.cap.base == targetNo s g.cap.base)
    && decide (max f.cap.base g.cap.base < min f.cap.top g.cap.top)

/-- An overlapping pair gives an edge (R318). -/
def Foot.edge (f g : Foot) : Bool :=
  f.overlaps g && (match f.mode.toNat, g.mode.toNat with
    | 0, m => m == 1 || m == 2
    | 1, m => m != 3
    | 2, m => m == 0 || m == 1
    | _, _ => false)

/-- Two overlapping A footprints carry different tags (R253, R317). -/
def Foot.clash (f g : Foot) : Bool := f.overlaps g && f.mode == 2 && g.mode == 2 && f.rtag != g.rtag

/-- The entries with their predecessors and waves (R318). -/
def withWaves (es : List Entry) : List Entry :=
  es.foldl (fun (acc : List Entry) e =>
    let preds := (acc.zipIdx.filter (fun x => x.1.feet.any (fun f => e.feet.any (fun g => f.edge g)))).map Prod.snd
    let wave := preds.foldl (fun w i => max w (((acc[i]?).map (·.wave)).getD 0 + 1)) 0
    acc ++ [{ e with preds := preds, wave := wave }]) []

/-! ### A frame's records -/

/-- What a frame start reads from the image (R307-R309, R317). -/
structure FrameTab where
  ents : List Entry
  conts : List Entry
  bands : List (Nat × Nat)
  ticks : Nat
  next : Nat
  elastic : Bool
  slipLim : Nat
  slipLog : Nat
  slipN : Nat
  rec_ : Nat
  contsAt : Nat

/-- The header, bands, continuation table and frame record of a launch's next frame, checked (R307-R313, R317); a tail frame
has no record of its own (R316). -/
def Hw.ttFrame (h : Hw) (l : Launch) : Tt FrameTab := do
  ttNeed (l.ttva % 64 == 0) 0
  let ver ← h.ttNum l 0 4
  ttNeed (ver == 1) 0
  let nframe ← h.ttNum l 4 2
  ttNeed (nframe != 0) 4
  let nband ← h.ttNum l 6 2
  ttNeed (decide (nband ≤ 64)) 6
  let frames ← h.ttNum l 8 8
  let bandsAt ← h.ttNum l 16 8
  let contsAt ← h.ttNum l 24 8
  let ncont ← h.ttNum l 32 4
  ttNeed (decide (ncont ≤ 4095)) 32
  let slipLim ← h.ttNum l 36 4
  let slipLog ← h.ttNum l 40 8
  let slipN ← h.ttNum l 48 4
  ttNeed (slipN == 0 || slipLog % 64 == 0) 40
  let z ← h.ttNum l 52 12
  ttNeed (z == 0) 52
  let bands ← ttList (fun b => do
    let o := bandsAt + 8 * b
    let v ← h.ttNum l o 8
    ttNeed (decide (v < 2 ^ 20) && decide (1 ≤ v / 1024) && decide (v / 1024 ≤ 338)
      && decide (v % 1024 + v / 1024 ≤ l.minisl)) o
    .ok (v % 1024, v / 1024)) (List.range nband)
  let conts ← ttList (fun n => do
    let (e, _) ← h.ttEntry l nband true (contsAt + 384 * n)
    .ok e) (List.range ncont)
  if l.tail then
    .ok {
      ents := [], conts := conts, bands := bands, ticks := l.ticks, next := 0xFFFF, elastic := false, slipLim := slipLim
      slipLog := slipLog, slipN := slipN, rec_ := 0, contsAt := contsAt }
  else do
    ttNeed (decide (l.fidx < nframe)) 4
    let o := frames + 16 * l.fidx
    let entries ← h.ttNum l o 8
    let nent ← h.ttNum l (o + 8) 2
    let next ← h.ttNum l (o + 10) 2
    let ticks ← h.ttNum l (o + 12) 4
    ttNeed (decide (nent < 8192) && nent % 4096 != 0) (o + 8)
    ttNeed (next == 0xFFFF || decide (next < nframe)) (o + 10)
    ttNeed (ticks != 0) (o + 12)
    let own ← h.ttEntries l nband (nent % 4096) entries
    .ok {
      ents := own, conts := conts, bands := bands, ticks := ticks, next := next, elastic := nent / 4096 == 1
      slipLim := slipLim, slipLog := slipLog, slipN := slipN, rec_ := o, contsAt := contsAt }

/-! ### Placement -/

/-- The cores of an isle in service, by number (R26, R306). -/
def Hw.isleCores (h : Hw) (isle : Nat) : List CoreId :=
  ((List.range 1200).map (fun c => (⟨isle, c⟩ : CoreId))).filter (fun co => h.coreInService co)

/-- The core list of an entry's instance (R306). -/
def Hw.instCores (h : Hw) (l : Launch) (bands : List (Nat × Nat)) (e : Entry) : List CoreId :=
  let ords := List.range l.isles.length
  let isles := fun (os : List Nat) => os.flatMap (fun o => h.isleCores (l.isles.getD o 0))
  match e.level with
    | 2 => (isles [e.domid % 1024]).filter (fun co => CoreId.ins co == e.domid / 1024)
    | 3 => isles [e.domid]
    | 4 =>
      let b := bands.getD e.domid (0, 0)
      isles ((List.range b.2).map (· + b.1))
    | _ => isles ords

/-- The core list of an entry (R306), filtered by TILEK (R321). -/
def Hw.coreList (h : Hw) (l : Launch) (bands : List (Nat × Nat)) (e : Entry) : List CoreId :=
  (h.instCores l bands e).filter (fun co =>
    let a := h.arr co.isle (CoreId.ins co)
    match e.tilek with
    | 0 => true
    | 1 => a.nsegs == 4 && a.calNow != 4
    | _ => a.calNow != 4)

/-- The core of iteration i of task t (R320). -/
def placeOn (l : Launch) (e : Entry) (cores : List CoreId) (t i : Nat) : CoreId :=
  let w := fun (i : Nat) => (philox l.seed (BitVec.ofNat 64 (t + i * 2 ^ 32)) (BitVec.ofNat 64 l.lid) 0).toNat
  let pos := if e.spread then (w 0 + i) % max cores.length 1 else w i % max cores.length 1
  cores.getD pos ⟨0, 0⟩

/-- The loop indices of iteration i: the innermost depth fastest (R312). -/
def nestIndices (r : BitVec 512) : Nat → Nat → List (Nat × Nat)
  | 0, _ => []
  | d + 1, i =>
    let j := nestOrd r d
    (j, i % max (nestBound r j) 1) :: nestIndices r d (i / max (nestBound r j) 1)

/-- g1 to g6 of iteration i (R312), or what a continuation gives them (R264). -/
def Entry.regs (e : Entry) (i : Nat) : List Word :=
  match e.cont with
  | some r => r
  | none =>
    let ix := nestIndices e.nest (nestNl e.nest) i
    (List.range 6).map (fun j => match ix.find? (fun x => x.1 == j) with
      | some x => BitVec.ofInt 64 ((x.2 : Int) * nestStride e.nest 24 j)
      | none => 0)

/-- A task of an entry as the scheduler places it (R165, R322, R326). -/
def Launch.taskOf (l : Launch) (e : Entry) (t i : Nat) (co : CoreId) : Task :=
  let o := (l.ordinal co.isle).getD 0
  { lid := l.lid, task := t, iter := i, frame := l.frame, wave := e.wave, seed := l.seed, loopmode := l.loopmode
    ctx := l.ctxs.getD o 0, pkey := l.pkey, ord := o, band := l.bandOf o, dbarm := e.dbarm, ncont := l.contTab.length
    feet := e.feet, starts := e.starts
    windows := (List.range 3).map (fun r => (l.woff.getD r 0, l.wlen.getD r 0))
    sysPcc := l.roots.any (fun c => c.tag && c.has pSy), regs := e.regs i
    toks := (List.range 16).map (fun k => ((e.toks.getD k none).getD (l.toks.getD k 0)))
    fts := l.ftset.getD e.fts }

end Sys2Proof.Machine
end

