-- ==== Sys2Proof/Machine/Frames.lean ====
section
/-! DEFINITION. Tasks as the isle schedulers run them: preparation (R145, R305), starting (R83, R165, R322), retiring (R167,
R271, R323); the release of entries (R319, R322); slips (R323-R325). -/

namespace Sys2Proof.Machine

/-! ### Preparation -/

/-- The places of a core's local memory and accumulator slots. -/
def coreRanges (co : CoreId) : List (Nat × Nat) :=
  [(localKey co 0, localKey co (2 ^ 19)), (slotKey co 0 0 0, slotKey co 0 0 0 + 2 ^ 15)]

/-- A core is prepared (R145): its memory and slots are zero, its tags, full bits, marks and directory empty, all of it
dirty (R374); no error is left in its cells. -/
def Hw.prepare (h : Hw) (co : CoreId) : Hw :=
  let clear := fun (s : List Nat) => (coreRanges co).foldl (fun s (r : Nat × Nat) => setClear (r.1 / 16) (r.2 / 16) s) s
  let h := { h with
    mem := (coreRanges co).foldl (fun m (r : Nat × Nat) => memClear r.1 r.2 m) h.mem
    tags := clear h.tags
    full := clear h.full
    pmark := clear h.pmark
    cellErrs := h.cellErrs.filter (fun g => !(coreRanges co).any (fun r => decide (r.1 ≤ 16 * g) && decide (16 * g < r.2))) }
  h.onCore co (fun k => { k with tbdir := [], dirtyDir := true, allDirty := true })

/-- Each role's image is copied into its window (R305); an image that cannot be read leaves its window as it is. -/
def Hw.fillWindows (h : Hw) (l : Launch) (co : CoreId) : Hw :=
  [0, 1, 2].foldl (fun h r =>
    let m := quayMaster l.q l.pkey
    let (va, n) := (l.imgs.getD r 0, l.wlen.getD r 0)
    let h := h.meetErrs (fun h => h.mayRead m l.rootpa va n)
    match h.readAs m l.rootpa va n with
    | some bs => h.write (localKey co (l.woff.getD r 0)) bs
    | none => h.noteRead m l.rootpa va n) h

/-- The lines of a core count as unchanged from here on. -/
def Hw.clearLines (h : Hw) (co : CoreId) : Hw :=
  let (lo, hi) := dirtyLines co
  { h with dirty := setClear hi (hi + 128) (setClear lo (lo + 2048) h.dirty) }

/-- A core is prepared for a launch (R305). -/
def Hw.prepareFor (h : Hw) (l : Launch) (co : CoreId) : Hw :=
  (((h.prepare co).fillWindows l co).clearLines co).onCore co (fun k => { k with prepFor := some l.lid, used := false })

/-- Every core in service of a launch's isles (R306). -/
def Hw.launchCores (h : Hw) (l : Launch) : List CoreId := l.isles.flatMap h.isleCores

/-- Every core of a launch is prepared (R305, R332). -/
def Hw.prepareAll (h : Hw) (l : Launch) : Hw := (h.launchCores l).foldl (fun h co => h.prepareFor l co) h

/-- The cores of a launch that are not in prepared state are prepared; the others have their windows filled (R145, R305). -/
def Hw.prepareRest (h : Hw) (l : Launch) : Hw :=
  (h.launchCores l).foldl (fun h co =>
    if (h.core co).prepFor == some l.lid && !h.touched co then h.fillWindows l co else h.prepareFor l co) h

/-! ### Starting a task -/

/-- The role of an engine: 0 L, 1 C, 2 S (R305). -/
def EngId.role : EngId → Nat
  | .l => 0
  | .c => 1
  | .s => 2

/-- A capability that covers a code window (R83): its base is a multiple of 16 and its length representable (R75, R76), so it may
reach beyond the window by less than a granule on each side (log entry 121). -/
def codeCap (perm : BitVec 12) (off len : Nat) : CReg := mkCap 5 perm off (off % 16 + len) off

/-- c0 to c15 of an engine at task start (R83). -/
def Task.caps (t : Task) (off len : Nat) : List CReg :=
  (List.range 8).map (fun i => match t.feet[i]? with
    | some f => if f.valid then f.cap else {}
    | none => {})
  ++ [mkCap 1 (pLd ||| pSt ||| pLc ||| pSc) 0 (2 ^ 19) 0, codeCap pLd off len]

/-- g0 to g63 at task start: g1 to g6 as the entry gives them (R165, R312). -/
def Task.gregs (t : Task) : Vector GReg 64 :=
  Vector.ofFn (fun i => if 1 ≤ i.val ∧ i.val ≤ 6 then ⟨t.regs.getD (i.val - 1) 0, false⟩ else {})

/-- An engine at task start (R83, R165); its code is what its window holds then (R154). -/
def Hw.freshEngine (h : Hw) (co : CoreId) (t : Task) (e : EngId) : Eng :=
  let w := t.windows.getD (EngId.role e) (0, 0)
  let caps := t.caps w.1 w.2
  let k := localKey co 0
  let pcc := codeCap (if t.sysPcc then pLd ||| pEx ||| pSy else pLd ||| pEx) w.1 w.2
  let base : Eng := { g := t.gregs, c := Vector.ofFn (fun i => caps.getD i.val {}), pcc := pcc }
  match t.starts.getD (EngId.role e) none with
  | none => { base with st := .done }
  | some start => { base with
      pc := BitVec.ofNat 48 (w.1 + start)
      st := .issuing
      code := h.mem.filterMap (fun c => if k + pcc.base ≤ c.1 && c.1 < k + min pcc.top (2 ^ 19) then some (c.1 - k, c.2) else none) }

/-- The record of a task of a frame changed by a function. -/
def Launch.onRec (l : Launch) (task iter : Nat) (f : TaskRec → TaskRec) : Launch :=
  { l with recs := l.recs.map (fun r => if r.task == task && r.iter == iter then f r else r) }

/-- A task starts on its core (R83, R165, R322). -/
def Hw.startTask (h : Hw) (co : CoreId) (t : Task) (rest : List Task) : Hw :=
  let h := match h.launch? t.lid with
    | some l => if (h.core co).prepFor == some l.lid then h else h.prepareFor l co
    | none => h
  let h := h.onCore co (fun k => { k with
    task := some t
    queue := rest
    used := true
    l := h.freshEngine co t .l
    cE := h.freshEngine co t .c
    s := h.freshEngine co t .s
    cu := { ft := Vector.ofFn (fun i => t.fts.getD i.val 0) }
    xq := Vector.replicate 4 []
    yq := Vector.replicate 4 []
    bq := []
    tokLog := []
    tok := Vector.ofFn (fun i => t.toks.getD i.val 0)
    nextid := Vector.replicate 16 1
    bind := Vector.replicate 16 none
    gone := []
    leaseRuns := 0
    leaseHeld := false
    leaseLeft := 0
    ph := 0 })
  h.onLaunch t.lid (fun l => l.onRec t.task t.iter (fun r => { r with st := .running }))

/-- The code of a calibration task (R231: it executes `tcal` and retires): one section, `tcal g1 !`, `done !`. -/
def calCode : List Host.Cell :=
  memWriteN (leBytes 8 (2 ^ 60 + 2 ^ 44 + 2 * 2 ^ 32) ++ leBytes 12 (2 ^ 95 + 0x18B * 2 ^ 86 + 2 ^ 76)
    ++ leBytes 12 (2 ^ 95 + 0x01C * 2 ^ 86)) 0 []

/-- A calibration task starts (R231): the C engine alone, with a code of its own. -/
def Hw.startCal (h : Hw) (co : CoreId) (t : Task) (rest : List Task) : Hw :=
  let t := { t with starts := [none, some 0, none], windows := [(0, 0), (0, 32), (0, 0)] }
  (h.startTask co t rest).onEng co .c (fun g => { g with code := calCode })

/-- TASK_START: the head of an idle core's queue starts (R322). -/
def execTaskStart (co : CoreId) (s : State) : Out :=
  let k := s.toHw.core co
  match k.queue with
  | [] => .next s
  | t :: rest =>
    if k.task.isSome || k.stopped then .next s
    else if t.calib then .next (s.upd (fun h => h.startCal co t rest))
    else .next (s.attempt (fun h => h.startTask co t rest))

/-! ### Slip log and launch record -/

/-- A slip-log record enters the ring (R324, R405): the write index counts it whether or not it can be written. -/
def Hw.logSlip (h : Hw) (lid late task iter : Nat) (co : CoreId) (kind : Nat) : Hw :=
  match h.launch? lid with
  | none => h
  | some l =>
    let h := h.setLaunch { l with slipIdx := l.slipIdx + 1 }
    if l.slipN = 0 then h
    else
      let bs := leBytes 8 l.frame.toNat ++ leBytes 4 (min late (2 ^ 32 - 1)) ++ leBytes 4 task ++ leBytes 4 iter
        ++ leBytes 2 co.isle ++ leBytes 2 co.core ++ leBytes 2 kind ++ List.replicate 6 0
      (h.writeVa (quayMaster l.q l.pkey) l.rootpa (l.slipLog + 32 * (l.slipIdx.toNat % l.slipN)) bs).2

/-- The launch record is written whole, at a change of STATUS (R348, R405). -/
def Hw.writeRecord (h : Hw) (l : Launch) (status : Nat) : Hw :=
  if l.recva = 0 then h
  else
    let bs := leBytes 2 l.lid ++ leBytes 2 status ++ leBytes 4 l.frame.toNat ++ leBytes 8 l.slips.toNat
      ++ leBytes 8 h.tick.toNat ++ leBytes 8 0
    (h.writeVa (quayMaster l.q l.pkey) l.rootpa l.recva bs).2

/-- The counts of the launch record are brought up to date (R348). -/
def Hw.updateRecord (h : Hw) (l : Launch) : Hw :=
  if l.recva = 0 then h
  else (h.writeVa (quayMaster l.q l.pkey) l.rootpa (l.recva + 4) (leBytes 4 l.frame.toNat ++ leBytes 8 l.slips.toNat)).2

/-! ### Retiring a task -/

/-- The engine of a task that was done last; among those of one cycle the later of L, C, S. -/
def Core.lastDone (k : Core) (t : Task) : EngId :=
  let ran := [EngId.l, .c, .s].filter (fun e => (t.starts.getD (EngId.role e) none).isSome)
  ran.foldl (fun b e => if (k.eng b).doneAt ≤ (k.eng e).doneAt then e else b) (ran.headD .l)

/-- The first queue with entries left, as a trap record names it (R167, R363). -/
def Core.leftOver (k : Core) : Option (Nat × Nat) :=
  match k.xq.toList.findIdx? (fun q => !q.isEmpty), k.yq.toList.findIdx? (fun q => !q.isEmpty), k.bq with
  | some i, _, _ => some (0, i)
  | none, some i, _ => some (1, i)
  | none, none, _ :: _ => some (2, 0)
  | none, none, [] => none

/-- The record of a task that ends with entries left (R167, R362). -/
def Core.leftRecord (k : Core) (co : CoreId) (t : Task) (object index : Nat) : TrapRec :=
  let e := k.lastDone t
  let g := k.eng e
  { code := 0x37, unit := BitVec.ofNat 8 (engUnit e), slot := BitVec.ofNat 3 g.doneSlot, sec := g.rsec
    core := BitVec.ofNat 11 co.core, pc := g.donePc, detail := detField 32 1 object ||| detField 33 1 index }

/-- A copy command that holds its task no longer (R140, R257). -/
def Cmd.settled (c : Cmd) : Bool := c.performed && (c.inbound || c.visible) && c.fault.isNone

/-- Every slot that an endpoint reserved has been published (R271, R273). -/
def Hw.endSettled (h : Hw) (e : Endpoint) : Bool := !e.producer || e.res == (h.ring e.site e.ring).putseq

/-- Everything that a task's retirement waits for beside its engines (R140, R167, R266, R271). -/
def Hw.drained (h : Hw) (co : CoreId) : Bool :=
  let k := h.core co
  k.cmds.all Cmd.settled && k.slots.isEmpty && k.l.amem.isNone && k.cE.amem.isNone && k.s.amem.isNone
    && k.endpoints.all h.endSettled
    && h.streams.all (fun c => c.co != co)

/-- Every engine of a core is done. -/
def Core.allDone (k : Core) : Bool := k.l.st == .done && k.cE.st == .done && k.s.st == .done

/-- The side of a ring that an endpoint holds is closed (R271). -/
def Hw.closeSide (h : Hw) (e : Endpoint) : Hw :=
  h.onRing e.site e.ring (fun d => if e.producer then { d with pcl := true } else { d with ccl := true })

/-- The endpoints of a core's engines close (R271). -/
def Hw.closeEnds (h : Hw) (co : CoreId) : Hw :=
  let h := (h.core co).endpoints.foldl Hw.closeSide h
  h.onCore co (fun k => { k with l := { k.l with eps := [] }, cE := { k.cE with eps := [] }, s := { k.s with eps := [] } })

/-- The array no longer holds or owes a core its lease (R218). -/
def Hw.dropLease (h : Hw) (co : CoreId) : Hw :=
  let a := h.arr co.isle (CoreId.ins co)
  let mine := a.leased && a.holder.toNat == CoreId.pos co
  let h := h.onArr co.isle (CoreId.ins co) (fun a => { a with waiting := a.waiting.filter (fun w => w.1 != CoreId.pos co) })
  if mine then h.endRun co else h

/-- A core holds no task: its engines stand still. -/
def Core.vacate (k : Core) : Core :=
  { k with
    task := none, l := { k.l with st := .noTask }, cE := { k.cE with st := .noTask }, s := { k.s with st := .noTask } }

/-- A task's deadline has passed (R323): a deadline record. -/
def Hw.checkDeadline (h : Hw) (co : CoreId) (t : Task) : Hw :=
  match h.launch? t.lid with
  | none => h
  | some l =>
    match l.ents[t.task]? with
    | none => h
    | some e =>
      let due := l.start.toNat + e.deadline
      if e.deadline != 2 ^ 32 - 1 && decide (due < h.tick.toNat) then
        h.logSlip t.lid (h.tick.toNat - due) t.task t.iter co 1
      else h

/-- A task retires (R167, R271, R323, R328). -/
def Hw.retire (h : Hw) (co : CoreId) (t : Task) : Hw :=
  let h := (h.closeEnds co).dropLease co
  let h := h.onLaunch t.lid (fun l => { l.onRec t.task t.iter (fun r => { r with
    st := .retired, at_ := h.tick, nth := l.retires + 1 }) with retires := l.retires + 1 })
  ((h.checkDeadline co t).settleBars co).onCore co Core.vacate

/-- TASK_RETIREMENT: a task whose engines are done ends with 0x37 when its queues hold entries, and retires once its copies
and landings are complete (R140, R167). -/
def execTaskRetirement (co : CoreId) (s : State) : Out :=
  let k := s.toHw.core co
  match k.task with
  | none => .next s
  | some t =>
    if k.stopped || k.frozen || !k.allDone then .next s
    else match k.leftOver with
      | some (o, i) => .next (s.upd (fun h => h.takeTrap co (k.leftRecord co t o i)))
      | none => if s.toHw.drained co then .next (s.attempt (fun h => h.retire co t)) else .next s

/-! ### The release of an entry -/

/-- An entry holds an A footprint (R253). -/
def Entry.hasRounds (e : Entry) : Bool := e.feet.any (fun f => f.valid && f.mode == 2)

/-- A core has a command of a wave's rounds that is not accepted, or an atomic of the wave whose landing has not arrived (R252,
R257, R294). -/
def Core.owesRound (k : Core) (lid : Nat) (wave : Nat → Bool) : Bool :=
  k.cmds.any (fun c => c.task.lid == lid && wave c.task.wave && c.op != .close
    && ((c.rt != 0 && !c.performed) || (c.op.returns && !c.landed)))

/-- A task that may still open or hold a round. -/
def Hw.mayRound (h : Hw) (l : Launch) (r : TaskRec) : Bool :=
  ((l.ents[r.task]?).map Entry.hasRounds).getD false && (match r.st with
    | .retired => false
    | .running => !((h.core r.co).l.st == .done && (h.core r.co).s.st == .done)
    | _ => true)

/-- Every round of the named waves is complete, and every landing it produces has arrived (R257). -/
def Hw.roundsOver (h : Hw) (l : Launch) (wave : Nat → Bool) : Bool :=
  h.rounds.all (fun q => !(q.lid == l.lid && wave q.wave)) && h.cores.all (fun e => !e.2.owesRound l.lid wave)
    && l.recs.all (fun r => !(wave r.wave && h.mayRound l r))

/-- The tasks of an isle that are queued. -/
def Hw.queuedOn (h : Hw) (isle : Nat) : Nat :=
  (h.cores.filter (fun e => e.1 / 2048 == isle)).foldl (fun n e => n + e.2.queue.length) 0

/-- A task takes its place in a core's queue, in ascending (t, i) (R322). -/
def insertTask (t : Task) : List Task → List Task
  | [] => [t]
  | u :: rest => if t.task < u.task ∨ (t.task = u.task ∧ t.iter < u.iter) then t :: u :: rest else u :: insertTask t rest

/-- Tasks are placed in ascending i while their isle's scheduler has room (R319, R322). -/
def Hw.placeTasks (h : Hw) (lid : Nat) (e : Entry) : List TaskRec → Hw
  | [] => h
  | r :: rest =>
    if 65536 ≤ h.queuedOn r.co.isle then h
    else match h.launch? lid with
      | none => h
      | some l =>
        let t := l.taskOf e r.task r.iter r.co
        let h := h.onCore r.co (fun k => { k with queue := insertTask t k.queue })
        (h.setLaunch (l.onRec r.task r.iter (fun r => { r with st := .queued }))).placeTasks lid e rest

/-- An entry's predecessors have retired, with the rounds of their waves (R257, R294, R319). -/
def Hw.released (h : Hw) (l : Launch) (e : Entry) : Bool :=
  l.recs.all (fun r => !e.preds.contains r.task || r.st == .retired)
    && h.roundsOver l (fun w => e.preds.any (fun p => ((l.ents[p]?).map (·.wave)) == some w))

/-- ENTRY_RELEASE: an entry is released at its tick once its predecessors have retired; its tasks are placed (R319). -/
def execEntryRelease (lid ent : Nat) (s : State) : Out :=
  match s.toHw.launch? lid with
  | none => .next s
  | some l =>
    match l.ents[ent]? with
    | none => .next s
    | some e =>
      if l.st != .frame || l.abort || decide (s.tick.toNat < l.start.toNat + e.release) || !s.toHw.released l e then .next s
      else .next (s.upd (fun h => h.placeTasks lid e (l.recs.filter (fun r => r.task == ent && r.st == .waiting))))

/-! ### Slips -/

/-- A frame slips `n` times (R323). -/
def Launch.slip (l : Launch) (n : Nat) : Launch :=
  { l with slips := l.slips + BitVec.ofNat 64 n, slipEnd := l.slipEnd + BitVec.ofNat 64 (n * l.ticks) }

/-- The scheduled ends that lie behind a tick and have not been counted (R323). -/
def Launch.slipsDue (l : Launch) (tick : BitVec 64) : Nat :=
  if l.slipEnd.ult tick then ((tick - l.slipEnd).toNat - 1) / max l.ticks 1 + 1 else 0

/-- FRAME_SCHEDULED_END: a frame still incomplete slips, and again at each further TICKS (R323). -/
def execFrameScheduledEnd (lid : Nat) (s : State) : Out :=
  match s.toHw.launch? lid with
  | none => .next s
  | some l =>
    if l.st != .frame || s.tick.ult l.slipEnd then .next s
    else .next (s.upd (fun h => h.setLaunch (l.slip 1)))

/-- The oldest task of a frame that has not retired: the first in (t, i). -/
def Launch.oldest (l : Launch) : Option TaskRec := l.recs.find? (fun r => r.st != .retired)

/-- The slip counter has reached a non-zero SLIPLIM (R325). -/
def Launch.slipOut (l : Launch) : Bool := l.slipLim != 0 && decide (l.slipLim ≤ l.slips.toNat)

/-- A launch ends at SLIPLIM (R325): a KIND 2 record names the oldest task that has not retired, and a fault record follows. -/
def Hw.endSlipping (h : Hw) (l : Launch) : Hw :=
  let r := l.oldest.getD { task := 0, iter := 0, co := ⟨0, 0⟩, wave := 0, dbarm := 0 }
  (h.logSlip l.lid (h.tick.toNat - l.due.toNat) r.task r.iter r.co 2).failLaunch l.lid {
    kind := 3, isle := r.co.isle, core := r.co.core, task := r.task, iter := r.iter, tick := h.tick }

/-- SLIP_LIMIT: the slip counter has reached a non-zero SLIPLIM, and the launch is to end (R325). -/
def execSlipLimit (lid : Nat) (s : State) : Out :=
  match s.toHw.launch? lid with
  | none => .next s
  | some l =>
    if l.st != .frame || l.abort || !l.slipOut then .next s else .next (s.attempt (fun h => h.endSlipping l))

end Sys2Proof.Machine
end

