-- ==== Sys2Proof/Machine/Images.lean ====
section
/-! DEFINITION. The context image: writing it (R373-R378) and restoring cores and rings from it (R379). -/

namespace Sys2Proof.Machine

/-! ### Layout -/

/-- The bytes of a core region (R377). -/
def regionSize : Nat := 0x8E000

/-- The offset of a core's region (R375). -/
def regionOff (o c : Nat) : Nat := 0x30000 + (1200 * o + c) * regionSize

/-- The bytes of a ring record: its head and its slots (R375). -/
def Ring.recordSize (r : Ring) : Nat := 64 + r.nslot.toNat * r.slotSize

/-- A launch's rings, by square and ring index (R373). -/
def Hw.ringsOf (h : Hw) (lid : Nat) : List (Nat × Ring) := h.rings.filter (fun e => e.2.v && e.2.owner.toNat == lid)

/-- RINGOFF (R375). -/
def ringOff (maxisl : Nat) : Nat := 0x30000 + 1200 * maxisl * regionSize

/-- A TBDIR entry's 32 bits (R157). -/
def tbdirWord (k : Core) (i : Nat) : Nat :=
  match tabFind k.tbdir i with
  | some (n, g) => 2 ^ 31 + n.toNat * 2 ^ 15 + g.toNat
  | none => 0

/-- 16 granule bits of a line as a number. -/
def lineBits (s : List Nat) (k : Nat) : Nat := packBits (fun i => setHas s (k / 16 + i)) 16 0

/-- A line's metadata word (R377). -/
def Hw.lineWord (h : Hw) (k : Nat) : Nat :=
  lineBits h.full k + 2 ^ 16 * lineBits h.tags k + 2 ^ 32 * lineBits h.pmark k

/-- A piece of an image: offset and bytes. -/
structure ImgPart where
  off : Nat
  bytes : List Byte

/-! ### Writing an image -/

/-- The parts of a core's region: every line, or the dirty ones (R374, R377, R378). -/
def Hw.coreParts (h : Hw) (o : Nat) (co : CoreId) (full : Bool) : List ImgPart :=
  let k := h.core co
  let at_ := regionOff o co.core
  let due := fun (key : Nat) => full || k.allDirty || setHas h.dirty (key / 256)
  let lines := (List.range 2048).flatMap (fun i =>
    let key := localKey co (256 * i)
    if due key then [⟨at_ + 256 * i, h.bytes key 256⟩, ⟨at_ + 0x80000 + 8 * i, leBytes 8 (h.lineWord key)⟩] else [])
  let slots := (List.range 128).flatMap (fun j =>
    let key := slotKey co 0 0 0 + 256 * j
    if due key then [⟨at_ + 0x84000 + 256 * j, h.bytes key 256⟩] else [])
  let dir := if full || k.allDirty || k.dirtyDir then
      [⟨at_ + 0x8C000, (List.range 2048).flatMap (fun i => leBytes 4 (tbdirWord k i))⟩]
    else []
  lines ++ slots ++ dir

/-- An isle record (R377). -/
def Hw.isleRecord (h : Hw) (isle : Nat) : List Byte :=
  let a := fun (i : Nat) => h.arr isle i
  leBytes 2 isle
    ++ (List.range 150).map (fun i => BitVec.ofNat 8 ((a (2 * i)).cores.toNat + 16 * (a (2 * i + 1)).cores.toNat))
    ++ (List.range 300).map (fun i => BitVec.ofNat 8 ((a i).segs.toNat + (if (a i).calNow = 4 then 0 else 16)))
    ++ List.replicate 60 0

/-- A ring record (R375). -/
def Hw.ringRecord (h : Hw) (key : Nat) (r : Ring) : List Byte :=
  let site := key / 1024
  leBytes 2 site ++ leBytes 2 (key % 1024) ++ List.replicate 12 0 ++ leBytes 16 r.bits ++ List.replicate 32 0
    ++ h.bytes (streamKey site (256 * r.base.toNat)) (r.nslot.toNat * r.slotSize)

/-- Pieces one after another from an offset on. -/
def partsFrom (off : Nat) : List (List Byte) → List ImgPart
  | [] => []
  | b :: t => ⟨off, b⟩ :: partsFrom (off + b.length) t

/-- An image header (R376). -/
def Hw.imageHeader (h : Hw) (l : Launch) (valid full : Bool) (nring ncont contOff bytes : Nat) : List Byte :=
  leBytes 4 1 ++ leBytes 1 valid.toNat ++ leBytes 1 full.toNat ++ leBytes 2 l.lid ++ leBytes 8 l.seed.toNat
    ++ leBytes 8 l.ttva ++ leBytes 8 l.frame.toNat ++ leBytes 2 l.fidx ++ leBytes 1 (l.mode.toNat % 8) ++ leBytes 1 0
    ++ leBytes 2 l.isles.length ++ leBytes 2 l.minisl ++ leBytes 2 l.maxisl ++ leBytes 6 0 ++ leBytes 8 l.slips.toNat
    ++ leBytes 4 l.slipIdx.toNat ++ leBytes 4 nring ++ leBytes 8 (ringOff l.maxisl) ++ leBytes 4 ncont ++ leBytes 4 0
    ++ leBytes 8 contOff ++ leBytes 8 bytes ++ leBytes 8 h.tick.toNat ++ List.replicate 152 0

/-- Bytes of an image are written for a packet: within the grant, as R357 says. -/
def Hw.writeGrant (h : Hw) (l : Launch) (va : Nat) (bs : List Byte) : Bool × Hw :=
  if l.grants va bs.length pSt then h.writeVa (quayMaster l.q l.pkey) l.rootpa va bs else (false, h)

/-- Parts are written in order; the first that cannot be written stops the rest (R378). -/
def Hw.writeParts (h : Hw) (l : Launch) (img : Nat) : List ImgPart → Bool × Hw
  | [] => (true, h)
  | p :: t =>
    match h.writeGrant l (img + p.off) p.bytes with
    | (true, h) => h.writeParts l img t
    | (false, h) => (false, h)

/-- A core's dirty bits are cleared once its lines are in an image (R374); whether it is in prepared state stays known. -/
def Hw.clearDirty (h : Hw) (co : CoreId) : Hw :=
  (h.clearLines co).onCore co (fun k => { k with used := h.touched co, dirtyDir := false, allDirty := false })

/-- THE IMAGE OF A LAUNCH IS WRITTEN (R373-R378); false when its write stops early, and VALID stays 0. -/
def Hw.writeImage (h : Hw) (l : Launch) (img : Nat) : Bool × Hw :=
  let h := (h.launchCores l).foldl (fun h co => if (h.core co).prepFor == some l.lid then h else h.prepareFor l co) h
  let full := l.lastimg != some img
  let ords := (List.range l.isles.length).zip l.isles
  let cores := ords.flatMap (fun x => (h.isleCores x.2).map (fun co => (x.1, co)))
  let rings := h.ringsOf l.lid
  let contOff := ringOff l.maxisl + rings.foldl (fun n e => n + e.2.recordSize) 0
  let parts := ords.map (fun x => (⟨0x100 + 512 * x.1, h.isleRecord x.2⟩ : ImgPart))
    ++ cores.flatMap (fun x => h.coreParts x.1 x.2 full)
    ++ partsFrom (ringOff l.maxisl) (rings.map (fun e => h.ringRecord e.1 e.2))
    ++ partsFrom contOff (l.conts.map ContRec.bytes)
  let total := 256 + parts.foldl (fun n p => n + p.bytes.length) 0
  let head := fun (h : Hw) (v : Bool) (bytes : Nat) =>
    h.writeGrant l img (h.imageHeader l v full rings.length l.conts.length contOff bytes)
  match head h false 0 with
  | (false, h) => (false, h)
  | (true, h) =>
    match h.writeParts l img parts with
    | (false, h) => (false, h)
    | (true, h) =>
      let h := cores.foldl (fun h x => h.clearDirty x.2) h
      head h true total

/-! ### Restoring -/

/-- A little-endian field of bytes. -/
def fieldAt (bs : List Byte) (off n : Nat) : Nat := leNat ((bs.drop off).take n)

/-- A saved tag may come back (R379): its capability lies in a root, in the core's arena or in a code window. -/
def Launch.mayTag (l : Launch) (bits : BitVec 128) : Bool :=
  let c : CReg := { bits := bits, tag := true }
  let arena := mkCap 1 (pLd ||| pSt ||| pLc ||| pSc) 0 (2 ^ 19) 0
  let windows := [0, 1, 2].map (fun r => codeCap pLd (l.woff.getD r 0) (l.wlen.getD r 0))
  (arena :: windows ++ l.roots).any (fun r => c.le r)

/-- Granule bits of a line are set from a metadata word. -/
def setLine (word sh k : Nat) (s : List Nat) : List Nat :=
  (List.range 16).foldl (fun s i => setPut (word / 2 ^ (sh + i) % 2 == 1) (k / 16 + i) s) s

/-- A core takes the contents of its region (R377, R379). -/
def Hw.restoreCore (h : Hw) (l : Launch) (co : CoreId) (bs : List Byte) : Hw :=
  let h := h.write (localKey co 0) (bs.take 0x80000)
  let h := h.write (slotKey co 0 0 0) ((bs.drop 0x84000).take 0x8000)
  let h := (List.range 2048).foldl (fun h i =>
    let w := fieldAt bs (0x80000 + 8 * i) 8
    let k := localKey co (256 * i)
    let t := (List.range 16).foldl (fun t j =>
      if w / 2 ^ (16 + j) % 2 = 1 ∧ l.mayTag (BitVec.ofNat 128 (fieldAt bs (256 * i + 16 * j) 16)) then t + 2 ^ j else t) 0
    { h with full := setLine w 0 k h.full, tags := setLine t 0 k h.tags, pmark := setLine w 32 k h.pmark }) h
  let dir := (List.range 2048).filterMap (fun i =>
    let w := fieldAt bs (0x8C000 + 4 * i) 4
    if w / 2 ^ 31 = 1 then some (i, (BitVec.ofNat 12 (w / 2 ^ 15), BitVec.ofNat 15 w)) else none)
  (h.onCore co (fun k => { k with tbdir := dir, prepFor := some l.lid, used := true })).clearDirty co

/-- A ring of a record returns to its square and index, with its slots (R379). -/
def Hw.restoreRing (h : Hw) (bs : List Byte) : Hw :=
  let site := fieldAt bs 0 2
  let v := fieldAt bs 16 16
  let r : Ring := {
    putseq := BitVec.ofNat 32 (v / 2 ^ 96), getseq := BitVec.ofNat 32 (v / 2 ^ 64), nslot := BitVec.ofNat 16 (v / 2 ^ 48)
    slog := BitVec.ofNat 4 (v / 2 ^ 44), base := BitVec.ofNat 15 (v / 2 ^ 25), owner := BitVec.ofNat 16 (v / 2 ^ 4)
    ccl := v / 8 % 2 == 1, pcl := v / 4 % 2 == 1, v := v % 2 == 1 }
  (h.onRing site (fieldAt bs 2 2) (fun _ => r)).write (streamKey site (256 * r.base.toNat)) (bs.drop 64)

/-- The ring records of an image, one after another, as a reading gives bytes at an address; none when one cannot be read. -/
def readRings (read : Nat → Nat → Option (List Byte)) : Nat → Nat → Option (List (List Byte))
  | 0, _ => some []
  | n + 1, va =>
    match read va 64 with
    | none => none
    | some head =>
      let size := 64 + fieldAt head 22 2 * 2 ^ (fieldAt head 21 1 / 16 + 8)
      match read va size, readRings read n (va + size) with
      | some bs, some t => some (bs :: t)
      | _, _ => none

/-- The continuation record that 64 bytes hold (R261). -/
def ContRec.ofBytes (lid : Nat) (bs : List Byte) : ContRec :=
  { lid := lid, old := BitVec.ofNat 64 (fieldAt bs 0 8), addr := fieldAt bs 8 8, cmp := BitVec.ofNat 64 (fieldAt bs 16 8)
    new := BitVec.ofNat 64 (fieldAt bs 24 8), ptask := fieldAt bs 32 4, piter := fieldAt bs 36 4
    name := fieldAt bs 40 2 % 4096, rtag := fieldAt bs 42 2 % 4096, wave := fieldAt bs 44 1, round := fieldAt bs 45 1
    eng := fieldAt bs 46 1 == 1, seq := fieldAt bs 48 4 }

end Sys2Proof.Machine
end

