-- ==== Sys2Proof/Machine/Queues.lean ====
section
/-! DEFINITION. A command queue as its packets issue: its read index (R339), the issue of the packet at its head (R345). -/

namespace Sys2Proof.Machine

/-! ### The head of the look-ahead -/

/-- TYPE of a packet (R342). -/
def pktType (b : List Byte) : Nat := fieldAt b 0 1

/-- The head of the look-ahead begins to wait, if it is a WAITVALUE that newly stands at the issue point (R351). -/
def Hw.markHead (h : Hw) (q : Nat) : Hw :=
  h.onQueue q (fun x => match x.look with
    | p :: _ => if pktType p.bytes = 7 && x.waitFrom.isNone then { x with waitFrom := some h.tick } else x
    | [] => x)

/-- RIDXC: the copy of the read index in the queue's record (R334, R339), a write of the quay's (R97, log entry 120). -/
def Hw.copyRidx (h : Hw) (q : Nat) : Hw :=
  h.writeAs (quayMaster q 0) (h.recordPa q + 56) (leBytes 8 (h.queue q).ridx.toNat)

/-- A queue's position passes the packet at its head (R339). -/
def Hw.passHead (h : Hw) (q : Nat) (p : Packet) : Hw :=
  (h.onQueue q (fun x => { x with ridx := p.ridx, chain := p.chain })).copyRidx q

/-- The packet at the head issues (R339): RIDX passes it; it runs on until it completes, when `runs`. -/
def Hw.issueHead (h : Hw) (q : Nat) (p : Packet) (runs : Bool) : Hw :=
  let h := h.passHead q p
  ((h.onQueue q (fun x => { x with
    look := x.look.tail, running := if runs then x.running ++ [p.place] else x.running, lastIssue := h.tick
    idleSince := h.tick, waitFrom := none, starting := none })).markHead q).settleUnmap q

/-- The first frame of a launch starts, or the launch ends before it: its packet issues (R345); a halted queue issues nothing
(R357). -/
def Hw.issueStart (h : Hw) (l : Launch) : Hw :=
  let x := h.queue l.q
  match x.look.head? with
  | some p => if x.starting = some l.lid && !(h.dbSlot l.q).halt then h.issueHead l.q p true else h
  | none => h

end Sys2Proof.Machine
end

