-- ==== Sys2Proof/Machine/Boundary.lean ====
section
/-! DEFINITION. The boundary between frames (R316): continuations (R264), page migration (R112, R113), service changes (R27),
elastic isles (R331, R332), pre-emption (R373), completion; the start of a frame (R316-R321); the ending of a launch (R370). -/

namespace Sys2Proof.Machine

/-! ### Isles of a launch -/

/-- An isle belongs to a sublattice: 0 any, 1 even, 2 odd (R14, R346). -/
def inSublattice (sub isle : Nat) : Bool :=
  match sub with
  | 1 => isle % 26 % 2 == 0
  | 2 => isle % 26 % 2 == 1
  | _ => true

/-- The free isles that qualify, by isle index (R346): in service and held by no launch; a gated one wakes before its first
frame (R403). -/
def Hw.freeIsles (h : Hw) (sub : Nat) : List Nat :=
  (List.range 676).filter (fun i => isleOk i && inSublattice sub i && (h.isle i).inService && !h.isleHeld i)

/-- An isle is taken: its controller loads the root table into a free context (R94, R334). The context is answered. -/
def Hw.takeIsle (h : Hw) (root isle : Nat) : BitVec 4 × Hw :=
  let x := h.isle isle
  let n := ((List.range 16).find? (fun c => !(tabGet ({} : Ctx) x.ctx c).en)).getD 0
  let c := BitVec.ofNat 4 n
  (c, h.setIsle isle { x with ctx := tabPut { root := root, en := true } n x.ctx, tlb := x.tlb.filter (fun t => t.ctx != c) })

/-- Isles are taken one after another. -/
def Hw.takeIsles (h : Hw) (root : Nat) : List Nat → List (BitVec 4) × Hw
  | [] => ([], h)
  | i :: t =>
    let (c, h) := h.takeIsle root i
    let (cs, h) := h.takeIsles root t
    (c :: cs, h)

/-! ### The end of a launch -/

/-- A packet of a queue has completed (R345). -/
def Hw.completePlace (h : Hw) (q place : Nat) : Hw :=
  h.onQueue q (fun x => { x with running := x.running.filter (fun p => p != place) })

/-- A REFINE learns how its run ended (R354, R355). -/
def Refine.runEnd (r : Refine) (l : Launch) (status : Nat) : Refine :=
  { r with going := false, ended := some (BitVec.ofNat 8 status), nrec := l.nrec, lastimg := l.lastimg }

/-- A launch is a run of a REFINE. -/
def Refine.owns (r : Refine) (l : Launch) : Bool := r.q == l.q && r.place == l.place

/-- THE LAUNCH ENDS (R345, R348, R370): its record takes its STATUS, its isles are freed, the packets that wait for its end
complete, its own among them, or the REFINE that it is a run of learns of it. -/
def Hw.endLaunch (h : Hw) (l : Launch) (status : Nat) : Hw :=
  let run := h.refines.any (fun r => r.owns l)
  let h := (h.issueStart l).writeRecord l status
  let h := { h with
    launches := tabDel l.lid h.launches
    lidRegs := tabPut ⟨l.slips, l.slipIdx, l.lastimg.getD 0⟩ l.lid h.lidRegs
    closed := h.closed.filter (fun n => n.lid != l.lid) }
  let h := (l.isles.zip l.ctxs).foldl (fun h x => h.freeIsle x.1 x.2 run) h
  let h := (l.isles.foldl (fun h i => h.settlePending i) h).settleRoutes
  let h := l.awaited.foldl (fun h p => h.completePlace p.1 p.2) h
  if run then { h with refines := h.refines.map (fun r => if r.owns l then r.runEnd l status else r) }
  else h.completePlace l.q l.place

/-! ### Continuations -/

/-- Records in the order of R264. -/
def contBefore (a b : ContRec) : Bool :=
  let key := fun (c : ContRec) => [c.wave, c.round, c.rtag, c.ptask, c.piter, if c.eng then 1 else 0, c.seq]
  keyLess (key a) (key b)

/-- A record takes its place. -/
def insertCont (c : ContRec) : List ContRec → List ContRec
  | [] => [c]
  | d :: t => if contBefore c d then c :: d :: t else d :: insertCont c t

/-- The records of a launch that a slice's queue and ring hold (R262). -/
def Hw.contsOf (h : Hw) (lid : Nat) (x : Slice) : List ContRec :=
  x.contq.filter (fun c => c.lid == lid)
    ++ (x.ring.zipIdx.filter (fun r => r.1 == some lid)).map (fun r =>
        ContRec.ofBytes lid (h.bytes (x.spbase.toNat * 64 + 64 * r.2) 64))

/-- The places of a ring up to the last that holds a record. -/
def trimRing (r : List (Option Nat)) : List (Option Nat) := (r.reverse.dropWhile (fun x => x.isNone)).reverse

/-- A slice without the records of a launch; LOST is cleared when the boundary empties the queue (R262). -/
def Slice.dropConts (x : Slice) (lid : Nat) (clear : Bool) : Slice :=
  let rest := x.contq.filter (fun c => c.lid != lid)
  { x with
    contq := rest
    ring := trimRing (x.ring.map (fun r => if r == some lid then none else r))
    lost := if clear && rest.isEmpty && !x.contq.isEmpty then 0 else x.lost }

/-- CONTINUATION_COLLECT (R264, steps 1 and 2). -/
def Hw.collect (h : Hw) (lid : Nat) : Hw :=
  let recs := (h.slices.flatMap (fun e => h.contsOf lid e.2)).foldl (fun l c => insertCont c l) []
  let h := { h with slices := h.slices.map (fun (e : Nat × Slice) => (e.1, e.2.dropConts lid true)) }
  h.onLaunch lid (fun l => { l with conts := recs })

/-! ### Migration -/

/-- A leaf of a context's tables: virtual address, level, the place of its entry, the entry. -/
structure MapLeaf where
  va : Nat
  level : Nat
  at_ : Nat
  entry : BitVec 64

/-- The entries of a table of a level (R90). -/
def tableEntries (level : Nat) : Nat := if level = 3 then 32 else 512

/-- The valid entries of a table that a master reads, by place; an entry that it may not read is none (R97, R105). -/
def Hw.entriesOf (h : Hw) (m : Master) (level table : Nat) : List (Nat × BitVec 64) :=
  (List.range (tableEntries level)).filterMap (fun i =>
    let pa := table + 8 * i
    let e := BitVec.ofNat 64 (h.num pa 8)
    if (h.barAt m opRead pa).isSome || !e.getLsbD 0 || entryBad e level then none else some (i, e))

/-- The leaves below a table, as a master reads them (R90-R92). -/
def Hw.leavesFrom (h : Hw) (m : Master) : Nat → Nat → Nat → Nat → List MapLeaf
  | 0, _, _, _ => []
  | f + 1, level, table, va =>
    let span := match level with
      | 0 => 2 ^ 39
      | 1 => 2 ^ 30
      | 2 => 2 ^ 21
      | _ => 2 ^ 16
    (h.entriesOf m level table).flatMap (fun (i, e) =>
      if e.getLsbD 1 then [{ va := va + i * span, level := level, at_ := table + 8 * i, entry := e }]
      else h.leavesFrom m f (level + 1) (entryPa e) (va + i * span))

/-- The lines of a table and of the tables below it, as a master reads them (R90). -/
def Hw.tableLines (h : Hw) (m : Master) : Nat → Nat → Nat → List Nat
  | 0, _, _ => []
  | f + 1, level, table =>
    (List.range (tableEntries level / 8)).map (fun i => table + 64 * i)
      ++ (h.entriesOf m level table).flatMap (fun x => if x.2.getLsbD 1 then [] else h.tableLines m f (level + 1) (entryPa x.2))

/-- A master reads all tables of a root (R15, R98, R105): each line by a request of its own. -/
def Hw.readTables (h : Hw) (m : Master) (root : Nat) : Hw :=
  (h.tableLines m 4 0 root).foldl (fun h pa => h.reading m [pa]) h

/-- The leaves of a root table, as a master reads them. -/
def Hw.leavesOf (h : Hw) (m : Master) (root : Nat) : List MapLeaf := h.leavesFrom m 4 0 root 0

/-- The controller of a launch's lowest-index isle, as a master (R97, R112). -/
def Launch.controller (l : Launch) : Master :=
  { src := l.isles.foldl min (l.isles.headD 0), pkey := l.pkey }

/-- The 2 MiB blocks that a leaf maps a part of, by number. -/
def MapLeaf.blocks (m : MapLeaf) : List Nat :=
  let b := entryPa m.entry / 2 ^ 21
  if m.level = 1 then (List.range 512).map (· + b) else [b]

/-- The squares next to an isle, by causeway port. -/
def squaresBy (isle : Nat) : List Nat := [0, 1, 2, 3].filterMap (portSite isle)

/-- The free migration block for a dominating isle (R112), as a physical address. -/
def Launch.migTarget (l : Launch) (isle : Nat) : Option Nat :=
  (squaresBy isle).findSome? (fun sq => l.migFree.find? (fun b => paSite b == sq))

/-- The conditions of R112 on a block of a launch's context. -/
def Hw.mayMigrate (h : Hw) (mine others : List MapLeaf) (block : Nat) : Bool :=
  let p := tabGet ({} : PageCnt) h.pagecnt block
  let on := mine.filter (fun m => m.blocks.contains block)
  decide (h.cfg.migmin ≤ p.total.toNat) && decide (h.cfg.migratio * p.total.toNat ≤ p.cnt.toNat * 256)
    && !(squaresBy p.dom).contains (paSite (block * 2 ^ 21))
    && (on.all (fun m => m.level == 3) || (on.length == 1 && on.all (fun m => m.level == 2)))
    && others.all (fun m => !m.blocks.contains block)

/-- A range of lines moves with its bytes and metadata, each line checked on the way (R104, R105, R113). -/
def Hw.copyLines (h : Hw) (old new n : Nat) : Hw :=
  let h := h.errs.foldl (fun g e =>
    if old ≤ 64 * e.1 ∧ 64 * e.1 < old + n then (g.checkLine (64 * e.1) .clean).2 else g) h
  let cells := h.mem.filter (fun c => old ≤ c.1 && c.1 < old + n)
  let metas := h.lineMeta.filter (fun e => old ≤ 64 * e.1 && 64 * e.1 < old + n)
  let kept := h.lineMeta.filter (fun e => !(new ≤ 64 * e.1 && 64 * e.1 < new + n))
  { h with
    errs := h.errs.filter (fun e => !(new ≤ 64 * e.1 && 64 * e.1 < new + n))
    mem := cells.foldl (fun m c => memWrite c.2 (c.1 - old + new) m) (memClear new (new + n) h.mem)
    lineMeta := metas.foldl (fun t e => tabPut e.2 ((64 * e.1 - old + new) / 64) t) kept }

/-- The first request of a master over a range that has no route, or that a table refuses (R15, R97). -/
def Hw.rangeBar (h : Hw) (m : Master) (op a n : Nat) : Option Nat :=
  ((List.range (n / 256)).map (fun i => a + 256 * i)).find? (fun pa =>
    h.barAt m op pa == some .route || h.barAt m op pa == some .denied)

/-- The first request of a migration that is barred (R15, R97, R113): of the lines copied, or of the leaf entries rewritten. -/
def Hw.migrateBar (h : Hw) (m : Master) (leaves : List MapLeaf) (old new : Nat) : Option (Nat × Nat) :=
  match h.rangeBar m opRead old (2 ^ 21), h.rangeBar m opWrite new (2 ^ 21) with
  | some pa, _ => some (opRead, pa)
  | none, some pa => some (opWrite, pa)
  | none, none => (leaves.find? (fun x => (h.barAt m opWrite x.at_).isSome)).map (fun x => (opWrite, x.at_))

/-- A leaf's entry names a new place. -/
def Hw.moveLeaf (h : Hw) (m : MapLeaf) (old new : Nat) : Hw :=
  h.writeLine m.at_ (leBytes 8 (m.entry.toNat - old + new)) {}

/-- The steps of a migration (R113): the block is copied, its leaf entries are rewritten, translations are withdrawn, monitors released,
and the old block is free. -/
def Hw.moveBlock (h : Hw) (l : Launch) (leaves : List MapLeaf) (old new : Nat) : Hw :=
  let h := h.copyLines old new (2 ^ 21)
  let h := leaves.foldl (fun h m => h.moveLeaf m old new) h
  let h := (l.isles.zip l.ctxs).foldl (fun h x => h.onIsle x.1 (fun y => { y with
    tlb := y.tlb.filter (fun t => !(t.ctx == x.2 && decide (old ≤ t.pa) && decide (t.pa < old + 2 ^ 21))) })) h
  let h := h.releaseMonitors (paSite old) 1 (fun m => decide (old ≤ 64 * m.line) && decide (64 * m.line < old + 2 ^ 21))
  let h := { h with pagecnt := tabDel (new / 2 ^ 21) h.pagecnt }
  h.onLaunch l.lid (fun l => { l with migFree := l.migFree.filter (fun b => b != new) ++ [old] })

/-- A migration with the first barred request, where it has one. -/
def Hw.migrateUnless (h : Hw) (l : Launch) (leaves : List MapLeaf) (old new : Nat) : Option (Nat × Nat) → Hw
  | some (op, pa) => h.meetBar l.controller op [pa]
  | none => h.moveBlock l leaves old new

/-- A block migrates (R113); one whose migration a table refuses stays (log entry 119). -/
def Hw.migrate (h : Hw) (l : Launch) (leaves : List MapLeaf) (old new : Nat) : Hw :=
  h.migrateUnless l leaves old new (h.migrateBar l.controller leaves old new)

/-- One block of PAGE_MIGRATION: it migrates where R112 lets it and a domain has room. -/
def Hw.migrateOne (h : Hw) (lid : Nat) (mine others : List MapLeaf) (b : Nat) : Hw :=
  match h.launch? lid with
  | none => h
  | some l =>
    if !h.mayMigrate mine others b then h
    else match l.migTarget (tabGet ({} : PageCnt) h.pagecnt b).dom with
      | some new => h.migrate l (mine.filter (fun m => m.blocks.contains b)) (b * 2 ^ 21) new
      | none => h

/-- PAGE_MIGRATION: the blocks of a launch's context, by virtual address; their counters are then zero (R112, R113). The
controller of the launch's lowest isle reads the tables of every context; while it cannot read one of their lines, nothing
migrates (log entry 119). -/
def Hw.migratePages (h : Hw) (lid : Nat) : Hw :=
  match h.launch? lid with
  | none => h
  | some l0 =>
    let m := l0.controller
    let h := h.launches.foldl (fun h e => h.readTables m e.2.rootpa) h
    let whole := h.launches.all (fun e => (h.tableLines m 4 0 e.2.rootpa).all (fun pa => (h.barAt m opRead pa).isNone))
    let mine := h.leavesOf m l0.rootpa
    let others := (h.launches.filter (fun e => e.1 != lid)).flatMap (fun e => h.leavesOf m e.2.rootpa)
    let blocks := (mine.flatMap MapLeaf.blocks).dedup
    let h' := (if whole then blocks else []).foldl (fun h' b => h'.migrateOne lid mine others b) h
    { h' with pagecnt := h'.pagecnt.filter (fun e => !blocks.contains e.1) }

/-! ### Isle changes -/

/-- The isles of a launch with a context each, in order of ordinal. -/
abbrev IsleList := List (Nat × BitVec 4)

/-- A launch with one more isle in its list. -/
def Launch.withIsle (l : Launch) (j : Nat) : Launch := { l with isles := j :: l.isles }

/-- The isle that stands at one ordinal after the replacements (R331): itself while in service or elastic, else the lowest free
isle of the launch's share that no other ordinal holds; none when no isle is free. -/
def Hw.replaceOne (h : Hw) (l : Launch) (x : Nat × BitVec 4) (t : IsleList) (o : Nat) :
    Option ((Nat × BitVec 4) × Launch × Hw) :=
  if (h.isle x.1).inService || decide (l.minisl ≤ o) then some (x, l, h)
  else ((h.freeIsles l.sub).find? (fun j => !l.isles.contains j && !t.any (fun y => y.1 == j))).map (fun j =>
    let r := (h.freeIsle x.1 x.2).takeIsle l.rootpa j
    ((j, r.1), l.withIsle j, r.2.setLaunch (l.withIsle j)))

/-- Base isles that left service are replaced (R331); none when no free isle is left. -/
def Hw.replaceBase (h : Hw) (l : Launch) : IsleList → Nat → Option (IsleList × Hw)
  | [], _ => some ([], h)
  | x :: t, o =>
    match h.replaceOne l x t o with
    | none => none
    | some (y, l, h) => (Hw.replaceBase h l t (o + 1)).map (fun r => (y :: r.1, r.2))

/-- Elastic ordinals in ascending isle index (R305). -/
def insertIsle (x : Nat × BitVec 4) : IsleList → IsleList
  | [] => [x]
  | y :: t => if x.1 < y.1 then x :: y :: t else y :: insertIsle x t

/-- The elastic isles after the harbour's act at the boundary before an elastic frame (R331): harvested isles leave, then isles
are added, lowest index first, or the highest ordinals are withdrawn. -/
def Hw.elasticChange (h : Hw) (l : Launch) (xs : IsleList) (el : Elastic) : IsleList × Hw :=
  let base := xs.take l.minisl
  let (out, more) := (xs.drop l.minisl).partition (fun x => !(h.isle x.1).inService)
  let h := out.foldl (fun h x => h.freeIsle x.1 x.2) h
  match el with
  | .keep => (base ++ more, h)
  | .grow n =>
    let new := ((h.freeIsles l.sub).filter (fun i => !xs.any (fun x => x.1 == i))).take
      (min n (l.maxisl - base.length - more.length))
    let (cs, h) := h.takeIsles l.rootpa new
    (base ++ (new.zip cs).foldl (fun m x => insertIsle x m) more, h)
  | .shrink n =>
    let keep := more.take (more.length - n)
    (base ++ keep, (more.drop (more.length - n)).foldl (fun h x => h.freeIsle x.1 x.2) h)

/-- The frame record that follows is elastic (R308, R331). -/
def Hw.nextElastic (h : Hw) (l : Launch) : Bool × Hw :=
  if l.next = 0xFFFF then (false, h)
  else
    let ask := fun (h : Hw) => (do
      let frames ← h.ttNum l 8 8
      h.ttNum l (frames + 16 * l.next + 8) 2 : Tt Nat)
    let h := h.meetErrs (fun h => (ask h).isOk)
    match ask h with
    | .ok n => (n / 4096 % 2 == 1, h)
    | .error e => (false, h.ttFailed l e)

/-- Step 3 of a boundary (R16, R27, R231, R316): pending changes of the launch's isles and of the route tables. The launch keeps
what its core lists were. -/
def Hw.serveChanges (h : Hw) (lid : Nat) : Hw :=
  match h.launch? lid with
  | none => h
  | some l =>
    (l.isles.foldl (fun h i => h.applyPending i) (h.setLaunch { l with coresWere := h.launchCores l })).settleRoutes

/-- Step 4 of a boundary (R316, R331): replacements and elastic changes, and preparation when the isle list or a core list has
changed (R332). -/
def Hw.changeIsles (h : Hw) (lid : Nat) (el : Elastic) : Hw :=
  match h.launch? lid with
  | none => h
  | some l =>
    let xs := l.isles.zip l.ctxs
    match h.replaceBase l xs 0 with
    | none => h.failLaunch lid {
        kind := 5, isle := ((l.isles.take l.minisl).find? (fun i => !(h.isle i).inService)).getD 0, tick := h.tick }
    | some (xs, h) =>
      let were := l.isles
      let (elastic, h) := h.nextElastic l
      let (xs, h) := if elastic then h.elasticChange l xs el else (xs, h)
      let l := { (h.launch? lid).getD l with isles := xs.map Prod.fst, ctxs := xs.map Prod.snd }
      let h := h.setLaunch l
      if l.isles = were ∧ h.launchCores l = l.coresWere then h else h.prepareAll l

/-! ### The completion of a frame -/

/-- A slipped frame has completed: a KIND 0 record names the last task to retire (R323, R324). -/
def Hw.slipRecord (h : Hw) (l : Launch) : Hw :=
  if l.slipEnd = l.due then h
  else
    let zero : TaskRec := { task := 0, iter := 0, co := ⟨0, 0⟩, wave := 0, dbarm := 0 }
    let r := l.recs.foldl (fun b r => if b.nth ≤ r.nth then r else b) (l.recs.headD zero)
    h.logSlip l.lid (h.tick.toNat - l.due.toNat) r.task r.iter r.co 0

/-- Step 5 of a boundary: a launch to be pre-empted is written to its image and stops (R352, R373). -/
def Hw.takePreempt (h : Hw) (l : Launch) (img : Nat) : Hw :=
  let (ok, h) := h.writeImage l img
  let h := if ok then h else h.queueFault l.q 3
  h.endLaunch ((h.launch? l.lid).getD l) 3

/-- A calibration task of a boundary is still to retire (R231). -/
def Hw.calBusy (h : Hw) (l : Launch) : Bool :=
  (h.launchCores l).any (fun co =>
    let k := h.core co
    k.queue.any (fun t => t.calib) || (k.task.map (·.calib)).getD false)

/-- The boundary acts from step 4 on (R316), and what follows them: pre-emption, completion, a tail frame, or the next frame. -/
def Hw.boundaryEnd (h : Hw) (lid : Nat) (el : Elastic) : Hw :=
  let h := (h.onLaunch lid (fun l => { l with st := .boundary })).changeIsles lid el
  match h.launch? lid with
  | none => h
  | some l =>
    let h := h.updateRecord l
    if l.abort then h
    else match l.preempt with
      | some img => h.takePreempt l img
      | none =>
        if l.next != 0xFFFF then h
        else if l.conts.isEmpty then h.endLaunch l 1
        else h.setLaunch { l with tail := true }

/-- The boundary acts go on once the calibration tasks of step 3 have retired (R231, R316). -/
def Hw.boundaryGo (h : Hw) (lid : Nat) (el : Elastic) : Hw :=
  match h.launch? lid with
  | none => h
  | some l => if h.calBusy l then h else h.boundaryEnd lid el

/-- THE BOUNDARY ACTS of a completed frame (R316). -/
def Hw.boundary (h : Hw) (lid : Nat) (el : Elastic) : Hw :=
  match h.launch? lid with
  | none => h
  | some l =>
    let h := h.slipRecord l
    let h := h.onLaunch lid (fun l => { l with st := .changes, frame := l.frame + 1, fidx := l.next, recs := [], ents := [] })
    (((h.collect lid).migratePages lid).serveChanges lid).boundaryGo lid el

/-- The frame of a launch has completed but for its slips (R316): every task has retired, its rounds and landings are complete. -/
def Hw.frameOver (h : Hw) (l : Launch) : Bool :=
  l.st == .frame && !l.abort && l.recs.all (fun r => r.st == .retired) && h.roundsOver l (fun _ => true)

/-- FRAME_COMPLETE: a frame completes (R316), once the scheduled ends behind it are counted (R323); a launch that lost a
continuation (R263), or that has reached SLIPLIM (R325), ends instead. At a boundary that waits for its calibration tasks, it
goes on. -/
def execFrameComplete (lid : Nat) (el : Elastic) (s : State) : Out :=
  match s.toHw.launch? lid with
  | none => .next s
  | some l =>
    if l.st == .changes && !l.abort then .next (s.attempt (fun h => h.boundaryGo lid el))
    else if !s.toHw.frameOver l then .next s
    else
      let l := l.slip (l.slipsDue s.tick)
      .next (s.attempt (fun h =>
        let h := h.setLaunch l
        if l.slipOut then h.endSlipping l
        else if l.lost then h.setLaunch { l with abort := true }
        else h.boundary lid el))

/-! ### The start of a frame -/

/-- The entry that a continuation record becomes (R264); none when the table has no such entry. -/
def contEntry (table : List Entry) (c : ContRec) : Option Entry :=
  if c.name = 0 then none
  else (table[c.name - 1]?).map (fun e => { e with
    niter := 1, cont := some [c.old, BitVec.ofNat 64 c.addr, c.cmp, c.new, BitVec.ofNat 64 c.ptask, BitVec.ofNat 64 c.piter] })

/-- The first clash of A footprints (R253, R317), as the offset of the later one's tag. -/
def clashAt : List Entry → Option Nat
  | [] => none
  | e :: t =>
    let later := (e :: t).findSome? (fun g => (g.feet.zipIdx.find? (fun y => e.feet.any (fun f => f.clash y.1))).map
      (fun y => g.off + 128 + 32 * y.2 + 20))
    match later with
    | some o => some o
    | none => clashAt t

/-- The checks of R317 over all entries of a frame, continuations included: their entries with waves. -/
def Hw.frameEntries (h : Hw) (l : Launch) (f : FrameTab) : Tt (List Entry) := do
  let conts := l.conts.map (contEntry f.conts)
  ttNeed (conts.all Option.isSome) 32
  let es := withWaves (f.ents ++ conts.filterMap id)
  match clashAt es with
  | some o => .error (o, 0)
  | none => .ok ()
  ttNeed (es.all (fun e => decide (e.wave < 128))) (f.rec_ + 8)
  match es.find? (fun e => (h.instCores l f.bands e).isEmpty), es.find? (fun e => (h.coreList l f.bands e).isEmpty) with
  | some e, _ => .error (e.off + 12, 0)
  | none, some e => .error (e.off + 9, 0)
  | none, none => .ok es

/-- The tasks of a frame, placed (R320). -/
def Hw.frameTasks (h : Hw) (l : Launch) (bands : List (Nat × Nat)) (es : List Entry) : List TaskRec :=
  es.zipIdx.flatMap (fun x =>
    let cores := h.coreList l bands x.1
    (List.range x.1.niter).map (fun i =>
      { task := x.2, iter := i, co := placeOn l x.1 cores x.2 i, wave := x.1.wave, dbarm := x.1.dbarm }))

/-- The frame begins (R316); with the first frame, the launch's packet issues (R345) and its record is written (R348). -/
def Hw.beginFrame (h : Hw) (l : Launch) (f : FrameTab) (es : List Entry) : Hw :=
  let due := h.tick + BitVec.ofNat 64 f.ticks
  let h := if l.begun then h else (h.issueStart l).writeRecord l 0
  let h := { h with closed := h.closed.filter (fun n => n.lid != l.lid) }
  h.setLaunch { l with
    st := .frame, begun := true, start := h.tick, due := due, slipEnd := due, ticks := f.ticks, next := f.next, elastic := f.elastic
    ents := es, recs := h.frameTasks l f.bands es, retires := 0, conts := [], contTab := f.conts, bands := f.bands
    slipLim := f.slipLim, slipLog := f.slipLog, slipN := f.slipN, ph := [], lost := false }

/-- What the isle schedulers read and check at a frame start (R317): the frame's records and its entries with their waves. -/
def Hw.readFrame (h : Hw) (l : Launch) : Tt (FrameTab × List Entry) := do
  let f ← h.ttFrame l
  let es ← h.frameEntries l f
  .ok (f, es)

/-- FRAME_START: at the later of the scheduled end and the end of the boundary acts the next frame is read, checked and
begun; a failed check ends the launch (R316, R317). -/
def execFrameStart (lid : Nat) (s : State) : Out :=
  match s.toHw.launch? lid with
  | none => .next s
  | some l =>
    if l.st != .boundary || l.abort || s.tick.ult l.due || s.toHw.calBusy l || l.isles.any (fun i => (s.toHw.isle i).gated) then .next s
    else .next (s.attempt (fun h =>
      let h := h.meetErrs (fun h => (h.readFrame l).isOk)
      match h.readFrame l with
      | .ok (f, es) => h.beginFrame l f es
      | .error e => (h.ttFailed l e).failLaunch lid {
          kind := 2, isle := l.isles.headD 0, tick := h.tick, body := detField 32 8 e.1 }))

/-! ### The ending of a launch -/

/-- The status values that stay behind commands which are never resumed, by channel (R122, R139). -/
def Core.behindGone (k : Core) : Tab (BitVec 32 × BitVec 32 × BitVec 32) :=
  ((List.range 16).filter (fun c => k.cmds.any (fun x => x.ch == c))).foldl (fun t c =>
    let ch := BitVec.ofNat 4 c
    tabPut (k.inDone ch, k.outRel ch, k.outVis ch) c t) k.gone

/-- A core of an ending launch stops, and everything of its task and queue is discarded (R370); a calibration task stays. -/
def Core.discard (k : Core) : Core :=
  let cal := (k.task.map (·.calib)).getD false
  let q := k.queue.filter (fun t => t.calib)
  if cal then { k with queue := q }
  else
    let off := fun (e : Eng) => { e with st := .noTask, eps := [], amem := none, rep := none, xfer := none, dbarHold := [] }
    { k.resume with
      task := none, queue := q, l := off k.l, cE := off k.cE, s := off k.s, gone := k.behindGone, cmds := [], slots := [], lhalt := false
      shalt := false, frozen := false }

/-- An isle is among those of a launch. -/
def Launch.has (l : Launch) (isle : Nat) : Bool := l.isles.contains isle

/-- A task that a trap ends closes its endpoints (R271); one with a slot not yet published is discarded as it stands (R273). -/
def Hw.closeTrapped (h : Hw) (co : CoreId) : Hw :=
  if (h.core co).stopped then ((h.core co).endpoints.filter h.endSettled).foldl Hw.closeSide h else h

/-- THE WORK OF A LAUNCH IS DISCARDED (R370, steps 1 and 2), each copy command after its current step. -/
def Hw.discardWork (h : Hw) (l : Launch) : Hw :=
  let mine := fun (w : ReqFrom) => match w with
    | .cmd co _ => l.has co.isle
    | .flit _ _ => false
  let h := (h.slices.flatMap (fun e => e.2.reqs.filter (fun r => r.write && mine r.who))).foldl Hw.endStep h
  let h := (h.launchCores l).foldl (fun h co => ((h.closeTrapped co).dropLease co).onCore co Core.discard) h
  { h with
    rounds := h.rounds.filter (fun q => q.lid != l.lid)
    slices := h.slices.map (fun e => (e.1, { e.2.dropConts l.lid false with reqs := e.2.reqs.filter (fun r => !mine r.who) }))
    monitors := h.monitors.map (fun e => (e.1, e.2.filter (fun m => m.lid != l.lid)))
    monWait := h.monWait.map (fun e => (e.1, e.2.filter (fun w => !l.has w.1.isle)))
    streams := h.streams.filter (fun c => !l.has c.co.isle)
    xreqs := h.xreqs.filter (fun x => !l.has x.co.isle) }

/-- The controllers still have records to take of cores of a launch (R364). -/
def Hw.recordsWait (h : Hw) (l : Launch) : Bool :=
  l.isles.any (fun i =>
    let x := h.isle i
    !x.tqWait.isEmpty
      || (List.range (x.tqTail - x.tqHead).toNat).any (fun j => (tabFind x.trapq ((x.tqHead.toNat + j) % 1024)).isSome))

/-- LAUNCH_ABORT: a launch that is to end with a fault ends (R370-R372): once its isle controllers have taken every record that
its cores raised (R365), its work is discarded, and once every core of it is idle,
calibration tasks included, its records are written and its isles are freed. -/
def execLaunchAbort (lid : Nat) (s : State) : Out :=
  match s.toHw.launch? lid with
  | none => .next s
  | some l =>
    if !l.abort || s.toHw.recordsWait l then .next s
    else
      let s := s.upd (fun h => h.discardWork l)
      if s.toHw.calBusy l then .next s
      else .next (s.attempt (fun h =>
        let h := l.failing.foldl (fun h r => h.logFault lid r) h
        h.endLaunch ((h.launch? lid).getD l) 2))

end Sys2Proof.Machine
end

