-- ==== Sys2Proof/Machine/Traps.lean ====
section
/-! DEFINITION. The isle controller's service of trap records (R364, R365), its repairs (R365, R366), the resume of a stop
(R362, R364), the ending of a launch by management (R365), machine faults (R369), temperature (R402). -/

namespace Sys2Proof.Machine

/-! ### Pieces of the demand pool -/

/-- Two ranges of physical addresses share a byte. -/
def rangesMeet (a n b m : Nat) : Bool := decide (a < b + m) && decide (b < a + n)

/-- The place of a piece in the demand pool (R365): the first block, in list order, with a free place aligned to the piece's
size, and the lowest such place in it. -/
def Launch.pieceAt (l : Launch) (size : Nat) : Option Nat :=
  (l.pool.take l.nd).findSome? (fun b => ((List.range (2 ^ 21 / size)).map (fun i => b + i * size)).find? (fun a =>
    l.pieces.all (fun p => !rangesMeet a size p.1 p.2)))

/-- A piece is taken, its bytes and metadata zero; none without room, or where a table refuses the controller's writes (R97). -/
def Hw.takePiece (h : Hw) (m : Master) (lid size : Nat) : Option Nat × Hw :=
  match (h.launch? lid).bind (fun l => (l.pieceAt size).map (fun a => (l, a))) with
  | none => (none, h)
  | some (l, a) =>
    match h.rangeBar m opWrite a size with
    | some pa => (none, h.meetBar m opWrite [pa])
    | none =>
      let h := { h with
        mem := memClear a (a + size) h.mem
        lineMeta := h.lineMeta.filter (fun e => !(a ≤ 64 * e.1 && 64 * e.1 < a + size))
        errs := h.errs.filter (fun e => !(a ≤ 64 * e.1 && 64 * e.1 < a + size)) }
      (some a, h.setLaunch { l with pieces := l.pieces ++ [(a, size)] })

/-- The size of the table of a level (R90). -/
def tableSize (level : Nat) : Nat := if level = 3 then 256 else 4096

/-- The entry of a new table or page is written into a table (R91, R365), where the access table lets the controller (R97). -/
def Hw.putEntry (h : Hw) (m : Master) (table level va : Nat) (e : Nat) : Bool × Hw :=
  let pa := table + 8 * walkIndex va level
  ((h.barAt m opWrite pa).isNone, h.writeAs m pa (leBytes 8 e))

/-- The tables from a level down, and the zeroed 64 KiB page at their end (R365); false without room, or where an access table
refuses a write. -/
def Hw.mapFrom (h : Hw) (m : Master) (lid va : Nat) (w : Bool) : Nat → Nat → Nat → Bool × Hw
  | 0, _, _ => (false, h)
  | f + 1, level, table =>
    match h.takePiece m lid (if level = 3 then 65536 else tableSize (level + 1)) with
    | (none, h) => (false, h)
    | (some a, h) =>
      if level = 3 then h.putEntry m table 3 va (a + 3 + 4 * w.toNat)
      else match h.putEntry m table level va (a + 1) with
        | (true, h) => h.mapFrom m lid va w f (level + 1) a
        | r => r

/-- The table of a level that a walk of an address reaches. -/
def Hw.tableOf (h : Hw) (va : Nat) : Nat → Nat → Nat
  | 0, table => table
  | n + 1, table =>
    let up := h.tableOf va n table
    entryPa (BitVec.ofNat 64 (h.num (up + 8 * walkIndex va n) 8))

/-! ### Repairs -/

/-- The permission that R80 asks for the access of a record (R365). -/
def Hw.neededPerm (h : Hw) (co : CoreId) (r : TrapRec) : BitVec 12 :=
  let write := (r.detail.extractLsb' 16 8) != 0
  let c := (h.core co).cmds.find? (fun c => c.fault.isSome && (if c.q = .load then 3#8 else 4#8) == r.unit
    && detField 56 1 c.ch ||| detField 60 4 c.id.toNat == r.detail &&& BitVec.ofNat 256 (2 ^ 256 - 2 ^ 192))
  match write, c with
  | true, some c =>
    match c.op with
    | .acc _ => pAc
    | .casGo => pAr ||| pCl
    | op => if op.returns then pAr else pSt
  | _, _ => pLd

/-- A record meets the conditions of a demand map, or finds the fault mended already (R365). -/
inductive Repair where
  | mended
  | map (level : Nat)
  | copy (l : Leaf) (level : Nat)
  | fatal
  deriving DecidableEq, Repr

/-- What a record of a launch's core calls for (R359, R365, R366). -/
def Hw.repairFor (h : Hw) (l : Launch) (co : CoreId) (r : TrapRec) : Repair :=
  let va := r.addr.toNat
  let walk := h.walkRoot l.rootpa va
  match r.code.toNat with
  | 0x20 =>
    match walk with
    | .ok _ _ _ => .mended
    | .fault level e =>
      let need := h.neededPerm co r
      let zero := e.extractLsb' 4 4 == 0 && e.extractLsb' 48 16 == 0
      if !e.getLsbD 0 && zero && decide (l.gbase ≤ va) && decide (va < l.gbase + l.glen) && (l.gperm &&& need == need) then .map level
      else .fatal
  | 0x21 =>
    match walk with
    | .ok f level _ => if f.cow then (if level = 1 then .fatal else .copy f level) else if f.w then .mended else .fatal
    | .fault _ _ => .fatal
  | _ => .fatal

/-- DEMAND_MAP (R365): false when the pool has no room. -/
def Hw.demandMap (h : Hw) (m : Master) (l : Launch) (va level : Nat) : Bool × Hw :=
  let w := (l.gperm &&& (pSt ||| pAc ||| pAr)) != 0
  h.mapFrom m l.lid va w 4 level (h.tableOf va level l.rootpa)

/-- COW_REPAIR (R366): the page is copied, its leaf rewritten, its translation withdrawn in every isle of the launch, in one step
(log entry 101). -/
def Hw.cowRepair (h : Hw) (m : Master) (l : Launch) (va : Nat) (f : Leaf) (level : Nat) : Bool × Hw :=
  match h.rangeBar m opRead f.pa f.size with
  | some pa => (false, h.meetBar m opRead [pa])
  | none =>
    match h.takePiece m l.lid f.size with
    | (none, h) => (false, h)
    | (some a, h) =>
      let (ok, h) := (h.copyLines f.pa a f.size).putEntry m (h.tableOf va level l.rootpa) level va (a + 7)
      (ok, (l.isles.zip l.ctxs).foldl (fun h x => h.onIsle x.1 (fun y => { y with
        tlb := y.tlb.filter (fun t => !t.covers x.2 va) })) h)

/-- A record of a stop has been repaired (R365). -/
def Core.repaired (k : Core) (r : TrapRec) : Core := { k with unrep := k.unrep - 1, taken := k.taken ++ [r] }

/-- A fatal record: every record of the stop goes to the harbour, which ends the launch (R365, R370). -/
def Hw.forwardStop (h : Hw) (co : CoreId) (t : Task) (r : TrapRec) : Hw :=
  let k := h.core co
  let h := h.setCore co { k with fatal := true, taken := [] }
  (k.taken ++ [r]).foldl (fun h r => h.failLaunch t.lid (h.trapFault co t r)) h

/-- One record of a stopped task is decided (R365): the controller reads the tables as a master of its own, and one that it may not
read, or write, leaves the record fatal (R97, R98, log entry 119). -/
def Hw.serveRecord (h : Hw) (co : CoreId) (t : Task) (r : TrapRec) : Hw :=
  match h.launch? t.lid with
  | none => h.forwardStop co t r
  | some l =>
    if (h.core co).fatal then h.forwardStop co t r
    else if r.code = 0x41 ∧ setHas h.holds t.lid then h.onCore co (fun k => { k.repaired r with held := true })
    else
      let m : Master := { src := co.isle, pkey := l.pkey }
      let va := r.addr.toNat
      let walks := r.code = 0x20 || r.code = 0x21
      let places := h.entriesFrom va 4 0 l.rootpa
      let h := if walks then h.reading m places else h
      let x := if walks && places.any (fun pa => (h.barAt m opRead pa).isSome) then (false, h)
        else match h.repairFor l co r with
        | .mended => (true, h)
        | .map level => h.demandMap m l va level
        | .copy f level => h.cowRepair m l va f level
        | .fatal => (false, h)
      if x.1 then x.2.onCore co (fun k => k.repaired r) else x.2.forwardStop co t r

/-- Records that waited at their units enter the queue as room frees (R364). -/
def Isle.refill (x : Isle) : Isle :=
  match x.tqWait with
  | [] => x
  | (r, co) :: t =>
    if (x.tqTail - x.tqHead).toNat < 1024 then
      { x with
        trapq := tabPut (r, co) (x.tqTail.toNat % 1024) x.trapq, tqTail := x.tqTail + 1, tqWait := t }
    else x

/-- A copy-on-write repair that a record calls for has to wait until every access of the launch's isles that was translated
through the context has been performed, as its invalidations do (R95, R366). -/
def Hw.repairWaits (h : Hw) (co : CoreId) (r : TrapRec) : Bool :=
  match (h.core co).task.bind (fun t => h.launch? t.lid) with
  | none => false
  | some l =>
    match h.repairFor l co r with
    | .copy _ _ => !(h.core co).fatal && (l.isles.zip l.ctxs).any (fun x => h.inFlight x.1 (fun c _ _ => c == x.2))
    | _ => false

/-- TRAP_RECORD_SERVICE: the controller takes the next record of the queue (R364, R365), a copy-on-write repair once it may act
(R366); the record of a task that is no longer stopped, its launch ended, is passed over. -/
def execTrapRecordService (isle : Nat) (s : State) : Out :=
  let x := s.toHw.isle isle
  if x.tqHead = x.tqTail
    || (tabFind x.trapq (x.tqHead.toNat % 1024)).any (fun e => (s.toHw.core e.2).stopped && s.toHw.repairWaits e.2 e.1)
  then .next s
  else .next (s.attempt (fun h =>
    let h := h.setIsle isle ({ x with tqHead := x.tqHead + 1 } : Isle).refill
    match tabFind x.trapq (x.tqHead.toNat % 1024) with
    | none => h
    | some (r, co) =>
      match (h.core co).task with
      | some t => if (h.core co).stopped then h.serveRecord co t r else h
      | none => h))

/-! ### Resuming -/

/-- A core's stop is resumable (R364). -/
def Core.resumable (k : Core) : Bool := k.stopped && k.unrep == 0 && !k.fatal

/-- An engine goes on after a stop (R362, R365, R266): a held break passes once, an `await.mem` that faulted is sent again. -/
def Eng.goOn (g : Eng) (pass : Bool) : Eng :=
  { g with brkPass := g.brkPass || pass, amem := g.amem.map (fun m => { m with halted := false }) }

/-- RESUMING A CORE (R139, R226, R362, R365): engines go on, halted commands restart at DONE, tiles replay from row 0. -/
def Core.restart (k : Core) : Core :=
  let broke := fun (u : Byte) => k.held && k.taken.any (fun r => r.code == 0x41 && r.unit == u)
  { k.resume with
    l := k.l.goOn (broke 0)
    cE := k.cE.goOn (broke 1)
    s := k.s.goOn (broke 2)
    lhalt := false
    shalt := false
    cmds := k.cmds.map (fun c => { c with fault := none })
    slots := k.slots.map (fun e => (e.1, { e.2 with
      tile := e.2.tile.map (fun t => { t with halted := false, missAt := none, aData := [] }) })) }

/-- CCTL_RESUME: a write of RESUME restarts a stop that is repaired or held; any other it leaves (R364). -/
def execCctlResume (co : CoreId) (s : State) : Out :=
  if (s.toHw.core co).resumable then .next (s.upd (fun h => h.onCore co Core.restart)) else .next s

/-- LCTL_ABORT: a write of ABORT ends the launch as PREEMPT with MODE 1 does (R365, R370). -/
def execLctlAbort (lid : Nat) (s : State) : Out :=
  .next (s.upd (fun h => h.failLaunch lid { kind := 4, tick := h.tick }))

/-! ### Machine faults -/

/-- The launch that holds an isle. -/
def Hw.holderOf (h : Hw) (isle : Nat) : Option Nat := (h.launches.find? (fun l => l.2.isles.contains isle)).map (·.1)

/-- The ring whose slots hold an offset of a square's stream SRAM. -/
def Hw.ringAt (h : Hw) (site off : Nat) : Option (Nat × Ring) :=
  h.rings.find? (fun e => e.1 / 1024 == site && e.2.v && decide (256 * e.2.base.toNat ≤ off)
    && decide (off < 256 * e.2.base.toNat + e.2.nslot.toNat * e.2.slotSize))

/-- The slot of a ring that a copy takes holds an offset of the square's stream SRAM. -/
def StreamCopy.slotHas (c : StreamCopy) (r : Ring) (off : Nat) : Bool :=
  let p := r.slotPlace c.site c.seq
  decide (p ≤ streamKey c.site off) && decide (streamKey c.site off < p + c.size)

/-- A fault of stream SRAM (R115, R276, R369): against the engine whose `sget` meets it, else against the launch that owns the
ring. -/
def Hw.streamFault (h : Hw) (site off : Nat) : Hw :=
  match h.ringAt site off with
  | none => h
  | some (key, r) =>
    match h.streams.find? (fun c => c.site == site && c.ring == key % 1024 && !c.put && c.slotHas r off) with
    | some c => (h.dropStream c).takeTrap c.co (c.record 0x70 (machineDetail 7 off))
    | none => h.failLaunch r.owner.toNat {
        code := 0x70, kind := 6, isle := site, tick := h.tick, body := detField 32 1 7 ||| detField 40 8 off }

/-- The places that requests of an isle in flight go to: squares by their numbers, quay q as 676 + q (R97). -/
def Hw.targets (h : Hw) (isle : Nat) : List Nat :=
  h.slices.flatMap (fun e => e.2.reqs.filterMap (fun r => match r.who with
    | .cmd co _ => if co.isle = isle then some (paSite r.pa) else none
    | .flit _ _ => none))
  ++ (h.streams.filter (fun c => c.co.isle == isle)).map (fun c => c.site)
  ++ (h.monWait.filter (fun e => e.2.any (fun w => w.1.isle == isle))).map (·.1)
  ++ (h.isle isle).walks.map (fun w => paSite ((h.isle isle).context w.2.ctx).root)
  ++ (h.xreqs.filter (fun x => x.co.isle == isle)).flatMap (fun x =>
    if x.dst = h.cfg.modno then [676]
    else (hopsOf (h.origin.routes.entry h.origin.routes.active x.dst)).map (fun p => 676 + p / 32))

/-- A request of an isle in flight uses a unit (R369): a hop of its way there or back satisfies a test. Of the ways to a quay, those by
a port at the quay's edge which lead there are uses of that port (log entry 107). -/
def Hw.inUse (h : Hw) (hit : Nat × Nat → Bool) (isle : Nat) : Bool :=
  (h.targets isle).any (fun t =>
    if t < 676 then (h.hops t 676 isle).any hit || (h.hops isle 676 t).any hit
    else (edgeSites (t - 676)).any (fun e => hit (e, t - 676) && h.byEdge false (t - 676) isle e))

/-- Every launch with an isle that uses a unit ends with a KIND 6 record (R369): one that holds the unit's isle, or one with a
request in flight through the unit. -/
def Hw.faultUsers (h : Hw) (site addr : Nat) (hit : Nat × Nat → Bool) : Hw :=
  h.launches.foldl (fun g l =>
    if l.2.isles.contains site || l.2.isles.any (h.inUse hit) then
      g.failLaunch l.1 {
        code := 0x70, kind := 6, isle := site, tick := h.tick, body := detField 32 1 5 ||| detField 40 8 (faultAddr 5 addr) }
    else g) h

/-- A failed unit of an isle is withdrawn, and every launch with an isle that uses it ends (R27, R369). -/
def Hw.unitFault (h : Hw) (isle addr : Nat) (c : SvcChange) : Hw :=
  let hit := fun (x : Nat × Nat) => match c with
    | .transit => x.1 == isle
    | .port k => (x.1 == isle && x.2 == k) || (portSite x.1 x.2 == some isle && (x.2 + 2) % 4 == k)
    | _ => false
  ((h.noteIsle isle 5 addr).faultUsers isle addr hit).withdraw isle c

/-- A causeway port of a site fails (R369): that of an isle, also where its square names it, or that of a square to a quay. -/
def Hw.portFault (h : Hw) (site port : Nat) : Hw :=
  if isleOk site then h.unitFault site port (.port port)
  else match portSite site port with
    | some isle => h.unitFault isle ((port + 2) % 4) (.port ((port + 2) % 4))
    | none =>
      let h := h.onQuay port (fun y => { y with mclog := y.mclog.push 5 (site * 4 + port) })
      (h.faultUsers site (site * 4 + port) (fun x => x == (site, port))).withdrawAt site 3 port 0

/-- BRODSYN RESTARTS (R339): every queue resumes at its read index and call chain; what the look-ahead has read is read
again. -/
def Hw.restartHarbour (h : Hw) : Hw :=
  { h with queues := h.queues.map (fun e => (e.1, { e.2.dropLook with waitFrom := e.2.waitFrom })) }

/-- An uncorrectable error in a core's local memory or accumulator memory (R144, R217, R225, R369): it stands in the cells of a granule
until an engine's instruction meets it; the copy command (R139) or the array's tile that is named meets it at once. -/
def Hw.memoryFault (h : Hw) (co : CoreId) (unit : FaultUnit) (cls off : Nat) : Hw :=
  match unit with
  | .eng _ =>
    let k := if cls = 3 then localKey co off else accKey co.isle (CoreId.ins co) off
    { h with cellErrs := setAdd (k / 16) h.cellErrs }
  | .command uid =>
    if ((h.core co).cmds.any (fun c => c.uid == uid && c.started && !c.performed && c.fault.isNone)) then
      (h.noteIsle co.isle cls off).faultCmd co uid 0x70 off (machineDetail cls off)
    else h
  | .tile slot =>
    match (tabFind (h.core co).slots slot).bind (·.tile) with
    | none => h
    | some t =>
      if t.halted then h
      else
        let row := if t.aOff ≤ off then min ((off - t.aOff) / max (lineBytes t.prof) 1) (t.rows - 1) else 0
        (h.noteIsle co.isle cls off).failTile co slot 0x70 off (if cls = 3 then row else 0) (machineDetail cls off)

/-- The oldest entry of a queue fails its parity tag when it is popped (R168): of xq0 to xq3 and bq (4) at the C engine, of yq0 to
yq3 at the S engine. -/
def Core.spoil (k : Core) (e : EngId) (q : Nat) : Core :=
  let bad := fun (l : List QEntry) => match l with
    | x :: t => { x with parityOk := false } :: t
    | [] => []
  let n := BitVec.ofNat 2 q
  match e with
  | .l => k
  | .c =>
    if q = 4 then { k with bq := match k.bq with
      | x :: t => { x with parityOk := false } :: t
      | [] => [] }
    else k.setQueue true n (bad (k.queueOf true n))
  | .s => k.setQueue false n (bad (k.queueOf false n))

/-- The buffer of a landing slot has an uncorrectable error (R369): its unit meets it, the race array for a tile or a race. No address
was formed (R361). -/
def Hw.landingFault (h : Hw) (co : CoreId) (slot : Nat) (x : LSlot) : Hw :=
  let array := x.kind = .tile || x.kind = .race
  let place := if array then detField 56 1 ((x.tile.map (·.slot)).getD 0) else 0
  (h.noteIsle co.isle 1 slot).takeTrap co {
    code := 0x70, unit := if array then 5 else BitVec.ofNat 8 (engUnit x.eng), slot := BitVec.ofNat 3 x.gslot, after := array
    landing := !array, sec := x.sec, core := BitVec.ofNat 11 co.core, pc := x.pc, detail := machineDetail 1 slot ||| place }

/-- MACHINE_FAULT: an uncorrectable error or unit fault is detected and attributed (R369), or cells or an entry take an error that
the next access meets (R105, R144, R168). -/
def execMachineFault (place : FaultSite) (s : State) : Out :=
  match place with
  | .localMem co unit off => .next (s.upd (fun h => h.memoryFault co unit 3 off))
  | .accMem co unit off => .next (s.upd (fun h => h.memoryFault co unit 4 off))
  | .queueParity co e q => .next (s.upd (fun h => h.onCore co (fun k => k.spoil e q)))
  | .landingBuffer co slot =>
    match tabFind (s.toHw.core co).slots slot with
    | none => .next s
    | some x => .next (s.upd (fun h => h.landingFault co slot x))
  | .hbmLine pa =>
    .next (s.upd (fun h => (h.onHome pa (fun x => x.uncorrected (pa / 64))).onLine pa (fun m => { m with bad := true })))
  | .hbmCells pa un =>
    .next (s.upd (fun h => { h with errs := tabPut (un || tabGet false h.errs (pa / 64)) (pa / 64) h.errs }))
  | .streamSram site off => .next (s.upd (fun h => h.streamFault site off))
  | .isleUnit isle => .next (s.upd (fun h => h.unitFault isle 0 .isle))
  | .transit isle => .next (s.upd (fun h => h.unitFault isle 1 .transit))
  | .causeway site port => .next (s.upd (fun h => h.portFault site port))
  | .quaySram quay addr =>
    .next (s.upd (fun h => (h.onQuay quay (fun y => { y with mclog := y.mclog.push 0x0C addr })).restartHarbour))

/-! ### Temperature -/

/-- An isle whose array is at TSHUT has a machine fault (R402): once, while it is in service and not withdrawn already. -/
def Hw.shutHot (h : Hw) (isle : Nat) (t : Int) : Hw :=
  if h.cfg.tshut ≤ t ∧ (h.isle isle).inService ∧ !(h.isle isle).pend.contains .isle then h.unitFault isle 0x118 .isle else h

/-- TEMPERATURE_SAMPLE: the present temperature of an array; a drift marks it, TSHUT withdraws its isle (R231, R402). -/
def execTemperatureSample (isle ins : Nat) (temp : BitVec 16) (s : State) : Out :=
  .next (s.upd (fun h =>
    let a := h.arr isle ins
    let moved := (temp.toInt - a.tlcal.toInt).natAbs
    let h := h.setArr isle ins { a with temp := temp, mark := a.mark || decide (h.cfg.tdrift ≤ moved) }
    (h.settlePending isle).shutHot isle temp.toInt))

/-- THERMAL_GAP_STEP: the gap of an array after a millisecond, and whether it is at TSHUT (R402). -/
def execThermalGapStep (isle ins : Nat) (s : State) : Out :=
  .next (s.upd (fun h =>
    let a := h.arr isle ins
    let t := a.temp.toInt
    let gap :=
      if h.cfg.twarn ≤ t then BitVec.ofNat 8 (min 255 (a.gap.toNat + 4))
      else if t < h.cfg.twarn - 48 then BitVec.ofNat 8 (a.gap.toNat - 4)
      else a.gap
    (h.setArr isle ins { a with gap := gap }).shutHot isle t))

end Sys2Proof.Machine
end

