-- ==== Sys2Proof/Machine/Harbour.lean ====
section
/-! DEFINITION. Command queues: doorbells, mapping and unmapping (R334-R338), the read index (R339), the look-ahead (R342, R343),
queue faults at the issue point (R357), restart (R339). -/

namespace Sys2Proof.Machine

/-! ### Mapping -/

/-- A queue record within its ranges (R334). -/
def recordOk (r : List Byte) : Bool :=
  fieldAt r 0 8 % 64 == 0 && decide (4 ≤ fieldAt r 8 1) && decide (fieldAt r 8 1 ≤ 20) && decide (fieldAt r 9 1 < 4)
    && decide (fieldAt r 10 1 < 64) && fieldAt r 11 5 == 0 && fieldAt r 32 8 % 4096 == 0
    && decide (fieldAt r 32 8 < 2 ^ 48) && decide (fieldAt r 40 2 < 4096) && fieldAt r 42 6 == 0

/-- A queue as its record gives it (R334), standing at its read index. -/
def HQueue.load (x : HQueue) (r : List Byte) : HQueue :=
  { x with
    rbase := fieldAt r 0 8, rlog := fieldAt r 8 1, prio := fieldAt r 9 1, pkey := BitVec.ofNat 6 (fieldAt r 10 1)
    gbase := fieldAt r 16 8, glen := fieldAt r 24 8, rootpa := fieldAt r 32 8, gperm := BitVec.ofNat 12 (fieldAt r 40 2) }

/-- A queue is mapped into the free slot of lowest index (R336-R338): its record is read, SHADOW becomes WIDX, its ATTN bit
is cleared; a record out of range halts it with queue fault 1 (R334), one that the quay cannot read with 3 (R97, R105, R357). Nothing
happens without a free slot, or before stage 3 (R394). -/
def Hw.mapQueue (h : Hw) (q : Nat) : Hw :=
  let y := h.quay (q / 256)
  match tabFree y.slots 64 with
  | none => h
  | some i =>
    if h.boot.stage < 3 then h
    else
    let h := h.reading (quayMaster q 0) [h.recordPa q]
    let seen := (h.barAt (quayMaster q 0) opRead (h.recordPa q)).isNone
    let r := h.bytes (h.recordPa q) 64
    let ok := seen && recordOk r
    let d : DbSlot := { q := q, fcode := if ok then 0 else if seen then 1 else 3, halt := !ok, widx := BitVec.ofNat 64 (fieldAt r 48 8) }
    let h := h.onQuay (q / 256) (fun y => { y with slots := tabPut d i y.slots, attn := setDel q y.attn })
    h.onQueue q (fun x =>
      let x := if ok then x.load r else x
      { x.dropLook with lastIssue := h.tick, idleSince := h.tick })

/-- The idle queue of a block that is unmapped to make room (R338): idle longest, then lowest; never a halted one. -/
def Hw.idlest (h : Hw) (quay : Nat) : Option Nat :=
  let c := ((h.quay quay).slots.filter (fun s => !s.2.halt && h.idleQueue s.2.q)).map (fun s => s.2.q)
  let before := fun (a b : Nat) =>
    (h.queue a).idleSince.ult (h.queue b).idleSince || ((h.queue a).idleSince == (h.queue b).idleSince && decide (a < b))
  c.foldl (fun b q => match b with
    | none => some q
    | some p => if before q p then some q else some p) none

/-- A waiting queue is served (R338): mapped, an idle queue of the block making room for it if need be. -/
def Hw.serveQueue (h : Hw) (q : Nat) : Hw :=
  if h.mapped q then h.onQuay (q / 256) (fun y => { y with attn := setDel q y.attn })
  else if (tabFree (h.quay (q / 256)).slots 64).isSome then h.mapQueue q
  else match h.idlest (q / 256) with
    | some p => (h.unmapQueue p).mapQueue q
    | none => h

/-- DBNOTIFY: a doorbell write of a queue (R335, R337, R338). -/
def execDbnotify (q : Nat) (n : BitVec 64) (s : State) : Out := .next (s.attempt (fun h => h.notify q n))

/-- QUEUE_MAP: Brodsyn maps a queue that holds no slot (R337). -/
def execQueueMap (q : Nat) (s : State) : Out := if s.toHw.mapped q then .next s else .next (s.attempt (fun h => h.mapQueue q))

/-- QUEUE_UNMAP: Brodsyn unmaps an idle queue; a halted one it leaves mapped (R337, R338). -/
def execQueueUnmap (q : Nat) (s : State) : Out :=
  if s.toHw.mapped q && !(s.toHw.dbSlot q).halt && s.toHw.idleQueue q then .next (s.attempt (fun h => h.unmapQueue q))
  else .next s

/-- The management path's master at a quay. -/
def mgmtMaster (quay : Nat) : Master := { src := 676 + quay }

/-- A QCMD write: outside the block's range it is ignored and counted as a violation (R338). -/
def Hw.qcmd (h : Hw) (quay q : Nat) (act : Hw → Hw) : Hw :=
  if q / 256 = quay then act h
  else h.onQuay quay (fun y => { y with acc := y.acc.deny (mgmtMaster quay) opMgmt (q * 65536) })

/-- QCMD_MAP: OP 1, map now as for an ATTN bit (R338). -/
def execQcmdMap (quay q : Nat) (s : State) : Out := .next (s.attempt (fun h => h.qcmd quay q (fun h => h.serveQueue q)))

/-- QCMD_UNMAP: OP 2, unmap once idle (R338). -/
def execQcmdUnmap (quay q : Nat) (s : State) : Out := .next (s.attempt (fun h => h.qcmd quay q (fun h => h.unmapOnce q)))

/-- QCMD_CLEAR_FAULT: OP 3, unmap, clear FCODE and HALT, and map again at RIDX (R338, R357). -/
def execQcmdClearFault (quay q : Nat) (s : State) : Out :=
  .next (s.attempt (fun h => h.qcmd quay q (fun h =>
    if h.mapped q && (h.dbSlot q).halt then (h.unmapQueue q).mapQueue q else h)))

/-- ATTN_SERVICE: Brodsyn serves the lowest queue of a block that waits for a slot (R338). -/
def execAttnService (quay : Nat) (s : State) : Out :=
  match (s.toHw.quay quay).attn with
  | [] => .next s
  | q :: _ => .next (s.attempt (fun h => h.serveQueue q))

/-- HARBOUR_RESTART: Brodsyn restarts (R339). -/
def execHarbourRestart (s : State) : Out := .next (s.upd (fun h => h.restartHarbour))

/-! ### The grant -/

/-- The harbour's master for a queue (R97). -/
def HQueue.master (x : HQueue) (q : Nat) : Master := quayMaster q x.pkey

/-- Bytes that the harbour reads for a packet: within the grant with ld, translated, admitted, correctable (R357). -/
def Hw.readGrant (h : Hw) (q va n : Nat) : Option (List Byte) :=
  let x := h.queue q
  if x.grants va n pLd then h.readAs (x.master q) x.rootpa va n else none

/-- A reading for a packet that failed has its effect (R15, R98, R105); outside the grant nothing is read (R358). -/
def Hw.noteGrant (h : Hw) (q va n : Nat) : Hw :=
  let x := h.queue q
  if x.grants va n pLd then h.noteRead (x.master q) x.rootpa va n else h

/-! ### Positions -/

/-- Where a queue stands: ring position and open buffers. -/
abbrev QPos := BitVec 64 × List (Nat × Nat × Nat)

/-- The position after one more packet (R339): the end of a buffer passes the CALL that opened it. -/
def stepPos : BitVec 64 → List (Nat × Nat × Nat) → QPos
  | i, [] => (i + 1, [])
  | i, (a, k, n) :: t => if k + 1 < n then (i, (a, k + 1, n) :: t) else stepPos i t

/-- The position after a RETURN (R343): the innermost buffer ends. -/
def returnPos : BitVec 64 → List (Nat × Nat × Nat) → QPos
  | i, [] => (i + 1, [])
  | i, _ :: t => stepPos i t

/-- The virtual address of the packet at a position (R334, R343). -/
def HQueue.packetVa (x : HQueue) (p : QPos) : Nat :=
  match p.2 with
  | [] => x.rbase + 64 * (p.1.toNat % 2 ^ x.rlog)
  | (a, k, _) :: _ => a + 64 * k

/-! ### The look-ahead -/

/-- The header is within R342. -/
def headerOk (b : List Byte) : Bool :=
  decide (1 ≤ pktType b) && decide (pktType b ≤ 9) && fieldAt b 1 1 == 0 && fieldAt b 4 4 == 0

/-- A packet enters the look-ahead, and the reading goes on at a position. -/
def Hw.pushPacket (h : Hw) (q : Nat) (bytes : List Byte) (bad : BitVec 4) (takes : Bool) (p : QPos) : Hw :=
  (h.onQueue q (fun x => { x with
    look := x.look ++ [{ bytes := bytes, place := x.places, ridx := p.1, chain := p.2, bad := bad, takes := takes }]
    places := if takes then x.places + 1 else x.places
    readIdx := p.1, readChain := p.2, pending := none })).markHead q

/-- The packet of a place has completed (R344, R345): it has issued and runs no more. -/
def HQueue.completed (x : HQueue) (place : Nat) : Bool :=
  decide (place < x.places) && !x.look.any (fun p => p.place == place && p.takes) && !x.running.contains place

/-- A JOIN's named packet has completed; one before the queue's first packet is satisfied at once (R344). -/
def HQueue.joined (x : HQueue) (p : Packet) : Bool :=
  let d := fieldAt p.bytes 8 2
  decide (p.place < d) || x.completed (p.place - d)

/-- The positions that a packet of the look-ahead fills (R343, R353). -/
def Packet.positions (p : Packet) : Nat := if pktType p.bytes = 9 ∧ p.bad = 0 then 2 else 1

/-- The positions that the look-ahead holds. -/
def HQueue.ahead (x : HQueue) : Nat := x.look.foldl (fun n p => n + p.positions) 0

/-- Every packet before a SIGNAL of the look-ahead has completed (R345). -/
def HQueue.signalled (x : HQueue) (p : Packet) : Bool :=
  x.running.isEmpty && !x.look.any (fun o => o.takes && decide (o.place < p.place))

/-- The look-ahead may read on: no packet that stopped it, no JOIN still waiting, no SIGNAL that earlier packets have not come to
(their accesses precede its read of a later packet, R345), a CALL or RETURN consumed, room among the 64 positions, and a
position submitted (R343, R344). -/
def Hw.mayFetch (h : Hw) (q : Nat) : Bool :=
  let x := h.queue q
  h.mapped q && !(h.dbSlot q).halt && x.pending.isNone && decide (x.ahead < 64)
    && x.look.all (fun p => p.bad == 0 && (pktType p.bytes != 4 || x.joined p) && (pktType p.bytes != 6 || x.signalled p))
    && (!x.readChain.isEmpty || x.readIdx.ult (h.dbSlot q).widx)

/-- The bytes of the packet that a queue reads next, its fault and the position after it; none while its second position is
not submitted, or lies past the 64 positions (R342, R343, R353). -/
def Hw.readPacket (h : Hw) (q : Nat) : Option (List Byte × BitVec 4 × QPos) :=
  let x := h.queue q
  let p : QPos := (x.readIdx, x.readChain)
  let next := stepPos p.1 p.2
  match h.readGrant q (x.packetVa p) 64 with
  | none => some ([], 3, next)
  | some b =>
    if !headerOk b then some (b, 1, next)
    else if pktType b != 9 then some (b, 0, next)
    else if p.2.length != next.2.length || p.2.map Prod.fst != next.2.map Prod.fst then some (b, 1, next)
    else if (next.2.isEmpty && !next.1.ult (h.dbSlot q).widx) || decide (64 < x.ahead + 2) then none
    else match h.readGrant q (x.packetVa next) 64 with
      | none => some (b, 3, stepPos next.1 next.2)
      | some c => some (b ++ c, 0, stepPos next.1 next.2)

/-- The reading of a queue's next packet that failed has its effect (R15, R98). -/
def Hw.notePacket (h : Hw) (q : Nat) : Hw :=
  let x := h.queue q
  let p : QPos := (x.readIdx, x.readChain)
  h.noteGrant q (x.packetVa (if (h.readGrant q (x.packetVa p) 64).isNone then p else stepPos p.1 p.2)) 64

/-- The packet at the head of a queue faults (R357): RIDX stands after it. -/
def Hw.faultHead (h : Hw) (q : Nat) (code : BitVec 4) : Hw :=
  match (h.queue q).look with
  | [] => h
  | p :: _ =>
    let h := h.passHead q p
    let h := h.onQueue q (fun x => { x with look := [], places := if p.takes then p.place + 1 else p.place })
    h.queueFault q code

/-- PACKET_FETCH: the look-ahead reads a queue's next packet (R343); one that it could not take faults when it comes to the
issue point (R357). -/
def execPacketFetch (q : Nat) (s : State) : Out :=
  let h := s.toHw
  match (h.queue q).look with
  | p :: _ =>
    if p.bad != 0 && !(h.dbSlot q).halt && h.mapped q then .next (s.attempt (fun h => h.faultHead q p.bad))
    else if !h.mayFetch q then .next s
    else fetch
  | [] => if h.mayFetch q then fetch else .next s
where
  /-- The next packet is read. -/
  fetch : Out :=
    .next (s.attempt (fun h =>
      let h := h.meetErrs (fun h => (h.readPacket q).any (fun r => r.2.1 != 3))
      match h.readPacket q with
      | none => h
      | some (b, bad, p) =>
        let chain := pktType b = 2 || pktType b = 3
        if bad = 0 ∧ chain then h.onQueue q (fun x => { x with pending := some b })
        else (if bad = 3 then h.notePacket q else h).pushPacket q b bad (!chain) p))

/-- Bytes from an offset to the end of a packet are zero. -/
def zeroFrom (b : List Byte) (off : Nat) : Bool := (b.drop off).all (fun x => x == 0)

/-- CALL_PACKET: the packets of the named buffer take the CALL's place (R343); a ninth level is queue fault 2. -/
def execCallPacket (q : Nat) (s : State) : Out :=
  let x := s.toHw.queue q
  match x.pending with
  | none => .next s
  | some b =>
    if pktType b != 2 then .next s
    else
      let a := fieldAt b 8 8
      let n := fieldAt b 16 2
      let next := stepPos x.readIdx x.readChain
      let bad := fun (code : BitVec 4) => Host.Outcome.next (s.upd (fun h => h.pushPacket q b code false next))
      if a % 64 != 0 || n == 0 || !zeroFrom b 18 then bad 1
      else if 8 ≤ x.readChain.length then bad 2
      else if !x.grants a (64 * n) pLd then bad 3
      else .next (s.upd (fun h => h.onQueue q (fun x => { x with readChain := (a, 0, n) :: x.readChain, pending := none })))

/-- RETURN_PACKET: the innermost buffer ends early (R343); outside any it is queue fault 2. What has issued then stands behind
the CALL (R339). -/
def execReturnPacket (q : Nat) (s : State) : Out :=
  let x := s.toHw.queue q
  match x.pending with
  | none => .next s
  | some b =>
    if pktType b != 3 then .next s
    else
      let next := stepPos x.readIdx x.readChain
      let bad := fun (code : BitVec 4) => Host.Outcome.next (s.upd (fun h => h.pushPacket q b code false next))
      if !zeroFrom b 8 then bad 1
      else if x.readChain.isEmpty then bad 2
      else
        let p := returnPos x.readIdx x.readChain
        .next (s.attempt (fun h =>
          let h := h.onQueue q (fun x => { x with readIdx := p.1, readChain := p.2, pending := none })
          match x.look.getLast? with
          | some l => h.onQueue q (fun x => { x with look := x.look.dropLast ++ [{ l with ridx := p.1, chain := p.2 }] })
          | none =>
            ((h.onQueue q (fun x => { x with ridx := p.1, chain := p.2, idleSince := h.tick })).copyRidx q).settleUnmap q))

end Sys2Proof.Machine
end

