-- ==== Sys2Proof/Machine/Launches.lean ====
section
/-! DEFINITION. The checks of a LAUNCH (R346, R347, R357), the choice of its LID and isles (R346, R379), its start and its
resume from an image (R379). -/

namespace Sys2Proof.Machine

/-- A queue fault that a check raises: its code, the address that failed (R357, R372), and the bytes there that could not be read. -/
structure QErr where
  code : Nat
  addr : Nat := 0
  len : Nat := 0

/-- A check that may raise a queue fault (R357). -/
abbrev Qf (α : Type) := Except QErr α

/-- Raises a queue fault unless a condition holds. -/
def qNeed (b : Bool) (code : Nat) (addr : Nat := 0) : Qf Unit := if b then .ok () else .error { code := code, addr := addr }

/-! ### The packet and the descriptor -/

/-- What a LAUNCH, or a run of a REFINE, asks for (R346, R353). -/
structure LaunchReq where
  ldesc : Nat
  ttva : Nat
  seed : BitVec 64
  minisl : Nat
  maxisl : Nat
  mode : Nat
  lidfix : Nat
  lidreq : Nat
  flogva : Nat
  recva : Nat
  imgva : Nat

/-- RESUME of MODE (R346). -/
def LaunchReq.resume (r : LaunchReq) : Bool := r.mode / 8 % 2 == 1

/-- A LAUNCH packet's fields (R346). -/
def launchReq (b : List Byte) : LaunchReq :=
  { ldesc := fieldAt b 8 8, ttva := fieldAt b 16 8, seed := BitVec.ofNat 64 (fieldAt b 24 8), minisl := fieldAt b 32 2
    maxisl := fieldAt b 34 2, mode := fieldAt b 36 1, lidfix := fieldAt b 37 1, lidreq := fieldAt b 38 2
    flogva := fieldAt b 40 8, recva := fieldAt b 48 8, imgva := fieldAt b 56 8 }

/-- The fields are within R346. -/
def LaunchReq.ok (r : LaunchReq) : Bool :=
  r.ldesc % 64 == 0 && decide (1 ≤ r.minisl) && decide (r.minisl ≤ r.maxisl) && decide (r.maxisl ≤ 338)
    && decide (r.mode < 16) && r.mode % 4 != 3 && decide (r.lidfix < 2) && (r.lidfix == 1 || r.lidreq == 0)
    && r.recva % 32 == 0 && (r.resume || r.imgva == 0)

/-- What a launch takes from its descriptor, its pool list and, for a resume, its image header (R347, R379). -/
structure Spec where
  req : LaunchReq
  roots : List CReg
  imgs : List Nat
  woff : List Nat
  wlen : List Nat
  toks : List Byte
  pool : List Nat
  image : Option (List Byte) := none
  fts : Option (List Lane) := none

/-- A root capability as the harbour tags it (R347). -/
def rootOf (x : HQueue) (bits : BitVec 128) : Qf CReg :=
  let c : CReg := { bits := bits, tag := true }
  let inGrant := decide (x.gbase ≤ c.base) && decide (c.top ≤ x.gbase + x.glen) && (x.gperm &&& c.perm == c.perm)
  let ok := match c.space with
    | 0 | 1 | 2 | 5 | 6 => true
    | 3 => inGrant
    | 4 | 7 | 8 => x.gperm &&& pSy == pSy
    | _ => false
  if !ok || decide (2 ^ 48 < c.top) then .error { code := 4 } else .ok (if c.space = 0 then {} else c)

/-- Values one after another, each checked. -/
def qList {α β : Type} (f : α → Qf β) : List α → Qf (List β)
  | [] => .ok []
  | x :: t => do
    let y ← f x
    let r ← qList f t
    .ok (y :: r)

/-- Bytes the harbour reads for a packet, or queue fault 3 (R357). -/
def Hw.qRead (h : Hw) (q va n : Nat) : Qf (List Byte) :=
  match h.readGrant q va n with
  | some b => .ok b
  | none => .error { code := 3, addr := va, len := n }

/-- An address of a packet that is 0 or lies in the grant (R357, R358). -/
def HQueue.qGrant (x : HQueue) (va n : Nat) (need : BitVec 12) : Qf Unit := qNeed (va == 0 || x.grants va n need) 3 va

/-- An entry of the block pool list (R347). -/
def poolEntryOk (e : Nat) : Bool := e % 2 ^ 21 == 0 && decide (e < 2 ^ 48) && paTarget e == .line

/-- An image header that a resume accepts (R376, R379). -/
def imageOk (r : LaunchReq) (b : List Byte) : Bool :=
  fieldAt b 0 4 == 1 && fieldAt b 4 1 == 1 && fieldAt b 8 8 == r.seed.toNat && fieldAt b 16 8 == r.ttva

/-- THE CHECKS OF A LAUNCH AT ISSUE (R346, R347, R357, R379). -/
def Hw.prepLaunch (h : Hw) (q : Nat) (r : LaunchReq) : Qf Spec := do
  let x := h.queue q
  qNeed r.ok 1
  let d ← h.qRead q r.ldesc 512
  let _ ← h.qRead q r.ttva 64
  x.qGrant r.flogva 64 pSt
  x.qGrant r.recva 32 pSt
  qNeed (zeroFrom d 332) 1
  let roots ← qList (fun i => rootOf x (BitVec.ofNat 128 (fieldAt d (16 * i) 16))) (List.range 16)
  let imgs := [0, 1, 2].map (fun i => fieldAt d (256 + 8 * i) 8)
  let woff := [0, 1, 2].map (fun i => fieldAt d (280 + 4 * i) 4)
  let wlen := [0, 1, 2].map (fun i => fieldAt d (292 + 4 * i) 4)
  let _ ← qList (fun i => do
    let o := woff.getD i 0
    let n := wlen.getD i 0
    qNeed (decide (o < 2 ^ 19) && n % 16 == 0 && decide (o + n ≤ 2 ^ 19)) 1
    if n = 0 then .ok [] else h.qRead q (imgs.getD i 0) n) [0, 1, 2]
  let pva := fieldAt d 320 8
  let pn := fieldAt d 328 4
  qNeed (pva % 8 == 0 && (pn != 0 || pva == 0)) 1
  let list ← if pn = 0 then .ok [] else h.qRead q pva (8 * pn)
  let pool := (List.range pn).map (fun i => fieldAt list (8 * i) 8)
  qNeed (pool.all poolEntryOk && decide pool.Nodup) 1
  let image ← if r.resume then (h.qRead q r.imgva 256).map some else .ok none
  qNeed (image.all (imageOk r)) 1
  .ok {
    req := r, roots := roots, imgs := imgs, woff := woff, wlen := wlen
    toks := (List.range 16).map (fun i => BitVec.ofNat 8 (fieldAt d (304 + i) 1)), pool := pool, image := image }

/-! ### LID and isles -/

/-- A LID is held by a running launch or by a REFINE block for its runs (R346, R353). -/
def Hw.lidHeld (h : Hw) (lid : Nat) : Bool := (h.launch? lid).isSome || h.refines.any (fun r => r.lid == lid)

/-- The LID that a launch takes, once it is free (R346, R379). -/
def Hw.chooseLid (h : Hw) (sp : Spec) : Option Nat :=
  let want := match sp.image with
    | some b => some (fieldAt b 6 2)
    | none => if sp.req.lidfix = 1 then some sp.req.lidreq else (List.range 65536).find? (fun n => !h.lidHeld n)
  want.filter (fun n => !h.lidHeld n)

/-- The sublattice of a launch: of its MODE, or of the saved one (R346, R379). -/
def Spec.sub (sp : Spec) : Nat :=
  match sp.image with
  | some b => fieldAt b 34 1 % 4
  | none => sp.req.mode % 4

/-- MINISL of a launch: of the packet, or the saved one. -/
def Spec.minisl (sp : Spec) : Nat :=
  match sp.image with
  | some b => fieldAt b 38 2
  | none => sp.req.minisl

/-- MAXISL of a launch: of the packet, or the saved one. -/
def Spec.maxisl (sp : Spec) : Nat :=
  match sp.image with
  | some b => fieldAt b 40 2
  | none => sp.req.maxisl

/-- The isle that an ordinal of an image takes (R379): the recorded one when it is free, else the lowest free one. -/
def fillOrds (free : List Nat) : List Nat → List Nat
  | [] => []
  | i :: t =>
    match (if free.contains i then some i else free.head?) with
    | some j => j :: fillOrds (free.filter (fun k => k != j)) t
    | none => []

/-- The isle records of an image, by ordinal (R375, R377). -/
def Hw.isleRecords (h : Hw) (q : Nat) (sp : Spec) (b : List Byte) : Option (List (List Byte)) :=
  let recs := (List.range (fieldAt b 36 2)).map (fun o => h.readGrant q (sp.req.imgva + 0x100 + 512 * o) 512)
  if recs.all Option.isSome then some (recs.filterMap id) else none

/-- The ring records of an image. -/
def Hw.imageRings (h : Hw) (q : Nat) (sp : Spec) (b : List Byte) : Option (List (List Byte)) :=
  readRings (h.readGrant q) (fieldAt b 60 4) (sp.req.imgva + fieldAt b 64 8)

/-- The ring records' ranges, as far as they can be read. -/
def ringRanges (read : Nat → Nat → Option (List Byte)) : Nat → Nat → List (Nat × Nat)
  | 0, _ => []
  | n + 1, va => (va, 64) :: (match read va 64 with
    | none => []
    | some head =>
      let size := 64 + fieldAt head 22 2 * 2 ^ (fieldAt head 21 1 / 16 + 8)
      (va, size) :: ringRanges read n (va + size))

/-- The ranges of an image that a resume reads (R379), the regions of the cores of some isles among them. -/
def Hw.imageRanges (h : Hw) (q : Nat) (sp : Spec) (b : List Byte) (isles : List Nat) : List (Nat × Nat) :=
  let img := sp.req.imgva
  (List.range (fieldAt b 36 2)).map (fun o => (img + 0x100 + 512 * o, 512))
    ++ ringRanges (h.readGrant q) (fieldAt b 60 4) (img + fieldAt b 64 8)
    ++ [(img + fieldAt b 80 8, 64 * fieldAt b 72 4)]
    ++ (isles.zipIdx).flatMap (fun x => (h.isleCores x.1).map (fun co => (img + regionOff x.2 co.core, regionSize)))

/-- The first reading of an image that failed has its effect (R15, R98, R105). -/
def Hw.noteImage (h : Hw) (q : Nat) (sp : Spec) (isles : List Nat) : Hw :=
  match sp.image with
  | none => h
  | some b =>
    match (h.imageRanges q sp b isles).find? (fun x => (h.readGrant q x.1 x.2).isNone) with
    | some x => h.noteGrant q x.1 x.2
    | none => h

/-- A saved ring's descriptor is held by another launch (R379). -/
def Hw.ringsHeld (h : Hw) (lid : Nat) (rings : List (List Byte)) : Bool :=
  rings.any (fun r =>
    let d := h.ring (fieldAt r 0 2) (fieldAt r 2 2)
    d.v && d.owner.toNat != lid)

/-- The LID and isles that a launch takes when it issues now; none while it waits (R346, R379). `fixed` is the LID that a
REFINE block holds. -/
def Hw.allocate (h : Hw) (q : Nat) (sp : Spec) (fixed : Option Nat) : Option (Nat × List Nat) :=
  let free := h.freeIsles sp.sub
  match (match fixed with
    | some n => some n
    | none => h.chooseLid sp) with
  | none => none
  | some lid =>
    if free.length < sp.minisl then none
    else match sp.image with
      | none => some (lid, free.take sp.minisl)
      | some b =>
        if ((h.imageRings q sp b).map (h.ringsHeld lid)).getD false then none
        else some (lid, fillOrds free (((h.isleRecords q sp b).getD []).map (fun r => fieldAt r 0 2)))

/-! ### Starting -/

/-- The launch that a packet starts (R305, R346, R347). -/
def Hw.newLaunch (h : Hw) (q place lid : Nat) (sp : Spec) (isles : List Nat) (ctxs : List (BitVec 4)) : Launch :=
  let x := h.queue q
  let nd := min sp.pool.length (h.cfg.dzpool / 2 ^ 21)
  { lid := lid, q := q, place := place, seed := sp.req.seed, roots := sp.roots, loopmode := sp.req.mode / 4 % 2 == 1
    sub := sp.sub, mode := BitVec.ofNat 8 (sp.req.mode / 4 % 2 * 4 + sp.sub), minisl := sp.minisl, maxisl := sp.maxisl
    ttva := sp.req.ttva, flogva := sp.req.flogva, recva := sp.req.recva, imgs := sp.imgs, woff := sp.woff, wlen := sp.wlen
    toks := sp.toks, rootpa := x.rootpa, gbase := x.gbase, glen := x.glen, gperm := x.gperm, pkey := x.pkey
    pool := sp.pool, nd := nd, migFree := sp.pool.drop nd, isles := isles, ctxs := ctxs, due := h.tick, ftset := sp.fts }

/-- The fields that a REFINE block keeps from run to run go to the launch of its next run (R353, R393). -/
def Launch.inherit (l : Launch) (r : Refine) : Launch :=
  { l with nrec := r.nrec, lastimg := r.lastimg, preempt := r.preempt, awaited := r.awaited }

/-- A launch begins with its first frame due at once; its cores are set up (R145, R305, R346). -/
def Hw.beginLaunch (h : Hw) (l : Launch) : Hw := (h.setLaunch l).prepareRest l

/-- The cores of a resumed launch take their regions (R379); none when one cannot be read. -/
def Hw.restoreCores (h : Hw) (q : Nat) (l : Launch) (img : Nat) : List (Nat × CoreId) → Option Hw
  | [] => some h
  | (o, co) :: t =>
    match h.readGrant q (img + regionOff o co.core) regionSize with
    | some b => (h.restoreCore l co b).restoreCores q l img t
    | none => none

/-- A LAUNCH WITH RESUME BEGINS (R379): none when a region of the image cannot be read. -/
def Hw.resumeLaunch (h : Hw) (q : Nat) (sp : Spec) (l : Launch) (b : List Byte) : Option Hw :=
  match h.isleRecords q sp b, h.imageRings q sp b, h.readGrant q (sp.req.imgva + fieldAt b 80 8) (64 * fieldAt b 72 4) with
  | some recs, some rings, some conts =>
    let nextf := fieldAt b 32 2
    let cs := (List.range (fieldAt b 72 4)).map (fun i => ContRec.ofBytes l.lid ((conts.drop (64 * i)).take 64))
    let l := { l with
      fidx := nextf, frame := BitVec.ofNat 64 (fieldAt b 24 8), slips := BitVec.ofNat 64 (fieldAt b 48 8)
      slipIdx := BitVec.ofNat 32 (fieldAt b 56 4), conts := cs, lastimg := some sp.req.imgva
      tail := nextf == 0xFFFF, ticks := (Config.tailTicks l.lid).toNat, next := nextf }
    let same := decide (l.isles.length = recs.length) && (l.isles.zip recs).all (fun x => h.isleRecord x.1 == x.2)
    let cores := ((List.range l.isles.length).zip l.isles).flatMap (fun x => (h.isleCores x.2).map (fun co => (x.1, co)))
    let h' := h.setLaunch l
    let h' := if same then h'.restoreCores q l sp.req.imgva cores else some (h'.prepareAll l)
    h'.map (fun h =>
      let h := cores.foldl (fun h x => h.clearDirty x.2) h
      let h := rings.foldl (fun h r => h.restoreRing r) h
      if nextf = 0xFFFF ∧ cs = [] then h.endLaunch l 1 else h)
  | _, _, _ => none

/-- A launch whose checks have passed starts on the isles it takes (R346, R379); none when its image cannot be read. -/
def Hw.startLaunch (h : Hw) (q place lid : Nat) (sp : Spec) (isles : List Nat) (r : Option Refine) : Option Hw :=
  let (ctxs, h) := h.takeIsles (h.queue q).rootpa isles
  let l := h.newLaunch q place lid sp isles ctxs
  let l := match r with
    | some r => l.inherit r
    | none => l
  match sp.image with
  | none => some (h.beginLaunch l)
  | some b => h.resumeLaunch q sp l b

end Sys2Proof.Machine
end

