-- ==== Sys2Proof/Machine/Issue.lean ====
section
/-! DEFINITION. The issue stage (R340, R345) and the packets (R344, R346, R349-R352), the refinement block (R353-R356). -/

namespace Sys2Proof.Machine

/-! ### The refinement block: its fields -/

/-- Timetable address of a run: 0 FACT, 1 SOLVE, 2 RESID, 3 NORM in packet order (R353), by run number of R354. -/
def runTable (b : List Byte) (run : Nat) : Nat :=
  match run with
  | 0 => fieldAt b 16 8
  | 1 => fieldAt b 32 8
  | 2 => fieldAt b 40 8
  | _ => fieldAt b 24 8

/-- An FP32 threshold: positive and finite (R353). -/
def threshOk (n : Nat) : Bool := decide (0 < n) && decide (n < 0x7F800000)

/-- What a run of a REFINE asks for (R353). -/
def refineReq (b : List Byte) (run : Nat) (resume : Bool) : LaunchReq :=
  let mode := fieldAt b 100 1
  { ldesc := fieldAt b 8 8, ttva := runTable b run, seed := BitVec.ofNat 64 (fieldAt b 88 8), minisl := fieldAt b 96 2
    maxisl := fieldAt b 98 2, mode := if resume then mode else mode - mode / 8 % 2 * 8, lidfix := fieldAt b 101 1
    lidreq := fieldAt b 102 2, flogva := fieldAt b 112 8, recva := fieldAt b 120 8
    imgva := if resume then fieldAt b 104 8 else 0 }

/-- RESUME of a REFINE's MODE (R353). -/
def refineResume (b : List Byte) : Bool := fieldAt b 100 1 / 8 % 2 == 1

/-- The state block of a REFINE (R354), as 64 bytes; zeros where it cannot be read. -/
def Hw.refineState (h : Hw) (q : Nat) (b : List Byte) : List Byte :=
  (h.readGrant q (fieldAt b 72 8) 64).getD (List.replicate 64 0)

/-- The checks and the specification of a run (R353, R355): in a FACT run every entry takes the rung's set. -/
def Hw.prepRun (h : Hw) (q : Nat) (b : List Byte) (run rung : Nat) (resume : Bool) : Qf Spec := do
  let sp ← h.prepLaunch q (refineReq b run resume)
  if run != 0 then .ok sp
  else do
    let set ← h.qRead q (fieldAt b 64 8 + 64 * rung) 64
    .ok { sp with fts := some ((List.range 16).map (fun i => BitVec.ofNat 32 (fieldAt set (4 * i) 4))) }

/-- The checks of a REFINE at issue (R353-R355): its first run, with the run's specification. -/
def Hw.prepRefine (h : Hw) (q : Nat) (b : List Byte) : Qf (Nat × Spec) := do
  let x := h.queue q
  let res := refineResume b
  let nrung := fieldAt b 62 1
  qNeed (threshOk (fieldAt b 48 4) && threshOk (fieldAt b 52 4) && threshOk (fieldAt b 56 4) && fieldAt b 60 2 != 0
    && decide (1 ≤ nrung) && decide (nrung ≤ 4) && fieldAt b 63 1 == 0 && fieldAt b 64 8 % 64 == 0
    && fieldAt b 72 8 % 64 == 0 && fieldAt b 80 8 % 64 == 0 && (res || fieldAt b 104 8 == 0)) 1
  qNeed (x.grants (fieldAt b 64 8) (64 * nrung) pLd) 3 (fieldAt b 64 8)
  qNeed (x.grants (fieldAt b 72 8) 64 (pLd ||| pSt)) 3 (fieldAt b 72 8)
  qNeed (x.grants (fieldAt b 80 8) 64 pSt) 3 (fieldAt b 80 8)
  if !res then do
    let sp ← h.prepRun q b 0 0 false
    .ok (0, sp)
  else do
    let st ← h.qRead q (fieldAt b 72 8) 64
    let run := fieldAt st 22 1
    let rung := fieldAt st 20 1
    qNeed (decide (run < 4) && decide (rung < nrung)) 1
    let sp ← h.prepRun q b run rung true
    .ok (run, sp)

/-! ### The issue stage -/

/-- The condition of a WAITVALUE (R351); none when the word cannot be read. -/
def Hw.waitHolds (h : Hw) (q : Nat) (b : List Byte) : Option Bool :=
  (h.readGrant q (fieldAt b 8 8) 8).map (fun w =>
    let x := leNat w &&& fieldAt b 24 8
    let v := fieldAt b 16 8
    match fieldAt b 32 1 with
    | 0 => x == v
    | 1 => x != v
    | 2 => decide (v ≤ x)
    | _ => decide (x < v))

/-- The packet at the issue point of a queue that may issue. -/
def Hw.headPacket (h : Hw) (q : Nat) : Option Packet :=
  if h.mapped q && !(h.dbSlot q).halt then ((h.queue q).look.head?).filter (fun p => p.bad == 0) else none

/-- The packet at the issue point may issue now, whatever the other queues hold (R344-R346, R351). -/
def Hw.issuable (h : Hw) (q : Nat) : Bool :=
  match h.headPacket q with
  | none => false
  | some p =>
    if (h.queue q).starting.isSome then false
    else match pktType p.bytes with
    | 1 => match h.prepLaunch q (launchReq p.bytes) with
      | .ok sp => (h.allocate q sp none).isSome
      | .error _ => true
    | 4 => (h.queue q).joined p
    | 6 => (h.queue q).running.isEmpty
    | 7 => (h.waitHolds q p.bytes).getD true
    | 9 => match h.prepRefine q p.bytes with
      | .ok (_, sp) => (h.allocate q sp none).isSome
      | .error _ => true
    | _ => true

/-- Ticks since a queue last issued, or was mapped (R340). -/
def Hw.waited (h : Hw) (q : Nat) : Nat := (h.tick - (h.queue q).lastIssue).toNat

/-- The effective level of a queue (R340). -/
def Hw.level (h : Hw) (q : Nat) : Nat := (h.queue q).prio - h.waited q / max h.cfg.age 1

/-- Queue a goes before queue b (R340): lower level, then least recently issued, then lower number. -/
def Hw.before (h : Hw) (a b : Nat) : Bool :=
  if h.level a ≠ h.level b then decide (h.level a < h.level b)
  else if (h.queue a).lastIssue ≠ (h.queue b).lastIssue then (h.queue a).lastIssue.ult (h.queue b).lastIssue
  else decide (a < b)

/-- The queues that hold a slot. -/
def Hw.mappedQueues (h : Hw) : List Nat := h.quays.flatMap (fun y => y.2.slots.map (fun s => s.2.q))

/-- The issue stage picks this queue (R340). -/
def Hw.wins (h : Hw) (q : Nat) : Bool := h.mappedQueues.all (fun p => p == q || !h.issuable p || h.before q p)

/-- A packet of a type at the issue point: it faults when its checks fail; it issues, when `ready` and picked, with its
effect; an effect that cannot be made is a queue fault of the code (R340, R345, R357). -/
def Hw.issueWith {α : Type} (h : Hw) (q type : Nat) (check : Hw → Packet → Qf α) (ready : Hw → Packet → α → Bool)
    (act : Hw → Packet → α → Bool × Hw) (code : BitVec 4) : Hw :=
  match h.headPacket q with
  | none => h
  | some p =>
    if pktType p.bytes != type || (h.queue q).starting.isSome then h
    else
      let h := h.meetErrs (fun h => (check h p).isOk)
      match check h p with
      | .error e => (h.noteGrant q e.addr e.len).faultHead q (BitVec.ofNat 4 e.code)
      | .ok x =>
        if !ready h p x || !h.wins q then h
        else match act h p x with
          | (true, h) => h
          | (false, h) => h.faultHead q code

/-! ### JOIN, COPY, SIGNAL, WAITVALUE -/

/-- JOIN: issues once the packet that it names has completed (R344). -/
def execJoin (q : Nat) (s : State) : Out :=
  .next (s.attempt (fun h => h.issueWith q 4 (fun _ p => qNeed (fieldAt p.bytes 8 2 != 0 && zeroFrom p.bytes 10) 1)
    (fun h p _ => (h.queue q).joined p) (fun h p _ => (true, h.issueHead q p false)) 1))

/-- The checks of a COPY (R349, R357): its source bytes. -/
def Hw.checkCopy (h : Hw) (q : Nat) (b : List Byte) : Qf (List Byte) := do
  let x := h.queue q
  let src := fieldAt b 8 8
  let dst := fieldAt b 16 8
  let n := fieldAt b 24 8
  qNeed (zeroFrom b 32) 1
  qNeed (x.grants src n pLd) 3 src
  qNeed (x.grants dst n pSt) 3 dst
  if n = 0 then .ok [] else h.qRead q src n

/-- COPY: LEN bytes move as through a buffer, lines written carrying SV = 0; it issues at once and is complete (R345, R349). -/
def execCopy (q : Nat) (s : State) : Out :=
  .next (s.attempt (fun h => h.issueWith q 5 (fun h p => h.checkCopy q p.bytes) (fun _ _ _ => true)
    (fun h p data =>
      let x := h.queue q
      match h.writeVa (x.master q) x.rootpa (fieldAt p.bytes 16 8) data with
      | (true, h) => (true, h.issueHead q p false)
      | r => r) 3))

/-- The checks of a SIGNAL (R350, R357). -/
def Hw.checkSignal (h : Hw) (q : Nat) (b : List Byte) : Qf Unit := do
  let a := fieldAt b 8 8
  qNeed (a % 8 == 0 && decide (fieldAt b 24 1 < 2) && zeroFrom b 25) 1
  qNeed ((h.queue q).grants a 8 pSt) 3 a

/-- A value is added at the home slice (R350); an addition at quay register space is no doorbell write (R96). -/
def Hw.addVa (h : Hw) (m : Master) (root va : Nat) (v : Nat) : Bool × Hw :=
  match h.paOf root va false with
  | none => (false, h)
  | some pa => match paTarget pa with
    | .line => h.writeVa m root va (leBytes 8 (h.num pa 8 + v))
    | .bell n => (false, h.onQuay (n / 256) (fun y => { y with acc := y.acc.deny m opAtom (n * 65536 + pa % 65536) }))
    | .nothing => (false, h)

/-- SIGNAL: once every earlier packet has completed it stores VALUE, or adds it at the home slice (R345, R350). -/
def execSignal (q : Nat) (s : State) : Out :=
  .next (s.attempt (fun h => h.issueWith q 6 (fun h p => h.checkSignal q p.bytes)
    (fun h _ _ => (h.queue q).running.isEmpty)
    (fun h p _ =>
      let x := h.queue q
      let m := x.master q
      let a := fieldAt p.bytes 8 8
      let v := fieldAt p.bytes 16 8
      match (if fieldAt p.bytes 24 1 = 0 then h.writeVa m x.rootpa a (leBytes 8 v) else h.addVa m x.rootpa a v) with
      | (true, h) => (true, h.issueHead q p false)
      | r => r) 3))

/-- The checks of a WAITVALUE (R351, R357): whether its condition holds. -/
def Hw.checkWait (h : Hw) (q : Nat) (b : List Byte) : Qf Bool := do
  let a := fieldAt b 8 8
  qNeed (a % 8 == 0 && decide (fieldAt b 32 1 < 4) && fieldAt b 33 3 == 0 && zeroFrom b 40) 1
  match h.waitHolds q b with
  | some x => .ok x
  | none => .error { code := 3, addr := a, len := 8 }

/-- The harbour reads the word of a WAITVALUE at the issue point; it issues when the condition holds (R351). -/
def Hw.pollWait (h : Hw) (q : Nat) : Hw :=
  h.issueWith q 7 (fun h p => h.checkWait q p.bytes) (fun _ _ ok => ok) (fun h p _ => (true, h.issueHead q p false)) 3

/-- WAITVALUE: it holds the issue stage until its condition holds (R351). -/
def execWaitvalue (q : Nat) (s : State) : Out := .next (s.attempt (fun h => h.pollWait q))

/-- WAITVALUE_POLL: the harbour re-reads the word (R351). -/
def execWaitvaluePoll (q : Nat) (s : State) : Out := .next (s.attempt (fun h => h.pollWait q))

/-- WAITVALUE_TIMEOUT: a wait that passes TIMEOUT raises queue fault 5 (R351). -/
def execWaitvalueTimeout (q : Nat) (s : State) : Out :=
  let h := s.toHw
  match h.headPacket q, (h.queue q).waitFrom with
  | some p, some t =>
    let limit := fieldAt p.bytes 36 4
    if pktType p.bytes = 7 ∧ limit ≠ 0 ∧ limit < (h.tick - t).toNat ∧ h.waitHolds q p.bytes = some false then
      .next (s.attempt (fun h => h.faultHead q 5))
    else .next s
  | _, _ => .next s

/-! ### LAUNCH and PREEMPT -/

/-- The outcome of a start: none leaves what stood before, with what the readings of the image have met. -/
def ifStarted (h : Hw) (q : Nat) (sp : Spec) (isles : List Nat) (r : Option Hw) : Bool × Hw :=
  match r with
  | some h => (true, h)
  | none => (false, h.noteImage q sp isles)

/-- The isles of the packet at the head are allocated: it issues when its first frame starts (R345). -/
def Hw.holdHead (h : Hw) (q lid : Nat) : Hw := h.onQueue q (fun x => { x with starting := some lid })

/-- LAUNCH: once its isles and LID are there the launch begins on them; the packet issues when the first frame starts (R345,
R346, R379). -/
def execLaunch (q : Nat) (s : State) : Out :=
  .next (s.attempt (fun h => h.issueWith q 1 (fun h p => h.prepLaunch q (launchReq p.bytes))
    (fun h _ sp => (h.allocate q sp none).isSome)
    (fun h p sp => match h.allocate q sp none with
      | some (lid, isles) => ifStarted h q sp isles ((h.holdHead q lid).startLaunch q p.place lid sp isles none)
      | none => (false, h)) 3))

/-- What a PREEMPT names (R352). -/
inductive Preempted where
  | launch (l : Launch)
  | block (r : Refine)

/-- The checks of a PREEMPT (R352, R357): a running launch of the queue, or a REFINE block between two runs. -/
def Hw.checkPreempt (h : Hw) (q : Nat) (b : List Byte) : Qf Preempted := do
  let x := h.queue q
  let lid := fieldAt b 8 2
  let mode := fieldAt b 10 1
  let img := fieldAt b 16 8
  qNeed (decide (mode < 2) && fieldAt b 11 5 == 0 && zeroFrom b 24) 1
  match (h.launch? lid).filter (fun l => l.q == q), h.refines.find? (fun r => r.lid == lid && r.q == q) with
  | some l, _ => do
    qNeed (mode == 1 || x.grants img 256 pSt) 3 img
    .ok (.launch l)
  | none, some r => do
    qNeed (mode == 1 || x.grants img 256 pSt) 3 img
    .ok (.block r)
  | none, none => .error { code := 1 }

/-- PREEMPT: MODE 0 stops the launch at its next boundary with an image, MODE 1 aborts it; it completes as the launch has
stopped (R345, R352). -/
def execPreempt (q : Nat) (s : State) : Out :=
  .next (s.attempt (fun h => h.issueWith q 8 (fun h p => h.checkPreempt q p.bytes) (fun _ _ _ => true)
    (fun h p x =>
      let save := fieldAt p.bytes 10 1 == 0
      let img := fieldAt p.bytes 16 8
      let me := (q, p.place)
      let h := h.issueHead q p true
      (true, match x with
        | .launch l =>
          if save then h.onLaunch l.lid (fun l => { l with preempt := some img, awaited := l.awaited ++ [me] })
          else (h.onLaunch l.lid (fun l => { l with awaited := l.awaited ++ [me] })).failLaunch l.lid { kind := 4, tick := h.tick }
        | .block r =>
          { h with refines := h.refines.map (fun y =>
              if y = r then
                (if save then { y with preempt := some img, awaited := y.awaited ++ [me] }
                else { y with ended := some 2, awaited := y.awaited ++ [me] })
              else y) })) 1))

/-! ### REFINE -/

/-- Bytes 16 to 63 of a state block (R354), written after each run; a dropped write is remembered (R405). -/
def Hw.writeRefine (h : Hw) (r : Refine) (k rung stag next : Nat) (fresh : Bool) (prev : Nat) (causes : List Nat) : Bool × Hw :=
  let x := h.queue r.q
  h.writeVa (x.master r.q) x.rootpa (fieldAt r.bytes 72 8 + 16)
    (leBytes 4 k ++ leBytes 1 rung ++ leBytes 1 stag ++ leBytes 1 next ++ leBytes 1 fresh.toNat ++ leBytes 4 prev
      ++ causes.flatMap (leBytes 1) ++ List.replicate 32 0)

/-- A REFINE block changed in the list of blocks. -/
def Hw.setRefine (h : Hw) (old new : Refine) : Hw := { h with refines := h.refines.map (fun r => if r = old then new else r) }

/-- REFINE: as a LAUNCH, for its first run; without RESUME its state block begins as R355 says (R353). -/
def execRefine (q : Nat) (s : State) : Out :=
  .next (s.attempt (fun h => h.issueWith q 9 (fun h p => h.prepRefine q p.bytes) (fun h _ x => (h.allocate q x.2 none).isSome)
    (fun h p x => match h.allocate q x.2 none with
      | none => (false, h)
      | some (lid, isles) =>
        let r : Refine := { q := q, place := p.place, bytes := p.bytes, lid := lid, run := x.1, thr := Config.noThr }
        let (ok, g) := if refineResume p.bytes then (true, h) else h.writeRefine r 0 0 0 0 true 0 [0, 0, 0, 0]
        let r := { r with stateOk := ok }
        ifStarted h q x.2 isles (({ g.holdHead q lid with refines := g.refines ++ [r] } : Hw).startLaunch q p.place lid x.2 isles (some r))) 3))

/-- What the controller decides after a NORM run (R355). -/
inductive Verdict where
  | exit (code : Nat)
  | fact (cause : Nat)
  | solve
  deriving DecidableEq, Repr

/-- x > y, false when either is a NaN (R355). -/
def FVal.gt (x y : FVal) : Bool := x.ord y == some .gt

/-- THR := TOL * (NA * NX + NB) in binary64 (R355). -/
def refineThr (b st : List Byte) : FVal :=
  let f := fun (b : List Byte) (o : Nat) => f32Val (BitVec.ofNat 32 (fieldAt b o 4))
  ((f b 48).mul ((((f st 4).mul (f st 8)).round64.add (f st 12)).round64)).round64

/-- The loop body of R355 on the state block: STAG after it, and the verdict. -/
def refineStep (b st : List Byte) : Nat × Verdict :=
  let f := fun (b : List Byte) (o : Nat) => f32Val (BitVec.ofNat 32 (fieldAt b o 4))
  let nr := f st 0
  let prev := f st 24
  let stag := fieldAt st 21 1
  let rung := fieldAt st 20 1
  let stale := fieldAt st 23 1 % 2 == 0
  let le := match nr.ord (refineThr b st) with
    | some .lt | some .eq => true
    | _ => false
  if le then (stag, .exit (if rung = 0 then 0 else fieldAt st (28 + rung - 1) 1))
  else
    let isNan := nr == FVal.nan
    let past := fun (o : Nat) => FVal.gt nr (((f b o).mul prev).round64)
    let (stag, cause) :=
      if isNan || (stale && past 56) then (stag, 2)
      else if stale && past 52 then (stag + 1, if stag + 1 = 2 then 1 else 0)
      else (0, 0)
    if cause ≠ 0 then (stag, if rung + 1 = fieldAt b 62 1 then .exit 3 else .fact cause)
    else (stag, if fieldAt st 16 4 = fieldAt b 60 2 then .exit 4 else .solve)

/-- A REFINE block is over: its packet and the PREEMPTs that wait for it complete (R345). -/
def Hw.dropRefine (h : Hw) (r : Refine) : Hw :=
  let h := { h with refines := h.refines.filter (fun x => x != r) }
  r.awaited.foldl (fun h p => h.completePlace p.1 p.2) (h.completePlace r.q r.place)

/-- The result record is written, and REFINE completes (R356, R405). -/
def Hw.exitRefine (h : Hw) (r : Refine) (code : Nat) : Hw :=
  let x := h.queue r.q
  let st := h.refineState r.q r.bytes
  let rec_ := leBytes 1 code ++ st.extract 20 21 ++ leBytes 2 0 ++ st.extract 16 20 ++ st.extract 0 4 ++ leBytes 4 0
    ++ leBytes 8 r.thr.toNat ++ st.extract 28 32 ++ leBytes 4 0 ++ leBytes 8 h.tick.toNat ++ List.replicate 24 0
  (h.writeVa (x.master r.q) x.rootpa (fieldAt r.bytes 80 8) rec_).2.dropRefine r

/-- The next run of a block starts, or waits for isles; one that the checks refuse ends the block with exit 5 and a KIND 7
record (R353, R355, R372). -/
def Hw.nextRun (h : Hw) (r : Refine) : Hw :=
  let x := h.queue r.q
  let rung := fieldAt (h.refineState r.q r.bytes) 20 1
  let h := h.meetErrs (fun h => (h.prepRun r.q r.bytes r.run rung false).isOk)
  match h.prepRun r.q r.bytes r.run rung false with
  | .error e =>
    let f : FaultRec := { kind := 7, tick := h.tick, body := detField 32 1 e.code ||| detField 40 8 e.addr }
    let log := fieldAt r.bytes 112 8
    let i := r.nrec.toNat
    ((h.noteGrant r.q e.addr e.len).putFault r.q (x.master r.q) x.rootpa log i 0 (x.grants (log + 64 + 64 * i) 64 pSt) f).exitRefine r 5
  | .ok sp =>
    match h.allocate r.q sp (some r.lid) with
    | none => h
    | some (lid, isles) =>
      let g := { r with going := true, preempt := none, awaited := [] }
      match (h.setRefine r g).startLaunch r.q r.place lid sp isles (some r) with
      | some h => h
      | none => h

/-- A run that completed: the controller's fields are written, and the block exits or its next run is due (R354, R355). -/
def Hw.afterRun (h : Hw) (r : Refine) : Hw :=
  let st := h.refineState r.q r.bytes
  let k := fieldAt st 16 4
  let rung := fieldAt st 20 1
  let fresh := fieldAt st 23 1 % 2 == 1
  let causes := (List.range 4).map (fun i => fieldAt st (28 + i) 1)
  let go := fun (h : Hw) (r' : Refine) (k rung stag next : Nat) (fresh : Bool) (prev : Nat) (causes : List Nat) =>
    let (ok, h) := h.writeRefine r k rung stag next fresh prev causes
    let r' := { r' with run := next, ended := none, stateOk := ok }
    let h := h.setRefine r r'
    if ok then h.nextRun r' else h.exitRefine r' 5
  if r.run != 2 then
    go h r (if r.run = 3 then k + 1 else k) rung (fieldAt st 21 1) (if r.run = 1 then 2 else 1) fresh (fieldAt st 24 4) causes
  else
    let r1 := { r with thr := f64Of (refineThr r.bytes st) }
    match refineStep r.bytes st with
    | (stag, .exit code) =>
      let (ok, h) := h.writeRefine r k rung stag 2 fresh (fieldAt st 24 4) causes
      (h.setRefine r r1).exitRefine r1 (if ok then code else 5)
    | (_, .fact cause) => go h r1 k (rung + 1) 0 0 true (fieldAt st 24 4) (causes.set rung cause)
    | (stag, .solve) => go h r1 k rung stag 3 false (fieldAt st 0 4) causes

/-- A MODE 0 stop of a run (R354): the controller writes the state block as it stands, and the block is over without a result
record; when that write, or an earlier one, is dropped, it ends with exit 5 (R405). -/
def Hw.stopRefine (h : Hw) (r : Refine) : Hw :=
  let x := h.queue r.q
  let (ok, h) := h.writeVa (x.master r.q) x.rootpa (fieldAt r.bytes 72 8 + 16) ((h.refineState r.q r.bytes).drop 16)
  if ok && r.stateOk then h.dropRefine r else h.exitRefine r 5

/-- What follows the run of a block that has ended, or whose next run waits for isles (R353-R356): its state block is read first. -/
def Hw.runEnds (h : Hw) (r : Refine) : Hw :=
  let va := fieldAt r.bytes 72 8
  let h := h.meetErrs (fun h => (h.readGrant r.q va 64).isSome)
  let h := if (h.readGrant r.q va 64).isSome then h else h.noteGrant r.q va 64
  match r.ended with
  | none => h.nextRun r
  | some st =>
    if st = 3 then h.stopRefine r
    else if st != 1 || !r.stateOk then h.exitRefine r 5
    else h.afterRun r

/-- REFINE_RUN_END: a run of a queue's block has ended, or its next run waits for isles (R353-R356). -/
def execRefineRunEnd (q : Nat) (s : State) : Out :=
  match s.toHw.refines.find? (fun r => r.q == q && !r.going) with
  | none => .next s
  | some r => .next (s.attempt (fun h => h.runEnds r))

end Sys2Proof.Machine
end

