-- ==== Sys2Proof/Machine/Regs.lean ====
section
/-! DEFINITION. Writes of the management path (R380-R382): the register maps with their Access columns (R9), and the ring
descriptors (R270). -/

namespace Sys2Proof.Machine

/-- A writable register that covers an offset: where it begins, its bytes, what it reads, and the effect of a write of all
of it (R9: fields that are read-only keep their state). -/
structure RegHere where
  base : Nat
  size : Nat
  old : Nat
  put : Nat → Hw

/-- Bits `lo` to `lo + n - 1` of a number. -/
def bitField (v lo n : Nat) : Nat := v / 2 ^ lo % 2 ^ n

/-- Bytes of a register replaced from a position on. -/
def splice (old size at_ : Nat) (bs : List Byte) : Nat :=
  let o := leBytes size old
  leNat (o.take at_ ++ bs ++ o.drop (at_ + bs.length))

/-- The register of an array of registers that covers an offset: first offset, size, count. -/
def inArray (off base size count : Nat) : Option Nat :=
  if base ≤ off ∧ off < base + size * count then some ((off - base) / size) else none

/-! ### Ring descriptors -/

/-- A descriptor's writable fields as a write gives them (R270). -/
def Ring.written (v : Nat) : Ring :=
  { nslot := BitVec.ofNat 16 (bitField v 48 16), slog := BitVec.ofNat 4 (bitField v 44 4), base := BitVec.ofNat 15 (bitField v 25 15)
    owner := BitVec.ofNat 16 (bitField v 4 16), v := v % 2 == 1 }

/-- The end of a ring's extent (R270). -/
def Ring.fin (r : Ring) : Nat := 256 * r.base.toNat + r.nslot.toNat * r.slotSize

/-- A written descriptor that would allocate a ring is ignored (R270). -/
def Hw.ringRefused (h : Hw) (site ring : Nat) (r : Ring) : Bool :=
  r.nslot == 0 || decide (32768 < r.nslot.toNat) || decide (8 < r.slog.toNat) || decide (2 ^ 23 < r.fin)
    || h.rings.any (fun e => e.1 / 1024 == site && e.1 != ringKey site ring && e.2.v
        && decide (256 * e.2.base.toNat < r.fin) && decide (256 * r.base.toNat < e.2.fin))

/-- A launch holds a ring (R270). -/
def Hw.ringHeld (h : Hw) (site ring : Nat) : Bool :=
  let r := h.ring site ring
  r.v && (h.launch? r.owner.toNat).isSome

/-- A write of a descriptor (R270): while no launch holds the ring; every write that sets V, and every 1-to-0 change of V,
zeroes the counts and the closed bits. -/
def Hw.writeRing (h : Hw) (site ring v : Nat) : Hw :=
  let r := Ring.written v
  if h.ringHeld site ring || (r.v && h.ringRefused site ring r) then h
  else h.onRing site ring (fun o =>
    if r.v || o.v then r else { r with putseq := o.putseq, getseq := o.getseq, pcl := o.pcl, ccl := o.ccl })

/-- RINGDESC_WRITE: a descriptor write allocates or frees a ring (R270, R315). -/
def execRingdescWrite (site ring : Nat) (v : BitVec 128) (s : State) : Out :=
  .next (s.upd (fun h => h.writeRing site ring v.toNat))

/-! ### Access tables, windows, routes -/

/-- The writable bits of an access-table entry (R97). -/
def accMask : BitVec 128 := 0xffffffffffffffff0000ffffffe07f01#128

/-- The writable bits of a window entry (R277). -/
def winMask : BitVec 128 := 0xfffffffffffffffffff8000000000007#128

/-- An access table with an entry written (R97); admission of earlier requests is past (R98). -/
def AccTable.put (t : AccTable) (i v : Nat) : AccTable :=
  { t with entries := tabPut (BitVec.ofNat 128 v &&& accMask) i t.entries }

/-- The register of a table that covers an offset. -/
def accReg (t : AccTable) (base off : Nat) (put : AccTable → Hw) : Option RegHere :=
  (inArray off base 16 64).map (fun i => ⟨base + 16 * i, 16, (tabGet 0 t.entries i).toNat, fun v => put (t.put i v)⟩)

/-- ROUTE, both generations, and RTGEN of a table (R281, R282). -/
def Hw.routeReg (h : Hw) (table base gen off : Nat) : Option RegHere :=
  let t := (h.table table).routes
  match inArray off base 4 16384 with
  | some i => some ⟨base + 4 * i, 4, (tabGet 0 t.tab i).toNat, fun v => h.onPort table (fun p => { p with
      routes := { p.routes with tab := tabPut (BitVec.ofNat 32 (v % 2 ^ 31)) i p.routes.tab } })⟩
  | none => (inArray off gen 4 1).map (fun _ => ⟨gen, 4, t.active.toNat, fun v =>
      (h.onPort table (fun p => { p with routes := { p.routes with active := v % 2 == 1 } })).retry table⟩)

/-! ### A core -/

/-- A core takes management writes of its registers and memory (R380): idle, or stopped. -/
def Core.open_ (k : Core) : Bool := k.task.isNone || k.stopped

/-- An entry of a queue changed; entries past the count stay absent (R381). -/
def onEntry (q : List QEntry) (e : Nat) (f : QEntry → QEntry) : List QEntry := q.modify e f

/-- A data-queue entry's four parts (R381). -/
def Hw.queueReg (h : Hw) (co : CoreId) (off : Nat) : Option RegHere :=
  let k := h.core co
  match inArray off 0x10000 0xA00 8 with
  | none => none
  | some n =>
    let e := (off - 0x10000 - 0xA00 * n) / 160
    let b := 0x10000 + 0xA00 * n + 160 * e
    let q := if n < 4 then k.xq.toList.getD n [] else k.yq.toList.getD (n - 4) []
    let put := fun (f : QEntry → QEntry) => h.onCore co (fun k =>
      if n < 4 then { k with xq := k.xq.setIfInBounds n (onEntry q e f) }
      else { k with yq := k.yq.setIfInBounds (n - 4) (onEntry q e f) })
    match q[e]? with
    | none => none
    | some x =>
      let o := off - b
      if o < 128 then
        some ⟨b, 128, x.data.bits.toNat, fun v => put (fun x => { x with data := { x.data with bits := BitVec.ofNat 1024 v } })⟩
      else if o < 132 then
        some ⟨b + 128, 4, x.data.psn.toNat, fun v => put (fun x => { x with data := { x.data with psn := BitVec.ofNat 32 v } })⟩
      else if o = 132 then
        some ⟨b + 132, 1, x.data.side.toNat, fun v => put (fun x => { x with data := { x.data with side := BitVec.ofNat 8 v } })⟩
      else if o = 133 then some ⟨b + 133, 1, x.parityOk.toNat, fun v => put (fun x => { x with parityOk := v % 2 == 1 })⟩
      else none

/-- The number of an engine in ENGINE fields (R381). -/
def engOfNat (n : Nat) : EngId := if n = 0 then .l else if n = 1 then .c else .s

/-- The kind number of a landing slot (R381). -/
def LandKind.num : LandKind → Nat
  | .ldn => 0
  | .vldn => 1
  | .tile => 2
  | .race => 3

/-- The kind of a landing slot with a number, 4 to 7 being never (R381). -/
def landKindOf (n : Nat) : Option LandKind :=
  match n with
  | 0 => some .ldn
  | 1 => some .vldn
  | 2 => some .tile
  | 3 => some .race
  | _ => none

/-- The register images of a landing slot of a kind (R381). -/
def LandKind.images : LandKind → Nat
  | .ldn | .vldn => 1
  | .tile => 0
  | .race => 5

/-- A landing slot's head as a management write leaves it, from what it held (R380, R381): its kind, with that kind's register
images, its engine, its destination and its due cycle. A kind that is never leaves the slot as it was. -/
def LSlot.headWritten (old : Option LSlot) (cyc v : Nat) : Option LSlot :=
  if v % 2 = 0 then none
  else match landKindOf (bitField v 2 3) with
    | none => old
    | some kd =>
      let x : LSlot := old.getD { kind := kd, eng := .l, dest := 0, due := 0, ord := 0 }
      some { x with
        kind := kd, arrived := bitField v 1 1 == 1, eng := engOfNat (bitField v 6 2), dest := bitField v 8 8 % 64
        due := cyc + bitField v 16 16, regs := (x.regs ++ List.replicate kd.images ({ bits := 0 } : VReg)).take kd.images }

/-- A landing slot's head, and once its data has arrived the data images and poison (R381). -/
def Hw.slotReg (h : Hw) (co : CoreId) (off : Nat) : Option RegHere :=
  let k := h.core co
  match inArray off 0x20000 0x400 32 with
  | none => none
  | some s =>
    let b := 0x20000 + 0x400 * s
    let o := off - b
    let head := fun (v : Nat) => h.onCore co (fun k => { k with
      slots := match LSlot.headWritten (tabFind k.slots s) k.cyc v with
        | some x => tabPut x s k.slots
        | none => tabDel s k.slots })
    match tabFind k.slots s with
    | none => if o < 8 then some ⟨b, 8, 0, head⟩ else none
    | some x =>
      let put := fun (x : LSlot) => h.onCore co (fun k => { k with slots := tabPut x s k.slots })
      let reg := fun (i : Nat) (f : VReg → VReg) => put { x with regs := x.regs.modify i f }
      if o < 8 then
        let old := 1 + 2 * (x.ready k).toNat + 4 * x.kind.num + 64 * engUnit x.eng + 256 * x.dest + 65536 * (x.due - k.cyc)
        some ⟨b, 8, old, head⟩
      else if !x.ready k then none
      else if 16 ≤ o ∧ o < 656 then
        let i := (o - 16) / 128
        (x.regs[i]?).map (fun r => ⟨b + 16 + 128 * i, 128, r.bits.toNat, fun v => reg i (fun r => { r with bits := BitVec.ofNat 1024 v })⟩)
      else if 656 ≤ o ∧ o < 676 then
        let i := (o - 656) / 4
        (x.regs[i]?).map (fun r => ⟨b + 656 + 4 * i, 4, r.psn.toNat, fun v => reg i (fun r => { r with psn := BitVec.ofNat 32 v })⟩)
      else none

/-- Class 0x01: a core's registers that a write may change (R364, R380, R381). -/
def Hw.coreReg (h : Hw) (co : CoreId) (off : Nat) : Option RegHere :=
  let k := h.core co
  if 0x18 ≤ off ∧ off < 0x20 then
    some ⟨0x18, 8, 0, fun v => if bitField v 1 1 = 1 ∧ k.resumable then h.onCore co Core.restart else h⟩
  else match inArray off 0x40 1 16 with
    | some i => some ⟨0x40 + i, 1, (k.tok.toList.getD i 0).toNat, fun v =>
        h.onCore co (fun k => { k with tok := k.tok.setIfInBounds i (BitVec.ofNat 8 v) })⟩
    | none =>
      if 0x15000 ≤ off ∧ off < 0x15008 then
        some ⟨0x15000, 8, packBits (fun i => (k.bq.map (·.bit)).getD i false) k.bq.length 0, fun v =>
          h.onCore co (fun k => { k with bq := k.bq.zipIdx.map (fun x => { x.1 with bit := v.testBit x.2 }) })⟩
      else (h.queueReg co off).orElse (fun _ => h.slotReg co off)

/-- The C engine's own part of an engine-register block (R382); m0 is all ones (R69). -/
def Hw.cUnitReg (h : Hw) (co : CoreId) (off : Nat) : Option RegHere :=
  let u := (h.core co).cu
  let put := fun (u : CUnit) => h.onCore co (fun k => { k with cu := u })
  let v := fun (i : Nat) (f : VReg → VReg) => put { u with v := u.v.setIfInBounds i (f (u.v.toList.getD i {})) }
  match inArray off 0x1000 128 64, inArray off 0x3000 4 64, inArray off 0x3100 1 64, inArray off 0x3140 4 8,
      inArray off 0x3160 4 16, inArray off 0x3240 2 6, inArray off 0x4000 32 256 with
  | some i, _, _, _, _, _, _ => some ⟨0x1000 + 128 * i, 128, (u.v.toList.getD i {}).bits.toNat, fun x =>
      v i (fun r => { r with bits := BitVec.ofNat 1024 x })⟩
  | _, some i, _, _, _, _, _ => some ⟨0x3000 + 4 * i, 4, (u.v.toList.getD i {}).psn.toNat, fun x =>
      v i (fun r => { r with psn := BitVec.ofNat 32 x })⟩
  | _, _, some i, _, _, _, _ => some ⟨0x3100 + i, 1, (u.v.toList.getD i {}).side.toNat, fun x =>
      v i (fun r => { r with side := BitVec.ofNat 8 x })⟩
  | _, _, _, some i, _, _, _ =>
    if i = 0 then some ⟨0x3140, 4, 0xFFFFFFFF, fun _ => h⟩
    else some ⟨0x3140 + 4 * i, 4, (u.m.toList.getD i 0).toNat, fun x => put { u with m := u.m.setIfInBounds i (BitVec.ofNat 32 x) }⟩
  | _, _, _, _, some i, _, _ => some ⟨0x3160 + 4 * i, 4, (u.ft.toList.getD i 0).toNat, fun x =>
      put { u with ft := u.ft.setIfInBounds i (BitVec.ofNat 32 x) }⟩
  | _, _, _, _, _, some i, _ => some ⟨0x3240 + 2 * i, 2, (u.nest.idx.toList.getD i 0).toNat, fun x =>
      put { u with nest := { u.nest with idx := u.nest.idx.setIfInBounds i (BitVec.ofNat 16 x) } }⟩
  | _, _, _, _, _, _, some i => (u.dq[i]?).map (fun e =>
      let head := e.tag.toNat + 256 * e.lane + 65536 * e.vals.length + 2 ^ 20 * packBits (fun j => (e.vals.getD j (0, false)).2) 4 0
      let vals := (List.range 4).foldl (fun n j => n + (e.vals.getD j (0, false)).1.toNat * 2 ^ (32 * (j + 1))) 0
      ⟨0x4000 + 32 * i, 32, head + vals, fun x =>
        let n := min 4 (bitField x 16 3)
        put { u with dq := u.dq.modify i (fun _ => { tag := BitVec.ofNat 2 x, lane := bitField x 8 5
                                                     vals := (List.range n).map (fun j =>
                                                       (BitVec.ofNat 32 (bitField x (32 * (j + 1)) 32), x.testBit (20 + j))) }) }⟩)
  | _, _, _, _, _, _, _ =>
    if 0x31A0 ≤ off ∧ off < 0x31A8 then some ⟨0x31A0, 8, u.ftidx.toNat, fun x => put { u with ftidx := BitVec.ofNat 2 x }⟩
    else if 0x3200 ≤ off ∧ off < 0x3240 then
      some ⟨0x3200, 64, u.nest.record.toNat, fun x => put { u with nest := { u.nest with record := BitVec.ofNat 512 x } }⟩
    else if 0x324C ≤ off ∧ off < 0x3250 then
      some ⟨0x324C, 4, u.nest.active.toNat, fun x => put { u with nest := { u.nest with active := x % 2 == 1 } }⟩
    else none

/-- A capability register whose bits a management write gives: a changed value loses its tag, since no write makes one (R77;
log entry 89). -/
def CReg.rewritten (c : CReg) (bits : BitVec 128) : CReg := { c with bits := bits, tag := c.tag && bits == c.bits }

/-- Class 0x02: an engine's registers (R382); g0 and p0 are constants (R69). A write never sets a tag (R77; log entry 89). -/
def Hw.engReg (h : Hw) (co : CoreId) (e : EngId) (off : Nat) : Option RegHere :=
  let k := h.core co
  let g := k.eng e
  let put := fun (g : Eng) => h.onCore co (fun k => k.setEng e g)
  match inArray off 0 8 64, inArray off 0x210 4 4, inArray off 0x230 2 5, inArray off 0x300 16 16 with
    | some i, _, _, _ =>
      if i = 0 then none
      else some ⟨8 * i, 8, (g.g.toList.getD i {}).bits.toNat, fun v =>
        put { g with g := g.g.setIfInBounds i { g.g.toList.getD i {} with bits := BitVec.ofNat 64 v } }⟩
    | _, some i, _, _ => some ⟨0x210 + 4 * i, 4, (g.lc.toList.getD i 0).toNat, fun v =>
        put { g with lc := g.lc.setIfInBounds i (BitVec.ofNat 32 v) }⟩
    | _, _, some i, _ => some ⟨0x230 + 2 * i, 2, (g.ea.toList.getD i 0).toNat, fun v =>
        put { g with ea := g.ea.setIfInBounds i (BitVec.ofNat 16 v) }⟩
    | _, _, _, some i => some ⟨0x300 + 16 * i, 16, (g.c.toList.getD i {}).bits.toNat, fun v =>
        put { g with c := g.c.setIfInBounds i ((g.c.toList.getD i {}).rewritten (BitVec.ofNat 128 v)) }⟩
    | _, _, _, _ =>
      if 0x200 ≤ off ∧ off < 0x208 then
        some ⟨0x200, 8, packBits (fun i => (g.g.toList.getD i {}).psn) 64 0, fun v =>
          put { g with g := g.g.mapIdx (fun i r => { r with psn := i != 0 && v.testBit i }) }⟩
      else if 0x208 ≤ off ∧ off < 0x210 then
        let old := packBits (fun i => i == 0 || (g.p.toList.getD i {}).bit) 8 0 + 256 * packBits (fun i => (g.p.toList.getD i {}).psn) 8 0
        some ⟨0x208, 8, old, fun v =>
          put { g with p := g.p.mapIdx (fun i r => if i = 0 then r else { bit := v.testBit i, psn := v.testBit (8 + i) }) }⟩
      else if 0x220 ≤ off ∧ off < 0x228 then some ⟨0x220, 8, g.pc.toNat, fun v => put { g with pc := BitVec.ofNat 48 v }⟩
      else if 0x228 ≤ off ∧ off < 0x230 then some ⟨0x228, 8, g.rsec.toNat, fun v => put { g with rsec := BitVec.ofNat 16 v }⟩
      else if 0x400 ≤ off ∧ off < 0x408 then
        some ⟨0x400, 8, packBits (fun i => (g.c.toList.getD i {}).tag) 16 0, fun v =>
          put { g with c := g.c.mapIdx (fun i r => { r with tag := r.tag && v.testBit i }) }⟩
      else if e = .c then h.cUnitReg co off
      else none

/-- The management path's request is admitted by a target's table (R97: OPS bit 14). -/
def admitsMgmt (t : AccTable) (addr : Nat) : Bool := t.admits (mgmtMaster 0) opMgmt addr

/-- Class 0x03: local memory and its metadata (R156, R377, R380); the slot of an active barrier stays as it is, and a write
never sets a tag (R77; log entry 89) or a mark, which R300 and R302 alone set (R301). A granule written whole holds no error in its
cells. -/
def Hw.localReg (h : Hw) (co : CoreId) (off len : Nat) : Option RegHere :=
  let k := h.core co
  let t := (h.isle co.isle).acc
  let denied := fun (addr : Nat) => h.onIsle co.isle (fun x => { x with acc := x.acc.deny (mgmtMaster 0) opMgmt addr })
  match inArray off 0 1 (2 ^ 19), inArray off 0x100000 8 2048 with
    | some i, _ =>
      let n := min len (16 - i % 16)
      let key := localKey co i
      let ok := admitsMgmt t (co.core * 2 ^ 19 + i)
      some ⟨i, n, if ok then leNat (h.bytes key n) else 0, fun v =>
        if !ok then denied (co.core * 2 ^ 19 + i)
        else if (k.barrierIn i 1).isSome then h
        else
          let h := h.write key (leBytes n v)
          if n = 16 then { h with cellErrs := h.cellErrs.filter (fun g => g != key / 16) } else h⟩
    | _, some i =>
      let key := localKey co (256 * i)
      let ok := admitsMgmt t (co.core * 2 ^ 19 + 256 * i)
      some ⟨0x100000 + 8 * i, 8, if ok then h.lineWord key else 0, fun v =>
        if !ok then denied (co.core * 2 ^ 19 + 256 * i)
        else (List.range 16).foldl (fun h j =>
          if (k.barrierIn (256 * i + 16 * j) 1).isSome then h
          else
            let p := key + 16 * j
            ((h.setFull (v.testBit j) p).setTag (h.tagAt p && v.testBit (16 + j)) p).setMark (setHas h.pmark (p / 16) && v.testBit (32 + j)) p) h⟩
    | _, _ => none

/-! ### Isles, squares, quays, ports, launches -/

/-- A tile of an insula is pending (R230). -/
def Hw.tilePending (h : Hw) (isle ins : Nat) : Bool :=
  (List.range 4).any (fun p => (h.core ⟨isle, 4 * ins + p⟩).slots.any (fun e => e.2.kind == .tile))

/-- Class 0x04: TRIM (R230). -/
def Hw.arrReg (h : Hw) (isle ins off : Nat) : Option RegHere :=
  let a := h.arr isle ins
  (inArray off 0 2 128).map (fun i => ⟨2 * i, 2, (tabGet 0x200#10 a.trim i).toNat, fun v =>
    if a.leased || h.tilePending isle ins then h
    else h.setArr isle ins { a with trim := tabPut (BitVec.ofNat 10 v) i a.trim }⟩)

/-- Records that waited enter the trap queue while there is room (R364). -/
def Isle.refillAll (x : Isle) : Isle := x.tqWait.foldl (fun x _ => x.refill) x

/-- Class 0x05: ITUCTX, ITUINV, TQHEAD (R94, R364). -/
def Hw.isleReg (h : Hw) (isle off : Nat) : Option RegHere :=
  let x := h.isle isle
  match inArray off 0x1000 8 16 with
  | some i =>
    let c := tabGet ({} : Ctx) x.ctx i
    some ⟨0x1000 + 8 * i, 8, c.root + c.en.toNat, fun v =>
      h.setIsle isle { x with ctx := tabPut { root := bitField v 12 36 * 4096, en := v % 2 == 1 } i x.ctx }⟩
  | none =>
    if 0x1080 ≤ off ∧ off < 0x1088 then
      some ⟨0x1080, 8, 0, fun v =>
        if v % 4 = 3 then h
        else h.setIsle isle { x with invs := x.invs ++ [{
          scope := BitVec.ofNat 2 v, ctx := BitVec.ofNat 4 (bitField v 12 4), va := BitVec.ofNat 32 (bitField v 16 32) }] }⟩
    else if 0x1100 ≤ off ∧ off < 0x1104 then
      some ⟨0x1100, 4, x.tqHead.toNat, fun v => h.setIsle isle ({ x with tqHead := BitVec.ofNat 32 v } : Isle).refillAll⟩
    else none

/-- Class 0x06: SLSCRUB, SLSPBASE, SLCONT and the access table (R97, R106, R262). -/
def Hw.sliceReg (h : Hw) (site slice off : Nat) : Option RegHere :=
  let x := h.slice site slice
  let put := fun (x : Slice) => h.onSlice site slice (fun _ => x)
  if off < 8 then
    some ⟨0, 8, x.cecnt.toNat + 65536 * x.interval.toNat + 2 ^ 32 * x.passes.toNat, fun v =>
      put { x with interval := BitVec.ofNat 16 (bitField v 16 16) }⟩
  else if off < 16 then
    some ⟨8, 8, 64 * x.spbase.toNat, fun v =>
      put { x with spbase := BitVec.ofNat 42 (bitField v 6 42) }⟩
  else if off < 24 then
    some ⟨16, 8, x.contq.length + 65536 * x.rsize.toNat + 2 ^ 32 * x.ring.length + 2 ^ 48 * x.lost.toNat, fun v =>
      put { x with rsize := BitVec.ofNat 16 (bitField v 16 16) }⟩
  else accReg x.acc 0x1000 off (fun t => put { x with acc := t })

/-- Class 0x07: PAGECNT and RINGDESC (R111, R270). -/
def Hw.squareReg (h : Hw) (site off : Nat) : Option RegHere :=
  match inArray off 0 8 32768, inArray off 0x40000 16 1024 with
  | some i, _ =>
    let p := tabGet ({} : PageCnt) h.pagecnt (site * 32768 + i)
    some ⟨8 * i, 8, p.cnt.toNat + 2 ^ 30 * p.dom + 2 ^ 40 * p.total.toNat, fun v =>
      h.onPage (site * 2 ^ 36 + i * 2 ^ 21) (fun _ =>
        { total := BitVec.ofNat 24 (bitField v 40 24), dom := bitField v 30 10, cnt := BitVec.ofNat 24 (bitField v 0 24) })⟩
  | _, some i => some ⟨0x40000 + 16 * i, 16, (h.ring site i).bits, fun v => h.writeRing site i v⟩
  | _, _ => none

/-- What a management read of HBM data gives: zeros where the slice's table refuses it (R97), or the line's data is not returned
(R105); a read has no side effect, so it counts nothing (R380). -/
def Hw.hbmSeen (h : Hw) (pa n : Nat) : Nat :=
  if !admitsMgmt (h.home pa).acc pa || (h.lineOf pa).bad || tabGet false h.errs (pa / 64) then 0 else leNat (h.bytes pa n)

/-- Class 0x08: HBM data (R104, R381): a management write carries no stamp; a write of part of an uncorrectable line, or one
that the slice's table refuses, is not performed (R98, R105). -/
def Hw.hbmReg (h : Hw) (site idx off len : Nat) : Option RegHere :=
  let pa := site * 2 ^ 36 + idx * 2 ^ 32 + off
  if 16 ≤ idx then none
  else
    let n := min len (64 - pa % 64)
    some ⟨off, n, h.hbmSeen pa n, fun v =>
      if !admitsMgmt (h.home pa).acc pa then h.onHome pa (fun x => { x with acc := x.acc.deny (mgmtMaster 0) opMgmt pa })
      else
        let h := h.checkCuts [(pa, n)]
        if (h.lineOf pa).bad && n != 64 then h else h.writeLine pa (leBytes n v) {}⟩

/-- A QCMD write by its OP (R338). -/
def Hw.qcmdWrite (h : Hw) (quay v : Nat) : Hw :=
  let q := v % 1024
  match bitField v 10 2 with
  | 1 => h.qcmd quay q (fun h => h.serveQueue q)
  | 2 => h.qcmd quay q (fun h => h.unmapOnce q)
  | 3 => h.qcmd quay q (fun h => if h.mapped q && (h.dbSlot q).halt then (h.unmapQueue q).mapQueue q else h)
  | _ => h

/-- Class 0x0A: QCMD and the access table (R97, R338); only Brodsyn writes DBSLOT (R336). -/
def Hw.bellReg (h : Hw) (quay off : Nat) : Option RegHere :=
  if 0x420 ≤ off ∧ off < 0x428 then some ⟨0x420, 8, 0, fun v => h.qcmdWrite quay v⟩
  else accReg (h.quay quay).acc 0x8000 off (fun t => h.onQuay quay (fun y => { y with acc := t }))

/-- Class 0x0B: ROUTE, RTGEN, PKTAB and the access table of a port (R97, R281-R283). -/
def Hw.portReg (h : Hw) (p off : Nat) : Option RegHere :=
  match h.routeReg p 0 0x10000 off, inArray off 0x10100 1 64 with
  | some r, _ => some r
  | _, some i => some ⟨0x10100 + i, 1, (tabGet 0 (h.port p).pktab i).toNat, fun v =>
      h.onPort p (fun x => { x with pktab := tabPut (BitVec.ofNat 8 v &&& 0xBF#8) i x.pktab })⟩
  | _, _ => accReg (h.port p).acc 0x11000 off (fun t => h.onPort p (fun x => { x with acc := t }))

/-- Class 0x0C: WIN and the origin table (R277, R281, R282). -/
def Hw.quayReg (h : Hw) (off : Nat) : Option RegHere :=
  match inArray off 0 16 256 with
  | some i => some ⟨16 * i, 16, (tabGet 0 h.win i).toNat, fun v => { h with win := tabPut (BitVec.ofNat 128 v &&& winMask) i h.win }⟩
  | none => h.routeReg 128 0x1000 0x20000 off

/-- Class 0x0D: LCTL of a launch's LID (R365): HOLD is set or cleared, ABORT ends the launch. -/
def Hw.lctlReg (h : Hw) (lid off : Nat) : Option RegHere :=
  (inArray off 0x20 8 1).map (fun _ => ⟨0x20, 8, (setHas h.holds lid).toNat, fun v =>
    let h := { h with holds := setPut (v % 2 == 1) lid h.holds }
    if bitField v 1 1 = 1 then h.failLaunch lid { kind := 4, tick := h.tick } else h⟩)

/-- A detour of a site's route table as the management path shows it: 4 and the port, or 0 (log entry 75). -/
def Hw.detourWord (h : Hw) (site dst : Nat) : Nat :=
  match tabFind h.detours (site * 1024 + dst) with
  | some p => 4 + p
  | none => 0

/-- Class 0x0F, which no map uses: what the manual says Brodsyn or firmware writes and gives no address (log entry 75). INDEX 0 of an
isle: the access table of its local-memory port (R97). INDEX 1: a withdrawal, its kind and two numbers (R27). INDEX 2: the
site's route table, by destination (R15, R16). -/
def Hw.extraReg (h : Hw) (site idx off : Nat) : Option RegHere :=
  match idx with
  | 0 =>
    if isleOk site then accReg (h.isle site).acc 0x1000 off (fun t => h.onIsle site (fun x => { x with acc := t })) else none
  | 1 => (inArray off 0 8 1).map (fun _ => ⟨0, 8, 0, fun v => h.withdrawAt site (bitField v 0 8) (bitField v 8 16) (bitField v 24 8)⟩)
  | 2 => (inArray off 0 4 676).map (fun d => ⟨4 * d, 4, h.detourWord site d, fun v =>
      h.askPath (if bitField v 2 1 = 1 then .detour site d (v % 4) else .direct site d)⟩)
  | _ => none

/-- The register of an address that a write may change (R380, R381): site, class, index, offset, and the bytes to write. -/
def Hw.regAt (h : Hw) (site cls idx off len : Nat) : Option RegHere :=
  match cls with
  | 1 => if isleOk site ∧ idx < 1200 then h.coreReg ⟨site, idx⟩ off else none
  | 2 => if isleOk site ∧ idx / 4 < 1200 ∧ idx % 4 < 3 then h.engReg ⟨site, idx / 4⟩ (engOfNat (idx % 4)) off else none
  | 3 => if isleOk site ∧ idx < 1200 then h.localReg ⟨site, idx⟩ off len else none
  | 4 => if isleOk site ∧ idx < 300 then h.arrReg site idx off else none
  | 5 => if isleOk site ∧ idx = 0 then h.isleReg site off else none
  | 6 => if squareOk site ∧ idx < 160 then h.sliceReg site idx off else none
  | 7 => if squareOk site ∧ idx = 0 then h.squareReg site off else none
  | 8 => if squareOk site then h.hbmReg site idx off len else none
  | 0x0A => if 676 ≤ site ∧ site < 680 ∧ idx = site - 676 then h.bellReg (site - 676) off else none
  | 0x0B => if 676 ≤ site ∧ site < 680 ∧ idx < 32 then h.portReg (32 * (site - 676) + idx) off else none
  | 0x0C => if 676 ≤ site ∧ site < 680 ∧ idx = 0 then h.quayReg off else none
  | 0x0D => if site = 676 then h.lctlReg idx off else none
  | 0x0F => if isleOk site || squareOk site then h.extraReg site idx off else none
  | _ => none

/-- A core's registers and memory take writes only while the core is idle or stopped (R380); RESUME is CCTL's own. -/
def Hw.mayWrite (h : Hw) (site cls idx off : Nat) : Bool :=
  match cls with
  | 1 => (decide (0x18 ≤ off) && decide (off < 0x20)) || (h.core ⟨site, idx⟩).open_
  | 2 => (h.core ⟨site, idx / 4⟩).open_
  | 3 => (h.core ⟨site, idx⟩).open_
  | _ => true

/-- Bytes written from an offset on, register by register; what is no writable register is left (R9). -/
def Hw.writeRegs (site cls idx : Nat) : Nat → Nat → List Byte → Hw → Hw
  | 0, _, _, h => h
  | f + 1, off, bs, h =>
    if bs.isEmpty then h
    else match h.regAt site cls idx off bs.length with
      | none => Hw.writeRegs site cls idx f (off + 1) (bs.drop 1) h
      | some r =>
        let n := r.base + r.size - off
        let h := if h.mayWrite site cls idx off then r.put (splice r.old r.size (off - r.base) (bs.take n)) else h
        Hw.writeRegs site cls idx f (off + n) (bs.drop n) h

end Sys2Proof.Machine
end

