-- ==== Sys2Proof/Machine/Boot.lean ====
section
/-! DEFINITION. The tick (R22), bring-up (R394, R395), images and records (R396, R397), identity (R398), recovery (R399),
attestation (R400), BOOTST (R401), power (R403). -/

namespace Sys2Proof.Machine

/-! ### Images and records -/

/-- A signed copy's body (R396): LEN bytes after the header. -/
def copyBody (b : List Byte) : List Byte := (b.drop 256).take (fieldAt b 8 8)

/-- D: the 64-byte digest of header bytes 0-80 followed by the body (R396). -/
def copyDigest (b : List Byte) : List Byte := Config.shake256 64 (b.take 81 ++ copyBody b)

/-- A quay's boot ROM finds a copy signed by a key slot's key (R396, R397): the key's fuse digest, its revocation fuse, the
signature. -/
def copySigned (quay : Nat) (b : List Byte) (slot : Nat) : Bool :=
  let key := (b.drop 24).take 57
  decide (256 + fieldAt b 8 8 ≤ b.length) && Config.shake256 32 key == Config.keyDigest quay slot && !Config.revoked quay slot
    && Config.ed448Verify key ((b.drop 81).take 114) (copyDigest b)

/-- The key slot of a header: SLOT[1:0] (R396, R397). -/
def copySlot (b : List Byte) : Nat := fieldAt b 16 8 % 4

/-- SVN of an image, or SEQ of a record (R396, R397). -/
def copySeq (b : List Byte) : Nat := fieldAt b 4 4

/-- A quay's boot ROM accepts an image copy (R396). -/
def romAccepts (quay : Nat) (b : List Byte) : Bool :=
  copySigned quay b (copySlot b) && decide (Config.minSvn quay ≤ copySeq b)

/-- An image is accepted by all four quays (R396, R399). -/
def imageCopyOk (b : List Byte) : Bool := (List.range 4).all (fun q => romAccepts q b)

/-- A record copy is valid (R397): configuration key slots are 4 to 7. -/
def recordCopyOk (b : List Byte) : Bool := (List.range 4).all (fun q => copySigned q b (4 + copySlot b))

/-- The copy taken of two (R396, R397): the higher number of the good ones, A when they are equal; true for B. -/
def chooseCopy (ok : List Byte → Bool) (a b : List Byte) : Option Bool :=
  match ok a, ok b with
  | true, true => some (decide (copySeq a < copySeq b))
  | true, false => some false
  | false, true => some true
  | false, false => none

/-- The image copy that the boot ROMs take (R396): each quay chooses for itself, and all four must accept the same copy. -/
def chooseImage (a b : List Byte) : Option Bool :=
  let of := fun (q : Nat) => chooseCopy (romAccepts q) a b
  if (List.range 4).all (fun q => of q == of 0) then of 0 else none

/-- Every port's PKTAB takes its reset values (R283, R397). -/
def Hw.resetPktab (h : Hw) : Hw :=
  let t := (List.range h.cfg.pktab.length).zip (h.cfg.pktab.map (· &&& 0xBF))
  (List.range 128).foldl (fun h p => h.onPort p (fun x => { x with pktab := t })) h

/-- A row of the post-package repair list is repaired, and its remap entry is free (R110); a spare row that failed itself stays
withdrawn (R108, log entry 122). -/
def Slice.repairRow (x : Slice) (bank : BitVec 6) (row : BitVec 18) : Slice :=
  { x with remap := x.remap.map (fun e =>
      if e.2.bank == bank && e.2.row == row && e.2.state == 2 then (e.1, ({} : Remap)) else e) }

/-- The configuration values are in force (R106, R283, R394). -/
def Hw.setCfg (h : Hw) (c : Cfg) : Hw :=
  let h := { h with cfg := c }
  ({ h with slices := h.slices.map (fun e => (e.1, { e.2 with interval := c.interval })) } : Hw).resetPktab

/-- The items that the bytes of a record hold (R397). -/
def itemsOf (b : List Byte) : RecItems :=
  let body := copyBody b
  { cfg := Config.cfgOf body, withdrawn := Config.recWithdrawn body, remaps := Config.recRemap body
    repair := Config.recRepair body }

/-- A record copy that is valid, with its SEQ and items (R397): one that Brodsyn wrote, or one whose signature holds. -/
def recordOf (b : List Byte) (items : Option (Nat × RecItems)) : Option (Nat × RecItems) :=
  match items with
  | some x => some x
  | none => if recordCopyOk b then some (copySeq b, itemsOf b) else none

/-- CONFIG_RECORD_SELECT: a record is accepted (R26, R108, R110, R397): values, REMAP tables, withdrawals, and its repair list, which
is applied and done with. -/
def Hw.acceptRecord (h : Hw) (b : List Byte) (seq : Nat) (x : RecItems) : Hw :=
  let h := h.setCfg x.cfg
  let h := x.remaps.foldl (fun h e => h.onSlice e.1 e.2.1 (fun x => { x with
    remap := tabPut { state := e.2.2.2.1, bank := e.2.2.2.2.1, row := e.2.2.2.2.2 } e.2.2.1 x.remap })) h
  let h := x.repair.foldl (fun h e => h.onSlice e.1 e.2.1 (fun x => x.repairRow e.2.2.1 e.2.2.2)) h
  let h := x.withdrawn.foldl (fun h e => h.withdrawAt e.1 e.2.1 e.2.2.1 e.2.2.2) h
  { h with boot := { h.boot with
    seq := seq, recDigest := copyDigest b, needRec := false, withdrawn := x.withdrawn, repair := [] } }

/-- The record of stage 1 (R397): the valid copy of higher SEQ, A when they are equal; with none, the fuse defaults and REC = 1. -/
def Hw.selectRecord (h : Hw) : Hw :=
  let x := h.boot
  let take := fun (b : Bool) (r : Nat × RecItems) =>
    ({ h with boot := { x with recCopy := b } } : Hw).acceptRecord (if b then x.recB else x.recA) r.1 r.2
  match recordOf x.recA x.itemsA, recordOf x.recB x.itemsB with
  | some a, some b => if a.1 < b.1 then take true b else take false a
  | some a, none => take false a
  | none, some b => take true b
  | none, none => ({ h with boot := { x with recCopy := true, needRec := true } } : Hw).setCfg Config.fuseCfg

/-- A record that a host supplies while bring-up waits for one (R397). -/
def Hw.supplyRecord (h : Hw) (b : List Byte) : Hw :=
  if h.boot.needRec && recordCopyOk b then h.acceptRecord b (copySeq b) (itemsOf b) else h

/-- REGISTER_WRITE: a management write of bytes at an address (R9, R380-R382): SITE, CLASS, INDEX, offset. A record that the
host supplies (R397) has no address in the maps: the model takes class 0x0E, which no map uses, for it. -/
def execRegisterWrite (addr : BitVec 64) (bytes : List Byte) (s : State) : Out :=
  let cls := (addr.extractLsb' 48 6).toNat
  if cls = 0x0E then .next (s.upd (fun h => h.supplyRecord bytes))
  else .next (s.attempt (Hw.writeRegs (addr.extractLsb' 54 10).toNat cls (addr.extractLsb' 32 16).toNat
    bytes.length (addr.extractLsb' 0 32).toNat bytes))

/-- An image runs (R396). -/
def Boot.run (x : Boot) (b : List Byte) : Boot := { x with svn := copySeq b, imgDigest := copyDigest b }

/-! ### Stages -/

/-- The 1,024 cell-pair comparisons, each read 15 times and taken by majority (R398). -/
def majorityBits : List Bool :=
  (List.range 1024).map (fun i => decide (8 ≤ ((List.range 15).filter (Config.cellReading i)).length))

/-- IDENTITY_DERIVATION (R398): the private key is the 57-byte digest of the corrected bits; without them IDOK stays 0. -/
def Boot.deriveId (x : Boot) : Boot :=
  match Config.helperCorrect majorityBits with
  | none => x
  | some bits =>
    let key := Config.shake256 57 bits
    { x with idok := true, key := key, devpub := Config.ed448Public key }

/-- The end of stage 1 (R396, R397, R399): an image and a record are taken, or the module enters recovery, which trains port 0
of quay 0. -/
def Hw.endStage1 (h : Hw) : Hw :=
  let go := fun (x : Boot) => ({ h with boot := { x with stage := 2 } } : Hw).selectRecord
  if h.boot.recov then go h.boot
  else match chooseImage h.boot.imgA h.boot.imgB with
    | some b => go { h.boot.run (if b then h.boot.imgB else h.boot.imgA) with img := b }
    | none => ({ h with boot := { h.boot with recovery := true } } : Hw).raisePort 0

/-- Every array in service awaits its first calibration (R231, R395). -/
def Hw.markAll (h : Hw) : Hw :=
  ((List.range 676).filter isleOk).foldl (fun h isle =>
    ((List.range 300).foldl (fun h ins =>
      if (h.arr isle ins).segs = 0 then h else h.onArr isle ins (fun a => { a with mark := true })) h).settlePending isle) h

/-- A causeway trains: it leads to a site, and both its ends are in service (R12, R395). -/
def Hw.trains (h : Hw) (site port : Nat) : Bool := (TrainUnit.causeway site port).ok && h.hopAlive (site, port)

/-- An array waits for its calibration: marked, with a segment and a core in service for its task (R231). -/
def Arr.awaitsCal (a : Arr) : Bool := a.mark && a.segs != 0 && a.cores != 0

/-- The work of stage 4 is over (R394, R395, log entry 95): every slice has trained, every causeway in service is at full width, every
Strait port that is wired to a module is live, and no array waits for its calibration. -/
def Hw.backgroundOver (h : Hw) : Bool :=
  (List.range 676).all (fun i => !squareOk i || (List.range 160).all (fun j => (h.slice i j).trained))
    && (List.range 2704).all (fun n => !h.trains (n / 4) (n % 4) || setHas h.cwFull n)
    && (List.range 128).all (fun p => !Config.wired p || (h.port p).up)
    && h.arrs.all (fun e => !e.2.awaitsCal)
    && h.cores.all (fun e => !e.2.queue.any (fun t => t.calib) && !(e.2.task.map (·.calib)).getD false)

/-- A stage's work ends and the next begins (R394), stage 4 once its background work is over; without a valid record bring-up stays at stage 2 (R397). -/
def Hw.endStage (h : Hw) : Hw :=
  match h.boot.stage.toNat with
  | 0 => { h with boot := { h.boot with stage := 1, ram := [] } }
  | 1 => h.endStage1
  | 2 => if h.boot.needRec then h else { h with boot := { h.boot.deriveId with stage := 3 } }
  | 3 => ({ h with boot := { h.boot with stage := 4 } } : Hw).markAll
  | 4 => if h.backgroundOver then { h with boot := { h.boot with stage := 5 } } else h
  | _ => h

/-- Power comes after it was away: the module as reset leaves it, with what the flash holds (R394, R396, R397). -/
def Hw.powerCycle (h : Hw) : Hw :=
  let x := h.boot
  { boot := { on := true, imgA := x.imgA, imgB := x.imgB, recA := x.recA, recB := x.recB, itemsA := x.itemsA, itemsB := x.itemsB } }

/-- POWER_GOOD: power is good, and stage 0 begins (R394); where it was good before, it has been away meanwhile. -/
def execPowerGood (s : State) : Out :=
  .next (s.upd (fun h => if h.boot.on then h.powerCycle else { h with boot := { h.boot with on := true } }))

/-- BOOT_STAGE_COMPLETE: the stage's work ends (R394). -/
def execBootStageComplete (s : State) : Out :=
  if s.toHw.boot.on then .next (s.upd Hw.endStage) else .next s

/-- TICK: the tick counter advances once bring-up has reached stage 3 (R22, R394). -/
def execTick (s : State) : Out :=
  if s.toHw.boot.stage < 3 then .next s else .next (s.upd (fun h => { h.leakAll with tick := h.tick + 1 }))

/-- The bytes of a table from a place on, up to the first that it does not hold. -/
def bytesFrom : Nat → Tab Byte → List Byte
  | _, [] => []
  | n, (i, b) :: t => if i = n then b :: bytesFrom (n + 1) t else []

/-- RECOVERY_IMAGE: the image that flits have carried into quay SRAM, from a place on, is verified, and boots (R399). -/
def execRecoveryImage (base : Nat) (s : State) : Out :=
  let image := bytesFrom base (s.toHw.boot.ram.filter (fun e => decide (base ≤ e.1)))
  if s.toHw.boot.recovery && imageCopyOk image then
    .next (s.upd (fun h => { h with boot := { h.boot.run image with recov := true, recovery := false } }))
  else .next s

/-- UNIT_TRAINING_COMPLETE: a slice or causeway moves to full rate from stage 3 on, a Strait port becomes live (R395). -/
def execUnitTrainingComplete (u : TrainUnit) (s : State) : Out :=
  let late := decide (3 ≤ s.toHw.boot.stage.toNat)
  match u with
  | .slice site slice =>
    if late then .next (s.upd (fun h => h.onSlice site slice (fun x => { x with trained := true }))) else .next s
  | .causeway site port =>
    if late then .next (s.upd (fun h => { h with cwFull := setAdd (site * 4 + port) h.cwFull })) else .next s
  | .strait port =>
    if (s.toHw.port port).up || !s.toHw.linksUp port then .next s else .next (s.upd (fun h => h.raisePort port))

/-! ### Attestation -/

/-- Cores in service: the sum of NCORE (R26, R400). -/
def Hw.coresInService (h : Hw) : Nat :=
  ((List.range 676).filter isleOk).foldl (fun n i =>
    (List.range 1200).foldl (fun n c => n + (h.coreInService ⟨i, c⟩).toNat) n) 0

/-- Bytes filled up with zeros to a length. -/
def padTo (n : Nat) (b : List Byte) : List Byte := b.take n ++ List.replicate (n - b.length) 0

/-- The report that answers a nonce (R400). -/
def Hw.report (h : Hw) (nonce : List Byte) : List Byte :=
  let x := h.boot
  let head := leBytes 4 1 ++ leBytes 4 x.svn ++ leBytes 8 x.seq ++ padTo 32 nonce ++ padTo 64 x.imgDigest
    ++ padTo 64 x.recDigest ++ leBytes 8 h.coresInService ++ padTo 57 x.devpub ++ leBytes 7 (if x.idok then 0 else 2)
  let sig := if x.idok then padTo 114 (Config.ed448Sign x.key (Config.shake256 64 head)) else List.replicate 114 0
  head ++ sig ++ List.replicate 22 0

/-- ATTESTATION_REQUEST: the harbour, running from stage 3, answers with a report (R394, R400). -/
def execAttestationRequest (nonce : List Byte) (s : State) : Out :=
  if s.toHw.boot.stage < 3 then .next s
  else .next (s.upd (fun h => { h with boot := { h.boot with reports := h.boot.reports ++ [h.report nonce] } }))

/-! ### Status and power -/

/-- BOOTST (R401). -/
def Hw.bootst (h : Hw) : Word :=
  let x := h.boot
  let arrcal := (h.arrs.filter (fun e => e.2.calNow == 1 || e.2.calNow == 3)).length
  let sq := ((List.range 676).filter (fun i => squareOk i && (List.range 160).all (fun j => (h.slice i j).trained))).length
  BitVec.ofNat 64 (x.stage.toNat + 16 * x.img.toNat + 32 * x.recCopy.toNat + 64 * x.recov.toNat + 128 * x.idok.toNat
    + 2 ^ 27 * sq + 2 ^ 36 * h.cwFull.length + 2 ^ 47 * arrcal)

/-- The cores of an isle have no task, running or queued (R403). -/
def Hw.isleIdle (h : Hw) (isle : Nat) : Bool :=
  h.cores.all (fun e => e.1 / 2048 != isle || (e.2.task.isNone && e.2.queue.isEmpty))

/-- ISLE_POWER_GATE: an isle that no launch holds and that is idle is gated (R403). -/
def execIslePowerGate (isle : Nat) (s : State) : Out :=
  if s.toHw.isleHeld isle || !s.toHw.isleIdle isle then .next s else .next (s.upd (fun h => h.onIsle isle (fun x => { x with gated := true })))

/-- ISLE_WAKE: a gated isle wakes, its cores prepared for the launch that holds it (R145, R403). -/
def execIsleWake (isle : Nat) (s : State) : Out :=
  if !(s.toHw.isle isle).gated then .next s
  else .next (s.attempt (fun h =>
    let h := h.onIsle isle (fun x => { x with gated := false })
    match (h.holderOf isle).bind h.launch? with
    | none => h
    | some l => (h.isleCores isle).foldl (fun h co => if (h.core co).prepFor == some l.lid then h else h.prepareFor l co) h))

end Sys2Proof.Machine
end

