-- ==== Sys2Proof/Machine/Dispatch.lean ====
section
/-! DEFINITION. The dispatch: one arm for every constructor of `Instr`. -/

namespace Sys2Proof.Machine

/-- What an instruction, or a step of the module, does. -/
def exec (i : Instr) (s : State) : Host.Outcome State Fault Refusal :=
  match i with
  | .nop => Sys2Proof.Machine.execNop s
  | .br cnd a b disp => Sys2Proof.Machine.execBr cnd a b disp s
  | .jmp disp => Sys2Proof.Machine.execJmp disp s
  | .jmpi a imm => Sys2Proof.Machine.execJmpi a imm s
  | .call disp => Sys2Proof.Machine.execCall disp s
  | .calli a imm => Sys2Proof.Machine.execCalli a imm s
  | .ret => Sys2Proof.Machine.execRet s
  | .loopLc lc disp => Sys2Proof.Machine.execLoopLc lc disp s
  | .loopNest disp => Sys2Proof.Machine.execLoopNest disp s
  | .lset lc a imm => Sys2Proof.Machine.execLset lc a imm s
  | .rep n sd s1 s2 s3 soff => Sys2Proof.Machine.execRep n sd s1 s2 s3 soff s
  | .lnest cb x sc off => Sys2Proof.Machine.execLnest cb x sc off s
  | .brq disp n => Sys2Proof.Machine.execBrq disp n s
  | .pushbq cnd a b => Sys2Proof.Machine.execPushbq cnd a b s
  | .defer va mk cnt tag => Sys2Proof.Machine.execDefer va mk cnt tag s
  | .drain a vb disp tag => Sys2Proof.Machine.execDrain a vb disp tag s
  | .post k => Sys2Proof.Machine.execPost k s
  | .await k => Sys2Proof.Machine.execAwait k s
  | .kget d k => Sys2Proof.Machine.execKget d k s
  | .trap a imm => Sys2Proof.Machine.execTrap a imm s
  | .brk imm => Sys2Proof.Machine.execBrk imm s
  | .csrr d csr => Sys2Proof.Machine.execCsrr d csr s
  | .csrw a csr => Sys2Proof.Machine.execCsrw a csr s
  | .fenceCore => Sys2Proof.Machine.execFenceCore s
  | .fenceIsle => Sys2Proof.Machine.execFenceIsle s
  | .fenceMod => Sys2Proof.Machine.execFenceMod s
  | .fenceSys => Sys2Proof.Machine.execFenceSys s
  | .doneOp => Sys2Proof.Machine.execDoneOp s
  | .dbar lv => Sys2Proof.Machine.execDbar lv s
  | .dbarA d lv => Sys2Proof.Machine.execDbarA d lv s
  | .dbarW a lv => Sys2Proof.Machine.execDbarW a lv s
  | .awaitMem d cb x sc off => Sys2Proof.Machine.execAwaitMem d cb x sc off s
  | .add d a b => Sys2Proof.Machine.execAdd d a b s
  | .sub d a b => Sys2Proof.Machine.execSub d a b s
  | .addi d a imm => Sys2Proof.Machine.execAddi d a imm s
  | .li d imm => Sys2Proof.Machine.execLi d imm s
  | .mov d a => Sys2Proof.Machine.execMov d a s
  | .mul d a b => Sys2Proof.Machine.execMul d a b s
  | .mulhS d a b => Sys2Proof.Machine.execMulhS d a b s
  | .mulhZ d a b => Sys2Proof.Machine.execMulhZ d a b s
  | .mad d a b c => Sys2Proof.Machine.execMad d a b c s
  | .divS d a b => Sys2Proof.Machine.execDivS d a b s
  | .divZ d a b => Sys2Proof.Machine.execDivZ d a b s
  | .remS d a b => Sys2Proof.Machine.execRemS d a b s
  | .remZ d a b => Sys2Proof.Machine.execRemZ d a b s
  | .and d a b => Sys2Proof.Machine.execAnd d a b s
  | .or d a b => Sys2Proof.Machine.execOr d a b s
  | .xor d a b => Sys2Proof.Machine.execXor d a b s
  | .andn d a b => Sys2Proof.Machine.execAndn d a b s
  | .shl d a b => Sys2Proof.Machine.execShl d a b s
  | .shrZ d a b => Sys2Proof.Machine.execShrZ d a b s
  | .shrS d a b => Sys2Proof.Machine.execShrS d a b s
  | .rotl d a b => Sys2Proof.Machine.execRotl d a b s
  | .clz d a => Sys2Proof.Machine.execClz d a s
  | .ctz d a => Sys2Proof.Machine.execCtz d a s
  | .popc d a => Sys2Proof.Machine.execPopc d a s
  | .minS d a b => Sys2Proof.Machine.execMinS d a b s
  | .minZ d a b => Sys2Proof.Machine.execMinZ d a b s
  | .maxS d a b => Sys2Proof.Machine.execMaxS d a b s
  | .maxZ d a b => Sys2Proof.Machine.execMaxZ d a b s
  | .sel d a b c => Sys2Proof.Machine.execSel d a b c s
  | .cmp cnd d a b => Sys2Proof.Machine.execCmp cnd d a b s
  | .cmpi cnd d a imm => Sys2Proof.Machine.execCmpi cnd d a imm s
  | .pmix d a b t => Sys2Proof.Machine.execPmix d a b t s
  | .extS8 d a => Sys2Proof.Machine.execExtS8 d a s
  | .extS16 d a => Sys2Proof.Machine.execExtS16 d a s
  | .extS32 d a => Sys2Proof.Machine.execExtS32 d a s
  | .extZ8 d a => Sys2Proof.Machine.execExtZ8 d a s
  | .extZ16 d a => Sys2Proof.Machine.execExtZ16 d a s
  | .extZ32 d a => Sys2Proof.Machine.execExtZ32 d a s
  | .addsS64 d a b => Sys2Proof.Machine.execAddsS64 d a b s
  | .bfx d a pos len sx => Sys2Proof.Machine.execBfx d a pos len sx s
  | .bfi d a pos len => Sys2Proof.Machine.execBfi d a pos len s
  | .rnd d a b c w => Sys2Proof.Machine.execRnd d a b c w s
  | .cmov d a => Sys2Proof.Machine.execCmov d a s
  | .cinc d a b => Sys2Proof.Machine.execCinc d a b s
  | .cinci d a imm => Sys2Proof.Machine.execCinci d a imm s
  | .cbound d a b => Sys2Proof.Machine.execCbound d a b s
  | .cperm d a mask => Sys2Proof.Machine.execCperm d a mask s
  | .cgetb d a => Sys2Proof.Machine.execCgetb d a s
  | .cgetl d a => Sys2Proof.Machine.execCgetl d a s
  | .cgeto d a => Sys2Proof.Machine.execCgeto d a s
  | .cgetp d a => Sys2Proof.Machine.execCgetp d a s
  | .ctest d a => Sys2Proof.Machine.execCtest d a s
  | .cle d a b => Sys2Proof.Machine.execCle d a b s
  | .cclr d => Sys2Proof.Machine.execCclr d s
  | .caddr d a b => Sys2Proof.Machine.execCaddr d a b s
  | .cld d cb x sc off => Sys2Proof.Machine.execCld d cb x sc off s
  | .cst d cb x sc off => Sys2Proof.Machine.execCst d cb x sc off s
  | .cfoot d k => Sys2Proof.Machine.execCfoot d k s
  | .ldS8 d cb x sc off => Sys2Proof.Machine.execLdS8 d cb x sc off s
  | .ldZ8 d cb x sc off => Sys2Proof.Machine.execLdZ8 d cb x sc off s
  | .ldS16 d cb x sc off => Sys2Proof.Machine.execLdS16 d cb x sc off s
  | .ldZ16 d cb x sc off => Sys2Proof.Machine.execLdZ16 d cb x sc off s
  | .ldS32 d cb x sc off => Sys2Proof.Machine.execLdS32 d cb x sc off s
  | .ldZ32 d cb x sc off => Sys2Proof.Machine.execLdZ32 d cb x sc off s
  | .ld64 d cb x sc off => Sys2Proof.Machine.execLd64 d cb x sc off s
  | .st8 d cb x sc off => Sys2Proof.Machine.execSt8 d cb x sc off s
  | .st16 d cb x sc off => Sys2Proof.Machine.execSt16 d cb x sc off s
  | .st32 d cb x sc off => Sys2Proof.Machine.execSt32 d cb x sc off s
  | .st64 d cb x sc off => Sys2Proof.Machine.execSt64 d cb x sc off s
  | .vld d cb x sc off => Sys2Proof.Machine.execVld d cb x sc off s
  | .vst d cb x sc off => Sys2Proof.Machine.execVst d cb x sc off s
  | .vldBc d cb x sc off => Sys2Proof.Machine.execVldBc d cb x sc off s
  | .vgath d cb x sc off => Sys2Proof.Machine.execVgath d cb x sc off s
  | .vscat d cb x sc off => Sys2Proof.Machine.execVscat d cb x sc off s
  | .ldfeW d cb x sc off => Sys2Proof.Machine.execLdfeW d cb x sc off s
  | .ldfeC d cb x sc off => Sys2Proof.Machine.execLdfeC d cb x sc off s
  | .vldfeW d cb x sc off => Sys2Proof.Machine.execVldfeW d cb x sc off s
  | .vldfeC d cb x sc off => Sys2Proof.Machine.execVldfeC d cb x sc off s
  | .fset d cb x sc off => Sys2Proof.Machine.execFset d cb x sc off s
  | .fclr d cb x sc off => Sys2Proof.Machine.execFclr d cb x sc off s
  | .ftest d cb x sc off => Sys2Proof.Machine.execFtest d cb x sc off s
  | .ldn d cb x sc off land => Sys2Proof.Machine.execLdn d cb x sc off land s
  | .vldn d cb x sc off land => Sys2Proof.Machine.execVldn d cb x sc off land s
  | .xget cd ob cs oa len ch tb => Sys2Proof.Machine.execXget cd ob cs oa len ch tb s
  | .xput cd ob cs oa len ch tb vs => Sys2Proof.Machine.execXput cd ob cs oa len ch tb vs s
  | .xmove cd ob cs oa len ch tb vs => Sys2Proof.Machine.execXmove cd ob cs oa len ch tb vs s
  | .xgat cd ob cs oa len v w ch tb => Sys2Proof.Machine.execXgat cd ob cs oa len v w ch tb s
  | .xsct cd ob cs oa len v w ch tb vs => Sys2Proof.Machine.execXsct cd ob cs oa len v w ch tb vs s
  | .xget2d cd ob w cs oa v len ch tb rows => Sys2Proof.Machine.execXget2d cd ob w cs oa v len ch tb rows s
  | .xput2d cd ob w cs oa v len ch tb rows vs => Sys2Proof.Machine.execXput2d cd ob w cs oa v len ch tb rows vs s
  | .xfill cd ob v len ch tb vs => Sys2Proof.Machine.execXfill cd ob v len ch tb vs s
  | .xaccAddS32 cd ob cs oa len ch => Sys2Proof.Machine.execXaccAddS32 cd ob cs oa len ch s
  | .xaccAddS64 cd ob cs oa len ch => Sys2Proof.Machine.execXaccAddS64 cd ob cs oa len ch s
  | .xaccAddF32 cd ob cs oa len ch rt => Sys2Proof.Machine.execXaccAddF32 cd ob cs oa len ch rt s
  | .xaccMinS32 cd ob cs oa len ch => Sys2Proof.Machine.execXaccMinS32 cd ob cs oa len ch s
  | .xaccMaxS32 cd ob cs oa len ch => Sys2Proof.Machine.execXaccMaxS32 cd ob cs oa len ch s
  | .xaccMinF32 cd ob cs oa len ch => Sys2Proof.Machine.execXaccMinF32 cd ob cs oa len ch s
  | .xaccMaxF32 cd ob cs oa len ch => Sys2Proof.Machine.execXaccMaxF32 cd ob cs oa len ch s
  | .xaccAnd cd ob cs oa len ch => Sys2Proof.Machine.execXaccAnd cd ob cs oa len ch s
  | .xaccOr cd ob cs oa len ch => Sys2Proof.Machine.execXaccOr cd ob cs oa len ch s
  | .xaccXor cd ob cs oa len ch => Sys2Proof.Machine.execXaccXor cd ob cs oa len ch s
  | .xfaddS32 cd ob v cl ol ch tb rt => Sys2Proof.Machine.execXfaddS32 cd ob v cl ol ch tb rt s
  | .xfaddS64 cd ob v cl ol ch tb rt => Sys2Proof.Machine.execXfaddS64 cd ob v cl ol ch tb rt s
  | .xswp cd ob v cl ol ch tb rt => Sys2Proof.Machine.execXswp cd ob v cl ol ch tb rt s
  | .xcas cd ob v w cl ol ch tb rt => Sys2Proof.Machine.execXcas cd ob v w cl ol ch tb rt s
  | .xcasGo cd ob v w cl ol ch tb task rt => Sys2Proof.Machine.execXcasGo cd ob v w cl ol ch tb task rt s
  | .xclose ch rt => Sys2Proof.Machine.execXclose ch rt s
  | .xwaitIn v ch => Sys2Proof.Machine.execXwaitIn v ch s
  | .xwaitRel v ch => Sys2Proof.Machine.execXwaitRel v ch s
  | .xwaitVis v ch => Sys2Proof.Machine.execXwaitVis v ch s
  | .xid v ch aux => Sys2Proof.Machine.execXid v ch aux s
  | .xorder => Sys2Proof.Machine.execXorder s
  | .vaddF32 vd va vb mk => Sys2Proof.Machine.execVaddF32 vd va vb mk s
  | .vsubF32 vd va vb mk => Sys2Proof.Machine.execVsubF32 vd va vb mk s
  | .vmulF32 vd va vb mk => Sys2Proof.Machine.execVmulF32 vd va vb mk s
  | .vfmaF32 vd va vb vc mk => Sys2Proof.Machine.execVfmaF32 vd va vb vc mk s
  | .vfmsF32 vd va vb vc mk => Sys2Proof.Machine.execVfmsF32 vd va vb vc mk s
  | .vfnmaF32 vd va vb vc mk => Sys2Proof.Machine.execVfnmaF32 vd va vb vc mk s
  | .vminF32 vd va vb mk => Sys2Proof.Machine.execVminF32 vd va vb mk s
  | .vmaxF32 vd va vb mk => Sys2Proof.Machine.execVmaxF32 vd va vb mk s
  | .vabsF32 vd va mk => Sys2Proof.Machine.execVabsF32 vd va mk s
  | .vnegF32 vd va mk => Sys2Proof.Machine.execVnegF32 vd va mk s
  | .vdivF32 vd va vb mk => Sys2Proof.Machine.execVdivF32 vd va vb mk s
  | .vsqrtF32 vd va mk => Sys2Proof.Machine.execVsqrtF32 vd va mk s
  | .vrcpF32 vd va mk => Sys2Proof.Machine.execVrcpF32 vd va mk s
  | .vrsqrtF32 vd va mk => Sys2Proof.Machine.execVrsqrtF32 vd va mk s
  | .vexp2F32 vd va mk => Sys2Proof.Machine.execVexp2F32 vd va mk s
  | .vlog2F32 vd va mk => Sys2Proof.Machine.execVlog2F32 vd va mk s
  | .vsinpiF32 vd va mk => Sys2Proof.Machine.execVsinpiF32 vd va mk s
  | .vcospiF32 vd va mk => Sys2Proof.Machine.execVcospiF32 vd va mk s
  | .vtanhF32 vd va mk => Sys2Proof.Machine.execVtanhF32 vd va mk s
  | .vrrpi vd va mk => Sys2Proof.Machine.execVrrpi vd va mk s
  | .vfloorF32 vd va mk => Sys2Proof.Machine.execVfloorF32 vd va mk s
  | .vrintF32 vd va mk => Sys2Proof.Machine.execVrintF32 vd va mk s
  | .vcmpF32 cc md va vb mk => Sys2Proof.Machine.execVcmpF32 cc md va vb mk s
  | .vclassF32 vd va mk => Sys2Proof.Machine.execVclassF32 vd va mk s
  | .vaddBf16 vd va vb mk => Sys2Proof.Machine.execVaddBf16 vd va vb mk s
  | .vmulBf16 vd va vb mk => Sys2Proof.Machine.execVmulBf16 vd va vb mk s
  | .vfmaBf16 vd va vb vc mk => Sys2Proof.Machine.execVfmaBf16 vd va vb vc mk s
  | .vaddS32 vd va vb mk => Sys2Proof.Machine.execVaddS32 vd va vb mk s
  | .vsubS32 vd va vb mk => Sys2Proof.Machine.execVsubS32 vd va vb mk s
  | .vmulS32 vd va vb mk => Sys2Proof.Machine.execVmulS32 vd va vb mk s
  | .vmadS16 vd va vb vc mk => Sys2Proof.Machine.execVmadS16 vd va vb vc mk s
  | .vaddsS32 vd va vb mk => Sys2Proof.Machine.execVaddsS32 vd va vb mk s
  | .vsubsS32 vd va vb mk => Sys2Proof.Machine.execVsubsS32 vd va vb mk s
  | .vminS32 vd va vb mk => Sys2Proof.Machine.execVminS32 vd va vb mk s
  | .vmaxS32 vd va vb mk => Sys2Proof.Machine.execVmaxS32 vd va vb mk s
  | .vminZ32 vd va vb mk => Sys2Proof.Machine.execVminZ32 vd va vb mk s
  | .vmaxZ32 vd va vb mk => Sys2Proof.Machine.execVmaxZ32 vd va vb mk s
  | .vand vd va vb mk => Sys2Proof.Machine.execVand vd va vb mk s
  | .vor vd va vb mk => Sys2Proof.Machine.execVor vd va vb mk s
  | .vxor vd va vb mk => Sys2Proof.Machine.execVxor vd va vb mk s
  | .vshl vd va vb mk => Sys2Proof.Machine.execVshl vd va vb mk s
  | .vshlImm vd va n mk => Sys2Proof.Machine.execVshlImm vd va n mk s
  | .vshrZ vd va vb mk => Sys2Proof.Machine.execVshrZ vd va vb mk s
  | .vshrZImm vd va n mk => Sys2Proof.Machine.execVshrZImm vd va n mk s
  | .vshrS vd va vb mk => Sys2Proof.Machine.execVshrS vd va vb mk s
  | .vshrSImm vd va n mk => Sys2Proof.Machine.execVshrSImm vd va n mk s
  | .vcmpS32 cc md va vb mk => Sys2Proof.Machine.execVcmpS32 cc md va vb mk s
  | .vcmpZ32 cc md va vb mk => Sys2Proof.Machine.execVcmpZ32 cc md va vb mk s
  | .vsel vd va vb mk => Sys2Proof.Machine.execVsel vd va vb mk s
  | .vmask md ma mb t => Sys2Proof.Machine.execVmask md ma mb t s
  | .vcvtF32S32 vd va mk => Sys2Proof.Machine.execVcvtF32S32 vd va mk s
  | .vcvtS32F32Rne vd va mk => Sys2Proof.Machine.execVcvtS32F32Rne vd va mk s
  | .vcvtS32F32Rz vd va mk => Sys2Proof.Machine.execVcvtS32F32Rz vd va mk s
  | .vcvtBf16F32 vd va vb => Sys2Proof.Machine.execVcvtBf16F32 vd va vb s
  | .vcvtF32Bf16 vd va h mk => Sys2Proof.Machine.execVcvtF32Bf16 vd va h mk s
  | .vcvtE4m3F32 vd va q => Sys2Proof.Machine.execVcvtE4m3F32 vd va q s
  | .vcvtE4m3F32Nv vd va q => Sys2Proof.Machine.execVcvtE4m3F32Nv vd va q s
  | .vcvtE5m2F32 vd va q => Sys2Proof.Machine.execVcvtE5m2F32 vd va q s
  | .vcvtF32E4m3 vd va q mk => Sys2Proof.Machine.execVcvtF32E4m3 vd va q mk s
  | .vcvtF32E5m2 vd va q mk => Sys2Proof.Machine.execVcvtF32E5m2 vd va q mk s
  | .vqmx4 vd vb va sel => Sys2Proof.Machine.execVqmx4 vd vb va sel s
  | .vqmx8 vd vb va q => Sys2Proof.Machine.execVqmx8 vd vb va q s
  | .vdqmx4 vd va vb sel mk => Sys2Proof.Machine.execVdqmx4 vd va vb sel mk s
  | .vxpS4 vd va sel mk => Sys2Proof.Machine.execVxpS4 vd va sel mk s
  | .vxpOcp4 vd va sel q => Sys2Proof.Machine.execVxpOcp4 vd va sel q s
  | .vcvtBfpF32 vd va => Sys2Proof.Machine.execVcvtBfpF32 vd va s
  | .vcvtF32Bfp vd va mk => Sys2Proof.Machine.execVcvtF32Bfp vd va mk s
  | .vperm vd va vb mk => Sys2Proof.Machine.execVperm vd va vb mk s
  | .vswpPair vd va f mk => Sys2Proof.Machine.execVswpPair vd va f mk s
  | .vrot vd va n mk => Sys2Proof.Machine.execVrot vd va n mk s
  | .vbc vd va n mk => Sys2Proof.Machine.execVbc vd va n mk s
  | .vext d va n => Sys2Proof.Machine.execVext d va n s
  | .vextMask d ma => Sys2Proof.Machine.execVextMask d ma s
  | .vins vd a n => Sys2Proof.Machine.execVins vd a n s
  | .vinsMask md a => Sys2Proof.Machine.execVinsMask md a s
  | .vli vd imm => Sys2Proof.Machine.execVli vd imm s
  | .vmov vd va mk => Sys2Proof.Machine.execVmov vd va mk s
  | .vredAddF32 vd va mk => Sys2Proof.Machine.execVredAddF32 vd va mk s
  | .vredMaxF32 vd va mk => Sys2Proof.Machine.execVredMaxF32 vd va mk s
  | .vredAddS32 vd va mk => Sys2Proof.Machine.execVredAddS32 vd va mk s
  | .vscanAddS32 vd va mk => Sys2Proof.Machine.execVscanAddS32 vd va mk s
  | .vpackS16 vd va vb => Sys2Proof.Machine.execVpackS16 vd va vb s
  | .vunpkS16 vd va h mk => Sys2Proof.Machine.execVunpkS16 vd va h mk s
  | .vcntM d ma => Sys2Proof.Machine.execVcntM d ma s
  | .vcomp vd va mk => Sys2Proof.Machine.execVcomp vd va mk s
  | .vexpd vd va mk => Sys2Proof.Machine.execVexpd vd va mk s
  | .lease n => Sys2Proof.Machine.execLease n s
  | .unlease => Sys2Proof.Machine.execUnlease s
  | .tload ab prof rows => Sys2Proof.Machine.execTload ab prof rows s
  | .tmma slot aa ab prof rows land cops => Sys2Proof.Machine.execTmma slot aa ab prof rows land cops s
  | .tmmaGa slot aa ab prof rows land cops => Sys2Proof.Machine.execTmmaGa slot aa ab prof rows land cops s
  | .tzero slot rows => Sys2Proof.Machine.execTzero slot rows s
  | .taccRd vd c clr mk => Sys2Proof.Machine.execTaccRd vd c clr mk s
  | .taccWr va c mk => Sys2Proof.Machine.execTaccWr va c mk s
  | .tshape d a prof => Sys2Proof.Machine.execTshape d a prof s
  | .ftset d a => Sys2Proof.Machine.execFtset d a s
  | .ftget d a => Sys2Proof.Machine.execFtget d a s
  | .tcal d segs => Sys2Proof.Machine.execTcal d segs s
  | .rminF32 vd va vb vc mk k land => Sys2Proof.Machine.execRminF32 vd va vb vc mk k land s
  | .rmaxF32 vd va vb vc mk k land => Sys2Proof.Machine.execRmaxF32 vd va vb vc mk k land s
  | .rminS32 vd va vb vc mk k land => Sys2Proof.Machine.execRminS32 vd va vb vc mk k land s
  | .rmaxS32 vd va vb vc mk k land => Sys2Proof.Machine.execRmaxS32 vd va vb vc mk k land s
  | .rsortF32 vd va vb vc mk k land => Sys2Proof.Machine.execRsortF32 vd va vb vc mk k land s
  | .rsortdF32 vd va vb vc mk k land => Sys2Proof.Machine.execRsortdF32 vd va vb vc mk k land s
  | .rsortS32 vd va vb vc mk k land => Sys2Proof.Machine.execRsortS32 vd va vb vc mk k land s
  | .rtopkF32 vd va vb vc mk k land => Sys2Proof.Machine.execRtopkF32 vd va vb vc mk k land s
  | .rbotkF32 vd va vb vc mk k land => Sys2Proof.Machine.execRbotkF32 vd va vb vc mk k land s
  | .rtopkS32 vd va vb vc mk k land => Sys2Proof.Machine.execRtopkS32 vd va vb vc mk k land s
  | .rmergeF32 vd va vb vc mk k land => Sys2Proof.Machine.execRmergeF32 vd va vb vc mk k land s
  | .rmergdF32 vd va vb vc mk k land => Sys2Proof.Machine.execRmergdF32 vd va vb vc mk k land s
  | .rknnF32 vd va vb vc mk k land => Sys2Proof.Machine.execRknnF32 vd va vb vc mk k land s
  | .tbinit a n nl nc ns => Sys2Proof.Machine.execTbinit a n nl nc ns s
  | .tbexpect a n => Sys2Proof.Machine.execTbexpect a n s
  | .tbarrive d a n p => Sys2Proof.Machine.execTbarrive d a n p s
  | .tbwait a n => Sys2Proof.Machine.execTbwait a n s
  | .tbtest d a n => Sys2Proof.Machine.execTbtest d a n s
  | .tbretire n => Sys2Proof.Machine.execTbretire n s
  | .sopen q r => Sys2Proof.Machine.execSopen q r s
  | .sput d q a => Sys2Proof.Machine.execSput d q a s
  | .sget d q a => Sys2Proof.Machine.execSget d q a s
  | .sclose q sel => Sys2Proof.Machine.execSclose q sel s
  | .sstat d q => Sys2Proof.Machine.execSstat d q s
  | .qput a q => Sys2Proof.Machine.execQput a q s
  | .qget d q w k => Sys2Proof.Machine.execQget d q w k s
  | .qputv va q => Sys2Proof.Machine.execQputv va q s
  | .qgetv vd q k => Sys2Proof.Machine.execQgetv vd q k s
  | .sectionEntry co e => Sys2Proof.Machine.execSectionEntry co e s
  | .taskStart co => Sys2Proof.Machine.execTaskStart co s
  | .taskRetirement co => Sys2Proof.Machine.execTaskRetirement co s
  | .landDue co slot => Sys2Proof.Machine.execLandDue co slot s
  | .freezeEnd co => Sys2Proof.Machine.execFreezeEnd co s
  | .copyCommandStart co q => Sys2Proof.Machine.execCopyCommandStart co q s
  | .copyProgress co n => Sys2Proof.Machine.execCopyProgress co n s
  | .copyVisible co n => Sys2Proof.Machine.execCopyVisible co n s
  | .xorderHead co q => Sys2Proof.Machine.execXorderHead co q s
  | .xorderLeave co q => Sys2Proof.Machine.execXorderLeave co q s
  | .pageWalkComplete isle n => Sys2Proof.Machine.execPageWalkComplete isle n s
  | .ituinvVa isle ctx va => Sys2Proof.Machine.execItuinvVa isle ctx va s
  | .ituinvContext isle ctx => Sys2Proof.Machine.execItuinvContext isle ctx s
  | .ituinvAll isle => Sys2Proof.Machine.execItuinvAll isle s
  | .ituinvComplete isle => Sys2Proof.Machine.execItuinvComplete isle s
  | .leaseGrant isle ins => Sys2Proof.Machine.execLeaseGrant isle ins s
  | .tileReady co slot rejects => Sys2Proof.Machine.execTileReady co slot rejects s
  | .raceReady co slot rejects => Sys2Proof.Machine.execRaceReady co slot rejects s
  | .calibrationMark isle ins => Sys2Proof.Machine.execCalibrationMark isle ins s
  | .sliceRequest site slice n ecc => Sys2Proof.Machine.execSliceRequest site slice n ecc s
  | .scrubLine site slice ecc => Sys2Proof.Machine.execScrubLine site slice ecc s
  | .rowTrackLeak site slice => Sys2Proof.Machine.execRowTrackLeak site slice s
  | .rowSpareStart site slice bank row => Sys2Proof.Machine.execRowSpareStart site slice bank row s
  | .spareLineCopy site slice => Sys2Proof.Machine.execSpareLineCopy site slice s
  | .atomicApply co n => Sys2Proof.Machine.execAtomicApply co n s
  | .roundRequestAccept co n => Sys2Proof.Machine.execRoundRequestAccept co n s
  | .roundCloseNotice site slice lid p => Sys2Proof.Machine.execRoundCloseNotice site slice lid p s
  | .roundApply site slice lid wave tag => Sys2Proof.Machine.execRoundApply site slice lid wave tag s
  | .atomicLanding co n => Sys2Proof.Machine.execAtomicLanding co n s
  | .monitorRequest co e => Sys2Proof.Machine.execMonitorRequest co e s
  | .monitorTimeout co e => Sys2Proof.Machine.execMonitorTimeout co e s
  | .sputPublish site ring => Sys2Proof.Machine.execSputPublish site ring s
  | .sgetCopyComplete site ring => Sys2Proof.Machine.execSgetCopyComplete site ring s
  | .entryRelease lid ent => Sys2Proof.Machine.execEntryRelease lid ent s
  | .frameScheduledEnd lid => Sys2Proof.Machine.execFrameScheduledEnd lid s
  | .slipLimit lid => Sys2Proof.Machine.execSlipLimit lid s
  | .frameComplete lid elastic => Sys2Proof.Machine.execFrameComplete lid elastic s
  | .frameStart lid => Sys2Proof.Machine.execFrameStart lid s
  | .launchAbort lid => Sys2Proof.Machine.execLaunchAbort lid s
  | .trapRecordService isle => Sys2Proof.Machine.execTrapRecordService isle s
  | .cctlResume co => Sys2Proof.Machine.execCctlResume co s
  | .lctlAbort lid => Sys2Proof.Machine.execLctlAbort lid s
  | .machineFault place => Sys2Proof.Machine.execMachineFault place s
  | .temperatureSample isle ins temp => Sys2Proof.Machine.execTemperatureSample isle ins temp s
  | .thermalGapStep isle ins => Sys2Proof.Machine.execThermalGapStep isle ins s
  | .dbnotify q n => Sys2Proof.Machine.execDbnotify q n s
  | .queueMap q => Sys2Proof.Machine.execQueueMap q s
  | .queueUnmap q => Sys2Proof.Machine.execQueueUnmap q s
  | .qcmdMap quay q => Sys2Proof.Machine.execQcmdMap quay q s
  | .qcmdUnmap quay q => Sys2Proof.Machine.execQcmdUnmap quay q s
  | .qcmdClearFault quay q => Sys2Proof.Machine.execQcmdClearFault quay q s
  | .attnService quay => Sys2Proof.Machine.execAttnService quay s
  | .packetFetch q => Sys2Proof.Machine.execPacketFetch q s
  | .launch q => Sys2Proof.Machine.execLaunch q s
  | .callPacket q => Sys2Proof.Machine.execCallPacket q s
  | .returnPacket q => Sys2Proof.Machine.execReturnPacket q s
  | .join q => Sys2Proof.Machine.execJoin q s
  | .copy q => Sys2Proof.Machine.execCopy q s
  | .signal q => Sys2Proof.Machine.execSignal q s
  | .waitvalue q => Sys2Proof.Machine.execWaitvalue q s
  | .waitvaluePoll q => Sys2Proof.Machine.execWaitvaluePoll q s
  | .waitvalueTimeout q => Sys2Proof.Machine.execWaitvalueTimeout q s
  | .preempt q => Sys2Proof.Machine.execPreempt q s
  | .refine q => Sys2Proof.Machine.execRefine q s
  | .refineRunEnd q => Sys2Proof.Machine.execRefineRunEnd q s
  | .harbourRestart => Sys2Proof.Machine.execHarbourRestart s
  | .flitReceive port bytes crc => Sys2Proof.Machine.execFlitReceive port bytes crc s
  | .flitReplay port => Sys2Proof.Machine.execFlitReplay port s
  | .portDown port cause => Sys2Proof.Machine.execPortDown port cause s
  | .portUp port => Sys2Proof.Machine.execPortUp port s
  | .rtgenFlip table gen => Sys2Proof.Machine.execRtgenFlip table gen s
  | .ringdescWrite site ring v => Sys2Proof.Machine.execRingdescWrite site ring v s
  | .registerWrite addr bytes => Sys2Proof.Machine.execRegisterWrite addr bytes s
  | .tick => Sys2Proof.Machine.execTick s
  | .powerGood => Sys2Proof.Machine.execPowerGood s
  | .bootStageComplete => Sys2Proof.Machine.execBootStageComplete s
  | .recoveryImage base => Sys2Proof.Machine.execRecoveryImage base s
  | .unitTrainingComplete u => Sys2Proof.Machine.execUnitTrainingComplete u s
  | .attestationRequest nonce => Sys2Proof.Machine.execAttestationRequest nonce s
  | .islePowerGate isle => Sys2Proof.Machine.execIslePowerGate isle s
  | .isleWake isle => Sys2Proof.Machine.execIsleWake isle s
  | .calibrationComplete isle ins periods trims => Sys2Proof.Machine.execCalibrationComplete isle ins periods trims s
  | .perBankRefresh site slice bank rfm => Sys2Proof.Machine.execPerBankRefresh site slice bank rfm s

end Sys2Proof.Machine
end

