-- ==== Sys2Proof/Machine/Group.lean ====
section
/-! DEFINITION. The issue of one instruction group (R58-R67, R173-R176, R217, R243, R266, R273, R274, R328): fetching it,
its checks in the order of R67, its instructions in slot order, and its commit, its trap or its block. -/

namespace Sys2Proof.Machine

/-! ### Fetching a group -/

/-- A fetched group: its words, or the fault of fetch, header or group with its place (R52, R54, R63). -/
structure Fetched where
  words : List (BitVec 96)
  bad : Option (Byte × Nat × Nat) := none
  deriving DecidableEq, Repr

/-- A slot number as a record holds it: three bits, the last of them for every word past the eighth (R361). -/
def slotField (i : Nat) : Nat := min i 7

/-- The words from an address to the stop bit, at most the `n` that the section has left (R54, R63). -/
def Eng.fetchFrom (g : Eng) (first : Nat) : Nat → Nat → Nat → Fetched
  | 0, _, i => { words := [], bad := some (0x61, first, slotField (i - 1)) }
  | n + 1, a, i =>
    if !g.fetchOk a 12 then { words := [], bad := some (0x60, g.fetchStop a, 0) }
    else
      let w := g.word a
      if w.getLsbD 95 then { words := [w] }
      else
        let r := g.fetchFrom first n (a + 12) (i + 1)
        { r with words := w :: r.words }

/-- The group at the engine's PC (R63). -/
def Eng.fetchGroup (g : Eng) (x : Sect) : Fetched :=
  g.fetchFrom g.pc.toNat ((x.hdr + 8 + 12 * x.len - g.pc.toNat) / 12) g.pc.toNat 0

/-! ### Repetition -/

/-- A field of a word moved by `d`; none when it would leave its bits (R176). -/
def stepField (lo n : Nat) (d : Int) (w : BitVec 96) : Option (BitVec 96) :=
  let v : Int := ((w.extractLsb' lo n).toNat : Int) + d
  if 0 ≤ v ∧ v < 2 ^ n then
    some ((w &&& ~~~(BitVec.ofNat 96 ((2 ^ n - 1) * 2 ^ lo))) ||| BitVec.ofNat 96 (v.toNat * 2 ^ lo))
  else none

/-- The signed offset field of format M moved by `d` (R176). -/
def stepOff (d : Int) (w : BitVec 96) : Option (BitVec 96) :=
  let v : Int := (w.extractLsb' 30 32).toInt + d
  if -2 ^ 31 ≤ v ∧ v < 2 ^ 31 then
    some ((w &&& ~~~(BitVec.ofNat 96 ((2 ^ 32 - 1) * 2 ^ 30))) ||| BitVec.ofNat 96 ((v % 2 ^ 32).toNat * 2 ^ 30))
  else none

/-- The steps that a format leaves zero (R176). -/
def RepState.stepsOk (r : RepState) : RepFmt → Bool
  | .a | .v | .k => r.soff == 0
  | .m => r.s2 == 0 && r.s3 == 0
  | .t => r.s3 == 0 && r.soff == 0

/-- Repetition i of the repeated word (R176). -/
def RepState.wordAt (r : RepState) (f : RepFmt) (i : Nat) (w : BitVec 96) : Option (BitVec 96) :=
  let m := fun (s : BitVec 6) => (i : Int) * s.toInt
  match f with
  | .a | .v | .k =>
    (stepField 76 6 (m r.sd) w).bind (fun w => (stepField 70 6 (m r.s1) w).bind (fun w =>
      (stepField 64 6 (m r.s2) w).bind (fun w => stepField 58 6 (m r.s3) w)))
  | .m => (stepField 76 6 (m r.sd) w).bind (fun w => (stepField 66 6 (m r.s1) w).bind (stepOff ((i : Int) * r.soff.toInt)))
  | .t =>
    (stepField 78 4 (m r.sd) w).bind (fun w => (stepField 72 6 (m r.s1) w).bind (fun w => stepField 66 6 (m r.s2) w))

/-- The major opcode of a word (R58). -/
def wordOp (w : BitVec 96) : Nat := (w.extractLsb' 86 9).toNat

/-! ### Checks of decode and of the group -/

/-- An instruction that the engine, the task's loop mode or R70 refuses as an illegal encoding (R60, R68, R70). -/
def encodingBad (e : EngId) (loopmode : Bool) (i : Instr) : Bool :=
  !i.allowedIn e || (match i with
    | .rep _ _ _ _ _ _ => loopmode
    | .lnest _ _ _ _ => !loopmode
    | .csrr _ csr => csrOnlyC csr.toNat && e != .c
    | .csrw _ csr => csr.toNat != 0xA || e != .c
    | _ => false)

/-- Decoding one word for an engine: none where it raises 0x01 (R60, R68). -/
noncomputable def decodeFor (e : EngId) (loopmode : Bool) (w : BitVec 96) : Option Insn :=
  (decodeWord w).filter (fun x => !encodingBad e loopmode x.op)

/-- Decoding a group: the instructions, or the first slot whose word is illegal. -/
noncomputable def decodeGroup (e : EngId) (loopmode : Bool) : Nat → List (BitVec 96) →
    Except (Nat × BitVec 96) (List (BitVec 96 × Insn))
  | _, [] => .ok []
  | i, w :: t =>
    match decodeFor e loopmode w with
    | none => .error (slotField i, w)
    | some x =>
      match decodeGroup e loopmode (i + 1) t with
      | .error b => .error b
      | .ok l => .ok ((w, x) :: l)

/-- The control transfers of R63. -/
def isTransfer : Instr → Bool
  | .br _ _ _ _ | .jmp _ | .jmpi _ _ | .call _ | .calli _ _ | .ret | .loopLc _ _ | .loopNest _ | .brq _ _
  | .drain _ _ _ _ | .trap _ _ | .brk _ | .doneOp => true
  | _ => false

/-- `rep` (R63). -/
def isRep : Instr → Bool
  | .rep _ _ _ _ _ _ => true
  | _ => false

/-- A write that is no dependence: to g0, p0 or m0 (R64). -/
def ignoredWrite : Res → Bool
  | .g 0 | .p 0 | .m 0 => true
  | _ => false

/-- The uses of a word, its guard among the reads (R59, R64). -/
def wordUses (x : Insn) (e : EngId) (ftidx : Nat) : Uses :=
  let u := x.op.uses e ftidx
  { u with rd := .p x.gp.toNat :: u.rd, wr := u.wr.filter (fun r => !ignoredWrite r) }

/-- Two instructions of one group depend on each other (R64). -/
def usesConflict (a b : Uses) : Bool :=
  a.wr.any (fun r => b.rd.contains r || b.wr.contains r) || b.wr.any (fun r => a.rd.contains r)
    || a.ch.any (fun c => b.ch.contains c)

/-- The first slot that breaks the group rules (R63, R64), earlier instructions in `seen`. -/
def groupBreach (e : EngId) (ftidx : Nat) : Nat → List Uses → List Insn → Option Nat
  | _, _, [] => none
  | i, seen, x :: t =>
    let u := wordUses x e ftidx
    if (isTransfer x.op && !t.isEmpty) || (isRep x.op && !(seen.isEmpty && t.isEmpty)) || seen.any (fun v => usesConflict v u)
    then some i
    else groupBreach e ftidx (i + 1) (seen ++ [u]) t

/-- The issue cycles a group takes after its first (R66): one instruction a cycle in L and S, one of each class in C. -/
def extraCycles (e : EngId) (ops : List Nat) : Nat :=
  if e = .c then
    (ops.foldl (fun (a : Nat × List Nat) op =>
      let c := issueClass op
      if a.2.contains c then (a.1 + 1, [c]) else (a.1, c :: a.2)) (0, [])).1
  else ops.length - 1

/-! ### Holds before issue -/

/-- The local operands that a tile has yet to read (R217). -/
def TileJob.ownReads (t : TileJob) : List (Nat × Nat) :=
  (t.bOff, extentB t.prof t.scaled) :: (if t.globalA.isSome then [] else [(t.aOff, extentA t.prof t.rows t.scaled)])

/-- A landing of the core is due and not yet made (R182): nothing issues before it. -/
def Core.landDue (k : Core) : Bool := k.slots.any (fun e => decide (e.2.due ≤ k.cyc))

/-- The phases that an engine's `dbar` waits for have passed (R328). -/
def Hw.dbarsPassed (h : Hw) (co : CoreId) (e : EngId) : Bool :=
  let k := h.core co
  (k.eng e).dbarHold.all (fun d => phasePassed (h.phase co (k.task.getD {}) d.1).toNat d.2.toNat)

/-- The registers that a landing race or a status to come holds (R243, R266). -/
def Core.heldRegs (k : Core) (e : EngId) : List Res :=
  let races := if e = .c then
      (k.slots.filter (fun x => x.2.kind == .race)).flatMap (fun x => (List.range 5).map (fun i => .v (x.2.dest + i)))
    else []
  match (k.eng e).amem with
  | some m => .g m.d.toNat :: races
  | none => races

/-- The engine's calibration is under way (R229). -/
def Hw.calibrating (h : Hw) (co : CoreId) (e : EngId) : Bool :=
  e == .c && (match (h.arr co.isle (CoreId.ins co)).calib with
    | some c => c.1 == CoreId.pos co
    | none => false)

/-- The engine may issue its next group; or the group it has in issue commits, in its last cycle (R66), or at once when its
core has stopped (R360). -/
def Hw.ready (h : Hw) (co : CoreId) (e : EngId) : Bool :=
  let k := h.core co
  match (k.eng e).pend with
  | some p => k.task.isSome && (k.stopped || (decide (p.last ≤ k.cyc) && !k.landDue && !k.frozen && k.inTurn e))
  | none => k.canAct e && decide ((k.eng e).busy ≤ k.cyc) && !k.landDue && h.dbarsPassed co e && !h.calibrating co e

/-- Own local bytes of an M-format access. -/
def State.mSpan (s : State) (cb : BitVec 4) (x : BitVec 6) (sc : BitVec 3) (off : BitVec 32) (n : Nat) : List (Nat × Nat) :=
  match s.mAddr cb x sc off with
  | .ok ea => [(ea.toNat, n)]
  | .error _ => []

/-- Own local bytes that an `ldn` or `vldn` reads: those of the issuing core itself (R152). -/
def State.nearSpan (s : State) (cb : BitVec 4) (x : BitVec 6) (sc : BitVec 3) (off : BitVec 32) (n : Nat) : List (Nat × Nat) :=
  (s.mSpan cb x sc off n).filterMap (fun a =>
    let r := remotePlace a.1
    if r.1 = s.ix.co then some (r.2, a.2) else none)

/-- The local bytes that an instruction reads, at issue or after commit (R274: a later group that reads a slot's extent is
held until the copy is done). -/
def State.readSpans (s : State) : Instr → List (Nat × Nat)
  | .ldS8 _ cb x sc off | .ldZ8 _ cb x sc off => s.mSpan cb x sc off 1
  | .ldS16 _ cb x sc off | .ldZ16 _ cb x sc off => s.mSpan cb x sc off 2
  | .ldS32 _ cb x sc off | .ldZ32 _ cb x sc off | .vldBc _ cb x sc off => s.mSpan cb x sc off 4
  | .ld64 _ cb x sc off | .ldfeW _ cb x sc off | .ldfeC _ cb x sc off => s.mSpan cb x sc off 8
  | .cld _ cb x sc off => s.mSpan cb x sc off 16
  | .ldn _ cb x sc off _ => s.nearSpan cb x sc off 8
  | .vldn _ cb x sc off _ => s.nearSpan cb x sc off 128
  | .lnest cb x sc off => s.mSpan cb x sc off 64
  | .vld _ cb x sc off | .vldfeW _ cb x sc off | .vldfeC _ cb x sc off => s.mSpan cb x sc off 128
  | .vgath _ cb x sc off =>
    match s.laneAddrs cb x sc off pLd with
    | .ok l => l.map (fun a => (a, 4))
    | .error _ => []
  | _ => []

/-- Two extents share a byte. -/
def meets (a b : Nat × Nat) : Bool := decide (a.1 < b.1 + b.2) && decide (b.1 < a.1 + a.2)

/-- The local bytes that an instruction writes as its group commits (R217, R273, R274: a later group that writes a held extent
is held). -/
def State.writeSpans (s : State) : Instr → List (Nat × Nat)
  | .st8 _ cb x sc off => s.mSpan cb x sc off 1
  | .st16 _ cb x sc off => s.mSpan cb x sc off 2
  | .st32 _ cb x sc off => s.mSpan cb x sc off 4
  | .st64 _ cb x sc off => s.mSpan cb x sc off 8
  | .cst _ cb x sc off => s.mSpan cb x sc off 16
  | .vst _ cb x sc off => s.mSpan cb x sc off 128
  | .vscat _ cb x sc off =>
    match s.laneAddrs cb x sc off pSt with
    | .ok l => l.map (fun a => (a, 4))
    | .error _ => []
  | .tbinit a _ _ _ _ => [((s.c8Addr (s.g a).bits).toNat, 16)]
  | .tbexpect _ n | .tbarrive _ _ n _ | .tbretire n =>
    match s.here.barrierAt n.toNat with
    | some off => [(off, 16)]
    | none => []
  | _ => []

/-- The extents that a later group of the engine may not write: operands of tiles not yet read (R217) and slots not yet
copied out (R273). -/
def Hw.frozenExtents (h : Hw) (co : CoreId) (e : EngId) : List (Nat × Nat) :=
  let k := h.core co
  let tiles := if e = .c then
      (k.slots.filter (fun x => !x.2.arrived)).flatMap (fun x => match x.2.tile with
        | some t => t.ownReads
        | none => [])
    else []
  tiles ++ ((h.streams.filter (fun c => c.co == co && c.eng == e && c.put)).map (fun c => (c.off, c.size)))

/-- The extents that slots being copied in will fill: a later group of the engine may neither read nor write them
(R274). -/
def Hw.incomingExtents (h : Hw) (co : CoreId) (e : EngId) : List (Nat × Nat) :=
  (h.streams.filter (fun c => c.co == co && c.eng == e && !c.put)).map (fun c => (c.off, c.size))

/-- Some byte of an extent of a core's local memory differs between two states. -/
def wrote (a b : Hw) (co : CoreId) (x : Nat × Nat) : Bool := a.bytes (localKey co x.1) x.2 != b.bytes (localKey co x.1) x.2

/-- The local extents that what a group commits reads later on: sources and lists of its copy commands, slots to put,
operands of its tiles. `a` is the hardware before the group, `b` after it. -/
def lateReads (a b : Hw) (co : CoreId) : List (Nat × Nat) :=
  ((b.core co).cmds.filter (fun c => decide ((a.core co).uid ≤ c.uid))).flatMap (Cmd.ownReads co)
    ++ ((b.streams.filter (fun c => c.co == co && c.put && !a.streams.contains c)).map (fun c => (c.off, c.size)))
    ++ ((b.core co).slots.filter (fun x => decide ((a.core co).landOrd ≤ x.2.ord))).flatMap (fun x => match x.2.tile with
      | some t => t.ownReads
      | none => [])

/-- The local extents that what a group commits writes later on: destinations of its copy commands and slots to get. -/
def lateWrites (a b : Hw) (co : CoreId) : List (Nat × Nat) :=
  ((b.core co).cmds.filter (fun c => decide ((a.core co).uid ≤ c.uid))).flatMap (Cmd.ownWrites co)
    ++ ((b.streams.filter (fun c => c.co == co && !c.put && !a.streams.contains c)).map (fun c => (c.off, c.size)))

/-- Whether an instruction's guard lets it act (R59). -/
def State.guardTrue (s : State) (x : Insn) : Bool := (s.p x.gp).bit != x.gn

/-- `tload`. -/
def isLoadB : Instr → Bool
  | .tload _ _ _ => true
  | _ => false

/-- The instructions of a group, executed from `s` to `u`, touch an extent that the engine holds: they write one that a tile or
`sput` has yet to read, or read or write one that an `sget` has yet to fill (R217, R273, R274). -/
def State.touchesHeld (s u : State) (insns : List Insn) : Bool :=
  let co := s.ix.co
  let live := insns.filter s.guardTrue
  let incoming := s.toHw.incomingExtents co s.ix.eng
  let frozen := s.toHw.frozenExtents co s.ix.eng ++ incoming
  if frozen.isEmpty then false
  else
    let writes := live.flatMap (fun i => s.writeSpans i.op) ++ lateWrites s.toHw u.toHw co
    let loads := if live.any (fun i => isLoadB i.op) then
        (match u.arrHere.loaded with
        | some b => [((s.c8Addr (BitVec.ofNat 64 b.off)).toNat, extentB b.prof (b.scale == 1 || b.prof == 3))]
        | none => [])
      else []
    let reads := live.flatMap (fun i => s.readSpans i.op) ++ loads ++ lateReads s.toHw u.toHw co
    frozen.any (fun a => wrote s.toHw u.toHw co a || writes.any (meets a)) || incoming.any (fun a => reads.any (meets a))

/-! ### Executing a group -/

/-- The places of local memory that an instruction's access touches as its group commits, with its full bits and its barrier's
slot (R143, R144). What `ldn` and `vldn` read comes later. -/
def State.localSpans (s : State) (i : Instr) : List (Nat × Nat) :=
  let own := match i with
    | .ldn _ _ _ _ _ _ | .vldn _ _ _ _ _ _ => []
    | .fset d cb x sc off | .fclr d cb x sc off => s.mSpan cb x sc off (16 * (s.g d).bits.toNat)
    | .ftest _ cb x sc off => s.mSpan cb x sc off 1
    | .tbwait _ n | .tbtest _ _ n =>
      match s.here.barrierAt n.toNat with
      | some off => [(off, 16)]
      | none => []
    | i => s.readSpans i ++ s.writeSpans i
  own.map (fun a => (localKey s.ix.co a.1, a.2))

/-- The places of accumulator memory that an instruction's access touches (R217, R227). -/
def State.accSpans (s : State) (i : Instr) : List (Nat × Nat) :=
  match i with
  | .tzero slot rows => (List.range rows.toNat).map (fun r => (slotKey s.ix.co (slot.toNat + r / 8) (r % 8) 0, 256))
  | .taccRd _ c _ n | .taccWr _ c n => (activeLanes (s.m n)).map (fun l => (accLane s.ix.co c l, 4))
  | _ => []

/-- AN ACCESS MEETS AN UNCORRECTABLE ERROR in the cells of a granule (R144, R217, R369): a machine trap. ADDR is the access's own
address, 0 for accumulator memory, where none is formed (R361). -/
def State.cellMet (s : State) (i : Instr) : Option TrapInfo :=
  let mem := s.localSpans i
  let acc := s.accSpans i
  match s.toHw.cellErrIn mem, s.toHw.cellErrIn acc with
  | some g, _ => some {
      code := 0x70
      addr := BitVec.ofNat 64 ((mem.map Prod.fst).headD 0 - localKey s.ix.co 0)
      detail := machineDetail 3 (16 * g - localKey s.ix.co 0) }
  | none, some g => some { code := 0x70, detail := machineDetail 4 (16 * g - accKey s.ix.co.isle (CoreId.ins s.ix.co) 0) }
  | none, none => none

/-- One instruction of the group: a poisoned guard raises 0x31 (R304), a false guard does nothing (R59); an instruction whose
checks hold makes its access, which may meet an uncorrectable error (R144). -/
def State.runSlot (s : State) (i : Nat) (w : BitVec 96) (x : Insn) : Out :=
  let s := { s with ix := { s.ix with slot := i, word := w } }
  if (s.p x.gp).psn then .next (s.raise { code := 0x31, detail := poisonDetail 1 x.gp.toNat })
  else if s.guardTrue x then
    match exec x.op s with
    | .next u =>
      match (if s.toHw.cellErrs.isEmpty || u.ix.trap.isSome || u.ix.blocked then none else s.cellMet x.op) with
      | some t => .next (s.raise t)
      | none => .next u
    | o => o
  else .next s

/-- The instructions of a group in slot order; the first trap ends the walk (R65, R67). -/
def runSlots : Nat → List (BitVec 96 × Insn) → State → Out
  | _, [], s => .next s
  | i, (w, x) :: t, s =>
    match s.runSlot i w x with
    | .next u => if u.ix.trap.isSome then .next u else runSlots (i + 1) t u
    | .fault f => .fault f
    | .refused r => .refused r

/-- The tile commands of a group whose guards are true (R218). -/
def State.tileCount (s : State) (xs : List Insn) : Nat :=
  (xs.filter (fun x => (match x.op with
    | .tload _ _ _ | .tmma _ _ _ _ _ _ _ | .tmmaGa _ _ _ _ _ _ _ => true
    | _ => false) && s.guardTrue x)).length

/-- While a group is blocked its `tbwait`s show in WAIT, whatever it waits for (R162), and its `lease` waits at the array (R220). -/
def State.markWaits (s : State) (xs : List Insn) : State :=
  xs.foldl (fun t x =>
    if !t.guardTrue x then t
    else match x.op with
      | .tbwait _ n =>
        match t.here.barrierAt n.toNat with
        | some off => t.upd (fun h => h.putSlot t.ix.co off ((h.slotAt t.ix.co off).setWait t.ix.eng true))
        | none => t
      | .lease n => t.onArrHere (fun a =>
          if a.waiting.any (fun w => w.1 == CoreId.pos t.ix.co) then a
          else { a with waiting := a.waiting ++ [(CoreId.pos t.ix.co, n)] })
      | _ => t) s

/-- From its first issue cycle on, the lease that a group names is held for it (R65): the array grants it. -/
def State.holdLease (s : State) (xs : List Insn) : State :=
  if xs.any (fun x => s.guardTrue x && (match x.op with
    | .lease _ => true
    | _ => false)) then s.onArrHere (fun a => a.grant (CoreId.pos s.ix.co))
  else s

/-- A group that traps no longer waits anywhere. -/
def State.dropWaits (s : State) (xs : List Insn) : State :=
  xs.foldl (fun t x =>
    match x.op with
    | .tbwait _ n =>
      match t.here.barrierAt n.toNat with
      | some off => t.upd (fun h => h.putSlot t.ix.co off ((h.slotAt t.ix.co off).setWait t.ix.eng false))
      | none => t
    | .lease _ => t.onArrHere (fun a => { a with waiting := a.waiting.filter (fun w => w.1 != CoreId.pos t.ix.co) })
    | _ => t) s

/-- The group leaves its section: the target, or the next address, lies outside it (R55). -/
def Sect.holds (x : Sect) (a : Int) : Bool :=
  decide ((x.hdr : Int) + 8 ≤ a) && decide (a < (x.hdr : Int) + 8 + 12 * x.len)

/-- COMMIT of a group (R55, R63, R65, R66, R176): where the engine stands next, its section, its repetition, whether the next
group is bound to one instruction, the cycle that it has used. -/
def Eng.commit (g : Eng) (x : Sect) (n : Nat) (last : BitVec 48) (target : Option Int) (cyc : Nat) (repeated alone : Bool) : Eng :=
  let rep := match g.rep with
    | some r => if repeated then (if r.i + 1 < r.n then some { r with i := r.i + 1 } else none) else some r
    | none => none
  let next : Nat := if repeated && rep.isSome then g.pc.toNat else g.pc.toNat + 12 * n
  let goes : Int := target.getD next
  let stays := x.holds goes
  { g with
    rep := rep
    pc := if target.isSome then g.pc else BitVec.ofNat 48 next
    xfer := target.map (fun t => (last, t))
    sec := if stays || g.st == .done then g.sec else none
    rsec := if stays || g.st == .done then g.rsec else x.sec
    st := if g.st == .done then .done else .issuing
    dbarHold := g.dbarHold
    pend := none
    alone := alone
    busy := cyc + 1 }

/-- The issue record of a group of an engine: its core, engine and place, its repetition, the cycles it takes after this one,
the hardware before it (R65). -/
def State.issueOf (s : State) (co : CoreId) (e : EngId) (ws : List (BitVec 96 × Insn)) (rep : Option Nat) (delay : Nat) : State :=
  let s := { s with ix := {
    co := co, eng := e, pc := ((s.toHw.core co).eng e).pc, rep := rep, before := some s.toHw, delay := delay } }
  { s with ix := { s.ix with tiles := s.tileCount (ws.map Prod.snd) } }

/-- A group of another engine of the core, in issue since an earlier cycle, could not commit on this hardware: what its blocking
conditions named has been taken, and R65 holds it for that group. -/
def State.robs (u : State) (co : CoreId) (e : EngId) : Bool :=
  [EngId.l, .c, .s].any (fun o => o != e && (match ((u.toHw.core co).eng o).pend with
    | none => false
    | some p =>
      match runSlots 0 p.words (u.issueOf co o p.words p.rep 0) with
      | .next v => v.ix.blocked
      | _ => false))

/-- An opcode works on registers alone: it makes no access, and orders none (R143, R290). -/
def registersOnly (op : Nat) : Bool :=
  op == 0 || (decide (0x040 ≤ op) && decide (op < 0x08D)) || op == 0x08F || (decide (0x100 ≤ op) && decide (op < 0x180))

/-- The slots of a group that stand before the last of its words that makes an access or orders some, or all once the engine leaves
its section (R55, R290): how many. -/
def pinsBefore (ops : List Nat) (leaves : Bool) : Nat :=
  if leaves then ops.length + 1
  else ops.zipIdx.foldl (fun n x => if registersOnly x.1 then n else x.2 + 1) 0

/-- What the engine has read by `ldn` and `vldn` stands once it makes its next access, in slot order within a group (R119, R143,
R290): reads of landings before `ord` are of earlier groups, the others of the group that commits; `n` slots of it count. -/
def Core.fixReads (k : Core) (e : EngId) (ord n : Nat) : Core :=
  { k with slots := k.slots.map (fun x =>
      if x.2.eng == e && decide (0 < n) && (decide (x.2.ord < ord) || decide (x.2.gslot + 1 < n)) then
        (x.1, { x.2 with fixed := true })
      else x) }

/-- The group in issue has been executed: it traps, it blocks, it is held, it goes on to its last issue cycle, or, in that
cycle, it commits (R65, R66). -/
def State.finish (s u : State) (x : Sect) (ws : List (BitVec 96 × Insn)) (repeated : Bool) : State :=
  let co := s.ix.co
  let e := s.ix.eng
  let insns := ws.map Prod.snd
  match u.ix.trap with
  | some r => { (s.dropWaits insns).upd (fun h => (h.engTrap co e r).noteMachine co r) with ix := {}, choice := u.choice }
  | none =>
    if u.ix.blocked || u.robs co e then
      { (s.onMe (fun g => { g with st := .blocked })).markWaits insns with ix := {} }
    else if s.touchesHeld u insns then { s with ix := {} }
    else if s.ix.delay ≠ 0 then
      { (s.holdLease insns).onMe (fun g => { g with
          st := .issuing, pend := some { last := s.here.cyc + s.ix.delay, sect := x, words := ws, rep := s.ix.rep } }) with ix := {} }
    else
      let n := ws.length
      let last := BitVec.ofNat 48 (s.ix.pc.toNat + 12 * (n - 1))
      let alone := insns.any (fun i => isRep i.op)
      let g := ((u.toHw.core co).eng e).commit x n last u.ix.target s.here.cyc repeated alone
      let h := u.toHw.onCore co (fun k =>
        (k.setEng e g).fixReads e s.here.landOrd (pinsBefore (ws.map (fun w => wordOp w.1)) g.sec.isNone))
      { u with toHw := u.ix.after.foldl (fun h r => h.takeTrap co r) h, ix := {} }

/-- A trap before any instruction acts: fetch, header, encoding, group (R67). A word without its stop bit at the end of the
section gives the section's header (R54, R363). -/
def State.decodeTrap (s : State) (co : CoreId) (e : EngId) (code : Byte) (pc slot : Nat) (w : BitVec 96) : State :=
  let g := (s.toHw.core co).eng e
  let d := if code = 0x01 ∨ code = 0x02 then wordDetail w
    else if code = 0x61 then (match g.sec with
      | some x => detField 32 8 (g.headerBits x.hdr)
      | none => 0)
    else 0
  s.upd (fun h => h.engTrap co e (fetchRec co e ((h.core co).eng e) code pc slot false d))

/-- The repeated word of a `rep` (R176): its own group, and every repetition's word legal; none raises 0x01. -/
noncomputable def repWord (e : EngId) (loopmode : Bool) (r : RepState) (w : BitVec 96) : Option (BitVec 96) :=
  match repFmt (wordOp w) with
  | none => none
  | some f =>
    if r.stepsOk f && (r.i != 0 || (List.range r.n).all (fun i =>
        ((r.wordAt f i w).bind (decodeFor e loopmode)).isSome))
    then r.wordAt f r.i w else none

/-- A group's instructions act, and it traps, blocks, is held, or commits. -/
def State.runGroup (s : State) (x : Sect) (ws : List (BitVec 96 × Insn)) (repeated : Bool) : Out :=
  match runSlots 0 ws s with
  | .next u => .next (s.finish u x ws repeated)
  | .fault f => .fault f
  | .refused r => .refused r

/-- An instruction uses a register that a race or a status to come holds: by what R64 counts, and by the destination of an
`ldn` or `vldn`; one with a false guard uses none (R59, R243, R266). -/
def usesHeld (held : List Res) (e : EngId) (ftidx : Nat) (i : Instr) : Bool :=
  let u := i.uses e ftidx
  let late := match i with
    | .ldn d _ _ _ _ _ => [Res.g d.toNat]
    | .vldn d _ _ _ _ _ => [Res.v d.toNat]
    | _ => []
  held.any (fun r => u.rd.contains r || u.wr.contains r || late.contains r)

/-- The group `ws` issues: its instructions act on the state, `rep` when a `rep` runs it. A group in issue since an earlier
cycle is in its last (R66). A group that names a register of a pending race is held unpresented: it makes no checks until the
race has landed (R243, log entry 116). -/
def State.issueWords (s : State) (co : CoreId) (e : EngId) (x : Sect) (ws : List (BitVec 96 × Insn))
    (rep : Option Nat) : Out :=
  let k := s.toHw.core co
  let going := (k.eng e).pend.isSome
  let delay := if going then 0 else extraCycles e (ws.map (fun w => wordOp w.1))
  let s0 := (s.upd (fun h => h.onEng co e (fun g => { g with dbarHold := [] }))).issueOf co e ws rep delay
  if ws.any (fun w => s0.guardTrue w.2 && usesHeld (k.heldRegs e) e k.cu.ftidx.toNat w.2.op) then .next s
  else s0.runGroup x ws rep.isSome

/-- The group at the engine's PC in its entered section issues (R63-R67). -/
noncomputable def State.issueAt (s : State) (co : CoreId) (e : EngId) (x : Sect) : Out :=
  let k := s.toHw.core co
  let g := k.eng e
  let pc := g.pc.toNat
  let lm := (k.task.getD {}).loopmode
  let f := g.fetchGroup x
  let w0 := f.words.getD 0 0
  match f.bad with
  | some b => .next (s.decodeTrap co e b.1 b.2.1 b.2.2 0)
  | none =>
    match decodeGroup e lm 0 f.words with
    | .error (i, w) => .next (s.decodeTrap co e 0x01 pc i w)
    | .ok ws =>
      let breach := if ws.length ≤ 8 then groupBreach e k.cu.ftidx.toNat 0 [] (ws.map Prod.snd) else some 8
      let breach := if breach.isNone && g.alone && ws.length ≠ 1 then some 1 else breach
      match breach with
      | some i => .next (s.decodeTrap co e 0x02 pc (slotField i) (f.words.getD i 0))
      | none =>
        match g.rep with
        | none => s.issueWords co e x ws none
        | some r =>
          match (repWord e lm r w0).bind (fun w => (decodeFor e lm w).map (fun i => (w, i))) with
          | none => .next (s.decodeTrap co e 0x01 pc 0 w0)
          | some wi => s.issueWords co e x [wi] (some r.i)

/-- The group at the engine's place issues, once a transfer within its section has been followed (R56). -/
noncomputable def State.issueNext (s : State) (co : CoreId) (e : EngId) : Out :=
  let g := (s.toHw.core co).eng e
  match g.sec with
  | none => .next s
  | some x =>
    if !x.entered then .next s
    else match g.xfer with
      | none => s.issueAt co e x
      | some (f, t) =>
        if decide (t < (g.pcc.top : Int)) && g.groupStart x.hdr t.toNat then
          (s.upd (fun h => h.onEng co e (fun g => { g with pc := BitVec.ofInt 48 t, xfer := none }))).issueAt co e x
        else .next (s.upd (fun h => h.followXfer co e f t))

/-- THE ISSUE OF AN ENGINE'S NEXT GROUP, or the commit of the one it has in issue. An engine that may not issue, or stands at a
header, stays as it is. -/
noncomputable def State.issue (s : State) (co : CoreId) (e : EngId) : Out :=
  if !s.toHw.ready co e then .next s
  else match ((s.toHw.core co).eng e).pend with
    | some p => s.issueWords co e p.sect p.words p.rep
    | none => s.issueNext co e

/-! ### The clock of a core -/

/-- A neighbour read that has not come may be made at this cycle (R152). -/
def Hw.rereads (h : Hw) (co : CoreId) : Hw :=
  let k := h.core co
  if k.slots.any (fun e => e.2.kind == .ldn || e.2.kind == .vldn) then
    h.setCore co { k with slots := k.slots.map (fun e =>
      let x := e.2
      if (x.kind == .ldn || x.kind == .vldn) && !x.fixed && !x.ready k && Config.readNow x.ord k.isleCycles then
        (e.1, x.reads h co.isle)
      else e) }
  else h

/-- A core at the start of its next cycle (R168, R171, R172): entries pushed in the last one can be popped, and every engine
sees the token counts as they stand. -/
def Core.tickOn (k : Core) : Core :=
  let old := fun (l : List QEntry) => l.map (fun x => { x with fresh := false })
  { k with
    cyc := k.cyc + 1
    xq := k.xq.map old
    yq := k.yq.map old
    bq := k.bq.map (fun x => { x with fresh := false })
    tokLog := [] }

/-- One isle cycle of a core (R7, R21): core cycles stand still while it is stopped; while it is frozen the cycle counts
for %late, and for LATECYC when an array's result is awaited (R216). -/
def Hw.clock (h : Hw) (co : CoreId) : Hw :=
  let h := (h.rereads co).onCore co (fun k => { k with recs := 0 })
  let k := h.core co
  if k.stopped then h.setCore co { k with stopOpen := false }
  else if k.frozen then
    let arr := k.slots.any (fun e => decide (e.2.due ≤ k.cyc) && !e.2.arrived && (e.2.kind == .tile || e.2.kind == .race))
    let h := h.setCore co { k with late := k.late + 1 }
    if arr then h.onArr co.isle (CoreId.ins co) (fun a => { a with
      latecyc := if a.latecyc = 0xFFFFFFFF#32 then a.latecyc else a.latecyc + 1 }) else h
  else if k.landDue then h
  else h.setCore co k.tickOn

end Sys2Proof.Machine
end

