-- ==== Sys2Proof/Machine/Step.lean ====
section
/-! DEFINITION. The step: the act at the head of the agenda, or a freely chosen one when the agenda is empty; and
`State.withFetchWord`, which stands for the placing of a task whose first group is a given word. -/

namespace Sys2Proof.Machine

/-- What one act does: an engine issues, a core's clock ticks, or a step of the module happens. An event that names a unit the
module does not have is none of its steps. -/
noncomputable def State.act (s : State) : Act → Host.Outcome State Fault Refusal
  | .issue co e => s.issue co e
  | .clock co => .next (s.upd (fun h => h.clock co))
  | .event i => if i.wf && i.opcode?.isNone then exec i s else .next s

/-- THE STEP. -/
noncomputable def step (s : State) : Host.Outcome State Fault Refusal :=
  match s.agenda with
  | a :: rest => { s with agenda := rest }.act a
  | [] => { s with choice := s.choice + 1 }.act (nextAct s.choice)

/-- The engine that runs an instruction in `withFetchWord`: C where R68 allows it there, else L. -/
def homeEngine (i : Option Instr) : EngId :=
  match i with
  | some i => if i.allowedIn .c then .c else .l
  | none => .c

/-- The code that `withFetchWord` places: a header of one code section of two words, the word as a group of its own, its stop
bit set, and `nop !` (R53, R58, R63). -/
def fetchCode (w : Nat) : List Host.Cell :=
  memWriteN (leBytes 8 (2 ^ 60 + 2 ^ 44 + 2 * 2 ^ 32) ++ leBytes 12 (w % 2 ^ 95 + 2 ^ 95) ++ leBytes 12 (2 ^ 95)) 0 []

/-- PCC of that window (R83). -/
def fetchPcc : CReg := { bits := capBits 5 (pLd ||| pEx).toNat 0 0 32 0, tag := true }

/-- The state with a task placed whose engine issues the word next (a program is placed from outside: log entry 8). -/
noncomputable def State.withFetchWord (s : State) (nbits w : Nat) : State :=
  let i := decodeTableWord nbits w
  let e := homeEngine i
  let co : CoreId := ⟨0, 0⟩
  let loopmode := match i with
    | some (.lnest _ _ _ _) => true
    | _ => false
  let g : Eng := {
    pc := 8, pcc := fetchPcc, st := .issuing, code := fetchCode w
    sec := some { hdr := 0, sec := 1, len := 2, wx := 0, wy := 0, entered := true } }
  let k : Core := { ({} : Core) with task := some { loopmode := loopmode } }
  let h := s.toHw.setCore co ((({ k with l := { st := .done }, cE := { st := .done }, s := { st := .done } } : Core)).setEng e g)
  { s with toHw := h.setArr 0 0 { segs := 15, cores := 15 }, agenda := .issue co e :: s.agenda }

end Sys2Proof.Machine
end

