-- ==== Sys2Proof/Laws/Words.lean ====
section
/-! SUPPORT. Bit fields of words that are put together from parts: reading a part, and masking. -/

namespace Sys2Proof.Laws

/-- Bits of the low part. -/
theorem ext_lo {n m : Nat} (a : BitVec n) (b : BitVec m) (lo k : Nat) (h : lo + k ≤ m) :
    (a ++ b).extractLsb' lo k = b.extractLsb' lo k := by
  apply BitVec.eq_of_getLsbD_eq
  intro i hi
  simp only [BitVec.getLsbD_extractLsb', BitVec.getLsbD_append, hi, decide_true, Bool.true_and]
  rw [if_pos (by omega)]

/-- Bits of the high part. -/
theorem ext_hi {n m : Nat} (a : BitVec n) (b : BitVec m) (lo k : Nat) (h : m ≤ lo) :
    (a ++ b).extractLsb' lo k = a.extractLsb' (lo - m) k := by
  apply BitVec.eq_of_getLsbD_eq
  intro i hi
  simp only [BitVec.getLsbD_extractLsb', BitVec.getLsbD_append, hi, decide_true, Bool.true_and]
  rw [if_neg (by omega)]
  congr 1
  omega

/-- All bits. -/
theorem ext_all {n : Nat} (a : BitVec n) : a.extractLsb' 0 n = a := by
  apply BitVec.eq_of_getLsbD_eq
  intro i hi
  simp [hi]

/-- All bits, from a start that is zero. -/
theorem ext_at {n k : Nat} (a : BitVec n) (h : k = 0) : a.extractLsb' k n = a := by
  subst h
  exact ext_all a

/-- Masking part by part. -/
theorem and_append {n m : Nat} (a : BitVec n) (b : BitVec m) (u : BitVec (n + m)) :
    (a ++ b) &&& u = (a &&& u.extractLsb' m n) ++ (b &&& u.extractLsb' 0 m) := by
  apply BitVec.eq_of_getLsbD_eq
  intro i hi
  simp only [BitVec.getLsbD_and, BitVec.getLsbD_append, BitVec.getLsbD_extractLsb']
  by_cases h : i < m
  · simp [h]
  · have e : m + (i - m) = i := by omega
    have l : i - m < n := by omega
    simp [h, e, l]

theorem append_zero {n m : Nat} : (0#n) ++ (0#m) = 0#(n + m) := by
  apply BitVec.eq_of_getLsbD_eq
  intro i hi
  simp

/-- Both parts masked to zero. -/
theorem and_parts {n m : Nat} (a : BitVec n) (b : BitVec m) (u : BitVec (n + m)) (ha : a &&& u.extractLsb' m n = 0#n)
    (hb : b &&& u.extractLsb' 0 m = 0#m) : (a ++ b) &&& u = 0#(n + m) := by
  rw [and_append, ha, hb]
  exact append_zero

/-- A zero mask. -/
theorem and_leaf {n : Nat} (a u : BitVec n) (h : u = 0#n) : a &&& u = 0#n := by
  rw [h]
  exact BitVec.and_zero

section word
variable {stop : Bool} {op : BitVec 9} {gn : Bool} {gp : BitVec 3} {a : BitVec 82}

/-- An operand field of a word. -/
theorem word_fld (lo n : Nat) (h : lo + n ≤ 82) :
    fld (BitVec.ofBool stop ++ op ++ BitVec.ofBool gn ++ gp ++ a) lo n = a.extractLsb' lo n := by
  simp only [fld]
  exact ext_lo _ _ _ _ h

/-- The mask of a word's unused bits lies in the operand area. -/
theorem word_zero {u : BitVec 96} {i : Instr} (hu : u.extractLsb' 82 14 = 0#14) (h : a &&& u.extractLsb' 0 82 = 0#82) :
    zeroIn (BitVec.ofBool stop ++ op ++ BitVec.ofBool gn ++ gp ++ a) u i = some i := by
  unfold zeroIn
  rw [if_pos]
  refine (and_append (n := 14) (m := 82) _ a u).trans ?_
  rw [hu, h]
  simp

/-- The opcode of a word. -/
theorem word_op : fld (BitVec.ofBool stop ++ op ++ BitVec.ofBool gn ++ gp ++ a) 86 9 = op := by
  simp only [fld]
  rw [ext_hi (n := 14) _ a 86 9 (by decide), ext_hi (n := 11) _ gp _ 9 (by decide),
    ext_hi (n := 10) _ (BitVec.ofBool gn) _ 9 (by decide), ext_lo _ op _ 9 (by decide), ext_all]

/-- The stop bit of a word. -/
theorem word_stop : fld (BitVec.ofBool stop ++ op ++ BitVec.ofBool gn ++ gp ++ a) 95 1 = BitVec.ofBool stop := by
  simp only [fld]
  rw [ext_hi (n := 14) _ a 95 1 (by decide), ext_hi (n := 11) _ gp _ 1 (by decide),
    ext_hi (n := 10) _ (BitVec.ofBool gn) _ 1 (by decide), ext_hi _ op _ 1 (by decide), ext_all]

/-- The guard's sense of a word. -/
theorem word_gn : fld (BitVec.ofBool stop ++ op ++ BitVec.ofBool gn ++ gp ++ a) 85 1 = BitVec.ofBool gn := by
  simp only [fld]
  rw [ext_hi (n := 14) _ a 85 1 (by decide), ext_hi (n := 11) _ gp _ 1 (by decide),
    ext_lo (n := 10) _ (BitVec.ofBool gn) _ 1 (by decide), ext_all]

/-- The guard's predicate of a word. -/
theorem word_gp : fld (BitVec.ofBool stop ++ op ++ BitVec.ofBool gn ++ gp ++ a) 82 3 = gp := by
  simp only [fld]
  rw [ext_hi (n := 14) _ a 82 3 (by decide), ext_lo (n := 11) _ gp _ 3 (by decide), ext_all]

end word

/-- A Boolean's bit is 1 when it is true. -/
theorem ofBool_beq (b : Bool) : (BitVec.ofBool b == 1#1) = b := by cases b <;> rfl

end Sys2Proof.Laws
end

