-- ==== Sys2Proof/Laws/PerInstr.lean ====
section
/-! SUPPORT. The family RoundTrip: decoding the encoding of a well-formed instruction gives it back; one lemma for every
constructor (R58-R61, R68). A step of the module has no encoding, and its lemma says so. -/

namespace Sys2Proof.Laws

set_option Elab.async false
set_option linter.all false

/-- Decoding gives back every well-formed instruction word of an instruction, whatever its stop bit and guard. -/
def RoundTrip.Statement (i : Instr) : Prop :=
  ∀ (stop gn : Bool) (gp : BitVec 3) (w : BitVec 96), (Insn.mk stop gn gp i).wf = true → encode ⟨stop, gn, gp, i⟩ = some w →
    decodeWord w = some ⟨stop, gn, gp, i⟩

theorem encode_some {stop gn : Bool} {gp : BitVec 3} {i : Instr} {op : BitVec 9} (h : i.opcode? = some op) :
    encode ⟨stop, gn, gp, i⟩ = some (BitVec.ofBool stop ++ op ++ BitVec.ofBool gn ++ gp ++ i.area) := by
  unfold encode
  exact congrArg (Option.map _) h

theorem encode_none {stop gn : Bool} {gp : BitVec 3} {i : Instr} (h : i.opcode? = none) :
    encode ⟨stop, gn, gp, i⟩ = none := by
  unfold encode
  exact congrArg (Option.map _) h

/-- The family's lemma of a constructor from its operand area's decoding. -/
theorem RoundTrip.of (op : BitVec 9) (i : Instr) (ho : i.opcode? = some op)
    (h : ∀ (stop gn : Bool) (gp : BitVec 3),
      decodeOp (BitVec.ofBool stop ++ op ++ BitVec.ofBool gn ++ gp ++ i.area) = some i) : RoundTrip.Statement i := by
  intro stop gn gp w hw he
  rw [encode_some ho] at he
  obtain rfl := Option.some.inj he
  unfold decodeWord
  rw [h stop gn gp]
  dsimp only
  rw [word_stop, word_gn, word_gp, ofBool_beq, ofBool_beq, if_pos hw]

/-- A step of the module has no encoding. -/
theorem RoundTrip.none_of (i : Instr) (ho : i.opcode? = none) : RoundTrip.Statement i := by
  intro stop gn gp w _ he
  rw [encode_none ho] at he
  exact absurd he (by simp)

theorem RoundTrip.nop : RoundTrip.Statement .nop := by
  refine RoundTrip.of _ _ rfl ?_
  intro stop gn gp
  unfold decodeOp; rw [word_op]
  show zeroIn _ _ _ = _
  try simp (disch := decide) only [word_fld, Instr.area, ext_lo, ext_hi, ext_at]
  refine word_zero ?_ ?_
  · decide
  iterate 12 (all_goals first | exact and_leaf _ _ (by decide) | exact BitVec.zero_and | refine and_parts _ _ _ ?_ ?_)

theorem RoundTrip.br cnd a b disp : RoundTrip.Statement (.br cnd a b disp) := by
  refine RoundTrip.of _ _ rfl ?_
  intro stop gn gp
  unfold decodeOp; rw [word_op]
  show zeroIn _ _ _ = _
  try simp (disch := decide) only [word_fld, Instr.area, ext_lo, ext_hi, ext_at]
  refine word_zero ?_ ?_
  · decide
  iterate 12 (all_goals first | exact and_leaf _ _ (by decide) | exact BitVec.zero_and | refine and_parts _ _ _ ?_ ?_)

theorem RoundTrip.jmp disp : RoundTrip.Statement (.jmp disp) := by
  refine RoundTrip.of _ _ rfl ?_
  intro stop gn gp
  unfold decodeOp; rw [word_op]
  show zeroIn _ _ _ = _
  try simp (disch := decide) only [word_fld, Instr.area, ext_lo, ext_hi, ext_at]
  refine word_zero ?_ ?_
  · decide
  iterate 12 (all_goals first | exact and_leaf _ _ (by decide) | exact BitVec.zero_and | refine and_parts _ _ _ ?_ ?_)

theorem RoundTrip.jmpi a imm : RoundTrip.Statement (.jmpi a imm) := by
  refine RoundTrip.of _ _ rfl ?_
  intro stop gn gp
  unfold decodeOp; rw [word_op]
  show zeroIn _ _ _ = _
  try simp (disch := decide) only [word_fld, Instr.area, ext_lo, ext_hi, ext_at]
  refine word_zero ?_ ?_
  · decide
  iterate 12 (all_goals first | exact and_leaf _ _ (by decide) | exact BitVec.zero_and | refine and_parts _ _ _ ?_ ?_)

theorem RoundTrip.call disp : RoundTrip.Statement (.call disp) := by
  refine RoundTrip.of _ _ rfl ?_
  intro stop gn gp
  unfold decodeOp; rw [word_op]
  show zeroIn _ _ _ = _
  try simp (disch := decide) only [word_fld, Instr.area, ext_lo, ext_hi, ext_at]
  refine word_zero ?_ ?_
  · decide
  iterate 12 (all_goals first | exact and_leaf _ _ (by decide) | exact BitVec.zero_and | refine and_parts _ _ _ ?_ ?_)

theorem RoundTrip.calli a imm : RoundTrip.Statement (.calli a imm) := by
  refine RoundTrip.of _ _ rfl ?_
  intro stop gn gp
  unfold decodeOp; rw [word_op]
  show zeroIn _ _ _ = _
  try simp (disch := decide) only [word_fld, Instr.area, ext_lo, ext_hi, ext_at]
  refine word_zero ?_ ?_
  · decide
  iterate 12 (all_goals first | exact and_leaf _ _ (by decide) | exact BitVec.zero_and | refine and_parts _ _ _ ?_ ?_)

theorem RoundTrip.ret : RoundTrip.Statement .ret := by
  refine RoundTrip.of _ _ rfl ?_
  intro stop gn gp
  unfold decodeOp; rw [word_op]
  show zeroIn _ _ _ = _
  try simp (disch := decide) only [word_fld, Instr.area, ext_lo, ext_hi, ext_at]
  refine word_zero ?_ ?_
  · decide
  iterate 12 (all_goals first | exact and_leaf _ _ (by decide) | exact BitVec.zero_and | refine and_parts _ _ _ ?_ ?_)

theorem RoundTrip.loopLc lc disp : RoundTrip.Statement (.loopLc lc disp) := by
  refine RoundTrip.of _ _ rfl ?_
  intro stop gn gp
  unfold decodeOp; rw [word_op]
  show ite _ _ _ = _
  try simp (disch := decide) only [word_fld, Instr.area, ext_lo, ext_hi, ext_at]
  rw [if_neg (by decide)]
  refine word_zero ?_ ?_
  · decide
  iterate 12 (all_goals first | exact and_leaf _ _ (by decide) | exact BitVec.zero_and | refine and_parts _ _ _ ?_ ?_)

theorem RoundTrip.loopNest disp : RoundTrip.Statement (.loopNest disp) := by
  refine RoundTrip.of _ _ rfl ?_
  intro stop gn gp
  unfold decodeOp; rw [word_op]
  show ite _ _ _ = _
  try simp (disch := decide) only [word_fld, Instr.area, ext_lo, ext_hi, ext_at]
  rw [if_pos (by decide)]
  refine word_zero ?_ ?_
  · decide
  iterate 12 (all_goals first | exact and_leaf _ _ (by decide) | exact BitVec.zero_and | refine and_parts _ _ _ ?_ ?_)

theorem RoundTrip.lset lc a imm : RoundTrip.Statement (.lset lc a imm) := by
  refine RoundTrip.of _ _ rfl ?_
  intro stop gn gp
  unfold decodeOp; rw [word_op]
  show zeroIn _ _ _ = _
  try simp (disch := decide) only [word_fld, Instr.area, ext_lo, ext_hi, ext_at]
  refine word_zero ?_ ?_
  · decide
  iterate 12 (all_goals first | exact and_leaf _ _ (by decide) | exact BitVec.zero_and | refine and_parts _ _ _ ?_ ?_)

theorem RoundTrip.rep n sd s1 s2 s3 soff : RoundTrip.Statement (.rep n sd s1 s2 s3 soff) := by
  refine RoundTrip.of _ _ rfl ?_
  intro stop gn gp
  unfold decodeOp; rw [word_op]
  show zeroIn _ _ _ = _
  try simp (disch := decide) only [word_fld, Instr.area, ext_lo, ext_hi, ext_at]
  refine word_zero ?_ ?_
  · decide
  iterate 12 (all_goals first | exact and_leaf _ _ (by decide) | exact BitVec.zero_and | refine and_parts _ _ _ ?_ ?_)

theorem RoundTrip.lnest cb x sc off : RoundTrip.Statement (.lnest cb x sc off) := by
  refine RoundTrip.of _ _ rfl ?_
  intro stop gn gp
  unfold decodeOp; rw [word_op]
  show zeroIn _ _ _ = _
  try simp (disch := decide) only [word_fld, Instr.area, ext_lo, ext_hi, ext_at]
  refine word_zero ?_ ?_
  · decide
  iterate 12 (all_goals first | exact and_leaf _ _ (by decide) | exact BitVec.zero_and | refine and_parts _ _ _ ?_ ?_)

theorem RoundTrip.brq disp n : RoundTrip.Statement (.brq disp n) := by
  refine RoundTrip.of _ _ rfl ?_
  intro stop gn gp
  unfold decodeOp; rw [word_op]
  show zeroIn _ _ _ = _
  try simp (disch := decide) only [word_fld, Instr.area, ext_lo, ext_hi, ext_at]
  refine word_zero ?_ ?_
  · decide
  iterate 12 (all_goals first | exact and_leaf _ _ (by decide) | exact BitVec.zero_and | refine and_parts _ _ _ ?_ ?_)

theorem RoundTrip.pushbq cnd a b : RoundTrip.Statement (.pushbq cnd a b) := by
  refine RoundTrip.of _ _ rfl ?_
  intro stop gn gp
  unfold decodeOp; rw [word_op]
  show zeroIn _ _ _ = _
  try simp (disch := decide) only [word_fld, Instr.area, ext_lo, ext_hi, ext_at]
  refine word_zero ?_ ?_
  · decide
  iterate 12 (all_goals first | exact and_leaf _ _ (by decide) | exact BitVec.zero_and | refine and_parts _ _ _ ?_ ?_)

theorem RoundTrip.defer va mk cnt tag : RoundTrip.Statement (.defer va mk cnt tag) := by
  refine RoundTrip.of _ _ rfl ?_
  intro stop gn gp
  unfold decodeOp; rw [word_op]
  show zeroIn _ _ _ = _
  try simp (disch := decide) only [word_fld, Instr.area, ext_lo, ext_hi, ext_at]
  refine word_zero ?_ ?_
  · decide
  iterate 12 (all_goals first | exact and_leaf _ _ (by decide) | exact BitVec.zero_and | refine and_parts _ _ _ ?_ ?_)

theorem RoundTrip.drain a vb disp tag : RoundTrip.Statement (.drain a vb disp tag) := by
  refine RoundTrip.of _ _ rfl ?_
  intro stop gn gp
  unfold decodeOp; rw [word_op]
  show zeroIn _ _ _ = _
  try simp (disch := decide) only [word_fld, Instr.area, ext_lo, ext_hi, ext_at]
  refine word_zero ?_ ?_
  · decide
  iterate 12 (all_goals first | exact and_leaf _ _ (by decide) | exact BitVec.zero_and | refine and_parts _ _ _ ?_ ?_)

theorem RoundTrip.post k : RoundTrip.Statement (.post k) := by
  refine RoundTrip.of _ _ rfl ?_
  intro stop gn gp
  unfold decodeOp; rw [word_op]
  show zeroIn _ _ _ = _
  try simp (disch := decide) only [word_fld, Instr.area, ext_lo, ext_hi, ext_at]
  refine word_zero ?_ ?_
  · decide
  iterate 12 (all_goals first | exact and_leaf _ _ (by decide) | exact BitVec.zero_and | refine and_parts _ _ _ ?_ ?_)

theorem RoundTrip.await k : RoundTrip.Statement (.await k) := by
  refine RoundTrip.of _ _ rfl ?_
  intro stop gn gp
  unfold decodeOp; rw [word_op]
  show zeroIn _ _ _ = _
  try simp (disch := decide) only [word_fld, Instr.area, ext_lo, ext_hi, ext_at]
  refine word_zero ?_ ?_
  · decide
  iterate 12 (all_goals first | exact and_leaf _ _ (by decide) | exact BitVec.zero_and | refine and_parts _ _ _ ?_ ?_)

theorem RoundTrip.kget d k : RoundTrip.Statement (.kget d k) := by
  refine RoundTrip.of _ _ rfl ?_
  intro stop gn gp
  unfold decodeOp; rw [word_op]
  show zeroIn _ _ _ = _
  try simp (disch := decide) only [word_fld, Instr.area, ext_lo, ext_hi, ext_at]
  refine word_zero ?_ ?_
  · decide
  iterate 12 (all_goals first | exact and_leaf _ _ (by decide) | exact BitVec.zero_and | refine and_parts _ _ _ ?_ ?_)

theorem RoundTrip.trap a imm : RoundTrip.Statement (.trap a imm) := by
  refine RoundTrip.of _ _ rfl ?_
  intro stop gn gp
  unfold decodeOp; rw [word_op]
  show zeroIn _ _ _ = _
  try simp (disch := decide) only [word_fld, Instr.area, ext_lo, ext_hi, ext_at]
  refine word_zero ?_ ?_
  · decide
  iterate 12 (all_goals first | exact and_leaf _ _ (by decide) | exact BitVec.zero_and | refine and_parts _ _ _ ?_ ?_)

theorem RoundTrip.brk imm : RoundTrip.Statement (.brk imm) := by
  refine RoundTrip.of _ _ rfl ?_
  intro stop gn gp
  unfold decodeOp; rw [word_op]
  show zeroIn _ _ _ = _
  try simp (disch := decide) only [word_fld, Instr.area, ext_lo, ext_hi, ext_at]
  refine word_zero ?_ ?_
  · decide
  iterate 12 (all_goals first | exact and_leaf _ _ (by decide) | exact BitVec.zero_and | refine and_parts _ _ _ ?_ ?_)

theorem RoundTrip.csrr d csr : RoundTrip.Statement (.csrr d csr) := by
  refine RoundTrip.of _ _ rfl ?_
  intro stop gn gp
  unfold decodeOp; rw [word_op]
  show zeroIn _ _ _ = _
  try simp (disch := decide) only [word_fld, Instr.area, ext_lo, ext_hi, ext_at]
  refine word_zero ?_ ?_
  · decide
  iterate 12 (all_goals first | exact and_leaf _ _ (by decide) | exact BitVec.zero_and | refine and_parts _ _ _ ?_ ?_)

theorem RoundTrip.csrw a csr : RoundTrip.Statement (.csrw a csr) := by
  refine RoundTrip.of _ _ rfl ?_
  intro stop gn gp
  unfold decodeOp; rw [word_op]
  show zeroIn _ _ _ = _
  try simp (disch := decide) only [word_fld, Instr.area, ext_lo, ext_hi, ext_at]
  refine word_zero ?_ ?_
  · decide
  iterate 12 (all_goals first | exact and_leaf _ _ (by decide) | exact BitVec.zero_and | refine and_parts _ _ _ ?_ ?_)

theorem RoundTrip.fenceCore : RoundTrip.Statement .fenceCore := by
  refine RoundTrip.of _ _ rfl ?_
  intro stop gn gp
  unfold decodeOp; rw [word_op]
  show zeroIn _ _ _ = _
  try simp (disch := decide) only [word_fld, Instr.area, ext_lo, ext_hi, ext_at]
  refine word_zero ?_ ?_
  · decide
  iterate 12 (all_goals first | exact and_leaf _ _ (by decide) | exact BitVec.zero_and | refine and_parts _ _ _ ?_ ?_)

theorem RoundTrip.fenceIsle : RoundTrip.Statement .fenceIsle := by
  refine RoundTrip.of _ _ rfl ?_
  intro stop gn gp
  unfold decodeOp; rw [word_op]
  show zeroIn _ _ _ = _
  try simp (disch := decide) only [word_fld, Instr.area, ext_lo, ext_hi, ext_at]
  refine word_zero ?_ ?_
  · decide
  iterate 12 (all_goals first | exact and_leaf _ _ (by decide) | exact BitVec.zero_and | refine and_parts _ _ _ ?_ ?_)

theorem RoundTrip.fenceMod : RoundTrip.Statement .fenceMod := by
  refine RoundTrip.of _ _ rfl ?_
  intro stop gn gp
  unfold decodeOp; rw [word_op]
  show zeroIn _ _ _ = _
  try simp (disch := decide) only [word_fld, Instr.area, ext_lo, ext_hi, ext_at]
  refine word_zero ?_ ?_
  · decide
  iterate 12 (all_goals first | exact and_leaf _ _ (by decide) | exact BitVec.zero_and | refine and_parts _ _ _ ?_ ?_)

theorem RoundTrip.fenceSys : RoundTrip.Statement .fenceSys := by
  refine RoundTrip.of _ _ rfl ?_
  intro stop gn gp
  unfold decodeOp; rw [word_op]
  show zeroIn _ _ _ = _
  try simp (disch := decide) only [word_fld, Instr.area, ext_lo, ext_hi, ext_at]
  refine word_zero ?_ ?_
  · decide
  iterate 12 (all_goals first | exact and_leaf _ _ (by decide) | exact BitVec.zero_and | refine and_parts _ _ _ ?_ ?_)

theorem RoundTrip.doneOp : RoundTrip.Statement .doneOp := by
  refine RoundTrip.of _ _ rfl ?_
  intro stop gn gp
  unfold decodeOp; rw [word_op]
  show zeroIn _ _ _ = _
  try simp (disch := decide) only [word_fld, Instr.area, ext_lo, ext_hi, ext_at]
  refine word_zero ?_ ?_
  · decide
  iterate 12 (all_goals first | exact and_leaf _ _ (by decide) | exact BitVec.zero_and | refine and_parts _ _ _ ?_ ?_)

theorem RoundTrip.dbar lv : RoundTrip.Statement (.dbar lv) := by
  refine RoundTrip.of _ _ rfl ?_
  intro stop gn gp
  unfold decodeOp; rw [word_op]
  show zeroIn _ _ _ = _
  try simp (disch := decide) only [word_fld, Instr.area, ext_lo, ext_hi, ext_at]
  refine word_zero ?_ ?_
  · decide
  iterate 12 (all_goals first | exact and_leaf _ _ (by decide) | exact BitVec.zero_and | refine and_parts _ _ _ ?_ ?_)

theorem RoundTrip.dbarA d lv : RoundTrip.Statement (.dbarA d lv) := by
  refine RoundTrip.of _ _ rfl ?_
  intro stop gn gp
  unfold decodeOp; rw [word_op]
  show zeroIn _ _ _ = _
  try simp (disch := decide) only [word_fld, Instr.area, ext_lo, ext_hi, ext_at]
  refine word_zero ?_ ?_
  · decide
  iterate 12 (all_goals first | exact and_leaf _ _ (by decide) | exact BitVec.zero_and | refine and_parts _ _ _ ?_ ?_)

theorem RoundTrip.dbarW a lv : RoundTrip.Statement (.dbarW a lv) := by
  refine RoundTrip.of _ _ rfl ?_
  intro stop gn gp
  unfold decodeOp; rw [word_op]
  show zeroIn _ _ _ = _
  try simp (disch := decide) only [word_fld, Instr.area, ext_lo, ext_hi, ext_at]
  refine word_zero ?_ ?_
  · decide
  iterate 12 (all_goals first | exact and_leaf _ _ (by decide) | exact BitVec.zero_and | refine and_parts _ _ _ ?_ ?_)

theorem RoundTrip.awaitMem d cb x sc off : RoundTrip.Statement (.awaitMem d cb x sc off) := by
  refine RoundTrip.of _ _ rfl ?_
  intro stop gn gp
  unfold decodeOp; rw [word_op]
  show zeroIn _ _ _ = _
  try simp (disch := decide) only [word_fld, Instr.area, ext_lo, ext_hi, ext_at]
  refine word_zero ?_ ?_
  · decide
  iterate 12 (all_goals first | exact and_leaf _ _ (by decide) | exact BitVec.zero_and | refine and_parts _ _ _ ?_ ?_)

theorem RoundTrip.add d a b : RoundTrip.Statement (.add d a b) := by
  refine RoundTrip.of _ _ rfl ?_
  intro stop gn gp
  unfold decodeOp; rw [word_op]
  show zeroIn _ _ _ = _
  try simp (disch := decide) only [word_fld, Instr.area, ext_lo, ext_hi, ext_at]
  refine word_zero ?_ ?_
  · decide
  iterate 12 (all_goals first | exact and_leaf _ _ (by decide) | exact BitVec.zero_and | refine and_parts _ _ _ ?_ ?_)

theorem RoundTrip.sub d a b : RoundTrip.Statement (.sub d a b) := by
  refine RoundTrip.of _ _ rfl ?_
  intro stop gn gp
  unfold decodeOp; rw [word_op]
  show zeroIn _ _ _ = _
  try simp (disch := decide) only [word_fld, Instr.area, ext_lo, ext_hi, ext_at]
  refine word_zero ?_ ?_
  · decide
  iterate 12 (all_goals first | exact and_leaf _ _ (by decide) | exact BitVec.zero_and | refine and_parts _ _ _ ?_ ?_)

theorem RoundTrip.addi d a imm : RoundTrip.Statement (.addi d a imm) := by
  refine RoundTrip.of _ _ rfl ?_
  intro stop gn gp
  unfold decodeOp; rw [word_op]
  show zeroIn _ _ _ = _
  try simp (disch := decide) only [word_fld, Instr.area, ext_lo, ext_hi, ext_at]
  refine word_zero ?_ ?_
  · decide
  iterate 12 (all_goals first | exact and_leaf _ _ (by decide) | exact BitVec.zero_and | refine and_parts _ _ _ ?_ ?_)

theorem RoundTrip.li d imm : RoundTrip.Statement (.li d imm) := by
  refine RoundTrip.of _ _ rfl ?_
  intro stop gn gp
  unfold decodeOp; rw [word_op]
  show zeroIn _ _ _ = _
  try simp (disch := decide) only [word_fld, Instr.area, ext_lo, ext_hi, ext_at]
  refine word_zero ?_ ?_
  · decide
  iterate 12 (all_goals first | exact and_leaf _ _ (by decide) | exact BitVec.zero_and | refine and_parts _ _ _ ?_ ?_)

theorem RoundTrip.mov d a : RoundTrip.Statement (.mov d a) := by
  refine RoundTrip.of _ _ rfl ?_
  intro stop gn gp
  unfold decodeOp; rw [word_op]
  show zeroIn _ _ _ = _
  try simp (disch := decide) only [word_fld, Instr.area, ext_lo, ext_hi, ext_at]
  refine word_zero ?_ ?_
  · decide
  iterate 12 (all_goals first | exact and_leaf _ _ (by decide) | exact BitVec.zero_and | refine and_parts _ _ _ ?_ ?_)

theorem RoundTrip.mul d a b : RoundTrip.Statement (.mul d a b) := by
  refine RoundTrip.of _ _ rfl ?_
  intro stop gn gp
  unfold decodeOp; rw [word_op]
  show zeroIn _ _ _ = _
  try simp (disch := decide) only [word_fld, Instr.area, ext_lo, ext_hi, ext_at]
  refine word_zero ?_ ?_
  · decide
  iterate 12 (all_goals first | exact and_leaf _ _ (by decide) | exact BitVec.zero_and | refine and_parts _ _ _ ?_ ?_)

theorem RoundTrip.mulhS d a b : RoundTrip.Statement (.mulhS d a b) := by
  refine RoundTrip.of _ _ rfl ?_
  intro stop gn gp
  unfold decodeOp; rw [word_op]
  show zeroIn _ _ _ = _
  try simp (disch := decide) only [word_fld, Instr.area, ext_lo, ext_hi, ext_at]
  refine word_zero ?_ ?_
  · decide
  iterate 12 (all_goals first | exact and_leaf _ _ (by decide) | exact BitVec.zero_and | refine and_parts _ _ _ ?_ ?_)

theorem RoundTrip.mulhZ d a b : RoundTrip.Statement (.mulhZ d a b) := by
  refine RoundTrip.of _ _ rfl ?_
  intro stop gn gp
  unfold decodeOp; rw [word_op]
  show zeroIn _ _ _ = _
  try simp (disch := decide) only [word_fld, Instr.area, ext_lo, ext_hi, ext_at]
  refine word_zero ?_ ?_
  · decide
  iterate 12 (all_goals first | exact and_leaf _ _ (by decide) | exact BitVec.zero_and | refine and_parts _ _ _ ?_ ?_)

theorem RoundTrip.mad d a b c : RoundTrip.Statement (.mad d a b c) := by
  refine RoundTrip.of _ _ rfl ?_
  intro stop gn gp
  unfold decodeOp; rw [word_op]
  show zeroIn _ _ _ = _
  try simp (disch := decide) only [word_fld, Instr.area, ext_lo, ext_hi, ext_at]
  refine word_zero ?_ ?_
  · decide
  iterate 12 (all_goals first | exact and_leaf _ _ (by decide) | exact BitVec.zero_and | refine and_parts _ _ _ ?_ ?_)

theorem RoundTrip.divS d a b : RoundTrip.Statement (.divS d a b) := by
  refine RoundTrip.of _ _ rfl ?_
  intro stop gn gp
  unfold decodeOp; rw [word_op]
  show zeroIn _ _ _ = _
  try simp (disch := decide) only [word_fld, Instr.area, ext_lo, ext_hi, ext_at]
  refine word_zero ?_ ?_
  · decide
  iterate 12 (all_goals first | exact and_leaf _ _ (by decide) | exact BitVec.zero_and | refine and_parts _ _ _ ?_ ?_)

theorem RoundTrip.divZ d a b : RoundTrip.Statement (.divZ d a b) := by
  refine RoundTrip.of _ _ rfl ?_
  intro stop gn gp
  unfold decodeOp; rw [word_op]
  show zeroIn _ _ _ = _
  try simp (disch := decide) only [word_fld, Instr.area, ext_lo, ext_hi, ext_at]
  refine word_zero ?_ ?_
  · decide
  iterate 12 (all_goals first | exact and_leaf _ _ (by decide) | exact BitVec.zero_and | refine and_parts _ _ _ ?_ ?_)

theorem RoundTrip.remS d a b : RoundTrip.Statement (.remS d a b) := by
  refine RoundTrip.of _ _ rfl ?_
  intro stop gn gp
  unfold decodeOp; rw [word_op]
  show zeroIn _ _ _ = _
  try simp (disch := decide) only [word_fld, Instr.area, ext_lo, ext_hi, ext_at]
  refine word_zero ?_ ?_
  · decide
  iterate 12 (all_goals first | exact and_leaf _ _ (by decide) | exact BitVec.zero_and | refine and_parts _ _ _ ?_ ?_)

theorem RoundTrip.remZ d a b : RoundTrip.Statement (.remZ d a b) := by
  refine RoundTrip.of _ _ rfl ?_
  intro stop gn gp
  unfold decodeOp; rw [word_op]
  show zeroIn _ _ _ = _
  try simp (disch := decide) only [word_fld, Instr.area, ext_lo, ext_hi, ext_at]
  refine word_zero ?_ ?_
  · decide
  iterate 12 (all_goals first | exact and_leaf _ _ (by decide) | exact BitVec.zero_and | refine and_parts _ _ _ ?_ ?_)

theorem RoundTrip.and d a b : RoundTrip.Statement (.and d a b) := by
  refine RoundTrip.of _ _ rfl ?_
  intro stop gn gp
  unfold decodeOp; rw [word_op]
  show zeroIn _ _ _ = _
  try simp (disch := decide) only [word_fld, Instr.area, ext_lo, ext_hi, ext_at]
  refine word_zero ?_ ?_
  · decide
  iterate 12 (all_goals first | exact and_leaf _ _ (by decide) | exact BitVec.zero_and | refine and_parts _ _ _ ?_ ?_)

theorem RoundTrip.or d a b : RoundTrip.Statement (.or d a b) := by
  refine RoundTrip.of _ _ rfl ?_
  intro stop gn gp
  unfold decodeOp; rw [word_op]
  show zeroIn _ _ _ = _
  try simp (disch := decide) only [word_fld, Instr.area, ext_lo, ext_hi, ext_at]
  refine word_zero ?_ ?_
  · decide
  iterate 12 (all_goals first | exact and_leaf _ _ (by decide) | exact BitVec.zero_and | refine and_parts _ _ _ ?_ ?_)

theorem RoundTrip.xor d a b : RoundTrip.Statement (.xor d a b) := by
  refine RoundTrip.of _ _ rfl ?_
  intro stop gn gp
  unfold decodeOp; rw [word_op]
  show zeroIn _ _ _ = _
  try simp (disch := decide) only [word_fld, Instr.area, ext_lo, ext_hi, ext_at]
  refine word_zero ?_ ?_
  · decide
  iterate 12 (all_goals first | exact and_leaf _ _ (by decide) | exact BitVec.zero_and | refine and_parts _ _ _ ?_ ?_)

theorem RoundTrip.andn d a b : RoundTrip.Statement (.andn d a b) := by
  refine RoundTrip.of _ _ rfl ?_
  intro stop gn gp
  unfold decodeOp; rw [word_op]
  show zeroIn _ _ _ = _
  try simp (disch := decide) only [word_fld, Instr.area, ext_lo, ext_hi, ext_at]
  refine word_zero ?_ ?_
  · decide
  iterate 12 (all_goals first | exact and_leaf _ _ (by decide) | exact BitVec.zero_and | refine and_parts _ _ _ ?_ ?_)

theorem RoundTrip.shl d a b : RoundTrip.Statement (.shl d a b) := by
  refine RoundTrip.of _ _ rfl ?_
  intro stop gn gp
  unfold decodeOp; rw [word_op]
  show zeroIn _ _ _ = _
  try simp (disch := decide) only [word_fld, Instr.area, ext_lo, ext_hi, ext_at]
  refine word_zero ?_ ?_
  · decide
  iterate 12 (all_goals first | exact and_leaf _ _ (by decide) | exact BitVec.zero_and | refine and_parts _ _ _ ?_ ?_)

theorem RoundTrip.shrZ d a b : RoundTrip.Statement (.shrZ d a b) := by
  refine RoundTrip.of _ _ rfl ?_
  intro stop gn gp
  unfold decodeOp; rw [word_op]
  show zeroIn _ _ _ = _
  try simp (disch := decide) only [word_fld, Instr.area, ext_lo, ext_hi, ext_at]
  refine word_zero ?_ ?_
  · decide
  iterate 12 (all_goals first | exact and_leaf _ _ (by decide) | exact BitVec.zero_and | refine and_parts _ _ _ ?_ ?_)

theorem RoundTrip.shrS d a b : RoundTrip.Statement (.shrS d a b) := by
  refine RoundTrip.of _ _ rfl ?_
  intro stop gn gp
  unfold decodeOp; rw [word_op]
  show zeroIn _ _ _ = _
  try simp (disch := decide) only [word_fld, Instr.area, ext_lo, ext_hi, ext_at]
  refine word_zero ?_ ?_
  · decide
  iterate 12 (all_goals first | exact and_leaf _ _ (by decide) | exact BitVec.zero_and | refine and_parts _ _ _ ?_ ?_)

theorem RoundTrip.rotl d a b : RoundTrip.Statement (.rotl d a b) := by
  refine RoundTrip.of _ _ rfl ?_
  intro stop gn gp
  unfold decodeOp; rw [word_op]
  show zeroIn _ _ _ = _
  try simp (disch := decide) only [word_fld, Instr.area, ext_lo, ext_hi, ext_at]
  refine word_zero ?_ ?_
  · decide
  iterate 12 (all_goals first | exact and_leaf _ _ (by decide) | exact BitVec.zero_and | refine and_parts _ _ _ ?_ ?_)

theorem RoundTrip.clz d a : RoundTrip.Statement (.clz d a) := by
  refine RoundTrip.of _ _ rfl ?_
  intro stop gn gp
  unfold decodeOp; rw [word_op]
  show zeroIn _ _ _ = _
  try simp (disch := decide) only [word_fld, Instr.area, ext_lo, ext_hi, ext_at]
  refine word_zero ?_ ?_
  · decide
  iterate 12 (all_goals first | exact and_leaf _ _ (by decide) | exact BitVec.zero_and | refine and_parts _ _ _ ?_ ?_)

theorem RoundTrip.ctz d a : RoundTrip.Statement (.ctz d a) := by
  refine RoundTrip.of _ _ rfl ?_
  intro stop gn gp
  unfold decodeOp; rw [word_op]
  show zeroIn _ _ _ = _
  try simp (disch := decide) only [word_fld, Instr.area, ext_lo, ext_hi, ext_at]
  refine word_zero ?_ ?_
  · decide
  iterate 12 (all_goals first | exact and_leaf _ _ (by decide) | exact BitVec.zero_and | refine and_parts _ _ _ ?_ ?_)

theorem RoundTrip.popc d a : RoundTrip.Statement (.popc d a) := by
  refine RoundTrip.of _ _ rfl ?_
  intro stop gn gp
  unfold decodeOp; rw [word_op]
  show zeroIn _ _ _ = _
  try simp (disch := decide) only [word_fld, Instr.area, ext_lo, ext_hi, ext_at]
  refine word_zero ?_ ?_
  · decide
  iterate 12 (all_goals first | exact and_leaf _ _ (by decide) | exact BitVec.zero_and | refine and_parts _ _ _ ?_ ?_)

theorem RoundTrip.minS d a b : RoundTrip.Statement (.minS d a b) := by
  refine RoundTrip.of _ _ rfl ?_
  intro stop gn gp
  unfold decodeOp; rw [word_op]
  show zeroIn _ _ _ = _
  try simp (disch := decide) only [word_fld, Instr.area, ext_lo, ext_hi, ext_at]
  refine word_zero ?_ ?_
  · decide
  iterate 12 (all_goals first | exact and_leaf _ _ (by decide) | exact BitVec.zero_and | refine and_parts _ _ _ ?_ ?_)

theorem RoundTrip.minZ d a b : RoundTrip.Statement (.minZ d a b) := by
  refine RoundTrip.of _ _ rfl ?_
  intro stop gn gp
  unfold decodeOp; rw [word_op]
  show zeroIn _ _ _ = _
  try simp (disch := decide) only [word_fld, Instr.area, ext_lo, ext_hi, ext_at]
  refine word_zero ?_ ?_
  · decide
  iterate 12 (all_goals first | exact and_leaf _ _ (by decide) | exact BitVec.zero_and | refine and_parts _ _ _ ?_ ?_)

theorem RoundTrip.maxS d a b : RoundTrip.Statement (.maxS d a b) := by
  refine RoundTrip.of _ _ rfl ?_
  intro stop gn gp
  unfold decodeOp; rw [word_op]
  show zeroIn _ _ _ = _
  try simp (disch := decide) only [word_fld, Instr.area, ext_lo, ext_hi, ext_at]
  refine word_zero ?_ ?_
  · decide
  iterate 12 (all_goals first | exact and_leaf _ _ (by decide) | exact BitVec.zero_and | refine and_parts _ _ _ ?_ ?_)

theorem RoundTrip.maxZ d a b : RoundTrip.Statement (.maxZ d a b) := by
  refine RoundTrip.of _ _ rfl ?_
  intro stop gn gp
  unfold decodeOp; rw [word_op]
  show zeroIn _ _ _ = _
  try simp (disch := decide) only [word_fld, Instr.area, ext_lo, ext_hi, ext_at]
  refine word_zero ?_ ?_
  · decide
  iterate 12 (all_goals first | exact and_leaf _ _ (by decide) | exact BitVec.zero_and | refine and_parts _ _ _ ?_ ?_)

theorem RoundTrip.sel d a b c : RoundTrip.Statement (.sel d a b c) := by
  refine RoundTrip.of _ _ rfl ?_
  intro stop gn gp
  unfold decodeOp; rw [word_op]
  show zeroIn _ _ _ = _
  try simp (disch := decide) only [word_fld, Instr.area, ext_lo, ext_hi, ext_at]
  refine word_zero ?_ ?_
  · decide
  iterate 12 (all_goals first | exact and_leaf _ _ (by decide) | exact BitVec.zero_and | refine and_parts _ _ _ ?_ ?_)

theorem RoundTrip.cmp cnd d a b : RoundTrip.Statement (.cmp cnd d a b) := by
  refine RoundTrip.of _ _ rfl ?_
  intro stop gn gp
  unfold decodeOp; rw [word_op]
  show zeroIn _ _ _ = _
  try simp (disch := decide) only [word_fld, Instr.area, ext_lo, ext_hi, ext_at]
  refine word_zero ?_ ?_
  · decide
  iterate 12 (all_goals first | exact and_leaf _ _ (by decide) | exact BitVec.zero_and | refine and_parts _ _ _ ?_ ?_)

theorem RoundTrip.cmpi cnd d a imm : RoundTrip.Statement (.cmpi cnd d a imm) := by
  refine RoundTrip.of _ _ rfl ?_
  intro stop gn gp
  unfold decodeOp; rw [word_op]
  show zeroIn _ _ _ = _
  try simp (disch := decide) only [word_fld, Instr.area, ext_lo, ext_hi, ext_at]
  refine word_zero ?_ ?_
  · decide
  iterate 12 (all_goals first | exact and_leaf _ _ (by decide) | exact BitVec.zero_and | refine and_parts _ _ _ ?_ ?_)

theorem RoundTrip.pmix d a b t : RoundTrip.Statement (.pmix d a b t) := by
  refine RoundTrip.of _ _ rfl ?_
  intro stop gn gp
  unfold decodeOp; rw [word_op]
  show zeroIn _ _ _ = _
  try simp (disch := decide) only [word_fld, Instr.area, ext_lo, ext_hi, ext_at]
  refine word_zero ?_ ?_
  · decide
  iterate 12 (all_goals first | exact and_leaf _ _ (by decide) | exact BitVec.zero_and | refine and_parts _ _ _ ?_ ?_)

theorem RoundTrip.extS8 d a : RoundTrip.Statement (.extS8 d a) := by
  refine RoundTrip.of _ _ rfl ?_
  intro stop gn gp
  unfold decodeOp; rw [word_op]
  show zeroIn _ _ _ = _
  try simp (disch := decide) only [word_fld, Instr.area, ext_lo, ext_hi, ext_at]
  refine word_zero ?_ ?_
  · decide
  iterate 12 (all_goals first | exact and_leaf _ _ (by decide) | exact BitVec.zero_and | refine and_parts _ _ _ ?_ ?_)

theorem RoundTrip.extS16 d a : RoundTrip.Statement (.extS16 d a) := by
  refine RoundTrip.of _ _ rfl ?_
  intro stop gn gp
  unfold decodeOp; rw [word_op]
  show zeroIn _ _ _ = _
  try simp (disch := decide) only [word_fld, Instr.area, ext_lo, ext_hi, ext_at]
  refine word_zero ?_ ?_
  · decide
  iterate 12 (all_goals first | exact and_leaf _ _ (by decide) | exact BitVec.zero_and | refine and_parts _ _ _ ?_ ?_)

theorem RoundTrip.extS32 d a : RoundTrip.Statement (.extS32 d a) := by
  refine RoundTrip.of _ _ rfl ?_
  intro stop gn gp
  unfold decodeOp; rw [word_op]
  show zeroIn _ _ _ = _
  try simp (disch := decide) only [word_fld, Instr.area, ext_lo, ext_hi, ext_at]
  refine word_zero ?_ ?_
  · decide
  iterate 12 (all_goals first | exact and_leaf _ _ (by decide) | exact BitVec.zero_and | refine and_parts _ _ _ ?_ ?_)

theorem RoundTrip.extZ8 d a : RoundTrip.Statement (.extZ8 d a) := by
  refine RoundTrip.of _ _ rfl ?_
  intro stop gn gp
  unfold decodeOp; rw [word_op]
  show zeroIn _ _ _ = _
  try simp (disch := decide) only [word_fld, Instr.area, ext_lo, ext_hi, ext_at]
  refine word_zero ?_ ?_
  · decide
  iterate 12 (all_goals first | exact and_leaf _ _ (by decide) | exact BitVec.zero_and | refine and_parts _ _ _ ?_ ?_)

theorem RoundTrip.extZ16 d a : RoundTrip.Statement (.extZ16 d a) := by
  refine RoundTrip.of _ _ rfl ?_
  intro stop gn gp
  unfold decodeOp; rw [word_op]
  show zeroIn _ _ _ = _
  try simp (disch := decide) only [word_fld, Instr.area, ext_lo, ext_hi, ext_at]
  refine word_zero ?_ ?_
  · decide
  iterate 12 (all_goals first | exact and_leaf _ _ (by decide) | exact BitVec.zero_and | refine and_parts _ _ _ ?_ ?_)

theorem RoundTrip.extZ32 d a : RoundTrip.Statement (.extZ32 d a) := by
  refine RoundTrip.of _ _ rfl ?_
  intro stop gn gp
  unfold decodeOp; rw [word_op]
  show zeroIn _ _ _ = _
  try simp (disch := decide) only [word_fld, Instr.area, ext_lo, ext_hi, ext_at]
  refine word_zero ?_ ?_
  · decide
  iterate 12 (all_goals first | exact and_leaf _ _ (by decide) | exact BitVec.zero_and | refine and_parts _ _ _ ?_ ?_)

theorem RoundTrip.addsS64 d a b : RoundTrip.Statement (.addsS64 d a b) := by
  refine RoundTrip.of _ _ rfl ?_
  intro stop gn gp
  unfold decodeOp; rw [word_op]
  show zeroIn _ _ _ = _
  try simp (disch := decide) only [word_fld, Instr.area, ext_lo, ext_hi, ext_at]
  refine word_zero ?_ ?_
  · decide
  iterate 12 (all_goals first | exact and_leaf _ _ (by decide) | exact BitVec.zero_and | refine and_parts _ _ _ ?_ ?_)

theorem RoundTrip.bfx d a pos len sx : RoundTrip.Statement (.bfx d a pos len sx) := by
  refine RoundTrip.of _ _ rfl ?_
  intro stop gn gp
  unfold decodeOp; rw [word_op]
  show zeroIn _ _ _ = _
  try simp (disch := decide) only [word_fld, Instr.area, ext_lo, ext_hi, ext_at]
  refine word_zero ?_ ?_
  · decide
  iterate 12 (all_goals first | exact and_leaf _ _ (by decide) | exact BitVec.zero_and | refine and_parts _ _ _ ?_ ?_)

theorem RoundTrip.bfi d a pos len : RoundTrip.Statement (.bfi d a pos len) := by
  refine RoundTrip.of _ _ rfl ?_
  intro stop gn gp
  unfold decodeOp; rw [word_op]
  show zeroIn _ _ _ = _
  try simp (disch := decide) only [word_fld, Instr.area, ext_lo, ext_hi, ext_at]
  refine word_zero ?_ ?_
  · decide
  iterate 12 (all_goals first | exact and_leaf _ _ (by decide) | exact BitVec.zero_and | refine and_parts _ _ _ ?_ ?_)

theorem RoundTrip.rnd d a b c w : RoundTrip.Statement (.rnd d a b c w) := by
  refine RoundTrip.of _ _ rfl ?_
  intro stop gn gp
  unfold decodeOp; rw [word_op]
  show zeroIn _ _ _ = _
  try simp (disch := decide) only [word_fld, Instr.area, ext_lo, ext_hi, ext_at]
  refine word_zero ?_ ?_
  · decide
  iterate 12 (all_goals first | exact and_leaf _ _ (by decide) | exact BitVec.zero_and | refine and_parts _ _ _ ?_ ?_)

theorem RoundTrip.cmov d a : RoundTrip.Statement (.cmov d a) := by
  refine RoundTrip.of _ _ rfl ?_
  intro stop gn gp
  unfold decodeOp; rw [word_op]
  show zeroIn _ _ _ = _
  try simp (disch := decide) only [word_fld, Instr.area, ext_lo, ext_hi, ext_at]
  refine word_zero ?_ ?_
  · decide
  iterate 12 (all_goals first | exact and_leaf _ _ (by decide) | exact BitVec.zero_and | refine and_parts _ _ _ ?_ ?_)

theorem RoundTrip.cinc d a b : RoundTrip.Statement (.cinc d a b) := by
  refine RoundTrip.of _ _ rfl ?_
  intro stop gn gp
  unfold decodeOp; rw [word_op]
  show zeroIn _ _ _ = _
  try simp (disch := decide) only [word_fld, Instr.area, ext_lo, ext_hi, ext_at]
  refine word_zero ?_ ?_
  · decide
  iterate 12 (all_goals first | exact and_leaf _ _ (by decide) | exact BitVec.zero_and | refine and_parts _ _ _ ?_ ?_)

theorem RoundTrip.cinci d a imm : RoundTrip.Statement (.cinci d a imm) := by
  refine RoundTrip.of _ _ rfl ?_
  intro stop gn gp
  unfold decodeOp; rw [word_op]
  show zeroIn _ _ _ = _
  try simp (disch := decide) only [word_fld, Instr.area, ext_lo, ext_hi, ext_at]
  refine word_zero ?_ ?_
  · decide
  iterate 12 (all_goals first | exact and_leaf _ _ (by decide) | exact BitVec.zero_and | refine and_parts _ _ _ ?_ ?_)

theorem RoundTrip.cbound d a b : RoundTrip.Statement (.cbound d a b) := by
  refine RoundTrip.of _ _ rfl ?_
  intro stop gn gp
  unfold decodeOp; rw [word_op]
  show zeroIn _ _ _ = _
  try simp (disch := decide) only [word_fld, Instr.area, ext_lo, ext_hi, ext_at]
  refine word_zero ?_ ?_
  · decide
  iterate 12 (all_goals first | exact and_leaf _ _ (by decide) | exact BitVec.zero_and | refine and_parts _ _ _ ?_ ?_)

theorem RoundTrip.cperm d a mask : RoundTrip.Statement (.cperm d a mask) := by
  refine RoundTrip.of _ _ rfl ?_
  intro stop gn gp
  unfold decodeOp; rw [word_op]
  show zeroIn _ _ _ = _
  try simp (disch := decide) only [word_fld, Instr.area, ext_lo, ext_hi, ext_at]
  refine word_zero ?_ ?_
  · decide
  iterate 12 (all_goals first | exact and_leaf _ _ (by decide) | exact BitVec.zero_and | refine and_parts _ _ _ ?_ ?_)

theorem RoundTrip.cgetb d a : RoundTrip.Statement (.cgetb d a) := by
  refine RoundTrip.of _ _ rfl ?_
  intro stop gn gp
  unfold decodeOp; rw [word_op]
  show zeroIn _ _ _ = _
  try simp (disch := decide) only [word_fld, Instr.area, ext_lo, ext_hi, ext_at]
  refine word_zero ?_ ?_
  · decide
  iterate 12 (all_goals first | exact and_leaf _ _ (by decide) | exact BitVec.zero_and | refine and_parts _ _ _ ?_ ?_)

theorem RoundTrip.cgetl d a : RoundTrip.Statement (.cgetl d a) := by
  refine RoundTrip.of _ _ rfl ?_
  intro stop gn gp
  unfold decodeOp; rw [word_op]
  show zeroIn _ _ _ = _
  try simp (disch := decide) only [word_fld, Instr.area, ext_lo, ext_hi, ext_at]
  refine word_zero ?_ ?_
  · decide
  iterate 12 (all_goals first | exact and_leaf _ _ (by decide) | exact BitVec.zero_and | refine and_parts _ _ _ ?_ ?_)

theorem RoundTrip.cgeto d a : RoundTrip.Statement (.cgeto d a) := by
  refine RoundTrip.of _ _ rfl ?_
  intro stop gn gp
  unfold decodeOp; rw [word_op]
  show zeroIn _ _ _ = _
  try simp (disch := decide) only [word_fld, Instr.area, ext_lo, ext_hi, ext_at]
  refine word_zero ?_ ?_
  · decide
  iterate 12 (all_goals first | exact and_leaf _ _ (by decide) | exact BitVec.zero_and | refine and_parts _ _ _ ?_ ?_)

theorem RoundTrip.cgetp d a : RoundTrip.Statement (.cgetp d a) := by
  refine RoundTrip.of _ _ rfl ?_
  intro stop gn gp
  unfold decodeOp; rw [word_op]
  show zeroIn _ _ _ = _
  try simp (disch := decide) only [word_fld, Instr.area, ext_lo, ext_hi, ext_at]
  refine word_zero ?_ ?_
  · decide
  iterate 12 (all_goals first | exact and_leaf _ _ (by decide) | exact BitVec.zero_and | refine and_parts _ _ _ ?_ ?_)

theorem RoundTrip.ctest d a : RoundTrip.Statement (.ctest d a) := by
  refine RoundTrip.of _ _ rfl ?_
  intro stop gn gp
  unfold decodeOp; rw [word_op]
  show zeroIn _ _ _ = _
  try simp (disch := decide) only [word_fld, Instr.area, ext_lo, ext_hi, ext_at]
  refine word_zero ?_ ?_
  · decide
  iterate 12 (all_goals first | exact and_leaf _ _ (by decide) | exact BitVec.zero_and | refine and_parts _ _ _ ?_ ?_)

theorem RoundTrip.cle d a b : RoundTrip.Statement (.cle d a b) := by
  refine RoundTrip.of _ _ rfl ?_
  intro stop gn gp
  unfold decodeOp; rw [word_op]
  show zeroIn _ _ _ = _
  try simp (disch := decide) only [word_fld, Instr.area, ext_lo, ext_hi, ext_at]
  refine word_zero ?_ ?_
  · decide
  iterate 12 (all_goals first | exact and_leaf _ _ (by decide) | exact BitVec.zero_and | refine and_parts _ _ _ ?_ ?_)

theorem RoundTrip.cclr d : RoundTrip.Statement (.cclr d) := by
  refine RoundTrip.of _ _ rfl ?_
  intro stop gn gp
  unfold decodeOp; rw [word_op]
  show zeroIn _ _ _ = _
  try simp (disch := decide) only [word_fld, Instr.area, ext_lo, ext_hi, ext_at]
  refine word_zero ?_ ?_
  · decide
  iterate 12 (all_goals first | exact and_leaf _ _ (by decide) | exact BitVec.zero_and | refine and_parts _ _ _ ?_ ?_)

theorem RoundTrip.caddr d a b : RoundTrip.Statement (.caddr d a b) := by
  refine RoundTrip.of _ _ rfl ?_
  intro stop gn gp
  unfold decodeOp; rw [word_op]
  show zeroIn _ _ _ = _
  try simp (disch := decide) only [word_fld, Instr.area, ext_lo, ext_hi, ext_at]
  refine word_zero ?_ ?_
  · decide
  iterate 12 (all_goals first | exact and_leaf _ _ (by decide) | exact BitVec.zero_and | refine and_parts _ _ _ ?_ ?_)

theorem RoundTrip.cld d cb x sc off : RoundTrip.Statement (.cld d cb x sc off) := by
  refine RoundTrip.of _ _ rfl ?_
  intro stop gn gp
  unfold decodeOp; rw [word_op]
  show zeroIn _ _ _ = _
  try simp (disch := decide) only [word_fld, Instr.area, ext_lo, ext_hi, ext_at]
  refine word_zero ?_ ?_
  · decide
  iterate 12 (all_goals first | exact and_leaf _ _ (by decide) | exact BitVec.zero_and | refine and_parts _ _ _ ?_ ?_)

theorem RoundTrip.cst d cb x sc off : RoundTrip.Statement (.cst d cb x sc off) := by
  refine RoundTrip.of _ _ rfl ?_
  intro stop gn gp
  unfold decodeOp; rw [word_op]
  show zeroIn _ _ _ = _
  try simp (disch := decide) only [word_fld, Instr.area, ext_lo, ext_hi, ext_at]
  refine word_zero ?_ ?_
  · decide
  iterate 12 (all_goals first | exact and_leaf _ _ (by decide) | exact BitVec.zero_and | refine and_parts _ _ _ ?_ ?_)

theorem RoundTrip.cfoot d k : RoundTrip.Statement (.cfoot d k) := by
  refine RoundTrip.of _ _ rfl ?_
  intro stop gn gp
  unfold decodeOp; rw [word_op]
  show zeroIn _ _ _ = _
  try simp (disch := decide) only [word_fld, Instr.area, ext_lo, ext_hi, ext_at]
  refine word_zero ?_ ?_
  · decide
  iterate 12 (all_goals first | exact and_leaf _ _ (by decide) | exact BitVec.zero_and | refine and_parts _ _ _ ?_ ?_)

theorem RoundTrip.ldS8 d cb x sc off : RoundTrip.Statement (.ldS8 d cb x sc off) := by
  refine RoundTrip.of _ _ rfl ?_
  intro stop gn gp
  unfold decodeOp; rw [word_op]
  show zeroIn _ _ _ = _
  try simp (disch := decide) only [word_fld, Instr.area, ext_lo, ext_hi, ext_at]
  refine word_zero ?_ ?_
  · decide
  iterate 12 (all_goals first | exact and_leaf _ _ (by decide) | exact BitVec.zero_and | refine and_parts _ _ _ ?_ ?_)

theorem RoundTrip.ldZ8 d cb x sc off : RoundTrip.Statement (.ldZ8 d cb x sc off) := by
  refine RoundTrip.of _ _ rfl ?_
  intro stop gn gp
  unfold decodeOp; rw [word_op]
  show zeroIn _ _ _ = _
  try simp (disch := decide) only [word_fld, Instr.area, ext_lo, ext_hi, ext_at]
  refine word_zero ?_ ?_
  · decide
  iterate 12 (all_goals first | exact and_leaf _ _ (by decide) | exact BitVec.zero_and | refine and_parts _ _ _ ?_ ?_)

theorem RoundTrip.ldS16 d cb x sc off : RoundTrip.Statement (.ldS16 d cb x sc off) := by
  refine RoundTrip.of _ _ rfl ?_
  intro stop gn gp
  unfold decodeOp; rw [word_op]
  show zeroIn _ _ _ = _
  try simp (disch := decide) only [word_fld, Instr.area, ext_lo, ext_hi, ext_at]
  refine word_zero ?_ ?_
  · decide
  iterate 12 (all_goals first | exact and_leaf _ _ (by decide) | exact BitVec.zero_and | refine and_parts _ _ _ ?_ ?_)

theorem RoundTrip.ldZ16 d cb x sc off : RoundTrip.Statement (.ldZ16 d cb x sc off) := by
  refine RoundTrip.of _ _ rfl ?_
  intro stop gn gp
  unfold decodeOp; rw [word_op]
  show zeroIn _ _ _ = _
  try simp (disch := decide) only [word_fld, Instr.area, ext_lo, ext_hi, ext_at]
  refine word_zero ?_ ?_
  · decide
  iterate 12 (all_goals first | exact and_leaf _ _ (by decide) | exact BitVec.zero_and | refine and_parts _ _ _ ?_ ?_)

theorem RoundTrip.ldS32 d cb x sc off : RoundTrip.Statement (.ldS32 d cb x sc off) := by
  refine RoundTrip.of _ _ rfl ?_
  intro stop gn gp
  unfold decodeOp; rw [word_op]
  show zeroIn _ _ _ = _
  try simp (disch := decide) only [word_fld, Instr.area, ext_lo, ext_hi, ext_at]
  refine word_zero ?_ ?_
  · decide
  iterate 12 (all_goals first | exact and_leaf _ _ (by decide) | exact BitVec.zero_and | refine and_parts _ _ _ ?_ ?_)

theorem RoundTrip.ldZ32 d cb x sc off : RoundTrip.Statement (.ldZ32 d cb x sc off) := by
  refine RoundTrip.of _ _ rfl ?_
  intro stop gn gp
  unfold decodeOp; rw [word_op]
  show zeroIn _ _ _ = _
  try simp (disch := decide) only [word_fld, Instr.area, ext_lo, ext_hi, ext_at]
  refine word_zero ?_ ?_
  · decide
  iterate 12 (all_goals first | exact and_leaf _ _ (by decide) | exact BitVec.zero_and | refine and_parts _ _ _ ?_ ?_)

theorem RoundTrip.ld64 d cb x sc off : RoundTrip.Statement (.ld64 d cb x sc off) := by
  refine RoundTrip.of _ _ rfl ?_
  intro stop gn gp
  unfold decodeOp; rw [word_op]
  show zeroIn _ _ _ = _
  try simp (disch := decide) only [word_fld, Instr.area, ext_lo, ext_hi, ext_at]
  refine word_zero ?_ ?_
  · decide
  iterate 12 (all_goals first | exact and_leaf _ _ (by decide) | exact BitVec.zero_and | refine and_parts _ _ _ ?_ ?_)

theorem RoundTrip.st8 d cb x sc off : RoundTrip.Statement (.st8 d cb x sc off) := by
  refine RoundTrip.of _ _ rfl ?_
  intro stop gn gp
  unfold decodeOp; rw [word_op]
  show zeroIn _ _ _ = _
  try simp (disch := decide) only [word_fld, Instr.area, ext_lo, ext_hi, ext_at]
  refine word_zero ?_ ?_
  · decide
  iterate 12 (all_goals first | exact and_leaf _ _ (by decide) | exact BitVec.zero_and | refine and_parts _ _ _ ?_ ?_)

theorem RoundTrip.st16 d cb x sc off : RoundTrip.Statement (.st16 d cb x sc off) := by
  refine RoundTrip.of _ _ rfl ?_
  intro stop gn gp
  unfold decodeOp; rw [word_op]
  show zeroIn _ _ _ = _
  try simp (disch := decide) only [word_fld, Instr.area, ext_lo, ext_hi, ext_at]
  refine word_zero ?_ ?_
  · decide
  iterate 12 (all_goals first | exact and_leaf _ _ (by decide) | exact BitVec.zero_and | refine and_parts _ _ _ ?_ ?_)

theorem RoundTrip.st32 d cb x sc off : RoundTrip.Statement (.st32 d cb x sc off) := by
  refine RoundTrip.of _ _ rfl ?_
  intro stop gn gp
  unfold decodeOp; rw [word_op]
  show zeroIn _ _ _ = _
  try simp (disch := decide) only [word_fld, Instr.area, ext_lo, ext_hi, ext_at]
  refine word_zero ?_ ?_
  · decide
  iterate 12 (all_goals first | exact and_leaf _ _ (by decide) | exact BitVec.zero_and | refine and_parts _ _ _ ?_ ?_)

theorem RoundTrip.st64 d cb x sc off : RoundTrip.Statement (.st64 d cb x sc off) := by
  refine RoundTrip.of _ _ rfl ?_
  intro stop gn gp
  unfold decodeOp; rw [word_op]
  show zeroIn _ _ _ = _
  try simp (disch := decide) only [word_fld, Instr.area, ext_lo, ext_hi, ext_at]
  refine word_zero ?_ ?_
  · decide
  iterate 12 (all_goals first | exact and_leaf _ _ (by decide) | exact BitVec.zero_and | refine and_parts _ _ _ ?_ ?_)

theorem RoundTrip.vld d cb x sc off : RoundTrip.Statement (.vld d cb x sc off) := by
  refine RoundTrip.of _ _ rfl ?_
  intro stop gn gp
  unfold decodeOp; rw [word_op]
  show zeroIn _ _ _ = _
  try simp (disch := decide) only [word_fld, Instr.area, ext_lo, ext_hi, ext_at]
  refine word_zero ?_ ?_
  · decide
  iterate 12 (all_goals first | exact and_leaf _ _ (by decide) | exact BitVec.zero_and | refine and_parts _ _ _ ?_ ?_)

theorem RoundTrip.vst d cb x sc off : RoundTrip.Statement (.vst d cb x sc off) := by
  refine RoundTrip.of _ _ rfl ?_
  intro stop gn gp
  unfold decodeOp; rw [word_op]
  show zeroIn _ _ _ = _
  try simp (disch := decide) only [word_fld, Instr.area, ext_lo, ext_hi, ext_at]
  refine word_zero ?_ ?_
  · decide
  iterate 12 (all_goals first | exact and_leaf _ _ (by decide) | exact BitVec.zero_and | refine and_parts _ _ _ ?_ ?_)

theorem RoundTrip.vldBc d cb x sc off : RoundTrip.Statement (.vldBc d cb x sc off) := by
  refine RoundTrip.of _ _ rfl ?_
  intro stop gn gp
  unfold decodeOp; rw [word_op]
  show zeroIn _ _ _ = _
  try simp (disch := decide) only [word_fld, Instr.area, ext_lo, ext_hi, ext_at]
  refine word_zero ?_ ?_
  · decide
  iterate 12 (all_goals first | exact and_leaf _ _ (by decide) | exact BitVec.zero_and | refine and_parts _ _ _ ?_ ?_)

theorem RoundTrip.vgath d cb x sc off : RoundTrip.Statement (.vgath d cb x sc off) := by
  refine RoundTrip.of _ _ rfl ?_
  intro stop gn gp
  unfold decodeOp; rw [word_op]
  show zeroIn _ _ _ = _
  try simp (disch := decide) only [word_fld, Instr.area, ext_lo, ext_hi, ext_at]
  refine word_zero ?_ ?_
  · decide
  iterate 12 (all_goals first | exact and_leaf _ _ (by decide) | exact BitVec.zero_and | refine and_parts _ _ _ ?_ ?_)

theorem RoundTrip.vscat d cb x sc off : RoundTrip.Statement (.vscat d cb x sc off) := by
  refine RoundTrip.of _ _ rfl ?_
  intro stop gn gp
  unfold decodeOp; rw [word_op]
  show zeroIn _ _ _ = _
  try simp (disch := decide) only [word_fld, Instr.area, ext_lo, ext_hi, ext_at]
  refine word_zero ?_ ?_
  · decide
  iterate 12 (all_goals first | exact and_leaf _ _ (by decide) | exact BitVec.zero_and | refine and_parts _ _ _ ?_ ?_)

theorem RoundTrip.ldfeW d cb x sc off : RoundTrip.Statement (.ldfeW d cb x sc off) := by
  refine RoundTrip.of _ _ rfl ?_
  intro stop gn gp
  unfold decodeOp; rw [word_op]
  show zeroIn _ _ _ = _
  try simp (disch := decide) only [word_fld, Instr.area, ext_lo, ext_hi, ext_at]
  refine word_zero ?_ ?_
  · decide
  iterate 12 (all_goals first | exact and_leaf _ _ (by decide) | exact BitVec.zero_and | refine and_parts _ _ _ ?_ ?_)

theorem RoundTrip.ldfeC d cb x sc off : RoundTrip.Statement (.ldfeC d cb x sc off) := by
  refine RoundTrip.of _ _ rfl ?_
  intro stop gn gp
  unfold decodeOp; rw [word_op]
  show zeroIn _ _ _ = _
  try simp (disch := decide) only [word_fld, Instr.area, ext_lo, ext_hi, ext_at]
  refine word_zero ?_ ?_
  · decide
  iterate 12 (all_goals first | exact and_leaf _ _ (by decide) | exact BitVec.zero_and | refine and_parts _ _ _ ?_ ?_)

theorem RoundTrip.vldfeW d cb x sc off : RoundTrip.Statement (.vldfeW d cb x sc off) := by
  refine RoundTrip.of _ _ rfl ?_
  intro stop gn gp
  unfold decodeOp; rw [word_op]
  show zeroIn _ _ _ = _
  try simp (disch := decide) only [word_fld, Instr.area, ext_lo, ext_hi, ext_at]
  refine word_zero ?_ ?_
  · decide
  iterate 12 (all_goals first | exact and_leaf _ _ (by decide) | exact BitVec.zero_and | refine and_parts _ _ _ ?_ ?_)

theorem RoundTrip.vldfeC d cb x sc off : RoundTrip.Statement (.vldfeC d cb x sc off) := by
  refine RoundTrip.of _ _ rfl ?_
  intro stop gn gp
  unfold decodeOp; rw [word_op]
  show zeroIn _ _ _ = _
  try simp (disch := decide) only [word_fld, Instr.area, ext_lo, ext_hi, ext_at]
  refine word_zero ?_ ?_
  · decide
  iterate 12 (all_goals first | exact and_leaf _ _ (by decide) | exact BitVec.zero_and | refine and_parts _ _ _ ?_ ?_)

theorem RoundTrip.fset d cb x sc off : RoundTrip.Statement (.fset d cb x sc off) := by
  refine RoundTrip.of _ _ rfl ?_
  intro stop gn gp
  unfold decodeOp; rw [word_op]
  show zeroIn _ _ _ = _
  try simp (disch := decide) only [word_fld, Instr.area, ext_lo, ext_hi, ext_at]
  refine word_zero ?_ ?_
  · decide
  iterate 12 (all_goals first | exact and_leaf _ _ (by decide) | exact BitVec.zero_and | refine and_parts _ _ _ ?_ ?_)

theorem RoundTrip.fclr d cb x sc off : RoundTrip.Statement (.fclr d cb x sc off) := by
  refine RoundTrip.of _ _ rfl ?_
  intro stop gn gp
  unfold decodeOp; rw [word_op]
  show zeroIn _ _ _ = _
  try simp (disch := decide) only [word_fld, Instr.area, ext_lo, ext_hi, ext_at]
  refine word_zero ?_ ?_
  · decide
  iterate 12 (all_goals first | exact and_leaf _ _ (by decide) | exact BitVec.zero_and | refine and_parts _ _ _ ?_ ?_)

theorem RoundTrip.ftest d cb x sc off : RoundTrip.Statement (.ftest d cb x sc off) := by
  refine RoundTrip.of _ _ rfl ?_
  intro stop gn gp
  unfold decodeOp; rw [word_op]
  show zeroIn _ _ _ = _
  try simp (disch := decide) only [word_fld, Instr.area, ext_lo, ext_hi, ext_at]
  refine word_zero ?_ ?_
  · decide
  iterate 12 (all_goals first | exact and_leaf _ _ (by decide) | exact BitVec.zero_and | refine and_parts _ _ _ ?_ ?_)

theorem RoundTrip.ldn d cb x sc off land : RoundTrip.Statement (.ldn d cb x sc off land) := by
  refine RoundTrip.of _ _ rfl ?_
  intro stop gn gp
  unfold decodeOp; rw [word_op]
  show zeroIn _ _ _ = _
  try simp (disch := decide) only [word_fld, Instr.area, ext_lo, ext_hi, ext_at]
  refine word_zero ?_ ?_
  · decide
  iterate 12 (all_goals first | exact and_leaf _ _ (by decide) | exact BitVec.zero_and | refine and_parts _ _ _ ?_ ?_)

theorem RoundTrip.vldn d cb x sc off land : RoundTrip.Statement (.vldn d cb x sc off land) := by
  refine RoundTrip.of _ _ rfl ?_
  intro stop gn gp
  unfold decodeOp; rw [word_op]
  show zeroIn _ _ _ = _
  try simp (disch := decide) only [word_fld, Instr.area, ext_lo, ext_hi, ext_at]
  refine word_zero ?_ ?_
  · decide
  iterate 12 (all_goals first | exact and_leaf _ _ (by decide) | exact BitVec.zero_and | refine and_parts _ _ _ ?_ ?_)

theorem RoundTrip.xget cd ob cs oa len ch tb : RoundTrip.Statement (.xget cd ob cs oa len ch tb) := by
  refine RoundTrip.of _ _ rfl ?_
  intro stop gn gp
  unfold decodeOp; rw [word_op]
  show zeroIn _ _ _ = _
  try simp (disch := decide) only [word_fld, Instr.area, ext_lo, ext_hi, ext_at]
  refine word_zero ?_ ?_
  · decide
  iterate 12 (all_goals first | exact and_leaf _ _ (by decide) | exact BitVec.zero_and | refine and_parts _ _ _ ?_ ?_)

theorem RoundTrip.xput cd ob cs oa len ch tb vs : RoundTrip.Statement (.xput cd ob cs oa len ch tb vs) := by
  refine RoundTrip.of _ _ rfl ?_
  intro stop gn gp
  unfold decodeOp; rw [word_op]
  show zeroIn _ _ _ = _
  try simp (disch := decide) only [word_fld, Instr.area, ext_lo, ext_hi, ext_at]
  refine word_zero ?_ ?_
  · decide
  iterate 12 (all_goals first | exact and_leaf _ _ (by decide) | exact BitVec.zero_and | refine and_parts _ _ _ ?_ ?_)

theorem RoundTrip.xmove cd ob cs oa len ch tb vs : RoundTrip.Statement (.xmove cd ob cs oa len ch tb vs) := by
  refine RoundTrip.of _ _ rfl ?_
  intro stop gn gp
  unfold decodeOp; rw [word_op]
  show zeroIn _ _ _ = _
  try simp (disch := decide) only [word_fld, Instr.area, ext_lo, ext_hi, ext_at]
  refine word_zero ?_ ?_
  · decide
  iterate 12 (all_goals first | exact and_leaf _ _ (by decide) | exact BitVec.zero_and | refine and_parts _ _ _ ?_ ?_)

theorem RoundTrip.xgat cd ob cs oa len v w ch tb : RoundTrip.Statement (.xgat cd ob cs oa len v w ch tb) := by
  refine RoundTrip.of _ _ rfl ?_
  intro stop gn gp
  unfold decodeOp; rw [word_op]
  show zeroIn _ _ _ = _
  try simp (disch := decide) only [word_fld, Instr.area, ext_lo, ext_hi, ext_at]
  refine word_zero ?_ ?_
  · decide
  iterate 12 (all_goals first | exact and_leaf _ _ (by decide) | exact BitVec.zero_and | refine and_parts _ _ _ ?_ ?_)

theorem RoundTrip.xsct cd ob cs oa len v w ch tb vs : RoundTrip.Statement (.xsct cd ob cs oa len v w ch tb vs) := by
  refine RoundTrip.of _ _ rfl ?_
  intro stop gn gp
  unfold decodeOp; rw [word_op]
  show zeroIn _ _ _ = _
  try simp (disch := decide) only [word_fld, Instr.area, ext_lo, ext_hi, ext_at]
  refine word_zero ?_ ?_
  · decide
  iterate 12 (all_goals first | exact and_leaf _ _ (by decide) | exact BitVec.zero_and | refine and_parts _ _ _ ?_ ?_)

theorem RoundTrip.xget2d cd ob w cs oa v len ch tb rows : RoundTrip.Statement (.xget2d cd ob w cs oa v len ch tb rows) := by
  refine RoundTrip.of _ _ rfl ?_
  intro stop gn gp
  unfold decodeOp; rw [word_op]
  show zeroIn _ _ _ = _
  try simp (disch := decide) only [word_fld, Instr.area, ext_lo, ext_hi, ext_at]
  refine word_zero ?_ ?_
  · decide
  iterate 12 (all_goals first | exact and_leaf _ _ (by decide) | exact BitVec.zero_and | refine and_parts _ _ _ ?_ ?_)

theorem RoundTrip.xput2d cd ob w cs oa v len ch tb rows vs : RoundTrip.Statement (.xput2d cd ob w cs oa v len ch tb rows vs) := by
  refine RoundTrip.of _ _ rfl ?_
  intro stop gn gp
  unfold decodeOp; rw [word_op]
  show zeroIn _ _ _ = _
  try simp (disch := decide) only [word_fld, Instr.area, ext_lo, ext_hi, ext_at]
  refine word_zero ?_ ?_
  · decide
  iterate 12 (all_goals first | exact and_leaf _ _ (by decide) | exact BitVec.zero_and | refine and_parts _ _ _ ?_ ?_)

theorem RoundTrip.xfill cd ob v len ch tb vs : RoundTrip.Statement (.xfill cd ob v len ch tb vs) := by
  refine RoundTrip.of _ _ rfl ?_
  intro stop gn gp
  unfold decodeOp; rw [word_op]
  show zeroIn _ _ _ = _
  try simp (disch := decide) only [word_fld, Instr.area, ext_lo, ext_hi, ext_at]
  refine word_zero ?_ ?_
  · decide
  iterate 12 (all_goals first | exact and_leaf _ _ (by decide) | exact BitVec.zero_and | refine and_parts _ _ _ ?_ ?_)

theorem RoundTrip.xaccAddS32 cd ob cs oa len ch : RoundTrip.Statement (.xaccAddS32 cd ob cs oa len ch) := by
  refine RoundTrip.of _ _ rfl ?_
  intro stop gn gp
  unfold decodeOp; rw [word_op]
  show zeroIn _ _ _ = _
  try simp (disch := decide) only [word_fld, Instr.area, ext_lo, ext_hi, ext_at]
  refine word_zero ?_ ?_
  · decide
  iterate 12 (all_goals first | exact and_leaf _ _ (by decide) | exact BitVec.zero_and | refine and_parts _ _ _ ?_ ?_)

theorem RoundTrip.xaccAddS64 cd ob cs oa len ch : RoundTrip.Statement (.xaccAddS64 cd ob cs oa len ch) := by
  refine RoundTrip.of _ _ rfl ?_
  intro stop gn gp
  unfold decodeOp; rw [word_op]
  show zeroIn _ _ _ = _
  try simp (disch := decide) only [word_fld, Instr.area, ext_lo, ext_hi, ext_at]
  refine word_zero ?_ ?_
  · decide
  iterate 12 (all_goals first | exact and_leaf _ _ (by decide) | exact BitVec.zero_and | refine and_parts _ _ _ ?_ ?_)

theorem RoundTrip.xaccAddF32 cd ob cs oa len ch rt : RoundTrip.Statement (.xaccAddF32 cd ob cs oa len ch rt) := by
  refine RoundTrip.of _ _ rfl ?_
  intro stop gn gp
  unfold decodeOp; rw [word_op]
  show zeroIn _ _ _ = _
  try simp (disch := decide) only [word_fld, Instr.area, ext_lo, ext_hi, ext_at]
  refine word_zero ?_ ?_
  · decide
  iterate 12 (all_goals first | exact and_leaf _ _ (by decide) | exact BitVec.zero_and | refine and_parts _ _ _ ?_ ?_)

theorem RoundTrip.xaccMinS32 cd ob cs oa len ch : RoundTrip.Statement (.xaccMinS32 cd ob cs oa len ch) := by
  refine RoundTrip.of _ _ rfl ?_
  intro stop gn gp
  unfold decodeOp; rw [word_op]
  show zeroIn _ _ _ = _
  try simp (disch := decide) only [word_fld, Instr.area, ext_lo, ext_hi, ext_at]
  refine word_zero ?_ ?_
  · decide
  iterate 12 (all_goals first | exact and_leaf _ _ (by decide) | exact BitVec.zero_and | refine and_parts _ _ _ ?_ ?_)

theorem RoundTrip.xaccMaxS32 cd ob cs oa len ch : RoundTrip.Statement (.xaccMaxS32 cd ob cs oa len ch) := by
  refine RoundTrip.of _ _ rfl ?_
  intro stop gn gp
  unfold decodeOp; rw [word_op]
  show zeroIn _ _ _ = _
  try simp (disch := decide) only [word_fld, Instr.area, ext_lo, ext_hi, ext_at]
  refine word_zero ?_ ?_
  · decide
  iterate 12 (all_goals first | exact and_leaf _ _ (by decide) | exact BitVec.zero_and | refine and_parts _ _ _ ?_ ?_)

theorem RoundTrip.xaccMinF32 cd ob cs oa len ch : RoundTrip.Statement (.xaccMinF32 cd ob cs oa len ch) := by
  refine RoundTrip.of _ _ rfl ?_
  intro stop gn gp
  unfold decodeOp; rw [word_op]
  show zeroIn _ _ _ = _
  try simp (disch := decide) only [word_fld, Instr.area, ext_lo, ext_hi, ext_at]
  refine word_zero ?_ ?_
  · decide
  iterate 12 (all_goals first | exact and_leaf _ _ (by decide) | exact BitVec.zero_and | refine and_parts _ _ _ ?_ ?_)

theorem RoundTrip.xaccMaxF32 cd ob cs oa len ch : RoundTrip.Statement (.xaccMaxF32 cd ob cs oa len ch) := by
  refine RoundTrip.of _ _ rfl ?_
  intro stop gn gp
  unfold decodeOp; rw [word_op]
  show zeroIn _ _ _ = _
  try simp (disch := decide) only [word_fld, Instr.area, ext_lo, ext_hi, ext_at]
  refine word_zero ?_ ?_
  · decide
  iterate 12 (all_goals first | exact and_leaf _ _ (by decide) | exact BitVec.zero_and | refine and_parts _ _ _ ?_ ?_)

theorem RoundTrip.xaccAnd cd ob cs oa len ch : RoundTrip.Statement (.xaccAnd cd ob cs oa len ch) := by
  refine RoundTrip.of _ _ rfl ?_
  intro stop gn gp
  unfold decodeOp; rw [word_op]
  show zeroIn _ _ _ = _
  try simp (disch := decide) only [word_fld, Instr.area, ext_lo, ext_hi, ext_at]
  refine word_zero ?_ ?_
  · decide
  iterate 12 (all_goals first | exact and_leaf _ _ (by decide) | exact BitVec.zero_and | refine and_parts _ _ _ ?_ ?_)

theorem RoundTrip.xaccOr cd ob cs oa len ch : RoundTrip.Statement (.xaccOr cd ob cs oa len ch) := by
  refine RoundTrip.of _ _ rfl ?_
  intro stop gn gp
  unfold decodeOp; rw [word_op]
  show zeroIn _ _ _ = _
  try simp (disch := decide) only [word_fld, Instr.area, ext_lo, ext_hi, ext_at]
  refine word_zero ?_ ?_
  · decide
  iterate 12 (all_goals first | exact and_leaf _ _ (by decide) | exact BitVec.zero_and | refine and_parts _ _ _ ?_ ?_)

theorem RoundTrip.xaccXor cd ob cs oa len ch : RoundTrip.Statement (.xaccXor cd ob cs oa len ch) := by
  refine RoundTrip.of _ _ rfl ?_
  intro stop gn gp
  unfold decodeOp; rw [word_op]
  show zeroIn _ _ _ = _
  try simp (disch := decide) only [word_fld, Instr.area, ext_lo, ext_hi, ext_at]
  refine word_zero ?_ ?_
  · decide
  iterate 12 (all_goals first | exact and_leaf _ _ (by decide) | exact BitVec.zero_and | refine and_parts _ _ _ ?_ ?_)

theorem RoundTrip.xfaddS32 cd ob v cl ol ch tb rt : RoundTrip.Statement (.xfaddS32 cd ob v cl ol ch tb rt) := by
  refine RoundTrip.of _ _ rfl ?_
  intro stop gn gp
  unfold decodeOp; rw [word_op]
  show zeroIn _ _ _ = _
  try simp (disch := decide) only [word_fld, Instr.area, ext_lo, ext_hi, ext_at]
  refine word_zero ?_ ?_
  · decide
  iterate 12 (all_goals first | exact and_leaf _ _ (by decide) | exact BitVec.zero_and | refine and_parts _ _ _ ?_ ?_)

theorem RoundTrip.xfaddS64 cd ob v cl ol ch tb rt : RoundTrip.Statement (.xfaddS64 cd ob v cl ol ch tb rt) := by
  refine RoundTrip.of _ _ rfl ?_
  intro stop gn gp
  unfold decodeOp; rw [word_op]
  show zeroIn _ _ _ = _
  try simp (disch := decide) only [word_fld, Instr.area, ext_lo, ext_hi, ext_at]
  refine word_zero ?_ ?_
  · decide
  iterate 12 (all_goals first | exact and_leaf _ _ (by decide) | exact BitVec.zero_and | refine and_parts _ _ _ ?_ ?_)

theorem RoundTrip.xswp cd ob v cl ol ch tb rt : RoundTrip.Statement (.xswp cd ob v cl ol ch tb rt) := by
  refine RoundTrip.of _ _ rfl ?_
  intro stop gn gp
  unfold decodeOp; rw [word_op]
  show zeroIn _ _ _ = _
  try simp (disch := decide) only [word_fld, Instr.area, ext_lo, ext_hi, ext_at]
  refine word_zero ?_ ?_
  · decide
  iterate 12 (all_goals first | exact and_leaf _ _ (by decide) | exact BitVec.zero_and | refine and_parts _ _ _ ?_ ?_)

theorem RoundTrip.xcas cd ob v w cl ol ch tb rt : RoundTrip.Statement (.xcas cd ob v w cl ol ch tb rt) := by
  refine RoundTrip.of _ _ rfl ?_
  intro stop gn gp
  unfold decodeOp; rw [word_op]
  show zeroIn _ _ _ = _
  try simp (disch := decide) only [word_fld, Instr.area, ext_lo, ext_hi, ext_at]
  refine word_zero ?_ ?_
  · decide
  iterate 12 (all_goals first | exact and_leaf _ _ (by decide) | exact BitVec.zero_and | refine and_parts _ _ _ ?_ ?_)

theorem RoundTrip.xcasGo cd ob v w cl ol ch tb task rt : RoundTrip.Statement (.xcasGo cd ob v w cl ol ch tb task rt) := by
  refine RoundTrip.of _ _ rfl ?_
  intro stop gn gp
  unfold decodeOp; rw [word_op]
  show zeroIn _ _ _ = _
  try simp (disch := decide) only [word_fld, Instr.area, ext_lo, ext_hi, ext_at]
  refine word_zero ?_ ?_
  · decide
  iterate 12 (all_goals first | exact and_leaf _ _ (by decide) | exact BitVec.zero_and | refine and_parts _ _ _ ?_ ?_)

theorem RoundTrip.xclose ch rt : RoundTrip.Statement (.xclose ch rt) := by
  refine RoundTrip.of _ _ rfl ?_
  intro stop gn gp
  unfold decodeOp; rw [word_op]
  show zeroIn _ _ _ = _
  try simp (disch := decide) only [word_fld, Instr.area, ext_lo, ext_hi, ext_at]
  refine word_zero ?_ ?_
  · decide
  iterate 12 (all_goals first | exact and_leaf _ _ (by decide) | exact BitVec.zero_and | refine and_parts _ _ _ ?_ ?_)

theorem RoundTrip.xwaitIn v ch : RoundTrip.Statement (.xwaitIn v ch) := by
  refine RoundTrip.of _ _ rfl ?_
  intro stop gn gp
  unfold decodeOp; rw [word_op]
  show zeroIn _ _ _ = _
  try simp (disch := decide) only [word_fld, Instr.area, ext_lo, ext_hi, ext_at]
  refine word_zero ?_ ?_
  · decide
  iterate 12 (all_goals first | exact and_leaf _ _ (by decide) | exact BitVec.zero_and | refine and_parts _ _ _ ?_ ?_)

theorem RoundTrip.xwaitRel v ch : RoundTrip.Statement (.xwaitRel v ch) := by
  refine RoundTrip.of _ _ rfl ?_
  intro stop gn gp
  unfold decodeOp; rw [word_op]
  show zeroIn _ _ _ = _
  try simp (disch := decide) only [word_fld, Instr.area, ext_lo, ext_hi, ext_at]
  refine word_zero ?_ ?_
  · decide
  iterate 12 (all_goals first | exact and_leaf _ _ (by decide) | exact BitVec.zero_and | refine and_parts _ _ _ ?_ ?_)

theorem RoundTrip.xwaitVis v ch : RoundTrip.Statement (.xwaitVis v ch) := by
  refine RoundTrip.of _ _ rfl ?_
  intro stop gn gp
  unfold decodeOp; rw [word_op]
  show zeroIn _ _ _ = _
  try simp (disch := decide) only [word_fld, Instr.area, ext_lo, ext_hi, ext_at]
  refine word_zero ?_ ?_
  · decide
  iterate 12 (all_goals first | exact and_leaf _ _ (by decide) | exact BitVec.zero_and | refine and_parts _ _ _ ?_ ?_)

theorem RoundTrip.xid v ch aux : RoundTrip.Statement (.xid v ch aux) := by
  refine RoundTrip.of _ _ rfl ?_
  intro stop gn gp
  unfold decodeOp; rw [word_op]
  show zeroIn _ _ _ = _
  try simp (disch := decide) only [word_fld, Instr.area, ext_lo, ext_hi, ext_at]
  refine word_zero ?_ ?_
  · decide
  iterate 12 (all_goals first | exact and_leaf _ _ (by decide) | exact BitVec.zero_and | refine and_parts _ _ _ ?_ ?_)

theorem RoundTrip.xorder : RoundTrip.Statement .xorder := by
  refine RoundTrip.of _ _ rfl ?_
  intro stop gn gp
  unfold decodeOp; rw [word_op]
  show zeroIn _ _ _ = _
  try simp (disch := decide) only [word_fld, Instr.area, ext_lo, ext_hi, ext_at]
  refine word_zero ?_ ?_
  · decide
  iterate 12 (all_goals first | exact and_leaf _ _ (by decide) | exact BitVec.zero_and | refine and_parts _ _ _ ?_ ?_)

theorem RoundTrip.vaddF32 vd va vb mk : RoundTrip.Statement (.vaddF32 vd va vb mk) := by
  refine RoundTrip.of _ _ rfl ?_
  intro stop gn gp
  unfold decodeOp; rw [word_op]
  show zeroIn _ _ _ = _
  try simp (disch := decide) only [word_fld, Instr.area, ext_lo, ext_hi, ext_at]
  refine word_zero ?_ ?_
  · decide
  iterate 12 (all_goals first | exact and_leaf _ _ (by decide) | exact BitVec.zero_and | refine and_parts _ _ _ ?_ ?_)

theorem RoundTrip.vsubF32 vd va vb mk : RoundTrip.Statement (.vsubF32 vd va vb mk) := by
  refine RoundTrip.of _ _ rfl ?_
  intro stop gn gp
  unfold decodeOp; rw [word_op]
  show zeroIn _ _ _ = _
  try simp (disch := decide) only [word_fld, Instr.area, ext_lo, ext_hi, ext_at]
  refine word_zero ?_ ?_
  · decide
  iterate 12 (all_goals first | exact and_leaf _ _ (by decide) | exact BitVec.zero_and | refine and_parts _ _ _ ?_ ?_)

theorem RoundTrip.vmulF32 vd va vb mk : RoundTrip.Statement (.vmulF32 vd va vb mk) := by
  refine RoundTrip.of _ _ rfl ?_
  intro stop gn gp
  unfold decodeOp; rw [word_op]
  show zeroIn _ _ _ = _
  try simp (disch := decide) only [word_fld, Instr.area, ext_lo, ext_hi, ext_at]
  refine word_zero ?_ ?_
  · decide
  iterate 12 (all_goals first | exact and_leaf _ _ (by decide) | exact BitVec.zero_and | refine and_parts _ _ _ ?_ ?_)

theorem RoundTrip.vfmaF32 vd va vb vc mk : RoundTrip.Statement (.vfmaF32 vd va vb vc mk) := by
  refine RoundTrip.of _ _ rfl ?_
  intro stop gn gp
  unfold decodeOp; rw [word_op]
  show zeroIn _ _ _ = _
  try simp (disch := decide) only [word_fld, Instr.area, ext_lo, ext_hi, ext_at]
  refine word_zero ?_ ?_
  · decide
  iterate 12 (all_goals first | exact and_leaf _ _ (by decide) | exact BitVec.zero_and | refine and_parts _ _ _ ?_ ?_)

theorem RoundTrip.vfmsF32 vd va vb vc mk : RoundTrip.Statement (.vfmsF32 vd va vb vc mk) := by
  refine RoundTrip.of _ _ rfl ?_
  intro stop gn gp
  unfold decodeOp; rw [word_op]
  show zeroIn _ _ _ = _
  try simp (disch := decide) only [word_fld, Instr.area, ext_lo, ext_hi, ext_at]
  refine word_zero ?_ ?_
  · decide
  iterate 12 (all_goals first | exact and_leaf _ _ (by decide) | exact BitVec.zero_and | refine and_parts _ _ _ ?_ ?_)

theorem RoundTrip.vfnmaF32 vd va vb vc mk : RoundTrip.Statement (.vfnmaF32 vd va vb vc mk) := by
  refine RoundTrip.of _ _ rfl ?_
  intro stop gn gp
  unfold decodeOp; rw [word_op]
  show zeroIn _ _ _ = _
  try simp (disch := decide) only [word_fld, Instr.area, ext_lo, ext_hi, ext_at]
  refine word_zero ?_ ?_
  · decide
  iterate 12 (all_goals first | exact and_leaf _ _ (by decide) | exact BitVec.zero_and | refine and_parts _ _ _ ?_ ?_)

theorem RoundTrip.vminF32 vd va vb mk : RoundTrip.Statement (.vminF32 vd va vb mk) := by
  refine RoundTrip.of _ _ rfl ?_
  intro stop gn gp
  unfold decodeOp; rw [word_op]
  show zeroIn _ _ _ = _
  try simp (disch := decide) only [word_fld, Instr.area, ext_lo, ext_hi, ext_at]
  refine word_zero ?_ ?_
  · decide
  iterate 12 (all_goals first | exact and_leaf _ _ (by decide) | exact BitVec.zero_and | refine and_parts _ _ _ ?_ ?_)

theorem RoundTrip.vmaxF32 vd va vb mk : RoundTrip.Statement (.vmaxF32 vd va vb mk) := by
  refine RoundTrip.of _ _ rfl ?_
  intro stop gn gp
  unfold decodeOp; rw [word_op]
  show zeroIn _ _ _ = _
  try simp (disch := decide) only [word_fld, Instr.area, ext_lo, ext_hi, ext_at]
  refine word_zero ?_ ?_
  · decide
  iterate 12 (all_goals first | exact and_leaf _ _ (by decide) | exact BitVec.zero_and | refine and_parts _ _ _ ?_ ?_)

theorem RoundTrip.vabsF32 vd va mk : RoundTrip.Statement (.vabsF32 vd va mk) := by
  refine RoundTrip.of _ _ rfl ?_
  intro stop gn gp
  unfold decodeOp; rw [word_op]
  show zeroIn _ _ _ = _
  try simp (disch := decide) only [word_fld, Instr.area, ext_lo, ext_hi, ext_at]
  refine word_zero ?_ ?_
  · decide
  iterate 12 (all_goals first | exact and_leaf _ _ (by decide) | exact BitVec.zero_and | refine and_parts _ _ _ ?_ ?_)

theorem RoundTrip.vnegF32 vd va mk : RoundTrip.Statement (.vnegF32 vd va mk) := by
  refine RoundTrip.of _ _ rfl ?_
  intro stop gn gp
  unfold decodeOp; rw [word_op]
  show zeroIn _ _ _ = _
  try simp (disch := decide) only [word_fld, Instr.area, ext_lo, ext_hi, ext_at]
  refine word_zero ?_ ?_
  · decide
  iterate 12 (all_goals first | exact and_leaf _ _ (by decide) | exact BitVec.zero_and | refine and_parts _ _ _ ?_ ?_)

theorem RoundTrip.vdivF32 vd va vb mk : RoundTrip.Statement (.vdivF32 vd va vb mk) := by
  refine RoundTrip.of _ _ rfl ?_
  intro stop gn gp
  unfold decodeOp; rw [word_op]
  show zeroIn _ _ _ = _
  try simp (disch := decide) only [word_fld, Instr.area, ext_lo, ext_hi, ext_at]
  refine word_zero ?_ ?_
  · decide
  iterate 12 (all_goals first | exact and_leaf _ _ (by decide) | exact BitVec.zero_and | refine and_parts _ _ _ ?_ ?_)

theorem RoundTrip.vsqrtF32 vd va mk : RoundTrip.Statement (.vsqrtF32 vd va mk) := by
  refine RoundTrip.of _ _ rfl ?_
  intro stop gn gp
  unfold decodeOp; rw [word_op]
  show zeroIn _ _ _ = _
  try simp (disch := decide) only [word_fld, Instr.area, ext_lo, ext_hi, ext_at]
  refine word_zero ?_ ?_
  · decide
  iterate 12 (all_goals first | exact and_leaf _ _ (by decide) | exact BitVec.zero_and | refine and_parts _ _ _ ?_ ?_)

theorem RoundTrip.vrcpF32 vd va mk : RoundTrip.Statement (.vrcpF32 vd va mk) := by
  refine RoundTrip.of _ _ rfl ?_
  intro stop gn gp
  unfold decodeOp; rw [word_op]
  show zeroIn _ _ _ = _
  try simp (disch := decide) only [word_fld, Instr.area, ext_lo, ext_hi, ext_at]
  refine word_zero ?_ ?_
  · decide
  iterate 12 (all_goals first | exact and_leaf _ _ (by decide) | exact BitVec.zero_and | refine and_parts _ _ _ ?_ ?_)

theorem RoundTrip.vrsqrtF32 vd va mk : RoundTrip.Statement (.vrsqrtF32 vd va mk) := by
  refine RoundTrip.of _ _ rfl ?_
  intro stop gn gp
  unfold decodeOp; rw [word_op]
  show zeroIn _ _ _ = _
  try simp (disch := decide) only [word_fld, Instr.area, ext_lo, ext_hi, ext_at]
  refine word_zero ?_ ?_
  · decide
  iterate 12 (all_goals first | exact and_leaf _ _ (by decide) | exact BitVec.zero_and | refine and_parts _ _ _ ?_ ?_)

theorem RoundTrip.vexp2F32 vd va mk : RoundTrip.Statement (.vexp2F32 vd va mk) := by
  refine RoundTrip.of _ _ rfl ?_
  intro stop gn gp
  unfold decodeOp; rw [word_op]
  show zeroIn _ _ _ = _
  try simp (disch := decide) only [word_fld, Instr.area, ext_lo, ext_hi, ext_at]
  refine word_zero ?_ ?_
  · decide
  iterate 12 (all_goals first | exact and_leaf _ _ (by decide) | exact BitVec.zero_and | refine and_parts _ _ _ ?_ ?_)

theorem RoundTrip.vlog2F32 vd va mk : RoundTrip.Statement (.vlog2F32 vd va mk) := by
  refine RoundTrip.of _ _ rfl ?_
  intro stop gn gp
  unfold decodeOp; rw [word_op]
  show zeroIn _ _ _ = _
  try simp (disch := decide) only [word_fld, Instr.area, ext_lo, ext_hi, ext_at]
  refine word_zero ?_ ?_
  · decide
  iterate 12 (all_goals first | exact and_leaf _ _ (by decide) | exact BitVec.zero_and | refine and_parts _ _ _ ?_ ?_)

theorem RoundTrip.vsinpiF32 vd va mk : RoundTrip.Statement (.vsinpiF32 vd va mk) := by
  refine RoundTrip.of _ _ rfl ?_
  intro stop gn gp
  unfold decodeOp; rw [word_op]
  show zeroIn _ _ _ = _
  try simp (disch := decide) only [word_fld, Instr.area, ext_lo, ext_hi, ext_at]
  refine word_zero ?_ ?_
  · decide
  iterate 12 (all_goals first | exact and_leaf _ _ (by decide) | exact BitVec.zero_and | refine and_parts _ _ _ ?_ ?_)

theorem RoundTrip.vcospiF32 vd va mk : RoundTrip.Statement (.vcospiF32 vd va mk) := by
  refine RoundTrip.of _ _ rfl ?_
  intro stop gn gp
  unfold decodeOp; rw [word_op]
  show zeroIn _ _ _ = _
  try simp (disch := decide) only [word_fld, Instr.area, ext_lo, ext_hi, ext_at]
  refine word_zero ?_ ?_
  · decide
  iterate 12 (all_goals first | exact and_leaf _ _ (by decide) | exact BitVec.zero_and | refine and_parts _ _ _ ?_ ?_)

theorem RoundTrip.vtanhF32 vd va mk : RoundTrip.Statement (.vtanhF32 vd va mk) := by
  refine RoundTrip.of _ _ rfl ?_
  intro stop gn gp
  unfold decodeOp; rw [word_op]
  show zeroIn _ _ _ = _
  try simp (disch := decide) only [word_fld, Instr.area, ext_lo, ext_hi, ext_at]
  refine word_zero ?_ ?_
  · decide
  iterate 12 (all_goals first | exact and_leaf _ _ (by decide) | exact BitVec.zero_and | refine and_parts _ _ _ ?_ ?_)

theorem RoundTrip.vrrpi vd va mk : RoundTrip.Statement (.vrrpi vd va mk) := by
  refine RoundTrip.of _ _ rfl ?_
  intro stop gn gp
  unfold decodeOp; rw [word_op]
  show zeroIn _ _ _ = _
  try simp (disch := decide) only [word_fld, Instr.area, ext_lo, ext_hi, ext_at]
  refine word_zero ?_ ?_
  · decide
  iterate 12 (all_goals first | exact and_leaf _ _ (by decide) | exact BitVec.zero_and | refine and_parts _ _ _ ?_ ?_)

theorem RoundTrip.vfloorF32 vd va mk : RoundTrip.Statement (.vfloorF32 vd va mk) := by
  refine RoundTrip.of _ _ rfl ?_
  intro stop gn gp
  unfold decodeOp; rw [word_op]
  show zeroIn _ _ _ = _
  try simp (disch := decide) only [word_fld, Instr.area, ext_lo, ext_hi, ext_at]
  refine word_zero ?_ ?_
  · decide
  iterate 12 (all_goals first | exact and_leaf _ _ (by decide) | exact BitVec.zero_and | refine and_parts _ _ _ ?_ ?_)

theorem RoundTrip.vrintF32 vd va mk : RoundTrip.Statement (.vrintF32 vd va mk) := by
  refine RoundTrip.of _ _ rfl ?_
  intro stop gn gp
  unfold decodeOp; rw [word_op]
  show zeroIn _ _ _ = _
  try simp (disch := decide) only [word_fld, Instr.area, ext_lo, ext_hi, ext_at]
  refine word_zero ?_ ?_
  · decide
  iterate 12 (all_goals first | exact and_leaf _ _ (by decide) | exact BitVec.zero_and | refine and_parts _ _ _ ?_ ?_)

theorem RoundTrip.vcmpF32 cc md va vb mk : RoundTrip.Statement (.vcmpF32 cc md va vb mk) := by
  refine RoundTrip.of _ _ rfl ?_
  intro stop gn gp
  unfold decodeOp; rw [word_op]
  show zeroIn _ _ _ = _
  try simp (disch := decide) only [word_fld, Instr.area, ext_lo, ext_hi, ext_at]
  refine word_zero ?_ ?_
  · decide
  iterate 12 (all_goals first | exact and_leaf _ _ (by decide) | exact BitVec.zero_and | refine and_parts _ _ _ ?_ ?_)

theorem RoundTrip.vclassF32 vd va mk : RoundTrip.Statement (.vclassF32 vd va mk) := by
  refine RoundTrip.of _ _ rfl ?_
  intro stop gn gp
  unfold decodeOp; rw [word_op]
  show zeroIn _ _ _ = _
  try simp (disch := decide) only [word_fld, Instr.area, ext_lo, ext_hi, ext_at]
  refine word_zero ?_ ?_
  · decide
  iterate 12 (all_goals first | exact and_leaf _ _ (by decide) | exact BitVec.zero_and | refine and_parts _ _ _ ?_ ?_)

theorem RoundTrip.vaddBf16 vd va vb mk : RoundTrip.Statement (.vaddBf16 vd va vb mk) := by
  refine RoundTrip.of _ _ rfl ?_
  intro stop gn gp
  unfold decodeOp; rw [word_op]
  show zeroIn _ _ _ = _
  try simp (disch := decide) only [word_fld, Instr.area, ext_lo, ext_hi, ext_at]
  refine word_zero ?_ ?_
  · decide
  iterate 12 (all_goals first | exact and_leaf _ _ (by decide) | exact BitVec.zero_and | refine and_parts _ _ _ ?_ ?_)

theorem RoundTrip.vmulBf16 vd va vb mk : RoundTrip.Statement (.vmulBf16 vd va vb mk) := by
  refine RoundTrip.of _ _ rfl ?_
  intro stop gn gp
  unfold decodeOp; rw [word_op]
  show zeroIn _ _ _ = _
  try simp (disch := decide) only [word_fld, Instr.area, ext_lo, ext_hi, ext_at]
  refine word_zero ?_ ?_
  · decide
  iterate 12 (all_goals first | exact and_leaf _ _ (by decide) | exact BitVec.zero_and | refine and_parts _ _ _ ?_ ?_)

theorem RoundTrip.vfmaBf16 vd va vb vc mk : RoundTrip.Statement (.vfmaBf16 vd va vb vc mk) := by
  refine RoundTrip.of _ _ rfl ?_
  intro stop gn gp
  unfold decodeOp; rw [word_op]
  show zeroIn _ _ _ = _
  try simp (disch := decide) only [word_fld, Instr.area, ext_lo, ext_hi, ext_at]
  refine word_zero ?_ ?_
  · decide
  iterate 12 (all_goals first | exact and_leaf _ _ (by decide) | exact BitVec.zero_and | refine and_parts _ _ _ ?_ ?_)

theorem RoundTrip.vaddS32 vd va vb mk : RoundTrip.Statement (.vaddS32 vd va vb mk) := by
  refine RoundTrip.of _ _ rfl ?_
  intro stop gn gp
  unfold decodeOp; rw [word_op]
  show zeroIn _ _ _ = _
  try simp (disch := decide) only [word_fld, Instr.area, ext_lo, ext_hi, ext_at]
  refine word_zero ?_ ?_
  · decide
  iterate 12 (all_goals first | exact and_leaf _ _ (by decide) | exact BitVec.zero_and | refine and_parts _ _ _ ?_ ?_)

theorem RoundTrip.vsubS32 vd va vb mk : RoundTrip.Statement (.vsubS32 vd va vb mk) := by
  refine RoundTrip.of _ _ rfl ?_
  intro stop gn gp
  unfold decodeOp; rw [word_op]
  show zeroIn _ _ _ = _
  try simp (disch := decide) only [word_fld, Instr.area, ext_lo, ext_hi, ext_at]
  refine word_zero ?_ ?_
  · decide
  iterate 12 (all_goals first | exact and_leaf _ _ (by decide) | exact BitVec.zero_and | refine and_parts _ _ _ ?_ ?_)

theorem RoundTrip.vmulS32 vd va vb mk : RoundTrip.Statement (.vmulS32 vd va vb mk) := by
  refine RoundTrip.of _ _ rfl ?_
  intro stop gn gp
  unfold decodeOp; rw [word_op]
  show zeroIn _ _ _ = _
  try simp (disch := decide) only [word_fld, Instr.area, ext_lo, ext_hi, ext_at]
  refine word_zero ?_ ?_
  · decide
  iterate 12 (all_goals first | exact and_leaf _ _ (by decide) | exact BitVec.zero_and | refine and_parts _ _ _ ?_ ?_)

theorem RoundTrip.vmadS16 vd va vb vc mk : RoundTrip.Statement (.vmadS16 vd va vb vc mk) := by
  refine RoundTrip.of _ _ rfl ?_
  intro stop gn gp
  unfold decodeOp; rw [word_op]
  show zeroIn _ _ _ = _
  try simp (disch := decide) only [word_fld, Instr.area, ext_lo, ext_hi, ext_at]
  refine word_zero ?_ ?_
  · decide
  iterate 12 (all_goals first | exact and_leaf _ _ (by decide) | exact BitVec.zero_and | refine and_parts _ _ _ ?_ ?_)

theorem RoundTrip.vaddsS32 vd va vb mk : RoundTrip.Statement (.vaddsS32 vd va vb mk) := by
  refine RoundTrip.of _ _ rfl ?_
  intro stop gn gp
  unfold decodeOp; rw [word_op]
  show zeroIn _ _ _ = _
  try simp (disch := decide) only [word_fld, Instr.area, ext_lo, ext_hi, ext_at]
  refine word_zero ?_ ?_
  · decide
  iterate 12 (all_goals first | exact and_leaf _ _ (by decide) | exact BitVec.zero_and | refine and_parts _ _ _ ?_ ?_)

theorem RoundTrip.vsubsS32 vd va vb mk : RoundTrip.Statement (.vsubsS32 vd va vb mk) := by
  refine RoundTrip.of _ _ rfl ?_
  intro stop gn gp
  unfold decodeOp; rw [word_op]
  show zeroIn _ _ _ = _
  try simp (disch := decide) only [word_fld, Instr.area, ext_lo, ext_hi, ext_at]
  refine word_zero ?_ ?_
  · decide
  iterate 12 (all_goals first | exact and_leaf _ _ (by decide) | exact BitVec.zero_and | refine and_parts _ _ _ ?_ ?_)

theorem RoundTrip.vminS32 vd va vb mk : RoundTrip.Statement (.vminS32 vd va vb mk) := by
  refine RoundTrip.of _ _ rfl ?_
  intro stop gn gp
  unfold decodeOp; rw [word_op]
  show zeroIn _ _ _ = _
  try simp (disch := decide) only [word_fld, Instr.area, ext_lo, ext_hi, ext_at]
  refine word_zero ?_ ?_
  · decide
  iterate 12 (all_goals first | exact and_leaf _ _ (by decide) | exact BitVec.zero_and | refine and_parts _ _ _ ?_ ?_)

theorem RoundTrip.vmaxS32 vd va vb mk : RoundTrip.Statement (.vmaxS32 vd va vb mk) := by
  refine RoundTrip.of _ _ rfl ?_
  intro stop gn gp
  unfold decodeOp; rw [word_op]
  show zeroIn _ _ _ = _
  try simp (disch := decide) only [word_fld, Instr.area, ext_lo, ext_hi, ext_at]
  refine word_zero ?_ ?_
  · decide
  iterate 12 (all_goals first | exact and_leaf _ _ (by decide) | exact BitVec.zero_and | refine and_parts _ _ _ ?_ ?_)

theorem RoundTrip.vminZ32 vd va vb mk : RoundTrip.Statement (.vminZ32 vd va vb mk) := by
  refine RoundTrip.of _ _ rfl ?_
  intro stop gn gp
  unfold decodeOp; rw [word_op]
  show zeroIn _ _ _ = _
  try simp (disch := decide) only [word_fld, Instr.area, ext_lo, ext_hi, ext_at]
  refine word_zero ?_ ?_
  · decide
  iterate 12 (all_goals first | exact and_leaf _ _ (by decide) | exact BitVec.zero_and | refine and_parts _ _ _ ?_ ?_)

theorem RoundTrip.vmaxZ32 vd va vb mk : RoundTrip.Statement (.vmaxZ32 vd va vb mk) := by
  refine RoundTrip.of _ _ rfl ?_
  intro stop gn gp
  unfold decodeOp; rw [word_op]
  show zeroIn _ _ _ = _
  try simp (disch := decide) only [word_fld, Instr.area, ext_lo, ext_hi, ext_at]
  refine word_zero ?_ ?_
  · decide
  iterate 12 (all_goals first | exact and_leaf _ _ (by decide) | exact BitVec.zero_and | refine and_parts _ _ _ ?_ ?_)

theorem RoundTrip.vand vd va vb mk : RoundTrip.Statement (.vand vd va vb mk) := by
  refine RoundTrip.of _ _ rfl ?_
  intro stop gn gp
  unfold decodeOp; rw [word_op]
  show zeroIn _ _ _ = _
  try simp (disch := decide) only [word_fld, Instr.area, ext_lo, ext_hi, ext_at]
  refine word_zero ?_ ?_
  · decide
  iterate 12 (all_goals first | exact and_leaf _ _ (by decide) | exact BitVec.zero_and | refine and_parts _ _ _ ?_ ?_)

theorem RoundTrip.vor vd va vb mk : RoundTrip.Statement (.vor vd va vb mk) := by
  refine RoundTrip.of _ _ rfl ?_
  intro stop gn gp
  unfold decodeOp; rw [word_op]
  show zeroIn _ _ _ = _
  try simp (disch := decide) only [word_fld, Instr.area, ext_lo, ext_hi, ext_at]
  refine word_zero ?_ ?_
  · decide
  iterate 12 (all_goals first | exact and_leaf _ _ (by decide) | exact BitVec.zero_and | refine and_parts _ _ _ ?_ ?_)

theorem RoundTrip.vxor vd va vb mk : RoundTrip.Statement (.vxor vd va vb mk) := by
  refine RoundTrip.of _ _ rfl ?_
  intro stop gn gp
  unfold decodeOp; rw [word_op]
  show zeroIn _ _ _ = _
  try simp (disch := decide) only [word_fld, Instr.area, ext_lo, ext_hi, ext_at]
  refine word_zero ?_ ?_
  · decide
  iterate 12 (all_goals first | exact and_leaf _ _ (by decide) | exact BitVec.zero_and | refine and_parts _ _ _ ?_ ?_)

theorem RoundTrip.vshl vd va vb mk : RoundTrip.Statement (.vshl vd va vb mk) := by
  refine RoundTrip.of _ _ rfl ?_
  intro stop gn gp
  unfold decodeOp; rw [word_op]
  show ite _ _ _ = _
  try simp (disch := decide) only [word_fld, Instr.area, ext_lo, ext_hi, ext_at]
  rw [if_neg (by decide)]
  refine word_zero ?_ ?_
  · decide
  iterate 12 (all_goals first | exact and_leaf _ _ (by decide) | exact BitVec.zero_and | refine and_parts _ _ _ ?_ ?_)

theorem RoundTrip.vshlImm vd va n mk : RoundTrip.Statement (.vshlImm vd va n mk) := by
  refine RoundTrip.of _ _ rfl ?_
  intro stop gn gp
  unfold decodeOp; rw [word_op]
  show ite _ _ _ = _
  try simp (disch := decide) only [word_fld, Instr.area, ext_lo, ext_hi, ext_at]
  rw [if_pos (by decide)]
  refine word_zero ?_ ?_
  · decide
  iterate 12 (all_goals first | exact and_leaf _ _ (by decide) | exact BitVec.zero_and | refine and_parts _ _ _ ?_ ?_)

theorem RoundTrip.vshrZ vd va vb mk : RoundTrip.Statement (.vshrZ vd va vb mk) := by
  refine RoundTrip.of _ _ rfl ?_
  intro stop gn gp
  unfold decodeOp; rw [word_op]
  show ite _ _ _ = _
  try simp (disch := decide) only [word_fld, Instr.area, ext_lo, ext_hi, ext_at]
  rw [if_neg (by decide)]
  refine word_zero ?_ ?_
  · decide
  iterate 12 (all_goals first | exact and_leaf _ _ (by decide) | exact BitVec.zero_and | refine and_parts _ _ _ ?_ ?_)

theorem RoundTrip.vshrZImm vd va n mk : RoundTrip.Statement (.vshrZImm vd va n mk) := by
  refine RoundTrip.of _ _ rfl ?_
  intro stop gn gp
  unfold decodeOp; rw [word_op]
  show ite _ _ _ = _
  try simp (disch := decide) only [word_fld, Instr.area, ext_lo, ext_hi, ext_at]
  rw [if_pos (by decide)]
  refine word_zero ?_ ?_
  · decide
  iterate 12 (all_goals first | exact and_leaf _ _ (by decide) | exact BitVec.zero_and | refine and_parts _ _ _ ?_ ?_)

theorem RoundTrip.vshrS vd va vb mk : RoundTrip.Statement (.vshrS vd va vb mk) := by
  refine RoundTrip.of _ _ rfl ?_
  intro stop gn gp
  unfold decodeOp; rw [word_op]
  show ite _ _ _ = _
  try simp (disch := decide) only [word_fld, Instr.area, ext_lo, ext_hi, ext_at]
  rw [if_neg (by decide)]
  refine word_zero ?_ ?_
  · decide
  iterate 12 (all_goals first | exact and_leaf _ _ (by decide) | exact BitVec.zero_and | refine and_parts _ _ _ ?_ ?_)

theorem RoundTrip.vshrSImm vd va n mk : RoundTrip.Statement (.vshrSImm vd va n mk) := by
  refine RoundTrip.of _ _ rfl ?_
  intro stop gn gp
  unfold decodeOp; rw [word_op]
  show ite _ _ _ = _
  try simp (disch := decide) only [word_fld, Instr.area, ext_lo, ext_hi, ext_at]
  rw [if_pos (by decide)]
  refine word_zero ?_ ?_
  · decide
  iterate 12 (all_goals first | exact and_leaf _ _ (by decide) | exact BitVec.zero_and | refine and_parts _ _ _ ?_ ?_)

theorem RoundTrip.vcmpS32 cc md va vb mk : RoundTrip.Statement (.vcmpS32 cc md va vb mk) := by
  refine RoundTrip.of _ _ rfl ?_
  intro stop gn gp
  unfold decodeOp; rw [word_op]
  show zeroIn _ _ _ = _
  try simp (disch := decide) only [word_fld, Instr.area, ext_lo, ext_hi, ext_at]
  refine word_zero ?_ ?_
  · decide
  iterate 12 (all_goals first | exact and_leaf _ _ (by decide) | exact BitVec.zero_and | refine and_parts _ _ _ ?_ ?_)

theorem RoundTrip.vcmpZ32 cc md va vb mk : RoundTrip.Statement (.vcmpZ32 cc md va vb mk) := by
  refine RoundTrip.of _ _ rfl ?_
  intro stop gn gp
  unfold decodeOp; rw [word_op]
  show zeroIn _ _ _ = _
  try simp (disch := decide) only [word_fld, Instr.area, ext_lo, ext_hi, ext_at]
  refine word_zero ?_ ?_
  · decide
  iterate 12 (all_goals first | exact and_leaf _ _ (by decide) | exact BitVec.zero_and | refine and_parts _ _ _ ?_ ?_)

theorem RoundTrip.vsel vd va vb mk : RoundTrip.Statement (.vsel vd va vb mk) := by
  refine RoundTrip.of _ _ rfl ?_
  intro stop gn gp
  unfold decodeOp; rw [word_op]
  show zeroIn _ _ _ = _
  try simp (disch := decide) only [word_fld, Instr.area, ext_lo, ext_hi, ext_at]
  refine word_zero ?_ ?_
  · decide
  iterate 12 (all_goals first | exact and_leaf _ _ (by decide) | exact BitVec.zero_and | refine and_parts _ _ _ ?_ ?_)

theorem RoundTrip.vmask md ma mb t : RoundTrip.Statement (.vmask md ma mb t) := by
  refine RoundTrip.of _ _ rfl ?_
  intro stop gn gp
  unfold decodeOp; rw [word_op]
  show zeroIn _ _ _ = _
  try simp (disch := decide) only [word_fld, Instr.area, ext_lo, ext_hi, ext_at]
  refine word_zero ?_ ?_
  · decide
  iterate 12 (all_goals first | exact and_leaf _ _ (by decide) | exact BitVec.zero_and | refine and_parts _ _ _ ?_ ?_)

theorem RoundTrip.vcvtF32S32 vd va mk : RoundTrip.Statement (.vcvtF32S32 vd va mk) := by
  refine RoundTrip.of _ _ rfl ?_
  intro stop gn gp
  unfold decodeOp; rw [word_op]
  show zeroIn _ _ _ = _
  try simp (disch := decide) only [word_fld, Instr.area, ext_lo, ext_hi, ext_at]
  refine word_zero ?_ ?_
  · decide
  iterate 12 (all_goals first | exact and_leaf _ _ (by decide) | exact BitVec.zero_and | refine and_parts _ _ _ ?_ ?_)

theorem RoundTrip.vcvtS32F32Rne vd va mk : RoundTrip.Statement (.vcvtS32F32Rne vd va mk) := by
  refine RoundTrip.of _ _ rfl ?_
  intro stop gn gp
  unfold decodeOp; rw [word_op]
  show zeroIn _ _ _ = _
  try simp (disch := decide) only [word_fld, Instr.area, ext_lo, ext_hi, ext_at]
  refine word_zero ?_ ?_
  · decide
  iterate 12 (all_goals first | exact and_leaf _ _ (by decide) | exact BitVec.zero_and | refine and_parts _ _ _ ?_ ?_)

theorem RoundTrip.vcvtS32F32Rz vd va mk : RoundTrip.Statement (.vcvtS32F32Rz vd va mk) := by
  refine RoundTrip.of _ _ rfl ?_
  intro stop gn gp
  unfold decodeOp; rw [word_op]
  show zeroIn _ _ _ = _
  try simp (disch := decide) only [word_fld, Instr.area, ext_lo, ext_hi, ext_at]
  refine word_zero ?_ ?_
  · decide
  iterate 12 (all_goals first | exact and_leaf _ _ (by decide) | exact BitVec.zero_and | refine and_parts _ _ _ ?_ ?_)

theorem RoundTrip.vcvtBf16F32 vd va vb : RoundTrip.Statement (.vcvtBf16F32 vd va vb) := by
  refine RoundTrip.of _ _ rfl ?_
  intro stop gn gp
  unfold decodeOp; rw [word_op]
  show zeroIn _ _ _ = _
  try simp (disch := decide) only [word_fld, Instr.area, ext_lo, ext_hi, ext_at]
  refine word_zero ?_ ?_
  · decide
  iterate 12 (all_goals first | exact and_leaf _ _ (by decide) | exact BitVec.zero_and | refine and_parts _ _ _ ?_ ?_)

theorem RoundTrip.vcvtF32Bf16 vd va h mk : RoundTrip.Statement (.vcvtF32Bf16 vd va h mk) := by
  refine RoundTrip.of _ _ rfl ?_
  intro stop gn gp
  unfold decodeOp; rw [word_op]
  show zeroIn _ _ _ = _
  try simp (disch := decide) only [word_fld, Instr.area, ext_lo, ext_hi, ext_at]
  refine word_zero ?_ ?_
  · decide
  iterate 12 (all_goals first | exact and_leaf _ _ (by decide) | exact BitVec.zero_and | refine and_parts _ _ _ ?_ ?_)

theorem RoundTrip.vcvtE4m3F32 vd va q : RoundTrip.Statement (.vcvtE4m3F32 vd va q) := by
  refine RoundTrip.of _ _ rfl ?_
  intro stop gn gp
  unfold decodeOp; rw [word_op]
  show zeroIn _ _ _ = _
  try simp (disch := decide) only [word_fld, Instr.area, ext_lo, ext_hi, ext_at]
  refine word_zero ?_ ?_
  · decide
  iterate 12 (all_goals first | exact and_leaf _ _ (by decide) | exact BitVec.zero_and | refine and_parts _ _ _ ?_ ?_)

theorem RoundTrip.vcvtE4m3F32Nv vd va q : RoundTrip.Statement (.vcvtE4m3F32Nv vd va q) := by
  refine RoundTrip.of _ _ rfl ?_
  intro stop gn gp
  unfold decodeOp; rw [word_op]
  show zeroIn _ _ _ = _
  try simp (disch := decide) only [word_fld, Instr.area, ext_lo, ext_hi, ext_at]
  refine word_zero ?_ ?_
  · decide
  iterate 12 (all_goals first | exact and_leaf _ _ (by decide) | exact BitVec.zero_and | refine and_parts _ _ _ ?_ ?_)

theorem RoundTrip.vcvtE5m2F32 vd va q : RoundTrip.Statement (.vcvtE5m2F32 vd va q) := by
  refine RoundTrip.of _ _ rfl ?_
  intro stop gn gp
  unfold decodeOp; rw [word_op]
  show zeroIn _ _ _ = _
  try simp (disch := decide) only [word_fld, Instr.area, ext_lo, ext_hi, ext_at]
  refine word_zero ?_ ?_
  · decide
  iterate 12 (all_goals first | exact and_leaf _ _ (by decide) | exact BitVec.zero_and | refine and_parts _ _ _ ?_ ?_)

theorem RoundTrip.vcvtF32E4m3 vd va q mk : RoundTrip.Statement (.vcvtF32E4m3 vd va q mk) := by
  refine RoundTrip.of _ _ rfl ?_
  intro stop gn gp
  unfold decodeOp; rw [word_op]
  show zeroIn _ _ _ = _
  try simp (disch := decide) only [word_fld, Instr.area, ext_lo, ext_hi, ext_at]
  refine word_zero ?_ ?_
  · decide
  iterate 12 (all_goals first | exact and_leaf _ _ (by decide) | exact BitVec.zero_and | refine and_parts _ _ _ ?_ ?_)

theorem RoundTrip.vcvtF32E5m2 vd va q mk : RoundTrip.Statement (.vcvtF32E5m2 vd va q mk) := by
  refine RoundTrip.of _ _ rfl ?_
  intro stop gn gp
  unfold decodeOp; rw [word_op]
  show zeroIn _ _ _ = _
  try simp (disch := decide) only [word_fld, Instr.area, ext_lo, ext_hi, ext_at]
  refine word_zero ?_ ?_
  · decide
  iterate 12 (all_goals first | exact and_leaf _ _ (by decide) | exact BitVec.zero_and | refine and_parts _ _ _ ?_ ?_)

theorem RoundTrip.vqmx4 vd vb va s : RoundTrip.Statement (.vqmx4 vd vb va s) := by
  refine RoundTrip.of _ _ rfl ?_
  intro stop gn gp
  unfold decodeOp; rw [word_op]
  show zeroIn _ _ _ = _
  try simp (disch := decide) only [word_fld, Instr.area, ext_lo, ext_hi, ext_at]
  refine word_zero ?_ ?_
  · decide
  iterate 12 (all_goals first | exact and_leaf _ _ (by decide) | exact BitVec.zero_and | refine and_parts _ _ _ ?_ ?_)

theorem RoundTrip.vqmx8 vd vb va q : RoundTrip.Statement (.vqmx8 vd vb va q) := by
  refine RoundTrip.of _ _ rfl ?_
  intro stop gn gp
  unfold decodeOp; rw [word_op]
  show zeroIn _ _ _ = _
  try simp (disch := decide) only [word_fld, Instr.area, ext_lo, ext_hi, ext_at]
  refine word_zero ?_ ?_
  · decide
  iterate 12 (all_goals first | exact and_leaf _ _ (by decide) | exact BitVec.zero_and | refine and_parts _ _ _ ?_ ?_)

theorem RoundTrip.vdqmx4 vd va vb s mk : RoundTrip.Statement (.vdqmx4 vd va vb s mk) := by
  refine RoundTrip.of _ _ rfl ?_
  intro stop gn gp
  unfold decodeOp; rw [word_op]
  show zeroIn _ _ _ = _
  try simp (disch := decide) only [word_fld, Instr.area, ext_lo, ext_hi, ext_at]
  refine word_zero ?_ ?_
  · decide
  iterate 12 (all_goals first | exact and_leaf _ _ (by decide) | exact BitVec.zero_and | refine and_parts _ _ _ ?_ ?_)

theorem RoundTrip.vxpS4 vd va s mk : RoundTrip.Statement (.vxpS4 vd va s mk) := by
  refine RoundTrip.of _ _ rfl ?_
  intro stop gn gp
  unfold decodeOp; rw [word_op]
  show zeroIn _ _ _ = _
  try simp (disch := decide) only [word_fld, Instr.area, ext_lo, ext_hi, ext_at]
  refine word_zero ?_ ?_
  · decide
  iterate 12 (all_goals first | exact and_leaf _ _ (by decide) | exact BitVec.zero_and | refine and_parts _ _ _ ?_ ?_)

theorem RoundTrip.vxpOcp4 vd va s q : RoundTrip.Statement (.vxpOcp4 vd va s q) := by
  refine RoundTrip.of _ _ rfl ?_
  intro stop gn gp
  unfold decodeOp; rw [word_op]
  show zeroIn _ _ _ = _
  try simp (disch := decide) only [word_fld, Instr.area, ext_lo, ext_hi, ext_at]
  refine word_zero ?_ ?_
  · decide
  iterate 12 (all_goals first | exact and_leaf _ _ (by decide) | exact BitVec.zero_and | refine and_parts _ _ _ ?_ ?_)

theorem RoundTrip.vcvtBfpF32 vd va : RoundTrip.Statement (.vcvtBfpF32 vd va) := by
  refine RoundTrip.of _ _ rfl ?_
  intro stop gn gp
  unfold decodeOp; rw [word_op]
  show zeroIn _ _ _ = _
  try simp (disch := decide) only [word_fld, Instr.area, ext_lo, ext_hi, ext_at]
  refine word_zero ?_ ?_
  · decide
  iterate 12 (all_goals first | exact and_leaf _ _ (by decide) | exact BitVec.zero_and | refine and_parts _ _ _ ?_ ?_)

theorem RoundTrip.vcvtF32Bfp vd va mk : RoundTrip.Statement (.vcvtF32Bfp vd va mk) := by
  refine RoundTrip.of _ _ rfl ?_
  intro stop gn gp
  unfold decodeOp; rw [word_op]
  show zeroIn _ _ _ = _
  try simp (disch := decide) only [word_fld, Instr.area, ext_lo, ext_hi, ext_at]
  refine word_zero ?_ ?_
  · decide
  iterate 12 (all_goals first | exact and_leaf _ _ (by decide) | exact BitVec.zero_and | refine and_parts _ _ _ ?_ ?_)

theorem RoundTrip.vperm vd va vb mk : RoundTrip.Statement (.vperm vd va vb mk) := by
  refine RoundTrip.of _ _ rfl ?_
  intro stop gn gp
  unfold decodeOp; rw [word_op]
  show zeroIn _ _ _ = _
  try simp (disch := decide) only [word_fld, Instr.area, ext_lo, ext_hi, ext_at]
  refine word_zero ?_ ?_
  · decide
  iterate 12 (all_goals first | exact and_leaf _ _ (by decide) | exact BitVec.zero_and | refine and_parts _ _ _ ?_ ?_)

theorem RoundTrip.vswpPair vd va f mk : RoundTrip.Statement (.vswpPair vd va f mk) := by
  refine RoundTrip.of _ _ rfl ?_
  intro stop gn gp
  unfold decodeOp; rw [word_op]
  show zeroIn _ _ _ = _
  try simp (disch := decide) only [word_fld, Instr.area, ext_lo, ext_hi, ext_at]
  refine word_zero ?_ ?_
  · decide
  iterate 12 (all_goals first | exact and_leaf _ _ (by decide) | exact BitVec.zero_and | refine and_parts _ _ _ ?_ ?_)

theorem RoundTrip.vrot vd va n mk : RoundTrip.Statement (.vrot vd va n mk) := by
  refine RoundTrip.of _ _ rfl ?_
  intro stop gn gp
  unfold decodeOp; rw [word_op]
  show zeroIn _ _ _ = _
  try simp (disch := decide) only [word_fld, Instr.area, ext_lo, ext_hi, ext_at]
  refine word_zero ?_ ?_
  · decide
  iterate 12 (all_goals first | exact and_leaf _ _ (by decide) | exact BitVec.zero_and | refine and_parts _ _ _ ?_ ?_)

theorem RoundTrip.vbc vd va n mk : RoundTrip.Statement (.vbc vd va n mk) := by
  refine RoundTrip.of _ _ rfl ?_
  intro stop gn gp
  unfold decodeOp; rw [word_op]
  show zeroIn _ _ _ = _
  try simp (disch := decide) only [word_fld, Instr.area, ext_lo, ext_hi, ext_at]
  refine word_zero ?_ ?_
  · decide
  iterate 12 (all_goals first | exact and_leaf _ _ (by decide) | exact BitVec.zero_and | refine and_parts _ _ _ ?_ ?_)

theorem RoundTrip.vext d va n : RoundTrip.Statement (.vext d va n) := by
  refine RoundTrip.of _ _ rfl ?_
  intro stop gn gp
  unfold decodeOp; rw [word_op]
  show ite _ _ _ = _
  try simp (disch := decide) only [word_fld, Instr.area, ext_lo, ext_hi, ext_at]
  rw [if_neg (by decide)]
  refine word_zero ?_ ?_
  · decide
  iterate 12 (all_goals first | exact and_leaf _ _ (by decide) | exact BitVec.zero_and | refine and_parts _ _ _ ?_ ?_)

theorem RoundTrip.vextMask d ma : RoundTrip.Statement (.vextMask d ma) := by
  refine RoundTrip.of _ _ rfl ?_
  intro stop gn gp
  unfold decodeOp; rw [word_op]
  show ite _ _ _ = _
  try simp (disch := decide) only [word_fld, Instr.area, ext_lo, ext_hi, ext_at]
  rw [if_pos (by decide)]
  refine word_zero ?_ ?_
  · decide
  iterate 12 (all_goals first | exact and_leaf _ _ (by decide) | exact BitVec.zero_and | refine and_parts _ _ _ ?_ ?_)

theorem RoundTrip.vins vd a n : RoundTrip.Statement (.vins vd a n) := by
  refine RoundTrip.of _ _ rfl ?_
  intro stop gn gp
  unfold decodeOp; rw [word_op]
  show ite _ _ _ = _
  try simp (disch := decide) only [word_fld, Instr.area, ext_lo, ext_hi, ext_at]
  rw [if_neg (by decide)]
  refine word_zero ?_ ?_
  · decide
  iterate 12 (all_goals first | exact and_leaf _ _ (by decide) | exact BitVec.zero_and | refine and_parts _ _ _ ?_ ?_)

theorem RoundTrip.vinsMask md a : RoundTrip.Statement (.vinsMask md a) := by
  refine RoundTrip.of _ _ rfl ?_
  intro stop gn gp
  unfold decodeOp; rw [word_op]
  show ite _ _ _ = _
  try simp (disch := decide) only [word_fld, Instr.area, ext_lo, ext_hi, ext_at]
  rw [if_pos (by decide)]
  refine word_zero ?_ ?_
  · decide
  iterate 12 (all_goals first | exact and_leaf _ _ (by decide) | exact BitVec.zero_and | refine and_parts _ _ _ ?_ ?_)

theorem RoundTrip.vli vd imm : RoundTrip.Statement (.vli vd imm) := by
  refine RoundTrip.of _ _ rfl ?_
  intro stop gn gp
  unfold decodeOp; rw [word_op]
  show zeroIn _ _ _ = _
  try simp (disch := decide) only [word_fld, Instr.area, ext_lo, ext_hi, ext_at]
  refine word_zero ?_ ?_
  · decide
  iterate 12 (all_goals first | exact and_leaf _ _ (by decide) | exact BitVec.zero_and | refine and_parts _ _ _ ?_ ?_)

theorem RoundTrip.vmov vd va mk : RoundTrip.Statement (.vmov vd va mk) := by
  refine RoundTrip.of _ _ rfl ?_
  intro stop gn gp
  unfold decodeOp; rw [word_op]
  show zeroIn _ _ _ = _
  try simp (disch := decide) only [word_fld, Instr.area, ext_lo, ext_hi, ext_at]
  refine word_zero ?_ ?_
  · decide
  iterate 12 (all_goals first | exact and_leaf _ _ (by decide) | exact BitVec.zero_and | refine and_parts _ _ _ ?_ ?_)

theorem RoundTrip.vredAddF32 vd va mk : RoundTrip.Statement (.vredAddF32 vd va mk) := by
  refine RoundTrip.of _ _ rfl ?_
  intro stop gn gp
  unfold decodeOp; rw [word_op]
  show zeroIn _ _ _ = _
  try simp (disch := decide) only [word_fld, Instr.area, ext_lo, ext_hi, ext_at]
  refine word_zero ?_ ?_
  · decide
  iterate 12 (all_goals first | exact and_leaf _ _ (by decide) | exact BitVec.zero_and | refine and_parts _ _ _ ?_ ?_)

theorem RoundTrip.vredMaxF32 vd va mk : RoundTrip.Statement (.vredMaxF32 vd va mk) := by
  refine RoundTrip.of _ _ rfl ?_
  intro stop gn gp
  unfold decodeOp; rw [word_op]
  show zeroIn _ _ _ = _
  try simp (disch := decide) only [word_fld, Instr.area, ext_lo, ext_hi, ext_at]
  refine word_zero ?_ ?_
  · decide
  iterate 12 (all_goals first | exact and_leaf _ _ (by decide) | exact BitVec.zero_and | refine and_parts _ _ _ ?_ ?_)

theorem RoundTrip.vredAddS32 vd va mk : RoundTrip.Statement (.vredAddS32 vd va mk) := by
  refine RoundTrip.of _ _ rfl ?_
  intro stop gn gp
  unfold decodeOp; rw [word_op]
  show zeroIn _ _ _ = _
  try simp (disch := decide) only [word_fld, Instr.area, ext_lo, ext_hi, ext_at]
  refine word_zero ?_ ?_
  · decide
  iterate 12 (all_goals first | exact and_leaf _ _ (by decide) | exact BitVec.zero_and | refine and_parts _ _ _ ?_ ?_)

theorem RoundTrip.vscanAddS32 vd va mk : RoundTrip.Statement (.vscanAddS32 vd va mk) := by
  refine RoundTrip.of _ _ rfl ?_
  intro stop gn gp
  unfold decodeOp; rw [word_op]
  show zeroIn _ _ _ = _
  try simp (disch := decide) only [word_fld, Instr.area, ext_lo, ext_hi, ext_at]
  refine word_zero ?_ ?_
  · decide
  iterate 12 (all_goals first | exact and_leaf _ _ (by decide) | exact BitVec.zero_and | refine and_parts _ _ _ ?_ ?_)

theorem RoundTrip.vpackS16 vd va vb : RoundTrip.Statement (.vpackS16 vd va vb) := by
  refine RoundTrip.of _ _ rfl ?_
  intro stop gn gp
  unfold decodeOp; rw [word_op]
  show zeroIn _ _ _ = _
  try simp (disch := decide) only [word_fld, Instr.area, ext_lo, ext_hi, ext_at]
  refine word_zero ?_ ?_
  · decide
  iterate 12 (all_goals first | exact and_leaf _ _ (by decide) | exact BitVec.zero_and | refine and_parts _ _ _ ?_ ?_)

theorem RoundTrip.vunpkS16 vd va h mk : RoundTrip.Statement (.vunpkS16 vd va h mk) := by
  refine RoundTrip.of _ _ rfl ?_
  intro stop gn gp
  unfold decodeOp; rw [word_op]
  show zeroIn _ _ _ = _
  try simp (disch := decide) only [word_fld, Instr.area, ext_lo, ext_hi, ext_at]
  refine word_zero ?_ ?_
  · decide
  iterate 12 (all_goals first | exact and_leaf _ _ (by decide) | exact BitVec.zero_and | refine and_parts _ _ _ ?_ ?_)

theorem RoundTrip.vcntM d ma : RoundTrip.Statement (.vcntM d ma) := by
  refine RoundTrip.of _ _ rfl ?_
  intro stop gn gp
  unfold decodeOp; rw [word_op]
  show zeroIn _ _ _ = _
  try simp (disch := decide) only [word_fld, Instr.area, ext_lo, ext_hi, ext_at]
  refine word_zero ?_ ?_
  · decide
  iterate 12 (all_goals first | exact and_leaf _ _ (by decide) | exact BitVec.zero_and | refine and_parts _ _ _ ?_ ?_)

theorem RoundTrip.vcomp vd va mk : RoundTrip.Statement (.vcomp vd va mk) := by
  refine RoundTrip.of _ _ rfl ?_
  intro stop gn gp
  unfold decodeOp; rw [word_op]
  show zeroIn _ _ _ = _
  try simp (disch := decide) only [word_fld, Instr.area, ext_lo, ext_hi, ext_at]
  refine word_zero ?_ ?_
  · decide
  iterate 12 (all_goals first | exact and_leaf _ _ (by decide) | exact BitVec.zero_and | refine and_parts _ _ _ ?_ ?_)

theorem RoundTrip.vexpd vd va mk : RoundTrip.Statement (.vexpd vd va mk) := by
  refine RoundTrip.of _ _ rfl ?_
  intro stop gn gp
  unfold decodeOp; rw [word_op]
  show zeroIn _ _ _ = _
  try simp (disch := decide) only [word_fld, Instr.area, ext_lo, ext_hi, ext_at]
  refine word_zero ?_ ?_
  · decide
  iterate 12 (all_goals first | exact and_leaf _ _ (by decide) | exact BitVec.zero_and | refine and_parts _ _ _ ?_ ?_)

theorem RoundTrip.lease n : RoundTrip.Statement (.lease n) := by
  refine RoundTrip.of _ _ rfl ?_
  intro stop gn gp
  unfold decodeOp; rw [word_op]
  show zeroIn _ _ _ = _
  try simp (disch := decide) only [word_fld, Instr.area, ext_lo, ext_hi, ext_at]
  refine word_zero ?_ ?_
  · decide
  iterate 12 (all_goals first | exact and_leaf _ _ (by decide) | exact BitVec.zero_and | refine and_parts _ _ _ ?_ ?_)

theorem RoundTrip.unlease : RoundTrip.Statement .unlease := by
  refine RoundTrip.of _ _ rfl ?_
  intro stop gn gp
  unfold decodeOp; rw [word_op]
  show zeroIn _ _ _ = _
  try simp (disch := decide) only [word_fld, Instr.area, ext_lo, ext_hi, ext_at]
  refine word_zero ?_ ?_
  · decide
  iterate 12 (all_goals first | exact and_leaf _ _ (by decide) | exact BitVec.zero_and | refine and_parts _ _ _ ?_ ?_)

theorem RoundTrip.tload ab prof rows : RoundTrip.Statement (.tload ab prof rows) := by
  refine RoundTrip.of _ _ rfl ?_
  intro stop gn gp
  unfold decodeOp; rw [word_op]
  show zeroIn _ _ _ = _
  try simp (disch := decide) only [word_fld, Instr.area, ext_lo, ext_hi, ext_at]
  refine word_zero ?_ ?_
  · decide
  iterate 12 (all_goals first | exact and_leaf _ _ (by decide) | exact BitVec.zero_and | refine and_parts _ _ _ ?_ ?_)

theorem RoundTrip.tmma slot aa ab prof rows land cops : RoundTrip.Statement (.tmma slot aa ab prof rows land cops) := by
  refine RoundTrip.of _ _ rfl ?_
  intro stop gn gp
  unfold decodeOp; rw [word_op]
  show zeroIn _ _ _ = _
  try simp (disch := decide) only [word_fld, Instr.area, ext_lo, ext_hi, ext_at]
  refine word_zero ?_ ?_
  · decide
  iterate 12 (all_goals first | exact and_leaf _ _ (by decide) | exact BitVec.zero_and | refine and_parts _ _ _ ?_ ?_)

theorem RoundTrip.tmmaGa slot aa ab prof rows land cops : RoundTrip.Statement (.tmmaGa slot aa ab prof rows land cops) := by
  refine RoundTrip.of _ _ rfl ?_
  intro stop gn gp
  unfold decodeOp; rw [word_op]
  show zeroIn _ _ _ = _
  try simp (disch := decide) only [word_fld, Instr.area, ext_lo, ext_hi, ext_at]
  refine word_zero ?_ ?_
  · decide
  iterate 12 (all_goals first | exact and_leaf _ _ (by decide) | exact BitVec.zero_and | refine and_parts _ _ _ ?_ ?_)

theorem RoundTrip.tzero slot rows : RoundTrip.Statement (.tzero slot rows) := by
  refine RoundTrip.of _ _ rfl ?_
  intro stop gn gp
  unfold decodeOp; rw [word_op]
  show zeroIn _ _ _ = _
  try simp (disch := decide) only [word_fld, Instr.area, ext_lo, ext_hi, ext_at]
  refine word_zero ?_ ?_
  · decide
  iterate 12 (all_goals first | exact and_leaf _ _ (by decide) | exact BitVec.zero_and | refine and_parts _ _ _ ?_ ?_)

theorem RoundTrip.taccRd vd c clr mk : RoundTrip.Statement (.taccRd vd c clr mk) := by
  refine RoundTrip.of _ _ rfl ?_
  intro stop gn gp
  unfold decodeOp; rw [word_op]
  show zeroIn _ _ _ = _
  try simp (disch := decide) only [word_fld, Instr.area, ext_lo, ext_hi, ext_at]
  refine word_zero ?_ ?_
  · decide
  iterate 12 (all_goals first | exact and_leaf _ _ (by decide) | exact BitVec.zero_and | refine and_parts _ _ _ ?_ ?_)

theorem RoundTrip.taccWr va c mk : RoundTrip.Statement (.taccWr va c mk) := by
  refine RoundTrip.of _ _ rfl ?_
  intro stop gn gp
  unfold decodeOp; rw [word_op]
  show zeroIn _ _ _ = _
  try simp (disch := decide) only [word_fld, Instr.area, ext_lo, ext_hi, ext_at]
  refine word_zero ?_ ?_
  · decide
  iterate 12 (all_goals first | exact and_leaf _ _ (by decide) | exact BitVec.zero_and | refine and_parts _ _ _ ?_ ?_)

theorem RoundTrip.tshape d a prof : RoundTrip.Statement (.tshape d a prof) := by
  refine RoundTrip.of _ _ rfl ?_
  intro stop gn gp
  unfold decodeOp; rw [word_op]
  show zeroIn _ _ _ = _
  try simp (disch := decide) only [word_fld, Instr.area, ext_lo, ext_hi, ext_at]
  refine word_zero ?_ ?_
  · decide
  iterate 12 (all_goals first | exact and_leaf _ _ (by decide) | exact BitVec.zero_and | refine and_parts _ _ _ ?_ ?_)

theorem RoundTrip.ftset d a : RoundTrip.Statement (.ftset d a) := by
  refine RoundTrip.of _ _ rfl ?_
  intro stop gn gp
  unfold decodeOp; rw [word_op]
  show zeroIn _ _ _ = _
  try simp (disch := decide) only [word_fld, Instr.area, ext_lo, ext_hi, ext_at]
  refine word_zero ?_ ?_
  · decide
  iterate 12 (all_goals first | exact and_leaf _ _ (by decide) | exact BitVec.zero_and | refine and_parts _ _ _ ?_ ?_)

theorem RoundTrip.ftget d a : RoundTrip.Statement (.ftget d a) := by
  refine RoundTrip.of _ _ rfl ?_
  intro stop gn gp
  unfold decodeOp; rw [word_op]
  show zeroIn _ _ _ = _
  try simp (disch := decide) only [word_fld, Instr.area, ext_lo, ext_hi, ext_at]
  refine word_zero ?_ ?_
  · decide
  iterate 12 (all_goals first | exact and_leaf _ _ (by decide) | exact BitVec.zero_and | refine and_parts _ _ _ ?_ ?_)

theorem RoundTrip.tcal d segs : RoundTrip.Statement (.tcal d segs) := by
  refine RoundTrip.of _ _ rfl ?_
  intro stop gn gp
  unfold decodeOp; rw [word_op]
  show zeroIn _ _ _ = _
  try simp (disch := decide) only [word_fld, Instr.area, ext_lo, ext_hi, ext_at]
  refine word_zero ?_ ?_
  · decide
  iterate 12 (all_goals first | exact and_leaf _ _ (by decide) | exact BitVec.zero_and | refine and_parts _ _ _ ?_ ?_)

theorem RoundTrip.rminF32 vd va vb vc mk k land : RoundTrip.Statement (.rminF32 vd va vb vc mk k land) := by
  refine RoundTrip.of _ _ rfl ?_
  intro stop gn gp
  unfold decodeOp; rw [word_op]
  show zeroIn _ _ _ = _
  try simp (disch := decide) only [word_fld, Instr.area, ext_lo, ext_hi, ext_at]
  refine word_zero ?_ ?_
  · decide
  iterate 12 (all_goals first | exact and_leaf _ _ (by decide) | exact BitVec.zero_and | refine and_parts _ _ _ ?_ ?_)

theorem RoundTrip.rmaxF32 vd va vb vc mk k land : RoundTrip.Statement (.rmaxF32 vd va vb vc mk k land) := by
  refine RoundTrip.of _ _ rfl ?_
  intro stop gn gp
  unfold decodeOp; rw [word_op]
  show zeroIn _ _ _ = _
  try simp (disch := decide) only [word_fld, Instr.area, ext_lo, ext_hi, ext_at]
  refine word_zero ?_ ?_
  · decide
  iterate 12 (all_goals first | exact and_leaf _ _ (by decide) | exact BitVec.zero_and | refine and_parts _ _ _ ?_ ?_)

theorem RoundTrip.rminS32 vd va vb vc mk k land : RoundTrip.Statement (.rminS32 vd va vb vc mk k land) := by
  refine RoundTrip.of _ _ rfl ?_
  intro stop gn gp
  unfold decodeOp; rw [word_op]
  show zeroIn _ _ _ = _
  try simp (disch := decide) only [word_fld, Instr.area, ext_lo, ext_hi, ext_at]
  refine word_zero ?_ ?_
  · decide
  iterate 12 (all_goals first | exact and_leaf _ _ (by decide) | exact BitVec.zero_and | refine and_parts _ _ _ ?_ ?_)

theorem RoundTrip.rmaxS32 vd va vb vc mk k land : RoundTrip.Statement (.rmaxS32 vd va vb vc mk k land) := by
  refine RoundTrip.of _ _ rfl ?_
  intro stop gn gp
  unfold decodeOp; rw [word_op]
  show zeroIn _ _ _ = _
  try simp (disch := decide) only [word_fld, Instr.area, ext_lo, ext_hi, ext_at]
  refine word_zero ?_ ?_
  · decide
  iterate 12 (all_goals first | exact and_leaf _ _ (by decide) | exact BitVec.zero_and | refine and_parts _ _ _ ?_ ?_)

theorem RoundTrip.rsortF32 vd va vb vc mk k land : RoundTrip.Statement (.rsortF32 vd va vb vc mk k land) := by
  refine RoundTrip.of _ _ rfl ?_
  intro stop gn gp
  unfold decodeOp; rw [word_op]
  show zeroIn _ _ _ = _
  try simp (disch := decide) only [word_fld, Instr.area, ext_lo, ext_hi, ext_at]
  refine word_zero ?_ ?_
  · decide
  iterate 12 (all_goals first | exact and_leaf _ _ (by decide) | exact BitVec.zero_and | refine and_parts _ _ _ ?_ ?_)

theorem RoundTrip.rsortdF32 vd va vb vc mk k land : RoundTrip.Statement (.rsortdF32 vd va vb vc mk k land) := by
  refine RoundTrip.of _ _ rfl ?_
  intro stop gn gp
  unfold decodeOp; rw [word_op]
  show zeroIn _ _ _ = _
  try simp (disch := decide) only [word_fld, Instr.area, ext_lo, ext_hi, ext_at]
  refine word_zero ?_ ?_
  · decide
  iterate 12 (all_goals first | exact and_leaf _ _ (by decide) | exact BitVec.zero_and | refine and_parts _ _ _ ?_ ?_)

theorem RoundTrip.rsortS32 vd va vb vc mk k land : RoundTrip.Statement (.rsortS32 vd va vb vc mk k land) := by
  refine RoundTrip.of _ _ rfl ?_
  intro stop gn gp
  unfold decodeOp; rw [word_op]
  show zeroIn _ _ _ = _
  try simp (disch := decide) only [word_fld, Instr.area, ext_lo, ext_hi, ext_at]
  refine word_zero ?_ ?_
  · decide
  iterate 12 (all_goals first | exact and_leaf _ _ (by decide) | exact BitVec.zero_and | refine and_parts _ _ _ ?_ ?_)

theorem RoundTrip.rtopkF32 vd va vb vc mk k land : RoundTrip.Statement (.rtopkF32 vd va vb vc mk k land) := by
  refine RoundTrip.of _ _ rfl ?_
  intro stop gn gp
  unfold decodeOp; rw [word_op]
  show zeroIn _ _ _ = _
  try simp (disch := decide) only [word_fld, Instr.area, ext_lo, ext_hi, ext_at]
  refine word_zero ?_ ?_
  · decide
  iterate 12 (all_goals first | exact and_leaf _ _ (by decide) | exact BitVec.zero_and | refine and_parts _ _ _ ?_ ?_)

theorem RoundTrip.rbotkF32 vd va vb vc mk k land : RoundTrip.Statement (.rbotkF32 vd va vb vc mk k land) := by
  refine RoundTrip.of _ _ rfl ?_
  intro stop gn gp
  unfold decodeOp; rw [word_op]
  show zeroIn _ _ _ = _
  try simp (disch := decide) only [word_fld, Instr.area, ext_lo, ext_hi, ext_at]
  refine word_zero ?_ ?_
  · decide
  iterate 12 (all_goals first | exact and_leaf _ _ (by decide) | exact BitVec.zero_and | refine and_parts _ _ _ ?_ ?_)

theorem RoundTrip.rtopkS32 vd va vb vc mk k land : RoundTrip.Statement (.rtopkS32 vd va vb vc mk k land) := by
  refine RoundTrip.of _ _ rfl ?_
  intro stop gn gp
  unfold decodeOp; rw [word_op]
  show zeroIn _ _ _ = _
  try simp (disch := decide) only [word_fld, Instr.area, ext_lo, ext_hi, ext_at]
  refine word_zero ?_ ?_
  · decide
  iterate 12 (all_goals first | exact and_leaf _ _ (by decide) | exact BitVec.zero_and | refine and_parts _ _ _ ?_ ?_)

theorem RoundTrip.rmergeF32 vd va vb vc mk k land : RoundTrip.Statement (.rmergeF32 vd va vb vc mk k land) := by
  refine RoundTrip.of _ _ rfl ?_
  intro stop gn gp
  unfold decodeOp; rw [word_op]
  show zeroIn _ _ _ = _
  try simp (disch := decide) only [word_fld, Instr.area, ext_lo, ext_hi, ext_at]
  refine word_zero ?_ ?_
  · decide
  iterate 12 (all_goals first | exact and_leaf _ _ (by decide) | exact BitVec.zero_and | refine and_parts _ _ _ ?_ ?_)

theorem RoundTrip.rmergdF32 vd va vb vc mk k land : RoundTrip.Statement (.rmergdF32 vd va vb vc mk k land) := by
  refine RoundTrip.of _ _ rfl ?_
  intro stop gn gp
  unfold decodeOp; rw [word_op]
  show zeroIn _ _ _ = _
  try simp (disch := decide) only [word_fld, Instr.area, ext_lo, ext_hi, ext_at]
  refine word_zero ?_ ?_
  · decide
  iterate 12 (all_goals first | exact and_leaf _ _ (by decide) | exact BitVec.zero_and | refine and_parts _ _ _ ?_ ?_)

theorem RoundTrip.rknnF32 vd va vb vc mk k land : RoundTrip.Statement (.rknnF32 vd va vb vc mk k land) := by
  refine RoundTrip.of _ _ rfl ?_
  intro stop gn gp
  unfold decodeOp; rw [word_op]
  show zeroIn _ _ _ = _
  try simp (disch := decide) only [word_fld, Instr.area, ext_lo, ext_hi, ext_at]
  refine word_zero ?_ ?_
  · decide
  iterate 12 (all_goals first | exact and_leaf _ _ (by decide) | exact BitVec.zero_and | refine and_parts _ _ _ ?_ ?_)

theorem RoundTrip.tbinit a n nl nc ns : RoundTrip.Statement (.tbinit a n nl nc ns) := by
  refine RoundTrip.of _ _ rfl ?_
  intro stop gn gp
  unfold decodeOp; rw [word_op]
  show zeroIn _ _ _ = _
  try simp (disch := decide) only [word_fld, Instr.area, ext_lo, ext_hi, ext_at]
  refine word_zero ?_ ?_
  · decide
  iterate 12 (all_goals first | exact and_leaf _ _ (by decide) | exact BitVec.zero_and | refine and_parts _ _ _ ?_ ?_)

theorem RoundTrip.tbexpect a n : RoundTrip.Statement (.tbexpect a n) := by
  refine RoundTrip.of _ _ rfl ?_
  intro stop gn gp
  unfold decodeOp; rw [word_op]
  show zeroIn _ _ _ = _
  try simp (disch := decide) only [word_fld, Instr.area, ext_lo, ext_hi, ext_at]
  refine word_zero ?_ ?_
  · decide
  iterate 12 (all_goals first | exact and_leaf _ _ (by decide) | exact BitVec.zero_and | refine and_parts _ _ _ ?_ ?_)

theorem RoundTrip.tbarrive d a n p : RoundTrip.Statement (.tbarrive d a n p) := by
  refine RoundTrip.of _ _ rfl ?_
  intro stop gn gp
  unfold decodeOp; rw [word_op]
  show zeroIn _ _ _ = _
  try simp (disch := decide) only [word_fld, Instr.area, ext_lo, ext_hi, ext_at]
  refine word_zero ?_ ?_
  · decide
  iterate 12 (all_goals first | exact and_leaf _ _ (by decide) | exact BitVec.zero_and | refine and_parts _ _ _ ?_ ?_)

theorem RoundTrip.tbwait a n : RoundTrip.Statement (.tbwait a n) := by
  refine RoundTrip.of _ _ rfl ?_
  intro stop gn gp
  unfold decodeOp; rw [word_op]
  show zeroIn _ _ _ = _
  try simp (disch := decide) only [word_fld, Instr.area, ext_lo, ext_hi, ext_at]
  refine word_zero ?_ ?_
  · decide
  iterate 12 (all_goals first | exact and_leaf _ _ (by decide) | exact BitVec.zero_and | refine and_parts _ _ _ ?_ ?_)

theorem RoundTrip.tbtest d a n : RoundTrip.Statement (.tbtest d a n) := by
  refine RoundTrip.of _ _ rfl ?_
  intro stop gn gp
  unfold decodeOp; rw [word_op]
  show zeroIn _ _ _ = _
  try simp (disch := decide) only [word_fld, Instr.area, ext_lo, ext_hi, ext_at]
  refine word_zero ?_ ?_
  · decide
  iterate 12 (all_goals first | exact and_leaf _ _ (by decide) | exact BitVec.zero_and | refine and_parts _ _ _ ?_ ?_)

theorem RoundTrip.tbretire n : RoundTrip.Statement (.tbretire n) := by
  refine RoundTrip.of _ _ rfl ?_
  intro stop gn gp
  unfold decodeOp; rw [word_op]
  show zeroIn _ _ _ = _
  try simp (disch := decide) only [word_fld, Instr.area, ext_lo, ext_hi, ext_at]
  refine word_zero ?_ ?_
  · decide
  iterate 12 (all_goals first | exact and_leaf _ _ (by decide) | exact BitVec.zero_and | refine and_parts _ _ _ ?_ ?_)

theorem RoundTrip.sopen q r : RoundTrip.Statement (.sopen q r) := by
  refine RoundTrip.of _ _ rfl ?_
  intro stop gn gp
  unfold decodeOp; rw [word_op]
  show zeroIn _ _ _ = _
  try simp (disch := decide) only [word_fld, Instr.area, ext_lo, ext_hi, ext_at]
  refine word_zero ?_ ?_
  · decide
  iterate 12 (all_goals first | exact and_leaf _ _ (by decide) | exact BitVec.zero_and | refine and_parts _ _ _ ?_ ?_)

theorem RoundTrip.sput d q a : RoundTrip.Statement (.sput d q a) := by
  refine RoundTrip.of _ _ rfl ?_
  intro stop gn gp
  unfold decodeOp; rw [word_op]
  show zeroIn _ _ _ = _
  try simp (disch := decide) only [word_fld, Instr.area, ext_lo, ext_hi, ext_at]
  refine word_zero ?_ ?_
  · decide
  iterate 12 (all_goals first | exact and_leaf _ _ (by decide) | exact BitVec.zero_and | refine and_parts _ _ _ ?_ ?_)

theorem RoundTrip.sget d q a : RoundTrip.Statement (.sget d q a) := by
  refine RoundTrip.of _ _ rfl ?_
  intro stop gn gp
  unfold decodeOp; rw [word_op]
  show zeroIn _ _ _ = _
  try simp (disch := decide) only [word_fld, Instr.area, ext_lo, ext_hi, ext_at]
  refine word_zero ?_ ?_
  · decide
  iterate 12 (all_goals first | exact and_leaf _ _ (by decide) | exact BitVec.zero_and | refine and_parts _ _ _ ?_ ?_)

theorem RoundTrip.sclose q s : RoundTrip.Statement (.sclose q s) := by
  refine RoundTrip.of _ _ rfl ?_
  intro stop gn gp
  unfold decodeOp; rw [word_op]
  show zeroIn _ _ _ = _
  try simp (disch := decide) only [word_fld, Instr.area, ext_lo, ext_hi, ext_at]
  refine word_zero ?_ ?_
  · decide
  iterate 12 (all_goals first | exact and_leaf _ _ (by decide) | exact BitVec.zero_and | refine and_parts _ _ _ ?_ ?_)

theorem RoundTrip.sstat d q : RoundTrip.Statement (.sstat d q) := by
  refine RoundTrip.of _ _ rfl ?_
  intro stop gn gp
  unfold decodeOp; rw [word_op]
  show zeroIn _ _ _ = _
  try simp (disch := decide) only [word_fld, Instr.area, ext_lo, ext_hi, ext_at]
  refine word_zero ?_ ?_
  · decide
  iterate 12 (all_goals first | exact and_leaf _ _ (by decide) | exact BitVec.zero_and | refine and_parts _ _ _ ?_ ?_)

theorem RoundTrip.qput a q : RoundTrip.Statement (.qput a q) := by
  refine RoundTrip.of _ _ rfl ?_
  intro stop gn gp
  unfold decodeOp; rw [word_op]
  show zeroIn _ _ _ = _
  try simp (disch := decide) only [word_fld, Instr.area, ext_lo, ext_hi, ext_at]
  refine word_zero ?_ ?_
  · decide
  iterate 12 (all_goals first | exact and_leaf _ _ (by decide) | exact BitVec.zero_and | refine and_parts _ _ _ ?_ ?_)

theorem RoundTrip.qget d q w k : RoundTrip.Statement (.qget d q w k) := by
  refine RoundTrip.of _ _ rfl ?_
  intro stop gn gp
  unfold decodeOp; rw [word_op]
  show zeroIn _ _ _ = _
  try simp (disch := decide) only [word_fld, Instr.area, ext_lo, ext_hi, ext_at]
  refine word_zero ?_ ?_
  · decide
  iterate 12 (all_goals first | exact and_leaf _ _ (by decide) | exact BitVec.zero_and | refine and_parts _ _ _ ?_ ?_)

theorem RoundTrip.qputv va q : RoundTrip.Statement (.qputv va q) := by
  refine RoundTrip.of _ _ rfl ?_
  intro stop gn gp
  unfold decodeOp; rw [word_op]
  show zeroIn _ _ _ = _
  try simp (disch := decide) only [word_fld, Instr.area, ext_lo, ext_hi, ext_at]
  refine word_zero ?_ ?_
  · decide
  iterate 12 (all_goals first | exact and_leaf _ _ (by decide) | exact BitVec.zero_and | refine and_parts _ _ _ ?_ ?_)

theorem RoundTrip.qgetv vd q k : RoundTrip.Statement (.qgetv vd q k) := by
  refine RoundTrip.of _ _ rfl ?_
  intro stop gn gp
  unfold decodeOp; rw [word_op]
  show zeroIn _ _ _ = _
  try simp (disch := decide) only [word_fld, Instr.area, ext_lo, ext_hi, ext_at]
  refine word_zero ?_ ?_
  · decide
  iterate 12 (all_goals first | exact and_leaf _ _ (by decide) | exact BitVec.zero_and | refine and_parts _ _ _ ?_ ?_)

theorem RoundTrip.sectionEntry co e : RoundTrip.Statement (.sectionEntry co e) := RoundTrip.none_of _ rfl

theorem RoundTrip.taskStart co : RoundTrip.Statement (.taskStart co) := RoundTrip.none_of _ rfl

theorem RoundTrip.taskRetirement co : RoundTrip.Statement (.taskRetirement co) := RoundTrip.none_of _ rfl

theorem RoundTrip.landDue co slot : RoundTrip.Statement (.landDue co slot) := RoundTrip.none_of _ rfl

theorem RoundTrip.freezeEnd co : RoundTrip.Statement (.freezeEnd co) := RoundTrip.none_of _ rfl

theorem RoundTrip.copyCommandStart co q : RoundTrip.Statement (.copyCommandStart co q) := RoundTrip.none_of _ rfl

theorem RoundTrip.copyProgress co n : RoundTrip.Statement (.copyProgress co n) := RoundTrip.none_of _ rfl

theorem RoundTrip.copyVisible co n : RoundTrip.Statement (.copyVisible co n) := RoundTrip.none_of _ rfl

theorem RoundTrip.xorderHead co q : RoundTrip.Statement (.xorderHead co q) := RoundTrip.none_of _ rfl

theorem RoundTrip.xorderLeave co q : RoundTrip.Statement (.xorderLeave co q) := RoundTrip.none_of _ rfl

theorem RoundTrip.pageWalkComplete isle n : RoundTrip.Statement (.pageWalkComplete isle n) := RoundTrip.none_of _ rfl

theorem RoundTrip.ituinvVa isle ctx va : RoundTrip.Statement (.ituinvVa isle ctx va) := RoundTrip.none_of _ rfl

theorem RoundTrip.ituinvContext isle ctx : RoundTrip.Statement (.ituinvContext isle ctx) := RoundTrip.none_of _ rfl

theorem RoundTrip.ituinvAll isle : RoundTrip.Statement (.ituinvAll isle) := RoundTrip.none_of _ rfl

theorem RoundTrip.ituinvComplete isle : RoundTrip.Statement (.ituinvComplete isle) := RoundTrip.none_of _ rfl

theorem RoundTrip.leaseGrant isle ins : RoundTrip.Statement (.leaseGrant isle ins) := RoundTrip.none_of _ rfl

theorem RoundTrip.tileReady co slot rejects : RoundTrip.Statement (.tileReady co slot rejects) := RoundTrip.none_of _ rfl

theorem RoundTrip.raceReady co slot rejects : RoundTrip.Statement (.raceReady co slot rejects) := RoundTrip.none_of _ rfl

theorem RoundTrip.calibrationMark isle ins : RoundTrip.Statement (.calibrationMark isle ins) := RoundTrip.none_of _ rfl

theorem RoundTrip.sliceRequest site slice n ecc : RoundTrip.Statement (.sliceRequest site slice n ecc) := RoundTrip.none_of _ rfl

theorem RoundTrip.scrubLine site slice ecc : RoundTrip.Statement (.scrubLine site slice ecc) := RoundTrip.none_of _ rfl

theorem RoundTrip.rowTrackLeak site slice : RoundTrip.Statement (.rowTrackLeak site slice) := RoundTrip.none_of _ rfl

theorem RoundTrip.rowSpareStart site slice bank row : RoundTrip.Statement (.rowSpareStart site slice bank row) := RoundTrip.none_of _ rfl

theorem RoundTrip.spareLineCopy site slice : RoundTrip.Statement (.spareLineCopy site slice) := RoundTrip.none_of _ rfl

theorem RoundTrip.atomicApply co n : RoundTrip.Statement (.atomicApply co n) := RoundTrip.none_of _ rfl

theorem RoundTrip.roundRequestAccept co n : RoundTrip.Statement (.roundRequestAccept co n) := RoundTrip.none_of _ rfl

theorem RoundTrip.roundCloseNotice site slice lid p : RoundTrip.Statement (.roundCloseNotice site slice lid p) := RoundTrip.none_of _ rfl

theorem RoundTrip.roundApply site slice lid wave tag : RoundTrip.Statement (.roundApply site slice lid wave tag) := RoundTrip.none_of _ rfl

theorem RoundTrip.atomicLanding co n : RoundTrip.Statement (.atomicLanding co n) := RoundTrip.none_of _ rfl

theorem RoundTrip.monitorRequest co e : RoundTrip.Statement (.monitorRequest co e) := RoundTrip.none_of _ rfl

theorem RoundTrip.monitorTimeout co e : RoundTrip.Statement (.monitorTimeout co e) := RoundTrip.none_of _ rfl

theorem RoundTrip.sputPublish site ring : RoundTrip.Statement (.sputPublish site ring) := RoundTrip.none_of _ rfl

theorem RoundTrip.sgetCopyComplete site ring : RoundTrip.Statement (.sgetCopyComplete site ring) := RoundTrip.none_of _ rfl

theorem RoundTrip.entryRelease lid ent : RoundTrip.Statement (.entryRelease lid ent) := RoundTrip.none_of _ rfl

theorem RoundTrip.frameScheduledEnd lid : RoundTrip.Statement (.frameScheduledEnd lid) := RoundTrip.none_of _ rfl

theorem RoundTrip.slipLimit lid : RoundTrip.Statement (.slipLimit lid) := RoundTrip.none_of _ rfl

theorem RoundTrip.frameComplete lid elastic : RoundTrip.Statement (.frameComplete lid elastic) := RoundTrip.none_of _ rfl

theorem RoundTrip.frameStart lid : RoundTrip.Statement (.frameStart lid) := RoundTrip.none_of _ rfl

theorem RoundTrip.launchAbort lid : RoundTrip.Statement (.launchAbort lid) := RoundTrip.none_of _ rfl

theorem RoundTrip.trapRecordService isle : RoundTrip.Statement (.trapRecordService isle) := RoundTrip.none_of _ rfl

theorem RoundTrip.cctlResume co : RoundTrip.Statement (.cctlResume co) := RoundTrip.none_of _ rfl

theorem RoundTrip.lctlAbort lid : RoundTrip.Statement (.lctlAbort lid) := RoundTrip.none_of _ rfl

theorem RoundTrip.machineFault place : RoundTrip.Statement (.machineFault place) := RoundTrip.none_of _ rfl

theorem RoundTrip.temperatureSample isle ins temp : RoundTrip.Statement (.temperatureSample isle ins temp) := RoundTrip.none_of _ rfl

theorem RoundTrip.thermalGapStep isle ins : RoundTrip.Statement (.thermalGapStep isle ins) := RoundTrip.none_of _ rfl

theorem RoundTrip.dbnotify q n : RoundTrip.Statement (.dbnotify q n) := RoundTrip.none_of _ rfl

theorem RoundTrip.queueMap q : RoundTrip.Statement (.queueMap q) := RoundTrip.none_of _ rfl

theorem RoundTrip.queueUnmap q : RoundTrip.Statement (.queueUnmap q) := RoundTrip.none_of _ rfl

theorem RoundTrip.qcmdMap quay q : RoundTrip.Statement (.qcmdMap quay q) := RoundTrip.none_of _ rfl

theorem RoundTrip.qcmdUnmap quay q : RoundTrip.Statement (.qcmdUnmap quay q) := RoundTrip.none_of _ rfl

theorem RoundTrip.qcmdClearFault quay q : RoundTrip.Statement (.qcmdClearFault quay q) := RoundTrip.none_of _ rfl

theorem RoundTrip.attnService quay : RoundTrip.Statement (.attnService quay) := RoundTrip.none_of _ rfl

theorem RoundTrip.packetFetch q : RoundTrip.Statement (.packetFetch q) := RoundTrip.none_of _ rfl

theorem RoundTrip.launch q : RoundTrip.Statement (.launch q) := RoundTrip.none_of _ rfl

theorem RoundTrip.callPacket q : RoundTrip.Statement (.callPacket q) := RoundTrip.none_of _ rfl

theorem RoundTrip.returnPacket q : RoundTrip.Statement (.returnPacket q) := RoundTrip.none_of _ rfl

theorem RoundTrip.join q : RoundTrip.Statement (.join q) := RoundTrip.none_of _ rfl

theorem RoundTrip.copy q : RoundTrip.Statement (.copy q) := RoundTrip.none_of _ rfl

theorem RoundTrip.signal q : RoundTrip.Statement (.signal q) := RoundTrip.none_of _ rfl

theorem RoundTrip.waitvalue q : RoundTrip.Statement (.waitvalue q) := RoundTrip.none_of _ rfl

theorem RoundTrip.waitvaluePoll q : RoundTrip.Statement (.waitvaluePoll q) := RoundTrip.none_of _ rfl

theorem RoundTrip.waitvalueTimeout q : RoundTrip.Statement (.waitvalueTimeout q) := RoundTrip.none_of _ rfl

theorem RoundTrip.preempt q : RoundTrip.Statement (.preempt q) := RoundTrip.none_of _ rfl

theorem RoundTrip.refine q : RoundTrip.Statement (.refine q) := RoundTrip.none_of _ rfl

theorem RoundTrip.refineRunEnd q : RoundTrip.Statement (.refineRunEnd q) := RoundTrip.none_of _ rfl

theorem RoundTrip.harbourRestart : RoundTrip.Statement .harbourRestart := RoundTrip.none_of _ rfl

theorem RoundTrip.flitReceive port bytes crc : RoundTrip.Statement (.flitReceive port bytes crc) := RoundTrip.none_of _ rfl

theorem RoundTrip.flitReplay port : RoundTrip.Statement (.flitReplay port) := RoundTrip.none_of _ rfl

theorem RoundTrip.portDown port cause : RoundTrip.Statement (.portDown port cause) := RoundTrip.none_of _ rfl

theorem RoundTrip.portUp port : RoundTrip.Statement (.portUp port) := RoundTrip.none_of _ rfl

theorem RoundTrip.rtgenFlip table gen : RoundTrip.Statement (.rtgenFlip table gen) := RoundTrip.none_of _ rfl

theorem RoundTrip.ringdescWrite site ring v : RoundTrip.Statement (.ringdescWrite site ring v) := RoundTrip.none_of _ rfl

theorem RoundTrip.registerWrite addr bytes : RoundTrip.Statement (.registerWrite addr bytes) := RoundTrip.none_of _ rfl

theorem RoundTrip.tick : RoundTrip.Statement .tick := RoundTrip.none_of _ rfl

theorem RoundTrip.powerGood : RoundTrip.Statement .powerGood := RoundTrip.none_of _ rfl

theorem RoundTrip.bootStageComplete : RoundTrip.Statement .bootStageComplete := RoundTrip.none_of _ rfl

theorem RoundTrip.recoveryImage base : RoundTrip.Statement (.recoveryImage base) := RoundTrip.none_of _ rfl

theorem RoundTrip.unitTrainingComplete u : RoundTrip.Statement (.unitTrainingComplete u) := RoundTrip.none_of _ rfl

theorem RoundTrip.attestationRequest nonce : RoundTrip.Statement (.attestationRequest nonce) := RoundTrip.none_of _ rfl

theorem RoundTrip.islePowerGate isle : RoundTrip.Statement (.islePowerGate isle) := RoundTrip.none_of _ rfl

theorem RoundTrip.isleWake isle : RoundTrip.Statement (.isleWake isle) := RoundTrip.none_of _ rfl

theorem RoundTrip.calibrationComplete isle ins periods trims : RoundTrip.Statement (.calibrationComplete isle ins periods trims) := RoundTrip.none_of _ rfl

theorem RoundTrip.perBankRefresh site slice bank rfm : RoundTrip.Statement (.perBankRefresh site slice bank rfm) := RoundTrip.none_of _ rfl

end Sys2Proof.Laws
end

