-- ==== Sys2Proof/Machine/Views.lean ====
section
/-! DEFINITION. Reads of the management path: the words of the register maps (R26, R94, R103, R106-R111, R123, R157, R184, R230,
R262, R336, R364, R380-R382, R401). A read has no side effect, so it is a function of the state and no step. -/

namespace Sys2Proof.Machine

/-- What a register that covers an offset reads: where it begins, its bytes, its value. -/
structure Seen where
  base : Nat
  size : Nat
  val : Nat

/-- One register at an offset. -/
def seenAt (off base size val : Nat) : Option Seen := (inArray off base size 1).map (fun _ => ⟨base, size, val⟩)

/-- An array of registers. -/
def seenIn (off base size count : Nat) (f : Nat → Nat) : Option Seen :=
  (inArray off base size count).map (fun i => ⟨base + size * i, size, f i⟩)

/-- The first register of a list that covers the offset. -/
def firstSeen (l : List (Option Seen)) : Option Seen := l.findSome? id

/-! ### Words -/

/-- The code of an engine's status (R184). -/
def EngSt.code : EngSt → Nat
  | .noTask => 0
  | .issuing => 1
  | .blocked => 2
  | .done => 3

/-- ENGST (R184). -/
def Core.engst (k : Core) : Nat := k.l.st.code + 4 * k.cE.st.code + 16 * k.s.st.code + 64 * k.frozen.toNat

/-- QSTAT (R184). -/
def Core.qstat (k : Core) : Nat :=
  (List.range 4).foldl (fun n i =>
    n + (k.xq.toList.getD i []).length * 2 ^ (5 * i) + (k.yq.toList.getD i []).length * 2 ^ (20 + 5 * i)) 0
    + k.bq.length * 2 ^ 40

/-- CQSTAT (R123). -/
def Core.cqstat (k : Core) : Nat :=
  (List.range 16).foldl (fun n i => n + bindCode (k.bind.toList.getD i none) * 2 ^ (2 * i)) 0
    + (k.queued .load).length * 2 ^ 32 + (k.queued .store).length * 2 ^ 38 + k.lhalt.toNat * 2 ^ 44 + k.shalt.toNat * 2 ^ 45

/-- CHSTAT of a channel (R121-R123); its values stay behind a command that an abort has discarded (R139). -/
def Core.chstat (k : Core) (c : Nat) : Nat :=
  let ch := BitVec.ofNat 4 c
  let (i, r, v) := tabGet (k.inDone ch, k.outRel ch, k.outVis ch) k.gone c
  (k.nextid.toList.getD c 1).toNat * 2 ^ 96 + i.toNat * 2 ^ 64 + r.toNat * 2 ^ 32 + v.toNat

/-- CCTL as it reads (R364). -/
def Core.cctl (k : Core) : Nat := k.stopped.toNat + 4 * k.held.toNat + 256 * k.nrec.toNat

/-- INSVC of an insula (R26). -/
def Arr.insvc (a : Arr) : Nat := a.cores.toNat + 16 * a.segs.toNat + 256 * a.calNow.toNat + 65536 * a.margin.toNat

/-- ISLESVC of an isle (R26). -/
def Hw.islesvc (h : Hw) (isle : Nat) : Nat :=
  let x := h.isle isle
  let n := (List.range 1200).foldl (fun n c => n + (h.coreInService ⟨isle, c⟩).toNat) 0
  x.inService.toNat + 2 * x.transit.toNat + 4 * x.ports.toNat + 64 * n

/-- ARRSTAT (R230). -/
def Arr.arrstat (a : Arr) : Nat := a.replays.toNat + 2 ^ 32 * a.latecyc.toNat

/-- ARRB (R230). -/
def Arr.arrb (a : Arr) : Nat :=
  (match a.loaded with
    | none => 0
    | some b => b.off % 2 ^ 19 + b.pos * 2 ^ 19 + b.k * 2 ^ 21 + b.prof * 2 ^ 28 + b.bfmt * 2 ^ 36 + b.scale * 2 ^ 40 + 2 ^ 42)
    + a.leased.toNat * 2 ^ 43 + a.holder.toNat * 2 ^ 44

/-- THERM of an insula (R401). -/
def Arr.therm (a : Arr) : Nat := a.temp.toNat + a.tlcal.toNat * 2 ^ 16 + a.gap.toNat * 2 ^ 32

/-- A trap record's 64 bytes (R361). -/
def TrapRec.word (r : TrapRec) : Nat := r.body.toNat + r.detail.toNat * 2 ^ 256

/-- The size code of a TLB entry (R381). -/
def sizeCode (n : Nat) : Nat := if n = 65536 then 0 else if n = 2 ^ 21 then 1 else 2

/-- A TLB entry (R381). -/
def TlbEntry.word (t : TlbEntry) : Nat :=
  t.va / 65536 + t.ctx.toNat * 2 ^ 32 + sizeCode t.size * 2 ^ 36 + t.w.toNat * 2 ^ 38 + t.cow.toNat * 2 ^ 39 + 2 ^ 40
    + t.pa / 256 * 2 ^ 64

/-- A monitor entry (R381). -/
def Monitor.word (m : Monitor) : Nat :=
  m.line % 2 ^ 30 + m.co.core * 2 ^ 30 + m.co.isle * 2 ^ 41 + 2 ^ 51 + m.lid * 2 ^ 64

/-- A row-tracking entry (R381). -/
def RowCnt.word (r : RowCnt) : Nat := r.count + r.bank.toNat * 16 + r.row.toNat * 1024

/-- A REMAP entry (R108). -/
def Remap.word (r : Remap) (i : Nat) : Nat := r.row.toNat + r.bank.toNat * 2 ^ 18 + i * 2 ^ 24 + r.state.toNat * 2 ^ 30

/-- A line's 128 metadata bits (R103). -/
def Hw.metaWord (h : Hw) (pa : Nat) : Nat :=
  let m := h.lineOf pa
  let low := m.taskh.toNat % 2 ^ 11 + m.wave.toNat * 2 ^ 11 + m.frame.toNat * 2 ^ 19 + m.sv.toNat * 2 ^ 31 + m.bad.toNat * 2 ^ 32
  low + (Config.checkOf (h.bytes (pa / 64 * 64) 64) (BitVec.ofNat 64 low)).toNat * 2 ^ 64

/-- DBSLOT (R336). -/
def DbSlot.word (d : DbSlot) : Nat := d.q * 2 ^ 44 + d.fcode.toNat * 2 ^ 40 + d.halt.toNat * 2 ^ 39 + 2 ^ 36

/-! ### The classes -/

/-- Class 0x01 (R381). -/
def Hw.seenCore (h : Hw) (co : CoreId) (off : Nat) : Option Seen :=
  let k := h.core co
  let dirty := fun (key n : Nat) => packBits (fun i => k.allDirty || setHas h.dirty (key / 256 + i)) n 0
  firstSeen [seenAt off 0 8 k.engst, seenAt off 8 8 k.qstat, seenAt off 0x10 8 k.cqstat, seenAt off 0x18 8 k.cctl,
    seenAt off 0x20 8 k.late.toNat, seenAt off 0x50 8 k.lease.toNat, seenAt off 0x58 8 k.cu.dqcnt.toNat,
    seenAt off 0x60 8 k.ph.toNat, seenIn off 0x100 16 16 k.chstat, seenIn off 0x1000 4 2048 (tbdirWord k),
    seenAt off 0x3000 256 (dirty (localKey co 0) 2048), seenAt off 0x3100 16 (dirty (slotKey co 0 0 0) 128),
    seenAt off 0x3110 1 (k.allDirty || k.dirtyDir).toNat]

/-- Class 0x04 (R381, R401). -/
def Hw.seenArr (h : Hw) (isle ins off : Nat) : Option Seen :=
  let a := h.arr isle ins
  firstSeen [seenAt off 0x100 8 a.arrstat, seenAt off 0x108 8 a.arrb, seenAt off 0x110 8 a.shape.toNat,
    seenAt off 0x118 8 a.therm, seenIn off 0x10000 1 (2 ^ 17) (fun i => (memRead h.mem (accKey isle ins i)).toNat)]

/-- The phase count of a barrier's instance in the launch that holds an isle (R328). -/
def Hw.seenPhase (h : Hw) (lid : Option Nat) (lv inst wave : Nat) : Nat :=
  match lid.bind h.launch? with
  | none => 0
  | some l => (tabGet 0 l.ph (phKey lv inst wave)).toNat

/-- Class 0x05 (R381). -/
def Hw.seenIsle (h : Hw) (isle off : Nat) : Option Seen :=
  let x := h.isle isle
  let lid := h.holderOf isle
  firstSeen [seenAt off 0 4 (h.islesvc isle), seenIn off 0x100 4 300 (fun i => (h.arr isle i).insvc),
    seenAt off 0x1088 8 (x.walks.length + 256 * (!x.invs.isEmpty).toNat), seenAt off 0x1108 4 x.tqTail.toNat,
    seenIn off 0x1200 8 16 (fun i => (tabGet 0 x.mclog.ents i).toNat),
    seenIn off 0x40000 64 1024 (fun i => match tabFind x.trapq i with
      | some (r, _) => r.word
      | none => 0),
    seenIn off 0x80000 2 (128 * 300) (fun i => h.seenPhase lid 2 (arrKey isle (i / 128)) (i % 128)),
    seenIn off 0x94000 2 128 (fun w => h.seenPhase lid 3 isle w),
    seenIn off 0x100000 16 8192 (fun i => match x.tlb[i]? with
      | some t => t.word
      | none => 0)]

/-- The violation counter and the last-violation register of a target (R98), from an offset on. -/
def AccTable.seen (t : AccTable) (off : Nat) : List (Option Seen) :=
  [seenAt off 0x1400 4 t.viol.toNat, seenAt off 0x1410 16 (match t.last with
    | some (src, key, addr, op) => (Config.violWord src key addr op).toNat
    | none => 0)]

/-- Class 0x0F (log entry 75): the violation registers that no map lists, of an isle's local-memory port, a quay's doorbell
block, and its Strait ports from INDEX 1 on. -/
def Hw.seenExtra (h : Hw) (site idx off : Nat) : Option Seen :=
  if isleOk site ∧ idx = 0 then firstSeen ((h.isle site).acc.seen off)
  else if 676 ≤ site ∧ site < 680 ∧ idx ≤ 32 then
    firstSeen ((if idx = 0 then (h.quay (site - 676)).acc else (h.port (32 * (site - 676) + (idx - 1))).acc).seen off)
  else none

/-- Class 0x06 (R381). -/
def Hw.seenSlice (h : Hw) (site slice off : Nat) : Option Seen :=
  let x := h.slice site slice
  firstSeen [seenAt off 0x18 8 x.sparex.toNat, seenIn off 0x100 4 64 (fun i => (tabGet ({} : Remap) x.remap i).word i),
    seenIn off 0x200 8 256 (fun i => (tabGet ({} : RowCnt) x.rows i).word), 
    seenIn off 0x2000 64 64 (fun i => match x.contq[i]? with
      | some c => leNat c.bytes
      | none => 0)] <|> firstSeen (x.acc.seen off)

/-- Class 0x07 (R381). -/
def Hw.seenSquare (h : Hw) (site off : Nat) : Option Seen :=
  firstSeen [seenIn off 0x50000 16 4096 (fun i => match (h.monitorsOf site)[i]? with
      | some m => m.word
      | none => 0),
    seenIn off 0x1000000 1 (2 ^ 23) (fun i => (memRead h.mem (streamKey site i)).toNat)]

/-- Class 0x0A (R336, R338, R339). -/
def Hw.seenBell (h : Hw) (quay off : Nat) : Option Seen :=
  let y := h.quay quay
  firstSeen [seenIn off 0 8 64 (fun i => match tabFind y.slots i with
      | some d => d.word
      | none => 0),
    seenIn off 0x200 8 64 (fun i => match tabFind y.slots i with
      | some d => d.widx.toNat
      | none => 0),
    seenIn off 0x400 8 4 (fun w => packBits (fun b => y.attn.contains (256 * quay + 64 * w + b)) 64 0),
    seenIn off 0x1000 8 256 (fun q => (h.queue (256 * quay + q)).ridx.toNat)]

/-- Class 0x0B (R279, R286). -/
def Hw.seenPort (h : Hw) (p off : Nat) : Option Seen :=
  firstSeen [seenIn off 0x12000 4 1024 (fun i => ((h.port p).moved.getD i 0).toNat), seenAt off 0x13000 4 (h.port p).badflit.toNat]

/-- Class 0x0C (R22, R369, R401). -/
def Hw.seenQuay (h : Hw) (quay off : Nat) : Option Seen :=
  firstSeen [seenIn off 0x21000 8 16 (fun i => (tabGet 0 (h.quay quay).mclog.ents i).toNat), seenAt off 0x30000 8 h.tick.toNat,
    seenAt off 0x40000 8 h.bootst.toNat]

/-- Class 0x0D (R323, R324, R328, R373). -/
def Hw.seenLaunch (h : Hw) (lid off : Nat) : Option Seen :=
  match h.launch? lid with
  | none => do
    let r ← tabFind h.lidRegs lid
    firstSeen [seenAt off 0 8 r.slips.toNat, seenAt off 8 8 r.slipIdx.toNat, seenAt off 0x10 8 r.lastimg]
  | some l =>
    firstSeen [seenAt off 0 8 l.slips.toNat, seenAt off 8 8 l.slipIdx.toNat, seenAt off 0x10 8 (l.lastimg.getD 0),
      seenIn off 0x100 2 1024 (fun o => l.isles.getD o 0),
      seenIn off 0x1000 2 (128 * 64) (fun i => h.seenPhase (some lid) 4 (i / 128) (i % 128)),
      seenIn off 0x5000 2 128 (fun w => h.seenPhase (some lid) 5 0 w)]

/-- The register that a read at an address meets (R380, R381): the read-only ones, else those that a write may change.
Engine registers read as zero while the core is busy. -/
def Hw.seen (h : Hw) (site cls idx off : Nat) : Option Seen :=
  let ro := match cls with
    | 1 => if isleOk site ∧ idx < 1200 then h.seenCore ⟨site, idx⟩ off else none
    | 4 => if isleOk site ∧ idx < 300 then h.seenArr site idx off else none
    | 5 => if isleOk site ∧ idx = 0 then h.seenIsle site off else none
    | 6 => if squareOk site ∧ idx < 160 then h.seenSlice site idx off else none
    | 7 => if squareOk site ∧ idx = 0 then h.seenSquare site off else none
    | 9 => if squareOk site ∧ idx < 4 then
        seenIn off 0 16 (2 ^ 28) (fun i =>
          let pa := site * 2 ^ 36 + 64 * (idx * 2 ^ 28 + i)
          if admitsMgmt (h.home pa).acc pa then h.metaWord pa else 0)
      else none
    | 0x0A => if 676 ≤ site ∧ site < 680 then h.seenBell (site - 676) off else none
    | 0x0B => if 676 ≤ site ∧ site < 680 ∧ idx < 32 then h.seenPort (32 * (site - 676) + idx) off else none
    | 0x0C => if 676 ≤ site ∧ site < 680 then h.seenQuay (site - 676) off else none
    | 0x0D => if site = 676 then h.seenLaunch idx off else none
    | 0x0F => h.seenExtra site idx off
    | _ => none
  match ro with
  | some r => some r
  | none =>
    if cls = 2 ∧ !(h.core ⟨site, idx / 4⟩).open_ then none
    else (h.regAt site cls idx off 1).map (fun r => ⟨r.base, r.size, r.old⟩)

/-- A management read (R380): the bytes at an address; what no map lists reads as zero. -/
def Hw.readMgmt (h : Hw) (addr : BitVec 64) (n : Nat) : List Byte :=
  (List.range n).map (fun i =>
    let off := (addr.extractLsb' 0 32).toNat + i
    match h.seen (addr.extractLsb' 54 10).toNat (addr.extractLsb' 48 6).toNat (addr.extractLsb' 32 16).toNat off with
    | none => 0
    | some r => BitVec.ofNat 8 (r.val / 256 ^ (off - r.base)))

/-- A read of engine registers meets a core that is neither idle nor stopped: the response's status is BUSY (R380). -/
def Hw.readBusy (h : Hw) (addr : BitVec 64) : Bool :=
  (addr.extractLsb' 48 6).toNat == 2
    && !(h.core ⟨(addr.extractLsb' 54 10).toNat, (addr.extractLsb' 32 16).toNat / 4⟩).open_

/-- The response to a management read (R380): whether its status is BUSY, and its bytes. -/
def Hw.answerRead (h : Hw) (addr : BitVec 64) (n : Nat) : Bool × List Byte := (h.readBusy addr, h.readMgmt addr n)

end Sys2Proof.Machine
end

