-- ==== Sys2Proof/Safety.lean ====
section
/-! DEFINITION. What counts as a good state and a safe step, and the terms that claims use: which part of the state an
instruction may change, and what it writes there. -/

namespace Sys2Proof.Machine

/-- Memory is in its canonical form (log entry 4). -/
abbrev Hw.Ok (h : Hw) : Prop := Memory.wf h.mem = true

/-- The invariant: memory is in its canonical form. -/
abbrev State.Inv (s : State) : Prop := s.toHw.Ok

/-- A step is safe: the machine goes on. -/
def State.Safe (s : State) : Prop := ∃ t, step s = .next t

/-! ### Frames -/

/-- Nothing but cores differs, and of the cores none but the issuing one. -/
def State.OnlyCore (s t : State) : Prop :=
  t = { s with toHw := { s.toHw with cores := t.cores } }
    ∧ ∀ co, CoreId.key co ≠ CoreId.key s.ix.co → t.toHw.core co = s.toHw.core co

/-- Nothing but the issuing engine of the issuing core differs. -/
def State.OnlyEng (s t : State) : Prop := s.OnlyCore t ∧ t.here = s.here.setEng s.ix.eng t.me

/-- Nothing but scalar registers of the issuing engine differs. -/
def State.OnlyG (s t : State) : Prop := s.OnlyEng t ∧ t.me = { s.me with g := t.me.g }

/-- Nothing but predicates of the issuing engine differs. -/
def State.OnlyP (s t : State) : Prop := s.OnlyEng t ∧ t.me = { s.me with p := t.me.p }

/-- Nothing but capability registers of the issuing engine differs. -/
def State.OnlyC (s t : State) : Prop := s.OnlyEng t ∧ t.me = { s.me with c := t.me.c }

/-- Nothing but the C engine's own files of the issuing core differs. -/
def State.OnlyCu (s t : State) : Prop := s.OnlyCore t ∧ t.here = { s.here with cu := t.here.cu }

/-- Nothing but vector registers of the issuing core differs. -/
def State.OnlyV (s t : State) : Prop := s.OnlyCu t ∧ t.here.cu = { s.here.cu with v := t.here.cu.v }

/-- Nothing but lane masks of the issuing core differs. -/
def State.OnlyM (s t : State) : Prop := s.OnlyCu t ∧ t.here.cu = { s.here.cu with m := t.here.cu.m }

/-! ### What an instruction writes -/

/-- The outcome is a next state in which gD holds `x` (nothing is written for g0, R69) and all else is as before. -/
def WritesG (s : State) (d : BitVec 6) (x : GReg) (o : Out) : Prop :=
  ∃ t, o = .next t ∧ (d = 0 → t = s) ∧ (∀ r, t.g r = if r = d ∧ d ≠ 0 then x else s.g r) ∧ s.OnlyG t
    ∧ ∀ k, memRead t.mem k = memRead s.mem k

/-- The outcome is a next state in which pD holds `x` (nothing is written for p0, R69) and all else is as before. -/
def WritesP (s : State) (d : BitVec 3) (x : PReg) (o : Out) : Prop :=
  ∃ t, o = .next t ∧ (d = 0 → t = s) ∧ (∀ r, t.p r = if r = d ∧ d ≠ 0 then x else s.p r) ∧ s.OnlyP t
    ∧ ∀ k, memRead t.mem k = memRead s.mem k

/-- The outcome is a next state in which cD holds `x` and all else is as before. -/
def WritesC (s : State) (d : BitVec 4) (x : CReg) (o : Out) : Prop :=
  ∃ t, o = .next t ∧ (∀ r, t.c r = if r = d then x else s.c r) ∧ s.OnlyC t ∧ ∀ k, memRead t.mem k = memRead s.mem k

/-- The outcome is a next state in which mask mD holds `x` (nothing is written for m0, R69) and all else is as before. -/
def WritesM (s : State) (d : BitVec 3) (x : Lane) (o : Out) : Prop :=
  ∃ t, o = .next t ∧ (d = 0 → t = s) ∧ (∀ r, t.m r = if r = d ∧ d ≠ 0 then x else s.m r) ∧ s.OnlyM t
    ∧ ∀ k, memRead t.mem k = memRead s.mem k

/-- The outcome is a next state in which every lane of vD holds what `f` and `p` (poison) say, with a sidecar, and all else
is as before. -/
def WritesV (s : State) (d : BitVec 6) (f : Nat → Lane) (p : Nat → Bool) (side : Byte) (o : Out) : Prop :=
  ∃ t, o = .next t ∧ (∀ l, l < 32 → (t.v d).lane l = f l) ∧ (∀ l, l < 32 → (t.v d).psn.getLsbD l = p l)
    ∧ (t.v d).side = side ∧ (∀ r, r ≠ d → t.v r = s.v r) ∧ s.OnlyV t ∧ ∀ k, memRead t.mem k = memRead s.mem k

/-- The merge form of R192: active lanes of vD receive the result and its poison, the others keep theirs. -/
def MergesV (s : State) (d : BitVec 6) (mk : BitVec 3) (f : Nat → Lane) (p : Nat → Bool) (side : Byte) (o : Out) : Prop :=
  WritesV s d (fun l => if (s.m mk).getLsbD l then f l else (s.v d).lane l)
    (fun l => if (s.m mk).getLsbD l then p l else (s.v d).psn.getLsbD l) side o

/-- The outcome is the state `u` with a control transfer to address `a` (R56). -/
def Jumps (u : State) (a : Int) (o : Out) : Prop := o = .next { u with ix := { u.ix with target := some a } }

/-- The instruction blocks (R65, R184): its engine is blocked and nothing else differs. -/
def Blocks (s : State) (o : Out) : Prop :=
  o = .next { s.onMe (fun e => { e with st := .blocked }) with ix := { s.ix with blocked := true } }

/-- The instruction takes a trap with this code (R65, R360): its core stops, the record stands in the isle's trap queue or
waits for it, and no register, memory byte or other unit differs. -/
def Traps (s : State) (code : Byte) (o : Out) : Prop :=
  ∃ r : TrapRec, r.code = code ∧ r.pc = s.ix.pc ∧ o = .next { s.upd (fun h => h.trapAs true s.ix.co r) with ix := { s.ix with trap := some r } }

/-- The outcome is a next state in which the issuing core is `k`; every other core, every memory byte and all else are as
before. -/
def Becomes (s : State) (k : Core) (o : Out) : Prop :=
  ∃ t, o = .next t ∧ s.OnlyCore t ∧ t.here = k ∧ ∀ a, memRead t.mem a = memRead s.mem a

/-- The issuing core is `k`, and control goes to address `a` (R56). -/
def BecomesAndJumps (s : State) (k : Core) (a : Int) (o : Out) : Prop := ∃ u, Becomes s k (.next u) ∧ Jumps u a o

/-- A copy command `c` with property `p` enters the queue of the issuing engine and takes the next ID of channel `ch`, which
is then bound to that queue (R117, R120, R121); nothing else differs, no byte of memory moves. -/
def Commits (s : State) (ch : BitVec 4) (p : Cmd → Prop) (o : Out) : Prop :=
  let q := queueOfEng s.ix.eng
  ∃ c : Cmd, Becomes s { s.here with
      cmds := s.here.cmds ++ [c]
      uid := s.here.uid + 1
      bind := s.here.bind.set ch.toNat (some q) ch.isLt
      nextid := s.here.nextid.set ch.toNat (s.here.nextid.get ch.toFin + 1) ch.isLt } o
    ∧ c.q = q ∧ c.ch = ch.toNat ∧ c.id = s.here.nextid.get ch.toFin ∧ c.uid = s.here.uid
    ∧ (c.started = false ∧ c.released = false ∧ c.performed = false ∧ c.visible = false) ∧ p c

/-- A landing slot with property `p` is taken, the lowest that is free of 32 (R182); nothing else differs. -/
def TakesSlot (s : State) (p : LSlot → Prop) (o : Out) : Prop :=
  ∃ i x, i < 32 ∧ tabFind s.here.slots i = none ∧ (∀ j, j < i → tabFind s.here.slots j ≠ none)
    ∧ Becomes s { s.here with slots := tabPut x i s.here.slots, landOrd := s.here.landOrd + 1 } o
    ∧ x.eng = s.ix.eng ∧ x.arrived = false ∧ p x

/-- Only the issuing core and the array of its insula differ. -/
def State.OnlyArr (s t : State) : Prop :=
  t = { s with toHw := { s.toHw with
    cores := t.cores
    arrs := t.arrs } }
    ∧ (∀ co, CoreId.key co ≠ CoreId.key s.ix.co → t.toHw.core co = s.toHw.core co)
    ∧ ∀ i n, arrKey i n ≠ arrKey s.ix.co.isle (CoreId.ins s.ix.co) → t.toHw.arr i n = s.toHw.arr i n

/-- The outcome is a next state in which only the stored memory and what goes with it differ. -/
def State.OnlyMem (s t : State) : Prop :=
  t = { s with toHw := { s.toHw with
    mem := t.mem
    tags := t.tags
    pmark := t.pmark
    dirty := t.dirty } }

/-- The outcome is a next state in which the `n` bytes from offset `a` of own local memory hold `f`, every other byte of
memory is as before, a granule with a changed byte has no tag and every other tag stays (R82), full bits stay (R146), and
all else is as before. -/
def Stores (s : State) (a n : Nat) (f : Nat → Byte) (o : Out) : Prop :=
  let k := localKey s.ix.co a
  ∃ t, o = .next t ∧ (∀ i, i < n → memRead t.mem (k + i) = f i)
    ∧ (∀ j, j < k ∨ k + n ≤ j → memRead t.mem j = memRead s.mem j)
    ∧ (∀ g, setHas t.tags g = true ↔
        setHas s.tags g = true ∧ ∀ i, i < 16 → memRead t.mem (16 * g + i) = memRead s.mem (16 * g + i))
    ∧ s.OnlyMem t

/-! ### Accesses -/

/-- An access of `n` bytes through capability `x` at `ea` passes the checks of R81: tag, space, permissions (with sy in
space 7, R80) and bounds. -/
def CReg.Allows (x : CReg) (spaces : List Nat) (need : BitVec 12) (ea : Int) (n : Nat) : Prop :=
  x.tag = true ∧ x.space ∈ spaces ∧ x.has (if x.space = 7 then need ||| pSy else need) = true
    ∧ (x.base : Int) ≤ ea ∧ ea + n ≤ x.top

/-- An M-format access of `n` bytes to own local memory passes every check and lies at offset `a`, a multiple of
`align` (R81, R147, R148): gX is not poisoned, and `a` is CURSOR + OFF + (gX << SC). -/
def State.Reaches (s : State) (cb : BitVec 4) (x : BitVec 6) (sc : BitVec 3) (off : BitVec 32) (spaces : List Nat)
    (need : BitVec 12) (n align a : Nat) : Prop :=
  (s.g x).psn = false ∧ ((s.c cb).cursor : Int) + off.toInt + (s.g x).bits.toInt * 2 ^ sc.toNat = a
    ∧ (s.c cb).Allows spaces need a n ∧ a + n ≤ 2 ^ 19 ∧ a % align = 0

/-- The issuing engine's queue has room and the channel is not bound to the other queue (R117, R120). -/
def State.CanEnter (s : State) (ch : BitVec 4) : Prop :=
  let q := queueOfEng s.ix.eng
  (s.here.queued q).length < 32 ∧ (s.here.bind.get ch.toFin = none ∨ s.here.bind.get ch.toFin = some q)

/-- Some landing slot of the issuing core is free (R182). -/
def State.SlotFree (s : State) : Prop := ∃ i, i < 32 ∧ tabFind s.here.slots i = none

/-- No poison mark meets `n` bytes of own local memory at offset `a` (R302). -/
def State.Unmarked (s : State) (a n : Nat) : Prop := s.toHw.markedIn (localKey s.ix.co a) n = none

/-- No slot of an active barrier of the issuing core meets `n` bytes of its local memory at offset `a` (R155). -/
def State.NoSlot (s : State) (a n : Nat) : Prop := s.here.barrierIn a n = none

/-! ### What an event changes -/

/-- Every access of an act has a route (R15, log entry 107): the act happens as a whole. -/
def State.Routed (s : State) (f : Hw → Hw) : Prop := (f s.toHw.atRest).stall = false

/-- The outcome is a next state in which core `co` is `k`; every other core, every memory byte and all else are as before. -/
def CoreIs (s : State) (co : CoreId) (k : Core) (o : Out) : Prop :=
  ∃ t, o = .next t ∧ t = { s with toHw := { s.toHw with cores := t.cores } } ∧ t.toHw.core co = k
    ∧ (∀ d, CoreId.key d ≠ CoreId.key co → t.toHw.core d = s.toHw.core d) ∧ ∀ a, memRead t.mem a = memRead s.mem a

/-- The outcome is a next state in which the array of an insula is `x`, and all else is as before. -/
def ArrIs (s : State) (isle ins : Nat) (x : Arr) (o : Out) : Prop :=
  ∃ t, o = .next t ∧ t = { s with toHw := { s.toHw with arrs := t.arrs } } ∧ t.toHw.arr isle ins = x
    ∧ ∀ i n, arrKey i n ≠ arrKey isle ins → t.toHw.arr i n = s.toHw.arr i n

/-- The outcome is a next state in which an isle is `x`, and all else is as before. -/
def IsleIs (s : State) (isle : Nat) (x : Isle) (o : Out) : Prop :=
  ∃ t, o = .next t ∧ t = { s with toHw := { s.toHw with isles := t.isles } } ∧ t.toHw.isle isle = x
    ∧ ∀ i, i ≠ isle → t.toHw.isle i = s.toHw.isle i

/-- The outcome is a next state in which a slice is `x`, and all else is as before. -/
def SliceIs (s : State) (site slice : Nat) (x : Slice) (o : Out) : Prop :=
  ∃ t, o = .next t ∧ t = { s with toHw := { s.toHw with slices := t.slices } } ∧ t.toHw.slice site slice = x
    ∧ ∀ i n, sliceKey i n ≠ sliceKey site slice → t.toHw.slice i n = s.toHw.slice i n

/-- The outcome is a next state in which the launch of an LID is `x`, and all else is as before. -/
def LaunchIs (s : State) (lid : Nat) (x : Launch) (o : Out) : Prop :=
  ∃ t, o = .next t ∧ t = { s with toHw := { s.toHw with launches := t.launches } } ∧ t.toHw.launch? lid = some x
    ∧ ∀ i, i ≠ lid → t.toHw.launch? i = s.toHw.launch? i

/-- The outcome is a next state in which a command queue is `x`, and all else is as before. -/
def QueueIs (s : State) (q : Nat) (x : HQueue) (o : Out) : Prop :=
  ∃ t, o = .next t ∧ t = { s with toHw := { s.toHw with queues := t.queues } } ∧ t.toHw.queue q = x
    ∧ ∀ i, i ≠ q → t.toHw.queue i = s.toHw.queue i

/-- An engine takes a trap with this code at its fetch, header, decode or group (R67, R360, R362): it has used the core cycle, its
core stops, the record stands in the trap queue of its isle or waits for it, and no memory byte or other unit differs. -/
def EngStops (s : State) (co : CoreId) (e : EngId) (code : Byte) (o : Out) : Prop :=
  ∃ r : TrapRec, r.code = code ∧ o = .next (s.upd (fun h => h.engTrap co e r))

/-- A core takes a trap with this code outside an instruction's issue (R360): it stops, the record stands in the trap queue of
its isle or waits for it, and no memory byte or other unit differs. -/
def StopsWith (s : State) (co : CoreId) (code : Byte) (o : Out) : Prop :=
  ∃ r : TrapRec, r.code = code ∧ o = .next (s.upd (fun h => h.takeTrap co r))

end Sys2Proof.Machine
end

