-- ==== Sys2Proof/Certificates/Slice0/Obligations.lean ====
section
/-! DEFINITION. The statements for the provers, from the numbered rules of the manual. -/

open Sys2Proof Sys2Proof.Machine

/-- Right after reset the machine holds what the manual states. The tick, the stage of bring-up, trap queues, CCTL, ring
descriptors, page counters, doorbell slots and notices are 0 or empty; the channels' next IDs are 1; every access table
holds its reset entry 0; TRIM reads 0x200, no array is leased, HOLDER is 3; the scrub interval is 0x1000; no port is up;
and memory, of which nothing is listed, is in the model's canonical form. (R22, R25, R97, R106, R123, R230, R262, R270,
R336, R364, R394.) -/
def Obligations.ResetState : Prop :=
  let h := State.reset.toHw
  let acc : AccTable := { entries := [(0, 0xffffffff000000000000a93fc0207f01#128)] }
  State.reset.Inv ∧ h.tick = 0 ∧ h.boot.stage = 0 ∧ h.launches = [] ∧ h.holds = [] ∧ h.notices = []
  ∧ (∀ co : CoreId, (h.core co).stopped = false ∧ (h.core co).held = false ∧ (h.core co).nrec = 0 ∧ (h.core co).task = none
      ∧ (h.core co).lhalt = false ∧ (h.core co).shalt = false ∧ (h.core co).nextid = Vector.replicate 16 1 ∧ (h.core co).leaseHeld = false)
  ∧ (∀ i n, (h.arr i n).leased = false ∧ (h.arr i n).holder = 3 ∧ (h.arr i n).cal = 0 ∧ (h.arr i n).loaded = none
      ∧ ∀ j, tabGet 0x200#10 (h.arr i n).trim j = 0x200)
  ∧ (∀ i, (h.isle i).tqHead = 0 ∧ (h.isle i).tqTail = 0 ∧ (h.isle i).mclog = {} ∧ (h.isle i).acc = acc ∧ ∀ c, ((h.isle i).context c).en = false)
  ∧ (∀ i n, (h.slice i n).passes = 0 ∧ (h.slice i n).cecnt = 0 ∧ (h.slice i n).interval = 0x1000 ∧ (h.slice i n).lost = 0 ∧ (h.slice i n).acc = acc)
  ∧ (∀ i n, (h.ring i n).v = false ∧ (h.ring i n).putseq = 0 ∧ (h.ring i n).getseq = 0)
  ∧ (∀ q, (h.quay q).slots = [] ∧ (h.quay q).attn = [] ∧ (h.quay q).acc = acc) ∧ (∀ p, (h.port p).up = false ∧ (h.port p).badflit = 0)

/-- Words written out from the encodings decode to their instructions. A few words of the formats A, M, V, T, B and X, with
and without a stop bit and a guard, decode to the instructions that the encoding tables give them, and a word with a
reserved bit set to none. (R58, R59, R60, R61, R62, R68.) -/
def Obligations.DecodeWords : Prop :=
  decodeWord (1#1 ++ 0x000#9 ++ 0#1 ++ 0#3 ++ 0#82) = some ⟨true, false, 0, .nop⟩
  ∧ decodeWord (0#1 ++ 0x000#9 ++ 0#1 ++ 0#3 ++ 1#82) = none
  ∧ decodeWord (0#1 ++ 0x040#9 ++ 1#1 ++ 2#3 ++ 5#6 ++ 4#6 ++ 6#6 ++ 0#64) = some ⟨false, true, 2, .add 5 4 6⟩
  ∧ decodeWord (1#1 ++ 0x043#9 ++ 0#1 ++ 0#3 ++ 7#6 ++ 0#6 ++ 0x123456789ABCDEF0#64 ++ 0#6) = some ⟨true, false, 0, .li 7 0x123456789ABCDEF0⟩
  ∧ decodeWord (1#1 ++ 0x1DD#9 ++ 0#1 ++ 0#3 ++ 0#82) = none
  ∧ decodeWord 0xE0C0C4140404600000000000#96 = some ⟨true, false, 0, .tmma 3 4 5 1 1 24 0⟩

/-- Decoding the encoding of a well-formed word gives it back, for every instruction. For every instruction, stop bit, guard
sense and guard register, with every operand at every value that the encoding admits: where the word has an encoding, the
decoder reads the same instruction back. (R58, R59, R60, R61, R62, R68.) -/
def Obligations.DecodeGivesBackEncode : Prop :=
  ∀ (i : Instr) (stop gn : Bool) (gp : BitVec 3) (w : BitVec 96), (Insn.mk stop gn gp i).wf = true → encode ⟨stop, gn, gp, i⟩ = some w →
    decodeWord w = some ⟨stop, gn, gp, i⟩

/-- Every step keeps the module's memory in its canonical form. From every state whose memory lists its bytes in strictly
rising order, none equal to what an unlisted place reads as, each step that goes on (an issue, a clock, any event of the
module) gives such a state again: equal memories stay equal data. (R4, R82, R101, R141.) -/
def Obligations.EveryStepKeepsMemoryCanonical : Prop :=
  ∀ (s t : State), s.Inv → step s = .next t → t.Inv

/-- A step runs the decoded instruction, an event, or a core's clock. When the engine that is to move may issue its next
group, stands in its entered section and the word at its PC, with the stop bit, decodes to an instruction that the engine
may fetch, the step is that instruction's slot on the state with the issue's place, and its commit: a false guard does
nothing, a poisoned guard raises 0x31, a true guard runs exec, unless a landing or status to come holds a register of it;
where nothing stopped it the PC passes the word. A word that does not decode raises 0x01. An event of the agenda is exec
of the event; a core's clock counts a core cycle unless it is stopped, frozen or has a landing due, and from then on what
the last cycle pushed can be popped. (R7, R52, R58, R59, R60, R63, R65, R67, R304.) -/
def Obligations.StepRunsTheDecodedInstruction : Prop :=
  ∀ (s : State) (rest : List Act) (co : CoreId) (e : EngId) (x : Sect) (n : Insn),
    let s1 := { s with agenda := rest }
    let k := s.toHw.core co
    let g := k.eng e
    let w := g.word g.pc.toNat
    let s2 := (s1.upd (fun h => h.onEng co e (fun g => { g with dbarHold := [] }))).issueOf co e [(w, n)] none 0
    let s3 := { s2 with ix := { s2.ix with word := w } }
    let kr := (s.toHw.rereads co).core co
    let old := fun (l : List QEntry) => l.map (fun x => { x with fresh := false })
    (∀ i, s.agenda = .event i :: rest → i.wf = true → i.opcode? = none → step s = exec i s1)
    ∧ (s.agenda = .clock co :: rest → kr.stopped = false → kr.frozen = false → kr.landDue = false →
      CoreIs s1 co { kr with
          recs := 0
          cyc := kr.cyc + 1
          xq := kr.xq.map old
          yq := kr.yq.map old
          bq := kr.bq.map (fun x => { x with fresh := false })
          tokLog := [] } (step s)
      ∧ ((∀ y ∈ k.slots, y.2.kind ≠ .ldn ∧ y.2.kind ≠ .vldn) → kr = k))
    ∧ (s.agenda = .issue co e :: rest → s.toHw.ready co e = true → g.pend = none → g.sec = some x → x.entered = true → g.xfer = none →
        g.rep = none → g.pc.toNat + 12 ≤ x.hdr + 8 + 12 * x.len → g.fetchOk g.pc.toNat 12 = true → w.getLsbD 95 = true →
      (decodeWord w = none → EngStops s1 co e 0x01 (step s))
      ∧ (decodeWord w = some n → encodingBad e (k.task.getD {}).loopmode n.op = false →
        let held := usesHeld (k.heldRegs e) e k.cu.ftidx.toNat n.op
        ((s3.p n.gp).bit ≠ n.gn → held = true → step s = .next s1)
        ∧ ((s3.p n.gp).psn = false → (s3.p n.gp).bit ≠ n.gn → held = false → ∀ u, exec n.op s3 = .next u → ∃ t, step s = .next t
          ∧ (u.ix.trap = none → u.ix.blocked = false → u.ix.target = none → u.ix.after = [] → u.robs co e = false →
              s2.touchesHeld u [n] = false →
              s.toHw.cellErrs = [] →
            let a := (u.toHw.core co).eng e
            let b := (t.toHw.core co).eng e
            b.pc = a.pc + 12 ∧ b.g = a.g ∧ b.c = a.c ∧ b.p = a.p ∧ b.lc = a.lc ∧ (t.toHw.core co).cu = (u.toHw.core co).cu
              ∧ t.mem = u.mem ∧ ∀ d, CoreId.key d ≠ CoreId.key co → t.toHw.core d = u.toHw.core d))
        ∧ ((s3.p n.gp).psn = true → ((s3.p n.gp).bit ≠ n.gn → held = false) → (∀ a m, n.op ≠ .tbwait a m) → (∀ m, n.op ≠ .lease m) →
          ∃ t r, r.code = 0x31 ∧ r.pc = g.pc ∧ step s = .next t ∧ t.toHw = s2.toHw.engTrap co e r)
        ∧ ((s3.p n.gp).psn = false → (s3.p n.gp).bit = n.gn → s3.robs co e = false → s.toHw.frozenExtents co e = [] →
            s.toHw.incomingExtents co e = [] →
          ∃ t, step s = .next t ∧ t.mem = s.mem ∧ ((t.toHw.core co).eng e).pc = g.pc + 12 ∧ ((t.toHw.core co).eng e).g = g.g)))

/-- Taking a trap stops the core, queues its record, and the group writes nothing (with the model's choice of log entry 104 on
the cycle of the trap). A trap stops its core's task, counts its record (to 255) and puts it into entry TQTAIL mod 1,024
of the isle's trap queue, or leaves it waiting while 1,024 records stand there or others wait; a record that follows
others of its core in one isle cycle takes its place among them by unit, and no other entry differs; every register, queue
and byte stays. That the core's other engines may still issue in the cycle of an engine's own trap (stopOpen) is the
model's choice (log entry 104): R360 says that no further group of any engine issues, R364 orders the records of one
cycle. A group whose instruction traps leaves the state before the group but for that, for the cycle that its engine has
used and for the isle's MCLOG entry of a machine trap: no register, byte or queue is written, however far its earlier
instructions went. (R65, R67, R304, R360, R361, R364.) -/
def Obligations.TakingATrap : Prop :=
  (∀ (h : Hw) (issued : Bool) (co : CoreId) (r : TrapRec),
    let t := h.trapAs issued co r
    let k := h.core co
    let x := h.isle co.isle
    t.core co = { k with
      stopped := true
      stopOpen := (!k.stopped || k.stopOpen) && issued
      nrec := if k.nrec = 255#8 then k.nrec else k.nrec + 1
      unrep := k.unrep + 1
      recs := k.recs + 1 }
    ∧ (k.recs = 0 → x.tqWait = [] → (x.tqTail - x.tqHead).toNat < 1024 → t.isle co.isle = { x with
        trapq := tabPut (r, co) (x.tqTail.toNat % 1024) x.trapq
        tqTail := x.tqTail + 1 })
    ∧ (k.recs ≠ 0 → x.tqWait = [] → (x.tqTail - x.tqHead).toNat < 1024 →
        let was := x.lastOf co k.recs
        let y := t.isle co.isle
        y = { x with
          trapq := y.trapq
          tqTail := x.tqTail + 1 }
        ∧ (∀ i, (∀ p ∈ was, p.1 ≠ i) → i ≠ x.tqTail.toNat % 1024 → tabFind y.trapq i = tabFind x.trapq i)
        ∧ ∀ p ∈ (was.map Prod.fst ++ [x.tqTail.toNat % 1024]).zip (byUnit r (was.map Prod.snd)), tabFind y.trapq p.1 = some (p.2, co))
    ∧ (x.tqWait ≠ [] ∨ 1024 ≤ (x.tqTail - x.tqHead).toNat → t.isle co.isle = { x with tqWait := x.tqWait ++ [(r, co)] })
    ∧ t = { h with
      cores := t.cores
      isles := t.isles }
    ∧ (∀ d, CoreId.key d ≠ CoreId.key co → t.core d = h.core d) ∧ ∀ i, i ≠ co.isle → t.isle i = h.isle i)
  ∧ (∀ (h : Hw) (co : CoreId) (e : EngId) (r : TrapRec),
    h.engTrap co e r = (h.onCore co (fun k => k.setEng e { k.eng e with pend := none, busy := k.cyc + 1 })).trapAs true co r)
  ∧ ∀ (s u : State) (x : Sect) (ws : List (BitVec 96 × Insn)) (rep : Bool) (r : TrapRec), runSlots 0 ws s = .next u → u.ix.trap = some r →
      (∀ y ∈ ws, (∀ a n, y.2.op ≠ .tbwait a n) ∧ ∀ n, y.2.op ≠ .lease n) →
      ∃ t, s.runGroup x ws rep = .next t ∧ t.toHw = (s.toHw.engTrap s.ix.co s.ix.eng r).noteMachine s.ix.co r

/-- Scalar arithmetic and logic write the results of the manual's table. Each scalar instruction of the table but division,
selection and fields answers a next state in which gD holds the table's result modulo 2^64, poisoned when an operand is
(never for li); nothing is written for g0; every other register, every memory byte and all else stay. (R186.) -/
def Obligations.ScalarResults : Prop :=
  ∀ (s : State) (d a b c : BitVec 6) (imm : Word),
    let x := (s.g a).bits
    let y := (s.g b).bits
    let z := (s.g c).bits
    let p1 := (s.g a).psn
    let p2 := (s.g a).psn || (s.g b).psn
    let p3 := (s.g a).psn || (s.g b).psn || (s.g c).psn
    let n := y.toNat % 64
    WritesG s d ⟨BitVec.ofNat 64 (x.toNat + y.toNat), p2⟩ (exec (.add d a b) s)
    ∧ WritesG s d ⟨BitVec.ofInt 64 (x.toInt - y.toInt), p2⟩ (exec (.sub d a b) s)
    ∧ WritesG s d ⟨BitVec.ofNat 64 (x.toNat + imm.toNat), p1⟩ (exec (.addi d a imm) s)
    ∧ WritesG s d ⟨imm, false⟩ (exec (.li d imm) s)
    ∧ WritesG s d ⟨x, p1⟩ (exec (.mov d a) s)
    ∧ WritesG s d ⟨BitVec.ofNat 64 (x.toNat * y.toNat), p2⟩ (exec (.mul d a b) s)
    ∧ WritesG s d ⟨BitVec.ofInt 64 (x.toInt * y.toInt / 2 ^ 64), p2⟩ (exec (.mulhS d a b) s)
    ∧ WritesG s d ⟨BitVec.ofNat 64 (x.toNat * y.toNat / 2 ^ 64), p2⟩ (exec (.mulhZ d a b) s)
    ∧ WritesG s d ⟨BitVec.ofNat 64 (x.toNat * y.toNat + z.toNat), p3⟩ (exec (.mad d a b c) s)
    ∧ WritesG s d ⟨x &&& y, p2⟩ (exec (.and d a b) s)
    ∧ WritesG s d ⟨x ||| y, p2⟩ (exec (.or d a b) s)
    ∧ WritesG s d ⟨x ^^^ y, p2⟩ (exec (.xor d a b) s)
    ∧ WritesG s d ⟨x &&& ~~~y, p2⟩ (exec (.andn d a b) s)
    ∧ WritesG s d ⟨BitVec.ofNat 64 (x.toNat * 2 ^ n), p2⟩ (exec (.shl d a b) s)
    ∧ WritesG s d ⟨BitVec.ofNat 64 (x.toNat / 2 ^ n), p2⟩ (exec (.shrZ d a b) s)
    ∧ WritesG s d ⟨BitVec.ofInt 64 (x.toInt / 2 ^ n), p2⟩ (exec (.shrS d a b) s)
    ∧ WritesG s d ⟨BitVec.ofNat 64 (x.toNat * 2 ^ n + x.toNat / 2 ^ (64 - n)), p2⟩ (exec (.rotl d a b) s)
    ∧ WritesG s d ⟨BitVec.ofNat 64 (if x = 0 then 64 else 63 - Nat.log2 x.toNat), p1⟩ (exec (.clz d a) s)
    ∧ WritesG s d ⟨BitVec.ofNat 64 (if x = 0 then 64 else padicValNat 2 x.toNat), p1⟩ (exec (.ctz d a) s)
    ∧ WritesG s d ⟨BitVec.ofNat 64 ((List.range 64).countP (fun i => x.getLsbD i)), p1⟩ (exec (.popc d a) s)
    ∧ WritesG s d ⟨if y.toInt < x.toInt then y else x, p2⟩ (exec (.minS d a b) s)
    ∧ WritesG s d ⟨if y.toNat < x.toNat then y else x, p2⟩ (exec (.minZ d a b) s)
    ∧ WritesG s d ⟨if x.toInt < y.toInt then y else x, p2⟩ (exec (.maxS d a b) s)
    ∧ WritesG s d ⟨if x.toNat < y.toNat then y else x, p2⟩ (exec (.maxZ d a b) s)
    ∧ WritesG s d ⟨BitVec.ofInt 64 ((x.toNat : Int).bmod (2 ^ 8)), p1⟩ (exec (.extS8 d a) s)
    ∧ WritesG s d ⟨BitVec.ofInt 64 ((x.toNat : Int).bmod (2 ^ 16)), p1⟩ (exec (.extS16 d a) s)
    ∧ WritesG s d ⟨BitVec.ofInt 64 ((x.toNat : Int).bmod (2 ^ 32)), p1⟩ (exec (.extS32 d a) s)
    ∧ WritesG s d ⟨BitVec.ofNat 64 (x.toNat % 2 ^ 8), p1⟩ (exec (.extZ8 d a) s)
    ∧ WritesG s d ⟨BitVec.ofNat 64 (x.toNat % 2 ^ 16), p1⟩ (exec (.extZ16 d a) s)
    ∧ WritesG s d ⟨BitVec.ofNat 64 (x.toNat % 2 ^ 32), p1⟩ (exec (.extZ32 d a) s)
    ∧ WritesG s d ⟨BitVec.ofInt 64 (max (-2 ^ 63) (min (2 ^ 63 - 1) (x.toInt + y.toInt))), p2⟩ (exec (.addsS64 d a b) s)

/-- Division and remainder, with their two special cases. The quotient is 0 and the remainder a when b = 0; -2^63 by -1 gives
a and 0; otherwise they are the truncated quotient and remainder, signed or unsigned; poisoned when an operand is. (R187.) -/
def Obligations.ScalarDivision : Prop :=
  ∀ (s : State) (d a b : BitVec 6),
    let x := (s.g a).bits
    let y := (s.g b).bits
    let p := (s.g a).psn || (s.g b).psn
    let special := x.toInt = -2 ^ 63 ∧ y.toInt = -1
    WritesG s d ⟨if y = 0 then 0 else if special then x else BitVec.ofInt 64 (x.toInt.tdiv y.toInt), p⟩ (exec (.divS d a b) s)
    ∧ WritesG s d ⟨if y = 0 then x else if special then 0 else BitVec.ofInt 64 (x.toInt - x.toInt.tdiv y.toInt * y.toInt), p⟩
        (exec (.remS d a b) s)
    ∧ WritesG s d ⟨if y = 0 then 0 else BitVec.ofNat 64 (x.toNat / y.toNat), p⟩ (exec (.divZ d a b) s)
    ∧ WritesG s d ⟨if y = 0 then x else BitVec.ofNat 64 (x.toNat - x.toNat / y.toNat * y.toNat), p⟩ (exec (.remZ d a b) s)

/-- Selection, comparison, predicate logic, bit fields and the random words. sel takes a when pC is 1, else b; cmp and cmpi
write the condition of R62; pmix its truth table; bfx and bfi move a field of LEN bits at POS (for LEN from 1 and POS +
LEN at most 64); rnd is word w of Philox4x32-10, whose words under a zero key and counter are those the manual lists.
(R62, R185, R188, R189, R190.) -/
def Obligations.ScalarSelectAndFields : Prop :=
  (∀ (s : State) (d a b c : BitVec 6) (q r u : BitVec 3) (cnd t : BitVec 4) (imm : BitVec 60) (w : BitVec 2) (pos : BitVec 6)
      (len : BitVec 7),
    let x := (s.g a).bits
    let y := (s.g b).bits
    let z := imm.toInt
    let f := x.toNat / 2 ^ pos.toNat % 2 ^ len.toNat
    let old := (s.g d).bits.toNat
    let p1 := (s.g a).psn
    let p2 := (s.g a).psn || (s.g b).psn
    let holds := fun (i : Int) (j : Int) (m n : Nat) =>
      (cnd = 0 ∧ m = n) ∨ (cnd = 1 ∧ m ≠ n) ∨ (cnd = 2 ∧ i < j) ∨ (cnd = 3 ∧ j ≤ i) ∨ (cnd = 4 ∧ m < n) ∨ (cnd = 5 ∧ n ≤ m)
    WritesG s d (if (s.p u).bit then ⟨x, (s.g a).psn || (s.p u).psn⟩ else ⟨y, (s.g b).psn || (s.p u).psn⟩) (exec (.sel d a b u) s)
    ∧ (cnd.toNat < 6 → ∃ v, (v = true ↔ holds x.toInt y.toInt x.toNat y.toNat) ∧ WritesP s q ⟨v, p2⟩ (exec (.cmp cnd q a b) s))
    ∧ (cnd.toNat < 6 → ∃ v, (v = true ↔ holds x.toInt z x.toNat (z % 2 ^ 64).toNat) ∧ WritesP s q ⟨v, p1⟩ (exec (.cmpi cnd q a imm) s))
    ∧ WritesP s q ⟨t.getLsbD ((if (s.p r).bit then 2 else 0) + (if (s.p u).bit then 1 else 0)), (s.p r).psn || (s.p u).psn⟩
        (exec (.pmix q r u t) s)
    ∧ (1 ≤ len.toNat → pos.toNat + len.toNat ≤ 64 →
        WritesG s d ⟨BitVec.ofNat 64 f, p1⟩ (exec (.bfx d a pos len 0) s)
        ∧ WritesG s d ⟨BitVec.ofInt 64 ((f : Int).bmod (2 ^ len.toNat)), p1⟩ (exec (.bfx d a pos len 1) s)
        ∧ WritesG s d ⟨BitVec.ofNat 64 (old % 2 ^ pos.toNat + x.toNat % 2 ^ len.toNat * 2 ^ pos.toNat
            + old / 2 ^ (pos.toNat + len.toNat) * 2 ^ (pos.toNat + len.toNat)), (s.g d).psn || (s.g a).psn⟩
            (exec (.bfi d a pos len) s))
    ∧ WritesG s d ⟨(philox x y (s.g c).bits w.toNat).setWidth 64, p2 || (s.g c).psn⟩ (exec (.rnd d a b c w) s))
  ∧ (List.range 4).map (philox 0 0 0) = [0x6627E8D5#32, 0xE169C58D#32, 0xBC57AC4C#32, 0x9B00DBD8#32]

/-- FP32 and BF16 lane arithmetic rounds the exact result once, lane by lane. In each active lane VD receives the exact result
of the operation rounded once (the sum, product or fused form of the exact values, the quotient, the square root, the
integral value, the reduction), poisoned when a source lane is; inactive lanes, every other register and all of memory
stay, and the sidecar is that of VA. (R192, R193, R195, R197.) -/
def Obligations.VectorFloatResults : Prop :=
  ∀ (s : State) (d a b c : BitVec 6) (mk : BitVec 3),
    let x := fun l => f32Val ((s.v a).lane l)
    let y := fun l => f32Val ((s.v b).lane l)
    let z := fun l => f32Val ((s.v c).lane l)
    let u := fun l k => bf16Val (((s.v a).lane l).extractLsb' (16 * k) 16)
    let v := fun l k => bf16Val (((s.v b).lane l).extractLsb' (16 * k) 16)
    let w := fun l k => bf16Val (((s.v c).lane l).extractLsb' (16 * k) 16)
    let p1 := fun l => (s.v a).psn.getLsbD l
    let p2 := fun l => (s.v a).psn.getLsbD l || (s.v b).psn.getLsbD l
    let p3 := fun l => (s.v a).psn.getLsbD l || (s.v b).psn.getLsbD l || (s.v c).psn.getLsbD l
    let side := (s.v a).side
    let pair := fun (f : Nat → FVal) => (bf16Of (f 1) ++ bf16Of (f 0) : BitVec 32)
    MergesV s d mk (fun l => f32Of ((x l).add (y l))) p2 side (exec (.vaddF32 d a b mk) s)
    ∧ MergesV s d mk (fun l => f32Of ((x l).add (y l).neg)) p2 side (exec (.vsubF32 d a b mk) s)
    ∧ MergesV s d mk (fun l => f32Of ((x l).mul (y l))) p2 side (exec (.vmulF32 d a b mk) s)
    ∧ MergesV s d mk (fun l => f32Of (((x l).mul (y l)).add (z l))) p3 side (exec (.vfmaF32 d a b c mk) s)
    ∧ MergesV s d mk (fun l => f32Of (((x l).mul (y l)).add (z l).neg)) p3 side (exec (.vfmsF32 d a b c mk) s)
    ∧ MergesV s d mk (fun l => f32Of (((x l).mul (y l)).neg.add (z l))) p3 side (exec (.vfnmaF32 d a b c mk) s)
    ∧ MergesV s d mk (fun l => f32Pick true ((s.v a).lane l) ((s.v b).lane l)) p2 side (exec (.vminF32 d a b mk) s)
    ∧ MergesV s d mk (fun l => f32Pick false ((s.v a).lane l) ((s.v b).lane l)) p2 side (exec (.vmaxF32 d a b mk) s)
    ∧ MergesV s d mk (fun l => if x l = .nan then 0x7FC00000#32 else BitVec.ofNat 32 (((s.v a).lane l).toNat % 2 ^ 31)) p1 side
        (exec (.vabsF32 d a mk) s)
    ∧ MergesV s d mk (fun l => if x l = .nan then 0x7FC00000#32 else BitVec.ofNat 32 (((s.v a).lane l).toNat + 2 ^ 31)) p1 side
        (exec (.vnegF32 d a mk) s)
    ∧ MergesV s d mk (fun l => f32Div (x l) (y l)) p2 side (exec (.vdivF32 d a b mk) s)
    ∧ MergesV s d mk (fun l => f32Sqrt (x l)) p1 side (exec (.vsqrtF32 d a mk) s)
    ∧ MergesV s d mk (fun l => f32Rrpi (x l)) p1 side (exec (.vrrpi d a mk) s)
    ∧ MergesV s d mk (fun l => f32Integral false (x l)) p1 side (exec (.vfloorF32 d a mk) s)
    ∧ MergesV s d mk (fun l => f32Integral true (x l)) p1 side (exec (.vrintF32 d a mk) s)
    ∧ MergesV s d mk (fun l => pair (fun k => (u l k).add (v l k))) p2 side (exec (.vaddBf16 d a b mk) s)
    ∧ MergesV s d mk (fun l => pair (fun k => (u l k).mul (v l k))) p2 side (exec (.vmulBf16 d a b mk) s)
    ∧ MergesV s d mk (fun l => pair (fun k => ((u l k).mul (v l k)).add (w l k))) p3 side (exec (.vfmaBf16 d a b c mk) s)

/-- Approximated functions and classification complete in every lane, and give the exact results the manual lists. Each
function writes into the active lanes a value of the lane's bits alone. A NaN gives 0x7FC00000; zeros, infinities and
negative values give what the manual's table says, and so do the powers of two that it lists for the reciprocal, the
reciprocal root, exp2 and log2, every input of exp2 from 128 on, and every multiple of one half for sinpi and cospi.
vclass writes 1 << class, the class read off the sign, exponent and fraction of the bits. (R193, R194, R196.) -/
def Obligations.VectorFunctionResults : Prop :=
  (∀ (s : State) (d a : BitVec 6) (mk : BitVec 3),
    let p1 := fun l => (s.v a).psn.getLsbD l
    let side := (s.v a).side
    let at1 := fun (f : FVal → Lane) => fun l => f (f32Val ((s.v a).lane l))
    MergesV s d mk (at1 f32Rcp) p1 side (exec (.vrcpF32 d a mk) s)
    ∧ MergesV s d mk (at1 f32Rsqrt) p1 side (exec (.vrsqrtF32 d a mk) s)
    ∧ MergesV s d mk (at1 f32Exp2) p1 side (exec (.vexp2F32 d a mk) s)
    ∧ MergesV s d mk (at1 f32Log2) p1 side (exec (.vlog2F32 d a mk) s)
    ∧ MergesV s d mk (at1 f32SinPi) p1 side (exec (.vsinpiF32 d a mk) s)
    ∧ MergesV s d mk (at1 f32CosPi) p1 side (exec (.vcospiF32 d a mk) s)
    ∧ MergesV s d mk (at1 f32Tanh) p1 side (exec (.vtanhF32 d a mk) s)
    ∧ MergesV s d mk (fun l => BitVec.ofNat 32 (2 ^ f32Class ((s.v a).lane l))) p1 side (exec (.vclassF32 d a mk) s))
  ∧ (∀ f ∈ [f32Rcp, f32Rsqrt, f32Exp2, f32Log2, f32SinPi, f32CosPi, f32Tanh, f32Sqrt], f .nan = 0x7FC00000#32)
  ∧ (∀ neg : Bool, let zero := f32Val (if neg then 0x80000000#32 else 0#32)
      f32Rcp zero = (if neg then 0xFF800000#32 else 0x7F800000#32) ∧ f32Rcp (.inf neg) = (if neg then 0x80000000#32 else 0#32)
      ∧ f32Rsqrt zero = (if neg then 0xFF800000#32 else 0x7F800000#32)
      ∧ f32Rsqrt (.inf neg) = (if neg then 0x7FC00000#32 else 0#32)
      ∧ f32Exp2 zero = 0x3F800000#32 ∧ f32Exp2 (.inf neg) = (if neg then 0#32 else 0x7F800000#32)
      ∧ f32Log2 zero = 0xFF800000#32 ∧ f32Log2 (.inf neg) = (if neg then 0x7FC00000#32 else 0x7F800000#32)
      ∧ f32SinPi (.inf neg) = 0x7FC00000#32 ∧ f32CosPi (.inf neg) = 0x7FC00000#32
      ∧ f32Tanh zero = (if neg then 0x80000000#32 else 0#32) ∧ f32Tanh (.inf neg) = (if neg then 0xBF800000#32 else 0x3F800000#32)
      ∧ f32Sqrt zero = (if neg then 0x80000000#32 else 0#32))
  ∧ (∀ (m : Nat) (e : Int), m ≠ 0 → f32Rsqrt (.fin true m e) = 0x7FC00000#32 ∧ f32Log2 (.fin true m e) = 0x7FC00000#32
      ∧ f32Sqrt (.fin true m e) = 0x7FC00000#32)
  ∧ (let two := fun (n : Int) => if -126 ≤ n then BitVec.ofNat 32 ((n + 127).toNat * 2 ^ 23) else BitVec.ofNat 32 (2 ^ (n + 149).toNat)
      let int := fun (n : Int) => f32Of (FVal.ofInt n)
      let minus := fun (x : Lane) => x ^^^ 0x80000000#32
      (∀ n : Int, -127 ≤ n → n ≤ 127 → f32Rcp (f32Val (two n)) = two (-n) ∧ f32Rcp (f32Val (minus (two n))) = minus (two (-n)))
      ∧ (∀ n : Int, -74 ≤ n → n ≤ 63 → f32Rsqrt (f32Val (two (2 * n))) = two (-n))
      ∧ (∀ n : Int, -149 ≤ n → n ≤ 127 → f32Exp2 (f32Val (int n)) = two n ∧ f32Log2 (f32Val (two n)) = int n)
      ∧ f32Log2 (f32Val 0x3F800000#32) = 0#32)
  ∧ (∀ x : Lane, 0x43000000 ≤ x.toNat → x.toNat ≤ 0x7F800000 → f32Exp2 (f32Val x) = 0x7F800000#32)
  ∧ (∀ (neg : Bool) (m k : Nat) (e : Int), m * pow2 (e + 1) = k * pow2 (-(e + 1)) →
      let n := if neg then (k + 1) / 2 else k / 2
      (k % 2 = 0 → f32SinPi (.fin neg m e) = (if neg then 0x80000000#32 else 0#32)
        ∧ f32CosPi (.fin neg m e) = (if n % 2 = 0 then 0x3F800000#32 else 0xBF800000#32))
      ∧ (k % 2 = 1 → f32SinPi (.fin neg m e) = (if n % 2 = 0 then 0x3F800000#32 else 0xBF800000#32)
        ∧ f32CosPi (.fin neg m e) = 0#32))
  ∧ (∀ x : Lane, f32Class x =
      let neg := x.getLsbD 31
      let fraction := x.extractLsb' 0 23
      if x.extractLsb' 23 8 = 255 then (if fraction ≠ 0 then 8 else if neg then 0 else 7)
      else if x.extractLsb' 23 8 = 0 then
        (if fraction = 0 then (if neg then 3 else 4) else if neg then 2 else 5)
      else if neg then 1 else 6)

/-- Integer lane arithmetic. Each integer form writes the table's lane result into the active lanes, poisoned when a source
lane is; vsel writes every lane; vmask writes the truth table of two masks; all else stays. (R192, R198.) -/
def Obligations.VectorIntegerResults : Prop :=
  ∀ (s : State) (d a b c : BitVec 6) (mk q r u : BitVec 3) (i : BitVec 5) (t : BitVec 4),
    let x := fun l => (s.v a).lane l
    let y := fun l => (s.v b).lane l
    let z := fun l => (s.v c).lane l
    let p1 := fun l => (s.v a).psn.getLsbD l
    let p2 := fun l => (s.v a).psn.getLsbD l || (s.v b).psn.getLsbD l
    let p3 := fun l => (s.v a).psn.getLsbD l || (s.v b).psn.getLsbD l || (s.v c).psn.getLsbD l
    let side := (s.v a).side
    let lo := fun (w : Lane) => (w.toNat : Int).bmod (2 ^ 16)
    let hi := fun (w : Lane) => ((w.toNat / 2 ^ 16 : Nat) : Int).bmod (2 ^ 16)
    let sat := fun (w : Int) => BitVec.ofInt 32 (max (-2 ^ 31) (min (2 ^ 31 - 1) w))
    MergesV s d mk (fun l => BitVec.ofNat 32 ((x l).toNat + (y l).toNat)) p2 side (exec (.vaddS32 d a b mk) s)
    ∧ MergesV s d mk (fun l => BitVec.ofInt 32 ((x l).toInt - (y l).toInt)) p2 side (exec (.vsubS32 d a b mk) s)
    ∧ MergesV s d mk (fun l => BitVec.ofNat 32 ((x l).toNat * (y l).toNat)) p2 side (exec (.vmulS32 d a b mk) s)
    ∧ MergesV s d mk (fun l => BitVec.ofInt 32 ((z l).toInt + lo (x l) * lo (y l) + hi (x l) * hi (y l))) p3 side
        (exec (.vmadS16 d a b c mk) s)
    ∧ MergesV s d mk (fun l => sat ((x l).toInt + (y l).toInt)) p2 side (exec (.vaddsS32 d a b mk) s)
    ∧ MergesV s d mk (fun l => sat ((x l).toInt - (y l).toInt)) p2 side (exec (.vsubsS32 d a b mk) s)
    ∧ MergesV s d mk (fun l => if (y l).toInt < (x l).toInt then y l else x l) p2 side (exec (.vminS32 d a b mk) s)
    ∧ MergesV s d mk (fun l => if (x l).toInt < (y l).toInt then y l else x l) p2 side (exec (.vmaxS32 d a b mk) s)
    ∧ MergesV s d mk (fun l => if (y l).toNat < (x l).toNat then y l else x l) p2 side (exec (.vminZ32 d a b mk) s)
    ∧ MergesV s d mk (fun l => if (x l).toNat < (y l).toNat then y l else x l) p2 side (exec (.vmaxZ32 d a b mk) s)
    ∧ MergesV s d mk (fun l => x l &&& y l) p2 side (exec (.vand d a b mk) s)
    ∧ MergesV s d mk (fun l => x l ||| y l) p2 side (exec (.vor d a b mk) s)
    ∧ MergesV s d mk (fun l => x l ^^^ y l) p2 side (exec (.vxor d a b mk) s)
    ∧ MergesV s d mk (fun l => BitVec.ofNat 32 ((x l).toNat * 2 ^ ((y l).toNat % 32))) p2 side (exec (.vshl d a b mk) s)
    ∧ MergesV s d mk (fun l => BitVec.ofNat 32 ((x l).toNat / 2 ^ ((y l).toNat % 32))) p2 side (exec (.vshrZ d a b mk) s)
    ∧ MergesV s d mk (fun l => BitVec.ofInt 32 ((x l).toInt / 2 ^ ((y l).toNat % 32))) p2 side (exec (.vshrS d a b mk) s)
    ∧ MergesV s d mk (fun l => BitVec.ofNat 32 ((x l).toNat * 2 ^ i.toNat)) p1 side (exec (.vshlImm d a i mk) s)
    ∧ MergesV s d mk (fun l => BitVec.ofNat 32 ((x l).toNat / 2 ^ i.toNat)) p1 side (exec (.vshrZImm d a i mk) s)
    ∧ MergesV s d mk (fun l => BitVec.ofInt 32 ((x l).toInt / 2 ^ i.toNat)) p1 side (exec (.vshrSImm d a i mk) s)
    ∧ WritesV s d (fun l => if (s.m mk).getLsbD l then x l else y l)
        (fun l => if (s.m mk).getLsbD l then (s.v a).psn.getLsbD l else (s.v b).psn.getLsbD l) side (exec (.vsel d a b mk) s)
    ∧ ∃ w : Lane, (∀ l, l < 32 →
          w.getLsbD l = t.getLsbD ((if (s.m r).getLsbD l then 2 else 0) + (if (s.m u).getLsbD l then 1 else 0)))
        ∧ WritesM s q w (exec (.vmask q r u t) s)

/-- Vector comparisons write a mask of the active lanes. With no poison in an active lane a comparison writes its mask: the
condition in the active lanes, 0 elsewhere, m0 discarded; with poison in an active lane of VA or VB it takes trap 0x31 and
writes nothing (R191). (R48, R191, R196.) -/
def Obligations.VectorCompareResults : Prop :=
  ∀ (s : State) (a b : BitVec 6) (q mk : BitVec 3) (cc : BitVec 4),
    let m := s.m mk
    let clean := ∀ l, l < 32 → m.getLsbD l → (s.v a).psn.getLsbD l = false ∧ (s.v b).psn.getLsbD l = false
    let sets := fun (f : Nat → Prop) (o : Out) =>
      ∃ w : Lane, (∀ l, l < 32 → (w.getLsbD l = true ↔ m.getLsbD l = true ∧ f l)) ∧ WritesM s q w o
    let holds := fun (lt eq : Prop) =>
      (cc = 0 ∧ eq) ∨ (cc = 1 ∧ ¬eq) ∨ (cc = 2 ∧ lt) ∨ (cc = 3 ∧ (lt ∨ eq)) ∨ (cc = 4 ∧ ¬lt ∧ ¬eq) ∨ (cc = 5 ∧ ¬lt)
    let fholds := fun (x y : FVal) =>
      (cc = 0 ∧ x.ord y = some .eq) ∨ (cc = 1 ∧ x.ord y ≠ some .eq) ∨ (cc = 2 ∧ x.ord y = some .lt)
      ∨ (cc = 3 ∧ (x.ord y = some .lt ∨ x.ord y = some .eq)) ∨ (cc = 4 ∧ x.ord y = some .gt)
      ∨ (cc = 5 ∧ (x.ord y = some .gt ∨ x.ord y = some .eq)) ∨ (cc = 6 ∧ (x = .nan ∨ y = .nan))
      ∨ (cc = 7 ∧ x ≠ .nan ∧ y ≠ .nan)
    (clean → cc.toNat < 8 → sets (fun l => fholds (f32Val ((s.v a).lane l)) (f32Val ((s.v b).lane l))) (exec (.vcmpF32 cc q a b mk) s))
    ∧ (clean → cc.toNat < 6 →
        sets (fun l => holds (((s.v a).lane l).toInt < ((s.v b).lane l).toInt) ((s.v a).lane l = (s.v b).lane l))
            (exec (.vcmpS32 cc q a b mk) s)
        ∧ sets (fun l => holds (((s.v a).lane l).toNat < ((s.v b).lane l).toNat) ((s.v a).lane l = (s.v b).lane l))
            (exec (.vcmpZ32 cc q a b mk) s))
    ∧ (¬clean → Traps s 0x31 (exec (.vcmpF32 cc q a b mk) s) ∧ Traps s 0x31 (exec (.vcmpS32 cc q a b mk) s)
        ∧ Traps s 0x31 (exec (.vcmpZ32 cc q a b mk) s))

/-- Conversions between the number formats. Each conversion writes the manual's value into the lanes, bytes or elements it
names, poisoned as R199 says; the packing forms leave the rest of VD and its sidecar as they were; the block conversions
write the shared exponent to the sidecar. (R40, R42, R44, R45, R46, R47, R199, R200.) -/
def Obligations.VectorConversionResults : Prop :=
  ∀ (s : State) (d a b : BitVec 6) (mk g : BitVec 3) (h : BitVec 1) (q : BitVec 2),
    let A := s.v a
    let B := s.v b
    let x := fun l => f32Val (A.lane l)
    let p1 := fun l => A.psn.getLsbD l
    let el := fun j => bf16Of (f32Val (if j < 32 then A.lane j else B.lane (j - 32)))
    let ps := fun j => if j < 32 then A.psn.getLsbD j else B.psn.getLsbD (j - 32)
    let quarter := fun (f : FVal → Byte) (o : Out) =>
      WritesV s d (fun l => if 8 * q.toNat ≤ l ∧ l < 8 * q.toNat + 8 then lane4 (fun k => f (x (4 * (l - 8 * q.toNat) + k))) else (s.v d).lane l)
        (fun l => if 8 * q.toNat ≤ l ∧ l < 8 * q.toNat + 8 then A.anyPsn (4 * (l - 8 * q.toNat)) 4 else (s.v d).psn.getLsbD l)
        (s.v d).side o
    MergesV s d mk (fun l => f32Of (FVal.ofInt (A.lane l).toInt)) p1 A.side (exec (.vcvtF32S32 d a mk) s)
    ∧ MergesV s d mk (fun l => s32OfF32 false (x l)) p1 A.side (exec (.vcvtS32F32Rne d a mk) s)
    ∧ MergesV s d mk (fun l => s32OfF32 true (x l)) p1 A.side (exec (.vcvtS32F32Rz d a mk) s)
    ∧ WritesV s d (fun l => (el (2 * l + 1) ++ el (2 * l) : BitVec 32)) (fun l => ps (2 * l) || ps (2 * l + 1)) A.side
        (exec (.vcvtBf16F32 d a b) s)
    ∧ MergesV s d mk (fun l => f32Of (bf16Val (A.elem16 (32 * h.toNat + l)))) (fun l => A.psn.getLsbD ((32 * h.toNat + l) / 2)) A.side
        (exec (.vcvtF32Bf16 d a h mk) s)
    ∧ quarter (e4m3Of false) (exec (.vcvtE4m3F32 d a q) s)
    ∧ quarter (e4m3Of true) (exec (.vcvtE4m3F32Nv d a q) s)
    ∧ quarter e5m2Of (exec (.vcvtE5m2F32 d a q) s)
    ∧ MergesV s d mk (fun l => f32Of (e4m3Val (A.byte (32 * q.toNat + l)))) (fun l => A.psn.getLsbD ((32 * q.toNat + l) / 4)) A.side
        (exec (.vcvtF32E4m3 d a q mk) s)
    ∧ MergesV s d mk (fun l => f32Of (e5m2Val (A.byte (32 * q.toNat + l)))) (fun l => A.psn.getLsbD ((32 * q.toNat + l) / 4)) A.side
        (exec (.vcvtF32E5m2 d a q mk) s)
    ∧ MergesV s d mk
        (fun l => if (B.byte g.toNat).toNat = 255 then 0x7FC00000#32
          else f32Of ((e2m1Val (A.nib (32 * g.toNat + l))).scale (((B.byte g.toNat).toNat : Int) - 127)))
        (fun l => A.psn.getLsbD (4 * g.toNat + l / 8) || B.psn.getLsbD (g.toNat / 4)) A.side (exec (.vdqmx4 d a b g mk) s)
    ∧ MergesV s d mk (fun l => BitVec.ofInt 32 (A.nib (32 * g.toNat + l)).toInt) (fun l => A.psn.getLsbD (4 * g.toNat + l / 8)) A.side
        (exec (.vxpS4 d a g mk) s)
    ∧ WritesV s d
        (fun l => if 8 * q.toNat ≤ l ∧ l < 8 * q.toNat + 8
          then lane4 (fun k => ocp4Code (A.nib (32 * g.toNat + 4 * (l - 8 * q.toNat) + k))) else (s.v d).lane l)
        (fun l => if 8 * q.toNat ≤ l ∧ l < 8 * q.toNat + 8 then A.psn.getLsbD (4 * g.toNat + (l - 8 * q.toNat) / 2)
          else (s.v d).psn.getLsbD l) (s.v d).side (exec (.vxpOcp4 d a g q) s)
    ∧ (let e := (bfpEmax A + if ∃ l, l < 32 ∧ 2 ^ 23 ≤ bfpMag (bfpEmax A) (x l) then 1 else 0);
        e < 256 ∧ WritesV s d (fun l => bfpLane e (x l)) (fun _ => A.psn != 0) (BitVec.ofNat 8 e) (exec (.vcvtBfpF32 d a) s))
    ∧ MergesV s d mk (fun l => f32Of ((FVal.ofInt (((A.lane l).setWidth 24).toInt)).scale ((A.side.toNat : Int) - 149))) p1 0
        (exec (.vcvtF32Bfp d a mk) s)

/-- Block quantisation writes 32 elements and one scale byte. vqmx4 and vqmx8, on different registers, write the block's
elements into group or quarter of VD and its scale into one byte of VB: 0xFF with zero elements when a lane is not finite,
0x7F when all are zero, else the exponent of the largest less EMAX; other bytes, sidecars and registers stay. (R46, R199,
R200.) -/
def Obligations.VectorQuantiseResults : Prop :=
  ∀ (s : State) (d b a : BitVec 6) (g : BitVec 3) (q : BitVec 2), d ≠ b →
    let A := s.v a
    let xs := (List.range 32).map (fun l => f32Val (A.lane l))
    let writes := fun (first count k : Nat) (sc : Byte) (f : Nat → Lane) (o : Out) =>
      ∃ t, o = .next t ∧ s.OnlyV t
        ∧ (∀ r, r ≠ d → r ≠ b → t.v r = s.v r)
        ∧ (∀ l, l < 32 → (t.v d).lane l = if first ≤ l ∧ l < first + count then f (l - first) else (s.v d).lane l)
        ∧ (∀ l, l < 32 → (t.v d).psn.getLsbD l = if first ≤ l ∧ l < first + count then A.psn != 0 else (s.v d).psn.getLsbD l)
        ∧ (∀ l, l < 32 → (t.v b).lane l =
            if l = k / 4 then lane4 (fun i => if i = k % 4 then sc else (s.v b).byte (4 * l + i)) else (s.v b).lane l)
        ∧ (∀ l, l < 32 → (t.v b).psn.getLsbD l = ((s.v b).psn.getLsbD l || (A.psn != 0 && l == k / 4)))
        ∧ (t.v d).side = (s.v d).side ∧ (t.v b).side = (s.v b).side
        ∧ ∀ k, memRead t.mem k = memRead s.mem k
    let m4 := mxBlock 2 e2m1Of xs
    let m8 := mxBlock 8 (e4m3Of false) xs
    writes (4 * g.toNat) 4 g.toNat m4.1
        (fun i => lane4 (fun k => (m4.2 (2 * (4 * i + k) + 1) ++ m4.2 (2 * (4 * i + k)) : BitVec 8))) (exec (.vqmx4 d b a g) s)
    ∧ writes (8 * q.toNat) 8 q.toNat m8.1 (fun i => lane4 (fun k => m8.2 (4 * i + k))) (exec (.vqmx8 d b a q) s)
    ∧ ((∃ x ∈ xs, x = .nan ∨ ∃ neg, x = .inf neg) → m4.1 = 0xFF#8 ∧ m8.1 = 0xFF#8 ∧ (∀ j, m4.2 j = 0) ∧ ∀ j, m8.2 j = 0)
    ∧ ((∀ x ∈ xs, ∃ neg e, x = .fin neg 0 e) → m4.1 = 0x7F#8 ∧ m8.1 = 0x7F#8 ∧ (∀ j, m4.2 j = 0) ∧ ∀ j, m8.2 j = 0)

/-- Lane movement. Each movement form writes the lanes, register or mask that its row names, with the poison of what it moves;
all else stays. (R191, R201.) -/
def Obligations.LaneMovementResults : Prop :=
  ∀ (s : State) (d a b : BitVec 6) (mk q r : BitVec 3) (n : BitVec 5) (imm : BitVec 32),
    let A := s.v a
    let swap := fun (w : Lane) => BitVec.ofNat 32 (w.toNat / 2 ^ 16 + w.toNat % 2 ^ 16 * 2 ^ 16)
    let mate := fun (l : Nat) => if l % 2 = 0 then l + 1 else l - 1
    MergesV s d mk (fun l => A.lane (((s.v b).lane l).toNat % 32))
        (fun l => A.psn.getLsbD (((s.v b).lane l).toNat % 32) || (s.v b).psn.getLsbD l) A.side (exec (.vperm d a b mk) s)
    ∧ MergesV s d mk (fun l => A.lane (mate l)) (fun l => A.psn.getLsbD (mate l)) A.side (exec (.vswpPair d a 0 mk) s)
    ∧ MergesV s d mk (fun l => swap (A.lane l)) (fun l => A.psn.getLsbD l) A.side (exec (.vswpPair d a 1 mk) s)
    ∧ MergesV s d mk (fun l => swap (A.lane l) ^^^ 0x8000#32) (fun l => A.psn.getLsbD l) A.side (exec (.vswpPair d a 2 mk) s)
    ∧ MergesV s d mk (fun l => if l % 2 = 0 then A.lane (mate l) ^^^ 0x80000000#32 else A.lane (mate l))
        (fun l => A.psn.getLsbD (mate l)) A.side (exec (.vswpPair d a 3 mk) s)
    ∧ MergesV s d mk (fun l => A.lane ((l + n.toNat) % 32)) (fun l => A.psn.getLsbD ((l + n.toNat) % 32)) A.side
        (exec (.vrot d a n mk) s)
    ∧ MergesV s d mk (fun _ => A.lane n.toNat) (fun _ => A.psn.getLsbD n.toNat) A.side (exec (.vbc d a n mk) s)
    ∧ WritesG s d ⟨BitVec.ofNat 64 (A.lane n.toNat).toNat, A.psn.getLsbD n.toNat⟩ (exec (.vext d a n) s)
    ∧ WritesG s d ⟨BitVec.ofNat 64 (s.m r).toNat, false⟩ (exec (.vextMask d r) s)
    ∧ WritesV s d (fun l => if l = n.toNat then BitVec.ofNat 32 (s.g a).bits.toNat else (s.v d).lane l)
        (fun l => if l = n.toNat then (s.g a).psn else (s.v d).psn.getLsbD l) (s.v d).side (exec (.vins d a n) s)
    ∧ ((s.g a).psn = false → WritesM s q (BitVec.ofNat 32 (s.g a).bits.toNat) (exec (.vinsMask q a) s))
    ∧ ((s.g a).psn = true → Traps s 0x31 (exec (.vinsMask q a) s))
    ∧ WritesV s d (fun _ => imm) (fun _ => false) 0 (exec (.vli d imm) s)
    ∧ MergesV s d mk (fun l => A.lane l) (fun l => A.psn.getLsbD l) A.side (exec (.vmov d a mk) s)

/-- Reductions, scan, packing, compress and expand. A reduction writes the value of the fixed tree into every lane, poisoned
when an active lane is; the integer tree is the sum of the active lanes; the scan, packing, counting, compress and expand
forms write what their rows say. (R202, R203.) -/
def Obligations.ReductionAndScanResults : Prop :=
  (∀ (s : State) (d a b : BitVec 6) (mk r : BitVec 3) (h : BitVec 1),
    let A := s.v a
    let B := s.v b
    let m := s.m mk
    let anyP := (List.range 32).any (fun l => m.getLsbD l && A.psn.getLsbD l)
    let src := fun (ident : Lane) => fun l => if m.getLsbD l then A.lane l else ident
    let all := fun (v : Lane) (o : Out) => WritesV s d (fun _ => v) (fun _ => anyP) A.side o
    let tree := fun (f : Lane → Lane → Lane) (t : Nat → Lane) =>
      let r16 := fun i => f (t i) (t (i + 16))
      let r8 := fun i => f (r16 i) (r16 (i + 8))
      let r4 := fun i => f (r8 i) (r8 (i + 4))
      let r2 := fun i => f (r4 i) (r4 (i + 2))
      f (r2 0) (r2 1)
    let active := (List.range 32).filter (fun l => m.getLsbD l)
    let below := fun l => active.filter (fun j => decide (j ≤ l))
    let clamp := fun (v : Int) => BitVec.ofInt 16 (max (-32768) (min 32767 v))
    let el := fun j => clamp (if j < 32 then A.lane j else B.lane (j - 32)).toInt
    let ps := fun j => if j < 32 then A.psn.getLsbD j else B.psn.getLsbD (j - 32)
    all (tree (fun x y => f32Of ((f32Val x).add (f32Val y))) (src 0x80000000#32)) (exec (.vredAddF32 d a mk) s)
    ∧ all (tree (f32Pick false) (src 0x7FC00000#32)) (exec (.vredMaxF32 d a mk) s)
    ∧ all ((active.map A.lane).sum) (exec (.vredAddS32 d a mk) s)
    ∧ MergesV s d mk (fun l => ((below l).map A.lane).sum) (fun l => (below l).any (fun j => A.psn.getLsbD j)) A.side
        (exec (.vscanAddS32 d a mk) s)
    ∧ WritesV s d (fun l => (el (2 * l + 1) ++ el (2 * l) : BitVec 32)) (fun l => ps (2 * l) || ps (2 * l + 1)) A.side
        (exec (.vpackS16 d a b) s)
    ∧ MergesV s d mk (fun l => BitVec.ofInt 32 (A.elem16 (32 * h.toNat + l)).toInt) (fun l => A.psn.getLsbD ((32 * h.toNat + l) / 2)) A.side
        (exec (.vunpkS16 d a h mk) s)
    ∧ WritesG s d ⟨BitVec.ofNat 64 ((List.range 32).countP (fun l => (s.m r).getLsbD l)), false⟩ (exec (.vcntM d r) s)
    ∧ WritesV s d (fun j => (active[j]?.map A.lane).getD 0) (fun j => (active[j]?.map (fun l => A.psn.getLsbD l)).getD false) A.side
        (exec (.vcomp d a mk) s)
    ∧ WritesV s d (fun l => if m.getLsbD l then A.lane ((List.range l).countP (fun j => m.getLsbD j)) else 0)
        (fun l => m.getLsbD l && A.psn.getLsbD ((List.range l).countP (fun j => m.getLsbD j))) A.side (exec (.vexpd d a mk) s))
  ∧ (∀ (s : State) (d a : BitVec 6) (mk : BitVec 3), s.m mk = 0 →
      WritesV s d (fun _ => 0x80000000#32) (fun _ => false) (s.v a).side (exec (.vredAddF32 d a mk) s)
      ∧ WritesV s d (fun _ => 0x7FC00000#32) (fun _ => false) (s.v a).side (exec (.vredMaxF32 d a mk) s)
      ∧ WritesV s d (fun _ => 0#32) (fun _ => false) (s.v a).side (exec (.vredAddS32 d a mk) s))

/-- Control transfers go where the manual says, and link. nop changes nothing; br goes to PC + 4 x DISP exactly when its
condition holds; jmp, jmpi, call, calli and ret go to their targets, formed exactly; call and calli leave PC + 12 in g63
with its poison clear; a poisoned register that a transfer reads raises 0x31. (R56, R62, R173.) -/
def Obligations.ControlTransfers : Prop :=
  ∀ (s : State) (a b : BitVec 6) (disp imm : BitVec 32) (cnd : BitVec 4),
    let pc : Int := s.ix.pc.toNat + 12 * s.ix.slot
    let x := (s.g a).bits
    let y := (s.g b).bits
    let holds := (cnd = 0 ∧ x = y) ∨ (cnd = 1 ∧ x ≠ y) ∨ (cnd = 2 ∧ x.toInt < y.toInt) ∨ (cnd = 3 ∧ y.toInt ≤ x.toInt)
      ∨ (cnd = 4 ∧ x.toNat < y.toNat) ∨ (cnd = 5 ∧ y.toNat ≤ x.toNat)
    let linked := fun (tgt : Int) (o : Out) => ∃ u, WritesG s 63 ⟨BitVec.ofInt 64 (pc + 12), false⟩ (.next u) ∧ Jumps u tgt o
    exec (.nop) s = .next s
    ∧ Jumps s (pc + 4 * disp.toInt) (exec (.jmp disp) s)
    ∧ linked (pc + 4 * disp.toInt) (exec (.call disp) s)
    ∧ ((s.g a).psn = false → Jumps s (x.toNat + imm.toInt) (exec (.jmpi a imm) s)
        ∧ linked (x.toNat + imm.toInt) (exec (.calli a imm) s))
    ∧ ((s.g 63).psn = false → Jumps s (s.g 63).bits.toNat (exec (.ret) s))
    ∧ ((s.g a).psn = false → (s.g b).psn = false → cnd.toNat < 6 →
        (holds → Jumps s (pc + 4 * disp.toInt) (exec (.br cnd a b disp) s)) ∧ (¬holds → exec (.br cnd a b disp) s = .next s))
    ∧ ((s.g a).psn = true → Traps s 0x31 (exec (.jmpi a imm) s) ∧ Traps s 0x31 (exec (.calli a imm) s)
        ∧ Traps s 0x31 (exec (.br cnd a b disp) s) ∧ Traps s 0x31 (exec (.br cnd b a disp) s))
    ∧ ((s.g 63).psn = true → Traps s 0x31 (exec (.ret) s))

/-- Loop counters and repetition. loop lcN leaves a counter of 0 and falls through, falls through as the counter reaches 0,
else counts down and goes to PC + 4 x DISP; lset writes gA + IMM32 modulo 2^32; rep arms the repetition of the next group
where the task is not in loop mode, and raises 0x01 where it is. (R173, R175, R176.) -/
def Obligations.LoopCounters : Prop :=
  ∀ (s : State) (lc : BitVec 2) (a : BitVec 6) (disp imm : BitVec 32) (n : BitVec 12) (sd s1 s2 s3 : BitVec 6) (soff : BitVec 28),
    let pc : Int := s.ix.pc.toNat + 12 * s.ix.slot
    let v := (s.lcv lc).toNat
    let put := fun (w : Lane) => s.here.setEng s.ix.eng { s.me with lc := s.me.lc.set lc.toNat w lc.isLt }
    (v = 0 → exec (.loopLc lc disp) s = .next s)
    ∧ (v = 1 → Becomes s (put 0) (exec (.loopLc lc disp) s))
    ∧ (2 ≤ v → BecomesAndJumps s (put (BitVec.ofNat 32 (v - 1))) (pc + 4 * disp.toInt) (exec (.loopLc lc disp) s))
    ∧ ((s.g a).psn = false → Becomes s (put (BitVec.ofNat 32 ((s.g a).bits.toNat + imm.toNat))) (exec (.lset lc a imm) s))
    ∧ ((s.g a).psn = true → Traps s 0x31 (exec (.lset lc a imm) s))
    ∧ (s.task.loopmode = false →
        Becomes s (s.here.setEng s.ix.eng { s.me with rep := some ⟨n.toNat, 0, sd, s1, s2, s3, soff⟩ }) (exec (.rep n sd s1 s2 s3 soff) s))
    ∧ (s.task.loopmode = true → Traps s 0x01 (exec (.rep n sd s1 s2 s3 soff) s))

/-- A loop nest is bound and stepped, innermost loop first. lnest binds a record that keeps to R177, sets every index to 0 and
makes the nest active; loop nest raises the index of the innermost loop that is not at its bound, sets the deeper ones to
0 and goes to PC + 4 x DISP, or ends the nest and falls through when every loop is at its bound; g50 to g57 are the
indices and the two generated offsets; an inactive nest raises 0x37. (R177, R178.) -/
def Obligations.LoopNests : Prop :=
  (∀ (s : State) (cb : BitVec 4) (x : BitVec 6) (sc : BitVec 3) (off : BitVec 32) (a : Nat),
    let r := BitVec.ofNat 512 (s.toHw.num (localKey s.ix.co a) 64)
    s.task.loopmode = true → s.Reaches cb x sc off [1] pLd 64 16 a → s.Unmarked a 64 → nestOk r = true →
    ∃ t, exec (.lnest cb x sc off) s = .next t ∧ s.OnlyCore t ∧ t.here.cu.nest = { record := r, active := true }
      ∧ (∀ j : Nat, j < 6 → t.g (BitVec.ofNat 6 (50 + j)) = ⟨0, false⟩)
      ∧ t.g 56 = ⟨BitVec.ofNat 64 (nestField r 24 4), false⟩ ∧ t.g 57 = ⟨BitVec.ofNat 64 (nestField r 40 4), false⟩
      ∧ ∀ q, q.toNat < 50 ∨ 58 ≤ q.toNat → t.g q = s.g q)
  ∧ (∀ (s : State) (disp : BitVec 32),
    let n := s.here.cu.nest
    let nl := nestNl n.record
    let i := fun (l : Nat) => (n.idx.toList.getD l 0).toNat
    let atBound := fun (d : Nat) => nestBound n.record (nestOrd n.record d) ≤ i (nestOrd n.record d) + 1
    n.active = true → nestOk n.record = true →
    (∀ d, d < nl → ¬atBound d → (∀ e, d < e → e < nl → atBound e) →
      let j := fun (l : Nat) => if l = nestOrd n.record d then i l + 1
        else if ∃ e ∈ List.range nl, d < e ∧ l = nestOrd n.record e then 0 else i l
      ∃ t u, exec (.loopNest disp) s = .next t ∧ Jumps u (s.ix.pc.toNat + 12 * s.ix.slot + 4 * disp.toInt) (.next t)
        ∧ s.OnlyCore u ∧ t.here.cu.nest.active = true ∧ t.here.cu.nest.record = n.record
        ∧ (∀ l : Nat, l < 6 → (t.here.cu.nest.idx.toList.getD l 0).toNat = j l ∧ t.g (BitVec.ofNat 6 (50 + l)) = ⟨BitVec.ofNat 64 (j l), false⟩)
        ∧ t.g 56 = ⟨BitVec.ofInt 64 (nestField n.record 24 4 + ((List.range 6).map (fun l => (j l : Int) * nestStride n.record 28 l)).sum), false⟩
        ∧ t.g 57 = ⟨BitVec.ofInt 64 (nestField n.record 40 4 + ((List.range 6).map (fun l => (j l : Int) * nestStride n.record 44 l)).sum), false⟩
        ∧ ∀ q, q.toNat < 50 ∨ 58 ≤ q.toNat → t.g q = s.g q)
    ∧ ((∀ d, d < nl → atBound d) →
      ∃ t, exec (.loopNest disp) s = .next t ∧ s.OnlyCu t ∧ t.here.cu.nest.active = false))
  ∧ ∀ (s : State) (disp : BitVec 32), s.here.cu.nest.active = false → Traps s 0x37 (exec (.loopNest disp) s)

/-- Data queues and branch outcomes, first in first out. qput and qputv append an entry with its poison and sidecar; qget and
qgetv take the oldest entry's word or vector and remove it unless K = 1; pushbq appends the condition's outcome and brq
removes one and goes when it differs from N; an entry pushed in this very cycle blocks its reader, and one that fails its
parity tag raises 0x70; an empty or full queue blocks the group, or raises 0x37 once the other engine is done. (R168,
R169, R170, R172.) -/
def Obligations.QueueTransfers : Prop :=
  ∀ (s : State) (d a b : BitVec 6) (q : BitVec 2) (w cnd : BitVec 4) (k n : BitVec 1) (disp : BitVec 32),
    let toC := decide (s.ix.eng = EngId.l)
    let fromL := decide (s.ix.eng = EngId.c)
    let out := s.here.queueOf toC q
    let inn := s.here.queueOf fromL q
    let x := (s.g a).bits
    let y := (s.g b).bits
    let left := fun (rest : List QEntry) => if k = 1 then s.here else s.here.setQueue fromL q rest
    let holds := (cnd = 0 ∧ x = y) ∨ (cnd = 1 ∧ x ≠ y) ∨ (cnd = 2 ∧ x.toInt < y.toInt) ∨ (cnd = 3 ∧ y.toInt ≤ x.toInt)
      ∨ (cnd = 4 ∧ x.toNat < y.toNat) ∨ (cnd = 5 ∧ y.toNat ≤ x.toNat)
    s.herePrior = s.here →
    (out.length < 16 →
      Becomes s (s.here.setQueue toC q (out ++ [⟨⟨BitVec.ofNat 1024 x.toNat, if (s.g a).psn then 3#32 else 0#32, 0⟩, true, true⟩]))
          (exec (.qput a q) s)
      ∧ Becomes s (s.here.setQueue toC q (out ++ [⟨s.v a, true, true⟩])) (exec (.qputv a q) s))
    ∧ (16 ≤ out.length → s.here.isDone (if toC then .c else .s) = false →
      Blocks s (exec (.qput a q) s) ∧ Blocks s (exec (.qputv a q) s))
    ∧ (16 ≤ out.length → s.here.isDone (if toC then .c else .s) = true →
      Traps s 0x37 (exec (.qput a q) s) ∧ Traps s 0x37 (exec (.qputv a q) s))
    ∧ (∀ e rest, inn = e :: rest → e.fresh = false → e.parityOk = true →
      (∃ u, Becomes s (left rest) (.next u)
        ∧ WritesG u d ⟨e.data.bits.extractLsb' (64 * w.toNat) 64,
            e.data.psn.getLsbD (2 * w.toNat) || e.data.psn.getLsbD (2 * w.toNat + 1)⟩ (exec (.qget d q w k) s))
      ∧ ∃ u t, Becomes s (left rest) (.next u) ∧ exec (.qgetv d q k) s = .next t ∧ u.OnlyV t ∧ t.v d = e.data
        ∧ ∀ r, r ≠ d → t.v r = s.v r)
    ∧ (∀ e rest, inn = e :: rest → e.fresh = false → e.parityOk = false →
      Traps s 0x70 (exec (.qget d q w k) s) ∧ Traps s 0x70 (exec (.qgetv d q k) s))
    ∧ (∀ e rest, inn = e :: rest → e.fresh = true → Blocks s (exec (.qget d q w k) s) ∧ Blocks s (exec (.qgetv d q k) s))
    ∧ (inn = [] → s.here.isDone (if fromL then .l else .c) = false →
      Blocks s (exec (.qget d q w k) s) ∧ Blocks s (exec (.qgetv d q k) s))
    ∧ (inn = [] → s.here.isDone (if fromL then .l else .c) = true →
      Traps s 0x37 (exec (.qget d q w k) s) ∧ Traps s 0x37 (exec (.qgetv d q k) s))
    ∧ ((s.g a).psn = false → (s.g b).psn = false → cnd.toNat < 6 → s.here.bq.length < 64 →
      ∃ v : Bool, (v = true ↔ holds) ∧ Becomes s { s.here with bq := s.here.bq ++ [⟨v, true, true⟩] } (exec (.pushbq cnd a b) s))
    ∧ ((s.g a).psn = false → (s.g b).psn = false → 64 ≤ s.here.bq.length → s.here.isDone .c = false →
      Blocks s (exec (.pushbq cnd a b) s))
    ∧ ((s.g a).psn = false → (s.g b).psn = false → 64 ≤ s.here.bq.length → s.here.isDone .c = true →
      Traps s 0x37 (exec (.pushbq cnd a b) s))
    ∧ ((s.g a).psn = true → Traps s 0x31 (exec (.pushbq cnd a b) s) ∧ Traps s 0x31 (exec (.pushbq cnd b a) s))
    ∧ (∀ v rest, s.here.bq = v :: rest →
      (v.fresh = false → v.parityOk = true → v.bit ≠ decide (n = 1) → BecomesAndJumps s { s.here with bq := rest }
        (s.ix.pc.toNat + 12 * s.ix.slot + 4 * disp.toInt) (exec (.brq disp n) s))
      ∧ (v.fresh = false → v.parityOk = true → v.bit = decide (n = 1) → Becomes s { s.here with bq := rest } (exec (.brq disp n) s))
      ∧ (v.fresh = false → v.parityOk = false → Traps s 0x70 (exec (.brq disp n) s))
      ∧ (v.fresh = true → Blocks s (exec (.brq disp n) s)))
    ∧ (s.here.bq = [] → s.here.isDone .l = false → Blocks s (exec (.brq disp n) s))
    ∧ (s.here.bq = [] → s.here.isDone .l = true → Traps s 0x37 (exec (.brq disp n) s))

/-- Token channels count up, count down, and are read. post raises a count below 255 by one and raises 0x37 at 255; await
lowers a count by one, once it is at least 1 without what other engines have posted in this very cycle, blocks otherwise,
and raises 0x37 on 0 once both other engines are done; kget reads the count as it stood before the group and before what
other engines changed in this cycle; nothing else changes, but that the change is kept until the cycle ends. (R65, R171.) -/
def Obligations.TokenChannels : Prop :=
  ∀ (s : State) (d : BitVec 6) (k : BitVec 4),
    let n := s.here.token k
    let posted := s.here.tokOthers s.ix.eng k true
    let taken := s.here.tokOthers s.ix.eng k false
    let put := fun (v : Nat) (post : Bool) => { s.here.setToken k (BitVec.ofNat 8 v) with
      tokLog := s.here.tokLog ++ [⟨s.ix.eng, k.toNat, post⟩] }
    s.herePrior = s.here →
    (n.toNat < 255 → Becomes s (put (n.toNat + 1) true) (exec (.post k) s))
    ∧ (n.toNat = 255 → Traps s 0x37 (exec (.post k) s))
    ∧ (posted.toNat < n.toNat → Becomes s (put (n.toNat - 1) false) (exec (.await k) s))
    ∧ (n.toNat ≤ posted.toNat → n ≠ 0 ∨ (∃ e : EngId, e ≠ s.ix.eng ∧ s.here.isDone e = false) → Blocks s (exec (.await k) s))
    ∧ (n = 0 → (∀ e : EngId, e ≠ s.ix.eng → s.here.isDone e = true) → Traps s 0x37 (exec (.await k) s))
    ∧ WritesG s d ⟨BitVec.ofNat 64 (n - posted + taken).toNat, false⟩ (exec (.kget d k) s)
    ∧ (s.here.tokLog = [] → posted = 0 ∧ taken = 0)

/-- The deferral queue appends active lanes and drains a tag in order. defer appends (tag, lane, c values with poison) for
each active lane in lane order, or raises 0x34 where the queue would pass 256 entries; drain removes the oldest entries of
its tag, 32 at most, writes their values to the lanes of four vectors with the rest clear, m7 and gA, and goes when it
took any. That drain sees the entries which earlier slots of its own group deferred is the model's choice (log entry 10).
(R179, R180, R181.) -/
def Obligations.DeferralQueue : Prop :=
  ∀ (s : State) (a va vb : BitVec 6) (mk : BitVec 3) (c : BitVec 4) (tag : BitVec 2) (disp : BitVec 32),
    let q := s.here.cu.dq
    let lanes := (List.range 32).filter (fun l => (s.m mk).getLsbD l)
    let put := lanes.map (fun l => (⟨tag, l, (List.range c.toNat).map (fun i =>
      let x := s.v (va + BitVec.ofNat 6 i)
      (x.lane l, x.psn.getLsbD l))⟩ : DqEntry))
    let mine := (q.filter (fun e => e.tag = tag)).take 32
    let n := mine.length
    let val := fun (j i : Nat) => ((mine.getD j ⟨0, 0, []⟩).vals.getD i (0#32, false))
    (q.length + lanes.length ≤ 256 →
      Becomes s { s.here with cu := { s.here.cu with dq := q ++ put } } (exec (.defer va mk c tag) s))
    ∧ (256 < q.length + lanes.length → Traps s 0x34 (exec (.defer va mk c tag) s))
    ∧ ∃ t u rest, exec (.drain a vb disp tag) s = .next t
        ∧ (if n = 0 then t = u else Jumps u (s.ix.pc.toNat + 12 * s.ix.slot + 4 * disp.toInt) (.next t))
        ∧ s.OnlyCore u ∧ u.here.cu.dq = rest ∧ rest.filter (fun e => e.tag ≠ tag) = q.filter (fun e => e.tag ≠ tag)
        ∧ rest.filter (fun e => e.tag = tag) = (q.filter (fun e => e.tag = tag)).drop 32
        ∧ (∀ r, u.g r = if r = a ∧ a ≠ 0 then ⟨BitVec.ofNat 64 n, false⟩ else s.g r)
        ∧ (∀ l, l < 32 → (u.m 7).getLsbD l = decide (l < n)) ∧ (∀ r, r ≠ 7 → u.m r = s.m r)
        ∧ (vb.toNat ≤ 60 →
            (∀ i l : Nat, i < 4 → l < 32 →
              ((u.v (vb + BitVec.ofNat 6 i)).lane l, (u.v (vb + BitVec.ofNat 6 i)).psn.getLsbD l) = (if l < n then val l i else (0#32, false))
              ∧ (u.v (vb + BitVec.ofNat 6 i)).side = 0)
            ∧ ∀ r, r.toNat < vb.toNat ∨ vb.toNat + 4 ≤ r.toNat → u.v r = s.v r)

/-- Special registers read as the manual lays them out, and one can be written. csrr writes the register as it stood before
the group: core, insula, isle, task, iteration, frame, tick, seed, domain, loop mode, format-table index, lease, deferral
occupancy, late, shape, section; C's own registers from L and S, and a number above 15, raise 0x01; csrw writes bits [1:0]
to the format-table index in C, raises 0x31 on poison, and raises 0x01 for every other register or engine. (R25, R70,
R219, R326, R368.) -/
def Obligations.SpecialRegisters : Prop :=
  ∀ (s : State) (d a : BitVec 6) (csr : BitVec 16),
    let k := s.herePrior
    let t := k.task.getD {}
    let arr := s.prior.arr s.ix.co.isle (CoreId.ins s.ix.co)
    let reads := fun (n : Nat) (v : Word) => csr.toNat = n → WritesG s d ⟨v, false⟩ (exec (.csrr d csr) s)
    reads 0 (BitVec.ofNat 64 s.ix.co.core)
    ∧ reads 1 (BitVec.ofNat 64 (s.ix.co.core / 4))
    ∧ reads 2 (BitVec.ofNat 64 s.ix.co.isle)
    ∧ reads 3 (BitVec.ofNat 64 t.task)
    ∧ reads 4 (BitVec.ofNat 64 t.iter)
    ∧ reads 5 t.frame
    ∧ reads 6 s.prior.tick
    ∧ reads 7 t.seed
    ∧ reads 8 (if k.task = none then 0 else t.dom)
    ∧ reads 9 (if t.loopmode then 1 else 0)
    ∧ (s.ix.eng = .c →
        reads 10 (BitVec.ofNat 64 k.cu.ftidx.toNat)
        ∧ reads 11 (BitVec.ofNat 64 (k.leaseRuns.toNat * 256 + (if k.leaseHeld then 128 else 0) + k.leaseLeft.toNat))
        ∧ reads 12 (BitVec.ofNat 64 (k.cu.dq.length
            + ((List.range 4).map (fun i => (k.cu.dq.filter (fun e => e.tag.toNat = i)).length * 2 ^ (9 * i + 9))).sum)))
    ∧ reads 13 k.late
    ∧ (arr.segs ≠ 0 → arr.cal ≠ 4 → reads 14 (BitVec.ofNat 64 (arr.margin.toNat * 2 ^ 32 + arr.cal.toNat * 2 ^ 24 + 64 * 2 ^ 16
        + 16 * (List.range 4).countP (fun i => arr.segs.getLsbD i) * 256 + arr.segs.toNat)))
    ∧ (arr.segs = 0 → reads 14 (BitVec.ofNat 64 (arr.margin.toNat * 2 ^ 32 + 4 * 2 ^ 24)))
    ∧ reads 15 (BitVec.ofNat 64 (k.eng s.ix.eng).rsec.toNat)
    ∧ (s.ix.eng ≠ .c → csr.toNat = 10 ∨ csr.toNat = 11 ∨ csr.toNat = 12 → Traps s 0x01 (exec (.csrr d csr) s))
    ∧ (15 < csr.toNat → Traps s 0x01 (exec (.csrr d csr) s))
    ∧ (s.ix.eng = .c → csr.toNat = 10 → (s.g a).psn = false →
        Becomes s { s.here with cu := { s.here.cu with ftidx := BitVec.ofNat 2 (s.g a).bits.toNat } } (exec (.csrw a csr) s))
    ∧ (s.ix.eng = .c → csr.toNat = 10 → (s.g a).psn = true → Traps s 0x31 (exec (.csrw a csr) s))
    ∧ (s.ix.eng ≠ .c ∨ csr.toNat ≠ 10 → Traps s 0x01 (exec (.csrw a csr) s))

/-- trap and brk take their traps; done ends an engine; a fence waits for what it covers. trap raises 0x40 with its immediate,
gA and gA's poison in the record; brk raises 0x41 with its immediate, and passes once after a held break; done sets RSEC
and stops the engine, or raises 0x37 in C while the deferral queue holds entries; a fence completes, changing nothing,
once every command it covers is performed (for a write into space 8, once its response has returned, so that fence.sys
means visible at system scope), and blocks until then. (R166, R292, R360, R365, R367.) -/
def Obligations.TrapBreakDoneAndFences : Prop :=
  ∀ (s : State) (a : BitVec 6) (imm : BitVec 32),
    let x := s.g a
    let raises := fun (r : TrapRec) (o : Out) =>
      o = .next { s.upd (fun h => h.trapAs true s.ix.co r) with ix := { s.ix with trap := some r } }
    let covers := fun (f : Fence) => ∀ c ∈ s.herePrior.cmds, c.op = .order ∨ c.op = .close ∨ c.inFence s.ix.co f = false ∨ c.performed = true
    let fence := fun (f : Fence) (o : Out) => (covers f → o = .next s) ∧ (¬covers f → Blocks s o)
    raises { s.record { code := 0x40 } with
        detail := BitVec.ofNat 256 (imm.toNat + 2 ^ 64 * x.bits.toNat + if x.psn then 2 ^ 128 else 0) } (exec (.trap a imm) s)
    ∧ (s.me.brkPass = false → raises { s.record { code := 0x41 } with detail := BitVec.ofNat 256 imm.toNat } (exec (.brk imm) s))
    ∧ (s.me.brkPass = true → Becomes s (s.here.setEng s.ix.eng { s.me with brkPass := false }) (exec (.brk imm) s))
    ∧ (s.ix.eng ≠ .c ∨ s.here.cu.dq = [] →
        ∃ t, exec (.doneOp) s = .next t ∧ t.me.st = .done ∧ (∀ y, s.me.sec = some y → t.me.rsec = y.sec)
          ∧ t.me.g = s.me.g ∧ t.me.c = s.me.c ∧ t.me.p = s.me.p ∧ (∀ e, e ≠ s.ix.eng → t.here.eng e = s.here.eng e)
          ∧ ∀ k, memRead t.mem k = memRead s.mem k)
    ∧ (s.ix.eng = .c → s.here.cu.dq ≠ [] → Traps s 0x37 (exec (.doneOp) s))
    ∧ fence .core (exec (.fenceCore) s)
    ∧ fence .isle (exec (.fenceIsle) s)
    ∧ fence .mod (exec (.fenceMod) s)
    ∧ fence .sys (exec (.fenceSys) s)

/-- Capability instructions derive and read capabilities. cmov, cinc, cinci, caddr and cperm copy the source with its tag and
bounds and change the cursor (modulo 2^48) or narrow the permissions; cbound covers [CURSOR, CURSOR + gB) with the least
exponent that represents it and raises 0x11 where a tagged result would widen; the cget forms, ctest and cle read fields;
cclr gives null; cfoot gives the preloaded footprint, null for one the entry lacks or marks invalid; a poisoned gB raises
0x31; all else stays. (R75, R76, R79, R85, R86, R88.) -/
def Obligations.CapabilityResults : Prop :=
  ∀ (s : State) (d a c : BitVec 4) (g b : BitVec 6) (q k : BitVec 3) (imm : BitVec 64) (mask : BitVec 12),
    let x := s.c a
    let y := s.c c
    let same := fun (z : CReg) => z.tag = x.tag ∧ z.space = x.space ∧ z.base = x.base ∧ z.length = x.length
    let moved := fun (cur : Int) (o : Out) =>
      ∃ z, WritesC s d z o ∧ same z ∧ z.perm = x.perm ∧ (z.cursor : Int) = cur % 2 ^ 48
    let lo := x.cursor - x.cursor % 16
    let n := (s.g b).bits.toNat + x.cursor % 16
    let man := fun (e : Nat) => (n + 2 ^ e - 1) / 2 ^ e
    WritesC s d x (exec (.cmov d a) s)
    ∧ moved (x.cursor + imm.toInt) (exec (.cinci d a imm) s)
    ∧ ((s.g b).psn = false → moved (x.cursor + (s.g b).bits.toInt) (exec (.cinc d a b) s)
        ∧ moved (s.g b).bits.toNat (exec (.caddr d a b) s))
    ∧ (∃ z, WritesC s d z (exec (.cperm d a mask) s) ∧ same z ∧ z.perm = x.perm &&& mask ∧ z.cursor = x.cursor)
    ∧ ((s.g b).psn = false → ∀ e, man e ≤ 16383 → (∀ i, i < e → 16383 < man i) →
        (x.tag = true → x.base ≤ lo ∧ lo + man e * 2 ^ e ≤ x.top →
          ∃ z, WritesC s d z (exec (.cbound d a b) s) ∧ z.tag = true ∧ z.base = lo ∧ z.length = man e * 2 ^ e
            ∧ z.cursor = x.cursor ∧ z.perm = x.perm ∧ z.space = x.space)
        ∧ (x.tag = true → lo < x.base ∨ x.top < lo + man e * 2 ^ e → Traps s 0x11 (exec (.cbound d a b) s))
        ∧ (x.tag = false → ∃ z, WritesC s d z (exec (.cbound d a b) s) ∧ z.tag = false ∧ z.base = lo ∧ z.length = man e * 2 ^ e
            ∧ z.cursor = x.cursor))
    ∧ ((s.g b).psn = true → Traps s 0x31 (exec (.cinc d a b) s) ∧ Traps s 0x31 (exec (.caddr d a b) s)
        ∧ Traps s 0x31 (exec (.cbound d a b) s))
    ∧ WritesG s g ⟨BitVec.ofNat 64 x.base, false⟩ (exec (.cgetb g a) s)
    ∧ WritesG s g ⟨BitVec.ofNat 64 (if x.length < 2 ^ 64 then x.length else 2 ^ 64 - 1), false⟩ (exec (.cgetl g a) s)
    ∧ WritesG s g ⟨BitVec.ofInt 64 ((x.cursor : Int) - x.base), false⟩ (exec (.cgeto g a) s)
    ∧ WritesG s g ⟨BitVec.ofNat 64 ((if x.tag then 65536 else 0) + 4096 * x.space + x.perm.toNat), false⟩ (exec (.cgetp g a) s)
    ∧ WritesP s q ⟨x.tag, false⟩ (exec (.ctest q a) s)
    ∧ (∃ v : Bool, (v = true ↔ x.tag = true ∧ y.tag = true ∧ x.space = y.space ∧ x.perm &&& y.perm = x.perm ∧ y.base ≤ x.base
          ∧ x.top ≤ y.top) ∧ WritesP s q ⟨v, false⟩ (exec (.cle q a c) s))
    ∧ WritesC s d ⟨0, false⟩ (exec (.cclr d) s)
    ∧ (∀ f, s.task.feet[k.toNat]? = some f → f.valid = true → WritesC s d f.cap (exec (.cfoot d k) s))
    ∧ (∀ f, s.task.feet[k.toNat]? = some f → f.valid = false → WritesC s d ⟨0, false⟩ (exec (.cfoot d k) s))
    ∧ (s.task.feet[k.toNat]? = none → WritesC s d ⟨0, false⟩ (exec (.cfoot d k) s))

/-- cld and cst move one capability between a register and local memory. cld writes the granule's 16 bytes and its tag to cD;
cst writes cD's 128 bits to the granule and sets its tag to cD's tag, and every other byte and tag stays; a misaligned
address raises 0x11 after the checks of R81. (R81, R82, R87, R147.) -/
def Obligations.CapabilityMemory : Prop :=
  ∀ (s : State) (d cb : BitVec 4) (x : BitVec 6) (sc : BitVec 3) (off : BitVec 32) (a : Nat),
    let k := localKey s.ix.co a
    (s.Reaches cb x sc off [1] (pLd ||| pLc) 16 16 a → s.Unmarked a 16 →
      WritesC s d ⟨BitVec.ofNat 128 (s.toHw.num k 16), s.toHw.tagAt k⟩ (exec (.cld d cb x sc off) s))
    ∧ (s.Inv → s.Reaches cb x sc off [1] (pSt ||| pSc) 16 16 a → s.NoSlot a 16 →
      ∃ t, exec (.cst d cb x sc off) s = .next t ∧ t.toHw.num k 16 = (s.c d).bits.toNat ∧ t.toHw.tagAt k = (s.c d).tag
        ∧ (∀ j, j < k ∨ k + 16 ≤ j → memRead t.mem j = memRead s.mem j)
        ∧ (∀ g, g ≠ k / 16 → setHas t.tags g = setHas s.tags g) ∧ s.OnlyMem t)
    ∧ (s.Reaches cb x sc off [1] (pLd ||| pLc) 16 1 a → a % 16 ≠ 0 → Traps s 0x11 (exec (.cld d cb x sc off) s))
    ∧ (s.Reaches cb x sc off [1] (pSt ||| pSc) 16 1 a → a % 16 ≠ 0 → Traps s 0x11 (exec (.cst d cb x sc off) s))
    ∧ (s.Reaches cb x sc off [1] (pSt ||| pSc) 16 16 a → ¬s.NoSlot a 16 → Traps s 0x33 (exec (.cst d cb x sc off) s))

/-- Scalar loads read little-endian bytes of own local memory and extend them. An access that passes R81, is aligned and meets
no mark writes the bytes at CURSOR + OFF + (gX << SC), sign- or zero-extended and unpoisoned, to gD; all else stays. (R81,
R147, R148, R302.) -/
def Obligations.ScalarLoads : Prop :=
  ∀ (s : State) (d x : BitVec 6) (cb : BitVec 4) (sc : BitVec 3) (off : BitVec 32) (a : Nat),
    let b := fun (i : Nat) => (memRead s.mem (localKey s.ix.co a + i)).toNat
    let v := fun (n : Nat) => ((List.range n).map (fun i => 256 ^ i * b i)).sum
    let ok := fun (n : Nat) => s.Reaches cb x sc off [1, 5] pLd n n a ∧ s.Unmarked a n
    let z := fun (n : Nat) => (⟨BitVec.ofNat 64 (v n), false⟩ : GReg)
    let sx := fun (n : Nat) => (⟨BitVec.ofInt 64 ((v n : Int).bmod (256 ^ n)), false⟩ : GReg)
    (ok 1 → WritesG s d (sx 1) (exec (.ldS8 d cb x sc off) s) ∧ WritesG s d (z 1) (exec (.ldZ8 d cb x sc off) s))
    ∧ (ok 2 → WritesG s d (sx 2) (exec (.ldS16 d cb x sc off) s) ∧ WritesG s d (z 2) (exec (.ldZ16 d cb x sc off) s))
    ∧ (ok 4 → WritesG s d (sx 4) (exec (.ldS32 d cb x sc off) s) ∧ WritesG s d (z 4) (exec (.ldZ32 d cb x sc off) s))
    ∧ (ok 8 → WritesG s d (z 8) (exec (.ld64 d cb x sc off) s))

/-- Stores write the register's low bytes, little-endian, and nothing else. An access that passes R81, is aligned, has
unpoisoned data and meets no barrier slot stores 1, 2, 4 or 8 bytes of gD or the 128 bytes of vD at the computed offset;
tags of granules with a changed byte clear, full bits and all else stay. (R82, R146, R147, R148.) -/
def Obligations.ScalarAndVectorStores : Prop :=
  ∀ (s : State) (d x : BitVec 6) (cb : BitVec 4) (sc : BitVec 3) (off : BitVec 32) (a : Nat),
    let ok := fun (n al : Nat) => s.Inv ∧ s.Reaches cb x sc off [1] pSt n al a ∧ s.NoSlot a n
    let byte := fun (i : Nat) => BitVec.ofNat 8 ((s.g d).bits.toNat / 256 ^ i)
    (ok 1 1 → (s.g d).psn = false → Stores s a 1 byte (exec (.st8 d cb x sc off) s))
    ∧ (ok 2 2 → (s.g d).psn = false → Stores s a 2 byte (exec (.st16 d cb x sc off) s))
    ∧ (ok 4 4 → (s.g d).psn = false → Stores s a 4 byte (exec (.st32 d cb x sc off) s))
    ∧ (ok 8 8 → (s.g d).psn = false → Stores s a 8 byte (exec (.st64 d cb x sc off) s))
    ∧ (ok 128 16 → (s.v d).psn = 0 → Stores s a 128 (fun i => (s.v d).bits.extractLsb' (8 * i) 8) (exec (.vst d cb x sc off) s))

/-- Scalar and vector loads and stores of own local memory trap before they change anything. For every scalar and vector load
and store of own memory: a poisoned address register raises 0x31, an untagged capability 0x10, a wrong space 0x13, a
missing permission 0x12, an access past the bounds 0x11, in the order of R81; then a misaligned one 0x11, a load that
meets a poison mark 0x31, poisoned store data 0x31 and a store to a barrier's slot 0x33. The place of alignment, of
poisoned data and of the barrier's slot after R81's checks, and 0x33 last, is the model's choice (log entry 19: R147 gives
no order); ld and ldfe in space 5 are log entry 16. (R80, R81, R147, R148, R302, R303.) -/
def Obligations.LocalAccessTraps : Prop :=
  ∀ (s : State) (d x : BitVec 6) (cb : BitVec 4) (sc : BitVec 3) (off : BitVec 32),
    let c := s.c cb
    let ea : Int := (c.cursor : Int) + off.toInt + (s.g x).bits.toInt * 2 ^ sc.toNat
    let loads : List (Out × Nat × Nat × List Nat) := [
      (exec (.ldS8 d cb x sc off) s, 1, 1, [1, 5]), (exec (.ldZ8 d cb x sc off) s, 1, 1, [1, 5]),
      (exec (.ldS16 d cb x sc off) s, 2, 2, [1, 5]), (exec (.ldZ16 d cb x sc off) s, 2, 2, [1, 5]),
      (exec (.ldS32 d cb x sc off) s, 4, 4, [1, 5]), (exec (.ldZ32 d cb x sc off) s, 4, 4, [1, 5]),
      (exec (.ld64 d cb x sc off) s, 8, 8, [1, 5]), (exec (.ldfeW d cb x sc off) s, 8, 8, [1, 5]),
      (exec (.ldfeC d cb x sc off) s, 8, 8, [1, 5]), (exec (.vld d cb x sc off) s, 128, 16, [1]),
      (exec (.vldBc d cb x sc off) s, 4, 4, [1]), (exec (.vldfeW d cb x sc off) s, 128, 16, [1]),
      (exec (.vldfeC d cb x sc off) s, 128, 16, [1])]
    let stores : List (Out × Nat × Nat × Bool) := [
      (exec (.st8 d cb x sc off) s, 1, 1, (s.g d).psn), (exec (.st16 d cb x sc off) s, 2, 2, (s.g d).psn),
      (exec (.st32 d cb x sc off) s, 4, 4, (s.g d).psn), (exec (.st64 d cb x sc off) s, 8, 8, (s.g d).psn),
      (exec (.vst d cb x sc off) s, 128, 16, (s.v d).psn != 0)]
    let checks := fun (o : Out) (n al : Nat) (spaces : List Nat) (need : BitVec 12) =>
      ((s.g x).psn = true → Traps s 0x31 o)
      ∧ ((s.g x).psn = false → c.tag = false → Traps s 0x10 o)
      ∧ ((s.g x).psn = false → c.tag = true → c.space ∉ spaces → Traps s 0x13 o)
      ∧ ((s.g x).psn = false → c.tag = true → c.space ∈ spaces → c.has need = false → Traps s 0x12 o)
      ∧ ((s.g x).psn = false → c.tag = true → c.space ∈ spaces → c.has need = true → ea < c.base ∨ (c.top : Int) < ea + n → Traps s 0x11 o)
      ∧ ∀ a, s.Reaches cb x sc off spaces need n 1 a → a % al ≠ 0 → Traps s 0x11 o
    (∀ o n al spaces, (o, n, al, spaces) ∈ loads → checks o n al spaces pLd
      ∧ ∀ a, s.Reaches cb x sc off spaces pLd n al a → ¬s.Unmarked a n → Traps s 0x31 o)
    ∧ ∀ o n al psn, (o, n, al, psn) ∈ stores → checks o n al [1] pSt
      ∧ ∀ a, s.Reaches cb x sc off [1] pSt n al a → (psn = true → Traps s 0x31 o) ∧ (psn = false → ¬s.NoSlot a n → Traps s 0x33 o)

/-- Vector loads, gathers and scatters. vld writes 128 bytes to the lanes of vD, vld.bc the same 4 bytes to every lane, vgath
4 bytes a lane from CURSOR + OFF + (index << SC), each with clear poison and sidecar; vscat stores 4 bytes a lane, the
highest lane winning where lanes name one address, and no other byte; a granule with a changed byte loses its tag, every
other tag stays; all else stays. (R42, R82, R147, R148, R149.) -/
def Obligations.VectorAccesses : Prop :=
  ∀ (s : State) (d x : BitVec 6) (cb : BitVec 4) (sc : BitVec 3) (off : BitVec 32) (a : Nat) (at_ : Nat → Nat),
    let b := fun (i : Nat) => memRead s.mem (localKey s.ix.co i)
    let word := fun (i : Nat) => (b (i + 3) ++ b (i + 2) ++ b (i + 1) ++ b i : BitVec 32)
    let lanes := fun (need : BitVec 12) => (s.v x).psn = 0 ∧ ∀ l, l < 32 →
      ((s.c cb).cursor : Int) + off.toInt + ((s.v x).lane l).toInt * 2 ^ sc.toNat = at_ l
      ∧ (s.c cb).Allows [1] need (at_ l) 4 ∧ at_ l + 4 ≤ 2 ^ 19 ∧ at_ l % 4 = 0
    (s.Reaches cb x sc off [1] pLd 128 16 a → s.Unmarked a 128 →
      WritesV s d (fun l => word (a + 4 * l)) (fun _ => false) 0 (exec (.vld d cb x sc off) s))
    ∧ (s.Reaches cb x sc off [1] pLd 4 4 a → s.Unmarked a 4 →
      WritesV s d (fun _ => word a) (fun _ => false) 0 (exec (.vldBc d cb x sc off) s))
    ∧ (lanes pLd → (∀ l, l < 32 → s.Unmarked (at_ l) 4) →
      WritesV s d (fun l => word (at_ l)) (fun _ => false) 0 (exec (.vgath d cb x sc off) s))
    ∧ (s.Inv → lanes pSt → (s.v d).psn = 0 → (∀ l, l < 32 → s.NoSlot (at_ l) 4) →
      ∃ t, exec (.vscat d cb x sc off) s = .next t ∧ s.OnlyMem t
        ∧ (∀ l i, l < 32 → i < 4 → (∀ m, l < m → m < 32 → at_ m ≠ at_ l) →
          memRead t.mem (localKey s.ix.co (at_ l) + i) = ((s.v d).lane l).extractLsb' (8 * i) 8)
        ∧ (∀ j, (∀ l, l < 32 → j < localKey s.ix.co (at_ l) ∨ localKey s.ix.co (at_ l) + 4 ≤ j) → memRead t.mem j = memRead s.mem j)
        ∧ (∀ g, setHas t.tags g = true → setHas s.tags g = true ∧ ∀ i, i < 16 → memRead t.mem (16 * g + i) = memRead s.mem (16 * g + i))
        ∧ ((∀ l m, l < 32 → m < 32 → at_ l = at_ m → l = m) → ∀ g, setHas s.tags g = true →
          (∀ i, i < 16 → memRead t.mem (16 * g + i) = memRead s.mem (16 * g + i)) → setHas t.tags g = true))

/-- Full-empty loads wait for full bits; fset, fclr and ftest set, clear and read them. With every full bit of the access set,
ldfe.w and vldfe.w load and leave the bits, ldfe.c and vldfe.c load and clear them, and no byte of memory changes; with
one clear they block and change nothing; fset and fclr set and clear the bits of gD granules from the address on and no
other; ftest reads the bit of the address's granule. That ldfe.w and ldfe.c are admitted in space 5 too is the model's
choice between R80 and R148 (log entry 16). (R80, R146, R147, R148, R150, R151.) -/
def Obligations.FullEmptyAccesses : Prop :=
  ∀ (s : State) (d x : BitVec 6) (q : BitVec 3) (cb : BitVec 4) (sc : BitVec 3) (off : BitVec 32) (a n : Nat),
    let key := localKey s.ix.co a
    let b := fun (i : Nat) => memRead s.mem (key + i)
    let g := (⟨b 7 ++ b 6 ++ b 5 ++ b 4 ++ b 3 ++ b 2 ++ b 1 ++ b 0, false⟩ : GReg)
    let word := fun (i : Nat) => (b (i + 3) ++ b (i + 2) ++ b (i + 1) ++ b i : BitVec 32)
    let full := fun (k : Nat) => ∀ j, j < k → setHas s.full (key / 16 + j) = true
    let bits := fun (k : Nat) (v : Bool) (t u : State) =>
      u = t.upd (fun h => { h with full := u.full, dirty := u.dirty })
      ∧ ∀ j, setHas u.full j = if key / 16 ≤ j ∧ j < key / 16 + k then v else setHas t.full j
    (s.Reaches cb x sc off [1, 5] pLd 8 8 a → s.Unmarked a 8 →
      (full 1 → WritesG s d g (exec (.ldfeW d cb x sc off) s)
        ∧ ∃ t u, WritesG s d g (.next t) ∧ exec (.ldfeC d cb x sc off) s = .next u ∧ bits 1 false t u)
      ∧ (¬full 1 → Blocks s (exec (.ldfeW d cb x sc off) s) ∧ Blocks s (exec (.ldfeC d cb x sc off) s)))
    ∧ (s.Reaches cb x sc off [1] pLd 128 16 a → s.Unmarked a 128 →
      (full 8 → WritesV s d (fun l => word (4 * l)) (fun _ => false) 0 (exec (.vldfeW d cb x sc off) s)
        ∧ ∃ t u, WritesV s d (fun l => word (4 * l)) (fun _ => false) 0 (.next t) ∧ exec (.vldfeC d cb x sc off) s = .next u
          ∧ bits 8 false t u)
      ∧ (¬full 8 → Blocks s (exec (.vldfeW d cb x sc off) s) ∧ Blocks s (exec (.vldfeC d cb x sc off) s)))
    ∧ ((s.g d).psn = false → (s.g d).bits.toNat = n → s.Reaches cb x sc off [1] pSt (16 * n) 16 a → s.NoSlot a (16 * n) →
      (∃ u, exec (.fset d cb x sc off) s = .next u ∧ bits n true s u) ∧ ∃ u, exec (.fclr d cb x sc off) s = .next u ∧ bits n false s u)
    ∧ (s.Reaches cb x sc off [1] pLd 1 1 a → WritesP s q ⟨setHas s.full (key / 16), false⟩ (exec (.ftest q cb x sc off) s))

/-- ldn and vldn read a core of the insula and land later. A load through a space-2 capability of a core of the same insula,
in service, aligned and in range, changes no register and no memory: it takes the lowest free of 32 landing slots, to
deliver the bytes to gD or vD at LAND cycles after its group; for both, a core of another insula or out of service raises
0x13, and no free slot blocks. (R10, R152, R182.) -/
def Obligations.NeighbourLoads : Prop :=
  ∀ (s : State) (d x : BitVec 6) (cb : BitVec 4) (sc : BitVec 3) (off : BitVec 32) (land : BitVec 6) (core o : Nat),
    let other : CoreId := ⟨s.ix.co.isle, core⟩
    let ea : Int := ((s.c cb).cursor : Int) + off.toInt + (s.g x).bits.toInt * 2 ^ sc.toNat
    let names := fun (n : Nat) => (s.g x).psn = false ∧ core < 2 ^ 11 ∧ o < 2 ^ 21
      ∧ ea = s.ix.co.isle * 2 ^ 32 + core * 2 ^ 21 + o ∧ (s.c cb).Allows [2] pLd ea n
    let near := fun (n al : Nat) => core / 4 = s.ix.co.core / 4 ∧ s.toHw.coreInService other = true ∧ o + n ≤ 2 ^ 19 ∧ o % al = 0
    let lands := fun (kind : LandKind) (n : Nat) => TakesSlot s (fun x => x.kind = kind ∧ x.dest = d.toNat
      ∧ x.due = s.here.cyc + land.toNat
      ∧ ∃ v, x.regs = [v] ∧ ∀ b, b < n → v.bits.extractLsb' (8 * b) 8 = memRead s.mem (localKey other o + b))
    (s.SlotFree → names 8 → near 8 8 → lands .ldn 8 (exec (.ldn d cb x sc off land) s))
    ∧ (s.SlotFree → names 128 → near 128 16 → lands .vldn 128 (exec (.vldn d cb x sc off land) s))
    ∧ (¬s.SlotFree → names 8 → near 8 8 → Blocks s (exec (.ldn d cb x sc off land) s))
    ∧ (¬s.SlotFree → names 128 → near 128 16 → Blocks s (exec (.vldn d cb x sc off land) s))
    ∧ (names 128 → core / 4 ≠ s.ix.co.core / 4 ∨ s.toHw.coreInService other = false → Traps s 0x13 (exec (.vldn d cb x sc off land) s))
    ∧ (names 8 → core / 4 ≠ s.ix.co.core / 4 ∨ s.toHw.coreInService other = false → Traps s 0x13 (exec (.ldn d cb x sc off land) s))

/-- Transaction barriers count bytes and signatures, phase by phase. tbinit gives barrier N the slot at c8.CURSOR + gA with
zero counts; tbexpect arms a phase, drawing on BANK first, or extends the armed one; tbarrive draws QUOTA then fills BANK,
signs with P = 1 and returns PHASE; a phase with nothing owed completes; tbwait passes or blocks and sets its WAIT bit,
tbtest tests; tbretire frees name and slot; refusals raise 0x32 or 0x33. That gA of tbinit is a signed offset from
c8.CURSOR is the model's choice (log entry 98: R160 does not say). (R155, R156, R158, R159, R160, R161, R162, R163.) -/
def Obligations.TransactionBarriers : Prop :=
  ∀ (s : State) (d a : BitVec 6) (q : BitVec 3) (n : BitVec 12) (p : BitVec 1) (nl nc ns : BitVec 4) (off : Nat),
    let x := (s.g a).bits.toNat
    let key := localKey s.ix.co off
    let b := s.toHw.slotAt s.ix.co off
    let top := 2 ^ 24 - 1
    let done := fun (b : Slot) => if b.armed = true ∧ b.quota = 0 ∧ b.made = b.owed
      then { b with phase := (b.phase + 1) % 2 ^ 16, armed := false, made := [0, 0, 0] } else b
    let outside := fun (t : State) => ∀ j, j < key ∨ key + 16 ≤ j → memRead t.mem j = memRead s.mem j
    let slot := fun (t : State) (y : Slot) => t.toHw.slotAt s.ix.co off = y ∧ outside t
    let u := engUnit s.ix.eng
    let take := if b.armed then min x b.quota else 0
    let sign := if p = 1 then b.made.set u (b.made.getD u 0 + 1) else b.made
    let passed := 1 ≤ (b.phase + 2 ^ 16 - x % 2 ^ 16) % 2 ^ 16 ∧ (b.phase + 2 ^ 16 - x % 2 ^ 16) % 2 ^ 16 < 2 ^ 15
    let waits := fun (w : Bool) => { b with wait := b.wait - (if b.wait.testBit u then 2 ^ u else 0) + (if w then 2 ^ u else 0) }
    let active := s.here.barrierAt n.toNat = some off
    s.Inv → off + 16 ≤ 2 ^ 19 → (s.g a).psn = false →
    (((s.c 8).cursor : Int) + (s.g a).bits.toInt = off → (s.c 8).Allows [1] (pLd ||| pSt) off 16 → off % 16 = 0 →
      (s.here.barrierAt n.toNat = none → s.NoSlot off 16 → (∃ i, i < 2048 ∧ tabFind s.here.tbdir i = none) →
        ∃ t, exec (.tbinit a n nl nc ns) s = .next t ∧ t.here.barrierAt n.toNat = some off
          ∧ slot t { name := n.toNat, owed := [nl.toNat, nc.toNat, ns.toNat] }
          ∧ t.toHw.tagAt key = false ∧ t.toHw.fullAt key = false ∧ t.me = s.me)
      ∧ (s.here.barrierAt n.toNat ≠ none → Traps s 0x33 (exec (.tbinit a n nl nc ns) s))
      ∧ (s.here.barrierAt n.toNat = none → ¬s.NoSlot off 16 → Traps s 0x33 (exec (.tbinit a n nl nc ns) s))
      ∧ (s.here.barrierAt n.toNat = none → s.NoSlot off 16 → (∀ i, i < 2048 → tabFind s.here.tbdir i ≠ none) →
        Traps s 0x32 (exec (.tbinit a n nl nc ns) s)))
    ∧ (active → b.armed = true → b.quota + x ≤ top →
        ∃ t, exec (.tbexpect a n) s = .next t ∧ s.OnlyMem t ∧ slot t (done { b with quota := b.quota + x }))
    ∧ (active → b.armed = false → x ≤ top →
        ∃ t, exec (.tbexpect a n) s = .next t ∧ s.OnlyMem t
          ∧ slot t (done { b with armed := true, quota := x - min b.bank x, bank := b.bank - min b.bank x }))
    ∧ (active → (b.armed = true ∧ top < b.quota + x) ∨ (b.armed = false ∧ top < x) → Traps s 0x32 (exec (.tbexpect a n) s))
    ∧ (active → (p = 1 → b.made.getD u 0 < b.owed.getD u 0) → b.bank + (x - take) ≤ top →
        ∃ t v, exec (.tbarrive d a n p) s = .next t ∧ s.OnlyMem v ∧ WritesG v d ⟨BitVec.ofNat 64 b.phase, false⟩ (.next t)
          ∧ slot v (done { b with quota := b.quota - take, bank := b.bank + (x - take), made := sign }))
    ∧ (active → p = 1 → b.made.getD u 0 = b.owed.getD u 0 → Traps s 0x33 (exec (.tbarrive d a n p) s))
    ∧ (active → (p = 1 → b.made.getD u 0 < b.owed.getD u 0) → top < b.bank + (x - take) → Traps s 0x32 (exec (.tbarrive d a n p) s))
    ∧ (active → passed → ∃ t, exec (.tbwait a n) s = .next t ∧ s.OnlyMem t ∧ slot t (waits false))
    ∧ (active → ¬passed → ∃ v, s.OnlyMem v ∧ slot v (waits true) ∧ Blocks v (exec (.tbwait a n) s))
    ∧ (active → ∃ v : Bool, (v = true ↔ passed) ∧ WritesP s q ⟨v, false⟩ (exec (.tbtest q a n) s))
    ∧ (active → b.armed = false → b.bank = 0 → b.made = [0, 0, 0] → b.wait = 0 →
        ∃ t, exec (.tbretire n) s = .next t ∧ t.here.barrierAt n.toNat = none ∧ outside t ∧ t.toHw.num key 16 = 0
          ∧ t.toHw.fullAt key = false ∧ t.me = s.me)
    ∧ (active → b.armed = true ∨ b.bank ≠ 0 ∨ b.made ≠ [0, 0, 0] ∨ b.wait ≠ 0 → Traps s 0x33 (exec (.tbretire n) s))
    ∧ (s.here.barrierAt n.toNat = none → Traps s 0x33 (exec (.tbexpect a n) s) ∧ Traps s 0x33 (exec (.tbarrive d a n p) s)
        ∧ Traps s 0x33 (exec (.tbwait a n) s) ∧ Traps s 0x33 (exec (.tbtest q a n) s) ∧ Traps s 0x33 (exec (.tbretire n) s))

/-- Domain barriers count arrivals and wait for phases. At a level that the task may use, dbar and dbar.a add one arrival of
the engine at the level, dbar.a returning the number before it and dbar holding the engine's next group on it; at task
level the phase count follows the least advanced engine that is not done; dbar.w completes once the phase it names has
passed and blocks until then; a level without band or DBARM bit raises 0x33, a poisoned register 0x31; no byte of memory
changes. (R65, R327, R328.) -/
def Obligations.DomainBarriers : Prop :=
  ∀ (s : State) (d a : BitVec 6) (lv : BitVec 8),
    let l := lv.toNat
    let may := (l = 4 → s.task.band ≠ none) ∧ (2 ≤ l → s.task.dbarm.getLsbD l = true)
    let n := s.me.ea.toList.getD (l - 1) 0
    let arrived := fun (t : State) => t.me.ea.toList.getD (l - 1) 0 = n + 1
      ∧ (∀ i, i ≠ l - 1 → t.me.ea.toList.getD i 0 = s.me.ea.toList.getD i 0) ∧ t.me.c = s.me.c ∧ t.me.p = s.me.p ∧ t.here.cu = s.here.cu
      ∧ ∀ k, memRead t.mem k = memRead s.mem k
    let others := fun (p : Eng → Prop) => ∀ e, e ≠ s.ix.eng → p (s.here.eng e)
    let ph := s.here.ph
    let phase := s.prior.phase s.ix.co s.task l
    let passed := 1 ≤ (phase.toNat + 2 ^ 16 - (s.g a).bits.toNat % 2 ^ 16) % 2 ^ 16
      ∧ (phase.toNat + 2 ^ 16 - (s.g a).bits.toNat % 2 ^ 16) % 2 ^ 16 < 2 ^ 15
    1 ≤ l → l ≤ 5 →
    (may → ∃ t, exec (.dbar lv) s = .next t ∧ arrived t ∧ t.me.g = s.me.g ∧ t.me.dbarHold = s.me.dbarHold ++ [(l, n)])
    ∧ (may → ∃ u t, arrived u ∧ WritesG u d ⟨BitVec.ofNat 64 n.toNat, false⟩ (.next t) ∧ u.me.g = s.me.g ∧ exec (.dbarA d lv) s = .next t
        ∧ (l = 1 → s.me.st ≠ .done → n = ph → others (fun e => e.st = .done) → t.here.ph = ph + 1)
        ∧ (l = 1 → s.me.st ≠ .done → n = ph → others (fun e => e.st ≠ .done ∧ e.ea.toList.getD 0 0 = ph) → t.here.ph = ph))
    ∧ ((s.g a).psn = false → may → passed → exec (.dbarW a lv) s = .next s)
    ∧ ((s.g a).psn = false → may → ¬passed → Blocks s (exec (.dbarW a lv) s))
    ∧ ((s.g a).psn = true → Traps s 0x31 (exec (.dbarW a lv) s))
    ∧ (¬may → Traps s 0x33 (exec (.dbar lv) s) ∧ Traps s 0x33 (exec (.dbarA d lv) s)
        ∧ ((s.g a).psn = false → Traps s 0x33 (exec (.dbarW a lv) s)))

/-- xget, xput, xmove and xfill enter their queue as the manual says. With unpoisoned operands, capabilities that pass R81 for
the whole extent, a barrier only for a destination in space 1 or 2, a channel of the engine's queue and room, the command
enters the queue with its addresses CURSOR + offset, length, barrier and visibility, and takes the channel's next ID; for
each of the four, a barrier field with another destination raises 0x33, a channel of the other queue raises 0x37 and a
full queue blocks; no byte moves at issue. That 0x33 comes before the checks of the channel and of the queue's room is the
model's choice (log entry 97: R131 gives no order). (R117, R120, R121, R125, R130, R131, R132, R133, R135.) -/
def Obligations.TransferCommands : Prop :=
  ∀ (s : State) (cd cs ch : BitVec 4) (ob oa len v : BitVec 6) (tb : BitVec 12) (vs : BitVec 3),
    let x := s.c cs
    let y := s.c cd
    let n := (s.g len).bits.toNat
    let sa : Int := x.cursor + (s.g oa).bits.toInt
    let da : Int := y.cursor + (s.g ob).bits.toInt
    let any := [1, 2, 3, 6, 7, 8]
    let clean := (s.g len).psn = false ∧ (s.g oa).psn = false ∧ (s.g ob).psn = false
    let tbOk := tb = 0 ∨ y.space = 1 ∨ y.space = 2
    let is := fun (op : XOp) (v : Nat) (c : Cmd) =>
      c.op = op ∧ c.cs = x ∧ c.cd = y ∧ c.sa = sa ∧ c.da = da ∧ c.len = n ∧ c.tb = tb.toNat ∧ c.vs = v
    let b := s.here.bind.get ch.toFin
    let mine := some (queueOfEng s.ix.eng)
    let stops := fun (o : Out) => (¬tbOk → Traps s 0x33 o) ∧ (tbOk → b ≠ none → b ≠ mine → Traps s 0x37 o)
      ∧ (tbOk → b = none ∨ b = mine → 32 ≤ (s.here.queued (queueOfEng s.ix.eng)).length → Blocks s o)
    clean →
    (s.CanEnter ch → tbOk → x.Allows any pLd sa n → y.Allows [1] pSt da n → Commits s ch (is .get 0) (exec (.xget cd ob cs oa len ch tb) s))
    ∧ (s.CanEnter ch → tbOk → x.Allows [1] pLd sa n → y.Allows any pSt da n →
        Commits s ch (is .put vs.toNat) (exec (.xput cd ob cs oa len ch tb vs) s))
    ∧ (s.CanEnter ch → tbOk → x.Allows any pLd sa n → y.Allows any pSt da n →
        Commits s ch (is .move vs.toNat) (exec (.xmove cd ob cs oa len ch tb vs) s))
    ∧ (s.CanEnter ch → tbOk → y.Allows any pSt da n → (s.g v).psn = false →
        Commits s ch (fun c => c.op = .fill ∧ c.cd = y ∧ c.da = da ∧ c.len = n ∧ c.v = (s.g v).bits ∧ c.tb = tb.toNat ∧ c.vs = vs.toNat)
          (exec (.xfill cd ob v len ch tb vs) s))
    ∧ (x.Allows any pLd sa n → y.Allows [1] pSt da n → stops (exec (.xget cd ob cs oa len ch tb) s))
    ∧ (x.Allows [1] pLd sa n → y.Allows any pSt da n → stops (exec (.xput cd ob cs oa len ch tb vs) s))
    ∧ (x.Allows any pLd sa n → y.Allows any pSt da n → stops (exec (.xmove cd ob cs oa len ch tb vs) s))
    ∧ (y.Allows any pSt da n → (s.g v).psn = false → stops (exec (.xfill cd ob v len ch tb vs) s))

/-- Two-dimensional and indexed copies enter their queue. The row forms check the first and the last row of both sides; the
indexed forms check the list through c8 and the contiguous side, and of the indexed side tag, space and permission; the
command carries addresses, length, strides and rows, or the list and its count. (R117, R121, R130, R131, R132, R133,
R134.) -/
def Obligations.RowAndListCommands : Prop :=
  ∀ (s : State) (cd cs ch : BitVec 4) (ob oa len v w : BitVec 6) (tb : BitVec 12) (rows : BitVec 13) (vs : BitVec 3),
    let x := s.c cs
    let y := s.c cd
    let n := (s.g len).bits.toNat
    let sa : Int := x.cursor + (s.g oa).bits.toInt
    let da : Int := y.cursor + (s.g ob).bits.toInt
    let any := [1, 2, 3, 6, 7, 8]
    let clean := (s.g len).psn = false ∧ (s.g oa).psn = false ∧ (s.g ob).psn = false ∧ (s.g v).psn = false ∧ (s.g w).psn = false
    let tbOk := tb = 0 ∨ y.space = 1 ∨ y.space = 2
    let last : Int := rows.toNat - 1
    let rowsOk := fun (src dst : List Nat) => x.Allows src pLd sa n ∧ x.Allows src pLd (sa + last * (s.g v).bits.toInt) n
      ∧ y.Allows dst pSt da n ∧ y.Allows dst pSt (da + last * (s.g w).bits.toInt) n
    let isRows := fun (op : XOp) (e : Nat) (c : Cmd) => c.op = op ∧ c.cs = x ∧ c.cd = y ∧ c.sa = sa ∧ c.da = da ∧ c.len = n
      ∧ c.v = (s.g v).bits ∧ c.w = (s.g w).bits ∧ c.rows = rows.toNat ∧ c.tb = tb.toNat ∧ c.vs = e
    let lst := (s.c 8).cursor + (s.g v).bits.toNat
    let cnt := (s.g w).bits.toNat
    let listOk := (s.c 8).Allows [1] pLd lst (4 * cnt) ∧ (s.g v).bits.toNat % 4 = 0
    let may := fun (z : CReg) (spaces : List Nat) (need : BitVec 12) =>
      z.tag = true ∧ z.space ∈ spaces ∧ z.has (if z.space = 7 then need ||| pSy else need) = true
    let isList := fun (op : XOp) (e : Nat) (c : Cmd) => c.op = op ∧ c.cs = x ∧ c.cd = y ∧ c.sa = sa ∧ c.da = da ∧ c.len = n
      ∧ c.rows = cnt ∧ c.lst = lst ∧ c.tb = tb.toNat ∧ c.vs = e
    clean → s.CanEnter ch → tbOk →
    (rowsOk any [1] → Commits s ch (isRows .get2d 0) (exec (.xget2d cd ob w cs oa v len ch tb rows) s))
    ∧ (rowsOk [1] any → Commits s ch (isRows .put2d vs.toNat) (exec (.xput2d cd ob w cs oa v len ch tb rows vs) s))
    ∧ (listOk → may x any pLd → y.Allows [1] pSt da (cnt * n) → Commits s ch (isList .gat 0) (exec (.xgat cd ob cs oa len v w ch tb) s))
    ∧ (listOk → may y any pSt → x.Allows [1] pLd sa (cnt * n) →
        Commits s ch (isList .sct vs.toNat) (exec (.xsct cd ob cs oa len v w ch tb vs) s))

/-- Accumulations enter their queue, and a round tag numbers them. With a readable source in own local memory, ac on the
destination, both aligned to the element and a length of whole elements, each xacc form enters its queue with its
operation; with a round tag (add.f32) the destination lies in the bounds of a tagged footprint and the engine's sequence
number rises. (R117, R121, R246, R247, R248, R249, R253.) -/
def Obligations.AccumulateCommands : Prop :=
  ∀ (s : State) (cd cs ch : BitVec 4) (ob oa len : BitVec 6) (rt : BitVec 12),
    let x := s.c cs
    let y := s.c cd
    let n := (s.g len).bits.toNat
    let sa : Int := x.cursor + (s.g oa).bits.toInt
    let da : Int := y.cursor + (s.g ob).bits.toInt
    let clean := (s.g len).psn = false ∧ (s.g oa).psn = false ∧ (s.g ob).psn = false
    let ok := fun (e : Nat) (dst : List Nat) =>
      x.Allows [1] pLd sa n ∧ y.Allows dst pAc da n ∧ sa % e = 0 ∧ da % e = 0 ∧ n % e = 0
    let is := fun (k : AccOp) (r : Nat) (c : Cmd) => c.op = .acc k ∧ c.cs = x ∧ c.cd = y ∧ c.sa = sa ∧ c.da = da ∧ c.len = n ∧ c.rt = r
    let plain := fun (k : AccOp) (o : Out) => ok 4 [1, 2, 3] → Commits s ch (is k 0) o
    let seq := tabGet 0 s.me.seqs rt.toNat
    clean → s.CanEnter ch →
    plain .addS32 (exec (.xaccAddS32 cd ob cs oa len ch) s)
    ∧ (ok 8 [1, 2, 3] → Commits s ch (is .addS64 0) (exec (.xaccAddS64 cd ob cs oa len ch) s))
    ∧ plain .addF32 (exec (.xaccAddF32 cd ob cs oa len ch 0) s)
    ∧ plain .minS32 (exec (.xaccMinS32 cd ob cs oa len ch) s)
    ∧ plain .maxS32 (exec (.xaccMaxS32 cd ob cs oa len ch) s)
    ∧ plain .minF32 (exec (.xaccMinF32 cd ob cs oa len ch) s)
    ∧ plain .maxF32 (exec (.xaccMaxF32 cd ob cs oa len ch) s)
    ∧ plain .and (exec (.xaccAnd cd ob cs oa len ch) s)
    ∧ plain .or (exec (.xaccOr cd ob cs oa len ch) s)
    ∧ plain .xor (exec (.xaccXor cd ob cs oa len ch) s)
    ∧ (rt ≠ 0 → ok 4 [3] → (∃ f ∈ s.task.tagged rt.toNat, (f.cap.base : Int) ≤ da ∧ da + n ≤ f.cap.top) →
        ∃ u, Becomes s (s.here.setEng s.ix.eng { s.me with seqs := tabPut (seq + 1) rt.toNat s.me.seqs }) (.next u)
          ∧ Commits u ch (fun c => is .addF32 rt.toNat c ∧ c.seq = seq ∧ c.round = tabGet 0 s.me.closes rt.toNat + 1)
              (exec (.xaccAddF32 cd ob cs oa len ch rt) s))
    ∧ (rt ≠ 0 → ok 4 [3] → s.task.tagged rt.toNat = [] → Traps s 0x37 (exec (.xaccAddF32 cd ob cs oa len ch rt) s))

/-- Atomics and the close of a round enter their queue. With ar on the destination (and cl for xcas.go), a writable aligned
granule of own local memory for the returned value, an aligned destination, a continuation the launch has, and under a
round tag a tagged footprint around the destination, the command enters its queue; xclose closes the engine's round of a
tag that a footprint carries and raises 0x37 of any other. (R117, R121, R246, R247, R250, R251, R253, R255, R261.) -/
def Obligations.AtomicCommands : Prop :=
  ∀ (s : State) (cd cl ch : BitVec 4) (ob v w ol : BitVec 6) (tb task rt : BitVec 12),
    let x := s.c cl
    let y := s.c cd
    let sa : Int := x.cursor + (s.g ol).bits.toInt
    let da : Int := y.cursor + (s.g ob).bits.toInt
    let clean := (s.g ob).psn = false ∧ (s.g ol).psn = false ∧ (s.g v).psn = false ∧ (s.g w).psn = false
    let ok := fun (e : Nat) (need : BitVec 12) => y.Allows (if rt = 0 then [1, 2, 3] else [3]) need da e ∧ x.Allows [1] pSt sa 16
      ∧ da % e = 0 ∧ sa % 16 = 0 ∧ (rt ≠ 0 → ∃ f ∈ s.task.tagged rt.toNat, (f.cap.base : Int) ≤ da ∧ da + e ≤ f.cap.top)
    let seq := tabGet 0 s.me.seqs rt.toNat
    let round := tabGet 0 s.me.closes rt.toNat + 1
    let enters := fun (p : Cmd → Prop) (o : Out) => if rt = 0 then Commits s ch p o else
      ∃ u, Becomes s (s.here.setEng s.ix.eng { s.me with seqs := tabPut (seq + 1) rt.toNat s.me.seqs }) (.next u)
        ∧ Commits u ch (fun c => p c ∧ c.seq = seq ∧ c.round = round) o
    let is := fun (op : XOp) (e : Nat) (w : Word) (name : Nat) (c : Cmd) => c.op = op ∧ c.cs = x ∧ c.cd = y ∧ c.sa = sa ∧ c.da = da
      ∧ c.len = e ∧ c.v = (s.g v).bits ∧ c.w = w ∧ c.tb = tb.toNat ∧ c.name = name ∧ c.rt = rt.toNat
    clean → s.CanEnter ch →
    (ok 4 pAr → enters (is .fadd32 4 0 0) (exec (.xfaddS32 cd ob v cl ol ch tb rt) s))
    ∧ (ok 8 pAr → enters (is .fadd64 8 0 0) (exec (.xfaddS64 cd ob v cl ol ch tb rt) s))
    ∧ (ok 8 pAr → enters (is .swp 8 0 0) (exec (.xswp cd ob v cl ol ch tb rt) s))
    ∧ (ok 8 pAr → enters (is .cas 8 (s.g w).bits 0) (exec (.xcas cd ob v w cl ol ch tb rt) s))
    ∧ (ok 8 (pAr ||| pCl) → task.toNat ≤ s.task.ncont →
        enters (is .casGo 8 (s.g w).bits task.toNat) (exec (.xcasGo cd ob v w cl ol ch tb task rt) s))
    ∧ (ok 8 (pAr ||| pCl) → s.task.ncont < task.toNat → Traps s 0x50 (exec (.xcasGo cd ob v w cl ol ch tb task rt) s))
    ∧ (s.task.tagged rt.toNat ≠ [] →
        ∃ u, Becomes s (s.here.setEng s.ix.eng { s.me with closes := tabPut round rt.toNat s.me.closes }) (.next u)
          ∧ Commits u ch (fun c => c.op = .close ∧ c.rt = rt.toNat ∧ c.round = round) (exec (.xclose ch rt) s))
    ∧ (s.task.tagged rt.toNat = [] → Traps s 0x37 (exec (.xclose ch rt) s))

/-- Status instructions wait for, read and order copy commands. xwait completes, changing nothing, once the status covers the
ID in gV (the oldest command of the channel's class still short of it, or NEXTID, is after it), blocks until then, and
raises 0x37 for an ID after LAST; xid reads LAST, the three statuses and the binding as they stood before the group;
xorder appends a marker to the engine's queue or blocks while it is full. That xwait too is judged on the statuses and
NEXTID as they stood before the group is the model's choice (log entry 30: R137 says so of xid). (R65, R117, R121, R122,
R136, R137, R138.) -/
def Obligations.ChannelStatus : Prop :=
  ∀ (s : State) (v : BitVec 6) (ch : BitVec 4) (aux : BitVec 3),
    let k := s.herePrior
    let id := BitVec.ofNat 32 (s.g v).bits.toNat
    let next := k.nextid.get ch.toFin
    let later := fun (a b : BitVec 32) => 1 ≤ (a - b).toNat ∧ (a - b).toNat < 2 ^ 31
    let oldest := fun (p : Cmd → Bool) => match k.cmds.find? (fun c => c.ch == ch.toNat && p c) with
      | some c => c.id
      | none => next
    let inn := oldest (fun c => c.op != .order && c.cd.space == 1 && !c.performed)
    let rel := oldest (fun c => c.op != .order && c.cd.space != 1 && !c.released)
    let vis := oldest (fun c => c.op != .order && c.cd.space != 1 && !c.visible)
    let waits := fun (st : BitVec 32) (o : Out) => (s.g v).psn = false →
      (later id (next - 1) → Traps s 0x37 o) ∧ (¬later id (next - 1) → later st id → o = .next s)
      ∧ (¬later id (next - 1) → ¬later st id → Blocks s o)
    let reads := fun (x : BitVec 32) => WritesG s v ⟨BitVec.ofNat 64 x.toNat, false⟩ (exec (.xid v ch aux) s)
    let q := queueOfEng s.ix.eng
    waits inn (exec (.xwaitIn v ch) s)
    ∧ waits rel (exec (.xwaitRel v ch) s)
    ∧ waits vis (exec (.xwaitVis v ch) s)
    ∧ ((s.g v).psn = true → Traps s 0x31 (exec (.xwaitIn v ch) s))
    ∧ (aux = 0 → reads (next - 1)) ∧ (aux = 1 → reads inn) ∧ (aux = 2 → reads rel) ∧ (aux = 3 → reads vis)
    ∧ (aux = 4 → reads (match k.bind.get ch.toFin with
      | none => 0
      | some .load => 1
      | some .store => 2))
    ∧ ((s.here.queued q).length < 32 → ∃ c : Cmd, Becomes s { s.here with cmds := s.here.cmds ++ [c], uid := s.here.uid + 1 } (exec (.xorder) s)
        ∧ c.op = .order ∧ c.q = q ∧ c.started = false)
    ∧ (32 ≤ (s.here.queued q).length → Blocks s (exec (.xorder) s))

/-- Leases, the format table and calibration. lease completes where the array is in service, the core held no lease before the
group and the array is free with no core waiting or granted to it: HELD 1, LEFT n, RUNS + 1; it raises 0x35 while held and
blocks otherwise; unlease ends the run and discards the loaded B; ftset and ftget write and read an entry; tcal begins a
calibration for a calibration task with sy on a quiet array, raises 0x35 on a leased one or with a tile or race of the
insula pending, and 0x12 for any other code. (R215, R218, R219, R220, R221, R222, R229.) -/
def Obligations.LeasesAndFormats : Prop :=
  ∀ (s : State) (a d : BitVec 6) (n : BitVec 7) (f segs : BitVec 4),
    let arr := s.arrHere
    let before := s.prior.arr s.ix.co.isle (CoreId.ins s.ix.co)
    let pos := s.ix.co.core % 4
    let mine := if before.leased then before.holder.toNat = pos else before.waiting = []
    let quiet := fun (t : State) => t.me = s.me ∧ t.here.cu = s.here.cu ∧ (∀ k, memRead t.mem k = memRead s.mem k) ∧ s.OnlyArr t
    let calOk := arr.segs ≠ 0 ∧ arr.cal ≠ 4
    let may := s.task.calib = true ∧ s.me.pcc.has pSy = true
    (calOk → s.herePrior.leaseHeld = false → mine →
      ∃ t, exec (.lease n) s = .next t ∧ quiet t ∧ t.here.leaseHeld = true ∧ t.here.leaseLeft = n
        ∧ t.here.leaseRuns = s.here.leaseRuns + 1 ∧ t.arrHere.leased = true ∧ t.arrHere.holder.toNat = pos ∧ t.arrHere.loaded = arr.loaded)
    ∧ (calOk → s.herePrior.leaseHeld = false → ¬mine → Blocks s (exec (.lease n) s))
    ∧ (calOk → s.herePrior.leaseHeld = true → Traps s 0x35 (exec (.lease n) s))
    ∧ (arr.segs = 0 → Traps s 0x36 (exec (.lease n) s))
    ∧ (s.herePrior.leaseHeld = true →
      ∃ t, exec (.unlease) s = .next t ∧ quiet t ∧ t.here.leaseHeld = false ∧ t.here.leaseLeft = 0 ∧ t.here.leaseRuns = s.here.leaseRuns
        ∧ t.arrHere.leased = false ∧ t.arrHere.loaded = none ∧ t.arrHere.holder = arr.holder)
    ∧ (s.herePrior.leaseHeld = false → Traps s 0x35 (exec (.unlease) s))
    ∧ ((s.g a).psn = false → Becomes s { s.here with cu := { s.here.cu with
        ft := s.here.cu.ft.set f.toNat (BitVec.ofNat 32 (s.g a).bits.toNat) f.isLt } } (exec (.ftset f a) s))
    ∧ ((s.g a).psn = true → Traps s 0x31 (exec (.ftset f a) s))
    ∧ WritesG s d ⟨BitVec.ofNat 64 (s.here.cu.ft.get f.toFin).toNat, false⟩ (exec (.ftget d f) s)
    ∧ (may → calOk → arr.leased = false → (∀ i, i < 4 → (s.toHw.core ⟨s.ix.co.isle, 4 * (s.ix.co.core / 4) + i⟩).pendingArr = 0) →
      ∃ t, exec (.tcal d segs) s = .next t ∧ quiet t ∧ t.here = s.here ∧ t.arrHere.cal = 2 ∧ t.arrHere.loaded = none
        ∧ t.arrHere.calib = some (pos, (if segs = 0 then arr.segs else segs &&& arr.segs).toNat, d))
    ∧ (may → calOk → arr.leased = true → Traps s 0x35 (exec (.tcal d segs) s))
    ∧ (may → calOk → (∃ i, i < 4 ∧ (s.toHw.core ⟨s.ix.co.isle, 4 * (s.ix.co.core / 4) + i⟩).pendingArr ≠ 0) →
        Traps s 0x35 (exec (.tcal d segs) s))
    ∧ (¬may → Traps s 0x12 (exec (.tcal d segs) s))

/-- Tile commands set the B operand and enter tiles under a lease. Under a lease with room, with a resolved profile, extents
that pass R81, aligned to 64 and (A and B local) in different bank groups: tload sets the run's B operand; tmma and
tmma.ga take a landing slot for a tile of its rows against the loaded B of the same format, due at LAND or with an earlier
tile of a common slot; each reduces LEFT and the run ends at 0; without a lease 0x35; no byte of memory changes at issue.
That the effective address of an operand is what must be a multiple of 64 is log entry 100, and that a tile is checked
against the B loaded before its group is log entry 18: both are the model's choices. (R206, R215, R216, R217, R218, R221,
R223, R224, R225, R226.) -/
def Obligations.TileCommands : Prop :=
  ∀ (s : State) (aa ab : BitVec 6) (slot : BitVec 4) (prof rows land : BitVec 8) (cops : BitVec 32) (f : TileFmt) (a b : Nat) (lb : LoadedB),
    let gb := (s.g ab).bits
    let m := rows.toNat
    let calOk := s.arrHere.segs ≠ 0 ∧ s.arrHere.cal ≠ 4
    let clean := (s.g aa).psn = false ∧ (s.g ab).psn = false
    let lease := s.herePrior.leaseHeld = true ∧ s.ix.tiles ≤ s.herePrior.leaseLeft.toNat
    let local8 := fun (ea : Int) (a n : Nat) => ea = a ∧ (s.c 8).Allows [1] pLd a n ∧ a + n ≤ 2 ^ 19 ∧ a % 64 = 0
    let nb := extentB f.prof f.scaled
    let na := extentA f.prof m f.scaled
    let bOk := local8 ((s.c 8).cursor + gb.toInt) b nb
    let left := s.here.leaseLeft - 1
    let spent := fun (t : State) => t.here.leaseLeft = (if left = 0 then 0 else left) ∧ t.here.leaseHeld = (s.here.leaseHeld && decide (left ≠ 0))
      ∧ t.here.cu = s.here.cu ∧ (∀ k, memRead t.mem k = memRead s.mem k)
    let tile := fun (k : Nat) (g : Option Nat) (o : Out) =>
      ∃ t i x, o = .next t ∧ spent t ∧ i < 32 ∧ tabFind s.here.slots i = none ∧ tabFind t.here.slots i = some x ∧ x.kind = .tile
        ∧ (∀ j, j ≠ i → tabFind t.here.slots j = tabFind s.here.slots j)
        ∧ s.here.cyc + land.toNat ≤ x.due ∧ x.arrived = false
        ∧ (s.here.tileOn (slotsOf slot.toNat m) = [] → x.due = s.here.cyc + land.toNat)
        ∧ ∃ j, x.tile = some j ∧ j.slot = slot.toNat ∧ j.rows = m ∧ j.k = k ∧ j.prof = f.prof ∧ j.scaled = f.scaled ∧ j.aOff = a ∧ j.bOff = b
          ∧ j.cops = cops ∧ j.globalA = g
    let shape := slot.toNat + (m + 7) / 8 ≤ 16 ∧ (∀ i, i < 16 → copsStep cops i ∈ profSteps f.prof)
    let loaded := (s.prior.arr s.ix.co.isle (CoreId.ins s.ix.co)).loaded = some lb ∧ lb.off = gb.toNat ∧ lb.prof = f.prof
      ∧ lb.bfmt = f.bfmt ∧ lb.scale = f.scale
    let apart := ∀ i j, a ≤ i → i < a + na → b ≤ j → j < b + nb → i / 65536 ≠ j / 65536
    (calOk → (s.g ab).psn = false → lease → s.resolve prof m m = .ok f → m ≤ 64 → bOk →
      ∃ t, exec (.tload ab prof rows) s = .next t ∧ spent t ∧ t.here.slots = s.here.slots
        ∧ t.arrHere.loaded = if left = 0 then none else some ⟨gb.toNat, s.ix.co.core % 4, m, f.prof, f.bfmt, f.scale⟩)
    ∧ (calOk → clean → lease → s.resolve prof lb.k m = .ok f → shape → loaded → bOk → s.here.pendingArr < 8 → s.SlotFree →
      (local8 ((s.c 8).cursor + (s.g aa).bits.toInt) a na → apart → tile lb.k none (exec (.tmma slot aa ab prof rows land cops) s))
      ∧ (((s.c 10).cursor : Int) + (s.g aa).bits.toInt = a → (s.c 10).Allows [3] pLd a na → a % 64 = 0 →
          tile lb.k (some a) (exec (.tmmaGa slot aa ab prof rows land cops) s)))
    ∧ (calOk → clean → ¬lease → Traps s 0x35 (exec (.tload ab prof rows) s) ∧ Traps s 0x35 (exec (.tmma slot aa ab prof rows land cops) s)
        ∧ Traps s 0x35 (exec (.tmmaGa slot aa ab prof rows land cops) s))

/-- Accumulator slots are cleared, read and written a half row at a time. With no pending tile on the slots named, tzero
clears the words of its rows and no other, tacc.rd merges 32 words of half a slot row into the active lanes (clearing them
with FN = 1), tacc.wr stores the active lanes of vA, a poisoned one raising 0x31; a pending tile blocks each of the three;
tshape reports work, passes and digit passes of a shape in range, poisoned with gA. (R191, R205, R217, R227, R228.) -/
def Obligations.AccumulatorSlots : Prop :=
  ∀ (s : State) (d a va vd : BitVec 6) (slot : BitVec 4) (rows c prof : BitVec 8) (clr : BitVec 1) (mk : BitVec 3) (f : TileFmt),
    let m := rows.toNat
    let free := fun (ss : List Nat) => s.herePrior.tileOn ss = []
    let place := fun (l : Nat) => slotKey s.ix.co (c.toNat / 16) (c.toNat % 16 / 2) (c.toNat % 2 * 32 + l)
    let b := fun (k : Nat) => memRead s.mem k
    let word := fun (k : Nat) => (b (k + 3) ++ b (k + 2) ++ b (k + 1) ++ b k : BitVec 32)
    let act := fun (l : Nat) => (s.m mk).getLsbD l
    let inRow := fun (k : Nat) => ∃ l, l < 32 ∧ act l = true ∧ place l ≤ k ∧ k < place l + 4
    let cleared := fun (k : Nat) => ∃ r, r < m ∧ slotKey s.ix.co (slot.toNat + r / 8) (r % 8) 0 ≤ k
      ∧ k < slotKey s.ix.co (slot.toNat + r / 8) (r % 8) 0 + 256
    let k := (s.g a).bits.toNat % 256
    let n := (s.g a).bits.toNat / 256 % 256
    let p := profPasses f.prof
    let h := ((k + 15) / 16 + s.arrHere.nsegs - 1) / s.arrHere.nsegs
    (s.Inv → slot.toNat + (m + 7) / 8 ≤ 16 → free (slotsOf slot.toNat m) →
      ∃ t, exec (.tzero slot rows) s = .next t ∧ s.OnlyMem t ∧ (∀ k, cleared k → memRead t.mem k = 0)
        ∧ ∀ k, ¬cleared k → memRead t.mem k = b k)
    ∧ (16 < slot.toNat + (m + 7) / 8 → Traps s 0x36 (exec (.tzero slot rows) s))
    ∧ (s.Inv → free [c.toNat / 16] →
      ∃ t u, MergesV s vd mk (fun l => word (place l)) (fun _ => false) 0 (.next u) ∧ exec (.taccRd vd c clr mk) s = .next t
        ∧ u.OnlyMem t ∧ (clr = 0 → t = u) ∧ (clr = 1 → (∀ k, inRow k → memRead t.mem k = 0) ∧ ∀ k, ¬inRow k → memRead t.mem k = b k))
    ∧ (s.Inv → free [c.toNat / 16] → (∀ l, l < 32 → act l = true → (s.v va).psn.getLsbD l = false) →
      ∃ t, exec (.taccWr va c mk) s = .next t ∧ s.OnlyMem t
        ∧ (∀ l i, l < 32 → i < 4 → act l = true → memRead t.mem (place l + i) = ((s.v va).lane l).extractLsb' (8 * i) 8)
        ∧ ∀ k, ¬inRow k → memRead t.mem k = b k)
    ∧ (∀ l, l < 32 → act l = true → (s.v va).psn.getLsbD l = true → Traps s 0x31 (exec (.taccWr va c mk) s))
    ∧ (¬free [c.toNat / 16] → Blocks s (exec (.taccRd vd c clr mk) s))
    ∧ (¬free [c.toNat / 16] → (∀ l, l < 32 → act l = true → (s.v va).psn.getLsbD l = false) → Blocks s (exec (.taccWr va c mk) s))
    ∧ (slot.toNat + (m + 7) / 8 ≤ 16 → ¬free (slotsOf slot.toNat m) → Blocks s (exec (.tzero slot rows) s))
    ∧ (s.arrHere.segs ≠ 0 → s.arrHere.cal ≠ 4 → s.resolve prof k n = .ok f → 1 ≤ k → k ≤ 64 → 1 ≤ n → n ≤ 128 →
      WritesG s d ⟨BitVec.ofNat 64 ((23 + (if s.arrHere.cal = 0 then 64 else 1) * (p * h * n)) % 2 ^ 32 + h % 256 * 2 ^ 32
        + p % 256 * 2 ^ 40), (s.g a).psn⟩ (exec (.tshape d a prof) s))

/-- Races select and order keys and land as a block of five registers. On a calibrated array with fewer than 8 pending and a
free slot, each race takes a landing slot, due at LAND, whose five registers list the selected positions: valid, distinct
in index, in race order, none valid left out but a duplicate of a better one or one that ranks after a full selection; the
rest is fill; the summary gives the sums of the selected and the left-out keys in ascending index, the counts of NaN,
duplicate, selected, distinct valid and tied positions and the windows used; every lane is poisoned when an active key,
the index base, the query or an active index is, else none. For every form, an array out of service raises 0x36 and 8
pending block. (R50, R51, R232, R233, R234, R235, R236, R237, R239, R240, R241, R242.) -/
def Obligations.RaceResults : Prop :=
  ∀ (s : State) (vd va vb vc : BitVec 6) (mk : BitVec 3) (kk : BitVec 7) (land : BitVec 8),
    let on := fun (j : Nat) => decide (j < 64) && (s.m mk).getLsbD (j % 32) && (decide (j < 32) || va != vb)
    let act := fun (j : Nat) => on j = true
    let key := fun (j : Nat) => if j < 32 then (s.v va).lane j else (s.v vb).lane (j - 32)
    let gen := fun (j : Nat) => BitVec.ofNat 32 (((s.v vc).lane 0).toNat + j)
    let listed := fun (j : Nat) => if j < 32 then (s.v vc).lane j else (s.v (vc + 1)).lane (j - 32)
    let kf := fun (j : Nat) => raceKeyF32 (key j)
    let ks := fun (j : Nat) => some (key j ^^^ 0x80000000#32)
    let km := fun (j : Nat) => if listed j = 0xFFFFFFFF#32 then none else raceKeyF32 (key j)
    let kn := fun (j : Nat) => knnKey ((s.v vc).lane 1) (key j)
    let merged := fun (j : Nat) => listed j == 0xFFFFFFFF#32
    let sum := fun (fill : Lane) (l : List Nat) =>
      l.foldl (fun t p => if fill = 0 then t + key p else f32Add t (key p)) (if fill = 0 then 0 else 0x80000000#32)
    let sameTop := fun (b : Nat) (K : Nat → Option Lane) =>
      ∃ p q x y, p ≠ q ∧ on p = true ∧ on q = true ∧ K p = some x ∧ K q = some y ∧ x.toNat / 2 ^ b = y.toNat / 2 ^ b
    let before := fun (desc : Bool) (K : Nat → Option Lane) (ix : Nat → Lane) (p q : Nat) => ∃ a b, K p = some a ∧ K q = some b ∧
      (if a = b then (ix p).toNat < (ix q).toNat ∨ (ix p = ix q ∧ p < q) else if desc then b.toNat < a.toNat else a.toNat < b.toNat)
    let block := fun (desc : Bool) (K : Nat → Option Lane) (ix : Nat → Lane) (fill : Lane) (empty : Nat → Bool) (regs : List VReg) =>
      ∃ (v0 v1 v2 v3 v4 : VReg) (r : Nat → Nat) (out : List Nat), regs = [v0, v1, v2, v3, v4]
        ∧ (v4.lane 4).toNat ≤ kk.toNat
        ∧ (∀ i, i < (v4.lane 4).toNat → act (r i) ∧ K (r i) ≠ none
            ∧ ∀ j, j < i → before desc K ix (r j) (r i) ∧ ix (r j) ≠ ix (r i))
        ∧ (∀ p, act p → K p ≠ none → (∃ i, i < (v4.lane 4).toNat ∧ r i = p)
            ∨ (∃ q, act q ∧ ix q = ix p ∧ before desc K ix q p)
            ∨ ((v4.lane 4).toNat = kk.toNat ∧ ∀ i, i < kk.toNat → before desc K ix (r i) p))
        ∧ (∀ i, i < 64 → (if i < 32 then v0.lane i else v1.lane (i - 32)) = (if i < (v4.lane 4).toNat then key (r i) else fill)
            ∧ (if i < 32 then v2.lane i else v3.lane (i - 32)) = (if i < (v4.lane 4).toNat then ix (r i) else 0xFFFFFFFF#32))
        ∧ (let nsel := (v4.lane 4).toNat
          (∀ p, p ∈ out ↔ act p ∧ K p ≠ none ∧ (∀ q, act q → K q ≠ none → ix q = ix p → q ≠ p → before desc K ix p q)
              ∧ ∀ i, i < nsel → r i ≠ p)
          ∧ out.Pairwise (fun p q => (ix p).toNat < (ix q).toNat)
          ∧ (∃ sel : List Nat, (∀ p, p ∈ sel ↔ ∃ i, i < nsel ∧ r i = p) ∧ sel.Pairwise (fun p q => (ix p).toNat < (ix q).toNat)
              ∧ v4.lane 0 = sum fill sel)
          ∧ v4.lane 1 = sum fill out
          ∧ (v4.lane 2).toNat = (List.range 64).countP (fun j => on j && !empty j && (K j).isNone)
          ∧ (v4.lane 3).toNat + (v4.lane 5).toNat = (List.range 64).countP (fun j => on j && (K j).isSome)
          ∧ (v4.lane 5).toNat = nsel + out.length
          ∧ (v4.lane 6).toNat = (if nsel = 0 then 0 else out.countP (fun p => K p == K (r (nsel - 1))))
          ∧ (sameTop 8 K → v4.lane 7 = 3) ∧ (¬sameTop 8 K → sameTop 20 K → v4.lane 7 = 2) ∧ (¬sameTop 8 K → ¬sameTop 20 K → v4.lane 7 = 1)
          ∧ ∀ l, 8 ≤ l → l < 32 → v4.lane l = 0)
        ∧ v1.psn = v0.psn ∧ v2.psn = v0.psn ∧ v3.psn = v0.psn ∧ v4.psn = v0.psn
        ∧ v0.side = 0 ∧ v1.side = 0 ∧ v2.side = 0 ∧ v3.side = 0 ∧ v4.side = 0
    let keyPsn := (List.range 64).any (fun j => on j && (if j < 32 then (s.v va).psn.getLsbD j else (s.v vb).psn.getLsbD (j - 32)))
    let listPsn := (List.range 64).any (fun j => on j && (if j < 32 then (s.v vc).psn.getLsbD j else (s.v (vc + 1)).psn.getLsbD (j - 32)))
    let base := (s.v vc).psn.getLsbD 0
    let lands := fun (desc : Bool) (K : Nat → Option Lane) (ix : Nat → Lane) (fill : Lane) (empty : Nat → Bool) (psn : Bool) => TakesSlot s (fun x =>
      x.kind = .race ∧ x.dest = vd.toNat ∧ x.due = s.here.cyc + land.toNat ∧ block desc K ix fill empty x.regs
        ∧ ∀ v ∈ x.regs, v.psn = if keyPsn || psn then 0xFFFFFFFF#32 else 0)
    let races : List Out := [exec (.rminF32 vd va vb vc mk kk land) s, exec (.rmaxF32 vd va vb vc mk kk land) s,
      exec (.rminS32 vd va vb vc mk kk land) s, exec (.rmaxS32 vd va vb vc mk kk land) s, exec (.rsortF32 vd va vb vc mk kk land) s,
      exec (.rsortdF32 vd va vb vc mk kk land) s, exec (.rsortS32 vd va vb vc mk kk land) s, exec (.rtopkF32 vd va vb vc mk kk land) s,
      exec (.rbotkF32 vd va vb vc mk kk land) s, exec (.rtopkS32 vd va vb vc mk kk land) s, exec (.rmergeF32 vd va vb vc mk kk land) s,
      exec (.rmergdF32 vd va vb vc mk kk land) s, exec (.rknnF32 vd va vb vc mk kk land) s]
    let nan := 0x7FC00000#32
    let no := fun (_ : Nat) => false
    let calOk := s.arrHere.segs ≠ 0 ∧ s.arrHere.cal ≠ 4
    (calOk → s.here.pendingArr < 8 → s.SlotFree → 1 ≤ kk.toNat → kk.toNat ≤ 64 →
      lands false kf gen nan no base (exec (.rminF32 vd va vb vc mk kk land) s)
      ∧ lands true kf gen nan no base (exec (.rmaxF32 vd va vb vc mk kk land) s)
      ∧ lands false ks gen 0 no base (exec (.rminS32 vd va vb vc mk kk land) s)
      ∧ lands true ks gen 0 no base (exec (.rmaxS32 vd va vb vc mk kk land) s)
      ∧ lands false kf gen nan no base (exec (.rsortF32 vd va vb vc mk kk land) s)
      ∧ lands true kf gen nan no base (exec (.rsortdF32 vd va vb vc mk kk land) s)
      ∧ lands false ks gen 0 no base (exec (.rsortS32 vd va vb vc mk kk land) s)
      ∧ lands true kf gen nan no base (exec (.rtopkF32 vd va vb vc mk kk land) s)
      ∧ lands false kf gen nan no base (exec (.rbotkF32 vd va vb vc mk kk land) s)
      ∧ lands true ks gen 0 no base (exec (.rtopkS32 vd va vb vc mk kk land) s)
      ∧ lands false km listed nan merged listPsn (exec (.rmergeF32 vd va vb vc mk kk land) s)
      ∧ lands true km listed nan merged listPsn (exec (.rmergdF32 vd va vb vc mk kk land) s)
      ∧ lands false kn gen nan no (base || (s.v vc).psn.getLsbD 1) (exec (.rknnF32 vd va vb vc mk kk land) s))
    ∧ ∀ o ∈ races, (s.arrHere.segs = 0 → Traps s 0x36 o) ∧ (s.arrHere.cal = 4 → Traps s 0x36 o)
      ∧ (calOk → 8 ≤ s.here.pendingArr → Blocks s o)

/-- Stream endpoints open, reserve, take, close and report; await.mem asks for a line. Through a handle of a square's ring
with sp or sg: sopen opens a side that is not open, of a valid ring of the launch, with fewer than four endpoints; sput
reserves the next slot and returns its number where there is room; sget takes the oldest published slot, or returns all
ones of a ring that is empty and closed; sclose closes the side, or both sides, that its selector names, blocks while a
reserved slot is not published, and raises 0x38 where no such side is open; sstat reports; await.mem records its line,
value and register; no byte of memory changes at issue. That gA of sput and sget is a signed offset from c8.CURSOR is the
model's choice (log entry 98: R272 does not say). (R266, R269, R270, R271, R272, R273, R274, R275, R404.) -/
def Obligations.StreamsAndWaits : Prop :=
  ∀ (s : State) (d a x : BitVec 6) (q cb : BitVec 4) (sc : BitVec 3) (off : BitVec 32) (r : BitVec 1) (sel : BitVec 2) (site n o : Nat),
    let c := s.c q
    let ring := s.toHw.ring site n
    let handle := fun (need : BitVec 12) => c.cursor = site * 2 ^ 32 + n ∧ n < 1024 ∧ squareOk site = true ∧ c.Allows [4] need c.cursor 1
    let side := fun (producer : Bool) (e : Endpoint) => s.me.endpoint site n producer = some e
    let only := fun (producer : Bool) (e : Endpoint) => ∀ y ∈ s.me.eps, y.site = site → y.ring = n → y.producer = producer → y = e
    let regs := fun (t : State) => t.me.g = s.me.g ∧ t.me.c = s.me.c ∧ t.me.p = s.me.p ∧ t.here.cu = s.here.cu
      ∧ ∀ k, memRead t.mem k = memRead s.mem k
    let extent := fun (need : BitVec 12) => ((s.c 8).cursor : Int) + (s.g a).bits.toInt = o ∧ (s.c 8).Allows [1] need o (2 ^ (ring.slog.toNat + 8))
      ∧ o + 2 ^ (ring.slog.toNat + 8) ≤ 2 ^ 19 ∧ o % 16 = 0
    let ea : Int := ((s.c cb).cursor : Int) + off.toInt + (s.g x).bits.toInt * 2 ^ sc.toNat
    let taken := (s.toHw.streams.filter (fun c => c.site = site ∧ c.ring = n ∧ c.put = false)).length
    let seq := ring.getseq + BitVec.ofNat 32 taken
    (handle (if r = 0 then pSp else pSg) → s.toHw.sideOpen site n (r == 0) = false → s.me.eps.length < 4 → ring.v = true →
        ring.owner.toNat = s.task.lid →
      ∃ (t : State) (e : Endpoint), exec (.sopen q r) s = .next t ∧ regs t ∧ t.me.eps = s.me.eps ++ [e] ∧ e.site = site ∧ e.ring = n ∧ e.producer = (r == 0)
        ∧ (r = 0 → e.res = ring.putseq ∧ t.toHw.ring site n = { ring with pcl := false })
        ∧ (r = 1 → t.toHw.ring site n = { ring with ccl := false }))
    ∧ (handle (if r = 0 then pSp else pSg) → s.toHw.sideOpen site n (r == 0) = true ∨ 4 ≤ s.me.eps.length ∨ ring.v = false
        ∨ ring.owner.toNat ≠ s.task.lid → Traps s 0x38 (exec (.sopen q r) s))
    ∧ (∀ e : Endpoint, (s.g a).psn = false → handle pSp → side true e → extent pLd → (e.res - ring.getseq).toNat < ring.nslot.toNat →
      ∃ u : State, WritesG u d ⟨BitVec.ofNat 64 e.res.toNat, false⟩ (exec (.sput d q a) s) ∧ regs u
        ∧ (∃ y : StreamCopy, u.toHw.streams = s.toHw.streams ++ [y] ∧ y.site = site ∧ y.ring = n ∧ y.put = true ∧ y.seq = e.res ∧ y.off = o
          ∧ y.size = 2 ^ (ring.slog.toNat + 8) ∧ y.co = s.ix.co)
        ∧ u.me.eps = s.me.eps.map (fun y => if y = e then { y with res := y.res + 1 } else y))
    ∧ (∀ e : Endpoint, (s.g a).psn = false → handle pSp → side true e → extent pLd → ring.nslot.toNat ≤ (e.res - ring.getseq).toNat →
        (ring.ccl = true → Traps s 0x38 (exec (.sput d q a) s)) ∧ (ring.ccl = false → Blocks s (exec (.sput d q a) s)))
    ∧ (∀ e : Endpoint, (s.g a).psn = false → handle pSg → side false e → extent pSt →
      (ring.putseq ≠ seq → s.NoSlot o (2 ^ (ring.slog.toNat + 8)) →
        ∃ (u : State) (y : StreamCopy), WritesG u d ⟨BitVec.ofNat 64 seq.toNat, false⟩ (exec (.sget d q a) s) ∧ regs u ∧ u.toHw.streams = s.toHw.streams ++ [y]
          ∧ y.site = site ∧ y.ring = n ∧ y.put = false ∧ y.seq = seq ∧ y.off = o ∧ y.size = 2 ^ (ring.slog.toNat + 8) ∧ y.co = s.ix.co)
      ∧ (ring.putseq = seq → ring.pcl = true → WritesG s d ⟨BitVec.ofNat 64 (2 ^ 64 - 1), false⟩ (exec (.sget d q a) s))
      ∧ (ring.putseq = seq → ring.pcl = false → Blocks s (exec (.sget d q a) s)))
    ∧ (∀ e : Endpoint, handle pSp ∨ handle pSg → side true e → only true e → sel = 1 ∨ (sel = 0 ∧ s.me.endpoint site n false = none) →
      (e.res = ring.putseq → ∃ t, exec (.sclose q sel) s = .next t ∧ regs t ∧ t.me.endpoint site n true = none
        ∧ t.toHw.ring site n = { ring with pcl := true })
      ∧ (e.res ≠ ring.putseq → Blocks s (exec (.sclose q sel) s)))
    ∧ (∀ e : Endpoint, handle pSp ∨ handle pSg → side false e → only false e → sel = 2 ∨ (sel = 0 ∧ s.me.endpoint site n true = none) →
      ∃ t, exec (.sclose q sel) s = .next t ∧ regs t ∧ t.me.endpoint site n false = none ∧ t.toHw.ring site n = { ring with ccl := true })
    ∧ (∀ e f : Endpoint, handle pSp ∨ handle pSg → side true e → only true e → side false f → only false f → sel = 0 →
      (e.res = ring.putseq → ∃ t, exec (.sclose q sel) s = .next t ∧ regs t ∧ t.me.endpoint site n true = none
        ∧ t.me.endpoint site n false = none ∧ t.toHw.ring site n = { ring with
          pcl := true
          ccl := true })
      ∧ (e.res ≠ ring.putseq → Blocks s (exec (.sclose q sel) s)))
    ∧ (handle pSp ∨ handle pSg → (sel ≠ 2 → s.me.endpoint site n true = none) → (sel ≠ 1 → s.me.endpoint site n false = none) →
        Traps s 0x38 (exec (.sclose q sel) s))
    ∧ (∀ (e : Endpoint) (b : Bool), handle pSp ∨ handle pSg → side b e →
      WritesG s d ⟨BitVec.ofNat 64 ((ring.putseq - ring.getseq).toNat % 2 ^ 16 + ring.nslot.toNat * 2 ^ 16
        + ring.slog.toNat * 2 ^ 32 + (if ring.pcl then 2 ^ 36 else 0) + if ring.ccl then 2 ^ 37 else 0), false⟩ (exec (.sstat d q) s))
    ∧ ((s.g d).psn = false → (s.g x).psn = false → (s.c cb).Allows [3] pLd ea 8 → ea % 8 = 0 → s.me.amem = none →
      ∃ m, Becomes s (s.here.setEng s.ix.eng { s.me with amem := some m }) (exec (.awaitMem d cb x sc off) s)
        ∧ m.d = d ∧ (m.va : Int) = ea ∧ m.expected = (s.g d).bits ∧ m.pa = none ∧ m.placed = false ∧ m.halted = false)
    ∧ ((s.g d).psn = false → (s.g x).psn = false → (s.c cb).Allows [3] pLd ea 8 → ea % 8 ≠ 0 → Traps s 0x11 (exec (.awaitMem d cb x sc off) s))

/-- Sections are entered, tasks start and retire, entries are released, as the manual says. An engine at a code section enters
it once its waits on the other two engines are satisfied, is blocked while one is not, and traps with 0x61 when the engine
waited for is done; at a code header in its window it reads SEC, LEN and the waits and stands behind the header. The head
of an idle prepared core's queue starts with g1 to g6, tokens and factors as given, everything else of its engines zero,
c8 over local memory, each engine at its window's start or done. A task whose engines are done traps with 0x37 when a
queue holds entries, and retires once its copies and landings are complete and the harbour's accesses for it have routes.
A due entry whose predecessors have retired places its first waiting task. (R53, R54, R55, R83, R140, R165, R167, R319,
R322, R362.) -/
def Obligations.SectionsAndTasks : Prop :=
  ∀ (s : State) (co : CoreId) (e : EngId) (lid ent : Nat),
    let k := s.toHw.core co
    let g := k.eng e
    let x := k.eng (waitEngines e).1
    let y := k.eng (waitEngines e).2
    let met := fun (p : Eng) (w : BitVec 16) => w = 0 ∨ (p.rsec ≠ 0 ∧ (p.rsec - w).toNat < 2 ^ 15)
    let acts := k.task ≠ none ∧ k.stopped = false ∧ k.frozen = false ∧ k.inTurn e = true ∧ (g.st = .issuing ∨ g.st = .blocked)
    let v := g.headerBits g.pc.toNat
    (∀ c : Sect, acts → g.sec = some c → c.entered = false →
      (met x c.wx → met y c.wy →
        CoreIs s co (k.setEng e { g with sec := some { c with entered := true }, st := .issuing }) (exec (.sectionEntry co e) s))
      ∧ ((¬met x c.wx ∧ x.st = .done) ∨ (¬met y c.wy ∧ y.st = .done) → EngStops s co e 0x61 (exec (.sectionEntry co e) s))
      ∧ (¬met x c.wx ∨ ¬met y c.wy → (¬met x c.wx → x.st ≠ .done) → (¬met y c.wy → y.st ≠ .done) →
        CoreIs s co (k.setEng e { g with st := .blocked }) (exec (.sectionEntry co e) s)))
    ∧ (acts → g.sec = none → g.xfer = none → g.pcc.tag = true → g.pcc.space = 5 → g.pcc.has pEx = true → g.pcc.base ≤ g.pc.toNat →
        g.pc.toNat + 8 ≤ g.pcc.top → g.pc.toNat + 8 ≤ 2 ^ 19 →
      (v / 2 ^ 60 = 1 → v / 2 ^ 44 % 2 ^ 16 ≠ 0 → v / 2 ^ 32 % 2 ^ 12 ≠ 0 →
        met x (BitVec.ofNat 16 (v / 2 ^ 16 % 2 ^ 16)) → met y (BitVec.ofNat 16 (v % 2 ^ 16)) →
        ∃ c : Sect, c.sec = BitVec.ofNat 16 (v / 2 ^ 44 % 2 ^ 16) ∧ c.len = v / 2 ^ 32 % 2 ^ 12 ∧ c.hdr = g.pc.toNat ∧ c.entered = true
          ∧ CoreIs s co (k.setEng e { g with
              sec := some c
              pc := BitVec.ofNat 48 (g.pc.toNat + 8)
              st := .issuing }) (exec (.sectionEntry co e) s))
      ∧ ((v / 2 ^ 60 ≠ 1 ∧ v / 2 ^ 60 ≠ 2) ∨ v / 2 ^ 44 % 2 ^ 16 = 0 ∨ v / 2 ^ 32 % 2 ^ 12 = 0 →
        EngStops s co e 0x61 (exec (.sectionEntry co e) s)))
    ∧ (∀ (t : Task) (rest : List Task) (l : Launch), k.task = none → k.stopped = false → k.queue = t :: rest → t.calib = false →
        s.toHw.launch? t.lid = some l → l.lid = t.lid → k.prepFor = some t.lid →
      ∃ (u : State) (k' : Core) (l' : Launch), exec (.taskStart co) s = .next u ∧ u.toHw.core co = k' ∧ u.toHw.launch? t.lid = some l'
        ∧ (∀ a, memRead u.mem a = memRead s.mem a) ∧ (∀ d, CoreId.key d ≠ CoreId.key co → u.toHw.core d = s.toHw.core d)
        ∧ k'.task = some t ∧ k'.queue = rest
        ∧ l'.recs = l.recs.map (fun r => if r.task = t.task ∧ r.iter = t.iter then { r with st := .running } else r)
        ∧ (∀ i : Fin 16, k'.tok.get i = t.toks.getD i 0 ∧ k'.cu.ft.get i = t.fts.getD i 0)
        ∧ k'.cu.v = Vector.replicate 64 {} ∧ k'.cu.m = Vector.replicate 8 0 ∧ k'.xq = Vector.replicate 4 [] ∧ k'.yq = Vector.replicate 4 []
        ∧ k'.bq = [] ∧ k'.nextid = Vector.replicate 16 1 ∧ k'.leaseRuns = 0 ∧ k'.leaseHeld = false
        ∧ ∀ r : EngId, let n := EngId.role r
          let h := k'.eng r
          (∀ i : Fin 64, h.g.get i = if 1 ≤ i.val ∧ i.val ≤ 6 then ⟨t.regs.getD (i.val - 1) 0, false⟩ else {})
          ∧ h.p = Vector.replicate 8 {} ∧ h.lc = Vector.replicate 4 0 ∧ h.ea = Vector.replicate 5 0 ∧ h.rsec = 0
          ∧ h.c.get 8 = mkCap 1 (pLd ||| pSt ||| pLc ||| pSc) 0 (2 ^ 19) 0
          ∧ (∀ i : Fin 16, 10 ≤ i.val → h.c.get i = {})
          ∧ (t.starts.getD n none = none → h.st = .done)
          ∧ ∀ o, t.starts.getD n none = some o → h.st = .issuing ∧ h.pc = BitVec.ofNat 48 ((t.windows.getD n (0, 0)).1 + o))
    ∧ (∀ t : Task, k.task = some t → k.stopped = false → k.frozen = false → k.l.st = .done → k.cE.st = .done → k.s.st = .done →
      ((∃ q ∈ k.xq.toList, q ≠ []) ∨ (∃ q ∈ k.yq.toList, q ≠ []) ∨ k.bq ≠ [] → StopsWith s co 0x37 (exec (.taskRetirement co) s))
      ∧ ((∀ q ∈ k.xq.toList, q = []) → (∀ q ∈ k.yq.toList, q = []) → k.bq = [] → s.toHw.drained co = true → s.Routed (fun h => h.retire co t) →
        ∃ u : State, exec (.taskRetirement co) s = .next u ∧ (u.toHw.core co).task = none
          ∧ (∀ r : EngId, ((u.toHw.core co).eng r).st = .noTask)
          ∧ ∀ l, s.toHw.launch? t.lid = some l → l.lid = t.lid → ∃ l', u.toHw.launch? t.lid = some l'
            ∧ ∀ r ∈ l'.recs, r.task = t.task → r.iter = t.iter → r.st = .retired ∧ r.at_ = s.tick))
    ∧ (∀ (l : Launch) (n : Entry) (r : TaskRec), s.toHw.launch? lid = some l → l.lid = lid → l.ents[ent]? = some n → l.st = .frame →
        l.abort = false → l.start.toNat + n.release ≤ s.tick.toNat → s.toHw.released l n = true →
        l.recs.find? (fun r => r.task == ent && r.st == .waiting) = some r → s.toHw.queuedOn r.co.isle < 65536 →
      ∃ (u : State) (l' : Launch), exec (.entryRelease lid ent) s = .next u ∧ u.toHw.launch? lid = some l'
        ∧ l.taskOf n r.task r.iter r.co ∈ (u.toHw.core r.co).queue
        ∧ (∀ q ∈ l'.recs, q.task = r.task → q.iter = r.iter → q.st = .queued) ∧ ∀ a, memRead u.mem a = memRead s.mem a)

/-- Landings, freezes, leases, tiles, races, calibration and temperature change what the manual says. The first due landing of
a core that runs is made when its data is there (a race writes its registers, a neighbour's data its register) and frees
its slot, or traps with 0x31 where the neighbour's bytes were marked and with 0x70 where their cells held an uncorrectable
error; otherwise the core freezes until FREEZE_END. A tile's landing adds into the accumulator words of its rows and no
other byte. A free array grants its lease to the first waiting position after its last holder; a ready tile holds its
operands, a ready race its block, and rejected readings count in MARGIN and REPLAYS; an array is marked once MARGIN
reaches MTHRESH or the temperature has moved by TDRIFT; calibration, temperature below TSHUT and the thermal gap change as
R229, R231 and R402 say. That gD of tcal reports segments as masks (log entry 54), that a tile's operands are read at one
moment (log entry 53), that a drift is measured against the last calibration (log entry 83) and that a failed segment's
trims stay (log entry 114) are the model's choices. (R21, R27, R152, R153, R182, R214, R216, R220, R229, R231, R243,
R402.) -/
def Obligations.LandingsAndArrays : Prop :=
  ∀ (s : State) (co : CoreId) (isle ins rejects i : Nat) (x : LSlot) (temp : BitVec 16) (periods : BitVec 32) (trims : List (BitVec 16)),
    let k := s.toHw.core co
    let a := s.toHw.arr isle ins
    let own := s.toHw.arr co.isle (CoreId.ins co)
    let freed := { k with slots := tabDel i k.slots }
    let count := fun (n : Nat) (b c : Arr) => c = { b with
      margin := BitVec.ofNat 16 (min 0xFFFF (b.margin.toNat + n))
      replays := b.replays + BitVec.ofNat 32 n }
    (k.firstDue = some (i, x) → k.frozen = false → k.stopped = false →
      (x.ready k = false → CoreIs s co { k with frozen := true } (exec (.landDue co i) s))
      ∧ (x.kind = .race → x.arrived = true → CoreIs s co { freed with cu := k.cu.putRegs x.dest x.regs } (exec (.landDue co i) s))
      ∧ (x.kind = .vldn → x.ready k = true → x.err = none → x.mark = none → CoreIs s co { freed with cu := k.cu.putRegs x.dest x.regs } (exec (.landDue co i) s))
      ∧ (x.kind = .ldn → x.ready k = true → x.err = none → x.mark = none → x.dest ≠ 0 →
        CoreIs s co (freed.setEng x.eng { k.eng x.eng with
          g := (k.eng x.eng).g.setIfInBounds x.dest ⟨((x.regs.getD 0 {}).bits).setWidth 64, false⟩ }) (exec (.landDue co i) s))
      ∧ (x.kind = .ldn → x.ready k = true → x.err = none → x.mark = none → x.dest = 0 → CoreIs s co freed (exec (.landDue co i) s))
      ∧ (∀ m, x.kind = .ldn ∨ x.kind = .vldn → x.ready k = true → x.err = none → x.mark = some m → ∃ r : TrapRec, r.code = 0x31 ∧ r.landing = true ∧ r.pc = x.pc
        ∧ exec (.landDue co i) s = .next (s.upd (fun h => (h.onCore co (fun k => { k with slots := tabDel i k.slots })).takeTrap co r)))
      ∧ (∀ m, x.kind = .ldn ∨ x.kind = .vldn → x.ready k = true → x.err = some m →
        ∃ r : TrapRec, r.code = 0x70 ∧ r.landing = true ∧ r.pc = x.pc ∧ exec (.landDue co i) s =
          .next (s.upd (fun h => ((h.onCore co (fun k => { k with slots := tabDel i k.slots })).takeTrap co r).noteMachine co r)))
      ∧ (∀ t : TileJob, s.Inv → x.kind = .tile → x.tile = some t → x.arrived = true →
        ∃ u : State, exec (.landDue co i) s = .next u ∧ u.toHw.core co = freed
          ∧ (∀ b, b < slotKey co t.slot 0 0 ∨ slotKey co t.slot 0 0 + 256 * t.rows ≤ b → memRead u.mem b = memRead s.mem b)
          ∧ ∀ r n, r < t.rows → n < 64 →
            let old := BitVec.ofNat 32 (s.toHw.num (slotKey co (t.slot + r / 8) (r % 8) n) 4)
            let p := Machine.lineOf t.prof t.aData r
            let q := Machine.lineOf t.prof t.bData n
            BitVec.ofNat 32 (u.toHw.num (slotKey co (t.slot + r / 8) (r % 8) n) 4)
              = if profInt t.prof then intWord t.prof (copsStep t.cops r) t.k p q old
                else maWordF t.prof t.afmt t.bfmt t.k t.scaled p q (scaleOf t.prof t.rows t.aData r) (scaleOf t.prof 64 t.bData n) old))
    ∧ (k.firstDue = none → CoreIs s co { k with frozen := false } (exec (.freezeEnd co) s))
    ∧ (k.firstDue = some (i, x) → k.frozen = true → k.stopped = false → x.kind = .race → x.arrived = true →
      CoreIs s co { freed with
        frozen := false
        cu := k.cu.putRegs x.dest x.regs } (exec (.freezeEnd co) s))
    ∧ (∀ p, p < 4 → a.leased = false → (∃ w ∈ a.waiting, w.1 = p) →
        (∀ w ∈ a.waiting, w.1 < 4 → (p + 3 - a.holder.toNat) % 4 ≤ (w.1 + 3 - a.holder.toNat) % 4) →
      ArrIs s isle ins { a with leased := true, holder := BitVec.ofNat 2 p, waiting := a.waiting.filter (fun w => w.1 != p) }
        (exec (.leaseGrant isle ins) s))
    ∧ (tabFind k.slots i = some x → x.kind = .race → x.arrived = false → own.cal ≠ 2 →
      ∃ u : State, exec (.raceReady co i rejects) s = .next u ∧ u.toHw.core co = { k with slots := tabPut { x with arrived := true } i k.slots }
        ∧ count rejects own (u.toHw.arr co.isle (CoreId.ins co)) ∧ ∀ b, memRead u.mem b = memRead s.mem b)
    ∧ (∀ t : TileJob, tabFind k.slots i = some x → x.tile = some t → x.arrived = false → t.halted = false → k.tileBefore x = false →
        s.toHw.tileHalted co = false → own.cal ≠ 2 → t.globalA = none →
        (let na := extentA t.prof t.rows t.scaled
        let nb := extentB t.prof t.scaled
        s.toHw.markOff co t.aOff na = none → s.toHw.markOff co t.bOff nb = none →
      ∃ (u : State) (t' : TileJob), exec (.tileReady co i rejects) s = .next u
        ∧ u.toHw.core co = { k with slots := tabPut { x with tile := some t', arrived := true } i k.slots }
        ∧ t' = { t with aData := s.toHw.bytes (localKey co t.aOff) na, bData := s.toHw.bytes (localKey co t.bOff) nb }
        ∧ count rejects own (u.toHw.arr co.isle (CoreId.ins co)) ∧ ∀ b, memRead u.mem b = memRead s.mem b))
    ∧ (s.toHw.isleHeld isle = true → s.cfg.mthresh ≤ a.margin.toNat ∨ s.cfg.tdrift ≤ (a.temp.toInt - a.tlcal.toInt).natAbs →
      ArrIs s isle ins { a with mark := true } (exec (.calibrationMark isle ins) s))
    ∧ (a.margin.toNat < s.cfg.mthresh → (a.temp.toInt - a.tlcal.toInt).natAbs < s.cfg.tdrift → exec (.calibrationMark isle ins) s = .next s)
    ∧ (∀ (pos mask : Nat) (d : BitVec 6), s.toHw.isleHeld isle = true → a.calib = some (pos, mask, d) →
        (let sel := fun (j : Nat) => mask / 2 ^ j % 2 = 1 ∧ a.segs.getLsbD j = true
        let past := fun (j : Nat) => ∃ t ∈ segTrims trims j, 1023 < t
        ∃ (u : State) (b : Arr), exec (.calibrationComplete isle ins periods trims) s = .next u ∧ u.toHw.arr isle ins = b
          ∧ b.cal = 1 ∧ b.margin = 0 ∧ b.calib = none ∧ b.tlcal = a.temp ∧ b.segs = a.segs
          ∧ (∀ j n, j < 4 → n < 32 → sel j → ¬past j → tabGet 0 b.trim (32 * j + n) = BitVec.ofNat 10 ((trims.getD (32 * j + n) 0).toNat))
          ∧ (∀ j n, j < 4 → n < 32 → (sel j → past j) → tabGet 0 b.trim (32 * j + n) = tabGet 0 a.trim (32 * j + n))
          ∧ (∀ j, j < 4 → sel j → past j → b.pendSegs.getLsbD j = true)
          ∧ (∀ r, memRead u.mem r = memRead s.mem r)
          ∧ (d ≠ 0 → ∃ w : Word, (u.toHw.core ⟨isle, 4 * ins + pos⟩).cE.g.get d.toFin = ⟨w, false⟩ ∧ w.extractLsb' 32 32 = BitVec.ofNat 32 (min periods.toNat 6000)
            ∧ ∀ j, j < 4 → (w.getLsbD j = true ↔ sel j ∧ ¬past j) ∧ (w.getLsbD (4 + j) = true ↔ sel j ∧ past j))))
    ∧ (s.toHw.isleHeld isle = true → temp.toInt < s.cfg.tshut →
      ArrIs s isle ins { a with temp := temp, mark := a.mark || decide (s.cfg.tdrift ≤ (temp.toInt - a.tlcal.toInt).natAbs) }
        (exec (.temperatureSample isle ins temp) s))
    ∧ (a.temp.toInt < s.cfg.tshut → s.cfg.twarn ≤ a.temp.toInt → ArrIs s isle ins { a with gap := BitVec.ofNat 8 (min 255 (a.gap.toNat + 4)) } (exec (.thermalGapStep isle ins) s))
    ∧ (a.temp.toInt < s.cfg.tshut → a.temp.toInt < s.cfg.twarn - 48 → a.temp.toInt < s.cfg.twarn →
      ArrIs s isle ins { a with gap := BitVec.ofNat 8 (a.gap.toNat - 4) } (exec (.thermalGapStep isle ins) s))
    ∧ (a.temp.toInt < s.cfg.tshut → s.cfg.twarn - 48 ≤ a.temp.toInt → a.temp.toInt < s.cfg.twarn → ArrIs s isle ins a (exec (.thermalGapStep isle ins) s))

/-- The copy engine starts, advances, makes visible and orders its commands. The oldest entry of a queue that is not halted
starts while fewer than 16 of it run and no copy of a ring slot that its engine began before it is under way: a total
length of 0 completes it, an index list is read from local memory, once no earlier command of the queue has it still to
write. A running command reads the next bytes of a source in local memory with their marks, or performs its next write
there: exactly those bytes take the values held and DONE advances by them. A performed outbound command without a fault
becomes visible and leaves; a marker at the head of its queue takes the unfinished commands of the other queue and leaves
once they are performed. That the running commands are those started and not performed (log entry 91), that commands whose
spans may overlap are ordered (log entry 47) and that DONE counts the elements of row and indexed commands (log entry 23)
are the model's choices. (R118, R124, R126, R129, R131, R134, R138, R139.) -/
def Obligations.CopyEngineSteps : Prop :=
  ∀ (s : State) (co : CoreId) (q : QSel) (n : Nat) (c : Cmd),
    let k := s.toHw.core co
    let does := fun (f : Cmd → Cmd) => k.onCmd c.uid f
    let runs := s.toHw.cmd? co n = some c ∧ c.uid = n ∧ c.started = true ∧ c.performed = false ∧ c.fault = none ∧ c.piece = .idle
    let w := c.nextWrite
    let r := c.nextRead
    ((k.queued q).head? = some c → k.halted q = false → c.op ≠ .order →
        (k.cmds.filter (fun c => c.q == q && c.started && !c.performed)).length < 16 → s.toHw.streamsBefore co c = false →
      (c.op = .close → CoreIs s co (does (fun c => { c with started := true, released := true })) (exec (.copyCommandStart co q) s))
      ∧ (c.op ≠ .close → c.total = 0 → CoreIs s co (does (fun c => { c with
          started := true, released := true, performed := true, visible := true, landed := true })).sweep (exec (.copyCommandStart co q) s))
      ∧ (c.op ≠ .close → c.total ≠ 0 → c.op ≠ .gat → c.op ≠ .sct →
        CoreIs s co (does (fun x => { x with
          started := true
          released := x.op == .fill || x.op.returns
          idx := [] })) (exec (.copyCommandStart co q) s))
      ∧ (c.op = .gat ∨ c.op = .sct → c.total ≠ 0 → c.lst + 4 * c.rows ≤ 2 ^ 19 → s.toHw.listBehind co c = false →
        CoreIs s co (does (fun x => { x with
          started := true
          released := x.op == .fill || x.op.returns
          idx := (List.range x.rows).map (fun j => (BitVec.ofNat 32 (s.toHw.num (localKey co (x.lst + 4 * j)) 4)).toInt) }))
          (exec (.copyCommandStart co q) s)))
    ∧ (runs → c.op.streamed = true → c.mustRead = true → c.cs.space = 1 → 0 ≤ r.addr → r.addr.toNat + r.n ≤ 2 ^ 19 →
        s.toHw.behind co c (s.toHw.spanPlaces co c.task c.cs [r]) false = false →
        (c.buf = [] → c.at_ = 0 → c.elementBad = none) → s.toHw.cellErrIn [(localKey co r.addr.toNat, r.n)] = none →
      ∃ b : Bool, CoreIs s co (does (fun x => { x.take ((List.range r.n).map (fun i =>
          (memRead s.mem (localKey co r.addr.toNat + i), setHas s.pmark ((localKey co r.addr.toNat + i) / 16)))) with tag := b }))
        (exec (.copyProgress co n) s))
    ∧ (s.Inv → runs → c.op = .get ∨ c.op = .put ∨ c.op = .fill → c.mustRead = false → c.at_ = 0 → c.cd.space = 1 → c.tb = 0 → 0 ≤ w.addr →
        w.addr.toNat + w.n ≤ 2 ^ 19 → s.toHw.behind co c (s.toHw.spanPlaces co c.task c.cd [w]) true = false →
        k.barrierIn w.addr.toNat w.n = none → s.toHw.cellErrIn [(localKey co w.addr.toNat, w.n)] = none →
      ∃ u : State, exec (.copyProgress co n) s = .next u
        ∧ (∀ i, i < w.n → memRead u.mem (localKey co w.addr.toNat + i) = (c.held.getD i (0, false)).1)
        ∧ (∀ a, a < localKey co w.addr.toNat ∨ localKey co w.addr.toNat + w.n ≤ a → memRead u.mem a = memRead s.mem a)
        ∧ (c.done + w.n < c.len → ∃ c', u.toHw.cmd? co n = some c' ∧ c'.done = c.done + w.n ∧ c'.performed = false)
        ∧ ∀ d, CoreId.key d ≠ CoreId.key co → u.toHw.core d = s.toHw.core d)
    ∧ (s.toHw.cmd? co n = some c → c.uid = n → c.op ≠ .close → c.performed = true → c.outbound = true → c.fault = none →
      CoreIs s co (does (fun c => { c with visible := true })).sweep (exec (.copyVisible co n) s))
    ∧ ((k.queued q).head? = some c → c.op = .order → c.head = false →
      CoreIs s co (does (fun x => { x with
        head := true
        waitFor := (k.cmds.filter (fun x => x.q == otherQueue q && x.op != .order && !x.performed)).map (·.uid) })) (exec (.xorderHead co q) s))
    ∧ ((k.queued q).head? = some c → c.op = .order → c.head = true → (∀ x ∈ k.cmds, x.uid ∈ c.waitFor → x.performed = true) →
      CoreIs s co { k with cmds := k.cmds.filter (fun x => x.uid != c.uid) } (exec (.xorderLeave co q) s))

/-- Walks fill the TLB or fault, invalidations queue and complete in order. A walk that reads its way to a leaf leaves the
walk table, enters the TLB with the leaf's page, W and COW, and lets the commands that waited go on; one that ends in a
fault stops the core of the command that waited for it with the fault's code; while a read of it has no route, nothing
happens; the leaf is the one that the tables give, no context without EN gives one, and tables that break the rules give
0x20, unless the entry could not be read (0x22, 0x70). A write of ITUINV queues an invalidation; the oldest completes once
no access that it covers is in flight, and exactly the TLB entries that it covers leave. (R90, R91, R92, R93, R94, R95,
R139.) -/
def Obligations.TranslationUnit : Prop :=
  ∀ (s : State) (isle n : Nat) (ctx : BitVec 4) (va : BitVec 32),
    let x := s.toHw.isle isle
    let freed : Isle := { x with walks := tabDel n x.walks }
    let asked := fun (w : Walk) =>
      let h := w.who.foldl Hw.walkDone (s.toHw.atRest.onIsle isle (fun x => { x with walks := tabDel n x.walks }))
      h.walkAnswer { src := isle, pkey := h.keyOf isle w.ctx } (x.context w.ctx) (w.va * 65536)
    (∀ (w : Walk) (l : Leaf) (h : Hw), tabFind x.walks n = some w → asked w = (.leaf l, h) →
      ∃ u : State, exec (.pageWalkComplete isle n) s = .next u
        ∧ u.toHw.isle isle = freed.fillTlb {
            ctx := w.ctx, va := w.va * 65536 / l.size * l.size, size := l.size, pa := l.pa, w := l.w, cow := l.cow }
        ∧ (∀ co uid b c, WalkFor.cmd co uid b ∈ w.who → s.toHw.cmd? co uid = some c → c.piece = .walking →
            ∃ c', u.toHw.cmd? co uid = some c' ∧ c'.piece = .idle)
        ∧ ∀ a, memRead u.mem a = memRead s.mem a)
    ∧ (∀ (w : Walk) (h : Hw) (code : Byte) (d : Option (BitVec 256)) (co : CoreId) (uid : Nat) (b : Bool) (c : Cmd),
        tabFind x.walks n = some w → w.who = [.cmd co uid b] → s.toHw.cmd? co uid = some c → asked w = (.stop code d, h) →
      ∃ (u : State) (c' : Cmd) (f : CmdFault), exec (.pageWalkComplete isle n) s = .next u ∧ (u.toHw.core co).stopped = true
        ∧ u.toHw.cmd? co uid = some c' ∧ c'.fault = some f ∧ f.code = code ∧ c'.done = c.done ∧ ∀ a, memRead u.mem a = memRead s.mem a)
    ∧ (∀ (m : Master) (y : Ctx) (v : Nat) (l : Leaf) (h : Hw), s.toHw.walkAnswer m y v = (.leaf l, h) →
      y.en = true ∧ ∃ lv en, s.toHw.walkRoot y.root v = .ok l lv en)
    ∧ (∀ (m : Master) (y : Ctx) (v : Nat), y.en = false → s.toHw.walkAnswer m y v = (.stop 0x20 none, s.toHw))
    ∧ (∀ (m : Master) (y : Ctx) (v lv : Nat) (en : BitVec 64), s.toHw.walkRoot y.root v = .fault lv en →
      (∃ h, s.toHw.walkAnswer m y v = (.away, h))
      ∨ ∃ code d h, s.toHw.walkAnswer m y v = (.stop code d, h) ∧ (code = 0x20 ∨ code = 0x22 ∨ code = 0x70))
    ∧ (∀ (w : Walk) (h : Hw), tabFind x.walks n = some w → asked w = (.away, h) → exec (.pageWalkComplete isle n) s = .next s)
    ∧ IsleIs s isle { x with invs := x.invs ++ [{ scope := 0, ctx := ctx, va := va }] } (exec (.ituinvVa isle ctx va) s)
    ∧ IsleIs s isle { x with invs := x.invs ++ [{ scope := 1, ctx := ctx, va := 0 }] } (exec (.ituinvContext isle ctx) s)
    ∧ IsleIs s isle { x with invs := x.invs ++ [{ scope := 2, ctx := 0, va := 0 }] } (exec (.ituinvAll isle) s)
    ∧ (∀ (v : Inval) (rest : List Inval), x.invs = v :: rest → s.toHw.inFlight isle v.hits = false →
      ∃ tlb, IsleIs s isle { x with invs := rest, tlb := tlb } (exec (.ituinvComplete isle) s)
        ∧ (v.scope = 0 → ∀ t, t ∈ tlb ↔ t ∈ x.tlb ∧ ¬(t.ctx = v.ctx ∧ v.va.toNat * 65536 / t.size = t.va / t.size))
        ∧ (v.scope = 1 → ∀ t, t ∈ tlb ↔ t ∈ x.tlb ∧ t.ctx ≠ v.ctx) ∧ (v.scope = 2 → tlb = []))

/-- A slice serves requests in the order of each line, scrubs, tracks and spares rows. A request that is the first of its line
leaves the order of arrival: a clean read gives its bytes to the command, a write puts exactly its bytes into memory, a
line that is uncorrectable ends the command with 0x70. Scrub moves to the next line and counts a pass at the last; at a
tick that is a multiple of 2^20 every row count decreases by one, once, but for a count of 8 that is kept (log entry 90);
sparing takes the free entry of lowest index, copies the row's lines (sixteen that follow one another in the slice, log
entry 110) and commits, with a new configuration record in the copy not in use (log entry 111), or sets SPAREX, keeps the
row with a count of 8 and queues it for repair. (R99, R101, R104, R105, R106, R107, R108, R109, R110.) -/
def Obligations.SliceSteps : Prop :=
  ∀ (s : State) (site slice n : Nat) (ecc : Ecc) (bank : BitVec 6) (row : BitVec 18) (rfm : Bool),
    let x := s.toHw.slice site slice
    (∀ (r : SliceReq) (co : CoreId) (uid : Nat) (c : Cmd), s.Inv → x.reqs[n]? = some r → (∀ q ∈ x.reqs.take n, q.pa / 64 ≠ r.pa / 64) →
        r.who = .cmd co uid → s.toHw.cmd? co uid = some c →
      (r.write = false → (s.toHw.lineOf r.pa).bad = false → tabFind s.errs (r.pa / 64) = none →
        ∃ (u : State) (marks : Bool), exec (.sliceRequest site slice n .clean) s = .next u
          ∧ u.toHw.core co = (s.toHw.core co).onCmd uid (fun c => c.take ((s.toHw.bytes r.pa r.len).map (fun b => (b, marks))))
          ∧ (r.smark = false → marks = false) ∧ u.toHw.slice site slice = { x with reqs := x.reqs.eraseIdx n }
          ∧ ∀ a, memRead u.mem a = memRead s.mem a)
      ∧ (r.write = true → (s.toHw.lineOf r.pa).bad = false → tabFind s.errs (r.pa / 64) = none → c.cd.space = 3 →
        ∃ u : State, exec (.sliceRequest site slice n .clean) s = .next u
          ∧ (∀ i, i < r.data.length → memRead u.mem (r.pa + i) = r.data.getD i 0)
          ∧ (∀ a, a < r.pa ∨ r.pa + r.data.length ≤ a → memRead u.mem a = memRead s.mem a)
          ∧ u.toHw.slice site slice = { x with reqs := x.reqs.eraseIdx n })
      ∧ (r.write = false → (s.toHw.lineOf r.pa).bad = true →
        ∃ (u : State) (c' : Cmd) (f : CmdFault), exec (.sliceRequest site slice n ecc) s = .next u ∧ (u.toHw.core co).stopped = true
          ∧ u.toHw.cmd? co uid = some c' ∧ c'.fault = some f ∧ f.code = 0x70 ∧ ∀ a, memRead u.mem a = memRead s.mem a))
    ∧ (∀ l, x.interval ≠ 0 → nextScrub slice x.scrubAt = some l →
        (∀ p, p < 4 → tabFind s.errs ((site * 2 ^ 36 + 256 * l + 64 * p) / 64) = none) →
      SliceIs { s with choice := s.choice + 1 } site slice
        (if nextScrub slice (l + 1) = none then x.endPass site slice else { x with scrubAt := l + 1 }) (exec (.scrubLine site slice .clean) s))
    ∧ x.endPass site slice = { x with
        scrubAt := 0
        passes := x.passes + 1
        rows := (x.endPass site slice).rows
        spareWait := (x.endPass site slice).spareWait }
    ∧ (s.tick.toNat % 2 ^ 20 = 0 → x.leakAt ≠ s.tick → SliceIs s site slice { x with
        leakAt := s.tick
        rows := x.rows.map (fun e => (e.1, { e.2 with count := if e.2.count = 8 then 8 else e.2.count - 1 })) } (exec (.rowTrackLeak site slice) s))
    ∧ (s.tick.toNat % 2 ^ 20 = 0 → x.leakAt = s.tick → SliceIs s site slice x (exec (.rowTrackLeak site slice) s))
    ∧ (∀ i, x.wantsSpare bank row = true → x.copying = none → i < 64 → (tabGet ({} : Remap) x.remap i).state = 0 →
        (∀ j, j < i → (tabGet ({} : Remap) x.remap j).state ≠ 0) →
      ∃ x', SliceIs s site slice x' (exec (.rowSpareStart site slice bank row) s) ∧ x'.copying = some (i, 0)
        ∧ tabGet ({} : Remap) x'.remap i = { state := 1, bank := bank, row := row }
        ∧ (∀ j, j ≠ i → tabGet ({} : Remap) x'.remap j = tabGet {} x.remap j) ∧ x'.sparex = x.sparex ∧ x'.reqs = x.reqs ∧ x'.acc = x.acc)
    ∧ (x.wantsSpare bank row = true → x.copying = none → (∀ i, i < 64 → (tabGet ({} : Remap) x.remap i).state ≠ 0) →
      ∃ u : State, exec (.rowSpareStart site slice bank row) s = .next u ∧ (u.toHw.slice site slice).sparex = true
        ∧ (u.toHw.slice site slice).remap = x.remap ∧ (site, slice, bank, row) ∈ u.boot.repair
        ∧ (∃ i, tabGet ({} : RowCnt) (u.toHw.slice site slice).rows i = { count := 8, bank := bank, row := row }) ∧ ∀ a, memRead u.mem a = memRead s.mem a)
    ∧ (∀ i j, x.copying = some (i, j) →
        (let e := tabGet ({} : Remap) x.remap i
        let x' : Slice := { x with copying := none, remap := tabPut { e with state := 2 } i x.remap }
        let lines := rowLines site slice (e.bank, e.row)
        (∀ l, lines[j]? = some l → tabFind s.errs l = none) →
      (j + 1 < lines.length → SliceIs s site slice { x with copying := some (i, j + 1) } (exec (.spareLineCopy site slice) s))
      ∧ (lines.length ≤ j + 1 → ∃ u : State, exec (.spareLineCopy site slice) s = .next u ∧ u.toHw.slice site slice = x'
        ∧ (∀ i n, sliceKey i n ≠ sliceKey site slice → u.toHw.slice i n = s.toHw.slice i n)
        ∧ u = { s with toHw := { s.toHw with
            slices := u.slices
            boot := { s.boot with
              recA := if s.boot.recCopy then Config.newRecord s.boot.recB u.toHw.remaps s.boot.repair else s.boot.recA
              recB := if s.boot.recCopy then s.boot.recB else Config.newRecord s.boot.recA u.toHw.remaps s.boot.repair
              itemsA := if s.boot.recCopy then some (s.boot.seq + 1, u.toHw.recItems) else s.boot.itemsA
              itemsB := if s.boot.recCopy then s.boot.itemsB else some (s.boot.seq + 1, u.toHw.recItems) } } })))
    ∧ SliceIs s site slice { x with refreshes := x.refreshes + 1 } (exec (.perBankRefresh site slice bank rfm) s)

/-- Accumulates and atomics are applied, landed, and gathered in rounds as the manual says. An immediate command's next
element becomes combine(old, operand), swap or compare-and-swap of the old value at its place, no other byte changes, and
a value-returning atomic keeps OLD and whether its comparison held for its landing; the landing writes the 16 bytes at its
offset and sets their full bit. A round-batched element is accepted at its slice with the key of R254; where a route leads
there, a close's notice raises the participant's count, and a task that has retired, or that a trap has ended, has closed
every round; the least request whose round its predecessors have closed is applied and leaves. (R245, R248, R249, R251,
R252, R254, R255, R256, R257.) -/
def Obligations.AppliedOperations : Prop :=
  ∀ (s : State) (co : CoreId) (n site slice lid wave tag : Nat) (c : Cmd),
    let k := s.toHw.core co
    let a : Span := ⟨c.dst c.elem, c.size⟩
    let runs := s.toHw.cmd? co n = some c ∧ c.uid = n ∧ c.started = true ∧ c.performed = false ∧ c.fault = none ∧ c.piece = .idle
      ∧ c.op.atPort = true ∧ s.toHw.behind co c (s.toHw.spanPlaces co c.task c.cd [a]) true = false
      ∧ s.toHw.behind co c (s.toHw.spanPlaces co c.task c.cs c.accSrc) false = false ∧ ∀ x ∈ c.accSrc, x.addr + x.n ≤ 2 ^ 19
    let reach := s.toHw.reachOf co c.task c.cdi c.cd a.addr a.n c.op.tableOp true
    let writes := fun (u : State) (p m v : Nat) => u.toHw.num p m = v % 256 ^ m ∧ ∀ b, b < p ∨ p + m ≤ b → memRead u.mem b = memRead s.mem b
    (∀ p : Nat, s.Inv → runs → c.rt = 0 → (reach = (.key p, s.toHw) ∧ (s.toHw.core (landCore co c.cd.space a.addr)).barrierIn
          (landOff c.cd.space a.addr) a.n = none ∧ s.toHw.cellErrIn [(p, a.n)] = none)
        ∨ (reach = (.line p, s.toHw) ∧ (s.toHw.lineOf p).bad = false ∧ tabFind s.errs (p / 64) = none ∧ ∀ r ∈ (s.toHw.home p).reqs, r.pa / 64 ≠ p / 64) →
        (let old := s.toHw.num p c.size
        let new := c.op.apply old (s.toHw.operandOf co c) c.w
      ∃ u : State, exec (.atomicApply co n) s = .next u ∧ writes u p c.size new.1
        ∧ (c.op.returns = true → c.landed = false → ∃ c', u.toHw.cmd? co n = some c'
          ∧ c'.landing = some (landingBits (c.op.oldField old) new.2 false false) ∧ c'.done = c.done + c.size)))
    ∧ (∀ v : BitVec 128, s.Inv → s.toHw.cmd? co n = some c → c.uid = n → c.landing = some v → 0 ≤ c.sa → c.sa.toNat + 16 ≤ 2 ^ 19 →
        k.barrierIn c.sa.toNat 16 = none → c.tb = 0 →
        (c.rt = 0 → s.toHw.behind co c [(localKey co c.sa.toNat, 16)] true = false) →
      ∃ u : State, exec (.atomicLanding co n) s = .next u ∧ writes u (localKey co c.sa.toNat) 16 v.toNat
        ∧ u.toHw.fullAt (localKey co c.sa.toNat) = true
        ∧ ∀ c', u.toHw.cmd? co n = some c' → c'.landing = none ∧ c'.landed = true)
    ∧ (∀ p : Nat, runs → c.rt ≠ 0 → k.fatal = false → reach = (.line p, s.toHw) →
      ∃ (u : State) (q : RoundReq), exec (.roundRequestAccept co n) s = .next u ∧ u.rounds = s.rounds ++ [q]
        ∧ q.site = paSite p ∧ q.slice = paSlice p ∧ q.lid = c.task.lid ∧ q.wave = c.task.wave ∧ q.tag = c.rt ∧ q.pa = p ∧ q.op = c.op
        ∧ q.key = [c.round, c.task.task, c.task.iter, if c.q = .load then 0 else 1, c.seq, c.elem]
        ∧ q.v = s.toHw.operandOf co c ∧ q.w = c.w ∧ q.name = c.name ∧ ∀ b, memRead u.mem b = memRead s.mem b)
    ∧ (∀ (l : Launch) (p : Participant) (t : TaskRec), s.toHw.launch? lid = some l →
        l.recs.find? (fun t => t.task == p.task && t.iter == p.iter && t.wave == p.wave) = some t → t.st = .retired → s.toHw.linked t.co.isle site = true →
        (∀ y ∈ (s.toHw.core t.co).cmds, y.op ≠ .close → y.performed = true) →
        (∀ y ∈ s.closed, ¬(y.site = site ∧ y.slice = slice ∧ y.lid = lid ∧ y.p = p)) →
      ∃ (u : State) (y : CloseNote), exec (.roundCloseNotice site slice lid p) s = .next u ∧ y ∈ u.closed
        ∧ y.site = site ∧ y.slice = slice ∧ y.lid = lid ∧ y.p = p ∧ y.all = true
        ∧ u = { s with toHw := { s.toHw with closed := u.closed } })
    ∧ (∀ (l : Launch) (p : Participant) (t : TaskRec), s.toHw.launch? lid = some l →
        l.recs.find? (fun t => t.task == p.task && t.iter == p.iter && t.wave == p.wave) = some t → t.st = .running →
        s.toHw.linked t.co.isle site = true → (s.toHw.core t.co).task ≠ none → (s.toHw.core t.co).fatal = true →
        (∀ y ∈ s.closed, ¬(y.site = site ∧ y.slice = slice ∧ y.lid = lid ∧ y.p = p)) →
      ∃ u : State, exec (.roundCloseNotice site slice lid p) s = .next u ∧ (∀ j, u.toHw.hasClosed site slice lid p j = true)
        ∧ u = { s with toHw := { s.toHw with closed := u.closed } })
    ∧ (∀ (l : Launch) (p : Participant) (t : TaskRec) (y : Cmd), s.toHw.launch? lid = some l →
        l.recs.find? (fun t => t.task == p.task && t.iter == p.iter && t.wave == p.wave) = some t → t.st = .running →
        (let own := (s.toHw.core t.co).cmds.filter (fun c => c.rt == p.tag && engOfQueue c.q == p.eng && c.task.task == p.task
          && c.task.iter == p.iter && c.task.lid == lid)
        (s.toHw.core t.co).task ≠ none → (s.toHw.core t.co).fatal = false → ((s.toHw.core t.co).eng p.eng).st ≠ .done →
        own.find? (fun c => c.op == .close && c.round == 1) = some y → y.started = true → y.fault = none →
        s.toHw.linked t.co.isle site = true →
        (∀ z ∈ (s.toHw.core t.co).cmds, z.q = y.q → z.rt = y.rt → z.op ≠ .close → z.uid < y.uid → z.performed = true) →
        (∀ z ∈ s.closed, ¬(z.site = site ∧ z.slice = slice ∧ z.lid = lid ∧ z.p = p)) →
      ∃ u : State, exec (.roundCloseNotice site slice lid p) s = .next u ∧ u.toHw.hasClosed site slice lid p 1 = true
        ∧ u = { s with toHw := { s.toHw with closed := u.closed } }))
    ∧ (∀ (l : Launch) (q : RoundReq), s.Inv → s.toHw.launch? lid = some l → q ∈ s.rounds → q.site = site → q.slice = slice → q.lid = lid →
        q.wave = wave → q.tag = tag → q.op ≠ .casGo →
        (∀ y ∈ s.rounds, y ≠ q → y.site = site → y.slice = slice → y.lid = lid → y.wave = wave → y.tag = tag → keyLess q.key y.key = true) →
        s.toHw.hasClosed site slice lid q.part q.k = true →
        (∀ p ∈ l.roundParts wave tag, (partBefore p q.part = true → s.toHw.hasClosed site slice lid p q.k = true)
          ∧ (1 < q.k → s.toHw.hasClosed site slice lid p (q.k - 1) = true)) →
        (∀ r ∈ (s.toHw.slice site slice).reqs, r.pa / 64 ≠ q.pa / 64) → (s.toHw.lineOf q.pa).bad = false →
        tabFind s.errs (q.pa / 64) = none →
        (let size := match q.op with
          | .acc k => k.size
          | .fadd32 => 4
          | _ => 8
      ∃ u : State, exec (.roundApply site slice lid wave tag) s = .next u ∧ u.rounds = s.rounds.filter (fun y => y != q)
        ∧ writes u q.pa size (q.op.apply (s.toHw.num q.pa size) q.v q.w).1))

/-- Monitors and stream copies do what the manual says after commit. An await.mem whose word still equals the expected value
is placed as an entry of its square while it has room; one whose word differs gives its engine status 3 at once, and a
request that no entry was found for in time gives status 2. The oldest reserved slot of a ring takes the bytes of local
memory and PUTSEQ passes it; the oldest taken slot's bytes reach local memory and GETSEQ passes it; no other byte changes.
(R114, R266, R267, R272, R273, R274.) -/
def Obligations.MonitorsAndStreamCopies : Prop :=
  ∀ (s : State) (co : CoreId) (e : EngId) (site ring pa : Nat) (m : AMem),
    let g := (s.toHw.core co).eng e
    let t := (s.toHw.core co).task.getD {}
    let d := s.toHw.ring site ring
    let page := s.toHw.pageOf co.isle t.ctx m.va
    let gets := fun (u : State) (v : Nat) => let h := (u.toHw.core co).eng e
      h.amem = none ∧ (m.d ≠ 0 → h.g.get m.d.toFin = ⟨BitVec.ofNat 64 v, false⟩) ∧ (∀ r : Fin 64, r ≠ m.d.toFin → h.g.get r = g.g.get r)
        ∧ ∀ b, memRead u.mem b = memRead s.mem b
    (g.amem = some m → m.halted = false → m.placed = false → m.pa = none → s.toHw.xlate co.isle t.ctx m.va false = .hit pa →
        paTarget pa = .line → (s.toHw.onAmem co e (fun m => { m with page := page })).sliceCheck pa { src := co.isle, pkey := t.pkey } opRead false
          = (.line pa, s.toHw.onAmem co e (fun m => { m with page := page })) →
        s.toHw.linked co.isle (paSite pa) = true → (s.toHw.lineOf pa).bad = false → tabFind s.errs (pa / 64) = none →
      (s.toHw.num pa 8 = m.expected.toNat → (s.toHw.monitorsOf (paSite pa)).length < 256 → s.toHw.monQueue (paSite pa) = [] →
        ∃ u : State, exec (.monitorRequest co e) s = .next u
          ∧ u.toHw.monitorsOf (paSite pa) = s.toHw.monitorsOf (paSite pa) ++ [{ line := pa / 64, co := co, eng := e, lid := t.lid }]
          ∧ ((u.toHw.core co).eng e).amem = some { m with pa := some pa, placed := true, page := page } ∧ ∀ b, memRead u.mem b = memRead s.mem b)
      ∧ (s.toHw.num pa 8 ≠ m.expected.toNat → ∃ u : State, exec (.monitorRequest co e) s = .next u ∧ gets u 3))
    ∧ (g.amem = some m → m.placed = false → m.pa = some pa → ∃ u : State, exec (.monitorTimeout co e) s = .next u ∧ gets u 2)
    ∧ (∀ c : StreamCopy, s.Inv → s.toHw.streamHead site ring true = some c → d.putseq = c.seq → s.toHw.linked c.co.isle site = true →
        s.toHw.cellErrIn [(localKey c.co c.off, c.size)] = none →
      ∃ u : State, exec (.sputPublish site ring) s = .next u ∧ u.toHw.ring site ring = { d with putseq := c.seq + 1 }
        ∧ u.streams = s.streams.erase c
        ∧ (∀ i, i < c.size → memRead u.mem (d.slotPlace site c.seq + i) = memRead s.mem (localKey c.co c.off + i))
        ∧ ∀ b, b < d.slotPlace site c.seq ∨ d.slotPlace site c.seq + c.size ≤ b → memRead u.mem b = memRead s.mem b)
    ∧ (∀ c : StreamCopy, s.Inv → s.toHw.streamHead site ring false = some c → d.getseq = c.seq → s.toHw.linked site c.co.isle = true → (s.toHw.core c.co).barrierIn c.off c.size = none →
        s.toHw.cellErrIn [(localKey c.co c.off, c.size)] = none →
      ∃ u : State, exec (.sgetCopyComplete site ring) s = .next u ∧ u.toHw.ring site ring = { d with getseq := c.seq + 1 }
        ∧ u.streams = s.streams.erase c
        ∧ (∀ i, i < c.size → memRead u.mem (localKey c.co c.off + i) = memRead s.mem (d.slotPlace site c.seq + i))
        ∧ ∀ b, b < localKey c.co c.off ∨ localKey c.co c.off + c.size ≤ b → memRead u.mem b = memRead s.mem b)

/-- Frames slip, complete and start, and launches end, as the manual says. At its scheduled end an incomplete frame counts a
slip, due again after TICKS; at a non-zero SLIPLIM the launch is to end with a KIND 3 record. A complete frame counts the
scheduled ends behind it and moves the launch to the next frame record and to its boundary, which waits for calibration
tasks; one that lost a continuation is to end. At the later of the scheduled end and the boundary acts a checked frame
begins with its tasks placed, and the packet that waits for it issues; a failed check ends the launch with a KIND 2 record
that names the offset. ABORT asks for the end; a launch that is to end, its trap records taken, ends: its rounds are gone,
its cores hold none of its tasks, and with no calibration task left it is gone. An act is stated where its accesses have a
route (log entry 107). The model's choices: the boundary in two steps about its calibration tasks, with slips counted at
completion (log entry 57); the KIND 2 record that names the launch's first isle (log entry 56); an abort that leaves a
calibration task running (log entry 54). (R263, R316, R317, R320, R323, R324, R325, R365, R370.) -/
def Obligations.FramesAndLaunchEnds : Prop :=
  ∀ (s : State) (lid : Nat) (l : Launch) (el : Elastic),
    let rid := s.toHw.recordPa l.q + 48
    let x := s.toHw.queue l.q
    let l1 := l.slip (l.slipsDue s.tick)
    let fails := fun (l : Launch) (o : Out) => ∃ (u : State) (l' : Launch) (r : FaultRec), o = .next u ∧ u.toHw.launch? lid = some l'
      ∧ l'.abort = true ∧ l'.failing = l.failing ++ [r] ∧ r.kind = 3 ∧ r.tick = s.tick ∧ l'.slipIdx = l.slipIdx + 1 ∧ l'.slips = l.slips
      ∧ (∀ t, l.recs.find? (fun t => t.st != .retired) = some t → r.task = t.task ∧ r.iter = t.iter ∧ r.isle = t.co.isle ∧ r.core = t.co.core)
      ∧ (l.slipN = 0 → ∀ a, memRead u.mem a = memRead s.mem a)
    s.toHw.launch? lid = some l → l.lid = lid →
    (l.st = .frame → l.slipEnd.toNat ≤ s.tick.toNat →
      LaunchIs s lid { l with slips := l.slips + 1, slipEnd := l.slipEnd + BitVec.ofNat 64 l.ticks } (exec (.frameScheduledEnd lid) s))
    ∧ (l.st = .frame → l.abort = false → l.slipLim ≠ 0 → l.slipLim ≤ l.slips.toNat → s.Routed (fun h => h.endSlipping l) → fails l (exec (.slipLimit lid) s))
    ∧ (l.st = .frame → l.abort = false → (∀ r ∈ l.recs, r.st = .retired) → s.toHw.roundsOver l (fun _ => true) = true →
      (l1.slipOut = true → s.Routed (fun h => (h.setLaunch l1).endSlipping l1) → fails l1 (exec (.frameComplete lid el) s))
      ∧ (l1.slipOut = false → l.lost = true → LaunchIs s lid { l1 with abort := true } (exec (.frameComplete lid el) s))
      ∧ (l1.slipOut = false → l.lost = false → s.Routed (fun h => (h.setLaunch l1).boundary lid el) →
          ∃ u : State, exec (.frameComplete lid el) s = .next u ∧ ∀ l', u.toHw.launch? lid = some l' →
          (l'.st = .boundary ∨ l'.st = .changes ∧ u.toHw.calBusy l' = true) ∧ l'.frame = l.frame + 1 ∧ l'.fidx = l.next ∧ l'.recs = []
          ∧ l'.ents = [] ∧ l'.slips = l1.slips))
    ∧ (l.st = .changes → l.abort = false →
      (s.toHw.calBusy l = true → exec (.frameComplete lid el) s = .next s)
      ∧ (s.toHw.calBusy l = false → s.Routed (fun h => h.boundaryGo lid el) → ∃ u : State, exec (.frameComplete lid el) s = .next u ∧ ∀ l', u.toHw.launch? lid = some l' →
          l'.st = .boundary ∧ l'.frame = l.frame ∧ l'.fidx = l.fidx))
    ∧ (l.st = .boundary → l.abort = false → l.due.toNat ≤ s.tick.toNat → s.toHw.calBusy l = false →
        (∀ i ∈ l.isles, (s.toHw.isle i).gated = false) → s.errs = [] →
      (∀ f es, s.toHw.atRest.readFrame l = .ok (f, es) → s.Routed (fun h => h.beginFrame l f es) →
        ∃ (u : State) (l' : Launch), exec (.frameStart lid) s = .next u ∧ u.toHw.launch? lid = some l' ∧ l'.st = .frame ∧ l'.start = s.tick
          ∧ l'.due = s.tick + BitVec.ofNat 64 f.ticks ∧ l'.slipEnd = l'.due ∧ l'.ticks = f.ticks ∧ l'.next = f.next ∧ l'.ents = es
          ∧ l'.recs = s.toHw.frameTasks l f.bands es ∧ l'.conts = [] ∧ l'.frame = l.frame
          ∧ l'.begun = true ∧ (l.begun = true → ∀ a, memRead u.mem a = memRead s.mem a)
          ∧ (l.begun = false → l.recva = 0 → ∀ a, a < rid ∨ rid + 16 ≤ a → memRead u.mem a = memRead s.mem a)
          ∧ (∀ p rest, l.begun = false → l.recva = 0 → x.look = p :: rest → x.starting = some lid → (s.toHw.dbSlot l.q).halt = false → (u.toHw.queue l.q).ridx = p.ridx ∧ (u.toHw.queue l.q).chain = p.chain
              ∧ (u.toHw.queue l.q).look = rest ∧ p.place ∈ (u.toHw.queue l.q).running ∧ (u.toHw.queue l.q).lastIssue = s.tick))
      ∧ (∀ e, s.toHw.atRest.readFrame l = .error e → s.Routed (fun h => h.ttFailed l e) →
        ∃ u : State, exec (.frameStart lid) s = .next u ∧ u.toHw.launch? lid = some { l with
            failing := l.failing ++ [{ kind := 2, isle := l.isles.headD 0, tick := s.tick, body := detField 32 8 e.1 }], abort := true }
          ∧ ∀ a, memRead u.mem a = memRead s.mem a))
    ∧ (l.abort = true → s.toHw.recordsWait l = true → exec (.launchAbort lid) s = .next s)
    ∧ (l.abort = true → s.toHw.recordsWait l = false → ∃ u : State, exec (.launchAbort lid) s = .next u
        ∧ (s.toHw.calBusy l = false → (s.upd (fun h => h.discardWork l)).Routed (fun h =>
            let h := l.failing.foldl (fun h r => h.logFault lid r) h
            h.endLaunch ((h.launch? lid).getD l) 2) → u.toHw.launch? lid = none) ∧ (∀ q ∈ u.rounds, q.lid ≠ lid)
        ∧ ∀ co ∈ s.toHw.launchCores l, ∀ t, (u.toHw.core co).task = some t → t.calib = true)
    ∧ LaunchIs s lid { l with
        failing := l.failing ++ [{ kind := 4, tick := s.tick }]
        abort := true } (exec (.lctlAbort lid) s)

/-- Trap records are served, stops resumed, machine faults recorded. The controller takes the record at TQHEAD: a break of a
launch on hold leaves the core held, a translation fault found mended is repaired, any other record that has no repair
makes the stop fatal and hands every record of the stop to the launch, which is to end. A stop without unrepaired or fatal
records restarts: engines keep their registers, halted commands restart at DONE. An error in the cells of local or
accumulator memory, or of a queue's entry, waits until an instruction's access meets it, which raises 0x70 in place of its
group; a command or a tile that meets one, or the landing buffer, stops the core at once and enters MCLOG; a fault of a
line marks it, an error in its cells waits for the next read; one of an isle ends its launch. The class numbers 1, 3, 4
and 12 of MCLOG are the model's reading (log entry 27), and so is where an error waits for the access that meets it (log
entry 79). (R27, R360, R362, R364, R365, R369, R370.) -/
def Obligations.TrapServiceAndResume : Prop :=
  ∀ (s : State) (isle off pa quay addr uid : Nat) (un : Bool) (w : BitVec 96) (n : Insn) (co : CoreId) (e : EngId) (r : TrapRec) (t : Task) (l : Launch),
    let x := s.toHw.isle isle
    let k := s.toHw.core co
    let walk := s.toHw.walkRoot l.rootpa r.addr.toNat
    let served := fun (u : State) => (u.toHw.isle isle).tqHead = x.tqHead + 1 ∧ ∀ a, memRead u.mem a = memRead s.mem a
    let met := { s with ix := { s.ix with slot := uid, word := w } }
    let halts := fun (site : FaultSite) (cls off : Nat) => ∃ u : State, exec (.machineFault site) s = .next u
      ∧ (u.toHw.core co).stopped = true ∧ (u.toHw.isle co.isle).mclog = (s.toHw.isle co.isle).mclog.push cls off
      ∧ ∀ a, memRead u.mem a = memRead s.mem a
    (x.tqHead ≠ x.tqTail → tabFind x.trapq (x.tqHead.toNat % 1024) = some (r, co) → k.task = some t → k.stopped = true → k.fatal = false →
        s.toHw.launch? t.lid = some l → l.lid = t.lid →
      (r.code = 0x41 → setHas s.holds t.lid = true →
        ∃ u : State, exec (.trapRecordService isle) s = .next u ∧ u.toHw.core co = { k with
            unrep := k.unrep - 1
            taken := k.taken ++ [r]
            held := true } ∧ served u)
      ∧ (r.code = 0x20 → (∃ f lv en, walk = .ok f lv en) → s.errs = [] →
          (∀ p ∈ s.toHw.entriesFrom r.addr.toNat 4 0 l.rootpa, s.toHw.barAt { src := co.isle, pkey := l.pkey } opRead p = none) →
        ∃ u : State, exec (.trapRecordService isle) s = .next u ∧ u.toHw.core co = { k with
            unrep := k.unrep - 1
            taken := k.taken ++ [r] } ∧ served u)
      ∧ (r.code ≠ 0x20 → r.code ≠ 0x21 → ¬(r.code = 0x41 ∧ setHas s.holds t.lid = true) →
        ∃ (u : State) (l' : Launch), exec (.trapRecordService isle) s = .next u ∧ (u.toHw.core co).fatal = true ∧ (u.toHw.core co).stopped = true
          ∧ u.toHw.launch? t.lid = some l' ∧ l'.abort = true ∧ l'.failing = l.failing ++ (k.taken ++ [r]).map (s.toHw.trapFault co t)
          ∧ served u))
    ∧ (k.stopped = true → k.unrep = 0 → k.fatal = false →
      ∃ k' : Core, CoreIs s co k' (exec (.cctlResume co) s) ∧ k'.stopped = false ∧ k'.stopOpen = false ∧ k'.held = false ∧ k'.nrec = 0 ∧ k'.unrep = 0
        ∧ k'.lhalt = false ∧ k'.shalt = false ∧ k'.cmds = k.cmds.map (fun c => { c with fault := none }) ∧ k'.task = k.task ∧ k'.cu = k.cu
        ∧ ∀ e, (k'.eng e).g = (k.eng e).g ∧ (k'.eng e).pc = (k.eng e).pc ∧ (k'.eng e).st = (k.eng e).st)
    ∧ (k.stopped = true → (k.unrep ≠ 0 ∨ k.fatal = true) → exec (.cctlResume co) s = .next s)
    ∧ exec (.machineFault (.localMem co (.eng e) off)) s
        = .next { s with toHw := { s.toHw with cellErrs := setAdd (localKey co off / 16) s.cellErrs } }
    ∧ exec (.machineFault (.accMem co (.eng e) off)) s
        = .next { s with toHw := { s.toHw with cellErrs := setAdd (accKey co.isle (CoreId.ins co) off / 16) s.cellErrs } }
    ∧ CoreIs s co (k.spoil e off) (exec (.machineFault (.queueParity co e off)) s)
    ∧ (∀ (v : State) (g : Nat), (s.p n.gp).psn = false → s.guardTrue n = true → exec n.op met = .next v → v.ix.trap = none →
        v.ix.blocked = false →
        (s.toHw.cellErrIn (met.localSpans n.op) = some g →
          ∃ i : TrapInfo, s.runSlot uid w n = .next (met.raise i) ∧ i.code = 0x70 ∧ i.detail = machineDetail 3 (16 * g - localKey s.ix.co 0))
        ∧ (s.toHw.cellErrIn (met.localSpans n.op) = none → s.toHw.cellErrIn (met.accSpans n.op) = some g →
          s.runSlot uid w n = .next (met.raise { code := 0x70, detail := machineDetail 4 (16 * g - accKey s.ix.co.isle (CoreId.ins s.ix.co) 0) })))
    ∧ (∀ y, tabFind k.slots off = some y → halts (.landingBuffer co off) 1 off)
    ∧ (tabFind k.slots off = none → exec (.machineFault (.landingBuffer co off)) s = .next s)
    ∧ (∀ c, k.cmds.find? (fun c => c.uid == uid) = some c → c.started = true → c.performed = false → c.fault = none →
        halts (.localMem co (.command uid) off) 3 off
        ∧ ∀ u : State, exec (.machineFault (.localMem co (.command uid) off)) s = .next u →
            ∃ f ∈ ((u.toHw.core co).cmds.filter (fun c => c.uid == uid)), ∃ r, f.fault = some r ∧ r.code = 0x70)
    ∧ (∀ sl y, tabFind k.slots sl = some y → y.tile = none → exec (.machineFault (.accMem co (.tile sl) off)) s = .next s)
    ∧ (∀ sl y z, tabFind k.slots sl = some y → y.tile = some z → z.halted = true → exec (.machineFault (.accMem co (.tile sl) off)) s = .next s)
    ∧ (∀ sl y z, tabFind k.slots sl = some y → y.tile = some z → z.halted = false → halts (.accMem co (.tile sl) off) 4 off)
    ∧ (∃ u : State, exec (.machineFault (.hbmLine pa)) s = .next u ∧ (u.toHw.lineOf pa).bad = true ∧ u.cores = s.cores
        ∧ ∀ a, memRead u.mem a = memRead s.mem a)
    ∧ (∃ u : State, exec (.machineFault (.hbmCells pa un)) s = .next u ∧ u = { s with toHw := { s.toHw with errs := u.errs } }
        ∧ tabFind u.errs (pa / 64) = some (un || tabGet false s.errs (pa / 64)))
    ∧ (∃ u : State, exec (.machineFault (.quaySram quay addr)) s = .next u
        ∧ (u.toHw.quay quay).mclog = (s.toHw.quay quay).mclog.push 12 addr ∧ ∀ a, memRead u.mem a = memRead s.mem a)
    ∧ (∃ u : State, exec (.machineFault (.isleUnit isle)) s = .next u
        ∧ ∀ lid l, s.toHw.launch? lid = some l → l.lid = lid → l.isles.contains isle = true → ∃ l', u.toHw.launch? lid = some l' ∧ l'.abort = true)

/-- Doorbells, mapping and unmapping of command queues, and the harbour's restart. A doorbell write of a mapped queue raises
WIDX to the maximum; of another it raises SHADOW and sets the ATTN bit. Mapping takes the free slot of lowest index, loads
the record and WIDX from SHADOW, clears ATTN and reads on at RIDX; unmapping frees the slot and leaves SHADOW not below
WIDX, at once or, for QCMD, once the queue is idle; clearing a fault maps the queue again without HALT; QCMD outside its
block is counted as a violation and does nothing else. After a restart every queue reads again from its read index and
call chain. The record is read and written as the quay's master, where that request is admitted and has a route (log
entries 107 and 120). The model's choices: a launch that has begun to start stays at the head through a restart (the
premise on starting, log entry 80); QCMD's unmap is held until the queue is idle, and its violations name the management
path's master (log entry 65). (R334, R335, R336, R337, R338, R339.) -/
def Obligations.DoorbellsAndMapping : Prop :=
  ∀ (s : State) (q quay i : Nat) (v : BitVec 64),
    let x := s.toHw.queue q
    let y := s.toHw.quay (q / 256)
    let d := s.toHw.dbSlot q
    let pa := s.toHw.recordPa q
    let rec_ := s.toHw.bytes pa 64
    let same := fun (u : State) => ∀ a, memRead u.mem a = memRead s.mem a
    let shadow := fun (u : State) (n : Nat) => u.toHw.num (pa + 48) 8 = max (s.toHw.num (pa + 48) 8) n
      ∧ ∀ a, a < pa + 48 ∨ pa + 56 ≤ a → memRead u.mem a = memRead s.mem a
    let writes := s.toHw.barAt (quayMaster q 0) opWrite (pa + 48) = none
    let reads := s.toHw.barAt (quayMaster q 0) opRead pa = none ∧ (s.toHw.lineOf pa).bad = false ∧ tabFind s.errs (pa / 64) = none ∧ ¬s.boot.stage < 3
    let free := tabFree y.slots 64 = some i ∧ reads ∧ recordOk rec_ = true ∧ x.starting = none
    let maps := fun (o : Out) => ∃ u : State, o = .next u
      ∧ tabFind (u.toHw.quay (q / 256)).slots i = some { q := q, fcode := 0, halt := false, widx := BitVec.ofNat 64 (fieldAt rec_ 48 8) }
      ∧ (u.toHw.quay (q / 256)).attn = setDel q y.attn ∧ (u.toHw.queue q).look = [] ∧ (u.toHw.queue q).ridx = x.ridx
      ∧ (u.toHw.queue q).readIdx = x.ridx ∧ (u.toHw.queue q).readChain = x.chain ∧ (u.toHw.queue q).rbase = fieldAt rec_ 0 8
      ∧ (u.toHw.queue q).rootpa = fieldAt rec_ 32 8 ∧ (u.toHw.queue q).prio = fieldAt rec_ 9 1 ∧ same u
    let unmaps := fun (o : Out) => ∃ u : State, o = .next u ∧ tabFind (u.toHw.quay (q / 256)).slots i = none ∧ shadow u d.widx.toNat
      ∧ (u.toHw.queue q).look = [] ∧ (u.toHw.queue q).ridx = x.ridx
    let idle := d.widx = x.ridx ∧ x.chain = [] ∧ x.look = [] ∧ x.pending = none
    let ignores := fun (o : Out) => ∃ u : State, o = .next u ∧ same u ∧ u = { s with toHw := { s.toHw with quays := u.quays } }
      ∧ (u.toHw.quay quay).slots = (s.toHw.quay quay).slots
      ∧ (u.toHw.quay quay).acc.viol = if (s.toHw.quay quay).acc.viol = 0xFFFFFFFF#32 then 0xFFFFFFFF#32 else (s.toHw.quay quay).acc.viol + 1
    (y.slotOf q = some i → ∃ u : State, exec (.dbnotify q v) s = .next u ∧ same u ∧ u = { s with toHw := { s.toHw with quays := u.quays } }
        ∧ tabFind (u.toHw.quay (q / 256)).slots i = some { d with widx := if d.widx.toNat < v.toNat then v else d.widx })
    ∧ (s.Inv → y.slotOf q = none → writes → ∃ u : State, exec (.dbnotify q v) s = .next u ∧ shadow u v.toNat ∧ setHas (u.toHw.quay (q / 256)).attn q = true)
    ∧ (y.slotOf q = none → free → maps (exec (.queueMap q) s) ∧ maps (exec (.qcmdMap (q / 256) q) s)
        ∧ (∀ rest, y.attn = q :: rest → maps (exec (.attnService (q / 256)) s)))
    ∧ (y.slotOf q = some i → ∀ rest, y.attn = q :: rest → ∃ u : State, exec (.attnService (q / 256)) s = .next u ∧ same u
        ∧ (u.toHw.quay (q / 256)).attn = setDel q y.attn ∧ (u.toHw.quay (q / 256)).slots = y.slots)
    ∧ (s.Inv → y.slotOf q = some i → idle → writes → d.halt = false → unmaps (exec (.queueUnmap q) s) ∧ unmaps (exec (.qcmdUnmap (q / 256) q) s))
    ∧ (y.slotOf q = some i → ¬idle → ∃ u : State, exec (.qcmdUnmap (q / 256) q) s = .next u ∧ same u
        ∧ u = { s with toHw := { s.toHw with quays := u.quays } } ∧ setHas (u.toHw.quay (q / 256)).unmapWait q = true
        ∧ (u.toHw.quay (q / 256)).slots = y.slots)
    ∧ (s.Inv → y.slotOf q = some i → i < 64 → d.halt = true → reads → writes → recordOk rec_ = true → x.starting = none →
      ∃ (u : State) (j : Nat), exec (.qcmdClearFault (q / 256) q) s = .next u ∧ shadow u d.widx.toNat
        ∧ tabFind (u.toHw.quay (q / 256)).slots j = some {
            q := q, fcode := 0, halt := false, widx := BitVec.ofNat 64 (max (fieldAt rec_ 48 8) d.widx.toNat) }
        ∧ (u.toHw.queue q).readIdx = x.ridx)
    ∧ (q / 256 ≠ quay → ignores (exec (.qcmdMap quay q) s) ∧ ignores (exec (.qcmdUnmap quay q) s) ∧ ignores (exec (.qcmdClearFault quay q) s))
    ∧ (∃ u : State, exec (.harbourRestart) s = .next u ∧ u = { s with toHw := { s.toHw with queues := u.queues } }
        ∧ ∀ n, (u.toHw.queue n).pending = none ∧ (u.toHw.queue n).ridx = (s.toHw.queue n).ridx ∧ (u.toHw.queue n).chain = (s.toHw.queue n).chain
          ∧ ((s.toHw.queue n).starting = none → (u.toHw.queue n).look = [] ∧ (u.toHw.queue n).readIdx = (s.toHw.queue n).ridx
              ∧ (u.toHw.queue n).readChain = (s.toHw.queue n).chain))

/-- The look-ahead reads packets, follows CALL and RETURN, and faults on what it cannot take. A queue that may read on takes
its next packet at the end of what it holds, and stands after it; a CALL opens its buffer at packet 0, a ninth level is
queue fault 2; a RETURN ends the innermost buffer, outside any it is queue fault 2. A packet that could not be read or
used halts the queue with its code when it stands at the issue point, the read index after it. A CALL or RETURN takes no
place. The model's choices: a bad packet faults only at the issue point, and a RETURN moves the issued position only when
nothing before it waits (log entry 66); the position after a faulting packet inside a buffer is the buffer's next (log
entry 20); a reading that failed, and the write of RIDXC, have a route (log entries 107 and 120). (R339, R342, R343,
R357.) -/
def Obligations.LookAhead : Prop :=
  ∀ (s : State) (q : Nat) (b : List Byte) (p : QPos),
    let x := s.toHw.queue q
    let a := fieldAt b 8 8
    let n := fieldAt b 16 2
    let next := stepPos x.readIdx x.readChain
    let back := returnPos x.readIdx x.readChain
    let rid := s.toHw.recordPa q + 56
    let takes := fun (alone : Prop) (bad : BitVec 4) (p : QPos) (o : Out) => ∃ (u : State) (k : Packet), o = .next u
      ∧ (alone → u = { s with toHw := { s.toHw with queues := u.queues } }) ∧ (u.toHw.queue q).look = x.look ++ [k] ∧ k.bad = bad ∧ k.bytes = b
      ∧ k.ridx = p.1 ∧ k.chain = p.2 ∧ k.place = x.places ∧ k.takes = decide (pktType b ≠ 2 ∧ pktType b ≠ 3)
      ∧ (u.toHw.queue q).places = (if k.takes then x.places + 1 else x.places) ∧ (u.toHw.queue q).readIdx = p.1 ∧ (u.toHw.queue q).readChain = p.2
      ∧ (u.toHw.queue q).pending = none ∧ (u.toHw.queue q).ridx = x.ridx
    (s.errs = [] → s.toHw.mayFetch q = true → s.toHw.readPacket q = some (b, 0, p) →
      (pktType b ≠ 2 → pktType b ≠ 3 → takes True 0 p (exec (.packetFetch q) s))
      ∧ (pktType b = 2 ∨ pktType b = 3 → QueueIs s q { x with pending := some b } (exec (.packetFetch q) s)))
    ∧ (∀ c, s.errs = [] → s.toHw.mayFetch q = true → c ≠ 0 → s.toHw.readPacket q = some (b, c, p) →
        (c = 3 → s.Routed (fun h => h.notePacket q)) → takes (c ≠ 3) c p (exec (.packetFetch q) s))
    ∧ (∀ (k : Packet) (rest : List Packet), x.look = k :: rest → k.bad ≠ 0 → s.toHw.mapped q = true → (s.toHw.dbSlot q).halt = false →
        q ∉ (s.toHw.quay (q / 256)).unmapWait → s.toHw.barAt (quayMaster q 0) opWrite rid ≠ some .route →
      ∃ u : State, exec (.packetFetch q) s = .next u
        ∧ (∀ i, (s.toHw.quay (q / 256)).slotOf q = some i →
            ∃ d, tabFind (u.toHw.quay (q / 256)).slots i = some d ∧ d.halt = true ∧ d.fcode = k.bad)
        ∧ (u.toHw.queue q).ridx = k.ridx ∧ (u.toHw.queue q).chain = k.chain ∧ (u.toHw.queue q).look = []
        ∧ (u.toHw.queue q).places = (if k.takes then k.place + 1 else k.place))
    ∧ (x.pending = some b → pktType b = 2 → a % 64 = 0 → n ≠ 0 → zeroFrom b 18 = true →
      (x.readChain.length < 8 → x.grants a (64 * n) pLd = true →
        QueueIs s q { x with readChain := (a, 0, n) :: x.readChain, pending := none } (exec (.callPacket q) s))
      ∧ (8 ≤ x.readChain.length → takes True 2 next (exec (.callPacket q) s))
      ∧ (x.readChain.length < 8 → x.grants a (64 * n) pLd = false → takes True 3 next (exec (.callPacket q) s)))
    ∧ (x.pending = some b → pktType b = 3 → zeroFrom b 8 = true →
      (x.readChain ≠ [] → (x.look = [] → s.toHw.barAt (quayMaster q 0) opWrite rid ≠ some .route) → ∃ u : State, exec (.returnPacket q) s = .next u ∧ (u.toHw.queue q).readIdx = back.1
          ∧ (u.toHw.queue q).readChain = back.2 ∧ (u.toHw.queue q).pending = none ∧ (u.toHw.queue q).look.length = x.look.length
          ∧ (x.look = [] → (u.toHw.queue q).ridx = back.1 ∧ (u.toHw.queue q).chain = back.2))
      ∧ (x.readChain = [] → takes True 2 next (exec (.returnPacket q) s)))

/-- JOIN, COPY, SIGNAL, WAITVALUE, LAUNCH, PREEMPT and REFINE issue and act as the manual says. The packet at the issue point
of the queue that the issue stage picks, its checks passed, issues: the read index stands after it and it leaves the
look-ahead. JOIN waits for the packet it names; COPY moves its bytes; SIGNAL stores VALUE or the sum; WAITVALUE waits for
its condition, past TIMEOUT it is queue fault 5; LAUNCH and REFINE take an LID and isles and begin a launch, REFINE with
its block, and stand at the issue point until the first frame starts; PREEMPT asks its launch, or block between two runs,
to stop with an image, or aborts it. Each is stated where its accesses have a route (log entry 107). The model's choices:
a COPY in one step (log entry 67), TIMEOUT strictly passed (log entry 68), PREEMPT of a block between runs (log entry 69),
and the harbour's writes through a leaf whatever its W and COW (log entry 28). (R339, R344, R345, R346, R349, R350, R351,
R352, R353, R357.) -/
def Obligations.PacketsAtTheIssuePoint : Prop :=
  ∀ (s : State) (q : Nat) (p : Packet),
    let h := s.toHw.atRest
    let x := s.toHw.queue q
    let b := p.bytes
    let rid := s.toHw.recordPa q + 48
    let out := fun (a : Nat) => a < rid ∨ rid + 16 ≤ a
    let issued := fun (u : State) => (u.toHw.queue q).ridx = p.ridx ∧ (u.toHw.queue q).chain = p.chain ∧ (u.toHw.queue q).look = x.look.tail
      ∧ (u.toHw.queue q).lastIssue = s.tick
    let begins := fun (u : State) (lid : Nat) (isles : List Nat) (sp : Spec) => (u.toHw.queue q).starting = some lid
      ∧ (u.toHw.queue q).look = x.look ∧ (u.toHw.queue q).ridx = x.ridx ∧ ∃ l, u.toHw.launch? lid = some l ∧ l.lid = lid ∧ l.q = q ∧ l.place = p.place ∧ l.isles = isles ∧ l.seed = sp.req.seed
        ∧ l.roots = sp.roots ∧ l.st = .boundary ∧ l.due = s.tick ∧ l.begun = false
    s.Inv → h.headPacket q = some p → h.wins q = true → x.starting = none → s.errs = [] →
    (pktType b = 4 → fieldAt b 8 2 ≠ 0 → zeroFrom b 10 = true → x.joined p = true → s.Routed (fun h => h.issueHead q p false) →
      ∃ u : State, exec (.join q) s = .next u ∧ issued u ∧ ∀ a, out a → memRead u.mem a = memRead s.mem a)
    ∧ (∀ data h', pktType b = 5 → h.checkCopy q b = .ok data → h.writeVa (x.master q) x.rootpa (fieldAt b 16 8) data = (true, h') →
        (h'.issueHead q p false).stall = false →
      ∃ u : State, exec (.copy q) s = .next u ∧ issued u ∧ ∀ a, out a → memRead u.mem a = memRead h'.mem a)
    ∧ (∀ h', pktType b = 6 → x.running = [] → h.checkSignal q b = .ok () →
        (if fieldAt b 24 1 = 0 then h.writeVa (x.master q) x.rootpa (fieldAt b 8 8) (leBytes 8 (fieldAt b 16 8))
          else h.addVa (x.master q) x.rootpa (fieldAt b 8 8) (fieldAt b 16 8)) = (true, h') → (h'.issueHead q p false).stall = false →
      ∃ u : State, exec (.signal q) s = .next u ∧ issued u ∧ ∀ a, out a → memRead u.mem a = memRead h'.mem a)
    ∧ (∀ va pa v, h.paOf x.rootpa va false = some pa → paTarget pa = .line → h.addVa (x.master q) x.rootpa va v
        = h.writeVa (x.master q) x.rootpa va (leBytes 8 (h.num pa 8 + v)))
    ∧ (∀ va pa bs, h.paOf x.rootpa va false = some pa → paTarget pa = .line → bs ≠ [] → va % 65536 + bs.length ≤ 65536 →
        (∀ e ∈ h.entriesFrom va 4 0 x.rootpa, h.barAt (x.master q) opRead e = none) →
        (∀ c ∈ lineCuts (bs.length / 64 + 2) pa bs.length, h.barAt (x.master q) opWrite c.1 = none ∧ (c.2 = 64 ∨ (h.lineOf c.1).bad = false)) →
      ∃ h', h.writeVa (x.master q) x.rootpa va bs = (true, h') ∧ h'.stall = false
        ∧ (∀ i, i < bs.length → memRead h'.mem (pa + i) = bs.getD i 0)
        ∧ ∀ a, a < pa ∨ pa + bs.length ≤ a → memRead h'.mem a = memRead s.mem a)
    ∧ (pktType b = 7 → h.checkWait q b = .ok true → s.Routed (fun h => h.issueHead q p false) →
      (∃ u : State, exec (.waitvalue q) s = .next u ∧ issued u ∧ ∀ a, out a → memRead u.mem a = memRead s.mem a)
      ∧ ∃ u : State, exec (.waitvaluePoll q) s = .next u ∧ issued u ∧ ∀ a, out a → memRead u.mem a = memRead s.mem a)
    ∧ (∀ t, pktType b = 7 → x.waitFrom = some t → fieldAt b 36 4 ≠ 0 → fieldAt b 36 4 < (s.tick - t).toNat → s.toHw.waitHolds q b = some false →
        q ∉ (s.toHw.quay (q / 256)).unmapWait → s.Routed (fun h => h.faultHead q 5) →
      ∃ u : State, exec (.waitvalueTimeout q) s = .next u ∧ (u.toHw.queue q).ridx = p.ridx ∧ (u.toHw.queue q).look = []
        ∧ ∀ i, (s.toHw.quay (q / 256)).slotOf q = some i → ∃ d, tabFind (u.toHw.quay (q / 256)).slots i = some d ∧ d.halt = true ∧ d.fcode = 5)
    ∧ (∀ sp lid isles, pktType b = 1 → h.prepLaunch q (launchReq b) = .ok sp → h.allocate q sp none = some (lid, isles) → sp.image = none →
        s.Routed (fun h => ((h.holdHead q lid).startLaunch q p.place lid sp isles none).getD h) →
      ∃ u : State, exec (.launch q) s = .next u ∧ begins u lid isles sp)
    ∧ (∀ sp run lid isles, pktType b = 9 → h.prepRefine q b = .ok (run, sp) → h.allocate q sp none = some (lid, isles) →
        sp.image = none →
        (let r0 : Refine := { q := q, place := p.place, bytes := b, lid := lid, run := run, thr := Config.noThr }
        s.Routed (fun h =>
          let g := if refineResume b then (true, h) else h.writeRefine r0 0 0 0 0 true 0 [0, 0, 0, 0]
          let r := { r0 with stateOk := g.1 }
          (({ g.2.holdHead q lid with refines := g.2.refines ++ [r] } : Hw).startLaunch q p.place lid sp isles (some r)).getD h)) →
      ∃ (u : State) (r : Refine), exec (.refine q) s = .next u ∧ begins u lid isles sp ∧ r ∈ u.refines ∧ r.q = q ∧ r.place = p.place ∧ r.lid = lid
        ∧ r.run = run ∧ r.bytes = b)
    ∧ (∀ l, pktType b = 8 → h.checkPreempt q b = .ok (.launch l) → s.toHw.launch? l.lid = some l → s.Routed (fun h => h.issueHead q p true) →
      ∃ (u : State) (l' : Launch), exec (.preempt q) s = .next u ∧ issued u ∧ u.toHw.launch? l.lid = some l' ∧ l'.awaited = l.awaited ++ [(q, p.place)]
        ∧ (fieldAt b 10 1 = 0 → l'.preempt = some (fieldAt b 16 8) ∧ l'.abort = l.abort)
        ∧ (fieldAt b 10 1 = 1 → l'.abort = true ∧ l'.failing = l.failing ++ [{ kind := 4, tick := s.tick }]))
    ∧ (∀ r, pktType b = 8 → h.checkPreempt q b = .ok (.block r) → s.Routed (fun h => h.issueHead q p true) →
      ∃ (u : State) (y : Refine), exec (.preempt q) s = .next u ∧ issued u ∧ y ∈ u.refines ∧ y.q = r.q ∧ y.place = r.place
        ∧ y.awaited = r.awaited ++ [(q, p.place)] ∧ (fieldAt b 10 1 = 0 → y.preempt = some (fieldAt b 16 8))
        ∧ (fieldAt b 10 1 = 1 → y.ended = some 2))

/-- The run of a REFINE block that ended leads to its next run or to its exit. A block whose run was pre-empted is over; one
whose run ended with a fault, or whose state could not be written, exits with 5. After FACT follows RESID, after RESID
NORM, after SOLVE RESID with K one higher; after NORM the loop body of R355 decides: a FACT run of the next rung with its
cause kept, a SOLVE run, or an exit. The state block holds what the next run needs, and the run begins on the isles it
takes, waits for them, or, its checks failed, ends the block. On an exit the result record of R356 is written, the block
leaves, and its packet runs no more. Each is stated where its accesses have a route (log entry 107). (R353, R354, R355,
R356.) -/
def Obligations.RefineRunsEnd : Prop :=
  ∀ (s : State) (q : Nat) (r : Refine),
    let h := s.toHw.atRest
    let x := s.toHw.queue q
    let st := h.refineState q r.bytes
    let k := fieldAt st 16 4
    let rung := fieldAt st 20 1
    let stag := fieldAt st 21 1
    let fresh := fieldAt st 23 1 % 2 == 1
    let prev := fieldAt st 24 4
    let causes := (List.range 4).map (fun i => fieldAt st (28 + i) 1)
    let leaves := fun (u : State) => r ∉ u.refines ∧ r.place ∉ (u.toHw.queue q).running
    let gone := ∃ u : State, exec (.refineRunEnd q) s = .next u ∧ leaves u
    let writable := fun (g : Hw) (va n pa : Nat) => g.errs = [] ∧ g.stall = false ∧ g.paOf x.rootpa va false = some pa ∧ paTarget pa = .line
      ∧ va % 65536 + n ≤ 65536 ∧ (∀ e ∈ g.entriesFrom va 4 0 x.rootpa, g.barAt (x.master q) opRead e = none)
      ∧ ∀ c ∈ lineCuts (n / 64 + 2) pa n, g.barAt (x.master q) opWrite c.1 = none ∧ (c.2 = 64 ∨ (g.lineOf c.1).bad = false)
    let exits := fun (g : Hw) (thr : BitVec 64) (code : Nat) => ∃ u : State, exec (.refineRunEnd q) s = .next u ∧ leaves u
      ∧ ∀ pa, writable g (fieldAt r.bytes 80 8) 64 pa →
        (let b := g.refineState q r.bytes
        let at_ := fun (o n v : Nat) => u.toHw.num (pa + o) n = v
        at_ 0 1 code ∧ at_ 1 1 (fieldAt b 20 1) ∧ at_ 2 2 0 ∧ at_ 4 4 (fieldAt b 16 4) ∧ at_ 8 4 (fieldAt b 0 4) ∧ at_ 12 4 0
          ∧ at_ 16 8 thr.toNat ∧ at_ 24 4 (fieldAt b 28 4) ∧ at_ 28 4 0 ∧ at_ 32 8 s.tick.toNat ∧ at_ 40 24 0)
    let goes := fun (g : Hw) (r' : Refine) =>
      (let set := fieldAt (g.refineState q r.bytes) 20 1
      g.errs = [] →
      (∀ e, g.prepRun q r.bytes r'.run set false = .error e → gone)
      ∧ ∀ sp, g.prepRun q r.bytes r'.run set false = .ok sp →
        (g.allocate q sp (some r.lid) = none → ∃ u : State, exec (.refineRunEnd q) s = .next u ∧ r' ∈ u.refines)
        ∧ ∀ lid isles, g.allocate q sp (some r.lid) = some (lid, isles) →
          ∃ (u : State) (y : Refine) (l : Launch), exec (.refineRunEnd q) s = .next u ∧ y ∈ u.refines
            ∧ y = { r' with going := true, preempt := none, awaited := [] } ∧ u.toHw.launch? r.lid = some l ∧ l.isles = isles ∧ l.place = r.place
            ∧ l.st = .boundary ∧ l.ttva = runTable r.bytes r'.run)
    s.Inv → s.errs = [] → s.toHw.refines.find? (fun r => r.q == q && !r.going) = some r → (h.readGrant q (fieldAt r.bytes 72 8) 64).isSome = true →
      s.Routed (fun h => h.runEnds r) →
    (r.ended = none → goes h r)
    ∧ (r.ended = some 3 → gone)
    ∧ (∀ v, r.ended = some v → v ≠ 3 → (v ≠ 1 ∨ r.stateOk = false) → exits h r.thr 5)
    ∧ (r.ended = some 1 → r.stateOk = true →
      (∀ sg code g, r.run = 2 → refineStep r.bytes st = (sg, .exit code) →
        (h.writeRefine r k rung sg 2 fresh prev causes = (true, g) → exits g (f64Of (refineThr r.bytes st)) code)
        ∧ (h.writeRefine r k rung sg 2 fresh prev causes = (false, g) → exits g (f64Of (refineThr r.bytes st)) 5))
      ∧ ∀ (k' rung' sg run' : Nat) (fresh' : Bool) (prev' : Nat) (causes' : List Nat) (r1 : Refine) (g : Hw),
        ((r.run = 0 ∧ k' = k ∧ rung' = rung ∧ sg = stag ∧ run' = 1 ∧ fresh' = fresh ∧ prev' = prev ∧ causes' = causes ∧ r1 = r)
        ∨ (r.run = 1 ∧ k' = k ∧ rung' = rung ∧ sg = stag ∧ run' = 2 ∧ fresh' = fresh ∧ prev' = prev ∧ causes' = causes ∧ r1 = r)
        ∨ (r.run = 3 ∧ k' = k + 1 ∧ rung' = rung ∧ sg = stag ∧ run' = 1 ∧ fresh' = fresh ∧ prev' = prev ∧ causes' = causes ∧ r1 = r)
        ∨ (r.run = 2 ∧ (∃ a c, refineStep r.bytes st = (a, .fact c) ∧ causes' = causes.set rung c) ∧ k' = k ∧ rung' = rung + 1 ∧ sg = 0 ∧ run' = 0
            ∧ fresh' = true ∧ prev' = prev ∧ r1 = { r with thr := f64Of (refineThr r.bytes st) })
        ∨ (r.run = 2 ∧ refineStep r.bytes st = (sg, .solve) ∧ k' = k ∧ rung' = rung ∧ run' = 3 ∧ fresh' = false ∧ prev' = fieldAt st 0 4
            ∧ causes' = causes ∧ r1 = { r with thr := f64Of (refineThr r.bytes st) })) →
        (let r' := fun (ok : Bool) => { r1 with run := run', ended := none, stateOk := ok }
        (h.writeRefine r k' rung' sg run' fresh' prev' causes' = (true, g) → goes (g.setRefine r (r' true)) (r' true))
        ∧ (h.writeRefine r k' rung' sg run' fresh' prev' causes' = (false, g) → exits g r1.thr 5)))

/-- Link ports take flits in hop order, forward, replay, go down and come up. The bytes of a flit say what the flit holds,
field by field. A live port that holds no flit back for credits takes a flit of the next hop sequence with a good CRC:
what its trailer covers leaves the replay buffer, credits return, and one of no known type or class or too long counts in
BADFLIT; what the port owes the other side it tells in an idle flit; a read request of another module leaves by its next
hop with one hop more. A flit out of order or with a bad CRC is not taken. A replay is counted, the third failed one takes
the port down; PORT_DOWN makes a port not live, PORT_UP live with hop sequences that begin anew; a flip makes its
generation active. The model's choices: the form of the CRC, the idle flit that tells what a port owes with a hop sequence
of its own, the credits and hop sequences at port up and a LEN above 224 as BADFLIT (log entry 93), the first hop sequence
number (log entry 43), an access table that decides requests where they enter (log entry 44), and from which stage a port
may be live (log entry 95). (R278, R279, R280, R281, R282, R284, R285.) -/
def Obligations.LinkPorts : Prop :=
  ∀ (s : State) (p : Nat) (bytes : List Byte) (crc : BitVec 64) (gen : Bool) (cause : BitVec 8),
    let x := s.toHw.port p
    let f := flitOf bytes
    let covered := fun (r : Routed) => decide ((f.hack - r.f.hseq).toNat < 2 ^ 15)
    let i := flitClass f
    let taken := { x with
      replays := if x.sent.any covered then 0 else x.replays
      sent := x.sent.filter (fun r => !covered r)
      credits := Vector.ofFn (fun i => x.credits.get i + BitVec.ofNat 8 (f.cred.toNat / 256 ^ i.val))
      rxSeq := f.hseq
      owes := x.owes || f.type != 0 }
    let left := { taken with freed := x.freed.set i.val (x.freed.get i + 1) i.isLt, owes := true, badflit := x.badflit + 1 }
    let only := fun (u : State) => u = { s with toHw := { s.toHw with ports := u.ports } }
    let told := fun (u : State) (y : Port) => u.toHw.port p = if y.up && y.owes then { y with
        txSeq := y.txSeq + 1
        owes := false
        freed := Vector.replicate 3 0
        sent := y.sent ++ [{ table := 128, gen := false, inBuf := false, f := { idleFlit with
          hseq := y.txSeq + 1
          hack := y.rxSeq
          cred := BitVec.ofNat 32 ((y.freed.get 0).toNat + 2 ^ 8 * (y.freed.get 1).toNat + 2 ^ 16 * (y.freed.get 2).toNat) } }] }
      else y
    (∀ y : Flit, y.payload.length = 224 → flitOf y.body = y) ∧ (p < 128 →
    (x.up = true → flitIntact bytes crc = true → f.hseq = x.rxSeq + 1 → x.full = [] →
      (f.type = 0 → f.cls ≠ 3 → f.len.toNat ≤ 224 → ∃ u : State, exec (.flitReceive p bytes crc) s = .next u ∧ only u ∧ told u taken)
      ∧ (7 ≤ f.type.toNat ∨ 224 < f.len.toNat → f.cls ≠ 3 → ∃ u : State, exec (.flitReceive p bytes crc) s = .next u ∧ only u ∧ told u left)
      ∧ (f.cls = 3 → ∃ u : State, exec (.flitReceive p bytes crc) s = .next u ∧ only u ∧ told u { taken with badflit := x.badflit + 1 })
      ∧ (∀ e, f.type = 2 → f.cls = 1 → f.len.toNat ≤ 224 → s.toHw.portKey p f.pkey = true →
          x.acc.admits { src := 0, pkey := f.pkey } opRead f.off.toNat = true →
          f.dst.toNat ≠ s.cfg.modno → f.hops + 1 ≠ 63 → hopsOf (x.routes.entry x.routes.active f.dst.toNat) = [e] → e ≠ p → e < 128 →
          (s.toHw.port e).up = true → (s.toHw.port e).credits.get 1 ≠ 0 → (∀ y ∈ (s.toHw.port e).full, y.f.cls ≠ f.cls) →
        ∃ (u : State) (g : Routed), exec (.flitReceive p bytes crc) s = .next u ∧ only u ∧ (u.toHw.port e).sent = (s.toHw.port e).sent ++ [g]
          ∧ g.f = { f with hops := f.hops + 1, hseq := g.f.hseq, hack := g.f.hack, cred := g.f.cred }
          ∧ g.f.hseq = (s.toHw.port e).txSeq + 1 ∧ (u.toHw.port e).credits.get 1 = (s.toHw.port e).credits.get 1 - 1))
    ∧ (x.up = false ∨ flitIntact bytes crc = false ∨ f.hseq ≠ x.rxSeq + 1 → exec (.flitReceive p bytes crc) s = .next s)
    ∧ (x.up = true → x.sent ≠ [] → x.replays < 3 →
      ∃ u : State, exec (.flitReplay p) s = .next u ∧ only u ∧ u.toHw.port p = { x with replays := x.replays + 1 })
    ∧ (x.up = true → x.sent ≠ [] → 3 ≤ x.replays → ∃ u : State, exec (.flitReplay p) s = .next u ∧ (u.toHw.port p).up = false
        ∧ ∀ a, memRead u.mem a = memRead s.mem a)
    ∧ (x.up = true → ∃ u : State, exec (.portDown p cause) s = .next u ∧ (u.toHw.port p).up = false ∧ ∀ a, memRead u.mem a = memRead s.mem a)
    ∧ (x.up = false → s.toHw.linksUp p = true → ∃ u : State, exec (.portUp p) s = .next u ∧ only u ∧ told u { x with
        up := true
        txSeq := 0
        rxSeq := 0
        credits := Vector.replicate 3 0
        freed := Vector.ofFn (fun i => Config.flitBuffers p i.val - BitVec.ofNat 8 (s.toHw.inBuffers p i))
        owes := true })
    ∧ (x.up = true ∨ s.toHw.linksUp p = false → exec (.portUp p) s = .next s)
    ∧ (∃ u : State, exec (.rtgenFlip p gen) s = .next u ∧ only u ∧ u.toHw.port p = { x with routes := { x.routes with active := gen } }))

/-- Descriptor and register writes, the tick, the stages of bring-up, training, attestation and power. A write that sets V of
a ring descriptor allocates the ring with zero counts, unless its fields or extent are refused; a management write of a
scalar register of an idle or stopped core changes that register and no other core takes it. The tick counts from stage 3
on. Power good starts bring-up, anew where power was good before, with what the flash holds; a stage's end leads to the
next, stage 4's once its training and calibration are over; without an image the module enters recovery with port 0, and a
verified image that flits brought boots; trained slices, causeways and ports run at full rate; an attestation request is
answered with a report that carries its nonce; an idle isle that no launch holds is gated and wakes. The model's choices:
each stage ends in a single step (log entry 77), what ends stage 4 and from which stage a port may be live (log entry 95),
and a descriptor write ignored while the ring is held (log entry 73). No witness can be given for the clause of an
accepted recovery image, since the functions that verify it have no body (log entry 11). (R22, R26, R270, R380, R382,
R394, R395, R397, R398, R399, R400, R403.) -/
def Obligations.ManagementAndBringUp : Prop :=
  ∀ (s : State) (site slice ring port isle base : Nat) (v : BitVec 128) (bytes : List Byte),
    let r := s.toHw.ring site ring
    let held := r.v = true ∧ (s.toHw.launch? r.owner.toNat).isSome = true
    let w : Ring := {
      nslot := v.extractLsb' 48 16, slog := v.extractLsb' 44 4, base := v.extractLsb' 25 15, owner := v.extractLsb' 4 16, v := true }
    let fits := w.nslot.toNat ≠ 0 ∧ w.nslot.toNat ≤ 32768 ∧ w.slog.toNat ≤ 8 ∧ w.fin ≤ 2 ^ 23
      ∧ ∀ e ∈ s.rings, e.1 / 1024 = site → e.1 ≠ ringKey site ring → e.2.v = true → e.2.fin ≤ 256 * w.base.toNat ∨ w.fin ≤ 256 * e.2.base.toNat
    let boots := fun (i : Instr) (x : Boot) => exec i s = .next { s with toHw := { s.toHw with boot := x } }
    let image := bytesFrom base (s.boot.ram.filter (fun e => decide (base ≤ e.1)))
    (v.getLsbD 0 = true → ¬held →
      (fits → ∃ u : State, exec (.ringdescWrite site ring v) s = .next u ∧ u.toHw.ring site ring = w
          ∧ u = { s with toHw := { s.toHw with rings := u.rings } })
      ∧ (¬fits → exec (.ringdescWrite site ring v) s = .next s))
    ∧ (held → exec (.ringdescWrite site ring v) s = .next s)
    ∧ (∀ (co : CoreId) (e : EngId) (i : Fin 64), co.ok = true → bytes.length = 8 → i.val ≠ 0 →
        (let addr := BitVec.ofNat 64 (co.isle * 2 ^ 54 + 2 * 2 ^ 48 + (co.core * 4 + engUnit e) * 2 ^ 32 + 8 * i.val)
        let k := s.toHw.core co
        let g := k.eng e
        (k.task = none ∨ k.stopped = true → CoreIs s co (k.setEng e { g with
            g := g.g.set i.val { g.g.get i with bits := BitVec.ofNat 64 (leNat bytes) } i.isLt }) (exec (.registerWrite addr bytes) s))
        ∧ (k.task ≠ none → k.stopped = false → exec (.registerWrite addr bytes) s = .next s)))
    ∧ (¬s.boot.stage < 3 → s.tick.toNat % 2 ^ 20 ≠ 0 → exec (.tick) s = .next { s with toHw := { s.toHw with tick := s.tick + 1 } })
    ∧ (¬s.boot.stage < 3 → ∃ u : State, exec (.tick) s = .next u
        ∧ u = { s with toHw := { s.toHw with tick := s.tick + 1, slices := u.slices } })
    ∧ (s.boot.stage < 3 → exec (.tick) s = .next s)
    ∧ (s.boot.on = false → boots (.powerGood) { s.boot with on := true })
    ∧ (s.boot.on = true → ∃ u : State, exec (.powerGood) s = .next u ∧ u.boot.on = true ∧ u.boot.stage = 0 ∧ u.tick = 0 ∧ u.mem = []
        ∧ u.launches = [] ∧ u.boot.imgA = s.boot.imgA ∧ u.boot.imgB = s.boot.imgB ∧ u.boot.recA = s.boot.recA ∧ u.boot.recB = s.boot.recB)
    ∧ (s.boot.on = true → s.boot.stage = 0 → boots (.bootStageComplete) { s.boot with stage := 1, ram := [] })
    ∧ (s.boot.on = true → s.boot.stage = 2 → s.boot.needRec = false → ∃ x, boots (.bootStageComplete) x ∧ x.stage = 3
        ∧ (∀ c, Config.helperCorrect majorityBits = some c → x.idok = true ∧ x.key = Config.shake256 57 c ∧ x.devpub = Config.ed448Public x.key))
    ∧ (s.boot.on = true → s.boot.stage = 2 → s.boot.needRec = true → exec (.bootStageComplete) s = .next s)
    ∧ (s.boot.on = true → s.boot.stage = 1 → s.boot.recov = false → chooseImage s.boot.imgA s.boot.imgB = none →
        ∃ u : State, exec (.bootStageComplete) s = .next u ∧ u.boot = { s.boot with recovery := true } ∧ (u.toHw.port 0).up = true)
    ∧ (s.boot.on = true → s.boot.stage = 4 →
      (s.toHw.backgroundOver = true → boots (.bootStageComplete) { s.boot with stage := 5 })
      ∧ (s.toHw.backgroundOver = false → exec (.bootStageComplete) s = .next s))
    ∧ (s.boot.recovery = true → imageCopyOk image = true → ∃ x, boots (.recoveryImage base) x ∧ x.recov = true ∧ x.recovery = false
        ∧ x.svn = copySeq image ∧ x.imgDigest = copyDigest image ∧ x.ram = s.boot.ram ∧ x.stage = s.boot.stage)
    ∧ (s.boot.recovery = false ∨ imageCopyOk image = false → exec (.recoveryImage base) s = .next s)
    ∧ (¬s.boot.stage < 3 → SliceIs s site slice { s.toHw.slice site slice with trained := true } (exec (.unitTrainingComplete (.slice site slice)) s))
    ∧ (¬s.boot.stage < 3 → exec (.unitTrainingComplete (.causeway site port)) s
        = .next { s with toHw := { s.toHw with cwFull := setAdd (site * 4 + port) s.cwFull } })
    ∧ (port < 128 → (s.toHw.port port).up = false → s.toHw.linksUp port = true →
      ∃ u : State, exec (.unitTrainingComplete (.strait port)) s = .next u ∧ (u.toHw.port port).up = true
        ∧ u = { s with toHw := { s.toHw with ports := u.ports } })
    ∧ (¬s.boot.stage < 3 → bytes.length = 32 → ∃ rep, boots (.attestationRequest bytes) { s.boot with reports := s.boot.reports ++ [rep] }
        ∧ (rep.drop 16).take 32 = bytes ∧ rep.take 4 = leBytes 4 1 ∧ (rep.drop 4).take 4 = leBytes 4 s.boot.svn)
    ∧ (s.toHw.isleHeld isle = false → s.toHw.isleIdle isle = true →
      IsleIs s isle { s.toHw.isle isle with gated := true } (exec (.islePowerGate isle) s))
    ∧ (s.toHw.isleHeld isle = true ∨ s.toHw.isleIdle isle = false → exec (.islePowerGate isle) s = .next s)
    ∧ ((s.toHw.isle isle).gated = true → s.toHw.holderOf isle = none →
      IsleIs s isle { s.toHw.isle isle with gated := false } (exec (.isleWake isle) s))
end

