-- ==== Sys2Proof/Laws/Exec.lean ====
section
/-! SUPPORT. What `exec` does with each constructor, so that no proof unfolds the dispatch. -/

namespace Sys2Proof.Machine
set_option Elab.async false
set_option linter.all false

@[simp] theorem exec_nop (s : State) : exec (.nop) s = execNop s := rfl
@[simp] theorem exec_br (cnd) (a) (b) (disp) (s : State) : exec (.br cnd a b disp) s = execBr cnd a b disp s := rfl
@[simp] theorem exec_jmp (disp) (s : State) : exec (.jmp disp) s = execJmp disp s := rfl
@[simp] theorem exec_jmpi (a) (imm) (s : State) : exec (.jmpi a imm) s = execJmpi a imm s := rfl
@[simp] theorem exec_call (disp) (s : State) : exec (.call disp) s = execCall disp s := rfl
@[simp] theorem exec_calli (a) (imm) (s : State) : exec (.calli a imm) s = execCalli a imm s := rfl
@[simp] theorem exec_ret (s : State) : exec (.ret) s = execRet s := rfl
@[simp] theorem exec_loopLc (lc) (disp) (s : State) : exec (.loopLc lc disp) s = execLoopLc lc disp s := rfl
@[simp] theorem exec_loopNest (disp) (s : State) : exec (.loopNest disp) s = execLoopNest disp s := rfl
@[simp] theorem exec_lset (lc) (a) (imm) (s : State) : exec (.lset lc a imm) s = execLset lc a imm s := rfl
@[simp] theorem exec_rep (n) (sd) (s1) (s2) (s3) (soff) (s : State) : exec (.rep n sd s1 s2 s3 soff) s = execRep n sd s1 s2 s3 soff s := rfl
@[simp] theorem exec_lnest (cb) (x) (sc) (off) (s : State) : exec (.lnest cb x sc off) s = execLnest cb x sc off s := rfl
@[simp] theorem exec_brq (disp) (n) (s : State) : exec (.brq disp n) s = execBrq disp n s := rfl
@[simp] theorem exec_pushbq (cnd) (a) (b) (s : State) : exec (.pushbq cnd a b) s = execPushbq cnd a b s := rfl
@[simp] theorem exec_defer (va) (mk) (cnt) (tag) (s : State) : exec (.defer va mk cnt tag) s = execDefer va mk cnt tag s := rfl
@[simp] theorem exec_drain (a) (vb) (disp) (tag) (s : State) : exec (.drain a vb disp tag) s = execDrain a vb disp tag s := rfl
@[simp] theorem exec_post (k) (s : State) : exec (.post k) s = execPost k s := rfl
@[simp] theorem exec_await (k) (s : State) : exec (.await k) s = execAwait k s := rfl
@[simp] theorem exec_kget (d) (k) (s : State) : exec (.kget d k) s = execKget d k s := rfl
@[simp] theorem exec_trap (a) (imm) (s : State) : exec (.trap a imm) s = execTrap a imm s := rfl
@[simp] theorem exec_brk (imm) (s : State) : exec (.brk imm) s = execBrk imm s := rfl
@[simp] theorem exec_csrr (d) (csr) (s : State) : exec (.csrr d csr) s = execCsrr d csr s := rfl
@[simp] theorem exec_csrw (a) (csr) (s : State) : exec (.csrw a csr) s = execCsrw a csr s := rfl
@[simp] theorem exec_fenceCore (s : State) : exec (.fenceCore) s = execFenceCore s := rfl
@[simp] theorem exec_fenceIsle (s : State) : exec (.fenceIsle) s = execFenceIsle s := rfl
@[simp] theorem exec_fenceMod (s : State) : exec (.fenceMod) s = execFenceMod s := rfl
@[simp] theorem exec_fenceSys (s : State) : exec (.fenceSys) s = execFenceSys s := rfl
@[simp] theorem exec_doneOp (s : State) : exec (.doneOp) s = execDoneOp s := rfl
@[simp] theorem exec_dbar (lv) (s : State) : exec (.dbar lv) s = execDbar lv s := rfl
@[simp] theorem exec_dbarA (d) (lv) (s : State) : exec (.dbarA d lv) s = execDbarA d lv s := rfl
@[simp] theorem exec_dbarW (a) (lv) (s : State) : exec (.dbarW a lv) s = execDbarW a lv s := rfl
@[simp] theorem exec_awaitMem (d) (cb) (x) (sc) (off) (s : State) : exec (.awaitMem d cb x sc off) s = execAwaitMem d cb x sc off s := rfl
@[simp] theorem exec_add (d) (a) (b) (s : State) : exec (.add d a b) s = execAdd d a b s := rfl
@[simp] theorem exec_sub (d) (a) (b) (s : State) : exec (.sub d a b) s = execSub d a b s := rfl
@[simp] theorem exec_addi (d) (a) (imm) (s : State) : exec (.addi d a imm) s = execAddi d a imm s := rfl
@[simp] theorem exec_li (d) (imm) (s : State) : exec (.li d imm) s = execLi d imm s := rfl
@[simp] theorem exec_mov (d) (a) (s : State) : exec (.mov d a) s = execMov d a s := rfl
@[simp] theorem exec_mul (d) (a) (b) (s : State) : exec (.mul d a b) s = execMul d a b s := rfl
@[simp] theorem exec_mulhS (d) (a) (b) (s : State) : exec (.mulhS d a b) s = execMulhS d a b s := rfl
@[simp] theorem exec_mulhZ (d) (a) (b) (s : State) : exec (.mulhZ d a b) s = execMulhZ d a b s := rfl
@[simp] theorem exec_mad (d) (a) (b) (c) (s : State) : exec (.mad d a b c) s = execMad d a b c s := rfl
@[simp] theorem exec_divS (d) (a) (b) (s : State) : exec (.divS d a b) s = execDivS d a b s := rfl
@[simp] theorem exec_divZ (d) (a) (b) (s : State) : exec (.divZ d a b) s = execDivZ d a b s := rfl
@[simp] theorem exec_remS (d) (a) (b) (s : State) : exec (.remS d a b) s = execRemS d a b s := rfl
@[simp] theorem exec_remZ (d) (a) (b) (s : State) : exec (.remZ d a b) s = execRemZ d a b s := rfl
@[simp] theorem exec_and (d) (a) (b) (s : State) : exec (.and d a b) s = execAnd d a b s := rfl
@[simp] theorem exec_or (d) (a) (b) (s : State) : exec (.or d a b) s = execOr d a b s := rfl
@[simp] theorem exec_xor (d) (a) (b) (s : State) : exec (.xor d a b) s = execXor d a b s := rfl
@[simp] theorem exec_andn (d) (a) (b) (s : State) : exec (.andn d a b) s = execAndn d a b s := rfl
@[simp] theorem exec_shl (d) (a) (b) (s : State) : exec (.shl d a b) s = execShl d a b s := rfl
@[simp] theorem exec_shrZ (d) (a) (b) (s : State) : exec (.shrZ d a b) s = execShrZ d a b s := rfl
@[simp] theorem exec_shrS (d) (a) (b) (s : State) : exec (.shrS d a b) s = execShrS d a b s := rfl
@[simp] theorem exec_rotl (d) (a) (b) (s : State) : exec (.rotl d a b) s = execRotl d a b s := rfl
@[simp] theorem exec_clz (d) (a) (s : State) : exec (.clz d a) s = execClz d a s := rfl
@[simp] theorem exec_ctz (d) (a) (s : State) : exec (.ctz d a) s = execCtz d a s := rfl
@[simp] theorem exec_popc (d) (a) (s : State) : exec (.popc d a) s = execPopc d a s := rfl
@[simp] theorem exec_minS (d) (a) (b) (s : State) : exec (.minS d a b) s = execMinS d a b s := rfl
@[simp] theorem exec_minZ (d) (a) (b) (s : State) : exec (.minZ d a b) s = execMinZ d a b s := rfl
@[simp] theorem exec_maxS (d) (a) (b) (s : State) : exec (.maxS d a b) s = execMaxS d a b s := rfl
@[simp] theorem exec_maxZ (d) (a) (b) (s : State) : exec (.maxZ d a b) s = execMaxZ d a b s := rfl
@[simp] theorem exec_sel (d) (a) (b) (c) (s : State) : exec (.sel d a b c) s = execSel d a b c s := rfl
@[simp] theorem exec_cmp (cnd) (d) (a) (b) (s : State) : exec (.cmp cnd d a b) s = execCmp cnd d a b s := rfl
@[simp] theorem exec_cmpi (cnd) (d) (a) (imm) (s : State) : exec (.cmpi cnd d a imm) s = execCmpi cnd d a imm s := rfl
@[simp] theorem exec_pmix (d) (a) (b) (t) (s : State) : exec (.pmix d a b t) s = execPmix d a b t s := rfl
@[simp] theorem exec_extS8 (d) (a) (s : State) : exec (.extS8 d a) s = execExtS8 d a s := rfl
@[simp] theorem exec_extS16 (d) (a) (s : State) : exec (.extS16 d a) s = execExtS16 d a s := rfl
@[simp] theorem exec_extS32 (d) (a) (s : State) : exec (.extS32 d a) s = execExtS32 d a s := rfl
@[simp] theorem exec_extZ8 (d) (a) (s : State) : exec (.extZ8 d a) s = execExtZ8 d a s := rfl
@[simp] theorem exec_extZ16 (d) (a) (s : State) : exec (.extZ16 d a) s = execExtZ16 d a s := rfl
@[simp] theorem exec_extZ32 (d) (a) (s : State) : exec (.extZ32 d a) s = execExtZ32 d a s := rfl
@[simp] theorem exec_addsS64 (d) (a) (b) (s : State) : exec (.addsS64 d a b) s = execAddsS64 d a b s := rfl
@[simp] theorem exec_bfx (d) (a) (pos) (len) (sx) (s : State) : exec (.bfx d a pos len sx) s = execBfx d a pos len sx s := rfl
@[simp] theorem exec_bfi (d) (a) (pos) (len) (s : State) : exec (.bfi d a pos len) s = execBfi d a pos len s := rfl
@[simp] theorem exec_rnd (d) (a) (b) (c) (w) (s : State) : exec (.rnd d a b c w) s = execRnd d a b c w s := rfl
@[simp] theorem exec_cmov (d) (a) (s : State) : exec (.cmov d a) s = execCmov d a s := rfl
@[simp] theorem exec_cinc (d) (a) (b) (s : State) : exec (.cinc d a b) s = execCinc d a b s := rfl
@[simp] theorem exec_cinci (d) (a) (imm) (s : State) : exec (.cinci d a imm) s = execCinci d a imm s := rfl
@[simp] theorem exec_cbound (d) (a) (b) (s : State) : exec (.cbound d a b) s = execCbound d a b s := rfl
@[simp] theorem exec_cperm (d) (a) (mask) (s : State) : exec (.cperm d a mask) s = execCperm d a mask s := rfl
@[simp] theorem exec_cgetb (d) (a) (s : State) : exec (.cgetb d a) s = execCgetb d a s := rfl
@[simp] theorem exec_cgetl (d) (a) (s : State) : exec (.cgetl d a) s = execCgetl d a s := rfl
@[simp] theorem exec_cgeto (d) (a) (s : State) : exec (.cgeto d a) s = execCgeto d a s := rfl
@[simp] theorem exec_cgetp (d) (a) (s : State) : exec (.cgetp d a) s = execCgetp d a s := rfl
@[simp] theorem exec_ctest (d) (a) (s : State) : exec (.ctest d a) s = execCtest d a s := rfl
@[simp] theorem exec_cle (d) (a) (b) (s : State) : exec (.cle d a b) s = execCle d a b s := rfl
@[simp] theorem exec_cclr (d) (s : State) : exec (.cclr d) s = execCclr d s := rfl
@[simp] theorem exec_caddr (d) (a) (b) (s : State) : exec (.caddr d a b) s = execCaddr d a b s := rfl
@[simp] theorem exec_cld (d) (cb) (x) (sc) (off) (s : State) : exec (.cld d cb x sc off) s = execCld d cb x sc off s := rfl
@[simp] theorem exec_cst (d) (cb) (x) (sc) (off) (s : State) : exec (.cst d cb x sc off) s = execCst d cb x sc off s := rfl
@[simp] theorem exec_cfoot (d) (k) (s : State) : exec (.cfoot d k) s = execCfoot d k s := rfl
@[simp] theorem exec_ldS8 (d) (cb) (x) (sc) (off) (s : State) : exec (.ldS8 d cb x sc off) s = execLdS8 d cb x sc off s := rfl
@[simp] theorem exec_ldZ8 (d) (cb) (x) (sc) (off) (s : State) : exec (.ldZ8 d cb x sc off) s = execLdZ8 d cb x sc off s := rfl
@[simp] theorem exec_ldS16 (d) (cb) (x) (sc) (off) (s : State) : exec (.ldS16 d cb x sc off) s = execLdS16 d cb x sc off s := rfl
@[simp] theorem exec_ldZ16 (d) (cb) (x) (sc) (off) (s : State) : exec (.ldZ16 d cb x sc off) s = execLdZ16 d cb x sc off s := rfl
@[simp] theorem exec_ldS32 (d) (cb) (x) (sc) (off) (s : State) : exec (.ldS32 d cb x sc off) s = execLdS32 d cb x sc off s := rfl
@[simp] theorem exec_ldZ32 (d) (cb) (x) (sc) (off) (s : State) : exec (.ldZ32 d cb x sc off) s = execLdZ32 d cb x sc off s := rfl
@[simp] theorem exec_ld64 (d) (cb) (x) (sc) (off) (s : State) : exec (.ld64 d cb x sc off) s = execLd64 d cb x sc off s := rfl
@[simp] theorem exec_st8 (d) (cb) (x) (sc) (off) (s : State) : exec (.st8 d cb x sc off) s = execSt8 d cb x sc off s := rfl
@[simp] theorem exec_st16 (d) (cb) (x) (sc) (off) (s : State) : exec (.st16 d cb x sc off) s = execSt16 d cb x sc off s := rfl
@[simp] theorem exec_st32 (d) (cb) (x) (sc) (off) (s : State) : exec (.st32 d cb x sc off) s = execSt32 d cb x sc off s := rfl
@[simp] theorem exec_st64 (d) (cb) (x) (sc) (off) (s : State) : exec (.st64 d cb x sc off) s = execSt64 d cb x sc off s := rfl
@[simp] theorem exec_vld (d) (cb) (x) (sc) (off) (s : State) : exec (.vld d cb x sc off) s = execVld d cb x sc off s := rfl
@[simp] theorem exec_vst (d) (cb) (x) (sc) (off) (s : State) : exec (.vst d cb x sc off) s = execVst d cb x sc off s := rfl
@[simp] theorem exec_vldBc (d) (cb) (x) (sc) (off) (s : State) : exec (.vldBc d cb x sc off) s = execVldBc d cb x sc off s := rfl
@[simp] theorem exec_vgath (d) (cb) (x) (sc) (off) (s : State) : exec (.vgath d cb x sc off) s = execVgath d cb x sc off s := rfl
@[simp] theorem exec_vscat (d) (cb) (x) (sc) (off) (s : State) : exec (.vscat d cb x sc off) s = execVscat d cb x sc off s := rfl
@[simp] theorem exec_ldfeW (d) (cb) (x) (sc) (off) (s : State) : exec (.ldfeW d cb x sc off) s = execLdfeW d cb x sc off s := rfl
@[simp] theorem exec_ldfeC (d) (cb) (x) (sc) (off) (s : State) : exec (.ldfeC d cb x sc off) s = execLdfeC d cb x sc off s := rfl
@[simp] theorem exec_vldfeW (d) (cb) (x) (sc) (off) (s : State) : exec (.vldfeW d cb x sc off) s = execVldfeW d cb x sc off s := rfl
@[simp] theorem exec_vldfeC (d) (cb) (x) (sc) (off) (s : State) : exec (.vldfeC d cb x sc off) s = execVldfeC d cb x sc off s := rfl
@[simp] theorem exec_fset (d) (cb) (x) (sc) (off) (s : State) : exec (.fset d cb x sc off) s = execFset d cb x sc off s := rfl
@[simp] theorem exec_fclr (d) (cb) (x) (sc) (off) (s : State) : exec (.fclr d cb x sc off) s = execFclr d cb x sc off s := rfl
@[simp] theorem exec_ftest (d) (cb) (x) (sc) (off) (s : State) : exec (.ftest d cb x sc off) s = execFtest d cb x sc off s := rfl
@[simp] theorem exec_ldn (d) (cb) (x) (sc) (off) (land) (s : State) : exec (.ldn d cb x sc off land) s = execLdn d cb x sc off land s := rfl
@[simp] theorem exec_vldn (d) (cb) (x) (sc) (off) (land) (s : State) : exec (.vldn d cb x sc off land) s = execVldn d cb x sc off land s := rfl
@[simp] theorem exec_xget (cd) (ob) (cs) (oa) (len) (ch) (tb) (s : State) : exec (.xget cd ob cs oa len ch tb) s = execXget cd ob cs oa len ch tb s := rfl
@[simp] theorem exec_xput (cd) (ob) (cs) (oa) (len) (ch) (tb) (vs) (s : State) : exec (.xput cd ob cs oa len ch tb vs) s = execXput cd ob cs oa len ch tb vs s := rfl
@[simp] theorem exec_xmove (cd) (ob) (cs) (oa) (len) (ch) (tb) (vs) (s : State) : exec (.xmove cd ob cs oa len ch tb vs) s = execXmove cd ob cs oa len ch tb vs s := rfl
@[simp] theorem exec_xgat (cd) (ob) (cs) (oa) (len) (v) (w) (ch) (tb) (s : State) : exec (.xgat cd ob cs oa len v w ch tb) s = execXgat cd ob cs oa len v w ch tb s := rfl
@[simp] theorem exec_xsct (cd) (ob) (cs) (oa) (len) (v) (w) (ch) (tb) (vs) (s : State) : exec (.xsct cd ob cs oa len v w ch tb vs) s = execXsct cd ob cs oa len v w ch tb vs s := rfl
@[simp] theorem exec_xget2d (cd) (ob) (w) (cs) (oa) (v) (len) (ch) (tb) (rows) (s : State) : exec (.xget2d cd ob w cs oa v len ch tb rows) s = execXget2d cd ob w cs oa v len ch tb rows s := rfl
@[simp] theorem exec_xput2d (cd) (ob) (w) (cs) (oa) (v) (len) (ch) (tb) (rows) (vs) (s : State) : exec (.xput2d cd ob w cs oa v len ch tb rows vs) s = execXput2d cd ob w cs oa v len ch tb rows vs s := rfl
@[simp] theorem exec_xfill (cd) (ob) (v) (len) (ch) (tb) (vs) (s : State) : exec (.xfill cd ob v len ch tb vs) s = execXfill cd ob v len ch tb vs s := rfl
@[simp] theorem exec_xaccAddS32 (cd) (ob) (cs) (oa) (len) (ch) (s : State) : exec (.xaccAddS32 cd ob cs oa len ch) s = execXaccAddS32 cd ob cs oa len ch s := rfl
@[simp] theorem exec_xaccAddS64 (cd) (ob) (cs) (oa) (len) (ch) (s : State) : exec (.xaccAddS64 cd ob cs oa len ch) s = execXaccAddS64 cd ob cs oa len ch s := rfl
@[simp] theorem exec_xaccAddF32 (cd) (ob) (cs) (oa) (len) (ch) (rt) (s : State) : exec (.xaccAddF32 cd ob cs oa len ch rt) s = execXaccAddF32 cd ob cs oa len ch rt s := rfl
@[simp] theorem exec_xaccMinS32 (cd) (ob) (cs) (oa) (len) (ch) (s : State) : exec (.xaccMinS32 cd ob cs oa len ch) s = execXaccMinS32 cd ob cs oa len ch s := rfl
@[simp] theorem exec_xaccMaxS32 (cd) (ob) (cs) (oa) (len) (ch) (s : State) : exec (.xaccMaxS32 cd ob cs oa len ch) s = execXaccMaxS32 cd ob cs oa len ch s := rfl
@[simp] theorem exec_xaccMinF32 (cd) (ob) (cs) (oa) (len) (ch) (s : State) : exec (.xaccMinF32 cd ob cs oa len ch) s = execXaccMinF32 cd ob cs oa len ch s := rfl
@[simp] theorem exec_xaccMaxF32 (cd) (ob) (cs) (oa) (len) (ch) (s : State) : exec (.xaccMaxF32 cd ob cs oa len ch) s = execXaccMaxF32 cd ob cs oa len ch s := rfl
@[simp] theorem exec_xaccAnd (cd) (ob) (cs) (oa) (len) (ch) (s : State) : exec (.xaccAnd cd ob cs oa len ch) s = execXaccAnd cd ob cs oa len ch s := rfl
@[simp] theorem exec_xaccOr (cd) (ob) (cs) (oa) (len) (ch) (s : State) : exec (.xaccOr cd ob cs oa len ch) s = execXaccOr cd ob cs oa len ch s := rfl
@[simp] theorem exec_xaccXor (cd) (ob) (cs) (oa) (len) (ch) (s : State) : exec (.xaccXor cd ob cs oa len ch) s = execXaccXor cd ob cs oa len ch s := rfl
@[simp] theorem exec_xfaddS32 (cd) (ob) (v) (cl) (ol) (ch) (tb) (rt) (s : State) : exec (.xfaddS32 cd ob v cl ol ch tb rt) s = execXfaddS32 cd ob v cl ol ch tb rt s := rfl
@[simp] theorem exec_xfaddS64 (cd) (ob) (v) (cl) (ol) (ch) (tb) (rt) (s : State) : exec (.xfaddS64 cd ob v cl ol ch tb rt) s = execXfaddS64 cd ob v cl ol ch tb rt s := rfl
@[simp] theorem exec_xswp (cd) (ob) (v) (cl) (ol) (ch) (tb) (rt) (s : State) : exec (.xswp cd ob v cl ol ch tb rt) s = execXswp cd ob v cl ol ch tb rt s := rfl
@[simp] theorem exec_xcas (cd) (ob) (v) (w) (cl) (ol) (ch) (tb) (rt) (s : State) : exec (.xcas cd ob v w cl ol ch tb rt) s = execXcas cd ob v w cl ol ch tb rt s := rfl
@[simp] theorem exec_xcasGo (cd) (ob) (v) (w) (cl) (ol) (ch) (tb) (task) (rt) (s : State) : exec (.xcasGo cd ob v w cl ol ch tb task rt) s = execXcasGo cd ob v w cl ol ch tb task rt s := rfl
@[simp] theorem exec_xclose (ch) (rt) (s : State) : exec (.xclose ch rt) s = execXclose ch rt s := rfl
@[simp] theorem exec_xwaitIn (v) (ch) (s : State) : exec (.xwaitIn v ch) s = execXwaitIn v ch s := rfl
@[simp] theorem exec_xwaitRel (v) (ch) (s : State) : exec (.xwaitRel v ch) s = execXwaitRel v ch s := rfl
@[simp] theorem exec_xwaitVis (v) (ch) (s : State) : exec (.xwaitVis v ch) s = execXwaitVis v ch s := rfl
@[simp] theorem exec_xid (v) (ch) (aux) (s : State) : exec (.xid v ch aux) s = execXid v ch aux s := rfl
@[simp] theorem exec_xorder (s : State) : exec (.xorder) s = execXorder s := rfl
@[simp] theorem exec_vaddF32 (vd) (va) (vb) (mk) (s : State) : exec (.vaddF32 vd va vb mk) s = execVaddF32 vd va vb mk s := rfl
@[simp] theorem exec_vsubF32 (vd) (va) (vb) (mk) (s : State) : exec (.vsubF32 vd va vb mk) s = execVsubF32 vd va vb mk s := rfl
@[simp] theorem exec_vmulF32 (vd) (va) (vb) (mk) (s : State) : exec (.vmulF32 vd va vb mk) s = execVmulF32 vd va vb mk s := rfl
@[simp] theorem exec_vfmaF32 (vd) (va) (vb) (vc) (mk) (s : State) : exec (.vfmaF32 vd va vb vc mk) s = execVfmaF32 vd va vb vc mk s := rfl
@[simp] theorem exec_vfmsF32 (vd) (va) (vb) (vc) (mk) (s : State) : exec (.vfmsF32 vd va vb vc mk) s = execVfmsF32 vd va vb vc mk s := rfl
@[simp] theorem exec_vfnmaF32 (vd) (va) (vb) (vc) (mk) (s : State) : exec (.vfnmaF32 vd va vb vc mk) s = execVfnmaF32 vd va vb vc mk s := rfl
@[simp] theorem exec_vminF32 (vd) (va) (vb) (mk) (s : State) : exec (.vminF32 vd va vb mk) s = execVminF32 vd va vb mk s := rfl
@[simp] theorem exec_vmaxF32 (vd) (va) (vb) (mk) (s : State) : exec (.vmaxF32 vd va vb mk) s = execVmaxF32 vd va vb mk s := rfl
@[simp] theorem exec_vabsF32 (vd) (va) (mk) (s : State) : exec (.vabsF32 vd va mk) s = execVabsF32 vd va mk s := rfl
@[simp] theorem exec_vnegF32 (vd) (va) (mk) (s : State) : exec (.vnegF32 vd va mk) s = execVnegF32 vd va mk s := rfl
@[simp] theorem exec_vdivF32 (vd) (va) (vb) (mk) (s : State) : exec (.vdivF32 vd va vb mk) s = execVdivF32 vd va vb mk s := rfl
@[simp] theorem exec_vsqrtF32 (vd) (va) (mk) (s : State) : exec (.vsqrtF32 vd va mk) s = execVsqrtF32 vd va mk s := rfl
@[simp] theorem exec_vrcpF32 (vd) (va) (mk) (s : State) : exec (.vrcpF32 vd va mk) s = execVrcpF32 vd va mk s := rfl
@[simp] theorem exec_vrsqrtF32 (vd) (va) (mk) (s : State) : exec (.vrsqrtF32 vd va mk) s = execVrsqrtF32 vd va mk s := rfl
@[simp] theorem exec_vexp2F32 (vd) (va) (mk) (s : State) : exec (.vexp2F32 vd va mk) s = execVexp2F32 vd va mk s := rfl
@[simp] theorem exec_vlog2F32 (vd) (va) (mk) (s : State) : exec (.vlog2F32 vd va mk) s = execVlog2F32 vd va mk s := rfl
@[simp] theorem exec_vsinpiF32 (vd) (va) (mk) (s : State) : exec (.vsinpiF32 vd va mk) s = execVsinpiF32 vd va mk s := rfl
@[simp] theorem exec_vcospiF32 (vd) (va) (mk) (s : State) : exec (.vcospiF32 vd va mk) s = execVcospiF32 vd va mk s := rfl
@[simp] theorem exec_vtanhF32 (vd) (va) (mk) (s : State) : exec (.vtanhF32 vd va mk) s = execVtanhF32 vd va mk s := rfl
@[simp] theorem exec_vrrpi (vd) (va) (mk) (s : State) : exec (.vrrpi vd va mk) s = execVrrpi vd va mk s := rfl
@[simp] theorem exec_vfloorF32 (vd) (va) (mk) (s : State) : exec (.vfloorF32 vd va mk) s = execVfloorF32 vd va mk s := rfl
@[simp] theorem exec_vrintF32 (vd) (va) (mk) (s : State) : exec (.vrintF32 vd va mk) s = execVrintF32 vd va mk s := rfl
@[simp] theorem exec_vcmpF32 (cc) (md) (va) (vb) (mk) (s : State) : exec (.vcmpF32 cc md va vb mk) s = execVcmpF32 cc md va vb mk s := rfl
@[simp] theorem exec_vclassF32 (vd) (va) (mk) (s : State) : exec (.vclassF32 vd va mk) s = execVclassF32 vd va mk s := rfl
@[simp] theorem exec_vaddBf16 (vd) (va) (vb) (mk) (s : State) : exec (.vaddBf16 vd va vb mk) s = execVaddBf16 vd va vb mk s := rfl
@[simp] theorem exec_vmulBf16 (vd) (va) (vb) (mk) (s : State) : exec (.vmulBf16 vd va vb mk) s = execVmulBf16 vd va vb mk s := rfl
@[simp] theorem exec_vfmaBf16 (vd) (va) (vb) (vc) (mk) (s : State) : exec (.vfmaBf16 vd va vb vc mk) s = execVfmaBf16 vd va vb vc mk s := rfl
@[simp] theorem exec_vaddS32 (vd) (va) (vb) (mk) (s : State) : exec (.vaddS32 vd va vb mk) s = execVaddS32 vd va vb mk s := rfl
@[simp] theorem exec_vsubS32 (vd) (va) (vb) (mk) (s : State) : exec (.vsubS32 vd va vb mk) s = execVsubS32 vd va vb mk s := rfl
@[simp] theorem exec_vmulS32 (vd) (va) (vb) (mk) (s : State) : exec (.vmulS32 vd va vb mk) s = execVmulS32 vd va vb mk s := rfl
@[simp] theorem exec_vmadS16 (vd) (va) (vb) (vc) (mk) (s : State) : exec (.vmadS16 vd va vb vc mk) s = execVmadS16 vd va vb vc mk s := rfl
@[simp] theorem exec_vaddsS32 (vd) (va) (vb) (mk) (s : State) : exec (.vaddsS32 vd va vb mk) s = execVaddsS32 vd va vb mk s := rfl
@[simp] theorem exec_vsubsS32 (vd) (va) (vb) (mk) (s : State) : exec (.vsubsS32 vd va vb mk) s = execVsubsS32 vd va vb mk s := rfl
@[simp] theorem exec_vminS32 (vd) (va) (vb) (mk) (s : State) : exec (.vminS32 vd va vb mk) s = execVminS32 vd va vb mk s := rfl
@[simp] theorem exec_vmaxS32 (vd) (va) (vb) (mk) (s : State) : exec (.vmaxS32 vd va vb mk) s = execVmaxS32 vd va vb mk s := rfl
@[simp] theorem exec_vminZ32 (vd) (va) (vb) (mk) (s : State) : exec (.vminZ32 vd va vb mk) s = execVminZ32 vd va vb mk s := rfl
@[simp] theorem exec_vmaxZ32 (vd) (va) (vb) (mk) (s : State) : exec (.vmaxZ32 vd va vb mk) s = execVmaxZ32 vd va vb mk s := rfl
@[simp] theorem exec_vand (vd) (va) (vb) (mk) (s : State) : exec (.vand vd va vb mk) s = execVand vd va vb mk s := rfl
@[simp] theorem exec_vor (vd) (va) (vb) (mk) (s : State) : exec (.vor vd va vb mk) s = execVor vd va vb mk s := rfl
@[simp] theorem exec_vxor (vd) (va) (vb) (mk) (s : State) : exec (.vxor vd va vb mk) s = execVxor vd va vb mk s := rfl
@[simp] theorem exec_vshl (vd) (va) (vb) (mk) (s : State) : exec (.vshl vd va vb mk) s = execVshl vd va vb mk s := rfl
@[simp] theorem exec_vshlImm (vd) (va) (n) (mk) (s : State) : exec (.vshlImm vd va n mk) s = execVshlImm vd va n mk s := rfl
@[simp] theorem exec_vshrZ (vd) (va) (vb) (mk) (s : State) : exec (.vshrZ vd va vb mk) s = execVshrZ vd va vb mk s := rfl
@[simp] theorem exec_vshrZImm (vd) (va) (n) (mk) (s : State) : exec (.vshrZImm vd va n mk) s = execVshrZImm vd va n mk s := rfl
@[simp] theorem exec_vshrS (vd) (va) (vb) (mk) (s : State) : exec (.vshrS vd va vb mk) s = execVshrS vd va vb mk s := rfl
@[simp] theorem exec_vshrSImm (vd) (va) (n) (mk) (s : State) : exec (.vshrSImm vd va n mk) s = execVshrSImm vd va n mk s := rfl
@[simp] theorem exec_vcmpS32 (cc) (md) (va) (vb) (mk) (s : State) : exec (.vcmpS32 cc md va vb mk) s = execVcmpS32 cc md va vb mk s := rfl
@[simp] theorem exec_vcmpZ32 (cc) (md) (va) (vb) (mk) (s : State) : exec (.vcmpZ32 cc md va vb mk) s = execVcmpZ32 cc md va vb mk s := rfl
@[simp] theorem exec_vsel (vd) (va) (vb) (mk) (s : State) : exec (.vsel vd va vb mk) s = execVsel vd va vb mk s := rfl
@[simp] theorem exec_vmask (md) (ma) (mb) (t) (s : State) : exec (.vmask md ma mb t) s = execVmask md ma mb t s := rfl
@[simp] theorem exec_vcvtF32S32 (vd) (va) (mk) (s : State) : exec (.vcvtF32S32 vd va mk) s = execVcvtF32S32 vd va mk s := rfl
@[simp] theorem exec_vcvtS32F32Rne (vd) (va) (mk) (s : State) : exec (.vcvtS32F32Rne vd va mk) s = execVcvtS32F32Rne vd va mk s := rfl
@[simp] theorem exec_vcvtS32F32Rz (vd) (va) (mk) (s : State) : exec (.vcvtS32F32Rz vd va mk) s = execVcvtS32F32Rz vd va mk s := rfl
@[simp] theorem exec_vcvtBf16F32 (vd) (va) (vb) (s : State) : exec (.vcvtBf16F32 vd va vb) s = execVcvtBf16F32 vd va vb s := rfl
@[simp] theorem exec_vcvtF32Bf16 (vd) (va) (h) (mk) (s : State) : exec (.vcvtF32Bf16 vd va h mk) s = execVcvtF32Bf16 vd va h mk s := rfl
@[simp] theorem exec_vcvtE4m3F32 (vd) (va) (q) (s : State) : exec (.vcvtE4m3F32 vd va q) s = execVcvtE4m3F32 vd va q s := rfl
@[simp] theorem exec_vcvtE4m3F32Nv (vd) (va) (q) (s : State) : exec (.vcvtE4m3F32Nv vd va q) s = execVcvtE4m3F32Nv vd va q s := rfl
@[simp] theorem exec_vcvtE5m2F32 (vd) (va) (q) (s : State) : exec (.vcvtE5m2F32 vd va q) s = execVcvtE5m2F32 vd va q s := rfl
@[simp] theorem exec_vcvtF32E4m3 (vd) (va) (q) (mk) (s : State) : exec (.vcvtF32E4m3 vd va q mk) s = execVcvtF32E4m3 vd va q mk s := rfl
@[simp] theorem exec_vcvtF32E5m2 (vd) (va) (q) (mk) (s : State) : exec (.vcvtF32E5m2 vd va q mk) s = execVcvtF32E5m2 vd va q mk s := rfl
@[simp] theorem exec_vqmx4 (vd) (vb) (va) (sel) (s : State) : exec (.vqmx4 vd vb va sel) s = execVqmx4 vd vb va sel s := rfl
@[simp] theorem exec_vqmx8 (vd) (vb) (va) (q) (s : State) : exec (.vqmx8 vd vb va q) s = execVqmx8 vd vb va q s := rfl
@[simp] theorem exec_vdqmx4 (vd) (va) (vb) (sel) (mk) (s : State) : exec (.vdqmx4 vd va vb sel mk) s = execVdqmx4 vd va vb sel mk s := rfl
@[simp] theorem exec_vxpS4 (vd) (va) (sel) (mk) (s : State) : exec (.vxpS4 vd va sel mk) s = execVxpS4 vd va sel mk s := rfl
@[simp] theorem exec_vxpOcp4 (vd) (va) (sel) (q) (s : State) : exec (.vxpOcp4 vd va sel q) s = execVxpOcp4 vd va sel q s := rfl
@[simp] theorem exec_vcvtBfpF32 (vd) (va) (s : State) : exec (.vcvtBfpF32 vd va) s = execVcvtBfpF32 vd va s := rfl
@[simp] theorem exec_vcvtF32Bfp (vd) (va) (mk) (s : State) : exec (.vcvtF32Bfp vd va mk) s = execVcvtF32Bfp vd va mk s := rfl
@[simp] theorem exec_vperm (vd) (va) (vb) (mk) (s : State) : exec (.vperm vd va vb mk) s = execVperm vd va vb mk s := rfl
@[simp] theorem exec_vswpPair (vd) (va) (f) (mk) (s : State) : exec (.vswpPair vd va f mk) s = execVswpPair vd va f mk s := rfl
@[simp] theorem exec_vrot (vd) (va) (n) (mk) (s : State) : exec (.vrot vd va n mk) s = execVrot vd va n mk s := rfl
@[simp] theorem exec_vbc (vd) (va) (n) (mk) (s : State) : exec (.vbc vd va n mk) s = execVbc vd va n mk s := rfl
@[simp] theorem exec_vext (d) (va) (n) (s : State) : exec (.vext d va n) s = execVext d va n s := rfl
@[simp] theorem exec_vextMask (d) (ma) (s : State) : exec (.vextMask d ma) s = execVextMask d ma s := rfl
@[simp] theorem exec_vins (vd) (a) (n) (s : State) : exec (.vins vd a n) s = execVins vd a n s := rfl
@[simp] theorem exec_vinsMask (md) (a) (s : State) : exec (.vinsMask md a) s = execVinsMask md a s := rfl
@[simp] theorem exec_vli (vd) (imm) (s : State) : exec (.vli vd imm) s = execVli vd imm s := rfl
@[simp] theorem exec_vmov (vd) (va) (mk) (s : State) : exec (.vmov vd va mk) s = execVmov vd va mk s := rfl
@[simp] theorem exec_vredAddF32 (vd) (va) (mk) (s : State) : exec (.vredAddF32 vd va mk) s = execVredAddF32 vd va mk s := rfl
@[simp] theorem exec_vredMaxF32 (vd) (va) (mk) (s : State) : exec (.vredMaxF32 vd va mk) s = execVredMaxF32 vd va mk s := rfl
@[simp] theorem exec_vredAddS32 (vd) (va) (mk) (s : State) : exec (.vredAddS32 vd va mk) s = execVredAddS32 vd va mk s := rfl
@[simp] theorem exec_vscanAddS32 (vd) (va) (mk) (s : State) : exec (.vscanAddS32 vd va mk) s = execVscanAddS32 vd va mk s := rfl
@[simp] theorem exec_vpackS16 (vd) (va) (vb) (s : State) : exec (.vpackS16 vd va vb) s = execVpackS16 vd va vb s := rfl
@[simp] theorem exec_vunpkS16 (vd) (va) (h) (mk) (s : State) : exec (.vunpkS16 vd va h mk) s = execVunpkS16 vd va h mk s := rfl
@[simp] theorem exec_vcntM (d) (ma) (s : State) : exec (.vcntM d ma) s = execVcntM d ma s := rfl
@[simp] theorem exec_vcomp (vd) (va) (mk) (s : State) : exec (.vcomp vd va mk) s = execVcomp vd va mk s := rfl
@[simp] theorem exec_vexpd (vd) (va) (mk) (s : State) : exec (.vexpd vd va mk) s = execVexpd vd va mk s := rfl
@[simp] theorem exec_lease (n) (s : State) : exec (.lease n) s = execLease n s := rfl
@[simp] theorem exec_unlease (s : State) : exec (.unlease) s = execUnlease s := rfl
@[simp] theorem exec_tload (ab) (prof) (rows) (s : State) : exec (.tload ab prof rows) s = execTload ab prof rows s := rfl
@[simp] theorem exec_tmma (slot) (aa) (ab) (prof) (rows) (land) (cops) (s : State) : exec (.tmma slot aa ab prof rows land cops) s = execTmma slot aa ab prof rows land cops s := rfl
@[simp] theorem exec_tmmaGa (slot) (aa) (ab) (prof) (rows) (land) (cops) (s : State) : exec (.tmmaGa slot aa ab prof rows land cops) s = execTmmaGa slot aa ab prof rows land cops s := rfl
@[simp] theorem exec_tzero (slot) (rows) (s : State) : exec (.tzero slot rows) s = execTzero slot rows s := rfl
@[simp] theorem exec_taccRd (vd) (c) (clr) (mk) (s : State) : exec (.taccRd vd c clr mk) s = execTaccRd vd c clr mk s := rfl
@[simp] theorem exec_taccWr (va) (c) (mk) (s : State) : exec (.taccWr va c mk) s = execTaccWr va c mk s := rfl
@[simp] theorem exec_tshape (d) (a) (prof) (s : State) : exec (.tshape d a prof) s = execTshape d a prof s := rfl
@[simp] theorem exec_ftset (d) (a) (s : State) : exec (.ftset d a) s = execFtset d a s := rfl
@[simp] theorem exec_ftget (d) (a) (s : State) : exec (.ftget d a) s = execFtget d a s := rfl
@[simp] theorem exec_tcal (d) (segs) (s : State) : exec (.tcal d segs) s = execTcal d segs s := rfl
@[simp] theorem exec_rminF32 (vd) (va) (vb) (vc) (mk) (k) (land) (s : State) : exec (.rminF32 vd va vb vc mk k land) s = execRminF32 vd va vb vc mk k land s := rfl
@[simp] theorem exec_rmaxF32 (vd) (va) (vb) (vc) (mk) (k) (land) (s : State) : exec (.rmaxF32 vd va vb vc mk k land) s = execRmaxF32 vd va vb vc mk k land s := rfl
@[simp] theorem exec_rminS32 (vd) (va) (vb) (vc) (mk) (k) (land) (s : State) : exec (.rminS32 vd va vb vc mk k land) s = execRminS32 vd va vb vc mk k land s := rfl
@[simp] theorem exec_rmaxS32 (vd) (va) (vb) (vc) (mk) (k) (land) (s : State) : exec (.rmaxS32 vd va vb vc mk k land) s = execRmaxS32 vd va vb vc mk k land s := rfl
@[simp] theorem exec_rsortF32 (vd) (va) (vb) (vc) (mk) (k) (land) (s : State) : exec (.rsortF32 vd va vb vc mk k land) s = execRsortF32 vd va vb vc mk k land s := rfl
@[simp] theorem exec_rsortdF32 (vd) (va) (vb) (vc) (mk) (k) (land) (s : State) : exec (.rsortdF32 vd va vb vc mk k land) s = execRsortdF32 vd va vb vc mk k land s := rfl
@[simp] theorem exec_rsortS32 (vd) (va) (vb) (vc) (mk) (k) (land) (s : State) : exec (.rsortS32 vd va vb vc mk k land) s = execRsortS32 vd va vb vc mk k land s := rfl
@[simp] theorem exec_rtopkF32 (vd) (va) (vb) (vc) (mk) (k) (land) (s : State) : exec (.rtopkF32 vd va vb vc mk k land) s = execRtopkF32 vd va vb vc mk k land s := rfl
@[simp] theorem exec_rbotkF32 (vd) (va) (vb) (vc) (mk) (k) (land) (s : State) : exec (.rbotkF32 vd va vb vc mk k land) s = execRbotkF32 vd va vb vc mk k land s := rfl
@[simp] theorem exec_rtopkS32 (vd) (va) (vb) (vc) (mk) (k) (land) (s : State) : exec (.rtopkS32 vd va vb vc mk k land) s = execRtopkS32 vd va vb vc mk k land s := rfl
@[simp] theorem exec_rmergeF32 (vd) (va) (vb) (vc) (mk) (k) (land) (s : State) : exec (.rmergeF32 vd va vb vc mk k land) s = execRmergeF32 vd va vb vc mk k land s := rfl
@[simp] theorem exec_rmergdF32 (vd) (va) (vb) (vc) (mk) (k) (land) (s : State) : exec (.rmergdF32 vd va vb vc mk k land) s = execRmergdF32 vd va vb vc mk k land s := rfl
@[simp] theorem exec_rknnF32 (vd) (va) (vb) (vc) (mk) (k) (land) (s : State) : exec (.rknnF32 vd va vb vc mk k land) s = execRknnF32 vd va vb vc mk k land s := rfl
@[simp] theorem exec_tbinit (a) (n) (nl) (nc) (ns) (s : State) : exec (.tbinit a n nl nc ns) s = execTbinit a n nl nc ns s := rfl
@[simp] theorem exec_tbexpect (a) (n) (s : State) : exec (.tbexpect a n) s = execTbexpect a n s := rfl
@[simp] theorem exec_tbarrive (d) (a) (n) (p) (s : State) : exec (.tbarrive d a n p) s = execTbarrive d a n p s := rfl
@[simp] theorem exec_tbwait (a) (n) (s : State) : exec (.tbwait a n) s = execTbwait a n s := rfl
@[simp] theorem exec_tbtest (d) (a) (n) (s : State) : exec (.tbtest d a n) s = execTbtest d a n s := rfl
@[simp] theorem exec_tbretire (n) (s : State) : exec (.tbretire n) s = execTbretire n s := rfl
@[simp] theorem exec_sopen (q) (r) (s : State) : exec (.sopen q r) s = execSopen q r s := rfl
@[simp] theorem exec_sput (d) (q) (a) (s : State) : exec (.sput d q a) s = execSput d q a s := rfl
@[simp] theorem exec_sget (d) (q) (a) (s : State) : exec (.sget d q a) s = execSget d q a s := rfl
@[simp] theorem exec_sclose (q) (sel) (s : State) : exec (.sclose q sel) s = execSclose q sel s := rfl
@[simp] theorem exec_sstat (d) (q) (s : State) : exec (.sstat d q) s = execSstat d q s := rfl
@[simp] theorem exec_qput (a) (q) (s : State) : exec (.qput a q) s = execQput a q s := rfl
@[simp] theorem exec_qget (d) (q) (w) (k) (s : State) : exec (.qget d q w k) s = execQget d q w k s := rfl
@[simp] theorem exec_qputv (va) (q) (s : State) : exec (.qputv va q) s = execQputv va q s := rfl
@[simp] theorem exec_qgetv (vd) (q) (k) (s : State) : exec (.qgetv vd q k) s = execQgetv vd q k s := rfl
@[simp] theorem exec_sectionEntry (co) (e) (s : State) : exec (.sectionEntry co e) s = execSectionEntry co e s := rfl
@[simp] theorem exec_taskStart (co) (s : State) : exec (.taskStart co) s = execTaskStart co s := rfl
@[simp] theorem exec_taskRetirement (co) (s : State) : exec (.taskRetirement co) s = execTaskRetirement co s := rfl
@[simp] theorem exec_landDue (co) (slot) (s : State) : exec (.landDue co slot) s = execLandDue co slot s := rfl
@[simp] theorem exec_freezeEnd (co) (s : State) : exec (.freezeEnd co) s = execFreezeEnd co s := rfl
@[simp] theorem exec_copyCommandStart (co) (q) (s : State) : exec (.copyCommandStart co q) s = execCopyCommandStart co q s := rfl
@[simp] theorem exec_copyProgress (co) (n) (s : State) : exec (.copyProgress co n) s = execCopyProgress co n s := rfl
@[simp] theorem exec_copyVisible (co) (n) (s : State) : exec (.copyVisible co n) s = execCopyVisible co n s := rfl
@[simp] theorem exec_xorderHead (co) (q) (s : State) : exec (.xorderHead co q) s = execXorderHead co q s := rfl
@[simp] theorem exec_xorderLeave (co) (q) (s : State) : exec (.xorderLeave co q) s = execXorderLeave co q s := rfl
@[simp] theorem exec_pageWalkComplete (isle) (n) (s : State) : exec (.pageWalkComplete isle n) s = execPageWalkComplete isle n s := rfl
@[simp] theorem exec_ituinvVa (isle) (ctx) (va) (s : State) : exec (.ituinvVa isle ctx va) s = execItuinvVa isle ctx va s := rfl
@[simp] theorem exec_ituinvContext (isle) (ctx) (s : State) : exec (.ituinvContext isle ctx) s = execItuinvContext isle ctx s := rfl
@[simp] theorem exec_ituinvAll (isle) (s : State) : exec (.ituinvAll isle) s = execItuinvAll isle s := rfl
@[simp] theorem exec_ituinvComplete (isle) (s : State) : exec (.ituinvComplete isle) s = execItuinvComplete isle s := rfl
@[simp] theorem exec_leaseGrant (isle) (ins) (s : State) : exec (.leaseGrant isle ins) s = execLeaseGrant isle ins s := rfl
@[simp] theorem exec_tileReady (co) (slot) (rejects) (s : State) : exec (.tileReady co slot rejects) s = execTileReady co slot rejects s := rfl
@[simp] theorem exec_raceReady (co) (slot) (rejects) (s : State) : exec (.raceReady co slot rejects) s = execRaceReady co slot rejects s := rfl
@[simp] theorem exec_calibrationMark (isle) (ins) (s : State) : exec (.calibrationMark isle ins) s = execCalibrationMark isle ins s := rfl
@[simp] theorem exec_sliceRequest (site) (slice) (n) (ecc) (s : State) : exec (.sliceRequest site slice n ecc) s = execSliceRequest site slice n ecc s := rfl
@[simp] theorem exec_scrubLine (site) (slice) (ecc) (s : State) : exec (.scrubLine site slice ecc) s = execScrubLine site slice ecc s := rfl
@[simp] theorem exec_rowTrackLeak (site) (slice) (s : State) : exec (.rowTrackLeak site slice) s = execRowTrackLeak site slice s := rfl
@[simp] theorem exec_rowSpareStart (site) (slice) (bank) (row) (s : State) : exec (.rowSpareStart site slice bank row) s = execRowSpareStart site slice bank row s := rfl
@[simp] theorem exec_spareLineCopy (site) (slice) (s : State) : exec (.spareLineCopy site slice) s = execSpareLineCopy site slice s := rfl
@[simp] theorem exec_atomicApply (co) (n) (s : State) : exec (.atomicApply co n) s = execAtomicApply co n s := rfl
@[simp] theorem exec_roundRequestAccept (co) (n) (s : State) : exec (.roundRequestAccept co n) s = execRoundRequestAccept co n s := rfl
@[simp] theorem exec_roundCloseNotice (site) (slice) (lid) (p) (s : State) : exec (.roundCloseNotice site slice lid p) s = execRoundCloseNotice site slice lid p s := rfl
@[simp] theorem exec_roundApply (site) (slice) (lid) (wave) (tag) (s : State) : exec (.roundApply site slice lid wave tag) s = execRoundApply site slice lid wave tag s := rfl
@[simp] theorem exec_atomicLanding (co) (n) (s : State) : exec (.atomicLanding co n) s = execAtomicLanding co n s := rfl
@[simp] theorem exec_monitorRequest (co) (e) (s : State) : exec (.monitorRequest co e) s = execMonitorRequest co e s := rfl
@[simp] theorem exec_monitorTimeout (co) (e) (s : State) : exec (.monitorTimeout co e) s = execMonitorTimeout co e s := rfl
@[simp] theorem exec_sputPublish (site) (ring) (s : State) : exec (.sputPublish site ring) s = execSputPublish site ring s := rfl
@[simp] theorem exec_sgetCopyComplete (site) (ring) (s : State) : exec (.sgetCopyComplete site ring) s = execSgetCopyComplete site ring s := rfl
@[simp] theorem exec_entryRelease (lid) (ent) (s : State) : exec (.entryRelease lid ent) s = execEntryRelease lid ent s := rfl
@[simp] theorem exec_frameScheduledEnd (lid) (s : State) : exec (.frameScheduledEnd lid) s = execFrameScheduledEnd lid s := rfl
@[simp] theorem exec_slipLimit (lid) (s : State) : exec (.slipLimit lid) s = execSlipLimit lid s := rfl
@[simp] theorem exec_frameComplete (lid) (elastic) (s : State) : exec (.frameComplete lid elastic) s = execFrameComplete lid elastic s := rfl
@[simp] theorem exec_frameStart (lid) (s : State) : exec (.frameStart lid) s = execFrameStart lid s := rfl
@[simp] theorem exec_launchAbort (lid) (s : State) : exec (.launchAbort lid) s = execLaunchAbort lid s := rfl
@[simp] theorem exec_trapRecordService (isle) (s : State) : exec (.trapRecordService isle) s = execTrapRecordService isle s := rfl
@[simp] theorem exec_cctlResume (co) (s : State) : exec (.cctlResume co) s = execCctlResume co s := rfl
@[simp] theorem exec_lctlAbort (lid) (s : State) : exec (.lctlAbort lid) s = execLctlAbort lid s := rfl
@[simp] theorem exec_machineFault (place) (s : State) : exec (.machineFault place) s = execMachineFault place s := rfl
@[simp] theorem exec_temperatureSample (isle) (ins) (temp) (s : State) : exec (.temperatureSample isle ins temp) s = execTemperatureSample isle ins temp s := rfl
@[simp] theorem exec_thermalGapStep (isle) (ins) (s : State) : exec (.thermalGapStep isle ins) s = execThermalGapStep isle ins s := rfl
@[simp] theorem exec_dbnotify (q) (n) (s : State) : exec (.dbnotify q n) s = execDbnotify q n s := rfl
@[simp] theorem exec_queueMap (q) (s : State) : exec (.queueMap q) s = execQueueMap q s := rfl
@[simp] theorem exec_queueUnmap (q) (s : State) : exec (.queueUnmap q) s = execQueueUnmap q s := rfl
@[simp] theorem exec_qcmdMap (quay) (q) (s : State) : exec (.qcmdMap quay q) s = execQcmdMap quay q s := rfl
@[simp] theorem exec_qcmdUnmap (quay) (q) (s : State) : exec (.qcmdUnmap quay q) s = execQcmdUnmap quay q s := rfl
@[simp] theorem exec_qcmdClearFault (quay) (q) (s : State) : exec (.qcmdClearFault quay q) s = execQcmdClearFault quay q s := rfl
@[simp] theorem exec_attnService (quay) (s : State) : exec (.attnService quay) s = execAttnService quay s := rfl
@[simp] theorem exec_packetFetch (q) (s : State) : exec (.packetFetch q) s = execPacketFetch q s := rfl
@[simp] theorem exec_launch (q) (s : State) : exec (.launch q) s = execLaunch q s := rfl
@[simp] theorem exec_callPacket (q) (s : State) : exec (.callPacket q) s = execCallPacket q s := rfl
@[simp] theorem exec_returnPacket (q) (s : State) : exec (.returnPacket q) s = execReturnPacket q s := rfl
@[simp] theorem exec_join (q) (s : State) : exec (.join q) s = execJoin q s := rfl
@[simp] theorem exec_copy (q) (s : State) : exec (.copy q) s = execCopy q s := rfl
@[simp] theorem exec_signal (q) (s : State) : exec (.signal q) s = execSignal q s := rfl
@[simp] theorem exec_waitvalue (q) (s : State) : exec (.waitvalue q) s = execWaitvalue q s := rfl
@[simp] theorem exec_waitvaluePoll (q) (s : State) : exec (.waitvaluePoll q) s = execWaitvaluePoll q s := rfl
@[simp] theorem exec_waitvalueTimeout (q) (s : State) : exec (.waitvalueTimeout q) s = execWaitvalueTimeout q s := rfl
@[simp] theorem exec_preempt (q) (s : State) : exec (.preempt q) s = execPreempt q s := rfl
@[simp] theorem exec_refine (q) (s : State) : exec (.refine q) s = execRefine q s := rfl
@[simp] theorem exec_refineRunEnd (q) (s : State) : exec (.refineRunEnd q) s = execRefineRunEnd q s := rfl
@[simp] theorem exec_harbourRestart (s : State) : exec (.harbourRestart) s = execHarbourRestart s := rfl
@[simp] theorem exec_flitReceive (port) (bytes) (crc) (s : State) : exec (.flitReceive port bytes crc) s = execFlitReceive port bytes crc s := rfl
@[simp] theorem exec_flitReplay (port) (s : State) : exec (.flitReplay port) s = execFlitReplay port s := rfl
@[simp] theorem exec_portDown (port) (cause) (s : State) : exec (.portDown port cause) s = execPortDown port cause s := rfl
@[simp] theorem exec_portUp (port) (s : State) : exec (.portUp port) s = execPortUp port s := rfl
@[simp] theorem exec_rtgenFlip (table) (gen) (s : State) : exec (.rtgenFlip table gen) s = execRtgenFlip table gen s := rfl
@[simp] theorem exec_ringdescWrite (site) (ring) (v) (s : State) : exec (.ringdescWrite site ring v) s = execRingdescWrite site ring v s := rfl
@[simp] theorem exec_registerWrite (addr) (bytes) (s : State) : exec (.registerWrite addr bytes) s = execRegisterWrite addr bytes s := rfl
@[simp] theorem exec_tick (s : State) : exec (.tick) s = execTick s := rfl
@[simp] theorem exec_powerGood (s : State) : exec (.powerGood) s = execPowerGood s := rfl
@[simp] theorem exec_bootStageComplete (s : State) : exec (.bootStageComplete) s = execBootStageComplete s := rfl
@[simp] theorem exec_recoveryImage (base) (s : State) : exec (.recoveryImage base) s = execRecoveryImage base s := rfl
@[simp] theorem exec_unitTrainingComplete (u) (s : State) : exec (.unitTrainingComplete u) s = execUnitTrainingComplete u s := rfl
@[simp] theorem exec_attestationRequest (nonce) (s : State) : exec (.attestationRequest nonce) s = execAttestationRequest nonce s := rfl
@[simp] theorem exec_islePowerGate (isle) (s : State) : exec (.islePowerGate isle) s = execIslePowerGate isle s := rfl
@[simp] theorem exec_isleWake (isle) (s : State) : exec (.isleWake isle) s = execIsleWake isle s := rfl
@[simp] theorem exec_calibrationComplete (isle) (ins) (periods) (trims) (s : State) : exec (.calibrationComplete isle ins periods trims) s = execCalibrationComplete isle ins periods trims s := rfl
@[simp] theorem exec_perBankRefresh (site) (slice) (bank) (rfm) (s : State) : exec (.perBankRefresh site slice bank rfm) s = execPerBankRefresh site slice bank rfm s := rfl

end Sys2Proof.Machine
end

