-- ==== Sys2Proof/Laws/Memory.lean ====
section
/-! SUPPORT. Memory: every operation keeps the canonical form; reading after writing. -/

namespace Sys2Proof.Machine

/-! ### The canonical form -/

theorem memWfFrom_mono {lo lo' : Nat} (h : lo' ≤ lo) {m : List Host.Cell} (w : memWfFrom lo m = true) :
    memWfFrom lo' m = true := by
  cases m with
  | nil => rfl
  | cons c t =>
    obtain ⟨j, b⟩ := c
    simp only [memWfFrom, Bool.and_eq_true, decide_eq_true_eq] at w ⊢
    exact ⟨⟨by omega, w.1.2⟩, w.2⟩

theorem memWfFrom_filter (p : Host.Cell → Bool) {lo : Nat} {m : List Host.Cell} (w : memWfFrom lo m = true) :
    memWfFrom lo (m.filter p) = true := by
  induction m generalizing lo with
  | nil => rfl
  | cons c t ih =>
    obtain ⟨j, b⟩ := c
    simp only [memWfFrom, Bool.and_eq_true, decide_eq_true_eq] at w
    by_cases h : p (j, b) = true
    · simp only [List.filter, h, memWfFrom, Bool.and_eq_true, decide_eq_true_eq]
      exact ⟨w.1, ih w.2⟩
    · simp only [List.filter, h]
      exact memWfFrom_mono (by omega) (ih w.2)

theorem memWfFrom_write (b : Byte) (k : Nat) {lo : Nat} {m : List Host.Cell} (hk : lo ≤ k) (w : memWfFrom lo m = true) :
    memWfFrom lo (memWrite b k m) = true := by
  induction m generalizing lo with
  | nil =>
    unfold memWrite
    split
    · rfl
    · simp [memWfFrom, *]
  | cons c t ih =>
    obtain ⟨j, y⟩ := c
    have w' := w
    simp only [memWfFrom, Bool.and_eq_true, decide_eq_true_eq] at w
    simp only [memWrite]
    split
    · split
      · exact w'
      · next hb =>
        simp only [memWfFrom, Bool.and_eq_true, decide_eq_true_eq, bne_iff_ne, ne_eq]
        exact ⟨⟨hk, hb⟩, ⟨by omega, by simpa using w.1.2⟩, w.2⟩
    · split
      · split
        · exact memWfFrom_mono (by omega) w.2
        · next hb =>
          simp only [memWfFrom, Bool.and_eq_true, decide_eq_true_eq, bne_iff_ne, ne_eq]
          refine ⟨⟨hk, hb⟩, ?_⟩
          subst_vars
          exact w.2
      · simp only [memWfFrom, Bool.and_eq_true, decide_eq_true_eq]
        exact ⟨w.1, ih (by omega) w.2⟩

/-- Writing a byte keeps the canonical form. -/
theorem Memory.wf_write (b : Byte) (k : Nat) {m : List Host.Cell} (w : Memory.wf m = true) : Memory.wf (memWrite b k m) = true :=
  memWfFrom_write b k (Nat.zero_le k) w

/-- Writing bytes keeps the canonical form. -/
theorem Memory.wf_writeN (bs : List Byte) (k : Nat) {m : List Host.Cell} (w : Memory.wf m = true) :
    Memory.wf (memWriteN bs k m) = true := by
  induction bs generalizing k m with
  | nil => exact w
  | cons b bs ih => exact ih (k + 1) (Memory.wf_write b k w)

/-- Clearing a range keeps the canonical form. -/
theorem Memory.wf_clear (lo hi : Nat) {m : List Host.Cell} (w : Memory.wf m = true) : Memory.wf (memClear lo hi m) = true :=
  memWfFrom_filter _ w

/-- A fold of operations that each keep the canonical form keeps it. -/
theorem Memory.wf_foldl {α : Type} (f : List Host.Cell → α → List Host.Cell)
    (hf : ∀ m a, Memory.wf m = true → Memory.wf (f m a) = true) (l : List α) {m : List Host.Cell} (w : Memory.wf m = true) :
    Memory.wf (l.foldl f m) = true := by
  induction l generalizing m with
  | nil => exact w
  | cons a t ih => exact ih (hf m a w)

/-! ### Reading after writing -/

theorem memRead_below {lo a : Nat} {m : List Host.Cell} (w : memWfFrom lo m = true) (h : a < lo) : memRead m a = unlisted := by
  induction m generalizing lo with
  | nil => rfl
  | cons c t ih =>
    obtain ⟨j, b⟩ := c
    simp only [memWfFrom, Bool.and_eq_true, decide_eq_true_eq] at w
    rw [memRead, if_neg (by omega)]
    exact ih w.2 (by omega)

/-- A byte reads as it was written; every other byte reads as before. -/
theorem memRead_write {lo : Nat} (b : Byte) (k a : Nat) {m : List Host.Cell} (w : memWfFrom lo m = true) :
    memRead (memWrite b k m) a = if a = k then b else memRead m a := by
  induction m generalizing lo with
  | nil =>
    by_cases hb : b = unlisted
    · by_cases h : a = k <;> simp [memWrite, hb, memRead, h]
    · by_cases h : a = k <;> simp [memWrite, hb, memRead, h]
  | cons c t ih =>
    obtain ⟨j, y⟩ := c
    have w' := w
    simp only [memWfFrom, Bool.and_eq_true, decide_eq_true_eq] at w
    simp only [memWrite]
    split
    · next hk =>
      split
      · next hb =>
        by_cases h : a = k
        · subst h
          rw [if_pos rfl, hb, memRead, if_neg (by omega)]
          exact memRead_below w.2 (by omega)
        · rw [if_neg h]
      · by_cases h : a = k
        · simp [memRead, h]
        · simp only [memRead, h, if_false]
    · split
      · next hk hj =>
        subst hj
        split
        · next hb =>
          by_cases h : a = k
          · subst h
            rw [if_pos rfl, hb]
            exact memRead_below w.2 (by omega)
          · rw [if_neg h, memRead, if_neg h]
        · by_cases h : a = k
          · simp [memRead, h]
          · rw [memRead, if_neg h, if_neg h, memRead, if_neg h]
      · next hk hj =>
        by_cases h : a = j
        · subst h
          rw [memRead, if_pos rfl, if_neg (by omega), memRead, if_pos rfl]
        · rw [memRead, if_neg h, memRead, if_neg h]
          exact ih w.2

/-- Bytes written at `k` are read there. -/
theorem memRead_writeN_in (bs : List Byte) (k i : Nat) {m : List Host.Cell} (w : Memory.wf m = true) (h : i < bs.length) :
    memRead (memWriteN bs k m) (k + i) = bs[i] := by
  induction bs generalizing k m i with
  | nil => exact absurd h (by simp)
  | cons b bs ih =>
    have keep : ∀ (bs : List Byte) (n : Nat) (m : List Host.Cell), Memory.wf m = true → k < n →
        memRead (memWriteN bs n m) k = memRead m k := by
      intro bs
      induction bs with
      | nil => intro n m _ _; rfl
      | cons c cs ih2 =>
        intro n m w hn
        rw [memWriteN, ih2 (n + 1) (memWrite c n m) (Memory.wf_write c n w) (by omega), memRead_write c n k w, if_neg (by omega)]
    cases i with
    | zero =>
      show memRead (memWriteN bs (k + 1) (memWrite b k m)) k = b
      rw [keep bs (k + 1) _ (Memory.wf_write b k w) (by omega), memRead_write b k k w, if_pos rfl]
    | succ n =>
      rw [memWriteN, show k + (n + 1) = (k + 1) + n by omega, ih (k + 1) n (Memory.wf_write b k w) (by simpa using h)]
      rfl

/-- Bytes outside the place written read as before. -/
theorem memRead_writeN_out (bs : List Byte) (k a : Nat) {m : List Host.Cell} (w : Memory.wf m = true)
    (h : a < k ∨ k + bs.length ≤ a) : memRead (memWriteN bs k m) a = memRead m a := by
  induction bs generalizing k m with
  | nil => rfl
  | cons b bs ih =>
    rw [List.length_cons] at h
    rw [memWriteN, ih (k + 1) (Memory.wf_write b k w) (by omega), memRead_write b k a w, if_neg (by omega)]

/-! ### Tables -/

/-- A table reads what was put there. -/
@[simp] theorem tabGet_put_same {α : Type} (d x : α) (k : Nat) (t : Tab α) : tabGet d (tabPut x k t) k = x := by
  induction t with
  | nil => simp [tabPut, tabGet]
  | cons e t ih =>
    obtain ⟨j, y⟩ := e
    simp only [tabPut]
    split
    · simp [tabGet]
    · split
      · simp [tabGet]
      · next h => rw [tabGet, if_neg h]; exact ih

/-- A table reads elsewhere as before. -/
@[simp] theorem tabGet_put_other {α : Type} (d x : α) {k j : Nat} (h : j ≠ k) (t : Tab α) :
    tabGet d (tabPut x k t) j = tabGet d t j := by
  induction t with
  | nil => simp [tabPut, tabGet, h]
  | cons e t ih =>
    obtain ⟨i, y⟩ := e
    simp only [tabPut]
    split
    · rw [tabGet, if_neg h]
    · split
      · next hk => subst hk; rw [tabGet, if_neg h, tabGet, if_neg h]
      · by_cases hi : j = i
        · rw [tabGet, if_pos hi, tabGet, if_pos hi]
        · rw [tabGet, if_neg hi, tabGet, if_neg hi]; exact ih

/-- A table lists what was put there. -/
@[simp] theorem tabFind_put_same {α : Type} (x : α) (k : Nat) (t : Tab α) : tabFind (tabPut x k t) k = some x := by
  induction t with
  | nil => simp [tabPut, tabFind]
  | cons e t ih =>
    obtain ⟨j, y⟩ := e
    simp only [tabPut]
    split
    · simp [tabFind]
    · split
      · simp [tabFind]
      · next h => rw [tabFind, if_neg h]; exact ih

/-- A table lists elsewhere what it listed. -/
@[simp] theorem tabFind_put_other {α : Type} (x : α) {k j : Nat} (h : j ≠ k) (t : Tab α) :
    tabFind (tabPut x k t) j = tabFind t j := by
  induction t with
  | nil => simp [tabPut, tabFind, h]
  | cons e t ih =>
    obtain ⟨i, y⟩ := e
    simp only [tabPut]
    split
    · rw [tabFind, if_neg h]
    · split
      · next hk => subst hk; rw [tabFind, if_neg h, tabFind, if_neg h]
      · by_cases hi : j = i
        · rw [tabFind, if_pos hi, tabFind, if_pos hi]
        · rw [tabFind, if_neg hi, tabFind, if_neg hi]; exact ih

end Sys2Proof.Machine
end

