-- ==== Sys2Proof/Laws/State.lean ====
section
/-! SUPPORT. The state's named updates, field by field: what each leaves as it was, and what it puts. -/

namespace Sys2Proof.Machine

/-! ### setCore -/

@[simp] theorem Hw.setCore_arrs (h : Hw) (co : CoreId) (k : Core) : (h.setCore co k).arrs = h.arrs := rfl
@[simp] theorem Hw.setCore_isles (h : Hw) (co : CoreId) (k : Core) : (h.setCore co k).isles = h.isles := rfl
@[simp] theorem Hw.setCore_rings (h : Hw) (co : CoreId) (k : Core) : (h.setCore co k).rings = h.rings := rfl
@[simp] theorem Hw.setCore_streams (h : Hw) (co : CoreId) (k : Core) : (h.setCore co k).streams = h.streams := rfl
@[simp] theorem Hw.setCore_monitors (h : Hw) (co : CoreId) (k : Core) : (h.setCore co k).monitors = h.monitors := rfl
@[simp] theorem Hw.setCore_monWait (h : Hw) (co : CoreId) (k : Core) : (h.setCore co k).monWait = h.monWait := rfl
@[simp] theorem Hw.setCore_lineMeta (h : Hw) (co : CoreId) (k : Core) : (h.setCore co k).lineMeta = h.lineMeta := rfl
@[simp] theorem Hw.setCore_errs (h : Hw) (co : CoreId) (k : Core) : (h.setCore co k).errs = h.errs := rfl
@[simp] theorem Hw.setCore_pagecnt (h : Hw) (co : CoreId) (k : Core) : (h.setCore co k).pagecnt = h.pagecnt := rfl
@[simp] theorem Hw.setCore_slices (h : Hw) (co : CoreId) (k : Core) : (h.setCore co k).slices = h.slices := rfl
@[simp] theorem Hw.setCore_launches (h : Hw) (co : CoreId) (k : Core) : (h.setCore co k).launches = h.launches := rfl
@[simp] theorem Hw.setCore_rounds (h : Hw) (co : CoreId) (k : Core) : (h.setCore co k).rounds = h.rounds := rfl
@[simp] theorem Hw.setCore_closed (h : Hw) (co : CoreId) (k : Core) : (h.setCore co k).closed = h.closed := rfl
@[simp] theorem Hw.setCore_holds (h : Hw) (co : CoreId) (k : Core) : (h.setCore co k).holds = h.holds := rfl
@[simp] theorem Hw.setCore_quays (h : Hw) (co : CoreId) (k : Core) : (h.setCore co k).quays = h.quays := rfl
@[simp] theorem Hw.setCore_queues (h : Hw) (co : CoreId) (k : Core) : (h.setCore co k).queues = h.queues := rfl
@[simp] theorem Hw.setCore_refines (h : Hw) (co : CoreId) (k : Core) : (h.setCore co k).refines = h.refines := rfl
@[simp] theorem Hw.setCore_ports (h : Hw) (co : CoreId) (k : Core) : (h.setCore co k).ports = h.ports := rfl
@[simp] theorem Hw.setCore_origin (h : Hw) (co : CoreId) (k : Core) : (h.setCore co k).origin = h.origin := rfl
@[simp] theorem Hw.setCore_xseqs (h : Hw) (co : CoreId) (k : Core) : (h.setCore co k).xseqs = h.xseqs := rfl
@[simp] theorem Hw.setCore_xreqs (h : Hw) (co : CoreId) (k : Core) : (h.setCore co k).xreqs = h.xreqs := rfl
@[simp] theorem Hw.setCore_flitsIn (h : Hw) (co : CoreId) (k : Core) : (h.setCore co k).flitsIn = h.flitsIn := rfl
@[simp] theorem Hw.setCore_applied (h : Hw) (co : CoreId) (k : Core) : (h.setCore co k).applied = h.applied := rfl
@[simp] theorem Hw.setCore_win (h : Hw) (co : CoreId) (k : Core) : (h.setCore co k).win = h.win := rfl
@[simp] theorem Hw.setCore_notices (h : Hw) (co : CoreId) (k : Core) : (h.setCore co k).notices = h.notices := rfl
@[simp] theorem Hw.setCore_noticesSeen (h : Hw) (co : CoreId) (k : Core) : (h.setCore co k).noticesSeen = h.noticesSeen := rfl
@[simp] theorem Hw.setCore_cwFull (h : Hw) (co : CoreId) (k : Core) : (h.setCore co k).cwFull = h.cwFull := rfl
@[simp] theorem Hw.setCore_detours (h : Hw) (co : CoreId) (k : Core) : (h.setCore co k).detours = h.detours := rfl
@[simp] theorem Hw.setCore_sqPorts (h : Hw) (co : CoreId) (k : Core) : (h.setCore co k).sqPorts = h.sqPorts := rfl
@[simp] theorem Hw.setCore_pathPend (h : Hw) (co : CoreId) (k : Core) : (h.setCore co k).pathPend = h.pathPend := rfl
@[simp] theorem Hw.setCore_lidRegs (h : Hw) (co : CoreId) (k : Core) : (h.setCore co k).lidRegs = h.lidRegs := rfl
@[simp] theorem Hw.setCore_cfg (h : Hw) (co : CoreId) (k : Core) : (h.setCore co k).cfg = h.cfg := rfl
@[simp] theorem Hw.setCore_boot (h : Hw) (co : CoreId) (k : Core) : (h.setCore co k).boot = h.boot := rfl
@[simp] theorem Hw.setCore_mem (h : Hw) (co : CoreId) (k : Core) : (h.setCore co k).mem = h.mem := rfl
@[simp] theorem Hw.setCore_tags (h : Hw) (co : CoreId) (k : Core) : (h.setCore co k).tags = h.tags := rfl
@[simp] theorem Hw.setCore_full (h : Hw) (co : CoreId) (k : Core) : (h.setCore co k).full = h.full := rfl
@[simp] theorem Hw.setCore_pmark (h : Hw) (co : CoreId) (k : Core) : (h.setCore co k).pmark = h.pmark := rfl
@[simp] theorem Hw.setCore_dirty (h : Hw) (co : CoreId) (k : Core) : (h.setCore co k).dirty = h.dirty := rfl
@[simp] theorem Hw.setCore_cellErrs (h : Hw) (co : CoreId) (k : Core) : (h.setCore co k).cellErrs = h.cellErrs := rfl
@[simp] theorem Hw.setCore_stall (h : Hw) (co : CoreId) (k : Core) : (h.setCore co k).stall = h.stall := rfl
@[simp] theorem Hw.setCore_tick (h : Hw) (co : CoreId) (k : Core) : (h.setCore co k).tick = h.tick := rfl

/-! ### setArr -/

@[simp] theorem Hw.setArr_cores (h : Hw) (isle ins : Nat) (a : Arr) : (h.setArr isle ins a).cores = h.cores := rfl
@[simp] theorem Hw.setArr_isles (h : Hw) (isle ins : Nat) (a : Arr) : (h.setArr isle ins a).isles = h.isles := rfl
@[simp] theorem Hw.setArr_rings (h : Hw) (isle ins : Nat) (a : Arr) : (h.setArr isle ins a).rings = h.rings := rfl
@[simp] theorem Hw.setArr_streams (h : Hw) (isle ins : Nat) (a : Arr) : (h.setArr isle ins a).streams = h.streams := rfl
@[simp] theorem Hw.setArr_monitors (h : Hw) (isle ins : Nat) (a : Arr) : (h.setArr isle ins a).monitors = h.monitors := rfl
@[simp] theorem Hw.setArr_monWait (h : Hw) (isle ins : Nat) (a : Arr) : (h.setArr isle ins a).monWait = h.monWait := rfl
@[simp] theorem Hw.setArr_lineMeta (h : Hw) (isle ins : Nat) (a : Arr) : (h.setArr isle ins a).lineMeta = h.lineMeta := rfl
@[simp] theorem Hw.setArr_errs (h : Hw) (isle ins : Nat) (a : Arr) : (h.setArr isle ins a).errs = h.errs := rfl
@[simp] theorem Hw.setArr_pagecnt (h : Hw) (isle ins : Nat) (a : Arr) : (h.setArr isle ins a).pagecnt = h.pagecnt := rfl
@[simp] theorem Hw.setArr_slices (h : Hw) (isle ins : Nat) (a : Arr) : (h.setArr isle ins a).slices = h.slices := rfl
@[simp] theorem Hw.setArr_launches (h : Hw) (isle ins : Nat) (a : Arr) : (h.setArr isle ins a).launches = h.launches := rfl
@[simp] theorem Hw.setArr_rounds (h : Hw) (isle ins : Nat) (a : Arr) : (h.setArr isle ins a).rounds = h.rounds := rfl
@[simp] theorem Hw.setArr_closed (h : Hw) (isle ins : Nat) (a : Arr) : (h.setArr isle ins a).closed = h.closed := rfl
@[simp] theorem Hw.setArr_holds (h : Hw) (isle ins : Nat) (a : Arr) : (h.setArr isle ins a).holds = h.holds := rfl
@[simp] theorem Hw.setArr_quays (h : Hw) (isle ins : Nat) (a : Arr) : (h.setArr isle ins a).quays = h.quays := rfl
@[simp] theorem Hw.setArr_queues (h : Hw) (isle ins : Nat) (a : Arr) : (h.setArr isle ins a).queues = h.queues := rfl
@[simp] theorem Hw.setArr_refines (h : Hw) (isle ins : Nat) (a : Arr) : (h.setArr isle ins a).refines = h.refines := rfl
@[simp] theorem Hw.setArr_ports (h : Hw) (isle ins : Nat) (a : Arr) : (h.setArr isle ins a).ports = h.ports := rfl
@[simp] theorem Hw.setArr_origin (h : Hw) (isle ins : Nat) (a : Arr) : (h.setArr isle ins a).origin = h.origin := rfl
@[simp] theorem Hw.setArr_xseqs (h : Hw) (isle ins : Nat) (a : Arr) : (h.setArr isle ins a).xseqs = h.xseqs := rfl
@[simp] theorem Hw.setArr_xreqs (h : Hw) (isle ins : Nat) (a : Arr) : (h.setArr isle ins a).xreqs = h.xreqs := rfl
@[simp] theorem Hw.setArr_flitsIn (h : Hw) (isle ins : Nat) (a : Arr) : (h.setArr isle ins a).flitsIn = h.flitsIn := rfl
@[simp] theorem Hw.setArr_applied (h : Hw) (isle ins : Nat) (a : Arr) : (h.setArr isle ins a).applied = h.applied := rfl
@[simp] theorem Hw.setArr_win (h : Hw) (isle ins : Nat) (a : Arr) : (h.setArr isle ins a).win = h.win := rfl
@[simp] theorem Hw.setArr_notices (h : Hw) (isle ins : Nat) (a : Arr) : (h.setArr isle ins a).notices = h.notices := rfl
@[simp] theorem Hw.setArr_noticesSeen (h : Hw) (isle ins : Nat) (a : Arr) : (h.setArr isle ins a).noticesSeen = h.noticesSeen := rfl
@[simp] theorem Hw.setArr_cwFull (h : Hw) (isle ins : Nat) (a : Arr) : (h.setArr isle ins a).cwFull = h.cwFull := rfl
@[simp] theorem Hw.setArr_detours (h : Hw) (isle ins : Nat) (a : Arr) : (h.setArr isle ins a).detours = h.detours := rfl
@[simp] theorem Hw.setArr_sqPorts (h : Hw) (isle ins : Nat) (a : Arr) : (h.setArr isle ins a).sqPorts = h.sqPorts := rfl
@[simp] theorem Hw.setArr_pathPend (h : Hw) (isle ins : Nat) (a : Arr) : (h.setArr isle ins a).pathPend = h.pathPend := rfl
@[simp] theorem Hw.setArr_lidRegs (h : Hw) (isle ins : Nat) (a : Arr) : (h.setArr isle ins a).lidRegs = h.lidRegs := rfl
@[simp] theorem Hw.setArr_cfg (h : Hw) (isle ins : Nat) (a : Arr) : (h.setArr isle ins a).cfg = h.cfg := rfl
@[simp] theorem Hw.setArr_boot (h : Hw) (isle ins : Nat) (a : Arr) : (h.setArr isle ins a).boot = h.boot := rfl
@[simp] theorem Hw.setArr_mem (h : Hw) (isle ins : Nat) (a : Arr) : (h.setArr isle ins a).mem = h.mem := rfl
@[simp] theorem Hw.setArr_tags (h : Hw) (isle ins : Nat) (a : Arr) : (h.setArr isle ins a).tags = h.tags := rfl
@[simp] theorem Hw.setArr_full (h : Hw) (isle ins : Nat) (a : Arr) : (h.setArr isle ins a).full = h.full := rfl
@[simp] theorem Hw.setArr_pmark (h : Hw) (isle ins : Nat) (a : Arr) : (h.setArr isle ins a).pmark = h.pmark := rfl
@[simp] theorem Hw.setArr_dirty (h : Hw) (isle ins : Nat) (a : Arr) : (h.setArr isle ins a).dirty = h.dirty := rfl
@[simp] theorem Hw.setArr_cellErrs (h : Hw) (isle ins : Nat) (a : Arr) : (h.setArr isle ins a).cellErrs = h.cellErrs := rfl
@[simp] theorem Hw.setArr_stall (h : Hw) (isle ins : Nat) (a : Arr) : (h.setArr isle ins a).stall = h.stall := rfl
@[simp] theorem Hw.setArr_tick (h : Hw) (isle ins : Nat) (a : Arr) : (h.setArr isle ins a).tick = h.tick := rfl

/-! ### setIsle -/

@[simp] theorem Hw.setIsle_cores (h : Hw) (i : Nat) (x : Isle) : (h.setIsle i x).cores = h.cores := rfl
@[simp] theorem Hw.setIsle_arrs (h : Hw) (i : Nat) (x : Isle) : (h.setIsle i x).arrs = h.arrs := rfl
@[simp] theorem Hw.setIsle_rings (h : Hw) (i : Nat) (x : Isle) : (h.setIsle i x).rings = h.rings := rfl
@[simp] theorem Hw.setIsle_streams (h : Hw) (i : Nat) (x : Isle) : (h.setIsle i x).streams = h.streams := rfl
@[simp] theorem Hw.setIsle_monitors (h : Hw) (i : Nat) (x : Isle) : (h.setIsle i x).monitors = h.monitors := rfl
@[simp] theorem Hw.setIsle_monWait (h : Hw) (i : Nat) (x : Isle) : (h.setIsle i x).monWait = h.monWait := rfl
@[simp] theorem Hw.setIsle_lineMeta (h : Hw) (i : Nat) (x : Isle) : (h.setIsle i x).lineMeta = h.lineMeta := rfl
@[simp] theorem Hw.setIsle_errs (h : Hw) (i : Nat) (x : Isle) : (h.setIsle i x).errs = h.errs := rfl
@[simp] theorem Hw.setIsle_pagecnt (h : Hw) (i : Nat) (x : Isle) : (h.setIsle i x).pagecnt = h.pagecnt := rfl
@[simp] theorem Hw.setIsle_slices (h : Hw) (i : Nat) (x : Isle) : (h.setIsle i x).slices = h.slices := rfl
@[simp] theorem Hw.setIsle_launches (h : Hw) (i : Nat) (x : Isle) : (h.setIsle i x).launches = h.launches := rfl
@[simp] theorem Hw.setIsle_rounds (h : Hw) (i : Nat) (x : Isle) : (h.setIsle i x).rounds = h.rounds := rfl
@[simp] theorem Hw.setIsle_closed (h : Hw) (i : Nat) (x : Isle) : (h.setIsle i x).closed = h.closed := rfl
@[simp] theorem Hw.setIsle_holds (h : Hw) (i : Nat) (x : Isle) : (h.setIsle i x).holds = h.holds := rfl
@[simp] theorem Hw.setIsle_quays (h : Hw) (i : Nat) (x : Isle) : (h.setIsle i x).quays = h.quays := rfl
@[simp] theorem Hw.setIsle_queues (h : Hw) (i : Nat) (x : Isle) : (h.setIsle i x).queues = h.queues := rfl
@[simp] theorem Hw.setIsle_refines (h : Hw) (i : Nat) (x : Isle) : (h.setIsle i x).refines = h.refines := rfl
@[simp] theorem Hw.setIsle_ports (h : Hw) (i : Nat) (x : Isle) : (h.setIsle i x).ports = h.ports := rfl
@[simp] theorem Hw.setIsle_origin (h : Hw) (i : Nat) (x : Isle) : (h.setIsle i x).origin = h.origin := rfl
@[simp] theorem Hw.setIsle_xseqs (h : Hw) (i : Nat) (x : Isle) : (h.setIsle i x).xseqs = h.xseqs := rfl
@[simp] theorem Hw.setIsle_xreqs (h : Hw) (i : Nat) (x : Isle) : (h.setIsle i x).xreqs = h.xreqs := rfl
@[simp] theorem Hw.setIsle_flitsIn (h : Hw) (i : Nat) (x : Isle) : (h.setIsle i x).flitsIn = h.flitsIn := rfl
@[simp] theorem Hw.setIsle_applied (h : Hw) (i : Nat) (x : Isle) : (h.setIsle i x).applied = h.applied := rfl
@[simp] theorem Hw.setIsle_win (h : Hw) (i : Nat) (x : Isle) : (h.setIsle i x).win = h.win := rfl
@[simp] theorem Hw.setIsle_notices (h : Hw) (i : Nat) (x : Isle) : (h.setIsle i x).notices = h.notices := rfl
@[simp] theorem Hw.setIsle_noticesSeen (h : Hw) (i : Nat) (x : Isle) : (h.setIsle i x).noticesSeen = h.noticesSeen := rfl
@[simp] theorem Hw.setIsle_cwFull (h : Hw) (i : Nat) (x : Isle) : (h.setIsle i x).cwFull = h.cwFull := rfl
@[simp] theorem Hw.setIsle_detours (h : Hw) (i : Nat) (x : Isle) : (h.setIsle i x).detours = h.detours := rfl
@[simp] theorem Hw.setIsle_sqPorts (h : Hw) (i : Nat) (x : Isle) : (h.setIsle i x).sqPorts = h.sqPorts := rfl
@[simp] theorem Hw.setIsle_pathPend (h : Hw) (i : Nat) (x : Isle) : (h.setIsle i x).pathPend = h.pathPend := rfl
@[simp] theorem Hw.setIsle_lidRegs (h : Hw) (i : Nat) (x : Isle) : (h.setIsle i x).lidRegs = h.lidRegs := rfl
@[simp] theorem Hw.setIsle_cfg (h : Hw) (i : Nat) (x : Isle) : (h.setIsle i x).cfg = h.cfg := rfl
@[simp] theorem Hw.setIsle_boot (h : Hw) (i : Nat) (x : Isle) : (h.setIsle i x).boot = h.boot := rfl
@[simp] theorem Hw.setIsle_mem (h : Hw) (i : Nat) (x : Isle) : (h.setIsle i x).mem = h.mem := rfl
@[simp] theorem Hw.setIsle_tags (h : Hw) (i : Nat) (x : Isle) : (h.setIsle i x).tags = h.tags := rfl
@[simp] theorem Hw.setIsle_full (h : Hw) (i : Nat) (x : Isle) : (h.setIsle i x).full = h.full := rfl
@[simp] theorem Hw.setIsle_pmark (h : Hw) (i : Nat) (x : Isle) : (h.setIsle i x).pmark = h.pmark := rfl
@[simp] theorem Hw.setIsle_dirty (h : Hw) (i : Nat) (x : Isle) : (h.setIsle i x).dirty = h.dirty := rfl
@[simp] theorem Hw.setIsle_cellErrs (h : Hw) (i : Nat) (x : Isle) : (h.setIsle i x).cellErrs = h.cellErrs := rfl
@[simp] theorem Hw.setIsle_stall (h : Hw) (i : Nat) (x : Isle) : (h.setIsle i x).stall = h.stall := rfl
@[simp] theorem Hw.setIsle_tick (h : Hw) (i : Nat) (x : Isle) : (h.setIsle i x).tick = h.tick := rfl

/-! ### setLaunch -/

@[simp] theorem Hw.setLaunch_cores (h : Hw) (l : Launch) : (h.setLaunch l).cores = h.cores := rfl
@[simp] theorem Hw.setLaunch_arrs (h : Hw) (l : Launch) : (h.setLaunch l).arrs = h.arrs := rfl
@[simp] theorem Hw.setLaunch_isles (h : Hw) (l : Launch) : (h.setLaunch l).isles = h.isles := rfl
@[simp] theorem Hw.setLaunch_rings (h : Hw) (l : Launch) : (h.setLaunch l).rings = h.rings := rfl
@[simp] theorem Hw.setLaunch_streams (h : Hw) (l : Launch) : (h.setLaunch l).streams = h.streams := rfl
@[simp] theorem Hw.setLaunch_monitors (h : Hw) (l : Launch) : (h.setLaunch l).monitors = h.monitors := rfl
@[simp] theorem Hw.setLaunch_monWait (h : Hw) (l : Launch) : (h.setLaunch l).monWait = h.monWait := rfl
@[simp] theorem Hw.setLaunch_lineMeta (h : Hw) (l : Launch) : (h.setLaunch l).lineMeta = h.lineMeta := rfl
@[simp] theorem Hw.setLaunch_errs (h : Hw) (l : Launch) : (h.setLaunch l).errs = h.errs := rfl
@[simp] theorem Hw.setLaunch_pagecnt (h : Hw) (l : Launch) : (h.setLaunch l).pagecnt = h.pagecnt := rfl
@[simp] theorem Hw.setLaunch_slices (h : Hw) (l : Launch) : (h.setLaunch l).slices = h.slices := rfl
@[simp] theorem Hw.setLaunch_rounds (h : Hw) (l : Launch) : (h.setLaunch l).rounds = h.rounds := rfl
@[simp] theorem Hw.setLaunch_closed (h : Hw) (l : Launch) : (h.setLaunch l).closed = h.closed := rfl
@[simp] theorem Hw.setLaunch_holds (h : Hw) (l : Launch) : (h.setLaunch l).holds = h.holds := rfl
@[simp] theorem Hw.setLaunch_quays (h : Hw) (l : Launch) : (h.setLaunch l).quays = h.quays := rfl
@[simp] theorem Hw.setLaunch_queues (h : Hw) (l : Launch) : (h.setLaunch l).queues = h.queues := rfl
@[simp] theorem Hw.setLaunch_refines (h : Hw) (l : Launch) : (h.setLaunch l).refines = h.refines := rfl
@[simp] theorem Hw.setLaunch_ports (h : Hw) (l : Launch) : (h.setLaunch l).ports = h.ports := rfl
@[simp] theorem Hw.setLaunch_origin (h : Hw) (l : Launch) : (h.setLaunch l).origin = h.origin := rfl
@[simp] theorem Hw.setLaunch_xseqs (h : Hw) (l : Launch) : (h.setLaunch l).xseqs = h.xseqs := rfl
@[simp] theorem Hw.setLaunch_xreqs (h : Hw) (l : Launch) : (h.setLaunch l).xreqs = h.xreqs := rfl
@[simp] theorem Hw.setLaunch_flitsIn (h : Hw) (l : Launch) : (h.setLaunch l).flitsIn = h.flitsIn := rfl
@[simp] theorem Hw.setLaunch_applied (h : Hw) (l : Launch) : (h.setLaunch l).applied = h.applied := rfl
@[simp] theorem Hw.setLaunch_win (h : Hw) (l : Launch) : (h.setLaunch l).win = h.win := rfl
@[simp] theorem Hw.setLaunch_notices (h : Hw) (l : Launch) : (h.setLaunch l).notices = h.notices := rfl
@[simp] theorem Hw.setLaunch_noticesSeen (h : Hw) (l : Launch) : (h.setLaunch l).noticesSeen = h.noticesSeen := rfl
@[simp] theorem Hw.setLaunch_cwFull (h : Hw) (l : Launch) : (h.setLaunch l).cwFull = h.cwFull := rfl
@[simp] theorem Hw.setLaunch_detours (h : Hw) (l : Launch) : (h.setLaunch l).detours = h.detours := rfl
@[simp] theorem Hw.setLaunch_sqPorts (h : Hw) (l : Launch) : (h.setLaunch l).sqPorts = h.sqPorts := rfl
@[simp] theorem Hw.setLaunch_pathPend (h : Hw) (l : Launch) : (h.setLaunch l).pathPend = h.pathPend := rfl
@[simp] theorem Hw.setLaunch_lidRegs (h : Hw) (l : Launch) : (h.setLaunch l).lidRegs = h.lidRegs := rfl
@[simp] theorem Hw.setLaunch_cfg (h : Hw) (l : Launch) : (h.setLaunch l).cfg = h.cfg := rfl
@[simp] theorem Hw.setLaunch_boot (h : Hw) (l : Launch) : (h.setLaunch l).boot = h.boot := rfl
@[simp] theorem Hw.setLaunch_mem (h : Hw) (l : Launch) : (h.setLaunch l).mem = h.mem := rfl
@[simp] theorem Hw.setLaunch_tags (h : Hw) (l : Launch) : (h.setLaunch l).tags = h.tags := rfl
@[simp] theorem Hw.setLaunch_full (h : Hw) (l : Launch) : (h.setLaunch l).full = h.full := rfl
@[simp] theorem Hw.setLaunch_pmark (h : Hw) (l : Launch) : (h.setLaunch l).pmark = h.pmark := rfl
@[simp] theorem Hw.setLaunch_dirty (h : Hw) (l : Launch) : (h.setLaunch l).dirty = h.dirty := rfl
@[simp] theorem Hw.setLaunch_cellErrs (h : Hw) (l : Launch) : (h.setLaunch l).cellErrs = h.cellErrs := rfl
@[simp] theorem Hw.setLaunch_stall (h : Hw) (l : Launch) : (h.setLaunch l).stall = h.stall := rfl
@[simp] theorem Hw.setLaunch_tick (h : Hw) (l : Launch) : (h.setLaunch l).tick = h.tick := rfl

/-! ### setQueue -/

@[simp] theorem Hw.setQueue_cores (h : Hw) (q : Nat) (x : HQueue) : (h.setQueue q x).cores = h.cores := rfl
@[simp] theorem Hw.setQueue_arrs (h : Hw) (q : Nat) (x : HQueue) : (h.setQueue q x).arrs = h.arrs := rfl
@[simp] theorem Hw.setQueue_isles (h : Hw) (q : Nat) (x : HQueue) : (h.setQueue q x).isles = h.isles := rfl
@[simp] theorem Hw.setQueue_rings (h : Hw) (q : Nat) (x : HQueue) : (h.setQueue q x).rings = h.rings := rfl
@[simp] theorem Hw.setQueue_streams (h : Hw) (q : Nat) (x : HQueue) : (h.setQueue q x).streams = h.streams := rfl
@[simp] theorem Hw.setQueue_monitors (h : Hw) (q : Nat) (x : HQueue) : (h.setQueue q x).monitors = h.monitors := rfl
@[simp] theorem Hw.setQueue_monWait (h : Hw) (q : Nat) (x : HQueue) : (h.setQueue q x).monWait = h.monWait := rfl
@[simp] theorem Hw.setQueue_lineMeta (h : Hw) (q : Nat) (x : HQueue) : (h.setQueue q x).lineMeta = h.lineMeta := rfl
@[simp] theorem Hw.setQueue_errs (h : Hw) (q : Nat) (x : HQueue) : (h.setQueue q x).errs = h.errs := rfl
@[simp] theorem Hw.setQueue_pagecnt (h : Hw) (q : Nat) (x : HQueue) : (h.setQueue q x).pagecnt = h.pagecnt := rfl
@[simp] theorem Hw.setQueue_slices (h : Hw) (q : Nat) (x : HQueue) : (h.setQueue q x).slices = h.slices := rfl
@[simp] theorem Hw.setQueue_launches (h : Hw) (q : Nat) (x : HQueue) : (h.setQueue q x).launches = h.launches := rfl
@[simp] theorem Hw.setQueue_rounds (h : Hw) (q : Nat) (x : HQueue) : (h.setQueue q x).rounds = h.rounds := rfl
@[simp] theorem Hw.setQueue_closed (h : Hw) (q : Nat) (x : HQueue) : (h.setQueue q x).closed = h.closed := rfl
@[simp] theorem Hw.setQueue_holds (h : Hw) (q : Nat) (x : HQueue) : (h.setQueue q x).holds = h.holds := rfl
@[simp] theorem Hw.setQueue_quays (h : Hw) (q : Nat) (x : HQueue) : (h.setQueue q x).quays = h.quays := rfl
@[simp] theorem Hw.setQueue_refines (h : Hw) (q : Nat) (x : HQueue) : (h.setQueue q x).refines = h.refines := rfl
@[simp] theorem Hw.setQueue_ports (h : Hw) (q : Nat) (x : HQueue) : (h.setQueue q x).ports = h.ports := rfl
@[simp] theorem Hw.setQueue_origin (h : Hw) (q : Nat) (x : HQueue) : (h.setQueue q x).origin = h.origin := rfl
@[simp] theorem Hw.setQueue_xseqs (h : Hw) (q : Nat) (x : HQueue) : (h.setQueue q x).xseqs = h.xseqs := rfl
@[simp] theorem Hw.setQueue_xreqs (h : Hw) (q : Nat) (x : HQueue) : (h.setQueue q x).xreqs = h.xreqs := rfl
@[simp] theorem Hw.setQueue_flitsIn (h : Hw) (q : Nat) (x : HQueue) : (h.setQueue q x).flitsIn = h.flitsIn := rfl
@[simp] theorem Hw.setQueue_applied (h : Hw) (q : Nat) (x : HQueue) : (h.setQueue q x).applied = h.applied := rfl
@[simp] theorem Hw.setQueue_win (h : Hw) (q : Nat) (x : HQueue) : (h.setQueue q x).win = h.win := rfl
@[simp] theorem Hw.setQueue_notices (h : Hw) (q : Nat) (x : HQueue) : (h.setQueue q x).notices = h.notices := rfl
@[simp] theorem Hw.setQueue_noticesSeen (h : Hw) (q : Nat) (x : HQueue) : (h.setQueue q x).noticesSeen = h.noticesSeen := rfl
@[simp] theorem Hw.setQueue_cwFull (h : Hw) (q : Nat) (x : HQueue) : (h.setQueue q x).cwFull = h.cwFull := rfl
@[simp] theorem Hw.setQueue_detours (h : Hw) (q : Nat) (x : HQueue) : (h.setQueue q x).detours = h.detours := rfl
@[simp] theorem Hw.setQueue_sqPorts (h : Hw) (q : Nat) (x : HQueue) : (h.setQueue q x).sqPorts = h.sqPorts := rfl
@[simp] theorem Hw.setQueue_pathPend (h : Hw) (q : Nat) (x : HQueue) : (h.setQueue q x).pathPend = h.pathPend := rfl
@[simp] theorem Hw.setQueue_lidRegs (h : Hw) (q : Nat) (x : HQueue) : (h.setQueue q x).lidRegs = h.lidRegs := rfl
@[simp] theorem Hw.setQueue_cfg (h : Hw) (q : Nat) (x : HQueue) : (h.setQueue q x).cfg = h.cfg := rfl
@[simp] theorem Hw.setQueue_boot (h : Hw) (q : Nat) (x : HQueue) : (h.setQueue q x).boot = h.boot := rfl
@[simp] theorem Hw.setQueue_mem (h : Hw) (q : Nat) (x : HQueue) : (h.setQueue q x).mem = h.mem := rfl
@[simp] theorem Hw.setQueue_tags (h : Hw) (q : Nat) (x : HQueue) : (h.setQueue q x).tags = h.tags := rfl
@[simp] theorem Hw.setQueue_full (h : Hw) (q : Nat) (x : HQueue) : (h.setQueue q x).full = h.full := rfl
@[simp] theorem Hw.setQueue_pmark (h : Hw) (q : Nat) (x : HQueue) : (h.setQueue q x).pmark = h.pmark := rfl
@[simp] theorem Hw.setQueue_dirty (h : Hw) (q : Nat) (x : HQueue) : (h.setQueue q x).dirty = h.dirty := rfl
@[simp] theorem Hw.setQueue_cellErrs (h : Hw) (q : Nat) (x : HQueue) : (h.setQueue q x).cellErrs = h.cellErrs := rfl
@[simp] theorem Hw.setQueue_stall (h : Hw) (q : Nat) (x : HQueue) : (h.setQueue q x).stall = h.stall := rfl
@[simp] theorem Hw.setQueue_tick (h : Hw) (q : Nat) (x : HQueue) : (h.setQueue q x).tick = h.tick := rfl

/-! ### onSlice -/

@[simp] theorem Hw.onSlice_cores (h : Hw) (site slice : Nat) (f : Slice → Slice) : (h.onSlice site slice f).cores = h.cores := rfl
@[simp] theorem Hw.onSlice_arrs (h : Hw) (site slice : Nat) (f : Slice → Slice) : (h.onSlice site slice f).arrs = h.arrs := rfl
@[simp] theorem Hw.onSlice_isles (h : Hw) (site slice : Nat) (f : Slice → Slice) : (h.onSlice site slice f).isles = h.isles := rfl
@[simp] theorem Hw.onSlice_rings (h : Hw) (site slice : Nat) (f : Slice → Slice) : (h.onSlice site slice f).rings = h.rings := rfl
@[simp] theorem Hw.onSlice_streams (h : Hw) (site slice : Nat) (f : Slice → Slice) : (h.onSlice site slice f).streams = h.streams := rfl
@[simp] theorem Hw.onSlice_monitors (h : Hw) (site slice : Nat) (f : Slice → Slice) : (h.onSlice site slice f).monitors = h.monitors := rfl
@[simp] theorem Hw.onSlice_monWait (h : Hw) (site slice : Nat) (f : Slice → Slice) : (h.onSlice site slice f).monWait = h.monWait := rfl
@[simp] theorem Hw.onSlice_lineMeta (h : Hw) (site slice : Nat) (f : Slice → Slice) : (h.onSlice site slice f).lineMeta = h.lineMeta := rfl
@[simp] theorem Hw.onSlice_errs (h : Hw) (site slice : Nat) (f : Slice → Slice) : (h.onSlice site slice f).errs = h.errs := rfl
@[simp] theorem Hw.onSlice_pagecnt (h : Hw) (site slice : Nat) (f : Slice → Slice) : (h.onSlice site slice f).pagecnt = h.pagecnt := rfl
@[simp] theorem Hw.onSlice_launches (h : Hw) (site slice : Nat) (f : Slice → Slice) : (h.onSlice site slice f).launches = h.launches := rfl
@[simp] theorem Hw.onSlice_rounds (h : Hw) (site slice : Nat) (f : Slice → Slice) : (h.onSlice site slice f).rounds = h.rounds := rfl
@[simp] theorem Hw.onSlice_closed (h : Hw) (site slice : Nat) (f : Slice → Slice) : (h.onSlice site slice f).closed = h.closed := rfl
@[simp] theorem Hw.onSlice_holds (h : Hw) (site slice : Nat) (f : Slice → Slice) : (h.onSlice site slice f).holds = h.holds := rfl
@[simp] theorem Hw.onSlice_quays (h : Hw) (site slice : Nat) (f : Slice → Slice) : (h.onSlice site slice f).quays = h.quays := rfl
@[simp] theorem Hw.onSlice_queues (h : Hw) (site slice : Nat) (f : Slice → Slice) : (h.onSlice site slice f).queues = h.queues := rfl
@[simp] theorem Hw.onSlice_refines (h : Hw) (site slice : Nat) (f : Slice → Slice) : (h.onSlice site slice f).refines = h.refines := rfl
@[simp] theorem Hw.onSlice_ports (h : Hw) (site slice : Nat) (f : Slice → Slice) : (h.onSlice site slice f).ports = h.ports := rfl
@[simp] theorem Hw.onSlice_origin (h : Hw) (site slice : Nat) (f : Slice → Slice) : (h.onSlice site slice f).origin = h.origin := rfl
@[simp] theorem Hw.onSlice_xseqs (h : Hw) (site slice : Nat) (f : Slice → Slice) : (h.onSlice site slice f).xseqs = h.xseqs := rfl
@[simp] theorem Hw.onSlice_xreqs (h : Hw) (site slice : Nat) (f : Slice → Slice) : (h.onSlice site slice f).xreqs = h.xreqs := rfl
@[simp] theorem Hw.onSlice_flitsIn (h : Hw) (site slice : Nat) (f : Slice → Slice) : (h.onSlice site slice f).flitsIn = h.flitsIn := rfl
@[simp] theorem Hw.onSlice_applied (h : Hw) (site slice : Nat) (f : Slice → Slice) : (h.onSlice site slice f).applied = h.applied := rfl
@[simp] theorem Hw.onSlice_win (h : Hw) (site slice : Nat) (f : Slice → Slice) : (h.onSlice site slice f).win = h.win := rfl
@[simp] theorem Hw.onSlice_notices (h : Hw) (site slice : Nat) (f : Slice → Slice) : (h.onSlice site slice f).notices = h.notices := rfl
@[simp] theorem Hw.onSlice_noticesSeen (h : Hw) (site slice : Nat) (f : Slice → Slice) : (h.onSlice site slice f).noticesSeen = h.noticesSeen := rfl
@[simp] theorem Hw.onSlice_cwFull (h : Hw) (site slice : Nat) (f : Slice → Slice) : (h.onSlice site slice f).cwFull = h.cwFull := rfl
@[simp] theorem Hw.onSlice_detours (h : Hw) (site slice : Nat) (f : Slice → Slice) : (h.onSlice site slice f).detours = h.detours := rfl
@[simp] theorem Hw.onSlice_sqPorts (h : Hw) (site slice : Nat) (f : Slice → Slice) : (h.onSlice site slice f).sqPorts = h.sqPorts := rfl
@[simp] theorem Hw.onSlice_pathPend (h : Hw) (site slice : Nat) (f : Slice → Slice) : (h.onSlice site slice f).pathPend = h.pathPend := rfl
@[simp] theorem Hw.onSlice_lidRegs (h : Hw) (site slice : Nat) (f : Slice → Slice) : (h.onSlice site slice f).lidRegs = h.lidRegs := rfl
@[simp] theorem Hw.onSlice_cfg (h : Hw) (site slice : Nat) (f : Slice → Slice) : (h.onSlice site slice f).cfg = h.cfg := rfl
@[simp] theorem Hw.onSlice_boot (h : Hw) (site slice : Nat) (f : Slice → Slice) : (h.onSlice site slice f).boot = h.boot := rfl
@[simp] theorem Hw.onSlice_mem (h : Hw) (site slice : Nat) (f : Slice → Slice) : (h.onSlice site slice f).mem = h.mem := rfl
@[simp] theorem Hw.onSlice_tags (h : Hw) (site slice : Nat) (f : Slice → Slice) : (h.onSlice site slice f).tags = h.tags := rfl
@[simp] theorem Hw.onSlice_full (h : Hw) (site slice : Nat) (f : Slice → Slice) : (h.onSlice site slice f).full = h.full := rfl
@[simp] theorem Hw.onSlice_pmark (h : Hw) (site slice : Nat) (f : Slice → Slice) : (h.onSlice site slice f).pmark = h.pmark := rfl
@[simp] theorem Hw.onSlice_dirty (h : Hw) (site slice : Nat) (f : Slice → Slice) : (h.onSlice site slice f).dirty = h.dirty := rfl
@[simp] theorem Hw.onSlice_cellErrs (h : Hw) (site slice : Nat) (f : Slice → Slice) : (h.onSlice site slice f).cellErrs = h.cellErrs := rfl
@[simp] theorem Hw.onSlice_stall (h : Hw) (site slice : Nat) (f : Slice → Slice) : (h.onSlice site slice f).stall = h.stall := rfl
@[simp] theorem Hw.onSlice_tick (h : Hw) (site slice : Nat) (f : Slice → Slice) : (h.onSlice site slice f).tick = h.tick := rfl

/-! ### onQuay -/

@[simp] theorem Hw.onQuay_cores (h : Hw) (q : Nat) (f : Quay → Quay) : (h.onQuay q f).cores = h.cores := rfl
@[simp] theorem Hw.onQuay_arrs (h : Hw) (q : Nat) (f : Quay → Quay) : (h.onQuay q f).arrs = h.arrs := rfl
@[simp] theorem Hw.onQuay_isles (h : Hw) (q : Nat) (f : Quay → Quay) : (h.onQuay q f).isles = h.isles := rfl
@[simp] theorem Hw.onQuay_rings (h : Hw) (q : Nat) (f : Quay → Quay) : (h.onQuay q f).rings = h.rings := rfl
@[simp] theorem Hw.onQuay_streams (h : Hw) (q : Nat) (f : Quay → Quay) : (h.onQuay q f).streams = h.streams := rfl
@[simp] theorem Hw.onQuay_monitors (h : Hw) (q : Nat) (f : Quay → Quay) : (h.onQuay q f).monitors = h.monitors := rfl
@[simp] theorem Hw.onQuay_monWait (h : Hw) (q : Nat) (f : Quay → Quay) : (h.onQuay q f).monWait = h.monWait := rfl
@[simp] theorem Hw.onQuay_lineMeta (h : Hw) (q : Nat) (f : Quay → Quay) : (h.onQuay q f).lineMeta = h.lineMeta := rfl
@[simp] theorem Hw.onQuay_errs (h : Hw) (q : Nat) (f : Quay → Quay) : (h.onQuay q f).errs = h.errs := rfl
@[simp] theorem Hw.onQuay_pagecnt (h : Hw) (q : Nat) (f : Quay → Quay) : (h.onQuay q f).pagecnt = h.pagecnt := rfl
@[simp] theorem Hw.onQuay_slices (h : Hw) (q : Nat) (f : Quay → Quay) : (h.onQuay q f).slices = h.slices := rfl
@[simp] theorem Hw.onQuay_launches (h : Hw) (q : Nat) (f : Quay → Quay) : (h.onQuay q f).launches = h.launches := rfl
@[simp] theorem Hw.onQuay_rounds (h : Hw) (q : Nat) (f : Quay → Quay) : (h.onQuay q f).rounds = h.rounds := rfl
@[simp] theorem Hw.onQuay_closed (h : Hw) (q : Nat) (f : Quay → Quay) : (h.onQuay q f).closed = h.closed := rfl
@[simp] theorem Hw.onQuay_holds (h : Hw) (q : Nat) (f : Quay → Quay) : (h.onQuay q f).holds = h.holds := rfl
@[simp] theorem Hw.onQuay_queues (h : Hw) (q : Nat) (f : Quay → Quay) : (h.onQuay q f).queues = h.queues := rfl
@[simp] theorem Hw.onQuay_refines (h : Hw) (q : Nat) (f : Quay → Quay) : (h.onQuay q f).refines = h.refines := rfl
@[simp] theorem Hw.onQuay_ports (h : Hw) (q : Nat) (f : Quay → Quay) : (h.onQuay q f).ports = h.ports := rfl
@[simp] theorem Hw.onQuay_origin (h : Hw) (q : Nat) (f : Quay → Quay) : (h.onQuay q f).origin = h.origin := rfl
@[simp] theorem Hw.onQuay_xseqs (h : Hw) (q : Nat) (f : Quay → Quay) : (h.onQuay q f).xseqs = h.xseqs := rfl
@[simp] theorem Hw.onQuay_xreqs (h : Hw) (q : Nat) (f : Quay → Quay) : (h.onQuay q f).xreqs = h.xreqs := rfl
@[simp] theorem Hw.onQuay_flitsIn (h : Hw) (q : Nat) (f : Quay → Quay) : (h.onQuay q f).flitsIn = h.flitsIn := rfl
@[simp] theorem Hw.onQuay_applied (h : Hw) (q : Nat) (f : Quay → Quay) : (h.onQuay q f).applied = h.applied := rfl
@[simp] theorem Hw.onQuay_win (h : Hw) (q : Nat) (f : Quay → Quay) : (h.onQuay q f).win = h.win := rfl
@[simp] theorem Hw.onQuay_notices (h : Hw) (q : Nat) (f : Quay → Quay) : (h.onQuay q f).notices = h.notices := rfl
@[simp] theorem Hw.onQuay_noticesSeen (h : Hw) (q : Nat) (f : Quay → Quay) : (h.onQuay q f).noticesSeen = h.noticesSeen := rfl
@[simp] theorem Hw.onQuay_cwFull (h : Hw) (q : Nat) (f : Quay → Quay) : (h.onQuay q f).cwFull = h.cwFull := rfl
@[simp] theorem Hw.onQuay_detours (h : Hw) (q : Nat) (f : Quay → Quay) : (h.onQuay q f).detours = h.detours := rfl
@[simp] theorem Hw.onQuay_sqPorts (h : Hw) (q : Nat) (f : Quay → Quay) : (h.onQuay q f).sqPorts = h.sqPorts := rfl
@[simp] theorem Hw.onQuay_pathPend (h : Hw) (q : Nat) (f : Quay → Quay) : (h.onQuay q f).pathPend = h.pathPend := rfl
@[simp] theorem Hw.onQuay_lidRegs (h : Hw) (q : Nat) (f : Quay → Quay) : (h.onQuay q f).lidRegs = h.lidRegs := rfl
@[simp] theorem Hw.onQuay_cfg (h : Hw) (q : Nat) (f : Quay → Quay) : (h.onQuay q f).cfg = h.cfg := rfl
@[simp] theorem Hw.onQuay_boot (h : Hw) (q : Nat) (f : Quay → Quay) : (h.onQuay q f).boot = h.boot := rfl
@[simp] theorem Hw.onQuay_mem (h : Hw) (q : Nat) (f : Quay → Quay) : (h.onQuay q f).mem = h.mem := rfl
@[simp] theorem Hw.onQuay_tags (h : Hw) (q : Nat) (f : Quay → Quay) : (h.onQuay q f).tags = h.tags := rfl
@[simp] theorem Hw.onQuay_full (h : Hw) (q : Nat) (f : Quay → Quay) : (h.onQuay q f).full = h.full := rfl
@[simp] theorem Hw.onQuay_pmark (h : Hw) (q : Nat) (f : Quay → Quay) : (h.onQuay q f).pmark = h.pmark := rfl
@[simp] theorem Hw.onQuay_dirty (h : Hw) (q : Nat) (f : Quay → Quay) : (h.onQuay q f).dirty = h.dirty := rfl
@[simp] theorem Hw.onQuay_cellErrs (h : Hw) (q : Nat) (f : Quay → Quay) : (h.onQuay q f).cellErrs = h.cellErrs := rfl
@[simp] theorem Hw.onQuay_stall (h : Hw) (q : Nat) (f : Quay → Quay) : (h.onQuay q f).stall = h.stall := rfl
@[simp] theorem Hw.onQuay_tick (h : Hw) (q : Nat) (f : Quay → Quay) : (h.onQuay q f).tick = h.tick := rfl

/-! ### onRing -/

@[simp] theorem Hw.onRing_cores (h : Hw) (site ring : Nat) (f : Ring → Ring) : (h.onRing site ring f).cores = h.cores := rfl
@[simp] theorem Hw.onRing_arrs (h : Hw) (site ring : Nat) (f : Ring → Ring) : (h.onRing site ring f).arrs = h.arrs := rfl
@[simp] theorem Hw.onRing_isles (h : Hw) (site ring : Nat) (f : Ring → Ring) : (h.onRing site ring f).isles = h.isles := rfl
@[simp] theorem Hw.onRing_streams (h : Hw) (site ring : Nat) (f : Ring → Ring) : (h.onRing site ring f).streams = h.streams := rfl
@[simp] theorem Hw.onRing_monitors (h : Hw) (site ring : Nat) (f : Ring → Ring) : (h.onRing site ring f).monitors = h.monitors := rfl
@[simp] theorem Hw.onRing_monWait (h : Hw) (site ring : Nat) (f : Ring → Ring) : (h.onRing site ring f).monWait = h.monWait := rfl
@[simp] theorem Hw.onRing_lineMeta (h : Hw) (site ring : Nat) (f : Ring → Ring) : (h.onRing site ring f).lineMeta = h.lineMeta := rfl
@[simp] theorem Hw.onRing_errs (h : Hw) (site ring : Nat) (f : Ring → Ring) : (h.onRing site ring f).errs = h.errs := rfl
@[simp] theorem Hw.onRing_pagecnt (h : Hw) (site ring : Nat) (f : Ring → Ring) : (h.onRing site ring f).pagecnt = h.pagecnt := rfl
@[simp] theorem Hw.onRing_slices (h : Hw) (site ring : Nat) (f : Ring → Ring) : (h.onRing site ring f).slices = h.slices := rfl
@[simp] theorem Hw.onRing_launches (h : Hw) (site ring : Nat) (f : Ring → Ring) : (h.onRing site ring f).launches = h.launches := rfl
@[simp] theorem Hw.onRing_rounds (h : Hw) (site ring : Nat) (f : Ring → Ring) : (h.onRing site ring f).rounds = h.rounds := rfl
@[simp] theorem Hw.onRing_closed (h : Hw) (site ring : Nat) (f : Ring → Ring) : (h.onRing site ring f).closed = h.closed := rfl
@[simp] theorem Hw.onRing_holds (h : Hw) (site ring : Nat) (f : Ring → Ring) : (h.onRing site ring f).holds = h.holds := rfl
@[simp] theorem Hw.onRing_quays (h : Hw) (site ring : Nat) (f : Ring → Ring) : (h.onRing site ring f).quays = h.quays := rfl
@[simp] theorem Hw.onRing_queues (h : Hw) (site ring : Nat) (f : Ring → Ring) : (h.onRing site ring f).queues = h.queues := rfl
@[simp] theorem Hw.onRing_refines (h : Hw) (site ring : Nat) (f : Ring → Ring) : (h.onRing site ring f).refines = h.refines := rfl
@[simp] theorem Hw.onRing_ports (h : Hw) (site ring : Nat) (f : Ring → Ring) : (h.onRing site ring f).ports = h.ports := rfl
@[simp] theorem Hw.onRing_origin (h : Hw) (site ring : Nat) (f : Ring → Ring) : (h.onRing site ring f).origin = h.origin := rfl
@[simp] theorem Hw.onRing_xseqs (h : Hw) (site ring : Nat) (f : Ring → Ring) : (h.onRing site ring f).xseqs = h.xseqs := rfl
@[simp] theorem Hw.onRing_xreqs (h : Hw) (site ring : Nat) (f : Ring → Ring) : (h.onRing site ring f).xreqs = h.xreqs := rfl
@[simp] theorem Hw.onRing_flitsIn (h : Hw) (site ring : Nat) (f : Ring → Ring) : (h.onRing site ring f).flitsIn = h.flitsIn := rfl
@[simp] theorem Hw.onRing_applied (h : Hw) (site ring : Nat) (f : Ring → Ring) : (h.onRing site ring f).applied = h.applied := rfl
@[simp] theorem Hw.onRing_win (h : Hw) (site ring : Nat) (f : Ring → Ring) : (h.onRing site ring f).win = h.win := rfl
@[simp] theorem Hw.onRing_notices (h : Hw) (site ring : Nat) (f : Ring → Ring) : (h.onRing site ring f).notices = h.notices := rfl
@[simp] theorem Hw.onRing_noticesSeen (h : Hw) (site ring : Nat) (f : Ring → Ring) : (h.onRing site ring f).noticesSeen = h.noticesSeen := rfl
@[simp] theorem Hw.onRing_cwFull (h : Hw) (site ring : Nat) (f : Ring → Ring) : (h.onRing site ring f).cwFull = h.cwFull := rfl
@[simp] theorem Hw.onRing_detours (h : Hw) (site ring : Nat) (f : Ring → Ring) : (h.onRing site ring f).detours = h.detours := rfl
@[simp] theorem Hw.onRing_sqPorts (h : Hw) (site ring : Nat) (f : Ring → Ring) : (h.onRing site ring f).sqPorts = h.sqPorts := rfl
@[simp] theorem Hw.onRing_pathPend (h : Hw) (site ring : Nat) (f : Ring → Ring) : (h.onRing site ring f).pathPend = h.pathPend := rfl
@[simp] theorem Hw.onRing_lidRegs (h : Hw) (site ring : Nat) (f : Ring → Ring) : (h.onRing site ring f).lidRegs = h.lidRegs := rfl
@[simp] theorem Hw.onRing_cfg (h : Hw) (site ring : Nat) (f : Ring → Ring) : (h.onRing site ring f).cfg = h.cfg := rfl
@[simp] theorem Hw.onRing_boot (h : Hw) (site ring : Nat) (f : Ring → Ring) : (h.onRing site ring f).boot = h.boot := rfl
@[simp] theorem Hw.onRing_mem (h : Hw) (site ring : Nat) (f : Ring → Ring) : (h.onRing site ring f).mem = h.mem := rfl
@[simp] theorem Hw.onRing_tags (h : Hw) (site ring : Nat) (f : Ring → Ring) : (h.onRing site ring f).tags = h.tags := rfl
@[simp] theorem Hw.onRing_full (h : Hw) (site ring : Nat) (f : Ring → Ring) : (h.onRing site ring f).full = h.full := rfl
@[simp] theorem Hw.onRing_pmark (h : Hw) (site ring : Nat) (f : Ring → Ring) : (h.onRing site ring f).pmark = h.pmark := rfl
@[simp] theorem Hw.onRing_dirty (h : Hw) (site ring : Nat) (f : Ring → Ring) : (h.onRing site ring f).dirty = h.dirty := rfl
@[simp] theorem Hw.onRing_cellErrs (h : Hw) (site ring : Nat) (f : Ring → Ring) : (h.onRing site ring f).cellErrs = h.cellErrs := rfl
@[simp] theorem Hw.onRing_stall (h : Hw) (site ring : Nat) (f : Ring → Ring) : (h.onRing site ring f).stall = h.stall := rfl
@[simp] theorem Hw.onRing_tick (h : Hw) (site ring : Nat) (f : Ring → Ring) : (h.onRing site ring f).tick = h.tick := rfl

/-! ### onLine -/

@[simp] theorem Hw.onLine_cores (h : Hw) (pa : Nat) (f : LineMeta → LineMeta) : (h.onLine pa f).cores = h.cores := rfl
@[simp] theorem Hw.onLine_arrs (h : Hw) (pa : Nat) (f : LineMeta → LineMeta) : (h.onLine pa f).arrs = h.arrs := rfl
@[simp] theorem Hw.onLine_isles (h : Hw) (pa : Nat) (f : LineMeta → LineMeta) : (h.onLine pa f).isles = h.isles := rfl
@[simp] theorem Hw.onLine_rings (h : Hw) (pa : Nat) (f : LineMeta → LineMeta) : (h.onLine pa f).rings = h.rings := rfl
@[simp] theorem Hw.onLine_streams (h : Hw) (pa : Nat) (f : LineMeta → LineMeta) : (h.onLine pa f).streams = h.streams := rfl
@[simp] theorem Hw.onLine_monitors (h : Hw) (pa : Nat) (f : LineMeta → LineMeta) : (h.onLine pa f).monitors = h.monitors := rfl
@[simp] theorem Hw.onLine_monWait (h : Hw) (pa : Nat) (f : LineMeta → LineMeta) : (h.onLine pa f).monWait = h.monWait := rfl
@[simp] theorem Hw.onLine_errs (h : Hw) (pa : Nat) (f : LineMeta → LineMeta) : (h.onLine pa f).errs = h.errs := rfl
@[simp] theorem Hw.onLine_pagecnt (h : Hw) (pa : Nat) (f : LineMeta → LineMeta) : (h.onLine pa f).pagecnt = h.pagecnt := rfl
@[simp] theorem Hw.onLine_slices (h : Hw) (pa : Nat) (f : LineMeta → LineMeta) : (h.onLine pa f).slices = h.slices := rfl
@[simp] theorem Hw.onLine_launches (h : Hw) (pa : Nat) (f : LineMeta → LineMeta) : (h.onLine pa f).launches = h.launches := rfl
@[simp] theorem Hw.onLine_rounds (h : Hw) (pa : Nat) (f : LineMeta → LineMeta) : (h.onLine pa f).rounds = h.rounds := rfl
@[simp] theorem Hw.onLine_closed (h : Hw) (pa : Nat) (f : LineMeta → LineMeta) : (h.onLine pa f).closed = h.closed := rfl
@[simp] theorem Hw.onLine_holds (h : Hw) (pa : Nat) (f : LineMeta → LineMeta) : (h.onLine pa f).holds = h.holds := rfl
@[simp] theorem Hw.onLine_quays (h : Hw) (pa : Nat) (f : LineMeta → LineMeta) : (h.onLine pa f).quays = h.quays := rfl
@[simp] theorem Hw.onLine_queues (h : Hw) (pa : Nat) (f : LineMeta → LineMeta) : (h.onLine pa f).queues = h.queues := rfl
@[simp] theorem Hw.onLine_refines (h : Hw) (pa : Nat) (f : LineMeta → LineMeta) : (h.onLine pa f).refines = h.refines := rfl
@[simp] theorem Hw.onLine_ports (h : Hw) (pa : Nat) (f : LineMeta → LineMeta) : (h.onLine pa f).ports = h.ports := rfl
@[simp] theorem Hw.onLine_origin (h : Hw) (pa : Nat) (f : LineMeta → LineMeta) : (h.onLine pa f).origin = h.origin := rfl
@[simp] theorem Hw.onLine_xseqs (h : Hw) (pa : Nat) (f : LineMeta → LineMeta) : (h.onLine pa f).xseqs = h.xseqs := rfl
@[simp] theorem Hw.onLine_xreqs (h : Hw) (pa : Nat) (f : LineMeta → LineMeta) : (h.onLine pa f).xreqs = h.xreqs := rfl
@[simp] theorem Hw.onLine_flitsIn (h : Hw) (pa : Nat) (f : LineMeta → LineMeta) : (h.onLine pa f).flitsIn = h.flitsIn := rfl
@[simp] theorem Hw.onLine_applied (h : Hw) (pa : Nat) (f : LineMeta → LineMeta) : (h.onLine pa f).applied = h.applied := rfl
@[simp] theorem Hw.onLine_win (h : Hw) (pa : Nat) (f : LineMeta → LineMeta) : (h.onLine pa f).win = h.win := rfl
@[simp] theorem Hw.onLine_notices (h : Hw) (pa : Nat) (f : LineMeta → LineMeta) : (h.onLine pa f).notices = h.notices := rfl
@[simp] theorem Hw.onLine_noticesSeen (h : Hw) (pa : Nat) (f : LineMeta → LineMeta) : (h.onLine pa f).noticesSeen = h.noticesSeen := rfl
@[simp] theorem Hw.onLine_cwFull (h : Hw) (pa : Nat) (f : LineMeta → LineMeta) : (h.onLine pa f).cwFull = h.cwFull := rfl
@[simp] theorem Hw.onLine_detours (h : Hw) (pa : Nat) (f : LineMeta → LineMeta) : (h.onLine pa f).detours = h.detours := rfl
@[simp] theorem Hw.onLine_sqPorts (h : Hw) (pa : Nat) (f : LineMeta → LineMeta) : (h.onLine pa f).sqPorts = h.sqPorts := rfl
@[simp] theorem Hw.onLine_pathPend (h : Hw) (pa : Nat) (f : LineMeta → LineMeta) : (h.onLine pa f).pathPend = h.pathPend := rfl
@[simp] theorem Hw.onLine_lidRegs (h : Hw) (pa : Nat) (f : LineMeta → LineMeta) : (h.onLine pa f).lidRegs = h.lidRegs := rfl
@[simp] theorem Hw.onLine_cfg (h : Hw) (pa : Nat) (f : LineMeta → LineMeta) : (h.onLine pa f).cfg = h.cfg := rfl
@[simp] theorem Hw.onLine_boot (h : Hw) (pa : Nat) (f : LineMeta → LineMeta) : (h.onLine pa f).boot = h.boot := rfl
@[simp] theorem Hw.onLine_mem (h : Hw) (pa : Nat) (f : LineMeta → LineMeta) : (h.onLine pa f).mem = h.mem := rfl
@[simp] theorem Hw.onLine_tags (h : Hw) (pa : Nat) (f : LineMeta → LineMeta) : (h.onLine pa f).tags = h.tags := rfl
@[simp] theorem Hw.onLine_full (h : Hw) (pa : Nat) (f : LineMeta → LineMeta) : (h.onLine pa f).full = h.full := rfl
@[simp] theorem Hw.onLine_pmark (h : Hw) (pa : Nat) (f : LineMeta → LineMeta) : (h.onLine pa f).pmark = h.pmark := rfl
@[simp] theorem Hw.onLine_dirty (h : Hw) (pa : Nat) (f : LineMeta → LineMeta) : (h.onLine pa f).dirty = h.dirty := rfl
@[simp] theorem Hw.onLine_cellErrs (h : Hw) (pa : Nat) (f : LineMeta → LineMeta) : (h.onLine pa f).cellErrs = h.cellErrs := rfl
@[simp] theorem Hw.onLine_stall (h : Hw) (pa : Nat) (f : LineMeta → LineMeta) : (h.onLine pa f).stall = h.stall := rfl
@[simp] theorem Hw.onLine_tick (h : Hw) (pa : Nat) (f : LineMeta → LineMeta) : (h.onLine pa f).tick = h.tick := rfl

/-! ### onPage -/

@[simp] theorem Hw.onPage_cores (h : Hw) (pa : Nat) (f : PageCnt → PageCnt) : (h.onPage pa f).cores = h.cores := rfl
@[simp] theorem Hw.onPage_arrs (h : Hw) (pa : Nat) (f : PageCnt → PageCnt) : (h.onPage pa f).arrs = h.arrs := rfl
@[simp] theorem Hw.onPage_isles (h : Hw) (pa : Nat) (f : PageCnt → PageCnt) : (h.onPage pa f).isles = h.isles := rfl
@[simp] theorem Hw.onPage_rings (h : Hw) (pa : Nat) (f : PageCnt → PageCnt) : (h.onPage pa f).rings = h.rings := rfl
@[simp] theorem Hw.onPage_streams (h : Hw) (pa : Nat) (f : PageCnt → PageCnt) : (h.onPage pa f).streams = h.streams := rfl
@[simp] theorem Hw.onPage_monitors (h : Hw) (pa : Nat) (f : PageCnt → PageCnt) : (h.onPage pa f).monitors = h.monitors := rfl
@[simp] theorem Hw.onPage_monWait (h : Hw) (pa : Nat) (f : PageCnt → PageCnt) : (h.onPage pa f).monWait = h.monWait := rfl
@[simp] theorem Hw.onPage_lineMeta (h : Hw) (pa : Nat) (f : PageCnt → PageCnt) : (h.onPage pa f).lineMeta = h.lineMeta := rfl
@[simp] theorem Hw.onPage_errs (h : Hw) (pa : Nat) (f : PageCnt → PageCnt) : (h.onPage pa f).errs = h.errs := rfl
@[simp] theorem Hw.onPage_slices (h : Hw) (pa : Nat) (f : PageCnt → PageCnt) : (h.onPage pa f).slices = h.slices := rfl
@[simp] theorem Hw.onPage_launches (h : Hw) (pa : Nat) (f : PageCnt → PageCnt) : (h.onPage pa f).launches = h.launches := rfl
@[simp] theorem Hw.onPage_rounds (h : Hw) (pa : Nat) (f : PageCnt → PageCnt) : (h.onPage pa f).rounds = h.rounds := rfl
@[simp] theorem Hw.onPage_closed (h : Hw) (pa : Nat) (f : PageCnt → PageCnt) : (h.onPage pa f).closed = h.closed := rfl
@[simp] theorem Hw.onPage_holds (h : Hw) (pa : Nat) (f : PageCnt → PageCnt) : (h.onPage pa f).holds = h.holds := rfl
@[simp] theorem Hw.onPage_quays (h : Hw) (pa : Nat) (f : PageCnt → PageCnt) : (h.onPage pa f).quays = h.quays := rfl
@[simp] theorem Hw.onPage_queues (h : Hw) (pa : Nat) (f : PageCnt → PageCnt) : (h.onPage pa f).queues = h.queues := rfl
@[simp] theorem Hw.onPage_refines (h : Hw) (pa : Nat) (f : PageCnt → PageCnt) : (h.onPage pa f).refines = h.refines := rfl
@[simp] theorem Hw.onPage_ports (h : Hw) (pa : Nat) (f : PageCnt → PageCnt) : (h.onPage pa f).ports = h.ports := rfl
@[simp] theorem Hw.onPage_origin (h : Hw) (pa : Nat) (f : PageCnt → PageCnt) : (h.onPage pa f).origin = h.origin := rfl
@[simp] theorem Hw.onPage_xseqs (h : Hw) (pa : Nat) (f : PageCnt → PageCnt) : (h.onPage pa f).xseqs = h.xseqs := rfl
@[simp] theorem Hw.onPage_xreqs (h : Hw) (pa : Nat) (f : PageCnt → PageCnt) : (h.onPage pa f).xreqs = h.xreqs := rfl
@[simp] theorem Hw.onPage_flitsIn (h : Hw) (pa : Nat) (f : PageCnt → PageCnt) : (h.onPage pa f).flitsIn = h.flitsIn := rfl
@[simp] theorem Hw.onPage_applied (h : Hw) (pa : Nat) (f : PageCnt → PageCnt) : (h.onPage pa f).applied = h.applied := rfl
@[simp] theorem Hw.onPage_win (h : Hw) (pa : Nat) (f : PageCnt → PageCnt) : (h.onPage pa f).win = h.win := rfl
@[simp] theorem Hw.onPage_notices (h : Hw) (pa : Nat) (f : PageCnt → PageCnt) : (h.onPage pa f).notices = h.notices := rfl
@[simp] theorem Hw.onPage_noticesSeen (h : Hw) (pa : Nat) (f : PageCnt → PageCnt) : (h.onPage pa f).noticesSeen = h.noticesSeen := rfl
@[simp] theorem Hw.onPage_cwFull (h : Hw) (pa : Nat) (f : PageCnt → PageCnt) : (h.onPage pa f).cwFull = h.cwFull := rfl
@[simp] theorem Hw.onPage_detours (h : Hw) (pa : Nat) (f : PageCnt → PageCnt) : (h.onPage pa f).detours = h.detours := rfl
@[simp] theorem Hw.onPage_sqPorts (h : Hw) (pa : Nat) (f : PageCnt → PageCnt) : (h.onPage pa f).sqPorts = h.sqPorts := rfl
@[simp] theorem Hw.onPage_pathPend (h : Hw) (pa : Nat) (f : PageCnt → PageCnt) : (h.onPage pa f).pathPend = h.pathPend := rfl
@[simp] theorem Hw.onPage_lidRegs (h : Hw) (pa : Nat) (f : PageCnt → PageCnt) : (h.onPage pa f).lidRegs = h.lidRegs := rfl
@[simp] theorem Hw.onPage_cfg (h : Hw) (pa : Nat) (f : PageCnt → PageCnt) : (h.onPage pa f).cfg = h.cfg := rfl
@[simp] theorem Hw.onPage_boot (h : Hw) (pa : Nat) (f : PageCnt → PageCnt) : (h.onPage pa f).boot = h.boot := rfl
@[simp] theorem Hw.onPage_mem (h : Hw) (pa : Nat) (f : PageCnt → PageCnt) : (h.onPage pa f).mem = h.mem := rfl
@[simp] theorem Hw.onPage_tags (h : Hw) (pa : Nat) (f : PageCnt → PageCnt) : (h.onPage pa f).tags = h.tags := rfl
@[simp] theorem Hw.onPage_full (h : Hw) (pa : Nat) (f : PageCnt → PageCnt) : (h.onPage pa f).full = h.full := rfl
@[simp] theorem Hw.onPage_pmark (h : Hw) (pa : Nat) (f : PageCnt → PageCnt) : (h.onPage pa f).pmark = h.pmark := rfl
@[simp] theorem Hw.onPage_dirty (h : Hw) (pa : Nat) (f : PageCnt → PageCnt) : (h.onPage pa f).dirty = h.dirty := rfl
@[simp] theorem Hw.onPage_cellErrs (h : Hw) (pa : Nat) (f : PageCnt → PageCnt) : (h.onPage pa f).cellErrs = h.cellErrs := rfl
@[simp] theorem Hw.onPage_stall (h : Hw) (pa : Nat) (f : PageCnt → PageCnt) : (h.onPage pa f).stall = h.stall := rfl
@[simp] theorem Hw.onPage_tick (h : Hw) (pa : Nat) (f : PageCnt → PageCnt) : (h.onPage pa f).tick = h.tick := rfl

/-! ### What was put is read -/

@[simp] theorem Hw.core_setCore (h : Hw) (co : CoreId) (k : Core) : (h.setCore co k).core co = k := tabGet_put_same _ _ _ _
@[simp] theorem Hw.arr_setArr (h : Hw) (isle ins : Nat) (a : Arr) : (h.setArr isle ins a).arr isle ins = a :=
  tabGet_put_same _ _ _ _
@[simp] theorem Hw.isle_setIsle (h : Hw) (i : Nat) (x : Isle) : (h.setIsle i x).isle i = x := tabGet_put_same _ _ _ _
@[simp] theorem Hw.queue_setQueue (h : Hw) (q : Nat) (x : HQueue) : (h.setQueue q x).queue q = x := tabGet_put_same _ _ _ _
@[simp] theorem Hw.core_onCore (h : Hw) (co : CoreId) (f : Core → Core) : (h.onCore co f).core co = f (h.core co) :=
  tabGet_put_same _ _ _ _
@[simp] theorem Hw.arr_onArr (h : Hw) (isle ins : Nat) (f : Arr → Arr) : (h.onArr isle ins f).arr isle ins = f (h.arr isle ins) :=
  tabGet_put_same _ _ _ _
@[simp] theorem Hw.isle_onIsle (h : Hw) (i : Nat) (f : Isle → Isle) : (h.onIsle i f).isle i = f (h.isle i) :=
  tabGet_put_same _ _ _ _
@[simp] theorem Hw.slice_onSlice (h : Hw) (site slice : Nat) (f : Slice → Slice) :
    (h.onSlice site slice f).slice site slice = f (h.slice site slice) := tabGet_put_same _ _ _ _

/-- Another core is as it was. -/
theorem Hw.core_setCore_other (h : Hw) {co cp : CoreId} (k : Core) (d : CoreId.key cp ≠ CoreId.key co) :
    (h.setCore co k).core cp = h.core cp := tabGet_put_other _ _ d _

/-! ### A core's engines -/

@[simp] theorem Core.eng_setEng (k : Core) (e : EngId) (x : Eng) : (k.setEng e x).eng e = x := by cases e <;> rfl
theorem Core.eng_setEng_other (k : Core) {e e' : EngId} (x : Eng) (h : e' ≠ e) : (k.setEng e x).eng e' = k.eng e' := by
  cases e <;> cases e' <;> first | rfl | exact absurd rfl h
@[simp] theorem Core.setEng_cu (k : Core) (e : EngId) (x : Eng) : (k.setEng e x).cu = k.cu := by cases e <;> rfl
@[simp] theorem Core.setEng_xq (k : Core) (e : EngId) (x : Eng) : (k.setEng e x).xq = k.xq := by cases e <;> rfl
@[simp] theorem Core.setEng_yq (k : Core) (e : EngId) (x : Eng) : (k.setEng e x).yq = k.yq := by cases e <;> rfl
@[simp] theorem Core.setEng_bq (k : Core) (e : EngId) (x : Eng) : (k.setEng e x).bq = k.bq := by cases e <;> rfl
@[simp] theorem Core.setEng_tok (k : Core) (e : EngId) (x : Eng) : (k.setEng e x).tok = k.tok := by cases e <;> rfl
@[simp] theorem Core.setEng_tokLog (k : Core) (e : EngId) (x : Eng) : (k.setEng e x).tokLog = k.tokLog := by cases e <;> rfl
@[simp] theorem Core.setEng_nextid (k : Core) (e : EngId) (x : Eng) : (k.setEng e x).nextid = k.nextid := by cases e <;> rfl
@[simp] theorem Core.setEng_bind (k : Core) (e : EngId) (x : Eng) : (k.setEng e x).bind = k.bind := by cases e <;> rfl
@[simp] theorem Core.setEng_cmds (k : Core) (e : EngId) (x : Eng) : (k.setEng e x).cmds = k.cmds := by cases e <;> rfl
@[simp] theorem Core.setEng_uid (k : Core) (e : EngId) (x : Eng) : (k.setEng e x).uid = k.uid := by cases e <;> rfl
@[simp] theorem Core.setEng_lhalt (k : Core) (e : EngId) (x : Eng) : (k.setEng e x).lhalt = k.lhalt := by cases e <;> rfl
@[simp] theorem Core.setEng_shalt (k : Core) (e : EngId) (x : Eng) : (k.setEng e x).shalt = k.shalt := by cases e <;> rfl
@[simp] theorem Core.setEng_slots (k : Core) (e : EngId) (x : Eng) : (k.setEng e x).slots = k.slots := by cases e <;> rfl
@[simp] theorem Core.setEng_landOrd (k : Core) (e : EngId) (x : Eng) : (k.setEng e x).landOrd = k.landOrd := by cases e <;> rfl
@[simp] theorem Core.setEng_late (k : Core) (e : EngId) (x : Eng) : (k.setEng e x).late = k.late := by cases e <;> rfl
@[simp] theorem Core.setEng_frozen (k : Core) (e : EngId) (x : Eng) : (k.setEng e x).frozen = k.frozen := by cases e <;> rfl
@[simp] theorem Core.setEng_cyc (k : Core) (e : EngId) (x : Eng) : (k.setEng e x).cyc = k.cyc := by cases e <;> rfl
@[simp] theorem Core.setEng_stopped (k : Core) (e : EngId) (x : Eng) : (k.setEng e x).stopped = k.stopped := by cases e <;> rfl
@[simp] theorem Core.setEng_stopOpen (k : Core) (e : EngId) (x : Eng) : (k.setEng e x).stopOpen = k.stopOpen := by cases e <;> rfl
@[simp] theorem Core.setEng_held (k : Core) (e : EngId) (x : Eng) : (k.setEng e x).held = k.held := by cases e <;> rfl
@[simp] theorem Core.setEng_nrec (k : Core) (e : EngId) (x : Eng) : (k.setEng e x).nrec = k.nrec := by cases e <;> rfl
@[simp] theorem Core.setEng_unrep (k : Core) (e : EngId) (x : Eng) : (k.setEng e x).unrep = k.unrep := by cases e <;> rfl
@[simp] theorem Core.setEng_fatal (k : Core) (e : EngId) (x : Eng) : (k.setEng e x).fatal = k.fatal := by cases e <;> rfl
@[simp] theorem Core.setEng_taken (k : Core) (e : EngId) (x : Eng) : (k.setEng e x).taken = k.taken := by cases e <;> rfl
@[simp] theorem Core.setEng_leaseRuns (k : Core) (e : EngId) (x : Eng) : (k.setEng e x).leaseRuns = k.leaseRuns := by cases e <;> rfl
@[simp] theorem Core.setEng_leaseHeld (k : Core) (e : EngId) (x : Eng) : (k.setEng e x).leaseHeld = k.leaseHeld := by cases e <;> rfl
@[simp] theorem Core.setEng_leaseLeft (k : Core) (e : EngId) (x : Eng) : (k.setEng e x).leaseLeft = k.leaseLeft := by cases e <;> rfl
@[simp] theorem Core.setEng_tbdir (k : Core) (e : EngId) (x : Eng) : (k.setEng e x).tbdir = k.tbdir := by cases e <;> rfl
@[simp] theorem Core.setEng_dirtyDir (k : Core) (e : EngId) (x : Eng) : (k.setEng e x).dirtyDir = k.dirtyDir := by cases e <;> rfl
@[simp] theorem Core.setEng_allDirty (k : Core) (e : EngId) (x : Eng) : (k.setEng e x).allDirty = k.allDirty := by cases e <;> rfl
@[simp] theorem Core.setEng_ph (k : Core) (e : EngId) (x : Eng) : (k.setEng e x).ph = k.ph := by cases e <;> rfl
@[simp] theorem Core.setEng_queue (k : Core) (e : EngId) (x : Eng) : (k.setEng e x).queue = k.queue := by cases e <;> rfl
@[simp] theorem Core.setEng_task (k : Core) (e : EngId) (x : Eng) : (k.setEng e x).task = k.task := by cases e <;> rfl
@[simp] theorem Core.setEng_prepFor (k : Core) (e : EngId) (x : Eng) : (k.setEng e x).prepFor = k.prepFor := by cases e <;> rfl
@[simp] theorem Core.setEng_used (k : Core) (e : EngId) (x : Eng) : (k.setEng e x).used = k.used := by cases e <;> rfl
@[simp] theorem Core.setEng_recs (k : Core) (e : EngId) (x : Eng) : (k.setEng e x).recs = k.recs := by cases e <;> rfl
@[simp] theorem Core.setEng_gone (k : Core) (e : EngId) (x : Eng) : (k.setEng e x).gone = k.gone := by cases e <;> rfl

/-! ### The state -/

@[simp] theorem State.upd_toHw (s : State) (f : Hw → Hw) : (s.upd f).toHw = f s.toHw := rfl
@[simp] theorem State.upd_agenda (s : State) (f : Hw → Hw) : (s.upd f).agenda = s.agenda := rfl
@[simp] theorem State.upd_choice (s : State) (f : Hw → Hw) : (s.upd f).choice = s.choice := rfl
@[simp] theorem State.upd_ix (s : State) (f : Hw → Hw) : (s.upd f).ix = s.ix := rfl
@[simp] theorem State.here_onHere (s : State) (f : Core → Core) : (s.onHere f).here = f s.here := by
  simp [State.here, State.onHere, State.upd]
@[simp] theorem State.onHere_ix (s : State) (f : Core → Core) : (s.onHere f).ix = s.ix := rfl
@[simp] theorem State.onHere_agenda (s : State) (f : Core → Core) : (s.onHere f).agenda = s.agenda := rfl
@[simp] theorem State.onHere_mem (s : State) (f : Core → Core) : (s.onHere f).mem = s.mem := rfl
@[simp] theorem State.me_onMe (s : State) (f : Eng → Eng) : (s.onMe f).me = f s.me := by
  simp [State.me, State.onMe]
@[simp] theorem State.onMe_ix (s : State) (f : Eng → Eng) : (s.onMe f).ix = s.ix := rfl
@[simp] theorem State.onMe_agenda (s : State) (f : Eng → Eng) : (s.onMe f).agenda = s.agenda := rfl
@[simp] theorem State.onMe_mem (s : State) (f : Eng → Eng) : (s.onMe f).mem = s.mem := rfl

end Sys2Proof.Machine
end

