-- ==== Sys2Proof/Laws/Keep1.lean ====
section
/-! SUPPORT. Every operation and every meaning keeps memory in its canonical form (Ops, Operands, Scalar, VecArith, VecMove, Caps, LocalMem, Barriers, Domains, Commands, Control). -/

namespace Sys2Proof.Machine
set_option Elab.async false
set_option linter.all false

theorem foldl_ok {α : Type} {f : Hw → α → Hw} {l : List α} {h : Hw} (w : h.Ok) (hf : ∀ h a, Hw.Ok h → (f h a).Ok) : (l.foldl f h).Ok := by
  induction l generalizing h with
  | nil => exact w
  | cons a t ih => exact ih (hf h a w)

theorem foldl_pair_ok {α β : Type} {f : β × Hw → α → β × Hw} {l : List α} {x : β × Hw} (w : x.2.Ok)
    (hf : ∀ x a, x.2.Ok → (f x a).2.Ok) : (l.foldl f x).2.Ok := by
  induction l generalizing x with
  | nil => exact w
  | cons a t ih => exact ih (hf x a w)

/-- What an optional state holds is in canonical form. -/
def OptOk (x : Option Hw) : Prop := ∀ h, x = some h → h.Ok
def OutOk (x : Out) : Prop := ∀ t, x = .next t → t.Inv
def ChkOk (x : Chk State) : Prop := ∀ t, x = .ok t → t.Inv

theorem opt_none : OptOk none := fun _ e => nomatch e
theorem opt_some {h : Hw} (w : h.Ok) : OptOk (some h) := fun _ e => by cases e; exact w
theorem opt_bind {α : Type} {x : Option α} {f : α → Option Hw} (hf : ∀ a, OptOk (f a)) : OptOk (x.bind f) := by
  cases x with
  | none => exact opt_none
  | some a => exact hf a
theorem opt_map {α : Type} {x : Option α} {f : α → Hw} (hf : ∀ a, (f a).Ok) : OptOk (x.map f) := by
  cases x with
  | none => exact opt_none
  | some a => exact opt_some (hf a)
theorem opt_getD {x : Option Hw} {d : Hw} (hx : OptOk x) (hd : d.Ok) : (x.getD d).Ok := by
  cases x with
  | none => exact hd
  | some a => exact hx a rfl
theorem out_next {t : State} (w : t.Inv) : OutOk (.next t) := fun _ e => by cases e; exact w
theorem chk_ok {t : State} (w : t.Inv) : ChkOk (.ok t) := fun _ e => by cases e; exact w
theorem chk_err {e : Stop} : ChkOk (.error e) := fun _ x => nomatch x
theorem chk_bind {α : Type} {x : Chk α} {f : α → Chk State} (hf : ∀ a, ChkOk (f a)) : ChkOk (x >>= f) := by
  cases x with
  | error e => exact chk_err
  | ok a => exact hf a
theorem chk_bind_st {x : Chk State} {f : State → Chk State} (hx : ChkOk x) (hf : ∀ t : State, t.Inv → ChkOk (f t)) : ChkOk (x >>= f) := by
  cases x with
  | error e => exact chk_err
  | ok a => exact hf a (hx a rfl)

theorem chk_trap (code : Byte) (addr : Nat) (d : BitVec 256) : ChkOk (trapWith code addr d) := chk_err
/-- The state beside a value is in canonical form. -/
def PairOk {α : Type} (x : Chk (α × State)) : Prop := ∀ p, x = .ok p → p.2.Inv
theorem pair_err {α : Type} {e : Stop} : PairOk (α := α) (.error e) := fun _ x => nomatch x
theorem pair_trap {α : Type} (code : Byte) (addr : Nat) (d : BitVec 256) : PairOk (α := α) (trapWith code addr d) := pair_err
theorem pair_ok {α : Type} {a : α} {t : State} (w : t.Inv) : PairOk (.ok (a, t)) := fun _ e => by cases e; exact w
theorem chk_bind_pair {α : Type} {x : Chk (α × State)} {f : α × State → Chk State} (hx : PairOk x)
    (hf : ∀ p : α × State, p.2.Inv → ChkOk (f p)) : ChkOk (x >>= f) := by
  cases x with
  | error e => exact chk_err
  | ok a => exact hf a (hx a rfl)
/-- What an optional pair holds is in canonical form. -/
def OptOk2 {α : Type} (x : Option (α × Hw)) : Prop := ∀ a h, x = some (a, h) → h.Ok
theorem ok_of_some2 {α : Type} {x : Option (α × Hw)} {a : α} {h : Hw} (e : x = some (a, h)) (hx : OptOk2 x) : h.Ok := hx _ _ e
theorem opt2_none {α : Type} : OptOk2 (α := α) none := fun _ _ e => nomatch e
theorem opt2_some {α : Type} {a : α} {h : Hw} (w : h.Ok) : OptOk2 (some (a, h)) := fun _ _ e => by cases e; exact w
theorem opt2_map {α β : Type} {x : Option (α × Hw)} {f : α → β} (hx : OptOk2 x) : OptOk2 (x.map (fun r => (f r.1, r.2))) := by
  cases x with
  | none => exact opt2_none
  | some p => exact opt2_some (hx p.1 p.2 rfl)
theorem ok_of_some {x : Option Hw} {h : Hw} (e : x = some h) (hx : OptOk x) : h.Ok := hx _ e
theorem ok_of_pair {α : Type} {x : α × Hw} {a : α} {h : Hw} (e : x = (a, h)) (hx : x.2.Ok) : h.Ok := by subst e; exact hx

/-- What a register's write makes is in canonical form. -/
def RegOk (x : Option RegHere) : Prop := ∀ r, x = some r → ∀ v, (r.put v).Ok
theorem opt_mapH {x : Option Hw} {f : Hw → Hw} (hx : OptOk x) (hf : ∀ h, Hw.Ok h → (f h).Ok) : OptOk (x.map f) := by
  cases x with
  | none => exact opt_none
  | some a => exact opt_some (hf a (hx a rfl))
theorem reg_none : RegOk none := fun _ e => nomatch e
theorem reg_some {r : RegHere} (w : ∀ v, (r.put v).Ok) : RegOk (some r) := fun _ e => by cases e; exact w
theorem reg_map {α : Type} {x : Option α} {f : α → RegHere} (w : ∀ a v, ((f a).put v).Ok) : RegOk (x.map f) := by
  cases x with
  | none => exact reg_none
  | some a => exact reg_some (w a)
theorem reg_orElse {x : Option RegHere} {f : Unit → Option RegHere} (hx : RegOk x) (hf : ∀ u, RegOk (f u)) : RegOk (x.orElse f) := by
  cases x with
  | none => exact hf ()
  | some r => exact hx
theorem Hw.write_ok {h : Hw} (w : h.Ok) (k : Nat) (bs : List Byte) : (h.write k bs).Ok := Memory.wf_writeN bs k w

theorem Hw.putNum_ok {h : Hw} (hok : h.Ok) (k : Nat) (n : Nat) (v : Nat) : (Hw.putNum h k n v).Ok := by
  unfold Hw.putNum
  try dsimp only
  repeat' (first
    | with_reducible assumption
    | with_reducible apply Hw.write_ok)

theorem Hw.setFull_ok {h : Hw} (hok : h.Ok) (b : Bool) (k : Nat) : (Hw.setFull h b k).Ok := by
  unfold Hw.setFull
  try dsimp only
  repeat' with_reducible assumption

theorem Hw.setTag_ok {h : Hw} (hok : h.Ok) (b : Bool) (k : Nat) : (Hw.setTag h b k).Ok := by
  unfold Hw.setTag
  try dsimp only
  repeat' with_reducible assumption

theorem Hw.setMark_ok {h : Hw} (hok : h.Ok) (b : Bool) (k : Nat) : (Hw.setMark h b k).Ok := by
  unfold Hw.setMark
  try dsimp only
  repeat' with_reducible assumption

theorem Hw.setCore_ok {h : Hw} (hok : h.Ok) (co : CoreId) (k : Core) : (Hw.setCore h co k).Ok := by
  unfold Hw.setCore
  try dsimp only
  repeat' with_reducible assumption

theorem Hw.onCore_ok {h : Hw} (hok : h.Ok) (co : CoreId) (f : Core → Core) : (Hw.onCore h co f).Ok := by
  unfold Hw.onCore
  try dsimp only
  repeat' (first
    | with_reducible assumption
    | with_reducible apply Hw.setCore_ok)

theorem Hw.setArr_ok {h : Hw} (hok : h.Ok) (isle : Nat) (ins : Nat) (a : Arr) : (Hw.setArr h isle ins a).Ok := by
  unfold Hw.setArr
  try dsimp only
  repeat' with_reducible assumption

theorem Hw.onArr_ok {h : Hw} (hok : h.Ok) (isle : Nat) (ins : Nat) (f : Arr → Arr) : (Hw.onArr h isle ins f).Ok := by
  unfold Hw.onArr
  try dsimp only
  repeat' (first
    | with_reducible assumption
    | with_reducible apply Hw.setArr_ok)

theorem Hw.setIsle_ok {h : Hw} (hok : h.Ok) (i : Nat) (x : Isle) : (Hw.setIsle h i x).Ok := by
  unfold Hw.setIsle
  try dsimp only
  repeat' with_reducible assumption

theorem Hw.onIsle_ok {h : Hw} (hok : h.Ok) (i : Nat) (f : Isle → Isle) : (Hw.onIsle h i f).Ok := by
  unfold Hw.onIsle
  try dsimp only
  repeat' (first
    | with_reducible assumption
    | with_reducible apply Hw.setIsle_ok)

theorem Hw.noteIsle_ok {h : Hw} (hok : h.Ok) (isle : Nat) (cls : Nat) (addr : Nat) : (Hw.noteIsle h isle cls addr).Ok := by
  unfold Hw.noteIsle
  try dsimp only
  repeat' (first
    | with_reducible assumption
    | with_reducible apply Hw.onIsle_ok)

theorem Hw.noteMachine_ok {h : Hw} (hok : h.Ok) (co : CoreId) (r : TrapRec) : (Hw.noteMachine h co r).Ok := by
  unfold Hw.noteMachine
  try dsimp only
  repeat' (first
    | with_reducible assumption
    | with_reducible apply Hw.noteIsle_ok
    | with_reducible apply foldl_ok
    | with_reducible apply foldl_pair_ok
    | refine ok_of_some (by with_reducible assumption) ?_
    | refine ok_of_pair (by with_reducible assumption) ?_
    | refine ok_of_some2 (by with_reducible assumption) ?_
    | with_reducible apply State.upd_ok
    | with_reducible apply State.attempt_ok
    | with_reducible apply settle_ok
    | with_reducible apply chk_ok
    | with_reducible apply chk_err
    | with_reducible apply chk_trap
    | with_reducible apply chk_bind_st
    | with_reducible apply chk_bind
    | with_reducible apply out_next
    | with_reducible apply opt_getD
    | with_reducible apply opt_none
    | with_reducible apply opt_some
    | with_reducible apply opt_map
    | with_reducible apply opt_bind
    | split
    | intro _
    | dsimp only
    | assumption)

theorem Hw.trapAs_ok {h : Hw} (hok : h.Ok) (issued : Bool) (co : CoreId) (r : TrapRec) : (Hw.trapAs h issued co r).Ok := by
  unfold Hw.trapAs
  try dsimp only
  repeat' (first
    | with_reducible assumption
    | with_reducible apply Hw.onCore_ok
    | with_reducible apply Hw.onIsle_ok
    | with_reducible apply foldl_ok
    | with_reducible apply foldl_pair_ok
    | refine ok_of_some (by with_reducible assumption) ?_
    | refine ok_of_pair (by with_reducible assumption) ?_
    | refine ok_of_some2 (by with_reducible assumption) ?_
    | with_reducible apply State.upd_ok
    | with_reducible apply State.attempt_ok
    | with_reducible apply settle_ok
    | with_reducible apply chk_ok
    | with_reducible apply chk_err
    | with_reducible apply chk_trap
    | with_reducible apply chk_bind_st
    | with_reducible apply chk_bind
    | with_reducible apply out_next
    | with_reducible apply opt_getD
    | with_reducible apply opt_none
    | with_reducible apply opt_some
    | with_reducible apply opt_map
    | with_reducible apply opt_bind
    | split
    | intro _
    | dsimp only
    | assumption)

theorem Hw.takeTrap_ok {h : Hw} (hok : h.Ok) (co : CoreId) (r : TrapRec) : (Hw.takeTrap h co r).Ok := by
  unfold Hw.takeTrap
  try dsimp only
  repeat' (first
    | with_reducible assumption
    | with_reducible apply Hw.trapAs_ok
    | with_reducible apply foldl_ok
    | with_reducible apply foldl_pair_ok
    | refine ok_of_some (by with_reducible assumption) ?_
    | refine ok_of_pair (by with_reducible assumption) ?_
    | refine ok_of_some2 (by with_reducible assumption) ?_
    | with_reducible apply State.upd_ok
    | with_reducible apply State.attempt_ok
    | with_reducible apply settle_ok
    | with_reducible apply chk_ok
    | with_reducible apply chk_err
    | with_reducible apply chk_trap
    | with_reducible apply chk_bind_st
    | with_reducible apply chk_bind
    | with_reducible apply out_next
    | with_reducible apply opt_getD
    | with_reducible apply opt_none
    | with_reducible apply opt_some
    | with_reducible apply opt_map
    | with_reducible apply opt_bind
    | split
    | intro _
    | dsimp only
    | assumption)

theorem Hw.engTrap_ok {h : Hw} (hok : h.Ok) (co : CoreId) (e : EngId) (r : TrapRec) : (Hw.engTrap h co e r).Ok := by
  unfold Hw.engTrap
  try dsimp only
  repeat' (first
    | with_reducible assumption
    | with_reducible apply Hw.onCore_ok
    | with_reducible apply Hw.trapAs_ok
    | with_reducible apply foldl_ok
    | with_reducible apply foldl_pair_ok
    | refine ok_of_some (by with_reducible assumption) ?_
    | refine ok_of_pair (by with_reducible assumption) ?_
    | refine ok_of_some2 (by with_reducible assumption) ?_
    | with_reducible apply State.upd_ok
    | with_reducible apply State.attempt_ok
    | with_reducible apply settle_ok
    | with_reducible apply chk_ok
    | with_reducible apply chk_err
    | with_reducible apply chk_trap
    | with_reducible apply chk_bind_st
    | with_reducible apply chk_bind
    | with_reducible apply out_next
    | with_reducible apply opt_getD
    | with_reducible apply opt_none
    | with_reducible apply opt_some
    | with_reducible apply opt_map
    | with_reducible apply opt_bind
    | split
    | intro _
    | dsimp only
    | assumption)

theorem State.upd_ok {s : State} (w : s.Inv) (f : Hw → Hw) (wf : ∀ h, Hw.Ok h → (f h).Ok) : (s.upd f).Inv := wf _ w

theorem State.onHere_ok {s : State} (hok : s.Inv) (f : Core → Core) : (State.onHere s f).Inv := by
  unfold State.onHere
  try dsimp only
  repeat' (first
    | with_reducible assumption
    | with_reducible apply Hw.onCore_ok
    | with_reducible apply State.upd_ok
    | intro _)

theorem State.onMe_ok {s : State} (hok : s.Inv) (f : Eng → Eng) : (State.onMe s f).Inv := by
  unfold State.onMe
  try dsimp only
  repeat' (first
    | with_reducible assumption
    | with_reducible apply State.onHere_ok)

theorem State.onCu_ok {s : State} (hok : s.Inv) (f : CUnit → CUnit) : (State.onCu s f).Inv := by
  unfold State.onCu
  try dsimp only
  repeat' (first
    | with_reducible assumption
    | with_reducible apply State.onHere_ok)

theorem State.raise_ok {s : State} (w : s.Inv) (t : TrapInfo) : (s.raise t).Inv := Hw.trapAs_ok (h := s.toHw) w _ _ _

theorem State.hold_ok {s : State} (w : s.Inv) : s.hold.Inv := w

theorem settle_ok {s : State} (w : s.Inv) {c : Chk State} (hc : ChkOk c) : OutOk (settle s c) := by
  intro t e
  match c, hc, e with
  | .ok u, hc, e => cases e; exact hc _ rfl
  | .error (.trap x), _, e => cases e; exact State.raise_ok w x
  | .error .block, _, e => cases e; exact State.hold_ok w

theorem State.setG_ok {s : State} (hok : s.Inv) (r : BitVec 6) (x : GReg) : (State.setG s r x).Inv := by
  unfold State.setG
  try dsimp only
  repeat' (first
    | with_reducible assumption
    | with_reducible apply State.onMe_ok
    | split)

theorem State.setP_ok {s : State} (hok : s.Inv) (r : BitVec 3) (x : PReg) : (State.setP s r x).Inv := by
  unfold State.setP
  try dsimp only
  repeat' (first
    | with_reducible assumption
    | with_reducible apply State.onMe_ok
    | split)

theorem State.setC_ok {s : State} (hok : s.Inv) (r : BitVec 4) (x : CReg) : (State.setC s r x).Inv := by
  unfold State.setC
  try dsimp only
  repeat' (first
    | with_reducible assumption
    | with_reducible apply State.onMe_ok)

theorem State.setLc_ok {s : State} (hok : s.Inv) (r : BitVec 2) (x : Lane) : (State.setLc s r x).Inv := by
  unfold State.setLc
  try dsimp only
  repeat' (first
    | with_reducible assumption
    | with_reducible apply State.onMe_ok)

theorem State.setV_ok {s : State} (hok : s.Inv) (r : BitVec 6) (x : VReg) : (State.setV s r x).Inv := by
  unfold State.setV
  try dsimp only
  repeat' (first
    | with_reducible assumption
    | with_reducible apply State.onCu_ok)

theorem State.setM_ok {s : State} (hok : s.Inv) (r : BitVec 3) (x : Lane) : (State.setM s r x).Inv := by
  unfold State.setM
  try dsimp only
  repeat' (first
    | with_reducible assumption
    | with_reducible apply State.onCu_ok
    | split)

theorem scalar1_ok (d : BitVec 6) (a : BitVec 6) (f : Word → Word) {s : State} (hok : s.Inv) : OutOk (scalar1 d a f s) := by
  unfold scalar1
  try dsimp only
  repeat' (first
    | with_reducible assumption
    | with_reducible apply State.setG_ok
    | with_reducible apply out_next)

theorem scalar2_ok (d : BitVec 6) (a : BitVec 6) (b : BitVec 6) (f : Word → Word → Word) {s : State} (hok : s.Inv) : OutOk (scalar2 d a b f s) := by
  unfold scalar2
  try dsimp only
  repeat' (first
    | with_reducible assumption
    | with_reducible apply State.setG_ok
    | with_reducible apply out_next)

theorem execAdd_ok (d : BitVec 6) (a : BitVec 6) (b : BitVec 6) {s : State} (hok : s.Inv) : OutOk (execAdd d a b s) := by
  unfold execAdd
  try dsimp only
  repeat' (first
    | with_reducible assumption
    | with_reducible apply scalar2_ok)

theorem execSub_ok (d : BitVec 6) (a : BitVec 6) (b : BitVec 6) {s : State} (hok : s.Inv) : OutOk (execSub d a b s) := by
  unfold execSub
  try dsimp only
  repeat' (first
    | with_reducible assumption
    | with_reducible apply scalar2_ok)

theorem execAddi_ok (d : BitVec 6) (a : BitVec 6) (imm : BitVec 64) {s : State} (hok : s.Inv) : OutOk (execAddi d a imm s) := by
  unfold execAddi
  try dsimp only
  repeat' (first
    | with_reducible assumption
    | with_reducible apply scalar1_ok)

theorem execLi_ok (d : BitVec 6) (imm : BitVec 64) {s : State} (hok : s.Inv) : OutOk (execLi d imm s) := by
  unfold execLi
  try dsimp only
  repeat' (first
    | with_reducible assumption
    | with_reducible apply State.setG_ok
    | with_reducible apply out_next)

theorem execMov_ok (d : BitVec 6) (a : BitVec 6) {s : State} (hok : s.Inv) : OutOk (execMov d a s) := by
  unfold execMov
  try dsimp only
  repeat' (first
    | with_reducible assumption
    | with_reducible apply scalar1_ok)

theorem execMul_ok (d : BitVec 6) (a : BitVec 6) (b : BitVec 6) {s : State} (hok : s.Inv) : OutOk (execMul d a b s) := by
  unfold execMul
  try dsimp only
  repeat' (first
    | with_reducible assumption
    | with_reducible apply scalar2_ok)

theorem execMulhS_ok (d : BitVec 6) (a : BitVec 6) (b : BitVec 6) {s : State} (hok : s.Inv) : OutOk (execMulhS d a b s) := by
  unfold execMulhS
  try dsimp only
  repeat' (first
    | with_reducible assumption
    | with_reducible apply scalar2_ok)

theorem execMulhZ_ok (d : BitVec 6) (a : BitVec 6) (b : BitVec 6) {s : State} (hok : s.Inv) : OutOk (execMulhZ d a b s) := by
  unfold execMulhZ
  try dsimp only
  repeat' (first
    | with_reducible assumption
    | with_reducible apply scalar2_ok)

theorem execMad_ok (d : BitVec 6) (a : BitVec 6) (b : BitVec 6) (c : BitVec 6) {s : State} (hok : s.Inv) : OutOk (execMad d a b c s) := by
  unfold execMad
  try dsimp only
  repeat' (first
    | with_reducible assumption
    | with_reducible apply State.setG_ok
    | with_reducible apply out_next)

theorem execDivS_ok (d : BitVec 6) (a : BitVec 6) (b : BitVec 6) {s : State} (hok : s.Inv) : OutOk (execDivS d a b s) := by
  unfold execDivS
  try dsimp only
  repeat' (first
    | with_reducible assumption
    | with_reducible apply scalar2_ok)

theorem execDivZ_ok (d : BitVec 6) (a : BitVec 6) (b : BitVec 6) {s : State} (hok : s.Inv) : OutOk (execDivZ d a b s) := by
  unfold execDivZ
  try dsimp only
  repeat' (first
    | with_reducible assumption
    | with_reducible apply scalar2_ok)

theorem execRemS_ok (d : BitVec 6) (a : BitVec 6) (b : BitVec 6) {s : State} (hok : s.Inv) : OutOk (execRemS d a b s) := by
  unfold execRemS
  try dsimp only
  repeat' (first
    | with_reducible assumption
    | with_reducible apply scalar2_ok)

theorem execRemZ_ok (d : BitVec 6) (a : BitVec 6) (b : BitVec 6) {s : State} (hok : s.Inv) : OutOk (execRemZ d a b s) := by
  unfold execRemZ
  try dsimp only
  repeat' (first
    | with_reducible assumption
    | with_reducible apply scalar2_ok)

theorem execAnd_ok (d : BitVec 6) (a : BitVec 6) (b : BitVec 6) {s : State} (hok : s.Inv) : OutOk (execAnd d a b s) := by
  unfold execAnd
  try dsimp only
  repeat' (first
    | with_reducible assumption
    | with_reducible apply scalar2_ok)

theorem execOr_ok (d : BitVec 6) (a : BitVec 6) (b : BitVec 6) {s : State} (hok : s.Inv) : OutOk (execOr d a b s) := by
  unfold execOr
  try dsimp only
  repeat' (first
    | with_reducible assumption
    | with_reducible apply scalar2_ok)

theorem execXor_ok (d : BitVec 6) (a : BitVec 6) (b : BitVec 6) {s : State} (hok : s.Inv) : OutOk (execXor d a b s) := by
  unfold execXor
  try dsimp only
  repeat' (first
    | with_reducible assumption
    | with_reducible apply scalar2_ok)

theorem execAndn_ok (d : BitVec 6) (a : BitVec 6) (b : BitVec 6) {s : State} (hok : s.Inv) : OutOk (execAndn d a b s) := by
  unfold execAndn
  try dsimp only
  repeat' (first
    | with_reducible assumption
    | with_reducible apply scalar2_ok)

theorem execShl_ok (d : BitVec 6) (a : BitVec 6) (b : BitVec 6) {s : State} (hok : s.Inv) : OutOk (execShl d a b s) := by
  unfold execShl
  try dsimp only
  repeat' (first
    | with_reducible assumption
    | with_reducible apply scalar2_ok)

theorem execShrZ_ok (d : BitVec 6) (a : BitVec 6) (b : BitVec 6) {s : State} (hok : s.Inv) : OutOk (execShrZ d a b s) := by
  unfold execShrZ
  try dsimp only
  repeat' (first
    | with_reducible assumption
    | with_reducible apply scalar2_ok)

theorem execShrS_ok (d : BitVec 6) (a : BitVec 6) (b : BitVec 6) {s : State} (hok : s.Inv) : OutOk (execShrS d a b s) := by
  unfold execShrS
  try dsimp only
  repeat' (first
    | with_reducible assumption
    | with_reducible apply scalar2_ok)

theorem execRotl_ok (d : BitVec 6) (a : BitVec 6) (b : BitVec 6) {s : State} (hok : s.Inv) : OutOk (execRotl d a b s) := by
  unfold execRotl
  try dsimp only
  repeat' (first
    | with_reducible assumption
    | with_reducible apply scalar2_ok)

theorem execClz_ok (d : BitVec 6) (a : BitVec 6) {s : State} (hok : s.Inv) : OutOk (execClz d a s) := by
  unfold execClz
  try dsimp only
  repeat' (first
    | with_reducible assumption
    | with_reducible apply scalar1_ok)

theorem execCtz_ok (d : BitVec 6) (a : BitVec 6) {s : State} (hok : s.Inv) : OutOk (execCtz d a s) := by
  unfold execCtz
  try dsimp only
  repeat' (first
    | with_reducible assumption
    | with_reducible apply scalar1_ok)

theorem execPopc_ok (d : BitVec 6) (a : BitVec 6) {s : State} (hok : s.Inv) : OutOk (execPopc d a s) := by
  unfold execPopc
  try dsimp only
  repeat' (first
    | with_reducible assumption
    | with_reducible apply scalar1_ok)

theorem execMinS_ok (d : BitVec 6) (a : BitVec 6) (b : BitVec 6) {s : State} (hok : s.Inv) : OutOk (execMinS d a b s) := by
  unfold execMinS
  try dsimp only
  repeat' (first
    | with_reducible assumption
    | with_reducible apply scalar2_ok)

theorem execMinZ_ok (d : BitVec 6) (a : BitVec 6) (b : BitVec 6) {s : State} (hok : s.Inv) : OutOk (execMinZ d a b s) := by
  unfold execMinZ
  try dsimp only
  repeat' (first
    | with_reducible assumption
    | with_reducible apply scalar2_ok)

theorem execMaxS_ok (d : BitVec 6) (a : BitVec 6) (b : BitVec 6) {s : State} (hok : s.Inv) : OutOk (execMaxS d a b s) := by
  unfold execMaxS
  try dsimp only
  repeat' (first
    | with_reducible assumption
    | with_reducible apply scalar2_ok)

theorem execMaxZ_ok (d : BitVec 6) (a : BitVec 6) (b : BitVec 6) {s : State} (hok : s.Inv) : OutOk (execMaxZ d a b s) := by
  unfold execMaxZ
  try dsimp only
  repeat' (first
    | with_reducible assumption
    | with_reducible apply scalar2_ok)

theorem execSel_ok (d : BitVec 6) (a : BitVec 6) (b : BitVec 6) (c : BitVec 3) {s : State} (hok : s.Inv) : OutOk (execSel d a b c s) := by
  unfold execSel
  try dsimp only
  repeat' (first
    | with_reducible assumption
    | with_reducible apply State.setG_ok
    | with_reducible apply out_next)

theorem execCmp_ok (cnd : BitVec 4) (d : BitVec 3) (a : BitVec 6) (b : BitVec 6) {s : State} (hok : s.Inv) : OutOk (execCmp cnd d a b s) := by
  unfold execCmp
  try dsimp only
  repeat' (first
    | with_reducible assumption
    | with_reducible apply State.setP_ok
    | with_reducible apply out_next)

theorem execCmpi_ok (cnd : BitVec 4) (d : BitVec 3) (a : BitVec 6) (imm : BitVec 60) {s : State} (hok : s.Inv) : OutOk (execCmpi cnd d a imm s) := by
  unfold execCmpi
  try dsimp only
  repeat' (first
    | with_reducible assumption
    | with_reducible apply State.setP_ok
    | with_reducible apply out_next)

theorem execPmix_ok (d : BitVec 3) (a : BitVec 3) (b : BitVec 3) (t : BitVec 4) {s : State} (hok : s.Inv) : OutOk (execPmix d a b t s) := by
  unfold execPmix
  try dsimp only
  repeat' (first
    | with_reducible assumption
    | with_reducible apply State.setP_ok
    | with_reducible apply out_next)

theorem execExtS8_ok (d : BitVec 6) (a : BitVec 6) {s : State} (hok : s.Inv) : OutOk (execExtS8 d a s) := by
  unfold execExtS8
  try dsimp only
  repeat' (first
    | with_reducible assumption
    | with_reducible apply scalar1_ok)

theorem execExtZ8_ok (d : BitVec 6) (a : BitVec 6) {s : State} (hok : s.Inv) : OutOk (execExtZ8 d a s) := by
  unfold execExtZ8
  try dsimp only
  repeat' (first
    | with_reducible assumption
    | with_reducible apply scalar1_ok)

theorem execExtS16_ok (d : BitVec 6) (a : BitVec 6) {s : State} (hok : s.Inv) : OutOk (execExtS16 d a s) := by
  unfold execExtS16
  try dsimp only
  repeat' (first
    | with_reducible assumption
    | with_reducible apply scalar1_ok)

theorem execExtZ16_ok (d : BitVec 6) (a : BitVec 6) {s : State} (hok : s.Inv) : OutOk (execExtZ16 d a s) := by
  unfold execExtZ16
  try dsimp only
  repeat' (first
    | with_reducible assumption
    | with_reducible apply scalar1_ok)

theorem execExtS32_ok (d : BitVec 6) (a : BitVec 6) {s : State} (hok : s.Inv) : OutOk (execExtS32 d a s) := by
  unfold execExtS32
  try dsimp only
  repeat' (first
    | with_reducible assumption
    | with_reducible apply scalar1_ok)

theorem execExtZ32_ok (d : BitVec 6) (a : BitVec 6) {s : State} (hok : s.Inv) : OutOk (execExtZ32 d a s) := by
  unfold execExtZ32
  try dsimp only
  repeat' (first
    | with_reducible assumption
    | with_reducible apply scalar1_ok)

theorem execAddsS64_ok (d : BitVec 6) (a : BitVec 6) (b : BitVec 6) {s : State} (hok : s.Inv) : OutOk (execAddsS64 d a b s) := by
  unfold execAddsS64
  try dsimp only
  repeat' (first
    | with_reducible assumption
    | with_reducible apply scalar2_ok)

theorem execBfx_ok (d : BitVec 6) (a : BitVec 6) (pos : BitVec 6) (len : BitVec 7) (sx : BitVec 1) {s : State} (hok : s.Inv) : OutOk (execBfx d a pos len sx s) := by
  unfold execBfx
  try dsimp only
  repeat' (first
    | with_reducible assumption
    | with_reducible apply scalar1_ok)

theorem execBfi_ok (d : BitVec 6) (a : BitVec 6) (pos : BitVec 6) (len : BitVec 7) {s : State} (hok : s.Inv) : OutOk (execBfi d a pos len s) := by
  unfold execBfi
  try dsimp only
  repeat' (first
    | with_reducible assumption
    | with_reducible apply scalar2_ok)

theorem execRnd_ok (d : BitVec 6) (a : BitVec 6) (b : BitVec 6) (c : BitVec 6) (w : BitVec 2) {s : State} (hok : s.Inv) : OutOk (execRnd d a b c w s) := by
  unfold execRnd
  try dsimp only
  repeat' (first
    | with_reducible assumption
    | with_reducible apply State.setG_ok
    | with_reducible apply out_next)

theorem execCmov_ok (d : BitVec 4) (a : BitVec 4) {s : State} (hok : s.Inv) : OutOk (execCmov d a s) := by
  unfold execCmov
  try dsimp only
  repeat' (first
    | with_reducible assumption
    | with_reducible apply State.setC_ok
    | with_reducible apply out_next)

theorem execCinc_ok (d : BitVec 4) (a : BitVec 4) (b : BitVec 6) {s : State} (hok : s.Inv) : OutOk (execCinc d a b s) := by
  unfold execCinc
  try dsimp only
  repeat' (first
    | with_reducible assumption
    | with_reducible apply settle_ok
    | with_reducible apply State.setC_ok
    | with_reducible apply chk_ok
    | with_reducible apply chk_bind
    | intro _)

theorem execCinci_ok (d : BitVec 4) (a : BitVec 4) (imm : BitVec 64) {s : State} (hok : s.Inv) : OutOk (execCinci d a imm s) := by
  unfold execCinci
  try dsimp only
  repeat' (first
    | with_reducible assumption
    | with_reducible apply State.setC_ok
    | with_reducible apply out_next)

theorem execCbound_ok (d : BitVec 4) (a : BitVec 4) (b : BitVec 6) {s : State} (hok : s.Inv) : OutOk (execCbound d a b s) := by
  unfold execCbound
  try dsimp only
  repeat' (first
    | with_reducible assumption
    | with_reducible apply settle_ok
    | with_reducible apply State.setC_ok
    | with_reducible apply chk_ok
    | with_reducible apply chk_bind
    | intro _)

theorem execCperm_ok (d : BitVec 4) (a : BitVec 4) (mask : BitVec 12) {s : State} (hok : s.Inv) : OutOk (execCperm d a mask s) := by
  unfold execCperm
  try dsimp only
  repeat' (first
    | with_reducible assumption
    | with_reducible apply State.setC_ok
    | with_reducible apply out_next)

theorem execCgetb_ok (d : BitVec 6) (a : BitVec 4) {s : State} (hok : s.Inv) : OutOk (execCgetb d a s) := by
  unfold execCgetb
  try dsimp only
  repeat' (first
    | with_reducible assumption
    | with_reducible apply State.setG_ok
    | with_reducible apply out_next)

theorem execCgetl_ok (d : BitVec 6) (a : BitVec 4) {s : State} (hok : s.Inv) : OutOk (execCgetl d a s) := by
  unfold execCgetl
  try dsimp only
  repeat' (first
    | with_reducible assumption
    | with_reducible apply State.setG_ok
    | with_reducible apply out_next)

theorem execCgeto_ok (d : BitVec 6) (a : BitVec 4) {s : State} (hok : s.Inv) : OutOk (execCgeto d a s) := by
  unfold execCgeto
  try dsimp only
  repeat' (first
    | with_reducible assumption
    | with_reducible apply State.setG_ok
    | with_reducible apply out_next)

theorem execCgetp_ok (d : BitVec 6) (a : BitVec 4) {s : State} (hok : s.Inv) : OutOk (execCgetp d a s) := by
  unfold execCgetp
  try dsimp only
  repeat' (first
    | with_reducible assumption
    | with_reducible apply State.setG_ok
    | with_reducible apply out_next)

theorem execCtest_ok (d : BitVec 3) (a : BitVec 4) {s : State} (hok : s.Inv) : OutOk (execCtest d a s) := by
  unfold execCtest
  try dsimp only
  repeat' (first
    | with_reducible assumption
    | with_reducible apply State.setP_ok
    | with_reducible apply out_next)

theorem execCle_ok (d : BitVec 3) (a : BitVec 4) (b : BitVec 4) {s : State} (hok : s.Inv) : OutOk (execCle d a b s) := by
  unfold execCle
  try dsimp only
  repeat' (first
    | with_reducible assumption
    | with_reducible apply State.setP_ok
    | with_reducible apply out_next)

theorem execCclr_ok (d : BitVec 4) {s : State} (hok : s.Inv) : OutOk (execCclr d s) := by
  unfold execCclr
  try dsimp only
  repeat' (first
    | with_reducible assumption
    | with_reducible apply State.setC_ok
    | with_reducible apply out_next)

theorem execCaddr_ok (d : BitVec 4) (a : BitVec 4) (b : BitVec 6) {s : State} (hok : s.Inv) : OutOk (execCaddr d a b s) := by
  unfold execCaddr
  try dsimp only
  repeat' (first
    | with_reducible assumption
    | with_reducible apply settle_ok
    | with_reducible apply State.setC_ok
    | with_reducible apply chk_ok
    | with_reducible apply chk_bind
    | intro _)

theorem execCld_ok (d : BitVec 4) (cb : BitVec 4) (x : BitVec 6) (sc : BitVec 3) (off : BitVec 32) {s : State} (hok : s.Inv) : OutOk (execCld d cb x sc off s) := by
  unfold execCld
  try dsimp only
  repeat' (first
    | with_reducible assumption
    | with_reducible apply settle_ok
    | with_reducible apply State.setC_ok
    | with_reducible apply chk_ok
    | with_reducible apply chk_bind
    | intro _)

theorem execCst_ok (d : BitVec 4) (cb : BitVec 4) (x : BitVec 6) (sc : BitVec 3) (off : BitVec 32) {s : State} (hok : s.Inv) : OutOk (execCst d cb x sc off s) := by
  unfold execCst
  try dsimp only
  repeat' (first
    | with_reducible assumption
    | with_reducible apply Hw.putNum_ok
    | with_reducible apply Hw.setTag_ok
    | with_reducible apply State.upd_ok
    | with_reducible apply settle_ok
    | with_reducible apply chk_ok
    | with_reducible apply chk_bind
    | intro _)

theorem execCfoot_ok (d : BitVec 4) (k : BitVec 3) {s : State} (hok : s.Inv) : OutOk (execCfoot d k s) := by
  unfold execCfoot
  try dsimp only
  repeat' (first
    | with_reducible assumption
    | with_reducible apply State.setC_ok
    | with_reducible apply out_next)

theorem vmerge_ok (vd : BitVec 6) (mk : BitVec 3) (side : Byte) (f : Nat → Lane) (p : Nat → Bool) {s : State} (hok : s.Inv) : (vmerge vd mk side f p s).Inv := by
  unfold vmerge
  try dsimp only
  repeat' (first
    | with_reducible assumption
    | with_reducible apply State.setV_ok)

theorem vec1_ok (vd : BitVec 6) (va : BitVec 6) (mk : BitVec 3) (f : Lane → Lane) {s : State} (hok : s.Inv) : OutOk (vec1 vd va mk f s) := by
  unfold vec1
  try dsimp only
  repeat' (first
    | with_reducible assumption
    | with_reducible apply vmerge_ok
    | with_reducible apply out_next)

theorem vec2_ok (vd : BitVec 6) (va : BitVec 6) (vb : BitVec 6) (mk : BitVec 3) (f : Lane → Lane → Lane) {s : State} (hok : s.Inv) : OutOk (vec2 vd va vb mk f s) := by
  unfold vec2
  try dsimp only
  repeat' (first
    | with_reducible assumption
    | with_reducible apply vmerge_ok
    | with_reducible apply out_next)

theorem vec3_ok (vd : BitVec 6) (va : BitVec 6) (vb : BitVec 6) (vc : BitVec 6) (mk : BitVec 3) (f : Lane → Lane → Lane → Lane) {s : State} (hok : s.Inv) : OutOk (vec3 vd va vb vc mk f s) := by
  unfold vec3
  try dsimp only
  repeat' (first
    | with_reducible assumption
    | with_reducible apply vmerge_ok
    | with_reducible apply out_next)

theorem vcompare_ok (md : BitVec 3) (va : BitVec 6) (vb : BitVec 6) (mk : BitVec 3) (f : Lane → Lane → Bool) {s : State} (hok : s.Inv) : OutOk (vcompare md va vb mk f s) := by
  unfold vcompare
  try dsimp only
  repeat' (first
    | with_reducible assumption
    | with_reducible apply settle_ok
    | with_reducible apply State.setM_ok
    | with_reducible apply chk_ok
    | with_reducible apply chk_bind
    | intro _)

theorem execVaddF32_ok (vd : BitVec 6) (va : BitVec 6) (vb : BitVec 6) (mk : BitVec 3) {s : State} (hok : s.Inv) : OutOk (execVaddF32 vd va vb mk s) := by
  unfold execVaddF32
  try dsimp only
  repeat' (first
    | with_reducible assumption
    | with_reducible apply vec2_ok)

theorem execVsubF32_ok (vd : BitVec 6) (va : BitVec 6) (vb : BitVec 6) (mk : BitVec 3) {s : State} (hok : s.Inv) : OutOk (execVsubF32 vd va vb mk s) := by
  unfold execVsubF32
  try dsimp only
  repeat' (first
    | with_reducible assumption
    | with_reducible apply vec2_ok)

theorem execVmulF32_ok (vd : BitVec 6) (va : BitVec 6) (vb : BitVec 6) (mk : BitVec 3) {s : State} (hok : s.Inv) : OutOk (execVmulF32 vd va vb mk s) := by
  unfold execVmulF32
  try dsimp only
  repeat' (first
    | with_reducible assumption
    | with_reducible apply vec2_ok)

theorem execVfmaF32_ok (vd : BitVec 6) (va : BitVec 6) (vb : BitVec 6) (vc : BitVec 6) (mk : BitVec 3) {s : State} (hok : s.Inv) : OutOk (execVfmaF32 vd va vb vc mk s) := by
  unfold execVfmaF32
  try dsimp only
  repeat' (first
    | with_reducible assumption
    | with_reducible apply vec3_ok)

theorem execVfmsF32_ok (vd : BitVec 6) (va : BitVec 6) (vb : BitVec 6) (vc : BitVec 6) (mk : BitVec 3) {s : State} (hok : s.Inv) : OutOk (execVfmsF32 vd va vb vc mk s) := by
  unfold execVfmsF32
  try dsimp only
  repeat' (first
    | with_reducible assumption
    | with_reducible apply vec3_ok)

theorem execVfnmaF32_ok (vd : BitVec 6) (va : BitVec 6) (vb : BitVec 6) (vc : BitVec 6) (mk : BitVec 3) {s : State} (hok : s.Inv) : OutOk (execVfnmaF32 vd va vb vc mk s) := by
  unfold execVfnmaF32
  try dsimp only
  repeat' (first
    | with_reducible assumption
    | with_reducible apply vec3_ok)

theorem execVminF32_ok (vd : BitVec 6) (va : BitVec 6) (vb : BitVec 6) (mk : BitVec 3) {s : State} (hok : s.Inv) : OutOk (execVminF32 vd va vb mk s) := by
  unfold execVminF32
  try dsimp only
  repeat' (first
    | with_reducible assumption
    | with_reducible apply vec2_ok)

theorem execVmaxF32_ok (vd : BitVec 6) (va : BitVec 6) (vb : BitVec 6) (mk : BitVec 3) {s : State} (hok : s.Inv) : OutOk (execVmaxF32 vd va vb mk s) := by
  unfold execVmaxF32
  try dsimp only
  repeat' (first
    | with_reducible assumption
    | with_reducible apply vec2_ok)

theorem execVabsF32_ok (vd : BitVec 6) (va : BitVec 6) (mk : BitVec 3) {s : State} (hok : s.Inv) : OutOk (execVabsF32 vd va mk s) := by
  unfold execVabsF32
  try dsimp only
  repeat' (first
    | with_reducible assumption
    | with_reducible apply vec1_ok)

theorem execVnegF32_ok (vd : BitVec 6) (va : BitVec 6) (mk : BitVec 3) {s : State} (hok : s.Inv) : OutOk (execVnegF32 vd va mk s) := by
  unfold execVnegF32
  try dsimp only
  repeat' (first
    | with_reducible assumption
    | with_reducible apply vec1_ok)

theorem execVdivF32_ok (vd : BitVec 6) (va : BitVec 6) (vb : BitVec 6) (mk : BitVec 3) {s : State} (hok : s.Inv) : OutOk (execVdivF32 vd va vb mk s) := by
  unfold execVdivF32
  try dsimp only
  repeat' (first
    | with_reducible assumption
    | with_reducible apply vec2_ok)

theorem execVsqrtF32_ok (vd : BitVec 6) (va : BitVec 6) (mk : BitVec 3) {s : State} (hok : s.Inv) : OutOk (execVsqrtF32 vd va mk s) := by
  unfold execVsqrtF32
  try dsimp only
  repeat' (first
    | with_reducible assumption
    | with_reducible apply vec1_ok)

theorem execVrcpF32_ok (vd : BitVec 6) (va : BitVec 6) (mk : BitVec 3) {s : State} (hok : s.Inv) : OutOk (execVrcpF32 vd va mk s) := by
  unfold execVrcpF32
  try dsimp only
  repeat' (first
    | with_reducible assumption
    | with_reducible apply vec1_ok)

theorem execVrsqrtF32_ok (vd : BitVec 6) (va : BitVec 6) (mk : BitVec 3) {s : State} (hok : s.Inv) : OutOk (execVrsqrtF32 vd va mk s) := by
  unfold execVrsqrtF32
  try dsimp only
  repeat' (first
    | with_reducible assumption
    | with_reducible apply vec1_ok)

theorem execVexp2F32_ok (vd : BitVec 6) (va : BitVec 6) (mk : BitVec 3) {s : State} (hok : s.Inv) : OutOk (execVexp2F32 vd va mk s) := by
  unfold execVexp2F32
  try dsimp only
  repeat' (first
    | with_reducible assumption
    | with_reducible apply vec1_ok)

theorem execVlog2F32_ok (vd : BitVec 6) (va : BitVec 6) (mk : BitVec 3) {s : State} (hok : s.Inv) : OutOk (execVlog2F32 vd va mk s) := by
  unfold execVlog2F32
  try dsimp only
  repeat' (first
    | with_reducible assumption
    | with_reducible apply vec1_ok)

theorem execVsinpiF32_ok (vd : BitVec 6) (va : BitVec 6) (mk : BitVec 3) {s : State} (hok : s.Inv) : OutOk (execVsinpiF32 vd va mk s) := by
  unfold execVsinpiF32
  try dsimp only
  repeat' (first
    | with_reducible assumption
    | with_reducible apply vec1_ok)

theorem execVcospiF32_ok (vd : BitVec 6) (va : BitVec 6) (mk : BitVec 3) {s : State} (hok : s.Inv) : OutOk (execVcospiF32 vd va mk s) := by
  unfold execVcospiF32
  try dsimp only
  repeat' (first
    | with_reducible assumption
    | with_reducible apply vec1_ok)

theorem execVtanhF32_ok (vd : BitVec 6) (va : BitVec 6) (mk : BitVec 3) {s : State} (hok : s.Inv) : OutOk (execVtanhF32 vd va mk s) := by
  unfold execVtanhF32
  try dsimp only
  repeat' (first
    | with_reducible assumption
    | with_reducible apply vec1_ok)

theorem execVrrpi_ok (vd : BitVec 6) (va : BitVec 6) (mk : BitVec 3) {s : State} (hok : s.Inv) : OutOk (execVrrpi vd va mk s) := by
  unfold execVrrpi
  try dsimp only
  repeat' (first
    | with_reducible assumption
    | with_reducible apply vec1_ok)

theorem execVfloorF32_ok (vd : BitVec 6) (va : BitVec 6) (mk : BitVec 3) {s : State} (hok : s.Inv) : OutOk (execVfloorF32 vd va mk s) := by
  unfold execVfloorF32
  try dsimp only
  repeat' (first
    | with_reducible assumption
    | with_reducible apply vec1_ok)

theorem execVrintF32_ok (vd : BitVec 6) (va : BitVec 6) (mk : BitVec 3) {s : State} (hok : s.Inv) : OutOk (execVrintF32 vd va mk s) := by
  unfold execVrintF32
  try dsimp only
  repeat' (first
    | with_reducible assumption
    | with_reducible apply vec1_ok)

theorem execVcmpF32_ok (cc : BitVec 4) (md : BitVec 3) (va : BitVec 6) (vb : BitVec 6) (mk : BitVec 3) {s : State} (hok : s.Inv) : OutOk (execVcmpF32 cc md va vb mk s) := by
  unfold execVcmpF32
  try dsimp only
  repeat' (first
    | with_reducible assumption
    | with_reducible apply vcompare_ok)

theorem execVclassF32_ok (vd : BitVec 6) (va : BitVec 6) (mk : BitVec 3) {s : State} (hok : s.Inv) : OutOk (execVclassF32 vd va mk s) := by
  unfold execVclassF32
  try dsimp only
  repeat' (first
    | with_reducible assumption
    | with_reducible apply vec1_ok)

theorem execVaddBf16_ok (vd : BitVec 6) (va : BitVec 6) (vb : BitVec 6) (mk : BitVec 3) {s : State} (hok : s.Inv) : OutOk (execVaddBf16 vd va vb mk s) := by
  unfold execVaddBf16
  try dsimp only
  repeat' (first
    | with_reducible assumption
    | with_reducible apply vec2_ok)

theorem execVmulBf16_ok (vd : BitVec 6) (va : BitVec 6) (vb : BitVec 6) (mk : BitVec 3) {s : State} (hok : s.Inv) : OutOk (execVmulBf16 vd va vb mk s) := by
  unfold execVmulBf16
  try dsimp only
  repeat' (first
    | with_reducible assumption
    | with_reducible apply vec2_ok)

theorem execVfmaBf16_ok (vd : BitVec 6) (va : BitVec 6) (vb : BitVec 6) (vc : BitVec 6) (mk : BitVec 3) {s : State} (hok : s.Inv) : OutOk (execVfmaBf16 vd va vb vc mk s) := by
  unfold execVfmaBf16
  try dsimp only
  repeat' (first
    | with_reducible assumption
    | with_reducible apply vec3_ok)

theorem execVaddS32_ok (vd : BitVec 6) (va : BitVec 6) (vb : BitVec 6) (mk : BitVec 3) {s : State} (hok : s.Inv) : OutOk (execVaddS32 vd va vb mk s) := by
  unfold execVaddS32
  try dsimp only
  repeat' (first
    | with_reducible assumption
    | with_reducible apply vec2_ok)

theorem execVsubS32_ok (vd : BitVec 6) (va : BitVec 6) (vb : BitVec 6) (mk : BitVec 3) {s : State} (hok : s.Inv) : OutOk (execVsubS32 vd va vb mk s) := by
  unfold execVsubS32
  try dsimp only
  repeat' (first
    | with_reducible assumption
    | with_reducible apply vec2_ok)

theorem execVmulS32_ok (vd : BitVec 6) (va : BitVec 6) (vb : BitVec 6) (mk : BitVec 3) {s : State} (hok : s.Inv) : OutOk (execVmulS32 vd va vb mk s) := by
  unfold execVmulS32
  try dsimp only
  repeat' (first
    | with_reducible assumption
    | with_reducible apply vec2_ok)

theorem execVmadS16_ok (vd : BitVec 6) (va : BitVec 6) (vb : BitVec 6) (vc : BitVec 6) (mk : BitVec 3) {s : State} (hok : s.Inv) : OutOk (execVmadS16 vd va vb vc mk s) := by
  unfold execVmadS16
  try dsimp only
  repeat' (first
    | with_reducible assumption
    | with_reducible apply vec3_ok)

theorem execVaddsS32_ok (vd : BitVec 6) (va : BitVec 6) (vb : BitVec 6) (mk : BitVec 3) {s : State} (hok : s.Inv) : OutOk (execVaddsS32 vd va vb mk s) := by
  unfold execVaddsS32
  try dsimp only
  repeat' (first
    | with_reducible assumption
    | with_reducible apply vec2_ok)

theorem execVsubsS32_ok (vd : BitVec 6) (va : BitVec 6) (vb : BitVec 6) (mk : BitVec 3) {s : State} (hok : s.Inv) : OutOk (execVsubsS32 vd va vb mk s) := by
  unfold execVsubsS32
  try dsimp only
  repeat' (first
    | with_reducible assumption
    | with_reducible apply vec2_ok)

theorem execVminS32_ok (vd : BitVec 6) (va : BitVec 6) (vb : BitVec 6) (mk : BitVec 3) {s : State} (hok : s.Inv) : OutOk (execVminS32 vd va vb mk s) := by
  unfold execVminS32
  try dsimp only
  repeat' (first
    | with_reducible assumption
    | with_reducible apply vec2_ok)

theorem execVmaxS32_ok (vd : BitVec 6) (va : BitVec 6) (vb : BitVec 6) (mk : BitVec 3) {s : State} (hok : s.Inv) : OutOk (execVmaxS32 vd va vb mk s) := by
  unfold execVmaxS32
  try dsimp only
  repeat' (first
    | with_reducible assumption
    | with_reducible apply vec2_ok)

theorem execVminZ32_ok (vd : BitVec 6) (va : BitVec 6) (vb : BitVec 6) (mk : BitVec 3) {s : State} (hok : s.Inv) : OutOk (execVminZ32 vd va vb mk s) := by
  unfold execVminZ32
  try dsimp only
  repeat' (first
    | with_reducible assumption
    | with_reducible apply vec2_ok)

theorem execVmaxZ32_ok (vd : BitVec 6) (va : BitVec 6) (vb : BitVec 6) (mk : BitVec 3) {s : State} (hok : s.Inv) : OutOk (execVmaxZ32 vd va vb mk s) := by
  unfold execVmaxZ32
  try dsimp only
  repeat' (first
    | with_reducible assumption
    | with_reducible apply vec2_ok)

theorem execVand_ok (vd : BitVec 6) (va : BitVec 6) (vb : BitVec 6) (mk : BitVec 3) {s : State} (hok : s.Inv) : OutOk (execVand vd va vb mk s) := by
  unfold execVand
  try dsimp only
  repeat' (first
    | with_reducible assumption
    | with_reducible apply vec2_ok)

theorem execVor_ok (vd : BitVec 6) (va : BitVec 6) (vb : BitVec 6) (mk : BitVec 3) {s : State} (hok : s.Inv) : OutOk (execVor vd va vb mk s) := by
  unfold execVor
  try dsimp only
  repeat' (first
    | with_reducible assumption
    | with_reducible apply vec2_ok)

theorem execVxor_ok (vd : BitVec 6) (va : BitVec 6) (vb : BitVec 6) (mk : BitVec 3) {s : State} (hok : s.Inv) : OutOk (execVxor vd va vb mk s) := by
  unfold execVxor
  try dsimp only
  repeat' (first
    | with_reducible assumption
    | with_reducible apply vec2_ok)

theorem execVshl_ok (vd : BitVec 6) (va : BitVec 6) (vb : BitVec 6) (mk : BitVec 3) {s : State} (hok : s.Inv) : OutOk (execVshl vd va vb mk s) := by
  unfold execVshl
  try dsimp only
  repeat' (first
    | with_reducible assumption
    | with_reducible apply vec2_ok)

theorem execVshrZ_ok (vd : BitVec 6) (va : BitVec 6) (vb : BitVec 6) (mk : BitVec 3) {s : State} (hok : s.Inv) : OutOk (execVshrZ vd va vb mk s) := by
  unfold execVshrZ
  try dsimp only
  repeat' (first
    | with_reducible assumption
    | with_reducible apply vec2_ok)

theorem execVshrS_ok (vd : BitVec 6) (va : BitVec 6) (vb : BitVec 6) (mk : BitVec 3) {s : State} (hok : s.Inv) : OutOk (execVshrS vd va vb mk s) := by
  unfold execVshrS
  try dsimp only
  repeat' (first
    | with_reducible assumption
    | with_reducible apply vec2_ok)

theorem execVshlImm_ok (vd : BitVec 6) (va : BitVec 6) (n : BitVec 5) (mk : BitVec 3) {s : State} (hok : s.Inv) : OutOk (execVshlImm vd va n mk s) := by
  unfold execVshlImm
  try dsimp only
  repeat' (first
    | with_reducible assumption
    | with_reducible apply vec1_ok)

theorem execVshrZImm_ok (vd : BitVec 6) (va : BitVec 6) (n : BitVec 5) (mk : BitVec 3) {s : State} (hok : s.Inv) : OutOk (execVshrZImm vd va n mk s) := by
  unfold execVshrZImm
  try dsimp only
  repeat' (first
    | with_reducible assumption
    | with_reducible apply vec1_ok)

theorem execVshrSImm_ok (vd : BitVec 6) (va : BitVec 6) (n : BitVec 5) (mk : BitVec 3) {s : State} (hok : s.Inv) : OutOk (execVshrSImm vd va n mk s) := by
  unfold execVshrSImm
  try dsimp only
  repeat' (first
    | with_reducible assumption
    | with_reducible apply vec1_ok)

theorem execVcmpS32_ok (cc : BitVec 4) (md : BitVec 3) (va : BitVec 6) (vb : BitVec 6) (mk : BitVec 3) {s : State} (hok : s.Inv) : OutOk (execVcmpS32 cc md va vb mk s) := by
  unfold execVcmpS32
  try dsimp only
  repeat' (first
    | with_reducible assumption
    | with_reducible apply vcompare_ok)

theorem execVcmpZ32_ok (cc : BitVec 4) (md : BitVec 3) (va : BitVec 6) (vb : BitVec 6) (mk : BitVec 3) {s : State} (hok : s.Inv) : OutOk (execVcmpZ32 cc md va vb mk s) := by
  unfold execVcmpZ32
  try dsimp only
  repeat' (first
    | with_reducible assumption
    | with_reducible apply vcompare_ok)

theorem execVsel_ok (vd : BitVec 6) (va : BitVec 6) (vb : BitVec 6) (mk : BitVec 3) {s : State} (hok : s.Inv) : OutOk (execVsel vd va vb mk s) := by
  unfold execVsel
  try dsimp only
  repeat' (first
    | with_reducible assumption
    | with_reducible apply State.setV_ok
    | with_reducible apply out_next)

theorem execVmask_ok (md : BitVec 3) (ma : BitVec 3) (mb : BitVec 3) (t : BitVec 4) {s : State} (hok : s.Inv) : OutOk (execVmask md ma mb t s) := by
  unfold execVmask
  try dsimp only
  repeat' (first
    | with_reducible assumption
    | with_reducible apply State.setM_ok
    | with_reducible apply out_next)

theorem vpart_ok (vd : BitVec 6) (lo : Nat) (n : Nat) (f : Nat → Lane) (p : Nat → Bool) {s : State} (hok : s.Inv) : (vpart vd lo n f p s).Inv := by
  unfold vpart
  try dsimp only
  repeat' (first
    | with_reducible assumption
    | with_reducible apply State.setV_ok)

theorem vwhole_ok (vd : BitVec 6) (side : Byte) (f : Nat → Lane) (p : Nat → Bool) {s : State} (hok : s.Inv) : (vwhole vd side f p s).Inv := by
  unfold vwhole
  try dsimp only
  repeat' (first
    | with_reducible assumption
    | with_reducible apply State.setV_ok)

theorem vquarter_ok (vd : BitVec 6) (va : BitVec 6) (q : BitVec 2) (f : FVal → Byte) {s : State} (hok : s.Inv) : OutOk (vquarter vd va q f s) := by
  unfold vquarter
  try dsimp only
  repeat' (first
    | with_reducible assumption
    | with_reducible apply vpart_ok
    | with_reducible apply out_next)

theorem vscaleByte_ok (vb : BitVec 6) (k : Nat) (sc : Byte) (p : Bool) {s : State} (hok : s.Inv) : (vscaleByte vb k sc p s).Inv := by
  unfold vscaleByte
  try dsimp only
  repeat' (first
    | with_reducible assumption
    | with_reducible apply State.setV_ok)

theorem vmoveLanes_ok (vd : BitVec 6) (va : BitVec 6) (mk : BitVec 3) (g : Nat → Nat) (f : Nat → Lane → Lane) {s : State} (hok : s.Inv) : OutOk (vmoveLanes vd va mk g f s) := by
  unfold vmoveLanes
  try dsimp only
  repeat' (first
    | with_reducible assumption
    | with_reducible apply vmerge_ok
    | with_reducible apply out_next)

theorem vreduce_ok (vd : BitVec 6) (va : BitVec 6) (mk : BitVec 3) (ident : Lane) (f : Lane → Lane → Lane) {s : State} (hok : s.Inv) : OutOk (vreduce vd va mk ident f s) := by
  unfold vreduce
  try dsimp only
  repeat' (first
    | with_reducible assumption
    | with_reducible apply vwhole_ok
    | with_reducible apply out_next)

theorem execVcvtF32S32_ok (vd : BitVec 6) (va : BitVec 6) (mk : BitVec 3) {s : State} (hok : s.Inv) : OutOk (execVcvtF32S32 vd va mk s) := by
  unfold execVcvtF32S32
  try dsimp only
  repeat' (first
    | with_reducible assumption
    | with_reducible apply vec1_ok)

theorem execVcvtS32F32Rne_ok (vd : BitVec 6) (va : BitVec 6) (mk : BitVec 3) {s : State} (hok : s.Inv) : OutOk (execVcvtS32F32Rne vd va mk s) := by
  unfold execVcvtS32F32Rne
  try dsimp only
  repeat' (first
    | with_reducible assumption
    | with_reducible apply vec1_ok)

theorem execVcvtS32F32Rz_ok (vd : BitVec 6) (va : BitVec 6) (mk : BitVec 3) {s : State} (hok : s.Inv) : OutOk (execVcvtS32F32Rz vd va mk s) := by
  unfold execVcvtS32F32Rz
  try dsimp only
  repeat' (first
    | with_reducible assumption
    | with_reducible apply vec1_ok)

theorem execVcvtBf16F32_ok (vd : BitVec 6) (va : BitVec 6) (vb : BitVec 6) {s : State} (hok : s.Inv) : OutOk (execVcvtBf16F32 vd va vb s) := by
  unfold execVcvtBf16F32
  try dsimp only
  repeat' (first
    | with_reducible assumption
    | with_reducible apply vwhole_ok
    | with_reducible apply out_next)

theorem execVcvtF32Bf16_ok (vd : BitVec 6) (va : BitVec 6) (h : BitVec 1) (mk : BitVec 3) {s : State} (hok : s.Inv) : OutOk (execVcvtF32Bf16 vd va h mk s) := by
  unfold execVcvtF32Bf16
  try dsimp only
  repeat' (first
    | with_reducible assumption
    | with_reducible apply vmerge_ok
    | with_reducible apply out_next)

theorem execVcvtE4m3F32_ok (vd : BitVec 6) (va : BitVec 6) (q : BitVec 2) {s : State} (hok : s.Inv) : OutOk (execVcvtE4m3F32 vd va q s) := by
  unfold execVcvtE4m3F32
  try dsimp only
  repeat' (first
    | with_reducible assumption
    | with_reducible apply vquarter_ok)

theorem execVcvtE4m3F32Nv_ok (vd : BitVec 6) (va : BitVec 6) (q : BitVec 2) {s : State} (hok : s.Inv) : OutOk (execVcvtE4m3F32Nv vd va q s) := by
  unfold execVcvtE4m3F32Nv
  try dsimp only
  repeat' (first
    | with_reducible assumption
    | with_reducible apply vquarter_ok)

theorem execVcvtE5m2F32_ok (vd : BitVec 6) (va : BitVec 6) (q : BitVec 2) {s : State} (hok : s.Inv) : OutOk (execVcvtE5m2F32 vd va q s) := by
  unfold execVcvtE5m2F32
  try dsimp only
  repeat' (first
    | with_reducible assumption
    | with_reducible apply vquarter_ok)

theorem execVcvtF32E4m3_ok (vd : BitVec 6) (va : BitVec 6) (q : BitVec 2) (mk : BitVec 3) {s : State} (hok : s.Inv) : OutOk (execVcvtF32E4m3 vd va q mk s) := by
  unfold execVcvtF32E4m3
  try dsimp only
  repeat' (first
    | with_reducible assumption
    | with_reducible apply vmerge_ok
    | with_reducible apply out_next)

theorem execVcvtF32E5m2_ok (vd : BitVec 6) (va : BitVec 6) (q : BitVec 2) (mk : BitVec 3) {s : State} (hok : s.Inv) : OutOk (execVcvtF32E5m2 vd va q mk s) := by
  unfold execVcvtF32E5m2
  try dsimp only
  repeat' (first
    | with_reducible assumption
    | with_reducible apply vmerge_ok
    | with_reducible apply out_next)

theorem execVqmx4_ok (vd : BitVec 6) (vb : BitVec 6) (va : BitVec 6) (sel : BitVec 3) {s : State} (hok : s.Inv) : OutOk (execVqmx4 vd vb va sel s) := by
  unfold execVqmx4
  try dsimp only
  repeat' (first
    | with_reducible assumption
    | with_reducible apply vpart_ok
    | with_reducible apply vscaleByte_ok
    | with_reducible apply out_next)

theorem execVqmx8_ok (vd : BitVec 6) (vb : BitVec 6) (va : BitVec 6) (q : BitVec 2) {s : State} (hok : s.Inv) : OutOk (execVqmx8 vd vb va q s) := by
  unfold execVqmx8
  try dsimp only
  repeat' (first
    | with_reducible assumption
    | with_reducible apply vpart_ok
    | with_reducible apply vscaleByte_ok
    | with_reducible apply out_next)

theorem execVdqmx4_ok (vd : BitVec 6) (va : BitVec 6) (vb : BitVec 6) (sel : BitVec 3) (mk : BitVec 3) {s : State} (hok : s.Inv) : OutOk (execVdqmx4 vd va vb sel mk s) := by
  unfold execVdqmx4
  try dsimp only
  repeat' (first
    | with_reducible assumption
    | with_reducible apply vmerge_ok
    | with_reducible apply out_next)

theorem execVxpS4_ok (vd : BitVec 6) (va : BitVec 6) (sel : BitVec 3) (mk : BitVec 3) {s : State} (hok : s.Inv) : OutOk (execVxpS4 vd va sel mk s) := by
  unfold execVxpS4
  try dsimp only
  repeat' (first
    | with_reducible assumption
    | with_reducible apply vmerge_ok
    | with_reducible apply out_next)

theorem execVxpOcp4_ok (vd : BitVec 6) (va : BitVec 6) (sel : BitVec 3) (q : BitVec 2) {s : State} (hok : s.Inv) : OutOk (execVxpOcp4 vd va sel q s) := by
  unfold execVxpOcp4
  try dsimp only
  repeat' (first
    | with_reducible assumption
    | with_reducible apply vpart_ok
    | with_reducible apply out_next)

theorem execVcvtBfpF32_ok (vd : BitVec 6) (va : BitVec 6) {s : State} (hok : s.Inv) : OutOk (execVcvtBfpF32 vd va s) := by
  unfold execVcvtBfpF32
  try dsimp only
  repeat' (first
    | with_reducible assumption
    | with_reducible apply vwhole_ok
    | with_reducible apply out_next)

theorem execVcvtF32Bfp_ok (vd : BitVec 6) (va : BitVec 6) (mk : BitVec 3) {s : State} (hok : s.Inv) : OutOk (execVcvtF32Bfp vd va mk s) := by
  unfold execVcvtF32Bfp
  try dsimp only
  repeat' (first
    | with_reducible assumption
    | with_reducible apply vmerge_ok
    | with_reducible apply out_next)

theorem execVperm_ok (vd : BitVec 6) (va : BitVec 6) (vb : BitVec 6) (mk : BitVec 3) {s : State} (hok : s.Inv) : OutOk (execVperm vd va vb mk s) := by
  unfold execVperm
  try dsimp only
  repeat' (first
    | with_reducible assumption
    | with_reducible apply vmerge_ok
    | with_reducible apply out_next)

theorem execVswpPair_ok (vd : BitVec 6) (va : BitVec 6) (f : BitVec 2) (mk : BitVec 3) {s : State} (hok : s.Inv) : OutOk (execVswpPair vd va f mk s) := by
  unfold execVswpPair
  try dsimp only
  repeat' (first
    | with_reducible assumption
    | with_reducible apply vmoveLanes_ok
    | split)

theorem execVrot_ok (vd : BitVec 6) (va : BitVec 6) (n : BitVec 5) (mk : BitVec 3) {s : State} (hok : s.Inv) : OutOk (execVrot vd va n mk s) := by
  unfold execVrot
  try dsimp only
  repeat' (first
    | with_reducible assumption
    | with_reducible apply vmoveLanes_ok)

theorem execVbc_ok (vd : BitVec 6) (va : BitVec 6) (n : BitVec 5) (mk : BitVec 3) {s : State} (hok : s.Inv) : OutOk (execVbc vd va n mk s) := by
  unfold execVbc
  try dsimp only
  repeat' (first
    | with_reducible assumption
    | with_reducible apply vmoveLanes_ok)

theorem execVext_ok (d : BitVec 6) (va : BitVec 6) (n : BitVec 5) {s : State} (hok : s.Inv) : OutOk (execVext d va n s) := by
  unfold execVext
  try dsimp only
  repeat' (first
    | with_reducible assumption
    | with_reducible apply State.setG_ok
    | with_reducible apply out_next)

theorem execVextMask_ok (d : BitVec 6) (ma : BitVec 3) {s : State} (hok : s.Inv) : OutOk (execVextMask d ma s) := by
  unfold execVextMask
  try dsimp only
  repeat' (first
    | with_reducible assumption
    | with_reducible apply State.setG_ok
    | with_reducible apply out_next)

theorem execVins_ok (vd : BitVec 6) (a : BitVec 6) (n : BitVec 5) {s : State} (hok : s.Inv) : OutOk (execVins vd a n s) := by
  unfold execVins
  try dsimp only
  repeat' (first
    | with_reducible assumption
    | with_reducible apply State.setV_ok
    | with_reducible apply out_next)

theorem execVinsMask_ok (md : BitVec 3) (a : BitVec 6) {s : State} (hok : s.Inv) : OutOk (execVinsMask md a s) := by
  unfold execVinsMask
  try dsimp only
  repeat' (first
    | with_reducible assumption
    | with_reducible apply settle_ok
    | with_reducible apply State.setM_ok
    | with_reducible apply chk_ok
    | with_reducible apply chk_bind
    | intro _)

theorem execVli_ok (vd : BitVec 6) (imm : BitVec 32) {s : State} (hok : s.Inv) : OutOk (execVli vd imm s) := by
  unfold execVli
  try dsimp only
  repeat' (first
    | with_reducible assumption
    | with_reducible apply vwhole_ok
    | with_reducible apply out_next)

theorem execVmov_ok (vd : BitVec 6) (va : BitVec 6) (mk : BitVec 3) {s : State} (hok : s.Inv) : OutOk (execVmov vd va mk s) := by
  unfold execVmov
  try dsimp only
  repeat' (first
    | with_reducible assumption
    | with_reducible apply vec1_ok)

theorem execVredAddF32_ok (vd : BitVec 6) (va : BitVec 6) (mk : BitVec 3) {s : State} (hok : s.Inv) : OutOk (execVredAddF32 vd va mk s) := by
  unfold execVredAddF32
  try dsimp only
  repeat' (first
    | with_reducible assumption
    | with_reducible apply vreduce_ok)

theorem execVredMaxF32_ok (vd : BitVec 6) (va : BitVec 6) (mk : BitVec 3) {s : State} (hok : s.Inv) : OutOk (execVredMaxF32 vd va mk s) := by
  unfold execVredMaxF32
  try dsimp only
  repeat' (first
    | with_reducible assumption
    | with_reducible apply vreduce_ok)

theorem execVredAddS32_ok (vd : BitVec 6) (va : BitVec 6) (mk : BitVec 3) {s : State} (hok : s.Inv) : OutOk (execVredAddS32 vd va mk s) := by
  unfold execVredAddS32
  try dsimp only
  repeat' (first
    | with_reducible assumption
    | with_reducible apply vreduce_ok)

theorem execVscanAddS32_ok (vd : BitVec 6) (va : BitVec 6) (mk : BitVec 3) {s : State} (hok : s.Inv) : OutOk (execVscanAddS32 vd va mk s) := by
  unfold execVscanAddS32
  try dsimp only
  repeat' (first
    | with_reducible assumption
    | with_reducible apply vmerge_ok
    | with_reducible apply out_next)

theorem execVpackS16_ok (vd : BitVec 6) (va : BitVec 6) (vb : BitVec 6) {s : State} (hok : s.Inv) : OutOk (execVpackS16 vd va vb s) := by
  unfold execVpackS16
  try dsimp only
  repeat' (first
    | with_reducible assumption
    | with_reducible apply vwhole_ok
    | with_reducible apply out_next)

theorem execVunpkS16_ok (vd : BitVec 6) (va : BitVec 6) (h : BitVec 1) (mk : BitVec 3) {s : State} (hok : s.Inv) : OutOk (execVunpkS16 vd va h mk s) := by
  unfold execVunpkS16
  try dsimp only
  repeat' (first
    | with_reducible assumption
    | with_reducible apply vmerge_ok
    | with_reducible apply out_next)

theorem execVcntM_ok (d : BitVec 6) (ma : BitVec 3) {s : State} (hok : s.Inv) : OutOk (execVcntM d ma s) := by
  unfold execVcntM
  try dsimp only
  repeat' (first
    | with_reducible assumption
    | with_reducible apply State.setG_ok
    | with_reducible apply out_next)

theorem execVcomp_ok (vd : BitVec 6) (va : BitVec 6) (mk : BitVec 3) {s : State} (hok : s.Inv) : OutOk (execVcomp vd va mk s) := by
  unfold execVcomp
  try dsimp only
  repeat' (first
    | with_reducible assumption
    | with_reducible apply vwhole_ok
    | with_reducible apply out_next)

theorem execVexpd_ok (vd : BitVec 6) (va : BitVec 6) (mk : BitVec 3) {s : State} (hok : s.Inv) : OutOk (execVexpd vd va mk s) := by
  unfold execVexpd
  try dsimp only
  repeat' (first
    | with_reducible assumption
    | with_reducible apply vwhole_ok
    | with_reducible apply out_next)

theorem loadG_ok (d : BitVec 6) (cb : BitVec 4) (x : BitVec 6) (sc : BitVec 3) (off : BitVec 32) (n : Nat) (f : Nat → Word) {s : State} (hok : s.Inv) : OutOk (loadG d cb x sc off n f s) := by
  unfold loadG
  try dsimp only
  repeat' (first
    | with_reducible assumption
    | with_reducible apply settle_ok
    | with_reducible apply State.setG_ok
    | with_reducible apply chk_ok
    | with_reducible apply chk_bind
    | intro _)

theorem storeG_ok (d : BitVec 6) (cb : BitVec 4) (x : BitVec 6) (sc : BitVec 3) (off : BitVec 32) (n : Nat) {s : State} (hok : s.Inv) : OutOk (storeG d cb x sc off n s) := by
  unfold storeG
  try dsimp only
  repeat' (first
    | with_reducible assumption
    | with_reducible apply Hw.putNum_ok
    | with_reducible apply State.upd_ok
    | with_reducible apply settle_ok
    | with_reducible apply chk_ok
    | with_reducible apply chk_bind
    | intro _)

theorem execLdS8_ok (d : BitVec 6) (cb : BitVec 4) (x : BitVec 6) (sc : BitVec 3) (off : BitVec 32) {s : State} (hok : s.Inv) : OutOk (execLdS8 d cb x sc off s) := by
  unfold execLdS8
  try dsimp only
  repeat' (first
    | with_reducible assumption
    | with_reducible apply loadG_ok)

theorem execLdZ8_ok (d : BitVec 6) (cb : BitVec 4) (x : BitVec 6) (sc : BitVec 3) (off : BitVec 32) {s : State} (hok : s.Inv) : OutOk (execLdZ8 d cb x sc off s) := by
  unfold execLdZ8
  try dsimp only
  repeat' (first
    | with_reducible assumption
    | with_reducible apply loadG_ok)

theorem execLdS16_ok (d : BitVec 6) (cb : BitVec 4) (x : BitVec 6) (sc : BitVec 3) (off : BitVec 32) {s : State} (hok : s.Inv) : OutOk (execLdS16 d cb x sc off s) := by
  unfold execLdS16
  try dsimp only
  repeat' (first
    | with_reducible assumption
    | with_reducible apply loadG_ok)

theorem execLdZ16_ok (d : BitVec 6) (cb : BitVec 4) (x : BitVec 6) (sc : BitVec 3) (off : BitVec 32) {s : State} (hok : s.Inv) : OutOk (execLdZ16 d cb x sc off s) := by
  unfold execLdZ16
  try dsimp only
  repeat' (first
    | with_reducible assumption
    | with_reducible apply loadG_ok)

theorem execLdS32_ok (d : BitVec 6) (cb : BitVec 4) (x : BitVec 6) (sc : BitVec 3) (off : BitVec 32) {s : State} (hok : s.Inv) : OutOk (execLdS32 d cb x sc off s) := by
  unfold execLdS32
  try dsimp only
  repeat' (first
    | with_reducible assumption
    | with_reducible apply loadG_ok)

theorem execLdZ32_ok (d : BitVec 6) (cb : BitVec 4) (x : BitVec 6) (sc : BitVec 3) (off : BitVec 32) {s : State} (hok : s.Inv) : OutOk (execLdZ32 d cb x sc off s) := by
  unfold execLdZ32
  try dsimp only
  repeat' (first
    | with_reducible assumption
    | with_reducible apply loadG_ok)

theorem execLd64_ok (d : BitVec 6) (cb : BitVec 4) (x : BitVec 6) (sc : BitVec 3) (off : BitVec 32) {s : State} (hok : s.Inv) : OutOk (execLd64 d cb x sc off s) := by
  unfold execLd64
  try dsimp only
  repeat' (first
    | with_reducible assumption
    | with_reducible apply loadG_ok)

theorem execSt8_ok (d : BitVec 6) (cb : BitVec 4) (x : BitVec 6) (sc : BitVec 3) (off : BitVec 32) {s : State} (hok : s.Inv) : OutOk (execSt8 d cb x sc off s) := by
  unfold execSt8
  try dsimp only
  repeat' (first
    | with_reducible assumption
    | with_reducible apply storeG_ok)

theorem execSt16_ok (d : BitVec 6) (cb : BitVec 4) (x : BitVec 6) (sc : BitVec 3) (off : BitVec 32) {s : State} (hok : s.Inv) : OutOk (execSt16 d cb x sc off s) := by
  unfold execSt16
  try dsimp only
  repeat' (first
    | with_reducible assumption
    | with_reducible apply storeG_ok)

theorem execSt32_ok (d : BitVec 6) (cb : BitVec 4) (x : BitVec 6) (sc : BitVec 3) (off : BitVec 32) {s : State} (hok : s.Inv) : OutOk (execSt32 d cb x sc off s) := by
  unfold execSt32
  try dsimp only
  repeat' (first
    | with_reducible assumption
    | with_reducible apply storeG_ok)

theorem execSt64_ok (d : BitVec 6) (cb : BitVec 4) (x : BitVec 6) (sc : BitVec 3) (off : BitVec 32) {s : State} (hok : s.Inv) : OutOk (execSt64 d cb x sc off s) := by
  unfold execSt64
  try dsimp only
  repeat' (first
    | with_reducible assumption
    | with_reducible apply storeG_ok)

theorem execVld_ok (d : BitVec 6) (cb : BitVec 4) (x : BitVec 6) (sc : BitVec 3) (off : BitVec 32) {s : State} (hok : s.Inv) : OutOk (execVld d cb x sc off s) := by
  unfold execVld
  try dsimp only
  repeat' (first
    | with_reducible assumption
    | with_reducible apply settle_ok
    | with_reducible apply State.setV_ok
    | with_reducible apply chk_ok
    | with_reducible apply chk_bind
    | intro _)

theorem execVst_ok (d : BitVec 6) (cb : BitVec 4) (x : BitVec 6) (sc : BitVec 3) (off : BitVec 32) {s : State} (hok : s.Inv) : OutOk (execVst d cb x sc off s) := by
  unfold execVst
  try dsimp only
  repeat' (first
    | with_reducible assumption
    | with_reducible apply Hw.putNum_ok
    | with_reducible apply State.upd_ok
    | with_reducible apply settle_ok
    | with_reducible apply chk_ok
    | with_reducible apply chk_bind
    | intro _)

theorem execVldBc_ok (d : BitVec 6) (cb : BitVec 4) (x : BitVec 6) (sc : BitVec 3) (off : BitVec 32) {s : State} (hok : s.Inv) : OutOk (execVldBc d cb x sc off s) := by
  unfold execVldBc
  try dsimp only
  repeat' (first
    | with_reducible assumption
    | with_reducible apply settle_ok
    | with_reducible apply State.setV_ok
    | with_reducible apply chk_ok
    | with_reducible apply chk_bind
    | intro _)

theorem execVgath_ok (d : BitVec 6) (cb : BitVec 4) (x : BitVec 6) (sc : BitVec 3) (off : BitVec 32) {s : State} (hok : s.Inv) : OutOk (execVgath d cb x sc off s) := by
  unfold execVgath
  try dsimp only
  repeat' (first
    | with_reducible assumption
    | with_reducible apply settle_ok
    | with_reducible apply State.setV_ok
    | with_reducible apply chk_ok
    | with_reducible apply chk_bind
    | intro _)

theorem execVscat_ok (d : BitVec 6) (cb : BitVec 4) (x : BitVec 6) (sc : BitVec 3) (off : BitVec 32) {s : State} (hok : s.Inv) : OutOk (execVscat d cb x sc off s) := by
  unfold execVscat
  try dsimp only
  repeat' (first
    | with_reducible assumption
    | with_reducible apply Hw.putNum_ok
    | with_reducible apply State.upd_ok
    | with_reducible apply settle_ok
    | with_reducible apply foldl_ok
    | with_reducible apply chk_ok
    | with_reducible apply chk_bind
    | intro _)

theorem State.putFull_ok {s : State} (hok : s.Inv) (b : Bool) (a : Nat) (n : Nat) : (State.putFull s b a n).Inv := by
  unfold State.putFull
  try dsimp only
  repeat' (first
    | with_reducible assumption
    | with_reducible apply Hw.setFull_ok
    | with_reducible apply State.upd_ok
    | with_reducible apply foldl_ok
    | intro _)

theorem execLdfeW_ok (d : BitVec 6) (cb : BitVec 4) (x : BitVec 6) (sc : BitVec 3) (off : BitVec 32) {s : State} (hok : s.Inv) : OutOk (execLdfeW d cb x sc off s) := by
  unfold execLdfeW
  try dsimp only
  repeat' (first
    | with_reducible assumption
    | with_reducible apply settle_ok
    | with_reducible apply State.setG_ok
    | with_reducible apply chk_ok
    | with_reducible apply chk_bind
    | intro _)

theorem execVldfeW_ok (d : BitVec 6) (cb : BitVec 4) (x : BitVec 6) (sc : BitVec 3) (off : BitVec 32) {s : State} (hok : s.Inv) : OutOk (execVldfeW d cb x sc off s) := by
  unfold execVldfeW
  try dsimp only
  repeat' (first
    | with_reducible assumption
    | with_reducible apply settle_ok
    | with_reducible apply State.setV_ok
    | with_reducible apply chk_ok
    | with_reducible apply chk_bind
    | intro _)

theorem execLdfeC_ok (d : BitVec 6) (cb : BitVec 4) (x : BitVec 6) (sc : BitVec 3) (off : BitVec 32) {s : State} (hok : s.Inv) : OutOk (execLdfeC d cb x sc off s) := by
  unfold execLdfeC
  try dsimp only
  repeat' (first
    | with_reducible assumption
    | with_reducible apply settle_ok
    | with_reducible apply State.setG_ok
    | with_reducible apply State.putFull_ok
    | with_reducible apply chk_ok
    | with_reducible apply chk_bind
    | intro _)

theorem execVldfeC_ok (d : BitVec 6) (cb : BitVec 4) (x : BitVec 6) (sc : BitVec 3) (off : BitVec 32) {s : State} (hok : s.Inv) : OutOk (execVldfeC d cb x sc off s) := by
  unfold execVldfeC
  try dsimp only
  repeat' (first
    | with_reducible assumption
    | with_reducible apply settle_ok
    | with_reducible apply State.setV_ok
    | with_reducible apply State.putFull_ok
    | with_reducible apply chk_ok
    | with_reducible apply chk_bind
    | intro _)

theorem execFset_ok (d : BitVec 6) (cb : BitVec 4) (x : BitVec 6) (sc : BitVec 3) (off : BitVec 32) {s : State} (hok : s.Inv) : OutOk (execFset d cb x sc off s) := by
  unfold execFset
  try dsimp only
  repeat' (first
    | with_reducible assumption
    | with_reducible apply settle_ok
    | with_reducible apply State.putFull_ok
    | with_reducible apply chk_ok
    | with_reducible apply chk_bind
    | intro _)

theorem execFclr_ok (d : BitVec 6) (cb : BitVec 4) (x : BitVec 6) (sc : BitVec 3) (off : BitVec 32) {s : State} (hok : s.Inv) : OutOk (execFclr d cb x sc off s) := by
  unfold execFclr
  try dsimp only
  repeat' (first
    | with_reducible assumption
    | with_reducible apply settle_ok
    | with_reducible apply State.putFull_ok
    | with_reducible apply chk_ok
    | with_reducible apply chk_bind
    | intro _)

theorem execFtest_ok (d : BitVec 3) (cb : BitVec 4) (x : BitVec 6) (sc : BitVec 3) (off : BitVec 32) {s : State} (hok : s.Inv) : OutOk (execFtest d cb x sc off s) := by
  unfold execFtest
  try dsimp only
  repeat' (first
    | with_reducible assumption
    | with_reducible apply settle_ok
    | with_reducible apply State.setP_ok
    | with_reducible apply chk_ok
    | with_reducible apply chk_bind
    | intro _)

theorem State.takeSlot_ok {s : State} (hok : s.Inv) (x : LSlot) : ChkOk (State.takeSlot s x) := by
  unfold State.takeSlot
  try dsimp only
  repeat' (first
    | with_reducible assumption
    | with_reducible apply State.onHere_ok
    | with_reducible apply chk_ok
    | with_reducible apply chk_err
    | split)

theorem loadNeighbour_ok (kind : LandKind) (d : BitVec 6) (cb : BitVec 4) (x : BitVec 6) (sc : BitVec 3) (off : BitVec 32) (land : BitVec 6) (n : Nat) {s : State} (hok : s.Inv) : OutOk (loadNeighbour kind d cb x sc off land n s) := by
  unfold loadNeighbour
  try dsimp only
  repeat' (first
    | with_reducible assumption
    | with_reducible apply settle_ok
    | with_reducible apply State.takeSlot_ok
    | with_reducible apply chk_bind
    | intro _)

theorem execLdn_ok (d : BitVec 6) (cb : BitVec 4) (x : BitVec 6) (sc : BitVec 3) (off : BitVec 32) (land : BitVec 6) {s : State} (hok : s.Inv) : OutOk (execLdn d cb x sc off land s) := by
  unfold execLdn
  try dsimp only
  repeat' (first
    | with_reducible assumption
    | with_reducible apply loadNeighbour_ok)

theorem execVldn_ok (d : BitVec 6) (cb : BitVec 4) (x : BitVec 6) (sc : BitVec 3) (off : BitVec 32) (land : BitVec 6) {s : State} (hok : s.Inv) : OutOk (execVldn d cb x sc off land s) := by
  unfold execVldn
  try dsimp only
  repeat' (first
    | with_reducible assumption
    | with_reducible apply loadNeighbour_ok)

theorem Hw.putSlot_ok {h : Hw} (hok : h.Ok) (co : CoreId) (off : Nat) (b : Slot) : (Hw.putSlot h co off b).Ok := by
  unfold Hw.putSlot
  try dsimp only
  repeat' (first
    | with_reducible assumption
    | with_reducible apply Hw.putNum_ok)

theorem Hw.arriveAt_ok {h : Hw} (hok : h.Ok) (co : CoreId) (name : Nat) (d : Nat) : OptOk (Hw.arriveAt h co name d) := by
  unfold Hw.arriveAt
  try dsimp only
  repeat' (first
    | with_reducible assumption
    | with_reducible apply Hw.putSlot_ok
    | with_reducible apply opt_none
    | with_reducible apply opt_some
    | split)

theorem execTbinit_ok (a : BitVec 6) (n : BitVec 12) (nl : BitVec 4) (nc : BitVec 4) (ns : BitVec 4) {s : State} (hok : s.Inv) : OutOk (execTbinit a n nl nc ns s) := by
  unfold execTbinit
  try dsimp only
  repeat' (first
    | with_reducible assumption
    | with_reducible apply Hw.setFull_ok
    | with_reducible apply Hw.setTag_ok
    | with_reducible apply Hw.setMark_ok
    | with_reducible apply State.upd_ok
    | with_reducible apply State.onHere_ok
    | with_reducible apply settle_ok
    | with_reducible apply Hw.putSlot_ok
    | with_reducible apply chk_ok
    | with_reducible apply chk_trap
    | with_reducible apply chk_bind
    | split
    | intro _)

theorem execTbexpect_ok (a : BitVec 6) (n : BitVec 12) {s : State} (hok : s.Inv) : OutOk (execTbexpect a n s) := by
  unfold execTbexpect
  try dsimp only
  repeat' (first
    | with_reducible assumption
    | with_reducible apply State.upd_ok
    | with_reducible apply settle_ok
    | with_reducible apply Hw.putSlot_ok
    | with_reducible apply chk_ok
    | with_reducible apply chk_trap
    | with_reducible apply chk_bind
    | split
    | intro _)

theorem execTbarrive_ok (d : BitVec 6) (a : BitVec 6) (n : BitVec 12) (p : BitVec 1) {s : State} (hok : s.Inv) : OutOk (execTbarrive d a n p s) := by
  unfold execTbarrive
  try dsimp only
  repeat' (first
    | with_reducible assumption
    | with_reducible apply State.upd_ok
    | with_reducible apply settle_ok
    | with_reducible apply State.setG_ok
    | with_reducible apply Hw.putSlot_ok
    | with_reducible apply chk_ok
    | with_reducible apply chk_trap
    | with_reducible apply chk_bind
    | split
    | intro _)

theorem execTbwait_ok (a : BitVec 6) (n : BitVec 12) {s : State} (hok : s.Inv) : OutOk (execTbwait a n s) := by
  unfold execTbwait
  try dsimp only
  repeat' (first
    | with_reducible assumption
    | with_reducible apply State.upd_ok
    | with_reducible apply State.raise_ok
    | with_reducible apply State.hold_ok
    | with_reducible apply Hw.putSlot_ok
    | with_reducible apply out_next
    | split
    | intro _)

theorem execTbtest_ok (d : BitVec 3) (a : BitVec 6) (n : BitVec 12) {s : State} (hok : s.Inv) : OutOk (execTbtest d a n s) := by
  unfold execTbtest
  try dsimp only
  repeat' (first
    | with_reducible assumption
    | with_reducible apply settle_ok
    | with_reducible apply State.setP_ok
    | with_reducible apply chk_ok
    | with_reducible apply chk_bind
    | intro _)

theorem execTbretire_ok (n : BitVec 12) {s : State} (hok : s.Inv) : OutOk (execTbretire n s) := by
  unfold execTbretire
  try dsimp only
  repeat' (first
    | with_reducible assumption
    | with_reducible apply Hw.putNum_ok
    | with_reducible apply Hw.setFull_ok
    | with_reducible apply Hw.setMark_ok
    | with_reducible apply State.upd_ok
    | with_reducible apply State.onHere_ok
    | with_reducible apply settle_ok
    | with_reducible apply chk_ok
    | with_reducible apply chk_bind
    | intro _)

theorem Hw.setLaunch_ok {h : Hw} (hok : h.Ok) (l : Launch) : (Hw.setLaunch h l).Ok := by
  unfold Hw.setLaunch
  try dsimp only
  repeat' with_reducible assumption

theorem Hw.onLaunch_ok {h : Hw} (hok : h.Ok) (lid : Nat) (f : Launch → Launch) : (Hw.onLaunch h lid f).Ok := by
  unfold Hw.onLaunch
  try dsimp only
  repeat' (first
    | with_reducible assumption
    | with_reducible apply Hw.setLaunch_ok
    | split)

theorem Hw.advance_ok {h : Hw} (hok : h.Ok) (co : CoreId) (t : Task) (lv : Nat) : (Hw.advance h co t lv).Ok := by
  unfold Hw.advance
  try dsimp only
  repeat' (first
    | with_reducible assumption
    | with_reducible apply Hw.onCore_ok
    | with_reducible apply Hw.setLaunch_ok
    | split)

theorem Hw.settleBars_ok {h : Hw} (hok : h.Ok) (co : CoreId) : (Hw.settleBars h co).Ok := by
  unfold Hw.settleBars
  try dsimp only
  repeat' (first
    | with_reducible assumption
    | with_reducible apply Hw.advance_ok
    | with_reducible apply foldl_ok
    | split
    | intro _)

theorem State.settleBars_ok {s : State} (hok : s.Inv) : (State.settleBars s).Inv := by
  unfold State.settleBars
  try dsimp only
  repeat' (first
    | with_reducible assumption
    | with_reducible apply State.upd_ok
    | with_reducible apply Hw.settleBars_ok
    | intro _)

theorem State.arriveDom_ok {s : State} (hok : s.Inv) (lv : Nat) : (s.arriveDom lv).1.Inv :=
  State.upd_ok (State.onMe_ok hok _) _ (fun _ w => Hw.advance_ok w _ _ _)

theorem execDbar_ok (lv : BitVec 8) {s : State} (hok : s.Inv) : OutOk (execDbar lv s) := by
  unfold execDbar
  try dsimp only
  repeat' (first
    | with_reducible assumption
    | with_reducible apply State.onMe_ok
    | with_reducible apply settle_ok
    | with_reducible apply State.arriveDom_ok
    | with_reducible apply chk_ok
    | with_reducible apply chk_bind
    | intro _)

theorem execDbarA_ok (d : BitVec 6) (lv : BitVec 8) {s : State} (hok : s.Inv) : OutOk (execDbarA d lv s) := by
  unfold execDbarA
  try dsimp only
  repeat' (first
    | with_reducible assumption
    | with_reducible apply settle_ok
    | with_reducible apply State.setG_ok
    | with_reducible apply State.arriveDom_ok
    | with_reducible apply chk_ok
    | with_reducible apply chk_bind
    | intro _)

theorem execDbarW_ok (a : BitVec 6) (lv : BitVec 8) {s : State} (hok : s.Inv) : OutOk (execDbarW a lv s) := by
  unfold execDbarW
  try dsimp only
  repeat' (first
    | with_reducible assumption
    | with_reducible apply settle_ok
    | with_reducible apply chk_ok
    | with_reducible apply chk_bind
    | intro _)

theorem Hw.onCmd_ok {h : Hw} (hok : h.Ok) (co : CoreId) (uid : Nat) (f : Cmd → Cmd) : (Hw.onCmd h co uid f).Ok := by
  unfold Hw.onCmd
  try dsimp only
  repeat' (first
    | with_reducible assumption
    | with_reducible apply Hw.onCore_ok)

theorem State.goTo_ok {s : State} (hok : s.Inv) (t : Int) : (State.goTo s t).Inv := by
  unfold State.goTo
  try dsimp only
  repeat' with_reducible assumption

theorem State.goRel_ok {s : State} (hok : s.Inv) (disp : BitVec 32) : (State.goRel s disp).Inv := by
  unfold State.goRel
  try dsimp only
  repeat' (first
    | with_reducible assumption
    | with_reducible apply State.goTo_ok)

theorem State.link_ok {s : State} (hok : s.Inv) : (State.link s).Inv := by
  unfold State.link
  try dsimp only
  repeat' (first
    | with_reducible assumption
    | with_reducible apply State.setG_ok)

theorem execNop_ok {s : State} (hok : s.Inv) : OutOk (execNop s) := by
  unfold execNop
  try dsimp only
  repeat' (first
    | with_reducible assumption
    | with_reducible apply out_next)

theorem execBr_ok (cnd : BitVec 4) (a : BitVec 6) (b : BitVec 6) (disp : BitVec 32) {s : State} (hok : s.Inv) : OutOk (execBr cnd a b disp s) := by
  unfold execBr
  try dsimp only
  repeat' (first
    | with_reducible assumption
    | with_reducible apply settle_ok
    | with_reducible apply State.goRel_ok
    | with_reducible apply chk_ok
    | with_reducible apply chk_bind
    | split
    | intro _)

theorem execJmp_ok (disp : BitVec 32) {s : State} (hok : s.Inv) : OutOk (execJmp disp s) := by
  unfold execJmp
  try dsimp only
  repeat' (first
    | with_reducible assumption
    | with_reducible apply State.goRel_ok
    | with_reducible apply out_next)

theorem execJmpi_ok (a : BitVec 6) (imm : BitVec 32) {s : State} (hok : s.Inv) : OutOk (execJmpi a imm s) := by
  unfold execJmpi
  try dsimp only
  repeat' (first
    | with_reducible assumption
    | with_reducible apply settle_ok
    | with_reducible apply State.goTo_ok
    | with_reducible apply chk_ok
    | with_reducible apply chk_bind
    | intro _)

theorem execCall_ok (disp : BitVec 32) {s : State} (hok : s.Inv) : OutOk (execCall disp s) := by
  unfold execCall
  try dsimp only
  repeat' (first
    | with_reducible apply State.goRel_ok
    | with_reducible apply out_next
    | assumption)

theorem execCalli_ok (a : BitVec 6) (imm : BitVec 32) {s : State} (hok : s.Inv) : OutOk (execCalli a imm s) := by
  unfold execCalli
  try dsimp only
  repeat' (first
    | with_reducible assumption
    | with_reducible apply settle_ok
    | with_reducible apply State.goTo_ok
    | with_reducible apply chk_ok
    | with_reducible apply chk_bind
    | intro _
    | assumption)

theorem execRet_ok {s : State} (hok : s.Inv) : OutOk (execRet s) := by
  unfold execRet
  try dsimp only
  repeat' (first
    | with_reducible assumption
    | with_reducible apply settle_ok
    | with_reducible apply State.goTo_ok
    | with_reducible apply chk_ok
    | with_reducible apply chk_bind
    | intro _)

theorem execLoopLc_ok (lc : BitVec 2) (disp : BitVec 32) {s : State} (hok : s.Inv) : OutOk (execLoopLc lc disp s) := by
  unfold execLoopLc
  try dsimp only
  repeat' (first
    | with_reducible assumption
    | with_reducible apply State.setLc_ok
    | with_reducible apply State.goRel_ok
    | with_reducible apply out_next
    | split)

theorem execLset_ok (lc : BitVec 2) (a : BitVec 6) (imm : BitVec 32) {s : State} (hok : s.Inv) : OutOk (execLset lc a imm s) := by
  unfold execLset
  try dsimp only
  repeat' (first
    | with_reducible assumption
    | with_reducible apply settle_ok
    | with_reducible apply State.setLc_ok
    | with_reducible apply chk_ok
    | with_reducible apply chk_bind
    | intro _)

theorem execRep_ok (n : BitVec 12) (sd : BitVec 6) (s1 : BitVec 6) (s2 : BitVec 6) (s3 : BitVec 6) (soff : BitVec 28) {s : State} (hok : s.Inv) : OutOk (execRep n sd s1 s2 s3 soff s) := by
  unfold execRep
  try dsimp only
  repeat' (first
    | with_reducible assumption
    | with_reducible apply State.onMe_ok
    | with_reducible apply settle_ok
    | with_reducible apply chk_ok
    | with_reducible apply chk_bind
    | intro _)

theorem State.nestRegs_ok {s : State} (hok : s.Inv) (n : Nest) : (State.nestRegs s n).Inv := by
  unfold State.nestRegs
  try dsimp only
  repeat' (first
    | with_reducible apply State.setG_ok
    | assumption)

theorem execLnest_ok (cb : BitVec 4) (x : BitVec 6) (sc : BitVec 3) (off : BitVec 32) {s : State} (hok : s.Inv) : OutOk (execLnest cb x sc off s) := by
  unfold execLnest
  try dsimp only
  repeat' (first
    | with_reducible assumption
    | with_reducible apply State.onCu_ok
    | with_reducible apply settle_ok
    | with_reducible apply State.nestRegs_ok
    | with_reducible apply chk_ok
    | with_reducible apply chk_bind
    | intro _)

theorem execLoopNest_ok (disp : BitVec 32) {s : State} (hok : s.Inv) : OutOk (execLoopNest disp s) := by
  unfold execLoopNest
  try dsimp only
  repeat' (first
    | with_reducible assumption
    | with_reducible apply State.onCu_ok
    | with_reducible apply settle_ok
    | with_reducible apply State.goRel_ok
    | with_reducible apply State.nestRegs_ok
    | with_reducible apply chk_ok
    | with_reducible apply chk_bind
    | split
    | intro _)

theorem execDefer_ok (va : BitVec 6) (mk : BitVec 3) (cnt : BitVec 4) (tag : BitVec 2) {s : State} (hok : s.Inv) : OutOk (execDefer va mk cnt tag s) := by
  unfold execDefer
  try dsimp only
  repeat' (first
    | with_reducible assumption
    | with_reducible apply State.onCu_ok
    | with_reducible apply settle_ok
    | with_reducible apply chk_ok
    | with_reducible apply chk_bind
    | intro _)

theorem execDrain_ok (a : BitVec 6) (vb : BitVec 6) (disp : BitVec 32) (tag : BitVec 2) {s : State} (hok : s.Inv) : OutOk (execDrain a vb disp tag s) := by
  unfold execDrain
  try dsimp only
  repeat' (first
    | with_reducible apply State.setG_ok
    | with_reducible apply State.setM_ok
    | with_reducible apply State.goRel_ok
    | with_reducible apply out_next
    | split
    | assumption)

theorem State.push_ok {s : State} (hok : s.Inv) (q : BitVec 2) (e : QEntry) : ChkOk (State.push s q e) := by
  unfold State.push
  try dsimp only
  repeat' (first
    | with_reducible assumption
    | with_reducible apply State.onHere_ok
    | with_reducible apply chk_ok
    | with_reducible apply chk_bind
    | intro _)

theorem State.pop_ok {s : State} (hok : s.Inv) (q : BitVec 2) (keep : Bool) : PairOk (s.pop q keep) := by
  unfold State.pop parityTrap
  try dsimp only
  repeat' (first
    | with_reducible apply pair_trap
    | with_reducible apply pair_err
    | with_reducible apply pair_ok
    | with_reducible assumption
    | with_reducible apply State.onHere_ok
    | split)

theorem execQput_ok (a : BitVec 6) (q : BitVec 2) {s : State} (hok : s.Inv) : OutOk (execQput a q s) := by
  unfold execQput
  try dsimp only
  repeat' (first
    | with_reducible assumption
    | with_reducible apply settle_ok
    | with_reducible apply State.push_ok)

theorem execQget_ok (d : BitVec 6) (q : BitVec 2) (w : BitVec 4) (k : BitVec 1) {s : State} (hok : s.Inv) :
    OutOk (execQget d q w k s) :=
  settle_ok hok (chk_bind_pair (State.pop_ok hok _ _) (fun p hp => chk_ok (State.setG_ok hp _ _)))

theorem execQputv_ok (va : BitVec 6) (q : BitVec 2) {s : State} (hok : s.Inv) : OutOk (execQputv va q s) := by
  unfold execQputv
  try dsimp only
  repeat' (first
    | with_reducible assumption
    | with_reducible apply settle_ok
    | with_reducible apply State.push_ok)

theorem execQgetv_ok (vd : BitVec 6) (q : BitVec 2) (k : BitVec 1) {s : State} (hok : s.Inv) : OutOk (execQgetv vd q k s) :=
  settle_ok hok (chk_bind_pair (State.pop_ok hok _ _) (fun p hp => chk_ok (State.setV_ok hp _ _)))

theorem execPushbq_ok (cnd : BitVec 4) (a : BitVec 6) (b : BitVec 6) {s : State} (hok : s.Inv) : OutOk (execPushbq cnd a b s) := by
  unfold execPushbq
  try dsimp only
  repeat' (first
    | with_reducible assumption
    | with_reducible apply State.onHere_ok
    | with_reducible apply settle_ok
    | with_reducible apply chk_ok
    | with_reducible apply chk_bind
    | intro _)

theorem execBrq_ok (disp : BitVec 32) (n : BitVec 1) {s : State} (hok : s.Inv) : OutOk (execBrq disp n s) := by
  unfold execBrq parityTrap
  refine settle_ok hok ?_
  split
  · split
    · exact chk_trap _ _ _
    · exact chk_err
  · have w := State.onHere_ok hok (fun k => { k with bq := k.bq.tail })
    split
    · exact chk_err
    · split
      · exact chk_trap _ _ _
      · refine chk_ok ?_
        split
        · exact State.goRel_ok w _
        · exact w

theorem State.changeToken_ok {s : State} (hok : s.Inv) (c : BitVec 4) (post : Bool) : (State.changeToken s c post).Inv := by
  unfold State.changeToken
  try dsimp only
  repeat' (first
    | with_reducible assumption
    | with_reducible apply State.onHere_ok)

theorem execPost_ok (k : BitVec 4) {s : State} (hok : s.Inv) : OutOk (execPost k s) := by
  unfold execPost
  try dsimp only
  repeat' (first
    | with_reducible assumption
    | with_reducible apply settle_ok
    | with_reducible apply State.changeToken_ok
    | with_reducible apply chk_ok
    | with_reducible apply chk_bind
    | intro _)

theorem execAwait_ok (k : BitVec 4) {s : State} (hok : s.Inv) : OutOk (execAwait k s) := by
  unfold execAwait
  try dsimp only
  repeat' (first
    | with_reducible assumption
    | with_reducible apply settle_ok
    | with_reducible apply State.changeToken_ok
    | with_reducible apply chk_ok
    | with_reducible apply chk_bind
    | intro _)

theorem execKget_ok (d : BitVec 6) (k : BitVec 4) {s : State} (hok : s.Inv) : OutOk (execKget d k s) := by
  unfold execKget
  try dsimp only
  repeat' (first
    | with_reducible assumption
    | with_reducible apply State.setG_ok
    | with_reducible apply out_next)

theorem execCsrr_ok (d : BitVec 6) (csr : BitVec 16) {s : State} (hok : s.Inv) : OutOk (execCsrr d csr s) := by
  unfold execCsrr
  try dsimp only
  repeat' (first
    | with_reducible assumption
    | with_reducible apply settle_ok
    | with_reducible apply State.setG_ok
    | with_reducible apply chk_ok
    | with_reducible apply chk_bind
    | intro _)

theorem execCsrw_ok (a : BitVec 6) (csr : BitVec 16) {s : State} (hok : s.Inv) : OutOk (execCsrw a csr s) := by
  unfold execCsrw
  try dsimp only
  repeat' (first
    | with_reducible assumption
    | with_reducible apply State.onCu_ok
    | with_reducible apply settle_ok
    | with_reducible apply chk_ok
    | with_reducible apply chk_bind
    | intro _)

theorem execTrap_ok (a : BitVec 6) (imm : BitVec 32) {s : State} (hok : s.Inv) : OutOk (execTrap a imm s) := by
  unfold execTrap
  try dsimp only
  repeat' (first
    | with_reducible assumption
    | with_reducible apply State.raise_ok
    | with_reducible apply out_next)

theorem execBrk_ok (imm : BitVec 32) {s : State} (hok : s.Inv) : OutOk (execBrk imm s) := by
  unfold execBrk
  try dsimp only
  repeat' (first
    | with_reducible assumption
    | with_reducible apply State.onMe_ok
    | with_reducible apply State.raise_ok
    | with_reducible apply out_next
    | split)

theorem execDoneOp_ok {s : State} (hok : s.Inv) : OutOk (execDoneOp s) := by
  unfold execDoneOp
  try dsimp only
  repeat' (first
    | with_reducible assumption
    | with_reducible apply State.onMe_ok
    | with_reducible apply settle_ok
    | with_reducible apply State.settleBars_ok
    | with_reducible apply chk_ok
    | with_reducible apply chk_bind
    | intro _)

theorem fenceWith_ok (f : Fence) {s : State} (hok : s.Inv) : OutOk (fenceWith f s) := by
  unfold fenceWith
  try dsimp only
  repeat' (first
    | with_reducible assumption
    | with_reducible apply settle_ok
    | with_reducible apply chk_ok
    | with_reducible apply chk_bind
    | intro _)

theorem execFenceCore_ok {s : State} (hok : s.Inv) : OutOk (execFenceCore s) := by
  unfold execFenceCore
  try dsimp only
  repeat' (first
    | with_reducible assumption
    | with_reducible apply fenceWith_ok)

theorem execFenceIsle_ok {s : State} (hok : s.Inv) : OutOk (execFenceIsle s) := by
  unfold execFenceIsle
  try dsimp only
  repeat' (first
    | with_reducible assumption
    | with_reducible apply fenceWith_ok)

theorem execFenceMod_ok {s : State} (hok : s.Inv) : OutOk (execFenceMod s) := by
  unfold execFenceMod
  try dsimp only
  repeat' (first
    | with_reducible assumption
    | with_reducible apply fenceWith_ok)

theorem execFenceSys_ok {s : State} (hok : s.Inv) : OutOk (execFenceSys s) := by
  unfold execFenceSys
  try dsimp only
  repeat' (first
    | with_reducible assumption
    | with_reducible apply fenceWith_ok)

end Sys2Proof.Machine
end

