-- ==== Sys2Proof/Laws/Keep2.lean ====
section
/-! SUPPORT. Every operation and every meaning keeps memory in its canonical form (CopyIssue, Tile, Array, Race, Streams, Uses, Sections, Routes, Mem, Copy, Flits, Strait, CopyRun). -/

namespace Sys2Proof.Machine
set_option Elab.async false
set_option linter.all false

theorem State.enter_ok {s : State} (hok : s.Inv) (ch : BitVec 4) (c : Cmd) : ChkOk (State.enter s ch c) := by
  unfold State.enter
  try dsimp only
  repeat' (first
    | with_reducible assumption
    | with_reducible apply State.onHere_ok
    | with_reducible apply chk_ok
    | with_reducible apply chk_bind
    | split
    | intro _)

theorem xferOne_ok (op : XOp) (src : List Nat) (dst : List Nat) (cd : BitVec 4) (ob : BitVec 6) (cs : BitVec 4) (oa : BitVec 6) (len : BitVec 6) (ch : BitVec 4) (tb : BitVec 12) (vs : Nat) {s : State} (hok : s.Inv) : OutOk (xferOne op src dst cd ob cs oa len ch tb vs s) := by
  unfold xferOne
  try dsimp only
  repeat' (first
    | with_reducible assumption
    | with_reducible apply settle_ok
    | with_reducible apply State.enter_ok
    | with_reducible apply chk_bind
    | intro _)

theorem execXget_ok (cd : BitVec 4) (ob : BitVec 6) (cs : BitVec 4) (oa : BitVec 6) (len : BitVec 6) (ch : BitVec 4) (tb : BitVec 12) {s : State} (hok : s.Inv) : OutOk (execXget cd ob cs oa len ch tb s) := by
  unfold execXget
  try dsimp only
  repeat' (first
    | with_reducible assumption
    | with_reducible apply xferOne_ok)

theorem execXput_ok (cd : BitVec 4) (ob : BitVec 6) (cs : BitVec 4) (oa : BitVec 6) (len : BitVec 6) (ch : BitVec 4) (tb : BitVec 12) (vs : BitVec 3) {s : State} (hok : s.Inv) : OutOk (execXput cd ob cs oa len ch tb vs s) := by
  unfold execXput
  try dsimp only
  repeat' (first
    | with_reducible assumption
    | with_reducible apply xferOne_ok)

theorem execXmove_ok (cd : BitVec 4) (ob : BitVec 6) (cs : BitVec 4) (oa : BitVec 6) (len : BitVec 6) (ch : BitVec 4) (tb : BitVec 12) (vs : BitVec 3) {s : State} (hok : s.Inv) : OutOk (execXmove cd ob cs oa len ch tb vs s) := by
  unfold execXmove
  try dsimp only
  repeat' (first
    | with_reducible assumption
    | with_reducible apply xferOne_ok)

theorem xferRows_ok (op : XOp) (src : List Nat) (dst : List Nat) (cd : BitVec 4) (ob : BitVec 6) (w : BitVec 6) (cs : BitVec 4) (oa : BitVec 6) (v : BitVec 6) (len : BitVec 6) (ch : BitVec 4) (tb : BitVec 12) (rows : BitVec 13) (vs : Nat) {s : State} (hok : s.Inv) : OutOk (xferRows op src dst cd ob w cs oa v len ch tb rows vs s) := by
  unfold xferRows
  try dsimp only
  repeat' (first
    | with_reducible assumption
    | with_reducible apply settle_ok
    | with_reducible apply State.enter_ok
    | with_reducible apply chk_bind
    | intro _)

theorem execXget2d_ok (cd : BitVec 4) (ob : BitVec 6) (w : BitVec 6) (cs : BitVec 4) (oa : BitVec 6) (v : BitVec 6) (len : BitVec 6) (ch : BitVec 4) (tb : BitVec 12) (rows : BitVec 13) {s : State} (hok : s.Inv) : OutOk (execXget2d cd ob w cs oa v len ch tb rows s) := by
  unfold execXget2d
  try dsimp only
  repeat' (first
    | with_reducible assumption
    | with_reducible apply xferRows_ok)

theorem execXput2d_ok (cd : BitVec 4) (ob : BitVec 6) (w : BitVec 6) (cs : BitVec 4) (oa : BitVec 6) (v : BitVec 6) (len : BitVec 6) (ch : BitVec 4) (tb : BitVec 12) (rows : BitVec 13) (vs : BitVec 3) {s : State} (hok : s.Inv) : OutOk (execXput2d cd ob w cs oa v len ch tb rows vs s) := by
  unfold execXput2d
  try dsimp only
  repeat' (first
    | with_reducible assumption
    | with_reducible apply xferRows_ok)

theorem xferList_ok (op : XOp) (src : List Nat) (dst : List Nat) (gat : Bool) (cd : BitVec 4) (ob : BitVec 6) (cs : BitVec 4) (oa : BitVec 6) (len : BitVec 6) (v : BitVec 6) (w : BitVec 6) (ch : BitVec 4) (tb : BitVec 12) (vs : Nat) {s : State} (hok : s.Inv) : OutOk (xferList op src dst gat cd ob cs oa len v w ch tb vs s) := by
  unfold xferList
  try dsimp only
  repeat' (first
    | with_reducible assumption
    | with_reducible apply settle_ok
    | with_reducible apply State.enter_ok
    | with_reducible apply chk_bind
    | split
    | intro _)

theorem execXgat_ok (cd : BitVec 4) (ob : BitVec 6) (cs : BitVec 4) (oa : BitVec 6) (len : BitVec 6) (v : BitVec 6) (w : BitVec 6) (ch : BitVec 4) (tb : BitVec 12) {s : State} (hok : s.Inv) : OutOk (execXgat cd ob cs oa len v w ch tb s) := by
  unfold execXgat
  try dsimp only
  repeat' (first
    | with_reducible assumption
    | with_reducible apply xferList_ok)

theorem execXsct_ok (cd : BitVec 4) (ob : BitVec 6) (cs : BitVec 4) (oa : BitVec 6) (len : BitVec 6) (v : BitVec 6) (w : BitVec 6) (ch : BitVec 4) (tb : BitVec 12) (vs : BitVec 3) {s : State} (hok : s.Inv) : OutOk (execXsct cd ob cs oa len v w ch tb vs s) := by
  unfold execXsct
  try dsimp only
  repeat' (first
    | with_reducible assumption
    | with_reducible apply xferList_ok)

theorem execXfill_ok (cd : BitVec 4) (ob : BitVec 6) (v : BitVec 6) (len : BitVec 6) (ch : BitVec 4) (tb : BitVec 12) (vs : BitVec 3) {s : State} (hok : s.Inv) : OutOk (execXfill cd ob v len ch tb vs s) := by
  unfold execXfill
  try dsimp only
  repeat' (first
    | with_reducible assumption
    | with_reducible apply settle_ok
    | with_reducible apply State.enter_ok
    | with_reducible apply chk_bind
    | intro _)

theorem State.nextSeq_ok {s : State} (hok : s.Inv) (rt : Nat) : (s.nextSeq rt).2.Inv := by
  unfold State.nextSeq
  split
  · exact hok
  · exact State.onMe_ok hok _

theorem xaccWith_ok (k : AccOp) (cd : BitVec 4) (ob : BitVec 6) (cs : BitVec 4) (oa : BitVec 6) (len : BitVec 6) (ch : BitVec 4) (rt : Nat) {s : State} (hok : s.Inv) : OutOk (xaccWith k cd ob cs oa len ch rt s) := by
  unfold xaccWith
  try dsimp only
  repeat' (first
    | with_reducible assumption
    | with_reducible apply settle_ok
    | with_reducible apply State.enter_ok
    | with_reducible apply State.nextSeq_ok
    | with_reducible apply chk_bind
    | intro _)

theorem execXaccAddS32_ok (cd : BitVec 4) (ob : BitVec 6) (cs : BitVec 4) (oa : BitVec 6) (len : BitVec 6) (ch : BitVec 4) {s : State} (hok : s.Inv) : OutOk (execXaccAddS32 cd ob cs oa len ch s) := by
  unfold execXaccAddS32
  try dsimp only
  repeat' (first
    | with_reducible assumption
    | with_reducible apply xaccWith_ok)

theorem execXaccAddS64_ok (cd : BitVec 4) (ob : BitVec 6) (cs : BitVec 4) (oa : BitVec 6) (len : BitVec 6) (ch : BitVec 4) {s : State} (hok : s.Inv) : OutOk (execXaccAddS64 cd ob cs oa len ch s) := by
  unfold execXaccAddS64
  try dsimp only
  repeat' (first
    | with_reducible assumption
    | with_reducible apply xaccWith_ok)

theorem execXaccAddF32_ok (cd : BitVec 4) (ob : BitVec 6) (cs : BitVec 4) (oa : BitVec 6) (len : BitVec 6) (ch : BitVec 4) (rt : BitVec 12) {s : State} (hok : s.Inv) : OutOk (execXaccAddF32 cd ob cs oa len ch rt s) := by
  unfold execXaccAddF32
  try dsimp only
  repeat' (first
    | with_reducible assumption
    | with_reducible apply xaccWith_ok)

theorem execXaccMinS32_ok (cd : BitVec 4) (ob : BitVec 6) (cs : BitVec 4) (oa : BitVec 6) (len : BitVec 6) (ch : BitVec 4) {s : State} (hok : s.Inv) : OutOk (execXaccMinS32 cd ob cs oa len ch s) := by
  unfold execXaccMinS32
  try dsimp only
  repeat' (first
    | with_reducible assumption
    | with_reducible apply xaccWith_ok)

theorem execXaccMaxS32_ok (cd : BitVec 4) (ob : BitVec 6) (cs : BitVec 4) (oa : BitVec 6) (len : BitVec 6) (ch : BitVec 4) {s : State} (hok : s.Inv) : OutOk (execXaccMaxS32 cd ob cs oa len ch s) := by
  unfold execXaccMaxS32
  try dsimp only
  repeat' (first
    | with_reducible assumption
    | with_reducible apply xaccWith_ok)

theorem execXaccMinF32_ok (cd : BitVec 4) (ob : BitVec 6) (cs : BitVec 4) (oa : BitVec 6) (len : BitVec 6) (ch : BitVec 4) {s : State} (hok : s.Inv) : OutOk (execXaccMinF32 cd ob cs oa len ch s) := by
  unfold execXaccMinF32
  try dsimp only
  repeat' (first
    | with_reducible assumption
    | with_reducible apply xaccWith_ok)

theorem execXaccMaxF32_ok (cd : BitVec 4) (ob : BitVec 6) (cs : BitVec 4) (oa : BitVec 6) (len : BitVec 6) (ch : BitVec 4) {s : State} (hok : s.Inv) : OutOk (execXaccMaxF32 cd ob cs oa len ch s) := by
  unfold execXaccMaxF32
  try dsimp only
  repeat' (first
    | with_reducible assumption
    | with_reducible apply xaccWith_ok)

theorem execXaccAnd_ok (cd : BitVec 4) (ob : BitVec 6) (cs : BitVec 4) (oa : BitVec 6) (len : BitVec 6) (ch : BitVec 4) {s : State} (hok : s.Inv) : OutOk (execXaccAnd cd ob cs oa len ch s) := by
  unfold execXaccAnd
  try dsimp only
  repeat' (first
    | with_reducible assumption
    | with_reducible apply xaccWith_ok)

theorem execXaccOr_ok (cd : BitVec 4) (ob : BitVec 6) (cs : BitVec 4) (oa : BitVec 6) (len : BitVec 6) (ch : BitVec 4) {s : State} (hok : s.Inv) : OutOk (execXaccOr cd ob cs oa len ch s) := by
  unfold execXaccOr
  try dsimp only
  repeat' (first
    | with_reducible assumption
    | with_reducible apply xaccWith_ok)

theorem execXaccXor_ok (cd : BitVec 4) (ob : BitVec 6) (cs : BitVec 4) (oa : BitVec 6) (len : BitVec 6) (ch : BitVec 4) {s : State} (hok : s.Inv) : OutOk (execXaccXor cd ob cs oa len ch s) := by
  unfold execXaccXor
  try dsimp only
  repeat' (first
    | with_reducible assumption
    | with_reducible apply xaccWith_ok)

theorem xatomWith_ok (op : XOp) (size : Nat) (need : BitVec 12) (cd : BitVec 4) (ob : BitVec 6) (v : BitVec 6) (w : BitVec 6) (cl : BitVec 4) (ol : BitVec 6) (ch : BitVec 4) (tb : BitVec 12) (task : Nat) (rt : Nat) {s : State} (hok : s.Inv) : OutOk (xatomWith op size need cd ob v w cl ol ch tb task rt s) := by
  unfold xatomWith
  try dsimp only
  repeat' (first
    | with_reducible assumption
    | with_reducible apply settle_ok
    | with_reducible apply State.enter_ok
    | with_reducible apply State.nextSeq_ok
    | with_reducible apply chk_bind
    | intro _)

theorem execXfaddS32_ok (cd : BitVec 4) (ob : BitVec 6) (v : BitVec 6) (cl : BitVec 4) (ol : BitVec 6) (ch : BitVec 4) (tb : BitVec 12) (rt : BitVec 12) {s : State} (hok : s.Inv) : OutOk (execXfaddS32 cd ob v cl ol ch tb rt s) := by
  unfold execXfaddS32
  try dsimp only
  repeat' (first
    | with_reducible assumption
    | with_reducible apply xatomWith_ok)

theorem execXfaddS64_ok (cd : BitVec 4) (ob : BitVec 6) (v : BitVec 6) (cl : BitVec 4) (ol : BitVec 6) (ch : BitVec 4) (tb : BitVec 12) (rt : BitVec 12) {s : State} (hok : s.Inv) : OutOk (execXfaddS64 cd ob v cl ol ch tb rt s) := by
  unfold execXfaddS64
  try dsimp only
  repeat' (first
    | with_reducible assumption
    | with_reducible apply xatomWith_ok)

theorem execXswp_ok (cd : BitVec 4) (ob : BitVec 6) (v : BitVec 6) (cl : BitVec 4) (ol : BitVec 6) (ch : BitVec 4) (tb : BitVec 12) (rt : BitVec 12) {s : State} (hok : s.Inv) : OutOk (execXswp cd ob v cl ol ch tb rt s) := by
  unfold execXswp
  try dsimp only
  repeat' (first
    | with_reducible assumption
    | with_reducible apply xatomWith_ok)

theorem execXcas_ok (cd : BitVec 4) (ob : BitVec 6) (v : BitVec 6) (w : BitVec 6) (cl : BitVec 4) (ol : BitVec 6) (ch : BitVec 4) (tb : BitVec 12) (rt : BitVec 12) {s : State} (hok : s.Inv) : OutOk (execXcas cd ob v w cl ol ch tb rt s) := by
  unfold execXcas
  try dsimp only
  repeat' (first
    | with_reducible assumption
    | with_reducible apply xatomWith_ok)

theorem execXcasGo_ok (cd : BitVec 4) (ob : BitVec 6) (v : BitVec 6) (w : BitVec 6) (cl : BitVec 4) (ol : BitVec 6) (ch : BitVec 4) (tb : BitVec 12) (task : BitVec 12) (rt : BitVec 12) {s : State} (hok : s.Inv) : OutOk (execXcasGo cd ob v w cl ol ch tb task rt s) := by
  unfold execXcasGo
  try dsimp only
  repeat' (first
    | with_reducible assumption
    | with_reducible apply xatomWith_ok)

theorem execXclose_ok (ch : BitVec 4) (rt : BitVec 12) {s : State} (hok : s.Inv) : OutOk (execXclose ch rt s) := by
  unfold execXclose
  try dsimp only
  repeat' (first
    | with_reducible assumption
    | with_reducible apply State.onMe_ok
    | with_reducible apply settle_ok
    | with_reducible apply State.enter_ok
    | with_reducible apply chk_bind
    | intro _)

theorem xwaitWith_ok (st : Core → BitVec 4 → BitVec 32) (v : BitVec 6) (ch : BitVec 4) {s : State} (hok : s.Inv) : OutOk (xwaitWith st v ch s) := by
  unfold xwaitWith
  try dsimp only
  repeat' (first
    | with_reducible assumption
    | with_reducible apply settle_ok
    | with_reducible apply chk_ok
    | with_reducible apply chk_bind
    | intro _)

theorem execXwaitIn_ok (v : BitVec 6) (ch : BitVec 4) {s : State} (hok : s.Inv) : OutOk (execXwaitIn v ch s) := by
  unfold execXwaitIn
  try dsimp only
  repeat' (first
    | with_reducible assumption
    | with_reducible apply xwaitWith_ok)

theorem execXwaitRel_ok (v : BitVec 6) (ch : BitVec 4) {s : State} (hok : s.Inv) : OutOk (execXwaitRel v ch s) := by
  unfold execXwaitRel
  try dsimp only
  repeat' (first
    | with_reducible assumption
    | with_reducible apply xwaitWith_ok)

theorem execXwaitVis_ok (v : BitVec 6) (ch : BitVec 4) {s : State} (hok : s.Inv) : OutOk (execXwaitVis v ch s) := by
  unfold execXwaitVis
  try dsimp only
  repeat' (first
    | with_reducible assumption
    | with_reducible apply xwaitWith_ok)

theorem execXid_ok (v : BitVec 6) (ch : BitVec 4) (aux : BitVec 3) {s : State} (hok : s.Inv) : OutOk (execXid v ch aux s) := by
  unfold execXid
  try dsimp only
  repeat' (first
    | with_reducible assumption
    | with_reducible apply State.setG_ok
    | with_reducible apply out_next)

theorem execXorder_ok {s : State} (hok : s.Inv) : OutOk (execXorder s) := by
  unfold execXorder
  try dsimp only
  repeat' (first
    | with_reducible assumption
    | with_reducible apply State.onHere_ok
    | with_reducible apply settle_ok
    | with_reducible apply chk_ok
    | with_reducible apply chk_bind
    | intro _)

theorem Hw.onRing_ok {h : Hw} (hok : h.Ok) (site : Nat) (ring : Nat) (f : Ring → Ring) : (Hw.onRing h site ring f).Ok := by
  unfold Hw.onRing
  try dsimp only
  repeat' with_reducible assumption

theorem execSopen_ok (q : BitVec 4) (r : BitVec 1) {s : State} (hok : s.Inv) : OutOk (execSopen q r s) := by
  unfold execSopen
  try dsimp only
  repeat' (first
    | with_reducible assumption
    | with_reducible apply State.upd_ok
    | with_reducible apply State.onMe_ok
    | with_reducible apply settle_ok
    | with_reducible apply Hw.onRing_ok
    | with_reducible apply chk_ok
    | with_reducible apply chk_bind
    | split
    | intro _)

theorem execSput_ok (d : BitVec 6) (q : BitVec 4) (a : BitVec 6) {s : State} (hok : s.Inv) : OutOk (execSput d q a s) := by
  unfold execSput
  try dsimp only
  repeat' (first
    | with_reducible assumption
    | with_reducible apply State.upd_ok
    | with_reducible apply State.onMe_ok
    | with_reducible apply settle_ok
    | with_reducible apply State.setG_ok
    | with_reducible apply chk_ok
    | with_reducible apply chk_trap
    | with_reducible apply chk_bind
    | split
    | intro _)

theorem execSget_ok (d : BitVec 6) (q : BitVec 4) (a : BitVec 6) {s : State} (hok : s.Inv) : OutOk (execSget d q a s) := by
  unfold execSget
  try dsimp only
  repeat' (first
    | with_reducible assumption
    | with_reducible apply State.upd_ok
    | with_reducible apply settle_ok
    | with_reducible apply State.setG_ok
    | with_reducible apply chk_ok
    | with_reducible apply chk_bind
    | split
    | intro _)

theorem execSclose_ok (q : BitVec 4) (sel : BitVec 2) {s : State} (hok : s.Inv) : OutOk (execSclose q sel s) := by
  unfold execSclose
  try dsimp only
  repeat' (first
    | with_reducible assumption
    | with_reducible apply State.upd_ok
    | with_reducible apply State.onMe_ok
    | with_reducible apply settle_ok
    | with_reducible apply Hw.onRing_ok
    | with_reducible apply chk_ok
    | with_reducible apply chk_bind
    | split
    | intro _)

theorem execSstat_ok (d : BitVec 6) (q : BitVec 4) {s : State} (hok : s.Inv) : OutOk (execSstat d q s) := by
  unfold execSstat
  try dsimp only
  repeat' (first
    | with_reducible assumption
    | with_reducible apply settle_ok
    | with_reducible apply State.setG_ok
    | with_reducible apply chk_ok
    | with_reducible apply chk_bind
    | intro _)

theorem execAwaitMem_ok (d : BitVec 6) (cb : BitVec 4) (x : BitVec 6) (sc : BitVec 3) (off : BitVec 32) {s : State} (hok : s.Inv) : OutOk (execAwaitMem d cb x sc off s) := by
  unfold execAwaitMem
  try dsimp only
  repeat' (first
    | with_reducible assumption
    | with_reducible apply State.onMe_ok
    | with_reducible apply settle_ok
    | with_reducible apply chk_ok
    | with_reducible apply chk_bind
    | intro _)

theorem State.onArrHere_ok {s : State} (hok : s.Inv) (f : Arr → Arr) : (State.onArrHere s f).Inv := by
  unfold State.onArrHere
  try dsimp only
  repeat' (first
    | with_reducible assumption
    | with_reducible apply Hw.onArr_ok
    | with_reducible apply State.upd_ok
    | intro _)

theorem Hw.endRun_ok {h : Hw} (hok : h.Ok) (co : CoreId) : (Hw.endRun h co).Ok := by
  unfold Hw.endRun
  try dsimp only
  repeat' (first
    | with_reducible assumption
    | with_reducible apply Hw.onCore_ok
    | with_reducible apply Hw.onArr_ok)

theorem execLease_ok (n : BitVec 7) {s : State} (hok : s.Inv) : OutOk (execLease n s) := by
  unfold execLease
  try dsimp only
  repeat' (first
    | with_reducible assumption
    | with_reducible apply State.onHere_ok
    | with_reducible apply settle_ok
    | with_reducible apply State.onArrHere_ok
    | with_reducible apply chk_ok
    | with_reducible apply chk_bind
    | intro _)

theorem execUnlease_ok {s : State} (hok : s.Inv) : OutOk (execUnlease s) := by
  unfold execUnlease
  try dsimp only
  repeat' (first
    | with_reducible assumption
    | with_reducible apply State.upd_ok
    | with_reducible apply settle_ok
    | with_reducible apply Hw.endRun_ok
    | with_reducible apply chk_ok
    | with_reducible apply chk_bind
    | intro _)

theorem State.spendLease_ok {s : State} (hok : s.Inv) : (State.spendLease s).Inv := by
  unfold State.spendLease
  try dsimp only
  repeat' (first
    | with_reducible assumption
    | with_reducible apply State.upd_ok
    | with_reducible apply State.onHere_ok
    | with_reducible apply Hw.endRun_ok
    | split
    | intro _)

theorem execFtset_ok (d : BitVec 4) (a : BitVec 6) {s : State} (hok : s.Inv) : OutOk (execFtset d a s) := by
  unfold execFtset
  try dsimp only
  repeat' (first
    | with_reducible assumption
    | with_reducible apply State.onCu_ok
    | with_reducible apply settle_ok
    | with_reducible apply chk_ok
    | with_reducible apply chk_bind
    | intro _)

theorem execFtget_ok (d : BitVec 6) (a : BitVec 4) {s : State} (hok : s.Inv) : OutOk (execFtget d a s) := by
  unfold execFtget
  try dsimp only
  repeat' (first
    | with_reducible assumption
    | with_reducible apply State.setG_ok
    | with_reducible apply out_next)

theorem execTload_ok (ab : BitVec 6) (prof : BitVec 8) (rows : BitVec 8) {s : State} (hok : s.Inv) : OutOk (execTload ab prof rows s) := by
  unfold execTload
  try dsimp only
  repeat' (first
    | with_reducible assumption
    | with_reducible apply settle_ok
    | with_reducible apply State.onArrHere_ok
    | with_reducible apply State.spendLease_ok
    | with_reducible apply chk_ok
    | with_reducible apply chk_bind
    | split
    | intro _)

theorem tileWith_ok (ga : Bool) (slot : BitVec 4) (aa : BitVec 6) (ab : BitVec 6) (prof : BitVec 8) (rows : BitVec 8) (land : BitVec 8) (cops : BitVec 32) {s : State} (hok : s.Inv) : OutOk (tileWith ga slot aa ab prof rows land cops s) := by
  unfold tileWith
  try dsimp only
  repeat' (first
    | with_reducible assumption
    | with_reducible apply settle_ok
    | with_reducible apply State.takeSlot_ok
    | with_reducible apply State.spendLease_ok
    | with_reducible apply chk_ok
    | with_reducible apply chk_bind_st
    | with_reducible apply chk_bind
    | split
    | intro _)

theorem execTmma_ok (slot : BitVec 4) (aa : BitVec 6) (ab : BitVec 6) (prof : BitVec 8) (rows : BitVec 8) (land : BitVec 8) (cops : BitVec 32) {s : State} (hok : s.Inv) : OutOk (execTmma slot aa ab prof rows land cops s) := by
  unfold execTmma
  try dsimp only
  repeat' (first
    | with_reducible assumption
    | with_reducible apply tileWith_ok)

theorem execTmmaGa_ok (slot : BitVec 4) (aa : BitVec 6) (ab : BitVec 6) (prof : BitVec 8) (rows : BitVec 8) (land : BitVec 8) (cops : BitVec 32) {s : State} (hok : s.Inv) : OutOk (execTmmaGa slot aa ab prof rows land cops s) := by
  unfold execTmmaGa
  try dsimp only
  repeat' (first
    | with_reducible assumption
    | with_reducible apply tileWith_ok)

theorem execTzero_ok (slot : BitVec 4) (rows : BitVec 8) {s : State} (hok : s.Inv) : OutOk (execTzero slot rows s) := by
  unfold execTzero
  try dsimp only
  repeat' (first
    | with_reducible assumption
    | with_reducible apply Hw.putNum_ok
    | with_reducible apply State.upd_ok
    | with_reducible apply settle_ok
    | with_reducible apply foldl_ok
    | with_reducible apply chk_ok
    | with_reducible apply chk_bind
    | intro _)

theorem execTaccRd_ok (vd : BitVec 6) (c : BitVec 8) (clr : BitVec 1) (mk : BitVec 3) {s : State} (hok : s.Inv) : OutOk (execTaccRd vd c clr mk s) := by
  unfold execTaccRd
  try dsimp only
  repeat' (first
    | with_reducible assumption
    | with_reducible apply Hw.putNum_ok
    | with_reducible apply State.upd_ok
    | with_reducible apply settle_ok
    | with_reducible apply vmerge_ok
    | with_reducible apply foldl_ok
    | with_reducible apply chk_ok
    | with_reducible apply chk_bind
    | split
    | intro _)

theorem execTaccWr_ok (va : BitVec 6) (c : BitVec 8) (mk : BitVec 3) {s : State} (hok : s.Inv) : OutOk (execTaccWr va c mk s) := by
  unfold execTaccWr
  try dsimp only
  repeat' (first
    | with_reducible assumption
    | with_reducible apply Hw.putNum_ok
    | with_reducible apply State.upd_ok
    | with_reducible apply settle_ok
    | with_reducible apply foldl_ok
    | with_reducible apply chk_ok
    | with_reducible apply chk_bind
    | intro _)

theorem execTshape_ok (d : BitVec 6) (a : BitVec 6) (prof : BitVec 8) {s : State} (hok : s.Inv) : OutOk (execTshape d a prof s) := by
  unfold execTshape
  try dsimp only
  repeat' (first
    | with_reducible assumption
    | with_reducible apply settle_ok
    | with_reducible apply State.setG_ok
    | with_reducible apply chk_ok
    | with_reducible apply chk_bind
    | split
    | intro _)

theorem execTcal_ok (d : BitVec 6) (segs : BitVec 4) {s : State} (hok : s.Inv) : OutOk (execTcal d segs s) := by
  unfold execTcal
  try dsimp only
  repeat' (first
    | with_reducible assumption
    | with_reducible apply settle_ok
    | with_reducible apply State.onArrHere_ok
    | with_reducible apply chk_ok
    | with_reducible apply chk_bind
    | split
    | intro _)

theorem raceWith_ok (ks : RaceKeys) (desc : Bool) (vd : BitVec 6) (va : BitVec 6) (vb : BitVec 6) (vc : BitVec 6) (mk : BitVec 3) (n : Nat) (land : BitVec 8) {s : State} (hok : s.Inv) : OutOk (raceWith ks desc vd va vb vc mk n land s) := by
  unfold raceWith
  try dsimp only
  repeat' (first
    | with_reducible assumption
    | with_reducible apply settle_ok
    | with_reducible apply State.takeSlot_ok
    | with_reducible apply chk_bind
    | split
    | intro _)

theorem execRminF32_ok (vd : BitVec 6) (va : BitVec 6) (vb : BitVec 6) (vc : BitVec 6) (mk : BitVec 3) (k : BitVec 7) (land : BitVec 8) {s : State} (hok : s.Inv) : OutOk (execRminF32 vd va vb vc mk k land s) := by
  unfold execRminF32
  try dsimp only
  repeat' (first
    | with_reducible assumption
    | with_reducible apply raceWith_ok)

theorem execRmaxF32_ok (vd : BitVec 6) (va : BitVec 6) (vb : BitVec 6) (vc : BitVec 6) (mk : BitVec 3) (k : BitVec 7) (land : BitVec 8) {s : State} (hok : s.Inv) : OutOk (execRmaxF32 vd va vb vc mk k land s) := by
  unfold execRmaxF32
  try dsimp only
  repeat' (first
    | with_reducible assumption
    | with_reducible apply raceWith_ok)

theorem execRminS32_ok (vd : BitVec 6) (va : BitVec 6) (vb : BitVec 6) (vc : BitVec 6) (mk : BitVec 3) (k : BitVec 7) (land : BitVec 8) {s : State} (hok : s.Inv) : OutOk (execRminS32 vd va vb vc mk k land s) := by
  unfold execRminS32
  try dsimp only
  repeat' (first
    | with_reducible assumption
    | with_reducible apply raceWith_ok)

theorem execRmaxS32_ok (vd : BitVec 6) (va : BitVec 6) (vb : BitVec 6) (vc : BitVec 6) (mk : BitVec 3) (k : BitVec 7) (land : BitVec 8) {s : State} (hok : s.Inv) : OutOk (execRmaxS32 vd va vb vc mk k land s) := by
  unfold execRmaxS32
  try dsimp only
  repeat' (first
    | with_reducible assumption
    | with_reducible apply raceWith_ok)

theorem execRsortF32_ok (vd : BitVec 6) (va : BitVec 6) (vb : BitVec 6) (vc : BitVec 6) (mk : BitVec 3) (k : BitVec 7) (land : BitVec 8) {s : State} (hok : s.Inv) : OutOk (execRsortF32 vd va vb vc mk k land s) := by
  unfold execRsortF32
  try dsimp only
  repeat' (first
    | with_reducible assumption
    | with_reducible apply raceWith_ok)

theorem execRsortdF32_ok (vd : BitVec 6) (va : BitVec 6) (vb : BitVec 6) (vc : BitVec 6) (mk : BitVec 3) (k : BitVec 7) (land : BitVec 8) {s : State} (hok : s.Inv) : OutOk (execRsortdF32 vd va vb vc mk k land s) := by
  unfold execRsortdF32
  try dsimp only
  repeat' (first
    | with_reducible assumption
    | with_reducible apply raceWith_ok)

theorem execRsortS32_ok (vd : BitVec 6) (va : BitVec 6) (vb : BitVec 6) (vc : BitVec 6) (mk : BitVec 3) (k : BitVec 7) (land : BitVec 8) {s : State} (hok : s.Inv) : OutOk (execRsortS32 vd va vb vc mk k land s) := by
  unfold execRsortS32
  try dsimp only
  repeat' (first
    | with_reducible assumption
    | with_reducible apply raceWith_ok)

theorem execRtopkF32_ok (vd : BitVec 6) (va : BitVec 6) (vb : BitVec 6) (vc : BitVec 6) (mk : BitVec 3) (k : BitVec 7) (land : BitVec 8) {s : State} (hok : s.Inv) : OutOk (execRtopkF32 vd va vb vc mk k land s) := by
  unfold execRtopkF32
  try dsimp only
  repeat' (first
    | with_reducible assumption
    | with_reducible apply raceWith_ok)

theorem execRbotkF32_ok (vd : BitVec 6) (va : BitVec 6) (vb : BitVec 6) (vc : BitVec 6) (mk : BitVec 3) (k : BitVec 7) (land : BitVec 8) {s : State} (hok : s.Inv) : OutOk (execRbotkF32 vd va vb vc mk k land s) := by
  unfold execRbotkF32
  try dsimp only
  repeat' (first
    | with_reducible assumption
    | with_reducible apply raceWith_ok)

theorem execRtopkS32_ok (vd : BitVec 6) (va : BitVec 6) (vb : BitVec 6) (vc : BitVec 6) (mk : BitVec 3) (k : BitVec 7) (land : BitVec 8) {s : State} (hok : s.Inv) : OutOk (execRtopkS32 vd va vb vc mk k land s) := by
  unfold execRtopkS32
  try dsimp only
  repeat' (first
    | with_reducible assumption
    | with_reducible apply raceWith_ok)

theorem execRmergeF32_ok (vd : BitVec 6) (va : BitVec 6) (vb : BitVec 6) (vc : BitVec 6) (mk : BitVec 3) (k : BitVec 7) (land : BitVec 8) {s : State} (hok : s.Inv) : OutOk (execRmergeF32 vd va vb vc mk k land s) := by
  unfold execRmergeF32
  try dsimp only
  repeat' (first
    | with_reducible assumption
    | with_reducible apply raceWith_ok)

theorem execRmergdF32_ok (vd : BitVec 6) (va : BitVec 6) (vb : BitVec 6) (vc : BitVec 6) (mk : BitVec 3) (k : BitVec 7) (land : BitVec 8) {s : State} (hok : s.Inv) : OutOk (execRmergdF32 vd va vb vc mk k land s) := by
  unfold execRmergdF32
  try dsimp only
  repeat' (first
    | with_reducible assumption
    | with_reducible apply raceWith_ok)

theorem execRknnF32_ok (vd : BitVec 6) (va : BitVec 6) (vb : BitVec 6) (vc : BitVec 6) (mk : BitVec 3) (k : BitVec 7) (land : BitVec 8) {s : State} (hok : s.Inv) : OutOk (execRknnF32 vd va vb vc mk k land s) := by
  unfold execRknnF32
  try dsimp only
  repeat' (first
    | with_reducible assumption
    | with_reducible apply raceWith_ok)

theorem Hw.onEng_ok {h : Hw} (hok : h.Ok) (co : CoreId) (e : EngId) (f : Eng → Eng) : (Hw.onEng h co e f).Ok := by
  unfold Hw.onEng
  try dsimp only
  repeat' (first
    | with_reducible assumption
    | with_reducible apply Hw.onCore_ok)

theorem Hw.enterWaits_ok {h : Hw} (hok : h.Ok) (co : CoreId) (e : EngId) (x : Sect) : (Hw.enterWaits h co e x).Ok := by
  unfold Hw.enterWaits
  try dsimp only
  repeat' (first
    | with_reducible assumption
    | with_reducible apply Hw.engTrap_ok
    | with_reducible apply Hw.onEng_ok
    | split)

theorem Hw.reach_ok {h : Hw} (hok : h.Ok) (co : CoreId) (e : EngId) (hdr : Nat) (x : Header) (pc : Nat) : (Hw.reach h co e hdr x pc).Ok := by
  unfold Hw.reach
  try dsimp only
  repeat' (first
    | with_reducible assumption
    | with_reducible apply Hw.onEng_ok
    | with_reducible apply Hw.enterWaits_ok)

theorem Hw.walkTo_ok {h : Hw} (hok : h.Ok) (co : CoreId) (e : EngId) (n a : Nat) : (h.walkTo co e n a).Ok := by
  induction n generalizing a with
  | zero => exact hok
  | succ n ih =>
    unfold Hw.walkTo
    dsimp only
    repeat' (first
      | with_reducible apply Hw.engTrap_ok
      | with_reducible apply Hw.reach_ok
      | with_reducible assumption
      | with_reducible apply ih
      | split)

theorem Hw.followXfer_ok {h : Hw} (hok : h.Ok) (co : CoreId) (e : EngId) (from_ : BitVec 48) (t : Int) : (Hw.followXfer h co e from_ t).Ok := by
  unfold Hw.followXfer
  try dsimp only
  repeat' (first
    | with_reducible assumption
    | with_reducible apply Hw.engTrap_ok
    | with_reducible apply Hw.reach_ok
    | split)

theorem execSectionEntry_ok (co : CoreId) (e : EngId) {s : State} (hok : s.Inv) : OutOk (execSectionEntry co e s) := by
  unfold execSectionEntry
  try dsimp only
  repeat' (first
    | with_reducible assumption
    | with_reducible apply State.upd_ok
    | with_reducible apply Hw.enterWaits_ok
    | with_reducible apply Hw.walkTo_ok
    | with_reducible apply Hw.followXfer_ok
    | with_reducible apply out_next
    | split
    | intro _)

theorem Hw.changePath_ok {h : Hw} (hok : h.Ok) (c : PathChange) : (Hw.changePath h c).Ok := by
  unfold Hw.changePath
  try dsimp only
  repeat' (first
    | with_reducible assumption
    | split)

theorem Hw.settleRoutes_ok {h : Hw} (hok : h.Ok) : (Hw.settleRoutes h).Ok := by
  unfold Hw.settleRoutes
  try dsimp only
  repeat' (first
    | with_reducible assumption
    | with_reducible apply Hw.changePath_ok
    | with_reducible apply foldl_ok
    | split
    | intro _)

theorem Hw.askPath_ok {h : Hw} (hok : h.Ok) (c : PathChange) : (Hw.askPath h c).Ok := by
  unfold Hw.askPath
  try dsimp only
  repeat' (first
    | with_reducible assumption
    | with_reducible apply Hw.settleRoutes_ok)

theorem Hw.await_ok {h : Hw} (hok : h.Ok) : (Hw.await h).Ok := by
  unfold Hw.await
  try dsimp only
  repeat' (first
    | with_reducible assumption
    | with_reducible apply foldl_ok
    | with_reducible apply foldl_pair_ok
    | refine ok_of_some (by with_reducible assumption) ?_
    | refine ok_of_pair (by with_reducible assumption) ?_
    | refine ok_of_some2 (by with_reducible assumption) ?_
    | with_reducible apply State.upd_ok
    | with_reducible apply State.attempt_ok
    | with_reducible apply settle_ok
    | with_reducible apply chk_ok
    | with_reducible apply chk_err
    | with_reducible apply chk_trap
    | with_reducible apply chk_bind_st
    | with_reducible apply chk_bind
    | with_reducible apply out_next
    | with_reducible apply opt_getD
    | with_reducible apply opt_none
    | with_reducible apply opt_some
    | with_reducible apply opt_map
    | with_reducible apply opt_bind
    | split
    | intro _
    | dsimp only
    | assumption)

theorem Hw.atRest_ok {h : Hw} (hok : h.Ok) : (Hw.atRest h).Ok := by
  unfold Hw.atRest
  try dsimp only
  repeat' (first
    | with_reducible assumption
    | with_reducible apply foldl_ok
    | with_reducible apply foldl_pair_ok
    | refine ok_of_some (by with_reducible assumption) ?_
    | refine ok_of_pair (by with_reducible assumption) ?_
    | refine ok_of_some2 (by with_reducible assumption) ?_
    | with_reducible apply State.upd_ok
    | with_reducible apply State.attempt_ok
    | with_reducible apply settle_ok
    | with_reducible apply chk_ok
    | with_reducible apply chk_err
    | with_reducible apply chk_trap
    | with_reducible apply chk_bind_st
    | with_reducible apply chk_bind
    | with_reducible apply out_next
    | with_reducible apply opt_getD
    | with_reducible apply opt_none
    | with_reducible apply opt_some
    | with_reducible apply opt_map
    | with_reducible apply opt_bind
    | split
    | intro _
    | dsimp only
    | assumption)

theorem State.attempt_ok {s : State} (w : s.Inv) (f : Hw → Hw) (wf : ∀ h, Hw.Ok h → (f h).Ok) : (s.attempt f).Inv := by
  have k := wf s.toHw.atRest w
  unfold State.attempt
  dsimp only
  split
  · exact w
  · exact k

theorem Hw.onSlice_ok {h : Hw} (hok : h.Ok) (site : Nat) (slice : Nat) (f : Slice → Slice) : (Hw.onSlice h site slice f).Ok := by
  unfold Hw.onSlice
  try dsimp only
  repeat' with_reducible assumption

theorem Hw.onHome_ok {h : Hw} (hok : h.Ok) (pa : Nat) (f : Slice → Slice) : (Hw.onHome h pa f).Ok := by
  unfold Hw.onHome
  try dsimp only
  repeat' (first
    | with_reducible assumption
    | with_reducible apply Hw.onSlice_ok)

theorem Hw.onLine_ok {h : Hw} (hok : h.Ok) (pa : Nat) (f : LineMeta → LineMeta) : (Hw.onLine h pa f).Ok := by
  unfold Hw.onLine
  try dsimp only
  repeat' with_reducible assumption

theorem Hw.checkLine_ok {h : Hw} (hok : h.Ok) (pa : Nat) (ecc : Ecc) : (Hw.checkLine h pa ecc).2.Ok := by
  unfold Hw.checkLine
  try dsimp only
  repeat' (first
    | with_reducible assumption
    | with_reducible apply Hw.onHome_ok
    | with_reducible apply Hw.onLine_ok
    | split)

theorem Hw.wake_ok {h : Hw} (hok : h.Ok) (co : CoreId) (e : EngId) (status : Nat) : (Hw.wake h co e status).Ok := by
  unfold Hw.wake
  try dsimp only
  repeat' (first
    | with_reducible assumption
    | with_reducible apply Hw.onEng_ok)

theorem Hw.releaseMonitors_ok {h : Hw} (hok : h.Ok) (site : Nat) (status : Nat) (p : Monitor → Bool) : (Hw.releaseMonitors h site status p).Ok := by
  unfold Hw.releaseMonitors
  try dsimp only
  repeat' (first
    | with_reducible assumption
    | with_reducible apply Hw.wake_ok
    | with_reducible apply foldl_ok
    | intro _)

theorem Hw.writeLine_ok {h : Hw} (hok : h.Ok) (pa : Nat) (bs : List Byte) (stamp : LineMeta) : (Hw.writeLine h pa bs stamp).Ok := by
  unfold Hw.writeLine
  try dsimp only
  repeat' (first
    | with_reducible assumption
    | with_reducible apply Hw.write_ok
    | with_reducible apply Hw.onLine_ok
    | with_reducible apply Hw.checkLine_ok
    | with_reducible apply Hw.releaseMonitors_ok
    | split)

theorem Hw.writeLines_ok {h : Hw} (hok : h.Ok) (pa : Nat) (bs : List Byte) (stamp : LineMeta) : (Hw.writeLines h pa bs stamp).Ok := by
  unfold Hw.writeLines
  try dsimp only
  repeat' (first
    | with_reducible assumption
    | with_reducible apply Hw.writeLine_ok
    | with_reducible apply foldl_ok
    | intro _)

theorem Hw.checkCuts_ok {h : Hw} (hok : h.Ok) (cuts : List (Nat × Nat)) : (Hw.checkCuts h cuts).Ok := by
  unfold Hw.checkCuts
  try dsimp only
  repeat' (first
    | with_reducible assumption
    | with_reducible apply Hw.checkLine_ok
    | with_reducible apply foldl_ok
    | split
    | intro _)

theorem Hw.meetErrs_ok {h : Hw} (hok : h.Ok) (reads : Hw → Bool) : (Hw.meetErrs h reads).Ok := by
  unfold Hw.meetErrs
  try dsimp only
  repeat' (first
    | with_reducible assumption
    | with_reducible apply Hw.checkLine_ok
    | with_reducible apply foldl_ok
    | split
    | intro _)

theorem Hw.onPage_ok {h : Hw} (hok : h.Ok) (pa : Nat) (f : PageCnt → PageCnt) : (Hw.onPage h pa f).Ok := by
  unfold Hw.onPage
  try dsimp only
  repeat' with_reducible assumption

theorem Hw.meetBar_ok {h : Hw} (hok : h.Ok) (m : Master) (op : Nat) (pas : List Nat) : (Hw.meetBar h m op pas).Ok := by
  unfold Hw.meetBar
  try dsimp only
  repeat' (first
    | with_reducible assumption
    | with_reducible apply Hw.await_ok
    | with_reducible apply Hw.onHome_ok
    | with_reducible apply foldl_ok
    | with_reducible apply foldl_pair_ok
    | refine ok_of_some (by with_reducible assumption) ?_
    | refine ok_of_pair (by with_reducible assumption) ?_
    | refine ok_of_some2 (by with_reducible assumption) ?_
    | with_reducible apply State.upd_ok
    | with_reducible apply State.attempt_ok
    | with_reducible apply settle_ok
    | with_reducible apply chk_ok
    | with_reducible apply chk_err
    | with_reducible apply chk_trap
    | with_reducible apply chk_bind_st
    | with_reducible apply chk_bind
    | with_reducible apply out_next
    | with_reducible apply opt_getD
    | with_reducible apply opt_none
    | with_reducible apply opt_some
    | with_reducible apply opt_map
    | with_reducible apply opt_bind
    | split
    | intro _
    | dsimp only
    | assumption)

theorem Hw.writeAs_ok {h : Hw} (hok : h.Ok) (m : Master) (pa : Nat) (bs : List Byte) : (Hw.writeAs h m pa bs).Ok := by
  unfold Hw.writeAs
  try dsimp only
  repeat' (first
    | with_reducible assumption
    | with_reducible apply Hw.writeLine_ok
    | with_reducible apply Hw.meetBar_ok
    | with_reducible apply foldl_ok
    | with_reducible apply foldl_pair_ok
    | refine ok_of_some (by with_reducible assumption) ?_
    | refine ok_of_pair (by with_reducible assumption) ?_
    | refine ok_of_some2 (by with_reducible assumption) ?_
    | with_reducible apply State.upd_ok
    | with_reducible apply State.attempt_ok
    | with_reducible apply settle_ok
    | with_reducible apply chk_ok
    | with_reducible apply chk_err
    | with_reducible apply chk_trap
    | with_reducible apply chk_bind_st
    | with_reducible apply chk_bind
    | with_reducible apply out_next
    | with_reducible apply opt_getD
    | with_reducible apply opt_none
    | with_reducible apply opt_some
    | with_reducible apply opt_map
    | with_reducible apply opt_bind
    | split
    | intro _
    | dsimp only
    | assumption)

theorem Hw.onQuay_ok {h : Hw} (hok : h.Ok) (q : Nat) (f : Quay → Quay) : (Hw.onQuay h q f).Ok := by
  unfold Hw.onQuay
  try dsimp only
  repeat' with_reducible assumption

theorem Hw.maxShadow_ok {h : Hw} (hok : h.Ok) (n : Nat) (v : BitVec 64) : (Hw.maxShadow h n v).Ok := by
  unfold Hw.maxShadow
  try dsimp only
  repeat' (first
    | with_reducible assumption
    | with_reducible apply Hw.writeAs_ok
    | with_reducible apply foldl_ok
    | with_reducible apply foldl_pair_ok
    | refine ok_of_some (by with_reducible assumption) ?_
    | refine ok_of_pair (by with_reducible assumption) ?_
    | refine ok_of_some2 (by with_reducible assumption) ?_
    | with_reducible apply State.upd_ok
    | with_reducible apply State.attempt_ok
    | with_reducible apply settle_ok
    | with_reducible apply chk_ok
    | with_reducible apply chk_err
    | with_reducible apply chk_trap
    | with_reducible apply chk_bind_st
    | with_reducible apply chk_bind
    | with_reducible apply out_next
    | with_reducible apply opt_getD
    | with_reducible apply opt_none
    | with_reducible apply opt_some
    | with_reducible apply opt_map
    | with_reducible apply opt_bind
    | split
    | intro _
    | dsimp only
    | assumption)

theorem Hw.notify_ok {h : Hw} (hok : h.Ok) (n : Nat) (v : BitVec 64) : (Hw.notify h n v).Ok := by
  unfold Hw.notify
  try dsimp only
  repeat' (first
    | with_reducible assumption
    | with_reducible apply Hw.onQuay_ok
    | with_reducible apply Hw.maxShadow_ok
    | split)

theorem Hw.bellWrite_ok {h : Hw} (hok : h.Ok) (m : Master) (n : Nat) (off : Nat) (bs : List Byte) : (Hw.bellWrite h m n off bs).2.Ok := by
  unfold Hw.bellWrite
  try dsimp only
  repeat' (first
    | with_reducible assumption
    | with_reducible apply Hw.onQuay_ok
    | with_reducible apply Hw.notify_ok
    | split)

theorem Hw.askWalk_ok {h : Hw} (hok : h.Ok) (isle : Nat) (c : BitVec 4) (va : Nat) (who : WalkFor) : (Hw.askWalk h isle c va who).Ok := by
  unfold Hw.askWalk
  try dsimp only
  repeat' (first
    | with_reducible assumption
    | with_reducible apply Hw.onIsle_ok)

theorem Hw.walkRead_ok {h : Hw} (hok : h.Ok) (m : Master) (va f level table : Nat) : (h.walkRead m va f level table).2.Ok := by
  induction f generalizing h level table with
  | zero => exact hok
  | succ f ih =>
    unfold Hw.walkRead
    dsimp only
    split
    · exact hok
    split
    · exact hok
    split
    · exact Hw.onHome_ok hok _ _
    · have w := Hw.checkLine_ok hok (table + 8 * walkIndex va level) .clean
      split
      · exact w
      · split
        · exact w
        · split
          · exact w
          · exact ih w _ _

theorem Hw.faultCmd_ok {h : Hw} (hok : h.Ok) (co : CoreId) (uid : Nat) (code : Byte) (addr : Int) (detail : BitVec 256) : (Hw.faultCmd h co uid code addr detail).Ok := by
  unfold Hw.faultCmd
  try dsimp only
  repeat' (first
    | with_reducible assumption
    | with_reducible apply Hw.setCore_ok
    | with_reducible apply Hw.takeTrap_ok
    | split)

theorem Hw.portCheck_ok {h : Hw} (hok : h.Ok) (t : CoreId) (o : Nat) (m : Master) (op : Nat) (write : Bool) : (Hw.portCheck h t o m op write).2.Ok := by
  unfold Hw.portCheck
  try dsimp only
  repeat' (first
    | with_reducible assumption
    | with_reducible apply Hw.onIsle_ok
    | split)

theorem Hw.sliceCheck_ok {h : Hw} (hok : h.Ok) (pa : Nat) (m : Master) (op : Nat) (write : Bool) : (Hw.sliceCheck h pa m op write).2.Ok := by
  unfold Hw.sliceCheck
  try dsimp only
  repeat' (first
    | with_reducible assumption
    | with_reducible apply Hw.onHome_ok
    | split)

theorem Hw.reachOf_ok {h : Hw} (hok : h.Ok) (co : CoreId) (t : Task) (reg : Nat) (c : CReg) (a : Int) (n : Nat) (op : Nat) (write : Bool) : (Hw.reachOf h co t reg c a n op write).2.Ok := by
  unfold Hw.reachOf
  try dsimp only
  repeat' (first
    | with_reducible assumption
    | with_reducible apply Hw.portCheck_ok
    | with_reducible apply Hw.sliceCheck_ok
    | split)

theorem Hw.fill_ok {h : Hw} (hok : h.Ok) (co : CoreId) (c : Cmd) (s : Span) : (Hw.fill h co c s).Ok := by
  unfold Hw.fill
  try dsimp only
  repeat' (first
    | with_reducible assumption
    | with_reducible apply Hw.setFull_ok
    | with_reducible apply foldl_ok
    | split
    | intro _)

theorem Hw.landBytes_ok {h : Hw} (hok : h.Ok) (k : Nat) (bs : List (Byte × Bool)) : (Hw.landBytes h k bs).Ok := by
  unfold Hw.landBytes
  try dsimp only
  repeat' (first
    | with_reducible assumption
    | with_reducible apply Hw.write_ok
    | with_reducible apply Hw.setMark_ok
    | with_reducible apply foldl_ok
    | split
    | intro _)

theorem Hw.advanceCmd_ok {h : Hw} (hok : h.Ok) (co : CoreId) (uid : Nat) (n : Nat) : (Hw.advanceCmd h co uid n).Ok := by
  unfold Hw.advanceCmd
  try dsimp only
  repeat' (first
    | with_reducible assumption
    | with_reducible apply Hw.onCore_ok
    | with_reducible apply Hw.arriveAt_ok
    | with_reducible apply Hw.onCmd_ok
    | with_reducible apply Hw.faultCmd_ok
    | with_reducible apply Hw.fill_ok
    | refine ok_of_some (by with_reducible assumption) ?_
    | split)

theorem Hw.landAt_ok {h : Hw} (hok : h.Ok) (co : CoreId) (uid : Nat) (c : Cmd) (k : Nat) : (Hw.landAt h co uid c k).Ok := by
  unfold Hw.landAt
  try dsimp only
  repeat' (first
    | with_reducible assumption
    | with_reducible apply Hw.write_ok
    | with_reducible apply Hw.setTag_ok
    | with_reducible apply Hw.faultCmd_ok
    | with_reducible apply Hw.landBytes_ok
    | with_reducible apply Hw.advanceCmd_ok
    | split)

theorem Hw.onPort_ok {h : Hw} (hok : h.Ok) (p : Nat) (f : Port → Port) : (Hw.onPort h p f).Ok := by
  unfold Hw.onPort
  try dsimp only
  repeat' (first
    | with_reducible assumption
    | split)

theorem Hw.tellAll_ok {h : Hw} (hok : h.Ok) : (Hw.tellAll h).Ok := by
  unfold Hw.tellAll
  try dsimp only
  repeat' with_reducible assumption

theorem Hw.release_ok {h : Hw} (hok : h.Ok) (table : Nat) (i : Fin 3) : (Hw.release h table i).Ok := by
  unfold Hw.release
  try dsimp only
  repeat' (first
    | with_reducible assumption
    | with_reducible apply Hw.onPort_ok
    | split)

theorem Hw.offer_ok {h : Hw} (hok : h.Ok) (e : Nat) (r : Routed) : (Hw.offer h e r).Ok := by
  unfold Hw.offer
  try dsimp only
  repeat' (first
    | with_reducible assumption
    | with_reducible apply Hw.onPort_ok
    | with_reducible apply Hw.release_ok
    | split)

theorem Hw.forward_ok {h : Hw} (hok : h.Ok) (r : Routed) : OptOk (Hw.forward h r) := by
  unfold Hw.forward
  try dsimp only
  repeat' (first
    | with_reducible assumption
    | with_reducible apply Hw.onPort_ok
    | with_reducible apply Hw.offer_ok
    | with_reducible apply opt_map
    | split
    | intro _)

theorem Hw.takeResponse_ok {h : Hw} (hok : h.Ok) (f : Flit) : (Hw.takeResponse h f).Ok := by
  unfold Hw.takeResponse
  try dsimp only
  repeat' (first
    | with_reducible assumption
    | with_reducible apply Hw.onCmd_ok
    | with_reducible apply Hw.faultCmd_ok
    | with_reducible apply Hw.advanceCmd_ok
    | split)

theorem Hw.originate_ok {h : Hw} (hok : h.Ok) (f : Flit) : (Hw.originate h f).Ok := by
  unfold Hw.originate
  try dsimp only
  repeat' (first
    | with_reducible assumption
    | with_reducible apply Hw.forward_ok
    | with_reducible apply Hw.takeResponse_ok
    | with_reducible apply opt_getD
    | split)

theorem Hw.unreached_ok {h : Hw} (hok : h.Ok) (r : Routed) : (Hw.unreached h r).Ok := by
  unfold Hw.unreached
  try dsimp only
  repeat' (first
    | with_reducible assumption
    | with_reducible apply Hw.release_ok
    | with_reducible apply Hw.takeResponse_ok
    | with_reducible apply Hw.originate_ok
    | split)

theorem Hw.route_ok {h : Hw} (hok : h.Ok) (r : Routed) : (Hw.route h r).Ok := by
  unfold Hw.route
  try dsimp only
  repeat' (first
    | with_reducible assumption
    | with_reducible apply Hw.forward_ok
    | with_reducible apply Hw.unreached_ok
    | with_reducible apply opt_getD)

theorem Hw.retry_ok {h : Hw} (hok : h.Ok) (table : Nat) : (Hw.retry h table).Ok := by
  unfold Hw.retry
  try dsimp only
  repeat' (first
    | with_reducible assumption
    | with_reducible apply Hw.onPort_ok
    | with_reducible apply Hw.route_ok
    | with_reducible apply foldl_ok
    | intro _)

theorem Hw.answered_ok {h : Hw} (hok : h.Ok) (f : Flit) : (Hw.answered h f).Ok := by
  unfold Hw.answered
  try dsimp only
  repeat' (first
    | with_reducible assumption
    | with_reducible apply Hw.onPort_ok
    | with_reducible apply Hw.retry_ok
    | with_reducible apply foldl_ok
    | split
    | intro _)

theorem Hw.enqueueFlit_ok {h : Hw} (hok : h.Ok) (port : Nat) (pa : Nat) (f : Flit) (cuts : List (Nat × Nat × List Byte)) (write : Bool) : (Hw.enqueueFlit h port pa f cuts write).Ok := by
  unfold Hw.enqueueFlit
  try dsimp only
  repeat' (first
    | with_reducible assumption
    | with_reducible apply Hw.onHome_ok
    | with_reducible apply foldl_ok
    | intro _)

theorem Hw.forgetWrites_ok {h : Hw} (hok : h.Ok) (f : Flit) : (Hw.forgetWrites h f).Ok := by
  unfold Hw.forgetWrites
  try dsimp only
  repeat' with_reducible assumption

theorem Hw.windowRequest_ok {h : Hw} (hok : h.Ok) (port : Nat) (f : Flit) : (Hw.windowRequest h port f).Ok := by
  unfold Hw.windowRequest
  try dsimp only
  repeat' (first
    | with_reducible assumption
    | with_reducible apply Hw.write_ok
    | with_reducible apply Hw.await_ok
    | with_reducible apply Hw.onHome_ok
    | with_reducible apply Hw.onQuay_ok
    | with_reducible apply Hw.bellWrite_ok
    | with_reducible apply Hw.originate_ok
    | with_reducible apply Hw.enqueueFlit_ok
    | with_reducible apply Hw.forgetWrites_ok
    | with_reducible apply foldl_ok
    | with_reducible apply foldl_pair_ok
    | refine ok_of_some (by with_reducible assumption) ?_
    | refine ok_of_pair (by with_reducible assumption) ?_
    | refine ok_of_some2 (by with_reducible assumption) ?_
    | with_reducible apply State.upd_ok
    | with_reducible apply State.attempt_ok
    | with_reducible apply settle_ok
    | with_reducible apply chk_ok
    | with_reducible apply chk_err
    | with_reducible apply chk_trap
    | with_reducible apply chk_bind_st
    | with_reducible apply chk_bind
    | with_reducible apply out_next
    | with_reducible apply opt_getD
    | with_reducible apply opt_none
    | with_reducible apply opt_some
    | with_reducible apply opt_map
    | with_reducible apply opt_bind
    | split
    | intro _
    | dsimp only
    | assumption)

theorem Hw.flitLine_ok {h : Hw} (hok : h.Ok) (port : Nat) (f : Flit) (off : Nat) (bs : List Byte) (status : Byte) : (Hw.flitLine h port f off bs status).Ok := by
  unfold Hw.flitLine
  try dsimp only
  repeat' (first
    | with_reducible assumption
    | with_reducible apply Hw.originate_ok
    | split)

theorem Hw.notice_ok {h : Hw} (hok : h.Ok) (from_ : Option Nat) (bs : List Byte) : (Hw.notice h from_ bs).Ok := by
  unfold Hw.notice
  try dsimp only
  repeat' (first
    | with_reducible assumption
    | with_reducible apply Hw.offer_ok
    | with_reducible apply foldl_ok
    | split
    | intro _)

theorem Hw.failPort_ok {h : Hw} (hok : h.Ok) (p : Nat) (cause : BitVec 8) : (Hw.failPort h p cause).Ok := by
  unfold Hw.failPort
  try dsimp only
  repeat' (first
    | with_reducible assumption
    | with_reducible apply Hw.onPort_ok
    | with_reducible apply Hw.tellAll_ok
    | with_reducible apply Hw.route_ok
    | with_reducible apply Hw.retry_ok
    | with_reducible apply Hw.notice_ok
    | with_reducible apply foldl_ok
    | intro _)

theorem Hw.raisePort_ok {h : Hw} (hok : h.Ok) (p : Nat) : (Hw.raisePort h p).Ok := by
  unfold Hw.raisePort
  try dsimp only
  repeat' (first
    | with_reducible assumption
    | with_reducible apply Hw.onPort_ok
    | with_reducible apply Hw.tellAll_ok)

theorem Hw.drain_ok {h : Hw} (hok : h.Ok) (p : Nat) : (Hw.drain h p).Ok := by
  unfold Hw.drain
  try dsimp only
  repeat' (first
    | with_reducible assumption
    | with_reducible apply Hw.onPort_ok
    | with_reducible apply Hw.offer_ok
    | with_reducible apply foldl_ok
    | intro _)

theorem Hw.recoveryBytes_ok {h : Hw} (hok : h.Ok) (p : Nat) (f : Flit) : (Hw.recoveryBytes h p f).Ok := by
  unfold Hw.recoveryBytes
  try dsimp only
  repeat' (first
    | with_reducible assumption
    | split)

theorem Hw.deliver_ok {h : Hw} (hok : h.Ok) (p : Nat) (f : Flit) : (Hw.deliver h p f).Ok := by
  unfold Hw.deliver
  try dsimp only
  repeat' (first
    | with_reducible assumption
    | with_reducible apply Hw.takeResponse_ok
    | with_reducible apply Hw.windowRequest_ok
    | with_reducible apply Hw.recoveryBytes_ok
    | split)

theorem Hw.acceptFlit_ok {h : Hw} (hok : h.Ok) (p : Nat) (f : Flit) : (Hw.acceptFlit h p f).Ok := by
  unfold Hw.acceptFlit
  try dsimp only
  repeat' (first
    | with_reducible assumption
    | with_reducible apply Hw.onPort_ok
    | with_reducible apply Hw.release_ok
    | with_reducible apply Hw.originate_ok
    | with_reducible apply Hw.route_ok
    | with_reducible apply Hw.answered_ok
    | with_reducible apply Hw.notice_ok
    | with_reducible apply Hw.deliver_ok
    | split)

theorem execFlitReceive_ok (p : Nat) (bytes : List Byte) (crc : BitVec 64) {s : State} (hok : s.Inv) : OutOk (execFlitReceive p bytes crc s) := by
  unfold execFlitReceive
  try dsimp only
  repeat' (first
    | with_reducible assumption
    | with_reducible apply State.attempt_ok
    | with_reducible apply Hw.onPort_ok
    | with_reducible apply Hw.tellAll_ok
    | with_reducible apply Hw.drain_ok
    | with_reducible apply Hw.acceptFlit_ok
    | with_reducible apply foldl_ok
    | with_reducible apply foldl_pair_ok
    | refine ok_of_some (by with_reducible assumption) ?_
    | refine ok_of_pair (by with_reducible assumption) ?_
    | refine ok_of_some2 (by with_reducible assumption) ?_
    | with_reducible apply State.upd_ok
    | with_reducible apply State.attempt_ok
    | with_reducible apply settle_ok
    | with_reducible apply chk_ok
    | with_reducible apply chk_err
    | with_reducible apply chk_trap
    | with_reducible apply chk_bind_st
    | with_reducible apply chk_bind
    | with_reducible apply out_next
    | with_reducible apply opt_getD
    | with_reducible apply opt_none
    | with_reducible apply opt_some
    | with_reducible apply opt_map
    | with_reducible apply opt_bind
    | split
    | intro _
    | dsimp only
    | assumption)

theorem execFlitReplay_ok (p : Nat) {s : State} (hok : s.Inv) : OutOk (execFlitReplay p s) := by
  unfold execFlitReplay
  try dsimp only
  repeat' (first
    | with_reducible assumption
    | with_reducible apply State.upd_ok
    | with_reducible apply Hw.onPort_ok
    | with_reducible apply Hw.failPort_ok
    | with_reducible apply out_next
    | split
    | intro _)

theorem execPortDown_ok (p : Nat) (cause : BitVec 8) {s : State} (hok : s.Inv) : OutOk (execPortDown p cause s) := by
  unfold execPortDown
  try dsimp only
  repeat' (first
    | with_reducible assumption
    | with_reducible apply State.upd_ok
    | with_reducible apply Hw.failPort_ok
    | with_reducible apply out_next
    | split
    | intro _)

theorem execPortUp_ok (p : Nat) {s : State} (hok : s.Inv) : OutOk (execPortUp p s) := by
  unfold execPortUp
  try dsimp only
  repeat' (first
    | with_reducible assumption
    | with_reducible apply State.upd_ok
    | with_reducible apply Hw.raisePort_ok
    | with_reducible apply out_next
    | split
    | intro _)

theorem execRtgenFlip_ok (table : Nat) (gen : Bool) {s : State} (hok : s.Inv) : OutOk (execRtgenFlip table gen s) := by
  unfold execRtgenFlip
  try dsimp only
  repeat' (first
    | with_reducible assumption
    | with_reducible apply State.upd_ok
    | with_reducible apply Hw.onPort_ok
    | with_reducible apply out_next
    | intro _)

theorem Hw.startCmd_ok {h : Hw} (hok : h.Ok) (co : CoreId) (c : Cmd) : (Hw.startCmd h co c).Ok := by
  unfold Hw.startCmd
  try dsimp only
  repeat' (first
    | with_reducible assumption
    | with_reducible apply Hw.setCore_ok
    | with_reducible apply Hw.faultCmd_ok
    | split)

theorem execCopyCommandStart_ok (co : CoreId) (q : QSel) {s : State} (hok : s.Inv) : OutOk (execCopyCommandStart co q s) := by
  unfold execCopyCommandStart
  try dsimp only
  repeat' (first
    | with_reducible assumption
    | with_reducible apply State.upd_ok
    | with_reducible apply Hw.startCmd_ok
    | with_reducible apply out_next
    | split
    | intro _)

theorem Hw.askSlice_ok {h : Hw} (hok : h.Ok) (co : CoreId) (c : Cmd) (write : Bool) (pa : Nat) (a : Span) (data : List Byte) : (Hw.askSlice h co c write pa a data).Ok := by
  unfold Hw.askSlice
  try dsimp only
  repeat' (first
    | with_reducible assumption
    | with_reducible apply Hw.onCmd_ok
    | with_reducible apply Hw.onHome_ok)

theorem Hw.askWindow_ok {h : Hw} (hok : h.Ok) (co : CoreId) (c : Cmd) (write : Bool) (a : Span) (data : List Byte) : (Hw.askWindow h co c write a data).Ok := by
  unfold Hw.askWindow
  try dsimp only
  repeat' (first
    | with_reducible assumption
    | with_reducible apply Hw.write_ok
    | with_reducible apply Hw.onCmd_ok
    | with_reducible apply Hw.await_ok
    | with_reducible apply Hw.originate_ok
    | with_reducible apply Hw.windowRequest_ok
    | with_reducible apply foldl_ok
    | with_reducible apply foldl_pair_ok
    | refine ok_of_some (by with_reducible assumption) ?_
    | refine ok_of_pair (by with_reducible assumption) ?_
    | refine ok_of_some2 (by with_reducible assumption) ?_
    | with_reducible apply State.upd_ok
    | with_reducible apply State.attempt_ok
    | with_reducible apply settle_ok
    | with_reducible apply chk_ok
    | with_reducible apply chk_err
    | with_reducible apply chk_trap
    | with_reducible apply chk_bind_st
    | with_reducible apply chk_bind
    | with_reducible apply out_next
    | with_reducible apply opt_getD
    | with_reducible apply opt_none
    | with_reducible apply opt_some
    | with_reducible apply opt_map
    | with_reducible apply opt_bind
    | split
    | intro _
    | dsimp only
    | assumption)

theorem Hw.askPage_ok {h : Hw} (hok : h.Ok) (co : CoreId) (c : Cmd) (a : Span) (write : Bool) : (Hw.askPage h co c a write).Ok := by
  unfold Hw.askPage
  try dsimp only
  repeat' (first
    | with_reducible assumption
    | with_reducible apply Hw.onCmd_ok
    | with_reducible apply Hw.askWalk_ok
    | split)

theorem Hw.cellStop_ok {h : Hw} (hok : h.Ok) (co : CoreId) (c : Cmd) (a : Span) (k : Nat) : OptOk (Hw.cellStop h co c a k) := by
  unfold Hw.cellStop
  try dsimp only
  repeat' (first
    | with_reducible assumption
    | with_reducible apply Hw.noteIsle_ok
    | with_reducible apply Hw.faultCmd_ok
    | with_reducible apply foldl_ok
    | with_reducible apply foldl_pair_ok
    | refine ok_of_some (by with_reducible assumption) ?_
    | refine ok_of_pair (by with_reducible assumption) ?_
    | refine ok_of_some2 (by with_reducible assumption) ?_
    | with_reducible apply State.upd_ok
    | with_reducible apply State.attempt_ok
    | with_reducible apply settle_ok
    | with_reducible apply chk_ok
    | with_reducible apply chk_err
    | with_reducible apply chk_trap
    | with_reducible apply chk_bind_st
    | with_reducible apply chk_bind
    | with_reducible apply out_next
    | with_reducible apply opt_getD
    | with_reducible apply opt_none
    | with_reducible apply opt_some
    | with_reducible apply opt_map
    | with_reducible apply opt_bind
    | split
    | intro _
    | dsimp only
    | assumption)

theorem Hw.readNext_ok {h : Hw} (hok : h.Ok) (co : CoreId) (c : Cmd) : (Hw.readNext h co c).Ok := by
  unfold Hw.readNext
  try dsimp only
  repeat' (first
    | with_reducible assumption
    | with_reducible apply Hw.onCmd_ok
    | with_reducible apply Hw.faultCmd_ok
    | with_reducible apply Hw.reachOf_ok
    | with_reducible apply Hw.askSlice_ok
    | with_reducible apply Hw.askWindow_ok
    | with_reducible apply Hw.askPage_ok
    | with_reducible apply Hw.cellStop_ok
    | with_reducible apply foldl_ok
    | with_reducible apply foldl_pair_ok
    | refine ok_of_some (by with_reducible assumption) ?_
    | refine ok_of_pair (by with_reducible assumption) ?_
    | refine ok_of_some2 (by with_reducible assumption) ?_
    | with_reducible apply State.upd_ok
    | with_reducible apply State.attempt_ok
    | with_reducible apply settle_ok
    | with_reducible apply chk_ok
    | with_reducible apply chk_err
    | with_reducible apply chk_trap
    | with_reducible apply chk_bind_st
    | with_reducible apply chk_bind
    | with_reducible apply out_next
    | with_reducible apply opt_getD
    | with_reducible apply opt_none
    | with_reducible apply opt_some
    | with_reducible apply opt_map
    | with_reducible apply opt_bind
    | split
    | intro _
    | dsimp only
    | assumption)

theorem Hw.writeNext_ok {h : Hw} (hok : h.Ok) (co : CoreId) (c : Cmd) : (Hw.writeNext h co c).Ok := by
  unfold Hw.writeNext
  try dsimp only
  repeat' (first
    | with_reducible assumption
    | with_reducible apply Hw.bellWrite_ok
    | with_reducible apply Hw.faultCmd_ok
    | with_reducible apply Hw.reachOf_ok
    | with_reducible apply Hw.advanceCmd_ok
    | with_reducible apply Hw.landAt_ok
    | with_reducible apply Hw.askSlice_ok
    | with_reducible apply Hw.askWindow_ok
    | with_reducible apply Hw.askPage_ok
    | with_reducible apply Hw.cellStop_ok
    | with_reducible apply foldl_ok
    | with_reducible apply foldl_pair_ok
    | refine ok_of_some (by with_reducible assumption) ?_
    | refine ok_of_pair (by with_reducible assumption) ?_
    | refine ok_of_some2 (by with_reducible assumption) ?_
    | with_reducible apply State.upd_ok
    | with_reducible apply State.attempt_ok
    | with_reducible apply settle_ok
    | with_reducible apply chk_ok
    | with_reducible apply chk_err
    | with_reducible apply chk_trap
    | with_reducible apply chk_bind_st
    | with_reducible apply chk_bind
    | with_reducible apply out_next
    | with_reducible apply opt_getD
    | with_reducible apply opt_none
    | with_reducible apply opt_some
    | with_reducible apply opt_map
    | with_reducible apply opt_bind
    | split
    | intro _
    | dsimp only
    | assumption)

theorem execCopyProgress_ok (co : CoreId) (n : Nat) {s : State} (hok : s.Inv) : OutOk (execCopyProgress co n s) := by
  unfold execCopyProgress
  try dsimp only
  repeat' (first
    | with_reducible assumption
    | with_reducible apply State.upd_ok
    | with_reducible apply State.attempt_ok
    | with_reducible apply Hw.faultCmd_ok
    | with_reducible apply Hw.readNext_ok
    | with_reducible apply Hw.writeNext_ok
    | with_reducible apply foldl_ok
    | with_reducible apply foldl_pair_ok
    | refine ok_of_some (by with_reducible assumption) ?_
    | refine ok_of_pair (by with_reducible assumption) ?_
    | refine ok_of_some2 (by with_reducible assumption) ?_
    | with_reducible apply State.upd_ok
    | with_reducible apply State.attempt_ok
    | with_reducible apply settle_ok
    | with_reducible apply chk_ok
    | with_reducible apply chk_err
    | with_reducible apply chk_trap
    | with_reducible apply chk_bind_st
    | with_reducible apply chk_bind
    | with_reducible apply out_next
    | with_reducible apply opt_getD
    | with_reducible apply opt_none
    | with_reducible apply opt_some
    | with_reducible apply opt_map
    | with_reducible apply opt_bind
    | split
    | intro _
    | dsimp only
    | assumption)

theorem execCopyVisible_ok (co : CoreId) (n : Nat) {s : State} (hok : s.Inv) : OutOk (execCopyVisible co n s) := by
  unfold execCopyVisible
  try dsimp only
  repeat' (first
    | with_reducible assumption
    | with_reducible apply Hw.onCore_ok
    | with_reducible apply State.upd_ok
    | with_reducible apply Hw.onCmd_ok
    | with_reducible apply out_next
    | split
    | intro _)

theorem execXorderHead_ok (co : CoreId) (q : QSel) {s : State} (hok : s.Inv) : OutOk (execXorderHead co q s) := by
  unfold execXorderHead
  try dsimp only
  repeat' (first
    | with_reducible assumption
    | with_reducible apply State.upd_ok
    | with_reducible apply Hw.onCmd_ok
    | with_reducible apply out_next
    | split
    | intro _)

theorem execXorderLeave_ok (co : CoreId) (q : QSel) {s : State} (hok : s.Inv) : OutOk (execXorderLeave co q s) := by
  unfold execXorderLeave
  try dsimp only
  repeat' (first
    | with_reducible assumption
    | with_reducible apply Hw.onCore_ok
    | with_reducible apply State.upd_ok
    | with_reducible apply out_next
    | split
    | intro _)

theorem Hw.failAmem_ok {h : Hw} (hok : h.Ok) (co : CoreId) (e : EngId) (code : Byte) (detail : BitVec 256) : (Hw.failAmem h co e code detail).Ok := by
  unfold Hw.failAmem
  try dsimp only
  repeat' (first
    | with_reducible assumption
    | with_reducible apply Hw.takeTrap_ok
    | with_reducible apply Hw.onEng_ok
    | split)

theorem Hw.failTile_ok {h : Hw} (hok : h.Ok) (co : CoreId) (slot : Nat) (code : Byte) (va : Nat) (row : Nat) (detail : BitVec 256) : (Hw.failTile h co slot code va row detail).Ok := by
  unfold Hw.failTile
  try dsimp only
  repeat' (first
    | with_reducible assumption
    | with_reducible apply Hw.onCore_ok
    | with_reducible apply Hw.takeTrap_ok
    | split)

theorem Hw.walkFault_ok {h : Hw} (hok : h.Ok) (isle : Nat) (ctx : BitVec 4) (code : Byte) (detail : Option (BitVec 256)) (who : WalkFor) : (Hw.walkFault h isle ctx code detail who).Ok := by
  unfold Hw.walkFault
  try dsimp only
  repeat' (first
    | with_reducible assumption
    | with_reducible apply Hw.faultCmd_ok
    | with_reducible apply Hw.failAmem_ok
    | with_reducible apply Hw.failTile_ok
    | split)

theorem Hw.walkDone_ok {h : Hw} (hok : h.Ok) (who : WalkFor) : (Hw.walkDone h who).Ok := by
  unfold Hw.walkDone
  try dsimp only
  repeat' (first
    | with_reducible assumption
    | with_reducible apply Hw.onCmd_ok
    | split)

theorem Hw.walkAnswer_ok {h : Hw} (hok : h.Ok) (m : Master) (c : Ctx) (va : Nat) : (Hw.walkAnswer h m c va).2.Ok := by
  unfold Hw.walkAnswer
  try dsimp only
  repeat' (first
    | with_reducible assumption
    | with_reducible apply Hw.walkRead_ok
    | split)

theorem Hw.endWalk_ok {h : Hw} (hok : h.Ok) (isle : Nat) (w : Walk) : (Hw.endWalk h isle w).Ok := by
  unfold Hw.endWalk
  try dsimp only
  repeat' (first
    | with_reducible assumption
    | with_reducible apply Hw.onIsle_ok
    | with_reducible apply Hw.await_ok
    | with_reducible apply Hw.walkFault_ok
    | with_reducible apply Hw.walkDone_ok
    | with_reducible apply Hw.walkAnswer_ok
    | with_reducible apply foldl_ok
    | with_reducible apply foldl_pair_ok
    | refine ok_of_some (by with_reducible assumption) ?_
    | refine ok_of_pair (by with_reducible assumption) ?_
    | refine ok_of_some2 (by with_reducible assumption) ?_
    | with_reducible apply State.upd_ok
    | with_reducible apply State.attempt_ok
    | with_reducible apply settle_ok
    | with_reducible apply chk_ok
    | with_reducible apply chk_err
    | with_reducible apply chk_trap
    | with_reducible apply chk_bind_st
    | with_reducible apply chk_bind
    | with_reducible apply out_next
    | with_reducible apply opt_getD
    | with_reducible apply opt_none
    | with_reducible apply opt_some
    | with_reducible apply opt_map
    | with_reducible apply opt_bind
    | split
    | intro _
    | dsimp only
    | assumption)

theorem execPageWalkComplete_ok (isle : Nat) (n : Nat) {s : State} (hok : s.Inv) : OutOk (execPageWalkComplete isle n s) := by
  unfold execPageWalkComplete
  try dsimp only
  repeat' (first
    | with_reducible assumption
    | with_reducible apply Hw.onIsle_ok
    | with_reducible apply State.attempt_ok
    | with_reducible apply Hw.endWalk_ok
    | with_reducible apply foldl_ok
    | with_reducible apply foldl_pair_ok
    | refine ok_of_some (by with_reducible assumption) ?_
    | refine ok_of_pair (by with_reducible assumption) ?_
    | refine ok_of_some2 (by with_reducible assumption) ?_
    | with_reducible apply State.upd_ok
    | with_reducible apply State.attempt_ok
    | with_reducible apply settle_ok
    | with_reducible apply chk_ok
    | with_reducible apply chk_err
    | with_reducible apply chk_trap
    | with_reducible apply chk_bind_st
    | with_reducible apply chk_bind
    | with_reducible apply out_next
    | with_reducible apply opt_getD
    | with_reducible apply opt_none
    | with_reducible apply opt_some
    | with_reducible apply opt_map
    | with_reducible apply opt_bind
    | split
    | intro _
    | dsimp only
    | assumption)

theorem pushInval_ok (isle : Nat) (v : Inval) {s : State} (hok : s.Inv) : (pushInval isle v s).Inv := by
  unfold pushInval
  try dsimp only
  repeat' (first
    | with_reducible assumption
    | with_reducible apply Hw.onIsle_ok
    | with_reducible apply State.upd_ok
    | intro _)

theorem execItuinvVa_ok (isle : Nat) (ctx : BitVec 4) (va : BitVec 32) {s : State} (hok : s.Inv) : OutOk (execItuinvVa isle ctx va s) := by
  unfold execItuinvVa
  try dsimp only
  repeat' (first
    | with_reducible assumption
    | with_reducible apply pushInval_ok
    | with_reducible apply out_next)

theorem execItuinvContext_ok (isle : Nat) (ctx : BitVec 4) {s : State} (hok : s.Inv) : OutOk (execItuinvContext isle ctx s) := by
  unfold execItuinvContext
  try dsimp only
  repeat' (first
    | with_reducible assumption
    | with_reducible apply pushInval_ok
    | with_reducible apply out_next)

theorem execItuinvAll_ok (isle : Nat) {s : State} (hok : s.Inv) : OutOk (execItuinvAll isle s) := by
  unfold execItuinvAll
  try dsimp only
  repeat' (first
    | with_reducible assumption
    | with_reducible apply pushInval_ok
    | with_reducible apply out_next)

theorem execItuinvComplete_ok (isle : Nat) {s : State} (hok : s.Inv) : OutOk (execItuinvComplete isle s) := by
  unfold execItuinvComplete
  try dsimp only
  repeat' (first
    | with_reducible assumption
    | with_reducible apply Hw.onIsle_ok
    | with_reducible apply State.upd_ok
    | with_reducible apply out_next
    | split
    | intro _)

end Sys2Proof.Machine
end

