-- ==== Sys2Proof/Laws/Keep3.lean ====
section
/-! SUPPORT. Every operation and every meaning keeps memory in its canonical form (Service, QueueState, FaultLog, Rmw, Between, Land, Square, Timetable, Frames, Images). -/

namespace Sys2Proof.Machine
set_option Elab.async false
set_option linter.all false

theorem Hw.applyChange_ok {h : Hw} (hok : h.Ok) (isle : Nat) (c : SvcChange) : (Hw.applyChange h isle c).Ok := by
  unfold Hw.applyChange
  try dsimp only
  repeat' (first
    | with_reducible assumption
    | with_reducible apply Hw.onArr_ok
    | with_reducible apply Hw.onIsle_ok
    | split)

theorem Hw.serveMark_ok {h : Hw} (hok : h.Ok) (isle : Nat) (ins : Nat) : (Hw.serveMark h isle ins).Ok := by
  unfold Hw.serveMark
  try dsimp only
  repeat' (first
    | with_reducible assumption
    | with_reducible apply Hw.onCore_ok
    | with_reducible apply Hw.setArr_ok
    | split)

theorem Hw.applyPending_ok {h : Hw} (hok : h.Ok) (isle : Nat) : (Hw.applyPending h isle).Ok := by
  unfold Hw.applyPending
  try dsimp only
  repeat' (first
    | with_reducible assumption
    | with_reducible apply Hw.onArr_ok
    | with_reducible apply Hw.onIsle_ok
    | with_reducible apply Hw.applyChange_ok
    | with_reducible apply Hw.serveMark_ok
    | with_reducible apply foldl_ok
    | split
    | intro _)

theorem Hw.settlePending_ok {h : Hw} (hok : h.Ok) (isle : Nat) : (Hw.settlePending h isle).Ok := by
  unfold Hw.settlePending
  try dsimp only
  repeat' (first
    | with_reducible assumption
    | with_reducible apply Hw.applyPending_ok
    | split)

theorem Hw.withdraw_ok {h : Hw} (hok : h.Ok) (isle : Nat) (c : SvcChange) : (Hw.withdraw h isle c).Ok := by
  unfold Hw.withdraw
  try dsimp only
  repeat' (first
    | with_reducible assumption
    | with_reducible apply Hw.onIsle_ok
    | with_reducible apply Hw.settlePending_ok)

theorem Hw.withdrawAt_ok {h : Hw} (hok : h.Ok) (site : Nat) (k : Nat) (a : Nat) (b : Nat) : (Hw.withdrawAt h site k a b).Ok := by
  unfold Hw.withdrawAt
  try dsimp only
  repeat' (first
    | with_reducible assumption
    | with_reducible apply Hw.askPath_ok
    | with_reducible apply Hw.withdraw_ok
    | split)

theorem Hw.freeIsle_ok {h : Hw} (hok : h.Ok) (isle : Nat) (c : BitVec 4) (keep : Bool) : (Hw.freeIsle h isle c keep).Ok := by
  unfold Hw.freeIsle
  try dsimp only
  repeat' (first
    | with_reducible assumption
    | with_reducible apply Hw.onIsle_ok)

theorem Hw.setQueue_ok {h : Hw} (hok : h.Ok) (q : Nat) (x : HQueue) : (Hw.setQueue h q x).Ok := by
  unfold Hw.setQueue
  try dsimp only
  repeat' with_reducible assumption

theorem Hw.onQueue_ok {h : Hw} (hok : h.Ok) (q : Nat) (f : HQueue → HQueue) : (Hw.onQueue h q f).Ok := by
  unfold Hw.onQueue
  try dsimp only
  repeat' (first
    | with_reducible assumption
    | with_reducible apply Hw.setQueue_ok)

theorem Hw.onDbSlot_ok {h : Hw} (hok : h.Ok) (q : Nat) (f : DbSlot → DbSlot) : (Hw.onDbSlot h q f).Ok := by
  unfold Hw.onDbSlot
  try dsimp only
  repeat' (first
    | with_reducible assumption
    | with_reducible apply Hw.onQuay_ok
    | split)

theorem Hw.unmapQueue_ok {h : Hw} (hok : h.Ok) (q : Nat) : (Hw.unmapQueue h q).Ok := by
  unfold Hw.unmapQueue
  try dsimp only
  repeat' (first
    | with_reducible assumption
    | with_reducible apply Hw.onQuay_ok
    | with_reducible apply Hw.maxShadow_ok
    | with_reducible apply Hw.onQueue_ok
    | split)

theorem Hw.settleUnmap_ok {h : Hw} (hok : h.Ok) (q : Nat) : (Hw.settleUnmap h q).Ok := by
  unfold Hw.settleUnmap
  try dsimp only
  repeat' (first
    | with_reducible assumption
    | with_reducible apply Hw.unmapQueue_ok
    | split)

theorem Hw.unmapOnce_ok {h : Hw} (hok : h.Ok) (q : Nat) : (Hw.unmapOnce h q).Ok := by
  unfold Hw.unmapOnce
  try dsimp only
  repeat' (first
    | with_reducible assumption
    | with_reducible apply Hw.onQuay_ok
    | with_reducible apply Hw.settleUnmap_ok
    | split)

theorem Hw.discardStart_ok {h : Hw} (hok : h.Ok) (q : Nat) : (Hw.discardStart h q).Ok := by
  unfold Hw.discardStart
  try dsimp only
  repeat' (first
    | with_reducible assumption
    | with_reducible apply Hw.settlePending_ok
    | with_reducible apply Hw.freeIsle_ok
    | with_reducible apply Hw.onQueue_ok
    | with_reducible apply foldl_ok
    | with_reducible apply foldl_pair_ok
    | refine ok_of_some (by with_reducible assumption) ?_
    | refine ok_of_pair (by with_reducible assumption) ?_
    | refine ok_of_some2 (by with_reducible assumption) ?_
    | with_reducible apply State.upd_ok
    | with_reducible apply State.attempt_ok
    | with_reducible apply settle_ok
    | with_reducible apply chk_ok
    | with_reducible apply chk_err
    | with_reducible apply chk_trap
    | with_reducible apply chk_bind_st
    | with_reducible apply chk_bind
    | with_reducible apply out_next
    | with_reducible apply opt_getD
    | with_reducible apply opt_none
    | with_reducible apply opt_some
    | with_reducible apply opt_map
    | with_reducible apply opt_bind
    | split
    | intro _
    | dsimp only
    | assumption)

theorem Hw.queueFault_ok {h : Hw} (hok : h.Ok) (q : Nat) (code : BitVec 4) : (Hw.queueFault h q code).Ok := by
  unfold Hw.queueFault
  try dsimp only
  repeat' (first
    | with_reducible assumption
    | with_reducible apply Hw.onQueue_ok
    | with_reducible apply Hw.onDbSlot_ok
    | with_reducible apply Hw.settleUnmap_ok
    | with_reducible apply Hw.discardStart_ok
    | with_reducible apply foldl_ok
    | with_reducible apply foldl_pair_ok
    | refine ok_of_some (by with_reducible assumption) ?_
    | refine ok_of_pair (by with_reducible assumption) ?_
    | refine ok_of_some2 (by with_reducible assumption) ?_
    | with_reducible apply State.upd_ok
    | with_reducible apply State.attempt_ok
    | with_reducible apply settle_ok
    | with_reducible apply chk_ok
    | with_reducible apply chk_err
    | with_reducible apply chk_trap
    | with_reducible apply chk_bind_st
    | with_reducible apply chk_bind
    | with_reducible apply out_next
    | with_reducible apply opt_getD
    | with_reducible apply opt_none
    | with_reducible apply opt_some
    | with_reducible apply opt_map
    | with_reducible apply opt_bind
    | split
    | intro _
    | dsimp only
    | assumption)

theorem Hw.reading_ok {h : Hw} (hok : h.Ok) (m : Master) (pas : List Nat) : (Hw.reading h m pas).Ok := by
  unfold Hw.reading
  try dsimp only
  repeat' (first
    | with_reducible assumption
    | with_reducible apply Hw.checkLine_ok
    | with_reducible apply Hw.meetBar_ok
    | with_reducible apply foldl_ok
    | with_reducible apply foldl_pair_ok
    | refine ok_of_some (by with_reducible assumption) ?_
    | refine ok_of_pair (by with_reducible assumption) ?_
    | refine ok_of_some2 (by with_reducible assumption) ?_
    | with_reducible apply State.upd_ok
    | with_reducible apply State.attempt_ok
    | with_reducible apply settle_ok
    | with_reducible apply chk_ok
    | with_reducible apply chk_err
    | with_reducible apply chk_trap
    | with_reducible apply chk_bind_st
    | with_reducible apply chk_bind
    | with_reducible apply out_next
    | with_reducible apply opt_getD
    | with_reducible apply opt_none
    | with_reducible apply opt_some
    | with_reducible apply opt_map
    | with_reducible apply opt_bind
    | split
    | intro _
    | dsimp only
    | assumption)

theorem Hw.noteRead_ok {h : Hw} (hok : h.Ok) (m : Master) (root : Nat) (va : Nat) (n : Nat) : (Hw.noteRead h m root va n).Ok := by
  unfold Hw.noteRead
  try dsimp only
  repeat' (first
    | with_reducible assumption
    | with_reducible apply Hw.reading_ok
    | with_reducible apply foldl_ok
    | with_reducible apply foldl_pair_ok
    | refine ok_of_some (by with_reducible assumption) ?_
    | refine ok_of_pair (by with_reducible assumption) ?_
    | refine ok_of_some2 (by with_reducible assumption) ?_
    | with_reducible apply State.upd_ok
    | with_reducible apply State.attempt_ok
    | with_reducible apply settle_ok
    | with_reducible apply chk_ok
    | with_reducible apply chk_err
    | with_reducible apply chk_trap
    | with_reducible apply chk_bind_st
    | with_reducible apply chk_bind
    | with_reducible apply out_next
    | with_reducible apply opt_getD
    | with_reducible apply opt_none
    | with_reducible apply opt_some
    | with_reducible apply opt_map
    | with_reducible apply opt_bind
    | split
    | intro _
    | dsimp only
    | assumption)

theorem Hw.writeBell_ok {h : Hw} (hok : h.Ok) (m : Master) (pa : Nat) (bs : List Byte) : (Hw.writeBell h m pa bs).2.Ok := by
  unfold Hw.writeBell
  try dsimp only
  repeat' (first
    | with_reducible assumption
    | with_reducible apply Hw.bellWrite_ok
    | split)

theorem Hw.writeVa_ok {h : Hw} (hok : h.Ok) (m : Master) (root : Nat) (va : Nat) (bs : List Byte) : (Hw.writeVa h m root va bs).2.Ok := by
  unfold Hw.writeVa
  try dsimp only
  repeat' (first
    | with_reducible assumption
    | with_reducible apply Hw.await_ok
    | with_reducible apply Hw.writeLines_ok
    | with_reducible apply Hw.checkCuts_ok
    | with_reducible apply Hw.meetBar_ok
    | with_reducible apply Hw.route_ok
    | with_reducible apply Hw.reading_ok
    | with_reducible apply Hw.writeBell_ok
    | with_reducible apply foldl_ok
    | with_reducible apply foldl_pair_ok
    | refine ok_of_some (by with_reducible assumption) ?_
    | refine ok_of_pair (by with_reducible assumption) ?_
    | refine ok_of_some2 (by with_reducible assumption) ?_
    | with_reducible apply State.upd_ok
    | with_reducible apply State.attempt_ok
    | with_reducible apply settle_ok
    | with_reducible apply chk_ok
    | with_reducible apply chk_err
    | with_reducible apply chk_trap
    | with_reducible apply chk_bind_st
    | with_reducible apply chk_bind
    | with_reducible apply out_next
    | with_reducible apply opt_getD
    | with_reducible apply opt_none
    | with_reducible apply opt_some
    | with_reducible apply opt_map
    | with_reducible apply opt_bind
    | split
    | intro _
    | dsimp only
    | assumption)

theorem Hw.putFault_ok {h : Hw} (hok : h.Ok) (q : Nat) (m : Master) (root : Nat) (log : Nat) (i : Nat) (frame : Nat) (inGrant : Bool) (r : FaultRec) : (Hw.putFault h q m root log i frame inGrant r).Ok := by
  unfold Hw.putFault
  try dsimp only
  repeat' (first
    | with_reducible assumption
    | with_reducible apply Hw.meetErrs_ok
    | with_reducible apply Hw.queueFault_ok
    | with_reducible apply Hw.noteRead_ok
    | with_reducible apply Hw.writeVa_ok
    | with_reducible apply foldl_ok
    | with_reducible apply foldl_pair_ok
    | refine ok_of_some (by with_reducible assumption) ?_
    | refine ok_of_pair (by with_reducible assumption) ?_
    | refine ok_of_some2 (by with_reducible assumption) ?_
    | with_reducible apply State.upd_ok
    | with_reducible apply State.attempt_ok
    | with_reducible apply settle_ok
    | with_reducible apply chk_ok
    | with_reducible apply chk_err
    | with_reducible apply chk_trap
    | with_reducible apply chk_bind_st
    | with_reducible apply chk_bind
    | with_reducible apply out_next
    | with_reducible apply opt_getD
    | with_reducible apply opt_none
    | with_reducible apply opt_some
    | with_reducible apply opt_map
    | with_reducible apply opt_bind
    | split
    | intro _
    | dsimp only
    | assumption)

theorem Hw.logFault_ok {h : Hw} (hok : h.Ok) (lid : Nat) (r : FaultRec) : (Hw.logFault h lid r).Ok := by
  unfold Hw.logFault
  try dsimp only
  repeat' (first
    | with_reducible assumption
    | with_reducible apply Hw.setLaunch_ok
    | with_reducible apply Hw.putFault_ok
    | split)

theorem Hw.failLaunch_ok {h : Hw} (hok : h.Ok) (lid : Nat) (r : FaultRec) : (Hw.failLaunch h lid r).Ok := by
  unfold Hw.failLaunch
  try dsimp only
  repeat' (first
    | with_reducible assumption
    | with_reducible apply Hw.onLaunch_ok)

theorem Hw.applied1_ok {h : Hw} (hok : h.Ok) (co : CoreId) (uid : Nat) (landing : Option (BitVec 128)) : (Hw.applied1 h co uid landing).Ok := by
  unfold Hw.applied1
  try dsimp only
  repeat' (first
    | with_reducible assumption
    | with_reducible apply Hw.onCore_ok
    | with_reducible apply Hw.onCmd_ok)

theorem Hw.applyHere_ok {h : Hw} (hok : h.Ok) (co : CoreId) (c : Cmd) (k : Nat) (put : Hw → List Byte → Hw) (wput : ∀ h bs, Hw.Ok h → (put h bs).Ok) : (Hw.applyHere h co c k put).Ok := by
  unfold Hw.applyHere
  try dsimp only
  repeat' (first
    | with_reducible assumption
    | with_reducible apply Hw.applied1_ok
    | with_reducible apply wput)

theorem Hw.countPage_ok {h : Hw} (hok : h.Ok) (co : CoreId) (uid : Nat) (pa : Nat) : (Hw.countPage h co uid pa).Ok := by
  unfold Hw.countPage
  try dsimp only
  repeat' (first
    | with_reducible assumption
    | with_reducible apply Hw.onCmd_ok
    | with_reducible apply Hw.onPage_ok
    | split)

theorem Hw.denyBell_ok {h : Hw} (hok : h.Ok) (co : CoreId) (c : Cmd) (q : Nat) (off : Nat) : (Hw.denyBell h co c q off).Ok := by
  unfold Hw.denyBell
  try dsimp only
  repeat' (first
    | with_reducible assumption
    | with_reducible apply Hw.onQuay_ok
    | with_reducible apply Hw.faultCmd_ok)

theorem execAtomicApply_ok (co : CoreId) (n : Nat) {s : State} (hok : s.Inv) : OutOk (execAtomicApply co n s) := by
  unfold execAtomicApply
  try dsimp only
  repeat' (first
    | with_reducible assumption
    | with_reducible apply Hw.write_ok
    | with_reducible apply State.upd_ok
    | with_reducible apply Hw.checkLine_ok
    | with_reducible apply Hw.writeLine_ok
    | with_reducible apply Hw.faultCmd_ok
    | with_reducible apply Hw.reachOf_ok
    | with_reducible apply Hw.askPage_ok
    | with_reducible apply Hw.cellStop_ok
    | with_reducible apply Hw.applyHere_ok
    | with_reducible apply Hw.countPage_ok
    | with_reducible apply Hw.denyBell_ok
    | with_reducible apply foldl_ok
    | with_reducible apply foldl_pair_ok
    | refine ok_of_some (by with_reducible assumption) ?_
    | refine ok_of_pair (by with_reducible assumption) ?_
    | refine ok_of_some2 (by with_reducible assumption) ?_
    | with_reducible apply State.upd_ok
    | with_reducible apply State.attempt_ok
    | with_reducible apply settle_ok
    | with_reducible apply chk_ok
    | with_reducible apply chk_err
    | with_reducible apply chk_trap
    | with_reducible apply chk_bind_st
    | with_reducible apply chk_bind
    | with_reducible apply out_next
    | with_reducible apply opt_getD
    | with_reducible apply opt_none
    | with_reducible apply opt_some
    | with_reducible apply opt_map
    | with_reducible apply opt_bind
    | split
    | intro _
    | dsimp only
    | assumption)

theorem Hw.refuseLanding_ok {h : Hw} (hok : h.Ok) (co : CoreId) (c : Cmd) (code : Byte) (detail : BitVec 256) : (Hw.refuseLanding h co c code detail).Ok := by
  unfold Hw.refuseLanding
  try dsimp only
  repeat' (first
    | with_reducible assumption
    | with_reducible apply Hw.faultCmd_ok
    | with_reducible apply Hw.failLaunch_ok
    | split)

theorem execAtomicLanding_ok (co : CoreId) (n : Nat) {s : State} (hok : s.Inv) : OutOk (execAtomicLanding co n s) := by
  unfold execAtomicLanding
  try dsimp only
  repeat' (first
    | with_reducible assumption
    | with_reducible apply Hw.putNum_ok
    | with_reducible apply Hw.setFull_ok
    | with_reducible apply Hw.onCore_ok
    | with_reducible apply State.upd_ok
    | with_reducible apply Hw.arriveAt_ok
    | with_reducible apply Hw.onCmd_ok
    | with_reducible apply Hw.refuseLanding_ok
    | refine ok_of_some (by with_reducible assumption) ?_
    | with_reducible apply out_next
    | split
    | intro _)

theorem execRoundRequestAccept_ok (co : CoreId) (n : Nat) {s : State} (hok : s.Inv) : OutOk (execRoundRequestAccept co n s) := by
  unfold execRoundRequestAccept
  try dsimp only
  repeat' (first
    | with_reducible assumption
    | with_reducible apply Hw.onCore_ok
    | with_reducible apply State.upd_ok
    | with_reducible apply Hw.onCmd_ok
    | with_reducible apply Hw.faultCmd_ok
    | with_reducible apply Hw.reachOf_ok
    | with_reducible apply Hw.askPage_ok
    | with_reducible apply Hw.denyBell_ok
    | with_reducible apply out_next
    | split
    | intro _)

theorem execRoundCloseNotice_ok (site : Nat) (slice : Nat) (lid : Nat) (p : Participant) {s : State} (hok : s.Inv) : OutOk (execRoundCloseNotice site slice lid p s) := by
  unfold execRoundCloseNotice
  try dsimp only
  repeat' (first
    | with_reducible assumption
    | with_reducible apply State.upd_ok
    | with_reducible apply out_next
    | split
    | intro _)

theorem Hw.enqueueCont_ok {h : Hw} (hok : h.Ok) (site : Nat) (slice : Nat) (c : ContRec) : (Hw.enqueueCont h site slice c).2.Ok := by
  unfold Hw.enqueueCont
  try dsimp only
  repeat' (first
    | with_reducible assumption
    | with_reducible apply Hw.onLaunch_ok
    | with_reducible apply Hw.onSlice_ok
    | with_reducible apply Hw.writeLines_ok
    | with_reducible apply Hw.logFault_ok
    | split)

theorem Hw.applyRound_ok {h : Hw} (hok : h.Ok) (q : RoundReq) : (Hw.applyRound h q).Ok := by
  unfold Hw.applyRound
  try dsimp only
  repeat' (first
    | with_reducible assumption
    | with_reducible apply Hw.onCmd_ok
    | with_reducible apply Hw.checkLine_ok
    | with_reducible apply Hw.writeLine_ok
    | with_reducible apply Hw.onPage_ok
    | with_reducible apply Hw.faultCmd_ok
    | with_reducible apply Hw.failLaunch_ok
    | with_reducible apply Hw.enqueueCont_ok
    | split)

theorem execRoundApply_ok (site : Nat) (slice : Nat) (lid : Nat) (wave : Nat) (tag : Nat) {s : State} (hok : s.Inv) : OutOk (execRoundApply site slice lid wave tag s) := by
  unfold execRoundApply
  try dsimp only
  repeat' (first
    | with_reducible assumption
    | with_reducible apply State.attempt_ok
    | with_reducible apply Hw.applyRound_ok
    | with_reducible apply foldl_ok
    | with_reducible apply foldl_pair_ok
    | refine ok_of_some (by with_reducible assumption) ?_
    | refine ok_of_pair (by with_reducible assumption) ?_
    | refine ok_of_some2 (by with_reducible assumption) ?_
    | with_reducible apply State.upd_ok
    | with_reducible apply State.attempt_ok
    | with_reducible apply settle_ok
    | with_reducible apply chk_ok
    | with_reducible apply chk_err
    | with_reducible apply chk_trap
    | with_reducible apply chk_bind_st
    | with_reducible apply chk_bind
    | with_reducible apply out_next
    | with_reducible apply opt_getD
    | with_reducible apply opt_none
    | with_reducible apply opt_some
    | with_reducible apply opt_map
    | with_reducible apply opt_bind
    | split
    | intro _
    | dsimp only
    | assumption)

theorem Hw.dropStream_ok {h : Hw} (hok : h.Ok) (c : StreamCopy) : (Hw.dropStream h c).Ok := by
  unfold Hw.dropStream
  try dsimp only
  repeat' with_reducible assumption

theorem Hw.streamStop_ok {h : Hw} (hok : h.Ok) (c : StreamCopy) : OptOk (Hw.streamStop h c) := by
  unfold Hw.streamStop
  try dsimp only
  repeat' (first
    | with_reducible assumption
    | with_reducible apply Hw.noteIsle_ok
    | with_reducible apply Hw.takeTrap_ok
    | with_reducible apply Hw.dropStream_ok
    | with_reducible apply foldl_ok
    | with_reducible apply foldl_pair_ok
    | refine ok_of_some (by with_reducible assumption) ?_
    | refine ok_of_pair (by with_reducible assumption) ?_
    | refine ok_of_some2 (by with_reducible assumption) ?_
    | with_reducible apply State.upd_ok
    | with_reducible apply State.attempt_ok
    | with_reducible apply settle_ok
    | with_reducible apply chk_ok
    | with_reducible apply chk_err
    | with_reducible apply chk_trap
    | with_reducible apply chk_bind_st
    | with_reducible apply chk_bind
    | with_reducible apply out_next
    | with_reducible apply opt_getD
    | with_reducible apply opt_none
    | with_reducible apply opt_some
    | with_reducible apply opt_map
    | with_reducible apply opt_bind
    | split
    | intro _
    | dsimp only
    | assumption)

theorem execSputPublish_ok (site : Nat) (ring : Nat) {s : State} (hok : s.Inv) : OutOk (execSputPublish site ring s) := by
  unfold execSputPublish
  try dsimp only
  repeat' (first
    | with_reducible assumption
    | with_reducible apply Hw.write_ok
    | with_reducible apply State.upd_ok
    | with_reducible apply Hw.onRing_ok
    | with_reducible apply Hw.dropStream_ok
    | with_reducible apply Hw.streamStop_ok
    | with_reducible apply foldl_ok
    | with_reducible apply foldl_pair_ok
    | refine ok_of_some (by with_reducible assumption) ?_
    | refine ok_of_pair (by with_reducible assumption) ?_
    | refine ok_of_some2 (by with_reducible assumption) ?_
    | with_reducible apply State.upd_ok
    | with_reducible apply State.attempt_ok
    | with_reducible apply settle_ok
    | with_reducible apply chk_ok
    | with_reducible apply chk_err
    | with_reducible apply chk_trap
    | with_reducible apply chk_bind_st
    | with_reducible apply chk_bind
    | with_reducible apply out_next
    | with_reducible apply opt_getD
    | with_reducible apply opt_none
    | with_reducible apply opt_some
    | with_reducible apply opt_map
    | with_reducible apply opt_bind
    | split
    | intro _
    | dsimp only
    | assumption)

theorem execSgetCopyComplete_ok (site : Nat) (ring : Nat) {s : State} (hok : s.Inv) : OutOk (execSgetCopyComplete site ring s) := by
  unfold execSgetCopyComplete
  try dsimp only
  repeat' (first
    | with_reducible assumption
    | with_reducible apply Hw.write_ok
    | with_reducible apply Hw.takeTrap_ok
    | with_reducible apply State.upd_ok
    | with_reducible apply Hw.onRing_ok
    | with_reducible apply Hw.dropStream_ok
    | with_reducible apply Hw.streamStop_ok
    | with_reducible apply foldl_ok
    | with_reducible apply foldl_pair_ok
    | refine ok_of_some (by with_reducible assumption) ?_
    | refine ok_of_pair (by with_reducible assumption) ?_
    | refine ok_of_some2 (by with_reducible assumption) ?_
    | with_reducible apply State.upd_ok
    | with_reducible apply State.attempt_ok
    | with_reducible apply settle_ok
    | with_reducible apply chk_ok
    | with_reducible apply chk_err
    | with_reducible apply chk_trap
    | with_reducible apply chk_bind_st
    | with_reducible apply chk_bind
    | with_reducible apply out_next
    | with_reducible apply opt_getD
    | with_reducible apply opt_none
    | with_reducible apply opt_some
    | with_reducible apply opt_map
    | with_reducible apply opt_bind
    | split
    | intro _
    | dsimp only
    | assumption)

theorem Hw.onAmem_ok {h : Hw} (hok : h.Ok) (co : CoreId) (e : EngId) (f : AMem → AMem) : (Hw.onAmem h co e f).Ok := by
  unfold Hw.onAmem
  try dsimp only
  repeat' (first
    | with_reducible assumption
    | with_reducible apply Hw.onEng_ok)

theorem Hw.placeMonitor_ok {h : Hw} (hok : h.Ok) (co : CoreId) (e : EngId) (m : AMem) (pa : Nat) (lid : Nat) : (Hw.placeMonitor h co e m pa lid).Ok := by
  unfold Hw.placeMonitor
  try dsimp only
  repeat' (first
    | with_reducible assumption
    | with_reducible apply Hw.checkLine_ok
    | with_reducible apply Hw.wake_ok
    | with_reducible apply Hw.failAmem_ok
    | with_reducible apply Hw.onAmem_ok
    | split)

theorem execMonitorRequest_ok (co : CoreId) (e : EngId) {s : State} (hok : s.Inv) : OutOk (execMonitorRequest co e s) := by
  unfold execMonitorRequest
  try dsimp only
  repeat' (first
    | with_reducible assumption
    | with_reducible apply State.upd_ok
    | with_reducible apply Hw.wake_ok
    | with_reducible apply Hw.askWalk_ok
    | with_reducible apply Hw.sliceCheck_ok
    | with_reducible apply Hw.failAmem_ok
    | with_reducible apply Hw.onAmem_ok
    | with_reducible apply Hw.placeMonitor_ok
    | with_reducible apply foldl_ok
    | with_reducible apply foldl_pair_ok
    | refine ok_of_some (by with_reducible assumption) ?_
    | refine ok_of_pair (by with_reducible assumption) ?_
    | refine ok_of_some2 (by with_reducible assumption) ?_
    | with_reducible apply State.upd_ok
    | with_reducible apply State.attempt_ok
    | with_reducible apply settle_ok
    | with_reducible apply chk_ok
    | with_reducible apply chk_err
    | with_reducible apply chk_trap
    | with_reducible apply chk_bind_st
    | with_reducible apply chk_bind
    | with_reducible apply out_next
    | with_reducible apply opt_getD
    | with_reducible apply opt_none
    | with_reducible apply opt_some
    | with_reducible apply opt_map
    | with_reducible apply opt_bind
    | split
    | intro _
    | dsimp only
    | assumption)

theorem execMonitorTimeout_ok (co : CoreId) (e : EngId) {s : State} (hok : s.Inv) : OutOk (execMonitorTimeout co e s) := by
  unfold execMonitorTimeout
  try dsimp only
  repeat' (first
    | with_reducible assumption
    | with_reducible apply State.upd_ok
    | with_reducible apply Hw.wake_ok
    | with_reducible apply out_next
    | split
    | intro _)

theorem Hw.landTile_ok {h : Hw} (hok : h.Ok) (co : CoreId) (t : TileJob) : (Hw.landTile h co t).Ok := by
  unfold Hw.landTile
  try dsimp only
  repeat' (first
    | with_reducible assumption
    | with_reducible apply Hw.putNum_ok
    | with_reducible apply foldl_ok
    | split
    | intro _)

theorem Hw.land_ok {h : Hw} (hok : h.Ok) (co : CoreId) (slot : Nat) (x : LSlot) : (Hw.land h co slot x).Ok := by
  unfold Hw.land
  try dsimp only
  repeat' (first
    | with_reducible assumption
    | with_reducible apply Hw.onCore_ok
    | with_reducible apply Hw.noteMachine_ok
    | with_reducible apply Hw.takeTrap_ok
    | with_reducible apply Hw.onEng_ok
    | with_reducible apply Hw.landTile_ok
    | with_reducible apply foldl_ok
    | with_reducible apply foldl_pair_ok
    | refine ok_of_some (by with_reducible assumption) ?_
    | refine ok_of_pair (by with_reducible assumption) ?_
    | refine ok_of_some2 (by with_reducible assumption) ?_
    | with_reducible apply State.upd_ok
    | with_reducible apply State.attempt_ok
    | with_reducible apply settle_ok
    | with_reducible apply chk_ok
    | with_reducible apply chk_err
    | with_reducible apply chk_trap
    | with_reducible apply chk_bind_st
    | with_reducible apply chk_bind
    | with_reducible apply out_next
    | with_reducible apply opt_getD
    | with_reducible apply opt_none
    | with_reducible apply opt_some
    | with_reducible apply opt_map
    | with_reducible apply opt_bind
    | split
    | intro _
    | dsimp only
    | assumption)

theorem execLandDue_ok (co : CoreId) (slot : Nat) {s : State} (hok : s.Inv) : OutOk (execLandDue co slot s) := by
  unfold execLandDue
  try dsimp only
  repeat' (first
    | with_reducible assumption
    | with_reducible apply Hw.onCore_ok
    | with_reducible apply State.upd_ok
    | with_reducible apply Hw.land_ok
    | with_reducible apply out_next
    | split
    | intro _)

theorem execFreezeEnd_ok (co : CoreId) {s : State} (hok : s.Inv) : OutOk (execFreezeEnd co s) := by
  unfold execFreezeEnd
  try dsimp only
  repeat' (first
    | with_reducible assumption
    | with_reducible apply Hw.onCore_ok
    | with_reducible apply State.upd_ok
    | with_reducible apply Hw.land_ok
    | with_reducible apply out_next
    | split
    | intro _)

theorem Hw.readGlobalA_ok {h : Hw} (hok : h.Ok) (co : CoreId) (t : Task) (job : TileJob) (va : Nat) (n : Nat) : (Hw.readGlobalA h co t job va n).2.Ok := by
  unfold Hw.readGlobalA
  try dsimp only
  repeat' (first
    | with_reducible assumption
    | with_reducible apply Hw.checkLine_ok
    | with_reducible apply Hw.sliceCheck_ok
    | with_reducible apply foldl_pair_ok
    | refine ok_of_pair (by with_reducible assumption) ?_
    | split
    | intro _)

theorem Hw.setTile_ok {h : Hw} (hok : h.Ok) (co : CoreId) (slot : Nat) (x : LSlot) (t : TileJob) (arrived : Bool) : (Hw.setTile h co slot x t arrived).Ok := by
  unfold Hw.setTile
  try dsimp only
  repeat' (first
    | with_reducible assumption
    | with_reducible apply Hw.onCore_ok)

theorem Hw.markTile_ok {h : Hw} (hok : h.Ok) (co : CoreId) (slot : Nat) (x : LSlot) (t : TileJob) (off : Nat) (row : Nat) : (Hw.markTile h co slot x t off row).Ok := by
  unfold Hw.markTile
  try dsimp only
  repeat' (first
    | with_reducible assumption
    | with_reducible apply Hw.takeTrap_ok
    | with_reducible apply Hw.setTile_ok)

theorem execTileReady_ok (co : CoreId) (slot : Nat) (rejects : Nat) {s : State} (hok : s.Inv) : OutOk (execTileReady co slot rejects s) := by
  unfold execTileReady
  try dsimp only
  repeat' (first
    | with_reducible assumption
    | with_reducible apply Hw.onArr_ok
    | with_reducible apply State.upd_ok
    | with_reducible apply Hw.askWalk_ok
    | with_reducible apply Hw.failTile_ok
    | with_reducible apply Hw.readGlobalA_ok
    | with_reducible apply Hw.setTile_ok
    | with_reducible apply Hw.markTile_ok
    | refine ok_of_pair (by with_reducible assumption) ?_
    | with_reducible apply out_next
    | split
    | intro _)

theorem execRaceReady_ok (co : CoreId) (slot : Nat) (rejects : Nat) {s : State} (hok : s.Inv) : OutOk (execRaceReady co slot rejects s) := by
  unfold execRaceReady
  try dsimp only
  repeat' (first
    | with_reducible assumption
    | with_reducible apply Hw.onCore_ok
    | with_reducible apply Hw.onArr_ok
    | with_reducible apply State.upd_ok
    | with_reducible apply out_next
    | split
    | intro _)

theorem execLeaseGrant_ok (isle : Nat) (ins : Nat) {s : State} (hok : s.Inv) : OutOk (execLeaseGrant isle ins s) := by
  unfold execLeaseGrant
  try dsimp only
  repeat' (first
    | with_reducible assumption
    | with_reducible apply Hw.onArr_ok
    | with_reducible apply State.upd_ok
    | with_reducible apply out_next
    | split
    | intro _)

theorem execCalibrationMark_ok (isle : Nat) (ins : Nat) {s : State} (hok : s.Inv) : OutOk (execCalibrationMark isle ins s) := by
  unfold execCalibrationMark
  try dsimp only
  repeat' (first
    | with_reducible assumption
    | with_reducible apply Hw.onArr_ok
    | with_reducible apply State.upd_ok
    | with_reducible apply Hw.settlePending_ok
    | with_reducible apply out_next
    | split
    | intro _)

theorem execCalibrationComplete_ok (isle : Nat) (ins : Nat) (periods : BitVec 32) (trims : List (BitVec 16)) {s : State} (hok : s.Inv) : OutOk (execCalibrationComplete isle ins periods trims s) := by
  unfold execCalibrationComplete
  try dsimp only
  repeat' (first
    | with_reducible assumption
    | with_reducible apply Hw.onArr_ok
    | with_reducible apply State.upd_ok
    | with_reducible apply Hw.onEng_ok
    | with_reducible apply Hw.settlePending_ok
    | with_reducible apply out_next
    | split
    | intro _)

theorem Hw.refuseLine_ok {h : Hw} (hok : h.Ok) (r : SliceReq) : (Hw.refuseLine h r).Ok := by
  unfold Hw.refuseLine
  try dsimp only
  repeat' (first
    | with_reducible assumption
    | with_reducible apply Hw.faultCmd_ok
    | with_reducible apply Hw.flitLine_ok
    | split)

theorem Hw.serveRead_ok {h : Hw} (hok : h.Ok) (r : SliceReq) : (Hw.serveRead h r).Ok := by
  unfold Hw.serveRead
  try dsimp only
  repeat' (first
    | with_reducible assumption
    | with_reducible apply Hw.onCmd_ok
    | with_reducible apply Hw.flitLine_ok
    | split)

theorem Hw.serveWrite_ok {h : Hw} (hok : h.Ok) (r : SliceReq) : (Hw.serveWrite h r).Ok := by
  unfold Hw.serveWrite
  try dsimp only
  repeat' (first
    | with_reducible assumption
    | with_reducible apply Hw.writeLine_ok
    | with_reducible apply Hw.advanceCmd_ok
    | with_reducible apply Hw.flitLine_ok
    | split)

theorem Hw.openLine_ok {h : Hw} (hok : h.Ok) (r : SliceReq) (ecc : Ecc) : (Hw.openLine h r ecc).2.Ok := by
  unfold Hw.openLine
  try dsimp only
  repeat' (first
    | with_reducible assumption
    | with_reducible apply Hw.checkLine_ok
    | split)

theorem Hw.endStep_ok {h : Hw} (hok : h.Ok) (r : SliceReq) : (Hw.endStep h r).Ok := by
  unfold Hw.endStep
  try dsimp only
  repeat' (first
    | with_reducible assumption
    | with_reducible apply Hw.writeLine_ok
    | with_reducible apply Hw.openLine_ok
    | refine ok_of_pair (by with_reducible assumption) ?_
    | split)

theorem execSliceRequest_ok (site : Nat) (slice : Nat) (n : Nat) (ecc : Ecc) {s : State} (hok : s.Inv) : OutOk (execSliceRequest site slice n ecc s) := by
  unfold execSliceRequest
  try dsimp only
  repeat' (first
    | with_reducible assumption
    | with_reducible apply State.upd_ok
    | with_reducible apply Hw.onSlice_ok
    | with_reducible apply Hw.refuseLine_ok
    | with_reducible apply Hw.serveRead_ok
    | with_reducible apply Hw.serveWrite_ok
    | with_reducible apply Hw.openLine_ok
    | with_reducible apply out_next
    | split
    | intro _)

theorem Hw.scrubPart_ok {h : Hw} (hok : h.Ok) (pa : Nat) (ecc : Ecc) : (Hw.scrubPart h pa ecc).Ok := by
  unfold Hw.scrubPart
  try dsimp only
  repeat' (first
    | with_reducible assumption
    | with_reducible apply Hw.checkLine_ok
    | with_reducible apply Hw.onQuay_ok
    | split)

theorem execScrubLine_ok (site : Nat) (slice : Nat) (ecc : Ecc) {s : State} (hok : s.Inv) : OutOk (execScrubLine site slice ecc s) := by
  unfold execScrubLine
  try dsimp only
  repeat' (first
    | with_reducible assumption
    | with_reducible apply State.upd_ok
    | with_reducible apply Hw.onSlice_ok
    | with_reducible apply Hw.scrubPart_ok
    | with_reducible apply foldl_ok
    | with_reducible apply out_next
    | split
    | intro _)

theorem execRowTrackLeak_ok (site : Nat) (slice : Nat) {s : State} (hok : s.Inv) : OutOk (execRowTrackLeak site slice s) := by
  unfold execRowTrackLeak
  try dsimp only
  repeat' (first
    | with_reducible assumption
    | with_reducible apply State.upd_ok
    | with_reducible apply Hw.onSlice_ok
    | with_reducible apply out_next
    | split
    | intro _)

theorem Hw.leakAll_ok {h : Hw} (hok : h.Ok) : (Hw.leakAll h).Ok := by
  unfold Hw.leakAll
  try dsimp only
  repeat' (first
    | with_reducible assumption
    | split)

theorem Hw.writeCfgRecord_ok {h : Hw} (hok : h.Ok) : (Hw.writeCfgRecord h).Ok := by
  unfold Hw.writeCfgRecord
  try dsimp only
  repeat' with_reducible assumption

theorem execRowSpareStart_ok (site : Nat) (slice : Nat) (bank : BitVec 6) (row : BitVec 18) {s : State} (hok : s.Inv) : OutOk (execRowSpareStart site slice bank row s) := by
  unfold execRowSpareStart
  try dsimp only
  repeat' (first
    | with_reducible assumption
    | with_reducible apply State.upd_ok
    | with_reducible apply Hw.onSlice_ok
    | with_reducible apply Hw.writeCfgRecord_ok
    | with_reducible apply out_next
    | split
    | intro _)

theorem Hw.copySpare_ok {h : Hw} (hok : h.Ok) (site : Nat) (slice : Nat) (line : Nat) : (Hw.copySpare h site slice line).Ok := by
  unfold Hw.copySpare
  try dsimp only
  repeat' (first
    | with_reducible assumption
    | with_reducible apply Hw.onSlice_ok
    | with_reducible apply Hw.checkLine_ok
    | with_reducible apply foldl_ok
    | with_reducible apply foldl_pair_ok
    | refine ok_of_some (by with_reducible assumption) ?_
    | refine ok_of_pair (by with_reducible assumption) ?_
    | refine ok_of_some2 (by with_reducible assumption) ?_
    | with_reducible apply State.upd_ok
    | with_reducible apply State.attempt_ok
    | with_reducible apply settle_ok
    | with_reducible apply chk_ok
    | with_reducible apply chk_err
    | with_reducible apply chk_trap
    | with_reducible apply chk_bind_st
    | with_reducible apply chk_bind
    | with_reducible apply out_next
    | with_reducible apply opt_getD
    | with_reducible apply opt_none
    | with_reducible apply opt_some
    | with_reducible apply opt_map
    | with_reducible apply opt_bind
    | split
    | intro _
    | dsimp only
    | assumption)

theorem execSpareLineCopy_ok (site : Nat) (slice : Nat) {s : State} (hok : s.Inv) : OutOk (execSpareLineCopy site slice s) := by
  unfold execSpareLineCopy
  try dsimp only
  repeat' (first
    | with_reducible assumption
    | with_reducible apply State.upd_ok
    | with_reducible apply Hw.onSlice_ok
    | with_reducible apply Hw.writeCfgRecord_ok
    | with_reducible apply Hw.copySpare_ok
    | with_reducible apply foldl_ok
    | with_reducible apply foldl_pair_ok
    | refine ok_of_some (by with_reducible assumption) ?_
    | refine ok_of_pair (by with_reducible assumption) ?_
    | refine ok_of_some2 (by with_reducible assumption) ?_
    | with_reducible apply State.upd_ok
    | with_reducible apply State.attempt_ok
    | with_reducible apply settle_ok
    | with_reducible apply chk_ok
    | with_reducible apply chk_err
    | with_reducible apply chk_trap
    | with_reducible apply chk_bind_st
    | with_reducible apply chk_bind
    | with_reducible apply out_next
    | with_reducible apply opt_getD
    | with_reducible apply opt_none
    | with_reducible apply opt_some
    | with_reducible apply opt_map
    | with_reducible apply opt_bind
    | split
    | intro _
    | dsimp only
    | assumption)

theorem execPerBankRefresh_ok (site : Nat) (slice : Nat) (_bank : BitVec 6) (_rfm : Bool) {s : State} (hok : s.Inv) : OutOk (execPerBankRefresh site slice _bank _rfm s) := by
  unfold execPerBankRefresh
  try dsimp only
  repeat' (first
    | with_reducible assumption
    | with_reducible apply State.upd_ok
    | with_reducible apply Hw.onSlice_ok
    | with_reducible apply out_next
    | intro _)

theorem Hw.ttFailed_ok {h : Hw} (hok : h.Ok) (l : Launch) (e : Nat × Nat) : (Hw.ttFailed h l e).Ok := by
  unfold Hw.ttFailed
  try dsimp only
  repeat' (first
    | with_reducible assumption
    | with_reducible apply Hw.noteRead_ok
    | with_reducible apply foldl_ok
    | with_reducible apply foldl_pair_ok
    | refine ok_of_some (by with_reducible assumption) ?_
    | refine ok_of_pair (by with_reducible assumption) ?_
    | refine ok_of_some2 (by with_reducible assumption) ?_
    | with_reducible apply State.upd_ok
    | with_reducible apply State.attempt_ok
    | with_reducible apply settle_ok
    | with_reducible apply chk_ok
    | with_reducible apply chk_err
    | with_reducible apply chk_trap
    | with_reducible apply chk_bind_st
    | with_reducible apply chk_bind
    | with_reducible apply out_next
    | with_reducible apply opt_getD
    | with_reducible apply opt_none
    | with_reducible apply opt_some
    | with_reducible apply opt_map
    | with_reducible apply opt_bind
    | split
    | intro _
    | dsimp only
    | assumption)

theorem Hw.prepare_ok {h : Hw} (w : h.Ok) (co : CoreId) : (h.prepare co).Ok :=
  Memory.wf_foldl _ (fun _ _ w => Memory.wf_clear _ _ w) _ w

theorem Hw.fillWindows_ok {h : Hw} (hok : h.Ok) (l : Launch) (co : CoreId) : (Hw.fillWindows h l co).Ok := by
  unfold Hw.fillWindows
  try dsimp only
  repeat' (first
    | with_reducible assumption
    | with_reducible apply Hw.write_ok
    | with_reducible apply Hw.meetErrs_ok
    | with_reducible apply Hw.noteRead_ok
    | with_reducible apply foldl_ok
    | with_reducible apply foldl_pair_ok
    | refine ok_of_some (by with_reducible assumption) ?_
    | refine ok_of_pair (by with_reducible assumption) ?_
    | refine ok_of_some2 (by with_reducible assumption) ?_
    | with_reducible apply State.upd_ok
    | with_reducible apply State.attempt_ok
    | with_reducible apply settle_ok
    | with_reducible apply chk_ok
    | with_reducible apply chk_err
    | with_reducible apply chk_trap
    | with_reducible apply chk_bind_st
    | with_reducible apply chk_bind
    | with_reducible apply out_next
    | with_reducible apply opt_getD
    | with_reducible apply opt_none
    | with_reducible apply opt_some
    | with_reducible apply opt_map
    | with_reducible apply opt_bind
    | split
    | intro _
    | dsimp only
    | assumption)

theorem Hw.clearLines_ok {h : Hw} (hok : h.Ok) (co : CoreId) : (Hw.clearLines h co).Ok := by
  unfold Hw.clearLines
  try dsimp only
  repeat' (first
    | with_reducible assumption
    | with_reducible apply foldl_ok
    | with_reducible apply foldl_pair_ok
    | refine ok_of_some (by with_reducible assumption) ?_
    | refine ok_of_pair (by with_reducible assumption) ?_
    | refine ok_of_some2 (by with_reducible assumption) ?_
    | with_reducible apply State.upd_ok
    | with_reducible apply State.attempt_ok
    | with_reducible apply settle_ok
    | with_reducible apply chk_ok
    | with_reducible apply chk_err
    | with_reducible apply chk_trap
    | with_reducible apply chk_bind_st
    | with_reducible apply chk_bind
    | with_reducible apply out_next
    | with_reducible apply opt_getD
    | with_reducible apply opt_none
    | with_reducible apply opt_some
    | with_reducible apply opt_map
    | with_reducible apply opt_bind
    | split
    | intro _
    | dsimp only
    | assumption)

theorem Hw.prepareFor_ok {h : Hw} (hok : h.Ok) (l : Launch) (co : CoreId) : (Hw.prepareFor h l co).Ok := by
  unfold Hw.prepareFor
  try dsimp only
  repeat' (first
    | with_reducible assumption
    | with_reducible apply Hw.onCore_ok
    | with_reducible apply Hw.prepare_ok
    | with_reducible apply Hw.fillWindows_ok
    | with_reducible apply Hw.clearLines_ok
    | with_reducible apply foldl_ok
    | with_reducible apply foldl_pair_ok
    | refine ok_of_some (by with_reducible assumption) ?_
    | refine ok_of_pair (by with_reducible assumption) ?_
    | refine ok_of_some2 (by with_reducible assumption) ?_
    | with_reducible apply State.upd_ok
    | with_reducible apply State.attempt_ok
    | with_reducible apply settle_ok
    | with_reducible apply chk_ok
    | with_reducible apply chk_err
    | with_reducible apply chk_trap
    | with_reducible apply chk_bind_st
    | with_reducible apply chk_bind
    | with_reducible apply out_next
    | with_reducible apply opt_getD
    | with_reducible apply opt_none
    | with_reducible apply opt_some
    | with_reducible apply opt_map
    | with_reducible apply opt_bind
    | split
    | intro _
    | dsimp only
    | assumption)

theorem Hw.prepareAll_ok {h : Hw} (hok : h.Ok) (l : Launch) : (Hw.prepareAll h l).Ok := by
  unfold Hw.prepareAll
  try dsimp only
  repeat' (first
    | with_reducible assumption
    | with_reducible apply Hw.prepareFor_ok
    | with_reducible apply foldl_ok
    | intro _)

theorem Hw.prepareRest_ok {h : Hw} (hok : h.Ok) (l : Launch) : (Hw.prepareRest h l).Ok := by
  unfold Hw.prepareRest
  try dsimp only
  repeat' (first
    | with_reducible assumption
    | with_reducible apply Hw.fillWindows_ok
    | with_reducible apply Hw.prepareFor_ok
    | with_reducible apply foldl_ok
    | split
    | intro _)

theorem Hw.startTask_ok {h : Hw} (hok : h.Ok) (co : CoreId) (t : Task) (rest : List Task) : (Hw.startTask h co t rest).Ok := by
  unfold Hw.startTask
  try dsimp only
  repeat' (first
    | with_reducible assumption
    | with_reducible apply Hw.onCore_ok
    | with_reducible apply Hw.onLaunch_ok
    | with_reducible apply Hw.prepareFor_ok
    | split)

theorem Hw.startCal_ok {h : Hw} (hok : h.Ok) (co : CoreId) (t : Task) (rest : List Task) : (Hw.startCal h co t rest).Ok := by
  unfold Hw.startCal
  try dsimp only
  repeat' (first
    | with_reducible assumption
    | with_reducible apply Hw.onEng_ok
    | with_reducible apply Hw.startTask_ok)

theorem execTaskStart_ok (co : CoreId) {s : State} (hok : s.Inv) : OutOk (execTaskStart co s) := by
  unfold execTaskStart
  try dsimp only
  repeat' (first
    | with_reducible assumption
    | with_reducible apply State.upd_ok
    | with_reducible apply State.attempt_ok
    | with_reducible apply Hw.startTask_ok
    | with_reducible apply Hw.startCal_ok
    | with_reducible apply foldl_ok
    | with_reducible apply foldl_pair_ok
    | refine ok_of_some (by with_reducible assumption) ?_
    | refine ok_of_pair (by with_reducible assumption) ?_
    | refine ok_of_some2 (by with_reducible assumption) ?_
    | with_reducible apply State.upd_ok
    | with_reducible apply State.attempt_ok
    | with_reducible apply settle_ok
    | with_reducible apply chk_ok
    | with_reducible apply chk_err
    | with_reducible apply chk_trap
    | with_reducible apply chk_bind_st
    | with_reducible apply chk_bind
    | with_reducible apply out_next
    | with_reducible apply opt_getD
    | with_reducible apply opt_none
    | with_reducible apply opt_some
    | with_reducible apply opt_map
    | with_reducible apply opt_bind
    | split
    | intro _
    | dsimp only
    | assumption)

theorem Hw.logSlip_ok {h : Hw} (hok : h.Ok) (lid : Nat) (late : Nat) (task : Nat) (iter : Nat) (co : CoreId) (kind : Nat) : (Hw.logSlip h lid late task iter co kind).Ok := by
  unfold Hw.logSlip
  try dsimp only
  repeat' (first
    | with_reducible assumption
    | with_reducible apply Hw.setLaunch_ok
    | with_reducible apply Hw.writeVa_ok
    | split)

theorem Hw.writeRecord_ok {h : Hw} (hok : h.Ok) (l : Launch) (status : Nat) : (Hw.writeRecord h l status).Ok := by
  unfold Hw.writeRecord
  try dsimp only
  repeat' (first
    | with_reducible assumption
    | with_reducible apply Hw.writeVa_ok
    | split)

theorem Hw.updateRecord_ok {h : Hw} (hok : h.Ok) (l : Launch) : (Hw.updateRecord h l).Ok := by
  unfold Hw.updateRecord
  try dsimp only
  repeat' (first
    | with_reducible assumption
    | with_reducible apply Hw.writeVa_ok
    | split)

theorem Hw.closeSide_ok {h : Hw} (hok : h.Ok) (e : Endpoint) : (Hw.closeSide h e).Ok := by
  unfold Hw.closeSide
  try dsimp only
  repeat' (first
    | with_reducible assumption
    | with_reducible apply Hw.onRing_ok)

theorem Hw.closeEnds_ok {h : Hw} (hok : h.Ok) (co : CoreId) : (Hw.closeEnds h co).Ok := by
  unfold Hw.closeEnds
  try dsimp only
  repeat' (first
    | with_reducible assumption
    | with_reducible apply Hw.onCore_ok
    | with_reducible apply Hw.closeSide_ok
    | with_reducible apply foldl_ok
    | split
    | intro _)

theorem Hw.dropLease_ok {h : Hw} (hok : h.Ok) (co : CoreId) : (Hw.dropLease h co).Ok := by
  unfold Hw.dropLease
  try dsimp only
  repeat' (first
    | with_reducible assumption
    | with_reducible apply Hw.onArr_ok
    | with_reducible apply Hw.endRun_ok
    | split)

theorem Hw.checkDeadline_ok {h : Hw} (hok : h.Ok) (co : CoreId) (t : Task) : (Hw.checkDeadline h co t).Ok := by
  unfold Hw.checkDeadline
  try dsimp only
  repeat' (first
    | with_reducible assumption
    | with_reducible apply Hw.logSlip_ok
    | split)

theorem Hw.retire_ok {h : Hw} (hok : h.Ok) (co : CoreId) (t : Task) : (Hw.retire h co t).Ok := by
  unfold Hw.retire
  try dsimp only
  repeat' (first
    | with_reducible assumption
    | with_reducible apply Hw.onCore_ok
    | with_reducible apply Hw.onLaunch_ok
    | with_reducible apply Hw.settleBars_ok
    | with_reducible apply Hw.closeEnds_ok
    | with_reducible apply Hw.dropLease_ok
    | with_reducible apply Hw.checkDeadline_ok)

theorem execTaskRetirement_ok (co : CoreId) {s : State} (hok : s.Inv) : OutOk (execTaskRetirement co s) := by
  unfold execTaskRetirement
  try dsimp only
  repeat' (first
    | with_reducible assumption
    | with_reducible apply Hw.takeTrap_ok
    | with_reducible apply State.upd_ok
    | with_reducible apply State.attempt_ok
    | with_reducible apply Hw.retire_ok
    | with_reducible apply foldl_ok
    | with_reducible apply foldl_pair_ok
    | refine ok_of_some (by with_reducible assumption) ?_
    | refine ok_of_pair (by with_reducible assumption) ?_
    | refine ok_of_some2 (by with_reducible assumption) ?_
    | with_reducible apply State.upd_ok
    | with_reducible apply State.attempt_ok
    | with_reducible apply settle_ok
    | with_reducible apply chk_ok
    | with_reducible apply chk_err
    | with_reducible apply chk_trap
    | with_reducible apply chk_bind_st
    | with_reducible apply chk_bind
    | with_reducible apply out_next
    | with_reducible apply opt_getD
    | with_reducible apply opt_none
    | with_reducible apply opt_some
    | with_reducible apply opt_map
    | with_reducible apply opt_bind
    | split
    | intro _
    | dsimp only
    | assumption)

theorem Hw.placeTasks_ok {h : Hw} (hok : h.Ok) (lid : Nat) (e : Entry) (ts : List TaskRec) : (h.placeTasks lid e ts).Ok := by
  induction ts generalizing h with
  | nil => exact hok
  | cons r t ih =>
    unfold Hw.placeTasks
    try dsimp only
    repeat' (first
      | with_reducible assumption
      | with_reducible apply ih
      | with_reducible apply Hw.onCore_ok
      | with_reducible apply Hw.onLaunch_ok
      | with_reducible apply Hw.setLaunch_ok
      | with_reducible apply foldl_ok
      | split
      | intro _
      | dsimp only
      | assumption)

theorem execEntryRelease_ok (lid : Nat) (ent : Nat) {s : State} (hok : s.Inv) : OutOk (execEntryRelease lid ent s) := by
  unfold execEntryRelease
  try dsimp only
  repeat' (first
    | with_reducible assumption
    | with_reducible apply State.upd_ok
    | with_reducible apply Hw.placeTasks_ok
    | with_reducible apply out_next
    | split
    | intro _)

theorem execFrameScheduledEnd_ok (lid : Nat) {s : State} (hok : s.Inv) : OutOk (execFrameScheduledEnd lid s) := by
  unfold execFrameScheduledEnd
  try dsimp only
  repeat' (first
    | with_reducible assumption
    | with_reducible apply State.upd_ok
    | with_reducible apply Hw.setLaunch_ok
    | with_reducible apply out_next
    | split
    | intro _)

theorem Hw.endSlipping_ok {h : Hw} (hok : h.Ok) (l : Launch) : (Hw.endSlipping h l).Ok := by
  unfold Hw.endSlipping
  try dsimp only
  repeat' (first
    | with_reducible assumption
    | with_reducible apply Hw.failLaunch_ok
    | with_reducible apply Hw.logSlip_ok)

theorem execSlipLimit_ok (lid : Nat) {s : State} (hok : s.Inv) : OutOk (execSlipLimit lid s) := by
  unfold execSlipLimit
  try dsimp only
  repeat' (first
    | with_reducible assumption
    | with_reducible apply State.attempt_ok
    | with_reducible apply Hw.endSlipping_ok
    | with_reducible apply foldl_ok
    | with_reducible apply foldl_pair_ok
    | refine ok_of_some (by with_reducible assumption) ?_
    | refine ok_of_pair (by with_reducible assumption) ?_
    | refine ok_of_some2 (by with_reducible assumption) ?_
    | with_reducible apply State.upd_ok
    | with_reducible apply State.attempt_ok
    | with_reducible apply settle_ok
    | with_reducible apply chk_ok
    | with_reducible apply chk_err
    | with_reducible apply chk_trap
    | with_reducible apply chk_bind_st
    | with_reducible apply chk_bind
    | with_reducible apply out_next
    | with_reducible apply opt_getD
    | with_reducible apply opt_none
    | with_reducible apply opt_some
    | with_reducible apply opt_map
    | with_reducible apply opt_bind
    | split
    | intro _
    | dsimp only
    | assumption)

theorem Hw.writeGrant_ok {h : Hw} (hok : h.Ok) (l : Launch) (va : Nat) (bs : List Byte) : (Hw.writeGrant h l va bs).2.Ok := by
  unfold Hw.writeGrant
  try dsimp only
  repeat' (first
    | with_reducible assumption
    | with_reducible apply Hw.writeVa_ok
    | split)

theorem Hw.writeParts_ok {h : Hw} (hok : h.Ok) (l : Launch) (img : Nat) (ps : List ImgPart) :
    (h.writeParts l img ps).2.Ok := by
  induction ps generalizing h with
  | nil => exact hok
  | cons p t ih =>
    unfold Hw.writeParts
    split
    · next e => exact ih (ok_of_pair e (Hw.writeGrant_ok hok _ _ _))
    · next e => exact ok_of_pair e (Hw.writeGrant_ok hok _ _ _)

theorem Hw.clearDirty_ok {h : Hw} (hok : h.Ok) (co : CoreId) : (Hw.clearDirty h co).Ok := by
  unfold Hw.clearDirty
  try dsimp only
  repeat' (first
    | with_reducible assumption
    | with_reducible apply Hw.onCore_ok
    | with_reducible apply Hw.clearLines_ok
    | with_reducible apply foldl_ok
    | with_reducible apply foldl_pair_ok
    | refine ok_of_some (by with_reducible assumption) ?_
    | refine ok_of_pair (by with_reducible assumption) ?_
    | refine ok_of_some2 (by with_reducible assumption) ?_
    | with_reducible apply State.upd_ok
    | with_reducible apply State.attempt_ok
    | with_reducible apply settle_ok
    | with_reducible apply chk_ok
    | with_reducible apply chk_err
    | with_reducible apply chk_trap
    | with_reducible apply chk_bind_st
    | with_reducible apply chk_bind
    | with_reducible apply out_next
    | with_reducible apply opt_getD
    | with_reducible apply opt_none
    | with_reducible apply opt_some
    | with_reducible apply opt_map
    | with_reducible apply opt_bind
    | split
    | intro _
    | dsimp only
    | assumption)

theorem Hw.writeImage_ok {h : Hw} (hok : h.Ok) (l : Launch) (img : Nat) : (h.writeImage l img).2.Ok := by
  unfold Hw.writeImage
  extract_lets h1 full ords cores rings contOff parts total head
  have hk : h1.Ok := by
    apply foldl_ok hok
    intro h co w
    split
    · exact w
    · exact Hw.prepareFor_ok w _ _
  have hh : ∀ (g : Hw) (v : Bool) (n : Nat), g.Ok → (head g v n).2.Ok := by
    intro g v n w
    dsimp only [head]
    exact Hw.writeGrant_ok w _ _ _
  clear_value head h1 parts cores total
  cases e1 : head h1 false 0 with
  | mk b1 h2 =>
    have k2 : h2.Ok := ok_of_pair e1 (hh _ _ _ hk)
    cases b1 with
    | false =>
      dsimp only
      exact k2
    | true =>
      dsimp only
      cases e2 : h2.writeParts l img parts with
      | mk b2 h3 =>
        have k3 : h3.Ok := ok_of_pair e2 (Hw.writeParts_ok k2 _ _ _)
        cases b2 with
        | false =>
          dsimp only
          exact k3
        | true =>
          dsimp only
          exact hh _ _ _ (foldl_ok k3 (fun h x w => Hw.clearDirty_ok w _))

theorem Hw.restoreCore_ok {h : Hw} (hok : h.Ok) (l : Launch) (co : CoreId) (bs : List Byte) : (Hw.restoreCore h l co bs).Ok := by
  unfold Hw.restoreCore
  try dsimp only
  repeat' (first
    | with_reducible assumption
    | with_reducible apply Hw.write_ok
    | with_reducible apply Hw.onCore_ok
    | with_reducible apply Hw.clearDirty_ok
    | with_reducible apply foldl_ok
    | intro _)

theorem Hw.restoreRing_ok {h : Hw} (hok : h.Ok) (bs : List Byte) : (Hw.restoreRing h bs).Ok := by
  unfold Hw.restoreRing
  try dsimp only
  repeat' (first
    | with_reducible assumption
    | with_reducible apply Hw.write_ok
    | with_reducible apply Hw.onRing_ok)

end Sys2Proof.Machine
end

