-- ==== Sys2Proof/Laws/Keep4.lean ====
section
/-! SUPPORT. Every operation and every meaning keeps memory in its canonical form (Queues, Boundary, Traps, Harbour). -/

namespace Sys2Proof.Machine
set_option Elab.async false
set_option linter.all false

theorem Hw.markHead_ok {h : Hw} (hok : h.Ok) (q : Nat) : (Hw.markHead h q).Ok := by
  unfold Hw.markHead
  try dsimp only
  repeat' (first
    | with_reducible assumption
    | with_reducible apply Hw.onQueue_ok)

theorem Hw.copyRidx_ok {h : Hw} (hok : h.Ok) (q : Nat) : (Hw.copyRidx h q).Ok := by
  unfold Hw.copyRidx
  try dsimp only
  repeat' (first
    | with_reducible assumption
    | with_reducible apply Hw.writeAs_ok
    | with_reducible apply foldl_ok
    | with_reducible apply foldl_pair_ok
    | refine ok_of_some (by with_reducible assumption) ?_
    | refine ok_of_pair (by with_reducible assumption) ?_
    | refine ok_of_some2 (by with_reducible assumption) ?_
    | with_reducible apply State.upd_ok
    | with_reducible apply State.attempt_ok
    | with_reducible apply settle_ok
    | with_reducible apply chk_ok
    | with_reducible apply chk_err
    | with_reducible apply chk_trap
    | with_reducible apply chk_bind_st
    | with_reducible apply chk_bind
    | with_reducible apply out_next
    | with_reducible apply opt_getD
    | with_reducible apply opt_none
    | with_reducible apply opt_some
    | with_reducible apply opt_map
    | with_reducible apply opt_bind
    | split
    | intro _
    | dsimp only
    | assumption)

theorem Hw.passHead_ok {h : Hw} (hok : h.Ok) (q : Nat) (p : Packet) : (Hw.passHead h q p).Ok := by
  unfold Hw.passHead
  try dsimp only
  repeat' (first
    | with_reducible assumption
    | with_reducible apply Hw.onQueue_ok
    | with_reducible apply Hw.copyRidx_ok)

theorem Hw.issueHead_ok {h : Hw} (hok : h.Ok) (q : Nat) (p : Packet) (runs : Bool) : (Hw.issueHead h q p runs).Ok := by
  unfold Hw.issueHead
  try dsimp only
  repeat' (first
    | with_reducible assumption
    | with_reducible apply Hw.onQueue_ok
    | with_reducible apply Hw.settleUnmap_ok
    | with_reducible apply Hw.markHead_ok
    | with_reducible apply Hw.passHead_ok)

theorem Hw.issueStart_ok {h : Hw} (hok : h.Ok) (l : Launch) : (Hw.issueStart h l).Ok := by
  unfold Hw.issueStart
  try dsimp only
  repeat' (first
    | with_reducible assumption
    | with_reducible apply Hw.issueHead_ok
    | split)

theorem Hw.takeIsle_ok {h : Hw} (hok : h.Ok) (root : Nat) (isle : Nat) : (Hw.takeIsle h root isle).2.Ok := by
  unfold Hw.takeIsle
  try dsimp only
  repeat' (first
    | with_reducible assumption
    | with_reducible apply Hw.setIsle_ok)

theorem Hw.takeIsles_ok {h : Hw} (hok : h.Ok) (root : Nat) (is : List Nat) : (h.takeIsles root is).2.Ok := by
  induction is generalizing h with
  | nil => exact hok
  | cons i t ih =>
    unfold Hw.takeIsles
    dsimp only
    exact ih (Hw.takeIsle_ok hok _ _)

theorem Hw.completePlace_ok {h : Hw} (hok : h.Ok) (q : Nat) (place : Nat) : (Hw.completePlace h q place).Ok := by
  unfold Hw.completePlace
  try dsimp only
  repeat' (first
    | with_reducible assumption
    | with_reducible apply Hw.onQueue_ok)

theorem Hw.endLaunch_ok {h : Hw} (hok : h.Ok) (l : Launch) (status : Nat) : (Hw.endLaunch h l status).Ok := by
  unfold Hw.endLaunch
  try dsimp only
  repeat' (first
    | with_reducible assumption
    | with_reducible apply Hw.settleRoutes_ok
    | with_reducible apply Hw.settlePending_ok
    | with_reducible apply Hw.freeIsle_ok
    | with_reducible apply Hw.writeRecord_ok
    | with_reducible apply Hw.issueStart_ok
    | with_reducible apply Hw.completePlace_ok
    | with_reducible apply foldl_ok
    | split
    | intro _)

theorem Hw.collect_ok {h : Hw} (hok : h.Ok) (lid : Nat) : (Hw.collect h lid).Ok := by
  unfold Hw.collect
  try dsimp only
  repeat' (first
    | with_reducible assumption
    | with_reducible apply Hw.onLaunch_ok)

theorem Hw.readTables_ok {h : Hw} (hok : h.Ok) (m : Master) (root : Nat) : (Hw.readTables h m root).Ok := by
  unfold Hw.readTables
  try dsimp only
  repeat' (first
    | with_reducible assumption
    | with_reducible apply Hw.reading_ok
    | with_reducible apply foldl_ok
    | with_reducible apply foldl_pair_ok
    | refine ok_of_some (by with_reducible assumption) ?_
    | refine ok_of_pair (by with_reducible assumption) ?_
    | refine ok_of_some2 (by with_reducible assumption) ?_
    | with_reducible apply State.upd_ok
    | with_reducible apply State.attempt_ok
    | with_reducible apply settle_ok
    | with_reducible apply chk_ok
    | with_reducible apply chk_err
    | with_reducible apply chk_trap
    | with_reducible apply chk_bind_st
    | with_reducible apply chk_bind
    | with_reducible apply out_next
    | with_reducible apply opt_getD
    | with_reducible apply opt_none
    | with_reducible apply opt_some
    | with_reducible apply opt_map
    | with_reducible apply opt_bind
    | split
    | intro _
    | dsimp only
    | assumption)

theorem Hw.copyLines_ok {h : Hw} (w : h.Ok) (old new n : Nat) : (h.copyLines old new n).Ok := by
  unfold Hw.copyLines
  extract_lets h1 cells metas kept
  have k : h1.Ok := foldl_ok w (fun g e wg => by
    split
    · exact Hw.checkLine_ok wg _ _
    · exact wg)
  exact Memory.wf_foldl _ (fun _ _ w => Memory.wf_write _ _ w) _ (Memory.wf_clear _ _ k)

theorem Hw.moveLeaf_ok {h : Hw} (hok : h.Ok) (m : MapLeaf) (old : Nat) (new : Nat) : (Hw.moveLeaf h m old new).Ok := by
  unfold Hw.moveLeaf
  try dsimp only
  repeat' (first
    | with_reducible assumption
    | with_reducible apply Hw.writeLine_ok)

theorem Hw.moveBlock_ok {h : Hw} (hok : h.Ok) (l : Launch) (leaves : List MapLeaf) (old : Nat) (new : Nat) : (Hw.moveBlock h l leaves old new).Ok := by
  unfold Hw.moveBlock
  try dsimp only
  repeat' (first
    | with_reducible assumption
    | with_reducible apply Hw.onIsle_ok
    | with_reducible apply Hw.onLaunch_ok
    | with_reducible apply Hw.releaseMonitors_ok
    | with_reducible apply Hw.copyLines_ok
    | with_reducible apply Hw.moveLeaf_ok
    | with_reducible apply foldl_ok
    | with_reducible apply foldl_pair_ok
    | refine ok_of_some (by with_reducible assumption) ?_
    | refine ok_of_pair (by with_reducible assumption) ?_
    | refine ok_of_some2 (by with_reducible assumption) ?_
    | with_reducible apply State.upd_ok
    | with_reducible apply State.attempt_ok
    | with_reducible apply settle_ok
    | with_reducible apply chk_ok
    | with_reducible apply chk_err
    | with_reducible apply chk_trap
    | with_reducible apply chk_bind_st
    | with_reducible apply chk_bind
    | with_reducible apply out_next
    | with_reducible apply opt_getD
    | with_reducible apply opt_none
    | with_reducible apply opt_some
    | with_reducible apply opt_map
    | with_reducible apply opt_bind
    | split
    | intro _
    | dsimp only
    | assumption)

theorem Hw.migrateUnless_ok {h : Hw} (hok : h.Ok) (l : Launch) (leaves : List MapLeaf) (old new : Nat) (bar : Option (Nat × Nat)) :
    (h.migrateUnless l leaves old new bar).Ok := by
  cases bar with
  | none => exact Hw.moveBlock_ok hok _ _ _ _
  | some x => exact Hw.meetBar_ok hok _ _ _

theorem Hw.migrate_ok {h : Hw} (hok : h.Ok) (l : Launch) (leaves : List MapLeaf) (old new : Nat) : (h.migrate l leaves old new).Ok :=
  Hw.migrateUnless_ok hok _ _ _ _ _

theorem Hw.migrateOne_ok {h : Hw} (hok : h.Ok) (lid : Nat) (mine others : List MapLeaf) (b : Nat) : (h.migrateOne lid mine others b).Ok := by
  unfold Hw.migrateOne
  split
  · exact hok
  · split
    · exact hok
    · split
      · exact Hw.migrate_ok hok _ _ _ _
      · exact hok

/-- The page counters are no part of memory. -/
theorem Hw.withPages_ok {h : Hw} (hok : h.Ok) (p : List (Nat × PageCnt)) : ({ h with pagecnt := p } : Hw).Ok := hok
theorem Hw.migratePages_ok {h : Hw} (hok : h.Ok) (lid : Nat) : (Hw.migratePages h lid).Ok := by
  unfold Hw.migratePages
  split
  · exact hok
  · exact Hw.withPages_ok (foldl_ok (foldl_ok hok fun h e hok => Hw.readTables_ok hok _ _)
      fun h b hok => Hw.migrateOne_ok hok _ _ _ _) _

theorem Hw.replaceOne_ok {h : Hw} (hok : h.Ok) (l : Launch) (x : Nat × BitVec 4) (t : IsleList) (o : Nat) :
    ∀ r, h.replaceOne l x t o = some r → r.2.2.Ok := by
  intro r e
  unfold Hw.replaceOne at e
  split at e
  · cases e; exact hok
  · obtain ⟨j, -, rfl⟩ := Option.map_eq_some_iff.1 e
    exact Hw.setLaunch_ok (Hw.takeIsle_ok (Hw.freeIsle_ok hok _ _ _) _ _) _
theorem Hw.replaceBase_ok {h : Hw} (hok : h.Ok) (l : Launch) (xs : IsleList) (o : Nat) : OptOk2 (h.replaceBase l xs o) := by
  induction xs generalizing h l o with
  | nil => exact opt2_some hok
  | cons x t ih =>
    rw [Hw.replaceBase]
    split
    · exact opt2_none
    · rename_i e
      exact opt2_map (ih (Hw.replaceOne_ok hok _ _ _ _ _ e) _ _)

theorem Hw.elasticChange_ok {h : Hw} (hok : h.Ok) (l : Launch) (xs : IsleList) (el : Elastic) : (Hw.elasticChange h l xs el).2.Ok := by
  unfold Hw.elasticChange
  try dsimp only
  repeat' (first
    | with_reducible assumption
    | with_reducible apply Hw.freeIsle_ok
    | with_reducible apply Hw.takeIsles_ok
    | with_reducible apply foldl_ok
    | split
    | intro _)

theorem Hw.nextElastic_ok {h : Hw} (hok : h.Ok) (l : Launch) : (Hw.nextElastic h l).2.Ok := by
  unfold Hw.nextElastic
  try dsimp only
  repeat' (first
    | with_reducible assumption
    | with_reducible apply Hw.meetErrs_ok
    | with_reducible apply Hw.ttFailed_ok
    | with_reducible apply foldl_ok
    | with_reducible apply foldl_pair_ok
    | refine ok_of_some (by with_reducible assumption) ?_
    | refine ok_of_pair (by with_reducible assumption) ?_
    | refine ok_of_some2 (by with_reducible assumption) ?_
    | with_reducible apply State.upd_ok
    | with_reducible apply State.attempt_ok
    | with_reducible apply settle_ok
    | with_reducible apply chk_ok
    | with_reducible apply chk_err
    | with_reducible apply chk_trap
    | with_reducible apply chk_bind_st
    | with_reducible apply chk_bind
    | with_reducible apply out_next
    | with_reducible apply opt_getD
    | with_reducible apply opt_none
    | with_reducible apply opt_some
    | with_reducible apply opt_map
    | with_reducible apply opt_bind
    | split
    | intro _
    | dsimp only
    | assumption)

theorem Hw.serveChanges_ok {h : Hw} (hok : h.Ok) (lid : Nat) : (Hw.serveChanges h lid).Ok := by
  unfold Hw.serveChanges
  try dsimp only
  repeat' (first
    | with_reducible assumption
    | with_reducible apply Hw.setLaunch_ok
    | with_reducible apply Hw.settleRoutes_ok
    | with_reducible apply Hw.applyPending_ok
    | with_reducible apply foldl_ok
    | split
    | intro _)

theorem Hw.changeIsles_ok {h : Hw} (hok : h.Ok) (lid : Nat) (el : Elastic) : (Hw.changeIsles h lid el).Ok := by
  unfold Hw.changeIsles
  try dsimp only
  repeat' (first
    | with_reducible assumption
    | with_reducible apply Hw.setLaunch_ok
    | with_reducible apply Hw.failLaunch_ok
    | with_reducible apply Hw.prepareAll_ok
    | with_reducible apply Hw.replaceBase_ok
    | with_reducible apply Hw.elasticChange_ok
    | with_reducible apply Hw.nextElastic_ok
    | with_reducible apply foldl_ok
    | with_reducible apply foldl_pair_ok
    | refine ok_of_some (by with_reducible assumption) ?_
    | refine ok_of_pair (by with_reducible assumption) ?_
    | refine ok_of_some2 (by with_reducible assumption) ?_
    | with_reducible apply State.upd_ok
    | with_reducible apply State.attempt_ok
    | with_reducible apply settle_ok
    | with_reducible apply chk_ok
    | with_reducible apply chk_err
    | with_reducible apply chk_trap
    | with_reducible apply chk_bind_st
    | with_reducible apply chk_bind
    | with_reducible apply out_next
    | with_reducible apply opt_getD
    | with_reducible apply opt_none
    | with_reducible apply opt_some
    | with_reducible apply opt_map
    | with_reducible apply opt_bind
    | split
    | intro _
    | dsimp only
    | assumption)

theorem Hw.slipRecord_ok {h : Hw} (hok : h.Ok) (l : Launch) : (Hw.slipRecord h l).Ok := by
  unfold Hw.slipRecord
  try dsimp only
  repeat' (first
    | with_reducible assumption
    | with_reducible apply Hw.logSlip_ok
    | split)

theorem Hw.takePreempt_ok {h : Hw} (hok : h.Ok) (l : Launch) (img : Nat) : (Hw.takePreempt h l img).Ok := by
  unfold Hw.takePreempt
  try dsimp only
  repeat' (first
    | with_reducible assumption
    | with_reducible apply Hw.queueFault_ok
    | with_reducible apply Hw.writeImage_ok
    | with_reducible apply Hw.endLaunch_ok
    | split)

theorem Hw.boundaryEnd_ok {h : Hw} (hok : h.Ok) (lid : Nat) (el : Elastic) : (Hw.boundaryEnd h lid el).Ok := by
  unfold Hw.boundaryEnd
  try dsimp only
  repeat' (first
    | with_reducible assumption
    | with_reducible apply Hw.setLaunch_ok
    | with_reducible apply Hw.onLaunch_ok
    | with_reducible apply Hw.updateRecord_ok
    | with_reducible apply Hw.endLaunch_ok
    | with_reducible apply Hw.changeIsles_ok
    | with_reducible apply Hw.takePreempt_ok
    | split)

theorem Hw.boundaryGo_ok {h : Hw} (hok : h.Ok) (lid : Nat) (el : Elastic) : (Hw.boundaryGo h lid el).Ok := by
  unfold Hw.boundaryGo
  try dsimp only
  repeat' (first
    | with_reducible assumption
    | with_reducible apply Hw.boundaryEnd_ok
    | split)

theorem Hw.boundary_ok {h : Hw} (hok : h.Ok) (lid : Nat) (el : Elastic) : (Hw.boundary h lid el).Ok := by
  unfold Hw.boundary
  try dsimp only
  repeat' (first
    | with_reducible assumption
    | with_reducible apply Hw.onLaunch_ok
    | with_reducible apply Hw.collect_ok
    | with_reducible apply Hw.migratePages_ok
    | with_reducible apply Hw.serveChanges_ok
    | with_reducible apply Hw.slipRecord_ok
    | with_reducible apply Hw.boundaryGo_ok
    | split)

theorem execFrameComplete_ok (lid : Nat) (el : Elastic) {s : State} (hok : s.Inv) : OutOk (execFrameComplete lid el s) := by
  unfold execFrameComplete
  try dsimp only
  repeat' (first
    | with_reducible assumption
    | with_reducible apply Hw.setLaunch_ok
    | with_reducible apply State.attempt_ok
    | with_reducible apply Hw.endSlipping_ok
    | with_reducible apply Hw.boundaryGo_ok
    | with_reducible apply Hw.boundary_ok
    | with_reducible apply foldl_ok
    | with_reducible apply foldl_pair_ok
    | refine ok_of_some (by with_reducible assumption) ?_
    | refine ok_of_pair (by with_reducible assumption) ?_
    | refine ok_of_some2 (by with_reducible assumption) ?_
    | with_reducible apply State.upd_ok
    | with_reducible apply State.attempt_ok
    | with_reducible apply settle_ok
    | with_reducible apply chk_ok
    | with_reducible apply chk_err
    | with_reducible apply chk_trap
    | with_reducible apply chk_bind_st
    | with_reducible apply chk_bind
    | with_reducible apply out_next
    | with_reducible apply opt_getD
    | with_reducible apply opt_none
    | with_reducible apply opt_some
    | with_reducible apply opt_map
    | with_reducible apply opt_bind
    | split
    | intro _
    | dsimp only
    | assumption)

theorem Hw.beginFrame_ok {h : Hw} (hok : h.Ok) (l : Launch) (f : FrameTab) (es : List Entry) : (Hw.beginFrame h l f es).Ok := by
  unfold Hw.beginFrame
  try dsimp only
  repeat' (first
    | with_reducible assumption
    | with_reducible apply Hw.setLaunch_ok
    | with_reducible apply Hw.writeRecord_ok
    | with_reducible apply Hw.issueStart_ok
    | with_reducible apply foldl_ok
    | with_reducible apply foldl_pair_ok
    | refine ok_of_some (by with_reducible assumption) ?_
    | refine ok_of_pair (by with_reducible assumption) ?_
    | refine ok_of_some2 (by with_reducible assumption) ?_
    | with_reducible apply State.upd_ok
    | with_reducible apply State.attempt_ok
    | with_reducible apply settle_ok
    | with_reducible apply chk_ok
    | with_reducible apply chk_err
    | with_reducible apply chk_trap
    | with_reducible apply chk_bind_st
    | with_reducible apply chk_bind
    | with_reducible apply out_next
    | with_reducible apply opt_getD
    | with_reducible apply opt_none
    | with_reducible apply opt_some
    | with_reducible apply opt_map
    | with_reducible apply opt_bind
    | split
    | intro _
    | dsimp only
    | assumption)

theorem execFrameStart_ok (lid : Nat) {s : State} (hok : s.Inv) : OutOk (execFrameStart lid s) := by
  unfold execFrameStart
  try dsimp only
  repeat' (first
    | with_reducible assumption
    | with_reducible apply State.attempt_ok
    | with_reducible apply Hw.meetErrs_ok
    | with_reducible apply Hw.failLaunch_ok
    | with_reducible apply Hw.ttFailed_ok
    | with_reducible apply Hw.boundary_ok
    | with_reducible apply Hw.beginFrame_ok
    | with_reducible apply foldl_ok
    | with_reducible apply foldl_pair_ok
    | refine ok_of_some (by with_reducible assumption) ?_
    | refine ok_of_pair (by with_reducible assumption) ?_
    | refine ok_of_some2 (by with_reducible assumption) ?_
    | with_reducible apply State.upd_ok
    | with_reducible apply State.attempt_ok
    | with_reducible apply settle_ok
    | with_reducible apply chk_ok
    | with_reducible apply chk_err
    | with_reducible apply chk_trap
    | with_reducible apply chk_bind_st
    | with_reducible apply chk_bind
    | with_reducible apply out_next
    | with_reducible apply opt_getD
    | with_reducible apply opt_none
    | with_reducible apply opt_some
    | with_reducible apply opt_map
    | with_reducible apply opt_bind
    | split
    | intro _
    | dsimp only
    | assumption)

theorem Hw.closeTrapped_ok {h : Hw} (hok : h.Ok) (co : CoreId) : (Hw.closeTrapped h co).Ok := by
  unfold Hw.closeTrapped
  try dsimp only
  repeat' (first
    | with_reducible assumption
    | with_reducible apply Hw.closeSide_ok
    | with_reducible apply foldl_ok
    | split
    | intro _)

theorem Hw.discardWork_ok {h : Hw} (hok : h.Ok) (l : Launch) : (Hw.discardWork h l).Ok := by
  unfold Hw.discardWork
  try dsimp only
  repeat' (first
    | with_reducible assumption
    | with_reducible apply Hw.onCore_ok
    | with_reducible apply Hw.endStep_ok
    | with_reducible apply Hw.dropLease_ok
    | with_reducible apply Hw.closeTrapped_ok
    | with_reducible apply foldl_ok
    | intro _)

theorem execLaunchAbort_ok (lid : Nat) {s : State} (hok : s.Inv) : OutOk (execLaunchAbort lid s) := by
  unfold execLaunchAbort
  try dsimp only
  repeat' (first
    | with_reducible assumption
    | with_reducible apply State.upd_ok
    | with_reducible apply State.attempt_ok
    | with_reducible apply Hw.logFault_ok
    | with_reducible apply Hw.endLaunch_ok
    | with_reducible apply Hw.discardWork_ok
    | with_reducible apply foldl_ok
    | with_reducible apply foldl_pair_ok
    | refine ok_of_some (by with_reducible assumption) ?_
    | refine ok_of_pair (by with_reducible assumption) ?_
    | refine ok_of_some2 (by with_reducible assumption) ?_
    | with_reducible apply State.upd_ok
    | with_reducible apply State.attempt_ok
    | with_reducible apply settle_ok
    | with_reducible apply chk_ok
    | with_reducible apply chk_err
    | with_reducible apply chk_trap
    | with_reducible apply chk_bind_st
    | with_reducible apply chk_bind
    | with_reducible apply out_next
    | with_reducible apply opt_getD
    | with_reducible apply opt_none
    | with_reducible apply opt_some
    | with_reducible apply opt_map
    | with_reducible apply opt_bind
    | split
    | intro _
    | dsimp only
    | assumption)

theorem Hw.takePiece_ok {h : Hw} (hok : h.Ok) (m : Master) (lid size : Nat) : (h.takePiece m lid size).2.Ok := by
  unfold Hw.takePiece
  split
  · exact hok
  · split
    · exact Hw.meetBar_ok hok _ _ _
    · exact Memory.wf_clear _ _ hok

theorem Hw.putEntry_ok {h : Hw} (hok : h.Ok) (m : Master) (table level va e : Nat) : (h.putEntry m table level va e).2.Ok := by
  unfold Hw.putEntry
  dsimp only
  exact Hw.writeAs_ok hok _ _ _

theorem Hw.mapFrom_ok {h : Hw} (hok : h.Ok) (m : Master) (lid va : Nat) (b : Bool) (f level table : Nat) :
    (h.mapFrom m lid va b f level table).2.Ok := by
  induction f generalizing h level table with
  | zero => exact hok
  | succ f ih =>
    unfold Hw.mapFrom
    have w := Hw.takePiece_ok hok m lid (if level = 3 then 65536 else tableSize (level + 1))
    generalize h.takePiece m lid _ = p at w
    obtain ⟨_ | a, g⟩ := p
    · exact w
    · dsimp only
      split
      · exact Hw.putEntry_ok w _ _ _ _ _
      · have w2 := Hw.putEntry_ok w m table level va (a + 1)
        generalize g.putEntry m table level va (a + 1) = r at w2
        obtain ⟨_ | _, g2⟩ := r
        · exact w2
        · exact ih w2 _ _

theorem Hw.demandMap_ok {h : Hw} (hok : h.Ok) (m : Master) (l : Launch) (va level : Nat) : (h.demandMap m l va level).2.Ok :=
  Hw.mapFrom_ok hok _ _ _ _ _ _ _

theorem Hw.cowRepair_ok {h : Hw} (hok : h.Ok) (m : Master) (l : Launch) (va : Nat) (f : Leaf) (level : Nat) :
    (h.cowRepair m l va f level).2.Ok := by
  unfold Hw.cowRepair
  split
  · exact Hw.meetBar_ok hok _ _ _
  · have w := Hw.takePiece_ok hok m l.lid f.size
    generalize h.takePiece m l.lid f.size = p at w
    obtain ⟨_ | a, g⟩ := p
    · exact w
    · exact foldl_ok (Hw.putEntry_ok (Hw.copyLines_ok w _ _ _) _ _ _ _ _) (fun _ _ w => Hw.onIsle_ok w _ _)

theorem Hw.forwardStop_ok {h : Hw} (hok : h.Ok) (co : CoreId) (t : Task) (r : TrapRec) : (Hw.forwardStop h co t r).Ok := by
  unfold Hw.forwardStop
  try dsimp only
  repeat' (first
    | with_reducible assumption
    | with_reducible apply Hw.setCore_ok
    | with_reducible apply Hw.failLaunch_ok
    | with_reducible apply foldl_ok
    | intro _)

theorem Hw.serveRecord_ok {h : Hw} (hok : h.Ok) (co : CoreId) (t : Task) (r : TrapRec) : (Hw.serveRecord h co t r).Ok := by
  unfold Hw.serveRecord
  try dsimp only
  repeat' (first
    | with_reducible assumption
    | with_reducible apply Hw.onCore_ok
    | with_reducible apply Hw.reading_ok
    | with_reducible apply Hw.demandMap_ok
    | with_reducible apply Hw.cowRepair_ok
    | with_reducible apply Hw.forwardStop_ok
    | with_reducible apply foldl_ok
    | with_reducible apply foldl_pair_ok
    | refine ok_of_some (by with_reducible assumption) ?_
    | refine ok_of_pair (by with_reducible assumption) ?_
    | refine ok_of_some2 (by with_reducible assumption) ?_
    | with_reducible apply State.upd_ok
    | with_reducible apply State.attempt_ok
    | with_reducible apply settle_ok
    | with_reducible apply chk_ok
    | with_reducible apply chk_err
    | with_reducible apply chk_trap
    | with_reducible apply chk_bind_st
    | with_reducible apply chk_bind
    | with_reducible apply out_next
    | with_reducible apply opt_getD
    | with_reducible apply opt_none
    | with_reducible apply opt_some
    | with_reducible apply opt_map
    | with_reducible apply opt_bind
    | split
    | intro _
    | dsimp only
    | assumption)

theorem execTrapRecordService_ok (isle : Nat) {s : State} (hok : s.Inv) : OutOk (execTrapRecordService isle s) := by
  unfold execTrapRecordService
  try dsimp only
  repeat' (first
    | with_reducible assumption
    | with_reducible apply Hw.setIsle_ok
    | with_reducible apply State.attempt_ok
    | with_reducible apply Hw.serveRecord_ok
    | with_reducible apply foldl_ok
    | with_reducible apply foldl_pair_ok
    | refine ok_of_some (by with_reducible assumption) ?_
    | refine ok_of_pair (by with_reducible assumption) ?_
    | refine ok_of_some2 (by with_reducible assumption) ?_
    | with_reducible apply State.upd_ok
    | with_reducible apply State.attempt_ok
    | with_reducible apply settle_ok
    | with_reducible apply chk_ok
    | with_reducible apply chk_err
    | with_reducible apply chk_trap
    | with_reducible apply chk_bind_st
    | with_reducible apply chk_bind
    | with_reducible apply out_next
    | with_reducible apply opt_getD
    | with_reducible apply opt_none
    | with_reducible apply opt_some
    | with_reducible apply opt_map
    | with_reducible apply opt_bind
    | split
    | intro _
    | dsimp only
    | assumption)

theorem execCctlResume_ok (co : CoreId) {s : State} (hok : s.Inv) : OutOk (execCctlResume co s) := by
  unfold execCctlResume
  try dsimp only
  repeat' (first
    | with_reducible assumption
    | with_reducible apply Hw.onCore_ok
    | with_reducible apply State.upd_ok
    | with_reducible apply out_next
    | split
    | intro _)

theorem execLctlAbort_ok (lid : Nat) {s : State} (hok : s.Inv) : OutOk (execLctlAbort lid s) := by
  unfold execLctlAbort
  try dsimp only
  repeat' (first
    | with_reducible assumption
    | with_reducible apply State.upd_ok
    | with_reducible apply Hw.failLaunch_ok
    | with_reducible apply out_next
    | intro _)

theorem Hw.streamFault_ok {h : Hw} (hok : h.Ok) (site : Nat) (off : Nat) : (Hw.streamFault h site off).Ok := by
  unfold Hw.streamFault
  try dsimp only
  repeat' (first
    | with_reducible assumption
    | with_reducible apply Hw.takeTrap_ok
    | with_reducible apply Hw.failLaunch_ok
    | with_reducible apply Hw.dropStream_ok
    | split)

theorem Hw.faultUsers_ok {h : Hw} (hok : h.Ok) (site : Nat) (addr : Nat) (hit : Nat × Nat → Bool) : (Hw.faultUsers h site addr hit).Ok := by
  unfold Hw.faultUsers
  try dsimp only
  repeat' (first
    | with_reducible assumption
    | with_reducible apply Hw.failLaunch_ok
    | with_reducible apply foldl_ok
    | split
    | intro _)

theorem Hw.unitFault_ok {h : Hw} (hok : h.Ok) (isle : Nat) (addr : Nat) (c : SvcChange) : (Hw.unitFault h isle addr c).Ok := by
  unfold Hw.unitFault
  try dsimp only
  repeat' (first
    | with_reducible assumption
    | with_reducible apply Hw.noteIsle_ok
    | with_reducible apply Hw.withdraw_ok
    | with_reducible apply Hw.faultUsers_ok)

theorem Hw.portFault_ok {h : Hw} (hok : h.Ok) (site : Nat) (port : Nat) : (Hw.portFault h site port).Ok := by
  unfold Hw.portFault
  try dsimp only
  repeat' (first
    | with_reducible assumption
    | with_reducible apply State.push_ok
    | with_reducible apply Hw.onQuay_ok
    | with_reducible apply Hw.withdrawAt_ok
    | with_reducible apply Hw.faultUsers_ok
    | with_reducible apply Hw.unitFault_ok
    | with_reducible apply foldl_ok
    | with_reducible apply foldl_pair_ok
    | refine ok_of_some (by with_reducible assumption) ?_
    | refine ok_of_pair (by with_reducible assumption) ?_
    | refine ok_of_some2 (by with_reducible assumption) ?_
    | with_reducible apply State.upd_ok
    | with_reducible apply State.attempt_ok
    | with_reducible apply settle_ok
    | with_reducible apply chk_ok
    | with_reducible apply chk_err
    | with_reducible apply chk_trap
    | with_reducible apply chk_bind_st
    | with_reducible apply chk_bind
    | with_reducible apply out_next
    | with_reducible apply opt_getD
    | with_reducible apply opt_none
    | with_reducible apply opt_some
    | with_reducible apply opt_map
    | with_reducible apply opt_bind
    | split
    | intro _
    | dsimp only
    | assumption)

theorem Hw.restartHarbour_ok {h : Hw} (hok : h.Ok) : (Hw.restartHarbour h).Ok := by
  unfold Hw.restartHarbour
  try dsimp only
  repeat' with_reducible assumption

theorem Hw.memoryFault_ok {h : Hw} (hok : h.Ok) (co : CoreId) (unit : FaultUnit) (cls : Nat) (off : Nat) : (Hw.memoryFault h co unit cls off).Ok := by
  unfold Hw.memoryFault
  try dsimp only
  repeat' (first
    | with_reducible assumption
    | with_reducible apply Hw.noteIsle_ok
    | with_reducible apply Hw.faultCmd_ok
    | with_reducible apply Hw.failTile_ok
    | split)

theorem Hw.landingFault_ok {h : Hw} (hok : h.Ok) (co : CoreId) (slot : Nat) (x : LSlot) : (Hw.landingFault h co slot x).Ok := by
  unfold Hw.landingFault
  try dsimp only
  repeat' (first
    | with_reducible assumption
    | with_reducible apply Hw.noteIsle_ok
    | with_reducible apply Hw.takeTrap_ok
    | with_reducible apply foldl_ok
    | with_reducible apply foldl_pair_ok
    | refine ok_of_some (by with_reducible assumption) ?_
    | refine ok_of_pair (by with_reducible assumption) ?_
    | refine ok_of_some2 (by with_reducible assumption) ?_
    | with_reducible apply State.upd_ok
    | with_reducible apply State.attempt_ok
    | with_reducible apply settle_ok
    | with_reducible apply chk_ok
    | with_reducible apply chk_err
    | with_reducible apply chk_trap
    | with_reducible apply chk_bind_st
    | with_reducible apply chk_bind
    | with_reducible apply out_next
    | with_reducible apply opt_getD
    | with_reducible apply opt_none
    | with_reducible apply opt_some
    | with_reducible apply opt_map
    | with_reducible apply opt_bind
    | split
    | intro _
    | dsimp only
    | assumption)

theorem execMachineFault_ok (place : FaultSite) {s : State} (hok : s.Inv) : OutOk (execMachineFault place s) := by
  unfold execMachineFault
  try dsimp only
  repeat' (first
    | with_reducible assumption
    | with_reducible apply Hw.onCore_ok
    | with_reducible apply State.upd_ok
    | with_reducible apply State.push_ok
    | with_reducible apply Hw.onHome_ok
    | with_reducible apply Hw.onLine_ok
    | with_reducible apply Hw.onQuay_ok
    | with_reducible apply Hw.streamFault_ok
    | with_reducible apply Hw.unitFault_ok
    | with_reducible apply Hw.portFault_ok
    | with_reducible apply Hw.restartHarbour_ok
    | with_reducible apply Hw.memoryFault_ok
    | with_reducible apply Hw.landingFault_ok
    | with_reducible apply foldl_ok
    | with_reducible apply foldl_pair_ok
    | refine ok_of_some (by with_reducible assumption) ?_
    | refine ok_of_pair (by with_reducible assumption) ?_
    | refine ok_of_some2 (by with_reducible assumption) ?_
    | with_reducible apply State.upd_ok
    | with_reducible apply State.attempt_ok
    | with_reducible apply settle_ok
    | with_reducible apply chk_ok
    | with_reducible apply chk_err
    | with_reducible apply chk_trap
    | with_reducible apply chk_bind_st
    | with_reducible apply chk_bind
    | with_reducible apply out_next
    | with_reducible apply opt_getD
    | with_reducible apply opt_none
    | with_reducible apply opt_some
    | with_reducible apply opt_map
    | with_reducible apply opt_bind
    | split
    | intro _
    | dsimp only
    | assumption)

theorem Hw.shutHot_ok {h : Hw} (hok : h.Ok) (isle : Nat) (t : Int) : (Hw.shutHot h isle t).Ok := by
  unfold Hw.shutHot
  try dsimp only
  repeat' (first
    | with_reducible assumption
    | with_reducible apply Hw.unitFault_ok
    | with_reducible apply foldl_ok
    | with_reducible apply foldl_pair_ok
    | refine ok_of_some (by with_reducible assumption) ?_
    | refine ok_of_pair (by with_reducible assumption) ?_
    | refine ok_of_some2 (by with_reducible assumption) ?_
    | with_reducible apply State.upd_ok
    | with_reducible apply State.attempt_ok
    | with_reducible apply settle_ok
    | with_reducible apply chk_ok
    | with_reducible apply chk_err
    | with_reducible apply chk_trap
    | with_reducible apply chk_bind_st
    | with_reducible apply chk_bind
    | with_reducible apply out_next
    | with_reducible apply opt_getD
    | with_reducible apply opt_none
    | with_reducible apply opt_some
    | with_reducible apply opt_map
    | with_reducible apply opt_bind
    | split
    | intro _
    | dsimp only
    | assumption)

theorem execTemperatureSample_ok (isle : Nat) (ins : Nat) (temp : BitVec 16) {s : State} (hok : s.Inv) : OutOk (execTemperatureSample isle ins temp s) := by
  unfold execTemperatureSample
  try dsimp only
  repeat' (first
    | with_reducible assumption
    | with_reducible apply Hw.setArr_ok
    | with_reducible apply State.upd_ok
    | with_reducible apply Hw.settlePending_ok
    | with_reducible apply Hw.shutHot_ok
    | with_reducible apply foldl_ok
    | with_reducible apply foldl_pair_ok
    | refine ok_of_some (by with_reducible assumption) ?_
    | refine ok_of_pair (by with_reducible assumption) ?_
    | refine ok_of_some2 (by with_reducible assumption) ?_
    | with_reducible apply State.upd_ok
    | with_reducible apply State.attempt_ok
    | with_reducible apply settle_ok
    | with_reducible apply chk_ok
    | with_reducible apply chk_err
    | with_reducible apply chk_trap
    | with_reducible apply chk_bind_st
    | with_reducible apply chk_bind
    | with_reducible apply out_next
    | with_reducible apply opt_getD
    | with_reducible apply opt_none
    | with_reducible apply opt_some
    | with_reducible apply opt_map
    | with_reducible apply opt_bind
    | split
    | intro _
    | dsimp only
    | assumption)

theorem execThermalGapStep_ok (isle : Nat) (ins : Nat) {s : State} (hok : s.Inv) : OutOk (execThermalGapStep isle ins s) := by
  unfold execThermalGapStep
  try dsimp only
  repeat' (first
    | with_reducible assumption
    | with_reducible apply Hw.setArr_ok
    | with_reducible apply State.upd_ok
    | with_reducible apply Hw.shutHot_ok
    | with_reducible apply foldl_ok
    | with_reducible apply foldl_pair_ok
    | refine ok_of_some (by with_reducible assumption) ?_
    | refine ok_of_pair (by with_reducible assumption) ?_
    | refine ok_of_some2 (by with_reducible assumption) ?_
    | with_reducible apply State.upd_ok
    | with_reducible apply State.attempt_ok
    | with_reducible apply settle_ok
    | with_reducible apply chk_ok
    | with_reducible apply chk_err
    | with_reducible apply chk_trap
    | with_reducible apply chk_bind_st
    | with_reducible apply chk_bind
    | with_reducible apply out_next
    | with_reducible apply opt_getD
    | with_reducible apply opt_none
    | with_reducible apply opt_some
    | with_reducible apply opt_map
    | with_reducible apply opt_bind
    | split
    | intro _
    | dsimp only
    | assumption)

theorem Hw.mapQueue_ok {h : Hw} (hok : h.Ok) (q : Nat) : (Hw.mapQueue h q).Ok := by
  unfold Hw.mapQueue
  try dsimp only
  repeat' (first
    | with_reducible assumption
    | with_reducible apply Hw.onQuay_ok
    | with_reducible apply Hw.onQueue_ok
    | with_reducible apply Hw.reading_ok
    | with_reducible apply foldl_ok
    | with_reducible apply foldl_pair_ok
    | refine ok_of_some (by with_reducible assumption) ?_
    | refine ok_of_pair (by with_reducible assumption) ?_
    | refine ok_of_some2 (by with_reducible assumption) ?_
    | with_reducible apply State.upd_ok
    | with_reducible apply State.attempt_ok
    | with_reducible apply settle_ok
    | with_reducible apply chk_ok
    | with_reducible apply chk_err
    | with_reducible apply chk_trap
    | with_reducible apply chk_bind_st
    | with_reducible apply chk_bind
    | with_reducible apply out_next
    | with_reducible apply opt_getD
    | with_reducible apply opt_none
    | with_reducible apply opt_some
    | with_reducible apply opt_map
    | with_reducible apply opt_bind
    | split
    | intro _
    | dsimp only
    | assumption)

theorem Hw.serveQueue_ok {h : Hw} (hok : h.Ok) (q : Nat) : (Hw.serveQueue h q).Ok := by
  unfold Hw.serveQueue
  try dsimp only
  repeat' (first
    | with_reducible assumption
    | with_reducible apply Hw.onQuay_ok
    | with_reducible apply Hw.unmapQueue_ok
    | with_reducible apply Hw.mapQueue_ok
    | split)

theorem execDbnotify_ok (q : Nat) (n : BitVec 64) {s : State} (hok : s.Inv) : OutOk (execDbnotify q n s) := by
  unfold execDbnotify
  try dsimp only
  repeat' (first
    | with_reducible assumption
    | with_reducible apply State.attempt_ok
    | with_reducible apply Hw.notify_ok
    | with_reducible apply foldl_ok
    | with_reducible apply foldl_pair_ok
    | refine ok_of_some (by with_reducible assumption) ?_
    | refine ok_of_pair (by with_reducible assumption) ?_
    | refine ok_of_some2 (by with_reducible assumption) ?_
    | with_reducible apply State.upd_ok
    | with_reducible apply State.attempt_ok
    | with_reducible apply settle_ok
    | with_reducible apply chk_ok
    | with_reducible apply chk_err
    | with_reducible apply chk_trap
    | with_reducible apply chk_bind_st
    | with_reducible apply chk_bind
    | with_reducible apply out_next
    | with_reducible apply opt_getD
    | with_reducible apply opt_none
    | with_reducible apply opt_some
    | with_reducible apply opt_map
    | with_reducible apply opt_bind
    | split
    | intro _
    | dsimp only
    | assumption)

theorem execQueueMap_ok (q : Nat) {s : State} (hok : s.Inv) : OutOk (execQueueMap q s) := by
  unfold execQueueMap
  try dsimp only
  repeat' (first
    | with_reducible assumption
    | with_reducible apply State.attempt_ok
    | with_reducible apply Hw.mapQueue_ok
    | with_reducible apply foldl_ok
    | with_reducible apply foldl_pair_ok
    | refine ok_of_some (by with_reducible assumption) ?_
    | refine ok_of_pair (by with_reducible assumption) ?_
    | refine ok_of_some2 (by with_reducible assumption) ?_
    | with_reducible apply State.upd_ok
    | with_reducible apply State.attempt_ok
    | with_reducible apply settle_ok
    | with_reducible apply chk_ok
    | with_reducible apply chk_err
    | with_reducible apply chk_trap
    | with_reducible apply chk_bind_st
    | with_reducible apply chk_bind
    | with_reducible apply out_next
    | with_reducible apply opt_getD
    | with_reducible apply opt_none
    | with_reducible apply opt_some
    | with_reducible apply opt_map
    | with_reducible apply opt_bind
    | split
    | intro _
    | dsimp only
    | assumption)

theorem execQueueUnmap_ok (q : Nat) {s : State} (hok : s.Inv) : OutOk (execQueueUnmap q s) := by
  unfold execQueueUnmap
  try dsimp only
  repeat' (first
    | with_reducible assumption
    | with_reducible apply State.attempt_ok
    | with_reducible apply Hw.unmapQueue_ok
    | with_reducible apply foldl_ok
    | with_reducible apply foldl_pair_ok
    | refine ok_of_some (by with_reducible assumption) ?_
    | refine ok_of_pair (by with_reducible assumption) ?_
    | refine ok_of_some2 (by with_reducible assumption) ?_
    | with_reducible apply State.upd_ok
    | with_reducible apply State.attempt_ok
    | with_reducible apply settle_ok
    | with_reducible apply chk_ok
    | with_reducible apply chk_err
    | with_reducible apply chk_trap
    | with_reducible apply chk_bind_st
    | with_reducible apply chk_bind
    | with_reducible apply out_next
    | with_reducible apply opt_getD
    | with_reducible apply opt_none
    | with_reducible apply opt_some
    | with_reducible apply opt_map
    | with_reducible apply opt_bind
    | split
    | intro _
    | dsimp only
    | assumption)

theorem Hw.qcmd_ok {h : Hw} (hok : h.Ok) (quay : Nat) (q : Nat) (act : Hw → Hw) (wact : ∀ h, Hw.Ok h → (act h).Ok) : (Hw.qcmd h quay q act).Ok := by
  unfold Hw.qcmd
  try dsimp only
  repeat' (first
    | with_reducible assumption
    | with_reducible apply Hw.onQuay_ok
    | with_reducible apply wact
    | split)

theorem execQcmdMap_ok (quay : Nat) (q : Nat) {s : State} (hok : s.Inv) : OutOk (execQcmdMap quay q s) := by
  unfold execQcmdMap
  try dsimp only
  repeat' (first
    | with_reducible assumption
    | with_reducible apply State.attempt_ok
    | with_reducible apply Hw.serveQueue_ok
    | with_reducible apply Hw.qcmd_ok
    | with_reducible apply foldl_ok
    | with_reducible apply foldl_pair_ok
    | refine ok_of_some (by with_reducible assumption) ?_
    | refine ok_of_pair (by with_reducible assumption) ?_
    | refine ok_of_some2 (by with_reducible assumption) ?_
    | with_reducible apply State.upd_ok
    | with_reducible apply State.attempt_ok
    | with_reducible apply settle_ok
    | with_reducible apply chk_ok
    | with_reducible apply chk_err
    | with_reducible apply chk_trap
    | with_reducible apply chk_bind_st
    | with_reducible apply chk_bind
    | with_reducible apply out_next
    | with_reducible apply opt_getD
    | with_reducible apply opt_none
    | with_reducible apply opt_some
    | with_reducible apply opt_map
    | with_reducible apply opt_bind
    | split
    | intro _
    | dsimp only
    | assumption)

theorem execQcmdUnmap_ok (quay : Nat) (q : Nat) {s : State} (hok : s.Inv) : OutOk (execQcmdUnmap quay q s) := by
  unfold execQcmdUnmap
  try dsimp only
  repeat' (first
    | with_reducible assumption
    | with_reducible apply State.attempt_ok
    | with_reducible apply Hw.unmapOnce_ok
    | with_reducible apply Hw.qcmd_ok
    | with_reducible apply foldl_ok
    | with_reducible apply foldl_pair_ok
    | refine ok_of_some (by with_reducible assumption) ?_
    | refine ok_of_pair (by with_reducible assumption) ?_
    | refine ok_of_some2 (by with_reducible assumption) ?_
    | with_reducible apply State.upd_ok
    | with_reducible apply State.attempt_ok
    | with_reducible apply settle_ok
    | with_reducible apply chk_ok
    | with_reducible apply chk_err
    | with_reducible apply chk_trap
    | with_reducible apply chk_bind_st
    | with_reducible apply chk_bind
    | with_reducible apply out_next
    | with_reducible apply opt_getD
    | with_reducible apply opt_none
    | with_reducible apply opt_some
    | with_reducible apply opt_map
    | with_reducible apply opt_bind
    | split
    | intro _
    | dsimp only
    | assumption)

theorem execQcmdClearFault_ok (quay : Nat) (q : Nat) {s : State} (hok : s.Inv) : OutOk (execQcmdClearFault quay q s) := by
  unfold execQcmdClearFault
  try dsimp only
  repeat' (first
    | with_reducible assumption
    | with_reducible apply State.attempt_ok
    | with_reducible apply Hw.unmapQueue_ok
    | with_reducible apply Hw.mapQueue_ok
    | with_reducible apply Hw.qcmd_ok
    | with_reducible apply foldl_ok
    | with_reducible apply foldl_pair_ok
    | refine ok_of_some (by with_reducible assumption) ?_
    | refine ok_of_pair (by with_reducible assumption) ?_
    | refine ok_of_some2 (by with_reducible assumption) ?_
    | with_reducible apply State.upd_ok
    | with_reducible apply State.attempt_ok
    | with_reducible apply settle_ok
    | with_reducible apply chk_ok
    | with_reducible apply chk_err
    | with_reducible apply chk_trap
    | with_reducible apply chk_bind_st
    | with_reducible apply chk_bind
    | with_reducible apply out_next
    | with_reducible apply opt_getD
    | with_reducible apply opt_none
    | with_reducible apply opt_some
    | with_reducible apply opt_map
    | with_reducible apply opt_bind
    | split
    | intro _
    | dsimp only
    | assumption)

theorem execAttnService_ok (quay : Nat) {s : State} (hok : s.Inv) : OutOk (execAttnService quay s) := by
  unfold execAttnService
  try dsimp only
  repeat' (first
    | with_reducible assumption
    | with_reducible apply State.attempt_ok
    | with_reducible apply Hw.serveQueue_ok
    | with_reducible apply foldl_ok
    | with_reducible apply foldl_pair_ok
    | refine ok_of_some (by with_reducible assumption) ?_
    | refine ok_of_pair (by with_reducible assumption) ?_
    | refine ok_of_some2 (by with_reducible assumption) ?_
    | with_reducible apply State.upd_ok
    | with_reducible apply State.attempt_ok
    | with_reducible apply settle_ok
    | with_reducible apply chk_ok
    | with_reducible apply chk_err
    | with_reducible apply chk_trap
    | with_reducible apply chk_bind_st
    | with_reducible apply chk_bind
    | with_reducible apply out_next
    | with_reducible apply opt_getD
    | with_reducible apply opt_none
    | with_reducible apply opt_some
    | with_reducible apply opt_map
    | with_reducible apply opt_bind
    | split
    | intro _
    | dsimp only
    | assumption)

theorem execHarbourRestart_ok {s : State} (hok : s.Inv) : OutOk (execHarbourRestart s) := by
  unfold execHarbourRestart
  try dsimp only
  repeat' (first
    | with_reducible assumption
    | with_reducible apply State.upd_ok
    | with_reducible apply Hw.restartHarbour_ok
    | with_reducible apply out_next)

theorem Hw.noteGrant_ok {h : Hw} (hok : h.Ok) (q : Nat) (va : Nat) (n : Nat) : (Hw.noteGrant h q va n).Ok := by
  unfold Hw.noteGrant
  try dsimp only
  repeat' (first
    | with_reducible assumption
    | with_reducible apply Hw.noteRead_ok
    | with_reducible apply foldl_ok
    | with_reducible apply foldl_pair_ok
    | refine ok_of_some (by with_reducible assumption) ?_
    | refine ok_of_pair (by with_reducible assumption) ?_
    | refine ok_of_some2 (by with_reducible assumption) ?_
    | with_reducible apply State.upd_ok
    | with_reducible apply State.attempt_ok
    | with_reducible apply settle_ok
    | with_reducible apply chk_ok
    | with_reducible apply chk_err
    | with_reducible apply chk_trap
    | with_reducible apply chk_bind_st
    | with_reducible apply chk_bind
    | with_reducible apply out_next
    | with_reducible apply opt_getD
    | with_reducible apply opt_none
    | with_reducible apply opt_some
    | with_reducible apply opt_map
    | with_reducible apply opt_bind
    | split
    | intro _
    | dsimp only
    | assumption)

theorem Hw.pushPacket_ok {h : Hw} (hok : h.Ok) (q : Nat) (bytes : List Byte) (bad : BitVec 4) (takes : Bool) (p : QPos) : (Hw.pushPacket h q bytes bad takes p).Ok := by
  unfold Hw.pushPacket
  try dsimp only
  repeat' (first
    | with_reducible assumption
    | with_reducible apply Hw.onQueue_ok
    | with_reducible apply Hw.markHead_ok)

theorem Hw.notePacket_ok {h : Hw} (hok : h.Ok) (q : Nat) : (Hw.notePacket h q).Ok := by
  unfold Hw.notePacket
  try dsimp only
  repeat' (first
    | with_reducible assumption
    | with_reducible apply Hw.noteGrant_ok
    | with_reducible apply foldl_ok
    | with_reducible apply foldl_pair_ok
    | refine ok_of_some (by with_reducible assumption) ?_
    | refine ok_of_pair (by with_reducible assumption) ?_
    | refine ok_of_some2 (by with_reducible assumption) ?_
    | with_reducible apply State.upd_ok
    | with_reducible apply State.attempt_ok
    | with_reducible apply settle_ok
    | with_reducible apply chk_ok
    | with_reducible apply chk_err
    | with_reducible apply chk_trap
    | with_reducible apply chk_bind_st
    | with_reducible apply chk_bind
    | with_reducible apply out_next
    | with_reducible apply opt_getD
    | with_reducible apply opt_none
    | with_reducible apply opt_some
    | with_reducible apply opt_map
    | with_reducible apply opt_bind
    | split
    | intro _
    | dsimp only
    | assumption)

theorem Hw.faultHead_ok {h : Hw} (hok : h.Ok) (q : Nat) (code : BitVec 4) : (Hw.faultHead h q code).Ok := by
  unfold Hw.faultHead
  try dsimp only
  repeat' (first
    | with_reducible assumption
    | with_reducible apply Hw.onQueue_ok
    | with_reducible apply Hw.queueFault_ok
    | with_reducible apply Hw.passHead_ok
    | split)

theorem execPacketFetch_ok (q : Nat) {s : State} (hok : s.Inv) : OutOk (execPacketFetch q s) := by
  have k : OutOk (execPacketFetch.fetch q s) := by
    unfold execPacketFetch.fetch
    refine out_next (State.attempt_ok hok _ (fun h w => ?_))
    dsimp only
    have w1 := Hw.meetErrs_ok w (fun h => (h.readPacket q).any (fun r => r.2.1 != 3))
    split
    · exact w1
    · split
      · exact Hw.onQueue_ok w1 _ _
      · refine Hw.pushPacket_ok ?_ _ _ _ _ _
        split
        · exact Hw.notePacket_ok w1 _
        · exact w1
  unfold execPacketFetch
  dsimp only
  split
  · split
    · exact out_next (State.attempt_ok hok _ (fun _ w => Hw.faultHead_ok w _ _))
    · split
      · exact out_next hok
      · exact k
  · split
    · exact k
    · exact out_next hok

theorem execCallPacket_ok (q : Nat) {s : State} (hok : s.Inv) : OutOk (execCallPacket q s) := by
  unfold execCallPacket
  try dsimp only
  repeat' (first
    | with_reducible assumption
    | with_reducible apply State.upd_ok
    | with_reducible apply Hw.onQueue_ok
    | with_reducible apply Hw.pushPacket_ok
    | with_reducible apply out_next
    | split
    | intro _)

theorem execReturnPacket_ok (q : Nat) {s : State} (hok : s.Inv) : OutOk (execReturnPacket q s) := by
  unfold execReturnPacket
  try dsimp only
  repeat' (first
    | with_reducible assumption
    | with_reducible apply State.upd_ok
    | with_reducible apply State.attempt_ok
    | with_reducible apply Hw.onQueue_ok
    | with_reducible apply Hw.settleUnmap_ok
    | with_reducible apply Hw.copyRidx_ok
    | with_reducible apply Hw.pushPacket_ok
    | with_reducible apply foldl_ok
    | with_reducible apply foldl_pair_ok
    | refine ok_of_some (by with_reducible assumption) ?_
    | refine ok_of_pair (by with_reducible assumption) ?_
    | refine ok_of_some2 (by with_reducible assumption) ?_
    | with_reducible apply State.upd_ok
    | with_reducible apply State.attempt_ok
    | with_reducible apply settle_ok
    | with_reducible apply chk_ok
    | with_reducible apply chk_err
    | with_reducible apply chk_trap
    | with_reducible apply chk_bind_st
    | with_reducible apply chk_bind
    | with_reducible apply out_next
    | with_reducible apply opt_getD
    | with_reducible apply opt_none
    | with_reducible apply opt_some
    | with_reducible apply opt_map
    | with_reducible apply opt_bind
    | split
    | intro _
    | dsimp only
    | assumption)

end Sys2Proof.Machine
end

