-- ==== Sys2Proof/Laws/Keep5.lean ====
section
/-! SUPPORT. Every operation and every meaning keeps memory in its canonical form (Launches, Issue, Regs, Boot). -/

namespace Sys2Proof.Machine
set_option Elab.async false
set_option linter.all false

theorem Hw.noteImage_ok {h : Hw} (hok : h.Ok) (q : Nat) (sp : Spec) (isles : List Nat) : (Hw.noteImage h q sp isles).Ok := by
  unfold Hw.noteImage
  try dsimp only
  repeat' (first
    | with_reducible assumption
    | with_reducible apply Hw.noteGrant_ok
    | with_reducible apply foldl_ok
    | with_reducible apply foldl_pair_ok
    | refine ok_of_some (by with_reducible assumption) ?_
    | refine ok_of_pair (by with_reducible assumption) ?_
    | refine ok_of_some2 (by with_reducible assumption) ?_
    | with_reducible apply State.upd_ok
    | with_reducible apply State.attempt_ok
    | with_reducible apply settle_ok
    | with_reducible apply chk_ok
    | with_reducible apply chk_err
    | with_reducible apply chk_trap
    | with_reducible apply chk_bind_st
    | with_reducible apply chk_bind
    | with_reducible apply out_next
    | with_reducible apply opt_getD
    | with_reducible apply opt_none
    | with_reducible apply opt_some
    | with_reducible apply opt_map
    | with_reducible apply opt_bind
    | split
    | intro _
    | dsimp only
    | assumption)

theorem Hw.beginLaunch_ok {h : Hw} (hok : h.Ok) (l : Launch) : (Hw.beginLaunch h l).Ok := by
  unfold Hw.beginLaunch
  try dsimp only
  repeat' (first
    | with_reducible assumption
    | with_reducible apply Hw.setLaunch_ok
    | with_reducible apply Hw.prepareRest_ok)

theorem Hw.restoreCores_ok {h : Hw} (hok : h.Ok) (q : Nat) (l : Launch) (img : Nat) (xs : List (Nat × CoreId)) :
    OptOk (h.restoreCores q l img xs) := by
  induction xs generalizing h with
  | nil => exact opt_some hok
  | cons x t ih =>
    rw [Hw.restoreCores]
    split
    · exact ih (Hw.restoreCore_ok hok _ _ _)
    · exact opt_none

theorem Hw.resumeLaunch_ok {h : Hw} (hok : h.Ok) (q : Nat) (sp : Spec) (l : Launch) (b : List Byte) :
    OptOk (h.resumeLaunch q sp l b) := by
  unfold Hw.resumeLaunch
  split
  · dsimp only
    refine opt_mapH ?_ ?_
    · split
      · exact Hw.restoreCores_ok (Hw.setLaunch_ok hok _) _ _ _ _
      · exact opt_some (Hw.prepareAll_ok (Hw.setLaunch_ok hok _) _)
    · intro h w
      have k1 : ∀ (l : List (Nat × CoreId)), (l.foldl (fun h x => h.clearDirty x.2) h).Ok :=
        fun l => foldl_ok w (fun h x w => Hw.clearDirty_ok w _)
      have k2 : ∀ (g : Hw), g.Ok → ∀ rs, (List.foldl (fun h r => Hw.restoreRing h r) g rs).Ok :=
        fun g wg rs => foldl_ok wg (fun h r w => Hw.restoreRing_ok w r)
      split
      · exact Hw.endLaunch_ok (k2 _ (k1 _) _) _ _
      · exact k2 _ (k1 _) _
  · exact opt_none

theorem Hw.startLaunch_ok {h : Hw} (hok : h.Ok) (q : Nat) (place : Nat) (lid : Nat) (sp : Spec) (isles : List Nat) (r : Option Refine) : OptOk (Hw.startLaunch h q place lid sp isles r) := by
  unfold Hw.startLaunch
  try dsimp only
  repeat' (first
    | with_reducible assumption
    | with_reducible apply Hw.takeIsles_ok
    | with_reducible apply Hw.beginLaunch_ok
    | with_reducible apply Hw.resumeLaunch_ok
    | with_reducible apply opt_some
    | split)

theorem Hw.issueWith_ok {α : Type} {h : Hw} (hok : h.Ok) (q type : Nat) (check : Hw → Packet → Qf α) (ready : Hw → Packet → α → Bool)
    (act : Hw → Packet → α → Bool × Hw) (code : BitVec 4) (wact : ∀ h p x, Hw.Ok h → (act h p x).2.Ok) :
    (h.issueWith q type check ready act code).Ok := by
  unfold Hw.issueWith
  split
  · exact hok
  · next p _ =>
    split
    · exact hok
    · have w := Hw.meetErrs_ok hok (fun h => (check h p).isOk)
      dsimp only
      split
      · exact Hw.faultHead_ok (Hw.noteGrant_ok w _ _ _) _ _
      · split
        · exact w
        · split
          · next e => exact ok_of_pair e (wact _ _ _ w)
          · next e => exact Hw.faultHead_ok (ok_of_pair e (wact _ _ _ w)) _ _

theorem execJoin_ok (q : Nat) {s : State} (hok : s.Inv) : OutOk (execJoin q s) :=
  out_next (State.attempt_ok hok _ (fun _ w => Hw.issueWith_ok w _ _ _ _ _ _ (fun _ _ _ w => Hw.issueHead_ok w _ _ _)))

theorem execCopy_ok (q : Nat) {s : State} (hok : s.Inv) : OutOk (execCopy q s) := by
  unfold execCopy
  try dsimp only
  repeat' (first
    | with_reducible assumption
    | with_reducible apply State.attempt_ok
    | with_reducible apply Hw.writeVa_ok
    | with_reducible apply Hw.issueHead_ok
    | with_reducible apply Hw.issueWith_ok
    | with_reducible apply foldl_ok
    | with_reducible apply foldl_pair_ok
    | refine ok_of_some (by with_reducible assumption) ?_
    | refine ok_of_pair (by with_reducible assumption) ?_
    | refine ok_of_some2 (by with_reducible assumption) ?_
    | with_reducible apply State.upd_ok
    | with_reducible apply State.attempt_ok
    | with_reducible apply settle_ok
    | with_reducible apply chk_ok
    | with_reducible apply chk_err
    | with_reducible apply chk_trap
    | with_reducible apply chk_bind_st
    | with_reducible apply chk_bind
    | with_reducible apply out_next
    | with_reducible apply opt_getD
    | with_reducible apply opt_none
    | with_reducible apply opt_some
    | with_reducible apply opt_map
    | with_reducible apply opt_bind
    | split
    | intro _
    | dsimp only
    | assumption)

theorem Hw.addVa_ok {h : Hw} (hok : h.Ok) (m : Master) (root : Nat) (va : Nat) (v : Nat) : (Hw.addVa h m root va v).2.Ok := by
  unfold Hw.addVa
  try dsimp only
  repeat' (first
    | with_reducible assumption
    | with_reducible apply Hw.onQuay_ok
    | with_reducible apply Hw.writeVa_ok
    | split)

theorem execSignal_ok (q : Nat) {s : State} (hok : s.Inv) : OutOk (execSignal q s) := by
  unfold execSignal
  try dsimp only
  repeat' (first
    | with_reducible assumption
    | with_reducible apply State.attempt_ok
    | with_reducible apply Hw.writeVa_ok
    | with_reducible apply Hw.issueHead_ok
    | with_reducible apply Hw.issueWith_ok
    | with_reducible apply Hw.addVa_ok
    | with_reducible apply foldl_ok
    | with_reducible apply foldl_pair_ok
    | refine ok_of_some (by with_reducible assumption) ?_
    | refine ok_of_pair (by with_reducible assumption) ?_
    | refine ok_of_some2 (by with_reducible assumption) ?_
    | with_reducible apply State.upd_ok
    | with_reducible apply State.attempt_ok
    | with_reducible apply settle_ok
    | with_reducible apply chk_ok
    | with_reducible apply chk_err
    | with_reducible apply chk_trap
    | with_reducible apply chk_bind_st
    | with_reducible apply chk_bind
    | with_reducible apply out_next
    | with_reducible apply opt_getD
    | with_reducible apply opt_none
    | with_reducible apply opt_some
    | with_reducible apply opt_map
    | with_reducible apply opt_bind
    | split
    | intro _
    | dsimp only
    | assumption)

theorem Hw.pollWait_ok {h : Hw} (hok : h.Ok) (q : Nat) : (Hw.pollWait h q).Ok := by
  unfold Hw.pollWait
  try dsimp only
  repeat' (first
    | with_reducible assumption
    | with_reducible apply Hw.issueHead_ok
    | with_reducible apply Hw.issueWith_ok
    | intro _)

theorem execWaitvalue_ok (q : Nat) {s : State} (hok : s.Inv) : OutOk (execWaitvalue q s) := by
  unfold execWaitvalue
  try dsimp only
  repeat' (first
    | with_reducible assumption
    | with_reducible apply State.attempt_ok
    | with_reducible apply Hw.pollWait_ok
    | with_reducible apply foldl_ok
    | with_reducible apply foldl_pair_ok
    | refine ok_of_some (by with_reducible assumption) ?_
    | refine ok_of_pair (by with_reducible assumption) ?_
    | refine ok_of_some2 (by with_reducible assumption) ?_
    | with_reducible apply State.upd_ok
    | with_reducible apply State.attempt_ok
    | with_reducible apply settle_ok
    | with_reducible apply chk_ok
    | with_reducible apply chk_err
    | with_reducible apply chk_trap
    | with_reducible apply chk_bind_st
    | with_reducible apply chk_bind
    | with_reducible apply out_next
    | with_reducible apply opt_getD
    | with_reducible apply opt_none
    | with_reducible apply opt_some
    | with_reducible apply opt_map
    | with_reducible apply opt_bind
    | split
    | intro _
    | dsimp only
    | assumption)

theorem execWaitvaluePoll_ok (q : Nat) {s : State} (hok : s.Inv) : OutOk (execWaitvaluePoll q s) := by
  unfold execWaitvaluePoll
  try dsimp only
  repeat' (first
    | with_reducible assumption
    | with_reducible apply State.attempt_ok
    | with_reducible apply Hw.pollWait_ok
    | with_reducible apply foldl_ok
    | with_reducible apply foldl_pair_ok
    | refine ok_of_some (by with_reducible assumption) ?_
    | refine ok_of_pair (by with_reducible assumption) ?_
    | refine ok_of_some2 (by with_reducible assumption) ?_
    | with_reducible apply State.upd_ok
    | with_reducible apply State.attempt_ok
    | with_reducible apply settle_ok
    | with_reducible apply chk_ok
    | with_reducible apply chk_err
    | with_reducible apply chk_trap
    | with_reducible apply chk_bind_st
    | with_reducible apply chk_bind
    | with_reducible apply out_next
    | with_reducible apply opt_getD
    | with_reducible apply opt_none
    | with_reducible apply opt_some
    | with_reducible apply opt_map
    | with_reducible apply opt_bind
    | split
    | intro _
    | dsimp only
    | assumption)

theorem execWaitvalueTimeout_ok (q : Nat) {s : State} (hok : s.Inv) : OutOk (execWaitvalueTimeout q s) := by
  unfold execWaitvalueTimeout
  try dsimp only
  repeat' (first
    | with_reducible assumption
    | with_reducible apply State.attempt_ok
    | with_reducible apply Hw.faultHead_ok
    | with_reducible apply foldl_ok
    | with_reducible apply foldl_pair_ok
    | refine ok_of_some (by with_reducible assumption) ?_
    | refine ok_of_pair (by with_reducible assumption) ?_
    | refine ok_of_some2 (by with_reducible assumption) ?_
    | with_reducible apply State.upd_ok
    | with_reducible apply State.attempt_ok
    | with_reducible apply settle_ok
    | with_reducible apply chk_ok
    | with_reducible apply chk_err
    | with_reducible apply chk_trap
    | with_reducible apply chk_bind_st
    | with_reducible apply chk_bind
    | with_reducible apply out_next
    | with_reducible apply opt_getD
    | with_reducible apply opt_none
    | with_reducible apply opt_some
    | with_reducible apply opt_map
    | with_reducible apply opt_bind
    | split
    | intro _
    | dsimp only
    | assumption)

theorem ifStarted_ok {h : Hw} (hok : h.Ok) (q : Nat) (sp : Spec) (isles : List Nat) (r : Option Hw) (hr : OptOk r) :
    (ifStarted h q sp isles r).2.Ok := by
  unfold ifStarted
  split
  · exact hr _ rfl
  · exact Hw.noteImage_ok hok _ _ _

theorem Hw.holdHead_ok {h : Hw} (hok : h.Ok) (q : Nat) (lid : Nat) : (Hw.holdHead h q lid).Ok := by
  unfold Hw.holdHead
  try dsimp only
  repeat' (first
    | with_reducible assumption
    | with_reducible apply Hw.onQueue_ok)

theorem execLaunch_ok (q : Nat) {s : State} (hok : s.Inv) : OutOk (execLaunch q s) := by
  unfold execLaunch
  try dsimp only
  repeat' (first
    | with_reducible assumption
    | with_reducible apply State.attempt_ok
    | with_reducible apply Hw.startLaunch_ok
    | with_reducible apply Hw.issueWith_ok
    | with_reducible apply ifStarted_ok
    | with_reducible apply Hw.holdHead_ok
    | with_reducible apply foldl_ok
    | with_reducible apply foldl_pair_ok
    | refine ok_of_some (by with_reducible assumption) ?_
    | refine ok_of_pair (by with_reducible assumption) ?_
    | refine ok_of_some2 (by with_reducible assumption) ?_
    | with_reducible apply State.upd_ok
    | with_reducible apply State.attempt_ok
    | with_reducible apply settle_ok
    | with_reducible apply chk_ok
    | with_reducible apply chk_err
    | with_reducible apply chk_trap
    | with_reducible apply chk_bind_st
    | with_reducible apply chk_bind
    | with_reducible apply out_next
    | with_reducible apply opt_getD
    | with_reducible apply opt_none
    | with_reducible apply opt_some
    | with_reducible apply opt_map
    | with_reducible apply opt_bind
    | split
    | intro _
    | dsimp only
    | assumption)

theorem execPreempt_ok (q : Nat) {s : State} (hok : s.Inv) : OutOk (execPreempt q s) := by
  unfold execPreempt
  try dsimp only
  repeat' (first
    | with_reducible assumption
    | with_reducible apply Hw.onLaunch_ok
    | with_reducible apply State.attempt_ok
    | with_reducible apply Hw.failLaunch_ok
    | with_reducible apply Hw.issueHead_ok
    | with_reducible apply Hw.issueWith_ok
    | with_reducible apply foldl_ok
    | with_reducible apply foldl_pair_ok
    | refine ok_of_some (by with_reducible assumption) ?_
    | refine ok_of_pair (by with_reducible assumption) ?_
    | refine ok_of_some2 (by with_reducible assumption) ?_
    | with_reducible apply State.upd_ok
    | with_reducible apply State.attempt_ok
    | with_reducible apply settle_ok
    | with_reducible apply chk_ok
    | with_reducible apply chk_err
    | with_reducible apply chk_trap
    | with_reducible apply chk_bind_st
    | with_reducible apply chk_bind
    | with_reducible apply out_next
    | with_reducible apply opt_getD
    | with_reducible apply opt_none
    | with_reducible apply opt_some
    | with_reducible apply opt_map
    | with_reducible apply opt_bind
    | split
    | intro _
    | dsimp only
    | assumption)

theorem Hw.writeRefine_ok {h : Hw} (hok : h.Ok) (r : Refine) (k : Nat) (rung : Nat) (stag : Nat) (next : Nat) (fresh : Bool) (prev : Nat) (causes : List Nat) : (Hw.writeRefine h r k rung stag next fresh prev causes).2.Ok := by
  unfold Hw.writeRefine
  try dsimp only
  repeat' (first
    | with_reducible assumption
    | with_reducible apply Hw.writeVa_ok)

theorem Hw.setRefine_ok {h : Hw} (hok : h.Ok) (old : Refine) (new : Refine) : (Hw.setRefine h old new).Ok := by
  unfold Hw.setRefine
  try dsimp only
  repeat' with_reducible assumption

theorem execRefine_ok (q : Nat) {s : State} (hok : s.Inv) : OutOk (execRefine q s) := by
  unfold execRefine
  try dsimp only
  repeat' (first
    | with_reducible assumption
    | with_reducible apply State.attempt_ok
    | with_reducible apply Hw.startLaunch_ok
    | with_reducible apply Hw.issueWith_ok
    | with_reducible apply ifStarted_ok
    | with_reducible apply Hw.holdHead_ok
    | with_reducible apply Hw.writeRefine_ok
    | with_reducible apply foldl_ok
    | with_reducible apply foldl_pair_ok
    | refine ok_of_some (by with_reducible assumption) ?_
    | refine ok_of_pair (by with_reducible assumption) ?_
    | refine ok_of_some2 (by with_reducible assumption) ?_
    | with_reducible apply State.upd_ok
    | with_reducible apply State.attempt_ok
    | with_reducible apply settle_ok
    | with_reducible apply chk_ok
    | with_reducible apply chk_err
    | with_reducible apply chk_trap
    | with_reducible apply chk_bind_st
    | with_reducible apply chk_bind
    | with_reducible apply out_next
    | with_reducible apply opt_getD
    | with_reducible apply opt_none
    | with_reducible apply opt_some
    | with_reducible apply opt_map
    | with_reducible apply opt_bind
    | split
    | intro _
    | dsimp only
    | assumption)

theorem Hw.dropRefine_ok {h : Hw} (hok : h.Ok) (r : Refine) : (Hw.dropRefine h r).Ok := by
  unfold Hw.dropRefine
  try dsimp only
  repeat' (first
    | with_reducible assumption
    | with_reducible apply Hw.completePlace_ok
    | with_reducible apply foldl_ok
    | intro _)

theorem Hw.exitRefine_ok {h : Hw} (hok : h.Ok) (r : Refine) (code : Nat) : (Hw.exitRefine h r code).Ok := by
  unfold Hw.exitRefine
  try dsimp only
  repeat' (first
    | with_reducible assumption
    | with_reducible apply Hw.writeVa_ok
    | with_reducible apply Hw.dropRefine_ok)

theorem Hw.nextRun_ok {h : Hw} (hok : h.Ok) (r : Refine) : (Hw.nextRun h r).Ok := by
  unfold Hw.nextRun
  try dsimp only
  repeat' (first
    | with_reducible assumption
    | with_reducible apply Hw.meetErrs_ok
    | with_reducible apply Hw.putFault_ok
    | with_reducible apply Hw.noteGrant_ok
    | with_reducible apply Hw.startLaunch_ok
    | with_reducible apply Hw.setRefine_ok
    | with_reducible apply Hw.exitRefine_ok
    | with_reducible apply foldl_ok
    | with_reducible apply foldl_pair_ok
    | refine ok_of_some (by with_reducible assumption) ?_
    | refine ok_of_pair (by with_reducible assumption) ?_
    | refine ok_of_some2 (by with_reducible assumption) ?_
    | with_reducible apply State.upd_ok
    | with_reducible apply State.attempt_ok
    | with_reducible apply settle_ok
    | with_reducible apply chk_ok
    | with_reducible apply chk_err
    | with_reducible apply chk_trap
    | with_reducible apply chk_bind_st
    | with_reducible apply chk_bind
    | with_reducible apply out_next
    | with_reducible apply opt_getD
    | with_reducible apply opt_none
    | with_reducible apply opt_some
    | with_reducible apply opt_map
    | with_reducible apply opt_bind
    | split
    | intro _
    | dsimp only
    | assumption)

theorem Hw.afterRun_ok {h : Hw} (hok : h.Ok) (r : Refine) : (Hw.afterRun h r).Ok := by
  unfold Hw.afterRun
  try dsimp only
  repeat' (first
    | with_reducible assumption
    | with_reducible apply Hw.writeRefine_ok
    | with_reducible apply Hw.setRefine_ok
    | with_reducible apply Hw.exitRefine_ok
    | with_reducible apply Hw.nextRun_ok
    | split)

theorem Hw.stopRefine_ok {h : Hw} (hok : h.Ok) (r : Refine) : (Hw.stopRefine h r).Ok := by
  unfold Hw.stopRefine
  try dsimp only
  repeat' (first
    | with_reducible assumption
    | with_reducible apply Hw.writeVa_ok
    | with_reducible apply Hw.dropRefine_ok
    | with_reducible apply Hw.exitRefine_ok
    | split)

theorem Hw.runEnds_ok {h : Hw} (hok : h.Ok) (r : Refine) : (Hw.runEnds h r).Ok := by
  unfold Hw.runEnds
  try dsimp only
  repeat' (first
    | with_reducible assumption
    | with_reducible apply Hw.meetErrs_ok
    | with_reducible apply Hw.noteGrant_ok
    | with_reducible apply Hw.exitRefine_ok
    | with_reducible apply Hw.nextRun_ok
    | with_reducible apply Hw.afterRun_ok
    | with_reducible apply Hw.stopRefine_ok
    | with_reducible apply foldl_ok
    | with_reducible apply foldl_pair_ok
    | refine ok_of_some (by with_reducible assumption) ?_
    | refine ok_of_pair (by with_reducible assumption) ?_
    | refine ok_of_some2 (by with_reducible assumption) ?_
    | with_reducible apply State.upd_ok
    | with_reducible apply State.attempt_ok
    | with_reducible apply settle_ok
    | with_reducible apply chk_ok
    | with_reducible apply chk_err
    | with_reducible apply chk_trap
    | with_reducible apply chk_bind_st
    | with_reducible apply chk_bind
    | with_reducible apply out_next
    | with_reducible apply opt_getD
    | with_reducible apply opt_none
    | with_reducible apply opt_some
    | with_reducible apply opt_map
    | with_reducible apply opt_bind
    | split
    | intro _
    | dsimp only
    | assumption)

theorem execRefineRunEnd_ok (q : Nat) {s : State} (hok : s.Inv) : OutOk (execRefineRunEnd q s) := by
  unfold execRefineRunEnd
  try dsimp only
  repeat' (first
    | with_reducible assumption
    | with_reducible apply State.attempt_ok
    | with_reducible apply Hw.runEnds_ok
    | with_reducible apply foldl_ok
    | with_reducible apply foldl_pair_ok
    | refine ok_of_some (by with_reducible assumption) ?_
    | refine ok_of_pair (by with_reducible assumption) ?_
    | refine ok_of_some2 (by with_reducible assumption) ?_
    | with_reducible apply State.upd_ok
    | with_reducible apply State.attempt_ok
    | with_reducible apply settle_ok
    | with_reducible apply chk_ok
    | with_reducible apply chk_err
    | with_reducible apply chk_trap
    | with_reducible apply chk_bind_st
    | with_reducible apply chk_bind
    | with_reducible apply out_next
    | with_reducible apply opt_getD
    | with_reducible apply opt_none
    | with_reducible apply opt_some
    | with_reducible apply opt_map
    | with_reducible apply opt_bind
    | split
    | intro _
    | dsimp only
    | assumption)

theorem Hw.writeRing_ok {h : Hw} (hok : h.Ok) (site : Nat) (ring : Nat) (v : Nat) : (Hw.writeRing h site ring v).Ok := by
  unfold Hw.writeRing
  try dsimp only
  repeat' (first
    | with_reducible assumption
    | with_reducible apply Hw.onRing_ok
    | split)

theorem execRingdescWrite_ok (site : Nat) (ring : Nat) (v : BitVec 128) {s : State} (hok : s.Inv) : OutOk (execRingdescWrite site ring v s) := by
  unfold execRingdescWrite
  try dsimp only
  repeat' (first
    | with_reducible assumption
    | with_reducible apply State.upd_ok
    | with_reducible apply Hw.writeRing_ok
    | with_reducible apply out_next
    | intro _)

theorem accReg_ok (t : AccTable) (base : Nat) (off : Nat) (put : AccTable → Hw) (wput : ∀ t, (put t).Ok) : RegOk (accReg t base off put) := by
  unfold accReg
  try dsimp only
  repeat' (first
    | with_reducible apply wput
    | with_reducible apply reg_map
    | intro _)

theorem Hw.routeReg_ok {h : Hw} (hok : h.Ok) (table : Nat) (base : Nat) (gen : Nat) (off : Nat) : RegOk (Hw.routeReg h table base gen off) := by
  unfold Hw.routeReg
  try dsimp only
  repeat' (first
    | with_reducible assumption
    | with_reducible apply Hw.onPort_ok
    | with_reducible apply Hw.retry_ok
    | with_reducible apply reg_some
    | with_reducible apply reg_map
    | split
    | intro _)

theorem Hw.queueReg_ok {h : Hw} (hok : h.Ok) (co : CoreId) (off : Nat) : RegOk (Hw.queueReg h co off) := by
  unfold Hw.queueReg
  try dsimp only
  repeat' (first
    | with_reducible assumption
    | with_reducible apply Hw.onCore_ok
    | with_reducible apply reg_none
    | with_reducible apply reg_some
    | split
    | intro _)

theorem Hw.slotReg_ok {h : Hw} (hok : h.Ok) (co : CoreId) (off : Nat) : RegOk (Hw.slotReg h co off) := by
  unfold Hw.slotReg
  try dsimp only
  repeat' (first
    | with_reducible assumption
    | with_reducible apply Hw.onCore_ok
    | with_reducible apply reg_none
    | with_reducible apply reg_some
    | with_reducible apply reg_map
    | split
    | intro _
    | dsimp only)

theorem Hw.coreReg_ok {h : Hw} (hok : h.Ok) (co : CoreId) (off : Nat) : RegOk (Hw.coreReg h co off) := by
  unfold Hw.coreReg
  try dsimp only
  repeat' (first
    | with_reducible assumption
    | with_reducible apply Hw.onCore_ok
    | with_reducible apply Hw.queueReg_ok
    | with_reducible apply Hw.slotReg_ok
    | with_reducible apply reg_some
    | with_reducible apply reg_orElse
    | split
    | intro _
    | dsimp only)

theorem Hw.cUnitReg_ok {h : Hw} (hok : h.Ok) (co : CoreId) (off : Nat) : RegOk (Hw.cUnitReg h co off) := by
  unfold Hw.cUnitReg
  try dsimp only
  repeat' (first
    | with_reducible assumption
    | with_reducible apply Hw.onCore_ok
    | with_reducible apply reg_none
    | with_reducible apply reg_some
    | with_reducible apply reg_map
    | split
    | intro _)

theorem Hw.engReg_ok {h : Hw} (hok : h.Ok) (co : CoreId) (e : EngId) (off : Nat) : RegOk (Hw.engReg h co e off) := by
  unfold Hw.engReg
  try dsimp only
  repeat' (first
    | with_reducible assumption
    | with_reducible apply Hw.onCore_ok
    | with_reducible apply Hw.cUnitReg_ok
    | with_reducible apply reg_none
    | with_reducible apply reg_some
    | split
    | intro _)

theorem Hw.localReg_ok {h : Hw} (hok : h.Ok) (co : CoreId) (off : Nat) (len : Nat) : RegOk (Hw.localReg h co off len) := by
  unfold Hw.localReg
  try dsimp only
  repeat' (first
    | with_reducible assumption
    | with_reducible apply Hw.write_ok
    | with_reducible apply Hw.setFull_ok
    | with_reducible apply Hw.setTag_ok
    | with_reducible apply Hw.setMark_ok
    | with_reducible apply Hw.onIsle_ok
    | with_reducible apply foldl_ok
    | with_reducible apply reg_none
    | with_reducible apply reg_some
    | split
    | intro _)

theorem Hw.arrReg_ok {h : Hw} (hok : h.Ok) (isle : Nat) (ins : Nat) (off : Nat) : RegOk (Hw.arrReg h isle ins off) := by
  unfold Hw.arrReg
  try dsimp only
  repeat' (first
    | with_reducible assumption
    | with_reducible apply Hw.setArr_ok
    | with_reducible apply reg_map
    | split
    | intro _)

theorem Hw.isleReg_ok {h : Hw} (hok : h.Ok) (isle : Nat) (off : Nat) : RegOk (Hw.isleReg h isle off) := by
  unfold Hw.isleReg
  try dsimp only
  repeat' (first
    | with_reducible assumption
    | with_reducible apply Hw.setIsle_ok
    | with_reducible apply reg_none
    | with_reducible apply reg_some
    | split
    | intro _
    | dsimp only)

theorem Hw.sliceReg_ok {h : Hw} (hok : h.Ok) (site : Nat) (slice : Nat) (off : Nat) : RegOk (Hw.sliceReg h site slice off) := by
  unfold Hw.sliceReg
  try dsimp only
  repeat' (first
    | with_reducible assumption
    | with_reducible apply Hw.onSlice_ok
    | with_reducible apply accReg_ok
    | with_reducible apply reg_some
    | split
    | intro _)

theorem Hw.squareReg_ok {h : Hw} (hok : h.Ok) (site : Nat) (off : Nat) : RegOk (Hw.squareReg h site off) := by
  unfold Hw.squareReg
  try dsimp only
  repeat' (first
    | with_reducible assumption
    | with_reducible apply Hw.onPage_ok
    | with_reducible apply Hw.writeRing_ok
    | with_reducible apply reg_none
    | with_reducible apply reg_some
    | split
    | intro _)

theorem Hw.hbmReg_ok {h : Hw} (hok : h.Ok) (site : Nat) (idx : Nat) (off : Nat) (len : Nat) : RegOk (Hw.hbmReg h site idx off len) := by
  unfold Hw.hbmReg
  try dsimp only
  repeat' (first
    | with_reducible assumption
    | with_reducible apply Hw.onHome_ok
    | with_reducible apply Hw.writeLine_ok
    | with_reducible apply Hw.checkCuts_ok
    | with_reducible apply reg_none
    | with_reducible apply reg_some
    | split
    | intro _)

theorem Hw.qcmdWrite_ok {h : Hw} (hok : h.Ok) (quay : Nat) (v : Nat) : (Hw.qcmdWrite h quay v).Ok := by
  unfold Hw.qcmdWrite
  try dsimp only
  repeat' (first
    | with_reducible assumption
    | with_reducible apply Hw.unmapQueue_ok
    | with_reducible apply Hw.unmapOnce_ok
    | with_reducible apply Hw.mapQueue_ok
    | with_reducible apply Hw.serveQueue_ok
    | with_reducible apply Hw.qcmd_ok
    | split
    | intro _)

theorem Hw.bellReg_ok {h : Hw} (hok : h.Ok) (quay : Nat) (off : Nat) : RegOk (Hw.bellReg h quay off) := by
  unfold Hw.bellReg
  try dsimp only
  repeat' (first
    | with_reducible assumption
    | with_reducible apply Hw.onQuay_ok
    | with_reducible apply accReg_ok
    | with_reducible apply Hw.qcmdWrite_ok
    | with_reducible apply reg_some
    | split
    | intro _)

theorem Hw.portReg_ok {h : Hw} (hok : h.Ok) (p : Nat) (off : Nat) : RegOk (Hw.portReg h p off) := by
  unfold Hw.portReg
  try dsimp only
  repeat' (first
    | with_reducible assumption
    | with_reducible apply Hw.onPort_ok
    | with_reducible apply accReg_ok
    | with_reducible apply reg_some
    | exact Hw.routeReg_ok hok _ _ _ _ _ (by assumption) _
    | split
    | intro _)

theorem Hw.quayReg_ok {h : Hw} (hok : h.Ok) (off : Nat) : RegOk (Hw.quayReg h off) := by
  unfold Hw.quayReg
  try dsimp only
  repeat' (first
    | with_reducible assumption
    | with_reducible apply Hw.routeReg_ok
    | with_reducible apply reg_some
    | split
    | intro _)

theorem Hw.lctlReg_ok {h : Hw} (hok : h.Ok) (lid : Nat) (off : Nat) : RegOk (Hw.lctlReg h lid off) := by
  unfold Hw.lctlReg
  try dsimp only
  repeat' (first
    | with_reducible assumption
    | with_reducible apply Hw.failLaunch_ok
    | with_reducible apply reg_map
    | split
    | intro _
    | dsimp only)

theorem Hw.extraReg_ok {h : Hw} (hok : h.Ok) (site : Nat) (idx : Nat) (off : Nat) : RegOk (Hw.extraReg h site idx off) := by
  unfold Hw.extraReg
  try dsimp only
  repeat' (first
    | with_reducible assumption
    | with_reducible apply Hw.onIsle_ok
    | with_reducible apply Hw.askPath_ok
    | with_reducible apply Hw.withdrawAt_ok
    | with_reducible apply accReg_ok
    | with_reducible apply reg_none
    | with_reducible apply reg_map
    | split
    | intro _)

theorem Hw.regAt_ok {h : Hw} (hok : h.Ok) (site : Nat) (cls : Nat) (idx : Nat) (off : Nat) (len : Nat) : RegOk (Hw.regAt h site cls idx off len) := by
  unfold Hw.regAt
  try dsimp only
  repeat' (first
    | with_reducible assumption
    | with_reducible apply Hw.coreReg_ok
    | with_reducible apply Hw.engReg_ok
    | with_reducible apply Hw.localReg_ok
    | with_reducible apply Hw.arrReg_ok
    | with_reducible apply Hw.isleReg_ok
    | with_reducible apply Hw.sliceReg_ok
    | with_reducible apply Hw.squareReg_ok
    | with_reducible apply Hw.hbmReg_ok
    | with_reducible apply Hw.bellReg_ok
    | with_reducible apply Hw.portReg_ok
    | with_reducible apply Hw.quayReg_ok
    | with_reducible apply Hw.lctlReg_ok
    | with_reducible apply Hw.extraReg_ok
    | with_reducible apply reg_none
    | split)

theorem Hw.writeRegs_ok (site cls idx f off : Nat) (bs : List Byte) {h : Hw} (hok : h.Ok) :
    (Hw.writeRegs site cls idx f off bs h).Ok := by
  induction f generalizing off bs h with
  | zero => exact hok
  | succ f ih =>
    rw [Hw.writeRegs]
    split
    · exact hok
    · split
      · exact ih _ _ hok
      · rename_i r e
        dsimp only
        refine ih _ _ ?_
        split
        · exact Hw.regAt_ok hok _ _ _ _ _ _ e _
        · exact hok

theorem Hw.resetPktab_ok {h : Hw} (hok : h.Ok) : (Hw.resetPktab h).Ok := by
  unfold Hw.resetPktab
  try dsimp only
  repeat' (first
    | with_reducible assumption
    | with_reducible apply Hw.onPort_ok
    | with_reducible apply foldl_ok
    | intro _)

theorem Hw.setCfg_ok {h : Hw} (hok : h.Ok) (c : Cfg) : (Hw.setCfg h c).Ok := by
  unfold Hw.setCfg
  try dsimp only
  repeat' (first
    | with_reducible assumption
    | with_reducible apply Hw.resetPktab_ok)

theorem Hw.acceptRecord_ok {h : Hw} (hok : h.Ok) (b : List Byte) (seq : Nat) (x : RecItems) : (Hw.acceptRecord h b seq x).Ok := by
  unfold Hw.acceptRecord
  try dsimp only
  repeat' (first
    | with_reducible assumption
    | with_reducible apply Hw.onSlice_ok
    | with_reducible apply Hw.withdrawAt_ok
    | with_reducible apply Hw.setCfg_ok
    | with_reducible apply foldl_ok
    | intro _)

theorem Hw.selectRecord_ok {h : Hw} (hok : h.Ok) : (Hw.selectRecord h).Ok := by
  unfold Hw.selectRecord
  try dsimp only
  repeat' (first
    | with_reducible assumption
    | with_reducible apply Hw.setCfg_ok
    | with_reducible apply Hw.acceptRecord_ok
    | split)

theorem Hw.supplyRecord_ok {h : Hw} (hok : h.Ok) (b : List Byte) : (Hw.supplyRecord h b).Ok := by
  unfold Hw.supplyRecord
  try dsimp only
  repeat' (first
    | with_reducible assumption
    | with_reducible apply Hw.acceptRecord_ok
    | split)

theorem execRegisterWrite_ok (addr : BitVec 64) (bytes : List Byte) {s : State} (hok : s.Inv) : OutOk (execRegisterWrite addr bytes s) := by
  unfold execRegisterWrite
  try dsimp only
  repeat' (first
    | with_reducible assumption
    | with_reducible apply State.upd_ok
    | with_reducible apply State.attempt_ok
    | with_reducible apply Hw.writeRegs_ok
    | with_reducible apply Hw.supplyRecord_ok
    | with_reducible apply foldl_ok
    | with_reducible apply foldl_pair_ok
    | refine ok_of_some (by with_reducible assumption) ?_
    | refine ok_of_pair (by with_reducible assumption) ?_
    | refine ok_of_some2 (by with_reducible assumption) ?_
    | with_reducible apply State.upd_ok
    | with_reducible apply State.attempt_ok
    | with_reducible apply settle_ok
    | with_reducible apply chk_ok
    | with_reducible apply chk_err
    | with_reducible apply chk_trap
    | with_reducible apply chk_bind_st
    | with_reducible apply chk_bind
    | with_reducible apply out_next
    | with_reducible apply opt_getD
    | with_reducible apply opt_none
    | with_reducible apply opt_some
    | with_reducible apply opt_map
    | with_reducible apply opt_bind
    | split
    | intro _
    | dsimp only
    | assumption)

theorem Hw.endStage1_ok {h : Hw} (hok : h.Ok) : (Hw.endStage1 h).Ok := by
  unfold Hw.endStage1
  try dsimp only
  repeat' (first
    | with_reducible assumption
    | with_reducible apply Hw.raisePort_ok
    | with_reducible apply Hw.selectRecord_ok
    | split)

theorem Hw.markAll_ok {h : Hw} (hok : h.Ok) : (Hw.markAll h).Ok := by
  unfold Hw.markAll
  try dsimp only
  repeat' (first
    | with_reducible assumption
    | with_reducible apply Hw.onArr_ok
    | with_reducible apply Hw.settlePending_ok
    | with_reducible apply foldl_ok
    | split
    | intro _)

theorem Hw.endStage_ok {h : Hw} (hok : h.Ok) : (Hw.endStage h).Ok := by
  unfold Hw.endStage
  try dsimp only
  repeat' (first
    | with_reducible assumption
    | with_reducible apply Hw.endStage1_ok
    | with_reducible apply Hw.markAll_ok
    | split)

theorem Hw.powerCycle_ok {h : Hw} (_ : h.Ok) : (Hw.powerCycle h).Ok := (by decide : Memory.wf [] = true)

theorem execPowerGood_ok {s : State} (hok : s.Inv) : OutOk (execPowerGood s) := by
  unfold execPowerGood
  try dsimp only
  repeat' (first
    | with_reducible assumption
    | with_reducible apply State.upd_ok
    | with_reducible apply Hw.powerCycle_ok
    | with_reducible apply foldl_ok
    | with_reducible apply foldl_pair_ok
    | refine ok_of_some (by with_reducible assumption) ?_
    | refine ok_of_pair (by with_reducible assumption) ?_
    | refine ok_of_some2 (by with_reducible assumption) ?_
    | with_reducible apply State.upd_ok
    | with_reducible apply State.attempt_ok
    | with_reducible apply settle_ok
    | with_reducible apply chk_ok
    | with_reducible apply chk_err
    | with_reducible apply chk_trap
    | with_reducible apply chk_bind_st
    | with_reducible apply chk_bind
    | with_reducible apply out_next
    | with_reducible apply opt_getD
    | with_reducible apply opt_none
    | with_reducible apply opt_some
    | with_reducible apply opt_map
    | with_reducible apply opt_bind
    | split
    | intro _
    | dsimp only
    | assumption)

theorem execBootStageComplete_ok {s : State} (hok : s.Inv) : OutOk (execBootStageComplete s) := by
  unfold execBootStageComplete
  try dsimp only
  repeat' (first
    | with_reducible assumption
    | with_reducible apply State.upd_ok
    | with_reducible apply Hw.endStage_ok
    | with_reducible apply out_next
    | split)

theorem execTick_ok {s : State} (hok : s.Inv) : OutOk (execTick s) := by
  unfold execTick
  try dsimp only
  repeat' (first
    | with_reducible assumption
    | with_reducible apply State.upd_ok
    | with_reducible apply Hw.leakAll_ok
    | with_reducible apply out_next
    | split)

theorem execRecoveryImage_ok (base : Nat) {s : State} (hok : s.Inv) : OutOk (execRecoveryImage base s) := by
  unfold execRecoveryImage
  try dsimp only
  repeat' (first
    | with_reducible assumption
    | with_reducible apply State.upd_ok
    | with_reducible apply out_next
    | split
    | intro _)

theorem execUnitTrainingComplete_ok (u : TrainUnit) {s : State} (hok : s.Inv) : OutOk (execUnitTrainingComplete u s) := by
  unfold execUnitTrainingComplete
  try dsimp only
  repeat' (first
    | with_reducible assumption
    | with_reducible apply State.upd_ok
    | with_reducible apply Hw.onSlice_ok
    | with_reducible apply Hw.raisePort_ok
    | with_reducible apply out_next
    | split
    | intro _)

theorem execAttestationRequest_ok (nonce : List Byte) {s : State} (hok : s.Inv) : OutOk (execAttestationRequest nonce s) := by
  unfold execAttestationRequest
  try dsimp only
  repeat' (first
    | with_reducible assumption
    | with_reducible apply State.upd_ok
    | with_reducible apply out_next
    | split
    | intro _)

theorem execIslePowerGate_ok (isle : Nat) {s : State} (hok : s.Inv) : OutOk (execIslePowerGate isle s) := by
  unfold execIslePowerGate
  try dsimp only
  repeat' (first
    | with_reducible assumption
    | with_reducible apply Hw.onIsle_ok
    | with_reducible apply State.upd_ok
    | with_reducible apply out_next
    | split
    | intro _)

theorem execIsleWake_ok (isle : Nat) {s : State} (hok : s.Inv) : OutOk (execIsleWake isle s) := by
  unfold execIsleWake
  try dsimp only
  repeat' (first
    | with_reducible assumption
    | with_reducible apply Hw.onIsle_ok
    | with_reducible apply State.attempt_ok
    | with_reducible apply Hw.prepareFor_ok
    | with_reducible apply foldl_ok
    | with_reducible apply foldl_pair_ok
    | refine ok_of_some (by with_reducible assumption) ?_
    | refine ok_of_pair (by with_reducible assumption) ?_
    | refine ok_of_some2 (by with_reducible assumption) ?_
    | with_reducible apply State.upd_ok
    | with_reducible apply State.attempt_ok
    | with_reducible apply settle_ok
    | with_reducible apply chk_ok
    | with_reducible apply chk_err
    | with_reducible apply chk_trap
    | with_reducible apply chk_bind_st
    | with_reducible apply chk_bind
    | with_reducible apply out_next
    | with_reducible apply opt_getD
    | with_reducible apply opt_none
    | with_reducible apply opt_some
    | with_reducible apply opt_map
    | with_reducible apply opt_bind
    | split
    | intro _
    | dsimp only
    | assumption)

end Sys2Proof.Machine
end

