-- ==== Sys2Proof/Laws/Keep6.lean ====
section
/-! SUPPORT. Every arm of `exec`, the issue of a group, and a core's clock keep memory in its canonical form. -/

namespace Sys2Proof.Machine

/-- Whatever the instruction or event, a next state's memory is in canonical form. -/
theorem exec_ok (i : Instr) {s : State} (hok : s.Inv) : OutOk (exec i s) := by
  cases i with
  | nop => exact exec_nop s ▸ execNop_ok hok
  | br cnd a b disp => exact exec_br _ _ _ _ s ▸ execBr_ok cnd a b disp hok
  | jmp disp => exact exec_jmp _ s ▸ execJmp_ok disp hok
  | jmpi a imm => exact exec_jmpi _ _ s ▸ execJmpi_ok a imm hok
  | call disp => exact exec_call _ s ▸ execCall_ok disp hok
  | calli a imm => exact exec_calli _ _ s ▸ execCalli_ok a imm hok
  | ret => exact exec_ret s ▸ execRet_ok hok
  | loopLc lc disp => exact exec_loopLc _ _ s ▸ execLoopLc_ok lc disp hok
  | loopNest disp => exact exec_loopNest _ s ▸ execLoopNest_ok disp hok
  | lset lc a imm => exact exec_lset _ _ _ s ▸ execLset_ok lc a imm hok
  | rep n sd s1 s2 s3 soff => exact exec_rep _ _ _ _ _ _ s ▸ execRep_ok n sd s1 s2 s3 soff hok
  | lnest cb x sc off => exact exec_lnest _ _ _ _ s ▸ execLnest_ok cb x sc off hok
  | brq disp n => exact exec_brq _ _ s ▸ execBrq_ok disp n hok
  | pushbq cnd a b => exact exec_pushbq _ _ _ s ▸ execPushbq_ok cnd a b hok
  | defer va mk cnt tag => exact exec_defer _ _ _ _ s ▸ execDefer_ok va mk cnt tag hok
  | drain a vb disp tag => exact exec_drain _ _ _ _ s ▸ execDrain_ok a vb disp tag hok
  | post k => exact exec_post _ s ▸ execPost_ok k hok
  | await k => exact exec_await _ s ▸ execAwait_ok k hok
  | kget d k => exact exec_kget _ _ s ▸ execKget_ok d k hok
  | trap a imm => exact exec_trap _ _ s ▸ execTrap_ok a imm hok
  | brk imm => exact exec_brk _ s ▸ execBrk_ok imm hok
  | csrr d csr => exact exec_csrr _ _ s ▸ execCsrr_ok d csr hok
  | csrw a csr => exact exec_csrw _ _ s ▸ execCsrw_ok a csr hok
  | fenceCore => exact exec_fenceCore s ▸ execFenceCore_ok hok
  | fenceIsle => exact exec_fenceIsle s ▸ execFenceIsle_ok hok
  | fenceMod => exact exec_fenceMod s ▸ execFenceMod_ok hok
  | fenceSys => exact exec_fenceSys s ▸ execFenceSys_ok hok
  | doneOp => exact exec_doneOp s ▸ execDoneOp_ok hok
  | dbar lv => exact exec_dbar _ s ▸ execDbar_ok lv hok
  | dbarA d lv => exact exec_dbarA _ _ s ▸ execDbarA_ok d lv hok
  | dbarW a lv => exact exec_dbarW _ _ s ▸ execDbarW_ok a lv hok
  | awaitMem d cb x sc off => exact exec_awaitMem _ _ _ _ _ s ▸ execAwaitMem_ok d cb x sc off hok
  | add d a b => exact exec_add _ _ _ s ▸ execAdd_ok d a b hok
  | sub d a b => exact exec_sub _ _ _ s ▸ execSub_ok d a b hok
  | addi d a imm => exact exec_addi _ _ _ s ▸ execAddi_ok d a imm hok
  | li d imm => exact exec_li _ _ s ▸ execLi_ok d imm hok
  | mov d a => exact exec_mov _ _ s ▸ execMov_ok d a hok
  | mul d a b => exact exec_mul _ _ _ s ▸ execMul_ok d a b hok
  | mulhS d a b => exact exec_mulhS _ _ _ s ▸ execMulhS_ok d a b hok
  | mulhZ d a b => exact exec_mulhZ _ _ _ s ▸ execMulhZ_ok d a b hok
  | mad d a b c => exact exec_mad _ _ _ _ s ▸ execMad_ok d a b c hok
  | divS d a b => exact exec_divS _ _ _ s ▸ execDivS_ok d a b hok
  | divZ d a b => exact exec_divZ _ _ _ s ▸ execDivZ_ok d a b hok
  | remS d a b => exact exec_remS _ _ _ s ▸ execRemS_ok d a b hok
  | remZ d a b => exact exec_remZ _ _ _ s ▸ execRemZ_ok d a b hok
  | and d a b => exact exec_and _ _ _ s ▸ execAnd_ok d a b hok
  | or d a b => exact exec_or _ _ _ s ▸ execOr_ok d a b hok
  | xor d a b => exact exec_xor _ _ _ s ▸ execXor_ok d a b hok
  | andn d a b => exact exec_andn _ _ _ s ▸ execAndn_ok d a b hok
  | shl d a b => exact exec_shl _ _ _ s ▸ execShl_ok d a b hok
  | shrZ d a b => exact exec_shrZ _ _ _ s ▸ execShrZ_ok d a b hok
  | shrS d a b => exact exec_shrS _ _ _ s ▸ execShrS_ok d a b hok
  | rotl d a b => exact exec_rotl _ _ _ s ▸ execRotl_ok d a b hok
  | clz d a => exact exec_clz _ _ s ▸ execClz_ok d a hok
  | ctz d a => exact exec_ctz _ _ s ▸ execCtz_ok d a hok
  | popc d a => exact exec_popc _ _ s ▸ execPopc_ok d a hok
  | minS d a b => exact exec_minS _ _ _ s ▸ execMinS_ok d a b hok
  | minZ d a b => exact exec_minZ _ _ _ s ▸ execMinZ_ok d a b hok
  | maxS d a b => exact exec_maxS _ _ _ s ▸ execMaxS_ok d a b hok
  | maxZ d a b => exact exec_maxZ _ _ _ s ▸ execMaxZ_ok d a b hok
  | sel d a b c => exact exec_sel _ _ _ _ s ▸ execSel_ok d a b c hok
  | cmp cnd d a b => exact exec_cmp _ _ _ _ s ▸ execCmp_ok cnd d a b hok
  | cmpi cnd d a imm => exact exec_cmpi _ _ _ _ s ▸ execCmpi_ok cnd d a imm hok
  | pmix d a b t => exact exec_pmix _ _ _ _ s ▸ execPmix_ok d a b t hok
  | extS8 d a => exact exec_extS8 _ _ s ▸ execExtS8_ok d a hok
  | extS16 d a => exact exec_extS16 _ _ s ▸ execExtS16_ok d a hok
  | extS32 d a => exact exec_extS32 _ _ s ▸ execExtS32_ok d a hok
  | extZ8 d a => exact exec_extZ8 _ _ s ▸ execExtZ8_ok d a hok
  | extZ16 d a => exact exec_extZ16 _ _ s ▸ execExtZ16_ok d a hok
  | extZ32 d a => exact exec_extZ32 _ _ s ▸ execExtZ32_ok d a hok
  | addsS64 d a b => exact exec_addsS64 _ _ _ s ▸ execAddsS64_ok d a b hok
  | bfx d a pos len sx => exact exec_bfx _ _ _ _ _ s ▸ execBfx_ok d a pos len sx hok
  | bfi d a pos len => exact exec_bfi _ _ _ _ s ▸ execBfi_ok d a pos len hok
  | rnd d a b c w => exact exec_rnd _ _ _ _ _ s ▸ execRnd_ok d a b c w hok
  | cmov d a => exact exec_cmov _ _ s ▸ execCmov_ok d a hok
  | cinc d a b => exact exec_cinc _ _ _ s ▸ execCinc_ok d a b hok
  | cinci d a imm => exact exec_cinci _ _ _ s ▸ execCinci_ok d a imm hok
  | cbound d a b => exact exec_cbound _ _ _ s ▸ execCbound_ok d a b hok
  | cperm d a mask => exact exec_cperm _ _ _ s ▸ execCperm_ok d a mask hok
  | cgetb d a => exact exec_cgetb _ _ s ▸ execCgetb_ok d a hok
  | cgetl d a => exact exec_cgetl _ _ s ▸ execCgetl_ok d a hok
  | cgeto d a => exact exec_cgeto _ _ s ▸ execCgeto_ok d a hok
  | cgetp d a => exact exec_cgetp _ _ s ▸ execCgetp_ok d a hok
  | ctest d a => exact exec_ctest _ _ s ▸ execCtest_ok d a hok
  | cle d a b => exact exec_cle _ _ _ s ▸ execCle_ok d a b hok
  | cclr d => exact exec_cclr _ s ▸ execCclr_ok d hok
  | caddr d a b => exact exec_caddr _ _ _ s ▸ execCaddr_ok d a b hok
  | cld d cb x sc off => exact exec_cld _ _ _ _ _ s ▸ execCld_ok d cb x sc off hok
  | cst d cb x sc off => exact exec_cst _ _ _ _ _ s ▸ execCst_ok d cb x sc off hok
  | cfoot d k => exact exec_cfoot _ _ s ▸ execCfoot_ok d k hok
  | ldS8 d cb x sc off => exact exec_ldS8 _ _ _ _ _ s ▸ execLdS8_ok d cb x sc off hok
  | ldZ8 d cb x sc off => exact exec_ldZ8 _ _ _ _ _ s ▸ execLdZ8_ok d cb x sc off hok
  | ldS16 d cb x sc off => exact exec_ldS16 _ _ _ _ _ s ▸ execLdS16_ok d cb x sc off hok
  | ldZ16 d cb x sc off => exact exec_ldZ16 _ _ _ _ _ s ▸ execLdZ16_ok d cb x sc off hok
  | ldS32 d cb x sc off => exact exec_ldS32 _ _ _ _ _ s ▸ execLdS32_ok d cb x sc off hok
  | ldZ32 d cb x sc off => exact exec_ldZ32 _ _ _ _ _ s ▸ execLdZ32_ok d cb x sc off hok
  | ld64 d cb x sc off => exact exec_ld64 _ _ _ _ _ s ▸ execLd64_ok d cb x sc off hok
  | st8 d cb x sc off => exact exec_st8 _ _ _ _ _ s ▸ execSt8_ok d cb x sc off hok
  | st16 d cb x sc off => exact exec_st16 _ _ _ _ _ s ▸ execSt16_ok d cb x sc off hok
  | st32 d cb x sc off => exact exec_st32 _ _ _ _ _ s ▸ execSt32_ok d cb x sc off hok
  | st64 d cb x sc off => exact exec_st64 _ _ _ _ _ s ▸ execSt64_ok d cb x sc off hok
  | vld d cb x sc off => exact exec_vld _ _ _ _ _ s ▸ execVld_ok d cb x sc off hok
  | vst d cb x sc off => exact exec_vst _ _ _ _ _ s ▸ execVst_ok d cb x sc off hok
  | vldBc d cb x sc off => exact exec_vldBc _ _ _ _ _ s ▸ execVldBc_ok d cb x sc off hok
  | vgath d cb x sc off => exact exec_vgath _ _ _ _ _ s ▸ execVgath_ok d cb x sc off hok
  | vscat d cb x sc off => exact exec_vscat _ _ _ _ _ s ▸ execVscat_ok d cb x sc off hok
  | ldfeW d cb x sc off => exact exec_ldfeW _ _ _ _ _ s ▸ execLdfeW_ok d cb x sc off hok
  | ldfeC d cb x sc off => exact exec_ldfeC _ _ _ _ _ s ▸ execLdfeC_ok d cb x sc off hok
  | vldfeW d cb x sc off => exact exec_vldfeW _ _ _ _ _ s ▸ execVldfeW_ok d cb x sc off hok
  | vldfeC d cb x sc off => exact exec_vldfeC _ _ _ _ _ s ▸ execVldfeC_ok d cb x sc off hok
  | fset d cb x sc off => exact exec_fset _ _ _ _ _ s ▸ execFset_ok d cb x sc off hok
  | fclr d cb x sc off => exact exec_fclr _ _ _ _ _ s ▸ execFclr_ok d cb x sc off hok
  | ftest d cb x sc off => exact exec_ftest _ _ _ _ _ s ▸ execFtest_ok d cb x sc off hok
  | ldn d cb x sc off land => exact exec_ldn _ _ _ _ _ _ s ▸ execLdn_ok d cb x sc off land hok
  | vldn d cb x sc off land => exact exec_vldn _ _ _ _ _ _ s ▸ execVldn_ok d cb x sc off land hok
  | xget cd ob cs oa len ch tb => exact exec_xget _ _ _ _ _ _ _ s ▸ execXget_ok cd ob cs oa len ch tb hok
  | xput cd ob cs oa len ch tb vs => exact exec_xput _ _ _ _ _ _ _ _ s ▸ execXput_ok cd ob cs oa len ch tb vs hok
  | xmove cd ob cs oa len ch tb vs => exact exec_xmove _ _ _ _ _ _ _ _ s ▸ execXmove_ok cd ob cs oa len ch tb vs hok
  | xgat cd ob cs oa len v w ch tb => exact exec_xgat _ _ _ _ _ _ _ _ _ s ▸ execXgat_ok cd ob cs oa len v w ch tb hok
  | xsct cd ob cs oa len v w ch tb vs => exact exec_xsct _ _ _ _ _ _ _ _ _ _ s ▸ execXsct_ok cd ob cs oa len v w ch tb vs hok
  | xget2d cd ob w cs oa v len ch tb rows => exact exec_xget2d _ _ _ _ _ _ _ _ _ _ s ▸ execXget2d_ok cd ob w cs oa v len ch tb rows hok
  | xput2d cd ob w cs oa v len ch tb rows vs => exact exec_xput2d _ _ _ _ _ _ _ _ _ _ _ s ▸ execXput2d_ok cd ob w cs oa v len ch tb rows vs hok
  | xfill cd ob v len ch tb vs => exact exec_xfill _ _ _ _ _ _ _ s ▸ execXfill_ok cd ob v len ch tb vs hok
  | xaccAddS32 cd ob cs oa len ch => exact exec_xaccAddS32 _ _ _ _ _ _ s ▸ execXaccAddS32_ok cd ob cs oa len ch hok
  | xaccAddS64 cd ob cs oa len ch => exact exec_xaccAddS64 _ _ _ _ _ _ s ▸ execXaccAddS64_ok cd ob cs oa len ch hok
  | xaccAddF32 cd ob cs oa len ch rt => exact exec_xaccAddF32 _ _ _ _ _ _ _ s ▸ execXaccAddF32_ok cd ob cs oa len ch rt hok
  | xaccMinS32 cd ob cs oa len ch => exact exec_xaccMinS32 _ _ _ _ _ _ s ▸ execXaccMinS32_ok cd ob cs oa len ch hok
  | xaccMaxS32 cd ob cs oa len ch => exact exec_xaccMaxS32 _ _ _ _ _ _ s ▸ execXaccMaxS32_ok cd ob cs oa len ch hok
  | xaccMinF32 cd ob cs oa len ch => exact exec_xaccMinF32 _ _ _ _ _ _ s ▸ execXaccMinF32_ok cd ob cs oa len ch hok
  | xaccMaxF32 cd ob cs oa len ch => exact exec_xaccMaxF32 _ _ _ _ _ _ s ▸ execXaccMaxF32_ok cd ob cs oa len ch hok
  | xaccAnd cd ob cs oa len ch => exact exec_xaccAnd _ _ _ _ _ _ s ▸ execXaccAnd_ok cd ob cs oa len ch hok
  | xaccOr cd ob cs oa len ch => exact exec_xaccOr _ _ _ _ _ _ s ▸ execXaccOr_ok cd ob cs oa len ch hok
  | xaccXor cd ob cs oa len ch => exact exec_xaccXor _ _ _ _ _ _ s ▸ execXaccXor_ok cd ob cs oa len ch hok
  | xfaddS32 cd ob v cl ol ch tb rt => exact exec_xfaddS32 _ _ _ _ _ _ _ _ s ▸ execXfaddS32_ok cd ob v cl ol ch tb rt hok
  | xfaddS64 cd ob v cl ol ch tb rt => exact exec_xfaddS64 _ _ _ _ _ _ _ _ s ▸ execXfaddS64_ok cd ob v cl ol ch tb rt hok
  | xswp cd ob v cl ol ch tb rt => exact exec_xswp _ _ _ _ _ _ _ _ s ▸ execXswp_ok cd ob v cl ol ch tb rt hok
  | xcas cd ob v w cl ol ch tb rt => exact exec_xcas _ _ _ _ _ _ _ _ _ s ▸ execXcas_ok cd ob v w cl ol ch tb rt hok
  | xcasGo cd ob v w cl ol ch tb task rt => exact exec_xcasGo _ _ _ _ _ _ _ _ _ _ s ▸ execXcasGo_ok cd ob v w cl ol ch tb task rt hok
  | xclose ch rt => exact exec_xclose _ _ s ▸ execXclose_ok ch rt hok
  | xwaitIn v ch => exact exec_xwaitIn _ _ s ▸ execXwaitIn_ok v ch hok
  | xwaitRel v ch => exact exec_xwaitRel _ _ s ▸ execXwaitRel_ok v ch hok
  | xwaitVis v ch => exact exec_xwaitVis _ _ s ▸ execXwaitVis_ok v ch hok
  | xid v ch aux => exact exec_xid _ _ _ s ▸ execXid_ok v ch aux hok
  | xorder => exact exec_xorder s ▸ execXorder_ok hok
  | vaddF32 vd va vb mk => exact exec_vaddF32 _ _ _ _ s ▸ execVaddF32_ok vd va vb mk hok
  | vsubF32 vd va vb mk => exact exec_vsubF32 _ _ _ _ s ▸ execVsubF32_ok vd va vb mk hok
  | vmulF32 vd va vb mk => exact exec_vmulF32 _ _ _ _ s ▸ execVmulF32_ok vd va vb mk hok
  | vfmaF32 vd va vb vc mk => exact exec_vfmaF32 _ _ _ _ _ s ▸ execVfmaF32_ok vd va vb vc mk hok
  | vfmsF32 vd va vb vc mk => exact exec_vfmsF32 _ _ _ _ _ s ▸ execVfmsF32_ok vd va vb vc mk hok
  | vfnmaF32 vd va vb vc mk => exact exec_vfnmaF32 _ _ _ _ _ s ▸ execVfnmaF32_ok vd va vb vc mk hok
  | vminF32 vd va vb mk => exact exec_vminF32 _ _ _ _ s ▸ execVminF32_ok vd va vb mk hok
  | vmaxF32 vd va vb mk => exact exec_vmaxF32 _ _ _ _ s ▸ execVmaxF32_ok vd va vb mk hok
  | vabsF32 vd va mk => exact exec_vabsF32 _ _ _ s ▸ execVabsF32_ok vd va mk hok
  | vnegF32 vd va mk => exact exec_vnegF32 _ _ _ s ▸ execVnegF32_ok vd va mk hok
  | vdivF32 vd va vb mk => exact exec_vdivF32 _ _ _ _ s ▸ execVdivF32_ok vd va vb mk hok
  | vsqrtF32 vd va mk => exact exec_vsqrtF32 _ _ _ s ▸ execVsqrtF32_ok vd va mk hok
  | vrcpF32 vd va mk => exact exec_vrcpF32 _ _ _ s ▸ execVrcpF32_ok vd va mk hok
  | vrsqrtF32 vd va mk => exact exec_vrsqrtF32 _ _ _ s ▸ execVrsqrtF32_ok vd va mk hok
  | vexp2F32 vd va mk => exact exec_vexp2F32 _ _ _ s ▸ execVexp2F32_ok vd va mk hok
  | vlog2F32 vd va mk => exact exec_vlog2F32 _ _ _ s ▸ execVlog2F32_ok vd va mk hok
  | vsinpiF32 vd va mk => exact exec_vsinpiF32 _ _ _ s ▸ execVsinpiF32_ok vd va mk hok
  | vcospiF32 vd va mk => exact exec_vcospiF32 _ _ _ s ▸ execVcospiF32_ok vd va mk hok
  | vtanhF32 vd va mk => exact exec_vtanhF32 _ _ _ s ▸ execVtanhF32_ok vd va mk hok
  | vrrpi vd va mk => exact exec_vrrpi _ _ _ s ▸ execVrrpi_ok vd va mk hok
  | vfloorF32 vd va mk => exact exec_vfloorF32 _ _ _ s ▸ execVfloorF32_ok vd va mk hok
  | vrintF32 vd va mk => exact exec_vrintF32 _ _ _ s ▸ execVrintF32_ok vd va mk hok
  | vcmpF32 cc md va vb mk => exact exec_vcmpF32 _ _ _ _ _ s ▸ execVcmpF32_ok cc md va vb mk hok
  | vclassF32 vd va mk => exact exec_vclassF32 _ _ _ s ▸ execVclassF32_ok vd va mk hok
  | vaddBf16 vd va vb mk => exact exec_vaddBf16 _ _ _ _ s ▸ execVaddBf16_ok vd va vb mk hok
  | vmulBf16 vd va vb mk => exact exec_vmulBf16 _ _ _ _ s ▸ execVmulBf16_ok vd va vb mk hok
  | vfmaBf16 vd va vb vc mk => exact exec_vfmaBf16 _ _ _ _ _ s ▸ execVfmaBf16_ok vd va vb vc mk hok
  | vaddS32 vd va vb mk => exact exec_vaddS32 _ _ _ _ s ▸ execVaddS32_ok vd va vb mk hok
  | vsubS32 vd va vb mk => exact exec_vsubS32 _ _ _ _ s ▸ execVsubS32_ok vd va vb mk hok
  | vmulS32 vd va vb mk => exact exec_vmulS32 _ _ _ _ s ▸ execVmulS32_ok vd va vb mk hok
  | vmadS16 vd va vb vc mk => exact exec_vmadS16 _ _ _ _ _ s ▸ execVmadS16_ok vd va vb vc mk hok
  | vaddsS32 vd va vb mk => exact exec_vaddsS32 _ _ _ _ s ▸ execVaddsS32_ok vd va vb mk hok
  | vsubsS32 vd va vb mk => exact exec_vsubsS32 _ _ _ _ s ▸ execVsubsS32_ok vd va vb mk hok
  | vminS32 vd va vb mk => exact exec_vminS32 _ _ _ _ s ▸ execVminS32_ok vd va vb mk hok
  | vmaxS32 vd va vb mk => exact exec_vmaxS32 _ _ _ _ s ▸ execVmaxS32_ok vd va vb mk hok
  | vminZ32 vd va vb mk => exact exec_vminZ32 _ _ _ _ s ▸ execVminZ32_ok vd va vb mk hok
  | vmaxZ32 vd va vb mk => exact exec_vmaxZ32 _ _ _ _ s ▸ execVmaxZ32_ok vd va vb mk hok
  | vand vd va vb mk => exact exec_vand _ _ _ _ s ▸ execVand_ok vd va vb mk hok
  | vor vd va vb mk => exact exec_vor _ _ _ _ s ▸ execVor_ok vd va vb mk hok
  | vxor vd va vb mk => exact exec_vxor _ _ _ _ s ▸ execVxor_ok vd va vb mk hok
  | vshl vd va vb mk => exact exec_vshl _ _ _ _ s ▸ execVshl_ok vd va vb mk hok
  | vshlImm vd va n mk => exact exec_vshlImm _ _ _ _ s ▸ execVshlImm_ok vd va n mk hok
  | vshrZ vd va vb mk => exact exec_vshrZ _ _ _ _ s ▸ execVshrZ_ok vd va vb mk hok
  | vshrZImm vd va n mk => exact exec_vshrZImm _ _ _ _ s ▸ execVshrZImm_ok vd va n mk hok
  | vshrS vd va vb mk => exact exec_vshrS _ _ _ _ s ▸ execVshrS_ok vd va vb mk hok
  | vshrSImm vd va n mk => exact exec_vshrSImm _ _ _ _ s ▸ execVshrSImm_ok vd va n mk hok
  | vcmpS32 cc md va vb mk => exact exec_vcmpS32 _ _ _ _ _ s ▸ execVcmpS32_ok cc md va vb mk hok
  | vcmpZ32 cc md va vb mk => exact exec_vcmpZ32 _ _ _ _ _ s ▸ execVcmpZ32_ok cc md va vb mk hok
  | vsel vd va vb mk => exact exec_vsel _ _ _ _ s ▸ execVsel_ok vd va vb mk hok
  | vmask md ma mb t => exact exec_vmask _ _ _ _ s ▸ execVmask_ok md ma mb t hok
  | vcvtF32S32 vd va mk => exact exec_vcvtF32S32 _ _ _ s ▸ execVcvtF32S32_ok vd va mk hok
  | vcvtS32F32Rne vd va mk => exact exec_vcvtS32F32Rne _ _ _ s ▸ execVcvtS32F32Rne_ok vd va mk hok
  | vcvtS32F32Rz vd va mk => exact exec_vcvtS32F32Rz _ _ _ s ▸ execVcvtS32F32Rz_ok vd va mk hok
  | vcvtBf16F32 vd va vb => exact exec_vcvtBf16F32 _ _ _ s ▸ execVcvtBf16F32_ok vd va vb hok
  | vcvtF32Bf16 vd va h mk => exact exec_vcvtF32Bf16 _ _ _ _ s ▸ execVcvtF32Bf16_ok vd va h mk hok
  | vcvtE4m3F32 vd va q => exact exec_vcvtE4m3F32 _ _ _ s ▸ execVcvtE4m3F32_ok vd va q hok
  | vcvtE4m3F32Nv vd va q => exact exec_vcvtE4m3F32Nv _ _ _ s ▸ execVcvtE4m3F32Nv_ok vd va q hok
  | vcvtE5m2F32 vd va q => exact exec_vcvtE5m2F32 _ _ _ s ▸ execVcvtE5m2F32_ok vd va q hok
  | vcvtF32E4m3 vd va q mk => exact exec_vcvtF32E4m3 _ _ _ _ s ▸ execVcvtF32E4m3_ok vd va q mk hok
  | vcvtF32E5m2 vd va q mk => exact exec_vcvtF32E5m2 _ _ _ _ s ▸ execVcvtF32E5m2_ok vd va q mk hok
  | vqmx4 vd vb va sel => exact exec_vqmx4 _ _ _ _ s ▸ execVqmx4_ok vd vb va sel hok
  | vqmx8 vd vb va q => exact exec_vqmx8 _ _ _ _ s ▸ execVqmx8_ok vd vb va q hok
  | vdqmx4 vd va vb sel mk => exact exec_vdqmx4 _ _ _ _ _ s ▸ execVdqmx4_ok vd va vb sel mk hok
  | vxpS4 vd va sel mk => exact exec_vxpS4 _ _ _ _ s ▸ execVxpS4_ok vd va sel mk hok
  | vxpOcp4 vd va sel q => exact exec_vxpOcp4 _ _ _ _ s ▸ execVxpOcp4_ok vd va sel q hok
  | vcvtBfpF32 vd va => exact exec_vcvtBfpF32 _ _ s ▸ execVcvtBfpF32_ok vd va hok
  | vcvtF32Bfp vd va mk => exact exec_vcvtF32Bfp _ _ _ s ▸ execVcvtF32Bfp_ok vd va mk hok
  | vperm vd va vb mk => exact exec_vperm _ _ _ _ s ▸ execVperm_ok vd va vb mk hok
  | vswpPair vd va f mk => exact exec_vswpPair _ _ _ _ s ▸ execVswpPair_ok vd va f mk hok
  | vrot vd va n mk => exact exec_vrot _ _ _ _ s ▸ execVrot_ok vd va n mk hok
  | vbc vd va n mk => exact exec_vbc _ _ _ _ s ▸ execVbc_ok vd va n mk hok
  | vext d va n => exact exec_vext _ _ _ s ▸ execVext_ok d va n hok
  | vextMask d ma => exact exec_vextMask _ _ s ▸ execVextMask_ok d ma hok
  | vins vd a n => exact exec_vins _ _ _ s ▸ execVins_ok vd a n hok
  | vinsMask md a => exact exec_vinsMask _ _ s ▸ execVinsMask_ok md a hok
  | vli vd imm => exact exec_vli _ _ s ▸ execVli_ok vd imm hok
  | vmov vd va mk => exact exec_vmov _ _ _ s ▸ execVmov_ok vd va mk hok
  | vredAddF32 vd va mk => exact exec_vredAddF32 _ _ _ s ▸ execVredAddF32_ok vd va mk hok
  | vredMaxF32 vd va mk => exact exec_vredMaxF32 _ _ _ s ▸ execVredMaxF32_ok vd va mk hok
  | vredAddS32 vd va mk => exact exec_vredAddS32 _ _ _ s ▸ execVredAddS32_ok vd va mk hok
  | vscanAddS32 vd va mk => exact exec_vscanAddS32 _ _ _ s ▸ execVscanAddS32_ok vd va mk hok
  | vpackS16 vd va vb => exact exec_vpackS16 _ _ _ s ▸ execVpackS16_ok vd va vb hok
  | vunpkS16 vd va h mk => exact exec_vunpkS16 _ _ _ _ s ▸ execVunpkS16_ok vd va h mk hok
  | vcntM d ma => exact exec_vcntM _ _ s ▸ execVcntM_ok d ma hok
  | vcomp vd va mk => exact exec_vcomp _ _ _ s ▸ execVcomp_ok vd va mk hok
  | vexpd vd va mk => exact exec_vexpd _ _ _ s ▸ execVexpd_ok vd va mk hok
  | lease n => exact exec_lease _ s ▸ execLease_ok n hok
  | unlease => exact exec_unlease s ▸ execUnlease_ok hok
  | tload ab prof rows => exact exec_tload _ _ _ s ▸ execTload_ok ab prof rows hok
  | tmma slot aa ab prof rows land cops => exact exec_tmma _ _ _ _ _ _ _ s ▸ execTmma_ok slot aa ab prof rows land cops hok
  | tmmaGa slot aa ab prof rows land cops => exact exec_tmmaGa _ _ _ _ _ _ _ s ▸ execTmmaGa_ok slot aa ab prof rows land cops hok
  | tzero slot rows => exact exec_tzero _ _ s ▸ execTzero_ok slot rows hok
  | taccRd vd c clr mk => exact exec_taccRd _ _ _ _ s ▸ execTaccRd_ok vd c clr mk hok
  | taccWr va c mk => exact exec_taccWr _ _ _ s ▸ execTaccWr_ok va c mk hok
  | tshape d a prof => exact exec_tshape _ _ _ s ▸ execTshape_ok d a prof hok
  | ftset d a => exact exec_ftset _ _ s ▸ execFtset_ok d a hok
  | ftget d a => exact exec_ftget _ _ s ▸ execFtget_ok d a hok
  | tcal d segs => exact exec_tcal _ _ s ▸ execTcal_ok d segs hok
  | rminF32 vd va vb vc mk k land => exact exec_rminF32 _ _ _ _ _ _ _ s ▸ execRminF32_ok vd va vb vc mk k land hok
  | rmaxF32 vd va vb vc mk k land => exact exec_rmaxF32 _ _ _ _ _ _ _ s ▸ execRmaxF32_ok vd va vb vc mk k land hok
  | rminS32 vd va vb vc mk k land => exact exec_rminS32 _ _ _ _ _ _ _ s ▸ execRminS32_ok vd va vb vc mk k land hok
  | rmaxS32 vd va vb vc mk k land => exact exec_rmaxS32 _ _ _ _ _ _ _ s ▸ execRmaxS32_ok vd va vb vc mk k land hok
  | rsortF32 vd va vb vc mk k land => exact exec_rsortF32 _ _ _ _ _ _ _ s ▸ execRsortF32_ok vd va vb vc mk k land hok
  | rsortdF32 vd va vb vc mk k land => exact exec_rsortdF32 _ _ _ _ _ _ _ s ▸ execRsortdF32_ok vd va vb vc mk k land hok
  | rsortS32 vd va vb vc mk k land => exact exec_rsortS32 _ _ _ _ _ _ _ s ▸ execRsortS32_ok vd va vb vc mk k land hok
  | rtopkF32 vd va vb vc mk k land => exact exec_rtopkF32 _ _ _ _ _ _ _ s ▸ execRtopkF32_ok vd va vb vc mk k land hok
  | rbotkF32 vd va vb vc mk k land => exact exec_rbotkF32 _ _ _ _ _ _ _ s ▸ execRbotkF32_ok vd va vb vc mk k land hok
  | rtopkS32 vd va vb vc mk k land => exact exec_rtopkS32 _ _ _ _ _ _ _ s ▸ execRtopkS32_ok vd va vb vc mk k land hok
  | rmergeF32 vd va vb vc mk k land => exact exec_rmergeF32 _ _ _ _ _ _ _ s ▸ execRmergeF32_ok vd va vb vc mk k land hok
  | rmergdF32 vd va vb vc mk k land => exact exec_rmergdF32 _ _ _ _ _ _ _ s ▸ execRmergdF32_ok vd va vb vc mk k land hok
  | rknnF32 vd va vb vc mk k land => exact exec_rknnF32 _ _ _ _ _ _ _ s ▸ execRknnF32_ok vd va vb vc mk k land hok
  | tbinit a n nl nc ns => exact exec_tbinit _ _ _ _ _ s ▸ execTbinit_ok a n nl nc ns hok
  | tbexpect a n => exact exec_tbexpect _ _ s ▸ execTbexpect_ok a n hok
  | tbarrive d a n p => exact exec_tbarrive _ _ _ _ s ▸ execTbarrive_ok d a n p hok
  | tbwait a n => exact exec_tbwait _ _ s ▸ execTbwait_ok a n hok
  | tbtest d a n => exact exec_tbtest _ _ _ s ▸ execTbtest_ok d a n hok
  | tbretire n => exact exec_tbretire _ s ▸ execTbretire_ok n hok
  | sopen q r => exact exec_sopen _ _ s ▸ execSopen_ok q r hok
  | sput d q a => exact exec_sput _ _ _ s ▸ execSput_ok d q a hok
  | sget d q a => exact exec_sget _ _ _ s ▸ execSget_ok d q a hok
  | sclose q sel => exact exec_sclose _ _ s ▸ execSclose_ok q sel hok
  | sstat d q => exact exec_sstat _ _ s ▸ execSstat_ok d q hok
  | qput a q => exact exec_qput _ _ s ▸ execQput_ok a q hok
  | qget d q w k => exact exec_qget _ _ _ _ s ▸ execQget_ok d q w k hok
  | qputv va q => exact exec_qputv _ _ s ▸ execQputv_ok va q hok
  | qgetv vd q k => exact exec_qgetv _ _ _ s ▸ execQgetv_ok vd q k hok
  | sectionEntry co e => exact exec_sectionEntry _ _ s ▸ execSectionEntry_ok co e hok
  | taskStart co => exact exec_taskStart _ s ▸ execTaskStart_ok co hok
  | taskRetirement co => exact exec_taskRetirement _ s ▸ execTaskRetirement_ok co hok
  | landDue co slot => exact exec_landDue _ _ s ▸ execLandDue_ok co slot hok
  | freezeEnd co => exact exec_freezeEnd _ s ▸ execFreezeEnd_ok co hok
  | copyCommandStart co q => exact exec_copyCommandStart _ _ s ▸ execCopyCommandStart_ok co q hok
  | copyProgress co n => exact exec_copyProgress _ _ s ▸ execCopyProgress_ok co n hok
  | copyVisible co n => exact exec_copyVisible _ _ s ▸ execCopyVisible_ok co n hok
  | xorderHead co q => exact exec_xorderHead _ _ s ▸ execXorderHead_ok co q hok
  | xorderLeave co q => exact exec_xorderLeave _ _ s ▸ execXorderLeave_ok co q hok
  | pageWalkComplete isle n => exact exec_pageWalkComplete _ _ s ▸ execPageWalkComplete_ok isle n hok
  | ituinvVa isle ctx va => exact exec_ituinvVa _ _ _ s ▸ execItuinvVa_ok isle ctx va hok
  | ituinvContext isle ctx => exact exec_ituinvContext _ _ s ▸ execItuinvContext_ok isle ctx hok
  | ituinvAll isle => exact exec_ituinvAll _ s ▸ execItuinvAll_ok isle hok
  | ituinvComplete isle => exact exec_ituinvComplete _ s ▸ execItuinvComplete_ok isle hok
  | leaseGrant isle ins => exact exec_leaseGrant _ _ s ▸ execLeaseGrant_ok isle ins hok
  | tileReady co slot rejects => exact exec_tileReady _ _ _ s ▸ execTileReady_ok co slot rejects hok
  | raceReady co slot rejects => exact exec_raceReady _ _ _ s ▸ execRaceReady_ok co slot rejects hok
  | calibrationMark isle ins => exact exec_calibrationMark _ _ s ▸ execCalibrationMark_ok isle ins hok
  | sliceRequest site slice n ecc => exact exec_sliceRequest _ _ _ _ s ▸ execSliceRequest_ok site slice n ecc hok
  | scrubLine site slice ecc => exact exec_scrubLine _ _ _ s ▸ execScrubLine_ok site slice ecc hok
  | rowTrackLeak site slice => exact exec_rowTrackLeak _ _ s ▸ execRowTrackLeak_ok site slice hok
  | rowSpareStart site slice bank row => exact exec_rowSpareStart _ _ _ _ s ▸ execRowSpareStart_ok site slice bank row hok
  | spareLineCopy site slice => exact exec_spareLineCopy _ _ s ▸ execSpareLineCopy_ok site slice hok
  | atomicApply co n => exact exec_atomicApply _ _ s ▸ execAtomicApply_ok co n hok
  | roundRequestAccept co n => exact exec_roundRequestAccept _ _ s ▸ execRoundRequestAccept_ok co n hok
  | roundCloseNotice site slice lid p => exact exec_roundCloseNotice _ _ _ _ s ▸ execRoundCloseNotice_ok site slice lid p hok
  | roundApply site slice lid wave tag => exact exec_roundApply _ _ _ _ _ s ▸ execRoundApply_ok site slice lid wave tag hok
  | atomicLanding co n => exact exec_atomicLanding _ _ s ▸ execAtomicLanding_ok co n hok
  | monitorRequest co e => exact exec_monitorRequest _ _ s ▸ execMonitorRequest_ok co e hok
  | monitorTimeout co e => exact exec_monitorTimeout _ _ s ▸ execMonitorTimeout_ok co e hok
  | sputPublish site ring => exact exec_sputPublish _ _ s ▸ execSputPublish_ok site ring hok
  | sgetCopyComplete site ring => exact exec_sgetCopyComplete _ _ s ▸ execSgetCopyComplete_ok site ring hok
  | entryRelease lid ent => exact exec_entryRelease _ _ s ▸ execEntryRelease_ok lid ent hok
  | frameScheduledEnd lid => exact exec_frameScheduledEnd _ s ▸ execFrameScheduledEnd_ok lid hok
  | slipLimit lid => exact exec_slipLimit _ s ▸ execSlipLimit_ok lid hok
  | frameComplete lid elastic => exact exec_frameComplete _ _ s ▸ execFrameComplete_ok lid elastic hok
  | frameStart lid => exact exec_frameStart _ s ▸ execFrameStart_ok lid hok
  | launchAbort lid => exact exec_launchAbort _ s ▸ execLaunchAbort_ok lid hok
  | trapRecordService isle => exact exec_trapRecordService _ s ▸ execTrapRecordService_ok isle hok
  | cctlResume co => exact exec_cctlResume _ s ▸ execCctlResume_ok co hok
  | lctlAbort lid => exact exec_lctlAbort _ s ▸ execLctlAbort_ok lid hok
  | machineFault place => exact exec_machineFault _ s ▸ execMachineFault_ok place hok
  | temperatureSample isle ins temp => exact exec_temperatureSample _ _ _ s ▸ execTemperatureSample_ok isle ins temp hok
  | thermalGapStep isle ins => exact exec_thermalGapStep _ _ s ▸ execThermalGapStep_ok isle ins hok
  | dbnotify q n => exact exec_dbnotify _ _ s ▸ execDbnotify_ok q n hok
  | queueMap q => exact exec_queueMap _ s ▸ execQueueMap_ok q hok
  | queueUnmap q => exact exec_queueUnmap _ s ▸ execQueueUnmap_ok q hok
  | qcmdMap quay q => exact exec_qcmdMap _ _ s ▸ execQcmdMap_ok quay q hok
  | qcmdUnmap quay q => exact exec_qcmdUnmap _ _ s ▸ execQcmdUnmap_ok quay q hok
  | qcmdClearFault quay q => exact exec_qcmdClearFault _ _ s ▸ execQcmdClearFault_ok quay q hok
  | attnService quay => exact exec_attnService _ s ▸ execAttnService_ok quay hok
  | packetFetch q => exact exec_packetFetch _ s ▸ execPacketFetch_ok q hok
  | launch q => exact exec_launch _ s ▸ execLaunch_ok q hok
  | callPacket q => exact exec_callPacket _ s ▸ execCallPacket_ok q hok
  | returnPacket q => exact exec_returnPacket _ s ▸ execReturnPacket_ok q hok
  | join q => exact exec_join _ s ▸ execJoin_ok q hok
  | copy q => exact exec_copy _ s ▸ execCopy_ok q hok
  | signal q => exact exec_signal _ s ▸ execSignal_ok q hok
  | waitvalue q => exact exec_waitvalue _ s ▸ execWaitvalue_ok q hok
  | waitvaluePoll q => exact exec_waitvaluePoll _ s ▸ execWaitvaluePoll_ok q hok
  | waitvalueTimeout q => exact exec_waitvalueTimeout _ s ▸ execWaitvalueTimeout_ok q hok
  | preempt q => exact exec_preempt _ s ▸ execPreempt_ok q hok
  | refine q => exact exec_refine _ s ▸ execRefine_ok q hok
  | refineRunEnd q => exact exec_refineRunEnd _ s ▸ execRefineRunEnd_ok q hok
  | harbourRestart => exact exec_harbourRestart s ▸ execHarbourRestart_ok hok
  | flitReceive port bytes crc => exact exec_flitReceive _ _ _ s ▸ execFlitReceive_ok port bytes crc hok
  | flitReplay port => exact exec_flitReplay _ s ▸ execFlitReplay_ok port hok
  | portDown port cause => exact exec_portDown _ _ s ▸ execPortDown_ok port cause hok
  | portUp port => exact exec_portUp _ s ▸ execPortUp_ok port hok
  | rtgenFlip table gen => exact exec_rtgenFlip _ _ s ▸ execRtgenFlip_ok table gen hok
  | ringdescWrite site ring v => exact exec_ringdescWrite _ _ _ s ▸ execRingdescWrite_ok site ring v hok
  | registerWrite addr bytes => exact exec_registerWrite _ _ s ▸ execRegisterWrite_ok addr bytes hok
  | tick => exact exec_tick s ▸ execTick_ok hok
  | powerGood => exact exec_powerGood s ▸ execPowerGood_ok hok
  | bootStageComplete => exact exec_bootStageComplete s ▸ execBootStageComplete_ok hok
  | recoveryImage base => exact exec_recoveryImage _ s ▸ execRecoveryImage_ok base hok
  | unitTrainingComplete u => exact exec_unitTrainingComplete _ s ▸ execUnitTrainingComplete_ok u hok
  | attestationRequest nonce => exact exec_attestationRequest _ s ▸ execAttestationRequest_ok nonce hok
  | islePowerGate isle => exact exec_islePowerGate _ s ▸ execIslePowerGate_ok isle hok
  | isleWake isle => exact exec_isleWake _ s ▸ execIsleWake_ok isle hok
  | calibrationComplete isle ins periods trims => exact exec_calibrationComplete _ _ _ _ s ▸ execCalibrationComplete_ok isle ins periods trims hok
  | perBankRefresh site slice bank rfm => exact exec_perBankRefresh _ _ _ _ s ▸ execPerBankRefresh_ok site slice bank rfm hok

theorem foldl_inv {α : Type} {f : State → α → State} {l : List α} {s : State} (w : s.Inv)
    (hf : ∀ s a, State.Inv s → (f s a).Inv) : (l.foldl f s).Inv := by
  induction l generalizing s with
  | nil => exact w
  | cons a t ih => exact ih (hf s a w)

theorem State.runSlot_ok {s : State} (hok : s.Inv) (i : Nat) (w : BitVec 96) (x : Insn) : OutOk (s.runSlot i w x) := by
  unfold State.runSlot
  extract_lets i1 s1
  have hok : s1.Inv := hok
  clear_value s1
  split
  · exact out_next hok
  · split
    · split
      · rename_i u e
        split
        · exact out_next (State.raise_ok hok _)
        · exact out_next (exec_ok _ hok _ e)
      · exact exec_ok _ hok
    · exact out_next hok

theorem runSlots_ok {s : State} (hok : s.Inv) (i : Nat) (ws : List (BitVec 96 × Insn)) : OutOk (runSlots i ws s) := by
  induction ws generalizing i s with
  | nil => exact out_next hok
  | cons a t ih =>
    rw [runSlots]
    split
    · rename_i u e
      have := State.runSlot_ok hok _ _ _ u e
      split
      · exact out_next this
      · exact ih this _
    · exact fun _ e => nomatch e
    · exact fun _ e => nomatch e

theorem State.markWaits_ok {s : State} (hok : s.Inv) (xs : List Insn) : (s.markWaits xs).Inv := by
  unfold State.markWaits
  refine foldl_inv hok (fun t x w => ?_)
  split
  · exact w
  · split
    · split
      · exact State.upd_ok w _ (fun _ w => Hw.putSlot_ok w _ _ _)
      · exact w
    · exact State.onArrHere_ok w _
    · exact w

theorem State.holdLease_ok {s : State} (hok : s.Inv) (xs : List Insn) : (s.holdLease xs).Inv := by
  unfold State.holdLease
  split
  · exact State.onArrHere_ok hok _
  · exact hok

theorem State.dropWaits_ok {s : State} (hok : s.Inv) (xs : List Insn) : (s.dropWaits xs).Inv := by
  unfold State.dropWaits
  refine foldl_inv hok (fun t x w => ?_)
  split
  · split
    · exact State.upd_ok w _ (fun _ w => Hw.putSlot_ok w _ _ _)
    · exact w
  · exact State.onArrHere_ok w _
  · exact w

theorem State.decodeTrap_ok {s : State} (hok : s.Inv) (co : CoreId) (e : EngId) (code : Byte) (pc slot : Nat) (w : BitVec 96) :
    (s.decodeTrap co e code pc slot w).Inv := State.upd_ok hok _ (fun _ w => Hw.engTrap_ok w _ _ _)

theorem State.withIx_ok {t : State} (w : t.Inv) (ix : Issue) : ({ t with ix := ix } : State).Inv := w

theorem State.finish_ok {s u : State} (hs : s.Inv) (hu : u.Inv) (x : Sect) (ws : List (BitVec 96 × Insn)) (b : Bool) :
    (s.finish u x ws b).Inv := by
  unfold State.finish
  dsimp only
  split
  · exact State.withIx_ok (State.upd_ok (State.dropWaits_ok hs _) _ (fun _ w => Hw.noteMachine_ok (Hw.engTrap_ok w _ _ _) _ _)) ({} : Issue)
  · split
    · exact State.markWaits_ok (State.onMe_ok hs _) _
    · split
      · exact State.withIx_ok hs ({} : Issue)
      · split
        · exact State.withIx_ok (State.onMe_ok (State.holdLease_ok hs _) _) _
        · exact foldl_ok (Hw.onCore_ok (h := u.toHw) hu _ _) (fun _ _ w => Hw.takeTrap_ok w _ _)

theorem State.runGroup_ok {s : State} (hok : s.Inv) (x : Sect) (ws : List (BitVec 96 × Insn)) (b : Bool) :
    OutOk (s.runGroup x ws b) := by
  unfold State.runGroup
  split
  · rename_i u e
    exact out_next (State.finish_ok hok (runSlots_ok hok _ _ _ e) _ _ _)
  · exact fun _ e => nomatch e
  · exact fun _ e => nomatch e

theorem State.issueOf_ok {s : State} (hok : s.Inv) (co : CoreId) (e : EngId) (ws : List (BitVec 96 × Insn)) (r : Option Nat)
    (delay : Nat) : (s.issueOf co e ws r delay).Inv := hok

theorem State.issueWords_ok {s : State} (hok : s.Inv) (co : CoreId) (e : EngId) (x : Sect) (ws : List (BitVec 96 × Insn))
    (r : Option Nat) : OutOk (s.issueWords co e x ws r) := by
  unfold State.issueWords
  extract_lets k going delay s0
  have w0 : s0.Inv := State.issueOf_ok (State.upd_ok hok _ (fun _ w => Hw.onEng_ok w _ _ _)) _ _ _ _ _
  split
  · exact out_next hok
  · exact State.runGroup_ok w0 _ _ _

theorem State.issueAt_ok {s : State} (hok : s.Inv) (co : CoreId) (e : EngId) (x : Sect) : OutOk (s.issueAt co e x) := by
  unfold State.issueAt
  dsimp only
  repeat' first
    | with_reducible assumption
    | with_reducible apply out_next
    | with_reducible apply State.decodeTrap_ok
    | with_reducible apply State.issueWords_ok
    | split

theorem State.issueNext_ok {s : State} (hok : s.Inv) (co : CoreId) (e : EngId) : OutOk (s.issueNext co e) := by
  unfold State.issueNext
  dsimp only
  repeat' first
    | with_reducible assumption
    | with_reducible apply out_next
    | with_reducible apply State.issueAt_ok
    | with_reducible apply State.upd_ok
    | with_reducible apply Hw.onEng_ok
    | with_reducible apply Hw.followXfer_ok
    | split
    | intro _

theorem State.issue_ok {s : State} (hok : s.Inv) (co : CoreId) (e : EngId) : OutOk (s.issue co e) := by
  unfold State.issue
  repeat' first
    | with_reducible assumption
    | with_reducible apply out_next
    | with_reducible apply State.issueWords_ok
    | with_reducible apply State.issueNext_ok
    | split

theorem Hw.rereads_ok {h : Hw} (hok : h.Ok) (co : CoreId) : (h.rereads co).Ok := by
  unfold Hw.rereads
  extract_lets k
  split
  · exact Hw.setCore_ok hok _ _
  · exact hok

theorem Hw.clock_ok {h : Hw} (hok : h.Ok) (co : CoreId) : (h.clock co).Ok := by
  unfold Hw.clock
  extract_lets g k arr g2
  have w : g.Ok := Hw.rereads_ok hok co
  split
  · exact Hw.setCore_ok w _ _
  · split
    · have w2 : g2.Ok := Hw.setCore_ok w _ _
      split
      · exact Hw.onArr_ok w2 _ _ _
      · exact w2
    · split
      · exact w
      · exact Hw.setCore_ok w _ _

end Sys2Proof.Machine
end

