-- ==== Sys2Proof/Laws/Frame.lean ====
section
/-! SUPPORT. What the register writes of an instruction change, and the lanes of a register written whole. -/

namespace Sys2Proof.Machine

/-! ### Cores and engines -/

theorem State.onHere_onlyCore (s : State) (f : Core → Core) : s.OnlyCore (s.onHere f) :=
  ⟨rfl, fun _ d => Hw.core_setCore_other _ _ d⟩

theorem State.onMe_onlyEng (s : State) (f : Eng → Eng) : s.OnlyEng (s.onMe f) :=
  ⟨State.onHere_onlyCore s _, by rw [State.me_onMe]; exact State.here_onHere s _⟩

theorem State.onCu_onlyCu (s : State) (f : CUnit → CUnit) : s.OnlyCu (s.onCu f) :=
  ⟨State.onHere_onlyCore s _, by simp [State.onCu]⟩

theorem State.onlyCore_refl (s : State) : s.OnlyCore s := ⟨rfl, fun _ _ => rfl⟩
theorem State.onlyEng_refl (s : State) : s.OnlyEng s :=
  ⟨s.onlyCore_refl, by cases h : s.ix.eng <;> simp [State.me, Core.setEng, Core.eng, h]⟩
theorem State.onlyG_refl (s : State) : s.OnlyG s := ⟨s.onlyEng_refl, rfl⟩
theorem State.onlyP_refl (s : State) : s.OnlyP s := ⟨s.onlyEng_refl, rfl⟩
theorem State.onlyC_refl (s : State) : s.OnlyC s := ⟨s.onlyEng_refl, rfl⟩
theorem State.onlyCu_refl (s : State) : s.OnlyCu s := ⟨s.onlyCore_refl, rfl⟩
theorem State.onlyV_refl (s : State) : s.OnlyV s := ⟨s.onlyCu_refl, rfl⟩
theorem State.onlyM_refl (s : State) : s.OnlyM s := ⟨s.onlyCu_refl, rfl⟩

/-! ### Registers -/

theorem State.setG_zero (s : State) (x : GReg) : s.setG 0 x = s := rfl
theorem State.setP_zero (s : State) (x : PReg) : s.setP 0 x = s := rfl
theorem State.setM_zero (s : State) (x : Lane) : s.setM 0 x = s := rfl

theorem State.setG_onlyG (s : State) (d : BitVec 6) (x : GReg) : s.OnlyG (s.setG d x) := by
  unfold State.setG
  split
  · exact s.onlyG_refl
  · exact ⟨s.onMe_onlyEng _, by rw [State.me_onMe]⟩

theorem State.setP_onlyP (s : State) (d : BitVec 3) (x : PReg) : s.OnlyP (s.setP d x) := by
  unfold State.setP
  split
  · exact s.onlyP_refl
  · exact ⟨s.onMe_onlyEng _, by rw [State.me_onMe]⟩

theorem State.setC_onlyC (s : State) (d : BitVec 4) (x : CReg) : s.OnlyC (s.setC d x) :=
  ⟨s.onMe_onlyEng _, by rw [State.setC, State.me_onMe]⟩

theorem State.setV_onlyV (s : State) (d : BitVec 6) (x : VReg) : s.OnlyV (s.setV d x) :=
  ⟨s.onCu_onlyCu _, by simp [State.setV, State.onCu]⟩

theorem State.setM_onlyM (s : State) (d : BitVec 3) (x : Lane) : s.OnlyM (s.setM d x) := by
  unfold State.setM
  split
  · exact s.onlyM_refl
  · exact ⟨s.onCu_onlyCu _, by simp [State.onCu]⟩

/-- A member of a register file after one write. -/
theorem get_set_at {α : Type} {n : Nat} (v : Vector α n) (i : Nat) (hi : i < n) (j : Fin n) (x : α) :
    (v.set i x hi).get j = if j.val = i then x else v.get j := by
  obtain ⟨j, hj⟩ := j
  simp only [Vector.get_eq_getElem, Vector.getElem_set]
  by_cases h : i = j
  · simp [h]
  · simp [h, Ne.symm h]

/-- Registers are the same when their numbers are. -/
theorem toFin_val_eq {w : Nat} (r d : BitVec w) : (r.toFin.val = d.toNat) = (r = d) :=
  propext ⟨fun h => BitVec.eq_of_toNat_eq h, fun h => by rw [h]; rfl⟩

theorem State.g_setG (s : State) (d r : BitVec 6) (x : GReg) : (s.setG d x).g r = if r = d ∧ d ≠ 0 then x else s.g r := by
  by_cases h : d = 0
  · subst h; rw [State.setG_zero, if_neg (fun c => c.2 rfl)]
  · unfold State.g State.setG
    rw [if_neg h, State.me_onMe]
    by_cases hr : r = 0
    · rw [if_pos hr, if_neg (fun c : r = d ∧ d ≠ 0 => h (c.1 ▸ hr)), if_pos hr]
    · rw [if_neg hr, if_neg hr]
      refine (get_set_at _ _ d.isLt _ _).trans ?_
      simp only [toFin_val_eq, ne_eq, h, not_false_eq_true, and_true]

theorem State.p_setP (s : State) (d r : BitVec 3) (x : PReg) : (s.setP d x).p r = if r = d ∧ d ≠ 0 then x else s.p r := by
  by_cases h : d = 0
  · subst h; rw [State.setP_zero, if_neg (fun c => c.2 rfl)]
  · unfold State.p State.setP
    rw [if_neg h, State.me_onMe]
    by_cases hr : r = 0
    · rw [if_pos hr, if_neg (fun c : r = d ∧ d ≠ 0 => h (c.1 ▸ hr)), if_pos hr]
    · rw [if_neg hr, if_neg hr]
      refine (get_set_at _ _ d.isLt _ _).trans ?_
      simp only [toFin_val_eq, ne_eq, h, not_false_eq_true, and_true]

theorem State.c_setC (s : State) (d r : BitVec 4) (x : CReg) : (s.setC d x).c r = if r = d then x else s.c r := by
  unfold State.c State.setC
  rw [State.me_onMe]
  refine (get_set_at _ _ d.isLt _ _).trans ?_
  simp only [toFin_val_eq]

theorem State.cu_onCu (s : State) (f : CUnit → CUnit) : (s.onCu f).here.cu = f s.here.cu := by simp [State.onCu]

theorem State.v_setV (s : State) (d r : BitVec 6) (x : VReg) : (s.setV d x).v r = if r = d then x else s.v r := by
  unfold State.v State.setV
  rw [State.cu_onCu]
  refine (get_set_at _ _ d.isLt _ _).trans ?_
  simp only [toFin_val_eq]

theorem State.m_setM (s : State) (d r : BitVec 3) (x : Lane) : (s.setM d x).m r = if r = d ∧ d ≠ 0 then x else s.m r := by
  by_cases h : d = 0
  · subst h; rw [State.setM_zero, if_neg (fun c => c.2 rfl)]
  · unfold State.m State.setM
    rw [if_neg h, State.cu_onCu]
    by_cases hr : r = 0
    · rw [if_pos hr, if_neg (fun c : r = d ∧ d ≠ 0 => h (c.1 ▸ hr)), if_pos hr]
    · rw [if_neg hr, if_neg hr]
      refine (get_set_at _ _ d.isLt _ _).trans ?_
      simp only [toFin_val_eq, ne_eq, h, not_false_eq_true, and_true]

theorem State.setG_mem (s : State) (d : BitVec 6) (x : GReg) : (s.setG d x).mem = s.mem := by
  unfold State.setG; split <;> rfl
theorem State.setP_mem (s : State) (d : BitVec 3) (x : PReg) : (s.setP d x).mem = s.mem := by
  unfold State.setP; split <;> rfl
theorem State.setM_mem (s : State) (d : BitVec 3) (x : Lane) : (s.setM d x).mem = s.mem := by
  unfold State.setM; split <;> rfl

/-! ### What one register write gives -/

theorem writesG (s : State) (d : BitVec 6) (x : GReg) : WritesG s d x (.next (s.setG d x)) :=
  ⟨_, rfl, fun h => by subst h; rfl, fun r => s.g_setG d r x, s.setG_onlyG d x, fun _ => by rw [State.setG_mem]⟩

theorem writesP (s : State) (d : BitVec 3) (x : PReg) : WritesP s d x (.next (s.setP d x)) :=
  ⟨_, rfl, fun h => by subst h; rfl, fun r => s.p_setP d r x, s.setP_onlyP d x, fun _ => by rw [State.setP_mem]⟩

theorem writesC (s : State) (d : BitVec 4) (x : CReg) : WritesC s d x (.next (s.setC d x)) :=
  ⟨_, rfl, fun r => s.c_setC d r x, s.setC_onlyC d x, fun _ => rfl⟩

theorem writesM (s : State) (d : BitVec 3) (x : Lane) : WritesM s d x (.next (s.setM d x)) :=
  ⟨_, rfl, fun h => by subst h; rfl, fun r => s.m_setM d r x, s.setM_onlyM d x, fun _ => by rw [State.setM_mem]⟩

/-! ### Lanes -/

theorem packLanes_lt (f : Nat → Lane) (n l : Nat) : packLanes f n l < 2 ^ (32 * n) := by
  induction n generalizing l with
  | zero => simp [packLanes]
  | succ n ih =>
    have := ih (l + 1)
    have := (f l).isLt
    rw [packLanes, show 32 * (n + 1) = 32 + 32 * n by omega, Nat.pow_add]
    nlinarith

theorem packLanes_div (f : Nat → Lane) (n l i : Nat) (h : i < n) : packLanes f n l / 2 ^ (32 * i) % 2 ^ 32 = (f (l + i)).toNat := by
  induction n generalizing l i with
  | zero => omega
  | succ n ih =>
    rw [packLanes]
    have hf := (f l).isLt
    cases i with
    | zero => rw [Nat.mul_zero, Nat.pow_zero, Nat.div_one, Nat.add_mul_mod_self_left, Nat.mod_eq_of_lt hf]; rfl
    | succ i =>
      rw [show 32 * (i + 1) = 32 + 32 * i by omega, Nat.pow_add, ← Nat.div_div_eq_div_mul, Nat.add_mul_div_left _ _ (by decide),
        Nat.div_eq_of_lt hf, Nat.zero_add, ih (l + 1) i (by omega)]
      congr 2; omega

theorem packBits_lt (f : Nat → Bool) (n l : Nat) : packBits f n l < 2 ^ n := by
  induction n generalizing l with
  | zero => simp [packBits]
  | succ n ih =>
    have := ih (l + 1)
    rw [packBits, Nat.pow_succ]
    split <;> omega

theorem packBits_testBit (f : Nat → Bool) (n l i : Nat) (h : i < n) : (packBits f n l).testBit i = f (l + i) := by
  induction n generalizing l i with
  | zero => omega
  | succ n ih =>
    rw [packBits]
    cases i with
    | zero =>
      rw [Nat.testBit_zero]
      cases f l <;> simp
    | succ i =>
      rw [Nat.testBit_succ]
      have : ((if f l then 1 else 0) + 2 * packBits f n (l + 1)) / 2 = packBits f n (l + 1) := by
        split <;> omega
      rw [this, ih (l + 1) i (by omega)]
      congr 1; omega

/-- A lane of a register written whole. -/
@[simp] theorem lane_lanesOf (f : Nat → Lane) (p : BitVec 32) (sd : Byte) (l : Nat) (h : l < 32) :
    (⟨lanesOf f, p, sd⟩ : VReg).lane l = f l := by
  apply BitVec.eq_of_toNat_eq
  have hl : packLanes f 32 0 < 2 ^ 1024 := packLanes_lt f 32 0
  rw [VReg.lane, BitVec.extractLsb'_toNat, Nat.shiftRight_eq_div_pow]
  show BitVec.toNat (lanesOf f) / _ % _ = _
  rw [lanesOf, BitVec.toNat_ofNat, Nat.mod_eq_of_lt hl, packLanes_div f 32 0 l h, Nat.zero_add]

/-- A bit of a mask put together lane by lane. -/
@[simp] theorem getLsbD_bitsOf (f : Nat → Bool) (l : Nat) (h : l < 32) : (bitsOf f).getLsbD l = f l := by
  rw [bitsOf, BitVec.getLsbD_ofNat, packBits_testBit f 32 0 l h]
  simp [h]

/-- A register written whole. -/
theorem writesV (s : State) (d : BitVec 6) (f : Nat → Lane) (p : Nat → Bool) (side : Byte) :
    WritesV s d f p side (.next (s.setV d ⟨lanesOf f, bitsOf p, side⟩)) := by
  refine ⟨_, rfl, ?_, ?_, ?_, ?_, s.setV_onlyV d _, fun _ => rfl⟩
  · intro l h; rw [State.v_setV, if_pos rfl, lane_lanesOf _ _ _ _ h]
  · intro l h; rw [State.v_setV, if_pos rfl]; exact getLsbD_bitsOf p l h
  · rw [State.v_setV, if_pos rfl]
  · intro r h; rw [State.v_setV, if_neg h]

/-- A merge form. -/
theorem mergesV (s : State) (d : BitVec 6) (mk : BitVec 3) (f : Nat → Lane) (p : Nat → Bool) (side : Byte) :
    MergesV s d mk f p side (.next (vmerge d mk side f p s)) := writesV s d _ _ side

/-- What a register holds depends only on its 32 lanes' values. -/
theorem WritesV.congr {s : State} {d : BitVec 6} {f g : Nat → Lane} {p q : Nat → Bool} {side : Byte} {o : Out}
    (w : WritesV s d f p side o) (hf : ∀ l, l < 32 → f l = g l) (hp : ∀ l, l < 32 → p l = q l) : WritesV s d g q side o := by
  obtain ⟨t, e, a, b, c⟩ := w
  exact ⟨t, e, fun l h => (a l h).trans (hf l h), fun l h => (b l h).trans (hp l h), c⟩

end Sys2Proof.Machine
end

