-- ==== Sys2Proof/Laws/Checks.lean ====
section
/-! SUPPORT. What the shared checks and outcomes do, said once: operands that are consumed, traps, blocks, capability checks,
addresses of accesses to own memory. -/

namespace Sys2Proof.Machine

/-! ### Outcomes -/

@[simp] theorem settle_done (s t : State) : settle s (.ok t) = .next t := rfl
@[simp] theorem settle_block (s : State) : settle s (.error .block) = .next s.hold := rfl
@[simp] theorem settle_trap (s : State) (t : TrapInfo) : settle s (.error (.trap t)) = .next (s.raise t) := rfl

@[simp] theorem ok_bind {α β : Type} (x : α) (f : α → Chk β) : ((Except.ok x : Chk α) >>= f) = f x := rfl
@[simp] theorem error_bind {α β : Type} (e : Stop) (f : α → Chk β) : ((Except.error e : Chk α) >>= f) = .error e := rfl
@[simp] theorem pure_ok {α : Type} (x : α) : (pure x : Chk α) = .ok x := rfl

theorem trapIf_false {b : Bool} (h : b = false) (c : Byte) (a : Nat) (d : BitVec 256) : trapIf b c a d = .ok () := by rw [h]; rfl
theorem trapIf_true {b : Bool} (h : b = true) (c : Byte) (a : Nat) (d : BitVec 256) : trapIf b c a d = trapWith c a d := by rw [h]; rfl
theorem blockUnless_true {b : Bool} (h : b = true) : blockUnless b = .ok () := by rw [h]; rfl
theorem blockUnless_false {b : Bool} (h : b = false) : blockUnless b = .error .block := by rw [h]; rfl

/-- An instruction that raises a trap takes it. -/
theorem traps_raise (s : State) (t : TrapInfo) : Traps s t.code (.next (s.raise t)) := ⟨s.record t, rfl, rfl, rfl⟩

/-- A check that stops with a trap ends the instruction in it. -/
theorem traps_settle (s : State) (c : Byte) (a : Nat) (d : BitVec 256) : Traps s c (settle s (trapWith c a d)) := ⟨_, rfl, rfl, rfl⟩

theorem traps_settle_bind {α : Type} (s : State) (c : Byte) (a : Nat) (d : BitVec 256) (f : α → Chk State) :
    Traps s c (settle s (trapWith c a d >>= f)) := ⟨_, rfl, rfl, rfl⟩

/-- A blocking condition that does not hold ends the instruction in a block. -/
theorem blocks_settle (s : State) : Blocks s (settle s (.error .block)) := rfl

/-! ### Operands -/

theorem State.gUse_ok {s : State} {r : BitVec 6} (h : (s.g r).psn = false) : s.gUse r = .ok (s.g r).bits := by
  simp only [State.gUse, h]; rfl

theorem State.gUse_poison {s : State} {r : BitVec 6} (h : (s.g r).psn = true) :
    s.gUse r = trapWith 0x31 0 (poisonDetail 0 r.toNat) := by
  simp only [State.gUse, h]; rfl

theorem State.vUse_ok {s : State} {r : BitVec 6} (h : (s.v r).psn = 0) : s.vUse r = .ok (s.v r) := by
  simp [State.vUse, h]

/-! ### What becomes of the issuing core -/

/-- A change of the issuing core alone. -/
theorem becomes_onHere (s : State) (f : Core → Core) : Becomes s (f s.here) (.next (s.onHere f)) :=
  ⟨_, rfl, s.onHere_onlyCore f, s.here_onHere f, fun _ => rfl⟩

/-- A change of the issuing engine alone. -/
theorem becomes_onMe (s : State) (f : Eng → Eng) : Becomes s (s.here.setEng s.ix.eng (f s.me)) (.next (s.onMe f)) :=
  becomes_onHere s _

/-- A change of the C engine's own files alone. -/
theorem becomes_onCu (s : State) (f : CUnit → CUnit) : Becomes s { s.here with cu := f s.here.cu } (.next (s.onCu f)) :=
  becomes_onHere s _

theorem Becomes.congr {s : State} {k k' : Core} {o : Out} (w : Becomes s k o) (h : k = k') : Becomes s k' o := h ▸ w

end Sys2Proof.Machine
end

