-- ==== Sys2Proof/Laws/Flits.lean ====
section
/-! SUPPORT. Little-endian bytes and the number they make; a flit's bytes and their CRC (R279). -/

namespace Sys2Proof.Machine

@[simp] theorem leBytes_length (n v : Nat) : (leBytes n v).length = n := by
  induction n generalizing v with
  | zero => rfl
  | succ n ih => simp [leBytes, ih]

/-- Little-endian bytes make their number again, cut to their length. -/
theorem leNat_leBytes (n v : Nat) : leNat (leBytes n v) = v % 256 ^ n := by
  induction n generalizing v with
  | zero => simp [leBytes, leNat, Nat.mod_one]
  | succ n ih =>
    have h : (BitVec.ofNat 8 v).toNat = v % 256 := rfl
    rw [leBytes, leNat, ih, h, Nat.pow_succ', Nat.mod_mul]

@[simp] theorem Flit.body_length (f : Flit) : f.body.length = 248 := by
  simp [Flit.body]; omega

/-- A flit with the CRC of its bytes is intact (R279). -/
theorem flitIntact_self (bs : List Byte) : flitIntact bs (crc64 bs) = true := by simp [flitIntact]

/-- Zero bytes have a CRC of zero (R279, log entry 93). -/
theorem crc64_zeros (n : Nat) : crc64 (List.replicate n 0) = 0 := by
  have h : crcByte 0 0 = 0 := by decide +kernel
  induction n with
  | zero => rfl
  | succ n ih => rw [crc64, List.replicate_succ, List.foldl_cons, h]; exact ih

end Sys2Proof.Machine
end

