-- ==== Sys2Proof/Tests/Slice0.lean ====
section
/-! SUPPORT. Tests: ill-formed terms that the checks refuse, words of the manual's encodings, single steps with the manual's
results, and for every statement with hypotheses states that meet them (`witness_`). -/

set_option Elab.async false
set_option linter.all false

open Sys2Proof Sys2Proof.Machine

namespace Sys2Proof.Tests

/-! ### Small states -/

/-- After reset, with core 0 of isle 0 as given. -/
def here (k : Core) : State := State.reset.upd (fun h => h.setCore ⟨0, 0⟩ k)

/-- With that core's L engine as given: the issuing engine. -/
def mine (g : Eng) : State := here { ({} : Core) with l := g }

/-- With the C engine issuing, its registers and its own files as given. -/
def inC (g : Eng) (cu : CUnit) : State :=
  { here { ({} : Core) with cE := g, cu := cu } with ix := { ({} : Issue) with eng := .c } }

/-- Every scalar register holds `x`, every capability register `c`. -/
def regs (x : GReg) (c : CReg) : Eng := { ({} : Eng) with g := Vector.replicate 64 x, c := Vector.replicate 16 c }

/-- A poisoned word. -/
def bad : GReg := ⟨0, true⟩

/-- A capability over all of own local memory (space 1) with every permission. -/
def ownMem (cursor : Nat) : CReg := mkCap 1 0xFFF 0 (2 ^ 19) cursor

/-- A capability over global memory (space 3) with every permission. -/
def global (cursor : Nat) : CReg := mkCap 3 0xFFF 0 (2 ^ 30) cursor

/-! ### Ill-formed terms are refused, one for every check -/

theorem test_ill_formed_scalar :
    (Instr.br 6 0 0 0).wf = false ∧ (Instr.pushbq 6 0 0).wf = false ∧ (Instr.cmp 6 1 0 0).wf = false ∧ (Instr.cmpi 15 1 0 0).wf = false
    ∧ (Instr.rep 0 0 0 0 0 0).wf = false ∧ (Instr.defer 61 0 4 0).wf = false ∧ (Instr.defer 0 0 0 0).wf = false
    ∧ (Instr.drain 0 61 0 0).wf = false ∧ (Instr.csrr 0 16).wf = false ∧ (Instr.csrw 0 11).wf = false
    ∧ (Instr.dbar 0).wf = false ∧ (Instr.dbarA 0 6).wf = false ∧ (Instr.dbarW 0 6).wf = false
    ∧ (Instr.bfx 1 1 0 0 0).wf = false ∧ (Instr.bfi 1 1 63 2).wf = false
    ∧ (Insn.mk true true 0 .nop).wf = false := by decide

theorem test_ill_formed_copy :
    (Instr.xput 0 0 0 0 0 0 0 5).wf = false ∧ (Instr.xmove 0 0 0 0 0 0 0 5).wf = false ∧ (Instr.xsct 0 0 0 0 0 0 0 0 0 7).wf = false
    ∧ (Instr.xget2d 0 0 0 0 0 0 0 0 0 0).wf = false ∧ (Instr.xput2d 0 0 0 0 0 0 0 0 0 0 3).wf = false
    ∧ (Instr.xput2d 0 0 0 0 0 0 0 0 0 1 5).wf = false ∧ (Instr.xfill 0 0 0 0 0 0 5).wf = false
    ∧ (Instr.xcasGo 0 0 0 0 0 0 0 0 0 1).wf = false ∧ (Instr.xcasGo 0 0 0 0 0 0 0 0 1 0).wf = false
    ∧ (Instr.xclose 0 0).wf = false ∧ (Instr.xid 0 0 5).wf = false := by decide

theorem test_ill_formed_vector_and_array :
    (Instr.vcmpF32 8 0 0 0 0).wf = false ∧ (Instr.vcmpS32 6 0 0 0 0).wf = false ∧ (Instr.vcmpZ32 6 0 0 0 0).wf = false
    ∧ (Instr.vqmx4 3 3 0 0).wf = false ∧ (Instr.vqmx8 3 3 0 0).wf = false
    ∧ (Instr.lease 0).wf = false ∧ (Instr.lease 65).wf = false ∧ (Instr.tload 0 9 1).wf = false ∧ (Instr.tload 0 1 0).wf = false
    ∧ (Instr.tmma 0 0 0 0 1 0 0).wf = false ∧ (Instr.tmmaGa 0 0 0 1 0 0 0).wf = false ∧ (Instr.tzero 0 0).wf = false
    ∧ (Instr.tshape 0 0 0xFE).wf = false
    ∧ (Instr.rminF32 60 0 0 0 0 1 0).wf = false ∧ (Instr.rmaxF32 0 0 0 0 0 2 0).wf = false ∧ (Instr.rminS32 0 0 0 0 0 0 0).wf = false
    ∧ (Instr.rsortF32 0 0 0 0 0 63 0).wf = false ∧ (Instr.rtopkF32 0 0 0 0 0 65 0).wf = false ∧ (Instr.rmergeF32 0 0 0 63 0 1 0).wf = false
    ∧ (Instr.rknnF32 0 0 0 0 0 0 0).wf = false := by decide

theorem test_ill_formed_barriers_and_streams :
    (Instr.tbinit 0 0 0 0 0).wf = false ∧ (Instr.tbexpect 0 0).wf = false ∧ (Instr.tbarrive 0 0 0 0).wf = false
    ∧ (Instr.tbwait 0 0).wf = false ∧ (Instr.tbtest 0 0 0).wf = false ∧ (Instr.tbretire 0).wf = false ∧ (Instr.sclose 0 3).wf = false := by
  decide

theorem test_ill_formed_events :
    (Instr.taskStart ⟨1, 0⟩).wf = false ∧ (Instr.taskStart ⟨0, 1200⟩).wf = false ∧ (Instr.ituinvAll 676).wf = false
    ∧ (Instr.leaseGrant 0 300).wf = false ∧ (Instr.scrubLine 0 0 .clean).wf = false ∧ (Instr.scrubLine 1 160 .clean).wf = false
    ∧ (Instr.roundApply 1 0 65536 0 0).wf = false ∧ (Instr.sputPublish 1 1024).wf = false ∧ (Instr.frameStart 65536).wf = false
    ∧ (Instr.join 1024).wf = false ∧ (Instr.qcmdMap 4 0).wf = false ∧ (Instr.portUp 128).wf = false ∧ (Instr.rtgenFlip 129 true).wf = false
    ∧ (Instr.unitTrainingComplete (.strait 128)).wf = false ∧ (Instr.unitTrainingComplete (.causeway 0 4)).wf = false
    ∧ (Instr.attestationRequest []).wf = false := by decide

/-! ### Words of the manual's encodings -/

theorem test_decode_add_guarded : decodeWord (0x90284146#32 ++ 0#64) = some ⟨true, true, 2, .add 4 5 6⟩ := by decide

theorem test_decode_xget : decodeWord (0xB0006041#32 ++ 0x4620000000000000#64) = some ⟨true, false, 0, .xget 8 6 1 5 4 2 0⟩ := by decide

theorem test_decode_ldfe_c : decodeWord (0xAC40780D#32 ++ 0x0000000400000000#64) = some ⟨true, false, 0, .ldfeC 7 8 3 4 16⟩ := by decide

theorem test_decode_rep : decodeWord (0x82800000#32 ++ 0x0000000040040100#64) = some ⟨true, false, 0, .rep 4 1 0 1 0 0⟩ := by decide

theorem test_decode_vfma : decodeWord (0xC0C03042#32 ++ 0x0D00000000000000#64) = some ⟨true, false, 0, .vfmaF32 3 1 2 3 2⟩ := by decide

theorem test_decode_tmma : decodeWord (0xE0C0C414#32 ++ 0x0404600000000000#64) = some ⟨true, false, 0, .tmma 3 4 5 1 1 24 0⟩ := by decide

theorem test_decode_tmma_ga : decodeWord (0xE1000817#32 ++ 0xFC207C0000000000#64) = some ⟨true, false, 0, .tmmaGa 0 8 5 0xFF 8 31 0⟩ := by decide

theorem test_decode_rtopk : decodeWord (0xE5C14104#32 ++ 0x1883190000000000#64) = some ⟨true, false, 0, .rtopkF32 20 4 4 6 1 3 25⟩ := by decide

theorem test_decode_rmergd : decodeWord (0xE6C1E78A#32 ++ 0x8008190000000000#64) = some ⟨true, false, 0, .rmergdF32 30 30 10 32 0 8 25⟩ := by decide

theorem test_decode_xfadd : decodeWord (0xB4820C02#32 ++ 0xCA40000003000007#64) = some ⟨true, false, 0, .xfaddS32 3 10 12 8 11 4 0 7⟩ := by decide

theorem test_decode_xcas_go : decodeWord (0xB5820004#32 ++ 0x5200000010180001#64) = some ⟨true, false, 0, .xcasGo 0 18 0 24 8 17 0 0 1 1⟩ := by decide

theorem test_decode_sput : decodeWord (0xF1C07150#32 ++ 0#64) = some ⟨true, false, 0, .sput 7 4 5⟩ := by decide

theorem test_decode_sget : decodeWord (0xF20071A8#32 ++ 0#64) = some ⟨true, false, 0, .sget 7 10 6⟩ := by decide

theorem test_decode_fence_mod : decodeWord (0x86400000#32 ++ 0#64) = some ⟨true, false, 0, .fenceMod⟩ := by decide

theorem test_decode_dbar_a : decodeWord (0x87805000#32 ++ 0x0C00000000000000#64) = some ⟨true, false, 0, .dbarA 5 3⟩ := by decide

theorem test_decode_trap : decodeWord (0x84C001C0#32 ++ 0x000000000A800000#64) = some ⟨true, false, 0, .trap 7 0x2A⟩ := by decide

theorem test_decode_csrr : decodeWord (0x85405000#32 ++ 0x0180000000000000#64) = some ⟨true, false, 0, .csrr 5 6⟩ := by decide

theorem test_decode_vswp_pair : decodeWord (0xD080D300#32 ++ 0x0010000000000000#64) = some ⟨true, false, 0, .vswpPair 13 12 2 0⟩ := by decide

theorem test_decode_barrier : decodeWord (1#1 ++ 0x1C2#9 ++ 0#1 ++ 0#3 ++ 4#6 ++ 3#6 ++ 0#4 ++ 0#8 ++ 0x1005#32 ++ 0#26) =
    some ⟨true, false, 0, .tbarrive 4 3 5 1⟩ := by decide

theorem test_decode_reserved_bit : decodeWord (0x90284146#32 ++ 1#64) = none := by decide

theorem test_decode_scale_too_large : decodeWord (1#1 ++ 0x0A0#9 ++ 0#4 ++ 5#6 ++ 1#4 ++ 2#6 ++ 7#4 ++ 0#62) = some ⟨true, false, 0, .ldS8 5 1 2 7 0⟩
    ∧ decodeWord (1#1 ++ 0x0A0#9 ++ 0#4 ++ 5#6 ++ 1#4 ++ 2#6 ++ 8#4 ++ 0#62) = none := by decide

theorem test_decode_never_guard : decodeWord (0x90204146#32 ++ 0#64) = none := by decide

theorem test_decode_short_bytes : decodeBytes (List.replicate 11 0) = none := by decide

theorem test_encode_add : encode ⟨true, true, 2, .add 4 5 6⟩ = some (0x90284146#32 ++ 0#64) := by decide

/-! ### The manual's worked examples -/

/-- A vector register with these lanes first and zero lanes behind. -/
def lanes (l : List Nat) : VReg := { bits := BitVec.ofNat 1024 (l.foldr (fun x t => x + 2 ^ 32 * t) 0) }

/-- The state of an outcome that goes on. -/
def res (o : Out) : State :=
  match o with
  | .next t => t
  | _ => State.reset

/-- C engine with vector registers v0, v1, … as given. -/
def vecs (l : List VReg) : State :=
  inC {} { ({} : CUnit) with v := Vector.ofFn (fun i : Fin 64 => l.getD i {}) }

/-- R50 names +0 and -0, R45 the conversions to E4M3. -/
theorem test_e4m3 :
    [0x43960000#32, 0x43E60000#32, 0x43EB0000#32, 0x3B83126F#32, 0xBBA3D70A#32, 0x80000000#32].map (fun b => (e4m3Of false (f32Val b), e4m3Of true (f32Val b)))
      = [(0x79#8, 0x79#8), (0x7E#8, 0x7E#8), (0x7E#8, 0x7F#8), (0#8, 0#8), (0x80#8, 0x80#8), (0#8, 0#8)] := by decide +kernel

/-- The example of R46. -/
theorem test_vqmx4 :
    let m := mxBlock 2 e2m1Of ([0x40A00000#32, 0x40266666#32, 0x3E99999A#32, 0xBE99999A#32].map f32Val ++ List.replicate 28 (f32Val 0))
    m.1 = 0x7F#8 ∧ (List.range 4).map m.2 = [6#4, 5#4, 0#4, 8#4] := by decide +kernel

/-- The example of R44. -/
theorem test_bfp :
    let t := res (exec (.vcvtBfpF32 1 0) (vecs [lanes [0x40C00000, 0xBF400000, 0x35C00000, 0x30800000]]))
    (t.v 1).side = 0x81#8 ∧ (List.range 5).map (t.v 1).lane = [0x00600000#32, 0xFFF40000#32, 2#32, 0#32, 0#32] := by decide +kernel

/-- The example of R47. -/
theorem test_ocp4 : ocp4Code 0xA = 0xB8#8 ∧ ocp4Code 0x9 = 0xB0#8 ∧ ocp4Code 0x8 = 0#8 := by decide +kernel

/-- The example of one rounding (R195). -/
theorem test_vfma :
    ((res (exec (.vfmaF32 3 1 1 2 0) (vecs [{}, lanes [0x3F800001], lanes [0xBF800002]]))).v 3).lane 0 = 0x28800000#32
    ∧ ((res (exec (.vmulF32 3 1 1 0) (vecs [{}, lanes [0x3F800001]]))).v 3).lane 0 = 0x3F800002#32 := by decide +kernel

/-- The example of R202: the tree rounds 2^24 + 1 to 2^24 twice. -/
theorem test_vred_add :
    ((res (exec (.vredAddF32 3 1 0) (vecs [{}, lanes ([0x4B800000] ++ List.replicate 15 0 ++ [0x3F800000, 0x3F800000])]))).v 3).lane 31
      = 0x4B800000#32 := by decide +kernel

/-- The example of R210 under P1. -/
theorem test_tile_word :
    maWordF 1 1 1 16 false [0x44, 0x30, 0x2A] [0x40, 0xBC, 0x48] (fun _ => 0) (fun _ => 0) 0x3F800000 = 0x40E80000#32 := by decide +kernel

/-- The example of R238: the block of a top three with ties and signed zeros. -/
theorem test_rtopk :
    let keys := lanes [0x40200000, 0x7FC00000, 0x80000000, 0x40800000, 0x40200000, 0, 0x40800000, 0xBF800000]
    let cu : CUnit := { ({} : CUnit) with
      v := Vector.ofFn (fun i : Fin 64 => if i = 4 then keys else if i = 6 then lanes [100] else {})
      m := Vector.ofFn (fun i : Fin 8 => if i = 1 then 0xFF else 0) }
    let s := (inC {} cu).upd (fun h => h.setArr 0 0 { segs := 15, cores := 15 })
    let r := ((tabFind (res (exec (.rtopkF32 20 4 4 6 1 3 25) s)).here.slots 0).map (·.regs)).getD []
    let x := fun n => r.getD n {}
    (List.range 4).map (x 0).lane = [0x40800000#32, 0x40800000#32, 0x40200000#32, 0x7FC00000#32]
    ∧ (List.range 4).map (x 2).lane = [103#32, 106#32, 100#32, 0xFFFFFFFF#32]
    ∧ (List.range 9).map (x 4).lane = [0x41280000#32, 0x3FC00000#32, 1#32, 0#32, 3#32, 7#32, 1#32, 3#32, 0#32] := by decide +kernel

/-- The example of R86: base 0x4000_0130, exponent 3, mantissa 12,501, cursor and permissions kept. -/
theorem test_cbound :
    let c : CReg := { bits := capBits 3 3 0x40000130 7 8192 0x4000000, tag := true }
    ((res (exec (.cbound 4 3 5) (mine (regs ⟨100001, false⟩ c)))).c 4) = { bits := capBits 3 3 0x40000130 3 12501 0x4000013, tag := true } := by
  decide +kernel

/-- The example of R320: w(0, 0) mod 1,198 is 395. -/
theorem test_placement_word : (philox 0 0 0 0).toNat % 1198 = 395 := by decide +kernel

/-- R187 and R190: division by zero and of the least number by -1. -/
theorem test_division :
    ((res (exec (.divS 1 2 0) (mine (regs ⟨7, false⟩ {})))).g 1) = ⟨0, false⟩
    ∧ ((res (exec (.remS 1 2 0) (mine (regs ⟨7, false⟩ {})))).g 1) = ⟨7, false⟩
    ∧ ((res (exec (.divS 1 2 3) (mine { ({} : Eng) with
        g := Vector.ofFn (fun i : Fin 64 => if i = 2 then ⟨2 ^ 63, false⟩ else ⟨-1, false⟩) }))).g 1) = ⟨2 ^ 63, false⟩ := by decide +kernel

/-- A write to g0 is discarded (R69). -/
theorem test_g0 : (res (exec (.li 0 5) State.reset)).g 0 = ⟨0, false⟩ ∧ (res (exec (.li 1 5) State.reset)).g 1 = ⟨5, false⟩ := by decide +kernel

/-- The trace of R355: SOLVE on a fresh norm, escalation at the second stagnation, exit at the norm 0. -/
theorem test_refine_trace :
    let b := List.replicate 48 0 ++ leBytes 4 0x35800000 ++ leBytes 4 0x3F000000 ++ leBytes 4 0x40000000 ++ leBytes 2 9 ++ leBytes 1 2
    let one := leBytes 4 0x3F800000
    let st := fun (nr stag stale prev : Nat) => leBytes 4 nr ++ one ++ one ++ one ++ leBytes 4 1 ++ [0, BitVec.ofNat 8 stag, 0, BitVec.ofNat 8 stale] ++ leBytes 4 prev ++ [7, 8, 9, 10]
    refineStep b (st 0x3F800000 0 1 0) = (0, .solve) ∧ refineStep b (st 0x3F666666 0 0 0x3F800000) = (1, .solve)
      ∧ refineStep b (st 0x3F59999A 1 0 0x3F666666) = (2, .fact 1) ∧ refineStep b (st 0 0 0 0x3C23D70A) = (0, .exit 0) := by decide +kernel

/-! ### States that meet the hypotheses of the statements, clause by clause -/

/-- One code section of `len` words with a word of code, in an engine that stands in it. -/
def running (w : Nat) (len : Nat) : Eng :=
  { ({} : Eng) with
    pc := 8, pcc := fetchPcc, st := .issuing, code := fetchCode w
    sec := some { hdr := 0, sec := 1, len := len, wx := 0, wy := 0, entered := true } }

/-- L runs `running w`, its act heads the agenda. -/
def atWord (w : Nat) : State :=
  { here { ({} : Core) with l := running w 2, task := some {} } with agenda := [.issue ⟨0, 0⟩ .l] }

theorem witness_DecodeGivesBackEncode :
    (Insn.mk true true 7 (.cmpi 5 7 63 (-1))).wf = true
    ∧ ∃ w, encode ⟨true, true, 7, .cmpi 5 7 63 (-1)⟩ = some w := ⟨by decide, _, rfl⟩

theorem test_every_step_inv_reset : State.reset.Inv := by decide

theorem witness_EveryStepKeepsMemoryCanonical : ∃ s t : State, s.Inv ∧ step s = .next t :=
  ⟨{ State.reset with agenda := [.clock ⟨0, 0⟩] }, _, by decide, rfl⟩

theorem witness_StepRunsTheDecodedInstruction :
    let s := atWord (2 ^ 95)
    let g := s.toHw.core ⟨0, 0⟩ |>.l
    let s1 := { s with agenda := [] }
    let s2 := (s1.upd (fun h => h.onEng ⟨0, 0⟩ .l (fun g => { g with dbarHold := [] }))).issueOf ⟨0, 0⟩ .l [(2 ^ 95, ⟨true, false, 0, .nop⟩)] none 0
    let s3 := { s2 with ix := { s2.ix with word := 2 ^ 95 } }
    s.agenda = .issue ⟨0, 0⟩ .l :: [] ∧ s.toHw.ready ⟨0, 0⟩ .l = true ∧ g.pend = none
      ∧ (∃ x, g.sec = some x ∧ x.entered = true ∧ g.pc.toNat + 12 ≤ x.hdr + 8 + 12 * x.len) ∧ g.xfer = none ∧ g.rep = none
      ∧ g.fetchOk g.pc.toNat 12 = true ∧ (g.word g.pc.toNat).getLsbD 95 = true
      ∧ decodeWord (g.word g.pc.toNat) = some ⟨true, false, 0, .nop⟩ ∧ encodingBad .l false .nop = false
      ∧ usesHeld ((s.toHw.core ⟨0, 0⟩).heldRegs .l) .l 0 .nop = false ∧ (s3.p 0).psn = false ∧ (s3.p 0).bit ≠ false
      ∧ (∃ u, exec .nop s3 = .next u ∧ u.ix.trap = none ∧ u.ix.blocked = false ∧ u.ix.target = none ∧ u.ix.after = []
          ∧ u.robs ⟨0, 0⟩ .l = false ∧ s2.touchesHeld u [⟨true, false, 0, .nop⟩] = false)
      ∧ s3.robs ⟨0, 0⟩ .l = false ∧ s.toHw.frozenExtents ⟨0, 0⟩ .l = [] ∧ s.toHw.incomingExtents ⟨0, 0⟩ .l = [] := by
  refine ⟨?_, ?_, ?_, ⟨_, rfl, rfl, ?_⟩, ?_, ?_, ?_, ?_, ?_, ?_, ?_, ?_, ?_, ⟨_, rfl, ?_, ?_, ?_, ?_, ?_, ?_⟩, ?_, ?_, ?_⟩ <;> decide +kernel

/-- A landing to come of g5 holds an instruction that reads it. -/
theorem witness_StepRunsTheDecodedInstruction_held :
    usesHeld [.g 5] .l 0 (.mov 1 5) = true ∧ (∀ a n, Instr.mov 1 5 ≠ .tbwait a n) ∧ ∀ n, Instr.mov 1 5 ≠ .lease n := by
  refine ⟨by decide, ?_, ?_⟩ <;> simp

/-- The other clauses: a guard that is false, and a word that is no instruction. -/
theorem witness_StepRunsTheDecodedInstruction_guard_and_illegal :
    (let s := atWord (2 ^ 95 + 2 ^ 82)
     s.toHw.ready ⟨0, 0⟩ .l = true ∧ decodeWord ((s.toHw.core ⟨0, 0⟩).l.word 8) = some ⟨true, false, 1, .nop⟩ ∧ (s.p 1).bit = false
       ∧ (s.p 1).psn = false)
    ∧ (let s := atWord (2 ^ 95 + 1)
       s.toHw.ready ⟨0, 0⟩ .l = true ∧ decodeWord ((s.toHw.core ⟨0, 0⟩).l.word 8) = none) := by decide +kernel

theorem witness_StepRunsTheDecodedInstruction_event_and_clock :
    (Instr.tick.wf = true ∧ Instr.tick.opcode? = none)
    ∧ (let kr := (State.reset.toHw.rereads ⟨0, 0⟩).core ⟨0, 0⟩
       kr.stopped = false ∧ kr.frozen = false ∧ kr.landDue = false)
    ∧ (∀ y ∈ (State.reset.toHw.core ⟨0, 0⟩).slots, y.2.kind ≠ .ldn ∧ y.2.kind ≠ .vldn) ∧ (atWord (2 ^ 95)).cellErrs = [] := by decide +kernel

/-- A full trap queue, one with room for a last record, and a group whose instruction traps. -/
theorem witness_TakingATrap :
    (let x := State.reset.toHw.isle 0
     x.tqWait = [] ∧ (x.tqTail - x.tqHead).toNat < 1024)
    ∧ (let x : Isle := { State.reset.toHw.isle 0 with tqTail := 1023 }
       (x.tqTail - x.tqHead).toNat < 1024)
    ∧ (let x : Isle := { State.reset.toHw.isle 0 with tqTail := 1024 }
       1024 ≤ (x.tqTail - x.tqHead).toNat)
    ∧ (let r := fun (u : BitVec 8) => ({ code := 0x41, unit := u, slot := 0, sec := 1, core := 0, pc := 0 } : TrapRec)
       let k : Core := { ({} : Core) with recs := 1 }
       let x : Isle := { State.reset.toHw.isle 0 with tqTail := 1, trapq := [(0, (r 2, ⟨0, 0⟩))] }
       k.recs ≠ 0 ∧ x.tqWait = [] ∧ x.lastOf ⟨0, 0⟩ k.recs = [(0, r 2)] ∧ byUnit (r 1) [r 2] = [r 1, r 2]) := by decide +kernel

theorem witness_TakingATrap_group :
    ∃ u r, runSlots 0 [(0, ⟨true, false, 0, .trap 0 1⟩)] State.reset = .next u ∧ u.ix.trap = some r := ⟨_, _, rfl, rfl⟩

theorem witness_ScalarSelectAndFields :
    (5#4).toNat < 6 ∧ (1 ≤ (1#7).toNat ∧ (63#6).toNat + (1#7).toNat ≤ 64) ∧ (1 ≤ (64#7).toNat ∧ (0#6).toNat + (64#7).toNat ≤ 64) := by decide

/-- v1 poisoned in lane 31 alone, m1 with lane 31 alone. -/
def lastLane : CUnit :=
  { ({} : CUnit) with
    v := Vector.ofFn (fun i : Fin 64 => if i = 1 then { psn := 0x80000000 } else {})
    m := Vector.ofFn (fun i : Fin 8 => if i = 1 then 0x80000000 else 0) }

theorem witness_VectorFunctionResults :
    (1 : Nat) ≠ 0 ∧ (∀ n ∈ [(-127 : Int), 127], -127 ≤ n ∧ n ≤ 127) ∧ (∀ n ∈ [(-74 : Int), 63], -74 ≤ n ∧ n ≤ 63)
    ∧ (∀ n ∈ [(-149 : Int), 127], -149 ≤ n ∧ n ≤ 127)
    ∧ 0x43000000 ≤ (0x43000000#32).toNat ∧ (0x7F800000#32).toNat ≤ 0x7F800000
    ∧ ∀ x ∈ [(1, 1, (-1 : Int)), (1, 2, 0), (8388608, 1, -24), (0, 0, 0)], x.1 * pow2 (x.2.2 + 1) = x.2.1 * pow2 (-(x.2.2 + 1)) := by
  decide +kernel

theorem witness_VectorCompareResults :
    let s := inC {} lastLane
    (∀ l, l < 32 → (s.m 0).getLsbD l → (s.v 2).psn.getLsbD l = false ∧ (s.v 3).psn.getLsbD l = false)
    ∧ (∀ l, l < 32 → (s.m 2).getLsbD l → (s.v 1).psn.getLsbD l = false ∧ (s.v 3).psn.getLsbD l = false)
    ∧ ¬(∀ l, l < 32 → (s.m 1).getLsbD l → (s.v 1).psn.getLsbD l = false ∧ (s.v 3).psn.getLsbD l = false)
    ∧ (7#4).toNat < 8 ∧ (5#4).toNat < 6 := by decide +kernel

theorem witness_VectorQuantiseResults :
    (3#6 : BitVec 6) ≠ 4#6
    ∧ (let A := (vecs [lanes [0x7F800000]]).v 0
       ∃ x ∈ (List.range 32).map (fun l => f32Val (A.lane l)), x = .nan ∨ ∃ neg, x = .inf neg)
    ∧ (let A := (vecs [lanes [0x80000000]]).v 0
       ∀ x ∈ (List.range 32).map (fun l => f32Val (A.lane l)), ∃ neg e, x = .fin neg 0 e) := by
  refine ⟨by decide, ⟨.inf false, by decide +kernel, .inr ⟨false, rfl⟩⟩, fun x hx => ?_⟩
  rcases (by decide +kernel : ∀ x ∈ (List.range 32).map (fun l => f32Val (((vecs [lanes [0x80000000]]).v 0).lane l)),
    x = .fin true 0 (-149) ∨ x = .fin false 0 (-149)) x hx with h | h
  · exact ⟨_, _, h⟩
  · exact ⟨_, _, h⟩

theorem witness_LaneMovementResults : ((mine (regs ⟨5, false⟩ {})).g 1).psn = false ∧ ((mine (regs bad {})).g 63).psn = true := by decide +kernel

theorem witness_ReductionAndScanResults : State.reset.m 1 = 0 := by decide +kernel

theorem witness_ControlTransfers :
    (let s := mine (regs ⟨2 ^ 64 - 1, false⟩ {})
     (s.g 1).psn = false ∧ (s.g 63).psn = false ∧ (5#4).toNat < 6)
    ∧ (let s := mine (regs bad {})
       (s.g 1).psn = true ∧ (s.g 63).psn = true) := by decide +kernel

theorem witness_LoopCounters :
    (let lc := fun (x : Lane) => mine { ({} : Eng) with lc := Vector.replicate 4 x }
     ((lc 0).lcv 3).toNat = 0 ∧ ((lc 1).lcv 3).toNat = 1 ∧ 2 ≤ ((lc 2).lcv 0).toNat ∧ 2 ≤ ((lc 0xFFFFFFFF).lcv 0).toNat)
    ∧ ((mine {}).g 1).psn = false ∧ ((mine (regs bad {})).g 1).psn = true ∧ State.reset.task.loopmode = false
    ∧ (here { ({} : Core) with task := some { loopmode := true } }).task.loopmode = true := by decide +kernel

/-- A task in loop mode over a memory whose first 64 bytes hold a nest record. -/
def nestState (r : Nat) (g : Eng) : State :=
  (here { ({} : Core) with l := g, task := some { loopmode := true } }).upd (fun h => { h with mem := memWriteN (leBytes 64 r) (localKey ⟨0, 0⟩ 0) [] })

/-- NL = 1, order 0 first, bound 4 (R177). -/
def oneLoop : Nat := 1 + 4 * 2 ^ 64

theorem witness_LoopNests :
    (let s := nestState oneLoop (regs {} (ownMem 0))
     s.task.loopmode = true ∧ s.Reaches 1 0 0 0 [1] pLd 64 16 0 ∧ s.Unmarked 0 64
       ∧ nestOk (BitVec.ofNat 512 (s.toHw.num (localKey s.ix.co 0) 64)) = true)
    ∧ (let nest := fun (i : BitVec 16) => inC {} { ({} : CUnit) with nest := { record := BitVec.ofNat 512 oneLoop, idx := Vector.replicate 6 i, active := true } }
       let atBound := fun (s : State) (d : Nat) =>
         let n := s.here.cu.nest
         nestBound n.record (nestOrd n.record d) ≤ (n.idx.toList.getD (nestOrd n.record d) 0).toNat + 1
       nestOk (BitVec.ofNat 512 oneLoop) = true ∧ nestNl (BitVec.ofNat 512 oneLoop) = 1 ∧ ¬atBound (nest 2) 0 ∧ atBound (nest 3) 0)
    ∧ State.reset.here.cu.nest.active = false := by
  unfold State.Reaches State.Unmarked CReg.Allows; decide +kernel

/-- A core whose L engine issues with these queues, the other engines done or not. -/
def queues (n : Nat) (st : EngSt) : State :=
  here { ({} : Core) with
    xq := Vector.replicate 4 (List.replicate n {}), yq := Vector.replicate 4 (List.replicate n {}), bq := List.replicate (4 * n) ⟨true, true, false⟩
    l := { ({} : Eng) with st := st }, cE := { ({} : Eng) with st := st }, s := { ({} : Eng) with st := st } }

theorem witness_QueueTransfers :
    (queues 15 .issuing).herePrior = (queues 15 .issuing).here
    ∧ ((queues 15 .issuing).here.queueOf true 3).length < 16 ∧ 16 ≤ ((queues 16 .issuing).here.queueOf true 0).length
    ∧ (queues 16 .issuing).here.isDone .c = false ∧ (queues 16 .done).here.isDone .c = true ∧ (queues 16 .done).here.isDone .s = true
    ∧ (∃ e rest, (queues 16 .issuing).here.queueOf false 2 = e :: rest ∧ e.parityOk = true ∧ e.fresh = false)
    ∧ (∃ e rest, ({ (queues 1 .issuing).here with yq := Vector.replicate 4 [{ ({} : QEntry) with fresh := true }] } : Core).queueOf false 2 = e :: rest
        ∧ e.fresh = true)
    ∧ (∃ e rest, ({ (queues 1 .issuing).here with yq := Vector.replicate 4 [{ ({} : QEntry) with parityOk := false }] } : Core).queueOf false 2 = e :: rest
        ∧ e.parityOk = false ∧ e.fresh = false)
    ∧ (queues 0 .issuing).here.queueOf false 2 = [] ∧ (queues 0 .issuing).here.isDone .l = false ∧ (queues 0 .done).here.isDone .l = true
    ∧ (queues 15 .issuing).here.bq.length < 64 ∧ 64 ≤ (queues 16 .issuing).here.bq.length ∧ (queues 0 .issuing).here.bq = []
    ∧ (∃ v rest, (queues 1 .issuing).here.bq = v :: rest ∧ v.fresh = false ∧ v.parityOk = true ∧ v.bit ≠ decide ((0 : BitVec 1) = 1)
        ∧ v.bit = decide ((1 : BitVec 1) = 1))
    ∧ (∀ v ∈ [(⟨true, true, true⟩ : BEntry), ⟨true, false, false⟩],
        (here { ({} : Core) with bq := [v] }).here.bq = [v] ∧ (v.fresh = true ∨ v.parityOk = false)) := by
  refine ⟨?_, ?_, ?_, ?_, ?_, ?_, ⟨_, _, rfl, rfl, rfl⟩, ⟨_, _, rfl, rfl⟩, ⟨_, _, rfl, rfl, rfl⟩, ?_, ?_, ?_, ?_, ?_, ?_, ⟨_, _, rfl, ?_⟩, ?_⟩
    <;> decide +kernel

theorem witness_TokenChannels :
    let tok := fun (n : Byte) (st : EngSt) => here { ({} : Core) with
      tok := Vector.replicate 16 n, cE := { ({} : Eng) with st := st }, s := { ({} : Eng) with st := st } }
    (tok 254 .issuing).herePrior = (tok 254 .issuing).here ∧ ((tok 254 .issuing).here.token 15).toNat < 255 ∧ ((tok 255 .issuing).here.token 0).toNat = 255
    ∧ ((tok 1 .issuing).here.tokOthers .l 15 true).toNat < ((tok 1 .issuing).here.token 15).toNat
    ∧ (let k : Core := { (tok 1 .issuing).here with tokLog := [⟨.s, 15, true⟩] }
       (k.token 15).toNat ≤ (k.tokOthers .l 15 true).toNat ∧ k.token 15 ≠ 0)
    ∧ (tok 0 .issuing).here.tokLog = [] ∧ (tok 0 .issuing).here.token 0 = 0
    ∧ (∃ e : EngId, e ≠ (tok 0 .issuing).ix.eng ∧ (tok 0 .issuing).here.isDone e = false)
    ∧ (∀ e : EngId, e ≠ (tok 0 .done).ix.eng → (tok 0 .done).here.isDone e = true) := by
  refine ⟨by decide +kernel, by decide +kernel, by decide +kernel, by decide +kernel, by decide +kernel, by decide +kernel, by decide +kernel,
    ⟨.c, by decide, by decide +kernel⟩, ?_⟩
  intro e he
  cases e <;> first | exact absurd rfl he | decide +kernel

theorem witness_DeferralQueue :
    (List.replicate 224 (⟨0, 0, []⟩ : DqEntry)).length + ((List.range 32).filter (fun l => (State.reset.m 0).getLsbD l)).length ≤ 256
    ∧ 256 < (List.replicate 225 (⟨0, 0, []⟩ : DqEntry)).length + ((List.range 32).filter (fun l => (State.reset.m 0).getLsbD l)).length
    ∧ (60#6).toNat ≤ 60 := by decide +kernel

theorem witness_SpecialRegisters :
    (15#16).toNat = 15 ∧ 15 < (16#16).toNat ∧ (inC {} {}).ix.eng = .c ∧ State.reset.ix.eng ≠ .c ∧ ((mine (regs bad {})).g 1).psn = true
    ∧ (let a : Arr := { segs := 15, cores := 15 }
       a.segs ≠ 0 ∧ a.cal ≠ 4)
    ∧ ({ segs := 0, cores := 15 } : Arr).segs = 0 := by decide +kernel

/-- A copy command of core 0 that is not performed, between own local memory and itself. -/
def pendingCmd : Cmd := { uid := 0, q := .load, op := .get, cs := ownMem 0, cd := ownMem 0, len := 16 }

theorem witness_TrapBreakDoneAndFences :
    State.reset.me.brkPass = false ∧ (mine { ({} : Eng) with brkPass := true }).me.brkPass = true
    ∧ (inC {} {}).here.cu.dq = [] ∧ (inC {} { ({} : CUnit) with dq := [⟨0, 0, []⟩] }).here.cu.dq ≠ []
    ∧ (∀ c ∈ State.reset.herePrior.cmds, c.op = .order ∨ c.op = .close ∨ c.inFence State.reset.ix.co .core = false ∨ c.performed = true)
    ∧ ¬(∀ c ∈ (here { ({} : Core) with cmds := [pendingCmd] }).herePrior.cmds,
        c.op = .order ∨ c.op = .close ∨ c.inFence State.reset.ix.co .core = false ∨ c.performed = true) := by decide +kernel

theorem witness_CapabilityResults :
    (let s := mine (regs ⟨100001, false⟩ (global 0x130))
     let x := s.c 3
     let n := (s.g 5).bits.toNat + x.cursor % 16
     (s.g 5).psn = false ∧ (n + 2 ^ 3 - 1) / 2 ^ 3 ≤ 16383 ∧ (∀ i, i < 3 → 16383 < (n + 2 ^ i - 1) / 2 ^ i)
       ∧ x.tag = true ∧ x.base ≤ x.cursor - x.cursor % 16 ∧ x.cursor - x.cursor % 16 + (n + 2 ^ 3 - 1) / 2 ^ 3 * 2 ^ 3 ≤ x.top)
    ∧ (let s := mine (regs ⟨16, false⟩ (ownMem (2 ^ 19)))
       let x := s.c 3
       x.tag = true ∧ x.top < x.cursor - x.cursor % 16 + ((s.g 5).bits.toNat + 2 ^ 0 - 1) / 2 ^ 0 * 2 ^ 0)
    ∧ (mine (regs ⟨16, false⟩ {})).me.c.get 3 = {} ∧ ((mine (regs bad {})).g 5).psn = true
    ∧ (∀ b, (let f : Foot := { valid := b }
         (here { ({} : Core) with task := some { feet := [f] } }).task.feet[(0 : Nat)]? = some f ∧ f.valid = b))
    ∧ State.reset.task.feet[(7 : Nat)]? = none := by decide +kernel

/-- Reaches at the last place of own local memory, for `n` bytes. -/
theorem reaches_last (n : Nat) (need : BitVec 12) (hn : n ∈ [1, 2, 4, 8, 16, 128]) (hneed : need ∈ [pLd, pSt, pLd ||| pLc, pSt ||| pSc, pLd ||| pSt]) :
    (mine (regs {} (ownMem (2 ^ 19 - n)))).Reaches 1 2 0 0 [1] need n (min n 16) (2 ^ 19 - n) := by
  simp only [List.mem_cons, List.not_mem_nil, or_false] at hn hneed
  unfold State.Reaches CReg.Allows
  rcases hn with rfl | rfl | rfl | rfl | rfl | rfl <;> rcases hneed with rfl | rfl | rfl | rfl | rfl <;> decide +kernel

/-- Barrier 1 of core 0 with its slot at offset 0, over a memory that holds `b`. -/
def barrierState (g : Eng) (b : Slot) : State :=
  (here { ({} : Core) with l := g, tbdir := [(0, (1, 0))] }).upd (fun h => h.putSlot ⟨0, 0⟩ 0 b)

theorem witness_CapabilityMemory :
    (let s := mine (regs {} (ownMem (2 ^ 19 - 16)))
     s.Inv ∧ s.Reaches 1 2 0 0 [1] (pLd ||| pLc) 16 16 (2 ^ 19 - 16) ∧ s.Reaches 1 2 0 0 [1] (pSt ||| pSc) 16 16 (2 ^ 19 - 16)
       ∧ s.Unmarked (2 ^ 19 - 16) 16 ∧ s.NoSlot (2 ^ 19 - 16) 16)
    ∧ (let s := mine (regs {} (ownMem (2 ^ 19 - 17)))
       s.Reaches 1 2 0 0 [1] (pLd ||| pLc) 16 1 (2 ^ 19 - 17) ∧ s.Reaches 1 2 0 0 [1] (pSt ||| pSc) 16 1 (2 ^ 19 - 17) ∧ (2 ^ 19 - 17) % 16 ≠ 0)
    ∧ (let s := barrierState (regs {} (ownMem 0)) { name := 1, owed := [0, 0, 0] }
       s.Reaches 1 2 0 0 [1] (pSt ||| pSc) 16 16 0 ∧ ¬s.NoSlot 0 16) := by
  unfold State.Reaches CReg.Allows State.Unmarked State.NoSlot; decide +kernel

theorem witness_ScalarLoads :
    ∀ n ∈ [1, 2, 4, 8], (mine (regs {} (ownMem (2 ^ 19 - n)))).Reaches 1 2 0 0 [1, 5] pLd n n (2 ^ 19 - n)
      ∧ (mine (regs {} (ownMem (2 ^ 19 - n)))).Unmarked (2 ^ 19 - n) n := by
  unfold State.Reaches CReg.Allows State.Unmarked; decide +kernel

theorem witness_ScalarAndVectorStores :
    ∀ x ∈ [(1, 1), (2, 2), (4, 4), (8, 8), (128, 16)], let s := mine (regs {} (ownMem (2 ^ 19 - x.1)))
      s.Inv ∧ s.Reaches 1 2 0 0 [1] pSt x.1 x.2 (2 ^ 19 - x.1) ∧ s.NoSlot (2 ^ 19 - x.1) x.1 ∧ (s.g 3).psn = false ∧ (s.v 3).psn = 0 := by
  unfold State.Reaches CReg.Allows State.NoSlot; decide +kernel

theorem witness_LocalAccessTraps :
    ((mine (regs bad {})).g 2).psn = true
    ∧ (let s := mine {}
       (s.g 2).psn = false ∧ (s.c 1).tag = false)
    ∧ (let s := mine (regs {} (mkCap 2 0xFFF 0 (2 ^ 19) 0))
       (s.c 1).tag = true ∧ (s.c 1).space ≠ 1)
    ∧ (let s := mine (regs {} (ownMem (2 ^ 19 - 7)))
       (s.c 1).tag = true ∧ (s.c 1).space = 1 ∧ (s.c 1).has (pLd ||| pSt) = true ∧ ((s.c 1).top : Int) < (s.c 1).cursor + 8)
    ∧ ((mine (regs {} (mkCap 1 0 0 (2 ^ 19) 0))).c 1).has pLd = false
    ∧ (let s := mine (regs {} (ownMem 1))
       s.Reaches 1 2 0 0 [1] (pLd ||| pSt) 128 1 1 ∧ 1 % 8 ≠ 0)
    ∧ (let s := inC { regs {} (ownMem 0) with g := Vector.ofFn (fun i : Fin 64 => if i = 3 then bad else {}) } { ({} : CUnit) with v := Vector.replicate 64 { psn := 1 } }
       s.Reaches 1 2 0 0 [1] pSt 128 16 0 ∧ (s.g 3).psn = true ∧ (s.v 3).psn ≠ 0)
    ∧ (let s := barrierState (regs {} (ownMem 0)) { name := 1, owed := [0, 0, 0] }
       s.Reaches 1 2 0 0 [1] pSt 128 16 0 ∧ (s.g 3).psn = false ∧ (s.v 3).psn = 0 ∧ ¬s.NoSlot 0 8 ∧ ¬s.NoSlot 0 128) := by
  unfold State.Reaches CReg.Allows State.NoSlot; decide +kernel

theorem witness_VectorAccesses :
    (let s := mine (regs {} (ownMem (2 ^ 19 - 128)))
     s.Inv ∧ s.Reaches 1 2 0 0 [1] pLd 128 16 (2 ^ 19 - 128) ∧ s.Unmarked (2 ^ 19 - 128) 128 ∧ s.NoSlot (2 ^ 19 - 128) 4)
    ∧ (let s := mine (regs {} (ownMem (2 ^ 19 - 4)))
       s.Reaches 1 2 0 0 [1] pLd 4 4 (2 ^ 19 - 4) ∧ s.Unmarked (2 ^ 19 - 4) 4 ∧ (s.v 2).psn = 0 ∧ ∀ l, l < 32 →
         ((s.c 1).cursor : Int) + 0 + ((s.v 2).lane l).toInt * 2 ^ 0 = ((2 ^ 19 - 4 : Nat) : Int)
         ∧ (s.c 1).Allows [1] (pLd ||| pSt) ((2 ^ 19 - 4 : Nat) : Int) 4 ∧ (2 ^ 19 - 4) % 4 = 0) := by
  unfold State.Reaches CReg.Allows State.Unmarked State.NoSlot; decide +kernel

theorem witness_FullEmptyAccesses :
    let s := fun (full : List Nat) => (mine (regs ⟨8, false⟩ (ownMem (2 ^ 19 - 136)))).upd (fun h => { h with full := full })
    let k := localKey ⟨0, 0⟩ (2 ^ 19 - 128) / 16
    let all := (List.range 8).map (fun j => k + j)
    (s all).Reaches 1 2 0 0 [1, 5] pLd 8 8 (2 ^ 19 - 128) ∧ (s all).Unmarked (2 ^ 19 - 128) 128 ∧ (s all).Reaches 1 2 0 0 [1] pLd 128 16 (2 ^ 19 - 128)
    ∧ (∀ j, j < 8 → setHas (s all).full (k + j) = true) ∧ setHas (s (all.take 7)).full (k + 7) = false ∧ setHas (s []).full k = false
    ∧ ((s []).g 3).psn = false ∧ ((s []).g 3).bits.toNat = 8 ∧ (s []).Reaches 1 2 0 0 [1] pSt (16 * 8) 16 (2 ^ 19 - 128)
    ∧ (s []).NoSlot (2 ^ 19 - 128) (16 * 8) ∧ (s []).Reaches 1 2 0 0 [1] pLd 1 1 (2 ^ 19 - 128) := by
  unfold State.Reaches CReg.Allows State.Unmarked State.NoSlot; decide +kernel

/-- The core's landing slots are all taken. -/
def fullSlots : Tab LSlot := (List.range 32).map (fun i => (i, { kind := .race, eng := .c, dest := 0, due := 9, ord := i }))

theorem witness_NeighbourLoads :
    let s := fun (core o : Nat) => (mine (regs {} (mkCap 2 0xFFF 0 (2 ^ 40) (core * 2 ^ 21 + o)))).upd (fun h => h.setArr 0 0 { segs := 15, cores := 15 })
    let names := fun (core o n : Nat) => ((s core o).g 2).psn = false ∧ core < 2 ^ 11 ∧ o < 2 ^ 21
      ∧ (((s core o).c 1).cursor : Int) + 0 + ((s core o).g 2).bits.toInt * 2 ^ 0 = core * 2 ^ 21 + o
      ∧ ((s core o).c 1).Allows [2] pLd ((core * 2 ^ 21 + o : Nat) : Int) n
    names 3 (2 ^ 19 - 8) 8 ∧ names 3 (2 ^ 19 - 128) 128 ∧ (2 ^ 19 - 8) % 8 = 0 ∧ (2 ^ 19 - 128) % 16 = 0
    ∧ (s 3 0).toHw.coreInService ⟨0, 3⟩ = true ∧ names 4 0 8 ∧ names 4 0 128 ∧ 4 / 4 ≠ 0 / 4
    ∧ (s 3 0).toHw.coreInService ⟨0, 1200⟩ = false
    ∧ (here { ({} : Core) with slots := fullSlots }).here.slots = fullSlots
    ∧ (∀ i, i < 32 → tabFind fullSlots i ≠ none) ∧ tabFind (fullSlots.take 31) 31 = none := by
  unfold CReg.Allows; decide +kernel

theorem witness_TransactionBarriers :
    (let s := mine (regs {} (ownMem (2 ^ 19 - 16)))
     s.Inv ∧ (s.g 2).psn = false ∧ ((s.c 8).cursor : Int) + (s.g 2).bits.toInt = ((2 ^ 19 - 16 : Nat) : Int)
       ∧ (s.c 8).Allows [1] (pLd ||| pSt) ((2 ^ 19 - 16 : Nat) : Int) 16 ∧ (2 ^ 19 - 16) % 16 = 0 ∧ s.here.barrierAt 4095 = none
       ∧ s.NoSlot (2 ^ 19 - 16) 16 ∧ tabFind s.here.tbdir 0 = none)
    ∧ (let s := barrierState (regs {} (ownMem 0)) { name := 1, owed := [0, 0, 0] }
       s.Inv ∧ s.here.barrierAt 1 = some 0 ∧ s.here.barrierAt 2 = none ∧ ¬s.NoSlot 0 16 ∧ (s.toHw.slotAt ⟨0, 0⟩ 0).armed = false
         ∧ (s.toHw.slotAt ⟨0, 0⟩ 0).bank = 0 ∧ (s.toHw.slotAt ⟨0, 0⟩ 0).made = [0, 0, 0] ∧ (s.toHw.slotAt ⟨0, 0⟩ 0).wait = 0)
    ∧ (let b := fun (x : Nat) (y : Slot) => barrierState (regs ⟨BitVec.ofNat 64 x, false⟩ (ownMem 0)) y
       let top := 2 ^ 24 - 1
       let y : Slot := { name := 1, owed := [1, 0, 0], armed := true, quota := top - 1 }
       ((b 1 y).toHw.slotAt ⟨0, 0⟩ 0 = y ∧ y.quota + ((b 1 y).g 2).bits.toNat ≤ top)
       ∧ top < y.quota + ((b 2 y).g 2).bits.toNat
       ∧ (let z : Slot := { name := 1, owed := [1, 0, 0] }
          ((b top z).g 2).bits.toNat ≤ top ∧ top < ((b (top + 1) z).g 2).bits.toNat ∧ (b top z).toHw.slotAt ⟨0, 0⟩ 0 = z
            ∧ z.made.getD 0 0 < z.owed.getD 0 0 ∧ z.bank + (((b top z).g 2).bits.toNat - 0) ≤ top
            ∧ top < z.bank + (((b (top + 1) z).g 2).bits.toNat - 0))
       ∧ (let z : Slot := { name := 1, owed := [1, 0, 0], made := [1, 0, 0], phase := 1 }
          (b 0 z).toHw.slotAt ⟨0, 0⟩ 0 = z ∧ z.made.getD 0 0 = z.owed.getD 0 0 ∧ (z.phase + 2 ^ 16 - 0 % 2 ^ 16) % 2 ^ 16 = 1
            ∧ (z.phase + 2 ^ 16 - 1 % 2 ^ 16) % 2 ^ 16 = 0 ∧ z.made ≠ [0, 0, 0]))
    ∧ (let d : Tab (BitVec 12 × BitVec 15) := (List.range 8).map (fun i => (i, (1#12, 0#15)))
       tabFind d 7 ≠ none ∧ tabFind d 8 = none) := by
  unfold State.NoSlot CReg.Allows; decide +kernel

/-- A directory of 2,048 entries: no name is free. -/
theorem witness_TransactionBarriers_full :
    ∃ d : Tab (BitVec 12 × BitVec 15), ∀ i, i < 2048 → tabFind d i ≠ none := by
  have h : ∀ (l : List Nat) (i : Nat), i ∈ l → tabFind (l.map (fun i => (i, (1#12, 0#15)))) i ≠ none := by
    intro l i hi
    induction l with
    | nil => simp at hi
    | cons j l ih =>
      by_cases e : i = j
      · simp [tabFind, e]
      · simpa [tabFind, e] using ih (by simpa [e] using hi)
  exact ⟨_, fun i hi => h (List.range 2048) i (List.mem_range.mpr hi)⟩

theorem witness_DomainBarriers :
    let s := fun (m : Byte) (b : Option Nat) (g : Eng) (st : EngSt) => here { ({} : Core) with
      l := { g with st := .issuing }, cE := { ({} : Eng) with st := st }, s := { ({} : Eng) with st := st }, task := some { dbarm := m, band := b } }
    (s 0x3C (some 0) {} .done).task.band ≠ none ∧ (∀ l ∈ [2, 3, 4, 5], (s 0x3C (some 0) {} .done).task.dbarm.getLsbD l = true)
    ∧ (s 0 none {} .done).task.dbarm.getLsbD 2 = false ∧ (s 0x3C none {} .done).task.band = none
    ∧ (s 0 none {} .done).me.ea.toList.getD 0 0 = (s 0 none {} .done).here.ph ∧ (s 0 none {} .done).me.st ≠ .done
    ∧ (∀ e, e ≠ EngId.l → ((s 0 none {} .done).here.eng e).st = .done)
    ∧ (∀ e, e ≠ EngId.l → ((s 0 none {} .issuing).here.eng e).st ≠ .done ∧ ((s 0 none {} .issuing).here.eng e).ea.toList.getD 0 0 = 0)
    ∧ (let p := fun (x : Nat) => (s 0 none (regs ⟨BitVec.ofNat 64 x, false⟩ {}) .done).prior.phase ⟨0, 0⟩ {} 1
       ((p 0xFFFF).toNat + 2 ^ 16 - 0xFFFF % 2 ^ 16) % 2 ^ 16 = 1 ∧ ((p 0).toNat + 2 ^ 16 - 0 % 2 ^ 16) % 2 ^ 16 = 0)
    ∧ ((s 0 none (regs bad {}) .done).g 3).psn = true := by
  refine ⟨by decide +kernel, by decide +kernel, by decide +kernel, by decide +kernel, by decide +kernel, by decide +kernel, ?_, ?_, by decide +kernel,
    by decide +kernel⟩ <;> intro e he <;> cases e <;> first | exact absurd rfl he | decide +kernel

/-- Operands of copy commands: every scalar register holds half of local memory, every capability covers it all. -/
def copyState (space : Nat) : State := mine (regs ⟨2 ^ 18, false⟩ (mkCap space 0xFFF 0 (2 ^ 19) 0))

/-- 31 or 32 commands in the load queue, channel 15 bound as given. -/
def loadQueue (n : Nat) (b : Option QSel) : State :=
  here { ({} : Core) with cmds := List.replicate n pendingCmd, bind := Vector.replicate 16 b }

theorem witness_TransferCommands :
    (∀ sp ∈ [1, 2, 3, 6, 7, 8], let s := copyState sp
      s.CanEnter 15 ∧ (s.g 1).psn = false ∧ (s.c 1).Allows [1, 2, 3, 6, 7, 8] pLd ((s.c 1).cursor + (s.g 1).bits.toInt) (s.g 1).bits.toNat
        ∧ (s.c 1).Allows [1, 2, 3, 6, 7, 8] pSt ((s.c 1).cursor + (s.g 1).bits.toInt) (s.g 1).bits.toNat)
    ∧ (copyState 1).c 1 = mkCap 1 0xFFF 0 (2 ^ 19) 0 ∧ ((copyState 2).c 1).space = 2
    ∧ ¬((5 : BitVec 12) = 0 ∨ ((copyState 3).c 1).space = 1 ∨ ((copyState 3).c 1).space = 2)
    ∧ (loadQueue 31 (some .load)).CanEnter 15
    ∧ (loadQueue 1 (some .store)).here.bind.get (15#4).toFin ≠ none
    ∧ (loadQueue 1 (some .store)).here.bind.get (15#4).toFin ≠ some (queueOfEng (loadQueue 1 (some .store)).ix.eng)
    ∧ 32 ≤ ((loadQueue 32 none).here.queued (queueOfEng (loadQueue 32 none).ix.eng)).length := by
  unfold State.CanEnter CReg.Allows; decide +kernel

theorem witness_RowAndListCommands :
    (∀ sp ∈ [1, 2, 3, 6, 7, 8], let s := mine (regs ⟨64, false⟩ (mkCap sp 0xFFF 0 (2 ^ 19) 0))
      let x := s.c 1
      let n := (s.g 1).bits.toNat
      let a : Int := x.cursor + (s.g 1).bits.toInt
      s.CanEnter 0 ∧ (s.g 1).psn = false ∧ x.Allows [1, 2, 3, 6, 7, 8] (pLd ||| pSt) a n
        ∧ x.Allows [1, 2, 3, 6, 7, 8] (pLd ||| pSt) (a + 8190 * (s.g 1).bits.toInt) n
        ∧ x.has (if x.space = 7 then pLd ||| pSt ||| pSy else pLd ||| pSt) = true)
    ∧ (let s := mine (regs ⟨64, false⟩ (ownMem 0))
       (s.c 8).Allows [1] pLd ((s.c 8).cursor + (s.g 1).bits.toNat) (4 * (s.g 1).bits.toNat) ∧ (s.g 1).bits.toNat % 4 = 0
         ∧ (s.c 1).Allows [1] (pLd ||| pSt) ((s.c 1).cursor + (s.g 1).bits.toInt) ((s.g 1).bits.toNat * (s.g 1).bits.toNat)) := by
  unfold State.CanEnter CReg.Allows; decide +kernel

/-- A task whose one footprint covers global memory and carries round tag 7. -/
def tagged : Task := { feet := [{ cap := global 0, mode := 2, rtag := 7, valid := true }], ncont := 1 }

theorem witness_AccumulateCommands :
    (let s := mine (regs ⟨2 ^ 18, false⟩ (ownMem 0))
     s.CanEnter 0 ∧ (s.g 1).psn = false ∧ (s.c 1).Allows [1] (pLd ||| pAc) ((s.c 1).cursor + (s.g 1).bits.toInt) (s.g 1).bits.toNat
       ∧ ((s.c 1).cursor + (s.g 1).bits.toInt) % 8 = 0 ∧ (s.g 1).bits.toNat % 8 = 0)
    ∧ (let s := here { ({} : Core) with l := regs ⟨8, false⟩ (global 0), task := some tagged }
       (s.c 1).Allows [3] pAc ((s.c 1).cursor + (s.g 1).bits.toInt) (s.g 1).bits.toNat
         ∧ (∃ f ∈ s.task.tagged 7, (f.cap.base : Int) ≤ 8 ∧ (8 : Int) + 8 ≤ f.cap.top) ∧ s.task.tagged 8 = []) := by
  unfold State.CanEnter CReg.Allows; decide +kernel

theorem witness_AtomicCommands :
    let g : Eng := { regs ⟨0, false⟩ (ownMem (2 ^ 19 - 16)) with
      c := Vector.ofFn (fun i : Fin 16 => if i = 2 then global 8 else ownMem (2 ^ 19 - 16)) }
    let s := here { ({} : Core) with l := g, task := some tagged }
    s.CanEnter 0 ∧ (s.g 1).psn = false ∧ (s.c 2).Allows [3] (pAr ||| pCl) 8 8 ∧ (s.c 1).Allows [1] pSt ((2 ^ 19 - 16 : Nat) : Int) 16
      ∧ (s.c 1).Allows [1, 2, 3] (pAr ||| pCl) ((2 ^ 19 - 16 : Nat) : Int) 8
      ∧ (∃ f ∈ s.task.tagged 7, (f.cap.base : Int) ≤ 8 ∧ (8 : Int) + 8 ≤ f.cap.top)
      ∧ (1#12).toNat ≤ s.task.ncont ∧ s.task.ncont < (2#12).toNat ∧ s.task.tagged 7 ≠ [] ∧ s.task.tagged 8 = [] := by
  unfold State.CanEnter CReg.Allows; decide +kernel

theorem witness_ChannelStatus :
    let later := fun (a b : BitVec 32) => 1 ≤ (a - b).toNat ∧ (a - b).toNat < 2 ^ 31
    later 2 1 ∧ later 0x80000000 1 ∧ ¬later 1 1 ∧ ¬later 0x80000001 1
    ∧ ((loadQueue 31 none).here.queued (queueOfEng .l)).length < 32 ∧ 32 ≤ ((loadQueue 32 none).here.queued (queueOfEng .l)).length
    ∧ ((mine (regs bad {})).g 1).psn = true
    ∧ (let s := mine (regs ⟨0, false⟩ {})
       let next := s.herePrior.nextid.get (0#4).toFin
       (s.g 1).psn = false ∧ ¬later 0 (next - 1) ∧ later next 0)
    ∧ (let s := mine (regs ⟨1, false⟩ {})
       later 1 (s.herePrior.nextid.get (0#4).toFin - 1)) := by decide +kernel

/-- Core 0's array in service and calibrated, its C engine issuing. -/
def arrState (k : Core) (a : Arr) : State :=
  { here k with ix := { ({} : Issue) with eng := .c } }.upd (fun h => h.setArr 0 0 a)

/-- An array in service, as reset leaves it. -/
def arr0 : Arr := { segs := 15, cores := 15 }

theorem witness_LeasesAndFormats :
    (arr0.segs ≠ 0 ∧ arr0.cal ≠ 4)
    ∧ (let s := arrState {} arr0
       s.here.leaseHeld = false ∧ s.arrHere.leased = false ∧ (s.prior.arr 0 0).waiting = [])
    ∧ (let s := arrState {} { arr0 with leased := true, holder := 3 }
       (s.prior.arr 0 0).leased = true ∧ (s.prior.arr 0 0).holder.toNat ≠ s.ix.co.core % 4)
    ∧ (arrState { ({} : Core) with leaseHeld := true } arr0).here.leaseHeld = true ∧ (arrState {} { arr0 with segs := 0 }).arrHere.segs = 0
    ∧ (let s := arrState { ({} : Core) with task := some { calib := true }, cE := { ({} : Eng) with pcc := { fetchPcc with bits := fetchPcc.bits ||| (BitVec.ofNat 128 (2 ^ 123)) } } } arr0
       s.task.calib = true ∧ s.me.pcc.has pSy = true ∧ (∀ i, i < 4 → (s.toHw.core ⟨0, 4 * (s.ix.co.core / 4) + i⟩).pendingArr = 0))
    ∧ ((arrState { ({} : Core) with slots := fullSlots.take 1 } arr0).toHw.core ⟨0, 4 * (0 / 4) + 0⟩).pendingArr ≠ 0
    ∧ (arrState {} arr0).task.calib = false
    ∧ ((arrState { ({} : Core) with cE := regs bad {} } arr0).g 1).psn = true := by decide +kernel

/-- The tile's format of these witnesses: profile P1 from the instruction. -/
theorem witness_TileCommands :
    let g : Eng := { regs ⟨0, false⟩ (ownMem 0) with
      g := Vector.ofFn (fun i : Fin 64 => if i = 2 then ⟨0x10000, false⟩ else {})
      c := Vector.ofFn (fun i : Fin 16 => if i = 10 then global 0 else ownMem 0) }
    let lb : LoadedB := ⟨0x10000, 0, 64, 1, 0, 0⟩
    let s := arrState { ({} : Core) with cE := g, leaseHeld := true, leaseLeft := 1 } { arr0 with leased := true, holder := 0, loaded := some lb }
    s.arrHere.segs ≠ 0 ∧ s.arrHere.cal ≠ 4 ∧ s.herePrior.leaseHeld = true ∧ s.ix.tiles ≤ s.herePrior.leaseLeft.toNat
    ∧ (s.g 1).psn = false ∧ (s.g 2).psn = false ∧ ∃ f : TileFmt, s.resolve 1 64 64 = .ok f ∧ s.resolve 1 lb.k 128 = .ok f
      ∧ ((s.c 8).cursor + (s.g 2).bits.toInt = 0x10000) ∧ (s.c 8).Allows [1] pLd 0x10000 (extentB f.prof f.scaled) ∧ 0x10000 % 64 = 0
      ∧ (8#4).toNat + (64 + 7) / 8 ≤ 16 ∧ (∀ i, i < 16 → copsStep 0 i ∈ profSteps f.prof)
      ∧ lb.off = (s.g 2).bits.toNat ∧ lb.prof = f.prof ∧ lb.bfmt = f.bfmt ∧ lb.scale = f.scale
      ∧ s.here.pendingArr < 8 ∧ tabFind s.here.slots 0 = none ∧ (s.c 8).Allows [1] pLd 0 (extentA f.prof 64 f.scaled)
      ∧ extentA f.prof 64 f.scaled ≤ 65536 ∧ (s.c 10).Allows [3] pLd 0 (extentA f.prof 64 f.scaled) := by
  refine ⟨by decide +kernel, by decide +kernel, by decide +kernel, by decide +kernel, by decide +kernel, by decide +kernel, { prof := 1 }, ?_⟩
  unfold CReg.Allows; decide +kernel

theorem witness_AccumulatorSlots :
    State.reset.Inv ∧ (15#4).toNat + ((8#8).toNat + 7) / 8 ≤ 16 ∧ 16 < (15#4).toNat + ((9#8).toNat + 7) / 8
    ∧ State.reset.herePrior.tileOn (slotsOf 15 8) = []
    ∧ (inC {} lastLane).herePrior.tileOn [15] = [] ∧ ((inC {} lastLane).m 1).getLsbD 31 = true ∧ ((inC {} lastLane).v 1).psn.getLsbD 31 = true
    ∧ (∀ l, l < 32 → ((inC {} lastLane).m 1).getLsbD l = true → ((inC {} lastLane).v 2).psn.getLsbD l = false)
    ∧ (let j : TileJob := ⟨15, 8, 16, 1, 1, 1, false, 0, 0, 0, none, [], [], none, false⟩
       (arrState { ({} : Core) with slots := [(0, { kind := .tile, eng := .c, dest := 0, due := 9, ord := 0, tile := some j })] } arr0).herePrior.tileOn [15] ≠ [])
    ∧ (let s := arrState { ({} : Core) with cE := regs ⟨64 + 256 * 128, false⟩ {} } arr0
       s.arrHere.segs ≠ 0 ∧ s.arrHere.cal ≠ 4 ∧ (s.g 1).bits.toNat % 256 = 64 ∧ (s.g 1).bits.toNat / 256 % 256 = 128
         ∧ ∃ f : TileFmt, s.resolve 1 64 128 = .ok f) := by
  refine ⟨?_, ?_, ?_, ?_, ?_, ?_, ?_, ?_, ?_, ?_, ?_, ?_, ?_, { prof := 1 }, ?_⟩ <;> decide +kernel

theorem witness_RaceResults :
    (let s := arrState {} arr0
     s.arrHere.segs ≠ 0 ∧ s.arrHere.cal ≠ 4 ∧ s.here.pendingArr < 8 ∧ tabFind s.here.slots 0 = none ∧ 1 ≤ (64#7).toNat ∧ (64#7).toNat ≤ 64)
    ∧ (arrState { ({} : Core) with slots := fullSlots.take 7 } arr0).here.pendingArr < 8
    ∧ 8 ≤ (arrState { ({} : Core) with slots := fullSlots.take 8 } arr0).here.pendingArr
    ∧ (arrState {} { arr0 with segs := 0 }).arrHere.segs = 0 ∧ (arrState {} { arr0 with cal := 4 }).arrHere.cal = 4 := by decide +kernel

/-- L issues with handles of ring 3 of square 1 in every capability register. -/
def streamState (perm : BitVec 12) (eps : List Endpoint) (r : Ring) : State :=
  (here { ({} : Core) with
    l := { regs ⟨16, false⟩ (mkCap 4 perm (2 ^ 32) 1024 (2 ^ 32 + 3)) with
      eps := eps, c := Vector.ofFn (fun i : Fin 16 => if i = 8 then ownMem (2 ^ 19 - 272) else if i = 9 then global 0 else mkCap 4 perm (2 ^ 32) 1024 (2 ^ 32 + 3)) }
    task := some {} }).upd
    (fun h => { h with rings := [(ringKey 1 3, r)] })

/-- A ring of two slots of 256 bytes, open. -/
def ring0 : Ring := { nslot := 2, v := true }

/-- The handle of those statements, for ring 3 of square 1. -/
abbrev Handle (s : State) (need : BitVec 12) : Prop :=
  (s.c 4).cursor = 1 * 2 ^ 32 + 3 ∧ 3 < 1024 ∧ squareOk 1 = true ∧ (s.c 4).tag = true ∧ (s.c 4).space ∈ [4] ∧ (s.c 4).has need = true
    ∧ (s.c 4).base ≤ (s.c 4).cursor ∧ (s.c 4).cursor + 1 ≤ (s.c 4).top

def putSide : Endpoint := ⟨1, 3, true, 1⟩
def getSide : Endpoint := ⟨1, 3, false, 0⟩

theorem witness_StreamsAndWaits_open :
    (let s := streamState (pSp ||| pSg) [putSide, putSide, putSide] ring0
     s.toHw.ring 1 3 = ring0 ∧ Handle s pSp ∧ Handle s pSg ∧ s.me.eps.length < 4 ∧ ring0.v = true ∧ ring0.owner.toNat = s.task.lid)
    ∧ (streamState pSp [] ring0).toHw.sideOpen 1 3 true = false ∧ (streamState pSp [putSide] ring0).toHw.sideOpen 1 3 true = true
    ∧ 4 ≤ (streamState pSp [putSide, putSide, putSide, putSide] ring0).me.eps.length ∧ (streamState pSp [] {}).toHw.ring 1 3 = {} := by decide +kernel

theorem witness_StreamsAndWaits_copy :
    (let s := streamState pSp [putSide] ring0
     s.me.endpoint 1 3 true = some putSide ∧ (∀ y ∈ s.me.eps, y = putSide)
       ∧ ((s.c 8).cursor : Int) + (s.g 5).bits.toInt = ((2 ^ 19 - 256 : Nat) : Int) ∧ (s.c 8).Allows [1] (pLd ||| pSt) ((2 ^ 19 - 256 : Nat) : Int) 256
       ∧ (putSide.res - ring0.getseq).toNat < ring0.nslot.toNat ∧ ring0.nslot.toNat ≤ ((2 : BitVec 32) - ring0.getseq).toNat
       ∧ putSide.res ≠ ring0.putseq ∧ s.NoSlot (2 ^ 19 - 256) 256)
    ∧ (let s := streamState pSg [getSide] { ring0 with putseq := 1 }
       s.me.endpoint 1 3 false = some getSide ∧ (s.toHw.ring 1 3).putseq ≠ (s.toHw.ring 1 3).getseq + BitVec.ofNat 32 0)
    ∧ ring0.putseq = ring0.getseq + BitVec.ofNat 32 0
    ∧ (∀ n ∈ [0, 1], (let e : Endpoint := { putSide with res := ring0.putseq + BitVec.ofNat 32 n }
       let s := streamState (pSp ||| pSg) [e, getSide] ring0
       s.me.endpoint 1 3 true = some e ∧ s.me.endpoint 1 3 false = some getSide
         ∧ ∀ y ∈ s.me.eps, (y.producer = true → y = e) ∧ (y.producer = false → y = getSide)))
    ∧ (let s := streamState pSp [putSide] ring0
       s.me.endpoint 1 3 false = none ∧ (streamState pSp [] ring0).me.endpoint 1 3 true = none) := by
  unfold CReg.Allows State.NoSlot; decide +kernel

theorem witness_StreamsAndWaits_await :
    let s := streamState 0 [] ring0
    (s.g 5).psn = false ∧ (s.c 9).Allows [3] pLd 16 8 ∧ (s.c 9).Allows [3] pLd 20 8 ∧ (20 : Int) % 8 ≠ 0 ∧ s.me.amem = none := by
  unfold CReg.Allows; decide +kernel

/-! ### States for the statements about events -/

/-- A launch 5 of queue 0 on isle 0, in a frame. -/
def launch5 : Launch := { lid := 5, q := 0, isles := [0], st := .frame }

/-- Core 0 as given, launch 5 as given, its isle and first array in service. -/
def world (k : Core) (l : Launch) : State :=
  (here k).upd (fun h => ((h.setLaunch l).setArr 0 0 arr0).setIsle 0 { inService := true, transit := true, ports := 15 })

/-- L stands at the header of `fetchCode`, its section unread. -/
def atHeader (code : List Host.Cell) : Core :=
  { ({} : Core) with l := { ({} : Eng) with pcc := fetchPcc, st := .issuing, code := code }, task := some {} }

/-- An L engine before a section that waits 5 on C. -/
def waiting5 (rsec : BitVec 16) (st : EngSt) : Core :=
  { ({} : Core) with
    l := { ({} : Eng) with st := .blocked, sec := some { hdr := 0, sec := 1, len := 2, wx := 5, wy := 0, entered := false } }
    cE := { ({} : Eng) with rsec := rsec, st := st }, task := some {} }

theorem witness_SectionsAndTasks_sections :
    (let met := fun (p : Eng) (w : BitVec 16) => w = 0 ∨ (p.rsec ≠ 0 ∧ (p.rsec - w).toNat < 2 ^ 15)
     met (waiting5 5 .issuing).cE 5 ∧ met (waiting5 0x8004 .issuing).cE 5 ∧ met (waiting5 5 .issuing).s 0 ∧ ¬met (waiting5 4 .issuing).cE 5
       ∧ ¬met (waiting5 0x8005 .issuing).cE 5 ∧ ¬met (waiting5 4 .done).cE 5 ∧ (waiting5 4 .done).cE.st = .done ∧ (waiting5 4 .issuing).cE.st ≠ .done)
    ∧ (let k := waiting5 5 .issuing
       k.task ≠ none ∧ k.stopped = false ∧ k.frozen = false ∧ k.inTurn .l = true ∧ k.l.st = .blocked ∧ ∃ c, k.l.sec = some c ∧ c.entered = false)
    ∧ (let g := (atHeader (fetchCode 0)).l
       let v := g.headerBits 0
       g.sec = none ∧ g.xfer = none ∧ g.pcc.tag = true ∧ g.pcc.space = 5 ∧ g.pcc.has pEx = true ∧ g.pcc.base ≤ g.pc.toNat
         ∧ g.pc.toNat + 8 ≤ g.pcc.top ∧ v / 2 ^ 60 = 1 ∧ v / 2 ^ 44 % 2 ^ 16 ≠ 0 ∧ v / 2 ^ 32 % 2 ^ 12 ≠ 0 ∧ v / 2 ^ 16 % 2 ^ 16 = 0 ∧ v % 2 ^ 16 = 0)
    ∧ (let v := (atHeader []).l.headerBits 0
       v / 2 ^ 60 ≠ 1 ∧ v / 2 ^ 60 ≠ 2) := by
  refine ⟨by decide +kernel, ⟨by decide +kernel, by decide +kernel, by decide +kernel, by decide +kernel, by decide +kernel, _, rfl, rfl⟩, by decide +kernel, by decide +kernel⟩

/-- All engines of a core done. -/
def allDone (k : Core) : Core := { k with l := { k.l with st := .done }, cE := { k.cE with st := .done }, s := { k.s with st := .done } }

theorem witness_SectionsAndTasks_tasks :
    (let k : Core := { ({} : Core) with queue := [{ ({} : Task) with lid := 5 }], prepFor := some 5 }
     let s := world k launch5
     (s.toHw.core ⟨0, 0⟩).task = none ∧ (s.toHw.core ⟨0, 0⟩).queue = [{ ({} : Task) with lid := 5 }] ∧ s.toHw.launch? 5 = some launch5
       ∧ (s.toHw.core ⟨0, 0⟩).prepFor = some 5)
    ∧ (let k := (world (allDone { ({} : Core) with task := some {} }) launch5).toHw.core ⟨0, 0⟩
       k.task = some {} ∧ k.stopped = false ∧ k.frozen = false ∧ k.l.st = .done ∧ k.cE.st = .done ∧ k.s.st = .done
         ∧ (∀ q ∈ k.xq.toList, q = []) ∧ (∀ q ∈ k.yq.toList, q = []) ∧ k.bq = [])
    ∧ (world (allDone { ({} : Core) with task := some {} }) launch5).toHw.drained ⟨0, 0⟩ = true
    ∧ ((world (allDone { ({} : Core) with task := some {} }) launch5).toHw.atRest.retire ⟨0, 0⟩ {}).stall = false
    ∧ (world (allDone { ({} : Core) with task := some {}, bq := [⟨true, true, false⟩] }) launch5).here.bq ≠ [] := by decide +kernel

/-- Launch 5 with one entry and its one task, at a status. -/
def launchWith (st : TaskSt) (l : Launch) : Launch :=
  { l with
    ents := [{ release := 3, deadline := 9, level := 3, spread := false, tilek := 0, dbarm := 0, domid := 0, niter := 1, starts := [], toks := [], fts := []
               feet := [{ cap := global 0, mode := 2, rtag := 7, valid := true }] }]
    recs := [{ task := 0, iter := 0, co := ⟨0, 0⟩, wave := 0, dbarm := 0, st := st }] }

theorem witness_SectionsAndTasks_release :
    let l := launchWith .waiting launch5
    let s := (world {} l).upd (fun h => { h with tick := 3 })
    s.toHw.launch? 5 = some l ∧ l.ents[(0 : Nat)]? = l.ents.head? ∧ l.st = .frame ∧ l.abort = false ∧ l.start.toNat + 3 ≤ s.tick.toNat
      ∧ (∀ n ∈ l.ents, s.toHw.released l n = true) ∧ l.recs.find? (fun r => r.task == 0 && r.st == .waiting) = l.recs.head?
      ∧ s.toHw.queuedOn 0 < 65536 := by decide +kernel

/-- A landing slot of a kind, due at cycle 9. -/
def slot9 (kind : LandKind) (arrived : Bool) (t : Option TileJob) : LSlot :=
  { kind := kind, eng := .l, dest := 3, due := 9, ord := 0, arrived := arrived, regs := [{}, {}, {}, {}, {}], tile := t }

/-- Core 0 at cycle 9 with that landing. -/
def due9 (x : LSlot) : State := world { ({} : Core) with cyc := 9, slots := [(31, x)] } launch5

theorem witness_LandingsAndArrays_landings :
    (∀ kind ∈ [LandKind.race, .tile, .ldn, .vldn], ((due9 (slot9 kind true none)).toHw.core ⟨0, 0⟩).firstDue = some (31, slot9 kind true none)
        ∧ (slot9 kind true none).ready ((due9 (slot9 kind true none)).toHw.core ⟨0, 0⟩) = true)
    ∧ (slot9 .race false none).ready ((due9 (slot9 .race false none)).toHw.core ⟨0, 0⟩) = false
    ∧ (world { ({} : Core) with cyc := 8, slots := [(31, slot9 .race true none)] } launch5).here.firstDue = none
    ∧ (due9 (slot9 .race true none)).Inv ∧ ({ slot9 .ldn true none with dest := 0 } : LSlot).dest = 0 := by decide +kernel

/-- A neighbour's data in its slot, without marks and with one. -/
theorem witness_LandingsAndArrays_neighbour :
    (slot9 .ldn true none).mark = none ∧ (slot9 .ldn true none).err = none ∧ ({ slot9 .ldn true none with err := some 0 } : LSlot).err = some 0 ∧ ({ slot9 .vldn true none with mark := some 0 } : LSlot).mark = some 0
    ∧ (let k := (here { ({} : Core) with cyc := 9, frozen := true, slots := [(31, slot9 .race true none)] }).here
       k.firstDue = some (31, slot9 .race true none) ∧ k.frozen = true ∧ k.stopped = false) := by decide +kernel

theorem witness_LandingsAndArrays_array :
    (let a : Arr := { arr0 with holder := 3, waiting := [(2, 1), (0, 1)] }
     a.leased = false ∧ (∃ w ∈ a.waiting, w.1 = 0) ∧ ∀ w ∈ a.waiting, w.1 < 4 → (0 + 3 - a.holder.toNat) % 4 ≤ (w.1 + 3 - a.holder.toNat) % 4)
    ∧ (let t : TileJob := ⟨0, 1, 16, 1, 0, 0, false, 0, 0x10000, 0, none, [], [], none, false⟩
       let x := slot9 .tile false (some t)
       let s := due9 x
       tabFind (s.toHw.core ⟨0, 0⟩).slots 31 = some x ∧ x.tile = some t ∧ t.halted = false ∧ (s.toHw.core ⟨0, 0⟩).tileBefore x = false
         ∧ s.toHw.tileHalted ⟨0, 0⟩ = false ∧ (s.toHw.arr 0 0).cal ≠ 2 ∧ t.globalA = none ∧ s.toHw.markOff ⟨0, 0⟩ 0 (extentA 1 1 false) = none
         ∧ s.toHw.markOff ⟨0, 0⟩ 0x10000 (extentB 1 false) = none)
    ∧ (let s := world {} launch5
       s.toHw.isleHeld 0 = true ∧ (1759 : Int) < s.cfg.tshut ∧ (BitVec.ofInt 16 1759).toInt = 1759
         ∧ s.cfg.twarn ≤ (1520 : Int) ∧ (1520 : Int) < s.cfg.tshut ∧ (1471 : Int) < s.cfg.twarn - 48 ∧ s.cfg.twarn - 48 ≤ (1472 : Int) ∧ (1519 : Int) < s.cfg.twarn)
    ∧ (let s := world {} launch5
       let a : Arr := { arr0 with margin := 0xFFFF }
       s.cfg.mthresh ≤ a.margin.toNat ∧ s.cfg.tdrift ≤ (({ arr0 with temp := 2000 } : Arr).temp.toInt - arr0.tlcal.toInt).natAbs
         ∧ arr0.margin.toNat < s.cfg.mthresh ∧ (arr0.temp.toInt - arr0.tlcal.toInt).natAbs < s.cfg.tdrift)
    ∧ (∃ (pos mask : Nat) (d : BitVec 6), ({ arr0 with calib := some (0, 15, 3) } : Arr).calib = some (pos, mask, d))
    ∧ (∃ t ∈ segTrims (List.replicate 128 1024) 3, 1023 < t) ∧ ¬(∃ t ∈ segTrims (List.replicate 128 1023) 3, 1023 < t) := by
  refine ⟨by decide +kernel, by decide +kernel, by decide +kernel, by decide +kernel, ⟨_, _, _, rfl⟩, by decide +kernel, by decide +kernel⟩

/-- A command of the load queue with ID 1. -/
def cmd (op : XOp) (f : Cmd → Cmd) : Cmd := f { uid := 0, q := .load, op := op, cs := ownMem 0, cd := ownMem 0, sa := 2 ^ 19 - 64, da := 2 ^ 19 - 64, len := 64 }

/-- Core 0 with these commands. -/
def withCmds (cs : List Cmd) : State := world { ({} : Core) with cmds := cs } launch5

theorem witness_CopyEngineSteps_start :
    (let head := fun (c : Cmd) => let k := (withCmds [c]).toHw.core ⟨0, 0⟩
       (k.queued .load).head? = some c ∧ k.halted .load = false ∧ (k.cmds.filter (fun c => c.q == .load && c.started && !c.performed)).length < 16
         ∧ (withCmds [c]).toHw.streamsBefore ⟨0, 0⟩ c = false
     head (cmd .close id) ∧ head (cmd .get id) ∧ head (cmd .get (fun c => { c with len := 0 })) ∧ head (cmd .gat (fun c => { c with rows := 1 }))
       ∧ head (cmd .order id))
    ∧ (cmd .get (fun c => { c with len := 0 })).total = 0 ∧ (cmd .get id).total ≠ 0
    ∧ (let c := cmd .gat (fun c => { c with rows := 1, lst := 2 ^ 19 - 4 })
       c.total ≠ 0 ∧ c.lst + 4 * c.rows ≤ 2 ^ 19 ∧ (withCmds [c]).toHw.listBehind ⟨0, 0⟩ c = false)
    ∧ (let c := cmd .order (fun c => { c with head := true, waitFor := [7] })
       ∀ x ∈ ((withCmds [c]).toHw.core ⟨0, 0⟩).cmds, x.uid ∈ c.waitFor → x.performed = true) := by decide +kernel

theorem witness_CopyEngineSteps_run :
    (let c := cmd .get (fun c => { c with started := true })
     let s := withCmds [c]
     s.toHw.cmd? ⟨0, 0⟩ 0 = some c ∧ c.uid = 0 ∧ c.performed = false ∧ c.fault = none ∧ c.piece = .idle ∧ c.op.streamed = true ∧ c.mustRead = true
       ∧ c.cs.space = 1 ∧ 0 ≤ c.nextRead.addr ∧ c.nextRead.addr.toNat + c.nextRead.n ≤ 2 ^ 19
       ∧ s.toHw.behind ⟨0, 0⟩ c (s.toHw.spanPlaces ⟨0, 0⟩ c.task c.cs [c.nextRead]) false = false
       ∧ c.elementBad = none ∧ s.toHw.cellErrIn [(localKey ⟨0, 0⟩ c.nextRead.addr.toNat, c.nextRead.n)] = none)
    ∧ (let c := cmd .get (fun c => { c with started := true, buf := List.replicate 64 (1, false) })
       let s := withCmds [c]
       s.Inv ∧ s.toHw.cmd? ⟨0, 0⟩ 0 = some c ∧ c.mustRead = false ∧ c.at_ = 0 ∧ c.cd.space = 1 ∧ c.tb = 0 ∧ 0 ≤ c.nextWrite.addr
         ∧ c.nextWrite.addr.toNat + c.nextWrite.n ≤ 2 ^ 19
         ∧ s.toHw.behind ⟨0, 0⟩ c (s.toHw.spanPlaces ⟨0, 0⟩ c.task c.cd [c.nextWrite]) true = false
         ∧ (s.toHw.core ⟨0, 0⟩).barrierIn c.nextWrite.addr.toNat c.nextWrite.n = none
         ∧ s.toHw.cellErrIn [(localKey ⟨0, 0⟩ c.nextWrite.addr.toNat, c.nextWrite.n)] = none)
    ∧ (let c := cmd .put (fun c => { c with cd := global 0, started := true, performed := true })
       (withCmds [c]).toHw.cmd? ⟨0, 0⟩ 0 = some c ∧ c.outbound = true ∧ c.fault = none) := by decide +kernel

/-- Page tables in square 1: the root at 2^36 leads to a table at 2^36 + 4096, whose first entry is a 1 GiB leaf with W at 2^36 + 2^30. -/
def tables : List Host.Cell :=
  memWriteN (leBytes 8 (2 ^ 36 + 2 ^ 30 + 7)) (2 ^ 36 + 4096) (memWriteN (leBytes 8 (2 ^ 36 + 4096 + 1)) (2 ^ 36) [])

/-- That world with core 0, launch 5 and the isle's context 0 on the tables; the slices of square 1 that are homes of the
tables', of the page's first bytes and of queue records admit every master. -/
def paged (k : Core) (l : Launch) (x : Isle → Isle) : State :=
  (world k l).upd (fun h => { h.onIsle 0 (fun i => x { i with ctx := [(0, { root := 2 ^ 36, en := true })] }) with
    mem := tables
    slices := [0, 16, 31, 32, 96, 97, 98, 104, 112].map (fun n => (sliceKey 1 n, { ({} : Slice) with acc := { entries := [(0, 0xffffffff000000000000000000207f01#128)] } })) })

/-- A walk's answer is a leaf, or stops with a code. -/
def answers (a : WalkAns × Hw) (leaf : Option Leaf) (code : Byte) : Bool :=
  match a.1 with
  | .leaf l => leaf == some l
  | .stop c _ => leaf.isNone && c == code
  | .away => false

theorem witness_TranslationUnit :
    (let c := cmd .put (fun c => { c with piece := .walking })
     let w0 : Walk := { ctx := 0, va := 0, who := [.cmd ⟨0, 0⟩ 0 true] }
     let w1 : Walk := { ctx := 0, va := 2 ^ 14, who := [.cmd ⟨0, 0⟩ 0 true] }
     let s := paged { ({} : Core) with cmds := [c] } launch5 (fun i => { i with walks := [(0, w0), (63, w1)] })
     let asked := fun (n : Nat) (w : Walk) =>
       let h := w.who.foldl Hw.walkDone (s.toHw.atRest.onIsle 0 (fun x => { x with walks := tabDel n x.walks }))
       h.walkAnswer { src := 0, pkey := h.keyOf 0 w.ctx } ((s.toHw.isle 0).context w.ctx) (w.va * 65536)
     tabFind (s.toHw.isle 0).walks 0 = some w0 ∧ answers (asked 0 w0) (some { pa := 2 ^ 36 + 2 ^ 30, size := 2 ^ 30, w := true, cow := false }) 0 = true
     ∧ tabFind (s.toHw.isle 0).walks 63 = some w1 ∧ answers (asked 63 w1) none 0x20 = true ∧ s.toHw.cmd? ⟨0, 0⟩ 0 = some c
     ∧ ((s.toHw.isle 0).context 1).en = false)
    ∧ (let s := paged {} launch5 (fun i => { i with invs := [⟨0, 15, 0xFFFFFFFF⟩] })
       (∃ v rest, (s.toHw.isle 0).invs = v :: rest) ∧ s.toHw.inFlight 0 (fun _ _ _ => true) = false)
    ∧ (let s := paged {} launch5 id
       let m : Master := { src := 0 }
       answers (s.toHw.walkAnswer m ((s.toHw.isle 0).context 0) 0) (some { pa := 2 ^ 36 + 2 ^ 30, size := 2 ^ 30, w := true, cow := false }) 0 = true
         ∧ s.toHw.walkRoot (2 ^ 36) (2 ^ 30) = .fault 1 0)
    ∧ (let w : Walk := { ctx := 0, va := 0, who := [.cmd ⟨0, 0⟩ 0 true] }
       let s := paged {} launch5 (fun i => { i with ports := 0, walks := [(0, w)] })
       let h := w.who.foldl Hw.walkDone (s.toHw.atRest.onIsle 0 (fun x => { x with walks := tabDel 0 x.walks }))
       tabFind (s.toHw.isle 0).walks 0 = some w ∧ (match (h.walkAnswer { src := 0, pkey := h.keyOf 0 w.ctx } ((s.toHw.isle 0).context 0) 0).1 with
         | .away => true
         | _ => false) = true) := by
  refine ⟨by decide +kernel, ⟨⟨_, _, rfl⟩, by decide +kernel⟩, by decide +kernel, by decide +kernel⟩

/-- A check that passes with a value that meets a test. -/
def passes {ε α : Type} (x : Except ε α) (p : α → Bool) : Bool :=
  match x with
  | .ok a => p a
  | .error _ => false

theorem passes_ok {ε α : Type} {x : Except ε α} {p : α → Bool} (h : passes x p = true) : ∃ a, x = .ok a ∧ p a = true := by
  cases x with
  | ok a => exact ⟨a, rfl, h⟩
  | error e => exact nomatch h

/-- A check that fails with an error that meets a test. -/
def fails {ε α : Type} (x : Except ε α) (p : ε → Bool) : Bool :=
  match x with
  | .ok _ => false
  | .error e => p e

/-- The timetable of one frame of one entry, at virtual address 0: header, frame record, entry (R307-R310). -/
def timetable : List Byte :=
  leBytes 4 1 ++ leBytes 4 1 ++ leBytes 8 64 ++ List.replicate 48 0 ++ (leBytes 8 128 ++ leBytes 2 1 ++ leBytes 2 0xFFFF ++ leBytes 4 1000)
    ++ List.replicate 48 0 ++ (List.replicate 8 0 ++ leBytes 8 3 ++ leBytes 4 1 ++ leBytes 4 (2 ^ 31) ++ leBytes 4 0 ++ leBytes 4 (2 ^ 31))

/-- The isle's 300 arrays in service with one core each; the timetable in memory. -/
def oneIsle (l : Launch) : State :=
  (paged {} l id).upd (fun h => { h with
    arrs := (List.range 300).map (fun i => (arrKey 0 i, { arr0 with cores := 1 })), mem := memWriteN timetable (2 ^ 36 + 2 ^ 30) h.mem })

theorem witness_SliceSteps_requests :
    (let c := cmd .get (fun c => { c with cs := global 0, started := true, piece := .reading 64 })
     let r : SliceReq := { who := .cmd ⟨0, 0⟩ 0, write := false, pa := 2 ^ 36, len := 64 }
     let s := (withCmds [c]).upd (fun h => h.onSlice 1 0 (fun x => { x with reqs := [{ r with pa := 2 ^ 36 + 64 }, r] }))
     s.Inv ∧ (s.toHw.slice 1 0).reqs[1]? = some r ∧ (∀ q ∈ (s.toHw.slice 1 0).reqs.take 1, q.pa / 64 ≠ r.pa / 64) ∧ s.toHw.cmd? ⟨0, 0⟩ 0 = some c
       ∧ (s.toHw.lineOf r.pa).bad = false ∧ tabFind s.errs (r.pa / 64) = none ∧ ((s.upd (fun h => h.onLine r.pa (fun m => { m with bad := true }))).toHw.lineOf r.pa).bad = true)
    ∧ (cmd .put (fun c => { c with cd := global 0 })).cd.space = 3 := by decide +kernel

theorem witness_SliceSteps_scrub_and_rows :
    nextScrub 0 0 = some 0 ∧ (nextScrub 0 1).isNone = false ∧ (State.reset.toHw.slice 1 0).interval ≠ 0
    ∧ nextScrub 42 (2 ^ 28 - 1) = some (2 ^ 28 - 1) ∧ (nextScrub 42 (2 ^ 28)).isNone = true
    ∧ (0 : BitVec 64).toNat % 2 ^ 20 = 0 ∧ ({ leakAt := 5 } : Slice).leakAt ≠ 0 ∧ State.reset.errs = []
    ∧ (let x : Slice := { spareWait := [(5, 0x1A2C)] }
       x.wantsSpare 5 0x1A2C = true ∧ x.copying = none ∧ (tabGet ({} : Remap) x.remap 0).state = 0)
    ∧ (let x : Slice := { spareWait := [(5, 6)], remap := (List.range 64).map (fun i => (i, { state := 2 })) }
       x.wantsSpare 5 6 = true ∧ ∀ i, i < 64 → (tabGet ({} : Remap) x.remap i).state ≠ 0)
    ∧ (let lines := (List.range 4).flatMap (fun _ => List.range 4)
       14 + 1 < lines.length ∧ lines.length ≤ 15 + 1) := by decide +kernel

/-- A slice has a row of sixteen lines. -/
theorem witness_SliceSteps_row : ∃ r, (rowLines 1 0 r).length = 16 := by
  generalize hk : Config.rowKey 1 0 = k
  refine ⟨(k.extractLsb' 18 6, k.extractLsb' 0 18), ?_⟩
  have e : (k.extractLsb' 18 6 ++ k.extractLsb' 0 18) ^^^ k = 0#24 := by
    rw [show k.extractLsb' 18 6 ++ k.extractLsb' 0 18 = k from ?_, BitVec.xor_self]
    apply BitVec.eq_of_getLsbD_eq
    intro i hi
    rw [BitVec.getLsbD_append]
    by_cases h : i < 18
    · simp [h]
    · simp [h, show i - 18 < 6 by omega, Nat.add_sub_cancel' (Nat.le_of_not_lt h)]
  simp only [rowLines]
  rw [hk, e]
  decide +kernel

theorem witness_AppliedOperations_elements :
    (let c := cmd .fadd64 (fun c => { c with started := true, released := true, len := 8 })
     let s := withCmds [c]
     let a : Span := ⟨c.dst c.elem, c.size⟩
     s.Inv ∧ s.toHw.cmd? ⟨0, 0⟩ 0 = some c ∧ c.performed = false ∧ c.fault = none ∧ c.piece = .idle ∧ c.op.atPort = true
       ∧ s.toHw.behind ⟨0, 0⟩ c (s.toHw.spanPlaces ⟨0, 0⟩ c.task c.cd [a]) true = false
       ∧ s.toHw.behind ⟨0, 0⟩ c (s.toHw.spanPlaces ⟨0, 0⟩ c.task c.cs c.accSrc) false = false ∧ (∀ x ∈ c.accSrc, x.addr + x.n ≤ 2 ^ 19)
       ∧ c.rt = 0 ∧ (s.toHw.reachOf ⟨0, 0⟩ c.task c.cdi c.cd a.addr a.n c.op.tableOp true).1 = .key (localKey ⟨0, 0⟩ (2 ^ 19 - 64))
       ∧ (s.toHw.reachOf ⟨0, 0⟩ c.task c.cdi c.cd a.addr a.n c.op.tableOp true).2 = s.toHw
       ∧ s.toHw.cellErrIn [(localKey ⟨0, 0⟩ (2 ^ 19 - 64), a.n)] = none
       ∧ (s.toHw.core (landCore ⟨0, 0⟩ c.cd.space a.addr)).barrierIn (landOff c.cd.space a.addr) a.n = none)
    ∧ (let c := cmd .fadd64 (fun c => { c with started := true, released := true, len := 8, cd := global 0, da := 8, rt := 7 })
       let s := paged { ({} : Core) with cmds := [c] } launch5 (fun i => { i with
         tlb := [{ ctx := 0, va := 0, size := 2 ^ 30, pa := 2 ^ 36 + 2 ^ 30, w := true, cow := false }] })
       (s.toHw.reachOf ⟨0, 0⟩ c.task c.cdi c.cd (c.dst c.elem) c.size c.op.tableOp true).1 = .line (2 ^ 36 + 2 ^ 30 + 8)
         ∧ (s.toHw.reachOf ⟨0, 0⟩ c.task c.cdi c.cd (c.dst c.elem) c.size c.op.tableOp true).2 = s.toHw
         ∧ (s.toHw.lineOf (2 ^ 36 + 2 ^ 30 + 8)).bad = false ∧ (s.toHw.home (2 ^ 36 + 2 ^ 30 + 8)).reqs = [] ∧ s.errs = []
         ∧ (s.toHw.core ⟨0, 0⟩).fatal = false)
    ∧ (let c := cmd .fadd64 (fun c => { c with landing := some 1 })
       let s := withCmds [c]
       s.Inv ∧ s.toHw.cmd? ⟨0, 0⟩ 0 = some c ∧ 0 ≤ c.sa ∧ c.sa.toNat + 16 ≤ 2 ^ 19 ∧ (s.toHw.core ⟨0, 0⟩).barrierIn c.sa.toNat 16 = none ∧ c.tb = 0
         ∧ s.toHw.behind ⟨0, 0⟩ c [(localKey ⟨0, 0⟩ c.sa.toNat, 16)] true = false) := by
  decide +kernel

/-- A round request of task 0 of launch 5 on tag 7. -/
def round7 : RoundReq := { site := 1, slice := 0, lid := 5, wave := 0, tag := 7, k := 1, task := 0, iter := 0, eng := .l, seq := 0, j := 0, op := .fadd64, pa := 2 ^ 36, va := 0, v := 1, w := 0, name := 0, co := ⟨0, 0⟩, uid := 0, frame := 0 }

theorem witness_AppliedOperations_rounds :
    (let l := launchWith .retired launch5
     let s := world {} l
     s.toHw.launch? 5 = some l ∧ l.recs.find? (fun t => t.task == 0 && t.iter == 0 && t.wave == 0) = l.recs.head? ∧ (∀ t ∈ l.recs, t.st = .retired)
       ∧ (s.toHw.core ⟨0, 0⟩).cmds = [] ∧ s.closed = [] ∧ s.toHw.linked 0 1 = true)
    ∧ (let l := launchWith .running launch5
       let y := cmd .close (fun c => { c with started := true, rt := 7, round := 1, task := { ({} : Task) with lid := 5 } })
       let s := world { ({} : Core) with task := some { ({} : Task) with lid := 5 }, cmds := [y] } l
       let own := (s.toHw.core ⟨0, 0⟩).cmds.filter (fun c => c.rt == 7 && engOfQueue c.q == .l && c.task.task == 0 && c.task.iter == 0 && c.task.lid == 5)
       (s.toHw.core ⟨0, 0⟩).task ≠ none ∧ (s.toHw.core ⟨0, 0⟩).fatal = false ∧ (s.toHw.core ⟨0, 0⟩).l.st ≠ .done ∧ own.find? (fun c => c.op == .close && c.round == 1) = some y
         ∧ y.started = true ∧ y.fault = none ∧ ∀ z ∈ own, z.op ≠ .close → z.uid < y.uid → z.performed = true)
    ∧ (let l := launchWith .retired launch5
       let s := (world {} l).upd (fun h => { h with
         rounds := [round7], closed := [⟨1, 0, 5, ⟨0, 7, 0, 0, .l⟩, 0, true⟩, ⟨1, 0, 5, ⟨0, 7, 0, 0, .s⟩, 0, true⟩] })
       s.Inv ∧ s.toHw.launch? 5 = some l ∧ round7 ∈ s.rounds ∧ s.toHw.hasClosed 1 0 5 round7.part 1 = true ∧ round7.op ≠ .casGo
         ∧ (l.roundParts 0 7).length = 2 ∧ (∀ p ∈ l.roundParts 0 7, s.toHw.hasClosed 1 0 5 p 1 = true)
         ∧ (∀ y ∈ s.rounds, y = round7) ∧ (s.toHw.slice 1 0).reqs = [] ∧ (s.toHw.lineOf round7.pa).bad = false ∧ s.errs = [])
    ∧ (let l := launchWith .running launch5
       let s := world { ({} : Core) with task := some { ({} : Task) with lid := 5 }, fatal := true } l
       s.toHw.launch? 5 = some l ∧ l.recs.map (·.st) = [.running] ∧ (s.toHw.core ⟨0, 0⟩).task ≠ none ∧ (s.toHw.core ⟨0, 0⟩).fatal = true
         ∧ s.closed = []) := by decide +kernel

theorem witness_MonitorsAndStreamCopies_monitors :
    let m : AMem := { d := 3, va := 8, expected := 0 }
    let s := fun (m : AMem) => paged { ({} : Core) with l := { ({} : Eng) with amem := some m }, task := some { ({} : Task) with lid := 5 } } launch5 (fun i => { i with
      tlb := [{ ctx := 0, va := 0, size := 2 ^ 30, pa := 2 ^ 36 + 2 ^ 30, w := true, cow := false }] })
    (s m).toHw.xlate 0 0 8 false = .hit (2 ^ 36 + 2 ^ 30 + 8) ∧ paTarget (2 ^ 36 + 2 ^ 30 + 8) = .line
    ∧ (let h := (s m).toHw.onAmem ⟨0, 0⟩ .l (fun m => { m with page := (s { m with va := 8 }).toHw.pageOf 0 0 8 })
       (h.sliceCheck (2 ^ 36 + 2 ^ 30 + 8) { src := 0 } opRead false).1 = .line (2 ^ 36 + 2 ^ 30 + 8)
         ∧ (h.sliceCheck (2 ^ 36 + 2 ^ 30 + 8) { src := 0 } opRead false).2 = h)
    ∧ (s m).toHw.linked 0 (paSite (2 ^ 36 + 2 ^ 30 + 8)) = true ∧ (s m).errs = [] ∧ (s m).toHw.monQueue (paSite (2 ^ 36 + 2 ^ 30 + 8)) = []
    ∧ ((s m).toHw.lineOf (2 ^ 36 + 2 ^ 30 + 8)).bad = false ∧ (s m).toHw.num (2 ^ 36 + 2 ^ 30 + 8) 8 = m.expected.toNat
    ∧ ((s m).toHw.monitorsOf (paSite (2 ^ 36 + 2 ^ 30 + 8))).length < 256 ∧ (s m).toHw.num (2 ^ 36 + 2 ^ 30 + 8) 8 ≠ ({ m with expected := 1 } : AMem).expected.toNat
    ∧ m.halted = false ∧ m.placed = false ∧ m.pa = none ∧ ({ m with pa := some 64 } : AMem).pa = some 64 := by decide +kernel

theorem witness_MonitorsAndStreamCopies_slots :
    let c := fun (put : Bool) => (⟨1, 3, put, 0xFFFFFFFF, ⟨0, 0⟩, .l, 2 ^ 19 - 256, 256, 0, 0, 0, 0⟩ : StreamCopy)
    let s := fun (put : Bool) => (world {} launch5).upd (fun h => { h with
      rings := [(ringKey 1 3, { ring0 with putseq := 0xFFFFFFFF, getseq := 0xFFFFFFFF })], streams := [c put] })
    (s true).Inv ∧ (s true).toHw.streamHead 1 3 true = some (c true) ∧ ((s true).toHw.ring 1 3).putseq = (c true).seq ∧ (s true).toHw.linked 0 1 = true ∧ (s true).toHw.linked 1 0 = true
    ∧ (s false).toHw.streamHead 1 3 false = some (c false) ∧ ((s false).toHw.ring 1 3).getseq = (c false).seq
    ∧ ((s false).toHw.core ⟨0, 0⟩).barrierIn (2 ^ 19 - 256) 256 = none
    ∧ ∀ b, (s b).toHw.cellErrIn [(localKey ⟨0, 0⟩ (2 ^ 19 - 256), 256)] = none := by decide +kernel

theorem witness_FramesAndLaunchEnds_frames :
    (world {} launch5).toHw.launch? 5 = some launch5 ∧ launch5.lid = 5 ∧ launch5.st = .frame ∧ launch5.slipEnd.toNat ≤ (world {} launch5).tick.toNat
    ∧ (let l : Launch := { launch5 with slipLim := 2, slips := 2 }
       l.abort = false ∧ l.slipLim ≠ 0 ∧ l.slipLim ≤ l.slips.toNat ∧ l.slipN = 0 ∧ ((world {} l).toHw.atRest.endSlipping l).stall = false)
    ∧ (let l := launchWith .retired { launch5 with ticks := 100, slipEnd := 100, slipLim := 2 }
       (∀ r ∈ l.recs, r.st = .retired) ∧ (world {} l).toHw.roundsOver l (fun _ => true) = true ∧ l.lost = false ∧ ({ l with lost := true } : Launch).lost = true
         ∧ l.abort = false ∧ (l.slip (l.slipsDue 100)).slips = 0 ∧ (l.slip (l.slipsDue 101)).slips = 1 ∧ (l.slip (l.slipsDue 200)).slips = 1
         ∧ (l.slip (l.slipsDue 200)).slipOut = false ∧ (l.slip (l.slipsDue 201)).slipOut = true
         ∧ (let l1 := l.slip (l.slipsDue 201)
            (((world {} l).toHw.atRest.setLaunch l1).endSlipping l1).stall = false)
         ∧ (let l : Launch := { l with isles := [] }
            (((world {} l).toHw.atRest.setLaunch (l.slip (l.slipsDue 100))).boundary 5 .keep).stall = false))
    ∧ (let l : Launch := { launch5 with st := .changes, isles := [] }
       l.st = .changes ∧ ((world {} l).toHw.atRest.boundaryGo 5 .keep).stall = false)
    ∧ (let l : Launch := { launch5 with abort := true }
       (world {} l).toHw.recordsWait l = false ∧ l.abort = true
         ∧ (let l : Launch := { l with isles := [] }
            (((world {} l).toHw.discardWork l).atRest.endLaunch l 2).stall = false)
         ∧ ((world {} l).upd (fun h => h.onIsle 0 (fun x => { x with
              tqTail := 1, trapq := [(0, ({ code := 0x41, unit := 0, slot := 0, sec := 1, core := 0, pc := 0 }, ⟨0, 0⟩))] }))).toHw.recordsWait l = true)
    ∧ (let l : Launch := { launch5 with st := .boundary, rootpa := 2 ^ 36, wlen := [0, 16, 0] }
       let s := oneIsle l
       l.due.toNat ≤ s.tick.toNat ∧ s.errs = [] ∧ (∀ i ∈ l.isles, (s.toHw.isle i).gated = false)
         ∧ passes (s.toHw.atRest.readFrame l) (fun x => x.2.length == 1 && !(s.toHw.atRest.beginFrame l x.1 x.2).stall) = true)
    ∧ (let l : Launch := { launch5 with st := .boundary, rootpa := 2 ^ 36, ttva := 4096 }
       fails ((paged {} l id).toHw.atRest.readFrame l) (fun e => e == (0, 0) && !((paged {} l id).toHw.atRest.ttFailed l e).stall) = true) := by decide +kernel

/-- A core of the launch's isle with a calibration task is busy. -/
theorem witness_FramesAndLaunchEnds_busy :
    (oneIsle launch5 |>.upd (fun h => h.setCore ⟨0, 0⟩ { ({} : Core) with queue := [{ ({} : Task) with calib := true }] })).toHw.calBusy launch5 = true := by
  decide +kernel

theorem witness_FramesAndLaunchEnds_calibration (l : Launch) : (oneIsle l).toHw.calBusy l = false := by
  have h : ∀ co, (oneIsle l).toHw.core co = {} := by
    intro co
    change tabGet {} [(0, ({} : Core))] (CoreId.key co) = {}
    rw [tabGet]
    split <;> rfl
  simp [Hw.calBusy, h]


/-- Queue 0 in slot 0 of its block, 8 packets submitted, its grant the first GiB, its tables those of `paged`, changed as given. -/
def docked (x : HQueue → HQueue) (look : List Packet) (d : DbSlot) : State :=
  (paged {} launch5 id).upd (fun h => { h with
    cfg := { ({} : Cfg) with qtbase := 2 ^ 36 + 2 ^ 24 }
    quays := [(0, { ({} : Quay) with slots := [(0, d)] })]
    queues := [(0, x { ({} : HQueue) with glen := 2 ^ 30, gperm := 0xFFF, rootpa := 2 ^ 36, rlog := 4, look := look, places := look.length })]
    boot := { ({} : Boot) with stage := 5 } })

/-- The slot of queue 0 with 8 packets submitted. -/
def open8 : DbSlot := { q := 0, widx := 8 }

/-- A packet of these bytes at place 0. -/
def packet (b : List Byte) : Packet := { bytes := b ++ List.replicate (64 - b.length) 0, place := 0, ridx := 1, chain := [] }

/-- Queue 0 with one packet at the issue point. -/
def heads (b : List Byte) : State := docked id [packet b] open8

theorem witness_TrapServiceAndResume :
    (let r : TrapRec := { code := 0x41, unit := 0, slot := 0, sec := 1, core := 0, pc := 0 }
     let k : Core := { ({} : Core) with task := some { ({} : Task) with lid := 5 }, stopped := true, unrep := 1 }
     let s := fun (r : TrapRec) => paged k { launch5 with rootpa := 2 ^ 36 } (fun i => { i with trapq := [(1023, (r, ⟨0, 0⟩))], tqHead := 1023, tqTail := 0 })
     (s r).errs = [] ∧ (∀ p ∈ (s r).toHw.entriesFrom 0 4 0 (2 ^ 36), (s r).toHw.barAt { src := 0, pkey := launch5.pkey } opRead p = none)
     ∧ (∀ code ∈ [0x41, 0x20, 0x12], ((s { r with code := code }).toHw.isle 0).tqHead ≠ ((s r).toHw.isle 0).tqTail
        ∧ tabFind ((s { r with code := code }).toHw.isle 0).trapq (((s r).toHw.isle 0).tqHead.toNat % 1024) = some ({ r with code := code }, ⟨0, 0⟩))
     ∧ (s r).toHw.core ⟨0, 0⟩ = k ∧ (s r).toHw.launch? 5 = some { launch5 with rootpa := 2 ^ 36 }
     ∧ setHas ((s r).upd (fun h => { h with holds := [5] })).holds 5 = true ∧ setHas (s r).holds 5 = false
     ∧ (s r).toHw.walkRoot (2 ^ 36) 0 = .ok { pa := 2 ^ 36 + 2 ^ 30, size := 2 ^ 30, w := true, cow := false } 1 (BitVec.ofNat 64 (2 ^ 36 + 2 ^ 30 + 7)))
    ∧ (let k : Core := { ({} : Core) with stopped := true }
       k.stopped = true ∧ k.unrep = 0 ∧ k.fatal = false ∧ { k with unrep := 1 }.unrep ≠ 0 ∧ { k with fatal := true }.fatal = true)
    ∧ ((here { ({} : Core) with task := some {} }).toHw.core ⟨0, 0⟩).task ≠ none
    ∧ (let c := cmd .get (fun c => { c with started := true })
       ((withCmds [c]).toHw.core ⟨0, 0⟩).cmds.find? (fun c => c.uid == 0) = some c ∧ c.started = true ∧ c.performed = false ∧ c.fault = none)
    ∧ (let t : TileJob := ⟨0, 1, 16, 1, 0, 0, false, 0, 0x10000, 0, none, [], [], none, false⟩
       tabFind (due9 (slot9 .tile false none)).here.slots 31 = some (slot9 .tile false none)
         ∧ (∀ b, (let y := slot9 .tile false (some { t with halted := b })
             tabFind (due9 y).here.slots 31 = some y ∧ y.tile = some { t with halted := b })))
    ∧ (world {} launch5).toHw.launch? 5 = some launch5 ∧ launch5.isles.contains 0 = true := by decide +kernel

/-- An instruction whose checks hold meets an error in the cells of local memory, or of accumulator memory. -/
theorem witness_TrapServiceAndResume_cells :
    let n := fun (i : Instr) => (⟨true, false, 0, i⟩ : Insn)
    let ran := fun (s : State) (i : Instr) => (s.p 0).psn = false ∧ s.guardTrue (n i) = true ∧ (match exec i s with
      | .next v => v.ix.trap.isNone && !v.ix.blocked
      | _ => false) = true
    (let s := (mine (regs {} (ownMem 0))).upd (fun h => { h with cellErrs := [localKey ⟨0, 0⟩ 0 / 16] })
     ran s (.ldS8 1 1 2 0 0) ∧ s.toHw.cellErrIn (s.localSpans (.ldS8 1 1 2 0 0)) = some (localKey ⟨0, 0⟩ 0 / 16))
    ∧ (let s := (arrState {} arr0).upd (fun h => { h with cellErrs := [slotKey ⟨0, 0⟩ 15 7 0 / 16] })
       ran s (.tzero 15 8) ∧ s.toHw.cellErrIn (s.localSpans (.tzero 15 8)) = none
         ∧ s.toHw.cellErrIn (s.accSpans (.tzero 15 8)) = some (slotKey ⟨0, 0⟩ 15 7 0 / 16)) := by decide +kernel

/-- Queue 0's record admits its quay, which has a route to it. -/
abbrev reachable (s : State) : Prop :=
  let pa := s.toHw.recordPa 0
  s.toHw.barAt (quayMaster 0 0) opRead pa = none ∧ ∀ i ∈ [48, 56], s.toHw.barAt (quayMaster 0 0) opWrite (pa + i) = none

theorem witness_DoorbellsAndMapping :
    (let s := docked id [] open8
     s.Inv ∧ (s.toHw.quay 0).slotOf 0 = some 0 ∧ reachable s ∧ (s.toHw.dbSlot 0).widx = 8 ∧ (s.toHw.dbSlot 0).widx ≠ (s.toHw.queue 0).ridx ∧ (s.toHw.dbSlot 0).widx.toNat < (9 : BitVec 64).toNat
       ∧ (s.toHw.dbSlot 0).halt = false ∧ 0 / 256 ≠ 1)
    ∧ (let s := (docked id [] open8).upd (fun h => { h with
         quays := [(0, { ({} : Quay) with attn := [0] })], mem := memWriteN (leBytes 1 4) (h.recordPa 0 + 8) h.mem })
       s.Inv ∧ reachable s ∧ (s.toHw.quay 0).slotOf 0 = none ∧ tabFree (s.toHw.quay 0).slots 64 = some 0 ∧ ¬s.boot.stage < 3
         ∧ (s.toHw.lineOf (s.toHw.recordPa 0)).bad = false ∧ s.errs = [] ∧ (s.toHw.queue 0).starting = none
         ∧ recordOk (s.toHw.bytes (s.toHw.recordPa 0) 64) = true ∧ (s.toHw.quay 0).attn = [0])
    ∧ (let s := docked (fun x => { x with ridx := 8, readIdx := 8 }) [] open8
       s.Inv ∧ reachable s ∧ (s.toHw.quay 0).slotOf 0 = some 0 ∧ (s.toHw.dbSlot 0).widx = (s.toHw.queue 0).ridx ∧ (s.toHw.queue 0).chain = []
         ∧ (s.toHw.queue 0).look = [] ∧ (s.toHw.queue 0).pending = none ∧ (s.toHw.dbSlot 0).halt = false)
    ∧ (let s := (docked id [] { open8 with halt := true, fcode := 3 }).upd (fun h => { h with mem := memWriteN (leBytes 1 20) (h.recordPa 0 + 8) h.mem })
       s.Inv ∧ reachable s ∧ (s.toHw.quay 0).slotOf 0 = some 0 ∧ (s.toHw.dbSlot 0).halt = true ∧ ¬s.boot.stage < 3
         ∧ (s.toHw.lineOf (s.toHw.recordPa 0)).bad = false ∧ s.errs = [] ∧ (s.toHw.queue 0).starting = none
         ∧ recordOk (s.toHw.bytes (s.toHw.recordPa 0) 64) = true)
    ∧ (let s := (docked id [] open8).upd (fun h => { h with quays := h.quays.map (fun y => (y.1, { y.2 with attn := [0] })) })
       (s.toHw.quay 0).slotOf 0 = some 0 ∧ (s.toHw.quay 0).attn = [0]) := by decide +kernel

/-- Queue 0 with packets in its ring at virtual address 0. -/
def ringOf (x : HQueue → HQueue) (b : List Byte) : State :=
  (docked x [] open8).upd (fun h => { h with mem := memWriteN b (2 ^ 36 + 2 ^ 30) h.mem })

/-- A CALL of two packets at an address. -/
def callBytes (a : Nat) : List Byte := leBytes 8 2 ++ leBytes 8 a ++ leBytes 2 2 ++ List.replicate 46 0

/-- From such a ring queue 0 reads these bytes with this fault code, and stands at this position. -/
def reads (ring b : List Byte) (bad : BitVec 4) (ridx : BitVec 64) : Bool :=
  match (ringOf id ring).toHw.readPacket 0 with
  | some (x, y, i, c) => x == b && y == bad && i == ridx && c == []
  | none => false

theorem witness_LookAhead_fetch :
    (ringOf id []).errs = [] ∧ (∀ t ∈ [1, 2, 3, 4], (ringOf id (leBytes 1 t)).toHw.mayFetch 0 = true ∧ reads (leBytes 1 t) (leBytes 1 t ++ List.replicate 63 0) 0 1 = true)
    ∧ (ringOf id (leBytes 1 9)).toHw.mayFetch 0 = true ∧ reads (leBytes 1 9) (leBytes 1 9 ++ List.replicate 127 0) 0 2 = true
    ∧ (ringOf id []).toHw.mayFetch 0 = true ∧ reads [] (List.replicate 64 0) 1 1 = true
    ∧ (let s := docked id [{ packet [1] with bad := 3 }] open8
       ((s.toHw.queue 0).look.map (fun k => k.bad) = [3]) ∧ s.toHw.mapped 0 = true ∧ (s.toHw.dbSlot 0).halt = false
         ∧ (s.toHw.quay 0).unmapWait = [] ∧ reachable s ∧ (s.toHw.atRest.notePacket 0).stall = false) := by decide +kernel

theorem witness_LookAhead_calls :
    (let b := callBytes (2 ^ 30 - 128)
     let s := docked (fun x => { x with pending := some b }) [] open8
     (s.toHw.queue 0).pending = some b ∧ pktType b = 2 ∧ fieldAt b 8 8 % 64 = 0 ∧ fieldAt b 16 2 ≠ 0 ∧ zeroFrom b 18 = true
       ∧ (s.toHw.queue 0).readChain.length < 8 ∧ (s.toHw.queue 0).grants (fieldAt b 8 8) (64 * fieldAt b 16 2) pLd = true)
    ∧ (let b := callBytes (2 ^ 30 - 64)
       let s := docked (fun x => { x with pending := some b }) [] open8
       (s.toHw.queue 0).pending = some b ∧ zeroFrom b 18 = true ∧ (s.toHw.queue 0).grants (fieldAt b 8 8) (64 * fieldAt b 16 2) pLd = false)
    ∧ (let s := docked (fun x => { x with readChain := List.replicate 8 (0, 0, 2) }) [] open8
       8 ≤ (s.toHw.queue 0).readChain.length)
    ∧ (let b := leBytes 8 3 ++ List.replicate 56 0
       let s := fun n => docked (fun x => { x with pending := some b, readChain := List.replicate n (0, 0, 2) }) [] open8
       ((s 1).toHw.queue 0).pending = some b ∧ pktType b = 3 ∧ zeroFrom b 8 = true ∧ ((s 1).toHw.queue 0).readChain ≠ []
         ∧ ((s 0).toHw.queue 0).readChain = [] ∧ ((s 1).toHw.queue 0).look = []) := by decide +kernel

/-- A packet stands at the issue point of queue 0, which wins. -/
abbrev AtHead (s : State) (b : List Byte) : Prop :=
  s.toHw.atRest.headPacket 0 = some (packet b) ∧ s.toHw.atRest.wins 0 = true ∧ (s.toHw.queue 0).starting = none ∧ s.errs = []

theorem witness_PacketsAtTheIssuePoint_small :
    (∀ b ∈ [[4, 0, 0, 0, 0, 0, 0, 0, 1], leBytes 8 5 ++ leBytes 8 0 ++ leBytes 8 4096 ++ leBytes 8 64, leBytes 8 6 ++ leBytes 8 8 ++ leBytes 8 7 ++ [1],
        leBytes 8 7 ++ leBytes 8 8], AtHead (heads b) b ∧ (heads b).Inv ∧ ((heads b).toHw.atRest.issueHead 0 (packet b) false).stall = false)
    ∧ (let p := packet [4, 0, 0, 0, 0, 0, 0, 0, 1]
       pktType p.bytes = 4 ∧ fieldAt p.bytes 8 2 ≠ 0 ∧ zeroFrom p.bytes 10 = true ∧ ((heads [4]).toHw.queue 0).joined p = true) := by decide +kernel

theorem witness_PacketsAtTheIssuePoint_copy :
    let b := leBytes 8 5 ++ leBytes 8 0 ++ leBytes 8 4096 ++ leBytes 8 64
    let h := (heads b).toHw.atRest
    let x := h.queue 0
    pktType (packet b).bytes = 5 ∧ passes (h.checkCopy 0 (packet b).bytes) (fun d =>
      let w := h.writeVa (x.master 0) x.rootpa (fieldAt (packet b).bytes 16 8) d
      d == List.replicate 64 0 && w.1 && !(w.2.issueHead 0 (packet b) false).stall) = true := by decide +kernel

theorem witness_PacketsAtTheIssuePoint_signal :
    let b := leBytes 8 6 ++ leBytes 8 8 ++ leBytes 8 7 ++ [1]
    let h := (heads b).toHw.atRest
    let x := h.queue 0
    let w := h.writeVa (x.master 0) x.rootpa (fieldAt (packet b).bytes 8 8) (leBytes 8 7)
    let a := h.addVa (x.master 0) x.rootpa (fieldAt (packet b).bytes 8 8) 7
    pktType (packet b).bytes = 6 ∧ x.running = [] ∧ passes (h.checkSignal 0 (packet b).bytes) (fun _ => true) = true ∧ fieldAt (packet b).bytes 24 1 = 1
      ∧ w.1 = true ∧ (w.2.issueHead 0 (packet b) false).stall = false ∧ a.1 = true ∧ (a.2.issueHead 0 (packet b) false).stall = false := by decide +kernel

theorem witness_PacketsAtTheIssuePoint_write :
    let h := (heads []).toHw.atRest
    let x := h.queue 0
    h.paOf x.rootpa (2 ^ 16 - 64) false = some (2 ^ 36 + 2 ^ 30 + 2 ^ 16 - 64) ∧ paTarget (2 ^ 36 + 2 ^ 30 + 2 ^ 16 - 64) = .line
      ∧ (∀ e ∈ h.entriesFrom (2 ^ 16 - 64) 4 0 x.rootpa, h.barAt (x.master 0) opRead e = none)
      ∧ ∀ c ∈ lineCuts 3 (2 ^ 36 + 2 ^ 30 + 2 ^ 16 - 64) 64, h.barAt (x.master 0) opWrite c.1 = none
        ∧ (c.2 = 64 ∨ (h.lineOf c.1).bad = false) := by decide +kernel

theorem witness_PacketsAtTheIssuePoint_waitvalue :
    (let b := leBytes 8 7 ++ leBytes 8 8
     pktType (packet b).bytes = 7 ∧ passes ((heads b).toHw.atRest.checkWait 0 (packet b).bytes) (fun x => x) = true)
    ∧ (let b := leBytes 8 7 ++ leBytes 8 8 ++ leBytes 8 1 ++ leBytes 8 1 ++ leBytes 4 0 ++ leBytes 4 9
       let s := fun (t : BitVec 64) => (docked (fun x => { x with waitFrom := some 0 }) [packet b] open8).upd (fun h => { h with tick := t })
       AtHead (s 10) b ∧ pktType (packet b).bytes = 7 ∧ ((s 10).toHw.queue 0).waitFrom = some 0 ∧ fieldAt (packet b).bytes 36 4 ≠ 0
         ∧ fieldAt (packet b).bytes 36 4 < ((s 10).tick - 0).toNat ∧ ¬fieldAt (packet b).bytes 36 4 < ((s 9).tick - 0).toNat
         ∧ (s 10).toHw.waitHolds 0 (packet b).bytes = some false ∧ ((s 10).toHw.quay 0).unmapWait = []
         ∧ ((s 10).toHw.atRest.faultHead 0 5).stall = false) := by decide +kernel

/-- A table that maps every number of a list to one value. -/
theorem tabGet_const {α : Type} (d x : α) (l : List Nat) (i : Nat) (h : i ∈ l) : tabGet d (l.map (fun n => (n, x))) i = x := by
  induction l with
  | nil => simp at h
  | cons j l ih =>
    by_cases e : i = j
    · simp [tabGet, tabFind, e]
    · simpa [tabGet, tabFind, e] using ih (by simpa [e] using h)

/-- An array of an insula without a core in service. -/
def bareArr : Arr := { arr0 with cores := 0 }

/-- Arrays of isle 0 without a core in service. -/
def coreless : Tab Arr := (List.range 300).map (fun i => (i, bareArr))

theorem coreless_isleCores (h : Hw) (e : h.arrs = coreless) : h.isleCores 0 = [] := by
  have : ∀ c, c < 1200 → h.coreInService ⟨0, c⟩ = false := by
    intro c hc
    have := tabGet_const (Arr.fresh 0 (c / 4)) bareArr (List.range 300) (c / 4) (by simp; omega)
    simp only [Hw.coreInService, Hw.arr, e, CoreId.ins, arrKey, coreless, Nat.zero_mul, Nat.zero_add, this]
    simp [bareArr]
  simpa [Hw.isleCores, List.filter_eq_nil_iff] using this

/-- A launch without an image starts on such an isle with no access that waits for a route. -/
theorem coreless_startLaunch (h d : Hw) (e : h.arrs = coreless) (hs : h.stall = false) (q place lid : Nat) (sp : Spec) (im : sp.image = none)
    (r : Option Refine) : ((h.startLaunch q place lid sp [0] r).getD d).stall = false := by
  have key : ∀ (g : Hw) (l : Launch), g.arrs = coreless → l.isles = [0] → (g.beginLaunch l).stall = g.stall := by
    intro g l eg el
    simp [Hw.beginLaunch, Hw.prepareRest, Hw.launchCores, el, coreless_isleCores (g.setLaunch l) eg] <;> rfl
  rw [Hw.startLaunch, im]
  cases r <;> simp only [Option.getD_some] <;> rw [key (h.takeIsles _ [0]).2 _ e rfl] <;> exact hs

/-- Queue 0 with one packet, and every isle in service, none held, isle 0 without cores. -/
def harbour (b : List Byte) : State :=
  (docked id [packet b] open8).upd (fun h => { h with
    launches := [], arrs := coreless, isles := (List.range 676).map (fun i => (i, { inService := true, transit := true, ports := 15 })) })

/-- A spec of one isle, without an image, and isle 0 is free for it. -/
def firstFree (h : Hw) (sp : Spec) : Bool :=
  sp.image == none && sp.minisl == 1 && (isleOk 0 && inSublattice sp.sub 0 && (h.isle 0).inService && !h.isleHeld 0)

/-- It gets isle 0. -/
theorem first_isle (h : Hw) (q : Nat) (sp : Spec) (fixed : Option Nat) (lid : Nat) (hf : firstFree h sp = true)
    (c : fixed = some lid ∨ fixed = none ∧ h.chooseLid sp = some lid) : h.allocate q sp fixed = some (lid, [0]) := by
  rw [firstFree, Bool.and_eq_true, Bool.and_eq_true, beq_iff_eq, beq_iff_eq] at hf
  have e : h.freeIsles sp.sub = 0 :: ((List.range 675).map Nat.succ).filter
      (fun i => isleOk i && inSublattice sp.sub i && (h.isle i).inService && !h.isleHeld i) := by
    rw [Hw.freeIsles, List.range_succ_eq_map]
    exact List.filter_cons_of_pos hf.2
  rcases c with rfl | ⟨rfl, c⟩
  · simp [Hw.allocate, e, hf.1.1, hf.1.2]
  · simp [Hw.allocate, e, hf.1.1, hf.1.2, c]

/-- A LAUNCH on one isle, its descriptor and timetable at virtual address 0. -/
def launchBytes : List Byte := leBytes 8 1 ++ List.replicate 24 0 ++ leBytes 2 1 ++ leBytes 2 1

/-- A REFINE of one rung. -/
def refineBytes : List Byte :=
  leBytes 8 9 ++ List.replicate 40 0 ++ leBytes 4 0x3F800000 ++ leBytes 4 0x3F800000 ++ leBytes 4 0x3F800000 ++ leBytes 2 1 ++ leBytes 2 1
    ++ leBytes 8 0 ++ leBytes 8 64 ++ leBytes 8 128 ++ leBytes 8 0 ++ leBytes 2 1 ++ leBytes 2 1 ++ List.replicate 28 0

theorem witness_PacketsAtTheIssuePoint_launch :
    let s := harbour launchBytes
    s.Inv ∧ AtHead s launchBytes ∧ pktType (packet launchBytes).bytes = 1 ∧ (s.toHw.atRest.holdHead 0 0).arrs = coreless
    ∧ passes (s.toHw.atRest.prepLaunch 0 (launchReq (packet launchBytes).bytes))
        (fun sp => firstFree s.toHw.atRest sp && s.toHw.atRest.chooseLid sp == some 0) = true := by decide +kernel

theorem witness_PacketsAtTheIssuePoint_refine :
    let s := harbour refineBytes
    let b := (packet refineBytes).bytes
    AtHead s refineBytes ∧ pktType b = 9 ∧ refineResume b = false
    ∧ passes (s.toHw.atRest.prepRefine 0 b) (fun x =>
        let r0 : Refine := { q := 0, place := 0, bytes := b, lid := 0, run := x.1, thr := Config.noThr }
        let g := s.toHw.atRest.writeRefine r0 0 0 0 0 true 0 [0, 0, 0, 0]
        x.1 == 0 && firstFree s.toHw.atRest x.2 && s.toHw.atRest.chooseLid x.2 == some 0 && !g.2.stall && g.2.arrs == coreless) = true := by decide +kernel

/-- A PREEMPT names the launch. -/
def isLaunch (x : Preempted) (l : Launch) : Bool :=
  match x with
  | .launch k => k == l
  | .block _ => false

theorem witness_PacketsAtTheIssuePoint_preempt :
    (let b := fun (m : Byte) => leBytes 8 8 ++ [5, 0, m] ++ List.replicate 5 0 ++ leBytes 8 65536
     ∀ m ∈ [0, 1], AtHead (heads (b m)) (b m) ∧ pktType (packet (b m)).bytes = 8
       ∧ passes ((heads (b m)).toHw.atRest.checkPreempt 0 (packet (b m)).bytes) (fun x => isLaunch x launch5) = true
       ∧ (heads (b m)).toHw.launch? 5 = some launch5 ∧ ((heads (b m)).toHw.atRest.issueHead 0 (packet (b m)) true).stall = false)
    ∧ (let b := leBytes 8 8 ++ [7, 0, 1]
       let r : Refine := { q := 0, place := 0, bytes := [], lid := 7, run := 1, going := false }
       let s := (heads b).upd (fun h => { h with refines := [r] })
       AtHead s b ∧ (s.toHw.atRest.issueHead 0 (packet b) true).stall = false
         ∧ passes (s.toHw.atRest.checkPreempt 0 (packet b).bytes) (fun x => match x with
             | .launch _ => false
             | .block y => y == r) = true) := by decide +kernel

/-- A block of queue 0 whose run has ended, or is still to go, on these bytes. -/
def block (st : Option (BitVec 8)) (run : Nat) (ok : Bool) (b : List Byte) : Refine :=
  { q := 0, place := 0, bytes := b, lid := 7, run := run, going := false, ended := st, stateOk := ok }

/-- Queue 0 runs that block, its state block as given. -/
def refining (r : Refine) (st : List Byte) : State :=
  (docked (fun x => { x with running := [0] }) [] open8).upd (fun h => { h with refines := [r], mem := memWriteN st (2 ^ 36 + 2 ^ 30 + fieldAt r.bytes 72 8) h.mem })

/-- The premises about an ended run; `f` says of the run that may follow what its checks give. -/
abbrev RunOver (r : Refine) (st : List Byte) : Prop :=
  let s := refining r st
  s.Inv ∧ s.errs = [] ∧ s.toHw.refines.find? (fun r => r.q == 0 && !r.going) = some r
    ∧ (s.toHw.atRest.readGrant 0 (fieldAt r.bytes 72 8) 64).isSome = true ∧ (s.toHw.atRest.runEnds r).stall = false

/-- The state block is written as given, and the checks of the next run, on the rung that it then names, fail. -/
abbrev GoesOn (r : Refine) (st : List Byte) (k rung stag run : Nat) (fresh : Bool) (prev : Nat) (causes : List Nat) : Prop :=
  let h := (refining r st).toHw.atRest
  let g := h.writeRefine r k rung stag run fresh prev causes
  g.1 = true ∧ g.2.errs = []
    ∧ (g.2.prepRun 0 r.bytes run (fieldAt (g.2.refineState 0 r.bytes) 20 1) false).isOk = false

theorem witness_RefineRunsEnd_exits :
    let b := (packet refineBytes).bytes
    let x := block (some 1) 2 true b
    (∀ st ∈ [3, 2, 1], RunOver (block (some st) 1 false b) [])
    ∧ RunOver x [] ∧ refineStep b ((refining x []).toHw.refineState 0 b) = (0, .exit 0)
    ∧ (let h := (refining x []).toHw.atRest
       let g := h.writeRefine x 0 0 0 2 false 0 [0, 0, 0, 0]
       let pa := 2 ^ 36 + 2 ^ 30 + 128
       g.1 = true ∧ g.2.errs = [] ∧ g.2.stall = false ∧ g.2.paOf (2 ^ 36) (fieldAt b 80 8) false = some pa ∧ paTarget pa = .line
         ∧ fieldAt b 80 8 % 65536 + 64 ≤ 65536 ∧ (∀ e ∈ g.2.entriesFrom 128 4 0 (2 ^ 36), g.2.barAt ((g.2.queue 0).master 0) opRead e = none)
         ∧ ∀ c ∈ lineCuts 3 pa 64, g.2.barAt ((g.2.queue 0).master 0) opWrite c.1 = none ∧ (c.2 = 64 ∨ (g.2.lineOf c.1).bad = false)) := by decide +kernel

/-- The block of `test_refine_trace`, and a state block for it. -/
def traceBytes : List Byte :=
  refineBytes.take 48 ++ leBytes 4 0x35800000 ++ leBytes 4 0x3F000000 ++ leBytes 4 0x40000000 ++ leBytes 2 9 ++ leBytes 2 2
    ++ refineBytes.drop 64

def traceState (nr stag : Nat) : List Byte :=
  let one := leBytes 4 0x3F800000
  leBytes 4 nr ++ one ++ one ++ one ++ leBytes 4 1 ++ [0, BitVec.ofNat 8 stag, 0, 0] ++ leBytes 4 0x3F666666

theorem witness_RefineRunsEnd_goes :
    let r := fun (run : Nat) => block (some 1) run true traceBytes
    let st := traceState 0x3F59999A
    (∀ x ∈ [(0, 1, 1), (1, 1, 2), (3, 2, 1)], RunOver (r x.1) (st 0) ∧ GoesOn (r x.1) (st 0) x.2.1 0 0 x.2.2 false 0x3F666666 [0, 0, 0, 0])
    ∧ RunOver (r 2) (st 0) ∧ refineStep traceBytes ((refining (r 2) (st 0)).toHw.refineState 0 traceBytes) = (1, .solve)
    ∧ GoesOn (r 2) (st 0) 1 0 1 3 false 0x3F59999A [0, 0, 0, 0]
    ∧ RunOver (r 2) (st 1) ∧ refineStep traceBytes ((refining (r 2) (st 1)).toHw.refineState 0 traceBytes) = (2, .fact 1)
    ∧ GoesOn (r 2) (st 1) 1 1 0 0 true 0x3F666666 [1, 0, 0, 0] := by decide +kernel

/-- A block whose next run is due. -/
def due : Refine := block none 1 true (packet refineBytes).bytes

/-- The premises about a due run but its route, in a state whose checks it passes. -/
abbrev Due (s : State) : Prop :=
  s.Inv ∧ s.errs = [] ∧ s.toHw.refines.find? (fun r => r.q == 0 && !r.going) = some due
    ∧ (s.toHw.atRest.readGrant 0 (fieldAt due.bytes 72 8) 64).isSome = true

theorem meetErrs_none (h : Hw) (f : Hw → Bool) (e : h.errs = []) : h.meetErrs f = h := by
  rw [Hw.meetErrs, e]; simp

theorem due_runEnds (s : State) (h : Due s) : s.toHw.atRest.runEnds due = s.toHw.atRest.nextRun due := by
  unfold Hw.runEnds
  extract_lets va h1 h2
  have e1 : h1 = s.toHw.atRest := meetErrs_none _ _ h.2.1
  have e2 : h2 = s.toHw.atRest := by
    rw [← e1]
    exact if_pos (e1 ▸ h.2.2.2)
  rw [e2]
  rfl

/-- The checks of a due run, with the spec that they give. -/
abbrev dueRun (s : State) : Qf Spec :=
  s.toHw.atRest.prepRun due.q due.bytes due.run (fieldAt (s.toHw.atRest.refineState due.q due.bytes) 20 1) false

/-- The isles that it gets. -/
abbrev dueIsles (s : State) (sp : Spec) : Option (Nat × List Nat) := s.toHw.atRest.allocate due.q sp (some due.lid)

/-- A run that passes its checks starts on the isles it gets, or waits for them. -/
theorem due_nextRun (s : State) (sp : Spec) (e : s.errs = []) (hp : dueRun s = .ok sp) :
    (dueIsles s sp = none → s.toHw.atRest.nextRun due = s.toHw.atRest)
    ∧ ∀ lid isles, dueIsles s sp = some (lid, isles) → s.toHw.atRest.nextRun due =
      ((s.toHw.atRest.setRefine due { due with going := true, preempt := none, awaited := [] }).startLaunch due.q due.place lid sp isles (some due)).getD
        s.toHw.atRest := by
  unfold Hw.nextRun
  extract_lets x rung h1
  have e1 : h1 = s.toHw.atRest := meetErrs_none _ _ e
  rw [e1, show s.toHw.atRest.prepRun due.q due.bytes due.run rung false = .ok sp from hp]
  dsimp only
  refine ⟨fun a => ?_, fun lid isles a => ?_⟩ <;> rw [show s.toHw.atRest.allocate due.q sp (some due.lid) = _ from a] <;> dsimp only
  generalize Hw.startLaunch _ _ _ _ _ _ _ = o
  cases o <;> rfl

/-- A run that waited for isles, which are all free. -/
def ready : State := (harbour []).upd (fun h => { h with refines := [due] })

/-- It starts on the isle that it gets. -/
theorem witness_RefineRunsEnd_starts :
    Due ready ∧ (∃ sp, dueRun ready = .ok sp ∧ sp.image = none ∧ dueIsles ready sp = some (7, [0]))
    ∧ (ready.toHw.atRest.runEnds due).stall = false := by
  have x : Due ready ∧ passes (dueRun ready) (fun sp => sp.image == none && firstFree ready.toHw.atRest sp) = true := by decide +kernel
  obtain ⟨sp, hp, hq⟩ := passes_ok x.2
  rw [Bool.and_eq_true, beq_iff_eq] at hq
  have a : dueIsles ready sp = some (7, [0]) := first_isle _ _ _ _ 7 hq.2 (.inl rfl)
  refine ⟨x.1, ⟨sp, hp, hq.1, a⟩, ?_⟩
  rw [due_runEnds _ x.1, (due_nextRun _ _ x.1.2.1 hp).2 _ _ a]
  have c : ready.arrs = coreless := by decide +kernel
  have k : ∀ (h : Hw) (a b : Refine), (h.atRest.setRefine a b).arrs = h.arrs ∧ (h.atRest.setRefine a b).stall = false := fun _ _ _ => ⟨rfl, rfl⟩
  exact coreless_startLaunch (ready.toHw.atRest.setRefine due _) _ ((k _ _ _).1.trans c) (k _ _ _).2 due.q due.place 7 sp hq.1 (some due)

/-- Every isle out of service. -/
@[irreducible] def offIsles : Tab Isle := (List.range 676).map (fun i => (i, { inService := false, transit := true, ports := 15 }))

theorem offIsles_get (d : Isle) (i : Nat) (h : i < 676) : (tabGet d offIsles i).inService = false := by
  unfold offIsles
  exact congrArg Isle.inService (tabGet_const d _ (List.range 676) i (List.mem_range.mpr h))

/-- A run that is due while no isle is in service. -/
def unready : State := (docked id [] open8).upd (fun h => { h with refines := [due], isles := offIsles })

/-- It waits. -/
theorem witness_RefineRunsEnd_waits :
    Due unready ∧ (∃ sp, dueRun unready = .ok sp ∧ dueIsles unready sp = none) ∧ (unready.toHw.atRest.runEnds due).stall = false := by
  have x : Due unready ∧ passes (dueRun unready) (fun sp => sp.minisl != 0) = true := by decide +kernel
  obtain ⟨sp, hp, hq⟩ := passes_ok x.2
  have w : unready.isles = offIsles := by decide +kernel
  have k : ∀ h : Hw, h.atRest.isles = h.isles := fun _ => rfl
  have f : unready.toHw.atRest.freeIsles sp.sub = [] := by
    simp only [Hw.freeIsles, List.filter_eq_nil_iff, List.mem_range]
    intro i h
    have g : (unready.toHw.atRest.isle i).inService = false := by
      rw [Hw.isle, k, w]
      exact offIsles_get _ i h
    simp [g]
  have a : dueIsles unready sp = none := by
    have : sp.minisl ≠ 0 := by simpa using hq
    simp only [dueIsles, Hw.allocate, f, List.length_nil]
    exact if_pos (by omega)
  refine ⟨x.1, ⟨sp, hp, a⟩, ?_⟩
  rw [due_runEnds _ x.1, (due_nextRun _ _ x.1.2.1 hp).1 a]
  rfl

/-- The bytes of a flit of a type, class and length for module 5, with hop sequence 1. -/
def flit (type : BitVec 4) (cls : BitVec 2) (len : BitVec 8 := 0) : List Byte := (⟨type, cls, 5, 3, 0, 0, len, 0, 0, 0, [], 1, 0, 0⟩ : Flit).body

/-- The check value of the polynomial of ECMA-182, started at zero (R279): "123456789" gives 0x6C40DF5F0B497347. -/
theorem test_crc64 : crc64 [0x31, 0x32, 0x33, 0x34, 0x35, 0x36, 0x37, 0x38, 0x39] = 0x6C40DF5F0B497347 := by decide +kernel

/-- Port 0 up, changed as given; port 127 up with credits. -/
def linked (x : Port → Port) : State :=
  State.reset.upd (fun h => { h with
    cfg := {}
    ports := [(0, x { ({} : Port) with up := true }), (127, { ({} : Port) with up := true, credits := Vector.replicate 3 255 })] })

/-- Those flits have a good CRC; 248 zero bytes with the CRC 1 do not. -/
theorem witness_LinkPorts_intact :
    (∀ (t : BitVec 4) (c : BitVec 2) (n : BitVec 8), flitIntact (flit t c n) (crc64 (flit t c n)) = true) ∧ flitIntact (List.replicate 248 0) 1 = false := by
  refine ⟨fun _ _ _ => flitIntact_self _, ?_⟩
  rw [flitIntact, crc64_zeros]
  decide

theorem witness_LinkPorts :
    (∀ b ∈ [flit 0 2, flit 7 0, flit 15 0, flit 1 0 225, flit 2 3], let f := flitOf b
      f.hseq = ((linked id).toHw.port 0).rxSeq + 1
        ∧ ((f.type = 0 ∧ f.cls ≠ 3 ∧ f.len.toNat ≤ 224) ∨ ((7 ≤ f.type.toNat ∨ 224 < f.len.toNat) ∧ f.cls ≠ 3) ∨ f.cls = 3))
    ∧ ((linked id).toHw.port 0).up = true ∧ ((linked id).toHw.port 0).full = [] := by decide +kernel

theorem witness_LinkPorts_forward :
    let b := flit 2 1
    let f := flitOf b
    let s := linked (fun p => { p with
      routes := { tab := [(5, 0x1FFFFFFF)], active := false }, pktab := [(0, 0x80)]
      acc := { entries := [(0, 0xffffffff000000000000000000207f01#128)] } })
    let x := s.toHw.port 0
    f.hseq = x.rxSeq + 1 ∧ f.type = 2 ∧ f.cls = 1 ∧ f.len.toNat ≤ 224 ∧ s.toHw.portKey 0 f.pkey = true
      ∧ x.acc.admits { src := 0, pkey := f.pkey } opRead f.off.toNat = true
      ∧ f.dst.toNat ≠ s.cfg.modno ∧ f.hops + 1 ≠ 63 ∧ hopsOf (x.routes.entry x.routes.active f.dst.toNat) = [127] ∧ (s.toHw.port 127).up = true
      ∧ (s.toHw.port 127).credits.get 1 ≠ 0 ∧ (s.toHw.port 127).full = [] := by decide +kernel

theorem witness_LinkPorts_replay_and_up :
    (let r : Routed := { table := 128, gen := false, inBuf := false, f := flitOf (flit 2 1) }
     let s := fun n => linked (fun p => { p with sent := [r], replays := n })
     ((s 2).toHw.port 0).up = true ∧ ((s 2).toHw.port 0).sent ≠ [] ∧ ((s 2).toHw.port 0).replays < 3 ∧ 3 ≤ ((s 3).toHw.port 0).replays)
    ∧ ((linked id).toHw.port 1).up = false ∧ ((linked id).upd (fun h => { h with boot := { ({} : Boot) with stage := 3 } })).toHw.linksUp 1 = true
    ∧ (linked id).toHw.linksUp 1 = false
    ∧ ({ idleFlit with payload := List.replicate 224 0 } : Flit).payload.length = 224 := by decide +kernel

/-- The module at a stage of its bring-up. -/
def staged (f : Boot → Boot) : State := State.reset.upd (fun h => { h with boot := f { ({} : Boot) with on := true } })

/-- A ring descriptor write: 2 slots of 256 bytes at BASE 32766 (the last that fits in 8 MiB), owner 5, V. -/
def ringWrite : BitVec 128 := 2#128 <<< 48 ||| 32766#128 <<< 25 ||| 5#128 <<< 4 ||| 1#128

theorem witness_ManagementAndBringUp :
    (let s := fun (l : Launch) => (world {} l).upd (fun h => { h with rings := [(ringKey 1 3, { ring0 with owner := 5, v := true })] })
     ringWrite.getLsbD 0 = true ∧ (State.reset.toHw.ring 1 3).v = false
       ∧ ((s launch5).toHw.ring 1 3).v = true ∧ ((s launch5).toHw.launch? ((s launch5).toHw.ring 1 3).owner.toNat).isSome = true)
    ∧ (let w : Ring := { nslot := ringWrite.extractLsb' 48 16, slog := ringWrite.extractLsb' 44 4, base := ringWrite.extractLsb' 25 15, owner := ringWrite.extractLsb' 4 16, v := true }
       w.nslot.toNat ≠ 0 ∧ w.nslot.toNat ≤ 32768 ∧ w.slog.toNat ≤ 8 ∧ w.fin = 2 ^ 23 ∧ State.reset.rings = [])
    ∧ ((⟨0, 0⟩ : CoreId).ok = true ∧ (List.replicate 8 (0 : Byte)).length = 8 ∧ (63 : Fin 64).val ≠ 0 ∧ (State.reset.toHw.core ⟨0, 0⟩).task = none
       ∧ ((here { ({} : Core) with task := some {}, stopped := true }).toHw.core ⟨0, 0⟩).stopped = true
       ∧ ((here { ({} : Core) with task := some {} }).toHw.core ⟨0, 0⟩).task ≠ none
       ∧ ((here { ({} : Core) with task := some {} }).toHw.core ⟨0, 0⟩).stopped = false)
    ∧ (¬(staged (fun b => { b with stage := 3 })).boot.stage < 3 ∧ (1 : BitVec 64).toNat % 2 ^ 20 ≠ 0 ∧ (staged id).boot.stage < 3 ∧ (staged id).boot.on = true ∧ (staged id).boot.stage = 0
       ∧ State.reset.boot.on = false)
    ∧ (let s := staged (fun b => { b with stage := 1 })
       s.boot.stage = 1 ∧ s.boot.recov = false ∧ chooseImage s.boot.imgA s.boot.imgB = none)
    ∧ (∀ need, let s := staged (fun b => { b with stage := 2, needRec := need })
        s.boot.on = true ∧ s.boot.stage = 2 ∧ s.boot.needRec = need)
    ∧ (staged (fun b => { b with stage := 4 })).boot.stage = 4 ∧ imageCopyOk (bytesFrom 0 ((staged id).boot.ram.filter (fun e => decide (0 ≤ e.1)))) = false ∧ (staged (fun b => { b with recovery := true })).boot.recovery = true
    ∧ State.reset.toHw.isleHeld 675 = false ∧ State.reset.toHw.isleIdle 675 = true
    ∧ (world { ({} : Core) with task := some {} } launch5).toHw.isleIdle 0 = false ∧ (world {} launch5).toHw.isleHeld 0 = true
    ∧ (staged (fun b => { b with stage := 3 })).toHw.linksUp 127 = true ∧ ((staged id).toHw.port 127).up = false
    ∧ (let s := State.reset.upd (fun h => h.setIsle 0 { inService := true, transit := true, ports := 15, gated := true })
       (s.toHw.isle 0).gated = true ∧ s.toHw.holderOf 0 = none) := by decide +kernel

/-- The module at stage 4 with these slices trained, these causeways at full width and these Strait ports live. -/
def stage4 (x : List Nat × List Nat × List Nat) : State :=
  (staged (fun b => { b with stage := 4 })).upd (fun h => { h with
    slices := x.1.map (fun n => (n, { ({} : Slice) with trained := true })), cwFull := x.2.1
    ports := x.2.2.map (fun n => (n, { ({} : Port) with up := true })) })

theorem stage4_over (xs ys zs : List Nat) (hx : ∀ n, n < 108160 → n ∈ xs) (hy : ∀ n, n < 2704 → n ∈ ys) (hz : ∀ n, n < 128 → n ∈ zs) :
    (stage4 (xs, ys, zs)).toHw.backgroundOver = true := by
  let s := stage4 (xs, ys, zs)
  have hs : ∀ i j, i < 676 → j < 160 → (s.toHw.slice i j).trained = true := by
    intro i j hi hj
    have h := tabGet_const ({ interval := s.cfg.interval } : Slice) { ({} : Slice) with trained := true } xs (sliceKey i j)
      (hx _ (by simp only [sliceKey]; omega))
    exact congrArg Slice.trained h
  have hc : ∀ n, n < 2704 → setHas s.cwFull n = true := fun n hn => List.elem_eq_true_of_mem (hy n hn)
  have hp : ∀ n, n < 128 → (s.toHw.port n).up = true := fun n hn =>
    congrArg Port.up (tabGet_const ({} : Port) { ({} : Port) with up := true } zs n (hz n hn))
  simp only [Hw.backgroundOver, Bool.and_eq_true, List.all_eq_true, List.mem_range, Bool.or_eq_true]
  exact ⟨⟨⟨⟨fun i hi => .inr (fun j hj => hs i j hi hj), fun n hn => .inr (hc n hn)⟩, fun n hn => .inr (hp n hn)⟩,
    fun e he => absurd (show e ∈ ([] : List (Nat × Arr)) from he) List.not_mem_nil⟩,
    fun e he => absurd (show e ∈ ([] : List (Nat × Core)) from he) List.not_mem_nil⟩

theorem witness_ManagementAndBringUp_stage4 :
    (∃ x, (stage4 x).toHw.backgroundOver = true) ∧ (stage4 ([], [], [])).toHw.backgroundOver = false :=
  ⟨⟨_, stage4_over _ _ _ (fun n hn => List.mem_range.mpr hn) (fun n hn => List.mem_range.mpr hn) fun n hn => List.mem_range.mpr hn⟩,
    by decide +kernel⟩

end Sys2Proof.Tests
end

section
/-! SUPPORT. Every act, and so every step, keeps memory in its canonical form (R4, R82, R101, R141). -/

namespace Sys2Proof.Machine

/-- One act keeps memory in its canonical form: an issue, a core's clock, an event, or an event that names no unit. -/
theorem State.act_ok {s : State} (hok : s.Inv) (a : Act) : OutOk (s.act a) := by
  cases a with
  | issue co e => exact State.issue_ok hok co e
  | clock co => exact out_next (State.upd_ok hok _ fun _ w => Hw.clock_ok w co)
  | event i =>
    rw [State.act]
    split
    · exact exec_ok i hok
    · exact out_next hok

/-- Whether the act comes from the agenda or from a free choice, the step is that act on a state with the same memory. -/
theorem step_ok {s : State} (hok : s.Inv) : OutOk (step s) := by
  rw [step]
  split
  · refine State.act_ok ?_ _
    exact hok
  · refine State.act_ok ?_ _
    exact hok

/-- Settles O4, by the invariant of every act: what issues, clocks and events write goes through writes that keep the form. -/
theorem everyStepKeepsMemoryCanonical : Obligations.EveryStepKeepsMemoryCanonical :=
  fun _ t hok h => step_ok hok t h

end Sys2Proof.Machine
end

section
/-! SUPPORT. Neighbour loads: the place that a space-2 address names, the checks of the access, the slot that is taken (R152, R182). -/

namespace Sys2Proof.Machine

/-! ### Bytes of a register -/

theorem leNat_testBit (bs : List Byte) (b i : Nat) (hb : b < bs.length) (hi : i < 8) :
    (leNat bs).testBit (8 * b + i) = bs[b].getLsbD i := by
  induction bs generalizing b with
  | nil => exact absurd hb (Nat.not_lt_zero b)
  | cons x bs ih =>
    rw [leNat, Nat.add_comm x.toNat, show 256 = 2 ^ 8 from rfl, Nat.testBit_two_pow_mul_add _ x.isLt]
    cases b with
    | zero => rw [if_pos (by omega), Nat.mul_zero, Nat.zero_add]; rfl
    | succ b =>
      rw [if_neg (by omega), show 8 * (b + 1) + i - 8 = 8 * b + i by omega]
      exact ih b (Nat.lt_of_succ_lt_succ hb)

/-- Byte b of a register that holds a memory image is byte b of the image (R42). -/
theorem byte_vbitsOfBytes (bs : List Byte) (b : Nat) (hb : b < bs.length) (h : b < 128) :
    (vbitsOfBytes bs).extractLsb' (8 * b) 8 = bs[b] := by
  apply BitVec.eq_of_getLsbD_eq
  intro i hi
  rw [BitVec.getLsbD_extractLsb', vbitsOfBytes, BitVec.getLsbD_ofNat, leNat_testBit bs b i hb hi]
  simp only [hi, decide_true, Bool.true_and, show 8 * b + i < 1024 by omega]

theorem byte_vbitsOfBytes_bytes (h : Hw) (k n b : Nat) (hb : b < n) (hn : n ≤ 128) :
    (vbitsOfBytes (h.bytes k n)).extractLsb' (8 * b) 8 = memRead h.mem (k + b) := by
  have hlen : b < (h.bytes k n).length := by simpa [Hw.bytes, memReadN] using hb
  rw [byte_vbitsOfBytes _ b hlen (by omega)]
  simp [Hw.bytes, memReadN]

/-! ### Addresses and capability checks -/

theorem State.mAddr_ok {s : State} {cb : BitVec 4} {x : BitVec 6} {sc : BitVec 3} {off : BitVec 32} (h : (s.g x).psn = false) :
    s.mAddr cb x sc off = .ok (((s.c cb).cursor : Int) + off.toInt + (s.g x).bits.toInt * 2 ^ sc.toNat) := by
  rw [State.mAddr, State.gUse_ok h, ok_bind]

/-- An access that R81 allows passes steps 1 to 4 of its check. -/
theorem checkCap_ok {x : CReg} {spaces : List Nat} {need : BitVec 12} {ea : Int} {n : Nat} (h : x.Allows spaces need ea n) (reg : Nat) :
    checkCap reg x spaces need ea n = .ok () := by
  obtain ⟨htag, hspace, hperm, hbase, htop⟩ := h
  rw [checkCap, checkUse, trapIf_false (by simp [htag]), ok_bind, trapIf_false (by simp [hspace]), ok_bind,
    trapIf_false (by simp [hperm]), ok_bind, trapIf_false (by simp [hbase, htop])]

/-- The space-2 address of an offset of a core names that core and offset (R78). -/
theorem remotePlace_eq {isle core o : Nat} (hc : core < 2 ^ 11) (ho : o < 2 ^ 21) :
    remotePlace (isle * 2 ^ 32 + core * 2 ^ 21 + o) = (⟨isle, core⟩, o) := by
  simp only [remotePlace, Prod.mk.injEq, CoreId.mk.injEq]
  omega

/-! ### Taking a landing slot -/

/-- The free number that is found is the lowest one. -/
theorem tabFree_eq_some {α : Type} {t : Tab α} {n i : Nat} :
    tabFree t n = some i ↔ i < n ∧ tabFind t i = none ∧ ∀ j, j < i → tabFind t j ≠ none := by
  simp only [tabFree, List.find?_range_eq_some, List.mem_range, Option.isNone_iff_eq_none, Bool.not_eq_true',
    Option.isNone_eq_false_iff, Option.isSome_iff_ne_none]
  tauto

theorem tabFree_eq_none {α : Type} {t : Tab α} {n : Nat} : tabFree t n = none ↔ ∀ i, i < n → tabFind t i ≠ none := by
  simp [tabFree]

/-- While a slot is free, the lowest free one is taken for the result, and the issuing core alone differs (R182). -/
theorem State.takeSlot_of_free {s : State} (hfree : s.SlotFree) {y : LSlot} {p : LSlot → Prop} (heng : y.eng = s.ix.eng)
    (harr : y.arrived = false) (hp : ∀ ord, p { y with ord := ord }) : TakesSlot s p (settle s (s.takeSlot y)) := by
  obtain ⟨j, hj, hnone⟩ := hfree
  cases hi : tabFree s.here.slots 32 with
  | none => exact absurd hnone (tabFree_eq_none.mp hi j hj)
  | some i =>
    obtain ⟨hlt, hfind, hleast⟩ := tabFree_eq_some.mp hi
    rw [State.takeSlot, hi]
    exact ⟨i, _, hlt, hfind, hleast, becomes_onHere s _, heng, harr, hp _⟩

/-- With no slot free the group blocks (R182). -/
theorem State.takeSlot_of_full {s : State} (hfull : ¬s.SlotFree) (y : LSlot) : s.takeSlot y = .error .block := by
  have hnone : tabFree s.here.slots 32 = none := tabFree_eq_none.mpr fun i hi hf => hfull ⟨i, hi, hf⟩
  rw [State.takeSlot, hnone]

/-! ### Loads of a neighbour -/

/-- The `n` bytes that a space-2 access of the M format names, at offset `o` of a core of the own isle, pass R81 up to bounds. -/
def State.NamesCore (s : State) (cb : BitVec 4) (x : BitVec 6) (sc : BitVec 3) (off : BitVec 32) (core o n : Nat) : Prop :=
  let ea : Int := ((s.c cb).cursor : Int) + off.toInt + (s.g x).bits.toInt * 2 ^ sc.toNat
  (s.g x).psn = false ∧ core < 2 ^ 11 ∧ o < 2 ^ 21 ∧ ea = s.ix.co.isle * 2 ^ 32 + core * 2 ^ 21 + o ∧ (s.c cb).Allows [2] pLd ea n

/-- The core and offset are a place that `n` bytes can be loaded from: a core of the own insula, in service, within its memory. -/
def State.reachesNear (s : State) (core o n : Nat) : Bool :=
  CoreId.ins ⟨s.ix.co.isle, core⟩ == CoreId.ins s.ix.co && s.toHw.coreInService ⟨s.ix.co.isle, core⟩ && decide (o + n ≤ 2 ^ 19)

/-- The landing slot of a load of a neighbour, its bytes read as the group commits (R152, log entry 22). -/
def State.nearSlot (s : State) (kind : LandKind) (d : BitVec 6) (land : BitVec 6) (core o : Nat) : LSlot :=
  ({ s.newSlot kind d.toNat land.toNat with target := core, off := o } : LSlot).reads s.toHw s.ix.co.isle

section
variable {s : State} {d x : BitVec 6} {cb : BitVec 4} {sc : BitVec 3} {off : BitVec 32} {land : BitVec 6} {core o n : Nat}

/-- A load of a neighbour, once R81 allows the address: target, alignment, slot. -/
theorem loadNeighbour_eq (hn : s.NamesCore cb x sc off core o n) (kind : LandKind) :
    loadNeighbour kind d cb x sc off land n s =
      settle s (do
        trapIf (!s.reachesNear core o n) 0x13 (s.ix.co.isle * 2 ^ 32 + core * 2 ^ 21 + o) (capDetail cb.toNat n (s.c cb))
        trapIf (o % n.min 16 != 0) 0x11 (s.ix.co.isle * 2 ^ 32 + core * 2 ^ 21 + o) (capDetail cb.toNat n (s.c cb))
        s.takeSlot (s.nearSlot kind d land core o)) := by
  obtain ⟨hpsn, hcore, ho, hea, hallow⟩ := hn
  have hplace : remotePlace (s.ix.co.isle * 2 ^ 32 + core * 2 ^ 21 + o) = (⟨s.ix.co.isle, core⟩, o) := remotePlace_eq hcore ho
  have hnat : ((s.ix.co.isle * 2 ^ 32 + core * 2 ^ 21 + o : Int)).toNat = s.ix.co.isle * 2 ^ 32 + core * 2 ^ 21 + o := by omega
  rw [loadNeighbour, State.mAddr_ok hpsn, ok_bind, checkCap_ok hallow, ok_bind, hea, hnat]
  simp only [hplace, beq_self_eq_true, Bool.true_and]
  rfl

/-- A core of another insula or out of service raises 0x13 (R80, R152). -/
theorem loadNeighbour_elsewhere (hn : s.NamesCore cb x sc off core o n) (kind : LandKind)
    (h : core / 4 ≠ s.ix.co.core / 4 ∨ s.toHw.coreInService ⟨s.ix.co.isle, core⟩ = false) :
    Traps s 0x13 (loadNeighbour kind d cb x sc off land n s) := by
  have hfar : s.reachesNear core o n = false := by
    rcases h with h | h
    · simp [State.reachesNear, CoreId.ins, h]
    · simp [State.reachesNear, h]
  rw [loadNeighbour_eq hn, trapIf_true (by rw [hfar]; rfl)]
  exact traps_settle_bind s _ _ _ _

/-- An aligned load of a core of the insula comes to taking its slot. -/
theorem loadNeighbour_near (hn : s.NamesCore cb x sc off core o n) (kind : LandKind) (hins : core / 4 = s.ix.co.core / 4)
    (hserv : s.toHw.coreInService ⟨s.ix.co.isle, core⟩ = true) (hin : o + n ≤ 2 ^ 19) (hal : o % n.min 16 = 0) :
    loadNeighbour kind d cb x sc off land n s = settle s (s.takeSlot (s.nearSlot kind d land core o)) := by
  have hnear : s.reachesNear core o n = true := by
    simp only [State.reachesNear, CoreId.ins, hins, hserv, hin, beq_self_eq_true, decide_true, Bool.and_self]
  rw [loadNeighbour_eq hn, trapIf_false (by rw [hnear]; rfl), ok_bind, trapIf_false (by simp [hal]), ok_bind]

/-- What the slot of a load holds: where and when it lands, and the bytes that memory holds at commit. -/
theorem State.takeSlot_nearSlot (hfree : s.SlotFree) {kind : LandKind} (hsize : n = if kind = .ldn then 8 else 128) :
    TakesSlot s (fun y => y.kind = kind ∧ y.dest = d.toNat ∧ y.due = s.here.cyc + land.toNat
        ∧ ∃ v, y.regs = [v] ∧ ∀ b, b < n → v.bits.extractLsb' (8 * b) 8 = memRead s.mem (localKey ⟨s.ix.co.isle, core⟩ o + b))
      (settle s (s.takeSlot (s.nearSlot kind d land core o))) := by
  refine State.takeSlot_of_free hfree rfl rfl fun _ => ⟨rfl, rfl, rfl, _, rfl, fun b hb => ?_⟩
  have hn : n ≤ 128 := by rw [hsize]; split <;> decide
  exact byte_vbitsOfBytes_bytes s.toHw _ _ b (hsize ▸ hb) (hsize ▸ hn)

end

/-- Settles O33: the checks of R81 and R152 in their order, then the slot of R182. That the bytes are read as the group commits
is the model's choice (R152, log entry 22). -/
theorem neighbourLoads : Obligations.NeighbourLoads := by
  intro s d x cb sc off land core o other ea names near lands
  refine ⟨?_, ?_, ?_, ?_, fun hn h => loadNeighbour_elsewhere hn .vldn h, fun hn h => loadNeighbour_elsewhere hn .ldn h⟩
  · rintro hfree hn ⟨hins, hserv, hin, hal⟩
    rw [exec_ldn, execLdn, loadNeighbour_near hn .ldn hins hserv hin hal]
    exact State.takeSlot_nearSlot hfree rfl
  · rintro hfree hn ⟨hins, hserv, hin, hal⟩
    rw [exec_vldn, execVldn, loadNeighbour_near hn .vldn hins hserv hin hal]
    exact State.takeSlot_nearSlot hfree rfl
  · rintro hfull hn ⟨hins, hserv, hin, hal⟩
    rw [exec_ldn, execLdn, loadNeighbour_near hn .ldn hins hserv hin hal, State.takeSlot_of_full hfull]
    exact blocks_settle s
  · rintro hfull hn ⟨hins, hserv, hin, hal⟩
    rw [exec_vldn, execVldn, loadNeighbour_near hn .vldn hins hserv hin hal, State.takeSlot_of_full hfull]
    exact blocks_settle s

end Sys2Proof.Machine
end

section
/-! SUPPORT. The clock of a running core, and a group of one word: its fetch, its decode, its slot, its commit (R54-R67). -/

namespace Sys2Proof.Machine

/-! ### The clock of a core -/

/-- Neighbour reads of a clock change the core alone (R152). -/
theorem Hw.rereads_eq_or (h : Hw) (co : CoreId) : h.rereads co = h ∨ ∃ k, h.rereads co = h.setCore co k := by
  rw [Hw.rereads]
  split
  · exact .inr ⟨_, rfl⟩
  · exact .inl rfl

/-- A core with no neighbour read to come is read no more (R152). -/
theorem Hw.rereads_of_none {h : Hw} {co : CoreId} (hno : ∀ y ∈ (h.core co).slots, y.2.kind ≠ .ldn ∧ y.2.kind ≠ .vldn) :
    h.rereads co = h := by
  have hany : (h.core co).slots.any (fun y => y.2.kind == .ldn || y.2.kind == .vldn) = false := by
    rw [List.any_eq_false]
    intro y hy
    simp [hno y hy]
  rw [Hw.rereads, if_neg (by rw [hany]; exact Bool.false_ne_true)]

/-- A core that is neither stopped nor frozen and has no landing due starts its next cycle (R7, R21). -/
theorem Hw.clock_running {h : Hw} {co : CoreId} (hstop : ((h.rereads co).core co).stopped = false)
    (hfroz : ((h.rereads co).core co).frozen = false) (hland : ((h.rereads co).core co).landDue = false) :
    h.clock co = ((h.rereads co).onCore co (fun k => { k with recs := 0 })).setCore co
      { (h.rereads co).core co with recs := 0 }.tickOn := by
  simp only [Hw.clock, Hw.core_onCore]
  exact (if_neg (ne_true_of_eq_false hstop)).trans
    ((if_neg (ne_true_of_eq_false hfroz)).trans (if_neg (ne_true_of_eq_false hland)))

theorem clock_running_coreIs {s : State} {co : CoreId} (hstop : ((s.toHw.rereads co).core co).stopped = false)
    (hfroz : ((s.toHw.rereads co).core co).frozen = false) (hland : ((s.toHw.rereads co).core co).landDue = false) :
    CoreIs s co { (s.toHw.rereads co).core co with recs := 0 }.tickOn (.next (s.upd (fun h => h.clock co))) := by
  show CoreIs s co _ (.next { s with toHw := s.toHw.clock co })
  rw [Hw.clock_running hstop hfroz hland]
  refine ⟨_, rfl, ?_, Hw.core_setCore _ _ _, fun d hd => ?_, fun _ => ?_⟩ <;>
    rcases s.toHw.rereads_eq_or co with h | ⟨k, h⟩ <;> rw [h]
  case refine_2.inl => exact (Hw.core_setCore_other _ _ hd).trans (Hw.core_setCore_other _ _ hd)
  case refine_2.inr =>
    exact ((Hw.core_setCore_other _ _ hd).trans (Hw.core_setCore_other _ _ hd)).trans (Hw.core_setCore_other _ _ hd)
  all_goals rfl

/-! ### A group of one word -/

theorem Eng.fetchGroup_one {g : Eng} {x : Sect} (hin : g.pc.toNat + 12 ≤ x.hdr + 8 + 12 * x.len)
    (hok : g.fetchOk g.pc.toNat 12 = true) (hstop : (g.word g.pc.toNat).getLsbD 95 = true) :
    g.fetchGroup x = { words := [g.word g.pc.toNat] } := by
  obtain ⟨n, hn⟩ : ∃ n, (x.hdr + 8 + 12 * x.len - g.pc.toNat) / 12 = n + 1 := ⟨_, (Nat.sub_add_cancel (by omega)).symm⟩
  rw [Eng.fetchGroup, hn, Eng.fetchFrom]
  simp only [hok, hstop, Bool.not_true, Bool.false_eq_true, if_false, if_true]

theorem decodeFor_none {e : EngId} {lm : Bool} {w : BitVec 96} (h : decodeWord w = none) : decodeFor e lm w = none := by
  rw [decodeFor, h]; rfl

theorem decodeFor_some {e : EngId} {lm : Bool} {w : BitVec 96} {n : Insn} (h : decodeWord w = some n)
    (hbad : encodingBad e lm n.op = false) : decodeFor e lm w = some n := by
  rw [decodeFor, h]; simp [Option.filter, hbad]

theorem decodeGroup_one_none {e : EngId} {lm : Bool} {w : BitVec 96} (h : decodeFor e lm w = none) :
    decodeGroup e lm 0 [w] = .error (0, w) := by
  simp only [decodeGroup, h]; rfl

theorem decodeGroup_one_some {e : EngId} {lm : Bool} {w : BitVec 96} {n : Insn} (h : decodeFor e lm w = some n) :
    decodeGroup e lm 0 [w] = .ok [(w, n)] := by
  simp only [decodeGroup, h]

/-- An instruction alone breaks no rule of its group (R63, R64). -/
theorem groupBreach_one (e : EngId) (f : Nat) (n : Insn) : groupBreach e f 0 [] [n] = none := by
  simp [groupBreach]

/-- A group of one instruction takes one issue cycle (R66). -/
theorem extraCycles_one (e : EngId) (op : Nat) : extraCycles e [op] = 0 := by
  cases e <;> rfl

/-- The engine may issue, stands in its entered section at a word of it that it may fetch, with the stop bit, and neither a
transfer nor a repetition is to be followed. -/
structure State.AtWord (s : State) (co : CoreId) (e : EngId) (x : Sect) : Prop where
  ready : s.toHw.ready co e = true
  pend : ((s.toHw.core co).eng e).pend = none
  sec : ((s.toHw.core co).eng e).sec = some x
  entered : x.entered = true
  xfer : ((s.toHw.core co).eng e).xfer = none
  rep : ((s.toHw.core co).eng e).rep = none
  inSect : ((s.toHw.core co).eng e).pc.toNat + 12 ≤ x.hdr + 8 + 12 * x.len
  fetch : ((s.toHw.core co).eng e).fetchOk ((s.toHw.core co).eng e).pc.toNat 12 = true
  stop : (((s.toHw.core co).eng e).word ((s.toHw.core co).eng e).pc.toNat).getLsbD 95 = true

section
variable {s : State} {co : CoreId} {e : EngId} {x : Sect}

theorem State.AtWord.fetchGroup (a : s.AtWord co e x) : ((s.toHw.core co).eng e).fetchGroup x =
    { words := [((s.toHw.core co).eng e).word ((s.toHw.core co).eng e).pc.toNat] } :=
  Eng.fetchGroup_one a.inSect a.fetch a.stop

theorem State.AtWord.issue_eq (a : s.AtWord co e x) : s.issue co e = s.issueAt co e x := by
  simp only [State.issue, State.issueNext, a.ready, a.pend, a.sec, a.entered, a.xfer, Bool.not_true, Bool.false_eq_true, if_false]

/-- The record of an illegal encoding gives the word (R67, R363). -/
theorem State.decodeTrap_illegal (s : State) (co : CoreId) (e : EngId) (pc slot : Nat) (w : BitVec 96) :
    s.decodeTrap co e 0x01 pc slot w =
      s.upd (fun h => h.engTrap co e (fetchRec co e ((s.toHw.core co).eng e) 0x01 pc slot false (wordDetail w))) := by
  simp only [State.decodeTrap, State.upd, true_or, if_true]

/-- A word that does not decode raises 0x01 (R60, R67). -/
theorem State.AtWord.issue_illegal (a : s.AtWord co e x)
    (h : decodeWord (((s.toHw.core co).eng e).word ((s.toHw.core co).eng e).pc.toNat) = none) :
    EngStops s co e 0x01 (s.issue co e) := by
  refine ⟨fetchRec co e ((s.toHw.core co).eng e) 0x01 ((s.toHw.core co).eng e).pc.toNat 0 false
    (wordDetail (((s.toHw.core co).eng e).word ((s.toHw.core co).eng e).pc.toNat)), rfl, ?_⟩
  simp only [a.issue_eq, State.issueAt, a.fetchGroup, decodeGroup_one_none (decodeFor_none h), State.decodeTrap_illegal]

/-- A word that decodes and breaks no rule issues as a group of its own (R63-R65). -/
theorem State.AtWord.issue_word (a : s.AtWord co e x) {n : Insn}
    (h : decodeWord (((s.toHw.core co).eng e).word ((s.toHw.core co).eng e).pc.toNat) = some n)
    (hbad : encodingBad e ((s.toHw.core co).task.getD {}).loopmode n.op = false) :
    s.issue co e = s.issueWords co e x [(((s.toHw.core co).eng e).word ((s.toHw.core co).eng e).pc.toNat, n)] none := by
  simp only [a.issue_eq, State.issueAt, a.fetchGroup, decodeGroup_one_some (decodeFor_some h hbad)]
  simp [groupBreach_one, a.rep]

end

/-! ### The slot of a group of one word -/

/-- The state on which a word acts that issues as a group of its own: the place of the issue, before any slot (R65). -/
def State.wordIssue (s : State) (co : CoreId) (e : EngId) (w : BitVec 96) (n : Insn) : State :=
  (s.upd (fun h => h.onEng co e (fun g => { g with dbarHold := [] }))).issueOf co e [(w, n)] none 0

/-- That state as the word's slot sees it: the word stands in the issue record (R363). -/
def State.slotState (s : State) (co : CoreId) (e : EngId) (w : BitVec 96) (n : Insn) : State :=
  { s.wordIssue co e w n with ix := { (s.wordIssue co e w n).ix with word := w } }

section
variable {s : State} {co : CoreId} {e : EngId} {x : Sect} {w : BitVec 96} {n : Insn}

@[simp] theorem State.wordIssue_core : ((s.wordIssue co e w n).toHw.core co) =
    (s.toHw.core co).setEng e { (s.toHw.core co).eng e with dbarHold := [] } := Hw.core_onCore _ _ _

theorem State.slotState_eng : ((s.slotState co e w n).toHw.core co).eng e = { (s.toHw.core co).eng e with dbarHold := [] } :=
  (congrArg (Core.eng · e) (State.wordIssue_core (w := w) (n := n))).trans (Core.eng_setEng _ _ _)

/-- The extents that an engine holds do not hang on its barriers. -/
theorem State.wordIssue_frozenExtents : (s.wordIssue co e w n).toHw.frozenExtents co e = s.toHw.frozenExtents co e := by
  simp only [Hw.frozenExtents, State.wordIssue_core, Core.setEng_slots]; rfl

/-- A group of one word that no landing or status to come holds runs its slot (R65, R66, R243). -/
theorem State.issueWords_one (hpend : ((s.toHw.core co).eng e).pend = none)
    (hfree : (s.slotState co e w n).guardTrue n = true →
      usesHeld ((s.toHw.core co).heldRegs e) e (s.toHw.core co).cu.ftidx.toNat n.op = false) :
    s.issueWords co e x [(w, n)] none = (s.wordIssue co e w n).runGroup x [(w, n)] false := by
  have hany : [(w, n)].any (fun y => (s.wordIssue co e w n).guardTrue y.2
      && usesHeld ((s.toHw.core co).heldRegs e) e (s.toHw.core co).cu.ftidx.toNat y.2.op) = false := by
    rw [List.any_cons, List.any_nil, Bool.or_false, Bool.and_eq_false_imp]
    exact hfree
  simp only [State.issueWords, hpend, List.map_cons, List.map_nil, extraCycles_one]
  exact if_neg (ne_true_of_eq_false hany)

/-- A group of one word that names a register of a landing or status to come stays unpresented (R243, R266, log entry 116). -/
theorem State.issueWords_one_held (hpend : ((s.toHw.core co).eng e).pend = none)
    (hguard : (s.slotState co e w n).guardTrue n = true)
    (hheld : usesHeld ((s.toHw.core co).heldRegs e) e (s.toHw.core co).cu.ftidx.toNat n.op = true) :
    s.issueWords co e x [(w, n)] none = .next s := by
  have hany : [(w, n)].any (fun y => (s.wordIssue co e w n).guardTrue y.2
      && usesHeld ((s.toHw.core co).heldRegs e) e (s.toHw.core co).cu.ftidx.toNat y.2.op) = true := by
    rw [List.any_cons, List.any_nil, Bool.or_false, Bool.and_eq_true]
    exact ⟨hguard, hheld⟩
  simp only [State.issueWords, hpend, List.map_cons, List.map_nil, extraCycles_one]
  exact if_pos hany

/-- The slot of a group of one word ends the group's walk. -/
theorem State.runGroup_one {u : State} {b : Bool} (h : s.runSlot 0 w n = .next u) :
    s.runGroup x [(w, n)] b = .next (s.finish u x [(w, n)] b) := by
  have hwalk : runSlots 0 [(w, n)] s = .next u := by
    rw [runSlots, h]
    exact ite_self _
  rw [State.runGroup, hwalk]

/-- A poisoned guard raises 0x31 (R304). -/
theorem State.runSlot_poison (h : ((s.slotState co e w n).p n.gp).psn = true) :
    (s.wordIssue co e w n).runSlot 0 w n =
      .next ((s.slotState co e w n).raise { code := 0x31, detail := poisonDetail 1 n.gp.toNat }) := if_pos h

/-- A false guard does nothing (R59). -/
theorem State.runSlot_false (hpsn : ((s.slotState co e w n).p n.gp).psn = false)
    (h : (s.slotState co e w n).guardTrue n = false) :
    (s.wordIssue co e w n).runSlot 0 w n = .next (s.slotState co e w n) :=
  (if_neg (ne_true_of_eq_false hpsn)).trans (if_neg (ne_true_of_eq_false h))

/-- A true guard runs the instruction, which only an uncorrectable error of a cell may then stop (R59, R144). -/
theorem State.runSlot_true (hpsn : ((s.slotState co e w n).p n.gp).psn = false)
    (h : (s.slotState co e w n).guardTrue n = true) {u : State} (hexec : exec n.op (s.slotState co e w n) = .next u) :
    ∃ v, (s.wordIssue co e w n).runSlot 0 w n = .next v ∧ (s.toHw.cellErrs = [] → v = u) := by
  have hrun : (s.wordIssue co e w n).runSlot 0 w n =
      match (if s.toHw.cellErrs.isEmpty || u.ix.trap.isSome || u.ix.blocked then none
        else (s.slotState co e w n).cellMet n.op) with
      | some t => .next ((s.slotState co e w n).raise t)
      | none => .next u := by
    refine ((if_neg (ne_true_of_eq_false hpsn)).trans (if_pos h)).trans ?_
    change (match exec n.op (s.slotState co e w n) with | .next u => _ | o => o) = _
    rw [hexec]
    rfl
  rw [hrun]
  split
  · next t ht =>
    refine ⟨_, rfl, fun he => ?_⟩
    simp [he] at ht
  · exact ⟨u, rfl, fun _ => rfl⟩

end

/-! ### The commit of a group of one word -/

/-- Engine `e` of core `co` has passed one word: its registers are as `u` has them, and so are the core's files, memory and
every other core. -/
def State.PassesWord (u t : State) (co : CoreId) (e : EngId) : Prop :=
  let a := (u.toHw.core co).eng e
  let b := (t.toHw.core co).eng e
  b.pc = a.pc + 12 ∧ b.g = a.g ∧ b.c = a.c ∧ b.p = a.p ∧ b.lc = a.lc ∧ (t.toHw.core co).cu = (u.toHw.core co).cu
    ∧ t.mem = u.mem ∧ ∀ d, CoreId.key d ≠ CoreId.key co → t.toHw.core d = u.toHw.core d

/-- A commit without a transfer or a repetition passes the group's words (R55, R65). -/
theorem Eng.commit_pc (g : Eng) (x : Sect) (last : BitVec 48) (cyc : Nat) (alone : Bool) :
    (g.commit x 1 last none cyc false alone).pc = g.pc + 12 := by
  apply BitVec.eq_of_toNat_eq
  simp [Eng.commit]

@[simp] theorem Core.fixReads_eng (k : Core) (e e' : EngId) (ord n : Nat) : (k.fixReads e ord n).eng e' = k.eng e' := by
  cases e' <;> rfl

/-- A group of one word that nothing stopped commits (R55, R65). -/
theorem State.finish_passesWord {s u : State} {w : BitVec 96} {n : Insn} (x : Sect) (hdelay : s.ix.delay = 0)
    (htrap : u.ix.trap = none) (hblocked : u.ix.blocked = false) (htarget : u.ix.target = none) (hafter : u.ix.after = [])
    (hrobs : u.robs s.ix.co s.ix.eng = false) (htouch : s.touchesHeld u [n] = false) :
    u.PassesWord (s.finish u x [(w, n)] false) s.ix.co s.ix.eng := by
  simp only [State.finish, htrap, hblocked, hrobs, List.map_cons, List.map_nil, htouch, hdelay, htarget, hafter, Bool.or_self,
    Bool.false_eq_true, if_false, ne_eq, not_true_eq_false, List.foldl_nil, List.length_singleton, State.PassesWord]
  refine ⟨?_, ?_, ?_, ?_, ?_, ?_, rfl, fun d hd => Hw.core_setCore_other _ _ hd⟩ <;>
    rw [Hw.core_onCore]
  case refine_1 => rw [Core.fixReads_eng, Core.eng_setEng, Eng.commit_pc]
  case refine_6 => exact Core.setEng_cu _ _ _
  all_goals rw [Core.fixReads_eng, Core.eng_setEng, Eng.commit]

/-- A group that waits for no barrier and no lease leaves no wait behind when it traps. -/
theorem State.dropWaits_one {s : State} {n : Insn} (htb : ∀ a m, n.op ≠ .tbwait a m) (hle : ∀ m, n.op ≠ .lease m) :
    s.dropWaits [n] = s := by
  rw [State.dropWaits, List.foldl_cons, List.foldl_nil]
  split
  · next h => exact absurd h (htb _ _)
  · next h => exact absurd h (hle _)
  · rfl

/-- A group of one word that traps, on no machine fault, leaves the hardware before it but for the trap (R65, R67). -/
theorem State.finish_trap {s u : State} {w : BitVec 96} {n : Insn} {r : TrapRec} (x : Sect) (htrap : u.ix.trap = some r)
    (hcode : r.code ≠ 0x70) (htb : ∀ a m, n.op ≠ .tbwait a m) (hle : ∀ m, n.op ≠ .lease m) :
    (s.finish u x [(w, n)] false).toHw = s.toHw.engTrap s.ix.co s.ix.eng r := by
  simp only [State.finish, htrap, List.map_cons, List.map_nil, State.dropWaits_one htb hle, State.upd_toHw, Hw.noteMachine,
    hcode, if_false]

/-! ### A step of one word -/

section
variable {s : State} {co : CoreId} {e : EngId} {x : Sect} {w : BitVec 96} {n : Insn}

theorem State.issueWords_true (hpend : ((s.toHw.core co).eng e).pend = none)
    (hheld : usesHeld ((s.toHw.core co).heldRegs e) e (s.toHw.core co).cu.ftidx.toNat n.op = false)
    (hpsn : ((s.slotState co e w n).p n.gp).psn = false) (hguard : (s.slotState co e w n).guardTrue n = true) {u : State}
    (hexec : exec n.op (s.slotState co e w n) = .next u) :
    ∃ t, s.issueWords co e x [(w, n)] none = .next t
      ∧ (u.ix.trap = none → u.ix.blocked = false → u.ix.target = none → u.ix.after = [] → u.robs co e = false →
        (s.wordIssue co e w n).touchesHeld u [n] = false → s.toHw.cellErrs = [] → u.PassesWord t co e) := by
  obtain ⟨v, hrun, hv⟩ := State.runSlot_true hpsn hguard hexec
  refine ⟨_, (State.issueWords_one hpend fun _ => hheld).trans (State.runGroup_one hrun), ?_⟩
  intro htrap hblocked htarget hafter hrobs htouch herrs
  rw [hv herrs]
  exact State.finish_passesWord (s := s.wordIssue co e w n) x rfl htrap hblocked htarget hafter hrobs htouch

theorem State.issueWords_poison (hpend : ((s.toHw.core co).eng e).pend = none)
    (hheld : (s.slotState co e w n).guardTrue n = true →
      usesHeld ((s.toHw.core co).heldRegs e) e (s.toHw.core co).cu.ftidx.toNat n.op = false)
    (hpsn : ((s.slotState co e w n).p n.gp).psn = true) (htb : ∀ a m, n.op ≠ .tbwait a m) (hle : ∀ m, n.op ≠ .lease m) :
    ∃ t r, r.code = 0x31 ∧ r.pc = ((s.toHw.core co).eng e).pc ∧ s.issueWords co e x [(w, n)] none = .next t
      ∧ t.toHw = (s.wordIssue co e w n).toHw.engTrap co e r := by
  refine ⟨_, (s.slotState co e w n).record { code := 0x31, detail := poisonDetail 1 n.gp.toNat }, rfl, ?_,
    (State.issueWords_one hpend hheld).trans (State.runGroup_one (State.runSlot_poison hpsn)),
    State.finish_trap (s := s.wordIssue co e w n) x rfl (show (0x31 : Byte) ≠ 0x70 by decide) htb hle⟩
  show (((s.wordIssue co e w n).toHw.core co).eng e).pc = _
  rw [State.wordIssue_core, Core.eng_setEng]

theorem State.issueWords_false (hpend : ((s.toHw.core co).eng e).pend = none)
    (hpsn : ((s.slotState co e w n).p n.gp).psn = false) (hguard : (s.slotState co e w n).guardTrue n = false)
    (hrobs : (s.slotState co e w n).robs co e = false) (hfroz : s.toHw.frozenExtents co e = [])
    (hinc : s.toHw.incomingExtents co e = []) :
    ∃ t, s.issueWords co e x [(w, n)] none = .next t ∧ (s.slotState co e w n).PassesWord t co e := by
  have htouch : (s.wordIssue co e w n).touchesHeld (s.slotState co e w n) [n] = false := by
    have hextents : (s.wordIssue co e w n).toHw.frozenExtents co e ++ (s.wordIssue co e w n).toHw.incomingExtents co e = [] := by
      rw [State.wordIssue_frozenExtents, hfroz]; exact hinc
    rw [State.touchesHeld]
    exact if_pos (List.isEmpty_iff.mpr hextents)
  exact ⟨_, (State.issueWords_one hpend fun h => by rw [hguard] at h; exact absurd h Bool.false_ne_true).trans
      (State.runGroup_one (State.runSlot_false hpsn hguard)),
    State.finish_passesWord (s := s.wordIssue co e w n) x rfl rfl rfl rfl rfl hrobs htouch⟩

end

/-- Settles O5: the agenda's act is run; a word's issue is followed through fetch, decode, slot and commit. That a group held
for a landing or a status to come makes no checks is the model's choice (R243, R266, log entry 116). -/
theorem stepRunsTheDecodedInstruction : Obligations.StepRunsTheDecodedInstruction := by
  intro s rest co e x n s1 k g w s2 s3 kr old
  refine ⟨fun i ha hwf hop => ?_, fun ha hstop hfroz hland => ⟨?_, fun hno => congrArg (Hw.core · co) (Hw.rereads_of_none hno)⟩, ?_⟩
  · have hstep : step s = s1.act (.event i) := by rw [step, ha]
    rw [hstep, State.act, hwf, hop]; rfl
  · have hstep : step s = s1.act (.clock co) := by rw [step, ha]
    rw [hstep]
    exact clock_running_coreIs hstop hfroz hland
  · intro ha hready hpend hsec hent hxfer hrep hin hfetch hstopbit
    have hstep : step s = s1.issue co e := by rw [step, ha]; rfl
    have hat : s1.AtWord co e x := ⟨hready, hpend, hsec, hent, hxfer, hrep, hin, hfetch, hstopbit⟩
    rw [hstep]
    refine ⟨hat.issue_illegal, fun hdec hbad => ?_⟩
    rw [hat.issue_word hdec hbad]
    have hguard : (s1.slotState co e w n).guardTrue n = true ↔ (s3.p n.gp).bit ≠ n.gn := bne_iff_ne
    refine ⟨fun hg hh => State.issueWords_one_held (s := s1) hpend (hguard.mpr hg) hh,
      fun hpsn hg hh u hu => State.issueWords_true (s := s1) hpend hh hpsn (hguard.mpr hg) hu,
      fun hpsn hh htb hle => State.issueWords_poison (s := s1) hpend (fun h => hh (hguard.mp h)) hpsn htb hle,
      fun hpsn hg hrobs hfroz hinc => ?_⟩
    have hfalse : (s1.slotState co e w n).guardTrue n = false :=
      Bool.eq_false_iff.mpr fun h => hguard.mp h hg
    obtain ⟨t, ht, hpc, hgr, _, _, _, _, hmem, _⟩ :=
      State.issueWords_false (s := s1) (x := x) hpend hpsn hfalse hrobs hfroz hinc
    rw [State.slotState_eng] at hpc hgr
    exact ⟨t, ht, hmem, hpc, hgr⟩

end Sys2Proof.Machine
end

section
/-! SUPPORT. One unit of the hardware changed by an act: the unit holds what was put, every other unit what it held; an act that
meets no missing route happens as it stands. -/

namespace Sys2Proof.Machine

/-! ### Other units -/

theorem Hw.arr_setArr_other (h : Hw) {isle ins i n : Nat} (a : Arr) (d : arrKey i n ≠ arrKey isle ins) :
    (h.setArr isle ins a).arr i n = h.arr i n := tabGet_put_other _ _ d _

theorem Hw.isle_setIsle_other (h : Hw) {isle i : Nat} (x : Isle) (d : i ≠ isle) : (h.setIsle isle x).isle i = h.isle i :=
  tabGet_put_other _ _ d _

theorem Hw.slice_onSlice_other (h : Hw) {site slice i n : Nat} (f : Slice → Slice) (d : sliceKey i n ≠ sliceKey site slice) :
    (h.onSlice site slice f).slice i n = h.slice i n := tabGet_put_other _ _ d _

/-! ### What becomes of one unit -/

theorem coreIs_onCore (s : State) (co : CoreId) (f : Core → Core) :
    CoreIs s co (f (s.toHw.core co)) (.next (s.upd (fun h => h.onCore co f))) :=
  ⟨_, rfl, rfl, Hw.core_onCore _ _ _, fun _ d => Hw.core_setCore_other _ _ d, fun _ => rfl⟩

theorem arrIs_onArr (s : State) (isle ins : Nat) (f : Arr → Arr) :
    ArrIs s isle ins (f (s.toHw.arr isle ins)) (.next (s.upd (fun h => h.onArr isle ins f))) :=
  ⟨_, rfl, rfl, Hw.arr_onArr _ _ _ _, fun _ _ d => Hw.arr_setArr_other _ _ d⟩

theorem isleIs_onIsle (s : State) (isle : Nat) (f : Isle → Isle) :
    IsleIs s isle (f (s.toHw.isle isle)) (.next (s.upd (fun h => h.onIsle isle f))) :=
  ⟨_, rfl, rfl, Hw.isle_onIsle _ _ _, fun _ d => Hw.isle_setIsle_other _ _ d⟩

theorem sliceIs_onSlice (s : State) (site slice : Nat) (f : Slice → Slice) :
    SliceIs s site slice (f (s.toHw.slice site slice)) (.next (s.upd (fun h => h.onSlice site slice f))) :=
  ⟨_, rfl, rfl, Hw.slice_onSlice _ _ _ _, fun _ _ d => Hw.slice_onSlice_other _ _ d⟩

theorem CoreIs.congr {s : State} {co : CoreId} {k k' : Core} {o : Out} (w : CoreIs s co k o) (h : k = k') : CoreIs s co k' o := h ▸ w

theorem ArrIs.congr {s : State} {isle ins : Nat} {a a' : Arr} {o : Out} (w : ArrIs s isle ins a o) (h : a = a') :
    ArrIs s isle ins a' o := h ▸ w

/-! ### Acts that need routes -/

/-- An act no access of which waits for a route happens as a whole (R15, log entry 107). -/
theorem State.attempt_of_routed {s : State} {f : Hw → Hw} (h : (f s.toHw.atRest).stall = false) :
    s.attempt f = { s with toHw := { f s.toHw.atRest with stall := s.toHw.stall } } := by
  simp only [State.attempt, h, Bool.false_eq_true, if_false]

/-- An act that changes nothing leaves the state. -/
theorem State.attempt_of_unchanged {s : State} {f : Hw → Hw} (h : f s.toHw.atRest = s.toHw.atRest) : s.attempt f = s := by
  rw [State.attempt_of_routed (by rw [h]; rfl), h]; rfl

/-- An act that changes one core without an access on the panel. -/
theorem State.attempt_onCore {s : State} {f : Hw → Hw} {co : CoreId} {g : Core → Core} (h : f s.toHw.atRest = s.toHw.atRest.onCore co g) :
    s.attempt f = s.upd (fun h => h.onCore co g) := by
  rw [State.attempt_of_routed (by rw [h]; rfl), h]; rfl

end Sys2Proof.Machine
end

section
/-! SUPPORT. The state right after reset, and the special registers: what csrr reads, what csrw writes (R70, R368). -/

namespace Sys2Proof.Machine

/-- Settles O1: right after reset every table is empty, so every unit holds what the model gives for an unlisted one. -/
theorem resetState : Obligations.ResetState := by
  refine ⟨rfl, rfl, rfl, rfl, rfl, rfl, fun co => ?core, fun i n => ?arr, fun i => ?isle, fun i n => ?slice, fun i n => ?ring,
    fun q => ?quay, fun p => ?port⟩
  case core => exact ⟨rfl, rfl, rfl, rfl, rfl, rfl, rfl, rfl⟩
  case arr => exact ⟨rfl, rfl, rfl, rfl, fun _ => rfl⟩
  case isle => exact ⟨rfl, rfl, rfl, rfl, fun _ => rfl⟩
  case slice => exact ⟨rfl, rfl, rfl, rfl, rfl⟩
  case ring => exact ⟨rfl, rfl, rfl⟩
  case quay => exact ⟨rfl, rfl, rfl⟩
  case port => exact ⟨rfl, rfl⟩

/-! ### Values of the special registers -/

/-- The bits set of a word are those that a count of its bit numbers finds. -/
theorem popCount_eq_countP {k : Nat} (w : BitVec k) (n : Nat) : popCount w n = (List.range n).countP (fun i => w.getLsbD i) := by
  induction n with
  | zero => rfl
  | succ n ih => rw [popCount, ih, List.range_succ, List.countP_append, List.countP_singleton]

/-- %dqcnt: the entries of the deferral queue, and of each tag in its own field (R179). -/
theorem CUnit.dqcnt_eq_sum (u : CUnit) : u.dqcnt = BitVec.ofNat 64 (u.dq.length
    + ((List.range 4).map (fun i => (u.dq.filter (fun e => e.tag.toNat = i)).length * 2 ^ (9 * i + 9))).sum) := by
  rw [CUnit.dqcnt, List.sum_eq_foldl, List.foldl_map]
  simp only [CUnit.tagCount, Nat.add_comm 9, Bool.beq_eq_decide_eq]

/-- %lease: RUNS, HELD and LEFT (R219). -/
theorem Core.lease_eq (k : Core) :
    k.lease = BitVec.ofNat 64 (k.leaseRuns.toNat * 256 + (if k.leaseHeld then 128 else 0) + k.leaseLeft.toNat) := by
  rw [Core.lease]; cases k.leaseHeld <;> rfl

/-- %shape of an array that is calibrated with segments in service (R25). -/
theorem Arr.shape_eq {a : Arr} (hsegs : a.segs ≠ 0) (hcal : a.cal ≠ 4) :
    a.shape = BitVec.ofNat 64 (a.margin.toNat * 2 ^ 32 + a.cal.toNat * 2 ^ 24 + 64 * 2 ^ 16
      + 16 * (List.range 4).countP (fun i => a.segs.getLsbD i) * 256 + a.segs.toNat) := by
  have hnow : a.calNow = a.cal := if_neg hsegs
  simp only [Arr.shape, hnow, hcal, if_false, Arr.nsegs, popCount_eq_countP, Nat.reducePow]

/-- %shape of an array without a segment in service (R25). -/
theorem Arr.shape_of_no_segs {a : Arr} (hsegs : a.segs = 0) : a.shape = BitVec.ofNat 64 (a.margin.toNat * 2 ^ 32 + 4 * 2 ^ 24) := by
  have hnow : a.calNow = 4 := if_pos hsegs
  simp only [Arr.shape, hnow, if_true, Nat.zero_mul, Nat.add_zero, show (4 : BitVec 3).toNat = 4 from rfl]

/-! ### csrr and csrw -/

section
variable {s : State} {d a : BitVec 6} {csr : BitVec 16}

theorem execCsrr_of_allowed (hnum : csr.toNat ≤ 15) (hc : csrOnlyC csr.toNat = false ∨ s.ix.eng = .c) :
    WritesG s d ⟨csrValue s.prior s.ix.co s.ix.eng csr.toNat, false⟩ (exec (.csrr d csr) s) := by
  have hallowed : (decide (15 < csr.toNat) || csrOnlyC csr.toNat && s.ix.eng != .c) = false := by
    rcases hc with hc | hc <;> simp [hc, hnum]
  rw [exec_csrr, execCsrr, trapIf_false hallowed, ok_bind]
  exact writesG s d _

/-- A register of the table is read as it stood before the group (R70, R368). -/
theorem execCsrr_reads {n : Nat} {v : Word} (hnum : csr.toNat = n) (hle : n ≤ 15) (hc : csrOnlyC n = false ∨ s.ix.eng = .c)
    (hv : csrValue s.prior s.ix.co s.ix.eng n = v) : WritesG s d ⟨v, false⟩ (exec (.csrr d csr) s) := by
  subst hnum hv
  exact execCsrr_of_allowed hle hc

theorem execCsrr_of_refused (h : 15 < csr.toNat ∨ csrOnlyC csr.toNat = true ∧ s.ix.eng ≠ .c) :
    Traps s 0x01 (exec (.csrr d csr) s) := by
  have hrefused : (decide (15 < csr.toNat) || csrOnlyC csr.toNat && s.ix.eng != .c) = true := by
    rcases h with h | ⟨h, he⟩ <;> simp [*]
  rw [exec_csrr, execCsrr, trapIf_true hrefused]
  exact traps_settle_bind s _ _ _ _

theorem execCsrw_of_refused (h : s.ix.eng ≠ .c ∨ csr.toNat ≠ 10) : Traps s 0x01 (exec (.csrw a csr) s) := by
  have hrefused : (csr.toNat != 0xA || s.ix.eng != .c) = true := by
    rcases h with h | h <;> simp [h]
  rw [exec_csrw, execCsrw, trapIf_true hrefused]
  exact traps_settle_bind s _ _ _ _

/-- csrw of %ftidx in C comes to consuming gA (R70). -/
theorem execCsrw_ftidx (he : s.ix.eng = .c) (hn : csr.toNat = 10) : exec (.csrw a csr) s =
    settle s (s.gUse a >>= fun x => .ok (s.onCu (fun u => { u with ftidx := x.setWidth 2 }))) := by
  have hallowed : (csr.toNat != 0xA || s.ix.eng != .c) = false := by simp [he, hn]
  rw [exec_csrw, execCsrw, trapIf_false hallowed, ok_bind]

end

/-- Settles O24: each number by the value that the table gives it, every other by the trap of R70. -/
theorem specialRegisters : Obligations.SpecialRegisters := by
  intro s d a csr k t arr reads
  have plain : ∀ {n : Nat} {v : Word}, n ≤ 15 → csrOnlyC n = false → csrValue s.prior s.ix.co s.ix.eng n = v → reads n v :=
    fun hle hc hv h => execCsrr_reads h hle (.inl hc) hv
  have inC : ∀ {n : Nat} {v : Word}, s.ix.eng = .c → n ≤ 15 → csrValue s.prior s.ix.co s.ix.eng n = v → reads n v :=
    fun he hle hv h => execCsrr_reads h hle (.inr he) hv
  refine ⟨plain (by decide) rfl rfl, plain (by decide) rfl rfl, plain (by decide) rfl rfl, plain (by decide) rfl rfl,
    plain (by decide) rfl rfl, plain (by decide) rfl rfl, plain (by decide) rfl rfl, plain (by decide) rfl rfl,
    plain (by decide) rfl ?dom, plain (by decide) rfl ?loopmode,
    fun he => ⟨inC he (by decide) (BitVec.ofNat_toNat _ _).symm, inC he (by decide) k.lease_eq, inC he (by decide) k.cu.dqcnt_eq_sum⟩,
    plain (by decide) rfl rfl, fun hsegs hcal => plain (by decide) rfl (Arr.shape_eq hsegs hcal),
    fun hsegs => plain (by decide) rfl (Arr.shape_of_no_segs hsegs), plain (by decide) rfl (BitVec.ofNat_toNat _ _).symm,
    ?notC, fun h => execCsrr_of_refused (.inl h), ?write, ?poison, execCsrw_of_refused⟩
  case dom =>
    show (k.task.map Task.dom).getD 0 = _
    cases htask : k.task <;> simp [t, htask]
  case loopmode =>
    show BitVec.ofNat 64 t.loopmode.toNat = _
    cases t.loopmode <;> rfl
  case notC =>
    intro he h
    refine execCsrr_of_refused (.inr ⟨?_, he⟩)
    rcases h with h | h | h <;> rw [h] <;> rfl
  case write =>
    intro he hn hpsn
    rw [execCsrw_ftidx he hn, State.gUse_ok hpsn, BitVec.ofNat_toNat]
    exact becomes_onCu s _
  case poison =>
    intro he hn hpsn
    rw [execCsrw_ftidx he hn, State.gUse_poison hpsn]
    exact traps_settle_bind s _ _ _ _

end Sys2Proof.Machine
end

section
/-! SUPPORT. Ring descriptors, register writes, the tick, bring-up, training, attestation and power (R270, R380, R394-R403). -/

namespace Sys2Proof.Machine

/-! ### Ring descriptors -/

theorem ofNat_bitField {w : Nat} (v : BitVec w) (lo n : Nat) : BitVec.ofNat n (bitField v.toNat lo n) = v.extractLsb' lo n := by
  apply BitVec.eq_of_toNat_eq
  rw [BitVec.toNat_ofNat, bitField, BitVec.extractLsb'_toNat, Nat.shiftRight_eq_div_pow, Nat.mod_mod]

/-- The fields of a written descriptor are those of its 128 bits (R270). -/
theorem Ring.written_eq {v : BitVec 128} (hv : v.getLsbD 0 = true) : Ring.written v.toNat = {
    nslot := v.extractLsb' 48 16, slog := v.extractLsb' 44 4, base := v.extractLsb' 25 15, owner := v.extractLsb' 4 16, v := true } := by
  have hbit : (v.toNat % 2 == 1) = true := by
    rw [BitVec.getLsbD, Nat.testBit_zero] at hv
    simpa using hv
  simp only [Ring.written, ofNat_bitField, hbit]

/-- The allocated rings of a square that a descriptor's extent must not meet: it meets none of them (R270). -/
theorem Hw.no_ring_meets_iff {h : Hw} {site ring : Nat} {r : Ring} :
    h.rings.any (fun e => e.1 / 1024 == site && e.1 != ringKey site ring && e.2.v
      && decide (256 * e.2.base.toNat < r.fin) && decide (256 * r.base.toNat < e.2.fin)) = false ↔
    ∀ e ∈ h.rings, e.1 / 1024 = site → e.1 ≠ ringKey site ring → e.2.v = true → e.2.fin ≤ 256 * r.base.toNat ∨ r.fin ≤ 256 * e.2.base.toNat := by
  rw [List.any_eq_false]
  refine forall₂_congr fun e _ => ?_
  simp only [Bool.and_eq_true, beq_iff_eq, bne_iff_ne, decide_eq_true_eq, not_and, and_imp, Nat.not_lt]
  exact forall₃_congr fun _ _ _ => ⟨fun hn => (Nat.lt_or_ge _ _).elim (fun hlt => .inl (hn hlt)) .inr, fun hor hlt => by omega⟩

/-- A descriptor that would allocate a ring is refused unless its fields are in range and its extent meets no other (R270). -/
theorem Hw.ringRefused_eq_false {h : Hw} {site ring : Nat} {r : Ring} : h.ringRefused site ring r = false ↔
    r.nslot.toNat ≠ 0 ∧ r.nslot.toNat ≤ 32768 ∧ r.slog.toNat ≤ 8 ∧ r.fin ≤ 2 ^ 23
      ∧ ∀ e ∈ h.rings, e.1 / 1024 = site → e.1 ≠ ringKey site ring → e.2.v = true → e.2.fin ≤ 256 * r.base.toNat ∨ r.fin ≤ 256 * e.2.base.toNat := by
  have hzero : (r.nslot == 0) = false ↔ r.nslot.toNat ≠ 0 := by
    rw [beq_eq_false_iff_ne, ne_eq, ← BitVec.toNat_inj]; rfl
  rw [Hw.ringRefused, Bool.or_eq_false_iff, Bool.or_eq_false_iff, Bool.or_eq_false_iff, Bool.or_eq_false_iff, hzero,
    decide_eq_false_iff_not, decide_eq_false_iff_not, decide_eq_false_iff_not, Nat.not_lt, Nat.not_lt, Nat.not_lt, Hw.no_ring_meets_iff,
    and_assoc, and_assoc, and_assoc]

theorem Hw.ringHeld_iff {h : Hw} {site ring : Nat} : h.ringHeld site ring = true ↔
    (h.ring site ring).v = true ∧ (h.launch? (h.ring site ring).owner.toNat).isSome = true := by
  simp only [Hw.ringHeld, Bool.and_eq_true]

/-- A write that sets V allocates the ring, its counts zero, unless a launch holds it or it is refused (R270). -/
theorem Hw.writeRing_allocates {h : Hw} {site ring v : Nat} (hv : (Ring.written v).v = true) (hheld : ¬h.ringHeld site ring = true)
    (hfits : h.ringRefused site ring (Ring.written v) = false) :
    h.writeRing site ring v = h.onRing site ring (fun _ => Ring.written v) := by
  simp only [Hw.writeRing, Bool.eq_false_of_not_eq_true hheld, hv, hfits, Bool.and_false, Bool.or_self, Bool.false_eq_true, if_false,
    Bool.true_or, if_true]

theorem Hw.writeRing_held {h : Hw} {site ring v : Nat} (hheld : h.ringHeld site ring = true) : h.writeRing site ring v = h := by
  simp only [Hw.writeRing, hheld, Bool.true_or, if_true]

theorem Hw.writeRing_refused {h : Hw} {site ring v : Nat} (hv : (Ring.written v).v = true)
    (hrefused : h.ringRefused site ring (Ring.written v) = true) : h.writeRing site ring v = h := by
  simp only [Hw.writeRing, hv, hrefused, Bool.and_self, Bool.or_true, if_true]

@[simp] theorem Hw.ring_onRing (h : Hw) (site ring : Nat) (f : Ring → Ring) : (h.onRing site ring f).ring site ring = f (h.ring site ring) :=
  tabGet_put_same _ _ _ _

/-! ### Register writes -/

theorem splice_whole (old : Nat) (bs : List Byte) : splice old bs.length 0 bs = leNat bs := by
  rw [splice, List.take_zero, List.nil_append, Nat.zero_add, List.drop_of_length_le (leBytes_length _ _).le, List.append_nil]

/-- A write of all bytes of one register has that register's effect where the path may write it (R9, R380). -/
theorem Hw.writeRegs_whole {h : Hw} {site cls idx : Nat} {bs : List Byte} {r : RegHere} (hne : bs ≠ [])
    (hreg : h.regAt site cls idx r.base bs.length = some r) (hsize : r.size = bs.length) :
    h.writeRegs site cls idx bs.length r.base bs = if h.mayWrite site cls idx r.base then r.put (leNat bs) else h := by
  obtain ⟨n, hn⟩ : ∃ n, bs.length = n + 1 := ⟨_, (Nat.succ_pred_eq_of_pos (List.length_pos_iff.mpr hne)).symm⟩
  have hend : ∀ (f off : Nat) (g : Hw), g.writeRegs site cls idx f off [] = g := fun f off g => by cases f <;> rfl
  have hrest : r.base + bs.length - r.base = bs.length := Nat.add_sub_cancel_left _ _
  conv_lhs => rw [hn]
  rw [Hw.writeRegs, if_neg (by simpa using hne), hreg]
  simp only [hsize, hrest, Nat.sub_self, List.take_length, List.drop_length, hend, splice_whole]

theorem inArray_zero {i size count : Nat} (hi : i < count) (hs : 0 < size) : inArray (size * i) 0 size count = some i := by
  have hlt : size * i < size * count := Nat.mul_lt_mul_of_pos_left hi hs
  rw [inArray, if_pos ⟨Nat.zero_le _, by omega⟩, Nat.sub_zero, Nat.mul_div_cancel_left _ hs]

/-- A scalar register in the engine-register map: its place, its size, the effect of a write of all of it (R382). -/
theorem Hw.engReg_scalar (h : Hw) (co : CoreId) (e : EngId) {i : Fin 64} (hi : i.val ≠ 0) :
    ∃ old, h.engReg co e (8 * i.val) = some ⟨8 * i.val, 8, old, fun v => h.onCore co (fun k => k.setEng e { (h.core co).eng e with
      g := ((h.core co).eng e).g.set i.val { ((h.core co).eng e).g.get i with bits := BitVec.ofNat 64 v } i.isLt })⟩ := by
  have hget : ((h.core co).eng e).g.toList.getD i.val {} = ((h.core co).eng e).g.get i := by
    rw [List.getD_eq_getElem _ _ (by simp), Vector.getElem_toList]; rfl
  have hset : ∀ x, ((h.core co).eng e).g.setIfInBounds i.val x = ((h.core co).eng e).g.set i.val x i.isLt := fun x =>
    Vector.toArray_inj.mp (Array.setIfInBounds_def _ _ _ |>.trans (dif_pos (by simp)))
  simp only [Hw.engReg, inArray_zero i.isLt (show 0 < 8 by decide), hi, if_false, hget, hset]
  exact ⟨_, rfl⟩

/-- The address of a scalar register in the engine-register map (R380, R382). -/
def scalarRegAddr (co : CoreId) (e : EngId) (i : Nat) : BitVec 64 :=
  BitVec.ofNat 64 (co.isle * 2 ^ 54 + 2 * 2 ^ 48 + (co.core * 4 + engUnit e) * 2 ^ 32 + 8 * i)

theorem engUnit_lt (e : EngId) : engUnit e < 3 := by cases e <;> decide
theorem engOfNat_engUnit (e : EngId) : engOfNat (engUnit e) = e := by cases e <;> rfl

theorem toNat_field (v lo n : Nat) : ((BitVec.ofNat 64 v).extractLsb' lo n).toNat = v % 2 ^ 64 / 2 ^ lo % 2 ^ n := by
  rw [BitVec.extractLsb'_toNat, BitVec.toNat_ofNat, Nat.shiftRight_eq_div_pow]

/-- A management address put together from its fields gives them back: SITE, CLASS, INDEX, offset (R380). -/
theorem mgmtAddr_fields {site cls idx off : Nat} (hsite : site < 1024) (hcls : cls < 64) (hidx : idx < 65536) (hoff : off < 2 ^ 32) :
    let addr := BitVec.ofNat 64 (site * 2 ^ 54 + cls * 2 ^ 48 + idx * 2 ^ 32 + off)
    (addr.extractLsb' 54 10).toNat = site ∧ (addr.extractLsb' 48 6).toNat = cls ∧ (addr.extractLsb' 32 16).toNat = idx
      ∧ (addr.extractLsb' 0 32).toNat = off := by
  refine ⟨(toNat_field _ _ _).trans ?_, (toNat_field _ _ _).trans ?_, (toNat_field _ _ _).trans ?_, (toNat_field _ _ _).trans ?_⟩ <;>
    omega

theorem scalarRegAddr_fields {co : CoreId} {e : EngId} {i : Nat} (hok : co.ok = true) (hi : i < 64) :
    ((scalarRegAddr co e i).extractLsb' 54 10).toNat = co.isle ∧ ((scalarRegAddr co e i).extractLsb' 48 6).toNat = 2
    ∧ ((scalarRegAddr co e i).extractLsb' 32 16).toNat = co.core * 4 + engUnit e
    ∧ ((scalarRegAddr co e i).extractLsb' 0 32).toNat = 8 * i := by
  have hunit := engUnit_lt e
  simp only [CoreId.ok, isleOk, Bool.and_eq_true, decide_eq_true_eq] at hok
  obtain ⟨⟨hsite, -⟩, hcore⟩ := hok
  exact mgmtAddr_fields (by omega) (by omega) (by omega) (by omega)

theorem Hw.regAt_scalar {h : Hw} {co : CoreId} {e : EngId} (hok : co.ok = true) (off len : Nat) :
    h.regAt co.isle 2 (co.core * 4 + engUnit e) off len = h.engReg co e off := by
  have hunit := engUnit_lt e
  simp only [CoreId.ok, Bool.and_eq_true, decide_eq_true_eq] at hok
  have hdiv : (co.core * 4 + engUnit e) / 4 = co.core := by omega
  have hmod : (co.core * 4 + engUnit e) % 4 = engUnit e := by omega
  simp only [Hw.regAt, hdiv, hmod, engOfNat_engUnit]
  exact if_pos ⟨hok.1, hok.2, hunit⟩

/-- A management write of a scalar register: it comes to that register of the core, where the core takes the write (R380, R382). -/
theorem Hw.writeRegs_scalar (h : Hw) {co : CoreId} (e : EngId) {i : Fin 64} {bs : List Byte} (hok : co.ok = true)
    (hlen : bs.length = 8) (hi : i.val ≠ 0) :
    h.writeRegs co.isle 2 (co.core * 4 + engUnit e) bs.length (8 * i.val) bs =
      if (h.core co).open_ then h.onCore co (fun k => k.setEng e { (h.core co).eng e with
        g := ((h.core co).eng e).g.set i.val { ((h.core co).eng e).g.get i with bits := BitVec.ofNat 64 (leNat bs) } i.isLt })
      else h := by
  obtain ⟨old, hreg⟩ := h.engReg_scalar co e hi
  have hunit := engUnit_lt e
  have hmay : h.mayWrite co.isle 2 (co.core * 4 + engUnit e) (8 * i.val) = (h.core co).open_ := by
    rw [Hw.mayWrite, show (co.core * 4 + engUnit e) / 4 = co.core by omega]
  rw [← hmay]
  exact Hw.writeRegs_whole (r := ⟨8 * i.val, 8, old, _⟩) (List.ne_nil_of_length_eq_add_one hlen)
    ((Hw.regAt_scalar hok _ _).trans hreg) hlen.symm

section
variable {s : State} {co : CoreId} {e : EngId} {i : Fin 64} {bs : List Byte}

/-- The write of a scalar register's address (R380, R382). -/
theorem execRegisterWrite_scalar (hok : co.ok = true) :
    exec (.registerWrite (scalarRegAddr co e i.val) bs) s =
      .next (s.attempt (Hw.writeRegs co.isle 2 (co.core * 4 + engUnit e) bs.length (8 * i.val) bs)) := by
  obtain ⟨hsite, hcls, hidx, hoff⟩ := scalarRegAddr_fields (e := e) hok i.isLt
  simp only [exec_registerWrite, execRegisterWrite, hsite, hcls, hidx, hoff]
  rfl

theorem registerWrite_scalar_open (hok : co.ok = true) (hlen : bs.length = 8) (hi : i.val ≠ 0)
    (hopen : (s.toHw.core co).task = none ∨ (s.toHw.core co).stopped = true) :
    CoreIs s co ((s.toHw.core co).setEng e { (s.toHw.core co).eng e with
      g := ((s.toHw.core co).eng e).g.set i.val { ((s.toHw.core co).eng e).g.get i with bits := BitVec.ofNat 64 (leNat bs) } i.isLt })
      (exec (.registerWrite (scalarRegAddr co e i.val) bs) s) := by
  have hopen : (s.toHw.core co).open_ = true := by
    rcases hopen with h | h <;> simp [Core.open_, h]
  rw [execRegisterWrite_scalar hok, State.attempt_onCore ((Hw.writeRegs_scalar _ e hok hlen hi).trans (if_pos hopen))]
  exact coreIs_onCore s co _

theorem registerWrite_scalar_running (hok : co.ok = true) (hlen : bs.length = 8) (hi : i.val ≠ 0)
    (htask : (s.toHw.core co).task ≠ none) (hstop : (s.toHw.core co).stopped = false) :
    exec (.registerWrite (scalarRegAddr co e i.val) bs) s = .next s := by
  have hopen : ¬(s.toHw.core co).open_ = true := by
    simp [Core.open_, hstop, htask]
  rw [execRegisterWrite_scalar hok, State.attempt_of_unchanged ((Hw.writeRegs_scalar _ e hok hlen hi).trans (if_neg hopen))]

end

/-! ### Bring-up -/

theorem execBootStageComplete_on {s : State} (hon : s.boot.on = true) : exec (.bootStageComplete) s = .next (s.upd Hw.endStage) := by
  rw [exec_bootStageComplete, execBootStageComplete]; exact if_pos hon

theorem Hw.endStage_of_0 {h : Hw} (hst : h.boot.stage = 0) : h.endStage = { h with boot := { h.boot with stage := 1, ram := [] } } := by
  rw [Hw.endStage, hst]; rfl

theorem Hw.endStage_of_1 {h : Hw} (hst : h.boot.stage = 1) : h.endStage = h.endStage1 := by
  rw [Hw.endStage, hst]; rfl

theorem Hw.endStage_of_2 {h : Hw} (hst : h.boot.stage = 2) :
    h.endStage = if h.boot.needRec then h else { h with boot := { h.boot.deriveId with stage := 3 } } := by
  rw [Hw.endStage, hst]; rfl

theorem Hw.endStage_of_4 {h : Hw} (hst : h.boot.stage = 4) :
    h.endStage = if h.backgroundOver then { h with boot := { h.boot with stage := 5 } } else h := by
  rw [Hw.endStage, hst]; rfl

theorem Boot.deriveId_of_corrected (x : Boot) {c : List Byte} (h : Config.helperCorrect majorityBits = some c) :
    x.deriveId = { x with idok := true, key := Config.shake256 57 c, devpub := Config.ed448Public (Config.shake256 57 c) } := by
  rw [Boot.deriveId, h]

/-- Without an image that all quays accept, stage 1 ends in recovery, which trains port 0 (R396, R399). -/
theorem Hw.endStage1_recovers {h : Hw} (hrecov : h.boot.recov = false) (hnone : chooseImage h.boot.imgA h.boot.imgB = none) :
    h.endStage1 = ({ h with boot := { h.boot with recovery := true } } : Hw).raisePort 0 := by
  simp only [Hw.endStage1, hrecov, hnone, Bool.false_eq_true, if_false]

/-! ### Ports -/

@[simp] theorem Port.tell_up (p : Port) : p.tell.up = p.up := by
  rw [Port.tell]; split <;> rfl

theorem tabGet_map {α β : Type} (f : α → β) (d : α) (t : Tab α) (k : Nat) :
    tabGet (f d) (t.map (fun e => (e.1, f e.2))) k = f (tabGet d t k) := by
  induction t with
  | nil => rfl
  | cons e t ih => simp only [List.map_cons, tabGet, ih]; split <;> rfl

theorem Hw.tellAll_port_up (h : Hw) (p : Nat) : (h.tellAll.port p).up = (h.port p).up :=
  (congrArg Port.up (tabGet_map Port.tell {} h.ports p)).trans (Port.tell_up _)

/-- A port that is raised changes no other unit than ports (R285, R395). -/
theorem Hw.raisePort_eq {h : Hw} {p : Nat} (hp : p ≠ 128) : h.raisePort p = { h with ports := (h.raisePort p).ports } := by
  simp only [Hw.raisePort, Hw.onPort, if_neg hp, Hw.tellAll]

theorem Hw.raisePort_up {h : Hw} {p : Nat} (hp : p ≠ 128) : ((h.raisePort p).port p).up = true := by
  rw [Hw.raisePort, Hw.tellAll_port_up, Hw.onPort, if_neg hp]
  exact congrArg Port.up (tabGet_put_same _ _ _ _)

/-! ### Attestation -/

theorem padTo_self {n : Nat} {b : List Byte} (h : b.length = n) : padTo n b = b := by
  rw [padTo, h, Nat.sub_self, List.replicate_zero, List.append_nil, ← h, List.take_length]

/-- A report begins with its version, SVN and SEQ, and then carries the nonce (R400). -/
theorem Hw.report_begins (h : Hw) {nonce : List Byte} (hlen : nonce.length = 32) :
    ∃ rest, h.report nonce = leBytes 4 1 ++ (leBytes 4 h.boot.svn ++ (leBytes 8 h.boot.seq ++ (nonce ++ rest))) := by
  simp only [Hw.report, padTo_self hlen, List.append_assoc]
  exact ⟨_, rfl⟩

theorem Hw.report_fields (h : Hw) {nonce : List Byte} (hlen : nonce.length = 32) :
    ((h.report nonce).drop 16).take 32 = nonce ∧ (h.report nonce).take 4 = leBytes 4 1
    ∧ ((h.report nonce).drop 4).take 4 = leBytes 4 h.boot.svn := by
  obtain ⟨rest, hrest⟩ := h.report_begins hlen
  rw [hrest]
  refine ⟨?_, List.take_left' (leBytes_length _ _), ?_⟩
  · rw [← List.append_assoc, ← List.append_assoc,
      List.drop_left' (by simp only [List.length_append, leBytes_length]), List.take_left' hlen]
  · rw [List.drop_left' (leBytes_length _ _), List.take_left' (leBytes_length _ _)]

/-! ### The events -/

section
variable {s : State}

theorem execRingdescWrite_kept {site ring : Nat} {v : BitVec 128} (h : s.toHw.writeRing site ring v.toNat = s.toHw) :
    exec (.ringdescWrite site ring v) s = .next s := by
  rw [exec_ringdescWrite, execRingdescWrite, State.upd, h]

/-- The tick counts from stage 3 on (R22, R394). -/
theorem execTick_counts (h : ¬s.boot.stage < 3) :
    exec (.tick) s = .next (s.upd (fun h => { h.leakAll with tick := h.tick + 1 })) := by
  rw [exec_tick, execTick, if_neg h]

/-- At most the row counts of the slices leak as a tick ends (R107). -/
theorem Hw.leakAll_eq (h : Hw) : h.leakAll = { h with slices := h.leakAll.slices } := by
  rw [Hw.leakAll]; split <;> rfl

theorem execRecoveryImage_kept {base : Nat}
    (h : s.boot.recovery = false ∨ imageCopyOk (bytesFrom base (s.boot.ram.filter (fun e => decide (base ≤ e.1)))) = false) :
    exec (.recoveryImage base) s = .next s := by
  rw [exec_recoveryImage, execRecoveryImage]
  refine if_neg ?_
  rcases h with h | h <;> simp [h]

theorem execUnitTraining_slice (h : ¬s.boot.stage < 3) (site slice : Nat) : exec (.unitTrainingComplete (.slice site slice)) s =
    .next (s.upd (fun h => h.onSlice site slice (fun x => { x with trained := true }))) := by
  have hlate : decide (3 ≤ s.toHw.boot.stage.toNat) = true := decide_eq_true (BitVec.not_lt.mp h)
  simp only [exec_unitTrainingComplete, execUnitTrainingComplete, hlate, if_true]

theorem execUnitTraining_causeway (h : ¬s.boot.stage < 3) (site port : Nat) : exec (.unitTrainingComplete (.causeway site port)) s =
    .next (s.upd (fun h => { h with cwFull := setAdd (site * 4 + port) h.cwFull })) := by
  have hlate : decide (3 ≤ s.toHw.boot.stage.toNat) = true := decide_eq_true (BitVec.not_lt.mp h)
  simp only [exec_unitTrainingComplete, execUnitTrainingComplete, hlate, if_true]

theorem execUnitTraining_strait {port : Nat} (hdown : (s.toHw.port port).up = false) (hlinks : s.toHw.linksUp port = true) :
    exec (.unitTrainingComplete (.strait port)) s = .next (s.upd (fun h => h.raisePort port)) := by
  simp only [exec_unitTrainingComplete, execUnitTrainingComplete, hdown, hlinks, Bool.not_true, Bool.or_self, Bool.false_eq_true,
    if_false]

/-- A gated isle that no launch holds wakes with no core to prepare (R403). -/
theorem execIsleWake_free {isle : Nat} (hgated : (s.toHw.isle isle).gated = true) (hfree : s.toHw.holderOf isle = none) :
    exec (.isleWake isle) s = .next (s.upd (fun h => h.onIsle isle (fun x => { x with gated := false }))) := by
  have hnone : (s.toHw.atRest.onIsle isle (fun x => { x with gated := false })).holderOf isle = none := hfree
  simp only [exec_isleWake, execIsleWake, hgated, Bool.not_true, Bool.false_eq_true, if_false]
  rw [State.attempt_of_routed] <;> simp only [hnone, Option.bind_none] <;> rfl

end

/-- Settles O60. Each stage ends in one step (log entry 77), stage 4 once its work is over (log entry 95), and a descriptor write is
ignored while the ring is held (log entry 73): choices of the model. -/
theorem managementAndBringUp : Obligations.ManagementAndBringUp := by
  intro s site slice ring port isle base v bytes r held w fits boots image
  refine ⟨?allocates, ?held, ?register, ?tick, ?tickLeaks, ?noTick, ?power, ?powerAgain, ?stage0, ?stage2, ?noRecord, ?noImage, ?stage4,
    ?recovers, ?noRecovery, ?slice, ?causeway, ?strait, ?attest, ?gate, ?noGate, ?wake⟩
  case allocates =>
    intro hv hheld
    have hw : Ring.written v.toNat = w := Ring.written_eq hv
    have hset : (Ring.written v.toNat).v = true := by rw [hw]
    have hfree : ¬s.toHw.ringHeld site ring = true := fun h => hheld (Hw.ringHeld_iff.mp h)
    have hfits : fits ↔ s.toHw.ringRefused site ring (Ring.written v.toNat) = false := by rw [hw]; exact Hw.ringRefused_eq_false.symm
    refine ⟨fun h => ⟨s.upd (fun h => h.writeRing site ring v.toNat), rfl, ?_⟩, fun h => ?_⟩
    · rw [State.upd_toHw, State.upd, Hw.writeRing_allocates hset hfree (hfits.mp h), hw]
      exact ⟨Hw.ring_onRing _ _ _ _, rfl⟩
    · exact execRingdescWrite_kept (Hw.writeRing_refused hset (Bool.eq_true_of_not_eq_false fun hr => h (hfits.mpr hr)))
  case held => exact fun h => execRingdescWrite_kept (Hw.writeRing_held (Hw.ringHeld_iff.mpr h))
  case register =>
    exact fun co e i hok hlen hi => ⟨registerWrite_scalar_open hok hlen hi, registerWrite_scalar_running hok hlen hi⟩
  case tick =>
    intro hst hleak
    rw [execTick_counts hst, State.upd, Hw.leakAll, if_pos hleak]
  case tickLeaks =>
    intro hst
    rw [execTick_counts hst, State.upd, Hw.leakAll_eq]
    exact ⟨_, rfl, rfl⟩
  case noTick => exact fun hst => if_pos hst
  case power =>
    intro hoff
    show exec _ s = _
    rw [exec_powerGood, execPowerGood, State.upd, if_neg (by rw [hoff]; exact Bool.false_ne_true)]
  case powerAgain =>
    intro hon
    rw [exec_powerGood, execPowerGood, State.upd, if_pos hon]
    exact ⟨_, rfl, rfl, rfl, rfl, rfl, rfl, rfl, rfl, rfl, rfl⟩
  case stage0 =>
    intro hon hst
    show exec _ s = _
    rw [execBootStageComplete_on hon, State.upd, Hw.endStage_of_0 hst]
  case stage2 =>
    intro hon hst hneed
    refine ⟨{ s.boot.deriveId with stage := 3 }, ?_, rfl, fun c hc => ?_⟩
    · show exec _ s = _
      rw [execBootStageComplete_on hon, State.upd, Hw.endStage_of_2 hst, hneed]; rfl
    · rw [Boot.deriveId_of_corrected _ hc]; exact ⟨rfl, rfl, rfl⟩
  case noRecord =>
    intro hon hst hneed
    rw [execBootStageComplete_on hon, State.upd, Hw.endStage_of_2 hst, hneed]; rfl
  case noImage =>
    intro hon hst hrecov hnone
    rw [execBootStageComplete_on hon, State.upd, Hw.endStage_of_1 hst, Hw.endStage1_recovers hrecov hnone]
    exact ⟨_, rfl, by rw [Hw.raisePort_eq (by decide)], Hw.raisePort_up (by decide)⟩
  case stage4 =>
    intro hon hst
    have hend : exec (.bootStageComplete) s = .next (s.upd fun h => if h.backgroundOver then { h with boot := { h.boot with stage := 5 } } else h) := by
      rw [execBootStageComplete_on hon, State.upd, Hw.endStage_of_4 hst]; rfl
    refine ⟨fun h => hend.trans ?_, fun h => hend.trans ?_⟩ <;> rw [State.upd, h] <;> rfl
  case recovers =>
    intro hrec hok
    refine ⟨{ s.boot.run image with recov := true, recovery := false }, ?_, rfl, rfl, rfl, rfl, rfl, rfl⟩
    show exec _ s = _
    rw [exec_recoveryImage, execRecoveryImage]
    exact if_pos (by rw [hrec]; exact hok)
  case noRecovery => exact execRecoveryImage_kept
  case slice =>
    intro hst
    rw [execUnitTraining_slice hst]
    exact sliceIs_onSlice s site slice _
  case causeway => exact fun hst => execUnitTraining_causeway hst site port
  case strait =>
    intro hport hdown hlinks
    rw [execUnitTraining_strait hdown hlinks]
    exact ⟨_, rfl, Hw.raisePort_up (by omega), congrArg (fun h => { s with toHw := h }) (Hw.raisePort_eq (by omega))⟩
  case attest =>
    intro hst hlen
    refine ⟨s.toHw.report bytes, ?_, s.toHw.report_fields hlen⟩
    show exec _ s = _
    rw [exec_attestationRequest, execAttestationRequest, if_neg hst]; rfl
  case gate =>
    intro hheld hidle
    rw [exec_islePowerGate, execIslePowerGate, hheld, hidle]
    exact isleIs_onIsle s isle _
  case noGate =>
    intro h
    rw [exec_islePowerGate, execIslePowerGate]
    refine if_pos ?_
    rcases h with h | h <;> simp [h]
  case wake =>
    intro hgated hfree
    rw [execIsleWake_free hgated hfree]
    exact isleIs_onIsle s isle _

end Sys2Proof.Machine
end

section
/-! SUPPORT. Trap records, their service and the resume of a stop; machine faults and the errors that an access meets
(R144, R360-R370). -/

namespace Sys2Proof.Machine

/-! ### A fold of operations -/

/-- What every operation of a fold leaves, the fold leaves. -/
theorem foldl_keeps {α β γ : Type} {f : β → α → β} (p : β → γ) (hf : ∀ b a, p (f b a) = p b) (l : List α) (b : β) :
    p (l.foldl f b) = p b := by
  induction l generalizing b with
  | nil => rfl
  | cons a t ih => exact (ih (f b a)).trans (hf b a)

/-! ### What a trap leaves -/

theorem Isle.enqueue_mclog (x : Isle) (r : TrapRec) (co : CoreId) : (x.enqueue r co).mclog = x.mclog := by
  rw [Isle.enqueue]; split <;> rfl

theorem Isle.takeIn_mclog (x : Isle) (n : Nat) (r : TrapRec) (co : CoreId) : (x.takeIn n r co).mclog = x.mclog := by
  rw [Isle.takeIn]
  split <;> exact x.enqueue_mclog r co

theorem Hw.takeTrap_core (h : Hw) (co : CoreId) (r : TrapRec) : (h.takeTrap co r).core co = (h.core co).stop false :=
  Hw.core_onCore h co (fun k => k.stop false)

theorem Hw.takeTrap_mclog (h : Hw) (co : CoreId) (r : TrapRec) : ((h.takeTrap co r).isle co.isle).mclog = (h.isle co.isle).mclog := by
  rw [Hw.takeTrap, Hw.trapAs, Hw.isle_onIsle, Isle.takeIn_mclog]
  rfl

/-! ### The trap queue -/

@[simp] theorem Isle.refill_tqHead (x : Isle) : x.refill.tqHead = x.tqHead := by
  unfold Isle.refill; split; · rfl
  split <;> rfl

@[simp] theorem Isle.refill_ports (x : Isle) : x.refill.ports = x.ports := by
  unfold Isle.refill; split; · rfl
  split <;> rfl

@[simp] theorem Isle.refill_transit (x : Isle) : x.refill.transit = x.transit := by
  unfold Isle.refill; split; · rfl
  split <;> rfl

/-- The record at TQHEAD is taken from an isle's queue, and records that waited move up (R364). -/
def Hw.takeHead (h : Hw) (isle : Nat) : Hw := h.setIsle isle ({ h.isle isle with tqHead := (h.isle isle).tqHead + 1 } : Isle).refill

theorem Hw.takeHead_isle (h : Hw) (isle : Nat) :
    (h.takeHead isle).isle isle = ({ h.isle isle with tqHead := (h.isle isle).tqHead + 1 } : Isle).refill := Hw.isle_setIsle _ _ _

theorem Hw.takeHead_tqHead (h : Hw) (isle : Nat) : ((h.takeHead isle).isle isle).tqHead = (h.isle isle).tqHead + 1 := by
  rw [Hw.takeHead_isle, Isle.refill_tqHead]

theorem Hw.takeHead_ports (h : Hw) (isle i : Nat) : ((h.takeHead isle).isle i).ports = (h.isle i).ports := by
  by_cases hi : i = isle
  · rw [hi, Hw.takeHead_isle, Isle.refill_ports]
  · rw [Hw.takeHead, Hw.isle_setIsle_other _ _ hi]

theorem Hw.takeHead_transit (h : Hw) (isle i : Nat) : ((h.takeHead isle).isle i).transit = (h.isle i).transit := by
  by_cases hi : i = isle
  · rw [hi, Hw.takeHead_isle, Isle.refill_transit]
  · rw [Hw.takeHead, Hw.isle_setIsle_other _ _ hi]

/-! ### Routes and bars depend on ports, transit switches, detours, slices and lines alone -/

section
variable {g h : Hw}

theorem Hw.hops_congr (hdet : g.detours = h.detours) (dst f site : Nat) : g.hops dst f site = h.hops dst f site := by
  induction f generalizing site with
  | zero => rfl
  | succ f ih => simp only [Hw.hops, Hw.exit, hdet, ih]

theorem Hw.portAlive_congr (hports : ∀ i, (g.isle i).ports = (h.isle i).ports) (hsq : g.sqPorts = h.sqPorts) (site port : Nat) :
    g.portAlive site port = h.portAlive site port := by
  simp only [Hw.portAlive, hports, hsq]

theorem Hw.reaches_congr (hports : ∀ i, (g.isle i).ports = (h.isle i).ports) (htransit : ∀ i, (g.isle i).transit = (h.isle i).transit)
    (hsq : g.sqPorts = h.sqPorts) (hdet : g.detours = h.detours) (src dst : Nat) : g.reaches src dst = h.reaches src dst := by
  have halive := Hw.portAlive_congr hports hsq
  have hforwards : ∀ site, g.forwards site = h.forwards site := fun site => by simp only [Hw.forwards, htransit]
  have hhop : g.hopAlive = h.hopAlive := funext fun x => by simp only [Hw.hopAlive, halive]
  have hlinked : ∀ a b, g.linked a b = h.linked a b := fun a b => by simp only [Hw.linked, Hw.hops_congr hdet, hhop, hforwards]
  have hedge : ∀ o q a b, g.byEdge o q a b = h.byEdge o q a b := fun o q a b => by simp only [Hw.byEdge, halive, hforwards, hlinked]
  simp only [Hw.reaches, hlinked, hedge, halive, hforwards]

theorem Hw.barAt_congr (hports : ∀ i, (g.isle i).ports = (h.isle i).ports) (htransit : ∀ i, (g.isle i).transit = (h.isle i).transit)
    (hsq : g.sqPorts = h.sqPorts) (hdet : g.detours = h.detours) (hslices : g.slices = h.slices) (hcfg : g.cfg = h.cfg)
    (hlines : g.lineMeta = h.lineMeta) (m : Master) (op pa : Nat) : g.barAt m op pa = h.barAt m op pa := by
  have hreach : g.reaches = h.reaches := funext₂ (Hw.reaches_congr hports htransit hsq hdet)
  have hhome : g.home = h.home := funext fun pa => by simp only [Hw.home, Hw.slice, hslices, hcfg]
  have hline : g.lineOf = h.lineOf := funext fun pa => by simp only [Hw.lineOf, hlines]
  rw [Hw.barAt, Hw.barAt, hreach, hhome, hline]

theorem Hw.num_congr (hmem : g.mem = h.mem) : g.num = h.num := funext₂ fun k n => by simp only [Hw.num, Hw.bytes, hmem]

theorem Hw.walkFrom_congr (hmem : g.mem = h.mem) (va f level table : Nat) :
    g.walkFrom va f level table = h.walkFrom va f level table := by
  induction f generalizing level table with
  | zero => rfl
  | succ f ih => rw [Hw.walkFrom, Hw.walkFrom, Hw.num_congr hmem, ih]

theorem Hw.entriesFrom_congr (hmem : g.mem = h.mem) (va f level table : Nat) :
    g.entriesFrom va f level table = h.entriesFrom va f level table := by
  induction f generalizing level table with
  | zero => rfl
  | succ f ih => rw [Hw.entriesFrom, Hw.entriesFrom, Hw.num_congr hmem, ih]

end

/-- Whose record is at the head bars no access. -/
theorem Hw.barAt_takeHead (h : Hw) (isle : Nat) (m : Master) (op pa : Nat) : (h.takeHead isle).barAt m op pa = h.barAt m op pa :=
  Hw.barAt_congr (h.takeHead_ports isle) (h.takeHead_transit isle) rfl rfl rfl rfl rfl m op pa

/-! ### Reading tables -/

/-- A line whose cells hold no error is checked without effect (R105). -/
theorem Hw.checkLine_clean {h : Hw} (herrs : h.errs = []) (pa : Nat) : (h.checkLine pa .clean).2 = h := by
  have hecc : h.eccOf pa .clean = .clean := by simp only [Hw.eccOf, herrs, tabFind]
  rw [Hw.checkLine, hecc]
  split <;> rfl

theorem Hw.meetBar_of_none {h : Hw} {m : Master} {op : Nat} {pas : List Nat} (hbar : ∀ pa ∈ pas, h.barAt m op pa = none) :
    h.meetBar m op pas = h := by
  have hnone : pas.findSome? (fun pa => (h.barAt m op pa).map (fun b => (pa, b))) = none :=
    List.findSome?_eq_none_iff.mpr fun pa hpa => by rw [hbar pa hpa]; rfl
  rw [Hw.meetBar, hnone]

/-- Reads that nothing bars, of lines without errors, change nothing. -/
theorem Hw.reading_of_clear {h : Hw} {m : Master} {pas : List Nat} (herrs : h.errs = []) (hbar : ∀ pa ∈ pas, h.barAt m opRead pa = none) :
    h.reading m pas = h := by
  have hfold : ∀ l : List Nat, l.foldl (fun h pa => (h.checkLine pa .clean).2) h = h := by
    intro l
    induction l with
    | nil => rfl
    | cons pa t ih => rw [List.foldl_cons, Hw.checkLine_clean herrs, ih]
  rw [Hw.reading, hfold, Hw.meetBar_of_none hbar]

/-! ### Launches that are to end -/

theorem Hw.launch?_setLaunch (h : Hw) {l : Launch} {lid : Nat} (hlid : l.lid = lid) : (h.setLaunch l).launch? lid = some l := by
  subst hlid
  exact tabFind_put_same _ _ _

theorem Hw.failLaunch_of_some {h : Hw} {lid : Nat} {l : Launch} (hl : h.launch? lid = some l) (r : FaultRec) :
    h.failLaunch lid r = h.setLaunch { l with failing := l.failing ++ [r], abort := true } := by
  rw [Hw.failLaunch, Hw.onLaunch, hl]

/-- The records of a stop are handed to its launch, which is to end (R365, R370). -/
theorem Hw.failLaunch_records {co : CoreId} {t : Task} {h : Hw} {l : Launch} (hl : h.launch? t.lid = some l) (hlid : l.lid = t.lid)
    (rs : List TrapRec) :
    let g := rs.foldl (fun h r => h.failLaunch t.lid (h.trapFault co t r)) h
    g = { h with launches := g.launches }
      ∧ ∃ l', g.launch? t.lid = some l' ∧ (l.abort = true ∨ rs ≠ [] → l'.abort = true)
        ∧ l'.failing = l.failing ++ rs.map (h.trapFault co t) := by
  induction rs generalizing h l with
  | nil => exact ⟨rfl, l, hl, fun h => h.resolve_right (fun hne => hne rfl), (List.append_nil _).symm⟩
  | cons r rs ih =>
    rw [List.foldl_cons, Hw.failLaunch_of_some hl]
    have hset : (h.setLaunch { l with failing := l.failing ++ [h.trapFault co t r], abort := true }).launch? t.lid
        = some { l with failing := l.failing ++ [h.trapFault co t r], abort := true } := Hw.launch?_setLaunch _ hlid
    obtain ⟨hsame, l', hl', habort, hfailing⟩ := ih hset hlid
    refine ⟨hsame.trans rfl, l', hl', fun _ => habort (.inl rfl), hfailing.trans ?_⟩
    rw [List.append_assoc]; rfl

/-! ### The controller's decision -/

section
variable {h : Hw} {co : CoreId} {t : Task} {r : TrapRec} {l : Launch}

/-- A record that is no translation fault has no repair (R365). -/
theorem Hw.repairFor_other (h20 : r.code ≠ 0x20) (h21 : r.code ≠ 0x21) : h.repairFor l co r = .fatal := by
  have h20 : r.code.toNat ≠ 0x20 := fun hc => h20 (BitVec.eq_of_toNat_eq hc)
  have h21 : r.code.toNat ≠ 0x21 := fun hc => h21 (BitVec.eq_of_toNat_eq hc)
  unfold Hw.repairFor
  split
  · next hc => exact absurd hc h20
  · next hc => exact absurd hc h21
  · rfl

/-- A translation fault that the tables show mended needs nothing (R365). -/
theorem Hw.repairFor_mended (h20 : r.code = 0x20) {f : Leaf} {lv : Nat} {en : BitVec 64}
    (hwalk : h.walkRoot l.rootpa r.addr.toNat = .ok f lv en) : h.repairFor l co r = .mended := by
  simp only [Hw.repairFor, h20, hwalk]
  rfl

/-- Only a copy-on-write repair waits (R366). -/
theorem Hw.repairWaits_of_no_copy (htask : (h.core co).task = some t) (hl : h.launch? t.lid = some l)
    (hno : ∀ f lv, h.repairFor l co r ≠ .copy f lv) : h.repairWaits co r = false := by
  cases hr : h.repairFor l co r with
  | copy f lv => exact absurd hr (hno f lv)
  | mended | map _ | fatal => simp only [Hw.repairWaits, htask, Option.bind_some, hl, hr]

theorem Hw.serveRecord_held (hl : h.launch? t.lid = some l) (hfatal : (h.core co).fatal = false) (hcode : r.code = 0x41)
    (hhold : setHas h.holds t.lid = true) : h.serveRecord co t r = h.onCore co (fun k => { k.repaired r with held := true }) := by
  simp only [Hw.serveRecord, hl, hfatal, hcode, hhold, and_self, if_true, Bool.false_eq_true, if_false]

theorem Hw.serveRecord_fatal (hl : h.launch? t.lid = some l) (hfatal : (h.core co).fatal = false) (h20 : r.code ≠ 0x20)
    (h21 : r.code ≠ 0x21) (hhold : ¬(r.code = 0x41 ∧ setHas h.holds t.lid = true)) : h.serveRecord co t r = h.forwardStop co t r := by
  simp only [Hw.serveRecord, hl, hfatal, hhold, h20, h21, Hw.repairFor_other h20 h21, decide_false, Bool.or_self, Bool.false_and,
    Bool.false_eq_true, if_false]

theorem Hw.serveRecord_mended (hl : h.launch? t.lid = some l) (hfatal : (h.core co).fatal = false) (h20 : r.code = 0x20)
    {f : Leaf} {lv : Nat} {en : BitVec 64} (hwalk : h.walkRoot l.rootpa r.addr.toNat = .ok f lv en) (herrs : h.errs = [])
    (hbar : ∀ p ∈ h.entriesFrom r.addr.toNat 4 0 l.rootpa, h.barAt { src := co.isle, pkey := l.pkey } opRead p = none) :
    h.serveRecord co t r = h.onCore co (fun k => k.repaired r) := by
  have hhold : ¬(r.code = 0x41 ∧ setHas h.holds t.lid = true) := fun hc => absurd (h20 ▸ hc.1) (by decide)
  have hany : (h.entriesFrom r.addr.toNat 4 0 l.rootpa).any
      (fun pa => (h.barAt { src := co.isle, pkey := l.pkey } opRead pa).isSome) = false :=
    List.any_eq_false.mpr fun p hp => by rw [hbar p hp]; exact Bool.false_ne_true
  have hmended : h.repairFor l co r = .mended := Hw.repairFor_mended h20 hwalk
  simp only [Hw.serveRecord, hl, hfatal, hhold, Bool.false_eq_true, if_false]
  simp only [h20, decide_true, Bool.true_or, if_true, Hw.reading_of_clear herrs hbar, hany, Bool.and_false, Bool.false_eq_true,
    if_false, hmended]

end

/-! ### Serving a record -/

section
variable {s : State} {isle : Nat} {co : CoreId} {t : Task} {r : TrapRec} {l : Launch}

/-- A record of a stopped task that need not wait is taken from the queue and decided (R364, R365). -/
theorem execTrapRecordService_serves (hne : (s.toHw.isle isle).tqHead ≠ (s.toHw.isle isle).tqTail)
    (hfind : tabFind (s.toHw.isle isle).trapq ((s.toHw.isle isle).tqHead.toNat % 1024) = some (r, co))
    (htask : (s.toHw.core co).task = some t) (hstop : (s.toHw.core co).stopped = true) (hwait : s.toHw.repairWaits co r = false) :
    exec (.trapRecordService isle) s = .next (s.attempt (fun h => (h.takeHead isle).serveRecord co t r)) := by
  have hcore : ∀ x, (s.toHw.atRest.setIsle isle x).core co = s.toHw.core co := fun _ => rfl
  simp only [exec_trapRecordService, execTrapRecordService, hne, hfind, Option.any_some, hwait, Bool.and_false, decide_false,
    Bool.or_self, Bool.false_eq_true, if_false]
  rw [State.attempt, State.attempt, hcore, htask]
  simp only [hstop, if_true]
  rfl

/-- The service of a record, by what the decision gives. -/
theorem execTrapRecordService_of_serveRecord (hne : (s.toHw.isle isle).tqHead ≠ (s.toHw.isle isle).tqTail)
    (hfind : tabFind (s.toHw.isle isle).trapq ((s.toHw.isle isle).tqHead.toNat % 1024) = some (r, co))
    (htask : (s.toHw.core co).task = some t) (hstop : (s.toHw.core co).stopped = true) (hwait : s.toHw.repairWaits co r = false) {g : Hw}
    (hserve : (s.toHw.atRest.takeHead isle).serveRecord co t r = g) (hstall : g.stall = false) :
    exec (.trapRecordService isle) s = .next { s with toHw := { g with stall := s.stall } } := by
  rw [execTrapRecordService_serves hne hfind htask hstop hwait, State.attempt_of_routed (by rw [hserve]; exact hstall), hserve]

/-- What a served record leaves as it was: TQHEAD has moved past it, and no byte of memory differs. -/
theorem served_of_unmoved {u : State} (hisles : u.isles = (s.toHw.takeHead isle).isles) (hmem : u.mem = s.mem) :
    (u.toHw.isle isle).tqHead = (s.toHw.isle isle).tqHead + 1 ∧ ∀ a, memRead u.mem a = memRead s.mem a := by
  refine ⟨?_, fun a => by rw [hmem]⟩
  rw [← Hw.takeHead_tqHead, Hw.isle, hisles]; rfl

/-- A record whose decision changes its core alone. -/
theorem execTrapRecordService_of_onCore (hne : (s.toHw.isle isle).tqHead ≠ (s.toHw.isle isle).tqTail)
    (hfind : tabFind (s.toHw.isle isle).trapq ((s.toHw.isle isle).tqHead.toNat % 1024) = some (r, co))
    (htask : (s.toHw.core co).task = some t) (hstop : (s.toHw.core co).stopped = true) (hwait : s.toHw.repairWaits co r = false)
    {f : Core → Core} (hserve : (s.toHw.atRest.takeHead isle).serveRecord co t r = (s.toHw.atRest.takeHead isle).onCore co f) :
    ∃ u : State, exec (.trapRecordService isle) s = .next u ∧ u.toHw.core co = f (s.toHw.core co)
      ∧ (u.toHw.isle isle).tqHead = (s.toHw.isle isle).tqHead + 1 ∧ ∀ a, memRead u.mem a = memRead s.mem a :=
  ⟨_, execTrapRecordService_of_serveRecord hne hfind htask hstop hwait hserve rfl,
    Hw.core_onCore (s.toHw.atRest.takeHead isle) co f, served_of_unmoved rfl rfl⟩

/-- A stop whose record has no repair is fatal, and its launch is handed every record of it (R365, R370). -/
theorem Hw.forwardStop_spec {h : Hw} (hl : h.launch? t.lid = some l) (hlid : l.lid = t.lid) :
    h.forwardStop co t r = { h.setCore co { h.core co with fatal := true, taken := [] } with launches := (h.forwardStop co t r).launches }
      ∧ ∃ l', (h.forwardStop co t r).launch? t.lid = some l' ∧ l'.abort = true
        ∧ l'.failing = l.failing ++ ((h.core co).taken ++ [r]).map (h.trapFault co t) := by
  obtain ⟨hsame, l', hl', habort, hfailing⟩ := Hw.failLaunch_records (co := co) (t := t)
    (h := h.setCore co { h.core co with fatal := true, taken := [] }) hl hlid ((h.core co).taken ++ [r])
  exact ⟨hsame, l', hl', habort (.inr (by simp)), hfailing⟩

end

/-! ### Resuming -/

theorem Core.restart_eng (k : Core) (e : EngId) :
    (k.restart.eng e).g = (k.eng e).g ∧ (k.restart.eng e).pc = (k.eng e).pc ∧ (k.restart.eng e).st = (k.eng e).st := by
  cases e <;> exact ⟨rfl, rfl, rfl⟩

theorem execCctlResume_of_resumable {s : State} {co : CoreId} (h : (s.toHw.core co).resumable = true) :
    exec (.cctlResume co) s = .next (s.upd (fun h => h.onCore co Core.restart)) := by
  rw [exec_cctlResume, execCctlResume, if_pos h]

theorem execCctlResume_of_not {s : State} {co : CoreId} (h : (s.toHw.core co).resumable = false) : exec (.cctlResume co) s = .next s := by
  rw [exec_cctlResume, execCctlResume, h]; rfl

/-! ### An access that meets an error in its cells -/

section
variable {s v : State} {i g : Nat} {w : BitVec 96} {n : Insn}

/-- The state as slot `i` of a group sees it: the slot and its word stand in the issue record (R363). -/
def State.atSlot (s : State) (i : Nat) (w : BitVec 96) : State := { s with ix := { s.ix with slot := i, word := w } }

/-- An instruction whose checks hold and whose access meets an error traps in place of its result (R144). -/
theorem State.runSlot_meets (hpsn : (s.p n.gp).psn = false) (hguard : s.guardTrue n = true) (hexec : exec n.op (s.atSlot i w) = .next v)
    (htrap : v.ix.trap = none) (hblocked : v.ix.blocked = false) (herrs : s.toHw.cellErrs ≠ []) {t : TrapInfo}
    (hmet : (s.atSlot i w).cellMet n.op = some t) : s.runSlot i w n = .next ((s.atSlot i w).raise t) := by
  have hclean : ((s.atSlot i w).toHw.cellErrs.isEmpty || v.ix.trap.isSome || v.ix.blocked) = false := by
    rw [htrap, hblocked, Option.isSome_none, Bool.or_false, Bool.or_false]
    exact List.isEmpty_eq_false_iff.mpr herrs
  have hpsn' : ((s.atSlot i w).p n.gp).psn = false := hpsn
  have hguard' : (s.atSlot i w).guardTrue n = true := hguard
  unfold State.runSlot
  rw [← State.atSlot]
  simp only [hpsn', hguard', hexec, hclean, hmet, Bool.false_eq_true, if_false, if_true]

theorem Hw.cellErrs_of_met {h : Hw} {spans : List (Nat × Nat)} (hg : h.cellErrIn spans = some g) : h.cellErrs ≠ [] := by
  intro hnil
  rw [Hw.cellErrIn, hnil] at hg
  exact absurd hg (by simp)

theorem State.cellMet_local {j : Instr} (hg : s.toHw.cellErrIn (s.localSpans j) = some g) :
    ∃ t : TrapInfo, s.cellMet j = some t ∧ t.code = 0x70 ∧ t.detail = machineDetail 3 (16 * g - localKey s.ix.co 0) := by
  simp only [State.cellMet, hg]
  exact ⟨_, rfl, rfl, rfl⟩

theorem State.cellMet_acc {j : Instr} (hnone : s.toHw.cellErrIn (s.localSpans j) = none)
    (hg : s.toHw.cellErrIn (s.accSpans j) = some g) :
    s.cellMet j = some { code := 0x70, detail := machineDetail 4 (16 * g - accKey s.ix.co.isle (CoreId.ins s.ix.co) 0) } := by
  simp only [State.cellMet, hnone, hg]

end

/-! ### Machine faults -/

/-- A core stops at once on a machine fault that enters its isle's MCLOG with a class and an address; no byte of memory differs. -/
def StopsNoted (s : State) (co : CoreId) (cls off : Nat) (o : Out) : Prop :=
  ∃ u : State, o = .next u ∧ (u.toHw.core co).stopped = true ∧ (u.toHw.isle co.isle).mclog = (s.toHw.isle co.isle).mclog.push cls off
    ∧ ∀ a, memRead u.mem a = memRead s.mem a

/-- A trap taken after the fault has been noted. -/
theorem stopsNoted_takeTrap {s : State} {co : CoreId} {cls off : Nat} {g : Hw} (r : TrapRec)
    (hisles : g.isles = (s.toHw.noteIsle co.isle cls off).isles) (hmem : g.mem = s.mem) :
    StopsNoted s co cls off (.next { s with toHw := g.takeTrap co r }) := by
  refine ⟨_, rfl, ?_, ?_, fun a => by rw [← hmem]; rfl⟩
  · show ((g.takeTrap co r).core co).stopped = true
    rw [Hw.takeTrap_core]; rfl
  · show ((g.takeTrap co r).isle co.isle).mclog = _
    rw [Hw.takeTrap_mclog, Hw.isle, hisles]
    exact congrArg Isle.mclog (Hw.isle_onIsle s.toHw co.isle _)

/-- A command that runs has an error met in its memory: it faults (R139, R369). -/
theorem Hw.memoryFault_command {h : Hw} {co : CoreId} {uid : Nat} {c : Cmd} (hc : h.cmd? co uid = some c) (hst : c.started = true)
    (hperf : c.performed = false) (hfault : c.fault = none) (cls off : Nat) :
    h.memoryFault co (.command uid) cls off = (h.noteIsle co.isle cls off).faultCmd co uid 0x70 off (machineDetail cls off) := by
  have hany : (h.core co).cmds.any (fun c => c.uid == uid && c.started && !c.performed && c.fault.isNone) = true := by
    refine List.any_eq_true.mpr ⟨c, List.mem_of_find?_eq_some hc, ?_⟩
    have huid : (c.uid == uid) = true := List.find?_some (p := fun c : Cmd => c.uid == uid) hc
    simp only [huid, hst, hperf, hfault, Option.isNone_none, Bool.not_false, Bool.and_self]
  simp only [Hw.memoryFault, hany, if_true]

/-- A command that faults keeps its fault, and its core takes the trap (R139). -/
theorem Hw.faultCmd_of_some {h : Hw} {co : CoreId} {uid : Nat} {c : Cmd} (hc : h.cmd? co uid = some c) (code : Byte) (addr : Int)
    (d : BitVec 256) :
    ∃ k r, h.faultCmd co uid code addr d = (h.setCore co k).takeTrap co r
      ∧ ∃ f ∈ k.cmds.filter (fun c => c.uid == uid), ∃ x, f.fault = some x ∧ x.code = code := by
  have hmem : c ∈ (h.core co).cmds := List.mem_of_find?_eq_some hc
  have huid : (c.uid == uid) = true := List.find?_some (p := fun c : Cmd => c.uid == uid) hc
  simp only [Hw.faultCmd, hc]
  refine ⟨_, _, rfl, { c with fault := some ⟨code, BitVec.ofInt 64 addr, (c.record co code addr d).detail⟩, piece := .idle, at_ := 0 },
    List.mem_filter.mpr ⟨?_, huid⟩, _, rfl, rfl⟩
  split <;> exact List.mem_map.mpr ⟨c, hmem, if_pos huid⟩

section
variable {s : State} {co : CoreId} {off sl : Nat}

theorem machineFault_landingBuffer {y : LSlot} (hy : tabFind (s.toHw.core co).slots off = some y) :
    exec (.machineFault (.landingBuffer co off)) s = .next (s.upd (fun h => h.landingFault co off y)) := by
  simp only [exec_machineFault, execMachineFault, hy]

theorem machineFault_landingBuffer_free (hnone : tabFind (s.toHw.core co).slots off = none) :
    exec (.machineFault (.landingBuffer co off)) s = .next s := by
  simp only [exec_machineFault, execMachineFault, hnone]

/-- Accumulator memory of a slot that holds no tile, or one that has halted, is met by no tile (R226). -/
theorem machineFault_accMem_idle (h : ∀ z, (tabFind (s.toHw.core co).slots sl).bind (·.tile) = some z → z.halted = true) :
    exec (.machineFault (.accMem co (.tile sl) off)) s = .next s := by
  rw [exec_machineFault, execMachineFault, State.upd, Hw.memoryFault]
  cases hz : (tabFind (s.toHw.core co).slots sl).bind (·.tile) with
  | none => rfl
  | some z => simp only [h z hz, if_true]

theorem machineFault_accMem_tile {z : TileJob} (hz : (tabFind (s.toHw.core co).slots sl).bind (·.tile) = some z) (hgoes : z.halted = false) :
    exec (.machineFault (.accMem co (.tile sl) off)) s =
      .next (s.upd (fun h => (h.noteIsle co.isle 4 off).failTile co sl 0x70 off 0 (machineDetail 4 off))) := by
  simp only [exec_machineFault, execMachineFault, State.upd, Hw.memoryFault, hz, hgoes, Bool.false_eq_true, if_false]
  rfl

end

/-- The array's tile meets an error: it is abandoned, and its core takes the trap (R226, R369). -/
theorem Hw.failTile_of_some {h : Hw} {co : CoreId} {slot : Nat} {x : LSlot} {t : TileJob} (hx : tabFind (h.core co).slots slot = some x)
    (ht : x.tile = some t) (code : Byte) (va row : Nat) (d : BitVec 256) :
    ∃ k r, h.failTile co slot code va row d = (h.setCore co k).takeTrap co r := by
  simp only [Hw.failTile, hx, ht]
  exact ⟨_, _, rfl⟩

/-! ### Units that fail -/

theorem Hw.serveMark_launches (h : Hw) (isle ins : Nat) : (h.serveMark isle ins).launches = h.launches := by
  simp only [Hw.serveMark]
  split
  · rfl
  · split <;> rfl

/-- Pending changes of an isle touch no launch (R27). -/
theorem Hw.applyPending_launches (h : Hw) (isle : Nat) : (h.applyPending isle).launches = h.launches := by
  have hchange : ∀ (h : Hw) (c : SvcChange), (h.applyChange isle c).launches = h.launches := fun h c => by cases c <;> rfl
  simp only [Hw.applyPending]
  rw [foldl_keeps Hw.launches, foldl_keeps Hw.launches]
  · exact foldl_keeps Hw.launches hchange _ h
  · intro h e; split <;> rfl
  · intro h e; split
    · exact h.serveMark_launches _ _
    · rfl

theorem Hw.withdraw_launches (h : Hw) (isle : Nat) (c : SvcChange) : (h.withdraw isle c).launches = h.launches := by
  rw [Hw.withdraw, Hw.settlePending]
  split
  · rfl
  · exact Hw.applyPending_launches _ _

/-- A launch ID has its own launch, which is to end. -/
def Hw.Aborts (h : Hw) (lid : Nat) : Prop := ∃ l, h.launch? lid = some l ∧ l.lid = lid ∧ l.abort = true

/-- What failing some launch leaves of another: it is as it was, or is to end as well. -/
theorem Hw.launch?_failLaunch (h : Hw) (k : Nat) (r : FaultRec) (lid : Nat) :
    (h.failLaunch k r).launch? lid = h.launch? lid ∨ (h.failLaunch k r).Aborts lid := by
  cases hk : h.launch? k with
  | none => exact .inl (by rw [Hw.failLaunch, Hw.onLaunch, hk])
  | some l =>
    rw [Hw.failLaunch_of_some hk]
    by_cases hl : lid = l.lid
    · exact .inr ⟨_, Hw.launch?_setLaunch _ hl.symm, hl.symm, rfl⟩
    · exact .inl (tabFind_put_other _ hl _)

theorem Hw.aborts_failLaunch {h : Hw} {lid : Nat} (ha : h.Aborts lid) (k : Nat) (r : FaultRec) : (h.failLaunch k r).Aborts lid := by
  rcases h.launch?_failLaunch k r lid with hsame | habort
  · rw [Hw.Aborts, hsame]; exact ha
  · exact habort

theorem Hw.aborts_failLaunch_self {h : Hw} {lid : Nat} {l : Launch} (hl : h.launch? lid = some l) (hlid : l.lid = lid) (r : FaultRec) :
    (h.failLaunch lid r).Aborts lid := by
  rw [Hw.failLaunch_of_some hl]
  exact ⟨_, Hw.launch?_setLaunch _ hlid, hlid, rfl⟩

/-- A fold that fails the launches of some entries, one of them the launch's own, leaves it to end. -/
theorem aborts_foldl_failLaunch (sel : Nat × Launch → Bool) (rec : FaultRec) {lid : Nat} {es : List (Nat × Launch)} {h : Hw} {e : Nat × Launch}
    (he : e ∈ es) (hkey : e.1 = lid) (hsel : sel e = true) {l : Launch} (hl : h.launch? lid = some l) (hlid : l.lid = lid) :
    (es.foldl (fun g x => if sel x then g.failLaunch x.1 rec else g) h).Aborts lid := by
  have hkeeps : ∀ (es : List (Nat × Launch)) (h : Hw), h.Aborts lid →
      (es.foldl (fun g x => if sel x then g.failLaunch x.1 rec else g) h).Aborts lid := by
    intro es
    induction es with
    | nil => exact fun h ha => ha
    | cons x es ih =>
      intro h ha
      rw [List.foldl_cons]
      refine ih _ ?_
      split
      · exact Hw.aborts_failLaunch ha _ _
      · exact ha
  induction es generalizing h l with
  | nil => exact absurd he List.not_mem_nil
  | cons x es ih =>
    rw [List.foldl_cons]
    rcases List.mem_cons.mp he with rfl | hmem
    · rw [if_pos hsel, hkey]
      exact hkeeps es _ (Hw.aborts_failLaunch_self hl hlid _)
    · split
      · rcases h.launch?_failLaunch x.1 rec lid with hsame | habort
        · exact ih hmem (hsame.trans hl) hlid
        · exact hkeeps es _ habort
      · exact ih hmem hl hlid

theorem mem_of_tabFind {α : Type} {t : Tab α} {k : Nat} {x : α} (h : tabFind t k = some x) : (k, x) ∈ t := by
  induction t with
  | nil => exact absurd h (by simp [tabFind])
  | cons e t ih =>
    rw [tabFind] at h
    split at h
    · next hk => cases h; rw [hk]; exact List.mem_cons_self
    · exact List.mem_cons_of_mem _ (ih h)

/-- A launch that holds an isle of which a unit fails is to end (R369). -/
theorem Hw.unitFault_aborts {h : Hw} {isle lid : Nat} {l : Launch} (hl : h.launch? lid = some l) (hlid : l.lid = lid)
    (hholds : l.isles.contains isle = true) (addr : Nat) (c : SvcChange) : (h.unitFault isle addr c).Aborts lid := by
  simp only [Hw.unitFault, Hw.faultUsers, Hw.Aborts, Hw.launch?, Hw.withdraw_launches]
  exact aborts_foldl_failLaunch _ _ (mem_of_tabFind hl) rfl (by rw [hholds]; rfl) hl hlid

/-- A line that meets a fault is marked, and nothing but its slice and its mark differs (R105). -/
theorem hbmLine_marks (s : State) (pa : Nat) :
    ∃ u : State, exec (.machineFault (.hbmLine pa)) s = .next u ∧ (u.toHw.lineOf pa).bad = true ∧ u.cores = s.cores
      ∧ ∀ a, memRead u.mem a = memRead s.mem a :=
  ⟨_, rfl, congrArg LineMeta.bad (tabGet_put_same _ _ _ _), rfl, fun _ => rfl⟩

/-- Settles O54. The class numbers 1, 3, 4 and 12 of MCLOG (log entry 27) and where an error waits for the access that meets it (log
entry 79) are the model's reading. -/
theorem trapServiceAndResume : Obligations.TrapServiceAndResume := by
  intro s isle off pa quay addr uid un w n co e r t l x k walk served met halts
  refine ⟨?service, ?resume, ?noResume, rfl, rfl, coreIs_onCore s co _, ?cells, ?landing, ?noLanding, ?command, ?noTile, ?haltedTile,
    ?tile, hbmLine_marks s pa, ⟨_, rfl, rfl, tabFind_put_same _ _ _⟩, ?quaySram, ?isleUnit⟩
  case service =>
    intro hne hfind htask hstop hfatal hl hlid
    have hwait : (∀ f lv, s.toHw.repairFor l co r ≠ .copy f lv) → s.toHw.repairWaits co r = false := Hw.repairWaits_of_no_copy htask hl
    refine ⟨fun hcode hhold => ?_, fun h20 hmended herrs hbar => ?_, fun h20 h21 hhold => ?_⟩
    · have hfree := hwait fun f lv => by rw [Hw.repairFor_other (hcode ▸ by decide) (hcode ▸ by decide)]; exact Repair.noConfusion
      exact execTrapRecordService_of_onCore hne hfind htask hstop hfree (Hw.serveRecord_held hl hfatal hcode hhold)
    · obtain ⟨f, lv, en, hwalk⟩ := hmended
      have hfree := hwait fun f lv => by rw [Hw.repairFor_mended h20 hwalk]; exact Repair.noConfusion
      have hwalk' : (s.toHw.atRest.takeHead isle).walkRoot l.rootpa r.addr.toNat = .ok f lv en :=
        (Hw.walkFrom_congr (h := s.toHw) rfl _ _ _ _).trans hwalk
      have hbar' : ∀ p ∈ (s.toHw.atRest.takeHead isle).entriesFrom r.addr.toNat 4 0 l.rootpa,
          (s.toHw.atRest.takeHead isle).barAt { src := co.isle, pkey := l.pkey } opRead p = none := by
        intro p hp
        rw [Hw.entriesFrom_congr (g := s.toHw.atRest.takeHead isle) (h := s.toHw) rfl] at hp
        rw [Hw.barAt_takeHead, Hw.barAt_congr (g := s.toHw.atRest) (h := s.toHw) (fun _ => rfl) (fun _ => rfl) rfl rfl rfl rfl rfl]
        exact hbar p hp
      exact execTrapRecordService_of_onCore hne hfind htask hstop hfree (Hw.serveRecord_mended hl hfatal h20 hwalk' herrs hbar')
    · have hfree := hwait fun f lv => by rw [Hw.repairFor_other h20 h21]; exact Repair.noConfusion
      obtain ⟨hsame, l', hl', habort, hfailing⟩ := Hw.forwardStop_spec (co := co) (r := r) (h := s.toHw.atRest.takeHead isle) hl hlid
      have hcore : ((s.toHw.atRest.takeHead isle).forwardStop co t r).core co = { k with fatal := true, taken := [] } := by
        rw [hsame]; exact Hw.core_setCore _ _ _
      refine ⟨_, l', execTrapRecordService_of_serveRecord hne hfind htask hstop hfree (Hw.serveRecord_fatal hl hfatal h20 h21 hhold)
        (by rw [hsame]; rfl), congrArg Core.fatal hcore, (congrArg Core.stopped hcore).trans hstop, hl', habort, hfailing, ?_⟩
      exact served_of_unmoved (by rw [hsame]; rfl) (by rw [hsame]; rfl)
  case resume =>
    intro hstop hunrep hfatal
    rw [execCctlResume_of_resumable (by simp only [Core.resumable]; simp [k, hstop, hunrep, hfatal])]
    exact ⟨_, coreIs_onCore s co _, rfl, rfl, rfl, rfl, rfl, rfl, rfl, rfl, rfl, rfl, Core.restart_eng _⟩
  case noResume =>
    intro _ h
    refine execCctlResume_of_not ?_
    rcases h with h | h <;> simp [Core.resumable, h, k]
  case cells =>
    intro v g hpsn hguard hexec htrap hblocked
    refine ⟨fun hg => ?_, fun hnone hg => ?_⟩
    · obtain ⟨i, hmet, hcode, hdetail⟩ := State.cellMet_local (s := s.atSlot uid w) hg
      exact ⟨i, State.runSlot_meets hpsn hguard hexec htrap hblocked (Hw.cellErrs_of_met hg) hmet, hcode, hdetail⟩
    · exact State.runSlot_meets hpsn hguard hexec htrap hblocked (Hw.cellErrs_of_met hg) (State.cellMet_acc (s := s.atSlot uid w) hnone hg)
  case landing =>
    intro y hy
    show StopsNoted s co 1 off _
    rw [machineFault_landingBuffer hy]
    exact stopsNoted_takeTrap _ rfl rfl
  case noLanding => exact machineFault_landingBuffer_free
  case command =>
    intro c hc hst hperf hfault
    obtain ⟨k', r', hfaulted, hcmd⟩ := Hw.faultCmd_of_some (h := s.toHw.noteIsle co.isle 3 off) hc 0x70 off (machineDetail 3 off)
    have hexec : exec (.machineFault (.localMem co (.command uid) off)) s =
        .next { s with toHw := ((s.toHw.noteIsle co.isle 3 off).setCore co k').takeTrap co r' } := by
      rw [exec_machineFault, execMachineFault, State.upd, Hw.memoryFault_command hc hst hperf hfault, hfaulted]
    refine ⟨?_, fun u hu => ?_⟩
    · show StopsNoted s co 3 off _
      rw [hexec]
      exact stopsNoted_takeTrap _ rfl rfl
    · cases hexec.symm.trans hu
      rw [Hw.takeTrap_core, Hw.core_setCore]
      exact hcmd
  case noTile =>
    intro sl y hy hno
    refine machineFault_accMem_idle fun z hz => ?_
    rw [hy, Option.bind_some, hno] at hz
    exact nomatch hz
  case haltedTile =>
    intro sl y z hy hz hhalted
    refine machineFault_accMem_idle fun z' hz' => ?_
    rw [hy, Option.bind_some, hz] at hz'
    cases hz'
    exact hhalted
  case tile =>
    intro sl y z hy hz hgoes
    obtain ⟨k', r', hfailed⟩ := Hw.failTile_of_some (h := s.toHw.noteIsle co.isle 4 off) hy hz 0x70 off 0 (machineDetail 4 off)
    show StopsNoted s co 4 off _
    rw [machineFault_accMem_tile (by rw [hy]; exact hz) hgoes, State.upd, hfailed]
    exact stopsNoted_takeTrap _ rfl rfl
  case quaySram => exact ⟨_, rfl, congrArg Quay.mclog (tabGet_put_same _ _ _ _), fun _ => rfl⟩
  case isleUnit =>
    refine ⟨_, rfl, fun lid l hl hlid hholds => ?_⟩
    obtain ⟨l', hl', -, habort⟩ := Hw.unitFault_aborts hl hlid hholds 0 .isle
    exact ⟨l', hl', habort⟩

end Sys2Proof.Machine
end

section
/-! SUPPORT. Landings and freezes, the words of a tile, leases, what the array does before a landing, calibration and temperature
(R21, R152, R153, R182, R214-R231, R402). -/

namespace Sys2Proof.Machine

/-! ### Numbers in memory -/

theorem Hw.mem_putNum (h : Hw) (k n v : Nat) : (h.putNum k n v).mem = memWriteN (leBytes n v) k h.mem := rfl

/-- A number written is read back, cut to its bytes. -/
theorem Hw.num_putNum_same {h : Hw} (w : h.Ok) (k n v : Nat) : (h.putNum k n v).num k n = v % 256 ^ n := by
  have hbytes : (h.putNum k n v).bytes k n = leBytes n v := by
    refine List.ext_getElem (by simp [Hw.bytes, memReadN]) fun i hi _ => ?_
    have hin : i < (leBytes n v).length := by simpa [Hw.bytes, memReadN] using hi
    simpa [Hw.bytes, memReadN, Hw.mem_putNum] using memRead_writeN_in (leBytes n v) k i w hin
  rw [Hw.num, hbytes, leNat_leBytes]

theorem Hw.memRead_putNum_out {h : Hw} (w : h.Ok) {k n a : Nat} (v : Nat) (ha : a < k ∨ k + n ≤ a) :
    memRead (h.putNum k n v).mem a = memRead h.mem a :=
  memRead_writeN_out _ _ _ w (by rwa [leBytes_length])

theorem Hw.num_of_memRead {h g : Hw} {k n : Nat} (hread : ∀ i, i < n → memRead g.mem (k + i) = memRead h.mem (k + i)) :
    g.num k n = h.num k n := by
  simp only [Hw.num, Hw.bytes, memReadN]
  exact congrArg leNat (List.map_congr_left fun i hi => hread i (List.mem_range.mp hi))

/-! ### Words of a memory changed one after another -/

/-- 4-byte words, each at its place replaced by a function of what it holds. -/
def Hw.mapWords (h : Hw) (ws : List (Nat × (Lane → Lane))) : Hw :=
  ws.foldl (fun h x => h.putNum x.1 4 (x.2 (BitVec.ofNat 32 (h.num x.1 4))).toNat) h

/-- Words that do not meet. -/
def WordsApart (ws : List (Nat × (Lane → Lane))) : Prop := ws.Pairwise (fun x y => x.1 + 4 ≤ y.1 ∨ y.1 + 4 ≤ x.1)

theorem Hw.mapWords_cores (h : Hw) (ws : List (Nat × (Lane → Lane))) : (h.mapWords ws).cores = h.cores := by
  induction ws generalizing h with
  | nil => rfl
  | cons x ws ih => exact ih _

theorem Hw.memRead_mapWords_out {h : Hw} (w : h.Ok) {ws : List (Nat × (Lane → Lane))} {a : Nat}
    (ha : ∀ x ∈ ws, a < x.1 ∨ x.1 + 4 ≤ a) : memRead (h.mapWords ws).mem a = memRead h.mem a := by
  induction ws generalizing h with
  | nil => rfl
  | cons x ws ih =>
    refine (ih (Hw.putNum_ok w _ _ _) fun y hy => ha y (List.mem_cons_of_mem _ hy)).trans ?_
    exact Hw.memRead_putNum_out w _ (ha x List.mem_cons_self)

/-- Each of some words that do not meet holds the function of what it held. -/
theorem Hw.num_mapWords {h : Hw} (w : h.Ok) {ws : List (Nat × (Lane → Lane))} (hapart : WordsApart ws) {x : Nat × (Lane → Lane)}
    (hx : x ∈ ws) : BitVec.ofNat 32 ((h.mapWords ws).num x.1 4) = x.2 (BitVec.ofNat 32 (h.num x.1 4)) := by
  induction ws generalizing h with
  | nil => exact absurd hx List.not_mem_nil
  | cons y ws ih =>
    obtain ⟨hhead, htail⟩ := List.pairwise_cons.mp hapart
    have w' := Hw.putNum_ok w y.1 4 (y.2 (BitVec.ofNat 32 (h.num y.1 4))).toNat
    rcases List.mem_cons.mp hx with rfl | hmem
    · have hlater := Hw.num_of_memRead (k := x.1) (n := 4) fun i hi => Hw.memRead_mapWords_out w' (ws := ws) (a := x.1 + i) fun y hy => by
        have := hhead y hy; omega
      refine (congrArg (BitVec.ofNat 32) (hlater.trans (Hw.num_putNum_same w _ _ _))).trans (BitVec.eq_of_toNat_eq ?_)
      have := (x.2 (BitVec.ofNat 32 (h.num x.1 4))).isLt
      rw [BitVec.toNat_ofNat]
      omega
    · have hearlier : (h.putNum y.1 4 (y.2 (BitVec.ofNat 32 (h.num y.1 4))).toNat).num x.1 4 = h.num x.1 4 :=
        Hw.num_of_memRead fun i hi => Hw.memRead_putNum_out w _ (by have := hhead x hmem; omega)
      refine (ih w' htail hmem).trans ?_
      rw [hearlier]

/-! ### The words of a tile -/

/-- Word (r, n) of a tile, from the word present (R210, R213, R217, R225). -/
def TileJob.word (t : TileJob) (r n : Nat) (w : Lane) : Lane :=
  let a := Machine.lineOf t.prof t.aData r
  let b := Machine.lineOf t.prof t.bData n
  if profInt t.prof then intWord t.prof (copsStep t.cops r) t.k a b w
  else maWordF t.prof t.afmt t.bfmt t.k t.scaled a b (scaleOf t.prof t.rows t.aData r) (scaleOf t.prof 64 t.bData n) w

/-- The words of a tile by row, each with its place in the core's slots (R205). -/
def TileJob.words (t : TileJob) (co : CoreId) : List (Nat × (Lane → Lane)) :=
  (List.range t.rows).flatMap (fun r => (List.range 64).map (fun n => (slotKey co (t.slot + r / 8) (r % 8) n, t.word r n)))

/-- The words of a tile's rows follow one another in the slots. -/
theorem slotKey_eq (co : CoreId) (slot r n : Nat) : slotKey co (slot + r / 8) (r % 8) n = slotKey co slot 0 0 + 256 * r + 4 * n := by
  simp only [slotKey, accKey]; omega

theorem TileJob.mem_words {t : TileJob} {co : CoreId} {x : Nat × (Lane → Lane)} :
    x ∈ t.words co ↔ ∃ r n, r < t.rows ∧ n < 64 ∧ x = (slotKey co (t.slot + r / 8) (r % 8) n, t.word r n) := by
  simp only [TileJob.words, List.mem_flatMap, List.mem_map, List.mem_range]
  exact ⟨fun ⟨r, hr, n, hn, hx⟩ => ⟨r, n, hr, hn, hx.symm⟩, fun ⟨r, n, hr, hn, hx⟩ => ⟨r, hr, n, hn, hx.symm⟩⟩

theorem TileJob.words_apart (t : TileJob) (co : CoreId) : WordsApart (t.words co) := by
  refine List.pairwise_flatMap.mpr ⟨fun r _ => ?_, List.pairwise_lt_range.imp fun {r q} hrq x hx y hy => ?_⟩
  · refine List.pairwise_map.mpr (List.pairwise_lt_range.imp fun {n m} hnm => ?_)
    simp only [slotKey_eq]
    omega
  · obtain ⟨n, hn, rfl⟩ := List.mem_map.mp hx
    obtain ⟨m, hm, rfl⟩ := List.mem_map.mp hy
    rw [List.mem_range] at hn hm
    simp only [slotKey_eq]
    omega

/-- A tile's landing changes its words one after another. -/
theorem Hw.landTile_eq (h : Hw) (co : CoreId) (t : TileJob) : h.landTile co t = h.mapWords (t.words co) := by
  simp only [Hw.landTile, Hw.mapWords, TileJob.words, List.foldl_flatMap, List.foldl_map]
  rfl

/-- A tile's landing leaves every byte outside its rows (R216). -/
theorem Hw.memRead_landTile_out {h : Hw} (w : h.Ok) (co : CoreId) (t : TileJob) {a : Nat}
    (ha : a < slotKey co t.slot 0 0 ∨ slotKey co t.slot 0 0 + 256 * t.rows ≤ a) : memRead (h.landTile co t).mem a = memRead h.mem a := by
  rw [Hw.landTile_eq]
  refine Hw.memRead_mapWords_out w fun x hx => ?_
  obtain ⟨r, n, hr, hn, rfl⟩ := TileJob.mem_words.mp hx
  simp only [slotKey_eq]
  omega

theorem Hw.num_landTile {h : Hw} (w : h.Ok) (co : CoreId) (t : TileJob) {r n : Nat} (hr : r < t.rows) (hn : n < 64) :
    BitVec.ofNat 32 ((h.landTile co t).num (slotKey co (t.slot + r / 8) (r % 8) n) 4)
      = t.word r n (BitVec.ofNat 32 (h.num (slotKey co (t.slot + r / 8) (r % 8) n) 4)) := by
  rw [Hw.landTile_eq]
  exact Hw.num_mapWords w (t.words_apart co) (TileJob.mem_words.mpr ⟨r, n, hr, hn, rfl⟩)

end Sys2Proof.Machine
end

section
/-! SUPPORT. A due landing and the end of a freeze, by the kind of the slot (R21, R152, R153, R182, R216, R243). -/

namespace Sys2Proof.Machine

/-! ### A core changed twice -/

/-- A core changed after an act that changed only it. -/
theorem CoreIs.next {s t : State} {co : CoreId} {k : Core} (w : CoreIs s co k (.next t)) (g : Core → Core) :
    CoreIs s co (g k) (.next (t.upd (fun h => h.onCore co g))) := by
  obtain ⟨_, ⟨⟩, heq, hcore, hother, hmem⟩ := w
  refine ⟨_, rfl, ?_, ?_, fun d hd => (Hw.core_setCore_other _ _ hd).trans (hother d hd), hmem⟩
  · rw [heq]; rfl
  · rw [← hcore]; exact Hw.core_onCore _ _ g

/-! ### The slot that lands is free -/

/-- A core whose landing slot is free again (R182). -/
def Core.freeSlot (i : Nat) (k : Core) : Core := { k with slots := tabDel i k.slots }

theorem Core.eng_freeSlot (i : Nat) (k : Core) (e : EngId) : (k.freeSlot i).eng e = k.eng e := by cases e <;> rfl

/-- The landing of a race, or of whole vectors. -/
def Core.takeVectors (x : LSlot) (k : Core) : Core := { k with cu := k.cu.putRegs x.dest x.regs }

/-- The landing of a neighbour's word in a scalar register. -/
def Core.takeWord (x : LSlot) (k : Core) : Core :=
  k.setEng x.eng { k.eng x.eng with g := (k.eng x.eng).g.setIfInBounds x.dest ⟨((x.regs.getD 0 {}).bits).setWidth 64, false⟩ }

/-! ### What a landing does, by its kind -/

section
variable (h : Hw) (co : CoreId) (i : Nat) {x : LSlot}

theorem Hw.land_race (hkind : x.kind = .race) : h.land co i x = (h.onCore co (Core.freeSlot i)).onCore co (Core.takeVectors x) := by
  simp only [Hw.land, hkind]; rfl

theorem Hw.land_tile {t : TileJob} (hkind : x.kind = .tile) (htile : x.tile = some t) :
    h.land co i x = (h.onCore co (Core.freeSlot i)).landTile co t := by
  simp only [Hw.land, hkind, htile]; rfl

theorem Hw.land_vldn (hkind : x.kind = .vldn) (herr : x.err = none) (hmark : x.mark = none) :
    h.land co i x = (h.onCore co (Core.freeSlot i)).onCore co (Core.takeVectors x) := by
  simp only [Hw.land, hkind, herr, hmark]; rfl

theorem Hw.land_ldn (hkind : x.kind = .ldn) (herr : x.err = none) (hmark : x.mark = none) (hdest : x.dest ≠ 0) :
    h.land co i x = (h.onCore co (Core.freeSlot i)).onCore co (Core.takeWord x) := by
  simp only [Hw.land, hkind, herr, hmark, if_neg hdest]; rfl

theorem Hw.land_ldn_zero (hkind : x.kind = .ldn) (herr : x.err = none) (hmark : x.mark = none) (hdest : x.dest = 0) :
    h.land co i x = h.onCore co (Core.freeSlot i) := by
  simp only [Hw.land, hkind, herr, hmark, hdest]; rfl

/-- Marked bytes are a trap (R302). -/
theorem Hw.land_marked {m : Nat} (hkind : x.kind = .ldn ∨ x.kind = .vldn) (herr : x.err = none) (hmark : x.mark = some m) :
    h.land co i x = (h.onCore co (Core.freeSlot i)).takeTrap co (x.markRecord co (remoteAddr ⟨co.isle, x.target⟩ m)) := by
  rcases hkind with hkind | hkind <;> simp only [Hw.land, hkind, herr, hmark] <;> rfl

/-- The record of an uncorrectable error that a neighbour's data met (R144). -/
def LSlot.errorRecord (x : LSlot) (co : CoreId) (m : Nat) : TrapRec :=
  { x.markRecord co (remoteAddr ⟨co.isle, x.target⟩ x.off) with code := 0x70, detail := machineDetail 3 m }

theorem Hw.land_error {m : Nat} (hkind : x.kind = .ldn ∨ x.kind = .vldn) (herr : x.err = some m) :
    h.land co i x = ((h.onCore co (Core.freeSlot i)).takeTrap co (x.errorRecord co m)).noteMachine co (x.errorRecord co m) := by
  rcases hkind with hkind | hkind <;> simp only [Hw.land, hkind, herr] <;> rfl

end

/-! ### The events -/

theorem LSlot.ready_of_arrived {x : LSlot} (k : Core) (h : x.arrived = true) : x.ready k = true := by
  cases hkind : x.kind <;> simp [LSlot.ready, hkind, h]

section
variable {s : State} {co : CoreId} {i : Nat} {x : LSlot}

theorem execLandDue_ready (hdue : (s.toHw.core co).firstDue = some (i, x)) (hrun : (s.toHw.core co).frozen = false)
    (hgo : (s.toHw.core co).stopped = false) (hready : x.ready (s.toHw.core co) = true) :
    execLandDue co i s = .next (s.upd (fun h => h.land co i x)) := by
  simp only [execLandDue, hdue, hrun, hgo, hready, bne_self_eq_false, Bool.or_self, Bool.false_eq_true, if_false, if_true]

theorem execLandDue_wait (hdue : (s.toHw.core co).firstDue = some (i, x)) (hrun : (s.toHw.core co).frozen = false)
    (hgo : (s.toHw.core co).stopped = false) (hready : x.ready (s.toHw.core co) = false) :
    execLandDue co i s = .next (s.upd (fun h => h.onCore co (fun k => { k with frozen := true }))) := by
  simp only [execLandDue, hdue, hrun, hgo, hready, bne_self_eq_false, Bool.or_self, Bool.false_eq_true, if_false]

theorem execFreezeEnd_ready (hdue : (s.toHw.core co).firstDue = some (i, x)) (hfrozen : (s.toHw.core co).frozen = true)
    (hgo : (s.toHw.core co).stopped = false) (hready : x.ready (s.toHw.core co) = true) :
    execFreezeEnd co s = .next (s.upd (fun h => (h.onCore co (fun k => { k with frozen := false })).land co i x)) := by
  simp only [execFreezeEnd, hdue, hfrozen, hgo, hready, Bool.not_true, Bool.or_self, Bool.false_eq_true, if_false]

theorem execFreezeEnd_none (hdue : (s.toHw.core co).firstDue = none) :
    CoreIs s co { s.toHw.core co with frozen := false } (execFreezeEnd co s) := by
  simp only [execFreezeEnd, hdue]
  exact coreIs_onCore s co _

/-- A frozen core's race lands, and the core goes on. -/
theorem execFreezeEnd_race (hdue : (s.toHw.core co).firstDue = some (i, x)) (hfrozen : (s.toHw.core co).frozen = true)
    (hgo : (s.toHw.core co).stopped = false) (hkind : x.kind = .race) (harrived : x.arrived = true) :
    CoreIs s co (Core.takeVectors x (Core.freeSlot i { s.toHw.core co with frozen := false })) (execFreezeEnd co s) := by
  rw [execFreezeEnd_ready hdue hfrozen hgo (LSlot.ready_of_arrived _ harrived)]
  simp only [Hw.land_race _ co i hkind]
  exact ((coreIs_onCore s co (fun k => { k with frozen := false })).next (Core.freeSlot i)).next (Core.takeVectors x)

variable (hdue : (s.toHw.core co).firstDue = some (i, x)) (hrun : (s.toHw.core co).frozen = false)
  (hgo : (s.toHw.core co).stopped = false)
include hdue hrun hgo

theorem landDue_frozen (hready : x.ready (s.toHw.core co) = false) :
    CoreIs s co { s.toHw.core co with frozen := true } (execLandDue co i s) := by
  rw [execLandDue_wait hdue hrun hgo hready]
  exact coreIs_onCore s co _

/-- A race, or a neighbour's vectors without a fault, writes its registers. -/
theorem landDue_vectors (hready : x.ready (s.toHw.core co) = true)
    (hkind : x.kind = .race ∨ x.kind = .vldn ∧ x.err = none ∧ x.mark = none) :
    CoreIs s co (Core.takeVectors x (Core.freeSlot i (s.toHw.core co))) (execLandDue co i s) := by
  have hland : ∀ h : Hw, h.land co i x = (h.onCore co (Core.freeSlot i)).onCore co (Core.takeVectors x) := fun h => by
    rcases hkind with hrace | ⟨hvldn, herr, hmark⟩
    · exact h.land_race co i hrace
    · exact h.land_vldn co i hvldn herr hmark
  rw [execLandDue_ready hdue hrun hgo hready]
  simp only [hland]
  exact (coreIs_onCore s co (Core.freeSlot i)).next (Core.takeVectors x)

theorem landDue_word (hready : x.ready (s.toHw.core co) = true) (hkind : x.kind = .ldn) (herr : x.err = none) (hmark : x.mark = none)
    (hdest : x.dest ≠ 0) : CoreIs s co (Core.takeWord x (Core.freeSlot i (s.toHw.core co))) (execLandDue co i s) := by
  rw [execLandDue_ready hdue hrun hgo hready]
  simp only [Hw.land_ldn _ co i hkind herr hmark hdest]
  exact (coreIs_onCore s co (Core.freeSlot i)).next (Core.takeWord x)

theorem landDue_discard (hready : x.ready (s.toHw.core co) = true) (hkind : x.kind = .ldn) (herr : x.err = none) (hmark : x.mark = none)
    (hdest : x.dest = 0) : CoreIs s co (Core.freeSlot i (s.toHw.core co)) (execLandDue co i s) := by
  rw [execLandDue_ready hdue hrun hgo hready]
  simp only [Hw.land_ldn_zero _ co i hkind herr hmark hdest]
  exact coreIs_onCore s co (Core.freeSlot i)

theorem landDue_marked {m : Nat} (hready : x.ready (s.toHw.core co) = true) (hkind : x.kind = .ldn ∨ x.kind = .vldn) (herr : x.err = none)
    (hmark : x.mark = some m) : ∃ r : TrapRec, r.code = 0x31 ∧ r.landing = true ∧ r.pc = x.pc
      ∧ execLandDue co i s = .next (s.upd (fun h => (h.onCore co (Core.freeSlot i)).takeTrap co r)) := by
  refine ⟨x.markRecord co (remoteAddr ⟨co.isle, x.target⟩ m), rfl, rfl, rfl, ?_⟩
  rw [execLandDue_ready hdue hrun hgo hready]
  simp only [Hw.land_marked _ co i hkind herr hmark]

theorem landDue_error {m : Nat} (hready : x.ready (s.toHw.core co) = true) (hkind : x.kind = .ldn ∨ x.kind = .vldn)
    (herr : x.err = some m) : ∃ r : TrapRec, r.code = 0x70 ∧ r.landing = true ∧ r.pc = x.pc
      ∧ execLandDue co i s = .next (s.upd (fun h => ((h.onCore co (Core.freeSlot i)).takeTrap co r).noteMachine co r)) := by
  refine ⟨x.errorRecord co m, rfl, rfl, rfl, ?_⟩
  rw [execLandDue_ready hdue hrun hgo hready]
  simp only [Hw.land_error _ co i hkind herr]

/-- A tile's landing frees its slot and adds into the words of its rows, and changes no other byte (R216). -/
theorem landDue_tile (hok : s.Inv) {t : TileJob} (hkind : x.kind = .tile) (htile : x.tile = some t) (harrived : x.arrived = true) :
    ∃ u : State, execLandDue co i s = .next u ∧ u.toHw.core co = Core.freeSlot i (s.toHw.core co)
      ∧ (∀ b, b < slotKey co t.slot 0 0 ∨ slotKey co t.slot 0 0 + 256 * t.rows ≤ b → memRead u.mem b = memRead s.mem b)
      ∧ ∀ r n, r < t.rows → n < 64 → BitVec.ofNat 32 (u.toHw.num (slotKey co (t.slot + r / 8) (r % 8) n) 4)
          = t.word r n (BitVec.ofNat 32 (s.toHw.num (slotKey co (t.slot + r / 8) (r % 8) n) 4)) := by
  have hfree : (s.toHw.onCore co (Core.freeSlot i)).Ok := hok
  refine ⟨_, execLandDue_ready hdue hrun hgo (LSlot.ready_of_arrived _ harrived), ?_, fun b hb => ?_, fun r n hr hn => ?_⟩
  · simp only [State.upd, Hw.land_tile _ co i hkind htile, Hw.landTile_eq]
    rw [Hw.core, Hw.mapWords_cores]
    exact Hw.core_onCore s.toHw co (Core.freeSlot i)
  · simp only [State.upd, Hw.land_tile _ co i hkind htile]
    exact Hw.memRead_landTile_out hfree co t hb
  · simp only [State.upd, Hw.land_tile _ co i hkind htile]
    exact Hw.num_landTile hfree co t hr hn

end

end Sys2Proof.Machine
end

section
/-! SUPPORT. Leases, what the array does before a landing, marks of recalibration, temperature and the thermal gap (R27, R214-R220,
R226, R231, R243, R402). -/

namespace Sys2Proof.Machine

/-! ### Leases -/

/-- How far after the last holder a position stands in the order of grants (R220). -/
def Arr.turn (a : Arr) (p : Nat) : Nat := (p + 3 - a.holder.toNat) % 4

theorem Arr.nextHolder_eq_range (a : Arr) : a.nextHolder =
    ((List.range 4).find? (fun i => a.waiting.any (fun w => w.1 == (a.holder.toNat + (i + 1)) % 4))).map
      (fun i => (a.holder.toNat + (i + 1)) % 4) :=
  (List.find?_map (f := fun i => (a.holder.toNat + (i + 1)) % 4) (l := List.range 4)).trans rfl

/-- The waiting position of the smallest turn is granted. -/
theorem Arr.nextHolder_of_turn {a : Arr} {p : Nat} (hp : p < 4) (hwait : ∃ w ∈ a.waiting, w.1 = p)
    (hfirst : ∀ w ∈ a.waiting, w.1 < 4 → a.turn p ≤ a.turn w.1) : a.nextHolder = some p := by
  have hholder := a.holder.isLt
  have hposition : (a.holder.toNat + (a.turn p + 1)) % 4 = p := by rw [Arr.turn]; omega
  have hfind : (List.range 4).find? (fun i => a.waiting.any (fun w => w.1 == (a.holder.toNat + (i + 1)) % 4)) = some (a.turn p) := by
    refine List.find?_range_eq_some.mpr ⟨?_, List.mem_range.mpr (Nat.mod_lt _ (by decide)), fun j hj => ?_⟩
    · obtain ⟨w, hw, rfl⟩ := hwait
      exact List.any_eq_true.mpr ⟨w, hw, beq_iff_eq.mpr hposition.symm⟩
    · refine Bool.not_eq_true' _ |>.mpr (List.any_eq_false.mpr fun w hw heq => ?_)
      have hw1 : w.1 = (a.holder.toNat + (j + 1)) % 4 := beq_iff_eq.mp heq
      have hturn := hfirst w hw (hw1 ▸ Nat.mod_lt _ (by decide))
      rw [Arr.turn, Arr.turn] at hturn
      rw [Arr.turn] at hj
      omega
  rw [Arr.nextHolder_eq_range, hfind, Option.map_some, hposition]

theorem leaseGrant_arrIs {s : State} {isle ins p : Nat} (hfree : (s.toHw.arr isle ins).leased = false)
    (hnext : (s.toHw.arr isle ins).nextHolder = some p) :
    ArrIs s isle ins ((s.toHw.arr isle ins).grant p) (execLeaseGrant isle ins s) := by
  simp only [execLeaseGrant, hnext, hfree, Bool.false_eq_true, if_false]
  exact arrIs_onArr s isle ins (fun a => a.grant p)

/-! ### Races and tiles that are ready -/

/-- A core with one landing slot put. -/
def Core.putSlot (i : Nat) (x : LSlot) (k : Core) : Core := { k with slots := tabPut x i k.slots }

theorem raceReady_next {s : State} {co : CoreId} {i rejects : Nat} {x : LSlot} (hslot : tabFind (s.toHw.core co).slots i = some x)
    (hkind : x.kind = .race) (hnew : x.arrived = false) (hcal : (s.toHw.arr co.isle (CoreId.ins co)).cal ≠ 2) :
    execRaceReady co i rejects s = .next (s.upd (fun h => (h.onCore co (Core.putSlot i { x with arrived := true })).onArr co.isle
      (CoreId.ins co) (fun a => a.rejected rejects))) := by
  simp only [execRaceReady, hslot, hkind, hnew, beq_eq_false_iff_ne.mpr hcal, bne_self_eq_false, Bool.or_self, Bool.false_eq_true,
    if_false]
  rfl

theorem tileReady_next {s : State} {co : CoreId} {i rejects : Nat} {x : LSlot} {t : TileJob}
    (hslot : tabFind (s.toHw.core co).slots i = some x) (htile : x.tile = some t) (hnew : x.arrived = false) (hrun : t.halted = false)
    (hfirst : (s.toHw.core co).tileBefore x = false) (hhalt : s.toHw.tileHalted co = false)
    (hcal : (s.toHw.arr co.isle (CoreId.ins co)).cal ≠ 2) (hglobal : t.globalA = none)
    (ha : s.toHw.markOff co t.aOff (extentA t.prof t.rows t.scaled) = none)
    (hb : s.toHw.markOff co t.bOff (extentB t.prof t.scaled) = none) :
    execTileReady co i rejects s = .next (s.upd (fun h => (h.setTile co i x { t with
      aData := h.bytes (localKey co t.aOff) (extentA t.prof t.rows t.scaled)
      bData := h.bytes (localKey co t.bOff) (extentB t.prof t.scaled) } true).onArr co.isle (CoreId.ins co)
        (fun a => a.rejected rejects))) := by
  simp only [execTileReady, hslot, htile, hnew, hrun, hfirst, hhalt, hglobal, ha, hb, beq_eq_false_iff_ne.mpr hcal, Bool.or_self,
    Bool.false_eq_true, if_false]

theorem Hw.core_setTile (h : Hw) (co : CoreId) (i : Nat) (x : LSlot) (t : TileJob) (b : Bool) :
    (h.setTile co i x t b).core co = Core.putSlot i { x with tile := some t, arrived := b } (h.core co) :=
  Hw.core_onCore _ _ _

/-! ### Service changes that wait -/

/-- What waits for an isle still waits while a launch holds it (R27). -/
theorem Hw.settlePending_of_held {h : Hw} {isle : Nat} (held : h.isleHeld isle = true) : h.settlePending isle = h := by
  rw [Hw.settlePending, held, if_pos rfl]

theorem Hw.calDue_iff (h : Hw) (a : Arr) :
    h.calDue a = true ↔ h.cfg.mthresh ≤ a.margin.toNat ∨ h.cfg.tdrift ≤ (a.temp.toInt - a.tlcal.toInt).natAbs := by
  simp only [Hw.calDue, Bool.or_eq_true, decide_eq_true_eq]

theorem calibrationMark_arrIs {s : State} {isle ins : Nat} (held : s.toHw.isleHeld isle = true)
    (hdue : s.toHw.calDue (s.toHw.arr isle ins) = true) :
    ArrIs s isle ins { s.toHw.arr isle ins with mark := true } (execCalibrationMark isle ins s) := by
  simp only [execCalibrationMark, hdue, Bool.not_true, Bool.false_eq_true, if_false]
  have hsettled : (s.toHw.onArr isle ins (fun a => { a with mark := true })).settlePending isle
      = s.toHw.onArr isle ins (fun a => { a with mark := true }) := Hw.settlePending_of_held held
  rw [State.upd, hsettled]
  exact arrIs_onArr s isle ins (fun a => { a with mark := true })

theorem calibrationMark_not_due {s : State} {isle ins : Nat} (hdue : s.toHw.calDue (s.toHw.arr isle ins) = false) :
    execCalibrationMark isle ins s = .next s := by
  simp only [execCalibrationMark, hdue, Bool.not_false, if_true]

/-! ### Temperature -/

theorem Hw.shutHot_of_cool {h : Hw} {isle : Nat} {t : Int} (hcool : t < h.cfg.tshut) : h.shutHot isle t = h := by
  rw [Hw.shutHot, if_neg fun hhot => absurd hhot.1 (by omega)]

/-- An array after a sample of its temperature (R231). -/
def Arr.sampled (a : Arr) (temp : BitVec 16) (tdrift : Nat) : Arr :=
  { a with temp := temp, mark := a.mark || decide (tdrift ≤ (temp.toInt - a.tlcal.toInt).natAbs) }

theorem temperatureSample_arrIs {s : State} {isle ins : Nat} {temp : BitVec 16} (held : s.toHw.isleHeld isle = true)
    (hcool : temp.toInt < s.cfg.tshut) :
    ArrIs s isle ins ((s.toHw.arr isle ins).sampled temp s.cfg.tdrift) (execTemperatureSample isle ins temp s) := by
  have hsettled : ((s.toHw.onArr isle ins (fun a => a.sampled temp s.cfg.tdrift)).settlePending isle).shutHot isle temp.toInt
      = s.toHw.onArr isle ins (fun a => a.sampled temp s.cfg.tdrift) := by
    rw [Hw.settlePending_of_held (h := s.toHw.onArr isle ins (fun a => a.sampled temp s.cfg.tdrift)) held]
    exact Hw.shutHot_of_cool hcool
  refine Eq.mp (congrArg _ ?_) (arrIs_onArr s isle ins (fun a => a.sampled temp s.cfg.tdrift))
  exact congrArg (fun h => Host.Outcome.next { s with toHw := h }) hsettled.symm

/-- The thermal gap after a millisecond at a temperature (R402). -/
def Arr.nextGap (a : Arr) (twarn : Int) : Byte :=
  if twarn ≤ a.temp.toInt then BitVec.ofNat 8 (min 255 (a.gap.toNat + 4))
  else if a.temp.toInt < twarn - 48 then BitVec.ofNat 8 (a.gap.toNat - 4)
  else a.gap

theorem thermalGapStep_arrIs {s : State} {isle ins : Nat} (hcool : (s.toHw.arr isle ins).temp.toInt < s.cfg.tshut) :
    ArrIs s isle ins { s.toHw.arr isle ins with gap := (s.toHw.arr isle ins).nextGap s.cfg.twarn } (execThermalGapStep isle ins s) := by
  have hcold : (s.toHw.onArr isle ins (fun a => { a with gap := a.nextGap s.cfg.twarn })).shutHot isle (s.toHw.arr isle ins).temp.toInt
      = s.toHw.onArr isle ins (fun a => { a with gap := a.nextGap s.cfg.twarn }) := Hw.shutHot_of_cool hcool
  refine Eq.mp (congrArg _ ?_) (arrIs_onArr s isle ins (fun a => { a with gap := a.nextGap s.cfg.twarn }))
  exact congrArg (fun h => Host.Outcome.next { s with toHw := h }) hcold.symm

end Sys2Proof.Machine
end

section
/-! SUPPORT. The end of a calibration: the trims set, the segments that failed and the value read (R229). -/

namespace Sys2Proof.Machine

/-! ### Many entries put in a table -/

/-- A table with entries put from a list of keys holds the value of each listed key and, at any other, what it held. -/
theorem tabGet_foldl_put {α : Type} (d : α) (f : Nat → α) (ks : List Nat) (t : Tab α) (k : Nat) :
    tabGet d (ks.foldl (fun t k => tabPut (f k) k t) t) k = if k ∈ ks then f k else tabGet d t k := by
  induction ks generalizing t with
  | nil => rfl
  | cons j ks ih =>
    rw [List.foldl_cons, ih]
    by_cases hmem : k ∈ ks
    · simp [hmem]
    · by_cases hkj : k = j
      · simp [hkj]
      · simp [hmem, hkj]

/-! ### The segments of a calibration -/

/-- The active segments that a calibration selects. -/
def Arr.calSel (a : Arr) (mask : Nat) : List Nat := (List.range 4).filter (fun i => mask / 2 ^ i % 2 == 1 && a.segs.getLsbD i)

/-- A segment one of whose trims is past 1,023. -/
def segPast (trims : List (BitVec 16)) (j : Nat) : Prop := ∃ t ∈ segTrims trims j, 1023 < t

/-- The segments that fail. -/
def calBad (trims : List (BitVec 16)) (sel : List Nat) : List Nat :=
  sel.filter (fun i => (segTrims trims i).any (fun t => decide (1023 < t)))

/-- The segments that a calibration sets. -/
def calGood (trims : List (BitVec 16)) (sel : List Nat) : List Nat := sel.filter (fun i => !(calBad trims sel).contains i)

/-- Segments as a mask. -/
def segBits (l : List Nat) : Nat := packBits (fun i => l.contains i) 4 0

/-- The trims of some segments put in a table. -/
def putTrims (trims : List (BitVec 16)) (segs : List Nat) (t : Tab (BitVec 10)) : Tab (BitVec 10) :=
  segs.foldl (fun t i => (List.range 32).foldl (fun t j =>
    tabPut (BitVec.ofNat 10 ((trims.getD (32 * i + j) 0).toNat)) (32 * i + j) t) t) t

theorem Arr.mem_calSel {a : Arr} {mask j : Nat} (hj : j < 4) : j ∈ a.calSel mask ↔ mask / 2 ^ j % 2 = 1 ∧ a.segs.getLsbD j = true := by
  simp only [Arr.calSel, List.mem_filter, List.mem_range, Bool.and_eq_true, beq_iff_eq, hj, true_and]

theorem mem_calBad {trims : List (BitVec 16)} {sel : List Nat} {j : Nat} : j ∈ calBad trims sel ↔ j ∈ sel ∧ segPast trims j := by
  simp only [calBad, segPast, List.mem_filter, List.any_eq_true, decide_eq_true_eq]

theorem mem_calGood {trims : List (BitVec 16)} {sel : List Nat} {j : Nat} : j ∈ calGood trims sel ↔ j ∈ sel ∧ ¬segPast trims j := by
  simp only [calGood, List.mem_filter, Bool.not_eq_true', List.contains_eq_mem, decide_eq_false_iff_not, mem_calBad, not_and]
  exact ⟨fun ⟨hsel, hpast⟩ => ⟨hsel, hpast hsel⟩, fun ⟨hsel, hpast⟩ => ⟨hsel, fun _ => hpast⟩⟩

theorem segBits_lt (l : List Nat) : segBits l < 2 ^ 4 := packBits_lt _ _ _

theorem segBits_testBit {l : List Nat} {j : Nat} (hj : j < 4) : (segBits l).testBit j = true ↔ j ∈ l := by
  rw [segBits, packBits_testBit _ _ _ _ hj, Nat.zero_add, List.contains_iff_mem]

/-- A trim read after those of some segments are put (R229). -/
theorem tabGet_putTrims (trims : List (BitVec 16)) (segs : List Nat) (t : Tab (BitVec 10)) {j n : Nat} (hn : n < 32) :
    tabGet 0 (putTrims trims segs t) (32 * j + n)
      = if j ∈ segs then BitVec.ofNat 10 ((trims.getD (32 * j + n) 0).toNat) else tabGet 0 t (32 * j + n) := by
  have hflat : putTrims trims segs t = (segs.flatMap (fun i => (List.range 32).map (fun j => 32 * i + j))).foldl
      (fun t k => tabPut (BitVec.ofNat 10 ((trims.getD k 0).toNat)) k t) t := by
    simp only [putTrims, List.foldl_flatMap, List.foldl_map]
  have hmem : 32 * j + n ∈ segs.flatMap (fun i => (List.range 32).map (fun j => 32 * i + j)) ↔ j ∈ segs := by
    simp only [List.mem_flatMap, List.mem_map, List.mem_range]
    refine ⟨fun ⟨i, hi, m, hm, heq⟩ => ?_, fun hj => ⟨j, hj, n, hn, rfl⟩⟩
    have hij : i = j := by omega
    exact hij ▸ hi
  rw [hflat, tabGet_foldl_put]
  simp only [hmem]

/-! ### The value of a calibration -/

/-- The segments set, the segments failed and the reference periods, as `tcal` returns them (R229, log entry 54). -/
def calWord (good bad : List Nat) (periods : BitVec 32) : Word :=
  BitVec.ofNat 64 (segBits good + 16 * segBits bad + 2 ^ 32 * min periods.toNat 6000)

theorem calWord_nat (good bad : List Nat) (periods : BitVec 32) : segBits good + 16 * segBits bad + 2 ^ 32 * min periods.toNat 6000
    = 2 ^ 4 * (2 ^ 4 * (2 ^ 24 * min periods.toNat 6000) + segBits bad) + segBits good := by omega

theorem calWord_periods (good bad : List Nat) (periods : BitVec 32) :
    (calWord good bad periods).extractLsb' 32 32 = BitVec.ofNat 32 (min periods.toNat 6000) := by
  have hgood := segBits_lt good
  have hbad := segBits_lt bad
  refine BitVec.eq_of_toNat_eq ?_
  simp only [calWord, BitVec.extractLsb'_toNat, BitVec.toNat_ofNat, Nat.shiftRight_eq_div_pow]
  omega

theorem calWord_good (good bad : List Nat) (periods : BitVec 32) {j : Nat} (hj : j < 4) :
    (calWord good bad periods).getLsbD j = true ↔ j ∈ good := by
  rw [calWord, BitVec.getLsbD_ofNat, calWord_nat, Nat.testBit_two_pow_mul_add _ (segBits_lt good), if_pos hj,
    decide_eq_true (by omega : j < 64), Bool.true_and, segBits_testBit hj]

theorem calWord_bad (good bad : List Nat) (periods : BitVec 32) {j : Nat} (hj : j < 4) :
    (calWord good bad periods).getLsbD (4 + j) = true ↔ j ∈ bad := by
  rw [calWord, BitVec.getLsbD_ofNat, calWord_nat, Nat.testBit_two_pow_mul_add _ (segBits_lt good), if_neg (by omega),
    Nat.add_sub_cancel_left, Nat.testBit_two_pow_mul_add _ (segBits_lt bad), if_pos hj,
    decide_eq_true (by omega : 4 + j < 64), Bool.true_and, segBits_testBit hj]

/-! ### The event -/

/-- An array whose calibration has ended. -/
def Arr.calibrated (a : Arr) (sel : List Nat) (trims : List (BitVec 16)) : Arr :=
  { a with
    cal := 1, margin := 0, calib := none, tlcal := a.temp
    trim := putTrims trims (calGood trims sel) a.trim
    pendSegs := a.pendSegs ||| BitVec.ofNat 4 (segBits (calBad trims sel)) }

/-- An engine whose register d, unless it is g0, takes a value. -/
def Eng.takeReg (d : BitVec 6) (w : Word) (e : Eng) : Eng := if d = 0 then e else { e with g := e.g.set d.toNat ⟨w, false⟩ d.isLt }

theorem Eng.get_takeReg {d : BitVec 6} (hd : d ≠ 0) (w : Word) (e : Eng) : (e.takeReg d w).g.get d.toFin = ⟨w, false⟩ := by
  rw [Eng.takeReg, if_neg hd]
  exact (get_set_at e.g d.toNat d.isLt d.toFin _).trans (if_pos rfl)

theorem Arr.calibrated_failed {a : Arr} {sel : List Nat} {trims : List (BitVec 16)} {j : Nat} (hj : j < 4) (hmem : j ∈ calBad trims sel) :
    (a.calibrated sel trims).pendSegs.getLsbD j = true := by
  rw [Arr.calibrated, BitVec.getLsbD_or, BitVec.getLsbD_ofNat, (segBits_testBit hj).mpr hmem, decide_eq_true hj, Bool.and_self,
    Bool.or_true]

theorem calibrationComplete_next {s : State} {isle ins pos mask : Nat} {d : BitVec 6} {periods : BitVec 32} {trims : List (BitVec 16)}
    (held : s.toHw.isleHeld isle = true) (hcalib : (s.toHw.arr isle ins).calib = some (pos, mask, d)) :
    execCalibrationComplete isle ins periods trims s = .next (s.upd (fun h =>
      (h.onArr isle ins (fun a => a.calibrated ((s.toHw.arr isle ins).calSel mask) trims)).onEng ⟨isle, 4 * ins + pos⟩ .c
        (Eng.takeReg d (calWord (calGood trims ((s.toHw.arr isle ins).calSel mask)) (calBad trims ((s.toHw.arr isle ins).calSel mask))
          periods)))) := by
  simp only [execCalibrationComplete, hcalib]
  refine congrArg (fun h => Host.Outcome.next { s with toHw := h }) ?_
  exact Hw.settlePending_of_held (h := (s.toHw.onArr isle ins _).onEng _ _ _) held

theorem Hw.cE_onEng (h : Hw) (co : CoreId) (f : Eng → Eng) : ((h.onEng co .c f).core co).cE = f (h.core co).cE := by
  rw [Hw.onEng, Hw.core_onCore]; rfl

/-- The end of a calibration while a launch holds the isle (R229, log entry 114). -/
theorem calibrationComplete_ends {s : State} {isle ins pos mask : Nat} {d : BitVec 6} (periods : BitVec 32) (trims : List (BitVec 16))
    (held : s.toHw.isleHeld isle = true) (hcalib : (s.toHw.arr isle ins).calib = some (pos, mask, d)) :
    let a := s.toHw.arr isle ins
    let sel := fun (j : Nat) => mask / 2 ^ j % 2 = 1 ∧ a.segs.getLsbD j = true
    let past := segPast trims
    ∃ (u : State) (b : Arr), execCalibrationComplete isle ins periods trims s = .next u ∧ u.toHw.arr isle ins = b
      ∧ b.cal = 1 ∧ b.margin = 0 ∧ b.calib = none ∧ b.tlcal = a.temp ∧ b.segs = a.segs
      ∧ (∀ j n, j < 4 → n < 32 → sel j → ¬past j → tabGet 0 b.trim (32 * j + n) = BitVec.ofNat 10 ((trims.getD (32 * j + n) 0).toNat))
      ∧ (∀ j n, j < 4 → n < 32 → (sel j → past j) → tabGet 0 b.trim (32 * j + n) = tabGet 0 a.trim (32 * j + n))
      ∧ (∀ j, j < 4 → sel j → past j → b.pendSegs.getLsbD j = true)
      ∧ (∀ r, memRead u.mem r = memRead s.mem r)
      ∧ (d ≠ 0 → ∃ w : Word, (u.toHw.core ⟨isle, 4 * ins + pos⟩).cE.g.get d.toFin = ⟨w, false⟩
        ∧ w.extractLsb' 32 32 = BitVec.ofNat 32 (min periods.toNat 6000)
        ∧ ∀ j, j < 4 → (w.getLsbD j = true ↔ sel j ∧ ¬past j) ∧ (w.getLsbD (4 + j) = true ↔ sel j ∧ past j)) := by
  intro a sel past
  have hgood : ∀ j, j < 4 → (j ∈ calGood trims (a.calSel mask) ↔ sel j ∧ ¬past j) := fun j hj =>
    mem_calGood.trans (and_congr_left' (Arr.mem_calSel hj))
  have hbad : ∀ j, j < 4 → (j ∈ calBad trims (a.calSel mask) ↔ sel j ∧ past j) := fun j hj =>
    mem_calBad.trans (and_congr_left' (Arr.mem_calSel hj))
  refine ⟨_, a.calibrated (a.calSel mask) trims, calibrationComplete_next held hcalib, ?_, rfl, rfl, rfl, rfl, rfl, ?_, ?_, ?_,
    fun _ => rfl, fun hd => ⟨calWord (calGood trims (a.calSel mask)) (calBad trims (a.calSel mask)) periods, ?_,
      calWord_periods _ _ _, ?_⟩⟩
  · exact Hw.arr_onArr s.toHw isle ins (fun a => a.calibrated _ trims)
  · intro j n hj hn hsel hpast
    exact (tabGet_putTrims trims _ a.trim hn).trans (if_pos ((hgood j hj).mpr ⟨hsel, hpast⟩))
  · intro j n hj hn hpast
    exact (tabGet_putTrims trims _ a.trim hn).trans (if_neg fun hmem => ((hgood j hj).mp hmem).2 (hpast ((hgood j hj).mp hmem).1))
  · intro j hj hsel hpast
    exact Arr.calibrated_failed hj ((hbad j hj).mpr ⟨hsel, hpast⟩)
  · exact (congrArg (fun e : Eng => e.g.get d.toFin) (Hw.cE_onEng _ _ _)).trans (Eng.get_takeReg hd _ _)
  · exact fun j hj => ⟨(calWord_good _ _ _ hj).trans (hgood j hj), (calWord_bad _ _ _ hj).trans (hbad j hj)⟩

end Sys2Proof.Machine
end

section
/-! CLAIM. Landings, freezes, leases, tiles, races, calibration and temperature. -/

namespace Sys2Proof.Machine

/-- Settles O47: each clause from the lemma of its event; a tile's landing changes the words of its rows one after another, and the
words do not meet. The model's choices are log entries 53, 54, 83 and 114, and 115: rejected readings count whatever CAL is. -/
theorem landingsAndArrays : Obligations.LandingsAndArrays := by
  intro s co isle ins rejects i x temp periods trims k a own freed count
  refine ⟨fun hdue hrun hgo => ⟨landDue_frozen hdue hrun hgo, ?_, ?_, ?_, ?_, ?_, ?_, ?_⟩, execFreezeEnd_none, execFreezeEnd_race,
    ?_, ?_, ?_, ?_, ?_, ?_, temperatureSample_arrIs, ?_, ?_, ?_⟩
  · exact fun hkind harrived => landDue_vectors hdue hrun hgo (LSlot.ready_of_arrived k harrived) (.inl hkind)
  · exact fun hkind hready herr hmark => landDue_vectors hdue hrun hgo hready (.inr ⟨hkind, herr, hmark⟩)
  · intro hkind hready herr hmark hdest
    refine (landDue_word hdue hrun hgo hready hkind herr hmark hdest).congr ?_
    rw [Core.takeWord, Core.eng_freeSlot]; rfl
  · exact fun hkind hready => landDue_discard hdue hrun hgo hready hkind
  · exact fun m hkind hready herr hmark => landDue_marked hdue hrun hgo hready hkind herr hmark
  · exact fun m hkind hready herr => landDue_error hdue hrun hgo hready hkind herr
  · exact fun t hok => landDue_tile hdue hrun hgo hok
  · exact fun p hp hfree hwait hfirst => leaseGrant_arrIs hfree (Arr.nextHolder_of_turn hp hwait hfirst)
  · intro hslot hkind hnew hcal
    exact ⟨_, raceReady_next hslot hkind hnew hcal, Hw.core_onCore s.toHw co (Core.putSlot i { x with arrived := true }),
      Hw.arr_onArr (s.toHw.onCore co _) _ _ (fun a => a.rejected rejects), fun _ => rfl⟩
  · intro t hslot htile hnew hrun hfirst hhalt hcal hglobal na nb ha hb
    exact ⟨_, _, tileReady_next hslot htile hnew hrun hfirst hhalt hcal hglobal ha hb, Hw.core_setTile s.toHw co i x _ true, rfl,
      Hw.arr_onArr (s.toHw.setTile co i x _ true) _ _ (fun a => a.rejected rejects), fun _ => rfl⟩
  · exact fun held hdue => calibrationMark_arrIs held ((Hw.calDue_iff s.toHw a).mpr hdue)
  · intro hmargin hdrift
    refine calibrationMark_not_due (Bool.eq_false_iff.mpr fun hdue => ?_)
    rcases (Hw.calDue_iff s.toHw a).mp hdue with hmargin' | hdrift' <;> omega
  · exact fun pos mask d held hcalib => calibrationComplete_ends periods trims held hcalib
  · intro hcool hwarm
    refine (thermalGapStep_arrIs hcool).congr ?_
    rw [Arr.nextGap, if_pos hwarm]
  · intro hcool hcold hwarn
    refine (thermalGapStep_arrIs hcool).congr ?_
    rw [Arr.nextGap, if_neg (not_le.mpr hwarn), if_pos hcold]
  · intro hcool hwarm hwarn
    refine (thermalGapStep_arrIs hcool).congr ?_
    rw [Arr.nextGap, if_neg (not_le.mpr hwarn), if_neg (not_lt.mpr hwarm)]

end Sys2Proof.Machine
end

section
/-! SUPPORT. Vector compares: the active poisoned lanes of a mask, the conditions of R196, what a comparison writes (R48, R191, R196). -/

namespace Sys2Proof.Machine

/-! ### Bits of a mask -/

/-- Whether some bit is set, bit by bit. -/
theorem bne_zero_eq_any (w : Lane) : (w != 0) = (List.range 32).any (fun l => w.getLsbD l) := by
  rw [Bool.eq_iff_iff, bne_iff_ne, List.any_eq_true, ← not_iff_not]
  push Not
  constructor
  · rintro rfl l _
    simp
  · intro h
    refine BitVec.eq_of_getLsbD_eq fun l hl => ?_
    simpa using h l (List.mem_range.mpr hl)

/-- Whether a poisoned lane is active, lane by lane (R191). -/
theorem and_bne_zero_eq_any (p m : Lane) : (p &&& m != 0) = (List.range 32).any (fun l => m.getLsbD l && p.getLsbD l) := by
  simp only [bne_zero_eq_any, BitVec.getLsbD_and, Bool.and_comm]

/-- No active lane is poisoned. -/
theorem and_bne_zero_eq_false {p m : Lane} :
    (p &&& m != 0) = false ↔ ∀ l, l < 32 → m.getLsbD l = true → p.getLsbD l = false := by
  rw [and_bne_zero_eq_any, List.any_eq_false]
  simp

/-! ### Conditions -/

/-- The eight conditions of R196 on an order of the operands. -/
theorem ccHolds_iff {cc : BitVec 4} (h : cc.toNat < 8) (o : Option Ordering) :
    ccHolds cc o = true ↔ (cc = 0 ∧ o = some .eq) ∨ (cc = 1 ∧ o ≠ some .eq) ∨ (cc = 2 ∧ o = some .lt)
      ∨ (cc = 3 ∧ (o = some .lt ∨ o = some .eq)) ∨ (cc = 4 ∧ o = some .gt) ∨ (cc = 5 ∧ (o = some .gt ∨ o = some .eq))
      ∨ (cc = 6 ∧ o = none) ∨ (cc = 7 ∧ o ≠ none) := by
  revert cc
  rcases o with _ | o | o | o <;> decide

/-- The conditions of R196 on integers: six, of which none is unordered. -/
theorem ccHolds_compare {α : Type} [LinearOrder α] {cc : BitVec 4} (h : cc.toNat < 6) (x y : α) :
    ccHolds cc (some (compare x y)) = true ↔ (cc = 0 ∧ x = y) ∨ (cc = 1 ∧ ¬x = y) ∨ (cc = 2 ∧ x < y) ∨ (cc = 3 ∧ (x < y ∨ x = y))
      ∨ (cc = 4 ∧ ¬x < y ∧ ¬x = y) ∨ (cc = 5 ∧ ¬x < y) := by
  have h6 : cc ≠ 6 := by rintro rfl; exact absurd h (by decide)
  have h7 : cc ≠ 7 := by rintro rfl; exact absurd h (by decide)
  have hgt : compare x y = .gt ↔ ¬x < y ∧ ¬x = y := by rw [compare_gt_iff_gt, lt_iff_le_and_ne, ← not_lt, ne_comm]
  have hge : ¬x < y ∧ ¬x = y ∨ x = y ↔ ¬x < y :=
    ⟨fun h => h.elim And.left fun h => h ▸ lt_irrefl x, fun h => (em (x = y)).symm.imp_left fun hne => ⟨h, hne⟩⟩
  rw [ccHolds_iff (by omega)]
  simp only [h6, h7, false_and, or_false, Option.some.injEq, ne_eq, hgt, compare_eq_iff_eq, compare_lt_iff_lt, hge]

/-- Values are unordered exactly when one is NaN (R48). -/
theorem FVal.ord_eq_none {x y : FVal} : x.ord y = none ↔ x = .nan ∨ y = .nan := by
  cases x <;> cases y <;> simp [FVal.ord]

/-! ### What a comparison does -/

section
variable {s : State} {va vb : BitVec 6} {md mk : BitVec 3} {f : Lane → Lane → Bool}

/-- The poison of the active lanes of both operands is clear (R191). -/
def State.ActiveClean (s : State) (va vb : BitVec 6) (mk : BitVec 3) : Prop :=
  ∀ l, l < 32 → (s.m mk).getLsbD l = true → (s.v va).psn.getLsbD l = false ∧ (s.v vb).psn.getLsbD l = false

theorem State.activeClean_iff :
    s.ActiveClean va vb mk ↔ ((s.v va).psn &&& s.m mk != 0) = false ∧ ((s.v vb).psn &&& s.m mk != 0) = false := by
  rw [and_bne_zero_eq_false, and_bne_zero_eq_false]
  exact ⟨fun h => ⟨fun l hl hm => (h l hl hm).1, fun l hl hm => (h l hl hm).2⟩, fun ⟨ha, hb⟩ l hl hm => ⟨ha l hl hm, hb l hl hm⟩⟩

/-- A comparison of clean operands writes the mask of the active lanes where it holds (R196). -/
theorem vcompare_writesM (h : s.ActiveClean va vb mk) {P : Nat → Prop}
    (hf : ∀ l, f ((s.v va).lane l) ((s.v vb).lane l) = true ↔ P l) :
    ∃ w : Lane, (∀ l, l < 32 → (w.getLsbD l = true ↔ (s.m mk).getLsbD l = true ∧ P l)) ∧ WritesM s md w (vcompare md va vb mk f s) := by
  obtain ⟨ha, hb⟩ := State.activeClean_iff.mp h
  refine ⟨bitsOf (fun l => (s.m mk).getLsbD l && f ((s.v va).lane l) ((s.v vb).lane l)), fun l hl => ?_, ?_⟩
  · rw [getLsbD_bitsOf _ l hl, Bool.and_eq_true, hf]
  · rw [vcompare, trapIf_false ha, ok_bind, trapIf_false hb, ok_bind]
    exact writesM s md _

/-- A poisoned active lane of an operand raises 0x31, VA's before VB's (R191, log entry 124). -/
theorem vcompare_traps (h : ¬s.ActiveClean va vb mk) : Traps s 0x31 (vcompare md va vb mk f s) := by
  rw [vcompare]
  cases ha : (s.v va).psn &&& s.m mk != 0 with
  | true => exact traps_settle_bind s _ _ _ _
  | false =>
    have hb : ((s.v vb).psn &&& s.m mk != 0) = true := by
      by_contra hb
      exact h (State.activeClean_iff.mpr ⟨ha, Bool.eq_false_iff.mpr hb⟩)
    rw [trapIf_false rfl, ok_bind, trapIf_true hb]
    exact traps_settle_bind s _ _ _ _

end

/-- Settles O13: the mask of a comparison of clean operands, condition by condition, and the trap of a poisoned active lane. That VA's
poison is reported before VB's is the model's choice (log entry 124). -/
theorem vectorCompareResults : Obligations.VectorCompareResults := by
  intro s a b q mk cc m clean sets holds fholds
  simp only [exec_vcmpF32, exec_vcmpS32, exec_vcmpZ32, execVcmpF32, execVcmpS32, execVcmpZ32]
  refine ⟨fun hclean hcc => vcompare_writesM hclean fun l => ?_, fun hclean hcc => ⟨vcompare_writesM hclean fun l => ?_,
    vcompare_writesM hclean fun l => ?_⟩, fun hpsn => ⟨vcompare_traps hpsn, vcompare_traps hpsn, vcompare_traps hpsn⟩⟩
  · rw [ccHolds_iff hcc, ne_eq _ none, FVal.ord_eq_none, not_or]
  · rw [ccHolds_compare hcc, BitVec.toInt_inj]
  · rw [ccHolds_compare hcc, BitVec.toNat_inj]

end Sys2Proof.Machine
end

section
/-! SUPPORT. Conversions and block quantisation: registers written in part, the shared exponent of a block, a block's scale and its
byte (R44-R47, R199, R200). -/

namespace Sys2Proof.Machine

/-! ### Parts of a register -/

/-- The packing forms write the lanes they name and leave the others, their poison and the sidecar (R199). -/
theorem writesV_vpart (s : State) (d : BitVec 6) (lo n : Nat) (f : Nat → Lane) (p : Nat → Bool) :
    WritesV s d (fun l => if lo ≤ l ∧ l < lo + n then f (l - lo) else (s.v d).lane l)
      (fun l => if lo ≤ l ∧ l < lo + n then p (l - lo) else (s.v d).psn.getLsbD l) (s.v d).side (.next (vpart d lo n f p s)) :=
  (writesV s d _ _ _).congr (fun l _ => by simp) (fun l _ => by simp)

/-- A change of vector registers after another. -/
theorem State.OnlyV.trans {s t u : State} (h : s.OnlyV t) (h' : t.OnlyV u) : s.OnlyV u := by
  obtain ⟨⟨⟨heq, hother⟩, hhere⟩, hcu⟩ := h
  obtain ⟨⟨⟨heq', hother'⟩, hhere'⟩, hcu'⟩ := h'
  have hix : t.ix = s.ix := by rw [heq]
  refine ⟨⟨⟨?_, fun co hco => (hother' co (by rwa [hix])).trans (hother co hco)⟩, ?_⟩, ?_⟩
  · rw [heq', heq]
  · rw [hhere', hhere]
  · rw [hcu', hcu]

/-- One byte of VB takes the scale; its other bytes and lanes stay, and the poison of its lane grows (R200). -/
theorem writesV_vscaleByte (s : State) (b : BitVec 6) (k : Nat) (sc : Byte) (p : Bool) :
    WritesV s b (fun l => if l = k / 4 then lane4 (fun i => if i = k % 4 then sc else (s.v b).byte (4 * l + i)) else (s.v b).lane l)
      (fun l => (s.v b).psn.getLsbD l || (p && l == k / 4)) (s.v b).side (.next (vscaleByte b k sc p s)) :=
  writesV s b _ _ _

/-! ### The shared exponent of a BFP24 block -/

/-- The largest exponent field of finite lanes leaves room for the one that rounding may add (R44). -/
theorem bfpEmax_lt (a : VReg) : bfpEmax a < 255 := by
  refine List.foldlRecOn (motive := (· < 255)) _ max (by decide) fun m hm e he => max_lt hm ?_
  obtain ⟨l, -, rfl⟩ := List.mem_map.mp he
  dsimp only
  split <;> omega

/-- A lane whose rounded significand needs one more bit raises the shared exponent by one (R44). -/
theorem bfpShared_eq (a : VReg) :
    (if (List.range 32).any (fun l => decide (bfpMag (bfpEmax a) (f32Val (a.lane l)) ≥ 2 ^ 23)) then bfpEmax a + 1 else bfpEmax a)
      = bfpEmax a + if ∃ l, l < 32 ∧ 2 ^ 23 ≤ bfpMag (bfpEmax a) (f32Val (a.lane l)) then 1 else 0 := by
  have hany : (List.range 32).any (fun l => decide (bfpMag (bfpEmax a) (f32Val (a.lane l)) ≥ 2 ^ 23)) = true
      ↔ ∃ l, l < 32 ∧ 2 ^ 23 ≤ bfpMag (bfpEmax a) (f32Val (a.lane l)) := by
    simp only [List.any_eq_true, List.mem_range, decide_eq_true_eq, ge_iff_le]
  by_cases h : ∃ l, l < 32 ∧ 2 ^ 23 ≤ bfpMag (bfpEmax a) (f32Val (a.lane l))
  · rw [if_pos (hany.mpr h), if_pos h]
  · rw [if_neg (fun h' => h (hany.mp h')), if_neg h, Nat.add_zero]

/-- Settles O14: the merge forms as they stand, the packing forms by the lanes they name, and the block conversion with its shared
exponent, which fits the sidecar. -/
theorem vectorConversionResults : Obligations.VectorConversionResults := by
  intro s d a b mk g h q A B x p1 el ps quarter
  simp only [exec_vcvtF32S32, exec_vcvtS32F32Rne, exec_vcvtS32F32Rz, exec_vcvtBf16F32, exec_vcvtF32Bf16, exec_vcvtE4m3F32,
    exec_vcvtE4m3F32Nv, exec_vcvtE5m2F32, exec_vcvtF32E4m3, exec_vcvtF32E5m2, exec_vdqmx4, exec_vxpS4, exec_vxpOcp4,
    exec_vcvtBfpF32, exec_vcvtF32Bfp]
  have hquarter (f : FVal → Byte) : quarter f (vquarter d a q f s) := writesV_vpart s d _ _ _ _
  refine ⟨mergesV s d mk _ _ _, mergesV s d mk _ _ _, mergesV s d mk _ _ _, writesV s d _ _ _, mergesV s d mk _ _ _,
    hquarter _, hquarter _, hquarter _, mergesV s d mk _ _ _, mergesV s d mk _ _ _, mergesV s d mk _ _ _, mergesV s d mk _ _ _,
    writesV_vpart s d _ _ _ _, ⟨?_, ?_⟩, mergesV s d mk _ _ _⟩
  · have := bfpEmax_lt A
    split <;> omega
  · rw [execVcvtBfpF32]
    rw [bfpShared_eq]
    exact writesV s d _ _ _

/-! ### The scale of an MX block -/

/-- A block with a lane that is not finite has no scale exponent (R46). -/
theorem mxBlock_of_not_finite {w : Nat} {emax : Int} {f : FVal → BitVec w} {xs : List FVal}
    (h : ∃ x ∈ xs, x = .nan ∨ ∃ neg, x = .inf neg) : mxBlock emax f xs = (0xFF#8, fun _ => 0) := by
  obtain ⟨x, hx, hbad⟩ := h
  have hscale : mxScale emax xs = none := by
    rw [mxScale, if_pos (List.any_eq_true.mpr ⟨x, hx, ?_⟩)]
    rcases hbad with rfl | ⟨neg, rfl⟩ <;> rfl
  rw [mxBlock, hscale]

/-- A block of zeros has no largest element (R46). -/
theorem mxBlock_of_zero {w : Nat} {emax : Int} {f : FVal → BitVec w} {xs : List FVal} (h : ∀ x ∈ xs, ∃ neg e, x = .fin neg 0 e) :
    mxBlock emax f xs = (0x7F#8, fun _ => 0) := by
  have hfinite : ¬∃ x ∈ xs, (match x with
      | .fin _ _ _ => false
      | _ => true) = true := by
    rintro ⟨x, hx, hbad⟩
    obtain ⟨neg, e, rfl⟩ := h x hx
    cases hbad
  have hlog : xs.filterMap FVal.log2 = [] := by
    refine List.filterMap_eq_nil_iff.mpr fun x hx => ?_
    obtain ⟨neg, e, rfl⟩ := h x hx
    rfl
  rw [mxBlock, mxScale, if_neg (by rwa [List.any_eq_true]), hlog]

/-- Settles O15: VD in part, then one byte of VB, which is another register; the scale of a block that is not finite, and of a zero
block. -/
theorem vectorQuantiseResults : Obligations.VectorQuantiseResults := by
  intro s d b a g q hdb A xs writes m4 m8
  have hwrites (first count k : Nat) (sc : Byte) (f : Nat → Lane) : writes first count k sc f
      (.next (vscaleByte b k sc (A.psn != 0) (vpart d first count f (fun _ => A.psn != 0) s))) := by
    obtain ⟨t, ⟨⟩, hlane, hpsn, hside, hother, honly, hmem⟩ := writesV_vpart s d first count f (fun _ => A.psn != 0)
    obtain ⟨u, hu, hlane', hpsn', hside', hother', honly', hmem'⟩ :=
      writesV_vscaleByte (vpart d first count f (fun _ => A.psn != 0) s) b k sc (A.psn != 0)
    rw [hother b hdb.symm] at hlane' hpsn' hside'
    refine ⟨u, hu, honly.trans honly', fun r hd hb => (hother' r hb).trans (hother r hd), ?_, ?_, hlane', hpsn', ?_, hside',
      fun k => (hmem' k).trans (hmem k)⟩
    · rwa [hother' d hdb]
    · rwa [hother' d hdb]
    · rwa [hother' d hdb]
  refine ⟨hwrites _ _ _ _ _, hwrites _ _ _ _ _, fun h => ?_, fun h => ?_⟩
  · simp only [m4, m8, mxBlock_of_not_finite h, implies_true, and_self]
  · simp only [m4, m8, mxBlock_of_zero h, implies_true, and_self]

end Sys2Proof.Machine
end

section
/-! SUPPORT. Accesses to own local memory: the checks of R81 once they pass, words of bytes, vector registers loaded whole, and words
stored one after another with the tags of their granules (R42, R82, R147-R149). -/

namespace Sys2Proof.Machine

/-! ### Checks that pass -/

/-- An access that R81 allows and that ends within local memory passes every check (R78, R81). -/
theorem checkOwn_ok {x : CReg} {need : BitVec 12} {a n : Nat} {spaces : List Nat} (h : x.Allows spaces need a n) (h6 : 6 ∉ spaces)
    (hin : a + n ≤ 2 ^ 19) (reg : Nat) : checkOwn reg x spaces need a n = .ok a := by
  have hspace : x.space ≠ 6 := fun h' => h6 (h' ▸ h.2.1)
  have hexists : targetExists x a n = true := by
    rw [targetExists, if_neg hspace]
    exact decide_eq_true (by exact_mod_cast hin)
  rw [checkOwn, checkCap_ok h, ok_bind, trapIf_false (by rw [hexists]; rfl), ok_bind, Int.toNat_natCast]

/-- An access that reaches an offset has it as its address. -/
theorem State.localAddr_ok {s : State} {cb : BitVec 4} {x : BitVec 6} {sc : BitVec 3} {off : BitVec 32} {spaces : List Nat}
    {need : BitVec 12} {n align a : Nat} (h : s.Reaches cb x sc off spaces need n align a) (h6 : 6 ∉ spaces) :
    s.localAddr cb x sc off spaces need n align = .ok a := by
  obtain ⟨hpsn, hea, hallow, hin, halign⟩ := h
  rw [State.localAddr, State.mAddr_ok hpsn, ok_bind, hea, checkOwn_ok hallow h6 hin, ok_bind, trapIf_false (by simp [halign]), ok_bind]

theorem State.checkMark_ok {s : State} {a n : Nat} (h : s.Unmarked a n) : s.checkMark a n = .ok () := by
  rw [State.checkMark, show s.toHw.markedIn (localKey s.ix.co a) n = none from h]

theorem State.checkSlot_ok {s : State} {a n : Nat} (h : s.NoSlot a n) : s.checkSlot a n = .ok () := by
  rw [State.checkSlot, show s.here.barrierIn a n = none from h]

/-- A load that reaches unmarked bytes has their offset. -/
theorem State.loadAddr_ok {s : State} {cb : BitVec 4} {x : BitVec 6} {sc : BitVec 3} {off : BitVec 32} {spaces : List Nat}
    {n align a : Nat} (h : s.Reaches cb x sc off spaces pLd n align a) (h6 : 6 ∉ spaces) (hmark : s.Unmarked a n) :
    s.loadAddr cb x sc off spaces n align = .ok a := by
  rw [State.loadAddr, State.localAddr_ok h h6, ok_bind, State.checkMark_ok hmark, ok_bind]

/-- Checks over a list that all pass give their values. -/
theorem mapM_ok {α β : Type} {f : α → Chk β} {g : α → β} {l : List α} (h : ∀ x ∈ l, f x = .ok (g x)) : l.mapM f = .ok (l.map g) := by
  induction l with
  | nil => rfl
  | cons x l ih =>
    rw [List.mapM_cons, h x List.mem_cons_self, ok_bind, ih fun y hy => h y (List.mem_cons_of_mem x hy), ok_bind, pure_ok, List.map_cons]

theorem forM_ok {α : Type} {f : α → Chk Unit} {l : List α} (h : ∀ x ∈ l, f x = .ok ()) : l.forM f = .ok () := by
  induction l with
  | nil => rfl
  | cons x l ih =>
    show (f x >>= fun _ => l.forM f) = .ok ()
    rw [h x List.mem_cons_self, ok_bind]
    exact ih fun y hy => h y (List.mem_cons_of_mem x hy)

/-- The 32 lanes of a gather or scatter reach the aligned offsets `at_` (R149). -/
def State.LanesReach (s : State) (cb : BitVec 4) (x : BitVec 6) (sc : BitVec 3) (off : BitVec 32) (need : BitVec 12) (at_ : Nat → Nat) : Prop :=
  (s.v x).psn = 0 ∧ ∀ l, l < 32 →
    ((s.c cb).cursor : Int) + off.toInt + ((s.v x).lane l).toInt * 2 ^ sc.toNat = at_ l
    ∧ (s.c cb).Allows [1] need (at_ l) 4 ∧ at_ l + 4 ≤ 2 ^ 19 ∧ at_ l % 4 = 0

theorem State.laneAddrs_ok {s : State} {cb : BitVec 4} {x : BitVec 6} {sc : BitVec 3} {off : BitVec 32} {need : BitVec 12}
    {at_ : Nat → Nat} (h : s.LanesReach cb x sc off need at_) :
    s.laneAddrs cb x sc off need = .ok ((List.range 32).map at_) := by
  obtain ⟨hpsn, hlanes⟩ := h
  rw [State.laneAddrs, State.vUse_ok hpsn, ok_bind]
  refine mapM_ok fun l hl => ?_
  obtain ⟨hea, hallow, hin, halign⟩ := hlanes l (List.mem_range.mp hl)
  rw [hea]
  dsimp only
  rw [checkOwn_ok hallow (by decide) hin, ok_bind, trapIf_false (by simp [halign]), ok_bind]

theorem getD_map_range {α : Type} (f : Nat → α) (d : α) {n l : Nat} (h : l < n) : ((List.range n).map f).getD l d = f l := by
  simp [List.getD_eq_getElem?_getD, h]

/-! ### Words of bytes -/

/-- The little-endian word at a place (R4). -/
def Hw.wordAt (h : Hw) (k : Nat) : Lane :=
  (memRead h.mem (k + 3) ++ memRead h.mem (k + 2) ++ memRead h.mem (k + 1) ++ memRead h.mem k : BitVec 32)

/-- A word is its four bytes. -/
theorem eq_append_of_bytes {w : Lane} {b : Nat → Byte} (h : ∀ i, i < 4 → w.extractLsb' (8 * i) 8 = b i) :
    w = (b 3 ++ b 2 ++ b 1 ++ b 0 : BitVec 32) := by
  rw [← h 3 (by decide), ← h 2 (by decide), ← h 1 (by decide), ← h 0 (by decide)]
  refine BitVec.eq_of_getLsbD_eq fun i hi => ?_
  simp only [BitVec.getLsbD_append, BitVec.getLsbD_extractLsb']
  split_ifs <;> (rw [decide_eq_true (by omega), Bool.true_and]; congr 1; omega)

/-- Places of a core's memory follow one another as its offsets do. -/
theorem localKey_add (co : CoreId) (a n : Nat) : localKey co (a + n) = localKey co a + n := by
  simp only [localKey, Nat.add_assoc]

/-- The number of four bytes is their word. -/
theorem Hw.ofNat_num_four (h : Hw) (k : Nat) : BitVec.ofNat 32 (h.num k 4) = h.wordAt k := by
  refine eq_append_of_bytes (b := fun i => memRead h.mem (k + i)) fun b hb => BitVec.eq_of_getLsbD_eq fun i hi => ?_
  have hlen : b < (h.bytes k 4).length := by simpa [Hw.bytes, memReadN] using hb
  rw [BitVec.getLsbD_extractLsb', BitVec.getLsbD_ofNat, Hw.num, leNat_testBit _ b i hlen hi]
  simp only [hi, decide_true, Bool.true_and, show 8 * b + i < 32 by omega, Hw.bytes, memReadN, List.getElem_map, List.getElem_range]

/-- The lanes of a register that holds 128 bytes are their words (R42). -/
theorem lane_vbitsOfBytes (h : Hw) (k : Nat) {l : Nat} (hl : l < 32) :
    (⟨vbitsOfBytes (h.bytes k 128), 0, 0⟩ : VReg).lane l = h.wordAt (k + 4 * l) := by
  refine eq_append_of_bytes (b := fun i => memRead h.mem (k + 4 * l + i)) fun i hi => ?_
  rw [Nat.add_assoc, ← byte_vbitsOfBytes_bytes h k 128 (4 * l + i) (by omega) le_rfl, VReg.lane]
  refine BitVec.eq_of_getLsbD_eq fun j hj => ?_
  simp only [BitVec.getLsbD_extractLsb', hj, decide_true, Bool.true_and, show 8 * i + j < 32 by omega]
  congr 1
  omega

/-- A register with clear poison and sidecar. -/
theorem writesV_bits (s : State) (d : BitVec 6) (b : VBits) :
    WritesV s d (fun l => (⟨b, 0, 0⟩ : VReg).lane l) (fun _ => false) 0 (.next (s.setV d { bits := b })) := by
  refine ⟨_, rfl, fun l _ => ?_, fun l _ => ?_, ?_, fun r hr => ?_, s.setV_onlyV d _, fun _ => rfl⟩
  · rw [State.v_setV, if_pos rfl]
  · rw [State.v_setV, if_pos rfl]; exact BitVec.getLsbD_zero
  · rw [State.v_setV, if_pos rfl]
  · rw [State.v_setV, if_neg hr]

/-! ### Tags after a write -/

/-- The places that a write changes are those that read otherwise before. -/
theorem mem_changedAt {m : List Host.Cell} {bs : List Byte} {k c : Nat} :
    c ∈ changedAt m k bs ↔ ∃ i, ∃ h : i < bs.length, c = k + i ∧ memRead m c ≠ bs[i] := by
  induction bs generalizing k with
  | nil => simp [changedAt]
  | cons b bs ih =>
    have hstep : c ∈ changedAt m k (b :: bs) ↔ (c = k ∧ memRead m k ≠ b) ∨ c ∈ changedAt m (k + 1) bs := by
      rw [changedAt]
      split
      · next h => simp [h]
      · next h => simp [h]
    rw [hstep, ih]
    constructor
    · rintro (⟨rfl, h⟩ | ⟨i, hi, rfl, h⟩)
      · exact ⟨0, by simp, rfl, h⟩
      · exact ⟨i + 1, by simpa using hi, by omega, by simpa using h⟩
    · rintro ⟨i, hi, rfl, h⟩
      cases i with
      | zero => exact .inl ⟨rfl, h⟩
      | succ i => exact .inr ⟨i, by simpa using hi, by omega, by simpa using h⟩

/-- The same places, as memory reads after the write. -/
theorem Hw.mem_changedAt_iff {h : Hw} (w : h.Ok) (k : Nat) (bs : List Byte) (c : Nat) :
    c ∈ changedAt h.mem k bs ↔ memRead (h.write k bs).mem c ≠ memRead h.mem c := by
  rw [mem_changedAt, show (h.write k bs).mem = memWriteN bs k h.mem from rfl]
  by_cases hc : k ≤ c ∧ c < k + bs.length
  · obtain ⟨i, rfl⟩ := Nat.exists_eq_add_of_le hc.1
    have hi : i < bs.length := by omega
    rw [memRead_writeN_in bs k i w hi]
    constructor
    · rintro ⟨j, hj, hij, hne⟩
      obtain rfl : i = j := by omega
      exact hne.symm
    · exact fun hne => ⟨i, hi, rfl, hne.symm⟩
  · rw [memRead_writeN_out bs k c w (by omega)]
    exact ⟨fun ⟨i, hi, hci, _⟩ => absurd hci (by omega), fun hne => absurd rfl hne⟩

/-- A granule keeps its tag when a write changes none of its bytes, and loses it otherwise (R82, log entry 15). -/
theorem Hw.setHas_tags_write {h : Hw} (w : h.Ok) (k : Nat) (bs : List Byte) (g : Nat) :
    setHas (h.write k bs).tags g = true ↔ setHas h.tags g = true
      ∧ ∀ i, i < 16 → memRead (h.write k bs).mem (16 * g + i) = memRead h.mem (16 * g + i) := by
  have hmem : setHas (h.write k bs).tags g = true ↔ setHas h.tags g = true ∧ ∀ c ∈ changedAt h.mem k bs, c / 16 ≠ g := by
    simp only [setHas, Hw.write, List.elem_eq_contains, List.contains_iff_mem, List.mem_filter, Bool.not_eq_true', List.any_eq_false,
      beq_iff_eq, ne_eq]
  rw [hmem]
  refine and_congr_right fun _ => ⟨fun hc i hi => ?_, fun hsame c hc hg => ?_⟩
  · by_contra hne
    exact hc _ ((h.mem_changedAt_iff w k bs _).mpr hne) (by omega)
  · refine (h.mem_changedAt_iff w k bs c).mp hc ?_
    have := hsame (c % 16) (by omega)
    rwa [show 16 * g + c % 16 = c by omega] at this

/-! ### Words stored one after another -/

theorem getElem_leBytes (n v i : Nat) (h : i < (leBytes n v).length) : (leBytes n v)[i] = BitVec.ofNat 8 (v / 256 ^ i) := by
  induction n generalizing v i with
  | zero => exact absurd h (Nat.not_lt_zero i)
  | succ n ih =>
    cases i with
    | zero => simp [leBytes]
    | succ i =>
      refine (ih (v / 256) i _).trans ?_
      rw [Nat.div_div_eq_div_mul, Nat.pow_succ']

/-- Memory after the first `n` of a list of words has been stored, word `l` at place `k l`. -/
def Hw.scatter (h : Hw) (k : Nat → Nat) (w : Nat → Lane) (n : Nat) : Hw :=
  (List.range n).foldl (fun h l => h.putNum (k l) 4 (w l).toNat) h

theorem Hw.scatter_succ (h : Hw) (k : Nat → Nat) (w : Nat → Lane) (n : Nat) :
    h.scatter k w (n + 1) = (h.scatter k w n).putNum (k n) 4 (w n).toNat := by
  rw [Hw.scatter, List.range_succ, List.foldl_append]; rfl

/-- Nothing but memory and what goes with it changes. -/
theorem Hw.scatter_eq (h : Hw) (k : Nat → Nat) (w : Nat → Lane) (n : Nat) :
    h.scatter k w n = { h with
      mem := (h.scatter k w n).mem
      tags := (h.scatter k w n).tags
      pmark := (h.scatter k w n).pmark
      dirty := (h.scatter k w n).dirty } := by
  induction n with
  | zero => rfl
  | succ n ih => rw [Hw.scatter_succ, ih]; rfl

section
variable {h : Hw} (hok : h.Ok) {k : Nat → Nat} {w : Nat → Lane} {n : Nat}
include hok

theorem Hw.scatter_ok (n : Nat) : (h.scatter k w n).Ok := by
  induction n with
  | zero => exact hok
  | succ n ih => rw [Hw.scatter_succ]; exact Hw.putNum_ok ih _ _ _

/-- Later words leave a byte that none of them holds. -/
theorem Hw.memRead_scatter_le {m j : Nat} (hnm : n ≤ m) (hj : ∀ l, n ≤ l → l < m → j < k l ∨ k l + 4 ≤ j) :
    memRead (h.scatter k w m).mem j = memRead (h.scatter k w n).mem j := by
  induction m, hnm using Nat.le_induction with
  | base => rfl
  | succ m hnm ih =>
    rw [Hw.scatter_succ, Hw.memRead_putNum_out (Hw.scatter_ok hok m) _ (hj m hnm (Nat.lt_succ_self m))]
    exact ih fun l hl hlm => hj l hl (Nat.lt_succ_of_lt hlm)

theorem Hw.memRead_scatter_out {j : Nat} (hj : ∀ l, l < n → j < k l ∨ k l + 4 ≤ j) :
    memRead (h.scatter k w n).mem j = memRead h.mem j :=
  Hw.memRead_scatter_le hok (Nat.zero_le n) fun l _ => hj l

/-- The bytes of a word that no later one meets are those stored. -/
theorem Hw.memRead_scatter_word {l i : Nat} (hl : l < n) (hi : i < 4) (hlater : ∀ m, l < m → m < n → k l + 4 ≤ k m ∨ k m + 4 ≤ k l) :
    memRead (h.scatter k w n).mem (k l + i) = (w l).extractLsb' (8 * i) 8 := by
  rw [Hw.memRead_scatter_le hok (n := l + 1) hl fun m hm hmn => by have := hlater m hm hmn; omega, Hw.scatter_succ, Hw.mem_putNum,
    memRead_writeN_in _ _ _ (Hw.scatter_ok hok l) (by rwa [leBytes_length]), getElem_leBytes]
  refine BitVec.eq_of_toNat_eq ?_
  rw [BitVec.toNat_ofNat, BitVec.extractLsb'_toNat, Nat.shiftRight_eq_div_pow, Nat.pow_mul]

/-- A granule with a tag had one before, and none of its bytes changed. -/
theorem Hw.tag_of_tag_scatter {g : Nat} (htag : setHas (h.scatter k w n).tags g = true) :
    setHas h.tags g = true ∧ ∀ i, i < 16 → memRead (h.scatter k w n).mem (16 * g + i) = memRead h.mem (16 * g + i) := by
  induction n with
  | zero => exact ⟨htag, fun _ _ => rfl⟩
  | succ n ih =>
    rw [Hw.scatter_succ] at htag ⊢
    obtain ⟨htag', hsame⟩ := (Hw.setHas_tags_write (Hw.scatter_ok hok n) _ _ g).mp htag
    obtain ⟨htag'', hsame'⟩ := ih htag'
    exact ⟨htag'', fun i hi => (hsame i hi).trans (hsame' i hi)⟩

/-- Where no two words meet, a granule none of whose bytes is other in the end keeps its tag: each byte is written once at most. -/
theorem Hw.tag_scatter_of_same {g m : Nat} (hnm : n ≤ m) (hapart : ∀ l l', l < l' → l' < m → k l + 4 ≤ k l' ∨ k l' + 4 ≤ k l)
    (htag : setHas h.tags g = true) (hsame : ∀ i, i < 16 → memRead (h.scatter k w m).mem (16 * g + i) = memRead h.mem (16 * g + i)) :
    setHas (h.scatter k w n).tags g = true := by
  induction n with
  | zero => exact htag
  | succ n ih =>
    rw [Hw.scatter_succ]
    refine (Hw.setHas_tags_write (Hw.scatter_ok hok n) _ _ g).mpr ⟨ih (Nat.le_of_succ_le hnm), fun i hi => ?_⟩
    show memRead ((h.scatter k w n).putNum (k n) 4 (w n).toNat).mem _ = _
    by_cases hin : k n ≤ 16 * g + i ∧ 16 * g + i < k n + 4
    · rw [← Hw.scatter_succ, ← Hw.memRead_scatter_le hok (n := n + 1) hnm fun l hl hlm => by have := hapart n l hl hlm; omega, hsame i hi,
        Hw.memRead_scatter_out hok fun l hl => by have := hapart l n hl hnm; omega]
    · exact Hw.memRead_putNum_out (Hw.scatter_ok hok n) _ (by omega)

end

/-- A scatter whose lanes pass every check stores them one after another, lane 0 first (R149). -/
theorem execVscat_eq {s : State} {d x : BitVec 6} {cb : BitVec 4} {sc : BitVec 3} {off : BitVec 32} {at_ : Nat → Nat}
    (hlanes : s.LanesReach cb x sc off pSt at_) (hpsn : (s.v d).psn = 0) (hslot : ∀ l, l < 32 → s.NoSlot (at_ l) 4) :
    exec (.vscat d cb x sc off) s
      = .next (s.upd (fun h => h.scatter (fun l => localKey s.ix.co (at_ l)) (fun l => (s.v d).lane l) 32)) := by
  rw [exec_vscat, execVscat, State.laneAddrs_ok hlanes, ok_bind, State.vUse_ok hpsn, ok_bind, forM_ok, ok_bind, settle_done]
  · have hfold (h : Hw) : (List.range 32).foldl
        (fun h l => h.putNum (localKey s.ix.co (((List.range 32).map at_).getD l 0)) 4 ((s.v d).lane l).toNat) h
          = h.scatter (fun l => localKey s.ix.co (at_ l)) (fun l => (s.v d).lane l) 32 :=
      List.foldl_ext _ _ h fun h l hl => by rw [getD_map_range _ _ (List.mem_range.mp hl)]
    simp only [hfold]
  · intro y hy
    obtain ⟨l, hl, rfl⟩ := List.mem_map.mp hy
    exact State.checkSlot_ok (hslot l (List.mem_range.mp hl))

/-- Settles O31: the addresses pass the checks of R81, loads fill the lanes with words of memory, and a scatter stores its lanes from
the lowest on, so that the highest of those at one address stands; tags follow the bytes changed (R82, log entry 15). -/
theorem vectorAccesses : Obligations.VectorAccesses := by
  intro s d x cb sc off a at_ b word lanes
  have hword (i : Nat) : s.toHw.wordAt (localKey s.ix.co i) = word i := by
    simp only [Hw.wordAt, word, b, localKey_add]
  refine ⟨fun hreach hmark => ?_, fun hreach hmark => ?_, fun hlanes hmark => ?_, fun hinv hlanes hpsn hslot => ?_⟩
  · rw [exec_vld, execVld, State.loadAddr_ok hreach (by decide) hmark, ok_bind, settle_done]
    refine (writesV_bits s d _).congr (fun l hl => ?_) (fun _ _ => rfl)
    rw [lane_vbitsOfBytes _ _ hl, ← localKey_add, hword]
  · rw [exec_vldBc, execVldBc, State.loadAddr_ok hreach (by decide) hmark, ok_bind, settle_done]
    refine (writesV_bits s d _).congr (fun l hl => ?_) (fun _ _ => rfl)
    rw [lane_lanesOf _ _ _ _ hl, Hw.ofNat_num_four, hword]
  · rw [exec_vgath, execVgath, State.laneAddrs_ok hlanes, ok_bind, forM_ok, ok_bind, settle_done]
    · refine (writesV_bits s d _).congr (fun l hl => ?_) (fun _ _ => rfl)
      rw [lane_lanesOf _ _ _ _ hl, getD_map_range _ _ hl, Hw.ofNat_num_four, hword]
    · intro y hy
      obtain ⟨l, hl, rfl⟩ := List.mem_map.mp hy
      exact State.checkMark_ok (hmark l (List.mem_range.mp hl))
  · rw [execVscat_eq hlanes hpsn hslot]
    have happart {l m : Nat} (hl : l < 32) (hm : m < 32) (hne : at_ m ≠ at_ l) :
        localKey s.ix.co (at_ l) + 4 ≤ localKey s.ix.co (at_ m) ∨ localKey s.ix.co (at_ m) + 4 ≤ localKey s.ix.co (at_ l) := by
      have hal := (hlanes.2 l hl).2.2.2
      have ham := (hlanes.2 m hm).2.2.2
      simp only [localKey]
      omega
    refine ⟨_, rfl, ?_, fun l i hl hi hlast => ?_, fun j hj => ?_, fun g htag => ?_, fun hinj g htag hsame => ?_⟩
    · exact congrArg (fun h => { s with toHw := h }) (s.toHw.scatter_eq _ _ 32)
    · exact Hw.memRead_scatter_word hinv hl hi fun m hlm hm => happart hl hm (hlast m hlm hm)
    · exact Hw.memRead_scatter_out hinv hj
    · exact Hw.tag_of_tag_scatter hinv htag
    · refine Hw.tag_scatter_of_same hinv le_rfl (fun l m hlm hm => ?_) htag hsame
      exact happart (hlm.trans hm) hm fun h => absurd (hinj m l hm (hlm.trans hm) h) (by omega)

end Sys2Proof.Machine
end

section
/-! SUPPORT. Lists that races use: a list kept in order as elements enter, the first of each index, pairs that stand in a relation
(R51, R235). -/

namespace Sys2Proof.Machine

/-! ### Lists kept in order -/

section
variable {α β : Type} (lt : α → α → Bool)

theorem insertBy_perm (x : α) (l : List α) : (insertBy lt x l).Perm (x :: l) := by
  induction l with
  | nil => exact .refl _
  | cons y l ih =>
    rw [insertBy]
    split
    · exact .refl _
    · exact (ih.cons y).trans (.swap x y l)

theorem sortBy_perm (l : List α) : (sortBy lt l).Perm l := by
  have hacc (acc : List α) : (l.foldl (fun t x => insertBy lt x t) acc).Perm (l ++ acc) := by
    induction l generalizing acc with
    | nil => exact .refl _
    | cons x l ih => exact (ih _).trans (((insertBy_perm lt x acc).append_left l).trans List.perm_middle)
  rw [sortBy]
  simpa using hacc []

theorem insertBy_map (f : β → α) (x : β) (l : List β) :
    insertBy lt (f x) (l.map f) = (insertBy (fun a b => lt (f a) (f b)) x l).map f := by
  induction l with
  | nil => rfl
  | cons y l ih =>
    rw [List.map_cons, insertBy, insertBy]
    split
    · rfl
    · rw [ih, List.map_cons]

/-- Sorting images is sorting by the images' order. -/
theorem sortBy_map (f : β → α) (l : List β) : sortBy lt (l.map f) = (sortBy (fun a b => lt (f a) (f b)) l).map f := by
  rw [sortBy, List.foldl_map]
  exact List.foldl_hom (List.map f) (init := []) fun t x => insertBy_map lt f x t

variable {lt} (htrans : ∀ a b c, lt a b = true → lt b c = true → lt a c = true) (htri : ∀ a b, a ≠ b → lt a b = true ∨ lt b a = true)
include htrans htri

theorem insertBy_pairwise {x : α} {l : List α} (hx : x ∉ l) (h : l.Pairwise (fun a b => lt a b = true)) :
    (insertBy lt x l).Pairwise (fun a b => lt a b = true) := by
  induction l with
  | nil => exact List.pairwise_singleton _ x
  | cons y l ih =>
    obtain ⟨hy, hl⟩ := List.pairwise_cons.mp h
    rw [List.mem_cons, not_or] at hx
    rw [insertBy]
    split
    · next hxy =>
      refine List.pairwise_cons.mpr ⟨fun z hz => ?_, h⟩
      rcases List.mem_cons.mp hz with rfl | hz
      · exact hxy
      · exact htrans _ _ _ hxy (hy z hz)
    · next hxy =>
      have hyx : lt y x = true := (htri x y hx.1).resolve_left hxy
      refine List.pairwise_cons.mpr ⟨fun z hz => ?_, ih hx.2 hl⟩
      rcases List.mem_cons.mp ((insertBy_perm lt x l).mem_iff.mp hz) with rfl | hz
      · exact hyx
      · exact hy z hz

/-- A list without repeats comes out in order. -/
theorem sortBy_pairwise {l : List α} (hnodup : l.Nodup) : (sortBy lt l).Pairwise (fun a b => lt a b = true) := by
  have hacc (acc : List α) (hsorted : acc.Pairwise (fun a b => lt a b = true)) (hall : (l ++ acc).Nodup) :
      (l.foldl (fun t x => insertBy lt x t) acc).Pairwise (fun a b => lt a b = true) := by
    induction l generalizing acc with
    | nil => exact hsorted
    | cons x l ih =>
      obtain ⟨hx, hrest⟩ := List.nodup_cons.mp hall
      refine ih hnodup.of_cons _ (insertBy_pairwise htrans htri (fun h => hx (List.mem_append_right l h)) hsorted) ?_
      refine (((insertBy_perm lt x acc).append_left l).trans List.perm_middle).nodup_iff.mpr hall
  exact hacc [] .nil (by simpa using hnodup)

end

/-! ### The first of each index -/

theorem dropDups_sublist (seen : List Lane) (l : List (RacePos × Lane)) : (dropDups seen l).Sublist l := by
  induction l generalizing seen with
  | nil => exact .slnil
  | cons e l ih =>
    rw [dropDups]
    split
    · exact (ih seen).cons e
    · exact (ih _).cons_cons e

theorem notMem_of_mem_dropDups {seen : List Lane} {l : List (RacePos × Lane)} {e : RacePos × Lane} (h : e ∈ dropDups seen l) :
    e.1.idx ∉ seen := by
  induction l generalizing seen with
  | nil => exact absurd h List.not_mem_nil
  | cons f l ih =>
    rw [dropDups] at h
    split at h
    · exact ih h
    · next hf =>
      rcases List.mem_cons.mp h with rfl | h
      · simpa using hf
      · exact fun hs => ih h (List.mem_cons_of_mem _ hs)

/-- The positions kept differ in index (R235). -/
theorem dropDups_pairwise (seen : List Lane) (l : List (RacePos × Lane)) :
    (dropDups seen l).Pairwise (fun e f => e.1.idx ≠ f.1.idx) := by
  induction l generalizing seen with
  | nil => exact .nil
  | cons e l ih =>
    rw [dropDups]
    split
    · exact ih seen
    · exact List.pairwise_cons.mpr ⟨fun f hf h => notMem_of_mem_dropDups hf (h ▸ List.mem_cons_self), ih _⟩

/-- Of every index not seen before, the first position is kept (R235). -/
theorem exists_mem_dropDups {r : RacePos × Lane → RacePos × Lane → Prop} {seen : List Lane} {l : List (RacePos × Lane)}
    (hl : l.Pairwise r) {e : RacePos × Lane} (he : e ∈ l) (hseen : e.1.idx ∉ seen) :
    ∃ f ∈ dropDups seen l, f.1.idx = e.1.idx ∧ (f = e ∨ r f e) := by
  induction l generalizing seen with
  | nil => exact absurd he List.not_mem_nil
  | cons g l ih =>
    obtain ⟨hg, hl⟩ := List.pairwise_cons.mp hl
    rw [dropDups]
    split
    · next hgs =>
      rcases List.mem_cons.mp he with rfl | he
      · exact absurd (by simpa using hgs) hseen
      · exact ih hl he hseen
    · next hgs =>
      by_cases hidx : g.1.idx = e.1.idx
      · refine ⟨g, List.mem_cons_self, hidx, ?_⟩
        rcases List.mem_cons.mp he with rfl | he
        · exact .inl rfl
        · exact .inr (hg e he)
      · rcases List.mem_cons.mp he with rfl | he
        · exact absurd rfl hidx
        · obtain ⟨f, hf, hrel⟩ := ih (seen := g.1.idx :: seen) hl he (by simp [hseen, Ne.symm hidx])
          exact ⟨f, List.mem_cons_of_mem g hf, hrel⟩

/-! ### Pairs in a relation -/

theorem anyPair_iff {α : Type} (r : α → α → Bool) (l : List α) : anyPair r l = true ↔ ¬l.Pairwise (fun a b => r a b = false) := by
  induction l with
  | nil => simp [anyPair]
  | cons x l ih => simp only [anyPair, Bool.or_eq_true, ih, List.any_eq_true, List.pairwise_cons, not_and_or]; simp

/-- Two different elements of a list without repeats have images in a symmetric relation. -/
theorem anyPair_map_iff {α β : Type} {r : α → α → Bool} (hsymm : ∀ a b, r a b = r b a) (f : β → α) {l : List β} (hl : l.Nodup) :
    anyPair r (l.map f) = true ↔ ∃ p q, p ∈ l ∧ q ∈ l ∧ p ≠ q ∧ r (f p) (f q) = true := by
  rw [anyPair_iff, List.pairwise_map, ← not_iff_not, not_not]
  push Not
  simp only [ne_eq, Bool.not_eq_true]
  constructor
  · intro h p q hp hq hpq
    have hflip : Std.Symm (fun a b => r (f a) (f b) = false) := ⟨fun a b h => by rwa [hsymm]⟩
    exact h.forall hp hq hpq
  · exact fun h => hl.pairwise_of_forall_ne fun p hp q hq hpq => h p q hp hq hpq

end Sys2Proof.Machine
end

section
/-! SUPPORT. A race by its key positions: the race order, the positions listed, what the walk of R235 yields (R232-R237). -/

namespace Sys2Proof.Machine

/-! ### Key positions -/

/-- What a race reads, by key position: the mask, whether there is a second key register, keys, indices, order keys, and which
positions of a merge are empty (R232-R235, R239). -/
structure RaceIn where
  mask : Lane
  two : Bool
  key : Nat → Lane
  ix : Nat → Lane
  ok : Nat → Option Lane
  empty : Nat → Bool

/-- A position is active (R233). -/
def RaceIn.on (x : RaceIn) (p : Nat) : Bool := decide (p < 64) && x.mask.getLsbD (p % 32) && (decide (p < 32) || x.two)

/-- The order key of a position that takes part (R234, R239). -/
def RaceIn.rank (x : RaceIn) (p : Nat) : Option Lane := if x.empty p then none else x.ok p

/-- A position as the model holds it. -/
def RaceIn.pos (x : RaceIn) (p : Nat) : RacePos := ⟨p, x.key p, x.ix p, x.ok p, x.empty p⟩

/-- A position with its order key. -/
def RaceIn.entry (x : RaceIn) (p : Nat) : RacePos × Lane := (x.pos p, (x.rank p).getD 0)

/-- The active positions, ascending. -/
def RaceIn.active (x : RaceIn) : List Nat := (List.range 64).filter x.on

/-- The active positions that take part, ascending. -/
def RaceIn.valid (x : RaceIn) : List Nat := (List.range 64).filter (fun p => x.on p && (x.rank p).isSome)

theorem RaceIn.mem_valid {x : RaceIn} {p : Nat} : p ∈ x.valid ↔ x.on p = true ∧ x.rank p ≠ none := by
  have hlt : x.on p = true → p < 64 := by
    simp only [RaceIn.on, Bool.and_eq_true, decide_eq_true_eq]
    exact fun h => h.1.1
  rw [RaceIn.valid, List.mem_filter, List.mem_range, Bool.and_eq_true, Option.isSome_iff_ne_none]
  exact ⟨And.right, fun h => ⟨hlt h.1, h⟩⟩

theorem RaceIn.nodup_valid (x : RaceIn) : x.valid.Nodup := List.nodup_range.filter _

/-! ### The race order -/

/-- Position p ranks before position q (R235). -/
def RaceIn.Before (x : RaceIn) (desc : Bool) (p q : Nat) : Prop :=
  ∃ a b, x.rank p = some a ∧ x.rank q = some b ∧
    (if a = b then (x.ix p).toNat < (x.ix q).toNat ∨ (x.ix p = x.ix q ∧ p < q) else if desc then b.toNat < a.toNat else a.toNat < b.toNat)

/-- The model's comparison of two positions. -/
def RaceIn.before (x : RaceIn) (desc : Bool) (p q : Nat) : Bool := raceBefore desc (x.entry p) (x.entry q)

/-- The race order as numbers: order key, then index, then position (R235). -/
theorem raceBefore_iff (desc : Bool) (e f : RacePos × Lane) : raceBefore desc e f = true ↔
    if e.2.toNat = f.2.toNat then
      if e.1.idx.toNat = f.1.idx.toNat then e.1.j < f.1.j else e.1.idx.toNat < f.1.idx.toNat
    else if desc then f.2.toNat < e.2.toNat else e.2.toNat < f.2.toNat := by
  simp only [raceBefore, BitVec.toNat_inj]
  split_ifs <;> simp [BitVec.ult]

theorem RaceIn.before_iff {x : RaceIn} {desc : Bool} {p q : Nat} (hp : x.rank p ≠ none) (hq : x.rank q ≠ none) :
    x.before desc p q = true ↔ x.Before desc p q := by
  obtain ⟨a, ha⟩ := Option.ne_none_iff_exists'.mp hp
  obtain ⟨b, hb⟩ := Option.ne_none_iff_exists'.mp hq
  have hlex : (if x.ix p = x.ix q then p < q else (x.ix p).toNat < (x.ix q).toNat)
      ↔ (x.ix p).toNat < (x.ix q).toNat ∨ (x.ix p = x.ix q ∧ p < q) := by
    split_ifs with h <;> simp [h]
  simp only [RaceIn.before, raceBefore_iff, RaceIn.entry, RaceIn.pos, RaceIn.Before, ha, hb, Option.getD_some, hlex, Option.some.injEq,
    BitVec.toNat_inj, exists_and_left, exists_eq_left']

theorem RaceIn.before_trans (x : RaceIn) (desc : Bool) (p q r : Nat) (hpq : x.before desc p q = true) (hqr : x.before desc q r = true) :
    x.before desc p r = true := by
  rw [RaceIn.before, raceBefore_iff] at *
  cases desc <;> simp only [Bool.false_eq_true, if_false, if_true] at * <;> split_ifs at * <;> omega

theorem RaceIn.before_total (x : RaceIn) (desc : Bool) (p q : Nat) (hpq : p ≠ q) : x.before desc p q = true ∨ x.before desc q p = true := by
  have hj : (x.entry p).1.j ≠ (x.entry q).1.j := hpq
  simp only [RaceIn.before, raceBefore_iff]
  cases desc <;> simp only [Bool.false_eq_true, if_false, if_true] <;> split_ifs <;> omega

/-! ### The positions listed -/

/-- The positions that take part, in race order. -/
def RaceIn.ranked (x : RaceIn) (desc : Bool) : List Nat := sortBy (x.before desc) x.valid

/-- Those of them whose index repeats no earlier one's (R235). -/
def RaceIn.dist (x : RaceIn) (desc : Bool) : List Nat := (dropDups [] ((x.ranked desc).map x.entry)).map (fun e => e.1.j)

section
variable {x : RaceIn} {desc : Bool} {p q n : Nat}

theorem RaceIn.mem_ranked : p ∈ x.ranked desc ↔ x.on p = true ∧ x.rank p ≠ none := by
  rw [RaceIn.ranked, (sortBy_perm _ _).mem_iff, RaceIn.mem_valid]

theorem RaceIn.ranked_pairwise : (x.ranked desc).Pairwise (fun p q => x.before desc p q = true) :=
  sortBy_pairwise (x.before_trans desc) (x.before_total desc) x.nodup_valid

/-- The model's ranking, by position. -/
theorem RaceIn.sortBy_valid : sortBy (raceBefore desc) (x.valid.map x.entry) = (x.ranked desc).map x.entry := sortBy_map _ _ _

/-- The model's list without duplicates, by position. -/
theorem RaceIn.map_entry_dist : dropDups [] ((x.ranked desc).map x.entry) = (x.dist desc).map x.entry := by
  rw [RaceIn.dist, List.map_map]
  refine (List.map_id _).symm.trans (List.map_congr_left fun e he => ?_)
  obtain ⟨p, -, rfl⟩ := List.mem_map.mp ((dropDups_sublist _ _).subset he)
  rfl

theorem RaceIn.dist_sublist : (x.dist desc).Sublist (x.ranked desc) := by
  have hsub := (dropDups_sublist [] ((x.ranked desc).map x.entry)).map (fun e => e.1.j)
  rwa [List.map_map, show (fun e : RacePos × Lane => e.1.j) ∘ x.entry = id from rfl, List.map_id] at hsub

theorem RaceIn.valid_of_mem_dist (h : p ∈ x.dist desc) : x.on p = true ∧ x.rank p ≠ none :=
  RaceIn.mem_ranked.mp (RaceIn.dist_sublist.subset h)

theorem RaceIn.dist_pairwise : (x.dist desc).Pairwise (fun p q => x.Before desc p q ∧ x.ix p ≠ x.ix q) := by
  have hne : (x.dist desc).Pairwise (fun p q => x.ix p ≠ x.ix q) := by
    have h := dropDups_pairwise [] ((x.ranked desc).map x.entry)
    rwa [RaceIn.map_entry_dist, List.pairwise_map] at h
  refine ((RaceIn.ranked_pairwise.sublist RaceIn.dist_sublist).and hne).imp_of_mem fun hp hq h => ⟨?_, h.2⟩
  exact (RaceIn.before_iff (RaceIn.valid_of_mem_dist hp).2 (RaceIn.valid_of_mem_dist hq).2).mp h.1

theorem RaceIn.nodup_dist : (x.dist desc).Nodup := RaceIn.dist_pairwise.imp fun h heq => h.2 (congrArg x.ix heq)

/-- Of every index the first position in race order is listed (R235). -/
theorem RaceIn.exists_mem_dist (hp : x.on p = true) (hk : x.rank p ≠ none) :
    ∃ q ∈ x.dist desc, x.ix q = x.ix p ∧ (q = p ∨ x.Before desc q p) := by
  have hranked : ((x.ranked desc).map x.entry).Pairwise (fun e f => raceBefore desc e f = true) :=
    List.pairwise_map.mpr RaceIn.ranked_pairwise
  obtain ⟨e, he, hidx, hrel⟩ := exists_mem_dropDups (seen := []) hranked
    (List.mem_map_of_mem (RaceIn.mem_ranked.mpr ⟨hp, hk⟩)) List.not_mem_nil
  rw [RaceIn.map_entry_dist] at he
  obtain ⟨q, hq, rfl⟩ := List.mem_map.mp he
  refine ⟨q, hq, hidx, hrel.imp (fun h => congrArg (fun e : RacePos × Lane => e.1.j) h) fun h => ?_⟩
  exact (RaceIn.before_iff (RaceIn.valid_of_mem_dist hq).2 hk).mp h

theorem RaceIn.Before.asymm (h : x.Before desc p q) (h' : x.Before desc q p) : False := by
  obtain ⟨a, b, ha, hb, hlt⟩ := h
  obtain ⟨b', a', hb', ha', hlt'⟩ := h'
  obtain rfl : a = a' := Option.some.inj (ha.symm.trans ha')
  obtain rfl : b = b' := Option.some.inj (hb.symm.trans hb')
  simp only [← BitVec.toNat_inj] at hlt hlt'
  split_ifs at hlt hlt' <;> omega

/-- A position is listed when it takes part and ranks before every other of its index. -/
theorem RaceIn.mem_dist_iff : p ∈ x.dist desc ↔ x.on p = true ∧ x.rank p ≠ none
    ∧ ∀ q, x.on q = true → x.rank q ≠ none → x.ix q = x.ix p → q ≠ p → x.Before desc p q := by
  constructor
  · intro hp
    obtain ⟨hon, hk⟩ := RaceIn.valid_of_mem_dist hp
    refine ⟨hon, hk, fun q hq hkq hidx hne => ?_⟩
    obtain ⟨r, hr, hridx, hrq⟩ := RaceIn.exists_mem_dist (desc := desc) hq hkq
    have hrp : r = p := by
      by_contra h
      have hsymm : Std.Symm (fun p q => x.ix p ≠ x.ix q) := ⟨fun _ _ => Ne.symm⟩
      exact (RaceIn.dist_pairwise.imp And.right).forall hr hp h (hridx.trans hidx)
    subst hrp
    exact hrq.resolve_left (Ne.symm hne)
  · rintro ⟨hon, hk, hfirst⟩
    obtain ⟨q, hq, hidx, hqp⟩ := RaceIn.exists_mem_dist (desc := desc) hon hk
    obtain ⟨hqon, hqk⟩ := RaceIn.valid_of_mem_dist hq
    rcases hqp with rfl | hqp
    · exact hq
    · by_contra h
      exact hqp.asymm (hfirst q hqon hqk hidx fun heq => h (heq ▸ hq))

/-! ### The positions selected and left out -/

/-- The number of positions that a race of size n selects. -/
def RaceIn.count (x : RaceIn) (desc : Bool) (n : Nat) : Nat := min n (x.dist desc).length

/-- The position at a rank. -/
def RaceIn.atRank (x : RaceIn) (desc : Bool) (i : Nat) : Nat := (x.dist desc).getD i 0

theorem RaceIn.atRank_eq {i : Nat} (h : i < (x.dist desc).length) : x.atRank desc i = (x.dist desc)[i] := by
  rw [RaceIn.atRank, List.getD_eq_getElem _ _ h]

theorem RaceIn.atRank_valid {i : Nat} (h : i < (x.dist desc).length) : x.on (x.atRank desc i) = true ∧ x.rank (x.atRank desc i) ≠ none := by
  rw [RaceIn.atRank_eq h]
  exact RaceIn.valid_of_mem_dist (List.getElem_mem h)

/-- Ranks follow the race order, and the positions listed differ in index. -/
theorem RaceIn.atRank_before {i j : Nat} (hj : j < (x.dist desc).length) (hij : i < j) :
    x.Before desc (x.atRank desc i) (x.atRank desc j) ∧ x.ix (x.atRank desc i) ≠ x.ix (x.atRank desc j) := by
  rw [RaceIn.atRank_eq hj, RaceIn.atRank_eq (hij.trans hj)]
  exact List.pairwise_iff_getElem.mp RaceIn.dist_pairwise i j (hij.trans hj) hj hij

theorem RaceIn.mem_take_dist : p ∈ (x.dist desc).take n ↔ ∃ i, i < x.count desc n ∧ x.atRank desc i = p := by
  rw [List.mem_take_iff_getElem]
  refine exists_congr fun i => ⟨fun ⟨hi, h⟩ => ⟨hi, ?_⟩, fun ⟨hi, h⟩ => ⟨hi, ?_⟩⟩
  · rw [RaceIn.atRank_eq (by omega), h]
  · rw [← h, RaceIn.atRank_eq (by rw [RaceIn.count] at hi; omega)]

theorem RaceIn.mem_drop_dist : p ∈ (x.dist desc).drop n ↔ p ∈ x.dist desc ∧ ∀ i, i < x.count desc n → x.atRank desc i ≠ p := by
  have hnodup := RaceIn.nodup_dist (x := x) (desc := desc)
  have hmem : p ∈ x.dist desc ↔ p ∈ (x.dist desc).take n ∨ p ∈ (x.dist desc).drop n := by
    rw [← List.mem_append, List.take_append_drop]
  have hapart : p ∈ (x.dist desc).drop n → p ∉ (x.dist desc).take n := by
    rw [← List.take_append_drop n (x.dist desc)] at hnodup
    exact fun hd ht => (List.nodup_append.mp hnodup).2.2 p ht p hd rfl
  rw [hmem]
  have htake := RaceIn.mem_take_dist (x := x) (desc := desc) (p := p) (n := n)
  constructor
  · intro hd
    exact ⟨.inr hd, fun i hi h => hapart hd (htake.mpr ⟨i, hi, h⟩)⟩
  · rintro ⟨h, hnot⟩
    exact h.resolve_left fun ht => let ⟨i, hi, hp⟩ := htake.mp ht; hnot i hi hp

/-- A position that takes part is selected, or a better one has its index, or the selection is full of better ones (R235). -/
theorem RaceIn.selected_or_beaten (hp : x.on p = true) (hk : x.rank p ≠ none) :
    (∃ i, i < x.count desc n ∧ x.atRank desc i = p) ∨ (∃ q, x.on q = true ∧ x.ix q = x.ix p ∧ x.Before desc q p)
      ∨ (x.count desc n = n ∧ ∀ i, i < n → x.Before desc (x.atRank desc i) p) := by
  obtain ⟨q, hq, hidx, rfl | hqp⟩ := RaceIn.exists_mem_dist (desc := desc) hp hk
  · obtain ⟨j, hj, rfl⟩ := List.getElem_of_mem hq
    by_cases hjn : j < n
    · exact .inl ⟨j, lt_min hjn hj, RaceIn.atRank_eq hj⟩
    · refine .inr (.inr ⟨min_eq_left (by omega), fun i hi => ?_⟩)
      rw [← RaceIn.atRank_eq hj]
      exact (RaceIn.atRank_before hj (by omega)).1
  · exact .inr (.inl ⟨q, (RaceIn.valid_of_mem_dist hq).1, hidx, hqp⟩)

end

end Sys2Proof.Machine
end

section
/-! SUPPORT. The result block of a race: its walk by positions, sums in ascending index, counts, windows, the five registers (R51, R235-R237). -/

namespace Sys2Proof.Machine

/-! ### Sums in ascending index -/

/-- Position p stands before position q in ascending index (R237). -/
def RaceIn.byIndex (x : RaceIn) (p q : Nat) : Bool := if x.ix p = x.ix q then decide (p < q) else (x.ix p).ult (x.ix q)

/-- The sum of R237 over positions in a given order, of integers or of FP32 keys. -/
def RaceIn.sum (x : RaceIn) (int : Bool) (l : List Nat) : Lane :=
  l.foldl (fun t p => if int then t + x.key p else f32Add t (x.key p)) (if int then 0 else 0x80000000#32)

section
variable {x : RaceIn} {desc int psn : Bool} {n : Nat}

theorem RaceIn.byIndex_iff (p q : Nat) : x.byIndex p q = true ↔
    if (x.ix p).toNat = (x.ix q).toNat then p < q else (x.ix p).toNat < (x.ix q).toNat := by
  simp only [RaceIn.byIndex, BitVec.toNat_inj]
  split_ifs <;> simp [BitVec.ult]

theorem RaceIn.raceSum_map_pos (l : List Nat) : raceSum int (l.map x.pos) = x.sum int (sortBy x.byIndex l) := by
  rw [raceSum, sortBy_map, List.foldl_map]
  rfl

/-- Positions that differ in index come out in strictly ascending index. -/
theorem RaceIn.sortBy_byIndex_pairwise {l : List Nat} (hnodup : l.Nodup) (hne : l.Pairwise (fun p q => x.ix p ≠ x.ix q)) :
    (sortBy x.byIndex l).Pairwise (fun p q => (x.ix p).toNat < (x.ix q).toNat) := by
  have hsymm : Std.Symm (fun p q => x.ix p ≠ x.ix q) := ⟨fun _ _ => Ne.symm⟩
  have hsorted : (sortBy x.byIndex l).Pairwise (fun p q => x.byIndex p q = true) := by
    refine sortBy_pairwise (fun p q r => ?_) (fun p q => ?_) hnodup <;> simp only [RaceIn.byIndex_iff]
    · split_ifs <;> omega
    · split_ifs <;> omega
  refine hsorted.imp_of_mem fun {p q} hp hq h => ?_
  rw [RaceIn.byIndex_iff] at h
  split_ifs at h with hidx
  · rw [(sortBy_perm _ l).mem_iff] at hp hq
    exact absurd (BitVec.eq_of_toNat_eq hidx) (hne.forall hp hq h.ne)
  · exact h

/-- Listed positions come out in strictly ascending index. -/
theorem RaceIn.ascending {l : List Nat} (hl : l.Sublist (x.dist desc)) :
    (sortBy x.byIndex l).Pairwise (fun p q => (x.ix p).toNat < (x.ix q).toNat) :=
  RaceIn.sortBy_byIndex_pairwise (RaceIn.nodup_dist.sublist hl) ((RaceIn.dist_pairwise.imp And.right).sublist hl)

/-- The positions left out: the first of their index, and not selected (R235). -/
theorem RaceIn.mem_rest {p : Nat} : p ∈ sortBy x.byIndex ((x.dist desc).drop n) ↔ x.on p = true ∧ x.rank p ≠ none
    ∧ (∀ q, x.on q = true → x.rank q ≠ none → x.ix q = x.ix p → q ≠ p → x.Before desc p q)
    ∧ ∀ i, i < x.count desc n → x.atRank desc i ≠ p := by
  rw [(sortBy_perm _ _).mem_iff, RaceIn.mem_drop_dist, RaceIn.mem_dist_iff, and_assoc, and_assoc]

/-! ### The walk of R235 -/

/-- The model's valid positions with their order keys. -/
theorem RaceIn.filterMap_active : ((x.active.map x.pos).filter (fun p => !p.empty)).filterMap (fun p => p.ok.map (fun k => (p, k)))
    = x.valid.map x.entry := by
  rw [List.filterMap_filter, List.filterMap_map, RaceIn.active, List.filterMap_filter, RaceIn.valid, ← List.filterMap_eq_map,
    List.filterMap_filter]
  refine List.filterMap_congr fun p _ => ?_
  cases hon : x.on p <;> cases hempty : x.empty p <;> cases hok : x.ok p <;>
    simp [RaceIn.entry, RaceIn.pos, RaceIn.rank, hempty, hok]

/-- The model's invalid positions, of those that are not empty. -/
theorem RaceIn.length_nans : (((x.active.map x.pos).filter (fun p => !p.empty)).filter (fun p => p.ok.isNone)).length
    = (List.range 64).countP (fun p => x.on p && !x.empty p && (x.rank p).isNone) := by
  rw [List.filter_filter, ← List.countP_eq_length_filter, List.countP_map, RaceIn.active, List.countP_filter]
  refine List.countP_congr fun p _ => ?_
  cases hon : x.on p <;> cases hempty : x.empty p <;> simp [RaceIn.pos, RaceIn.rank, hempty]

/-- The positions left out whose order key is that of the last selected one (R236). -/
def RaceIn.ties (x : RaceIn) (desc : Bool) (n : Nat) : Nat :=
  if x.count desc n = 0 then 0
  else ((x.dist desc).drop n).countP (fun p => x.rank p == x.rank (x.atRank desc (x.count desc n - 1)))

theorem RaceIn.getLast?_take_dist (h : x.count desc n ≠ 0) :
    ((x.dist desc).take n).getLast? = some (x.atRank desc (x.count desc n - 1)) := by
  rw [RaceIn.count] at h
  rw [List.getLast?_eq_getElem?, List.length_take, ← RaceIn.count, List.getElem?_take_of_lt (by rw [RaceIn.count]; omega),
    RaceIn.atRank_eq (by rw [RaceIn.count]; omega), List.getElem?_eq_getElem]

/-- Order keys of positions that take part are the same when the model's are. -/
theorem RaceIn.entry_snd_beq {p q : Nat} (hp : x.rank p ≠ none) (hq : x.rank q ≠ none) :
    ((x.entry p).2 == (x.entry q).2) = (x.rank p == x.rank q) := by
  obtain ⟨a, ha⟩ := Option.ne_none_iff_exists'.mp hp
  obtain ⟨b, hb⟩ := Option.ne_none_iff_exists'.mp hq
  simp [RaceIn.entry, ha, hb]

theorem RaceIn.length_ranked : (x.ranked desc).length = x.valid.length := (sortBy_perm _ _).length_eq

/-- What the walk yields, by position (R235, R236). -/
theorem RaceIn.raceRun_eq : raceRun desc n (x.active.map x.pos) = {
    sel := ((x.dist desc).take n).map x.entry
    rest := ((x.dist desc).drop n).map x.entry
    nans := (List.range 64).countP (fun p => x.on p && !x.empty p && (x.rank p).isNone)
    dups := x.valid.length - (x.dist desc).length
    nvalid := (x.dist desc).length
    ties := x.ties desc n
    win := raceWin (x.valid.map (fun p => (x.rank p).getD 0)) } := by
  simp only [raceRun, RaceIn.filterMap_active, RaceIn.length_nans, RaceIn.sortBy_valid, RaceIn.map_entry_dist, List.length_map,
    ← List.map_take, ← List.map_drop, List.map_map, RaceIn.length_ranked, List.getLast?_map]
  congr 1
  rw [RaceIn.ties]
  by_cases h : x.count desc n = 0
  · have hnil : (x.dist desc).take n = [] := List.eq_nil_of_length_eq_zero (by rwa [List.length_take])
    rw [if_pos h, hnil]
    rfl
  · rw [if_neg h, RaceIn.getLast?_take_dist h, Option.map_some]
    dsimp only
    rw [← List.countP_eq_length_filter, List.countP_map]
    have hlast : x.count desc n - 1 < (x.dist desc).length := by rw [RaceIn.count] at *; omega
    refine List.countP_congr fun p hp => ?_
    rw [Function.comp_apply, RaceIn.entry_snd_beq (RaceIn.valid_of_mem_dist (List.mem_of_mem_drop hp)).2 (RaceIn.atRank_valid hlast).2]

/-! ### Windows -/

/-- Two active positions have valid order keys that agree above their low `b` bits. -/
def RaceIn.SameTop (x : RaceIn) (b : Nat) : Prop :=
  ∃ p q v w, p ≠ q ∧ x.on p = true ∧ x.on q = true ∧ x.rank p = some v ∧ x.rank q = some w ∧ v.toNat / 2 ^ b = w.toNat / 2 ^ b

theorem RaceIn.anyPair_valid_iff (b : Nat) :
    anyPair (fun v w : Lane => v.toNat / 2 ^ b == w.toNat / 2 ^ b) (x.valid.map (fun p => (x.rank p).getD 0)) = true ↔ x.SameTop b := by
  rw [anyPair_map_iff (fun v w => BEq.comm) _ x.nodup_valid]
  refine exists_congr fun p => exists_congr fun q => ⟨?_, ?_⟩
  · rintro ⟨hp, hq, hne, heq⟩
    obtain ⟨hpon, hpk⟩ := RaceIn.mem_valid.mp hp
    obtain ⟨hqon, hqk⟩ := RaceIn.mem_valid.mp hq
    obtain ⟨v, hv⟩ := Option.ne_none_iff_exists'.mp hpk
    obtain ⟨w, hw⟩ := Option.ne_none_iff_exists'.mp hqk
    rw [hv, hw] at heq
    exact ⟨v, w, hne, hpon, hqon, hv, hw, by simpa using heq⟩
  · rintro ⟨v, w, hne, hpon, hqon, hv, hw, heq⟩
    refine ⟨RaceIn.mem_valid.mpr ⟨hpon, by simp [hv]⟩, RaceIn.mem_valid.mpr ⟨hqon, by simp [hw]⟩, hne, ?_⟩
    simpa [hv, hw] using heq

/-- The windows a race used: one more where two keys agree in the bits that the first, or the first two, read (R51). -/
theorem RaceIn.raceWin_valid : let win := raceWin (x.valid.map (fun p => (x.rank p).getD 0))
    (x.SameTop 8 → win = 3) ∧ (¬x.SameTop 8 → x.SameTop 20 → win = 2) ∧ (¬x.SameTop 8 → ¬x.SameTop 20 → win = 1) := by
  simp only [raceWin, ← RaceIn.anyPair_valid_iff]
  refine ⟨fun h => if_pos h, fun h h' => ?_, fun h h' => ?_⟩
  · rw [if_neg h, if_pos h']
  · rw [if_neg h, if_neg h']

/-! ### The five registers -/

/-- The summary register's lanes (R236). -/
def raceSummary (int : Bool) (r : RaceResult) : List Lane :=
  [raceSum int (r.sel.map Prod.fst), raceSum int (r.rest.map Prod.fst), BitVec.ofNat 32 r.nans, BitVec.ofNat 32 r.dups,
    BitVec.ofNat 32 r.sel.length, BitVec.ofNat 32 r.nvalid, BitVec.ofNat 32 r.ties, BitVec.ofNat 32 r.win]

/-- What stands in the key registers past the selected positions (R236). -/
def raceFill (int : Bool) : Lane := if int then 0 else 0x7FC00000#32

/-- The five registers hold the keys and indices of a result's selection and its summary (R236, R241). -/
structure RaceRegs (int psn : Bool) (r : RaceResult) (v0 v1 v2 v3 v4 : VReg) : Prop where
  keys : ∀ i, i < 64 → (if i < 32 then v0.lane i else v1.lane (i - 32)) = (r.sel[i]?.map (fun e => e.1.key)).getD (raceFill int)
  idxs : ∀ i, i < 64 → (if i < 32 then v2.lane i else v3.lane (i - 32)) = (r.sel[i]?.map (fun e => e.1.idx)).getD 0xFFFFFFFF#32
  summary : ∀ l, l < 32 → v4.lane l = (raceSummary int r).getD l 0
  poison : ∀ v ∈ [v0, v1, v2, v3, v4], v.psn = if psn then 0xFFFFFFFF#32 else 0
  side : ∀ v ∈ [v0, v1, v2, v3, v4], v.side = 0

/-- A lane of one of two registers that hold 64 values. -/
theorem lane_of_two (f : Nat → Lane) (p p' : BitVec 32) {i : Nat} (h : i < 64) :
    (if i < 32 then (⟨lanesOf f, p, 0⟩ : VReg).lane i else (⟨lanesOf (fun l => f (32 + l)), p', 0⟩ : VReg).lane (i - 32)) = f i := by
  split
  · exact lane_lanesOf f p 0 i ‹_›
  · rw [lane_lanesOf _ p' 0 (i - 32) (by omega), show 32 + (i - 32) = i by omega]

theorem raceRegs_raceBlock (int psn : Bool) (r : RaceResult) :
    ∃ v0 v1 v2 v3 v4, raceBlock int psn r = [v0, v1, v2, v3, v4] ∧ RaceRegs int psn r v0 v1 v2 v3 v4 := by
  refine ⟨_, _, _, _, _, rfl, fun i hi => ?_, fun i hi => ?_, fun l hl => lane_lanesOf _ _ _ l hl, by simp, by simp⟩
  · rw [lane_of_two _ _ _ hi]
    cases r.sel[i]? <;> rfl
  · rw [lane_of_two _ _ _ hi]
    cases r.sel[i]? <;> rfl

/-- Every register of a block is poisoned whole, or none is (R241). -/
theorem psn_of_mem_raceBlock {r : RaceResult} {v : VReg} (hv : v ∈ raceBlock int psn r) : v.psn = if psn then 0xFFFFFFFF#32 else 0 := by
  obtain ⟨v0, v1, v2, v3, v4, hregs, h⟩ := raceRegs_raceBlock int psn r
  exact h.poison v (hregs ▸ hv)

end

end Sys2Proof.Machine
end

section
/-! SUPPORT. Races as they issue: the summary by positions, the key positions of an instruction, its checks, its landing slot (R232-R242). -/

namespace Sys2Proof.Machine

/-! ### The summary by positions -/

/-- A count of key positions fits a lane. -/
theorem toNat_ofNat_of_le {a : Nat} (h : a ≤ 64) : (BitVec.ofNat 32 a).toNat = a := by
  rw [BitVec.toNat_ofNat, Nat.mod_eq_of_lt (by omega)]

section
variable {x : RaceIn} {desc int psn : Bool} {n : Nat}

theorem RaceIn.length_valid : x.valid.length = (List.range 64).countP (fun p => x.on p && (x.rank p).isSome) :=
  List.countP_eq_length_filter.symm

theorem RaceIn.length_dist_le : (x.dist desc).length ≤ x.valid.length :=
  RaceIn.dist_sublist.length_le.trans RaceIn.length_ranked.le

theorem RaceIn.length_valid_le : x.valid.length ≤ 64 := by
  rw [RaceIn.length_valid]
  exact List.countP_le_length.trans (by simp)

theorem RaceIn.ties_le : x.ties desc n ≤ 64 := by
  have hlen : ((x.dist desc).drop n).length ≤ 64 := by
    have := RaceIn.length_dist_le (x := x) (desc := desc)
    have := RaceIn.length_valid_le (x := x)
    rw [List.length_drop]
    omega
  rw [RaceIn.ties]
  split
  · omega
  · exact List.countP_le_length.trans hlen

/-- The summary's lanes by position (R236, R237). -/
theorem RaceIn.raceSummary_eq : raceSummary int (raceRun desc n (x.active.map x.pos)) =
    [x.sum int (sortBy x.byIndex ((x.dist desc).take n)), x.sum int (sortBy x.byIndex ((x.dist desc).drop n)),
      BitVec.ofNat 32 ((List.range 64).countP (fun p => x.on p && !x.empty p && (x.rank p).isNone)),
      BitVec.ofNat 32 (x.valid.length - (x.dist desc).length), BitVec.ofNat 32 (x.count desc n),
      BitVec.ofNat 32 (x.dist desc).length, BitVec.ofNat 32 (x.ties desc n),
      BitVec.ofNat 32 (raceWin (x.valid.map (fun p => (x.rank p).getD 0)))] := by
  have hpos (l : List Nat) : (l.map x.entry).map Prod.fst = l.map x.pos := by rw [List.map_map]; rfl
  rw [RaceIn.raceRun_eq, raceSummary]
  simp only [hpos, RaceIn.raceSum_map_pos, List.length_map, List.length_take]
  rfl

variable {v0 v1 v2 v3 v4 : VReg} (h : RaceRegs int psn (raceRun desc n (x.active.map x.pos)) v0 v1 v2 v3 v4)
include h

theorem RaceRegs.sum_selected : v4.lane 0 = x.sum int (sortBy x.byIndex ((x.dist desc).take n)) := by
  rw [h.summary 0 (by decide), RaceIn.raceSummary_eq]; rfl

theorem RaceRegs.sum_rest : v4.lane 1 = x.sum int (sortBy x.byIndex ((x.dist desc).drop n)) := by
  rw [h.summary 1 (by decide), RaceIn.raceSummary_eq]; rfl

theorem RaceRegs.nans : (v4.lane 2).toNat = (List.range 64).countP (fun p => x.on p && !x.empty p && (x.rank p).isNone) := by
  rw [h.summary 2 (by decide), RaceIn.raceSummary_eq]
  exact toNat_ofNat_of_le (List.countP_le_length.trans (by simp))

theorem RaceRegs.count (hn : n ≤ 64) : (v4.lane 4).toNat = x.count desc n := by
  rw [h.summary 4 (by decide), RaceIn.raceSummary_eq]
  exact toNat_ofNat_of_le ((min_le_left _ _).trans hn)

theorem RaceRegs.distinct : (v4.lane 5).toNat = (x.dist desc).length := by
  rw [h.summary 5 (by decide), RaceIn.raceSummary_eq]
  exact toNat_ofNat_of_le (RaceIn.length_dist_le.trans RaceIn.length_valid_le)

/-- Duplicates and distinct positions make up those that take part. -/
theorem RaceRegs.duplicates : (v4.lane 3).toNat + (v4.lane 5).toNat = (List.range 64).countP (fun p => x.on p && (x.rank p).isSome) := by
  have hle := RaceIn.length_dist_le (x := x) (desc := desc)
  have hdup : (v4.lane 3).toNat = x.valid.length - (x.dist desc).length := by
    rw [h.summary 3 (by decide), RaceIn.raceSummary_eq]
    exact toNat_ofNat_of_le ((Nat.sub_le _ _).trans RaceIn.length_valid_le)
  rw [hdup, h.distinct, ← RaceIn.length_valid]
  omega

theorem RaceRegs.ties : (v4.lane 6).toNat = x.ties desc n := by
  rw [h.summary 6 (by decide), RaceIn.raceSummary_eq]
  exact toNat_ofNat_of_le RaceIn.ties_le

theorem RaceRegs.windows : (x.SameTop 8 → v4.lane 7 = 3) ∧ (¬x.SameTop 8 → x.SameTop 20 → v4.lane 7 = 2)
    ∧ (¬x.SameTop 8 → ¬x.SameTop 20 → v4.lane 7 = 1) := by
  have hwin : v4.lane 7 = BitVec.ofNat 32 (raceWin (x.valid.map (fun p => (x.rank p).getD 0))) := by
    rw [h.summary 7 (by decide), RaceIn.raceSummary_eq]; rfl
  obtain ⟨h3, h2, h1⟩ := x.raceWin_valid
  exact ⟨fun a => by rw [hwin, h3 a]; rfl, fun a b => by rw [hwin, h2 a b]; rfl, fun a b => by rw [hwin, h1 a b]; rfl⟩

theorem RaceRegs.past_summary {l : Nat} (hl : 8 ≤ l) (hl' : l < 32) : v4.lane l = 0 := by
  rw [h.summary l hl', List.getD_eq_default _ _ hl]

/-- The key registers list the selected positions' keys, then fill; the index registers their indices, then all ones. -/
theorem RaceRegs.listed {i : Nat} (hi : i < 64) :
    (if i < 32 then v0.lane i else v1.lane (i - 32)) = (if i < x.count desc n then x.key (x.atRank desc i) else raceFill int)
    ∧ (if i < 32 then v2.lane i else v3.lane (i - 32)) = (if i < x.count desc n then x.ix (x.atRank desc i) else 0xFFFFFFFF#32) := by
  have hsel : (raceRun desc n (x.active.map x.pos)).sel[i]? = if i < x.count desc n then some (x.entry (x.atRank desc i)) else none := by
    rw [RaceIn.raceRun_eq, List.getElem?_map]
    split
    · next hlt =>
      rw [RaceIn.count] at hlt
      rw [List.getElem?_take_of_lt (by omega), List.getElem?_eq_getElem (by omega), RaceIn.atRank_eq (by omega), Option.map_some]
    · next hge =>
      rw [RaceIn.count] at hge
      rw [List.getElem?_eq_none (by rw [List.length_take]; omega), Option.map_none]
  rw [h.keys i hi, h.idxs i hi, hsel]
  split <;> exact ⟨rfl, rfl⟩

end

/-! ### The key positions of an instruction -/

section
variable (s : State) (ks : RaceKeys) (va vb vc : BitVec 6) (mk : BitVec 3)

/-- The indices of a race's key positions: listed in VC and VC + 1 by a merge, else counted from lane 0 of VC (R234, R239). -/
def State.raceIx (j : Nat) : Lane :=
  if ks = .merge then (if j < 32 then (s.v vc).lane j else (s.v (vc + 1)).lane (j - 32)) else BitVec.ofNat 32 (((s.v vc).lane 0).toNat + j)

/-- The keys of a race's key positions (R232). -/
def State.raceKey (j : Nat) : Lane := if j < 32 then (s.v va).lane j else (s.v vb).lane (j - 32)

/-- The order keys of a race's key positions (R234, R240). -/
def State.raceOk (j : Nat) : Option Lane :=
  match ks with
  | .s32 => raceKeyS32 (s.raceKey va vb j)
  | .knn => knnKey ((s.v vc).lane 1) (s.raceKey va vb j)
  | _ => raceKeyF32 (s.raceKey va vb j)

/-- What a race instruction reads, by key position. -/
def State.raceIn : RaceIn where
  mask := s.m mk
  two := va != vb
  key := s.raceKey va vb
  ix := s.raceIx ks vc
  ok := s.raceOk ks va vb vc
  empty := fun j => ks == .merge && s.raceIx ks vc j == 0xFFFFFFFF#32

/-- Some active position's lane of two registers is poisoned (R241). -/
def RaceIn.anyPsn (x : RaceIn) (a b : BitVec 32) : Bool :=
  (List.range 64).any (fun j => x.on j && (if j < 32 then a.getLsbD j else b.getLsbD (j - 32)))

/-- The poison that a race meets in its indices and its query (R241). -/
def State.raceIdxPsn : Bool :=
  match ks with
  | .merge => (s.raceIn .merge va vb vc mk).anyPsn (s.v vc).psn (s.v (vc + 1)).psn
  | .knn => (s.v vc).psn.getLsbD 0 || (s.v vc).psn.getLsbD 1
  | _ => (s.v vc).psn.getLsbD 0

variable {s ks va vb vc mk}

/-- The 64 positions are the lanes of the first register, then those of the second. -/
theorem range_64 : List.range 64 = List.range 32 ++ (List.range 32).map (32 + ·) := List.range_add (n := 32) (m := 32)

theorem RaceIn.on_low (x : RaceIn) {l : Nat} (hl : l < 32) : x.on l = x.mask.getLsbD l := by
  simp [RaceIn.on, hl, Nat.mod_eq_of_lt hl, show l < 64 by omega]

theorem RaceIn.on_high (x : RaceIn) {l : Nat} (hl : l < 32) : x.on (32 + l) = (x.mask.getLsbD l && x.two) := by
  simp [RaceIn.on, Nat.mod_eq_of_lt hl, hl, show 32 + l < 64 by omega]

theorem RaceIn.active_eq (x : RaceIn) :
    x.active = activeLanes x.mask ++ if x.two then (activeLanes x.mask).map (32 + ·) else [] := by
  rw [RaceIn.active, range_64, List.filter_append, List.filter_map]
  congr 1
  · exact List.filter_congr fun l hl => x.on_low (List.mem_range.mp hl)
  · split
    · next h => exact congrArg _ (List.filter_congr fun l hl => by
        rw [Function.comp_apply, x.on_high (List.mem_range.mp hl), h, Bool.and_true])
    · next h =>
      rw [List.map_eq_nil_iff, List.filter_eq_nil_iff]
      intro l hl
      rw [Function.comp_apply, x.on_high (List.mem_range.mp hl), Bool.eq_false_iff.mpr h, Bool.and_false]
      exact Bool.false_ne_true

theorem RaceIn.anyPsn_eq (x : RaceIn) (a b : BitVec 32) : x.anyPsn a b = (a &&& x.mask != 0 || (x.two && b &&& x.mask != 0)) := by
  rw [RaceIn.anyPsn, range_64, List.any_append, List.any_map, and_bne_zero_eq_any, and_bne_zero_eq_any]
  congr 1
  · rw [Bool.eq_iff_iff, List.any_eq_true, List.any_eq_true]
    refine exists_congr fun l => and_congr_right fun hl => ?_
    rw [x.on_low (List.mem_range.mp hl), if_pos (List.mem_range.mp hl)]
  · rw [Bool.eq_iff_iff, Bool.and_eq_true, List.any_eq_true, List.any_eq_true, ← exists_and_left]
    refine exists_congr fun l => and_left_comm.trans (and_congr_right fun hl => ?_) |>.symm
    rw [Function.comp_apply, x.on_high (List.mem_range.mp hl), if_neg (by omega), Nat.add_sub_cancel_left, Bool.and_eq_true, Bool.and_eq_true,
      Bool.and_eq_true]
    tauto

/-- The model's positions of one key register, numbered from `j0` on. -/
theorem State.racePositions_eq {key : VReg} {idx : Nat → Lane} {j0 : Nat} (hkey : ∀ l, l < 32 → key.lane l = s.raceKey va vb (j0 + l))
    (hidx : ∀ l, l < 32 → idx l = s.raceIx ks vc (j0 + l)) :
    racePositions ks (s.m mk) key idx ((s.v vc).lane 1) j0
      = (activeLanes (s.m mk)).map (fun l => (s.raceIn ks va vb vc mk).pos (j0 + l)) := by
  refine List.map_congr_left fun l hl => ?_
  have hl32 : l < 32 := List.mem_range.mp (List.mem_filter.mp hl).1
  rw [hkey l hl32, hidx l hl32]
  cases ks <;> rfl

/-- The model's positions of a race, low and high, are the active ones. -/
theorem State.map_pos_active :
    racePositions ks (s.m mk) (s.v va) (if ks = .merge then (s.v vc).lane else fun l => (s.v vc).lane 0 + BitVec.ofNat 32 (0 + l)) ((s.v vc).lane 1) 0
      ++ (if va != vb then racePositions ks (s.m mk) (s.v vb)
        (if ks = .merge then (s.v (vc + 1)).lane else fun l => (s.v vc).lane 0 + BitVec.ofNat 32 (32 + l)) ((s.v vc).lane 1) 32 else [])
      = (s.raceIn ks va vb vc mk).active.map (s.raceIn ks va vb vc mk).pos := by
  have hgen (n : Nat) : (s.v vc).lane 0 + BitVec.ofNat 32 n = BitVec.ofNat 32 (((s.v vc).lane 0).toNat + n) := by
    rw [BitVec.ofNat_add, BitVec.ofNat_toNat, BitVec.setWidth_eq]
  rw [RaceIn.active_eq, List.map_append, State.racePositions_eq (va := va) (vb := vb), apply_ite (List.map _), List.map_map, List.map_nil,
    State.racePositions_eq (va := va) (vb := vb)]
  · simp only [Nat.zero_add]
    rfl
  · intro l hl
    rw [State.raceKey, if_neg (by omega), Nat.add_sub_cancel_left]
  · intro l hl
    rw [State.raceIx]
    by_cases hm : ks = .merge
    · rw [if_pos hm, if_pos hm, if_neg (by omega), Nat.add_sub_cancel_left]
    · rw [if_neg hm, if_neg hm, hgen]
  · intro l hl
    rw [State.raceKey, Nat.zero_add, if_pos hl]
  · intro l hl
    rw [State.raceIx, Nat.zero_add]
    by_cases hm : ks = .merge
    · rw [if_pos hm, if_pos hm, if_pos hl]
    · rw [if_neg hm, if_neg hm, hgen, Nat.zero_add]

/-- A race as it issues: its checks, then the landing slot for its block (R242, R243). -/
theorem raceWith_eq (desc : Bool) (vd : BitVec 6) (n : Nat) (land : BitVec 8) :
    raceWith ks desc vd va vb vc mk n land s = settle s (do
      s.checkCal
      s.checkPending
      s.takeSlot { s.newSlot .race vd.toNat land.toNat with
        regs := raceBlock (ks == .s32) ((s.raceIn ks va vb vc mk).anyPsn (s.v va).psn (s.v vb).psn || s.raceIdxPsn ks va vb vc mk)
          (raceRun desc n ((s.raceIn ks va vb vc mk).active.map (s.raceIn ks va vb vc mk).pos)) }) := by
  rw [← State.map_pos_active]
  cases ks <;> simp only [State.raceIdxPsn, RaceIn.anyPsn_eq] <;> rfl

end

/-! ### The checks of a race -/

section
variable (s : State) (ks : RaceKeys) (desc : Bool) (vd va vb vc : BitVec 6) (mk : BitVec 3) (n : Nat) (land : BitVec 8)

/-- An array out of service refuses a race (R215, R242). -/
theorem raceWith_traps (h : s.arrHere.segs = 0 ∨ s.arrHere.cal = 4) : Traps s 0x36 (raceWith ks desc vd va vb vc mk n land s) := by
  have hcal : (s.arrHere.calNow == 4) = true := by
    rw [Arr.calNow]
    split
    · rfl
    · next hsegs => rw [h.resolve_left hsegs]; rfl
  rw [raceWith_eq, State.checkCal, State.checkCalAs, trapIf_true hcal]
  exact traps_settle_bind s _ _ _ _

variable {s}

theorem State.checkCal_ok (hsegs : s.arrHere.segs ≠ 0) (hcal : s.arrHere.cal ≠ 4) : s.checkCal = .ok () := by
  rw [State.checkCal, State.checkCalAs, trapIf_false]
  rw [Arr.calNow, if_neg hsegs]
  exact beq_eq_false_iff_ne.mpr hcal

/-- Eight pending tiles and races block a race (R216, R242). -/
theorem raceWith_blocks (hsegs : s.arrHere.segs ≠ 0) (hcal : s.arrHere.cal ≠ 4) (hfull : 8 ≤ s.here.pendingArr) :
    Blocks s (raceWith ks desc vd va vb vc mk n land s) := by
  rw [raceWith_eq, State.checkCal_ok hsegs hcal, ok_bind, State.checkPending, blockUnless_false (by simpa using hfull)]
  exact blocks_settle s

/-- A race that nothing stops takes a landing slot for its block (R242, R243). -/
theorem raceWith_takesSlot (hsegs : s.arrHere.segs ≠ 0) (hcal : s.arrHere.cal ≠ 4) (hpend : s.here.pendingArr < 8) (hfree : s.SlotFree)
    {p : LSlot → Prop} (hp : ∀ y : LSlot, y.kind = .race → y.dest = vd.toNat → y.due = s.here.cyc + land.toNat →
      y.regs = raceBlock (ks == .s32) ((s.raceIn ks va vb vc mk).anyPsn (s.v va).psn (s.v vb).psn || s.raceIdxPsn ks va vb vc mk)
        (raceRun desc n ((s.raceIn ks va vb vc mk).active.map (s.raceIn ks va vb vc mk).pos)) → p y) :
    TakesSlot s p (raceWith ks desc vd va vb vc mk n land s) := by
  rw [raceWith_eq, State.checkCal_ok hsegs hcal, ok_bind, State.checkPending, blockUnless_true (by simpa using hpend), ok_bind]
  exact State.takeSlot_of_free hfree rfl rfl fun _ => hp _ rfl rfl rfl rfl

end

/-- Settles O44: the walk of R235 lists the distinct positions in race order, its first `kk` are selected, and the summary follows from
it; the checks of R242 come first. -/
theorem raceResults : Obligations.RaceResults := by
  intro s vd va vb vc mk kk land on act key gen listed kf ks km kn merged sum sameTop before block keyPsn listPsn base lands races nan
    no calOk
  have hblock (k : RaceKeys) (desc psn : Bool) (hkk : kk.toNat ≤ 64) : block desc (s.raceIn k va vb vc mk).rank (s.raceIx k vc)
      (raceFill (k == .s32)) (s.raceIn k va vb vc mk).empty
      (raceBlock (k == .s32) psn (raceRun desc kk.toNat ((s.raceIn k va vb vc mk).active.map (s.raceIn k va vb vc mk).pos))) := by
    let x := s.raceIn k va vb vc mk
    obtain ⟨v0, v1, v2, v3, v4, hregs, h⟩ := raceRegs_raceBlock (k == .s32) psn (raceRun desc kk.toNat (x.active.map x.pos))
    have hsum (int : Bool) (l : List Nat) : sum (raceFill int) l = x.sum int l := by cases int <;> rfl
    have hpsn (v : VReg) (hv : v ∈ [v0, v1, v2, v3, v4]) : v.psn = v0.psn := (h.poison v hv).trans (h.poison v0 List.mem_cons_self).symm
    refine ⟨v0, v1, v2, v3, v4, x.atRank desc, sortBy x.byIndex ((x.dist desc).drop kk.toNat), hregs, ?_⟩
    rw [h.count hkk]
    refine ⟨min_le_left _ _, ?inRaceOrder, fun p hp hk => RaceIn.selected_or_beaten hp hk, fun i hi => h.listed hi, ?summary,
      hpsn v1 (by simp), hpsn v2 (by simp), hpsn v3 (by simp), hpsn v4 (by simp),
      h.side v0 (by simp), h.side v1 (by simp), h.side v2 (by simp), h.side v3 (by simp), h.side v4 (by simp)⟩
    case inRaceOrder =>
      intro i hi
      have hlisted : i < (x.dist desc).length := lt_of_lt_of_le hi (min_le_right _ _)
      exact ⟨(RaceIn.atRank_valid hlisted).1, (RaceIn.atRank_valid hlisted).2, fun j hj => RaceIn.atRank_before hlisted hj⟩
    case summary =>
      refine ⟨fun p => RaceIn.mem_rest, RaceIn.ascending (x := x) (List.drop_sublist _ (x.dist desc)), ?selected,
        h.sum_rest.trans (hsum _ _).symm, h.nans, h.duplicates, ?distinct, ?ties, h.windows.1, h.windows.2.1, h.windows.2.2,
        fun l hl hl' => h.past_summary hl hl'⟩
      case selected =>
        exact ⟨sortBy x.byIndex ((x.dist desc).take kk.toNat), fun p => (sortBy_perm _ _).mem_iff.trans RaceIn.mem_take_dist,
          RaceIn.ascending (x := x) (List.take_sublist _ (x.dist desc)), h.sum_selected.trans (hsum _ _).symm⟩
      case distinct =>
        rw [h.distinct, (sortBy_perm _ _).length_eq, List.length_drop, RaceIn.count]
        omega
      case ties =>
        rw [h.ties, (sortBy_perm _ _).countP_eq]
        rfl
  have hland (k : RaceKeys) (desc : Bool) (hcal : calOk) (hpend : s.here.pendingArr < 8) (hfree : s.SlotFree) (hkk : kk.toNat ≤ 64) :
      lands desc (s.raceIn k va vb vc mk).rank (s.raceIx k vc) (raceFill (k == .s32)) (s.raceIn k va vb vc mk).empty
        (s.raceIdxPsn k va vb vc mk) (raceWith k desc vd va vb vc mk kk.toNat land s) := by
    refine raceWith_takesSlot k desc vd va vb vc mk kk.toNat land hcal.1 hcal.2 hpend hfree fun y hkind hdest hdue hregs => ?_
    exact ⟨hkind, hdest, hdue, hregs ▸ hblock k desc _ hkk, fun v hv => psn_of_mem_raceBlock (hregs ▸ hv)⟩
  have hmerge : (s.raceIn .merge va vb vc mk).rank = km := by
    funext j
    show (if (listed j == 0xFFFFFFFF#32) = true then none else raceKeyF32 (key j)) = if listed j = 0xFFFFFFFF#32 then none else raceKeyF32 (key j)
    simp only [beq_iff_eq]
  simp only [exec_rminF32, exec_rmaxF32, exec_rminS32, exec_rmaxS32, exec_rsortF32, exec_rsortdF32, exec_rsortS32, exec_rtopkF32,
    exec_rbotkF32, exec_rtopkS32, exec_rmergeF32, exec_rmergdF32, exec_rknnF32] at races ⊢
  refine ⟨fun hcal hpend hfree _ hkk => ?_, fun o ho => ?_⟩
  · have hland' (k : RaceKeys) (desc : Bool) := hland k desc hcal hpend hfree hkk
    exact ⟨hland' .f32 false, hland' .f32 true, hland' .s32 false, hland' .s32 true, hland' .f32 false, hland' .f32 true, hland' .s32 false,
      hland' .f32 true, hland' .f32 false, hland' .s32 true, hmerge ▸ hland' .merge false, hmerge ▸ hland' .merge true, hland' .knn false⟩
  · obtain ⟨k, desc, rfl⟩ : ∃ k desc, o = raceWith k desc vd va vb vc mk kk.toNat land s := by
      simp only [races, List.mem_cons, List.not_mem_nil, or_false] at ho
      rcases ho with rfl | rfl | rfl | rfl | rfl | rfl | rfl | rfl | rfl | rfl | rfl | rfl | rfl <;> exact ⟨_, _, rfl⟩
    exact ⟨fun h => raceWith_traps s k desc vd va vb vc mk kk.toNat land (.inl h),
      fun h => raceWith_traps s k desc vd va vb vc mk kk.toNat land (.inr h),
      fun hcal hfull => raceWith_blocks k desc vd va vb vc mk kk.toNat land hcal.1 hcal.2 hfull⟩

end Sys2Proof.Machine
end

section
/-! SUPPORT. The encoding: the round trip of every word, and words written out (R58-R62, R68). -/

namespace Sys2Proof.Machine

open Laws

/-- Every constructor's words decode to it: an instruction by its row of the opcode map, a step of the module because it has no word. -/
theorem roundTrip (i : Instr) : RoundTrip.Statement i := by
  cases i with
  | nop => exact RoundTrip.nop
  | br cnd a b disp => exact RoundTrip.br cnd a b disp
  | jmp disp => exact RoundTrip.jmp disp
  | jmpi a imm => exact RoundTrip.jmpi a imm
  | call disp => exact RoundTrip.call disp
  | calli a imm => exact RoundTrip.calli a imm
  | ret => exact RoundTrip.ret
  | loopLc lc disp => exact RoundTrip.loopLc lc disp
  | loopNest disp => exact RoundTrip.loopNest disp
  | lset lc a imm => exact RoundTrip.lset lc a imm
  | rep n sd s1 s2 s3 soff => exact RoundTrip.rep n sd s1 s2 s3 soff
  | lnest cb x sc off => exact RoundTrip.lnest cb x sc off
  | brq disp n => exact RoundTrip.brq disp n
  | pushbq cnd a b => exact RoundTrip.pushbq cnd a b
  | defer va mk cnt tag => exact RoundTrip.defer va mk cnt tag
  | drain a vb disp tag => exact RoundTrip.drain a vb disp tag
  | post k => exact RoundTrip.post k
  | await k => exact RoundTrip.await k
  | kget d k => exact RoundTrip.kget d k
  | trap a imm => exact RoundTrip.trap a imm
  | brk imm => exact RoundTrip.brk imm
  | csrr d csr => exact RoundTrip.csrr d csr
  | csrw a csr => exact RoundTrip.csrw a csr
  | fenceCore => exact RoundTrip.fenceCore
  | fenceIsle => exact RoundTrip.fenceIsle
  | fenceMod => exact RoundTrip.fenceMod
  | fenceSys => exact RoundTrip.fenceSys
  | doneOp => exact RoundTrip.doneOp
  | dbar lv => exact RoundTrip.dbar lv
  | dbarA d lv => exact RoundTrip.dbarA d lv
  | dbarW a lv => exact RoundTrip.dbarW a lv
  | awaitMem d cb x sc off => exact RoundTrip.awaitMem d cb x sc off
  | add d a b => exact RoundTrip.add d a b
  | sub d a b => exact RoundTrip.sub d a b
  | addi d a imm => exact RoundTrip.addi d a imm
  | li d imm => exact RoundTrip.li d imm
  | mov d a => exact RoundTrip.mov d a
  | mul d a b => exact RoundTrip.mul d a b
  | mulhS d a b => exact RoundTrip.mulhS d a b
  | mulhZ d a b => exact RoundTrip.mulhZ d a b
  | mad d a b c => exact RoundTrip.mad d a b c
  | divS d a b => exact RoundTrip.divS d a b
  | divZ d a b => exact RoundTrip.divZ d a b
  | remS d a b => exact RoundTrip.remS d a b
  | remZ d a b => exact RoundTrip.remZ d a b
  | and d a b => exact RoundTrip.and d a b
  | or d a b => exact RoundTrip.or d a b
  | xor d a b => exact RoundTrip.xor d a b
  | andn d a b => exact RoundTrip.andn d a b
  | shl d a b => exact RoundTrip.shl d a b
  | shrZ d a b => exact RoundTrip.shrZ d a b
  | shrS d a b => exact RoundTrip.shrS d a b
  | rotl d a b => exact RoundTrip.rotl d a b
  | clz d a => exact RoundTrip.clz d a
  | ctz d a => exact RoundTrip.ctz d a
  | popc d a => exact RoundTrip.popc d a
  | minS d a b => exact RoundTrip.minS d a b
  | minZ d a b => exact RoundTrip.minZ d a b
  | maxS d a b => exact RoundTrip.maxS d a b
  | maxZ d a b => exact RoundTrip.maxZ d a b
  | sel d a b c => exact RoundTrip.sel d a b c
  | cmp cnd d a b => exact RoundTrip.cmp cnd d a b
  | cmpi cnd d a imm => exact RoundTrip.cmpi cnd d a imm
  | pmix d a b t => exact RoundTrip.pmix d a b t
  | extS8 d a => exact RoundTrip.extS8 d a
  | extS16 d a => exact RoundTrip.extS16 d a
  | extS32 d a => exact RoundTrip.extS32 d a
  | extZ8 d a => exact RoundTrip.extZ8 d a
  | extZ16 d a => exact RoundTrip.extZ16 d a
  | extZ32 d a => exact RoundTrip.extZ32 d a
  | addsS64 d a b => exact RoundTrip.addsS64 d a b
  | bfx d a pos len sx => exact RoundTrip.bfx d a pos len sx
  | bfi d a pos len => exact RoundTrip.bfi d a pos len
  | rnd d a b c w => exact RoundTrip.rnd d a b c w
  | cmov d a => exact RoundTrip.cmov d a
  | cinc d a b => exact RoundTrip.cinc d a b
  | cinci d a imm => exact RoundTrip.cinci d a imm
  | cbound d a b => exact RoundTrip.cbound d a b
  | cperm d a mask => exact RoundTrip.cperm d a mask
  | cgetb d a => exact RoundTrip.cgetb d a
  | cgetl d a => exact RoundTrip.cgetl d a
  | cgeto d a => exact RoundTrip.cgeto d a
  | cgetp d a => exact RoundTrip.cgetp d a
  | ctest d a => exact RoundTrip.ctest d a
  | cle d a b => exact RoundTrip.cle d a b
  | cclr d => exact RoundTrip.cclr d
  | caddr d a b => exact RoundTrip.caddr d a b
  | cld d cb x sc off => exact RoundTrip.cld d cb x sc off
  | cst d cb x sc off => exact RoundTrip.cst d cb x sc off
  | cfoot d k => exact RoundTrip.cfoot d k
  | ldS8 d cb x sc off => exact RoundTrip.ldS8 d cb x sc off
  | ldZ8 d cb x sc off => exact RoundTrip.ldZ8 d cb x sc off
  | ldS16 d cb x sc off => exact RoundTrip.ldS16 d cb x sc off
  | ldZ16 d cb x sc off => exact RoundTrip.ldZ16 d cb x sc off
  | ldS32 d cb x sc off => exact RoundTrip.ldS32 d cb x sc off
  | ldZ32 d cb x sc off => exact RoundTrip.ldZ32 d cb x sc off
  | ld64 d cb x sc off => exact RoundTrip.ld64 d cb x sc off
  | st8 d cb x sc off => exact RoundTrip.st8 d cb x sc off
  | st16 d cb x sc off => exact RoundTrip.st16 d cb x sc off
  | st32 d cb x sc off => exact RoundTrip.st32 d cb x sc off
  | st64 d cb x sc off => exact RoundTrip.st64 d cb x sc off
  | vld d cb x sc off => exact RoundTrip.vld d cb x sc off
  | vst d cb x sc off => exact RoundTrip.vst d cb x sc off
  | vldBc d cb x sc off => exact RoundTrip.vldBc d cb x sc off
  | vgath d cb x sc off => exact RoundTrip.vgath d cb x sc off
  | vscat d cb x sc off => exact RoundTrip.vscat d cb x sc off
  | ldfeW d cb x sc off => exact RoundTrip.ldfeW d cb x sc off
  | ldfeC d cb x sc off => exact RoundTrip.ldfeC d cb x sc off
  | vldfeW d cb x sc off => exact RoundTrip.vldfeW d cb x sc off
  | vldfeC d cb x sc off => exact RoundTrip.vldfeC d cb x sc off
  | fset d cb x sc off => exact RoundTrip.fset d cb x sc off
  | fclr d cb x sc off => exact RoundTrip.fclr d cb x sc off
  | ftest d cb x sc off => exact RoundTrip.ftest d cb x sc off
  | ldn d cb x sc off land => exact RoundTrip.ldn d cb x sc off land
  | vldn d cb x sc off land => exact RoundTrip.vldn d cb x sc off land
  | xget cd ob cs oa len ch tb => exact RoundTrip.xget cd ob cs oa len ch tb
  | xput cd ob cs oa len ch tb vs => exact RoundTrip.xput cd ob cs oa len ch tb vs
  | xmove cd ob cs oa len ch tb vs => exact RoundTrip.xmove cd ob cs oa len ch tb vs
  | xgat cd ob cs oa len v w ch tb => exact RoundTrip.xgat cd ob cs oa len v w ch tb
  | xsct cd ob cs oa len v w ch tb vs => exact RoundTrip.xsct cd ob cs oa len v w ch tb vs
  | xget2d cd ob w cs oa v len ch tb rows => exact RoundTrip.xget2d cd ob w cs oa v len ch tb rows
  | xput2d cd ob w cs oa v len ch tb rows vs => exact RoundTrip.xput2d cd ob w cs oa v len ch tb rows vs
  | xfill cd ob v len ch tb vs => exact RoundTrip.xfill cd ob v len ch tb vs
  | xaccAddS32 cd ob cs oa len ch => exact RoundTrip.xaccAddS32 cd ob cs oa len ch
  | xaccAddS64 cd ob cs oa len ch => exact RoundTrip.xaccAddS64 cd ob cs oa len ch
  | xaccAddF32 cd ob cs oa len ch rt => exact RoundTrip.xaccAddF32 cd ob cs oa len ch rt
  | xaccMinS32 cd ob cs oa len ch => exact RoundTrip.xaccMinS32 cd ob cs oa len ch
  | xaccMaxS32 cd ob cs oa len ch => exact RoundTrip.xaccMaxS32 cd ob cs oa len ch
  | xaccMinF32 cd ob cs oa len ch => exact RoundTrip.xaccMinF32 cd ob cs oa len ch
  | xaccMaxF32 cd ob cs oa len ch => exact RoundTrip.xaccMaxF32 cd ob cs oa len ch
  | xaccAnd cd ob cs oa len ch => exact RoundTrip.xaccAnd cd ob cs oa len ch
  | xaccOr cd ob cs oa len ch => exact RoundTrip.xaccOr cd ob cs oa len ch
  | xaccXor cd ob cs oa len ch => exact RoundTrip.xaccXor cd ob cs oa len ch
  | xfaddS32 cd ob v cl ol ch tb rt => exact RoundTrip.xfaddS32 cd ob v cl ol ch tb rt
  | xfaddS64 cd ob v cl ol ch tb rt => exact RoundTrip.xfaddS64 cd ob v cl ol ch tb rt
  | xswp cd ob v cl ol ch tb rt => exact RoundTrip.xswp cd ob v cl ol ch tb rt
  | xcas cd ob v w cl ol ch tb rt => exact RoundTrip.xcas cd ob v w cl ol ch tb rt
  | xcasGo cd ob v w cl ol ch tb task rt => exact RoundTrip.xcasGo cd ob v w cl ol ch tb task rt
  | xclose ch rt => exact RoundTrip.xclose ch rt
  | xwaitIn v ch => exact RoundTrip.xwaitIn v ch
  | xwaitRel v ch => exact RoundTrip.xwaitRel v ch
  | xwaitVis v ch => exact RoundTrip.xwaitVis v ch
  | xid v ch aux => exact RoundTrip.xid v ch aux
  | xorder => exact RoundTrip.xorder
  | vaddF32 vd va vb mk => exact RoundTrip.vaddF32 vd va vb mk
  | vsubF32 vd va vb mk => exact RoundTrip.vsubF32 vd va vb mk
  | vmulF32 vd va vb mk => exact RoundTrip.vmulF32 vd va vb mk
  | vfmaF32 vd va vb vc mk => exact RoundTrip.vfmaF32 vd va vb vc mk
  | vfmsF32 vd va vb vc mk => exact RoundTrip.vfmsF32 vd va vb vc mk
  | vfnmaF32 vd va vb vc mk => exact RoundTrip.vfnmaF32 vd va vb vc mk
  | vminF32 vd va vb mk => exact RoundTrip.vminF32 vd va vb mk
  | vmaxF32 vd va vb mk => exact RoundTrip.vmaxF32 vd va vb mk
  | vabsF32 vd va mk => exact RoundTrip.vabsF32 vd va mk
  | vnegF32 vd va mk => exact RoundTrip.vnegF32 vd va mk
  | vdivF32 vd va vb mk => exact RoundTrip.vdivF32 vd va vb mk
  | vsqrtF32 vd va mk => exact RoundTrip.vsqrtF32 vd va mk
  | vrcpF32 vd va mk => exact RoundTrip.vrcpF32 vd va mk
  | vrsqrtF32 vd va mk => exact RoundTrip.vrsqrtF32 vd va mk
  | vexp2F32 vd va mk => exact RoundTrip.vexp2F32 vd va mk
  | vlog2F32 vd va mk => exact RoundTrip.vlog2F32 vd va mk
  | vsinpiF32 vd va mk => exact RoundTrip.vsinpiF32 vd va mk
  | vcospiF32 vd va mk => exact RoundTrip.vcospiF32 vd va mk
  | vtanhF32 vd va mk => exact RoundTrip.vtanhF32 vd va mk
  | vrrpi vd va mk => exact RoundTrip.vrrpi vd va mk
  | vfloorF32 vd va mk => exact RoundTrip.vfloorF32 vd va mk
  | vrintF32 vd va mk => exact RoundTrip.vrintF32 vd va mk
  | vcmpF32 cc md va vb mk => exact RoundTrip.vcmpF32 cc md va vb mk
  | vclassF32 vd va mk => exact RoundTrip.vclassF32 vd va mk
  | vaddBf16 vd va vb mk => exact RoundTrip.vaddBf16 vd va vb mk
  | vmulBf16 vd va vb mk => exact RoundTrip.vmulBf16 vd va vb mk
  | vfmaBf16 vd va vb vc mk => exact RoundTrip.vfmaBf16 vd va vb vc mk
  | vaddS32 vd va vb mk => exact RoundTrip.vaddS32 vd va vb mk
  | vsubS32 vd va vb mk => exact RoundTrip.vsubS32 vd va vb mk
  | vmulS32 vd va vb mk => exact RoundTrip.vmulS32 vd va vb mk
  | vmadS16 vd va vb vc mk => exact RoundTrip.vmadS16 vd va vb vc mk
  | vaddsS32 vd va vb mk => exact RoundTrip.vaddsS32 vd va vb mk
  | vsubsS32 vd va vb mk => exact RoundTrip.vsubsS32 vd va vb mk
  | vminS32 vd va vb mk => exact RoundTrip.vminS32 vd va vb mk
  | vmaxS32 vd va vb mk => exact RoundTrip.vmaxS32 vd va vb mk
  | vminZ32 vd va vb mk => exact RoundTrip.vminZ32 vd va vb mk
  | vmaxZ32 vd va vb mk => exact RoundTrip.vmaxZ32 vd va vb mk
  | vand vd va vb mk => exact RoundTrip.vand vd va vb mk
  | vor vd va vb mk => exact RoundTrip.vor vd va vb mk
  | vxor vd va vb mk => exact RoundTrip.vxor vd va vb mk
  | vshl vd va vb mk => exact RoundTrip.vshl vd va vb mk
  | vshlImm vd va n mk => exact RoundTrip.vshlImm vd va n mk
  | vshrZ vd va vb mk => exact RoundTrip.vshrZ vd va vb mk
  | vshrZImm vd va n mk => exact RoundTrip.vshrZImm vd va n mk
  | vshrS vd va vb mk => exact RoundTrip.vshrS vd va vb mk
  | vshrSImm vd va n mk => exact RoundTrip.vshrSImm vd va n mk
  | vcmpS32 cc md va vb mk => exact RoundTrip.vcmpS32 cc md va vb mk
  | vcmpZ32 cc md va vb mk => exact RoundTrip.vcmpZ32 cc md va vb mk
  | vsel vd va vb mk => exact RoundTrip.vsel vd va vb mk
  | vmask md ma mb t => exact RoundTrip.vmask md ma mb t
  | vcvtF32S32 vd va mk => exact RoundTrip.vcvtF32S32 vd va mk
  | vcvtS32F32Rne vd va mk => exact RoundTrip.vcvtS32F32Rne vd va mk
  | vcvtS32F32Rz vd va mk => exact RoundTrip.vcvtS32F32Rz vd va mk
  | vcvtBf16F32 vd va vb => exact RoundTrip.vcvtBf16F32 vd va vb
  | vcvtF32Bf16 vd va h mk => exact RoundTrip.vcvtF32Bf16 vd va h mk
  | vcvtE4m3F32 vd va q => exact RoundTrip.vcvtE4m3F32 vd va q
  | vcvtE4m3F32Nv vd va q => exact RoundTrip.vcvtE4m3F32Nv vd va q
  | vcvtE5m2F32 vd va q => exact RoundTrip.vcvtE5m2F32 vd va q
  | vcvtF32E4m3 vd va q mk => exact RoundTrip.vcvtF32E4m3 vd va q mk
  | vcvtF32E5m2 vd va q mk => exact RoundTrip.vcvtF32E5m2 vd va q mk
  | vqmx4 vd vb va s => exact RoundTrip.vqmx4 vd vb va s
  | vqmx8 vd vb va q => exact RoundTrip.vqmx8 vd vb va q
  | vdqmx4 vd va vb s mk => exact RoundTrip.vdqmx4 vd va vb s mk
  | vxpS4 vd va s mk => exact RoundTrip.vxpS4 vd va s mk
  | vxpOcp4 vd va s q => exact RoundTrip.vxpOcp4 vd va s q
  | vcvtBfpF32 vd va => exact RoundTrip.vcvtBfpF32 vd va
  | vcvtF32Bfp vd va mk => exact RoundTrip.vcvtF32Bfp vd va mk
  | vperm vd va vb mk => exact RoundTrip.vperm vd va vb mk
  | vswpPair vd va f mk => exact RoundTrip.vswpPair vd va f mk
  | vrot vd va n mk => exact RoundTrip.vrot vd va n mk
  | vbc vd va n mk => exact RoundTrip.vbc vd va n mk
  | vext d va n => exact RoundTrip.vext d va n
  | vextMask d ma => exact RoundTrip.vextMask d ma
  | vins vd a n => exact RoundTrip.vins vd a n
  | vinsMask md a => exact RoundTrip.vinsMask md a
  | vli vd imm => exact RoundTrip.vli vd imm
  | vmov vd va mk => exact RoundTrip.vmov vd va mk
  | vredAddF32 vd va mk => exact RoundTrip.vredAddF32 vd va mk
  | vredMaxF32 vd va mk => exact RoundTrip.vredMaxF32 vd va mk
  | vredAddS32 vd va mk => exact RoundTrip.vredAddS32 vd va mk
  | vscanAddS32 vd va mk => exact RoundTrip.vscanAddS32 vd va mk
  | vpackS16 vd va vb => exact RoundTrip.vpackS16 vd va vb
  | vunpkS16 vd va h mk => exact RoundTrip.vunpkS16 vd va h mk
  | vcntM d ma => exact RoundTrip.vcntM d ma
  | vcomp vd va mk => exact RoundTrip.vcomp vd va mk
  | vexpd vd va mk => exact RoundTrip.vexpd vd va mk
  | lease n => exact RoundTrip.lease n
  | unlease => exact RoundTrip.unlease
  | tload ab prof rows => exact RoundTrip.tload ab prof rows
  | tmma slot aa ab prof rows land cops => exact RoundTrip.tmma slot aa ab prof rows land cops
  | tmmaGa slot aa ab prof rows land cops => exact RoundTrip.tmmaGa slot aa ab prof rows land cops
  | tzero slot rows => exact RoundTrip.tzero slot rows
  | taccRd vd c clr mk => exact RoundTrip.taccRd vd c clr mk
  | taccWr va c mk => exact RoundTrip.taccWr va c mk
  | tshape d a prof => exact RoundTrip.tshape d a prof
  | ftset d a => exact RoundTrip.ftset d a
  | ftget d a => exact RoundTrip.ftget d a
  | tcal d segs => exact RoundTrip.tcal d segs
  | rminF32 vd va vb vc mk k land => exact RoundTrip.rminF32 vd va vb vc mk k land
  | rmaxF32 vd va vb vc mk k land => exact RoundTrip.rmaxF32 vd va vb vc mk k land
  | rminS32 vd va vb vc mk k land => exact RoundTrip.rminS32 vd va vb vc mk k land
  | rmaxS32 vd va vb vc mk k land => exact RoundTrip.rmaxS32 vd va vb vc mk k land
  | rsortF32 vd va vb vc mk k land => exact RoundTrip.rsortF32 vd va vb vc mk k land
  | rsortdF32 vd va vb vc mk k land => exact RoundTrip.rsortdF32 vd va vb vc mk k land
  | rsortS32 vd va vb vc mk k land => exact RoundTrip.rsortS32 vd va vb vc mk k land
  | rtopkF32 vd va vb vc mk k land => exact RoundTrip.rtopkF32 vd va vb vc mk k land
  | rbotkF32 vd va vb vc mk k land => exact RoundTrip.rbotkF32 vd va vb vc mk k land
  | rtopkS32 vd va vb vc mk k land => exact RoundTrip.rtopkS32 vd va vb vc mk k land
  | rmergeF32 vd va vb vc mk k land => exact RoundTrip.rmergeF32 vd va vb vc mk k land
  | rmergdF32 vd va vb vc mk k land => exact RoundTrip.rmergdF32 vd va vb vc mk k land
  | rknnF32 vd va vb vc mk k land => exact RoundTrip.rknnF32 vd va vb vc mk k land
  | tbinit a n nl nc ns => exact RoundTrip.tbinit a n nl nc ns
  | tbexpect a n => exact RoundTrip.tbexpect a n
  | tbarrive d a n p => exact RoundTrip.tbarrive d a n p
  | tbwait a n => exact RoundTrip.tbwait a n
  | tbtest d a n => exact RoundTrip.tbtest d a n
  | tbretire n => exact RoundTrip.tbretire n
  | sopen q r => exact RoundTrip.sopen q r
  | sput d q a => exact RoundTrip.sput d q a
  | sget d q a => exact RoundTrip.sget d q a
  | sclose q s => exact RoundTrip.sclose q s
  | sstat d q => exact RoundTrip.sstat d q
  | qput a q => exact RoundTrip.qput a q
  | qget d q w k => exact RoundTrip.qget d q w k
  | qputv va q => exact RoundTrip.qputv va q
  | qgetv vd q k => exact RoundTrip.qgetv vd q k
  | sectionEntry co e => exact RoundTrip.sectionEntry co e
  | taskStart co => exact RoundTrip.taskStart co
  | taskRetirement co => exact RoundTrip.taskRetirement co
  | landDue co slot => exact RoundTrip.landDue co slot
  | freezeEnd co => exact RoundTrip.freezeEnd co
  | copyCommandStart co q => exact RoundTrip.copyCommandStart co q
  | copyProgress co n => exact RoundTrip.copyProgress co n
  | copyVisible co n => exact RoundTrip.copyVisible co n
  | xorderHead co q => exact RoundTrip.xorderHead co q
  | xorderLeave co q => exact RoundTrip.xorderLeave co q
  | pageWalkComplete isle n => exact RoundTrip.pageWalkComplete isle n
  | ituinvVa isle ctx va => exact RoundTrip.ituinvVa isle ctx va
  | ituinvContext isle ctx => exact RoundTrip.ituinvContext isle ctx
  | ituinvAll isle => exact RoundTrip.ituinvAll isle
  | ituinvComplete isle => exact RoundTrip.ituinvComplete isle
  | leaseGrant isle ins => exact RoundTrip.leaseGrant isle ins
  | tileReady co slot rejects => exact RoundTrip.tileReady co slot rejects
  | raceReady co slot rejects => exact RoundTrip.raceReady co slot rejects
  | calibrationMark isle ins => exact RoundTrip.calibrationMark isle ins
  | sliceRequest site slice n ecc => exact RoundTrip.sliceRequest site slice n ecc
  | scrubLine site slice ecc => exact RoundTrip.scrubLine site slice ecc
  | rowTrackLeak site slice => exact RoundTrip.rowTrackLeak site slice
  | rowSpareStart site slice bank row => exact RoundTrip.rowSpareStart site slice bank row
  | spareLineCopy site slice => exact RoundTrip.spareLineCopy site slice
  | atomicApply co n => exact RoundTrip.atomicApply co n
  | roundRequestAccept co n => exact RoundTrip.roundRequestAccept co n
  | roundCloseNotice site slice lid p => exact RoundTrip.roundCloseNotice site slice lid p
  | roundApply site slice lid wave tag => exact RoundTrip.roundApply site slice lid wave tag
  | atomicLanding co n => exact RoundTrip.atomicLanding co n
  | monitorRequest co e => exact RoundTrip.monitorRequest co e
  | monitorTimeout co e => exact RoundTrip.monitorTimeout co e
  | sputPublish site ring => exact RoundTrip.sputPublish site ring
  | sgetCopyComplete site ring => exact RoundTrip.sgetCopyComplete site ring
  | entryRelease lid ent => exact RoundTrip.entryRelease lid ent
  | frameScheduledEnd lid => exact RoundTrip.frameScheduledEnd lid
  | slipLimit lid => exact RoundTrip.slipLimit lid
  | frameComplete lid elastic => exact RoundTrip.frameComplete lid elastic
  | frameStart lid => exact RoundTrip.frameStart lid
  | launchAbort lid => exact RoundTrip.launchAbort lid
  | trapRecordService isle => exact RoundTrip.trapRecordService isle
  | cctlResume co => exact RoundTrip.cctlResume co
  | lctlAbort lid => exact RoundTrip.lctlAbort lid
  | machineFault place => exact RoundTrip.machineFault place
  | temperatureSample isle ins temp => exact RoundTrip.temperatureSample isle ins temp
  | thermalGapStep isle ins => exact RoundTrip.thermalGapStep isle ins
  | dbnotify q n => exact RoundTrip.dbnotify q n
  | queueMap q => exact RoundTrip.queueMap q
  | queueUnmap q => exact RoundTrip.queueUnmap q
  | qcmdMap quay q => exact RoundTrip.qcmdMap quay q
  | qcmdUnmap quay q => exact RoundTrip.qcmdUnmap quay q
  | qcmdClearFault quay q => exact RoundTrip.qcmdClearFault quay q
  | attnService quay => exact RoundTrip.attnService quay
  | packetFetch q => exact RoundTrip.packetFetch q
  | launch q => exact RoundTrip.launch q
  | callPacket q => exact RoundTrip.callPacket q
  | returnPacket q => exact RoundTrip.returnPacket q
  | join q => exact RoundTrip.join q
  | copy q => exact RoundTrip.copy q
  | signal q => exact RoundTrip.signal q
  | waitvalue q => exact RoundTrip.waitvalue q
  | waitvaluePoll q => exact RoundTrip.waitvaluePoll q
  | waitvalueTimeout q => exact RoundTrip.waitvalueTimeout q
  | preempt q => exact RoundTrip.preempt q
  | refine q => exact RoundTrip.refine q
  | refineRunEnd q => exact RoundTrip.refineRunEnd q
  | harbourRestart => exact RoundTrip.harbourRestart
  | flitReceive port bytes crc => exact RoundTrip.flitReceive port bytes crc
  | flitReplay port => exact RoundTrip.flitReplay port
  | portDown port cause => exact RoundTrip.portDown port cause
  | portUp port => exact RoundTrip.portUp port
  | rtgenFlip table gen => exact RoundTrip.rtgenFlip table gen
  | ringdescWrite site ring v => exact RoundTrip.ringdescWrite site ring v
  | registerWrite addr bytes => exact RoundTrip.registerWrite addr bytes
  | tick => exact RoundTrip.tick
  | powerGood => exact RoundTrip.powerGood
  | bootStageComplete => exact RoundTrip.bootStageComplete
  | recoveryImage base => exact RoundTrip.recoveryImage base
  | unitTrainingComplete u => exact RoundTrip.unitTrainingComplete u
  | attestationRequest nonce => exact RoundTrip.attestationRequest nonce
  | islePowerGate isle => exact RoundTrip.islePowerGate isle
  | isleWake isle => exact RoundTrip.isleWake isle
  | calibrationComplete isle ins periods trims => exact RoundTrip.calibrationComplete isle ins periods trims
  | perBankRefresh site slice bank rfm => exact RoundTrip.perBankRefresh site slice bank rfm

/-- Settles O3, by the round trip of each constructor of the instruction type. -/
theorem decodeGivesBackEncode : Obligations.DecodeGivesBackEncode :=
  fun i stop gn gp w hwf henc => roundTrip i stop gn gp w hwf henc

/-- Settles O2: the kernel evaluates the decoder on each of the six words. -/
theorem decodeWords : Obligations.DecodeWords := by
  unfold Obligations.DecodeWords
  decide +kernel

end Sys2Proof.Machine
end

section
/-! SUPPORT. The conditions of R62 as orders of numbers; fields of a word; the scalar selections (R62, R185, R188-R190). -/

namespace Sys2Proof.Machine

/-! ### Conditions -/

/-- The six conditions of R62 in the orders of signed and unsigned numbers. -/
theorem condHolds_iff {cnd : BitVec 4} (h : cnd.toNat < 6) (a b : Word) : condHolds cnd a b = true ↔
    (cnd = 0 ∧ a = b) ∨ (cnd = 1 ∧ a ≠ b) ∨ (cnd = 2 ∧ a.toInt < b.toInt) ∨ (cnd = 3 ∧ b.toInt ≤ a.toInt)
      ∨ (cnd = 4 ∧ a.toNat < b.toNat) ∨ (cnd = 5 ∧ b.toNat ≤ a.toNat) := by
  have hcnd : cnd = 0 ∨ cnd = 1 ∨ cnd = 2 ∨ cnd = 3 ∨ cnd = 4 ∨ cnd = 5 := by bv_omega
  rcases hcnd with rfl | rfl | rfl | rfl | rfl | rfl <;> simp [condHolds, BitVec.slt, BitVec.ult]

/-- The same with equality of the words as equality of their numbers. -/
theorem condHolds_iff_toNat {cnd : BitVec 4} (h : cnd.toNat < 6) (a b : Word) : condHolds cnd a b = true ↔
    (cnd = 0 ∧ a.toNat = b.toNat) ∨ (cnd = 1 ∧ a.toNat ≠ b.toNat) ∨ (cnd = 2 ∧ a.toInt < b.toInt) ∨ (cnd = 3 ∧ b.toInt ≤ a.toInt)
      ∨ (cnd = 4 ∧ a.toNat < b.toNat) ∨ (cnd = 5 ∧ b.toNat ≤ a.toNat) := by
  rw [condHolds_iff h, ne_eq, ne_eq, BitVec.toNat_inj]

theorem toNat_signExtend_imm (imm : BitVec 60) : (imm.signExtend 64).toNat = (imm.toInt % 2 ^ 64).toNat := by
  rw [BitVec.signExtend, BitVec.toNat_ofInt]
  rfl

/-! ### Fields of a word -/

theorem fieldOf_lt (x : Word) (pos len : Nat) : fieldOf x pos len < 2 ^ len := Nat.mod_lt _ (Nat.two_pow_pos len)

/-- A number below 2^n read as signed: what its top bit takes off (R189). -/
theorem bmod_two_pow {f n : Nat} (hn : 1 ≤ n) (hf : f < 2 ^ n) :
    (f : Int).bmod (2 ^ n) = if 2 * f ≥ 2 ^ n then (f : Int) - 2 ^ n else f := by
  obtain ⟨n, rfl⟩ : ∃ k, n = k + 1 := ⟨n - 1, by omega⟩
  rw [Int.bmod, Int.emod_eq_of_lt (by omega) (by exact_mod_cast hf)]
  have hpow : 2 ^ (n + 1) = 2 * 2 ^ n := Nat.pow_succ'
  push_cast
  have hcast : ((2 : Int) ^ n) = ((2 ^ n : Nat) : Int) := by push_cast; rfl
  rw [pow_succ, hcast]
  split <;> split <;> omega

/-- A word is what lies below a field, the field, and what lies above it. -/
theorem fieldOf_split (y : Word) (pos len : Nat) :
    y.toNat = y.toNat % 2 ^ pos + fieldOf y pos len * 2 ^ pos + y.toNat / 2 ^ (pos + len) * 2 ^ (pos + len) := by
  have hpos := Nat.mod_add_div y.toNat (2 ^ pos)
  have hlen := Nat.mod_add_div (y.toNat / 2 ^ pos) (2 ^ len)
  rw [Nat.div_div_eq_div_mul, ← Nat.pow_add] at hlen
  rw [fieldOf]
  calc y.toNat = y.toNat % 2 ^ pos + 2 ^ pos * (y.toNat / 2 ^ pos) := hpos.symm
    _ = y.toNat % 2 ^ pos + 2 ^ pos * (y.toNat / 2 ^ pos % 2 ^ len + 2 ^ len * (y.toNat / 2 ^ (pos + len))) := by rw [hlen]
    _ = _ := by rw [Nat.pow_add]; ring

/-- Replacing a field leaves what lies below and above it (R189). -/
theorem sub_fieldOf (y : Word) (pos len v : Nat) : y.toNat - fieldOf y pos len * 2 ^ pos + v =
    y.toNat % 2 ^ pos + v + y.toNat / 2 ^ (pos + len) * 2 ^ (pos + len) := by
  have hsplit := fieldOf_split y pos len
  omega

/-! ### Values written -/

theorem WritesG.congr {s : State} {d : BitVec 6} {x y : GReg} {o : Out} (w : WritesG s d x o) (h : x = y) : WritesG s d y o := h ▸ w

theorem WritesP.congr {s : State} {d : BitVec 3} {x y : PReg} {o : Out} (w : WritesP s d x o) (h : x = y) : WritesP s d y o := h ▸ w

/-! ### The statement -/

/-- Settles O9: each instruction is one register write whose value is read off its definition. -/
theorem scalarSelectAndFields : Obligations.ScalarSelectAndFields := by
  unfold Obligations.ScalarSelectAndFields
  refine ⟨fun s d a b c q r u cnd t imm w pos len => ?_, by decide +kernel⟩
  dsimp only
  refine ⟨(writesG s d _).congr ?sel, fun hcnd => ⟨_, condHolds_iff_toNat hcnd _ _, writesP _ _ _⟩, fun hcnd => ?cmpi,
    (writesP s q _).congr ?pmix, fun hlen _ => ⟨writesG _ _ _, (writesG s d _).congr ?bfxS, (writesG s d _).congr ?bfi⟩, writesG _ _ _⟩
  case sel => cases (s.p u).bit <;> rfl
  case cmpi =>
    refine ⟨_, ?_, writesP s q ⟨condHolds cnd (s.g a).bits (imm.signExtend 64), (s.g a).psn⟩⟩
    rw [condHolds_iff_toNat hcnd, BitVec.toInt_signExtend_of_le (by decide), toNat_signExtend_imm]
  case pmix => cases (s.p r).bit <;> cases (s.p u).bit <;> rfl
  case bfxS =>
    have hbmod := bmod_two_pow hlen (fieldOf_lt (s.g a).bits pos.toNat len.toNat)
    rw [fieldOf] at hbmod
    simp only [hbmod, fieldOf, true_and, GReg.mk.injEq, and_true]
    split
    · rfl
    · exact BitVec.ofInt_natCast _ _
  case bfi => simp only [sub_fieldOf]

end Sys2Proof.Machine
end

section
/-! SUPPORT. Control transfers: the address of the word in issue, the link register, the operands that a transfer consumes (R56, R62, R173). -/

namespace Sys2Proof.Machine

/-! ### Targets and the link -/

theorem State.setG_ix (s : State) (d : BitVec 6) (x : GReg) : (s.setG d x).ix = s.ix := by
  unfold State.setG; split <;> rfl

/-- A relative transfer goes to PC + 4 * DISP of the word in issue, whatever registers have been written before it (R56). -/
theorem jumps_goRel {s u : State} (hix : u.ix = s.ix) (disp : BitVec 32) :
    Jumps u ((s.ix.pc.toNat : Int) + 12 * s.ix.slot + 4 * disp.toInt) (.next (u.goRel disp)) := by
  rw [State.goRel, State.wordPc, hix]
  push_cast
  exact rfl

/-- The link register takes PC + 12 with its poison clear (R173). -/
theorem writesG_link (s : State) :
    WritesG s 63 ⟨BitVec.ofInt 64 ((s.ix.pc.toNat : Int) + 12 * s.ix.slot + 12), false⟩ (.next s.link) := by
  refine (writesG s 63 _).congr ?_
  rw [State.wordPc, ← BitVec.ofInt_natCast]
  push_cast
  rfl

/-! ### What the transfers do -/

section
variable {s : State} {a b : BitVec 6}

theorem execJmpi_goes (h : (s.g a).psn = false) (imm : BitVec 32) :
    execJmpi a imm s = .next (s.goTo ((s.g a).bits.toNat + imm.toInt)) := by rw [execJmpi, State.gUse_ok h]; rfl

theorem execCalli_goes (h : (s.g a).psn = false) (imm : BitVec 32) :
    execCalli a imm s = .next (s.link.goTo ((s.g a).bits.toNat + imm.toInt)) := by rw [execCalli, State.gUse_ok h]; rfl

theorem execRet_goes (h : (s.g 63).psn = false) : execRet s = .next (s.goTo (s.g 63).bits.toNat) := by
  rw [execRet, State.gUse_ok h]; rfl

theorem execBr_goes (ha : (s.g a).psn = false) (hb : (s.g b).psn = false) (cnd : BitVec 4) (disp : BitVec 32) :
    execBr cnd a b disp s = .next (if condHolds cnd (s.g a).bits (s.g b).bits then s.goRel disp else s) := by
  rw [execBr, State.gUse_ok ha, State.gUse_ok hb]; rfl

/-- An instruction that first consumes a poisoned register raises 0x31 (R303). -/
theorem traps_gUse (h : (s.g a).psn = true) (f : Word → Chk State) : Traps s 0x31 (settle s (s.gUse a >>= f)) := by
  rw [State.gUse_poison h]
  exact traps_settle_bind _ _ _ _ _

/-- An instruction that consumes two registers raises 0x31 for a poisoned second as for a poisoned first (R303). -/
theorem traps_gUse_snd (h : (s.g b).psn = true) (f : Word → Word → Chk State) :
    Traps s 0x31 (settle s (do let x ← s.gUse a; let y ← s.gUse b; f x y)) := by
  cases ha : (s.g a).psn with
  | true => exact traps_gUse ha _
  | false => rw [State.gUse_ok ha, ok_bind]; exact traps_gUse h _

end

/-- Settles O18: each transfer's target and link, the condition of br, and the poisoned operands. -/
theorem controlTransfers : Obligations.ControlTransfers := by
  unfold Obligations.ControlTransfers
  intro s a b disp imm cnd
  have hlink : s.link.ix = s.ix := s.setG_ix _ _
  simp only [exec_nop, exec_jmp, exec_call, exec_jmpi, exec_calli, exec_ret, exec_br]
  refine ⟨rfl, jumps_goRel rfl disp, ⟨s.link, writesG_link s, jumps_goRel hlink disp⟩, fun ha => ⟨execJmpi_goes ha imm, ?calli⟩,
    fun h => execRet_goes h, fun ha hb hcnd => ?br, fun ha => ⟨traps_gUse ha _, traps_gUse ha _, traps_gUse ha _, ?brSnd⟩,
    fun h => traps_gUse h _⟩
  case calli => exact ⟨s.link, writesG_link s, execCalli_goes ha imm⟩
  case br =>
    rw [execBr_goes ha hb, ← condHolds_iff hcnd]
    exact ⟨fun h => by rw [if_pos h]; exact jumps_goRel rfl disp, fun h => by rw [if_neg h]⟩
  case brSnd => exact traps_gUse_snd ha _

end Sys2Proof.Machine
end


section
/-! SUPPORT. Token channels: one committed change of a count, the count as other engines leave it, engines that are done (R171). -/

namespace Sys2Proof.Machine

section
variable {s : State} {k : BitVec 4}

theorem State.othersDone_iff : s.othersDone = true ↔ ∀ e : EngId, e ≠ s.ix.eng → s.here.isDone e = true := by
  simp only [State.othersDone, List.all_eq_true, List.mem_cons, List.not_mem_nil, or_false, Bool.or_eq_true, beq_iff_eq]
  constructor
  · intro h e hne
    exact (h e (by cases e <;> simp)).resolve_left hne
  · intro h e _
    exact or_iff_not_imp_left.mpr (h e)

/-- A change of a count is kept in the core until its cycle ends (R171). -/
theorem becomes_changeToken (k : BitVec 4) (post : Bool) {v : Nat}
    (hv : (if post then s.here.token k + 1 else s.here.token k - 1) = BitVec.ofNat 8 v) :
    Becomes s { s.here.setToken k (BitVec.ofNat 8 v) with tokLog := s.here.tokLog ++ [⟨s.ix.eng, k.toNat, post⟩] }
      (.next (s.changeToken k post)) :=
  (becomes_onHere s _).congr (by rw [hv])

theorem execPost_counts (h : s.here.token k ≠ 255) : execPost k s = .next (s.changeToken k true) := by
  rw [execPost, trapIf_false (by simpa using h)]
  rfl

theorem execPost_full (h : s.here.token k = 255) : Traps s 0x37 (execPost k s) := by
  rw [execPost, trapIf_true (by simpa using h)]
  exact traps_settle_bind _ _ _ _ _

/-- An await that raises no trap waits for a count that other engines have not posted in this very cycle (R171). -/
theorem execAwait_eq (hprior : s.herePrior = s.here) (h : s.here.token k ≠ 0 ∨ s.othersDone = false) :
    execAwait k s = if (s.here.tokOthers s.ix.eng k true).toNat < (s.here.token k).toNat then .next (s.changeToken k false)
      else .next s.hold := by
  have hno : (s.here.token k == 0 && s.othersDone) = false := by simpa [or_iff_not_imp_left] using h
  simp only [execAwait, hprior]
  rw [trapIf_false hno, ok_bind]
  by_cases hlt : (s.here.tokOthers s.ix.eng k true).toNat < (s.here.token k).toNat
  · rw [blockUnless_true (decide_eq_true hlt), if_pos hlt]; rfl
  · rw [blockUnless_false (decide_eq_false hlt), if_neg hlt]; rfl

theorem execAwait_done (hprior : s.herePrior = s.here) (h : s.here.token k = 0) (hdone : s.othersDone = true) :
    Traps s 0x37 (execAwait k s) := by
  simp only [execAwait, hprior]
  rw [trapIf_true (by simp [h, hdone])]
  exact traps_settle_bind _ _ _ _ _

end

/-- Settles O22, by what post, await and kget do with the count and with what other engines have committed in the cycle. -/
theorem tokenChannels : Obligations.TokenChannels := by
  unfold Obligations.TokenChannels
  intro s d k n posted taken put hprior
  simp only [exec_post, exec_await, exec_kget]
  refine ⟨fun hlt => ?post, fun h => execPost_full (BitVec.eq_of_toNat_eq h), fun hlt => ?await, fun hle hany => ?block,
    fun hzero hall => execAwait_done hprior hzero (State.othersDone_iff.mpr hall), ?kget, fun hlog => ?quiet⟩
  case post =>
    have hne : n ≠ 255 := fun h => by simp [h] at hlt
    rw [execPost_counts hne]
    exact becomes_changeToken k true (by rw [if_pos rfl]; show n + 1 = _; bv_omega)
  case await =>
    have hne : n ≠ 0 := fun h => by simp [h] at hlt
    rw [execAwait_eq hprior (.inl hne), if_pos hlt]
    exact becomes_changeToken k false (by rw [if_neg (by decide)]; show n - 1 = _; bv_omega)
  case block =>
    have hopen : n ≠ 0 ∨ s.othersDone = false := hany.imp_right fun ⟨e, hne, hrun⟩ => by
      rw [← Bool.not_eq_true, State.othersDone_iff]
      exact fun hall => by simp [hall e hne] at hrun
    rw [execAwait_eq hprior hopen, if_neg (Nat.not_lt.mpr hle)]
    rfl
  case kget =>
    refine (writesG s d _).congr ?_
    rw [hprior, BitVec.ofNat_toNat]
  case quiet => simp [posted, taken, Core.tokOthers, hlog]

end Sys2Proof.Machine
end


section
/-! SUPPORT. Status instructions of the copy channels: IDs in their circular order, waits, values read, the marker of xorder
(R121, R136-R138). -/

namespace Sys2Proof.Machine

/-- ID a is after ID b (R121). -/
theorem idAfter_iff {a b : BitVec 32} : idAfter a b = true ↔ 1 ≤ (a - b).toNat ∧ (a - b).toNat < 2 ^ 31 := by
  simp only [idAfter, Bool.and_eq_true, decide_eq_true_eq]

theorem State.checkRoom_ok {s : State} (h : (s.here.queued (queueOfEng s.ix.eng)).length < 32) : s.checkRoom = .ok () :=
  blockUnless_true (decide_eq_true h)

theorem State.checkRoom_full {s : State} (h : 32 ≤ (s.here.queued (queueOfEng s.ix.eng)).length) : s.checkRoom = .error .block :=
  blockUnless_false (decide_eq_false (Nat.not_lt.mpr h))

section
variable {s : State} {v : BitVec 6} {ch : BitVec 4} (st : Core → BitVec 4 → BitVec 32)

theorem xwaitWith_future (hv : (s.g v).psn = false) (h : idAfter ((s.g v).bits.setWidth 32) (s.herePrior.last ch) = true) :
    Traps s 0x37 (xwaitWith st v ch s) := by
  simp only [xwaitWith, State.gUse_ok hv, ok_bind, trapIf_true h]
  exact traps_settle_bind _ _ _ _ _

/-- A wait for an ID that has been given out completes or blocks by the channel's status (R136). -/
theorem xwaitWith_eq (hv : (s.g v).psn = false) (h : idAfter ((s.g v).bits.setWidth 32) (s.herePrior.last ch) = false) :
    xwaitWith st v ch s = if idAfter (st s.herePrior ch) ((s.g v).bits.setWidth 32) then .next s else .next s.hold := by
  simp only [xwaitWith, State.gUse_ok hv, ok_bind, trapIf_false h, blockUnless]
  split <;> rfl

/-- A status wait by the three places of its ID: after LAST, before the status, or neither (R136). -/
theorem xwaitWith_waits (hv : (s.g v).psn = false) :
    let id := BitVec.ofNat 32 (s.g v).bits.toNat
    let last := s.herePrior.last ch
    let later := fun (a b : BitVec 32) => 1 ≤ (a - b).toNat ∧ (a - b).toNat < 2 ^ 31
    (later id last → Traps s 0x37 (xwaitWith st v ch s))
      ∧ (¬later id last → later (st s.herePrior ch) id → xwaitWith st v ch s = .next s)
      ∧ (¬later id last → ¬later (st s.herePrior ch) id → Blocks s (xwaitWith st v ch s)) := by
  dsimp only
  simp only [← idAfter_iff, BitVec.ofNat_toNat, Bool.not_eq_true]
  refine ⟨fun h => xwaitWith_future st hv h, fun h hst => ?_, fun h hst => ?_⟩
  · rw [xwaitWith_eq st hv h, hst]; rfl
  · rw [xwaitWith_eq st hv h, hst]; rfl

end

/-- Settles O40: the waits by the places of their ID, the values of xid, and the marker that xorder appends. -/
theorem channelStatus : Obligations.ChannelStatus := by
  unfold Obligations.ChannelStatus
  intro s v ch aux k id next later oldest inn rel vis waits reads q
  simp only [exec_xwaitIn, exec_xwaitRel, exec_xwaitVis, exec_xorder]
  have hreads (x : BitVec 32) (h : execXid v ch aux s = .next (s.setG v ⟨x.setWidth 64, false⟩)) : reads x := by
    show WritesG s v _ (execXid v ch aux s)
    rw [h, BitVec.ofNat_toNat]
    exact writesG s v _
  refine ⟨fun hv => xwaitWith_waits Core.inDone hv, fun hv => xwaitWith_waits Core.outRel hv, fun hv => xwaitWith_waits Core.outVis hv,
    fun hv => traps_gUse hv _, fun h => hreads _ ?last, fun h => hreads _ ?inDone, fun h => hreads _ ?outRel, fun h => hreads _ ?outVis,
    fun h => hreads _ ?bind, fun hroom => ?order, fun hfull => ?full⟩
  case last => rw [h]; rfl
  case inDone => rw [h]; rfl
  case outRel => rw [h]; rfl
  case outVis => rw [h]; rfl
  case bind =>
    rw [h]
    show Host.Outcome.next (s.setG v ⟨(BitVec.ofNat 32 (bindCode (k.bind.get ch.toFin))).setWidth 64, false⟩) = _
    rcases k.bind.get ch.toFin with _ | _ | _ <;> rfl
  case order =>
    rw [execXorder, State.checkRoom_ok hroom]
    exact ⟨_, becomes_onHere s _, rfl, rfl, rfl⟩
  case full =>
    rw [execXorder, State.checkRoom_full hfull]
    exact blocks_settle s

end Sys2Proof.Machine
end


section
/-! SUPPORT. The trap queue of an isle: where a record enters it, the places of a core's last records, what a trap leaves of the
hardware and of a group (R65, R67, R360-R364). -/

namespace Sys2Proof.Machine

/-! ### Many entries put in a table -/

/-- Entries whose keys differ all stand in the table once they have been put. -/
theorem tabFind_foldl_put {α β : Type} (f : α → β) {es : List (Nat × α)} (hnodup : (es.map Prod.fst).Nodup) (t : Tab β) {p : Nat × α}
    (hp : p ∈ es) : tabFind (es.foldl (fun t e => tabPut (f e.2) e.1 t) t) p.1 = some (f p.2) := by
  induction es using List.reverseRecOn with
  | nil => exact absurd hp List.not_mem_nil
  | append_singleton es q ih =>
    rw [List.foldl_append, List.foldl_cons, List.foldl_nil]
    rw [List.map_append, List.nodup_append] at hnodup
    obtain ⟨hes, -, happart⟩ := hnodup
    rcases List.mem_append.mp hp with hmem | hlast
    · rw [tabFind_put_other _ (happart _ (List.mem_map_of_mem hmem) _ (by simp))]
      exact ih hes hmem
    · rw [List.mem_singleton.mp hlast, tabFind_put_same]

/-- A key that no entry has holds what it held. -/
theorem tabFind_foldl_put_other {α β : Type} (f : α → β) {es : List (Nat × α)} {i : Nat} (hi : ∀ e ∈ es, e.1 ≠ i) (t : Tab β) :
    tabFind (es.foldl (fun t e => tabPut (f e.2) e.1 t) t) i = tabFind t i := by
  induction es generalizing t with
  | nil => rfl
  | cons e es ih =>
    obtain ⟨hne, hes⟩ := List.forall_mem_cons.mp hi
    rw [List.foldl_cons, ih hes, tabFind_put_other _ hne.symm]

/-! ### The places of the trap queue -/

theorem tqTail_mod {head tail : BitVec 32} : tail.toNat % 1024 = (head.toNat + (tail - head).toNat) % 1024 := by
  bv_omega

/-- Fewer than 1,024 places from the queue's head on, and the place at its tail, all differ (R364). -/
theorem nodup_places {head tail : BitVec 32} (hroom : (tail - head).toNat < 1024) :
    ((List.range (tail - head).toNat).map (fun i => (head.toNat + i) % 1024) ++ [tail.toNat % 1024]).Nodup := by
  have hall : (List.range (tail - head).toNat).map (fun i => (head.toNat + i) % 1024) ++ [tail.toNat % 1024] =
      (List.range ((tail - head).toNat + 1)).map (fun i => (head.toNat + i) % 1024) := by
    rw [List.range_succ, List.map_append, List.map_singleton, tqTail_mod (head := head)]
  rw [hall]
  refine List.Nodup.map_on (fun i hi j hj heq => ?_) List.nodup_range
  rw [List.mem_range] at hi hj
  omega

theorem map_fst_filterMap_sublist {α : Type} {f : Nat → Option (Nat × α)} (hf : ∀ i p, f i = some p → p.1 = i) (l : List Nat) :
    ((l.filterMap f).map Prod.fst).Sublist l := by
  induction l with
  | nil => exact List.Sublist.refl _
  | cons i l ih =>
    rw [List.filterMap_cons]
    cases hfi : f i with
    | none => exact ih.cons i
    | some p =>
      rw [List.map_cons, hf i p hfi]
      exact ih.cons_cons i

/-- The places of a core's last records lie between the queue's head and its tail, in their order. -/
theorem Isle.lastOf_sublist (x : Isle) (co : CoreId) (n : Nat) : ((x.lastOf co n).map Prod.fst).Sublist
    ((List.range (x.tqTail - x.tqHead).toNat).map (fun i => (x.tqHead.toNat + i) % 1024)) := by
  refine ((List.drop_sublist _ _).map _).trans (map_fst_filterMap_sublist (fun i p h => ?_) _)
  split at h
  · split at h
    · exact (Option.some.inj h) ▸ rfl
    · cases h
  · cases h

theorem length_byUnit (r : TrapRec) (l : List TrapRec) : (byUnit r l).length = l.length + 1 := by
  induction l with
  | nil => rfl
  | cons q t ih =>
    rw [byUnit]
    split
    · rfl
    · rw [List.length_cons, ih, List.length_cons]

/-- The places that the records of one cycle take, in their order by unit (R364). -/
def Isle.byUnitAt (x : Isle) (n : Nat) (r : TrapRec) (co : CoreId) : List (Nat × TrapRec) :=
  ((x.lastOf co n).map Prod.fst ++ [x.tqTail.toNat % 1024]).zip (byUnit r ((x.lastOf co n).map Prod.snd))

theorem Isle.map_fst_byUnitAt (x : Isle) (n : Nat) (r : TrapRec) (co : CoreId) :
    (x.byUnitAt n r co).map Prod.fst = (x.lastOf co n).map Prod.fst ++ [x.tqTail.toNat % 1024] := by
  refine List.map_fst_zip (le_of_eq ?_)
  rw [length_byUnit, List.length_append, List.length_map, List.length_map, List.length_singleton]

theorem Isle.nodup_byUnitAt {x : Isle} (hroom : (x.tqTail - x.tqHead).toNat < 1024) (n : Nat) (r : TrapRec) (co : CoreId) :
    ((x.byUnitAt n r co).map Prod.fst).Nodup := by
  rw [Isle.map_fst_byUnitAt]
  exact (nodup_places hroom).sublist ((x.lastOf_sublist co n).append_right _)

/-! ### A record enters -/

section
variable {x : Isle} {n : Nat} {r : TrapRec} {co : CoreId}

theorem Isle.enqueue_room (hwait : x.tqWait = []) (hroom : (x.tqTail - x.tqHead).toNat < 1024) :
    x.enqueue r co = { x with trapq := tabPut (r, co) (x.tqTail.toNat % 1024) x.trapq, tqTail := x.tqTail + 1 } := by
  rw [Isle.enqueue, if_pos ⟨hroom, hwait⟩]

theorem Isle.enqueue_waits (h : x.tqWait ≠ [] ∨ 1024 ≤ (x.tqTail - x.tqHead).toNat) :
    x.enqueue r co = { x with tqWait := x.tqWait ++ [(r, co)] } := by
  rw [Isle.enqueue, if_neg]
  rintro ⟨hroom, hwait⟩
  exact h.elim (fun hne => hne hwait) (fun hfull => absurd hroom (Nat.not_lt.mpr hfull))

theorem Isle.takeIn_first : x.takeIn 0 r co = x.enqueue r co := rfl

theorem Isle.takeIn_waits (h : x.tqWait ≠ [] ∨ 1024 ≤ (x.tqTail - x.tqHead).toNat) :
    x.takeIn n r co = { x with tqWait := x.tqWait ++ [(r, co)] } := by
  rw [Isle.takeIn, Isle.enqueue_waits h]
  simp

/-- A record that follows others of its core in one cycle: all of them stand by unit in the places that they take (R364). -/
theorem Isle.takeIn_room (hn : n ≠ 0) (hwait : x.tqWait = []) (hroom : (x.tqTail - x.tqHead).toNat < 1024) :
    x.takeIn n r co = { x with
      trapq := (x.byUnitAt n r co).foldl (fun t e => tabPut (e.2, co) e.1 t) (tabPut (r, co) (x.tqTail.toNat % 1024) x.trapq)
      tqTail := x.tqTail + 1 } := by
  have hmoved : (decide (n = 0) || x.tqTail + 1 == x.tqTail) = false := by simp [hn]
  rw [Isle.takeIn, Isle.enqueue_room hwait hroom]
  simp only [hmoved, Bool.false_eq_true, if_false, Isle.byUnitAt]

theorem Isle.tabFind_takeIn (hn : n ≠ 0) (hwait : x.tqWait = []) (hroom : (x.tqTail - x.tqHead).toNat < 1024) {p : Nat × TrapRec}
    (hp : p ∈ x.byUnitAt n r co) : tabFind (x.takeIn n r co).trapq p.1 = some (p.2, co) := by
  rw [Isle.takeIn_room hn hwait hroom]
  exact tabFind_foldl_put (fun r => (r, co)) (Isle.nodup_byUnitAt hroom n r co) _ hp

theorem Isle.tabFind_takeIn_other (hn : n ≠ 0) (hwait : x.tqWait = []) (hroom : (x.tqTail - x.tqHead).toNat < 1024) {i : Nat}
    (hwas : ∀ p ∈ x.lastOf co n, p.1 ≠ i) (htail : i ≠ x.tqTail.toNat % 1024) :
    tabFind (x.takeIn n r co).trapq i = tabFind x.trapq i := by
  have hother : ∀ e ∈ x.byUnitAt n r co, e.1 ≠ i := by
    intro e he heq
    have hmem := List.mem_map_of_mem (f := Prod.fst) he
    rw [Isle.map_fst_byUnitAt, List.mem_append, List.mem_singleton, heq] at hmem
    rcases hmem with hmem | hmem
    · obtain ⟨p, hp, hpi⟩ := List.mem_map.mp hmem
      exact hwas p hp hpi
    · exact htail hmem
  rw [Isle.takeIn_room hn hwait hroom]
  exact (tabFind_foldl_put_other (fun r => (r, co)) hother _).trans (tabFind_put_other _ htail _)

end

/-! ### What a trap leaves of the hardware -/

section
variable (h : Hw) (issued : Bool) (co : CoreId) (r : TrapRec)

theorem Hw.trapAs_core : (h.trapAs issued co r).core co = (h.core co).stop issued :=
  Hw.core_onCore h co (fun k => k.stop issued)

theorem Hw.trapAs_isle : (h.trapAs issued co r).isle co.isle = (h.isle co.isle).takeIn (h.core co).recs r co :=
  Hw.isle_onIsle _ _ _

theorem Hw.trapAs_core_other {d : CoreId} (hd : CoreId.key d ≠ CoreId.key co) : (h.trapAs issued co r).core d = h.core d :=
  Hw.core_setCore_other h _ hd

theorem Hw.trapAs_isle_other {i : Nat} (hi : i ≠ co.isle) : (h.trapAs issued co r).isle i = h.isle i :=
  Hw.isle_setIsle_other _ _ hi

end

/-! ### What a trap leaves of a group -/

/-- A group that waits for no barrier and no lease leaves no wait behind when it traps. -/
theorem State.dropWaits_of_none (s : State) {xs : List Insn} (h : ∀ i ∈ xs, (∀ a n, i.op ≠ .tbwait a n) ∧ ∀ n, i.op ≠ .lease n) :
    s.dropWaits xs = s := by
  induction xs with
  | nil => rfl
  | cons i xs ih =>
    obtain ⟨⟨htb, hle⟩, hxs⟩ := List.forall_mem_cons.mp h
    exact (congrArg (fun t : State => t.dropWaits xs) (State.dropWaits_one htb hle)).trans (ih hxs)

/-- A group whose instructions trap leaves the hardware before it but for the trap (R65, R67). -/
theorem State.runGroup_trap {s u : State} {ws : List (BitVec 96 × Insn)} {r : TrapRec} (hrun : runSlots 0 ws s = .next u)
    (htrap : u.ix.trap = some r) (h : ∀ y ∈ ws, (∀ a n, y.2.op ≠ .tbwait a n) ∧ ∀ n, y.2.op ≠ .lease n) (x : Sect) (rep : Bool) :
    ∃ t, s.runGroup x ws rep = .next t ∧ t.toHw = (s.toHw.engTrap s.ix.co s.ix.eng r).noteMachine s.ix.co r := by
  have hdrop : s.dropWaits (ws.map Prod.snd) = s := s.dropWaits_of_none (List.forall_mem_map.mpr h)
  refine ⟨s.finish u x ws rep, by rw [State.runGroup, hrun], ?_⟩
  simp only [State.finish, htrap, hdrop, State.upd_toHw]

/-- Settles O6: what a trap does to its core and to its isle's queue, and that a group which traps leaves nothing else. -/
theorem takingATrap : Obligations.TakingATrap := by
  unfold Obligations.TakingATrap
  refine ⟨fun h issued co r => ?_, fun h co e r => rfl, fun s u x ws rep r hrun htrap hws => State.runGroup_trap hrun htrap hws x rep⟩
  simp only [Hw.trapAs_isle]
  refine ⟨h.trapAs_core issued co r, fun hrecs hwait hroom => ?first, fun hrecs hwait hroom => ⟨?moves, ?other, ?byUnit⟩,
    fun hfull => Isle.takeIn_waits hfull, rfl, fun d hd => h.trapAs_core_other issued co r hd,
    fun i hi => h.trapAs_isle_other issued co r hi⟩
  case first => rw [hrecs, Isle.takeIn_first, Isle.enqueue_room hwait hroom]
  case moves => rw [Isle.takeIn_room hrecs hwait hroom]
  case other => exact fun i hwas htail => Isle.tabFind_takeIn_other hrecs hwait hroom hwas htail
  case byUnit => exact fun p hp => Isle.tabFind_takeIn hrecs hwait hroom hp

end Sys2Proof.Machine
end


section
/-! SUPPORT. Domain barriers: what the advance of a phase count leaves, an arrival of an engine, the level's checks (R327-R329). -/

namespace Sys2Proof.Machine

/-! ### The rest of the core -/

theorem State.cu_onMe (s : State) (f : Eng → Eng) : (s.onMe f).here.cu = s.here.cu := by
  rw [State.onMe, State.here_onHere, Core.setEng_cu]

theorem State.ph_setG (s : State) (d : BitVec 6) (x : GReg) : (s.setG d x).here.ph = s.here.ph := by
  rw [(s.setG_onlyG d x).1.2, Core.setEng_ph]

/-! ### Arrival counts -/

theorem getD_toList_setIfInBounds {α : Type} {n i : Nat} (v : Vector α n) (hi : i < n) (x d : α) (j : Nat) :
    (v.setIfInBounds i x).toList.getD j d = if j = i then x else v.toList.getD j d := by
  by_cases h : j = i
  · subst h; simp [List.getD_eq_getElem?_getD, hi]
  · simp [List.getD_eq_getElem?_getD, h, Ne.symm h]

/-- An engine that has arrived once more at a level (R328). -/
def Eng.arrive (lv : Nat) (g : Eng) : Eng := { g with ea := g.ea.setIfInBounds (lv - 1) (g.ea.toList.getD (lv - 1) 0 + 1) }

/-- A core whose engine has arrived at a level. -/
def Core.arrive (e : EngId) (lv : Nat) (k : Core) : Core := k.setEng e ((k.eng e).arrive lv)

theorem Eng.ea_arrive {lv : Nat} (h1 : 1 ≤ lv) (h5 : lv ≤ 5) (g : Eng) (i : Nat) :
    (g.arrive lv).ea.toList.getD i 0 = if i = lv - 1 then g.ea.toList.getD (lv - 1) 0 + 1 else g.ea.toList.getD i 0 :=
  getD_toList_setIfInBounds _ (by omega) _ _ _

/-! ### The advance of a phase count -/

section
variable (h : Hw) (co : CoreId) (t : Task) (lv : Nat)

/-- At task level the phase count follows the least advanced engine that is not done (R328). -/
theorem Hw.core_advance_task : (h.advance co t 1).core co =
    { h.core co with ph := (h.core co).ph + BitVec.ofNat 16 (((h.core co).lead 1 (h.core co).ph).getD 0) } :=
  Hw.core_onCore h co (fun k => { k with ph := k.ph + BitVec.ofNat 16 ((k.lead 1 k.ph).getD 0) })

/-- Above task level no core differs. -/
theorem Hw.cores_advance (hlv : lv ≠ 1) : (h.advance co t lv).cores = h.cores := by
  rw [Hw.advance, if_neg hlv]
  split <;> rfl

/-- Of a core nothing but its own phase count advances. -/
theorem Hw.core_advance : ∃ ph, (h.advance co t lv).core co = { h.core co with ph := ph } := by
  by_cases hlv : lv = 1
  · subst hlv
    exact ⟨_, h.core_advance_task co t⟩
  · refine ⟨(h.core co).ph, ?_⟩
    rw [Hw.core, Hw.cores_advance h co t lv hlv]
    rfl

theorem Hw.mem_advance : (h.advance co t lv).mem = h.mem := by
  rw [Hw.advance]
  split
  · rfl
  · split <;> rfl

end

/-! ### An arrival -/

/-- The state after an arrival of the issuing engine (R328). -/
def State.arrived (s : State) (lv : Nat) : State := (s.onMe (Eng.arrive lv)).upd (fun h => h.advance s.ix.co s.task lv)

section
variable (s : State) (lv : Nat)

theorem State.onMe_congr {f g : Eng → Eng} (h : f s.me = g s.me) : s.onMe f = s.onMe g :=
  congrArg (fun x => s.upd (fun h => h.setCore s.ix.co (s.here.setEng s.ix.eng x))) h

theorem State.arriveDom_eq : s.arriveDom lv = (s.arrived lv, s.me.ea.toList.getD (lv - 1) 0) := by
  have hme : s.onMe (fun e => { e with ea := e.ea.setIfInBounds (lv - 1) (s.me.ea.toList.getD (lv - 1) 0 + 1) }) = s.onMe (Eng.arrive lv) :=
    s.onMe_congr rfl
  rw [State.arriveDom, State.arrived, hme]

theorem State.here_arrived : ∃ ph, (s.arrived lv).here = { s.here.arrive s.ix.eng lv with ph := ph } := by
  obtain ⟨ph, hph⟩ := Hw.core_advance (s.onMe (Eng.arrive lv)).toHw s.ix.co s.task lv
  exact ⟨ph, hph.trans (by rw [show (s.onMe (Eng.arrive lv)).toHw.core s.ix.co = _ from State.here_onHere s _]; rfl)⟩

theorem State.me_arrived : (s.arrived lv).me = s.me.arrive lv := by
  obtain ⟨ph, hph⟩ := s.here_arrived lv
  have heng : ({ s.here.arrive s.ix.eng lv with ph := ph } : Core).eng s.ix.eng = (s.here.arrive s.ix.eng lv).eng s.ix.eng := by
    cases s.ix.eng <;> rfl
  exact (congrArg (Core.eng · s.ix.eng) hph).trans (heng.trans (Core.eng_setEng _ _ _))

theorem State.cu_arrived : (s.arrived lv).here.cu = s.here.cu := by
  obtain ⟨ph, hph⟩ := s.here_arrived lv
  rw [hph]
  exact Core.setEng_cu _ _ _

theorem State.mem_arrived : (s.arrived lv).mem = s.mem := Hw.mem_advance _ _ _ _

theorem State.ph_arrived (hlv : lv = 1) : (s.arrived lv).here.ph =
    s.here.ph + BitVec.ofNat 16 (((s.here.arrive s.ix.eng 1).lead 1 s.here.ph).getD 0) := by
  subst hlv
  have hph : (s.here.arrive s.ix.eng 1).ph = s.here.ph := Core.setEng_ph _ _ _
  have hcore := Hw.core_advance_task (s.onMe (Eng.arrive 1)).toHw s.ix.co s.task
  rw [show (s.onMe (Eng.arrive 1)).toHw.core s.ix.co = s.here.arrive s.ix.eng 1 from State.here_onHere s _] at hcore
  exact (congrArg Core.ph hcore).trans (by rw [hph])

end

/-! ### The lead of an arriving engine -/

theorem Eng.lead_done {g : Eng} (h : g.st = .done) (lv : Nat) (ph : BitVec 16) : g.lead lv ph = none := if_pos h

theorem Eng.lead_at {g : Eng} {lv n : Nat} {ph : BitVec 16} (h : g.st ≠ .done)
    (hn : (g.ea.toList.getD (lv - 1) 0 - ph).toNat = n) : g.lead lv ph = some n := by rw [Eng.lead, if_neg h, hn]

theorem minLead_self (a : Option Nat) : minLead a a = a := by cases a <;> simp [minLead]

theorem minLead_comm (a b : Option Nat) : minLead a b = minLead b a := by
  cases a <;> cases b <;> simp [minLead, Nat.min_comm]

theorem minLead_minLead_self (a b : Option Nat) : minLead a (minLead b a) = minLead b a := by
  cases a <;> cases b <;> simp [minLead]

/-- The lead of a core whose two engines but one lead alike. -/
theorem Core.lead_of_others {k : Core} {e : EngId} {lv : Nat} {ph : BitVec 16} {a : Option Nat}
    (h : ∀ o, o ≠ e → (k.eng o).lead lv ph = a) : k.lead lv ph = minLead ((k.eng e).lead lv ph) a := by
  rw [show k.lead lv ph = minLead ((k.eng .l).lead lv ph) (minLead ((k.eng .c).lead lv ph) ((k.eng .s).lead lv ph)) from rfl]
  cases e with
  | l => rw [h .c (by decide), h .s (by decide), minLead_self]
  | c => rw [h .l (by decide), h .s (by decide), minLead_minLead_self]
  | s => rw [h .l (by decide), h .c (by decide), minLead_comm a (Eng.lead _ _ _), minLead_minLead_self]

/-- The lead of a core whose engine arrives at task level from the phase count on, while its two others lead alike. -/
theorem State.lead_arrive {s : State} {a : Option Nat} (hst : s.me.st ≠ .done) (hn : s.me.ea.toList.getD 0 0 = s.here.ph)
    (hothers : ∀ e, e ≠ s.ix.eng → (s.here.eng e).lead 1 s.here.ph = a) :
    (s.here.arrive s.ix.eng 1).lead 1 s.here.ph = minLead (some 1) a := by
  have hmine : ((s.here.arrive s.ix.eng 1).eng s.ix.eng).lead 1 s.here.ph = some 1 := by
    rw [Core.arrive, Core.eng_setEng]
    refine Eng.lead_at hst ?_
    rw [Eng.ea_arrive (by decide) (by decide), if_pos rfl]
    show (s.me.ea.toList.getD 0 0 + 1 - s.here.ph).toNat = 1
    rw [hn]
    bv_omega
  rw [Core.lead_of_others (e := s.ix.eng), hmine]
  intro o ho
  rw [Core.arrive, Core.eng_setEng_other _ _ ho, hothers o ho]

/-! ### The checks -/

/-- A task may use a level: it has a band at band level, and the level's DBARM bit above task level (R327). -/
def State.MayUse (s : State) (lv : Nat) : Prop := (lv = 4 → s.task.band ≠ none) ∧ (2 ≤ lv → s.task.dbarm.getLsbD lv = true)

section
variable {s : State} {lv : Nat}

theorem State.mayUse_iff : s.MayUse lv ↔
    ((lv == 4 && s.task.band.isNone) || (decide (2 ≤ lv) && !s.task.dbarm.getLsbD lv)) = false := by
  simp [State.MayUse, Option.ne_none_iff_isSome]

theorem State.checkLevel_ok (h : s.MayUse lv) : s.checkLevel lv = .ok () := trapIf_false (State.mayUse_iff.mp h) _ _ _

theorem State.checkLevel_refused (h : ¬s.MayUse lv) : s.checkLevel lv = trapWith 0x33 0 (barrierDetail 0 0) :=
  trapIf_true (Bool.not_eq_false _ ▸ fun hf => h (State.mayUse_iff.mpr hf)) _ _ _

end

theorem phasePassed_iff {phase ph : Nat} : phasePassed phase ph = true ↔
    1 ≤ (phase + 2 ^ 16 - ph % 2 ^ 16) % 2 ^ 16 ∧ (phase + 2 ^ 16 - ph % 2 ^ 16) % 2 ^ 16 < 2 ^ 15 := by
  simp only [phasePassed, Bool.and_eq_true, decide_eq_true_eq]

/-! ### The instructions -/

section
variable {s : State} {d a : BitVec 6} {lv : BitVec 8}

theorem execDbar_arrives (h : s.MayUse lv.toNat) : execDbar lv s = .next ((s.arrived lv.toNat).onMe
    (fun e => { e with dbarHold := e.dbarHold ++ [(lv.toNat, s.me.ea.toList.getD (lv.toNat - 1) 0)] })) := by
  rw [execDbar, State.checkLevel_ok h, ok_bind, State.arriveDom_eq]; rfl

theorem execDbarA_arrives (h : s.MayUse lv.toNat) : execDbarA d lv s =
    .next ((s.arrived lv.toNat).setG d ⟨(s.me.ea.toList.getD (lv.toNat - 1) 0).setWidth 64, false⟩) := by
  rw [execDbarA, State.checkLevel_ok h, ok_bind, State.arriveDom_eq]; rfl

/-- A wait of an engine for a phase, once its register and its level are in order (R328). -/
theorem execDbarW_eq (ha : (s.g a).psn = false) (h : s.MayUse lv.toNat) : execDbarW a lv s =
    if phasePassed (s.prior.phase s.ix.co s.task lv.toNat).toNat (s.g a).bits.toNat then .next s else .next s.hold := by
  rw [execDbarW, State.gUse_ok ha, ok_bind, State.checkLevel_ok h, ok_bind, blockUnless]
  split <;> rfl

end

/-- Settles O35: what an arrival leaves and counts, the phase count that follows it, the wait, and the checks. -/
theorem domainBarriers : Obligations.DomainBarriers := by
  unfold Obligations.DomainBarriers
  intro s d a lv l may n arrived others ph phase passed h1 h5
  have harrived (t : State) (hme : t.me.ea = (s.arrived l).me.ea ∧ t.me.c = (s.arrived l).me.c ∧ t.me.p = (s.arrived l).me.p)
      (hcu : t.here.cu = (s.arrived l).here.cu) (hmem : t.mem = (s.arrived l).mem) : arrived t := by
    obtain ⟨hea, hc, hp⟩ := hme
    rw [State.me_arrived] at hea hc hp
    rw [State.cu_arrived] at hcu
    rw [State.mem_arrived] at hmem
    refine ⟨?_, fun i hi => ?_, hc, hp, hcu, fun k => by rw [hmem]⟩
    · rw [hea, Eng.ea_arrive h1 h5, if_pos rfl]
    · rw [hea, Eng.ea_arrive h1 h5, if_neg hi]
  simp only [exec_dbar, exec_dbarA, exec_dbarW]
  have hcount (hl : l = 1) (hst : s.me.st ≠ .done) (hn : n = ph) {a : Option Nat}
      (ha : ∀ e, e ≠ s.ix.eng → (s.here.eng e).lead 1 s.here.ph = a) :
      (s.arrived l).here.ph = ph + BitVec.ofNat 16 ((minLead (some 1) a).getD 0) := by
    have hn' : s.me.ea.toList.getD (l - 1) 0 = s.here.ph := hn
    rw [hl] at hn'
    rw [State.ph_arrived _ _ hl, State.lead_arrive hst hn' ha]
  refine ⟨fun hmay => ⟨_, execDbar_arrives hmay, harrived _ ?held (State.cu_onMe _ _) rfl, ?regs, ?hold⟩,
    fun hmay => ⟨s.arrived l, _, harrived _ ⟨rfl, rfl, rfl⟩ rfl rfl, ?writes, ?kept, execDbarA_arrives hmay, fun hl hst hn hothers => ?passes,
      fun hl hst hn hothers => ?stays⟩,
    fun ha hmay hpassed => ?goes, fun ha hmay hnot => ?waits, fun ha => traps_gUse ha _, fun hnot => ⟨?dbar33, ?dbarA33, fun ha => ?dbarW33⟩⟩
  case held => rw [State.me_onMe]; exact ⟨rfl, rfl, rfl⟩
  case regs => rw [State.me_onMe, State.me_arrived]; rfl
  case hold => rw [State.me_onMe, State.me_arrived]; rfl
  case writes => rw [BitVec.ofNat_toNat]; exact writesG _ _ _
  case kept => rw [State.me_arrived]; rfl
  case passes => rw [State.ph_setG, hcount hl hst hn fun e he => Eng.lead_done (hothers e he) _ _]; rfl
  case stays =>
    have hzero (e : EngId) (he : e ≠ s.ix.eng) : (s.here.eng e).lead 1 s.here.ph = some 0 := by
      obtain ⟨hrun, hat⟩ := hothers e he
      exact Eng.lead_at hrun (by rw [show (s.here.eng e).ea.toList.getD (1 - 1) 0 = s.here.ph from hat]; simp)
    rw [State.ph_setG, hcount hl hst hn hzero]
    exact BitVec.add_zero _
  case goes => rw [execDbarW_eq ha hmay, if_pos (phasePassed_iff.mpr hpassed)]
  case waits => rw [execDbarW_eq ha hmay, if_neg (fun h => hnot (phasePassed_iff.mp h))]; rfl
  case dbar33 => rw [execDbar, State.checkLevel_refused hnot]; exact traps_settle_bind _ _ _ _ _
  case dbarA33 => rw [execDbarA, State.checkLevel_refused hnot]; exact traps_settle_bind _ _ _ _ _
  case dbarW33 => rw [execDbarW, State.gUse_ok ha, ok_bind, State.checkLevel_refused hnot]; exact traps_settle_bind _ _ _ _ _

end Sys2Proof.Machine
end

section
/-! SUPPORT. Entering a section: the waits on the other two engines, the header that an engine comes to (R53-R55). -/

namespace Sys2Proof.Machine

/-! ### Waits -/

/-- A wait W on an engine is satisfied (R55). -/
theorem Eng.retired_iff {g : Eng} {w : BitVec 16} : g.retired w = true ↔ w = 0 ∨ (g.rsec ≠ 0 ∧ (g.rsec - w).toNat < 2 ^ 15) := by
  simp only [Eng.retired, Bool.or_eq_true, Bool.and_eq_true, beq_iff_eq, bne_iff_ne, ne_eq, decide_eq_true_eq]

theorem Core.setEng_setEng (k : Core) (e : EngId) (x y : Eng) : (k.setEng e x).setEng e y = k.setEng e y := by cases e <;> rfl

/-- An engine that has entered its section (R55). -/
def Eng.enter (c : Sect) (g : Eng) : Eng := { g with sec := some { c with entered := true }, st := .issuing }

/-- An engine that stands at a section, its waits to be met (R55). -/
def Eng.stand (c : Sect) (pc : Nat) (g : Eng) : Eng := { g with sec := some c, pc := BitVec.ofNat 48 pc, xfer := none }

theorem Eng.enter_stand {g : Eng} (h : g.xfer = none) (c : Sect) (pc : Nat) :
    Eng.enter c (Eng.stand c pc g) = { g with sec := some { c with entered := true }, pc := BitVec.ofNat 48 pc, st := .issuing } := by
  rw [Eng.enter, Eng.stand, ← h]

/-- The section that follows a header (R53). -/
def Header.sectAt (x : Header) (hdr : Nat) : Sect :=
  ⟨hdr, BitVec.ofNat 16 x.sec, x.len, BitVec.ofNat 16 x.wx, BitVec.ofNat 16 x.wy, false⟩

theorem waitEngines_ne (e : EngId) : (waitEngines e).1 ≠ e ∧ (waitEngines e).2 ≠ e := by cases e <;> decide

section
variable {h : Hw} {co : CoreId} {e : EngId} {c : Sect}

/-- Both waits of a section are satisfied: the engine enters it (R55). -/
theorem Hw.enterWaits_enters (hx : ((h.core co).eng (waitEngines e).1).retired c.wx = true)
    (hy : ((h.core co).eng (waitEngines e).2).retired c.wy = true) :
    h.enterWaits co e c = h.onEng co e (Eng.enter c) := by
  simp only [Hw.enterWaits, hx, hy, Bool.not_true, Bool.false_and, Bool.or_self, Bool.false_eq_true, if_false, Bool.and_self, if_true]
  rfl

/-- A wait on an engine that is done and has not satisfied it: a trap (R55). -/
theorem Hw.enterWaits_stuck
    (h' : (((h.core co).eng (waitEngines e).1).retired c.wx = false ∧ ((h.core co).eng (waitEngines e).1).st = .done)
      ∨ (((h.core co).eng (waitEngines e).2).retired c.wy = false ∧ ((h.core co).eng (waitEngines e).2).st = .done)) :
    ∃ r : TrapRec, r.code = 0x61 ∧ h.enterWaits co e c = h.engTrap co e r := by
  refine ⟨fetchRec co e ((h.core co).eng e) 0x61 c.hdr 0 false (detField 32 8 (((h.core co).eng e).headerBits c.hdr)), rfl, ?_⟩
  rcases h' with ⟨hw, hdone⟩ | ⟨hw, hdone⟩ <;> simp [Hw.enterWaits, hw, hdone]

/-- A wait on an engine that may yet satisfy it: the engine is blocked (R55). -/
theorem Hw.enterWaits_blocked
    (h' : ((h.core co).eng (waitEngines e).1).retired c.wx = false ∨ ((h.core co).eng (waitEngines e).2).retired c.wy = false)
    (hx : ((h.core co).eng (waitEngines e).1).retired c.wx = false → ((h.core co).eng (waitEngines e).1).st ≠ .done)
    (hy : ((h.core co).eng (waitEngines e).2).retired c.wy = false → ((h.core co).eng (waitEngines e).2).st ≠ .done) :
    h.enterWaits co e c = h.onEng co e (fun g => { g with st := .blocked }) := by
  have hgoes (p : Eng) (w : BitVec 16) (hp : p.retired w = false → p.st ≠ .done) : (!p.retired w && p.st == .done) = false := by
    cases hw : p.retired w with
    | true => rfl
    | false => simpa using hp hw
  have hnot : (((h.core co).eng (waitEngines e).1).retired c.wx && ((h.core co).eng (waitEngines e).2).retired c.wy) = false := by
    exact Bool.and_eq_false_iff.mpr h'
  simp [Hw.enterWaits, hgoes _ _ hx, hgoes _ _ hy, hnot]

/-! ### Headers -/

/-- A section whose waits are satisfied is reached and entered at once (R55). -/
theorem Hw.reach_enters {x : Header} (hx : ((h.core co).eng (waitEngines e).1).retired (BitVec.ofNat 16 x.wx) = true)
    (hy : ((h.core co).eng (waitEngines e).2).retired (BitVec.ofNat 16 x.wy) = true) (hdr pc : Nat) :
    h.reach co e hdr x pc = (h.onEng co e (Eng.stand (x.sectAt hdr) pc)).onEng co e (Eng.enter (x.sectAt hdr)) := by
  obtain ⟨hne, hne'⟩ := waitEngines_ne e
  refine Hw.enterWaits_enters ?_ ?_
  · rw [Hw.onEng, Hw.core_onCore, Core.eng_setEng_other _ _ hne]
    exact hx
  · rw [Hw.onEng, Hw.core_onCore, Core.eng_setEng_other _ _ hne']
    exact hy

/-- The header that an engine comes to is a code section's (R54). -/
theorem Hw.walkTo_code {n a : Nat} (hfetch : ((h.core co).eng e).fetchOk a 8 = true)
    (hok : (Header.ofBits (((h.core co).eng e).headerBits a)).ok = true) (hkind : (Header.ofBits (((h.core co).eng e).headerBits a)).kind = 1) :
    h.walkTo co e (n + 1) a = h.reach co e a (Header.ofBits (((h.core co).eng e).headerBits a)) (a + 8) := by
  simp [Hw.walkTo, hfetch, hok, hkind]

/-- The 64 bits that an engine comes to are no header: a trap (R54). -/
theorem Hw.walkTo_bad {n a : Nat} (hfetch : ((h.core co).eng e).fetchOk a 8 = true)
    (hok : (Header.ofBits (((h.core co).eng e).headerBits a)).ok = false) :
    ∃ r : TrapRec, r.code = 0x61 ∧ h.walkTo co e (n + 1) a = h.engTrap co e r := by
  refine ⟨fetchRec co e ((h.core co).eng e) 0x61 a 0 false (detField 32 8 (((h.core co).eng e).headerBits a)), rfl, ?_⟩
  simp [Hw.walkTo, hfetch, hok]

end

theorem Header.ok_of_code {x : Header} (hkind : x.kind = 1) (hsec : x.sec ≠ 0) (hlen : x.len ≠ 0) : x.ok = true := by
  simp [Header.ok, hkind, hsec, hlen]

theorem Header.ok_eq_false {x : Header} (h : (x.kind ≠ 1 ∧ x.kind ≠ 2) ∨ x.sec = 0 ∨ x.len = 0) : x.ok = false := by
  rcases h with ⟨h1, h2⟩ | h | h
  · simp [Header.ok, h1, h2]
  · simp [Header.ok, h]
  · simp [Header.ok, h]

/-! ### The event -/

/-- An engine may act: its core runs a task and is neither stopped nor frozen, the engine comes in turn and is not done (R55). -/
def Core.Acts (k : Core) (e : EngId) : Prop :=
  k.task ≠ none ∧ k.stopped = false ∧ k.frozen = false ∧ k.inTurn e = true ∧ ((k.eng e).st = .issuing ∨ (k.eng e).st = .blocked)

section
variable {s : State} {co : CoreId} {e : EngId}

theorem Core.canAct_of_acts {k : Core} (h : k.Acts e) : k.canAct e = true := by
  obtain ⟨htask, hstop, hfrozen, hturn, hst⟩ := h
  have htask' : k.task.isSome = true := Option.isSome_iff_ne_none.mpr htask
  rcases hst with hst | hst <;> simp [Core.canAct, htask', hstop, hfrozen, hturn, hst]

theorem execSectionEntry_waits (h : (s.toHw.core co).Acts e) {c : Sect} (hsec : ((s.toHw.core co).eng e).sec = some c)
    (hout : c.entered = false) : execSectionEntry co e s = .next (s.upd (fun h => h.enterWaits co e c)) := by
  simp [execSectionEntry, Core.canAct_of_acts h, h.2.1, hsec, hout]

theorem execSectionEntry_walks (h : (s.toHw.core co).Acts e) (hsec : ((s.toHw.core co).eng e).sec = none)
    (hxfer : ((s.toHw.core co).eng e).xfer = none) : execSectionEntry co e s =
      .next (s.upd (fun h => h.walkTo co e (((s.toHw.core co).eng e).pcc.length / 20 + 1) ((s.toHw.core co).eng e).pc.toNat)) := by
  simp [execSectionEntry, Core.canAct_of_acts h, h.2.1, hsec, hxfer]

theorem State.upd_congr {f g : Hw → Hw} (h : f s.toHw = g s.toHw) : s.upd f = s.upd g := by rw [State.upd, State.upd, h]

/-- An act that traps an engine. -/
theorem engStops_of_eq {f : Hw → Hw} {code : Byte} (h : ∃ r : TrapRec, r.code = code ∧ f s.toHw = s.toHw.engTrap co e r) :
    EngStops s co e code (.next (s.upd f)) := by
  obtain ⟨r, hcode, heq⟩ := h
  exact ⟨r, hcode, congrArg _ (State.upd_congr heq)⟩

/-- An act that changes one engine. -/
theorem coreIs_onEng {f : Hw → Hw} {g : Eng → Eng} (h : f s.toHw = s.toHw.onEng co e g) :
    CoreIs s co ((s.toHw.core co).setEng e (g ((s.toHw.core co).eng e))) (.next (s.upd f)) := by
  rw [State.upd_congr (g := fun h => h.onEng co e g) h]
  exact coreIs_onCore s co _

/-- An engine at a section: it enters, traps, or is blocked, as its two waits say. -/
theorem sectionEntry_waits (hacts : (s.toHw.core co).Acts e) {c : Sect} (hsec : ((s.toHw.core co).eng e).sec = some c)
    (hout : c.entered = false) :
    let k := s.toHw.core co
    let x := k.eng (waitEngines e).1
    let y := k.eng (waitEngines e).2
    (x.retired c.wx = true → y.retired c.wy = true →
      CoreIs s co (k.setEng e { k.eng e with sec := some { c with entered := true }, st := .issuing }) (execSectionEntry co e s))
    ∧ ((x.retired c.wx = false ∧ x.st = .done) ∨ (y.retired c.wy = false ∧ y.st = .done) → EngStops s co e 0x61 (execSectionEntry co e s))
    ∧ (x.retired c.wx = false ∨ y.retired c.wy = false → (x.retired c.wx = false → x.st ≠ .done) →
      (y.retired c.wy = false → y.st ≠ .done) → CoreIs s co (k.setEng e { k.eng e with st := .blocked }) (execSectionEntry co e s)) := by
  rw [execSectionEntry_waits hacts hsec hout]
  exact ⟨fun hx hy => coreIs_onEng (g := Eng.enter c) (Hw.enterWaits_enters hx hy), fun h => engStops_of_eq (Hw.enterWaits_stuck h),
    fun h hx hy => coreIs_onEng (g := fun g => { g with st := .blocked }) (Hw.enterWaits_blocked h hx hy)⟩

/-- An engine at the header of a code section whose waits are satisfied stands behind it in the section. -/
theorem sectionEntry_enters (hacts : (s.toHw.core co).Acts e) (hsec : ((s.toHw.core co).eng e).sec = none)
    (hxfer : ((s.toHw.core co).eng e).xfer = none)
    (hfetch : ((s.toHw.core co).eng e).fetchOk ((s.toHw.core co).eng e).pc.toNat 8 = true) {x : Header}
    (hhdr : Header.ofBits (((s.toHw.core co).eng e).headerBits ((s.toHw.core co).eng e).pc.toNat) = x) (hok : x.ok = true)
    (hkind : x.kind = 1) (hx : ((s.toHw.core co).eng (waitEngines e).1).retired (BitVec.ofNat 16 x.wx) = true)
    (hy : ((s.toHw.core co).eng (waitEngines e).2).retired (BitVec.ofNat 16 x.wy) = true) :
    CoreIs s co ((s.toHw.core co).setEng e { (s.toHw.core co).eng e with
        sec := some ⟨((s.toHw.core co).eng e).pc.toNat, BitVec.ofNat 16 x.sec, x.len, BitVec.ofNat 16 x.wx, BitVec.ofNat 16 x.wy, true⟩
        pc := BitVec.ofNat 48 (((s.toHw.core co).eng e).pc.toNat + 8)
        st := .issuing }) (execSectionEntry co e s) := by
  subst hhdr
  rw [execSectionEntry_walks hacts hsec hxfer,
    State.upd_congr (g := fun h => (h.onEng co e _).onEng co e _) ((Hw.walkTo_code hfetch hok hkind).trans (Hw.reach_enters hx hy _ _))]
  refine ((coreIs_onCore s co (fun k => k.setEng e (Eng.stand _ _ (k.eng e)))).next (fun k => k.setEng e (Eng.enter _ (k.eng e)))).congr ?_
  rw [Core.setEng_setEng, Core.eng_setEng, Eng.enter_stand hxfer]
  rfl

theorem sectionEntry_bad (hacts : (s.toHw.core co).Acts e) (hsec : ((s.toHw.core co).eng e).sec = none)
    (hxfer : ((s.toHw.core co).eng e).xfer = none)
    (hfetch : ((s.toHw.core co).eng e).fetchOk ((s.toHw.core co).eng e).pc.toNat 8 = true)
    (hok : (Header.ofBits (((s.toHw.core co).eng e).headerBits ((s.toHw.core co).eng e).pc.toNat)).ok = false) :
    EngStops s co e 0x61 (execSectionEntry co e s) := by
  rw [execSectionEntry_walks hacts hsec hxfer]
  exact engStops_of_eq (Hw.walkTo_bad hfetch hok)

end

end Sys2Proof.Machine
end

section
/-! SUPPORT. What an engine at a header reads (R52-R55), and what a task's start makes of its core (R83, R165). -/

namespace Sys2Proof.Machine

/-! ### Fetching a header -/

theorem Eng.fetchOk_of {g : Eng} {a n : Nat} (htag : g.pcc.tag = true) (hspace : g.pcc.space = 5) (hex : g.pcc.has pEx = true)
    (hbase : g.pcc.base ≤ a) (htop : a + n ≤ g.pcc.top) (hlim : a + n ≤ 2 ^ 19) : g.fetchOk a n = true := by
  simp only [Eng.fetchOk, htag, hspace, hex, hbase, htop, hlim, decide_true, Bool.and_self, beq_self_eq_true]

/-! ### The start of a task -/

theorem Hw.onLaunch_of_some {h : Hw} {lid : Nat} {l : Launch} (hl : h.launch? lid = some l) (f : Launch → Launch) :
    h.onLaunch lid f = h.setLaunch (f l) := by rw [Hw.onLaunch, hl]

section
variable {h : Hw} {co : CoreId} {t : Task}

/-- The core as a task that starts finds it (R83, R165). -/
def Hw.startCore (h : Hw) (co : CoreId) (t : Task) (rest : List Task) (k : Core) : Core := { k with
  task := some t
  queue := rest
  used := true
  l := h.freshEngine co t .l
  cE := h.freshEngine co t .c
  s := h.freshEngine co t .s
  cu := { ft := Vector.ofFn (fun i => t.fts.getD i.val 0) }
  xq := Vector.replicate 4 []
  yq := Vector.replicate 4 []
  bq := []
  tokLog := []
  tok := Vector.ofFn (fun i => t.toks.getD i.val 0)
  nextid := Vector.replicate 16 1
  bind := Vector.replicate 16 none
  gone := []
  leaseRuns := 0
  leaseHeld := false
  leaseLeft := 0
  ph := 0 }

/-- A task of a launch that its core is prepared for starts: the core and the launch's record change, and nothing else. -/
theorem Hw.startTask_prepared {l : Launch} (hl : h.launch? t.lid = some l) (hlid : l.lid = t.lid)
    (hprep : (h.core co).prepFor = some t.lid) (rest : List Task) :
    h.startTask co t rest = (h.onCore co (h.startCore co t rest)).setLaunch (l.onRec t.task t.iter (fun r => { r with st := .running })) := by
  have hready : ((h.core co).prepFor == some l.lid) = true := by rw [hlid, hprep, beq_self_eq_true]
  have hkept : (h.onCore co (h.startCore co t rest)).launch? t.lid = some l := hl
  simp only [Hw.startTask, hl, hready, if_true]
  exact Hw.onLaunch_of_some hkept _

theorem Task.getD_caps_local (t : Task) (off len : Nat) :
    (t.caps off len).getD 8 {} = mkCap 1 (pLd ||| pSt ||| pLc ||| pSc) 0 (2 ^ 19) 0 := rfl

theorem Task.getD_caps_beyond (t : Task) (off len : Nat) {i : Nat} (hi : 10 ≤ i) : (t.caps off len).getD i {} = {} := by
  refine List.getD_eq_default _ _ ?_
  simpa [Task.caps] using hi

theorem Task.gregs_get (t : Task) (i : Fin 64) :
    t.gregs.get i = if 1 ≤ i.val ∧ i.val ≤ 6 then ⟨t.regs.getD (i.val - 1) 0, false⟩ else {} := by
  simp [Task.gregs]

/-- What both forms of an engine at task start share (R83). -/
theorem Hw.freshEngine_shared (e : EngId) :
    (h.freshEngine co t e).g = t.gregs ∧ (h.freshEngine co t e).p = Vector.replicate 8 {} ∧ (h.freshEngine co t e).lc = Vector.replicate 4 0
      ∧ (h.freshEngine co t e).ea = Vector.replicate 5 0 ∧ (h.freshEngine co t e).rsec = 0
      ∧ (h.freshEngine co t e).c = Vector.ofFn (fun i => (t.caps (t.windows.getD (EngId.role e) (0, 0)).1 (t.windows.getD (EngId.role e) (0, 0)).2).getD i.val {}) := by
  simp only [Hw.freshEngine]
  split <;> exact ⟨rfl, rfl, rfl, rfl, rfl, rfl⟩

theorem Hw.freshEngine_idle {e : EngId} (hstart : t.starts.getD (EngId.role e) none = none) : (h.freshEngine co t e).st = .done := by
  simp only [Hw.freshEngine, hstart]

theorem Hw.freshEngine_issuing {e : EngId} {o : Nat} (hstart : t.starts.getD (EngId.role e) none = some o) :
    (h.freshEngine co t e).st = .issuing
      ∧ (h.freshEngine co t e).pc = BitVec.ofNat 48 ((t.windows.getD (EngId.role e) (0, 0)).1 + o) := by
  simp only [Hw.freshEngine, hstart, and_self]

theorem Hw.freshEngine_local (e : EngId) :
    (h.freshEngine co t e).c.get 8 = mkCap 1 (pLd ||| pSt ||| pLc ||| pSc) 0 (2 ^ 19) 0 := by
  obtain ⟨-, -, -, -, -, hc⟩ := Hw.freshEngine_shared (h := h) (co := co) (t := t) e
  rw [hc, Vector.get_ofFn]
  exact t.getD_caps_local _ _

theorem Hw.freshEngine_beyond (e : EngId) {i : Fin 16} (hi : 10 ≤ i.val) : (h.freshEngine co t e).c.get i = {} := by
  obtain ⟨-, -, -, -, -, hc⟩ := Hw.freshEngine_shared (h := h) (co := co) (t := t) e
  rw [hc, Vector.get_ofFn]
  exact t.getD_caps_beyond _ _ hi

theorem Hw.eng_startCore (rest : List Task) (k : Core) (e : EngId) : (h.startCore co t rest k).eng e = h.freshEngine co t e := by
  cases e <;> rfl

end

section
variable {s : State} {co : CoreId} {t : Task} {rest : List Task} {l : Launch}

theorem execTaskStart_starts (hfree : (s.toHw.core co).task = none) (hstop : (s.toHw.core co).stopped = false)
    (hqueue : (s.toHw.core co).queue = t :: rest) (hcal : t.calib = false) :
    execTaskStart co s = .next (s.attempt (fun h => h.startTask co t rest)) := by
  simp [execTaskStart, hqueue, hfree, hstop, hcal]

/-- A task's start on a core prepared for its launch needs no route. -/
theorem State.attempt_startTask (hl : s.toHw.launch? t.lid = some l) (hlid : l.lid = t.lid)
    (hprep : (s.toHw.core co).prepFor = some t.lid) :
    s.attempt (fun h => h.startTask co t rest) = s.upd (fun h =>
      (h.onCore co (s.toHw.startCore co t rest)).setLaunch (l.onRec t.task t.iter (fun r => { r with st := .running }))) := by
  have hstart := Hw.startTask_prepared (h := s.toHw.atRest) hl hlid hprep rest
  rw [State.attempt_of_routed (by rw [hstart]; rfl), hstart]
  rfl

end

end Sys2Proof.Machine
end

section
/-! SUPPORT. What stands of a launch and of the cores' tasks while a task retires (R167, R323, R328). -/

namespace Sys2Proof.Machine

/-! ### Writes to global memory leave launches and tasks -/

/-- The launches, and the task that each core runs. -/
def Hw.work (h : Hw) : Tab Launch × (CoreId → Option Task) := (h.launches, fun co => (h.core co).task)

theorem Hw.work_onCore (h : Hw) (co : CoreId) {f : Core → Core} (hf : ∀ k, (f k).task = k.task) : (h.onCore co f).work = h.work := by
  refine Prod.ext rfl (funext fun d => ?_)
  by_cases hd : CoreId.key d = CoreId.key co
  · have hcore (h : Hw) : h.core d = h.core co := by rw [Hw.core, Hw.core, hd]
    show ((h.onCore co f).core d).task = (h.core d).task
    rw [hcore, hcore, Hw.core_onCore, hf]
  · show ((h.onCore co f).core d).task = (h.core d).task
    rw [Hw.onCore, Hw.core_setCore_other _ _ hd]

theorem Hw.work_onEng (h : Hw) (co : CoreId) (e : EngId) (f : Eng → Eng) : (h.onEng co e f).work = h.work := by
  rw [Hw.onEng]
  exact h.work_onCore co (fun k => k.setEng_task e _)

theorem Hw.work_wake (h : Hw) (co : CoreId) (e : EngId) (status : Nat) : (h.wake co e status).work = h.work := by
  rw [Hw.wake]
  exact h.work_onEng co e _

theorem Hw.work_releaseMonitors (h : Hw) (site status : Nat) (p : Monitor → Bool) : (h.releaseMonitors site status p).work = h.work := by
  rw [Hw.releaseMonitors, foldl_keeps Hw.work]
  · rfl
  · intro h m
    exact h.work_wake m.co m.eng status

theorem Hw.work_checkLine (h : Hw) (pa : Nat) (ecc : Ecc) : (h.checkLine pa ecc).2.work = h.work := by
  simp only [Hw.checkLine]
  split
  · rfl
  · split <;> rfl

theorem Hw.work_meetBar (h : Hw) (m : Master) (op : Nat) (pas : List Nat) : (h.meetBar m op pas).work = h.work := by
  simp only [Hw.meetBar]
  split <;> rfl

theorem Hw.work_reading (h : Hw) (m : Master) (pas : List Nat) : (h.reading m pas).work = h.work := by
  rw [Hw.reading, Hw.work_meetBar, foldl_keeps Hw.work (fun h pa => h.work_checkLine pa .clean)]

theorem Hw.work_writeLine (h : Hw) (pa : Nat) (bs : List Byte) (stamp : LineMeta) : (h.writeLine pa bs stamp).work = h.work := by
  rw [Hw.writeLine]
  have hcheck (b : Bool) : (if b = true then (true, ({ h with errs := tabDel (pa / 64) h.errs } : Hw)) else h.checkLine pa .clean).2.work
      = h.work := by
    split
    · rfl
    · exact h.work_checkLine pa .clean
  have hmark (c : Bool) (g : Hw) (f : LineMeta → LineMeta) : (if c = true then g.onLine pa f else g).work = g.work := by split <;> rfl
  specialize hcheck (decide (pa % 64 = 0) && decide (64 ≤ bs.length))
  generalize (if (decide (pa % 64 = 0) && decide (64 ≤ bs.length)) = true then (true, ({ h with errs := tabDel (pa / 64) h.errs } : Hw))
    else h.checkLine pa .clean) = r at hcheck ⊢
  obtain ⟨ok, g⟩ := r
  dsimp only at hcheck ⊢
  split
  · rw [hmark, hcheck]
  · rw [Hw.work_releaseMonitors]
    exact (hmark _ _ _).trans hcheck

theorem Hw.work_writeLines (h : Hw) (pa : Nat) (bs : List Byte) (stamp : LineMeta) : (h.writeLines pa bs stamp).work = h.work :=
  foldl_keeps Hw.work (fun h _ => h.work_writeLine _ _ _) _ h

theorem Hw.work_checkCuts (h : Hw) (cuts : List (Nat × Nat)) : (h.checkCuts cuts).work = h.work := by
  refine foldl_keeps Hw.work (fun h c => ?_) cuts h
  split
  · rfl
  · exact h.work_checkLine _ _

theorem Hw.work_writeAs (h : Hw) (m : Master) (pa : Nat) (bs : List Byte) : (h.writeAs m pa bs).work = h.work := by
  rw [Hw.writeAs]
  split
  · exact h.work_meetBar _ _ _
  · exact h.work_writeLine _ _ _

theorem Hw.work_onQuay (h : Hw) (q : Nat) (f : Quay → Quay) : (h.onQuay q f).work = h.work := rfl

theorem Hw.work_notify (h : Hw) (n : Nat) (v : BitVec 64) : (h.notify n v).work = h.work := by
  simp only [Hw.notify]
  split
  · rfl
  · exact (Hw.work_onQuay _ _ _).trans (h.work_writeAs _ _ _)

theorem Hw.work_writeBell (h : Hw) (m : Master) (pa : Nat) (bs : List Byte) : (h.writeBell m pa bs).2.work = h.work := by
  simp only [Hw.writeBell, Hw.bellWrite]
  split
  · split
    · exact h.work_notify _ _
    · rfl
  · rfl

theorem Hw.work_writeVa (h : Hw) (m : Master) (root va : Nat) (bs : List Byte) : (h.writeVa m root va bs).2.work = h.work := by
  simp only [Hw.writeVa]
  split
  · exact h.work_reading _ _
  · split
    · exact h.work_reading _ _
    · split
      · rw [foldl_keeps (fun r : Bool × Hw => r.2.work), Hw.work_reading]
        intro r p
        split
        · exact r.2.work_writeBell _ _ _
        · rfl
      · split
        · rw [Hw.work_meetBar, Hw.work_reading]
        · split
          · rw [Hw.work_checkCuts, Hw.work_reading]
          · rw [foldl_keeps Hw.work, Hw.work_checkCuts, Hw.work_reading]
            intro h p
            split
            · exact h.work_writeLines _ _ _
            · rfl

/-! ### The records of a launch -/

/-- A launch ID has its own launch, with these records. -/
def Hw.HasRecs (h : Hw) (lid : Nat) (recs : List TaskRec) : Prop := ∃ l, h.launch? lid = some l ∧ l.lid = lid ∧ l.recs = recs

/-- The task that a core runs, and the records of that task's launch. -/
def Hw.Runs (h : Hw) (co : CoreId) (t : Option Task) (lid : Nat) (recs : List TaskRec) : Prop :=
  (h.core co).task = t ∧ h.HasRecs lid recs

section
variable {h h' : Hw} {co : CoreId} {t : Option Task} {lid : Nat} {recs : List TaskRec}

theorem Hw.launch?_of_work (hw : h'.work = h.work) (lid : Nat) : h'.launch? lid = h.launch? lid :=
  congrArg (tabFind · lid) (congrArg Prod.fst hw)

theorem Hw.task_of_work (hw : h'.work = h.work) (co : CoreId) : (h'.core co).task = (h.core co).task :=
  congrFun (congrArg Prod.snd hw) co

theorem Hw.runs_of_work (hr : h.Runs co t lid recs) (hw : h'.work = h.work) : h'.Runs co t lid recs := by
  rw [Hw.Runs, Hw.HasRecs, Hw.task_of_work hw, Hw.launch?_of_work hw]
  exact hr

theorem Hw.hasRecs_onCore (f : Core → Core) : (h.onCore co f).HasRecs lid recs ↔ h.HasRecs lid recs := Iff.rfl

theorem Hw.runs_setLaunch {l : Launch} (htask : (h.core co).task = t) (hlid : l.lid = lid) (hrecs : l.recs = recs) :
    (h.setLaunch l).Runs co t lid recs :=
  ⟨htask, l, Hw.launch?_setLaunch _ hlid, hlid, hrecs⟩

theorem Hw.runs_logSlip (hr : h.Runs co t lid recs) (late task iter : Nat) (d : CoreId) (kind : Nat) :
    (h.logSlip lid late task iter d kind).Runs co t lid recs := by
  obtain ⟨htask, l, hl, hlid, hrecs⟩ := hr
  have hslip : (h.setLaunch { l with slipIdx := l.slipIdx + 1 }).Runs co t lid recs := Hw.runs_setLaunch htask hlid hrecs
  simp only [Hw.logSlip, hl]
  split
  · exact hslip
  · exact Hw.runs_of_work hslip (Hw.work_writeVa _ _ _ _ _)

theorem Hw.runs_checkDeadline {t' : Task} (hr : h.Runs co t t'.lid recs) (d : CoreId) : (h.checkDeadline d t').Runs co t t'.lid recs := by
  rw [Hw.checkDeadline]
  split
  · exact hr
  · split
    · exact hr
    · dsimp only
      split
      · exact Hw.runs_logSlip hr _ _ _ _ _
      · exact hr

theorem Hw.runs_advance {t' : Task} (hr : h.Runs co t t'.lid recs) (lv : Nat) : (h.advance co t' lv).Runs co t t'.lid recs := by
  rw [Hw.advance]
  split
  · exact Hw.runs_of_work hr (h.work_onCore co fun k => rfl)
  · obtain ⟨htask, l, hl, hlid, hrecs⟩ := hr
    rw [hl]
    exact Hw.runs_setLaunch htask hlid hrecs

theorem Hw.runs_settleBars {t' : Task} (hr : h.Runs co (some t') t'.lid recs) : (h.settleBars co).Runs co (some t') t'.lid recs := by
  have hfold (lvs : List Nat) (h : Hw) (hr : h.Runs co (some t') t'.lid recs) :
      (lvs.foldl (fun h lv => h.advance co t' lv) h).Runs co (some t') t'.lid recs := by
    induction lvs generalizing h with
    | nil => exact hr
    | cons lv lvs ih => exact ih _ (Hw.runs_advance hr lv)
  rw [Hw.settleBars, hr.1]
  exact hfold _ _ (Hw.runs_advance hr 1)

/-! ### Retirement -/

theorem Hw.work_closeEnds (h : Hw) (co : CoreId) : (h.closeEnds co).work = h.work := by
  rw [Hw.closeEnds]
  refine (Hw.work_onCore _ co ?_).trans (foldl_keeps Hw.work ?_ _ h)
  · intro k; rfl
  · intro h e; rfl

theorem Hw.work_onArr (h : Hw) (isle ins : Nat) (f : Arr → Arr) : (h.onArr isle ins f).work = h.work := rfl

theorem Hw.work_endRun (h : Hw) (co : CoreId) : (h.endRun co).work = h.work := by
  rw [Hw.endRun]
  refine (Hw.work_onArr _ _ _ _).trans (h.work_onCore co ?_)
  intro k; rfl

theorem Hw.work_dropLease (h : Hw) (co : CoreId) : (h.dropLease co).work = h.work := by
  simp only [Hw.dropLease]
  split
  · rw [Hw.work_endRun]
    rfl
  · rfl

theorem Hw.tick_closeEnds (h : Hw) (co : CoreId) : (h.closeEnds co).tick = h.tick := by
  rw [Hw.closeEnds]
  refine (foldl_keeps Hw.tick ?_ _ h : (List.foldl Hw.closeSide h _).tick = h.tick)
  intro h e; rfl

theorem Hw.tick_dropLease (h : Hw) (co : CoreId) : (h.dropLease co).tick = h.tick := by
  simp only [Hw.dropLease]
  split <;> rfl

/-- The records of a launch as a task's retirement leaves them (R167, R323). -/
def Launch.retiredRecs (l : Launch) (t : Task) (now : BitVec 64) : List TaskRec :=
  (l.onRec t.task t.iter (fun r => { r with st := .retired, at_ := now, nth := l.retires + 1 })).recs

/-- A task that retires leaves its launch's records so (R167, R323). -/
theorem Hw.hasRecs_retire {t : Task} {l : Launch} (htask : (h.core co).task = some t) (hl : h.launch? t.lid = some l)
    (hlid : l.lid = t.lid) : (h.retire co t).HasRecs t.lid (l.retiredRecs t h.tick) := by
  have hwork := (Hw.work_dropLease (h.closeEnds co) co).trans (h.work_closeEnds co)
  have htick := (Hw.tick_dropLease (h.closeEnds co) co).trans (h.tick_closeEnds co)
  have hlaunch := (Hw.launch?_of_work hwork t.lid).trans hl
  have htask' := (Hw.task_of_work hwork co).trans htask
  rw [Hw.retire, Hw.onLaunch_of_some hlaunch, htick, Hw.hasRecs_onCore]
  obtain ⟨-, hrecs⟩ := Hw.runs_settleBars (Hw.runs_checkDeadline (Hw.runs_setLaunch (recs := l.retiredRecs t h.tick)
    (l := { l.onRec t.task t.iter (fun r => { r with st := .retired, at_ := h.tick, nth := l.retires + 1 }) with retires := l.retires + 1 })
    htask' hlid rfl) co)
  exact hrecs

theorem Hw.core_retire (h : Hw) (co : CoreId) (t : Task) : ∃ k : Core, (h.retire co t).core co = k.vacate := by
  rw [Hw.retire, Hw.core_onCore]
  exact ⟨_, rfl⟩

theorem Core.st_vacate (k : Core) (e : EngId) : (k.vacate.eng e).st = .noTask := by cases e <;> rfl

theorem Launch.of_mem_retiredRecs {l : Launch} {t : Task} {now : BitVec 64} {r : TaskRec} (hr : r ∈ l.retiredRecs t now)
    (htask : r.task = t.task) (hiter : r.iter = t.iter) : r.st = .retired ∧ r.at_ = now := by
  obtain ⟨q, -, rfl⟩ := List.mem_map.mp hr
  by_cases hq : (q.task == t.task && q.iter == t.iter) = true
  · rw [if_pos hq]
    exact ⟨rfl, rfl⟩
  · rw [if_neg hq] at htask hiter
    exact absurd (by rw [htask, hiter, beq_self_eq_true, beq_self_eq_true, Bool.and_self]) hq

end

end Sys2Proof.Machine
end

section
/-! SUPPORT. The end of a task (R140, R167), and the tasks that an entry's release places (R319, R322). -/

namespace Sys2Proof.Machine

/-! ### The end of a task -/

theorem Core.leftOver_eq_some {k : Core} (h : (∃ q ∈ k.xq.toList, q ≠ []) ∨ (∃ q ∈ k.yq.toList, q ≠ []) ∨ k.bq ≠ []) :
    ∃ o i, k.leftOver = some (o, i) := by
  have hfound {α : Type} {qs : List (List α)} (h : ∃ q ∈ qs, q ≠ []) : qs.findIdx? (fun q => !q.isEmpty) ≠ none := by
    obtain ⟨q, hq, hne⟩ := h
    exact fun hnone => hne (by simpa using List.findIdx?_eq_none_iff.mp hnone q hq)
  rw [Core.leftOver]
  split
  · exact ⟨_, _, rfl⟩
  · exact ⟨_, _, rfl⟩
  · exact ⟨_, _, rfl⟩
  · next hx hy hb =>
    rcases h with h | h | h
    · exact absurd hx (hfound h)
    · exact absurd hy (hfound h)
    · exact absurd hb h

theorem Core.leftOver_eq_none {k : Core} (hx : ∀ q ∈ k.xq.toList, q = []) (hy : ∀ q ∈ k.yq.toList, q = []) (hb : k.bq = []) :
    k.leftOver = none := by
  have hnone {α : Type} {qs : List (List α)} (h : ∀ q ∈ qs, q = []) : qs.findIdx? (fun q => !q.isEmpty) = none :=
    List.findIdx?_eq_none_iff.mpr (fun q hq => by rw [h q hq]; rfl)
  rw [Core.leftOver, hnone hx, hnone hy, hb]

/-- A core's task has come to its end: the core is neither stopped nor frozen, and its engines are done (R167). -/
def Core.Ends (k : Core) (t : Task) : Prop :=
  k.task = some t ∧ k.stopped = false ∧ k.frozen = false ∧ k.l.st = .done ∧ k.cE.st = .done ∧ k.s.st = .done

section
variable {s : State} {co : CoreId} {t : Task}

theorem taskRetirement_stops (hends : (s.toHw.core co).Ends t) {o i : Nat} (hleft : (s.toHw.core co).leftOver = some (o, i)) :
    StopsWith s co 0x37 (execTaskRetirement co s) := by
  obtain ⟨htask, hstop, hfrozen, hl, hc, hs⟩ := hends
  refine ⟨(s.toHw.core co).leftRecord co t o i, rfl, ?_⟩
  simp [execTaskRetirement, Core.allDone, htask, hstop, hfrozen, hl, hc, hs, hleft]

theorem taskRetirement_retires (hends : (s.toHw.core co).Ends t) (hleft : (s.toHw.core co).leftOver = none)
    (hdrained : s.toHw.drained co = true) : execTaskRetirement co s = .next (s.attempt (fun h => h.retire co t)) := by
  obtain ⟨htask, hstop, hfrozen, hl, hc, hs⟩ := hends
  simp [execTaskRetirement, Core.allDone, htask, hstop, hfrozen, hl, hc, hs, hleft, hdrained]

end

/-! ### The release of an entry -/

theorem mem_insertTask {t u : Task} {q : List Task} : u ∈ insertTask t q ↔ u = t ∨ u ∈ q := by
  induction q with
  | nil => simp [insertTask]
  | cons v q ih =>
    rw [insertTask]
    split
    · exact List.mem_cons
    · rw [List.mem_cons, ih, List.mem_cons, or_left_comm]

theorem Launch.mem_recs_onRec {l : Launch} {task iter : Nat} {f : TaskRec → TaskRec} {q : TaskRec}
    (hq : q ∈ (l.onRec task iter f).recs) :
    ∃ r ∈ l.recs, q = if r.task = task ∧ r.iter = iter then f r else r := by
  obtain ⟨r, hr, rfl⟩ := List.mem_map.mp hq
  exact ⟨r, hr, by simp⟩

/-- The records of a task of a frame are queued. -/
def Launch.Queued (l : Launch) (task iter : Nat) : Prop := ∀ q ∈ l.recs, q.task = task → q.iter = iter → q.st = .queued

/-- A launch whose record of a task becomes queued. -/
def Launch.enqueue (l : Launch) (task iter : Nat) : Launch := l.onRec task iter (fun r => { r with st := .queued })

theorem Launch.queued_enqueue (l : Launch) (task iter : Nat) : (l.enqueue task iter).Queued task iter := by
  intro q hq htask hiter
  obtain ⟨r, -, rfl⟩ := Launch.mem_recs_onRec hq
  split at htask
  · next h => rw [if_pos h]
  · next h => rw [if_neg h] at hiter; exact absurd ⟨htask, hiter⟩ h

theorem Launch.Queued.enqueue {l : Launch} {task iter : Nat} (hl : l.Queued task iter) (task' iter' : Nat) :
    (l.enqueue task' iter').Queued task iter := by
  intro q hq htask hiter
  obtain ⟨r, hr, rfl⟩ := Launch.mem_recs_onRec hq
  split at htask <;> rename_i h
  · rw [if_pos h]
  · rw [if_neg h] at hiter ⊢
    exact hl r hr htask hiter

/-- A task placed in its core's queue, and the launch whose records say so. -/
def Hw.Placed (h : Hw) (lid : Nat) (t : Task) (co : CoreId) (task iter : Nat) : Prop :=
  t ∈ (h.core co).queue ∧ ∃ l, h.launch? lid = some l ∧ l.lid = lid ∧ l.Queued task iter

/-- One task takes its place (R322). -/
def Hw.placeTask (h : Hw) (l : Launch) (e : Entry) (r : TaskRec) : Hw :=
  (h.onCore r.co (fun k => { k with queue := insertTask (l.taskOf e r.task r.iter r.co) k.queue })).setLaunch (l.enqueue r.task r.iter)

theorem Hw.core_setLaunch (h : Hw) (l : Launch) (co : CoreId) : (h.setLaunch l).core co = h.core co := rfl

section
variable {h : Hw} {l : Launch} {lid : Nat} {e : Entry}

theorem Hw.core_queue_placeTask (r : TaskRec) {t : Task} (co : CoreId) (ht : t ∈ (h.core co).queue) :
    t ∈ ((h.placeTask l e r).core co).queue := by
  by_cases hco : CoreId.key co = CoreId.key r.co
  · have hcore (h : Hw) : h.core co = h.core r.co := by rw [Hw.core, Hw.core, hco]
    rw [hcore] at ht
    rw [hcore, Hw.placeTask, Hw.core_setLaunch, Hw.core_onCore]
    exact mem_insertTask.mpr (.inr ht)
  · rw [Hw.placeTask, Hw.core_setLaunch, Hw.onCore, Hw.core_setCore_other _ _ hco]
    exact ht

theorem Hw.placed_placeTask (hlid : l.lid = lid) (r : TaskRec) :
    (h.placeTask l e r).Placed lid (l.taskOf e r.task r.iter r.co) r.co r.task r.iter := by
  refine ⟨?_, l.enqueue r.task r.iter, Hw.launch?_setLaunch _ hlid, hlid, l.queued_enqueue _ _⟩
  rw [Hw.placeTask, Hw.core_setLaunch, Hw.core_onCore]
  exact mem_insertTask.mpr (.inl rfl)

theorem Hw.placeTasks_cons (hl : h.launch? lid = some l) {r : TaskRec} (hroom : h.queuedOn r.co.isle < 65536) (rest : List TaskRec) :
    h.placeTasks lid e (r :: rest) = (h.placeTask l e r).placeTasks lid e rest := by
  simp only [Hw.placeTasks, hl, if_neg (Nat.not_le.mpr hroom)]
  rfl

theorem Hw.placeTasks_full {r : TaskRec} (hroom : 65536 ≤ h.queuedOn r.co.isle) (rest : List TaskRec) :
    h.placeTasks lid e (r :: rest) = h := by
  simp only [Hw.placeTasks, if_pos hroom]

/-- A task that has its place keeps it while others are placed. -/
theorem Hw.Placed.placeTasks {t : Task} {co : CoreId} {task iter : Nat} (hp : h.Placed lid t co task iter) (rs : List TaskRec) :
    (h.placeTasks lid e rs).Placed lid t co task iter := by
  induction rs generalizing h with
  | nil => exact hp
  | cons r rs ih =>
    by_cases hroom : 65536 ≤ h.queuedOn r.co.isle
    · rw [Hw.placeTasks_full hroom]
      exact hp
    · obtain ⟨hmem, l, hl, hlid, hqueued⟩ := hp
      rw [Hw.placeTasks_cons hl (Nat.lt_of_not_le hroom)]
      exact ih ⟨Hw.core_queue_placeTask r co hmem, _, Hw.launch?_setLaunch _ hlid, hlid, hqueued.enqueue _ _⟩

theorem Hw.mem_placeTasks (h : Hw) (lid : Nat) (e : Entry) (rs : List TaskRec) : (h.placeTasks lid e rs).mem = h.mem := by
  induction rs generalizing h with
  | nil => rfl
  | cons r rs ih =>
    rw [Hw.placeTasks]
    split
    · rfl
    · split
      · rfl
      · exact ih _

end

theorem execEntryRelease_places {s : State} {lid ent : Nat} {l : Launch} {n : Entry} (hl : s.toHw.launch? lid = some l)
    (hent : l.ents[ent]? = some n) (hst : l.st = .frame) (habort : l.abort = false)
    (hdue : l.start.toNat + n.release ≤ s.tick.toNat) (hrel : s.toHw.released l n = true) :
    execEntryRelease lid ent s
      = .next (s.upd (fun h => h.placeTasks lid n (l.recs.filter (fun r => r.task == ent && r.st == .waiting)))) := by
  simp [execEntryRelease, hl, hent, hst, habort, hrel, Nat.not_lt.mpr hdue]

theorem filter_of_find? {α : Type} {p : α → Bool} {xs : List α} {a : α} (h : xs.find? p = some a) : ∃ rest, xs.filter p = a :: rest := by
  rw [← List.head?_filter] at h
  exact ⟨_, List.eq_cons_of_mem_head? h⟩

/-! ### The five acts -/

/-- A wait W on an engine is not satisfied (R55). -/
theorem Eng.retired_eq_false_iff {g : Eng} {w : BitVec 16} :
    g.retired w = false ↔ ¬(w = 0 ∨ (g.rsec ≠ 0 ∧ (g.rsec - w).toNat < 2 ^ 15)) := by
  rw [← Eng.retired_iff, Bool.not_eq_true]

theorem taskStart_starts {s : State} {co : CoreId} {t : Task} {rest : List Task} {l : Launch} (hfree : (s.toHw.core co).task = none)
    (hstop : (s.toHw.core co).stopped = false) (hqueue : (s.toHw.core co).queue = t :: rest) (hcal : t.calib = false)
    (hl : s.toHw.launch? t.lid = some l) (hlid : l.lid = t.lid) (hprep : (s.toHw.core co).prepFor = some t.lid) :
    ∃ u : State, execTaskStart co s = .next u ∧ u.toHw.core co = s.toHw.startCore co t rest (s.toHw.core co)
      ∧ u.toHw.launch? t.lid = some (l.onRec t.task t.iter (fun r => { r with st := .running }))
      ∧ (∀ a, memRead u.mem a = memRead s.mem a) ∧ ∀ d, CoreId.key d ≠ CoreId.key co → u.toHw.core d = s.toHw.core d := by
  refine ⟨_, (execTaskStart_starts hfree hstop hqueue hcal).trans (congrArg _ (State.attempt_startTask hl hlid hprep)),
    ?_, Hw.launch?_setLaunch _ hlid, fun a => rfl, fun d hd => ?_⟩
  · exact (Hw.core_setLaunch _ _ _).trans (Hw.core_onCore _ _ _)
  · exact (Hw.core_setLaunch _ _ _).trans (Hw.core_setCore_other _ _ hd)

/-- An act that needs routes and has them leaves the cores and launches that it makes (R15, log entry 107). -/
theorem State.attempt_makes {s : State} {f : Hw → Hw} (h : s.Routed f) :
    (∀ co, (s.attempt f).toHw.core co = (f s.toHw.atRest).core co) ∧ (s.attempt f).toHw.launches = (f s.toHw.atRest).launches := by
  rw [State.attempt_of_routed h]
  exact ⟨fun co => rfl, rfl⟩

/-- A task that retires leaves its core without a task, and its record retired at the tick. -/
theorem taskRetirement_leaves {s : State} {co : CoreId} {t : Task} (hends : (s.toHw.core co).Ends t)
    (hleft : (s.toHw.core co).leftOver = none) (hdrained : s.toHw.drained co = true) (hrouted : s.Routed (fun h => h.retire co t)) :
    ∃ u : State, execTaskRetirement co s = .next u ∧ (∃ k : Core, u.toHw.core co = k.vacate)
      ∧ ∀ l, s.toHw.launch? t.lid = some l → l.lid = t.lid → u.toHw.HasRecs t.lid (l.retiredRecs t s.tick) := by
  obtain ⟨hcores, hlaunches⟩ := State.attempt_makes hrouted
  refine ⟨_, taskRetirement_retires hends hleft hdrained, ?_, fun l hl hlid => ?_⟩
  · rw [hcores]
    exact Hw.core_retire s.toHw.atRest co t
  · rw [Hw.HasRecs, Hw.launch?, hlaunches]
    exact Hw.hasRecs_retire (h := s.toHw.atRest) hends.1 hl hlid

/-- A due entry whose predecessors have retired places its first waiting task (R319, R322). -/
theorem entryRelease_places {s : State} {lid ent : Nat} {l : Launch} {n : Entry} {r : TaskRec} (hl : s.toHw.launch? lid = some l)
    (hlid : l.lid = lid) (hent : l.ents[ent]? = some n) (hst : l.st = .frame) (habort : l.abort = false)
    (hdue : l.start.toNat + n.release ≤ s.tick.toNat) (hrel : s.toHw.released l n = true)
    (hfind : l.recs.find? (fun r => r.task == ent && r.st == .waiting) = some r) (hroom : s.toHw.queuedOn r.co.isle < 65536) :
    ∃ u : State, execEntryRelease lid ent s = .next u
      ∧ u.toHw.Placed lid (l.taskOf n r.task r.iter r.co) r.co r.task r.iter ∧ u.mem = s.mem := by
  obtain ⟨rest, hfilter⟩ := filter_of_find? hfind
  rw [execEntryRelease_places hl hent hst habort hdue hrel, hfilter]
  refine ⟨_, rfl, ?_, Hw.mem_placeTasks _ _ _ _⟩
  have hfirst := Hw.placeTasks_cons (e := n) hl hroom rest
  exact (congrArg (fun h => Hw.Placed h lid _ _ _ _) hfirst).mpr ((Hw.placed_placeTask hlid r).placeTasks rest)

/-- Settles O46: each act happens as a whole on the units that it names, and later steps of it keep what earlier ones made. -/
theorem sectionsAndTasks : Obligations.SectionsAndTasks := by
  intro s co e lid ent k g x y met acts v
  have hmet (p : Eng) (w : BitVec 16) : met p w → p.retired w = true := Eng.retired_iff.mpr
  have hunmet (p : Eng) (w : BitVec 16) : ¬met p w → p.retired w = false := Eng.retired_eq_false_iff.mpr
  have hmet' (p : Eng) (w : BitVec 16) : p.retired w = false → ¬met p w := Eng.retired_eq_false_iff.mp
  refine ⟨?_, ?_, ?_, ?_, ?_⟩
  · intro c hacts hsec hout
    obtain ⟨henters, hstuck, hblocked⟩ := sectionEntry_waits (s := s) (co := co) (e := e) hacts hsec hout
    refine ⟨fun hx hy => henters (hmet _ _ hx) (hmet _ _ hy), fun h => hstuck ?_, fun h hx hy => hblocked ?_ ?_ ?_⟩
    · exact h.imp (And.imp_left (hunmet _ _)) (And.imp_left (hunmet _ _))
    · exact h.imp (hunmet _ _) (hunmet _ _)
    · exact fun hw => hx (hmet' _ _ hw)
    · exact fun hw => hy (hmet' _ _ hw)
  · intro hacts hsec hxfer htag hspace hex hbase htop hlim
    have hfetch : g.fetchOk g.pc.toNat 8 = true := Eng.fetchOk_of htag hspace hex hbase htop hlim
    refine ⟨fun hkind hsecNo hlen hx hy => ?_, fun hbad => ?_⟩
    · exact ⟨_, rfl, rfl, rfl, rfl, sectionEntry_enters hacts hsec hxfer hfetch (x := Header.ofBits v) rfl
        (Header.ok_of_code hkind hsecNo hlen) hkind (hmet _ _ hx) (hmet _ _ hy)⟩
    · exact sectionEntry_bad hacts hsec hxfer hfetch (Header.ok_eq_false hbad)
  · intro t rest l hfree hstop hqueue hcal hl hlid hprep
    obtain ⟨u, hu, hcore, hlaunch, hmem, hothers⟩ := taskStart_starts (co := co) hfree hstop hqueue hcal hl hlid hprep
    refine ⟨u, _, _, hu, hcore, hlaunch, hmem, hothers, rfl, rfl, ?_, ?_, rfl, rfl, rfl, rfl, rfl, rfl, rfl, rfl, ?_⟩
    · simp [Launch.onRec]
    · intro i
      exact ⟨Vector.get_ofFn _ _, Vector.get_ofFn _ _⟩
    · intro r
      obtain ⟨hg, hp, hlc, hea, hrsec, -⟩ := Hw.freshEngine_shared (h := s.toHw) (co := co) (t := t) r
      simp only [Hw.eng_startCore]
      exact ⟨fun i => by rw [hg]; exact t.gregs_get i, hp, hlc, hea, hrsec, Hw.freshEngine_local r,
        fun i hi => Hw.freshEngine_beyond r hi, Hw.freshEngine_idle, fun o ho => Hw.freshEngine_issuing ho⟩
  · intro t htask hstop hfrozen hL hC hS
    have hends : k.Ends t := ⟨htask, hstop, hfrozen, hL, hC, hS⟩
    refine ⟨fun hleft => ?_, fun hx hy hb hdrained hrouted => ?_⟩
    · obtain ⟨o, i, hleft⟩ := Core.leftOver_eq_some hleft
      exact taskRetirement_stops hends hleft
    · obtain ⟨u, hu, ⟨k', hk'⟩, hrecs⟩ := taskRetirement_leaves hends (Core.leftOver_eq_none hx hy hb) hdrained hrouted
      refine ⟨u, hu, congrArg Core.task hk', fun r => by rw [hk']; exact k'.st_vacate r, fun l hl hlid => ?_⟩
      obtain ⟨l', hl', -, hrecs⟩ := hrecs l hl hlid
      exact ⟨l', hl', fun r hr => Launch.of_mem_retiredRecs (hrecs ▸ hr)⟩
  · intro l n r hl hlid hent hst habort hdue hrel hfind hroom
    obtain ⟨u, hu, ⟨hqueue, l', hl', -, hqueued⟩, hmem⟩ := entryRelease_places hl hlid hent hst habort hdue hrel hfind hroom
    exact ⟨u, l', hu, hl', hqueue, hqueued, fun a => by rw [hmem]⟩

end Sys2Proof.Machine
end

section
/-! SUPPORT. Accesses to own local memory that do not pass: the traps of R81, of alignment, of poison marks and of barrier slots in
their order, and what every scalar and vector load or store makes of them (R81, R147, R148, R302, R303). -/

namespace Sys2Proof.Machine

/-! ### Checks that stop with a trap -/

/-- A check that stops with a trap of a code. -/
def TrapsWith {α : Type} (code : Byte) (x : Chk α) : Prop := ∃ t : TrapInfo, x = .error (.trap t) ∧ t.code = code

theorem trapsWith_trapWith {α : Type} (code : Byte) (addr : Nat) (detail : BitVec 256) :
    TrapsWith code (trapWith code addr detail : Chk α) := ⟨_, rfl, rfl⟩

theorem trapsWith_trapIf {b : Bool} (h : b = true) (code : Byte) (addr : Nat) (detail : BitVec 256) :
    TrapsWith code (trapIf b code addr detail) := by
  rw [trapIf_true h]
  exact trapsWith_trapWith code addr detail

/-- What follows a check that traps is not reached. -/
theorem TrapsWith.bind {α β : Type} {code : Byte} {x : Chk α} (h : TrapsWith code x) (f : α → Chk β) : TrapsWith code (x >>= f) := by
  obtain ⟨t, rfl, hcode⟩ := h
  exact ⟨t, rfl, hcode⟩

/-- A check that passes leaves the trap to what follows. -/
theorem TrapsWith.of_ok {α β : Type} {code : Byte} {x : Chk α} {a : α} {f : α → Chk β} (hx : x = .ok a) (h : TrapsWith code (f a)) :
    TrapsWith code (x >>= f) := by
  rw [hx, ok_bind]
  exact h

/-- An instruction whose checks trap takes the trap. -/
theorem TrapsWith.traps {code : Byte} {x : Chk State} (h : TrapsWith code x) (s : State) : Traps s code (settle s x) := by
  obtain ⟨t, rfl, rfl⟩ := h
  exact traps_raise s t

theorem State.trapsWith_gUse {s : State} {r : BitVec 6} (h : (s.g r).psn = true) : TrapsWith 0x31 (s.gUse r) := by
  rw [State.gUse_poison h]
  exact trapsWith_trapWith _ _ _

theorem State.trapsWith_vUse {s : State} {r : BitVec 6} (h : (s.v r).psn ≠ 0) : TrapsWith 0x31 (s.vUse r) := by
  simp only [State.vUse, bne_iff_ne, ne_eq, h, not_false_eq_true, if_true]
  exact trapsWith_trapWith _ _ _

theorem State.trapsWith_checkMark {s : State} {a n : Nat} (h : ¬s.Unmarked a n) : TrapsWith 0x31 (s.checkMark a n) := by
  obtain ⟨k, hk⟩ := Option.ne_none_iff_exists'.mp h
  rw [State.checkMark, hk]
  exact trapsWith_trapWith _ _ _

theorem State.trapsWith_checkSlot {s : State} {a n : Nat} (h : ¬s.NoSlot a n) : TrapsWith 0x33 (s.checkSlot a n) := by
  obtain ⟨e, he⟩ := Option.ne_none_iff_exists'.mp h
  rw [State.checkSlot, he]
  exact trapsWith_trapWith _ _ _

/-! ### The checks of R81 that fail -/

section
variable {x : CReg} {spaces : List Nat} {need : BitVec 12} {ea : Int} {n : Nat}

theorem trapsWith_checkUse_tag (htag : x.tag = false) (reg : Nat) : TrapsWith 0x10 (checkUse reg x spaces need ea n) :=
  (trapsWith_trapIf (by rw [htag]; rfl) _ _ _).bind _

theorem trapsWith_checkUse_space (htag : x.tag = true) (hspace : x.space ∉ spaces) (reg : Nat) :
    TrapsWith 0x13 (checkUse reg x spaces need ea n) :=
  .of_ok (trapIf_false (by rw [htag]; rfl) _ _ _) ((trapsWith_trapIf (by simpa using hspace) _ _ _).bind _)

/-- In a space other than 7 the permissions that are needed are the access's own (R80). -/
theorem trapsWith_checkUse_perm (htag : x.tag = true) (hspace : x.space ∈ spaces) (h7 : 7 ∉ spaces) (hperm : x.has need = false)
    (reg : Nat) : TrapsWith 0x12 (checkUse reg x spaces need ea n) := by
  have hne : x.space ≠ 7 := fun h => h7 (h ▸ hspace)
  refine .of_ok (trapIf_false (by rw [htag]; rfl) _ _ _) (.of_ok (trapIf_false (by simpa using hspace) _ _ _) ?_)
  exact trapsWith_trapIf (by rw [if_neg hne, hperm]; rfl) _ _ _

theorem checkUse_ok (htag : x.tag = true) (hspace : x.space ∈ spaces) (h7 : 7 ∉ spaces) (hperm : x.has need = true) (reg : Nat) :
    checkUse reg x spaces need ea n = .ok () := by
  have hne : x.space ≠ 7 := fun h => h7 (h ▸ hspace)
  rw [checkUse, trapIf_false (by rw [htag]; rfl), ok_bind, trapIf_false (by simpa using hspace), ok_bind,
    trapIf_false (by rw [if_neg hne, hperm]; rfl)]

theorem trapsWith_checkCap_bounds (htag : x.tag = true) (hspace : x.space ∈ spaces) (h7 : 7 ∉ spaces) (hperm : x.has need = true)
    (hout : ea < x.base ∨ (x.top : Int) < ea + n) (reg : Nat) : TrapsWith 0x11 (checkCap reg x spaces need ea n) :=
  .of_ok (checkUse_ok htag hspace h7 hperm reg) (trapsWith_trapIf (by simpa using hout) _ _ _)

end

/-! ### The address of an access -/

section
variable {s : State} {cb : BitVec 4} {x : BitVec 6} {sc : BitVec 3} {off : BitVec 32} {spaces : List Nat} {need : BitVec 12}
  {n align : Nat}

/-- The effective address of the M format, formed exactly (R147). -/
def State.mEa (s : State) (cb : BitVec 4) (x : BitVec 6) (sc : BitVec 3) (off : BitVec 32) : Int :=
  ((s.c cb).cursor : Int) + off.toInt + (s.g x).bits.toInt * 2 ^ sc.toNat

theorem State.trapsWith_localAddr_poison (h : (s.g x).psn = true) :
    TrapsWith 0x31 (s.localAddr cb x sc off spaces need n align) :=
  ((State.trapsWith_gUse h).bind _).bind _

/-- Where R81 stops the access, the address does. -/
theorem State.trapsWith_localAddr_checkCap {code : Byte} (hpsn : (s.g x).psn = false)
    (h : TrapsWith code (checkCap cb.toNat (s.c cb) spaces need (s.mEa cb x sc off) n)) :
    TrapsWith code (s.localAddr cb x sc off spaces need n align) :=
  .of_ok (State.mAddr_ok hpsn) ((h.bind _).bind _)

theorem State.Reaches.aligned {a : Nat} (h : s.Reaches cb x sc off spaces need n align a) : a % align = 0 := by
  obtain ⟨-, -, -, -, hal⟩ := h
  exact hal

theorem State.Reaches.localAddr_own {a : Nat} (h : s.Reaches cb x sc off [1] need n align a) :
    s.localAddr cb x sc off [1] need n align = .ok a :=
  State.localAddr_ok h (by decide)

/-- An access that passes R81 at an offset that is no multiple of its alignment (R147). -/
theorem State.trapsWith_localAddr_align {a : Nat} (h : s.Reaches cb x sc off spaces need n 1 a) (h6 : 6 ∉ spaces) (hal : a % align ≠ 0) :
    TrapsWith 0x11 (s.localAddr cb x sc off spaces need n align) := by
  obtain ⟨hpsn, hea, hallow, hin, -⟩ := h
  refine .of_ok (State.mAddr_ok hpsn) (.of_ok (a := a) ?_ ((trapsWith_trapIf (by simpa using hal) _ _ _).bind _))
  rw [hea]
  exact checkOwn_ok hallow h6 hin _

end

/-! ### Loads and stores -/

section
variable (s : State) (cb : BitVec 4) (x : BitVec 6) (sc : BitVec 3) (off : BitVec 32)

/-- The checks of R81 on the `n` bytes of an access, and then of its alignment, as the statement of R147 orders them. -/
def State.StopsInOrder (o : Out) (n al : Nat) (spaces : List Nat) (need : BitVec 12) : Prop :=
  ((s.g x).psn = true → Traps s 0x31 o)
  ∧ ((s.g x).psn = false → (s.c cb).tag = false → Traps s 0x10 o)
  ∧ ((s.g x).psn = false → (s.c cb).tag = true → (s.c cb).space ∉ spaces → Traps s 0x13 o)
  ∧ ((s.g x).psn = false → (s.c cb).tag = true → (s.c cb).space ∈ spaces → (s.c cb).has need = false → Traps s 0x12 o)
  ∧ ((s.g x).psn = false → (s.c cb).tag = true → (s.c cb).space ∈ spaces → (s.c cb).has need = true →
      s.mEa cb x sc off < (s.c cb).base ∨ ((s.c cb).top : Int) < s.mEa cb x sc off + n → Traps s 0x11 o)
  ∧ ∀ a, s.Reaches cb x sc off spaces need n 1 a → a % al ≠ 0 → Traps s 0x11 o

/-- An instruction that forms its address first stops where the address does. -/
theorem State.stopsInOrder_localAddr {spaces : List Nat} (h6 : 6 ∉ spaces) (h7 : 7 ∉ spaces) (need : BitVec 12) (n al : Nat)
    (f : Nat → Chk State) :
    s.StopsInOrder cb x sc off (settle s (s.localAddr cb x sc off spaces need n al >>= f)) n al spaces need := by
  have hstop {code : Byte} (h : TrapsWith code (s.localAddr cb x sc off spaces need n al)) :
      Traps s code (settle s (s.localAddr cb x sc off spaces need n al >>= f)) := (h.bind f).traps s
  refine ⟨fun hpsn => hstop (State.trapsWith_localAddr_poison hpsn), fun hpsn htag => hstop ?_, fun hpsn htag hspace => hstop ?_,
    fun hpsn htag hspace hperm => hstop ?_, fun hpsn htag hspace hperm hout => hstop ?_,
    fun a hreach hal => hstop (State.trapsWith_localAddr_align hreach h6 hal)⟩
  · exact State.trapsWith_localAddr_checkCap hpsn ((trapsWith_checkUse_tag htag _).bind _)
  · exact State.trapsWith_localAddr_checkCap hpsn ((trapsWith_checkUse_space htag hspace _).bind _)
  · exact State.trapsWith_localAddr_checkCap hpsn ((trapsWith_checkUse_perm htag hspace h7 hperm _).bind _)
  · exact State.trapsWith_localAddr_checkCap hpsn (trapsWith_checkCap_bounds htag hspace h7 hperm hout _)

/-- The outcome is that of a load of `n` bytes from own memory: its address is formed and checked before anything else. -/
def State.LoadsFirst (y : Out × Nat × Nat × List Nat) : Prop :=
  ∃ f : Nat → Chk State, y.1 = settle s (s.loadAddr cb x sc off y.2.2.2 y.2.1 y.2.2.1 >>= f) ∧ 6 ∉ y.2.2.2 ∧ 7 ∉ y.2.2.2

/-- The outcome is that of a store of `n` bytes to own memory: its address is formed and checked, then its data is tested for poison,
then its place for a barrier's slot. -/
def State.StoresFirst (y : Out × Nat × Nat × Bool) : Prop :=
  ∃ (α : Type) (use : Chk α) (f : Nat → α → Chk State),
    y.1 = settle s (s.localAddr cb x sc off [1] pSt y.2.1 y.2.2.1 >>= fun a => use >>= fun v => s.checkSlot a y.2.1 >>= fun _ => f a v)
    ∧ (y.2.2.2 = true → TrapsWith 0x31 use) ∧ (y.2.2.2 = false → ∃ v, use = .ok v)

variable {s cb x sc off}

theorem State.LoadsFirst.stops {o : Out} {n al : Nat} {spaces : List Nat} (h : s.LoadsFirst cb x sc off (o, n, al, spaces)) :
    s.StopsInOrder cb x sc off o n al spaces pLd
    ∧ ∀ a, s.Reaches cb x sc off spaces pLd n al a → ¬s.Unmarked a n → Traps s 0x31 o := by
  obtain ⟨f, ho, h6, h7⟩ := h
  dsimp only at ho h6 h7
  rw [ho, State.loadAddr, bind_assoc]
  refine ⟨s.stopsInOrder_localAddr cb x sc off h6 h7 pLd n al _, fun a hreach hmark => TrapsWith.traps ?_ s⟩
  refine .of_ok (State.localAddr_ok hreach h6) ?_
  exact ((State.trapsWith_checkMark hmark).bind _).bind f

theorem State.StoresFirst.stops {o : Out} {n al : Nat} {psn : Bool} (h : s.StoresFirst cb x sc off (o, n, al, psn)) :
    s.StopsInOrder cb x sc off o n al [1] pSt
    ∧ ∀ a, s.Reaches cb x sc off [1] pSt n al a →
        (psn = true → Traps s 0x31 o) ∧ (psn = false → ¬s.NoSlot a n → Traps s 0x33 o) := by
  obtain ⟨α, use, f, ho, hpoison, hclean⟩ := h
  dsimp only at ho hpoison hclean
  rw [ho]
  refine ⟨s.stopsInOrder_localAddr cb x sc off (by decide) (by decide) pSt n al _, fun a hreach =>
    ⟨fun hpsn => ?_, fun hpsn hslot => ?_⟩⟩
  · exact TrapsWith.traps (.of_ok hreach.localAddr_own ((hpoison hpsn).bind _)) s
  · obtain ⟨v, hv⟩ := hclean hpsn
    exact TrapsWith.traps (.of_ok hreach.localAddr_own (.of_ok hv ((State.trapsWith_checkSlot hslot).bind _))) s

/-- Scalar data of a store is tested for poison. -/
theorem storesFirst_storeG (d : BitVec 6) (n : Nat) : s.StoresFirst cb x sc off (storeG d cb x sc off n s, n, n, (s.g d).psn) :=
  ⟨Word, s.gUse d, _, rfl, State.trapsWith_gUse, fun h => ⟨_, State.gUse_ok h⟩⟩

theorem storesFirst_execVst (d : BitVec 6) : s.StoresFirst cb x sc off (execVst d cb x sc off s, 128, 16, (s.v d).psn != 0) :=
  ⟨VReg, s.vUse d, _, rfl, fun h => State.trapsWith_vUse (by simpa using h), fun h => ⟨_, State.vUse_ok (by simpa using h)⟩⟩

end

/-- Settles O30: every load begins with its address and mark, every store with its address, its data and its place, and each of these
checks stops the instruction where it fails. That alignment, poisoned data and a barrier's slot come after R81 in this order
is the model's choice (log entry 19), as is that ld and ldfe reach space 5 (log entry 16). -/
theorem localAccessTraps : Obligations.LocalAccessTraps := by
  intro s d x cb sc off c ea loads stores checks
  have hloads : ∀ y ∈ loads, s.LoadsFirst cb x sc off y := by
    simp only [loads, List.forall_mem_cons, exec_ldS8, exec_ldZ8, exec_ldS16, exec_ldZ16, exec_ldS32, exec_ldZ32, exec_ld64, exec_ldfeW,
      exec_ldfeC, exec_vld, exec_vldBc, exec_vldfeW, exec_vldfeC]
    have one : 6 ∉ [1] ∧ 7 ∉ [1] := by decide
    have both : 6 ∉ [1, 5] ∧ 7 ∉ [1, 5] := by decide
    exact ⟨⟨_, rfl, both⟩, ⟨_, rfl, both⟩, ⟨_, rfl, both⟩, ⟨_, rfl, both⟩, ⟨_, rfl, both⟩, ⟨_, rfl, both⟩, ⟨_, rfl, both⟩,
      ⟨_, rfl, both⟩, ⟨_, rfl, both⟩, ⟨_, rfl, one⟩, ⟨_, rfl, one⟩, ⟨_, rfl, one⟩, ⟨_, rfl, one⟩, List.forall_mem_nil _⟩
  have hstores : ∀ y ∈ stores, s.StoresFirst cb x sc off y := by
    simp only [stores, List.forall_mem_cons, exec_st8, exec_st16, exec_st32, exec_st64, exec_vst]
    exact ⟨storesFirst_storeG d 1, storesFirst_storeG d 2, storesFirst_storeG d 4, storesFirst_storeG d 8, storesFirst_execVst d,
      List.forall_mem_nil _⟩
  exact ⟨fun o n al spaces h => (hloads _ h).stops, fun o n al psn h => (hstores _ h).stops⟩

end Sys2Proof.Machine
end

section
/-! SUPPORT. Numbers of bytes, sets of granules, what a store writes, and one capability moved between a register and memory (R4, R82, R87,
R146-R148). -/

namespace Sys2Proof.Machine

/-! ### Numbers of bytes -/

/-- A little-endian number is the sum of its bytes by their weights (R4). -/
theorem leNat_map_range (f : Nat → Byte) (n : Nat) :
    leNat ((List.range n).map f) = ((List.range n).map (fun i => 256 ^ i * (f i).toNat)).sum := by
  induction n generalizing f with
  | zero => rfl
  | succ n ih =>
    have htail : ((List.range n).map (fun i => 256 ^ (i + 1) * (f (i + 1)).toNat)).sum
        = 256 * ((List.range n).map (fun i => 256 ^ i * (f (i + 1)).toNat)).sum := by
      rw [← List.sum_map_mul_left]
      exact congrArg List.sum (List.map_congr_left fun i _ => by rw [Nat.pow_succ', Nat.mul_assoc])
    simp only [List.range_succ_eq_map, List.map_cons, List.map_map, List.sum_cons, leNat, Function.comp_def, Nat.succ_eq_add_one]
    rw [ih, htail, Nat.pow_zero, Nat.one_mul]

theorem Hw.num_eq_sum (h : Hw) (k n : Nat) :
    h.num k n = ((List.range n).map (fun i => 256 ^ i * (memRead h.mem (k + i)).toNat)).sum :=
  leNat_map_range _ n

/-- Extending the sign of a number cut to `w` bits (R148). -/
theorem signExtend_ofNat (w v : Nat) : (BitVec.ofNat w v).signExtend 64 = BitVec.ofInt 64 ((v : Int).bmod (2 ^ w)) := by
  rw [BitVec.signExtend, BitVec.toInt_ofNat']

/-- A byte of a number is a byte of its bits. -/
theorem ofNat_div_pow {w : Nat} (v : BitVec w) (i : Nat) : BitVec.ofNat 8 (v.toNat / 256 ^ i) = v.extractLsb' (8 * i) 8 := by
  refine BitVec.eq_of_toNat_eq ?_
  rw [BitVec.toNat_ofNat, BitVec.extractLsb'_toNat, Nat.shiftRight_eq_div_pow, Nat.pow_mul]

/-- The number of eight bytes, byte by byte. -/
theorem Hw.ofNat_num_eight (h : Hw) (k : Nat) :
    BitVec.ofNat 64 (h.num k 8) = (memRead h.mem (k + 7) ++ memRead h.mem (k + 6) ++ memRead h.mem (k + 5) ++ memRead h.mem (k + 4)
      ++ memRead h.mem (k + 3) ++ memRead h.mem (k + 2) ++ memRead h.mem (k + 1) ++ memRead h.mem k : BitVec 64) := by
  have hbit (b i : Nat) (hb : b < 8) (hi : i < 8) :
      (BitVec.ofNat 64 (h.num k 8)).getLsbD (8 * b + i) = (memRead h.mem (k + b)).getLsbD i := by
    have hlen : b < (h.bytes k 8).length := by simpa [Hw.bytes, memReadN] using hb
    rw [BitVec.getLsbD_ofNat, Hw.num, leNat_testBit _ b i hlen hi, decide_eq_true (by omega), Bool.true_and]
    simp [Hw.bytes, memReadN]
  refine BitVec.eq_of_getLsbD_eq fun i hi => ?_
  rw [show i = 8 * (i / 8) + i % 8 by omega, hbit _ _ (by omega) (by omega)]
  simp only [BitVec.getLsbD_append]
  split_ifs <;> (congr 2 <;> omega)

/-! ### Sets of numbers -/

theorem setHas_setAdd (k j : Nat) (l : List Nat) : setHas (setAdd k l) j = if j = k then true else setHas l j := by
  have hmem : j ∈ setAdd k l ↔ j = k ∨ j ∈ l := by
    induction l with
    | nil => simp [setAdd]
    | cons i l ih =>
      rw [setAdd]
      split
      · simp
      · split
        · next hk => simp [hk]
        · simp [ih, or_left_comm]
  by_cases hj : j = k
  · rw [if_pos hj]
    exact List.elem_iff.mpr (hmem.mpr (.inl hj))
  · rw [if_neg hj, Bool.eq_iff_iff, setHas, setHas, List.elem_iff, List.elem_iff, hmem, or_iff_right hj]

theorem setHas_setDel (k j : Nat) (l : List Nat) : setHas (setDel k l) j = if j = k then false else setHas l j := by
  by_cases hj : j = k <;> simp [setHas, setDel, hj]

/-- A number is put in the set or taken from it; every other stays. -/
theorem setHas_setPut (b : Bool) (k j : Nat) (l : List Nat) : setHas (setPut b k l) j = if j = k then b else setHas l j := by
  cases b
  · exact setHas_setDel k j l
  · exact setHas_setAdd k j l

theorem mem_granules {k n g : Nat} : g ∈ granules k n ↔ n ≠ 0 ∧ k / 16 ≤ g ∧ 16 * g < k + n := by
  rw [granules]
  split
  · next h => simp [h]
  · next h =>
    simp only [List.mem_map, List.mem_range]
    constructor
    · rintro ⟨i, hi, rfl⟩
      omega
    · rintro ⟨-, hlo, hhi⟩
      exact ⟨g - k / 16, by omega, by omega⟩

/-! ### Stores -/

section
variable {s : State}

/-- A number stored writes its low bytes and nothing else (R82, R146, R148). -/
theorem stores_putNum (hinv : s.Inv) (a n v : Nat) :
    Stores s a n (fun i => BitVec.ofNat 8 (v / 256 ^ i)) (.next (s.upd (fun h => h.putNum (localKey s.ix.co a) n v))) := by
  refine ⟨_, rfl, fun i hi => ?_, fun j hj => ?_, fun g => ?_, rfl⟩
  · have hlen : i < (leBytes n v).length := by rwa [leBytes_length]
    exact (memRead_writeN_in _ _ i hinv hlen).trans (getElem_leBytes n v i hlen)
  · exact Hw.memRead_putNum_out hinv v hj
  · exact Hw.setHas_tags_write hinv _ _ g

variable {d x : BitVec 6} {cb : BitVec 4} {sc : BitVec 3} {off : BitVec 32} {a : Nat}

/-- A scalar store that meets no trap. -/
theorem storeG_stores {n : Nat} (hok : s.Inv ∧ s.Reaches cb x sc off [1] pSt n n a ∧ s.NoSlot a n) (hpsn : (s.g d).psn = false) :
    Stores s a n (fun i => BitVec.ofNat 8 ((s.g d).bits.toNat / 256 ^ i)) (storeG d cb x sc off n s) := by
  obtain ⟨hinv, hreach, hslot⟩ := hok
  rw [storeG, hreach.localAddr_own, ok_bind, State.gUse_ok hpsn, ok_bind, State.checkSlot_ok hslot, ok_bind, settle_done]
  exact stores_putNum hinv a n _

/-- Settles O29: an access that passes its checks writes the register's low bytes; tags follow the bytes changed (R82). -/
theorem scalarAndVectorStores : Obligations.ScalarAndVectorStores := by
  intro s d x cb sc off a ok byte
  refine ⟨fun h hpsn => ?_, fun h hpsn => ?_, fun h hpsn => ?_, fun h hpsn => ?_, fun h hpsn => ?_⟩
  · exact storeG_stores h hpsn
  · exact storeG_stores h hpsn
  · exact storeG_stores h hpsn
  · exact storeG_stores h hpsn
  · obtain ⟨hinv, hreach, hslot⟩ := h
    rw [exec_vst, execVst, hreach.localAddr_own, ok_bind, State.vUse_ok hpsn, ok_bind, State.checkSlot_ok hslot,
      ok_bind, settle_done]
    simpa only [ofNat_div_pow] using stores_putNum hinv a 128 (s.v d).bits.toNat

/-! ### Scalar loads -/

/-- A scalar load that meets no trap. -/
theorem loadG_writes {n : Nat} (hok : s.Reaches cb x sc off [1, 5] pLd n n a ∧ s.Unmarked a n) (f : Nat → Word) :
    WritesG s d ⟨f (s.toHw.num (localKey s.ix.co a) n), false⟩ (loadG d cb x sc off n f s) := by
  obtain ⟨hreach, hmark⟩ := hok
  rw [loadG, State.loadAddr_ok hreach (by decide) hmark, ok_bind, settle_done]
  exact writesG s d _

end

/-- Settles O28: an access that passes its checks reads a number of bytes, which is extended with zeros or with its sign. -/
theorem scalarLoads : Obligations.ScalarLoads := by
  intro s d x cb sc off a b v ok z sx
  have hnum (n : Nat) : s.toHw.num (localKey s.ix.co a) n = v n := s.toHw.num_eq_sum _ n
  have hz (n : Nat) (h : ok n) : WritesG s d (z n) (loadG d cb x sc off n (fun v => BitVec.ofNat 64 v) s) := by
    simpa only [hnum] using loadG_writes h (fun v => BitVec.ofNat 64 v)
  have hsx (n w : Nat) (hw : 2 ^ w = 256 ^ n) (h : ok n) :
      WritesG s d (sx n) (loadG d cb x sc off n (fun v => (BitVec.ofNat w v).signExtend 64) s) := by
    simpa only [hnum, signExtend_ofNat, hw] using loadG_writes h (fun v => (BitVec.ofNat w v).signExtend 64)
  exact ⟨fun h => ⟨hsx 1 8 rfl h, hz 1 h⟩, fun h => ⟨hsx 2 16 rfl h, hz 2 h⟩, fun h => ⟨hsx 4 32 rfl h, hz 4 h⟩, fun h => hz 8 h⟩

/-! ### Capabilities in memory -/

section
variable {s : State} {d cb : BitVec 4} {x : BitVec 6} {sc : BitVec 3} {off : BitVec 32} {a : Nat}

/-- An instruction that forms its address step by step forms it as every access does (R81, R147). -/
theorem State.localAddr_bind (need : BitVec 12) (n align : Nat) (f : Nat → Chk State) :
    (do let ea ← s.mAddr cb x sc off
        let a ← checkOwn cb.toNat (s.c cb) [1] need ea n
        trapIf (a % align != 0) 0x11 a (capDetail cb.toNat n (s.c cb))
        f a) = s.localAddr cb x sc off [1] need n align >>= f := by
  simp only [State.localAddr, bind_assoc, ok_bind]

theorem execCld_eq : execCld d cb x sc off s = settle s (s.localAddr cb x sc off [1] (pLd ||| pLc) 16 16 >>= fun a =>
    s.checkMark a 16 >>= fun _ => .ok (s.setC d
      { bits := BitVec.ofNat 128 (s.toHw.num (localKey s.ix.co a) 16), tag := s.toHw.tagAt (localKey s.ix.co a) })) :=
  congrArg (settle s) (State.localAddr_bind _ _ _ _)

/-- The granule of a capability takes its 128 bits and its tag (R87). -/
def Hw.putCap (h : Hw) (k : Nat) (c : CReg) : Hw := (h.putNum k 16 c.bits.toNat).setTag c.tag k

theorem execCst_eq : execCst d cb x sc off s = settle s (s.localAddr cb x sc off [1] (pSt ||| pSc) 16 16 >>= fun a =>
    s.checkSlot a 16 >>= fun _ => .ok (s.upd (fun h => h.putCap (localKey s.ix.co a) (s.c d)))) :=
  congrArg (settle s) (State.localAddr_bind _ _ _ _)

theorem Hw.setTag_mem (h : Hw) (b : Bool) (k : Nat) : (h.setTag b k).mem = h.mem := rfl

theorem Hw.setTag_tags (h : Hw) (b : Bool) (k : Nat) : (h.setTag b k).tags = setPut b (k / 16) h.tags := rfl

theorem Hw.putCap_mem (h : Hw) (k : Nat) (c : CReg) : (h.putCap k c).mem = (h.putNum k 16 c.bits.toNat).mem := Hw.setTag_mem _ _ _

theorem Hw.putCap_tags (h : Hw) (k : Nat) (c : CReg) :
    (h.putCap k c).tags = setPut c.tag (k / 16) (h.putNum k 16 c.bits.toNat).tags := Hw.setTag_tags _ _ _

/-- Nothing but the stored memory and what goes with it differs. -/
def Hw.OnlyMem (h g : Hw) : Prop := g = { h with mem := g.mem, tags := g.tags, pmark := g.pmark, dirty := g.dirty }

theorem Hw.OnlyMem.trans {h g k : Hw} (hg : h.OnlyMem g) (hk : g.OnlyMem k) : h.OnlyMem k := by
  rw [Hw.OnlyMem] at hg hk ⊢
  rw [hk, hg]

theorem Hw.onlyMem_write (h : Hw) (k : Nat) (bs : List Byte) : h.OnlyMem (h.write k bs) := rfl

theorem Hw.onlyMem_setTag (h : Hw) (b : Bool) (k : Nat) : h.OnlyMem (h.setTag b k) := rfl

theorem Hw.onlyMem_putCap (h : Hw) (k : Nat) (c : CReg) : h.OnlyMem (h.putCap k c) :=
  (h.onlyMem_write k _).trans (Hw.onlyMem_setTag _ _ _)

theorem State.onlyMem_upd {s : State} {f : Hw → Hw} (h : s.toHw.OnlyMem (f s.toHw)) : s.OnlyMem (s.upd f) :=
  congrArg (fun h : Hw => ({ s with toHw := h } : State)) h

theorem Hw.num_putCap {h : Hw} (w : h.Ok) (k : Nat) (c : CReg) : (h.putCap k c).num k 16 = c.bits.toNat := by
  rw [Hw.num_congr (h.putCap_mem k c)]
  exact (Hw.num_putNum_same w _ _ _).trans (Nat.mod_eq_of_lt c.bits.isLt)

theorem Hw.tagAt_putCap (h : Hw) (k : Nat) (c : CReg) : (h.putCap k c).tagAt k = c.tag := by
  rw [Hw.tagAt, Hw.putCap_tags, setHas_setPut, if_pos rfl]

theorem Hw.memRead_putCap_out {h : Hw} (w : h.Ok) {k j : Nat} (c : CReg) (hj : j < k ∨ k + 16 ≤ j) :
    memRead (h.putCap k c).mem j = memRead h.mem j := by
  rw [Hw.putCap_mem, Hw.memRead_putNum_out w _ hj]

/-- Another granule keeps its tag: none of its bytes is written. -/
theorem Hw.setHas_tags_putCap {h : Hw} (w : h.Ok) {k g : Nat} (c : CReg) (hk : k % 16 = 0) (hg : g ≠ k / 16) :
    setHas (h.putCap k c).tags g = setHas h.tags g := by
  rw [Hw.putCap_tags, setHas_setPut, if_neg hg, Bool.eq_iff_iff]
  refine (Hw.setHas_tags_write w k _ g).trans (and_iff_left fun i hi => ?_)
  exact Hw.memRead_putNum_out w _ (by omega)

end

/-- Settles O27: a capability moves with its tag as one granule; the checks before it are those of every access (R81, R147). -/
theorem capabilityMemory : Obligations.CapabilityMemory := by
  intro s d cb x sc off a k
  simp only [exec_cld, exec_cst, execCld_eq, execCst_eq]
  refine ⟨fun hreach hmark => ?_, fun hinv hreach hslot => ?_, fun hreach hal => ?_, fun hreach hal => ?_, fun hreach hslot => ?_⟩
  · rw [hreach.localAddr_own, ok_bind, State.checkMark_ok hmark, ok_bind, settle_done]
    exact writesC s d _
  · have hk : k % 16 = 0 := by
      have hal := hreach.aligned
      simp only [k, localKey]
      omega
    rw [hreach.localAddr_own, ok_bind, State.checkSlot_ok hslot, ok_bind, settle_done]
    exact ⟨_, rfl, Hw.num_putCap hinv k _, Hw.tagAt_putCap _ k _, fun j hj => Hw.memRead_putCap_out hinv _ hj,
      fun g hg => Hw.setHas_tags_putCap hinv _ hk hg, State.onlyMem_upd (s.toHw.onlyMem_putCap k _)⟩
  · exact ((State.trapsWith_localAddr_align hreach (by decide) hal).bind _).traps s
  · exact ((State.trapsWith_localAddr_align hreach (by decide) hal).bind _).traps s
  · exact TrapsWith.traps (.of_ok (hreach.localAddr_own) ((State.trapsWith_checkSlot hslot).bind _)) s

end Sys2Proof.Machine
end

section
/-! SUPPORT. Full bits: the granules that an access touches, their bits set or cleared one after another, loads that wait for them (R146,
R150, R151). -/

namespace Sys2Proof.Machine

/-! ### The granules of an access -/

/-- `n` bytes at a place touch `m` granules from the place's own on. -/
def Touches (k n m : Nat) : Prop := ∀ g, g ∈ granules k n ↔ k / 16 ≤ g ∧ g < k / 16 + m

/-- Eight aligned bytes lie in one granule. -/
theorem touches_eight (co : CoreId) {a : Nat} (h : a % 8 = 0) : Touches (localKey co a) 8 1 := by
  intro g
  simp only [mem_granules, localKey]
  omega

/-- Whole granules, from an aligned place on. -/
theorem touches_granules (co : CoreId) {a : Nat} (h : a % 16 = 0) (m : Nat) : Touches (localKey co a) (16 * m) m := by
  intro g
  simp only [mem_granules, localKey]
  omega

/-! ### Full bits set or cleared -/

/-- Full bits of granules set or cleared one after another. -/
def Hw.putFulls (h : Hw) (b : Bool) (l : List Nat) : Hw := l.foldl (fun h g => h.setFull b (16 * g)) h

/-- Nothing but full bits and the dirty bits that go with them changes (R146, R374). -/
theorem Hw.putFulls_eq (h : Hw) (b : Bool) (l : List Nat) :
    h.putFulls b l = { h with full := (h.putFulls b l).full, dirty := (h.putFulls b l).dirty } := by
  induction l generalizing h with
  | nil => rfl
  | cons g l ih => exact (ih (h.setFull b (16 * g))).trans rfl

theorem Hw.setHas_full_putFulls (h : Hw) (b : Bool) (l : List Nat) (j : Nat) :
    setHas (h.putFulls b l).full j = if j ∈ l then b else setHas h.full j := by
  induction l generalizing h with
  | nil => simp [Hw.putFulls]
  | cons g l ih =>
    have hset : setHas (h.setFull b (16 * g)).full j = if j = g then b else setHas h.full j := by
      rw [Hw.setFull, setHas_setPut, Nat.mul_div_cancel_left g (by decide)]
    rw [Hw.putFulls, List.foldl_cons, ← Hw.putFulls, ih, hset]
    by_cases hl : j ∈ l <;> by_cases hg : j = g <;> simp [hl, hg]

section
variable {s : State} {a n m : Nat}

/-- The bits of the granules that an access touches are as they were put; every other bit, and all else, stays (R151). -/
theorem State.putFull_bits (hspan : Touches (localKey s.ix.co a) n m) (b : Bool) :
    s.putFull b a n = s.upd (fun h => { h with full := (s.putFull b a n).full, dirty := (s.putFull b a n).dirty })
    ∧ ∀ j, setHas (s.putFull b a n).full j =
        if localKey s.ix.co a / 16 ≤ j ∧ j < localKey s.ix.co a / 16 + m then b else setHas s.full j := by
  refine ⟨congrArg (fun h => { s with toHw := h }) (s.toHw.putFulls_eq b _), fun j => ?_⟩
  refine (s.toHw.setHas_full_putFulls b _ j).trans ?_
  simp only [hspan j]

/-- The access finds every full bit set when each of its granules has one (R150). -/
theorem State.allFull_iff (hspan : Touches (localKey s.ix.co a) n m) :
    s.allFull a n = true ↔ ∀ j, j < m → setHas s.full (localKey s.ix.co a / 16 + j) = true := by
  simp only [State.allFull, List.all_eq_true, hspan _]
  refine ⟨fun h j hj => h _ (by omega), fun h g hg => ?_⟩
  obtain ⟨j, rfl⟩ := Nat.exists_eq_add_of_le hg.1
  exact h j (by omega)

theorem State.blockUnless_full (hspan : Touches (localKey s.ix.co a) n m)
    (hfull : ∀ j, j < m → setHas s.full (localKey s.ix.co a / 16 + j) = true) : blockUnless (s.allFull a n) = .ok () :=
  blockUnless_true ((State.allFull_iff hspan).mpr hfull)

theorem State.blockUnless_empty (hspan : Touches (localKey s.ix.co a) n m)
    (hempty : ¬∀ j, j < m → setHas s.full (localKey s.ix.co a / 16 + j) = true) : blockUnless (s.allFull a n) = .error .block :=
  blockUnless_false (Bool.eq_false_iff.mpr fun h => hempty ((State.allFull_iff hspan).mp h))

end

/-! ### fset and fclr -/

section
variable {s : State} {d x : BitVec 6} {cb : BitVec 4} {sc : BitVec 3} {off : BitVec 32} {a n : Nat}

/-- The address of an access of as many granules as gD says, its count tested for poison before the checks of R81 (log entry 123). -/
theorem bind_count_ok (hpsn : (s.g d).psn = false) (hn : (s.g d).bits.toNat = n) (hreach : s.Reaches cb x sc off [1] pSt (16 * n) 16 a)
    (hslot : s.NoSlot a (16 * n)) (b : Bool) :
    (do let ea ← s.mAddr cb x sc off
        let n ← s.gUse d
        let a ← checkOwn cb.toNat (s.c cb) [1] pSt ea (16 * n.toNat)
        trapIf (a % 16 != 0) 0x11 a (capDetail cb.toNat (16 * n.toNat) (s.c cb))
        s.checkSlot a (16 * n.toNat)
        .ok (s.putFull b a (16 * n.toNat)) : Chk State) = .ok (s.putFull b a (16 * n)) := by
  obtain ⟨hpsnx, hea, hallow, hin, hal⟩ := hreach
  rw [State.mAddr_ok hpsnx, ok_bind, State.gUse_ok hpsn, ok_bind, hn, hea, checkOwn_ok hallow (by decide) hin, ok_bind,
    trapIf_false (by simp [hal]), ok_bind, State.checkSlot_ok hslot, ok_bind]

end

/-- Settles O32: a load waits for the bits of the granules it touches, and clears them or leaves them; fset and fclr put the bits of as
many granules as they count; ftest reads one. That ldfe reaches space 5 is the model's choice (log entry 16). -/
theorem fullEmptyAccesses : Obligations.FullEmptyAccesses := by
  intro s d x q cb sc off a n key b g word full bits
  have hword (l : Nat) (hl : l < 32) : (⟨vbitsOfBytes (s.toHw.bytes key 128), 0, 0⟩ : VReg).lane l = word (4 * l) := by
    rw [lane_vbitsOfBytes _ _ hl]
    simp only [Hw.wordAt, word, b, Nat.add_assoc]
  have hnum : (⟨BitVec.ofNat 64 (s.toHw.num key 8), false⟩ : GReg) = g := congrArg (GReg.mk · false) (s.toHw.ofNat_num_eight key)
  refine ⟨fun hreach hmark => ?_, fun hreach hmark => ?_, fun hpsn hn hreach hslot => ?_, fun hreach => ?_⟩
  · have hspan : Touches key 8 1 := touches_eight _ hreach.aligned
    rw [exec_ldfeW, exec_ldfeC, execLdfeW, execLdfeC, State.loadAddr_ok hreach (by decide) hmark, ok_bind, ok_bind]
    refine ⟨fun hfull => ?_, fun hempty => ?_⟩
    · rw [State.blockUnless_full hspan hfull, ok_bind, ok_bind, settle_done, settle_done, hnum]
      refine ⟨writesG s d g, _, _, writesG s d g, rfl, ?_⟩
      simpa only [State.setG_ix] using State.putFull_bits (s := s.setG d g) (a := a) (by rw [State.setG_ix]; exact hspan) false
    · rw [State.blockUnless_empty hspan hempty, error_bind, error_bind]
      exact ⟨blocks_settle s, blocks_settle s⟩
  · have hspan : Touches key 128 8 := touches_granules _ hreach.aligned 8
    have hload := (writesV_bits s d (vbitsOfBytes (s.toHw.bytes key 128))).congr hword (fun _ _ => rfl)
    rw [exec_vldfeW, exec_vldfeC, execVldfeW, execVldfeC, State.loadAddr_ok hreach (by decide) hmark, ok_bind, ok_bind]
    refine ⟨fun hfull => ?_, fun hempty => ?_⟩
    · rw [State.blockUnless_full hspan hfull, ok_bind, ok_bind, settle_done, settle_done]
      exact ⟨hload, _, _, hload, rfl, State.putFull_bits (s := s.setV d _) hspan false⟩
    · rw [State.blockUnless_empty hspan hempty, error_bind, error_bind]
      exact ⟨blocks_settle s, blocks_settle s⟩
  · have hspan : Touches key (16 * n) n := touches_granules _ hreach.aligned n
    rw [exec_fset, exec_fclr, execFset, execFclr, bind_count_ok hpsn hn hreach hslot, bind_count_ok hpsn hn hreach hslot]
    exact ⟨⟨_, rfl, State.putFull_bits hspan true⟩, _, rfl, State.putFull_bits hspan false⟩
  · rw [exec_ftest, execFtest, hreach.localAddr_own, ok_bind, settle_done]
    exact writesP s q _

end Sys2Proof.Machine
end

section
/-! SUPPORT. The fields of a capability when one of them is replaced and when all are put together; the least exponent that represents a
length (R75, R76, R85, R86). -/

namespace Sys2Proof.Machine

/-! ### One field replaced -/

/-- The 128 bits with `v` in the `n` bits from `lo` up. -/
def putField (w : BitVec 128) (lo n v : Nat) : BitVec 128 :=
  (w &&& ~~~(BitVec.ofNat 128 ((2 ^ n - 1) * 2 ^ lo))) ||| BitVec.ofNat 128 (v * 2 ^ lo)

section
variable {lo n v : Nat} (hv : v < 2 ^ n)
include hv

theorem getLsbD_putField (w : BitVec 128) {i : Nat} (hi : i < 128) :
    (putField w lo n v).getLsbD i = if lo ≤ i ∧ i < lo + n then v.testBit (i - lo) else w.getLsbD i := by
  simp only [putField, BitVec.getLsbD_or, BitVec.getLsbD_and, BitVec.getLsbD_not, BitVec.getLsbD_ofNat, Nat.testBit_mul_two_pow,
    Nat.testBit_two_pow_sub_one, hi, decide_true, Bool.true_and]
  split
  · next h => simp [h.1, show i - lo < n by omega]
  · next h =>
    by_cases hlo : lo ≤ i
    · have hout : v.testBit (i - lo) = false := Nat.testBit_lt_two_pow (hv.trans_le (Nat.pow_le_pow_right (by decide) (by omega)))
      simp [hlo, hout, show ¬i - lo < n by omega]
    · simp [hlo]

/-- The field that is put reads as it was put. -/
theorem extract_putField_same (w : BitVec 128) (h : lo + n ≤ 128) : (putField w lo n v).extractLsb' lo n = BitVec.ofNat n v := by
  refine BitVec.eq_of_getLsbD_eq fun i hi => ?_
  rw [BitVec.getLsbD_extractLsb', getLsbD_putField hv w (by omega), if_pos (by omega), BitVec.getLsbD_ofNat, Nat.add_sub_cancel_left]

/-- Another field reads as before. -/
theorem extract_putField_other (w : BitVec 128) {lo' n' : Nat} (h : lo' + n' ≤ 128) (hapart : lo' + n' ≤ lo ∨ lo + n ≤ lo') :
    (putField w lo n v).extractLsb' lo' n' = w.extractLsb' lo' n' := by
  refine BitVec.eq_of_getLsbD_eq fun i hi => ?_
  rw [BitVec.getLsbD_extractLsb', BitVec.getLsbD_extractLsb', getLsbD_putField hv w (by omega), if_neg (by omega)]

end

/-! ### Cursor and permissions replaced -/

/-- Two capabilities have tag, space and bounds in common (R85). -/
def CReg.SameBounds (z x : CReg) : Prop := z.tag = x.tag ∧ z.space = x.space ∧ z.base = x.base ∧ z.length = x.length

/-- Replacing a field that is none of space, base and length leaves them and the tag. -/
theorem CReg.sameBounds_putField (x : CReg) {lo n v : Nat} (hv : v < 2 ^ n) (hlo : 64 ≤ lo) (hhi : lo + n ≤ 124) :
    CReg.SameBounds { x with bits := putField x.bits lo n v } x := by
  refine ⟨rfl, ?_, ?_, ?_⟩
  · rw [CReg.space, extract_putField_other hv _ (by omega) (by omega)]; rfl
  · rw [CReg.base, extract_putField_other hv _ (by omega) (by omega)]; rfl
  · rw [CReg.length, extract_putField_other hv _ (by omega) (by omega), extract_putField_other hv _ (by omega) (by omega)]; rfl

theorem CReg.withCursor_eq (x : CReg) (cur : Int) : x.withCursor cur = { x with bits := putField x.bits 64 48 (cur % 2 ^ 48).toNat } := rfl

theorem CReg.withPerm_eq (x : CReg) (p : BitVec 12) : x.withPerm p = { x with bits := putField x.bits 112 12 p.toNat } := rfl

theorem emod_cursor_lt (cur : Int) : (cur % 2 ^ 48).toNat < 2 ^ 48 := by omega

theorem CReg.withCursor_sameBounds (x : CReg) (cur : Int) : (x.withCursor cur).SameBounds x :=
  x.sameBounds_putField (emod_cursor_lt cur) (by decide) (by decide)

theorem CReg.withCursor_perm (x : CReg) (cur : Int) : (x.withCursor cur).perm = x.perm :=
  extract_putField_other (emod_cursor_lt cur) x.bits (by decide) (by decide)

/-- A cursor wraps at 2^48 (R76). -/
theorem CReg.withCursor_cursor (x : CReg) (cur : Int) : ((x.withCursor cur).cursor : Int) = cur % 2 ^ 48 := by
  rw [CReg.cursor, CReg.withCursor_eq, extract_putField_same (emod_cursor_lt cur) x.bits (by decide), BitVec.toNat_ofNat]
  omega

theorem CReg.withPerm_sameBounds (x : CReg) (p : BitVec 12) : (x.withPerm p).SameBounds x := by
  rw [CReg.withPerm_eq]
  exact x.sameBounds_putField p.isLt (by decide) (by decide)

theorem CReg.withPerm_perm (x : CReg) (p : BitVec 12) : (x.withPerm p).perm = p := by
  rw [CReg.perm, CReg.withPerm_eq, extract_putField_same p.isLt x.bits (by decide), BitVec.ofNat_toNat, BitVec.setWidth_eq]

theorem CReg.withPerm_cursor (x : CReg) (p : BitVec 12) : (x.withPerm p).cursor = x.cursor := by
  rw [CReg.withPerm_eq]
  exact congrArg BitVec.toNat (extract_putField_other p.isLt x.bits (by decide) (by decide))

/-! ### A capability put together from its fields -/

theorem CReg.cursor_lt (x : CReg) : x.cursor < 2 ^ 48 := (x.bits.extractLsb' 64 48).isLt

theorem CReg.space_lt (x : CReg) : x.space < 16 := (x.bits.extractLsb' 124 4).isLt

section
variable (space perm cursor e man base : Nat)

/-- A field of a capability put together, as a number. -/
theorem toNat_extract_capBits (lo n : Nat) : ((capBits space perm cursor e man base).extractLsb' lo n).toNat
    = (space % 16 * 2 ^ 124 + perm % 4096 * 2 ^ 112 + cursor % 2 ^ 48 * 2 ^ 64 + e % 64 * 2 ^ 58 + man % 2 ^ 14 * 2 ^ 44 + base % 2 ^ 44)
      % 2 ^ 128 / 2 ^ lo % 2 ^ n := by
  rw [BitVec.extractLsb'_toNat, Nat.shiftRight_eq_div_pow, capBits, BitVec.toNat_ofNat]

variable (t : Bool)

theorem CReg.space_capBits : (⟨capBits space perm cursor e man base, t⟩ : CReg).space = space % 16 := by
  rw [CReg.space, toNat_extract_capBits]
  omega

theorem CReg.perm_capBits : (⟨capBits space perm cursor e man base, t⟩ : CReg).perm = BitVec.ofNat 12 perm := by
  refine BitVec.eq_of_toNat_eq ?_
  rw [CReg.perm, toNat_extract_capBits, BitVec.toNat_ofNat]
  omega

theorem CReg.cursor_capBits : (⟨capBits space perm cursor e man base, t⟩ : CReg).cursor = cursor % 2 ^ 48 := by
  rw [CReg.cursor, toNat_extract_capBits]
  omega

theorem CReg.base_capBits : (⟨capBits space perm cursor e man base, t⟩ : CReg).base = base % 2 ^ 44 * 16 := by
  rw [CReg.base, toNat_extract_capBits]
  omega

theorem CReg.length_capBits : (⟨capBits space perm cursor e man base, t⟩ : CReg).length = man % 2 ^ 14 * 2 ^ (e % 64) := by
  have hman : ((capBits space perm cursor e man base).extractLsb' 44 14).toNat = man % 2 ^ 14 := by
    rw [toNat_extract_capBits]
    omega
  have hexp : ((capBits space perm cursor e man base).extractLsb' 58 6).toNat = e % 64 := by
    rw [toNat_extract_capBits]
    omega
  rw [CReg.length, hman, hexp]

end

/-! ### The least exponent of a length -/

/-- The mantissa of a length at an exponent, rounded up (R86). -/
def mantissa (len e : Nat) : Nat := (len + 2 ^ e - 1) / 2 ^ e

/-- The exponent is the least at which the mantissa fits its field (R86). -/
def LeastExp (len e : Nat) : Prop := mantissa len e ≤ 16383 ∧ ∀ i, i < e → 16383 < mantissa len i

section
variable {len e : Nat} (h : LeastExp len e)
include h

/-- The search from an exponent below finds the least. -/
theorem lenExp_eq {fuel e0 : Nat} (hlo : e0 ≤ e) (hhi : e ≤ e0 + fuel) : lenExp len fuel e0 = e := by
  induction fuel generalizing e0 with
  | zero => exact Nat.le_antisymm hlo hhi
  | succ fuel ih =>
    rw [lenExp]
    rcases Nat.eq_or_lt_of_le hlo with rfl | hlt
    · exact if_neg (Nat.not_lt.mpr h.1)
    · exact (if_pos (h.2 e0 hlt)).trans (ih hlt (by omega))

/-- A length of a word and the bytes below it fits an exponent of six bits. -/
theorem LeastExp.lt (hlen : len < 2 ^ 64 + 16) : e < 64 := by
  by_contra hge
  have hbig := h.2 63 (by omega)
  rw [mantissa] at hbig
  omega

/-- The bounds of cbound in the fields of a capability: base, exponent, mantissa (R86). -/
theorem boundFields_eq {cursor n : Nat} (hn : n < 2 ^ 64) (hlen : len = n + cursor % 16) :
    boundFields cursor n = (cursor - cursor % 16, e, mantissa len e) := by
  have hsum : n + (cursor - (cursor - cursor % 16)) = len := by omega
  have hexp : lenExp len 64 0 = e := lenExp_eq h (Nat.zero_le e) (by have := h.lt (by omega); omega)
  simp only [boundFields, hsum, hexp, mantissa]

end

/-! ### cbound -/

/-- A capability over other bounds: from the granule of its cursor on, `man` times 2^e bytes (R86). -/
def CReg.bound (x : CReg) (e man : Nat) : CReg :=
  { bits := capBits x.space x.perm.toNat x.cursor e man ((x.cursor - x.cursor % 16) / 16), tag := x.tag }

theorem CReg.tag_mk (w : BitVec 128) (t : Bool) : (⟨w, t⟩ : CReg).tag = t := rfl

theorem CReg.bound_tag (x : CReg) (e man : Nat) : (x.bound e man).tag = x.tag := CReg.tag_mk _ _

/-- The new bounds; cursor, permissions and space stay. -/
theorem CReg.bound_fields (x : CReg) {e man : Nat} (he : e < 64) (hman : man ≤ 16383) :
    (x.bound e man).base = x.cursor - x.cursor % 16 ∧ (x.bound e man).length = man * 2 ^ e ∧ (x.bound e man).cursor = x.cursor
      ∧ (x.bound e man).perm = x.perm ∧ (x.bound e man).space = x.space := by
  have hcur := x.cursor_lt
  simp only [CReg.bound, CReg.base_capBits, CReg.length_capBits, CReg.cursor_capBits, CReg.perm_capBits, CReg.space_capBits,
    Nat.mod_eq_of_lt he, Nat.mod_eq_of_lt hcur, Nat.mod_eq_of_lt x.space_lt, Nat.mod_eq_of_lt (show man < 2 ^ 14 by omega),
    BitVec.ofNat_toNat, BitVec.setWidth_eq, and_self, and_true]
  omega

section
variable {s : State} {d a : BitVec 4} {b : BitVec 6} {len e : Nat} (hpsn : (s.g b).psn = false)
  (hlen : len = (s.g b).bits.toNat + (s.c a).cursor % 16) (h : LeastExp len e)
include hpsn hlen h

/-- cbound with the least exponent of the length: the check of a tagged result, then the new bounds (R86). -/
theorem execCbound_eq : execCbound d a b s = settle s (do
    trapIf ((s.c a).tag && (decide ((s.c a).cursor - (s.c a).cursor % 16 < (s.c a).base)
      || decide ((s.c a).top < (s.c a).cursor - (s.c a).cursor % 16 + mantissa len e * 2 ^ e))) 0x11 (s.c a).cursor
      (capDetail a.toNat (s.g b).bits.toNat (s.c a))
    .ok (s.setC d ((s.c a).bound e (mantissa len e)))) := by
  simp only [execCbound, State.gUse_ok hpsn, ok_bind, boundFields_eq h (s.g b).bits.isLt hlen, CReg.bound]

/-- Bounds that are no wider, or of an untagged capability, are taken; tag, cursor, permissions and space stay. -/
theorem execCbound_narrows (hin : (s.c a).tag = true → (s.c a).base ≤ (s.c a).cursor - (s.c a).cursor % 16
      ∧ (s.c a).cursor - (s.c a).cursor % 16 + mantissa len e * 2 ^ e ≤ (s.c a).top) :
    ∃ z, WritesC s d z (execCbound d a b s) ∧ z.tag = (s.c a).tag ∧ z.base = (s.c a).cursor - (s.c a).cursor % 16
      ∧ z.length = mantissa len e * 2 ^ e ∧ z.cursor = (s.c a).cursor ∧ z.perm = (s.c a).perm ∧ z.space = (s.c a).space := by
  have he : e < 64 := h.lt (by
    have := (s.g b).bits.isLt
    omega)
  refine ⟨(s.c a).bound e (mantissa len e), ?_, (s.c a).bound_tag e _, (s.c a).bound_fields he h.1⟩
  rw [execCbound_eq hpsn hlen h, trapIf_false, ok_bind, settle_done]
  · exact writesC s d _
  · rw [Bool.and_eq_false_imp]
    intro htag
    obtain ⟨hlo, hhi⟩ := hin htag
    rw [Bool.or_eq_false_iff, decide_eq_false_iff_not, decide_eq_false_iff_not]
    exact ⟨Nat.not_lt.mpr hlo, Nat.not_lt.mpr hhi⟩

/-- Wider bounds of a tagged capability trap. -/
theorem traps_execCbound (htag : (s.c a).tag = true) (hout : (s.c a).cursor - (s.c a).cursor % 16 < (s.c a).base
      ∨ (s.c a).top < (s.c a).cursor - (s.c a).cursor % 16 + mantissa len e * 2 ^ e) :
    Traps s 0x11 (execCbound d a b s) := by
  rw [execCbound_eq hpsn hlen h, trapIf_true]
  · exact traps_settle_bind s _ _ _ _
  · rw [Bool.and_eq_true, Bool.or_eq_true, decide_eq_true_eq, decide_eq_true_eq]
    exact ⟨htag, hout⟩

end

/-! ### The other instructions -/

/-- Every instruction that moves the cursor copies the rest (R85). -/
theorem writesC_withCursor (s : State) (d : BitVec 4) (x : CReg) (cur : Int) :
    ∃ z, WritesC s d z (.next (s.setC d (x.withCursor cur))) ∧ z.SameBounds x ∧ z.perm = x.perm ∧ (z.cursor : Int) = cur % 2 ^ 48 :=
  ⟨_, writesC s d _, x.withCursor_sameBounds cur, x.withCursor_perm cur, x.withCursor_cursor cur⟩

/-- One capability lies within another in tag, space, permissions and bounds (R85). -/
theorem CReg.le_iff (x y : CReg) : x.le y = true
    ↔ x.tag = true ∧ y.tag = true ∧ x.space = y.space ∧ x.perm &&& y.perm = x.perm ∧ y.base ≤ x.base ∧ x.top ≤ y.top := by
  simp only [CReg.le, CReg.has, Bool.and_eq_true, beq_iff_eq, decide_eq_true_eq, BitVec.and_comm y.perm, and_assoc]

/-- Tag, space and permissions stand side by side (R85). -/
theorem CReg.cgetp_word (x : CReg) :
    x.tag.toNat * 2 ^ 16 + x.space * 2 ^ 12 + x.perm.toNat = (if x.tag then 65536 else 0) + 4096 * x.space + x.perm.toNat := by
  cases x.tag
  · simp [Nat.mul_comm]
  · simp [Nat.mul_comm]

/-- Settles O26: cursor and permissions are fields of the 128 bits, so that replacing one leaves tag and bounds; cbound's search finds
the least exponent that fits. -/
theorem capabilityResults : Obligations.CapabilityResults := by
  intro s d a c g b q k imm mask x y same moved lo n man
  have hmoved (cur : Int) : moved cur (.next (s.setC d (x.withCursor cur))) := writesC_withCursor s d x cur
  refine ⟨writesC s d _, hmoved _, fun hpsn => ⟨?_, ?_⟩, ?_, fun hpsn e hfit hleast => ?_, fun hpsn => ⟨?_, ?_, ?_⟩, writesG s g _, ?_,
    writesG s g _, ?_, writesP s q _, ⟨x.le y, x.le_iff y, writesP s q _⟩, writesC s d _,
    fun f hf hvalid => ?_, fun f hf hvalid => ?_, fun hf => ?_⟩
  · rw [exec_cinc, execCinc, State.gUse_ok hpsn, ok_bind, settle_done]
    exact hmoved _
  · rw [exec_caddr, execCaddr, State.gUse_ok hpsn, ok_bind, settle_done]
    exact hmoved _
  · exact ⟨_, writesC s d _, x.withPerm_sameBounds _, x.withPerm_perm _, x.withPerm_cursor _⟩
  · have hexp : LeastExp n e := ⟨hfit, hleast⟩
    rw [exec_cbound]
    refine ⟨fun htag hin => ?_, fun htag hout => traps_execCbound hpsn rfl hexp htag hout, fun htag => ?_⟩
    · obtain ⟨z, hz, hsame, hfields⟩ := execCbound_narrows (d := d) hpsn rfl hexp fun _ => hin
      exact ⟨z, hz, hsame.trans htag, hfields⟩
    · obtain ⟨z, hz, hsame, hbase, hlength, hcursor, -, -⟩ := execCbound_narrows (d := d) hpsn rfl hexp fun htrue =>
        absurd (htag.symm.trans htrue) Bool.false_ne_true
      exact ⟨z, hz, hsame.trans htag, hbase, hlength, hcursor⟩
  · rw [exec_cinc, execCinc, State.gUse_poison hpsn]
    exact traps_settle_bind s _ _ _ _
  · rw [exec_caddr, execCaddr, State.gUse_poison hpsn]
    exact traps_settle_bind s _ _ _ _
  · rw [exec_cbound, execCbound, State.gUse_poison hpsn]
    exact traps_settle_bind s _ _ _ _
  · have hmin : min x.length (2 ^ 64 - 1) = if x.length < 2 ^ 64 then x.length else 2 ^ 64 - 1 := by
      split <;> omega
    rw [exec_cgetl, execCgetl, hmin]
    exact writesG s g _
  · rw [exec_cgetp, execCgetp, x.cgetp_word]
    exact writesG s g _
  · rw [exec_cfoot, execCfoot, hf]
    simpa only [hvalid, if_true] using writesC s d f.cap
  · rw [exec_cfoot, execCfoot, hf]
    simpa only [hvalid, Bool.false_eq_true, if_false] using writesC s d {}
  · rw [exec_cfoot, execCfoot, hf]
    exact writesC s d {}

end Sys2Proof.Machine
end

section
/-! SUPPORT. The translation unit: what a walk leaves of the hardware and what it answers, the commands that it lets go on or stops, the
entries that an invalidation covers (R90-R95, R139). -/

namespace Sys2Proof.Machine

/-! ### What a walk finds -/

/-- Only slices, the metadata of lines and the errors of their cells differ. -/
def Hw.OnlyLines (h g : Hw) : Prop := g = { h with slices := g.slices, lineMeta := g.lineMeta, errs := g.errs }

theorem Hw.OnlyLines.leaves {h g : Hw} (hg : h.OnlyLines g) :
    g.mem = h.mem ∧ g.cores = h.cores ∧ g.isles = h.isles ∧ g.stall = h.stall := by
  rw [hg]
  exact ⟨rfl, rfl, rfl, rfl⟩

theorem Hw.OnlyLines.trans {h g k : Hw} (hg : h.OnlyLines g) (hk : g.OnlyLines k) : h.OnlyLines k := by
  rw [Hw.OnlyLines] at hg hk ⊢
  rw [hk, hg]

theorem Hw.onlyLines_checkLine (h : Hw) (pa : Nat) (ecc : Ecc) : h.OnlyLines (h.checkLine pa ecc).2 := by
  rw [Hw.OnlyLines, Hw.checkLine]
  split
  · rfl
  · split <;> rfl

/-- An answer agrees with the tables: a leaf is theirs, and a fault has one of the codes of R92, R97 and R105. -/
def WalkAns.Agrees (r : WalkRes) : WalkAns → Prop
  | .away => True
  | .leaf l => ∃ level entry, r = .ok l level entry
  | .stop code _ => code = 0x20 ∨ code = 0x22 ∨ code = 0x70

/-- A walk changes no more than the lines that it reads, and answers as the tables stand (R90-R93). -/
theorem Hw.walkRead_agrees (h : Hw) (m : Master) (va f level table : Nat) :
    h.OnlyLines (h.walkRead m va f level table).2 ∧ (h.walkRead m va f level table).1.Agrees (h.walkFrom va f level table) := by
  induction f generalizing h level table with
  | zero => exact ⟨rfl, .inl rfl⟩
  | succ f ih =>
    have hline := h.onlyLines_checkLine (table + 8 * walkIndex va level) .clean
    rw [Hw.walkRead, Hw.walkFrom]
    generalize h.checkLine (table + 8 * walkIndex va level) .clean = r at hline ⊢
    obtain ⟨ok, g⟩ := r
    dsimp only at hline ⊢
    have hmem : g.mem = h.mem := hline.leaves.1
    rw [Hw.num_congr hmem]
    split
    · -- the entry lies at no target
      exact ⟨rfl, .inl rfl⟩
    split
    · -- no route leads to it
      exact ⟨rfl, trivial⟩
    split
    · -- its access table denies the read
      exact ⟨rfl, .inr (.inl rfl)⟩
    split
    · -- its line is uncorrectable
      exact ⟨hline, .inr (.inr rfl)⟩
    split
    · -- it is not valid, or breaks the rules
      exact ⟨hline, .inl rfl⟩
    split
    · -- it is a leaf
      exact ⟨hline, _, _, rfl⟩
    · -- it names the next table
      obtain ⟨honly, hagrees⟩ := ih g (level + 1) (entryPa (BitVec.ofNat 64 (h.num (table + 8 * walkIndex va level) 8)))
      rw [Hw.walkFrom_congr hmem] at hagrees
      exact ⟨hline.trans honly, hagrees⟩

/-- The same of a walk through a context; without EN it is a fault (R90). -/
theorem Hw.walkAnswer_agrees (h : Hw) (m : Master) (y : Ctx) (va : Nat) :
    h.OnlyLines (h.walkAnswer m y va).2 ∧ (h.walkAnswer m y va).1.Agrees (h.walkRoot y.root va) := by
  rw [Hw.walkAnswer]
  split
  · exact h.walkRead_agrees m va 4 0 y.root
  · exact ⟨rfl, .inl rfl⟩

theorem Hw.walkAnswer_disabled (h : Hw) (m : Master) {y : Ctx} (va : Nat) (hen : y.en = false) :
    h.walkAnswer m y va = (.stop 0x20 none, h) := by
  rw [Hw.walkAnswer, hen, if_neg Bool.false_ne_true]

/-! ### Commands that wait for a walk -/

/-- A command goes on, where it is one that a walk lets go on and it waits for one. -/
def Cmd.goOn (b : Bool) (c : Cmd) : Cmd := if b && c.piece == .walking then { c with piece := .idle } else c

theorem Cmd.goOn_false (c : Cmd) : c.goOn false = c := rfl

theorem Cmd.goOn_goOn (b b' : Bool) (c : Cmd) : (c.goOn b).goOn b' = c.goOn (b || b') := by
  cases b
  · rfl
  · by_cases hc : c.piece = .walking <;> simp [Cmd.goOn, hc]

theorem Cmd.goOn_uid (b : Bool) (c : Cmd) : (c.goOn b).uid = c.uid := by
  rw [Cmd.goOn]
  split <;> rfl

theorem Cmd.goOn_done (b : Bool) (c : Cmd) : (c.goOn b).done = c.done := by
  rw [Cmd.goOn]
  split <;> rfl

theorem Cmd.goOn_walking {c : Cmd} (h : c.piece = .walking) : (c.goOn true).piece = .idle := by
  simp [Cmd.goOn, h]

/-- The command of a number, after those of that number have been changed. -/
theorem find_map_uid (l : List Cmd) (uid uid' : Nat) {f : Cmd → Cmd} (hf : ∀ c, (f c).uid = c.uid) :
    (l.map (fun c => if c.uid == uid then f c else c)).find? (fun c => c.uid == uid')
      = (l.find? (fun c => c.uid == uid')).map (fun c => if uid' = uid then f c else c) := by
  induction l with
  | nil => rfl
  | cons c l ih =>
    have huid : (if c.uid == uid then f c else c).uid = c.uid := by split <;> simp [hf]
    rw [List.map_cons, List.find?_cons, List.find?_cons, huid, ih]
    by_cases hc : c.uid = uid'
    · subst hc
      simp
    · simp only [beq_eq_false_iff_ne.mpr hc]

theorem Hw.core_of_key (h : Hw) {co cp : CoreId} (hk : CoreId.key cp = CoreId.key co) : h.core cp = h.core co := by
  rw [Hw.core, Hw.core, hk]

theorem Hw.cmd?_of_cores {h g : Hw} (hcores : g.cores = h.cores) (co : CoreId) (uid : Nat) : g.cmd? co uid = h.cmd? co uid := by
  rw [Hw.cmd?, Hw.cmd?, Hw.core, Hw.core, hcores]

theorem Hw.cmd?_onCmd (h : Hw) (co cp : CoreId) (uid uid' : Nat) {f : Cmd → Cmd} (hf : ∀ c, (f c).uid = c.uid) :
    (h.onCmd co uid f).cmd? cp uid'
      = (h.cmd? cp uid').map (fun c => if CoreId.key cp = CoreId.key co ∧ uid' = uid then f c else c) := by
  by_cases hk : CoreId.key cp = CoreId.key co
  · rw [Hw.cmd?, Hw.cmd?, Hw.core_of_key _ hk, Hw.core_of_key _ hk, Hw.onCmd, Hw.core_onCore, Core.onCmd, find_map_uid _ _ _ hf]
    simp only [hk, true_and]
  · rw [Hw.cmd?, Hw.onCmd, Hw.onCore, Hw.core_setCore_other _ _ hk, ← Hw.cmd?]
    simp only [hk, false_and, if_false, Option.map_id']

/-- A walk's end lets go on the command that waits for it, and no other. -/
theorem Hw.cmd?_walkDone (h : Hw) (p : WalkFor) (co : CoreId) (uid : Nat) :
    ∃ b, (h.walkDone p).cmd? co uid = (h.cmd? co uid).map (Cmd.goOn b) ∧ ∀ w, p = .cmd co uid w → b = true := by
  cases p with
  | cmd cp n w' =>
    refine ⟨decide (CoreId.key co = CoreId.key cp ∧ uid = n), ?_, fun w hw => ?_⟩
    · refine (h.cmd?_onCmd cp co n uid (f := Cmd.goOn true) (Cmd.goOn_uid true)).trans ?_
      congr 1
      funext c
      by_cases hc : CoreId.key co = CoreId.key cp ∧ uid = n <;> simp [hc, Cmd.goOn_false]
    · cases hw
      simp
  | amem cp e => exact ⟨false, Option.map_id'.symm, fun _ hw => nomatch hw⟩
  | tile cp sl => exact ⟨false, Option.map_id'.symm, fun _ hw => nomatch hw⟩

theorem Hw.cmd?_walksDone (h : Hw) (who : List WalkFor) (co : CoreId) (uid : Nat) :
    ∃ b, (who.foldl Hw.walkDone h).cmd? co uid = (h.cmd? co uid).map (Cmd.goOn b) ∧ ∀ w, .cmd co uid w ∈ who → b = true := by
  induction who generalizing h with
  | nil => exact ⟨false, Option.map_id'.symm, fun _ hw => nomatch hw⟩
  | cons p who ih =>
    obtain ⟨b, hb, hp⟩ := h.cmd?_walkDone p co uid
    obtain ⟨b', hb', hwho⟩ := ih (h.walkDone p)
    refine ⟨b || b', ?_, fun w hw => ?_⟩
    · rw [List.foldl_cons, hb', hb, Option.map_map]
      exact congrArg (fun f => Option.map f _) (funext fun c => c.goOn_goOn b b')
    · rcases List.mem_cons.mp hw with hw | hw
      · rw [hp w hw.symm, Bool.true_or]
      · rw [hwho w hw, Bool.or_true]

/-- Nothing but commands changes. -/
theorem Hw.walksDone_eq (h : Hw) (who : List WalkFor) : who.foldl Hw.walkDone h = { h with cores := (who.foldl Hw.walkDone h).cores } := by
  induction who generalizing h with
  | nil => rfl
  | cons p who ih =>
    rw [List.foldl_cons, ih]
    cases p <;> rfl

/-! ### The end of a walk -/

/-- The entry of the TLB that a walk's leaf gives (R93). -/
def Walk.entry (w : Walk) (l : Leaf) : TlbEntry :=
  { ctx := w.ctx, va := w.va * 65536 / l.size * l.size, size := l.size, pa := l.pa, w := l.w, cow := l.cow }

/-- What a walk of an isle finds, once those who wait for it go on. -/
def Hw.walkFinds (h : Hw) (isle : Nat) (w : Walk) : WalkAns × Hw :=
  let g := w.who.foldl Hw.walkDone h
  g.walkAnswer { src := isle, pkey := g.keyOf isle w.ctx } ((h.isle isle).context w.ctx) (w.va * 65536)

section
variable {h g : Hw} {isle : Nat} {w : Walk}

theorem Hw.walksDone_isle (h : Hw) (who : List WalkFor) (isle : Nat) : (who.foldl Hw.walkDone h).isle isle = h.isle isle := by
  rw [Hw.walksDone_eq]
  rfl

theorem Hw.endWalk_away (hfinds : h.walkFinds isle w = (.away, g)) : h.endWalk isle w = g.await := by
  rw [Hw.walkFinds, ← Hw.walksDone_isle h w.who] at hfinds
  simp only [Hw.endWalk, hfinds]

theorem Hw.endWalk_leaf {l : Leaf} (hfinds : h.walkFinds isle w = (.leaf l, g)) : 
    h.endWalk isle w = g.onIsle isle (fun x => x.fillTlb (w.entry l)) := by
  rw [Hw.walkFinds, ← Hw.walksDone_isle h w.who] at hfinds
  simp only [Hw.endWalk, hfinds, Walk.entry]

theorem Hw.endWalk_stop {code : Byte} {d : Option (BitVec 256)} (hfinds : h.walkFinds isle w = (.stop code d, g)) :
    h.endWalk isle w = w.who.foldl (fun h p => h.walkFault isle w.ctx code d p) g := by
  rw [Hw.walkFinds, ← Hw.walksDone_isle h w.who] at hfinds
  simp only [Hw.endWalk, hfinds]

/-- Finding an answer leaves memory and isles; of the cores only commands that waited differ. -/
theorem Hw.walkFinds_leaves {ans : WalkAns} (hfinds : h.walkFinds isle w = (ans, g)) :
    g.mem = h.mem ∧ g.cores = (w.who.foldl Hw.walkDone h).cores ∧ g.isles = h.isles ∧ g.stall = h.stall := by
  have honly := ((w.who.foldl Hw.walkDone h).walkAnswer_agrees { src := isle, pkey := (w.who.foldl Hw.walkDone h).keyOf isle w.ctx }
    ((h.isle isle).context w.ctx) (w.va * 65536)).1
  rw [show (w.who.foldl Hw.walkDone h).walkAnswer _ _ _ = (ans, g) from hfinds] at honly
  obtain ⟨hmem, hcores, hisles, hstall⟩ := honly.leaves
  rw [Hw.walksDone_eq] at hmem hisles hstall
  exact ⟨hmem, hcores, hisles, hstall⟩

end

/-- An act an access of which has no route leaves the state (R15, log entry 107). -/
theorem State.attempt_of_stalled {s : State} {f : Hw → Hw} (h : (f s.toHw.atRest).stall = true) : s.attempt f = s := by
  simp only [State.attempt, h, if_true]

/-- A command that faults keeps its place and takes the fault (R139). -/
theorem Hw.cmd?_faultCmd {h : Hw} {co : CoreId} {uid : Nat} {c : Cmd} (hc : h.cmd? co uid = some c) (code : Byte) (addr : Int)
    (d : BitVec 256) :
    ∃ f : CmdFault, f.code = code
      ∧ (h.faultCmd co uid code addr d).cmd? co uid = some { c with fault := some f, piece := .idle, at_ := 0 } := by
  refine ⟨⟨code, (c.record co code addr d).addr, (c.record co code addr d).detail⟩, rfl, ?_⟩
  have hfind := h.cmd?_onCmd co co uid uid (f := fun x => { x with
    fault := some ⟨code, (c.record co code addr d).addr, (c.record co code addr d).detail⟩, piece := .idle, at_ := 0 }) (fun _ => rfl)
  rw [hc, Hw.cmd?, Hw.onCmd, Hw.core_onCore] at hfind
  simp only [and_self, if_true, Option.map_some] at hfind
  simp only [Hw.faultCmd, hc]
  rw [Hw.cmd?, Hw.takeTrap_core, Hw.core_setCore, ← hfind]
  split <;> rfl

/-- A command that waited for a walk meets its fault (R92, R139). -/
theorem Hw.walkFault_cmd {h : Hw} {co : CoreId} {uid : Nat} {c : Cmd} (hc : h.cmd? co uid = some c) (isle : Nat) (ctx : BitVec 4)
    (code : Byte) (d : Option (BitVec 256)) (b : Bool) :
    ∃ addr det, h.walkFault isle ctx code d (.cmd co uid b) = h.faultCmd co uid code addr det := by
  simp only [Hw.walkFault, hc]
  exact ⟨_, _, rfl⟩

/-! ### Invalidations -/

theorem Inval.covers_va {v : Inval} (h : v.scope = 0) (t : TlbEntry) :
    v.covers t = true ↔ t.ctx = v.ctx ∧ v.va.toNat * 65536 / t.size = t.va / t.size := by
  simp [Inval.covers, Inval.hits, h]

theorem Inval.covers_context {v : Inval} (h : v.scope = 1) (t : TlbEntry) : v.covers t = true ↔ t.ctx = v.ctx := by
  simp [Inval.covers, Inval.hits, h]

theorem Inval.covers_all {v : Inval} (h : v.scope = 2) (t : TlbEntry) : v.covers t = true := by
  simp [Inval.covers, Inval.hits, h]

theorem Inval.mem_uncovered (v : Inval) (l : List TlbEntry) (t : TlbEntry) :
    t ∈ l.filter (fun t => !v.covers t) ↔ t ∈ l ∧ ¬v.covers t = true := by
  rw [List.mem_filter, Bool.not_eq_true']
  simp

/-! ### The events -/

section
variable {s : State} {isle n : Nat} {w : Walk} {g : Hw}

/-- The isle's unit without the walk that ends. -/
def Hw.dropWalk (h : Hw) (isle n : Nat) : Hw := h.onIsle isle (fun x => { x with walks := tabDel n x.walks })

theorem execPageWalkComplete_eq (hw : tabFind (s.toHw.isle isle).walks n = some w) :
    execPageWalkComplete isle n s = .next (s.attempt (fun h => (h.dropWalk isle n).endWalk isle w)) := by
  simp only [execPageWalkComplete, hw]
  rfl

theorem pageWalkComplete_away (hw : tabFind (s.toHw.isle isle).walks n = some w)
    (hfinds : (s.toHw.atRest.dropWalk isle n).walkFinds isle w = (.away, g)) : exec (.pageWalkComplete isle n) s = .next s := by
  have hend := Hw.endWalk_away hfinds
  rw [exec_pageWalkComplete, execPageWalkComplete_eq hw, State.attempt_of_stalled (by rw [hend]; rfl)]

/-- A walk that ends in a leaf: the entry is in the TLB, and those who waited go on. -/
theorem pageWalkComplete_leaf {l : Leaf} (hw : tabFind (s.toHw.isle isle).walks n = some w)
    (hfinds : (s.toHw.atRest.dropWalk isle n).walkFinds isle w = (.leaf l, g)) :
    ∃ u : State, exec (.pageWalkComplete isle n) s = .next u
      ∧ u.toHw.isle isle = ({ s.toHw.isle isle with walks := tabDel n (s.toHw.isle isle).walks } : Isle).fillTlb (w.entry l)
      ∧ u.cores = (w.who.foldl Hw.walkDone (s.toHw.atRest.dropWalk isle n)).cores ∧ u.mem = s.mem := by
  have hend := Hw.endWalk_leaf hfinds
  obtain ⟨hmem, hcores, hisles, hstall⟩ := Hw.walkFinds_leaves hfinds
  have hrouted : ((s.toHw.atRest.dropWalk isle n).endWalk isle w).stall = false := by
    rw [hend]
    exact hstall
  rw [exec_pageWalkComplete, execPageWalkComplete_eq hw, State.attempt_of_routed hrouted, hend]
  have hisle : g.isle isle = { s.toHw.isle isle with walks := tabDel n (s.toHw.isle isle).walks } := by
    rw [Hw.isle, hisles]
    exact Hw.isle_onIsle s.toHw.atRest isle _
  refine ⟨_, rfl, ?_, hcores, hmem⟩
  rw [← hisle]
  exact Hw.isle_onIsle g isle (fun x => x.fillTlb (w.entry l))

/-- A walk that ends in a fault for one command: it faults, and its core stops. -/
theorem pageWalkComplete_stop {code : Byte} {d : Option (BitVec 256)} {co : CoreId} {uid : Nat} {b : Bool} {c : Cmd}
    (hw : tabFind (s.toHw.isle isle).walks n = some w) (hwho : w.who = [.cmd co uid b]) (hc : s.toHw.cmd? co uid = some c)
    (hfinds : (s.toHw.atRest.dropWalk isle n).walkFinds isle w = (.stop code d, g)) :
    ∃ (u : State) (c' : Cmd) (f : CmdFault), exec (.pageWalkComplete isle n) s = .next u ∧ (u.toHw.core co).stopped = true
      ∧ u.toHw.cmd? co uid = some c' ∧ c'.fault = some f ∧ f.code = code ∧ c'.done = c.done
      ∧ ∀ a, memRead u.mem a = memRead s.mem a := by
  obtain ⟨hmem, hcores, -, hstall⟩ := Hw.walkFinds_leaves hfinds
  obtain ⟨r, hr, -⟩ := (s.toHw.atRest.dropWalk isle n).cmd?_walksDone w.who co uid
  have hcg : g.cmd? co uid = some (c.goOn r) := by
    rw [Hw.cmd?_of_cores hcores, hr]
    exact congrArg (Option.map (Cmd.goOn r)) hc
  obtain ⟨addr, det, hfault⟩ := Hw.walkFault_cmd hcg isle w.ctx code d b
  obtain ⟨f, hcode, hfaulted⟩ := Hw.cmd?_faultCmd hcg code addr det
  obtain ⟨k, rec, htrap, -⟩ := Hw.faultCmd_of_some hcg code addr det
  have hend : (s.toHw.atRest.dropWalk isle n).endWalk isle w = g.faultCmd co uid code addr det := by
    rw [Hw.endWalk_stop hfinds, hwho]
    exact hfault
  have hrouted : ((s.toHw.atRest.dropWalk isle n).endWalk isle w).stall = false := by
    rw [hend, htrap]
    exact hstall
  have hread : (g.faultCmd co uid code addr det).mem = s.mem := by
    rw [htrap]
    exact hmem
  rw [exec_pageWalkComplete, execPageWalkComplete_eq hw, State.attempt_of_routed hrouted, hend]
  refine ⟨_, _, f, rfl, ?_, hfaulted, rfl, hcode, c.goOn_done r, fun a => congrArg (memRead · a) hread⟩
  show ((g.faultCmd co uid code addr det).core co).stopped = true
  rw [htrap, Hw.takeTrap_core]
  rfl

end

/-- Settles O49: a walk reads the tables as they stand, and its answer fills the TLB, stops the command that waited, or leaves all as it
is; invalidations queue, and the oldest takes away what it covers. That a read without a route leaves all as it is, and that
a full TLB drops its oldest entry, is the model's choice (log entries 107 and 46). -/
theorem translationUnit : Obligations.TranslationUnit := by
  intro s isle n ctx va x freed asked
  have hasked (w : Walk) : (s.toHw.atRest.dropWalk isle n).walkFinds isle w = asked w := by
    rw [Hw.walkFinds, Hw.dropWalk, Hw.isle_onIsle]
    rfl
  refine ⟨fun w l h hw hans => ?_, fun w h code d co uid b c hw hwho hc hans => ?_, fun m y v l h hans => ?_,
    fun m y v hen => s.toHw.walkAnswer_disabled m v hen, fun m y v lv en hfault => ?_, fun w h hw hans => ?_,
    isleIs_onIsle s isle _, isleIs_onIsle s isle _, isleIs_onIsle s isle _, fun v rest hinvs hflight => ?_⟩
  · obtain ⟨u, hu, hisle, hcores, hmem⟩ := pageWalkComplete_leaf hw ((hasked w).trans hans)
    refine ⟨u, hu, hisle, fun co uid b c hwait hc hwalking => ?_, fun a => by rw [hmem]⟩
    obtain ⟨r, hr, hgo⟩ := (s.toHw.atRest.dropWalk isle n).cmd?_walksDone w.who co uid
    refine ⟨c.goOn true, ?_, Cmd.goOn_walking hwalking⟩
    rw [Hw.cmd?_of_cores hcores, hr, hgo b hwait]
    exact congrArg (Option.map (Cmd.goOn true)) hc
  · exact pageWalkComplete_stop hw hwho hc ((hasked w).trans hans)
  · have hen : y.en = true := by
      by_contra hen
      rw [s.toHw.walkAnswer_disabled m v (Bool.eq_false_iff.mpr hen)] at hans
      exact nomatch hans
    have hagrees := (s.toHw.walkAnswer_agrees m y v).2
    rw [hans] at hagrees
    exact ⟨hen, hagrees⟩
  · have hagrees := (s.toHw.walkAnswer_agrees m y v).2
    rw [hfault] at hagrees
    generalize s.toHw.walkAnswer m y v = r at hagrees ⊢
    obtain ⟨ans, h⟩ := r
    cases ans with
    | away => exact .inl ⟨h, rfl⟩
    | leaf l =>
      obtain ⟨_, _, hne⟩ := hagrees
      exact nomatch hne
    | stop code d => exact .inr ⟨code, d, h, rfl, hagrees⟩
  · exact pageWalkComplete_away hw ((hasked w).trans hans)
  · have hexec : exec (.ituinvComplete isle) s
        = .next (s.upd (fun h => h.onIsle isle (fun x => { x with invs := rest, tlb := x.tlb.filter (fun t => !v.covers t) }))) := by
      simp only [exec_ituinvComplete, execItuinvComplete, show (s.toHw.isle isle).invs = v :: rest from hinvs, hflight,
        Bool.false_eq_true, if_false]
    rw [hexec]
    refine ⟨x.tlb.filter (fun t => !v.covers t), isleIs_onIsle s isle _, fun hscope t => ?_, fun hscope t => ?_, fun hscope => ?_⟩
    · rw [Inval.mem_uncovered, Inval.covers_va hscope]
    · rw [Inval.mem_uncovered, Inval.covers_context hscope]
    · exact List.filter_eq_nil_iff.mpr fun t _ => by rw [Inval.covers_all hscope]; decide

end Sys2Proof.Machine
end

section
/-! SUPPORT. Lines that are sound, the monitors of `await.mem`, and the copies of streams (R105, R266, R267, R273, R274). -/

namespace Sys2Proof.Machine

/-! ### The check of a line -/

section
variable {h : Hw} {pa : Nat}

/-- A line whose cells hold no error is checked without effect, and its data is there unless it is BAD (R105). -/
theorem Hw.checkLine_of_noErr (herr : tabFind h.errs (pa / 64) = none) : h.checkLine pa .clean = (!(h.lineOf pa).bad, h) := by
  have hecc : h.eccOf pa .clean = .clean := by simp only [Hw.eccOf, herr]
  rw [Hw.checkLine, hecc]
  cases hbad : (h.lineOf pa).bad <;> simp

theorem Hw.checkLine_of_sound (hbad : (h.lineOf pa).bad = false) (herr : tabFind h.errs (pa / 64) = none) :
    h.checkLine pa .clean = (true, h) := by
  rw [Hw.checkLine_of_noErr herr, hbad]
  rfl

/-- A BAD line is met as it stands, whatever its cells hold (R105). -/
theorem Hw.checkLine_of_bad (hbad : (h.lineOf pa).bad = true) (ecc : Ecc) : h.checkLine pa ecc = (false, h) := by
  rw [Hw.checkLine, if_pos hbad]

end

/-! ### Bytes that a write copies -/

@[simp] theorem Hw.bytes_length (h : Hw) (k n : Nat) : (h.bytes k n).length = n := by simp [Hw.bytes, memReadN]

theorem Hw.getElem_bytes (h : Hw) {k n i : Nat} (hi : i < (h.bytes k n).length) : (h.bytes k n)[i] = memRead h.mem (k + i) := by
  simp [Hw.bytes, memReadN]

theorem Hw.memRead_copy_in {h : Hw} (w : h.Ok) (k j : Nat) {n i : Nat} (hi : i < n) :
    memRead (h.write k (h.bytes j n)).mem (k + i) = memRead h.mem (j + i) := by
  have hlen : i < (h.bytes j n).length := by rwa [Hw.bytes_length]
  exact (memRead_writeN_in _ k i w hlen).trans (h.getElem_bytes hlen)

theorem Hw.memRead_copy_out {h : Hw} (w : h.Ok) (k j : Nat) {n b : Nat} (hb : b < k ∨ k + n ≤ b) :
    memRead (h.write k (h.bytes j n)).mem b = memRead h.mem b :=
  memRead_writeN_out _ k b w (by rwa [Hw.bytes_length])

/-! ### Copies of slots -/

section
variable {s : State} {site ring : Nat} {c : StreamCopy}

theorem Hw.streamStop_eq_none {h : Hw} (hcells : h.cellErrIn [(localKey c.co c.off, c.size)] = none) : h.streamStop c = none := by
  rw [Hw.streamStop, hcells]
  rfl

/-- The oldest reserved slot is published: bytes from local memory to the slot, PUTSEQ past it (R273). -/
theorem sputPublish_publishes (hhead : s.toHw.streamHead site ring true = some c) (hseq : (s.toHw.ring site ring).putseq = c.seq)
    (hroute : s.toHw.linked c.co.isle site = true) (hcells : s.toHw.cellErrIn [(localKey c.co c.off, c.size)] = none) :
    exec (.sputPublish site ring) s = .next (s.upd (fun h =>
      ((h.write ((s.toHw.ring site ring).slotPlace site c.seq) (h.bytes (localKey c.co c.off) c.size)).onRing site ring
        (fun r => { r with putseq := c.seq + 1 })).dropStream c)) := by
  simp only [exec_sputPublish, execSputPublish, hhead, hseq, hroute, State.upd, Hw.streamStop_eq_none hcells, Option.getD_none,
    ne_eq, not_true_eq_false, decide_false, Bool.not_true, Bool.or_self, Bool.false_eq_true, if_false]

/-- The oldest taken slot reaches local memory where no barrier's slot refuses it, and GETSEQ passes it (R274). -/
theorem sgetCopyComplete_lands (hhead : s.toHw.streamHead site ring false = some c) (hseq : (s.toHw.ring site ring).getseq = c.seq)
    (hroute : s.toHw.linked site c.co.isle = true) (hfree : (s.toHw.core c.co).barrierIn c.off c.size = none)
    (hcells : s.toHw.cellErrIn [(localKey c.co c.off, c.size)] = none) :
    exec (.sgetCopyComplete site ring) s = .next (s.upd (fun h =>
      ((h.write (localKey c.co c.off) (h.bytes ((s.toHw.ring site ring).slotPlace site c.seq) c.size)).onRing site ring
        (fun r => { r with getseq := c.seq + 1 })).dropStream c)) := by
  simp only [exec_sgetCopyComplete, execSgetCopyComplete, hhead, hseq, hroute, hfree, State.upd, Hw.streamStop_eq_none hcells,
    Option.getD_none, ne_eq, not_true_eq_false, decide_false, Bool.not_true, Bool.or_self, Bool.false_eq_true, if_false]

end

/-! ### The end of a wait -/

section
variable {h : Hw} {co : CoreId} {e : EngId} {m : AMem}

theorem Hw.eng_onEng (h : Hw) (co : CoreId) (e : EngId) (f : Eng → Eng) :
    ((h.onEng co e f).core co).eng e = f ((h.core co).eng e) := by
  rw [Hw.onEng, Hw.core_onCore, Core.eng_setEng]

theorem Hw.amem_onAmem (hamem : ((h.core co).eng e).amem = some m) (f : AMem → AMem) :
    (((h.onAmem co e f).core co).eng e).amem = some (f m) := by
  rw [Hw.onAmem, Hw.eng_onEng, hamem]
  rfl

theorem Hw.g_onAmem (h : Hw) (co : CoreId) (e : EngId) (f : AMem → AMem) :
    (((h.onAmem co e f).core co).eng e).g = ((h.core co).eng e).g := by
  rw [Hw.onAmem, Hw.eng_onEng]

/-- A change of the wait is known by what it makes of the wait that stands. -/
theorem Hw.onAmem_congr (hamem : ((h.core co).eng e).amem = some m) {f f' : AMem → AMem} (hf : f m = f' m) :
    h.onAmem co e f = h.onAmem co e f' := by
  simp only [Hw.onAmem, Hw.onEng, Hw.onCore, hamem, Option.map_some, hf]

/-- The engine's wait has ended with a status in its gD; its other registers and every byte of memory are as before (R266). -/
def State.WakesTo (s u : State) (co : CoreId) (e : EngId) (d : BitVec 6) (v : Nat) : Prop :=
  let g := (s.toHw.core co).eng e
  let x := (u.toHw.core co).eng e
  x.amem = none ∧ (d ≠ 0 → x.g.get d.toFin = ⟨BitVec.ofNat 64 v, false⟩) ∧ (∀ r : Fin 64, r ≠ d.toFin → x.g.get r = g.g.get r)
    ∧ ∀ b, memRead u.mem b = memRead s.mem b

theorem Hw.eng_wake (hamem : ((h.core co).eng e).amem = some m) (v : Nat) :
    ((h.wake co e v).core co).eng e = { (h.core co).eng e with
      amem := none
      g := if m.d = 0 then ((h.core co).eng e).g else ((h.core co).eng e).g.set m.d.toNat ⟨BitVec.ofNat 64 v, false⟩ m.d.isLt } := by
  rw [Hw.wake, Hw.eng_onEng]
  simp only [hamem]

/-- An act that wakes the engine once it has changed neither registers nor memory. -/
theorem wakesTo_of_wake {s : State} {f : Hw → Hw} {v : Nat} (hact : f s.toHw = h.wake co e v)
    (hamem : ((h.core co).eng e).amem = some m) (hregs : ((h.core co).eng e).g = ((s.toHw.core co).eng e).g) (hmem : h.mem = s.mem) :
    s.WakesTo (s.upd f) co e m.d v := by
  have heng := Hw.eng_wake hamem v
  rw [← hact, hregs] at heng
  refine ⟨congrArg Eng.amem heng, fun hd => ?_, fun r hr => ?_, fun b => ?_⟩
  · rw [State.upd_toHw, heng, if_neg hd]
    exact (get_set_at _ _ m.d.isLt _ _).trans (if_pos rfl)
  · rw [State.upd_toHw, heng]
    by_cases hd : m.d = 0
    · rw [if_pos hd]
    · rw [if_neg hd]
      exact (get_set_at _ _ m.d.isLt _ _).trans (if_neg fun hval => hr (Fin.ext hval))
  · have hout : (f s.toHw).mem = s.mem := by rw [hact, ← hmem]; rfl
    exact congrArg (memRead · b) hout

/-! ### Placing a monitor -/

variable {pa lid : Nat}

/-- The square's waiting requests without this one. -/
def Hw.unqueue (h : Hw) (co : CoreId) (e : EngId) (pa : Nat) : Hw :=
  { h with monWait := tabPut ((h.monQueue (paSite pa)).filter (fun x => x != (co, e))) (paSite pa) h.monWait }

/-- A request becomes the youngest entry of its square (R266). -/
def Hw.enter (h : Hw) (co : CoreId) (e : EngId) (pa lid : Nat) : Hw :=
  ({ h with monitors := tabPut (h.monitorsOf (paSite pa) ++ [{ line := pa / 64, co := co, eng := e, lid := lid }]) (paSite pa) h.monitors } : Hw).onAmem
    co e (fun m => { m with pa := some pa, placed := true })

/-- A request waits for an entry, after those that came before it (R267). -/
def Hw.lineUp (h : Hw) (co : CoreId) (e : EngId) (pa : Nat) : Hw :=
  ({ h with monWait := tabPut (h.monQueue (paSite pa) ++ [(co, e)]) (paSite pa) h.monWait } : Hw).onAmem co e (fun m => { m with pa := some pa })

/-- Of a sound line, the word decides (R266), then the order of arrival and the room of the square (R114, R267). -/
theorem Hw.placeMonitor_of_sound (hbad : (h.lineOf pa).bad = false) (herr : tabFind h.errs (pa / 64) = none) :
    h.placeMonitor co e m pa lid =
      if h.num pa 8 ≠ m.expected.toNat then (h.unqueue co e pa).wake co e 3
      else if ((h.monQueue (paSite pa)).head?).all (fun x => x == (co, e)) && decide ((h.monitorsOf (paSite pa)).length < 256) then
        (h.unqueue co e pa).enter co e pa lid
      else (h.unqueue co e pa).lineUp co e pa := by
  have hcheck : (h.unqueue co e pa).checkLine pa .clean = (true, h.unqueue co e pa) := Hw.checkLine_of_sound hbad herr
  have hnum : (h.unqueue co e pa).num = h.num := Hw.num_congr rfl
  have hqueue : (h.unqueue co e pa).monQueue (paSite pa) = (h.monQueue (paSite pa)).filter (fun x => x != (co, e)) :=
    tabGet_put_same _ _ _ _
  rw [Hw.lineUp, hqueue, ← hnum]
  rw [Hw.unqueue] at hcheck
  simp only [Hw.placeMonitor, hcheck, Bool.not_true, Bool.false_eq_true, if_false]
  rfl

theorem Hw.placeMonitor_differs (hbad : (h.lineOf pa).bad = false) (herr : tabFind h.errs (pa / 64) = none)
    (hword : h.num pa 8 ≠ m.expected.toNat) : h.placeMonitor co e m pa lid = (h.unqueue co e pa).wake co e 3 := by
  rw [Hw.placeMonitor_of_sound hbad herr, if_pos hword]

/-- An equal word takes an entry while the square has room and no request waits. -/
theorem Hw.placeMonitor_enters (hbad : (h.lineOf pa).bad = false) (herr : tabFind h.errs (pa / 64) = none)
    (hword : h.num pa 8 = m.expected.toNat) (hroom : (h.monitorsOf (paSite pa)).length < 256) (hqueue : h.monQueue (paSite pa) = []) :
    h.placeMonitor co e m pa lid = (h.unqueue co e pa).enter co e pa lid := by
  rw [Hw.placeMonitor_of_sound hbad herr, if_neg (not_not_intro hword), hqueue]
  exact if_pos (decide_eq_true hroom)

end

section
variable {s : State} {co : CoreId} {e : EngId} {m : AMem} {pa : Nat}

/-- The request's page is noted with it. -/
def Hw.notePage (h : Hw) (co : CoreId) (e : EngId) (va : Nat) : Hw :=
  h.onAmem co e (fun m => { m with page := h.pageOf co.isle ((h.core co).task.getD {}).ctx va })

/-- A translated request that its slice admits is judged there (R266). -/
theorem monitorRequest_reaches (hamem : ((s.toHw.core co).eng e).amem = some m) (hruns : m.halted = false) (hnew : m.placed = false)
    (hpa : m.pa = none) (hhit : s.toHw.xlate co.isle ((s.toHw.core co).task.getD {}).ctx m.va false = .hit pa) (hline : paTarget pa = .line)
    (hadmits : (s.toHw.notePage co e m.va).sliceCheck pa { src := co.isle, pkey := ((s.toHw.core co).task.getD {}).pkey } opRead false
      = (.line pa, s.toHw.notePage co e m.va))
    (hroute : s.toHw.linked co.isle (paSite pa) = true) :
    exec (.monitorRequest co e) s
      = .next (s.upd (fun h => (h.notePage co e m.va).placeMonitor co e m pa ((s.toHw.core co).task.getD {}).lid)) := by
  have hpage : s.toHw.onAmem co e (fun m => { m with page := s.toHw.pageOf co.isle ((s.toHw.core co).task.getD {}).ctx m.va })
      = s.toHw.notePage co e m.va := Hw.onAmem_congr hamem rfl
  simp only [exec_monitorRequest, execMonitorRequest, hamem, hruns, hnew, hpa, State.upd, hhit, hline, hroute, hpage, hadmits,
    Bool.or_self, Bool.not_true, Bool.false_eq_true, if_false]

/-- A request without an entry is given up (R267). -/
theorem monitorTimeout_wakes (hamem : ((s.toHw.core co).eng e).amem = some m) (hnew : m.placed = false) (hpa : m.pa = some pa) :
    exec (.monitorTimeout co e) s = .next (s.upd (fun h => (h.unqueue co e pa).wake co e 2)) := by
  simp only [exec_monitorTimeout, execMonitorTimeout, hamem, hpa, hnew, Hw.unqueue, Bool.false_eq_true, if_false]

end

/-- Settles O52: a request that reaches its slice is judged by the word there, an end of a wait writes one register, and a slot's
copy is one write of memory. -/
theorem monitorsAndStreamCopies : Obligations.MonitorsAndStreamCopies := by
  intro s co e site ring pa m g t d page gets
  refine ⟨fun hamem hruns hnew hpa hhit hline hadmits hroute hbad herr => ?_, fun hamem hnew hpa => ?_,
    fun c hok hhead hseq hroute hcells => ?_, fun c hok hhead hseq hroute hfree hcells => ?_⟩
  · have hexec := monitorRequest_reaches hamem hruns hnew hpa hhit hline hadmits hroute
    have hnoted : (((s.toHw.notePage co e m.va).core co).eng e).amem = some { m with page := page } := Hw.amem_onAmem hamem _
    have hnum : (s.toHw.notePage co e m.va).num = s.toHw.num := Hw.num_congr rfl
    refine ⟨fun hword hroom hqueue => ⟨_, hexec, ?_⟩, fun hword => ⟨_, hexec, ?_⟩⟩
    · rw [← hnum] at hword
      rw [State.upd, Hw.placeMonitor_enters (h := s.toHw.notePage co e m.va) hbad herr hword hroom hqueue]
      exact ⟨tabGet_put_same _ _ _ _, Hw.amem_onAmem hnoted _, fun _ => rfl⟩
    · rw [← hnum] at hword
      exact wakesTo_of_wake (m := { m with page := page }) (Hw.placeMonitor_differs (h := s.toHw.notePage co e m.va) hbad herr hword) hnoted
        (s.toHw.g_onAmem co e _) rfl
  · exact ⟨_, monitorTimeout_wakes hamem hnew hpa, wakesTo_of_wake rfl hamem rfl rfl⟩
  · exact ⟨_, sputPublish_publishes hhead hseq hroute hcells, tabGet_put_same _ _ _ _, rfl,
      fun i hi => Hw.memRead_copy_in hok _ _ hi, fun b hb => Hw.memRead_copy_out hok _ _ hb⟩
  · exact ⟨_, sgetCopyComplete_lands hhead hseq hroute hfree hcells, tabGet_put_same _ _ _ _, rfl,
      fun i hi => Hw.memRead_copy_in hok _ _ hi, fun b hb => Hw.memRead_copy_out hok _ _ hb⟩

end Sys2Proof.Machine
end

section
/-! SUPPORT. The steps of a slice: requests, scrub, row tracking, sparing and refresh (R99, R101, R104-R110). -/

namespace Sys2Proof.Machine

/-! ### What a write of a line leaves -/

/-- Memory, the slices, and the commands of every core. -/
def Hw.served (h : Hw) : List Host.Cell × (Nat → Nat → Slice) × (CoreId → List Cmd) :=
  (h.mem, h.slice, fun co => (h.core co).cmds)

theorem Hw.served_onCore (h : Hw) (co : CoreId) {f : Core → Core} (hf : ∀ k, (f k).cmds = k.cmds) : (h.onCore co f).served = h.served := by
  refine Prod.ext rfl (Prod.ext rfl (funext fun d => ?_))
  show ((h.onCore co f).core d).cmds = (h.core d).cmds
  by_cases hd : CoreId.key d = CoreId.key co
  · rw [Hw.core_of_key _ hd, Hw.core_of_key _ hd, Hw.core_onCore, hf]
  · rw [Hw.onCore, Hw.core_setCore_other _ _ hd]

theorem Hw.served_wake (h : Hw) (co : CoreId) (e : EngId) (status : Nat) : (h.wake co e status).served = h.served := by
  rw [Hw.wake, Hw.onEng]
  exact h.served_onCore co fun k => k.setEng_cmds e _

theorem Hw.served_releaseMonitors (h : Hw) (site status : Nat) (p : Monitor → Bool) : (h.releaseMonitors site status p).served = h.served := by
  rw [Hw.releaseMonitors, foldl_keeps Hw.served]
  · rfl
  · intro h m
    exact h.served_wake m.co m.eng status

section
variable {h : Hw} {pa : Nat} {bs : List Byte}

/-- A sound line takes the bytes written into it; the slices and the commands are as they were (R101). -/
theorem Hw.served_writeLine (hbad : (h.lineOf pa).bad = false) (herr : tabFind h.errs (pa / 64) = none) (stamp : LineMeta) :
    (h.writeLine pa bs stamp).served = if changedAt h.mem pa bs = [] then h.served else (h.write pa bs).served := by
  have hopen (whole : Bool) : ∃ g : Hw,
      (if whole = true then (true, ({ h with errs := tabDel (pa / 64) h.errs } : Hw)) else h.checkLine pa .clean) = (true, g)
        ∧ (g.lineOf pa).bad = false ∧ g.served = h.served ∧ (g.write pa bs).served = (h.write pa bs).served := by
    cases whole with
    | true => exact ⟨_, rfl, hbad, rfl, rfl⟩
    | false => exact ⟨h, Hw.checkLine_of_sound hbad herr, hbad, rfl, rfl⟩
  obtain ⟨g, hg, hgbad, hgserved, hgwrite⟩ := hopen (decide (pa % 64 = 0) && decide (64 ≤ bs.length))
  have hgmem : g.mem = h.mem := congrArg Prod.fst hgserved
  rw [Hw.writeLine]
  simp only [hg, hgbad, hgmem, Bool.and_false, Bool.false_eq_true, if_false, Bool.not_true, Bool.false_or, beq_iff_eq]
  by_cases hsame : changedAt h.mem pa bs = []
  · rw [if_pos hsame, if_pos hsame, hgserved]
  · rw [if_neg hsame, if_neg hsame, Hw.served_releaseMonitors]
    exact hgwrite

theorem memRead_of_unchanged {m : List Host.Cell} {k i : Nat} (hnone : changedAt m k bs = []) (hi : i < bs.length) :
    memRead m (k + i) = bs[i] := by
  by_contra hne
  have hin : k + i ∈ changedAt m k bs := mem_changedAt.mpr ⟨i, hi, rfl, hne⟩
  rw [hnone] at hin
  exact absurd hin List.not_mem_nil

/-- After the write of a sound line its place holds the bytes written, and every other byte is as before. -/
theorem Hw.writeLine_writes (w : h.Ok) (hbad : (h.lineOf pa).bad = false) (herr : tabFind h.errs (pa / 64) = none) (stamp : LineMeta) :
    (∀ i, i < bs.length → memRead (h.writeLine pa bs stamp).mem (pa + i) = bs.getD i 0)
      ∧ ∀ a, a < pa ∨ pa + bs.length ≤ a → memRead (h.writeLine pa bs stamp).mem a = memRead h.mem a := by
  have hmem : (h.writeLine pa bs stamp).mem = if changedAt h.mem pa bs = [] then h.mem else memWriteN bs pa h.mem := by
    refine (congrArg Prod.fst (Hw.served_writeLine hbad herr stamp)).trans ?_
    split <;> rfl
  rw [hmem]
  refine ⟨fun i hi => ?_, fun a ha => ?_⟩
  · rw [List.getD_eq_getElem bs 0 hi]
    split
    · next hnone => exact memRead_of_unchanged hnone hi
    · exact memRead_writeN_in bs pa i w hi
  · split
    · rfl
    · exact memRead_writeN_out bs pa a w ha

theorem Hw.writeLine_leaves (hbad : (h.lineOf pa).bad = false) (herr : tabFind h.errs (pa / 64) = none) (stamp : LineMeta) :
    (h.writeLine pa bs stamp).slice = h.slice ∧ ∀ co uid, (h.writeLine pa bs stamp).cmd? co uid = h.cmd? co uid := by
  have hserved : (h.writeLine pa bs stamp).served.2 = h.served.2 := by
    rw [Hw.served_writeLine hbad herr]
    split <;> rfl
  refine ⟨congrArg Prod.fst hserved, fun co uid => ?_⟩
  have hcmds : ((h.writeLine pa bs stamp).core co).cmds = (h.core co).cmds := congrFun (congrArg Prod.snd hserved) co
  rw [Hw.cmd?, hcmds, ← Hw.cmd?]

end

/-! ### Requests -/

section
variable {h : Hw} {r : SliceReq} {co : CoreId} {uid : Nat} {c : Cmd}

/-- What a slice does with a request that it has taken (R101, R105). -/
def Hw.serve (h : Hw) (r : SliceReq) (ecc : Ecc) : Hw :=
  match h.openLine r ecc with
  | (true, g) => if r.write then g.serveWrite r else g.serveRead r
  | (false, g) => g.refuseLine r

/-- The order of arrival without one request. -/
def Hw.dropReq (h : Hw) (site slice n : Nat) : Hw := h.onSlice site slice (fun x => { x with reqs := x.reqs.eraseIdx n })

theorem Hw.slice_dropReq (h : Hw) (site slice n : Nat) :
    (h.dropReq site slice n).slice site slice = { h.slice site slice with reqs := (h.slice site slice).reqs.eraseIdx n } :=
  h.slice_onSlice site slice _

/-- The first request of its line is taken and performed (R101). -/
theorem sliceRequest_serves {s : State} {site slice n : Nat} (hr : (s.toHw.slice site slice).reqs[n]? = some r)
    (hfirst : ∀ q ∈ (s.toHw.slice site slice).reqs.take n, q.pa / 64 ≠ r.pa / 64) (ecc : Ecc) :
    exec (.sliceRequest site slice n ecc) s = .next (s.upd (fun h => (h.dropReq site slice n).serve r ecc)) := by
  have hnone : ((s.toHw.slice site slice).reqs.take n).any (fun q => q.pa / 64 == r.pa / 64) = false :=
    List.any_eq_false.mpr fun q hq => by simpa using hfirst q hq
  simp only [exec_sliceRequest, execSliceRequest, hr, hnone, Bool.false_eq_true, if_false]
  refine congrArg Host.Outcome.next (State.upd_congr ?_)
  rw [Hw.serve, Hw.dropReq]
  generalize Hw.openLine _ r ecc = x
  obtain ⟨ok, g⟩ := x
  cases ok <;> rfl

theorem Hw.openLine_read (hread : r.write = false) (ecc : Ecc) : h.openLine r ecc = h.checkLine r.pa ecc := by
  simp only [Hw.openLine, hread, Bool.false_and, Bool.false_eq_true, if_false]

theorem Hw.openLine_of_sound (hbad : (h.lineOf r.pa).bad = false) (herr : tabFind h.errs (r.pa / 64) = none) :
    h.openLine r .clean = (true, h) := by
  rw [Hw.openLine, Hw.checkLine_of_sound hbad herr, ite_self]

/-- A read of a sound line gives its bytes to the command that asked, each with the mark of R300. -/
theorem Hw.serve_read (hwho : r.who = .cmd co uid) (hc : h.cmd? co uid = some c) (hread : r.write = false)
    (hbad : (h.lineOf r.pa).bad = false) (herr : tabFind h.errs (r.pa / 64) = none) :
    h.serve r .clean = h.onCmd co uid (fun c' => c'.take ((h.bytes r.pa r.len).map (fun b => (b, r.smark && (h.lineOf r.pa).racy c.task)))) := by
  simp only [Hw.serve, Hw.openLine_of_sound hbad herr, hread, Hw.serveRead, hwho, hc, Bool.false_eq_true, if_false]

theorem Hw.serve_write (hwho : r.who = .cmd co uid) (hc : h.cmd? co uid = some c) (hwrite : r.write = true)
    (hbad : (h.lineOf r.pa).bad = false) (herr : tabFind h.errs (r.pa / 64) = none) :
    h.serve r .clean = (h.writeLine r.pa r.data c.task.stamp).advanceCmd co uid r.len := by
  simp only [Hw.serve, Hw.openLine_of_sound hbad herr, hwrite, Hw.serveWrite, hwho, hc, if_true]

/-- A read of a BAD line ends the command with code 0x70 (R105, R139). -/
theorem Hw.serve_bad (hwho : r.who = .cmd co uid) (hc : h.cmd? co uid = some c) (hread : r.write = false)
    (hbad : (h.lineOf r.pa).bad = true) (ecc : Ecc) :
    h.serve r ecc = h.faultCmd co uid 0x70 c.nextRead.addr (machineDetail 6 r.pa) := by
  simp only [Hw.serve, Hw.openLine_read hread, Hw.checkLine_of_bad hbad, Hw.refuseLine, hwho, hc, hread, Bool.false_eq_true, if_false]

/-- DONE of a command whose destination is neither own nor remote local memory: only the command's core changes (R124). -/
theorem Hw.advanceCmd_elsewhere (hc : h.cmd? co uid = some c) (hown : c.cd.space ≠ 1) (hremote : c.cd.space ≠ 2) (n : Nat) :
    h.advanceCmd co uid n = ((h.onCmd co uid (fun _ => c.put n)).onCmd co uid Cmd.finish).onCore co Core.sweep := by
  have hlocal : (c.cd.space == 1 || c.cd.space == 2) = false := by simp [hown, hremote]
  simp only [Hw.advanceCmd, hc, hlocal, Bool.false_and, Bool.false_eq_true, if_false, ite_self]

end

/-! ### What a request makes of its command, its slice and memory -/

section
variable {s : State} {site slice n : Nat} {r : SliceReq} {co : CoreId} {uid : Nat} {c : Cmd}
variable (hr : (s.toHw.slice site slice).reqs[n]? = some r)
  (hfirst : ∀ q ∈ (s.toHw.slice site slice).reqs.take n, q.pa / 64 ≠ r.pa / 64)
  (hwho : r.who = .cmd co uid) (hc : s.toHw.cmd? co uid = some c)
include hr hfirst hwho hc

/-- The command takes the bytes; a mark needs a request that asks for one (R300). -/
theorem sliceRequest_reads (hread : r.write = false) (hbad : (s.toHw.lineOf r.pa).bad = false) (herr : tabFind s.errs (r.pa / 64) = none) :
    ∃ (u : State) (marks : Bool), exec (.sliceRequest site slice n .clean) s = .next u
      ∧ u.toHw.core co = (s.toHw.core co).onCmd uid (fun c => c.take ((s.toHw.bytes r.pa r.len).map (fun b => (b, marks))))
      ∧ (r.smark = false → marks = false)
      ∧ u.toHw.slice site slice = { s.toHw.slice site slice with reqs := (s.toHw.slice site slice).reqs.eraseIdx n }
      ∧ ∀ a, memRead u.mem a = memRead s.mem a := by
  have hserve := Hw.serve_read (h := s.toHw.dropReq site slice n) hwho hc hread hbad herr
  refine ⟨_, r.smark && (s.toHw.lineOf r.pa).racy c.task, sliceRequest_serves hr hfirst .clean, ?_,
    fun hmark => by rw [hmark, Bool.false_and], ?_, fun a => ?_⟩
  all_goals rw [State.upd, hserve]
  · exact Hw.core_onCore _ co _
  · exact s.toHw.slice_dropReq site slice n
  · rfl

/-- Memory takes the request's bytes at its place, and no others (R101). -/
theorem sliceRequest_writes (hwrite : r.write = true) (hok : s.Inv) (hbad : (s.toHw.lineOf r.pa).bad = false)
    (herr : tabFind s.errs (r.pa / 64) = none) (hspace : c.cd.space = 3) :
    ∃ u : State, exec (.sliceRequest site slice n .clean) s = .next u
      ∧ (∀ i, i < r.data.length → memRead u.mem (r.pa + i) = r.data.getD i 0)
      ∧ (∀ a, a < r.pa ∨ r.pa + r.data.length ≤ a → memRead u.mem a = memRead s.mem a)
      ∧ u.toHw.slice site slice = { s.toHw.slice site slice with reqs := (s.toHw.slice site slice).reqs.eraseIdx n } := by
  have hserve := Hw.serve_write (h := s.toHw.dropReq site slice n) hwho hc hwrite hbad herr
  obtain ⟨hslice, hcmds⟩ := Hw.writeLine_leaves (h := s.toHw.dropReq site slice n) (bs := r.data) hbad herr c.task.stamp
  obtain ⟨hin, hout⟩ := Hw.writeLine_writes (h := s.toHw.dropReq site slice n) (bs := r.data) hok hbad herr c.task.stamp
  rw [Hw.advanceCmd_elsewhere ((hcmds co uid).trans hc) (by rw [hspace]; decide) (by rw [hspace]; decide)] at hserve
  refine ⟨_, sliceRequest_serves hr hfirst .clean, ?_⟩
  rw [State.upd, hserve]
  exact ⟨hin, hout, (congrFun (congrFun hslice site) slice).trans (s.toHw.slice_dropReq site slice n)⟩

/-- A read of a BAD line stops the command's core and leaves 0x70 with the command (R105, R139). -/
theorem sliceRequest_stops (hread : r.write = false) (hbad : (s.toHw.lineOf r.pa).bad = true) (ecc : Ecc) :
    ∃ (u : State) (c' : Cmd) (f : CmdFault), exec (.sliceRequest site slice n ecc) s = .next u ∧ (u.toHw.core co).stopped = true
      ∧ u.toHw.cmd? co uid = some c' ∧ c'.fault = some f ∧ f.code = 0x70 ∧ ∀ a, memRead u.mem a = memRead s.mem a := by
  have hserve := Hw.serve_bad (h := s.toHw.dropReq site slice n) hwho hc hread hbad ecc
  obtain ⟨f, hcode, hfault⟩ := Hw.cmd?_faultCmd (h := s.toHw.dropReq site slice n) hc 0x70 c.nextRead.addr (machineDetail 6 r.pa)
  obtain ⟨k, t, htrap, -⟩ := Hw.faultCmd_of_some (h := s.toHw.dropReq site slice n) hc 0x70 c.nextRead.addr (machineDetail 6 r.pa)
  refine ⟨_, { c with fault := some f, piece := .idle, at_ := 0 }, f, sliceRequest_serves hr hfirst ecc, ?_, ?_, rfl, hcode, fun a => ?_⟩
  all_goals rw [State.upd, hserve]
  · rw [htrap, Hw.takeTrap_core]
    rfl
  · exact hfault
  · rw [htrap]
    rfl

end

/-! ### Scrub -/

/-- A part of a line whose cells hold no error is scrubbed without effect (R105, R106). -/
theorem Hw.scrubPart_of_noErr {h : Hw} {pa : Nat} (herr : tabFind h.errs (pa / 64) = none) : h.scrubPart pa .clean = h := by
  rw [Hw.scrubPart, Hw.checkLine_of_noErr herr]
  cases hbad : (h.lineOf pa).bad <;> simp

/-- A line without errors is passed over, and the pass ends after the slice's last (R106). -/
theorem scrubLine_passes {s : State} {site slice l : Nat} (hon : (s.toHw.slice site slice).interval ≠ 0)
    (hnext : nextScrub slice (s.toHw.slice site slice).scrubAt = some l)
    (herrs : ∀ p, p < 4 → tabFind s.errs ((site * 2 ^ 36 + 256 * l + 64 * p) / 64) = none) :
    exec (.scrubLine site slice .clean) s = .next ({ s with choice := s.choice + 1 }.upd (fun h => h.onSlice site slice (fun x =>
      if nextScrub slice (l + 1) = none then x.endPass site slice else { x with scrubAt := l + 1 }))) := by
  have hparts : ∀ ps : List Nat, (∀ p ∈ ps, p < 4) →
      ps.foldl (fun (h : Hw) p => h.scrubPart (site * 2 ^ 36 + 256 * l + 64 * p) .clean) s.toHw = s.toHw := by
    intro ps hps
    induction ps with
    | nil => rfl
    | cons p ps ih =>
      rw [List.foldl_cons, Hw.scrubPart_of_noErr (herrs p (hps p List.mem_cons_self))]
      exact ih fun q hq => hps q (List.mem_cons_of_mem p hq)
  have hline := hparts (List.range 4) fun p hp => List.mem_range.mp hp
  simp only [exec_scrubLine, execScrubLine, hon, hnext, State.upd, ite_self, if_false, hline, Option.isNone_iff_eq_none]

/-- The slice without its row tracking and without the rows that await a spare. -/
def Slice.untracked (x : Slice) : Slice := { x with rows := [], spareWait := [] }

/-- Corrected errors touch the row tracking and the rows that await a spare, nothing else (R107). -/
theorem Slice.untracked_noteErrors (x : Slice) (bank : BitVec 6) (row : BitVec 18) (n : Nat) :
    (x.noteErrors bank row n).untracked = x.untracked := by
  simp only [Slice.noteErrors]
  split
  · rfl
  · split <;> rfl

theorem Slice.untracked_endPass (x : Slice) (site slice : Nat) :
    (x.endPass site slice).untracked = { x with scrubAt := 0, passes := x.passes + 1 }.untracked :=
  foldl_keeps Slice.untracked (fun y _ => y.untracked_noteErrors _ _ _) _ _

theorem Slice.eq_of_untracked {x y : Slice} (hxy : y.untracked = x.untracked) : y = { x with rows := y.rows, spareWait := y.spareWait } :=
  congrArg (fun z : Slice => { z with rows := y.rows, spareWait := y.spareWait }) hxy

/-! ### Row tracking -/

theorem rowTrackLeak_due {s : State} (site slice : Nat) (hdue : s.tick.toNat % 2 ^ 20 = 0) :
    exec (.rowTrackLeak site slice) s = .next (s.upd (fun h => h.onSlice site slice (fun x => x.leak h.tick))) := by
  rw [exec_rowTrackLeak, execRowTrackLeak, if_neg (not_not_intro hdue)]

/-! ### Sparing -/

section
variable {h : Hw} {site slice : Nat}

/-- A put at a number hides an earlier put there. -/
theorem tabPut_put_same {α : Type} (x y : α) (k : Nat) (t : Tab α) : tabPut x k (tabPut y k t) = tabPut x k t := by
  induction t with
  | nil => simp [tabPut]
  | cons e t ih =>
    obtain ⟨j, z⟩ := e
    by_cases hlt : k < j
    · simp [tabPut, hlt]
    · by_cases heq : k = j
      · simp [tabPut, heq]
      · simp [tabPut, hlt, heq, ih]

theorem Hw.onSlice_onSlice (h : Hw) (site slice : Nat) (f g : Slice → Slice) :
    (h.onSlice site slice f).onSlice site slice g = h.onSlice site slice (g ∘ f) := by
  have hread := h.slice_onSlice site slice f
  simp only [Hw.onSlice] at hread ⊢
  rw [hread, tabPut_put_same]
  rfl

/-- A line without errors goes to the spare as it stands, and the slice is what it was (R106, R108). -/
theorem Hw.copySpare_of_noErr {line : Nat} (herr : tabFind h.errs line = none) :
    h.copySpare site slice line = h.onSlice site slice id := by
  have hline : tabFind h.errs (64 * line / 64) = none := by rwa [Nat.mul_div_cancel_left line (by decide)]
  rw [Hw.copySpare, Hw.checkLine_of_noErr hline]
  rfl

/-- A line of the row, if it is one, goes to the spare. -/
def Hw.copyLine (h : Hw) (site slice : Nat) (line : Option Nat) : Hw :=
  match line with
  | some l => h.copySpare site slice l
  | none => h

theorem Hw.copyLine_onSlice {line : Option Nat} (herr : ∀ l, line = some l → tabFind h.errs l = none) (f : Slice → Slice) :
    (h.copyLine site slice line).onSlice site slice f = h.onSlice site slice f := by
  cases line with
  | none => rfl
  | some l =>
    rw [Hw.copyLine, Hw.copySpare_of_noErr (herr l rfl), Hw.onSlice_onSlice]
    rfl

/-- The row takes an entry whose copy begins (R108). -/
def Slice.beginSpare (x : Slice) (bank : BitVec 6) (row : BitVec 18) (i : Nat) : Slice :=
  { x with
    remap := tabPut { state := 1, bank := bank, row := row } i x.remap
    copying := some (i, 0)
    spareWait := x.spareWait.filter (fun w => w != (bank, row)) }

/-- The row is kept in the tracking table, for want of a spare, and awaits none (R110). -/
def Slice.giveUpRow (x : Slice) (bank : BitVec 6) (row : BitVec 18) : Slice :=
  { x.keepRow bank row with spareWait := x.spareWait.filter (fun w => w != (bank, row)) }

/-- The entry's copy is complete (R108). -/
def Slice.commitSpare (x : Slice) (i : Nat) : Slice :=
  { x with copying := none, remap := tabPut { tabGet ({} : Remap) x.remap i with state := 2 } i x.remap }

/-- A row enters the repair list, once (R110). -/
def Hw.addRepair (h : Hw) (item : Nat × Nat × BitVec 6 × BitVec 18) : Hw :=
  { h with boot := { h.boot with repair := if h.boot.repair.contains item then h.boot.repair else h.boot.repair ++ [item] } }

theorem Hw.mem_repair_addRepair (h : Hw) (item : Nat × Nat × BitVec 6 × BitVec 18) : item ∈ (h.addRepair item).boot.repair := by
  show item ∈ if h.boot.repair.contains item then h.boot.repair else h.boot.repair ++ [item]
  split
  · next hin => exact List.contains_iff_mem.mp hin
  · exact List.mem_append_right _ (List.mem_singleton_self item)

/-- A new configuration record is written in the copy not in use, with the tables as they stand (R397, log entry 111). -/
theorem Hw.writeCfgRecord_eq (h : Hw) : h.writeCfgRecord = { h with boot := { h.boot with
    recA := if h.boot.recCopy then Config.newRecord h.boot.recB h.remaps h.boot.repair else h.boot.recA
    recB := if h.boot.recCopy then h.boot.recB else Config.newRecord h.boot.recA h.remaps h.boot.repair
    itemsA := if h.boot.recCopy then some (h.boot.seq + 1, h.recItems) else h.boot.itemsA
    itemsB := if h.boot.recCopy then h.boot.itemsB else some (h.boot.seq + 1, h.recItems) } } := by
  rw [Hw.writeCfgRecord]
  cases hcopy : h.boot.recCopy <;> simp [hcopy]

theorem Hw.repair_writeCfgRecord (h : Hw) : h.writeCfgRecord.boot.repair = h.boot.repair := by rw [Hw.writeCfgRecord_eq]

/-- What the new record says stands after it, too. -/
theorem Hw.recItems_writeCfgRecord (h : Hw) : h.writeCfgRecord.recItems = h.recItems := by
  rw [Hw.writeCfgRecord_eq]
  rfl

end

section
variable {s : State} {site slice : Nat} {bank : BitVec 6} {row : BitVec 18}

/-- Sparing begins in the free entry of lowest index (R108). -/
theorem rowSpareStart_begins {i : Nat} (hwants : (s.toHw.slice site slice).wantsSpare bank row = true)
    (hidle : (s.toHw.slice site slice).copying = none) (hi : i < 64)
    (hfree : (tabGet ({} : Remap) (s.toHw.slice site slice).remap i).state = 0)
    (hlower : ∀ j, j < i → (tabGet ({} : Remap) (s.toHw.slice site slice).remap j).state ≠ 0) :
    exec (.rowSpareStart site slice bank row) s
      = .next (s.upd (fun h => h.onSlice site slice (fun x => x.beginSpare bank row i))) := by
  have hfind : (List.range 64).find? (fun i => (tabGet ({} : Remap) (s.toHw.slice site slice).remap i).state == 0) = some i :=
    List.find?_range_eq_some.mpr ⟨beq_iff_eq.mpr hfree, List.mem_range.mpr hi, fun j hj => by simpa using hlower j hj⟩
  simp only [exec_rowSpareStart, execRowSpareStart, hwants, hidle, hfind, Option.isSome_none, Bool.not_true, Bool.or_self,
    Bool.false_eq_true, if_false]
  rfl

/-- Without a free entry the row is given up and queued for repair (R110). -/
theorem rowSpareStart_givesUp (hwants : (s.toHw.slice site slice).wantsSpare bank row = true)
    (hidle : (s.toHw.slice site slice).copying = none)
    (hfull : ∀ i, i < 64 → (tabGet ({} : Remap) (s.toHw.slice site slice).remap i).state ≠ 0) :
    exec (.rowSpareStart site slice bank row) s = .next (s.upd (fun h =>
      ((h.onSlice site slice (fun x => x.giveUpRow bank row)).addRepair (site, slice, bank, row)).writeCfgRecord)) := by
  have hfind : (List.range 64).find? (fun i => (tabGet ({} : Remap) (s.toHw.slice site slice).remap i).state == 0) = none :=
    List.find?_eq_none.mpr fun i hi => by simpa using hfull i (List.mem_range.mp hi)
  simp only [exec_rowSpareStart, execRowSpareStart, hwants, hidle, hfind, Option.isSome_none, Bool.not_true, Bool.or_self,
    Bool.false_eq_true, if_false]
  rfl

/-- The next line of the row is copied; after the last the entry commits and a new record keeps it (R108, R109). -/
theorem spareLineCopy_copies {i j : Nat} (hcopy : (s.toHw.slice site slice).copying = some (i, j)) {lines : List Nat}
    (hlines : lines = rowLines site slice ((tabGet ({} : Remap) (s.toHw.slice site slice).remap i).bank,
      (tabGet ({} : Remap) (s.toHw.slice site slice).remap i).row))
    (herrs : ∀ l, lines[j]? = some l → tabFind s.errs l = none) :
    exec (.spareLineCopy site slice) s = .next (s.upd (fun h =>
      if j + 1 < lines.length then h.onSlice site slice (fun x => { x with copying := some (i, j + 1) })
      else (h.onSlice site slice (fun x => x.commitSpare i)).writeCfgRecord)) := by
  have hstep (f : Slice → Slice) := Hw.copyLine_onSlice (site := site) (slice := slice) herrs f
  simp only [exec_spareLineCopy, execSpareLineCopy, hcopy, ← hlines, State.upd, ← hstep]
  rfl

end

/-- Settles O50: a request is served by what its line gives, and each other step changes its slice as its rule says. A count of 8 is kept
(log entry 90), and the new record goes into the copy not in use (log entry 111). -/
theorem sliceSteps : Obligations.SliceSteps := by
  intro s site slice n ecc bank row rfm x
  refine ⟨fun r co uid c hok hr hfirst hwho hc => ?_, fun l hon hnext herrs => ?_, Slice.eq_of_untracked (x.untracked_endPass site slice),
    fun hdue hnew => ?_, fun hdue hdone => ?_, fun i hwants hidle hi hfree hlower => ?_, fun hwants hidle hfull => ?_,
    fun i j hcopy => ?_, sliceIs_onSlice s site slice _⟩
  · exact ⟨fun hread => sliceRequest_reads hr hfirst hwho hc hread, fun hwrite => sliceRequest_writes hr hfirst hwho hc hwrite hok,
      fun hread hbad => sliceRequest_stops hr hfirst hwho hc hread hbad ecc⟩
  · rw [scrubLine_passes hon hnext herrs]
    exact sliceIs_onSlice { s with choice := s.choice + 1 } site slice (fun y =>
      if nextScrub slice (l + 1) = none then y.endPass site slice else { y with scrubAt := l + 1 })
  · rw [rowTrackLeak_due site slice hdue]
    have hslice := sliceIs_onSlice s site slice (fun y => y.leak s.tick)
    rwa [Slice.leak, if_neg hnew] at hslice
  · rw [rowTrackLeak_due site slice hdue]
    have hslice := sliceIs_onSlice s site slice (fun y => y.leak s.tick)
    rwa [Slice.leak, if_pos hdone] at hslice
  · rw [rowSpareStart_begins hwants hidle hi hfree hlower]
    exact ⟨x.beginSpare bank row i, sliceIs_onSlice s site slice _, rfl, tabGet_put_same _ _ _ _, fun j hj => tabGet_put_other _ _ hj _,
      rfl, rfl, rfl⟩
  · have hslice := s.toHw.slice_onSlice site slice (fun x => x.giveUpRow bank row)
    refine ⟨_, rowSpareStart_givesUp hwants hidle hfull, ?_⟩
    have hremap := congrArg Slice.remap hslice
    refine ⟨congrArg Slice.sparex hslice, hremap, ?_, ⟨(x.rowEntry bank row).1, ?_⟩, fun a => rfl⟩
    · rw [State.upd_toHw, Hw.repair_writeCfgRecord]
      exact Hw.mem_repair_addRepair _ _
    · exact (congrArg (fun y : Slice => tabGet {} y.rows (x.rowEntry bank row).1) hslice).trans (tabGet_put_same _ _ _ _)
  · intro e x' lines herrs
    have hexec := spareLineCopy_copies (lines := lines) hcopy rfl herrs
    refine ⟨fun hmore => ?_, fun hlast => ?_⟩
    · rw [hexec]
      simp only [if_pos hmore]
      exact sliceIs_onSlice s site slice _
    · simp only [if_neg (Nat.not_lt.mpr hlast)] at hexec
      have hslice := s.toHw.slice_onSlice site slice (fun y => y.commitSpare i)
      have hrecord := (s.toHw.onSlice site slice (fun y => y.commitSpare i)).writeCfgRecord_eq
      rw [← Hw.recItems_writeCfgRecord] at hrecord
      exact ⟨_, hexec, hslice, fun _ _ hother => s.toHw.slice_onSlice_other (fun y => y.commitSpare i) hother,
        congrArg (fun h : Hw => ({ s with toHw := h } : State)) hrecord⟩

end Sys2Proof.Machine
end

section
/-! SUPPORT. What every copy command does at its issue: its operands and addresses, the checks of R81, the barrier field, the
channel and the room of its queue, the command that enters (R117, R120, R121, R125, R131, R132). -/

namespace Sys2Proof.Machine

/-! ### Operands and capabilities -/

/-- CURSOR + offset of a side of a command, formed exactly (R131). -/
def State.xEa (s : State) (cb : BitVec 4) (o : BitVec 6) : Int := (s.c cb).cursor + (s.g o).bits.toInt

/-- Register g0 is never poisoned (R69). -/
theorem State.g_zero_clean (s : State) : (s.g 0).psn = false := rfl

section
variable {s : State} {cd cs : BitVec 4} {ob oa len v w : BitVec 6}

theorem State.xRegs_ok (hlen : (s.g len).psn = false) (hoa : (s.g oa).psn = false) (hob : (s.g ob).psn = false)
    (hv : (s.g v).psn = false) (hw : (s.g w).psn = false) :
    s.xRegs cd ob cs oa len v w
      = .ok ⟨(s.g len).bits.toNat, s.xEa cs oa, s.xEa cd ob, (s.g v).bits, (s.g w).bits⟩ := by
  simp only [State.xRegs, State.gUse_ok hlen, State.gUse_ok hoa, State.gUse_ok hob, State.gUse_ok hv, State.gUse_ok hw, ok_bind]
  rfl

end

/-- A capability has the tag, a space and the permissions of steps 1 to 3 of R81, in space 7 with sy (R80). -/
def CReg.MayServe (x : CReg) (spaces : List Nat) (need : BitVec 12) : Prop :=
  x.tag = true ∧ x.space ∈ spaces ∧ x.has (if x.space = 7 then need ||| pSy else need) = true

theorem checkUse_of_mayServe {x : CReg} {spaces : List Nat} {need : BitVec 12} (h : x.MayServe spaces need) (reg : Nat) (ea : Int)
    (n : Nat) : checkUse reg x spaces need ea n = .ok () := by
  obtain ⟨htag, hspace, hperm⟩ := h
  rw [checkUse, trapIf_false (by rw [htag]; rfl), ok_bind, trapIf_false (by simpa using hspace), ok_bind,
    trapIf_false (by rw [hperm]; rfl)]

/-! ### The barrier field -/

section
variable {tb : BitVec 12} {y : CReg}

theorem checkTb_ok (h : tb = 0 ∨ y.space = 1 ∨ y.space = 2) : checkTb tb y = .ok () :=
  trapIf_false (by simpa [imp_iff_not_or] using h) _ _ _

theorem trapsWith_checkTb (h : ¬(tb = 0 ∨ y.space = 1 ∨ y.space = 2)) : TrapsWith 0x33 (checkTb tb y) :=
  trapsWith_trapIf (by simpa [not_or] using h) _ _ _

end

/-! ### Entering a queue -/

/-- A command as it stands in the queue that it enters: with its queue, its numbers, its ID, and where it was issued (R121, R361). -/
def State.numbered (s : State) (ch : BitVec 4) (c : Cmd) : Cmd :=
  { c with
    q := queueOfEng s.ix.eng, uid := s.here.uid, ch := ch.toNat, id := s.here.nextid.get ch.toFin
    task := s.here.task.getD {}, pc := s.ix.pc, slot := s.ix.slot
    sec := match s.me.sec with
      | some x => x.sec
      | none => 0 }

/-- No step of the copy engine has touched the command. -/
def Cmd.IsNew (c : Cmd) : Prop := c.started = false ∧ c.released = false ∧ c.performed = false ∧ c.visible = false

section
variable {s : State} {ch : BitVec 4} {c : Cmd} {p : Cmd → Prop}

/-- A channel without a queue, or bound to the engine's own, is no channel of the other queue (R120). -/
theorem State.channel_allowed (hbind : s.here.bind.get ch.toFin = none ∨ s.here.bind.get ch.toFin = some (queueOfEng s.ix.eng)) :
    ((s.here.bind.get ch.toFin).isSome && s.here.bind.get ch.toFin != some (queueOfEng s.ix.eng)) = false := by
  rcases hbind with hb | hb <;> simp [hb]

/-- A channel without a queue, or bound to the engine's own, and room let a command enter (R117, R120, R121). -/
theorem commits_enter (h : s.CanEnter ch) (hnew : c.IsNew) (hp : p (s.numbered ch c)) (u : State) :
    Commits s ch p (settle u (s.enter ch c)) := by
  obtain ⟨hroom, hbind⟩ := h
  simp only [State.enter, trapIf_false (State.channel_allowed hbind), State.checkRoom_ok hroom, ok_bind, settle_done]
  exact ⟨s.numbered ch c, becomes_onHere s _, rfl, rfl, rfl, rfl, hnew, hp⟩

/-- A channel of the other queue raises 0x37 (R120). -/
theorem trapsWith_enter (hbound : s.here.bind.get ch.toFin ≠ none)
    (hother : s.here.bind.get ch.toFin ≠ some (queueOfEng s.ix.eng)) : TrapsWith 0x37 (s.enter ch c) :=
  (trapsWith_trapIf (by simp [Option.isSome_iff_ne_none, hbound, hother]) _ _ _).bind _

/-- A full queue blocks a command whose channel it may have (R117). -/
theorem enter_full (hbind : s.here.bind.get ch.toFin = none ∨ s.here.bind.get ch.toFin = some (queueOfEng s.ix.eng))
    (hfull : 32 ≤ (s.here.queued (queueOfEng s.ix.eng)).length) : s.enter ch c = .error .block := by
  simp only [State.enter, trapIf_false (State.channel_allowed hbind), State.checkRoom_full hfull, ok_bind, error_bind]

/-! ### The end of a transfer's checks -/

variable {tb : BitVec 12} {y : CReg}

/-- The last checks of a transfer: the barrier field, then the channel and the room of the queue (log entry 97). -/
def State.enterTransfer (s : State) (ch : BitVec 4) (tb : BitVec 12) (y : CReg) (c : Cmd) : Out :=
  settle s (checkTb tb y >>= fun _ => s.enter ch c)

theorem commits_enterTransfer (h : s.CanEnter ch) (htb : tb = 0 ∨ y.space = 1 ∨ y.space = 2) (hnew : c.IsNew)
    (hp : p (s.numbered ch c)) : Commits s ch p (s.enterTransfer ch tb y c) := by
  rw [State.enterTransfer, checkTb_ok htb, ok_bind]
  exact commits_enter h hnew hp s

/-- Where a transfer stops whose capabilities pass: 0x33 for the barrier field, 0x37 for the channel, a block for the queue. -/
theorem stops_enterTransfer (s : State) (ch : BitVec 4) (tb : BitVec 12) (y : CReg) (c : Cmd) :
    let tbOk := tb = 0 ∨ y.space = 1 ∨ y.space = 2
    let b := s.here.bind.get ch.toFin
    let mine := some (queueOfEng s.ix.eng)
    let o := s.enterTransfer ch tb y c
    (¬tbOk → Traps s 0x33 o) ∧ (tbOk → b ≠ none → b ≠ mine → Traps s 0x37 o)
      ∧ (tbOk → b = none ∨ b = mine → 32 ≤ (s.here.queued (queueOfEng s.ix.eng)).length → Blocks s o) := by
  intro tbOk b mine o
  refine ⟨fun htb => ?_, fun htb hbound hother => ?_, fun htb hbind hfull => ?_⟩
  · exact ((trapsWith_checkTb htb).bind _).traps s
  · exact (TrapsWith.of_ok (checkTb_ok htb) (trapsWith_enter hbound hother)).traps s
  · simp only [o, State.enterTransfer, checkTb_ok htb, ok_bind, enter_full hbind hfull]
    exact blocks_settle s

end

end Sys2Proof.Machine
end

section
/-! SUPPORT. The transfer commands: what stands between their operands and their queue, form by form (R130-R135). -/

namespace Sys2Proof.Machine

section
variable {s : State} {cd cs : BitVec 4} {ob oa len v w : BitVec 6} {src dst : List Nat}

/-- A command between two sides, with the addresses and the length that every form has (R131). -/
def State.xCmd (s : State) (op : XOp) (cd : BitVec 4) (ob : BitVec 6) (cs : BitVec 4) (oa : BitVec 6) (n : Nat) : Cmd :=
  { uid := 0, q := .load, op := op, cs := s.c cs, csi := cs.toNat, cd := s.c cd, cdi := cd.toNat
    sa := s.xEa cs oa, da := s.xEa cd ob, len := n }

variable (hlen : (s.g len).psn = false) (hoa : (s.g oa).psn = false) (hob : (s.g ob).psn = false)
include hlen hoa hob

/-- `xget`, `xput`, `xmove` whose sides pass R81 (R132, R133). -/
theorem xferOne_enters (hsrc : (s.c cs).Allows src pLd (s.xEa cs oa) (s.g len).bits.toNat)
    (hdst : (s.c cd).Allows dst pSt (s.xEa cd ob) (s.g len).bits.toNat) (op : XOp) (ch : BitVec 4) (tb : BitVec 12) (vs : Nat) :
    xferOne op src dst cd ob cs oa len ch tb vs s = s.enterTransfer ch tb (s.c cd)
      { s.xCmd op cd ob cs oa (s.g len).bits.toNat with tb := tb.toNat, vs := vs } := by
  simp only [xferOne, State.xRegs_ok hlen hoa hob s.g_zero_clean s.g_zero_clean, checkCap_ok hsrc, checkCap_ok hdst, ok_bind]
  rfl

variable (hv : (s.g v).psn = false)
include hv

omit hoa in
/-- `xfill` whose destination passes R81 (R135). -/
theorem xfill_enters (hdst : (s.c cd).Allows anySpace pSt (s.xEa cd ob) (s.g len).bits.toNat) (ch : BitVec 4) (tb : BitVec 12)
    (vs : BitVec 3) :
    execXfill cd ob v len ch tb vs s = s.enterTransfer ch tb (s.c cd) {
      uid := 0, q := .load, op := .fill, cd := s.c cd, cdi := cd.toNat, da := s.xEa cd ob, len := (s.g len).bits.toNat
      v := (s.g v).bits, tb := tb.toNat, vs := vs.toNat } := by
  simp only [execXfill, State.xRegs_ok hlen s.g_zero_clean hob hv s.g_zero_clean, checkCap_ok hdst, ok_bind]
  rfl

variable (hw : (s.g w).psn = false)
include hw

/-- The row forms, the first and the last row of whose sides pass R81 (R132, R133). -/
theorem xferRows_enters {rows : BitVec 13} (hsrc : (s.c cs).Allows src pLd (s.xEa cs oa) (s.g len).bits.toNat)
    (hsrcLast : (s.c cs).Allows src pLd (s.xEa cs oa + ((rows.toNat : Int) - 1) * (s.g v).bits.toInt) (s.g len).bits.toNat)
    (hdst : (s.c cd).Allows dst pSt (s.xEa cd ob) (s.g len).bits.toNat)
    (hdstLast : (s.c cd).Allows dst pSt (s.xEa cd ob + ((rows.toNat : Int) - 1) * (s.g w).bits.toInt) (s.g len).bits.toNat)
    (op : XOp) (ch : BitVec 4) (tb : BitVec 12) (vs : Nat) :
    xferRows op src dst cd ob w cs oa v len ch tb rows vs s = s.enterTransfer ch tb (s.c cd)
      { s.xCmd op cd ob cs oa (s.g len).bits.toNat with
        v := (s.g v).bits, w := (s.g w).bits, rows := rows.toNat, tb := tb.toNat, vs := vs } := by
  simp only [xferRows, State.xRegs_ok hlen hoa hob hv hw, checkCap_ok hsrc, checkCap_ok hsrcLast, checkCap_ok hdst,
    checkCap_ok hdstLast, ok_bind]
  rfl

/-- The checks of an index list: R81 through c8 for all of it, and its alignment (R132, R134). -/
def State.ListOk (s : State) (v w : BitVec 6) : Prop :=
  (s.c 8).Allows [1] pLd (((s.c 8).cursor : Int) + (s.g v).bits.toNat) (4 * (s.g w).bits.toNat) ∧ (s.g v).bits.toNat % 4 = 0

/-- The indexed forms: the list passes, the contiguous side passes R81 for all elements, the indexed side its first three steps
(R130, R132, R134). -/
theorem xferList_enters (hlist : s.ListOk v w) {gat : Bool}
    (hsides : let total := (s.g w).bits.toNat * (s.g len).bits.toNat
      if gat then (s.c cs).MayServe src pLd ∧ (s.c cd).Allows dst pSt (s.xEa cd ob) total
      else (s.c cs).Allows src pLd (s.xEa cs oa) total ∧ (s.c cd).MayServe dst pSt)
    (op : XOp) (ch : BitVec 4) (tb : BitVec 12) (vs : Nat) :
    xferList op src dst gat cd ob cs oa len v w ch tb vs s = s.enterTransfer ch tb (s.c cd)
      { s.xCmd op cd ob cs oa (s.g len).bits.toNat with
        rows := (s.g w).bits.toNat, lst := (s.c 8).cursor + (s.g v).bits.toNat, tb := tb.toNat, vs := vs } := by
  obtain ⟨hallow, halign⟩ := hlist
  have haligned : ((s.g v).bits.toNat % 4 != 0) = false := by simp [halign]
  cases gat with
  | true =>
    obtain ⟨hsrc, hdst⟩ := hsides
    simp only [xferList, State.xRegs_ok hlen hoa hob hv hw, checkCap_ok hallow, if_true, checkUse_of_mayServe hsrc, checkCap_ok hdst,
      trapIf_false haligned, ok_bind]
    rfl
  | false =>
    obtain ⟨hsrc, hdst⟩ := hsides
    simp only [xferList, State.xRegs_ok hlen hoa hob hv hw, checkCap_ok hallow, Bool.false_eq_true, if_false, checkCap_ok hsrc,
      checkUse_of_mayServe hdst, trapIf_false haligned, ok_bind]
    rfl

end

/-- Settles O36: a transfer whose sides pass ends in the checks of its barrier field, its channel and its queue; past them its command
enters. -/
theorem transferCommands : Obligations.TransferCommands := by
  intro s cd cs ch ob oa len v tb vs x y n sa da any clean tbOk is b mine stops hclean
  obtain ⟨hlen, hoa, hob⟩ := hclean
  simp only [exec_xget, exec_xput, exec_xmove, exec_xfill]
  have hcommits {src dst : List Nat} (op : XOp) (e : Nat) (henter : s.CanEnter ch) (htb : tbOk) (hsrc : x.Allows src pLd sa n)
      (hdst : y.Allows dst pSt da n) : Commits s ch (is op e) (xferOne op src dst cd ob cs oa len ch tb e s) := by
    rw [xferOne_enters hlen hoa hob hsrc hdst]
    exact commits_enterTransfer henter htb ⟨rfl, rfl, rfl, rfl⟩ ⟨rfl, rfl, rfl, rfl, rfl, rfl, rfl, rfl⟩
  have hstops {src dst : List Nat} (op : XOp) (e : Nat) (hsrc : x.Allows src pLd sa n) (hdst : y.Allows dst pSt da n) :
      stops (xferOne op src dst cd ob cs oa len ch tb e s) := by
    rw [xferOne_enters hlen hoa hob hsrc hdst]
    exact stops_enterTransfer s ch tb y _
  refine ⟨hcommits .get 0, hcommits .put vs.toNat, hcommits .move vs.toNat, fun henter htb hdst hv => ?_,
    hstops .get 0, hstops .put vs.toNat, hstops .move vs.toNat, fun hdst hv => ?_⟩
  · rw [xfill_enters hlen hob hv hdst]
    exact commits_enterTransfer henter htb ⟨rfl, rfl, rfl, rfl⟩ ⟨rfl, rfl, rfl, rfl, rfl, rfl, rfl⟩
  · rw [xfill_enters hlen hob hv hdst]
    exact stops_enterTransfer s ch tb y _

/-- Settles O37: the checks of the rows, or of the list and the two sides, pass, and the command enters. -/
theorem rowAndListCommands : Obligations.RowAndListCommands := by
  intro s cd cs ch ob oa len v w tb rows vs x y n sa da any clean tbOk last rowsOk isRows lst cnt listOk may isList hclean henter htb
  obtain ⟨hlen, hoa, hob, hv, hw⟩ := hclean
  simp only [exec_xget2d, exec_xput2d, exec_xgat, exec_xsct]
  have hrows {src dst : List Nat} (h : rowsOk src dst) (op : XOp) (e : Nat) :
      Commits s ch (isRows op e) (xferRows op src dst cd ob w cs oa v len ch tb rows e s) := by
    obtain ⟨hsrc, hsrcLast, hdst, hdstLast⟩ := h
    rw [xferRows_enters hlen hoa hob hv hw hsrc hsrcLast hdst hdstLast]
    exact commits_enterTransfer henter htb ⟨rfl, rfl, rfl, rfl⟩ ⟨rfl, rfl, rfl, rfl, rfl, rfl, rfl, rfl, rfl, rfl, rfl⟩
  refine ⟨fun h => hrows h .get2d 0, fun h => hrows h .put2d vs.toNat, fun hlist hsrc hdst => ?_, fun hlist hdst hsrc => ?_⟩
  · rw [execXgat, xferList_enters hlen hoa hob hv hw hlist (src := anySpace) (gat := true) (And.intro hsrc hdst)]
    exact commits_enterTransfer henter htb ⟨rfl, rfl, rfl, rfl⟩ ⟨rfl, rfl, rfl, rfl, rfl, rfl, rfl, rfl, rfl, rfl⟩
  · rw [execXsct, xferList_enters hlen hoa hob hv hw hlist (dst := anySpace) (gat := false) (And.intro hsrc hdst)]
    exact commits_enterTransfer henter htb ⟨rfl, rfl, rfl, rfl⟩ ⟨rfl, rfl, rfl, rfl, rfl, rfl, rfl, rfl, rfl, rfl⟩

end Sys2Proof.Machine
end

section
/-! SUPPORT. Accumulations, value-returning atomics and the close of a round: their checks, the rounds of a tag, the numbers that a
round-batched command takes (R246-R255, R261). -/

namespace Sys2Proof.Machine

/-! ### Rounds -/

section
variable {s : State} {rt : BitVec 12} {da : Int} {n : Nat}

/-- Under a round tag the destination lies in the bounds of a footprint with the tag (R253). -/
def State.InRound (s : State) (rt : BitVec 12) (da : Int) (n : Nat) : Prop :=
  rt ≠ 0 → ∃ f ∈ s.task.tagged rt.toNat, (f.cap.base : Int) ≤ da ∧ da + n ≤ f.cap.top

theorem toNat_ne_zero {x : BitVec 12} (h : x ≠ 0) : x.toNat ≠ 0 := fun h' => h (BitVec.eq_of_toNat_eq h')

theorem State.checkRound_ok (h : s.InRound rt da n) (cd : BitVec 4) : s.checkRound rt.toNat cd da n = .ok () := by
  rcases eq_or_ne rt 0 with rfl | hrt
  · rfl
  · obtain ⟨f, hf, hlo, hhi⟩ := h hrt
    have hany : (s.task.tagged rt.toNat).any (fun f => decide ((f.cap.base : Int) ≤ da) && decide (da + n ≤ f.cap.top)) = true :=
      List.any_eq_true.mpr ⟨f, hf, by simp [hlo, hhi]⟩
    have htag : (s.task.tagged rt.toNat).isEmpty = false := by simpa using List.ne_nil_of_mem hf
    simp only [State.checkRound, if_neg (toNat_ne_zero hrt), trapIf_false htag, ok_bind, hany]
    rfl

/-- A tag that no footprint of the task carries raises 0x37 (R253). -/
theorem State.trapsWith_checkRound (hrt : rt ≠ 0) (hnone : s.task.tagged rt.toNat = []) (cd : BitVec 4) :
    TrapsWith 0x37 (s.checkRound rt.toNat cd da n) := by
  rw [State.checkRound, if_neg (toNat_ne_zero hrt)]
  exact (trapsWith_trapIf (by rw [hnone]; rfl) _ _ _).bind _

/-- The spaces of an accumulate's or atomic's destination, by its tag (R247). -/
theorem rmwSpaces_toNat (rt : BitVec 12) : rmwSpaces rt.toNat = if rt = 0 then [1, 2, 3] else [3] := by
  rcases eq_or_ne rt 0 with rfl | hrt
  · rfl
  · rw [rmwSpaces, if_neg (toNat_ne_zero hrt), if_neg hrt]

end

/-! ### Numbers of a round -/

section
variable {s : State} {ch : BitVec 4} {c : Cmd} {p : Cmd → Prop}

/-- A change of the issuing engine leaves queues and channels as they are. -/
theorem State.CanEnter.onMe (h : s.CanEnter ch) (f : Eng → Eng) : (s.onMe f).CanEnter ch := by
  have hhere : (s.onMe f).here = s.here.setEng s.ix.eng (f s.me) := s.here_onHere _
  simpa only [State.CanEnter, hhere, Core.queued, Core.setEng_cmds, Core.setEng_bind, State.onMe_ix] using h

/-- Under a tag the command takes the engine's sequence number, which rises (R253, R254). -/
theorem State.nextSeq_tagged (s : State) {rt : Nat} (h : rt ≠ 0) :
    s.nextSeq rt = ((tabGet 0 s.me.closes rt + 1, tabGet 0 s.me.seqs rt),
      s.onMe (fun e => { e with seqs := tabPut (tabGet 0 e.seqs rt + 1) rt e.seqs })) :=
  if_neg h

/-- A command enters; under a round tag it takes the engine's sequence number, which rises, and its round (R253, R254). -/
def State.Enters (s : State) (ch : BitVec 4) (rt : BitVec 12) (p : Cmd → Prop) (o : Out) : Prop :=
  if rt = 0 then Commits s ch p o
  else ∃ u, Becomes s (s.here.setEng s.ix.eng { s.me with seqs := tabPut (tabGet 0 s.me.seqs rt.toNat + 1) rt.toNat s.me.seqs }) (.next u)
    ∧ Commits u ch (fun c => p c ∧ c.seq = tabGet 0 s.me.seqs rt.toNat ∧ c.round = tabGet 0 s.me.closes rt.toNat + 1) o

/-- The last step of an accumulate or atomic: its numbers, then the channel and the room of its queue. -/
def State.enterRound (s : State) (ch : BitVec 4) (rt : BitVec 12) (c : Cmd) : Chk State :=
  let x := s.nextSeq rt.toNat
  x.2.enter ch { c with rt := rt.toNat, round := x.1.1, seq := x.1.2 }

theorem enters_enterRound (h : s.CanEnter ch) (hnew : c.IsNew) (rt : BitVec 12)
    (hp : ∀ (t : State) (round seq : Nat), p (t.numbered ch { c with rt := rt.toNat, round := round, seq := seq })) :
    s.Enters ch rt p (settle s (s.enterRound ch rt c)) := by
  rcases eq_or_ne rt 0 with rfl | hrt
  · rw [State.Enters, if_pos rfl]
    exact commits_enter (c := { c with rt := 0, round := 0, seq := 0 }) h hnew (hp s 0 0) s
  · rw [State.Enters, if_neg hrt, State.enterRound, s.nextSeq_tagged (toNat_ne_zero hrt)]
    refine ⟨_, becomes_onMe s _, commits_enter (h.onMe _) ?_ ?_ s⟩
    · exact hnew
    · exact ⟨hp _ _ _, rfl, rfl⟩

end

/-! ### The checks of the commands -/

section
variable {s : State} {cd cs : BitVec 4} {ob oa len v w : BitVec 6} {rt : BitVec 12}

/-- The checks of an accumulate but those of its round: R81 on both sides, both aligned to the element, whole elements (R246-R249). -/
def State.AccOk (s : State) (cd : BitVec 4) (ob : BitVec 6) (cs : BitVec 4) (oa : BitVec 6) (n e : Nat) (dst : List Nat) : Prop :=
  (s.c cs).Allows [1] pLd (s.xEa cs oa) n ∧ (s.c cd).Allows dst pAc (s.xEa cd ob) n
    ∧ s.xEa cs oa % e = 0 ∧ s.xEa cd ob % e = 0 ∧ n % e = 0

/-- An accumulate whose sides pass comes to the checks of its round. -/
theorem xaccWith_rounds (hlen : (s.g len).psn = false) (hoa : (s.g oa).psn = false) (hob : (s.g ob).psn = false) {k : AccOp}
    (hok : s.AccOk cd ob cs oa (s.g len).bits.toNat k.size (rmwSpaces rt.toNat)) (ch : BitVec 4) :
    xaccWith k cd ob cs oa len ch rt.toNat s
      = settle s (s.checkRound rt.toNat cd (s.xEa cd ob) (s.g len).bits.toNat >>= fun _ =>
        s.enterRound ch rt (s.xCmd (.acc k) cd ob cs oa (s.g len).bits.toNat)) := by
  obtain ⟨hsrc, hdst, hsa, hda, hn⟩ := hok
  have hlenBad : ((s.g len).bits.toNat % k.size != 0 || decide (s.xEa cd ob % k.size ≠ 0)) = false := by simp [hn, hda]
  simp only [xaccWith, State.xRegs_ok hlen hoa hob s.g_zero_clean s.g_zero_clean, checkCap_ok hsrc, checkCap_ok hdst,
    trapIf_false (decide_eq_false (not_not_intro hsa)), trapIf_false hlenBad, ok_bind]
  rfl

/-- The checks of a value-returning atomic, its round's among them (R246, R247, R250, R253). -/
def State.AtomOk (s : State) (cd : BitVec 4) (ob : BitVec 6) (cl : BitVec 4) (ol : BitVec 6) (rt : BitVec 12) (e : Nat)
    (need : BitVec 12) : Prop :=
  (s.c cd).Allows (if rt = 0 then [1, 2, 3] else [3]) need (s.xEa cd ob) e ∧ (s.c cl).Allows [1] pSt (s.xEa cl ol) 16
    ∧ s.xEa cd ob % e = 0 ∧ s.xEa cl ol % 16 = 0 ∧ s.InRound rt (s.xEa cd ob) e

/-- An atomic whose checks pass comes to that of its continuation (R261). -/
theorem xatomWith_continues {cl : BitVec 4} {ol : BitVec 6} (hob : (s.g ob).psn = false) (hol : (s.g ol).psn = false)
    (hv : (s.g v).psn = false) (hw : (s.g w).psn = false) {e : Nat} {need : BitVec 12} (hok : s.AtomOk cd ob cl ol rt e need) (op : XOp)
    (ch : BitVec 4) (tb : BitVec 12) (task : Nat) :
    xatomWith op e need cd ob v w cl ol ch tb task rt.toNat s
      = settle s (trapIf (op == .casGo && decide (s.task.ncont < task)) 0x50 0 (detField 32 2 task) >>= fun _ =>
        s.enterRound ch rt { s.xCmd op cd ob cl ol e with v := (s.g v).bits, w := (s.g w).bits, tb := tb.toNat, name := task }) := by
  obtain ⟨hdst, hland, hda, hsa, hround⟩ := hok
  rw [← rmwSpaces_toNat] at hdst
  simp only [xatomWith, State.xRegs_ok s.g_zero_clean hol hob hv hw, checkCap_ok hdst, checkCap_ok hland,
    trapIf_false (decide_eq_false (not_not_intro hda)), trapIf_false (decide_eq_false (not_not_intro hsa)),
    State.checkRound_ok hround, ok_bind]
  rfl

end

/-- Settles O38: past the sides' checks an accumulate comes to its round's; the forms without a tag have none. -/
theorem accumulateCommands : Obligations.AccumulateCommands := by
  intro s cd cs ch ob oa len rt x y n sa da clean ok is plain seq hclean henter
  obtain ⟨hlen, hoa, hob⟩ := hclean
  simp only [exec_xaccAddS32, exec_xaccAddS64, exec_xaccAddF32, exec_xaccMinS32, exec_xaccMaxS32, exec_xaccMinF32, exec_xaccMaxF32,
    exec_xaccAnd, exec_xaccOr, exec_xaccXor]
  have htagged (k : AccOp) (r : BitVec 12) (hok : ok k.size (rmwSpaces r.toNat)) (hround : s.InRound r da n) :
      s.Enters ch r (is k r.toNat) (xaccWith k cd ob cs oa len ch r.toNat s) := by
    have hchecked : s.checkRound r.toNat cd (s.xEa cd ob) n = .ok () := State.checkRound_ok hround cd
    rw [xaccWith_rounds hlen hoa hob hok, hchecked, ok_bind]
    exact enters_enterRound henter ⟨rfl, rfl, rfl, rfl⟩ r fun _ _ _ => ⟨rfl, rfl, rfl, rfl, rfl, rfl, rfl⟩
  have huntagged (k : AccOp) (hok : ok k.size [1, 2, 3]) : Commits s ch (is k 0) (xaccWith k cd ob cs oa len ch 0 s) :=
    htagged k 0 hok (absurd rfl)
  refine ⟨huntagged .addS32, huntagged .addS64, huntagged .addF32, huntagged .minS32, huntagged .maxS32, huntagged .minF32,
    huntagged .maxF32, huntagged .and, huntagged .or, huntagged .xor, fun hrt hok hround => ?_, fun hrt hok hnone => ?_⟩
  all_goals replace hok : ok (AccOp.size .addF32) (rmwSpaces rt.toNat) := by rw [rmwSpaces_toNat, if_neg hrt]; exact hok
  · have hgoes := htagged .addF32 rt hok fun _ => hround
    rwa [State.Enters, if_neg hrt] at hgoes
  · rw [execXaccAddF32, xaccWith_rounds hlen hoa hob hok]
    exact ((State.trapsWith_checkRound hrt hnone cd).bind _).traps s

/-- Settles O39: an atomic whose checks pass enters unless it names a continuation past the launch's; the close of a round needs a
footprint of its tag. -/
theorem atomicCommands : Obligations.AtomicCommands := by
  intro s cd cl ch ob v w ol tb task rt x y sa da clean ok seq round enters is hclean henter
  obtain ⟨hob, hol, hv, hw⟩ := hclean
  simp only [exec_xfaddS32, exec_xfaddS64, exec_xswp, exec_xcas, exec_xcasGo, exec_xclose]
  have hatom (op : XOp) (e : Nat) (need : BitVec 12) (r : BitVec 6) (name : Nat) (hr : (s.g r).psn = false)
      (hname : op = .casGo → name ≤ s.task.ncont) (hok : ok e need) :
      s.Enters ch rt (is op e (s.g r).bits name) (xatomWith op e need cd ob v r cl ol ch tb name rt.toNat s) := by
    have hcont : (op == .casGo && decide (s.task.ncont < name)) = false := by simpa using hname
    rw [xatomWith_continues hob hol hv hr hok, trapIf_false hcont, ok_bind]
    exact enters_enterRound henter ⟨rfl, rfl, rfl, rfl⟩ rt
      fun _ _ _ => ⟨rfl, rfl, rfl, rfl, rfl, rfl, rfl, rfl, rfl, rfl, rfl⟩
  have hplain (op : XOp) (hop : op ≠ .casGo) (e : Nat) (r : BitVec 6) (hr : (s.g r).psn = false) (hok : ok e pAr) :=
    hatom op e pAr r 0 hr (absurd · hop) hok
  refine ⟨hplain .fadd32 (by decide) 4 0 s.g_zero_clean, hplain .fadd64 (by decide) 8 0 s.g_zero_clean,
    hplain .swp (by decide) 8 0 s.g_zero_clean, hplain .cas (by decide) 8 w hw,
    fun hok hname => hatom .casGo 8 (pAr ||| pCl) w task.toNat hw (fun _ => hname) hok, fun hok hname => ?_, fun htag => ?_,
    fun hnone => ?_⟩
  · rw [execXcasGo, xatomWith_continues hob hol hv hw hok]
    exact ((trapsWith_trapIf (by simpa using hname) _ _ _).bind _).traps s
  · simp only [execXclose, trapIf_false (by simpa using htag : (s.task.tagged rt.toNat).isEmpty = false), ok_bind]
    exact ⟨_, becomes_onMe s _, commits_enter (henter.onMe _) ⟨rfl, rfl, rfl, rfl⟩ ⟨rfl, rfl, rfl⟩ s⟩
  · exact ((trapsWith_trapIf (by rw [hnone]; rfl) _ _ _).bind _).traps s

end Sys2Proof.Machine
end

section
/-! SUPPORT. The start of an indexed copy whose list earlier commands have still to write (R127, R131, R134). -/

namespace Sys2Proof.Machine

/-- The head of a queue does not start while an earlier command has its index list still to write, whatever its total length. -/
theorem copyCommandStart_of_listBehind {s : State} {co : CoreId} {q : QSel} {c : Cmd}
    (hhead : ((s.toHw.core co).queued q).head? = some c) (hbehind : s.toHw.listBehind co c = true) :
    exec (.copyCommandStart co q) s = .next s := by
  simp only [exec_copyCommandStart, execCopyCommandStart, hhead, hbehind, Bool.or_true, Bool.true_or, if_true]

/-- All of own local memory, with every permission. -/
def wholeLocal : CReg := mkCap 1 0xFFF 0 (2 ^ 19) 0

/-- An `xget` of the first granule of own local memory, started and not performed. -/
def listWriter : Cmd :=
  { uid := 0, q := .load, op := .get, cs := wholeLocal, cd := wholeLocal, sa := 64, da := 0, len := 16, started := true }

/-- An `xgat` of one element of length 0, whose list is the first word of own local memory. -/
def emptyGather : Cmd :=
  { uid := 1, q := .load, op := .gat, id := 1, cs := wholeLocal, cd := wholeLocal, sa := 64, da := 128, len := 0, rows := 1, lst := 0 }

/-- After reset, with these two commands in the load queue of core 0 of isle 0. -/
def gatherPending : State :=
  State.reset.upd (fun h => h.setCore ⟨0, 0⟩ { ({} : Core) with cmds := [listWriter, emptyGather], uid := 2 })

theorem gatherPending_core : gatherPending.toHw.core ⟨0, 0⟩ = { ({} : Core) with cmds := [listWriter, emptyGather], uid := 2 } :=
  Hw.core_setCore _ _ _

theorem gatherPending_head : ((gatherPending.toHw.core ⟨0, 0⟩).queued .load).head? = some emptyGather := by
  rw [gatherPending_core]
  rfl

theorem gatherPending_listBehind : gatherPending.toHw.listBehind ⟨0, 0⟩ emptyGather = true := by decide

/-- Refutes O48: the clause of a total length of 0 does not ask, as that of the list does, that no earlier command has the list still to
write. An `xgat` of elements of length 0 has such a list: it stays in its queue while an `xget` before it has the list's word to
write, where the clause has it complete and gone (R131). -/
theorem not_copyEngineSteps : ¬ Obligations.CopyEngineSteps := by
  unfold Obligations.CopyEngineSteps
  intro h
  obtain ⟨hstarts, -⟩ := h gatherPending ⟨0, 0⟩ .load 1 emptyGather
  obtain ⟨-, hempty, -⟩ := hstarts gatherPending_head (by rw [gatherPending_core]; rfl) (by decide)
    (by rw [gatherPending_core]; decide) rfl
  obtain ⟨t, hnext, -, hgone, -⟩ := hempty (by decide) rfl
  rw [copyCommandStart_of_listBehind gatherPending_head gatherPending_listBehind] at hnext
  obtain rfl : gatherPending = t := by injection hnext
  rw [gatherPending_core] at hgone
  have hcount := congrArg (fun k : Core => k.cmds.length) hgone
  exact absurd hcount (by decide)

end Sys2Proof.Machine
end

section
/-! SUPPORT. Transaction barriers: the bits of a slot and its fields, what phases, arrivals and waits make of a slot, the directory, the six
instructions (R155-R163). -/

namespace Sys2Proof.Machine

/-! ### The fields of a slot -/

theorem bitsAt_lt (v lo n : Nat) : bitsAt v lo n < 2 ^ n := Nat.mod_lt _ (by positivity)

/-- The fields of a slot lie in their ranges (R156). -/
structure Slot.Fits (b : Slot) : Prop where
  name : b.name < 2 ^ 12
  owed : b.owed.length = 3 ∧ ∀ x ∈ b.owed, x < 16
  made : b.made.length = 3 ∧ ∀ x ∈ b.made, x < 16
  wait : b.wait < 2 ^ 3
  phase : b.phase < 2 ^ 16
  bank : b.bank < 2 ^ 24
  quota : b.quota < 2 ^ 24

theorem Slot.fits_ofBits (v : Nat) : (Slot.ofBits v).Fits where
  name := bitsAt_lt _ _ _
  owed := ⟨rfl, by simpa [Slot.ofBits] using ⟨bitsAt_lt v 104 4, bitsAt_lt v 108 4, bitsAt_lt v 112 4⟩⟩
  made := ⟨rfl, by simpa [Slot.ofBits] using ⟨bitsAt_lt v 92 4, bitsAt_lt v 96 4, bitsAt_lt v 100 4⟩⟩
  wait := bitsAt_lt _ _ _
  phase := bitsAt_lt _ _ _
  bank := bitsAt_lt _ _ _
  quota := bitsAt_lt _ _ _

theorem Slot.fits_slotAt (h : Hw) (co : CoreId) (off : Nat) : (h.slotAt co off).Fits := Slot.fits_ofBits _

theorem Slot.bits_lt (b : Slot) : b.bits < 256 ^ 16 := by
  have harmed := b.armed.toNat_lt
  simp only [Slot.bits]
  omega

/-- A slot whose fields lie in their ranges is what its 128 bits say (R156). -/
theorem Slot.ofBits_bits {b : Slot} (h : b.Fits) : Slot.ofBits b.bits = b := by
  obtain ⟨name, owed, made, wait, armed, phase, bank, quota⟩ := b
  obtain ⟨hname, ⟨hlen, howed⟩, ⟨hlen', hmade⟩, hwait, hphase, hbank, hquota⟩ := h
  dsimp only at *
  obtain ⟨nl, nc, ns, rfl⟩ := List.length_eq_three.mp hlen
  obtain ⟨hl, hc, hs, rfl⟩ := List.length_eq_three.mp hlen'
  simp only [List.mem_cons, List.not_mem_nil, or_false, forall_eq_or_imp, forall_eq] at howed hmade
  have hbit (c : Bool) : decide (c.toNat = 1) = c := by cases c <;> rfl
  have harmed := armed.toNat_lt
  simp only [Slot.ofBits, Slot.bits, bitsAt, Slot.mk.injEq, List.cons.injEq, List.getD_cons_zero, List.getD_cons_succ, and_true]
  refine ⟨?_, ⟨?_, ?_, ?_⟩, ⟨?_, ?_, ?_⟩, ?_, (decide_eq_decide.mpr ?_).trans (hbit armed), ?_, ?_, ?_⟩
  all_goals omega

/-! ### A slot in memory -/

/-- Slot `off` of the issuing core reads `y`, and no byte outside it differs. -/
def State.PutsSlot (s t : State) (off : Nat) (y : Slot) : Prop :=
  t.toHw.slotAt s.ix.co off = y
    ∧ ∀ j, j < localKey s.ix.co off ∨ localKey s.ix.co off + 16 ≤ j → memRead t.mem j = memRead s.mem j

section
variable {s t u : State} {off : Nat} {y : Slot}

theorem State.putsSlot_putSlot (hinv : s.Inv) (hfit : y.Fits) (off : Nat) :
    s.PutsSlot (s.upd (fun h => h.putSlot s.ix.co off y)) off y := by
  have hnum : (s.toHw.putSlot s.ix.co off y).num (localKey s.ix.co off) 16 = y.bits :=
    (Hw.num_putNum_same hinv _ _ _).trans (Nat.mod_eq_of_lt y.bits_lt)
  exact ⟨(congrArg Slot.ofBits hnum).trans (Slot.ofBits_bits hfit), fun j hj => Hw.memRead_putNum_out hinv _ hj⟩

theorem State.onlyMem_putSlot (s : State) (off : Nat) (y : Slot) : s.OnlyMem (s.upd (fun h => h.putSlot s.ix.co off y)) :=
  State.onlyMem_upd (s.toHw.onlyMem_write _ _)

/-- A slot depends on the bytes of memory alone. -/
theorem State.PutsSlot.of_mem (h : s.PutsSlot t off y) (hmem : u.mem = t.mem) : s.PutsSlot u off y := by
  obtain ⟨hslot, hout⟩ := h
  exact ⟨by rw [Hw.slotAt, Hw.num_congr hmem]; exact hslot, fun j hj => by rw [hmem]; exact hout j hj⟩

end

/-! ### Phases, arrivals and waits -/

section
variable {b : Slot} {x : Nat}

theorem Slot.complete_eq (b : Slot) : b.complete = if b.armed = true ∧ b.quota = 0 ∧ b.made = b.owed
    then { b with phase := (b.phase + 1) % 2 ^ 16, armed := false, made := [0, 0, 0] } else b := by
  simp only [Slot.complete, Bool.and_eq_true, beq_iff_eq, and_assoc]

theorem Slot.Fits.complete (h : b.Fits) : b.complete.Fits := by
  rw [Slot.complete]
  split
  · exact { h with phase := Nat.mod_lt _ (by decide), made := by simp }
  · exact h

/-- A phase that is armed is extended (R161). -/
theorem Slot.expect_armed (harmed : b.armed = true) (hx : b.quota + x ≤ 2 ^ 24 - 1) :
    b.expect x = some ({ b with quota := b.quota + x } : Slot).complete := by
  rw [Slot.expect, if_pos harmed, if_neg (Nat.not_lt.mpr hx)]

/-- A phase is armed, and draws on BANK first (R161). -/
theorem Slot.expect_unarmed (harmed : b.armed = false) (hx : x ≤ 2 ^ 24 - 1) :
    b.expect x = some ({ b with armed := true, quota := x - min b.bank x, bank := b.bank - min b.bank x } : Slot).complete := by
  rw [Slot.expect, if_neg (by simp [harmed]), if_neg (Nat.not_lt.mpr hx)]

theorem Slot.expect_overflow (h : (b.armed = true ∧ 2 ^ 24 - 1 < b.quota + x) ∨ (b.armed = false ∧ 2 ^ 24 - 1 < x)) :
    b.expect x = none := by
  rw [Slot.expect]
  obtain ⟨harmed, hx⟩ | ⟨harmed, hx⟩ := h
  · rw [if_pos harmed, if_pos hx]
  · rw [if_neg (by simp [harmed]), if_pos hx]

/-- What is expected of a slot in its ranges leaves it in them (R156, R161). -/
theorem Slot.Fits.expect {y : Slot} (h : b.Fits) (hy : b.expect x = some y) : y.Fits := by
  have hbank := h.bank
  cases harmed : b.armed with
  | true =>
    by_cases hx : b.quota + x ≤ 2 ^ 24 - 1
    · obtain rfl := Option.some.inj ((Slot.expect_armed harmed hx).symm.trans hy)
      exact Slot.Fits.complete { h with quota := by dsimp only; omega }
    · exact absurd ((Slot.expect_overflow (.inl ⟨harmed, by omega⟩)).symm.trans hy) (by simp)
  | false =>
    by_cases hx : x ≤ 2 ^ 24 - 1
    · obtain rfl := Option.some.inj ((Slot.expect_unarmed harmed hx).symm.trans hy)
      exact Slot.Fits.complete { h with quota := by dsimp only; omega, bank := by dsimp only; omega }
    · exact absurd ((Slot.expect_overflow (.inr ⟨harmed, by omega⟩)).symm.trans hy) (by simp)

/-- The slot with an engine's WAIT bit as a condition says, by its number (R156). -/
theorem Slot.setWait_eq (b : Slot) (e : EngId) (w : Bool) : b.setWait e w =
    { b with wait := b.wait - (if b.wait.testBit (engUnit e) then 2 ^ engUnit e else 0) + (if w then 2 ^ engUnit e else 0) } := by
  simp only [Slot.setWait, Nat.testBit_eq_decide_div_mod_eq, decide_eq_true_eq]
  cases w <;> by_cases hbit : b.wait / 2 ^ engUnit e % 2 = 1 <;> simp [hbit]

theorem Slot.Fits.setWait (h : b.Fits) (e : EngId) (w : Bool) : (b.setWait e w).Fits := by
  have hwait := h.wait
  have hrest : (if b.wait / 2 ^ engUnit e % 2 = 1 then b.wait - 2 ^ engUnit e else b.wait) + 2 ^ engUnit e < 2 ^ 3 := by
    cases e <;> rw [engUnit] <;> split <;> omega
  refine { h with wait := ?_ }
  cases w with
  | true => exact hrest
  | false => exact (Nat.le_add_right _ _).trans_lt hrest

end

section
variable {b : Slot} {d : Nat} {e : EngId} {signs : Prop} [Decidable signs]

/-- The bytes of an arrival that the armed phase draws (R159). -/
def Slot.drawn (b : Slot) (d : Nat) : Nat := if b.armed then min d b.quota else 0

/-- The signatures made once an engine has signed, if it does (R159). -/
def Slot.signed (b : Slot) (e : EngId) (signs : Prop) [Decidable signs] : List Nat :=
  if signs then b.made.set (engUnit e) (b.made.getD (engUnit e) 0 + 1) else b.made

/-- The slot after an arrival that is not refused (R159). -/
def Slot.arrived (b : Slot) (d : Nat) (e : EngId) (signs : Prop) [Decidable signs] : Slot :=
  ({ b with quota := b.quota - b.drawn d, bank := b.bank + (d - b.drawn d), made := b.signed e signs } : Slot).complete

/-- An arrival whose signature is owed and whose bytes have room is made (R159). -/
theorem Slot.arrive_ok (howed : signs → b.made.getD (engUnit e) 0 < b.owed.getD (engUnit e) 0)
    (hroom : b.bank + (d - b.drawn d) ≤ 2 ^ 24 - 1) :
    b.arrive d (if signs then some e else none) = .ok (b.arrived d e signs) := by
  have hroom' : ¬b.bank + (d - (if b.armed then min d b.quota else 0)) > 2 ^ 24 - 1 := Nat.not_lt.mpr hroom
  by_cases hsigns : signs
  · simp only [Slot.arrive, Slot.arrived, Slot.signed, Slot.drawn, hsigns, if_true, beq_iff_eq, (howed hsigns).ne, if_false, hroom']
  · simp only [Slot.arrive, Slot.arrived, Slot.signed, Slot.drawn, hsigns, Bool.false_eq_true, if_false, hroom']

/-- A signature that is not owed is refused before the room for the bytes is asked for (R159). -/
theorem Slot.arrive_not_owed (hsigns : signs) (howed : b.made.getD (engUnit e) 0 = b.owed.getD (engUnit e) 0) :
    b.arrive d (if signs then some e else none) = .error 0x33 := by
  simp only [Slot.arrive, hsigns, if_true, howed, beq_self_eq_true]

theorem Slot.arrive_overflow (howed : signs → b.made.getD (engUnit e) 0 < b.owed.getD (engUnit e) 0)
    (hfull : 2 ^ 24 - 1 < b.bank + (d - b.drawn d)) : b.arrive d (if signs then some e else none) = .error 0x32 := by
  have hfull' : b.bank + (d - (if b.armed then min d b.quota else 0)) > 2 ^ 24 - 1 := hfull
  by_cases hsigns : signs
  · simp only [Slot.arrive, hsigns, if_true, beq_iff_eq, (howed hsigns).ne, if_false, hfull']
  · simp only [Slot.arrive, hsigns, Bool.false_eq_true, if_false, hfull', if_true]

theorem getD_zero_lt {l : List Nat} {m : Nat} (h : ∀ x ∈ l, x < m) (hm : 0 < m) (i : Nat) : l.getD i 0 < m := by
  by_cases hi : i < l.length
  · rw [List.getD_eq_getElem l 0 hi]
    exact h _ (List.getElem_mem hi)
  · rwa [List.getD_eq_default l 0 (Nat.not_lt.mp hi)]

/-- An arrival at a slot in its ranges leaves it in them: no engine signs more than it owes (R156, R159). -/
theorem Slot.Fits.arrived (h : b.Fits) (howed : signs → b.made.getD (engUnit e) 0 < b.owed.getD (engUnit e) 0)
    (hroom : b.bank + (d - b.drawn d) ≤ 2 ^ 24 - 1) : (b.arrived d e signs).Fits := by
  have hquota := h.quota
  obtain ⟨hlen, hmade⟩ := h.made
  have hsigned : (b.signed e signs).length = 3 ∧ ∀ x ∈ b.signed e signs, x < 16 := by
    rw [Slot.signed]
    split
    next hsigns =>
      refine ⟨by rw [List.length_set, hlen], fun x hx => ?_⟩
      obtain hx | rfl := List.mem_or_eq_of_mem_set hx
      · exact hmade x hx
      · exact (Nat.succ_le_of_lt (howed hsigns)).trans_lt (getD_zero_lt h.owed.2 (by decide) _)
    next => exact h.made
  exact Slot.Fits.complete { h with
    quota := by dsimp only; omega
    bank := by dsimp only; omega
    made := hsigned }

end

/-! ### The directory -/

/-- What no entry of a table answers is answered by an entry that is put there. -/
theorem find?_tabPut {α : Type} {p : Nat × α → Bool} {t : Tab α} (hnone : t.find? p = none) {x : α} {k : Nat} (hp : p (k, x) = true) :
    (tabPut x k t).find? p = some (k, x) := by
  induction t with
  | nil => simp [tabPut, hp]
  | cons e t ih =>
    obtain ⟨j, y⟩ := e
    obtain ⟨hhead, htail⟩ : ¬p (j, y) = true ∧ t.find? p = none := by simpa using hnone
    simp only [tabPut]
    split
    · simp [hp]
    · split
      · simp [hp]
      · rw [List.find?_cons_of_neg hhead, ih htail]

/-- A core with another directory (R157), which is then to be saved (R374). -/
def Core.withDir (k : Core) (dir : Tab (BitVec 12 × BitVec 15)) : Core := { k with tbdir := dir, dirtyDir := true }

section
variable {k : Core} {n : BitVec 12}

theorem Core.eng_withDir (k : Core) (dir : Tab (BitVec 12 × BitVec 15)) (e : EngId) : (k.withDir dir).eng e = k.eng e := by
  cases e <;> rfl

/-- A name that is given a granule is active with its slot there. -/
theorem Core.barrierAt_put (hnone : k.barrierAt n.toNat = none) {off : Nat} (hin : off + 16 ≤ 2 ^ 19) (hal : off % 16 = 0) (i : Nat) :
    (k.withDir (tabPut (n, BitVec.ofNat 15 (off / 16)) i k.tbdir)).barrierAt n.toNat = some off := by
  have hgran : 16 * (BitVec.ofNat 15 (off / 16)).toNat = off := by rw [BitVec.toNat_ofNat]; omega
  rw [Core.barrierAt, Core.withDir, find?_tabPut (Option.map_eq_none_iff.mp hnone) (by simp), Option.map_some, hgran]

/-- A name that leaves the directory is no longer active. -/
theorem Core.barrierAt_filter (k : Core) (n : BitVec 12) :
    (k.withDir (k.tbdir.filter (fun e => e.2.1 != n))).barrierAt n.toNat = none := by
  rw [Core.barrierAt, Core.withDir, Option.map_eq_none_iff, List.find?_eq_none]
  intro e he
  have hne : e.2.1 ≠ n := by simpa using (List.mem_filter.mp he).2
  simpa using fun h => hne (BitVec.eq_of_toNat_eq h)

end

theorem State.tagAt_onHere (s : State) (f : Core → Core) (k : Nat) : (s.onHere f).toHw.tagAt k = s.toHw.tagAt k := rfl

theorem State.fullAt_onHere (s : State) (f : Core → Core) (k : Nat) : (s.onHere f).toHw.fullAt k = s.toHw.fullAt k := rfl

section
variable {s : State} {f : Hw → Hw}

/-- What changes no core leaves the issuing core as it was. -/
theorem State.here_upd (hcores : (f s.toHw).cores = s.cores) : (s.upd f).here = s.here :=
  congrArg (tabGet ({} : Core) · (CoreId.key s.ix.co)) hcores

/-- With another directory the issuing core has its engines as before. -/
theorem State.me_withDir (hcores : (f s.toHw).cores = s.cores) (dir : Core → Tab (BitVec 12 × BitVec 15)) :
    ((s.upd f).onHere (fun k => k.withDir (dir k))).me = s.me := by
  rw [State.me, State.here_onHere, Core.eng_withDir, State.here_upd hcores]
  rfl

end

/-! ### The barrier that an instruction names -/

section
variable {s : State} {a d : BitVec 6} {q : BitVec 3} {n : BitVec 12} {p : BitVec 1} {off : Nat}

theorem State.barrier_active (h : s.here.barrierAt n.toNat = some off) : s.barrier n = .ok (off, s.toHw.slotAt s.ix.co off) := by
  rw [State.barrier, h]

theorem State.trapsWith_barrier (h : s.here.barrierAt n.toNat = none) : TrapsWith 0x33 (s.barrier n) := by
  rw [State.barrier, h]
  exact trapsWith_trapWith _ _ _

/-- What `tbwait` does, said as a check: it goes on with its WAIT bit clear, or is held with it set (R162). -/
theorem execTbwait_eq : execTbwait a n s = settle s (s.gUse a >>= fun x => s.barrier n >>= fun z =>
    let ok := phasePassed z.2.phase x.toNat
    let t := s.upd (fun h => h.putSlot s.ix.co z.1 (z.2.setWait s.ix.eng (!ok)))
    .ok (if ok then t else t.hold)) := by
  rw [execTbwait]
  cases s.gUse a with
  | error e => cases e <;> rfl
  | ok x =>
    cases s.barrier n with
    | error e => cases e <;> rfl
    | ok z => rfl

/-- Naming a barrier that is not active raises 0x33, except in `tbinit` (R158). -/
theorem traps_of_inactive (ha : (s.g a).psn = false) (hnone : s.here.barrierAt n.toNat = none) :
    Traps s 0x33 (execTbexpect a n s) ∧ Traps s 0x33 (execTbarrive d a n p s) ∧ Traps s 0x33 (execTbwait a n s)
      ∧ Traps s 0x33 (execTbtest q a n s) ∧ Traps s 0x33 (execTbretire n s) := by
  have hname {f : Word → Nat × Slot → Chk State} : Traps s 0x33 (settle s (s.gUse a >>= fun x => s.barrier n >>= f x)) :=
    TrapsWith.traps (.of_ok (State.gUse_ok ha) ((State.trapsWith_barrier hnone).bind _)) s
  exact ⟨hname, hname, execTbwait_eq ▸ hname, hname, ((State.trapsWith_barrier hnone).bind _).traps s⟩

end

/-! ### tbinit -/

/-- The granule of a slot holds a barrier and has neither tag nor full bit nor poison mark (R156, R160). -/
def Hw.initSlot (h : Hw) (co : CoreId) (off : Nat) (b : Slot) : Hw :=
  (((h.putSlot co off b).setTag false (localKey co off)).setFull false (localKey co off)).setMark false (localKey co off)

/-- What `tbinit` does past the checks of its offset (R160). -/
def State.initBarrier (s : State) (n : BitVec 12) (b : Slot) (off : Nat) : Chk State := do
  match s.here.barrierAt n.toNat with
  | some o => trapWith 0x33 off (slotDetail n (s.toHw.slotAt s.ix.co o))
  | none => .ok ()
  trapIf (s.here.barrierIn off 16).isSome 0x33 off (barrierDetail n.toNat 0)
  match tabFree s.here.tbdir 2048 with
  | none => trapWith 0x32 off (barrierDetail n.toNat 0)
  | some i => .ok ((s.upd (fun h => h.initSlot s.ix.co off b)).onHere
      (fun k => k.withDir (tabPut (n, BitVec.ofNat 15 (off / 16)) i k.tbdir)))

section
variable {s : State} {a : BitVec 6} {n : BitVec 12} {nl nc ns : BitVec 4} {off : Nat} {b : Slot}

theorem execTbinit_checked (ha : (s.g a).psn = false) (hea : ((s.c 8).cursor : Int) + (s.g a).bits.toInt = off)
    (hallow : (s.c 8).Allows [1] (pLd ||| pSt) off 16) (hin : off + 16 ≤ 2 ^ 19) (hal : off % 16 = 0) :
    execTbinit a n nl nc ns s
      = settle s (s.initBarrier n { name := n.toNat, owed := [nl.toNat, nc.toNat, ns.toNat] } off) := by
  rw [execTbinit, State.gUse_ok ha, ok_bind, State.c8Addr, hea, checkOwn_ok hallow (by decide) hin, ok_bind,
    trapIf_false (by simp [hal]), ok_bind]
  refine congrArg (settle s) ?_
  cases hname : s.here.barrierAt n.toNat with
  | some o => simp only [State.initBarrier, hname, trapWith, error_bind]
  | none =>
    simp only [State.initBarrier, hname, ok_bind]
    cases tabFree s.here.tbdir 2048 <;> simp only [Hw.initSlot, Core.withDir]

theorem Slot.fits_fresh (n : BitVec 12) (nl nc ns : BitVec 4) :
    ({ name := n.toNat, owed := [nl.toNat, nc.toNat, ns.toNat] } : Slot).Fits where
  name := n.isLt
  owed := ⟨rfl, by simpa using ⟨nl.isLt, nc.isLt, ns.isLt⟩⟩
  made := by simp
  wait := Nat.two_pow_pos _
  phase := Nat.two_pow_pos _
  bank := Nat.two_pow_pos _
  quota := Nat.two_pow_pos _

theorem State.isSome_barrierIn_false (hslot : s.NoSlot off 16) : (s.here.barrierIn off 16).isSome = false :=
  Option.isSome_eq_false_iff.mpr (Option.isNone_iff_eq_none.mpr hslot)

theorem State.initBarrier_free (hname : s.here.barrierAt n.toNat = none) (hslot : s.NoSlot off 16) {i : Nat}
    (hfree : tabFree s.here.tbdir 2048 = some i) :
    s.initBarrier n b off = .ok ((s.upd (fun h => h.initSlot s.ix.co off b)).onHere
      (fun k => k.withDir (tabPut (n, BitVec.ofNat 15 (off / 16)) i k.tbdir))) := by
  simp only [State.initBarrier, hname, trapIf_false (State.isSome_barrierIn_false hslot), hfree, ok_bind]

theorem State.trapsWith_initBarrier_active (hname : s.here.barrierAt n.toNat ≠ none) : TrapsWith 0x33 (s.initBarrier n b off) := by
  obtain ⟨o, ho⟩ := Option.ne_none_iff_exists'.mp hname
  simp only [State.initBarrier, ho]
  exact (trapsWith_trapWith _ _ _).bind _

theorem State.trapsWith_initBarrier_taken (hname : s.here.barrierAt n.toNat = none) (hslot : ¬s.NoSlot off 16) :
    TrapsWith 0x33 (s.initBarrier n b off) := by
  simp only [State.initBarrier, hname, ok_bind]
  exact (trapsWith_trapIf (Option.isSome_iff_ne_none.mpr hslot) _ _ _).bind _

theorem State.trapsWith_initBarrier_full (hname : s.here.barrierAt n.toNat = none) (hslot : s.NoSlot off 16)
    (hfull : tabFree s.here.tbdir 2048 = none) : TrapsWith 0x32 (s.initBarrier n b off) := by
  simp only [State.initBarrier, hname, trapIf_false (State.isSome_barrierIn_false hslot), hfull, ok_bind]
  exact trapsWith_trapWith _ _ _

theorem Hw.mem_initSlot (h : Hw) (co : CoreId) (off : Nat) (b : Slot) : (h.initSlot co off b).mem = (h.putSlot co off b).mem := by
  simp only [Hw.initSlot, Hw.setTag, Hw.setFull, Hw.setMark]

theorem Hw.cores_initSlot (h : Hw) (co : CoreId) (off : Nat) (b : Slot) : (h.initSlot co off b).cores = h.cores := by
  simp only [Hw.initSlot, Hw.setTag, Hw.setFull, Hw.setMark, Hw.putSlot, Hw.putNum, Hw.write]

theorem Hw.tagAt_initSlot (h : Hw) (co : CoreId) (off : Nat) (b : Slot) : (h.initSlot co off b).tagAt (localKey co off) = false := by
  simp only [Hw.initSlot, Hw.setTag, Hw.setFull, Hw.setMark, Hw.tagAt, setHas_setPut, if_true]

theorem Hw.fullAt_initSlot (h : Hw) (co : CoreId) (off : Nat) (b : Slot) : (h.initSlot co off b).fullAt (localKey co off) = false := by
  simp only [Hw.initSlot, Hw.setTag, Hw.setFull, Hw.setMark, Hw.fullAt, setHas_setPut, if_true]

/-- A free name and a free granule become a barrier with its slot there (R160). -/
theorem State.initBarrier_makes (hinv : s.Inv) (hfit : b.Fits) (hin : off + 16 ≤ 2 ^ 19) (hal : off % 16 = 0)
    (hname : s.here.barrierAt n.toNat = none) (hslot : s.NoSlot off 16) (hfree : ∃ i, i < 2048 ∧ tabFind s.here.tbdir i = none) :
    ∃ t, settle s (s.initBarrier n b off) = .next t ∧ t.here.barrierAt n.toNat = some off ∧ s.PutsSlot t off b
      ∧ t.toHw.tagAt (localKey s.ix.co off) = false ∧ t.toHw.fullAt (localKey s.ix.co off) = false ∧ t.me = s.me := by
  obtain ⟨j, hj, hnone⟩ := hfree
  obtain ⟨i, hi⟩ := Option.ne_none_iff_exists'.mp fun h => tabFree_eq_none.mp h j hj hnone
  rw [State.initBarrier_free hname hslot hi, settle_done]
  refine ⟨_, rfl, ?_, (State.putsSlot_putSlot hinv hfit off).of_mem ?_, ?_, ?_, State.me_withDir (Hw.cores_initSlot _ _ _ _) _⟩
  · rw [State.here_onHere, State.here_upd (Hw.cores_initSlot _ _ _ _)]
    exact Core.barrierAt_put hname hin hal i
  · rw [State.onHere_mem, State.upd_toHw, State.upd_toHw, Hw.mem_initSlot]
  · rw [State.tagAt_onHere, State.upd_toHw, Hw.tagAt_initSlot]
  · rw [State.fullAt_onHere, State.upd_toHw, Hw.fullAt_initSlot]

end

/-! ### The end of a barrier -/

/-- The granule of a slot without its barrier: 16 zero bytes, no full bit, no poison mark (R163). -/
def Hw.clearSlot (h : Hw) (co : CoreId) (off : Nat) : Hw :=
  ((h.putNum (localKey co off) 16 0).setFull false (localKey co off)).setMark false (localKey co off)

section
variable (h : Hw) (co : CoreId) (off : Nat)

theorem Hw.mem_clearSlot : (h.clearSlot co off).mem = (h.putNum (localKey co off) 16 0).mem := by
  simp only [Hw.clearSlot, Hw.setFull, Hw.setMark]

theorem Hw.cores_clearSlot : (h.clearSlot co off).cores = h.cores := by
  simp only [Hw.clearSlot, Hw.setFull, Hw.setMark, Hw.putNum, Hw.write]

theorem Hw.fullAt_clearSlot : (h.clearSlot co off).fullAt (localKey co off) = false := by
  simp only [Hw.clearSlot, Hw.setFull, Hw.setMark, Hw.fullAt, setHas_setPut, if_true]

end

/-! ### Operations on an active barrier -/

section
variable {s : State} {a d : BitVec 6} {q : BitVec 3} {n : BitVec 12} {p : BitVec 1} {off : Nat} {y : Slot}

section
variable (ha : (s.g a).psn = false) (hact : s.here.barrierAt n.toNat = some off)
include ha hact

/-- What is expected of the slot is put in it, and nothing else changes (R161). -/
theorem execTbexpect_puts (hinv : s.Inv) (hy : (s.toHw.slotAt s.ix.co off).expect (s.g a).bits.toNat = some y) :
    ∃ t, execTbexpect a n s = .next t ∧ s.OnlyMem t ∧ s.PutsSlot t off y := by
  simp only [execTbexpect, State.gUse_ok ha, State.barrier_active hact, ok_bind, hy, settle_done]
  exact ⟨_, rfl, s.onlyMem_putSlot off y, State.putsSlot_putSlot hinv ((Slot.fits_slotAt _ _ _).expect hy) off⟩

theorem traps_execTbexpect (hnone : (s.toHw.slotAt s.ix.co off).expect (s.g a).bits.toNat = none) :
    Traps s 0x32 (execTbexpect a n s) := by
  simp only [execTbexpect, State.gUse_ok ha, State.barrier_active hact, ok_bind, hnone]
  exact traps_settle _ _ _ _

/-- An arrival is put in the slot, and gD takes the phase that the slot held (R159). -/
theorem execTbarrive_puts (hinv : s.Inv) (hfit : y.Fits)
    (hy : (s.toHw.slotAt s.ix.co off).arrive (s.g a).bits.toNat (if p = 1 then some s.ix.eng else none) = .ok y) :
    ∃ t v, execTbarrive d a n p s = .next t ∧ s.OnlyMem v
      ∧ WritesG v d ⟨BitVec.ofNat 64 (s.toHw.slotAt s.ix.co off).phase, false⟩ (.next t) ∧ s.PutsSlot v off y := by
  simp only [execTbarrive, State.gUse_ok ha, State.barrier_active hact, ok_bind, hy, settle_done]
  exact ⟨_, _, rfl, s.onlyMem_putSlot off y, writesG _ _ _, State.putsSlot_putSlot hinv hfit off⟩

theorem traps_execTbarrive {c : Byte}
    (hc : (s.toHw.slotAt s.ix.co off).arrive (s.g a).bits.toNat (if p = 1 then some s.ix.eng else none) = .error c) :
    Traps s c (execTbarrive d a n p s) := by
  simp only [execTbarrive, State.gUse_ok ha, State.barrier_active hact, ok_bind, hc]
  exact traps_settle _ _ _ _

/-- Once its phase has passed, a wait goes on, and its engine waits no longer (R162). -/
theorem execTbwait_goes (hinv : s.Inv) (hpassed : phasePassed (s.toHw.slotAt s.ix.co off).phase (s.g a).bits.toNat = true) :
    ∃ t, execTbwait a n s = .next t ∧ s.OnlyMem t ∧ s.PutsSlot t off ((s.toHw.slotAt s.ix.co off).setWait s.ix.eng false) := by
  simp only [execTbwait_eq, State.gUse_ok ha, State.barrier_active hact, ok_bind, hpassed, if_true, settle_done]
  exact ⟨_, rfl, s.onlyMem_putSlot off _, State.putsSlot_putSlot hinv ((Slot.fits_slotAt _ _ _).setWait _ _) off⟩

/-- Until then it blocks, with its engine's WAIT bit set (R162). -/
theorem execTbwait_blocks (hinv : s.Inv) (hnot : phasePassed (s.toHw.slotAt s.ix.co off).phase (s.g a).bits.toNat = false) :
    ∃ v, s.OnlyMem v ∧ s.PutsSlot v off ((s.toHw.slotAt s.ix.co off).setWait s.ix.eng true) ∧ Blocks v (execTbwait a n s) := by
  simp only [execTbwait_eq, State.gUse_ok ha, State.barrier_active hact, ok_bind, hnot, Bool.false_eq_true, if_false, settle_done]
  exact ⟨_, s.onlyMem_putSlot off _, State.putsSlot_putSlot hinv ((Slot.fits_slotAt _ _ _).setWait _ _) off, rfl⟩

theorem execTbtest_writes : WritesP s q ⟨phasePassed (s.toHw.slotAt s.ix.co off).phase (s.g a).bits.toNat, false⟩ (execTbtest q a n s) := by
  rw [execTbtest, State.gUse_ok ha, ok_bind, State.barrier_active hact, ok_bind, settle_done]
  exact writesP _ _ _

end

section
variable (hact : s.here.barrierAt n.toNat = some off)
include hact

/-- A barrier that is between phases, empty and awaited by no engine ends: its name and its granule are free (R163). -/
theorem execTbretire_ends (hinv : s.Inv) (harmed : (s.toHw.slotAt s.ix.co off).armed = false)
    (hbank : (s.toHw.slotAt s.ix.co off).bank = 0) (hmade : (s.toHw.slotAt s.ix.co off).made = [0, 0, 0])
    (hwait : (s.toHw.slotAt s.ix.co off).wait = 0) :
    ∃ t, execTbretire n s = .next t ∧ t.here.barrierAt n.toNat = none
      ∧ (∀ j, j < localKey s.ix.co off ∨ localKey s.ix.co off + 16 ≤ j → memRead t.mem j = memRead s.mem j)
      ∧ t.toHw.num (localKey s.ix.co off) 16 = 0 ∧ t.toHw.fullAt (localKey s.ix.co off) = false ∧ t.me = s.me := by
  have hidle : ((s.toHw.slotAt s.ix.co off).armed || (s.toHw.slotAt s.ix.co off).bank != 0
      || (s.toHw.slotAt s.ix.co off).made != [0, 0, 0] || (s.toHw.slotAt s.ix.co off).wait != 0) = false := by
    simp [harmed, hbank, hmade, hwait]
  have hdone : execTbretire n s = .next ((s.upd (fun h => h.clearSlot s.ix.co off)).onHere
      (fun k => k.withDir (k.tbdir.filter (fun e => e.2.1 != n)))) := by
    simp only [execTbretire, State.barrier_active hact, trapIf_false hidle, ok_bind, settle_done, Hw.clearSlot, Core.withDir]
  refine ⟨_, hdone, ?_, fun j hj => ?_, ?_, ?_, State.me_withDir (Hw.cores_clearSlot _ _ _) _⟩
  · rw [State.here_onHere]
    exact Core.barrierAt_filter _ n
  · rw [State.onHere_mem, State.upd_toHw, Hw.mem_clearSlot, Hw.memRead_putNum_out hinv 0 hj]
  · rw [Hw.num_congr (State.onHere_mem _ _), State.upd_toHw, Hw.num_congr (Hw.mem_clearSlot _ _ _), Hw.num_putNum_same hinv]
    exact Nat.zero_mod _
  · rw [State.fullAt_onHere, State.upd_toHw, Hw.fullAt_clearSlot]

theorem traps_execTbretire (hbusy : (s.toHw.slotAt s.ix.co off).armed = true ∨ (s.toHw.slotAt s.ix.co off).bank ≠ 0
      ∨ (s.toHw.slotAt s.ix.co off).made ≠ [0, 0, 0] ∨ (s.toHw.slotAt s.ix.co off).wait ≠ 0) :
    Traps s 0x33 (execTbretire n s) := by
  rw [execTbretire, State.barrier_active hact, ok_bind]
  exact ((trapsWith_trapIf (by simpa [or_assoc] using hbusy) _ _ _).bind _).traps s

end

end

/-- Settles O34: each operation puts in the slot what its rule makes of the slot's state, or is refused; the sign of gA in `tbinit` is
the model's choice (log entry 98). -/
theorem transactionBarriers : Obligations.TransactionBarriers := by
  intro s d a q n p nl nc ns off x key b top done outside slot u take sign passed waits active hinv hin ha
  have hdone (z : Slot) : done z = z.complete := (Slot.complete_eq z).symm
  have hwaits (w : Bool) : waits w = b.setWait s.ix.eng w := (Slot.setWait_eq b s.ix.eng w).symm
  simp only [exec_tbinit, exec_tbexpect, exec_tbarrive, exec_tbwait, exec_tbtest, exec_tbretire, hdone, hwaits]
  refine ⟨fun hea hallow hal => ?init, fun hact harmed hx => execTbexpect_puts ha hact hinv (Slot.expect_armed harmed hx),
    fun hact harmed hx => execTbexpect_puts ha hact hinv (Slot.expect_unarmed harmed hx),
    fun hact hx => traps_execTbexpect ha hact (Slot.expect_overflow hx),
    fun hact howed hroom => execTbarrive_puts ha hact hinv ((Slot.fits_slotAt _ _ _).arrived howed hroom) (Slot.arrive_ok howed hroom),
    fun hact hp howed => traps_execTbarrive ha hact (Slot.arrive_not_owed hp howed),
    fun hact howed hfull => traps_execTbarrive ha hact (Slot.arrive_overflow howed hfull),
    fun hact hpassed => execTbwait_goes ha hact hinv (phasePassed_iff.mpr hpassed),
    fun hact hnot => execTbwait_blocks ha hact hinv (Bool.eq_false_iff.mpr fun h => hnot (phasePassed_iff.mp h)),
    fun hact => ⟨_, phasePassed_iff, execTbtest_writes ha hact⟩,
    fun hact harmed hbank hmade hwait => execTbretire_ends hact hinv harmed hbank hmade hwait,
    fun hact hbusy => traps_execTbretire hact hbusy, fun hnone => traps_of_inactive ha hnone⟩
  case init =>
    rw [execTbinit_checked ha hea hallow hin hal]
    exact ⟨State.initBarrier_makes hinv (Slot.fits_fresh n nl nc ns) hin hal,
      fun hname => (State.trapsWith_initBarrier_active hname).traps s,
      fun hname htaken => (State.trapsWith_initBarrier_taken hname htaken).traps s,
      fun hname hslot hfull => (State.trapsWith_initBarrier_full hname hslot (tabFree_eq_none.mpr hfull)).traps s⟩

end Sys2Proof.Machine
end


section
/-! SUPPORT. Loop counters and repetition: a counter written, the cases of a count (R68, R173, R175, R176). -/

namespace Sys2Proof.Machine

section
variable {s : State} {lc : BitVec 2}

/-- A loop counter alone is written (R173). -/
theorem becomes_setLc (s : State) (lc : BitVec 2) (x : Lane) :
    Becomes s (s.here.setEng s.ix.eng { s.me with lc := s.me.lc.set lc.toNat x lc.isLt }) (.next (s.setLc lc x)) :=
  becomes_onMe s (fun e => { e with lc := e.lc.set lc.toNat x lc.isLt })

/-- A change of the issuing core that keeps the place of the issue, with a relative transfer from it (R56). -/
theorem becomesAndJumps_goRel {u : State} {k : Core} (h : Becomes s k (.next u)) (hix : u.ix = s.ix) (disp : BitVec 32) :
    BecomesAndJumps s k ((s.ix.pc.toNat : Int) + 12 * s.ix.slot + 4 * disp.toInt) (.next (u.goRel disp)) :=
  ⟨u, h, jumps_goRel hix disp⟩

/-- A counter of 0 is left (R175). -/
theorem execLoopLc_zero (h : s.lcv lc = 0) (disp : BitVec 32) : execLoopLc lc disp s = .next s := if_pos h

/-- A counter of 1 reaches 0 and falls through (R175). -/
theorem execLoopLc_one (h : s.lcv lc = 1) (disp : BitVec 32) : execLoopLc lc disp s = .next (s.setLc lc 0) := by
  simp [execLoopLc, h]

/-- A counter that does not reach 0 goes back (R175). -/
theorem execLoopLc_goes (h0 : s.lcv lc ≠ 0) (h1 : s.lcv lc ≠ 1) (disp : BitVec 32) :
    execLoopLc lc disp s = .next ((s.setLc lc (s.lcv lc - 1)).goRel disp) := by
  have hne : ¬s.lcv lc - 1 = 0 := fun h => h1 (by bv_omega)
  simp only [execLoopLc, if_neg h0, if_neg hne]

end

/-- Settles O19: the count is 0, 1 or above, gA is clean or poisoned, and the task is in loop mode or not. -/
theorem loopCounters : Obligations.LoopCounters := by
  unfold Obligations.LoopCounters
  intro s lc a disp imm n sd s1 s2 s3 soff pc v put
  simp only [exec_loopLc, exec_lset, exec_rep]
  have hv (k : Nat) (hk : k < 2 ^ 32) : s.lcv lc = BitVec.ofNat 32 k ↔ v = k := by
    rw [BitVec.toNat_eq, BitVec.toNat_ofNat, Nat.mod_eq_of_lt hk]
  refine ⟨fun h => execLoopLc_zero ((hv 0 (by decide)).mpr h) disp, fun h => ?one, fun h => ?goes, fun ha => ?lset,
    fun ha => traps_gUse ha _, fun hmode => ?rep, fun hmode => ?refused⟩
  case one =>
    rw [execLoopLc_one ((hv 1 (by decide)).mpr h)]
    exact becomes_setLc s lc 0
  case goes =>
    have h0 : s.lcv lc ≠ 0 := fun h0 => by have := (hv 0 (by decide)).mp h0; omega
    have h1 : s.lcv lc ≠ 1 := fun h1 => by have := (hv 1 (by decide)).mp h1; omega
    have hcount : BitVec.ofNat 32 (v - 1) = s.lcv lc - 1 := by simp only [v]; bv_omega
    rw [execLoopLc_goes h0 h1, hcount]
    exact becomesAndJumps_goRel (becomes_setLc s lc _) rfl disp
  case lset =>
    have hsum : BitVec.ofNat 32 ((s.g a).bits.toNat + imm.toNat) = (s.g a).bits.setWidth 32 + imm := by
      rw [BitVec.ofNat_add, BitVec.ofNat_toNat, BitVec.ofNat_toNat, BitVec.setWidth_eq]
    rw [execLset, State.gUse_ok ha, hsum]
    exact becomes_setLc s lc _
  case rep =>
    rw [execRep, trapIf_false hmode]
    exact becomes_onMe s (fun e => { e with rep := some ⟨n.toNat, 0, sd, s1, s2, s3, soff⟩ })
  case refused =>
    rw [execRep, trapIf_true hmode]
    exact traps_settle_bind _ _ _ _ _

end Sys2Proof.Machine
end


section
/-! SUPPORT. Traps that an instruction raises itself, the end of a stream, fences: the bytes of a record's detail, what the phase
counts of a done engine leave, the commands that a fence covers (R166, R292, R360-R367). -/

namespace Sys2Proof.Machine

/-! ### A trap's record -/

theorem detField_eq {at_ n v : Nat} (h : v < 2 ^ (8 * n)) : detField at_ n v = BitVec.ofNat 256 (v * 2 ^ (8 * (at_ - 32))) := by
  rw [Nat.pow_mul] at h
  rw [detField, Nat.mod_eq_of_lt h, Nat.pow_mul]

/-- A field of a record above the bits of a number adds to it (R363). -/
theorem ofNat_or_shifted {w i a : Nat} (h : a < 2 ^ i) (b : Nat) :
    BitVec.ofNat w a ||| BitVec.ofNat w (b * 2 ^ i) = BitVec.ofNat w (a + 2 ^ i * b) := by
  rw [← BitVec.ofNat_or, Nat.mul_comm b, Nat.or_comm, ← Nat.two_pow_add_eq_or_of_lt h, Nat.add_comm]

/-- The detail of `trap`: the immediate, gA above it, gA's poison above both (R363, R367). -/
theorem trapDetail_eq (imm : BitVec 32) (x : GReg) :
    detField 32 4 imm.toNat ||| detField 40 8 x.bits.toNat ||| detField 48 1 x.psn.toNat =
      BitVec.ofNat 256 (imm.toNat + 2 ^ 64 * x.bits.toNat + if x.psn then 2 ^ 128 else 0) := by
  have himm : imm.toNat < 2 ^ 32 := imm.isLt
  have hbits : x.bits.toNat < 2 ^ 64 := x.bits.isLt
  have hlow : imm.toNat + 2 ^ 64 * x.bits.toNat < 2 ^ 128 := by omega
  have hpsn : x.psn.toNat < 2 ^ (8 * 1) := Nat.lt_of_le_of_lt x.psn.toNat_le (by decide)
  rw [detField_eq (n := 4) himm, detField_eq (n := 8) hbits, detField_eq hpsn]
  simp only [Nat.reduceSub, Nat.reduceMul]
  rw [Nat.pow_zero, Nat.mul_one, ofNat_or_shifted (by omega), ofNat_or_shifted hlow]
  cases x.psn <;> rfl

/-! ### The end of a stream -/

/-- What looks at a core's barriers again leaves its engines and memory (R328). -/
def Hw.KeepsEngines (h g : Hw) (co : CoreId) : Prop := g.mem = h.mem ∧ ∀ e, (g.core co).eng e = (h.core co).eng e

theorem Hw.keepsEngines_advance (h : Hw) (co : CoreId) (t : Task) (lv : Nat) : h.KeepsEngines (h.advance co t lv) co := by
  obtain ⟨ph, hcore⟩ := h.core_advance co t lv
  refine ⟨h.mem_advance co t lv, fun e => ?_⟩
  rw [hcore]
  cases e <;> rfl

theorem Hw.keepsEngines_settleBars (h : Hw) (co : CoreId) : h.KeepsEngines (h.settleBars co) co := by
  have hfold (t : Task) (lvs : List Nat) (g : Hw) (hg : h.KeepsEngines g co) :
      h.KeepsEngines (lvs.foldl (fun h lv => h.advance co t lv) g) co := by
    induction lvs generalizing g with
    | nil => exact hg
    | cons lv lvs ih =>
      obtain ⟨hmem, heng⟩ := g.keepsEngines_advance co t lv
      exact ih _ ⟨hmem.trans hg.1, fun e => (heng e).trans (hg.2 e)⟩
  rw [Hw.settleBars]
  split
  · exact ⟨rfl, fun _ => rfl⟩
  · exact hfold _ _ _ (h.keepsEngines_advance co _ 1)

/-- An engine that has executed `done` (R166). -/
def Eng.finished (g : Eng) (pc : BitVec 48) (slot cyc : Nat) : Eng :=
  { g with
    st := .done
    rsec := (match g.sec with
      | some x => x.sec
      | none => g.rsec)
    donePc := pc, doneSlot := slot, doneAt := cyc }

theorem execDoneOp_eq (s : State) : execDoneOp s = settle s (do
    trapIf (s.ix.eng == .c && !s.here.cu.dq.isEmpty) 0x37 0 (queueDetail 5 0)
    .ok (s.onMe (fun e => e.finished s.ix.pc s.ix.slot s.here.cyc)).settleBars) := rfl

theorem execDoneOp_ends {s : State} (h : s.ix.eng ≠ .c ∨ s.here.cu.dq = []) : ∃ t, execDoneOp s = .next t
    ∧ t.me = s.me.finished s.ix.pc s.ix.slot s.here.cyc ∧ (∀ e, e ≠ s.ix.eng → t.here.eng e = s.here.eng e)
    ∧ t.mem = s.mem := by
  have hopen : (s.ix.eng == .c && !s.here.cu.dq.isEmpty) = false := by
    rcases h with h | h <;> simp [h]
  obtain ⟨hmem, heng⟩ :=
    (s.onMe (fun e => e.finished s.ix.pc s.ix.slot s.here.cyc)).toHw.keepsEngines_settleBars s.ix.co
  refine ⟨_, by rw [execDoneOp_eq, trapIf_false hopen, ok_bind, settle_done], ?_, fun e he => ?_, hmem⟩
  · exact (heng _).trans (State.me_onMe _ _)
  · refine (heng e).trans ?_
    show (s.onMe _).here.eng e = _
    rw [State.onMe, State.here_onHere, Core.eng_setEng_other _ _ he]

/-! ### Fences -/

section
variable {s : State} {f : Fence}

/-- A command that a fence does not wait for (R292). -/
theorem all_fence_iff : (s.herePrior.cmds.all (fun c => c.op == .order || c.op == .close || !c.inFence s.ix.co f || c.performed)) = true
    ↔ ∀ c ∈ s.herePrior.cmds, c.op = .order ∨ c.op = .close ∨ c.inFence s.ix.co f = false ∨ c.performed = true := by
  simp only [List.all_eq_true, Bool.or_eq_true, beq_iff_eq, Bool.not_eq_true', or_assoc]

theorem fenceWith_spec :
    let covers := ∀ c ∈ s.herePrior.cmds, c.op = .order ∨ c.op = .close ∨ c.inFence s.ix.co f = false ∨ c.performed = true
    (covers → fenceWith f s = .next s) ∧ (¬covers → Blocks s (fenceWith f s)) := by
  dsimp only
  rw [← all_fence_iff]
  refine ⟨fun h => ?_, fun h => ?_⟩
  · rw [fenceWith, blockUnless_true h, ok_bind, settle_done]
  · rw [fenceWith, blockUnless_false (Bool.eq_false_iff.mpr h)]
    exact blocks_settle s

end

/-- Settles O25: the records of `trap` and `brk` byte by byte, the engine that is done, and the fences by the one rule of R292. -/
theorem trapBreakDoneAndFences : Obligations.TrapBreakDoneAndFences := by
  unfold Obligations.TrapBreakDoneAndFences
  intro s a imm x raises covers fence
  simp only [exec_trap, exec_brk, exec_doneOp, exec_fenceCore, exec_fenceIsle, exec_fenceMod, exec_fenceSys]
  refine ⟨?trap, fun h => ?brk, fun h => ?passes, fun h => ?done, fun hc hdq => ?busy, fenceWith_spec, fenceWith_spec, fenceWith_spec,
    fenceWith_spec⟩
  case trap => rw [← trapDetail_eq]; rfl
  case brk =>
    have hdet : detField 32 4 imm.toNat = BitVec.ofNat 256 imm.toNat := (detField_eq (n := 4) imm.isLt).trans (by simp)
    rw [execBrk, h, ← hdet]
    rfl
  case passes =>
    rw [execBrk, h]
    exact becomes_onMe s (fun e => { e with brkPass := false })
  case done =>
    obtain ⟨t, ht, hme, hother, hmem⟩ := execDoneOp_ends h
    refine ⟨t, ht, ?_, fun y hy => ?_, ?_, ?_, ?_, hother, fun k => by rw [hmem]⟩ <;> rw [hme]
    case refine_2 => rw [Eng.finished, hy]
    all_goals rfl
  case busy =>
    have hheld : (s.ix.eng == .c && !s.here.cu.dq.isEmpty) = true := by simp [hc, hdq]
    rw [execDoneOp_eq, trapIf_true hheld]
    exact traps_settle_bind _ _ _ _ _

end Sys2Proof.Machine
end


section
/-! SUPPORT. Data queues and branch outcomes: a push into a queue with room, a pop of an entry that is there, and what stops either
(R168-R170, R172). -/

namespace Sys2Proof.Machine

@[simp] theorem Core.setQueue_cu (k : Core) (x : Bool) (q : BitVec 2) (l : List QEntry) : (k.setQueue x q l).cu = k.cu := by
  cases x <;> rfl

/-- A core that is left as it is. -/
theorem becomes_refl (s : State) : Becomes s s.here (.next s) := ⟨s, rfl, s.onlyCore_refl, rfl, fun _ => rfl⟩

/-! ### Pushing -/

section
variable {s : State} {q : BitVec 2} (hprior : s.herePrior = s.here)
include hprior

/-- An entry goes behind those of the queue that the engine pushes (R168, R169). -/
theorem becomes_push (hroom : (s.here.queueOf (s.ix.eng == .l) q).length < 16) (e : QEntry) :
    Becomes s (s.here.setQueue (s.ix.eng == .l) q (s.here.queueOf (s.ix.eng == .l) q ++ [{ e with fresh := true }]))
      (settle s (s.push q e)) := by
  have hfree : decide (16 ≤ (s.here.queueOf (s.ix.eng == .l) q).length) = false := decide_eq_false (Nat.not_le.mpr hroom)
  simp only [State.push, hprior, hfree, Bool.false_and, trapIf_false, Bool.not_false, blockUnless_true, ok_bind, settle_done]
  exact becomes_onHere s _

theorem blocks_push (hfull : 16 ≤ (s.here.queueOf (s.ix.eng == .l) q).length)
    (hrun : s.here.isDone (if s.ix.eng == .l then .c else .s) = false) (e : QEntry) : Blocks s (settle s (s.push q e)) := by
  simp only [State.push, hprior, decide_eq_true hfull, hrun, Bool.and_false, trapIf_false, ok_bind]
  exact blocks_settle s

theorem traps_push (hfull : 16 ≤ (s.here.queueOf (s.ix.eng == .l) q).length)
    (hdone : s.here.isDone (if s.ix.eng == .l then .c else .s) = true) (e : QEntry) : Traps s 0x37 (settle s (s.push q e)) := by
  simp only [State.push, hprior, decide_eq_true hfull, hdone, Bool.and_true]
  exact ((trapsWith_trapIf rfl _ _ _).bind _).traps s

end

/-! ### Popping -/

/-- The state that a pop leaves: with K = 1 the entry stays (R170). -/
def State.popped (s : State) (q : BitVec 2) (keep : Bool) : State :=
  let x := s.ix.eng == .c
  if keep then s else s.onHere (fun k => k.setQueue x q (k.queueOf x q).tail)

theorem State.v_popped (s : State) (q : BitVec 2) (keep : Bool) (r : BitVec 6) : (s.popped q keep).v r = s.v r := by
  rw [State.popped]
  split
  · rfl
  · rw [State.v, State.here_onHere, Core.setQueue_cu]; rfl

section
variable {s : State} {q : BitVec 2} {e : QEntry} {rest : List QEntry}

theorem becomes_popped (hq : s.here.queueOf (s.ix.eng == .c) q = e :: rest) (k : BitVec 1) :
    Becomes s (if k = 1 then s.here else s.here.setQueue (s.ix.eng == .c) q rest) (.next (s.popped q (k == 1))) := by
  by_cases hk : k = 1
  · subst hk
    exact becomes_refl s
  · simp only [State.popped, beq_eq_false_iff_ne.mpr hk, if_neg hk, Bool.false_eq_true, if_false]
    exact (becomes_onHere s _).congr (by rw [hq]; rfl)

variable (hprior : s.herePrior = s.here)
include hprior

theorem State.pop_head (hq : s.here.queueOf (s.ix.eng == .c) q = e :: rest) (hfresh : e.fresh = false) (hpar : e.parityOk = true)
    (keep : Bool) : s.pop q keep = .ok (e, s.popped q keep) := by
  simp only [State.pop, hprior, hq, hfresh, hpar, Bool.false_eq_true, if_false, if_true]
  rfl

theorem State.pop_fresh (hq : s.here.queueOf (s.ix.eng == .c) q = e :: rest) (hfresh : e.fresh = true) (keep : Bool) :
    s.pop q keep = .error .block := by
  simp only [State.pop, hprior, hq, hfresh, if_true]

theorem State.trapsWith_pop_parity (hq : s.here.queueOf (s.ix.eng == .c) q = e :: rest) (hfresh : e.fresh = false)
    (hpar : e.parityOk = false) (keep : Bool) : TrapsWith 0x70 (s.pop q keep) := by
  simp only [State.pop, hprior, hq, hfresh, hpar, Bool.false_eq_true, if_false]
  exact trapsWith_trapWith _ _ _

theorem State.pop_empty (hq : s.here.queueOf (s.ix.eng == .c) q = [])
    (hrun : s.here.isDone (if s.ix.eng == .c then .l else .c) = false) (keep : Bool) : s.pop q keep = .error .block := by
  simp only [State.pop, hprior, hq, hrun, Bool.false_eq_true, if_false]

theorem State.trapsWith_pop_done (hq : s.here.queueOf (s.ix.eng == .c) q = [])
    (hdone : s.here.isDone (if s.ix.eng == .c then .l else .c) = true) (keep : Bool) : TrapsWith 0x37 (s.pop q keep) := by
  simp only [State.pop, hprior, hq, hdone, if_true]
  exact trapsWith_trapWith _ _ _

end

section
variable {s : State} {d : BitVec 6} {q : BitVec 2} {w : BitVec 4} {k : BitVec 1}

theorem execQget_gets {e : QEntry} (h : s.pop q (k == 1) = .ok (e, s.popped q (k == 1))) :
    WritesG (s.popped q (k == 1)) d ⟨e.data.bits.extractLsb' (64 * w.toNat) 64,
      e.data.psn.getLsbD (2 * w.toNat) || e.data.psn.getLsbD (2 * w.toNat + 1)⟩ (execQget d q w k s) := by
  rw [execQget, h]
  exact writesG _ _ _

theorem execQgetv_gets {e : QEntry} (h : s.pop q (k == 1) = .ok (e, s.popped q (k == 1))) :
    execQgetv d q k s = .next ((s.popped q (k == 1)).setV d e.data) := by
  rw [execQgetv, h]
  rfl

/-- A head that is not there yet blocks both readers (R169). -/
theorem blocks_pop (h : s.pop q (k == 1) = .error .block) : Blocks s (execQget d q w k s) ∧ Blocks s (execQgetv d q k s) := by
  rw [execQget, execQgetv, h]
  exact ⟨rfl, rfl⟩

/-- A trap of the pop is taken by both readers. -/
theorem traps_pop {c : Byte} (h : TrapsWith c (s.pop q (k == 1))) : Traps s c (execQget d q w k s) ∧ Traps s c (execQgetv d q k s) :=
  ⟨(h.bind _).traps s, (h.bind _).traps s⟩

end

/-! ### Branch outcomes -/

section
variable {s : State} {a b : BitVec 6} {cnd : BitVec 4} (hprior : s.herePrior = s.here)
include hprior

theorem execPushbq_clean (ha : (s.g a).psn = false) (hb : (s.g b).psn = false) : execPushbq cnd a b s = settle s (do
    trapIf (decide (64 ≤ s.here.bq.length) && s.here.isDone .c) 0x37 0 (queueDetail 2 0)
    blockUnless (!decide (64 ≤ s.here.bq.length))
    .ok (s.onHere (fun k => { k with bq := k.bq ++ [{ bit := condHolds cnd (s.g a).bits (s.g b).bits, fresh := true }] }))) := by
  rw [execPushbq, hprior, State.gUse_ok ha, State.gUse_ok hb]
  rfl

theorem becomes_execPushbq (ha : (s.g a).psn = false) (hb : (s.g b).psn = false) (hroom : s.here.bq.length < 64) :
    Becomes s { s.here with bq := s.here.bq ++ [⟨condHolds cnd (s.g a).bits (s.g b).bits, true, true⟩] } (execPushbq cnd a b s) := by
  have hfree : decide (64 ≤ s.here.bq.length) = false := decide_eq_false (Nat.not_le.mpr hroom)
  rw [execPushbq_clean hprior ha hb, hfree]
  exact becomes_onHere s _

theorem blocks_execPushbq (ha : (s.g a).psn = false) (hb : (s.g b).psn = false) (hfull : 64 ≤ s.here.bq.length)
    (hrun : s.here.isDone .c = false) : Blocks s (execPushbq cnd a b s) := by
  rw [execPushbq_clean hprior ha hb, decide_eq_true hfull, hrun]
  exact blocks_settle s

theorem traps_execPushbq (ha : (s.g a).psn = false) (hb : (s.g b).psn = false) (hfull : 64 ≤ s.here.bq.length)
    (hdone : s.here.isDone .c = true) : Traps s 0x37 (execPushbq cnd a b s) := by
  rw [execPushbq_clean hprior ha hb, decide_eq_true hfull, hdone]
  exact ((trapsWith_trapIf rfl _ _ _).bind _).traps s

variable {v : BEntry} {rest : List BEntry} (n : BitVec 1) (disp : BitVec 32)

/-- An outcome that stands at the head is removed, and the branch is taken where it differs from N (R172). -/
theorem execBrq_pops (hq : s.here.bq = v :: rest) (hfresh : v.fresh = false) (hpar : v.parityOk = true) :
    ∃ t, Becomes s { s.here with bq := rest } (.next t) ∧ t.ix = s.ix
      ∧ execBrq disp n s = .next (if v.bit = decide (n = 1) then t else t.goRel disp) := by
  refine ⟨s.onHere (fun k => { k with bq := k.bq.tail }), (becomes_onHere s _).congr (by rw [hq]; rfl), rfl, ?_⟩
  have hn : (n == 1) = decide (n = 1) := rfl
  simp only [execBrq, hprior, hq, hfresh, hpar, hn, Bool.not_true, Bool.false_eq_true, if_false, settle_done, bne_iff_ne, ne_eq, ite_not]

theorem traps_execBrq_parity (hq : s.here.bq = v :: rest) (hfresh : v.fresh = false) (hpar : v.parityOk = false) :
    Traps s 0x70 (execBrq disp n s) := by
  simp only [execBrq, hprior, hq, hfresh, hpar, Bool.not_false, Bool.false_eq_true, if_false, if_true]
  exact traps_settle _ _ _ _

theorem blocks_execBrq_fresh (hq : s.here.bq = v :: rest) (hfresh : v.fresh = true) : Blocks s (execBrq disp n s) := by
  simp only [execBrq, hprior, hq, hfresh, if_true]
  exact blocks_settle s

theorem blocks_execBrq_empty (hq : s.here.bq = []) (hrun : s.here.isDone .l = false) : Blocks s (execBrq disp n s) := by
  simp only [execBrq, hprior, hq, hrun, Bool.false_eq_true, if_false]
  exact blocks_settle s

theorem traps_execBrq_done (hq : s.here.bq = []) (hdone : s.here.isDone .l = true) : Traps s 0x37 (execBrq disp n s) := by
  simp only [execBrq, hprior, hq, hdone, if_true]
  exact traps_settle _ _ _ _

end

/-- Settles O21: a push and a pop by what the queue holds, a pushed and a popped outcome likewise. -/
theorem queueTransfers : Obligations.QueueTransfers := by
  unfold Obligations.QueueTransfers
  intro s d a b q w cnd k n disp toC fromL out inn x y left holds hprior
  simp only [exec_qput, exec_qputv, exec_qget, exec_qgetv, exec_pushbq, exec_brq]
  refine ⟨fun hroom => ⟨?put, becomes_push hprior hroom _⟩,
    fun hfull hrun => ⟨blocks_push hprior hfull hrun _, blocks_push hprior hfull hrun _⟩,
    fun hfull hdone => ⟨traps_push hprior hfull hdone _, traps_push hprior hfull hdone _⟩,
    fun e rest hq hfresh hpar => ?pop, fun e rest hq hfresh hpar => traps_pop (State.trapsWith_pop_parity hprior hq hfresh hpar _),
    fun e rest hq hfresh => blocks_pop (State.pop_fresh hprior hq hfresh _),
    fun hq hrun => blocks_pop (State.pop_empty hprior hq hrun _),
    fun hq hdone => traps_pop (State.trapsWith_pop_done hprior hq hdone _), fun ha hb hcnd hroom => ?pushbq,
    fun ha hb hfull hrun => blocks_execPushbq hprior ha hb hfull hrun, fun ha hb hfull hdone => traps_execPushbq hprior ha hb hfull hdone,
    fun ha => ⟨traps_gUse ha _, traps_gUse_snd ha _⟩,
    fun v rest hq => ⟨fun hfresh hpar hne => ?goes, fun hfresh hpar heq => ?falls, traps_execBrq_parity hprior n disp hq,
      blocks_execBrq_fresh hprior n disp hq⟩, blocks_execBrq_empty hprior n disp, traps_execBrq_done hprior n disp⟩
  case put =>
    rw [BitVec.ofNat_toNat]
    exact becomes_push hprior hroom _
  case pop =>
    have hpop := State.pop_head hprior hq hfresh hpar (k == 1)
    have hleft : Becomes s (left rest) (.next (s.popped q (k == 1))) := becomes_popped hq k
    refine ⟨⟨_, hleft, execQget_gets hpop⟩, _, _, hleft, execQgetv_gets hpop, State.setV_onlyV _ _ _, ?_, fun r hr => ?_⟩
    · rw [State.v_setV, if_pos rfl]
    · rw [State.v_setV, if_neg hr, State.v_popped]
  case pushbq => exact ⟨_, condHolds_iff hcnd x y, becomes_execPushbq hprior ha hb hroom⟩
  case goes =>
    obtain ⟨t, ht, hix, hexec⟩ := execBrq_pops hprior n disp hq hfresh hpar
    rw [hexec, if_neg hne]
    exact becomesAndJumps_goRel ht hix disp
  case falls =>
    obtain ⟨t, ht, -, hexec⟩ := execBrq_pops hprior n disp hq hfresh hpar
    rw [hexec, if_pos heq]
    exact ht

end Sys2Proof.Machine
end


section
/-! SUPPORT. What writes of the C engine's own files leave of the issuing core, one write after another. -/

namespace Sys2Proof.Machine

section
variable {s t u : State}

theorem State.OnlyCore.ix (h : s.OnlyCore t) : t.ix = s.ix := by rw [h.1]

theorem State.OnlyCore.trans (h : s.OnlyCore t) (h' : t.OnlyCore u) : s.OnlyCore u := by
  obtain ⟨heq, hother⟩ := h
  obtain ⟨heq', hother'⟩ := h'
  have hix : t.ix = s.ix := by rw [heq]
  exact ⟨by rw [heq', heq], fun co hco => (hother' co (by rwa [hix])).trans (hother co hco)⟩

theorem State.OnlyCu.me (h : s.OnlyCu t) : t.me = s.me := by
  rw [State.me, h.2, h.1.ix]
  cases he : s.ix.eng <;> simp [State.me, Core.eng, he]

theorem State.OnlyCu.g (h : s.OnlyCu t) (r : BitVec 6) : t.g r = s.g r := by rw [State.g, State.g, h.me]

theorem State.OnlyV.m (h : s.OnlyV t) (r : BitVec 3) : t.m r = s.m r := by rw [State.m, State.m, h.2]

theorem State.OnlyV.dq (h : s.OnlyV t) : t.here.cu.dq = s.here.cu.dq := by rw [h.2]

theorem State.OnlyM.v (h : s.OnlyM t) (r : BitVec 6) : t.v r = s.v r := by rw [State.v, State.v, h.2]

theorem State.OnlyM.dq (h : s.OnlyM t) : t.here.cu.dq = s.here.cu.dq := by rw [h.2]

end

theorem State.cu_setG (s : State) (d : BitVec 6) (x : GReg) : (s.setG d x).here.cu = s.here.cu := by
  rw [(s.setG_onlyG d x).1.2, Core.setEng_cu]

theorem State.m_setG (s : State) (d : BitVec 6) (x : GReg) (r : BitVec 3) : (s.setG d x).m r = s.m r := by
  rw [State.m, State.m, State.cu_setG]

theorem State.v_setG (s : State) (d : BitVec 6) (x : GReg) (r : BitVec 6) : (s.setG d x).v r = s.v r := by
  rw [State.v, State.v, State.cu_setG]

/-! ### Consecutive vectors -/

/-- `n` vectors from v`b` on take what `f` gives. -/
def State.putVecs (s : State) (b : BitVec 6) (f : Nat → VReg) (n : Nat) : State :=
  (List.range n).foldl (fun t i => t.setV (b + BitVec.ofNat 6 i) (f i)) s

section
variable (s : State) (b : BitVec 6) (f : Nat → VReg)

theorem State.putVecs_succ (n : Nat) : s.putVecs b f (n + 1) = (s.putVecs b f n).setV (b + BitVec.ofNat 6 n) (f n) := by
  rw [State.putVecs, List.range_succ, List.foldl_append]
  rfl

theorem State.putVecs_onlyV (n : Nat) : s.OnlyV (s.putVecs b f n) := by
  induction n with
  | zero => exact s.onlyV_refl
  | succ n ih =>
    rw [State.putVecs_succ]
    exact ih.trans (State.setV_onlyV _ _ _)

theorem State.v_putVecs {n : Nat} (hn : b.toNat + n ≤ 64) {i : Nat} (hi : i < n) : (s.putVecs b f n).v (b + BitVec.ofNat 6 i) = f i := by
  induction n with
  | zero => exact absurd hi (Nat.not_lt_zero i)
  | succ n ih =>
    rw [State.putVecs_succ, State.v_setV]
    by_cases h : i = n
    · subst h
      rw [if_pos rfl]
    · have hne : ¬b + BitVec.ofNat 6 i = b + BitVec.ofNat 6 n := fun heq => h (by bv_omega)
      rw [if_neg hne, ih (by omega) (by omega)]

theorem State.v_putVecs_other {n : Nat} (hn : b.toNat + n ≤ 64) {r : BitVec 6} (hr : r.toNat < b.toNat ∨ b.toNat + n ≤ r.toNat) :
    (s.putVecs b f n).v r = s.v r := by
  induction n with
  | zero => rfl
  | succ n ih =>
    have hne : ¬r = b + BitVec.ofNat 6 n := fun heq => by bv_omega
    rw [State.putVecs_succ, State.v_setV, if_neg hne, ih (by omega) (by omega)]

end

end Sys2Proof.Machine
end

section
/-! SUPPORT. The deferral queue: the entries of a tag taken off it, what a drain writes from them (R179-R181, log entry 10). -/

namespace Sys2Proof.Machine

/-! ### Appending -/

theorem popCount_eq_length (m : Lane) : popCount m 32 = ((List.range 32).filter (fun l => m.getLsbD l)).length := by
  rw [popCount_eq_countP, List.countP_eq_length_filter]

/-! ### Taking a tag's entries -/

section
variable (t : BitVec 2) (n : Nat) (q : List DqEntry)

/-- The entries taken are the oldest of the tag (R181). -/
theorem takeTag_taken : (takeTag t n q).1 = (q.filter (fun e => e.tag = t)).take n := by
  induction q generalizing n with
  | nil => simp [takeTag]
  | cons e q ih =>
    cases n with
    | zero => simp [takeTag]
    | succ n => by_cases h : e.tag = t <;> simp [takeTag, h, ih]

/-- The tag's entries that stay are those behind the ones taken (R181). -/
theorem takeTag_left : (takeTag t n q).2.filter (fun e => e.tag = t) = (q.filter (fun e => e.tag = t)).drop n := by
  induction q generalizing n with
  | nil => simp [takeTag]
  | cons e q ih =>
    cases n with
    | zero => simp [takeTag]
    | succ n => by_cases h : e.tag = t <;> simp [takeTag, h, ih]

/-- Entries of other tags stay in their order (R181). -/
theorem takeTag_others : (takeTag t n q).2.filter (fun e => e.tag ≠ t) = q.filter (fun e => e.tag ≠ t) := by
  induction q generalizing n with
  | nil => simp [takeTag]
  | cons e q ih =>
    cases n with
    | zero => simp [takeTag]
    | succ n => by_cases h : e.tag = t <;> simpa [takeTag, h] using ih _

end

/-! ### What a drain writes -/

/-- Value `i` of entry `j` of those taken, with its poison; 0 without one (R181). -/
def drainVal (es : List DqEntry) (j i : Nat) : Lane × Bool := ((es[j]?).bind (fun e => e.vals[i]?)).getD (0, false)

theorem drainVal_eq (es : List DqEntry) (j i : Nat) : drainVal es j i = (es.getD j ⟨0, 0, []⟩).vals.getD i (0, false) := by
  rw [drainVal, List.getD_eq_getElem?_getD, List.getD_eq_getElem?_getD]
  cases es[j]? <;> rfl

theorem drainVal_past {es : List DqEntry} {j : Nat} (h : es.length ≤ j) (i : Nat) : drainVal es j i = (0, false) := by
  rw [drainVal, List.getElem?_eq_none h]
  rfl

/-- Vector `i` of the four that a drain writes (R181). -/
def drainVec (es : List DqEntry) (i : Nat) : VReg :=
  { bits := lanesOf (fun j => (drainVal es j i).1), psn := bitsOf (fun j => (drainVal es j i).2) }

theorem drainVec_lane (es : List DqEntry) (i : Nat) {l : Nat} (hl : l < 32) :
    ((drainVec es i).lane l, (drainVec es i).psn.getLsbD l) = drainVal es l i :=
  Prod.ext (lane_lanesOf _ _ _ _ hl) (getLsbD_bitsOf _ _ hl)

/-- The state after a drain that took `es` and left `rest`, but for its transfer (R181). -/
def State.drained (s : State) (a vb : BitVec 6) (es rest : List DqEntry) : State :=
  (((s.onCu (fun u => { u with dq := rest })).putVecs vb (drainVec es) 4).setM 7 (bitsOf (fun j => decide (j < es.length)))).setG a
    ⟨BitVec.ofNat 64 es.length, false⟩

theorem execDrain_eq (a vb : BitVec 6) (disp : BitVec 32) (tag : BitVec 2) (s : State) :
    let r := takeTag tag 32 s.here.cu.dq
    execDrain a vb disp tag s =
      .next (if 0 < r.1.length then (s.drained a vb r.1 r.2).goRel disp else s.drained a vb r.1 r.2) := rfl

section
variable (s : State) (a vb : BitVec 6) (es rest : List DqEntry)

/-- The queue is left shorter, before any register is written. -/
theorem State.putVecs_dequeued_onlyV : (s.onCu (fun u => { u with dq := rest })).OnlyV
    ((s.onCu (fun u => { u with dq := rest })).putVecs vb (drainVec es) 4) := State.putVecs_onlyV _ _ _ _

theorem State.drained_onlyCore : s.OnlyCore (s.drained a vb es rest) :=
  ((s.onCu_onlyCu _).1.trans (s.putVecs_dequeued_onlyV vb es rest).1.1).trans
    ((State.setM_onlyM _ _ _).1.1.trans (State.setG_onlyG _ _ _).1.1)

theorem State.dq_drained : (s.drained a vb es rest).here.cu.dq = rest := by
  rw [State.drained, State.cu_setG, (State.setM_onlyM _ _ _).dq, (s.putVecs_dequeued_onlyV vb es rest).dq, State.cu_onCu]

theorem State.g_drained (r : BitVec 6) :
    (s.drained a vb es rest).g r = if r = a ∧ a ≠ 0 then ⟨BitVec.ofNat 64 es.length, false⟩ else s.g r := by
  rw [State.drained, State.g_setG, (State.setM_onlyM _ _ _).1.g, (s.putVecs_dequeued_onlyV vb es rest).1.g, (s.onCu_onlyCu _).g]

theorem State.m_drained (r : BitVec 3) :
    (s.drained a vb es rest).m r = if r = 7 then bitsOf (fun j => decide (j < es.length)) else s.m r := by
  have hm : (s.onCu (fun u => { u with dq := rest })).m r = s.m r := by rw [State.m, State.m, State.cu_onCu]
  rw [State.drained, State.m_setG, State.m_setM, (s.putVecs_dequeued_onlyV vb es rest).m, hm]
  simp

theorem State.v_drained (hvb : vb.toNat ≤ 60) {i : Nat} (hi : i < 4) :
    (s.drained a vb es rest).v (vb + BitVec.ofNat 6 i) = drainVec es i := by
  rw [State.drained, State.v_setG, (State.setM_onlyM _ _ _).v, State.v_putVecs _ _ _ (by omega) hi]

theorem State.v_drained_other (hvb : vb.toNat ≤ 60) {r : BitVec 6} (hr : r.toNat < vb.toNat ∨ vb.toNat + 4 ≤ r.toNat) :
    (s.drained a vb es rest).v r = s.v r := by
  rw [State.drained, State.v_setG, (State.setM_onlyM _ _ _).v, State.v_putVecs_other _ _ _ (by omega) hr, State.v, State.cu_onCu]
  rfl

end

/-- Settles O23: `takeTag` splits the queue by tag and age, and `drained` says what is written. That a drain sees the entries which
earlier slots of its own group deferred is the model's choice (log entry 10). -/
theorem deferralQueue : Obligations.DeferralQueue := by
  unfold Obligations.DeferralQueue
  intro s a va vb mk c tag disp q lanes put mine n val
  simp only [exec_defer, exec_drain]
  have htaken : (takeTag tag 32 q).1 = mine := takeTag_taken tag 32 q
  let rest := (takeTag tag 32 q).2
  let u := s.drained a vb mine rest
  refine ⟨fun hroom => ?appends, fun hfull => ?full, if 0 < n then u.goRel disp else u, u, rest, ?drain, ?goes,
    s.drained_onlyCore a vb mine _, s.dq_drained a vb mine _, takeTag_others tag 32 q, takeTag_left tag 32 q,
    s.g_drained a vb mine _, fun l hl => ?mask, fun r hr => ?masks, fun hvb => ⟨fun i l hi hl => ?vec,
      fun r hr => s.v_drained_other a vb mine _ hvb hr⟩⟩
  case appends =>
    have hfits : decide (q.length + popCount (s.m mk) 32 > 256) = false := by
      rw [popCount_eq_length]
      exact decide_eq_false (Nat.not_lt.mpr hroom)
    simp only [execDefer]
    rw [trapIf_false hfits]
    exact becomes_onCu s (fun u => { u with dq := u.dq ++ put })
  case full =>
    have hover : decide (q.length + popCount (s.m mk) 32 > 256) = true := by
      rw [popCount_eq_length]
      exact decide_eq_true hfull
    simp only [execDefer]
    rw [trapIf_true hover]
    exact traps_settle_bind _ _ _ _ _
  case drain => rw [execDrain_eq, htaken]
  case goes =>
    by_cases h : n = 0
    · rw [if_pos h, if_neg (by omega)]
    · rw [if_neg h, if_pos (by omega)]
      exact jumps_goRel (s.drained_onlyCore a vb mine _).ix disp
  case mask => rw [State.m_drained, if_pos rfl, getLsbD_bitsOf _ _ hl]
  case masks => rw [State.m_drained, if_neg hr]
  case vec =>
    rw [State.v_drained _ _ _ _ _ hvb hi, drainVec_lane _ _ hl]
    refine ⟨?_, rfl⟩
    split
    · exact drainVal_eq mine l i
    · exact drainVal_past (by omega) i

end Sys2Proof.Machine
end


section
/-! SUPPORT. Loop nests: a record's order is a permutation of its loops, a step of the indices, the registers generated from them
(R177, R178). -/

namespace Sys2Proof.Machine

/-! ### Consecutive scalar registers -/

/-- `n` scalar registers from g`b` on take what `f` gives. -/
def State.putRegs (s : State) (b : Nat) (f : Nat → GReg) (n : Nat) : State :=
  (List.range n).foldl (fun t j => t.setG (BitVec.ofNat 6 (b + j)) (f j)) s

section
variable (s : State) {b : Nat} (f : Nat → GReg) {n : Nat}

theorem State.putRegs_succ (b n : Nat) : s.putRegs b f (n + 1) = (s.putRegs b f n).setG (BitVec.ofNat 6 (b + n)) (f n) := by
  rw [State.putRegs, List.range_succ, List.foldl_append]
  rfl

theorem State.putRegs_onlyCore (b n : Nat) : s.OnlyCore (s.putRegs b f n) := by
  induction n with
  | zero => exact s.onlyCore_refl
  | succ n ih =>
    rw [State.putRegs_succ]
    exact ih.trans (State.setG_onlyG _ _ _).1.1

theorem State.cu_putRegs (b n : Nat) : (s.putRegs b f n).here.cu = s.here.cu :=
  foldl_keeps (fun t => t.here.cu) (fun t _ => t.cu_setG _ _) _ s

theorem State.g_putRegs (hb : 0 < b) (hn : b + n ≤ 64) {i : Nat} (hi : i < n) : (s.putRegs b f n).g (BitVec.ofNat 6 (b + i)) = f i := by
  induction n with
  | zero => exact absurd hi (Nat.not_lt_zero i)
  | succ n ih =>
    rw [State.putRegs_succ, State.g_setG]
    by_cases h : i = n
    · subst h
      exact if_pos ⟨rfl, by bv_omega⟩
    · have hne : BitVec.ofNat 6 (b + i) ≠ BitVec.ofNat 6 (b + n) := fun heq => h (by bv_omega)
      rw [if_neg fun hc => hne hc.1, ih (by omega) (by omega)]

theorem State.g_putRegs_other (hn : b + n ≤ 64) {r : BitVec 6} (hr : r.toNat < b ∨ b + n ≤ r.toNat) : (s.putRegs b f n).g r = s.g r := by
  induction n with
  | zero => rfl
  | succ n ih =>
    have hne : r ≠ BitVec.ofNat 6 (b + n) := fun heq => by bv_omega
    rw [State.putRegs_succ, State.g_setG, if_neg fun hc => hne hc.1, ih (by omega) (by omega)]

end

/-! ### The generated registers -/

/-- The index of a loop. -/
def idxAt (idx : Vector (BitVec 16) 6) (l : Nat) : Nat := (idx.toList.getD l 0).toNat

theorem idxAt_eq (idx : Vector (BitVec 16) 6) {l : Nat} (hl : l < 6) : idxAt idx l = (idx[l]).toNat := by
  simp [idxAt, hl]

theorem idxAt_past (idx : Vector (BitVec 16) 6) {l : Nat} (hl : ¬l < 6) : idxAt idx l = 0 := by
  simp [idxAt, hl]

/-- A nest is bound with every index 0 (R178). -/
theorem idxAt_zero : idxAt (Vector.replicate 6 0) = fun _ => 0 := by
  funext l
  by_cases hl : l < 6
  · rw [idxAt_eq _ hl, Vector.getElem_replicate]
    rfl
  · exact idxAt_past _ hl

theorem idxAt_set (idx : Vector (BitVec 16) 6) {l : Nat} (hl : l < 6) (x : BitVec 16) (m : Nat) :
    idxAt (idx.set l x hl) m = if m = l then x.toNat else idxAt idx m := by
  by_cases h : m = l
  · subst h; simp [idxAt, hl]
  · simp [idxAt, List.getD_eq_getElem?_getD, h, Ne.symm h]

/-- The offset generated from a base and six strides of the record (R178). -/
def nestOffset (r : BitVec 512) (i : Nat → Nat) (base strides : Nat) : Int :=
  nestField r base 4 + ((List.range 6).map (fun l => (i l : Int) * nestStride r strides l)).sum

theorem nestOffset_congr (r : BitVec 512) {i j : Nat → Nat} (h : ∀ l, l < 6 → i l = j l) (base strides : Nat) :
    nestOffset r i base strides = nestOffset r j base strides := by
  rw [nestOffset, nestOffset, List.map_congr_left fun l hl => by rw [h l (List.mem_range.mp hl)]]

/-- With every index 0 the offset is the base. -/
theorem nestOffset_zero (r : BitVec 512) (base strides : Nat) : nestOffset r (fun _ => 0) base strides = nestField r base 4 := by
  simp [nestOffset]

theorem State.nestRegs_eq (s : State) (n : Nest) :
    s.nestRegs n = ((s.putRegs 50 (fun j => ⟨BitVec.ofNat 64 (idxAt n.idx j), false⟩) 6).setG 56
      ⟨BitVec.ofInt 64 (nestOffset n.record (idxAt n.idx) 24 28), false⟩).setG 57
      ⟨BitVec.ofInt 64 (nestOffset n.record (idxAt n.idx) 40 44), false⟩ := by
  have hidx (j : Nat) : (if h : j < 6 then (n.idx[j]).toNat else 0) = idxAt n.idx j := by
    by_cases h : j < 6
    · rw [dif_pos h, idxAt_eq n.idx h]
    · rw [dif_neg h, idxAt_past n.idx h]
  simp only [State.nestRegs, hidx, nestOffset, List.sum_eq_foldl, List.foldl_map]
  rfl

section
variable (s : State) (n : Nest)

theorem State.nestRegs_onlyCore : s.OnlyCore (s.nestRegs n) := by
  rw [State.nestRegs_eq]
  exact ((s.putRegs_onlyCore _ _ _).trans (State.setG_onlyG _ _ _).1.1).trans (State.setG_onlyG _ _ _).1.1

theorem State.cu_nestRegs : (s.nestRegs n).here.cu = s.here.cu := by
  rw [State.nestRegs_eq, State.cu_setG, State.cu_setG, State.cu_putRegs]

theorem State.g_nestRegs_idx {j : Nat} (hj : j < 6) :
    (s.nestRegs n).g (BitVec.ofNat 6 (50 + j)) = ⟨BitVec.ofNat 64 (idxAt n.idx j), false⟩ := by
  have h56 : BitVec.ofNat 6 (50 + j) ≠ 56 := by bv_omega
  have h57 : BitVec.ofNat 6 (50 + j) ≠ 57 := by bv_omega
  rw [State.nestRegs_eq, State.g_setG, if_neg fun h => h57 h.1, State.g_setG, if_neg fun h => h56 h.1,
    State.g_putRegs _ _ (by decide) (by decide) hj]

theorem State.g_nestRegs_56 : (s.nestRegs n).g 56 = ⟨BitVec.ofInt 64 (nestOffset n.record (idxAt n.idx) 24 28), false⟩ := by
  rw [State.nestRegs_eq, State.g_setG, if_neg (by decide), State.g_setG, if_pos (by decide)]

theorem State.g_nestRegs_57 : (s.nestRegs n).g 57 = ⟨BitVec.ofInt 64 (nestOffset n.record (idxAt n.idx) 40 44), false⟩ := by
  rw [State.nestRegs_eq, State.g_setG, if_pos (by decide)]

theorem State.g_nestRegs_other {q : BitVec 6} (hq : q.toNat < 50 ∨ 58 ≤ q.toNat) : (s.nestRegs n).g q = s.g q := by
  have h56 : q ≠ 56 := fun h => by subst h; simp at hq
  have h57 : q ≠ 57 := fun h => by subst h; simp at hq
  rw [State.nestRegs_eq, State.g_setG, if_neg fun h => h57 h.1, State.g_setG, if_neg fun h => h56 h.1,
    State.g_putRegs_other _ _ (by decide) (by omega)]

end

/-! ### The order of a record -/

section
variable {r : BitVec 512} (hok : nestOk r = true)
include hok

theorem nestNl_le : nestNl r ≤ 6 := by
  simp only [nestOk, Bool.and_eq_true, decide_eq_true_eq] at hok
  omega

/-- The order of a record names each of its loops once (R177). -/
theorem perm_nestOrd : (List.range (nestNl r)).Perm ((List.range (nestNl r)).map (nestOrd r)) := by
  have hall : (List.range (nestNl r)).all (fun j => ((List.range (nestNl r)).map (nestOrd r)).contains j) = true := by
    simp only [nestOk, Bool.and_eq_true] at hok
    tauto
  refine (List.subperm_of_subset List.nodup_range fun j hj => ?_).perm_of_length_le (by simp)
  exact List.contains_iff_mem.mp (List.all_eq_true.mp hall j hj)

theorem nestOrd_lt {d : Nat} (hd : d < nestNl r) : nestOrd r d < nestNl r :=
  List.mem_range.mp ((perm_nestOrd hok).mem_iff.mpr (List.mem_map_of_mem (List.mem_range.mpr hd)))

theorem nestOrd_lt_six {d : Nat} (hd : d < nestNl r) : nestOrd r d < 6 := (nestOrd_lt hok hd).trans_le (nestNl_le hok)

theorem nestOrd_inj {d e : Nat} (hd : d < nestNl r) (he : e < nestNl r) (h : nestOrd r d = nestOrd r e) : d = e :=
  List.inj_on_of_nodup_map ((perm_nestOrd hok).nodup_iff.mp List.nodup_range) (List.mem_range.mpr hd) (List.mem_range.mpr he) h

/-! ### A step of the indices -/

/-- A loop that is not at its bound is raised (R178). -/
theorem nestStep_raises {d : Nat} (hd : d < nestNl r) {idx : Vector (BitVec 16) 6}
    (hlt : idxAt idx (nestOrd r d) + 1 < nestBound r (nestOrd r d)) :
    nestStep r (d + 1) idx =
      (idx.set (nestOrd r d) (BitVec.ofNat 16 (idxAt idx (nestOrd r d) + 1)) (nestOrd_lt_six hok hd), true) := by
  rw [idxAt_eq idx (nestOrd_lt_six hok hd)] at hlt ⊢
  rw [nestStep, dif_pos (nestOrd_lt_six hok hd)]
  exact if_pos hlt

/-- A loop at its bound returns to 0, and the next outer one is stepped (R178). -/
theorem nestStep_wraps {d : Nat} (hd : d < nestNl r) {idx : Vector (BitVec 16) 6}
    (hle : nestBound r (nestOrd r d) ≤ idxAt idx (nestOrd r d) + 1) :
    nestStep r (d + 1) idx = nestStep r d (idx.set (nestOrd r d) 0 (nestOrd_lt_six hok hd)) := by
  rw [idxAt_eq idx (nestOrd_lt_six hok hd)] at hle
  rw [nestStep, dif_pos (nestOrd_lt_six hok hd)]
  exact if_neg (Nat.not_lt.mpr hle)

/-- An outer loop keeps its index while a deeper one returns to 0. -/
theorem idxAt_set_deeper {d k : Nat} (hd : d < k) (hk : k < nestNl r) (idx : Vector (BitVec 16) 6) (x : BitVec 16) :
    idxAt (idx.set (nestOrd r k) x (nestOrd_lt_six hok hk)) (nestOrd r d) = idxAt idx (nestOrd r d) := by
  rw [idxAt_set, if_neg fun h => hd.ne (nestOrd_inj hok (hd.trans hk) hk h)]

omit hok in
/-- The indices after a step in which the loop at depth `d` of the `k` outer ones is the innermost that is not at its bound (R178). -/
def nestNext (r : BitVec 512) (k d : Nat) (i : Nat → Nat) (l : Nat) : Nat :=
  if l = nestOrd r d then i l + 1 else if ∃ e ∈ List.range k, d < e ∧ l = nestOrd r e then 0 else i l

theorem nestStep_goes {k d : Nat} (hk : k ≤ nestNl r) (hd : d < k) {idx : Vector (BitVec 16) 6}
    (hlt : idxAt idx (nestOrd r d) + 1 < nestBound r (nestOrd r d))
    (hat : ∀ e, d < e → e < k → nestBound r (nestOrd r e) ≤ idxAt idx (nestOrd r e) + 1) :
    ∃ idx', nestStep r k idx = (idx', true) ∧ ∀ l, idxAt idx' l = nestNext r k d (idxAt idx) l := by
  induction k generalizing idx with
  | zero => exact absurd hd (Nat.not_lt_zero d)
  | succ k ih =>
    rcases Nat.lt_succ_iff_lt_or_eq.mp hd with hdk | rfl
    · have hdeeper (e : Nat) (he : e < k) := idxAt_set_deeper hok he hk idx 0
      obtain ⟨idx', hstep, hval⟩ := ih (idx := idx.set (nestOrd r k) 0 (nestOrd_lt_six hok hk)) (by omega) hdk
        (by rwa [hdeeper d hdk]) (fun e hde hek => by rw [hdeeper e hek]; exact hat e hde (by omega))
      refine ⟨idx', (nestStep_wraps hok hk (hat k hdk k.lt_succ_self)).trans hstep, fun l => (hval l).trans ?_⟩
      simp only [nestNext, idxAt_set, List.mem_range]
      by_cases hl : l = nestOrd r d
      · subst hl
        rw [if_pos rfl, if_pos rfl, if_neg fun h => hdk.ne (nestOrd_inj hok (hdk.trans hk) hk h)]
      · rw [if_neg hl, if_neg hl]
        by_cases hlk : l = nestOrd r k
        · rw [if_pos hlk, if_pos (⟨k, k.lt_succ_self, hdk, hlk⟩ : ∃ e < k + 1, d < e ∧ l = nestOrd r e)]
          split <;> rfl
        · have hiff : (∃ e < k + 1, d < e ∧ l = nestOrd r e) ↔ ∃ e < k, d < e ∧ l = nestOrd r e :=
            ⟨fun ⟨e, hek, hde, hle⟩ => ⟨e, by have : e ≠ k := fun h => hlk (h ▸ hle); omega, hde, hle⟩,
              fun ⟨e, hek, h⟩ => ⟨e, by omega, h⟩⟩
          simp only [hlk, if_false, hiff]
    · refine ⟨_, nestStep_raises hok hk hlt, fun l => ?_⟩
      have hfit : idxAt idx (nestOrd r d) + 1 < 2 ^ 16 := hlt.trans (Nat.mod_lt _ (by decide))
      have hnone : ¬∃ e ∈ List.range (d + 1), d < e ∧ l = nestOrd r e := fun ⟨e, he, hde, _⟩ => by
        have := List.mem_range.mp he
        omega
      rw [idxAt_set, nestNext, if_neg hnone, BitVec.toNat_ofNat, Nat.mod_eq_of_lt hfit]
      by_cases hl : l = nestOrd r d
      · rw [if_pos hl, if_pos hl, hl]
      · rw [if_neg hl, if_neg hl]

/-- With every loop at its bound the nest ends (R178). -/
theorem nestStep_ends {k : Nat} (hk : k ≤ nestNl r) {idx : Vector (BitVec 16) 6}
    (hat : ∀ e, e < k → nestBound r (nestOrd r e) ≤ idxAt idx (nestOrd r e) + 1) : ∃ idx', nestStep r k idx = (idx', false) := by
  induction k generalizing idx with
  | zero => exact ⟨idx, rfl⟩
  | succ k ih =>
    rw [nestStep_wraps hok hk (hat k k.lt_succ_self)]
    exact ih (by omega) fun e he => by rw [idxAt_set_deeper hok he hk]; exact hat e (by omega)

end

/-! ### Binding and stepping -/

/-- A nest as it stands in the C engine's files, its registers generated from it (R178). -/
def State.bindNest (s : State) (n : Nest) : State := (s.onCu (fun u => { u with nest := n })).nestRegs n

/-- From `s` to `u` the nest becomes `n`, g50 to g57 are generated from it, and nothing else of the registers differs (R178). -/
structure State.BindsNest (s u : State) (n : Nest) : Prop where
  onlyCore : s.OnlyCore u
  nest : u.here.cu.nest = n
  idx : ∀ l, l < 6 → u.g (BitVec.ofNat 6 (50 + l)) = ⟨BitVec.ofNat 64 (idxAt n.idx l), false⟩
  g56 : u.g 56 = ⟨BitVec.ofInt 64 (nestOffset n.record (idxAt n.idx) 24 28), false⟩
  g57 : u.g 57 = ⟨BitVec.ofInt 64 (nestOffset n.record (idxAt n.idx) 40 44), false⟩
  other : ∀ q : BitVec 6, q.toNat < 50 ∨ 58 ≤ q.toNat → u.g q = s.g q

theorem State.bindsNest_bindNest (s : State) (n : Nest) : s.BindsNest (s.bindNest n) n where
  onlyCore := (s.onCu_onlyCu _).1.trans (State.nestRegs_onlyCore _ _)
  nest := by rw [State.bindNest, State.cu_nestRegs, State.cu_onCu]
  idx l hl := State.g_nestRegs_idx _ n hl
  g56 := State.g_nestRegs_56 _ n
  g57 := State.g_nestRegs_57 _ n
  other q hq := by rw [State.bindNest, State.g_nestRegs_other _ _ hq, (s.onCu_onlyCu _).g]

section
variable {s : State}

theorem execLnest_binds {cb : BitVec 4} {x : BitVec 6} {sc : BitVec 3} {off : BitVec 32} {a : Nat} (hmode : s.task.loopmode = true)
    (hreach : s.Reaches cb x sc off [1] pLd 64 16 a) (hmark : s.Unmarked a 64)
    (hok : nestOk (BitVec.ofNat 512 (s.toHw.num (localKey s.ix.co a) 64)) = true) :
    ∃ u, execLnest cb x sc off s = .next u
      ∧ s.BindsNest u { record := BitVec.ofNat 512 (s.toHw.num (localKey s.ix.co a) 64), active := true } := by
  refine ⟨_, ?_, s.bindsNest_bindNest _⟩
  obtain ⟨hpsn, hea, hallow, hin, halign⟩ := hreach
  rw [execLnest, trapIf_false (by rw [hmode]; rfl), ok_bind, State.mAddr_ok hpsn, ok_bind, hea, checkOwn_ok hallow (by decide) hin,
    ok_bind, trapIf_false (by simp [halign]), ok_bind, State.checkMark_ok hmark, ok_bind]
  simp only [hok, Bool.not_true, trapIf_false, ok_bind, settle_done, State.bindNest]

theorem execLoopNest_goes {idx : Vector (BitVec 16) 6} (hact : s.here.cu.nest.active = true)
    (hstep : nestStep s.here.cu.nest.record (nestNl s.here.cu.nest.record) s.here.cu.nest.idx = (idx, true)) (disp : BitVec 32) :
    ∃ u, execLoopNest disp s = .next (u.goRel disp) ∧ s.BindsNest u { s.here.cu.nest with idx := idx } := by
  refine ⟨_, ?_, s.bindsNest_bindNest _⟩
  simp only [execLoopNest, hact, hstep, Bool.not_true, trapIf_false, ok_bind, if_true, settle_done, State.bindNest]

theorem execLoopNest_ends {idx : Vector (BitVec 16) 6} (hact : s.here.cu.nest.active = true)
    (hstep : nestStep s.here.cu.nest.record (nestNl s.here.cu.nest.record) s.here.cu.nest.idx = (idx, false)) (disp : BitVec 32) :
    execLoopNest disp s = .next (s.onCu (fun u => { u with nest := { s.here.cu.nest with idx := idx, active := false } })) := by
  simp only [execLoopNest, hact, hstep, Bool.not_true, trapIf_false, ok_bind, Bool.false_eq_true, if_false, settle_done]

theorem traps_execLoopNest (hact : s.here.cu.nest.active = false) (disp : BitVec 32) : Traps s 0x37 (execLoopNest disp s) := by
  simp only [execLoopNest, hact]
  exact ((trapsWith_trapIf rfl _ _ _).bind _).traps s

end

/-- Settles O20: a bound nest has its registers, and the walk of `nestStep` from the innermost loop outwards meets the first that is
not at its bound. -/
theorem loopNests : Obligations.LoopNests := by
  unfold Obligations.LoopNests
  refine ⟨?bind, ?step, fun s disp hact => traps_execLoopNest hact disp⟩
  case bind =>
    intro s cb x sc off a r hmode hreach hmark hok
    obtain ⟨u, hexec, hu⟩ := execLnest_binds hmode hreach hmark hok
    have hoff (base strides : Nat) : nestOffset r (idxAt (Vector.replicate 6 0)) base strides = nestField r base 4 := by
      rw [idxAt_zero, nestOffset_zero]
    refine ⟨u, hexec, hu.onlyCore, hu.nest, fun j hj => (hu.idx j hj).trans ?_, hu.g56.trans ?_, hu.g57.trans ?_, hu.other⟩
    · rw [idxAt_zero]
      rfl
    · rw [hoff, BitVec.ofInt_natCast]
    · rw [hoff, BitVec.ofInt_natCast]
  case step =>
    intro s disp n nl i atBound hact hok
    refine ⟨?goes, fun hall => ?ends⟩
    case goes =>
      intro d hd hnot hall j
      obtain ⟨idx, hstep, hidx⟩ := nestStep_goes hok le_rfl hd (Nat.not_le.mp hnot) hall
      obtain ⟨u, hexec, hu⟩ := execLoopNest_goes hact hstep disp
      have hoff := nestOffset_congr n.record fun l _ => hidx l
      have hrecord : u.here.cu.nest.record = n.record := by rw [hu.nest]
      have hactive : u.here.cu.nest.active = n.active := by rw [hu.nest]
      refine ⟨u.goRel disp, u, hexec, jumps_goRel hu.onlyCore.ix disp, hu.onlyCore, hactive.trans hact, hrecord,
        fun l hl => ⟨?_, ?_⟩, ?_, ?_, hu.other⟩
      · exact (congrArg (fun z : Nest => idxAt z.idx l) hu.nest).trans (hidx l)
      · refine (hu.idx l hl).trans ?_
        rw [hidx l]
        rfl
      · exact hu.g56.trans (by rw [hoff]; rfl)
      · exact hu.g57.trans (by rw [hoff]; rfl)
    case ends =>
      obtain ⟨idx, hstep⟩ := nestStep_ends hok le_rfl hall
      exact ⟨_, execLoopNest_ends hact hstep disp, s.onCu_onlyCu _, by rw [State.cu_onCu]⟩

end Sys2Proof.Machine
end

section
/-! SUPPORT. Bit vectors as numbers, for any width: sums, products, shifts, rotations and extensions of R186 and R198. -/

namespace Sys2Proof.Machine

/-! ### Results read off the numbers -/

section
variable {w : Nat} (x y : BitVec w)

theorem ofNat_toNat_add : BitVec.ofNat w (x.toNat + y.toNat) = x + y := by
  rw [BitVec.ofNat_add, BitVec.ofNat_toNat, BitVec.ofNat_toNat, BitVec.setWidth_eq, BitVec.setWidth_eq]

theorem ofNat_toNat_mul : BitVec.ofNat w (x.toNat * y.toNat) = x * y := by
  rw [BitVec.ofNat_mul, BitVec.ofNat_toNat, BitVec.ofNat_toNat, BitVec.setWidth_eq, BitVec.setWidth_eq]

theorem ofInt_toInt_sub : BitVec.ofInt w (x.toInt - y.toInt) = x - y :=
  BitVec.eq_of_toInt_eq (by rw [BitVec.toInt_ofInt, BitVec.toInt_sub])

theorem ofNat_toNat_shiftLeft (n : Nat) : BitVec.ofNat w (x.toNat * 2 ^ n) = x <<< n :=
  BitVec.eq_of_toNat_eq (by rw [BitVec.toNat_ofNat, BitVec.toNat_shiftLeft, Nat.shiftLeft_eq])

theorem ofNat_toNat_shiftRight (n : Nat) : BitVec.ofNat w (x.toNat / 2 ^ n) = x >>> n := by
  rw [← Nat.shiftRight_eq_div_pow, ← BitVec.toNat_ushiftRight, BitVec.ofNat_toNat, BitVec.setWidth_eq]

theorem ofInt_toInt_shiftRight (n : Nat) : BitVec.ofInt w (x.toInt / 2 ^ n) = x.sshiftRight n := by
  rw [BitVec.sshiftRight_eq, Int.shiftRight_eq_div_pow]
  norm_cast

/-- A rotation is the bits that stay below the top and those that come in at the bottom (R186). -/
theorem ofNat_toNat_rotateLeft {n : Nat} (hn : n < w) :
    BitVec.ofNat w (x.toNat * 2 ^ n + x.toNat / 2 ^ (w - n)) = x.rotateLeft n := by
  have hw : 2 ^ w = 2 ^ (w - n) * 2 ^ n := by rw [← Nat.pow_add, Nat.sub_add_cancel hn.le]
  have hin : x.toNat / 2 ^ (w - n) < 2 ^ n := Nat.div_lt_of_lt_mul (hw ▸ x.isLt)
  have hstay : x.toNat * 2 ^ n % 2 ^ w = (x.toNat % 2 ^ (w - n)) <<< n := by rw [hw, Nat.mul_mod_mul_right, Nat.shiftLeft_eq]
  have hsum : (x.toNat % 2 ^ (w - n)) <<< n + x.toNat / 2 ^ (w - n) < 2 ^ w := by
    have hlt : x.toNat % 2 ^ (w - n) + 1 ≤ 2 ^ (w - n) := Nat.mod_lt _ (Nat.two_pow_pos _)
    rw [Nat.shiftLeft_eq]
    calc _ < (x.toNat % 2 ^ (w - n)) * 2 ^ n + 2 ^ n := Nat.add_lt_add_left hin _
      _ = (x.toNat % 2 ^ (w - n) + 1) * 2 ^ n := (Nat.succ_mul _ _).symm
      _ ≤ 2 ^ w := hw ▸ Nat.mul_le_mul_right _ hlt
  refine BitVec.eq_of_toNat_eq ?_
  rw [BitVec.toNat_ofNat, BitVec.toNat_rotateLeft, Nat.mod_eq_of_lt hn, Nat.shiftLeft_eq, Nat.shiftRight_eq_div_pow, Nat.add_mod, hstay,
    Nat.mod_eq_of_lt (hin.trans (Nat.pow_lt_pow_right Nat.one_lt_two hn)), Nat.mod_eq_of_lt hsum, Nat.shiftLeft_add_eq_or_of_lt hin]

theorem ofInt_bmod_toNat (v n : Nat) : BitVec.ofInt v ((x.toNat : Int).bmod (2 ^ n)) = (x.setWidth n).signExtend v := by
  rw [BitVec.signExtend, BitVec.toInt_setWidth]

theorem ofNat_mod_toNat (v n : Nat) : BitVec.ofNat v (x.toNat % 2 ^ n) = (x.setWidth n).setWidth v := by
  rw [← BitVec.toNat_setWidth, BitVec.ofNat_toNat]

end

/-! ### Zeros at either end of a word -/

/-- The zeros above the highest 1 of a number below 2^n. -/
theorem leadingZeros_of_lt {x : Word} {n : Nat} (h : x.toNat < 2 ^ n) :
    leadingZeros x n = if x.toNat = 0 then n else n - 1 - Nat.log2 x.toNat := by
  induction n with
  | zero => rw [if_pos (by simpa using h)]; rfl
  | succ n ih =>
    rw [leadingZeros]
    by_cases hbit : x.getLsbD n = true
    · have hle : 2 ^ n ≤ x.toNat := Nat.ge_two_pow_of_testBit hbit
      have hne : x.toNat ≠ 0 := by have := Nat.two_pow_pos n; omega
      rw [if_pos hbit, if_neg hne, (Nat.log2_eq_iff hne).mpr ⟨hle, h⟩]
      omega
    · have hlt : x.toNat < 2 ^ n := Nat.lt_of_not_le fun hle => hbit (by
        have hdiv : x.toNat / 2 ^ n = 1 := Nat.div_eq_of_lt_le (by omega) (by rw [Nat.pow_succ] at h; omega)
        rw [BitVec.getLsbD, Nat.testBit_eq_decide_div_mod_eq, hdiv]
        rfl)
      rw [if_neg hbit, ih hlt]
      by_cases hz : x.toNat = 0
      · rw [if_pos hz, if_pos hz]
      · have := (Nat.log2_lt hz).mpr hlt
        rw [if_neg hz, if_neg hz]
        omega

theorem leadingZeros_eq (x : Word) : leadingZeros x 64 = if x = 0 then 64 else 63 - Nat.log2 x.toNat := by
  rw [leadingZeros_of_lt x.isLt]
  exact if_congr (BitVec.toNat_inj (x := x) (y := 0)) rfl rfl

/-- A 1 above k zeros. -/
theorem padicValNat_of_testBit {m k : Nat} (hdvd : 2 ^ k ∣ m) (hbit : m.testBit k = true) : padicValNat 2 m = k := by
  have hne : m ≠ 0 := by rintro rfl; simp at hbit
  have hodd : ¬2 ^ (k + 1) ∣ m := by
    obtain ⟨q, rfl⟩ := hdvd
    rw [Nat.testBit_eq_decide_div_mod_eq, Nat.mul_div_cancel_left _ (Nat.two_pow_pos k), decide_eq_true_eq] at hbit
    rw [Nat.pow_succ, Nat.mul_dvd_mul_iff_left (Nat.two_pow_pos k)]
    omega
  have hle := (padicValNat_dvd_iff_le hne).mp hdvd
  have hgt := (padicValNat_dvd_iff_le hne).not.mp hodd
  omega

/-- The zeros below the lowest 1 of a word whose low 64 - n bits are 0. -/
theorem trailingZeros_of_dvd {x : Word} {n : Nat} (hn : n ≤ 64) (h : 2 ^ (64 - n) ∣ x.toNat) :
    64 - n + trailingZeros x n = if x.toNat = 0 then 64 else padicValNat 2 x.toNat := by
  induction n with
  | zero =>
    have hz : x.toNat = 0 := Nat.eq_zero_of_dvd_of_lt h x.isLt
    rw [if_pos hz]; rfl
  | succ n ih =>
    have hk : 64 - (n + 1) = 63 - n := by omega
    rw [hk] at h ⊢
    rw [trailingZeros]
    by_cases hbit : x.getLsbD (63 - n) = true
    · have hne : x.toNat ≠ 0 := by intro hz; simp [BitVec.getLsbD, hz] at hbit
      rw [if_pos hbit, if_neg hne, padicValNat_of_testBit h hbit, Nat.add_zero]
    · have hdvd : 2 ^ (64 - n) ∣ x.toNat := by
        obtain ⟨q, hq⟩ := h
        have heven : q % 2 = 0 := by
          rw [BitVec.getLsbD, hq, Nat.testBit_eq_decide_div_mod_eq, Nat.mul_div_cancel_left _ (Nat.two_pow_pos _), decide_eq_true_eq]
            at hbit
          omega
        rw [hq, show 64 - n = 63 - n + 1 by omega, Nat.pow_succ]
        exact Nat.mul_dvd_mul_left _ (Nat.dvd_of_mod_eq_zero heven)
      rw [if_neg hbit, ← ih (by omega) hdvd]
      omega

theorem trailingZeros_eq (x : Word) : trailingZeros x 64 = if x = 0 then 64 else padicValNat 2 x.toNat := by
  have hzeros := trailingZeros_of_dvd (x := x) (n := 64) le_rfl (one_dvd _)
  rw [Nat.sub_self, Nat.zero_add] at hzeros
  rw [hzeros]
  exact if_congr (BitVec.toNat_inj (x := x) (y := 0)) rfl rfl

/-! ### The statement -/

/-- Settles O7: each instruction is one register write, whose value is the table's as a number. -/
theorem scalarResults : Obligations.ScalarResults := by
  unfold Obligations.ScalarResults
  intro s d a b c imm
  dsimp only
  simp only [ofNat_toNat_add, ofInt_toInt_sub, ofNat_toNat_mul, ofNat_toNat_shiftLeft, ofNat_toNat_shiftRight, ofInt_toInt_shiftRight,
    ofInt_bmod_toNat, ofNat_mod_toNat]
  refine ⟨writesG s d _, writesG s d _, writesG s d _, writesG s d _, writesG s d _, writesG s d _, writesG s d _, writesG s d _,
    (writesG s d _).congr ?mad, writesG s d _, writesG s d _, writesG s d _, writesG s d _, writesG s d _, writesG s d _,
    writesG s d _, (writesG s d _).congr ?rotl, (writesG s d _).congr ?clz, (writesG s d _).congr ?ctz, (writesG s d _).congr ?popc,
    (writesG s d _).congr ?minS, (writesG s d _).congr ?minZ, (writesG s d _).congr ?maxS, (writesG s d _).congr ?maxZ,
    writesG s d _, writesG s d _, writesG s d _, writesG s d _, writesG s d _, writesG s d _, writesG s d _⟩
  case mad => rw [BitVec.ofNat_add, ofNat_toNat_mul, BitVec.ofNat_toNat, BitVec.setWidth_eq]
  case rotl => rw [ofNat_toNat_rotateLeft _ (Nat.mod_lt _ (by decide))]
  case clz => simp only [leadingZeros_eq]
  case ctz => simp only [trailingZeros_eq]
  case popc => simp only [popCount_eq_countP]
  all_goals simp only [pick, BitVec.slt, BitVec.ult, decide_eq_true_eq]

end Sys2Proof.Machine
end

section
/-! SUPPORT. Division and remainder: the remainder as what the quotient leaves (R187). -/

namespace Sys2Proof.Machine

theorem divRemS_eq (x y : Word) : divRemS x y =
    (if y = 0 then 0 else if x.toInt = -2 ^ 63 ∧ y.toInt = -1 then x else BitVec.ofInt 64 (x.toInt.tdiv y.toInt),
      if y = 0 then x else if x.toInt = -2 ^ 63 ∧ y.toInt = -1 then 0
        else BitVec.ofInt 64 (x.toInt - x.toInt.tdiv y.toInt * y.toInt)) := by
  rw [Int.mul_comm, ← Int.tmod_def]
  unfold divRemS
  split_ifs <;> rfl

theorem divRemZ_eq (x y : Word) : divRemZ x y =
    (if y = 0 then 0 else BitVec.ofNat 64 (x.toNat / y.toNat),
      if y = 0 then x else BitVec.ofNat 64 (x.toNat - x.toNat / y.toNat * y.toNat)) := by
  rw [← Nat.mod_eq_sub_div_mul]
  unfold divRemZ
  split_ifs <;> rfl

/-- Settles O8: each instruction writes one component of the quotient and remainder of R187. -/
theorem scalarDivision : Obligations.ScalarDivision := by
  unfold Obligations.ScalarDivision
  intro s d a b x y p special
  have hS := divRemS_eq x y
  have hZ := divRemZ_eq x y
  refine ⟨(writesG s d _).congr ?divS, (writesG s d _).congr ?remS, (writesG s d _).congr ?divZ, (writesG s d _).congr ?remZ⟩
  case divS => exact congrArg (fun r : Word × Word => GReg.mk r.1 p) hS
  case remS => exact congrArg (fun r : Word × Word => GReg.mk r.2 p) hS
  case divZ => exact congrArg (fun r : Word × Word => GReg.mk r.1 p) hZ
  case remZ => exact congrArg (fun r : Word × Word => GReg.mk r.2 p) hZ

end Sys2Proof.Machine
end

section
/-! SUPPORT. Vector integer arithmetic: the signed halves of a lane, the truth table of two masks (R192, R198). -/

namespace Sys2Proof.Machine

/-- Half k of a lane is the signed number of its 16 bits (R198). -/
theorem half_eq (x : Lane) (k : Nat) : half x k = ((x.toNat / 2 ^ (16 * k) : Nat) : Int).bmod (2 ^ 16) := by
  rw [half, BitVec.toInt_eq_toNat_bmod, BitVec.extractLsb'_toNat, Nat.shiftRight_eq_div_pow]
  rw [Int.natCast_mod, Int.emod_bmod]

theorem half_zero (x : Lane) : half x 0 = (x.toNat : Int).bmod (2 ^ 16) := by
  rw [half_eq, Nat.mul_zero, Nat.pow_zero, Nat.div_one]

theorem half_one (x : Lane) : half x 1 = ((x.toNat / 2 ^ 16 : Nat) : Int).bmod (2 ^ 16) := by
  rw [half_eq, Nat.mul_one]

theorem pickL_slt (x y z w : Lane) : pickL (x.slt y) z w = if x.toInt < y.toInt then z else w := by
  simp only [pickL, BitVec.slt, decide_eq_true_eq]

theorem pickL_ult (x y z w : Lane) : pickL (x.ult y) z w = if x.toNat < y.toNat then z else w := by
  simp only [pickL, BitVec.ult, decide_eq_true_eq]

/-- The place in a truth table that two mask bits name (R198). -/
theorem truthIndex_eq (p q : Bool) : 2 * p.toNat + q.toNat = (if p then 2 else 0) + (if q then 1 else 0) := by
  cases p <;> cases q <;> rfl

/-- Settles O12: each merge form writes its lane function, which is the table's as a number; vsel writes whole, vmask a mask. -/
theorem vectorIntegerResults : Obligations.VectorIntegerResults := by
  unfold Obligations.VectorIntegerResults
  intro s d a b c mk q r u i t
  dsimp only
  simp only [ofNat_toNat_add, ofInt_toInt_sub, ofNat_toNat_mul, ofNat_toNat_shiftLeft, ofNat_toNat_shiftRight, ofInt_toInt_shiftRight,
    ← half_zero, ← half_one, ← pickL_slt, ← pickL_ult]
  refine ⟨mergesV s d mk _ _ _, mergesV s d mk _ _ _, mergesV s d mk _ _ _, mergesV s d mk _ _ _, mergesV s d mk _ _ _,
    mergesV s d mk _ _ _, mergesV s d mk _ _ _, mergesV s d mk _ _ _, mergesV s d mk _ _ _, mergesV s d mk _ _ _,
    mergesV s d mk _ _ _, mergesV s d mk _ _ _, mergesV s d mk _ _ _, mergesV s d mk _ _ _, mergesV s d mk _ _ _,
    mergesV s d mk _ _ _, mergesV s d mk _ _ _, mergesV s d mk _ _ _, mergesV s d mk _ _ _, writesV s d _ _ _, _, fun l hl => ?_,
    writesM s q _⟩
  rw [getLsbD_bitsOf _ l hl, truthIndex_eq]

end Sys2Proof.Machine
end

section
/-! SUPPORT. Vector float arithmetic: the sign bit of a lane, the sign of a product (R192, R193, R195, R197). -/

namespace Sys2Proof.Machine

/-- A lane without its sign bit (R193). -/
theorem ofNat_mod_sign (x : Lane) : BitVec.ofNat 32 (x.toNat % 2 ^ 31) = x &&& 0x7FFFFFFF#32 := by
  refine BitVec.eq_of_toNat_eq ?_
  rw [BitVec.toNat_and, BitVec.toNat_ofNat, Nat.mod_eq_of_lt ((Nat.mod_lt _ (by decide)).trans (by decide))]
  exact (Nat.and_two_pow_sub_one_eq_mod x.toNat 31).symm

/-- A lane with its sign bit inverted (R193). -/
theorem ofNat_add_sign (x : Lane) : BitVec.ofNat 32 (x.toNat + 2 ^ 31) = x ^^^ 0x80000000#32 := by
  refine BitVec.eq_of_getLsbD_eq fun l hl => ?_
  rw [BitVec.getLsbD_ofNat, decide_eq_true hl, Bool.true_and, BitVec.getLsbD_xor, show 0x80000000#32 = BitVec.twoPow 32 31 from rfl,
    BitVec.getLsbD_twoPow, Nat.add_comm]
  rcases Nat.lt_or_eq_of_le (Nat.le_of_lt_succ hl) with hlt | rfl
  · rw [Nat.testBit_two_pow_add_gt hlt, decide_eq_false (Nat.ne_of_gt hlt), Bool.and_false, Bool.xor_false, BitVec.getLsbD]
  · rw [Nat.testBit_two_pow_add_eq, BitVec.getLsbD]
    exact (Bool.xor_true _).symm

/-- The sign of a product is inverted by that of its first factor (R193). -/
theorem FVal.neg_mul (x y : FVal) : x.neg.mul y = (x.mul y).neg := by
  cases x <;> cases y <;> simp only [FVal.neg, FVal.mul, Bool.not_bne]
  case inf.fin => split <;> rfl
  case fin.inf => split <;> rfl

/-- Settles O10: each merge form writes its lane function, one rounding of an exact value. -/
theorem vectorFloatResults : Obligations.VectorFloatResults := by
  unfold Obligations.VectorFloatResults
  intro s d a b c mk
  dsimp only
  simp only [ofNat_mod_sign, ofNat_add_sign, ← FVal.neg_mul]
  exact ⟨mergesV s d mk _ _ _, mergesV s d mk _ _ _, mergesV s d mk _ _ _, mergesV s d mk _ _ _, mergesV s d mk _ _ _,
    mergesV s d mk _ _ _, mergesV s d mk _ _ _, mergesV s d mk _ _ _, mergesV s d mk _ _ _, mergesV s d mk _ _ _,
    mergesV s d mk _ _ _, mergesV s d mk _ _ _, mergesV s d mk _ _ _, mergesV s d mk _ _ _, mergesV s d mk _ _ _,
    mergesV s d mk _ _ _, mergesV s d mk _ _ _, mergesV s d mk _ _ _⟩

end Sys2Proof.Machine
end

section
/-! SUPPORT. Lane movement: the lanes of a pair, the halves of a lane exchanged, a mask from a scalar register (R191, R201). -/

namespace Sys2Proof.Machine

/-- The other lane of a pair (R201). -/
theorem xor_one_eq_mate (l : Nat) : l ^^^ 1 = if l % 2 = 0 then l + 1 else l - 1 := by
  split
  · next h => exact Nat.xor_one_of_even (Nat.even_iff.mpr h)
  · next h => exact Nat.xor_one_of_odd (Nat.odd_iff.mpr (Nat.mod_two_ne_zero.mp h))

theorem swapHalves_eq (x : Lane) : swapHalves x = BitVec.ofNat 32 (x.toNat / 2 ^ 16 + x.toNat % 2 ^ 16 * 2 ^ 16) := by
  have hlt : x.toNat / 2 ^ 16 < 2 ^ 16 := by have := x.isLt; omega
  refine BitVec.eq_of_toNat_eq ?_
  rw [swapHalves, BitVec.toNat_append, BitVec.extractLsb'_toNat, BitVec.extractLsb'_toNat, Nat.shiftRight_zero,
    Nat.shiftRight_eq_div_pow, Nat.mod_eq_of_lt hlt, ← Nat.shiftLeft_add_eq_or_of_lt hlt, Nat.shiftLeft_eq, BitVec.toNat_ofNat]
  omega

/-- A mask from a clean scalar register (R191, R201). -/
theorem execVinsMask_writes {s : State} {a : BitVec 6} (h : (s.g a).psn = false) (q : BitVec 3) :
    WritesM s q ((s.g a).bits.setWidth 32) (execVinsMask q a s) := by
  rw [execVinsMask, State.gUse_ok h]
  exact writesM s q _

/-- Settles O16: each form merges or writes the lanes that it names; a mask is taken from a clean register only. -/
theorem laneMovementResults : Obligations.LaneMovementResults := by
  unfold Obligations.LaneMovementResults
  intro s d a b mk q r n imm
  dsimp only
  simp only [← xor_one_eq_mate, ← swapHalves_eq, BitVec.ofNat_toNat]
  exact ⟨mergesV s d mk _ _ _, mergesV s d mk _ _ _, mergesV s d mk _ _ _, mergesV s d mk _ _ _, mergesV s d mk _ _ _,
    mergesV s d mk _ _ _, mergesV s d mk _ _ _, writesG s d _, writesG s d _, writesV s d _ _ _, fun h => execVinsMask_writes h q,
    fun h => traps_gUse h _, writesV s d _ _ _, mergesV s d mk _ _ _⟩

end Sys2Proof.Machine
end

section
/-! SUPPORT. Reductions as the tree of R202 over the lanes, sums over active lanes, running sums, and counts of a mask (R202, R203). -/

namespace Sys2Proof.Machine

/-! ### The tree of a reduction -/

/-- The tree of R202 over 32 entries, level by level. -/
def laneTree (f : Lane → Lane → Lane) (t : Nat → Lane) : Lane :=
  let r16 := fun i => f (t i) (t (i + 16))
  let r8 := fun i => f (r16 i) (r16 (i + 8))
  let r4 := fun i => f (r8 i) (r8 (i + 4))
  let r2 := fun i => f (r4 i) (r4 (i + 2))
  f (r2 0) (r2 1)

/-- One level of the tree halves a table. -/
theorem treeStep_map_range (f : Lane → Lane → Lane) (t : Nat → Lane) {st n : Nat} (h : 2 * st ≤ n) :
    treeStep f st ((List.range n).map t) = (List.range st).map (fun i => f (t i) (t (i + st))) := by
  refine List.map_congr_left fun i hi => ?_
  have hi := List.mem_range.mp hi
  rw [getD_map_range _ _ (by omega), getD_map_range _ _ (by omega)]

theorem treeFold_map_range (f : Lane → Lane → Lane) (t : Nat → Lane) : treeFold f ((List.range 32).map t) = laneTree f t := by
  rw [treeFold, List.foldl_cons, List.foldl_cons, List.foldl_cons, List.foldl_cons, List.foldl_cons, List.foldl_nil,
    treeStep_map_range f _ (by decide), treeStep_map_range f _ (by decide), treeStep_map_range f _ (by decide),
    treeStep_map_range f _ (by decide), treeStep_map_range f _ (by decide)]
  rfl

/-- The tree of equal entries, each of which the operation keeps. -/
theorem laneTree_const {f : Lane → Lane → Lane} {c : Lane} (h : f c c = c) : laneTree f (fun _ => c) = c := by
  simp only [laneTree, h]

/-- One level of a tree of sums keeps the sum of the table. -/
theorem sum_map_range_half (t : Nat → Lane) (n : Nat) :
    ((List.range n).map (fun i => t i + t (i + n))).sum = ((List.range (n + n)).map t).sum := by
  rw [List.sum_map_add, List.range_add, List.map_append, List.sum_append, List.map_map]
  simp only [Function.comp_def, Nat.add_comm n]

/-- The tree of sums is the sum (R202). -/
theorem laneTree_add (t : Nat → Lane) : laneTree (fun x y => x + y) t = ((List.range 32).map t).sum := by
  rw [← sum_map_range_half t 16, ← sum_map_range_half _ 8, ← sum_map_range_half _ 4, ← sum_map_range_half _ 2,
    ← sum_map_range_half _ 1, List.range_one, List.map_singleton, List.sum_singleton]
  rfl

/-- A sum with 0 for what is left out is the sum of the rest. -/
theorem sum_map_ite_zero (p : Nat → Bool) (t : Nat → Lane) (l : List Nat) :
    (l.map (fun i => if p i then t i else 0)).sum = ((l.filter p).map t).sum := by
  rw [List.sum_map_ite, List.sum_map_zero, add_zero]
  simp only [Bool.decide_eq_true]

/-- A reduction writes the tree over the active lanes, the identity in place of the others (R202). -/
theorem vreduce_writes (s : State) (d a : BitVec 6) (mk : BitVec 3) (ident : Lane) (f : Lane → Lane → Lane) :
    WritesV s d (fun _ => laneTree f (fun l => if (s.m mk).getLsbD l then (s.v a).lane l else ident))
      (fun _ => (List.range 32).any (fun l => (s.m mk).getLsbD l && (s.v a).psn.getLsbD l)) (s.v a).side (vreduce d a mk ident f s) := by
  rw [← treeFold_map_range, ← and_bne_zero_eq_any]
  exact writesV s d _ _ _

/-- A reduction without an active lane writes its identity, clean (R202). -/
theorem vreduce_no_active {s : State} {mk : BitVec 3} (hm : s.m mk = 0) (d a : BitVec 6) {ident : Lane} {f : Lane → Lane → Lane}
    (h : f ident ident = ident) :
    WritesV s d (fun _ => ident) (fun _ => false) (s.v a).side (vreduce d a mk ident f s) := by
  have hbit (l : Nat) : (s.m mk).getLsbD l = false := by rw [hm]; exact BitVec.getLsbD_zero
  refine (vreduce_writes s d a mk ident f).congr (fun _ _ => ?_) (fun _ _ => ?_)
  · simp only [hbit, Bool.false_eq_true, if_false, laneTree_const h]
  · simp only [hbit, Bool.false_and]
    exact List.any_eq_false.mpr fun _ _ => Bool.false_ne_true

/-! ### Running sums and counts -/

/-- The numbers up to l among those below n. -/
theorem filter_le_range {l n : Nat} (h : l < n) : (List.range n).filter (fun j => decide (j ≤ l)) = List.range (l + 1) := by
  obtain ⟨k, rfl⟩ := Nat.exists_eq_add_of_le (Nat.succ_le_of_lt h)
  rw [List.range_add, List.filter_append, List.filter_eq_self.mpr, List.filter_eq_nil_iff.mpr, List.append_nil]
  · intro j hj
    obtain ⟨i, -, rfl⟩ := List.mem_map.mp hj
    simp only [decide_eq_true_eq]
    omega
  · intro j hj
    have := List.mem_range.mp hj
    simp only [decide_eq_true_eq]
    omega

/-- The active lanes up to a lane (R203). -/
theorem activeLanes_filter_le (m : Lane) {l : Nat} (h : l < 32) :
    (activeLanes m).filter (fun j => decide (j ≤ l)) = (List.range (l + 1)).filter (fun j => m.getLsbD j) := by
  rw [activeLanes, List.filter_comm, filter_le_range h]

theorem foldl_add_eq_sum (t : Nat → Lane) (l : List Nat) : l.foldl (fun v j => v + t j) 0#32 = (l.map t).sum := by
  rw [List.sum_eq_foldl, List.foldl_map]
  rfl

/-- What a merge form writes depends only on the values of the 32 lanes. -/
theorem MergesV.congr {s : State} {d : BitVec 6} {mk : BitVec 3} {f g : Nat → Lane} {p q : Nat → Bool} {side : Byte} {o : Out}
    (w : MergesV s d mk f p side o) (hf : ∀ l, l < 32 → f l = g l) (hp : ∀ l, l < 32 → p l = q l) : MergesV s d mk g q side o :=
  WritesV.congr w (fun l hl => by rw [hf l hl]) (fun l hl => by rw [hp l hl])

/-- The running sum of the active lanes (R203). -/
theorem execVscanAddS32_merges (s : State) (d a : BitVec 6) (mk : BitVec 3) :
    let below := fun l => (activeLanes (s.m mk)).filter (fun j => decide (j ≤ l))
    MergesV s d mk (fun l => ((below l).map (s.v a).lane).sum) (fun l => (below l).any (fun j => (s.v a).psn.getLsbD j)) (s.v a).side
      (execVscanAddS32 d a mk s) := by
  refine (mergesV s d mk _ _ _).congr (fun l hl => ?_) (fun l hl => ?_)
  · simp only [foldl_add_eq_sum, activeLanes_filter_le _ hl]
  · simp only [activeLanes_filter_le _ hl]

/-- The active lanes moved down (R203). -/
theorem execVcomp_writes (s : State) (d a : BitVec 6) (mk : BitVec 3) :
    WritesV s d (fun j => ((activeLanes (s.m mk))[j]?.map (s.v a).lane).getD 0)
      (fun j => ((activeLanes (s.m mk))[j]?.map (fun l => (s.v a).psn.getLsbD l)).getD false) (s.v a).side (execVcomp d a mk s) := by
  refine (writesV s d _ _ _).congr (fun j _ => ?_) (fun j _ => ?_) <;> cases (activeLanes (s.m mk))[j]? <;> rfl

/-- Settles O17: the tree as the fold makes it, its sum over the active lanes, the running sums, and counts of a mask. -/
theorem reductionAndScanResults : Obligations.ReductionAndScanResults := by
  unfold Obligations.ReductionAndScanResults
  refine ⟨fun s d a b mk r h => ?_, fun s d a mk hm => ⟨vreduce_no_active hm d a (by decide +kernel),
    vreduce_no_active hm d a (by decide +kernel), vreduce_no_active hm d a rfl⟩⟩
  intro A B m anyP src all tree active below clamp el ps
  refine ⟨vreduce_writes s d a mk _ _, vreduce_writes s d a mk _ _, (vreduce_writes s d a mk _ _).congr (fun _ _ => ?sum) fun _ _ => rfl,
    execVscanAddS32_merges s d a mk, writesV s d _ _ _, mergesV s d mk _ _ _, (writesG s d _).congr ?count, execVcomp_writes s d a mk,
    ?expand⟩
  case sum => rw [laneTree_add]; exact sum_map_ite_zero _ _ _
  case count => rw [popCount_eq_countP]
  case expand =>
    simp only [← popCount_eq_countP]
    exact writesV s d _ _ _

end Sys2Proof.Machine
end

section
/-! SUPPORT. Accumulator slots: numbers put at a list of places, the words of a half row, the checks of the slot instructions and the
value of tshape (R191, R205, R217, R227, R228). -/

namespace Sys2Proof.Machine

/-! ### Numbers put at a list of places -/

/-- Numbers of `n` bytes put one after another, that of each `l` in a list at place `k l`. -/
def Hw.putList (h : Hw) (n : Nat) (k v : Nat → Nat) (ls : List Nat) : Hw := ls.foldl (fun h l => h.putNum (k l) n (v l)) h

theorem Hw.onlyMem_refl (h : Hw) : h.OnlyMem h := rfl

theorem Hw.onlyMem_putList (h : Hw) (n : Nat) (k v : Nat → Nat) (ls : List Nat) : h.OnlyMem (h.putList n k v ls) := by
  induction ls generalizing h with
  | nil => exact h.onlyMem_refl
  | cons x ls ih => exact (h.onlyMem_write _ _).trans (ih _)

section
variable {h : Hw} {n : Nat} {k : Nat → Nat} (v : Nat → Nat) {ls : List Nat}

theorem Hw.memRead_putList_out (hok : h.Ok) {a : Nat} (ha : ∀ l ∈ ls, a < k l ∨ k l + n ≤ a) :
    memRead (h.putList n k v ls).mem a = memRead h.mem a := by
  induction ls generalizing h with
  | nil => rfl
  | cons x ls ih =>
    refine (ih (Hw.putNum_ok hok _ _ _) fun l hl => ha l (List.mem_cons_of_mem x hl)).trans ?_
    exact Hw.memRead_putNum_out hok _ (ha x List.mem_cons_self)

/-- Where no two places of the list meet, the bytes at each are those of its number. -/
theorem Hw.memRead_putList_in (hok : h.Ok) (hapart : ∀ l ∈ ls, ∀ m ∈ ls, l ≠ m → k l + n ≤ k m ∨ k m + n ≤ k l) {l i : Nat}
    (hl : l ∈ ls) (hi : i < n) : memRead (h.putList n k v ls).mem (k l + i) = BitVec.ofNat 8 (v l / 256 ^ i) := by
  induction ls generalizing h with
  | nil => exact absurd hl List.not_mem_nil
  | cons x ls ih =>
    have hput := Hw.putNum_ok hok (k x) n (v x)
    by_cases hin : l ∈ ls
    · exact ih hput (fun a ha b hb => hapart a (List.mem_cons_of_mem x ha) b (List.mem_cons_of_mem x hb)) hin
    · obtain rfl : l = x := (List.mem_cons.mp hl).resolve_right hin
      refine (Hw.memRead_putList_out v hput fun m hm => ?_).trans ?_
      · have := hapart l hl m (List.mem_cons_of_mem l hm) fun heq => hin (heq ▸ hm)
        omega
      · rw [Hw.mem_putNum, memRead_writeN_in _ _ _ hok (by rwa [leBytes_length]), getElem_leBytes]

end

theorem mem_activeLanes {m : Lane} {l : Nat} : l ∈ activeLanes m ↔ l < 32 ∧ m.getLsbD l = true := by
  rw [activeLanes, List.mem_filter, List.mem_range]

/-! ### Checks of the slot instructions -/

section
variable {s : State} {ss : List Nat}

theorem State.slotsFree_ok (h : s.herePrior.tileOn ss = []) : s.slotsFree ss = .ok () := blockUnless_true (by rw [h]; rfl)

theorem State.slotsFree_block (h : s.herePrior.tileOn ss ≠ []) : s.slotsFree ss = .error .block :=
  blockUnless_false (List.isEmpty_eq_false_iff.mpr h)

theorem Arr.calNow_of_segs {a : Arr} (h : a.segs ≠ 0) : a.calNow = a.cal := if_neg h

theorem State.checkCalAs_ok (hsegs : s.arrHere.segs ≠ 0) (hcal : s.arrHere.cal ≠ 4) (detail : BitVec 256) :
    s.checkCalAs detail = .ok () :=
  trapIf_false (by rw [Arr.calNow_of_segs hsegs]; exact beq_eq_false_iff_ne.mpr hcal) _ _ _

end

/-! ### Clearing slots -/

section
variable {s : State} {slot : BitVec 4} {rows : BitVec 8}

/-- The rows of `tzero` lie one after another from the first slot's place on (R205, R227). -/
theorem execTzero_next (hin : slot.toNat + (rows.toNat + 7) / 8 ≤ 16) (hfree : s.herePrior.tileOn (slotsOf slot.toNat rows.toNat) = []) :
    execTzero slot rows s = .next (s.upd (fun h =>
      h.putList 256 (fun r => slotKey s.ix.co (slot.toNat + r / 8) (r % 8) 0) (fun _ => 0) (List.range rows.toNat))) := by
  rw [execTzero, trapIf_false (decide_eq_false (Nat.not_lt.mpr hin)), ok_bind, State.slotsFree_ok hfree]
  rfl

theorem execTzero_clears (hinv : s.Inv) (hin : slot.toNat + (rows.toNat + 7) / 8 ≤ 16)
    (hfree : s.herePrior.tileOn (slotsOf slot.toNat rows.toNat) = []) :
    let cleared := fun (k : Nat) => ∃ r, r < rows.toNat ∧ slotKey s.ix.co (slot.toNat + r / 8) (r % 8) 0 ≤ k
      ∧ k < slotKey s.ix.co (slot.toNat + r / 8) (r % 8) 0 + 256
    ∃ t, execTzero slot rows s = .next t ∧ s.OnlyMem t ∧ (∀ k, cleared k → memRead t.mem k = 0)
      ∧ ∀ k, ¬cleared k → memRead t.mem k = memRead s.mem k := by
  intro cleared
  refine ⟨_, execTzero_next hin hfree, State.onlyMem_upd (Hw.onlyMem_putList _ _ _ _ _), ?_, fun k hk => ?_⟩
  · rintro k ⟨r, hr, hle, hlt⟩
    obtain ⟨i, rfl⟩ := Nat.exists_eq_add_of_le hle
    refine (Hw.memRead_putList_in _ hinv (fun p _ q _ hpq => ?_) (List.mem_range.mpr hr) (by omega)).trans ?_
    · rw [slotKey_eq, slotKey_eq]
      omega
    · rw [Nat.zero_div]
      rfl
  · refine Hw.memRead_putList_out _ hinv fun r hr => ?_
    by_contra hmeet
    exact hk ⟨r, List.mem_range.mp hr, by omega, by omega⟩

theorem traps_execTzero (h : 16 < slot.toNat + (rows.toNat + 7) / 8) : Traps s 0x36 (execTzero slot rows s) := by
  rw [execTzero, trapIf_true (decide_eq_true h)]
  exact traps_settle_bind _ _ _ _ _

theorem blocks_execTzero (hin : slot.toNat + (rows.toNat + 7) / 8 ≤ 16)
    (hpend : s.herePrior.tileOn (slotsOf slot.toNat rows.toNat) ≠ []) : Blocks s (execTzero slot rows s) := by
  rw [execTzero, trapIf_false (decide_eq_false (Nat.not_lt.mpr hin)), ok_bind, State.slotsFree_block hpend]
  exact blocks_settle s

end

/-! ### Half rows -/

/-- A place of the active words of a half row (R227). -/
def InHalfRow (co : CoreId) (c : BitVec 8) (m : Lane) (k : Nat) : Prop :=
  ∃ l, l < 32 ∧ m.getLsbD l = true ∧ accLane co c l ≤ k ∧ k < accLane co c l + 4

/-- The active words of a half row put (R227). -/
def Hw.putHalfRow (h : Hw) (co : CoreId) (c : BitVec 8) (m : Lane) (v : Nat → Nat) : Hw := h.putList 4 (accLane co c) v (activeLanes m)

/-- The words of a half row follow one another. -/
theorem accLane_apart (co : CoreId) (c : BitVec 8) {l m : Nat} (h : l ≠ m) :
    accLane co c l + 4 ≤ accLane co c m ∨ accLane co c m + 4 ≤ accLane co c l := by
  simp only [accLane, slotKey, accKey]
  omega

section
variable {h : Hw} {co : CoreId} {c : BitVec 8} {m : Lane} (v : Nat → Nat)

theorem Hw.memRead_putHalfRow_in (hok : h.Ok) {l i : Nat} (hl : l < 32) (hm : m.getLsbD l = true) (hi : i < 4) :
    memRead (h.putHalfRow co c m v).mem (accLane co c l + i) = BitVec.ofNat 8 (v l / 256 ^ i) :=
  Hw.memRead_putList_in v hok (fun _ _ _ _ hne => accLane_apart co c hne) (mem_activeLanes.mpr ⟨hl, hm⟩) hi

theorem Hw.memRead_putHalfRow_out (hok : h.Ok) {k : Nat} (hk : ¬InHalfRow co c m k) :
    memRead (h.putHalfRow co c m v).mem k = memRead h.mem k := by
  refine Hw.memRead_putList_out v hok fun l hl => ?_
  obtain ⟨hl, hm⟩ := mem_activeLanes.mp hl
  by_contra hmeet
  exact hk ⟨l, hl, hm, by omega, by omega⟩

/-- The words of a half row cleared read as 0. -/
theorem Hw.memRead_putHalfRow_zero (hok : h.Ok) {k : Nat} (hk : InHalfRow co c m k) :
    memRead (h.putHalfRow co c m (fun _ => 0)).mem k = 0 := by
  obtain ⟨l, hl, hm, hle, hlt⟩ := hk
  obtain ⟨i, rfl⟩ := Nat.exists_eq_add_of_le hle
  rw [Hw.memRead_putHalfRow_in _ hok hl hm (by omega), Nat.zero_div]
  rfl

end

section
variable {s : State} {c : BitVec 8} {mk : BitVec 3}

/-- The register of a read: the words of the half row merged into it (R227). -/
def State.readHalfRow (s : State) (vd : BitVec 6) (c : BitVec 8) (mk : BitVec 3) : State :=
  vmerge vd mk 0 (fun l => BitVec.ofNat 32 (s.toHw.num (accLane s.ix.co c l) 4)) (fun _ => false) s

theorem mergesV_readHalfRow (vd : BitVec 6) :
    MergesV s vd mk (fun l => s.toHw.wordAt (accLane s.ix.co c l)) (fun _ => false) 0 (.next (s.readHalfRow vd c mk)) :=
  (mergesV s vd mk _ _ _).congr (fun _ _ => Hw.ofNat_num_four _ _) fun _ _ => rfl

theorem execTaccRd_next (hfree : s.herePrior.tileOn [c.toNat / 16] = []) (vd : BitVec 6) (clr : BitVec 1) :
    execTaccRd vd c clr mk s = .next (if clr = 1
      then (s.readHalfRow vd c mk).upd (fun h => h.putHalfRow s.ix.co c (s.m mk) (fun _ => 0)) else s.readHalfRow vd c mk) := by
  rw [execTaccRd, State.slotsFree_ok hfree]
  rfl

/-- A read leaves memory, or clears the words that it reads (R227). -/
theorem execTaccRd_reads (hinv : s.Inv) (hfree : s.herePrior.tileOn [c.toNat / 16] = []) (vd : BitVec 6) (clr : BitVec 1) :
    ∃ t u, MergesV s vd mk (fun l => s.toHw.wordAt (accLane s.ix.co c l)) (fun _ => false) 0 (.next u)
      ∧ execTaccRd vd c clr mk s = .next t ∧ u.OnlyMem t ∧ (clr = 0 → t = u)
      ∧ (clr = 1 → (∀ k, InHalfRow s.ix.co c (s.m mk) k → memRead t.mem k = 0)
        ∧ ∀ k, ¬InHalfRow s.ix.co c (s.m mk) k → memRead t.mem k = memRead s.mem k) := by
  have hread : (s.readHalfRow vd c mk).Inv := hinv
  refine ⟨_, _, mergesV_readHalfRow vd, execTaccRd_next hfree vd clr, ?only, ?keep, ?clear⟩
  case only =>
    split
    · exact State.onlyMem_upd (Hw.onlyMem_putList _ _ _ _ _)
    · exact rfl
  case keep => rintro rfl; rfl
  case clear =>
    rintro rfl
    exact ⟨fun k hk => Hw.memRead_putHalfRow_zero hread hk, fun k hk => Hw.memRead_putHalfRow_out _ hread hk⟩

theorem blocks_execTaccRd (hpend : s.herePrior.tileOn [c.toNat / 16] ≠ []) (vd : BitVec 6) (clr : BitVec 1) :
    Blocks s (execTaccRd vd c clr mk s) := by
  rw [execTaccRd, State.slotsFree_block hpend]
  exact blocks_settle s

variable {va : BitVec 6}

/-- A write puts the active lanes of a clean register (R227). -/
theorem execTaccWr_next (hfree : s.herePrior.tileOn [c.toNat / 16] = [])
    (hclean : ∀ l, l < 32 → (s.m mk).getLsbD l = true → (s.v va).psn.getLsbD l = false) :
    execTaccWr va c mk s = .next (s.upd (fun h => h.putHalfRow s.ix.co c (s.m mk) (fun l => ((s.v va).lane l).toNat))) := by
  rw [execTaccWr, trapIf_false (and_bne_zero_eq_false.mpr hclean), ok_bind, State.slotsFree_ok hfree]
  rfl

theorem traps_execTaccWr {l : Nat} (hl : l < 32) (hm : (s.m mk).getLsbD l = true) (hpsn : (s.v va).psn.getLsbD l = true) (c : BitVec 8) :
    Traps s 0x31 (execTaccWr va c mk s) := by
  have hpoison : ((s.v va).psn &&& s.m mk != 0) = true := by
    rw [and_bne_zero_eq_any, List.any_eq_true]
    exact ⟨l, List.mem_range.mpr hl, by rw [hm, hpsn]; rfl⟩
  rw [execTaccWr, trapIf_true hpoison]
  exact traps_settle_bind _ _ _ _ _

theorem blocks_execTaccWr (hpend : s.herePrior.tileOn [c.toNat / 16] ≠ [])
    (hclean : ∀ l, l < 32 → (s.m mk).getLsbD l = true → (s.v va).psn.getLsbD l = false) : Blocks s (execTaccWr va c mk s) := by
  rw [execTaccWr, trapIf_false (and_bne_zero_eq_false.mpr hclean), ok_bind, State.slotsFree_block hpend]
  exact blocks_settle s

end

/-! ### Reporting a shape -/

/-- A shape in range is reported, poisoned as the register that names it is (R228). -/
theorem execTshape_writes {s : State} {a : BitVec 6} {prof : BitVec 8} {f : TileFmt} (hsegs : s.arrHere.segs ≠ 0) (hcal : s.arrHere.cal ≠ 4)
    (hf : s.resolve prof ((s.g a).bits.toNat % 256) ((s.g a).bits.toNat / 256 % 256) = .ok f) (hk : 1 ≤ (s.g a).bits.toNat % 256)
    (hk' : (s.g a).bits.toNat % 256 ≤ 64) (hn : 1 ≤ (s.g a).bits.toNat / 256 % 256) (hn' : (s.g a).bits.toNat / 256 % 256 ≤ 128)
    (d : BitVec 6) :
    WritesG s d ⟨shapeWord s.arrHere.cal s.arrHere.nsegs f.prof ((s.g a).bits.toNat % 256) ((s.g a).bits.toNat / 256 % 256),
      (s.g a).psn⟩
      (execTshape d a prof s) := by
  simp only [execTshape, State.checkCalAs_ok hsegs hcal, ok_bind, hf, hk, hk', hn, hn', decide_true, Bool.and_self, Bool.not_true,
    Bool.false_and, trapIf_false, if_true, settle_done, Arr.calNow_of_segs hsegs]
  exact writesG s d _

/-- Settles O43: the places put lie apart, so that each of their bytes is its number's; pending tiles block, and the poison of an active
lane comes before them. -/
theorem accumulatorSlots : Obligations.AccumulatorSlots := by
  unfold Obligations.AccumulatorSlots
  intro s d a va vd slot rows c prof clr mk f m free place b word act inRow cleared k n p h
  have hplace (l : Nat) : accLane s.ix.co c l = place l := by simp only [accLane, place, Nat.mul_comm 32]
  have hrow (k : Nat) : InHalfRow s.ix.co c (s.m mk) k ↔ inRow k := by simp only [InHalfRow, inRow, act, hplace]
  refine ⟨execTzero_clears, traps_execTzero, fun hinv hfree => ?read, fun hinv hfree hclean => ?write,
    fun l hl hm hpsn => traps_execTaccWr hl hm hpsn c, fun hpend => blocks_execTaccRd hpend vd clr,
    fun hpend hclean => blocks_execTaccWr hpend hclean, blocks_execTzero, fun hsegs hcal hf hk hk' hn hn' =>
    execTshape_writes hsegs hcal hf hk hk' hn hn' d⟩
  case read =>
    have hread := execTaccRd_reads (mk := mk) hinv hfree vd clr
    simp only [hrow, hplace] at hread
    exact hread
  case write =>
    refine ⟨_, execTaccWr_next hfree hclean, State.onlyMem_upd (Hw.onlyMem_putList _ _ _ _ _), fun l i hl hi hm => ?_, fun k hk => ?_⟩
    · rw [← hplace, ← ofNat_div_pow]
      exact Hw.memRead_putHalfRow_in _ hinv hl hm hi
    · exact Hw.memRead_putHalfRow_out _ hinv ((hrow k).not.mpr hk)

end Sys2Proof.Machine
end

section
/-! SUPPORT. Rounding of exact ratios to FP32: powers of two, small integers, and what lies past the largest number; the value of a code
by its sign and magnitude (R30, R31). -/

namespace Sys2Proof.Machine

/-! ### Powers of two -/

theorem pow2_pos (k : Int) : 0 < pow2 k := Nat.two_pow_pos _

theorem pow2_natCast (k : Nat) : pow2 k = 2 ^ k := rfl

theorem pow2_neg_natCast (k : Nat) : pow2 (-(k : Int)) = 1 := by rw [pow2, show (-(k : Int)).toNat = 0 by omega, Nat.pow_zero]

/-! ### Exact ratios -/

/-- A ratio that is an integer is rounded to it (R30). -/
theorem rneInt_of_exact {n d q : Nat} {e : Int} (hd : 0 < d) (h : n * pow2 e = q * (d * pow2 (-e))) : rneInt n d e = q := by
  have hpos : 0 < d * pow2 (-e) := Nat.mul_pos hd (pow2_pos _)
  simp only [rneInt, h, Nat.mul_div_cancel _ hpos, Nat.mul_mod_left]
  rw [if_neg (by omega)]

theorem floorLog2_one {n : Nat} (hn : n ≠ 0) : floorLog2 n 1 = Nat.log2 n := by
  have hle : 2 ^ Nat.log2 n ≤ n := Nat.log2_self_le hn
  have hone : Nat.log2 1 = 0 := Nat.log2_two_pow (n := 0)
  simp only [floorLog2, hone, Nat.cast_zero, sub_zero]
  rw [if_pos (by rw [pow2_neg_natCast, pow2_natCast]; omega)]

theorem floorLog2_two_pow (a b : Nat) : floorLog2 (2 ^ a) (2 ^ b) = (a : Int) - b := by
  simp only [floorLog2, Nat.log2_two_pow]
  rw [if_pos]
  rw [pow2, pow2, ← Nat.pow_add, ← Nat.pow_add]
  exact Nat.pow_le_pow_right Nat.two_pos (by omega)

/-- A ratio that is an integer of the unit that its exponent gives has the code of that unit and integer. -/
theorem magRound_of_exact {n d q inf : Nat} {mb : Nat} {e umin u : Int} (hn : n ≠ 0) (hd : 0 < d)
    (hu : max (floorLog2 n d + e - mb) umin = u) (hq : n * pow2 (e - u) = q * (d * pow2 (-(e - u)))) :
    magRound mb umin inf n d e = min inf ((u - umin).toNat * 2 ^ mb + q) := by
  rw [magRound, if_neg hn]
  simp only [hu, rneInt_of_exact hd hq]

/-! ### Codes of powers of two -/

/-- The code of 2^n, a normal number or a subnormal one (R31). -/
def powCode (n : Int) : Nat := if -126 ≤ n then (n + 127).toNat * 2 ^ 23 else 2 ^ (n + 149).toNat

/-- The magnitude's code of the exact power 2^(a - b + e) in the range of FP32. -/
theorem magRound_two_pow {a b : Nat} {e n : Int} (hn : (a : Int) - b + e = n) (hlo : -149 ≤ n) (hhi : n ≤ 127) :
    magRound 23 (-149) 0x7F800000 (2 ^ a) (2 ^ b) e = powCode n := by
  have hq {u : Int} (hu : u ≤ n) : 2 ^ a * pow2 (e - u) = 2 ^ (n - u).toNat * (2 ^ b * pow2 (-(e - u))) := by
    rw [pow2, pow2, ← Nat.pow_add, ← Nat.pow_add, ← Nat.pow_add]
    congr 1
    omega
  have hlog := floorLog2_two_pow a b
  rw [powCode]
  split
  · rw [magRound_of_exact (u := n - 23) (Nat.two_pow_pos a).ne' (Nat.two_pow_pos b) (by rw [hlog]; omega) (hq (by omega))]
    rw [show (n - (n - 23)).toNat = 23 by omega]
    omega
  · rw [magRound_of_exact (u := -149) (Nat.two_pow_pos a).ne' (Nat.two_pow_pos b) (by rw [hlog]; omega) (hq hlo)]
    have hlt : 2 ^ (n - -149).toNat < 2 ^ 23 := Nat.pow_lt_pow_right Nat.one_lt_two (by omega)
    rw [show (n + 149).toNat = (n - -149).toNat by omega]
    omega

/-! ### Codes of integers -/

/-- The code of an integer below 2^24 (R31). -/
def intCode (v : Nat) : Nat := if v = 0 then 0 else (Nat.log2 v + 126) * 2 ^ 23 + v * 2 ^ (23 - Nat.log2 v)

/-- The significand of an integer from 1 below 2^24. -/
theorem int_significand {v : Nat} (hv : v ≠ 0) (hlt : v < 2 ^ 24) :
    Nat.log2 v < 24 ∧ 2 ^ 23 ≤ v * 2 ^ (23 - Nat.log2 v) ∧ v * 2 ^ (23 - Nat.log2 v) < 2 ^ 24 := by
  have hL : Nat.log2 v < 24 := (Nat.log2_lt hv).mpr hlt
  have hlo : 2 ^ 23 = 2 ^ Nat.log2 v * 2 ^ (23 - Nat.log2 v) := by rw [← Nat.pow_add]; congr 1; omega
  have hhi : 2 ^ 24 = 2 ^ (Nat.log2 v + 1) * 2 ^ (23 - Nat.log2 v) := by rw [← Nat.pow_add]; congr 1; omega
  refine ⟨hL, hlo ▸ Nat.mul_le_mul_right _ (Nat.log2_self_le hv), ?_⟩
  rw [hhi]
  exact Nat.mul_lt_mul_of_pos_right Nat.lt_log2_self (Nat.two_pow_pos _)

/-- The magnitude's code of an integer below 2^24, at any scale that keeps it one. -/
theorem magRound_int {v : Nat} (hlt : v < 2 ^ 24) (j : Nat) :
    magRound 23 (-149) 0x7F800000 (v * 2 ^ j) 1 (-(j : Int)) = intCode v := by
  rw [intCode]
  split
  · next hv => rw [hv, Nat.zero_mul, magRound, if_pos rfl]
  next hv =>
  obtain ⟨hL, -, hM⟩ := int_significand hv hlt
  have hne : v * 2 ^ j ≠ 0 := Nat.mul_ne_zero hv (Nat.two_pow_pos j).ne'
  have hlog : Nat.log2 (v * 2 ^ j) = Nat.log2 v + j := by
    rw [Nat.log2_eq_iff hne, Nat.add_right_comm, Nat.pow_add, Nat.pow_add]
    exact ⟨Nat.mul_le_mul_right _ (Nat.log2_self_le hv), Nat.mul_lt_mul_of_pos_right Nat.lt_log2_self (Nat.two_pow_pos j)⟩
  have hq {u : Int} (hu : u = (Nat.log2 v : Int) - 23) :
      v * 2 ^ j * pow2 (-(j : Int) - u) = v * 2 ^ (23 - Nat.log2 v) * (1 * pow2 (-(-(j : Int) - u))) := by
    rw [Nat.one_mul, Nat.mul_assoc, Nat.mul_assoc, pow2, pow2, ← Nat.pow_add, ← Nat.pow_add]
    congr 2
    omega
  rw [magRound_of_exact hne Nat.one_pos (by rw [floorLog2_one hne, hlog]; omega) (hq rfl)]
  omega

/-! ### Past the largest number -/

/-- A number from 2^128 on is rounded to infinity (R30). -/
theorem magRound_overflow {n : Nat} {e : Int} (hn : n ≠ 0) (h : 128 ≤ (Nat.log2 n : Int) + e) :
    magRound 23 (-149) 0x7F800000 n 1 e = 0x7F800000 := by
  have hu : max (floorLog2 n 1 + e - (23 : Nat)) (-149) = (Nat.log2 n : Int) + e - 23 := by rw [floorLog2_one hn]; omega
  have hquot : 2 ^ 23 ≤ n * pow2 (23 - Nat.log2 n) / (1 * pow2 (-(23 - Nat.log2 n))) := by
    rw [Nat.le_div_iff_mul_le (Nat.mul_pos Nat.one_pos (pow2_pos _)), Nat.one_mul]
    calc 2 ^ 23 * pow2 (-(23 - Nat.log2 n)) = 2 ^ Nat.log2 n * pow2 (23 - Nat.log2 n) := by
          rw [pow2, pow2, ← Nat.pow_add, ← Nat.pow_add]; congr 1; omega
      _ ≤ n * pow2 (23 - Nat.log2 n) := Nat.mul_le_mul_right _ (Nat.log2_self_le hn)
  have hrne : 2 ^ 23 ≤ rneInt n 1 (23 - Nat.log2 n) := by
    simp only [rneInt]
    split <;> omega
  rw [magRound, if_neg hn]
  simp only [hu, show e - ((Nat.log2 n : Int) + e - 23) = 23 - Nat.log2 n by omega]
  omega

/-! ### The value of a code -/

/-- The lane of a sign and a magnitude's code (R31). -/
def signLane (neg : Bool) (code : Nat) : Lane := BitVec.ofNat 32 ((if neg then 2 ^ 31 else 0) + code)

theorem f32Val_signLane {neg : Bool} {code : Nat} (h : code < 2 ^ 31) : f32Val (signLane neg code) = ieeeVal 23 255 (-149) code neg := by
  have htoNat : (signLane neg code).toNat = (if neg then 2 ^ 31 else 0) + code := by
    rw [signLane, BitVec.toNat_ofNat, Nat.mod_eq_of_lt]
    split <;> omega
  have hmsb : (signLane neg code).msb = neg := by
    rw [BitVec.msb_eq_decide, htoNat]
    cases neg
    · exact decide_eq_false (by simpa using h)
    · exact decide_eq_true (by simp)
  rw [f32Val, hmsb, htoNat]
  congr 1
  split <;> omega

/-- The value of a normal code (R31). -/
theorem ieeeVal_normal {x f : Nat} (hx : 1 ≤ x) (hx' : x < 255) (hf : f < 2 ^ 23) (neg : Bool) :
    ieeeVal 23 255 (-149) (x * 2 ^ 23 + f) neg = .fin neg (2 ^ 23 + f) ((x : Int) - 150) := by
  have hdiv : (x * 2 ^ 23 + f) / 2 ^ 23 = x := by omega
  have hmod : (x * 2 ^ 23 + f) % 2 ^ 23 = f := by omega
  simp only [ieeeVal, hdiv, hmod]
  rw [if_neg (by omega), if_neg (by omega)]
  congr 1
  omega

/-- The value of a subnormal code (R31). -/
theorem ieeeVal_subnormal {f : Nat} (hf : f < 2 ^ 23) (neg : Bool) : ieeeVal 23 255 (-149) f neg = .fin neg f (-149) := by
  simp only [ieeeVal, Nat.div_eq_of_lt hf, Nat.mod_eq_of_lt hf]
  rfl

/-- The value of a power of two: its significand is one bit. -/
theorem f32Val_powCode {n : Int} (hlo : -149 ≤ n) (hhi : n ≤ 127) (neg : Bool) :
    ∃ a : Nat, a ≤ 23 ∧ f32Val (signLane neg (powCode n)) = .fin neg (2 ^ a) (n - a) := by
  rw [powCode]
  split
  · refine ⟨23, le_rfl, ?_⟩
    rw [f32Val_signLane (by omega), ← Nat.add_zero ((n + 127).toNat * 2 ^ 23), ieeeVal_normal (by omega) (by omega) (by decide)]
    congr 1
    omega
  · have hlt : 2 ^ (n + 149).toNat < 2 ^ 23 := Nat.pow_lt_pow_right Nat.one_lt_two (by omega)
    refine ⟨(n + 149).toNat, by omega, ?_⟩
    rw [f32Val_signLane (by omega), ieeeVal_subnormal hlt]
    congr 1
    omega

/-- The value of an integer below 2^24 is that integer, scaled. -/
theorem f32Val_intCode {v : Nat} (hlt : v < 2 ^ 24) (neg : Bool) :
    ∃ j : Nat, j ≤ 149 ∧ f32Val (signLane neg (intCode v)) = .fin neg (v * 2 ^ j) (-(j : Int)) := by
  rw [intCode]
  split
  · next hv =>
    refine ⟨149, le_rfl, ?_⟩
    rw [f32Val_signLane (by decide), ieeeVal_subnormal (by decide), hv, Nat.zero_mul]
    rfl
  · next hv =>
    obtain ⟨hL, hM, hM'⟩ := int_significand hv hlt
    refine ⟨23 - Nat.log2 v, by omega, ?_⟩
    rw [f32Val_signLane (by omega), show (Nat.log2 v + 126) * 2 ^ 23 + v * 2 ^ (23 - Nat.log2 v)
        = (Nat.log2 v + 127) * 2 ^ 23 + (v * 2 ^ (23 - Nat.log2 v) - 2 ^ 23) by omega,
      ieeeVal_normal (by omega) (by omega) (by omega), Nat.add_sub_cancel' hM,
      show ((Nat.log2 v + 127 : Nat) : Int) - 150 = -((23 - Nat.log2 v : Nat) : Int) by omega]

/-! ### Rounded lanes -/

theorem f32OfRat_two_pow {a b : Nat} {e n : Int} (hn : (a : Int) - b + e = n) (hlo : -149 ≤ n) (hhi : n ≤ 127) (neg : Bool) :
    f32OfRat neg (2 ^ a) (2 ^ b) e = signLane neg (powCode n) := by
  rw [f32OfRat, magRound_two_pow hn hlo hhi, signLane]

theorem f32OfRat_int {v : Nat} (hlt : v < 2 ^ 24) (j : Nat) (neg : Bool) :
    f32OfRat neg (v * 2 ^ j) 1 (-(j : Int)) = signLane neg (intCode v) := by
  rw [f32OfRat, magRound_int hlt, signLane]

theorem f32Of_ofInt {n : Int} (h : n.natAbs < 2 ^ 24) : f32Of (FVal.ofInt n) = signLane (decide (n < 0)) (intCode n.natAbs) := by
  have := f32OfRat_int h 0 (decide (n < 0))
  rwa [Nat.pow_zero, Nat.mul_one] at this

end Sys2Proof.Machine
end

section
/-! SUPPORT. The functions of R194 where the manual lists their results exactly: powers of two, integers, multiples of one half, inputs
past the range; the class of a code (R193, R194, R196). -/

namespace Sys2Proof.Machine

/-! ### Square roots of integers -/

/-- The bits from the top down keep the root between its bounds. -/
theorem isqrtAux_bounds {n k acc : Nat} (hlo : acc * acc ≤ n) (hhi : n < (acc + 2 ^ k) * (acc + 2 ^ k)) :
    isqrtAux n k acc * isqrtAux n k acc ≤ n ∧ n < (isqrtAux n k acc + 1) * (isqrtAux n k acc + 1) := by
  induction k generalizing acc with
  | zero => exact ⟨hlo, hhi⟩
  | succ k ih =>
    rw [isqrtAux]
    split
    · next h => exact ih h (by rwa [Nat.add_assoc, ← Nat.two_mul, ← Nat.pow_succ'])
    · next h => exact ih hlo (Nat.lt_of_not_le h)

theorem isqrt_eq_sqrt {k n : Nat} (h : n < 2 ^ k * 2 ^ k) : isqrt k n = Nat.sqrt n :=
  Nat.eq_sqrt.mpr (isqrtAux_bounds (Nat.zero_le n) (by rwa [Nat.zero_add]))

theorem isqrt_two_pow {k t : Nat} (h : t < k) : isqrt k (2 ^ t * 2 ^ t) = 2 ^ t := by
  have hlt : 2 ^ t < 2 ^ k := Nat.pow_lt_pow_right Nat.one_lt_two h
  rw [isqrt_eq_sqrt (Nat.mul_lt_mul'' hlt hlt), Nat.sqrt_eq]

/-! ### Reciprocal and reciprocal root of a power of two -/

theorem f32Rcp_two_pow {n : Int} (hlo : -127 ≤ n) (hhi : n ≤ 127) (neg : Bool) (a : Nat) :
    f32Rcp (.fin neg (2 ^ a) (n - a)) = signLane neg (powCode (-n)) := by
  rw [← f32OfRat_two_pow (a := 0) (b := a) (e := 0 - (n - a)) (by omega) (by omega) (by omega)]
  simp only [f32Rcp, f32Div, if_neg (Nat.two_pow_pos a).ne', Bool.false_bne, Nat.pow_zero]

theorem f32RsqrtFin_two_pow {n : Int} (hlo : -74 ≤ n) (hhi : n ≤ 63) {a : Nat} (ha : a ≤ 23) :
    f32RsqrtFin (2 ^ a) (2 * n - a) = signLane false (powCode (-n)) := by
  obtain ⟨j, hj⟩ : ∃ j : Nat, (a : Int) + (2 * n - a) % 2 = 2 * j := ⟨((a + (2 * n - a) % 2) / 2).toNat, by omega⟩
  have hq : 2 ^ a * pow2 ((2 * n - a) % 2) = 2 ^ j * 2 ^ j := by
    rw [pow2, ← Nat.pow_add, ← Nat.pow_add]
    congr 1
    omega
  have hbound : 2 ^ 400 = 2 ^ (200 - j) * 2 ^ (200 - j) * (2 ^ j * 2 ^ j) := by
    rw [← Nat.pow_add, ← Nat.pow_add, ← Nat.pow_add]
    congr 1
    omega
  have hroot : isqrt 240 (2 ^ 400 / (2 ^ j * 2 ^ j)) = 2 ^ (200 - j) := by
    rw [hbound, Nat.mul_div_cancel _ (Nat.mul_pos (Nat.two_pow_pos j) (Nat.two_pow_pos j)), isqrt_two_pow (by omega)]
  simp only [f32RsqrtFin, hq, hroot]
  rw [if_pos hbound.symm, Nat.add_zero, ← Nat.pow_succ', ← Nat.pow_zero 2]
  exact f32OfRat_two_pow (by omega) (by omega) (by omega) _

/-! ### Fixed point -/

theorem fxOne_eq : fxOne = 2 ^ fxBits := rfl

theorem fxOne_pos : 0 < fxOne := Nat.two_pow_pos _

theorem le_fxBits : 149 ≤ fxBits := by decide

/-- An integer at a scale that the fixed point covers is exact in it. -/
theorem fxOf_scaled (v : Nat) {j : Nat} (hj : j ≤ fxBits) : fxOf (v * 2 ^ j) (-(j : Int)) = v * fxOne := by
  have hden : (-(-(j : Int) + fxBits)).toNat = 0 := by omega
  rw [fxOf, pow2, pow2, hden, Nat.pow_zero, Nat.div_one, Nat.mul_assoc, ← Nat.pow_add, fxOne_eq]
  congr 2
  omega

theorem fxOne_le_fxExp (x : Nat) : fxOne ≤ fxExp x := by
  show fxOne ≤ expTail x (119 + 1) 1 fxOne
  rw [expTail, if_neg fxOne_pos.ne']
  exact Nat.le_add_right _ _

theorem fxExp_zero : fxExp 0 = fxOne := by decide +kernel

theorem fxLn_one : fxLn fxOne = 0 := by decide +kernel

/-! ### Powers and logarithms of 2 -/

/-- A signed multiple of one in fixed point. -/
theorem sign_mul_natAbs (n : Int) (c : Nat) :
    (if decide (n < 0) = true then -1 else 1) * ((n.natAbs * c : Nat) : Int) = n * c := by
  push_cast
  rcases lt_or_ge n 0 with h | h
  · rw [if_pos (decide_eq_true h), abs_of_neg h]; ring
  · rw [if_neg (by simpa using h), abs_of_nonneg h, one_mul]

/-- 2 to an integer in the range of FP32 is exact (R194). -/
theorem f32Exp2_int {n : Int} (hlo : -149 ≤ n) (hhi : n ≤ 127) {j : Nat} (hj : j ≤ 149) :
    f32Exp2 (.fin (decide (n < 0)) (n.natAbs * 2 ^ j) (-(j : Int))) = signLane false (powCode n) := by
  have hsmall : ¬n.natAbs * 2 ^ j * pow2 (-(j : Int)) ≥ 1024 * pow2 (-(-(j : Int))) := by
    rw [neg_neg, pow2_natCast, pow2_neg_natCast, Nat.mul_one, not_le]
    exact Nat.mul_lt_mul_of_pos_right (by omega) (Nat.two_pow_pos j)
  have hone : (fxOne : Int) ≠ 0 := by exact_mod_cast fxOne_pos.ne'
  simp only [f32Exp2, if_neg hsmall, fxOf_scaled _ (hj.trans le_fxBits), sign_mul_natAbs, Int.mul_ediv_cancel _ hone, Int.mul_emod_left,
    Int.toNat_zero, Nat.zero_mul, Nat.zero_div, fxExp_zero]
  rw [fxOne_eq, ← Nat.pow_zero 2]
  exact f32OfRat_two_pow (by omega) hlo hhi _

/-- The logarithm of a power of two is its exponent (R194). -/
theorem f32Log2_two_pow {n : Int} (h : n.natAbs < 2 ^ 24) {a : Nat} (ha : a ≤ 23) :
    f32Log2 (.fin false (2 ^ a) (n - a)) = signLane (decide (n < 0)) (intCode n.natAbs) := by
  have hfx : fxOf (2 ^ a) (-(a : Int)) = fxOne := by
    have := fxOf_scaled 1 (j := a) (by have := le_fxBits; omega)
    rwa [Nat.one_mul, Nat.one_mul] at this
  have hsign : decide (n * (fxOne : Int) < 0) = decide (n < 0) := by
    have := fxOne_pos
    rw [decide_eq_decide, mul_neg_iff]
    omega
  simp only [f32Log2, if_neg (Nat.two_pow_pos a).ne', Bool.false_eq_true, if_false, Nat.log2_two_pow, hfx, fxLn_one, Nat.zero_mul,
    Nat.zero_div, Nat.cast_zero, add_zero, add_sub_cancel, hsign, fxRound, Int.natAbs_mul, Int.natAbs_natCast]
  rw [fxOne_eq]
  exact f32OfRat_int h _ _

/-- 2 to a number from 128 on is past the largest number (R194). -/
theorem f32Exp2_big {m : Nat} {e : Int} (hm : 2 ^ 23 ≤ m) (he : -16 ≤ e) : f32Exp2 (.fin false m e) = 0x7F800000#32 := by
  have hbits := le_fxBits
  have hfx : 128 * fxOne ≤ fxOf m e := by
    have hden : (-(e + fxBits)).toNat = 0 := by omega
    rw [fxOf, pow2, pow2, hden, Nat.pow_zero, Nat.div_one]
    calc 128 * fxOne = 2 ^ 23 * 2 ^ (fxBits - 16) := by
          rw [fxOne_eq, show 128 = 2 ^ 7 from rfl, ← Nat.pow_add, ← Nat.pow_add]; congr 1
      _ ≤ m * 2 ^ (e + fxBits).toNat := Nat.mul_le_mul hm (Nat.pow_le_pow_right Nat.two_pos (by omega))
  have hquot : (128 : Int) ≤ (fxOf m e : Int) / fxOne := by exact_mod_cast (Nat.le_div_iff_mul_le fxOne_pos).mpr hfx
  simp only [f32Exp2, Bool.false_eq_true, if_false, one_mul]
  split
  · rfl
  · rw [f32OfRat, magRound_overflow]
    · rfl
    · have := fxOne_le_fxExp (((fxOf m e : Int) % fxOne).toNat * fxLn2 / fxOne)
      have := fxOne_pos
      omega
    · have hlog : fxBits ≤ Nat.log2 (fxExp (((fxOf m e : Int) % fxOne).toNat * fxLn2 / fxOne)) := by
        have hle := fxOne_le_fxExp (((fxOf m e : Int) % fxOne).toNat * fxLn2 / fxOne)
        exact (Nat.le_log2 (by have := fxOne_pos; omega)).mpr (fxOne_eq ▸ hle)
      omega

/-- Every code from that of 128 up to infinity has 2 to its value past the largest number (R194). -/
theorem f32Exp2_of_ge_128 {x : Lane} (hlo : 0x43000000 ≤ x.toNat) (hhi : x.toNat ≤ 0x7F800000) : f32Exp2 (f32Val x) = 0x7F800000#32 := by
  have hx : x = signLane false x.toNat := by simp [signLane]
  rw [hx, f32Val_signLane (by omega)]
  rcases Nat.lt_or_eq_of_le hhi with hlt | heq
  · rw [← Nat.div_add_mod' x.toNat (2 ^ 23), ieeeVal_normal (by omega) (by omega) (Nat.mod_lt _ (by decide))]
    exact f32Exp2_big (Nat.le_add_right _ _) (by omega)
  · rw [heq]
    decide +kernel

/-! ### Multiples of one half -/

/-- Half of one in fixed point. -/
def fxHalf : Nat := 2 ^ (fxBits - 1)

theorem fxOne_eq_two_mul_half : fxOne = 2 * fxHalf := by
  rw [fxOne_eq, fxHalf, ← Nat.pow_succ', Nat.succ_eq_add_one, Nat.sub_add_cancel (by decide)]

theorem fxHalf_pos : 0 < fxHalf := Nat.two_pow_pos _

/-- A multiple of one half is exact in fixed point, whatever its exponent. -/
theorem fxOf_half {m k : Nat} {e : Int} (h : m * pow2 (e + 1) = k * pow2 (-(e + 1))) : fxOf m e = fxHalf * k := by
  have hscale : pow2 (e + fxBits) * pow2 (-(e + 1)) = pow2 (e + 1) * (fxHalf * pow2 (-(e + fxBits))) := by
    have := le_fxBits
    simp only [pow2, fxHalf, ← Nat.pow_add]
    congr 1
    omega
  refine Nat.div_eq_of_eq_mul_left (pow2_pos _) (Nat.eq_of_mul_eq_mul_right (pow2_pos (-(e + 1))) ?_)
  calc m * pow2 (e + fxBits) * pow2 (-(e + 1)) = m * pow2 (e + 1) * (fxHalf * pow2 (-(e + fxBits))) := by
        rw [Nat.mul_assoc, hscale, Nat.mul_assoc]
    _ = fxHalf * k * pow2 (-(e + fxBits)) * pow2 (-(e + 1)) := by rw [h]; ring

/-- The place of a multiple of one half in its turn. -/
theorem piPlace_half {m k : Nat} {e : Int} (h : m * pow2 (e + 1) = k * pow2 (-(e + 1))) :
    piPlace m e = (decide (2 ≤ k % 4), fxHalf * (k % 2)) := by
  have hturn : fxHalf * k % (2 * fxOne) = fxHalf * (k % 4) := by
    rw [fxOne_eq_two_mul_half, show 2 * (2 * fxHalf) = fxHalf * 4 by omega, Nat.mul_mod_mul_left]
  have hplace : fxHalf * (k % 4) % fxOne = fxHalf * (k % 2) := by
    rw [fxOne_eq_two_mul_half, Nat.mul_comm 2, Nat.mul_mod_mul_left, Nat.mod_mod_of_dvd k (by decide)]
  have hodd : fxHalf * (k % 4) ≥ fxOne ↔ 2 ≤ k % 4 := by
    rw [fxOne_eq_two_mul_half, Nat.mul_comm 2]
    exact Nat.mul_le_mul_left_iff fxHalf_pos
  simp only [piPlace, fxOf_half h, hturn, hplace, hodd]

section
variable {m k : Nat} {e : Int}

/-- At an integer the sine is a zero with the sign of x, the cosine 1 or -1 (R194). -/
theorem f32SinPi_even (h : m * pow2 (e + 1) = k * pow2 (-(e + 1))) (hk : k % 2 = 0) (neg : Bool) :
    f32SinPi (.fin neg m e) = f32Of (.fin neg 0 0) := by
  simp only [f32SinPi, piPlace_half h, hk, Nat.mul_zero, if_true]

theorem f32CosPi_even (h : m * pow2 (e + 1) = k * pow2 (-(e + 1))) (hk : k % 2 = 0) (neg : Bool) :
    f32CosPi (.fin neg m e) = f32Of (.fin (decide (2 ≤ k % 4)) 1 0) := by
  simp only [f32CosPi, piPlace_half h, hk, Nat.mul_zero, if_true]

/-- Half way between integers the sine is 1 or -1, the cosine a positive zero (R194). -/
theorem f32SinPi_odd (h : m * pow2 (e + 1) = k * pow2 (-(e + 1))) (hk : k % 2 = 1) (neg : Bool) :
    f32SinPi (.fin neg m e) = f32Of (.fin (neg != decide (2 ≤ k % 4)) 1 0) := by
  simp only [f32SinPi, piPlace_half h, hk, Nat.mul_one, if_neg fxHalf_pos.ne', fxOne_eq_two_mul_half, if_true]

theorem f32CosPi_odd (h : m * pow2 (e + 1) = k * pow2 (-(e + 1))) (hk : k % 2 = 1) (neg : Bool) :
    f32CosPi (.fin neg m e) = f32Of (.fin false 0 0) := by
  simp only [f32CosPi, piPlace_half h, hk, Nat.mul_one, if_neg fxHalf_pos.ne', fxOne_eq_two_mul_half, if_true]

end

theorem f32Of_zero (neg : Bool) : f32Of (.fin neg 0 0) = if neg then 0x80000000#32 else 0#32 := by cases neg <;> rfl

theorem f32Of_one (neg : Bool) : f32Of (.fin neg 1 0) = if neg then 0xBF800000#32 else 0x3F800000#32 := by
  cases neg <;> decide +kernel

/-- 1 or -1 by the parity of a count of half turns. -/
theorem f32Of_one_of_parity {neg : Bool} {n : Nat} (h : neg = true ↔ n % 2 = 1) :
    f32Of (.fin neg 1 0) = if n % 2 = 0 then 0x3F800000#32 else 0xBF800000#32 := by
  rw [f32Of_one]
  by_cases hn : n % 2 = 0
  · rw [if_neg (fun hneg => by have := h.mp hneg; omega), if_pos hn]
  · rw [if_pos (h.mpr (by omega)), if_neg hn]

/-! ### Classes -/

/-- The class of a code, read off its sign, exponent and fraction (R196). -/
theorem f32Class_eq (x : Lane) : f32Class x =
    if x.extractLsb' 23 8 = 255 then (if x.extractLsb' 0 23 ≠ 0 then 8 else if x.getLsbD 31 then 0 else 7)
    else if x.extractLsb' 23 8 = 0 then
      (if x.extractLsb' 0 23 = 0 then (if x.getLsbD 31 then 3 else 4) else if x.getLsbD 31 then 2 else 5)
    else if x.getLsbD 31 then 1 else 6 := by
  have hfrac : (x.extractLsb' 0 23).toNat = x.toNat % 2 ^ 31 % 2 ^ 23 := by
    rw [BitVec.extractLsb'_toNat, Nat.shiftRight_zero]; omega
  have hexp : (x.extractLsb' 23 8).toNat = x.toNat % 2 ^ 31 / 2 ^ 23 := by
    rw [BitVec.extractLsb'_toNat, Nat.shiftRight_eq_div_pow]; omega
  have hlt := (x.extractLsb' 0 23).isLt
  have h255 : x.extractLsb' 23 8 = 255 ↔ (x.extractLsb' 23 8).toNat = 255 := BitVec.toNat_inj.symm
  have h0 : x.extractLsb' 23 8 = 0 ↔ (x.extractLsb' 23 8).toNat = 0 := BitVec.toNat_inj.symm
  have hf0 : x.extractLsb' 0 23 = 0 ↔ (x.extractLsb' 0 23).toNat = 0 := BitVec.toNat_inj.symm
  rw [f32Class, f32Val, ieeeVal, ← hfrac, ← hexp, BitVec.msb_eq_getLsbD_last]
  simp only [h255, h0, hf0, ne_eq]
  generalize (x.extractLsb' 0 23).toNat = f at hlt ⊢
  generalize (x.extractLsb' 23 8).toNat = c
  by_cases hc : c = 255
  · by_cases hf : f = 0 <;> simp only [hc, hf, if_true, if_false, not_true_eq_false, not_false_eq_true]
  · by_cases hc0 : c = 0
    · by_cases hf : f = 0 <;> simp [hc0, hf, hlt]
    · simp only [hc, hc0, if_false, show ¬2 ^ 23 + f = 0 by omega, show ¬2 ^ 23 + f < 2 ^ 23 by omega]

/-! ### The statement -/

theorem signLane_false (code : Nat) : signLane false code = BitVec.ofNat 32 code := congrArg (BitVec.ofNat 32) (Nat.zero_add code)

theorem signLane_true (code : Nat) : signLane true code = signLane false code ^^^ 0x80000000#32 := by
  rw [← ofNat_add_sign, BitVec.ofNat_add, BitVec.ofNat_toNat, BitVec.setWidth_eq, signLane_false, ← BitVec.ofNat_add, Nat.add_comm]
  rfl

/-- Negative values other than zero have no root and no logarithm (R193, R194). -/
theorem functions_of_negative {m : Nat} (hm : m ≠ 0) (e : Int) : f32Rsqrt (.fin true m e) = 0x7FC00000#32
    ∧ f32Log2 (.fin true m e) = 0x7FC00000#32 ∧ f32Sqrt (.fin true m e) = 0x7FC00000#32 := by
  simp only [f32Rsqrt, f32Log2, f32Sqrt, if_neg hm, if_true, f32Of, and_self]

/-- Settles O11: each function merges its value lane by lane; the values listed are those of zeros, infinities, powers of two, integers
and multiples of one half, which the fixed point holds exactly. -/
theorem vectorFunctionResults : Obligations.VectorFunctionResults := by
  unfold Obligations.VectorFunctionResults
  refine ⟨fun s d a mk => ⟨mergesV s d mk _ _ _, mergesV s d mk _ _ _, mergesV s d mk _ _ _, mergesV s d mk _ _ _, mergesV s d mk _ _ _,
    mergesV s d mk _ _ _, mergesV s d mk _ _ _, mergesV s d mk _ _ _⟩, ?nan, ?zeros,
    fun m e hm => functions_of_negative hm e, ?powers, fun x => f32Exp2_of_ge_128, fun neg m k e h => ?halves, f32Class_eq⟩
  case nan =>
    simp only [List.forall_mem_cons]
    exact ⟨rfl, rfl, rfl, rfl, rfl, rfl, rfl, rfl, fun _ h => absurd h List.not_mem_nil⟩
  case zeros =>
    intro neg
    cases neg <;> decide +kernel
  case powers =>
    intro two int minus
    have htwo (n : Int) : two n = signLane false (powCode n) := by
      rw [signLane_false, powCode, apply_ite (BitVec.ofNat 32)]
    have hminus (n : Int) : minus (two n) = signLane true (powCode n) := by rw [htwo, signLane_true]
    have hint (n : Int) (h : n.natAbs < 2 ^ 24) : int n = signLane (decide (n < 0)) (intCode n.natAbs) := f32Of_ofInt h
    refine ⟨fun n hlo hhi => ?rcp, fun n hlo hhi => ?rsqrt, fun n hlo hhi => ⟨?exp2, ?log2⟩, by decide +kernel⟩
    case rcp =>
      have hrcp (neg : Bool) : f32Rcp (f32Val (signLane neg (powCode n))) = signLane neg (powCode (-n)) := by
        obtain ⟨a, -, h⟩ := f32Val_powCode (by omega) hhi neg
        rw [h, f32Rcp_two_pow hlo hhi]
      rw [hminus, hminus, htwo, htwo]
      exact ⟨hrcp false, hrcp true⟩
    case rsqrt =>
      obtain ⟨a, ha, h⟩ := f32Val_powCode (n := 2 * n) (by omega) (by omega) false
      rw [htwo, htwo, h, f32Rsqrt, if_neg (Nat.two_pow_pos a).ne']
      exact f32RsqrtFin_two_pow hlo hhi ha
    case exp2 =>
      obtain ⟨j, hj, h⟩ := f32Val_intCode (v := n.natAbs) (by omega) (decide (n < 0))
      rw [hint n (by omega), h, htwo, f32Exp2_int hlo hhi hj]
    case log2 =>
      obtain ⟨a, ha, h⟩ := f32Val_powCode hlo hhi false
      rw [htwo, h, hint n (by omega), f32Log2_two_pow (by omega) ha]
  case halves =>
    refine ⟨fun hk => ⟨?_, ?_⟩, fun hk => ⟨?_, ?_⟩⟩
    · rw [f32SinPi_even h hk, f32Of_zero]
    · rw [f32CosPi_even h hk]
      refine f32Of_one_of_parity ?_
      rw [decide_eq_true_eq]
      split <;> omega
    · rw [f32SinPi_odd h hk]
      refine f32Of_one_of_parity ?_
      cases neg with
      | false => simp only [Bool.false_bne, decide_eq_true_eq, Bool.false_eq_true, if_false]; omega
      | true => simp only [Bool.true_bne, Bool.not_eq_true', decide_eq_false_iff_not, if_true]; omega
    · rw [f32CosPi_odd h hk]
      rfl

end Sys2Proof.Machine
end

section
/-! SUPPORT. The lease of an insula's array as the core that holds it and the array see it: taken, spent, ended; the checks of the array
instructions; the calibration of an array (R215, R218-R222, R229). -/

namespace Sys2Proof.Machine

/-! ### The array of the issuing core -/

section
variable (s : State) (f : Core → Core) (g : Arr → Arr)

/-- The issuing core and the array of its insula changed together. -/
def State.onRun : State := (s.onHere f).onArrHere g

@[simp] theorem State.here_onArrHere : (s.onArrHere g).here = s.here := rfl
@[simp] theorem State.me_onArrHere : (s.onArrHere g).me = s.me := rfl
@[simp] theorem State.mem_onArrHere : (s.onArrHere g).mem = s.mem := rfl
@[simp] theorem State.arrHere_onArrHere : (s.onArrHere g).arrHere = g s.arrHere := Hw.arr_onArr _ _ _ _
@[simp] theorem State.arrHere_onHere : (s.onHere f).arrHere = s.arrHere := rfl

@[simp] theorem State.here_onRun : (s.onRun f g).here = f s.here := s.here_onHere f
@[simp] theorem State.arrHere_onRun : (s.onRun f g).arrHere = g s.arrHere := State.arrHere_onArrHere _ g

theorem State.me_onRun (hf : ∀ k e, (f k).eng e = k.eng e) : (s.onRun f g).me = s.me := by
  rw [State.me, State.here_onRun, hf]
  rfl

theorem State.onlyArr_onArrHere : s.OnlyArr (s.onArrHere g) := ⟨rfl, fun _ _ => rfl, fun _ _ d => Hw.arr_setArr_other _ _ d⟩

theorem State.onlyArr_onRun : s.OnlyArr (s.onRun f g) :=
  ⟨rfl, fun _ d => Hw.core_setCore_other _ _ d, fun _ _ d => Hw.arr_setArr_other _ _ d⟩

end

/-! ### The lease -/

/-- A core whose lease is granted for `n` tile commands (R218). -/
def Core.takeLease (n : BitVec 7) (k : Core) : Core := { k with leaseHeld := true, leaseLeft := n, leaseRuns := k.leaseRuns + 1 }

/-- A core whose run has ended (R218). -/
def Core.dropLease (k : Core) : Core := { k with leaseHeld := false, leaseLeft := 0 }

/-- An array whose run has ended (R218). -/
def Arr.endRun (a : Arr) : Arr := { a with leased := false, loaded := none }

theorem Core.eng_takeLease (n : BitVec 7) (k : Core) (e : EngId) : (k.takeLease n).eng e = k.eng e := by cases e <;> rfl

theorem Core.eng_dropLease (k : Core) (e : EngId) : k.dropLease.eng e = k.eng e := by cases e <;> rfl

theorem State.upd_endRun (s : State) : s.upd (fun h => h.endRun s.ix.co) = s.onRun Core.dropLease Arr.endRun := rfl

theorem Arr.openTo_iff {a : Arr} {pos : Nat} : a.openTo pos = true ↔ if a.leased then a.holder.toNat = pos else a.waiting = [] := by
  rw [Arr.openTo]
  split <;> simp

theorem Arr.holder_grant (a : Arr) (co : CoreId) : (a.grant (CoreId.pos co)).holder.toNat = CoreId.pos co := by
  rw [Arr.grant, BitVec.toNat_ofNat]
  exact Nat.mod_mod _ _

/-- The array, as it stood before the group, is open to the issuing core (R65, R220). -/
def State.mayLease (s : State) : Bool := (s.prior.arr s.ix.co.isle (CoreId.ins s.ix.co)).openTo (CoreId.pos s.ix.co)

section
variable {s : State} {n : BitVec 7}

theorem traps_execLease_off (h : s.arrHere.segs = 0) : Traps s 0x36 (execLease n s) := by
  rw [execLease, State.checkCal, State.checkCalAs, Arr.calNow, if_pos h]
  exact traps_settle_bind s _ _ _ _

/-- On an array in service a lease comes to its own conditions: none held, then the grant (R218, R219). -/
theorem execLease_eq (hsegs : s.arrHere.segs ≠ 0) (hcal : s.arrHere.cal ≠ 4) : execLease n s = settle s (do
    trapIf s.herePrior.leaseHeld 0x35 0 s.leaseDetail
    blockUnless s.mayLease
    .ok (s.onRun (Core.takeLease n) (fun a => a.grant (CoreId.pos s.ix.co)))) := by
  rw [execLease, State.checkCal_ok hsegs hcal, ok_bind]
  rfl

theorem execLease_next (hsegs : s.arrHere.segs ≠ 0) (hcal : s.arrHere.cal ≠ 4) (hnone : s.herePrior.leaseHeld = false)
    (hopen : s.mayLease = true) :
    execLease n s = .next (s.onRun (Core.takeLease n) (fun a => a.grant (CoreId.pos s.ix.co))) := by
  rw [execLease_eq hsegs hcal, trapIf_false hnone, ok_bind, blockUnless_true hopen, ok_bind, settle_done]

theorem blocks_execLease (hsegs : s.arrHere.segs ≠ 0) (hcal : s.arrHere.cal ≠ 4) (hnone : s.herePrior.leaseHeld = false)
    (hshut : s.mayLease = false) : Blocks s (execLease n s) := by
  rw [execLease_eq hsegs hcal, trapIf_false hnone, ok_bind, blockUnless_false hshut]
  exact blocks_settle s

theorem traps_execLease_held (hsegs : s.arrHere.segs ≠ 0) (hcal : s.arrHere.cal ≠ 4) (hheld : s.herePrior.leaseHeld = true) :
    Traps s 0x35 (execLease n s) := by
  rw [execLease_eq hsegs hcal, trapIf_true hheld]
  exact traps_settle_bind s _ _ _ _

theorem execUnlease_next (h : s.herePrior.leaseHeld = true) : execUnlease s = .next (s.onRun Core.dropLease Arr.endRun) := by
  rw [execUnlease, trapIf_false (by rw [h]; rfl), ok_bind, State.upd_endRun, settle_done]

theorem traps_execUnlease (h : s.herePrior.leaseHeld = false) : Traps s 0x35 (execUnlease s) := by
  rw [execUnlease, trapIf_true (by rw [h]; rfl)]
  exact traps_settle_bind s _ _ _ _

end

/-! ### Calibration -/

/-- Some core of the insula has a tile or race pending. -/
theorem Hw.arrBusy_iff {h : Hw} {isle ins : Nat} :
    h.arrBusy isle ins = true ↔ ∃ i, i < 4 ∧ (h.core ⟨isle, 4 * ins + i⟩).pendingArr ≠ 0 := by
  simp [Hw.arrBusy, Nat.pos_iff_ne_zero]

/-- An array whose calibration begins: the position that waits, the segments, the register that gets the outcome (R229). -/
def Arr.calibrate (pos : Nat) (segs : BitVec 4) (d : BitVec 6) (a : Arr) : Arr :=
  { a with cal := 2, loaded := none, calib := some (pos, if segs = 0 then a.segs.toNat else (segs &&& a.segs).toNat, d) }

section
variable {s : State} {d : BitVec 6} {segs : BitVec 4}

/-- Code that is no calibration task's, or has no sy, may not calibrate (R231). -/
theorem traps_execTcal_task (h : ¬(s.task.calib = true ∧ s.me.pcc.has pSy = true)) : Traps s 0x12 (execTcal d segs s) := by
  rw [execTcal, trapIf_true (by simpa [imp_iff_not_or] using h)]
  exact traps_settle_bind s _ _ _ _

/-- A calibration task on an array in service comes to the array's own condition: quiet (R229). -/
theorem execTcal_eq (hmay : s.task.calib = true ∧ s.me.pcc.has pSy = true) (hsegs : s.arrHere.segs ≠ 0) (hcal : s.arrHere.cal ≠ 4) :
    execTcal d segs s = settle s (do
      trapIf (s.arrHere.leased || s.toHw.arrBusy s.ix.co.isle (CoreId.ins s.ix.co)) 0x35 0 s.leaseDetail
      .ok (s.onArrHere (Arr.calibrate (CoreId.pos s.ix.co) segs d))) := by
  obtain ⟨hcalib, hsy⟩ := hmay
  rw [execTcal, trapIf_false (by rw [hcalib, hsy]; rfl), ok_bind, State.checkCal_ok hsegs hcal, ok_bind]
  rfl

theorem execTcal_next (hmay : s.task.calib = true ∧ s.me.pcc.has pSy = true) (hsegs : s.arrHere.segs ≠ 0) (hcal : s.arrHere.cal ≠ 4)
    (hfree : s.arrHere.leased = false) (hquiet : s.toHw.arrBusy s.ix.co.isle (CoreId.ins s.ix.co) = false) :
    execTcal d segs s = .next (s.onArrHere (Arr.calibrate (CoreId.pos s.ix.co) segs d)) := by
  rw [execTcal_eq hmay hsegs hcal, trapIf_false (by rw [hfree, hquiet]; rfl), ok_bind, settle_done]

theorem traps_execTcal_busy (hmay : s.task.calib = true ∧ s.me.pcc.has pSy = true) (hsegs : s.arrHere.segs ≠ 0)
    (hcal : s.arrHere.cal ≠ 4) (hbusy : s.arrHere.leased = true ∨ s.toHw.arrBusy s.ix.co.isle (CoreId.ins s.ix.co) = true) :
    Traps s 0x35 (execTcal d segs s) := by
  rw [execTcal_eq hmay hsegs hcal, trapIf_true (Bool.or_eq_true_iff.mpr hbusy)]
  exact traps_settle_bind s _ _ _ _

end

/-- Settles O41: each instruction of the lease by what the core held and whom the array was open to before the group, the format table
by its entry, and tcal by its task and the insula's pending work. -/
theorem leasesAndFormats : Obligations.LeasesAndFormats := by
  unfold Obligations.LeasesAndFormats
  intro s a d n f segs arr before pos mine quiet calOk may
  have hmine : mine ↔ s.mayLease = true := Arr.openTo_iff.symm
  have hquiet (g : Core → Core) (r : Arr → Arr) (heng : ∀ k e, (g k).eng e = k.eng e) (hcu : (g s.here).cu = s.here.cu) :
      quiet (s.onRun g r) :=
    ⟨s.me_onRun g r heng, by rw [State.here_onRun, hcu], fun _ => rfl, s.onlyArr_onRun g r⟩
  simp only [exec_lease, exec_unlease, exec_ftset, exec_ftget, exec_tcal]
  refine ⟨?granted, fun hcal hnone hnot => blocks_execLease hcal.1 hcal.2 hnone (Bool.eq_false_iff.mpr (hmine.not.mp hnot)),
    fun hcal hheld => traps_execLease_held hcal.1 hcal.2 hheld, traps_execLease_off, ?ends, traps_execUnlease, ?sets,
    fun ha => traps_gUse ha _, ?reads, ?calibrates, fun hmay hcal hleased => traps_execTcal_busy hmay hcal.1 hcal.2 (.inl hleased),
    fun hmay hcal hpend => traps_execTcal_busy hmay hcal.1 hcal.2 (.inr (Hw.arrBusy_iff.mpr hpend)), traps_execTcal_task⟩
  case granted =>
    intro hcal hnone hgrant
    refine ⟨_, execLease_next hcal.1 hcal.2 hnone (hmine.mp hgrant), hquiet _ _ (Core.eng_takeLease n) rfl, ?_⟩
    rw [State.here_onRun, State.arrHere_onRun]
    exact ⟨rfl, rfl, rfl, rfl, Arr.holder_grant _ _, rfl⟩
  case ends =>
    intro hheld
    refine ⟨_, execUnlease_next hheld, hquiet _ _ Core.eng_dropLease rfl, ?_⟩
    rw [State.here_onRun, State.arrHere_onRun]
    exact ⟨rfl, rfl, rfl, rfl, rfl, rfl⟩
  case sets =>
    intro ha
    rw [execFtset, State.gUse_ok ha]
    exact becomes_onCu s _
  case reads =>
    rw [BitVec.ofNat_toNat]
    exact writesG s d _
  case calibrates =>
    intro hmay hcal hfree hpend
    have hidle : s.toHw.arrBusy s.ix.co.isle (CoreId.ins s.ix.co) = false :=
      Bool.eq_false_iff.mpr fun hbusy => by
        obtain ⟨i, hi, hne⟩ := Hw.arrBusy_iff.mp hbusy
        exact hne (hpend i hi)
    refine ⟨_, execTcal_next hmay hcal.1 hcal.2 hfree hidle, ⟨s.me_onArrHere _, rfl, fun _ => rfl, s.onlyArr_onArrHere _⟩,
      s.here_onArrHere _, ?_⟩
    rw [State.arrHere_onArrHere, Arr.calibrate, apply_ite BitVec.toNat]
    exact ⟨rfl, rfl, rfl⟩

end Sys2Proof.Machine
end

section
/-! SUPPORT. Tile commands: their operands and bank groups, the checks of R223 in their order, the lease that they spend, the B operand
that is loaded, the landing slot of a tile (R206, R207, R216, R218, R221-R226). -/

namespace Sys2Proof.Machine

/-! ### Bank groups -/

/-- Of an extent that touches a bank group some place lies in the group (R207). -/
theorem exists_of_testBit_bankGroups {a n g : Nat} (hg : g < 8) (h : (bankGroups a n).testBit g = true) :
    ∃ i, a ≤ i ∧ i < a + n ∧ i / 65536 = g := by
  rw [bankGroups, packBits_testBit _ _ _ _ hg, Nat.zero_add] at h
  simp only [Bool.and_eq_true, decide_eq_true_eq] at h
  exact ⟨max a (g * 65536), by omega, by omega, by omega⟩

/-- Extents no places of which share a bank group touch no group in common. -/
theorem bankGroups_disjoint {a n b m : Nat}
    (h : ∀ i j, a ≤ i → i < a + n → b ≤ j → j < b + m → i / 65536 ≠ j / 65536) :
    BitVec.ofNat 8 (bankGroups a n) &&& BitVec.ofNat 8 (bankGroups b m) = 0 := by
  refine BitVec.eq_of_getLsbD_eq fun g hg => ?_
  rw [BitVec.ofNat_eq_ofNat, BitVec.getLsbD_zero]
  refine Bool.eq_false_iff.mpr fun hboth => ?_
  simp only [BitVec.getLsbD_and, BitVec.getLsbD_ofNat, Bool.and_eq_true] at hboth
  obtain ⟨⟨-, ha⟩, -, hb⟩ := hboth
  obtain ⟨i, hai, hia, hi⟩ := exists_of_testBit_bankGroups hg ha
  obtain ⟨j, hbj, hjb, hj⟩ := exists_of_testBit_bankGroups hg hb
  exact h i j hai hia hbj hjb (hi.trans hj.symm)

/-! ### Operands -/

/-- An operand of `n` bytes through c8 lies at offset `a` of local memory, passes R81 as a load and is aligned (R206, R223). -/
def State.LocalOperand (s : State) (ea : Int) (a n : Nat) : Prop :=
  ea = a ∧ (s.c 8).Allows [1] pLd a n ∧ a + n ≤ 2 ^ 19 ∧ a % 64 = 0

section
variable {s : State}

theorem State.tileLocal_ok {ea : Int} {a n : Nat} (h : s.LocalOperand ea a n) : s.tileLocal ea n = .ok a := by
  obtain ⟨rfl, hallow, hin, -⟩ := h
  exact checkOwn_ok hallow (by decide) hin 8

theorem State.tileAlign_ok {a : Nat} (h : a % 64 = 0) (reg n : Nat) : s.tileAlign reg a n = .ok () :=
  trapIf_false (by rw [h]; rfl) _ _ _

/-- The checks of a tile's operands: B, then A from local or from global memory, alignment, bank groups (R223 steps 6 to 8). -/
def State.tileOperands (s : State) (ga : Bool) (f : TileFmt) (k m : Nat) (aa ab : BitVec 6) : Chk TileOps := do
  let nb := extentB f.prof f.scaled
  let na := extentA f.prof m f.scaled
  let gx := (s.g aa).bits
  let gb := (s.g ab).bits
  let b ← s.tileLocal (s.c8Addr gb) nb
  let a ← if ga then do
      checkCap 10 (s.c 10) [3] pLd (s.xEa 10 aa) na
      .ok (s.xEa 10 aa).toNat
    else s.tileLocal (s.c8Addr gx) na
  s.tileAlign 8 b nb
  s.tileAlign (if ga then 10 else 8) a na
  trapIf (!ga && BitVec.ofNat 8 (bankGroups a na) &&& BitVec.ofNat 8 (bankGroups b nb) != 0) 0x30 0
    (detField 32 8 gx.toNat ||| detField 40 8 gb.toNat ||| detField 48 1 (bankGroups a na) ||| detField 49 1 (bankGroups b nb))
  .ok { fmt := f, k := k, a := a, b := b, rawB := offsetOf gb }

variable {f : TileFmt} {m a b : Nat} {aa ab : BitVec 6}

/-- Two local operands in different bank groups pass (R207). -/
theorem State.tileOperands_local (hb : s.LocalOperand (s.c8Addr (s.g ab).bits) b (extentB f.prof f.scaled))
    (ha : s.LocalOperand (s.c8Addr (s.g aa).bits) a (extentA f.prof m f.scaled))
    (hapart : ∀ i j, a ≤ i → i < a + extentA f.prof m f.scaled → b ≤ j → j < b + extentB f.prof f.scaled →
      i / 65536 ≠ j / 65536)
    (k : Nat) : s.tileOperands false f k m aa ab = .ok ⟨f, k, a, b, offsetOf (s.g ab).bits⟩ := by
  simp only [State.tileOperands, State.tileLocal_ok hb, State.tileLocal_ok ha, State.tileAlign_ok hb.2.2.2, State.tileAlign_ok ha.2.2.2,
    bankGroups_disjoint hapart, ok_bind, Bool.false_eq_true, if_false, bne_self_eq_false, Bool.and_false, trapIf_false]

/-- An A operand of global memory shares no bank group with B (R226). -/
theorem State.tileOperands_global (hb : s.LocalOperand (s.c8Addr (s.g ab).bits) b (extentB f.prof f.scaled)) (hea : s.xEa 10 aa = a)
    (hallow : (s.c 10).Allows [3] pLd a (extentA f.prof m f.scaled)) (halign : a % 64 = 0) (k : Nat) :
    s.tileOperands true f k m aa ab = .ok ⟨f, k, a, b, offsetOf (s.g ab).bits⟩ := by
  simp only [State.tileOperands, State.tileLocal_ok hb, hea, checkCap_ok hallow, Int.toNat_natCast, State.tileAlign_ok hb.2.2.2,
    State.tileAlign_ok halign, ok_bind, if_true, Bool.not_true, Bool.false_and, trapIf_false]

end

/-! ### The lease of a tile command -/

/-- The core held the lease before the group, with room for the group's tile commands (R218). -/
def State.LeaseRoom (s : State) : Prop := s.herePrior.leaseHeld = true ∧ s.ix.tiles ≤ s.herePrior.leaseLeft.toNat

theorem State.checkLease_ok {s : State} (h : s.LeaseRoom) : s.checkLease = .ok () := by
  obtain ⟨hheld, hroom⟩ := h
  exact trapIf_false (by rw [hheld, decide_eq_false (Nat.not_lt.mpr hroom)]; rfl) _ _ _

theorem State.trapsWith_checkLease {s : State} (h : ¬s.LeaseRoom) : TrapsWith 0x35 s.checkLease := by
  refine trapsWith_trapIf ?_ _ _ _
  simpa [State.LeaseRoom, imp_iff_not_or] using h

/-- A core that has counted one tile command of its lease (R218). -/
def Core.countTile (k : Core) : Core := { k with leaseLeft := k.leaseLeft - 1 }

/-- A core that has spent one tile command of its lease, which ends with the last (R218). -/
def Core.spendLease (k : Core) : Core :=
  { k with leaseLeft := k.leaseLeft - 1, leaseHeld := k.leaseHeld && decide (k.leaseLeft - 1 ≠ 0) }

@[simp] theorem Core.spendLease_left (k : Core) : k.spendLease.leaseLeft = k.leaseLeft - 1 := rfl
@[simp] theorem Core.spendLease_held (k : Core) :
    k.spendLease.leaseHeld = (k.leaseHeld && decide (k.leaseLeft - 1 ≠ 0)) := rfl
@[simp] theorem Core.spendLease_cu (k : Core) : k.spendLease.cu = k.cu := rfl
@[simp] theorem Core.spendLease_slots (k : Core) : k.spendLease.slots = k.slots := rfl

theorem Core.dropLease_countTile {k : Core} (h : k.leaseLeft - 1 = 0) : k.countTile.dropLease = k.spendLease := by
  rw [Core.spendLease, h, decide_eq_false (not_not_intro rfl), Bool.and_false]
  rfl

theorem Core.countTile_eq {k : Core} (h : k.leaseLeft - 1 ≠ 0) : k.countTile = k.spendLease := by
  rw [Core.spendLease, decide_eq_true h, Bool.and_true]
  rfl

section
variable (s : State)

/-- A tile command is counted, and with the last of its run the run ends (R218). -/
theorem State.spendLease_eq : s.spendLease =
    if s.here.leaseLeft - 1 = 0 then (s.onHere Core.countTile).onRun Core.dropLease Arr.endRun else s.onHere Core.countTile := by
  simp only [State.spendLease, State.here_onHere]
  rfl

theorem State.here_spendLease : s.spendLease.here = s.here.spendLease := by
  rw [State.spendLease_eq]
  split
  · next hlast => rw [State.here_onRun, State.here_onHere, Core.dropLease_countTile hlast]
  · next hmore => rw [State.here_onHere, Core.countTile_eq hmore]

theorem State.mem_spendLease : s.spendLease.mem = s.mem := by
  rw [State.spendLease_eq]
  split <;> rfl

theorem State.loaded_spendLease :
    s.spendLease.arrHere.loaded = if s.here.leaseLeft - 1 = 0 then none else s.arrHere.loaded := by
  rw [State.spendLease_eq]
  split
  · rw [State.arrHere_onRun, Arr.endRun]
  · rw [State.arrHere_onHere]

end

/-! ### tload -/

/-- An array with another B operand loaded. -/
def Arr.load (l : LoadedB) (a : Arr) : Arr := { a with loaded := some l }

/-- The instruction in issue with other records to raise after its group. -/
def State.noteAfter (s : State) (rs : List TrapRec) : State := { s with ix := { s.ix with after := rs } }

@[simp] theorem State.here_noteAfter (s : State) (rs : List TrapRec) : (s.noteAfter rs).here = s.here := rfl
@[simp] theorem State.arrHere_noteAfter (s : State) (rs : List TrapRec) : (s.noteAfter rs).arrHere = s.arrHere := rfl
@[simp] theorem State.mem_noteAfter (s : State) (rs : List TrapRec) : (s.noteAfter rs).mem = s.mem := rfl

section
variable {s : State} {ab : BitVec 6} {prof rows : BitVec 8} {f : TileFmt} {b : Nat}

/-- A `tload` that passes sets the run's B operand; a mark met in it is raised after the group (R224, R302). -/
theorem execTload_next (hsegs : s.arrHere.segs ≠ 0) (hcal : s.arrHere.cal ≠ 4) (hclean : (s.g ab).psn = false) (hlease : s.LeaseRoom)
    (hf : s.resolve prof rows.toNat rows.toNat = .ok f) (hrows : rows.toNat ≤ 64)
    (hb : s.LocalOperand (s.c8Addr (s.g ab).bits) b (extentB f.prof f.scaled)) :
    ∃ rs, execTload ab prof rows s = .next ((s.onArrHere (Arr.load
      ⟨(s.g ab).bits.toNat, CoreId.pos s.ix.co, rows.toNat, f.prof, f.bfmt, f.scale⟩)).spendLease.noteAfter rs) := by
  rw [execTload, State.gUse_ok hclean, ok_bind, State.checkCalAs_ok hsegs hcal, ok_bind, State.checkLease_ok hlease, ok_bind, hf, ok_bind,
    trapIf_false (decide_eq_false (Nat.not_lt.mpr hrows)), ok_bind]
  simp only [State.tileLocal_ok hb, State.tileAlign_ok hb.2.2.2, ok_bind]
  cases s.toHw.markOff s.ix.co b (extentB f.prof f.scaled) with
  | none => exact ⟨_, rfl⟩
  | some off => exact ⟨_, rfl⟩

theorem traps_execTload_lease (hsegs : s.arrHere.segs ≠ 0) (hcal : s.arrHere.cal ≠ 4) (hclean : (s.g ab).psn = false)
    (hlease : ¬s.LeaseRoom) : Traps s 0x35 (execTload ab prof rows s) :=
  (TrapsWith.of_ok (State.gUse_ok hclean) (.of_ok (State.checkCalAs_ok hsegs hcal _)
    ((State.trapsWith_checkLease hlease).bind _))).traps s

end

/-! ### The checks of a tile -/

/-- A tile command passes the checks of R223 that come before its operands: the array in service, clean registers, a lease with room,
a resolved profile, accumulator slots and cell steps that exist, and the loaded B of the same place and format. -/
structure State.TileReady (s : State) (slot : BitVec 4) (aa ab : BitVec 6) (prof rows : BitVec 8) (cops : BitVec 32) (f : TileFmt)
    (lb : LoadedB) : Prop where
  segs : s.arrHere.segs ≠ 0
  cal : s.arrHere.cal ≠ 4
  cleanA : (s.g aa).psn = false
  cleanB : (s.g ab).psn = false
  lease : s.LeaseRoom
  fmt : s.resolve prof lb.k rows.toNat = .ok f
  fits : slot.toNat + (rows.toNat + 7) / 8 ≤ 16
  steps : ∀ i, i < 16 → copsStep cops i ∈ profSteps f.prof
  loaded : (s.prior.arr s.ix.co.isle (CoreId.ins s.ix.co)).loaded = some lb
  place : lb.off = (s.g ab).bits.toNat
  sameProf : lb.prof = f.prof
  sameFmt : lb.bfmt = f.bfmt
  sameScale : lb.scale = f.scale

section
variable {s : State} {slot : BitVec 4} {aa ab : BitVec 6} {prof rows land : BitVec 8} {cops : BitVec 32} {f : TileFmt} {lb : LoadedB}

/-- Past the checks of its lease, format and B a tile command comes to its operands. -/
theorem State.tileCheck_eq (h : s.TileReady slot aa ab prof rows cops f lb) (ga : Bool) :
    s.tileCheck ga slot aa ab prof rows cops = s.tileOperands ga f lb.k rows.toNat aa ab := by
  have hsteps : ((List.range 16).all fun i => (profSteps f.prof).contains (copsStep cops i)) = true :=
    List.all_eq_true.mpr fun i hi => List.contains_iff_mem.mpr (h.steps i (List.mem_range.mp hi))
  have hsame : (lb.off == offsetOf (s.g ab).bits && lb.prof == f.prof && lb.bfmt == f.bfmt && lb.scale == f.scale) = true := by
    simp [offsetOf, h.place, h.sameProf, h.sameFmt, h.sameScale]
  simp only [State.tileCheck, State.gUse_ok h.cleanB, State.gUse_ok h.cleanA, State.checkCalAs_ok h.segs h.cal, State.checkLease_ok h.lease,
    h.loaded, h.fmt, hsteps, hsame, h.fits, decide_true, ok_bind, Bool.and_self, Bool.not_true, trapIf_false]
  rfl

theorem State.trapsWith_tileCheck_lease (hsegs : s.arrHere.segs ≠ 0) (hcal : s.arrHere.cal ≠ 4) (hA : (s.g aa).psn = false)
    (hB : (s.g ab).psn = false) (hlease : ¬s.LeaseRoom) (ga : Bool) : TrapsWith 0x35 (s.tileCheck ga slot aa ab prof rows cops) :=
  .of_ok (State.gUse_ok hB) (.of_ok (State.gUse_ok hA) (.of_ok (State.checkCalAs_ok hsegs hcal _)
    ((State.trapsWith_checkLease hlease).bind _)))

/-! ### The landing slot of a tile -/

/-- A core that has taken landing slot `i` (R182). -/
def Core.takeSlot (i : Nat) (x : LSlot) (k : Core) : Core :=
  { k with slots := tabPut { x with ord := k.landOrd } i k.slots, landOrd := k.landOrd + 1 }

theorem State.takeSlot_eq (hfree : s.SlotFree) (x : LSlot) :
    ∃ i, i < 32 ∧ tabFind s.here.slots i = none ∧ s.takeSlot x = .ok (s.onHere (Core.takeSlot i x)) := by
  obtain ⟨j, hj, hnone⟩ := hfree
  cases hi : tabFree s.here.slots 32 with
  | none => exact absurd hnone (tabFree_eq_none.mp hi j hj)
  | some i =>
    obtain ⟨hlt, hfind, -⟩ := tabFree_eq_some.mp hi
    exact ⟨i, hlt, hfind, by rw [State.takeSlot, hi]; rfl⟩

/-- The job of a tile with checked operands (R216, R225, R226). -/
def tileJob (ga : Bool) (slot : BitVec 4) (rows : BitVec 8) (cops : BitVec 32) (o : TileOps) : TileJob where
  slot := slot.toNat
  rows := rows.toNat
  k := o.k
  prof := o.fmt.prof
  afmt := o.fmt.afmt
  bfmt := o.fmt.bfmt
  scaled := o.fmt.scaled
  aOff := o.a
  bOff := o.b
  cops := cops
  globalA := if ga then some o.a else none

/-- When a tile is due: at LAND, or with an earlier tile of a common slot that is due later (R216). -/
def State.tileDue (s : State) (slot : BitVec 4) (rows land : BitVec 8) : Nat :=
  (s.here.tileOn (slotsOf slot.toNat rows.toNat)).foldl (fun d y => max d y.due) (s.here.cyc + land.toNat)

theorem le_foldl_max_due (l : List LSlot) (d : Nat) : d ≤ l.foldl (fun d y => max d y.due) d := by
  induction l generalizing d with
  | nil => exact le_rfl
  | cons x l ih => exact (le_max_left _ _).trans (ih _)

theorem State.le_tileDue : s.here.cyc + land.toNat ≤ s.tileDue slot rows land := le_foldl_max_due _ _

theorem State.tileDue_of_none (h : s.here.tileOn (slotsOf slot.toNat rows.toNat) = []) :
    s.tileDue slot rows land = s.here.cyc + land.toNat := by
  rw [State.tileDue, h, List.foldl_nil]

/-- A tile's landing slot, its operands still to be read (R216, log entry 53). -/
def State.tileSlot (s : State) (ga : Bool) (slot : BitVec 4) (rows land : BitVec 8) (cops : BitVec 32) (o : TileOps) : LSlot :=
  { s.newSlot .tile slot.toNat land.toNat with due := s.tileDue slot rows land, tile := some (tileJob ga slot rows cops o) }

/-- A tile whose checks pass takes a landing slot and spends one tile command of the lease (R216, R218, R225). -/
theorem tileWith_enters {ga : Bool} {o : TileOps} (hcheck : s.tileCheck ga slot aa ab prof rows cops = .ok o)
    (hpend : s.here.pendingArr < 8) (hfree : s.SlotFree) : ∃ t i, tileWith ga slot aa ab prof rows land cops s = .next t
      ∧ i < 32 ∧ tabFind s.here.slots i = none ∧ t.mem = s.mem
      ∧ t.here = (s.here.takeSlot i (s.tileSlot ga slot rows land cops o)).spendLease := by
  obtain ⟨i, hlt, hnone, htake⟩ := State.takeSlot_eq hfree (s.tileSlot ga slot rows land cops o)
  refine ⟨(s.onHere (Core.takeSlot i (s.tileSlot ga slot rows land cops o))).spendLease, i, ?_, hlt, hnone, State.mem_spendLease _, ?_⟩
  · rw [tileWith, hcheck, ok_bind, State.checkPending, blockUnless_true (decide_eq_true hpend), ok_bind]
    exact congrArg (fun c => settle s (c >>= fun t => .ok t.spendLease)) htake
  · rw [State.here_spendLease, State.here_onHere]

end

/-- Settles O42: the checks pass in their order, then the B operand is set, or a landing slot taken, and one tile command of the lease is
spent; without a lease each stops at the same check. That the effective address is what must be aligned (log entry 100) and that B is the
one loaded before the group (log entry 18) are the model's choices. -/
theorem tileCommands : Obligations.TileCommands := by
  unfold Obligations.TileCommands
  intro s aa ab slot prof rows land cops f a b lb gb m calOk clean lease local8 nb na bOk left spent tile shape loaded apart
  have hspent (t : State) (k : Core) (ht : t.here = k.spendLease)
      (hk : k.leaseLeft = s.here.leaseLeft ∧ k.leaseHeld = s.here.leaseHeld ∧ k.cu = s.here.cu) (hmem : t.mem = s.mem) : spent t := by
    obtain ⟨hleft, hheld, hcu⟩ := hk
    have hzero : (if left = 0 then 0 else left) = left := ite_eq_right_iff.mpr Eq.symm
    exact ⟨by rw [ht, Core.spendLease_left, hleft, hzero], by rw [ht, Core.spendLease_held, hheld, hleft],
      by rw [ht, Core.spendLease_cu, hcu], fun _ => by rw [hmem]⟩
  have htile (ga : Bool) (hpend : s.here.pendingArr < 8) (hfree : s.SlotFree)
      (hcheck : s.tileCheck ga slot aa ab prof rows cops = .ok ⟨f, lb.k, a, b, gb.toNat⟩) :
      tile lb.k (if ga then some a else none) (tileWith ga slot aa ab prof rows land cops s) := by
    obtain ⟨t, i, hnext, hlt, hnone, hmem, hhere⟩ := tileWith_enters (land := land) hcheck hpend hfree
    have hslots : t.here.slots = tabPut _ i s.here.slots := congrArg Core.slots hhere
    refine ⟨t, i, _, hnext, hspent t _ hhere ⟨rfl, rfl, rfl⟩ hmem, hlt, hnone, hslots ▸ tabFind_put_same _ _ _, rfl,
      fun j hj => hslots ▸ tabFind_put_other _ hj _, State.le_tileDue, rfl, State.tileDue_of_none, _, rfl, rfl, rfl, rfl, rfl, rfl, rfl,
      rfl, rfl, rfl⟩
  have hready (hcal : calOk) (hclean : clean) (hlease : lease) (hf : s.resolve prof lb.k m = .ok f) (hshape : shape) (hl : loaded) :
      s.TileReady slot aa ab prof rows cops f lb := by
    obtain ⟨hloaded, hoff, hprof, hbfmt, hscale⟩ := hl
    exact ⟨hcal.1, hcal.2, hclean.1, hclean.2, hlease, hf, hshape.1, hshape.2, hloaded, hoff, hprof, hbfmt, hscale⟩
  simp only [exec_tload, exec_tmma, exec_tmmaGa]
  refine ⟨?loads, fun hcal hclean hlease hf hshape hl hb hpend hfree =>
    ⟨fun ha hapart => ?fromLocal, fun hea hallow halign => ?fromGlobal⟩, fun hcal hclean hlease => ?unleased⟩
  case loads =>
    intro hcal hclean hlease hf hrows hb
    obtain ⟨rs, hnext⟩ := execTload_next hcal.1 hcal.2 hclean hlease hf hrows hb
    refine ⟨_, hnext, hspent _ s.here ?_ ⟨rfl, rfl, rfl⟩ ?_, ?_, ?_⟩
    · rw [State.here_noteAfter, State.here_spendLease, State.here_onArrHere]
    · rw [State.mem_noteAfter, State.mem_spendLease, State.mem_onArrHere]
    · rw [State.here_noteAfter, State.here_spendLease, State.here_onArrHere, Core.spendLease_slots]
    · rw [State.arrHere_noteAfter, State.loaded_spendLease, State.here_onArrHere, State.arrHere_onArrHere]; rfl
  case fromLocal =>
    refine htile false hpend hfree ?_
    rw [State.tileCheck_eq (hready hcal hclean hlease hf hshape hl), State.tileOperands_local hb ha hapart]
    rfl
  case fromGlobal =>
    refine htile true hpend hfree ?_
    rw [State.tileCheck_eq (hready hcal hclean hlease hf hshape hl), State.tileOperands_global hb hea hallow halign]
    rfl
  case unleased =>
    have hcheck (ga : Bool) : Traps s 0x35 (tileWith ga slot aa ab prof rows land cops s) :=
      ((State.trapsWith_tileCheck_lease hcal.1 hcal.2 hclean.1 hclean.2 hlease ga).bind _).traps s
    exact ⟨traps_execTload_lease hcal.1 hcal.2 hclean.2 hlease, hcheck false, hcheck true⟩

end Sys2Proof.Machine
end

section
/-! SUPPORT. Stream instructions at their issue: the handle of a ring, the extent of a slot, the endpoints of an engine that open, move on
and close (R269-R275, R404), and the request of `await.mem` (R266). -/

namespace Sys2Proof.Machine

/-! ### The handle -/

/-- The register names a ring of a square through a capability that permits `need` (R269, R272). -/
def State.NamesRing (s : State) (q : BitVec 4) (need : BitVec 12) (site n : Nat) : Prop :=
  (s.c q).cursor = site * 2 ^ 32 + n ∧ n < 1024 ∧ squareOk site = true ∧ (s.c q).Allows [4] need (s.c q).cursor 1

theorem State.NamesRing.has {s : State} {q : BitVec 4} {need : BitVec 12} {site n : Nat} (hring : s.NamesRing q need site n) :
    (s.c q).has need = true := by
  obtain ⟨-, -, -, -, hspace, hperm, -⟩ := hring
  rwa [List.mem_singleton.mp hspace, if_neg (by decide)] at hperm

/-- A handle is read where it has the permission that the instruction needs; either side's will do where both are asked for. -/
theorem State.handle_of_has {s : State} {q : BitVec 4} {need perm : BitVec 12} {site n : Nat} (hring : s.NamesRing q perm site n)
    (hhas : (s.c q).has (if need = pSp ||| pSg then (if (s.c q).has pSp then pSp else pSg) else need) = true) :
    s.handle q need = .ok (site, n) := by
  obtain ⟨hcursor, hn, hsquare, htag, hspace, -, hbase, htop⟩ := hring
  have hplain : (s.c q).Allows [4] 0 (s.c q).cursor 1 :=
    ⟨htag, hspace, by rw [List.mem_singleton.mp hspace, if_neg (by decide)]; simp [CReg.has], hbase, htop⟩
  have hsite : (site * 2 ^ 32 + n) / 2 ^ 32 = site := by omega
  have hindex : (site * 2 ^ 32 + n) % 1024 = n := by omega
  have hzero : (site * 2 ^ 32 + n) / 1024 % 2 ^ 22 = 0 := by omega
  rw [State.handle]
  dsimp only
  rw [checkUse_ok htag hspace (by decide) hhas, ok_bind, checkCap_ok hplain, ok_bind]
  simp only [hcursor, hsite, hindex, hzero, hsquare]
  rfl

theorem State.handle_ok {s : State} {q : BitVec 4} {need : BitVec 12} {site n : Nat} (hring : s.NamesRing q need site n)
    (hone : need ≠ pSp ||| pSg) : s.handle q need = .ok (site, n) :=
  State.handle_of_has hring (by rw [if_neg hone, hring.has])

theorem State.handle_either {s : State} {q : BitVec 4} {site n : Nat} (hring : s.NamesRing q pSp site n ∨ s.NamesRing q pSg site n) :
    s.handle q (pSp ||| pSg) = .ok (site, n) := by
  by_cases hput : (s.c q).has pSp = true
  · have hhas : (s.c q).has (if pSp ||| pSg = pSp ||| pSg then (if (s.c q).has pSp then pSp else pSg) else pSp ||| pSg) = true := by
      rw [if_pos rfl, if_pos hput, hput]
    exact hring.elim (State.handle_of_has · hhas) (State.handle_of_has · hhas)
  · obtain hring := hring.resolve_left fun h => hput h.has
    exact State.handle_of_has hring (by rw [if_pos rfl, if_neg hput, hring.has])

/-! ### The extent of a slot -/

/-- The bytes of a slot at offset `o` through c8: what gA names, permitted, within local memory, aligned (R272). -/
def State.HoldsSlot (s : State) (a : BitVec 6) (need : BitVec 12) (o n : Nat) : Prop :=
  ((s.c 8).cursor : Int) + (s.g a).bits.toInt = o ∧ (s.c 8).Allows [1] need o n ∧ o + n ≤ 2 ^ 19 ∧ o % 16 = 0

theorem State.slotExtent_ok {s : State} {a : BitVec 6} {need : BitVec 12} {o n : Nat} (h : s.HoldsSlot a need o n) :
    s.slotExtent (s.g a).bits need n = .ok o := by
  obtain ⟨hea, hallow, hin, halign⟩ := h
  rw [State.slotExtent, State.c8Addr, hea, checkOwn_ok hallow (by decide) hin, ok_bind, trapIf_false (by simp [halign]), ok_bind]

/-! ### What stream instructions leave -/

/-- The issuing engine's registers, the C engine's files and every byte of memory are as before. -/
def State.KeepsRegs (s t : State) : Prop :=
  t.me.g = s.me.g ∧ t.me.c = s.me.c ∧ t.me.p = s.me.p ∧ t.here.cu = s.here.cu ∧ ∀ k, memRead t.mem k = memRead s.mem k

/-- The issuing engine's endpoints changed, then rings or stream copies. -/
def State.onEps (s : State) (f : List Endpoint → List Endpoint) (g : Hw → Hw) : State :=
  (s.onMe fun e => { e with eps := f e.eps }).upd g

theorem State.me_onEps (s : State) (f : List Endpoint → List Endpoint) {g : Hw → Hw} (hcores : ∀ h, (g h).cores = h.cores) :
    (s.onEps f g).me = { s.me with eps := f s.me.eps } :=
  (congrArg (Core.eng · s.ix.eng) (State.here_upd (hcores _))).trans (s.me_onMe _)

theorem State.eps_onEps (s : State) (f : List Endpoint → List Endpoint) {g : Hw → Hw} (hcores : ∀ h, (g h).cores = h.cores) :
    (s.onEps f g).me.eps = f s.me.eps := by rw [s.me_onEps f hcores]

theorem State.keepsRegs_onEps (s : State) (f : List Endpoint → List Endpoint) {g : Hw → Hw} (hcores : ∀ h, (g h).cores = h.cores)
    (hmem : ∀ h, (g h).mem = h.mem) : s.KeepsRegs (s.onEps f g) := by
  have hme := s.me_onEps f hcores
  refine ⟨by rw [hme], by rw [hme], by rw [hme], ?_, fun k => congrArg (memRead · k) (hmem _)⟩
  rw [State.onEps, State.here_upd (hcores _), State.cu_onMe]

theorem State.keepsRegs_upd (s : State) {g : Hw → Hw} (hcores : (g s.toHw).cores = s.cores) (hmem : (g s.toHw).mem = s.mem) :
    s.KeepsRegs (s.upd g) := by
  have hhere := State.here_upd hcores
  have hme : (s.upd g).me = s.me := congrArg (Core.eng · s.ix.eng) hhere
  exact ⟨by rw [hme], by rw [hme], by rw [hme], by rw [hhere], fun k => congrArg (memRead · k) hmem⟩

/-- A ring's descriptor after its change; the engine's endpoints lie elsewhere. -/
theorem State.ring_onEps (s : State) (f : List Endpoint → List Endpoint) (site n : Nat) (g : Ring → Ring) :
    (s.onEps f fun h => h.onRing site n g).toHw.ring site n = g (s.toHw.ring site n) :=
  Hw.ring_onRing _ _ _ _

/-! ### Opening -/

/-- The permission of a side: stream-put for a producer, stream-get for a consumer (R272). -/
def sidePerm (producer : Bool) : BitVec 12 := if producer then pSp else pSg

theorem sidePerm_ne (producer : Bool) : sidePerm producer ≠ pSp ||| pSg := by cases producer <;> decide

/-- A ring whose side has just opened: the side's closing mark is gone (R271). -/
def Ring.opened (d : Ring) (producer : Bool) : Ring := if producer then { d with pcl := false } else { d with ccl := false }

/-- The endpoint that `sopen` makes of a side (R271). -/
def Ring.endpoint (d : Ring) (site n : Nat) (producer : Bool) : Endpoint :=
  { site := site, ring := n, producer := producer, res := if producer then d.putseq else 0 }

section
variable {s : State} {q : BitVec 4} {site n : Nat}

/-- `sopen` once the handle is read: its check, then the endpoint and the ring's mark (R271, R272). -/
theorem execSopen_eq {r : BitVec 1} {producer : Bool} (hside : (r == 0) = producer) (hring : s.NamesRing q (sidePerm producer) site n) :
    execSopen q r s = settle s (trapIf (s.toHw.sideOpen site n producer || decide (4 ≤ s.me.eps.length) || !(s.toHw.ring site n).v
      || (s.toHw.ring site n).owner.toNat != s.task.lid) 0x38 0 (s.toHw.streamDetail site n) >>= fun _ =>
        .ok (s.onEps (fun l => l ++ [(s.toHw.ring site n).endpoint site n producer]) fun h => h.onRing site n fun d => d.opened producer)) := by
  have hhandle : s.handle q (if producer = true then pSp else pSg) = .ok (site, n) := State.handle_ok hring (sidePerm_ne producer)
  rw [execSopen]
  simp only [hside, hhandle, ok_bind]
  rfl

/-- A side that is not open, of a valid ring of the launch, opens while the engine has fewer than four endpoints. -/
theorem execSopen_opens {r : BitVec 1} {producer : Bool} (hside : (r == 0) = producer) (hring : s.NamesRing q (sidePerm producer) site n)
    (hopen : s.toHw.sideOpen site n producer = false) (hroom : s.me.eps.length < 4) (hv : (s.toHw.ring site n).v = true)
    (howner : (s.toHw.ring site n).owner.toNat = s.task.lid) :
    execSopen q r s = .next (s.onEps (fun l => l ++ [(s.toHw.ring site n).endpoint site n producer])
      fun h => h.onRing site n fun d => d.opened producer) := by
  rw [execSopen_eq hside hring, trapIf_false (by simp [hopen, hroom, hv, howner]), ok_bind, settle_done]

theorem traps_execSopen {r : BitVec 1} {producer : Bool} (hside : (r == 0) = producer) (hring : s.NamesRing q (sidePerm producer) site n)
    (hno : s.toHw.sideOpen site n producer = true ∨ 4 ≤ s.me.eps.length ∨ (s.toHw.ring site n).v = false
      ∨ (s.toHw.ring site n).owner.toNat ≠ s.task.lid) : Traps s 0x38 (execSopen q r s) := by
  rw [execSopen_eq hside hring]
  exact ((trapsWith_trapIf (by simpa [or_assoc] using hno) _ _ _).bind _).traps s

end

/-! ### Reserving and taking -/

section
variable {s : State} {d a : BitVec 6} {q : BitVec 4} {site n o : Nat} {e : Endpoint}

/-- The endpoint with its reservation one further (R273). -/
def moveOn (e y : Endpoint) : Endpoint := if y = e then { y with res := y.res + 1 } else y

/-- The state in which a copy of a slot is under way. -/
def State.startCopy (s : State) (put : Bool) (seq : BitVec 32) (site n o : Nat) (h : Hw) : Hw :=
  { h with streams := h.streams ++ [s.newCopy site n put seq o (s.toHw.ring site n).slotSize] }

/-- `sput` of an open producer whose operands pass (R273, R404). -/
theorem execSput_eq (hclean : (s.g a).psn = false) (hring : s.NamesRing q pSp site n) (hopen : s.me.endpoint site n true = some e)
    (hslot : s.HoldsSlot a pLd o (s.toHw.ring site n).slotSize) {room : Bool}
    (hroom : decide ((e.res - (s.toHw.ring site n).getseq).toNat < (s.toHw.ring site n).nslot.toNat) = room) :
    execSput d q a s = settle s (do
      trapIf (!room && (s.toHw.ring site n).ccl) 0x38 0 (s.toHw.streamDetail site n)
      blockUnless room
      .ok ((s.onEps (List.map (moveOn e)) (s.startCopy true e.res site n o)).setG d ⟨e.res.setWidth 64, false⟩)) := by
  rw [execSput, State.gUse_ok hclean, ok_bind, State.handle_ok hring (by decide), ok_bind]
  dsimp only
  rw [hopen]
  dsimp only
  rw [hroom, State.slotExtent_ok hslot]
  rfl

/-- `sget` of an open consumer whose operands pass (R274, R404). -/
theorem execSget_eq (hclean : (s.g a).psn = false) (hring : s.NamesRing q pSg site n) (hopen : s.me.endpoint site n false = some e)
    (hslot : s.HoldsSlot a pSt o (s.toHw.ring site n).slotSize) {seq : BitVec 32}
    (hseq : (s.toHw.ring site n).getseq + BitVec.ofNat 32 (s.toHw.takenOf site n) = seq) :
    execSget d q a s = settle s (do
      blockUnless (!((s.toHw.ring site n).putseq == seq) || (s.toHw.ring site n).pcl)
      if (s.toHw.ring site n).putseq == seq then .ok (s.setG d ⟨0xFFFFFFFFFFFFFFFF#64, false⟩)
      else do
        s.checkSlot o (s.toHw.ring site n).slotSize
        .ok ((s.upd (s.startCopy false seq site n o)).setG d ⟨seq.setWidth 64, false⟩)) := by
  rw [execSget, State.gUse_ok hclean, ok_bind, State.handle_ok hring (by decide), ok_bind]
  dsimp only
  rw [hopen, trapIf_false (b := (some e).isNone) rfl, ok_bind, State.slotExtent_ok hslot, ok_bind, hseq]
  rfl

/-- With room in the ring the next slot is reserved and its copy is under way (R273). -/
theorem execSput_reserves (hclean : (s.g a).psn = false) (hring : s.NamesRing q pSp site n)
    (hopen : s.me.endpoint site n true = some e) (hslot : s.HoldsSlot a pLd o (s.toHw.ring site n).slotSize)
    (hroom : (e.res - (s.toHw.ring site n).getseq).toNat < (s.toHw.ring site n).nslot.toNat) :
    execSput d q a s = .next ((s.onEps (List.map (moveOn e)) (s.startCopy true e.res site n o)).setG d
      ⟨BitVec.ofNat 64 e.res.toNat, false⟩) := by
  rw [execSput_eq hclean hring hopen hslot (decide_eq_true hroom), trapIf_false (by rfl), ok_bind, blockUnless_true rfl, ok_bind,
    settle_done, BitVec.ofNat_toNat]

/-- Without room a producer waits, or traps where the consumer has closed (R273, R404). -/
theorem execSput_full (hclean : (s.g a).psn = false) (hring : s.NamesRing q pSp site n)
    (hopen : s.me.endpoint site n true = some e) (hslot : s.HoldsSlot a pLd o (s.toHw.ring site n).slotSize)
    (hfull : (s.toHw.ring site n).nslot.toNat ≤ (e.res - (s.toHw.ring site n).getseq).toNat) :
    ((s.toHw.ring site n).ccl = true → Traps s 0x38 (execSput d q a s))
      ∧ ((s.toHw.ring site n).ccl = false → Blocks s (execSput d q a s)) := by
  rw [execSput_eq hclean hring hopen hslot (decide_eq_false (Nat.not_lt.mpr hfull))]
  refine ⟨fun hccl => ((trapsWith_trapIf (by simpa using hccl) _ _ _).bind _).traps s, fun hccl => ?_⟩
  rw [trapIf_false (by simpa using hccl), ok_bind, blockUnless_false rfl, error_bind]
  exact blocks_settle s

section
variable {seq : BitVec 32} (hclean : (s.g a).psn = false) (hring : s.NamesRing q pSg site n)
  (hopen : s.me.endpoint site n false = some e) (hslot : s.HoldsSlot a pSt o (s.toHw.ring site n).slotSize)
  (hseq : (s.toHw.ring site n).getseq + BitVec.ofNat 32 (s.toHw.takenOf site n) = seq)
include hclean hring hopen hslot hseq

/-- The oldest published slot is taken: its copy to own local memory is under way (R274). -/
theorem execSget_takes (hsome : (s.toHw.ring site n).putseq ≠ seq) (hfree : s.NoSlot o (s.toHw.ring site n).slotSize) :
    execSget d q a s = .next ((s.upd (s.startCopy false seq site n o)).setG d ⟨BitVec.ofNat 64 seq.toNat, false⟩) := by
  rw [execSget_eq hclean hring hopen hslot hseq, blockUnless_true (by simp [hsome]), ok_bind, if_neg (by simpa using hsome),
    State.checkSlot_ok hfree, ok_bind, settle_done, BitVec.ofNat_toNat]

/-- An empty ring whose producer has closed gives all ones (R274, R404). -/
theorem execSget_ended (hempty : (s.toHw.ring site n).putseq = seq) (hpcl : (s.toHw.ring site n).pcl = true) :
    execSget d q a s = .next (s.setG d ⟨0xFFFFFFFFFFFFFFFF#64, false⟩) := by
  rw [execSget_eq hclean hring hopen hslot hseq, blockUnless_true (by simp [hpcl]), ok_bind, if_pos (by simpa using hempty), settle_done]

theorem blocks_execSget (hempty : (s.toHw.ring site n).putseq = seq) (hpcl : (s.toHw.ring site n).pcl = false) :
    Blocks s (execSget d q a s) := by
  rw [execSget_eq hclean hring hopen hslot hseq, blockUnless_false (by simp [hempty, hpcl]), error_bind]
  exact blocks_settle s

end

end

/-! ### Closing and reporting -/

section
variable {s : State} {d : BitVec 6} {q : BitVec 4} {sel : BitVec 2} {site n : Nat}

/-- The endpoint of a side that a selector names, if it is open: 1 the producer, 2 the consumer, 0 both (R271). -/
def State.closing (s : State) (site n : Nat) (sel : BitVec 2) (producer : Bool) : Option Endpoint :=
  (s.me.endpoint site n producer).filter fun _ => sel != if producer then 2 else 1

theorem State.closing_of_named {producer : Bool} {e : Endpoint} (hopen : s.me.endpoint site n producer = some e)
    (hsel : sel ≠ if producer then 2 else 1) : s.closing site n sel producer = some e := by
  rw [State.closing, hopen, Option.filter_some, if_pos (bne_iff_ne.mpr hsel)]

theorem State.closing_of_unnamed {producer : Bool} (hsel : sel = if producer then 2 else 1) :
    s.closing site n sel producer = none := by
  rw [State.closing, hsel, bne_self_eq_false]
  cases s.me.endpoint site n producer <;> rfl

theorem State.closing_of_none {producer : Bool} (hnone : s.me.endpoint site n producer = none) :
    s.closing site n sel producer = none := by
  rw [State.closing, hnone, Option.filter_none]

/-- The state whose endpoints and ring the closing leaves (R271). -/
def State.closeSides (s : State) (site n : Nat) (sel : BitVec 2) : State :=
  s.onEps (List.filter fun y => some y != s.closing site n sel true && some y != s.closing site n sel false)
    fun h => h.onRing site n fun d => { d with
      pcl := d.pcl || (s.closing site n sel true).isSome
      ccl := d.ccl || (s.closing site n sel false).isSome }

/-- `sclose` once the handle is read: a side it names must be open, and the producer's slots published (R271, R272). -/
theorem execSclose_eq (hring : s.NamesRing q pSp site n ∨ s.NamesRing q pSg site n) :
    execSclose q sel s = settle s (do
      trapIf ((s.closing site n sel true).isNone && (s.closing site n sel false).isNone) 0x38 0 (s.toHw.streamDetail site n)
      blockUnless ((s.closing site n sel true).all fun e => e.res == (s.toHw.ring site n).putseq)
      .ok (s.closeSides site n sel)) := by
  have hnames : sel = 0 ∨ sel = 1 ∨ sel = 2 ∨ sel = 3 := by revert sel; decide
  have hmissing : (match sel.toNat with
      | 1 => (s.closing site n sel true).isNone
      | 2 => (s.closing site n sel false).isNone
      | _ => (s.closing site n sel true).isNone && (s.closing site n sel false).isNone)
      = ((s.closing site n sel true).isNone && (s.closing site n sel false).isNone) := by
    rcases hnames with rfl | rfl | rfl | rfl
    · rfl
    · have hc : s.closing site n 1 false = none := State.closing_of_unnamed rfl
      rw [hc, Option.isNone_none, Bool.and_true]
      rfl
    · have hp : s.closing site n 2 true = none := State.closing_of_unnamed rfl
      rw [hp, Option.isNone_none, Bool.true_and]
      rfl
    · rfl
  rw [← hmissing, execSclose, State.handle_either hring, ok_bind, State.closeSides]
  have hp : (s.me.endpoint site n true).filter (fun _ => sel != 2) = s.closing site n sel true := rfl
  dsimp only
  rw [hp]
  cases s.closing site n sel true <;> rfl

/-- An engine that drops every endpoint of a side has none there. -/
theorem Eng.endpoint_filter {g : Eng} {keep : Endpoint → Bool} {producer : Bool}
    (hdrop : ∀ y ∈ g.eps, y.site = site → y.ring = n → y.producer = producer → keep y = false) :
    ({ g with eps := g.eps.filter keep } : Eng).endpoint site n producer = none := by
  rw [Eng.endpoint, List.find?_eq_none]
  intro y hy hside
  obtain ⟨hmem, hkeep⟩ := List.mem_filter.mp hy
  simp only [Bool.and_eq_true, beq_iff_eq] at hside
  obtain ⟨⟨hsite, hn⟩, hproducer⟩ := hside
  rw [hdrop y hmem hsite hn hproducer] at hkeep
  exact Bool.false_ne_true hkeep

/-- Where the side's one endpoint is among those that close, the side is closed afterwards. -/
theorem State.endpoint_closeSides {producer : Bool} {e : Endpoint} (hclose : s.closing site n sel producer = some e)
    (honly : ∀ y ∈ s.me.eps, y.site = site → y.ring = n → y.producer = producer → y = e) :
    (s.closeSides site n sel).me.endpoint site n producer = none := by
  rw [State.closeSides, State.me_onEps _ _ (by exact fun _ => rfl)]
  refine Eng.endpoint_filter fun y hy hsite hn hproducer => ?_
  rw [honly y hy hsite hn hproducer, ← hclose]
  cases producer <;> simp

theorem State.ring_closeSides : (s.closeSides site n sel).toHw.ring site n = { s.toHw.ring site n with
    pcl := (s.toHw.ring site n).pcl || (s.closing site n sel true).isSome
    ccl := (s.toHw.ring site n).ccl || (s.closing site n sel false).isSome } :=
  s.ring_onEps _ site n _

theorem State.keepsRegs_closeSides : s.KeepsRegs (s.closeSides site n sel) :=
  s.keepsRegs_onEps _ (fun _ => rfl) fun _ => rfl

/-- A producer that closes blocks while a slot it has reserved is not published (R271). -/
theorem execSclose_producer (hring : s.NamesRing q pSp site n ∨ s.NamesRing q pSg site n) {e : Endpoint}
    (hclose : s.closing site n sel true = some e) :
    (e.res = (s.toHw.ring site n).putseq → execSclose q sel s = .next (s.closeSides site n sel))
      ∧ (e.res ≠ (s.toHw.ring site n).putseq → Blocks s (execSclose q sel s)) := by
  rw [execSclose_eq hring, hclose, trapIf_false (by rfl), ok_bind]
  refine ⟨fun hres => ?_, fun hres => ?_⟩
  · rw [blockUnless_true (by simp [hres]), ok_bind, settle_done]
  · rw [blockUnless_false (by simp [hres]), error_bind]
    exact blocks_settle s

/-- A consumer that closes alone waits for nothing. -/
theorem execSclose_consumer (hring : s.NamesRing q pSp site n ∨ s.NamesRing q pSg site n) {e : Endpoint}
    (hnone : s.closing site n sel true = none) (hclose : s.closing site n sel false = some e) :
    execSclose q sel s = .next (s.closeSides site n sel) := by
  rw [execSclose_eq hring, hnone, hclose, trapIf_false (by rfl), ok_bind, blockUnless_true (by rfl), ok_bind, settle_done]

theorem traps_execSclose (hring : s.NamesRing q pSp site n ∨ s.NamesRing q pSg site n)
    (hput : s.closing site n sel true = none) (hget : s.closing site n sel false = none) : Traps s 0x38 (execSclose q sel s) := by
  rw [execSclose_eq hring, hput, hget]
  exact ((trapsWith_trapIf rfl _ _ _).bind _).traps s

/-- `sstat` through an endpoint of either side (R275). -/
theorem execSstat_writes (hring : s.NamesRing q pSp site n ∨ s.NamesRing q pSg site n) {producer : Bool} {e : Endpoint}
    (hopen : s.me.endpoint site n producer = some e) :
    execSstat d q s = .next (s.setG d ⟨BitVec.ofNat 64 (((s.toHw.ring site n).putseq - (s.toHw.ring site n).getseq).toNat % 2 ^ 16
      + (s.toHw.ring site n).nslot.toNat * 2 ^ 16 + (s.toHw.ring site n).slog.toNat * 2 ^ 32
      + (s.toHw.ring site n).pcl.toNat * 2 ^ 36 + (s.toHw.ring site n).ccl.toNat * 2 ^ 37), false⟩) := by
  have hsome : ((s.me.endpoint site n true).isSome || (s.me.endpoint site n false).isSome) = true := by
    cases producer <;> simp [hopen]
  rw [execSstat, State.handle_either hring, ok_bind]
  dsimp only
  rw [hsome, trapIf_false (by rfl), ok_bind, settle_done]

end

/-! ### Waiting on a line -/

section
variable {s : State} {d x : BitVec 6} {cb : BitVec 4} {sc : BitVec 3} {off : BitVec 32} {ea : Int}

/-- The request that `await.mem` leaves with its engine (R266). -/
def State.lineRequest (s : State) (d : BitVec 6) (ea : Int) : AMem :=
  { d := d, va := ea.toNat, expected := (s.g d).bits, pc := s.ix.pc, slot := s.ix.slot }

/-- `await.mem` once R81 allows its address: alignment, then the one request that an engine may have (R266). -/
theorem execAwaitMem_eq (hd : (s.g d).psn = false) (hx : (s.g x).psn = false)
    (hea : ((s.c cb).cursor : Int) + off.toInt + (s.g x).bits.toInt * 2 ^ sc.toNat = ea) (hallow : (s.c cb).Allows [3] pLd ea 8) :
    execAwaitMem d cb x sc off s = settle s (do
      trapIf (decide (ea % 8 ≠ 0)) 0x11 ea.toNat (capDetail cb.toNat 8 (s.c cb))
      blockUnless s.me.amem.isNone
      .ok (s.onMe fun e => { e with amem := some (s.lineRequest d ea) })) := by
  rw [execAwaitMem, State.gUse_ok hd, ok_bind, State.mAddr_ok hx, ok_bind, hea, checkCap_ok hallow, ok_bind]
  rfl

end

/-- Settles O45: a handle that R81 allows names its ring, the slot's extent passes, and each instruction is then its check on the ring's
state and one change of endpoints, rings or stream copies. That gA is a signed offset from c8.CURSOR is the model's choice (log
entry 98). -/
theorem streamsAndWaits : Obligations.StreamsAndWaits := by
  unfold Obligations.StreamsAndWaits
  intro s d a x q cb sc off r sel site n o c ring handle side only regs extent ea taken seq
  have hperm {r : BitVec 1} (hring : handle (if r = 0 then pSp else pSg)) : s.NamesRing q (sidePerm (r == 0)) site n := by
    rw [sidePerm]
    simpa only [beq_iff_eq] using show s.NamesRing q (if r = 0 then pSp else pSg) site n from hring
  simp only [exec_sopen, exec_sput, exec_sget, exec_sclose, exec_sstat, exec_awaitMem]
  refine ⟨fun hring hopen hroom hv howner => ?opens, fun hring hno => traps_execSopen rfl (hperm hring) hno,
    fun e hclean hring hopen hslot hroom => ?puts, fun e hclean hring hopen hslot hfull => execSput_full hclean hring hopen hslot hfull,
    fun e hclean hring hopen hslot => ?gets, fun e hring hopen honly hsel => ?closesPut, fun e hring hopen honly hsel => ?closesGet,
    fun e f hring hput honlyPut hget honlyGet hsel => ?closesBoth, fun hring hput hget => ?closesNone,
    fun e b hring hopen => ?reports, fun hd hx hallow halign hfree => ?asks, fun hd hx hallow halign => ?misaligned⟩
  case opens =>
    refine ⟨_, _, execSopen_opens rfl (hperm hring) hopen hroom hv howner, s.keepsRegs_onEps _ (fun _ => rfl) fun _ => rfl,
      s.eps_onEps _ fun _ => rfl, rfl, rfl, rfl, fun hr => ⟨?_, ?_⟩, fun hr => ?_⟩
    · simp [Ring.endpoint, hr, ring]
    · exact (s.ring_onEps _ site n _).trans (by simp [Ring.opened, hr, ring])
    · exact (s.ring_onEps _ site n _).trans (by simp [Ring.opened, hr, ring])
  case puts =>
    rw [execSput_reserves hclean hring hopen hslot hroom]
    exact ⟨_, writesG _ d _, s.keepsRegs_onEps _ (fun _ => rfl) fun _ => rfl, ⟨_, rfl, rfl, rfl, rfl, rfl, rfl, rfl, rfl⟩,
      s.eps_onEps _ fun _ => rfl⟩
  case gets =>
    have hseq : ring.getseq + BitVec.ofNat 32 (s.toHw.takenOf site n) = seq := by
      simp only [seq, taken, Hw.takenOf, Bool.decide_and, Bool.and_assoc, beq_eq_decide, Bool.decide_eq_false]
    refine ⟨fun hsome hfree => ?_, fun hempty hpcl => ?_, fun hempty hpcl => ?_⟩
    · rw [execSget_takes hclean hring hopen hslot hseq hsome hfree]
      exact ⟨_, _, writesG _ d _, s.keepsRegs_upd rfl rfl, rfl, rfl, rfl, rfl, rfl, rfl, rfl, rfl⟩
    · rw [execSget_ended hclean hring hopen hslot hseq hempty hpcl]
      exact writesG s d _
    · exact blocks_execSget hclean hring hopen hslot hseq hempty hpcl
  case closesPut =>
    have hclose : s.closing site n sel true = some e :=
      State.closing_of_named hopen (by rcases hsel with rfl | ⟨rfl, -⟩ <;> decide)
    have hnone : s.closing site n sel false = none := by
      rcases hsel with rfl | ⟨-, hget⟩
      · exact State.closing_of_unnamed rfl
      · exact State.closing_of_none hget
    obtain ⟨hcloses, hwaits⟩ := execSclose_producer hring hclose
    refine ⟨fun hres => ⟨_, hcloses hres, State.keepsRegs_closeSides, State.endpoint_closeSides hclose honly, ?_⟩, hwaits⟩
    rw [State.ring_closeSides, hclose, hnone]
    simp [ring]
  case closesGet =>
    have hclose : s.closing site n sel false = some e :=
      State.closing_of_named hopen (by rcases hsel with rfl | ⟨rfl, -⟩ <;> decide)
    have hnone : s.closing site n sel true = none := by
      rcases hsel with rfl | ⟨-, hput⟩
      · exact State.closing_of_unnamed rfl
      · exact State.closing_of_none hput
    refine ⟨_, execSclose_consumer hring hnone hclose, State.keepsRegs_closeSides, State.endpoint_closeSides hclose honly, ?_⟩
    rw [State.ring_closeSides, hclose, hnone]
    simp [ring]
  case closesBoth =>
    have hp : s.closing site n sel true = some e := State.closing_of_named hput (by subst hsel; decide)
    have hc : s.closing site n sel false = some f := State.closing_of_named hget (by subst hsel; decide)
    obtain ⟨hcloses, hwaits⟩ := execSclose_producer hring hp
    refine ⟨fun hres => ⟨_, hcloses hres, State.keepsRegs_closeSides, State.endpoint_closeSides hp honlyPut,
      State.endpoint_closeSides hc honlyGet, ?_⟩, hwaits⟩
    rw [State.ring_closeSides, hp, hc]
    simp [ring]
  case closesNone =>
    refine traps_execSclose hring ?_ ?_
    · by_cases hsel : sel = 2
      · exact State.closing_of_unnamed hsel
      · exact State.closing_of_none (hput hsel)
    · by_cases hsel : sel = 1
      · exact State.closing_of_unnamed hsel
      · exact State.closing_of_none (hget hsel)
  case reports =>
    have hbit (v : Bool) (k : Nat) : v.toNat * 2 ^ k = if v then 2 ^ k else 0 := by cases v <;> simp
    rw [execSstat_writes hring hopen, hbit, hbit]
    exact writesG s d _
  case asks =>
    rw [execAwaitMem_eq hd hx rfl hallow, trapIf_false (by simpa using halign), ok_bind, hfree, blockUnless_true (by rfl), ok_bind, settle_done]
    obtain ⟨-, -, -, hbase, -⟩ := hallow
    exact ⟨s.lineRequest d ea, becomes_onMe s _, rfl, Int.toNat_of_nonneg (by omega), rfl, rfl, rfl, rfl⟩
  case misaligned =>
    rw [execAwaitMem_eq hd hx rfl hallow]
    exact ((trapsWith_trapIf (decide_eq_true halign) _ _ _).bind _).traps s

end Sys2Proof.Machine
end

section
/-! SUPPORT. Accumulates and atomics where they are applied: one number written at its place or line, the landing that a command keeps,
requests of rounds, closes, and the least request of a tag (R245-R257). -/

namespace Sys2Proof.Machine

/-! ### One number written -/

/-- `g` holds the number `v` in `n` bytes at `k`, and every other byte as `h` does. -/
def Hw.PutsNum (h g : Hw) (k n v : Nat) : Prop :=
  g.num k n = v % 256 ^ n ∧ ∀ b, b < k ∨ k + n ≤ b → memRead g.mem b = memRead h.mem b

theorem Hw.PutsNum.of_mem {h h' g g' : Hw} {k n v : Nat} (w : h.PutsNum g k n v) (hh : h'.mem = h.mem) (hg : g'.mem = g.mem) :
    h'.PutsNum g' k n v := by
  rw [Hw.PutsNum, Hw.num_congr hg, hh, hg]
  exact w

theorem Hw.putsNum_putNum {h : Hw} (w : h.Ok) (k n v : Nat) : h.PutsNum (h.putNum k n v) k n v :=
  ⟨Hw.num_putNum_same w k n v, fun _ hb => Hw.memRead_putNum_out w v hb⟩

/-- A number written into a sound line (R101). -/
theorem Hw.putsNum_writeLine {h : Hw} {pa : Nat} (w : h.Ok) (hbad : (h.lineOf pa).bad = false)
    (herr : tabFind h.errs (pa / 64) = none) (n v : Nat) (stamp : LineMeta) :
    h.PutsNum (h.writeLine pa (leBytes n v) stamp) pa n v := by
  obtain ⟨hin, hout⟩ := Hw.writeLine_writes (bs := leBytes n v) w hbad herr stamp
  rw [leBytes_length] at hin hout
  refine ⟨(Hw.num_of_memRead fun i hi => ?_).trans (Hw.num_putNum_same w pa n v), hout⟩
  have hlen : i < (leBytes n v).length := by rwa [leBytes_length]
  rw [hin i hi, List.getD_eq_getElem _ 0 hlen]
  exact (memRead_writeN_in _ pa i w hlen).symm

/-! ### Commands that stay -/

/-- What a filter keeps is found in the list it leaves. -/
theorem find?_filter_of_kept {α : Type} {l : List α} {p keep : α → Bool} {a : α} (hfind : l.find? p = some a) (hkeep : keep a = true) :
    (l.filter keep).find? p = some a := by
  obtain ⟨hp, pre, post, rfl, hpre⟩ := List.find?_eq_some_iff_append.mp hfind
  refine List.find?_eq_some_iff_append.mpr ⟨hp, pre.filter keep, post.filter keep, ?_, fun x hx => hpre x (List.mem_filter.mp hx).1⟩
  rw [List.filter_append, List.filter_cons_of_pos hkeep]

theorem Hw.cmd?_onCmd_same {h : Hw} {co : CoreId} {uid : Nat} {c : Cmd} (hc : h.cmd? co uid = some c) {f : Cmd → Cmd}
    (hf : ∀ c, (f c).uid = c.uid) : (h.onCmd co uid f).cmd? co uid = some (f c) := by
  rw [Hw.cmd?_onCmd _ _ _ _ _ hf, hc, Option.map_some, if_pos ⟨rfl, rfl⟩]

/-- A command whose landing is outstanding stays in its core (R252). -/
theorem Hw.cmd?_sweep {h : Hw} {co : CoreId} {uid : Nat} {c : Cmd} (hc : h.cmd? co uid = some c) (hret : c.op.returns = true)
    (hland : c.landed = false) : (h.onCore co Core.sweep).cmd? co uid = some c := by
  rw [Hw.cmd?, Hw.core_onCore]
  exact find?_filter_of_kept hc (by simp [hret, hland])

/-- The command with an element applied and its landing kept (R249, R251). -/
def Cmd.appliedOne (c : Cmd) (landing : Option (BitVec 128)) : Cmd :=
  { c with
    done := c.done + c.size
    performed := c.performed || decide (c.total ≤ c.done + c.size)
    released := c.released || decide (c.total ≤ c.done + c.size)
    landing := if landing.isSome then landing else c.landing }

theorem Hw.cmd?_applied1 {h : Hw} {co : CoreId} {uid : Nat} {c : Cmd} (hc : h.cmd? co uid = some c) (hret : c.op.returns = true)
    (hland : c.landed = false) (landing : Option (BitVec 128)) :
    (h.applied1 co uid landing).cmd? co uid = some (c.appliedOne landing) := by
  exact Hw.cmd?_sweep (c := c.appliedOne landing) (Hw.cmd?_onCmd_same hc fun _ => rfl) hret hland

/-! ### An element applied -/

section
variable {h : Hw} {co : CoreId} {c : Cmd}

/-- The new value of the element that a command stands at, and whether its comparison held (R248, R250, R251). -/
def Hw.applyAt (h : Hw) (co : CoreId) (c : Cmd) (k : Nat) : Nat × Bool := c.op.apply (h.num k c.size) (h.operandOf co c) c.w

/-- What a command keeps for its landing once its element at `k` is applied (R252). -/
def Hw.keptAt (h : Hw) (co : CoreId) (c : Cmd) (k : Nat) : BitVec 128 :=
  landingBits (c.op.oldField (h.num k c.size)) (h.applyAt co c k).2 false false

/-- One command differs from another at most in the slices that it has reached. -/
def Cmd.SameBut (c c' : Cmd) : Prop := ∃ hit, c' = { c with hit := hit }

/-- Memory takes the new value; a command that returns keeps its landing and stands at its next element. -/
theorem Hw.applyHere_applies {k : Nat} {put : Hw → List Byte → Hw} {c₀ : Cmd}
    (hput : h.PutsNum (put h (leBytes c.size (h.applyAt co c k).1)) k c.size (h.applyAt co c k).1)
    (hc : (put h (leBytes c.size (h.applyAt co c k).1)).cmd? co c.uid = some c₀) (hsame : c.SameBut c₀) :
    h.PutsNum (h.applyHere co c k put) k c.size (h.applyAt co c k).1
      ∧ (c.op.returns = true → c.landed = false → ∃ c', (h.applyHere co c k put).cmd? co c.uid = some c'
        ∧ c'.landing = some (h.keptAt co c k) ∧ c'.done = c.done + c.size) := by
  obtain ⟨hit, rfl⟩ := hsame
  refine ⟨hput.of_mem rfl rfl, fun hret hland =>
    ⟨_, Hw.cmd?_applied1 hc hret hland (if c.op.returns then some (h.keptAt co c k) else none), ?_, rfl⟩⟩
  rw [if_pos hret]
  rfl

end

/-! ### The act of an immediate command -/

/-- Counting a command at its page leaves lines and memory, and of the command all but the slices that it has reached (R111). -/
theorem Hw.countPage_leaves (h : Hw) (co : CoreId) (n pa : Nat) :
    (h.countPage co n pa).lineOf = h.lineOf ∧ (h.countPage co n pa).errs = h.errs ∧ (h.countPage co n pa).mem = h.mem := by
  rw [Hw.countPage]
  split
  · exact ⟨rfl, rfl, rfl⟩
  · split <;> exact ⟨rfl, rfl, rfl⟩

theorem Hw.cmd?_countPage {h : Hw} {co : CoreId} {n : Nat} {c : Cmd} (hc : h.cmd? co n = some c) (pa : Nat) :
    ∃ c₀, (h.countPage co n pa).cmd? co n = some c₀ ∧ c.SameBut c₀ := by
  simp only [Hw.countPage, hc]
  split
  · exact ⟨c, hc, c.hit, rfl⟩
  · exact ⟨_, Hw.cmd?_onCmd_same hc fun _ => rfl, _, rfl⟩

theorem Hw.applyAt_congr {g h : Hw} (hmem : g.mem = h.mem) (co : CoreId) (c : Cmd) (k : Nat) : g.applyAt co c k = h.applyAt co c k := by
  have hoperand : g.operandOf co c = h.operandOf co c := by
    rw [Hw.operandOf, Hw.operandOf, Hw.num_congr hmem]
  rw [Hw.applyAt, Hw.applyAt, Hw.num_congr hmem, hoperand]

section
variable {s : State} {co : CoreId} {n p : Nat} {c : Cmd}

/-- A command acts at its port: it has started, is not over, waits for nothing, and no earlier command of its queue has to go before
its element (R127, R245). -/
def State.ActsAtPort (s : State) (co : CoreId) (n : Nat) (c : Cmd) : Prop :=
  s.toHw.cmd? co n = some c ∧ c.uid = n ∧ c.started = true ∧ c.performed = false ∧ c.fault = none ∧ c.piece = .idle
    ∧ c.op.atPort = true ∧ s.toHw.behind co c (s.toHw.spanPlaces co c.task c.cd [⟨c.dst c.elem, c.size⟩]) true = false
    ∧ s.toHw.behind co c (s.toHw.spanPlaces co c.task c.cs c.accSrc) false = false ∧ ∀ x ∈ c.accSrc, x.addr + x.n ≤ 2 ^ 19

/-- Where the element of a command lies. -/
def State.elemAt (s : State) (co : CoreId) (c : Cmd) : Reach × Hw :=
  s.toHw.reachOf co c.task c.cdi c.cd (c.dst c.elem) c.size c.op.tableOp true

theorem accSrc_inside (hin : ∀ x ∈ c.accSrc, x.addr + x.n ≤ 2 ^ 19) : (c.accSrc.any fun x => decide (2 ^ 19 < x.addr + x.n)) = false :=
  List.any_eq_false.mpr fun x hx => by simpa using hin x hx

/-- An element at a place of local or accumulator memory. -/
theorem atomicApply_key (hacts : s.ActsAtPort co n c) (hrt : c.rt = 0) (hreach : s.elemAt co c = (.key p, s.toHw))
    (hslot : (s.toHw.core (landCore co c.cd.space (c.dst c.elem))).barrierIn (landOff c.cd.space (c.dst c.elem)) c.size = none)
    (hcells : s.toHw.cellErrIn [(p, c.size)] = none) :
    exec (.atomicApply co n) s = .next (s.upd fun h => h.applyHere co c p fun h bs => h.write p bs) := by
  obtain ⟨hc, huid, hstarted, hperformed, hfault, hpiece, hport, hdst, hsrc, hin⟩ := hacts
  rw [State.elemAt] at hreach
  simp only [exec_atomicApply, execAtomicApply, hc, hstarted, hperformed, hfault, hpiece, hport, hrt, State.upd, hdst, hsrc,
    accSrc_inside hin, hreach, hslot, Hw.cellStop, hcells]
  rfl

/-- An element in a sound line that no request waits for (R101). -/
theorem atomicApply_line (hacts : s.ActsAtPort co n c) (hrt : c.rt = 0) (hreach : s.elemAt co c = (.line p, s.toHw))
    (hbad : (s.toHw.lineOf p).bad = false) (herr : tabFind s.errs (p / 64) = none) (hreqs : ∀ r ∈ (s.toHw.home p).reqs, r.pa / 64 ≠ p / 64) :
    exec (.atomicApply co n) s
      = .next (s.upd fun h => (h.countPage co n p).applyHere co c p fun h bs => h.writeLine p bs c.task.stamp) := by
  obtain ⟨hc, huid, hstarted, hperformed, hfault, hpiece, hport, hdst, hsrc, hin⟩ := hacts
  have hcheck : (s.toHw.countPage co n p).checkLine p .clean = (true, s.toHw.countPage co n p) := by
    obtain ⟨hline, herrs, -⟩ := s.toHw.countPage_leaves co n p
    exact Hw.checkLine_of_sound (by rw [hline, hbad]) (by rw [herrs, herr])
  have hnone : ((s.toHw.home p).reqs.any fun r => r.pa / 64 == p / 64) = false :=
    List.any_eq_false.mpr fun r hr => by simpa using hreqs r hr
  rw [State.elemAt] at hreach
  simp only [exec_atomicApply, execAtomicApply, hc, hstarted, hperformed, hfault, hpiece, hport, hrt, State.upd, hdst, hsrc,
    accSrc_inside hin, hreach, hnone, hcheck]
  rfl

/-- The outcome of an element applied: memory takes its new value, and a command that returns keeps its landing (R251, R252). -/
theorem atomicApply_applies (hok : s.Inv) (hacts : s.ActsAtPort co n c) (hrt : c.rt = 0)
    (hwhere : (s.elemAt co c = (.key p, s.toHw) ∧ (s.toHw.core (landCore co c.cd.space (c.dst c.elem))).barrierIn
          (landOff c.cd.space (c.dst c.elem)) c.size = none ∧ s.toHw.cellErrIn [(p, c.size)] = none)
      ∨ (s.elemAt co c = (.line p, s.toHw) ∧ (s.toHw.lineOf p).bad = false ∧ tabFind s.errs (p / 64) = none
        ∧ ∀ r ∈ (s.toHw.home p).reqs, r.pa / 64 ≠ p / 64)) :
    ∃ u : State, exec (.atomicApply co n) s = .next u ∧ s.toHw.PutsNum u.toHw p c.size (s.toHw.applyAt co c p).1
      ∧ (c.op.returns = true → c.landed = false → ∃ c', u.toHw.cmd? co n = some c'
        ∧ c'.landing = some (s.toHw.keptAt co c p) ∧ c'.done = c.done + c.size) := by
  obtain ⟨hc, huid, -⟩ := id hacts
  subst huid
  rcases hwhere with ⟨hreach, hslot, hcells⟩ | ⟨hreach, hbad, herr, hreqs⟩
  · exact ⟨_, atomicApply_key hacts hrt hreach hslot hcells, Hw.applyHere_applies (Hw.putsNum_putNum hok _ _ _) hc ⟨c.hit, rfl⟩⟩
  · obtain ⟨hline, herrs, hmem⟩ := s.toHw.countPage_leaves co c.uid p
    obtain ⟨c₀, hc₀, hsame⟩ := Hw.cmd?_countPage hc p
    have hbad' : ((s.toHw.countPage co c.uid p).lineOf p).bad = false := by rw [hline, hbad]
    have herr' : tabFind (s.toHw.countPage co c.uid p).errs (p / 64) = none := by rw [herrs, herr]
    obtain ⟨hputs, hkeeps⟩ := Hw.applyHere_applies (h := s.toHw.countPage co c.uid p) (k := p) (put := fun h bs => h.writeLine p bs c.task.stamp)
      (Hw.putsNum_writeLine (by rwa [Hw.Ok, hmem]) hbad' herr' _ _ _) (((Hw.writeLine_leaves hbad' herr' _).2 co c.uid).trans hc₀) hsame
    rw [Hw.keptAt, Hw.applyAt_congr hmem, Hw.num_congr hmem] at hkeeps
    rw [Hw.applyAt_congr hmem] at hputs
    exact ⟨_, atomicApply_line hacts hrt hreach hbad herr hreqs, hputs.of_mem hmem.symm rfl, hkeeps⟩

/-! ### Landings -/

/-- The command without its landing. -/
def Cmd.land (c : Cmd) : Cmd := { c with landing := none, landed := true }

/-- The hardware with a landing granule of own local memory written, its full bit set (R252). -/
def Hw.landGranule (h : Hw) (co : CoreId) (n off : Nat) (v : BitVec 128) : Hw :=
  (((h.onCmd co n Cmd.land).putNum (localKey co off) 16 v.toNat).setFull true (localKey co off)).onCore co Core.sweep

/-- The landing granule is written, and the command has landed (R252). -/
theorem atomicLanding_lands {v : BitVec 128} (hc : s.toHw.cmd? co n = some c) (hv : c.landing = some v) (hin : c.sa.toNat + 16 ≤ 2 ^ 19)
    (hslot : (s.toHw.core co).barrierIn c.sa.toNat 16 = none) (htb : c.tb = 0)
    (hbehind : c.rt = 0 → s.toHw.behind co c [(localKey co c.sa.toNat, 16)] true = false) :
    exec (.atomicLanding co n) s = .next (s.upd fun h => h.landGranule co n c.sa.toNat v) := by
  have hbefore : (c.rt == 0 && s.toHw.behind co c [(localKey co c.sa.toNat, 16)] true) = false := by
    by_cases hrt : c.rt = 0
    · rw [hbehind hrt, Bool.and_false]
    · rw [beq_eq_false_iff_ne.mpr hrt, Bool.false_and]
  have hout : ¬2 ^ 19 < c.sa.toNat + 16 := Nat.not_lt.mpr hin
  have hfree : ((s.toHw.onCmd co n fun c => { c with landing := none, landed := true }).core co).barrierIn c.sa.toNat 16 = none := by
    rw [Hw.onCmd, Hw.core_onCore]
    exact hslot
  simp only [exec_atomicLanding, execAtomicLanding, hc, hv, hbefore, State.upd, if_neg hout, hfree, htb, Bool.false_eq_true, if_false,
    if_true]
  rfl

theorem Hw.landGranule_core (h : Hw) (co : CoreId) (n off : Nat) (v : BitVec 128) :
    (h.landGranule co n off v).core co = ((h.core co).onCmd n Cmd.land).sweep := by
  rw [Hw.landGranule, Hw.core_onCore]
  exact congrArg Core.sweep (Hw.core_onCore h co fun k => k.onCmd n Cmd.land)

/-- No command of the number has a landing left. -/
theorem Hw.landGranule_landed {h : Hw} {off : Nat} {v : BitVec 128} {c' : Cmd} (hc : (h.landGranule co n off v).cmd? co n = some c') :
    c'.landing = none ∧ c'.landed = true := by
  have huid : c'.uid = n := by simpa using List.find?_some hc
  have hmem := List.mem_of_find?_eq_some hc
  rw [h.landGranule_core] at hmem
  obtain ⟨x, -, hx⟩ := List.mem_map.mp (List.mem_filter.mp hmem).1
  by_cases hxn : x.uid = n
  · rw [← hx, if_pos (beq_iff_eq.mpr hxn)]
    exact ⟨rfl, rfl⟩
  · rw [if_neg (by simpa using hxn)] at hx
    exact absurd (hx ▸ huid) hxn

theorem Hw.fullAt_landGranule (h : Hw) (co : CoreId) (n off : Nat) (v : BitVec 128) :
    (h.landGranule co n off v).fullAt (localKey co off) = true := by
  show setHas (setPut true _ _) _ = true
  rw [setHas_setPut]
  simp

end

/-! ### Requests of rounds -/

section
variable {s : State} {co : CoreId} {n p : Nat} {c : Cmd}

/-- The request that an element at `pa` makes at its slice (R254, R257). -/
def State.roundRequest (s : State) (co : CoreId) (n : Nat) (c : Cmd) (pa : Nat) : RoundReq :=
  { site := paSite pa, slice := paSlice pa, lid := c.task.lid, wave := c.task.wave, tag := c.rt, k := c.round
    task := c.task.task, iter := c.task.iter, eng := engOfQueue c.q, seq := c.seq, j := c.elem, op := c.op
    pa := pa, va := (c.dst c.elem).toNat, v := s.toHw.operandOf co c, w := c.w, name := c.name, co := co, uid := n
    frame := c.task.frame, counts := !c.hit.contains (sliceKey (paSite pa) (paSlice pa))
    ctx := c.task.ctx, page := s.toHw.pageOf co.isle c.task.ctx (c.dst c.elem).toNat }

theorem State.key_roundRequest :
    (s.roundRequest co n c p).key = [c.round, c.task.task, c.task.iter, if c.q = .load then 0 else 1, c.seq, c.elem] := by
  rw [RoundReq.key, State.roundRequest]
  cases hq : c.q <;> simp [engOfQueue]

/-- An element of a round is accepted at its slice; no byte of memory changes (R257). -/
theorem roundRequestAccept_accepts (hacts : s.ActsAtPort co n c) (hrt : c.rt ≠ 0) (hfatal : (s.toHw.core co).fatal = false)
    (hreach : s.elemAt co c = (.line p, s.toHw)) :
    ∃ u : State, exec (.roundRequestAccept co n) s = .next u ∧ u.rounds = s.rounds ++ [s.roundRequest co n c p] ∧ u.mem = s.mem := by
  obtain ⟨hc, huid, hstarted, hperformed, hfault, hpiece, hport, hdst, hsrc, hin⟩ := hacts
  rw [State.elemAt] at hreach
  simp only [exec_roundRequestAccept, execRoundRequestAccept, hc, hstarted, hperformed, hfault, hpiece, hport, hfatal, State.upd, hdst, hsrc,
    accSrc_inside hin, hreach, beq_eq_false_iff_ne.mpr hrt]
  exact ⟨_, rfl, rfl, rfl⟩

end

/-! ### Closes -/

section
variable {s : State} {site slice lid : Nat} {p : Participant} {l : Launch} {t : TaskRec}

/-- What a slice knows of a participant that it has had no notice of. -/
def blankNote (site slice lid : Nat) (p : Participant) : CloseNote := { site := site, slice := slice, lid := lid, p := p }

/-- The state in which a slice has had a participant's first notice. -/
def State.noted (s : State) (site slice lid : Nat) (p : Participant) (y : CloseNote) : State :=
  s.upd fun h => { h with closed := h.closed.filter (fun x => x != blankNote site slice lid p) ++ [y] }

/-- A participant that a slice has had no notice of, whose task stands at `t`, by a route to the slice. -/
structure State.MayNotify (s : State) (site slice lid : Nat) (p : Participant) (l : Launch) (t : TaskRec) : Prop where
  launch : s.toHw.launch? lid = some l
  rec_ : l.recs.find? (fun t => t.task == p.task && t.iter == p.iter && t.wave == p.wave) = some t
  route : s.toHw.linked t.co.isle site = true
  new : ∀ y ∈ s.closed, ¬(y.site = site ∧ y.slice = slice ∧ y.lid = lid ∧ y.p = p)

theorem State.MayNotify.find (h : s.MayNotify site slice lid p l t) :
    s.closed.find? (fun n => n.site == site && n.slice == slice && n.lid == lid && n.p == p) = none :=
  List.find?_eq_none.mpr fun y hy => by simpa [and_assoc] using h.new y hy

/-- A task that has retired has closed every round once its earlier commands are performed (R255). -/
theorem roundCloseNotice_retired (h : s.MayNotify site slice lid p l t) (hst : t.st = .retired)
    (hcmds : ∀ y ∈ (s.toHw.core t.co).cmds, y.op ≠ .close → y.performed = true) :
    exec (.roundCloseNotice site slice lid p) s = .next (s.noted site slice lid p { blankNote site slice lid p with all := true }) := by
  have hall (q : Cmd → Bool) : (((s.toHw.core t.co).cmds.filter q).all fun c => c.op == .close || c.performed) = true :=
    List.all_eq_true.mpr fun y hy => by
      by_cases hop : y.op = .close
      · rw [hop]; rfl
      · rw [hcmds y (List.mem_filter.mp hy).1 hop, Bool.or_true]
  simp only [exec_roundCloseNotice, execRoundCloseNotice, h.find, h.launch, h.rec_, h.route, hst, hall, Option.getD_none, Bool.or_false,
    Bool.not_true, Bool.or_eq_true, beq_iff_eq, reduceCtorEq, or_self, if_false, Bool.and_eq_true, and_false, false_and, Bool.not_and,
    Bool.not_eq_eq_eq_not, beq_eq_false_iff_ne, ne_eq, not_false_eq_true, or_true, true_or, if_true]
  rfl

/-- A task that a trap has ended has closed every round (R255). -/
theorem roundCloseNotice_fatal (h : s.MayNotify site slice lid p l t) (hst : t.st = .running) (htask : (s.toHw.core t.co).task ≠ none)
    (hfatal : (s.toHw.core t.co).fatal = true) :
    exec (.roundCloseNotice site slice lid p) s = .next (s.noted site slice lid p { blankNote site slice lid p with all := true }) := by
  simp only [exec_roundCloseNotice, execRoundCloseNotice, h.find, h.launch, h.rec_, h.route, hst, hfatal,
    Option.isSome_iff_ne_none.mpr htask, Option.getD_none, Bool.or_false, Bool.not_true, Bool.or_eq_true, beq_iff_eq, reduceCtorEq,
    or_self, if_false, BEq.rfl, Bool.and_self, if_true]
  rfl

/-- The commands of a participant's engine in its core. -/
def State.ownCmds (s : State) (lid : Nat) (p : Participant) (co : CoreId) : List Cmd :=
  (s.toHw.core co).cmds.filter (fun c => c.rt == p.tag && engOfQueue c.q == p.eng && c.task.task == p.task
    && c.task.iter == p.iter && c.task.lid == lid)

/-- The first `xclose` of a running participant counts once it is at its place in the queue (R255, R257). -/
theorem roundCloseNotice_close {y : Cmd} (h : s.MayNotify site slice lid p l t) (hst : t.st = .running)
    (htask : (s.toHw.core t.co).task ≠ none) (hfatal : (s.toHw.core t.co).fatal = false)
    (hdone : ((s.toHw.core t.co).eng p.eng).st ≠ .done)
    (hclose : (s.ownCmds lid p t.co).find? (fun c => c.op == .close && c.round == 1) = some y) (hstarted : y.started = true)
    (hfault : y.fault = none) (hbefore : (s.toHw.core t.co).acceptedBefore y = true) :
    exec (.roundCloseNotice site slice lid p) s = .next (s.noted site slice lid p { blankNote site slice lid p with n := 1 }) := by
  rw [State.ownCmds] at hclose
  simp only [exec_roundCloseNotice, execRoundCloseNotice, h.find, h.launch, h.rec_, h.route, hst, hfatal,
    Option.isSome_iff_ne_none.mpr htask, Option.getD_none, Nat.zero_add, hclose, hstarted, hfault, hbefore, beq_eq_false_iff_ne.mpr hdone,
    Bool.or_false, Bool.not_true, Bool.or_eq_true, beq_iff_eq, reduceCtorEq, or_self, if_false, BEq.rfl, Bool.and_self, Bool.and_false,
    Bool.false_eq_true, Bool.or_self, Option.isNone_none, if_true]
  rfl

theorem State.hasClosed_noted {y : CloseNote} (hy : y.site = site ∧ y.slice = slice ∧ y.lid = lid ∧ y.p = p) {j : Nat}
    (hj : y.all = true ∨ j ≤ y.n) : (s.noted site slice lid p y).toHw.hasClosed site slice lid p j = true := by
  obtain ⟨hsite, hslice, hlid, hp⟩ := hy
  simp [Hw.hasClosed, State.noted, State.upd, hsite, hslice, hlid, hp, hj]

/-- A notice of every round closes each of them. -/
theorem State.hasClosed_all (j : Nat) :
    (s.noted site slice lid p { blankNote site slice lid p with all := true }).toHw.hasClosed site slice lid p j = true :=
  State.hasClosed_noted (y := { blankNote site slice lid p with all := true }) ⟨rfl, rfl, rfl, rfl⟩ (.inl rfl)

theorem State.hasClosed_first :
    (s.noted site slice lid p { blankNote site slice lid p with n := 1 }).toHw.hasClosed site slice lid p 1 = true :=
  State.hasClosed_noted (y := { blankNote site slice lid p with n := 1 }) ⟨rfl, rfl, rfl, rfl⟩ (.inr le_rfl)

end

/-! ### What a write of a line leaves -/

/-- Only memory with what goes with it, lines, slices, monitors and cores differ. -/
def Hw.OnlyStore (h g : Hw) : Prop := g = { h with
  mem := g.mem
  tags := g.tags
  pmark := g.pmark
  dirty := g.dirty
  errs := g.errs
  lineMeta := g.lineMeta
  slices := g.slices
  monitors := g.monitors
  cores := g.cores }

theorem Hw.OnlyStore.trans {h g k : Hw} (hg : h.OnlyStore g) (hk : g.OnlyStore k) : h.OnlyStore k := by
  rw [Hw.OnlyStore] at hg hk ⊢
  rw [hk, hg]

theorem Hw.OnlyLines.onlyStore {h g : Hw} (hg : h.OnlyLines g) : h.OnlyStore g := by
  rw [Hw.OnlyLines] at hg
  rw [Hw.OnlyStore, hg]

theorem Hw.onlyStore_foldl {α : Type} {f : Hw → α → Hw} (hf : ∀ (h : Hw) a, h.OnlyStore (f h a)) (l : List α) (h : Hw) :
    h.OnlyStore (l.foldl f h) := by
  induction l generalizing h with
  | nil => rfl
  | cons a l ih => exact (hf h a).trans (ih (f h a))

theorem Hw.onlyStore_setCore (h : Hw) (co : CoreId) (k : Core) : h.OnlyStore (h.setCore co k) := rfl

theorem Hw.onlyStore_wake (h : Hw) (co : CoreId) (e : EngId) (status : Nat) : h.OnlyStore (h.wake co e status) :=
  h.onlyStore_setCore co _

theorem Hw.onlyStore_releaseMonitors (h : Hw) (site status : Nat) (p : Monitor → Bool) : h.OnlyStore (h.releaseMonitors site status p) := by
  rw [Hw.releaseMonitors]
  have hwake (h : Hw) (m : Monitor) : h.OnlyStore (h.wake m.co m.eng status) := h.onlyStore_wake _ _ _
  refine Hw.OnlyStore.trans (g := { h with monitors := tabPut ((h.monitorsOf site).filter (fun m => !p m)) site h.monitors }) rfl ?_
  exact Hw.onlyStore_foldl hwake _ _

theorem Hw.OnlyStore.write_onLine {h g : Hw} (hg : h.OnlyStore g) (k : Nat) (bs : List Byte) (pa : Nat) (f : LineMeta → LineMeta) :
    h.OnlyStore ((g.write k bs).onLine pa f) :=
  hg.trans rfl

theorem Hw.onlyStore_writeLine (h : Hw) (pa : Nat) (bs : List Byte) (stamp : LineMeta) : h.OnlyStore (h.writeLine pa bs stamp) := by
  rw [Hw.writeLine]
  have hcheck (b : Bool) :
      h.OnlyStore (if b = true then (true, ({ h with errs := tabDel (pa / 64) h.errs } : Hw)) else h.checkLine pa .clean).2 := by
    split
    · rfl
    · exact (h.onlyLines_checkLine pa .clean).onlyStore
  specialize hcheck (decide (pa % 64 = 0) && decide (64 ≤ bs.length))
  generalize (if (decide (pa % 64 = 0) && decide (64 ≤ bs.length)) = true then (true, ({ h with errs := tabDel (pa / 64) h.errs } : Hw))
    else h.checkLine pa .clean) = r at hcheck ⊢
  obtain ⟨ok, g⟩ := r
  dsimp only at hcheck ⊢
  have hmark (c : Bool) (f : LineMeta → LineMeta) : g.OnlyStore (if c = true then g.onLine pa f else g) := by split <;> rfl
  split
  · exact hcheck.trans (hmark _ _)
  · exact ((hcheck.trans (hmark _ _)).write_onLine _ _ _ _).trans (Hw.onlyStore_releaseMonitors _ _ _ _)

/-! ### The least request of a tag -/

theorem keyLess_asymm {a b : List Nat} (h : keyLess a b = true) : keyLess b a = false := by
  induction a generalizing b with
  | nil => exact absurd h Bool.false_ne_true
  | cons x a ih =>
    cases b with
    | nil => exact absurd h Bool.false_ne_true
    | cons y b =>
      rw [keyLess] at h ⊢
      by_cases hxy : x = y
      · rw [if_pos hxy] at h
        rw [if_pos hxy.symm]
        exact ih h
      · rw [if_neg hxy] at h
        rw [if_neg (Ne.symm hxy)]
        simp only [decide_eq_true_eq, decide_eq_false_iff_not] at h ⊢
        omega

/-- Of two requests the one with the lesser key (R254). -/
def lesser (a b : RoundReq) : RoundReq := if keyLess b.key a.key then b else a

theorem lesser_cases (a b : RoundReq) : lesser a b = a ∨ lesser a b = b := by
  rw [lesser]
  split <;> simp

/-- The request whose key is below every other's is the least. -/
theorem foldl_lesser {q : RoundReq} {l : List RoundReq} {a : RoundReq} (hmem : q ∈ a :: l)
    (hleast : ∀ y ∈ a :: l, y ≠ q → keyLess q.key y.key = true) : l.foldl lesser a = q := by
  induction l generalizing a with
  | nil => exact (List.mem_singleton.mp hmem).symm
  | cons b l ih =>
    rw [List.foldl_cons]
    have ha : a ≠ q → keyLess q.key a.key = true := hleast a List.mem_cons_self
    have hb : b ≠ q → keyLess q.key b.key = true := hleast b (List.mem_cons_of_mem _ List.mem_cons_self)
    refine ih ?_ fun y hy => ?_
    · rcases List.mem_cons.mp hmem with rfl | hmem
      · by_cases hbq : b = q
        · exact List.mem_cons.mpr (.inl ((lesser_cases q b).elim Eq.symm fun h => h.trans hbq |>.symm))
        · rw [lesser, keyLess_asymm (hb hbq)]
          exact List.mem_cons_self
      · rcases List.mem_cons.mp hmem with rfl | hmem
        · by_cases haq : a = q
          · exact List.mem_cons.mpr (.inl ((lesser_cases a q).elim (fun h => (h.trans haq).symm) Eq.symm))
          · rw [lesser, ha haq]
            exact List.mem_cons_self
        · exact List.mem_cons_of_mem _ hmem
    · rcases List.mem_cons.mp hy with rfl | hy
      · exact (lesser_cases a b).elim (fun h => by rw [h]; exact ha) fun h => by rw [h]; exact hb
      · exact hleast y (List.mem_cons_of_mem _ (List.mem_cons_of_mem _ hy))

/-! ### A request of a round applied -/

/-- The bytes that a request of a round applies to (R248, R250). -/
def XOp.roundSize : XOp → Nat
  | .acc k => k.size
  | .fadd32 => 4
  | _ => 8

section
variable {h : Hw} {q : RoundReq}

/-- The slice's requests without one, the request counted at its page where it is the first of its command there (R245). -/
def Hw.takeRound (h : Hw) (q : RoundReq) : Hw :=
  if q.counts then ({ h with rounds := h.rounds.filter (fun x => x != q) } : Hw).onPage q.pa (fun p => p.count q.co.isle)
  else { h with rounds := h.rounds.filter (fun x => x != q) }

theorem Hw.takeRound_leaves (h : Hw) (q : RoundReq) :
    (h.takeRound q).rounds = h.rounds.filter (fun x => x != q) ∧ (h.takeRound q).stall = h.stall ∧ (h.takeRound q).mem = h.mem
      ∧ (h.takeRound q).lineOf = h.lineOf ∧ (h.takeRound q).errs = h.errs := by
  rw [Hw.takeRound]
  split <;> exact ⟨rfl, rfl, rfl, rfl, rfl⟩

/-- The new value of a request's element (R248, R250, R251). -/
def Hw.roundValue (h : Hw) (q : RoundReq) : Nat := (q.op.apply (h.num q.pa q.op.roundSize) q.v q.w).1

/-- A request applied to a sound line, where it launches no continuation: the line is written, and a command that returns has its
landing. -/
theorem Hw.applyRound_of_sound (hop : q.op ≠ .casGo) (hbad : (h.lineOf q.pa).bad = false) (herr : tabFind h.errs (q.pa / 64) = none) :
    ∃ (stamp : LineMeta) (f : Cmd → Cmd),
      h.applyRound q = (fun g : Hw => if q.op.returns then g.onCmd q.co q.uid f else g)
        ((h.takeRound q).writeLine q.pa (leBytes q.op.roundSize (h.roundValue q)) stamp) := by
  obtain ⟨-, -, hmem, hline, herrs⟩ := h.takeRound_leaves q
  have hcheck : (h.takeRound q).checkLine q.pa .clean = (true, h.takeRound q) :=
    Hw.checkLine_of_sound (by rw [hline, hbad]) (by rw [herrs, herr])
  have hnum : (h.takeRound q).num = h.num := Hw.num_congr hmem
  have hno : (q.op == .casGo) = false := beq_eq_false_iff_ne.mpr hop
  rw [Hw.takeRound] at hcheck hnum
  simp only [Hw.applyRound, hcheck, hnum, hno]
  exact ⟨_, _, rfl⟩

/-- What a request that is applied leaves: its element's new value, the other requests, no access that waits for a route. -/
theorem Hw.applyRound_applies (hok : h.Ok) (hop : q.op ≠ .casGo) (hbad : (h.lineOf q.pa).bad = false)
    (herr : tabFind h.errs (q.pa / 64) = none) :
    (h.applyRound q).rounds = h.rounds.filter (fun x => x != q) ∧ (h.applyRound q).stall = h.stall
      ∧ h.PutsNum (h.applyRound q) q.pa q.op.roundSize (h.roundValue q) := by
  obtain ⟨hrounds, hstall, hmem, hline, herrs⟩ := h.takeRound_leaves q
  obtain ⟨stamp, f, happly⟩ := Hw.applyRound_of_sound hop hbad herr
  have honly := (h.takeRound q).onlyStore_writeLine q.pa (leBytes q.op.roundSize (h.roundValue q)) stamp
  have hputs := Hw.putsNum_writeLine (h := h.takeRound q) (pa := q.pa) (by rwa [Hw.Ok, hmem]) (by rw [hline, hbad]) (by rw [herrs, herr])
    q.op.roundSize (h.roundValue q) stamp
  have hland (g : Hw) : (if q.op.returns then g.onCmd q.co q.uid f else g).rounds = g.rounds
      ∧ (if q.op.returns then g.onCmd q.co q.uid f else g).stall = g.stall
      ∧ (if q.op.returns then g.onCmd q.co q.uid f else g).mem = g.mem := by
    split <;> exact ⟨rfl, rfl, rfl⟩
  obtain ⟨hr, hs, hm⟩ := hland ((h.takeRound q).writeLine q.pa (leBytes q.op.roundSize (h.roundValue q)) stamp)
  rw [happly]
  refine ⟨hr.trans (Eq.trans ?_ hrounds), hs.trans (Eq.trans ?_ hstall), hputs.of_mem hmem.symm hm⟩
  · rw [honly]
  · rw [honly]

end

section
variable {s : State} {site slice lid wave tag : Nat} {l : Launch} {q : RoundReq}

/-- The requests of a tag in a wave at a slice. -/
def State.roundsAt (s : State) (site slice lid wave tag : Nat) : List RoundReq :=
  s.rounds.filter (fun q => q.site == site && q.slice == slice && q.lid == lid && q.wave == wave && q.tag == tag)

/-- The least request of its tag whose round its predecessors have closed is applied (R254, R256). -/
theorem roundApply_least (hl : s.toHw.launch? lid = some l) (hq : q ∈ s.roundsAt site slice lid wave tag)
    (hleast : ∀ y ∈ s.roundsAt site slice lid wave tag, y ≠ q → keyLess q.key y.key = true)
    (hown : s.toHw.hasClosed site slice lid q.part q.k = true)
    (hparts : ∀ p ∈ l.roundParts wave tag, (partBefore p q.part = true → s.toHw.hasClosed site slice lid p q.k = true)
      ∧ (1 < q.k → s.toHw.hasClosed site slice lid p (q.k - 1) = true))
    (hreqs : ∀ r ∈ (s.toHw.slice site slice).reqs, r.pa / 64 ≠ q.pa / 64) :
    exec (.roundApply site slice lid wave tag) s = .next (s.attempt fun h => h.applyRound q) := by
  have hnone : ((s.toHw.slice site slice).reqs.any fun r => r.pa / 64 == q.pa / 64) = false :=
    List.any_eq_false.mpr fun r hr => by simpa using hreqs r hr
  have hall : ((l.roundParts wave tag).all fun p => (!partBefore p q.part || s.toHw.hasClosed site slice lid p q.k)
      && (decide (q.k ≤ 1) || s.toHw.hasClosed site slice lid p (q.k - 1))) = true := by
    refine List.all_eq_true.mpr fun p hp => ?_
    obtain ⟨hbefore, hlast⟩ := hparts p hp
    rw [Bool.and_eq_true, Bool.or_eq_true, Bool.or_eq_true, Bool.not_eq_true', decide_eq_true_eq]
    refine ⟨?_, ?_⟩
    · by_cases hb : partBefore p q.part = true
      · exact .inr (hbefore hb)
      · exact .inl (Bool.eq_false_iff.mpr hb)
    · by_cases hk : q.k ≤ 1
      · exact .inl hk
      · exact .inr (hlast (Nat.lt_of_not_le hk))
  cases hlist : s.roundsAt site slice lid wave tag with
  | nil =>
    rw [hlist] at hq
    exact absurd hq List.not_mem_nil
  | cons q₀ rest =>
    rw [hlist] at hq hleast
    have hfold : rest.foldl (fun a b => if keyLess b.key a.key then b else a) q₀ = q := foldl_lesser hq hleast
    rw [State.roundsAt] at hlist
    simp only [exec_roundApply, execRoundApply, hlist, hl, hfold, hown, hall, hnone]
    rfl

end

/-- Settles O51: an element is one number written at its place or line, and the command keeps what its landing returns; a slice's
notices and requests are lists that each act extends or shortens by one. -/
theorem appliedOperations : Obligations.AppliedOperations := by
  unfold Obligations.AppliedOperations
  intro s co n site slice lid wave tag c k a runs reach writes
  refine ⟨fun p hok hruns hrt hwhere => atomicApply_applies hok hruns hrt hwhere,
    fun v hok hc huid hv hsa hin hslot htb hbehind => ?lands, fun p hruns hrt hfatal hreach => ?accepts,
    fun l p t hl ht hst hroute hcmds hnew => ?retired, fun l p t hl ht hst hroute htask hfatal hnew => ?fatal,
    fun l p t y hl ht hst => ?closes,
    fun l q hok hl hq hsite hslice hlid hwave htag hop hleast hown hparts hreqs hbad herr => ?applies⟩
  case lands =>
    exact ⟨_, atomicLanding_lands hc hv hin hslot htb hbehind, (Hw.putsNum_putNum hok _ _ _).of_mem rfl rfl,
      s.toHw.fullAt_landGranule _ _ _ _, fun c' hc' => Hw.landGranule_landed hc'⟩
  case accepts =>
    obtain ⟨u, hu, hrounds, hmem⟩ := roundRequestAccept_accepts hruns hrt hfatal hreach
    exact ⟨u, _, hu, hrounds, rfl, rfl, rfl, rfl, rfl, rfl, rfl, State.key_roundRequest, rfl, rfl, rfl, fun b => by rw [hmem]⟩
  case retired =>
    exact ⟨_, _, roundCloseNotice_retired ⟨hl, ht, hroute, hnew⟩ hst hcmds, List.mem_append_right _ (List.mem_singleton_self _), rfl, rfl, rfl,
      rfl, rfl, rfl⟩
  case fatal =>
    exact ⟨_, roundCloseNotice_fatal ⟨hl, ht, hroute, hnew⟩ hst htask hfatal,
      State.hasClosed_all, rfl⟩
  case closes =>
    intro own htask hfatal hdone hclose hstarted hfault hroute hbefore hnew
    refine ⟨_, roundCloseNotice_close ⟨hl, ht, hroute, hnew⟩ hst htask hfatal hdone hclose hstarted hfault ?_,
      State.hasClosed_first, rfl⟩
    refine List.all_eq_true.mpr fun z hz => ?_
    have hz := hbefore z hz
    simp only [Bool.or_eq_true, bne_iff_ne, beq_iff_eq, decide_eq_true_eq, ← Nat.not_lt]
    tauto
  case applies =>
    intro size
    have hsize : size = q.op.roundSize := by
      simp only [size]
      cases q.op <;> rfl
    have hmem : q ∈ s.roundsAt site slice lid wave tag := List.mem_filter.mpr ⟨hq, by simp [hsite, hslice, hlid, hwave, htag]⟩
    obtain ⟨hrounds, hstall, hputs⟩ := Hw.applyRound_applies (h := s.toHw.atRest) hok hop hbad herr
    have hexec := roundApply_least hl hmem (fun y hy hne => ?_) hown hparts hreqs
    · rw [State.attempt_of_routed hstall] at hexec
      rw [hsize]
      exact ⟨_, hexec, hrounds, hputs⟩
    · obtain ⟨hy, hkey⟩ := List.mem_filter.mp hy
      simp only [Bool.and_eq_true, beq_iff_eq, and_assoc] at hkey
      obtain ⟨hs, hsl, hld, hw, htg⟩ := hkey
      exact hleast y hy hne hs hsl hld hw htg

end Sys2Proof.Machine
end

section
/-! SUPPORT. Two writes of a command queue's record that do not come about: at a line that is BAD, and where the record lies across
two squares (R15, R105, R337, R338). -/

namespace Sys2Proof.Machine

/-- An access table whose first entry admits quay 0, whatever the key, to every address (R97). -/
def openTable : AccTable := { entries := [(0, 0xffffffff000000000000000000207f01#128)] }

/-! ### A record whose line is BAD -/

/-- Queue 0 without a slot; its record lies in square 1, its line uncorrectable (R105). -/
def badRecord : State := State.reset.upd fun h => { h with
  cfg := { h.cfg with qtbase := 2 ^ 36 }
  slices := [(sliceKey 1 (paSlice (2 ^ 36)), { ({} : Slice) with acc := openTable })]
  lineMeta := [(2 ^ 36 / 64, { ({} : LineMeta) with bad := true })] }

theorem badRecord_admits : badRecord.Inv ∧ (badRecord.toHw.quay 0).slotOf 0 = none
    ∧ badRecord.toHw.barAt (quayMaster 0 0) opWrite (badRecord.toHw.recordPa 0 + 48) = none := by decide +kernel

/-- The doorbell write leaves SHADOW at 0. -/
theorem badRecord_dbnotify : ∃ t : State, exec (.dbnotify 0 1) badRecord = .next t ∧ t.toHw.num (badRecord.toHw.recordPa 0 + 48) 8 = 0
    ∧ badRecord.toHw.num (badRecord.toHw.recordPa 0 + 48) 8 = 0 :=
  ⟨badRecord.attempt (fun h => h.notify 0 1), rfl, by decide +kernel⟩

/-- Refutes O55: a doorbell write of a queue without a slot whose record's line is BAD leaves SHADOW as it was, since a write of a part of
an uncorrectable line changes nothing (R105), while what bars a write does not ask for that. -/
theorem not_doorbellsAndMapping : ¬ Obligations.DoorbellsAndMapping := by
  unfold Obligations.DoorbellsAndMapping
  intro h
  obtain ⟨-, hnotify, -⟩ := h badRecord 0 0 0 1
  obtain ⟨hok, hslot, hwrites⟩ := badRecord_admits
  obtain ⟨u, hu, ⟨hshadow, -⟩, -⟩ := hnotify hok hslot hwrites
  obtain ⟨t, ht, hnum, hold⟩ := badRecord_dbnotify
  obtain rfl : t = u := by simpa using ht.symm.trans hu
  rw [hnum, hold] at hshadow
  exact absurd hshadow (by decide)

/-! ### A record across two squares -/

/-- A RETURN packet (R343). -/
def returnBytes : List Byte := leBytes 8 3 ++ List.replicate 56 0

/-- Queue 0 in slot 0 inside a buffer, a RETURN read; the last submitted position stands behind it, and a QCMD waits to unmap the queue
once it is idle (R338). SHADOW of its record lies in square 25, whose causeways are out of service, RIDXC in square 26, which quay 0
reaches by isle 0. -/
def splitRecord : State := State.reset.upd fun h => { h with
  cfg := { h.cfg with qtbase := 26 * 2 ^ 36 - 56 }
  quays := [(0, { ({} : Quay) with slots := [(0, { q := 0, widx := 8 })], unmapWait := [0] })]
  queues := [(0, { ({} : HQueue) with pending := some returnBytes, readIdx := 7, readChain := [(0, 0, 2)] })]
  isles := (0, { inService := true, transit := true, ports := 15 }) :: (List.range 12).map (fun i => (2 * i + 2, { inService := false, transit := false, ports := 0 }))
  sqPorts := [(25, 0)]
  slices := [(sliceKey 26 (paSlice (26 * 2 ^ 36)), { ({} : Slice) with acc := openTable })] }

theorem splitRecord_returns : (splitRecord.toHw.queue 0).pending = some returnBytes ∧ pktType returnBytes = 3 ∧ zeroFrom returnBytes 8 = true
    ∧ (splitRecord.toHw.queue 0).readChain ≠ []
    ∧ splitRecord.toHw.barAt (quayMaster 0 0) opWrite (splitRecord.toHw.recordPa 0 + 56) ≠ some .route := by decide +kernel

/-- The queue would be unmapped, and the write of SHADOW waits for a route: nothing happens. -/
theorem splitRecord_returnPacket : exec (.returnPacket 0) splitRecord = .next splitRecord := by
  have hstall : (((splitRecord.toHw.atRest.onQueue 0 fun x => { x with readIdx := 8, readChain := [], pending := none }).onQueue 0
      fun x => { x with ridx := 8, chain := [], idleSince := 0 }).copyRidx 0 |>.settleUnmap 0).stall = true := by decide +kernel
  exact congrArg Host.Outcome.next (State.attempt_of_stalled hstall)

/-- Refutes O56: the RETURN that makes a queue idle which waits to be unmapped writes SHADOW beside RIDXC, and a record that lies across two
squares may have a route to the one and none to the other. -/
theorem not_lookAhead : ¬ Obligations.LookAhead := by
  unfold Obligations.LookAhead
  intro h
  obtain ⟨-, -, -, -, hreturn⟩ := h splitRecord 0 returnBytes (0, [])
  obtain ⟨hpending, htype, hzero, hchain, hroute⟩ := splitRecord_returns
  obtain ⟨u, hu, -, -, hnone, -⟩ := (hreturn hpending htype hzero).1 hchain fun _ => hroute
  obtain rfl : splitRecord = u := by simpa using splitRecord_returnPacket.symm.trans hu
  rw [hpending] at hnone
  cases hnone

end Sys2Proof.Machine
end

section
/-! SUPPORT. Link ports: what the bytes of a flit say, what a port holds and tells once it has taken one, and what stays while the flits of a
port that goes down find other ways (R278-R286). -/

namespace Sys2Proof.Machine

/-! ### The bytes of a flit -/

theorem Flit.header_body (f : Flit) : BitVec.ofNat 128 (leNat (f.body.take 16)) = f.header := by
  have htake : f.body.take 16 = leBytes 16 f.header.toNat := by
    rw [Flit.body, List.append_assoc]
    exact List.take_left' (leBytes_length _ _)
  rw [htake, leNat_leBytes, Nat.mod_eq_of_lt (by exact f.header.isLt), BitVec.ofNat_toNat, BitVec.setWidth_eq]

theorem Flit.payload_body {f : Flit} (hlen : f.payload.length = 224) : (f.body.drop 16).take 224 = f.payload := by
  rw [Flit.body, List.append_assoc, List.drop_left' (leBytes_length _ _), hlen, Nat.sub_self, List.replicate_zero, List.append_nil,
    List.take_of_length_le hlen.le]
  exact List.take_left' hlen

theorem Flit.trailer_body (f : Flit) : BitVec.ofNat 64 (leNat ((f.body.drop 240).take 8)) = f.trailer := by
  have hdrop : f.body.drop 240 = leBytes 8 f.trailer.toNat := by
    rw [Flit.body]
    exact List.drop_left' (by simp; omega)
  rw [hdrop, List.take_of_length_le (leBytes_length _ _).le, leNat_leBytes, Nat.mod_eq_of_lt (by exact f.trailer.isLt), BitVec.ofNat_toNat,
    BitVec.setWidth_eq]

theorem Flit.header_fields (f : Flit) :
    f.header.extractLsb' 124 4 = f.type ∧ f.header.extractLsb' 122 2 = f.cls ∧ f.header.extractLsb' 109 13 = f.dst
    ∧ f.header.extractLsb' 96 13 = f.src ∧ f.header.extractLsb' 90 6 = f.pkey ∧ f.header.extractLsb' 74 16 = f.flow
    ∧ f.header.extractLsb' 66 8 = f.len ∧ f.header.extractLsb' 31 35 = f.off ∧ f.header.extractLsb' 25 6 = f.hops
    ∧ f.header.extractLsb' 0 25 = f.xseq := by
  rw [Flit.header]
  refine ⟨?_, ?_, ?_, ?_, ?_, ?_, ?_, ?_, ?_, BitVec.extractLsb'_append_eq_right⟩ <;>
    repeat rw [BitVec.extractLsb'_append_eq_of_le (by decide)]
  case refine_1 => exact BitVec.extractLsb'_eq_self
  all_goals exact BitVec.extractLsb'_append_eq_right

theorem Flit.trailer_fields (f : Flit) :
    f.trailer.extractLsb' 48 16 = f.hseq ∧ f.trailer.extractLsb' 32 16 = f.hack ∧ f.trailer.extractLsb' 0 32 = f.cred := by
  rw [Flit.trailer]
  refine ⟨?_, ?_, BitVec.extractLsb'_append_eq_right⟩ <;> repeat rw [BitVec.extractLsb'_append_eq_of_le (by decide)]
  case refine_1 => exact BitVec.extractLsb'_eq_self
  case refine_2 => exact BitVec.extractLsb'_append_eq_right

/-- The bytes of a flit say what the flit holds, field by field (R278, R279). -/
theorem flitOf_body {f : Flit} (hlen : f.payload.length = 224) : flitOf f.body = f := by
  obtain ⟨htype, hcls, hdst, hsrc, hpkey, hflow, hlength, hoff, hhops, hxseq⟩ := f.header_fields
  obtain ⟨hhseq, hhack, hcred⟩ := f.trailer_fields
  simp only [flitOf, f.header_body, f.trailer_body, Flit.payload_body hlen, htype, hcls, hdst, hsrc, hpkey, hflow, hlength, hoff, hhops,
    hxseq, hhseq, hhack, hcred]

/-! ### Ports and what they tell -/

section
variable {h : Hw} {p : Nat}

theorem Hw.port_onPort_same (hp : p ≠ 128) (f : Port → Port) : (h.onPort p f).port p = f (h.port p) := by
  rw [Hw.onPort, if_neg hp]
  exact tabGet_put_same _ _ _ _

theorem Hw.port_onPort_other {e : Nat} (he : e ≠ p) (f : Port → Port) : (h.onPort p f).port e = h.port e := by
  rw [Hw.onPort]
  split
  · rfl
  · exact tabGet_put_other _ _ he _

theorem Hw.port_tellAll (h : Hw) (p : Nat) : h.tellAll.port p = (h.port p).tell := tabGet_map Port.tell {} h.ports p

theorem Hw.onPort_onPort (hp : p ≠ 128) (f g : Port → Port) : (h.onPort p f).onPort p g = h.onPort p (fun x => g (f x)) := by
  rw [Hw.onPort, if_neg hp, Hw.port_onPort_same hp, Hw.onPort, Hw.onPort, if_neg hp, if_neg hp]
  simp only [tabPut_put_same]

/-- The hardware differs from `h` in its ports alone. -/
def Hw.OnlyPorts (h g : Hw) : Prop := g = { h with ports := g.ports }

theorem Hw.OnlyPorts.trans {h g k : Hw} (hg : h.OnlyPorts g) (hk : g.OnlyPorts k) : h.OnlyPorts k := by
  rw [Hw.OnlyPorts] at hg hk ⊢
  rw [hk, hg]

theorem Hw.onlyPorts_onPort (hp : p ≠ 128) (f : Port → Port) : h.OnlyPorts (h.onPort p f) := by
  rw [Hw.onPort, if_neg hp]
  rfl

theorem Hw.onlyPorts_tellAll (h : Hw) : h.OnlyPorts h.tellAll := rfl

end

/-- The state differs from `s` in its ports alone. -/
def State.OnlyPorts (s u : State) : Prop := u = { s with toHw := { s.toHw with ports := u.ports } }

theorem State.onlyPorts_upd {s : State} {f : Hw → Hw} (hf : s.toHw.OnlyPorts (f s.toHw)) : s.OnlyPorts (s.upd f) := by
  rw [State.OnlyPorts, State.upd]
  exact congrArg (fun h => ({ s with toHw := h } : State)) hf

/-- An act that changes ports alone needs no route. -/
theorem State.attempt_onlyPorts {s : State} {f : Hw → Hw} (hf : s.toHw.atRest.OnlyPorts (f s.toHw.atRest)) :
    s.OnlyPorts (s.attempt f) ∧ ∀ p, (s.attempt f).toHw.port p = (f s.toHw.atRest).port p := by
  rw [State.attempt_of_routed (by rw [hf]; rfl)]
  refine ⟨?_, fun _ => rfl⟩
  rw [State.OnlyPorts]
  exact congrArg (fun h : Hw => ({ s with toHw := { h with stall := s.toHw.stall } } : State)) hf

/-! ### A flit is taken -/

section
variable {h : Hw} {p : Nat} {f : Flit}

theorem Port.with_full_nil {x : Port} (hfull : x.full = []) : { x with full := [] } = x := by
  rw [← hfull]

/-- A port that holds no flit back for credits, once it has taken what a flit's trailer says (R280). -/
theorem Hw.drain_acknowledge (hp : p ≠ 128) (hfull : (h.port p).full = []) :
    (h.onPort p (fun x => x.acknowledge f)).drain p = h.onPort p (fun x => x.acknowledge f) := by
  have hack : ((h.port p).acknowledge f).full = [] := hfull
  rw [Hw.drain, Hw.port_onPort_same hp, hack, List.foldl_nil, Hw.onPort_onPort hp, Hw.onPort, Hw.onPort, if_neg hp, if_neg hp,
    Port.with_full_nil hack]

theorem Hw.acceptFlit_class (hcls : f.cls = 3) : h.acceptFlit p f = h.onPort p (fun x => { x with badflit := x.badflit + 1 }) := by
  rw [Hw.acceptFlit, if_pos hcls]

theorem Hw.acceptFlit_bad (hcls : f.cls ≠ 3) (hbad : 7 ≤ f.type.toNat ∨ 224 < f.len.toNat) :
    h.acceptFlit p f = (h.release p (flitClass f)).onPort p (fun x => { x with badflit := x.badflit + 1 }) := by
  rw [Hw.acceptFlit, if_neg hcls, if_pos hbad]

theorem Hw.acceptFlit_idle (hcls : f.cls ≠ 3) (htype : f.type = 0) (hlen : f.len.toNat ≤ 224) : h.acceptFlit p f = h := by
  have hgood : ¬(7 ≤ f.type.toNat ∨ 224 < f.len.toNat) := by
    rw [htype]
    simp; omega
  rw [Hw.acceptFlit, if_neg hcls, if_neg hgood, if_pos htype]

/-- A read request for another module goes on (R281, R283). -/
theorem Hw.acceptFlit_forwards (hcls : f.cls = 1) (htype : f.type = 2) (hlen : f.len.toNat ≤ 224) (hkey : h.portKey p f.pkey = true)
    (hadmits : (h.port p).acc.admits { src := 0, pkey := f.pkey } opRead f.off.toNat = true) (hdst : f.dst.toNat ≠ h.cfg.modno) :
    h.acceptFlit p f
      = h.route { table := p, gen := (h.port p).routes.active, inBuf := true, f := { f with hops := f.hops + 1 } } := by
  simp [Hw.acceptFlit, hcls, htype, hkey, hadmits, hdst, isRequest, Nat.not_lt.mpr hlen]

/-- The flit of a read request that leaves a port's receive buffers by `e` (R280, R284). -/
theorem Hw.route_leaves {e : Nat} {gen : Bool} (hp : p ≠ 128) (hcls : f.cls = 1) (hhops : f.hops ≠ 63)
    (hentry : hopsOf ((h.port p).routes.entry gen f.dst.toNat) = [e]) (hup : (h.port e).up = true)
    (hcredit : (h.port e).credits.get 1 ≠ 0) (hfull : ∀ y ∈ (h.port e).full, y.f.cls ≠ f.cls) :
    h.route { table := p, gen := gen, inBuf := true, f := f }
      = (h.onPort e (fun x => { x.transmit { table := p, gen := gen, inBuf := true, f := f } with
          credits := x.credits.set 1 (x.credits.get 1 - 1) })).release p 1 := by
  have hegress : h.egress (h.port p).routes gen f = some e := by
    have hlast : ¬f.hops = 63#6 := hhops
    simp [Hw.egress, hlast, hcls, hentry, hup]
  have hclass : flitClass f = 1 := by simp [flitClass, hcls]
  have hwaits : ¬((h.port e).credits.get 1 = 0 ∨ ((h.port e).full.any fun y => y.f.cls == f.cls) = true) := by
    rw [not_or, List.any_eq_true]
    exact ⟨hcredit, fun ⟨y, hy, heq⟩ => hfull y hy (by simpa using heq)⟩
  have hforward : h.forward { table := p, gen := gen, inBuf := true, f := f } = some (h.offer e { table := p, gen := gen, inBuf := true, f := f }) := by
    simp [Hw.forward, Hw.hopOf, Hw.table, hp, hegress, hcls]
  rw [Hw.route, hforward, Option.getD_some]
  simp only [Hw.offer, hclass, if_neg hwaits, if_true]
  rfl

end

/-! ### The steps of a port -/

section
variable {s : State} {p : Nat} {bytes : List Byte} {crc : BitVec 64}

/-- A port takes a flit (R279-R281). -/
def Hw.takeFlit (h : Hw) (p : Nat) (f : Flit) : Hw := (((h.onPort p (fun x => x.acknowledge f)).drain p).acceptFlit p f).tellAll

/-- What the port holds once it has taken what the trailer of these bytes says. -/
def State.acknowledged (s : State) (p : Nat) (bytes : List Byte) : Hw := s.toHw.atRest.onPort p (fun x => x.acknowledge (flitOf bytes))

theorem State.port_acknowledged (hp : p ≠ 128) : (s.acknowledged p bytes).port p = (s.toHw.port p).acknowledge (flitOf bytes) :=
  Hw.port_onPort_same hp _

/-- A flit in hop order with a good CRC whose acceptance changes ports alone. -/
theorem flitReceive_takes (hp : p ≠ 128) (hup : (s.toHw.port p).up = true) (hintact : flitIntact bytes crc = true)
    (hseq : (flitOf bytes).hseq = (s.toHw.port p).rxSeq + 1) (hfull : (s.toHw.port p).full = [])
    (honly : (s.acknowledged p bytes).OnlyPorts ((s.acknowledged p bytes).acceptFlit p (flitOf bytes))) :
    ∃ u : State, exec (.flitReceive p bytes crc) s = .next u ∧ s.OnlyPorts u
      ∧ ∀ e, u.toHw.port e = (((s.acknowledged p bytes).acceptFlit p (flitOf bytes)).port e).tell := by
  have htake : s.toHw.atRest.takeFlit p (flitOf bytes) = ((s.acknowledged p bytes).acceptFlit p (flitOf bytes)).tellAll := by
    rw [Hw.takeFlit, Hw.drain_acknowledge hp (by exact hfull)]
    rfl
  have honly' : s.toHw.atRest.OnlyPorts (s.toHw.atRest.takeFlit p (flitOf bytes)) := by
    rw [htake]
    exact ((Hw.onlyPorts_onPort hp _).trans honly).trans (Hw.onlyPorts_tellAll _)
  obtain ⟨hu, hports⟩ := State.attempt_onlyPorts (f := fun h => h.takeFlit p (flitOf bytes)) honly'
  refine ⟨_, ?_, hu, fun e => ?_⟩
  · simp only [exec_flitReceive, execFlitReceive, hup, hintact, hseq, bne_self_eq_false, Bool.not_true, Bool.or_self, Bool.false_eq_true,
      if_false]
    rfl
  · rw [hports, htake, Hw.port_tellAll]

theorem flitReceive_refuses (hbad : (s.toHw.port p).up = false ∨ flitIntact bytes crc = false
    ∨ (flitOf bytes).hseq ≠ (s.toHw.port p).rxSeq + 1) : exec (.flitReceive p bytes crc) s = .next s := by
  have hrefused : (!(s.toHw.port p).up || !flitIntact bytes crc || (flitOf bytes).hseq != (s.toHw.port p).rxSeq + 1) = true := by
    rw [Bool.or_eq_true, Bool.or_eq_true, bne_iff_ne, Bool.not_eq_true', Bool.not_eq_true', or_assoc]
    exact hbad
  simp only [exec_flitReceive, execFlitReceive, hrefused, if_true]

end

/-! ### A port goes down -/

/-- Memory, and which ports are live. -/
def Hw.lit (h : Hw) : List Host.Cell × (Nat → Bool) := (h.mem, fun p => (h.port p).up)

section
variable (h : Hw)

theorem Hw.lit_onPort (p : Nat) {f : Port → Port} (hf : ∀ x, (f x).up = x.up) : (h.onPort p f).lit = h.lit := by
  rw [Hw.onPort]
  split
  · rfl
  · refine Prod.ext rfl (funext fun e => ?_)
    show (tabGet {} (tabPut (f (h.port p)) p h.ports) e).up = (h.port e).up
    by_cases he : e = p
    · rw [he, tabGet_put_same, hf]
    · rw [tabGet_put_other _ _ he]
      rfl

theorem Hw.lit_release (p : Nat) (i : Fin 3) : (h.release p i).lit = h.lit := by
  rw [Hw.release]
  split
  · rfl
  · exact h.lit_onPort p fun _ => rfl

theorem Hw.lit_offer (e : Nat) (r : Routed) : (h.offer e r).lit = h.lit := by
  simp only [Hw.offer]
  split
  · exact h.lit_onPort e fun _ => rfl
  · split
    · exact (Hw.lit_release _ _ _).trans (h.lit_onPort e fun _ => rfl)
    · exact h.lit_onPort e fun _ => rfl

theorem Hw.lit_forward {h g : Hw} {r : Routed} (hg : h.forward r = some g) : g.lit = h.lit := by
  obtain ⟨e, -, rfl⟩ := Option.map_eq_some_iff.mp hg
  split
  · exact h.lit_onPort _ fun _ => rfl
  · rw [Hw.lit_offer]
    split
    · exact h.lit_onPort _ fun _ => rfl
    · rfl

theorem Hw.lit_faultCmd (co : CoreId) (uid : Nat) (code : Byte) (addr : Int) (detail : BitVec 256) :
    (h.faultCmd co uid code addr detail).lit = h.lit := by
  rw [Hw.faultCmd]
  split <;> rfl

/-- A response that says that a flit was not delivered faults the command that awaits it. -/
theorem Hw.lit_takeResponse (f : Flit) : (h.takeResponse (respondTo f 1)).lit = h.lit := by
  have htype : ¬(respondTo f 1).type = 3 := by
    show ¬(4 : BitVec 4) = 3
    decide
  have hstatus : ((respondTo f 1).payload.getD 0 0).toNat = 1 := rfl
  simp only [Hw.takeResponse, htype, hstatus, if_false]
  split
  · rfl
  · split
    · rfl
    · split
      · rfl
      · split <;> exact Hw.lit_faultCmd _ _ _ _ _ _

theorem Hw.lit_originate (f : Flit) : (h.originate (respondTo f 1)).lit = h.lit := by
  have hrequest : isRequest (respondTo f 1) = false := rfl
  rw [Hw.originate, hrequest]
  split
  · exact h.lit_takeResponse f
  · cases hg : h.forward { table := 128, gen := h.origin.routes.active, inBuf := false, f := respondTo f 1 } with
    | none => rfl
    | some g => exact Hw.lit_forward hg

theorem Hw.lit_unreached (r : Routed) : (h.unreached r).lit = h.lit := by
  have hfreed : (if r.inBuf then h.release r.table (flitClass r.f) else h).lit = h.lit := by
    split
    · exact h.lit_release _ _
    · rfl
  simp only [Hw.unreached]
  split
  · split
    · rw [Hw.lit_takeResponse, hfreed]
    · exact hfreed
  · rw [Hw.lit_originate, hfreed]

theorem Hw.lit_route (r : Routed) : (h.route r).lit = h.lit := by
  rw [Hw.route]
  cases hg : h.forward r with
  | none => exact h.lit_unreached r
  | some g => exact Hw.lit_forward hg

theorem Hw.lit_retry (t : Nat) : (h.retry t).lit = h.lit := by
  rw [Hw.retry, foldl_keeps Hw.lit Hw.lit_route]
  exact h.lit_onPort t fun _ => rfl

theorem Hw.lit_notice (bs : List Byte) : (h.notice none bs).lit = h.lit := by
  simp only [Hw.notice]
  split
  · rfl
  · rw [foldl_keeps Hw.lit fun h p => h.lit_offer p _]
    rfl

theorem Hw.lit_tellAll : h.tellAll.lit = h.lit :=
  Prod.ext rfl (funext fun p => h.tellAll_port_up p)

/-- A port that has failed is not live, and memory is as before (R285, R286). -/
theorem Hw.failPort_down {p : Nat} (hp : p ≠ 128) (cause : BitVec 8) :
    ((h.failPort p cause).port p).up = false ∧ (h.failPort p cause).mem = h.mem := by
  have hlit : (h.failPort p cause).lit = (h.onPort p (fun x => { x with up := false })).lit := by
    simp only [Hw.failPort]
    rw [Hw.lit_tellAll, Hw.lit_notice, foldl_keeps Hw.lit Hw.lit_retry, foldl_keeps Hw.lit Hw.lit_route]
    refine (foldl_keeps Hw.lit (fun h t => h.lit_onPort t fun _ => by rfl) _ _).trans (Prod.ext ?_ (funext fun e => ?_))
    · simp only [Hw.lit, Hw.onPort, if_neg hp]
    · by_cases he : e = p
      · simp only [Hw.lit, he, Hw.port_onPort_same hp]
      · simp only [Hw.lit, Hw.port_onPort_other he]
  refine ⟨(congrFun (congrArg Prod.snd hlit) p).trans ?_, (congrArg Prod.fst hlit).trans ?_⟩
  · simp only [Hw.lit, Hw.port_onPort_same hp]
  · simp only [Hw.lit, Hw.onPort, if_neg hp]

end

/-! ### Ports that come up -/

/-- The port as its link has trained (R285). -/
def Hw.raised (h : Hw) (p : Nat) : Port :=
  { h.port p with
    up := true, txSeq := 0, rxSeq := 0, credits := Vector.replicate 3 0
    freed := Vector.ofFn (fun i => Config.flitBuffers p i.val - BitVec.ofNat 8 (h.inBuffers p i)), owes := true }

theorem Hw.port_raisePort {h : Hw} {p : Nat} (hp : p ≠ 128) : (h.raisePort p).port p = (h.raised p).tell := by
  rw [Hw.raisePort, Hw.port_tellAll, Hw.port_onPort_same hp]
  rfl

/-! ### The obligation -/

section
variable {s : State} {p : Nat} {bytes : List Byte} {crc : BitVec 64}

/-- A flit that only the port itself is concerned with: the port then is as the acceptance leaves it, and tells it. -/
theorem flitReceive_onPort (hp : p ≠ 128) (hup : (s.toHw.port p).up = true) (hintact : flitIntact bytes crc = true)
    (hseq : (flitOf bytes).hseq = (s.toHw.port p).rxSeq + 1) (hfull : (s.toHw.port p).full = []) {accept : Port → Port}
    (haccept : (s.acknowledged p bytes).acceptFlit p (flitOf bytes) = (s.acknowledged p bytes).onPort p accept) :
    ∃ u : State, exec (.flitReceive p bytes crc) s = .next u ∧ s.OnlyPorts u
      ∧ u.toHw.port p = (accept ((s.toHw.port p).acknowledge (flitOf bytes))).tell := by
  obtain ⟨u, hu, honly, hports⟩ := flitReceive_takes hp hup hintact hseq hfull (by rw [haccept]; exact Hw.onlyPorts_onPort hp _)
  refine ⟨u, hu, honly, ?_⟩
  rw [hports, haccept, Hw.port_onPort_same hp, State.port_acknowledged hp]

theorem Port.tell_of_told {x : Port} (htold : x.owes = false) : x.tell = x := by
  rw [Port.tell, htold, Bool.and_false, if_neg Bool.false_ne_true]

/-- A read request of another module that has one next hop, live and with a credit. -/
theorem flitReceive_forwards {e : Nat} {f : Flit} (hf : flitOf bytes = f) (hp : p ≠ 128) (hup : (s.toHw.port p).up = true)
    (hintact : flitIntact bytes crc = true) (hseq : (flitOf bytes).hseq = (s.toHw.port p).rxSeq + 1) (hfull : (s.toHw.port p).full = [])
    (htype : f.type = 2) (hcls : f.cls = 1) (hlen : f.len.toNat ≤ 224) (hkey : s.toHw.portKey p f.pkey = true)
    (hadmits : (s.toHw.port p).acc.admits { src := 0, pkey := f.pkey } opRead f.off.toNat = true) (hdst : f.dst.toNat ≠ s.cfg.modno)
    (hhops : f.hops + 1 ≠ 63) (hentry : hopsOf ((s.toHw.port p).routes.entry (s.toHw.port p).routes.active f.dst.toNat) = [e])
    (hep : e ≠ p) (he : e ≠ 128) (hlive : (s.toHw.port e).up = true) (hcredit : (s.toHw.port e).credits.get 1 ≠ 0)
    (hroom : ∀ y ∈ (s.toHw.port e).full, y.f.cls ≠ f.cls) :
    ∃ (u : State) (r : Routed), exec (.flitReceive p bytes crc) s = .next u ∧ s.OnlyPorts u ∧ r.f = { f with hops := f.hops + 1 }
      ∧ u.toHw.port e = { (s.toHw.port e).transmit r with
          credits := (s.toHw.port e).credits.set 1 ((s.toHw.port e).credits.get 1 - 1) } := by
  subst hf
  have hport := State.port_acknowledged (s := s) (bytes := bytes) hp
  have hother : (s.acknowledged p bytes).port e = s.toHw.port e := Hw.port_onPort_other hep _
  have hcfg : (s.acknowledged p bytes).cfg = s.cfg := by
    rw [State.acknowledged, Hw.onlyPorts_onPort (h := s.toHw.atRest) hp]
    rfl
  have hkey' : (s.acknowledged p bytes).portKey p (flitOf bytes).pkey = true := by
    rw [Hw.portKey, hport, hcfg]
    exact hkey
  have haccept := (Hw.acceptFlit_forwards hcls htype hlen hkey' (by rw [hport]; exact hadmits) (by rw [hcfg]; exact hdst)).trans
    (Hw.route_leaves hp hcls hhops (by rw [hport]; exact hentry) (by rw [hother, hlive]) (by rw [hother]; exact hcredit)
      (by rw [hother]; exact hroom))
  have honly : (s.acknowledged p bytes).OnlyPorts ((s.acknowledged p bytes).acceptFlit p (flitOf bytes)) := by
    rw [haccept, Hw.release, if_neg hp]
    exact (Hw.onlyPorts_onPort he _).trans (Hw.onlyPorts_onPort hp _)
  obtain ⟨u, hu, honly, hports⟩ := flitReceive_takes hp hup hintact hseq hfull honly
  refine ⟨u, {
    table := p, gen := ((s.acknowledged p bytes).port p).routes.active, inBuf := true
    f := { flitOf bytes with hops := (flitOf bytes).hops + 1 } }, hu, honly, rfl, ?_⟩
  rw [hports, haccept, Hw.release, if_neg hp, Hw.port_onPort_other hep, Hw.port_onPort_same he, hother]
  exact Port.tell_of_told rfl

end

/-- Settles O59: an accepted flit through what its acceptance leaves of each port, a port that fails through `Hw.lit`, the liveness of the ports
while its flits find other ways. -/
theorem linkPorts : Obligations.LinkPorts := by
  unfold Obligations.LinkPorts
  intro s p bytes crc gen cause x f covered i taken left only told
  refine ⟨fun y hy => flitOf_body hy, fun hp => ?_⟩
  have hp' : p ≠ 128 := hp.ne
  have hdown : ∀ cause, ((s.toHw.failPort p cause).port p).up = false ∧ (s.toHw.failPort p cause).mem = s.mem :=
    fun cause => s.toHw.failPort_down hp' cause
  refine ⟨fun hup hintact hseq hfull => ⟨?idle, ?bad, ?noClass, ?read⟩, ?refused, ?replay, ?fails, ?down, ?up, ?stays, ?flip⟩
  case idle =>
    intro htype hcls hlen
    refine flitReceive_onPort (accept := id) hp' hup hintact hseq hfull ?_
    rw [Hw.acceptFlit_idle hcls htype hlen, State.acknowledged, Hw.onPort_onPort hp']
    rfl
  case bad =>
    intro hbad hcls
    refine flitReceive_onPort (accept := fun x => { x with
      freed := x.freed.set i.val (x.freed.get i + 1) i.isLt, owes := true, badflit := x.badflit + 1 }) hp' hup hintact hseq hfull ?_
    rw [Hw.acceptFlit_bad hcls hbad, Hw.release, if_neg hp', Hw.onPort_onPort hp']
  case noClass =>
    intro hcls
    exact flitReceive_onPort hp' hup hintact hseq hfull (Hw.acceptFlit_class hcls)
  case read =>
    intro e htype hcls hlen hkey hadmits hdst hhops hentry hep he hlive hcredit hroom
    obtain ⟨u, r, hu, honly, hr, hport⟩ := flitReceive_forwards (f := f) rfl hp' hup hintact hseq hfull htype hcls hlen hkey hadmits hdst hhops
      hentry hep he.ne hlive hcredit hroom
    refine ⟨u, _, hu, honly, congrArg Port.sent hport, ?_, rfl, ?_⟩
    · rw [hr]
    · rw [hport, Vector.get_eq_getElem]
      exact Vector.getElem_set_self _
  case refused => exact flitReceive_refuses
  case replay =>
    intro hup hsent hreplays
    refine ⟨s.upd (fun h => h.onPort p (fun x => { x with replays := x.replays + 1 })), ?_,
      State.onlyPorts_upd (Hw.onlyPorts_onPort hp' _), Hw.port_onPort_same hp' _⟩
    simp [exec_flitReplay, execFlitReplay, show (s.toHw.port p).up = true from hup, show (s.toHw.port p).sent ≠ [] from hsent,
      Nat.not_le.mpr (show (s.toHw.port p).replays < 3 from hreplays)]
  case fails =>
    intro hup hsent hreplays
    obtain ⟨hfails, hmem⟩ := hdown 1
    refine ⟨s.upd (fun h => h.failPort p 1), ?_, hfails, fun a => congrArg (memRead · a) hmem⟩
    simp [exec_flitReplay, execFlitReplay, show (s.toHw.port p).up = true from hup, show (s.toHw.port p).sent ≠ [] from hsent,
      show 3 ≤ (s.toHw.port p).replays from hreplays]
  case down =>
    intro hup
    obtain ⟨hfails, hmem⟩ := hdown cause
    refine ⟨s.upd (fun h => h.failPort p cause), ?_, hfails, fun a => congrArg (memRead · a) hmem⟩
    simp [exec_portDown, execPortDown, show (s.toHw.port p).up = true from hup]
  case up =>
    intro hup hlinks
    refine ⟨s.upd (fun h => h.raisePort p), ?_, State.onlyPorts_upd (Hw.raisePort_eq hp'), Hw.port_raisePort hp'⟩
    simp [exec_portUp, execPortUp, show (s.toHw.port p).up = false from hup, hlinks]
  case stays =>
    intro hstays
    rcases hstays with hup | hlinks
    · simp [exec_portUp, execPortUp, show (s.toHw.port p).up = true from hup]
    · simp [exec_portUp, execPortUp, hlinks]
  case flip =>
    exact ⟨s.upd (fun h => h.onPort p (fun t => { t with routes := { t.routes with active := gen } })), rfl,
      State.onlyPorts_upd (Hw.onlyPorts_onPort hp' _), Hw.port_onPort_same hp' _⟩

end Sys2Proof.Machine
end

section
/-! SUPPORT. What the accesses of the harbour and of the controllers leave of the hardware, and what the acts on isles and cores leave of it
(R101-R105, R145, R305, R334-R339). -/

namespace Sys2Proof.Machine

/-! ### Accesses -/

/-- Only what accesses to memory change differs: memory with what goes with it, lines, slices, monitors, doorbells, and of a core what its
waits hold, not its task. -/
structure Hw.OnlyAccess (h g : Hw) : Prop where
  rest : g = { h with
    mem := g.mem, tags := g.tags, pmark := g.pmark, dirty := g.dirty, errs := g.errs, lineMeta := g.lineMeta, slices := g.slices
    monitors := g.monitors, cores := g.cores, quays := g.quays, stall := g.stall }
  task : ∀ co, (g.core co).task = (h.core co).task

theorem Hw.OnlyAccess.refl (h : Hw) : h.OnlyAccess h := ⟨rfl, fun _ => rfl⟩

theorem Hw.OnlyAccess.trans {h g k : Hw} (hg : h.OnlyAccess g) (hk : g.OnlyAccess k) : h.OnlyAccess k :=
  ⟨by rw [hk.rest, hg.rest], fun co => (hk.task co).trans (hg.task co)⟩

theorem Hw.OnlyStore.onlyAccess {h g : Hw} (hg : h.OnlyStore g) (hw : g.work = h.work) : h.OnlyAccess g := by
  refine ⟨?_, Hw.task_of_work hw⟩
  rw [Hw.OnlyStore] at hg
  rw [hg]

theorem Hw.onlyAccess_foldl {α : Type} {f : Hw → α → Hw} (hf : ∀ (h : Hw) a, h.OnlyAccess (f h a)) (l : List α) (h : Hw) :
    h.OnlyAccess (l.foldl f h) := by
  induction l generalizing h with
  | nil => exact .refl h
  | cons a l ih => exact (hf h a).trans (ih (f h a))

section
variable (h : Hw)

theorem Hw.onlyAccess_checkLine (pa : Nat) (ecc : Ecc) : h.OnlyAccess (h.checkLine pa ecc).2 :=
  (h.onlyLines_checkLine pa ecc).onlyStore.onlyAccess (h.work_checkLine pa ecc)

theorem Hw.onlyAccess_onHome (pa : Nat) (f : Slice → Slice) : h.OnlyAccess (h.onHome pa f) := ⟨rfl, fun _ => rfl⟩

theorem Hw.onlyAccess_onQuay (q : Nat) (f : Quay → Quay) : h.OnlyAccess (h.onQuay q f) := ⟨rfl, fun _ => rfl⟩

theorem Hw.onlyAccess_await : h.OnlyAccess h.await := ⟨rfl, fun _ => rfl⟩

theorem Hw.onlyAccess_meetBar (m : Master) (op : Nat) (pas : List Nat) : h.OnlyAccess (h.meetBar m op pas) := by
  rw [Hw.meetBar]
  split
  · exact h.onlyAccess_await
  · exact h.onlyAccess_onHome _ _
  · exact .refl h

theorem Hw.onlyAccess_reading (m : Master) (pas : List Nat) : h.OnlyAccess (h.reading m pas) :=
  (Hw.onlyAccess_foldl (fun h pa => h.onlyAccess_checkLine pa .clean) _ h).trans (Hw.onlyAccess_meetBar _ _ _ _)

theorem Hw.onlyAccess_noteRead (m : Master) (root va n : Nat) : h.OnlyAccess (h.noteRead m root va n) := h.onlyAccess_reading m _

theorem Hw.onlyAccess_noteGrant (q va n : Nat) : h.OnlyAccess (h.noteGrant q va n) := by
  rw [Hw.noteGrant]
  split
  · exact h.onlyAccess_noteRead _ _ _ _
  · exact .refl h

theorem Hw.onlyAccess_meetErrs (reads : Hw → Bool) : h.OnlyAccess (h.meetErrs reads) := by
  rw [Hw.meetErrs]
  split
  · exact .refl h
  · refine Hw.onlyAccess_foldl (fun g e => ?_) _ h
    split
    · exact .refl g
    · exact g.onlyAccess_checkLine _ _

theorem Hw.onlyAccess_writeLine (pa : Nat) (bs : List Byte) (stamp : LineMeta) : h.OnlyAccess (h.writeLine pa bs stamp) :=
  (h.onlyStore_writeLine pa bs stamp).onlyAccess (h.work_writeLine pa bs stamp)

theorem Hw.onlyAccess_writeLines (pa : Nat) (bs : List Byte) (stamp : LineMeta) : h.OnlyAccess (h.writeLines pa bs stamp) :=
  Hw.onlyAccess_foldl (fun h _ => h.onlyAccess_writeLine _ _ _) _ h

theorem Hw.onlyAccess_checkCuts (cuts : List (Nat × Nat)) : h.OnlyAccess (h.checkCuts cuts) := by
  refine Hw.onlyAccess_foldl (fun h c => ?_) cuts h
  split
  · exact .refl h
  · exact h.onlyAccess_checkLine _ _

theorem Hw.onlyAccess_writeAs (m : Master) (pa : Nat) (bs : List Byte) : h.OnlyAccess (h.writeAs m pa bs) := by
  rw [Hw.writeAs]
  split
  · exact h.onlyAccess_meetBar _ _ _
  · exact h.onlyAccess_writeLine _ _ _

theorem Hw.onlyAccess_maxShadow (q : Nat) (v : BitVec 64) : h.OnlyAccess (h.maxShadow q v) := h.onlyAccess_writeAs _ _ _

theorem Hw.onlyAccess_notify (n : Nat) (v : BitVec 64) : h.OnlyAccess (h.notify n v) := by
  simp only [Hw.notify]
  split
  · exact h.onlyAccess_onQuay _ _
  · exact (h.onlyAccess_maxShadow _ _).trans (Hw.onlyAccess_onQuay _ _ _)

theorem Hw.onlyAccess_writeBell (m : Master) (pa : Nat) (bs : List Byte) : h.OnlyAccess (h.writeBell m pa bs).2 := by
  simp only [Hw.writeBell, Hw.bellWrite]
  split
  · split
    · exact h.onlyAccess_notify _ _
    · exact ⟨rfl, fun _ => rfl⟩
  · exact .refl h

theorem Hw.onlyAccess_writeVa (m : Master) (root va : Nat) (bs : List Byte) : h.OnlyAccess (h.writeVa m root va bs).2 := by
  have hbells (ps : List (Nat × Nat × Option Nat)) (r : Bool × Hw) : r.2.OnlyAccess (ps.foldl (fun r p => match p.2.2 with
      | some pa => (r.1 && (r.2.writeBell m pa ((bs.drop (p.1 - va)).take p.2.1)).1, (r.2.writeBell m pa ((bs.drop (p.1 - va)).take p.2.1)).2)
      | none => r) r).2 := by
    induction ps generalizing r with
    | nil => exact .refl _
    | cons p ps ih =>
      rw [List.foldl_cons]
      refine Hw.OnlyAccess.trans ?_ (ih _)
      split
      · exact r.2.onlyAccess_writeBell _ _ _
      · exact .refl _
  simp only [Hw.writeVa]
  split
  · exact h.onlyAccess_reading _ _
  · split
    · exact (h.onlyAccess_reading _ _).trans (Hw.onlyAccess_await _)
    · split
      · exact (h.onlyAccess_reading _ _).trans (hbells _ (true, _))
      · split
        · exact (h.onlyAccess_reading _ _).trans (Hw.onlyAccess_meetBar _ _ _ _)
        · split
          · exact (h.onlyAccess_reading _ _).trans (Hw.onlyAccess_checkCuts _ _)
          · refine ((h.onlyAccess_reading _ _).trans (Hw.onlyAccess_checkCuts _ _)).trans (Hw.onlyAccess_foldl (fun h p => ?_) _ _)
            split
            · exact h.onlyAccess_writeLines _ _ _
            · exact .refl h

end

/-! ### The bytes of memory after an access -/

theorem memRead_write_other (b : Byte) {k a : Nat} (ha : a ≠ k) (m : List Host.Cell) : memRead (memWrite b k m) a = memRead m a := by
  induction m with
  | nil =>
    rw [memWrite]
    split
    · rfl
    · simp [memRead, ha]
  | cons c t ih =>
    rw [memWrite]
    split
    · split
      · rfl
      · rw [memRead, if_neg ha]
    · split
      · next hk =>
        subst hk
        split <;> simp [memRead, ha]
      · rw [memRead, memRead, ih]

theorem memRead_writeN_outside (bs : List Byte) {k a : Nat} (ha : a < k ∨ k + bs.length ≤ a) (m : List Host.Cell) :
    memRead (memWriteN bs k m) a = memRead m a := by
  induction bs generalizing k m with
  | nil => rfl
  | cons b bs ih =>
    rw [List.length_cons] at ha
    rw [memWriteN, ih (by omega), memRead_write_other b (by omega)]

/-- Every byte outside `n` bytes from `k` on reads as before. -/
def Hw.SameBut (h g : Hw) (k n : Nat) : Prop := ∀ a, a < k ∨ k + n ≤ a → memRead g.mem a = memRead h.mem a

theorem Hw.SameBut.of_mem {h g : Hw} (hmem : g.mem = h.mem) (k n : Nat) : h.SameBut g k n := fun a _ => by rw [hmem]

section
variable (h : Hw)

theorem Hw.mem_checkLine (pa : Nat) (ecc : Ecc) : (h.checkLine pa ecc).2.mem = h.mem := by
  obtain ⟨hmem, -⟩ := (h.onlyLines_checkLine pa ecc).leaves
  exact hmem

theorem Hw.mem_meetBar (m : Master) (op : Nat) (pas : List Nat) : (h.meetBar m op pas).mem = h.mem := by
  rw [Hw.meetBar]
  split <;> rfl

theorem Hw.mem_reading (m : Master) (pas : List Nat) : (h.reading m pas).mem = h.mem := by
  rw [Hw.reading, Hw.mem_meetBar, foldl_keeps Hw.mem fun h pa => h.mem_checkLine pa .clean]

theorem Hw.mem_noteRead (m : Master) (root va n : Nat) : (h.noteRead m root va n).mem = h.mem := h.mem_reading _ _

theorem Hw.mem_wake (co : CoreId) (e : EngId) (status : Nat) : (h.wake co e status).mem = h.mem := rfl

theorem Hw.mem_releaseMonitors (site status : Nat) (p : Monitor → Bool) : (h.releaseMonitors site status p).mem = h.mem := by
  rw [Hw.releaseMonitors, foldl_keeps Hw.mem]
  intro h m
  exact h.mem_wake _ _ _

theorem Hw.mem_writeLine (pa : Nat) (bs : List Byte) (stamp : LineMeta) :
    (h.writeLine pa bs stamp).mem = h.mem ∨ (h.writeLine pa bs stamp).mem = memWriteN bs pa h.mem := by
  rw [Hw.writeLine]
  have hcheck (b : Bool) : (if b = true then (true, ({ h with errs := tabDel (pa / 64) h.errs } : Hw)) else h.checkLine pa .clean).2.mem
      = h.mem := by
    split
    · rfl
    · exact h.mem_checkLine pa .clean
  specialize hcheck (decide (pa % 64 = 0) && decide (64 ≤ bs.length))
  generalize (if (decide (pa % 64 = 0) && decide (64 ≤ bs.length)) = true then (true, ({ h with errs := tabDel (pa / 64) h.errs } : Hw))
    else h.checkLine pa .clean) = r at hcheck ⊢
  obtain ⟨ok, g⟩ := r
  dsimp only at hcheck ⊢
  have hmark (c : Bool) (f : LineMeta → LineMeta) : (if c = true then g.onLine pa f else g).mem = h.mem := by
    split
    · exact hcheck
    · exact hcheck
  split
  · exact .inl (hmark _ _)
  · refine .inr ?_
    rw [Hw.mem_releaseMonitors]
    exact congrArg (memWriteN bs pa) (hmark _ _)

theorem Hw.sameBut_writeLine (pa : Nat) (bs : List Byte) (stamp : LineMeta) : h.SameBut (h.writeLine pa bs stamp) pa bs.length := by
  intro a ha
  rcases h.mem_writeLine pa bs stamp with hmem | hmem
  · rw [hmem]
  · rw [hmem, memRead_writeN_outside bs ha]

theorem Hw.sameBut_writeAs (m : Master) (pa : Nat) (bs : List Byte) : h.SameBut (h.writeAs m pa bs) pa bs.length := by
  rw [Hw.writeAs]
  split
  · exact .of_mem (h.mem_meetBar _ _ _) _ _
  · exact h.sameBut_writeLine _ _ _

end

/-! ### Isles and their cores -/

/-- Only isles, arrays and cores differ, and no core's task. -/
structure Hw.OnlyService (h g : Hw) : Prop where
  rest : g = { h with cores := g.cores, isles := g.isles, arrs := g.arrs }
  task : ∀ co, (g.core co).task = (h.core co).task

theorem Hw.OnlyService.refl (h : Hw) : h.OnlyService h := ⟨rfl, fun _ => rfl⟩

theorem Hw.OnlyService.trans {h g k : Hw} (hg : h.OnlyService g) (hk : g.OnlyService k) : h.OnlyService k :=
  ⟨by rw [hk.rest, hg.rest], fun co => (hk.task co).trans (hg.task co)⟩

theorem Hw.onlyService_foldl {α : Type} {f : Hw → α → Hw} (hf : ∀ (h : Hw) a, h.OnlyService (f h a)) (l : List α) (h : Hw) :
    h.OnlyService (l.foldl f h) := by
  induction l generalizing h with
  | nil => exact .refl h
  | cons a l ih => exact (hf h a).trans (ih (f h a))

theorem tabGet_map_key {α : Type} (f : Nat → α → α) (d : α) (t : Tab α) (k : Nat) :
    tabGet d (t.map (fun e => (e.1, f e.1 e.2))) k = tabGet d t k ∨ tabGet d (t.map (fun e => (e.1, f e.1 e.2))) k = f k (tabGet d t k) := by
  induction t with
  | nil => exact .inl rfl
  | cons e t ih =>
    simp only [List.map_cons, tabGet]
    split
    · next hk => exact .inr (by rw [hk])
    · exact ih

section
variable (h : Hw)

theorem Hw.onlyService_onIsle (isle : Nat) (f : Isle → Isle) : h.OnlyService (h.onIsle isle f) := ⟨rfl, fun _ => rfl⟩

theorem Hw.onlyService_onArr (isle ins : Nat) (f : Arr → Arr) : h.OnlyService (h.onArr isle ins f) := ⟨rfl, fun _ => rfl⟩

theorem Hw.onlyService_onCore (co : CoreId) {f : Core → Core} (hf : ∀ k, (f k).task = k.task) : h.OnlyService (h.onCore co f) :=
  ⟨rfl, Hw.task_of_work (h.work_onCore co hf)⟩

/-- An isle that is freed (R370). -/
theorem Hw.onlyService_freeIsle (isle : Nat) (c : BitVec 4) (keep : Bool) : h.OnlyService (h.freeIsle isle c keep) := by
  refine ⟨rfl, fun co => ?_⟩
  let g := h.onIsle isle (fun x => { x with
    ctx := tabPut {} c.toNat x.ctx, tlb := x.tlb.filter (fun t => t.ctx != c), walks := x.walks.filter (fun w => w.2.ctx != c) })
  let leave := fun (n : Nat) (k : Core) => if n / 2048 = isle then k.leave (keep && !g.touched ⟨isle, n % 2048⟩) else k
  have hcores : (h.freeIsle isle c keep).cores = h.cores.map (fun e => (e.1, leave e.1 e.2)) := by
    rw [Hw.freeIsle]
    refine List.map_congr_left fun e _ => ?_
    show _ = (e.1, if e.1 / 2048 = isle then _ else _)
    split <;> rfl
  show (tabGet {} (h.freeIsle isle c keep).cores (CoreId.key co)).task = _
  rw [hcores]
  rcases tabGet_map_key leave {} h.cores (CoreId.key co) with hk | hk
  · rw [hk]
    rfl
  · rw [hk]
    show (if _ then _ else _ : Core).task = _
    split <;> rfl

theorem Hw.onlyService_serveMark (isle ins : Nat) : h.OnlyService (h.serveMark isle ins) := by
  simp only [Hw.serveMark]
  split
  · exact .refl h
  · split
    · exact .refl h
    · exact Hw.OnlyService.trans (g := h.setArr isle ins _) ⟨rfl, fun _ => rfl⟩ (Hw.onlyService_onCore _ _ fun _ => rfl)

theorem Hw.onlyService_applyPending (isle : Nat) : h.OnlyService (h.applyPending isle) := by
  simp only [Hw.applyPending]
  refine (((Hw.onlyService_foldl (fun h c => ?_) _ h).trans (Hw.onlyService_onIsle _ isle _)).trans
    (Hw.onlyService_foldl (fun h e => ?_) _ _)).trans (Hw.onlyService_foldl (fun h e => ?_) _ _)
  · cases c <;> exact ⟨rfl, fun _ => rfl⟩
  · split
    · exact .refl h
    · exact h.onlyService_onArr _ _ _
  · split
    · exact h.onlyService_serveMark _ _
    · exact .refl h

theorem Hw.onlyService_settlePending (isle : Nat) : h.OnlyService (h.settlePending isle) := by
  rw [Hw.settlePending]
  split
  · exact .refl h
  · exact h.onlyService_applyPending isle

theorem Hw.onlyService_takeIsles (root : Nat) (isles : List Nat) : h.OnlyService (h.takeIsles root isles).2 := by
  induction isles generalizing h with
  | nil => exact .refl h
  | cons i t ih => exact Hw.OnlyService.trans (g := (h.takeIsle root i).2) ⟨rfl, fun _ => rfl⟩ (ih _)

end

/-! ### Units outside the harbour -/

/-- Only units outside the harbour differ, and memory: launches, queues, REFINE blocks, rounds, configuration and the tick are as before,
and so is every core's task. -/
structure Hw.OnlyUnits (h g : Hw) : Prop where
  rest : g = { h with
    mem := g.mem, tags := g.tags, pmark := g.pmark, dirty := g.dirty, full := g.full, errs := g.errs, cellErrs := g.cellErrs
    lineMeta := g.lineMeta, slices := g.slices, monitors := g.monitors, cores := g.cores, isles := g.isles, arrs := g.arrs
    quays := g.quays, stall := g.stall, detours := g.detours, sqPorts := g.sqPorts, pathPend := g.pathPend, pagecnt := g.pagecnt }
  task : ∀ co, (g.core co).task = (h.core co).task

theorem Hw.OnlyUnits.refl (h : Hw) : h.OnlyUnits h := ⟨rfl, fun _ => rfl⟩

theorem Hw.OnlyUnits.trans {h g k : Hw} (hg : h.OnlyUnits g) (hk : g.OnlyUnits k) : h.OnlyUnits k :=
  ⟨by rw [hk.rest, hg.rest], fun co => (hk.task co).trans (hg.task co)⟩

theorem Hw.OnlyAccess.onlyUnits {h g : Hw} (hg : h.OnlyAccess g) : h.OnlyUnits g := ⟨by rw [hg.rest], hg.task⟩

theorem Hw.OnlyService.onlyUnits {h g : Hw} (hg : h.OnlyService g) : h.OnlyUnits g := ⟨by rw [hg.rest], hg.task⟩

/-- What the units outside the harbour cannot change. -/
theorem Hw.OnlyUnits.leaves {h g : Hw} (hg : h.OnlyUnits g) :
    g.launches = h.launches ∧ g.queues = h.queues ∧ g.refines = h.refines ∧ g.rounds = h.rounds ∧ g.tick = h.tick ∧ g.cfg = h.cfg := by
  rw [hg.rest]
  exact ⟨rfl, rfl, rfl, rfl, rfl, rfl⟩

theorem Hw.OnlyUnits.launch? {h g : Hw} (hg : h.OnlyUnits g) (lid : Nat) : g.launch? lid = h.launch? lid := by
  rw [Hw.launch?, hg.rest]
  rfl

theorem Hw.OnlyUnits.queue {h g : Hw} (hg : h.OnlyUnits g) (q : Nat) : g.queue q = h.queue q := by
  rw [Hw.queue, hg.rest]
  rfl

theorem Hw.OnlyUnits.of_eq {h g : Hw} {α : Type} {r : α × Hw} {b : α} (hr : h.OnlyUnits r.2) (heq : r = (b, g)) : h.OnlyUnits g := by
  rwa [heq] at hr

theorem Hw.onlyUnits_foldl {α : Type} {f : Hw → α → Hw} (hf : ∀ (h : Hw) a, h.OnlyUnits (f h a)) (l : List α) (h : Hw) :
    h.OnlyUnits (l.foldl f h) := by
  induction l generalizing h with
  | nil => exact .refl h
  | cons a l ih => exact (hf h a).trans (ih (f h a))

section
variable (h : Hw)

theorem Hw.onlyUnits_onCore (co : CoreId) {f : Core → Core} (hf : ∀ k, (f k).task = k.task) : h.OnlyUnits (h.onCore co f) :=
  (h.onlyService_onCore co hf).onlyUnits

theorem Hw.onlyUnits_settleRoutes : h.OnlyUnits h.settleRoutes := by
  rw [Hw.settleRoutes]
  split
  · exact .refl h
  · have hpaths : h.OnlyUnits (h.pathPend.foldl (fun h c => h.changePath c) h) := by
      refine Hw.onlyUnits_foldl (fun h c => ?_) _ h
      cases c <;> exact ⟨rfl, fun _ => rfl⟩
    exact hpaths.trans ⟨rfl, fun _ => rfl⟩

/-! ### Preparation of cores -/

theorem Hw.onlyUnits_prepare (co : CoreId) : h.OnlyUnits (h.prepare co) := by
  simp only [Hw.prepare]
  refine Hw.OnlyUnits.trans ?_ (Hw.onlyUnits_onCore _ co ?_)
  · exact ⟨rfl, fun _ => rfl⟩
  · exact fun _ => rfl

theorem Hw.onlyUnits_write (k : Nat) (bs : List Byte) : h.OnlyUnits (h.write k bs) := ⟨rfl, fun _ => rfl⟩

theorem Hw.onlyUnits_fillWindows (l : Launch) (co : CoreId) : h.OnlyUnits (h.fillWindows l co) := by
  refine Hw.onlyUnits_foldl (fun h r => ?_) _ h
  dsimp only
  split
  · exact (h.onlyAccess_meetErrs _).onlyUnits.trans (Hw.onlyUnits_write _ _ _)
  · exact ((h.onlyAccess_meetErrs _).trans (Hw.onlyAccess_noteRead _ _ _ _ _)).onlyUnits

theorem Hw.onlyUnits_clearLines (co : CoreId) : h.OnlyUnits (h.clearLines co) := ⟨rfl, fun _ => rfl⟩

theorem Hw.onlyUnits_prepareFor (l : Launch) (co : CoreId) : h.OnlyUnits (h.prepareFor l co) :=
  (((h.onlyUnits_prepare co).trans (Hw.onlyUnits_fillWindows _ l co)).trans (Hw.onlyUnits_clearLines _ co)).trans
    (Hw.onlyUnits_onCore _ co fun _ => rfl)

theorem Hw.onlyUnits_prepareAll (l : Launch) : h.OnlyUnits (h.prepareAll l) :=
  Hw.onlyUnits_foldl (fun h co => h.onlyUnits_prepareFor l co) _ h

theorem Hw.onlyUnits_prepareRest (l : Launch) : h.OnlyUnits (h.prepareRest l) := by
  refine Hw.onlyUnits_foldl (fun h co => ?_) _ h
  split
  · exact h.onlyUnits_fillWindows l co
  · exact h.onlyUnits_prepareFor l co

/-! ### The image of a launch -/

theorem Hw.onlyUnits_writeGrant (l : Launch) (va : Nat) (bs : List Byte) : h.OnlyUnits (h.writeGrant l va bs).2 := by
  rw [Hw.writeGrant]
  split
  · exact (h.onlyAccess_writeVa _ _ _ _).onlyUnits
  · exact .refl h

theorem Hw.onlyUnits_writeParts (l : Launch) (img : Nat) (parts : List ImgPart) : h.OnlyUnits (h.writeParts l img parts).2 := by
  induction parts generalizing h with
  | nil => exact .refl h
  | cons p t ih =>
    have hpart := h.onlyUnits_writeGrant l (img + p.off) p.bytes
    rw [Hw.writeParts]
    generalize h.writeGrant l (img + p.off) p.bytes = r at hpart
    obtain ⟨ok, g⟩ := r
    cases ok with
    | true => exact hpart.trans (ih g)
    | false => exact hpart

theorem Hw.onlyUnits_clearDirty (co : CoreId) : h.OnlyUnits (h.clearDirty co) :=
  (h.onlyUnits_clearLines co).trans (Hw.onlyUnits_onCore _ co fun _ => rfl)

theorem Hw.onlyUnits_writeImage (l : Launch) (img : Nat) : h.OnlyUnits (h.writeImage l img).2 := by
  have hprepared : h.OnlyUnits ((h.launchCores l).foldl (fun h co => if (h.core co).prepFor == some l.lid then h else h.prepareFor l co) h) := by
    refine Hw.onlyUnits_foldl (fun h co => ?_) _ h
    split
    · exact .refl h
    · exact h.onlyUnits_prepareFor l co
  rw [Hw.writeImage]
  generalize (h.launchCores l).foldl (fun h co => if (h.core co).prepFor == some l.lid then h else h.prepareFor l co) h = g at hprepared ⊢
  dsimp only
  split
  · next g₁ hhead => exact hprepared.trans ((g.onlyUnits_writeGrant l img _).of_eq hhead)
  · next g₁ hhead =>
    have hhead' : h.OnlyUnits g₁ := hprepared.trans ((g.onlyUnits_writeGrant l img _).of_eq hhead)
    split
    · next g₂ hparts => exact hhead'.trans ((g₁.onlyUnits_writeParts l img _).of_eq hparts)
    · next g₂ hparts =>
      have hparts' : h.OnlyUnits g₂ := hhead'.trans ((g₁.onlyUnits_writeParts l img _).of_eq hparts)
      have hclear := Hw.onlyUnits_foldl (f := fun h (x : Nat × CoreId) => h.clearDirty x.2) fun h x => h.onlyUnits_clearDirty x.2
      exact (hparts'.trans (hclear _ _)).trans (Hw.onlyUnits_writeGrant _ l img _)

end

end Sys2Proof.Machine
end

section
/-! SUPPORT. A command queue as its packets issue and as it faults: what stands of it, of memory and of its slot (R334-R339, R345, R357). -/

namespace Sys2Proof.Machine

/-! ### Queues -/

section
variable (h : Hw) (q : Nat)

@[simp] theorem Hw.queue_onQueue_same (f : HQueue → HQueue) : (h.onQueue q f).queue q = f (h.queue q) := tabGet_put_same _ _ _ _

theorem Hw.queue_setQueue_other {i : Nat} (hi : i ≠ q) (x : HQueue) : (h.setQueue q x).queue i = h.queue i := tabGet_put_other _ _ hi _

/-- Only queues differ, and what accesses change. -/
structure Hw.OnlyQueues (h g : Hw) : Prop where
  rest : g = { h with
    mem := g.mem, tags := g.tags, pmark := g.pmark, dirty := g.dirty, errs := g.errs, lineMeta := g.lineMeta, slices := g.slices
    monitors := g.monitors, cores := g.cores, quays := g.quays, stall := g.stall, queues := g.queues }
  task : ∀ co, (g.core co).task = (h.core co).task

theorem Hw.OnlyQueues.refl (h : Hw) : h.OnlyQueues h := ⟨rfl, fun _ => rfl⟩

theorem Hw.OnlyQueues.trans {h g k : Hw} (hg : h.OnlyQueues g) (hk : g.OnlyQueues k) : h.OnlyQueues k :=
  ⟨by rw [hk.rest, hg.rest], fun co => (hk.task co).trans (hg.task co)⟩

theorem Hw.OnlyAccess.onlyQueues {h g : Hw} (hg : h.OnlyAccess g) : h.OnlyQueues g := ⟨by rw [hg.rest], hg.task⟩

theorem Hw.OnlyQueues.leaves {h g : Hw} (hg : h.OnlyQueues g) :
    g.launches = h.launches ∧ g.refines = h.refines ∧ g.rounds = h.rounds ∧ g.arrs = h.arrs ∧ g.tick = h.tick ∧ g.cfg = h.cfg := by
  rw [hg.rest]
  exact ⟨rfl, rfl, rfl, rfl, rfl, rfl⟩

theorem Hw.onlyQueues_onQueue (f : HQueue → HQueue) : h.OnlyQueues (h.onQueue q f) := ⟨rfl, fun _ => rfl⟩

theorem Hw.onlyQueues_markHead : h.OnlyQueues (h.markHead q) := h.onlyQueues_onQueue q _

theorem Hw.onlyQueues_copyRidx : h.OnlyQueues (h.copyRidx q) := (h.onlyAccess_writeAs _ _ _).onlyQueues

theorem Hw.onlyQueues_passHead (p : Packet) : h.OnlyQueues (h.passHead q p) :=
  (h.onlyQueues_onQueue q _).trans (Hw.onlyQueues_copyRidx _ q)

theorem Hw.onlyQueues_unmapQueue : h.OnlyQueues (h.unmapQueue q) := by
  rw [Hw.unmapQueue]
  split
  · exact .refl h
  · exact ((h.onlyAccess_maxShadow q _).trans (Hw.onlyAccess_onQuay _ _ _)).onlyQueues.trans (Hw.onlyQueues_onQueue _ q _)

theorem Hw.onlyQueues_settleUnmap : h.OnlyQueues (h.settleUnmap q) := by
  rw [Hw.settleUnmap]
  split
  · exact h.onlyQueues_unmapQueue q
  · exact .refl h

theorem Hw.onlyQueues_issueHead (p : Packet) (runs : Bool) : h.OnlyQueues (h.issueHead q p runs) :=
  (((h.onlyQueues_passHead q p).trans (Hw.onlyQueues_onQueue _ q _)).trans (Hw.onlyQueues_markHead _ q)).trans
    (Hw.onlyQueues_settleUnmap _ q)

theorem Hw.onlyQueues_issueStart (l : Launch) : h.OnlyQueues (h.issueStart l) := by
  rw [Hw.issueStart]
  split
  · split
    · exact h.onlyQueues_issueHead _ _ _
    · exact .refl h
  · exact .refl h

/-! ### What stands of a queue -/

/-- The issue point of two queues is the same, and so is what they hold and run. -/
def HQueue.Stands (x y : HQueue) : Prop :=
  y.ridx = x.ridx ∧ y.chain = x.chain ∧ y.look = x.look ∧ y.running = x.running ∧ y.lastIssue = x.lastIssue

theorem HQueue.Stands.trans {x y z : HQueue} (hxy : x.Stands y) (hyz : y.Stands z) : x.Stands z := by
  obtain ⟨hridx, hchain, hlook, hrunning, hissue⟩ := hxy
  obtain ⟨hridx', hchain', hlook', hrunning', hissue'⟩ := hyz
  exact ⟨hridx'.trans hridx, hchain'.trans hchain, hlook'.trans hlook, hrunning'.trans hrunning, hissue'.trans hissue⟩

theorem Hw.stands_markHead : (h.queue q).Stands ((h.markHead q).queue q) := by
  rw [Hw.markHead, Hw.queue_onQueue_same]
  split
  · split <;> exact ⟨rfl, rfl, rfl, rfl, rfl⟩
  · exact ⟨rfl, rfl, rfl, rfl, rfl⟩

/-- A queue that holds no packet stands as it did when it discards its look-ahead (R339). -/
theorem HQueue.stands_dropLook {x : HQueue} (hlook : x.look = []) : x.Stands x.dropLook := by
  have hhead : (if x.starting.isSome = true then x.look.head? else none) = none := by
    rw [hlook]
    split <;> rfl
  rw [HQueue.dropLook, hhead]
  exact ⟨rfl, rfl, hlook.symm, rfl, rfl⟩

theorem Hw.queue_unmapQueue_stands (hlook : (h.queue q).look = []) : (h.queue q).Stands ((h.unmapQueue q).queue q) := by
  rw [Hw.unmapQueue]
  split
  · exact ⟨rfl, rfl, rfl, rfl, rfl⟩
  · rw [Hw.queue_onQueue_same]
    have hsame (f : Quay → Quay) : ((h.maxShadow q (h.dbSlot q).widx).onQuay (q / 256) f).queue q = h.queue q :=
      ((h.onlyAccess_maxShadow q _).trans (Hw.onlyAccess_onQuay _ _ f)).onlyUnits.queue q
    rw [hsame]
    exact HQueue.stands_dropLook hlook

/-- A queue that is unmapped since it has become idle stands as it did (R338). -/
theorem Hw.stands_settleUnmap : (h.queue q).Stands ((h.settleUnmap q).queue q) := by
  rw [Hw.settleUnmap]
  split
  · next hidle =>
    simp only [Bool.and_eq_true, Hw.idleQueue, List.isEmpty_iff] at hidle
    exact h.queue_unmapQueue_stands q hidle.2.1.2
  · exact ⟨rfl, rfl, rfl, rfl, rfl⟩

theorem Hw.queue_copyRidx : (h.copyRidx q).queue q = h.queue q := (h.onlyAccess_writeAs _ _ _).onlyUnits.queue q

/-- The queue once the packet at its head has issued (R339, R345). -/
theorem Hw.stands_issueHead (p : Packet) (runs : Bool) :
    ({ h.queue q with
      ridx := p.ridx, chain := p.chain, look := (h.queue q).look.tail
      running := if runs then (h.queue q).running ++ [p.place] else (h.queue q).running, lastIssue := h.tick } : HQueue).Stands
      ((h.issueHead q p runs).queue q) := by
  rw [Hw.issueHead]
  refine HQueue.Stands.trans ?_ ((Hw.stands_markHead _ q).trans (Hw.stands_settleUnmap _ q))
  obtain ⟨-, -, -, -, htick, -⟩ := (h.onlyQueues_passHead q p).leaves
  rw [Hw.queue_onQueue_same, htick, Hw.passHead, Hw.queue_copyRidx, Hw.queue_onQueue_same]
  exact ⟨rfl, rfl, rfl, rfl, rfl⟩

/-! ### Memory -/

theorem Hw.SameBut.trans {h g k : Hw} {a n a₁ n₁ a₂ n₂ : Nat} (hg : h.SameBut g a₁ n₁) (hk : g.SameBut k a₂ n₂)
    (h₁ : a ≤ a₁ ∧ a₁ + n₁ ≤ a + n) (h₂ : a ≤ a₂ ∧ a₂ + n₂ ≤ a + n) : h.SameBut k a n :=
  fun b hb => (hk b (by omega)).trans (hg b (by omega))

theorem Hw.recordPa_of_cfg {h g : Hw} (hcfg : g.cfg = h.cfg) (q : Nat) : g.recordPa q = h.recordPa q := by
  rw [Hw.recordPa, hcfg, Hw.recordPa]

theorem Hw.sameBut_unmapQueue : h.SameBut (h.unmapQueue q) (h.recordPa q + 48) 8 := by
  rw [Hw.unmapQueue]
  split
  · exact .of_mem rfl _ _
  · have hwrite := h.sameBut_writeAs (quayMaster q 0) (h.recordPa q + 48) (leBytes 8 (max (h.num (h.recordPa q + 48) 8) (h.dbSlot q).widx.toNat))
    rw [leBytes_length] at hwrite
    exact hwrite

theorem Hw.sameBut_settleUnmap : h.SameBut (h.settleUnmap q) (h.recordPa q + 48) 8 := by
  rw [Hw.settleUnmap]
  split
  · exact h.sameBut_unmapQueue q
  · exact .of_mem rfl _ _

theorem Hw.sameBut_passHead (p : Packet) : h.SameBut (h.passHead q p) (h.recordPa q + 56) 8 := by
  have hwrite := (h.onQueue q (fun x => { x with ridx := p.ridx, chain := p.chain })).sameBut_writeAs (quayMaster q 0) (h.recordPa q + 56)
    (leBytes 8 ((h.onQueue q (fun x => { x with ridx := p.ridx, chain := p.chain })).queue q).ridx.toNat)
  rw [leBytes_length] at hwrite
  exact hwrite

/-- A packet that issues changes at most SHADOW and RIDXC of the queue's record (R334, R339). -/
theorem Hw.sameBut_issueHead (p : Packet) (runs : Bool) : h.SameBut (h.issueHead q p runs) (h.recordPa q + 48) 16 := by
  let g := ((h.passHead q p).onQueue q (fun x => { x with
    look := x.look.tail, running := if runs then x.running ++ [p.place] else x.running, lastIssue := (h.passHead q p).tick
    idleSince := (h.passHead q p).tick, waitFrom := none, starting := none })).markHead q
  obtain ⟨-, -, -, -, -, hcfg⟩ := ((h.onlyQueues_passHead q p).trans ((Hw.onlyQueues_onQueue _ q _).trans (Hw.onlyQueues_markHead _ q)) :
    h.OnlyQueues g).leaves
  have hpass : h.SameBut g (h.recordPa q + 56) 8 := h.sameBut_passHead q p
  have hunmap : g.SameBut (h.issueHead q p runs) (h.recordPa q + 48) 8 := by
    rw [← Hw.recordPa_of_cfg hcfg]
    exact g.sameBut_settleUnmap q
  exact hpass.trans hunmap (by omega) (by omega)

end

end Sys2Proof.Machine
end

section
/-! SUPPORT. The stage at which a launch stands, through the boundary acts (R316). -/

namespace Sys2Proof.Machine

/-! ### Launches kept at a stage -/

/-- Where a launch stands: its frame and the one after it, what it holds of it, and its slips. -/
def Launch.stage (l : Launch) := (l.lid, l.st, l.frame, l.fidx, l.recs, l.ents, l.slips, l.next)

/-- The launch of an LID, while it is there, stands where `x` does. -/
def Hw.AtStage (h : Hw) (x : Launch) : Prop := ∀ l, h.launch? x.lid = some l → l.stage = x.stage

theorem tabFind_del {α : Type} (k j : Nat) (t : Tab α) : tabFind (tabDel k t) j = if j = k then none else tabFind t j := by
  induction t with
  | nil => simp [tabDel, tabFind]
  | cons e t ih =>
    rw [tabDel] at ih ⊢
    by_cases he : e.1 = k
    · rw [List.filter_cons_of_neg (by simp [he]), ih, tabFind, he]
      split <;> rfl
    · rw [List.filter_cons_of_pos (by simpa using he), tabFind, ih, tabFind]
      split
      · next hj => rw [if_neg (hj ▸ he)]
      · rfl

section
variable {h g : Hw} {x : Launch}

theorem Launch.lid_of_stage {l x : Launch} (hl : l.stage = x.stage) : l.lid = x.lid := congrArg Prod.fst hl

theorem Hw.AtStage.of_launch? (hx : h.AtStage x) (hg : g.launch? x.lid = h.launch? x.lid) : g.AtStage x :=
  fun l hl => hx l (hg ▸ hl)

theorem Hw.AtStage.onlyUnits (hx : h.AtStage x) (hg : h.OnlyUnits g) : g.AtStage x := hx.of_launch? (hg.launch? _)

theorem Hw.atStage_of_some {l : Launch} (hl : h.launch? x.lid = some l) (hx : l.stage = x.stage) : h.AtStage x := by
  intro l' hl'
  obtain rfl : l = l' := by simpa [hl] using hl'
  exact hx

theorem Hw.atStage_setLaunch {l : Launch} (hl : l.stage = x.stage) : (h.setLaunch l).AtStage x :=
  Hw.atStage_of_some (Hw.launch?_setLaunch _ (Launch.lid_of_stage hl)) hl

theorem Hw.AtStage.onLaunch_to {y : Launch} (hx : h.AtStage x) (hlid : y.lid = x.lid) {f : Launch → Launch}
    (hf : ∀ l, l.stage = x.stage → (f l).stage = y.stage) : (h.onLaunch x.lid f).AtStage y := by
  rw [Hw.onLaunch]
  split
  · next l hl => exact Hw.atStage_setLaunch (hf l (hx l hl))
  · next hnone =>
    intro l hl
    rw [hlid, hnone] at hl
    cases hl

theorem Hw.AtStage.onLaunch (hx : h.AtStage x) {f : Launch → Launch} (hf : ∀ l, (f l).stage = l.stage) : (h.onLaunch x.lid f).AtStage x :=
  hx.onLaunch_to rfl fun l hl => (hf l).trans hl

theorem Hw.AtStage.failLaunch (hx : h.AtStage x) (r : FaultRec) : (h.failLaunch x.lid r).AtStage x := hx.onLaunch fun _ => rfl

theorem Hw.AtStage.foldl {α : Type} {f : Hw → α → Hw} (hf : ∀ (h : Hw) a, h.AtStage x → (f h a).AtStage x) (l : List α) (hx : h.AtStage x) :
    (l.foldl f h).AtStage x := by
  induction l generalizing h with
  | nil => exact hx
  | cons a l ih => exact ih (hf h a hx)

/-- A launch that is discarded with its packet (R357). -/
theorem Hw.AtStage.queueFault (hx : h.AtStage x) (q : Nat) (code : BitVec 4) : (h.queueFault q code).AtStage x := by
  have hslot : (h.onDbSlot q (fun d => { d with halt := true, fcode := code })).AtStage x := by
    rw [Hw.onDbSlot]
    split <;> exact hx
  have hdiscard (h : Hw) (hx : h.AtStage x) : (h.discardStart q).AtStage x := by
    rw [Hw.discardStart]
    split
    · exact hx
    · next l hl =>
      have hdel : ({ h.onQueue q (fun x => { x with starting := none }) with
          launches := tabDel l.lid (h.onQueue q (fun x => { x with starting := none })).launches
          refines := (h.onQueue q (fun x => { x with starting := none })).refines.filter (fun r => !(r.q == q && r.lid == l.lid)) } : Hw).AtStage x := by
        intro l' hl'
        refine hx l' ?_
        change tabFind (tabDel l.lid h.launches) x.lid = some l' at hl'
        rw [tabFind_del] at hl'
        split at hl'
        · cases hl'
        · exact hl'
      refine Hw.AtStage.foldl (fun h i hx => hx.onlyUnits (h.onlyService_settlePending i).onlyUnits) _ ?_
      exact Hw.AtStage.foldl (fun h y hx => hx.onlyUnits (h.onlyService_freeIsle y.1 y.2 _).onlyUnits) _ hdel
  rw [Hw.queueFault]
  obtain ⟨hlaunches, -⟩ := (((h.onDbSlot q (fun d => { d with halt := true, fcode := code })).discardStart q).onlyQueues_onQueue q
    HQueue.dropLook).trans (Hw.onlyQueues_settleUnmap _ q) |>.leaves
  exact (hdiscard _ hslot).of_launch? (congrArg (tabFind · x.lid) hlaunches)

end

/-! ### The end of a launch -/

section
variable (h : Hw)

theorem Hw.onlyAccess_writeRecord (l : Launch) (status : Nat) : h.OnlyAccess (h.writeRecord l status) := by
  rw [Hw.writeRecord]
  split
  · exact .refl h
  · exact h.onlyAccess_writeVa _ _ _ _

theorem Hw.onlyAccess_updateRecord (l : Launch) : h.OnlyAccess (h.updateRecord l) := by
  rw [Hw.updateRecord]
  split
  · exact .refl h
  · exact h.onlyAccess_writeVa _ _ _ _

/-- What the packets of a launch that ended and the queues that waited for it leave. -/
theorem Hw.onlyQueues_completePlaces (ps : List (Nat × Nat)) : h.OnlyQueues (ps.foldl (fun h p => h.completePlace p.1 p.2) h) := by
  induction ps generalizing h with
  | nil => exact .refl h
  | cons p ps ih => exact (h.onlyQueues_onQueue p.1 _).trans (ih _)

/-- Isles are freed, and what waited for that takes effect (R27, R370). -/
theorem Hw.onlyUnits_freeIsles (xs : List (Nat × BitVec 4)) (isles : List Nat) (keep : Bool) :
    h.OnlyUnits (isles.foldl (fun h i => h.settlePending i) (xs.foldl (fun h x => h.freeIsle x.1 x.2 keep) h)) :=
  ((Hw.onlyService_foldl (fun h x => h.onlyService_freeIsle x.1 x.2 keep) xs h).trans
    (Hw.onlyService_foldl (fun h i => h.onlyService_settlePending i) isles _)).onlyUnits

/-- A launch that ends is gone; the other launches, all rounds and every core's task are as before (R345, R370). -/
theorem Hw.endLaunch_leaves (l : Launch) (status : Nat) :
    (h.endLaunch l status).launches = tabDel l.lid h.launches ∧ (h.endLaunch l status).rounds = h.rounds
      ∧ ∀ co, ((h.endLaunch l status).core co).task = (h.core co).task := by
  rw [Hw.endLaunch]
  generalize h.refines.any (fun r => r.owns l) = run
  have hrecord : h.OnlyQueues ((h.issueStart l).writeRecord l status) :=
    (h.onlyQueues_issueStart l).trans (Hw.onlyAccess_writeRecord _ l status).onlyQueues
  generalize (h.issueStart l).writeRecord l status = g at hrecord ⊢
  let g₁ : Hw := { g with
    launches := tabDel l.lid g.launches, lidRegs := tabPut ⟨l.slips, l.slipIdx, l.lastimg.getD 0⟩ l.lid g.lidRegs
    closed := g.closed.filter (fun n => n.lid != l.lid) }
  have hfreed := (g₁.onlyUnits_freeIsles (l.isles.zip l.ctxs) l.isles run).trans (Hw.onlyUnits_settleRoutes _)
  obtain ⟨hlaunches₀, -, hrounds₀, -⟩ := hrecord.leaves
  obtain ⟨hlaunches₁, -, -, hrounds₁, -⟩ := hfreed.leaves
  have hawaited := Hw.onlyQueues_completePlaces
    ((l.isles.foldl (fun h i => h.settlePending i) ((l.isles.zip l.ctxs).foldl (fun h x => h.freeIsle x.1 x.2 run) g₁)).settleRoutes) l.awaited
  obtain ⟨hlaunches₂, -, hrounds₂, -⟩ := hawaited.leaves
  have htask (co : CoreId) := ((hawaited.task co).trans (hfreed.task co)).trans (hrecord.task co)
  have hlaunches := (hlaunches₂.trans hlaunches₁).trans (congrArg (tabDel l.lid) hlaunches₀)
  have hrounds := (hrounds₂.trans hrounds₁).trans hrounds₀
  split
  · exact ⟨hlaunches, hrounds, htask⟩
  · exact ⟨hlaunches, hrounds, htask⟩

theorem Hw.launch?_endLaunch (l : Launch) (status : Nat) : (h.endLaunch l status).launch? l.lid = none := by
  obtain ⟨hlaunches, -⟩ := h.endLaunch_leaves l status
  rw [Hw.launch?, hlaunches, tabFind_del, if_pos rfl]

end

/-! ### The boundary acts -/

section
variable {h : Hw} {x : Launch}

/-- The launch of an LID, its own or another's, ends. -/
theorem Hw.AtStage.endLaunch (hx : h.AtStage x) (l : Launch) (status : Nat) : (h.endLaunch l status).AtStage x := by
  obtain ⟨hlaunches, -⟩ := h.endLaunch_leaves l status
  intro l' hl'
  rw [Hw.launch?, hlaunches, tabFind_del] at hl'
  split at hl'
  · cases hl'
  · exact hx l' hl'

theorem Hw.AtStage.logSlip (hx : h.AtStage x) (late task iter : Nat) (co : CoreId) (kind : Nat) :
    (h.logSlip x.lid late task iter co kind).AtStage x := by
  rw [Hw.logSlip]
  split
  · exact hx
  · next l hl =>
    have hslip : (h.setLaunch { l with slipIdx := l.slipIdx + 1 }).AtStage x := Hw.atStage_setLaunch (hx l hl)
    dsimp only
    split
    · exact hslip
    · exact hslip.onlyUnits (Hw.onlyAccess_writeVa _ _ _ _ _).onlyUnits

theorem Hw.AtStage.collect (hx : h.AtStage x) : (h.collect x.lid).AtStage x := by
  rw [Hw.collect]
  refine Hw.AtStage.onLaunch ?_ ?_
  · exact hx
  · exact fun _ => rfl

/-! #### Page migration (R112, R113) -/

theorem Hw.onlyUnits_copyLines (h : Hw) (old new n : Nat) : h.OnlyUnits (h.copyLines old new n) := by
  rw [Hw.copyLines]
  refine Hw.OnlyUnits.trans (g := h.errs.foldl (fun g e =>
    if old ≤ 64 * e.1 ∧ 64 * e.1 < old + n then (g.checkLine (64 * e.1) .clean).2 else g) h) ?_ ⟨rfl, fun _ => rfl⟩
  refine Hw.onlyUnits_foldl (fun g e => ?_) _ h
  split
  · exact (g.onlyAccess_checkLine _ _).onlyUnits
  · exact .refl g

theorem Hw.onlyAccess_releaseMonitors (h : Hw) (site status : Nat) (p : Monitor → Bool) : h.OnlyAccess (h.releaseMonitors site status p) :=
  (h.onlyStore_releaseMonitors site status p).onlyAccess (h.work_releaseMonitors site status p)

theorem Hw.AtStage.migrateOne (hx : h.AtStage x) (mine others : List MapLeaf) (b : Nat) : (h.migrateOne x.lid mine others b).AtStage x := by
  rw [Hw.migrateOne]
  split
  · exact hx
  · next l hl =>
    have hlid : l.lid = x.lid := Launch.lid_of_stage (hx l hl)
    split
    · exact hx
    · split
      · next new _ =>
        rw [Hw.migrate]
        generalize h.migrateBar l.controller _ _ new = bar
        cases bar with
        | some r => exact hx.onlyUnits (h.onlyAccess_meetBar _ _ _).onlyUnits
        | none =>
          rw [Hw.migrateUnless, Hw.moveBlock, hlid]
          refine Hw.AtStage.onLaunch ?_ fun _ => rfl
          refine hx.onlyUnits ?_
          refine Hw.OnlyUnits.trans (g := Hw.releaseMonitors _ _ _ _) ?_ ⟨rfl, fun _ => rfl⟩
          refine Hw.OnlyUnits.trans ?_ (Hw.onlyAccess_releaseMonitors _ _ _ _).onlyUnits
          refine Hw.OnlyUnits.trans ?_ (Hw.onlyService_foldl (fun h x => h.onlyService_onIsle _ _) _ _).onlyUnits
          exact (h.onlyUnits_copyLines _ _ _).trans (Hw.onlyAccess_foldl (fun h m => h.onlyAccess_writeLine _ _ _) _ _).onlyUnits
      · exact hx

theorem Hw.onlyAccess_readTables (h : Hw) (m : Master) (root : Nat) : h.OnlyAccess (h.readTables m root) :=
  Hw.onlyAccess_foldl (fun h pa => h.onlyAccess_reading m [pa]) _ h

theorem Hw.AtStage.migratePages (hx : h.AtStage x) : (h.migratePages x.lid).AtStage x := by
  rw [Hw.migratePages]
  split
  · exact hx
  · change (List.foldl _ _ _ : Hw).AtStage x
    refine Hw.AtStage.foldl (fun h b hx => hx.migrateOne _ _ b) _ ?_
    exact hx.onlyUnits (Hw.onlyAccess_foldl (fun h e => h.onlyAccess_readTables _ _) _ h).onlyUnits

/-! #### Service and isles (R27, R331) -/

theorem Hw.AtStage.serveChanges (hx : h.AtStage x) : (h.serveChanges x.lid).AtStage x := by
  rw [Hw.serveChanges]
  split
  · exact hx
  · next l hl =>
    refine Hw.AtStage.onlyUnits ?_ (Hw.onlyUnits_settleRoutes _)
    refine Hw.AtStage.foldl (fun h i hx => hx.onlyUnits (h.onlyService_applyPending i).onlyUnits) _ ?_
    exact Hw.atStage_setLaunch (hx l hl)

theorem Hw.AtStage.replaceOne {l l' : Launch} {y y' : Nat × BitVec 4} {t : IsleList} {o : Nat} (hx : h.AtStage x) (hl : l.stage = x.stage)
    (hone : h.replaceOne l y t o = some (y', l', g)) : g.AtStage x ∧ l'.stage = x.stage := by
  rw [Hw.replaceOne] at hone
  split at hone
  · cases hone
    exact ⟨hx, hl⟩
  · obtain ⟨j, -, hj⟩ := Option.map_eq_some_iff.mp hone
    cases hj
    exact ⟨Hw.atStage_setLaunch hl, hl⟩

theorem Hw.AtStage.replaceBase {l : Launch} {xs ys : IsleList} {o : Nat} (hx : h.AtStage x) (hl : l.stage = x.stage)
    (hbase : h.replaceBase l xs o = some (ys, g)) : g.AtStage x := by
  induction xs generalizing h l o ys with
  | nil =>
    cases hbase
    exact hx
  | cons y t ih =>
    rw [Hw.replaceBase] at hbase
    split at hbase
    · cases hbase
    · next y' l' h' hone =>
      obtain ⟨⟨zs, k⟩, hrest, hk⟩ := Option.map_eq_some_iff.mp hbase
      cases hk
      obtain ⟨hx', hl'⟩ := hx.replaceOne hl hone
      exact ih hx' hl' hrest

theorem Hw.onlyAccess_ttFailed (h : Hw) (l : Launch) (e : Nat × Nat) : h.OnlyAccess (h.ttFailed l e) :=
  Hw.onlyAccess_foldl (fun h _ => h.onlyAccess_noteRead _ _ _ _) _ h

theorem Hw.onlyAccess_nextElastic (h : Hw) (l : Launch) : h.OnlyAccess (h.nextElastic l).2 := by
  rw [Hw.nextElastic]
  split
  · exact .refl h
  · dsimp only
    split
    · dsimp only
      exact h.onlyAccess_meetErrs _
    · exact (h.onlyAccess_meetErrs _).trans (Hw.onlyAccess_ttFailed _ _ _)

theorem Hw.onlyService_elasticChange (h : Hw) (l : Launch) (xs : IsleList) (el : Elastic) : h.OnlyService (h.elasticChange l xs el).2 := by
  have hfree (ys : IsleList) (h : Hw) : h.OnlyService (ys.foldl (fun h x => h.freeIsle x.1 x.2) h) :=
    Hw.onlyService_foldl (fun h x => h.onlyService_freeIsle x.1 x.2 _) ys h
  cases el with
  | keep => exact hfree _ h
  | grow n => exact (hfree _ h).trans (Hw.onlyService_takeIsles _ _ _)
  | shrink n => exact (hfree _ h).trans (hfree _ _)

theorem Hw.AtStage.changeIsles (hx : h.AtStage x) (el : Elastic) : (h.changeIsles x.lid el).AtStage x := by
  rw [Hw.changeIsles]
  split
  · exact hx
  · next l hl =>
    dsimp only
    split
    · exact hx.failLaunch _
    · next xs g hbase =>
      have hg : g.AtStage x := hx.replaceBase (hx l hl) hbase
      have helastic : (g.nextElastic l).2.AtStage x := hg.onlyUnits (g.onlyAccess_nextElastic l).onlyUnits
      generalize g.nextElastic l = r at helastic
      obtain ⟨elastic, g₁⟩ := r
      dsimp only at helastic ⊢
      have hchange : (if elastic = true then g₁.elasticChange l xs el else (xs, g₁)).2.AtStage x := by
        split
        · exact helastic.onlyUnits (g₁.onlyService_elasticChange l xs el).onlyUnits
        · exact helastic
      generalize (if elastic = true then g₁.elasticChange l xs el else (xs, g₁)) = r at hchange
      obtain ⟨ys, g₂⟩ := r
      dsimp only at hchange ⊢
      have hstage : ((g₂.launch? x.lid).getD l).stage = x.stage := by
        cases hl₂ : g₂.launch? x.lid with
        | none => exact hx l hl
        | some l₂ => exact hchange l₂ hl₂
      have hset (is : List Nat) (cs : List (BitVec 4)) :
          (g₂.setLaunch { (g₂.launch? x.lid).getD l with isles := is, ctxs := cs }).AtStage x := Hw.atStage_setLaunch hstage
      split
      · exact hset _ _
      · exact (hset _ _).onlyUnits (Hw.onlyUnits_prepareAll _ _)

/-! #### The acts together -/

theorem Hw.AtStage.takePreempt {l : Launch} (hx : h.AtStage x) (img : Nat) : (h.takePreempt l img).AtStage x := by
  have himage : (h.writeImage l img).2.AtStage x := hx.onlyUnits (h.onlyUnits_writeImage l img)
  rw [Hw.takePreempt]
  generalize h.writeImage l img = r at himage
  obtain ⟨ok, g⟩ := r
  dsimp only at himage ⊢
  refine Hw.AtStage.endLaunch ?_ _ _
  split
  · exact himage
  · exact himage.queueFault _ _

/-- From step 4 on the launch stands at the boundary of its next frame, while it is there (R316). -/
theorem Hw.AtStage.boundaryEnd (hx : h.AtStage x) (el : Elastic) : (h.boundaryEnd x.lid el).AtStage { x with st := .boundary } := by
  have hset : (h.onLaunch x.lid (fun l => { l with st := .boundary })).AtStage { x with st := .boundary } :=
    hx.onLaunch_to (y := { x with st := .boundary }) rfl fun l hl => congrArg (fun y => (y.1, LaunchSt.boundary, y.2.2)) hl
  have hchanged := hset.changeIsles el
  rw [Hw.boundaryEnd]
  dsimp only at hchanged ⊢
  generalize (h.onLaunch x.lid (fun l => { l with st := .boundary })).changeIsles x.lid el = g at hchanged ⊢
  split
  · exact hchanged
  · next l hl =>
    have hrecord : (g.updateRecord l).AtStage { x with st := .boundary } := hchanged.onlyUnits (g.onlyAccess_updateRecord l).onlyUnits
    split
    · exact hrecord
    · split
      · exact hrecord.takePreempt _
      · split
        · exact hrecord
        · split
          · exact hrecord.endLaunch _ _
          · exact Hw.atStage_setLaunch (hchanged l hl)

/-- Where the acts from step 4 on leave a launch: at its boundary, or waiting for calibration tasks (R231, R316). -/
theorem Hw.AtStage.boundaryGo (hx : h.AtStage x) (el : Elastic) {l : Launch} (hl : (h.boundaryGo x.lid el).launch? x.lid = some l) :
    l.stage = { x with st := .boundary }.stage ∨ l.stage = x.stage ∧ (h.boundaryGo x.lid el).calBusy l = true := by
  rw [Hw.boundaryGo] at hl ⊢
  split at hl
  · next hnone =>
    rw [hnone] at hl
    cases hl
  · next l' hl' =>
    split at hl
    · next hbusy =>
      obtain rfl : l' = l := by simpa [hl'] using hl
      rw [if_pos hbusy]
      exact .inr ⟨hx l' hl', hbusy⟩
    · exact .inl (hx.boundaryEnd el l hl)

/-- A launch whose frame has completed, before its boundary acts are over (R316). -/
def Launch.completed (l : Launch) : Launch := { l with st := .changes, frame := l.frame + 1, fidx := l.next, recs := [], ents := [] }

theorem Launch.stage_completed {l x : Launch} (hl : l.stage = x.stage) : l.completed.stage = x.completed.stage :=
  congrArg (fun y => (y.1, LaunchSt.changes, y.2.2.1 + 1, y.2.2.2.2.2.2.2, ([] : List TaskRec), ([] : List Entry), y.2.2.2.2.2.2.1, y.2.2.2.2.2.2.2)) hl

theorem Hw.boundary_stage (hl : h.launch? x.lid = some x) (el : Elastic) {l : Launch} (hgo : (h.boundary x.lid el).launch? x.lid = some l) :
    l.stage = { x.completed with st := .boundary }.stage ∨ l.stage = x.completed.stage ∧ (h.boundary x.lid el).calBusy l = true := by
  have hrecord : (h.slipRecord x).AtStage x := by
    rw [Hw.slipRecord]
    split
    · exact Hw.atStage_of_some hl rfl
    · exact (Hw.atStage_of_some hl rfl).logSlip _ _ _ _ _
  have hcompleted : ((h.slipRecord x).onLaunch x.lid Launch.completed).AtStage x.completed :=
    hrecord.onLaunch_to (y := x.completed) rfl fun l hl => Launch.stage_completed hl
  have hboundary : h.boundary x.lid el = (((((h.slipRecord x).onLaunch x.lid Launch.completed).collect x.lid).migratePages x.lid).serveChanges
      x.lid).boundaryGo x.lid el := by
    rw [Hw.boundary, hl]
    rfl
  rw [hboundary] at hgo ⊢
  exact hcompleted.collect.migratePages.serveChanges.boundaryGo el hgo

end

/-! ### The completion of a frame -/

section
variable {s : State} {l : Launch} {el : Elastic}

/-- What a launch's slips past its scheduled end make of it (R323). -/
def State.slipped (s : State) (l : Launch) : Launch := l.slip (l.slipsDue s.tick)

theorem launchIs_setLaunch (x : Launch) : LaunchIs s x.lid x (.next (s.upd (fun h => h.setLaunch x))) :=
  ⟨_, rfl, rfl, tabFind_put_same _ _ _, fun _ hi => tabFind_put_other _ hi _⟩

theorem Hw.setLaunch_setLaunch (h : Hw) {x y : Launch} (hlid : y.lid = x.lid) : (h.setLaunch x).setLaunch y = h.setLaunch y := by
  rw [Hw.setLaunch, Hw.setLaunch, Hw.setLaunch, hlid]
  simp only [tabPut_put_same]

theorem frameComplete_completes (hl : s.toHw.launch? l.lid = some l) (hover : s.toHw.frameOver l = true) :
    exec (.frameComplete l.lid el) s = .next (s.attempt (fun h =>
      if (s.slipped l).slipOut then (h.setLaunch (s.slipped l)).endSlipping (s.slipped l)
      else if (s.slipped l).lost then (h.setLaunch (s.slipped l)).setLaunch { s.slipped l with abort := true }
      else (h.setLaunch (s.slipped l)).boundary l.lid el)) := by
  have hst : (l.st == .changes && !l.abort) = false := by
    rw [Hw.frameOver] at hover
    simp only [Bool.and_eq_true, beq_iff_eq] at hover
    obtain ⟨⟨⟨hst, -⟩, -⟩, -⟩ := hover
    rw [hst]
    rfl
  simp only [exec_frameComplete, execFrameComplete, hl, hst, hover, Bool.false_eq_true, if_false, Bool.not_true]
  rfl

/-- A launch at SLIPLIM is to end with a record of KIND 3, and keeps the slips that it has (R325). -/
theorem Hw.endSlipping_fails (h : Hw) (hl : h.launch? l.lid = some l) :
    ∃ (l' : Launch) (r : FaultRec), (h.endSlipping l).launch? l.lid = some l' ∧ l'.abort = true ∧ l'.failing = l.failing ++ [r] ∧ r.kind = 3
      ∧ r.tick = h.tick ∧ l'.slipIdx = l.slipIdx + 1 ∧ l'.slips = l.slips
      ∧ (∀ t, l.oldest = some t → r.task = t.task ∧ r.iter = t.iter ∧ r.isle = t.co.isle ∧ r.core = t.co.core)
      ∧ (l.slipN = 0 → (h.endSlipping l).mem = h.mem) := by
  have hslip (late task iter : Nat) (co : CoreId) (kind : Nat) :
      (h.logSlip l.lid late task iter co kind).launch? l.lid = some { l with slipIdx := l.slipIdx + 1 }
        ∧ (l.slipN = 0 → (h.logSlip l.lid late task iter co kind).mem = h.mem) := by
    have hset : (h.setLaunch { l with slipIdx := l.slipIdx + 1 }).launch? l.lid = some { l with slipIdx := l.slipIdx + 1 } :=
      Hw.launch?_setLaunch _ rfl
    simp only [Hw.logSlip, hl]
    split
    · exact ⟨hset, fun _ => rfl⟩
    · next hn => exact ⟨((Hw.onlyAccess_writeVa _ _ _ _ _).onlyUnits.launch? _).trans hset, fun hzero => absurd hzero hn⟩
  rw [Hw.endSlipping]
  generalize hr : (l.oldest.getD { task := 0, iter := 0, co := ⟨0, 0⟩, wave := 0, dbarm := 0 }) = r
  obtain ⟨hlaunch, hmem⟩ := hslip (h.tick.toNat - l.due.toNat) r.task r.iter r.co 2
  rw [Hw.failLaunch_of_some hlaunch]
  refine ⟨_, _, Hw.launch?_setLaunch _ rfl, rfl, rfl, rfl, rfl, rfl, rfl, fun t ht => ?_, hmem⟩
  rw [ht] at hr
  obtain rfl : t = r := hr
  exact ⟨rfl, rfl, rfl, rfl⟩

end

end Sys2Proof.Machine
end

section
/-! SUPPORT. The start of a frame, the work of a launch that ends, and the ends of frames and launches together (R316-R325, R370). -/

namespace Sys2Proof.Machine

theorem State.attempt_congr {s : State} {f g : Hw → Hw} (h : f s.toHw.atRest = g s.toHw.atRest) : s.attempt f = s.attempt g := by
  rw [State.attempt, State.attempt, h]

/-- A reading where no line's cells hold an error meets none (R105). -/
theorem Hw.meetErrs_of_clear {h : Hw} (herrs : h.errs = []) (reads : Hw → Bool) : h.meetErrs reads = h := by
  rw [Hw.meetErrs, herrs]
  split <;> rfl

/-! ### The start of a frame -/

section
variable {h g : Hw} {l : Launch}

/-- The places of a frame's tasks depend on the arrays alone (R306, R320, R321). -/
theorem Hw.frameTasks_congr (harrs : g.arrs = h.arrs) (l : Launch) (bands : List (Nat × Nat)) (es : List Entry) :
    g.frameTasks l bands es = h.frameTasks l bands es := by
  have harr (i n : Nat) : g.arr i n = h.arr i n := by rw [Hw.arr, Hw.arr, harrs]
  have hservice (co : CoreId) : g.coreInService co = h.coreInService co := by rw [Hw.coreInService, Hw.coreInService, harr]
  have hcores (i : Nat) : g.isleCores i = h.isleCores i := by simp only [Hw.isleCores, hservice]
  have hinst (e : Entry) : g.instCores l bands e = h.instCores l bands e := by simp only [Hw.instCores, hcores]
  have hlist (e : Entry) : g.coreList l bands e = h.coreList l bands e := by simp only [Hw.coreList, hinst, harr]
  simp only [Hw.frameTasks, hlist]

/-- The hardware as a frame begins: with the first one the launch's packet has issued and its record is written (R345, R348). -/
def Hw.atStart (h : Hw) (l : Launch) : Hw := if l.begun then h else (h.issueStart l).writeRecord l 0

theorem Hw.onlyQueues_atStart (h : Hw) (l : Launch) : h.OnlyQueues (h.atStart l) := by
  rw [Hw.atStart]
  split
  · exact .refl h
  · exact (h.onlyQueues_issueStart l).trans (Hw.onlyAccess_writeRecord _ l 0).onlyQueues

/-- The first frame of a launch without a record changes of memory at most SHADOW and RIDXC of its queue (R334, R339). -/
theorem Hw.sameBut_atStart (hbegun : l.begun = false) (hrec : l.recva = 0) : h.SameBut (h.atStart l) (h.recordPa l.q + 48) 16 := by
  rw [Hw.atStart, hbegun, if_neg Bool.false_ne_true, Hw.writeRecord, if_pos hrec, Hw.issueStart]
  split
  · split
    · exact h.sameBut_issueHead _ _ _
    · exact .of_mem rfl _ _
  · exact .of_mem rfl _ _

/-- With the first frame the packet at the head issues that its launch waits for (R345). -/
theorem Hw.stands_atStart {p : Packet} {rest : List Packet} (hbegun : l.begun = false) (hrec : l.recva = 0)
    (hlook : (h.queue l.q).look = p :: rest) (hstarting : (h.queue l.q).starting = some l.lid) (hhalt : (h.dbSlot l.q).halt = false) :
    ({ h.queue l.q with
      ridx := p.ridx, chain := p.chain, look := rest, running := (h.queue l.q).running ++ [p.place], lastIssue := h.tick } : HQueue).Stands
      ((h.atStart l).queue l.q) := by
  have hissue : h.atStart l = h.issueHead l.q p true := by
    rw [Hw.atStart, hbegun, if_neg Bool.false_ne_true, Hw.writeRecord, if_pos hrec, Hw.issueStart, hlook]
    simp only [List.head?_cons, hstarting, hhalt]
    rfl
  have hstands := h.stands_issueHead l.q p true
  rw [hlook] at hstands
  rw [hissue]
  exact hstands

/-- The launch whose frame has begun (R316). -/
def Hw.inFrame (h : Hw) (l : Launch) (f : FrameTab) (es : List Entry) : Launch :=
  let due := h.tick + BitVec.ofNat 64 f.ticks
  { l with
    st := .frame, begun := true, start := h.tick, due := due, slipEnd := due, ticks := f.ticks, next := f.next, elastic := f.elastic
    ents := es, recs := h.frameTasks l f.bands es, retires := 0, conts := [], contTab := f.conts, bands := f.bands
    slipLim := f.slipLim, slipLog := f.slipLog, slipN := f.slipN, ph := [], lost := false }

theorem Hw.beginFrame_eq (h : Hw) (l : Launch) (f : FrameTab) (es : List Entry) :
    h.beginFrame l f es
      = ({ h.atStart l with closed := (h.atStart l).closed.filter (fun n => n.lid != l.lid) } : Hw).setLaunch (h.inFrame l f es) := by
  obtain ⟨-, -, -, harrs, htick, -⟩ := (h.onlyQueues_atStart l).leaves
  have htasks := Hw.frameTasks_congr (h := h) (g := { h.atStart l with closed := (h.atStart l).closed.filter (fun n => n.lid != l.lid) }) harrs
    l f.bands es
  rw [Hw.inFrame, ← htasks, ← htick]
  rw [Hw.beginFrame, ← htick]
  rfl

end

/-- A launch stands at the end of its boundary acts, its next frame due (R316). -/
def State.AtBoundary (s : State) (l : Launch) : Prop :=
  l.st = .boundary ∧ l.abort = false ∧ l.due.toNat ≤ s.tick.toNat ∧ s.toHw.calBusy l = false
    ∧ (∀ i ∈ l.isles, (s.toHw.isle i).gated = false) ∧ s.errs = []

section
variable {s : State} {l : Launch}

theorem execFrameStart_reads (hl : s.toHw.launch? l.lid = some l) (hat : s.AtBoundary l) :
    exec (.frameStart l.lid) s = .next (s.attempt (fun h => match h.readFrame l with
      | .ok (f, es) => h.beginFrame l f es
      | .error e => (h.ttFailed l e).failLaunch l.lid {
          kind := 2, isle := l.isles.headD 0, tick := h.tick, body := detField 32 8 e.1 })) := by
  obtain ⟨hst, habort, hdue, hcal, hgated, herrs⟩ := hat
  have hawake : (l.isles.any fun i => (s.toHw.isle i).gated) = false := List.any_eq_false.mpr fun i hi => by simp [hgated i hi]
  have hnow : s.tick.ult l.due = false := by simpa [BitVec.ult] using hdue
  have hgo : (l.st != .boundary || l.abort || s.tick.ult l.due || s.toHw.calBusy l || l.isles.any fun i => (s.toHw.isle i).gated) = false := by
    rw [hst, habort, hcal, hawake, hnow]
    rfl
  simp only [exec_frameStart, execFrameStart, hl, hgo, Bool.false_eq_true, if_false]
  refine congrArg Host.Outcome.next (State.attempt_congr ?_)
  simp only [Hw.meetErrs_of_clear (h := s.toHw.atRest) herrs] <;> rfl

theorem frameStart_begins {f : FrameTab} {es : List Entry} (hl : s.toHw.launch? l.lid = some l) (hat : s.AtBoundary l)
    (hread : s.toHw.atRest.readFrame l = .ok (f, es)) :
    exec (.frameStart l.lid) s = .next (s.attempt (fun h => h.beginFrame l f es)) := by
  rw [execFrameStart_reads hl hat]
  exact congrArg Host.Outcome.next (State.attempt_congr (by simp only [hread]))

theorem frameStart_fails {e : Nat × Nat} (hl : s.toHw.launch? l.lid = some l) (hat : s.AtBoundary l)
    (hread : s.toHw.atRest.readFrame l = .error e) :
    exec (.frameStart l.lid) s = .next (s.attempt (fun h => (h.ttFailed l e).failLaunch l.lid {
      kind := 2, isle := l.isles.headD 0, tick := h.tick, body := detField 32 8 e.1 })) := by
  rw [execFrameStart_reads hl hat]
  exact congrArg Host.Outcome.next (State.attempt_congr (by simp only [hread]))

end

/-! ### The work of a launch that ends -/

/-- No core has another task than before, calibration tasks still wait where they did, and launches and the cores in service are as
before. -/
structure Hw.Discards (h g : Hw) : Prop where
  launches : g.launches = h.launches
  service : ∀ co, g.coreInService co = h.coreInService co
  task : ∀ co t, (g.core co).task = some t → (h.core co).task = some t
  waits : ∀ co, (g.core co).queue.filter (fun t => t.calib) = (h.core co).queue.filter (fun t => t.calib)

theorem Hw.Discards.refl (h : Hw) : h.Discards h := ⟨rfl, fun _ => rfl, fun _ _ ht => ht, fun _ => rfl⟩

theorem Hw.Discards.trans {h g k : Hw} (hg : h.Discards g) (hk : g.Discards k) : h.Discards k :=
  ⟨hk.launches.trans hg.launches, fun co => (hk.service co).trans (hg.service co), fun co t ht => hg.task co t (hk.task co t ht),
    fun co => (hk.waits co).trans (hg.waits co)⟩

theorem Hw.discards_foldl {α : Type} {f : Hw → α → Hw} {l : List α} (hf : ∀ (h : Hw), ∀ a ∈ l, h.Discards (f h a)) (h : Hw) :
    h.Discards (l.foldl f h) := by
  induction l generalizing h with
  | nil => exact .refl h
  | cons a l ih => exact (hf h a List.mem_cons_self).trans (ih (fun h b hb => hf h b (List.mem_cons_of_mem a hb)) (f h a))

section
variable (h : Hw)

theorem Hw.discards_onCore (co : CoreId) {f : Core → Core} (htask : ∀ k t, (f k).task = some t → k.task = some t)
    (hwaits : ∀ k, (f k).queue.filter (fun t => t.calib) = k.queue.filter (fun t => t.calib)) : h.Discards (h.onCore co f) := by
  have hcore (d : CoreId) : (h.onCore co f).core d = h.core d ∨ (h.onCore co f).core d = f (h.core d) := by
    by_cases hd : CoreId.key d = CoreId.key co
    · refine .inr ?_
      have hkey (h : Hw) : h.core d = h.core co := by rw [Hw.core, Hw.core, hd]
      rw [hkey, hkey, Hw.core_onCore]
    · exact .inl (by rw [Hw.onCore, Hw.core_setCore_other _ _ hd])
  refine ⟨rfl, fun _ => rfl, fun d t ht => ?_, fun d => ?_⟩
  · rcases hcore d with hd | hd
    · rwa [hd] at ht
    · rw [hd] at ht
      exact htask _ _ ht
  · rcases hcore d with hd | hd
    · rw [hd]
    · rw [hd, hwaits]

theorem CoreId.ins_lt {co : CoreId} (hok : co.ok = true) : CoreId.ins co < 512 := by
  simp only [CoreId.ok, Bool.and_eq_true, decide_eq_true_eq] at hok
  have hcore := hok.2
  rw [CoreId.ins]
  omega

theorem Hw.discards_onArr (co : CoreId) (hco : co.ok = true) {f : Arr → Arr} (hf : ∀ a, (f a).cores = a.cores) :
    h.Discards (h.onArr co.isle (CoreId.ins co) f) := by
  refine ⟨rfl, fun d => ?_, fun _ _ ht => ht, fun _ => rfl⟩
  have hins := CoreId.ins_lt hco
  rw [Hw.coreInService, Hw.coreInService]
  cases hd : d.ok with
  | false => rfl
  | true =>
    have hins' := CoreId.ins_lt hd
    by_cases hkey : arrKey d.isle (CoreId.ins d) = arrKey co.isle (CoreId.ins co)
    · obtain ⟨hisle, hins⟩ : d.isle = co.isle ∧ CoreId.ins d = CoreId.ins co := by
        simp only [arrKey] at hkey
        omega
      rw [hisle, hins, Hw.onArr, Hw.arr_setArr, hf]
    · rw [Hw.onArr, Hw.arr_setArr_other _ _ hkey]

theorem Hw.discards_wake (co : CoreId) (e : EngId) (status : Nat) : h.Discards (h.wake co e status) := by
  rw [Hw.wake, Hw.onEng]
  refine h.discards_onCore co (fun k t ht => ?_) (fun k => ?_)
  · rwa [Core.setEng_task] at ht
  · rw [Core.setEng_queue]

theorem Hw.discards_releaseMonitors (site status : Nat) (p : Monitor → Bool) : h.Discards (h.releaseMonitors site status p) := by
  have hwake (ms : List Monitor) (g : Hw) : g.Discards (ms.foldl (fun g m => g.wake m.co m.eng status) g) :=
    Hw.discards_foldl (fun g m _ => g.discards_wake m.co m.eng status) g
  rw [Hw.releaseMonitors]
  refine Hw.Discards.trans ?_ (hwake _ _)
  exact ⟨rfl, fun _ => rfl, fun _ _ ht => ht, fun _ => rfl⟩

theorem Hw.OnlyLines.discards {h g : Hw} (hg : h.OnlyLines g) : h.Discards g := by
  rw [Hw.OnlyLines] at hg
  rw [hg]
  exact ⟨rfl, fun _ => rfl, fun _ _ ht => ht, fun _ => rfl⟩

theorem Hw.discards_writeLine (pa : Nat) (bs : List Byte) (stamp : LineMeta) : h.Discards (h.writeLine pa bs stamp) := by
  rw [Hw.writeLine]
  have hcheck (b : Bool) :
      h.Discards (if b = true then (true, ({ h with errs := tabDel (pa / 64) h.errs } : Hw)) else h.checkLine pa .clean).2 := by
    split
    · exact ⟨rfl, fun _ => rfl, fun _ _ ht => ht, fun _ => rfl⟩
    · exact (h.onlyLines_checkLine pa .clean).discards
  specialize hcheck (decide (pa % 64 = 0) && decide (64 ≤ bs.length))
  generalize (if (decide (pa % 64 = 0) && decide (64 ≤ bs.length)) = true then (true, ({ h with errs := tabDel (pa / 64) h.errs } : Hw))
    else h.checkLine pa .clean) = r at hcheck ⊢
  obtain ⟨ok, g⟩ := r
  dsimp only at hcheck ⊢
  have hmark (c : Bool) (f : LineMeta → LineMeta) : h.Discards (if c = true then g.onLine pa f else g) := by
    split
    · exact hcheck.trans ⟨rfl, fun _ => rfl, fun _ _ ht => ht, fun _ => rfl⟩
    · exact hcheck
  split
  · exact hmark _ _
  · refine Hw.Discards.trans ?_ (Hw.discards_releaseMonitors _ _ _ _)
    exact (hmark _ _).trans ⟨rfl, fun _ => rfl, fun _ _ ht => ht, fun _ => rfl⟩

theorem Hw.discards_endStep (r : SliceReq) : h.Discards (h.endStep r) := by
  have hopen : h.Discards (h.openLine r .clean).2 := by
    rw [Hw.openLine]
    split
    · exact .refl h
    · exact (h.onlyLines_checkLine _ _).discards
  rw [Hw.endStep]
  split
  · exact .refl h
  · split
    · exact .refl h
    · split
      · next g hg =>
        rw [hg] at hopen
        exact hopen.trans (g.discards_writeLine _ _ _)
      · next g hg =>
        rw [hg] at hopen
        exact hopen

theorem Hw.discards_closeSide (e : Endpoint) : h.Discards (h.closeSide e) := ⟨rfl, fun _ => rfl, fun _ _ ht => ht, fun _ => rfl⟩

theorem Hw.discards_closeTrapped (co : CoreId) : h.Discards (h.closeTrapped co) := by
  rw [Hw.closeTrapped]
  split
  · exact Hw.discards_foldl (fun h e _ => h.discards_closeSide e) h
  · exact .refl h

theorem Hw.discards_dropLease (co : CoreId) (hco : co.ok = true) : h.Discards (h.dropLease co) := by
  have hwaits := h.discards_onArr co hco (f := fun a => { a with waiting := a.waiting.filter (fun w => w.1 != CoreId.pos co) }) fun _ => rfl
  simp only [Hw.dropLease]
  split
  · refine hwaits.trans ?_
    rw [Hw.endRun]
    refine Hw.Discards.trans ?_ (Hw.discards_onArr _ co hco ?_)
    · refine Hw.discards_onCore _ co ?_ ?_
      · exact fun _ _ ht => ht
      · exact fun _ => rfl
    · exact fun _ => rfl
  · exact hwaits

theorem Core.task_discard (k : Core) (t : Task) (ht : k.discard.task = some t) : k.task = some t ∧ t.calib = true := by
  rw [Core.discard] at ht
  split at ht
  · next hcal =>
    have htask : k.task = some t := ht
    rw [htask] at hcal
    exact ⟨htask, hcal⟩
  · cases ht

theorem Core.waits_discard (k : Core) : k.discard.queue.filter (fun t => t.calib) = k.queue.filter (fun t => t.calib) := by
  rw [Core.discard]
  split <;> simp [List.filter_filter]

/-- A core's work is discarded (R370). -/
def Hw.discardCore (h : Hw) (co : CoreId) : Hw := ((h.closeTrapped co).dropLease co).onCore co Core.discard

theorem Hw.discards_discardCore (co : CoreId) (hco : co.ok = true) : h.Discards (h.discardCore co) :=
  ((h.discards_closeTrapped co).trans (Hw.discards_dropLease _ co hco)).trans
    (Hw.discards_onCore _ co (fun k t ht => (k.task_discard t ht).1) Core.waits_discard)

theorem Hw.discardCore_calib (co : CoreId) (t : Task) (ht : ((h.discardCore co).core co).task = some t) : t.calib = true := by
  rw [Hw.discardCore, Hw.core_onCore] at ht
  exact (Core.task_discard _ t ht).2

/-- Of the cores whose work is discarded each holds at most a calibration task (R370). -/
theorem Hw.discardCores_calib {cos : List CoreId} (hok : ∀ co ∈ cos, co.ok = true) {co : CoreId} (hco : co ∈ cos) (t : Task)
    (ht : ((cos.foldl Hw.discardCore h).core co).task = some t) : t.calib = true := by
  induction cos generalizing h with
  | nil => exact absurd hco List.not_mem_nil
  | cons d cos ih =>
    have hok' : ∀ c ∈ cos, c.ok = true := fun c hc => hok c (List.mem_cons_of_mem d hc)
    rcases List.mem_cons.mp hco with rfl | hin
    · have hrest := Hw.discards_foldl (l := cos) (fun h c hc => h.discards_discardCore c (hok' c hc)) (h.discardCore co)
      exact h.discardCore_calib co t (hrest.task co t ht)
    · exact ih (h.discardCore d) hok' hin ht

end

end Sys2Proof.Machine
end

section
/-! SUPPORT. The end of a launch, and the statement about frames and the ends of launches (R316-R325, R370). -/

namespace Sys2Proof.Machine

/-! ### What is left of the work of a launch -/

theorem Hw.coreInService_ok {h : Hw} {co : CoreId} (hservice : h.coreInService co = true) : co.ok = true := by
  rw [Hw.coreInService, Bool.and_eq_true] at hservice
  exact hservice.1

theorem Hw.launchCores_ok {h : Hw} {l : Launch} {co : CoreId} (hco : co ∈ h.launchCores l) : co.ok = true := by
  obtain ⟨i, -, hco⟩ := List.mem_flatMap.mp hco
  exact Hw.coreInService_ok (List.mem_filter.mp hco).2

theorem Hw.Discards.launchCores {h g : Hw} (hg : h.Discards g) (l : Launch) : g.launchCores l = h.launchCores l := by
  have hcores : g.isleCores = h.isleCores := funext fun i => by simp only [Hw.isleCores, hg.service]
  rw [Hw.launchCores, Hw.launchCores, hcores]

/-- A launch with no calibration task has none after work is discarded. -/
theorem Hw.Discards.calBusy {h g : Hw} (hg : h.Discards g) {l : Launch} (hidle : h.calBusy l = false) : g.calBusy l = false := by
  rw [Hw.calBusy, List.any_eq_false] at hidle ⊢
  intro co hco
  rw [hg.launchCores] at hco
  have hno := hidle co hco
  simp only [Bool.or_eq_true, not_or, Bool.not_eq_true] at hno ⊢
  obtain ⟨hqueue, htask⟩ := hno
  refine ⟨List.any_eq_false.mpr fun t ht hcal => ?_, ?_⟩
  · have hmem : t ∈ (h.core co).queue.filter (fun t => t.calib) := hg.waits co ▸ List.mem_filter.mpr ⟨ht, hcal⟩
    exact List.any_eq_false.mp hqueue t (List.mem_filter.mp hmem).1 hcal
  · cases hrun : (g.core co).task with
    | none => rfl
    | some t =>
      rw [hg.task co t hrun] at htask
      exact htask

/-- The steps of its copies done, and every core of the launch without its work (R370). -/
def Hw.coresDiscarded (h : Hw) (l : Launch) : Hw :=
  let mine := fun (w : ReqFrom) => match w with
    | .cmd co _ => l.has co.isle
    | .flit _ _ => false
  let h := (h.slices.flatMap (fun e => e.2.reqs.filter (fun r => r.write && mine r.who))).foldl Hw.endStep h
  (h.launchCores l).foldl Hw.discardCore h

section
variable (h : Hw) (l : Launch)

theorem Hw.discards_endSteps (rs : List SliceReq) : h.Discards (rs.foldl Hw.endStep h) :=
  Hw.discards_foldl (fun h r _ => h.discards_endStep r) h

theorem Hw.discards_coresDiscarded : h.Discards (h.coresDiscarded l) :=
  (h.discards_endSteps _).trans (Hw.discards_foldl (fun h co hco => h.discards_discardCore co (Hw.launchCores_ok hco)) _)

theorem Hw.discards_discardWork : h.Discards (h.discardWork l) :=
  (h.discards_coresDiscarded l).trans ⟨rfl, fun _ => rfl, fun _ _ ht => ht, fun _ => rfl⟩

/-- Once its work is discarded a launch has no rounds left (R370). -/
theorem Hw.rounds_discardWork : ∀ q ∈ (h.discardWork l).rounds, q.lid ≠ l.lid := by
  intro q hq
  simpa using (List.mem_filter.mp hq).2

/-- Once its work is discarded the cores of a launch hold calibration tasks at most (R370). -/
theorem Hw.tasks_discardWork {co : CoreId} (hco : co ∈ h.launchCores l) (t : Task) (ht : ((h.discardWork l).core co).task = some t) :
    t.calib = true := by
  have hsteps := h.discards_endSteps (h.slices.flatMap (fun e => e.2.reqs.filter (fun r => r.write && match r.who with
    | .cmd co _ => l.has co.isle
    | .flit _ _ => false)))
  rw [← hsteps.launchCores] at hco
  exact Hw.discardCores_calib _ (fun _ hc => Hw.launchCores_ok hc) hco t ht

end

/-! ### The records of a launch that ends -/

/-- Rounds and the cores' tasks are as before. -/
structure Hw.KeepsWork (h g : Hw) : Prop where
  rounds : g.rounds = h.rounds
  task : ∀ co, (g.core co).task = (h.core co).task

theorem Hw.KeepsWork.trans {h g k : Hw} (hg : h.KeepsWork g) (hk : g.KeepsWork k) : h.KeepsWork k :=
  ⟨hk.rounds.trans hg.rounds, fun co => (hk.task co).trans (hg.task co)⟩

theorem Hw.OnlyUnits.keepsWork {h g : Hw} (hg : h.OnlyUnits g) : h.KeepsWork g := by
  obtain ⟨-, -, -, hrounds, -⟩ := hg.leaves
  exact ⟨hrounds, hg.task⟩

theorem Hw.OnlyQueues.keepsWork {h g : Hw} (hg : h.OnlyQueues g) : h.KeepsWork g := by
  obtain ⟨-, -, hrounds, -⟩ := hg.leaves
  exact ⟨hrounds, hg.task⟩

section
variable (h : Hw)

theorem Hw.keepsWork_onDbSlot (q : Nat) (f : DbSlot → DbSlot) : h.KeepsWork (h.onDbSlot q f) := by
  rw [Hw.onDbSlot]
  split <;> exact ⟨rfl, fun _ => rfl⟩

theorem Hw.keepsWork_discardStart (q : Nat) : h.KeepsWork (h.discardStart q) := by
  rw [Hw.discardStart]
  split
  · exact ⟨rfl, fun _ => rfl⟩
  · next l _ =>
    refine Hw.KeepsWork.trans ?_ (Hw.onlyUnits_freeIsles _ (l.isles.zip l.ctxs) l.isles false).keepsWork
    exact ⟨rfl, fun _ => rfl⟩

theorem Hw.keepsWork_queueFault (q : Nat) (code : BitVec 4) : h.KeepsWork (h.queueFault q code) := by
  rw [Hw.queueFault]
  have hslot := h.keepsWork_onDbSlot q (fun d => { d with halt := true, fcode := code })
  have hdiscard := hslot.trans (Hw.keepsWork_discardStart _ q)
  exact hdiscard.trans ((Hw.onlyQueues_onQueue _ q HQueue.dropLook).trans (Hw.onlyQueues_settleUnmap _ q)).keepsWork

end

/-- What the record of a launch that ends leaves: the rounds and tasks, and where the launch stands. -/
theorem Hw.putFault_leaves {h : Hw} {x : Launch} (hx : h.AtStage x) (q : Nat) (m : Master) (root log i frame : Nat) (inGrant : Bool)
    (r : FaultRec) :
    h.KeepsWork (h.putFault q m root log i frame inGrant r) ∧ (h.putFault q m root log i frame inGrant r).AtStage x := by
  rw [Hw.putFault]
  split
  · exact ⟨⟨rfl, fun _ => rfl⟩, hx⟩
  · generalize hmet : h.meetErrs (fun h => h.mayRead m root log 4) = g
    have hread : h.OnlyAccess g := hmet ▸ h.onlyAccess_meetErrs _
    have hnoted : h.OnlyAccess (if (g.readAs m root log 4).isNone = true then g.noteRead m root log 4 else g) := by
      split
      · exact hread.trans (g.onlyAccess_noteRead _ _ _ _)
      · exact hread
    have hcount := hnoted.trans (Hw.onlyAccess_writeVa _ m root (log + 4) (leBytes 4 (i + 1)))
    dsimp only
    split
    · exact ⟨hcount.onlyUnits.keepsWork, hx.onlyUnits hcount.onlyUnits⟩
    · split
      · have hwritten := hcount.trans (Hw.onlyAccess_writeVa _ m root (log + 64 + 64 * i) (r.bytes frame))
        exact ⟨hwritten.onlyUnits.keepsWork, hx.onlyUnits hwritten.onlyUnits⟩
      · exact ⟨hcount.onlyUnits.keepsWork.trans (Hw.keepsWork_queueFault _ q 3), (hx.onlyUnits hcount.onlyUnits).queueFault q 3⟩

theorem Hw.logFault_leaves {h : Hw} {x : Launch} (hx : h.AtStage x) (r : FaultRec) :
    h.KeepsWork (h.logFault x.lid r) ∧ (h.logFault x.lid r).AtStage x := by
  rw [Hw.logFault]
  split
  · exact ⟨⟨rfl, fun _ => rfl⟩, hx⟩
  · next l hl =>
    have hset : (h.setLaunch { l with nrec := l.nrec + 1 }).AtStage x := Hw.atStage_setLaunch (hx l hl)
    obtain ⟨hkept, hat⟩ := Hw.putFault_leaves hset l.q (quayMaster l.q l.pkey) l.rootpa l.flogva l.nrec.toNat l.frame.toNat
      (l.grants (l.flogva + 64 + 64 * l.nrec.toNat) 64 pSt) r
    exact ⟨.trans (g := h.setLaunch { l with nrec := l.nrec + 1 }) ⟨rfl, fun _ => rfl⟩ hkept, hat⟩

theorem Hw.logFaults_leaves {h : Hw} {x : Launch} (hx : h.AtStage x) (rs : List FaultRec) :
    h.KeepsWork (rs.foldl (fun h r => h.logFault x.lid r) h) ∧ (rs.foldl (fun h r => h.logFault x.lid r) h).AtStage x := by
  induction rs generalizing h with
  | nil => exact ⟨⟨rfl, fun _ => rfl⟩, hx⟩
  | cons r rs ih =>
    obtain ⟨hkept, hat⟩ := Hw.logFault_leaves hx r
    obtain ⟨hkept', hat'⟩ := ih hat
    exact ⟨hkept.trans hkept', hat'⟩

/-- A launch ends with its records (R370, R371). -/
def Hw.endFailed (h : Hw) (l : Launch) : Hw :=
  let h := l.failing.foldl (fun h r => h.logFault l.lid r) h
  h.endLaunch ((h.launch? l.lid).getD l) 2

/-- With its records written a launch is gone, and nothing else of the work on the panel changes (R370). -/
theorem Hw.endFailed_leaves {h : Hw} {l : Launch} (hl : h.launch? l.lid = some l) :
    h.KeepsWork (h.endFailed l) ∧ (h.endFailed l).launch? l.lid = none := by
  obtain ⟨hkept, hat⟩ := Hw.logFaults_leaves (Hw.atStage_of_some hl rfl) l.failing
  have hlid : (((l.failing.foldl (fun h r => h.logFault l.lid r) h).launch? l.lid).getD l).lid = l.lid := by
    cases hleft : (l.failing.foldl (fun h r => h.logFault l.lid r) h).launch? l.lid with
    | none => rfl
    | some l' => exact Launch.lid_of_stage (hat l' hleft)
  obtain ⟨-, hrounds, htask⟩ := (l.failing.foldl (fun h r => h.logFault l.lid r) h).endLaunch_leaves
    (((l.failing.foldl (fun h r => h.logFault l.lid r) h).launch? l.lid).getD l) 2
  have hgone := (l.failing.foldl (fun h r => h.logFault l.lid r) h).launch?_endLaunch
    (((l.failing.foldl (fun h r => h.logFault l.lid r) h).launch? l.lid).getD l) 2
  rw [hlid] at hgone
  exact ⟨hkept.trans ⟨hrounds, htask⟩, hgone⟩

/-! ### The clauses -/

/-- An act that is stated where it has a route is made (log entry 107). -/
theorem State.Routed.attempt_eq {s : State} {f : Hw → Hw} (hroute : s.Routed f) :
    s.attempt f = { s with toHw := { f s.toHw.atRest with stall := s.toHw.stall } } := State.attempt_of_routed hroute

section
variable {s : State} {l : Launch} {el : Elastic}

/-- A launch that is to end waits until its isles' records are taken, and then ends (R365, R370). -/
theorem launchAbort_ends (hl : s.toHw.launch? l.lid = some l) (habort : l.abort = true) (htaken : s.toHw.recordsWait l = false) :
    exec (.launchAbort l.lid) s = .next (if (s.toHw.discardWork l).calBusy l then s.upd (fun h => h.discardWork l)
      else (s.upd (fun h => h.discardWork l)).attempt (fun h => h.endFailed l)) := by
  simp only [exec_launchAbort, execLaunchAbort, hl, habort, htaken, Bool.not_true, Bool.or_self, Bool.false_eq_true, if_false]
  exact (apply_ite Host.Outcome.next _ _ _).symm

theorem launchAbort_leaves (hl : s.toHw.launch? l.lid = some l) (habort : l.abort = true) (htaken : s.toHw.recordsWait l = false) :
    ∃ u : State, exec (.launchAbort l.lid) s = .next u
      ∧ (s.toHw.calBusy l = false → (s.upd (fun h => h.discardWork l)).Routed (fun h => h.endFailed l) → u.toHw.launch? l.lid = none)
      ∧ (∀ q ∈ u.rounds, q.lid ≠ l.lid) ∧ ∀ co ∈ s.toHw.launchCores l, ∀ t, (u.toHw.core co).task = some t → t.calib = true := by
  refine ⟨_, launchAbort_ends hl habort htaken, ?_⟩
  have hdiscards := s.toHw.discards_discardWork l
  have hrounds := s.toHw.rounds_discardWork l
  have htasks {co : CoreId} (hco : co ∈ s.toHw.launchCores l) := s.toHw.tasks_discardWork l hco
  split
  · next hbusy =>
    refine ⟨fun hidle _ => ?_, hrounds, fun co hco => htasks hco⟩
    rw [hdiscards.calBusy hidle] at hbusy
    cases hbusy
  · have hl' : (s.toHw.discardWork l).atRest.launch? l.lid = some l := (congrArg (tabFind · l.lid) hdiscards.launches).trans hl
    obtain ⟨hkept, hgone⟩ := Hw.endFailed_leaves hl'
    cases hroute : ((s.toHw.discardWork l).atRest.endFailed l).stall with
    | true =>
      rw [State.attempt_of_stalled hroute]
      refine ⟨fun _ hrouted => ?_, hrounds, fun co hco => htasks hco⟩
      cases hroute.symm.trans hrouted
    | false =>
      rw [State.attempt_of_routed hroute]
      refine ⟨fun _ _ => hgone, fun q hq => hrounds q ?_, fun co hco t ht => htasks hco t ?_⟩
      · have hq' : q ∈ ((s.toHw.discardWork l).atRest.endFailed l).rounds := hq
        rw [hkept.rounds] at hq'
        exact hq'
      · exact (hkept.task co).symm.trans ht

/-- At its scheduled end an incomplete frame counts a slip (R323). -/
theorem frameScheduledEnd_slips (hl : s.toHw.launch? l.lid = some l) (hst : l.st = .frame) (hend : l.slipEnd.toNat ≤ s.tick.toNat) :
    LaunchIs s l.lid { l with slips := l.slips + 1, slipEnd := l.slipEnd + BitVec.ofNat 64 l.ticks } (exec (.frameScheduledEnd l.lid) s) := by
  have hnow : s.tick.ult l.slipEnd = false := by simpa [BitVec.ult] using hend
  have hslip : l.slip 1 = { l with slips := l.slips + 1, slipEnd := l.slipEnd + BitVec.ofNat 64 l.ticks } := by rw [Launch.slip, Nat.one_mul]; rfl
  have hexec : exec (.frameScheduledEnd l.lid) s = .next (s.upd (fun h => h.setLaunch (l.slip 1))) := by
    simp [exec_frameScheduledEnd, execFrameScheduledEnd, hl, hst, hnow]
  rw [hexec, hslip]
  exact launchIs_setLaunch { l with slips := l.slips + 1, slipEnd := l.slipEnd + BitVec.ofNat 64 l.ticks }

/-- The outcome is one in which a launch at SLIPLIM is to end with its KIND 3 record (R325). -/
def SlipsOut (s : State) (lid : Nat) (l : Launch) (o : Out) : Prop :=
  ∃ (u : State) (l' : Launch) (r : FaultRec), o = .next u ∧ u.toHw.launch? lid = some l'
    ∧ l'.abort = true ∧ l'.failing = l.failing ++ [r] ∧ r.kind = 3 ∧ r.tick = s.tick ∧ l'.slipIdx = l.slipIdx + 1 ∧ l'.slips = l.slips
    ∧ (∀ t, l.recs.find? (fun t => t.st != .retired) = some t → r.task = t.task ∧ r.iter = t.iter ∧ r.isle = t.co.isle ∧ r.core = t.co.core)
    ∧ (l.slipN = 0 → ∀ a, memRead u.mem a = memRead s.mem a)

theorem attempt_endSlipping {f : Hw → Hw} {g : Hw} (hroute : s.Routed f) (hf : f s.toHw.atRest = g.endSlipping l) (hl : g.launch? l.lid = some l)
    (htick : g.tick = s.tick) (hmem : g.mem = s.mem) : SlipsOut s l.lid l (.next (s.attempt f)) := by
  obtain ⟨l', r, hl', habort, hfailing, hkind, hat, hidx, hslips, hnames, hbytes⟩ := g.endSlipping_fails hl
  rw [hroute.attempt_eq, hf]
  refine ⟨_, l', r, rfl, hl', habort, hfailing, hkind, hat.trans htick, hidx, hslips, hnames, fun hnone a => ?_⟩
  exact congrArg (memRead · a) ((hbytes hnone).trans hmem)

theorem slipLimit_fails (hl : s.toHw.launch? l.lid = some l) (hst : l.st = .frame) (habort : l.abort = false) (hlim : l.slipLim ≠ 0)
    (hout : l.slipLim ≤ l.slips.toNat) (hroute : s.Routed (fun h => h.endSlipping l)) :
    SlipsOut s l.lid l (exec (.slipLimit l.lid) s) := by
  have hexec : exec (.slipLimit l.lid) s = .next (s.attempt (fun h => h.endSlipping l)) := by
    simp [exec_slipLimit, execSlipLimit, hl, hst, habort, Launch.slipOut, hlim, hout]
  rw [hexec]
  exact attempt_endSlipping hroute rfl hl rfl rfl

theorem Hw.frameOver_of_retired {h : Hw} (hst : l.st = .frame) (habort : l.abort = false) (hrecs : ∀ r ∈ l.recs, r.st = .retired)
    (hrounds : h.roundsOver l (fun _ => true) = true) : h.frameOver l = true := by
  have hall : (l.recs.all fun r => r.st == .retired) = true := List.all_eq_true.mpr fun r hr => by rw [hrecs r hr]; rfl
  rw [Hw.frameOver, hst, habort, hall, hrounds]
  rfl

theorem frameComplete_slipsOut (hl : s.toHw.launch? l.lid = some l) (hover : s.toHw.frameOver l = true) (hout : (s.slipped l).slipOut = true)
    (hroute : s.Routed (fun h => (h.setLaunch (s.slipped l)).endSlipping (s.slipped l))) :
    SlipsOut s l.lid (s.slipped l) (exec (.frameComplete l.lid el) s) := by
  rw [frameComplete_completes hl hover]
  simp only [hout, if_true]
  exact attempt_endSlipping (l := s.slipped l) (g := s.toHw.atRest.setLaunch (s.slipped l)) hroute rfl (Hw.launch?_setLaunch _ rfl) rfl rfl

theorem State.attempt_setLaunch (s : State) (x : Launch) : s.attempt (fun h => h.setLaunch x) = s.upd (fun h => h.setLaunch x) := by
  rw [State.attempt_of_routed (by rfl)]
  rfl

theorem frameComplete_lost (hl : s.toHw.launch? l.lid = some l) (hover : s.toHw.frameOver l = true) (hout : (s.slipped l).slipOut = false)
    (hlost : l.lost = true) : LaunchIs s l.lid { s.slipped l with abort := true } (exec (.frameComplete l.lid el) s) := by
  have hlost' : (s.slipped l).lost = true := hlost
  have hset : s.attempt (fun h =>
      if (s.slipped l).slipOut then (h.setLaunch (s.slipped l)).endSlipping (s.slipped l)
      else if (s.slipped l).lost then (h.setLaunch (s.slipped l)).setLaunch { s.slipped l with abort := true }
      else (h.setLaunch (s.slipped l)).boundary l.lid el) = s.attempt (fun h => h.setLaunch { s.slipped l with abort := true }) := by
    refine State.attempt_congr ?_
    rw [if_neg (by simp [hout]), if_pos hlost']
    exact Hw.setLaunch_setLaunch _ rfl
  rw [frameComplete_completes hl hover, hset, State.attempt_setLaunch]
  exact launchIs_setLaunch (s := s) { s.slipped l with abort := true }

theorem frameComplete_boundary (hl : s.toHw.launch? l.lid = some l) (hover : s.toHw.frameOver l = true) (hout : (s.slipped l).slipOut = false)
    (hlost : l.lost = false) (hroute : s.Routed (fun h => (h.setLaunch (s.slipped l)).boundary l.lid el)) :
    ∃ u : State, exec (.frameComplete l.lid el) s = .next u ∧ ∀ l', u.toHw.launch? l.lid = some l' →
      (l'.st = .boundary ∨ l'.st = .changes ∧ u.toHw.calBusy l' = true) ∧ l'.frame = l.frame + 1 ∧ l'.fidx = l.next ∧ l'.recs = []
        ∧ l'.ents = [] ∧ l'.slips = (s.slipped l).slips := by
  have hlost' : (s.slipped l).lost = false := hlost
  refine ⟨_, frameComplete_completes hl hover, ?_⟩
  simp only [hout, hlost', Bool.false_eq_true, if_false]
  rw [hroute.attempt_eq]
  intro l' hl'
  have hset : (s.toHw.atRest.setLaunch (s.slipped l)).launch? (s.slipped l).lid = some (s.slipped l) := Hw.launch?_setLaunch _ rfl
  have hstage := Hw.boundary_stage hset el (l := l') hl'
  simp only [Launch.stage, Prod.mk.injEq] at hstage
  rcases hstage with ⟨-, hst, hframe, hfidx, hrecs, hents, hslips, -⟩ | ⟨⟨-, hst, hframe, hfidx, hrecs, hents, hslips, -⟩, hbusy⟩
  · exact ⟨.inl hst, hframe, hfidx, hrecs, hents, hslips⟩
  · exact ⟨.inr ⟨hst, hbusy⟩, hframe, hfidx, hrecs, hents, hslips⟩

/-- A launch at its boundary acts goes on with them (R316). -/
theorem frameComplete_goes (hl : s.toHw.launch? l.lid = some l) (hst : l.st = .changes) (habort : l.abort = false) :
    exec (.frameComplete l.lid el) s = .next (s.attempt (fun h => h.boundaryGo l.lid el)) := by
  simp [exec_frameComplete, execFrameComplete, hl, hst, habort]

theorem frameComplete_waits (hl : s.toHw.launch? l.lid = some l) (hst : l.st = .changes) (habort : l.abort = false)
    (hbusy : s.toHw.calBusy l = true) : exec (.frameComplete l.lid el) s = .next s := by
  rw [frameComplete_goes hl hst habort, State.attempt_of_unchanged]
  have hl' : s.toHw.atRest.launch? l.lid = some l := hl
  have hbusy' : s.toHw.atRest.calBusy l = true := hbusy
  simp only [Hw.boundaryGo, hl', hbusy', if_true]

theorem frameComplete_goes_on (hl : s.toHw.launch? l.lid = some l) (hst : l.st = .changes) (habort : l.abort = false)
    (hidle : s.toHw.calBusy l = false) (hroute : s.Routed (fun h => h.boundaryGo l.lid el)) :
    ∃ u : State, exec (.frameComplete l.lid el) s = .next u ∧ ∀ l', u.toHw.launch? l.lid = some l' →
      l'.st = .boundary ∧ l'.frame = l.frame ∧ l'.fidx = l.fidx := by
  refine ⟨_, frameComplete_goes hl hst habort, ?_⟩
  have hl₀ : s.toHw.atRest.launch? l.lid = some l := hl
  have hidle₀ : s.toHw.atRest.calBusy l = false := hidle
  have hgo : s.toHw.atRest.boundaryGo l.lid el = s.toHw.atRest.boundaryEnd l.lid el := by
    simp only [Hw.boundaryGo, hl₀, hidle₀, Bool.false_eq_true, if_false]
  rw [hroute.attempt_eq, hgo]
  intro l' hl'
  have hstage := Hw.AtStage.boundaryEnd (Hw.atStage_of_some hl₀ rfl) el l' hl'
  simp only [Launch.stage, Prod.mk.injEq] at hstage
  obtain ⟨-, hst', hframe, hfidx, -⟩ := hstage
  exact ⟨hst', hframe, hfidx⟩

theorem frameStart_makes {f : FrameTab} {es : List Entry} (hl : s.toHw.launch? l.lid = some l) (hat : s.AtBoundary l)
    (hread : s.toHw.atRest.readFrame l = .ok (f, es)) (hroute : s.Routed (fun h => h.beginFrame l f es)) :
    exec (.frameStart l.lid) s = .next { s with toHw := { s.toHw.atRest.beginFrame l f es with stall := s.toHw.stall } } := by
  rw [frameStart_begins hl hat hread, hroute.attempt_eq]

/-- What a frame that begins leaves: the launch in it, and of the queue and of memory what the first frame changes (R316, R345). -/
theorem Hw.beginFrame_leaves (h : Hw) (l : Launch) (f : FrameTab) (es : List Entry) :
    (h.beginFrame l f es).launch? l.lid = some (h.inFrame l f es)
      ∧ (∀ a, memRead (h.beginFrame l f es).mem a = memRead (h.atStart l).mem a)
      ∧ ∀ q, (h.beginFrame l f es).queue q = (h.atStart l).queue q := by
  rw [Hw.beginFrame_eq]
  exact ⟨Hw.launch?_setLaunch _ rfl, fun _ => rfl, fun _ => rfl⟩

theorem Hw.mem_ttFailed (h : Hw) (l : Launch) (e : Nat × Nat) : (h.ttFailed l e).mem = h.mem := by
  rw [Hw.ttFailed]
  induction l.isles generalizing h with
  | nil => rfl
  | cons i is ih => exact (ih _).trans (Hw.mem_noteRead _ _ _ _ _)

theorem frameStart_refuses {e : Nat × Nat} (hl : s.toHw.launch? l.lid = some l) (hat : s.AtBoundary l)
    (hread : s.toHw.atRest.readFrame l = .error e) (hroute : s.Routed (fun h => h.ttFailed l e)) :
    ∃ u : State, exec (.frameStart l.lid) s = .next u ∧ u.toHw.launch? l.lid = some { l with
        failing := l.failing ++ [{ kind := 2, isle := l.isles.headD 0, tick := s.tick, body := detField 32 8 e.1 }], abort := true }
      ∧ ∀ a, memRead u.mem a = memRead s.mem a := by
  have haccess := s.toHw.atRest.onlyAccess_ttFailed l e
  have hleft : (s.toHw.atRest.ttFailed l e).launch? l.lid = some l := (haccess.onlyUnits.launch? _).trans hl
  have hfails := Hw.failLaunch_of_some hleft { kind := 2, isle := l.isles.headD 0, tick := s.tick, body := detField 32 8 e.1 }
  refine ⟨_, frameStart_fails hl hat hread, ?_⟩
  rw [State.attempt_of_routed]
  · refine ⟨(congrArg (·.launch? l.lid) hfails).trans (Hw.launch?_setLaunch _ rfl), fun a => ?_⟩
    refine congrArg (memRead · a) ((congrArg Hw.mem hfails).trans ?_)
    exact s.toHw.atRest.mem_ttFailed l e
  · exact (congrArg Hw.stall hfails).trans hroute

end

/-- Settles O53: a launch's stage through the boundary acts (`Hw.AtStage`), what a frame's start leaves (`Hw.atStart`), and what is
left of a core's work when it is discarded (`Hw.Discards`) give the clauses one by one. -/
theorem framesAndLaunchEnds : Obligations.FramesAndLaunchEnds := by
  unfold Obligations.FramesAndLaunchEnds
  intro s lid l el rid x l1 fails hl hlid
  subst hlid
  refine ⟨frameScheduledEnd_slips hl, slipLimit_fails hl, fun hst habort hrecs hrounds => ?_, fun hst habort => ?_,
    fun hst habort hdue hcal hgated herrs => ?_, fun habort hwait => ?_, launchAbort_leaves hl, ?_⟩
  · have hover := Hw.frameOver_of_retired hst habort hrecs hrounds
    exact ⟨frameComplete_slipsOut hl hover, frameComplete_lost hl hover, frameComplete_boundary hl hover⟩
  · exact ⟨frameComplete_waits hl hst habort, frameComplete_goes_on hl hst habort⟩
  · have hat : s.AtBoundary l := ⟨hst, habort, hdue, hcal, hgated, herrs⟩
    refine ⟨fun f es hread hroute => ?_, fun e => frameStart_refuses hl hat⟩
    obtain ⟨hlaunch, hmem, hqueue⟩ := s.toHw.atRest.beginFrame_leaves l f es
    refine ⟨_, _, frameStart_makes hl hat hread hroute, hlaunch, rfl, rfl, rfl, rfl, rfl, rfl, rfl, rfl, rfl, rfl, rfl, fun hbegun a => ?_,
      fun hbegun hrec a ha => ?_, fun p rest hbegun hrec hlook hstarting hhalt => ?_⟩
    · refine (hmem a).trans ?_
      rw [Hw.atStart, if_pos hbegun]
      rfl
    · exact (hmem a).trans (Hw.sameBut_atStart (h := s.toHw.atRest) hbegun hrec a ha)
    · obtain ⟨hridx, hchain, hlook', hrunning, hissue⟩ := Hw.stands_atStart (h := s.toHw.atRest) hbegun hrec hlook hstarting hhalt
      have hq := hqueue l.q
      refine ⟨?_, ?_, ?_, ?_, ?_⟩
      · exact (congrArg HQueue.ridx hq).trans hridx
      · exact (congrArg HQueue.chain hq).trans hchain
      · exact (congrArg HQueue.look hq).trans hlook'
      · refine (congrArg HQueue.running hq).trans hrunning ▸ ?_
        exact List.mem_append_right _ List.mem_cons_self
      · exact (congrArg HQueue.lastIssue hq).trans hissue
  · simp [exec_launchAbort, execLaunchAbort, hl, habort, hwait]
  · have hexec : exec (.lctlAbort l.lid) s = .next (s.upd (fun h => h.setLaunch {
        l with failing := l.failing ++ [{ kind := 4, tick := s.tick }], abort := true })) :=
      congrArg Host.Outcome.next (State.upd_congr (Hw.failLaunch_of_some hl _))
    rw [hexec]
    exact launchIs_setLaunch { l with failing := l.failing ++ [{ kind := 4, tick := s.tick }], abort := true }

end Sys2Proof.Machine
end

section
/-! SUPPORT. The packet at the issue point of a queue: its effect once it is picked (R340, R344-R352, R357). -/

namespace Sys2Proof.Machine

/-! ### The packet that is picked -/

/-- The issue stage picks a queue whose packet at the issue point is `p`; no cells hold an error (R340). -/
def Hw.AtIssue (h : Hw) (q : Nat) (p : Packet) : Prop :=
  h.headPacket q = some p ∧ h.wins q = true ∧ (h.queue q).starting = none ∧ h.errs = []

/-- What stands of a queue once its packet has issued, all else but SHADOW and RIDXC of its record given (R339). -/
def State.Issued (s : State) (q : Nat) (p : Packet) (u : State) : Prop :=
  (u.toHw.queue q).ridx = p.ridx ∧ (u.toHw.queue q).chain = p.chain ∧ (u.toHw.queue q).look = (s.toHw.queue q).look.tail
    ∧ (u.toHw.queue q).lastIssue = s.tick

/-- The state once an act has changed the hardware. -/
def State.made (s : State) (g : Hw) : State := { s with toHw := { g with stall := s.toHw.stall } }

section
variable {α : Type} {h g : Hw} {q : Nat} {p : Packet}

/-- A packet at the issue point whose checks pass, picked and ready, acts (R340, R345). -/
theorem Hw.issueWith_acts {type : Nat} {check : Hw → Packet → Qf α} {ready : Hw → Packet → α → Bool}
    {act : Hw → Packet → α → Bool × Hw} {code : BitVec 4} {x : α} (hat : h.AtIssue q p) (htype : pktType p.bytes = type)
    (hcheck : check h p = .ok x) (hready : ready h p x = true) (hact : act h p x = (true, g)) :
    h.issueWith q type check ready act code = g := by
  obtain ⟨hhead, hwins, hstart, herrs⟩ := hat
  have hgo : (pktType p.bytes != type || (h.queue q).starting.isSome) = false := by simp [htype, hstart]
  simp only [Hw.issueWith, hhead, hgo, Hw.meetErrs_of_clear herrs, hcheck, hready, hwins, hact, Bool.false_eq_true, if_false, Bool.not_true,
    Bool.or_self]

theorem Hw.look_of_headPacket (hhead : h.headPacket q = some p) : (h.queue q).look = p :: (h.queue q).look.tail := by
  rw [Hw.headPacket] at hhead
  split at hhead
  · obtain ⟨hfirst, -⟩ := Option.filter_eq_some_iff.mp hhead
    exact (List.cons_head?_tail hfirst).symm
  · cases hhead

/-- An act whose accesses have a route is made. -/
theorem State.attempt_of_eq {s : State} {f : Hw → Hw} (hact : f s.toHw.atRest = g) (hroute : g.stall = false) : s.attempt f = s.made g := by
  subst hact
  exact State.attempt_of_routed hroute

/-- A packet that issues once its own accesses are made (R339, R345). -/
theorem State.issued_made {s : State} (hg : s.toHw.atRest.OnlyAccess g) (runs : Bool) :
    s.Issued q p (s.made (g.issueHead q p runs))
      ∧ ∀ a, a < s.toHw.recordPa q + 48 ∨ s.toHw.recordPa q + 48 + 16 ≤ a →
        memRead (s.made (g.issueHead q p runs)).mem a = memRead g.mem a := by
  obtain ⟨hridx, hchain, hlook, -, hissue⟩ := g.stands_issueHead q p runs
  have hqueue : g.queue q = s.toHw.queue q := hg.onlyUnits.queue q
  obtain ⟨-, -, -, -, htick, hcfg⟩ := hg.onlyQueues.leaves
  rw [hqueue] at hlook
  refine ⟨⟨hridx, hchain, hlook, hissue.trans htick⟩, ?_⟩
  have hrec : g.recordPa q = s.toHw.recordPa q := Hw.recordPa_of_cfg hcfg q
  rw [← hrec]
  exact g.sameBut_issueHead q p runs

end

/-! ### JOIN, COPY, SIGNAL, WAITVALUE -/

section
variable {s : State} {q : Nat} {p : Packet} {x : HQueue} {h' : Hw}

theorem join_issues (hat : s.toHw.atRest.AtIssue q p) (htype : pktType p.bytes = 4) (hd : fieldAt p.bytes 8 2 ≠ 0)
    (hzero : zeroFrom p.bytes 10 = true) (hjoined : (s.toHw.queue q).joined p = true) (hroute : s.Routed (fun h => h.issueHead q p false)) :
    exec (.join q) s = .next (s.made (s.toHw.atRest.issueHead q p false)) := by
  have hcheck : qNeed (fieldAt p.bytes 8 2 != 0 && zeroFrom p.bytes 10) 1 = .ok () := by simp [qNeed, hd, hzero]
  exact congrArg Host.Outcome.next (State.attempt_of_eq (Hw.issueWith_acts hat htype hcheck hjoined rfl) hroute)

theorem copy_issues {data : List Byte} (hx : s.toHw.atRest.queue q = x) (hat : s.toHw.atRest.AtIssue q p) (htype : pktType p.bytes = 5)
    (hcheck : s.toHw.atRest.checkCopy q p.bytes = .ok data)
    (hwrite : s.toHw.atRest.writeVa (x.master q) x.rootpa (fieldAt p.bytes 16 8) data = (true, h'))
    (hroute : (h'.issueHead q p false).stall = false) : exec (.copy q) s = .next (s.made (h'.issueHead q p false)) := by
  refine congrArg Host.Outcome.next (State.attempt_of_eq (Hw.issueWith_acts hat htype hcheck rfl ?_) hroute)
  dsimp only
  rw [hx, hwrite]

theorem Hw.onlyAccess_addVa (h : Hw) (m : Master) (root va v : Nat) : h.OnlyAccess (h.addVa m root va v).2 := by
  rw [Hw.addVa]
  split
  · exact .refl h
  · next pa _ =>
    split
    · exact h.onlyAccess_writeVa _ _ _ _
    · next n _ => exact h.onlyAccess_onQuay (n / 256) (fun y => { y with acc := y.acc.deny m opAtom (n * 65536 + pa % 65536) })
    · exact .refl h

theorem signal_issues (hx : s.toHw.atRest.queue q = x) (hat : s.toHw.atRest.AtIssue q p) (htype : pktType p.bytes = 6) (hrun : (s.toHw.queue q).running = [])
    (hcheck : s.toHw.atRest.checkSignal q p.bytes = .ok ())
    (hwrite : (if fieldAt p.bytes 24 1 = 0 then s.toHw.atRest.writeVa (x.master q) x.rootpa (fieldAt p.bytes 8 8)
        (leBytes 8 (fieldAt p.bytes 16 8))
      else s.toHw.atRest.addVa (x.master q) x.rootpa (fieldAt p.bytes 8 8) (fieldAt p.bytes 16 8)) = (true, h'))
    (hroute : (h'.issueHead q p false).stall = false) : exec (.signal q) s = .next (s.made (h'.issueHead q p false)) := by
  have hready : (s.toHw.queue q).running.isEmpty = true := by rw [hrun]; rfl
  refine congrArg Host.Outcome.next (State.attempt_of_eq (Hw.issueWith_acts hat htype hcheck hready ?_) hroute)
  dsimp only
  rw [hx, hwrite]

theorem attempt_pollWait (hat : s.toHw.atRest.AtIssue q p) (htype : pktType p.bytes = 7)
    (hcheck : s.toHw.atRest.checkWait q p.bytes = .ok true) (hroute : s.Routed (fun h => h.issueHead q p false)) :
    s.attempt (fun h => h.pollWait q) = s.made (s.toHw.atRest.issueHead q p false) :=
  State.attempt_of_eq (Hw.issueWith_acts hat htype hcheck rfl rfl) hroute

end

end Sys2Proof.Machine
end

section
/-! SUPPORT. What the harbour's writes by virtual address leave (R101, R104, R105). -/

namespace Sys2Proof.Machine

/-- Bytes have been written at a place: every other byte is as before, no cells hold an error, and sound lines are sound. -/
structure Hw.Wrote (h g : Hw) (pa : Nat) (bs : List Byte) : Prop where
  within : ∀ i, i < bs.length → memRead g.mem (pa + i) = bs.getD i 0
  outside : h.SameBut g pa bs.length
  ok : g.Ok
  errs : g.errs = []
  sound : ∀ a, (h.lineOf a).bad = false → (g.lineOf a).bad = false
  stall : g.stall = h.stall

theorem Hw.Wrote.nil {h : Hw} (w : h.Ok) (herrs : h.errs = []) (pa : Nat) : h.Wrote h pa [] :=
  ⟨fun _ hi => absurd hi (Nat.not_lt_zero _), fun _ _ => rfl, w, herrs, fun _ hs => hs, rfl⟩

/-- Two writes, the second behind the first. -/
theorem Hw.Wrote.append {h g k : Hw} {pa : Nat} {bs cs : List Byte} (hg : h.Wrote g pa bs) (hk : g.Wrote k (pa + bs.length) cs) :
    h.Wrote k pa (bs ++ cs) := by
  refine ⟨fun i hi => ?_, fun a ha => ?_, hk.ok, hk.errs, fun a hs => hk.sound a (hg.sound a hs), hk.stall.trans hg.stall⟩
  · rw [List.length_append] at hi
    by_cases hin : i < bs.length
    · rw [hk.outside _ (by omega), hg.within i hin, List.getD_append _ _ _ _ hin]
    · have hlast := hk.within (i - bs.length) (by omega)
      rw [List.getD_append_right _ _ _ _ (by omega), ← hlast]
      congr 1
      omega
  · rw [List.length_append] at ha
    exact (hk.outside a (by omega)).trans (hg.outside a (by omega))

section
variable {h : Hw} {pa : Nat} {bs : List Byte}

theorem Hw.lineMeta_releaseMonitors (h : Hw) (site status : Nat) (p : Monitor → Bool) :
    (h.releaseMonitors site status p).lineMeta = h.lineMeta ∧ (h.releaseMonitors site status p).errs = h.errs
      ∧ (h.releaseMonitors site status p).stall = h.stall := by
  have hkept : ((h.releaseMonitors site status p).lineMeta, (h.releaseMonitors site status p).errs, (h.releaseMonitors site status p).stall)
      = (h.lineMeta, h.errs, h.stall) := by
    rw [Hw.releaseMonitors, foldl_keeps (fun g : Hw => (g.lineMeta, g.errs, g.stall))]
    exact fun _ _ => rfl
  simpa using hkept

theorem Hw.bad_onLine (h : Hw) (pa a : Nat) {f : LineMeta → LineMeta} (hf : (h.lineOf pa).bad = false → (f (h.lineOf pa)).bad = false)
    (hs : (h.lineOf a).bad = false) : ((h.onLine pa f).lineOf a).bad = false := by
  rw [Hw.lineOf, Hw.onLine]
  by_cases ha : a / 64 = pa / 64
  · rw [ha, tabGet_put_same]
    refine hf ?_
    rwa [Hw.lineOf, ← ha]
  · rw [tabGet_put_other _ _ ha]
    exact hs

/-- What a line takes when it is written whole, or is sound (R101, R105). -/
theorem Hw.wrote_writeLine (w : h.Ok) (herrs : h.errs = [])
    (hline : (pa % 64 = 0 ∧ bs.length = 64) ∨ (h.lineOf pa).bad = false) (stamp : LineMeta) :
    h.Wrote (h.writeLine pa bs stamp) pa bs := by
  have hclear (k : Nat) : ({ h with errs := tabDel k h.errs } : Hw) = h := by
    have hdel : tabDel k h.errs = h.errs := by
      rw [herrs]
      rfl
    rw [hdel]
  have hopen : (if (decide (pa % 64 = 0) && decide (64 ≤ bs.length)) = true then (true, ({ h with errs := tabDel (pa / 64) h.errs } : Hw))
      else h.checkLine pa .clean) = (true, h) := by
    rw [hclear]
    split
    · rfl
    · next hpart =>
      have hs : (h.lineOf pa).bad = false := hline.resolve_left fun hw => hpart (by simp [hw.1, hw.2])
      exact Hw.checkLine_of_sound hs (by rw [herrs]; rfl)
  have hmark (c : Bool) : (if c = true then h.onLine pa (fun m => { m with bad := false }) else h).mem = h.mem
      ∧ (if c = true then h.onLine pa (fun m => { m with bad := false }) else h).errs = []
      ∧ (if c = true then h.onLine pa (fun m => { m with bad := false }) else h).stall = h.stall
      ∧ ∀ a, (h.lineOf a).bad = false → ((if c = true then h.onLine pa (fun m => { m with bad := false }) else h).lineOf a).bad = false := by
    split
    · exact ⟨rfl, herrs, rfl, fun a hs => h.bad_onLine pa a (fun _ => rfl) hs⟩
    · exact ⟨rfl, herrs, rfl, fun _ hs => hs⟩
  have hok := Hw.writeLine_ok w pa bs stamp
  rw [Hw.writeLine] at hok ⊢
  simp only [hopen, Bool.not_true, Bool.false_or, beq_iff_eq] at hok ⊢
  specialize hmark (decide (pa % 64 = 0) && decide (64 ≤ bs.length) && (h.lineOf pa).bad)
  generalize (if (decide (pa % 64 = 0) && decide (64 ≤ bs.length) && (h.lineOf pa).bad) = true then h.onLine pa (fun m => { m with bad := false })
    else h) = g at hmark hok ⊢
  obtain ⟨hmem, hgerrs, hstall, hsound⟩ := hmark
  split
  · next hsame =>
    rw [if_pos hsame] at hok
    refine ⟨fun i hi => ?_, .of_mem hmem _ _, hok, hgerrs, hsound, hstall⟩
    rw [hmem, List.getD_eq_getElem bs 0 hi]
    exact memRead_of_unchanged hsame hi
  · next hdiff =>
    rw [if_neg hdiff] at hok
    obtain ⟨hmeta, hrerrs, hrstall⟩ := ((g.write pa bs).onLine pa (fun m => { stamp with bad := m.bad })).lineMeta_releaseMonitors
      (paSite pa) 0 (fun m => m.line == pa / 64)
    have hrmem := ((g.write pa bs).onLine pa (fun m => { stamp with bad := m.bad })).mem_releaseMonitors
      (paSite pa) 0 (fun m => m.line == pa / 64)
    have hwritten : (((g.write pa bs).onLine pa (fun m => { stamp with bad := m.bad })).releaseMonitors
        (paSite pa) 0 (fun m => m.line == pa / 64)).mem = memWriteN bs pa h.mem := hrmem.trans (congrArg (memWriteN bs pa) hmem)
    refine ⟨fun i hi => ?_, fun a ha => ?_, hok, hrerrs.trans hgerrs, fun a hs => ?_, hrstall.trans hstall⟩
    · rw [hwritten, List.getD_eq_getElem bs 0 hi]
      exact memRead_writeN_in bs pa i w hi
    · rw [hwritten, memRead_writeN_outside bs ha]
    · rw [Hw.lineOf, hmeta]
      exact (g.write pa bs).bad_onLine pa a (fun hb => hb) (hsound a hs)

/-- The cuts of a range each take their line whole, or a sound line (R105). -/
def Hw.Takes (h : Hw) (cuts : List (Nat × Nat)) : Prop := ∀ c ∈ cuts, c.2 = 64 ∨ (h.lineOf c.1).bad = false

/-- Bytes written line by line (R101). -/
theorem Hw.wrote_cuts (fuel : Nat) : ∀ (h : Hw) (a : Nat), h.Ok → h.errs = [] → pa ≤ a → ((bs.drop (a - pa)).length ≠ 0 → (bs.drop (a - pa)).length + a % 64 ≤ 64 * fuel) →
    h.Takes (lineCuts fuel a (bs.drop (a - pa)).length) → ∀ stamp, h.Wrote ((lineCuts fuel a (bs.drop (a - pa)).length).foldl
      (fun h c => h.writeLine c.1 ((bs.drop (c.1 - pa)).take c.2) stamp) h) a (bs.drop (a - pa)) := by
  induction fuel with
  | zero =>
    intro h a w herrs _ hfuel _ stamp
    have hnil : bs.drop (a - pa) = [] := List.eq_nil_of_length_eq_zero (by omega)
    rw [hnil]
    exact .nil w herrs a
  | succ f ih =>
    intro h a w herrs hle hfuel htakes stamp
    rw [lineCuts] at htakes ⊢
    split
    · next hzero =>
      rw [List.eq_nil_of_length_eq_zero hzero]
      exact .nil w herrs a
    · next hsome =>
      rw [if_neg hsome] at htakes
      generalize hk : min (bs.drop (a - pa)).length (64 - a % 64) = k at htakes ⊢
      dsimp only at htakes ⊢
      have hlen : ((bs.drop (a - pa)).take k).length = k := by
        rw [List.length_take]
        omega
      have hdrop : bs.drop (a + k - pa) = (bs.drop (a - pa)).drop k := by
        rw [List.drop_drop]
        congr 1
        omega
      have hrest : (bs.drop (a + k - pa)).length = (bs.drop (a - pa)).length - k := by rw [hdrop, List.length_drop]
      have hfirst : h.Wrote (h.writeLine a ((bs.drop (a - pa)).take k) stamp) a ((bs.drop (a - pa)).take k) := by
        refine Hw.wrote_writeLine w herrs ?_ stamp
        refine (htakes (a, k) List.mem_cons_self).imp (fun h64 => ?_) id
        dsimp only at h64
        omega
      have hlines : (bs.drop (a - pa)).length - k ≠ 0 → (bs.drop (a - pa)).length - k + (a + k) % 64 ≤ 64 * f := by
        intro hmore
        have hline : (a + k) % 64 = 0 := by omega
        have hroom := hfuel hsome
        omega
      have hnext := ih (h.writeLine a ((bs.drop (a - pa)).take k) stamp) (a + k) hfirst.ok hfirst.errs (by omega) (by rwa [hrest])
      rw [hrest] at hnext
      have hwrote := hfirst.append (bs := (bs.drop (a - pa)).take k) (by
        rw [hlen]
        exact hnext (fun c hc => (htakes c (List.mem_cons_of_mem _ hc)).imp id (hfirst.sound _)) stamp)
      rw [hdrop, List.take_append_drop] at hwrote
      exact hwrote

theorem Hw.wrote_writeLines (w : h.Ok) (herrs : h.errs = []) (htakes : h.Takes (lineCuts (bs.length / 64 + 2) pa bs.length)) (stamp : LineMeta) :
    h.Wrote (h.writeLines pa bs stamp) pa bs := by
  have hcuts := Hw.wrote_cuts (pa := pa) (bs := bs) (bs.length / 64 + 2) h pa w herrs (Nat.le_refl _)
  rw [Nat.sub_self, List.drop_zero] at hcuts
  exact hcuts (fun _ => by omega) htakes stamp

end

/-! ### Within one page -/

section
variable {h : Hw} {m : Master} {root va pa : Nat} {bs : List Byte}

theorem Hw.pagesOf_within (h : Hw) {n : Nat} (root : Nat) (write : Bool) (hn : n ≠ 0) (hfit : va % 65536 + n ≤ 65536) :
    h.pagesOf root va n write = [(va, n, h.paOf root va write)] := by
  have hone : (va + n - 1) / 65536 - va / 65536 + 1 = 1 := by omega
  have hlo : max va ((va / 65536 + 0) * 65536) = va := by omega
  have hhi : min (va + n) ((va / 65536 + 0 + 1) * 65536) - va = n := by omega
  rw [Hw.pagesOf, if_neg hn, hone]
  simp only [List.range_one, List.map_cons, List.map_nil, hlo, hhi]

theorem lineCuts_first {f a n : Nat} (hn : n ≠ 0) : (a, min n (64 - a % 64)) ∈ lineCuts (f + 1) a n := by
  rw [lineCuts, if_neg hn]
  exact List.mem_cons_self

theorem Hw.checkCuts_clear (herrs : h.errs = []) (cuts : List (Nat × Nat)) : h.checkCuts cuts = h := by
  rw [Hw.checkCuts]
  induction cuts with
  | nil => rfl
  | cons c cuts ih =>
    rw [List.foldl_cons, Hw.checkLine_clean herrs, ite_self]
    exact ih

/-- A write by virtual address within one page of memory is made where tables and lines are not barred, each line written whole or
sound (R97, R104, R105). -/
theorem Hw.writeVa_within (w : h.Ok) (herrs : h.errs = []) (hpa : h.paOf root va false = some pa) (hline : paTarget pa = .line)
    (hsome : bs ≠ []) (hfit : va % 65536 + bs.length ≤ 65536) (htables : ∀ e ∈ h.entriesFrom va 4 0 root, h.barAt m opRead e = none)
    (hcuts : ∀ c ∈ lineCuts (bs.length / 64 + 2) pa bs.length, h.barAt m opWrite c.1 = none ∧ (c.2 = 64 ∨ (h.lineOf c.1).bad = false)) :
    ∃ g, h.writeVa m root va bs = (true, g) ∧ h.Wrote g pa bs := by
  have hlen : bs.length ≠ 0 := fun hzero => hsome (List.eq_nil_of_length_eq_zero hzero)
  have hfree : h.barAt m opWrite pa = none := (hcuts _ (lineCuts_first hlen)).1
  have hbarred : ((h.entriesFrom va 4 0 root).any fun pa => (h.barAt m opRead pa).isSome) = false :=
    List.any_eq_false.mpr fun e he => by simp [htables e he]
  have hnone : (lineCuts (bs.length / 64 + 2) pa bs.length).find? (fun c => (h.barAt m opWrite c.1).isSome) = none :=
    List.find?_eq_none.mpr fun c hc => by simp [(hcuts c hc).1]
  have hgood : ((lineCuts (bs.length / 64 + 2) pa bs.length).any fun c => c.2 != 64 && (h.lineOf c.1).bad) = false :=
    List.any_eq_false.mpr fun c hc => by
      rcases (hcuts c hc).2 with h64 | hs
      · simp [h64]
      · simp [hs]
  refine ⟨h.writeLines pa bs {}, ?_, Hw.wrote_writeLines w herrs (fun c hc => (hcuts c hc).2) {}⟩
  rw [Hw.writeVa, h.pagesOf_within root false hlen hfit, hpa]
  simp [Hw.reading_of_clear herrs htables, hbarred, hfree, hline, hnone, Hw.checkCuts_clear herrs, hgood]

end

end Sys2Proof.Machine
end

section
/-! SUPPORT. Packets that fault, start and stop launches, and the statement about packets at the issue point (R345-R353, R357). -/

namespace Sys2Proof.Machine

/-! ### Writes by virtual address -/

theorem Hw.queue_congr {h g : Hw} (hqueues : g.queues = h.queues) (q : Nat) : g.queue q = h.queue q := by rw [Hw.queue, Hw.queue, hqueues]

theorem Hw.addVa_line {h : Hw} {m : Master} {root va pa v : Nat} (hpa : h.paOf root va false = some pa) (hline : paTarget pa = .line) :
    h.addVa m root va v = h.writeVa m root va (leBytes 8 (h.num pa 8 + v)) := by
  rw [Hw.addVa, hpa]
  simp only [hline]

/-! ### A queue that faults -/

section
variable (h : Hw) (q : Nat)

theorem Hw.quays_writeAs (m : Master) (pa : Nat) (bs : List Byte) : (h.writeAs m pa bs).quays = h.quays := by
  rw [Hw.writeAs]
  split
  · rw [Hw.meetBar]
    split <;> rfl
  · rw [h.onlyStore_writeLine pa bs {}]

theorem Hw.discardStart_of_none (hstart : (h.queue q).starting = none) : h.discardStart q = h := by
  rw [Hw.discardStart, hstart]
  rfl

theorem Hw.settleUnmap_of_none (hwait : q ∉ (h.quay (q / 256)).unmapWait) : h.settleUnmap q = h := by
  rw [Hw.settleUnmap, if_neg (by simp [hwait])]

theorem Hw.onDbSlot_of_some {i : Nat} (hslot : (h.quay (q / 256)).slotOf q = some i) (f : DbSlot → DbSlot) :
    h.onDbSlot q f = h.onQuay (q / 256) (fun y => { y with slots := tabPut (f (tabGet { q := q } y.slots i)) i y.slots }) := by
  rw [Hw.onDbSlot, hslot]

@[simp] theorem Hw.quay_onQuay (n : Nat) (f : Quay → Quay) : (h.onQuay n f).quay n = f (h.quay n) := tabGet_put_same _ _ _ _

theorem Hw.unmapWait_onDbSlot (f : DbSlot → DbSlot) : ((h.onDbSlot q f).quay (q / 256)).unmapWait = (h.quay (q / 256)).unmapWait := by
  rw [Hw.onDbSlot]
  split
  · rw [Hw.quay_onQuay]
  · rfl

/-- A fault of a queue that starts no launch and waits for no unmap: its slot is halted, and what it read is discarded (R357). -/
theorem Hw.queueFault_of_none (hstart : (h.queue q).starting = none) (hwait : q ∉ (h.quay (q / 256)).unmapWait) (code : BitVec 4) :
    h.queueFault q code = (h.onDbSlot q (fun d => { d with halt := true, fcode := code })).onQueue q HQueue.dropLook := by
  have hqueues : (h.onDbSlot q (fun d => { d with halt := true, fcode := code })).queues = h.queues := by
    rw [Hw.onDbSlot]
    split <;> rfl
  have hkept : ((h.onDbSlot q (fun d => { d with halt := true, fcode := code })).queue q).starting = none := by
    rw [Hw.queue, hqueues]
    exact hstart
  rw [Hw.queueFault, Hw.discardStart_of_none _ q hkept, Hw.settleUnmap_of_none]
  rw [← h.unmapWait_onDbSlot q (fun d => { d with halt := true, fcode := code })] at hwait
  exact hwait

/-- The packet at the head of a queue faults (R351, R357): the read index stands after it, the look-ahead is empty, the slot halted. -/
theorem Hw.faultHead_leaves {p : Packet} {rest : List Packet} (hlook : (h.queue q).look = p :: rest) (hstart : (h.queue q).starting = none)
    (hwait : q ∉ (h.quay (q / 256)).unmapWait) (code : BitVec 4) :
    ((h.faultHead q code).queue q).ridx = p.ridx ∧ ((h.faultHead q code).queue q).look = []
      ∧ ∀ i, (h.quay (q / 256)).slotOf q = some i →
        ∃ d, tabFind ((h.faultHead q code).quay (q / 256)).slots i = some d ∧ d.halt = true ∧ d.fcode = code := by
  let g := (h.passHead q p).onQueue q (fun x => { x with look := [], places := if p.takes then p.place + 1 else p.place })
  have hquays : g.quays = h.quays := Hw.quays_writeAs _ _ _ _
  have hquay : g.quay (q / 256) = h.quay (q / 256) := by rw [Hw.quay, Hw.quay, hquays]
  have hqueue : g.queue q = { h.queue q with
      ridx := p.ridx, chain := p.chain, look := [], places := if p.takes then p.place + 1 else p.place } := by
    rw [Hw.queue_onQueue_same, Hw.passHead, Hw.queue_copyRidx, Hw.queue_onQueue_same]
  have hgstart : (g.queue q).starting = none := by rw [hqueue]; exact hstart
  have hfault : h.faultHead q code = (g.onDbSlot q (fun d => { d with halt := true, fcode := code })).onQueue q HQueue.dropLook := by
    rw [Hw.faultHead, hlook]
    exact g.queueFault_of_none q hgstart (by rwa [hquay]) code
  have hleft : (h.faultHead q code).queue q = (g.queue q).dropLook := by
    rw [hfault, Hw.queue_onQueue_same]
    refine congrArg HQueue.dropLook ?_
    rw [Hw.onDbSlot]
    split <;> rfl
  have hdrop : (g.queue q).dropLook.ridx = p.ridx ∧ (g.queue q).dropLook.look = [] := by
    rw [HQueue.dropLook, hgstart, hqueue]
    exact ⟨rfl, rfl⟩
  rw [hleft]
  refine ⟨hdrop.1, hdrop.2, fun i hslot => ?_⟩
  rw [← hquay] at hslot
  rw [hfault, g.onDbSlot_of_some q hslot]
  refine ⟨{ tabGet { q := q } (g.quay (q / 256)).slots i with halt := true, fcode := code }, ?_, rfl, rfl⟩
  have hset := congrArg Quay.slots (g.quay_onQuay (q / 256) (fun y => { y with
    slots := tabPut { tabGet { q := q } y.slots i with halt := true, fcode := code } i y.slots }))
  exact (congrArg (tabFind · i) hset).trans (tabFind_put_same _ _ _)

end

/-! ### Launches that begin -/

/-- A launch has begun on its isles, its first frame due at a tick (R345, R346). -/
def Launch.Begins (l : Launch) (q place lid : Nat) (sp : Spec) (isles : List Nat) (tick : BitVec 64) : Prop :=
  l.lid = lid ∧ l.q = q ∧ l.place = place ∧ l.isles = isles ∧ l.seed = sp.req.seed ∧ l.roots = sp.roots ∧ l.ttva = sp.req.ttva
    ∧ l.st = .boundary ∧ l.due = tick ∧ l.begun = false

/-- A launch without an image begins, queues and REFINE blocks as they were (R345, R346). -/
theorem Hw.startLaunch_begins (h : Hw) (q place lid : Nat) {sp : Spec} (isles : List Nat) (r : Option Refine) (himage : sp.image = none) :
    ∃ (g : Hw) (l : Launch), h.startLaunch q place lid sp isles r = some g ∧ g.launch? lid = some l ∧ g.queues = h.queues
      ∧ g.refines = h.refines ∧ l.Begins q place lid sp isles h.tick := by
  have htaken := (h.onlyService_takeIsles (h.queue q).rootpa isles).onlyUnits
  rw [Hw.startLaunch]
  generalize h.takeIsles (h.queue q).rootpa isles = t at htaken
  obtain ⟨ctxs, k⟩ := t
  obtain ⟨-, hqueues, hrefines, -, htick, -⟩ := htaken.leaves
  have hbegins (x : Launch) (hx : x.Begins q place lid sp isles k.tick) : ∃ (g : Hw) (l : Launch), some (k.beginLaunch x) = some g
      ∧ g.launch? lid = some l ∧ g.queues = h.queues ∧ g.refines = h.refines ∧ l.Begins q place lid sp isles h.tick := by
    have hprepared := (k.setLaunch x).onlyUnits_prepareRest x
    obtain ⟨-, hqueues', hrefines', -⟩ := hprepared.leaves
    refine ⟨_, x, rfl, ?_, hqueues'.trans hqueues, hrefines'.trans hrefines, htick ▸ hx⟩
    exact (hprepared.launch? _).trans (Hw.launch?_setLaunch _ hx.1)
  rw [himage]
  cases r with
  | none =>
    dsimp only
    exact hbegins (k.newLaunch q place lid sp isles ctxs) ⟨rfl, rfl, rfl, rfl, rfl, rfl, rfl, rfl, rfl, rfl⟩
  | some r =>
    dsimp only
    exact hbegins ((k.newLaunch q place lid sp isles ctxs).inherit r) ⟨rfl, rfl, rfl, rfl, rfl, rfl, rfl, rfl, rfl, rfl⟩

section
variable {s : State} {q lid : Nat} {p : Packet} {sp : Spec} {isles : List Nat}

/-- A queue whose packet at the head starts a launch on its isles (R345). -/
def State.Starts (s : State) (q : Nat) (p : Packet) (lid : Nat) (isles : List Nat) (sp : Spec) (u : State) : Prop :=
  (u.toHw.queue q).starting = some lid ∧ (u.toHw.queue q).look = (s.toHw.queue q).look ∧ (u.toHw.queue q).ridx = (s.toHw.queue q).ridx
    ∧ ∃ l, u.toHw.launch? lid = some l ∧ l.Begins q p.place lid sp isles s.tick

theorem launch_starts (hat : s.toHw.atRest.AtIssue q p) (htype : pktType p.bytes = 1)
    (hprep : s.toHw.atRest.prepLaunch q (launchReq p.bytes) = .ok sp) (halloc : s.toHw.atRest.allocate q sp none = some (lid, isles))
    (himage : sp.image = none) (hroute : s.Routed (fun h => ((h.holdHead q lid).startLaunch q p.place lid sp isles none).getD h)) :
    ∃ u : State, exec (.launch q) s = .next u ∧ s.Starts q p lid isles sp u := by
  obtain ⟨g, l, hstart, hl, hqueues, -, hbegins⟩ := (s.toHw.atRest.holdHead q lid).startLaunch_begins q p.place lid isles none himage
  have hgroute : g.stall = false := by
    have hstall := hroute
    rw [State.Routed, hstart] at hstall
    exact hstall
  have hready : (s.toHw.atRest.allocate q sp none).isSome = true := by rw [halloc]; rfl
  refine ⟨s.made g, congrArg Host.Outcome.next (State.attempt_of_eq (Hw.issueWith_acts hat htype hprep hready ?_) hgroute), ?_⟩
  · simp only [halloc, hstart, ifStarted]
  · have hqueue : (s.made g).toHw.queue q = { s.toHw.queue q with starting := some lid } := by
      refine (Hw.queue_congr (g := (s.made g).toHw) hqueues q).trans ?_
      exact Hw.queue_onQueue_same _ _ _
    rw [State.Starts, hqueue]
    exact ⟨rfl, rfl, rfl, l, hl, hbegins⟩

/-- The block of a REFINE at its issue (R353). -/
def firstBlock (q : Nat) (p : Packet) (lid run : Nat) (ok : Bool) : Refine :=
  { q := q, place := p.place, bytes := p.bytes, lid := lid, run := run, thr := Config.noThr, stateOk := ok }

/-- The state block of a REFINE as its first run begins (R353, R355). -/
def Hw.firstState (h : Hw) (q : Nat) (p : Packet) (lid run : Nat) : Bool × Hw :=
  if refineResume p.bytes then (true, h) else h.writeRefine (firstBlock q p lid run true) 0 0 0 0 true 0 [0, 0, 0, 0]

theorem Hw.onlyAccess_writeRefine (h : Hw) (r : Refine) (k rung stag next : Nat) (fresh : Bool) (prev : Nat) (causes : List Nat) :
    h.OnlyAccess (h.writeRefine r k rung stag next fresh prev causes).2 := h.onlyAccess_writeVa _ _ _ _

theorem Hw.onlyAccess_firstState (h : Hw) (q : Nat) (p : Packet) (lid run : Nat) : h.OnlyAccess (h.firstState q p lid run).2 := by
  rw [Hw.firstState]
  split
  · exact .refl h
  · exact h.onlyAccess_writeRefine _ _ _ _ _ _ _ _

/-- A REFINE's block enters with the packet at the head held (R345, R353). -/
def Hw.enterBlock (h : Hw) (q : Nat) (p : Packet) (lid run : Nat) : Hw :=
  { (h.firstState q p lid run).2.holdHead q lid with
    refines := (h.firstState q p lid run).2.refines ++ [firstBlock q p lid run (h.firstState q p lid run).1] }

theorem Hw.queue_enterBlock (h : Hw) (q : Nat) (p : Packet) (lid run : Nat) :
    (h.enterBlock q p lid run).queue q = { h.queue q with starting := some lid } := by
  show ((h.firstState q p lid run).2.holdHead q lid).queue q = _
  rw [Hw.holdHead, Hw.queue_onQueue_same, (h.onlyAccess_firstState q p lid run).onlyUnits.queue]

theorem refine_starts {run : Nat} (hat : s.toHw.atRest.AtIssue q p) (htype : pktType p.bytes = 9)
    (hprep : s.toHw.atRest.prepRefine q p.bytes = .ok (run, sp)) (halloc : s.toHw.atRest.allocate q sp none = some (lid, isles))
    (himage : sp.image = none)
    (hroute : s.Routed (fun h => ((h.enterBlock q p lid run).startLaunch q p.place lid sp isles
      (some (firstBlock q p lid run (h.firstState q p lid run).1))).getD h)) :
    ∃ u : State, exec (.refine q) s = .next u ∧ s.Starts q p lid isles sp u
      ∧ firstBlock q p lid run (s.toHw.atRest.firstState q p lid run).1 ∈ u.refines := by
  obtain ⟨g, l, hstart, hl, hqueues, hrefines, hbegins⟩ := (s.toHw.atRest.enterBlock q p lid run).startLaunch_begins q p.place lid isles
    (some (firstBlock q p lid run (s.toHw.atRest.firstState q p lid run).1)) himage
  have hgroute : g.stall = false := by
    have hstall := hroute
    rw [State.Routed, hstart] at hstall
    exact hstall
  have hready : (s.toHw.atRest.allocate q sp none).isSome = true := by rw [halloc]; rfl
  refine ⟨s.made g, congrArg Host.Outcome.next (State.attempt_of_eq (Hw.issueWith_acts hat htype hprep hready ?_) hgroute), ?_, ?_⟩
  · simp only [halloc]
    refine (congrArg (ifStarted s.toHw.atRest q sp isles) ?_).trans (rfl : ifStarted s.toHw.atRest q sp isles (some g) = (true, g))
    exact hstart
  · have hfirst := s.toHw.atRest.onlyAccess_firstState q p lid run
    have hqueue : (s.made g).toHw.queue q = { s.toHw.queue q with starting := some lid } := by
      exact (Hw.queue_congr (g := (s.made g).toHw) hqueues q).trans (s.toHw.atRest.queue_enterBlock q p lid run)
    obtain ⟨-, -, -, -, htick, -⟩ := hfirst.onlyQueues.leaves
    rw [State.Starts, hqueue]
    refine ⟨rfl, rfl, rfl, l, hl, ?_⟩
    have htick' : (s.toHw.atRest.enterBlock q p lid run).tick = s.tick := htick
    rwa [htick'] at hbegins
  · have hblocks : (s.made g).refines = (s.toHw.atRest.enterBlock q p lid run).refines := hrefines
    rw [hblocks]
    exact List.mem_append_right _ List.mem_cons_self

end

/-! ### PREEMPT -/

section
variable {s : State} {q : Nat} {p : Packet}

/-- What a PREEMPT asks of the launch or the block that it names (R352). -/
def Hw.askStop (h : Hw) (q : Nat) (p : Packet) : Preempted → Hw
  | .launch l =>
    if fieldAt p.bytes 10 1 == 0 then
      h.onLaunch l.lid (fun l => { l with preempt := some (fieldAt p.bytes 16 8), awaited := l.awaited ++ [(q, p.place)] })
    else (h.onLaunch l.lid (fun l => { l with awaited := l.awaited ++ [(q, p.place)] })).failLaunch l.lid { kind := 4, tick := h.tick }
  | .block r => { h with refines := h.refines.map (fun y =>
      if y = r then
        (if fieldAt p.bytes 10 1 == 0 then { y with preempt := some (fieldAt p.bytes 16 8), awaited := y.awaited ++ [(q, p.place)] }
        else { y with ended := some 2, awaited := y.awaited ++ [(q, p.place)] })
      else y) }

theorem Hw.stall_onLaunch (h : Hw) (lid : Nat) (f : Launch → Launch) : (h.onLaunch lid f).stall = h.stall := by
  rw [Hw.onLaunch]
  split <;> rfl

theorem Hw.queues_onLaunch (h : Hw) (lid : Nat) (f : Launch → Launch) : (h.onLaunch lid f).queues = h.queues := by
  rw [Hw.onLaunch]
  split <;> rfl

theorem Hw.askStop_leaves (h : Hw) (q : Nat) (p : Packet) (x : Preempted) :
    (h.askStop q p x).stall = h.stall ∧ (h.askStop q p x).queues = h.queues := by
  cases x with
  | launch l =>
    rw [Hw.askStop]
    split
    · exact ⟨h.stall_onLaunch _ _, h.queues_onLaunch _ _⟩
    · rw [Hw.failLaunch]
      exact ⟨(Hw.stall_onLaunch _ _ _).trans (h.stall_onLaunch _ _), (Hw.queues_onLaunch _ _ _).trans (h.queues_onLaunch _ _)⟩
  | block r => exact ⟨rfl, rfl⟩

theorem preempt_issues {x : Preempted} (hat : s.toHw.atRest.AtIssue q p) (htype : pktType p.bytes = 8)
    (hcheck : s.toHw.atRest.checkPreempt q p.bytes = .ok x) (hroute : s.Routed (fun h => h.issueHead q p true)) :
    exec (.preempt q) s = .next (s.made ((s.toHw.atRest.issueHead q p true).askStop q p x))
      ∧ s.Issued q p (s.made ((s.toHw.atRest.issueHead q p true).askStop q p x)) := by
  obtain ⟨hstall, hqueues⟩ := (s.toHw.atRest.issueHead q p true).askStop_leaves q p x
  obtain ⟨hissued, -⟩ := State.issued_made (s := s) (q := q) (p := p) (Hw.OnlyAccess.refl s.toHw.atRest) true
  refine ⟨congrArg Host.Outcome.next (State.attempt_of_eq (Hw.issueWith_acts hat htype hcheck rfl ?_) (hstall.trans hroute)), ?_⟩
  · cases x <;> rfl
  · have hqueue : (s.made ((s.toHw.atRest.issueHead q p true).askStop q p x)).toHw.queue q
        = (s.made (s.toHw.atRest.issueHead q p true)).toHw.queue q := Hw.queue_congr hqueues q
    rw [State.Issued, hqueue]
    exact hissued

theorem Hw.askStop_launch {h : Hw} {l x : Launch} (hl : h.launch? x.lid = some l) (hlid : l.lid = x.lid) :
    ∃ l', (h.askStop q p (.launch x)).launch? x.lid = some l' ∧ l'.awaited = l.awaited ++ [(q, p.place)]
      ∧ (fieldAt p.bytes 10 1 = 0 → l'.preempt = some (fieldAt p.bytes 16 8) ∧ l'.abort = l.abort)
      ∧ (fieldAt p.bytes 10 1 = 1 → l'.abort = true ∧ l'.failing = l.failing ++ [{ kind := 4, tick := h.tick }]) := by
  rw [Hw.askStop]
  split
  · next hsave =>
    rw [Hw.onLaunch_of_some hl]
    rw [beq_iff_eq] at hsave
    refine ⟨_, Hw.launch?_setLaunch _ hlid, rfl, fun _ => ⟨rfl, rfl⟩, fun hone => ?_⟩
    omega
  · next hend =>
    rw [beq_iff_eq] at hend
    have hset : (h.setLaunch { l with awaited := l.awaited ++ [(q, p.place)] }).launch? x.lid
        = some { l with awaited := l.awaited ++ [(q, p.place)] } := Hw.launch?_setLaunch _ hlid
    rw [Hw.onLaunch_of_some hl, Hw.failLaunch_of_some hset]
    exact ⟨_, Hw.launch?_setLaunch _ hlid, rfl, fun hzero => absurd hzero hend, fun _ => ⟨rfl, rfl⟩⟩

theorem Hw.askStop_block {h : Hw} {r : Refine} (hr : r ∈ h.refines) :
    ∃ y ∈ (h.askStop q p (.block r)).refines, y.q = r.q ∧ y.place = r.place ∧ y.awaited = r.awaited ++ [(q, p.place)]
      ∧ (fieldAt p.bytes 10 1 = 0 → y.preempt = some (fieldAt p.bytes 16 8)) ∧ (fieldAt p.bytes 10 1 = 1 → y.ended = some 2) := by
  refine ⟨_, List.mem_map_of_mem hr, ?_⟩
  rw [if_pos rfl]
  split
  · next hsave =>
    rw [beq_iff_eq] at hsave
    refine ⟨rfl, rfl, rfl, fun _ => rfl, fun hone => ?_⟩
    omega
  · next hend =>
    rw [beq_iff_eq] at hend
    exact ⟨rfl, rfl, rfl, fun hzero => absurd hzero hend, fun _ => rfl⟩

/-- A block that a PREEMPT names is one of the blocks (R352). -/
theorem Hw.mem_of_checkPreempt {h : Hw} {b : List Byte} {r : Refine} (hcheck : h.checkPreempt q b = .ok (.block r)) : r ∈ h.refines := by
  simp only [Hw.checkPreempt, bind, Except.bind] at hcheck
  split at hcheck
  · cases hcheck
  · split at hcheck
    · split at hcheck <;> cases hcheck
    · next r' _ hfound =>
      split at hcheck
      · cases hcheck
      · cases hcheck
        exact List.mem_of_find?_eq_some hfound
    · cases hcheck

/-! ### The statement -/

theorem waitvalueTimeout_faults {t : BitVec 64} (hhead : s.toHw.atRest.headPacket q = some p) (hstart : (s.toHw.queue q).starting = none)
    (htype : pktType p.bytes = 7) (hfrom : (s.toHw.queue q).waitFrom = some t) (hlimit : fieldAt p.bytes 36 4 ≠ 0)
    (hpast : fieldAt p.bytes 36 4 < (s.tick - t).toNat) (hno : s.toHw.waitHolds q p.bytes = some false)
    (hwait : q ∉ (s.toHw.quay (q / 256)).unmapWait) (hroute : s.Routed (fun h => h.faultHead q 5)) :
    ∃ u : State, exec (.waitvalueTimeout q) s = .next u ∧ (u.toHw.queue q).ridx = p.ridx ∧ (u.toHw.queue q).look = []
      ∧ ∀ i, (s.toHw.quay (q / 256)).slotOf q = some i →
        ∃ d, tabFind (u.toHw.quay (q / 256)).slots i = some d ∧ d.halt = true ∧ d.fcode = 5 := by
  have hexec : exec (.waitvalueTimeout q) s = .next (s.attempt (fun h => h.faultHead q 5)) := by
    have hhead' : s.toHw.headPacket q = some p := hhead
    simp only [exec_waitvalueTimeout, execWaitvalueTimeout, hhead', hfrom]
    rw [if_pos ⟨htype, hlimit, hpast, hno⟩]
  refine ⟨_, hexec, ?_⟩
  rw [hroute.attempt_eq]
  exact s.toHw.atRest.faultHead_leaves q (Hw.look_of_headPacket hhead) hstart hwait 5

end

/-- Settles O57: `Hw.issueWith_acts` gives the effect of the packet that is picked, `Hw.stands_issueHead` what stands of its queue, and
`Hw.writeVa_within` the bytes that it writes. -/
theorem packetsAtTheIssuePoint : Obligations.PacketsAtTheIssuePoint := by
  unfold Obligations.PacketsAtTheIssuePoint
  intro s q p h x b rid out issued begins hinv hhead hwins hstart herrs
  have hat : s.toHw.atRest.AtIssue q p := ⟨hhead, hwins, hstart, herrs⟩
  have hissued {g : Hw} (hg : s.toHw.atRest.OnlyAccess g) (runs : Bool) := State.issued_made (q := q) (p := p) hg runs
  refine ⟨fun htype hd hzero hjoined hroute => ?_, fun data h' htype hcheck hwrite hroute => ?_,
    fun h' htype hrun hcheck hwrite hroute => ?_, fun va pa v hpa hline => Hw.addVa_line hpa hline,
    fun va pa bs hpa hline hsome hfit htables hcuts => ?_, fun htype hcheck hroute => ?_,
    fun t htype hfrom hlimit hpast hno hwait => waitvalueTimeout_faults hhead hstart htype hfrom hlimit hpast hno hwait,
    fun sp lid isles htype hprep halloc himage hroute => ?_, fun sp run lid isles htype hprep halloc himage hroute => ?_,
    fun l htype hcheck hl hroute => ?_, fun r htype hcheck hroute => ?_⟩
  · exact ⟨_, join_issues hat htype hd hzero hjoined hroute, hissued (.refl _) false⟩
  · have hg : s.toHw.atRest.OnlyAccess h' := by
      have haccess := s.toHw.atRest.onlyAccess_writeVa (x.master q) x.rootpa (fieldAt b 16 8) data
      rwa [hwrite] at haccess
    exact ⟨_, copy_issues (x := x) rfl hat htype hcheck hwrite hroute, hissued hg false⟩
  · have hg : s.toHw.atRest.OnlyAccess h' := by
      have haccess : s.toHw.atRest.OnlyAccess (if fieldAt b 24 1 = 0 then
          h.writeVa (x.master q) x.rootpa (fieldAt b 8 8) (leBytes 8 (fieldAt b 16 8))
        else h.addVa (x.master q) x.rootpa (fieldAt b 8 8) (fieldAt b 16 8)).2 := by
        split
        · exact Hw.onlyAccess_writeVa _ _ _ _ _
        · exact Hw.onlyAccess_addVa _ _ _ _ _
      rwa [hwrite] at haccess
    exact ⟨_, signal_issues (x := x) rfl hat htype hrun hcheck hwrite hroute, hissued hg false⟩
  · obtain ⟨g, hwrite, hwrote⟩ := Hw.writeVa_within (h := s.toHw.atRest) (m := x.master q) hinv herrs hpa hline hsome hfit htables hcuts
    exact ⟨g, hwrite, hwrote.stall, hwrote.within, hwrote.outside⟩
  · have hpoll := attempt_pollWait hat htype hcheck hroute
    have hleft := hissued (.refl _) false
    exact ⟨⟨_, congrArg Host.Outcome.next hpoll, hleft⟩, ⟨_, congrArg Host.Outcome.next hpoll, hleft⟩⟩
  · obtain ⟨u, hexec, hstarting, hlook, hridx, l, hl, hlid, hq, hplace, hisles, hseed, hroots, -, hst, hdue, hbegun⟩ :=
      launch_starts hat htype hprep halloc himage hroute
    exact ⟨u, hexec, hstarting, hlook, hridx, l, hl, hlid, hq, hplace, hisles, hseed, hroots, hst, hdue, hbegun⟩
  · obtain ⟨u, hexec, ⟨hstarting, hlook, hridx, l, hl, hlid, hq, hplace, hisles, hseed, hroots, -, hst, hdue, hbegun⟩, hmem⟩ :=
      refine_starts hat htype hprep halloc himage hroute
    exact ⟨u, _, hexec, ⟨hstarting, hlook, hridx, l, hl, hlid, hq, hplace, hisles, hseed, hroots, hst, hdue, hbegun⟩, hmem, rfl, rfl, rfl,
      rfl, rfl⟩
  · obtain ⟨hexec, hleft⟩ := preempt_issues hat htype hcheck hroute
    obtain ⟨hlaunches, -, -, -, htick, -⟩ := (s.toHw.atRest.onlyQueues_issueHead q p true).leaves
    have hl' : (s.toHw.atRest.issueHead q p true).launch? l.lid = some l := (congrArg (tabFind · l.lid) hlaunches).trans hl
    obtain ⟨l', hl'', hawaited, hsave, hend⟩ := Hw.askStop_launch (q := q) (p := p) hl' rfl
    rw [htick] at hend
    exact ⟨_, l', hexec, hleft, hl'', hawaited, hsave, hend⟩
  · obtain ⟨hexec, hleft⟩ := preempt_issues hat htype hcheck hroute
    obtain ⟨-, hrefines, -⟩ := (s.toHw.atRest.onlyQueues_issueHead q p true).leaves
    have hr : r ∈ (s.toHw.atRest.issueHead q p true).refines := hrefines ▸ Hw.mem_of_checkPreempt hcheck
    obtain ⟨y, hy, hq, hplace, hawaited, hsave, hend⟩ := Hw.askStop_block (q := q) (p := p) hr
    exact ⟨_, y, hexec, hleft, hy, hq, hplace, hawaited, hsave, hend⟩

end Sys2Proof.Machine
end

section
/-! SUPPORT. The block of a REFINE: its state block, its result record and how it leaves (R353-R356). -/

namespace Sys2Proof.Machine

/-! ### Bytes -/

/-- A field behind other bytes. -/
theorem fieldAt_append_right {xs ys : List Byte} {o n : Nat} (ho : xs.length ≤ o) : fieldAt (xs ++ ys) o n = fieldAt ys (o - xs.length) n := by
  rw [fieldAt, fieldAt, List.drop_append, List.drop_eq_nil_of_le ho, List.nil_append]

theorem fieldAt_append_left {xs ys : List Byte} {o n : Nat} (hn : o + n ≤ xs.length) : fieldAt (xs ++ ys) o n = fieldAt xs o n := by
  rw [fieldAt, fieldAt, List.drop_append_of_le_length (by omega), List.take_append_of_le_length (by rw [List.length_drop]; omega)]

theorem fieldAt_whole (xs : List Byte) : fieldAt xs 0 xs.length = leNat xs := by rw [fieldAt, List.drop_zero, List.take_length]

theorem leNat_replicate_zero (n : Nat) : leNat (List.replicate n 0) = 0 := by
  induction n with
  | zero => rfl
  | succ n ih => rw [List.replicate_succ, leNat, ih]; rfl

theorem leNat_lt (bs : List Byte) : leNat bs < 256 ^ bs.length := by
  induction bs with
  | nil => exact Nat.one_pos
  | cons b bs ih =>
    rw [leNat, List.length_cons, Nat.pow_succ]
    have hb := b.isLt
    omega

/-- The bytes written at a place are read there as the number that they are (R4). -/
theorem Hw.Wrote.num {h g : Hw} {pa : Nat} {bs : List Byte} (hg : h.Wrote g pa bs) {o n : Nat} (hn : o + n ≤ bs.length) :
    g.num (pa + o) n = fieldAt bs o n := by
  rw [Hw.num, Hw.bytes, memReadN, fieldAt]
  refine congrArg leNat (List.ext_getElem ?_ fun i hi _ => ?_)
  · simp only [List.length_map, List.length_range, List.length_take, List.length_drop]
    omega
  · rw [List.length_map, List.length_range] at hi
    rw [List.getElem_map, List.getElem_range, Nat.add_assoc, hg.within (o + i) (by omega), List.getElem_take, List.getElem_drop,
      List.getD_eq_getElem]

/-! ### The state block -/

/-- The pages of a range hold its bytes between them (R90). -/
theorem pages_length (va n a k : Nat) (ha : a * 65536 ≤ va) :
    ((List.range k).map (fun i => min (va + n) ((a + i + 1) * 65536) - max va ((a + i) * 65536))).sum = min (va + n) ((a + k) * 65536) - va := by
  induction k with
  | zero =>
    have hnone : min (va + n) ((a + 0) * 65536) - va = 0 := by omega
    rw [hnone]
    rfl
  | succ k ih =>
    rw [List.range_succ, List.map_append, List.sum_append, ih, List.map_singleton, List.sum_singleton]
    have hnext : (a + (k + 1)) * 65536 = (a + k) * 65536 + 65536 := by omega
    have hend : (a + k + 1) * 65536 = (a + k) * 65536 + 65536 := by omega
    rw [hnext, hend]
    generalize (a + k) * 65536 = x
    omega

theorem Hw.readVa_length {h : Hw} {root va n : Nat} {bs : List Byte} (hread : h.readVa root va n = some bs) : bs.length = n := by
  rw [Hw.readVa] at hread
  split at hread
  · cases hread
    rw [List.length_flatMap, Hw.pagesOf]
    split
    · next hzero => rw [hzero]; rfl
    · next hsome =>
      rw [List.map_map]
      have hlens := pages_length va n (va / 65536) ((va + n - 1) / 65536 - va / 65536 + 1) (by omega)
      have hend : min (va + n) ((va / 65536 + ((va + n - 1) / 65536 - va / 65536 + 1)) * 65536) - va = n := by omega
      rw [hend] at hlens
      refine Eq.trans (congrArg List.sum (List.map_congr_left fun i _ => ?_)) hlens
      exact Hw.bytes_length _ _ _
  · cases hread

theorem Hw.readGrant_length {h : Hw} {q va n : Nat} {bs : List Byte} (hread : h.readGrant q va n = some bs) : bs.length = n := by
  rw [Hw.readGrant] at hread
  split at hread
  · rw [Hw.readAs] at hread
    split at hread
    · exact Hw.readVa_length hread
    · cases hread
  · cases hread

theorem Hw.refineState_length (h : Hw) (q : Nat) (b : List Byte) : (h.refineState q b).length = 64 := by
  rw [Hw.refineState]
  cases hread : h.readGrant q (fieldAt b 72 8) 64 with
  | none => exact List.length_replicate
  | some st => exact Hw.readGrant_length hread

/-! ### The result record -/

/-- The parts of a record, one after another, are read at their offsets. -/
theorem fieldAt_flatten {parts : List (List Byte)} {lens : List Nat} (hlens : parts.map List.length = lens) (i : Nat) :
    fieldAt parts.flatten (lens.take i).sum (lens.getD i 0) = leNat (parts.getD i []) := by
  induction parts generalizing lens i with
  | nil =>
    subst hlens
    simp [fieldAt]
  | cons xs parts ih =>
    subst hlens
    rw [List.flatten_cons]
    cases i with
    | zero =>
      simp only [List.take_zero, List.sum_nil, List.map_cons, List.getD_cons_zero]
      rw [fieldAt_append_left (by omega), fieldAt_whole]
    | succ i =>
      simp only [List.map_cons, List.take_succ_cons, List.sum_cons, List.getD_cons_succ]
      rw [fieldAt_append_right (by omega), Nat.add_sub_cancel_left]
      exact ih rfl i

/-- The fields of the result record of a block that exits (R356). -/
def Hw.exitFields (h : Hw) (r : Refine) (code : Nat) : List (List Byte) :=
  let st := h.refineState r.q r.bytes
  [leBytes 1 code, st.extract 20 21, leBytes 2 0, st.extract 16 20, st.extract 0 4, leBytes 4 0, leBytes 8 r.thr.toNat, st.extract 28 32,
    leBytes 4 0, leBytes 8 h.tick.toNat, List.replicate 24 0]

/-- What a result record says, field by field (R356). -/
def RecordSays (num : Nat → Nat → Nat) (st : List Byte) (thr tick : BitVec 64) (code : Nat) : Prop :=
  num 0 1 = code ∧ num 1 1 = fieldAt st 20 1 ∧ num 2 2 = 0 ∧ num 4 4 = fieldAt st 16 4 ∧ num 8 4 = fieldAt st 0 4 ∧ num 12 4 = 0
    ∧ num 16 8 = thr.toNat ∧ num 24 4 = fieldAt st 28 4 ∧ num 28 4 = 0 ∧ num 32 8 = tick.toNat ∧ num 40 24 = 0

theorem leNat_leBytes_of_lt {n v : Nat} (hv : v < 256 ^ n) : leNat (leBytes n v) = v := (leNat_leBytes n v).trans (Nat.mod_eq_of_lt hv)

theorem Hw.exitFields_lengths (h : Hw) (r : Refine) (code : Nat) :
    (h.exitFields r code).map List.length = [1, 1, 2, 4, 4, 4, 8, 4, 4, 8, 24] := by
  have hlen := h.refineState_length r.q r.bytes
  simp [Hw.exitFields, hlen]

theorem Hw.exitFields_length (h : Hw) (r : Refine) (code : Nat) : (h.exitFields r code).flatten.length = 64 := by
  rw [List.length_flatten, Hw.exitFields_lengths]
  rfl

theorem Hw.exitFields_says (h : Hw) (r : Refine) {code : Nat} (hcode : code < 256) :
    RecordSays (fieldAt (h.exitFields r code).flatten) (h.refineState r.q r.bytes) r.thr h.tick code := by
  have hfield := fieldAt_flatten (h.exitFields_lengths r code)
  have hzero (n : Nat) : leNat (leBytes n 0) = 0 := leNat_leBytes_of_lt (Nat.pos_of_ne_zero (by positivity))
  have hext (i n : Nat) : leNat ((h.refineState r.q r.bytes).extract i (i + n)) = fieldAt (h.refineState r.q r.bytes) i n := by
    rw [fieldAt, List.extract_eq_take_drop, Nat.add_sub_cancel_left]
  exact ⟨(hfield 0).trans (leNat_leBytes_of_lt hcode), (hfield 1).trans (hext 20 1), (hfield 2).trans (hzero 2), (hfield 3).trans (hext 16 4),
    (hfield 4).trans (hext 0 4), (hfield 5).trans (hzero 4), (hfield 6).trans (leNat_leBytes_of_lt r.thr.isLt), (hfield 7).trans (hext 28 4),
    (hfield 8).trans (hzero 4), (hfield 9).trans (leNat_leBytes_of_lt h.tick.isLt), (hfield 10).trans (leNat_replicate_zero 24)⟩

/-! ### A block that leaves -/

section
variable {h : Hw} {q : Nat} {r r' : Refine}

/-- A block is over, and its packet runs no more (R345, R356). -/
def Hw.Left (h : Hw) (r : Refine) : Prop := r ∉ h.refines ∧ r.place ∉ (h.queue r.q).running

theorem Hw.running_completePlace (h : Hw) (a place q : Nat) {p : Nat} (hp : p ∈ ((h.completePlace a place).queue q).running) :
    p ∈ (h.queue q).running ∧ (q = a → p ≠ place) := by
  rw [Hw.completePlace] at hp
  by_cases hq : q = a
  · subst hq
    rw [Hw.queue_onQueue_same] at hp
    obtain ⟨hin, hne⟩ := List.mem_filter.mp hp
    exact ⟨hin, fun _ => by simpa using hne⟩
  · have hother : (h.onQueue a (fun x => { x with running := x.running.filter (fun p => p != place) })).queue q = h.queue q :=
      h.queue_setQueue_other a hq _
    rw [hother] at hp
    exact ⟨hp, fun heq => absurd heq hq⟩

theorem Hw.running_completePlaces (ps : List (Nat × Nat)) (h : Hw) (q : Nat) {p : Nat}
    (hp : p ∈ ((ps.foldl (fun h p => h.completePlace p.1 p.2) h).queue q).running) : p ∈ (h.queue q).running := by
  induction ps generalizing h with
  | nil => exact hp
  | cons x ps ih => exact (h.running_completePlace x.1 x.2 q (ih _ hp)).1

theorem Hw.left_dropRefine (hq : r'.q = r.q) (hplace : r'.place = r.place) (honly : r ∈ h.refines → r = r') : (h.dropRefine r').Left r := by
  let g : Hw := { h with refines := h.refines.filter (fun x => x != r') }
  have hrefines : (h.dropRefine r').refines = h.refines.filter (fun x => x != r') := by
    obtain ⟨-, hrefines, -⟩ := ((g.onlyQueues_onQueue r'.q _).trans (Hw.onlyQueues_completePlaces (g.completePlace r'.q r'.place) r'.awaited)).leaves
    exact hrefines
  refine ⟨fun hin => ?_, fun hrun => ?_⟩
  · rw [hrefines] at hin
    obtain ⟨hin, hne⟩ := List.mem_filter.mp hin
    simp [honly hin] at hne
  · have hrun' := Hw.running_completePlaces r'.awaited (g.completePlace r'.q r'.place) r.q hrun
    exact (g.running_completePlace r'.q r'.place r.q hrun').2 hq.symm hplace.symm

theorem Hw.mem_dropRefine (h : Hw) (r : Refine) : (h.dropRefine r).mem = h.mem := by
  have hplaces (ps : List (Nat × Nat)) (h : Hw) : (ps.foldl (fun h p => h.completePlace p.1 p.2) h).mem = h.mem := by
    induction ps generalizing h with
    | nil => rfl
    | cons p ps ih => exact ih _
  rw [Hw.dropRefine, hplaces]
  rfl

theorem Hw.exitRefine_eq (h : Hw) (r : Refine) (code : Nat) :
    h.exitRefine r code = (h.writeVa ((h.queue r.q).master r.q) (h.queue r.q).rootpa (fieldAt r.bytes 80 8)
      (h.exitFields r code).flatten).2.dropRefine r := by
  rw [Hw.exitRefine, Hw.exitFields]
  simp only [List.flatten_cons, List.flatten_nil, List.append_nil, List.append_assoc]

theorem Hw.left_exitRefine (hq : r'.q = r.q) (hplace : r'.place = r.place) (honly : r ∈ h.refines → r = r') (code : Nat) :
    (h.exitRefine r' code).Left r := by
  rw [Hw.exitRefine_eq]
  refine Hw.left_dropRefine hq hplace fun hin => honly ?_
  obtain ⟨-, hrefines, -⟩ := (h.onlyAccess_writeVa ((h.queue r'.q).master r'.q) (h.queue r'.q).rootpa (fieldAt r'.bytes 80 8)
    (h.exitFields r' code).flatten).onlyQueues.leaves
  rwa [hrefines] at hin

/-- A range within one page of memory may be written by a queue's master (R97, R104, R105). -/
def Hw.Writable (h : Hw) (x : HQueue) (q va n pa : Nat) : Prop :=
  h.errs = [] ∧ h.stall = false ∧ h.paOf x.rootpa va false = some pa ∧ paTarget pa = .line ∧ va % 65536 + n ≤ 65536
    ∧ (∀ e ∈ h.entriesFrom va 4 0 x.rootpa, h.barAt (x.master q) opRead e = none)
    ∧ ∀ c ∈ lineCuts (n / 64 + 2) pa n, h.barAt (x.master q) opWrite c.1 = none ∧ (c.2 = 64 ∨ (h.lineOf c.1).bad = false)

theorem Hw.Writable.writeVa {x : HQueue} {va n pa : Nat} {bs : List Byte} (hwritable : h.Writable x q va n pa) (w : h.Ok)
    (hlen : bs.length = n) (hn : n ≠ 0) : ∃ g, h.writeVa (x.master q) x.rootpa va bs = (true, g) ∧ h.Wrote g pa bs := by
  obtain ⟨herrs, -, hpa, hline, hfit, htables, hcuts⟩ := hwritable
  subst hlen
  exact Hw.writeVa_within w herrs hpa hline (fun hnil => hn (congrArg List.length hnil)) hfit htables hcuts

/-- A block that exits writes its result record (R356). -/
theorem Hw.exitRefine_says (w : h.Ok) {pa code : Nat} (hcode : code < 256)
    (hwritable : h.Writable (h.queue r.q) r.q (fieldAt r.bytes 80 8) 64 pa) :
    RecordSays (fun o n => (h.exitRefine r code).num (pa + o) n) (h.refineState r.q r.bytes) r.thr h.tick code := by
  have hlen := h.exitFields_length r code
  obtain ⟨g, hwrite, hwrote⟩ := hwritable.writeVa w hlen (by omega)
  have hnum {o n : Nat} (hn : o + n ≤ 64) : (h.exitRefine r code).num (pa + o) n = fieldAt (h.exitFields r code).flatten o n := by
    rw [Hw.exitRefine_eq, hwrite, Hw.num_congr (g.mem_dropRefine r)]
    exact hwrote.num (by rw [hlen]; exact hn)
  have hsays := h.exitFields_says r hcode
  simp only [RecordSays, hnum (show 0 + 1 ≤ 64 by omega), hnum (show 1 + 1 ≤ 64 by omega), hnum (show 2 + 2 ≤ 64 by omega),
    hnum (show 4 + 4 ≤ 64 by omega), hnum (show 8 + 4 ≤ 64 by omega), hnum (show 12 + 4 ≤ 64 by omega), hnum (show 16 + 8 ≤ 64 by omega),
    hnum (show 24 + 4 ≤ 64 by omega), hnum (show 28 + 4 ≤ 64 by omega), hnum (show 32 + 8 ≤ 64 by omega), hnum (show 40 + 24 ≤ 64 by omega)]
  exact hsays

end

end Sys2Proof.Machine
end

section
/-! SUPPORT. What follows the run of a REFINE block, and the statement about it (R353-R356). -/

namespace Sys2Proof.Machine

/-! ### What the blocks do not change -/

section
variable {h : Hw} {q : Nat} (old new : Refine)

theorem Hw.barAt_setRefine (h : Hw) (m : Master) (op pa : Nat) : (h.setRefine old new).barAt m op pa = h.barAt m op pa :=
  Hw.barAt_congr (g := h.setRefine old new) (h := h) (fun _ => rfl) (fun _ => rfl) rfl rfl rfl rfl rfl m op pa

theorem Hw.entriesFrom_setRefine (h : Hw) (va f level table : Nat) : (h.setRefine old new).entriesFrom va f level table = h.entriesFrom va f level table :=
  Hw.entriesFrom_congr (g := h.setRefine old new) (h := h) rfl va f level table

theorem Hw.paOf_setRefine (h : Hw) (root va : Nat) (write : Bool) : (h.setRefine old new).paOf root va write = h.paOf root va write := by
  rw [Hw.paOf, Hw.paOf, Hw.walkRoot, Hw.walkRoot, Hw.walkFrom_congr (g := h.setRefine old new) (h := h) rfl]

theorem Hw.pagesOf_setRefine (h : Hw) (root va n : Nat) (write : Bool) : (h.setRefine old new).pagesOf root va n write = h.pagesOf root va n write := by
  simp only [Hw.pagesOf, Hw.paOf_setRefine]

theorem Hw.readGrant_setRefine (h : Hw) (q va n : Nat) : (h.setRefine old new).readGrant q va n = h.readGrant q va n := by
  have hentries : (h.setRefine old new).entriesFrom = h.entriesFrom := funext fun va => funext₃ (Hw.entriesFrom_setRefine old new h va)
  have hbar : (h.setRefine old new).barAt = h.barAt := funext₃ (Hw.barAt_setRefine old new h)
  have hplaces (root : Nat) : (h.setRefine old new).readPlaces root va n = h.readPlaces root va n := by
    rw [Hw.readPlaces, Hw.readPlaces, Hw.pagesOf_setRefine, hentries]
  have hmay (m : Master) (root : Nat) : (h.setRefine old new).mayRead m root va n = h.mayRead m root va n := by
    rw [Hw.mayRead, Hw.mayRead, Hw.pagesOf_setRefine, hplaces, hbar]
  have hread (root : Nat) : (h.setRefine old new).readVa root va n = h.readVa root va n := by
    have hbytes : (h.setRefine old new).bytes = h.bytes := rfl
    rw [Hw.readVa, Hw.readVa, Hw.pagesOf_setRefine, hbytes]
  have hqueue : (h.setRefine old new).queue q = h.queue q := rfl
  rw [Hw.readGrant, Hw.readGrant, Hw.readAs, Hw.readAs, hqueue, hmay, hread]

theorem Hw.refineState_setRefine (h : Hw) (q : Nat) (b : List Byte) : (h.setRefine old new).refineState q b = h.refineState q b := by
  rw [Hw.refineState, Hw.refineState, Hw.readGrant_setRefine]

theorem Hw.Writable.setRefine {x : HQueue} {va n pa : Nat} (hwritable : h.Writable x q va n pa) : (h.setRefine old new).Writable x q va n pa := by
  obtain ⟨herrs, hstall, hpa, hline, hfit, htables, hcuts⟩ := hwritable
  refine ⟨herrs, hstall, (Hw.paOf_setRefine old new h _ _ _).trans hpa, hline, hfit, fun e he => ?_, fun c hc => ?_⟩
  · rw [Hw.entriesFrom_setRefine] at he
    exact (Hw.barAt_setRefine old new h _ _ _).trans (htables e he)
  · obtain ⟨hbar, hsound⟩ := hcuts c hc
    exact ⟨(Hw.barAt_setRefine old new h _ _ _).trans hbar, hsound⟩

theorem Hw.mem_setRefine {old : Refine} (hold : old ∈ h.refines) : new ∈ (h.setRefine old new).refines :=
  List.mem_map.mpr ⟨old, hold, if_pos rfl⟩

theorem Hw.eq_of_mem_setRefine (hin : old ∈ (h.setRefine old new).refines) : old = new := by
  obtain ⟨x, -, hx⟩ := List.mem_map.mp hin
  split at hx
  · exact hx.symm
  · next hne => exact absurd hx hne

end

/-! ### Blocks that a queue fault takes away -/

section
variable {h : Hw} {r : Refine}

theorem Hw.refines_discardStart {q : Nat} (hin : r ∈ (h.discardStart q).refines) : r ∈ h.refines := by
  rw [Hw.discardStart] at hin
  split at hin
  · exact hin
  · next l _ =>
    obtain ⟨-, -, hrefines, -⟩ := (Hw.onlyUnits_freeIsles ({ h.onQueue q (fun x => { x with starting := none }) with
      launches := tabDel l.lid h.launches, refines := h.refines.filter (fun r => !(r.q == q && r.lid == l.lid)) } : Hw) (l.isles.zip l.ctxs)
      l.isles false).leaves
    exact (List.mem_filter.mp ((congrArg (r ∈ ·) hrefines).mp hin)).1

theorem Hw.refines_queueFault {q : Nat} {code : BitVec 4} (hin : r ∈ (h.queueFault q code).refines) : r ∈ h.refines := by
  rw [Hw.queueFault] at hin
  let g := h.onDbSlot q (fun d => { d with halt := true, fcode := code })
  have hslot : g.refines = h.refines := by
    show (h.onDbSlot q _).refines = _
    rw [Hw.onDbSlot]
    split <;> rfl
  obtain ⟨-, hrefines, -⟩ := ((Hw.onlyQueues_onQueue (g.discardStart q) q HQueue.dropLook).trans (Hw.onlyQueues_settleUnmap _ q)).leaves
  rw [hrefines] at hin
  exact hslot ▸ Hw.refines_discardStart hin

theorem Hw.refines_putFault {q : Nat} {m : Master} {root log i frame : Nat} {inGrant : Bool} {f : FaultRec}
    (hin : r ∈ (h.putFault q m root log i frame inGrant f).refines) : r ∈ h.refines := by
  rw [Hw.putFault] at hin
  split at hin
  · exact hin
  · generalize hmet : h.meetErrs (fun h => h.mayRead m root log 4) = g at hin
    have hread : h.OnlyAccess g := hmet ▸ h.onlyAccess_meetErrs _
    have hnoted : h.OnlyAccess (if (g.readAs m root log 4).isNone = true then g.noteRead m root log 4 else g) := by
      split
      · exact hread.trans (g.onlyAccess_noteRead _ _ _ _)
      · exact hread
    have hcount := hnoted.trans (Hw.onlyAccess_writeVa _ m root (log + 4) (leBytes 4 (i + 1)))
    have hkept {k : Hw} (hk : h.OnlyAccess k) (hr : r ∈ k.refines) : r ∈ h.refines := by
      obtain ⟨-, hrefines, -⟩ := hk.onlyQueues.leaves
      rwa [hrefines] at hr
    dsimp only at hin
    split at hin
    · exact hkept hcount hin
    · split at hin
      · exact hkept (hcount.trans (Hw.onlyAccess_writeVa _ m root (log + 64 + 64 * i) (f.bytes frame))) hin
      · exact hkept hcount (Hw.refines_queueFault hin)

end

/-! ### The checks of a run -/

theorem qf_bind {α β : Type} {x : Qf α} {f : α → Qf β} {b : β} (hbind : (x >>= f) = .ok b) : ∃ a, x = .ok a ∧ f a = .ok b := by
  cases x with
  | error e => cases hbind
  | ok a => exact ⟨a, rfl, hbind⟩

/-- A launch that is no resume has no image, and asks for what its packet says (R346). -/
theorem Hw.prepLaunch_fresh {h : Hw} {q : Nat} {r : LaunchReq} {sp : Spec} (hresume : r.resume = false) (hprep : h.prepLaunch q r = .ok sp) :
    sp.image = none ∧ sp.req = r := by
  rw [Hw.prepLaunch] at hprep
  iterate 9 obtain ⟨_, -, hprep⟩ := qf_bind hprep
  dsimp only at hprep
  split at hprep
  all_goals
    obtain ⟨_, -, hprep⟩ := qf_bind hprep
    obtain ⟨_, -, hprep⟩ := qf_bind hprep
    rw [hresume, if_neg Bool.false_ne_true] at hprep
    obtain ⟨_, himage, hprep⟩ := qf_bind hprep
    obtain ⟨_, -, hprep⟩ := qf_bind hprep
    cases himage
    cases hprep
    exact ⟨rfl, rfl⟩

theorem refineReq_fresh (b : List Byte) (run : Nat) : (refineReq b run false).resume = false := by
  have hclear (m : Nat) : (m - m / 8 % 2 * 8) / 8 % 2 = 0 := by omega
  simp only [LaunchReq.resume, refineReq, Bool.false_eq_true, if_false, hclear]
  rfl

/-- A run that follows another has no image, and the run's timetable (R353). -/
theorem Hw.prepRun_fresh {h : Hw} {q : Nat} {b : List Byte} {run rung : Nat} {sp : Spec} (hprep : h.prepRun q b run rung false = .ok sp) :
    sp.image = none ∧ sp.req.ttva = runTable b run := by
  obtain ⟨sp₀, hprep₀, hprep⟩ := qf_bind hprep
  obtain ⟨himage, hreq⟩ := Hw.prepLaunch_fresh (refineReq_fresh b run) hprep₀
  have hsame : sp.image = sp₀.image ∧ sp.req = sp₀.req := by
    split at hprep
    · cases hprep
      exact ⟨rfl, rfl⟩
    · obtain ⟨_, -, hprep⟩ := qf_bind hprep
      cases hprep
      exact ⟨rfl, rfl⟩
  rw [hsame.1, hsame.2, hreq]
  exact ⟨himage, rfl⟩

theorem Hw.allocate_fixed {h : Hw} {q n lid : Nat} {sp : Spec} {isles : List Nat} (himage : sp.image = none)
    (halloc : h.allocate q sp (some n) = some (lid, isles)) : lid = n := by
  simp only [Hw.allocate, himage] at halloc
  split at halloc
  · cases halloc
  · simp only [Option.some.injEq, Prod.mk.injEq] at halloc
    exact halloc.1.symm

/-- The codes of R355 are one byte. -/
theorem refineStep_code {b st : List Byte} {sg code : Nat} (hstep : refineStep b st = (sg, .exit code)) : code < 256 := by
  have hbyte (o : Nat) : fieldAt st o 1 < 256 := by
    have hlt := leNat_lt ((st.drop o).take 1)
    have hlen : ((st.drop o).take 1).length ≤ 1 := List.length_take_le _ _
    exact Nat.lt_of_lt_of_le hlt (Nat.pow_le_pow_right (by omega) hlen)
  rw [refineStep] at hstep
  dsimp only at hstep
  rcases ite_eq_iff.mp hstep with ⟨-, hmet⟩ | ⟨-, hstep⟩
  · obtain ⟨-, hcode⟩ := Prod.mk.inj hmet
    cases hcode
    split
    · omega
    · exact hbyte _
  · rcases ite_eq_iff.mp hstep with ⟨-, hcause⟩ | ⟨-, hsolve⟩
    · obtain ⟨-, hcode⟩ := Prod.mk.inj hcause
      rcases ite_eq_iff.mp hcode with ⟨-, hcode⟩ | ⟨-, hcode⟩
      · cases hcode
        omega
      · cases hcode
    · obtain ⟨-, hcode⟩ := Prod.mk.inj hsolve
      rcases ite_eq_iff.mp hcode with ⟨-, hcode⟩ | ⟨-, hcode⟩
      · cases hcode
        omega
      · cases hcode

/-! ### The outcomes of a run that ended -/

section
variable {s : State} {q : Nat} {r r' : Refine} {k g : Hw}

/-- The end of a run of a queue's block leaves the hardware. -/
def State.RunEnds (s : State) (q : Nat) (k : Hw) : Prop := exec (.refineRunEnd q) s = .next (s.made k)

theorem refineRunEnd_makes (hfind : s.toHw.refines.find? (fun r => r.q == q && !r.going) = some r) (hroute : s.Routed (fun h => h.runEnds r))
    (hends : s.toHw.atRest.runEnds r = k) : s.RunEnds q k := by
  subst hends
  rw [State.RunEnds, exec_refineRunEnd, execRefineRunEnd, hfind]
  exact congrArg Host.Outcome.next hroute.attempt_eq

/-- The block has left with the outcome, and its packet runs no more (R345, R356). -/
theorem State.RunEnds.left (hends : s.RunEnds q k) (hleft : k.Left r) :
    ∃ u : State, exec (.refineRunEnd q) s = .next u ∧ r ∉ u.refines ∧ r.place ∉ (u.toHw.queue r.q).running :=
  ⟨_, hends, hleft⟩

/-- Two blocks are one, but for what their runs leave. -/
def Refine.Follows (r r' : Refine) : Prop := r'.q = r.q ∧ r'.place = r.place ∧ r'.bytes = r.bytes ∧ r'.lid = r.lid

/-- A block exits with its result record (R356). -/
theorem State.RunEnds.exits {x : HQueue} {code : Nat} (hends : s.RunEnds q ((g.setRefine r r').exitRefine r' code)) (hq : r.q = q)
    (hfollows : r.Follows r') (w : g.Ok) (hqueue : g.queue q = x) (htick : g.tick = s.tick) (hcode : code < 256) :
    ∃ u : State, exec (.refineRunEnd q) s = .next u ∧ (r ∉ u.refines ∧ r.place ∉ (u.toHw.queue q).running)
      ∧ ∀ pa, g.Writable x q (fieldAt r.bytes 80 8) 64 pa →
        RecordSays (fun o n => u.toHw.num (pa + o) n) (g.refineState q r.bytes) r'.thr s.tick code := by
  subst hq
  obtain ⟨hq', hplace, hbytes, -⟩ := hfollows
  refine ⟨_, hends, Hw.left_exitRefine hq' hplace (Hw.eq_of_mem_setRefine r r') code, fun pa hwritable => ?_⟩
  have hqueue' : (g.setRefine r r').queue r'.q = x := by rw [hq']; exact hqueue
  have hsays := Hw.exitRefine_says (h := g.setRefine r r') (r := r') (pa := pa) (code := code) (Hw.setRefine_ok w r r') hcode (by
    rw [hqueue', hq', hbytes]
    exact hwritable.setRefine r r')
  have hstate : (g.setRefine r r').refineState r'.q r'.bytes = g.refineState r.q r.bytes := by
    rw [hq', hbytes]
    exact Hw.refineState_setRefine r r' g r.q r.bytes
  have htick' : (g.setRefine r r').tick = s.tick := htick
  rw [hstate, htick'] at hsays
  exact hsays

theorem Hw.setRefine_self (h : Hw) (r : Refine) : h.setRefine r r = h := by
  have hsame : h.refines.map (fun x => if x = r then r else x) = h.refines := by
    refine (List.map_congr_left fun x _ => ?_).trans (List.map_id _)
    split
    · next heq => exact heq.symm
    · rfl
  rw [Hw.setRefine, hsame]

/-! ### The next run -/

/-- The checks of a block's next run, as its state block stands (R353). -/
def Hw.nextChecks (h : Hw) (r : Refine) : Qf Spec := h.prepRun r.q r.bytes r.run (fieldAt (h.refineState r.q r.bytes) 20 1) false

/-- A block whose next run the checks refuse (R355, R372). -/
def Hw.refuseRun (h : Hw) (r : Refine) (e : QErr) : Hw :=
  let x := h.queue r.q
  let f : FaultRec := { kind := 7, tick := h.tick, body := detField 32 1 e.code ||| detField 40 8 e.addr }
  let log := fieldAt r.bytes 112 8
  let i := r.nrec.toNat
  ((h.noteGrant r.q e.addr e.len).putFault r.q (x.master r.q) x.rootpa log i 0 (x.grants (log + 64 + 64 * i) 64 pSt) f).exitRefine r 5

/-- A block whose next run may begin, on the isles that it takes (R353). -/
def Hw.beginRun (h : Hw) (r : Refine) (sp : Spec) : Option (Nat × List Nat) → Hw
  | none => h
  | some (lid, isles) => ((h.setRefine r { r with going := true, preempt := none, awaited := [] }).startLaunch r.q r.place lid sp isles
      (some r)).getD h

theorem Hw.nextRun_refused {e : QErr} (herrs : k.errs = []) (hchecks : k.nextChecks r' = .error e) : k.nextRun r' = k.refuseRun r' e := by
  rw [Hw.nextChecks] at hchecks
  unfold Hw.nextRun
  dsimp only
  rw [Hw.meetErrs_of_clear herrs, hchecks]
  rfl

theorem Hw.nextRun_allocates {sp : Spec} (herrs : k.errs = []) (hchecks : k.nextChecks r' = .ok sp) :
    k.nextRun r' = k.beginRun r' sp (k.allocate r'.q sp (some r'.lid)) := by
  rw [Hw.nextChecks] at hchecks
  unfold Hw.nextRun
  dsimp only
  rw [Hw.meetErrs_of_clear herrs, hchecks]
  dsimp only
  split
  · next hnone => rw [hnone]; rfl
  · next lid isles hsome =>
    rw [hsome, Hw.beginRun]
    split
    · next g hg => rw [hg]; rfl
    · next hg => rw [hg]; rfl

theorem Hw.left_refuseRun {e : QErr} (hq : r'.q = r.q) (hplace : r'.place = r.place) (honly : r ∈ k.refines → r = r') :
    (k.refuseRun r' e).Left r := by
  refine Hw.left_exitRefine hq hplace (fun hin => honly ?_) 5
  obtain ⟨-, hrefines, -⟩ := (k.onlyAccess_noteGrant r'.q e.addr e.len).onlyQueues.leaves
  exact hrefines ▸ Hw.refines_putFault hin

/-- A block's next run begins on its isles (R353). -/
theorem Hw.nextRun_begins {sp : Spec} {lid : Nat} {isles : List Nat} (herrs : k.errs = []) (hchecks : k.nextChecks r' = .ok sp)
    (halloc : k.allocate r'.q sp (some r'.lid) = some (lid, isles)) (hin : r' ∈ k.refines) :
    ({ r' with going := true, preempt := none, awaited := [] } : Refine) ∈ (k.nextRun r').refines
      ∧ ∃ l, (k.nextRun r').launch? r'.lid = some l ∧ l.isles = isles ∧ l.place = r'.place ∧ l.st = .boundary
        ∧ l.ttva = runTable r'.bytes r'.run := by
  obtain ⟨himage, httva⟩ := Hw.prepRun_fresh hchecks
  obtain rfl := Hw.allocate_fixed himage halloc
  obtain ⟨g, l, hstart, hl, -, hrefines, -, -, hplace, hisles, -, -, htable, hst, -⟩ :=
    (k.setRefine r' { r' with going := true, preempt := none, awaited := [] }).startLaunch_begins r'.q r'.place r'.lid isles (some r') himage
  have hnext : k.nextRun r' = g := by rw [Hw.nextRun_allocates herrs hchecks, halloc, Hw.beginRun, hstart]; rfl
  rw [hnext]
  refine ⟨?_, l, hl, hisles, hplace, hst, htable.trans httva⟩
  rw [hrefines]
  exact Hw.mem_setRefine _ hin

/-- The next run of a block is refused, waits for isles, or begins (R353). -/
theorem State.RunEnds.goes (hends : s.RunEnds q (k.nextRun r')) (hq : r.q = q) (hfollows : r.Follows r') (hin : r' ∈ k.refines)
    (honly : r ∈ k.refines → r = r') (herrs : k.errs = []) :
    (∀ e, k.prepRun q r.bytes r'.run (fieldAt (k.refineState q r.bytes) 20 1) false = .error e →
      ∃ u : State, exec (.refineRunEnd q) s = .next u ∧ r ∉ u.refines ∧ r.place ∉ (u.toHw.queue q).running)
    ∧ ∀ sp, k.prepRun q r.bytes r'.run (fieldAt (k.refineState q r.bytes) 20 1) false = .ok sp →
      (k.allocate q sp (some r.lid) = none → ∃ u : State, exec (.refineRunEnd q) s = .next u ∧ r' ∈ u.refines)
      ∧ ∀ lid isles, k.allocate q sp (some r.lid) = some (lid, isles) →
        ∃ (u : State) (y : Refine) (l : Launch), exec (.refineRunEnd q) s = .next u ∧ y ∈ u.refines
          ∧ y = { r' with going := true, preempt := none, awaited := [] } ∧ u.toHw.launch? r.lid = some l ∧ l.isles = isles
          ∧ l.place = r.place ∧ l.st = .boundary ∧ l.ttva = runTable r.bytes r'.run := by
  subst hq
  obtain ⟨hq, hplace, hbytes, hlid⟩ := hfollows
  have hchecks : k.prepRun r.q r.bytes r'.run (fieldAt (k.refineState r.q r.bytes) 20 1) false = k.nextChecks r' := by
    rw [Hw.nextChecks, hq, hbytes]
  rw [hchecks]
  refine ⟨fun e hchecks => hends.left (Hw.nextRun_refused herrs hchecks ▸ Hw.left_refuseRun hq hplace honly), fun sp hchecks => ?_⟩
  rw [← hlid]
  rw [← hq] at hends ⊢
  refine ⟨fun halloc => ?_, fun lid isles halloc => ?_⟩
  · rw [Hw.nextRun_allocates herrs hchecks, halloc] at hends
    exact ⟨_, hends, hin⟩
  · obtain ⟨hy, l, hl, hisles, hat, hst, htable⟩ := Hw.nextRun_begins herrs hchecks halloc hin
    exact ⟨_, _, l, hends, hy, rfl, hl, hisles, hat.trans hplace, hst, hbytes ▸ htable⟩

end

end Sys2Proof.Machine
end

section
/-! SUPPORT. The statement about the runs of a REFINE block (R353-R356). -/

namespace Sys2Proof.Machine

/-! ### What follows a run -/

/-- What the controller does once it has decided on a block's next run: the state block is written, and the run is due (R354, R405). -/
def Hw.goOn (h : Hw) (r r₁ : Refine) (k rung stag next : Nat) (fresh : Bool) (prev : Nat) (causes : List Nat) : Hw :=
  let w := h.writeRefine r k rung stag next fresh prev causes
  let r' := { r₁ with run := next, ended := none, stateOk := w.1 }
  if w.1 then (w.2.setRefine r r').nextRun r' else (w.2.setRefine r r').exitRefine r' 5

/-- The causes that a state block keeps (R354). -/
def causesOf (st : List Byte) : List Nat := (List.range 4).map (fun i => fieldAt st (28 + i) 1)

section
variable {h : Hw} {r : Refine}

theorem Hw.afterRun_other (hrun : r.run ≠ 2) :
    h.afterRun r = (let st := h.refineState r.q r.bytes
      h.goOn r r (if r.run = 3 then fieldAt st 16 4 + 1 else fieldAt st 16 4) (fieldAt st 20 1) (fieldAt st 21 1) (if r.run = 1 then 2 else 1)
        (fieldAt st 23 1 % 2 == 1) (fieldAt st 24 4) (causesOf st)) := by
  unfold Hw.afterRun
  dsimp only
  rw [if_pos (by simpa using hrun)]
  rfl

/-- A block with the threshold that its state block gives (R355). -/
def Refine.judged (r : Refine) (st : List Byte) : Refine := { r with thr := f64Of (refineThr r.bytes st) }

theorem Hw.afterRun_fact {sg c : Nat} (hrun : r.run = 2) (hstep : refineStep r.bytes (h.refineState r.q r.bytes) = (sg, .fact c)) :
    h.afterRun r = (let st := h.refineState r.q r.bytes
      h.goOn r (r.judged st) (fieldAt st 16 4) (fieldAt st 20 1 + 1) 0 0 true (fieldAt st 24 4) ((causesOf st).set (fieldAt st 20 1) c)) := by
  unfold Hw.afterRun
  dsimp only
  rw [if_neg (by simp [hrun]), hstep]
  rfl

theorem Hw.afterRun_solve {sg : Nat} (hrun : r.run = 2) (hstep : refineStep r.bytes (h.refineState r.q r.bytes) = (sg, .solve)) :
    h.afterRun r = (let st := h.refineState r.q r.bytes
      h.goOn r (r.judged st) (fieldAt st 16 4) (fieldAt st 20 1) sg 3 false (fieldAt st 0 4) (causesOf st)) := by
  unfold Hw.afterRun
  dsimp only
  rw [if_neg (by simp [hrun]), hstep]
  rfl

theorem Hw.afterRun_exit {sg code : Nat} (hrun : r.run = 2) (hstep : refineStep r.bytes (h.refineState r.q r.bytes) = (sg, .exit code)) :
    h.afterRun r = (let st := h.refineState r.q r.bytes
      let w := h.writeRefine r (fieldAt st 16 4) (fieldAt st 20 1) sg 2 (fieldAt st 23 1 % 2 == 1) (fieldAt st 24 4) (causesOf st)
      (w.2.setRefine r (r.judged st)).exitRefine (r.judged st) (if w.1 then code else 5)) := by
  unfold Hw.afterRun
  dsimp only
  rw [if_neg (by simp [hrun]), hstep]
  rfl

/-! Where nothing bars the reading of the state block, the outcome of the run decides (R353-R356). -/

section
variable (herrs : h.errs = []) (hread : (h.readGrant r.q (fieldAt r.bytes 72 8) 64).isSome = true)
include herrs hread

theorem Hw.runEnds_due (hend : r.ended = none) : h.runEnds r = h.nextRun r := by
  unfold Hw.runEnds
  simp only [Hw.meetErrs_of_clear herrs, hread, hend, if_true]

theorem Hw.runEnds_stopped (hend : r.ended = some 3) : h.runEnds r = h.stopRefine r := by
  unfold Hw.runEnds
  simp only [Hw.meetErrs_of_clear herrs, hread, hend, if_true]

theorem Hw.runEnds_failed {v : BitVec 8} (hend : r.ended = some v) (hv : v ≠ 3) (hfail : v ≠ 1 ∨ r.stateOk = false) :
    h.runEnds r = h.exitRefine r 5 := by
  have hlost : (v != 1 || !r.stateOk) = true := by simpa using hfail
  unfold Hw.runEnds
  simp only [Hw.meetErrs_of_clear herrs, hread, hend, if_true, hv, if_false, hlost]

theorem Hw.runEnds_completed (hend : r.ended = some 1) (hstate : r.stateOk = true) : h.runEnds r = h.afterRun r := by
  have hkept : ((1 : BitVec 8) != 1 || !r.stateOk) = false := by rw [hstate]; rfl
  unfold Hw.runEnds
  simp only [Hw.meetErrs_of_clear herrs, hread, hend, if_true, show (1 : BitVec 8) ≠ 3 by decide, if_false, hkept, Bool.false_eq_true]

end

theorem Hw.left_stopRefine : (h.stopRefine r).Left r := by
  rw [Hw.stopRefine]
  generalize h.writeVa ((h.queue r.q).master r.q) (h.queue r.q).rootpa (fieldAt r.bytes 72 8 + 16)
    ((h.refineState r.q r.bytes).drop 16) = w
  obtain ⟨ok, g⟩ := w
  dsimp only
  split
  · exact Hw.left_dropRefine rfl rfl fun _ => rfl
  · exact Hw.left_exitRefine rfl rfl (fun _ => rfl) 5

end

/-! ### The clauses -/

section
variable {s : State} {r r₁ : Refine} {g : Hw}

/-- What stands once a state block is written (R354). -/
theorem writeRefine_leaves {k rung stag next prev : Nat} {fresh ok : Bool} {causes : List Nat} (hinv : s.Inv)
    (hwrite : s.toHw.atRest.writeRefine r k rung stag next fresh prev causes = (ok, g)) :
    g.Ok ∧ g.queue r.q = s.toHw.queue r.q ∧ g.tick = s.tick ∧ g.refines = s.toHw.refines := by
  have haccess := s.toHw.atRest.onlyAccess_writeRefine r k rung stag next fresh prev causes
  have hok := Hw.writeRefine_ok (h := s.toHw.atRest) hinv r k rung stag next fresh prev causes
  rw [hwrite] at haccess hok
  obtain ⟨-, hrefines, -, -, htick, -⟩ := haccess.onlyQueues.leaves
  exact ⟨hok, haccess.onlyUnits.queue r.q, htick, hrefines⟩

/-- A block whose state block is written goes on with its next run (R353, R354). -/
theorem goOn_goes {k rung stag next prev : Nat} {fresh : Bool} {causes : List Nat} (hinv : s.Inv)
    (hends : s.RunEnds r.q (s.toHw.atRest.goOn r r₁ k rung stag next fresh prev causes)) (hfollows : r.Follows r₁)
    (hr : r ∈ s.toHw.refines) (hwrite : s.toHw.atRest.writeRefine r k rung stag next fresh prev causes = (true, g)) :
    let r' := { r₁ with run := next, ended := none, stateOk := true }
    s.RunEnds r.q ((g.setRefine r r').nextRun r') ∧ r.Follows r' ∧ r' ∈ (g.setRefine r r').refines
      ∧ (r ∈ (g.setRefine r r').refines → r = r') := by
  obtain ⟨-, -, -, hrefines⟩ := writeRefine_leaves hinv hwrite
  refine ⟨?_, hfollows, Hw.mem_setRefine _ (hrefines ▸ hr), Hw.eq_of_mem_setRefine _ _⟩
  rw [Hw.goOn, hwrite] at hends
  dsimp only at hends
  rw [if_pos rfl] at hends
  exact hends

/-- A block whose state block could not be written exits with 5 (R405). -/
theorem goOn_exits {k rung stag next prev : Nat} {fresh : Bool} {causes : List Nat}
    (hends : s.RunEnds r.q (s.toHw.atRest.goOn r r₁ k rung stag next fresh prev causes))
    (hwrite : s.toHw.atRest.writeRefine r k rung stag next fresh prev causes = (false, g)) :
    let r' := { r₁ with run := next, ended := none, stateOk := false }
    s.RunEnds r.q ((g.setRefine r r').exitRefine r' 5) := by
  rw [Hw.goOn, hwrite] at hends
  dsimp only at hends
  rw [if_neg Bool.false_ne_true] at hends
  exact hends

/-- A NORM run after which the block exits: its code, or 5 where its state block could not be written (R355, R405). -/
theorem runEnds_exits_written {k rung stag next prev code : Nat} {fresh ok : Bool} {causes : List Nat}
    (hwrite : s.toHw.atRest.writeRefine r k rung stag next fresh prev causes = (ok, g))
    (hends : s.RunEnds r.q (((s.toHw.atRest.writeRefine r k rung stag next fresh prev causes).2.setRefine r r₁).exitRefine r₁
      (if (s.toHw.atRest.writeRefine r k rung stag next fresh prev causes).1 then code else 5))) :
    s.RunEnds r.q ((g.setRefine r r₁).exitRefine r₁ (if ok then code else 5)) := by
  rw [hwrite] at hends
  exact hends

end

/-- Settles O58: what follows each outcome of a run (`Hw.runEnds_completed` and its fellows, `Hw.afterRun_other`, `_fact`, `_solve`,
`_exit`) leads to one of two ends: the next run (`State.RunEnds.goes`) or the exit with its record (`State.RunEnds.exits`). -/
theorem refineRunsEnd : Obligations.RefineRunsEnd := by
  unfold Obligations.RefineRunsEnd
  intro s q r h x st k rung stag fresh prev causes leaves gone writable exits goes hinv herrs hfind hread hroute
  obtain rfl : r.q = q := by
    have hpick := List.find?_some hfind
    simp only [Bool.and_eq_true, beq_iff_eq] at hpick
    exact hpick.1
  have hr : r ∈ s.toHw.refines := List.mem_of_find?_eq_some hfind
  have hself : r.Follows r := ⟨rfl, rfl, rfl, rfl⟩
  have hmakes {k : Hw} (hends : s.toHw.atRest.runEnds r = k) : s.RunEnds r.q k := refineRunEnd_makes hfind hroute hends
  have hgo {k' rung' sg run' prev' : Nat} {fresh' : Bool} {causes' : List Nat} {r₁ : Refine} {g : Hw} (hfollows : r.Follows r₁)
      (hends : s.RunEnds r.q (s.toHw.atRest.goOn r r₁ k' rung' sg run' fresh' prev' causes')) :
      (h.writeRefine r k' rung' sg run' fresh' prev' causes' = (true, g) →
        goes (g.setRefine r { r₁ with run := run', ended := none, stateOk := true }) { r₁ with run := run', ended := none, stateOk := true })
      ∧ (h.writeRefine r k' rung' sg run' fresh' prev' causes' = (false, g) → exits g r₁.thr 5) := by
    refine ⟨fun hwrite hclear => ?_, fun hwrite => ?_⟩
    · obtain ⟨hnext, hfollows', hin, honly⟩ := goOn_goes hinv hends hfollows hr hwrite
      exact hnext.goes rfl hfollows' hin honly hclear
    · obtain ⟨hok, hqueue, htick, -⟩ := writeRefine_leaves hinv hwrite
      exact (goOn_exits hends hwrite).exits rfl hfollows hok hqueue htick (by omega)
  refine ⟨fun hend hclear => ?_, fun hend => ?_, fun v hend hv hfail => ?_, fun hend hstate => ⟨fun sg code g hrun hstep => ?_, ?_⟩⟩
  · exact (hmakes (Hw.runEnds_due herrs hread hend)).goes rfl hself hr (fun _ => rfl) hclear
  · exact (hmakes (Hw.runEnds_stopped herrs hread hend)).left Hw.left_stopRefine
  · have hends := hmakes (Hw.runEnds_failed herrs hread hend hv hfail)
    rw [← Hw.setRefine_self s.toHw.atRest r] at hends
    exact hends.exits rfl hself hinv rfl rfl (by omega)
  · have hends := hmakes ((Hw.runEnds_completed (h := s.toHw.atRest) herrs hread hend hstate).trans (Hw.afterRun_exit hrun hstep))
    have hcode := refineStep_code hstep
    refine ⟨fun hwrite => ?_, fun hwrite => ?_⟩
    · obtain ⟨hok, hqueue, htick, -⟩ := writeRefine_leaves hinv hwrite
      exact (runEnds_exits_written hwrite hends).exits rfl hself hok hqueue htick hcode
    · obtain ⟨hok, hqueue, htick, -⟩ := writeRefine_leaves hinv hwrite
      exact (runEnds_exits_written hwrite hends).exits (code := 5) rfl hself hok hqueue htick (by omega)
  · have hdone := Hw.runEnds_completed (h := s.toHw.atRest) herrs hread hend hstate
    have hother (hrun : r.run ≠ 2) := hmakes (hdone.trans (Hw.afterRun_other hrun))
    rintro k' rung' sg run' fresh' prev' causes' r₁ g (⟨hrun, rfl, rfl, rfl, rfl, rfl, rfl, rfl, rfl⟩ | ⟨hrun, rfl, rfl, rfl, rfl, rfl, rfl, rfl, rfl⟩
      | ⟨hrun, rfl, rfl, rfl, rfl, rfl, rfl, rfl, rfl⟩ | ⟨hrun, ⟨a, c, hstep, rfl⟩, rfl, rfl, rfl, rfl, rfl, rfl, rfl⟩
      | ⟨hrun, hstep, rfl, rfl, rfl, rfl, rfl, rfl, rfl⟩)
    · have hends := hother (by omega)
      rw [hrun] at hends
      exact hgo hself hends
    · have hends := hother (by omega)
      rw [hrun] at hends
      exact hgo hself hends
    · have hends := hother (by omega)
      rw [hrun] at hends
      exact hgo hself hends
    · exact hgo ⟨rfl, rfl, rfl, rfl⟩ (hmakes (hdone.trans (Hw.afterRun_fact hrun hstep)))
    · exact hgo ⟨rfl, rfl, rfl, rfl⟩ (hmakes (hdone.trans (Hw.afterRun_solve hrun hstep)))

end Sys2Proof.Machine
end
